-- ==== Sys2Proof/Word.lean ====
section
/-!
DEFINITION. The plainest word types of the S64 model: a byte, and the tick of R15.
-/
namespace Sys2Proof

/-- One byte of a payload, a buffer or a stored position. -/
abbrev Byte := BitVec 8

/-- One tick is 250 ps of device time (R15). A tick is a count, so it is a natural number. -/
abbrev Tick := Nat

end Sys2Proof
end

