-- ==== Sys2Proof/Terms.lean ====
section
/-!
DEFINITION. The operands of the commands: what a submission entry, a link request, a host read, a boot
environment and the other inputs from outside the block look like.
-/
namespace Sys2Proof

/-- A submission entry of R463, as the S64 holds it after the fetch. `params` is bytes 16 to 63 as one
little-endian number (byte 16 is the least significant), and `tick` is the tick of its doorbell (R141). -/
structure Sqe where
  ring : Nat
  opcode : Nat
  flags : Nat
  cls : Nat
  tag : Nat
  paramLen : Nat
  event : Nat
  params : Nat
  tick : Tick
  deriving DecidableEq, Repr

/-- What a read of host memory by the S64 gives (R454, R471). -/
inductive HostRead where
  | data (bytes : List Byte)
  | badRequest      -- Unsupported Request or Completer Abort
  | noCompletion    -- no completion within the programmed timeout
  deriving DecidableEq, Repr

/-- The reset and power input pins the start-up waits for (R58). -/
inductive ResetPin where
  | resetN
  | perstN
  deriving DecidableEq, Repr

/-- A field of the PCIe configuration space that a rule of the specification names (R450 to R453, R460, R622). -/
inductive CfgItem where
  | deviceId | classCode | revisionId | serialNumber | bar0 | bar2
  | msixEnable | msixFunctionMask | maxPayload | maxReadRequest | completionTimeout | noSnoopEnable
  | aspmL1 | commonClock | powerState | ptmEnable
  | aerUncorrStatus | aerUncorrMask | aerUncorrSeverity
  deriving DecidableEq, Repr

/-- A configuration request (R88): a read, or a write of a value. -/
inductive CfgAccess where
  | read (i : CfgItem)
  | write (i : CfgItem) (v : Nat)
  deriving DecidableEq, Repr

/-- Who writes a register (R22): RWA fields take effect only for Anvil. -/
inductive Requester where
  | host
  | serviceCore
  | anvil
  deriving DecidableEq, Repr

/-- A memory request that BAR0 does not accept (R457): a read, a write, or an AtomicOp. -/
inductive BadAccess where
  | read
  | write
  | atomicOp
  deriving DecidableEq, Repr

/-- What the environment answers during steps 4 to 11 of R86, or 3 to 10 of R98: the layers that answer in
discovery, whether the patch digest matches (R525), pseudo-channels whose fill reports errors (R412), units that
fail power-on BIST (bit masks, R576), whether the device-region seal holds (R98 step 9), and the last
step, numbered as in R86, that this command carries out: 11 for the whole sequence, less where other commands come in between. -/
structure BootInput where
  crucible : Bool
  layers : Nat
  patchOk : Bool
  fillBad : Nat
  bistBench : Nat
  bistEngine : Nat
  bistMc : Nat
  bistPort : Nat
  bistQms : Nat
  sealOk : Bool
  stop : Nat
  deriving DecidableEq, Repr

/-- A service firmware image (R544). The verdicts of the cryptographic checks are inputs: `keyDigest` is the
SHA-384 digest of PUBKEY, `sigOk` is check 5 of R545 and `bodyOk` is check 6. `headerDigest` is the SHA-384 of
header bytes 0 to 271 (R551). -/
structure FwImage where
  length : Nat
  bodyLen : Nat
  formOk : Bool
  version : Nat
  secVersion : Nat
  grades : Nat
  esOnly : Bool
  keyDigest : Nat
  sigOk : Bool
  bodyOk : Bool
  headerDigest : Nat
  deriving DecidableEq, Repr

/-- What the host read of a firmware image gives (R471, R545). -/
inductive ImageRead where
  | image (i : FwImage)
  | badRequest
  | noCompletion
  deriving DecidableEq, Repr

/-- How the macro answers the pulses of a fuse command (R539): every word verifies; the word at this index of the
command fails its strict-margin verify after 3 retries and ends up with the bits `blown` of those requested; or the
word at this index is still being pulsed. -/
inductive FuseOutcome where
  | verified
  | verifyFailed (index blown : Nat)
  | pulsing (index : Nat)
  deriving DecidableEq, Repr

/-- A new sensing of the fuse array (R538): the words that drift has made marginal, and those that it has made to differ from their latched
values. -/
structure Resense where
  marginal : List Nat
  differ : List Nat
  deriving DecidableEq, Repr

/-- One sensor's conversion at a sample (R556): its trimmed reading in 1/64 °C and whether its reference
conversion is within 2 °C. -/
structure SensorInput where
  sensor : Nat
  reading : Int
  refOk : Bool
  deriving DecidableEq, Repr

/-- One thermal sample (R557): the sensors' conversions and the estimate E of the stack model for each layer index
(R559: the model's coefficients are the vendor's own, so E is an input). -/
structure ThermalInput where
  sensors : List SensorInput
  estimate : List (Nat × Int)
  tick : Tick
  deriving DecidableEq, Repr

/-- A sideband write as received up to its STOP (R597): the bytes after the command code, the PEC byte among them where one was sent. -/
structure SbWrite where
  bytes : List Byte
  deriving DecidableEq, Repr

/-- What the boot EEPROM answers (R603): no acknowledge, or 32 bytes. -/
inductive EepromAnswer where
  | noAck
  | bytes (b : List Byte)
  deriving DecidableEq, Repr

/-- How a notification on the bus ends (R602, R607). -/
inductive BusResult where
  | acknowledged
  | notAcknowledged
  | arbitrationLost
  deriving DecidableEq, Repr

/-- A unit kind of the self-test chapter (R498, R575). -/
inductive UnitKind where
  | engine | bench | controller | portCore | qmSlice
  deriving DecidableEq, Repr

/-- What a calibration hold measures (R588): the new delay fields of the pseudo-channel as (field bit offset, value)
pairs of registers relative to its register block, the TSVs found below 16 fine steps as (group, position), and
whether a window after step 3 stays below 12 fine steps. -/
structure CalInput where
  delays : List (Nat × Nat)
  failedTsvs : List (Nat × Nat)
  narrow : Bool
  deriving DecidableEq, Repr

/-- How a host memory read of a descriptor ends (R508, R512). -/
inductive DescriptorRead where
  | data (bytes : List Byte)
  | badRequest
  | noCompletion
  deriving DecidableEq, Repr

/-- The first error of a bulk-mover transfer (R512), by its cause. -/
inductive HaltCause where
  | badRequest
  | refusedDescriptor
  | noCompletion
  | notPermitted
  | uncorrectable
  | chainLimit
  | internal
  deriving DecidableEq, Repr

/-! ### Operands of the data path -/

/-- A data-path request (R195) as the port received it, its CRC passed: the port, the tick of its header (R141), the
header's bytes and fields, its payload, whether its sender held the credits it needs (R205, R226), whether its CRC has failed twice
(R199), and its number in the port's stream, by which two requests with the same bytes are told apart. Byte 1 holds CLASS, HINT and two
reserved bits, byte 2 REPLY and FLAGS. -/
structure Req where
  port : Nat
  tick : Tick
  opcode : Nat
  b1 : Nat
  b2 : Nat
  arg : Nat
  tag : Nat
  length : Nat
  object : Nat
  payload : List Byte
  credited : Bool
  corrupt : Bool
  id : Nat
  deriving DecidableEq, Repr

/-- A received codeword (R189): the tick at which it leaves the deserialiser, and its 272 symbols as they were received. -/
structure Codeword where
  tick : Tick
  symbols : List Nat
  deriving DecidableEq, Repr

/-- A received training frame (R163): whether its marker was found, whether it starts at −3 (an inverted lane), and
its 64-bit control field; and what the lane's receiver has measured: its symbol errors in the last 200 µs (R166, `none` before there is such
a window), and the request it wants to make of the partner's transmitter next, as (REQ_TAP, REQ_DIR, REQ_PRESET). -/
structure Frame where
  marker : Bool
  inverted : Bool
  control : Nat
  errors : Option Nat
  want : Nat × Bool × Nat
  deriving DecidableEq, Repr

/-- What the receivers of a port have measured when a training state ends: the lanes that have reached the state's
goal (CDR_LOCK: locked; DESKEW: aligned, R165), the fixed latency (R170), each lane's CTLE setting and its 12 DFE taps (R160), and
whether the partner has found framing too (R165). -/
structure TrainInput where
  lanes : Nat
  latency : Nat
  ctle : List Nat
  dfe : List (List Int)
  partnerFramed : Bool
  deriving DecidableEq, Repr

/-- The six ports of a memory controller (R385). -/
inductive MemPort where
  | tm | qr | qw | hb | ca | fs
  deriving DecidableEq, Repr

/-- A sector request (R379, R381): its pseudo-channel, place and port, whether it writes, the words it writes as
(index, 64-bit value), its class and hint, whether it comes through the staging window, and the tick at which it
arrives. -/
structure MemReq where
  pc : Nat
  bank : Nat
  row : Nat
  sector : Nat
  port : MemPort
  write : Bool
  words : List (Nat × Nat)
  cls : Nat
  hint : Nat
  staging : Bool
  tick : Tick
  deriving DecidableEq, Repr

/-- A command that a controller can issue at a slot (R387): the refresh of a bank, or the queued read or write at this
index of its queue. -/
inductive MemSlot where
  | refresh (bank : Nat)
  | read (index : Nat)
  | write (index : Nat)
  deriving DecidableEq, Repr

/-- What a word that is read belongs to (R421). A packet word is named by its queue and its position in the queue's
stream of blocks in units of 8 B; a node by its table and a key that needs it; a counter by its table and index, with whether the copy last
written back to DRAM, or its mirror, can be read (R328); a word of a memory controller's queue by its pseudo-channel, its entry and its
place in the sector (R410). -/
inductive MemUse where
  | packetWord (queue word : Nat)
  | blockHeader (queue bseq : Nat)
  | context (queue : Nat)
  | node (table : Nat) (key : List Byte) (mirror : Bool)
  | nodeCopy (table : Nat) (key : List Byte)
  | counter (table index : Nat) (copyReads : Bool)
  | snapshot (number queue : Nat)
  | activationCounter (row : Nat)
  | freeList
  | journal (table : Nat)
  | firmwareCopy (slot : Nat)
  | ingress (port : Nat)
  | egress (port : Nat)
  | assembly (port : Nat)
  | mcEntry (pc seq word : Nat)
  | engineState (engine : Nat) (again : Bool)
  | other
  deriving DecidableEq, Repr

/-- A word that a reader reads: the unit of R413 it lies in (bucket number; 200 and above: none), its bank and row in
a pseudo-channel, its position in the unit, and what it belongs to. -/
structure MemWord where
  unit : Nat
  bank : Nat
  row : Nat
  position : Nat
  use : MemUse
  deriving DecidableEq, Repr

/-- A word that Flux finds not clean in a sweep (R417, R419), with its syndrome. -/
structure Found where
  word : MemWord
  syndrome : Nat
  deriving DecidableEq, Repr

/-- A host memory read that failed (R470, R471): the fetch of a ring's entry, the read of a command's parameter buffer or
of its other data (its ring and tag), or a bulk-mover channel's source or descriptor. -/
inductive FailedRead where
  | entry (ring : Nat)
  | parameters (ring tag : Nat)
  | commandData (ring tag : Nat)
  | channel (c : Nat)
  deriving DecidableEq, Repr

/-- What the Crucible has counted at an epoch boundary (R375, R406): the busy cycles of the shared channels and private ports in units of
1 024 cycles, and the shared accesses that have waited for a slice since the last boundary. -/
structure EpochInput where
  conflicts : Nat
  sharedBusy : Nat
  privBusy : Nat
  deriving DecidableEq, Repr

end Sys2Proof
end

