-- ==== Sys2Proof/Syntax.lean ====
section
/-!
DEFINITION. The commands of the block: one constructor for each row of the opcode table, with the operands that the
row's step takes from outside. A command that a timer or an engine of the S64 gives itself has the operands that say which
unit it is of and what was measured.
-/
namespace Sys2Proof

/-- The commands of the S64 (R22, R462 and the chapters of their rules). -/
inductive Instr where
  /-- VDD_AO_RISE (R83): VDD_AO rising into tolerance starts a power-on, which resets Pilot and starts the always-on
  oscillator. -/
  | vddAoRise
  /-- VDD_AO_FALL (R69): VDD_AO falling below its minimum loses everything held in Pilot, including the sampled straps
  and the THERMTRIP_N latch. -/
  | vddAoFall
  /-- RAILS_IN_TOLERANCE (R67): Pilot sees every rail of steps 1 to 3 within tolerance and starts the start-up
  timeline. -/
  | railsInTolerance
  /-- RAIL_CHECK_RETRY (R67): If not every rail is within tolerance 50 ms after step 1, Pilot holds the device in
  reset and checks again every 10 ms. -/
  | railCheckRetry
  /-- RAIL_OUT_OF_RANGE (R68): A rail other than VDD_AO below its minimum for more than 2 µs causes an uncommanded
  full reset, which restarts when all rails are back within tolerance. -/
  | railOutOfRange (rail : Nat)
  /-- STRAP_SAMPLE (R62): Pilot samples every strap 100 µs after VDD_AO and VDD_IO are within tolerance and holds the
  values until VDD_AO is removed. -/
  | strapSample (refwait : Nat) (sbaddr : Nat) (sbctl : Nat) (bist : Nat)
  /-- REFWAIT_EXPIRY (R63): The strapped CFG_REFWAIT delay ends, and the REFCLK check and PLL lock of step 3 begin. -/
  | refwaitExpiry
  /-- REFCLK_STARTUP_CHECK (R119): Pilot counts REFCLK cycles against the oscillator; it then accepts REFCLK and locks
  the PLLs, or sets REFCLK_BAD and repeats the check every 1 ms. -/
  | refclkStartupCheck (count : Nat) (trim : Nat)
  /-- RESET_PIN_ASSERT (R80): A low of at least 1 µs on RESET_N or PERST_N starts a full reset and holds the device in
  reset, restarting any reset already in progress. -/
  | resetPinAssert (pin : ResetPin)
  /-- RESET_PIN_RELEASE (R58): The rise of the later of RESET_N and PERST_N through its filter releases reset and lets
  step 4 of start-up begin. -/
  | resetPinRelease (pin : ResetPin)
  /-- COLD_START_SEQUENCE (R86): Steps 4 to 11 run: fuse sensing, Anvil boot, stack discovery, delay load, DRAM power-
  up, fill and optional BIST, ending at PCIE_READY. -/
  | coldStartSequence (b : BootInput)
  /-- LAYER_DISCOVERY_TIMEOUT (R91): A layer that gives no continuity answer within 0.4 ms ends stack discovery, and
  the missing layers are culled or a stack fault is declared. -/
  | layerDiscoveryTimeout (layer : Nat)
  /-- PCIE_HOT_RESET (R83): A PCIe Hot Reset starts an uncommanded full reset of the whole device with DRAM held. -/
  | pcieHotReset
  /-- PCIE_FLR (R84): A PCIe Function Level Reset starts an uncommanded full reset of the whole device. -/
  | pcieFlr
  /-- PCIE_LINK_DOWN (R84): A PCIe link down that neither the S64's own L1 entry nor REFCLK loss caused starts an
  uncommanded full reset. -/
  | pcieLinkDown
  /-- RESET_SOURCE_RELEASE (R98): An internal reset source releases 10 µs after the reset, so the held restart
  proceeds to PLL relock. -/
  | resetSourceRelease
  /-- HELD_RESTART_SEQUENCE (R98): Steps 3 to 10 of a held restart relock the PLLs, sense fuses, boot Anvil,
  rediscover the stack, exit self-refresh and fill the Crucible. -/
  | heldRestartSequence (b : BootInput)
  /-- FIRMWARE_REVERIFY_DONE (R546): Anvil finishes verifying the marked firmware copy; the service firmware then
  starts, or the S64 waits for FW_LOAD under R100. -/
  | firmwareReverifyDone
  /-- QUIESCE_COMPLETE (R101): The preserving quiesce finishes its drains and marks the journal clean, and Anvil posts
  DEV_RESET's OK completion. -/
  | quiesceComplete
  /-- QUIESCE_TIMEOUT (R102): A quiesce not finished 50 ms after DEV_RESET completes with TIMEOUT and an uncommanded
  reset with QUIESCE_INCOMPLETE. -/
  | quiesceTimeout
  /-- PRESERVE_RESET_DELAY (R101): The reset delay of 100 µs to 1 ms after the DEV_RESET completion ends, and the full
  reset starts. -/
  | preserveResetDelay
  /-- TAP_INSTRUCTION_LOAD (R638): Loading a TAP instruction takes effect; EXTEST, CLAMP, HIGHZ and the IEEE 1149.6
  instructions put the device into an uncommanded full reset. -/
  | tapInstructionLoad (ir : Nat)
  /-- TAP_TEST_LOGIC_RESET (R638): The TAP passing through Test-Logic-Reset ends a boundary-scan reset as if RESET_N
  had risen, and loads IDCODE. -/
  | tapTestLogicReset
  /-- OSC_TRIM (R118): Every 1 s while REFCLK is good, Pilot trims the always-on oscillator against REFCLK and takes a
  new reference count. -/
  | oscTrim (trim : Nat) (count : Nat)
  /-- REFCLK_MISSING_EDGE (R120): No REFCLK rising edge for 20 oscillator cycles declares REFCLK lost. -/
  | refclkMissingEdge
  /-- REFCLK_FREQ_WINDOW (R120): At the end of each 1.024 ms window, a REFCLK count more than 2 000 ppm off the
  reference count declares REFCLK lost. -/
  | refclkFreqWindow (count : Nat)
  /-- CLOCK_SWITCH_FORCED (R135): An old clock that gives no edge within 400 ns of a switch request is switched away
  from by force, with the block held in local reset. -/
  | clockSwitchForced (d : Nat)
  /-- CLOCK_SWITCH_FAILED (R137): A new clock that gives no edge within 400 ns leaves the switch unmade and sets
  CLK_SWITCH_FAILED. -/
  | clockSwitchFailed (d : Nat) (oldRunning : Bool)
  /-- CLOCK_GATE_CLOSE (R129): After 16 consecutive cycles with busy and pending both clear, Pilot closes a block's
  clock gate. -/
  | clockGateClose (d : Nat)
  /-- CLOCK_GATE_OPEN (R129): A new request sets a gated block's pending signal, and the gate opens within 4 cycles. -/
  | clockGateOpen (d : Nat)
  /-- DOMAIN_AUTO_OFF (R126): A power domain whose switch-off condition has held for its idle time is switched off
  automatically. -/
  | domainAutoOff (d : Nat)
  /-- DOMAIN_WAKE (R127): An access or assigned work wakes a domain that is off, and the access completes once the
  domain is powered. -/
  | domainWake (d : Nat)
  /-- BENCH_MICROCODE_LOADED (R128): The bench loader finishes copying the microcode into a woken bench, and the
  partitions moved to it start on it at that tick. -/
  | benchMicrocodeLoaded (b : Nat)
  /-- FORCED_CLOSURE_DRAIN_END (R131): When the 2 µs drain of a forced closure ends, every transaction still open is
  ended with an error, and the clock and power are removed. -/
  | forcedClosureDrainEnd (reads : Nat) (writes : List Nat) (commands : List (Nat × Nat)) (ports : List Req)
  /-- PTM_DIALOG (R143): Every TB_PTM_CFG.INTERVAL the S64 runs a PTM dialog as requester. -/
  | ptmDialog
  /-- PTM_RESPONSE (R144): A PTM Response gives a measurement, from which the servo updates the rate correction or
  steps the counter. -/
  | ptmResponse (masterNs : Nat)
  /-- PTM_RESPONSE_TIMEOUT (R147): A PTM dialog without a response within 1 ms counts a failure, and three in a row
  put the discipline into holdover. -/
  | ptmResponseTimeout
  /-- TIMESYNC_EDGE (R146): A filtered TIMESYNC rising edge is accepted or ignored by the minimum interval, and an
  accepted edge is matched to TB_SYNC_NEXT and fed to the servo. -/
  | timesyncEdge (t : Tick)
  /-- TIMESYNC_STUCK (R80): After 2 s without a falling edge, the S64 ignores TIMESYNC and sets TIMESYNC_STUCK. -/
  | timesyncStuck
  /-- TB_TIME_LO_READ (R154): A read of TB_TIME_LO returns device time bits 31:0 and latches bits 63:32 into
  TB_TIME_HI. -/
  | tbTimeLoRead
  /-- LO_REGISTER_READ (R279): A read of the _LO register of a 64-bit pair latches the _HI register. -/
  | loRegisterRead (off : Nat)
  /-- HOLD_N_CHANGE (R80): A HOLD_N level taken after the filter and the 10 ms dwell adds or withdraws the HOLD_N
  quench source. -/
  | holdNChange (low : Bool)
  /-- HOLD_N_LONG (R80): HOLD_N low for 10 s continuous writes an error-log entry and asserts ALERT_N. -/
  | holdNLong
  /-- THERMAL_SAMPLE (R557): Lehr samples every sensor, computes the layer temperatures, model estimates and levels,
  and applies level and refresh-rate changes. -/
  | thermalSample (x : ThermalInput)
  /-- SENSOR_RECOVER (R561): A suspect sensor that has read at least L − 3 °C for 10 s becomes good again. -/
  | sensorRecover (n : Nat)
  /-- CANARY_TEST (R560): Every 64 ms, Lehr tests the retention canary tiers of each DRAM die and updates its canary
  floor. -/
  | canaryTest (l : Nat) (failed : Nat)
  /-- NARROW_RESTORE (R565): After the device level has stayed at THROTTLE2 or below for 1 s, Lehr starts a cold
  retrain on each port it narrowed. -/
  | narrowRestore
  /-- QUENCH_STOP_COMPLETE (R568): After started operations finish and the write queues drain, benches are closed,
  pseudo-channels enter self-refresh, and the quench is reported. -/
  | quenchStopComplete
  /-- QUENCH_THERMAL_END (R567): Every layer at or below its QUENCH threshold less 10 °C for 1 s ends the thermal
  quench source. -/
  | quenchThermalEnd
  /-- TRIP (R571): A trip comparator fires, asserting and latching THERMTRIP_N, idling the transmitters and asserting
  the stack hold line. -/
  | trip (sensor : Nat)
  /-- LANE_DETECTOR_CHANGE (R162): A receive lane's LOS or LOL detector sets or clears, changing whether the lane is
  good. -/
  | laneDetectorChange (p : Nat) (lane : Nat) (los : Bool) (lol : Bool)
  /-- TRAINING_FRAME_RX (R159): A received training frame with a valid CHECK is acted on: tap requests, presets,
  responses, LANE_SET and RX_READY. -/
  | trainingFrameRx (p : Nat) (lane : Nat) (f : Frame)
  /-- TRAIN_STATE_EXIT (R165): A training state's exit condition holds, and the port moves to the next state or to
  ACTIVE. -/
  | trainStateExit (p : Nat) (x : TrainInput)
  /-- TRAIN_STATE_TIMER (R168): A training state's timer runs out: the port goes on with the good lanes, or the
  attempt fails, idles 2 ms and may become DOWN. -/
  | trainStateTimer (p : Nat) (x : TrainInput)
  /-- ATTEMPT_IDLE_END (R168): The 2 ms electrical idle after a failed attempt ends, and the port starts again at
  DETECT. -/
  | attemptIdleEnd (p : Nat)
  /-- LINK_LOST (R176): Every lane of an ACTIVE port with LOS set for 100 µs loses the link and starts a new series of
  attempts. -/
  | linkLost (p : Nat)
  /-- WARM_IDLE_TIMER (R177): WARM_IDLE without data flits starts the WARM handshake with PWR_REQ. -/
  | warmIdleTimer (p : Nat)
  /-- BANKED_IDLE_TIMER (R177): BANKED_IDLE without data flits starts the BANKED handshake. -/
  | bankedIdleTimer (p : Nat)
  /-- WARM_EXIT (R179): The S64 has a flit to send, or the partner resumes sending, and the port leaves WARM at the
  next codeword boundary. -/
  | warmExit (p : Nat)
  /-- BANKED_EXIT (R180): The banked signal detectors see training frames, and the port takes the fast path or a cold
  retrain. -/
  | bankedExit (p : Nat)
  /-- BANKED_FAST_PATH_TIMEOUT (R180): A fast path that has not reached ACTIVE 120 µs after the first frame falls back
  to a cold retrain. -/
  | bankedFastPathTimeout (p : Nat)
  /-- DATA_CODEWORD_RX (R212): A received data codeword is decoded; an uncorrectable one is dropped with the codewords
  after it, and a NAK is sent. -/
  | dataCodewordRx (p : Nat) (c : Codeword)
  /-- FRAMING_CODEWORD_RX (R191): A received framing codeword advances the framing lock of FEC_LOCK. -/
  | framingCodewordRx (p : Nat) (c : Codeword)
  /-- RESYNC_CODEWORD_RX (R213): A resync codeword whose SEQ equals ACK_SEQ ends dropping, and parsing resumes from
  the resume point; one with any other SEQ is counted. -/
  | resyncCodewordRx (p : Nat) (c : Codeword)
  /-- LINK_UPDATE_RX (R209): A link update with a valid CHECK advances credits and ACK_SEQ, and its NAK starts a
  replay. -/
  | linkUpdateRx (p : Nat) (b : List Byte)
  /-- LINK_UPDATE_SEND (R210): Within 100 ns of accepting a codeword it has not yet acknowledged, the S64 sends a link
  update with credits and ACK_SEQ. -/
  | linkUpdateSend (p : Nat)
  /-- NAK_RETRY_TIMEOUT (R214): A NAK without a matching resync codeword within 4 µs is sent again. -/
  | nakRetryTimeout (p : Nat)
  /-- REPLAY_TIMEOUT (R214): An oldest kept codeword unacknowledged for 4 µs is replayed; after 8 such replays
  RL_REPLAY.STALLED is set. -/
  | replayTimeout (p : Nat)
  /-- INIT (R216): A received INIT control flit gives the partner's credits and decides whether the port resumes its
  link state. -/
  | init (p : Nat) (b : List Byte)
  /-- PWR_REQ (R217): A received PWR_REQ is answered with PWR_ACK or PWR_REFUSE, and after an ACK the port drains and
  enters WARM or BANKED. -/
  | pwrReq (p : Nat) (flit : List Byte)
  /-- PWR_ACK (R217): A received PWR_ACK lets the port send its last codewords and enter the requested state. -/
  | pwrAck (p : Nat) (flit : List Byte)
  /-- PWR_REFUSE (R217): A received PWR_REFUSE keeps the port in HOT. -/
  | pwrRefuse (p : Nat) (flit : List Byte)
  /-- PWR_REQ_TIMEOUT (R217): A PWR_REQ without an answer within 1 µs counts as refused. -/
  | pwrReqTimeout (p : Nat)
  /-- DOWN_NOTICE_TIMEOUT (R218): After up to 2 µs of waiting for DOWN_NOTICE to be acknowledged, the port's
  transmitters go to electrical idle. -/
  | downNoticeTimeout (p : Nat)
  /-- REQUEST_CRC_FAIL (R199): A request failing its CRC for the first time is replayed, and failing again it is
  discarded with PACKET_CORRUPT. -/
  | requestCrcFail (p : Nat)
  /-- UNKNOWN_DATA_OPCODE (R226): A request whose opcode lies in 0x01–0x30 but is not defined is charged to VC0,
  skipped and refused with BAD_OPCODE. -/
  | unknownDataOpcode (r : Req)
  /-- ENQ (R252): An ENQ is checked in order and, if every check passes, admitted and its packet packed into the
  queue. -/
  | enq (r : Req)
  /-- ENQ_COMMIT (R249): Once every full block of the packet is accepted into the MC write path, the queue context is
  updated in one commit. -/
  | enqCommit (p : Nat)
  /-- DEQ (R258): A DEQ removes and delivers whole packets from the head, within ARG and its payload budget. -/
  | deq (r : Req)
  /-- PEEK (R260): A PEEK returns the head packet's descriptor and first bytes without removing it. -/
  | peek (r : Req)
  /-- DROP_HEAD (R261): A DROP_HEAD removes ARG packets from the head without returning them. -/
  | dropHead (r : Req)
  /-- QSTAT (R265): A QSTAT returns a queue's live values or its values from the last snapshot. -/
  | qstat (r : Req)
  /-- LOOKUP (R321): A LOOKUP looks up up to 8 keys in one table version and returns the hit bitmap and the result
  records. -/
  | lookup (r : Req)
  /-- LOOKUP_MULTI (R322): A LOOKUP_MULTI looks up one key in up to four tables. -/
  | lookupMulti (r : Req)
  /-- CNT_ADD (R325): A CNT_ADD adds packets and bytes to counters, modulo 2⁶⁴. -/
  | cntAdd (r : Req)
  /-- CNT_READ (R326): A CNT_READ returns the value of each counter it names. -/
  | cntRead (r : Req)
  /-- CNT_READ_CLEAR (R325): A CNT_READ_CLEAR returns each counter's value and sets it to 0 in the same operation. -/
  | cntReadClear (r : Req)
  /-- MARK (R361): A MARK is recorded in its port's stream and, if it is a cutting MARK, cuts its port over to the new
  table versions. -/
  | mark (r : Req)
  /-- MARK_PASS (R224): When every earlier request of the port has taken effect, the MARK passes, pulses the marker
  source and replies if asked. -/
  | markPass (p : Nat)
  /-- ECHO (R225): The link block answers an ECHO at once with its payload and its recorded tick. -/
  | echo (r : Req)
  /-- SNAPSHOT_REQ (R267): A SNAPSHOT_REQ starts a snapshot with the cut tick it gives. -/
  | snapshotReq (r : Req)
  /-- SNAPSHOT_COMPLETE (R268): When every request stamped before T has taken effect, the snapshot completes, replies
  and pulses snapshot-done. -/
  | snapshotComplete
  /-- ENGINE_OP_START (R440): When a thread becomes free, the engine starts the next permitted operation from its
  input queue by class guarantee, then age. -/
  | engineOpStart (n : Nat)
  /-- REPLY_SEND (R205): A reply in the egress store is sent once the S64 holds all the VC2 credits it needs. -/
  | replySend (p : Nat)
  /-- CONFIG_REQUEST (R88): A PCIe configuration request is answered with Request Retry Status before PCIE_READY and
  served normally after it. -/
  | configRequest (a : CfgAccess)
  /-- BAR0_BAD_ACCESS (R457): A BAR0 request of the wrong size, alignment or byte enables is refused and counted in
  HC_BAD_ACCESS. -/
  | bar0BadAccess (k : BadAccess) (off : Nat)
  /-- REGISTER_WRITE (R22): A BAR0 write to a register without a row of its own acts by its access type, and an RWA
  write from a non-Anvil requester sets RWA_DENIED. -/
  | registerWrite (q : Requester) (off : Nat) (v : Nat)
  /-- STAGING_WINDOW_READ (R475): A BAR2 read is split into per-sector HB requests to the mapped DRAM or Crucible
  positions. -/
  | stagingWindowRead (off : Nat) (len : Nat)
  /-- STAGING_WINDOW_WRITE (R475): A BAR2 write of whole words stores new check bits at the mapped positions, or is
  dropped when refused. -/
  | stagingWindowWrite (off : Nat) (data : List Byte) (enables : Nat)
  /-- RING_ENABLE (R461): Writing HC_RING_CTRL.ENABLE = 1 enables a ring, with its heads and tails reset, or is
  ignored and counted in HC_CFG_REJECT. -/
  | ringEnable (r : Nat)
  /-- RING_DISABLE (R469): Writing ENABLE = 0 stops fetching, drops unstarted entries and returns the ring to the
  basic level. -/
  | ringDisable (r : Nat)
  /-- SQ_TAIL_DOORBELL (R462): A write of HC_SQ_TAIL_DB makes new submission entries visible, all with the doorbell's
  tick. -/
  | sqTailDoorbell (r : Nat) (v : Nat)
  /-- CQ_HEAD_DOORBELL (R462): A write of HC_CQ_HEAD_DB frees the completion slots before the written index. -/
  | cqHeadDoorbell (r : Nat) (v : Nat)
  /-- RING_ENTRY_FETCH (R462): The S64 fetches the visible submission entries from host memory. -/
  | ringEntryFetch (r : Nat) (es : List Sqe)
  /-- RING_ENTRY_START (R464): An entry that ordering, FENCE and free completion slots allow is started and checked in
  order. -/
  | ringEntryStart (r : Nat)
  /-- HOST_READ_FAIL (R471): A host memory read that gets UR, CA or no completion within the timeout fails the fetch
  or command that made it. -/
  | hostReadFail (f : FailedRead) (answered : Bool)
  /-- MSIX_MODERATION_TIMER (R460): INT_TIME µs after the first unsignalled completion, the ring's completion vector
  is sent. -/
  | msixModerationTimer (r : Nat)
  /-- MSIX_UNMASK (R460): Unmasking a vector, or enabling MSI-X in D0, sends one message for each pending bit. -/
  | msixUnmask (v : Option Nat)
  /-- PCIE_L1_ENTRY (R452): With ASPM L1 enabled, 10 µs without TLPs makes the S64 request L1. -/
  | pcieL1Entry
  /-- D3HOT_ENTRY (R453): Entering D3hot stops every memory request of the S64 until the function returns to D0. -/
  | d3hotEntry
  /-- D0_RETURN (R453): Returning to D0 resumes the ring fetches, completion writes, transfers and MSI-X messages that
  waited, and resets nothing. -/
  | d0Return
  /-- DEV_IDENTIFY (R495): Returns the device identity, grade, serial number and versions. -/
  | devIdentify (e : Sqe)
  /-- DEV_HEALTH (R495): Returns device status, reset cause, thermal level and health flags. -/
  | devHealth (e : Sqe)
  /-- POWER_INFO (R495): Returns the estimated power and the power states of domains, benches and ports. -/
  | powerInfo (e : Sqe) (mw : Nat)
  /-- DEV_RESET (R113): Starts a clearing full reset, or a preserving full reset after a quiesce. -/
  | devReset (e : Sqe)
  /-- RECOVERY_REPORT (R113): Writes the table decisions of the last restart to a host buffer, or reports EMPTY until
  they are made. -/
  | recoveryReport (e : Sqe)
  /-- EXPERT_ENTER (R472): Puts the ring at the expert level. -/
  | expertEnter (e : Sqe)
  /-- EXPERT_LEAVE (R472): Returns the ring to the basic level. -/
  | expertLeave (e : Sqe)
  /-- ERRLOG_READ (R495): Writes error-log entries from a given sequence number to a host buffer. -/
  | errlogRead (e : Sqe)
  /-- ERRLOG_CLEAR (R495): Removes error-log entries up to a sequence number and resets the loss count. -/
  | errlogClear (e : Sqe)
  /-- NOP (R495): Echoes its parameters, confirming that the service firmware takes commands. -/
  | nop (e : Sqe)
  /-- QUEUE_CFG (R278): Configures, enables or disables a range of queues at an effective tick. -/
  | queueCfg (e : Sqe)
  /-- QUEUE_REMOVE (R278): Unconfigures a range of queues, flushing them if asked. -/
  | queueRemove (e : Sqe)
  /-- QUEUE_FLUSH (R278): Discards every packet of a range of queues and repairs broken queues. -/
  | queueFlush (e : Sqe)
  /-- QUEUE_CHANGE_APPLY (R275): Once every operation stamped before the effective tick has taken effect, a queue
  change is applied and the held operations are released. -/
  | queueChangeApply
  /-- QUEUE_INFO (R278): Returns one queue's limit, counts, state and reserve. -/
  | queueInfo (e : Sqe)
  /-- SNAPSHOT_TAKE (R278): Starts a snapshot from a ring and completes when the snapshot completes. -/
  | snapshotTake (e : Sqe)
  /-- SNAPSHOT_READ (R271): Writes the ledgers of a held snapshot for a range of queues to host memory. -/
  | snapshotRead (e : Sqe)
  /-- QUEUE_RESERVE (R278): Sets RESERVE for a range of queues, subject to the pool check. -/
  | queueReserve (e : Sqe)
  /-- QM_PREFETCH (R278): Sets the head prefetch depth. -/
  | qmPrefetch (e : Sqe)
  /-- TABLE_CREATE (R334): Creates a table of a given kind and reserves its rows at an effective tick. -/
  | tableCreate (e : Sqe)
  /-- TABLE_DELETE (R336): Deletes a table at an effective tick, discarding its staged versions and cancelling armed
  commits. -/
  | tableDelete (e : Sqe)
  /-- TABLE_ROWS_RETURN (R336): Once every request stamped before the delete has been answered, the deleted table's
  rows return to the table pool. -/
  | tableRowsReturn (n : Nat)
  /-- TABLE_INFO (R334): Returns a table's kind, sizes, counts and committed version. -/
  | tableInfo (e : Sqe)
  /-- TABLE_RESIZE (R337): Changes a table's capacity by rehash, by a staged version or by a new reservation,
  according to its kind. -/
  | tableResize (e : Sqe)
  /-- CNT_DUMP (R338): Reads, and optionally clears, a range of counters into host memory. -/
  | cntDump (e : Sqe)
  /-- TABLE_TUNE (R334): Sets a table's SEED or its staging allowance, rebuilding an EXACT table into a staged
  version. -/
  | tableTune (e : Sqe)
  /-- TABLE_UPDATE (R349): Stages all the records of a buffer into a table's open version, or none of them. -/
  | tableUpdate (e : Sqe) (h : HostRead)
  /-- TABLE_IMAGE (R352): Opens an empty image version and reserves its image area. -/
  | tableImage (e : Sqe)
  /-- TABLE_COMMIT (R358): Freezes the open versions of the named tables and arms them to switch at an IMMEDIATE,
  MARKER or EVENT cut. -/
  | tableCommit (e : Sqe)
  /-- IMAGE_BUILD_DONE (R354): The build of an image version from its area completes, or ends the commit with a
  failing record's status. -/
  | imageBuildDone (n : Nat)
  /-- COMMIT_EFFECT_TICK (R359): An IMMEDIATE or EVENT commit takes effect at its tick E. -/
  | commitEffectTick (n : Nat)
  /-- COMMIT_CUT_TIMEOUT (R364): TIMEOUT ms after the first cut, the uncut ports of a MARKER commit are cut by tick. -/
  | commitCutTimeout (n : Nat)
  /-- VERSION_ROWS_RELEASE (R363): Once every request served under the old version has been answered, its replaced
  rows are released. -/
  | versionRowsRelease (n : Nat)
  /-- TABLE_ABORT (R365): Cancels armed commits with no port cut and optionally discards staged versions. -/
  | tableAbort (e : Sqe)
  /-- COMMIT_LOG (R368): Writes commit-log records, newest first, to host memory. -/
  | commitLog (e : Sqe)
  /-- MEM_SPLIT (R286): Changes the table pool size T and the buffer pool limit at an effective tick. -/
  | memSplit (e : Sqe)
  /-- PLACEMENT_INFO (R307): Returns placement figures: T, pools, E, culled and retired units, and tier sizes. -/
  | placementInfo (e : Sqe)
  /-- TIER_REPORT (R307): Writes per-table tier occupancy and access counts to host memory. -/
  | tierReport (e : Sqe)
  /-- MV_TUNE (R307): Sets Marver's thresholds and budgets at the next epoch boundary. -/
  | mvTune (e : Sqe)
  /-- MV_TABLE_HINT (R307): Sets a table's engine bounds and residency hints at the next epoch boundary. -/
  | mvTableHint (e : Sqe)
  /-- MEM_INFO (R403): Returns the stack's layers, pseudo-channels, slices, refresh states and page policy. -/
  | memInfo (e : Sqe)
  /-- MC_POLICY (R403): Sets the page policy, idle timer and hint defaults of the masked controllers. -/
  | mcPolicy (e : Sqe)
  /-- MC_TARGETS (R403): Sets a port's latency target and the drain marks of the masked controllers. -/
  | mcTargets (e : Sqe)
  /-- INTEGRITY_INFO (R429): Returns the error, poison, sweep, retirement and repair counts. -/
  | integrityInfo (e : Sqe)
  /-- SCRUB_CFG (R429): Sets the Flux sweep period and optionally starts a new DRAM sweep. -/
  | scrubCfg (e : Sqe)
  /-- BUCKET_CFG (R429): Sets the leaky-bucket depth and leak period of a unit kind and clears its counts. -/
  | bucketCfg (e : Sqe)
  /-- RETIRE_CFG (R429): Sets automatic bank retirement, its per-channel maximum and its UE window. -/
  | retireCfg (e : Sqe)
  /-- STAGE_MAP (R473): Maps the staging window to a DRAM or Crucible base, with or without writes. -/
  | stageMap (e : Sqe)
  /-- BUDGET_SET (R444): Replaces the class guarantees as one set, checked against the floors, from the next window
  boundary. -/
  | budgetSet (e : Sqe) (h : HostRead)
  /-- BUDGET_GET (R448): Returns one class's guarantees, scaled budget and present usage. -/
  | budgetGet (e : Sqe)
  /-- REG_STATUS (R448): Returns the regulator's floor, committed sum, scale factor and flags. -/
  | regStatus (e : Sqe)
  /-- REG_WINDOW (R448): Changes the accounting window length from the end of the present window. -/
  | regWindow (e : Sqe)
  /-- RG_CFG_WINDOW_WRITE (R449): A write of RG_CFG.WINDOW acts as REG_WINDOW. -/
  | rgCfgWindowWrite (v : Nat)
  /-- REG_PLAN (R448): Sets PLAN_RATE if the newest budget set passes the check at the new rate. -/
  | regPlan (e : Sqe)
  /-- THERM_READ (R496): Returns eight layer temperatures, sensor flags, the thermal level and the sample tick. -/
  | thermRead (e : Sqe)
  /-- THERM_LIMITS (R496): Returns the thermal thresholds of both kinds. -/
  | thermLimits (e : Sqe)
  /-- THERM_WARN_SET (R496): Sets the WARN threshold of a kind. -/
  | thermWarnSet (e : Sqe)
  /-- THERM_LIMIT_SET (R496): Sets a THROTTLE or QUENCH threshold no higher than its fused default. -/
  | thermLimitSet (e : Sqe)
  /-- QUENCH_REQ (R497): Adds or withdraws the ring quench source and returns the sources in force. -/
  | quenchReq (e : Sqe)
  /-- BIST_RUN (R577): Takes each masked unit out of service, runs logic BIST on it, culls failures and returns
  passing units. -/
  | bistRun (e : Sqe)
  /-- BIST_UNIT_DONE (R578): A unit's BIST ends; a pass returns it to service and a failure enters it and its
  dependants in the cullet map. -/
  | bistUnitDone (k : UnitKind) (u : Nat) (pass : Bool)
  /-- CULLET_GET (R498): Writes the cullet map to host memory. -/
  | culletGet (e : Sqe)
  /-- CULLET_ADD (R579): Adds units from a host map to the cullet map, at once or at the next full reset. -/
  | culletAdd (e : Sqe) (h : HostRead)
  /-- CAL_SAVE (R590): Writes the calibration image of every pseudo-channel to host memory. -/
  | calSave (e : Sqe)
  /-- CAL_RESTORE (R591): Checks a calibration image and applies its records to the pseudo-channels in service through
  holds. -/
  | calRestore (e : Sqe) (h : HostRead)
  /-- CAL_CFG (R498): Enables rolling recalibration and sets the spacing of its holds. -/
  | calCfg (e : Sqe)
  /-- FW_LOAD (R545): Verifies a firmware image, stores it in a slot, marks the slot and starts the service firmware. -/
  | fwLoad (e : Sqe) (img : ImageRead)
  /-- FW_STORE (R546): Verifies an image, writes it to the slot not in use and moves the mark to it. -/
  | fwStore (e : Sqe) (img : ImageRead)
  /-- FW_INFO (R499): Returns the running and slot firmware versions, the slot states and the anti-rollback counter. -/
  | fwInfo (e : Sqe)
  /-- ROLLBACK_ADVANCE (R547): Blows ROLLBACK bits to raise the anti-rollback value. -/
  | rollbackAdvance (e : Sqe) (vprog : Bool) (f : FuseOutcome)
  /-- ATTEST (R551): Writes a report signed with the identity key over the nonce and the device state. -/
  | attest (e : Sqe)
  /-- ID_KEY_READ (R552): Writes the public identity key and its endorsement to host memory. -/
  | idKeyRead (e : Sqe)
  /-- FUSE_READ (R500): Writes latched fuse words of a region to host memory. -/
  | fuseRead (e : Sqe)
  /-- FUSE_PROGRAM (R539): Blows requested fuse bits with VPROG pulses and verifies each word at the strict margin. -/
  | fuseProgram (e : Sqe) (h : HostRead) (vprog : Bool) (f : FuseOutcome)
  /-- FUSE_LOCK (R527): Blows a region's write-lock or read-lock fuse. -/
  | fuseLock (e : Sqe) (vprog : Bool) (f : FuseOutcome)
  /-- FUSE_RESENSE (R538): Senses the array again at both margins and reports marginal and changed words. -/
  | fuseResense (e : Sqe) (r : Resense)
  /-- FUSE_RESENSE_TIMER (R538): Every FZ_RESENSE.PERIOD hours, Anvil re-senses the array and reports any instability. -/
  | fuseResenseTimer (r : Resense)
  /-- KEY_REVOKE (R548): Blows the revocation bits of a key digest slot. -/
  | keyRevoke (e : Sqe) (vprog : Bool) (f : FuseOutcome)
  /-- EV_SOURCE (R501): Sets or clears the source of an event line. -/
  | evSource (e : Sqe)
  /-- EV_SINK (R501): Connects or disconnects the snapshot trigger or a channel start to a line. -/
  | evSink (e : Sqe)
  /-- EV_PULSE (R501): Pulses a software-sourced line and returns the pulse's tick. -/
  | evPulse (e : Sqe)
  /-- EV_SW_PULSE_WRITE (R520): A write of EV_SW_PULSE pulses the line if its source code is 0. -/
  | evSwPulseWrite (v : Nat)
  /-- EV_INFO (R501): Returns a line's source, sink, latest pulse tick and pulse count. -/
  | evInfo (e : Sqe)
  /-- EVENT_PULSE_DELIVERY (R516): A recorded pulse reaches its sinks: it releases waiting ring entries, fires EVENT
  commits, triggers snapshots and starts channels. -/
  | eventPulseDelivery
  /-- BM_CHANNEL_CFG (R501): Sets a standard channel's class tag and hop limit. -/
  | bmChannelCfg (e : Sqe)
  /-- BM_NOSNOOP (R501): Sets whether a channel's host reads carry No-Snoop. -/
  | bmNosnoop (e : Sqe)
  /-- BM_CH_START (R506): Writing START = 1 runs an idle channel's armed shadow descriptor, or is counted as missed. -/
  | bmChStart (q : Requester) (c : Nat)
  /-- BM_CH_ARM (R507): Writing ARM = 1 sets SHADOW_VALID, locking the shadow descriptor. -/
  | bmChArm (q : Requester) (c : Nat)
  /-- BM_CH_CLEAR (R512): Writing CLEAR = 1 returns a halted channel to idle with SHADOW_VALID = 0. -/
  | bmChClear (q : Requester) (c : Nat)
  /-- BM_DESCRIPTOR_FETCH_DONE (R508): A NEXT descriptor fetched from host memory is checked and placed in the shadow
  set. -/
  | bmDescriptorFetchDone (c : Nat) (h : DescriptorRead)
  /-- BM_DESCRIPTOR_END (R508): A descriptor ends without error, and the channel pulses, takes the next descriptor,
  halts at the hop limit or goes idle. -/
  | bmDescriptorEnd (c : Nat) (src : List Byte) (dst : List Byte)
  /-- BM_CHANNEL_HALT (R512): A channel halts on its first error, records its status and bytes done, pulses its error
  source and sends its vector. -/
  | bmChannelHalt (c : Nat) (cause : HaltCause) (bytes : Nat)
  /-- TE_LAT_CLEAR (R340): Writing TE_LAT_CFG.CLEAR = 1 sets every latency histogram bin to 0. -/
  | teLatClear
  /-- LINK_RETRAIN (R183): Starts short retrains of ACTIVE ports, or new series of attempts, on the masked ports. -/
  | linkRetrain (e : Sqe)
  /-- LINK_POWER_CFG (R183): Sets the WARM and BANKED enables and idle times of the masked ports. -/
  | linkPowerCfg (e : Sqe)
  /-- LINK_DISABLE (R183): Disables the masked ports, or enables them and lets them train. -/
  | linkDisable (e : Sqe)
  /-- LINK_EQ_SET (R183): Sets a port's transmit preset, CTLE and DFE freeze for the next training. -/
  | linkEqSet (e : Sqe)
  /-- EPOCH_BOUNDARY (R297): At each 1 ms epoch boundary, Marver sets engine counts, moves partitions, promotes and
  demotes nodes and writes back counters. -/
  | epochBoundary (x : EpochInput)
  /-- ACTIVATION_WINDOW_END (R300): At each 32 ms window boundary, the row activation counters are cleared and flagged
  rows are released. -/
  | activationWindowEnd
  /-- MC_REQUEST_ARRIVAL (R381): A sector request takes a controller queue entry within its port limits, or is
  forwarded, merged or made to wait. -/
  | mcRequestArrival (r : MemReq)
  /-- MC_COMMAND_ISSUE (R387): At a command slot, the controller issues the first eligible request in its priority
  order. -/
  | mcCommandIssue (pc : Nat) (eligible : List MemSlot)
  /-- REQUEST_URGENCY_STEP (R386): A queued request's age passes 50 %, 75 % or 100 % of its target, raising its
  urgency and counting it late at 100 %. -/
  | requestUrgencyStep (pc : Nat) (write : Bool) (index : Nat)
  /-- REFRESH_DUE (R393): A bank's refresh falls due at the start of each tREFI interval and is issued, postponed or
  forced. -/
  | refreshDue (pc : Nat) (bank : Nat)
  /-- PC_POWER_DOWN_ENTRY (R395): A pseudo-channel without requests for PD_IDLE enters power-down. -/
  | pcPowerDownEntry (pc : Nat)
  /-- PC_SELF_REFRESH_ENTRY (R395): A pseudo-channel without requests for SR_IDLE enters self-refresh. -/
  | pcSelfRefreshEntry (pc : Nat)
  /-- CALIBRATION_HOLD (R588): Every SPACING ms, TC holds the next pseudo-channel, measures its windows, steers spares
  and recentres its delays, culling it if needed. -/
  | calibrationHold (x : CalInput)
  /-- MEMORY_READ_RETURN (R407): Read data return and the SECDED syndrome is acted on: corrected, counted, or handled
  as uncorrectable. -/
  | memoryReadReturn (w : MemWord) (syndrome : Nat)
  /-- BUCKET_LEAK (R413): At the end of each leak period, 1 is taken from a unit's bucket count. -/
  | bucketLeak (u : Nat)
  /-- FLUX_REWRITE (R409): Flux rewrites a line or sector whose word a reader corrected. -/
  | fluxRewrite
  /-- FLUX_ROW_SCRUB (R417): At its scheduled slot, Flux reads a DRAM row, rewrites correctable words and poisons
  uncorrectable ones; `late` of the row's 8 sector reads were not complete at 100 % of their target (R386). -/
  | fluxRowScrub (pc : Nat) (late : Nat) (found : List Found)
  /-- CRUCIBLE_SCRUB (R419): Flux sweeps Crucible lines once per second, rewriting correctable words. -/
  | crucibleScrub (last : Bool) (found : List Found)
  /-- SWEEP_LATE (R420): A DRAM sweep unfinished at the end of its period sets SWEEP_LATE and writes an error-log
  entry. -/
  | sweepLate (pc : Nat)
  /-- MIRROR_REPAIR (R425): IG writes the good copy of a mirrored sector over the bad one and reads it back. -/
  | mirrorRepair (ok : Bool)
  /-- BANK_RETIREMENT (R303): Marver takes a retired bank out of allocation and moves its table and device-region rows
  within 100 ms. -/
  | bankRetirement (pc : Nat) (bank : Nat)
  /-- REG_WINDOW_BOUNDARY (R446): At each window boundary, the regulator compares F with G, sets K and reports a
  breach or a change of K. -/
  | regWindowBoundary
  /-- HEARTBEAT (R618): A HEARTBEAT mailbox request restarts the service-firmware watchdog. -/
  | heartbeat
  /-- FUSE_DATA (R522): A mailbox request that returns the latched fuse words the service firmware may read. -/
  | fuseData (slot : Nat) (r : Nat) (first : Nat) (n : Nat)
  /-- CLOSURE_STATE (R522): A mailbox request that returns the latched closure flags. -/
  | closureState (slot : Nat)
  /-- ERRLOG_WRITE (R617): A mailbox request that writes an SV error-log entry at severity 0. -/
  | errlogWrite (slot : Nat) (svPrefix : Bool) (code : Nat) (unitKind : Nat) (unit : Nat) (sub : Nat) (object : Nat) (data : Nat)
  /-- DEVICE_STATE (R522): A mailbox request that returns DEV_STATUS, the thermal level and the cullet map. -/
  | deviceState (slot : Nat)
  /-- MAILBOX_REFUSED (R523): Anvil refuses an unsupported or forbidden mailbox request with SECURITY_DENIED and logs
  AV 0x03. -/
  | mailboxRefused (slot : Nat) (kind : Nat)
  /-- SV_WATCHDOG_EXPIRY (R618): 2 s without a heartbeat, or a service-core halt, stops the service core and makes
  Anvil post its open completions. -/
  | svWatchdogExpiry
  /-- SV_CORE_HALT (R618): The service core halts on an uncorrectable word in its own memories, and the watchdog
  expires at once. -/
  | svCoreHalt
  /-- SV_ACTION_RESET (R619): With SV_ACTION = 1, 10 ms after the completions are posted, Anvil starts an uncommanded
  full reset. -/
  | svActionReset
  /-- ANVIL_HEARTBEAT (R621): Every 50 ms, Anvil sends Pilot a heartbeat. -/
  | anvilHeartbeat
  /-- ANVIL_SUPERVISOR_TIMEOUT (R621): No Anvil heartbeat for 500 ms makes Pilot enter safe hold. -/
  | anvilSupervisorTimeout
  /-- ANVIL_HALT (R621): Anvil raises its halt line on an uncorrectable word in its own memories, and Pilot enters
  safe hold. -/
  | anvilHalt
  /-- STATUS (R596): A sideband Block Read that returns DEV_HEALTH result bytes. -/
  | status
  /-- IDENTITY (R596): A sideband Block Read that returns DEV_IDENTIFY result bytes. -/
  | identity
  /-- POWER (R596): A sideband Block Read that returns POWER_INFO result bytes. -/
  | power (mw : Nat)
  /-- LEVEL (R596): A sideband Read Byte that returns the thermal level, quench and ALERT_N bits. -/
  | level
  /-- HOTTEST (R596): A sideband Read Word that returns the hottest layer's temperature. -/
  | hottest
  /-- THERM_0 (R596): A sideband Block Read that returns THERM_READ results from layer 0. -/
  | therm0
  /-- THERM_8 (R596): A sideband Block Read that returns THERM_READ results from layer 8. -/
  | therm8
  /-- THERM_16 (R596): A sideband Block Read that returns THERM_READ results from layer 16. -/
  | therm16
  /-- ERRLOG_PTR_WRITE (R599): A sideband Write 32 that sets the sideband error-log pointer. -/
  | errlogPtrWrite (w : SbWrite)
  /-- ERRLOG_PTR_READ (R599): A sideband Read 32 that returns the sideband error-log pointer. -/
  | errlogPtrRead
  /-- ERRLOG (R599): A sideband Block Read that returns error-log entries from the pointer, advancing it at a
  completed STOP. -/
  | errlog (completed : Bool)
  /-- QUENCH_WRITE (R600): A sideband Write Byte that requests or withdraws the sideband quench source. -/
  | quenchWrite (w : SbWrite)
  /-- QUENCH_READ (R596): A sideband Read Byte that returns the quench sources byte. -/
  | quenchRead
  /-- ALERT_RESPONSE (R598): A read of the Alert Response Address is answered with the S64's address while it asserts
  ALERT_N. -/
  | alertResponse
  /-- SCL_TIMEOUT (R605): SCL low for more than 25 ms releases both lines and resets the sideband protocol state. -/
  | sclTimeout
  /-- SDA_TIMEOUT (R605): SDA low for more than 35 ms with SCL high releases SDA and, in the controller role, clears
  the bus. -/
  | sdaTimeout
  /-- BUS_CLEAR (R606): The S64 clocks up to nine SCL pulses and sends STOP to free a stuck SDA, retrying every 100 ms
  up to 10 times. -/
  | busClear (sdaHigh : Bool)
  /-- HOST_NOTIFY (R602): A change of state, after the minimum gap, sends a Host Notify to the BMC. -/
  | hostNotify (r : BusResult)
  /-- HOST_NOTIFY_RETRY (R602): 10 ms after a failed notification it is sent again, up to 3 times, then dropped. -/
  | hostNotifyRetry (r : BusResult)
  /-- ARBITRATION_RETRY (R607): After STOP and the bus-free time, the S64 starts the lost transaction again, giving up
  after 3 retries. -/
  | arbitrationRetry (r : BusResult)
  /-- EEPROM_READ (R603): After step 5 or a bus clearing, the S64 reads 32 B of boot configuration from the EEPROM. -/
  | eepromRead (r : BusResult)
  /-- EEPROM_READ_DONE (R604): The EEPROM contents are checked and applied as one set, or the reason for refusing them
  is recorded. -/
  | eepromReadDone (a : EepromAnswer)
  /-- TIMESYNC_FALLING_EDGE (R80): A falling edge of TIMESYNC restarts the 2 s stuck count and, while TIMESYNC_STUCK
  is set, makes the S64 use the input again. -/
  | timesyncFallingEdge
  /-- VPROG_OUT_OF_TOLERANCE (R542): VPROG leaving tolerance during a fuse programming pulse stops the command with
  INTERNAL_FAULT, reports the first unverified word and logs FZ 0x05. -/
  | vprogOutOfTolerance (blown : Nat) (weak : Nat)
  /-- SDA_SEEN_HIGH (R606): SDA seen high again clears SB_STATUS.SDA_STUCK and lets the controller role resume. -/
  | sdaSeenHigh
  /-- PAGE_IDLE_TIMER (R388): A bank that has had no access for MC_CTRL.IDLE under the idle-timer rule has its open
  row closed. -/
  | pageIdleTimer (pc : Nat) (bank : Nat)
  /-- CALIBRATION_HOLD_END (R398): A calibration hold ends, after at most 40 µs, and the controller schedules the TM,
  QR, QW, HB and FS requests queued during it. -/
  | calibrationHoldEnd
  /-- UNLISTED_COMMAND_CODE (R597): A sideband transaction with a command code not listed in R596, or a write to a
  code without a write protocol, is not acknowledged and counts in SB_COUNT.REFUSED. -/
  | unlistedCommandCode (code : Nat) (write : Bool)
  deriving DecidableEq, Repr

end Sys2Proof
end

