-- ==== Sys2Proof/Config.lean ====
section
/-!
DEFINITION. What an implementation fixes, and the values the specification leaves open. Each is opaque: nothing can
evaluate it, so a statement holds whatever it is.
-/
namespace Sys2Proof

/-- Bits 6:0 of the PCI Revision ID (R450): the stepping of the part. -/
opaque Config.revision : Nat

/-- The ROM and patch version that DEV_IDENTIFY reports (R495), from the number of a patch in force (0: none). -/
opaque Config.romAndPatch : Nat → Nat

/-- SHA-384 of a byte string, as a 384-bit number (R551). -/
opaque Config.sha384 : List Byte → Nat

/-- The ECDSA P-384 signature that the identity key makes over a byte string (R551), as a 768-bit number. -/
opaque Config.sign : List Byte → Nat

/-- The public identity key of the part as read by ID_KEY_READ (R552), 97 bytes as one number. -/
opaque Config.identityKey : Nat

/-- A value the specification does not state, by the model's own counter of such values. -/
opaque Config.freeValue : Nat → Nat

/-- What a memory position reads as, where the specification does not say what Marver, calibration or an earlier owner
left there (R306, R474). -/
opaque Config.positionByte : Nat → Byte

/-- A check-matrix column of weight 5 (R407): which eight of the 56 such syndromes name a bit is not stated. -/
opaque Config.heavyColumn : Nat → Bool

/-- A cuckoo search and the stash have no slot for this key (R313), by SEED, the keys of its partition and the key. -/
opaque Config.noSlot : Nat → List (List Byte) → List Byte → Bool

/-- The rows a staged version rewrites (R343, R350) where their number is not determined, by a table number and the
key records changed. -/
opaque Config.rowsRewritten : Nat → List (List Byte) → Nat

/-- The rows that a PREFIX version needs (R315), by a table number and its key records. -/
opaque Config.prefixRows : Nat → List (List Byte) → Nat

/-- The hash number 0 or 1 of a key for a SEED (R312): the rule names neither. -/
opaque Config.bucketHash : Nat → Nat → List Byte → Nat

/-- The row of a table, counted in the order of allocation, that holds this row of the table's layout (R292, R312, R315 to R317), by the number
of the table, the tick of its creation and its version. -/
opaque Config.rowAt : Nat → Nat → Nat → Nat → Nat

/-- The line, 32 × the row in the order of allocation + the 64 B line of that row, of the node of a PREFIX table that this stride holds on
the path of a key; `none` where the stride holds no branch on it (R315). By the number of the table, the tick of its creation, its version,
the key record and the stride, the root first. -/
opaque Config.trieLine : Nat → Nat → Nat → List Byte → Nat → Option Nat

/-- What this line of a table holds: no node, or a node with the only partition it is reached from (`none`: at least two) (R296,
R300), by the number of the table, the tick of its creation, its committed version and the line. -/
opaque Config.lineUse : Nat → Nat → Nat → Nat → Option (Option Nat)

/-- The index by which the NEXT field of a block header names the block in this pseudo-channel, bank and row (R243). -/
opaque Config.blockIndex : Nat → Nat → Nat → Nat

/-- The interface delays of a pseudo-channel (R396) from its eight words of TRIM_REPAIR, whose layout is not stated (R530): by the
field's number in the order of R405. -/
opaque Config.trimField : List Nat → Nat → Nat

/-- The number by which a register, an entry or a completion names the lock row, which is outside the array's words (R527, R539). -/
opaque Config.lockRowWord : Nat

/-- Which of the layers with the highest temperature the hottest layer is, where there are several (R495, TH_STATUS.HOTTEST). -/
opaque Config.tiedLayer : List Nat → Nat

end Sys2Proof
end

