-- ==== Sys2Proof/Machine/Bits.lean ====
section
/-!
DEFINITION. Bit fields, little-endian byte order (R17) and saturation, as plain arithmetic on natural numbers.
-/
namespace Sys2Proof.Machine

/-- Bits `hi:lo` of a value (R15, R16: bit 0 is the least significant). -/
def bitsOf (v hi lo : Nat) : Nat := v / 2 ^ lo % 2 ^ (hi + 1 - lo)

/-- Bit `i` of a value. -/
def bitOf (v i : Nat) : Bool := v / 2 ^ i % 2 == 1

/-- A Bool as a register bit. -/
def b2n (b : Bool) : Nat := if b then 1 else 0

/-- Bit `i` of a mask set. -/
def setBit (v i : Nat) : Nat := if v / 2 ^ i % 2 = 1 then v else v + 2 ^ i

/-- Bit `i` of a mask cleared. -/
def clearBit (v i : Nat) : Nat := if v / 2 ^ i % 2 = 1 then v - 2 ^ i else v

/-- The low `n` bits of a mask, all ones. -/
def ones (n : Nat) : Nat := 2 ^ n - 1

/-- The number of ones in the low `n` bits of `v`. -/
def popcount : Nat → Nat → Nat
  | 0, _ => 0
  | n + 1, v => b2n (bitOf v n) + popcount n v

/-- The lowest set bit among the low `n` bits, or `n` where there is none. -/
def lowestSet (n v : Nat) : Nat := ((List.range n).find? (fun i => bitOf v i)).getD n

/-- Bit `i` of the mask is set where `p i` holds, for `i` below `n`. -/
def maskOf (n : Nat) (p : Nat → Bool) : Nat :=
  (List.range n).foldl (fun m i => if p i then m + 2 ^ i else m) 0

/-- `v + n`, saturating at `mx`. -/
def satAdd (v n mx : Nat) : Nat := min (v + n) mx

/-- Greatest value of a field of `w` bits. -/
def maxOf (w : Nat) : Nat := 2 ^ w - 1

/-- Little-endian value of bytes (R17): the first byte is the least significant. -/
def leNat : List Byte → Nat
  | [] => 0
  | b :: bs => b.toNat + 256 * leNat bs

/-- `n` little-endian bytes of a value (R17). -/
def leBytes : Nat → Nat → List Byte
  | 0, _ => []
  | n + 1, v => BitVec.ofNat 8 v :: leBytes n (v / 256)

/-- Bytes `off` to `off + n - 1` of a buffer as one little-endian value; bytes beyond its end read 0. -/
def bufNat (b : List Byte) (off n : Nat) : Nat := leNat ((b.drop off).take n)

/-- A result or parameter block as a number: each item gives an offset in bytes, a length in bytes and a value. -/
def packBytes (items : List (Nat × Nat × Nat)) : Nat :=
  items.foldl (fun acc i => acc + i.2.2 % 256 ^ i.2.1 * 256 ^ i.1) 0

/-- Two's complement of a value in `w` bits. -/
def toTwos (w : Nat) (i : Int) : Nat := (i % (2 ^ w : Int)).toNat

/-- The signed reading of `w` bits. -/
def ofTwos (w v : Nat) : Int := if v < 2 ^ (w - 1) then (v : Int) else (v : Int) - 2 ^ w

/-- Replace the element at index `i` of a list. -/
def setAt {α : Type} (l : List α) (i : Nat) (x : α) : List α := l.set i x

/-- Insert into a sorted list, after the elements that come before or are equal. -/
def insertBy {α : Type} (le : α → α → Bool) (x : α) : List α → List α
  | [] => [x]
  | y :: r => if le y x then y :: insertBy le x r else x :: y :: r

/-- A list sorted by `le`; equal elements keep their order. -/
def sortBy {α : Type} (le : α → α → Bool) (l : List α) : List α := l.foldl (fun acc x => insertBy le x acc) []

end Sys2Proof.Machine
end

