-- ==== Sys2Proof/Machine/Map.lean ====
section
/-!
DEFINITION. Sparse maps: a list of key and value pairs in one canonical form. The keys rise strictly, and no
entry equals what an unlisted key reads as, so equal maps are equal lists. Registers, ports, queues, tables,
rings, channels, event lines, pseudo-channels, fuses and memory positions are all held this way.
-/
namespace Sys2Proof.Machine

/-- A sparse map from natural numbers. -/
abbrev Map (α : Type) := List (Nat × α)

/-- The value at key `k`, or what an unlisted key reads as. -/
def Map.get {α : Type} (d : Nat → α) (m : Map α) (k : Nat) : α :=
  match m with
  | [] => d k
  | (j, v) :: r => if j = k then v else Map.get d r k

/-- Insert or replace, keeping the keys in rising order. -/
def Map.put {α : Type} (k : Nat) (v : α) (m : Map α) : Map α :=
  match m with
  | [] => [(k, v)]
  | (j, w) :: r => if k < j then (k, v) :: (j, w) :: r else if k = j then (k, v) :: r else (j, w) :: Map.put k v r

/-- Remove a key. -/
def Map.erase {α : Type} (k : Nat) (m : Map α) : Map α :=
  match m with
  | [] => []
  | (j, w) :: r => if j = k then Map.erase k r else (j, w) :: Map.erase k r

/-- Write a value: a value equal to what an unlisted key reads as removes the entry. -/
def Map.set {α : Type} [DecidableEq α] (d : Nat → α) (m : Map α) (k : Nat) (v : α) : Map α :=
  if v = d k then Map.erase k m else Map.put k v m

/-- A key lies above an optional lower bound. -/
def keyAbove (b : Option Nat) (j : Nat) : Bool :=
  match b with
  | none => true
  | some k => decide (k < j)

/-- True when every key of the map lies above `b`, strictly rising, and no entry equals its unlisted value. -/
def Map.wfAbove {α : Type} [DecidableEq α] (d : Nat → α) (b : Option Nat) (m : Map α) : Bool :=
  match m with
  | [] => true
  | (j, v) :: r =>
    keyAbove b j && (decide (v ≠ d j)) && Map.wfAbove d (some j) r

/-- The canonical form: keys strictly rising, no entry equal to its unlisted value. -/
def Map.wf {α : Type} [DecidableEq α] (d : Nat → α) (m : Map α) : Bool := Map.wfAbove d none m

end Sys2Proof.Machine
end

