-- ==== Sys2Proof/Machine/Registers.lean ====
section
/-!
DEFINITION. The BAR0 registers of R20 to R24: every field of every register table of the specification,
with its access type, its Cold value and its Kept column (R21, R22).

A field is named by a key: the BAR0 offset of its register times 32 plus its lowest bit. A 64-bit pair of
registers (R20) is one 64-bit field at the key of its _LO register. The values live in the register file of
`State`, a canonical sparse map in which an unlisted field holds its Cold value.
-/
namespace Sys2Proof.Machine

/-- The key of a register field: BAR0 offset of its register times 32, plus its lowest bit. -/
abbrev Fld := Nat

/-- The key of the field whose lowest bit is `lo` in the register at BAR0 offset `off`. -/
def fld (off lo : Nat) : Fld := off * 32 + lo

/-- BAR0 offset of the register that holds a field. -/
def fldOff (k : Fld) : Nat := k / 32

/-- The access types of R22. -/
inductive Access where
  | ro | rw | wo | w1c | w1s | rwa
  deriving DecidableEq, Repr

/-- One row of a register table (R21): relative offset, highest and lowest bit, access, Cold, Kept, and the
bounds the Description puts on the value in force ("0 is read as 1"; a `cmax` of 0 is no bound). -/
structure FieldSpec where
  off : Nat
  hi : Nat
  lo : Nat
  acc : Access
  cold : Nat
  kept : Bool
  cmin : Nat
  cmax : Nat
  deriving DecidableEq, Repr

/-- First register of bulk-mover channel `c` (R517): standard channels from 0x040000, privileged ones from 0x041000. -/
def bmBase (c : Nat) : Nat := if c < 16 then 0x40000 + 0x100 * c else 0x41000 + 0x100 * (c - 16)

/-- First register of pseudo-channel PCn (R374, R404): local pseudo-channel n mod 4 of controller n / 4. -/
def mcPcBase (n : Nat) : Nat := 0xD0000 + 0x1000 * (n / 4) + 0x100 * (n % 4 + 1)

/-- Register fields of block DEV (R114 to R117). -/
def devFields : List FieldSpec := [
  ⟨0x40, 3, 0, .ro, 0, false, 0, 0⟩,
  ⟨0x40, 4, 4, .ro, 0, false, 0, 0⟩,
  ⟨0x40, 5, 5, .ro, 0, false, 0, 0⟩,
  ⟨0x40, 6, 6, .ro, 0, false, 0, 0⟩,
  ⟨0x40, 7, 7, .ro, 0, false, 0, 0⟩,
  ⟨0x40, 8, 8, .w1c, 0, false, 0, 0⟩,
  ⟨0x40, 9, 9, .ro, 0, false, 0, 0⟩,
  ⟨0x44, 4, 0, .ro, 0, true, 0, 0⟩,
  ⟨0x44, 8, 8, .ro, 0, true, 0, 0⟩,
  ⟨0x44, 9, 9, .ro, 0, true, 0, 0⟩,
  ⟨0x44, 10, 10, .ro, 0, true, 0, 0⟩,
  ⟨0x44, 31, 16, .ro, 0, true, 0, 0⟩,
  ⟨0x48, 4, 0, .ro, 0, false, 0, 0⟩,
  ⟨0x48, 12, 8, .ro, 17, false, 0, 0⟩,
  ⟨0x4c, 15, 0, .ro, 0, false, 0, 0⟩,
  ⟨0x4c, 31, 16, .ro, 0, false, 0, 0⟩]

/-- Register fields of block PL (R148 to R153). -/
def plFields : List FieldSpec := [
  ⟨0x0, 2, 0, .ro, 0, true, 0, 0⟩,
  ⟨0x0, 5, 4, .ro, 0, true, 0, 0⟩,
  ⟨0x0, 8, 8, .ro, 0, true, 0, 0⟩,
  ⟨0x0, 9, 9, .ro, 0, true, 0, 0⟩,
  ⟨0x4, 0, 0, .w1c, 0, true, 0, 0⟩,
  ⟨0x4, 1, 1, .w1c, 0, true, 0, 0⟩,
  ⟨0x4, 2, 2, .ro, 0, false, 0, 0⟩,
  ⟨0x4, 3, 3, .w1c, 0, true, 0, 0⟩,
  ⟨0x4, 4, 4, .w1c, 0, true, 0, 0⟩,
  ⟨0x4, 12, 8, .ro, 0, false, 0, 0⟩,
  ⟨0x8, 15, 0, .ro, 0, false, 0, 0⟩,
  ⟨0x8, 23, 16, .ro, 128, true, 0, 0⟩,
  ⟨0xc, 5, 0, .ro, 0, true, 0, 0⟩,
  ⟨0xc, 31, 16, .ro, 0, true, 0, 0⟩,
  ⟨0x10, 1, 0, .rw, 0, true, 0, 0⟩,
  ⟨0x14, 63, 0, .rw, 0, false, 0, 0⟩,
  ⟨0x1c, 63, 0, .ro, 0, false, 0, 0⟩,
  ⟨0x24, 63, 0, .ro, 0, false, 0, 0⟩,
  ⟨0x2c, 63, 0, .rw, 0, false, 0, 0⟩]

/-- Register fields of block TB (R155). -/
def tbFields : List FieldSpec := [
  ⟨0x8, 1, 0, .rw, 0, true, 0, 0⟩,
  ⟨0x8, 4, 4, .rw, 1, true, 0, 0⟩,
  ⟨0xc, 0, 0, .ro, 0, true, 0, 0⟩,
  ⟨0xc, 1, 1, .ro, 0, true, 0, 0⟩,
  ⟨0xc, 2, 2, .ro, 0, true, 0, 0⟩,
  ⟨0xc, 3, 3, .w1c, 0, true, 0, 0⟩,
  ⟨0xc, 4, 4, .ro, 0, true, 0, 0⟩,
  ⟨0xc, 5, 5, .w1c, 0, true, 0, 0⟩,
  ⟨0xc, 31, 16, .ro, 0, true, 0, 0⟩,
  ⟨0x10, 31, 0, .ro, 0, true, 0, 0⟩,
  ⟨0x18, 63, 0, .rw, 0, true, 0, 0⟩,
  ⟨0x20, 63, 0, .rw, 0, true, 0, 0⟩,
  ⟨0x28, 31, 0, .rw, 4000000000, true, 0, 0⟩,
  ⟨0x30, 63, 0, .ro, 0, true, 0, 0⟩,
  ⟨0x38, 15, 0, .rw, 500, true, 0, 0⟩,
  ⟨0x38, 31, 16, .w1c, 0, true, 0, 0⟩,
  ⟨0x3c, 15, 0, .rw, 10, true, 0, 0⟩,
  ⟨0x3c, 31, 16, .rw, 10, true, 0, 0⟩]

/-- Register fields of block RL, per port (R184 to R188, R231 to R235), part 1. -/
def rlFields0 : List FieldSpec := [
  ⟨0x0, 3, 0, .ro, 0, false, 0, 0⟩,
  ⟨0x0, 5, 4, .ro, 0, false, 0, 0⟩,
  ⟨0x0, 7, 6, .ro, 3, false, 0, 0⟩,
  ⟨0x0, 15, 8, .ro, 0, false, 0, 0⟩,
  ⟨0x0, 16, 16, .ro, 0, false, 0, 0⟩,
  ⟨0x0, 19, 17, .ro, 0, false, 0, 0⟩,
  ⟨0x0, 20, 20, .ro, 1, false, 0, 0⟩,
  ⟨0x0, 23, 21, .ro, 0, false, 0, 0⟩,
  ⟨0x0, 24, 24, .w1c, 0, false, 0, 0⟩,
  ⟨0x4, 7, 0, .ro, 255, false, 0, 0⟩,
  ⟨0x4, 15, 8, .ro, 255, false, 0, 0⟩,
  ⟨0x4, 23, 16, .ro, 0, false, 0, 0⟩,
  ⟨0x4, 31, 24, .ro, 0, false, 0, 0⟩,
  ⟨0x8, 3, 0, .ro, 0, false, 0, 0⟩,
  ⟨0x8, 7, 4, .ro, 0, false, 0, 0⟩,
  ⟨0x8, 31, 16, .ro, 0, false, 0, 0⟩,
  ⟨0xc, 15, 0, .ro, 0, false, 0, 0⟩,
  ⟨0xc, 31, 16, .ro, 0, false, 0, 0⟩,
  ⟨0x38, 15, 0, .ro, 0, false, 0, 0⟩,
  ⟨0x10, 0, 0, .rw, 1, false, 0, 0⟩,
  ⟨0x10, 1, 1, .rw, 1, false, 0, 0⟩,
  ⟨0x10, 15, 4, .rw, 100, false, 1, 0⟩,
  ⟨0x10, 31, 16, .rw, 10, false, 1, 0⟩,
  ⟨0x14, 0, 0, .rw, 0, false, 0, 0⟩]

/-- Register fields of block RL, per port (R184 to R188, R231 to R235), part 2. -/
def rlFields1 : List FieldSpec := [
  ⟨0x14, 1, 1, .rw, 0, false, 0, 0⟩,
  ⟨0x14, 7, 4, .rw, 0, false, 0, 0⟩,
  ⟨0x14, 10, 8, .rw, 3, false, 0, 0⟩,
  ⟨0x14, 11, 11, .rw, 0, false, 0, 0⟩,
  ⟨0x18, 2, 0, .rw, 0, false, 0, 0⟩,
  ⟨0x1c, 31, 0, .ro, 0, false, 0, 0⟩,
  ⟨0x20, 7, 0, .ro, 0, false, 0, 0⟩,
  ⟨0x24, 3, 0, .ro, 0, false, 0, 0⟩,
  ⟨0x28, 31, 0, .ro, 0, false, 0, 0⟩,
  ⟨0x2c, 31, 0, .ro, 0, false, 0, 0⟩,
  ⟨0x30, 31, 0, .ro, 0, false, 0, 0⟩,
  ⟨0x34, 31, 0, .rw, 0, false, 0, 0⟩,
  ⟨0x40, 15, 0, .rw, 0, false, 0, 0⟩,
  ⟨0x40, 31, 16, .rw, 0, false, 0, 0⟩,
  ⟨0x44, 31, 0, .rw, 0, false, 0, 0⟩,
  ⟨0x48, 15, 0, .rw, 0, false, 0, 0⟩,
  ⟨0x48, 30, 16, .rw, 0, false, 0, 0⟩,
  ⟨0x48, 31, 31, .w1c, 0, false, 0, 0⟩,
  ⟨0x4c, 15, 0, .rw, 0, false, 0, 0⟩,
  ⟨0x4c, 31, 16, .rw, 0, false, 0, 0⟩,
  ⟨0x50, 11, 0, .ro, 0, false, 0, 0⟩,
  ⟨0x50, 27, 16, .ro, 0, false, 0, 0⟩,
  ⟨0x54, 11, 0, .ro, 0, false, 0, 0⟩,
  ⟨0x54, 27, 16, .ro, 0, false, 0, 0⟩]

/-- Register fields of block RL, per port (R184 to R188, R231 to R235), part 3. -/
def rlFields2 : List FieldSpec := [
  ⟨0x58, 11, 0, .ro, 0, false, 0, 0⟩,
  ⟨0x5c, 23, 0, .ro, 0, false, 0, 0⟩,
  ⟨0x60, 23, 0, .ro, 0, false, 0, 0⟩,
  ⟨0x70, 17, 0, .ro, 0, false, 0, 0⟩,
  ⟨0x64, 6, 0, .rw, 0, false, 0, 0⟩,
  ⟨0x64, 7, 7, .w1c, 0, false, 0, 0⟩,
  ⟨0x64, 15, 8, .rw, 0, false, 0, 0⟩,
  ⟨0x64, 23, 16, .rw, 0, false, 0, 0⟩,
  ⟨0x64, 31, 24, .rw, 0, false, 0, 0⟩,
  ⟨0x68, 15, 0, .rw, 0, false, 0, 0⟩,
  ⟨0x68, 31, 16, .rw, 0, false, 0, 0⟩,
  ⟨0x6c, 15, 0, .rw, 0, false, 0, 0⟩,
  ⟨0x6c, 31, 16, .rw, 0, false, 0, 0⟩]

/-- Register fields of block RL, per port (R184 to R188, R231 to R235). -/
def rlFields : List FieldSpec := rlFields0 ++ rlFields1 ++ rlFields2

/-- Register fields of block QM (R279). -/
def qmFields : List FieldSpec := [
  ⟨0x0, 3, 0, .rw, 2, false, 0, 4⟩,
  ⟨0x4, 7, 0, .ro, 255, false, 0, 0⟩,
  ⟨0x4, 8, 8, .ro, 0, false, 0, 0⟩,
  ⟨0x4, 9, 9, .ro, 0, false, 0, 0⟩,
  ⟨0x8, 31, 0, .ro, 0, false, 0, 0⟩,
  ⟨0xc, 63, 0, .ro, 0, false, 0, 0⟩,
  ⟨0x18, 63, 0, .ro, 0, false, 0, 0⟩,
  ⟨0x20, 25, 0, .ro, 0, false, 0, 0⟩,
  ⟨0x24, 25, 0, .ro, 0, false, 0, 0⟩,
  ⟨0x28, 25, 0, .ro, 0, false, 0, 0⟩,
  ⟨0x2c, 17, 0, .ro, 0, false, 0, 0⟩,
  ⟨0x30, 31, 0, .rw, 0, false, 0, 0⟩,
  ⟨0x34, 31, 0, .rw, 0, false, 0, 0⟩,
  ⟨0x38, 31, 0, .rw, 0, false, 0, 0⟩,
  ⟨0x3c, 31, 0, .rw, 0, false, 0, 0⟩,
  ⟨0x40, 31, 0, .rw, 0, false, 0, 0⟩,
  ⟨0x44, 16, 0, .ro, 0, false, 0, 0⟩,
  ⟨0x44, 31, 24, .ro, 0, false, 0, 0⟩,
  ⟨0x48, 63, 0, .ro, 0, false, 0, 0⟩,
  ⟨0x50, 63, 0, .ro, 0, false, 0, 0⟩]

/-- Register fields of block MV (R308), part 1. -/
def mvFields0 : List FieldSpec := [
  ⟨0x0, 6, 0, .ro, 64, false, 0, 0⟩,
  ⟨0x0, 13, 8, .ro, 0, false, 0, 0⟩,
  ⟨0x0, 14, 14, .ro, 0, false, 0, 0⟩,
  ⟨0x0, 15, 15, .ro, 0, false, 0, 0⟩,
  ⟨0x0, 22, 16, .ro, 0, false, 0, 0⟩,
  ⟨0x4, 63, 0, .ro, 0, true, 0, 0⟩,
  ⟨0xc, 63, 0, .ro, 18446744073709551615, false, 0, 0⟩,
  ⟨0x14, 63, 0, .ro, 0, false, 0, 0⟩,
  ⟨0x1c, 15, 0, .ro, 256, true, 0, 0⟩,
  ⟨0x1c, 21, 16, .ro, 0, true, 0, 0⟩,
  ⟨0x20, 15, 0, .ro, 32, true, 0, 0⟩,
  ⟨0x24, 25, 0, .ro, 0, true, 0, 0⟩,
  ⟨0x28, 25, 0, .ro, 33420288, true, 0, 0⟩,
  ⟨0x2c, 15, 0, .ro, 0, true, 0, 0⟩,
  ⟨0x30, 25, 0, .ro, 0, false, 0, 0⟩,
  ⟨0x34, 23, 0, .ro, 0, false, 0, 0⟩,
  ⟨0x38, 31, 0, .ro, 0, false, 0, 0⟩,
  ⟨0x3c, 31, 0, .ro, 0, false, 0, 0⟩,
  ⟨0x40, 31, 0, .ro, 0, false, 0, 0⟩,
  ⟨0x44, 15, 0, .rw, 0, false, 0, 0⟩,
  ⟨0x44, 31, 16, .rw, 0, false, 0, 0⟩,
  ⟨0x48, 25, 0, .rw, 0, false, 0, 0⟩,
  ⟨0x4c, 31, 0, .rw, 0, false, 0, 0⟩,
  ⟨0x50, 6, 0, .rw, 64, false, 0, 0⟩]

/-- Register fields of block MV (R308), part 2. -/
def mvFields1 : List FieldSpec := [
  ⟨0x50, 31, 16, .rw, 0, false, 0, 0⟩,
  ⟨0x60, 15, 0, .rw, 8, false, 1, 0⟩,
  ⟨0x60, 31, 16, .rw, 256, false, 1, 0⟩,
  ⟨0x64, 3, 0, .rw, 4, false, 1, 0⟩,
  ⟨0x64, 7, 4, .rw, 4, false, 0, 12⟩,
  ⟨0x64, 14, 8, .rw, 40, false, 33, 64⟩,
  ⟨0x64, 15, 15, .rw, 1, false, 0, 0⟩,
  ⟨0x64, 31, 16, .rw, 64, false, 1, 0⟩,
  ⟨0x68, 15, 0, .rw, 35, false, 1, 46⟩]

/-- Register fields of block MV (R308). -/
def mvFields : List FieldSpec := mvFields0 ++ mvFields1

/-- Register fields of block TE (R339 to R341). -/
def teFields : List FieldSpec := [
  ⟨0x0, 63, 0, .ro, 18446744073709551615, false, 0, 0⟩,
  ⟨0x8, 7, 0, .ro, 0, false, 0, 0⟩,
  ⟨0x8, 15, 8, .ro, 0, false, 0, 0⟩,
  ⟨0xc, 8, 0, .ro, 0, true, 0, 0⟩,
  ⟨0x10, 63, 0, .ro, 0, false, 0, 0⟩,
  ⟨0x18, 63, 0, .ro, 0, false, 0, 0⟩,
  ⟨0x20, 63, 0, .ro, 0, false, 0, 0⟩,
  ⟨0x28, 63, 0, .ro, 0, false, 0, 0⟩,
  ⟨0x30, 31, 0, .rw, 0, false, 0, 0⟩,
  ⟨0x34, 31, 0, .rw, 0, false, 0, 0⟩,
  ⟨0x38, 31, 0, .rw, 0, false, 0, 0⟩,
  ⟨0x3c, 31, 0, .rw, 0, false, 0, 0⟩,
  ⟨0x40, 11, 0, .ro, 0, false, 0, 0⟩,
  ⟨0x40, 27, 16, .ro, 0, false, 0, 0⟩,
  ⟨0x44, 10, 0, .ro, 0, false, 0, 0⟩,
  ⟨0x44, 21, 16, .ro, 0, false, 0, 0⟩,
  ⟨0x50, 7, 0, .rw, 0, false, 0, 0⟩,
  ⟨0x50, 8, 8, .rw, 0, false, 0, 0⟩,
  ⟨0x50, 9, 9, .wo, 0, false, 0, 0⟩,
  ⟨0x54, 5, 0, .rw, 0, false, 0, 0⟩,
  ⟨0x58, 31, 0, .ro, 0, false, 0, 0⟩,
  ⟨0x60, 5, 0, .rw, 32, false, 1, 32⟩]

/-- Register fields of block MC, per controller (R404). -/
def mcFields : List FieldSpec := [
  ⟨0x0, 0, 0, .rw, 1, false, 0, 0⟩,
  ⟨0x0, 15, 8, .rw, 6, false, 0, 0⟩,
  ⟨0x4, 15, 0, .rw, 400, false, 1, 0⟩,
  ⟨0x4, 31, 16, .rw, 40, false, 1, 0⟩,
  ⟨0x8, 15, 0, .rw, 6, false, 1, 0⟩,
  ⟨0x8, 31, 16, .rw, 1000, false, 1, 0⟩,
  ⟨0xc, 15, 0, .rw, 10000, false, 1, 0⟩,
  ⟨0xc, 31, 16, .rw, 100, false, 1, 0⟩,
  ⟨0x10, 11, 0, .rw, 1461, false, 0, 0⟩,
  ⟨0x14, 6, 0, .rw, 48, false, 0, 0⟩,
  ⟨0x14, 14, 8, .rw, 16, false, 0, 0⟩,
  ⟨0x18, 0, 0, .rw, 0, false, 0, 0⟩,
  ⟨0x18, 1, 1, .w1c, 0, false, 0, 0⟩,
  ⟨0x18, 31, 16, .rw, 0, false, 0, 0⟩,
  ⟨0x1c, 31, 0, .rw, 0, false, 0, 0⟩,
  ⟨0x20, 15, 0, .rw, 100, false, 0, 0⟩,
  ⟨0x20, 31, 16, .rw, 10, false, 0, 0⟩]

/-- Register fields of block MC, per pseudo-channel (R405), part 1. -/
def mcPcFields0 : List FieldSpec := [
  ⟨0x0, 1, 0, .ro, 0, false, 0, 0⟩,
  ⟨0x0, 2, 2, .ro, 0, false, 0, 0⟩,
  ⟨0x0, 3, 3, .ro, 0, false, 0, 0⟩,
  ⟨0x0, 4, 4, .w1c, 0, false, 0, 0⟩,
  ⟨0x4, 1, 0, .ro, 0, false, 0, 0⟩,
  ⟨0x4, 4, 2, .ro, 0, false, 0, 0⟩,
  ⟨0x4, 31, 16, .rw, 0, false, 0, 0⟩,
  ⟨0x8, 6, 0, .ro, 0, false, 0, 0⟩,
  ⟨0x8, 14, 8, .ro, 0, false, 0, 0⟩,
  ⟨0x8, 22, 16, .rw, 0, false, 0, 0⟩,
  ⟨0x8, 30, 24, .rw, 0, false, 0, 0⟩,
  ⟨0xc, 31, 0, .rw, 0, false, 0, 0⟩,
  ⟨0x10, 31, 0, .rw, 0, false, 0, 0⟩,
  ⟨0x14, 31, 0, .rw, 0, false, 0, 0⟩,
  ⟨0x18, 31, 0, .rw, 0, false, 0, 0⟩,
  ⟨0x20, 11, 0, .rwa, 0, false, 0, 0⟩,
  ⟨0x24, 11, 0, .rwa, 0, false, 0, 0⟩,
  ⟨0x28, 11, 0, .rwa, 0, false, 0, 0⟩,
  ⟨0x2c, 5, 0, .rwa, 0, false, 0, 0⟩,
  ⟨0x30, 5, 0, .rwa, 0, false, 0, 0⟩,
  ⟨0x34, 5, 0, .rwa, 0, false, 0, 0⟩,
  ⟨0x38, 5, 0, .rwa, 0, false, 0, 0⟩,
  ⟨0x3c, 5, 0, .rwa, 0, false, 0, 0⟩,
  ⟨0x40, 5, 0, .rwa, 0, false, 0, 0⟩]

/-- Register fields of block MC, per pseudo-channel (R405), part 2. -/
def mcPcFields1 : List FieldSpec := [
  ⟨0x44, 5, 0, .rwa, 0, false, 0, 0⟩,
  ⟨0x48, 5, 0, .rwa, 0, false, 0, 0⟩,
  ⟨0x4c, 5, 0, .rwa, 0, false, 0, 0⟩,
  ⟨0x50, 5, 0, .rwa, 0, false, 0, 0⟩,
  ⟨0x30, 13, 8, .rwa, 0, false, 0, 0⟩,
  ⟨0x34, 13, 8, .rwa, 0, false, 0, 0⟩,
  ⟨0x38, 13, 8, .rwa, 0, false, 0, 0⟩,
  ⟨0x3c, 13, 8, .rwa, 0, false, 0, 0⟩,
  ⟨0x40, 13, 8, .rwa, 0, false, 0, 0⟩,
  ⟨0x44, 13, 8, .rwa, 0, false, 0, 0⟩,
  ⟨0x48, 13, 8, .rwa, 0, false, 0, 0⟩,
  ⟨0x4c, 13, 8, .rwa, 0, false, 0, 0⟩,
  ⟨0x50, 13, 8, .rwa, 0, false, 0, 0⟩]

/-- Register fields of block MC, per pseudo-channel (R405). -/
def mcPcFields : List FieldSpec := mcPcFields0 ++ mcPcFields1

/-- Register fields of block CD (R406). -/
def cdFields : List FieldSpec := [
  ⟨0x0, 63, 0, .ro, 18446744073709551615, false, 0, 0⟩,
  ⟨0x8, 3, 0, .ro, 0, false, 0, 0⟩,
  ⟨0x8, 14, 8, .ro, 64, false, 0, 0⟩,
  ⟨0xc, 31, 0, .ro, 0, false, 0, 0⟩,
  ⟨0x10, 31, 0, .ro, 0, false, 0, 0⟩,
  ⟨0x14, 31, 0, .rw, 0, false, 0, 0⟩]

/-- Register fields of block IG and FX (R430), part 1. -/
def igFields0 : List FieldSpec := [
  ⟨0x0, 0, 0, .ro, 0, false, 0, 0⟩,
  ⟨0x0, 1, 1, .w1c, 0, false, 0, 0⟩,
  ⟨0x4, 15, 0, .ro, 0, false, 0, 0⟩,
  ⟨0x8, 63, 0, .ro, 0, false, 0, 0⟩,
  ⟨0x10, 31, 0, .rw, 0, false, 0, 0⟩,
  ⟨0x14, 31, 0, .rw, 0, false, 0, 0⟩,
  ⟨0x20, 15, 0, .rw, 512, false, 1, 0⟩,
  ⟨0x28, 15, 0, .rw, 64, false, 1, 0⟩,
  ⟨0x30, 15, 0, .rw, 16, false, 1, 0⟩,
  ⟨0x38, 15, 0, .rw, 16, false, 1, 0⟩,
  ⟨0x24, 21, 0, .rw, 1000, false, 1, 3600000⟩,
  ⟨0x2c, 21, 0, .rw, 60000, false, 1, 3600000⟩,
  ⟨0x34, 21, 0, .rw, 3600000, false, 1, 3600000⟩,
  ⟨0x3c, 21, 0, .rw, 3600000, false, 1, 3600000⟩,
  ⟨0x40, 7, 0, .rw, 0, false, 0, 0⟩,
  ⟨0x44, 15, 0, .ro, 0, false, 0, 0⟩,
  ⟨0x44, 31, 16, .ro, 0, false, 0, 0⟩,
  ⟨0x48, 31, 0, .w1c, 0, false, 0, 0⟩,
  ⟨0x4c, 31, 0, .w1c, 0, false, 0, 0⟩,
  ⟨0x50, 31, 0, .w1c, 0, false, 0, 0⟩,
  ⟨0x54, 31, 0, .w1c, 0, false, 0, 0⟩,
  ⟨0x58, 31, 0, .w1c, 0, false, 0, 0⟩,
  ⟨0x5c, 31, 0, .w1c, 0, false, 0, 0⟩,
  ⟨0x60, 31, 0, .w1c, 0, false, 0, 0⟩]

/-- Register fields of block IG and FX (R430), part 2. -/
def igFields1 : List FieldSpec := [
  ⟨0x70, 0, 0, .rw, 1, false, 0, 0⟩,
  ⟨0x70, 12, 8, .rw, 4, false, 0, 16⟩,
  ⟨0x70, 23, 16, .rw, 24, false, 1, 0⟩,
  ⟨0x74, 63, 0, .ro, 0, true, 0, 0⟩,
  ⟨0x80, 13, 0, .rw, 1440, false, 0, 0⟩,
  ⟨0x84, 6, 0, .ro, 0, false, 0, 0⟩,
  ⟨0x84, 8, 8, .w1c, 0, false, 0, 0⟩,
  ⟨0x84, 9, 9, .ro, 0, false, 0, 0⟩,
  ⟨0x88, 15, 0, .ro, 0, false, 0, 0⟩,
  ⟨0x88, 31, 16, .ro, 0, false, 0, 0⟩,
  ⟨0x8c, 31, 0, .rw, 0, false, 0, 0⟩,
  ⟨0x90, 31, 0, .rw, 0, false, 0, 0⟩,
  ⟨0x94, 31, 0, .rw, 0, false, 0, 0⟩,
  ⟨0xa0, 31, 0, .ro, 0, true, 0, 0⟩,
  ⟨0xa4, 31, 0, .ro, 0, true, 0, 0⟩,
  ⟨0xa8, 31, 0, .ro, 0, true, 0, 0⟩,
  ⟨0xac, 31, 0, .ro, 0, true, 0, 0⟩,
  ⟨0xb0, 31, 0, .ro, 0, true, 0, 0⟩,
  ⟨0xb4, 31, 0, .ro, 0, true, 0, 0⟩,
  ⟨0xb8, 31, 0, .ro, 0, true, 0, 0⟩,
  ⟨0xbc, 31, 0, .ro, 0, true, 0, 0⟩]

/-- Register fields of block IG and FX (R430). -/
def igFields : List FieldSpec := igFields0 ++ igFields1

/-- Register fields of block RG (R449). -/
def rgFields : List FieldSpec := [
  ⟨0x0, 0, 0, .ro, 0, false, 0, 0⟩,
  ⟨0x0, 1, 1, .w1c, 0, false, 0, 0⟩,
  ⟨0x4, 9, 0, .rw, 10, false, 1, 1000⟩,
  ⟨0x4, 13, 12, .ro, 0, false, 0, 0⟩,
  ⟨0x8, 31, 0, .ro, 0, false, 0, 0⟩,
  ⟨0xc, 31, 0, .ro, 50000, false, 0, 0⟩,
  ⟨0x10, 10, 0, .ro, 1024, false, 0, 0⟩,
  ⟨0x14, 14, 0, .ro, 0, false, 0, 0⟩,
  ⟨0x18, 15, 0, .rw, 0, false, 0, 0⟩,
  ⟨0x20, 3, 0, .rw, 0, false, 0, 14⟩,
  ⟨0x24, 31, 0, .ro, 0, false, 0, 0⟩,
  ⟨0x28, 8, 0, .ro, 0, false, 0, 0⟩,
  ⟨0x28, 30, 16, .ro, 0, false, 0, 0⟩,
  ⟨0x2c, 5, 0, .ro, 0, false, 0, 0⟩,
  ⟨0x2c, 27, 16, .ro, 0, false, 0, 0⟩,
  ⟨0x30, 63, 0, .ro, 0, false, 0, 0⟩,
  ⟨0x38, 63, 0, .ro, 0, false, 0, 0⟩]

/-- Register fields of block HC, per ring (R478). -/
def hcRingFields : List FieldSpec := [
  ⟨0x0, 63, 0, .rw, 0, false, 0, 0⟩,
  ⟨0x8, 63, 0, .rw, 0, false, 0, 0⟩,
  ⟨0x10, 12, 0, .rw, 0, false, 0, 0⟩,
  ⟨0x10, 28, 16, .rw, 0, false, 0, 0⟩,
  ⟨0x14, 0, 0, .rw, 0, false, 0, 0⟩,
  ⟨0x14, 15, 8, .rw, 1, false, 1, 0⟩,
  ⟨0x14, 31, 16, .rw, 0, false, 0, 0⟩,
  ⟨0x18, 0, 0, .ro, 0, false, 0, 0⟩,
  ⟨0x18, 1, 1, .ro, 1, false, 0, 0⟩,
  ⟨0x18, 2, 2, .ro, 0, false, 0, 0⟩,
  ⟨0x18, 3, 3, .w1c, 0, false, 0, 0⟩,
  ⟨0x18, 7, 4, .ro, 0, false, 0, 0⟩,
  ⟨0x18, 14, 8, .ro, 0, false, 0, 0⟩,
  ⟨0x18, 15, 15, .ro, 0, false, 0, 0⟩,
  ⟨0x1c, 11, 0, .ro, 0, false, 0, 0⟩,
  ⟨0x20, 11, 0, .ro, 0, false, 0, 0⟩,
  ⟨0x20, 16, 16, .ro, 1, false, 0, 0⟩]

/-- Register fields of block HC (R478). -/
def hcFields : List FieldSpec := [
  ⟨0x2000, 1, 0, .ro, 0, false, 0, 0⟩,
  ⟨0x2000, 2, 2, .ro, 0, false, 0, 0⟩,
  ⟨0x2000, 15, 8, .ro, 0, false, 0, 0⟩,
  ⟨0x2004, 31, 0, .rw, 0, false, 0, 0⟩,
  ⟨0x2008, 31, 0, .rw, 0, false, 0, 0⟩,
  ⟨0x200c, 15, 0, .rw, 0, false, 0, 0⟩,
  ⟨0x2010, 3, 0, .ro, 0, false, 0, 0⟩,
  ⟨0x2010, 9, 4, .ro, 0, false, 0, 0⟩]

/-- Register fields of block BM, per channel (R517, R518), part 1. -/
def bmChFields0 : List FieldSpec := [
  ⟨0x0, 0, 0, .wo, 0, false, 0, 0⟩,
  ⟨0x0, 1, 1, .wo, 0, false, 0, 0⟩,
  ⟨0x0, 2, 2, .w1s, 0, false, 0, 0⟩,
  ⟨0x4, 1, 0, .ro, 0, false, 0, 0⟩,
  ⟨0x4, 2, 2, .ro, 0, false, 0, 0⟩,
  ⟨0x4, 3, 3, .w1c, 0, false, 0, 0⟩,
  ⟨0x4, 4, 4, .w1c, 0, false, 0, 0⟩,
  ⟨0x4, 15, 8, .ro, 0, false, 0, 0⟩,
  ⟨0x4, 31, 24, .rw, 0, false, 0, 0⟩,
  ⟨0x8, 15, 0, .ro, 0, false, 0, 0⟩,
  ⟨0x8, 31, 16, .rw, 4096, false, 1, 0⟩,
  ⟨0xc, 3, 0, .rw, 14, false, 0, 14⟩,
  ⟨0xc, 4, 4, .rw, 0, false, 0, 0⟩,
  ⟨0xc, 13, 8, .ro, 0, false, 0, 0⟩,
  ⟨0xc, 14, 14, .ro, 0, false, 0, 0⟩,
  ⟨0x10, 31, 0, .ro, 0, false, 0, 0⟩,
  ⟨0x14, 31, 0, .ro, 0, false, 0, 0⟩,
  ⟨0x40, 63, 0, .rw, 0, false, 0, 0⟩,
  ⟨0x80, 63, 0, .ro, 0, false, 0, 0⟩,
  ⟨0x48, 63, 0, .rw, 0, false, 0, 0⟩,
  ⟨0x88, 63, 0, .ro, 0, false, 0, 0⟩,
  ⟨0x50, 31, 0, .rw, 0, false, 0, 0⟩,
  ⟨0x90, 31, 0, .ro, 0, false, 0, 0⟩,
  ⟨0x54, 1, 0, .rw, 0, false, 0, 0⟩]

/-- Register fields of block BM, per channel (R517, R518), part 2. -/
def bmChFields1 : List FieldSpec := [
  ⟨0x94, 1, 0, .ro, 0, false, 0, 0⟩,
  ⟨0x54, 5, 4, .rw, 0, false, 0, 0⟩,
  ⟨0x94, 5, 4, .ro, 0, false, 0, 0⟩,
  ⟨0x54, 9, 8, .rw, 0, false, 0, 0⟩,
  ⟨0x94, 9, 8, .ro, 0, false, 0, 0⟩,
  ⟨0x54, 14, 12, .rw, 3, false, 0, 0⟩,
  ⟨0x94, 14, 12, .ro, 0, false, 0, 0⟩,
  ⟨0x54, 18, 16, .rw, 3, false, 0, 0⟩,
  ⟨0x94, 18, 16, .ro, 0, false, 0, 0⟩,
  ⟨0x54, 20, 20, .rw, 0, false, 0, 0⟩,
  ⟨0x94, 20, 20, .ro, 0, false, 0, 0⟩,
  ⟨0x54, 21, 21, .rw, 0, false, 0, 0⟩,
  ⟨0x94, 21, 21, .ro, 0, false, 0, 0⟩,
  ⟨0x58, 63, 0, .rw, 0, false, 0, 0⟩,
  ⟨0x98, 63, 0, .ro, 0, false, 0, 0⟩,
  ⟨0x60, 63, 0, .rw, 0, false, 0, 0⟩,
  ⟨0xa0, 63, 0, .ro, 0, false, 0, 0⟩]

/-- Register fields of block BM, per channel (R517, R518). -/
def bmChFields : List FieldSpec := bmChFields0 ++ bmChFields1

/-- Register fields of a privileged channel: of the descriptors only SRC, DST and COUNT exist (R518). -/
def bmPrivFields : List FieldSpec :=
  bmChFields.filter (fun f => decide (f.off < 0x40) || decide (f.off % 0x40 < 0x14 ∧ 0x40 ≤ f.off))

/-- Register fields of block BM (R519). -/
def bmFields : List FieldSpec := [
  ⟨0x2000, 0, 0, .rw, 0, false, 0, 0⟩,
  ⟨0x2000, 12, 8, .ro, 0, false, 0, 0⟩]

/-- Register fields of block EV_SRCn (R520). -/
def evSrcFields : List FieldSpec := [
  ⟨0x0, 15, 0, .ro, 65535, false, 0, 0⟩]

/-- Register fields of block EV (R520). -/
def evFields : List FieldSpec := [
  ⟨0x100, 5, 0, .rw, 0, false, 0, 0⟩,
  ⟨0x104, 63, 0, .ro, 0, false, 0, 0⟩,
  ⟨0x10c, 31, 0, .ro, 0, false, 0, 0⟩,
  ⟨0x110, 5, 0, .ro, 0, false, 0, 0⟩,
  ⟨0x110, 8, 8, .ro, 0, false, 0, 0⟩,
  ⟨0x110, 31, 16, .rw, 0, false, 0, 0⟩,
  ⟨0x114, 5, 0, .wo, 0, false, 0, 0⟩]

/-- Register fields of block FZ (R554). -/
def fzFields : List FieldSpec := [
  ⟨0x2000, 15, 0, .ro, 0, false, 0, 0⟩,
  ⟨0x2004, 15, 0, .ro, 0, false, 0, 0⟩,
  ⟨0x2008, 3, 0, .ro, 0, false, 0, 0⟩,
  ⟨0x2008, 7, 4, .ro, 0, false, 0, 0⟩,
  ⟨0x2008, 11, 8, .ro, 0, false, 0, 0⟩,
  ⟨0x2008, 15, 12, .ro, 0, false, 0, 0⟩,
  ⟨0x200c, 8, 0, .ro, 0, false, 0, 0⟩,
  ⟨0x2010, 0, 0, .ro, 0, false, 0, 0⟩,
  ⟨0x2010, 1, 1, .ro, 0, false, 0, 0⟩,
  ⟨0x2014, 11, 0, .ro, 0, false, 0, 0⟩,
  ⟨0x2014, 23, 16, .ro, 0, false, 0, 0⟩,
  ⟨0x2018, 10, 0, .ro, 0, false, 0, 0⟩,
  ⟨0x201c, 7, 0, .rw, 24, false, 0, 168⟩,
  ⟨0x2020, 11, 0, .ro, 0, false, 0, 0⟩,
  ⟨0x2020, 27, 16, .ro, 0, false, 0, 0⟩,
  ⟨0x2020, 31, 31, .w1c, 0, false, 0, 0⟩,
  ⟨0x2024, 0, 0, .ro, 0, false, 0, 0⟩,
  ⟨0x2024, 1, 1, .ro, 0, false, 0, 0⟩,
  ⟨0x2024, 15, 8, .ro, 0, false, 0, 0⟩,
  ⟨0x2024, 26, 16, .ro, 0, false, 0, 0⟩,
  ⟨0x2028, 0, 0, .ro, 0, false, 0, 0⟩,
  ⟨0x2028, 1, 1, .ro, 0, false, 0, 0⟩,
  ⟨0x2028, 2, 2, .ro, 0, false, 0, 0⟩,
  ⟨0x2028, 31, 16, .ro, 0, false, 0, 0⟩]

/-- Register fields of block TH (R573), part 1. -/
def thFields0 : List FieldSpec := [
  ⟨0x0, 2, 0, .ro, 0, false, 0, 0⟩,
  ⟨0x0, 4, 4, .ro, 0, false, 0, 0⟩,
  ⟨0x0, 11, 8, .ro, 0, false, 0, 0⟩,
  ⟨0x0, 12, 12, .ro, 0, false, 0, 0⟩,
  ⟨0x0, 20, 16, .ro, 0, false, 0, 0⟩,
  ⟨0x0, 24, 24, .ro, 0, false, 0, 0⟩,
  ⟨0x0, 25, 25, .ro, 0, false, 0, 0⟩,
  ⟨0x4, 3, 0, .w1c, 0, false, 0, 0⟩,
  ⟨0x8, 4, 0, .rw, 0, false, 0, 0⟩,
  ⟨0xc, 15, 0, .ro, 0, false, 0, 0⟩,
  ⟨0xc, 18, 16, .ro, 0, false, 0, 0⟩,
  ⟨0xc, 19, 19, .ro, 0, false, 0, 0⟩,
  ⟨0x10, 15, 0, .ro, 0, false, 0, 0⟩,
  ⟨0x10, 31, 16, .ro, 0, false, 0, 0⟩,
  ⟨0x14, 7, 0, .ro, 0, false, 0, 0⟩,
  ⟨0x18, 6, 0, .rw, 0, false, 0, 0⟩,
  ⟨0x1c, 15, 0, .ro, 0, false, 0, 0⟩,
  ⟨0x1c, 17, 16, .ro, 0, false, 0, 0⟩,
  ⟨0x1c, 18, 18, .ro, 0, false, 0, 0⟩,
  ⟨0x20, 15, 0, .ro, 6080, false, 0, 0⟩,
  ⟨0x20, 31, 16, .ro, 6336, false, 0, 0⟩,
  ⟨0x24, 15, 0, .ro, 6464, false, 0, 0⟩,
  ⟨0x24, 31, 16, .ro, 6592, false, 0, 0⟩,
  ⟨0x28, 15, 0, .ro, 6720, false, 0, 0⟩]

/-- Register fields of block TH (R573), part 2. -/
def thFields1 : List FieldSpec := [
  ⟨0x28, 31, 16, .ro, 7040, false, 0, 0⟩,
  ⟨0x2c, 15, 0, .ro, 6400, false, 0, 0⟩,
  ⟨0x2c, 31, 16, .ro, 6656, false, 0, 0⟩,
  ⟨0x30, 15, 0, .ro, 6784, false, 0, 0⟩,
  ⟨0x30, 31, 16, .ro, 6912, false, 0, 0⟩,
  ⟨0x34, 15, 0, .ro, 7040, false, 0, 0⟩,
  ⟨0x34, 31, 16, .ro, 7360, false, 0, 0⟩,
  ⟨0x38, 0, 0, .rw, 0, false, 0, 0⟩,
  ⟨0x38, 1, 1, .rw, 1, false, 0, 0⟩,
  ⟨0x40, 63, 0, .ro, 0, false, 0, 0⟩,
  ⟨0x48, 15, 0, .ro, 0, false, 0, 0⟩,
  ⟨0x48, 31, 16, .ro, 0, false, 0, 0⟩,
  ⟨0x4c, 15, 0, .ro, 0, false, 0, 0⟩]

/-- Register fields of block TH (R573). -/
def thFields : List FieldSpec := thFields0 ++ thFields1

/-- Register fields of block TC (R592), part 1. -/
def tcFields0 : List FieldSpec := [
  ⟨0x0, 0, 0, .ro, 0, false, 0, 0⟩,
  ⟨0x0, 3, 1, .ro, 0, false, 0, 0⟩,
  ⟨0x0, 4, 4, .ro, 0, false, 0, 0⟩,
  ⟨0x0, 13, 8, .ro, 0, false, 0, 0⟩,
  ⟨0x4, 7, 0, .ro, 0, false, 0, 0⟩,
  ⟨0x4, 15, 8, .ro, 0, false, 0, 0⟩,
  ⟨0x10, 63, 0, .ro, 0, true, 0, 0⟩,
  ⟨0x18, 7, 0, .ro, 0, true, 0, 0⟩,
  ⟨0x18, 15, 8, .ro, 0, true, 0, 0⟩,
  ⟨0x18, 31, 16, .ro, 0, true, 0, 0⟩,
  ⟨0x1c, 15, 0, .ro, 0, true, 0, 0⟩,
  ⟨0x20, 63, 0, .ro, 0, true, 0, 0⟩,
  ⟨0x28, 63, 0, .ro, 0, true, 0, 0⟩,
  ⟨0x30, 16, 1, .ro, 0, true, 0, 0⟩,
  ⟨0x34, 63, 0, .ro, 0, true, 0, 0⟩,
  ⟨0x3c, 63, 0, .ro, 0, true, 0, 0⟩,
  ⟨0x44, 15, 0, .ro, 0, true, 0, 0⟩,
  ⟨0x44, 31, 16, .ro, 0, true, 0, 0⟩,
  ⟨0x50, 0, 0, .rw, 1, false, 0, 0⟩,
  ⟨0x50, 11, 8, .rw, 5, false, 1, 0⟩,
  ⟨0x50, 31, 16, .rw, 100, false, 1, 0⟩,
  ⟨0x54, 15, 0, .rw, 0, false, 0, 0⟩,
  ⟨0x54, 31, 16, .rw, 0, false, 0, 0⟩,
  ⟨0x58, 8, 0, .ro, 0, false, 0, 0⟩]

/-- Register fields of block TC (R592), part 2. -/
def tcFields1 : List FieldSpec := [
  ⟨0x58, 31, 16, .rw, 0, false, 0, 0⟩,
  ⟨0x5c, 6, 0, .rw, 0, false, 0, 0⟩]

/-- Register fields of block TC (R592). -/
def tcFields : List FieldSpec := tcFields0 ++ tcFields1

/-- Register fields of block SB (R609). -/
def sbFields : List FieldSpec := [
  ⟨0x0, 0, 0, .w1c, 0, true, 0, 0⟩,
  ⟨0x0, 1, 1, .w1c, 0, true, 0, 0⟩,
  ⟨0x0, 2, 2, .ro, 0, true, 0, 0⟩,
  ⟨0x0, 3, 3, .w1c, 0, true, 0, 0⟩,
  ⟨0x0, 4, 4, .w1c, 0, true, 0, 0⟩,
  ⟨0x0, 5, 5, .ro, 0, true, 0, 0⟩,
  ⟨0x0, 10, 8, .ro, 0, false, 0, 0⟩,
  ⟨0x0, 22, 16, .ro, 76, true, 0, 0⟩,
  ⟨0x4, 15, 0, .rw, 0, true, 0, 0⟩,
  ⟨0x4, 31, 16, .rw, 0, true, 0, 0⟩,
  ⟨0x8, 7, 0, .rw, 0, true, 0, 0⟩,
  ⟨0x8, 15, 8, .rw, 0, true, 0, 0⟩,
  ⟨0x8, 31, 16, .rw, 0, true, 0, 0⟩,
  ⟨0xc, 0, 0, .rw, 1, false, 0, 0⟩,
  ⟨0xc, 1, 1, .rw, 0, false, 0, 0⟩,
  ⟨0xc, 14, 8, .rw, 8, false, 0, 0⟩,
  ⟨0xc, 31, 16, .rw, 10, false, 1, 0⟩,
  ⟨0x10, 0, 0, .rw, 0, false, 0, 0⟩,
  ⟨0x10, 2, 1, .rw, 0, false, 0, 0⟩,
  ⟨0x14, 0, 0, .ro, 0, true, 0, 0⟩,
  ⟨0x18, 31, 0, .ro, 0, false, 0, 0⟩]

/-- Register fields of block EL (R625). -/
def elFields : List FieldSpec := [
  ⟨0x0, 0, 0, .w1c, 0, true, 0, 0⟩,
  ⟨0x0, 1, 1, .ro, 0, false, 0, 0⟩,
  ⟨0x0, 2, 2, .ro, 0, false, 0, 0⟩,
  ⟨0x0, 15, 8, .ro, 0, true, 0, 0⟩,
  ⟨0x0, 23, 16, .ro, 0, true, 0, 0⟩,
  ⟨0x4, 31, 0, .ro, 0, true, 0, 0⟩,
  ⟨0x8, 31, 0, .ro, 1, true, 0, 0⟩,
  ⟨0xc, 31, 0, .ro, 0, true, 0, 0⟩,
  ⟨0x10, 0, 0, .rw, 0, false, 0, 0⟩,
  ⟨0x14, 11, 0, .ro, 0, false, 0, 0⟩,
  ⟨0x14, 31, 16, .ro, 0, false, 0, 0⟩,
  ⟨0x20, 31, 0, .rw, 0, false, 0, 0⟩]

/-- Where a BAR0 offset lies (R456): the field list of its block, and the offset relative to the block's or
instance's base. Offsets that no table lists have an empty list (R23). -/
def locate (o : Nat) : List FieldSpec × Nat :=
  if o < 0x10000 then (devFields, o)
  else if o < 0x20000 then (plFields, o - 0x10000)
  else if o < 0x30000 then (tbFields, o - 0x20000)
  else if o < 0x30400 then (hcRingFields, (o - 0x30000) % 0x40)
  else if o < 0x40000 then (hcFields, o - 0x30000)
  else if o < 0x41000 then (bmChFields, (o - 0x40000) % 0x100)
  else if o < 0x41200 then (bmPrivFields, (o - 0x40000) % 0x100)
  else if o < 0x50000 then (bmFields, o - 0x40000)
  else if o < 0x50100 then (evSrcFields, (o - 0x50000) % 4)
  else if o < 0x60000 then (evFields, o - 0x50000)
  else if o < 0x70000 then (rlFields, (o - 0x60000) % 0x1000)
  else if o < 0x80000 then ([], 0)
  else if o < 0x90000 then (qmFields, o - 0x80000)
  else if o < 0xA0000 then (mvFields, o - 0x90000)
  else if o < 0xC0000 then (teFields, o - 0xA0000)
  else if o < 0xD0000 then (cdFields, o - 0xC0000)
  else if o < 0xE0000 then
    if (o - 0xD0000) % 0x1000 < 0x100 then (mcFields, (o - 0xD0000) % 0x1000)
    else if (o - 0xD0000) % 0x1000 < 0x500 then (mcPcFields, (o - 0xD0000) % 0x100)
    else ([], 0)
  else if o < 0xF0000 then (igFields, o - 0xE0000)
  else if o < 0x100000 then (rgFields, o - 0xF0000)
  else if o < 0x110000 then (thFields, o - 0x100000)
  else if o < 0x120000 then (tcFields, o - 0x110000)
  else if o < 0x130000 then (fzFields, o - 0x120000)
  else if o < 0x140000 then (sbFields, o - 0x130000)
  else if o < 0x150000 then (elFields, o - 0x140000)
  else ([], 0)

/-- The fields of the register at BAR0 offset `o`. -/
def specsAt (o : Nat) : List FieldSpec := (locate o).1.filter (fun f => f.off == (locate o).2)

/-- The table row of a field, if a table lists it. -/
def specOf (k : Fld) : Option FieldSpec := (specsAt (k / 32)).find? (fun f => f.lo == k % 32)

/-- The Cold value of a field (R21): its value after power-on. A field no table lists is reserved and reads 0 (R23). -/
def coldOf (k : Fld) : Nat := match specOf k with
  | some f => f.cold
  | none => 0

/-- True when a preserving full reset keeps the field (R21, R105). -/
def keptOf (k : Fld) : Bool := match specOf k with
  | some f => f.kept
  | none => false

/-- The value in force for a stored value: the Description's "0 is read as 1" and its like (R21). -/
def clampOf (k : Fld) (v : Nat) : Nat := match specOf k with
  | some f => max f.cmin (if f.cmax = 0 then v else min f.cmax v)
  | none => v

/-- DEV_STATUS.STAGE, bits 3:0 (R114). -/
def devStatusStage : Fld := fld (0x0 + 0x40) 0
/-- DEV_STATUS.PCIE_READY, bits 4:4 (R114). -/
def devStatusPcieReady : Fld := fld (0x0 + 0x40) 4
/-- DEV_STATUS.FW_RUNNING, bits 5:5 (R114). -/
def devStatusFwRunning : Fld := fld (0x0 + 0x40) 5
/-- DEV_STATUS.DP_READY, bits 6:6 (R114). -/
def devStatusDpReady : Fld := fld (0x0 + 0x40) 6
/-- DEV_STATUS.STACK_FAULT, bits 7:7 (R114). -/
def devStatusStackFault : Fld := fld (0x0 + 0x40) 7
/-- DEV_STATUS.RWA_DENIED, bits 8:8 (R114). -/
def devStatusRwaDenied : Fld := fld (0x0 + 0x40) 8
/-- DEV_STATUS.REPORT_VALID, bits 9:9 (R114). -/
def devStatusReportValid : Fld := fld (0x0 + 0x40) 9
/-- DEV_RESET_CAUSE.CAUSE, bits 4:0 (R115). -/
def devResetCauseCause : Fld := fld (0x0 + 0x44) 0
/-- DEV_RESET_CAUSE.HELD, bits 8:8 (R115). -/
def devResetCauseHeld : Fld := fld (0x0 + 0x44) 8
/-- DEV_RESET_CAUSE.QUIESCE_INCOMPLETE, bits 9:9 (R115). -/
def devResetCauseQuiesceIncomplete : Fld := fld (0x0 + 0x44) 9
/-- DEV_RESET_CAUSE.FW_REUSED, bits 10:10 (R115). -/
def devResetCauseFwReused : Fld := fld (0x0 + 0x44) 10
/-- DEV_RESET_CAUSE.COUNT, bits 31:16 (R115). -/
def devResetCauseCount : Fld := fld (0x0 + 0x44) 16
/-- DEV_STACK.FOUND, bits 4:0 (R116). -/
def devStackFound : Fld := fld (0x0 + 0x48) 0
/-- DEV_STACK.EXPECTED, bits 12:8 (R116). -/
def devStackExpected : Fld := fld (0x0 + 0x48) 8
/-- DEV_BOOT_TIME.TO_READY, bits 15:0 (R117). -/
def devBootTimeToReady : Fld := fld (0x0 + 0x4c) 0
/-- DEV_BOOT_TIME.TO_DP, bits 31:16 (R117). -/
def devBootTimeToDp : Fld := fld (0x0 + 0x4c) 16
/-- PL_STRAPS.REFWAIT, bits 2:0 (R148). -/
def plStrapsRefwait : Fld := fld (0x10000 + 0x0) 0
/-- PL_STRAPS.SBADDR, bits 5:4 (R148). -/
def plStrapsSbaddr : Fld := fld (0x10000 + 0x0) 4
/-- PL_STRAPS.SBCTL, bits 8:8 (R148). -/
def plStrapsSbctl : Fld := fld (0x10000 + 0x0) 8
/-- PL_STRAPS.BIST, bits 9:9 (R148). -/
def plStrapsBist : Fld := fld (0x10000 + 0x0) 9
/-- PL_CLK_STATUS.REFCLK_LOST, bits 0:0 (R149). -/
def plClkStatusRefclkLost : Fld := fld (0x10000 + 0x4) 0
/-- PL_CLK_STATUS.LOST_BY_FREQ, bits 1:1 (R149). -/
def plClkStatusLostByFreq : Fld := fld (0x10000 + 0x4) 1
/-- PL_CLK_STATUS.REFCLK_BAD, bits 2:2 (R149). -/
def plClkStatusRefclkBad : Fld := fld (0x10000 + 0x4) 2
/-- PL_CLK_STATUS.CLK_SWITCH_FORCED, bits 3:3 (R149). -/
def plClkStatusClkSwitchForced : Fld := fld (0x10000 + 0x4) 3
/-- PL_CLK_STATUS.CLK_SWITCH_FAILED, bits 4:4 (R149). -/
def plClkStatusClkSwitchFailed : Fld := fld (0x10000 + 0x4) 4
/-- PL_CLK_STATUS.PLL_LOCK, bits 12:8 (R149). -/
def plClkStatusPllLock : Fld := fld (0x10000 + 0x4) 8
/-- PL_REFMON.DEV_PPM, bits 15:0 (R150). -/
def plRefmonDevPpm : Fld := fld (0x10000 + 0x8) 0
/-- PL_REFMON.OSC_TRIM, bits 23:16 (R150). -/
def plRefmonOscTrim : Fld := fld (0x10000 + 0x8) 16
/-- PL_SWITCH_LOG.DOMAIN, bits 5:0 (R151). -/
def plSwitchLogDomain : Fld := fld (0x10000 + 0xc) 0
/-- PL_SWITCH_LOG.COUNT, bits 31:16 (R151). -/
def plSwitchLogCount : Fld := fld (0x10000 + 0xc) 16
/-- PL_SSC.MODE, bits 1:0 (R152). -/
def plSscMode : Fld := fld (0x10000 + 0x10) 0
/-- PL_GATE_DIS_LO / _HI, held as one 64-bit value (R153). -/
def plGateDis : Fld := fld (0x10000 + 0x14) 0
/-- PL_CLK_ACTIVE_LO / _HI, held as one 64-bit value (R153). -/
def plClkActive : Fld := fld (0x10000 + 0x1c) 0
/-- PL_PWR_ON_LO / _HI, held as one 64-bit value (R153). -/
def plPwrOn : Fld := fld (0x10000 + 0x24) 0
/-- PL_PWR_HOLD_LO / _HI, held as one 64-bit value (R153). -/
def plPwrHold : Fld := fld (0x10000 + 0x2c) 0
/-- TB_CTRL.SRC, bits 1:0 (R155). -/
def tbCtrlSrc : Fld := fld (0x20000 + 0x8) 0
/-- TB_CTRL.STEP_EN, bits 4:4 (R155). -/
def tbCtrlStepEn : Fld := fld (0x20000 + 0x8) 4
/-- TB_STATUS.LOCKED, bits 0:0 (R155). -/
def tbStatusLocked : Fld := fld (0x20000 + 0xc) 0
/-- TB_STATUS.HOLDOVER, bits 1:1 (R155). -/
def tbStatusHoldover : Fld := fld (0x20000 + 0xc) 1
/-- TB_STATUS.SLEWING, bits 2:2 (R155). -/
def tbStatusSlewing : Fld := fld (0x20000 + 0xc) 2
/-- TB_STATUS.STEPPED, bits 3:3 (R155). -/
def tbStatusStepped : Fld := fld (0x20000 + 0xc) 3
/-- TB_STATUS.TIMESYNC_STUCK, bits 4:4 (R155). -/
def tbStatusTimesyncStuck : Fld := fld (0x20000 + 0xc) 4
/-- TB_STATUS.PTM_FAIL, bits 5:5 (R155). -/
def tbStatusPtmFail : Fld := fld (0x20000 + 0xc) 5
/-- TB_STATUS.OFFSET, bits 31:16 (R155). -/
def tbStatusOffset : Fld := fld (0x20000 + 0xc) 16
/-- TB_RATE.CORR, bits 31:0 (R155). -/
def tbRateCorr : Fld := fld (0x20000 + 0x10) 0
/-- TB_OFFSET_LO / _HI, a 64-bit pair (R155). -/
def tbOffset : Fld := fld (0x20000 + 0x18) 0
/-- TB_SYNC_NEXT_LO / _HI, a 64-bit pair (R155). -/
def tbSyncNext : Fld := fld (0x20000 + 0x20) 0
/-- TB_SYNC_PERIOD, bits 31:0 (R155). -/
def tbSyncPeriod : Fld := fld (0x20000 + 0x28) 0
/-- TB_SYNC_CAPT_LO / _HI, a 64-bit pair (R155). -/
def tbSyncCapt : Fld := fld (0x20000 + 0x30) 0
/-- TB_SYNC_CFG.MIN_INTERVAL, bits 15:0 (R155). -/
def tbSyncCfgMinInterval : Fld := fld (0x20000 + 0x38) 0
/-- TB_SYNC_CFG.IGNORED, bits 31:16 (R155). -/
def tbSyncCfgIgnored : Fld := fld (0x20000 + 0x38) 16
/-- TB_PTM_CFG.INTERVAL, bits 15:0 (R155). -/
def tbPtmCfgInterval : Fld := fld (0x20000 + 0x3c) 0
/-- TB_PTM_CFG.STEP_THRESHOLD, bits 31:16 (R155). -/
def tbPtmCfgStepThreshold : Fld := fld (0x20000 + 0x3c) 16
/-- RL_LINK_STATUS.STATE, bits 3:0 (R184). -/
def rlLinkStatusState (p : Nat) : Fld := fld (0x60000 + 0x1000 * p + 0x0) 0
/-- RL_LINK_STATUS.PWR, bits 5:4 (R184). -/
def rlLinkStatusPwr (p : Nat) : Fld := fld (0x60000 + 0x1000 * p + 0x0) 4
/-- RL_LINK_STATUS.WIDTH, bits 7:6 (R184). -/
def rlLinkStatusWidth (p : Nat) : Fld := fld (0x60000 + 0x1000 * p + 0x0) 6
/-- RL_LINK_STATUS.LANES, bits 15:8 (R184). -/
def rlLinkStatusLanes (p : Nat) : Fld := fld (0x60000 + 0x1000 * p + 0x0) 8
/-- RL_LINK_STATUS.REVERSED, bits 16:16 (R184). -/
def rlLinkStatusReversed (p : Nat) : Fld := fld (0x60000 + 0x1000 * p + 0x0) 16
/-- RL_LINK_STATUS.CLK_LANE, bits 19:17 (R184). -/
def rlLinkStatusClkLane (p : Nat) : Fld := fld (0x60000 + 0x1000 * p + 0x0) 17
/-- RL_LINK_STATUS.CLK_LOCAL, bits 20:20 (R184). -/
def rlLinkStatusClkLocal (p : Nat) : Fld := fld (0x60000 + 0x1000 * p + 0x0) 20
/-- RL_LINK_STATUS.ATTEMPT, bits 23:21 (R184). -/
def rlLinkStatusAttempt (p : Nat) : Fld := fld (0x60000 + 0x1000 * p + 0x0) 21
/-- RL_LINK_STATUS.CHANGED, bits 24:24 (R184). -/
def rlLinkStatusChanged (p : Nat) : Fld := fld (0x60000 + 0x1000 * p + 0x0) 24
/-- RL_LANE_STATUS.LOS, bits 7:0 (R185). -/
def rlLaneStatusLos (p : Nat) : Fld := fld (0x60000 + 0x1000 * p + 0x4) 0
/-- RL_LANE_STATUS.LOL, bits 15:8 (R185). -/
def rlLaneStatusLol (p : Nat) : Fld := fld (0x60000 + 0x1000 * p + 0x4) 8
/-- RL_LANE_STATUS.POL_INV, bits 23:16 (R185). -/
def rlLaneStatusPolInv (p : Nat) : Fld := fld (0x60000 + 0x1000 * p + 0x4) 16
/-- RL_LANE_STATUS.EXCLUDED, bits 31:24 (R185). -/
def rlLaneStatusExcluded (p : Nat) : Fld := fld (0x60000 + 0x1000 * p + 0x4) 24
/-- RL_TRAIN_FAIL.STATE, bits 3:0 (R186). -/
def rlTrainFailState (p : Nat) : Fld := fld (0x60000 + 0x1000 * p + 0x8) 0
/-- RL_TRAIN_FAIL.CODE, bits 7:4 (R186). -/
def rlTrainFailCode (p : Nat) : Fld := fld (0x60000 + 0x1000 * p + 0x8) 4
/-- RL_TRAIN_FAIL.COUNT, bits 31:16 (R186). -/
def rlTrainFailCount (p : Nat) : Fld := fld (0x60000 + 0x1000 * p + 0x8) 16
/-- RL_RETRAIN_COUNT.SHORT, bits 15:0 (R186). -/
def rlRetrainCountShort (p : Nat) : Fld := fld (0x60000 + 0x1000 * p + 0xc) 0
/-- RL_RETRAIN_COUNT.COLD, bits 31:16 (R186). -/
def rlRetrainCountCold (p : Nat) : Fld := fld (0x60000 + 0x1000 * p + 0xc) 16
/-- RL_LAT.FIXED, bits 15:0 (R186). -/
def rlLatFixed (p : Nat) : Fld := fld (0x60000 + 0x1000 * p + 0x38) 0
/-- RL_PWR_CFG.WARM_EN, bits 0:0 (R187). -/
def rlPwrCfgWarmEn (p : Nat) : Fld := fld (0x60000 + 0x1000 * p + 0x10) 0
/-- RL_PWR_CFG.BANKED_EN, bits 1:1 (R187). -/
def rlPwrCfgBankedEn (p : Nat) : Fld := fld (0x60000 + 0x1000 * p + 0x10) 1
/-- RL_PWR_CFG.WARM_IDLE, bits 15:4 (R187). -/
def rlPwrCfgWarmIdle (p : Nat) : Fld := fld (0x60000 + 0x1000 * p + 0x10) 4
/-- RL_PWR_CFG.BANKED_IDLE, bits 31:16 (R187). -/
def rlPwrCfgBankedIdle (p : Nat) : Fld := fld (0x60000 + 0x1000 * p + 0x10) 16
/-- RL_EQ_CTRL.DFE_FREEZE, bits 0:0 (R188). -/
def rlEqCtrlDfeFreeze (p : Nat) : Fld := fld (0x60000 + 0x1000 * p + 0x14) 0
/-- RL_EQ_CTRL.CTLE_FIXED, bits 1:1 (R188). -/
def rlEqCtrlCtleFixed (p : Nat) : Fld := fld (0x60000 + 0x1000 * p + 0x14) 1
/-- RL_EQ_CTRL.CTLE_VALUE, bits 7:4 (R188). -/
def rlEqCtrlCtleValue (p : Nat) : Fld := fld (0x60000 + 0x1000 * p + 0x14) 4
/-- RL_EQ_CTRL.TX_PRESET, bits 10:8 (R188). -/
def rlEqCtrlTxPreset (p : Nat) : Fld := fld (0x60000 + 0x1000 * p + 0x14) 8
/-- RL_EQ_CTRL.PRESET_FORCE, bits 11:11 (R188). -/
def rlEqCtrlPresetForce (p : Nat) : Fld := fld (0x60000 + 0x1000 * p + 0x14) 11
/-- RL_EQ_SEL.LANE, bits 2:0 (R188). -/
def rlEqSelLane (p : Nat) : Fld := fld (0x60000 + 0x1000 * p + 0x18) 0
/-- RL_TX_FFE_A, bits 31:0 (R188). -/
def rlTxFfeA (p : Nat) : Fld := fld (0x60000 + 0x1000 * p + 0x1c) 0
/-- RL_TX_FFE_B.C_P2, bits 7:0 (R188). -/
def rlTxFfeBCP2 (p : Nat) : Fld := fld (0x60000 + 0x1000 * p + 0x20) 0
/-- RL_RX_CTLE.SETTING, bits 3:0 (R188). -/
def rlRxCtleSetting (p : Nat) : Fld := fld (0x60000 + 0x1000 * p + 0x24) 0
/-- RL_RX_DFE_i (R188). -/
def rlRxDfe (p i : Nat) : Fld := fld (0x60000 + 0x1000 * p + 0x28 + 4 * i) 0
/-- RL_LANE_SER, bits 31:0 (R188). -/
def rlLaneSer (p : Nat) : Fld := fld (0x60000 + 0x1000 * p + 0x34) 0
/-- RL_FEC_STAT.CORR_CW, bits 15:0 (R231). -/
def rlFecStatCorrCw (p : Nat) : Fld := fld (0x60000 + 0x1000 * p + 0x40) 0
/-- RL_FEC_STAT.UNCORR_CW, bits 31:16 (R231). -/
def rlFecStatUncorrCw (p : Nat) : Fld := fld (0x60000 + 0x1000 * p + 0x40) 16
/-- RL_FEC_SYM.CORR_SYM, bits 31:0 (R231). -/
def rlFecSymCorrSym (p : Nat) : Fld := fld (0x60000 + 0x1000 * p + 0x44) 0
/-- RL_REPLAY.NAKS, bits 15:0 (R232). -/
def rlReplayNaks (p : Nat) : Fld := fld (0x60000 + 0x1000 * p + 0x48) 0
/-- RL_REPLAY.REPLAYS, bits 30:16 (R232). -/
def rlReplayReplays (p : Nat) : Fld := fld (0x60000 + 0x1000 * p + 0x48) 16
/-- RL_REPLAY.STALLED, bits 31:31 (R232). -/
def rlReplayStalled (p : Nat) : Fld := fld (0x60000 + 0x1000 * p + 0x48) 31
/-- RL_CRC.FIRST, bits 15:0 (R232). -/
def rlCrcFirst (p : Nat) : Fld := fld (0x60000 + 0x1000 * p + 0x4c) 0
/-- RL_CRC.CORRUPT, bits 31:16 (R232). -/
def rlCrcCorrupt (p : Nat) : Fld := fld (0x60000 + 0x1000 * p + 0x4c) 16
/-- RL_TX_CREDIT.VC2, bits 11:0 (R233). -/
def rlTxCreditVc2 (p : Nat) : Fld := fld (0x60000 + 0x1000 * p + 0x50) 0
/-- RL_TX_CREDIT.VC3, bits 27:16 (R233). -/
def rlTxCreditVc3 (p : Nat) : Fld := fld (0x60000 + 0x1000 * p + 0x50) 16
/-- RL_RX_FREE_A.VC0, bits 11:0 (R233). -/
def rlRxFreeAVc0 (p : Nat) : Fld := fld (0x60000 + 0x1000 * p + 0x54) 0
/-- RL_RX_FREE_A.VC1, bits 27:16 (R233). -/
def rlRxFreeAVc1 (p : Nat) : Fld := fld (0x60000 + 0x1000 * p + 0x54) 16
/-- RL_RX_FREE_B.VC3, bits 11:0 (R233). -/
def rlRxFreeBVc3 (p : Nat) : Fld := fld (0x60000 + 0x1000 * p + 0x58) 0
/-- RL_SEQ_RX.ACK_SEQ, bits 23:0 (R233). -/
def rlSeqRxAckSeq (p : Nat) : Fld := fld (0x60000 + 0x1000 * p + 0x5c) 0
/-- RL_SEQ_TX.NEXT, bits 23:0 (R233). -/
def rlSeqTxNext (p : Nat) : Fld := fld (0x60000 + 0x1000 * p + 0x60) 0
/-- RL_EGRESS.BYTES, bits 17:0 (R233). -/
def rlEgressBytes (p : Nat) : Fld := fld (0x60000 + 0x1000 * p + 0x70) 0
/-- RL_PROTO_ERR.CREDIT, bits 6:0 (R234). -/
def rlProtoErrCredit (p : Nat) : Fld := fld (0x60000 + 0x1000 * p + 0x64) 0
/-- RL_PROTO_ERR.FATAL, bits 7:7 (R234). -/
def rlProtoErrFatal (p : Nat) : Fld := fld (0x60000 + 0x1000 * p + 0x64) 7
/-- RL_PROTO_ERR.OPCODE, bits 15:8 (R234). -/
def rlProtoErrOpcode (p : Nat) : Fld := fld (0x60000 + 0x1000 * p + 0x64) 8
/-- RL_PROTO_ERR.LENGTH, bits 23:16 (R234). -/
def rlProtoErrLength (p : Nat) : Fld := fld (0x60000 + 0x1000 * p + 0x64) 16
/-- RL_PROTO_ERR.RESYNC, bits 31:24 (R234). -/
def rlProtoErrResync (p : Nat) : Fld := fld (0x60000 + 0x1000 * p + 0x64) 24
/-- RL_LOST.REPLIES, bits 15:0 (R235). -/
def rlLostReplies (p : Nat) : Fld := fld (0x60000 + 0x1000 * p + 0x68) 0
/-- RL_LOST.PACKETS, bits 31:16 (R235). -/
def rlLostPackets (p : Nat) : Fld := fld (0x60000 + 0x1000 * p + 0x68) 16
/-- RL_RESUME.RESUMED, bits 15:0 (R235). -/
def rlResumeResumed (p : Nat) : Fld := fld (0x60000 + 0x1000 * p + 0x6c) 0
/-- RL_RESUME.NOT_RESUMED, bits 31:16 (R235). -/
def rlResumeNotResumed (p : Nat) : Fld := fld (0x60000 + 0x1000 * p + 0x6c) 16
/-- QM_CTRL.PREFETCH_DEPTH, bits 3:0 (R279). -/
def qmCtrlPrefetchDepth : Fld := fld (0x80000 + 0x0) 0
/-- QM_STATUS.SLICES, bits 7:0 (R279). -/
def qmStatusSlices : Fld := fld (0x80000 + 0x4) 0
/-- QM_STATUS.SNAP_PENDING, bits 8:8 (R279). -/
def qmStatusSnapPending : Fld := fld (0x80000 + 0x4) 8
/-- QM_STATUS.SNAP_LOCKED, bits 9:9 (R279). -/
def qmStatusSnapLocked : Fld := fld (0x80000 + 0x4) 9
/-- QM_SNAP_NUM.LAST, bits 31:0 (R279). -/
def qmSnapNumLast : Fld := fld (0x80000 + 0x8) 0
/-- QM_SNAP_TICK_LO / _HI, a 64-bit pair (R279). -/
def qmSnapTick : Fld := fld (0x80000 + 0xc) 0
/-- QM_POOL_LIMIT.BYTES, a 64-bit pair (R279). -/
def qmPoolLimit : Fld := fld (0x80000 + 0x18) 0
/-- QM_POOL_USED.BLOCKS, bits 25:0 (R279). -/
def qmPoolUsedBlocks : Fld := fld (0x80000 + 0x20) 0
/-- QM_POOL_RESERVED.BLOCKS, bits 25:0 (R279). -/
def qmPoolReservedBlocks : Fld := fld (0x80000 + 0x24) 0
/-- QM_POOL_FREE.BLOCKS, bits 25:0 (R279). -/
def qmPoolFreeBlocks : Fld := fld (0x80000 + 0x28) 0
/-- QM_QUEUES.CONFIGURED, bits 17:0 (R279). -/
def qmQueuesConfigured : Fld := fld (0x80000 + 0x2c) 0
/-- QM_REFUSE_QFULL, bits 31:0 (R279). -/
def qmRefuseQfull : Fld := fld (0x80000 + 0x30) 0
/-- QM_REFUSE_POOL, bits 31:0 (R279). -/
def qmRefusePool : Fld := fld (0x80000 + 0x34) 0
/-- QM_REFUSE_STATE, bits 31:0 (R279). -/
def qmRefuseState : Fld := fld (0x80000 + 0x38) 0
/-- QM_POISON.PACKETS, bits 31:0 (R279). -/
def qmPoisonPackets : Fld := fld (0x80000 + 0x3c) 0
/-- QM_LOST.PACKETS, bits 31:0 (R279). -/
def qmLostPackets : Fld := fld (0x80000 + 0x40) 0
/-- QM_BROKEN.QUEUE, bits 16:0 (R279). -/
def qmBrokenQueue : Fld := fld (0x80000 + 0x44) 0
/-- QM_BROKEN.COUNT, bits 31:24 (R279). -/
def qmBrokenCount : Fld := fld (0x80000 + 0x44) 24
/-- QM_ENQ_COUNT_LO / _HI, a 64-bit pair (R279). -/
def qmEnqCount : Fld := fld (0x80000 + 0x48) 0
/-- QM_DEQ_COUNT_LO / _HI, a 64-bit pair (R279). -/
def qmDeqCount : Fld := fld (0x80000 + 0x50) 0
/-- MV_STATUS.ELIGIBLE, bits 6:0 (R308). -/
def mvStatusEligible : Fld := fld (0x90000 + 0x0) 0
/-- MV_STATUS.CAL_PC, bits 13:8 (R308). -/
def mvStatusCalPc : Fld := fld (0x90000 + 0x0) 8
/-- MV_STATUS.CAL_ACTIVE, bits 14:14 (R308). -/
def mvStatusCalActive : Fld := fld (0x90000 + 0x0) 14
/-- MV_STATUS.FLOOR_HIT, bits 15:15 (R308). -/
def mvStatusFloorHit : Fld := fld (0x90000 + 0x0) 15
/-- MV_STATUS.OUT, bits 22:16 (R308). -/
def mvStatusOut : Fld := fld (0x90000 + 0x0) 16
/-- MV_EPOCH_LO / _HI, a 64-bit pair (R308). -/
def mvEpoch : Fld := fld (0x90000 + 0x4) 0
/-- MV_ELIGIBLE_LO / _HI, a 64-bit pair (R308). -/
def mvEligible : Fld := fld (0x90000 + 0xc) 0
/-- MV_THERM_EXCL_LO / _HI, a 64-bit pair (R308). -/
def mvThermExcl : Fld := fld (0x90000 + 0x14) 0
/-- MV_REGION.SIZE, bits 15:0 (R308). -/
def mvRegionSize : Fld := fld (0x90000 + 0x1c) 0
/-- MV_REGION.BASE_PC, bits 21:16 (R308). -/
def mvRegionBasePc : Fld := fld (0x90000 + 0x1c) 16
/-- MV_SPLIT.T_UNITS, bits 15:0 (R308). -/
def mvSplitTUnits : Fld := fld (0x90000 + 0x20) 0
/-- MV_TABLE_USED.ROWS, bits 25:0 (R308). -/
def mvTableUsedRows : Fld := fld (0x90000 + 0x24) 0
/-- MV_POOL.ROWS, bits 25:0 (R308). -/
def mvPoolRows : Fld := fld (0x90000 + 0x28) 0
/-- MV_RETIRED.BANKS, bits 15:0 (R308). -/
def mvRetiredBanks : Fld := fld (0x90000 + 0x2c) 0
/-- MV_DRAIN.BLOCKS, bits 25:0 (R308). -/
def mvDrainBlocks : Fld := fld (0x90000 + 0x30) 0
/-- MV_TIER.REPL_KIB, bits 23:0 (R308). -/
def mvTierReplKib : Fld := fld (0x90000 + 0x34) 0
/-- MV_TIER_HOME.KIB, bits 31:0 (R308). -/
def mvTierHomeKib : Fld := fld (0x90000 + 0x38) 0
/-- MV_PROMOTED, bits 31:0 (R308). -/
def mvPromoted : Fld := fld (0x90000 + 0x3c) 0
/-- MV_DEMOTED, bits 31:0 (R308). -/
def mvDemoted : Fld := fld (0x90000 + 0x40) 0
/-- MV_ROWS.FLAGGED, bits 15:0 (R308). -/
def mvRowsFlagged : Fld := fld (0x90000 + 0x44) 0
/-- MV_ROWS.HELD_AT_END, bits 31:16 (R308). -/
def mvRowsHeldAtEnd : Fld := fld (0x90000 + 0x44) 16
/-- MV_RECLAIM.BLOCKS, bits 25:0 (R308). -/
def mvReclaimBlocks : Fld := fld (0x90000 + 0x48) 0
/-- MV_RECLAIM_LOST, bits 31:0 (R308). -/
def mvReclaimLost : Fld := fld (0x90000 + 0x4c) 0
/-- MV_SPREAD.MIN, bits 6:0 (R308). -/
def mvSpreadMin : Fld := fld (0x90000 + 0x50) 0
/-- MV_SPREAD.DETOURS, bits 31:16 (R308). -/
def mvSpreadDetours : Fld := fld (0x90000 + 0x50) 16
/-- MV_CFG.HOME_MIN, bits 15:0 (R308). -/
def mvCfgHomeMin : Fld := fld (0x90000 + 0x60) 0
/-- MV_CFG.REPL_MIN, bits 31:16 (R308). -/
def mvCfgReplMin : Fld := fld (0x90000 + 0x60) 16
/-- MV_CFG2.DEMOTE_EPOCHS, bits 3:0 (R308). -/
def mvCfg2DemoteEpochs : Fld := fld (0x90000 + 0x64) 0
/-- MV_CFG2.REPL_SHARE, bits 7:4 (R308). -/
def mvCfg2ReplShare : Fld := fld (0x90000 + 0x64) 4
/-- MV_CFG2.E_MIN, bits 14:8 (R308). -/
def mvCfg2EMin : Fld := fld (0x90000 + 0x64) 8
/-- MV_CFG2.THERM_EXCL_EN, bits 15:15 (R308). -/
def mvCfg2ThermExclEn : Fld := fld (0x90000 + 0x64) 15
/-- MV_CFG2.MOVE_BUDGET, bits 31:16 (R308). -/
def mvCfg2MoveBudget : Fld := fld (0x90000 + 0x64) 16
/-- MV_CFG3.ENG_TARGET, bits 15:0 (R308). -/
def mvCfg3EngTarget : Fld := fld (0x90000 + 0x68) 0
/-- TE_ENGINES_LO / _HI, held as one 64-bit value (R339). -/
def teEngines : Fld := fld (0xa0000 + 0x0) 0
/-- TE_BENCH.POWERED, bits 7:0 (R339). -/
def teBenchPowered : Fld := fld (0xa0000 + 0x8) 0
/-- TE_BENCH.RUNNING, bits 15:8 (R339). -/
def teBenchRunning : Fld := fld (0xa0000 + 0x8) 8
/-- TE_TABLES.COUNT, bits 8:0 (R339). -/
def teTablesCount : Fld := fld (0xa0000 + 0xc) 0
/-- TE_LOOKUP_LO / _HI, a 64-bit pair (R339). -/
def teLookup : Fld := fld (0xa0000 + 0x10) 0
/-- TE_MISS_LO / _HI, a 64-bit pair (R339). -/
def teMiss : Fld := fld (0xa0000 + 0x18) 0
/-- TE_CNT_OPS_LO / _HI, a 64-bit pair (R339). -/
def teCntOps : Fld := fld (0xa0000 + 0x20) 0
/-- TE_DRAM_READS_LO / _HI, a 64-bit pair (R339). -/
def teDramReads : Fld := fld (0xa0000 + 0x28) 0
/-- TE_MEMERR, bits 31:0 (R339). -/
def teMemerr : Fld := fld (0xa0000 + 0x30) 0
/-- TE_MIRROR_SAVES, bits 31:0 (R339). -/
def teMirrorSaves : Fld := fld (0xa0000 + 0x34) 0
/-- TE_CNT_LOST, bits 31:0 (R339). -/
def teCntLost : Fld := fld (0xa0000 + 0x38) 0
/-- TE_REFUSED, bits 31:0 (R339). -/
def teRefused : Fld := fld (0xa0000 + 0x3c) 0
/-- TE_THREADS.NOW, bits 11:0 (R339). -/
def teThreadsNow : Fld := fld (0xa0000 + 0x40) 0
/-- TE_THREADS.PEAK, bits 27:16 (R339). -/
def teThreadsPeak : Fld := fld (0xa0000 + 0x40) 16
/-- TE_QUEUE.PEAK, bits 10:0 (R339). -/
def teQueuePeak : Fld := fld (0xa0000 + 0x44) 0
/-- TE_QUEUE.ENGINE, bits 21:16 (R339). -/
def teQueueEngine : Fld := fld (0xa0000 + 0x44) 16
/-- TE_LAT_CFG.TABLE, bits 7:0 (R340). -/
def teLatCfgTable : Fld := fld (0xa0000 + 0x50) 0
/-- TE_LAT_CFG.EN, bits 8:8 (R340). -/
def teLatCfgEn : Fld := fld (0xa0000 + 0x50) 8
/-- TE_LAT_CFG.CLEAR, bits 9:9 (R340). -/
def teLatCfgClear : Fld := fld (0xa0000 + 0x50) 9
/-- TE_LAT_IDX.BIN, bits 5:0 (R340). -/
def teLatIdxBin : Fld := fld (0xa0000 + 0x54) 0
/-- TE_LAT_BIN, bits 31:0 (R340). -/
def teLatBin : Fld := fld (0xa0000 + 0x58) 0
/-- TE_CTRL.TABLE_THREADS, bits 5:0 (R341). -/
def teCtrlTableThreads : Fld := fld (0xa0000 + 0x60) 0
/-- MC_CTRL.POLICY, bits 0:0 (R404). -/
def mcCtrlPolicy (m : Nat) : Fld := fld (0xD0000 + 0x1000 * m + 0x0) 0
/-- MC_CTRL.IDLE, bits 15:8 (R404). -/
def mcCtrlIdle (m : Nat) : Fld := fld (0xD0000 + 0x1000 * m + 0x0) 8
/-- MC_TGT0.QW, bits 15:0 (R404). -/
def mcTgt0Qw (m : Nat) : Fld := fld (0xD0000 + 0x1000 * m + 0x4) 0
/-- MC_TGT0.QR, bits 31:16 (R404). -/
def mcTgt0Qr (m : Nat) : Fld := fld (0xD0000 + 0x1000 * m + 0x4) 16
/-- MC_TGT1.TM, bits 15:0 (R404). -/
def mcTgt1Tm (m : Nat) : Fld := fld (0xD0000 + 0x1000 * m + 0x8) 0
/-- MC_TGT1.HB, bits 31:16 (R404). -/
def mcTgt1Hb (m : Nat) : Fld := fld (0xD0000 + 0x1000 * m + 0x8) 16
/-- MC_TGT2.FS, bits 15:0 (R404). -/
def mcTgt2Fs (m : Nat) : Fld := fld (0xD0000 + 0x1000 * m + 0xc) 0
/-- MC_TGT2.CA, bits 31:16 (R404). -/
def mcTgt2Ca (m : Nat) : Fld := fld (0xD0000 + 0x1000 * m + 0xc) 16
/-- MC_HINT_DEF, bits 11:0 (R404). -/
def mcHintDef (m : Nat) : Fld := fld (0xD0000 + 0x1000 * m + 0x10) 0
/-- MC_WQ_MARK.HIGH, bits 6:0 (R404). -/
def mcWqMarkHigh (m : Nat) : Fld := fld (0xD0000 + 0x1000 * m + 0x14) 0
/-- MC_WQ_MARK.LOW, bits 14:8 (R404). -/
def mcWqMarkLow (m : Nat) : Fld := fld (0xD0000 + 0x1000 * m + 0x14) 8
/-- MC_STAGE.GUARD, bits 0:0 (R404). -/
def mcStageGuard (m : Nat) : Fld := fld (0xD0000 + 0x1000 * m + 0x18) 0
/-- MC_STAGE.TRACK_OVF, bits 1:1 (R404). -/
def mcStageTrackOvf (m : Nat) : Fld := fld (0xD0000 + 0x1000 * m + 0x18) 1
/-- MC_STAGE.PEAK, bits 31:16 (R404). -/
def mcStagePeak (m : Nat) : Fld := fld (0xD0000 + 0x1000 * m + 0x18) 16
/-- MC_STAGE_OVER, bits 31:0 (R404). -/
def mcStageOver (m : Nat) : Fld := fld (0xD0000 + 0x1000 * m + 0x1c) 0
/-- MC_PWR_CFG.PD_IDLE, bits 15:0 (R404). -/
def mcPwrCfgPdIdle (m : Nat) : Fld := fld (0xD0000 + 0x1000 * m + 0x20) 0
/-- MC_PWR_CFG.SR_IDLE, bits 31:16 (R404). -/
def mcPwrCfgSrIdle (m : Nat) : Fld := fld (0xD0000 + 0x1000 * m + 0x20) 16
/-- MC_PC_STATUS.STATE, bits 1:0 (R405). -/
def mcPcStatusState (n : Nat) : Fld := fld (mcPcBase n + 0x0) 0
/-- MC_PC_STATUS.CAL_HOLD, bits 2:2 (R405). -/
def mcPcStatusCalHold (n : Nat) : Fld := fld (mcPcBase n + 0x0) 2
/-- MC_PC_STATUS.DRAIN, bits 3:3 (R405). -/
def mcPcStatusDrain (n : Nat) : Fld := fld (mcPcBase n + 0x0) 3
/-- MC_PC_STATUS.DLY_REJECT, bits 4:4 (R405). -/
def mcPcStatusDlyReject (n : Nat) : Fld := fld (mcPcBase n + 0x0) 4
/-- MC_PC_REFRESH.RATE, bits 1:0 (R405). -/
def mcPcRefreshRate (n : Nat) : Fld := fld (mcPcBase n + 0x4) 0
/-- MC_PC_REFRESH.DEBT, bits 4:2 (R405). -/
def mcPcRefreshDebt (n : Nat) : Fld := fld (mcPcBase n + 0x4) 2
/-- MC_PC_REFRESH.FORCED, bits 31:16 (R405). -/
def mcPcRefreshForced (n : Nat) : Fld := fld (mcPcBase n + 0x4) 16
/-- MC_PC_QUEUE.WQ, bits 6:0 (R405). -/
def mcPcQueueWq (n : Nat) : Fld := fld (mcPcBase n + 0x8) 0
/-- MC_PC_QUEUE.RQ, bits 14:8 (R405). -/
def mcPcQueueRq (n : Nat) : Fld := fld (mcPcBase n + 0x8) 8
/-- MC_PC_QUEUE.WQ_PEAK, bits 22:16 (R405). -/
def mcPcQueueWqPeak (n : Nat) : Fld := fld (mcPcBase n + 0x8) 16
/-- MC_PC_QUEUE.RQ_PEAK, bits 30:24 (R405). -/
def mcPcQueueRqPeak (n : Nat) : Fld := fld (mcPcBase n + 0x8) 24
/-- MC_PC_LATE, bits 31:0 (R405). -/
def mcPcLate (n : Nat) : Fld := fld (mcPcBase n + 0xc) 0
/-- MC_PC_FWD, bits 31:0 (R405). -/
def mcPcFwd (n : Nat) : Fld := fld (mcPcBase n + 0x10) 0
/-- MC_PC_MERGE, bits 31:0 (R405). -/
def mcPcMerge (n : Nat) : Fld := fld (mcPcBase n + 0x14) 0
/-- MC_PC_ACT, bits 31:0 (R405). -/
def mcPcAct (n : Nat) : Fld := fld (mcPcBase n + 0x18) 0
/-- MC_DLY_CA, bits 11:0 (R405). -/
def mcDlyCa (n : Nat) : Fld := fld (mcPcBase n + 0x20) 0
/-- MC_DLY_WR, bits 11:0 (R405). -/
def mcDlyWr (n : Nat) : Fld := fld (mcPcBase n + 0x24) 0
/-- MC_DLY_RD, bits 11:0 (R405). -/
def mcDlyRd (n : Nat) : Fld := fld (mcPcBase n + 0x28) 0
/-- MC_DLY_RL, bits 5:0 (R405). -/
def mcDlyRl (n : Nat) : Fld := fld (mcPcBase n + 0x2c) 0
/-- MC_DLY_BYTEn.WR (R405). -/
def mcDlyByteWr (n i : Nat) : Fld := fld (mcPcBase n + 0x30 + 4 * i) 0
/-- MC_DLY_BYTEn.RD (R405). -/
def mcDlyByteRd (n i : Nat) : Fld := fld (mcPcBase n + 0x30 + 4 * i) 8
/-- CD_SLICES_LO / _HI, held as one 64-bit value (R406). -/
def cdSlices : Fld := fld (0xc0000 + 0x0) 0
/-- CD_QUAD.RETENTION, bits 3:0 (R406). -/
def cdQuadRetention : Fld := fld (0xc0000 + 0x8) 0
/-- CD_QUAD.SERVED, bits 14:8 (R406). -/
def cdQuadServed : Fld := fld (0xc0000 + 0x8) 8
/-- CD_SHARED_BUSY, bits 31:0 (R406). -/
def cdSharedBusy : Fld := fld (0xc0000 + 0xc) 0
/-- CD_PRIV_BUSY, bits 31:0 (R406). -/
def cdPrivBusy : Fld := fld (0xc0000 + 0x10) 0
/-- CD_CONFLICT, bits 31:0 (R406). -/
def cdConflict : Fld := fld (0xc0000 + 0x14) 0
/-- IG_STATUS.FILL_DONE, bits 0:0 (R430). -/
def igStatusFillDone : Fld := fld (0xe0000 + 0x0) 0
/-- IG_STATUS.UE_SEEN, bits 1:1 (R430). -/
def igStatusUeSeen : Fld := fld (0xe0000 + 0x0) 1
/-- IG_FILL_TIME, bits 15:0 (R430). -/
def igFillTime : Fld := fld (0xe0000 + 0x4) 0
/-- IG_CE_LO / _HI, a 64-bit pair (R430). -/
def igCe : Fld := fld (0xe0000 + 0x8) 0
/-- IG_UE, bits 31:0 (R430). -/
def igUe : Fld := fld (0xe0000 + 0x10) 0
/-- IG_POISON_READS, bits 31:0 (R430). -/
def igPoisonReads : Fld := fld (0xe0000 + 0x14) 0
/-- IG_BKT_DEPTHk.DEPTH (R430). -/
def igBktDepthDepth (k : Nat) : Fld := fld (0xE0000 + 0x20 + 8 * k) 0
/-- IG_BKT_LEAKk.MS (R430). -/
def igBktLeakMs (k : Nat) : Fld := fld (0xE0000 + 0x24 + 8 * k) 0
/-- IG_BKT_SEL.UNIT, bits 7:0 (R430). -/
def igBktSelUnit : Fld := fld (0xe0000 + 0x40) 0
/-- IG_BKT_COUNT.COUNT, bits 15:0 (R430). -/
def igBktCountCount : Fld := fld (0xe0000 + 0x44) 0
/-- IG_BKT_COUNT.OVERFLOWS, bits 31:16 (R430). -/
def igBktCountOverflows : Fld := fld (0xe0000 + 0x44) 16
/-- IG_BKT_OVF_0 to _6 (R430). -/
def igBktOvf (i : Nat) : Fld := fld (0xE0000 + 0x48 + 4 * i) 0
/-- IG_RETIRE_CFG.AUTO_EN, bits 0:0 (R430). -/
def igRetireCfgAutoEn : Fld := fld (0xe0000 + 0x70) 0
/-- IG_RETIRE_CFG.MAX, bits 12:8 (R430). -/
def igRetireCfgMax : Fld := fld (0xe0000 + 0x70) 8
/-- IG_RETIRE_CFG.UE_WINDOW, bits 23:16 (R430). -/
def igRetireCfgUeWindow : Fld := fld (0xe0000 + 0x70) 16
/-- IG_SLICE_MARK_LO / _HI, a 64-bit pair (R430). -/
def igSliceMark : Fld := fld (0xe0000 + 0x74) 0
/-- FX_CFG.SWEEP_MIN, bits 13:0 (R430). -/
def fxCfgSweepMin : Fld := fld (0xe0000 + 0x80) 0
/-- FX_STATUS.PROGRESS, bits 6:0 (R430). -/
def fxStatusProgress : Fld := fld (0xe0000 + 0x84) 0
/-- FX_STATUS.SWEEP_LATE, bits 8:8 (R430). -/
def fxStatusSweepLate : Fld := fld (0xe0000 + 0x84) 8
/-- FX_STATUS.PAUSED, bits 9:9 (R430). -/
def fxStatusPaused : Fld := fld (0xe0000 + 0x84) 9
/-- FX_SWEEPS.DRAM, bits 15:0 (R430). -/
def fxSweepsDram : Fld := fld (0xe0000 + 0x88) 0
/-- FX_SWEEPS.CRUCIBLE, bits 31:16 (R430). -/
def fxSweepsCrucible : Fld := fld (0xe0000 + 0x88) 16
/-- FX_CORRECTED, bits 31:0 (R430). -/
def fxCorrected : Fld := fld (0xe0000 + 0x8c) 0
/-- FX_POISONED, bits 31:0 (R430). -/
def fxPoisoned : Fld := fld (0xe0000 + 0x90) 0
/-- IG_MIRROR_REPAIRS, bits 31:0 (R430). -/
def igMirrorRepairs : Fld := fld (0xe0000 + 0x94) 0
/-- IG_TABLE_DAMAGED_0 to _7 (R430). -/
def igTableDamaged (i : Nat) : Fld := fld (0xE0000 + 0xa0 + 4 * i) 0
/-- RG_STATUS.SCALED, bits 0:0 (R449). -/
def rgStatusScaled : Fld := fld (0xf0000 + 0x0) 0
/-- RG_STATUS.BREACH, bits 1:1 (R449). -/
def rgStatusBreach : Fld := fld (0xf0000 + 0x0) 1
/-- RG_CFG.WINDOW, bits 9:0 (R449). -/
def rgCfgWindow : Fld := fld (0xf0000 + 0x4) 0
/-- RG_CFG.PLAN_RATE, bits 13:12 (R449). -/
def rgCfgPlanRate : Fld := fld (0xf0000 + 0x4) 12
/-- RG_FLOOR, bits 31:0 (R449). -/
def rgFloor : Fld := fld (0xf0000 + 0x8) 0
/-- RG_COMMITTED, bits 31:0 (R449). -/
def rgCommitted : Fld := fld (0xf0000 + 0xc) 0
/-- RG_SCALE.K, bits 10:0 (R449). -/
def rgScaleK : Fld := fld (0xf0000 + 0x10) 0
/-- RG_DEMOTED, bits 14:0 (R449). -/
def rgDemoted : Fld := fld (0xf0000 + 0x14) 0
/-- RG_BREACH_COUNT, bits 15:0 (R449). -/
def rgBreachCount : Fld := fld (0xf0000 + 0x18) 0
/-- RG_CLASS_SEL.CLASS, bits 3:0 (R449). -/
def rgClassSelClass : Fld := fld (0xf0000 + 0x20) 0
/-- RG_CLASS_BW, bits 31:0 (R449). -/
def rgClassBw : Fld := fld (0xf0000 + 0x24) 0
/-- RG_CLASS_CRU.GUAR, bits 8:0 (R449). -/
def rgClassCruGuar : Fld := fld (0xf0000 + 0x28) 0
/-- RG_CLASS_CRU.HELD, bits 30:16 (R449). -/
def rgClassCruHeld : Fld := fld (0xf0000 + 0x28) 16
/-- RG_CLASS_THR.GUAR, bits 5:0 (R449). -/
def rgClassThrGuar : Fld := fld (0xf0000 + 0x2c) 0
/-- RG_CLASS_THR.BUSY, bits 27:16 (R449). -/
def rgClassThrBusy : Fld := fld (0xf0000 + 0x2c) 16
/-- RG_CLASS_SECT_LO / _HI, a 64-bit pair (R449). -/
def rgClassSect : Fld := fld (0xf0000 + 0x30) 0
/-- RG_CLASS_OVER_LO / _HI, a 64-bit pair (R449). -/
def rgClassOver : Fld := fld (0xf0000 + 0x38) 0
/-- HC_SQ_BASE_LO / _HI, a 64-bit pair (R478). -/
def hcSqBase (r : Nat) : Fld := fld (0x30000 + 0x40 * r + 0x0) 0
/-- HC_CQ_BASE_LO / _HI, a 64-bit pair (R478). -/
def hcCqBase (r : Nat) : Fld := fld (0x30000 + 0x40 * r + 0x8) 0
/-- HC_RING_SIZE.SQ, bits 12:0 (R478). -/
def hcRingSizeSq (r : Nat) : Fld := fld (0x30000 + 0x40 * r + 0x10) 0
/-- HC_RING_SIZE.CQ, bits 28:16 (R478). -/
def hcRingSizeCq (r : Nat) : Fld := fld (0x30000 + 0x40 * r + 0x10) 16
/-- HC_RING_CTRL.ENABLE, bits 0:0 (R478). -/
def hcRingCtrlEnable (r : Nat) : Fld := fld (0x30000 + 0x40 * r + 0x14) 0
/-- HC_RING_CTRL.INT_COUNT, bits 15:8 (R478). -/
def hcRingCtrlIntCount (r : Nat) : Fld := fld (0x30000 + 0x40 * r + 0x14) 8
/-- HC_RING_CTRL.INT_TIME, bits 31:16 (R478). -/
def hcRingCtrlIntTime (r : Nat) : Fld := fld (0x30000 + 0x40 * r + 0x14) 16
/-- HC_RING_STATUS.ENABLED, bits 0:0 (R478). -/
def hcRingStatusEnabled (r : Nat) : Fld := fld (0x30000 + 0x40 * r + 0x18) 0
/-- HC_RING_STATUS.IDLE, bits 1:1 (R478). -/
def hcRingStatusIdle (r : Nat) : Fld := fld (0x30000 + 0x40 * r + 0x18) 1
/-- HC_RING_STATUS.EXPERT, bits 2:2 (R478). -/
def hcRingStatusExpert (r : Nat) : Fld := fld (0x30000 + 0x40 * r + 0x18) 2
/-- HC_RING_STATUS.ERROR, bits 3:3 (R478). -/
def hcRingStatusError (r : Nat) : Fld := fld (0x30000 + 0x40 * r + 0x18) 3
/-- HC_RING_STATUS.ERR_CODE, bits 7:4 (R478). -/
def hcRingStatusErrCode (r : Nat) : Fld := fld (0x30000 + 0x40 * r + 0x18) 4
/-- HC_RING_STATUS.IN_FLIGHT, bits 14:8 (R478). -/
def hcRingStatusInFlight (r : Nat) : Fld := fld (0x30000 + 0x40 * r + 0x18) 8
/-- HC_RING_STATUS.WAITING, bits 15:15 (R478). -/
def hcRingStatusWaiting (r : Nat) : Fld := fld (0x30000 + 0x40 * r + 0x18) 15
/-- HC_SQ_HEAD, bits 11:0 (R478). -/
def hcSqHead (r : Nat) : Fld := fld (0x30000 + 0x40 * r + 0x1c) 0
/-- HC_CQ_TAIL.INDEX, bits 11:0 (R478). -/
def hcCqTailIndex (r : Nat) : Fld := fld (0x30000 + 0x40 * r + 0x20) 0
/-- HC_CQ_TAIL.PHASE, bits 16:16 (R478). -/
def hcCqTailPhase (r : Nat) : Fld := fld (0x30000 + 0x40 * r + 0x20) 16
/-- HC_STAGE.KIND, bits 1:0 (R478). -/
def hcStageKind : Fld := fld (0x30000 + 0x2000) 0
/-- HC_STAGE.WRITE, bits 2:2 (R478). -/
def hcStageWrite : Fld := fld (0x30000 + 0x2000) 2
/-- HC_STAGE.BASE, bits 15:8 (R478). -/
def hcStageBase : Fld := fld (0x30000 + 0x2000) 8
/-- HC_BAD_ACCESS, bits 31:0 (R478). -/
def hcBadAccess : Fld := fld (0x30000 + 0x2004) 0
/-- HC_STAGE_DROP, bits 31:0 (R478). -/
def hcStageDrop : Fld := fld (0x30000 + 0x2008) 0
/-- HC_CFG_REJECT, bits 15:0 (R478). -/
def hcCfgReject : Fld := fld (0x30000 + 0x200c) 0
/-- HC_LINK.SPEED, bits 3:0 (R478). -/
def hcLinkSpeed : Fld := fld (0x30000 + 0x2010) 0
/-- HC_LINK.WIDTH, bits 9:4 (R478). -/
def hcLinkWidth : Fld := fld (0x30000 + 0x2010) 4
/-- BM_CH_CTRL.START, bits 0:0 (R517). -/
def bmChCtrlStart (c : Nat) : Fld := fld (bmBase c + 0x0) 0
/-- BM_CH_CTRL.CLEAR, bits 1:1 (R517). -/
def bmChCtrlClear (c : Nat) : Fld := fld (bmBase c + 0x0) 1
/-- BM_CH_CTRL.ARM, bits 2:2 (R517). -/
def bmChCtrlArm (c : Nat) : Fld := fld (bmBase c + 0x0) 2
/-- BM_CH_STATUS.STATE, bits 1:0 (R517). -/
def bmChStatusState (c : Nat) : Fld := fld (bmBase c + 0x4) 0
/-- BM_CH_STATUS.SHADOW_VALID, bits 2:2 (R517). -/
def bmChStatusShadowValid (c : Nat) : Fld := fld (bmBase c + 0x4) 2
/-- BM_CH_STATUS.WRITE_LOST, bits 3:3 (R517). -/
def bmChStatusWriteLost (c : Nat) : Fld := fld (bmBase c + 0x4) 3
/-- BM_CH_STATUS.MISMATCH_VALID, bits 4:4 (R517). -/
def bmChStatusMismatchValid (c : Nat) : Fld := fld (bmBase c + 0x4) 4
/-- BM_CH_STATUS.STATUS, bits 15:8 (R517). -/
def bmChStatusStatus (c : Nat) : Fld := fld (bmBase c + 0x4) 8
/-- BM_CH_STATUS.START_MISSED, bits 31:24 (R517). -/
def bmChStatusStartMissed (c : Nat) : Fld := fld (bmBase c + 0x4) 24
/-- BM_CH_HOPS.COUNT, bits 15:0 (R517). -/
def bmChHopsCount (c : Nat) : Fld := fld (bmBase c + 0x8) 0
/-- BM_CH_HOPS.LIMIT, bits 31:16 (R517). -/
def bmChHopsLimit (c : Nat) : Fld := fld (bmBase c + 0x8) 16
/-- BM_CH_CFG.CLASS, bits 3:0 (R517). -/
def bmChCfgClass (c : Nat) : Fld := fld (bmBase c + 0xc) 0
/-- BM_CH_CFG.NOSNOOP, bits 4:4 (R517). -/
def bmChCfgNosnoop (c : Nat) : Fld := fld (bmBase c + 0xc) 4
/-- BM_CH_CFG.START_LINE, bits 13:8 (R517). -/
def bmChCfgStartLine (c : Nat) : Fld := fld (bmBase c + 0xc) 8
/-- BM_CH_CFG.START_EN, bits 14:14 (R517). -/
def bmChCfgStartEn (c : Nat) : Fld := fld (bmBase c + 0xc) 14
/-- BM_CH_BYTES, bits 31:0 (R517). -/
def bmChBytes (c : Nat) : Fld := fld (bmBase c + 0x10) 0
/-- BM_CH_MISMATCH, bits 31:0 (R517). -/
def bmChMismatch (c : Nat) : Fld := fld (bmBase c + 0x14) 0
/-- BM_SH_SRC_LO / _HI, a 64-bit pair (R518). -/
def bmShSrc (c : Nat) : Fld := fld (bmBase c + 0x40) 0
/-- Active-set copy of BM_SH_SRC_LO / _HI (R518). -/
def bmAcSrc (c : Nat) : Fld := fld (bmBase c + 0x80) 0
/-- BM_SH_DST_LO / _HI, a 64-bit pair (R518). -/
def bmShDst (c : Nat) : Fld := fld (bmBase c + 0x48) 0
/-- Active-set copy of BM_SH_DST_LO / _HI (R518). -/
def bmAcDst (c : Nat) : Fld := fld (bmBase c + 0x88) 0
/-- BM_SH_COUNT, bits 31:0 (R518). -/
def bmShCount (c : Nat) : Fld := fld (bmBase c + 0x50) 0
/-- Active-set copy of BM_SH_COUNT (R518). -/
def bmAcCount (c : Nat) : Fld := fld (bmBase c + 0x90) 0
/-- BM_SH_MODE.OP, bits 1:0 (R518). -/
def bmShModeOp (c : Nat) : Fld := fld (bmBase c + 0x54) 0
/-- Active-set copy of BM_SH_MODE.OP (R518). -/
def bmAcModeOp (c : Nat) : Fld := fld (bmBase c + 0x94) 0
/-- BM_SH_MODE.SRC_SPACE, bits 5:4 (R518). -/
def bmShModeSrcSpace (c : Nat) : Fld := fld (bmBase c + 0x54) 4
/-- Active-set copy of BM_SH_MODE.SRC_SPACE (R518). -/
def bmAcModeSrcSpace (c : Nat) : Fld := fld (bmBase c + 0x94) 4
/-- BM_SH_MODE.DST_SPACE, bits 9:8 (R518). -/
def bmShModeDstSpace (c : Nat) : Fld := fld (bmBase c + 0x54) 8
/-- Active-set copy of BM_SH_MODE.DST_SPACE (R518). -/
def bmAcModeDstSpace (c : Nat) : Fld := fld (bmBase c + 0x94) 8
/-- BM_SH_MODE.SRC_W, bits 14:12 (R518). -/
def bmShModeSrcW (c : Nat) : Fld := fld (bmBase c + 0x54) 12
/-- Active-set copy of BM_SH_MODE.SRC_W (R518). -/
def bmAcModeSrcW (c : Nat) : Fld := fld (bmBase c + 0x94) 12
/-- BM_SH_MODE.DST_W, bits 18:16 (R518). -/
def bmShModeDstW (c : Nat) : Fld := fld (bmBase c + 0x54) 16
/-- Active-set copy of BM_SH_MODE.DST_W (R518). -/
def bmAcModeDstW (c : Nat) : Fld := fld (bmBase c + 0x94) 16
/-- BM_SH_MODE.PULSE_DONE, bits 20:20 (R518). -/
def bmShModePulseDone (c : Nat) : Fld := fld (bmBase c + 0x54) 20
/-- Active-set copy of BM_SH_MODE.PULSE_DONE (R518). -/
def bmAcModePulseDone (c : Nat) : Fld := fld (bmBase c + 0x94) 20
/-- BM_SH_MODE.STOP_ON_MISMATCH, bits 21:21 (R518). -/
def bmShModeStopOnMismatch (c : Nat) : Fld := fld (bmBase c + 0x54) 21
/-- Active-set copy of BM_SH_MODE.STOP_ON_MISMATCH (R518). -/
def bmAcModeStopOnMismatch (c : Nat) : Fld := fld (bmBase c + 0x94) 21
/-- BM_SH_FILL_LO / _HI, a 64-bit pair (R518). -/
def bmShFill (c : Nat) : Fld := fld (bmBase c + 0x58) 0
/-- Active-set copy of BM_SH_FILL_LO / _HI (R518). -/
def bmAcFill (c : Nat) : Fld := fld (bmBase c + 0x98) 0
/-- BM_SH_NEXT_LO / _HI, a 64-bit pair (R518). -/
def bmShNext (c : Nat) : Fld := fld (bmBase c + 0x60) 0
/-- Active-set copy of BM_SH_NEXT_LO / _HI (R518). -/
def bmAcNext (c : Nat) : Fld := fld (bmBase c + 0xa0) 0
/-- BM_CTRL.PHYS_EN, bits 0:0 (R519). -/
def bmCtrlPhysEn : Fld := fld (0x40000 + 0x2000) 0
/-- BM_CTRL.LAST_ERR, bits 12:8 (R519). -/
def bmCtrlLastErr : Fld := fld (0x40000 + 0x2000) 8
/-- EV_SRCn.CODE (R520). -/
def evSrcCode (n : Nat) : Fld := fld (0x50000 + 4 * n) 0
/-- EV_SEL.LINE, bits 5:0 (R520). -/
def evSelLine : Fld := fld (0x50000 + 0x100) 0
/-- EV_TICK_LO / _HI, a 64-bit pair (R520). -/
def evTick : Fld := fld (0x50000 + 0x104) 0
/-- EV_COUNT, bits 31:0 (R520). -/
def evCount : Fld := fld (0x50000 + 0x10c) 0
/-- EV_SNAP.LINE, bits 5:0 (R520). -/
def evSnapLine : Fld := fld (0x50000 + 0x110) 0
/-- EV_SNAP.CONNECTED, bits 8:8 (R520). -/
def evSnapConnected : Fld := fld (0x50000 + 0x110) 8
/-- EV_SNAP.MISSED, bits 31:16 (R520). -/
def evSnapMissed : Fld := fld (0x50000 + 0x110) 16
/-- EV_SW_PULSE.LINE, bits 5:0 (R520). -/
def evSwPulseLine : Fld := fld (0x50000 + 0x114) 0
/-- FZ_LOCKS.BITS, bits 15:0 (R554). -/
def fzLocksBits : Fld := fld (0x120000 + 0x2000) 0
/-- FZ_REGION_STATE, bits 15:0 (R554). -/
def fzRegionState : Fld := fld (0x120000 + 0x2004) 0
/-- FZ_KEYS.USABLE, bits 3:0 (R554). -/
def fzKeysUsable : Fld := fld (0x120000 + 0x2008) 0
/-- FZ_KEYS.REVOKED, bits 7:4 (R554). -/
def fzKeysRevoked : Fld := fld (0x120000 + 0x2008) 4
/-- FZ_KEYS.MARGINAL, bits 11:8 (R554). -/
def fzKeysMarginal : Fld := fld (0x120000 + 0x2008) 8
/-- FZ_KEYS.SEALED, bits 15:12 (R554). -/
def fzKeysSealed : Fld := fld (0x120000 + 0x2008) 12
/-- FZ_ROLLBACK.VALUE, bits 8:0 (R554). -/
def fzRollbackValue : Fld := fld (0x120000 + 0x200c) 0
/-- FZ_CLOSE.VENDOR, bits 0:0 (R554). -/
def fzCloseVendor : Fld := fld (0x120000 + 0x2010) 0
/-- FZ_CLOSE.CUSTOMER, bits 1:1 (R554). -/
def fzCloseCustomer : Fld := fld (0x120000 + 0x2010) 1
/-- FZ_MARGINAL.COUNT, bits 11:0 (R554). -/
def fzMarginalCount : Fld := fld (0x120000 + 0x2014) 0
/-- FZ_MARGINAL.REGIONS, bits 23:16 (R554). -/
def fzMarginalRegions : Fld := fld (0x120000 + 0x2014) 16
/-- FZ_MARGINAL_FIRST.WORD, bits 10:0 (R554). -/
def fzMarginalFirstWord : Fld := fld (0x120000 + 0x2018) 0
/-- FZ_RESENSE.PERIOD, bits 7:0 (R554). -/
def fzResensePeriod : Fld := fld (0x120000 + 0x201c) 0
/-- FZ_RESENSE_STAT.MARGINAL, bits 11:0 (R554). -/
def fzResenseStatMarginal : Fld := fld (0x120000 + 0x2020) 0
/-- FZ_RESENSE_STAT.DIFFER, bits 27:16 (R554). -/
def fzResenseStatDiffer : Fld := fld (0x120000 + 0x2020) 16
/-- FZ_RESENSE_STAT.UNSTABLE, bits 31:31 (R554). -/
def fzResenseStatUnstable : Fld := fld (0x120000 + 0x2020) 31
/-- FZ_PROG.BUSY, bits 0:0 (R554). -/
def fzProgBusy : Fld := fld (0x120000 + 0x2024) 0
/-- FZ_PROG.VPROG_OK, bits 1:1 (R554). -/
def fzProgVprogOk : Fld := fld (0x120000 + 0x2024) 1
/-- FZ_PROG.STATUS, bits 15:8 (R554). -/
def fzProgStatus : Fld := fld (0x120000 + 0x2024) 8
/-- FZ_PROG.WORD, bits 26:16 (R554). -/
def fzProgWord : Fld := fld (0x120000 + 0x2024) 16
/-- FZ_STATUS.BOOT_FAULT, bits 0:0 (R554). -/
def fzStatusBootFault : Fld := fld (0x120000 + 0x2028) 0
/-- FZ_STATUS.PATCH_REJECTED, bits 1:1 (R554). -/
def fzStatusPatchRejected : Fld := fld (0x120000 + 0x2028) 1
/-- FZ_STATUS.MARGINAL_TRIM, bits 2:2 (R554). -/
def fzStatusMarginalTrim : Fld := fld (0x120000 + 0x2028) 2
/-- FZ_STATUS.MBX_DENIED, bits 31:16 (R554). -/
def fzStatusMbxDenied : Fld := fld (0x120000 + 0x2028) 16
/-- TH_STATUS.LEVEL, bits 2:0 (R573). -/
def thStatusLevel : Fld := fld (0x100000 + 0x0) 0
/-- TH_STATUS.QUENCHED, bits 4:4 (R573). -/
def thStatusQuenched : Fld := fld (0x100000 + 0x0) 4
/-- TH_STATUS.SOURCES, bits 11:8 (R573). -/
def thStatusSources : Fld := fld (0x100000 + 0x0) 8
/-- TH_STATUS.HOLD_ACTIVE, bits 12:12 (R573). -/
def thStatusHoldActive : Fld := fld (0x100000 + 0x0) 12
/-- TH_STATUS.HOTTEST, bits 20:16 (R573). -/
def thStatusHottest : Fld := fld (0x100000 + 0x0) 16
/-- TH_STATUS.FAST, bits 24:24 (R573). -/
def thStatusFast : Fld := fld (0x100000 + 0x0) 24
/-- TH_STATUS.NARROWED, bits 25:25 (R573). -/
def thStatusNarrowed : Fld := fld (0x100000 + 0x0) 25
/-- TH_ALERT, bits 3:0 (R573). -/
def thAlert : Fld := fld (0x100000 + 0x4) 0
/-- TH_LAYER_SEL.LAYER, bits 4:0 (R573). -/
def thLayerSelLayer : Fld := fld (0x100000 + 0x8) 0
/-- TH_LAYER_TEMP.TEMP, bits 15:0 (R573). -/
def thLayerTempTemp : Fld := fld (0x100000 + 0xc) 0
/-- TH_LAYER_TEMP.LEVEL, bits 18:16 (R573). -/
def thLayerTempLevel : Fld := fld (0x100000 + 0xc) 16
/-- TH_LAYER_TEMP.SUSPECT, bits 19:19 (R573). -/
def thLayerTempSuspect : Fld := fld (0x100000 + 0xc) 19
/-- TH_LAYER_MODEL.EST, bits 15:0 (R573). -/
def thLayerModelEst : Fld := fld (0x100000 + 0x10) 0
/-- TH_LAYER_MODEL.LOWER, bits 31:16 (R573). -/
def thLayerModelLower : Fld := fld (0x100000 + 0x10) 16
/-- TH_LAYER_CANARY.FAILED, bits 7:0 (R573). -/
def thLayerCanaryFailed : Fld := fld (0x100000 + 0x14) 0
/-- TH_SENSOR_SEL.SENSOR, bits 6:0 (R573). -/
def thSensorSelSensor : Fld := fld (0x100000 + 0x18) 0
/-- TH_SENSOR.READING, bits 15:0 (R573). -/
def thSensorReading : Fld := fld (0x100000 + 0x1c) 0
/-- TH_SENSOR.STATE, bits 17:16 (R573). -/
def thSensorState : Fld := fld (0x100000 + 0x1c) 16
/-- TH_SENSOR.TRIM_MARGINAL, bits 18:18 (R573). -/
def thSensorTrimMarginal : Fld := fld (0x100000 + 0x1c) 18
/-- TH_THR_D0.WARN, bits 15:0 (R573). -/
def thThrD0Warn : Fld := fld (0x100000 + 0x20) 0
/-- TH_THR_D0.THROTTLE1, bits 31:16 (R573). -/
def thThrD0Throttle1 : Fld := fld (0x100000 + 0x20) 16
/-- TH_THR_D1.THROTTLE2, bits 15:0 (R573). -/
def thThrD1Throttle2 : Fld := fld (0x100000 + 0x24) 0
/-- TH_THR_D1.THROTTLE3, bits 31:16 (R573). -/
def thThrD1Throttle3 : Fld := fld (0x100000 + 0x24) 16
/-- TH_THR_D2.QUENCH, bits 15:0 (R573). -/
def thThrD2Quench : Fld := fld (0x100000 + 0x28) 0
/-- TH_THR_D2.TRIP, bits 31:16 (R573). -/
def thThrD2Trip : Fld := fld (0x100000 + 0x28) 16
/-- TH_THR_B0.WARN, bits 15:0 (R573). -/
def thThrB0Warn : Fld := fld (0x100000 + 0x2c) 0
/-- TH_THR_B0.THROTTLE1, bits 31:16 (R573). -/
def thThrB0Throttle1 : Fld := fld (0x100000 + 0x2c) 16
/-- TH_THR_B1.THROTTLE2, bits 15:0 (R573). -/
def thThrB1Throttle2 : Fld := fld (0x100000 + 0x30) 0
/-- TH_THR_B1.THROTTLE3, bits 31:16 (R573). -/
def thThrB1Throttle3 : Fld := fld (0x100000 + 0x30) 16
/-- TH_THR_B2.QUENCH, bits 15:0 (R573). -/
def thThrB2Quench : Fld := fld (0x100000 + 0x34) 0
/-- TH_THR_B2.TRIP, bits 31:16 (R573). -/
def thThrB2Trip : Fld := fld (0x100000 + 0x34) 16
/-- TH_CFG.FAST_ALWAYS, bits 0:0 (R573). -/
def thCfgFastAlways : Fld := fld (0x100000 + 0x38) 0
/-- TH_CFG.NARROW_EN, bits 1:1 (R573). -/
def thCfgNarrowEn : Fld := fld (0x100000 + 0x38) 1
/-- TH_QUENCH_TICK_LO / _HI, a 64-bit pair (R573). -/
def thQuenchTick : Fld := fld (0x100000 + 0x40) 0
/-- TH_COUNT.QUENCHES, bits 15:0 (R573). -/
def thCountQuenches : Fld := fld (0x100000 + 0x48) 0
/-- TH_COUNT.THROTTLES, bits 31:16 (R573). -/
def thCountThrottles : Fld := fld (0x100000 + 0x48) 16
/-- TH_SUSPECT_COUNT, bits 15:0 (R573). -/
def thSuspectCount : Fld := fld (0x100000 + 0x4c) 0
/-- TC_STATUS.BIST_BUSY, bits 0:0 (R592). -/
def tcStatusBistBusy : Fld := fld (0x110000 + 0x0) 0
/-- TC_STATUS.BIST_KIND, bits 3:1 (R592). -/
def tcStatusBistKind : Fld := fld (0x110000 + 0x0) 1
/-- TC_STATUS.CAL_ACTIVE, bits 4:4 (R592). -/
def tcStatusCalActive : Fld := fld (0x110000 + 0x0) 4
/-- TC_STATUS.CAL_PC, bits 13:8 (R592). -/
def tcStatusCalPc : Fld := fld (0x110000 + 0x0) 8
/-- TC_BIST_LAST.FAILED, bits 7:0 (R592). -/
def tcBistLastFailed : Fld := fld (0x110000 + 0x4) 0
/-- TC_BIST_LAST.TESTED, bits 15:8 (R592). -/
def tcBistLastTested : Fld := fld (0x110000 + 0x4) 8
/-- TC_CULLET_ENG_LO / _HI, a 64-bit pair (R592). -/
def tcCulletEng : Fld := fld (0x110000 + 0x10) 0
/-- TC_CULLET_MISC.BENCH, bits 7:0 (R592). -/
def tcCulletMiscBench : Fld := fld (0x110000 + 0x18) 0
/-- TC_CULLET_MISC.QMS, bits 15:8 (R592). -/
def tcCulletMiscQms : Fld := fld (0x110000 + 0x18) 8
/-- TC_CULLET_MISC.MC, bits 31:16 (R592). -/
def tcCulletMiscMc : Fld := fld (0x110000 + 0x18) 16
/-- TC_CULLET_PORT, bits 15:0 (R592). -/
def tcCulletPort : Fld := fld (0x110000 + 0x1c) 0
/-- TC_CULLET_SLICE_LO / _HI, a 64-bit pair (R592). -/
def tcCulletSlice : Fld := fld (0x110000 + 0x20) 0
/-- TC_CULLET_PC_LO / _HI, a 64-bit pair (R592). -/
def tcCulletPc : Fld := fld (0x110000 + 0x28) 0
/-- TC_CULLET_LAYER, bits 16:1 (R592). -/
def tcCulletLayer : Fld := fld (0x110000 + 0x30) 1
/-- TC_CULLET_PEND_PC_LO / _HI, a 64-bit pair (R592). -/
def tcCulletPendPc : Fld := fld (0x110000 + 0x34) 0
/-- TC_CULLET_PEND_SLICE_LO / _HI, a 64-bit pair (R592). -/
def tcCulletPendSlice : Fld := fld (0x110000 + 0x3c) 0
/-- TC_CULLET_PEND.MC, bits 15:0 (R592). -/
def tcCulletPendMc : Fld := fld (0x110000 + 0x44) 0
/-- TC_CULLET_PEND.LAYER, bits 31:16 (R592). -/
def tcCulletPendLayer : Fld := fld (0x110000 + 0x44) 16
/-- TC_CAL_CFG.EN, bits 0:0 (R592). -/
def tcCalCfgEn : Fld := fld (0x110000 + 0x50) 0
/-- TC_CAL_CFG.TEMP_STEP, bits 11:8 (R592). -/
def tcCalCfgTempStep : Fld := fld (0x110000 + 0x50) 8
/-- TC_CAL_CFG.SPACING, bits 31:16 (R592). -/
def tcCalCfgSpacing : Fld := fld (0x110000 + 0x50) 16
/-- TC_CAL_COUNT.HOLDS, bits 15:0 (R592). -/
def tcCalCountHolds : Fld := fld (0x110000 + 0x54) 0
/-- TC_CAL_COUNT.ROUNDS, bits 31:16 (R592). -/
def tcCalCountRounds : Fld := fld (0x110000 + 0x54) 16
/-- TC_SPARES.IN_USE, bits 8:0 (R592). -/
def tcSparesInUse : Fld := fld (0x110000 + 0x58) 0
/-- TC_SPARES.RUNTIME, bits 31:16 (R592). -/
def tcSparesRuntime : Fld := fld (0x110000 + 0x58) 16
/-- TC_CAL_FAIL.CULLED, bits 6:0 (R592). -/
def tcCalFailCulled : Fld := fld (0x110000 + 0x5c) 0
/-- SB_STATUS.SCL_TIMEOUT, bits 0:0 (R609). -/
def sbStatusSclTimeout : Fld := fld (0x130000 + 0x0) 0
/-- SB_STATUS.SDA_TIMEOUT, bits 1:1 (R609). -/
def sbStatusSdaTimeout : Fld := fld (0x130000 + 0x0) 1
/-- SB_STATUS.SDA_STUCK, bits 2:2 (R609). -/
def sbStatusSdaStuck : Fld := fld (0x130000 + 0x0) 2
/-- SB_STATUS.CLEAR_GAVE_UP, bits 3:3 (R609). -/
def sbStatusClearGaveUp : Fld := fld (0x130000 + 0x0) 3
/-- SB_STATUS.PEC_ERR, bits 4:4 (R609). -/
def sbStatusPecErr : Fld := fld (0x130000 + 0x0) 4
/-- SB_STATUS.CTL_EN, bits 5:5 (R609). -/
def sbStatusCtlEn : Fld := fld (0x130000 + 0x0) 5
/-- SB_STATUS.EEPROM_RESULT, bits 10:8 (R609). -/
def sbStatusEepromResult : Fld := fld (0x130000 + 0x0) 8
/-- SB_STATUS.ADDR, bits 22:16 (R609). -/
def sbStatusAddr : Fld := fld (0x130000 + 0x0) 16
/-- SB_COUNT.ARB_LOST, bits 15:0 (R609). -/
def sbCountArbLost : Fld := fld (0x130000 + 0x4) 0
/-- SB_COUNT.REFUSED, bits 31:16 (R609). -/
def sbCountRefused : Fld := fld (0x130000 + 0x4) 16
/-- SB_COUNT2.ARB_GIVEUP, bits 7:0 (R609). -/
def sbCount2ArbGiveup : Fld := fld (0x130000 + 0x8) 0
/-- SB_COUNT2.HN_DROPPED, bits 15:8 (R609). -/
def sbCount2HnDropped : Fld := fld (0x130000 + 0x8) 8
/-- SB_COUNT2.HN_SENT, bits 31:16 (R609). -/
def sbCount2HnSent : Fld := fld (0x130000 + 0x8) 16
/-- SB_HN_CFG.EN, bits 0:0 (R609). -/
def sbHnCfgEn : Fld := fld (0x130000 + 0xc) 0
/-- SB_HN_CFG.PEC, bits 1:1 (R609). -/
def sbHnCfgPec : Fld := fld (0x130000 + 0xc) 1
/-- SB_HN_CFG.TARGET, bits 14:8 (R609). -/
def sbHnCfgTarget : Fld := fld (0x130000 + 0xc) 8
/-- SB_HN_CFG.MIN_GAP, bits 31:16 (R609). -/
def sbHnCfgMinGap : Fld := fld (0x130000 + 0xc) 16
/-- SB_CFG.PEC_REQUIRED, bits 0:0 (R609). -/
def sbCfgPecRequired : Fld := fld (0x130000 + 0x10) 0
/-- SB_CFG.CTL_SPEED, bits 2:1 (R609). -/
def sbCfgCtlSpeed : Fld := fld (0x130000 + 0x10) 1
/-- SB_QUENCH.REQ, bits 0:0 (R609). -/
def sbQuenchReq : Fld := fld (0x130000 + 0x14) 0
/-- SB_ERRLOG_PTR, bits 31:0 (R609). -/
def sbErrlogPtr : Fld := fld (0x130000 + 0x18) 0
/-- EL_STATUS.ALERT_PEND, bits 0:0 (R625). -/
def elStatusAlertPend : Fld := fld (0x140000 + 0x0) 0
/-- EL_STATUS.SAFE_HOLD, bits 1:1 (R625). -/
def elStatusSafeHold : Fld := fld (0x140000 + 0x0) 1
/-- EL_STATUS.SV_EXPIRED, bits 2:2 (R625). -/
def elStatusSvExpired : Fld := fld (0x140000 + 0x0) 2
/-- EL_STATUS.SV_EXPIRIES, bits 15:8 (R625). -/
def elStatusSvExpiries : Fld := fld (0x140000 + 0x0) 8
/-- EL_STATUS.SAFE_HOLDS, bits 23:16 (R625). -/
def elStatusSafeHolds : Fld := fld (0x140000 + 0x0) 16
/-- EL_FIRST, bits 31:0 (R625). -/
def elFirst : Fld := fld (0x140000 + 0x4) 0
/-- EL_NEXT, bits 31:0 (R625). -/
def elNext : Fld := fld (0x140000 + 0x8) 0
/-- EL_LOST, bits 31:0 (R625). -/
def elLost : Fld := fld (0x140000 + 0xc) 0
/-- EL_CFG.SV_ACTION, bits 0:0 (R625). -/
def elCfgSvAction : Fld := fld (0x140000 + 0x10) 0
/-- EL_WDOG.SV_LEFT, bits 11:0 (R625). -/
def elWdogSvLeft : Fld := fld (0x140000 + 0x14) 0
/-- EL_WDOG.AV_AGE, bits 31:16 (R625). -/
def elWdogAvAge : Fld := fld (0x140000 + 0x14) 16
/-- EL_SEL.SEQ, bits 31:0 (R625). -/
def elSelSeq : Fld := fld (0x140000 + 0x20) 0

end Sys2Proof.Machine
end

