-- ==== Sys2Proof/Machine/State.lean ====
section
/-!
DEFINITION. The state of the block: everything the specification gives it, as plain data, the queue of waiting commands, and
the outputs it has made.
-/
namespace Sys2Proof.Machine

/-! ### Outcomes -/

/-- No command of this block ends in a fault: what the specification calls an error is a status, a register or an entry. -/
inductive Fault where
  deriving DecidableEq, Repr

/-- Why a command is not run. -/
inductive Refusal where
  /-- Raised by the dispatch for a command without a meaning. Safe. -/
  | notModelled (mnemonic : String)
  /-- Raised by RING_ENTRY_START for a vendor diagnostic opcode that has passed every check on an engineering sample: R488
  names the opcodes and gives them no effect. Safe. -/
  | vendorDiagnostic
  /-- Raised by TAP_INSTRUCTION_LOAD for a vendor-private instruction while CUSTOMER_CLOSE is unblown: R639 names the
  instructions and gives them no effect. Safe. -/
  | privateTapInstruction
  deriving DecidableEq, Repr

/-! ### Pilot: power, pins and reset (R58 to R69, R83 to R112) -/

/-- Where the start-up or a reset stands (R86, R98). -/
inductive BootPhase where
  | off        -- VDD_AO is absent
  | rails      -- step 1: waiting for every rail
  | refwait    -- step 2: the CFG_REFWAIT delay
  | refclk     -- step 3: the REFCLK check
  | ready      -- clocks good and every reset source released: step 4 can start
  | running    -- the sequence has reached PCIE_READY
  | resetHeld  -- a full reset waits for its sources (R98 step 2)
  deriving DecidableEq, Repr

/-- The kinds of reset of R83. -/
inductive ResetKind where
  | powerOn
  | preserving
  | uncommanded
  | clearing
  deriving DecidableEq, Repr

/-- Pilot's own state. Pin levels are those after the filters of R634, true = high. `railsLow` has bit n set while rail n of R65
(from 0 = VDD_CORE) is out of tolerance. `nextKind` is the kind of the reset that an accepted DEV_RESET leads to, `readyTick`
the tick of PCIE_READY, and `newlyCulled` the pseudo-channels culled at the restarts since the tables were last decided (R103).
`next` is the step of R86 that has begun and not ended (3 until REFCLK has passed its check), `stepTick` the tick at which step
4 began (R117), `anvilOsc` says that Anvil runs on the oscillator (R133), and `ssc` is the spread in force (R122). `svBeat` and
`avBeat` are the ticks of the last heartbeats of the service firmware and of Anvil (R618, R621). -/
structure Pilot where
  phase : BootPhase
  kind : ResetKind
  resetN : Bool
  perstN : Bool
  holdN : Bool
  railsLow : Nat
  strapsTaken : Bool
  refclkOk : Bool
  stackHold : Bool
  internalHeld : Bool
  tapIr : Nat
  tapHeld : Bool
  sealed : Bool
  thermtrip : Bool
  driversOff : Bool
  safeCause : Option Nat
  refCount : Nat
  svWatchdogArmed : Bool
  completionsPosted : Bool
  nextKind : Option ResetKind
  readyTick : Tick
  newlyCulled : Nat
  next : Nat
  stepTick : Tick
  anvilOsc : Bool
  ssc : Nat
  svBeat : Tick
  avBeat : Tick
  deriving DecidableEq, Repr

/-- The always-on time base (R140 to R147). `frac` is the part of the rate correction not yet added to the counter
(in 10⁻⁹ ticks), `goodOffsets` the successive offsets of at most 40 ticks, `lastMeas` the device time and the
target time of the last measurement, `measured` false until the first measurement after a selection, holdover or
full reset. The rate correction itself is TB_RATE.CORR. -/
structure TimeBase where
  ticks : Nat
  onOsc : Bool
  frac : Int
  goodOffsets : Nat
  measured : Bool
  lastMeas : Nat × Int
  ptmOpen : Bool
  ptmFails : Nat
  synced : Bool
  deriving DecidableEq, Repr

/-- Clock and power domains closed by force (R131), as bit masks: `isolatedPwr` and `isolatedClk` stay isolated until they are opened
again, `draining` while the drain of step 2 runs. `waking` are power domains whose wake is under way, `inReset` clock domains held in
local reset (R137), and `benchLoading` benches whose microcode is being copied (R128). -/
structure Domains where
  isolatedPwr : Nat
  isolatedClk : Nat
  waking : Nat
  inReset : Nat
  benchLoading : Nat
  draining : Bool
  deriving DecidableEq, Repr

/-! ### The PCIe function (R450 to R460) -/

/-- The configuration space fields that a rule names, and the link and device power state. `vectorMask` bit v is the
mask bit of MSI-X vector v and `vectorPending` its pending bit. `heldOut` are requests that wait for D0 (R453). -/
structure Pcie where
  d3hot : Bool
  linkL1 : Bool
  linkUp : Bool
  msixEnable : Bool
  msixFnMask : Bool
  vectorMask : Nat
  vectorPending : Nat
  msixAddr : Map Nat
  msixData : Map Nat
  maxPayload : Nat
  maxReadRequest : Nat
  completionTimeout : Nat
  noSnoopEnable : Bool
  aspmL1 : Bool
  commonClock : Bool
  ptmEnable : Bool
  bar0 : Nat
  bar2 : Nat
  aerStatus : Nat
  aerMask : Nat
  aerSeverity : Nat
  deriving DecidableEq, Repr

/-! ### The error log (R611 to R615) -/

/-- The prefixes of R616. -/
inductive LogPrefix where
  | av | bm | dv | fx | fz | hc | ig | mc | mv | pl | qm | rg | rl | sb | sv | tc | th
  deriving DecidableEq, Repr

/-- An entry of R612. `unit` and `sub` are 0xFF and `object` 0xFFFFFFFF for none. -/
structure LogEntry where
  seq : Nat
  tick : Tick
  pre : LogPrefix
  code : Nat
  severity : Nat
  unitKind : Nat
  unit : Nat
  sub : Nat
  rep : Nat
  object : Nat
  data : Nat
  deriving DecidableEq, Repr

/-! ### Command rings (R461 to R472) -/

/-- A command in execution on a ring (R465, R468): its tag, opcode, whether it runs alone (R472), whether it can
still post PENDING, whether it has posted it, whether its final completion is discarded (R469), its doorbell tick, and its parameter
bytes 16 to 63. -/
structure Live where
  tag : Nat
  opcode : Nat
  excl : Bool
  twoPosts : Bool
  posted : Bool
  dropped : Bool
  tick : Tick
  params : Nat
  deriving DecidableEq, Repr

/-- What a ring holds beside its registers: the visible tail and the tick of each doorbell not yet fetched (first
index after it, tick), fetched entries in order, commands in execution, the completion head, the completions not
yet signalled, and whether each slot pair of its head entry has passed checks 1 to 6 (`waitingHead`). -/
structure Ring where
  tail : Nat
  doorbells : List (Nat × Tick)
  fetched : List Sqe
  live : List Live
  cqHead : Nat
  unsignalled : Nat
  waitingHead : Bool
  deriving DecidableEq, Repr

/-! ### Events and bulk movers (R502 to R520) -/

/-- One line of the event matrix: the tick of its latest pulse, whether it has pulsed since the last reset, and its
pulse count. Its source code is EV_SRCn.CODE. -/
structure EvLine where
  tick : Tick
  pulsed : Bool
  count : Nat
  deriving DecidableEq, Repr

/-- What a bulk-mover channel holds beside its registers: whether the descriptor named by NEXT is being fetched,
whether the active descriptor has ended and waits for that fetch, and the No-Snoop attribute of the transfer. -/
structure Channel where
  fetching : Bool
  ended : Bool
  nosnoop : Bool
  deriving DecidableEq, Repr

/-! ### Trust, firmware and fuses (R521 to R554) -/

/-- The fuse array and its lock row as they physically are. `words` reads at the normal margin; a set bit of
`weak` is a bit that reads blown at the normal and unblown at the strict margin. -/
structure FuseArray where
  words : Map Nat
  weak : Map Nat
  locks : Nat
  weakLocks : Nat
  deriving DecidableEq, Repr

/-- A fuse command whose pulse is in progress (R540, R542): its ring and tag, the array word being pulsed, and the
bits requested of it. -/
structure FuseJob where
  ring : Nat
  tag : Nat
  word : Nat
  bits : Nat
  deriving DecidableEq, Repr

/-- What Anvil holds: latched fuse values, what it has blown in this boot (R541), the firmware slots and the mark,
the running firmware, the identity key, and the fuse command whose pulse is in progress. -/
structure Trust where
  latched : Map Nat
  latchedMarginal : Map Nat
  latchedLocks : Nat
  bootLocks : Nat
  bootRevoked : Nat
  bootRollback : Nat
  patchOk : Bool
  slot0 : Option FwImage
  slot1 : Option FwImage
  marked : Option Nat
  running : Option FwImage
  runningSlot : Nat
  identity : Bool
  job : Option FuseJob
  deriving DecidableEq, Repr

/-! ### Thermal (R555 to R573) -/

/-- A sensor: its last trimmed reading, its state (0 good, 1 suspect, 2 broken), the successive samples below
L − 6 °C, and whether every sample since it became suspect has read at least L − 3 °C. -/
structure Sensor where
  reading : Int
  state : Nat
  below : Nat
  recovering : Bool
  trimMarginal : Bool
  deriving DecidableEq, Repr

/-- Per layer index of R495: the temperature of R558, E, L, the level and the canary tiers that failed. -/
structure Layer where
  temp : Int
  est : Int
  lower : Int
  level : Nat
  failed : Nat
  deriving DecidableEq, Repr

/-- Lehr's state beside the TH registers. -/
structure Thermal where
  sampled : Bool
  sampleTick : Tick
  narrowedPorts : Nat
  stopPending : Bool
  endPending : Bool
  deriving DecidableEq, Repr

/-! ### Self-test and calibration (R574 to R593) -/

/-- A BIST_RUN in execution: units still to test, failed, skipped and tested. -/
structure BistJob where
  ring : Nat
  tag : Nat
  kind : UnitKind
  todo : Nat
  failed : Nat
  skipped : Nat
  tested : Nat
  deriving DecidableEq, Repr

/-- TC's state beside its registers: the BIST jobs, the TSV positions marked failed for each pseudo-channel group (key 3n + g, a
list of positions), the spare columns selected for each Crucible slice as its two words of TRIM_REPAIR (R585), the
pseudo-channel last held, the round number, the pseudo-channels whose controller is under BIST, and the layer temperature of
each pseudo-channel at its last hold. `reloading` are the engines that have passed a test and wait for their microcode (R577).
-/
structure SelfTest where
  jobs : List BistJob
  spares : Map (List Nat)
  columns : Map Nat
  lastHeld : Option Nat
  round : Nat
  pcBist : Nat
  holdTemps : Map Int
  reloading : Nat
  deriving DecidableEq, Repr

/-! ### Sideband (R594 to R610) -/

/-- The sideband's state beside its registers: the notification number, data low as last notified (bit 5 set while a
dropped notification has shown it), whether a log entry was written since the last notification sent, a notification
in progress with its failures and lost arbitrations, the bus clearing with its failed rounds, and the EEPROM read. -/
structure Sideband where
  notifyNumber : Nat
  lastLow : Nat
  newEntry : Bool
  notifying : Bool
  failures : Nat
  arbRetries : Nat
  clearing : Bool
  clearTries : Nat
  eepromWanted : Bool
  eepromRetry : Bool
  eepromBusy : Bool
  deriving DecidableEq, Repr

/-! ### Ralsal ports (R156 to R235) -/

/-- A reply as the egress store holds it (R201): the packets it delivers count under R229, and
a table request's table and tick under R340. `spoiled`: it is sent with its CRC field inverted (R410). -/
structure Reply where
  opcode : Nat
  cls : Nat
  status : Nat
  arg : Nat
  tag : Nat
  object : Nat
  payload : List Byte
  packets : Nat
  measured : Option (Nat × Tick)
  spoiled : Bool
  deriving DecidableEq, Repr

/-- An item of the S64's own stream (R193): a reply, a link update (NAK, ACK_SEQ, the four return counters), a control flit (subtype,
ARG, body bytes 4 to 59), or NULL bytes. -/
inductive LinkItem where
  | reply (r : Reply)
  | update (nak : Bool) (ack vc0 vc1 vc2 vc3 : Nat)
  | control (subtype arg : Nat) (body : List Byte)
  | null (bytes : Nat)
  deriving DecidableEq, Repr

/-- The equaliser setting of one lane: preset and whether it is forced, CTLE setting and whether it is fixed, and DFE_FREEZE (R188). -/
structure LaneEq where
  preset : Nat
  force : Bool
  ctleFixed : Bool
  ctle : Nat
  freeze : Bool
  deriving DecidableEq, Repr

/-- One physical lane of a port (R158 to R166, R188): the five transmit taps; whether the partner's present tap request has been
answered, with the response and its toggle; the LANE field received, ECHO_OK and RX_READY received, whether the marker starts at −3; a
setting of its own where LINK_EQ_SET has left it out of the port's registers; the CTLE setting and the 12 DFE taps in use; the tap
request of the S64 that is open (tap, direction, preset), the partner's RESP_TOGGLE and RESP as last received; whether its receiver meets
the error bound; and its symbol errors (RL_LANE_SER). -/
structure Lane where
  cm2 : Int
  cm1 : Int
  c0 : Int
  cp1 : Int
  cp2 : Int
  answered : Bool
  resp : Nat
  toggle : Bool
  seen : Option Nat
  echoOk : Bool
  rxReady : Bool
  inverted : Bool
  own : Option LaneEq
  ctle : Nat
  dfe : List Int
  asking : Option (Nat × Bool × Nat)
  peerToggle : Bool
  peerResp : Nat
  meets : Bool
  ser : Nat
  deriving DecidableEq, Repr

/-- A MARK that has not passed (R224): the request, and the requests before it in the stream that have not yet taken
effect. -/
structure Mark where
  req : Req
  before : List Req
  deriving DecidableEq, Repr

/-- A setting of LINK_EQ_SET that waits for the next training or short retrain (R183). -/
structure EqSetting where
  lanes : Nat
  preset : Nat
  force : Bool
  ctle : Nat
  freeze : Bool
  deriving DecidableEq, Repr

/-- What a port holds beside its registers.
Training: disabled by LINK_DISABLE; has been ACTIVE since the last full reset; its link state is kept for a resume (R216), and stays kept
where the port becomes DOWN (R228); the present training is a short retrain, or a fast path (R180); ticks of the short retrains of the
last second; the width before it; a DOWN_NOTICE waits for its acknowledgement (SEQ); lanes in the partner's LANE_SET; lanes that take part
in the present attempt; lanes left out until a cold retrain (R175); PORT_ID received; framing codewords found in FEC_LOCK and the last of
their numbers; INIT received; the equaliser settings that wait, oldest first.
Power: an open PWR_REQ of the S64 (its ARG) and a handshake agreed (ARG); the tick and base-die temperature of BANKED.
Receive: ACK_SEQ as it stands (the register shows the last one sent); dropping, with the resume point in its codeword; the SEQ expected
next; bytes of the item at the head of the stream, the SEQ and offset of its first byte, and the ticks of the codewords they came in, each
with the place in the buffer where it begins; the item there has failed its CRC; where the last item to fail its CRC for the first time
begins (SEQ, offset); a NAK that waits for replay room; requests received and not yet executed; the number of the next request, and of the
first since the link state was last discarded; return counters of the four channels.
Transmit: the running line count of codewords; the last ACK_SEQ and VC2 and VC3 counters taken; bytes of the codeword being filled; kept
items with the SEQ of their last codeword, and the kept data codewords with their SEQ; replays without progress; replies waiting; MARKs
not yet passed; requests started and not yet answered (a snapshot, table operations that wait for an engine); ENQs of the ingress buffer
that are admitted and wait for the MC write path (R249, R381). -/
structure Port where
  byCommand : Bool
  wasActive : Bool
  keep : Bool
  keepDown : Bool
  short : Bool
  fast : Bool
  shorts : List Tick
  prevWidth : Nat
  notice : Option Nat
  partnerSet : Nat
  trainSet : Nat
  excluded : Nat
  portId : Nat
  framings : Nat
  lastFraming : Nat
  initSeen : Bool
  resuming : Bool
  eqNext : List EqSetting
  pwrReq : Option Nat
  pwrAgreed : Option Nat
  bankedTick : Tick
  bankedTemp : Int
  ackSeq : Nat
  dropping : Bool
  resume : Nat
  rxBuf : List Byte
  rxNext : Nat
  rxSeq : Nat
  rxOff : Nat
  rxTicks : List (Nat × Tick)
  badItem : Bool
  failedAt : Option (Nat × Nat)
  longCounted : Bool
  nakDue : Bool
  ingress : List Req
  nextId : Nat
  firstId : Nat
  ret0 : Nat
  ret1 : Nat
  ret2 : Nat
  ret3 : Nat
  txLine : Nat
  acked : Nat
  seen2 : Nat
  seen3 : Nat
  txBuf : List Byte
  kept : List (Nat × LinkItem)
  keptCw : List (Nat × List Byte)
  replays : Nat
  egress : List Reply
  marks : List Mark
  awaiting : List Req
  assembly : List Req
  rooms : List (Nat × Nat)
  deriving DecidableEq, Repr

/-! ### Queues (R236 to R279) -/

/-- A packet in a queue (R245): its length, CLASS, PORT, USER, HINT, the tick of its ENQ, its bytes, and the position of its
header in the queue's stream of block data areas (block BSEQ covers positions 2 016 × BSEQ to 2 016 × BSEQ + 2 015). -/
structure Packet where
  cls : Nat
  port : Nat
  user : Nat
  hint : Nat
  tick : Tick
  data : List Byte
  pos : Nat
  deriving DecidableEq, Repr

/-- Where a block of a queue lies (R288 to R290): its number in its queue (BSEQ, not reduced), pseudo-channel, bank and row. -/
structure Place where
  bseq : Nat
  pc : Nat
  bank : Nat
  row : Nat
  deriving DecidableEq, Repr

/-- A block that is being filled, as tail staging holds it (R243, R247): the bytes of its data area in use, the offset of the first packet
header that begins in it, the number of such headers, the lengths of their packets together, and the class and HINT of the packet that
filled its last byte (R389, R431). -/
structure TailBlock where
  bytes : List Byte
  first : Option Nat
  count : Nat
  pbytes : Nat
  cls : Nat
  hint : Nat
  deriving DecidableEq, Repr

/-- A queue (R236, R237). `tail` is the position after its last byte. `broken` holds BYTES, PACKETS and BLOCKS as they stood
at the last good read of the context (R274). `ledger` holds the tick, bytes and packets of every operation applied since the
queue was configured (R266). `recent` are the pseudo-channels of its last 64 blocks, newest first. `badWords` are the
uncorrectable 8 B words of its stream by position / 8, `badBlocks` the BSEQs of its unreadable block headers. `staged` is its last block. -/
structure Queue where
  configured : Bool
  enabled : Bool
  limit : Nat
  reserve : Nat
  nextSeq : Nat
  drops : Nat
  packets : List Packet
  tail : Nat
  staged : TailBlock
  broken : Option (Nat × Nat × Nat)
  ledger : List (Tick × Int × Int)
  places : List Place
  recent : List Nat
  badWords : List Nat
  badBlocks : List Nat
  badContext : Bool
  deriving DecidableEq, Repr

/-- A change of queues that waits for its effective tick (R275). -/
inductive QueueChangeKind where
  | cfg (limit : Nat) (enable clearDrops keepLimit : Bool)
  | remove (flush : Bool)
  | flush
  | reserve (blocks : Nat)
  deriving DecidableEq, Repr

structure QueueChange where
  kind : QueueChangeKind
  first : Nat
  count : Nat
  tick : Tick
  ring : Nat
  tag : Nat
  deriving DecidableEq, Repr

/-- A complete snapshot (R266, R269): number, cut tick, the ledgers of every queue then configured, and the queues whose entry
is uncorrectable (R421). -/
structure Snapshot where
  number : Nat
  cut : Tick
  entries : List (Nat × Int × Int)
  damaged : List Nat
  deriving DecidableEq, Repr

/-- What waits for a snapshot (R267): a link request, a ring command, or an event pulse. -/
inductive SnapSource where
  | link (r : Req)
  | ring (ring tag : Nat)
  | event
  deriving DecidableEq, Repr

/-! ### Tables and commits (R309 to R372) -/

/-- The kinds of R309. -/
inductive TableKind where
  | exact | prefixTable | index | counter
  deriving DecidableEq, Repr

/-- An entry of a version: its key record, its prefix length (0 for the other kinds) and its result record. -/
structure Entry where
  key : List Byte
  plen : Nat
  value : List Byte
  deriving DecidableEq, Repr

/-- One version of a table (R342): its entries, CAPACITY, SEED and reservation in rows, the entries rewritten since the
version it was copied from (R343), whether it replaces the whole contents (an image, a resize, a new SEED), and the
rows it holds beside its table's reservation until it is committed or discarded (R337). An INDEX
version lists the entries that are not all zeros. -/
structure Version where
  entries : List Entry
  capacity : Nat
  seed : Nat
  rows : Nat
  changed : List Entry
  whole : Bool
  extra : Nat
  deriving DecidableEq, Repr

/-- The image area of an open image version (R352, R353): its size, its rows and its bytes, unwritten bytes reading 0. -/
structure Image where
  size : Nat
  rows : Nat
  bytes : Map Nat
  built : Bool
  deriving DecidableEq, Repr

/-- A journal slot's state (R367). -/
inductive JournalState where
  | clean | armed | cutting
  deriving DecidableEq, Repr

/-- One cut of a port for a commit (R361, R364): the port, the tick, whether a MARK made it, and, for a MARK, the requests
that stood before it in the port's stream and had not yet taken effect. -/
structure Cut where
  port : Nat
  tick : Tick
  byMark : Bool
  before : List Req
  deriving DecidableEq, Repr

/-- An old version that requests placed before its cuts still use (R358, R363), and the entries whose rows the version after it
replaced: their old rows are released with it (R350). -/
structure OldVersion where
  version : Version
  cuts : List Cut
  changed : List Entry
  deriving DecidableEq, Repr

/-- A table (R309, R342). Counters are kept as (PACKETS, BYTES) with LOST flags and the values as last written back to DRAM
(`writtenBack` lists those that differ). `badPrimary`, `badMirror` and `badCopy` are the key records that need an
uncorrectable node; `lostPcs` are the pseudo-channels culled at run time (R582), and `renewed` the key records whose nodes a
committed version has rewritten since. `image` is the area of the open version and `frozenImage` that of the frozen one (R352). `holes` is MIRROR_INCOMPLETE (R424). `olds` is newest first. `serving` names the engine that
serves a partition where it is not the lowest-numbered one, `moved` the partitions that have moved, oldest first, each with its tick and its
old engine (R295), and `ops` the operations of each epoch (R280). -/
structure Table where
  kind : TableKind
  mirror : Bool
  klen : Nat
  vlen : Nat
  miss : List Byte
  instances : Nat
  stageRows : Nat
  number : Nat
  committed : Version
  frozen : Option Version
  opened : Option Version
  image : Option Image
  frozenImage : Option Image
  olds : List OldVersion
  counters : Map (Nat × Nat)
  writtenBack : Map (Nat × Nat)
  lost : List Nat
  badPrimary : List (List Byte)
  badMirror : List (List Byte)
  badCopy : List (List Byte)
  lostPcs : Nat
  renewed : List (List Byte)
  holes : Bool
  created : Tick
  journal : JournalState
  journalBad : Bool
  engMin : Nat
  engMax : Nat
  resident : Bool
  noRepl : Bool
  engNext : Nat
  serving : Map Nat
  moved : List (Tick × Nat × Nat)
  ops : Map Nat
  readsLast : Nat
  deriving DecidableEq, Repr

/-- A deleted table (R335, R336): requests stamped before `tick` are still served from it, and its rows are still in
use. -/
structure DeadTable where
  number : Nat
  table : Table
  tick : Tick
  deriving DecidableEq, Repr

/-- The three modes of R358. -/
inductive CommitMode where
  | immediate | marker | event
  deriving DecidableEq, Repr

/-- Where a commit stands: its image versions are being built; it is armed; it takes effect at a tick; it has cut some ports. -/
inductive CommitPhase where
  | building
  | armed
  | due (effect : Tick)
  | cutting
  deriving DecidableEq, Repr

/-- A commit in progress (R358 to R366). `base` is D, A or P as the mode needs it, `moved` whether each table named had an open
version, `deletes` the TABLE_DELETEs that wait for it (R366), `cls` the class of its entry (R431), and `written` that a request has been served
under a new version, so that CUTTING has reached the DRAM (R362). -/
structure Commit where
  mode : CommitMode
  phase : CommitPhase
  tables : List Nat
  moved : List Nat
  ring : Nat
  tag : Nat
  doorbell : Tick
  armTick : Tick
  base : Tick
  mask : Nat
  marker : Nat
  timeout : Nat
  line : Nat
  cuts : List Cut
  deletes : List (Nat × Nat × Nat × Tick)
  cls : Nat
  written : Bool
  deriving DecidableEq, Repr

/-- A record of the commit log (R368). -/
structure CommitRecord where
  serial : Nat
  mode : Nat
  outcome : Nat
  portsByMark : Nat
  marker : Nat
  armTick : Tick
  firstCut : Tick
  lastCut : Tick
  lowest : Nat
  count : Nat
  version : Nat
  deriving DecidableEq, Repr

/-- An MV_TUNE or MV_TABLE_HINT that waits for the next epoch boundary (R307). -/
inductive EpochSetting where
  | tune (homeMin replMin demote share eMin : Nat) (therm : Bool) (budget target : Nat)
  | hint (table engMin engMax : Nat) (resident noRepl : Bool)
  deriving DecidableEq, Repr

/-- A table-pool row counted under R300: its pseudo-channel, bank, row, activations in the window, and whether it is flagged. -/
structure RowCount where
  pc : Nat
  bank : Nat
  row : Nat
  count : Nat
  flagged : Bool
  deriving DecidableEq, Repr

/-- A row of DRAM. -/
structure RowAt where
  pc : Nat
  bank : Nat
  row : Nat
  deriving DecidableEq, Repr

/-- A table row (R292): the table it belongs to, by number and tick of creation, its place, whether it is one of a mirrored
table's rows that have a second copy, and the place of that copy, if there is one (R423, R424). -/
structure TableRow where
  table : Nat
  created : Tick
  main : RowAt
  pair : Bool
  mirror : Option RowAt
  deriving DecidableEq, Repr

/-- A node resident in the Crucible (R296, R297): its table and number, its partition (`none`: the replicated tier), its accesses
in the last epoch, the successive epochs below half its tier's threshold, and the window boundaries up to which it is not demoted (R300). -/
structure Node where
  table : Nat
  node : Nat
  part : Option Nat
  accesses : Nat
  low : Nat
  pinned : Nat
  deriving DecidableEq, Repr

/-- Accesses to a table node in an epoch, from one of the table's partitions, and those of them that read DRAM (R280, R296, R297). -/
structure NodeAccess where
  epoch : Nat
  table : Nat
  node : Nat
  part : Nat
  count : Nat
  dram : Nat
  deriving DecidableEq, Repr

/-- A block in the head area (R287, R439): its queue, BSEQ and the class it is charged to. -/
structure HeadBlock where
  queue : Nat
  bseq : Nat
  cls : Nat
  deriving DecidableEq, Repr

/-- A table operation at an engine: its request, table, class and partition, and the key record it needs. It waits in the input queue where
`reads` is `none` (R330), and otherwise holds a thread until these reads of its nodes have been served (R329). -/
structure EngineOp where
  req : Req
  table : Nat
  cls : Nat
  partition : Nat
  key : List Byte
  reads : Option (List MemReq)
  deriving DecidableEq, Repr

/-- Marver's state beside its registers (R280 to R308). The free-row list of bank b of pseudo-channel n, by the key 16n + b, is
the rows from `freeNext` up to the last of pool memory, followed by the rows returned since, `freed`. `lastBank` is the bank
last allocated from per pseudo-channel, `tableRows` the rows of the table pool in use, `tableTurn` the pseudo-channel that had
the last one, and `regionMoved` the device-region rows moved off retired banks with their new places (R303). `accesses` are the
counts of table nodes. `retired` are the retired banks as (pseudo-channel, bank), `lostRows` the rows that the reclaim scan has
left allocated (R305), `culledRun` the pseudo-channels culled since the last full reset (R582), `head` the head area, the block
read longest ago first, `region` the pseudo-channels of the device region (R282), `splits` the changes of T by MEM_SPLIT, oldest
first, each with its tick and the buffer pool's blocks before it (R286), `idleBenches` the benches that had no table and no
thread throughout the last epoch, and `givenBenches` those that have had one in the present epoch (R126). `epoch` is the number
of the epoch that the last boundary began, `threadPeak` the most threads seen busy at once in it (R339), `tierLines` the size of the table tiers in each slice as laid out at that boundary
(R287), `dropped` the slices that were marked by then and hold no table node (R427), and `rebuildTill` the tick up to which no
new row is placed (R421). -/
structure Marver where
  settings : List EpochSetting
  freeNext : Map Nat
  freed : Map (List Nat)
  lastBank : Map Nat
  tableRows : List TableRow
  tableTurn : Nat
  regionMoved : List (RowAt × RowAt)
  retired : List (Nat × Nat)
  lostRows : Nat
  rowCounts : List RowCount
  nodes : List Node
  accesses : List NodeAccess
  head : List HeadBlock
  culledRun : Nat
  queuePeak : Nat
  queueEngine : Nat
  threadPeak : Nat
  region : List Nat
  splits : List (Tick × Nat)
  idleBenches : Nat
  givenBenches : Nat
  epoch : Nat
  tierLines : Nat
  dropped : Nat
  rebuildTill : Tick
  deriving DecidableEq, Repr

/-- A table's line of the recovery report (R104): its outcome code and version. -/
structure Recovered where
  table : Nat
  code : Nat
  version : Nat
  deriving DecidableEq, Repr

/-! ### Memory controllers and the stack (R373 to R406) -/

/-- A request in a controller queue (R381): the request, its target in units of 10 ns (R385), its urgency by age (R386),
whether it has been counted late, whether its class has been demoted (R437), its place in the order of arrival, and the words of a
write that could not be read while it waited (R410). -/
structure MemEntry where
  req : MemReq
  target : Nat
  urgency : Nat
  late : Bool
  demoted : Bool
  seq : Nat
  bad : List Nat
  deriving DecidableEq, Repr

/-- An open row of a bank (R388, R389): how long it stays open. -/
structure OpenRow where
  row : Nat
  timed : Bool
  whileQueued : Bool
  deriving DecidableEq, Repr

/-- A pseudo-channel's controller state beside its registers: the two queues, oldest first, and requests that wait for an entry;
per bank the open row, the intervals the refresh is behind (negative: ahead) and, for the guard of R299 and R300, the tick of
the last activation of each row; sectors written in the present open row of each bank (R390); classes charged in the present
window (R435). -/
structure Pc where
  reads : List MemEntry
  writes : List MemEntry
  waiting : List MemReq
  openRows : Map (Option OpenRow)
  debt : Map Int
  lastAct : List (Nat × Nat × Tick)
  written : Map Nat
  charged : Map Nat
  arrivals : Nat
  deriving DecidableEq, Repr

/-- A staging-window row counted under R402: pseudo-channel, bank, row, activations. -/
structure StageRow where
  pc : Nat
  bank : Nat
  row : Nat
  count : Nat
  deriving DecidableEq, Repr

/-- An access to the staging window that waits for the row guard (R401): its offset and length, and for a write its bytes and
byte enables. -/
structure WindowAccess where
  write : Bool
  off : Nat
  n : Nat
  data : List Byte
  enables : Nat
  deriving DecidableEq, Repr

/-! ### Integrity (R407 to R430) -/

/-- The leaky bucket of a unit (R413 to R415): count, overflows, the last 8 counted positions with their ticks (newest first), and,
for a pseudo-channel, the raw count of each bank. -/
structure Bucket where
  count : Nat
  overflows : Nat
  seen : List (Nat × Tick)
  banks : Map Nat
  deriving DecidableEq, Repr

/-- A mirror repair or rewrite that IG has asked for (R409, R425). -/
inductive IgJob where
  | rewrite (w : MemWord)
  | mirror (table : Nat) (key : List Byte) (ofMirror : Bool) (w : MemWord)
  | copy (table : Nat) (key : List Byte) (w : MemWord)
  deriving DecidableEq, Repr

/-- IG's and Flux's state beside their registers. `retireUes` are the uncorrectable errors found (pseudo-channel, bank, row,
tick) of R426, `requested` the banks whose retirement is asked for, `badWords` the words of the stack last read as uncorrectable
(R407), of these `poisoned` those written with a poisoned check byte (R408, R410), `seenOther` the words outside the stack, by unit and
position, that have been read as uncorrectable (R428), `swept` the rows of each pseudo-channel that its sweeps have read since they began
(R417), and `sweepsAll` the sweeps that every pseudo-channel has done (R430). -/
structure Integrity where
  buckets : Map Bucket
  jobs : List IgJob
  retireUes : List (Nat × Nat × Nat × Tick)
  requested : List (Nat × Nat)
  badWords : List Nat
  swept : Map Nat
  poisoned : List Nat
  seenOther : List (Nat × Nat)
  sweepsAll : Nat
  deriving DecidableEq, Repr

/-! ### Regulator (R431 to R449) -/

/-- The guarantees of one class (R432). -/
structure Budget where
  bw : Nat
  cru : Nat
  thr : Nat
  deriving DecidableEq, Repr

/-- The regulator's state beside its registers: the sets in force and newest accepted, the tick at which the newest takes
effect, W of the present window, the sectors charged and demoted per class (since reset, and in the last window), classes demoted
in the present window, the memory fraction in sixteenths in force, and the DRAM floor F in units of 1/32 MB/s (R441, R442). `floors` are the
changes of F or of P, oldest first, each with its tick and the F and P before it (R444), `floorPcs` is P as F has it, and `opened` is the tick at which the present window began. -/
structure Regulator where
  budgets : Map Budget
  newest : Map Budget
  pendingAt : Option Tick
  length : Nat
  span : Nat
  charged : Map Nat
  excess : Map Nat
  present : Map Nat
  last : Map Nat
  demotedNow : Nat
  fraction : Nat
  floor : Nat
  floorPcs : Nat
  floors : List (Tick × Nat × Nat)
  opened : Tick
  deriving DecidableEq, Repr

/-! ### Outputs -/

/-- What an observer outside the block sees it do, or what it hands to the unit that asked. -/
inductive Output where
  /-- A completion entry (R467): ring, slot, tag, status, phase, submission head, result bytes 0 to 23. -/
  | completion (ring slot tag status phase sqHead result : Nat)
  /-- A write of host memory. -/
  | hostWrite (address : Nat) (bytes : List Byte)
  /-- An MSI-X message (R460). -/
  | msix (vector : Nat)
  /-- Configuration Request Retry Status (R88). -/
  | cfgRetry
  /-- The completion of a configuration request. -/
  | cfgReply (value : Nat)
  /-- A completion with Completer Abort. -/
  | completerAbort
  /-- A completion with Unsupported Request. -/
  | unsupportedRequest
  /-- The data of a register or window read, with the EP bit. -/
  | readData (bytes : List Byte) (poisoned : Bool)
  /-- A request for L1 (R452). -/
  | l1Request
  /-- An AER error message (R622): fatal or non-fatal. -/
  | errorMessage (fatal : Bool)
  /-- An answer in a service-core mailbox (R523). -/
  | mailbox (slot status : Nat) (bytes : List Byte)
  /-- A byte refused on the sideband. -/
  | sbNack
  /-- Bytes the sideband returns to a reader, and the PEC that follows them where the reader clocks one more byte. -/
  | sbData (bytes : List Byte) (pec : Byte)
  /-- A notification sent on the sideband (R602). -/
  | notify (address : Nat) (bytes : List Byte)
  /-- A read of the boot EEPROM (R603). -/
  | eepromRead
  /-- A PTM request (R143). -/
  | ptmRequest
  /-- An item of a port's stream (R193). -/
  | item (port : Nat) (i : LinkItem)
  /-- A resync codeword and copies of the kept items from this SEQ (R213). -/
  | replay (port seq : Nat) (items : List LinkItem)
  /-- A codeword on the lanes of a port: each physical lane of the set in use with its PAM4 symbols (R156, R190). -/
  | codeword (port : Nat) (lanes : List (Nat × List Int))
  /-- A training frame's control field on a lane (R163). -/
  | frame (port lane control : Nat)
  /-- A port's transmitters go to electrical idle. -/
  | lanesIdle (port : Nat)
  /-- A port's transmitters send training frames. -/
  | lanesTrain (port : Nat)
  /-- A port's transmitters send again after WARM (R179). -/
  | lanesResume (port : Nat)
  /-- The words of a sector handed to the port that read it (R382), and those of them delivered poisoned (R410). -/
  | sector (pc bank row sector : Nat) (words : List (Nat × Nat)) (poisoned : List Nat)
  deriving DecidableEq, Repr

/-! ### The state -/

/-- The state of the block. `pending` is the queue of commands, first in, first out. `out` are the outputs, newest first, and
`heldOut` those that wait for D0 (R453). `free` counts the free values used. `mem` are the stack positions that the staging
window, a bulk mover or a memory controller has written, as (position, byte) with the Crucible's positions from 2⁴⁰; `placed` is
true once Marver may have placed something since the last fill. `resetting` is set from the acceptance of DEV_RESET; `quiesce`
holds its ring and tag while the device quiesces. `cancelled` are the commits that the present quiesce has cancelled, and
`recoveredCommits` those that the recovery report lists (R102). Every other field is described with its type. -/
structure State where
  pending : List Instr
  out : List Output
  heldOut : List Output
  free : Nat
  time : TimeBase
  pilot : Pilot
  dom : Domains
  regs : Map Nat
  latches : Map Nat
  pcie : Pcie
  log : List LogEntry
  logWritten : Nat
  rings : Map Ring
  resetting : Bool
  quiesce : Option (Nat × Nat)
  lines : Map EvLine
  pulses : List (Nat × Tick)
  channels : Map Channel
  fuses : FuseArray
  trust : Trust
  sensors : Map Sensor
  layers : Map Layer
  thermal : Thermal
  test : SelfTest
  sideband : Sideband
  ports : Map Port
  lanes : Map Lane
  queues : Map Queue
  queueChanges : List QueueChange
  snapshots : List Snapshot
  snapPending : Option (SnapSource × Tick)
  tables : Map (Option Table)
  dead : List DeadTable
  commits : List Commit
  commitLog : List CommitRecord
  recovered : List Recovered
  cancelled : List CommitRecord
  recoveredCommits : List CommitRecord
  latency : Map Nat
  engineQueues : Map (List EngineOp)
  marver : Marver
  pcs : Map Pc
  stageRows : List StageRow
  windows : List WindowAccess
  mem : List Host.Cell
  placed : Bool
  integrity : Integrity
  regulator : Regulator
  deriving DecidableEq, Repr

/-! ### Reset -/

/-- The fuse array of the part modelled, as it leaves the factory (R526 to R533): an OLS64-H16 production part, serial number 1,
with FACTORY_ID, TRIM_REPAIR and SECRETS sealed, key digests 1, 1 and 2 in slots 0 to 2, and VENDOR_CLOSE blown. DESIGN CHOICE
(log entry 3). -/
def factoryWords : Map Nat :=
  [(0, 1), (2, 256), (62, 3277455422), (63, 618123957)] ++ (List.range 192).map (fun i => (576 + i, 0x3F3F)) ++
    [(1214, 3277456510), (1215, 4081853428), (1216, 1),
    (1228, 3277455372), (1229, 3476643657), (1230, 1), (1242, 3277455372), (1243, 3476643657), (1244, 2),
    (1256, 3277455372), (1257, 2313906733), (1342, 3277455422), (1343, 3128675780), (2040, 4294967295)]

/-- Its lock row: FACTORY_ID, TRIM_REPAIR, KEY_DIGESTS and SECRETS write-locked, SECRETS read-locked (R527, R528). -/
def factoryLocks : Nat := 1 + 4 + 16 + 64 + 128

/-- Pilot at power-on: no rail in tolerance yet (bits of R65 but VDD_AO and VPROG), input pins high. -/
def pilotReset : Pilot :=
  { phase := .rails, kind := .powerOn, resetN := true, perstN := true, holdN := true, railsLow := 0x1FB, strapsTaken := false,
    refclkOk := false, stackHold := true, internalHeld := false, tapIr := 0, tapHeld := false, sealed := false,
    thermtrip := false, driversOff := true, safeCause := none, refCount := 0, svWatchdogArmed := false,
    completionsPosted := false, nextKind := none, readyTick := 0, newlyCulled := 0, next := 3, stepTick := 0,
    anvilOsc := true, ssc := 0, svBeat := 0, avBeat := 0 }

/-- The time base at power-on: counter 0 (R105), on the oscillator (R119). -/
def timeReset : TimeBase :=
  { ticks := 0, onOsc := true, frac := 0, goodOffsets := 0, measured := false, lastMeas := (0, 0), ptmOpen := false,
    ptmFails := 0, synced := false }

/-- Domains at power-on: nothing closed by force. -/
def domReset : Domains := { isolatedPwr := 0, isolatedClk := 0, waking := 0, inReset := 0, benchLoading := 0, draining := false }

/-- The PCIe function at power-on. The configuration space starts at the PCI Express defaults: vectors masked, 128 B payload, 512 B
read requests, AER severity of Uncorrectable Internal Error fatal and masked (log entry 4). -/
def pcieReset : Pcie :=
  { d3hot := false, linkL1 := false, linkUp := false, msixEnable := false, msixFnMask := false, vectorMask := 2 ^ 64 - 1,
    vectorPending := 0, msixAddr := [], msixData := [], maxPayload := 0, maxReadRequest := 2, completionTimeout := 0,
    noSnoopEnable := true, aspmL1 := false, commonClock := false, ptmEnable := false, bar0 := 0, bar2 := 0, aerStatus := 0,
    aerMask := 2 ^ 22, aerSeverity := 2 ^ 22 }

/-- Anvil at power-on: nothing sensed, no firmware. -/
def trustReset : Trust :=
  { latched := [], latchedMarginal := [], latchedLocks := 0, bootLocks := 0, bootRevoked := 0, bootRollback := 0, patchOk := true,
    slot0 := none, slot1 := none, marked := none, running := none, runningSlot := 0, identity := false, job := none }

/-- Lehr at power-on: no sample yet. -/
def thermalReset : Thermal :=
  { sampled := false, sampleTick := 0, narrowedPorts := 0, stopPending := false, endPending := false }

/-- TC at power-on. -/
def testReset : SelfTest :=
  { jobs := [], spares := [], columns := [], lastHeld := none, round := 0, pcBist := 0, holdTemps := [], reloading := 0 }

/-- The sideband at power-on. -/
def sidebandReset : Sideband :=
  { notifyNumber := 0, lastLow := 0, newEntry := false, notifying := false, failures := 0, arbRetries := 0, clearing := false,
    clearTries := 0, eepromWanted := false, eepromRetry := false, eepromBusy := false }

/-- Marver at power-on. -/
def marverReset : Marver :=
  { settings := [], freeNext := [], freed := [], lastBank := [], tableRows := [], tableTurn := 63,
    regionMoved := [], retired := [], lostRows := 0, rowCounts := [], nodes := [], accesses := [], head := [],
    culledRun := 0, queuePeak := 0, queueEngine := 0, threadPeak := 0, region := [0, 1, 2, 3], splits := [], idleBenches := 0, givenBenches := 0, epoch := 0,
    tierLines := 0, dropped := 0, rebuildTill := 0 }

/-- IG and Flux at power-on. -/
def integrityReset : Integrity :=
  { buckets := [], jobs := [], retireUes := [], requested := [], badWords := [], swept := [], poisoned := [], seenOther := [], sweepsAll := 0 }

/-- The regulator at power-on: the budgets of R432 (class 14: 50 000 MB/s and 2 threads are the unlisted values of the maps). -/
def regulatorReset : Regulator :=
  { budgets := [], newest := [], pendingAt := none, length := 10, span := 10, charged := [], excess := [], present := [],
    last := [], demotedNow := 0, fraction := 16, floor := 92800000, floorPcs := 64, floors := [], opened := 0 }

/-- The machine right after power-on: VDD_AO has risen, and Pilot waits for the other rails (R86 step 1). Every register holds its
Cold value. -/
def State.reset : State :=
  { pending := [], out := [], heldOut := [], free := 0, time := timeReset, pilot := pilotReset, dom := domReset, regs := [],
    latches := [], pcie := pcieReset, log := [], logWritten := 0, rings := [], resetting := false, quiesce := none, lines := [],
    pulses := [], channels := [],
    fuses := { words := factoryWords, weak := [], locks := factoryLocks, weakLocks := 0 },
    trust := trustReset, sensors := [], layers := [], thermal := thermalReset, test := testReset, sideband := sidebandReset,
    ports := [], lanes := [], queues := [], queueChanges := [], snapshots := [], snapPending := none, tables := [], dead := [],
    commits := [], commitLog := [], recovered := [], cancelled := [],
    recoveredCommits := [], latency := [], engineQueues := [], marver := marverReset, pcs := [],
    stageRows := [], windows := [], mem := [], placed := false, integrity := integrityReset, regulator := regulatorReset }

end Sys2Proof.Machine
end

