-- ==== Sys2Proof/Machine/Ops.lean ====
section
/-!
DEFINITION. The operations that many commands share: reading and writing a register field, the error log and the
MSI-X vectors (R611 to R616, R460), the event matrix (R514, R515), and the completions of ring commands (R467).
-/
namespace Sys2Proof.Machine

/-- The words of the stack that `p` keeps are still uncorrectable or poisoned; the others are good again (R407, R408). -/
def Integrity.keepBad (x : Integrity) (p : Nat → Bool) : Integrity :=
  { x with badWords := x.badWords.filter p, poisoned := x.poisoned.filter p }

/-- A word of the stack is stored poisoned (R408). -/
def Integrity.poison (x : Integrity) (a : Nat) : Integrity :=
  { x with badWords := if x.badWords.contains a then x.badWords else a :: x.badWords,
           poisoned := if x.poisoned.contains a then x.poisoned else a :: x.poisoned }

/-! ### Registers -/

/-- The stored value of a register field. -/
def State.f (s : State) (k : Fld) : Nat := Map.get coldOf s.regs k

/-- Write a register field. The caller gives a value within the field's width. -/
def State.setF (s : State) (k : Fld) (v : Nat) : State := { s with regs := Map.set coldOf s.regs k v }

/-- What a _HI register shows before a read of its _LO register has latched it: its Cold value. -/
def latchCold (off : Nat) : Nat := coldOf (fld (off - 4) 0) / 2 ^ 32 % 2 ^ 32

/-- The value in force of a field whose Description reads some stored values as others ("0 is read as 1"). -/
def State.eff (s : State) (k : Fld) : Nat := clampOf k (s.f k)

/-- Write several fields. -/
def State.setFs (s : State) : List (Fld × Nat) → State
  | [] => s
  | (k, v) :: r => (s.setF k v).setFs r

/-- Add `n` to a counter field, saturating at `mx`. -/
def State.addF (s : State) (k : Fld) (n mx : Nat) : State := s.setF k (min (s.f k + n) mx)

/-- Add 1 to a counter field of `w` bits, saturating. -/
def State.bump (s : State) (k : Fld) (w : Nat) : State := s.setF k (min (s.f k + 1) (2 ^ w - 1))

/-- A one-bit field reads 1. -/
def State.on (s : State) (k : Fld) : Bool := s.f k == 1

/-- Device time (R140). -/
def State.now (s : State) : Tick := s.time.ticks

/-- Add an observable output, newest first. -/
def State.emit (s : State) (o : Output) : State := { s with out := o :: s.out }

/-- A memory request of the S64 on PCI Express. In D3hot it waits until the function returns to D0 (R453). -/
def State.emitHost (s : State) (o : Output) : State :=
  if s.pcie.d3hot then { s with heldOut := o :: s.heldOut } else s.emit o

/-- The next free value of the model's own counter (see `Config`): the counter it is applied to advances. -/
def State.fresh (s : State) : Nat × State := (s.free, { s with free := s.free + 1 })

/-! ### Identity and state of the whole device -/

/-- Grade of the part (R6, R529): 0 = OLS64-H16, 1 = OLS32-H8, 2 = OLS16-H4, from the latched FACTORY_ID word 2. -/
def State.grade (s : State) : Nat := bitsOf (Map.get (fun _ => 0) s.trust.latched 2) 1 0

/-- An engineering sample (R7, R529). -/
def State.isEs (s : State) : Bool := bitOf (Map.get (fun _ => 0) s.trust.latched 2) 16

/-- DRAM dies of the grade (R5). -/
def State.dies (s : State) : Nat := if s.grade = 0 then 16 else if s.grade = 1 then 8 else 4

/-- Pseudo-channels per DRAM die (R5). -/
def State.pcsPerDie (s : State) : Nat := 64 / s.dies

/-- Capacity of one pseudo-channel in bytes (R5). -/
def State.pcBytes (s : State) : Nat :=
  if s.grade = 0 then 2 ^ 30 else if s.grade = 1 then 2 ^ 29 else 2 ^ 28

/-- The DRAM layer of a pseudo-channel (R92). -/
def State.layerOf (s : State) (pc : Nat) : Nat := pc / s.pcsPerDie + 1

/-- Pseudo-channel in service: not in the cullet map. -/
def State.pcLive (s : State) (pc : Nat) : Bool := !bitOf (s.f tcCulletPc) pc

/-- The device is in safe hold (R622). -/
def State.safeHold (s : State) : Bool := s.on elStatusSafeHold

/-- The device is banked after REFCLK loss (R138). -/
def State.banked (s : State) : Bool := s.f devStatusStage == 0xE

/-- No ring entry is fetched and no completion posted (R482). -/
def State.halted (s : State) : Bool := s.safeHold || s.banked

/-- The device is quenched (R566). -/
def State.quenched (s : State) : Bool := s.on thStatusQuenched

/-- A verified service firmware runs. -/
def State.fwRuns (s : State) : Bool := s.on devStatusFwRunning

/-- The firmware that runs: none once its watchdog has expired (R495, R499, R551). -/
def State.runningImage (s : State) : Option FwImage := if s.fwRuns then s.trust.running else none

/-- Every queue-manager slice is in the cullet map (R581). -/
def State.qmGone (s : State) : Bool := s.f tcCulletMiscQms == 0xFF

/-- The units of a kind that BIST_RUN has still to test. -/
def State.testing (s : State) (k : UnitKind) : Nat :=
  (s.test.jobs.filter (fun j => j.kind == k)).foldl (fun m j => m ||| j.todo) 0

/-- The slice that serves a queue (R239): that of its number modulo 8, or the next above it, modulo 8, that is not culled; a
slice under test is treated as culled (R577). -/
def State.queueSlice (s : State) (q : Nat) : Option Nat :=
  ((List.range 8).map (fun i => (q + i) % 8)).find? (fun n => !bitOf (s.f tcCulletMiscQms ||| s.testing .qmSlice) n)

/-- Every engine is in the cullet map (R581). -/
def State.enginesGone (s : State) : Bool := s.f tcCulletEng == 2 ^ 64 - 1

/-- Which reset sources keep the device in reset (R58, R98 step 2). -/
def State.resetHeldBySource (s : State) : Bool :=
  !s.pilot.resetN || !s.pilot.perstN || s.pilot.internalHeld || s.pilot.tapHeld || s.pilot.railsLow != 0

/-- ALERT_N as the S64 drives it: true = asserted (R615, R572, R106). -/
def State.alertAsserted (s : State) : Bool :=
  !s.pilot.driversOff && (s.on elStatusAlertPend || s.f thAlert != 0 || s.safeHold)

/-- The sequence has been stopped at the quench level (R112). -/
def State.bootStopped (s : State) : Bool := s.f devStatusStage == 0xB

/-- A power-on BIST is due (R86 step 10, R98). -/
def State.bistDue (s : State) : Bool := s.pilot.kind == .powerOn && s.on plStrapsBist

/-- What STAGE shows during the step that has begun (R114). Step 11 takes no time, so the step before it still shows. -/
def State.bootStage (s : State) : Nat :=
  if s.on devStatusStackFault then 0xC
  else if s.pilot.next ≤ 3 then 0
  else if s.pilot.next ≤ 10 then s.pilot.next - 3
  else if s.on fzStatusBootFault then 2 else if s.bistDue then 7 else 6

/-- Power and clock domains that show as on before step 11 (R153): always-on, PCIe, thermal, sideband, REFCLK and time base from step 4 on,
with the fuse domains, and those of Anvil from step 5. DESIGN CHOICE (log entry 43): the others show from step 11. -/
def earlyPower : Nat := 1 + 2 + 4 + 2 ^ 43 + 2 ^ 44
def earlyClocks : Nat := 1 + 2 + 4 + 8 + 2 ^ 49 + 2 ^ 50 + 2 ^ 51 + 2 ^ 58

/-- Step 4 begins (R86). -/
def State.enterReady (s : State) : State :=
  let t := { s with pilot := { s.pilot with phase := .ready, stepTick := s.now } }
  t.setFs [(devStatusStage, t.bootStage), (plPwrOn, earlyPower), (plClkActive, earlyClocks)]

/-- The sequence goes on once every source is released: to the REFCLK check of step 3, or to step 4 where that check has passed (R86,
R98). After a trip nothing goes on without VDD_AO (R59). -/
def State.tryReady (s : State) : State :=
  if s.pilot.phase = .resetHeld ∧ s.resetHeldBySource = false ∧ s.pilot.thermtrip = false then
    if s.pilot.next = 3 then { s with pilot := { s.pilot with phase := .refclk } } else s.enterReady
  else s

/-- Lehr samples, and the REFCLK monitor runs, from the end of step 4 (R90, R120). -/
def State.pastStep4 (s : State) : Bool := s.pilot.phase == .running || (s.pilot.phase == .ready && decide (5 ≤ s.pilot.next))

/-- The service-firmware watchdog is armed, and Anvil, in which it runs, has not stopped (R618). -/
def State.watchdogRuns (s : State) : Bool := s.pilot.svWatchdogArmed && s.fwRuns && !s.halted

/-- Anvil runs under the supervisor: from the start of step 5 (R621). -/
def State.supervised (s : State) : Bool := s.pastStep4 && !s.safeHold && !s.pilot.thermtrip

/-- BARs are decoded from PCIE_READY on (R88), and in safe hold (R623). -/
def State.decodesBars (s : State) : Bool := s.on devStatusPcieReady || s.safeHold

/-- PCI Device ID of the grade (R450). -/
def State.deviceId (s : State) : Nat := if s.grade = 0 then 0x0640 else if s.grade = 1 then 0x0320 else 0x0160

/-- Device Serial Number: FACTORY_ID words 0 and 1 (R529). -/
def State.serial (s : State) : Nat :=
  Map.get (fun _ => 0) s.trust.latched 0 + 2 ^ 32 * Map.get (fun _ => 0) s.trust.latched 1

/-! ### Forced closure (R131, R132) -/

/-- A forced closure starts: the ports of these power and clock domains are isolated, and wakes and microcode loads under way are
abandoned (R132). -/
def State.closeDomains (s : State) (power clocks : Nat) : State :=
  { s with dom := { s.dom with isolatedPwr := s.dom.isolatedPwr ||| power, isolatedClk := s.dom.isolatedClk ||| clocks,
                               waking := s.dom.waking - (s.dom.waking &&& power),
                               benchLoading := s.dom.benchLoading - (s.dom.benchLoading &&& (power / 2 ^ 21 % 256)), draining := true } }

/-- Domains closed by force are opened again. -/
def State.openDomains (s : State) (power clocks : Nat) : State :=
  { s with dom := { s.dom with isolatedPwr := s.dom.isolatedPwr - (s.dom.isolatedPwr &&& power),
                               isolatedClk := s.dom.isolatedClk - (s.dom.isolatedClk &&& clocks) } }

/-- The clocks and the power of domains closed by force are removed (R131 step 4); a bench without either is neither powered nor
running. -/
def State.removeDomains (s : State) (power clocks : Nat) : State :=
  let benches := (power / 2 ^ 21 ||| clocks / 2 ^ 22) % 256
  s.setFs [(plPwrOn, s.f plPwrOn - (s.f plPwrOn &&& power)), (plClkActive, s.f plClkActive - (s.f plClkActive &&& clocks)),
    (teBenchPowered, s.f teBenchPowered - (s.f teBenchPowered &&& (power / 2 ^ 21 % 256))),
    (teBenchRunning, s.f teBenchRunning - (s.f teBenchRunning &&& benches))]

/-- The unit of a power domain is culled, so the domain stays off (R126). -/
def State.domainCulled (s : State) (d : Nat) : Bool :=
  (decide (3 ≤ d ∧ d ≤ 18) && bitOf (s.f tcCulletPort) (d - 3)) || (decide (21 ≤ d ∧ d ≤ 28) && bitOf (s.f tcCulletMiscBench) (d - 21)) ||
    (decide (31 ≤ d ∧ d ≤ 34) && (List.range 16).all (fun i => bitOf (s.f tcCulletSlice) (16 * (d - 31) + i))) ||
    (decide (35 ≤ d ∧ d ≤ 42) && (List.range 8).all (fun i => !s.pcLive (8 * (d - 35) + i)))

/-- A block is held in local reset (R137), by its clock domain. -/
def State.heldInReset (s : State) (d : Nat) : Bool := bitOf s.dom.inReset d

/-- Domains that exist on the grade and have a gate (R124). -/
def State.hasGate (s : State) (d : Nat) : Bool := (decide (2 ≤ d ∧ d < 33 + s.dies) && d != 31) || d == 50 || (decide (52 ≤ d ∧ d < 60) && d != 58)

/-- A write of PL_GATE_DIS: the gates that it disables open (R130), but those of domains without power, closed by force or held in reset. -/
def State.setGateDis (s : State) (v : Nat) : State :=
  let powered := fun (d : Nat) => !(decide (4 ≤ d ∧ d < 20) || decide (22 ≤ d ∧ d < 30)) || bitOf (s.f plPwrOn) (d - 1)
  s.setFs [(plGateDis, v), (plClkActive, s.f plClkActive |||
    maskOf 60 (fun d => bitOf v d && s.hasGate d && powered d && !s.heldInReset d && !bitOf s.dom.isolatedClk d))]

/-! ### MSI-X (R459, R460) -/

/-- A message can be sent now: PCIE_READY, the link up (R138), D0, MSI-X enabled, function and vector unmasked. -/
def State.canSend (s : State) (v : Nat) : Bool :=
  s.on devStatusPcieReady && s.pcie.linkUp && !s.pcie.d3hot && s.pcie.msixEnable && !s.pcie.msixFnMask && !bitOf s.pcie.vectorMask v

/-- A cause of vector `v`: one message, or the pending bit (R460). -/
def State.vector (s : State) (v : Nat) : State :=
  if s.canSend v then s.emit (.msix v)
  else { s with pcie := { s.pcie with vectorPending := setBit s.pcie.vectorPending v } }

/-- Send one message for each pending vector that can be sent now, lowest first (R460). -/
def State.flushVectors (s : State) : State :=
  (List.range 64).foldl (fun t v =>
    if bitOf t.pcie.vectorPending v && t.canSend v then
      ({ t with pcie := { t.pcie with vectorPending := clearBit t.pcie.vectorPending v } }).emit (.msix v)
    else t) s

/-! ### The error log (R611 to R616) -/

/-- An event to report: what R612 records of it, its severity and the vector of R616. -/
structure LogEvent where
  pre : LogPrefix
  code : Nat
  severity : Nat
  vector : Option Nat := none
  unitKind : Nat := 0
  unit : Nat := 0xFF
  sub : Nat := 0xFF
  object : Nat := 0xFFFFFFFF
  data : Nat := 0
  deriving DecidableEq, Repr

/-- R613: the newest entry already reports the same event, less than 1 ms earlier. -/
def LogEvent.mergesWith (e : LogEvent) (now : Tick) (n : LogEntry) : Bool :=
  n.pre == e.pre && n.code == e.code && n.unitKind == e.unitKind && n.unit == e.unit && n.sub == e.sub &&
    n.object == e.object && decide (now < n.tick + 4000000)

/-- The number after `n`, modulo 2³², never 0 (R611). -/
def nextSeq (n : Nat) : Nat := if (n + 1) % 2 ^ 32 = 0 then 1 else (n + 1) % 2 ^ 32

/-- Write the entry of an event, or raise REPEAT of the newest one (R611, R613). -/
def State.writeEntry (s : State) (e : LogEvent) : State :=
  let fresh : LogEntry := ⟨s.f elNext, s.now, e.pre, e.code, e.severity, e.unitKind, e.unit, e.sub, 0, e.object, e.data⟩
  match s.log with
  | [] =>
    { (s.setF elFirst (s.f elNext)).setF elNext (nextSeq (s.f elNext)) with
        log := [fresh], logWritten := s.logWritten + 1, sideband := { s.sideband with newEntry := true } }
  | n :: r =>
    if e.mergesWith s.now n then { s with log := { n with rep := min (n.rep + 1) 255 } :: r }
    else
      let full := decide (1024 ≤ r.length + 1)
      let kept := if full then (n :: r).dropLast else n :: r
      let t := if full then s.addF elLost 1 (2 ^ 32 - 1) else s
      let first := ((kept.getLast?).map (·.seq)).getD (s.f elNext)
      { (t.setF elFirst first).setF elNext (nextSeq (s.f elNext)) with
          log := fresh :: kept, logWritten := s.logWritten + 1, sideband := { s.sideband with newEntry := true } }

/-- Report an event: the entry, ALERT_PEND for severity 3 (R615), and its vector. -/
def State.report (s : State) (e : LogEvent) : State :=
  let t := s.writeEntry e
  let u := if e.severity = 3 then t.setF elStatusAlertPend 1 else t
  match e.vector with
  | none => u
  | some v => u.vector v

/-! ### The event matrix (R514, R515) -/

/-- What an event line that has never pulsed reads. -/
def lineCold (_ : Nat) : EvLine := ⟨0, false, 0⟩

/-- Event line `l`. -/
def State.line (s : State) (l : Nat) : EvLine := Map.get lineCold s.lines l

/-- One pulse on line `l` at tick `t`: recorded, counted, and due at the line's sinks (R515). -/
def State.pulseLine (s : State) (l : Nat) (t : Tick) : State :=
  { s with lines := Map.set lineCold s.lines l ⟨t, true, min ((s.line l).count + 1) (2 ^ 32 - 1)⟩
           pulses := s.pulses ++ [(l, t)] }

/-- Pulse every line whose source is `code` (R514: several lines can share a source). -/
def State.pulseSource (s : State) (code : Nat) : State :=
  (List.range 64).foldl (fun t l => if s.f (evSrcCode l) = code then t.pulseLine l s.now else t) s

/-! ### Ring completions (R465, R467 to R469) -/

/-- A ring that nothing has used since the last reset. -/
def ringCold (_ : Nat) : Ring := ⟨0, [], [], [], 0, 0, false⟩

/-- Ring `r` beside its registers. -/
def State.ring (s : State) (r : Nat) : Ring := Map.get ringCold s.rings r

/-- Replace what ring `r` holds. -/
def State.setRing (s : State) (r : Nat) (x : Ring) : State := { s with rings := Map.set ringCold s.rings r x }

/-- Completion slots written and not yet freed (R468). -/
def State.slotsUsed (s : State) (r : Nat) : Nat :=
  let n := s.f (hcRingSizeCq r)
  if n = 0 then 0 else (s.f (hcCqTailIndex r) + n - (s.ring r).cqHead % n) % n

/-- IDLE (R469): no started command has a completion left to write, discarded final completions apart. -/
def Ring.idle (x : Ring) : Bool := x.live.all (fun c => c.dropped)

/-- Refresh the status fields that follow from the commands in execution. -/
def State.syncRing (s : State) (r : Nat) : State :=
  s.setFs [(hcRingStatusInFlight r, min ((s.ring r).live.length) 64),
    (hcRingStatusIdle r, b2n (s.ring r).idle),
    (hcRingStatusWaiting r, b2n (s.ring r).waitingHead)]

/-- Write one 32 B completion entry into the next slot of ring `r` (R467), and its vector under R460. -/
def State.writeCompletion (s : State) (r tag status result : Nat) : State :=
  let i := s.f (hcCqTailIndex r)
  let ph := s.f (hcCqTailPhase r)
  let wraps := decide (s.f (hcRingSizeCq r) ≤ i + 1)
  let x := s.ring r
  let t := (s.emitHost (.completion r i tag status ph (s.f (hcSqHead r)) result)).setFs
    [(hcCqTailIndex r, if wraps then 0 else i + 1), (hcCqTailPhase r, if wraps then 1 - ph else ph)]
  if s.eff (hcRingCtrlIntCount r) ≤ x.unsignalled + 1 then (t.setRing r { x with unsignalled := 0 }).vector (16 + r)
  else t.setRing r { x with unsignalled := x.unsignalled + 1 }

/-- Post a completion of the command with this tag (R465): PENDING (0x08) leaves it in execution, any other status ends
it. The final completion of a command whose ring was disabled is discarded (R469). In safe hold and in the banked
state none is posted (R482). -/
def State.complete (s : State) (r tag status result : Nat) : State :=
  if s.halted then s
  else
    let x := s.ring r
    match x.live.find? (fun c => c.tag == tag && (!c.posted || status != 0x08)) with
    | none => s.writeCompletion r tag status result
    | some c =>
      let rest := x.live.erase c
      let live' := if status = 0x08 then { c with posted := true } :: rest else rest
      let t := s.setRing r { x with live := live' }
      let u := if c.dropped then t else t.writeCompletion r tag status result
      u.syncRing r

/-- The ring is at the expert level (R11, R472). -/
def State.ringExpert (s : State) (r : Nat) : Bool := s.on (hcRingStatusExpert r)

end Sys2Proof.Machine
end

