-- ==== Sys2Proof/Machine/Catalogue.lean ====
section
/-!
DEFINITION. The catalogue of control commands (R489), their parameter bits, and the checks that a ring entry meets
before its opcode's own checks (R464, R490, R491, R645).
-/
namespace Sys2Proof

/-! ### Fields of an entry (R463) -/

def Sqe.expert (e : Sqe) : Bool := Machine.bitOf e.flags 0
def Sqe.fence (e : Sqe) : Bool := Machine.bitOf e.flags 1
def Sqe.wait (e : Sqe) : Bool := Machine.bitOf e.flags 2
def Sqe.indirect (e : Sqe) : Bool := Machine.bitOf e.flags 3

/-- Parameter bytes `off` to `off + n - 1` of an entry, `off` counted from byte 0 of the entry. -/
def Sqe.par (e : Sqe) (off n : Nat) : Nat := e.params / 256 ^ (off - 16) % 256 ^ n

/-- One parameter bit of an entry. -/
def Sqe.bit (e : Sqe) (off i : Nat) : Bool := Machine.bitOf (e.par off 1) i

/-- Check 4 of R464: PARAM_LEN under R463, 1 B to 4 MiB with INDIRECT = 1 and 0 without. -/
def Sqe.lengthOk (e : Sqe) : Bool :=
  if e.indirect then decide (1 ≤ e.paramLen ∧ e.paramLen ≤ 2 ^ 22) else e.paramLen == 0

/-- Check 5 of R464: the buffer address is a multiple of 8, and EVENT is at most 63 when WAIT = 1. -/
def Sqe.addressOk (e : Sqe) : Bool :=
  (!e.indirect || e.par 16 8 % 8 == 0) && (!e.wait || decide (e.event ≤ 63))

end Sys2Proof

namespace Sys2Proof.Machine

/-! ### Status codes of R25 -/

def stOk : Nat := 0x00
def stDonePartial : Nat := 0x01
def stEmpty : Nat := 0x02
def stPending : Nat := 0x08
def stBadOpcode : Nat := 0x10
def stBadParam : Nat := 0x11
def stBadLength : Nat := 0x12
def stNotPermitted : Nat := 0x13
def stExpertRequired : Nat := 0x14
def stNoSuchObject : Nat := 0x18
def stQueueFull : Nat := 0x20
def stPoolExhausted : Nat := 0x21
def stTableFull : Nat := 0x22
def stKeyExists : Nat := 0x23
def stKeyAbsent : Nat := 0x24
def stMemUncorrectable : Nat := 0x30
def stPacketCorrupt : Nat := 0x31
def stChainLimit : Nat := 0x38
def stGuaranteeExceeded : Nat := 0x40
def stThermalHold : Nat := 0x48
def stQuenched : Nat := 0x49
def stTimeout : Nat := 0x50
def stResourceCulled : Nat := 0x58
def stSecurityDenied : Nat := 0x60
def stSignatureInvalid : Nat := 0x61
def stRollbackRejected : Nat := 0x62
def stFuseLocked : Nat := 0x70
def stFuseVerifyFailed : Nat := 0x71
def stInternalFault : Nat := 0x7F

/-! ### The catalogue (R489) -/

/-- The Quench column of R489. -/
inductive QuenchRule where
  | runs
  | refused
  | ifFlush
  | ifPreserve
  deriving DecidableEq, Repr

/-- One row of R489, with whether the opcode takes an indirect buffer, and the parameter bits it uses as (byte of the
entry, first bit in it, number of bits). -/
structure CmdSpec where
  opcode : Nat
  expert : Bool
  anvil : Bool
  quench : QuenchRule
  buffer : Bool
  used : List (Nat × Nat × Nat)
  deriving DecidableEq, Repr

/-- Device and system commands. -/
def catalogueDevice : List CmdSpec := [
  ⟨0x100, false, true, .runs, false, []⟩,
  ⟨0x101, false, true, .runs, false, []⟩,
  ⟨0x102, false, true, .runs, false, []⟩,
  ⟨0x104, false, true, .ifPreserve, false, [(16, 0, 1)]⟩,
  ⟨0x105, false, true, .runs, true, [(16, 0, 64)]⟩,
  ⟨0x108, false, true, .runs, false, []⟩,
  ⟨0x109, false, true, .runs, false, []⟩,
  ⟨0x10C, false, true, .runs, false, [(16, 0, 128)]⟩,
  ⟨0x10D, false, true, .runs, false, [(16, 0, 32)]⟩,
  ⟨0x110, false, false, .runs, false, [(16, 0, 192)]⟩]

/-- Queue commands (R278). -/
def catalogueQueue : List CmdSpec := [
  ⟨0x140, false, false, .runs, false, [(16, 0, 128), (32, 0, 3)]⟩,
  ⟨0x141, false, false, .ifFlush, false, [(16, 0, 64), (24, 0, 1)]⟩,
  ⟨0x142, false, false, .refused, false, [(16, 0, 64)]⟩,
  ⟨0x143, false, false, .runs, false, [(16, 0, 32)]⟩,
  ⟨0x144, false, false, .refused, false, [(16, 0, 64)]⟩,
  ⟨0x145, false, false, .runs, false, [(16, 0, 96), (32, 0, 64)]⟩,
  ⟨0x150, true, false, .runs, false, [(16, 0, 96)]⟩,
  ⟨0x151, true, false, .runs, false, [(16, 0, 8)]⟩]

/-- Table and commit commands (R334, R372). -/
def catalogueTable : List CmdSpec := [
  ⟨0x180, false, false, .refused, false, [(16, 0, 16), (18, 0, 1), (20, 0, 16), (24, 0, 32), (32, 0, 128)]⟩,
  ⟨0x181, false, false, .refused, false, [(16, 0, 8)]⟩,
  ⟨0x182, false, false, .runs, false, [(16, 0, 8)]⟩,
  ⟨0x183, false, false, .refused, false, [(16, 0, 8), (20, 0, 32)]⟩,
  ⟨0x184, false, false, .refused, false, [(16, 0, 8), (17, 0, 1), (20, 0, 64), (32, 0, 64)]⟩,
  ⟨0x185, true, false, .refused, false, [(16, 0, 8), (17, 0, 2), (20, 0, 64)]⟩,
  ⟨0x188, false, false, .refused, true, [(16, 0, 64)]⟩,
  ⟨0x189, false, false, .refused, false, [(16, 0, 8), (20, 0, 32)]⟩,
  ⟨0x18A, false, false, .refused, false, [(16, 0, 8), (18, 0, 72), (32, 0, 256)]⟩,
  ⟨0x18B, false, false, .runs, false, [(16, 0, 1), (32, 0, 256)]⟩,
  ⟨0x18C, false, false, .refused, false, [(16, 0, 96)]⟩]

/-- Placement, memory and integrity commands (R307, R403, R429, R473). -/
def catalogueMemory : List CmdSpec := [
  ⟨0x1C0, false, false, .refused, false, [(16, 0, 32)]⟩,
  ⟨0x1C1, false, false, .runs, false, []⟩,
  ⟨0x1C2, false, false, .runs, false, [(16, 0, 64)]⟩,
  ⟨0x1C4, true, false, .runs, false, [(16, 0, 56), (23, 0, 1), (24, 0, 32)]⟩,
  ⟨0x1C5, true, false, .runs, false, [(16, 0, 24), (19, 0, 2)]⟩,
  ⟨0x1C8, false, false, .runs, false, []⟩,
  ⟨0x1C9, true, false, .runs, false, [(16, 0, 16), (18, 0, 3), (20, 0, 32)]⟩,
  ⟨0x1CA, true, false, .runs, false, [(16, 0, 24), (20, 0, 32)]⟩,
  ⟨0x1D0, false, false, .runs, false, []⟩,
  ⟨0x1D1, true, false, .runs, false, [(16, 0, 16), (18, 0, 1)]⟩,
  ⟨0x1D2, true, false, .runs, false, [(16, 0, 8), (18, 0, 48)]⟩,
  ⟨0x1D3, true, false, .runs, false, [(16, 0, 1), (17, 0, 16)]⟩,
  ⟨0x1D8, true, false, .runs, false, [(16, 0, 8), (17, 0, 1), (20, 0, 16)]⟩]

/-- Regulation commands (R448). -/
def catalogueRegulator : List CmdSpec := [
  ⟨0x200, false, false, .runs, true, [(16, 0, 64)]⟩,
  ⟨0x201, false, false, .runs, false, [(16, 0, 8)]⟩,
  ⟨0x202, false, false, .runs, false, []⟩,
  ⟨0x208, true, false, .runs, false, [(16, 0, 16)]⟩,
  ⟨0x209, true, false, .runs, false, [(16, 0, 8)]⟩]

/-- Thermal commands (R496). -/
def catalogueThermal : List CmdSpec := [
  ⟨0x240, false, true, .runs, false, [(16, 0, 8)]⟩,
  ⟨0x241, false, true, .runs, false, []⟩,
  ⟨0x242, false, true, .runs, false, [(16, 0, 8), (18, 0, 16)]⟩,
  ⟨0x243, true, true, .runs, false, [(16, 0, 32)]⟩,
  ⟨0x244, false, true, .runs, false, [(16, 0, 1)]⟩]

/-- Test and calibration commands (R498). -/
def catalogueTest : List CmdSpec := [
  ⟨0x280, true, false, .refused, false, [(16, 0, 8), (20, 0, 64)]⟩,
  ⟨0x281, false, false, .runs, false, [(16, 0, 64)]⟩,
  ⟨0x282, true, false, .runs, false, [(16, 0, 64)]⟩,
  ⟨0x284, false, false, .runs, false, [(16, 0, 64)]⟩,
  ⟨0x285, false, true, .refused, true, [(16, 0, 64)]⟩,
  ⟨0x286, true, false, .runs, false, [(16, 0, 1), (18, 0, 16)]⟩]

/-- Firmware, security and fuse commands (R499, R500). -/
def catalogueTrust : List CmdSpec := [
  ⟨0x2C0, false, true, .refused, true, [(16, 0, 64)]⟩,
  ⟨0x2C1, false, true, .refused, true, [(16, 0, 64)]⟩,
  ⟨0x2C2, false, true, .runs, false, []⟩,
  ⟨0x2C3, true, true, .runs, false, [(16, 0, 16)]⟩,
  ⟨0x2C4, false, true, .runs, false, [(16, 0, 352)]⟩,
  ⟨0x2C5, false, true, .runs, false, [(16, 0, 96)]⟩,
  ⟨0x2C8, false, true, .runs, false, [(16, 0, 8), (20, 0, 96)]⟩,
  ⟨0x2C9, true, true, .runs, true, [(16, 0, 64)]⟩,
  ⟨0x2CA, true, true, .runs, false, [(16, 0, 8), (17, 0, 2)]⟩,
  ⟨0x2CB, false, true, .runs, false, []⟩,
  ⟨0x2CC, true, true, .runs, false, [(16, 0, 8)]⟩]

/-- Event, bulk-mover and link commands (R501, R183). -/
def catalogueEvent : List CmdSpec := [
  ⟨0x300, false, false, .runs, false, [(16, 0, 8), (18, 0, 16)]⟩,
  ⟨0x301, false, false, .runs, false, [(16, 0, 24), (19, 0, 1)]⟩,
  ⟨0x302, false, false, .runs, false, [(16, 0, 8)]⟩,
  ⟨0x303, false, false, .runs, false, [(16, 0, 8)]⟩,
  ⟨0x308, false, false, .runs, false, [(16, 0, 32)]⟩,
  ⟨0x309, true, false, .runs, false, [(16, 0, 8), (17, 0, 1)]⟩,
  ⟨0x340, false, false, .refused, false, [(16, 0, 16), (18, 0, 1)]⟩,
  ⟨0x341, false, false, .runs, false, [(16, 0, 16), (18, 0, 2), (20, 0, 64)]⟩,
  ⟨0x342, true, false, .runs, false, [(16, 0, 16), (18, 0, 1)]⟩,
  ⟨0x343, true, false, .runs, false, [(16, 0, 16), (18, 0, 4), (19, 0, 8), (20, 0, 1)]⟩]

/-- The whole catalogue of R489. -/
def catalogue : List CmdSpec :=
  catalogueDevice ++ catalogueQueue ++ catalogueTable ++ catalogueMemory ++ catalogueRegulator ++ catalogueThermal ++
    catalogueTest ++ catalogueTrust ++ catalogueEvent

/-- The catalogue row of an opcode. -/
def specFor (op : Nat) : Option CmdSpec := catalogue.find? (fun c => c.opcode == op)

/-! ### The checks of R464 -/

/-- Parameter bits that the opcode does not use are reserved and must be 0 (R23). With INDIRECT = 1, only the
buffer address is a parameter (R463). -/
def CmdSpec.reservedClear (c : CmdSpec) (e : Sqe) : Bool :=
  c.used.foldl (fun q u => q - q / 2 ^ (8 * (u.1 - 16) + u.2.1) % 2 ^ u.2.2 * 2 ^ (8 * (u.1 - 16) + u.2.1)) e.params == 0

/-- Check 2 of R464: reserved bits 0 and CLASS at most 14. EVENT is reserved unless WAIT = 1; INDIRECT is reserved
for an opcode that takes no buffer. -/
def CmdSpec.formOk (c : CmdSpec) (e : Sqe) : Bool :=
  decide (e.flags < 16) && decide (e.cls ≤ 14) && (e.wait || e.event == 0) && (c.buffer || !e.indirect) &&
    c.reservedClear e

/-- Check 6 of R464: the executor runs (R49, R479). Anvil executes its commands whether or not a service firmware
runs. -/
def State.executorRuns (s : State) (c : CmdSpec) : Bool := c.anvil || s.fwRuns

/-- Checks 1 to 6 of R464 for an opcode of the catalogue, in order; `none` where all pass. -/
def CmdSpec.refusal (c : CmdSpec) (s : State) (e : Sqe) : Option Nat :=
  if !c.formOk e then some stBadParam
  else if c.expert && !(s.ringExpert e.ring && e.expert) then some stExpertRequired
  else if !e.lengthOk then some stBadLength
  else if !e.addressOk then some stBadParam
  else if !s.executorRuns c then some stNotPermitted
  else none

/-- The commands that THROTTLE2 and above refuse (R490). -/
def thermalHoldOps : List Nat := [0x280, 0x2C9, 0x2CA, 0x2CC, 0x2C3]

/-- R491: the command is one that a quench refuses. -/
def CmdSpec.quenchRefuses (c : CmdSpec) (e : Sqe) : Bool :=
  match c.quench with
  | .runs => false
  | .refused => true
  | .ifFlush => e.bit 24 0
  | .ifPreserve => e.bit 16 0

/-- The clock domain of the block that a command addresses (R124). -/
def commandClock (op : Nat) : Nat :=
  if 0x140 ≤ op ∧ op < 0x180 then 59 else if 0x180 ≤ op ∧ op < 0x1C0 then 21 else if 0x1C0 ≤ op ∧ op < 0x1C8 then 55
  else if 0x1C8 ≤ op ∧ op < 0x1D0 then 21 else if 0x1D0 ≤ op ∧ op < 0x1D8 then 56 else if 0x1D8 ≤ op ∧ op < 0x200 then 21
  else if 0x200 ≤ op ∧ op < 0x240 then 54 else if 0x240 ≤ op ∧ op < 0x280 then 58 else if 0x280 ≤ op ∧ op < 0x2C0 then 57
  else if 0x300 ≤ op ∧ op < 0x308 then 21 else if 0x308 ≤ op ∧ op < 0x340 then 52 else if 0x340 ≤ op ∧ op < 0x380 then 20 else 31

/-- The first part of check 7 of R464, before the opcode's own checks: R491, then R645 for queue commands while
every queue-manager slice is culled, then R490. A command that addresses a block held in local reset gets INTERNAL_FAULT (R131, R137). -/
def CmdSpec.gate (c : CmdSpec) (s : State) (e : Sqe) : Option Nat :=
  if s.quenched && c.quenchRefuses e then some stQuenched
  else if s.qmGone && decide (0x140 ≤ c.opcode ∧ c.opcode ≤ 0x151) then some stResourceCulled
  else if decide (3 ≤ s.f thStatusLevel) && thermalHoldOps.contains c.opcode then some stThermalHold
  else if s.heldInReset (commandClock c.opcode) || (!c.anvil && s.heldInReset 30) then some stInternalFault
  else none

/-- The command has been started and has passed its gate before (R492: a quench then pauses it). -/
def State.started (s : State) (e : Sqe) : Bool :=
  (s.ring e.ring).live.any (fun l => l.tag == e.tag && l.opcode == e.opcode)

/-- Every check of a ring command before its own: the status that refuses it, or `none`. A command already started
by RING_ENTRY_START has met them. -/
def CmdSpec.check (c : CmdSpec) (s : State) (e : Sqe) : Option Nat :=
  if s.started e then none
  else
    match c.refusal s e with
    | some st => some st
    | none => c.gate s e

/-- Complete an entry with a status and result bytes 0 to 23. -/
def State.done (s : State) (e : Sqe) (status result : Nat) : State := s.complete e.ring e.tag status result

/-- Run one ring command. In safe hold and in the banked state nothing runs (R482). A started command that a quench
refuses is paused (R492). A refused command completes with its status and has no effect. -/
def runCommand (op : Nat) (e : Sqe) (s : State) (body : State → State) : Host.Outcome State Fault Refusal :=
  match specFor op with
  | none => .next (s.done e stBadOpcode 0)
  | some c =>
    if s.halted then .next s
    else if s.started e && s.quenched && c.quenchRefuses e then .next s
    else
      match c.check s e with
      | some st => .next (s.done e st 0)
      | none => .next (body s)

/-- A 64-bit effective tick or count as result bytes 0 to 7. -/
def resTick (t : Tick) : Nat := t % 2 ^ 64

end Sys2Proof.Machine
end

