-- ==== Sys2Proof/Machine/Rs.lean ====
section
/-!
DEFINITION. The Reed–Solomon code of R189 over GF(2¹⁰), the order of its symbols on the lanes (R190), and the PAM4 levels of R156.
-/
namespace Sys2Proof.Machine

/-! ### GF(2¹⁰), built on x¹⁰ + x³ + 1 (R189) -/

/-- Multiplication by α. -/
def gfTimes2 (a : Nat) : Nat := if 512 ≤ a then (a * 2) ^^^ 0x409 else a * 2

/-- The product, over the bits of `b` below bit `n`. -/
def gfMulBits : Nat → Nat → Nat → Nat
  | 0, _, _ => 0
  | n + 1, a, b => (if b % 2 = 1 then a else 0) ^^^ gfMulBits n (gfTimes2 a) (b / 2)

/-- The product of two elements. -/
def gfMul (a b : Nat) : Nat := gfMulBits 10 a b

/-- A power of an element, by `n` squarings. -/
def gfPowBits : Nat → Nat → Nat → Nat
  | 0, _, _ => 1
  | n + 1, a, e => if e % 2 = 1 then gfMul a (gfPowBits n (gfMul a a) (e / 2)) else gfPowBits n (gfMul a a) (e / 2)

/-- A power with an exponent below 1 024. -/
def gfPow (a e : Nat) : Nat := gfPowBits 10 a e

/-- α to an exponent. -/
def gfAlpha (e : Nat) : Nat := gfPow 2 (e % 1023)

/-- The inverse of an element other than 0. -/
def gfInv (a : Nat) : Nat := gfPow a 1022

/-- The value of a polynomial, lowest coefficient first. -/
def gfEval (p : List Nat) (x : Nat) : Nat := p.foldr (fun c acc => c ^^^ gfMul acc x) 0

/-! ### Encoding (R189) -/

/-- The generator polynomial but its leading coefficient 1, lowest coefficient first: the product of (x − αʲ) for j from 0 to 15. -/
def rsGenerator : List Nat := [888, 960, 746, 461, 595, 218, 617, 204, 27, 744, 1005, 650, 724, 748, 550, 568]

/-- 2ᵏ times the generator for k from 0 to 9, 10 bits a coefficient, lowest first. -/
def rsRows : List Nat :=
  [0x8e226bb2d4a2bedba01b3326936a53736eaf0378, 0x1e445745a1477d376436660db6d0afe69dde26f9, 0x3c88ae8b428ebafec86ccc1b6da15ecf7bac6dfb,
   0x79114d368d1f757db4d89a76cb66bc9cf7d8fff6, 0xf2228a4d133eaa7b4db036ed16ed713bef31dfe5, 0xe64594be267d1476bf606d9abddae2779ef3bbc3,
   0xcecb297845fa28ed7ac9db356b95cdef3de7738f, 0x9fd642d48af6515ad59bb46a570f9adc7b5ee317, 0x3dec85a914eee2a58f366ad43e1b3dbaf63de627,
   0x7b999b5228dfc5db1a65d5a86c167377ecfbec47]

/-- An element times the generator. -/
def rsRow (f : Nat) : List Nat → Nat
  | [] => 0
  | g :: r => (if f % 2 = 1 then g else 0) ^^^ rsRow (f / 2) r

/-- One data symbol enters the remainder, 10 bits a coefficient, lowest first. -/
def rsShift (reg d : Nat) : Nat := reg % 2 ^ 150 * 1024 ^^^ rsRow (reg / 2 ^ 150 ^^^ d) rsRows

/-- The remainder of the data symbols times x¹⁶. DEDUCED (log entry 46): the first symbol of a codeword is the coefficient of x²⁷¹. -/
def rsRemainder (data : List Nat) : Nat := data.foldl rsShift 0

/-- Symbol `i` of a packed list, 10 bits each. -/
def symbolAt (v i : Nat) : Nat := v / 1024 ^ i % 1024

/-- The parity symbols of 256 data symbols, in the order in which they follow them. -/
def rsParity (data : List Nat) : List Nat :=
  let r := rsRemainder data
  (List.range 16).map (fun i => symbolAt r (15 - i))

/-- Data symbol k of a codeword holds bits 10k to 10k + 9 of its 320 data bytes (R190). -/
def dataSymbols (b : List Byte) : List Nat :=
  let v := bufNat b 0 320
  (List.range 256).map (symbolAt v)

/-- The 320 data bytes of 256 data symbols. -/
def symbolBytes (d : List Nat) : List Byte := leBytes 320 (d.foldr (fun x acc => x % 1024 + 1024 * acc) 0)

/-- The 272 symbols of a codeword. -/
def rsEncode (b : List Byte) : List Nat :=
  let d := dataSymbols b
  d ++ rsParity d

/-! ### Decoding (R189) -/

/-- What the 16 parity symbols of a received word differ by from those of its data, lowest coefficient first: all 0 for a codeword. -/
def rsDifference (w : List Nat) : List Nat :=
  let r := rsRemainder (w.take 256)
  (List.range 16).map (fun i => symbolAt r i ^^^ w.getD (271 - i) 0)

/-- A codeword of the code: 272 symbols with no difference. -/
def rsValid (w : List Nat) : Bool := w.length == 272 && (rsDifference w).all (fun x => x == 0)

/-- One step of Berlekamp and Massey: the locator, the last locator before a change of length, its discrepancy, its age, and the
length. -/
structure Bm where
  cur : List Nat
  prev : List Nat
  disc : Nat
  gap : Nat
  len : Nat
  deriving DecidableEq, Repr

/-- Sum of two polynomials. -/
def polyAdd : List Nat → List Nat → List Nat
  | [], b => b
  | a, [] => a
  | x :: a, y :: b => (x ^^^ y) :: polyAdd a b

/-- The next step, for syndrome `n`. -/
def bmStep (syn : List Nat) (m : Bm) (n : Nat) : Bm :=
  let d := (m.cur.zipIdx).foldl (fun acc c => if c.2 ≤ n then acc ^^^ gfMul c.1 (syn.getD (n - c.2) 0) else acc) 0
  if d = 0 then { m with gap := m.gap + 1 }
  else
    let k := gfMul d (gfInv m.disc)
    let next := polyAdd m.cur (List.replicate m.gap 0 ++ m.prev.map (gfMul k))
    if 2 * m.len ≤ n then ⟨next, m.cur, d, 1, n + 1 - m.len⟩ else { m with cur := next, gap := m.gap + 1 }

/-- The error locator of the syndromes, and its degree. -/
def errorLocator (syn : List Nat) : List Nat × Nat :=
  let m := (List.range 16).foldl (bmStep syn) ⟨[1], [1], 1, 1, 0⟩
  (m.cur, m.len)

/-- The error at the place with locator `x` (Forney). -/
def errorValue (syn loc : List Nat) (x : Nat) : Nat :=
  let y := gfInv x
  let omega := (List.range 16).map (fun n =>
    (loc.zipIdx).foldl (fun acc c => if c.2 ≤ n then acc ^^^ gfMul c.1 (syn.getD (n - c.2) 0) else acc) 0)
  let slope := (loc.zipIdx).foldl (fun acc c => if c.2 % 2 = 1 then acc ^^^ gfMul c.1 (gfPow y (c.2 - 1)) else acc) 0
  gfMul x (gfMul (gfEval omega y) (gfInv slope))

/-- The symbols corrected and their places. A received word within 8 symbols of a codeword is corrected to it; any other is
uncorrectable. -/
def rsDecode (w : List Nat) : Option (List Nat × List Nat) :=
  if w.length ≠ 272 then none
  else
    let diff := rsDifference w
    if diff.all (fun x => x == 0) then some (w, [])
    else
      let syn := (List.range 16).map (fun j => gfEval diff (gfAlpha j))
      let q := errorLocator syn
      if 8 < q.2 then none
      else
        let places := (List.range 272).filter (fun i => gfEval q.1 (gfInv (gfAlpha (271 - i))) == 0)
        let fixed := places.foldl (fun l i => l.set i (l.getD i 0 ^^^ errorValue syn q.1 (gfAlpha (271 - i)))) w
        if places.length = q.2 ∧ rsValid fixed = true then some (fixed, places) else none

/-! ### Lanes (R156, R190) -/

/-- The level of a bit pair, the first bit the more significant (R156). -/
def pam4 (first second : Bool) : Int :=
  match first, second with
  | false, false => -3
  | false, true => -1
  | true, true => 1
  | true, false => 3

/-- The five PAM4 symbols of a 10-bit symbol, sent least significant bit first (R190). -/
def symbolLevels (x : Nat) : List Int := (List.range 5).map (fun i => pam4 (bitOf x (2 * i)) (bitOf x (2 * i + 1)))

/-- What each of `w` logical lanes sends of a codeword: symbol i travels on lane i mod w (R190). -/
def laneLevels (symbols : List Nat) (w l : Nat) : List Int :=
  (symbols.zipIdx.filter (fun x => x.2 % w == l)).flatMap (fun x => symbolLevels x.1)

end Sys2Proof.Machine
end

