-- ==== Sys2Proof/Machine/Ports.lean ====
section
/-!
DEFINITION. What the commands of a Ralsal port share: lane sets, starting and stopping attempts, sending an item, and
reaching ACTIVE (R156 to R230).
-/
namespace Sys2Proof.Machine

/-! ### Ports and lanes -/

/-- A port that nothing has used since the last full reset. -/
def portCold (_ : Nat) : Port :=
  { byCommand := false, wasActive := false, keep := false, keepDown := false, short := false, fast := false, shorts := [], prevWidth := 3,
    notice := none, partnerSet := 0xFF, trainSet := 0, excluded := 0, portId := 0, framings := 0, lastFraming := 0, initSeen := false,
    resuming := false, eqNext := [], pwrReq := none, pwrAgreed := none, bankedTick := 0, bankedTemp := 0, ackSeq := 0, dropping := false,
    resume := 0, rxBuf := [], rxNext := 0, rxSeq := 0, rxOff := 0, rxTicks := [], badItem := false, failedAt := none, longCounted := false, nakDue := false,
    ingress := [], nextId := 0, firstId := 0, ret0 := 0, ret1 := 0, ret2 := 0, ret3 := 0, txLine := 0, acked := 0, seen2 := 0, seen3 := 0,
    txBuf := [], kept := [], keptCw := [], replays := 0, egress := [], marks := [], awaiting := [], assembly := [], rooms := [] }

/-- The presets of R158: c(−2), c(−1), c(0), c(+1), c(+2). -/
def presetTaps : Nat → Int × Int × Int × Int × Int
  | 0 => (0, 0, 64, 0, 0)
  | 1 => (0, 0, 56, -8, 0)
  | 2 => (0, -4, 52, -8, 0)
  | 3 => (0, -6, 48, -10, 0)
  | 4 => (2, -8, 46, -8, 0)
  | 5 => (2, -10, 42, -10, 0)
  | 6 => (3, -12, 38, -10, -1)
  | _ => (4, -14, 34, -12, 0)

/-- The lane with the taps of a preset. -/
def Lane.atPreset (x : Lane) (preset : Nat) : Lane :=
  let q := presetTaps preset
  { x with cm2 := q.1, cm1 := q.2.1, c0 := q.2.2.1, cp1 := q.2.2.2.1, cp2 := q.2.2.2.2 }

/-- A lane with the taps of a preset and nothing received. -/
def freshLane (preset : Nat) (own : Option LaneEq) (ser : Nat) : Lane :=
  { cm2 := (presetTaps preset).1, cm1 := (presetTaps preset).2.1, c0 := (presetTaps preset).2.2.1,
    cp1 := (presetTaps preset).2.2.2.1, cp2 := (presetTaps preset).2.2.2.2, answered := false, resp := 0, toggle := false,
    seen := none, echoOk := false, rxReady := false, inverted := false, own := own, ctle := 0, dfe := List.replicate 12 0,
    asking := none, peerToggle := false, peerResp := 0, meets := false, ser := ser }

/-- A lane after a full reset: preset P3 (R158). -/
def laneCold (_ : Nat) : Lane := freshLane 3 none 0

def State.port (s : State) (p : Nat) : Port := Map.get portCold s.ports p
def State.setPort (s : State) (p : Nat) (x : Port) : State := { s with ports := Map.set portCold s.ports p x }

/-- Lane `l` of port `p`. -/
def State.lane (s : State) (p l : Nat) : Lane := Map.get laneCold s.lanes (8 * p + l)
def State.setLane (s : State) (p l : Nat) (x : Lane) : State := { s with lanes := Map.set laneCold s.lanes (8 * p + l) x }

/-- RL_LINK_STATUS.STATE (R184). -/
def State.linkState (s : State) (p : Nat) : Nat := s.f (rlLinkStatusState p)
def State.portActive (s : State) (p : Nat) : Bool := s.linkState p == 9
def State.portHot (s : State) (p : Nat) : Bool := s.portActive p && s.f (rlLinkStatusPwr p) == 0
def State.portWarm (s : State) (p : Nat) : Bool := s.portActive p && s.f (rlLinkStatusPwr p) == 1
def State.portBanked (s : State) (p : Nat) : Bool := s.portActive p && s.f (rlLinkStatusPwr p) == 2
def State.portCulled (s : State) (p : Nat) : Bool := bitOf (s.f tcCulletPort) p

/-! ### Lane sets (R162, R167) -/

/-- Lanes with LOS and LOL clear. -/
def State.goodLanes (s : State) (p : Nat) : Nat :=
  maskOf 8 (fun l => !bitOf (s.f (rlLaneStatusLos p)) l && !bitOf (s.f (rlLaneStatusLol p)) l)

/-- Lanes that show signal. -/
def State.signalLanes (s : State) (p : Nat) : Nat := maskOf 8 (fun l => !bitOf (s.f (rlLaneStatusLos p)) l)

/-- Lanes that no retrain or attempt has left out since the last cold retrain (R175). -/
def State.allowedLanes (s : State) (p : Nat) : Nat := 0xFF - (s.port p).excluded % 256

/-- Physical lane n is logical lane 7 − n on a reversed port. -/
def mirror8 (m : Nat) : Nat := maskOf 8 (fun l => bitOf m (7 - l))

/-- The legal sets in logical lane numbers with their WIDTH code, widest first and lowest lane first within a width. -/
def legalSets : List (Nat × Nat) :=
  [(0xFF, 0), (0x0F, 1), (0xF0, 1), (0x03, 2), (0x0C, 2), (0x30, 2), (0xC0, 2)]

/-- The set the port uses: the first legal one within the lanes given, as physical lanes, with its WIDTH code. -/
def chooseSet (reversed : Bool) (avail : Nat) : Option (Nat × Nat) :=
  (legalSets.map (fun x => (if reversed then mirror8 x.1 else x.1, x.2))).find? (fun x => x.1 &&& avail == x.1)

/-- The port takes a set into use (R184, R185): LANES, WIDTH, EXCLUDED, and the clock source of R171. -/
def State.useSet (s : State) (p : Nat) (x : Nat × Nat) : State :=
  (s.setPort p { s.port p with excluded := 0xFF - x.1 }).setFs [(rlLinkStatusLanes p, x.1), (rlLinkStatusWidth p, x.2),
    (rlLaneStatusExcluded p, 0xFF - x.1), (rlLinkStatusClkLane p, lowestSet 8 x.1), (rlLinkStatusClkLocal p, 0)]

/-- The physical lanes of the set in use, in the order of their logical numbers (R167). -/
def State.logicalLanes (s : State) (p : Nat) : List Nat :=
  let ls := (List.range 8).filter (fun l => bitOf (s.f (rlLinkStatusLanes p)) l)
  if s.on (rlLinkStatusReversed p) then ls.reverse else ls

/-- An event of R182. -/
def State.linkChanged (s : State) (p : Nat) : State := (s.setF (rlLinkStatusChanged p) 1).vector 3

/-! ### Sending (R190 to R194, R200, R201, R205, R209, R211, R215) -/

/-- The bytes of a reply: header and payload, with the CRC of R200, sent inverted for a spoiled one (R410). -/
def Reply.stream (r : Reply) : List Byte :=
  let head := leBytes 1 r.opcode ++ leBytes 1 r.cls ++ leBytes 1 r.status ++ leBytes 1 r.arg ++ leBytes 4 r.tag ++
    leBytes 4 (r.payload.length % 2 ^ 15 + 2 ^ 15 * r.object)
  let crc := crc32 (head ++ r.payload)
  head ++ leBytes 4 (if r.spoiled then crc ^^^ 0xFFFFFFFF else crc) ++ r.payload

/-- The bytes of an item of the stream (R193, R201, R209, R215). -/
def LinkItem.stream : LinkItem → List Byte
  | .reply r => r.stream
  | .update nak ack c0 c1 c2 c3 =>
    let b := leBytes 1 0xF1 ++ leBytes 1 (b2n nak) ++ leBytes 3 ack ++ leBytes 1 0 ++
      leBytes 6 (c0 % 2 ^ 12 + 2 ^ 12 * (c1 % 2 ^ 12) + 2 ^ 24 * (c2 % 2 ^ 12) + 2 ^ 36 * (c3 % 2 ^ 12)) ++ leBytes 2 0
    b ++ leBytes 2 (crc16 b)
  | .control sub arg body =>
    let b := leBytes 1 0xF4 ++ leBytes 1 sub ++ leBytes 1 arg ++ leBytes 1 0 ++ (body ++ List.replicate 56 0).take 56
    b ++ leBytes 4 (crc32 b)
  | .null n => List.replicate n 0

/-- Bytes of an item of the stream (R193). -/
def LinkItem.length : LinkItem → Nat
  | .reply r => 16 + r.payload.length
  | .update .. => 16
  | .control .. => 64
  | .null n => n

/-- Credits an item uses (R205). -/
def creditsOf (bytes : Nat) : Nat := (bytes + 15) / 16

/-- A codeword on the lanes of the port (R189, R190). -/
def State.emitCodeword (s : State) (p : Nat) (data : List Byte) : State :=
  let ls := s.logicalLanes p
  let w := rsEncode data
  s.emit (.codeword p ((ls.zipIdx).map (fun x => (x.1, laneLevels w ls.length x.2))))

/-- The data of a framing codeword (R191). -/
def framingData (line seq lanes : Nat) : List Byte :=
  let b := (List.replicate 8 [(0x4B : Byte), 0xB4]).flatten ++ leBytes 4 (line / 1024) ++ leBytes 3 seq ++ leBytes 1 lanes
  b ++ leBytes 4 (crc32 b) ++ List.replicate 292 0

/-- The data of a resync codeword naming a SEQ (R192). -/
def resyncData (seq : Nat) : List Byte :=
  let b := leBytes 3 seq ++ leBytes 1 0
  (List.replicate 16 [(0xC3 : Byte), 0x3C]).flatten ++ b ++ leBytes 4 (crc32 b) ++ List.replicate 280 0

/-- The next codeword of the running line count; a framing codeword takes every place that is a multiple of 1 024, and names the SEQ
of the next data codeword, `seq` (R191). -/
def State.sendLine (s : State) (p seq : Nat) (data : List Byte) : State :=
  let x := s.port p
  let framing := x.txLine % 1024 == 0
  let a := if framing then s.emitCodeword p (framingData x.txLine seq (s.f (rlLinkStatusLanes p))) else s
  (a.emitCodeword p data).setPort p { x with txLine := if framing then x.txLine + 2 else x.txLine + 1 }

/-- The stream stands still and the line count goes on: the framing codeword of its next multiple of 1 024 (R191, R211). -/
def State.sendFraming (s : State) (p : Nat) : State :=
  let x := s.port p
  let n := (x.txLine + 1023) / 1024 * 1024
  (s.emitCodeword p (framingData n (s.f (rlSeqTxNext p)) (s.f (rlLinkStatusLanes p)))).setPort p { x with txLine := n + 1 }

/-- A data codeword: it has the next SEQ, and is kept until it is acknowledged (R192, R211). -/
def State.sendData (s : State) (p : Nat) (data : List Byte) : State :=
  let seq := s.f (rlSeqTxNext p)
  let a := s.sendLine p seq data
  (a.setPort p { a.port p with keptCw := (a.port p).keptCw ++ [(seq, data)] }).setF (rlSeqTxNext p) ((seq + 1) % 2 ^ 24)

/-- The bytes fill codewords of 320; the rest waits in the codeword being filled. -/
def State.fillCodewords (p : Nat) : Nat → List Byte → State → State
  | 0, b, s => s.setPort p { s.port p with txBuf := b }
  | n + 1, b, s =>
    if b.length < 320 then s.setPort p { s.port p with txBuf := b }
    else State.fillCodewords p n (b.drop 320) (s.sendData p (b.take 320))

/-- Codewords the replay buffer holds, the one being filled included (R211). -/
def State.heldCodewords (s : State) (p : Nat) : Nat :=
  (s.f (rlSeqTxNext p) + 2 ^ 24 - (s.port p).acked) % 2 ^ 24 + (if (s.port p).txBuf.isEmpty then 0 else 1)

/-- The replay buffer has room for `n` bytes more, on a flit boundary: it holds 204 codewords. -/
def State.replayRoom (s : State) (p n : Nat) : Bool :=
  decide ((s.f (rlSeqTxNext p) + 2 ^ 24 - (s.port p).acked) % 2 ^ 24 + ((s.port p).txBuf.length + n + 63 + 319) / 320 ≤ 204)

/-- Leave WARM by sending again, on the recovered clock and at the running codeword count (R171, R179). -/
def State.leaveWarm (s : State) (p : Nat) : State :=
  if s.portWarm p then
    (s.setFs [(rlLinkStatusPwr p, 0), (rlLinkStatusClkLocal p, 0), (plClkActive, setBit (s.f plClkActive) (4 + p))]).emit (.lanesResume p)
  else s

/-- Send an item: the S64 leaves WARM for it, and a control flit starts on a flit boundary, after NULL bytes (R179, R194). -/
def State.sendItem (s : State) (p : Nat) (i : LinkItem) : State :=
  let a := s.leaveWarm p
  let x := a.port p
  let pad := match i with
    | .control .. => (64 - x.txBuf.length % 64) % 64
    | _ => 0
  let bytes := x.txBuf ++ List.replicate pad 0 ++ i.stream
  let last := (a.f (rlSeqTxNext p) + (bytes.length - 1) / 320) % 2 ^ 24
  let c := State.fillCodewords p (bytes.length / 320 + 1) bytes (a.emit (.item p i))
  c.setPort p { c.port p with kept := (c.port p).kept ++ [(last, i)] }

/-- An idle transmitter fills the codeword with NULL bytes (R193). -/
def State.flushTx (s : State) (p : Nat) : State :=
  let b := (s.port p).txBuf
  if b.isEmpty then s
  else
    let t := (s.emit (.item p (.null (320 - b.length)))).sendData p (b ++ List.replicate (320 - b.length) 0)
    t.setPort p { t.port p with txBuf := [] }

/-- The link update a port sends now (R209, R210). -/
def State.updateItem (s : State) (p : Nat) (nak : Bool) : LinkItem :=
  let x := s.port p
  .update nak x.ackSeq x.ret0 x.ret1 x.ret2 x.ret3

/-- Send a link update: RL_SEQ_RX then shows the ACK_SEQ in it (R233). -/
def State.sendUpdate (s : State) (p : Nat) (nak : Bool) : State :=
  (s.sendItem p (s.updateItem p nak)).setF (rlSeqRxAckSeq p) (s.port p).ackSeq

/-- A control flit other than INIT can be sent: the lanes run or are in WARM, the S64 holds its 4 VC3 credits (R205), and the replay
buffer has room (R211). -/
def State.canControl (s : State) (p : Nat) : Bool :=
  (s.portHot p || s.portWarm p) && decide (4 ≤ s.f (rlTxCreditVc3 p)) && s.replayRoom p 64

/-- Send a control flit, and fill its codeword. -/
def State.sendControl (s : State) (p sub arg : Nat) : State :=
  if s.canControl p then
    ((s.setF (rlTxCreditVc3 p) (s.f (rlTxCreditVc3 p) - 4)).sendItem p (.control sub arg [])).flushTx p
  else s

/-- DOWN_NOTICE (R218, R219): the transmitters then wait for its acknowledgement. DESIGN CHOICE (log entry 47): a port that cannot send it,
because it is BANKED, holds fewer than 4 VC3 credits or has no replay room, goes idle at once without one. -/
def State.sendNotice (s : State) (p reason : Nat) : State :=
  if s.canControl p then
    let t := s.sendControl p 5 reason
    let last := ((t.port p).kept.getLast?).map (·.1)
    t.setPort p { t.port p with notice := last }
  else s.emit (.lanesIdle p)

/-- The wait for the notice ends, acknowledged or after 2 µs: the transmitters go to electrical idle (R218), or send training
frames where an attempt has started. -/
def State.endNotice (s : State) (p : Nat) : State :=
  match (s.port p).notice with
  | none => s
  | some _ =>
    let t := (s.setPort p { s.port p with notice := none }).emit (.lanesIdle p)
    if t.linkState p = 1 then t.emit (.lanesTrain p) else t

/-- The receiver goes back to ACK_SEQ, from which a replay resends (R212, R213, R228): bytes that a NAK has acknowledged stay,
the others are dropped, and where the item itself begins in that codeword the resume point is its first byte. -/
def State.dropPartial (s : State) (p : Nat) : State :=
  let x := s.port p
  let d := (x.ackSeq + 2 ^ 24 - x.rxSeq) % 2 ^ 24
  let n := 320 * d - x.rxOff
  if x.rxBuf.isEmpty then s.setPort p { x with rxNext := x.ackSeq, badItem := false }
  else if d = 0 ∨ 2 ^ 23 ≤ d then
    s.setPort p { x with rxBuf := [], rxTicks := [], badItem := false, rxNext := x.ackSeq, resume := x.rxOff }
  else s.setPort p { x with rxBuf := x.rxBuf.take n, rxTicks := x.rxTicks.filter (fun t => decide (t.1 < n)), badItem := false,
                            rxNext := x.ackSeq, resume := 0 }

/-! ### Starting an attempt (R158, R165, R168, R183, R188) -/

/-- The equaliser setting in the port's registers (R188). -/
def State.portEq (s : State) (p : Nat) : LaneEq :=
  ⟨s.f (rlEqCtrlTxPreset p), s.on (rlEqCtrlPresetForce p), s.on (rlEqCtrlCtleFixed p), s.f (rlEqCtrlCtleValue p), s.on (rlEqCtrlDfeFreeze p)⟩

/-- The setting of a lane: its own, or the port's. DESIGN CHOICE (log entry 47): a lane that an earlier LINK_EQ_SET with a partial lane mask
has left with a setting of its own keeps it, and a host write of RL_EQ_CTRL does not reach that lane. -/
def State.laneEq (s : State) (p l : Nat) : LaneEq := (s.lane p l).own.getD (s.portEq p)

/-- One setting of LINK_EQ_SET is applied (R183): the registers take it, and lanes outside its mask keep the setting they had. -/
def State.applyOne (s : State) (p : Nat) (q : EqSetting) : State :=
  let lanes := (List.range 8).foldl (fun t l =>
    t.setLane p l { t.lane p l with own := if bitOf q.lanes l then none else some (s.laneEq p l) }) s
  lanes.setFs [(rlEqCtrlTxPreset p, q.preset), (rlEqCtrlPresetForce p, b2n q.force), (rlEqCtrlDfeFreeze p, b2n q.freeze),
    (rlEqCtrlCtleFixed p, b2n (q.ctle != 0xFF)), (rlEqCtrlCtleValue p, if q.ctle = 0xFF then s.f (rlEqCtrlCtleValue p) else q.ctle)]

/-- The settings that wait are applied, oldest first, at the next training or short retrain (R183). -/
def State.applyEq (s : State) (p : Nat) : State :=
  let t := (s.port p).eqNext.foldl (fun t q => t.applyOne p q) s
  t.setPort p { t.port p with eqNext := [] }

/-- The preset a lane starts from. -/
def State.startPreset (s : State) (p l : Nat) : Nat := (s.laneEq p l).preset

/-- The transmitters keep the preset and refuse every tap request (R188). -/
def State.presetForced (s : State) (p l : Nat) : Bool := (s.laneEq p l).force

/-- At a short retrain, which negotiates nothing, the lanes that a waiting setting names take its preset and its fixed CTLE setting
(R183). -/
def State.retrainEq (s : State) (p : Nat) : State :=
  let mask := (s.port p).eqNext.foldl (fun m q => m ||| q.lanes) 0
  let t := s.applyEq p
  (List.range 8).foldl (fun t l =>
    if bitOf mask l then
      let q := t.laneEq p l
      let x := (t.lane p l).atPreset q.preset
      t.setLane p l (if q.ctleFixed then { x with ctle := q.ctle } else x)
    else t) t

/-- An attempt starts at DETECT: lanes at their presets on the transmit PLL, nothing received. Lanes left out before stay out (R175). -/
def State.startDetect (s : State) (p : Nat) : State :=
  let a := s.applyEq p
  let b := (List.range 8).foldl (fun t l => t.setLane p l (freshLane (t.startPreset p l) (t.lane p l).own (t.lane p l).ser)) a
  let c := b.setFs [(rlLinkStatusState p, 1), (rlLinkStatusPwr p, 0), (rlLinkStatusWidth p, 3), (rlLinkStatusLanes p, 0),
    (rlLinkStatusReversed p, 0), (rlLinkStatusClkLane p, 0), (rlLinkStatusClkLocal p, 1), (rlLaneStatusPolInv p, 0)]
  let e := c.dropPartial p
  let d := e.setPort p { e.port p with short := false, fast := false, framings := 0, initSeen := false, partnerSet := 0xFF,
                                       pwrReq := none, pwrAgreed := none, dropping := false, trainSet := 0 }
  if (d.port p).notice.isSome then d else d.emit (.lanesTrain p)

/-- A series of attempts (R168). -/
def State.startSeries (s : State) (p : Nat) : State := (s.setF (rlLinkStatusAttempt p) 1).startDetect p

/-- A new series (R174, R176, R183, R227), counted in RL_RETRAIN_COUNT.COLD. A port that leaves ACTIVE keeps its link state if
`keep` says so, and the change is reported (R182). -/
def State.newSeries (s : State) (p : Nat) (keep : Bool) : State :=
  let was := s.portActive p || (s.port p).short
  let a := s.setPort p { s.port p with keep := keep && (was || (s.port p).keep), keepDown := false }
  let b := if was then a.linkChanged p else a
  (b.bump (rlRetrainCountCold p) 16).startSeries p

/-- A cold retrain lets every lane take part again (R175). -/
def State.readmit (s : State) (p : Nat) : State := (s.setPort p { s.port p with excluded := 0 }).setF (rlLaneStatusExcluded p) 0

/-- A cold retrain of an ACTIVE port with its notice; any other port starts a new series (R183, R219). The link state is kept until the
port reaches ACTIVE again (R228). -/
def State.coldRetrain (s : State) (p reason : Nat) : State :=
  let a := if s.portActive p then s.sendNotice p reason else s.endNotice p
  let t := (a.readmit p).newSeries p true
  t.setPort p { t.port p with keepDown := true }

/-! ### Short retrains (R172 to R174) -/

/-- A short retrain onto the widest legal set within both proposals, where the S64 proposes its good lanes among `lanes`: DESKEW, FEC_LOCK
and CREDIT_INIT. An event during one joins it. With no legal set, or as the fourth within 1 s, a new series starts instead. -/
def State.shortRetrainOn (s : State) (p lanes : Nat) : State :=
  let x := s.port p
  if !s.portActive p && !x.short then s
  else
    match chooseSet (s.on (rlLinkStatusReversed p)) (s.goodLanes p &&& x.partnerSet &&& lanes) with
    | none => s.newSeries p true
    | some set =>
      let recent := x.shorts.filter (fun t => decide (s.now < t + 4000000000))
      if !x.short && decide (3 ≤ recent.length) then s.newSeries p true
      else
        let a := if x.short then s else (s.bump (rlRetrainCountShort p) 16)
        let b := (a.retrainEq p).useSet p set
        let c := b.setFs [(rlLinkStatusState p, 5), (rlLinkStatusPwr p, 0)]
        let d := c.dropPartial p
        d.setPort p { d.port p with short := true, keep := true, framings := 0, initSeen := false, pwrReq := none, pwrAgreed := none,
                                    trainSet := lanes,
                                    prevWidth := if x.short then x.prevWidth else s.f (rlLinkStatusWidth p),
                                    shorts := if x.short then x.shorts else s.now :: recent, dropping := false }

/-- A short retrain within the set that was in use when it started (R173, R175: lanes left out do not return). DEDUCED (log entry 47): the
set chosen again for an event that joins it (R174) may hold any of those lanes, since each end proposes all its good lanes at each choice
(R167). -/
def State.shortRetrain (s : State) (p : Nat) : State :=
  s.shortRetrainOn p (if (s.port p).short then (s.port p).trainSet else s.f (rlLinkStatusLanes p))

/-- R565: every ACTIVE port at ×8 makes a short retrain to ×4 on logical lanes 0 to 3. -/
def State.narrowPorts (s : State) : State :=
  (List.range 16).foldl (fun t p =>
    if t.portActive p && t.f (rlLinkStatusWidth p) == 0 then
      let u := t.shortRetrainOn p (if t.on (rlLinkStatusReversed p) then 0xF0 else 0x0F)
      ({ u with thermal := { u.thermal with narrowedPorts := setBit u.thermal.narrowedPorts p } }).setF thStatusNarrowed 1
    else t) s

/-! ### Stopping ports (R181, R218, R228) -/

/-- The port becomes DISABLED. What it has partly received is dropped; `keep` keeps its link state. -/
def State.disablePort (s : State) (p : Nat) (keep : Bool) : State :=
  let was := s.portActive p || (s.port p).short
  let a := s.setFs [(rlLinkStatusState p, 0), (rlLinkStatusPwr p, 0), (rlLinkStatusWidth p, 3), (rlLinkStatusLanes p, 0),
    (rlLinkStatusClkLocal p, 1), (rlLinkStatusAttempt p, 0)]
  let b := a.dropPartial p
  b.setPort p { b.port p with keep := keep && (was || (s.port p).keep), short := false, fast := false, dropping := false,
                              pwrReq := none, pwrAgreed := none }

/-- Stop one port with a notice (R219). DESIGN CHOICE (log entry 47): a DOWN port that a quench stops becomes DISABLED like every other port
(R181) and so trains again after it, although R168 keeps it DOWN until a cold retrain or a full reset. -/
def State.stopPort (s : State) (p reason : Nat) (keep : Bool) : State :=
  if s.linkState p = 0 then s
  else if s.linkState p = 0xB then s.disablePort p (keep && (s.port p).keepDown)
  else (s.sendNotice p reason).disablePort p keep

/-- Step 1 of R568: every port sends DOWN_NOTICE reason 1 and is disabled. -/
def State.quenchPorts (s : State) : State := (List.range 16).foldl (fun t p => t.stopPort p 1 true) s

/-- The transmitters of every port go idle at once without a notice, and what the ports hold is lost (R138, R228, R571, R622). -/
def State.idlePorts (s : State) : State :=
  (List.range 16).foldl (fun t p =>
    let u := if t.linkState p = 0 then t else t.emit (.lanesIdle p)
    let v := u.disablePort p false
    v.setPort p { portCold p with byCommand := (v.port p).byCommand, wasActive := (v.port p).wasActive, eqNext := (v.port p).eqNext }) s

/-- Ports that are DISABLED by a quench or a reset start their attempts (R93, R169): not while quenched, not a culled port, not one
disabled by LINK_DISABLE, not one held in local reset (R137). The service firmware has started; a watchdog expiry after that does not stop
the data path (R50). DESIGN CHOICE (log entry 47): RL_RETRAIN_COUNT.COLD does not count these series. -/
def State.trainPorts (s : State) : State :=
  if s.quenched || (!s.fwRuns && !s.on elStatusSvExpired) then s
  else
    (List.range 16).foldl (fun t p =>
      if t.linkState p = 0 ∧ (t.port p).byCommand = false ∧ t.portCulled p = false ∧ t.heldInReset (4 + p) = false then
        (t.endNotice p).startSeries p else t) s

/-! ### The end of training (R93, R182, R216, R229) -/

/-- R93: DP_READY is set when every port has either trained or been given up on; TO_DP is the time since PCIE_READY (R117). The service
firmware has started; its expiry does not stop the training (R50). -/
def State.settlePorts (s : State) : State :=
  if (s.fwRuns || s.on elStatusSvExpired) && !s.on devStatusDpReady && !s.quenched &&
      (List.range 16).all (fun p => s.portCulled p || (s.port p).byCommand || s.linkState p == 9 || s.linkState p == 0xB) then
    s.setFs [(devStatusDpReady, 1), (devStatusStage, 0xA), (devBootTimeToDp, min 65535 ((s.now - s.pilot.readyTick) / 400000))]
  else s

/-- The channel a request uses (R197, R205). -/
def reqChannel (r : Req) : Nat :=
  if [0x02, 0x03, 0x05, 0x10, 0x11, 0x19, 0x1A].contains r.opcode then 1
  else if [0x20, 0x21, 0x30].contains r.opcode then 3 else 0

/-- Replies that have not been acknowledged: those in the egress store and those kept for replay. -/
def Port.heldReplies (x : Port) : List Reply :=
  x.egress ++ x.kept.filterMap (fun k => match k.2 with
    | .reply r => some r
    | _ => none)

/-- The port reaches ACTIVE without resuming (R216, R229): held replies are discarded and counted, SEQ starts at 0, and credits
start at the advertised values. -/
def State.startFresh (s : State) (p : Nat) : State :=
  let x := s.port p
  let n := x.heldReplies.length
  let k := (x.heldReplies.map (·.packets)).sum
  let a := if n = 0 then s
    else ((s.addF (rlLostReplies p) n 65535).addF (rlLostPackets p) k 65535).report
      { pre := .rl, code := 0x04, severity := 2, unitKind := 5, unit := p, data := min n 65535 + 65536 * min k 65535 }
  let b := a.setFs [(rlSeqTxNext p, 0), (rlSeqRxAckSeq p, 0), (rlEgressBytes p, 0),
    (rlRxFreeAVc0 p, 3072), (rlRxFreeAVc1 p, 512), (rlRxFreeBVc3 p, 128)]
  let c := if x.wasActive then b.bump (rlResumeNotResumed p) 16 else b
  c.setPort p { c.port p with egress := [], kept := [], keptCw := [], txBuf := [], acked := 0, ret0 := 0, ret1 := 0, ret2 := 0, ret3 := 0,
                              seen2 := 0, seen3 := 0, replays := 0, ackSeq := 0, dropping := false, rxBuf := [], rxTicks := [], rxNext := 0,
                              rxSeq := 0, rxOff := 0, resume := 0, badItem := false, failedAt := none, longCounted := false, nakDue := false,
                              firstId := (c.port p).nextId }

/-- A resync codeword naming the first kept codeword, and exact copies of the kept codewords from there (R192, R213). -/
def State.resend (s : State) (p : Nat) : State :=
  let x := s.port p
  let a := (s.emit (.replay p x.acked (x.kept.map (·.2)))).sendLine p x.acked (resyncData x.acked)
  x.keptCw.foldl (fun t k => t.sendLine p k.1 k.2) a

/-- The port reaches ACTIVE resuming (R213, R216): a resync codeword and the kept codewords from the other end's ACK_SEQ. -/
def State.startResumed (s : State) (p : Nat) : State := (s.bump (rlResumeResumed p) 16).resend p

/-- CREDIT_INIT ends: ACTIVE, HOT (R165). A retrain that keeps the width is not reported (R182). -/
def State.becomeActive (s : State) (p : Nat) : State :=
  let x := s.port p
  let quiet := (x.short || x.fast) && s.f (rlLinkStatusWidth p) == x.prevWidth
  let a := if x.resuming then s.startResumed p else s.startFresh p
  let b := (a.setPort p { a.port p with short := false, fast := false, keep := false, keepDown := false, wasActive := true }).setFs
    [(rlLinkStatusState p, 9), (rlLinkStatusPwr p, 0)]
  (if quiet then b else b.linkChanged p).settlePorts

/-- An attempt fails (R168): recorded, idle for 2 ms, and DOWN after the fourth. -/
def State.failAttempt (s : State) (p code : Nat) : State :=
  let n := if s.f (rlLinkStatusAttempt p) = 0 then 1 else s.f (rlLinkStatusAttempt p)
  let a := (s.setFs [(rlTrainFailState p, s.linkState p), (rlTrainFailCode p, code), (rlLinkStatusClkLocal p, 1),
    (rlLinkStatusWidth p, 3), (rlLinkStatusLanes p, 0), (rlLinkStatusAttempt p, n)]).bump (rlTrainFailCount p) 16
  let b := a.setPort p { a.port p with short := false, fast := false }
  if 4 ≤ n then
    let c := (b.setPort p { b.port p with keep := (b.port p).keep && (b.port p).keepDown }).setFs [(rlLinkStatusState p, 0xB), (rlLinkStatusChanged p, 1)]
    ((c.emit (.lanesIdle p)).report
      { pre := .rl, code := 0x03, severity := 3, vector := some 3, unitKind := 5, unit := p, data := code }).settlePorts
  else (b.setF (rlLinkStatusState p) 0xA).emit (.lanesIdle p)

end Sys2Proof.Machine
end

