-- ==== Sys2Proof/Machine/Lanes.lean ====
section
/-!
DEFINITION. Lanes, training, power states and the link commands (R156 to R188).
-/
namespace Sys2Proof.Machine

/-! ### Detectors (R162, R172, R173, R176) -/

/-- LANE_DETECTOR_CHANGE: LOS and LOL of a lane. A lane of the set in use that is no longer good starts a short retrain while the port
is ACTIVE and HOT, or joins one in progress. -/
def execLaneDetectorChange (p lane : Nat) (los lol : Bool) (s : State) : Host.Outcome State Fault Refusal :=
  if 15 < p ∨ 7 < lane then .next s
  else
    let a := s.setFs [(rlLaneStatusLos p, if los then setBit (s.f (rlLaneStatusLos p)) lane else clearBit (s.f (rlLaneStatusLos p)) lane),
      (rlLaneStatusLol p, if lol then setBit (s.f (rlLaneStatusLol p)) lane else clearBit (s.f (rlLaneStatusLol p)) lane)]
    if (los || lol) && bitOf (s.f (rlLinkStatusLanes p)) lane && (s.portHot p || (s.port p).short) then .next (a.shortRetrain p)
    else .next a

/-- LINK_LOST (R176): every lane of an ACTIVE port has had LOS set for 100 µs. DESIGN CHOICE (log entry 47): R173 and R176 act
on a port that is HOT; in WARM and BANKED the partner's lanes are idle by agreement (R177), so LOS there loses nothing. -/
def execLinkLost (p : Nat) (s : State) : Host.Outcome State Fault Refusal :=
  if s.portHot p && s.f (rlLaneStatusLos p) == 0xFF then .next (s.newSeries p true) else .next s

/-! ### Training frames (R159, R163, R164) -/

/-- A tap stays in its range (R158). -/
def tapInRange (tap : Nat) (v : Int) : Bool :=
  match tap with
  | 1 => decide (0 ≤ v ∧ v ≤ 8)
  | 2 => decide (-16 ≤ v ∧ v ≤ 0)
  | 3 => decide (-16 ≤ v ∧ v ≤ 0)
  | _ => decide (-4 ≤ v ∧ v ≤ 4)

/-- The tap a request names. -/
def Lane.tap (x : Lane) : Nat → Int
  | 1 => x.cm2
  | 2 => x.cm1
  | 3 => x.cp1
  | _ => x.cp2

/-- The lane with a tap and c(0) replaced. -/
def Lane.withTap (x : Lane) (tap : Nat) (v c0 : Int) : Lane :=
  match tap with
  | 1 => { x with cm2 := v, c0 := c0 }
  | 2 => { x with cm1 := v, c0 := c0 }
  | 3 => { x with cp1 := v, c0 := c0 }
  | _ => { x with cp2 := v, c0 := c0 }

/-- A step of one tap (R159): c(0) takes the rest, so that the sum of magnitudes stays 64. The response is 1 = updated, 2 = at
limit. -/
def Lane.step (x : Lane) (tap : Nat) (up : Bool) : Lane × Nat :=
  let v := if up then x.tap tap + 1 else x.tap tap - 1
  let c0 := x.c0 + (x.tap tap).natAbs - v.natAbs
  if tapInRange tap v && decide (32 ≤ c0) then (x.withTap tap v c0, 1) else (x, 2)

/-- What a request asks: 1 to 4 step a tap, 5 loads a preset, 6 holds; 7 is reserved. A forced preset supports none (R188). DESIGN CHOICE
(log entry 47): hold is answered 1 = updated, and the reserved REQ_TAP 3 = not supported; R163 states no answer to either. -/
def Lane.request (x : Lane) (forced : Bool) (tap : Nat) (up : Bool) (preset : Nat) : Lane × Nat :=
  if forced || tap == 7 then (x, 3)
  else if tap = 6 then (x, 1)
  else if tap = 5 then (x.atPreset preset, 1)
  else x.step tap up

/-- CHECK of a control field (R163, R643): CRC-8 over bits 55:0 from bit 55 down. -/
def checkOf (c : Nat) : Nat := crc8 (leBytes 7 c).reverse

/-- CHECK passes. -/
def frameCheck (c : Nat) : Bool := checkOf c == bitsOf c 63 56

/-- The lanes the S64 proposes (R167): its good lanes, among those in use on a fast path, those that take part once they are known or that a
short retrain may use, and before that those not left out (R175). -/
def State.proposal (s : State) (p : Nat) : Nat :=
  let q := s.port p
  s.goodLanes p &&& (if q.fast then s.f (rlLinkStatusLanes p) else if !q.short && decide (s.linkState p ≤ 2) then s.allowedLanes p else q.trainSet)

/-- Lanes whose receiver meets the error bound of R166. -/
def State.meeting (s : State) (p : Nat) : Nat := maskOf 8 (fun l => (s.lane p l).meets)

/-- RX_READY of the S64 (R166): in EQ_ADAPT, every proposed lane meets the bound. -/
def State.ownReady (s : State) (p : Nat) : Bool :=
  s.linkState p == 6 && s.proposal p != 0 && s.proposal p &&& s.meeting p == s.proposal p

/-- The control field the S64 sends on a lane (R163). -/
def State.ownFrame (s : State) (p l : Nat) : Nat :=
  let x := s.lane p l
  let q := x.asking.getD (0, false, 0)
  let c := l % 8 + 2 ^ 4 * (if s.linkState p < 4 then 0 else (s.port p).portId % 65536) + 2 ^ 20 * (s.linkState p % 16) +
    2 ^ 24 * (q.1 % 8) + 2 ^ 27 * b2n q.2.1 + 2 ^ 28 * (q.2.2 % 8) + 2 ^ 32 * (x.resp % 4) + 2 ^ 34 * b2n x.toggle +
    2 ^ 35 * b2n (s.ownReady p) + 2 ^ 40 * (s.proposal p % 256)
  c + 2 ^ 56 * checkOf c

/-- A lane sends training frames: from DETECT to EQ_ADAPT, once a notice has ended. -/
def State.framesRun (s : State) (p : Nat) : Bool :=
  decide (1 ≤ s.linkState p ∧ s.linkState p ≤ 6) && (s.port p).notice.isNone

/-- A training frame on a lane. -/
def State.sendFrame (s : State) (p l : Nat) : State := if s.framesRun p then s.emit (.frame p l (s.ownFrame p l)) else s

/-- A port in which nothing else is sent: training frames up to EQ_ADAPT, NULL bytes in framed idle flits from FEC_LOCK on, and in data
codewords while it is ACTIVE and HOT and the replay buffer has room, framing codewords alone while it has none (R165, R193, R211). A
handshake that has been agreed lets the stream run out (R217). In WARM nothing is sent and the codeword counter runs on (R177). -/
def State.idlePort (s : State) (p : Nat) : State :=
  let st := s.linkState p
  if st = 7 ∨ st = 8 then s.sendLine p (s.f (rlSeqTxNext p)) (List.replicate 320 0)
  else if s.portHot p then
    (if !(s.port p).txBuf.isEmpty then s.flushTx p
    else if (s.port p).pwrAgreed.isSome then s
    else if s.replayRoom p 320 then (s.emit (.item p (.null 320))).sendData p (List.replicate 320 0)
    else s.sendFraming p)
  else if s.portWarm p then s.setPort p { s.port p with txLine := (s.port p).txLine + 1 }
  else if s.framesRun p then (List.range 8).foldl (fun t l => t.sendFrame p l) s
  else s

/-- What a valid frame tells of its lane (R163, R166). -/
def Lane.hear (x : Lane) (f : Frame) (measuring : Bool) : Lane :=
  { x with seen := some (bitsOf f.control 2 0), echoOk := bitOf f.control 36, rxReady := bitOf f.control 35, inverted := f.inverted,
           meets := if measuring then (f.errors.map (fun n => decide (n ≤ 112))).getD false else x.meets }

/-- The S64 as the requester (R164): an open request is held until RESP_TOGGLE inverts, and then REQ_TAP = 0 is sent; with none open it may
make the next one in EQ_ADAPT. -/
def Lane.ask (x : Lane) (f : Frame) (negotiating : Bool) : Lane :=
  let toggle := bitOf f.control 34
  match x.asking with
  | some _ => if toggle != x.peerToggle then { x with asking := none, peerToggle := toggle, peerResp := bitsOf f.control 33 32 } else x
  | none =>
    { x with peerToggle := toggle, asking := if negotiating && decide (1 ≤ f.want.1 ∧ f.want.1 ≤ 6) then some f.want else none }

/-- The S64 as the responder: a request is acted on once, until REQ_TAP = 0 has been received (R159, R164). -/
def Lane.answer (x : Lane) (c : Nat) (forced : Bool) : Lane :=
  let tap := bitsOf c 26 24
  if tap = 0 then { x with answered := false }
  else if x.answered then x
  else
    let q := x.request forced tap (bitOf c 27) (bitsOf c 30 28)
    { q.1 with answered := true, resp := q.2, toggle := !x.toggle }

/-- The PORT_ID that the port echoes after a frame of a lane (R163): that received on the lowest lane that takes part. One value goes out on
every lane, so a lane of another port gets an identifier that is not its own and no ECHO_OK comes back on it (R74). DESIGN CHOICE (log
entry 47): which lane's PORT_ID is echoed. -/
def State.heardId (s : State) (p lane c : Nat) : Nat :=
  let q := s.port p
  if (List.range 8).all (fun l => !bitOf q.trainSet l || decide (lane ≤ l)) then bitsOf c 19 4 else q.portId

/-- TRAINING_FRAME_RX: a frame whose marker is not found or whose CHECK fails is ignored (R164). Taps are negotiated in the training of an
attempt; a short retrain and a fast path keep their settings (R173, R180). While the port is ACTIVE, a LANE_SET that leaves out a lane in
use starts a short retrain (R173). -/
def execTrainingFrameRx (p lane : Nat) (f : Frame) (s : State) : Host.Outcome State Fault Refusal :=
  let c := f.control
  if 15 < p ∨ 7 < lane ∨ f.marker = false ∨ frameCheck c = false then .next s
  else
    let attempt := decide (1 ≤ s.linkState p ∧ s.linkState p ≤ 6) && !(s.port p).short && !(s.port p).fast
    let adapting := s.linkState p == 6
    let x := (s.lane p lane).hear f adapting
    let y := if attempt then (x.ask f adapting).answer c (s.presetForced p lane) else x
    let a := s.setLane p lane y
    let b := a.setPort p { a.port p with portId := s.heardId p lane c, partnerSet := bitsOf c 47 40 }
    let used := s.f (rlLinkStatusLanes p)
    if (s.portHot p || (s.port p).short) && (used &&& bitsOf c 47 40) != used then .next (b.shortRetrain p) else .next (b.sendFrame p lane)

/-! ### The states of an attempt (R165 to R171) -/

/-- The order of the lanes that take part: some false = identity, some true = full reversal. -/
def State.laneOrder (s : State) (p : Nat) : Option Bool :=
  let ls := (List.range 8).filter (fun l => bitOf (s.port p).trainSet l)
  if ls.all (fun l => (s.lane p l).seen == some l) then some false
  else if ls.all (fun l => (s.lane p l).seen == some (7 - l)) then some true
  else none

/-- ECHO_OK = 1 on every lane that takes part. -/
def State.echoed (s : State) (p : Nat) : Bool :=
  (List.range 8).all (fun l => !bitOf (s.port p).trainSet l || (s.lane p l).echoOk)

/-- Lanes on which RX_READY has been received. -/
def State.partnerReady (s : State) (p : Nat) : Nat := maskOf 8 (fun l => (s.lane p l).rxReady)

/-- A DFE tap within its range (R160): tap 1 spans ±0.5 of the main cursor and the others ±0.25, in steps of 1/128. -/
def dfeClamp (i : Nat) (v : Int) : Int :=
  let m : Int := if i = 0 then 64 else 32
  max (-m) (min m v)

/-- The receivers' settings after EQ_ADAPT: CTLE as fixed or as chosen (R188), the 12 DFE taps as adapted (R160). -/
def State.storeEq (s : State) (p : Nat) (x : TrainInput) : State :=
  (List.range 8).foldl (fun t l =>
    let q := t.laneEq p l
    t.setLane p l { t.lane p l with ctle := if q.ctleFixed then q.ctle else min (x.ctle.getD l 0) 15,
                                    dfe := (List.range 12).map (fun i => dfeClamp i ((x.dfe.getD l []).getD i 0)) }) s

/-- One adaptation of a lane's taps: each goes up or down by one step, or stays, as the free value says. -/
def adaptTaps (v : Nat) (taps : List Int) : List Int :=
  (List.range 12).map (fun i => dfeClamp i (taps.getD i 0 + ((v / 3 ^ i % 3 : Nat) : Int) - 1))

/-- The DFE goes on adapting with what an ACTIVE and HOT port receives, on the lanes of its set that DFE_FREEZE does not stop (R160). The
signs that sign-sign LMS works on are analogue, so each tap's step is a free value (log entry 48). -/
def State.adaptDfe (s : State) (p : Nat) : State :=
  if s.portHot p then
    (List.range 8).foldl (fun t l =>
      if bitOf (t.f (rlLinkStatusLanes p)) l && !(t.laneEq p l).freeze then
        let x := t.lane p l
        t.fresh.2.setLane p l { x with dfe := adaptTaps (Sys2Proof.Config.freeValue t.fresh.1) x.dfe }
      else t) s
  else s

/-- The body of the S64's INIT (R216): credits advertised, RESUME, ACK_SEQ, TX_SEQ and the return counters. -/
def State.initBody (s : State) (p : Nat) : List Byte :=
  let x := s.port p
  let r := x.keep || x.short
  leBytes 2 3072 ++ leBytes 2 512 ++ leBytes 2 0 ++ leBytes 2 128 ++ leBytes 1 (b2n r) ++
    leBytes 3 (if r then x.ackSeq else 0) ++ leBytes 3 (if r then s.f (rlSeqTxNext p) else 0) ++
    leBytes 6 (if r then x.ret0 + 2 ^ 12 * x.ret1 + 2 ^ 24 * x.ret2 + 2 ^ 36 * x.ret3 else 0) ++ leBytes 35 0

/-- Go to a training state. -/
def State.toState (s : State) (p st : Nat) : State := s.setF (rlLinkStatusState p) st

/-- CDR_LOCK ends with these lanes (R165, R171): the transmit clock becomes that of the lowest of them. -/
def State.lockLanes (s : State) (p lanes : Nat) : State :=
  let a := s.setPort p { s.port p with trainSet := lanes }
  (a.setFs [(rlLinkStatusClkLane p, lowestSet 8 lanes), (rlLinkStatusClkLocal p, 0)]).toState p 3

/-- CDR_LOCK ends on a fast path (R171, R180): the transmit clock becomes that of the saved set, and DESKEW follows. -/
def State.lockSaved (s : State) (p : Nat) : State :=
  (s.setFs [(rlLinkStatusClkLane p, lowestSet 8 (s.f (rlLinkStatusLanes p))), (rlLinkStatusClkLocal p, 0)]).toState p 5

/-- POLARITY ends: the inversions found are corrected. -/
def State.fixPolarity (s : State) (p : Nat) : State :=
  (s.setF (rlLaneStatusPolInv p) (maskOf 8 (fun l => bitOf (s.port p).trainSet l && (s.lane p l).inverted))).toState p 4

/-- FEC_LOCK begins: the running line count starts, and framed idle flits are sent (R165, R191). -/
def State.startFraming (s : State) (p : Nat) : State :=
  let a := s.toState p 7
  (a.setPort p { a.port p with txLine := 0, framings := 0 }).sendLine p (a.f (rlSeqTxNext p)) (List.replicate 320 0)

/-- EQ_ADAPT ends on a set. -/
def State.adapted (s : State) (p : Nat) (x : TrainInput) (set : Nat × Nat) : State := ((s.storeEq p x).useSet p set).startFraming p

/-- FEC_LOCK ends: the fixed latency is set (R170) and INIT is sent as the first item of the stream (R216); RL_SEQ_RX shows its ACK_SEQ
(R233). -/
def State.framed (s : State) (p : Nat) (x : TrainInput) : State :=
  let i := LinkItem.control 1 0 (s.initBody p)
  let ack := if (s.port p).keep || (s.port p).short then (s.port p).ackSeq else 0
  (((s.setFs [(rlLatFixed p, x.latency % 65536), (rlSeqRxAckSeq p, ack)]).toState p 8).emit (.item p i)).sendLine p (s.f (rlSeqTxNext p))
    (i.stream ++ List.replicate 256 0)

/-- Lanes that show signal and take part. -/
def State.usableLanes (s : State) (p : Nat) : Nat :=
  s.signalLanes p &&& (if (s.port p).fast then s.f (rlLinkStatusLanes p) else s.allowedLanes p)

/-- TRAIN_STATE_EXIT (R165): the exit condition of the present state, as far as the state of the S64 and the measurements show it, and
the move to the next. A short retrain runs DESKEW, FEC_LOCK and CREDIT_INIT, a fast path CDR_LOCK before them (R173, R180). -/
def execTrainStateExit (p : Nat) (x : TrainInput) (s : State) : Host.Outcome State Fault Refusal :=
  let q := s.port p
  if 15 < p ∨ q.notice.isSome = true then .next s
  else
    let lanes := s.usableLanes p
    match s.linkState p with
    | 1 => if lanes = 0 then .next s else .next (s.toState p 2)
    | 2 =>
      if q.fast then (if x.lanes &&& lanes = s.f (rlLinkStatusLanes p) then .next (s.lockSaved p) else .next s)
      else if lanes ≠ 0 ∧ x.lanes &&& lanes = lanes then .next (s.lockLanes p lanes)
      else .next s
    | 3 => if (List.range 8).all (fun l => !bitOf q.trainSet l || (s.lane p l).seen.isSome) then .next (s.fixPolarity p) else .next s
    | 4 =>
      match s.laneOrder p with
      | none => .next s
      | some rev => if s.echoed p then .next ((s.setF (rlLinkStatusReversed p) (b2n rev)).toState p 5) else .next s
    | 5 =>
      let set := if q.short || q.fast then s.f (rlLinkStatusLanes p) else q.trainSet
      if x.lanes &&& set ≠ set then .next s
      else if q.short || q.fast then .next (s.startFraming p)
      else .next (s.toState p 6)
    | 6 =>
      let want := s.proposal p &&& q.partnerSet
      match chooseSet (s.on (rlLinkStatusReversed p)) want with
      | none => .next s
      | some set => if s.ownReady p && want &&& s.partnerReady p == want then .next (s.adapted p x set) else .next s
    | 7 => if 3 ≤ q.framings ∧ x.partnerFramed = true then .next (s.framed p x) else .next s
    | 8 => if q.initSeen then .next (s.becomeActive p) else .next s
    | _ => .next s

/-- A state's timer ends the attempt with a code (R168). DESIGN CHOICE (log entry 47): where it runs out during a short retrain, of which the
spec says nothing, the port leaves ACTIVE (R182) and this counts as the failed attempt 1 of a series: RL_TRAIN_FAIL records it, 2 ms of
electrical idle follow, and RL_RETRAIN_COUNT.COLD does not count the series. -/
def State.timerFail (s : State) (p code : Nat) : State :=
  let q := s.port p
  let a := if q.short || q.fast then (s.setF (rlLinkStatusAttempt p) 1).linkChanged p else s
  (a.dropPartial p).failAttempt p code

/-- A fast path that fails makes a cold retrain (R175, R180). -/
def State.fastFails (s : State) (p : Nat) : State := ((s.linkChanged p).readmit p).newSeries p true

/-- TRAIN_STATE_TIMER (R165, R168): CDR_LOCK and EQ_ADAPT go on with the lanes that form a legal set; every other state fails. -/
def execTrainStateTimer (p : Nat) (x : TrainInput) (s : State) : Host.Outcome State Fault Refusal :=
  let q := s.port p
  if 15 < p then .next s
  else
    match s.linkState p with
    | 1 => .next (s.timerFail p 1)
    | 2 =>
      let lanes := x.lanes &&& s.usableLanes p
      if q.fast then .next (s.fastFails p)
      else if (chooseSet false lanes).isSome then .next (s.lockLanes p lanes)
      else .next (s.timerFail p 2)
    | 3 => .next (s.timerFail p 3)
    | 4 => .next (s.timerFail p (if (s.laneOrder p).isSome then 5 else 4))
    | 5 => .next (s.timerFail p 6)
    | 6 =>
      match chooseSet (s.on (rlLinkStatusReversed p)) (s.proposal p &&& q.partnerSet &&& s.meeting p &&& s.partnerReady p) with
      | none => .next (s.timerFail p 7)
      | some set => .next (s.adapted p x set)
    | 7 => .next (s.timerFail p 8)
    | 8 => .next (s.timerFail p 9)
    | _ => .next s

/-- ATTEMPT_IDLE_END (R168): the next attempt of the series. -/
def execAttemptIdleEnd (p : Nat) (s : State) : Host.Outcome State Fault Refusal :=
  if s.linkState p = 0xA ∧ p ≤ 15 then
    .next ((s.setF (rlLinkStatusAttempt p) (min (s.f (rlLinkStatusAttempt p) + 1) 4)).startDetect p)
  else .next s

/-! ### Power states (R177 to R180, R217) -/

/-- R178: a reply not yet sent, or a request not yet answered. -/
def State.portBusy (s : State) (p : Nat) : Bool :=
  let x := s.port p
  !x.egress.isEmpty || !x.ingress.isEmpty || !x.awaiting.isEmpty || !x.assembly.isEmpty || !x.marks.isEmpty

/-- The power state is permitted by RL_PWR_CFG (R187). -/
def State.pwrPermitted (s : State) (p arg : Nat) : Bool :=
  (arg == 1 && s.on (rlPwrCfgWarmEn p)) || (arg == 2 && s.on (rlPwrCfgBankedEn p))

/-- Reported temperature of the base die. -/
def State.baseTemp (s : State) : Int := (Map.get (fun _ => (⟨0, 0, 0, 0, 0⟩ : Layer)) s.layers 17).temp

/-- Enter the agreed state once every kept codeword is acknowledged (R217). The transmit clock goes to the transmit PLL as the port leaves HOT
(R133). In BANKED the port's own PLLs and lane group are off (R177). -/
def State.enterPower (s : State) (p : Nat) : State :=
  let x := s.port p
  match x.pwrAgreed with
  | none => s
  | some a =>
    if x.keptCw.isEmpty && x.txBuf.isEmpty then
      let t := ((s.setPort p { x with pwrAgreed := none, bankedTick := s.now, bankedTemp := s.baseTemp }).setFs
        [(rlLinkStatusPwr p, a), (rlLinkStatusClkLocal p, 1)]).emit (.lanesIdle p)
      if a = 2 ∧ bitOf (s.f plGateDis) (4 + p) = false then t.setF plClkActive (clearBit (t.f plClkActive) (4 + p)) else t
    else s

/-- A received control flit with this SUBTYPE that counts (R215): its layout and its CRC. -/
def flitOk (b : List Byte) (sub : Nat) : Bool :=
  b.length == 64 && bufNat b 0 1 == 0xF4 && bufNat b 1 1 == sub && crc32 (b.take 60) == bufNat b 60 4

/-- The 4 VC3 credits of a control flit go back to its sender as it leaves the receive buffer (R205, R207), but not during the quiesce of a
preserving reset (R101). -/
def State.returnFlit (s : State) (p : Nat) : State :=
  if s.resetting && s.pilot.nextKind != some .clearing then s
  else s.setPort p { s.port p with ret3 := ((s.port p).ret3 + 4) % 4096 }

/-- PWR_REQ (R178, R217): answered with PWR_ACK, or with PWR_REFUSE while the port is busy or the state is not permitted. A port
that cannot send the answer gives none, so its partner takes the request as refused. DESIGN CHOICE (log entry 47): where both
ends have a request open, the S64 drops its own and answers the partner's. -/
def execPwrReq (p : Nat) (flit : List Byte) (s : State) : Host.Outcome State Fault Refusal :=
  let arg := bufNat flit 2 1
  if 15 < p ∨ s.portHot p = false ∨ flitOk flit 2 = false then .next s
  else
    let a := s.returnFlit p
    if a.canControl p = false then .next a
    else if a.pwrPermitted p arg && !a.portBusy p then
      let t := a.sendControl p 3 arg
      .next ((t.setPort p { t.port p with pwrAgreed := some arg, pwrReq := none }).enterPower p)
    else .next (a.sendControl p 4 arg)

/-- PWR_ACK (R217): the codeword being filled is sent, and the state entered once all are acknowledged. -/
def execPwrAck (p : Nat) (flit : List Byte) (s : State) : Host.Outcome State Fault Refusal :=
  let arg := bufNat flit 2 1
  if 15 < p ∨ s.portHot p = false ∨ flitOk flit 3 = false then .next s
  else
    let a := s.returnFlit p
    if (a.port p).pwrReq == some arg then
      let t := a.flushTx p
      .next ((t.setPort p { t.port p with pwrReq := none, pwrAgreed := some arg }).enterPower p)
    else .next a

/-- PWR_REFUSE (R217): the port stays HOT. -/
def execPwrRefuse (p : Nat) (flit : List Byte) (s : State) : Host.Outcome State Fault Refusal :=
  if 15 < p ∨ s.portHot p = false ∨ flitOk flit 4 = false then .next s
  else
    let a := s.returnFlit p
    if (a.port p).pwrReq == some (bufNat flit 2 1) then .next (a.setPort p { a.port p with pwrReq := none }) else .next a

/-- PWR_REQ_TIMEOUT (R217): no answer within 1 µs counts as refused. -/
def execPwrReqTimeout (p : Nat) (s : State) : Host.Outcome State Fault Refusal :=
  .next (s.setPort p { s.port p with pwrReq := none })

/-- The S64 asks for a power state, where it can send its request (R178, R205). -/
def State.askPower (s : State) (p arg : Nat) : State :=
  if s.portHot p && s.canControl p && s.pwrPermitted p arg && !s.portBusy p && (s.port p).pwrReq.isNone && (s.port p).pwrAgreed.isNone then
    let t := s.sendControl p 2 arg
    t.setPort p { t.port p with pwrReq := some arg }
  else s

/-- WARM_IDLE_TIMER (R177). -/
def execWarmIdleTimer (p : Nat) (s : State) : Host.Outcome State Fault Refusal := .next (s.askPower p 1)

/-- BANKED_IDLE_TIMER (R177, R178): from WARM, the S64 first leaves WARM. -/
def execBankedIdleTimer (p : Nat) (s : State) : Host.Outcome State Fault Refusal :=
  if s.on (rlPwrCfgBankedEn p) then .next ((s.leaveWarm p).askPower p 2) else .next s

/-- WARM_EXIT (R179). -/
def execWarmExit (p : Nat) (s : State) : Host.Outcome State Fault Refusal := .next (s.leaveWarm p)

/-- BANKED_EXIT (R180): within 60 s and 15 °C the fast path, which sends training frames from the transmit PLL; a cold retrain otherwise,
which lets every lane take part again (R175). The lane group has power and clocks again (R126, R177). -/
def execBankedExit (p : Nat) (s : State) : Host.Outcome State Fault Refusal :=
  let x := s.port p
  if 15 < p ∨ s.portBanked p = false then .next s
  else
    let a := s.setFs [(plPwrOn, setBit (s.f plPwrOn) (3 + p)), (plClkActive, setBit (s.f plClkActive) (4 + p))]
    if s.now ≤ x.bankedTick + 240000000000 ∧ (s.baseTemp - x.bankedTemp).natAbs ≤ 960 then
      .next (((a.setPort p { x with fast := true, keep := true, prevWidth := s.f (rlLinkStatusWidth p), framings := 0,
                                    initSeen := false }).setFs
        [(rlLinkStatusState p, 2), (rlLinkStatusPwr p, 0), (rlLinkStatusClkLocal p, 1)]).emit (.lanesTrain p))
    else .next ((a.readmit p).newSeries p true)

/-- BANKED_FAST_PATH_TIMEOUT (R180): a fast path that has not reached ACTIVE makes a cold retrain. -/
def execBankedFastPathTimeout (p : Nat) (s : State) : Host.Outcome State Fault Refusal :=
  if p ≤ 15 ∧ (s.port p).fast = true then .next (s.fastFails p) else .next s

/-! ### Link commands (R183) -/

/-- Ports of a mask that are not culled, nor held in local reset (R137). -/
def State.portsOf (s : State) (mask : Nat) : List Nat :=
  (List.range 16).filter (fun p => bitOf mask p && !s.portCulled p && !s.heldInReset (4 + p))

/-- R494: a mask that names culled ports only. -/
def State.allCulledPorts (s : State) (mask : Nat) : Bool :=
  mask % 65536 != 0 && (List.range 16).all (fun p => !bitOf mask p || s.portCulled p)

/-- LINK_RETRAIN (R183). -/
def execLinkRetrain (e : Sqe) (s : State) : Host.Outcome State Fault Refusal :=
  runCommand 0x340 e s (fun s =>
    let mask := e.par 16 2
    if s.allCulledPorts mask then s.done e stResourceCulled 0
    else
      let open' := (s.portsOf mask).filter (fun p => !(s.port p).byCommand)
      if e.bit 18 0 then
        (open'.foldl (fun t p => t.coldRetrain p 5) s).done e stOk (packBytes [(0, 2, open'.length)])
      else
        let act := open'.filter s.portActive
        (act.foldl (fun t p => t.shortRetrain p) s).done e stOk (packBytes [(0, 2, act.length)]))

/-- LINK_POWER_CFG (R183, R187). -/
def execLinkPowerCfg (e : Sqe) (s : State) : Host.Outcome State Fault Refusal :=
  runCommand 0x341 e s (fun s =>
    let warm := e.par 20 4
    let banked := e.par 24 4
    if warm < 10 ∨ 40950 < warm ∨ warm % 10 ≠ 0 ∨ banked < 1 ∨ 65535 < banked then s.done e stBadParam 0
    else if s.allCulledPorts (e.par 16 2) then s.done e stResourceCulled 0
    else
      ((s.portsOf (e.par 16 2)).foldl (fun t p => t.setFs [(rlPwrCfgWarmEn p, b2n (e.bit 18 0)), (rlPwrCfgBankedEn p, b2n (e.bit 18 1)),
        (rlPwrCfgWarmIdle p, warm / 10), (rlPwrCfgBankedIdle p, banked)]) s).done e stOk 0)

/-- One port disabled by command (R219 reason 3), or enabled and trained under R169. -/
def State.commandPort (s : State) (p : Nat) (disable : Bool) : State :=
  if disable then
    if (s.port p).byCommand then s
    else
      let t := s.stopPort p 3 true
      (t.setPort p { t.port p with byCommand := true, keepDown := true }).settlePorts
  else if (s.port p).byCommand then
    let t := s.setPort p { s.port p with byCommand := false }
    if (t.fwRuns || t.on elStatusSvExpired) && !t.quenched then (t.endNotice p).startSeries p else t
  else s

/-- LINK_DISABLE (R183). -/
def execLinkDisable (e : Sqe) (s : State) : Host.Outcome State Fault Refusal :=
  runCommand 0x342 e s (fun s =>
    if s.allCulledPorts (e.par 16 2) then s.done e stResourceCulled 0
    else ((s.portsOf (e.par 16 2)).foldl (fun t p => t.commandPort p (e.bit 18 0)) s).done e stOk 0)

/-- LINK_EQ_SET (R183): applied at the next training or short retrain. -/
def execLinkEqSet (e : Sqe) (s : State) : Host.Outcome State Fault Refusal :=
  runCommand 0x343 e s (fun s =>
    let p := e.par 16 1
    let ctle := e.par 19 1
    if 15 < p ∨ (15 < ctle ∧ ctle ≠ 0xFF) then s.done e stBadParam 0
    else if s.portCulled p then s.done e stResourceCulled 0
    else (s.setPort p { s.port p with eqNext := (s.port p).eqNext ++ [⟨e.par 17 1, e.par 18 1 % 8, e.bit 18 3, ctle, e.bit 20 0⟩] }).done e stOk 0)

end Sys2Proof.Machine
end

