-- ==== Sys2Proof/Machine/Link.lean ====
section
/-!
DEFINITION. The Ralsal protocol: the received stream, acknowledgement and replay, control flits, and what every data-path
request meets before its own opcode's rules (R189 to R235).
-/
namespace Sys2Proof.Machine

/-- Device time has reached at least `t`. -/
def State.reach (s : State) (t : Tick) : State := { s with time := { s.time with ticks := max s.time.ticks t } }

/-! ### The received stream (R193 to R200, R226) -/

/-- A request whose bytes stand at the head of a buffer (R195). -/
def reqOf (p : Nat) (tick : Tick) (b : List Byte) : Req :=
  let n := bufNat b 8 4 % 2 ^ 15
  { port := p, tick := tick, opcode := bufNat b 0 1, b1 := bufNat b 1 1, b2 := bufNat b 2 1, arg := bufNat b 3 1, tag := bufNat b 4 4,
    length := n, object := bufNat b 8 4 / 2 ^ 15, payload := (b.drop 16).take n, credited := true, corrupt := false, id := 0 }

/-- The packet CRC of a request passes (R200). -/
def packetCrcOk (b : List Byte) : Bool :=
  crc32 (b.take 12 ++ (b.drop 16).take (bufNat b 8 4 % 2 ^ 15)) == bufNat b 12 4

/-- What stands at the head of a buffer of stream bytes. -/
inductive Head where
  | more
  | skip (n : Nat)
  | request (r : Req)
  | bad
  deriving DecidableEq, Repr

/-- The item at the head of the stream (R193). Link updates and control flits are commands of their own and are passed over. A LENGTH
above 16 384, and a first byte that R193 does not list, are CRC failures (R226). -/
def headItem (p : Nat) (tick : Tick) (b : List Byte) : Head :=
  match b with
  | [] => .more
  | k :: _ =>
    let n := bufNat b 8 4 % 2 ^ 15
    if k.toNat = 0 then .skip 1
    else if k.toNat ≤ 0x30 then
      if b.length < 16 then .more
      else if 16384 < n then .bad
      else if b.length < 16 + n then .more
      else if packetCrcOk b then .request (reqOf p tick b)
      else .bad
    else if k.toNat = 0xF1 then (if b.length < 16 then .more else .skip 16)
    else if k.toNat = 0xF4 then (if b.length < 64 then .more else .skip 64)
    else .bad

/-- Requests found, the bytes left over, how many bytes came before them, and whether the item there is bad. -/
structure Parsed where
  requests : List Req
  rest : List Byte
  used : Nat
  bad : Bool
  deriving DecidableEq, Repr

/-- The tick of the codeword that holds the byte at a place of a buffer (R141). -/
def tickAt (ticks : List (Nat × Tick)) (at' : Nat) : Tick :=
  (((ticks.filter (fun t => decide (t.1 ≤ at'))).getLast?).map (·.2)).getD 0

/-- The ticks of what is left of a buffer whose first `used` bytes have gone. -/
def rebase (ticks : List (Nat × Tick)) (used : Nat) : List (Nat × Tick) :=
  (0, tickAt ticks used) :: (ticks.filter (fun t => decide (used < t.1))).map (fun t => (t.1 - used, t.2))

/-- Read the items of a buffer; an item has the tick of the codeword in which its first byte came (R141). -/
def parseStream (p : Nat) (ticks : List (Nat × Tick)) : Nat → List Byte → Nat → List Req → Parsed
  | 0, b, used, acc => ⟨acc.reverse, b, used, false⟩
  | n + 1, b, used, acc =>
    match headItem p (tickAt ticks used) b with
    | .more => ⟨acc.reverse, b, used, false⟩
    | .bad => ⟨acc.reverse, b, used, true⟩
    | .skip k => parseStream p ticks n (b.drop k) (used + k) acc
    | .request r => parseStream p ticks n (b.drop (16 + r.length)) (used + 16 + r.length) (r :: acc)

/-- The free credits of a channel (R206, R233). -/
def rxFree (p : Nat) : Nat → Fld
  | 1 => rlRxFreeAVc1 p
  | 3 => rlRxFreeBVc3 p
  | _ => rlRxFreeAVc0 p

/-- A request enters the ingress buffer under its number in the stream, with the credits it needs or without (R205, R226). DESIGN CHOICE (log
entry 47): its credits count as used in RL_RX_FREE once the whole request has arrived and its CRC has passed. -/
def State.pushReq (s : State) (r : Req) : State :=
  let k := rxFree r.port (reqChannel r)
  let n := creditsOf (16 + r.length)
  let ok := decide (n ≤ s.f k)
  let t := if ok then s.setF k (s.f k - n) else s
  let x := t.port r.port
  t.setPort r.port { x with ingress := x.ingress ++ [{ r with credited := ok, id := x.nextId }], nextId := x.nextId + 1 }

/-- A later SEQ lies ahead of an earlier one, within half the modulus (R209). -/
def ahead (m old new : Nat) : Bool := decide (0 < (new + m - old % m) % m ∧ (new + m - old % m) % m < m / 2)

/-- ACK_SEQ advances to the codeword that holds the first byte not yet checked, never back (R210). -/
def State.advanceAck (s : State) (p seq : Nat) : State :=
  let x := s.port p
  if ahead (2 ^ 24) x.ackSeq seq then s.setPort p { x with ackSeq := seq } else s

/-- Take what `parseStream` found in a buffer that starts at codeword `seq`, byte `off`, and came at `ticks`. -/
def State.takeParsed (s : State) (p seq off : Nat) (ticks : List (Nat × Tick)) (q : Parsed) : State :=
  let a := q.requests.foldl State.pushReq s
  let seq' := (seq + (off + q.used) / 320) % 2 ^ 24
  let x := a.port p
  let b := a.setPort p { x with rxBuf := q.rest, rxSeq := seq', rxOff := (off + q.used) % 320, badItem := q.bad,
                                rxTicks := if q.rest.isEmpty then [] else rebase ticks q.used,
                                failedAt := if q.used = 0 then x.failedAt else none,
                                longCounted := q.used == 0 && x.longCounted,
                                pwrReq := if q.requests.isEmpty then x.pwrReq else none,
                                pwrAgreed := if q.requests.isEmpty then x.pwrAgreed else none }
  b.advanceAck p (if q.rest.isEmpty then x.rxNext else seq')

/-- A data codeword accepted in sequence. -/
def State.acceptCodeword (s : State) (p : Nat) (tick : Tick) (data : List Byte) : State :=
  let x := s.port p
  let fresh := x.rxBuf.isEmpty
  let seq := if fresh then x.rxNext else x.rxSeq
  let off := if fresh then x.resume else x.rxOff
  let buf := x.rxBuf ++ data.drop x.resume
  let ticks := x.rxTicks ++ [(x.rxBuf.length, tick)]
  let a := s.setPort p { x with rxNext := (x.rxNext + 1) % 2 ^ 24, resume := 0 }
  a.takeParsed p seq off ticks (parseStream p ticks (buf.length + 1) buf 0 [])

/-- A link update with NAK = 1 (R212), sent once the replay buffer has room for it (R211). -/
def State.sendNak (s : State) (p : Nat) : State :=
  if (s.portHot p || s.portWarm p) && s.replayRoom p 16 then
    ((s.bump (rlReplayNaks p) 16).setPort p { s.port p with nakDue := false }).sendUpdate p true
  else s.setPort p { s.port p with nakDue := true }

/-- PAM4 symbols in which two 10-bit symbols differ (R190). -/
def pairErrors (a b : Nat) : Nat := ((List.range 5).filter (fun i => a / 4 ^ i % 4 != b / 4 ^ i % 4)).length

/-- The symbols that a decoder has corrected: their places, and the PAM4 symbol errors in each. -/
def corrections (received : List Nat) (q : List Nat × List Nat) : List (Nat × Nat) :=
  q.2.map (fun i => (i, pairErrors (received.getD i 0) (q.1.getD i 0)))

/-- Pre-FEC symbol errors of a corrected codeword count on the lanes they came by (R188, R190). -/
def State.countSer (s : State) (p : Nat) (places : List (Nat × Nat)) : State :=
  let ls := s.logicalLanes p
  places.foldl (fun t i =>
    match ls[i.1 % ls.length]? with
    | none => t
    | some l => t.setLane p l { t.lane p l with ser := min ((t.lane p l).ser + i.2) (2 ^ 32 - 1) }) s

/-- The FEC counts of a codeword (R231): `none` is an uncorrectable one, a list the symbols corrected. -/
def State.countFec (s : State) (p : Nat) : Option (List (Nat × Nat)) → State
  | none => s.bump (rlFecStatUncorrCw p) 16
  | some [] => s
  | some places => ((s.bump (rlFecStatCorrCw p) 16).addF (rlFecSymCorrSym p) places.length (2 ^ 32 - 1)).countSer p places

/-- The recorded tick of a codeword: that at which it leaves the deserialiser, less the port's fixed latency (R141). -/
def State.stamp (s : State) (p : Nat) (c : Codeword) : Tick := c.tick - s.f (rlLatFixed p)

/-- The SEQ that a resync codeword names (R192). -/
def resyncSeq (b : List Byte) : Option Nat :=
  if b.take 32 == (List.replicate 16 [(0xC3 : Byte), 0x3C]).flatten && bufNat b 35 1 == 0 && crc32 ((b.drop 32).take 4) == bufNat b 36 4 then
    some (bufNat b 32 3)
  else none

/-- A resync codeword (R213). The SEQ of the first codeword not acknowledged ends dropping; any other SEQ is counted, and dropping goes on.
DESIGN CHOICE (log entry 47): a receiver that is not dropping takes a resync naming its ACK_SEQ as the replay it announces, and expects that
codeword again from its resume point; after one naming another SEQ it drops what follows and asks for its own ACK_SEQ by a NAK, so that no
request is taken twice (R173). -/
def State.receiveResync (s : State) (p seq : Nat) : State :=
  let x := s.port p
  if seq = x.ackSeq then
    (if x.dropping then s.setPort p { x with dropping := false, rxNext := seq } else s.dropPartial p)
  else
    let a := s.bump (rlProtoErrResync p) 8
    if x.dropping then a
    else
      let b := a.dropPartial p
      (b.setPort p { b.port p with dropping := true }).sendNak p

/-- A data codeword that can be decoded. Bytes that follow an item which has failed its CRC are dropped at its first failure
(R212), and kept at its second, until REQUEST_CRC_FAIL has dealt with it. -/
def State.receiveData (s : State) (p : Nat) (tick : Tick) (data : List Byte) : State :=
  let x := s.port p
  if !x.badItem then s.acceptCodeword p tick data
  else if x.failedAt == some (x.rxSeq, x.rxOff) then
    s.setPort p { x with rxBuf := x.rxBuf ++ data, rxTicks := x.rxTicks ++ [(x.rxBuf.length, tick)], rxNext := (x.rxNext + 1) % 2 ^ 24 }
  else s

/-- A codeword that is not a framing codeword (R189, R192, R212): counted while the port has its lanes in use; its bytes count once it is
ACTIVE. An uncorrectable one is dropped with those after it, and a NAK names it; after a first CRC failure, which has a NAK of its own, it is
dropped like every byte after the failure. -/
def State.receiveSlot (s : State) (p : Nat) (c : Codeword) : State :=
  let q := rsDecode c.symbols
  let a := (s.reach c.tick).countFec p (q.map (corrections c.symbols))
  if !s.portActive p then a
  else
    let b := a.adaptDfe p
    let x := b.port p
    match q with
    | none => if x.dropping || (x.badItem && x.failedAt != some (x.rxSeq, x.rxOff)) then b else (b.setPort p { x with dropping := true, ackSeq := x.rxNext }).sendNak p
    | some w =>
      let data := symbolBytes (w.1.take 256)
      match resyncSeq data with
      | some seq => b.receiveResync p seq
      | none => if x.dropping then b else b.receiveData p (b.stamp p c) data

/-- The lanes of a port are in use: it receives codewords. -/
def State.receives (s : State) (p : Nat) : Bool := decide (p ≤ 15 ∧ 7 ≤ s.linkState p ∧ s.linkState p ≤ 9)

/-- DATA_CODEWORD_RX (R189, R192, R212). A codeword with the content of a resync codeword is one. -/
def execDataCodewordRx (p : Nat) (c : Codeword) (s : State) : Host.Outcome State Fault Refusal :=
  if s.receives p then .next (s.receiveSlot p c) else .next s

/-- The fixed part of a framing codeword (R191). -/
def framingOk (b : List Byte) : Bool :=
  b.take 16 == (List.replicate 8 [(0x4B : Byte), 0xB4]).flatten && crc32 (b.take 24) == bufNat b 24 4

/-- FRAMING_CODEWORD_RX (R191): FEC_LOCK finds framing on three framing codewords without error, each the next after the one before. -/
def execFramingCodewordRx (p : Nat) (c : Codeword) (s : State) : Host.Outcome State Fault Refusal :=
  if !s.receives p then .next s
  else
    let q := rsDecode c.symbols
    let a := (s.reach c.tick).countFec p (q.map (corrections c.symbols))
    let x := a.port p
    if s.linkState p ≠ 7 then .next (a.adaptDfe p)
    else
      match q with
      | some (w, []) =>
        let data := symbolBytes (w.take 256)
        let n := bufNat data 16 4
        if framingOk data then
          .next (a.setPort p { x with framings := if x.framings ≠ 0 ∧ n = (x.lastFraming + 1) % 2 ^ 32 then x.framings + 1 else 1,
                                      lastFraming := n })
        else .next (a.setPort p { x with framings := 0 })
      | _ => .next (a.setPort p { x with framings := 0 })

/-- RESYNC_CODEWORD_RX (R192, R213): it has no SEQ of its own. One that cannot be decoded cannot be told from a data codeword. -/
def execResyncCodewordRx (p : Nat) (c : Codeword) (s : State) : Host.Outcome State Fault Refusal :=
  if s.receives p then .next (s.receiveSlot p c) else .next s

/-! ### Link updates and replay (R209 to R214) -/

/-- A replay (R213): the codeword being sent is finished, then a resync codeword and copies of the kept codewords are sent. -/
def State.replay (s : State) (p : Nat) : State := ((s.bump (rlReplayReplays p) 15).flushTx p).resend p

/-- A codeword before `seq` is acknowledged. -/
def before (seq k : Nat) : Bool := ahead (2 ^ 24) k seq

/-- An ACK_SEQ that lies ahead is taken (R209, R210, R218): kept codewords before it are released, and a NAK that waits for room is sent. -/
def State.takeAck (s : State) (p ack : Nat) : State :=
  let x := s.port p
  if ahead (2 ^ 24) x.acked ack then
    let a := s.setPort p { x with acked := ack, kept := x.kept.filter (fun k => !before ack k.1),
                                  keptCw := x.keptCw.filter (fun k => !before ack k.1), replays := 0 }
    let b := if (x.notice.map (before ack)).getD false then a.endNotice p else a
    let c := if x.nakDue && b.portActive p then b.sendNak p else b
    c.enterPower p
  else s

/-- Return counters that lie ahead give credits back (R207, R209). -/
def State.takeCredits (s : State) (p c2 c3 : Nat) : State :=
  let x := s.port p
  let n2 := if ahead 4096 x.seen2 c2 then (c2 + 4096 - x.seen2) % 4096 else 0
  let n3 := if ahead 4096 x.seen3 c3 then (c3 + 4096 - x.seen3) % 4096 else 0
  ((s.addF (rlTxCreditVc2 p) n2 4095).addF (rlTxCreditVc3 p) n3 4095).setPort p
    { x with seen2 := if n2 = 0 then x.seen2 else c2, seen3 := if n3 = 0 then x.seen3 else c3 }

/-- A link update is 16 B that start with 0xF1 and pass CHECK. -/
def updateOk (b : List Byte) : Bool := b.length == 16 && bufNat b 0 1 == 0xF1 && crc16 (b.take 14) == bufNat b 14 2

/-- LINK_UPDATE_RX (R209, R213): a NAK starts a replay unless its ACK_SEQ is stale. -/
def execLinkUpdateRx (p : Nat) (b : List Byte) (s : State) : Host.Outcome State Fault Refusal :=
  if 15 < p ∨ updateOk b = false ∨ (s.portActive p = false ∧ (s.port p).notice = none) then .next s
  else
    let ack := bufNat b 2 3
    let a := (s.takeCredits p (bufNat b 6 6 / 2 ^ 24 % 4096) (bufNat b 6 6 / 2 ^ 36 % 4096)).takeAck p ack
    if bitOf (bufNat b 1 1) 0 && (a.port p).acked == ack && a.portActive p then .next (a.replay p) else .next a

/-- LINK_UPDATE_SEND (R210): sent with the lanes running, WARM left first, and room in the replay buffer. -/
def execLinkUpdateSend (p : Nat) (s : State) : Host.Outcome State Fault Refusal :=
  if 15 < p ∨ (s.portHot p || s.portWarm p) = false ∨ s.replayRoom p 16 = false then .next s
  else if (s.port p).nakDue then .next (s.sendNak p)
  else .next (s.sendUpdate p false)

/-- NAK_RETRY_TIMEOUT (R214). -/
def execNakRetryTimeout (p : Nat) (s : State) : Host.Outcome State Fault Refusal :=
  if s.portActive p && (s.port p).dropping then .next (s.sendNak p) else .next s

/-- REPLAY_TIMEOUT (R214): the eighth replay without progress is reported. -/
def execReplayTimeout (p : Nat) (s : State) : Host.Outcome State Fault Refusal :=
  let x := s.port p
  if s.portActive p = false ∨ x.keptCw = [] then .next s
  else
    let a := (s.setPort p { x with replays := min (x.replays + 1) 9 }).replay p
    if x.replays = 7 then
      .next ((a.setF (rlReplayStalled p) 1).report { pre := .rl, code := 0x01, severity := 1, vector := some 0, unitKind := 5, unit := p })
    else .next a

/-! ### Control flits (R215 to R219) -/

/-- An INIT that counts as received (R206, R215): its CRC passes, and it advertises enough. -/
def initOk (b : List Byte) : Bool :=
  b.length == 64 && bufNat b 0 1 == 0xF4 && bufNat b 1 1 == 1 && crc32 (b.take 60) == bufNat b 60 4 &&
    decide (1026 ≤ bufNat b 8 2 % 4096 ∧ 8 ≤ bufNat b 10 2 % 4096)

/-- INIT (R216): the port resumes only when both ends have RESUME = 1. -/
def execInit (p : Nat) (b : List Byte) (s : State) : Host.Outcome State Fault Refusal :=
  if 15 < p ∨ initOk b = false ∨ (s.linkState p ≠ 7 ∧ s.linkState p ≠ 8) then .next s
  else
    let x := s.port p
    let resume := bitOf (bufNat b 12 1) 0 && (x.keep || x.short || x.fast)
    let a := s.setPort p { x with initSeen := true, resuming := resume }
    if resume then
      .next ((a.takeCredits p (bufNat b 19 6 / 2 ^ 24 % 4096) (bufNat b 19 6 / 2 ^ 36 % 4096)).takeAck p (bufNat b 13 3))
    else .next (a.setFs [(rlTxCreditVc2 p, bufNat b 8 2 % 4096), (rlTxCreditVc3 p, bufNat b 10 2 % 4096)])

/-- DOWN_NOTICE_TIMEOUT (R218). -/
def execDownNoticeTimeout (p : Nat) (s : State) : Host.Outcome State Fault Refusal := .next (s.endNotice p)

/-! ### Replies (R201 to R208, R340) -/

/-- Bytes of a reply. -/
def Reply.bytes (r : Reply) : Nat := 16 + r.payload.length

/-- Place a reply in the egress store; the room kept for it is given up. -/
def State.answer (s : State) (r : Req) (status arg : Nat) (payload : List Byte) (packets : Nat := 0) (measured : Option Nat := none) : State :=
  let y : Reply := { opcode := r.opcode + 0x80, cls := r.b1 % 16, status := status, arg := arg, tag := r.tag, object := r.object,
                     payload := payload, packets := packets, measured := measured.map (fun t => (t, r.tick)), spoiled := false }
  let x := s.port r.port
  (s.setPort r.port { x with egress := x.egress ++ [y], rooms := x.rooms.filter (fun k => k.1 != r.id) }).addF (rlEgressBytes r.port) y.bytes (2 ^ 18 - 1)

/-- The latency of a measured table's reply, in 20 ns bins (R340). -/
def State.measureLatency (s : State) (r : Reply) : State :=
  match r.measured with
  | none => s
  | some m =>
    if s.on teLatCfgEn && s.f teLatCfgTable == m.1 then
      let b := min ((s.now - m.2) / 80) 63
      { s with latency := Map.set (fun _ => 0) s.latency b (min (Map.get (fun _ => 0) s.latency b + 1) (2 ^ 32 - 1)) }
    else s

/-- REPLY_SEND (R179, R205, R211): the oldest reply is sent once the port is ACTIVE out of BANKED, holds its VC2 credits and has
replay room. -/
def execReplySend (p : Nat) (s : State) : Host.Outcome State Fault Refusal :=
  match (s.port p).egress with
  | [] => .next s
  | r :: rest =>
    let n := creditsOf r.bytes
    if (s.portHot p || s.portWarm p) && decide (n ≤ s.f (rlTxCreditVc2 p)) && s.replayRoom p r.bytes then
      let b := (s.setPort p { s.port p with egress := rest }).setFs
        [(rlTxCreditVc2 p, s.f (rlTxCreditVc2 p) - n), (rlEgressBytes p, s.f (rlEgressBytes p) - r.bytes)]
      .next ((b.sendItem p (.reply r)).measureLatency r)
    else .next s

/-! ### What every request meets (R198, R204 to R208, R220, R221, R226) -/

/-- Credits of a request go back to its sender (R207), but none during the quiesce of a preserving reset (R101). -/
def State.returnCredits (s : State) (r : Req) : State :=
  let n := creditsOf (16 + r.length)
  let x := s.port r.port
  if s.resetting && s.pilot.nextKind != some .clearing then s else
  match reqChannel r with
  | 1 => s.setPort r.port { x with ret1 := (x.ret1 + n) % 4096 }
  | 3 => s.setPort r.port { x with ret3 := (x.ret3 + n) % 4096 }
  | _ => s.setPort r.port { x with ret0 := (x.ret0 + n) % 4096 }

/-- A request leaves the ingress buffer, executed, discarded or refused. Credits it never had do not go back, nor those of a link state that
has been discarded since. -/
def State.takeReq (s : State) (r : Req) : State :=
  let x := s.port r.port
  if !x.ingress.contains r then s
  else
    let t := s.setPort r.port { x with ingress := x.ingress.erase r }
    if !r.credited || decide (r.id < x.firstId) then t
    else
      let k := rxFree r.port (reqChannel r)
      (t.setF k (min (t.f k + creditsOf (16 + r.length)) 4095)).returnCredits r

/-- The objects whose requests keep stream order (R221): queues from 0, tables from 2²⁰. -/
def reqObjects (r : Req) : List Nat :=
  if 1 ≤ r.opcode ∧ r.opcode ≤ 5 then [r.object]
  else if r.opcode = 0x11 then (r.payload.take (if r.arg = 0 then 1 else r.arg)).map (fun b => 2 ^ 20 + b.toNat)
  else if 0x10 ≤ r.opcode ∧ r.opcode ≤ 0x1A then [2 ^ 20 + r.object]
  else []

/-- Requests of a port that have not taken effect, in stream order as far as they wait. -/
def Port.unfinished (x : Port) : List Req := x.awaiting ++ x.ingress

/-- A command with this opcode and these parameter bytes changes at its doorbell tick what the request meets: the queues it names (R275),
the table it creates or deletes (R335), the pool that admits an ENQ (R286), or the units that serve it, which a CULLET_ADD may take away
(R581). -/
def changesFor (op params : Nat) (r : Req) : Bool :=
  let first := params % 2 ^ 32
  if [0x140, 0x141, 0x142, 0x150].contains op then
    decide (1 ≤ r.opcode ∧ r.opcode ≤ 5) && decide (first ≤ r.object ∧ r.object < first + params / 2 ^ 32 % 2 ^ 32)
  else if op = 0x180 ∨ op = 0x181 then (reqObjects r).contains (2 ^ 20 + params % 256)
  else if op = 0x282 then !(reqObjects r).isEmpty || r.opcode == 0x30
  else op == 0x1C0 && r.opcode == 1

/-- What one ring has pending at or before a tick may change what the request meets: a doorbell whose entries are not fetched yet, an entry
that is fetched and not started, or a command in execution. Once a reset has been accepted, no further entry starts (R483). -/
def Ring.changes (x : Ring) (resetting : Bool) (r : Req) : Bool :=
  (!resetting &&
    ((x.doorbells.any (fun d => decide (d.2 ≤ r.tick)) && !(reqObjects r).isEmpty) ||
      x.fetched.any (fun e => decide (e.tick ≤ r.tick) && changesFor e.opcode e.params r))) ||
  x.live.any (fun l => decide (l.tick ≤ r.tick) && changesFor l.opcode l.params r)

/-- R46: a control command with a doorbell tick not after the request's has not yet made the change that the request is to meet. -/
def State.changeWaits (s : State) (r : Req) : Bool := (List.range 16).any (fun n => (s.ring n).changes s.resetting r)

/-- A port may still give an item stamped before tick `t` (R46, R268, R275): one that it is receiving, or one that has not left the
deserialiser by now, whose stamp lies before now by the port's fixed latency (R141). Bytes that a NAK has acknowledged are kept while the link
is down, and their item goes on when the port resumes (R228). -/
def State.receivingBefore (s : State) (p : Nat) (t : Tick) : Bool :=
  ((s.portActive p || (s.port p).short || (s.port p).keep) && !(s.port p).rxBuf.isEmpty && decide (tickAt (s.port p).rxTicks 0 < t)) ||
    (s.portActive p && decide (s.now < t + s.f (rlLatFixed p)))

/-- Every data-path request stamped before `t` has come, and has taken effect or been refused (R46). -/
def State.servedBefore (s : State) (t : Tick) : Bool :=
  (List.range 16).all (fun p => !s.receivingBefore p t && (s.port p).unfinished.all (fun r => decide (t ≤ r.tick)))

/-- An ENQ, a DEQ or a DROP_HEAD: they use blocks of the pool or return them. -/
def poolOp (r : Req) : Bool := [0x01, 0x02, 0x04].contains r.opcode

/-- A request waits for a control change alone, which holds back the queues it names and no others (R275). -/
def State.changeHolds (s : State) (r : Req) : Bool :=
  s.queueChanges.any (fun c => decide (c.tick ≤ r.tick ∧ c.first ≤ r.object ∧ r.object < c.first + c.count)) || s.changeWaits r

/-- The pool's admission keeps a port's stream order (R42, R43): an ENQ is not admitted before an earlier ENQ, DEQ or DROP_HEAD of its port,
nor are those made before an earlier ENQ, unless that one is admitted already or a control change holds it. -/
def State.poolOrder (s : State) (q r : Req) : Bool :=
  poolOp q && poolOp r && (q.opcode == 1 || r.opcode == 1) && !(s.port r.port).assembly.contains q && !s.changeHolds q

/-- R221: an earlier request of the port to the same object has not taken effect; or an earlier MARK, which takes its place in
the stream before any request after it (R224, R361), has not been recorded, an ECHO apart (R225); or an earlier operation on the pool has not
(R42); or an earlier control command has not (R46). -/
def State.behindEarlier (s : State) (r : Req) : Bool :=
  (s.port r.port).unfinished.any (fun q => decide (q.id < r.id) &&
    ((q.opcode == 0x20 && !q.corrupt && r.opcode != 0x21) || (reqObjects q).any (fun o => (reqObjects r).contains o) || s.poolOrder q r)) ||
    s.changeWaits r

/-- Bytes of the egress store kept for the replies of requests that have started (R208). -/
def Port.roomKept (x : Port) : Nat := (x.rooms.map (·.2)).sum

/-- Room is kept for the longest reply of a request that has started and is answered later. -/
def State.keepRoom (s : State) (r : Req) (longest : Nat) : State :=
  let x := s.port r.port
  s.setPort r.port { x with rooms := (r.id, longest) :: x.rooms }

/-- A request that asked for no reply has taken effect: its room is given up. -/
def State.dropRoom (s : State) (r : Req) : State :=
  let x := s.port r.port
  s.setPort r.port { x with rooms := x.rooms.filter (fun k => k.1 != r.id) }

/-- R208: the egress store has room for the longest reply, beside those of the requests that have started. -/
def State.egressRoom (s : State) (p longest : Nat) : Bool := decide (s.f (rlEgressBytes p) + (s.port p).roomKept + longest ≤ 65536)

/-- The opcodes of R197. -/
def listedOpcode (n : Nat) : Bool := [0x01, 0x02, 0x03, 0x04, 0x05, 0x10, 0x11, 0x18, 0x19, 0x1A, 0x20, 0x21, 0x30].contains n

/-- Header bytes that the opcode leaves reserved are 0, and CLASS is at most 13 (R226). REPLY is never reserved. FLAGS bits 3:1 of DEQ
above 4 are refused alike (R257). An opcode that R197 does not list has a row of its own. -/
def headerOk (r : Req) : Bool :=
  let flags := r.b2 / 2
  let flagsOk := match r.opcode with
    | 0x02 => decide (flags ≤ 4)
    | 0x05 => decide (flags ≤ 1)
    | _ => flags == 0
  let argOk := [0x01, 0x02, 0x03, 0x04, 0x10, 0x11, 0x18, 0x19, 0x1A].contains r.opcode || r.arg == 0
  !listedOpcode r.opcode || (decide (r.b1 < 64) && decide (r.b1 % 16 < 14) && flagsOk && argOk)

/-- A queue operation or SNAPSHOT_REQ (R581). -/
def isQueueOp (r : Req) : Bool := decide (1 ≤ r.opcode ∧ r.opcode ≤ 5) || r.opcode == 0x30

/-- A refusal that RL_PROTO_ERR counts. -/
def State.refuseLength (s : State) (r : Req) : State :=
  (s.bump (rlProtoErrLength r.port) 8).answer r stBadLength 0 []

/-- What refuses a request before its opcode's own rules: its CRC has failed twice (R199), its sender lacked the credits or a reserved field
is set (R226), every queue-manager slice is culled (R581), or the queue manager is held in reset (R137). -/
def State.early (s : State) (r : Req) : Option Nat :=
  if r.corrupt then some stPacketCorrupt
  else if !r.credited then some stNotPermitted
  else if !headerOk r then some stBadParam
  else if isQueueOp r && s.qmGone then some stResourceCulled
  else if s.heldInReset 59 && isQueueOp r then some stInternalFault
  else none

/-- Such a refusal, with its counts (R234, R279, R339: step 1 of R320 is among these). -/
def State.refuseEarly (s : State) (r : Req) (st : Nat) : State :=
  let t := if st = stNotPermitted then s.bump (rlProtoErrCredit r.port) 7 else s
  let u := if st = stNotPermitted ∧ 1 ≤ r.opcode ∧ r.opcode ≤ 5 then t.bump qmRefuseState 32 else t
  let v := if [0x10, 0x11, 0x18, 0x19, 0x1A].contains r.opcode then u.bump teRefused 32 else u
  v.answer r st 0 []

/-- No queue-manager slice can take the request now, though not all are culled: the others are under test, and no result changes meanwhile
(R577). -/
def State.slicesTested (s : State) (r : Req) : Bool := isQueueOp r && !s.qmGone && (s.queueSlice r.object).isNone

/-- A request that the ingress buffer holds can be taken: the device is not quenched, no earlier request to the same object waits, and a
queue-manager slice can serve it. -/
def State.mayTake (s : State) (r : Req) : Bool :=
  !s.halted && (s.port r.port).ingress.contains r && !s.quenched && !s.behindEarlier r && !s.slicesTested r

/-- The common course of a request. It waits in the ingress buffer while `mayTake` says so, while its longest reply has no room (R208), or
while `hold` says so. The checks of `early` come before the opcode's own rules, which `own` makes. -/
def runRequest (r : Req) (longest : Nat) (hold : State → Bool) (own : State → State) (s : State) : Host.Outcome State Fault Refusal :=
  if !s.mayTake r then .next s
  else
    match s.early r with
    | some st => if s.egressRoom r.port 16 then .next ((s.takeReq r).refuseEarly r st) else .next s
    | none => if s.egressRoom r.port longest && !hold s then .next (own (s.takeReq r)) else .next s

/-- UNKNOWN_DATA_OPCODE (R226). -/
def execUnknownDataOpcode (r : Req) (s : State) : Host.Outcome State Fault Refusal :=
  if listedOpcode r.opcode then .next s
  else runRequest r 16 (fun _ => false) (fun t => (t.bump (rlProtoErrOpcode r.port) 8).answer r stBadOpcode 0 []) s

/-- ECHO (R225): answered with its payload and its tick. -/
def execEcho (r : Req) (s : State) : Host.Outcome State Fault Refusal :=
  runRequest r (if 48 < r.length then 16 else 24 + r.length) (fun _ => false) (fun t =>
    if 48 < r.length then t.refuseLength r else t.answer r stOk 0 (r.payload ++ leBytes 8 r.tick)) s

/-- MARK_PASS (R224): the oldest MARK passes when every request before it has taken effect, and its own reply, if it asks for one, has
room. -/
def execMarkPass (p : Nat) (s : State) : Host.Outcome State Fault Refusal :=
  let x := s.port p
  match x.marks with
  | [] => .next s
  | m :: rest =>
    if m.before.any (fun r => x.unfinished.any (fun q => q.id == r.id)) || (bitOf m.req.b2 0 && !s.egressRoom p 16) then .next s
    else
      let a := (s.setPort p { x with marks := rest }).pulseSource (0x500 + p)
      .next (if bitOf m.req.b2 0 then a.answer m.req stOk 0 [] else a)

/-! ### CRC failures (R199, R227) -/

/-- The item at the head of the buffer has failed its CRC for the first time: a NAK from its first byte. DESIGN CHOICE (log entry 47): an item
whose first byte R193 does not list, which is treated as a CRC failure (R226), counts in RL_CRC.FIRST too. -/
def State.failFirst (s : State) (p : Nat) (long : Bool) : State :=
  let x := s.port p
  let a := if long then s.bump (rlProtoErrLength p) 8 else s
  let b := a.setPort p { x with rxBuf := [], rxTicks := [], badItem := false, failedAt := some (x.rxSeq, x.rxOff), longCounted := long, dropping := true,
                                ackSeq := x.rxSeq, rxNext := x.rxSeq, resume := x.rxOff }
  (b.bump (rlCrcFirst p) 16).sendNak p

/-- The replayed copy has failed again and its end is known: it takes its place in the stream as a corrupt request, which is answered with
PACKET_CORRUPT in order (R199, R222), and reading goes on with the next item. -/
def State.failAgain (s : State) (p : Nat) : State :=
  let x := s.port p
  let r := { reqOf p (tickAt x.rxTicks 0) x.rxBuf with corrupt := true }
  let rest := x.rxBuf.drop (16 + r.length)
  let off := x.rxOff + 16 + r.length
  let ticks := rebase x.rxTicks (16 + r.length)
  let a := (s.bump (rlCrcCorrupt p) 16).setPort p { x with rxBuf := [], rxTicks := [], badItem := false, failedAt := none, longCounted := false }
  (a.pushReq r).takeParsed p ((x.rxSeq + off / 320) % 2 ^ 24) (off % 320) ticks (parseStream p ticks (rest.length + 1) rest 0 [])

/-- The next item cannot be found (R227). A LENGTH above 16 384 that its first copy did not show counts now (R234). -/
def State.failFatal (s : State) (p : Nat) (long : Bool) : State :=
  let x := s.port p
  let c := if long && !x.longCounted then s.bump (rlProtoErrLength p) 8 else s
  let a := (c.setPort p { x with rxBuf := [], rxTicks := [], badItem := false, failedAt := none, longCounted := false }).setF (rlProtoErrFatal p) 1
  let b := a.report { pre := .rl, code := 0x02, severity := 1, vector := some 3, unitKind := 5, unit := p }
  (b.sendNotice p 4).newSeries p false

/-- REQUEST_CRC_FAIL (R199, R226, R227). A second copy is discarded once all of it has come. -/
def execRequestCrcFail (p : Nat) (s : State) : Host.Outcome State Fault Refusal :=
  let x := s.port p
  if 15 < p ∨ x.badItem = false ∨ x.rxBuf = [] then .next s
  else
    let isReq := decide (1 ≤ bufNat x.rxBuf 0 1 ∧ bufNat x.rxBuf 0 1 ≤ 0x30)
    let n := bufNat x.rxBuf 8 4 % 2 ^ 15
    let long := isReq && decide (16 ≤ x.rxBuf.length ∧ 16384 < n)
    if x.failedAt ≠ some (x.rxSeq, x.rxOff) then .next (s.failFirst p long)
    else if isReq && !long then (if x.rxBuf.length < 16 ∨ x.rxBuf.length < 16 + n then .next s else .next (s.failAgain p))
    else .next (s.failFatal p long)

end Sys2Proof.Machine
end

