-- ==== Sys2Proof/Machine/Pool.lean ====
section
/-!
DEFINITION. The division of memory, the eligible list, and where a buffer block goes (R281 to R292, R302 to R304, R439).
-/
namespace Sys2Proof.Machine

/-! ### Division (R281 to R285) -/

/-- Rows of one bank: a row is 2 KiB, a pseudo-channel has 16 banks (R281). -/
def State.bankRows (s : State) : Nat := s.pcBytes / 32768

/-- Rows of the device region in each bank of its four pseudo-channels (R282). -/
def State.regionRows (s : State) : Nat := if s.grade = 0 then 2048 else 1024

/-- The parts of the device region in MiB (R283): header and seal word, firmware copy, table journal, table definitions with version roots,
split and retired-bank list, free-row lists, allocation bitmap, and what is reserved. -/
def State.regionParts (s : State) : List Nat :=
  if s.grade = 0 then [1, 16, 28, 16, 128, 4, 63] else if s.grade = 1 then [1, 16, 28, 16, 64, 2, 1] else [1, 16, 28, 16, 32, 1, 34]

/-- Device region in MiB (R282): its parts together. -/
def State.regionMib (s : State) : Nat := s.regionParts.sum

/-- Default and largest T in units of 256 MiB (R285). -/
def State.defaultT (s : State) : Nat := if s.grade = 0 then 32 else if s.grade = 1 then 16 else 8
def State.largestT (s : State) : Nat := if s.grade = 0 then 250 else if s.grade = 1 then 123 else 59

/-- Rows of 2 KiB in 256 MiB. -/
def unitRows : Nat := 131072

/-- Banks of a pseudo-channel that are retired. -/
def State.retiredBanks (s : State) (pc : Nat) : List Nat := (s.marver.retired.filter (fun x => x.1 == pc)).map (·.2)

def State.bankRetired (s : State) (pc bank : Nat) : Bool := s.marver.retired.contains (pc, bank)

/-- Every bank is retired. -/
def State.pcRetired (s : State) (pc : Nat) : Bool := (List.range 16).all (s.bankRetired pc)

/-- Rows of pool memory on a pseudo-channel. -/
def State.pcPoolRows (s : State) (pc : Nat) : Nat :=
  if !s.pcLive pc then 0
  else (16 - (s.retiredBanks pc).length) * (s.bankRows - 3) - (if s.marver.region.contains pc then 16 * s.regionRows else 0)

/-- Rows of pool memory less those lost (R304). -/
def State.poolRows (s : State) : Nat := ((List.range 64).map s.pcPoolRows).sum

/-- Pseudo-channels culled or wholly retired. -/
def State.outPcs (s : State) : Nat := popcount 64 (maskOf 64 (fun n => !s.pcLive n || s.pcRetired n))

/-- The buffer pool keeps 1 GiB: T is lowered in steps as far as the rows in use allow (R304). -/
def lowerT (rows used : Nat) : Nat → Nat
  | 0 => 0
  | t + 1 => if rows < (t + 1) * unitRows + 524288 ∧ used ≤ t * unitRows then lowerT rows used t else t + 1

/-- Dies at 4× refresh, the hottest first, the lower-numbered layer first among equals (R302). -/
def State.hotDies (s : State) : List Nat :=
  let temp := fun l => (Map.get (fun _ => (⟨0, 0, 0, 0, 0⟩ : Layer)) s.layers l).temp
  let hot := (List.range 17).filter (fun l => l != 0 && decide (l ≤ s.dies) && s.f (mcPcRefreshRate ((l - 1) * s.pcsPerDie)) == 2)
  sortBy (fun a b => decide (temp b < temp a) || (temp a == temp b && decide (a ≤ b))) hot

/-- Remove hot dies while E stays at or above E_MIN. -/
def State.excludeDies (s : State) (base : Nat) : List Nat → Nat → Nat
  | [], out => out
  | l :: r, out =>
    let die := maskOf 64 (fun n => bitOf base n && decide (s.layerOf n = l))
    if s.eff mvCfg2EMin + popcount 64 die ≤ popcount 64 (base - out) then s.excludeDies base r (out + die) else s.excludeDies base r out

/-- Recompute L, the pools and the registers that show them after a change of refresh, culling, retirement or T. -/
def State.syncPools (s : State) : State :=
  let base := maskOf 64 (fun n => s.pcLive n && !s.pcRetired n)
  let dies := s.hotDies
  let out := if s.on mvCfg2ThermExclEn then s.excludeDies base dies 0 else 0
  let left := maskOf 64 (fun n => bitOf base n && !bitOf out n && dies.contains (s.layerOf n))
  let rows := s.poolRows
  let t := lowerT rows (s.f mvTableUsedRows) (s.f mvSplitTUnits)
  s.setFs [(mvEligible, base - out), (mvStatusEligible, popcount 64 (base - out)), (mvThermExcl, out),
    (mvStatusFloorHit, b2n (left != 0)), (mvStatusOut, s.outPcs), (mvPoolRows, rows), (mvRetiredBanks, s.marver.retired.length),
    (mvSplitTUnits, t), (qmPoolLimit, (rows - t * unitRows) * 2048)]

/-- The eligible list L (R288). -/
def State.eligible (s : State) : List Nat := (List.range 64).filter (fun n => bitOf (s.f mvEligible) n)

/-! ### Free-row lists (R283, R290) -/

/-- The first row of a bank above pool memory (R282). -/
def State.bankTop (s : State) (pc : Nat) : Nat := s.bankRows - (if s.marver.region.contains pc then s.regionRows else 0)

/-- The first row of a bank never taken from its list; rows 0 to 2 are in no list (R281). DESIGN CHOICE (log entry 49): after the fill the
list holds the rows in rising order. -/
def rowCold (_ : Nat) : Nat := 3
def State.freeNext (s : State) (pc bank : Nat) : Nat := Map.get rowCold s.marver.freeNext (16 * pc + bank)

/-- Rows of a bank that have been returned, the first returned first. -/
def State.freed (s : State) (pc bank : Nat) : List Nat := Map.get (fun _ => []) s.marver.freed (16 * pc + bank)

/-- The bank's free-row list is not empty. -/
def State.bankFree (s : State) (pc bank : Nat) : Bool := decide (s.freeNext pc bank < s.bankTop pc) || !(s.freed pc bank).isEmpty

/-- A bank takes no new row: it is retired, or its retirement has been asked for (R303). -/
def State.bankOut (s : State) (pc bank : Nat) : Bool := s.bankRetired pc bank || s.integrity.requested.contains (pc, bank)

/-- The bank after the one last allocated from, banks that take no row and banks without a free row skipped (R290). DESIGN CHOICE (log
entry 49): a pseudo-channel that has not allocated since the fill or a held restart begins at bank 0. -/
def State.chooseBank (s : State) (pc : Nat) : Option Nat :=
  let last := Map.get (fun _ => 15) s.marver.lastBank pc
  ((List.range 16).map (fun k => (last + 1 + k) % 16)).find? (fun b => !s.bankOut pc b && s.bankFree pc b)

/-- The row at the head of the list of a bank of the pseudo-channel is taken (R290). -/
def State.takeRow (s : State) (pc : Nat) : Option (RowAt × State) :=
  match s.chooseBank pc with
  | none => none
  | some b =>
    let m := { s.marver with lastBank := Map.set (fun _ => 15) s.marver.lastBank pc b }
    if s.freeNext pc b < s.bankTop pc then
      some (⟨pc, b, s.freeNext pc b⟩,
        { s with marver := { m with freeNext := Map.set rowCold m.freeNext (16 * pc + b) (s.freeNext pc b + 1) } })
    else
      match s.freed pc b with
      | [] => none
      | r :: l => some (⟨pc, b, r⟩, { s with marver := { m with freed := Map.set (fun _ => []) m.freed (16 * pc + b) l } })

/-- A row goes to the tail of its bank's list (R290). -/
def State.giveRow (s : State) (r : RowAt) : State :=
  { s with marver := { s.marver with freed := Map.set (fun _ => []) s.marver.freed (16 * r.pc + r.bank) (s.freed r.pc r.bank ++ [r.row]) } }

/-- A bank has had a row of it allocated since the fill. -/
def State.everTaken (s : State) (pc bank row : Nat) : Bool := decide (3 ≤ row ∧ row < s.freeNext pc bank)

/-- Marver rebuilds what it holds in the Crucible, and places no new row meanwhile (R421). -/
def State.placingPaused (s : State) : Bool := decide (s.now < s.marver.rebuildTill)

/-! ### Where a buffer block goes (R288 to R291) -/

/-- A pseudo-channel has a free row in a bank that is not retired. -/
def State.pcHasRoom (s : State) (pc : Nat) : Bool := (s.chooseBank pc).isSome

/-- It can take a new block now: no recalibration, and room. -/
def State.pcTakes (s : State) (pc : Nat) : Bool := !s.on (mcPcStatusCalHold pc) && s.pcHasRoom pc

/-- The pseudo-channel of block `bseq` of queue `q`, and whether it is a detour. BSEQ counts modulo 2³² (R243). -/
def State.choosePc (s : State) (q bseq : Nat) : Nat × Bool :=
  let l := s.eligible
  let e := l.length
  let i := ((41 * q) % e + bseq % 2 ^ 32) % e
  let first := l.getD i 0
  if s.pcTakes first then (first, false)
  else
    let order := (List.range e).map (fun k => l.getD ((i + e / 2 + k) % e) 0)
    ((order.find? s.pcTakes).getD first, true)

/-- The next table row (R292): from the pseudo-channel of L whose turn it is, without detours, on a layer other than `avoid`. DESIGN CHOICE
(log entry 49): the turn follows the numbers of L, and a pseudo-channel without a free row is passed over. -/
def State.takeTableRow (s : State) (avoid : Option Nat) : Option (RowAt × State) :=
  let l := s.eligible
  let turn := l.filter (fun n => decide (s.marver.tableTurn < n)) ++ l.filter (fun n => decide (n ≤ s.marver.tableTurn))
  match turn.find? (fun n => s.pcHasRoom n && avoid != some (s.layerOf n)) with
  | none => none
  | some n => (s.takeRow n).map (fun x => (x.1, { x.2 with marver := { x.2.marver with tableTurn := n } }))

/-- Distinct elements of a list. -/
def distinct : List Nat → Nat
  | [] => 0
  | x :: r => if r.contains x then distinct r else distinct r + 1

/-- A block just opened. -/
def tailBlockCold : TailBlock := { bytes := [], first := none, count := 0, pbytes := 0, cls := 0, hint := 0 }

/-- A queue nothing has configured. -/
def queueCold (_ : Nat) : Queue :=
  { configured := false, enabled := false, limit := 0, reserve := 0, nextSeq := 0, drops := 0, packets := [], tail := 0, broken := none,
    ledger := [], places := [], recent := [], badWords := [], badBlocks := [], badContext := false, staged := tailBlockCold }

/-- Queue `q` (R236). -/
def State.queue (s : State) (q : Nat) : Queue := Map.get queueCold s.queues q
def State.setQueue (s : State) (q : Nat) (x : Queue) : State := { s with queues := Map.set queueCold s.queues q x }

/-- Open one block of a queue: placed, and seen by MV_SPREAD (R288 to R291). -/
def State.openBlock (s : State) (q bseq : Nat) : State :=
  let c := s.choosePc q bseq
  match s.takeRow c.1 with
  | none => s
  | some y =>
    let t := y.2
    let x := t.queue q
    let recent := (c.1 :: x.recent).take 64
    let a := if c.2 then t.bump mvSpreadDetours 16 else t
    let b := if recent.length = 64 then a.setF mvSpreadMin (min (a.f mvSpreadMin) (distinct recent)) else a
    { b.setQueue q { x with places := x.places ++ [⟨bseq, c.1, y.1.bank, y.1.row⟩], recent := recent } with placed := true }

/-- Open `n` blocks from `bseq`. -/
def State.openBlocks (s : State) (q : Nat) : Nat → Nat → State
  | _, 0 => s
  | bseq, n + 1 => (s.openBlock q bseq).openBlocks q (bseq + 1) n

/-- Blocks of a queue return to the pool (R262): their rows go to the tails of their lists. -/
def State.releasePlaces (s : State) (gone : List Place) : State :=
  gone.foldl (fun t k =>
    let u := t.giveRow ⟨k.pc, k.bank, k.row⟩
    if t.bankRetired k.pc k.bank then u.setF mvDrainBlocks (u.f mvDrainBlocks - 1) else u) s

/-! ### The head area (R287, R439) -/

/-- The guarantees of R432 that no BUDGET_SET has changed. -/
def budgetCold (c : Nat) : Budget := if c = 14 then ⟨50000, 0, 2⟩ else ⟨0, 0, 0⟩

/-- The guarantees of a class in force. -/
def State.budget (s : State) (c : Nat) : Budget := Map.get budgetCold s.regulator.budgets c

/-- Head-area blocks that a class holds. -/
def State.headHeld (s : State) (c : Nat) : Nat := (s.marver.head.filter (fun h => h.cls == c)).length

/-- A class may prefetch one more block (R439). -/
def State.mayPrefetch (s : State) (c : Nat) : Bool :=
  let free := 16384 - s.marver.head.length
  if s.headHeld c < 64 * (s.budget c).cru then decide (0 < free)
  else
    let r := (((List.range 15).filter (fun d => d != c)).map (fun d => 64 * (s.budget d).cru - s.headHeld d)).sum
    decide (r < free)

/-- When the area is full, the block read longest ago leaves it, but none of a class below its share. -/
def State.evictHead (s : State) : State :=
  if s.marver.head.length < 16384 then s
  else
    match s.marver.head.find? (fun h => decide (64 * (s.budget h.cls).cru ≤ s.headHeld h.cls)) with
    | none => s
    | some h => { s with marver := { s.marver with head := s.marver.head.erase h } }

/-- Prefetch one block, unless it is there or held back. -/
def State.prefetchBlock (s : State) (q bseq cls : Nat) : State :=
  if s.marver.head.any (fun h => h.queue == q && h.bseq == bseq) then s
  else
    let t := s.evictHead
    if t.mayPrefetch cls then { t with marver := { t.marver with head := t.marver.head ++ [⟨q, bseq, cls⟩] } } else t

/-- Blocks of a queue before `bseq` leave the head area; the rest of the queue's become the last read. -/
def State.touchHead (s : State) (q bseq : Nat) : State :=
  let mine := s.marver.head.filter (fun h => h.queue == q && decide (bseq ≤ h.bseq))
  { s with marver := { s.marver with head := s.marver.head.filter (fun h => h.queue != q) ++ mine } }

end Sys2Proof.Machine
end

