-- ==== Sys2Proof/Machine/Channels.lean ====
section
/-!
DEFINITION. The positions of the stack, and how a sector request reaches the queues of its controller (R379, R381 to R385, R431, R435 to
R437, R474).
-/
namespace Sys2Proof.Machine

/-! ### Stack positions (R379, R474) -/

/-- The value of a listed position. A position that nothing has written has no entry. -/
def Memory.read? : List Host.Cell → Nat → Option Byte
  | [], _ => none
  | (k, v) :: r, a => if k = a then some v else Memory.read? r a

/-- Write one position. -/
def Memory.write (m : List Host.Cell) (a : Nat) (v : Byte) : List Host.Cell := Map.put a v m

/-- Write successive positions. -/
def Memory.writeBytes : List Host.Cell → Nat → List Byte → List Host.Cell
  | m, _, [] => m
  | m, a, v :: r => Memory.writeBytes (Memory.write m a v) (a + 1) r

/-- Positions strictly rising, above an optional bound. -/
def Memory.rises : Option Nat → List Host.Cell → Bool
  | _, [] => true
  | b, (k, _) :: r => keyAbove b k && Memory.rises (some k) r

/-- The canonical form: positions strictly rising. An unlisted position has no value of its own, so no entry repeats one. -/
def Memory.wf (m : List Host.Cell) : Bool := Memory.rises none m

/-- The first Crucible position in `mem`. -/
def crucibleBase : Nat := 2 ^ 40

/-- Position of the first byte of a sector (R474). -/
def State.sectorBase (s : State) (pc bank row sector : Nat) : Nat :=
  pc * s.pcBytes + bank * (s.pcBytes / 16) + row * 2048 + sector * 256

/-- Pseudo-channel, bank, row and sector of a DRAM position (R474). -/
def State.pcOf (s : State) (a : Nat) : Nat := a / s.pcBytes
def State.bankOf (s : State) (a : Nat) : Nat := a % s.pcBytes / (s.pcBytes / 16)
def State.rowOf (s : State) (a : Nat) : Nat := a % (s.pcBytes / 16) / 2048
def sectorOf (a : Nat) : Nat := a % 2048 / 256

/-- The S64 itself may have placed something at this position of DRAM since the fill, in the device region or in a row that Marver has
allocated (R282, R306). -/
def State.placedAt (s : State) (k : Nat) : Bool :=
  (s.marver.region.contains (s.pcOf k) && decide (s.bankRows - s.regionRows ≤ s.rowOf k)) ||
    (s.placed && s.everTaken (s.pcOf k) (s.bankOf k) (s.rowOf k))

/-- One byte of the stack: as written; in rows 0 and 1 of a bank the calibration pattern and its complement (R281, R586);
whatever the S64 has placed there, as it has in the Crucible; and otherwise 0 after the fill. Where the PRBS15 sequence starts
is not stated: it is a free value. -/
def State.stackByte (s : State) (k : Nat) : Byte :=
  match Memory.read? s.mem k with
  | some v => v
  | none =>
    if crucibleBase ≤ k then Config.positionByte k
    else if s.rowOf k = 0 then Config.positionByte k
    else if s.rowOf k = 1 then ~~~ Config.positionByte (k - 2048)
    else if s.placedAt k then Config.positionByte k else 0

/-- The table row that lies, or has its second copy, in a row of DRAM (R292). -/
def State.tableRowAt (s : State) (a : RowAt) : Option TableRow := s.marver.tableRows.find? (fun t => t.main == a || t.mirror == some a)

/-- Successive bytes of the stack. -/
def State.stackBytes (s : State) (k n : Nat) : List Byte := (List.range n).map (fun i => s.stackByte (k + i))

/-- Write whole 8 B words: new check bits are stored, so a word that was uncorrectable is good again (R475). -/
def State.stackWrite (s : State) (k : Nat) (b : List Byte) : State :=
  { s with mem := Memory.writeBytes s.mem k b,
           integrity := s.integrity.keepBad (fun w => decide (w * 8 + 8 ≤ k) || decide (k + b.length ≤ w * 8)) }

/-- The 32 words of a sector. -/
def State.sectorWords (s : State) (r : MemReq) : List (Nat × Nat) :=
  (List.range 32).map (fun i => (i, leNat (s.stackBytes (s.sectorBase r.pc r.bank r.row r.sector + 8 * i) 8)))

/-- Write the words of a sector request. -/
def State.landWords (s : State) (r : MemReq) : State :=
  r.words.foldl (fun t w => if w.1 < 32 then t.stackWrite (t.sectorBase r.pc r.bank r.row r.sector + 8 * w.1) (leBytes 8 w.2) else t) s

/-- The place in the stack of word `i` of a sector. -/
def State.sectorWord (s : State) (r : MemReq) (i : Nat) : Nat := s.sectorBase r.pc r.bank r.row r.sector / 8 + i

/-- A queued write lands, and its words that could not be read in the queue are stored poisoned (R410). -/
def State.landEntry (s : State) (e : MemEntry) : State :=
  let t := s.landWords e.req
  let l := (e.bad.filter (fun i => e.req.words.any (fun w => w.1 == i))).map (s.sectorWord e.req)
  { t with integrity := l.foldl Integrity.poison t.integrity }

/-- The words of a sector that are delivered poisoned to a read: those stored poisoned, and those that could not be read in the queue. -/
def State.poisonedIn (s : State) (e : MemEntry) : List Nat :=
  (List.range 32).filter (fun i => e.bad.contains i || s.integrity.poisoned.contains (s.sectorWord e.req i))

/-! ### Pseudo-channels -/

/-- A pseudo-channel with nothing queued. -/
def pcCold (_ : Nat) : Pc := ⟨[], [], [], [], [], [], [], [], 0⟩

def State.pcState (s : State) (n : Nat) : Pc := Map.get pcCold s.pcs n

/-- Replace a pseudo-channel's state and refresh MC_PC_QUEUE (R405). -/
def State.setPc (s : State) (n : Nat) (x : Pc) : State :=
  ({ s with pcs := Map.set pcCold s.pcs n x }).setFs [(mcPcQueueWq n, x.writes.length), (mcPcQueueRq n, x.reads.length),
    (mcPcQueueWqPeak n, max (s.f (mcPcQueueWqPeak n)) x.writes.length),
    (mcPcQueueRqPeak n, max (s.f (mcPcQueueRqPeak n)) x.reads.length)]

/-- Self-refresh. -/
def State.pcAsleep (s : State) (n : Nat) : Bool := s.f (mcPcStatusState n) == 2

/-- Pseudo-channels are held in self-refresh by the stack hold line, and in the quench (R94, R138, R568). -/
def State.stackAsleep (s : State) : Bool := s.pilot.stackHold || (s.quenched && !s.thermal.stopPending)

/-- A request, a refresh or a Flux burst wakes a pseudo-channel (R395). -/
def State.wakePc (s : State) (n : Nat) : State :=
  if s.stackAsleep || !s.pcLive n || bitOf s.test.pcBist n then s else s.setF (mcPcStatusState n) 0

/-- A pseudo-channel's rows close. -/
def State.closeRows (s : State) (n : Nat) : State := s.setPc n { s.pcState n with openRows := [], written := [] }

/-- What is queued in a controller when the stack hold line is asserted is discarded, and its rows are closed (R95). -/
def State.discardQueued (s : State) (n : Nat) : State :=
  s.setPc n { s.pcState n with reads := [], writes := [], waiting := [], openRows := [], written := [] }

/-- Nothing is queued. -/
def Pc.empty (x : Pc) : Bool := x.reads.isEmpty && x.writes.isEmpty && x.waiting.isEmpty

/-! ### Charges (R431, R435 to R437) -/

/-- Pseudo-channels over which budgets are divided: neither culled nor wholly retired (R436). -/
def State.budgetPcs (s : State) : Nat := 64 - s.outPcs

/-- S of R436. -/
def State.budgetSectors (s : State) (c : Nat) : Nat :=
  let bw := (s.budget c).bw
  if bw = 0 then 0 else max 1 (bw * s.regulator.length / (256 * max s.budgetPcs 1))

/-- S′ of R436 for the present window; in a window of another span it is scaled (R448). -/
def State.scaledSectors (s : State) (c : Nat) : Nat :=
  let b := s.budgetSectors c
  let k := s.f rgScaleK
  let x := if b = 0 then 0 else if k < 1024 then max 1 (b * k / 1024) else b
  if s.regulator.span = s.regulator.length then x else x * s.regulator.span / s.regulator.length

/-- Add to an entry of a map of counts. -/
def addCount (m : Map Nat) (k n : Nat) : Map Nat := Map.set (fun _ => 0) m k (Map.get (fun _ => 0) m k + n)

/-- Charge one sector of class `c` on a pseudo-channel: whether the request is demoted, and the state after (R437). Class 15 is not
charged (R433). -/
def State.charge (s : State) (n c : Nat) : Bool × State :=
  if 14 < c then (false, s)
  else
    let x := s.pcState n
    let used := Map.get (fun _ => 0) x.charged c + 1
    let excess := decide (s.scaledSectors c < used)
    let g := s.regulator
    let t := s.setPc n { x with charged := Map.set (fun _ => 0) x.charged c used }
    let h :=
      { g with
        charged := addCount g.charged c 1, present := addCount g.present c 1
        excess := if excess then addCount g.excess c 1 else g.excess
        demotedNow := if excess then setBit g.demotedNow c else g.demotedNow }
    (excess, { t with regulator := h })

/-! ### Taking a queue entry (R381 to R386) -/

/-- Rank and number of a port in MC_HINT_DEF and MC_TARGETS (R385, R403). -/
def portRank : MemPort → Nat
  | .tm => 1 | .qr => 2 | .qw => 3 | .hb => 4 | .ca => 5 | .fs => 6

def portNumber : MemPort → Nat
  | .qw => 0 | .qr => 1 | .tm => 2 | .hb => 3 | .fs => 4 | .ca => 5

/-- Target register of a port of controller `m`. -/
def targetFld (m : Nat) : Nat → Fld
  | 0 => mcTgt0Qw m
  | 1 => mcTgt0Qr m
  | 2 => mcTgt1Tm m
  | 3 => mcTgt1Hb m
  | 4 => mcTgt2Fs m
  | _ => mcTgt2Ca m

/-- Two requests of one pseudo-channel touch the same sector. -/
def sameSector (a b : MemReq) : Bool := a.bank == b.bank && a.row == b.row && a.sector == b.sector

/-- They touch the same row. -/
def sameRow (a b : MemReq) : Bool := a.bank == b.bank && a.row == b.row

/-- Entries of a port. -/
def entriesOf (l : List MemEntry) (p : MemPort) : Nat := (l.filter (fun e => e.req.port == p)).length

/-- The port limits of R381. -/
def Pc.hasRoom (x : Pc) (r : MemReq) : Bool :=
  if r.write then decide (x.writes.length < 64) && (r.port != .qw || decide (entriesOf x.writes .qw < 56))
  else decide (x.reads.length < 64) &&
    (match r.port with
     | .tm => true
     | .qr => decide (entriesOf x.reads .qr < 40)
     | _ => decide (entriesOf x.reads .hb + entriesOf x.reads .fs + entriesOf x.reads .ca + entriesOf x.reads .qw < 8))

/-- The newest queued write to a sector. -/
def Pc.newestWrite (x : Pc) (r : MemReq) : Option MemEntry := (x.writes.filter (fun e => sameSector e.req r)).getLast?

/-- A full mask. -/
def fullMask (w : List (Nat × Nat)) : Bool := (List.range 32).all (fun i => w.any (fun x => x.1 == i))

/-- The words of an older write under those of a newer one (R383). -/
def mergeWords (old new : List (Nat × Nat)) : List (Nat × Nat) :=
  old.filter (fun o => !new.any (fun n => n.1 == o.1)) ++ new

/-- In drain (R384). -/
def State.noteDrain (s : State) (n : Nat) : State :=
  let l := (s.pcState n).writes.length
  if max 1 (s.f (mcWqMarkHigh (n / 4))) ≤ l then s.setF (mcPcStatusDrain n) 1
  else if l ≤ s.f (mcWqMarkLow (n / 4)) then s.setF (mcPcStatusDrain n) 0
  else s

/-- The request takes an entry, with its target and its charge. -/
def State.enterQueue (s : State) (r : MemReq) : State :=
  let c := s.charge r.pc r.cls
  let x := c.2.pcState r.pc
  let e : MemEntry := ⟨r, max 1 (s.f (targetFld (r.pc / 4) (portNumber r.port))), 0, false, c.1, x.arrivals, []⟩
  let y := if r.write then { x with writes := x.writes ++ [e] } else { x with reads := x.reads ++ [e] }
  (c.2.setPc r.pc { y with arrivals := x.arrivals + 1 }).noteDrain r.pc

/-- A write is merged into the newest queued write of its sector unless a read of the sector came between the two: it would pass that read
(R383). -/
def Pc.mergesInto (x : Pc) (r : MemReq) (w : MemEntry) : Bool := !x.reads.any (fun e => sameSector e.req r && decide (w.seq < e.seq))

/-- A write is merged into an older one: its words replace those of the older, which keeps its place and its deadline. -/
def State.mergeWrite (s : State) (r : MemReq) (w : MemEntry) : State :=
  let x := s.pcState r.pc
  let m := { w with req := { w.req with words := mergeWords w.req.words r.words }, bad := w.bad.filter (fun i => !r.words.any (fun n => n.1 == i)) }
  (s.addF (mcPcMerge r.pc) 1 (2 ^ 32 - 1)).setPc r.pc { x with writes := x.writes.map (fun e => if e.seq = w.seq then m else e) }

/-- A read is served from the write queue (R382): no DRAM command is issued. -/
def State.countForward (s : State) (n : Nat) : State := s.addF (mcPcFwd n) 1 (2 ^ 32 - 1)

/-- R381 to R383: the request is forwarded, merged or takes an entry; `none` where it must wait. -/
def State.acceptReq (s : State) (r : MemReq) : Option State :=
  let x := s.pcState r.pc
  match x.newestWrite r with
  | none => if x.hasRoom r then some (s.enterQueue r) else none
  | some w =>
    if !r.write && fullMask w.req.words then
      some ((s.countForward r.pc).emit (.sector r.pc r.bank r.row r.sector w.req.words w.bad))
    else if r.write && x.mergesInto r w then some (s.mergeWrite r w)
    else if x.hasRoom r then some (s.enterQueue r)
    else none

/-- A request that waits is not passed by a later one of its port or of its sector. -/
def waitsBehind (r : MemReq) (l : List MemReq) : Bool := l.any (fun w => w.port == r.port || sameSector w r)

/-- A request comes to a controller (R381): with no entry within its limits it waits, and is never dropped. -/
def State.arrive (s : State) (r : MemReq) : State :=
  let t := s.wakePc r.pc
  let x := t.pcState r.pc
  let wait := t.setPc r.pc { x with waiting := x.waiting ++ [r] }
  if waitsBehind r x.waiting then wait else (t.acceptReq r).getD wait

/-- A request that the S64 itself makes, to one of its 64 pseudo-channels. -/
def State.request (s : State) (r : MemReq) : State := if 63 < r.pc then s else s.arrive r

/-- A request of the CA port comes only during a calibration hold of its pseudo-channel, and to rows 0 and 1 (R281, R385). -/
def State.portOpen (s : State) (r : MemReq) : Bool := r.port != .ca || (s.on (mcPcStatusCalHold r.pc) && decide (r.row < 2))

/-- The HINT that a request carries: 0 from rings, bulk movers, Marver, Flux and calibration (R389). -/
def carriedHint (r : MemReq) : Nat := if r.port == .hb || r.port == .fs || r.port == .ca then 0 else r.hint

/-- MC_REQUEST_ARRIVAL (R381). -/
def execMcRequestArrival (r : MemReq) (s : State) : Host.Outcome State Fault Refusal :=
  if 63 < r.pc || 15 < r.bank || s.bankRows ≤ r.row || 7 < r.sector || !s.pcLive r.pc || !s.portOpen r then .next s
  else .next (s.arrive { r with hint := carriedHint r })

/-! ### Buffer blocks in the write path and in DRAM (R247, R249, R263, R381) -/

/-- The writes to a sector that have not been issued, oldest first. -/
def Pc.sectorWrites (x : Pc) (r : MemReq) : List MemReq :=
  (x.writes.map (·.req) ++ x.waiting.filter (fun w => w.write)).filter (fun w => sameSector w r)

/-- One byte of a row as a read through the queue manager finds it: from the newest write that has not been issued and has its word, or
from DRAM (R263, R382). -/
def State.rowByte (s : State) (a : RowAt) (off : Nat) : Byte :=
  let r : MemReq := ⟨a.pc, a.bank, a.row, off / 256, .qr, false, [], 0, 0, false, 0⟩
  let words := ((s.pcState a.pc).sectorWrites r).reverse.filterMap (fun w => (w.words.find? (fun v => v.1 == off % 256 / 8)).map (·.2))
  match words.head? with
  | some v => BitVec.ofNat 8 (v / 256 ^ (off % 8))
  | none => s.stackByte (s.sectorBase a.pc a.bank a.row 0 + off)

/-- The word of a row at byte `off` reads as poisoned: it could not be read in the queue entry that holds it, or it lies in DRAM poisoned
(R408, R410). -/
def State.rowBad (s : State) (a : RowAt) (off : Nat) : Bool :=
  let r : MemReq := ⟨a.pc, a.bank, a.row, off / 256, .qr, false, [], 0, 0, false, 0⟩
  let i := off % 256 / 8
  let has := fun (w : MemReq) => sameSector w r && w.words.any (fun v => v.1 == i)
  if (s.pcState a.pc).waiting.any (fun w => w.write && has w) then false
  else
    match ((s.pcState a.pc).writes.filter (fun e => has e.req)).getLast? with
    | some e => e.bad.contains i
    | none => s.integrity.poisoned.contains ((s.sectorBase a.pc a.bank a.row 0 + off) / 8)

/-- The QW port of a pseudo-channel takes `n` more sectors: within its 56 entries and the 64 of the queue, or, where the ENQ alone writes
more than that to the pseudo-channel, once none of QW is queued there (R381). -/
def State.writePathTakes (s : State) (pc n : Nat) : Bool :=
  let x := s.pcState pc
  let q := entriesOf x.writes .qw
  !x.waiting.any (fun w => w.port == .qw) &&
    (decide (q + n ≤ 56 ∧ x.writes.length + n ≤ 64) || (decide (56 < n) && q == 0))

/-- The 32 words of sector `i` of a block. -/
def sectorOfBlock (b : List Byte) (i : Nat) : List (Nat × Nat) :=
  (List.range 32).map (fun w => (w, leNat ((b.drop (256 * i + 8 * w)).take 8)))

/-- A whole block is written to its row: its 8 sectors come to the QW port (R247). -/
def State.writeBlock (s : State) (a : RowAt) (cls hint : Nat) (b : List Byte) : State :=
  (List.range 8).foldl (fun t i => t.request ⟨a.pc, a.bank, a.row, i, .qw, true, sectorOfBlock b i, cls, hint, false, t.now⟩) s

end Sys2Proof.Machine
end

