-- ==== Sys2Proof/Machine/Queues.lean ====
section
/-!
DEFINITION. Packet queues: admission and commit, removal, peeking, status, snapshots and the queue commands
(R236 to R279).
-/
namespace Sys2Proof.Machine

/-! ### Counts of a queue (R237, R238, R243, R253) -/

/-- Bytes in the data area of a block. -/
def blockData : Nat := 2016

/-- The position of the next byte to be removed. -/
def Queue.head (x : Queue) : Nat := ((x.packets.head?).map (·.pos)).getD x.tail

/-- The BSEQ of the tail block. -/
def Queue.tailBlock (x : Queue) : Nat := (x.tail - 1) / blockData

/-- BLOCKS of the packets held, from the head block to the tail block. -/
def Queue.held (x : Queue) : Nat := if x.packets.isEmpty then 0 else x.tailBlock - x.head / blockData + 1

/-- BYTES, PACKETS and BLOCKS as the context has them; those of the last good read while the queue is broken (R274). -/
def Queue.bytes (x : Queue) : Nat :=
  match x.broken with
  | some b => b.1
  | none => (x.packets.map (fun k => k.data.length)).sum
def Queue.count (x : Queue) : Nat :=
  match x.broken with
  | some b => b.2.1
  | none => x.packets.length
def Queue.blocks (x : Queue) : Nat :=
  match x.broken with
  | some b => b.2.2
  | none => x.held

/-- STATE of QSTAT. -/
def Queue.code (x : Queue) : Nat := if x.broken.isSome then 2 else if x.enabled then 0 else 1

/-- Blocks that a packet of `n` bytes opens (R244). -/
def Queue.opens (x : Queue) (n : Nat) : Nat :=
  if x.packets.isEmpty then (16 + n + blockData - 1) / blockData
  else
    let used := x.tail - blockData * x.tailBlock
    (used + 16 + n - blockData + blockData - 1) / blockData

/-- Blocks that an admitted ENQ still to be committed will open on a queue (R249). -/
def State.pendingBlocks (s : State) (q : Nat) : Nat :=
  ((List.range 16).map (fun p =>
    (((s.port p).assembly.filter (fun r => r.object == q)).map (fun r => (s.queue q).opens r.length)).sum)).sum

/-- Σ max(u(q), r(q)) of R253, with the rows that a reclaim scan has left allocated (R305). -/
def State.poolDemand (s : State) : Nat :=
  (s.queues.map (fun k => if k.2.configured then max (k.2.blocks + s.pendingBlocks k.1) k.2.reserve else 0)).sum + s.marver.lostRows

/-- P of R253. -/
def State.poolBlocks (s : State) : Nat := s.f qmPoolLimit / 2048

/-- P for an ENQ stamped at `t`: before the tick of a MEM_SPLIT it is the old one (R286). -/
def State.poolBlocksAt (s : State) (t : Tick) : Nat :=
  match s.marver.splits.find? (fun c => decide (t < c.1)) with
  | some c => c.2
  | none => s.poolBlocks

/-- The pool check of R253: the blocks not covered by the reserve fit in the shared free blocks. -/
def State.poolFits (s : State) (q n : Nat) (t : Tick) : Bool :=
  let x := s.queue q
  let u := x.blocks + s.pendingBlocks q
  let shared := n - min n (x.reserve - u)
  decide (s.poolDemand + shared ≤ s.poolBlocksAt t)

/-! ### Blocks and packet headers as bytes (R243 to R247) -/

/-- The header of a packet (R245), its last byte the CRC-8 of those before it. -/
def Packet.header (k : Packet) : List Byte :=
  let b := leBytes 2 (k.data.length - 1) ++ leBytes 1 (k.cls + 16 * k.port) ++ leBytes 1 k.user ++ leBytes 6 k.tick ++ leBytes 1 (k.hint % 4) ++
    leBytes 4 0
  b ++ leBytes 1 (crc8 b)

/-- The header of a block (R243) of queue `q` whose number is `bseq`, with the index of the next block and its CRC-32. -/
def TailBlock.header (x : TailBlock) (q bseq next : Nat) : List Byte :=
  let b := leBytes 4 (q + 0xB1 * 2 ^ 24) ++ leBytes 4 (next % 2 ^ 26) ++ leBytes 4 bseq ++ leBytes 2 (x.first.getD 0xFFFF) ++
    leBytes 2 x.bytes.length ++ leBytes 2 x.count ++ leBytes 2 0 ++ leBytes 4 x.pbytes ++ leBytes 4 0
  b ++ leBytes 4 (crc32 b)

/-- A packet header begins in the block. -/
def TailBlock.begin (x : TailBlock) (k : Packet) : TailBlock :=
  { x with first := some (x.first.getD x.bytes.length), count := x.count + 1, pbytes := x.pbytes + k.data.length }

/-- Bytes of a packet go into the block. -/
def TailBlock.fill (x : TailBlock) (k : Packet) (b : List Byte) : TailBlock :=
  if b.isEmpty then x else { x with bytes := x.bytes ++ b, cls := k.cls, hint := k.hint }

/-- Fill blocks with the bytes of a packet, from block `b` on: the blocks that are full with another opened after them, and the last one
(R244, R247). -/
def fillBlocks (k : Packet) : Nat → Nat → TailBlock → List Byte → List (Nat × TailBlock) × TailBlock
  | 0, _, x, _ => ([], x)
  | n + 1, b, x, l =>
    let room := blockData - x.bytes.length
    if l.length ≤ room then ([], x.fill k l)
    else
      let y := fillBlocks k n (b + 1) tailBlockCold (l.drop room)
      ((b, x.fill k (l.take room)) :: y.1, y.2)

/-- Pack a packet into a queue (R244): the blocks it completes with their numbers, and the tail block after it. Where the tail
block is full, its header begins in the block after that. -/
def Queue.pack (x : Queue) (k : Packet) : List (Nat × TailBlock) × TailBlock :=
  let l := k.header ++ k.data
  let n := l.length / blockData + 2
  if x.packets.isEmpty then fillBlocks k n (x.tail / blockData) (tailBlockCold.begin k) l
  else if x.staged.bytes.length < blockData then fillBlocks k n x.tailBlock (x.staged.begin k) l
  else
    let y := fillBlocks k n (x.tailBlock + 1) (tailBlockCold.begin k) l
    ((x.tailBlock, x.staged) :: y.1, y.2)

/-- Where block `b` of a queue lies. -/
def Queue.placeOf (x : Queue) (b : Nat) : Option RowAt := (x.places.find? (fun k => k.bseq == b)).map (fun k => ⟨k.pc, k.bank, k.row⟩)

/-- The bytes of a block as it is written: its header names the block after it. -/
def Queue.blockBytes (x : Queue) (q b : Nat) (y : TailBlock) : List Byte :=
  let next := match x.placeOf (b + 1) with
    | some a => Config.blockIndex a.pc a.bank a.row
    | none => 0
  y.header q b next ++ y.bytes

/-- Write the blocks that a packet has completed (R247), for the class and with the HINT of the packet that filled each (R389, R431). -/
def State.writeBlocks (s : State) (q : Nat) (x : Queue) (l : List (Nat × TailBlock)) : State :=
  l.foldl (fun t y =>
    match x.placeOf y.1 with
    | none => t
    | some a => t.writeBlock a y.2.cls y.2.hint (x.blockBytes q y.1 y.2)) s

/-- A byte of the stream of a queue's data areas as it is read: from tail staging, or from its block's row (R247, R263). DESIGN CHOICE (log
entry 50): the head area is a copy of the row and is read as the row is. -/
def State.streamByte (s : State) (x : Queue) (pos : Nat) : Byte :=
  if pos / blockData = x.tailBlock then x.staged.bytes.getD (pos % blockData) 0
  else
    match x.placeOf (pos / blockData) with
    | none => 0
    | some a => s.rowByte a (32 + pos % blockData)

/-- HCHK of a packet's header as it is read (R246). -/
def State.headerChecks (s : State) (x : Queue) (k : Packet) : Bool :=
  let b := (List.range 16).map (fun i => s.streamByte x (k.pos + i))
  BitVec.ofNat 8 (crc8 (b.take 15)) == b.getD 15 0

/-- CHECK of a block's header as it is read (R246). The tail block has no header yet. -/
def State.blockChecks (s : State) (x : Queue) (b : Nat) : Bool :=
  match x.placeOf b with
  | none => true
  | some a =>
    let l := (List.range 32).map (s.rowByte a)
    b == x.tailBlock || crc32 (l.take 28) == bufNat l 28 4

/-! ### Damage (R246, R272 to R274, R421, R582) -/

/-- A block other than the tail block lies on a pseudo-channel culled at run time, and not in the head area. -/
def State.blockCulled (s : State) (q : Nat) (x : Queue) (b : Nat) : Bool :=
  b != x.tailBlock && !s.marver.head.any (fun h => h.queue == q && h.bseq == b) &&
    x.places.any (fun k => k.bseq == b && bitOf s.marver.culledRun k.pc)

/-- The header of a block that has been written holds a poisoned word. -/
def State.headerPoisoned (s : State) (x : Queue) (b : Nat) : Bool :=
  match x.placeOf b with
  | none => false
  | some a => b != x.tailBlock && (List.range 4).any (fun i => s.rowBad a (8 * i))

/-- A block header cannot be read: it holds an uncorrectable word, fails its check, or lies on a culled pseudo-channel. -/
def State.badHeader (s : State) (q : Nat) (x : Queue) (b : Nat) : Bool :=
  x.badBlocks.contains b || s.blockCulled q x b || s.headerPoisoned x b || !s.blockChecks x b

/-- A block header from `lo` to `hi` cannot be read. -/
def State.badHeaders (s : State) (q : Nat) (x : Queue) (lo hi : Nat) : Bool :=
  (List.range (hi + 1 - lo)).any (fun i => s.badHeader q x (lo + i))

/-- Word `w` of the stream of a queue's data areas is uncorrectable: it is known to be, or it reads as poisoned from its block's row (R408,
R410). -/
def State.streamBad (s : State) (x : Queue) (w : Nat) : Bool :=
  x.badWords.contains w ||
    (8 * w / blockData != x.tailBlock &&
      (match x.placeOf (8 * w / blockData) with
       | none => false
       | some a => s.rowBad a (32 + 8 * w % blockData)))

/-- An uncorrectable word lies in positions `lo` to `hi` of the stream. -/
def State.badRange (s : State) (x : Queue) (lo hi : Nat) : Bool := (List.range (hi / 8 + 1 - lo / 8)).any (fun i => s.streamBad x (lo / 8 + i))

/-- The header of a packet cannot be read: it holds an uncorrectable word, or fails its check (R246). -/
def State.badPacket (s : State) (x : Queue) (k : Packet) : Bool := s.badRange x k.pos (k.pos + 15) || !s.headerChecks x k

/-- The first `n` bytes of a packet as delivered: 0x00 in a poisoned word (R272). -/
def State.deliver (s : State) (x : Queue) (k : Packet) (n : Nat) : List Byte :=
  (List.range (min n k.data.length)).map (fun i =>
    if s.streamBad x ((k.pos + 16 + i) / 8) then 0 else s.streamByte x (k.pos + 16 + i))

/-- The queue becomes broken in this operation; its counts are those at the last good read (R274). -/
def State.breakQueue (s : State) (q : Nat) (counts : Nat × Nat × Nat) : State :=
  let t := s.setQueue q { s.queue q with broken := some counts }
  let n := (t.queues.filter (fun k => k.2.configured && k.2.broken.isSome)).length
  (t.setFs [(qmBrokenQueue, q), (qmBrokenCount, min n 255)]).report
    { pre := .qm, code := 0x01, severity := 2, vector := some 0, object := q }

def Queue.counts (x : Queue) : Nat × Nat × Nat := (x.bytes, x.count, x.blocks)

/-- The queue context cannot be read: the operation that meets it breaks the queue. -/
def State.contextLost (s : State) (q : Nat) : Bool := (s.queue q).badContext && (s.queue q).broken.isNone

/-! ### Holding and refusing (R236, R275) -/

/-- A change of this queue waits whose effective tick is not after the request's (R275). -/
def State.queueHeld (s : State) (r : Req) : Bool :=
  s.queueChanges.any (fun c => decide (c.tick ≤ r.tick ∧ c.first ≤ r.object ∧ r.object < c.first + c.count)) ||
    (List.range 16).any (fun p => (s.port p).assembly.any (fun a => a.object == r.object))

/-- Refuse a queue opcode for the state of its queue, counted in QM_REFUSE_STATE. -/
def State.refuseState (s : State) (r : Req) (status : Nat) : State := (s.bump qmRefuseState 32).answer r status 0 []

/-- What a served queue operation meets first: OBJECT, LENGTH, a configured queue, a readable context. -/
def serveQueue (r : Req) (s : State) (body : Queue → State) : State :=
  let x := s.queue r.object
  if 131071 < r.object then s.answer r stBadParam 0 []
  else if r.length ≠ 0 then s.refuseLength r
  else if !x.configured then s.refuseState r stNoSuchObject
  else body x

/-! ### ENQ (R249 to R255) -/

/-- Checks 2 to 7 of R252: the status that refuses an ENQ. -/
def State.enqRefusal (s : State) (r : Req) : Option Nat :=
  let x := s.queue r.object
  if 131071 < r.object then some stBadParam
  else if r.length < 1 ∨ 16384 < r.length then some stBadLength
  else if !x.configured then some stNoSuchObject
  else if s.contextLost r.object then some stMemUncorrectable
  else if x.broken.isSome || !x.enabled then some stNotPermitted
  else if x.limit ≠ 0 ∧ x.limit < x.bytes + r.length then some stQueueFull
  else if !s.poolFits r.object (x.opens r.length) r.tick then some stPoolExhausted
  else none

/-- Count and answer a refused ENQ (R255). -/
def State.refuseEnq (s : State) (r : Req) (st : Nat) : State :=
  let x := s.queue r.object
  let drop := s.setQueue r.object { x with drops := (x.drops + 1) % 2 ^ 32 }
  if st = stBadLength then s.refuseLength r
  else if st = stNoSuchObject ∨ st = stNotPermitted then s.refuseState r st
  else if st = stQueueFull then (drop.bump qmRefuseQfull 32).answer r st 0 []
  else if st = stPoolExhausted then (drop.bump qmRefusePool 32).answer r st 0 []
  else if st = stMemUncorrectable then (s.breakQueue r.object x.counts).answer r st 0 []
  else s.answer r st 0 []

/-- The BSEQ of the first block that a packet opens. -/
def Queue.nextBlock (x : Queue) : Nat := if x.packets.isEmpty then x.tail / blockData else x.tailBlock + 1

/-- The packet that an ENQ puts into a queue. -/
def Queue.packet (x : Queue) (r : Req) : Packet :=
  { cls := r.b1 % 16, port := r.port, user := r.arg, hint := r.b1 / 16 % 4, tick := r.tick % 2 ^ 48, data := r.payload, pos := x.tail }

/-- The queue context after the commit of a packet (R249): position, SEQ and ledger, and the tail block in staging. -/
def Queue.commit (x : Queue) (r : Req) : Queue :=
  { x with packets := x.packets ++ [x.packet r], tail := x.tail + 16 + r.length, nextSeq := (x.nextSeq + 1) % 2 ^ 32,
           ledger := x.ledger ++ [(r.tick, (r.length : Int), (1 : Int))], staged := (x.pack (x.packet r)).2 }

/-- The queue of an ENQ with the blocks opened that its packet needs. -/
def State.openFor (s : State) (r : Req) : State :=
  s.openBlocks r.object (s.queue r.object).nextBlock ((s.queue r.object).opens r.length)

/-- Commit an ENQ: its blocks are opened, those it completes come to the MC write path, and its packet is added in one update; a reply is
sent if asked (R247, R249, R255). -/
def State.commitEnq (s : State) (r : Req) : State :=
  let x := s.queue r.object
  let a := s.openFor r
  let z := a.queue r.object
  let w := a.writeBlocks r.object z (z.pack (z.packet r)).1
  let y := z.commit r
  let b := (w.setQueue r.object y).bump qmEnqCount 64
  if bitOf r.b2 0 then b.answer r stOk 0 (leBytes 4 x.nextSeq ++ leBytes 4 0 ++ leBytes 8 y.bytes) else b.dropRoom r

/-- Every block that the packet completes finds its 8 entries in the MC write path, and new rows can be placed (R249, R381, R421). -/
def State.writeRoom (s : State) (r : Req) : Bool :=
  let a := s.openFor r
  let z := a.queue r.object
  let pcs := (z.pack (z.packet r)).1.filterMap (fun y => (z.placeOf y.1).map (·.pc))
  !((decide (0 < (s.queue r.object).opens r.length)) && s.placingPaused) &&
    pcs.all (fun n => s.writePathTakes n (8 * (pcs.filter (fun m => m == n)).length))

/-- The longest reply of an ENQ (R255). -/
def enqReply (r : Req) : Nat := if bitOf r.b2 0 then 32 else 16

/-- An ENQ is admitted, and waits in the ingress buffer for the MC write path (R249, R381), with room kept for its reply (R208). -/
def State.enqWaits (s : State) (r : Req) : Bool :=
  s.mayTake r && (s.early r).isNone && s.egressRoom r.port (enqReply r) && !s.queueHeld r && (s.enqRefusal r).isNone && !s.writeRoom r &&
    decide ((s.port r.port).assembly.length < 2)

/-- ENQ (R252): checked in order, and committed or refused. -/
def execEnq (r : Req) (s : State) : Host.Outcome State Fault Refusal :=
  if s.enqWaits r then .next ((s.setPort r.port { s.port r.port with assembly := (s.port r.port).assembly ++ [r] }).keepRoom r (enqReply r))
  else
    runRequest r (enqReply r) (fun t => t.queueHeld r || ((t.enqRefusal r).isNone && !t.writeRoom r)) (fun t =>
      match t.enqRefusal r with
      | some st => t.refuseEnq r st
      | none => t.commitEnq r) s

/-- ENQ_COMMIT (R249): the oldest admitted packet of the port is committed once its full blocks are accepted. -/
def execEnqCommit (p : Nat) (s : State) : Host.Outcome State Fault Refusal :=
  match (s.port p).assembly with
  | [] => .next s
  | r :: rest =>
    if s.halted || !s.writeRoom r then .next s
    else .next (((s.setPort p { s.port p with assembly := rest }).takeReq r).commitEnq r)

/-! ### Taking packets out (R256 to R263, R272 to R274) -/

/-- What a walk from the head of a queue meets: packets taken with the bytes that count against the budget, packets lost, whether
the queue breaks, whether the budget stopped it, and the packets left. -/
structure Walk where
  got : List Packet
  lost : List Packet
  broke : Bool
  excess : Bool
  left : List Packet
  deriving DecidableEq, Repr

/-- Take at most `n` packets. `budget` is the payload budget, of which `used` is spent; removal without delivery has none. -/
def State.walk (s : State) (q : Nat) (x : Queue) (budget : Option Nat) : Nat → Nat → List Packet → List Packet → Walk
  | _, _, got, [] => ⟨got.reverse, [], false, false, []⟩
  | n, used, got, k :: rest =>
    let b := k.pos / blockData
    let size := 16 + k.data.length
    let excess := match budget with
      | some m => used != 0 && decide (m < used + size)
      | none => false
    if n = 0 then ⟨got.reverse, [], false, false, k :: rest⟩
    else if s.badHeaders q x b ((k.pos + 15) / blockData) then ⟨got.reverse, [], true, false, k :: rest⟩
    else if s.badPacket x k then
      let later := rest.dropWhile (fun j => decide (j.pos / blockData = b))
      let stop := ((later.head?).map (fun j => j.pos / blockData)).getD x.tailBlock
      if s.badHeaders q x b stop then ⟨got.reverse, [], true, false, k :: rest⟩
      else ⟨got.reverse, k :: rest.takeWhile (fun j => decide (j.pos / blockData = b)), false, false, later⟩
    else if excess then ⟨got.reverse, [], false, true, k :: rest⟩
    else if s.badHeaders q x b ((k.pos + size - 1) / blockData) then ⟨got.reverse, [], true, false, k :: rest⟩
    else s.walk q x budget (n - 1) (used + size) (k :: got) rest

/-- The queue once a walk's packets are removed: an empty queue releases its tail block (R247, R262). -/
def Queue.after (x : Queue) (w : Walk) (tick : Tick) : Queue :=
  let gone := w.got ++ w.lost
  let bytes := (gone.map (fun k => k.data.length)).sum
  let tail := if w.left.isEmpty then (x.tail + blockData - 1) / blockData * blockData else x.tail
  let led := if gone.isEmpty then x.ledger else x.ledger ++ [(tick, -(bytes : Int), -(gone.length : Int))]
  let y := { x with packets := w.left, tail := tail, ledger := led }
  let first := y.head / blockData
  { y with staged := if w.left.isEmpty then tailBlockCold else y.staged,
           places := if w.left.isEmpty then [] else y.places.filter (fun k => decide (first ≤ k.bseq)),
           badBlocks := y.badBlocks.filter (fun b => decide (first ≤ b)),
           badWords := y.badWords.filter (fun v => decide (y.head / 8 ≤ v)) }

/-- Sectors of a block of a queue are read from DRAM through the QR port (R385). The tail block and a block in the head area are not. -/
def State.readSectors (s : State) (q : Nat) (x : Queue) (cls hint b lo hi : Nat) : State :=
  if b = x.tailBlock ∨ s.marver.head.any (fun h => h.queue == q && h.bseq == b) = true then s
  else
    match x.placeOf b with
    | none => s
    | some a =>
      if !s.pcLive a.pc then s
      else
        (List.range (hi + 1 - lo)).foldl (fun t i => t.request ⟨a.pc, a.bank, a.row, lo + i, .qr, false, [], cls, hint, false, t.now⟩) s

/-- The sectors that hold the stream positions from `lo` to `hi` are read, with the class and HINT of a request (R389, R431). -/
def State.readStream (s : State) (r : Req) (x : Queue) (lo hi : Nat) : State :=
  let first := lo / blockData
  let last := hi / blockData
  (List.range (last + 1 - first)).foldl (fun t i =>
    let b := first + i
    t.readSectors r.object x (r.b1 % 16) (r.b1 / 16 % 4) b (if b = first then (32 + lo % blockData) / 256 else 0)
      (if b = last then (32 + hi % blockData) / 256 else 7)) s

/-- The blocks that packets delivered lie in are read. -/
def State.readPackets (s : State) (r : Req) (x : Queue) (got : List Packet) : State :=
  match got.head?, got.getLast? with
  | some k, some l => s.readStream r x k.pos (l.pos + 15 + l.data.length)
  | _, _ => s

/-- A block is prefetched: read whole, and held in the head area. -/
def State.fetchBlock (s : State) (q : Nat) (x : Queue) (cls hint b : Nat) : State :=
  if s.marver.head.any (fun h => h.queue == q && h.bseq == b) then s
  else
    let t := s.prefetchBlock q b cls
    if t.marver.head.any (fun h => h.queue == q && h.bseq == b) then (s.readSectors q x cls hint b 0 7).prefetchBlock q b cls else t

/-- Prefetch up to PREFETCH_DEPTH blocks past the head block, for a queue with removals (R287, R431). -/
def State.prefetchQueue (s : State) (q cls hint : Nat) : State :=
  let x := s.queue q
  let h := x.head / blockData
  let t := s.touchHead q h
  if x.packets.isEmpty || x.broken.isSome then t.touchHead q (x.tail + 1)
  else
    ((List.range (min (s.f qmCtrlPrefetchDepth) 4)).map (fun i => h + 1 + i)).foldl
      (fun u b => if b < x.tailBlock && !s.badHeader q x b then u.fetchBlock q x cls hint b else u) t

/-- Apply a walk as the one operation of a DEQ or DROP_HEAD. -/
def State.applyWalk (s : State) (r : Req) (x : Queue) (w : Walk) : State :=
  let y := x.after w r.tick
  let gone := x.places.filter (fun k => !y.places.contains k)
  let a := ((s.setQueue r.object y).releasePlaces gone).addF qmDeqCount (w.got.length + w.lost.length) (2 ^ 64 - 1)
  let b := if w.lost.isEmpty then a
    else (a.addF qmLostPackets w.lost.length (2 ^ 32 - 1)).report
      { pre := .qm, code := 0x02, severity := 2, object := r.object, data := w.lost.length }
  let c := if w.broke then b.breakQueue r.object y.counts else b
  c.prefetchQueue r.object (r.b1 % 16) (r.b1 / 16 % 4)

/-- SEQ of the packet at the head. -/
def Queue.headSeq (x : Queue) : Nat := (x.nextSeq + 2 ^ 32 - x.packets.length % 2 ^ 32) % 2 ^ 32

/-- The sojourn of a packet at tick `t` (R264). -/
def sojourn (t enq : Tick) : Nat := min ((t + 2 ^ 48 - enq % 2 ^ 48) % 2 ^ 48) (2 ^ 32 - 1)

/-- The descriptor of R256. -/
def descriptor (k : Packet) (poison : Bool) (seq : Nat) (t : Tick) : List Byte :=
  leBytes 2 (k.data.length - 1 + 16384 * b2n poison) ++ leBytes 1 (k.cls + 16 * k.port) ++ leBytes 1 k.user ++
    leBytes 4 (sojourn t k.tick) ++ leBytes 4 seq ++ leBytes 4 (k.tick % 2 ^ 32)

/-- A packet's data holds an uncorrectable word within its first `n` bytes. -/
def State.poisonedPacket (s : State) (x : Queue) (k : Packet) (n : Nat) : Bool := n != 0 && s.badRange x (k.pos + 16) (k.pos + 16 + n - 1)

/-- The payload of a DEQ: descriptors and packets back to back. -/
def State.payload (s : State) (x : Queue) (t : Tick) (got : List Packet) : List Byte :=
  (got.zipIdx).flatMap (fun y =>
    descriptor y.1 (s.poisonedPacket x y.1 y.1.data.length) ((x.headSeq + y.2) % 2 ^ 32) t ++ s.deliver x y.1 y.1.data.length)

/-- The payload budget of R257. -/
def deqBudget (code : Nat) : Nat :=
  match code with
  | 1 => 1024
  | 2 => 2048
  | 3 => 4096
  | 4 => 8192
  | _ => 16400

/-- The status of a DEQ (R259). -/
def deqStatus (w : Walk) (poison none' : Bool) : Nat :=
  if poison || !w.lost.isEmpty || w.broke then stMemUncorrectable
  else if none' then stEmpty
  else if w.excess then stDonePartial
  else stOk

/-- DEQ (R257 to R259). -/
def execDeq (r : Req) (s : State) : Host.Outcome State Fault Refusal :=
  runRequest r (if r.length ≠ 0 then 16 else 16416) (fun t => t.queueHeld r) (fun t =>
    serveQueue r t (fun x =>
      if x.broken.isSome then t.answer r stMemUncorrectable 0 []
      else if x.badContext then (t.breakQueue r.object x.counts).answer r stMemUncorrectable 0 []
      else
        let w := t.walk r.object x (some (deqBudget (r.b2 / 2 % 8))) (if r.arg = 0 then 1 else r.arg) 0 [] x.packets
        let bad := w.got.filter (fun k => t.poisonedPacket x k k.data.length)
        let a := ((t.readPackets r x w.got).applyWalk r x w).addF qmPoisonPackets bad.length (2 ^ 32 - 1)
        a.answer r (deqStatus w (!bad.isEmpty) x.packets.isEmpty) w.got.length (t.payload x r.tick w.got) w.got.length)) s

/-- PEEK (R260). DESIGN CHOICE (log entry 50): the POISON bit of the descriptor is judged on the bytes returned alone, as the status is, though
R256 speaks of the packet's data; and a packet that PEEK returns with POISON = 1 does not count in QM_POISON, which counts those that a DEQ
delivers and removes. -/
def execPeek (r : Req) (s : State) : Host.Outcome State Fault Refusal :=
  runRequest r (if r.length ≠ 0 then 16 else if r.arg = 0 then 16416 else min 16416 (32 + 64 * r.arg)) (fun t => t.queueHeld r) (fun t =>
    serveQueue r t (fun x =>
      if x.broken.isSome then t.answer r stMemUncorrectable 0 []
      else if x.badContext then (t.breakQueue r.object x.counts).answer r stMemUncorrectable 0 []
      else
        match x.packets with
        | [] => t.answer r stEmpty 0 []
        | k :: _ =>
          let n := if r.arg = 0 then k.data.length else min k.data.length (64 * r.arg)
          let b := k.pos / blockData
          if t.badHeaders r.object x b ((k.pos + 15) / blockData) then
            (t.breakQueue r.object x.counts).answer r stMemUncorrectable 0 []
          else if t.badPacket x k then t.answer r stMemUncorrectable 0 []
          else if t.badHeaders r.object x b ((k.pos + 15 + n) / blockData) then
            (t.breakQueue r.object x.counts).answer r stMemUncorrectable 0 []
          else
            let p := t.poisonedPacket x k n
            (t.readStream r x k.pos (k.pos + 15 + n)).answer r (if p then stMemUncorrectable else stOk) 0 (descriptor k p x.headSeq r.tick ++ t.deliver x k n))) s

/-- A DROP_HEAD replies when asked or when its status is 0x10 or above (R261). -/
def State.answerDrop (s : State) (r : Req) (st bytes n seq : Nat) : State :=
  if bitOf r.b2 0 || decide (0x10 ≤ st) then s.answer r st 0 (leBytes 8 bytes ++ leBytes 4 n ++ leBytes 4 seq) else s

/-- DROP_HEAD (R261). DESIGN CHOICE (log entry 50): where no packet is removed, bytes 12 to 15 of the reply hold the SEQ of the packet at the
head, or NEXT_SEQ where there is none. -/
def execDropHead (r : Req) (s : State) : Host.Outcome State Fault Refusal :=
  runRequest r (if r.length ≠ 0 then 16 else 32) (fun t => t.queueHeld r) (fun t =>
    serveQueue r t (fun x =>
      if x.broken.isSome then t.answerDrop r stMemUncorrectable 0 0 x.headSeq
      else if x.badContext then (t.breakQueue r.object x.counts).answerDrop r stMemUncorrectable 0 0 x.headSeq
      else
        let n := if r.arg = 0 then 1 else r.arg
        let w := t.walk r.object x none n 0 [] x.packets
        let gone := w.got ++ w.lost
        let st := if !w.lost.isEmpty || w.broke then stMemUncorrectable
          else if x.packets.isEmpty then stEmpty
          else if gone.length < n then stDonePartial
          else stOk
        ((gone.foldl (fun u k => u.readStream r x k.pos (k.pos + 15)) t).applyWalk r x w).answerDrop r st ((gone.map (fun k => k.data.length)).sum) gone.length x.headSeq)) s

/-! ### QSTAT (R265) -/

/-- The live sojourn of the head packet: 0 if there is none, a free value if the context that names it or its header cannot be read. -/
def State.headSojourn (s : State) (q : Nat) (x : Queue) (t : Tick) : Nat × State :=
  match x.packets with
  | [] => (0, s)
  | k :: _ =>
    if x.badContext || s.badPacket x k || s.badHeaders q x (k.pos / blockData) ((k.pos + 15) / blockData) then
      let v := s.fresh
      (Config.freeValue v.1 % 2 ^ 32, v.2)
    else (sojourn t k.tick, s)

/-- The ledgers of a queue in a snapshot (R266): 0 for a queue then unconfigured. -/
def Snapshot.entry (n : Snapshot) (q : Nat) : Int × Int := ((n.entries.find? (fun e => e.1 == q)).map (·.2)).getD (0, 0)

/-- The last eight bytes but four of a QSTAT reply. -/
def Queue.stat (x : Queue) (bytes packets soj num : Nat) : List Byte :=
  leBytes 8 bytes ++ leBytes 8 packets ++ leBytes 4 soj ++ leBytes 4 x.nextSeq ++ leBytes 4 x.drops ++ leBytes 1 x.code ++ leBytes 3 num

/-- QSTAT (R265, R421). One that itself meets an unreadable context breaks the queue, and its reply carries MEM_UNCORRECTABLE (R274). -/
def execQstat (r : Req) (s : State) : Host.Outcome State Fault Refusal :=
  runRequest r (if r.length ≠ 0 then 16 else 48) (fun t => t.queueHeld r) (fun t =>
    serveQueue r t (fun x =>
      if t.contextLost r.object then (t.breakQueue r.object x.counts).answer r stMemUncorrectable 0 []
      else if bitOf r.b2 1 then
        match t.snapshots with
        | [] => t.answer r stEmpty 0 []
        | n :: _ =>
          if n.damaged.contains r.object then t.answer r stMemUncorrectable 0 []
          else t.answer r stOk 0 (x.stat (toTwos 64 (n.entry r.object).1) (toTwos 64 (n.entry r.object).2) 0 (n.number % 2 ^ 24))
      else
        let v := t.headSojourn r.object x r.tick
        v.2.answer r stOk 0 (x.stat x.bytes x.count v.1 0))) s

/-! ### Snapshots (R266 to R271) -/

/-- A snapshot starts; only one can be pending. -/
def State.startSnapshot (s : State) (src : SnapSource) (t : Tick) : State :=
  { s.setF qmStatusSnapPending 1 with snapPending := some (src, t) }

/-- A SNAPSHOT_READ that has started and not ended reads the buffer that a new snapshot would overwrite: the older of the two
held (R269). -/
def State.snapRead (s : State) : Bool :=
  match s.snapshots with
  | [_, old] => (List.range 16).any (fun n => (s.ring n).live.any (fun l => l.opcode == 0x145 && l.params % 2 ^ 32 == old.number))
  | _ => false

/-- SNAPSHOT_REQ (R267, R269, R270). DESIGN CHOICE (log entry 50): it is no queue opcode for QM_REFUSE_STATE (R279), since it names no queue,
though it is refused as one where every slice is culled (R581). -/
def execSnapshotReq (r : Req) (s : State) : Host.Outcome State Fault Refusal :=
  runRequest r (if r.length = 0 ∨ r.length = 8 then 32 else 16) (fun _ => false) (fun t =>
    let target := if r.length = 8 then max (leNat r.payload) r.tick else r.tick
    if r.length ≠ 0 ∧ r.length ≠ 8 then t.refuseLength r
    else if r.tick + 4000000000 < target then t.answer r stBadParam 0 []
    else if t.snapPending.isSome || t.snapRead then t.answer r stNotPermitted 0 []
    else
      let x := t.port r.port
      ((t.setPort r.port { x with awaiting := x.awaiting ++ [r] }).keepRoom r 32).startSnapshot (.link r) target) s

/-- The ledger of a queue at a cut tick: everything stamped before it (R266). -/
def Queue.ledgerAt (x : Queue) (t : Tick) : Int × Int :=
  (x.ledger.filter (fun l => decide (l.1 < t))).foldl (fun a l => (a.1 + l.2.1, a.2 + l.2.2)) (0, 0)

/-- Every request stamped before `t` has taken effect or been refused, and none of them is still being received. DESIGN CHOICE (log entry 50):
a QUEUE_FLUSH or QUEUE_REMOVE whose doorbell tick lies before `t` and that the service firmware has not yet started is not waited for, and what
it removes later is not in the ledger. -/
def State.settledBefore (s : State) (t : Tick) : Bool :=
  (List.range 16).all (fun p => (s.port p).unfinished.all (fun r => r.opcode == 0x30 || decide (t ≤ r.tick))) &&
    (List.range 16).all (fun p => !s.receivingBefore p t) && s.queueChanges.all (fun c => decide (t ≤ c.tick))

/-- The pending snapshot completes: numbered, kept with the one before it, answered, and announced (R268, R269). -/
def State.finishSnapshot (s : State) (src : SnapSource) (t : Tick) : State :=
  let n := (s.f qmSnapNumLast + 1) % 2 ^ 32
  let es := (s.queues.filter (fun k => k.2.configured)).map (fun k => (k.1, k.2.ledgerAt t))
  let a := { (s.setFs [(qmStatusSnapPending, 0), (qmSnapNumLast, n), (qmSnapTick, t)]) with
               snapshots := (({ number := n, cut := t, entries := es, damaged := [] } : Snapshot) :: s.snapshots).take 2, snapPending := none }
  let b := match src with
    | .link r =>
      let x := a.port r.port
      (a.setPort r.port { x with awaiting := x.awaiting.erase r }).answer r stOk 0 (leBytes 8 t ++ leBytes 4 n ++ leBytes 4 0)
    | .ring ring tag => a.complete ring tag stOk (packBytes [(0, 8, t), (8, 4, n)])
    | .event => a
  b.pulseSource 0x401

/-- SNAPSHOT_COMPLETE (R268). -/
def execSnapshotComplete (s : State) : Host.Outcome State Fault Refusal :=
  match s.snapPending with
  | none => .next s
  | some x => if s.halted || !s.settledBefore x.2 then .next s else .next ((s.reach x.2).finishSnapshot x.1 x.2)

/-- SNAPSHOT_TAKE (R267, R278). -/
def execSnapshotTake (e : Sqe) (s : State) : Host.Outcome State Fault Refusal :=
  runCommand 0x144 e s (fun s =>
    let t := max (e.par 16 8) e.tick
    if e.tick + 4000000000 < t then s.done e stBadParam 0
    else if s.snapPending.isSome || s.snapRead then s.done e stNotPermitted 0
    else s.startSnapshot (.ring e.ring e.tag) t)

/-- SNAPSHOT_READ (R271, R421). -/
def execSnapshotRead (e : Sqe) (s : State) : Host.Outcome State Fault Refusal :=
  runCommand 0x145 e s (fun s =>
    let first := e.par 20 4
    let n := e.par 24 4
    if n = 0 ∨ 131072 < first + n ∨ e.par 32 8 % 16 ≠ 0 then s.done e stBadParam 0
    else
      match s.snapshots.find? (fun x => x.number == e.par 16 4) with
      | none => s.done e stNoSuchObject 0
      | some x =>
        let entry := fun q => if x.damaged.contains q then leBytes 8 (2 ^ 63) ++ leBytes 8 (2 ^ 63)
          else leBytes 8 (toTwos 64 (x.entry q).1) ++ leBytes 8 (toTwos 64 (x.entry q).2)
        (s.emitHost (.hostWrite (e.par 32 8) ((List.range n).flatMap (fun i => entry (first + i))))).done e stOk 0)

/-! ### Queue changes (R275, R276, R278, R305) -/

/-- The queues of a range, changed in one pass. -/
def State.updateQueues (s : State) (first n : Nat) (f : Queue → Queue) : State :=
  let mid := (List.range n).map (fun i => (first + i, f (s.queue (first + i))))
  { s with queues := s.queues.filter (fun k => decide (k.1 < first)) ++ mid.filter (fun k => decide (k.2 ≠ queueCold k.1)) ++
                     s.queues.filter (fun k => decide (first + n ≤ k.1)) }

/-- The configured queues of a range. -/
def State.queuesIn (s : State) (first n : Nat) : List (Nat × Queue) :=
  s.queues.filter (fun k => decide (first ≤ k.1 ∧ k.1 < first + n) && k.2.configured)

/-- Registers that count queues. -/
def State.syncQueues (s : State) : State :=
  s.setFs [(qmQueuesConfigured, (s.queues.filter (fun k => k.2.configured)).length),
    (qmBrokenCount, min ((s.queues.filter (fun k => k.2.configured && k.2.broken.isSome)).length) 255)]

/-- A range past queue 131 071, or a count of 0. -/
def badQueueRange (first n : Nat) : Bool := n == 0 || decide (131072 < first + n)

/-- QUEUE_CFG takes effect. -/
def Queue.configure (limit : Nat) (enable clear keep : Bool) (x : Queue) : Queue :=
  if x.configured then
    { x with limit := if keep then x.limit else limit, enabled := enable, drops := if clear then 0 else x.drops }
  else { queueCold 0 with configured := true, enabled := enable, limit := limit }

/-- A queue emptied: its packets and blocks go, and a broken queue is repaired. -/
def Queue.empty (tick : Tick) (x : Queue) : Queue :=
  if !x.configured then x
  else
    { x with packets := [], tail := (x.tail + blockData - 1) / blockData * blockData, staged := tailBlockCold, broken := none, places := [],
             badWords := [],
             badBlocks := [], badContext := false,
             ledger := if x.count = 0 then x.ledger else x.ledger ++ [(tick, -(x.bytes : Int), -(x.count : Int))] }

/-- The reclaim scan reads the headers of the buffer rows in use through the FS port at class 15, and so wakes their pseudo-channels (R305,
R385, R395, R431). -/
def State.scanHeaders (s : State) (l : List Place) : State :=
  l.foldl (fun t k => if t.pcLive k.pc then t.request ⟨k.pc, k.bank, k.row, 0, .fs, false, [], 15, 0, false, t.now⟩ else t) s

/-- Blocks of the queues leave the pool's use. Those of a broken queue are reclaimed by a scan of the headers in DRAM, and a row whose
header cannot be read stays allocated (R305). -/
def State.reclaim (s : State) (q : Nat × Queue) : State :=
  let x := q.2
  let written := if x.broken.isNone then [] else x.places.filter (fun k => k.bseq != x.tailBlock && !bitOf s.marver.culledRun k.pc)
  let stuck := written.filter (fun k => x.badBlocks.contains k.bseq || s.headerPoisoned x k.bseq || !s.blockChecks x k.bseq)
  let a := ((if x.broken.isNone then s else s.scanHeaders (s.queues.flatMap (fun k => k.2.places))).releasePlaces (x.places.filter (fun k => !stuck.contains k))).touchHead q.1 (x.tail + 1)
  if x.broken.isNone then a
  else
    let b := a.addF mvReclaimBlocks (written.length - stuck.length) (2 ^ 26 - 1)
    if stuck.isEmpty then b
    else
      ({ b with marver := { b.marver with lostRows := b.marver.lostRows + stuck.length } }).addF mvReclaimLost stuck.length (2 ^ 32 - 1)
        |>.report { pre := .mv, code := 0x01, severity := 1, object := q.1 }

/-- What one queue change does, with the status and result of its command. -/
def State.changeEffect (s : State) (c : QueueChange) : State × Nat × Nat :=
  let qs := s.queuesIn c.first c.count
  let packets := (qs.map (fun k => k.2.count)).sum
  let bytes := (qs.map (fun k => k.2.bytes)).sum
  match c.kind with
  | .cfg limit enable clear keep =>
    ((s.updateQueues c.first c.count (Queue.configure limit enable clear keep)).syncQueues, stOk,
      packBytes [(0, 8, c.tick), (8, 4, c.count - qs.length)])
  | .remove flush =>
    if !flush && packets != 0 then (s, stNotPermitted, 0)
    else
      (((qs.foldl State.reclaim s).updateQueues c.first c.count (fun _ => queueCold 0)).syncQueues, stOk,
        packBytes [(0, 8, c.tick), (8, 8, packets)])
  | .flush =>
    if qs.isEmpty then (s, stNoSuchObject, 0)
    else
      (((qs.foldl State.reclaim s).updateQueues c.first c.count (Queue.empty c.tick)).syncQueues, stOk,
        packBytes [(0, 8, c.tick), (8, 8, packets), (16, 8, bytes)])
  | .reserve blocks =>
    let t := s.updateQueues c.first c.count (fun x => { x with reserve := blocks })
    if qs.length < c.count then (s, stNoSuchObject, 0)
    else if s.poolDemand < t.poolDemand ∧ s.poolBlocks < t.poolDemand then (s, stPoolExhausted, 0)
    else (t, stOk, resTick c.tick)

/-- Apply one queue change and complete its command. -/
def State.applyChange (s : State) (c : QueueChange) : State :=
  let x := s.changeEffect c
  x.1.complete c.ring c.tag x.2.1 x.2.2

/-- Two changes name a queue in common. -/
def QueueChange.overlaps (a b : QueueChange) : Bool := decide (a.first < b.first + b.count ∧ b.first < a.first + a.count)

/-- Every operation on the queues of a change that is stamped before its effective tick has taken effect or been refused, and so has every
ENQ that is admitted and not yet committed (R240, R275). -/
def State.changeReady (s : State) (c : QueueChange) : Bool :=
  (List.range 16).all (fun p => !s.receivingBefore p c.tick &&
    (s.port p).assembly.all (fun r => !decide (c.first ≤ r.object ∧ r.object < c.first + c.count)) && (s.port p).unfinished.all (fun r =>
    !(decide (1 ≤ r.opcode ∧ r.opcode ≤ 5) && decide (c.first ≤ r.object ∧ r.object < c.first + c.count) && decide (r.tick < c.tick))))

/-- The oldest change that is ready and that no older one of the same queues precedes. -/
def State.nextChange (s : State) : List QueueChange → List QueueChange → Option QueueChange
  | _, [] => none
  | older, c :: r =>
    if s.changeReady c && !older.any c.overlaps then some c else s.nextChange (older ++ [c]) r

/-- QUEUE_CHANGE_APPLY (R275). -/
def execQueueChangeApply (s : State) : Host.Outcome State Fault Refusal :=
  if s.halted then .next s
  else
    match s.nextChange [] s.queueChanges with
    | none => .next s
    | some c => .next ({ s with queueChanges := s.queueChanges.erase c }.applyChange c)

/-- A queue command whose parameters are in order becomes a change at its doorbell tick. -/
def State.addChange (s : State) (e : Sqe) (k : QueueChangeKind) : State :=
  let first := e.par 16 4
  let n := e.par 20 4
  if badQueueRange first n then s.done e stBadParam 0
  else { s with queueChanges := s.queueChanges ++ [⟨k, first, n, e.tick, e.ring, e.tag⟩] }

/-- QUEUE_CFG (R278). -/
def execQueueCfg (e : Sqe) (s : State) : Host.Outcome State Fault Refusal :=
  runCommand 0x140 e s (fun s => s.addChange e (.cfg (e.par 24 8) (e.bit 32 0) (e.bit 32 1) (e.bit 32 2)))

/-- QUEUE_REMOVE (R278). -/
def execQueueRemove (e : Sqe) (s : State) : Host.Outcome State Fault Refusal :=
  runCommand 0x141 e s (fun s => s.addChange e (.remove (e.bit 24 0)))

/-- QUEUE_FLUSH (R278). -/
def execQueueFlush (e : Sqe) (s : State) : Host.Outcome State Fault Refusal :=
  runCommand 0x142 e s (fun s => s.addChange e .flush)

/-- QUEUE_RESERVE (R278). -/
def execQueueReserve (e : Sqe) (s : State) : Host.Outcome State Fault Refusal :=
  runCommand 0x150 e s (fun s => s.addChange e (.reserve (e.par 24 4)))

/-- QUEUE_INFO (R278). -/
def execQueueInfo (e : Sqe) (s : State) : Host.Outcome State Fault Refusal :=
  runCommand 0x143 e s (fun s =>
    let q := e.par 16 4
    if 131071 < q then s.done e stBadParam 0
    else if !(s.queue q).configured then s.done e stNoSuchObject 0
    else
      let t := if s.contextLost q then s.breakQueue q (s.queue q).counts else s
      let x := t.queue q
      t.done e stOk (packBytes [(0, 6, x.limit), (6, 6, x.bytes), (12, 4, x.count), (16, 4, x.blocks % 2 ^ 26 + 2 ^ 30 * x.code),
        (20, 4, x.reserve)]))

/-- QM_PREFETCH (R278). -/
def execQmPrefetch (e : Sqe) (s : State) : Host.Outcome State Fault Refusal :=
  runCommand 0x151 e s (fun s =>
    if 4 < e.par 16 1 then s.done e stBadParam 0 else (s.setF qmCtrlPrefetchDepth (e.par 16 1)).done e stOk 0)

end Sys2Proof.Machine
end

