-- ==== Sys2Proof/Machine/Tables.lean ====
section
/-!
DEFINITION. Forwarding tables: geometry, contents, versions, and the table opcodes of the link (R309 to R333, R339, R358).
-/
namespace Sys2Proof.Machine

/-! ### Records and partitions (R309, R310) -/

/-- Bytes of a key record; `klen` is KLEN, or KEYBITS of a PREFIX table. -/
def keyRecord (k : TableKind) (klen : Nat) : Nat :=
  match k with
  | .exact => klen
  | .prefixTable => 2 + (klen + 7) / 8
  | .index => 4
  | .counter => 4

def Table.keyLen (t : Table) : Nat := keyRecord t.kind t.klen

/-- Bytes of a result record. -/
def Table.resultLen (t : Table) : Nat :=
  match t.kind with
  | .exact => t.vlen
  | .prefixTable => 8
  | .index => t.vlen
  | .counter => 16

/-- The number that bytes in address order spell: the first byte is the most significant. -/
def beNat (b : List Byte) : Nat := b.foldl (fun a x => 256 * a + x.toNat) 0

/-- Bytes in address order with the bits from bit `n` on set to 0. -/
def maskBits (n : Nat) (b : List Byte) : List Byte :=
  (b.zipIdx).map (fun y =>
    if 8 * (y.2 + 1) ≤ n then y.1
    else if n ≤ 8 * y.2 then 0
    else BitVec.ofNat 8 (y.1.toNat / 2 ^ (8 * y.2 + 8 - n) * 2 ^ (8 * y.2 + 8 - n)))

/-- A PREFIX key record with its bits beyond `n` set to 0. -/
def maskKey (n : Nat) (b : List Byte) : List Byte := b.take 2 ++ maskBits n (b.drop 2)

/-- The partition of a key (R310). -/
def partitionOf (k : TableKind) (klen : Nat) (key : List Byte) : Nat :=
  match k with
  | .exact => crc32 (key.take klen) % 64
  | .prefixTable => crc32 (key.take 2 ++ ((maskBits klen (key.drop 2)).take 3)) % 64
  | .index => leNat (key.take 4) % 64
  | .counter => leNat (key.take 4) % 64

def Table.partition (t : Table) (key : List Byte) : Nat := partitionOf t.kind t.klen key

/-! ### Rows (R312, R315 to R318) -/

def ceilDiv (a b : Nat) : Nat := (a + b - 1) / b

/-- Buckets per partition of an EXACT table, and bytes of a bucket. -/
def exactBp (cap : Nat) : Nat := ceilDiv cap 216
def exactBucket (klen vlen : Nat) : Nat := ceilDiv (16 + 4 * (klen + vlen)) 64 * 64

/-- The row of an INDEX entry. -/
def indexRow (elen i : Nat) : Nat := i % 64 + 64 * (i / 64 / (2048 / elen))

/-- Bytes of PREFIX memory per prefix. -/
def prefixBytes (keybits : Nat) : Nat := if keybits ≤ 32 then 64 else if keybits ≤ 64 then 128 else 192

/-- Table rows without the staging allowance. -/
def baseRows (k : TableKind) (klen vlen cap instances : Nat) : Nat :=
  match k with
  | .exact => 64 * ceilDiv (exactBp cap) (2048 / exactBucket klen vlen)
  | .prefixTable => ceilDiv (cap * prefixBytes klen + 524288 + instances * 262144) 2048
  | .index => 64 * ceilDiv (ceilDiv cap 64) (2048 / vlen)
  | .counter => 64 * ceilDiv (ceilDiv cap 64) 128

/-- The default staging allowance. -/
def stageDefault (k : TableKind) (rows : Nat) : Nat := if k = .counter then 0 else max 64 (ceilDiv rows 16)

/-- Rows counted once, or twice with a mirror. -/
def Table.copies (t : Table) (rows : Nat) : Nat := if t.mirror then 2 * rows else rows

/-- The reservation of a table (R318). -/
def Table.reserved (t : Table) : Nat := t.copies (t.committed.rows + t.stageRows)

/-- Rows of a table's image areas, each held until its version is committed or discarded (R352). -/
def Table.imageRows (t : Table) : Nat := ((t.image.map (·.rows)).getD 0) + ((t.frozenImage.map (·.rows)).getD 0)

/-- The rows a table holds: its reservation, that of a staged resize, and its image areas (R337, R352). -/
def Table.rowsHeld (t : Table) : Nat :=
  t.reserved + ((t.frozen.map (·.extra)).getD 0) + ((t.opened.map (·.extra)).getD 0) + t.imageRows

/-- Every table that exists, with its number. -/
def State.liveTables (s : State) : List (Nat × Table) := s.tables.filterMap (fun k => k.2.map (fun t => (k.1, t)))

/-- Table `n`. -/
def State.table (s : State) (n : Nat) : Option Table := Map.get (fun _ => none) s.tables n
def State.putTable (s : State) (n : Nat) (t : Option Table) : State := { s with tables := Map.set (fun _ => none) s.tables n t }

/-- Table-pool rows in use (R318, R336). -/
def State.tableRows (s : State) : Nat :=
  (s.liveTables.map (fun k => k.2.rowsHeld)).sum + (s.dead.map (fun d => d.table.rowsHeld)).sum

/-- Free rows of the table pool. -/
def State.freeTableRows (s : State) : Nat := s.f mvSplitTUnits * unitRows - s.tableRows

/-- Rows of a table that have a second copy (R423), and those that have none. -/
def Table.rowPairs (t : Table) : Nat := if t.mirror then (t.rowsHeld - t.imageRows) / 2 else 0
def Table.rowSingles (t : Table) : Nat := t.rowsHeld - 2 * t.rowPairs

/-- What the tables need: number, tick of creation, rows with and without a second copy. -/
def State.rowOwners (s : State) : List (Nat × Tick × Nat × Nat) :=
  let all := s.liveTables ++ s.dead.map (fun d => (d.number, d.table))
  all.foldl (fun (l : List (Nat × Tick × Nat × Nat)) k =>
    let same := fun (o : Nat × Tick × Nat × Nat) => o.1 == k.1 && o.2.1 == k.2.created
    if l.any same then l.map (fun o => if same o then (o.1, o.2.1, o.2.2.1 + k.2.rowPairs, o.2.2.2 + k.2.rowSingles) else o)
    else l ++ [(k.1, k.2.created, k.2.rowPairs, k.2.rowSingles)]) []

/-- The rows of a table row go back to their lists. -/
def State.giveTableRow (s : State) (r : TableRow) : State :=
  match r.mirror with
  | none => s.giveRow r.main
  | some m => (s.giveRow r.main).giveRow m

/-- A table row joins those in use. -/
def State.addTableRow (s : State) (r : TableRow) : State :=
  { s with marver := { s.marver with tableRows := s.marver.tableRows ++ [r] } }

/-- Allocate a table row, and its second copy on another layer (R292, R423). -/
def State.newTableRow (s : State) (n : Nat) (created : Tick) (pair : Bool) : State :=
  match s.takeTableRow none with
  | none => s
  | some x =>
    match (if pair then x.2.takeTableRow (some (s.layerOf x.1.pc)) else none) with
    | none => x.2.addTableRow ⟨n, created, x.1, pair, none⟩
    | some y => y.2.addTableRow ⟨n, created, x.1, pair, some y.1⟩

/-- Marver brings the rows of the table pool in use in line with what the tables hold: rows no table needs return, and missing ones are
allocated (R292). -/
def State.settleRows (s : State) : State :=
  let os := s.rowOwners
  let mine := fun (o : Nat × Tick × Nat × Nat) (p : Bool) =>
    s.marver.tableRows.filter (fun r => r.table == o.1 && r.created == o.2.1 && r.pair == p)
  let keep := fun o => (mine o true).take o.2.2.1 ++ (mine o false).take o.2.2.2
  let gone := s.marver.tableRows.filter (fun r => !os.any (fun o => r.table == o.1 && r.created == o.2.1)) ++
    os.flatMap (fun o => (mine o true).drop o.2.2.1 ++ (mine o false).drop o.2.2.2)
  let a := gone.foldl State.giveTableRow { s with marver := { s.marver with tableRows := os.flatMap keep } }
  os.foldl (fun t o =>
    let u := (List.range (o.2.2.1 - (mine o true).length)).foldl (fun t _ => t.newTableRow o.1 o.2.1 true) t
    (List.range (o.2.2.2 - (mine o false).length)).foldl (fun t _ => t.newTableRow o.1 o.2.1 false) u) a

/-- Move the table rows, or second copies, that a test names to rows of other places (R303, R424, R425). Where `back`, the old
rows return to their lists. -/
def State.rehouse (s : State) (bad : TableRow → RowAt → Bool) (back : Bool) : State :=
  s.marver.tableRows.foldl (fun t r =>
    let other := r.mirror.map (fun m => t.layerOf m.pc)
    let u := if bad r r.main then (t.takeTableRow other).map (fun x => (x.1, if back then x.2.giveRow r.main else x.2)) else none
    let main := (u.map (·.1)).getD r.main
    let v := (u.map (·.2)).getD t
    match r.mirror with
    | none => v.addTableRow { r with main := main }
    | some m =>
      match (if bad r m then v.takeTableRow (some (v.layerOf main.pc)) else none) with
      | none => v.addTableRow { r with main := main }
      | some y => (if back then y.2.giveRow m else y.2).addTableRow { r with main := main, mirror := some y.1 })
    { s with marver := { s.marver with tableRows := [] } }

/-- A mirrored table keeps both copies of its rows: those on pseudo-channels that have left service are copied anew from the
other (R424). -/
def State.renewRows (s : State) : State :=
  s.rehouse (fun r a => !s.pcLive a.pc && ((s.table r.table).map (fun t => t.mirror && !t.holes)).getD false) false

/-- Lines of the 16-slot stash of one partition of an EXACT table, which stay in the home tier at all times (R312). -/
def Table.stashLines (t : Table) : Nat := if t.kind = .exact then ceilDiv (16 * (t.klen + t.vlen)) 64 else 0

/-- The registers that show the tiers in use: resident nodes and stashes. -/
def State.showTiers (s : State) : State :=
  let repl := (s.marver.nodes.filter (fun n => n.part.isNone)).length
  let stash := (s.liveTables.map (fun k => 64 * k.2.stashLines)).sum
  s.setFs [(mvTierReplKib, repl / 16), (mvTierHomeKib, (s.marver.nodes.length - repl + stash) / 16)]

/-- The registers that follow from the tables that exist, and the rows they hold. -/
def State.syncTables (s : State) : State :=
  s.settleRows.showTiers.setFs [(mvTableUsedRows, s.tableRows % 2 ^ 26), (teTablesCount, s.liveTables.length)]

/-! ### Contents (R311, R314, R316) -/

/-- An entry of a PREFIX version matches a key: same instance, same leading bits. -/
def Entry.covers (e : Entry) (key : List Byte) : Bool :=
  e.key.take 2 == key.take 2 && maskBits e.plen (key.drop 2) == e.key.drop 2

/-- The longer of two prefixes. -/
def longer (a : Option Entry) (e : Entry) : Option Entry :=
  match a with
  | none => some e
  | some b => if b.plen < e.plen then some e else some b

/-- What a version holds for a key: its result record, `none` for a miss. -/
def Version.find (v : Version) (t : Table) (key : List Byte) : Option (List Byte) :=
  match t.kind with
  | .exact => (v.entries.find? (fun e => e.key == key)).map (·.value)
  | .prefixTable =>
    let k := maskKey t.klen key
    ((v.entries.filter (fun e => e.covers k)).foldl longer none).map (·.value)
  | .index =>
    if leNat key < v.capacity then some (((v.entries.find? (fun e => e.key == key)).map (·.value)).getD (List.replicate t.vlen 0))
    else none
  | .counter => none

/-- The record of a miss: MISS_RESULT of a PREFIX table, zeros otherwise. -/
def Table.missRecord (t : Table) : List Byte := if t.kind = .prefixTable then t.miss else List.replicate t.resultLen 0

/-! ### Versions in force (R335, R358, R361) -/

/-- A request stands before a cut of its port: before the MARK in its stream, or stamped before the tick. -/
def beforeCut (cuts : List Cut) (r : Req) : Bool :=
  match cuts.find? (fun c => c.port == r.port) with
  | none => true
  | some c => if c.byMark then c.before.contains r else decide (r.tick < c.tick)

/-- The cuts of a commit: those it has made, or, once its tick E is fixed, a cut of every port at E (R358 to R360). -/
def Commit.cutsNow (c : Commit) : List Cut :=
  match c.phase with
  | .cutting => c.cuts
  | .due t => (List.range 16).map (fun p => ⟨p, t, false, []⟩)
  | _ => []

/-- The cuts that a commit in progress makes for a table. -/
def State.cutsOf (s : State) (n : Nat) : List Cut := ((s.commits.find? (fun c => c.tables.contains n)).map Commit.cutsNow).getD []

/-- The version that serves a request (R323, R358): the oldest one whose cut it precedes. -/
def State.versionFor (s : State) (n : Nat) (t : Table) (r : Req) : Version :=
  match t.olds.reverse.find? (fun o => beforeCut o.cuts r) with
  | some o => o.version
  | none =>
    match t.frozen with
    | some v => if beforeCut (s.cutsOf n) r then t.committed else v
    | none => t.committed

/-- The table that a request finds at its tick (R335): the live one, or one deleted at a later tick. -/
def State.tableAt (s : State) (n : Nat) (tick : Tick) : Option Table :=
  match s.table n with
  | some t => if t.created ≤ tick then some t else (s.dead.find? (fun d => d.number == n && decide (d.table.created ≤ tick ∧ tick < d.tick))).map (·.table)
  | none => (s.dead.find? (fun d => d.number == n && decide (d.table.created ≤ tick ∧ tick < d.tick))).map (·.table)

/-- Replace the table that a request found. -/
def State.putTableAt (s : State) (n : Nat) (tick : Tick) (t : Table) : State :=
  match s.table n with
  | some u => if u.created ≤ tick then s.putTable n (some t)
              else { s with dead := s.dead.map (fun d => if d.number = n ∧ d.table.created ≤ tick ∧ tick < d.tick then { d with table := t } else d) }
  | none => { s with dead := s.dead.map (fun d => if d.number = n ∧ d.table.created ≤ tick ∧ tick < d.tick then { d with table := t } else d) }

/-! ### Nodes (R292, R312, R315 to R317) -/

/-- The rows of a table, in the order of their allocation. -/
def State.rowsOf (s : State) (n : Nat) (created : Tick) : List TableRow :=
  s.marver.tableRows.filter (fun r => r.table == n && r.created == created)

/-- A line of a row of the table's layout. -/
def Table.layoutLine (t : Table) (n row line : Nat) : Nat := 32 * Config.rowAt n t.created t.number row + line

/-- The lines of the two candidate buckets of a key (R312). The stash lies in the Crucible. -/
def Table.bucketLines (t : Table) (n : Nat) (key : List Byte) : List Nat :=
  let b := exactBucket t.klen t.vlen
  let bp := exactBp t.committed.capacity
  ((List.range 2).flatMap (fun i =>
    let k := Config.bucketHash t.committed.seed i key % max 1 bp
    (List.range (b / 64)).map (fun j =>
      t.layoutLine n (t.partition key * ceilDiv bp (2048 / b) + k / (2048 / b)) (k % (2048 / b) * (b / 64) + j)))).eraseDups

/-- Strides of a PREFIX table: 16 bits at the root, and 8 bits after it. -/
def prefixStrides (keybits : Nat) : Nat := 1 + ceilDiv (keybits - 16) 8

/-- The lines that a lookup of a key reads, by their numbers in the table: two buckets; a directory line (DEDUCED from its 512 KiB: 8 B for
each instance, log entry 24) and one line for each stride that holds a branch; or the lines of an entry. -/
def Table.keyNodes (t : Table) (n : Nat) (key : List Byte) : List Nat :=
  match t.kind with
  | .exact => t.bucketLines n key
  | .prefixTable =>
    let i := bufNat key 0 2
    t.layoutLine n (i / 256) (i / 8 % 32) :: (List.range (prefixStrides t.klen)).filterMap (Config.trieLine n t.created t.number key)
  | .index =>
    let i := leNat key
    let off := i / 64 % (2048 / t.vlen) * t.vlen
    if t.committed.capacity ≤ i then []
    else (List.range ((off + t.vlen - 1) / 64 + 1 - off / 64)).map (fun j => t.layoutLine n (indexRow t.vlen i) (off / 64 + j))
  | .counter =>
    let i := leNat key
    [t.layoutLine n (i % 64 + 64 * (i / 64 / 128)) (i / 64 % 128 / 4)]

/-- The row that holds a line of a table (R292). -/
def State.rowOfLine (s : State) (n : Nat) (t : Table) (line : Nat) : Option TableRow := (s.rowsOf n t.created)[line / 32]?

/-! ### Damage (R327, R424, R582) -/

/-- A copy of a line lies on a pseudo-channel culled at run time, or there is no such copy. Rows that a committed version has rewritten since
lie elsewhere. -/
def State.lineLost (s : State) (n : Nat) (t : Table) (key : List Byte) (ofMirror : Bool) (line : Nat) : Bool :=
  match s.rowOfLine n t line with
  | none => ofMirror && !t.mirror
  | some r =>
    match (if ofMirror then r.mirror else some r.main) with
    | none => true
    | some a => bitOf t.lostPcs a.pc && !(!ofMirror && t.renewed.contains key)

/-- A copy in DRAM of a line that the key needs cannot be read: found uncorrectable, or lost. -/
def State.copyBad (s : State) (n : Nat) (t : Table) (key : List Byte) (ofMirror : Bool) (line : Nat) : Bool :=
  (if ofMirror then t.badMirror else t.badPrimary).contains key || s.lineLost n t key ofMirror line

/-- The first copy of a node that the key needs cannot be read. -/
def State.primaryBad (s : State) (n : Nat) (t : Table) (key : List Byte) : Bool :=
  t.badPrimary.contains key || (t.keyNodes n key).any (s.lineLost n t key false)

/-- The second copy of a node that the key needs cannot be read, or there is none. -/
def State.mirrorBad (s : State) (n : Nat) (t : Table) (key : List Byte) : Bool :=
  !t.mirror || t.badMirror.contains key || (t.keyNodes n key).any (s.lineLost n t key true)

/-- The answer of a key (R327). -/
inductive Answer where
  | hit (record : List Byte)
  | miss
  | unreliable
  deriving DecidableEq, Repr

/-- The record that a reply carries for an answer. -/
def Answer.record (a : Answer) (t : Table) : List Byte :=
  match a with
  | .hit x => x
  | .miss => t.missRecord
  | .unreliable => List.replicate t.resultLen 0

def Answer.isHit : Answer → Bool
  | .hit _ => true
  | _ => false

/-- Bit k of a bitmap for the k-th element that satisfies a test. -/
def bitmap {α : Type} (p : α → Bool) (l : List α) : Nat := ((l.zipIdx).map (fun y => if p y.1 then 2 ^ y.2 else 0)).sum

/-- The error trailer of R327. -/
def trailer (bad : Nat) : List Byte := if bad = 0 then [] else leBytes 8 bad

/-! ### Engines and their reads of nodes (R293 to R296, R319, R326, R385) -/

/-- Engines not in the cullet map, lowest first. -/
def State.liveEngines (s : State) : List Nat := (List.range 64).filter (fun n => !bitOf (s.f tcCulletEng) n)

/-- Engines that a BIST takes out of service: one of each bench at a time, or those of one bench whose fabric is tested, and those whose
microcode is still to be reloaded after it (R575, R577). -/
def State.enginesOut (s : State) : Nat :=
  let e := s.testing .engine
  let b := (List.range 8).find? (fun b => bitOf (s.testing .bench) b)
  maskOf 64 (fun n => (bitOf e n && (List.range (n % 8)).all (fun i => !bitOf e (n / 8 * 8 + i))) || b == some (n / 8) || bitOf s.test.reloading n)

/-- Engines that can be given work: those of `liveEngines` that are not out of service for a test. -/
def State.usableEngines (s : State) : List Nat :=
  let out := s.enginesOut
  s.liveEngines.filter (fun n => !bitOf out n)

/-- The engine that serves a partition of a table now: a new table has one engine, the lowest-numbered (R294). -/
def State.servingEngine (s : State) (t : Table) (partition : Nat) : Nat :=
  let e := Map.get (fun _ => 64) t.serving partition
  if e < 64 then e else s.liveEngines.headD 0

/-- The engine that serves a request of a partition stamped at `tick`: one stamped before a move goes to the old engine, unless that has
been culled since (R295, R579). -/
def State.engineOf (s : State) (t : Table) (partition : Nat) (tick : Tick) : Nat :=
  match t.moved.find? (fun m => m.2.1 == partition && decide (tick < m.1)) with
  | some m => if bitOf (s.f tcCulletEng) m.2.2 then s.servingEngine t partition else m.2.2
  | none => s.servingEngine t partition

/-- A node is held in the slice of an engine (R296). -/
def State.nodeNear (s : State) (n : Nat) (t : Table) (line engine : Nat) : Bool :=
  s.marver.nodes.any (fun m => m.table == n && m.node == line &&
    (match m.part with
     | none => !bitOf s.marver.dropped engine
     | some q => s.servingEngine t q == engine))

/-- Add to the counts of a node. -/
def addAccess (a : NodeAccess) : List NodeAccess → List NodeAccess
  | [] => [a]
  | b :: l =>
    if b.epoch = a.epoch ∧ b.table = a.table ∧ b.node = a.node ∧ b.part = a.part then { b with count := b.count + a.count, dram := b.dram + a.dram } :: l
    else b :: addAccess a l

/-- An engine reads a line from a good copy in its own slice: a Crucible copy stays valid whatever becomes of the DRAM (R298, R582). -/
def State.copyNear (s : State) (n : Nat) (t : Table) (key : List Byte) (engine line : Nat) : Bool :=
  s.nodeNear n t line engine && !t.badCopy.contains key

/-- No copy of a line that the key needs can be read. -/
def State.nodeGone (s : State) (n : Nat) (t : Table) (key : List Byte) (engine line : Nat) : Bool :=
  !s.copyNear n t key engine line && s.copyBad n t key false line && s.copyBad n t key true line

/-- Look up one key of a request stamped at `tick` in one version: its answer is unreliable only where every copy of a node it needs is
gone (R327). -/
def State.lookupKey (s : State) (n : Nat) (t : Table) (v : Version) (tick : Tick) (key : List Byte) : Answer :=
  if (t.keyNodes n key).any (s.nodeGone n t key (s.engineOf t (t.partition key) tick)) then .unreliable
  else
    match v.find t key with
    | some x => .hit x
    | none => .miss

/-- The rows in DRAM that an operation reads for a line, the second copy only where the first fails (R327, R423); none where the engine's
slice has a good copy. -/
def State.lineRows (s : State) (n : Nat) (t : Table) (key : List Byte) (engine line : Nat) : List RowAt :=
  if s.copyNear n t key engine line then []
  else
    match s.rowOfLine n t line with
    | none => []
    | some r =>
      let second := if s.copyBad n t key false line then r.mirror.toList else []
      ((if s.lineLost n t key false line then [] else [r.main]) ++ second).filter (fun a => s.pcLive a.pc)

/-- The read of a line by an operation of a class and HINT, through the TM port (R385). -/
def State.lineRead (s : State) (cls hint line : Nat) (a : RowAt) : MemReq :=
  ⟨a.pc, a.bank, a.row, line % 32 / 4, .tm, false, [], cls, hint, false, s.now⟩

/-- The rows that hold the copies of a line. -/
def State.lineCopies (s : State) (n : Nat) (t : Table) (line : Nat) : List RowAt :=
  match s.rowOfLine n t line with
  | none => []
  | some r => (r.main :: r.mirror.toList).filter (fun a => s.pcLive a.pc)

/-- One access to a node for a class, with the HINT of the request made for: counted in the epoch of the request's tick (R280), and where the
engine's slice holds no good copy of it, read from DRAM. A counter's line that is held in DRAM alone is written back at once where `writes`,
to both of its copies (R326). -/
def State.touchNode (s : State) (n : Nat) (t : Table) (cls hint : Nat) (tick : Tick) (writes : Bool) (key : List Byte) (line : Nat) : State :=
  let e := s.engineOf t (t.partition key) tick
  let near := s.copyNear n t key e line
  let a := { s with marver := { s.marver with
               accesses := addAccess ⟨tick / 4000000, n, line, t.partition key, 1, b2n (!near)⟩ s.marver.accesses } }
  if near then a
  else
    let rows := s.lineRows n t key e line
    let saved := s.copyBad n t key false line && !s.copyBad n t key true line
    let b := (a.addF teDramReads (max 1 rows.length) (2 ^ 64 - 1)).addF teMirrorSaves (b2n saved) (2 ^ 32 - 1)
    let c := rows.foldl (fun u p => u.request (s.lineRead cls hint line p)) b
    if writes then (s.lineCopies n t line).foldl (fun u p => u.request { s.lineRead cls hint line p with write := true }) c else c

/-- The accesses that one operation on a key makes. -/
def State.touchKey (s : State) (n : Nat) (t : Table) (cls hint : Nat) (tick : Tick) (writes : Bool) (key : List Byte) : State :=
  (t.keyNodes n key).foldl (fun u line => u.touchNode n t cls hint tick writes key line) s

/-- The reads that one operation on a key makes in DRAM. -/
def State.keyReads (s : State) (n : Nat) (t : Table) (cls hint : Nat) (tick : Tick) (key : List Byte) : List MemReq :=
  (t.keyNodes n key).flatMap (fun line => (s.lineRows n t key (s.engineOf t (t.partition key) tick) line).map (s.lineRead cls hint line))

/-! ### Lookups (R319 to R323) -/

/-- The number a request's ARG stands for. -/
def argCount (r : Req) : Nat := if r.arg = 0 then 1 else r.arg

/-- The key records of a payload. -/
def chunks (k : Nat) : Nat → List Byte → List (List Byte)
  | 0, _ => []
  | n + 1, b => b.take k :: chunks k n (b.drop k)

/-- Refuse a table opcode, counted in TE_REFUSED and, for BAD_LENGTH, in RL_PROTO_ERR. -/
def State.refuseTable (s : State) (r : Req) (status : Nat) : State :=
  let t := s.bump teRefused 32
  if status = stBadLength then t.refuseLength r else t.answer r status 0 []

/-- Lookup counts. -/
def State.countLookups (s : State) (as : List Answer) : State :=
  let miss := (as.filter (fun a => a == .miss)).length
  let bad := (as.filter (fun a => a == .unreliable)).length
  ((s.addF teLookup as.length (2 ^ 64 - 1)).addF teMiss miss (2 ^ 64 - 1)).addF teMemerr bad (2 ^ 32 - 1)

/-- Operations of a table in an epoch (R280). -/
def Table.opsIn (t : Table) (epoch : Nat) : Nat := Map.get (fun _ => 0) t.ops epoch

/-- Add operations to a table's count of the epoch that holds their request's tick (R280). -/
def State.countOps (s : State) (n : Nat) (tick : Tick) (k : Nat) : State :=
  match s.tableAt n tick with
  | none => s
  | some t => s.putTableAt n tick { t with ops := addCount t.ops (tick / 4000000) k }

/-- The checks 2 to 6 of R320 for a LOOKUP. -/
def State.lookupRefusal (s : State) (r : Req) : Option Nat :=
  if 8 < r.arg ∨ 255 < r.object then some stBadParam
  else
    match s.tableAt r.object r.tick with
    | none => some stNoSuchObject
    | some t =>
      if t.kind = .counter then some stNotPermitted
      else if r.length ≠ argCount r * t.keyLen then some stBadLength
      else if s.enginesGone then some stResourceCulled
      else none

/-- A request is served under the new version of a commit: CUTTING has reached the DRAM for it (R362). -/
def State.noteServed (s : State) (n : Nat) (t : Table) (r : Req) : State :=
  if t.frozen.isSome && !beforeCut (s.cutsOf n) r then
    { s with commits := s.commits.map (fun c => if c.tables.contains n then { c with written := true } else c) }
  else s

/-- Answer a LOOKUP. -/
def State.serveLookup (s : State) (r : Req) : State :=
  match s.tableAt r.object r.tick with
  | none => s.answer r stNoSuchObject 0 []
  | some t =>
    let v := s.versionFor r.object t r
    let keys := chunks t.keyLen (argCount r) r.payload
    let as := keys.map (s.lookupKey r.object t v r.tick)
    let bad := bitmap (fun a => a == .unreliable) as
    (((s.noteServed r.object t r).countLookups as).countOps r.object r.tick keys.length).answer r (if bad = 0 then stOk else stMemUncorrectable)
      (bitmap Answer.isHit as) ((as.flatMap (fun a => a.record t)) ++ trailer bad) 0 (some r.object)

/-- The tables of a LOOKUP_MULTI. -/
def multiTables (r : Req) : List Nat := (r.payload.take (argCount r)).map (fun b => b.toNat)

/-- A table is named twice. -/
def repeats : List Nat → Bool
  | [] => false
  | x :: r => r.contains x || repeats r

/-- The checks of R322. -/
def State.multiRefusal (s : State) (r : Req) : Option Nat :=
  let ts := (multiTables r).map (fun n => s.tableAt n r.tick)
  if r.object ≠ 0 ∨ 4 < r.arg then some stBadParam
  else if r.length < 4 then some stBadLength
  else if ((r.payload.take 4).drop (argCount r)).any (fun b => b != 0) || repeats (multiTables r) then some stBadParam
  else if ts.any Option.isNone then some stNoSuchObject
  else if ts.any (fun t => (t.map (fun x => x.kind == .counter)).getD false) then some stNotPermitted
  else if ts.any (fun t => (t.map (fun x => x.keyLen + 4 != r.length)).getD false) then some stBadLength
  else if s.enginesGone then some stResourceCulled
  else none

/-- Answer a LOOKUP_MULTI: each table's version is chosen by itself (R323). -/
def State.serveMulti (s : State) (r : Req) : State :=
  let key := r.payload.drop 4
  let found := (multiTables r).filterMap (fun n => (s.tableAt n r.tick).map (fun t => (n, t)))
  let as := found.map (fun k => s.lookupKey k.1 k.2 (s.versionFor k.1 k.2 r) r.tick key)
  let bad := bitmap (fun a => a == .unreliable) as
  let a := found.foldl (fun u k => (u.noteServed k.1 k.2 r).countOps k.1 r.tick 1) (s.countLookups as)
  let measured := (multiTables r).find? (fun n => n == s.f teLatCfgTable)
  a.answer r (if bad = 0 then stOk else stMemUncorrectable) (bitmap Answer.isHit as)
    (((as.zip found).flatMap (fun y => y.1.record y.2.2)) ++ trailer bad) 0 measured

/-! ### Counters (R324 to R328) -/

/-- A counter nothing has added to. -/
def counterCold (_ : Nat) : Nat × Nat := (0, 0)

/-- The records of a counter request: index, packets and bytes to add. -/
def counterRecords (r : Req) : List (Nat × Nat × Nat) :=
  (chunks (if r.opcode = 0x18 then 16 else 4) (argCount r) r.payload).map (fun b => (bufNat b 0 4, bufNat b 4 4, bufNat b 8 8))

/-- The checks of R324. -/
def State.counterRefusal (s : State) (r : Req) : Option Nat :=
  if 8 < r.arg ∨ 255 < r.object then some stBadParam
  else
    match s.tableAt r.object r.tick with
    | none => some stNoSuchObject
    | some t =>
      if t.kind ≠ .counter then some stNotPermitted
      else if r.length ≠ argCount r * (if r.opcode = 0x18 then 16 else 4) then some stBadLength
      else if s.enginesGone then some stResourceCulled
      else if (counterRecords r).any (fun x => decide (t.committed.capacity ≤ x.1)) then some stBadParam
      else none

/-- CNT_ADD of one record, modulo 2⁶⁴. -/
def Table.addCounter (t : Table) (x : Nat × Nat × Nat) : Table :=
  let c := Map.get counterCold t.counters x.1
  { t with counters := Map.set counterCold t.counters x.1 ((c.1 + x.2.1) % 2 ^ 64, (c.2 + x.2.2) % 2 ^ 64) }

/-- Read one counter: its value and whether it was lost; the flag is cleared, and the value too if asked. -/
def Table.readCounter (t : Table) (clear : Bool) (i : Nat) : (Nat × Nat) × Bool × Table :=
  let c := Map.get counterCold t.counters i
  let u := { t with lost := t.lost.filter (fun j => j != i) }
  (c, t.lost.contains i, if clear then { u with counters := Map.set counterCold u.counters i (0, 0) } else u)

/-- Read counters in order: values, the lost ones, and the table after. -/
def Table.readCounters (t : Table) (clear : Bool) : List Nat → List ((Nat × Nat) × Bool) × Table
  | [] => ([], t)
  | i :: r =>
    let x := t.readCounter clear i
    let y := x.2.2.readCounters clear r
    ((x.1, x.2.1) :: y.1, y.2)

/-- The 16 B record of a counter. -/
def counterBytes (c : Nat × Nat) : List Byte := leBytes 8 c.1 ++ leBytes 8 c.2

/-- Counters as DRAM holds them follow the values of these counters (R298, R326). -/
def Table.writeBack (t : Table) (l : List Nat) : Table :=
  { t with writtenBack := l.foldl (fun m i => Map.set counterCold m i (Map.get counterCold t.counters i)) t.writtenBack }

/-- Those of some counters that are held in DRAM alone, for an operation stamped at `tick`. -/
def State.countersFar (s : State) (n : Nat) (t : Table) (tick : Tick) (l : List Nat) : List Nat :=
  l.filter (fun i =>
    let key := leBytes 4 i
    (t.keyNodes n key).any (fun line => !s.copyNear n t key (s.engineOf t (t.partition key) tick) line))

/-- Answer a counter opcode. What it changes in counters held in DRAM alone is written there at once. -/
def State.serveCounter (s : State) (r : Req) : State :=
  match s.tableAt r.object r.tick with
  | none => s.answer r stNoSuchObject 0 []
  | some t =>
    let rs := counterRecords r
    let far := s.countersFar r.object t r.tick (rs.map (·.1))
    let a := s.addF teCntOps rs.length (2 ^ 64 - 1)
    if r.opcode = 0x18 then
      let b := (a.putTableAt r.object r.tick ((rs.foldl Table.addCounter t).writeBack far)).countOps r.object r.tick rs.length
      if bitOf r.b2 0 then b.answer r stOk 0 [] 0 (some r.object) else b.dropRoom r
    else
      let y := t.readCounters (r.opcode == 0x1A) (rs.map (·.1))
      let bad := bitmap (fun x => x.2) y.1
      ((a.putTableAt r.object r.tick (if r.opcode = 0x1A then y.2.writeBack far else y.2)).countOps r.object r.tick rs.length).answer r (if bad = 0 then stOk else stMemUncorrectable)
        rs.length ((y.1.flatMap (fun x => counterBytes x.1)) ++ trailer bad) 0 (some r.object)

/-! ### Engines (R293, R294, R329, R330, R440) -/

/-- An engine's bench has its microcode loaded. -/
def State.engineRuns (s : State) (n : Nat) : Bool := bitOf (s.f teBenchRunning) (n / 8)

/-- The operations of a table request, each with its engine. -/
def State.opsOf (s : State) (r : Req) : List (Nat × EngineOp) :=
  let ops := fun (n : Nat) (keys : List (List Byte)) =>
    match s.tableAt n r.tick with
    | none => []
    | some t => keys.map (fun k => (s.engineOf t (t.partition k) r.tick, (⟨r, n, r.b1 % 16, t.partition k, k, none⟩ : EngineOp)))
  if r.opcode = 0x11 then (multiTables r).flatMap (fun n => ops n [r.payload.drop 4])
  else if r.opcode = 0x10 then
    match s.tableAt r.object r.tick with
    | none => []
    | some t => ops r.object (chunks t.keyLen (argCount r) r.payload)
  else ops r.object ((counterRecords r).map (fun x => leBytes 4 x.1))

/-- Operations at an engine: those that wait in its input queue, and those that hold a thread. -/
def State.engineQueue (s : State) (n : Nat) : List EngineOp := Map.get (fun _ => []) s.engineQueues n
def State.waitingAt (s : State) (n : Nat) : List EngineOp := (s.engineQueue n).filter (fun o => o.reads.isNone)
def State.heldAt (s : State) (n : Nat) : List EngineOp := (s.engineQueue n).filter (fun o => o.reads.isSome)

/-- Replace the operations at an engine. -/
def State.setEngine (s : State) (n : Nat) (l : List EngineOp) : State :=
  { s with engineQueues := Map.set (fun _ => []) s.engineQueues n l }

/-- Threads held over all engines, and those of one class (R329, R339, R449). -/
def State.threadsHeld (s : State) : Nat := ((List.range 64).map (fun n => (s.heldAt n).length)).sum
def State.classThreads (s : State) (c : Nat) : Nat := ((List.range 64).map (fun n => ((s.heldAt n).filter (fun o => o.cls == c)).length)).sum

/-- An engine has a thread free that an operation of this table may take (R329, TE_CTRL.TABLE_THREADS of R341). -/
def State.threadFor (s : State) (n table : Nat) : Bool :=
  decide ((s.heldAt n).length < 32) && decide (((s.heldAt n).filter (fun o => o.table == table)).length < s.eff teCtrlTableThreads)

/-- A request names a table. -/
def namesTable (r : Req) (n : Nat) : Bool := (reqObjects r).contains (2 ^ 20 + n)

/-- No unfinished table request stamped before a tick names the table. -/
def State.tableSettled (s : State) (n : Nat) (tick : Tick) : Bool :=
  (List.range 16).all (fun p => !s.receivingBefore p tick && (s.port p).unfinished.all (fun r => !(namesTable r n && decide (r.tick < tick))))

/-- A partition that the request needs has moved to another engine, and the old one has not finished all that was stamped before (R295). -/
def State.handingOver (s : State) (r : Req) : Bool :=
  (s.opsOf r).any (fun o =>
    match s.tableAt o.2.table r.tick with
    | none => false
    | some t => t.moved.any (fun m => m.2.1 == o.2.partition && decide (m.1 ≤ r.tick) && !s.tableSettled o.2.table m.1))

/-- The operation that an engine starts next (R440): of those that may take a thread, the oldest of a class that holds fewer threads on the
engine than its THR_GUAR, else the oldest. -/
def State.nextOp (s : State) (n : Nat) : Option EngineOp :=
  let l := if s.engineRuns n then (s.waitingAt n).filter (fun o => s.threadFor n o.table) else []
  match l.find? (fun o => decide (((s.heldAt n).filter (fun k => k.cls == o.cls)).length < (s.budget o.cls).thr)) with
  | some o => some o
  | none => l.head?

/-- An operation that comes to an engine starts at once: a thread is free for it, and no operation that waits there goes first. -/
def State.startsNow (s : State) (n : Nat) (o : EngineOp) : Bool := s.engineRuns n && s.threadFor n o.table && (s.nextOp n).isNone

/-- Every operation of a request starts as it comes. -/
def State.canServe (s : State) (r : Req) : Bool := (s.opsOf r).all (fun o => s.startsNow o.1 o.2)

/-- Every operation that must wait finds room in its engine's input queue. -/
def State.queueRoom (s : State) (r : Req) : Bool :=
  let l := s.opsOf r
  l.all (fun o =>
    let mine := (l.filter (fun k => k.1 == o.1)).length
    let start := if s.startsNow o.1 o.2 then min mine (32 - (s.heldAt o.1).length) else 0
    decide ((s.waitingAt o.1).length + (mine - start) ≤ 1024))

/-- Serve a table request whose operations have all started. -/
def State.serveTable (s : State) (r : Req) : State :=
  if r.opcode = 0x10 then s.serveLookup r else if r.opcode = 0x11 then s.serveMulti r else s.serveCounter r

/-- The deepest input queue of the epoch (R339). -/
def State.noteQueue (s : State) (n : Nat) : State :=
  let d := (s.waitingAt n).length
  if s.marver.queuePeak < d then { s with marver := { s.marver with queuePeak := d, queueEngine := n } } else s

/-- An operation changes the line of a counter. -/
def EngineOp.writes (o : EngineOp) : Bool := o.req.opcode == 0x18 || o.req.opcode == 0x1A

/-- A read is still queued at its controller. -/
def State.readQueued (s : State) (r : MemReq) : Bool :=
  let x := s.pcState r.pc
  x.reads.any (fun e => e.req == r) || x.waiting.contains r

/-- The accesses and the reads of an operation. -/
def State.touchOp (s : State) (o : EngineOp) : State :=
  match s.tableAt o.table o.req.tick with
  | none => s
  | some t => s.touchKey o.table t o.cls (o.req.b1 / 16 % 4) o.req.tick o.writes o.key
def State.opReads (s : State) (o : EngineOp) : List MemReq :=
  match s.tableAt o.table o.req.tick with
  | none => []
  | some t => s.keyReads o.table t o.cls (o.req.b1 / 16 % 4) o.req.tick o.key

/-- The most threads seen busy at once in the epoch. -/
def State.noteThreads (s : State) (k : Nat) : State := { s with marver := { s.marver with threadPeak := max s.marver.threadPeak k } }

/-- An operation starts on a thread of an engine: it makes its reads, and holds the thread while one of them is queued (R329). -/
def State.startOp (s : State) (n : Nat) (o : EngineOp) : State :=
  let a := (s.touchOp o).noteThreads (s.threadsHeld + 1)
  let left := (s.opReads o).filter a.readQueued
  if left.isEmpty then a else a.setEngine n (a.engineQueue n ++ [{ o with reads := some left }])

/-- An operation comes to its engine: it starts, or waits in the input queue. -/
def State.offerOp (s : State) (n : Nat) (o : EngineOp) : State :=
  if s.startsNow n o then s.startOp n o else (s.setEngine n (s.engineQueue n ++ [o])).noteQueue n

/-- A request has no operation left at any engine. -/
def State.allDone (s : State) (r : Req) : Bool := s.engineQueues.all (fun q => q.2.all (fun o => o.req != r))

/-- Serve a table request whose last result is in the reply (R321). -/
def State.finishTable (s : State) (r : Req) : State :=
  let x := s.port r.port
  (s.setPort r.port { x with awaiting := x.awaiting.erase r }).serveTable r

/-- The operations of a request go to their engines, and the request is answered once the last has its result; room for its longest reply is
kept meanwhile (R208). -/
def State.beginTable (s : State) (r : Req) (longest : Nat) : State :=
  let x := s.port r.port
  let a := (s.setPort r.port { x with awaiting := x.awaiting ++ [r] }).keepRoom r longest
  let b := (s.opsOf r).foldl (fun t o => t.offerOp o.1 o.2) a
  if b.allDone r then b.finishTable r else b

/-- An operation's reads have all been served. -/
def State.opDone (s : State) (o : EngineOp) : Bool :=
  match o.reads with
  | none => false
  | some l => !l.any s.readQueued

/-- Threads become free as the reads of their operations are served, and the requests whose last operation has its result are answered. -/
def State.endOps (s : State) : State :=
  let a := (List.range 64).foldl (fun t n => if (t.engineQueue n).any s.opDone then t.setEngine n ((t.engineQueue n).filter (fun o => !s.opDone o)) else t) s
  let table := fun (r : Req) => [0x10, 0x11, 0x18, 0x19, 0x1A].contains r.opcode
  let done := (List.range 16).flatMap (fun p => (a.port p).awaiting.filter (fun r => table r && a.allDone r))
  done.foldl State.finishTable a

/-- The result records of the tables that a request names, and the error trailer, in bytes. -/
def State.recordBytes (s : State) (r : Req) : Nat :=
  let size := fun (n : Nat) => ((s.tableAt n r.tick).map Table.resultLen).getD 0
  (if r.opcode = 0x11 then ((multiTables r).map size).sum else argCount r * size r.object) + 8

/-- The longest reply of a table request that its checks do not refuse (R208, R321, R325). -/
def State.tableReply (s : State) (r : Req) (refusal : State → Option Nat) : Nat :=
  if (refusal s).isSome ∨ r.opcode = 0x18 then 16 else 16 + s.recordBytes r

/-- An engine that the request needs belongs to a bench held in local reset (R137). -/
def State.benchHeld (s : State) (r : Req) : Bool := (s.opsOf r).any (fun o => s.heldInReset (22 + o.1 / 8))

/-- The common course of a table opcode: its checks, then its operations at the engines (R320, R330). -/
def runTable (r : Req) (refusal : State → Option Nat) (s : State) : Host.Outcome State Fault Refusal :=
  runRequest r (s.tableReply r refusal) (fun t => (refusal t).isNone && !t.benchHeld r && (t.handingOver r || !t.queueRoom r)) (fun t =>
    match refusal t with
    | some st => t.refuseTable r st
    | none =>
      if t.benchHeld r then t.answer r stInternalFault 0 []
      else t.beginTable r (s.tableReply r refusal)) s

/-- LOOKUP (R319 to R321). -/
def execLookup (r : Req) (s : State) : Host.Outcome State Fault Refusal := runTable r (fun t => t.lookupRefusal r) s

/-- LOOKUP_MULTI (R322). -/
def execLookupMulti (r : Req) (s : State) : Host.Outcome State Fault Refusal := runTable r (fun t => t.multiRefusal r) s

/-- CNT_ADD (R324 to R326). -/
def execCntAdd (r : Req) (s : State) : Host.Outcome State Fault Refusal := runTable r (fun t => t.counterRefusal r) s

/-- CNT_READ (R324 to R326, R328). -/
def execCntRead (r : Req) (s : State) : Host.Outcome State Fault Refusal := runTable r (fun t => t.counterRefusal r) s

/-- CNT_READ_CLEAR (R325, R326, R328). -/
def execCntReadClear (r : Req) (s : State) : Host.Outcome State Fault Refusal := runTable r (fun t => t.counterRefusal r) s

/-- ENGINE_OP_START (R440): a thread that has become free takes the next operation of the engine's input queue. -/
def execEngineOpStart (n : Nat) (s : State) : Host.Outcome State Fault Refusal :=
  if s.halted || s.quenched then .next s
  else
    let a := s.endOps
    match a.nextOp n with
    | none => .next a
    | some o =>
      let b := (a.setEngine n ((a.engineQueue n).erase o)).startOp n o
      .next (if b.allDone o.req then b.finishTable o.req else b)

end Sys2Proof.Machine
end

