-- ==== Sys2Proof/Machine/TableCommands.lean ====
section
/-!
DEFINITION. Table commands: creation, deletion, resizing, tuning, counter dumps, staged updates and images
(R334 to R338, R342 to R354).
-/
namespace Sys2Proof.Machine

/-! ### Rows of staged versions (R343, R350) -/

/-- The key records of entries. -/
def keysOf (es : List Entry) : List (List Byte) := es.map (fun e => e.key)

/-- Entries of one partition. -/
def inPartition (k : TableKind) (klen : Nat) (es : List Entry) (p : Nat) : List Entry :=
  es.filter (fun e => partitionOf k klen e.key == p)

/-- A bound on the rows that one changed entry rewrites: its INDEX row; an EXACT bucket, and up to 128 displacements once its
partition holds more than one bucket; a PREFIX directory row, root rows and one line for each later stride. -/
def entryRows (t : Table) (v : Version) (e : Entry) : Nat :=
  match t.kind with
  | .exact => if (inPartition .exact t.klen v.entries (t.partition e.key)).length ≤ 4 then 1 else 129
  | .prefixTable => 1 + (if e.plen < 16 then ceilDiv (2 ^ (18 - e.plen)) 2048 else 1) + ceilDiv (e.plen - 16) 8
  | _ => 1

/-- The rows that changes rewrite: exact for INDEX, a bound otherwise. -/
def changedRows (t : Table) (v : Version) (es : List Entry) : Nat :=
  if t.kind = .index then distinct (es.map (fun e => indexRow t.vlen (leNat e.key)))
  else (es.map (entryRows t v)).sum

/-- Entries changed by each version whose new rows take of the allowance: the open one, the frozen one, and committed versions whose replaced
rows are not yet released. Each version writes rows of its own (R298). -/
def Table.allChanged (t : Table) (v : Version) : List (List Entry) :=
  v.changed :: ((t.frozen.map (·.changed)).getD []) :: t.olds.map (·.changed)

/-- R350: the rows rewritten fit in the staging allowance. Where the bound exceeds it and the count is not determined, the count is the
implementation's. -/
def Table.stageFits (t : Table) (n : Nat) (v : Version) : Bool :=
  let es := t.allChanged v
  v.whole || decide ((es.map (changedRows t v)).sum ≤ t.stageRows) ||
    (t.kind != .index && decide ((es.map (fun l => Config.rowsRewritten n (keysOf l))).sum ≤ t.stageRows))

/-- Rows rewritten as TABLE_INFO counts them. -/
def rewritten (n : Nat) (t : Table) (v : Version) : Nat :=
  if v.changed.isEmpty then 0 else if t.kind = .index then changedRows t v v.changed else Config.rowsRewritten n (keysOf v.changed)

/-- Rows that the contents of a version need: those of its geometry, or of a PREFIX trie. -/
def contentRows (n : Nat) (t : Table) (v : Version) : Nat :=
  if t.kind = .prefixTable then (if v.entries.isEmpty then 256 else min v.rows (Config.prefixRows n (keysOf v.entries))) else v.rows

/-- Rows of a staged version. -/
def stagedRows (n : Nat) (t : Table) (v : Option Version) : Nat :=
  match v with
  | none => 0
  | some x => if x.whole then contentRows n t x else rewritten n t x

/-- Rows in use by committed and staged versions (R334). -/
def Table.rowsInUse (t : Table) (n : Nat) : Nat :=
  t.copies (contentRows n t t.committed + stagedRows n t t.frozen + stagedRows n t t.opened)

/-! ### TABLE_CREATE, TABLE_INFO (R334, R335) -/

def kindOf : Nat → Option TableKind
  | 0 => some .exact
  | 1 => some .prefixTable
  | 2 => some .index
  | 3 => some .counter
  | _ => none

def kindCode : TableKind → Nat
  | .exact => 0
  | .prefixTable => 1
  | .index => 2
  | .counter => 3

/-- A record size of 4 B to 64 B in steps of 4 B. -/
def sizeOk (n : Nat) : Bool := decide (4 ≤ n ∧ n ≤ 64) && n % 4 == 0

/-- Codes, lengths and sizes of TABLE_CREATE. -/
def createOk (e : Sqe) (k : TableKind) : Bool :=
  let klen := e.par 20 1
  let vlen := e.par 21 1
  let lens := match k with
    | .exact => sizeOk klen && sizeOk vlen
    | .prefixTable => decide (1 ≤ klen ∧ klen ≤ 128) && vlen == 0
    | .index => klen == 0 && sizeOk vlen
    | .counter => klen == 0 && vlen == 0
  lens && e.par 24 4 != 0 && e.par 22 2 == 0 && e.par 28 4 == 0 && (k == .prefixTable || e.par 32 8 == 0) &&
    (if k = .prefixTable then decide (e.par 40 4 ≤ 65536) else e.par 40 4 == 0) && (k == .exact || e.par 44 4 == 0)

/-- The table that TABLE_CREATE makes: empty, in committed version 0. -/
def newTable (e : Sqe) (k : TableKind) : Table :=
  let cap := e.par 24 4
  let inst := if k = .prefixTable then max 1 (e.par 40 4) else 0
  let seed := if k = .exact then (if e.par 44 4 = 0 then 0x5A17C3E1 ^^^ e.par 16 1 else e.par 44 4) else 0
  let rows := baseRows k (e.par 20 1) (e.par 21 1) cap inst
  { kind := k, mirror := e.bit 18 0, klen := e.par 20 1, vlen := e.par 21 1, miss := leBytes 8 (e.par 32 8), instances := inst,
    stageRows := stageDefault k rows, number := 0,
    committed := { entries := [], capacity := cap, seed := seed, rows := rows, changed := [], whole := false, extra := 0 },
    frozen := none, opened := none, image := none, frozenImage := none, olds := [], counters := [], writtenBack := [], lost := [], badPrimary := [],
    badMirror := [], badCopy := [], lostPcs := 0, renewed := [], holes := false, created := e.tick, journal := .clean, journalBad := false, engMin := 1,
    engMax := 64, resident := false, noRepl := false, engNext := 1, serving := [], moved := [], ops := [], readsLast := 0 }

/-- DRAM layers with a pseudo-channel in service. -/
def State.layersInService (s : State) : Nat :=
  ((List.range 17).filter (fun l => l != 0 && (List.range 64).any (fun n => s.layerOf n == l && s.pcLive n))).length

/-- A number is in use: a table has it, or one deleted at the same or a later tick (R335). -/
def State.numberTaken (s : State) (n : Nat) (tick : Tick) : Bool :=
  (s.table n).isSome || s.dead.any (fun d => d.number == n && decide (tick ≤ d.tick))

/-- A new table stands at its number: one engine, the lowest that can be given work, serves it, and the bench of that engine has
a table (R126, R294). It is one whose bench runs, where there is one, since no request is to wait for a bench to wake (R127). -/
def State.placeTable (s : State) (n : Nat) (t : Table) : State :=
  let e := (s.usableEngines.find? s.engineRuns).getD (s.usableEngines.headD (s.liveEngines.headD 0))
  let u := s.putTable n (some { t with serving := (List.range 64).map (fun p => (p, e)) })
  { u with marver := { u.marver with givenBenches := setBit u.marver.givenBenches (e / 8) }, placed := true }

/-- TABLE_CREATE (R334, R335, R424). While no new row is placed, it waits (R421). -/
def execTableCreate (e : Sqe) (s : State) : Host.Outcome State Fault Refusal :=
  runCommand 0x180 e s (fun s =>
    match kindOf (e.par 17 1) with
    | none => s.done e stBadParam 0
    | some k =>
      let t := newTable e k
      if !createOk e k then s.done e stBadParam 0
      else if s.numberTaken (e.par 16 1) e.tick then s.done e stNotPermitted 0
      else if t.mirror && decide (s.layersInService < 2) then s.done e stResourceCulled 0
      else if s.freeTableRows < t.reserved then s.done e stTableFull 0
      else if s.placingPaused then s
      else
        ((s.placeTable (e.par 16 1) t).syncTables).done e stOk (packBytes [(0, 8, e.tick), (8, 4, t.reserved)]))

/-- TABLE_INFO (R334). -/
def execTableInfo (e : Sqe) (s : State) : Host.Outcome State Fault Refusal :=
  runCommand 0x182 e s (fun s =>
    match s.table (e.par 16 1) with
    | none => s.done e stNoSuchObject 0
    | some t =>
      let n := if t.kind = .exact ∨ t.kind = .prefixTable then t.committed.entries.length else t.committed.capacity
      s.done e stOk (packBytes [(0, 1, kindCode t.kind), (1, 1, b2n t.mirror + 2 * b2n t.holes), (2, 1, t.klen), (3, 1, t.vlen),
        (4, 4, t.committed.capacity), (8, 4, n), (12, 4, t.reserved), (16, 4, t.rowsInUse (e.par 16 1)), (20, 4, t.number)]))

/-! ### Records (R347, R348) -/

/-- One record of an update or an image. -/
structure TableRecord where
  op : Nat
  plen : Nat
  clean : Bool
  key : List Byte
  value : List Byte
  deriving DecidableEq, Repr

/-- INSERT, MODIFY and WRITE records hold a value (R347). -/
def opHasValue (op : Nat) : Bool := op == 1 || op == 3 || op == 4

/-- Bytes of a record. -/
def Table.recordLen (t : Table) (op : Nat) : Nat :=
  4 + ceilDiv t.keyLen 4 * 4 + (if opHasValue op then t.resultLen else 0)

/-- The record at the head of a buffer. Its reserved bytes and padding are 0 where `clean`; key bits beyond PLEN are treated as 0. -/
def Table.record (t : Table) (b : List Byte) : TableRecord :=
  let op := bufNat b 0 1
  let plen := bufNat b 1 1
  let padded := ceilDiv t.keyLen 4 * 4
  let key := (b.drop 4).take t.keyLen
  { op := op, plen := plen,
    clean := bufNat b 2 2 == 0 && ((b.drop (4 + t.keyLen)).take (padded - t.keyLen)).all (fun x => x == 0) && (t.kind == .prefixTable || plen == 0),
    key := if t.kind = .prefixTable then maskKey (min plen t.klen) key else key,
    value := if opHasValue op then (b.drop (4 + padded)).take t.resultLen else [] }

/-- The entry a record names. -/
def Version.lookup (v : Version) (r : TableRecord) : Option Entry := v.entries.find? (fun e => e.key == r.key && e.plen == r.plen)

/-- Distinct routing instances of a version. -/
def instancesOf (es : List Entry) : Nat := distinct (es.map (fun e => bufNat e.key 0 2))

/-- A version has no place for one more entry (R313, R315). The third case of R313 needs a full bucket and a full stash, so at least 20
entries in the partition. -/
def Version.full (v : Version) (t : Table) (n : Nat) (r : TableRecord) : Bool :=
  match t.kind with
  | .exact =>
    let part := keysOf (inPartition .exact t.klen v.entries (t.partition r.key))
    decide (v.capacity ≤ v.entries.length) || decide (18 * exactBp v.capacity / 5 ≤ part.length) ||
      (decide (20 ≤ part.length) && Config.noSlot v.seed part r.key)
  | .prefixTable =>
    let es := ⟨r.key, r.plen, r.value⟩ :: v.entries
    let bound := ceilDiv (es.length * prefixBytes t.klen + 524288 + instancesOf es * 262144) 2048
    decide (v.capacity ≤ v.entries.length) || (decide (v.rows < bound) && decide (v.rows < Config.prefixRows n (keysOf es)))
  | _ => false

/-- An entry added, replaced or removed. -/
def Version.put (v : Version) (r : TableRecord) : Version :=
  let e : Entry := ⟨r.key, r.plen, r.value⟩
  { v with entries := e :: v.entries.filter (fun x => !(x.key == r.key && x.plen == r.plen)), changed := e :: v.changed }
def Version.remove (v : Version) (r : TableRecord) : Version :=
  { v with entries := v.entries.filter (fun x => !(x.key == r.key && x.plen == r.plen)), changed := ⟨r.key, r.plen, []⟩ :: v.changed }

/-- A status, or the version a record leaves. -/
inductive Staged where
  | refused (status : Nat)
  | version (v : Version)
  deriving DecidableEq, Repr

/-- The operations of R348. -/
def Version.apply (v : Version) (t : Table) (n : Nat) (r : TableRecord) : Staged :=
  if !r.clean then .refused stBadParam
  else if t.kind = .index then
    if v.capacity ≤ leNat r.key then .refused stBadParam
    else if r.op = 2 then .version (v.remove r)
    else if r.op = 4 then
      -- an INDEX version lists the entries that are not all zeros
      .version (if r.value.all (fun b => b == 0) then v.remove r else v.put r)
    else .refused stBadParam
  else if t.kind = .prefixTable ∧ t.klen < r.plen then .refused stBadParam
  else
    let found := (v.lookup r).isSome
    match r.op with
    | 1 => if found then .refused stKeyExists else if v.full t n r then .refused stTableFull else .version (v.put r)
    | 2 => if found then .version (v.remove r) else .refused stKeyAbsent
    | 3 => if found then .version (v.put r) else .refused stKeyAbsent
    | 4 => if found then .version (v.put r) else if v.full t n r then .refused stTableFull else .version (v.put r)
    | _ => .refused stBadParam

/-! ### TABLE_UPDATE (R346, R349, R350) -/

/-- The open version, or a copy of the newest version the table holds (R343). -/
def Table.openVersion (t : Table) : Version :=
  match t.opened with
  | some v => v
  | none => { (t.frozen.getD t.committed) with changed := [], whole := false, extra := 0 }

/-- The length that COUNT records take in a buffer; `none` where the buffer ends too soon. -/
def Table.updateLen (t : Table) : Nat → List Byte → Option Nat
  | 0, _ => some 0
  | n + 1, b =>
    match b with
    | [] => none
    | op :: _ =>
      let k := t.recordLen op.toNat
      if b.length < k then none else (t.updateLen n (b.drop k)).map (fun m => k + m)

/-- Apply records in order: the version, or the index and status of the first that fails. -/
def Table.stageRecords (t : Table) (n : Nat) : Nat → Nat → Version → List Byte → Nat × Staged
  | 0, i, v, _ => (i, .version v)
  | k + 1, i, v, b =>
    let r := t.record b
    match v.apply t n r with
    | .refused st => (i, .refused st)
    | .version w => if t.stageFits n w then t.stageRecords n k (i + 1) w (b.drop (t.recordLen r.op)) else (i, .refused stTableFull)

/-- An image version is open (R352). -/
def Table.imageOpen (t : Table) : Bool := t.image.isSome

/-- The new rows of staged entries are written to all their copies, through the HB port, with the class of the entry (R385, R423, R431). -/
def State.writeStaged (s : State) (n : Nat) (t : Table) (cls : Nat) (es : List Entry) : State :=
  let u := { t with number := t.number + 1 }
  es.foldl (fun a e => (u.keyNodes n e.key).foldl (fun b line =>
    (b.lineCopies n u line).foldl (fun c p => c.request { c.lineRead cls 0 line p with port := .hb, write := true }) b) a) s

/-- TABLE_UPDATE on the bytes of its buffer: the checks of R349 in order. -/
def State.update (s : State) (e : Sqe) (b : List Byte) : State :=
  let n := bufNat b 0 1
  let count := bufNat b 4 4
  if b.length < 12 then s.done e stBadLength 0
  else if count < 1 ∨ 65536 < count ∨ bufNat b 1 3 ≠ 0 then s.done e stBadParam 0
  else
    match s.table n with
    | none => s.done e stNoSuchObject 0
    | some t =>
      if t.kind = .counter ∨ t.imageOpen = true then s.done e stNotPermitted 0
      else if t.updateLen count (b.drop 8) ≠ some (b.length - 8) then s.done e stBadLength 0
      else
        match t.stageRecords n count 0 t.openVersion (b.drop 8) with
        | (i, .refused st) => s.done e st i
        | (_, .version v) =>
          let new := v.changed.take (v.changed.length - t.openVersion.changed.length)
          ((s.putTable n (some { t with opened := some v })).writeStaged n t e.cls new).done e stOk 0

/-- A command of ring `n` in execution that is still to be placed in the order of updates: a TABLE_UPDATE, or a TABLE_COMMIT
that has not taken its versions. -/
def State.updateOpen (s : State) (n : Nat) (l : Live) : Bool :=
  l.opcode == 0x188 || (l.opcode == 0x18A && !s.commits.any (fun c => c.ring == n && c.tag == l.tag))

/-- What ring `n` has pending comes before `e` in the order of R345: an earlier doorbell tick, or the same tick on a
lower-numbered ring. Entries of a doorbell that are not fetched yet count, unless a reset has been accepted (R483). -/
def State.ringUpdatesFirst (s : State) (e : Sqe) (n : Nat) : Bool :=
  let x := s.ring n
  let first := fun (t : Tick) => decide (t < e.tick) || (t == e.tick && decide (n < e.ring))
  (!s.resetting && (x.doorbells.any (fun d => first d.2) || x.fetched.any (fun f => (f.opcode == 0x188 || f.opcode == 0x18A) && first f.tick))) ||
    x.live.any (fun l => s.updateOpen n l && first l.tick)

/-- A TABLE_UPDATE or TABLE_COMMIT that comes before this one under R345 has not been applied (R357). -/
def State.updateBefore (s : State) (e : Sqe) : Bool :=
  (List.range 16).any (fun n => n != e.ring && s.ringUpdatesFirst e n) ||
    ((s.ring e.ring).live.takeWhile (fun l => l.tag != e.tag || l.opcode != e.opcode)).any (s.updateOpen e.ring)

/-- TABLE_UPDATE. It waits for the updates before it. A buffer that cannot be read ends it under R471. -/
def execTableUpdate (e : Sqe) (h : HostRead) (s : State) : Host.Outcome State Fault Refusal :=
  runCommand 0x188 e s (fun s =>
    if s.updateBefore e then s
    else if e.paramLen < 12 then s.done e stBadLength 0
    else
      match h with
      | .data b => s.update e (b.take e.paramLen)
      | .badRequest => s.done e stBadParam 0
      | .noCompletion => s.done e stTimeout 0)

/-! ### TABLE_IMAGE (R352) -/

/-- TABLE_IMAGE: an empty open version and its area. While no new row is placed, it waits (R421). -/
def execTableImage (e : Sqe) (s : State) : Host.Outcome State Fault Refusal :=
  runCommand 0x189 e s (fun s =>
    let n := e.par 16 1
    let size := e.par 20 4
    let rows := ceilDiv size 2048
    if size < 64 then s.done e stBadParam 0
    else
      match s.table n with
      | none => s.done e stNoSuchObject 0
      | some t =>
        if t.kind = .counter ∨ t.opened.isSome = true then s.done e stNotPermitted 0
        else if s.freeTableRows < rows then s.done e stTableFull 0
        else if s.placingPaused then s
        else
          let v : Version := { (t.frozen.getD t.committed) with entries := [], changed := [], whole := true, extra := 0 }
          ((s.putTable n (some { t with opened := some v, image := some ⟨size, rows, [], false⟩ })).syncTables).done e stOk
            (packBytes [(0, 8, n * 2 ^ 40), (8, 4, rows)]))

/-- Build an image (R353, R354): its records up to OP = 0 or the end of the area; the offset and status of one that fails. -/
def Table.buildImage (t : Table) (n : Nat) (i : Image) : Nat → Nat → Version → Nat × Staged
  | 0, off, v => (off, .version v)
  | k + 1, off, v =>
    let byte := fun j => Map.get (fun _ => 0) i.bytes j
    let op := byte off
    let len := t.recordLen op
    if i.size ≤ off ∨ op = 0 then (off, .version v)
    else if i.size < off + len then (off, .refused stBadParam)
    else if (t.kind = .index ∧ op ≠ 4) ∨ (t.kind ≠ .index ∧ op ≠ 1) then (off, .refused stBadParam)
    else
      match v.apply t n (t.record ((List.range len).map (fun j => BitVec.ofNat 8 (byte (off + j))))) with
      | .refused st => (off, .refused st)
      | .version w => t.buildImage n i k (off + len) w

/-! ### TABLE_RESIZE, TABLE_TUNE (R334, R337) -/

/-- A rehash into a capacity and a seed finds a place for every entry (R337). -/
def rehashFits (t : Table) (cap seed : Nat) : List Entry → List Entry → Bool
  | _, [] => true
  | done, e :: r =>
    let part := keysOf (inPartition .exact t.klen done (t.partition e.key))
    if cap ≤ done.length ∨ 18 * exactBp cap / 5 ≤ part.length ∨ (20 ≤ part.length ∧ Config.noSlot seed part e.key = true) then false
    else rehashFits t cap seed (done ++ [e]) r

/-- A staged version that replaces the whole contents and holds a reservation of its own. -/
def Table.stageWhole (t : Table) (es : List Entry) (cap seed rows extra : Nat) : Table :=
  { t with opened := some { entries := es, capacity := cap, seed := seed, rows := rows, changed := [], whole := true, extra := extra } }

/-- TABLE_RESIZE of a PREFIX table: its reservation changes at once. -/
def State.resizePrefix (s : State) (e : Sqe) (n : Nat) (t : Table) : State :=
  let cap := e.par 20 4
  let rows := baseRows .prefixTable t.klen t.vlen cap t.instances
  let stage := if t.stageRows = stageDefault .prefixTable t.committed.rows then stageDefault .prefixTable rows else t.stageRows
  let set := fun (v : Version) => { v with capacity := cap, rows := rows }
  let u := { t with committed := set t.committed, frozen := t.frozen.map set, opened := t.opened.map set, stageRows := stage }
  if u.reserved < t.rowsInUse n then s.done e stNotPermitted 0
  else if s.freeTableRows + t.rowsHeld < u.rowsHeld then s.done e stTableFull 0
  else if s.placingPaused then s
  else ((s.putTable n (some u)).syncTables).done e stOk 0

/-- TABLE_RESIZE (R337). While no new row is placed, it waits (R421). -/
def execTableResize (e : Sqe) (s : State) : Host.Outcome State Fault Refusal :=
  runCommand 0x183 e s (fun s =>
    let n := e.par 16 1
    let cap := e.par 20 4
    match s.table n with
    | none => s.done e stNoSuchObject 0
    | some t =>
      let rows := baseRows t.kind t.klen t.vlen cap t.instances
      let extra := t.copies (rows + stageDefault t.kind rows)
      if cap = 0 then s.done e stBadParam 0
      else if t.kind = .counter then s.done e stNotPermitted 0
      else if t.kind = .prefixTable then s.resizePrefix e n t
      else if t.opened.isSome || t.frozen.isSome then s.done e stNotPermitted 0
      else if s.freeTableRows < extra then s.done e stTableFull 0
      else if t.kind = .exact && !rehashFits t cap t.committed.seed [] t.committed.entries.reverse then s.done e stTableFull 0
      else if s.placingPaused then s
      else
        let es := if t.kind = .index then t.committed.entries.filter (fun x => decide (leNat x.key < cap)) else t.committed.entries
        (((s.putTable n (some (t.stageWhole es cap t.committed.seed rows extra))).syncTables).writeStaged n t e.cls es).done e stOk 0)

/-- TABLE_TUNE (R334). While no new row is placed, it waits (R421). -/
def execTableTune (e : Sqe) (s : State) : Host.Outcome State Fault Refusal :=
  runCommand 0x185 e s (fun s =>
    let n := e.par 16 1
    let setSeed := e.bit 17 0
    let setStage := e.bit 17 1
    let seed := e.par 20 4
    let stage := e.par 24 4
    match s.table n with
    | none => s.done e stNoSuchObject 0
    | some t =>
      let u := if setStage then { t with stageRows := stage } else t
      if (setSeed && t.kind != .exact) || (setStage && (t.kind == .counter || decide (stage < 64))) then s.done e stBadParam 0
      else if setSeed && (t.opened.isSome || t.frozen.isSome) then s.done e stNotPermitted 0
      else if s.freeTableRows + t.rowsHeld < u.rowsHeld then s.done e stNotPermitted 0
      else if setSeed && !rehashFits t t.committed.capacity seed [] t.committed.entries.reverse then s.done e stTableFull 0
      else if s.placingPaused then s
      else
        let w := if !setSeed then u
          else if t.committed.entries.isEmpty then { u with committed := { t.committed with seed := seed } }
          else u.stageWhole t.committed.entries t.committed.capacity seed t.committed.rows 0
        (((s.putTable n (some w)).syncTables).writeStaged n t e.cls (if setSeed then t.committed.entries else [])).done e stOk 0)

/-! ### CNT_DUMP (R338) -/

/-- CNT_DUMP: one record for each counter of the range, read and perhaps cleared. -/
def execCntDump (e : Sqe) (s : State) : Host.Outcome State Fault Refusal :=
  runCommand 0x184 e s (fun s =>
    let n := e.par 16 1
    let first := e.par 20 4
    let count := e.par 24 4
    if count = 0 ∨ e.par 32 8 % 16 ≠ 0 then s.done e stBadParam 0
    else
      match s.table n with
      | none => s.done e stNoSuchObject 0
      | some t =>
        if t.kind ≠ .counter then s.done e stNotPermitted 0
        else if t.committed.capacity < first + count then s.done e stBadParam 0
        else if s.enginesGone then s.done e stResourceCulled 0
        else
          let is := (List.range count).map (fun i => first + i)
          let y := t.readCounters (e.bit 17 0) is
          let z := if e.bit 17 0 then y.2.writeBack (s.countersFar n t e.tick is) else y.2
          let u := is.foldl (fun u i => u.touchKey n t e.cls 0 e.tick (e.bit 17 0) (leBytes 4 i)) s
          let a := (u.putTable n (some { z with ops := addCount z.ops (e.tick / 4000000) count })).addF teCntOps count (2 ^ 64 - 1)
          (a.emitHost (.hostWrite (e.par 32 8) (y.1.flatMap (fun x => counterBytes x.1)))).done e stOk
            ((y.1.filter (fun x => x.2)).length))

/-! ### TABLE_ROWS_RETURN (R336) -/

/-- TABLE_ROWS_RETURN: the rows of a deleted table return once every request stamped before the delete has been answered. -/
def execTableRowsReturn (n : Nat) (s : State) : Host.Outcome State Fault Refusal :=
  match s.dead.find? (fun d => d.number == n) with
  | none => .next s
  | some d =>
    if s.tableSettled n d.tick then .next (({ s with dead := s.dead.erase d } : State).syncTables) else .next s

end Sys2Proof.Machine
end

