-- ==== Sys2Proof/Machine/Commits.lean ====
section
/-!
DEFINITION. Commits: arming, cuts, completion, cancellation, the commit log, and MARK (R224, R354, R357 to R368, R372).
-/
namespace Sys2Proof.Machine

/-! ### The commit log and the end of a commit (R363, R368) -/

def modeCode : CommitMode → Nat
  | .immediate => 0
  | .marker => 1
  | .event => 2

/-- Ports cut by MARK, and ports cut by a tick. -/
def Commit.byMark (c : Commit) : Nat := maskOf 16 (fun p => c.cuts.any (fun x => x.port == p && x.byMark))
def Commit.byTick (c : Commit) : Nat := maskOf 16 (fun p => c.cuts.any (fun x => x.port == p && !x.byMark))

/-- The lowest-numbered table named. -/
def Commit.lowest (c : Commit) : Nat := c.tables.foldl min 255

/-- The version number of a table. -/
def State.versionNumber (s : State) (n : Nat) : Nat := ((s.table n).map (·.number)).getD 0

/-- One record for a commit, numbered on from the newest; the log holds 458 496. -/
def State.logCommit (s : State) (c : Commit) (outcome : Nat) : State :=
  let ticks := c.cuts.map (·.tick)
  let r : CommitRecord :=
    { serial := ((s.commitLog.head?).map (·.serial)).getD 0 + 1, mode := modeCode c.mode, outcome := outcome, portsByMark := c.byMark,
      marker := c.marker, armTick := if c.mode = .immediate then c.doorbell else c.armTick, firstCut := (ticks.head?).getD 0,
      lastCut := ticks.foldl max 0, lowest := c.lowest, count := c.tables.length, version := s.versionNumber c.lowest }
  { s with commitLog := (r :: s.commitLog).take 458496 }

/-- Take a commit out of those in progress. -/
def State.dropCommit (s : State) (c : Commit) : State := { s with commits := s.commits.erase c }

/-- The final completion of a commit, its record, and the commit-done pulse. -/
def State.endCommit (s : State) (c : Commit) (status result outcome : Nat) : State :=
  (((s.dropCommit c).logCommit c outcome).complete c.ring c.tag status result).pulseSource 0x400

/-- Write a journal state for every table of a commit (R362, R367). -/
def State.journal (s : State) (c : Commit) (j : JournalState) : State :=
  c.tables.foldl (fun u n =>
    match u.table n with
    | none => u
    | some t => u.putTable n (some { t with journal := j })) s

/-! ### Cancelling (R336, R365) -/

/-- A frozen version becomes the open version again, with its image area where it has one. An open version that exists stays as it is, since
it includes the changes of the frozen one, whose image area goes. -/
def Table.thaw (t : Table) : Table :=
  match t.frozen with
  | none => t
  | some v =>
    match t.opened with
    | none =>
      { t with frozen := none, opened := some (if t.frozenImage.isSome then { v with entries := [] } else v),
               image := t.frozenImage.map (fun i => { i with built := false }), frozenImage := none }
    | some o =>
      { t with frozen := none, frozenImage := none,
               opened := some { o with changed := o.changed ++ v.changed, whole := o.whole || v.whole, extra := o.extra + v.extra } }

/-- Thaw every table of a commit; journal slots read CLEAN. -/
def State.thawAll (s : State) (c : Commit) : State :=
  ((c.tables.foldl (fun u n =>
    match u.table n with
    | none => u
    | some t => u.putTable n (some (if c.moved.contains n then t.thaw else t))) s).journal c .clean).syncTables

/-- No port is cut: no MARK has cut one, and the tick E of a tick cut has not come. -/
def State.uncut (s : State) (c : Commit) : Bool :=
  c.cuts.isEmpty &&
    (match c.phase with
     | .due t => decide (s.now < t)
     | _ => true)

/-- Cancel a commit with no port cut: its versions are open again, and its final completion has the status given. -/
def State.cancelCommit (s : State) (c : Commit) (status outcome : Nat) : State :=
  (s.thawAll c).endCommit c status 0 outcome

/-- Staged versions are discarded, with the rows they hold. -/
def Table.discardStaged (t : Table) : Table := { t with frozen := none, opened := none, image := none, frozenImage := none }

/-- The table's bit in IG_TABLE_DAMAGED is cleared (R422). -/
def State.clearDamaged (s : State) (n : Nat) : State := s.setF (igTableDamaged (n / 32)) (clearBit (s.f (igTableDamaged (n / 32))) (n % 32))

/-! ### TABLE_DELETE (R335, R336, R366) -/

/-- A deletion takes effect at a tick: staged versions go, and the rows stay in use until the requests before it are answered. -/
def State.deleteTable (s : State) (n ring tag : Nat) (tick : Tick) : State :=
  match s.table n with
  | none => s.complete ring tag stNoSuchObject 0
  | some t =>
    let a := { s.putTable n none with dead := s.dead ++ [({ number := n, table := t, tick := tick } : DeadTable)] }
    let b := { a with marver := { a.marver with nodes := a.marver.nodes.filter (fun x => x.table != n)
                                                settings := a.marver.settings.filter (fun x => match x with
                                                  | .hint m _ _ _ _ => m != n
                                                  | .tune .. => true) } }
    ((b.clearDamaged n).syncTables).complete ring tag stOk
      (packBytes [(0, 8, tick), (8, 4, t.rowsHeld)])

/-- The commit in progress that names a table. -/
def State.commitOf (s : State) (n : Nat) : Option Commit := s.commits.find? (fun c => c.tables.contains n)

/-- TABLE_DELETE: a commit with no port cut ends with NO_SUCH_OBJECT; one with a port cut is completed first. -/
def execTableDelete (e : Sqe) (s : State) : Host.Outcome State Fault Refusal :=
  runCommand 0x181 e s (fun s =>
    let n := e.par 16 1
    match s.table n with
    | none => s.done e stNoSuchObject 0
    | some _ =>
      match s.commitOf n with
      | none => s.deleteTable n e.ring e.tag e.tick
      | some c =>
        if s.uncut c then (s.cancelCommit c stNoSuchObject 2).deleteTable n e.ring e.tag e.tick
        else { s with commits := s.commits.map (fun x => if x = c then { c with deletes := c.deletes ++ [(n, e.ring, e.tag, e.tick)] } else x) })

/-! ### The cut on every port (R342, R350, R361, R363, R422) -/

/-- A frozen version rewrites every row that holds a node of this key (R422). -/
def Table.rewrites (t : Table) (n : Nat) (v : Version) (key : List Byte) : Bool :=
  let rows := fun (k : List Byte) => (t.keyNodes n k).map (fun line => line / 32)
  let new := v.changed.flatMap (fun e => rows e.key)
  v.whole || (rows key).all (fun r => new.contains r)

/-- A frozen version becomes the committed version of its table. -/
def Table.commitFrozen (t : Table) (n : Nat) (cuts : List Cut) : Table :=
  match t.frozen with
  | none => t
  | some v =>
    let stays := fun (k : List Byte) => !t.rewrites n v k
    { t with committed := { v with changed := [], whole := false, extra := 0 }, frozen := none, number := (t.number + 1) % 2 ^ 32,
             olds := ⟨t.committed, cuts, if v.whole then [] else v.changed⟩ :: t.olds, frozenImage := none,
             stageRows := if v.extra = 0 then t.stageRows else stageDefault t.kind v.rows,
             lostPcs := if v.whole then 0 else t.lostPcs,
             renewed := if v.whole || t.lostPcs == 0 then [] else v.changed.map (·.key) ++ t.renewed,
             badPrimary := t.badPrimary.filter stays, badMirror := t.badMirror.filter stays, badCopy := t.badCopy.filter stays }

/-- A version of table `n` replaces the committed one. IG_TABLE_DAMAGED is cleared by one that replaces the whole contents or rewrites a row with
an uncorrectable node (R422). -/
def State.commitTable (s : State) (n : Nat) (cuts : List Cut) : State :=
  match s.table n with
  | none => s
  | some t =>
    let u := t.commitFrozen n cuts
    let a := s.putTable n (some u)
    let whole := (t.frozen.map (·.whole)).getD false
    if whole || u.badPrimary != t.badPrimary || u.badMirror != t.badMirror then a.clearDamaged n else a

/-- The tick of the last cut. -/
def Commit.lastCut (c : Commit) : Tick := (c.cuts.map (·.tick)).foldl max 0

/-- The commit has taken effect on every port (R363): DONE_PARTIAL if a port of the mask was cut by tick. Deletions that waited for it
follow. -/
def State.finishCommit (s : State) (c : Commit) : State :=
  let partial' := c.mode == .marker && (c.byTick &&& c.mask) != 0
  let a := ((c.moved.foldl (fun u n => u.commitTable n c.cuts) s).journal c .clean).syncTables
  let b := a.endCommit c (if partial' then stDonePartial else stOk)
    (packBytes [(0, 8, c.lastCut), (8, 2, c.byMark), (10, 2, c.byTick), (12, 4, a.versionNumber c.lowest)]) (if partial' then 1 else 0)
  c.deletes.foldl (fun u d => u.deleteTable d.1 d.2.1 d.2.2.1 (max d.2.2.2 c.lastCut)) b

/-- Put a changed commit back. -/
def State.replaceCommit (s : State) (old new : Commit) : State := { s with commits := s.commits.map (fun c => if c = old then new else c) }

/-- Every port that is not cut is cut at a tick. -/
def Commit.cutRest (c : Commit) (ports : List Nat) (tick : Tick) : Commit :=
  { c with cuts := c.cuts ++ (ports.filter (fun p => !c.cuts.any (fun x => x.port == p))).map (fun p => ⟨p, tick, false, []⟩), phase := .cutting }

/-- Ports of the mask all cut. -/
def Commit.complete (c : Commit) : Bool := (List.range 16).all (fun p => c.cuts.any (fun x => x.port == p))

/-! ### Arming (R354, R357 to R362) -/

/-- A frozen version waits for its image to be built. -/
def Table.imageWaits (t : Table) : Bool := (t.frozenImage.map (fun i => !i.built)).getD false

/-- A commit still waits for an image to be built. -/
def State.unbuilt (s : State) (c : Commit) : Bool := c.moved.any (fun n => ((s.table n).map Table.imageWaits).getD false)

/-- The tick cut of a commit lies 8 000 ticks after its base; the CUTTING write starts there. -/
def State.setDue (s : State) (c : Commit) (base : Tick) : State :=
  (s.replaceCommit c { c with phase := .due (base + 8000) }).journal c .cutting

/-- Every version of the commit is complete: an IMMEDIATE commit falls due, MARKER and EVENT commits are armed with PENDING. -/
def State.versionsReady (s : State) (c : Commit) : State :=
  match c.mode with
  | .immediate => s.setDue c (max c.doorbell s.now)
  | _ =>
    let d := { c with phase := .armed, armTick := s.now }
    ((s.replaceCommit c d).journal d .armed).complete c.ring c.tag stPending (resTick s.now)

/-- The image versions of a commit are frozen with the others; their contents come when their builds end. -/
def Table.freeze (t : Table) : Table := { t with frozen := t.opened, opened := none, frozenImage := t.image, image := none }

/-- R357: a bulk-mover channel has a transfer running into the image area of a table: space 1, the table in bits 47:40. A compare writes
nothing (R509). -/
def State.imageWritten (s : State) (n : Nat) : Bool :=
  (List.range 18).any (fun c => s.f (bmChStatusState c) == 1 && s.f (bmAcModeOp c) != 2 && s.f (bmAcModeDstSpace c) == 1 && s.f (bmAcDst c) / 2 ^ 40 % 256 == n)

/-- The tables of a 256-bit mask. -/
def maskTables (m : Nat) : List Nat := (List.range 256).filter (fun n => bitOf m n)

/-- The fields of TABLE_COMMIT that its mode does not use are 0, and the others in range. -/
def commitForm (e : Sqe) : Bool :=
  let mode := e.par 16 1
  let marker := e.par 18 2 == 0 && e.par 20 4 == 0 && e.par 24 2 == 0
  e.par 32 32 != 0 &&
    (match mode with
     | 0 => marker && e.par 26 1 == 0
     | 1 => e.par 18 2 != 0 && decide (e.par 20 4 ≤ 131071) && e.par 26 1 == 0
     | 2 => marker && decide (e.par 26 1 ≤ 63)
     | _ => false)

def modeOf : Nat → CommitMode
  | 0 => .immediate
  | 1 => .marker
  | _ => .event

/-- The refusals of TABLE_COMMIT in the order of R372. -/
def State.commitRefusal (s : State) (e : Sqe) : Option Nat :=
  let ts := maskTables (e.par 32 32)
  let mode := modeOf (e.par 16 1)
  if !commitForm e then some stBadParam
  else if ts.any (fun n => (s.table n).isNone) || (mode == .event && s.f (evSrcCode (e.par 26 1)) == 0xFFFF) then some stNoSuchObject
  else if ts.any (fun n => ((s.table n).map (fun t => t.kind == .counter)).getD false) then some stNotPermitted
  else if ts.any (fun n => (s.commitOf n).isSome) then some stNotPermitted
  else if mode != .event && ts.any (fun n => ((s.table n).map Table.imageOpen).getD false && s.imageWritten n) then some stNotPermitted
  else none

/-- The commit that a TABLE_COMMIT makes. -/
def newCommit (e : Sqe) (moved : List Nat) : Commit :=
  { mode := modeOf (e.par 16 1), phase := .building, tables := maskTables (e.par 32 32), moved := moved, ring := e.ring, tag := e.tag,
    doorbell := e.tick, armTick := 0, base := 0, mask := e.par 18 2, marker := e.par 20 4,
    timeout := if e.par 24 2 = 0 then 1000 else e.par 24 2, line := e.par 26 1, cuts := [], deletes := [], cls := e.cls,
    written := false }

/-- TABLE_COMMIT (R358 to R361). It waits for the updates before it (R357). -/
def execTableCommit (e : Sqe) (s : State) : Host.Outcome State Fault Refusal :=
  runCommand 0x18A e s (fun s0 =>
    let s := s0.reach e.tick
    if s.updateBefore e then s else
    match s.commitRefusal e with
    | some st => s.done e st 0
    | none =>
      let moved := (maskTables (e.par 32 32)).filter (fun n => ((s.table n).map (fun t => t.opened.isSome)).getD false)
      let c := newCommit e moved
      let a := moved.foldl (fun u n => u.putTable n ((u.table n).map Table.freeze)) { s with commits := s.commits ++ [c] }
      -- an EVENT commit builds its images from the pulse onwards
      if c.mode != .event && a.unbuilt c then a else a.versionsReady c)

/-- IMAGE_BUILD_DONE (R354): the build of a table's image ends, with its version or with the status of a record that fails. -/
def execImageBuildDone (n : Nat) (s : State) : Host.Outcome State Fault Refusal :=
  match s.commitOf n, s.table n with
  | some c, some t =>
    match t.frozenImage, t.frozen with
    | some i, some v =>
      if i.built || c.phase != .building || s.halted || !s.fwRuns then .next s
      else
        match t.buildImage n i (i.size + 1) 0 { v with entries := [], changed := [] } with
        | (off, .refused st) =>
          let a := s.putTable n (some { t with frozen := none, frozenImage := none })
          .next ((a.thawAll { c with moved := c.moved.filter (fun m => m != n) }).endCommit c st off 3)
        | (_, .version w) =>
          let b := s.putTable n (some { t with frozen := some { w with changed := [], whole := true }, frozenImage := some { i with built := true } })
          let a := b.writeStaged n t c.cls w.entries
          if a.unbuilt c then .next a
          else if c.mode = .event then .next (a.setDue c (max c.base a.now))
          else .next (a.versionsReady c)
    | _, _ => .next s
  | _, _ => .next s

/-- A pulse fires the armed EVENT commits of its line (R360). -/
def State.fireCommits (s : State) (line : Nat) (tick : Tick) : State :=
  (s.commits.filter (fun c => c.mode == .event && c.phase == .armed && c.line == line && decide (c.armTick ≤ tick))).foldl (fun u c =>
    if u.unbuilt c then u.replaceCommit c { c with phase := .building, base := tick } else u.setDue c tick) s

/-! ### Cuts (R358, R361, R364) -/

/-- COMMIT_EFFECT_TICK (R359, R360): every port is cut at E. -/
def execCommitEffectTick (n : Nat) (s : State) : Host.Outcome State Fault Refusal :=
  match s.commitOf n with
  | none => .next s
  | some c =>
    match c.phase with
    | .due t =>
      if s.halted || !s.fwRuns then .next s
      else
        let d := c.cutRest (List.range 16) t
        .next (((s.reach t).replaceCommit c d).finishCommit d)
    | _ => .next s

/-- The tick at which TIMEOUT expires, counted from the first cut (R364). -/
def Commit.expiry (c : Commit) : Option Tick := (c.cuts.head?).map (fun x => x.tick + c.timeout * 4000000)

/-- A MARK of the commit's number stamped before a tick may still cut this port: it waits in the port's stream, or may still arrive. -/
def State.markComes (s : State) (c : Commit) (p : Nat) (tick : Tick) : Bool :=
  bitOf c.mask p && !c.cuts.any (fun x => x.port == p) &&
    (s.receivingBefore p tick ||
      (s.port p).unfinished.any (fun q => q.opcode == 0x20 && q.object == c.marker && decide (c.armTick ≤ q.tick ∧ q.tick < tick)))

/-- COMMIT_CUT_TIMEOUT (R364): TIMEOUT ms after the first cut, the ports of the mask still uncut are cut by tick. A MARK recorded before that
tick cuts its port first. -/
def execCommitCutTimeout (n : Nat) (s : State) : Host.Outcome State Fault Refusal :=
  match s.commitOf n with
  | none => .next s
  | some c =>
    match c.phase, c.expiry with
    | .cutting, some t =>
      if s.halted || !s.fwRuns || (List.range 16).any (fun p => s.markComes c p t) then .next s
      else
        let d := c.cutRest (List.range 16) t
        .next (((s.reach t).replaceCommit c d).finishCommit d)
    | _, _ => .next s

/-- A MARK cuts its port for a commit (R361), unless it was recorded once TIMEOUT had expired (R364). -/
def Commit.cutBy (c : Commit) (r : Req) : Bool :=
  c.mode == .marker && (c.phase == .armed || c.phase == .cutting) && c.marker == r.object && decide (c.armTick ≤ r.tick) && bitOf c.mask r.port &&
    !c.cuts.any (fun x => x.port == r.port) && c.expiry.all (fun t => decide (r.tick < t))

/-- The MARK would make the first cut of a commit, and one recorded at an earlier tick on another port may still make it: the ports outside the
mask are cut at the tick of the first (R361). -/
def State.markWaits (s : State) (r : Req) : Bool :=
  s.fwRuns && s.commits.any (fun c => c.cuts.isEmpty && c.cutBy r && (List.range 16).any (fun p => p != r.port && s.markComes c p r.tick))

/-- One armed MARKER commit meets a MARK (R361): the port's cut lies directly after it; with the first, ports outside the mask are cut
at its tick. -/
def State.markCommit (s : State) (c : Commit) (r : Req) (stream : List Req) : State :=
  if c.cutBy r then
    let cut : Cut := ⟨r.port, r.tick, true, stream⟩
    let outside := (List.range 16).filter (fun p => !bitOf c.mask p)
    let d := if c.cuts.isEmpty then
        { c with cuts := cut :: outside.map (fun p => ⟨p, r.tick, false, []⟩), phase := .cutting }
      else { c with cuts := c.cuts ++ [cut] }
    let a := (s.replaceCommit c d).journal d .cutting
    if d.complete then a.finishCommit d else a
  else s

/-- MARK (R224, R361): it is recorded in its port's stream, and cuts the armed commits of its number. No cut is made once the service
firmware has stopped (R50). -/
def execMark (r : Req) (s : State) : Host.Outcome State Fault Refusal :=
  let stream := (s.port r.port).unfinished.filter (fun q => decide (q.id < r.id))
  runRequest r (if r.length ≠ 0 ∨ bitOf r.b2 0 = true then 16 else 0) (fun t => r.length == 0 && t.markWaits r) (fun t =>
    if r.length ≠ 0 then t.refuseLength r
    else
      let x := t.port r.port
      let a := t.setPort r.port { x with marks := x.marks ++ [⟨r, stream⟩] }
      if a.fwRuns then a.commits.foldl (fun u c => u.markCommit c r stream) a else a) s

/-! ### VERSION_ROWS_RELEASE (R363) -/

/-- A request still to be served, or still being received, precedes the cuts of an old version. -/
def State.oldInUse (s : State) (n : Nat) (t : Table) (o : OldVersion) : Bool :=
  (List.range 16).any (fun p => o.cuts.any (fun c => c.port == p && !c.byMark && s.receivingBefore p c.tick) || (s.port p).unfinished.any (fun r =>
    namesTable r n && decide (t.created ≤ r.tick) && beforeCut o.cuts r))

/-- VERSION_ROWS_RELEASE: the oldest old version of a table goes once no request is to be served under it. -/
def execVersionRowsRelease (n : Nat) (s : State) : Host.Outcome State Fault Refusal :=
  match s.table n with
  | none => .next s
  | some t =>
    match t.olds.getLast? with
    | none => .next s
    | some o => if s.oldInUse n t o then .next s else .next ((s.putTable n (some { t with olds := t.olds.dropLast })).syncTables)

/-! ### TABLE_ABORT, COMMIT_LOG (R365, R368, R372) -/

/-- TABLE_ABORT. -/
def execTableAbort (e : Sqe) (s : State) : Host.Outcome State Fault Refusal :=
  runCommand 0x18B e s (fun s =>
    let ts := maskTables (e.par 32 32)
    let cs := s.commits.filter (fun c => c.tables.any (fun n => ts.contains n))
    if ts.any (fun n => (s.table n).isNone) then s.done e stNoSuchObject 0
    else if cs.any (fun c => !s.uncut c) then s.done e stNotPermitted 0
    else
      let a := cs.foldl (fun u c => u.cancelCommit c stEmpty 2) s
      let b := if e.bit 16 0 then
          (ts.foldl (fun u n => u.putTable n ((u.table n).map Table.discardStaged)) a).syncTables
        else a
      b.done e stOk 0)

/-- The 64 B of a record. -/
def CommitRecord.bytes (r : CommitRecord) : List Byte :=
  leBytes 8 r.serial ++ leBytes 1 r.mode ++ leBytes 1 r.outcome ++ leBytes 2 r.portsByMark ++ leBytes 4 r.marker ++ leBytes 8 r.armTick ++
    leBytes 8 r.firstCut ++ leBytes 8 r.lastCut ++ leBytes 2 r.lowest ++ leBytes 2 r.count ++ leBytes 4 r.version ++ leBytes 16 0

/-- COMMIT_LOG: records, the newest first. -/
def execCommitLog (e : Sqe) (s : State) : Host.Outcome State Fault Refusal :=
  runCommand 0x18C e s (fun s =>
    let n := e.par 24 4
    if n < 1 ∨ 65536 < n ∨ e.par 16 8 % 16 ≠ 0 then s.done e stBadParam 0
    else
      let rs := s.commitLog.take n
      (s.emitHost (.hostWrite (e.par 16 8) (rs.flatMap CommitRecord.bytes))).done e stOk
        (packBytes [(0, 4, rs.length), (4, 8, ((s.commitLog.head?).map (·.serial)).getD 0)]))

/-! ### The journal at a reset (R362, R367) -/

/-- The tick at which the CUTTING write of a commit starts. -/
def Commit.cutStart (c : Commit) : Option Tick :=
  match c.phase with
  | .due t => some (t - 8000)
  | .cutting => (c.cuts.head?).map (·.tick)
  | _ => none

/-- A commit whose CUTTING write did not reach the DRAM: its slots show what they showed before. -/
def State.unstart (s : State) (c : Commit) : State :=
  if c.mode = .immediate then (s.replaceCommit c { c with phase := .building }).journal c .clean
  else (s.replaceCommit c { c with phase := .armed }).journal c .armed

/-- A reset less than 2 µs after the start of a CUTTING write finds the slots of its commit as before or as CUTTING: a free value (R362). Once a
request has been served under the new version, the write has reached the DRAM. -/
def State.settleJournal (s : State) : State :=
  s.commits.foldl (fun u c =>
    match c.cutStart with
    | none => u
    | some t =>
      if t + 8000 ≤ u.now ∨ c.written = true then u
      else
        let k := u.fresh
        if Config.freeValue k.1 % 2 = 1 then k.2 else k.2.unstart c) s

/-! ### Commits at a quiesce (R366) -/

/-- A commit is cancelled by the quiesce: with EMPTY, recorded as cancelled by reset, and listed in the recovery report (R102). -/
def State.cancelForReset (s : State) (c : Commit) : State :=
  let t := s.cancelCommit c stEmpty 4
  { t with cancelled := t.commitLog.take 1 ++ t.cancelled }

/-- Under the quiesce of R101, a commit with some ports cut is completed at the doorbell tick of DEV_RESET. One that is armed and has
not fired, or that would still have to be armed by MARK, is cancelled. One that has fired goes on to its tick. -/
def State.quiesceCommits (s : State) (tick : Tick) : State :=
  s.commits.foldl (fun u c =>
    match c.phase with
    | .cutting =>
      let d := c.cutRest (List.range 16) tick
      (u.replaceCommit c d).finishCommit d
    | .armed => u.cancelForReset c
    | .building => if c.mode = .marker then u.cancelForReset c else u
    | .due _ => u) s

end Sys2Proof.Machine
end

