-- ==== Sys2Proof/Machine/HostPort.lean ====
section
/-!
DEFINITION. The host port: configuration space, BAR0, MSI-X and the command rings (R450 to R478).
-/
namespace Sys2Proof.Machine

/-! ### Configuration space (R88, R450 to R453) -/

/-- What a configuration read returns. -/
def State.cfgRead (s : State) : CfgItem → Nat
  | .deviceId => s.deviceId
  | .classCode => 0x058000
  | .revisionId => Config.revision % 128 + 128 * b2n s.isEs
  | .serialNumber => s.serial
  | .bar0 => s.pcie.bar0
  | .bar2 => s.pcie.bar2
  | .msixEnable => b2n s.pcie.msixEnable
  | .msixFunctionMask => b2n s.pcie.msixFnMask
  | .maxPayload => s.pcie.maxPayload
  | .maxReadRequest => s.pcie.maxReadRequest
  | .completionTimeout => s.pcie.completionTimeout
  | .noSnoopEnable => b2n s.pcie.noSnoopEnable
  | .aspmL1 => b2n s.pcie.aspmL1
  | .commonClock => b2n s.pcie.commonClock
  | .powerState => if s.pcie.d3hot then 3 else 0
  | .ptmEnable => b2n s.pcie.ptmEnable
  | .aerUncorrStatus => s.pcie.aerStatus
  | .aerUncorrMask => s.pcie.aerMask
  | .aerUncorrSeverity => s.pcie.aerSeverity

/-- Entering D3hot stops every memory request of the S64 (R453). -/
def State.enterD3 (s : State) : State := { s with pcie := { s.pcie with d3hot := true } }

/-- The return to D0: what waited is sent, in the order in which it was made, and nothing is reset (R453). -/
def State.returnD0 (s : State) : State :=
  ({ s with pcie := { s.pcie with d3hot := false }, out := s.heldOut ++ s.out, heldOut := [] }).flushVectors

/-- What a configuration write does. Read-only items ignore it. The AER status is cleared by writing ones. -/
def State.cfgWrite (s : State) (i : CfgItem) (v : Nat) : State :=
  match i with
  | .bar0 => { s with pcie := { s.pcie with bar0 := v % 2 ^ 64 / 2 ^ 24 * 2 ^ 24 } }
  | .bar2 => { s with pcie := { s.pcie with bar2 := v % 2 ^ 64 / 2 ^ 28 * 2 ^ 28 } }
  | .msixEnable => ({ s with pcie := { s.pcie with msixEnable := v % 2 == 1 } }).flushVectors
  | .msixFunctionMask => ({ s with pcie := { s.pcie with msixFnMask := v % 2 == 1 } }).flushVectors
  | .maxPayload => { s with pcie := { s.pcie with maxPayload := v % 8 } }
  | .maxReadRequest => { s with pcie := { s.pcie with maxReadRequest := v % 8 } }
  | .completionTimeout => { s with pcie := { s.pcie with completionTimeout := v % 16 } }
  | .noSnoopEnable => { s with pcie := { s.pcie with noSnoopEnable := v % 2 == 1 } }
  | .aspmL1 => { s with pcie := { s.pcie with aspmL1 := v % 2 == 1 } }
  | .commonClock => { s with pcie := { s.pcie with commonClock := v % 2 == 1 } }
  | .powerState => if v % 4 = 3 then s.enterD3 else if v % 4 = 0 then s.returnD0 else s
  | .ptmEnable => { s with pcie := { s.pcie with ptmEnable := v % 2 == 1 } }
  | .aerUncorrStatus => { s with pcie := { s.pcie with aerStatus := s.pcie.aerStatus - (s.pcie.aerStatus &&& v) } }
  | .aerUncorrMask => { s with pcie := { s.pcie with aerMask := v % 2 ^ 32 } }
  | .aerUncorrSeverity => { s with pcie := { s.pcie with aerSeverity := v % 2 ^ 32 } }
  | .deviceId | .classCode | .revisionId | .serialNumber => s

/-- CONFIG_REQUEST (R88, R452): Request Retry Status before PCIE_READY, normal service after it, safe hold included
(R623). Any request takes the link out of L1. -/
def execConfigRequest (a : CfgAccess) (s : State) : Host.Outcome State Fault Refusal :=
  if !s.on devStatusPcieReady && !s.safeHold then .next (s.emit .cfgRetry)
  else
    let t := { s with pcie := { s.pcie with linkL1 := false } }
    match a with
    | .read i => .next (t.emit (.cfgReply (t.cfgRead i)))
    | .write i v => .next ((t.cfgWrite i v).emit (.cfgReply 0))

/-- BAR0_BAD_ACCESS (R457): counted in HC_BAD_ACCESS and logged; a read receives Completer Abort, a write is dropped,
an AtomicOp receives Unsupported Request. Before PCIE_READY no BAR is decoded (R88). -/
def execBar0BadAccess (k : BadAccess) (off : Nat) (s : State) : Host.Outcome State Fault Refusal :=
  let t := (s.bump hcBadAccess 32).report
    { pre := .hc, code := 0x02, severity := 0, data := off % 2 ^ 32 }
  if !s.decodesBars then .next (match k with
    | .write => s
    | _ => s.emit .unsupportedRequest) else
  match k with
  | .read => .next (t.emit .completerAbort)
  | .write => .next t
  | .atomicOp => .next (t.emit .unsupportedRequest)

/-! ### Register writes (R22 to R24, R458) -/

/-- Fields that have a command of their own: a write of them is that command. -/
def ownRow (k : Fld) : Bool :=
  k == evSwPulseLine || k == teLatCfgClear || k == rgCfgWindow ||
  (List.range 16).any (fun r => k == hcRingCtrlEnable r) ||
  (List.range 18).any (fun c => k == bmChCtrlStart c || k == bmChCtrlClear c || k == bmChCtrlArm c)

/-- The offset lies in the registers of a privileged bulk-mover channel, whose writable fields are RWA (R517). -/
def privilegedOffset (off : Nat) : Bool := decide (0x41000 ≤ off ∧ off < 0x41200)

/-- The pseudo-channel whose delay register lies at `off` (R405). -/
def delayPc (off : Nat) : Option Nat :=
  let r := off % 0x1000
  if 0xD0000 ≤ off ∧ off < 0xE0000 ∧ 0x100 ≤ r ∧ r < 0x500 ∧ 0x20 ≤ r % 0x100 ∧ r % 0x100 < 0x54 then
    some (4 * ((off - 0xD0000) / 0x1000) + r / 0x100 - 1)
  else none

/-- Anvil may write a pseudo-channel's delays: in a calibration hold, before it first leaves reset, or during a BIST of its
controller (R397). -/
def State.delaysOpen (s : State) (n : Nat) : Bool :=
  s.on (mcPcStatusCalHold n) || (s.pilot.phase != .running && s.pilot.stackHold) || bitOf s.test.pcBist n

/-- The _HI half of PL_GATE_DIS holds 28 bits and that of PL_PWR_HOLD 18; their other bits are reserved (R153). -/
def pairTop (k : Fld) : Nat := if k = plGateDis then 2 ^ 28 else if k = plPwrHold then 2 ^ 18 else 2 ^ 32

/-- A discipline source is selected (R144): the next measurement is its first, and TIMESYNC that is stuck is holdover (R147). DEDUCED (log
entry 14): a write that leaves TB_CTRL.SRC as it was selects nothing. -/
def State.selectSource (s : State) (v : Nat) : State :=
  let t := ({ s with time := { s.time with measured := false } }).setF tbCtrlSrc v
  if v = 2 ∧ s.on tbStatusTimesyncStuck = true then t.setF tbStatusHoldover 1 else t

/-- RL_LANE_SER of a port lies at this offset. -/
def isLaneSer (off : Nat) : Bool := decide (0x60000 ≤ off ∧ off < 0x70000) && off % 0x1000 == 0x34

/-- A write of RL_LANE_SER loads the count of the lane that RL_EQ_SEL shows (R188). -/
def State.writeLaneSer (s : State) (p v : Nat) : State :=
  s.setLane p (s.f (rlEqSelLane p)) { s.lane p (s.f (rlEqSelLane p)) with ser := v }

/-- The effect of writing `v` to one field by its access type (R22). A 64-bit field takes the half written. -/
def State.writeField (s : State) (anvil : Bool) (off : Nat) (sp : FieldSpec) (k : Fld) (high : Bool) (v : Nat) : State :=
  let old := s.f k
  let part := bitsOf v (if sp.hi = 63 then 31 else sp.hi) sp.lo
  let merged :=
    if sp.hi = 63 then (if high then old % 2 ^ 32 + part % pairTop k * 2 ^ 32 else old / 2 ^ 32 * 2 ^ 32 + part) else part
  let rwa := sp.acc == .rwa || (privilegedOffset off && (sp.acc == .rw || sp.acc == .wo || sp.acc == .w1s))
  if rwa then
    (if !anvil then s.setF devStatusRwaDenied 1
     else
      match delayPc off with
      | none => if ownRow k then s else s.setF k merged
      | some n => if s.delaysOpen n then s.setF k merged else s.setF (mcPcStatusDlyReject n) 1)
  else if ownRow k then s
  else
    match sp.acc with
    | .ro | .wo | .rwa => s
    | .rw =>
      if k = tbCtrlSrc ∧ merged ≠ old then s.selectSource merged
      else if k = plGateDis then s.setGateDis merged
      else if isLaneSer off then s.writeLaneSer ((off - 0x60000) / 0x1000) merged
      else s.setF k merged
    | .w1c => if k = tbSyncCfgIgnored then (if part = 0 then s else s.setF k 0) else s.setF k (old - (old &&& part))
    | .w1s => s.setF k (old ||| part)

/-- Every field of the register at `off` (R20: the register after a 64-bit pair's _LO is its _HI). -/
def State.writeFields (s : State) (anvil : Bool) (off v : Nat) : State :=
  let lows := (specsAt off).foldl (fun t sp => t.writeField anvil off sp (fld off sp.lo) false v) s
  ((specsAt (off - 4)).filter (fun sp => sp.hi == 63)).foldl
    (fun t sp => t.writeField anvil off sp (fld (off - 4) sp.lo) true v) lows

/-- The ring whose base or size register lies at `off`. -/
def ringSetupAt (off : Nat) : Option Nat :=
  if 0x30000 ≤ off ∧ off < 0x30400 ∧ off % 0x40 < 0x14 then some ((off - 0x30000) / 0x40) else none

/-- The standard channel whose shadow set lies at `off`. -/
def shadowAt (off : Nat) : Option Nat :=
  if 0x40000 ≤ off ∧ off < 0x41000 ∧ 0x40 ≤ off % 0x100 ∧ off % 0x100 < 0x68 then some ((off - 0x40000) / 0x100)
  else none

/-- A write of one MSI-X table register (R455, R460): address, data or mask bit of a vector. -/
def State.writeMsix (s : State) (off v : Nat) : State :=
  let n := (off - 0xC000) / 16
  let a := Map.get (fun _ => 0) s.pcie.msixAddr n
  match off % 16 / 4 with
  | 0 => { s with pcie := { s.pcie with msixAddr := Map.set (fun _ => 0) s.pcie.msixAddr n (a / 2 ^ 32 * 2 ^ 32 + v % 2 ^ 32) } }
  | 1 => { s with pcie := { s.pcie with msixAddr := Map.set (fun _ => 0) s.pcie.msixAddr n (a % 2 ^ 32 + v % 2 ^ 32 * 2 ^ 32) } }
  | 2 => { s with pcie := { s.pcie with msixData := Map.set (fun _ => 0) s.pcie.msixData n (v % 2 ^ 32) } }
  | _ =>
    let m := if v % 2 = 1 then setBit s.pcie.vectorMask n else clearBit s.pcie.vectorMask n
    ({ s with pcie := { s.pcie with vectorMask := m } }).flushVectors

/-- Blocks that answer in safe hold (R623). -/
def safeHoldBlock (off : Nat) : Bool :=
  decide (off < 0x30000) || decide (0x100000 ≤ off ∧ off < 0x110000) || decide (0x130000 ≤ off ∧ off < 0x150000)

/-- The clock domain of the block whose registers lie at `off` (R124). -/
def blockClock (off : Nat) : Nat :=
  if off < 0x10000 then 3 else if off < 0x30000 then 0 else if off < 0x40000 then 3 else if off < 0x50000 then 52
  else if off < 0x60000 then 21 else if off < 0x80000 then 20 else if off < 0x90000 then 59 else if off < 0xA0000 then 55
  else if off < 0xC0000 then 21 else if off < 0xD0000 then 32 else if off < 0xE0000 then 21 else if off < 0xF0000 then 56
  else if off < 0x100000 then 54 else if off < 0x110000 then 58 else if off < 0x120000 then 57 else if off < 0x130000 then 31
  else 0

/-- The power domain that a forced closure isolates with the registers at `off` (R126). -/
def blockDomain (off : Nat) : Nat :=
  if off < 0x10000 then 2 else if off < 0x30000 then 0 else if off < 0x40000 then 2 else if off < 0x60000 then 20
  else if off < 0x80000 then 19 else if off < 0x90000 then 20 else if off < 0xA0000 then 49 else if off < 0x100000 then 20
  else if off < 0x110000 then 44 else if off < 0x120000 then 20 else if off < 0x130000 then 48 else 0

/-- The block whose registers lie at `off` is closed by force (R131) or held in local reset (R137). -/
def State.blockClosed (s : State) (off : Nat) : Bool := bitOf s.dom.isolatedPwr (blockDomain off) || s.heldInReset (blockClock off)

/-- The power domain that Pilot switches off by itself and in which the registers at `off` lie: those of a controller pair and of Test.
DESIGN CHOICE (log entry 43): every other block keeps its registers in a domain that stays on (R126). -/
def switchedDomain (off : Nat) : Option Nat :=
  if 0xD0000 ≤ off ∧ off < 0xE0000 then some (35 + (off - 0xD0000) / 0x2000)
  else if 0x110000 ≤ off ∧ off < 0x120000 then some 45
  else none

/-- A register access to a domain that is off wakes it (R127). -/
def State.wakeFor (s : State) (off : Nat) : State :=
  match switchedDomain off with
  | none => s
  | some d =>
    if s.pilot.phase != .running || s.domainCulled d || bitOf s.dom.isolatedPwr d then s else s.setF plPwrOn (setBit (s.f plPwrOn) d)

/-- A posted write to such a block is dropped, and DV 0x01 records its offset (R131). -/
def State.dropWrite (s : State) (off : Nat) : State :=
  s.report { pre := .dv, code := 0x01, severity := 2, vector := some 0, data := off % 2 ^ 32 }

/-- A write that has a command of its own is dropped before PCIE_READY, when no BAR is decoded (R88), in safe hold (R623), and by a closed
block. -/
def State.refusesWrite (s : State) (off : Nat) : Option State :=
  if s.safeHold || !s.decodesBars then some s else if s.blockClosed off then some (s.dropWrite off) else none

/-- A register write by the host, the service core or Anvil. In safe hold only W1C fields of six blocks take it
(R623); a block under forced closure drops it and DV 0x01 records its offset (R131). While a ring is enabled, writes
to its bases and sizes are ignored and counted (R461); while SHADOW_VALID = 1, writes to the shadow registers are
ignored and set WRITE_LOST (R507). -/
def State.writeRegister (s : State) (anvil : Bool) (off v : Nat) : State :=
  if s.safeHold then
    if safeHoldBlock off then
      ((specsAt off).filter (fun sp => sp.acc == .w1c)).foldl
        (fun t sp => t.writeField anvil off sp (fld off sp.lo) false v) s
    else s
  else if s.blockClosed off then s.dropWrite off
  else if 0xC000 ≤ off ∧ off < 0xC400 then s.writeMsix off v
  else
    match ringSetupAt off, shadowAt off with
    | some r, _ =>
      if s.on (hcRingCtrlEnable r) then s.bump hcCfgReject 16 else s.writeFields anvil off v
    | none, some c =>
      if s.on (bmChStatusShadowValid c) then s.setF (bmChStatusWriteLost c) 1 else s.writeFields anvil off v
    | none, none => (s.wakeFor off).writeFields anvil off v

/-- REGISTER_WRITE (R22). The host reaches no register before PCIE_READY (R88). -/
def execRegisterWrite (q : Requester) (off v : Nat) (s : State) : Host.Outcome State Fault Refusal :=
  if q == .host && !s.decodesBars then .next s else .next (s.writeRegister (q == .anvil) (off / 4 * 4) v)

/-! ### MSI-X and the link (R452, R453, R460) -/

/-- MSIX_MODERATION_TIMER (R460): INT_TIME µs after the first completion not yet signalled. -/
def execMsixModerationTimer (r : Nat) (s : State) : Host.Outcome State Fault Refusal :=
  if s.f (hcRingCtrlIntTime r) = 0 ∨ (s.ring r).unsignalled = 0 then .next s
  else .next ((s.setRing r { s.ring r with unsignalled := 0 }).vector (16 + r))

/-- MSIX_UNMASK (R460): unmasking one vector, or enabling MSI-X with the function unmasked, sends one message for each
pending bit that can be sent. The enable is a configuration request, which gets Request Retry Status before PCIE_READY (R88). -/
def execMsixUnmask (v : Option Nat) (s : State) : Host.Outcome State Fault Refusal :=
  match v with
  | some n =>
    match s.refusesWrite 0xC000 with
    | some t => .next t
    | none => .next ({ s with pcie := { s.pcie with vectorMask := clearBit s.pcie.vectorMask n } }).flushVectors
  | none =>
    if s.decodesBars then .next ({ s with pcie := { s.pcie with msixEnable := true, msixFnMask := false } }).flushVectors
    else .next (s.emit .cfgRetry)

/-- PCIE_L1_ENTRY (R452): with ASPM L1 enabled, 10 µs without TLPs makes the S64 request L1. -/
def execPcieL1Entry (s : State) : Host.Outcome State Fault Refusal :=
  if s.pcie.aspmL1 && s.pcie.linkUp && !s.pcie.d3hot && !s.pcie.linkL1 then
    .next (({ s with pcie := { s.pcie with linkL1 := true } }).emit .l1Request)
  else .next s

/-- D3HOT_ENTRY (R453): a configuration request, answered with Request Retry Status before PCIE_READY (R88). -/
def execD3hotEntry (s : State) : Host.Outcome State Fault Refusal :=
  if s.decodesBars then .next s.enterD3 else .next (s.emit .cfgRetry)

/-- D0_RETURN (R453). -/
def execD0Return (s : State) : Host.Outcome State Fault Refusal :=
  if s.decodesBars then .next s.returnD0 else .next (s.emit .cfgRetry)

/-! ### Rings (R461, R462, R469, R470) -/

/-- R461: the setup that an enable accepts. -/
def State.ringSetupOk (s : State) (r : Nat) : Bool :=
  decide (2 ≤ s.f (hcRingSizeSq r) ∧ s.f (hcRingSizeSq r) ≤ 4096) && decide (2 ≤ s.f (hcRingSizeCq r) ∧ s.f (hcRingSizeCq r) ≤ 4096) &&
    s.f (hcSqBase r) % 64 == 0 && s.f (hcCqBase r) % 32 == 0 && s.on (hcRingStatusIdle r)

/-- RING_ENABLE (R461): heads and tails 0, phase 1, level basic; or ignored and counted in HC_CFG_REJECT. -/
def execRingEnable (r : Nat) (s : State) : Host.Outcome State Fault Refusal :=
  match s.refusesWrite 0x30000 with
  | some t => .next t
  | none =>
    if s.on (hcRingCtrlEnable r) then .next s
    else if s.ringSetupOk r then
      .next (((s.setFs [(hcRingCtrlEnable r, 1), (hcRingStatusEnabled r, 1), (hcRingStatusExpert r, 0), (hcSqHead r, 0), (hcCqTailIndex r, 0),
        (hcCqTailPhase r, 1)]).setRing r { ringCold r with live := (s.ring r).live }).syncRing r)
    else .next (s.bump hcCfgReject 16)

/-- What a disable does to a ring (R469): no further fetch, unstarted entries dropped, level basic; the final
completion of a command that has posted PENDING will be discarded. -/
def State.disableRing (s : State) (r : Nat) : State :=
  let x := s.ring r
  ((s.setFs [(hcRingCtrlEnable r, 0), (hcRingStatusEnabled r, 0), (hcRingStatusExpert r, 0)]).setRing r
    { x with doorbells := [], fetched := [], waitingHead := false,
             live := x.live.map (fun c => if c.posted then { c with dropped := true } else c) }).syncRing r

/-- RING_DISABLE (R469). -/
def execRingDisable (r : Nat) (s : State) : Host.Outcome State Fault Refusal :=
  match s.refusesWrite 0x30000 with
  | some t => .next t
  | none =>
    .next (s.disableRing r)

/-- RING_ERROR (R470): the ring stops as if disabled, with ERROR and its code, HC 0x01 and vector 0. -/
def State.ringError (s : State) (r code : Nat) : State :=
  ((s.disableRing r).setFs [(hcRingStatusError r, 1), (hcRingStatusErrCode r, code)]).report
    { pre := .hc, code := 0x01, severity := 3, vector := some 0, unitKind := 6, unit := r, data := code }

/-- SQ_TAIL_DOORBELL (R462): the entries up to the written index become visible, all with the doorbell's tick. -/
def execSqTailDoorbell (r v : Nat) (s : State) : Host.Outcome State Fault Refusal :=
  match s.refusesWrite 0x30000 with
  | some t => .next t
  | none =>
    if !s.on (hcRingCtrlEnable r) then .next s
    else if s.f (hcRingSizeSq r) ≤ v then .next (s.ringError r 1)
    else if v = (s.ring r).tail then .next s
    else .next (s.setRing r { s.ring r with tail := v, doorbells := (s.ring r).doorbells ++ [(v, s.now)] })

/-- CQ_HEAD_DOORBELL (R462): every completion slot before the written index is freed. -/
def execCqHeadDoorbell (r v : Nat) (s : State) : Host.Outcome State Fault Refusal :=
  match s.refusesWrite 0x30000 with
  | some t => .next t
  | none =>
    if !s.on (hcRingCtrlEnable r) then .next s
    else if s.f (hcRingSizeCq r) ≤ v then .next (s.ringError r 2)
    else .next (s.setRing r { s.ring r with cqHead := v })

/-- One fetched entry joins the ring with the tick of the doorbell that made it visible (R141). -/
def State.fetchEntry (s : State) (r : Nat) (e : Sqe) : State :=
  let x := s.ring r
  match x.doorbells with
  | [] => s
  | (i, t) :: rest =>
    let h := if s.f (hcRingSizeSq r) ≤ s.f (hcSqHead r) + 1 then 0 else s.f (hcSqHead r) + 1
    (s.setF (hcSqHead r) h).setRing r
      { x with fetched := x.fetched ++ [{ e with ring := r, tick := t }]
               doorbells := if h = i then rest else x.doorbells }

/-- RING_ENTRY_FETCH (R462): the S64 fetches visible entries. In D3hot, safe hold and the banked state it fetches none
(R453, R482). -/
def execRingEntryFetch (r : Nat) (es : List Sqe) (s : State) : Host.Outcome State Fault Refusal :=
  if !s.on (hcRingCtrlEnable r) || s.pcie.d3hot || s.halted then .next s
  else .next (es.foldl (fun t e => t.fetchEntry r e) s)

/-! ### Starting an entry (R464 to R468, R472, R483) -/

/-- Commands that can post PENDING (R468): TABLE_COMMIT. -/
def canPend (op : Nat) : Bool := op == 0x18A

/-- Commands that run alone on their ring (R472). -/
def runsAlone (op : Nat) : Bool := op == 0x108 || op == 0x109

/-- Commands that still start once DEV_RESET has started (R483). -/
def startsInReset (op : Nat) : Bool := [0x100, 0x101, 0x102, 0x240, 0x10C].contains op

/-- Completions that a command in execution can still post (R468). -/
def Live.toPost (c : Live) : Nat := if c.dropped then 0 else if c.twoPosts && !c.posted then 2 else 1

/-- R465, R468, R472, R483: ordering and free completion slots let this entry start. -/
def State.mayStart (s : State) (r : Nat) (e : Sqe) : Bool :=
  let x := s.ring r
  (!s.resetting || startsInReset e.opcode) && !x.live.any (fun c => c.excl) &&
    (!(e.fence || runsAlone e.opcode) || x.live.all (fun c => c.posted)) && decide (x.live.length < 64) &&
    decide ((x.live.map Live.toPost).sum + (if canPend e.opcode then 2 else 1) + s.slotsUsed r ≤ s.f (hcRingSizeCq r) - 1)

/-- R466: the entry's event line has pulsed at or after its doorbell. -/
def State.waitOver (s : State) (e : Sqe) : Bool :=
  (s.line e.event).pulsed && decide (e.tick ≤ (s.line e.event).tick)

/-- The head entry leaves the ring's fetched entries. -/
def State.popEntry (s : State) (r : Nat) : State :=
  (s.setRing r { s.ring r with fetched := (s.ring r).fetched.tail, waitingHead := false }).syncRing r

/-- The entry's command goes into execution. -/
def State.beginEntry (s : State) (r : Nat) (e : Sqe) : State :=
  let t := s.popEntry r
  (t.setRing r { t.ring r with live := (t.ring r).live ++
    [⟨e.tag, e.opcode, runsAlone e.opcode, canPend e.opcode, false, false, e.tick, e.params⟩] }).syncRing r

/-- The catalogue row that checks a vendor diagnostic opcode of an -ES part (R488: expert commands). -/
def vendorSpec (op : Nat) : CmdSpec := ⟨op, true, true, .runs, true, [(16, 0, 384)]⟩

/-- RING_ENTRY_START (R464 to R468): the head entry is checked in order, waits on its event line, or starts. A vendor
diagnostic opcode that passes its checks on an -ES part has no described behaviour (R488). -/
def execRingEntryStart (r : Nat) (s : State) : Host.Outcome State Fault Refusal :=
  match (s.ring r).fetched with
  | [] => .next s
  | e :: _ =>
    if !s.on (hcRingCtrlEnable r) || s.halted || !s.mayStart r e then .next s
    else if 0x3C0 ≤ e.opcode ∧ e.opcode ≤ 0x3FF then
      if s.on fzCloseVendor then .next ((s.popEntry r).writeCompletion r e.tag stNotPermitted 0)
      else
        match (vendorSpec e.opcode).refusal s e with
        | some st => .next ((s.popEntry r).writeCompletion r e.tag st 0)
        | none => .refused .vendorDiagnostic
    else
      match specFor e.opcode with
      | none => .next ((s.popEntry r).writeCompletion r e.tag stBadOpcode 0)
      | some c =>
        match (if (s.ring r).waitingHead then none else c.refusal s e) with
        | some st => .next ((s.popEntry r).writeCompletion r e.tag st 0)
        | none =>
          if e.wait && !s.waitOver e then .next ((s.setRing r { s.ring r with waitingHead := true }).syncRing r)
          else if !s.executorRuns c then .next ((s.popEntry r).writeCompletion r e.tag stNotPermitted 0)
          else
            match c.gate s e with
            | some st => .next ((s.popEntry r).writeCompletion r e.tag st 0)
            | none => .next (s.beginEntry r e)

/-! ### Ring commands that the service firmware leaves behind (R131, R481) -/

/-- The service firmware executes the opcode (R489). -/
def serviceExecutes (op : Nat) : Bool := ((specFor op).map (fun c => !c.anvil)).getD false

/-- One command in execution ends with INTERNAL_FAULT, unless its final completion is discarded. -/
def State.failLive (s : State) (r : Nat) (l : Live) : State :=
  let t := s.setRing r { s.ring r with live := (s.ring r).live.erase l }
  (if l.dropped then t else t.writeCompletion r l.tag stInternalFault 0).syncRing r

/-- Every command that the service firmware has started and not completed ends so (R481). -/
def State.failService (s : State) : State :=
  (List.range 16).foldl (fun t r => ((t.ring r).live.filter (fun l => serviceExecutes l.opcode)).foldl (fun u l => u.failLive r l) t) s

/-! ### The level commands (R472) -/

/-- EXPERT_ENTER (R472): every entry of the ring started afterwards is checked at the expert level. -/
def execExpertEnter (e : Sqe) (s : State) : Host.Outcome State Fault Refusal :=
  runCommand 0x108 e s (fun s => (s.setF (hcRingStatusExpert e.ring) 1).done e stOk (packBytes [(0, 1, e.ring)]))

/-- EXPERT_LEAVE (R472). -/
def execExpertLeave (e : Sqe) (s : State) : Host.Outcome State Fault Refusal :=
  runCommand 0x109 e s (fun s => (s.setF (hcRingStatusExpert e.ring) 0).done e stOk 0)

end Sys2Proof.Machine
end

