-- ==== Sys2Proof/Machine/Tiers.lean ====
section
/-!
DEFINITION. The table tiers of the Crucible and the nodes of table rows that are hit often (R287, R296, R300).
-/
namespace Sys2Proof.Machine

/-! ### The tiers (R287, R296) -/

/-- Bytes of the Crucible that are not table tiers. -/
def State.crucibleFixed (s : State) : Nat := 45 * 2 ^ 20 + 2048 * s.f qmQueuesConfigured + s.f mvSplitTUnits * 2 ^ 18

/-- Crucible slices in service: the N of R376. -/
def State.slicesServed (s : State) : Nat := 64 - popcount 64 (s.f tcCulletSlice)

/-- The slice of line `i` of a shared area (R376): the i mod N-th in service. -/
def State.sharedSlice (s : State) (i : Nat) : Nat :=
  let l := (List.range 64).filter (fun n => !bitOf (s.f tcCulletSlice) n)
  l.getD (i % max 1 l.length) 0

/-- Lines of 64 B of the table tiers in each slice, as an epoch boundary lays them out: every area is striped over the slices in
service. -/
def State.tierLines (s : State) : Nat :=
  let n := max 1 s.slicesServed
  (2 ^ 23 - min (2 ^ 23) ((s.crucibleFixed + n - 1) / n)) / 64

/-- Lines of the replicated tier, and of the home tier of a slice. -/
def State.replLines (s : State) : Nat := s.marver.tierLines * min 12 (s.f mvCfg2ReplShare) / 16
def State.homeLines (s : State) : Nat := s.marver.tierLines - s.replLines

/-- The slice of a home node: that of the engine that serves its partition. -/
def State.homeSlice (s : State) (table part : Nat) : Nat :=
  match s.table table with
  | none => 0
  | some t => s.servingEngine t part

/-- A slice takes home nodes: in service, not marked (R427), and its engine not culled (R377). -/
def State.sliceTakes (s : State) (n : Nat) : Bool :=
  !bitOf (s.f tcCulletSlice) n && !bitOf s.marver.dropped n && !bitOf (s.f tcCulletEng) n

/-- The nodes that share a tier's room with a node: the replicated tier, or the home tier of its slice. -/
def State.tierOf (s : State) (l : List Node) (table : Nat) (part : Option Nat) : List Node :=
  match part with
  | none => l.filter (fun n => n.part.isNone)
  | some p => l.filter (fun n => match n.part with
      | none => false
      | some q => s.homeSlice n.table q == s.homeSlice table p)

/-- Lines of a slice that the stashes of the partitions served there take (R312). -/
def State.stashIn (s : State) (slice : Nat) : Nat :=
  (s.liveTables.map (fun k => if k.2.stashLines = 0 then 0
    else k.2.stashLines * ((List.range 64).filter (fun p => s.servingEngine k.2 p == slice)).length)).sum

/-- Room of a tier in lines; stashes count against the home tier. -/
def State.tierRoom (s : State) (table : Nat) (part : Option Nat) : Nat :=
  match part with
  | none => s.replLines
  | some p => s.homeLines - s.stashIn (s.homeSlice table p)

/-- The threshold of a node's tier (R297). -/
def State.tierMin (s : State) (part : Option Nat) : Nat := if part.isNone then s.eff mvCfgReplMin else s.eff mvCfgHomeMin

/-- RESIDENT and NO_REPL of a table. -/
def State.isResident (s : State) (n : Nat) : Bool := ((s.table n).map (·.resident)).getD false
def State.noRepl (s : State) (n : Nat) : Bool := ((s.table n).map (·.noRepl)).getD false

/-- A table node's accesses in an epoch (R297): its table, its line, the only partition it was reached from (`none`: several), and the
accesses. -/
structure NodeCount where
  table : Nat
  node : Nat
  part : Option Nat
  accesses : Nat
  deriving DecidableEq, Repr

/-- The counts of the nodes that were reached in an epoch. -/
def nodeCounts (l : List NodeAccess) (epoch : Nat) : List NodeCount :=
  (l.filter (fun a => a.epoch == epoch)).foldl (fun cs a =>
    match cs.find? (fun c => c.table == a.table && c.node == a.node) with
    | none => cs ++ [⟨a.table, a.node, some a.part, a.count⟩]
    | some _ => cs.map (fun c => if c.table = a.table ∧ c.node = a.node then { c with part := none, accesses := c.accesses + a.count } else c)) []

/-- The node with the fewest accesses. -/
def fewest : List Node → Option Node
  | [] => none
  | n :: r =>
    match fewest r with
    | none => some n
    | some m => if m.accesses < n.accesses then some m else some n

/-- The resident nodes change, and the registers that show the tiers in use. -/
def State.setNodes (s : State) (l : List Node) : State :=
  ({ s with marver := { s.marver with nodes := l } }).showTiers

/-! ### Rows hit often (R300) -/

/-- The nodes of a row of the table pool, each with its table. -/
def State.rowNodes (s : State) (a : RowAt) : List (Nat × Nat × Option Nat) :=
  match s.tableRowAt a with
  | none => []
  | some r =>
    let first := 32 * (s.rowsOf r.table r.created).idxOf r
    let version := ((s.table r.table).map (·.number)).getD 0
    (List.range 32).filterMap (fun i => (Config.lineUse r.table r.created version (first + i)).map (fun p => (r.table, first + i, p)))

/-- A node is resident. -/
def State.nodeHeld (s : State) (x : Nat × Nat × Option Nat) : Bool := s.marver.nodes.any (fun n => n.table == x.1 && n.node == x.2.1)

/-- R296 allows the node a tier other than DRAM. -/
def State.tierAllows (s : State) (x : Nat × Nat × Option Nat) : Bool :=
  match x.2.2 with
  | none => !s.noRepl x.1
  | some p => s.sliceTakes (s.homeSlice x.1 p)

/-- A node is demoted: counters in it are written back to DRAM (R298). -/
def State.writeBackNode (s : State) (v : Node) : State :=
  match s.table v.table with
  | none => s
  | some t =>
    let l := ((t.counters ++ t.writtenBack).map (·.1)).filter (fun i => (t.keyNodes v.table (leBytes 4 i)).contains v.node)
    if t.kind = .counter then s.putTable v.table (some (t.writeBack l)) else s

/-- Promote one node of a flagged row at once: where its tier is full, in place of the node with the fewest accesses, RESIDENT tables
included. It stays up to the end of the next window. -/
def State.promoteNode (s : State) (x : Nat × Nat × Option Nat) : State :=
  if s.nodeHeld x then
    s.setNodes (s.marver.nodes.map (fun n => if n.table = x.1 ∧ n.node = x.2.1 then { n with pinned := 2 } else n))
  else if !s.tierAllows x then s
  else
    let new : Node := ⟨x.1, x.2.1, x.2.2, 0, 0, 2⟩
    let tier := s.tierOf s.marver.nodes x.1 x.2.2
    if tier.length < s.tierRoom x.1 x.2.2 then s.setNodes (s.marver.nodes ++ [new])
    else
      match fewest (tier.filter (fun n => n.pinned == 0)) with
      | none => s
      | some v => (s.writeBackNode v).setNodes (s.marver.nodes.erase v ++ [new])

/-- A row of the table pool is flagged: it counts, and its nodes are promoted (R300). -/
def State.flagRow (s : State) (a : RowAt) : State := (s.rowNodes a).foldl State.promoteNode (s.bump mvRowsFlagged 16)

/-- The count of a row of the table pool. -/
def State.rowCount (s : State) (a : RowAt) : RowCount :=
  (s.marver.rowCounts.find? (fun c => c.pc == a.pc && c.bank == a.bank && c.row == a.row)).getD ⟨a.pc, a.bank, a.row, 0, false⟩

/-- Replace the count of a row; a row newly flagged is dealt with. -/
def State.setRowCount (s : State) (c : RowCount) : State :=
  let old := s.rowCount ⟨c.pc, c.bank, c.row⟩
  let t := { s with marver := { s.marver with rowCounts :=
                c :: s.marver.rowCounts.filter (fun d => !(d.pc == c.pc && d.bank == c.bank && d.row == c.row)) } }
  if c.flagged && !old.flagged then t.flagRow ⟨c.pc, c.bank, c.row⟩ else t

/-- Count an activation of a row of the table pool: the 513th in the window flags it. -/
def State.countTableRow (s : State) (a : RowAt) : State :=
  let c := s.rowCount a
  let n := min (c.count + 1) 65535
  s.setRowCount { c with count := n, flagged := c.flagged || decide (512 < n) }

/-- The nodes of a flagged row are all resident. -/
def State.rowResident (s : State) (c : RowCount) : Bool := (s.rowNodes ⟨c.pc, c.bank, c.row⟩).all s.nodeHeld

/-- A window of 32 ms ends: flagged rows whose nodes are not all resident count, the counters are cleared, and what is pinned since the
window before is free again. -/
def State.endWindow (s : State) : State :=
  let held := (s.marver.rowCounts.filter (fun c => c.flagged && !s.rowResident c)).length
  let t := s.addF mvRowsHeldAtEnd held 65535
  { t with marver := { t.marver with rowCounts := [], nodes := t.marver.nodes.map (fun n => { n with pinned := n.pinned - 1 }) } }

end Sys2Proof.Machine
end

