-- ==== Sys2Proof/Machine/Memory.lean ====
section
/-!
DEFINITION. The memory stack and its controllers (R299 to R301, R373 to R406), and the accounting of sectors (R435 to R437).
-/
namespace Sys2Proof.Machine

/-! ### Power states (R395) -/

/-- PC_POWER_DOWN_ENTRY (R395). -/
def execPcPowerDownEntry (n : Nat) (s : State) : Host.Outcome State Fault Refusal :=
  if s.pcLive n && s.f (mcPcStatusState n) == 0 && (s.pcState n).empty && s.f (mcPwrCfgPdIdle (n / 4)) != 0 && !s.on (mcPcStatusCalHold n) then
    .next ((s.closeRows n).setF (mcPcStatusState n) 1)
  else .next s

/-- PC_SELF_REFRESH_ENTRY (R395). -/
def execPcSelfRefreshEntry (n : Nat) (s : State) : Host.Outcome State Fault Refusal :=
  if s.pcLive n && decide (s.f (mcPcStatusState n) < 2) && (s.pcState n).empty && s.f (mcPwrCfgSrIdle (n / 4)) != 0 &&
      !s.on (mcPcStatusCalHold n) then
    .next (((s.closeRows n).setPc n { (s.closeRows n).pcState n with debt := [] }).setFs [(mcPcStatusState n, 2), (mcPcRefreshDebt n, 0)])
  else .next s

/-! ### Waiting requests and urgency (R381, R386) -/

/-- Requests that wait take the entries that have become free, in order. -/
def State.admitWaiting (s : State) (n : Nat) : State :=
  let x := s.pcState n
  let start := s.setPc n { x with waiting := [] }
  x.waiting.foldl (fun t r =>
    let y := t.pcState n
    let keep := t.setPc n { y with waiting := y.waiting ++ [r] }
    if waitsBehind r y.waiting then keep
    else
      match t.acceptReq r with
      | some u => u
      | none => keep) start

/-- REQUEST_URGENCY_STEP (R386): the age passes 50 %, 75 % or 100 % of the target. -/
def execRequestUrgencyStep (n : Nat) (write : Bool) (i : Nat) (s : State) : Host.Outcome State Fault Refusal :=
  let x := s.pcState n
  let l := if write then x.writes else x.reads
  match l[i]? with
  | none => .next s
  | some e =>
    let late := decide (e.urgency = 2) && !e.late
    let l' := l.set i { e with urgency := min (e.urgency + 1) 3, late := e.late || late }
    let t := s.setPc n (if write then { x with writes := l' } else { x with reads := l' })
    .next (if late then t.addF (mcPcLate n) 1 (2 ^ 32 - 1) else t)

/-! ### Activations (R299, R300, R399 to R402) -/

/-- The tick of a row's last activation. -/
def Pc.lastActivation (x : Pc) (bank row : Nat) : Option Tick :=
  (x.lastAct.find? (fun a => a.1 == bank && a.2.1 == row)).map (fun a => a.2.2)

/-- The row of a request. -/
def placeOfReq (r : MemReq) : RowAt := ⟨r.pc, r.bank, r.row⟩

/-- The row guard of R299 and R300 lets a row be activated now: a flagged row of the table pool once in 1 ms, one that is not
flagged always, and any other row once in 64 µs. -/
def State.rowGuard (s : State) (a : RowAt) : Bool :=
  match (s.pcState a.pc).lastActivation a.bank a.row with
  | none => true
  | some t =>
    if (s.tableRowAt a).isSome then !(s.rowCount a).flagged || decide (t + 4000000 ≤ s.now) else decide (t + 256000 ≤ s.now)

/-- The guard lets a request activate its row now. Rows 0 and 1 are activated for calibration alone, and staging-window accesses are guarded
only with MC_STAGE.GUARD = 1 (R399, R401). -/
def State.guardOk (s : State) (r : MemReq) : Bool :=
  decide (r.row < 2) || (r.staging && !s.on (mcStageGuard (r.pc / 4))) || s.rowGuard (placeOfReq r)

/-- Count an activation by a staging-window access (R402). The entry names the bank and no row (R1, R612). -/
def State.countStaging (s : State) (pc bank row : Nat) : State :=
  let m := pc / 4
  let same := fun (c : StageRow) => c.pc == pc && c.bank == bank && c.row == row
  match s.stageRows.find? same with
  | none =>
    if 256 ≤ (s.stageRows.filter (fun c => c.pc / 4 == m)).length then s.setF (mcStageTrackOvf m) 1
    else ({ s with stageRows := ⟨pc, bank, row, 1⟩ :: s.stageRows }).setF (mcStagePeak m) (max (s.f (mcStagePeak m)) 1)
  | some c =>
    let n := c.count + 1
    let t := ({ s with stageRows := s.stageRows.map (fun d => if same d then { d with count := n } else d) }).setF (mcStagePeak m)
      (max (s.f (mcStagePeak m)) (min n 65535))
    if n = 513 then
      (t.addF (mcStageOver m) 1 (2 ^ 32 - 1)).report
        { pre := .mc, code := 0x01, severity := 2, vector := some 0, unitKind := 1, unit := pc, sub := bank, data := n }
    else t

/-- One activation of a row, by any port: counted, and kept for the guard (R300). -/
def State.activateRow (s : State) (p : RowAt) : State :=
  let a := s.addF (mcPcAct p.pc) 1 (2 ^ 32 - 1)
  let x := a.pcState p.pc
  let b := a.setPc p.pc { x with
    lastAct := (p.bank, p.row, s.now) :: x.lastAct.filter (fun l => !(l.1 == p.bank && l.2.1 == p.row) && decide (s.now < l.2.2 + 4000000)) }
  if (b.tableRowAt p).isSome then b.countTableRow p else b

/-- One activation of a row by a request: the row is open in its bank. -/
def State.activate (s : State) (r : MemReq) : State :=
  let b := s.activateRow (placeOfReq r)
  let x := b.pcState r.pc
  let c := b.setPc r.pc { x with openRows := Map.set (fun _ => none) x.openRows r.bank (some ⟨r.row, false, false⟩)
                                 written := Map.set (fun _ => 0) x.written r.bank 0 }
  if r.staging then c.countStaging r.pc r.bank r.row else c

/-! ### Issuing (R387 to R390) -/

/-- The row that is open in a request's bank is its own. -/
def Pc.rowHit (x : Pc) (r : MemReq) : Bool :=
  match Map.get (fun _ => none) x.openRows r.bank with
  | none => false
  | some o => o.row == r.row

/-- The hint in force (R389). -/
def State.hintOf (s : State) (r : MemReq) : Nat :=
  if r.hint % 4 = 0 then max 1 (bitsOf (s.f (mcHintDef (r.pc / 4))) (2 * portNumber r.port + 1) (2 * portNumber r.port)) else r.hint % 4

/-- What happens to a request's row after its access; its entry has left the queue. -/
def State.afterAccess (s : State) (r : MemReq) : State :=
  let x := s.pcState r.pc
  let w := if r.write && r.port == .qw then setBit (Map.get (fun _ => 0) x.written r.bank) r.sector else Map.get (fun _ => 0) x.written r.bank
  let other := (x.reads ++ x.writes).any (fun e => sameRow e.req r)
  let hint := s.hintOf r
  let m := r.pc / 4
  let keep : Option OpenRow :=
    if w = 255 then none
    else if s.f (mcCtrlPolicy m) = 0 then (if s.f (mcCtrlIdle m) = 0 then none else some ⟨r.row, true, false⟩)
    else if hint = 1 then none
    else if hint = 2 then some ⟨r.row, true, false⟩
    else if other then some ⟨r.row, false, true⟩ else none
  s.setPc r.pc { x with openRows := Map.set (fun _ => none) x.openRows r.bank keep
                        written := Map.set (fun _ => 0) x.written r.bank (if keep.isNone then 0 else w) }

/-- The most intervals any bank is behind (R405). -/
def State.noteDebt (s : State) (n : Nat) : State :=
  let x := s.pcState n
  s.setF (mcPcRefreshDebt n) (((List.range 16).map (fun b => (Map.get (fun _ => 0) x.debt b).toNat)).foldl max 0 |> min 4)

/-- The refresh of a bank is issued: its row closes. -/
def State.refreshBank (s : State) (n bank : Nat) : State :=
  let x := s.pcState n
  let d := Map.get (fun _ => 0) x.debt bank
  let t := s.setPc n { x with debt := Map.set (fun _ => 0) x.debt bank (d - 1), openRows := Map.set (fun _ => none) x.openRows bank none,
                              written := Map.set (fun _ => 0) x.written bank 0 }
  (if 4 ≤ d then t.addF (mcPcRefreshForced n) 1 65535 else t).noteDebt n

/-- A TM or QR request is queued to the bank. -/
def Pc.servesBank (x : Pc) (bank : Nat) : Bool :=
  (x.reads ++ x.writes).any (fun e => e.req.bank == bank && (e.req.port == .tm || e.req.port == .qr))

/-- REFRESH_DUE (R393, R394): issued at once, taken from the refreshes made ahead, or postponed. -/
def execRefreshDue (n bank : Nat) (s : State) : Host.Outcome State Fault Refusal :=
  if 63 < n || 15 < bank || !s.pcLive n || s.pcAsleep n || s.stackAsleep then .next s
  else
    let x := s.pcState n
    let d := Map.get (fun _ => 0) x.debt bank
    if d < 0 || x.servesBank bank then
      .next ((s.setPc n { x with debt := Map.set (fun _ => 0) x.debt bank (min (d + 1) 4) }).noteDebt n)
    else .next ((s.setPc n { x with debt := Map.set (fun _ => 0) x.debt bank (d + 1) }).refreshBank n bank)

/-- A queued request can issue a command now: its bank timing is met (`eligible`), a calibration hold leaves it free, the order of
its sector allows it, and the row guard lets it activate its row. -/
def State.mayIssue (s : State) (n : Nat) (e : MemEntry) : Bool :=
  let x := s.pcState n
  let hold := if e.req.port == .ca then !s.portOpen e.req else s.on (mcPcStatusCalHold n)
  let others := if e.req.write then x.reads else x.writes
  let ordered := !others.any (fun o => sameSector o.req e.req && decide (o.seq < e.seq))
  let first := !(if e.req.write then x.writes else []).any (fun o => sameSector o.req e.req && decide (o.seq < e.seq))
  !hold && ordered && first && (x.rowHit e.req || s.guardOk e.req)

/-- Lexicographic order of keys. -/
def keyLt : List Nat → List Nat → Bool
  | a :: as, b :: bs => decide (a < b) || (a == b && keyLt as bs)
  | _, _ => false

/-- The urgency that counts: drain raises a write to at least 1 (R384). -/
def State.urgencyOf (s : State) (n : Nat) (e : MemEntry) : Nat :=
  if e.req.write && s.on (mcPcStatusDrain n) then max 1 e.urgency else e.urgency

/-- The key of R387 for a slot that can issue; a refresh short of the limit comes last. -/
def State.slotKey (s : State) (n : Nat) (c : MemSlot) : Option (List Nat) :=
  let x := s.pcState n
  let key := fun (e : MemEntry) =>
    if s.mayIssue n e then
      some [1, 3 - s.urgencyOf n e, b2n (!x.rowHit e.req), b2n e.demoted, portRank e.req.port, e.seq]
    else none
  match c with
  | .refresh b =>
    let d := Map.get (fun _ => 0) x.debt b
    if 15 < b then none
    else if 4 ≤ d then some [0, 0, 0, 0, 0, b]
    else if (decide (0 < d) && !x.servesBank b) || (x.empty && decide (-4 < d)) then some [2, 0, 0, 0, 0, b]
    else none
  | .read i => (x.reads[i]?).bind key
  | .write i => (x.writes[i]?).bind key

/-- The queued request of a slot. -/
def Pc.slotEntry (x : Pc) : MemSlot → Option MemEntry
  | .refresh _ => none
  | .read i => x.reads[i]?
  | .write i => x.writes[i]?

/-- The next command of a slot goes out on the row command bus: a refresh, or the activation of a row that is not open. -/
def State.onRowBus (s : State) (n : Nat) (c : MemSlot) : Bool :=
  match (s.pcState n).slotEntry c with
  | none => true
  | some e => !(s.pcState n).rowHit e.req

/-- The first of the eligible slots in the order of R387. -/
def State.chooseSlot (s : State) (n : Nat) (l : List MemSlot) : Option MemSlot :=
  (l.foldl (fun (b : Option (MemSlot × List Nat)) c =>
    match s.slotKey n c with
    | none => b
    | some k =>
      match b with
      | none => some (c, k)
      | some (_, kb) => if keyLt k kb then some (c, k) else b) none).map (·.1)

/-- A request may reach 100 % of its target between its command and the last of its data. From a precharge on, these are at most 52 ns (R380), so
that it can happen at 75 % of any target, at 50 % of one below 208 ns, and before that of one below 104 ns. -/
def MemEntry.mayBeLate (e : MemEntry) : Bool :=
  !e.late && (decide (2 ≤ e.urgency) || (e.urgency == 1 && decide (e.target < 21)) || decide (e.target < 11))

/-- A request is not complete when its command is issued: where it may still become late, whether it does is a free value (R386). -/
def State.countLate (s : State) (n : Nat) (e : MemEntry) : State :=
  if e.mayBeLate then
    let k := s.fresh
    k.2.addF (mcPcLate n) (Config.freeValue k.1 % 2) (2 ^ 32 - 1)
  else s

/-- A queued request is issued: it leaves the queue, activates its row where that is not open, and reads or writes its sector. -/
def State.issueReq (s : State) (n : Nat) (e : MemEntry) : State :=
  let x := s.pcState n
  let hit := x.rowHit e.req
  let a := (s.countLate n e).setPc n { x with reads := x.reads.filter (fun o => o.seq != e.seq), writes := x.writes.filter (fun o => o.seq != e.seq) }
  let b := if hit then a else a.activate e.req
  let c := if e.req.write then b.landEntry e
    else b.emit (.sector n e.req.bank e.req.row e.req.sector (b.sectorWords e.req) (b.poisonedIn e))
  ((c.afterAccess e.req).noteDrain n).admitWaiting n

/-- The request that a drain issues next: the oldest write that may issue now, or else the oldest such read. -/
def State.drainNext (s : State) (n : Nat) : Option MemEntry :=
  let x := s.pcState n
  match x.writes.find? (s.mayIssue n) with
  | some e => some e
  | none => x.reads.find? (s.mayIssue n)

/-- A pseudo-channel drains its queues, and what is admitted to them meanwhile, as far as the row guard lets it now (R299, R384). -/
def State.drainPc (s : State) (n : Nat) : State :=
  let x := s.pcState n
  (List.range (x.reads.length + x.writes.length + x.waiting.length)).foldl (fun t _ =>
    match t.drainNext n with
    | none => t
    | some e => t.issueReq n e) s

/-- Every pseudo-channel in service drains its write queue (R101, R568). -/
def State.drainAll (s : State) : State := (List.range 64).foldl (fun t n => if t.pcLive n then t.drainPc n else t) s

/-- A pseudo-channel has no write left to drain. -/
def State.pcDrained (s : State) (n : Nat) : Bool :=
  !s.pcLive n || ((s.pcState n).writes.isEmpty && !(s.pcState n).waiting.any (fun r => r.write))

/-- Every write queue is drained. -/
def State.drained (s : State) : Bool := (List.range 64).all s.pcDrained

/-- PAGE_IDLE_TIMER (R388): the bank has had no access for MC_CTRL.IDLE. -/
def execPageIdleTimer (n bank : Nat) (s : State) : Host.Outcome State Fault Refusal :=
  let x := s.pcState n
  match Map.get (fun _ => none) x.openRows bank with
  | some o =>
    if o.timed then
      .next (s.setPc n { x with openRows := Map.set (fun _ => none) x.openRows bank none, written := Map.set (fun _ => 0) x.written bank 0 })
    else .next s
  | none => .next s

/-- A calibration hold ends (R398). -/
def State.endHold (s : State) (n : Nat) : State :=
  (s.setFs [(mcPcStatusCalHold n, 0), (tcStatusCalActive, 0), (mvStatusCalActive, 0)]).bump tcCalCountHolds 16

/-- CALIBRATION_HOLD_END (R398). -/
def execCalibrationHoldEnd (s : State) : Host.Outcome State Fault Refusal :=
  match s.test.lastHeld with
  | none => .next s
  | some n => if s.on (mcPcStatusCalHold n) then .next (s.endHold n) else .next s

/-- ACTIVATION_WINDOW_END (R300, R402): the counts of the window are cleared. -/
def execActivationWindowEnd (s : State) : Host.Outcome State Fault Refusal := .next { s.endWindow with stageRows := [] }

/-! ### Refresh rates (R391, R392), quench and wake (R568, R569) -/

/-- The refresh rate of a DRAM die from its temperature in 1/64 °C and its present rate. -/
def nextRate (old : Nat) (t : Int) : Nat :=
  if 95 * 64 < t then 2
  else if old = 2 then (if 93 * 64 < t then 2 else if 83 * 64 < t then 1 else 0)
  else if 85 * 64 < t then 1
  else if old = 1 then (if 83 * 64 < t then 1 else 0)
  else 0

/-- Floor of a pseudo-channel at a refresh rate, in units of 0.5 MB/s (R441). -/
def rateFloor (rate : Nat) : Nat := if rate = 0 then 90625 else if rate = 1 then 84375 else 75000

/-- F follows each refresh report and each change of the pseudo-channels in service. While quenched it keeps its value (R441, R442). -/
def State.syncFloor (s : State) : State :=
  if s.quenched then s
  else
    let sum := ((List.range 64).map (fun n => if s.pcLive n && !s.pcRetired n then rateFloor (s.f (mcPcRefreshRate n)) else 0)).sum
    let g := s.regulator
    let f := sum * g.fraction
    let p := s.budgetPcs
    { s with regulator := { g with floor := f, floorPcs := p,
                                   floors := if f = g.floor ∧ p = g.floorPcs then g.floors else g.floors ++ [(s.now, g.floor, g.floorPcs)] } }

/-- Lehr's report reaches the controllers, the regulator and Marver (R392). -/
def State.applyRefresh (s : State) : State :=
  ((List.range 64).foldl (fun t n =>
    let temp := (Map.get (fun _ => (⟨0, 0, 0, 0, 0⟩ : Layer)) t.layers (t.layerOf n)).temp
    t.setF (mcPcRefreshRate n) (nextRate (t.f (mcPcRefreshRate n)) temp)) s).syncPools.syncFloor

/-- The stack hold line asserts: every pseudo-channel enters self-refresh (R94, R395). Window writes that wait are discarded like every write
still queued (R95). -/
def State.holdStack (s : State) : State :=
  (List.range 64).foldl (fun t n => if t.pcLive n then (t.discardQueued n).setFs [(mcPcStatusState n, 2), (mcPcStatusDrain n, 0)] else t)
    { s with pilot := { s.pilot with stackHold := true }, windows := s.windows.filter (fun w => !w.write) }

/-- Every pseudo-channel of a layer is in self-refresh or culled. -/
def State.layerAsleep (s : State) (l : Nat) : Bool :=
  (List.range 64).all (fun n => s.layerOf n != l || !s.pcLive n || s.pcAsleep n)

/-- Pseudo-channels enter self-refresh. -/
def State.sleepPcs (s : State) : State :=
  (List.range 64).foldl (fun t n => if t.pcLive n then (t.closeRows n).setF (mcPcStatusState n) 2 else t) s

/-- The pseudo-channels leave self-refresh (R569). -/
def State.wakeControllers (s : State) : State :=
  (List.range 64).foldl (fun t n => if t.pcLive n then t.setF (mcPcStatusState n) 0 else t) s

/-! ### Benches (R126 to R128, R569) -/

/-- No operation waits or runs in an engine of the bench. -/
def State.benchEmpty (s : State) (b : Nat) : Bool := (List.range 8).all (fun i => (s.engineQueue (8 * b + i)).isEmpty)

/-- Benches that are not culled. -/
def State.liveBenches (s : State) : Nat := 255 - (s.f tcCulletMiscBench &&& 255)

/-- The engine that is to serve a partition (R294): the partitions are spread evenly over the table's engines, benches filled from B0
upwards. -/
def State.targetEngine (s : State) (t : Table) (partition : Nat) : Nat :=
  let l := s.usableEngines.take (max 1 t.engNext)
  l.getD (partition % max 1 l.length) (s.servingEngine t partition)

/-- Benches with an engine that serves a table, or is to serve one. -/
def State.busyBenches (s : State) : Nat :=
  let es := s.liveTables.flatMap (fun p => s.usableEngines.take (max 1 p.2.engNext) ++ (List.range 64).map (s.servingEngine p.2))
  maskOf 8 (fun b => es.any (fun e => e / 8 == b))

/-- The partitions of a table, of those `which` names, that can move now: their new engine's bench runs (R128, R295). -/
def State.moves (s : State) (which : Nat → Nat → Bool) (t : Table) : List Nat :=
  (List.range 64).filter (fun p =>
    let old := s.servingEngine t p
    let new := s.targetEngine t p
    new != old && which old new && s.engineRuns new)

/-- Partitions of the tables move to the engines that are to serve them. `which` names the moves by old and new engine. Requests
stamped before now stay with the old engines (R295). -/
def State.movePartitions (s : State) (which : Nat → Nat → Bool) : State :=
  { s with tables := s.tables.map (fun (p : Nat × Option Table) => (p.1, p.2.map (fun t =>
      let l := s.moves which t
      { t with serving := (List.range 64).map (fun q => (q, if l.contains q then s.targetEngine t q else s.servingEngine t q)),
               moved := t.moved ++ l.map (fun q => (s.now, q, s.servingEngine t q)) }))) }

/-- An engine leaves service for good: its partitions move at once, and its operations go on to the engines that serve them now, where they
start anew (R43, R579). -/
def State.leaveEngine (s : State) (n : Nat) : State :=
  let t := s.movePartitions (fun old _ => old == n)
  (s.engineQueue n).foldl (fun (u : State) o =>
    let e := ((u.table o.table).map (fun x => u.servingEngine x o.partition)).getD (u.liveEngines.headD 0)
    u.setEngine e (u.engineQueue e ++ [{ o with reads := none }])) (t.setEngine n [])

/-- The benches that are not culled are powered again, and run with their microcode reloaded once a service firmware has loaded it
(R569, R580). -/
def State.wakeBenches (s : State) : State :=
  let runs := maskOf 8 (fun b => bitOf s.liveBenches b && !s.heldInReset (22 + b))
  (s.setFs [(teBenchPowered, s.liveBenches), (teBenchRunning, if s.trust.running.isSome then runs else 0),
    (plPwrOn, s.f plPwrOn ||| s.liveBenches * 2 ^ 21), (plClkActive, s.f plClkActive ||| runs * 2 ^ 22)]).movePartitions (fun _ _ => true)

/-! ### Commands (R403) -/

/-- Refresh code of a layer in MEM_INFO. -/
def State.refreshCode (s : State) (l : Nat) : Nat :=
  let pcs := (List.range 64).filter (fun n => s.layerOf n == l && s.pcLive n)
  match pcs.head? with
  | none => 3
  | some n => if l ≤ s.dies && !s.layerAsleep l then s.f (mcPcRefreshRate n) else 3

/-- MEM_INFO. -/
def execMemInfo (e : Sqe) (s : State) : Host.Outcome State Fault Refusal :=
  runCommand 0x1C8 e s (fun s =>
    let layers := (List.range s.dies).filter (fun i => !bitOf (s.f tcCulletLayer) i)
    s.done e stOk (packBytes [(0, 1, layers.length), (1, 1, s.pcsPerDie), (2, 1, 16), (3, 1, 64 - popcount 64 (s.f tcCulletSlice)),
      (4, 4, s.bankRows), (8, 4, ((List.range 16).map (fun i => s.refreshCode (i + 1) * 4 ^ i)).sum),
      (12, 8, maskOf 64 s.pcLive), (20, 1, s.f (mcCtrlPolicy 0))]))

/-- Controllers of a mask. -/
def controllersOf (mask : Nat) : List Nat := (List.range 16).filter (fun m => bitOf mask m)

/-- R494: a mask that names culled controllers only. -/
def State.allCulledMcs (s : State) (mask : Nat) : Bool :=
  !(controllersOf mask).isEmpty && (controllersOf mask).all (fun m => bitOf (s.f tcCulletMiscMc) m)

/-- Controllers of a mask that are not culled: the others are skipped (R494). -/
def State.liveControllers (s : State) (mask : Nat) : List Nat := (controllersOf mask).filter (fun m => !bitOf (s.f tcCulletMiscMc) m)

/-- MC_POLICY. -/
def execMcPolicy (e : Sqe) (s : State) : Host.Outcome State Fault Refusal :=
  runCommand 0x1C9 e s (fun s =>
    let idle := e.par 20 2
    if e.bit 18 1 && (decide (2550 < idle) || idle % 10 != 0) then s.done e stBadParam 0
    else if e.bit 18 2 && decide (4095 < e.par 22 2) then s.done e stBadParam 0
    else if s.allCulledMcs (e.par 16 2) then s.done e stResourceCulled 0
    else
      ((s.liveControllers (e.par 16 2)).foldl (fun t m =>
        let a := t.setF (mcCtrlPolicy m) (b2n (e.bit 18 0))
        let b := if e.bit 18 1 then a.setF (mcCtrlIdle m) (idle / 10) else a
        if e.bit 18 2 then b.setF (mcHintDef m) (e.par 22 2) else b) s).done e stOk 0)

/-- MC_TARGETS. -/
def execMcTargets (e : Sqe) (s : State) : Host.Outcome State Fault Refusal :=
  runCommand 0x1CA e s (fun s =>
    let high := e.par 22 1
    let low := e.par 23 1
    let h := fun (t : State) (m : Nat) => if high = 0 then t.f (mcWqMarkHigh m) else high
    let l := fun (t : State) (m : Nat) => if low = 0 then t.f (mcWqMarkLow m) else low
    if 5 < e.par 18 1 || e.par 20 2 == 0 || decide (64 < high) ||
        (s.liveControllers (e.par 16 2)).any (fun m => decide (h s m ≤ l s m)) then s.done e stBadParam 0
    else if s.allCulledMcs (e.par 16 2) then s.done e stResourceCulled 0
    else
      ((s.liveControllers (e.par 16 2)).foldl (fun t m =>
        t.setFs [(targetFld m (e.par 18 1), e.par 20 2), (mcWqMarkHigh m, h t m), (mcWqMarkLow m, l t m)]) s).done e stOk 0)

end Sys2Proof.Machine
end

