-- ==== Sys2Proof/Machine/Staging.lean ====
section
/-!
DEFINITION. The staging window of BAR2 and the internal spaces of the bulk movers (R473 to R477, R493, R504, R505).
-/
namespace Sys2Proof.Machine

/-! ### Ranges -/

/-- DRAM capacity of the grade (R5). -/
def State.dramBytes (s : State) : Nat := 64 * s.pcBytes

/-- Bytes of the Crucible (R375). -/
def crucibleBytes : Nat := 2 ^ 29

/-- The sectors of 256 B that a range touches, as the positions of their first bytes (R475). -/
def sectorsOf (a n : Nat) : List Nat := if n = 0 then [] else (List.range ((a + n - 1) / 256 - a / 256 + 1)).map (fun i => (a / 256 + i) * 256)

/-- Every unit of the range is in service. -/
def State.rangeLive (s : State) (dram : Bool) (a n : Nat) : Bool :=
  (sectorsOf a n).all (fun k => if dram then decide (k < s.dramBytes) && s.pcLive (s.pcOf k)
    else decide (k < crucibleBytes) && !bitOf (s.f tcCulletSlice) (k / 2 ^ 23))

/-- The range avoids rows 0 to 2 of every bank. -/
def State.rangeFree (s : State) (a n : Nat) : Bool := (sectorsOf a n).all (fun k => decide (2 < s.rowOf k))

/-- Positions in `mem`. -/
def memKey (dram : Bool) (a : Nat) : Nat := if dram then a else crucibleBase + a

/-! ### Accesses through the HB port (R475)

A window access takes its queue entry and is issued in one step, as soon as nothing keeps it waiting. -/

/-- The request of one sector of a window access. -/
def State.windowReq (s : State) (cls : Nat) (write : Bool) (k : Nat) : MemReq :=
  ⟨s.pcOf k, s.bankOf k, s.rowOf k, sectorOf k, .hb, write, [], cls, 0, true, s.now⟩

/-- The newest queued write to the sector of a position of DRAM. -/
def State.queuedWrite (s : State) (k : Nat) : Option MemEntry :=
  let r := s.windowReq 14 false k
  (s.pcState r.pc).newestWrite r

/-- A byte of the stack as a window access reads it: from the queued write of its sector, if there is one (R382), or from where it lies. -/
def State.windowByte (s : State) (k : Nat) : Byte :=
  match (if k < crucibleBase then s.queuedWrite k else none) with
  | none => s.stackByte k
  | some w =>
    match w.req.words.find? (fun v => v.1 == k % 256 / 8) with
    | some v => BitVec.ofNat 8 (v.2 / 256 ^ (k % 8))
    | none => s.stackByte k

/-- Successive bytes. -/
def State.windowBytes (s : State) (k n : Nat) : List Byte := (List.range n).map (fun i => s.windowByte (k + i))

/-- The word of a position is uncorrectable as a window access reads it. -/
def State.windowBad (s : State) (k : Nat) : Bool :=
  match (if k < crucibleBase then s.queuedWrite k else none) with
  | none => s.integrity.badWords.contains (k / 8)
  | some w => w.bad.contains (k % 256 / 8)

/-- The range holds an uncorrectable word. -/
def State.rangeBad (s : State) (dram : Bool) (a n : Nat) : Bool := (List.range n).any (fun i => s.windowBad (memKey dram a + i))

/-- The words that bytes `b` at position `a` put into the sector at position `k`. -/
def wordsAt (a : Nat) (b : List Byte) (k : Nat) : List (Nat × Nat) :=
  ((List.range 32).filter (fun i => decide (a ≤ k + 8 * i ∧ k + 8 * i + 8 ≤ a + b.length))).map
    (fun i => (i, leNat ((b.drop (k + 8 * i - a)).take 8)))

/-- One sector of a window access. A read that a queued write covers is forwarded, and a write that finds an older one is merged into it
(R382, R383): neither is charged (R435). Any other is charged, activates its row where `opens` and the row is not open, and writes its
words. -/
def State.windowSector (s : State) (cls : Nat) (write opens : Bool) (words : List (Nat × Nat)) (k : Nat) : State :=
  let r := { s.windowReq cls write k with words := words }
  let a := s.wakePc r.pc
  match (a.pcState r.pc).newestWrite r with
  | some w => if write then a.mergeWrite r w else a.countForward r.pc
  | none =>
    let t := (a.charge r.pc cls).2
    let u := if !opens || (t.pcState r.pc).rowHit r then t else t.activate r
    (u.landWords r).afterAccess r

/-- The requests of a window access to DRAM; `b` are the bytes of a write. It activates each row at most once (R400). -/
def State.windowAccess (s : State) (cls : Nat) (write : Bool) (a n : Nat) (b : List Byte) : State :=
  ((sectorsOf a n).foldl (fun (t : State × Option RowAt) k =>
    let p := placeOfReq (t.1.windowReq cls write k)
    (t.1.windowSector cls write (t.2 != some p) (wordsAt a b k) k, some p)) (s, none)).1

/-- A read of a range by class `cls`. -/
def State.hbRead (s : State) (cls : Nat) (dram : Bool) (a n : Nat) : State := if dram then s.windowAccess cls false a n [] else s

/-- A write of a range by class `cls`. -/
def State.hbWrite (s : State) (cls : Nat) (dram : Bool) (a : Nat) (b : List Byte) : State :=
  if dram then s.windowAccess cls true a b.length b else s.stackWrite (memKey false a) b

/-- Nothing keeps the request of one sector waiting: no earlier request of its port or sector waits (R381); a read finds no queued write of
its sector, or one with a full mask; a write finds none, or one that it can be merged into (R382, R383); and one that goes to the DRAM finds a
free entry, its pseudo-channel neither in a calibration hold (R398) nor held in self-refresh or for a BIST, no older read of the sector before
a write, and its row open or free to be activated (R401). -/
def State.windowServes (s : State) (r : MemReq) : Bool :=
  let x := s.pcState r.pc
  !waitsBehind r x.waiting &&
    (match x.newestWrite r with
     | some w => if r.write then x.mergesInto r w else fullMask w.req.words
     | none => x.hasRoom r && !s.on (mcPcStatusCalHold r.pc) && !s.stackAsleep && !bitOf s.test.pcBist r.pc &&
         !(r.write && x.reads.any (fun e => sameSector e.req r)) && (x.rowHit r || s.guardOk r))

/-- An access must wait. -/
def State.windowBlocked (s : State) (write dram : Bool) (a n : Nat) : Bool :=
  dram && (sectorsOf a n).any (fun k => !s.windowServes (s.windowReq 14 write k))

/-! ### BAR2 (R473 to R475, R493) -/

/-- Position of a window offset (R474). -/
def State.windowPos (s : State) (off : Nat) : Nat := s.f hcStageBase * 2 ^ 28 + off

/-- A refusal of R475. -/
def State.refuseWindow (s : State) (off : Nat) : State :=
  (s.addF hcStageDrop 1 (2 ^ 32 - 1)).report { pre := .hc, code := 0x03, severity := 0, data := off % 2 ^ 32 }

/-- A read through the window. In safe hold it gets Completer Abort (R623). -/
def State.windowRead (s : State) (off n : Nat) : State :=
  let dram := s.f hcStageKind == 1
  let a := s.windowPos off
  if s.halted then s.emit .completerAbort
  else if s.f hcStageKind = 0 then s.emit .completerAbort
  else if !s.rangeLive dram a n then (s.refuseWindow off).emit .completerAbort
  else (s.hbRead 14 dram a n).emit (.readData (s.windowBytes (memKey dram a) n) (s.rangeBad dram a n))

/-- The write covers whole aligned 8 B words: `enables` has a bit for each byte of it. -/
def wholeWords (off n enables : Nat) : Bool := off % 8 == 0 && n % 8 == 0 && enables % 2 ^ n == 2 ^ n - 1

/-- A write to the range is refused (R475). -/
def State.windowRefuses (s : State) (dram : Bool) (off n enables : Nat) : Bool :=
  !s.rangeLive dram (s.windowPos off) n || !wholeWords off n enables || !s.on hcStageWrite || (dram && !s.rangeFree (s.windowPos off) n)

/-- A write through the window. In safe hold it is dropped (R623). -/
def State.windowWrite (s : State) (off : Nat) (data : List Byte) (enables : Nat) : State :=
  let dram := s.f hcStageKind == 1
  let a := s.windowPos off
  if s.halted || s.f hcStageKind == 0 then s
  else if s.windowRefuses dram off data.length enables then s.refuseWindow off
  else s.hbWrite 14 dram a data

/-- One access, made now. -/
def State.windowRun (s : State) (w : WindowAccess) : State :=
  if w.write then s.windowWrite w.off w.data w.enables else s.windowRead w.off w.n

/-- The access is neither refused nor dropped, and must wait for its controller. -/
def State.windowWaits (s : State) (w : WindowAccess) : Bool :=
  let dram := s.f hcStageKind == 1
  !s.halted && s.rangeLive dram (s.windowPos w.off) w.n && !(w.write && s.windowRefuses dram w.off w.n w.enables) &&
    s.windowBlocked w.write dram (s.windowPos w.off) w.n

/-- An access takes its turn: it waits behind earlier ones, and while its controller cannot serve it. -/
def State.windowTurn (s : State) (w : WindowAccess) : State :=
  if !s.windows.isEmpty || s.windowWaits w then { s with windows := s.windows ++ [w] } else s.windowRun w

/-- An access comes to the window. While quenched it is refused and counted (R493). -/
def State.windowCome (s : State) (w : WindowAccess) : State :=
  if s.quenched && !s.halted then
    let t := s.addF hcStageDrop 1 (2 ^ 32 - 1)
    if w.write then t else t.emit .completerAbort
  else s.windowTurn w

/-- The accesses that wait are made, in order, as far as their controllers can serve them now. -/
def State.serveWindows (s : State) : State := s.windows.foldl State.windowTurn { s with windows := [] }

/-- The queues drain, and with them the window writes that wait, and the operations whose reads are served end (R101, R568). -/
def State.drainStack (s : State) : State := s.drainAll.serveWindows.endOps

/-- No write to the stack is left to drain. -/
def State.stackDrained (s : State) : Bool := s.drained && !s.windows.any (fun w => w.write)

/-- STAGING_WINDOW_READ. Before PCIE_READY no BAR is decoded (R88): Unsupported Request. -/
def execStagingWindowRead (off n : Nat) (s : State) : Host.Outcome State Fault Refusal :=
  if s.decodesBars then .next (s.windowCome ⟨false, off, n, [], 0⟩) else .next (s.emit .unsupportedRequest)

/-- STAGING_WINDOW_WRITE. -/
def execStagingWindowWrite (off : Nat) (data : List Byte) (enables : Nat) (s : State) : Host.Outcome State Fault Refusal :=
  if s.decodesBars then .next (s.windowCome ⟨true, off, data.length, data, enables⟩) else .next s

/-- The column command bus: the access of a request whose row is open. -/
def State.issueColumn (s : State) (n : Nat) (c : Option MemSlot) : State :=
  match c.bind (s.pcState n).slotEntry with
  | none => s
  | some e => s.issueReq n e

/-- The row command bus: a refresh, or the activation for the request `e`, which stays queued. -/
def State.issueRow (s : State) (n : Nat) (c : Option MemSlot) (e : Option MemEntry) : State :=
  match c, e with
  | some (.refresh b), _ => s.refreshBank n b
  | _, some e => s.activate e.req
  | _, none => s

/-- MC_COMMAND_ISSUE (R387): one command slot of a pseudo-channel, after the staging-window accesses that waited for their controllers: at
most one command on each of its two buses, each chosen in the order of R387 as the slot begins. `eligible` are those whose timing allows
their next command, and whose command delays none that keeps its place (log entry 9). -/
def execMcCommandIssue (n : Nat) (eligible : List MemSlot) (z : State) : Host.Outcome State Fault Refusal :=
  let s := z.serveWindows
  if 63 < n || !s.pcLive n || s.pcAsleep n || s.stackAsleep then .next s
  else
    let row := s.chooseSlot n (eligible.filter (s.onRowBus n))
    let col := s.chooseSlot n (eligible.filter (fun c => !s.onRowBus n c))
    .next ((s.issueColumn n col).issueRow n row (row.bind (s.pcState n).slotEntry)).endOps

/-- STAGE_MAP (R473). -/
def execStageMap (e : Sqe) (s : State) : Host.Outcome State Fault Refusal :=
  runCommand 0x1D8 e s (fun s =>
    let kind := e.par 16 1
    let base := e.par 20 2
    if 2 < kind || (kind == 1 && decide (s.dramBytes ≤ base * 2 ^ 28)) || (kind == 2 && decide (crucibleBytes ≤ base * 2 ^ 28)) then
      s.done e stBadParam 0
    else
      (s.setFs [(hcStageKind, kind), (hcStageWrite, b2n (e.bit 17 0)), (hcStageBase, base)]).done e stOk (resTick s.now))

/-! ### Bulk-mover spaces (R504, R505, R353) -/

/-- The table of an address in the table-image space. -/
def imageTable (a : Nat) : Nat := a / 2 ^ 40

/-- The open image area that a range of the table-image space lies in (R353). -/
def State.imageAt (s : State) (a n : Nat) : Option (Table × Image) :=
  if 255 < imageTable a ∨ a / 2 ^ 32 % 256 ≠ 0 then none
  else
    match s.table (imageTable a) with
    | none => none
    | some t =>
      match t.image with
      | none => none
      | some i => if a % 2 ^ 32 + n ≤ i.size then some (t, i) else none

/-- The first byte of a range of a space that a channel may not access (R504, R505, R512). A destination off 8 B boundaries is
refused whole. -/
def State.firstDenied (s : State) (space a n : Nat) (write : Bool) : Option Nat :=
  match space with
  | 0 => none
  | 1 =>
    match s.imageAt a 0 with
    | none => some 0
    | some (_, i) => if i.size - a % 2 ^ 32 < n then some (i.size - a % 2 ^ 32) else none
  | k =>
    let dram := k == 3
    if !s.on bmCtrlPhysEn || (write && (a % 8 != 0 || n % 8 != 0)) then some 0
    else (List.range n).find? (fun i => !s.rangeLive dram (a + i) 1 || (write && dram && !s.rangeFree (a + i) 1))

/-- The first byte of a range of an internal space that lies in an uncorrectable word. -/
def State.firstBad (s : State) (space a n : Nat) : Option Nat :=
  match space with
  | 0 | 1 => none
  | k =>
    let dram := k == 3
    (List.range n).find? (fun i => s.windowBad (memKey dram (a + i)))

/-- Read a range for class `cls`. Host bytes come from outside. -/
def State.spaceRead (s : State) (cls space a n : Nat) (host : List Byte) : List Byte × State :=
  match space with
  | 0 => (host, s)
  | 1 =>
    match s.imageAt a n with
    | none => ([], s)
    | some (_, i) => ((List.range n).map (fun j => BitVec.ofNat 8 (Map.get (fun _ => 0) i.bytes (a % 2 ^ 32 + j))), s)
  | k => (s.windowBytes (memKey (k == 3) a) n, s.hbRead cls (k == 3) a n)

/-- An access to a range of a space must wait for its controller. -/
def State.spaceBlocked (s : State) (write : Bool) (space a n : Nat) : Bool := decide (2 ≤ space) && s.windowBlocked write (space == 3) a n

/-- Bytes written into an image area. -/
def writeImage (m : Map Nat) (a : Nat) : List Byte → Map Nat
  | [] => m
  | v :: r => writeImage (Map.set (fun _ => 0) m a v.toNat) (a + 1) r

/-- Bytes of a write TLP that begins at `a` (R510), for the destination width `w` and the Max Payload Size `most`: where units merge, whole
units up to the payload size that cross no 4 KiB boundary; otherwise one unit. -/
def tlpLength (w : Nat) (merge : Bool) (most a : Nat) : Nat :=
  if merge then min ((a + most) / w * w) ((a / 4096 + 1) * 4096) - a else (a / w + 1) * w - a

/-- The write TLPs of a run of bytes. -/
def writeTlps (w : Nat) (merge : Bool) (most : Nat) : Nat → Nat → List Byte → List (Nat × List Byte)
  | 0, _, _ => []
  | _, _, [] => []
  | fuel + 1, a, b =>
    let k := tlpLength w merge most a
    (a, b.take k) :: writeTlps w merge most fuel (a + k) (b.drop k)

/-- Max Payload Size in bytes (R450). -/
def State.payloadBytes (s : State) : Nat := 128 * 2 ^ min s.pcie.maxPayload 2

/-- Write a range for class `cls`, in units of `w` bytes to the host. -/
def State.spaceWrite (s : State) (cls space a w : Nat) (merge : Bool) (b : List Byte) : State :=
  match space with
  | 0 => (writeTlps w merge s.payloadBytes b.length a b).foldl (fun t x => t.emitHost (.hostWrite x.1 x.2)) s
  | 1 =>
    match s.imageAt a b.length with
    | none => s
    | some (t, i) => s.putTable (imageTable a) (some { t with image := some { i with bytes := writeImage i.bytes (a % 2 ^ 32) b } })
  | k => s.hbWrite cls (k == 3) a b

end Sys2Proof.Machine
end

