-- ==== Sys2Proof/Machine/Movers.lean ====
section
/-!
DEFINITION. The bulk movers and the commands of the event matrix (R501 to R520).
-/
namespace Sys2Proof.Machine

/-! ### Event lines (R501, R514) -/

/-- The source codes of R514. -/
def sourceDefined (c : Nat) : Bool :=
  c == 0 || decide (0x100 ≤ c ∧ c < 0x112) || decide (0x200 ≤ c ∧ c < 0x212) || decide (0x300 ≤ c ∧ c < 0x312) ||
    decide (0x400 ≤ c ∧ c ≤ 0x405) || decide (0x500 ≤ c ∧ c < 0x510) || c == 0xFFFF

/-- A line is configured while it has a source (R501). -/
def State.lineConfigured (s : State) (l : Nat) : Bool := s.f (evSrcCode l) != 0xFFFF

/-- EV_SOURCE (R501). -/
def execEvSource (e : Sqe) (s : State) : Host.Outcome State Fault Refusal :=
  runCommand 0x300 e s (fun s =>
    if 63 < e.par 16 1 || !sourceDefined (e.par 18 2) then s.done e stBadParam 0
    else (s.setF (evSrcCode (e.par 16 1)) (e.par 18 2)).done e stOk 0)

/-- EV_SINK (R501): connects or disconnects the snapshot trigger or a channel's start. -/
def execEvSink (e : Sqe) (s : State) : Host.Outcome State Fault Refusal :=
  runCommand 0x301 e s (fun s =>
    let l := e.par 16 1
    let sink := e.par 17 1
    let c := e.par 18 1
    if 63 < l || !(sink == 1 || sink == 2) || (sink == 2 && decide (15 < c)) then s.done e stBadParam 0
    else if !s.lineConfigured l then s.done e stNoSuchObject 0
    else
      let t :=
        if sink = 1 then
          if e.bit 19 0 then s.setFs [(evSnapLine, l), (evSnapConnected, 1)]
          else if s.on evSnapConnected && s.f evSnapLine == l then s.setF evSnapConnected 0
          else s
        else if e.bit 19 0 then s.setFs [(bmChCfgStartLine c, l), (bmChCfgStartEn c, 1)]
        else if s.on (bmChCfgStartEn c) && s.f (bmChCfgStartLine c) == l then s.setF (bmChCfgStartEn c) 0
        else s
      t.done e stOk 0)

/-- EV_PULSE (R501): a pulse of a software line. -/
def execEvPulse (e : Sqe) (s : State) : Host.Outcome State Fault Refusal :=
  runCommand 0x302 e s (fun s =>
    let l := e.par 16 1
    if 63 < l then s.done e stBadParam 0
    else if !s.lineConfigured l then s.done e stNoSuchObject 0
    else if s.f (evSrcCode l) ≠ 0 then s.done e stNotPermitted 0
    else (s.pulseLine l s.now).done e stOk (resTick s.now))

/-- EV_SW_PULSE_WRITE (R520): the write pulses the line if its source code is 0. -/
def execEvSwPulseWrite (v : Nat) (s : State) : Host.Outcome State Fault Refusal :=
  match s.refusesWrite 0x50114 with
  | some t => .next t
  | none =>
    if s.f (evSrcCode (v % 64)) = 0 then .next (s.pulseLine (v % 64) s.now) else .next s

/-- EV_INFO (R501). -/
def execEvInfo (e : Sqe) (s : State) : Host.Outcome State Fault Refusal :=
  runCommand 0x303 e s (fun s =>
    let l := e.par 16 1
    if 63 < l then s.done e stBadParam 0
    else s.done e stOk (packBytes [(0, 2, s.f (evSrcCode l)),
      (2, 1, b2n (s.on evSnapConnected && s.f evSnapLine == l)), (4, 8, (s.line l).tick), (12, 4, (s.line l).count)]))

/-! ### Channel configuration (R501) -/

/-- BM_CHANNEL_CFG (R501). -/
def execBmChannelCfg (e : Sqe) (s : State) : Host.Outcome State Fault Refusal :=
  runCommand 0x308 e s (fun s =>
    let c := e.par 16 1
    if 15 < c || 14 < e.par 17 1 then s.done e stBadParam 0
    else if s.f (bmChStatusState c) = 1 ∨ s.f (bmChStatusState c) = 3 then s.done e stNotPermitted 0
    else
      let t := s.setF (bmChCfgClass c) (e.par 17 1)
      (if e.par 18 2 = 0 then t else t.setF (bmChHopsLimit c) (e.par 18 2)).done e stOk 0)

/-- BM_NOSNOOP (R501): applies from the next transfer started. -/
def execBmNosnoop (e : Sqe) (s : State) : Host.Outcome State Fault Refusal :=
  runCommand 0x309 e s (fun s =>
    if 15 < e.par 16 1 then s.done e stBadParam 0
    else (s.setF (bmChCfgNosnoop (e.par 16 1)) (b2n (e.bit 17 0))).done e stOk 0)

/-! ### Descriptors (R503 to R508) -/

/-- What a channel holds after a reset. -/
def channelCold (_ : Nat) : Channel := ⟨false, false, false⟩

def State.channel (s : State) (c : Nat) : Channel := Map.get channelCold s.channels c

def State.setChannel (s : State) (c : Nat) (x : Channel) : State := { s with channels := Map.set channelCold s.channels c x }

/-- CHANNEL_HALT (R512): STATE 2, the status, the bytes done, the error source, the entry and the vector. The shadow
set is kept. -/
def State.haltChannel (s : State) (c status bytes : Nat) : State :=
  let t := s.setFs [(bmChStatusState c, 2), (bmChStatusStatus c, status), (bmChBytes c, bytes % 2 ^ 32), (bmCtrlLastErr, c)]
  (((t.setChannel c { s.channel c with fetching := false }).pulseSource (0x200 + c))).report
    { pre := .bm, code := status, severity := 1, vector := some (if c < 16 then 6 else 4), unitKind := 7, unit := c,
      data := bytes % 2 ^ 32 }

/-- R503, R518: the active descriptor holds a refused value. -/
def State.activeRefused (s : State) (c : Nat) : Bool :=
  s.f (bmAcCount c) == 0 || s.f (bmAcModeOp c) == 3 || s.f (bmAcModeSrcW c) == 7 || s.f (bmAcModeDstW c) == 7 ||
    s.f (bmAcNext c) % 64 != 0

/-- An access of the active descriptor to an internal space, at which a quench pauses it (R513). -/
def State.activeInternal (s : State) (c : Nat) : Bool :=
  (s.f (bmAcModeOp c) != 1 && s.f (bmAcModeSrcSpace c) != 0) || s.f (bmAcModeDstSpace c) != 0

/-- The shadow set becomes the active set and runs (R506, R508): SHADOW_VALID is cleared, `hops` is the hop count, and
the fetch of NEXT starts. A refused value halts the channel with BAD_PARAM. DESIGN CHOICE (log entry 31): a privileged channel, whose
descriptor is SRC, DST and COUNT alone (R518), copies from host to host in units of 8 B. -/
def State.takeShadow (s : State) (c hops : Nat) : State :=
  let t := s.setFs [(bmAcSrc c, s.f (bmShSrc c)), (bmAcDst c, s.f (bmShDst c)), (bmAcCount c, s.f (bmShCount c)),
    (bmAcModeOp c, s.f (bmShModeOp c)), (bmAcModeSrcSpace c, s.f (bmShModeSrcSpace c)),
    (bmAcModeDstSpace c, s.f (bmShModeDstSpace c)), (bmAcModeSrcW c, if c < 16 then s.f (bmShModeSrcW c) else 3),
    (bmAcModeDstW c, if c < 16 then s.f (bmShModeDstW c) else 3), (bmAcModePulseDone c, s.f (bmShModePulseDone c)),
    (bmAcModeStopOnMismatch c, s.f (bmShModeStopOnMismatch c)), (bmAcFill c, s.f (bmShFill c)),
    (bmAcNext c, s.f (bmShNext c)), (bmChStatusShadowValid c, 0), (bmChHopsCount c, hops), (bmChBytes c, 0),
    (bmChStatusState c, 1)]
  let u := t.setChannel c { s.channel c with fetching := t.f (bmAcNext c) != 0, ended := false }
  if u.activeRefused c then u.haltChannel c stBadParam 0
  else if u.quenched && u.activeInternal c then u.setF (bmChStatusState c) 3
  else u

/-- A start of channel `c` (R506): an idle channel whose shadow holds a descriptor runs it; any other start is counted
in START_MISSED. BM_NOSNOOP applies from this start. -/
def State.startChannel (s : State) (c : Nat) : State :=
  if s.f (bmChStatusState c) = 0 ∧ s.on (bmChStatusShadowValid c) = true then
    (s.setChannel c { s.channel c with nosnoop := s.on (bmChCfgNosnoop c) }).takeShadow c 1
  else s.bump (bmChStatusStartMissed c) 8

/-- The requester can write the control register of channel `c`: the privileged channels are Anvil's (R517, R22). -/
def mayControl (q : Requester) (c : Nat) : Bool := decide (c < 16) || q == .anvil

/-- BM_CH_START (R506). -/
def execBmChStart (q : Requester) (c : Nat) (s : State) : Host.Outcome State Fault Refusal :=
  match s.refusesWrite (bmBase c) with
  | some t => .next t
  | none =>
    if mayControl q c then .next (s.startChannel c) else .next (s.setF devStatusRwaDenied 1)

/-- BM_CH_ARM (R507): sets SHADOW_VALID. -/
def execBmChArm (q : Requester) (c : Nat) (s : State) : Host.Outcome State Fault Refusal :=
  match s.refusesWrite (bmBase c) with
  | some t => .next t
  | none =>
    if mayControl q c then .next (s.setF (bmChStatusShadowValid c) 1) else .next (s.setF devStatusRwaDenied 1)

/-- BM_CH_CLEAR (R512): a halted channel returns to idle with SHADOW_VALID = 0. -/
def execBmChClear (q : Requester) (c : Nat) (s : State) : Host.Outcome State Fault Refusal :=
  match s.refusesWrite (bmBase c) with
  | some t => .next t
  | none =>
    if !mayControl q c then .next (s.setF devStatusRwaDenied 1)
    else if s.f (bmChStatusState c) = 2 then .next (s.setFs [(bmChStatusState c, 0), (bmChStatusShadowValid c, 0)])
    else .next s

/-- R503: a descriptor fetched from host memory is whole, its CHECK holds and it holds no refused value. -/
def descriptorOk (b : List Byte) : Bool :=
  b.length == 64 && bufNat b 60 4 == crc32 (b.take 60) && bufNat b 40 20 == 0 && bufNat b 16 4 != 0 &&
    decide (bufNat b 20 1 < 3) && bufNat b 21 1 &&& 0xCC == 0 && bufNat b 22 1 &&& 0x88 == 0 &&
    bufNat b 22 1 % 8 != 7 && bufNat b 22 1 / 16 % 8 != 7 && decide (bufNat b 23 1 < 4) && bufNat b 32 8 % 64 == 0

/-- A good descriptor goes into the shadow set. -/
def State.loadShadow (s : State) (c : Nat) (b : List Byte) : State :=
  s.setFs [(bmShSrc c, bufNat b 0 8), (bmShDst c, bufNat b 8 8), (bmShCount c, bufNat b 16 4), (bmShModeOp c, bufNat b 20 1),
    (bmShModeSrcSpace c, bufNat b 21 1 % 4), (bmShModeDstSpace c, bufNat b 21 1 / 16 % 4), (bmShModeSrcW c, bufNat b 22 1 % 8),
    (bmShModeDstW c, bufNat b 22 1 / 16 % 8), (bmShModePulseDone c, bufNat b 23 1 % 2),
    (bmShModeStopOnMismatch c, bufNat b 23 1 / 2 % 2), (bmShFill c, bufNat b 24 8), (bmShNext c, bufNat b 32 8),
    (bmChStatusShadowValid c, 1)]

/-- BM_DESCRIPTOR_FETCH_DONE (R508): the descriptor named by NEXT is checked and placed in the shadow set, unless the
host has armed the shadow in the meantime; a failed read or a refused descriptor halts the channel (R512). A channel
that has already ended its descriptor takes it at once. -/
def execBmDescriptorFetchDone (c : Nat) (h : DescriptorRead) (s : State) : Host.Outcome State Fault Refusal :=
  if !(s.channel c).fetching then .next s
  else
    let t := s.setChannel c { s.channel c with fetching := false }
    match h with
    | .badRequest => .next (t.haltChannel c stBadParam (s.f (bmChBytes c)))
    | .noCompletion => .next (t.haltChannel c stTimeout (s.f (bmChBytes c)))
    | .data b =>
      if t.on (bmChStatusShadowValid c) then .next t
      else if !descriptorOk b then .next (t.haltChannel c stBadParam (s.f (bmChBytes c)))
      else
        let u := t.loadShadow c b
        if (u.channel c).ended then .next (u.takeShadow c (u.f (bmChHopsCount c) + 1)) else .next u

/-! ### The end of a descriptor (R508, R509) -/

/-- The statuses of R512 by cause. -/
def haltStatus : HaltCause → Nat
  | .badRequest | .refusedDescriptor => stBadParam
  | .noCompletion => stTimeout
  | .notPermitted => stNotPermitted
  | .uncorrectable => stMemUncorrectable
  | .chainLimit => stChainLimit
  | .internal => stInternalFault

/-- The done source of the channel pulses. -/
def State.pulseDone (s : State) (c : Nat) : State := s.pulseSource (0x100 + c)

/-- What follows a descriptor that ended without error (R508): the done pulse, the next descriptor, the hop limit, or
idle. -/
def State.afterDescriptor (s : State) (c : Nat) : State :=
  let pd := s.on (bmAcModePulseDone c)
  let t := (s.setF (bmChStatusStatus c) stOk)
  let u := if pd then t.pulseDone c else t
  let more := u.on (bmChStatusShadowValid c) || (u.channel c).fetching
  if more then
    if u.eff (bmChHopsLimit c) ≤ u.f (bmChHopsCount c) then u.haltChannel c stChainLimit (u.f (bmChBytes c))
    else if u.on (bmChStatusShadowValid c) then u.takeShadow c (u.f (bmChHopsCount c) + 1)
    else u.setChannel c { u.channel c with ended := true }
  else
    let v := u.setF (bmChStatusState c) 0
    if pd then v else v.pulseDone c

/-- The first index at which two byte strings differ. -/
def firstDiff : List Byte → List Byte → Nat → Option Nat
  | a :: as, b :: bs, i => if a = b then firstDiff as bs (i + 1) else some i
  | _, _, _ => none

/-- The FILL pattern repeated from its byte 0: byte i receives FILL byte i mod 8 (R503). -/
def fillBytes (pattern n : Nat) : List Byte := (List.range n).map (fun i => BitVec.ofNat 8 (pattern / 256 ^ (i % 8)))

/-- Class, spaces and addresses of the active descriptor. -/
def State.acClass (s : State) (c : Nat) : Nat := s.eff (bmChCfgClass c)
def State.readSrc (s : State) (c n : Nat) (host : List Byte) : List Byte × State :=
  s.spaceRead (s.acClass c) (s.f (bmAcModeSrcSpace c)) (s.f (bmAcSrc c)) n host
def State.readDst (s : State) (c n : Nat) (host : List Byte) : List Byte × State :=
  s.spaceRead (s.acClass c) (s.f (bmAcModeDstSpace c)) (s.f (bmAcDst c)) n host
def State.writeDst (s : State) (c : Nat) (b : List Byte) : State :=
  s.spaceWrite (s.acClass c) (s.f (bmAcModeDstSpace c)) (s.f (bmAcDst c)) (2 ^ s.f (bmAcModeDstW c))
    (decide (3 ≤ s.f (bmAcModeDstW c) ∧ 3 ≤ s.f (bmAcModeSrcW c))) b

/-- Bytes of the range before the unit of width 2^w that holds the byte at offset `i` (R510). -/
def beforeUnit (a w i : Nat) : Nat := (a + i) / 2 ^ w * 2 ^ w - a

/-- Where the operation must stop, with the status of the halt (R512): before the unit of the first byte that it may not access, or that
lies in an uncorrectable word it reads. -/
def State.stopPoint (s : State) (c n : Nat) : Option (Nat × Nat) :=
  let op := s.f (bmAcModeOp c)
  let src := fun (st : Nat) (i : Nat) => (beforeUnit (s.f (bmAcSrc c)) (s.f (bmAcModeSrcW c)) i, st)
  let dst := fun (st : Nat) (i : Nat) => (beforeUnit (s.f (bmAcDst c)) (s.f (bmAcModeDstW c)) i, st)
  let a := if op = 1 then [] else
    [(s.firstDenied (s.f (bmAcModeSrcSpace c)) (s.f (bmAcSrc c)) n false).map (src stNotPermitted),
     (s.firstBad (s.f (bmAcModeSrcSpace c)) (s.f (bmAcSrc c)) n).map (src stMemUncorrectable)]
  let b := [(s.firstDenied (s.f (bmAcModeDstSpace c)) (s.f (bmAcDst c)) n (op != 2)).map (dst stNotPermitted),
    if op ≠ 2 then none else (s.firstBad (s.f (bmAcModeDstSpace c)) (s.f (bmAcDst c)) n).map (dst stMemUncorrectable)]
  (a ++ b).foldl (fun best x =>
    match best, x with
    | none, x => x
    | some p, none => some p
    | some p, some q => if q.1 < p.1 then some q else some p) none

/-- The operation must wait for a controller (R381, R382, R398, R401). -/
def State.moverWaits (s : State) (c n : Nat) : Bool :=
  s.spaceBlocked (s.f (bmAcModeOp c) != 2) (s.f (bmAcModeDstSpace c)) (s.f (bmAcDst c)) n ||
    (s.f (bmAcModeOp c) != 1 && s.spaceBlocked false (s.f (bmAcModeSrcSpace c)) (s.f (bmAcSrc c)) n)

/-- A copy of the first `n` bytes, or a fill. -/
def State.moveBytes (s : State) (c n : Nat) (src : List Byte) : State :=
  if n = 0 then s
  else
    let a := if s.f (bmAcModeOp c) = 1 then (fillBytes (s.f (bmAcFill c)) n, s) else s.readSrc c n src
    a.2.writeDst c (a.1.take n)

/-- The active descriptor touches host memory. -/
def State.activeHost (s : State) (c : Nat) : Bool :=
  (s.f (bmAcModeOp c) != 1 && s.f (bmAcModeSrcSpace c) == 0) || s.f (bmAcModeDstSpace c) == 0

/-- A compare of the first `n` bytes: the first difference is recorded and pulses the mismatch source (R509). -/
def State.compareBytes (s : State) (c n : Nat) (src dst : List Byte) : Option Nat × State :=
  let a := s.readSrc c n src
  let b := a.2.readDst c n dst
  match firstDiff (a.1.take n) (b.1.take n) 0 with
  | none => (none, b.2)
  | some i => (some i, (b.2.setFs [(bmChMismatch c, i), (bmChStatusMismatchValid c, 1)]).pulseSource (0x300 + c))

/-- The operation of the active descriptor has run up to its end or to where it stops. -/
def State.endOperation (s : State) (c n : Nat) (stop : Option (Nat × Nat)) : State :=
  match stop with
  | none => (s.setF (bmChBytes c) n).afterDescriptor c
  | some x => s.haltChannel c x.2 x.1

/-- BM_DESCRIPTOR_END (R508, R509): the operation of the active descriptor is done whole, or up to the first unit that it may not or cannot
access (R512). While the row guard keeps it waiting, it has not ended, nor in D3hot, where it needs host memory (R453). `src` and `dst` are
the bytes that host memory holds at SRC and DST, for the sides that lie in host space. -/
def execBmDescriptorEnd (c : Nat) (src dst : List Byte) (s : State) : Host.Outcome State Fault Refusal :=
  let n := s.f (bmAcCount c)
  let stop := s.stopPoint c n
  let m := (stop.map (·.1)).getD n
  if s.f (bmChStatusState c) ≠ 1 ∨ (s.channel c).ended = true ∨ s.halted = true then .next s
  else if s.moverWaits c m || (s.pcie.d3hot && s.activeHost c) then .next s
  else if s.f (bmAcModeOp c) = 2 then
    let x := s.compareBytes c m src dst
    match x.1 with
    | none => .next (x.2.endOperation c n stop)
    | some i =>
      if s.on (bmAcModeStopOnMismatch c) then .next (x.2.endOperation c (i + 1) none) else .next (x.2.endOperation c n stop)
  else .next ((s.moveBytes c m src).endOperation c n stop)

/-- BM_CHANNEL_HALT (R512): the first error of a transfer, with the bytes done. -/
def execBmChannelHalt (c : Nat) (cause : HaltCause) (bytes : Nat) (s : State) : Host.Outcome State Fault Refusal :=
  if s.f (bmChStatusState c) = 1 ∨ s.f (bmChStatusState c) = 3 then .next (s.haltChannel c (haltStatus cause) bytes)
  else .next s

/-- Every channel that can reach an internal space pauses (R513). -/
def State.pauseChannels (s : State) : State :=
  (List.range 18).foldl (fun t c =>
    if t.f (bmChStatusState c) = 1 ∧ t.activeInternal c = true then t.setF (bmChStatusState c) 3 else t) s

/-- Paused channels resume where they stopped (R513). -/
def State.resumeChannels (s : State) : State :=
  (List.range 18).foldl (fun t c => if t.f (bmChStatusState c) = 3 then t.setF (bmChStatusState c) 1 else t) s

/-- Every standard channel halts (R101 step 3). -/
def State.haltStandardChannels (s : State) : State :=
  (List.range 16).foldl (fun t c =>
    if t.f (bmChStatusState c) = 1 ∨ t.f (bmChStatusState c) = 3 then t.haltChannel c stInternalFault (t.f (bmChBytes c)) else t) s

end Sys2Proof.Machine
end

