-- ==== Sys2Proof/Machine/Trust.lean ====
section
/-!
DEFINITION. Fuses, firmware images, attestation and the mailbox (R499, R500, R521 to R554), except the boot itself.
-/
namespace Sys2Proof.Machine

/-! ### The array (R526 to R533) -/

/-- First word of a fuse region (R526). -/
def regionBase : Nat → Nat
  | 0 => 0 | 1 => 64 | 2 => 1216 | 3 => 1280 | 4 => 1344 | 5 => 1352 | 6 => 1696 | _ => 2040

/-- Length of a fuse region in words (R526). -/
def regionLen : Nat → Nat
  | 0 => 64 | 1 => 1152 | 2 => 64 | 3 => 64 | 4 => 8 | 5 => 344 | 6 => 344 | _ => 8

/-- The region of an array word. -/
def regionOf (w : Nat) : Nat :=
  if w < 64 then 0 else if w < 1216 then 1 else if w < 1280 then 2 else if w < 1344 then 3 else if w < 1352 then 4
  else if w < 1696 then 5 else if w < 2040 then 6 else 7

/-- A word of a fuse map; an unlisted word is unblown. -/
def fuseWord (m : Map Nat) (w : Nat) : Nat := Map.get (fun _ => 0) m w

/-- Latched word (R536). -/
def State.latchedWord (s : State) (w : Nat) : Nat := fuseWord s.trust.latched w

/-- The word was marginal at boot (R536). -/
def State.marginalWord (s : State) (w : Nat) : Bool := fuseWord s.trust.latchedMarginal w != 0

/-- Bytes of `n` words from word `w`, each little-endian. -/
def wordBytes (m : Map Nat) (w n : Nat) : List Byte := (List.range n).flatMap (fun i => leBytes 4 (fuseWord m (w + i)))

/-- R532: the seal of the region or slot of `len` words at `base` is valid. -/
def sealValid (m : Map Nat) (base len : Nat) : Bool :=
  let a := fuseWord m (base + len - 2)
  let n := a % 2 ^ 16
  a / 2 ^ 16 == 0xC35A && decide (1 ≤ n ∧ n ≤ len - 2) && crc32 (wordBytes m base n) == fuseWord m (base + len - 1)

/-- A write-lock in force: latched, or blown in this boot (R541). -/
def State.writeLocked (s : State) (r : Nat) : Bool :=
  bitOf s.trust.latchedLocks (2 * r) || bitOf s.trust.bootLocks (2 * r)

/-- A read-lock in force. -/
def State.readLocked (s : State) (r : Nat) : Bool :=
  bitOf s.trust.latchedLocks (2 * r + 1) || bitOf s.trust.bootLocks (2 * r + 1)

/-- Region state of R533 on latched values: 0 open, 1 sealed, 2 void, 3 no seal used. -/
def regionState (m : Map Nat) (locks r : Nat) : Nat :=
  if r = 2 ∨ r = 4 ∨ r = 7 then 3
  else if sealValid m (regionBase r) (regionLen r) then 1
  else if bitOf locks (2 * r) then 2 else 0

/-- R545: slot `k` is sealed, not revoked and holds no marginal word. -/
def State.slotUsable (s : State) (k : Nat) : Bool :=
  bitOf (s.f fzKeysUsable) k && !bitOf s.trust.bootRevoked k

/-- Digest of a key slot, words 0 to 11 (R531), as one number. -/
def State.slotDigest (s : State) (k : Nat) : Nat := leNat (wordBytes s.trust.latched (1216 + 14 * k) 12)

/-- R547: 1 plus the highest blown ROLLBACK bit, or 0. -/
def rollbackOf (m : Map Nat) : Nat :=
  ((List.range 256).filter (fun i => bitOf (fuseWord m (1344 + i / 32)) (i % 32))).foldl (fun a i => max a (i + 1)) 0

/-- The anti-rollback value in force (R541, R547). -/
def State.rollback (s : State) : Nat := max (s.f fzRollbackValue) s.trust.bootRollback

/-- Step 4 of R86 (R524 orders 1 and 2, R536): the lock row and every word are sensed at both margins and latched. -/
def State.senseWords (s : State) : State :=
  ({ s with trust := { s.trust with latched := s.fuses.words, latchedMarginal := s.fuses.weak, latchedLocks := s.fuses.locks, bootLocks := 0,
                                    bootRevoked := 0, bootRollback := 0, job := none } }).setF fzLocksBits s.fuses.locks

/-- The fuse checks of step 5 (R524 orders 4 to 7, R525, R533 to R537, R543, R545, R547): the FZ registers and entries follow from the
latched values. -/
def State.checkFuses (s : State) (patchMatches : Bool) : State :=
  let m := s.trust.latched
  let weak := s.trust.latchedMarginal
  let locks := s.trust.latchedLocks
  let marg := (List.range 2048).filter (fun w => fuseWord weak w != 0)
  let slotSealed := fun k => sealValid m (1216 + 14 * k) 14
  let slotRevoked := fun k => bitsOf (fuseWord m 1272) (8 * k + 7) (8 * k) != 0
  let slotMarginal := fun k => marg.any (fun w => decide (1216 + 14 * k ≤ w ∧ w < 1216 + 14 * k + 14))
  let st := fun r => regionState m locks r
  let es := bitOf (fuseWord m 2) 16
  let fault := (!es && (st 0 != 1 || st 1 != 1)) || st 0 == 2 || st 1 == 2
  let patch := patchMatches && st 0 == 1
  let t := { s with trust := { s.trust with patchOk := patch, identity := st 3 == 1 || (es && st 3 == 0) } }
  let u := t.setFs [(fzRegionState, (List.range 8).foldl (fun a r => a + st r * 4 ^ r) 0),
    (fzKeysUsable, maskOf 4 (fun k => slotSealed k && !slotRevoked k && !slotMarginal k)),
    (fzKeysRevoked, maskOf 4 slotRevoked), (fzKeysMarginal, maskOf 4 slotMarginal), (fzKeysSealed, maskOf 4 slotSealed),
    (fzRollbackValue, rollbackOf m), (fzCloseVendor, b2n (fuseWord m 2040 != 0)), (fzCloseCustomer, b2n (fuseWord m 2041 != 0)),
    (fzMarginalCount, marg.length), (fzMarginalRegions, maskOf 8 (fun r => marg.any (fun w => regionOf w == r))),
    (fzMarginalFirstWord, (marg.head?).getD 0), (fzStatusBootFault, b2n fault), (fzStatusPatchRejected, b2n (!patch)),
    (fzStatusMarginalTrim, b2n (marg.any (fun w => regionOf w == 1)))]
  let v := if patch then u else u.report { pre := .av, code := 0x01, severity := 1, vector := some 4 }
  let w := (List.range 8).foldl (fun a r =>
    let n := (marg.filter (fun x => regionOf x == r)).length
    let b := if n = 0 then a else a.report { pre := .fz, code := 0x01, severity := 0, unitKind := 10, unit := r, data := n }
    if st r = 2 then b.report { pre := .fz, code := 0x02, severity := 1, vector := some 4, unitKind := 10, unit := r } else b) v
  if fault then w.report { pre := .av, code := 0x02, severity := 3, vector := some 4 } else w

/-- A full reset, a trip or the loss of power stops a pulse at once (R542): each requested bit of the word in progress is left blown,
unblown or marginal, by two free values. -/
def State.stopPulse (s : State) : State :=
  match s.trust.job with
  | none => s
  | some j =>
    let x := s.fresh
    let y := x.2.fresh
    let t := { y.2 with trust := { y.2.trust with job := none } }
    let blown := Config.freeValue x.1 &&& j.bits
    let weak := Config.freeValue y.1 &&& blown
    if j.word = 2048 then
      { t with fuses := { t.fuses with locks := t.fuses.locks ||| blown, weakLocks := t.fuses.weakLocks ||| weak } }
    else
      { t with fuses := { t.fuses with
          words := Map.set (fun _ => 0) t.fuses.words j.word (fuseWord t.fuses.words j.word ||| blown)
          weak := Map.set (fun _ => 0) t.fuses.weak j.word (fuseWord t.fuses.weak j.word ||| weak) } }

/-! ### Reading fuses (R500, R528) -/

/-- Who asks may read the region (R528, R541). -/
def State.mayRead (s : State) (r : Nat) : Bool := r != 3 && !s.readLocked r

/-- FUSE_READ (R500): words as latched at boot. -/
def execFuseRead (e : Sqe) (s : State) : Host.Outcome State Fault Refusal :=
  runCommand 0x2C8 e s (fun s =>
    let r := e.par 16 1
    let first := e.par 20 2
    let n := e.par 22 2
    if 7 < r || e.par 24 8 % 16 != 0 then s.done e stBadParam 0
    else if !s.mayRead r then s.done e stSecurityDenied 0
    else if regionLen r < first + n then s.done e stBadParam 0
    else
      (s.emitHost (.hostWrite (e.par 24 8) (wordBytes s.trust.latched (regionBase r + first) n))).done e stOk
        (packBytes [(0, 4, n), (4, 4, ((List.range n).filter (fun i => s.marginalWord (regionBase r + first + i))).length)]))

/-! ### Blowing fuses (R539 to R542) -/

/-- Blow bits of one array word. -/
def State.blow (s : State) (w bits : Nat) : State :=
  { s with fuses := { s.fuses with words := Map.set (fun _ => 0) s.fuses.words w (fuseWord s.fuses.words w ||| bits) } }

/-- Blow the words of a list of (word, bits). -/
def State.blowAll (s : State) : List (Nat × Nat) → State
  | [] => s
  | (w, b) :: r => (s.blow w b).blowAll r

/-- What names a fuse word to the outside: its number in the array, and a free value for the lock row (word 2048 of a job). -/
def wordName (w : Nat) : Nat := if w = 2048 then Config.lockRowWord % 2 ^ 32 else w

/-- The words of a list that still have a bit to pulse (R539). -/
def pulsedWords (m : Map Nat) (ws : List (Nat × Nat)) : List (Nat × Nat) :=
  ws.filter (fun (p : Nat × Nat) => fuseWord m p.1 &&& p.2 != p.2)

/-- FZ_PROG.WORD after the last word pulsed, if any was (R554). -/
def State.setProgWord (s : State) (w : Option Nat) : State :=
  match w with
  | none => s
  | some n => s.setF fzProgWord (wordName n % 2048)

/-- The end of a fuse command: its status, and the last word pulsed (R554). -/
def State.fuseDone (s : State) (e : Sqe) (status : Nat) (word : Option Nat) (result : Nat) : State :=
  ((s.setFs [(fzProgBusy, 0), (fzProgStatus, status)]).setProgWord word).done e status result

/-- An answer about a word that the command does not have is none: every word verifies. -/
def FuseOutcome.within (o : FuseOutcome) (n : Nat) : FuseOutcome :=
  match o with
  | .verified => .verified
  | .verifyFailed i b => if i < n then .verifyFailed i b else .verified
  | .pulsing i => if i < n then .pulsing i else .verified

/-- A command that blows the words `ws` (R539), with what the macro answers. `apply` is what Anvil applies to its own
checks once the fuses verify (R541). -/
def State.program (s : State) (e : Sqe) (ws : List (Nat × Nat)) (o : FuseOutcome) (apply : State → State) : State :=
  match FuseOutcome.within o ws.length with
  | .verified => (apply (s.blowAll ws)).fuseDone e stOk (((pulsedWords s.fuses.words ws).getLast?).map (·.1)) 0
  | .verifyFailed i b =>
    let w := (ws[i]?.map (·.1)).getD 0
    let bits := (ws[i]?.map (·.2)).getD 0
    ((((s.blowAll (ws.take i)).blow w (b &&& bits))).report
        { pre := .fz, code := 0x04, severity := 0, unitKind := 10, unit := regionOf w, data := w }).fuseDone e stFuseVerifyFailed
      (some w) w
  | .pulsing i =>
    let w := (ws[i]?.map (·.1)).getD 0
    let bits := (ws[i]?.map (·.2)).getD 0
    let t := s.blowAll (ws.take i)
    (({ t with trust := { t.trust with job := some ⟨e.ring, e.tag, w, bits⟩ } }).setF fzProgBusy 1).setProgWord (some w)

/-- The commands that the fuse macro serves (R540). -/
def fuseOps : List Nat := [0x2C9, 0x2CA, 0x2CC, 0x2C3, 0x2CB]

/-- R540: the macro serves one command at a time, and the commands wait for one another in the order in which they start. A command that
must wait leaves the state as it is; one whose own pulses are in progress goes on. -/
def State.macroBusy (s : State) (e : Sqe) : Bool :=
  match s.trust.job with
  | some j => !(j.ring == e.ring && j.tag == e.tag)
  | none => ((s.ring e.ring).live.takeWhile (fun l => !(l.tag == e.tag && l.opcode == e.opcode))).any (fun l => fuseOps.contains l.opcode)

/-- A command goes on with its own pulses. -/
def State.resumeJob (s : State) : State := { s with trust := { s.trust with job := none } }

/-- Anvil checks VPROG before it starts a command that blows a fuse (R540). -/
def State.withVprog (s : State) (vprog : Bool) (e : Sqe) (body : State → State) : State :=
  let t := s.setF fzProgVprogOk (b2n vprog)
  if vprog then body t else t.done e stNotPermitted 0

/-- The host programs this word (R528): the customer regions and CLOSURE word 1. -/
def hostPrograms (r first n : Nat) : Bool :=
  r == 5 || r == 6 || (r == 7 && (List.range n).all (fun i => first + i == 1))

/-- FUSE_PROGRAM (R500, R539). -/
def execFuseProgram (e : Sqe) (h : HostRead) (vprog : Bool) (o : FuseOutcome) (s : State) : Host.Outcome State Fault Refusal :=
  if s.macroBusy e then .next s
  else
    runCommand 0x2C9 e s (fun z =>
      let s := z.resumeJob
      if !e.indirect then s.done e stBadLength 0
      else
        match h with
        | .badRequest => s.done e stBadParam 0
        | .noCompletion => s.done e stTimeout 0
        | .data b =>
          let r := bufNat b 0 1
          let first := bufNat b 2 2
          let n := bufNat b 4 2
          if n = 0 ∨ 256 < n ∨ 7 < r ∨ bufNat b 1 1 ≠ 0 ∨ bufNat b 6 2 ≠ 0 then s.done e stBadParam 0
          else if b.length ≠ 8 + 4 * n ∨ e.paramLen ≠ 8 + 4 * n then s.done e stBadLength 0
          else if regionLen r < first + n then s.done e stBadParam 0
          else if !hostPrograms r first n then s.done e stSecurityDenied 0
          else if s.writeLocked r then s.done e stFuseLocked 0
          else
            s.withVprog (vprog || z.trust.job.isSome) e (fun t =>
              t.program e ((List.range n).map (fun i => (regionBase r + first + i, bufNat b (8 + 4 * i) 4))) o (fun u => u)))

/-- FUSE_LOCK (R500, R527): blows the lock fuses of a region. They apply at once to Anvil's own checks (R541). -/
def execFuseLock (e : Sqe) (vprog : Bool) (o : FuseOutcome) (s : State) : Host.Outcome State Fault Refusal :=
  if s.macroBusy e then .next s
  else
    runCommand 0x2CA e s (fun z =>
      let s := z.resumeJob
      let r := e.par 16 1
      if 7 < r then s.done e stBadParam 0
      else if !(r == 5 || r == 6) then s.done e stSecurityDenied 0
      else
        s.withVprog (vprog || z.trust.job.isSome) e (fun t =>
          let bits := b2n (e.bit 17 0) * 2 ^ (2 * r) + b2n (e.bit 17 1) * 2 ^ (2 * r + 1)
          match o with
          | .verified =>
            ({ t with fuses := { t.fuses with locks := t.fuses.locks ||| bits }
                      trust := { t.trust with bootLocks := t.trust.bootLocks ||| bits } }).fuseDone e stOk
              (if t.fuses.locks &&& bits = bits then none else some 2048) 0
          | .verifyFailed _ b =>
            (({ t with fuses := { t.fuses with locks := t.fuses.locks ||| (b &&& bits) } }).report
              { pre := .fz, code := 0x04, severity := 0, unitKind := 10, unit := r, data := wordName 2048 }).fuseDone e stFuseVerifyFailed
                (some 2048) (wordName 2048)
          | .pulsing _ =>
            (({ t with trust := { t.trust with job := some ⟨e.ring, e.tag, 2048, bits⟩ } }).setF fzProgBusy 1).setProgWord
              (some 2048)))

/-- The key that signed the running firmware is the digest of slot `k`, and no other usable slot holds it (R548). -/
def State.revokeForbidden (s : State) (k : Nat) : Bool :=
  match s.runningImage with
  | none => false
  | some i => s.slotDigest k == i.keyDigest &&
      !(List.range 4).any (fun j => j != k && s.slotUsable j && s.slotDigest j == s.slotDigest k)

/-- KEY_REVOKE (R548): blows the 8 revocation bits of the slot, which no lock covers (R527). -/
def execKeyRevoke (e : Sqe) (vprog : Bool) (o : FuseOutcome) (s : State) : Host.Outcome State Fault Refusal :=
  if s.macroBusy e then .next s
  else
    runCommand 0x2CC e s (fun z =>
      let s := z.resumeJob
      let k := e.par 16 1
      if 3 < k then s.done e stBadParam 0
      else if s.revokeForbidden k then s.done e stNotPermitted 0
      else
        s.withVprog (vprog || z.trust.job.isSome) e (fun t =>
          t.program e [(1272, 0xFF * 2 ^ (8 * k))] o (fun u =>
            { u with trust := { u.trust with bootRevoked := setBit u.trust.bootRevoked k } })))

/-- The ROLLBACK bits below `v` that are not yet blown, as (word, bits). -/
def rollbackWords (m : Map Nat) (v : Nat) : List (Nat × Nat) :=
  (List.range 8).filterMap (fun i =>
    let want := if 32 * i + 32 ≤ v then 2 ^ 32 - 1 else if v ≤ 32 * i then 0 else 2 ^ (v - 32 * i) - 1
    let missing := want - (want &&& fuseWord m (1344 + i))
    if missing = 0 then none else some (1344 + i, missing))

/-- ROLLBACK_ADVANCE (R499, R547). -/
def execRollbackAdvance (e : Sqe) (vprog : Bool) (o : FuseOutcome) (s : State) : Host.Outcome State Fault Refusal :=
  if s.macroBusy e then .next s
  else
    runCommand 0x2C3 e s (fun z =>
      let s := z.resumeJob
      let v := e.par 16 2
      if v < s.rollback ∨ 256 < v then s.done e stBadParam 0
      else if v = s.rollback then s.done e stOk 0
      else if (s.runningImage.map (·.secVersion)).getD 0 < v then s.done e stNotPermitted 0
      else if s.writeLocked 4 then s.done e stFuseLocked 0
      else
        s.withVprog (vprog || z.trust.job.isSome) e (fun t =>
          t.program e (rollbackWords t.fuses.words v) o (fun u => { u with trust := { u.trust with bootRollback := v } })))

/-- The region of the word being pulsed; a job on the lock row has bits 2r and 2r + 1 of region 5 or 6. -/
def FuseJob.region (j : FuseJob) : Nat :=
  if j.word ≠ 2048 then regionOf j.word else if j.bits < 2 ^ 12 then 5 else 6

/-- VPROG_OUT_OF_TOLERANCE (R542): a pulse in progress stops. The word keeps the bits `blown` of those requested, of which
`weak` are marginal; the command ends with INTERNAL_FAULT and the first word not verified, and FZ 0x05 is written. -/
def execVprogOutOfTolerance (blown weak : Nat) (s : State) : Host.Outcome State Fault Refusal :=
  let t := s.setF fzProgVprogOk 0
  match s.trust.job with
  | none => .next t
  | some j =>
    let u := { t with trust := { t.trust with job := none } }
    let b := blown &&& j.bits
    let w := weak &&& b
    let v :=
      if j.word = 2048 then
        { u with fuses := { u.fuses with locks := u.fuses.locks ||| b, weakLocks := u.fuses.weakLocks ||| w } }
      else
        { (u.blow j.word b) with fuses := { (u.blow j.word b).fuses with
            weak := Map.set (fun _ => 0) u.fuses.weak j.word (fuseWord u.fuses.weak j.word ||| w) } }
    .next ((((v.setFs [(fzProgBusy, 0), (fzProgStatus, stInternalFault)]).setProgWord (some j.word)).report
      { pre := .fz, code := 0x05, severity := 1, unitKind := 10, unit := j.region, data := wordName j.word }).complete
        j.ring j.tag stInternalFault (wordName j.word))

/-- The words that a new sensing finds marginal, and those that it finds to differ from their latched values: as the array now holds them,
words programmed in this boot among them, and as drift has left them. -/
def State.marginalNow (s : State) (r : Resense) : List Nat :=
  (List.range 2048).filter (fun w => r.marginal.contains w || fuseWord s.fuses.weak w != 0)
def State.differNow (s : State) (r : Resense) : List Nat :=
  (List.range 2048).filter (fun w => r.differ.contains w || fuseWord s.fuses.words w != s.latchedWord w)

/-- A re-sense (R538): the counts, UNSTABLE with its entry and vector; nothing latched changes. -/
def State.resense (s : State) (r : Resense) : State :=
  let m := s.marginalNow r
  let d := s.differNow r
  let t := s.setFs [(fzResenseStatMarginal, m.length), (fzResenseStatDiffer, d.length)]
  if d != [] || m.any (fun w => !s.marginalWord w) then
    (t.setF fzResenseStatUnstable 1).report { pre := .fz, code := 0x03, severity := 1, vector := some 4, data := d.length }
  else t

/-- FUSE_RESENSE (R500, R538). -/
def execFuseResense (e : Sqe) (r : Resense) (s : State) : Host.Outcome State Fault Refusal :=
  if s.macroBusy e then .next s
  else
    runCommand 0x2CB e s (fun s =>
      (s.resense r).done e stOk (packBytes [(0, 4, (s.marginalNow r).length), (4, 4, (s.differNow r).length)]))

/-- FUSE_RESENSE_TIMER (R538): the scheduled re-sense, which waits while a programming command runs. A PERIOD of 0 is
off. -/
def execFuseResenseTimer (r : Resense) (s : State) : Host.Outcome State Fault Refusal :=
  if s.f fzResensePeriod = 0 ∨ s.trust.job.isSome = true then .next s else .next (s.resense r)

/-! ### Firmware images (R544 to R546) -/

/-- The checks of R545 from order 2 onwards: the number of the first that fails and its status. -/
def State.imageCheck (s : State) (i : FwImage) : Option (Nat × Nat) :=
  if !i.formOk then some (2, stSignatureInvalid)
  else if !bitOf i.grades s.grade || (i.esOnly && !s.isEs) then some (3, stNotPermitted)
  else if !(List.range 4).any (fun k => s.slotUsable k && s.slotDigest k == i.keyDigest) then some (4, stSignatureInvalid)
  else if !i.sigOk then some (5, stSignatureInvalid)
  else if !i.bodyOk then some (6, stSignatureInvalid)
  else if i.secVersion < s.rollback then some (7, stRollbackRejected)
  else none

/-- Check 1 of R545 with the length limits of R499. -/
def imageLengthOk (e : Sqe) (i : FwImage) : Bool :=
  e.indirect && e.paramLen == 4096 + i.bodyLen && decide (65536 ≤ e.paramLen ∧ e.paramLen ≤ 2 ^ 22)

/-- The image in a slot. -/
def State.slot (s : State) (k : Nat) : Option FwImage := if k = 0 then s.trust.slot0 else s.trust.slot1

/-- Write a slot and move the mark to it (R546). -/
def State.storeSlot (s : State) (k : Nat) (i : FwImage) : State :=
  if k = 0 then { s with trust := { s.trust with slot0 := some i, marked := some 0 } }
  else { s with trust := { s.trust with slot1 := some i, marked := some 1 } }

/-- The slot FW_LOAD writes (R546): the lowest-numbered slot without a valid image, or else the slot not marked. -/
def State.loadSlot (s : State) : Nat :=
  if s.trust.slot0.isNone then 0 else if s.trust.slot1.isNone then 1 else if s.trust.marked = some 0 then 1 else 0

/-- FW_STORE (R499, R546): verified, written to the slot not in use, and marked for the next reset. -/
def execFwStore (e : Sqe) (h : ImageRead) (s : State) : Host.Outcome State Fault Refusal :=
  runCommand 0x2C1 e s (fun s =>
    if !s.fwRuns then s.done e stNotPermitted 0
    else
      match h with
      | .badRequest => s.done e stBadParam 0
      | .noCompletion => s.done e stTimeout 0
      | .image i =>
        if !imageLengthOk e i then s.done e stBadLength 0
        else
          match s.imageCheck i with
          | some c => s.done e c.2 0
          | none =>
            let k := 1 - s.trust.runningSlot
            (s.storeSlot k i).done e stOk (packBytes [(0, 4, i.version), (4, 1, k)]))

/-- FW_INFO (R499). -/
def execFwInfo (e : Sqe) (s : State) : Host.Outcome State Fault Refusal :=
  runCommand 0x2C2 e s (fun s =>
    s.done e stOk (packBytes [(0, 4, (s.runningImage.map (·.version)).getD 0), (4, 1, s.trust.runningSlot),
      (5, 1, b2n s.trust.slot0.isSome + 2 * b2n s.trust.slot1.isSome + 4 * b2n (s.trust.marked == some 1) +
        8 * b2n (s.trust.marked == some 0)),
      (8, 4, (s.trust.slot0.map (·.version)).getD 0), (12, 4, (s.trust.slot1.map (·.version)).getD 0),
      (16, 2, s.rollback), (18, 4, s.latchedWord 3)]))

/-! ### Attestation (R550 to R552) -/

/-- Latched words of every region except SECRETS and read-locked regions, in word order, after the lock row (R551). -/
def State.attestedWords (s : State) : List Byte :=
  leBytes 2 s.trust.latchedLocks ++
    (List.range 8).flatMap (fun r => if s.mayRead r then wordBytes s.trust.latched (regionBase r) (regionLen r) else [])

/-- Bytes 0 to 215 of the report of R551. The digests are the model's opaque SHA-384. -/
def State.attestReport (s : State) (nonce : Nat) : List Byte :=
  let run := s.runningImage
  leBytes 4 1 ++ leBytes 4 312 ++ leBytes 32 nonce ++ leBytes 8 s.serial ++ leBytes 1 s.grade ++
    leBytes 1 (b2n s.isEs + 2 * s.f fzCloseVendor + 4 * s.f fzCloseCustomer + 8 * b2n (s.f fzMarginalCount != 0) +
      16 * b2n ((List.range 8).any (fun r => bitsOf (s.f fzRegionState) (2 * r + 1) (2 * r) == 2)) +
      32 * s.f fzStatusPatchRejected + 64 * s.f fzResenseStatUnstable) ++
    leBytes 2 s.rollback ++ leBytes 4 (if s.trust.patchOk then s.latchedWord 3 else 0) ++
    leBytes 4 ((run.map (·.version)).getD 0) ++ leBytes 2 ((run.map (·.secVersion)).getD 0) ++ leBytes 1 s.trust.runningSlot ++
    leBytes 1 0 ++ leBytes 48 ((run.map (·.headerDigest)).getD 0) ++
    (if s.trust.patchOk then wordBytes s.trust.latched 4 12 else leBytes 48 0) ++
    leBytes 48 (Config.sha384 s.attestedWords) ++ leBytes 8 s.now

/-- ATTEST (R551). -/
def execAttest (e : Sqe) (s : State) : Host.Outcome State Fault Refusal :=
  runCommand 0x2C4 e s (fun s =>
    if e.par 48 8 % 16 ≠ 0 then s.done e stBadParam 0
    else if e.par 56 4 < 312 then s.done e stBadLength 0
    else if !s.trust.identity then s.done e stSecurityDenied 0
    else
      let r := s.attestReport (e.par 16 32)
      (s.emitHost (.hostWrite (e.par 48 8) (r ++ leBytes 96 (Config.sign r)))).done e stOk (packBytes [(0, 4, 312)]))

/-- ID_KEY_READ (R552). -/
def execIdKeyRead (e : Sqe) (s : State) : Host.Outcome State Fault Refusal :=
  runCommand 0x2C5 e s (fun s =>
    if e.par 16 8 % 16 ≠ 0 then s.done e stBadParam 0
    else if e.par 24 4 < 212 then s.done e stBadLength 0
    else if !s.trust.identity then s.done e stSecurityDenied 0
    else
      (s.emitHost (.hostWrite (e.par 16 8) (leBytes 97 Config.identityKey ++ leBytes 7 0 ++
        leBytes 8 (s.latchedWord 0 + 2 ^ 32 * s.latchedWord 1) ++ leBytes 1 s.grade ++ leBytes 3 0 ++
        wordBytes s.trust.latched 16 24))).done e stOk (packBytes [(0, 4, 212)]))

/-! ### The mailbox (R522, R523, R617, R618) -/

/-- MAILBOX_REFUSED (R523): SECURITY_DENIED, MBX_DENIED and AV 0x03; nothing else changes. -/
def State.mailboxRefuse (s : State) (slot kind : Nat) : State :=
  ((s.bump fzStatusMbxDenied 16).report { pre := .av, code := 0x03, severity := 0, data := kind % 2 ^ 16 }).emit
    (.mailbox slot stSecurityDenied [])

/-- FUSE_DATA (R522): the latched words of a region that the service firmware may read. -/
def execFuseData (slot r first n : Nat) (s : State) : Host.Outcome State Fault Refusal :=
  if s.mayRead r && decide (r ≤ 7 ∧ first + n ≤ regionLen r) then
    .next (s.emit (.mailbox slot stOk (wordBytes s.trust.latched (regionBase r + first) n)))
  else .next (s.mailboxRefuse slot 0)

/-- CLOSURE_STATE (R522): the latched closure flags. -/
def execClosureState (slot : Nat) (s : State) : Host.Outcome State Fault Refusal :=
  .next (s.emit (.mailbox slot stOk (leBytes 1 (s.f fzCloseVendor + 2 * s.f fzCloseCustomer))))

/-- HEARTBEAT (R522, R618): restarts the 2 s watchdog. It has no answer. -/
def execHeartbeat (s : State) : Host.Outcome State Fault Refusal :=
  if s.fwRuns then .next { s with pilot := { s.pilot with svBeat := s.now } } else .next s

/-- ERRLOG_WRITE (R617): prefix SV with codes 0x40 to 0xFF, at severity 0; any other is refused under R523. -/
def execErrlogWrite (slot : Nat) (svPrefix : Bool) (code unitKind unit sub object data : Nat) (s : State) :
    Host.Outcome State Fault Refusal :=
  if svPrefix && decide (0x40 ≤ code ∧ code ≤ 0xFF) then
    .next ((s.report { pre := .sv, code := code, severity := 0, unitKind := unitKind % 256, unit := unit % 256, sub := sub % 256,
                       object := object % 2 ^ 32, data := data % 2 ^ 64 }).emit (.mailbox slot stOk []))
  else .next (s.mailboxRefuse slot 3)

/-- MAILBOX_REFUSED (R523). -/
def execMailboxRefused (slot kind : Nat) (s : State) : Host.Outcome State Fault Refusal := .next (s.mailboxRefuse slot kind)

end Sys2Proof.Machine
end

