-- ==== Sys2Proof/Machine/Thermal.lean ====
section
/-!
DEFINITION. Thermal sensing, throttling, quench and trip (R496, R497, R555 to R573), and the HOLD_N input (R80, R81).
-/
namespace Sys2Proof.Machine

/-! ### Sensors, layers and thresholds (R555 to R562). Temperatures are in 1/64 °C. -/

/-- Degrees Celsius in 1/64 °C. -/
def celsius (n : Int) : Int := 64 * n

/-- Sensors of the grade (R555). -/
def State.sensorCount (s : State) : Nat := 24 + 4 * s.dies

/-- Layer index of a sensor (R555). -/
def sensorLayer (n : Nat) : Nat := if n < 16 then 17 else if n < 24 then 0 else (n - 24) / 4 + 1

/-- First sensor and number of sensors of a layer. -/
def layerSensors (l : Nat) : List Nat :=
  if l = 17 then List.range 16 else if l = 0 then (List.range 8).map (· + 16) else (List.range 4).map (· + (24 + 4 * (l - 1)))

/-- The layer exists and is not culled. -/
def State.layerPresent (s : State) (l : Nat) : Bool :=
  l == 17 || l == 0 || (decide (1 ≤ l ∧ l ≤ s.dies) && !bitOf (s.f tcCulletLayer) (l - 1))

/-- Layers from the base die upwards. -/
def State.presentLayers (s : State) : List Nat := (List.range 18).filter s.layerPresent

def sensorCold (_ : Nat) : Sensor := ⟨0, 0, 0, false, false⟩
def layerCold (_ : Nat) : Layer := ⟨0, 0, 0, 0, 0⟩

def State.sensor (s : State) (n : Nat) : Sensor := Map.get sensorCold s.sensors n
def State.layer (s : State) (l : Nat) : Layer := Map.get layerCold s.layers l
def State.setSensor (s : State) (n : Nat) (x : Sensor) : State := { s with sensors := Map.set sensorCold s.sensors n x }
def State.setLayer (s : State) (l : Nat) (x : Layer) : State := { s with layers := Map.set layerCold s.layers l x }

/-- The DRAM thresholds apply to layers 1 to 16, the others to the base die and the Crucible (R562). -/
def isDram (l : Nat) : Bool := decide (1 ≤ l ∧ l ≤ 16)

/-- Register of the threshold of a kind (true = DRAM dies) and level code 1 to 5, or 6 for TRIP. -/
def thresholdFld (dram : Bool) : Nat → Fld
  | 1 => if dram then thThrD0Warn else thThrB0Warn
  | 2 => if dram then thThrD0Throttle1 else thThrB0Throttle1
  | 3 => if dram then thThrD1Throttle2 else thThrB1Throttle2
  | 4 => if dram then thThrD1Throttle3 else thThrB1Throttle3
  | 5 => if dram then thThrD2Quench else thThrB2Quench
  | _ => if dram then thThrD2Trip else thThrB2Trip

/-- A threshold in force (R562). -/
def State.threshold (s : State) (dram : Bool) (lvl : Nat) : Int := ofTwos 16 (s.f (thresholdFld dram lvl))

/-- A sensor whose temperature counts as measured. -/
def State.goodSensor (s : State) (n : Nat) : Bool := (s.sensor n).state == 0

/-- A sensor of the layer is suspect or broken. -/
def State.layerDoubtful (s : State) (l : Nat) : Bool := (layerSensors l).any (fun n => !s.goodSensor n)

/-- Canary floor of a layer (R560): its highest failing tier less 2 °C, or −40 °C. -/
def canaryFloor (failed : Nat) : Int :=
  match ((List.range 8).reverse).find? (fun i => bitOf failed i) with
  | some i => celsius (68 + 5 * i)
  | none => celsius (-40)

/-- Layers above and below in the stack: base die, Crucible, DRAM layers 1 upwards. -/
def State.neighbours (s : State) (l : Nat) : List Nat :=
  (if l = 17 then [0] else if l = 0 then [17, 1] else if l = 16 then [15] else [l - 1, l + 1]).filter s.layerPresent

/-- L of R559. -/
def State.lowerBound (s : State) (l : Nat) (est : Int) : Int :=
  let near := (s.neighbours l).any (fun k => (layerSensors k).any s.goodSensor)
  let base := if near then est - celsius 3 else est - celsius 6
  max base (if isDram l then canaryFloor (s.layer l).failed else celsius (-40))

/-- Layer temperature of R558: the highest good reading; a suspect or broken sensor counts as the QUENCH threshold. -/
def State.layerTemperature (s : State) (l : Nat) : Int :=
  ((layerSensors l).map (fun n => if s.goodSensor n then (s.sensor n).reading else s.threshold (isDram l) 5)).foldl max
    (celsius (-40))

/-- The level of a layer after a sample (R563): the highest level it is above, with 2 °C of hysteresis below its
present level. QUENCH ends only under R567. -/
def State.nextLevel (s : State) (l : Nat) (old : Nat) (t : Int) : Nat :=
  if old = 5 then 5
  else
    ([1, 2, 3, 4, 5].filter (fun k =>
      decide (s.threshold (isDram l) k < t) || (decide (k ≤ old) && decide (s.threshold (isDram l) k - celsius 2 < t)))).foldl max 0

/-! ### Quench (R566 to R570) -/

/-- QUENCH_BEGIN (R568 step 1): QUENCHED and the tick are set, every port sends DOWN_NOTICE reason 1 and is disabled, and
bulk movers and Flux pause. Steps 2 to 5 are QUENCH_STOP_COMPLETE. -/
def State.quenchBegin (s : State) : State :=
  let t := s.setFs [(thStatusQuenched, 1), (thQuenchTick, s.now), (fxStatusPaused, 1)]
  let u := (t.bump thCountQuenches 16).pauseChannels.quenchPorts
  { u with thermal := { u.thermal with stopPending := true } }

/-- Domains that a quench closes by force (R568 step 3): the lane groups and the benches. -/
def quenchPower : Nat := 0xFFFF * 2 ^ 3 + 0xFF * 2 ^ 21
def quenchClocks : Nat := 0xFFFF * 2 ^ 4 + 0xFF * 2 ^ 22

/-- Steps 3 to 5 of R568: benches and lane groups are off, the pseudo-channels are in self-refresh, and the beginning is reported. -/
def State.quenchStopped (s : State) : State :=
  if !s.thermal.stopPending then s
  else
    let t := (({ s with thermal := { s.thermal with stopPending := false } }).closeDomains quenchPower quenchClocks).sleepPcs
    let u := (({ t with dom := { t.dom with draining := s.dom.draining } }).removeDomains quenchPower quenchClocks).setF thAlert
      (setBit (t.f thAlert) 0)
    (u.report { pre := .th, code := 0x02, severity := 1, vector := some 1, data := toTwos 16 (u.layer (u.f thStatusHottest)).temp }).pulseSource
      0x405

/-- The end of a quench is reported (R569). -/
def State.reportQuenchEnd (s : State) : State :=
  (s.report { pre := .th, code := 0x03, severity := 0, vector := some 1, data := toTwos 16 (s.layer (s.f thStatusHottest)).temp }).pulseSource
    0x405

/-- QUENCH_END (R569): the steps are reversed. The report of the beginning always comes first. In safe hold and in the banked state the
domains stay closed (R138, R622). F and K follow again what they missed (R442). -/
def State.quenchEnd (s : State) : State :=
  let t := s.quenchStopped
  if s.halted then (t.setF thStatusQuenched 0).reportQuenchEnd else
  let ports := (List.range 16).filter (fun p => !t.portCulled p && !t.heldInReset (4 + p))
  let u := ((t.openDomains quenchPower quenchClocks).setFs [(thStatusQuenched, 0), (fxStatusPaused, 0),
    (plPwrOn, ports.foldl (fun m p => setBit m (3 + p)) (t.f plPwrOn)),
    (plClkActive, ports.foldl (fun m p => setBit m (4 + p)) (t.f plClkActive))]).wakeControllers.wakeBenches.resumeChannels.syncFloor
  u.reportQuenchEnd.trainPorts

/-- A quench source comes into force (R497, R566): bit 0 thermal, 1 HOLD_N, 2 rings, 3 sideband. -/
def State.addSource (s : State) (b : Nat) : State :=
  let t := s.setF thStatusSources (setBit (s.f thStatusSources) b)
  if s.quenched then t else t.quenchBegin

/-- A quench source ends; the quench ends with the last one. -/
def State.dropSource (s : State) (b : Nat) : State :=
  let t := s.setF thStatusSources (clearBit (s.f thStatusSources) b)
  if s.quenched && t.f thStatusSources == 0 then t.quenchEnd else t

/-- The value R566 and R567 test for a layer: max(E, canary floor) where a sensor of it is suspect or broken, and its
temperature otherwise. -/
def State.quenchValue (s : State) (l : Nat) : Int :=
  if s.layerDoubtful l then max (s.layer l).est (if isDram l then canaryFloor (s.layer l).failed else celsius (-40))
  else (s.layer l).temp

/-! ### One sample (R557 to R566) -/

/-- One sensor at a sample: the reference check of R556, then the suspect rule of R561 against L of its layer. -/
def State.sampleSensor (s : State) (i : SensorInput) : State :=
  if s.sensorCount ≤ i.sensor then s
  else
    let x := { s.sensor i.sensor with reading := i.reading }
    let lower := (s.layer (sensorLayer i.sensor)).lower
    if x.state = 2 then s.setSensor i.sensor x
    else if !i.refOk then
      (s.setSensor i.sensor { x with state := 2, below := 0, recovering := false }).setF thAlert (setBit (s.f thAlert) 2)
    else if x.state = 1 then s.setSensor i.sensor { x with recovering := decide (lower - celsius 3 ≤ i.reading) }
    else if i.reading < lower - celsius 6 then
      if x.below = 2 then
        ((s.setSensor i.sensor { x with state := 1, below := 0, recovering := false }).setF thAlert (setBit (s.f thAlert) 1)).bump
          thSuspectCount 16
      else s.setSensor i.sensor { x with below := x.below + 1 }
    else s.setSensor i.sensor { x with below := 0 }

/-- E and L of every layer at a sample (R559). -/
def State.sampleModel (s : State) (x : ThermalInput) : State :=
  x.estimate.foldl (fun t p => t.setLayer p.1 { t.layer p.1 with est := p.2, lower := t.lowerBound p.1 p.2 }) s

/-- Temperature and level of every layer in the stack. -/
def State.sampleLayers (s : State) : State :=
  s.presentLayers.foldl (fun t l =>
    let temp := t.layerTemperature l
    t.setLayer l { t.layer l with temp := temp, level := t.nextLevel l (t.layer l).level temp }) s

/-- The report of a sensor that a sample has made suspect or broken (R572), with the temperature that its layer has from it. `old` is
the state before the sample. -/
def State.reportSensor (old s : State) (i : SensorInput) : State :=
  let now := (s.sensor i.sensor).state
  if now = (old.sensor i.sensor).state ∨ now = 0 then s
  else
    s.report { pre := .th, code := if now = 1 then 0x04 else 0x05, severity := 1, vector := some 1, unitKind := 8, unit := i.sensor,
               data := toTwos 16 (s.layer (sensorLayer i.sensor)).temp }

/-- The hottest layer. Which of several equally hot layers it is, is not stated. -/
def State.hottest (s : State) : Nat :=
  let top := (s.presentLayers.map (fun l => (s.layer l).temp)).foldl max (s.layer 17).temp
  match s.presentLayers.filter (fun l => (s.layer l).temp == top) with
  | [] => 17
  | [l] => l
  | l :: rest => ((l :: rest)[Config.tiedLayer (l :: rest) % (rest.length + 1)]?).getD l

/-- The device level (R563): the highest level of any layer. -/
def State.maxLevel (s : State) : Nat := (s.presentLayers.map (fun l => (s.layer l).level)).foldl max 0

/-- R557: a layer lies within 5 °C of a threshold of its kind or of a refresh threshold. -/
def State.wantsFast (s : State) : Bool :=
  s.on thCfgFastAlways || s.presentLayers.any (fun l =>
    let t := (s.layer l).temp
    ([1, 2, 3, 4, 5, 6].map (s.threshold (isDram l)) ++ (if isDram l then [celsius 85, celsius 95] else [])).any
      (fun k => decide (k - celsius 5 ≤ t ∧ t ≤ k + celsius 5)))

/-- THROTTLE_LEVEL_CHANGE (R563 to R565): the level's code and event pulse; a rise is reported, and THROTTLE3 or more
narrows the ×8 ports. -/
def State.setDeviceLevel (s : State) (new : Nat) : State :=
  let old := s.f thStatusLevel
  if new = old then s
  else
    let t := (s.setF thStatusLevel new).pulseSource 0x403
    let u :=
      if old < new ∧ 2 ≤ new then
        (if old < 2 then t.bump thCountThrottles 16 else t).report
          { pre := .th, code := 0x01, severity := 1, vector := some 1, unitKind := 9, unit := t.f thStatusHottest,
            data := toTwos 16 (t.layer (t.f thStatusHottest)).temp }
      else if old < new then t.vector 1
      else t
    if 4 ≤ new ∧ old < 4 ∧ u.on thCfgNarrowEn = true ∧ u.quenched = false then u.narrowPorts else u

/-- THERMAL_SAMPLE (R557). Lehr samples from the end of step 4 (R90). -/
def execThermalSample (x : ThermalInput) (s : State) : Host.Outcome State Fault Refusal :=
  if !s.pastStep4 then .next s else
  let a := s.sampleModel x
  let b := x.sensors.foldl (fun t i => s.reportSensor t i) (x.sensors.foldl (fun t i => t.sampleSensor i) a).sampleLayers
  let c := { b with thermal := { b.thermal with sampled := true, sampleTick := x.tick } }
  let d := c.setFs [(thStatusHottest, c.hottest), (thStatusFast, b2n c.wantsFast)]
  let e := (d.setDeviceLevel d.maxLevel).applyRefresh
  let hot := e.presentLayers.any (fun l => decide (e.threshold (isDram l) 5 < e.quenchValue l))
  if hot && e.pilot.phase == .running then .next (e.addSource 0) else .next e

/-- SENSOR_RECOVER (R561): a suspect sensor that has read at least L − 3 °C on every sample for 10 s is good again. -/
def execSensorRecover (n : Nat) (s : State) : Host.Outcome State Fault Refusal :=
  if (s.sensor n).state = 1 ∧ (s.sensor n).recovering = true then
    .next (s.setSensor n { s.sensor n with state := 0, below := 0, recovering := false })
  else .next s

/-- CANARY_TEST (R560): the failing tiers of a DRAM die. In self-refresh the layer keeps the last floor it measured. -/
def execCanaryTest (l failed : Nat) (s : State) : Host.Outcome State Fault Refusal :=
  if s.layerPresent l && isDram l && !s.pilot.stackHold && !s.layerAsleep l then
    .next (s.setLayer l { s.layer l with failed := failed % 256 })
  else .next s

/-- NARROW_RESTORE (R565): Lehr starts a cold retrain, with DOWN_NOTICE reason 5, on each port it narrowed that has not become
DISABLED since (R181, R183). -/
def execNarrowRestore (s : State) : Host.Outcome State Fault Refusal :=
  if s.on thStatusNarrowed && decide (s.f thStatusLevel ≤ 3) then
    let t := if s.quenched || s.halted then s
      else (List.range 16).foldl (fun t p =>
        if bitOf s.thermal.narrowedPorts p && t.linkState p != 0 && !t.heldInReset (4 + p) then t.coldRetrain p 5 else t) s
    .next (({ t with thermal := { t.thermal with narrowedPorts := 0 } }).setF thStatusNarrowed 0)
  else .next s

/-- QUENCH_STOP_COMPLETE (R568 steps 2 to 5). During the quiesce of a preserving reset they wait (R570). The write queues drain first; a
write, or a read of an operation that has started, that the row guard still holds up keeps the pseudo-channels awake (R299). In safe hold and in the banked state there is nothing left
to stop. -/
def execQuenchStopComplete (s : State) : Host.Outcome State Fault Refusal :=
  if s.quiesce.isSome || s.halted || !s.thermal.stopPending then .next s
  else if s.drainStack.stackDrained && s.drainStack.threadsHeld == 0 then .next s.drainStack.quenchStopped
  else .next s.drainStack

/-- QUENCH_THERMAL_END (R567): every layer has been at or below its QUENCH threshold less 10 °C for 1 s. The QUENCH level
of a layer ends, and a start-up stopped at the quench level goes on (R112). -/
def execQuenchThermalEnd (s : State) : Host.Outcome State Fault Refusal :=
  if s.presentLayers.any (fun l => decide (s.threshold (isDram l) 5 - celsius 10 < s.quenchValue l)) then .next s
  else
    let t := s.presentLayers.foldl (fun t l =>
      if (t.layer l).level = 5 then t.setLayer l { t.layer l with level := t.nextLevel l 4 (t.layer l).temp } else t) s
    let u := t.setDeviceLevel t.maxLevel
    let v := if u.bootStopped then u.setF devStatusStage u.bootStage else u
    if bitOf (v.f thStatusSources) 0 then .next (v.dropSource 0) else .next v

/-- HOLD_N_CHANGE (R80, R81): a level taken after the filter and the dwell. While RESET_N or PERST_N holds the device in
reset, and until PCIE_READY, it makes no quench. -/
def execHoldNChange (low : Bool) (s : State) : Host.Outcome State Fault Refusal :=
  let t := { s with pilot := { s.pilot with holdN := !low } }
  if s.pilot.phase ≠ .running then .next t
  else if low then
    if s.on thStatusHoldActive then .next t else .next ((t.setF thStatusHoldActive 1).addSource 1)
  else if s.on thStatusHoldActive then .next ((t.setF thStatusHoldActive 0).dropSource 1)
  else .next t

/-- HOLD_N_LONG (R80): HOLD_N low for 10 s writes an entry and asserts ALERT_N. -/
def execHoldNLong (s : State) : Host.Outcome State Fault Refusal :=
  if s.on thStatusHoldActive then
    .next ((s.setF thAlert (setBit (s.f thAlert) 3)).report
      { pre := .th, code := 0x06, severity := 1, vector := some 1, data := toTwos 16 (s.layer (s.f thStatusHottest)).temp })
  else .next s

/-- TRIP (R571): THERMTRIP_N asserts and latches, the transmitters idle, the stack hold line asserts. A fuse pulse in
progress stops (R542). -/
def execTrip (sensor : Nat) (s : State) : Host.Outcome State Fault Refusal :=
  if s.sensorCount ≤ sensor ∨ s.pilot.phase = .off then .next s
  else .next (({ s with pilot := { s.pilot with thermtrip := true } }).stopPulse.holdStack.idlePorts)

/-! ### Thermal commands (R496, R497) -/

/-- Layer temperature as reported: 0x8000 for a layer that is absent, culled or above 17. -/
def State.tempCode (s : State) (l : Nat) : Nat := if l ≤ 17 ∧ s.layerPresent l = true then toTwos 16 (s.layer l).temp else 0x8000

/-- Result of THERM_READ from a first layer. -/
def State.thermRead (s : State) (first : Nat) : Nat :=
  packBytes ((List.range 8).map (fun k => (2 * k, 2, s.tempCode (first + k))) ++
    [(16, 1, maskOf 8 (fun k => decide (first + k ≤ 17) && s.layerPresent (first + k) && s.layerDoubtful (first + k))),
     (17, 1, s.f thStatusLevel), (18, 1, s.f thStatusHottest), (20, 4, s.thermal.sampleTick)])

/-- THERM_READ (R496). -/
def execThermRead (e : Sqe) (s : State) : Host.Outcome State Fault Refusal :=
  runCommand 0x240 e s (fun s =>
    if 17 < e.par 16 1 then s.done e stBadParam 0 else s.done e stOk (s.thermRead (e.par 16 1)))

/-- THERM_LIMITS (R496). -/
def execThermLimits (e : Sqe) (s : State) : Host.Outcome State Fault Refusal :=
  runCommand 0x241 e s (fun s =>
    s.done e stOk (packBytes ((List.range 6).map (fun k => (2 * k, 2, s.f (thresholdFld true (k + 1)))) ++
      (List.range 6).map (fun k => (12 + 2 * k, 2, s.f (thresholdFld false (k + 1)))))))

/-- The checks of THERM_WARN_SET (R496): at least 40 °C and below THROTTLE1 of the kind. -/
def State.warnOk (s : State) (dram : Bool) (v : Nat) : Bool :=
  decide (celsius 40 ≤ ofTwos 16 v ∧ ofTwos 16 v < s.threshold dram 2)

/-- THERM_WARN_SET (R496). -/
def execThermWarnSet (e : Sqe) (s : State) : Host.Outcome State Fault Refusal :=
  runCommand 0x242 e s (fun s =>
    let dram := e.par 16 1 == 0
    if 1 < e.par 16 1 || !s.warnOk dram (e.par 18 2) then s.done e stBadParam 0
    else (s.setF (thresholdFld dram 1) (e.par 18 2)).done e stOk 0)

/-- The thresholds of a kind rise with the level. -/
def State.thresholdsRise (s : State) (dram : Bool) : Bool :=
  [1, 2, 3, 4].all (fun k => decide (s.threshold dram k < s.threshold dram (k + 1)))

/-- THERM_LIMIT_SET (R496): the order of its refusals is the order of the checks. -/
def execThermLimitSet (e : Sqe) (s : State) : Host.Outcome State Fault Refusal :=
  runCommand 0x243 e s (fun s =>
    let dram := e.par 16 1 == 0
    let lvl := e.par 17 1
    let k := thresholdFld dram lvl
    let t := s.setF k (e.par 18 2)
    if 1 < e.par 16 1 ∨ lvl < 2 ∨ 5 < lvl then s.done e stBadParam 0
    else if !t.thresholdsRise dram then s.done e stBadParam 0
    else if ofTwos 16 (coldOf k) < ofTwos 16 (e.par 18 2) then s.done e stNotPermitted 0
    else t.done e stOk 0)

/-- QUENCH_REQ (R496, R497): the rings together are one source. -/
def execQuenchReq (e : Sqe) (s : State) : Host.Outcome State Fault Refusal :=
  runCommand 0x244 e s (fun s =>
    let t := if e.bit 16 0 then s.addSource 2 else s.dropSource 2
    t.done e stOk (packBytes [(0, 1, t.f thStatusSources)]))

end Sys2Proof.Machine
end

