-- ==== Sys2Proof/Machine/Clocks.lean ====
section
/-!
DEFINITION. Clocks, power domains, device time and safe hold (R118 to R155, R621 to R623).
-/
namespace Sys2Proof.Machine

/-! ### Forced closure, safe hold and REFCLK loss (R131, R138, R622) -/

/-- All 50 power domains. -/
def allPower : Nat := 2 ^ 50 - 1

/-- All 60 clock domains. -/
def allClocks : Nat := 2 ^ 60 - 1

/-- Clock domains that keep running in safe hold (R622): always-on, PCIe PHY and core, thermal, sideband, and with them the REFCLK
distribution that the PHY needs and the time base of the always-on power domain (log entry 43). -/
def safeHoldClocks : Nat := 1 + 2 + 4 + 8 + 2 ^ 49 + 2 ^ 51 + 2 ^ 58

/-- Clock domains that keep running in the banked device state (R138): always-on, thermal, sideband, fuse, Anvil, and the time base on
the oscillator. The Crucible's clock stops with its PLL. -/
def bankedClocks : Nat := 1 + 2 ^ 31 + 2 ^ 49 + 2 ^ 50 + 2 ^ 51 + 2 ^ 58

/-- Domains that stay open in safe hold: always-on, PCIe PHY, PCIe core, thermal, sideband (always-on) and the
Crucible quadrants (R622). -/
def safeHoldOpen : Nat := 1 + 2 + 4 + 2 ^ 44 + 0xF * 2 ^ 31

/-- Domains that stay open in the banked device state: always-on, thermal, fuse, Anvil and the Crucible quadrants
(R138). -/
def bankedOpen : Nat := 1 + 2 ^ 44 + 2 ^ 43 + 2 ^ 48 + 0xF * 2 ^ 31

/-- SAFE_HOLD_ENTRY (R621, R622). Causes that arrive after the first are not recorded again. -/
def State.enterSafeHold (s : State) (cause : Nat) : State :=
  if s.safeHold then s
  else
    let stage := s.f devStatusStage
    let a := ({ s with pilot := { s.pilot with safeCause := some cause } }).holdStack.idlePorts
    let b := a.report { pre := .pl, code := 0x05, severity := 3, data := cause + 256 * stage }
    let c := (b.setFs [(elStatusSafeHold, 1), (devStatusStage, 0xD), (devStatusFwRunning, 0), (cdQuadRetention, 0xF)]).bump
      elStatusSafeHolds 8
    let d := c.closeDomains (allPower - safeHoldOpen) (allClocks - safeHoldClocks)
    let e := { d with pcie := { d.pcie with aerStatus := setBit d.pcie.aerStatus 22 } }
    let f := if bitOf e.pcie.aerMask 22 then e else e.emit (.errorMessage (bitOf e.pcie.aerSeverity 22))
    f.vector 0

/-- REFCLK_LOSS (R138): the device becomes banked. -/
def State.refclkLost (s : State) (byFreq : Bool) : State :=
  let a := ({ s with pilot := { s.pilot with refclkOk := false, anvilOsc := true },
                     time := { s.time with onOsc := true, measured := false },
                     pcie := { s.pcie with linkUp := false } }).holdStack.idlePorts
  let b := a.setFs [(plClkStatusRefclkLost, 1), (plClkStatusLostByFreq, b2n byFreq), (tbStatusHoldover, 1),
    (plClkStatusPllLock, 0), (cdQuadRetention, 0xF), (devStatusFwRunning, 0)]
  let c := b.closeDomains (allPower - bankedOpen) (allClocks - bankedClocks)
  (c.report { pre := .pl, code := 0x01, severity := 3, data := b2n byFreq }).setF devStatusStage 0xE

/-- A request that the S64 holds: in an ingress buffer, started and not answered, or in the assembly of an ENQ. -/
def State.holdsReq (s : State) (r : Req) : Bool :=
  (s.port r.port).ingress.contains r || (s.port r.port).awaiting.contains r || (s.port r.port).assembly.contains r

/-- A link request ends with INTERNAL_FAULT (R131, R204): what was started of it is given up everywhere, so it takes no effect later and
is answered once. One that the S64 does not hold is left alone. -/
def State.failRequest (s : State) (r : Req) : State :=
  if !s.holdsReq r then s
  else
    let t := if (s.port r.port).ingress.contains r then s.takeReq r else s
    let x := t.port r.port
    let u := t.setPort r.port { x with awaiting := x.awaiting.erase r, assembly := x.assembly.erase r }
    let queues : Map (List EngineOp) := u.engineQueues.map (fun (p : Nat × List EngineOp) => (p.1, p.2.filter (fun o => o.req != r)))
    let snap := u.snapPending.filter (fun (w : SnapSource × Tick) => w.1 != .link r)
    (({ u with engineQueues := queues, snapPending := snap }).setF qmStatusSnapPending (b2n snap.isSome)).answer r stInternalFault 0 []

/-- Several link requests end so. -/
def State.failRequests (s : State) (rs : List Req) : State := rs.foldl (fun t r => t.failRequest r) s

/-! ### The oscillator and REFCLK (R118 to R120) -/

/-- REFCLK_STARTUP_CHECK (R119): the count of REFCLK cycles over 2 000 oscillator cycles passes within 10 000 ± 4 %; the
oscillator is then trimmed to `trim`, the PLLs lock, and Anvil and the time base run on them (R133). Otherwise REFCLK_BAD is set
and the check is made again. -/
def execRefclkStartupCheck (count trim : Nat) (s : State) : Host.Outcome State Fault Refusal :=
  if s.pilot.phase ≠ .refclk ∨ s.pilot.thermtrip = true then .next s
  else if 9600 ≤ count ∧ count ≤ 10400 then
    .next (({ s with pilot := { s.pilot with phase := .resetHeld, refclkOk := true, refCount := 0, next := 4, anvilOsc := false },
                     time := { s.time with onOsc := false } }).setFs
      [(plClkStatusRefclkBad, 0), (plRefmonOscTrim, trim % 256), (plClkStatusPllLock, 0x1F)]).tryReady
  else .next (({ s with pilot := { s.pilot with refclkOk := false } }).setFs [(plClkStatusRefclkBad, 1), (devStatusStage, 0x0)])

/-- OSC_TRIM (R118, R120): every 1 s while REFCLK is good, a new trim code and a new reference count. -/
def execOscTrim (trim count : Nat) (s : State) : Host.Outcome State Fault Refusal :=
  if s.pilot.refclkOk then
    .next (({ s with pilot := { s.pilot with refCount := count } }).setF plRefmonOscTrim (trim % 256))
  else .next s

/-- The REFCLK monitor runs from the end of step 4 (R120). -/
def State.monitors (s : State) : Bool := s.pastStep4 && s.pilot.refclkOk

/-- REFCLK_MISSING_EDGE (R120). -/
def execRefclkMissingEdge (s : State) : Host.Outcome State Fault Refusal :=
  if s.monitors then .next (s.refclkLost false) else .next s

/-- REFCLK_FREQ_WINDOW (R120): a count more than 2 000 ppm off the reference count declares REFCLK lost. The window that
follows a trim only gives the reference. DESIGN CHOICE (log entry 44): DEV_PPM is rounded towards −∞ and saturates at −32 768 and
32 767, which R150 leaves open. -/
def execRefclkFreqWindow (count : Nat) (s : State) : Host.Outcome State Fault Refusal :=
  if !s.monitors then .next s
  else if s.pilot.refCount = 0 then .next { s with pilot := { s.pilot with refCount := count } }
  else
    let ref : Int := s.pilot.refCount
    let diff : Int := (count : Int) - ref
    let ppm := diff * 1000000 / ref
    let t := s.setF plRefmonDevPpm (toTwos 16 (max (-32768) (min 32767 ppm)))
    if 2000 * ref < (diff.natAbs : Int) * 1000000 then .next (t.refclkLost true) else .next t

/-! ### Clock switching and gating (R124, R129, R133 to R137) -/

/-- Every link request that the S64 holds for a port. -/
def Port.held (x : Port) : List Req := x.ingress ++ x.awaiting ++ x.assembly

/-- The link requests whose operations wait in the engines of a bench. -/
def State.benchRequests (s : State) (b : Nat) : List Req :=
  (List.range 8).flatMap (fun i => (s.engineQueue (8 * b + i)).map (·.req))

/-- Bulk-mover channels that run or are paused halt with INTERNAL_FAULT. -/
def State.failMovers (s : State) : State :=
  (List.range 18).foldl (fun t c =>
    if t.f (bmChStatusState c) = 1 ∨ t.f (bmChStatusState c) = 3 then t.haltChannel c stInternalFault (t.f (bmChBytes c)) else t) s

/-- The work that a block holds ends as failed when the block restarts from its reset state (R135): link requests and ring commands with
INTERNAL_FAULT, bulk transfers by a halt. A Ralsal port sends the flits lost in its transmitter again after it has retrained; a port in
training starts its training anew. -/
def State.failBlock (s : State) (d : Nat) : State :=
  if 4 ≤ d ∧ d < 20 then
    (if s.portActive (d - 4) then s.shortRetrain (d - 4) else if decide (1 ≤ s.linkState (d - 4) ∧ s.linkState (d - 4) ≤ 8) then s.startDetect (d - 4) else s)
  else if d = 20 ∨ d = 21 then s.failRequests ((List.range 16).flatMap (fun p => (s.port p).held))
  else if 22 ≤ d ∧ d < 30 then s.failRequests (s.benchRequests (d - 22))
  else if d = 30 then s.failService
  else if d = 52 then s.failMovers
  else if d = 59 then s.failRequests ((List.range 16).flatMap (fun p => (s.port p).assembly))
  else s

/-- What is still open in the blocks under forced closure ends as failed (R131 step 3). In safe hold and in the banked state no ring command
is answered (R482). -/
def State.endOpen (s : State) : State :=
  ((20 :: 21 :: 59 :: 52 :: (List.range 8).map (· + 22)) ++ (if s.halted then [] else [30])).foldl (fun t d =>
    if bitOf t.dom.isolatedClk d then t.failBlock d else t) s

/-- FORCED_CLOSURE_DRAIN_END (R131 steps 3 and 4): every transaction still open ends with an error, then clock and power
are removed. `writes` are the offsets of posted register writes still open, `commands` the (ring, tag) of ring commands,
`reads` the number of register reads; `ports` are link requests in execution (R204). What no list names ends in the same way. -/
def execForcedClosureDrainEnd (reads : Nat) (writes : List Nat) (commands : List (Nat × Nat)) (ports : List Req) (s : State) :
    Host.Outcome State Fault Refusal :=
  if !s.dom.draining then .next s
  else
    let a := (List.range reads).foldl (fun t _ => t.emit .completerAbort) s
    let b := writes.foldl (fun t o => t.report { pre := .dv, code := 0x01, severity := 2, vector := some 0, data := o % 2 ^ 32 }) a
    let c := commands.foldl (fun t p => if (t.ring p.1).live.any (fun l => l.tag == p.2) then t.complete p.1 p.2 stInternalFault 0 else t) b
    let d := (c.failRequests ports).endOpen
    .next (({ d with dom := { d.dom with draining := false } }).removeDomains d.dom.isolatedPwr d.dom.isolatedClk)

/-- CLOCK_SWITCH_FORCED (R135, R136). The time base keeps its count, adds 1 600 ticks and goes into holdover; a forced
switch of the Anvil domain is a failure of Anvil; any other block restarts from its reset state. -/
def execClockSwitchForced (d : Nat) (s : State) : Host.Outcome State Fault Refusal :=
  let a := ((s.setFs [(plClkStatusClkSwitchForced, 1), (plSwitchLogDomain, d % 64)]).bump plSwitchLogCount 16).report
    { pre := .pl, code := 0x03, severity := 2, vector := some 0, data := d % 256 }
  if d = 31 then .next (a.enterSafeHold 1)
  else if d = 51 then
    .next (({ a with time := { a.time with ticks := a.time.ticks + 1600, onOsc := true, measured := false } }).setF tbStatusHoldover 1)
  else .next (a.failBlock d)

/-- A block is held in local reset until the next full reset (R137): its work fails, its clock does not run, a port goes DISABLED and a
bench does not run. -/
def State.holdBlock (s : State) (d : Nat) : State :=
  let t := if 4 ≤ d ∧ d < 20 then (if s.linkState (d - 4) = 0 then s else (s.emit (.lanesIdle (d - 4))).disablePort (d - 4) false) else s.failBlock d
  let u := { t with dom := { t.dom with inReset := setBit t.dom.inReset d } }
  u.setFs ((plClkActive, clearBit (u.f plClkActive) d) ::
    (if 22 ≤ d ∧ d < 30 then [(teBenchRunning, clearBit (u.f teBenchRunning) (d - 22))] else []))

/-- A switch that was not made is taken back (R137): the time base and Anvil stay on the oscillator, and a port on the other of its two
clocks. DESIGN CHOICE (log entry 44): the command follows the one that asks for the switch. -/
def State.undoSwitch (s : State) (d : Nat) : State :=
  if d = 31 then { s with pilot := { s.pilot with anvilOsc := true } }
  else if d = 51 then ({ s with time := { s.time with onOsc := true, measured := false } }).setF tbStatusHoldover 1
  else if 4 ≤ d ∧ d < 20 then s.setF (rlLinkStatusClkLocal (d - 4)) (1 - s.f (rlLinkStatusClkLocal (d - 4)))
  else s

/-- CLOCK_SWITCH_FAILED (R137): the switch is not made. If the old clock has stopped too, the block is held in local
reset until the next full reset. The time base is never held in reset (R136). -/
def execClockSwitchFailed (d : Nat) (oldRunning : Bool) (s : State) : Host.Outcome State Fault Refusal :=
  let a := (s.setFs [(plClkStatusClkSwitchFailed, 1), (plSwitchLogDomain, d % 64)]).report
    { pre := .pl, code := 0x04, severity := 3, vector := some 0, data := d % 256 }
  if oldRunning || d == 51 then .next (a.undoSwitch d) else .next (a.holdBlock d)

/-- Every pseudo-channel of a layer is in power-down, in self-refresh or culled. -/
def State.layerGated (s : State) (l : Nat) : Bool :=
  (List.range 64).all (fun n => s.layerOf n != l || s.f (mcPcStatusState n) != 0)

/-- Domains whose clock Pilot may gate now (R124), of those the grade has: the PCIe PHY only in L1, a port in WARM or BANKED, a DRAM layer
with no pseudo-channel running. -/
def State.gateable (s : State) (d : Nat) : Bool :=
  (d == 2 && s.pcie.linkL1) || d == 3 || (decide (4 ≤ d ∧ d < 20) && s.portActive (d - 4) && s.f (rlLinkStatusPwr (d - 4)) != 0) ||
    decide (20 ≤ d ∧ d < 31) || d == 32 || (decide (33 ≤ d ∧ d < 33 + s.dies) && s.layerGated (d - 32)) || d == 50 ||
    decide (52 ≤ d ∧ d < 58) || d == 59

/-- The busy or the pending signal of a block is set (R129): it holds work that the state shows. -/
def State.clockBusy (s : State) (d : Nat) : Bool :=
  if d = 20 ∨ d = 21 then (List.range 16).any (fun p => !(s.port p).held.isEmpty || !(s.port p).egress.isEmpty)
  else if 22 ≤ d ∧ d < 30 then !(s.benchRequests (d - 22)).isEmpty
  else if d = 30 then s.rings.any (fun (r : Nat × Ring) => r.2.live.any (fun l => serviceExecutes l.opcode))
  else if d = 50 then s.trust.job.isSome
  else if d = 52 then (List.range 18).any (fun c => s.f (bmChStatusState c) == 1)
  else if d = 57 then s.on tcStatusCalActive
  else if d = 59 then (List.range 16).any (fun p => !(s.port p).assembly.isEmpty)
  else false

/-- CLOCK_GATE_CLOSE (R129, R130): after 16 cycles with busy and pending clear, unless PL_GATE_DIS keeps it running. -/
def execClockGateClose (d : Nat) (s : State) : Host.Outcome State Fault Refusal :=
  if s.gateable d && !s.clockBusy d && !bitOf (s.f plGateDis) d then .next (s.setF plClkActive (clearBit (s.f plClkActive) d)) else .next s

/-- CLOCK_GATE_OPEN (R129): a request opens the gate of a block, unless the domain is closed by force or held in reset. -/
def execClockGateOpen (d : Nat) (s : State) : Host.Outcome State Fault Refusal :=
  if s.hasGate d && !s.heldInReset d && !bitOf s.dom.isolatedClk d then .next (s.setF plClkActive (setBit (s.f plClkActive) d)) else .next s

/-! ### Power domains (R126 to R128) -/

/-- The switch-off condition of R126; its idle time has passed. -/
def State.mayPowerOff (s : State) (d : Nat) : Bool :=
  if 3 ≤ d ∧ d ≤ 18 then s.portBanked (d - 3)
  else if d = 19 then (List.range 16).all s.portBanked
  else if 21 ≤ d ∧ d ≤ 28 then bitOf s.marver.idleBenches (d - 21) && !bitOf s.busyBenches (d - 21)
  else if d = 30 then (List.range 18).all (fun c => s.f (bmChStatusState c) == 0)
  else if 35 ≤ d ∧ d ≤ 42 then (List.range 8).all (fun i => !s.pcLive (8 * (d - 35) + i) || s.pcAsleep (8 * (d - 35) + i))
  else if d = 43 then !s.trust.job.isSome
  else if d = 45 then !s.on tcStatusCalActive && !(s.pilot.phase == .ready && s.pilot.next == 6)
  else if d = 46 then !s.on tcStatusBistBusy
  else d == 47

/-- DOMAIN_AUTO_OFF (R126, R130). A domain that holds data is never switched off automatically. -/
def execDomainAutoOff (d : Nat) (s : State) : Host.Outcome State Fault Refusal :=
  if s.mayPowerOff d && !bitOf (s.f plPwrHold) d then
    let t := s.setF plPwrOn (clearBit (s.f plPwrOn) d)
    if 21 ≤ d ∧ d ≤ 28 then
      .next (t.setFs [(teBenchPowered, clearBit (t.f teBenchPowered) (d - 21)), (teBenchRunning, clearBit (t.f teBenchRunning) (d - 21))])
    else .next t
  else .next s

/-- DOMAIN_WAKE (R127, R128): the domain is powered. A bench then loads its microcode before it runs. -/
def execDomainWake (d : Nat) (s : State) : Host.Outcome State Fault Refusal :=
  if 49 < d ∨ s.domainCulled d = true ∨ bitOf s.dom.isolatedPwr d = true then .next s
  else
    let t := s.setF plPwrOn (setBit (s.f plPwrOn) d)
    if 21 ≤ d ∧ d ≤ 28 then
      .next (({ t with dom := { t.dom with benchLoading := setBit t.dom.benchLoading (d - 21) } }).setF teBenchPowered
        (setBit (t.f teBenchPowered) (d - 21)))
    else .next t

/-- The engines of a bench that have passed a test have their microcode again (R577): they take partitions from the next epoch boundary. -/
def State.engineReloaded (s : State) (b : Nat) : State :=
  { s with test := { s.test with reloading := s.test.reloading - (s.test.reloading &&& 0xFF * 2 ^ (8 * b)) } }

/-- BENCH_MICROCODE_LOADED (R128): the bench runs, and the partitions moved to it start on it at this tick. -/
def execBenchMicrocodeLoaded (b : Nat) (z : State) : Host.Outcome State Fault Refusal :=
  let s := z.engineReloaded b
  if bitOf s.dom.benchLoading b then
    .next ((({ s with dom := { s.dom with benchLoading := clearBit s.dom.benchLoading b } }).setF teBenchRunning
      (setBit (s.f teBenchRunning) b)).movePartitions (fun _ new => new / 8 == b))
  else .next s

/-! ### Device time (R140 to R147) -/

/-- The rate correction in force, in ppb: none without a discipline source, where the counter runs free at the REFCLK rate (R143). -/
def State.rateInForce (s : State) : Int := if s.f tbCtrlSrc = 1 ∨ s.f tbCtrlSrc = 2 then ofTwos 32 (s.f tbRateCorr) else 0

/-- One cycle of the time base (R140): 4 ticks, adjusted by the rate correction, or 200 ticks on the oscillator. -/
def State.tick (s : State) : State :=
  if s.time.onOsc then { s with time := { s.time with ticks := s.time.ticks + 200 } }
  else
    let f := s.time.frac + 4 * s.rateInForce
    { s with time := { s.time with ticks := s.time.ticks + (4 + f / 1000000000).toNat, frac := f % 1000000000 } }

/-- What the block does in a cycle in which no command waits: device time goes on (R140), and every port that has its lanes in use sends its
idle frames, flits or NULL bytes (R165, R193). -/
def State.cycle (s : State) : State := (List.range 16).foldl (fun t p => t.idlePort p) s.tick

/-- One measurement (R144, R145): `target` is the target time and `at` the device time it was measured at, `interval` the
measurement interval in ticks. A counter that runs on the oscillator stays in holdover and keeps the last rate correction (R147). -/
def State.measure (s : State) (target at' interval : Int) : State :=
  let off := target - at'
  let small := decide (off.natAbs ≤ 40)
  let good := if small then min (s.time.goodOffsets + 1) 3 else 0
  let dt := target - s.time.lastMeas.2
  let freq := if s.time.measured && dt != 0 then (dt - (at' - s.time.lastMeas.1)) * 1000000000 / dt else 0
  let steps := decide ((s.f tbPtmCfgStepThreshold : Int) * 4000 < off) && s.on tbCtrlStepEn
  let offTerm := if steps || interval == 0 then 0 else off * 1000000000 / (8 * interval)
  let corr := if s.time.onOsc then ofTwos 32 (s.f tbRateCorr) else max (-5000000) (min 5000000 (ofTwos 32 (s.f tbRateCorr) + freq + offTerm))
  let locked := if !small then 0 else if good = 3 then 1 else s.f tbStatusLocked
  let t := s.setFs [(tbStatusOffset, toTwos 16 (max (-32767) (min 32767 off))), (tbRateCorr, toTwos 32 corr),
    (tbStatusSlewing, b2n (corr == 5000000 || corr == -5000000)), (tbStatusLocked, locked), (tbStatusHoldover, b2n s.time.onOsc)]
  let u := { t with time := { t.time with goodOffsets := good, measured := !s.time.onOsc,
                                          lastMeas := (if steps then target.toNat else at'.toNat, target) } }
  if steps then ({ u with time := { u.time with ticks := u.time.ticks + off.toNat } }).setF tbStatusStepped 1 else u

/-- Holdover (R147): the last rate correction is kept. -/
def State.holdover (s : State) : State :=
  ({ s with time := { s.time with measured := false } }).setF tbStatusHoldover 1

/-- PTM_DIALOG (R143, R147): a dialog as requester; PTM selected but not enabled is holdover. -/
def execPtmDialog (s : State) : Host.Outcome State Fault Refusal :=
  if s.f tbCtrlSrc ≠ 1 then .next s
  else if !s.pcie.ptmEnable then .next s.holdover
  else .next (({ s with time := { s.time with ptmOpen := true } }).emit .ptmRequest)

/-- PTM_RESPONSE (R143 to R145): the master time in ns, the link delay removed. DESIGN CHOICE (log entry 44): TB_PTM_CFG.INTERVAL
outside its range of 1 to 1 000 acts as the nearer end of the range. -/
def execPtmResponse (masterNs : Nat) (s : State) : Host.Outcome State Fault Refusal :=
  if s.time.ptmOpen && s.f tbCtrlSrc == 1 then
    let t := { s with time := { s.time with ptmOpen := false, ptmFails := 0 } }
    .next (t.measure (4 * masterNs + ofTwos 64 (s.f tbOffset)) s.now ((max 1 (min 1000 (s.f tbPtmCfgInterval)) : Nat) * 4000000))
  else .next s

/-- PTM_RESPONSE_TIMEOUT (R147): three in a row put the discipline into holdover. -/
def execPtmResponseTimeout (s : State) : Host.Outcome State Fault Refusal :=
  if s.time.ptmOpen then
    let n := min (s.time.ptmFails + 1) 3
    let t := { s with time := { s.time with ptmOpen := false, ptmFails := n } }
    if n = 3 then .next ((t.setF tbStatusPtmFail 1).holdover) else .next t
  else .next s

/-- The expected time nearest to a captured edge: TB_SYNC_NEXT + n × TB_SYNC_PERIOD for n ≥ 0 (R146). -/
def nearestExpected (next period capt : Nat) : Nat :=
  if period = 0 ∨ capt ≤ next then next else next + (2 * (capt - next) + period) / (2 * period) * period

/-- TIMESYNC_EDGE (R141, R146, R635): the edge at filter output tick `t` carries the tick 25 ns before it. DESIGN CHOICE (log entry 44):
TB_SYNC_CFG.MIN_INTERVAL = 0, outside its range, acts as 1 ms, and the measurement interval is TB_SYNC_PERIOD also where pulses were
missed between two accepted edges. -/
def execTimesyncEdge (t : Tick) (s : State) : Host.Outcome State Fault Refusal :=
  let c := t - 100
  if s.on tbStatusTimesyncStuck then .next s
  else if s.time.synced && decide (c < s.f tbSyncCapt + (max 1 (s.f tbSyncCfgMinInterval)) * 4000000) then
    .next (s.bump tbSyncCfgIgnored 16)
  else
    let target := nearestExpected (s.f tbSyncNext) (s.f tbSyncPeriod) c
    let a := ({ s with time := { s.time with synced := true } }).setFs
      [(tbSyncCapt, c % 2 ^ 64), (tbSyncNext, (target + s.f tbSyncPeriod) % 2 ^ 64)]
    let b := a.pulseSource 0x402
    if s.f tbCtrlSrc = 2 then .next (b.measure target c (s.f tbSyncPeriod)) else .next b

/-- TIMESYNC_STUCK (R80, R146, R147): the input is ignored. -/
def execTimesyncStuck (s : State) : Host.Outcome State Fault Refusal :=
  let t := s.setF tbStatusTimesyncStuck 1
  if s.f tbCtrlSrc = 2 then .next t.holdover else .next t

/-- TIMESYNC_FALLING_EDGE (R80): the input is used again. -/
def execTimesyncFallingEdge (s : State) : Host.Outcome State Fault Refusal := .next (s.setF tbStatusTimesyncStuck 0)

/-- TB_TIME_LO_READ (R154): bits 31:0, with bits 63:32 latched into TB_TIME_HI. Before PCIE_READY no BAR is decoded (R88). -/
def execTbTimeLoRead (s : State) : Host.Outcome State Fault Refusal :=
  if !s.decodesBars then .next (s.emit .unsupportedRequest)
  else .next (({ s with latches := Map.set latchCold s.latches 0x20004 (s.now / 2 ^ 32 % 2 ^ 32) }).emit
    (.readData (leBytes 4 s.now) false))

end Sys2Proof.Machine
end

