-- ==== Sys2Proof/Machine/Integrity.lean ====
section
/-!
DEFINITION. Error correction, fill and scrubbing (R407 to R430), and the retirement of banks (R303, R426).
-/
namespace Sys2Proof.Machine

/-! ### The code (R407, R408) -/

/-- What a syndrome says. -/
inductive Syndrome where
  | clean | correctable | poison | fatal
  deriving DecidableEq, Repr

/-- R407. A Hsiao code takes its columns from the odd-weight words of least weight: the 8 of weight 1, the 56 of weight 3, and 8 of
weight 5 (log entry 30). -/
def classify (sy : Nat) : Syndrome :=
  let s := sy % 256
  let w := popcount 8 s
  if s = 0 then .clean
  else if s = 0xFF then .poison
  else if w = 1 ∨ w = 3 ∨ (w = 5 ∧ Config.heavyColumn s = true) then .correctable
  else .fatal

/-! ### Units and words (R413) -/

/-- Kind of a bucket's unit as BUCKET_CFG numbers it (R429). -/
def bucketKind (u : Nat) : Nat := if u < 64 then 0 else if u < 128 then 1 else if u < 192 then 2 else 3

/-- Unit kind and number of an error-log entry. -/
def logUnit (u : Nat) : Nat × Nat :=
  if u < 64 then (1, u) else if u < 128 then (2, u - 64) else if u < 192 then (3, u - 128) else if u < 200 then (4, u - 192) else (0, 0xFF)

/-- The word of the stack that a word read is (R474): its position counts the 8 B words of its pseudo-channel or slice. -/
def State.stackWord (s : State) (w : MemWord) : Option Nat :=
  if w.unit < 64 then some (w.unit * s.pcBytes / 8 + w.position)
  else if w.unit < 128 then some (crucibleBase / 8 + (w.unit - 64) * 2 ^ 20 + w.position)
  else none

/-- The queue or table that a word belongs to, where known (R428). -/
def MemUseObject : MemUse → Nat
  | .packetWord q _ | .blockHeader q _ | .context q | .snapshot _ q => q
  | .node t _ _ | .nodeCopy t _ | .counter t _ _ | .journal t => t
  | _ => 0xFFFFFFFF

/-- An entry of IG about a word. -/
def wordEvent (w : MemWord) (code severity : Nat) (vector : Option Nat := none) : LogEvent :=
  { pre := .ig, code := code, severity := severity, vector := vector, unitKind := (logUnit w.unit).1, unit := (logUnit w.unit).2,
    sub := if w.unit < 64 then w.bank else 0xFF, object := MemUseObject w.use }

/-! ### Retirement (R426, R303) -/

/-- IG asks for the retirement of a bank, or reports that MAX is reached. -/
def State.requestRetire (s : State) (pc bank : Nat) : State :=
  let asked := (s.integrity.requested.filter (fun b => b.1 == pc)).length + (s.retiredBanks pc).length
  let ev : LogEvent := { pre := .ig, code := 0x04, severity := 1, unitKind := 1, unit := pc, sub := bank }
  if s.f igRetireCfgAutoEn = 0 || s.bankRetired pc bank || s.integrity.requested.contains (pc, bank) then s
  else if min 16 (s.f igRetireCfgMax) ≤ asked then s.report { ev with code := 0x05 }
  else ({ s with integrity := { s.integrity with requested := s.integrity.requested ++ [(pc, bank)] } }).report ev

/-- An uncorrectable error of a bank, other than a poison read: the second in another row within the window asks for retirement. -/
def State.noteUe (s : State) (pc bank row : Nat) : State :=
  let span := s.eff igRetireCfgUeWindow * 14400000000000
  let recent := s.integrity.retireUes.filter (fun u => decide (s.now < u.2.2.2 + span))
  let t := { s with integrity := { s.integrity with retireUes := (pc, bank, row, s.now) :: recent } }
  if recent.any (fun u => u.1 == pc && u.2.1 == bank && u.2.2.1 != row) then t.requestRetire pc bank else t

/-- A device-region row of a retired bank moves to another bank of its own pseudo-channel, and the region header records where (R303). -/
def State.moveRegionRow (s : State) (old : RowAt) : State :=
  match s.takeRow old.pc with
  | none => s
  | some x => { x.2 with marver := { x.2.marver with regionMoved := x.2.marver.regionMoved ++ [(old, x.1)] } }

/-- The device-region rows that lie in a bank: those laid out there, and those moved there since, as they are now. -/
def State.regionRowsIn (s : State) (pc bank : Nat) : List RowAt :=
  if s.marver.region.contains pc then
    ((List.range s.regionRows).map (fun i => (⟨pc, bank, s.bankTop pc + i⟩ : RowAt))) ++
      (s.marver.regionMoved.map (·.2)).filter (fun r => r.pc == pc && r.bank == bank)
  else []

/-- Table rows and device-region rows leave a retired bank (R303). -/
def State.emptyBank (s : State) (pc bank : Nat) : State :=
  let t := (s.regionRowsIn pc bank).foldl State.moveRegionRow s
  t.rehouse (fun _ r => r.pc == pc && r.bank == bank) true

/-- BANK_RETIREMENT (R303): Marver takes the bank out of allocation and moves its table and device-region rows; blocks on it
stay until their queues release them. While quenched Marver makes no moves, so that the request waits (R568). -/
def execBankRetirement (pc bank : Nat) (s : State) : Host.Outcome State Fault Refusal :=
  if !s.integrity.requested.contains (pc, bank) || s.quenched then .next s
  else
    let here := (s.queues.map (fun q => (q.2.places.filter (fun k => k.pc == pc && k.bank == bank)).length)).sum
    let m := { s.marver with retired := s.marver.retired ++ [(pc, bank)] }
    let i := { s.integrity with requested := s.integrity.requested.erase (pc, bank) }
    .next ((({ s with marver := m, integrity := i }).addF mvDrainBlocks here (2 ^ 26 - 1)).emptyBank pc bank).syncPools.syncFloor

/-! ### Counting correctable errors (R413 to R416) -/

/-- A bucket that has counted nothing. -/
def bucketCold (_ : Nat) : Bucket := ⟨0, 0, [], []⟩

def State.bucket (s : State) (u : Nat) : Bucket := Map.get bucketCold s.integrity.buckets u
def State.setBucket (s : State) (u : Nat) (b : Bucket) : State :=
  { s with integrity := { s.integrity with buckets := Map.set bucketCold s.integrity.buckets u b } }

/-- The action of an overflow by unit kind (R416): every bank with at least half of a pseudo-channel's count is retired (R426). -/
def State.overflowed (s : State) (u : Nat) (banks : Map Nat) : State :=
  if u < 64 then
    let total := (banks.map (·.2)).sum
    ((List.range 16).filter (fun b => decide (total ≤ 2 * Map.get (fun _ => 0) banks b) && decide (0 < Map.get (fun _ => 0) banks b))).foldl
      (fun t b => t.requestRetire u b) s
  else if u < 128 then
    (s.setF igSliceMark (setBit (s.f igSliceMark) (u - 64))).report { pre := .ig, code := 0x08, severity := 1, unitKind := 2, unit := u - 64 }
  else s

/-- One correctable error counted in a unit's bucket. -/
def State.addError (s : State) (w : MemWord) : State :=
  let b := s.bucket w.unit
  let banks := if w.unit < 64 then addCount b.banks w.bank 1 else b.banks
  let seen := ((w.position, s.now) :: b.seen).take 8
  if b.count + 1 ≤ max 1 (s.f (igBktDepthDepth (bucketKind w.unit))) then
    s.setBucket w.unit { b with count := b.count + 1, seen := seen, banks := banks }
  else
    let t := (s.setBucket w.unit ⟨0, min (b.overflows + 1) 65535, seen, []⟩).setF (igBktOvf (w.unit / 32))
      (setBit (s.f (igBktOvf (w.unit / 32))) (w.unit % 32))
    let u := t.report { pre := .ig, code := 0x01, severity := 1, vector := some 2, unitKind := (logUnit w.unit).1,
                        unit := (logUnit w.unit).2 }
    u.overflowed w.unit banks

/-- A correctable error is counted, but not again at one of the last 8 positions within 1 s (R414). -/
def State.countCe (s : State) (w : MemWord) : State :=
  if 200 ≤ w.unit then s.addF igCe 1 (2 ^ 64 - 1)
  else if (s.bucket w.unit).seen.any (fun p => p.1 == w.position && decide (s.now < p.2 + 4000000000)) then s
  else (s.addF igCe 1 (2 ^ 64 - 1)).addError w

/-- Flux has rewritten a word: its position counts again. -/
def State.rewritten (s : State) (w : MemWord) : State :=
  let b := s.bucket w.unit
  (s.setBucket w.unit { b with seen := b.seen.filter (fun p => p.1 != w.position) }).addF fxCorrected 1 (2 ^ 32 - 1)

/-- BUCKET_LEAK (R413). -/
def execBucketLeak (u : Nat) (s : State) : Host.Outcome State Fault Refusal :=
  if u < 200 then .next (s.setBucket u { s.bucket u with count := (s.bucket u).count - 1 }) else .next s

/-! ### Where uncorrectable data go (R410, R421) -/

/-- A change of the queue that holds a word. -/
def State.onQueue (s : State) (q : Nat) (f : Queue → Queue) : State :=
  if (s.queue q).configured then s.setQueue q (f (s.queue q)) else s

/-- A change of the table that holds a word. -/
def State.onTable (s : State) (n : Nat) (f : Table → Table) : State :=
  match s.table n with
  | none => s
  | some t => s.putTable n (some (f t))

/-- A new element of a list. -/
def addNew {α : Type} [DecidableEq α] (x : α) (l : List α) : List α := if l.contains x then l else x :: l

/-- The table is damaged (R421, R425). -/
def State.tableDamaged (s : State) (n : Nat) (w : MemWord) : State :=
  let k := igTableDamaged (n / 32)
  if bitOf (s.f k) (n % 32) then s else (s.setF k (setBit (s.f k) (n % 32))).report (wordEvent w 0x07 2 (some 0))

/-- A node's row in DRAM is uncorrectable: repaired from the other copy, or the table is damaged. -/
def State.badNode (s : State) (n : Nat) (key : List Byte) (ofMirror : Bool) (w : MemWord) : State :=
  match s.table n with
  | none => s
  | some t =>
    let u := s.onTable n (fun t => if ofMirror then { t with badMirror := addNew key t.badMirror } else { t with badPrimary := addNew key t.badPrimary })
    let other := if ofMirror then s.primaryBad n t key else s.mirrorBad n t key
    if t.mirror && !other then
      { u with integrity := { u.integrity with jobs := addNew (.mirror n key ofMirror w) u.integrity.jobs } }
    else u.tableDamaged n w

/-- Where a byte string first stands in another. -/
def findBytes (x : List Byte) : List Byte → Option Nat
  | [] => none
  | a :: l => if x.isPrefixOf (a :: l) then some 0 else (findBytes x l).map (· + 1)

/-- The kept bytes of a port with one reply's own replaced by those of the same reply with its CRC field inverted. -/
def spoilCopies (r : Reply) (kept : List (Nat × List Byte)) (filling : List Byte) : List (Nat × List Byte) × List Byte :=
  let flat := kept.flatMap (·.2) ++ filling
  match findBytes r.stream flat with
  | none => (kept, filling)
  | some i =>
    let new := flat.take i ++ ({ r with spoiled := true }).stream ++ flat.drop (i + r.stream.length)
    ((kept.zipIdx).map (fun k => (k.1.1, (new.drop (320 * k.2)).take 320)), new.drop (320 * kept.length))

/-- A reply that waits in a port's egress store goes out with its CRC field inverted; of the replies in the replay buffer, the copies sent
again carry it inverted. -/
def State.spoilEgress (s : State) (p : Nat) : State :=
  let x := s.port p
  match x.egress, x.kept with
  | r :: l, _ => s.setPort p { x with egress := { r with spoiled := true } :: l }
  | [], (n, .reply r) :: l =>
    let b := spoilCopies r x.keptCw x.txBuf
    s.setPort p { x with kept := (n, .reply { r with spoiled := true }) :: l, keptCw := b.1, txBuf := b.2 }
  | [], _ => s

/-- A stored request that cannot be read is handled as a CRC failure (R199): one still being received is replayed; one already
acknowledged is discarded with PACKET_CORRUPT. -/
def State.spoilIngress (s : State) (p : Nat) : State :=
  let x := s.port p
  if x.rxBuf ≠ [] then s.setPort p { x with badItem := true }
  else
    match x.ingress with
    | [] => s
    | r :: l => if r.corrupt then s else (s.bump (rlCrcCorrupt p) 16).setPort p { x with ingress := { r with corrupt := true } :: l, assembly := x.assembly.erase r }

/-- The ENQ in cell assembly ends with INTERNAL_FAULT and is not enqueued. -/
def State.spoilAssembly (s : State) (p : Nat) : State :=
  match (s.port p).assembly with
  | [] => s
  | r :: _ => s.failRequest r

/-- An operation that holds a thread is restarted from its start (R410). -/
def State.restartOp (s : State) (n : Nat) : State :=
  match s.engineQueue n with
  | [] => s
  | o :: l => if o.reads.isSome then (s.setEngine n l).startOp n { o with reads := none } else s

/-- The error of an engine's thread state recurs: the operation is answered as unreliable, and its request with it. The table is
marked for the answer alone. -/
def State.spoilEngine (s : State) (n : Nat) : State :=
  match s.engineQueue n with
  | [] => s
  | o :: _ =>
    let a := { s with engineQueues := s.engineQueues.map (fun (q : Nat × List EngineOp) => (q.1, q.2.filter (fun k => k.req != o.req))) }
    let x := a.port o.req.port
    let b := a.setPort o.req.port { x with awaiting := x.awaiting.erase o.req }
    match b.tableAt o.table o.req.tick with
    | none => b.serveTable o.req
    | some t =>
      if t.kind = TableKind.counter then
        ((b.putTableAt o.table o.req.tick { t with lost := leNat o.key :: t.lost }).addF teCntLost 1 (2 ^ 32 - 1)).serveTable o.req
      else
        let marked := b.putTableAt o.table o.req.tick { t with badPrimary := o.key :: t.badPrimary, badMirror := o.key :: t.badMirror,
                                                               badCopy := o.key :: t.badCopy }
        (marked.serveTable o.req).putTableAt o.table o.req.tick t

/-- Marver rebuilds its free-row list heads and state from the device region, and places no new row for at most 2 ms (R421). How long is a
free value. -/
def State.pausePlacing (s : State) : State :=
  let k := s.fresh
  { k.2 with marver := { k.2.marver with rebuildTill := s.now + Config.freeValue k.1 % 8000001 } }

/-- A word of an entry in a memory controller's queue cannot be read: it is written to DRAM, or delivered, poisoned (R410). -/
def State.spoilQueued (s : State) (n k i : Nat) : State :=
  let x := s.pcState n
  let spoil := fun (e : MemEntry) => if e.seq = k ∧ i < 32 then { e with bad := addNew i e.bad } else e
  s.setPc n { x with reads := x.reads.map spoil, writes := x.writes.map spoil }

/-- The effect of an uncorrectable word where it lies (R410, R421). -/
def State.uncorrectable (s : State) (w : MemWord) : State :=
  match w.use with
  | .packetWord q i => s.onQueue q (fun x => { x with badWords := addNew i x.badWords })
  | .blockHeader q b => s.onQueue q (fun x => { x with badBlocks := addNew b x.badBlocks })
  | .context q => s.onQueue q (fun x => { x with badContext := true })
  | .node n key m => s.badNode n key m w
  | .nodeCopy n key =>
    let t := s.onTable n (fun t => { t with badCopy := addNew key t.badCopy })
    { t with integrity := { t.integrity with jobs := addNew (.copy n key w) t.integrity.jobs } }
  | .counter n i v =>
    (s.onTable n (fun t => { t with counters := Map.set counterCold t.counters i (if v then Map.get counterCold t.writtenBack i else (0, 0)),
                                    lost := addNew i t.lost })).addF teCntLost 1 (2 ^ 32 - 1)
  | .snapshot k q => { s with snapshots := s.snapshots.map (fun x => if x.number = k then { x with damaged := addNew q x.damaged } else x) }
  | .activationCounter g =>
    let a : RowAt := ⟨g / (16 * s.bankRows), g / s.bankRows % 16, g % s.bankRows⟩
    s.setRowCount { s.rowCount a with count := 513, flagged := true }
  | .journal n => s.onTable n (fun t => { t with journalBad := true })
  | .firmwareCopy k =>
    let spoil := fun (i : FwImage) => { i with bodyOk := false }
    { s with trust := if k = 0 then { s.trust with slot0 := s.trust.slot0.map spoil } else { s.trust with slot1 := s.trust.slot1.map spoil } }
  | .ingress p => s.spoilIngress p
  | .egress p => s.spoilEgress p
  | .assembly p => s.spoilAssembly p
  | .mcEntry n k i => s.spoilQueued n k i
  | .engineState n again => if again then s.spoilEngine n else s.restartOp n
  | .freeList => s.pausePlacing
  | .other => s

/-- An uncorrectable word of the stack is remembered until new data are written over it, and one outside the stack until the next full reset,
which fills its memory: the S64's own writes to those memories are no commands (DESIGN CHOICE, log entry 30). -/
def State.markBad (s : State) (w : MemWord) : State :=
  match s.stackWord w with
  | none => { s with integrity := { s.integrity with seenOther := addNew (w.unit, w.position) s.integrity.seenOther } }
  | some a => { s with integrity := { s.integrity with badWords := addNew a s.integrity.badWords } }

/-- A word read for the first time as uncorrectable. -/
def State.firstRead (s : State) (w : MemWord) : Bool :=
  match s.stackWord w with
  | none => !s.integrity.seenOther.contains (w.unit, w.position)
  | some a => !s.integrity.badWords.contains a

/-- Counting an uncorrectable error (R407, R426, R428). -/
def State.countUe (s : State) (w : MemWord) : State :=
  let t := (s.addF igUe 1 (2 ^ 32 - 1)).setF igStatusUeSeen 1
  let u := if s.firstRead w then t.report (wordEvent w 0x02 2) else t
  if w.unit < 64 then u.noteUe w.unit w.bank w.row else u

/-- A poison read. -/
def State.countPoison (s : State) : State := s.addF igPoisonReads 1 (2 ^ 32 - 1)

/-- A word of the stack is written poisoned. -/
def State.storePoison (s : State) (w : MemWord) : State :=
  match s.stackWord w with
  | none => s
  | some a => { s with integrity := s.integrity.poison a }

/-- Flux poisons a word (R408). -/
def State.poisonWord (s : State) (w : MemWord) : State := ((s.storePoison w).addF fxPoisoned 1 (2 ^ 32 - 1)).report (wordEvent w 0x03 2)

/-- A poisoned word reads as uncorrectable until new data are written over it (R408). -/
def State.syndromeOf (s : State) (w : MemWord) (sy : Nat) : Syndrome :=
  match s.stackWord w, classify sy with
  | _, .fatal => .fatal
  | none, x => x
  | some a, x => if s.integrity.poisoned.contains a then .poison else x

/-- The word lies in a row of the table pool or of the device region (R409, R417). -/
def State.keepsWord (s : State) (w : MemWord) : Bool :=
  decide (w.unit < 64) && ((s.tableRowAt ⟨w.unit, w.bank, w.row⟩).isSome || (s.marver.region.contains w.unit && decide (s.bankTop w.unit ≤ w.row)) ||
    s.marver.regionMoved.any (fun m => m.2 == (⟨w.unit, w.bank, w.row⟩ : RowAt)))

/-- MEMORY_READ_RETURN (R407, R409): a reader acts on the syndrome of a word. -/
def execMemoryReadReturn (w : MemWord) (sy : Nat) (s : State) : Host.Outcome State Fault Refusal :=
  match s.syndromeOf w sy with
  | .clean => .next s
  | .correctable =>
    let t := s.countCe w
    if (decide (64 ≤ w.unit ∧ w.unit < 128)) || s.keepsWord w then
      .next { t with integrity := { t.integrity with jobs := addNew (.rewrite w) t.integrity.jobs } }
    else .next t
  | .poison => .next ((s.countPoison.markBad w).uncorrectable w)
  | .fatal => .next (((s.countUe w).markBad w).uncorrectable w)

/-! ### Flux (R409, R417 to R420, R425) -/

/-- Flux is paused (R420). -/
def State.fluxPaused (s : State) : Bool := s.on fxStatusPaused || s.halted

/-- The first rewrite that IG has asked for. -/
def rewriteJob : List IgJob → Option IgJob
  | [] => none
  | .mirror _ _ _ _ :: l => rewriteJob l
  | j :: _ => some j

/-- FLUX_REWRITE (R409, R421): a corrected word's line or sector, or a node copy from DRAM. -/
def execFluxRewrite (s : State) : Host.Outcome State Fault Refusal :=
  if s.fluxPaused then .next s
  else
    match rewriteJob s.integrity.jobs with
    | none => .next s
    | some j =>
      let t := { s with integrity := { s.integrity with jobs := s.integrity.jobs.erase j } }
      match j with
      | .rewrite w => .next (t.rewritten w)
      | .copy n key w =>
        let u := { t with integrity := t.integrity.keepBad (fun a => some a != s.stackWord w) }
        .next ((u.onTable n (fun x => { x with badCopy := x.badCopy.filter (fun k => k != key) })).addF fxCorrected 1 (2 ^ 32 - 1))
      | .mirror _ _ _ _ => .next t

/-- The first mirror repair asked for. -/
def mirrorJob : List IgJob → Option (Nat × List Byte × Bool × MemWord)
  | [] => none
  | .mirror n key m w :: _ => some (n, key, m, w)
  | _ :: l => mirrorJob l

/-- The copy of a node that a repair reads has gone bad since. -/
def State.sourceBad (s : State) (n : Nat) (key : List Byte) (ofMirror : Bool) : Bool :=
  match s.table n with
  | none => true
  | some t => if ofMirror then s.primaryBad n t key else s.mirrorBad n t key

/-- MIRROR_REPAIR (R425): the good copy is written over the bad one, and Flux reads it back, unless it is paused (R420). A copy that fails
again is moved to another row, and counts as an uncorrectable error of its bank for R426. With neither copy good there is nothing to repair
from, and the table is damaged. -/
def execMirrorRepair (ok : Bool) (s : State) : Host.Outcome State Fault Refusal :=
  match mirrorJob s.integrity.jobs with
  | none => .next s
  | some (n, key, m, w) =>
    let d := { s with integrity := { s.integrity with jobs := s.integrity.jobs.erase (.mirror n key m w) } }
    let t := { d with integrity := d.integrity.keepBad (fun a => some a != s.stackWord w) }
    let u := t.onTable n (fun x => if m then { x with badMirror := x.badMirror.filter (fun k => k != key) }
      else { x with badPrimary := x.badPrimary.filter (fun k => k != key) })
    if s.fluxPaused then .next s
    else if s.sourceBad n key m then .next (if (s.table n).isSome then d.tableDamaged n w else d)
    else if ok then .next ((u.addF igMirrorRepairs 1 (2 ^ 32 - 1)).report (wordEvent w 0x06 0))
    else if w.unit < 64 then
      .next ((u.rehouse (fun _ r => r == (⟨w.unit, w.bank, w.row⟩ : RowAt)) false).noteUe w.unit w.bank w.row)
    else .next u

/-- A newer write to the word's sector waits in the write queue, so its write-back is cancelled (R418). -/
def State.writeBackCancelled (s : State) (w : MemWord) : Bool :=
  (s.pcState w.unit).writes.any (fun e => e.req.bank == w.bank && e.req.row == w.row && e.req.sector == w.position % 256 / 32)

/-- What Flux does with one word that it does not find clean in a row (R417). -/
def State.scrubWord (s : State) (x : Found) : State :=
  let w := x.word
  match s.syndromeOf w x.syndrome with
  | .clean => s
  | .correctable => if s.keepsWord w && !s.writeBackCancelled w then (s.countCe w).rewritten w else s.countCe w
  | .poison => (s.countPoison.markBad w).uncorrectable w
  | .fatal =>
    let t := ((s.countUe w).markBad w).uncorrectable w
    if s.keepsWord w && !s.writeBackCancelled w then t.poisonWord w else t

/-- Rows of a pseudo-channel. -/
def State.pcRows (s : State) : Nat := 16 * s.bankRows

/-- Rows that the sweeps of a pseudo-channel have read; each goes on to the next sweep by itself. -/
def State.sweptRows (s : State) (n : Nat) : Nat := Map.get (fun _ => 0) s.integrity.swept n

/-- The rows read by the pseudo-channel in service that has read the fewest. -/
def State.slowestSweep (s : State) : Nat :=
  (((List.range 64).filter s.pcLive).map s.sweptRows).min?.getD 0

/-- A row has been read. A sweep is complete once every pseudo-channel has read its last row; PROGRESS is that of the slowest (R430). -/
def State.noteRow (s : State) (n : Nat) : State :=
  let t := { s with integrity := { s.integrity with swept := addCount s.integrity.swept n 1 } }
  let done := t.slowestSweep / max 1 t.pcRows
  (({ t with integrity := { t.integrity with sweepsAll := done } }).addF fxSweepsDram (done - s.integrity.sweepsAll) 65535).setF fxStatusProgress
    (100 * (t.slowestSweep % max 1 t.pcRows) / max 1 t.pcRows)

/-- The row of a pseudo-channel that its sweep has come to, bank by bank and row by row. -/
def State.scrubRow (s : State) (n : Nat) : RowAt :=
  let i := s.sweptRows n % max 1 s.pcRows
  ⟨n, i / s.bankRows, i % s.bankRows⟩

/-- FLUX_ROW_SCRUB (R417, R420): one row is read whole in one activation, for which it waits under the row guard (R299, R300);
each of its 8 sector reads that was not complete at 100 % of the FS target counts once (R386). -/
def execFluxRowScrub (n late : Nat) (found : List Found) (s : State) : Host.Outcome State Fault Refusal :=
  let a := s.scrubRow n
  if s.fluxPaused || decide (63 < n) || !s.pcLive n || s.on (mcPcStatusCalHold n) || !(decide (a.row < 2) || s.rowGuard a) then .next s
  else .next ((found.foldl (fun u x => u.scrubWord x) (((s.wakePc n).activateRow a).addF (mcPcLate n) (min late 8) (2 ^ 32 - 1))).noteRow n)

/-- A word lies in tail staging: in the block that its queue is filling. A block of the head area has left tail staging (R243, R287). -/
def State.inTailStaging (s : State) : MemUse → Bool
  | .packetWord q i => 8 * i / blockData == (s.queue q).tailBlock
  | .blockHeader q b => b == (s.queue q).tailBlock
  | _ => false

/-- What Flux does with one word of a Crucible line (R419). -/
def State.scrubLine (s : State) (x : Found) : State :=
  let w := x.word
  match s.syndromeOf w x.syndrome with
  | .clean => s
  | .correctable => (s.countCe w).rewritten w
  | .poison => (s.countPoison.markBad w).uncorrectable w
  | .fatal =>
    let t := ((s.countUe w).markBad w).uncorrectable w
    if s.inTailStaging w.use then t.poisonWord w else t

/-- CRUCIBLE_SCRUB (R419). -/
def execCrucibleScrub (last : Bool) (found : List Found) (s : State) : Host.Outcome State Fault Refusal :=
  if s.fluxPaused then .next s
  else
    let t := found.foldl (fun u x => u.scrubLine x) s
    .next (if last then t.bump fxSweepsCrucible 16 else t)

/-- The sweep of a pseudo-channel is unfinished, unless the last row it read ended one. -/
def State.sweepOpen (s : State) (n : Nat) : Bool := s.sweptRows n == 0 || s.sweptRows n % max 1 s.pcRows != 0

/-- SWEEP_LATE (R420). -/
def execSweepLate (n : Nat) (s : State) : Host.Outcome State Fault Refusal :=
  if 63 < n || !s.pcLive n || !s.sweepOpen n then .next s
  else .next ((s.setF fxStatusSweepLate 1).report { pre := .fx, code := 0x01, severity := 0, unitKind := 1, unit := n })

/-! ### Commands (R429) -/

/-- Tables damaged. -/
def State.damagedTables (s : State) : Nat := ((List.range 8).map (fun i => popcount 32 (s.f (igTableDamaged i)))).sum

/-- INTEGRITY_INFO. -/
def execIntegrityInfo (e : Sqe) (s : State) : Host.Outcome State Fault Refusal :=
  runCommand 0x1D0 e s (fun s =>
    s.done e stOk (packBytes [(0, 8, s.f igCe), (8, 4, s.f igUe), (12, 4, s.f igPoisonReads), (16, 2, s.f fxSweepsDram),
      (18, 2, s.f mvRetiredBanks), (20, 2, min 65535 (s.f igMirrorRepairs)), (22, 1, min 255 s.damagedTables), (23, 1, s.f fxStatusSweepLate)]))

/-- SCRUB_CFG. -/
def execScrubCfg (e : Sqe) (s : State) : Host.Outcome State Fault Refusal :=
  runCommand 0x1D1 e s (fun s =>
    let m := e.par 16 2
    if m < 15 ∨ 10080 < m then s.done e stBadParam 0
    else
      let t := s.setF fxCfgSweepMin m
      let u := if e.bit 18 0 then ({ t with integrity := { t.integrity with swept := [], sweepsAll := 0 } }).setF fxStatusProgress 0 else t
      u.done e stOk 0)

/-- BUCKET_CFG. -/
def execBucketCfg (e : Sqe) (s : State) : Host.Outcome State Fault Refusal :=
  runCommand 0x1D2 e s (fun s =>
    let k := e.par 16 1
    if 3 < k ∨ e.par 18 2 = 0 ∨ e.par 20 4 = 0 ∨ 3600000 < e.par 20 4 then s.done e stBadParam 0
    else
      let t := s.setFs [(igBktDepthDepth k, e.par 18 2), (igBktLeakMs k, e.par 20 4)]
      ((List.range 200).foldl (fun t u => if bucketKind u = k then t.setBucket u { t.bucket u with count := 0 } else t) t).done e stOk 0)

/-- RETIRE_CFG. -/
def execRetireCfg (e : Sqe) (s : State) : Host.Outcome State Fault Refusal :=
  runCommand 0x1D3 e s (fun s =>
    if 1 < e.par 16 1 ∨ 16 < e.par 17 1 ∨ e.par 18 1 < 1 ∨ 168 < e.par 18 1 then s.done e stBadParam 0
    else
      (s.setFs [(igRetireCfgAutoEn, e.par 16 1), (igRetireCfgMax, e.par 17 1), (igRetireCfgUeWindow, e.par 18 1)]).done e stOk 0)

end Sys2Proof.Machine
end

