-- ==== Sys2Proof/Machine/Regulator.lean ====
section
/-!
DEFINITION. Classes, budgets and guarantees (R431 to R449). The charges themselves are in `Memory`.
-/
namespace Sys2Proof.Machine

/-! ### Sets of guarantees (R432, R444) -/

/-- The classes that have guarantees. -/
def budgetClasses : List Nat := List.range 15

/-- A class of a set. -/
def budgetOf (m : Map Budget) (c : Nat) : Budget := Map.get budgetCold m c

/-- Sums over a set. -/
def sumBw (m : Map Budget) : Nat := (budgetClasses.map (fun c => (budgetOf m c).bw)).sum
def sumCru (m : Map Budget) : Nat := (budgetClasses.map (fun c => (budgetOf m c).cru)).sum
def sumThr (m : Map Budget) : Nat := (budgetClasses.map (fun c => (budgetOf m c).thr)).sum

/-- F and P at a tick. -/
def State.floorAt (s : State) (t : Tick) : Nat × Nat :=
  ((s.regulator.floors.find? (fun c => decide (t < c.1))).map (·.2)).getD (s.regulator.floor, s.regulator.floorPcs)

/-- The check floor under a PLAN_RATE, with F and P at the command's doorbell tick, in units of 1/32 MB/s. -/
def State.checkFloor (s : State) (plan : Nat) (t : Tick) : Nat :=
  if plan = 0 then (s.floorAt t).1 else min (s.floorAt t).1 ((s.floorAt t).2 * rateFloor (plan - 1) * 16)

/-- The first guarantee that fails R444: its number, the sum and the floor. -/
def State.exceeded (s : State) (m : Map Budget) (plan : Nat) (t : Tick) : Option (Nat × Nat × Nat) :=
  if s.checkFloor plan t < 32 * sumBw m then some (1, sumBw m, s.checkFloor plan t / 32)
  else if 256 < sumCru m then some (2, sumCru m, 256)
  else if 32 < sumThr m then some (3, sumThr m, 32)
  else none

/-- The result of a refusal. -/
def exceededResult (x : Nat × Nat × Nat) : Nat := packBytes [(0, 1, x.1), (4, 4, x.2.1), (8, 4, x.2.2)]

/-- The end of the present window. -/
def State.windowEnd (s : State) : Tick :=
  let w := 4000 * s.regulator.length
  (s.regulator.opened / w + 1) * w

/-- The tick at which the first window that begins now or later begins (R445): the present one where it begins at this tick, also one of
an odd length that follows REG_WINDOW. -/
def State.nextWindowTick (s : State) : Tick :=
  let w := 4000 * s.regulator.length
  if s.now ≤ s.regulator.opened then s.regulator.opened else (s.now + w - 1) / w * w

/-- Entry `c` of a BUDGET_SET buffer in a set. -/
def putBudget (b : List Byte) (m : Map Budget) (c : Nat) : Map Budget :=
  if bufNat b (8 * c + 7) 1 % 2 = 1 then m
  else Map.set budgetCold m c ⟨bufNat b (8 * c) 4, bufNat b (8 * c + 4) 2, bufNat b (8 * c + 6) 1⟩

/-- Every value of the buffer is in its range; the bits of byte 7 above KEEP are reserved. -/
def budgetBufferOk (b : List Byte) : Bool :=
  budgetClasses.all (fun c =>
    decide (bufNat b (8 * c + 7) 1 < 2) &&
      (bufNat b (8 * c + 7) 1 == 1 ||
        decide (bufNat b (8 * c) 4 ≤ 4096000 ∧ bufNat b (8 * c + 4) 2 ≤ 256 ∧ bufNat b (8 * c + 6) 1 ≤ 32)))

/-! ### Window boundaries (R446, R447) -/

/-- K of R446. -/
def scaleK (floor g : Nat) : Nat := if floor < 32 * g then 1024 * floor / (32 * g) else 1024

/-- The memory fraction of a thermal level in sixteenths (R564). -/
def memoryFraction (level : Nat) : Nat := if level < 2 then 16 else if level = 2 then 14 else if level = 3 then 12 else 8

/-- K takes a value at a boundary (R447). -/
def State.setK (s : State) (k g : Nat) : State :=
  let old := s.f rgScaleK
  let t := s.setFs [(rgScaleK, k), (rgStatusScaled, b2n (decide (k < 1024)))]
  let data := s.regulator.floor / 32 % 2 ^ 22 + 2 ^ 22 * (g % 2 ^ 22) + 2 ^ 44 * k
  if k = old then t
  else if old = 1024 then
    (((t.setF rgStatusBreach 1).bump rgBreachCount 16).report
      { pre := .rg, code := 0x01, severity := 1, vector := some 5, data := data }).pulseSource 0x404
  else (t.report { pre := .rg, code := 0x02, severity := 0, data := data }).pulseSource 0x404

/-- The accounting of the window that ends: its sectors and demotions are those of the last window, and the charges start again. -/
def State.closeWindow (s : State) : State :=
  let g := s.regulator
  ({ s with regulator := { g with last := g.present, present := [], demotedNow := 0 },
            pcs := s.pcs.map (fun (p : Nat × Pc) => (p.1, { p.2 with charged := [] })) }).setF rgDemoted (g.demotedNow % 2 ^ 15)

/-- A set waits whose effective tick has come. -/
def Regulator.due (g : Regulator) (t : Tick) : Bool := g.pendingAt.any (fun p => decide (p ≤ t))

/-- The set that waits takes effect at once where its effective tick is the start of the present window (R445: a window that begins at
the tick at which the check ends). -/
def State.takeSet (s : State) : State :=
  let g := s.regulator
  if g.due g.opened then
    let t := { s with regulator := { g with budgets := g.newest, pendingAt := none } }.setF rgCommitted (sumBw g.newest)
    if s.quenched then t else t.setK (scaleK g.floor (sumBw g.newest)) (sumBw g.newest)
  else s

/-- BUDGET_SET (R444, R445): one set, wholly accepted or wholly refused. -/
def State.setBudgets (s : State) (e : Sqe) (b : List Byte) : State :=
  if !budgetBufferOk b then s.done e stBadParam 0
  else
    let m := budgetClasses.foldl (putBudget b) s.regulator.newest
    match s.exceeded m (s.f rgCfgPlanRate) e.tick with
    | some x => s.done e stGuaranteeExceeded (exceededResult x)
    | none =>
      let t := { s with regulator := { s.regulator with newest := m, pendingAt := some s.nextWindowTick } }
      t.takeSet.done e stOk (packBytes [(0, 8, s.nextWindowTick), (8, 4, sumBw m)])

def execBudgetSet (e : Sqe) (h : HostRead) (s : State) : Host.Outcome State Fault Refusal :=
  runCommand 0x200 e s (fun s =>
    if !e.indirect || e.paramLen != 120 then s.done e stBadLength 0
    else
      match h with
      | .badRequest => s.done e stBadParam 0
      | .noCompletion => s.done e stTimeout 0
      | .data b => if b.length = 120 then s.setBudgets e b else s.done e stBadLength 0)

/-- The next window opens: the set that waits takes effect, and the window's length and span follow (R445, R448). It opened at the last
boundary of the old length. -/
def State.openWindow (s : State) : State :=
  let g := s.regulator
  let w := s.eff rgCfgWindow
  let start := s.now / (4000 * g.length) * (4000 * g.length)
  let set := if g.due start then g.newest else g.budgets
  ({ s with regulator := { g with budgets := set, pendingAt := if g.due start then none else g.pendingAt, length := w, span := w - start / 4000 % w,
                                  opened := start,
                                  fraction := if s.quenched then g.fraction else memoryFraction (s.f thStatusLevel) } }).setF rgCommitted (sumBw set)

/-- REG_WINDOW_BOUNDARY: device time reaches the end of the window. While quenched, F and K keep their values (R442). -/
def execRegWindowBoundary (s : State) : Host.Outcome State Fault Refusal :=
  let t := (s.reach s.windowEnd).closeWindow.openWindow.syncFloor
  let g := sumBw t.regulator.budgets
  if s.quenched then .next t else .next (t.setK (scaleK t.regulator.floor g) g)

/-! ### Commands (R448) -/

/-- BUDGET_GET. -/
def execBudgetGet (e : Sqe) (s : State) : Host.Outcome State Fault Refusal :=
  runCommand 0x201 e s (fun s =>
    let c := e.par 16 1
    let b := s.budget c
    if 14 < c then s.done e stBadParam 0
    else s.done e stOk (packBytes [(0, 4, b.bw), (4, 2, b.cru), (6, 1, b.thr), (8, 4, s.scaledSectors c), (12, 2, s.headHeld c),
      (14, 2, s.classThreads c), (16, 8, Map.get (fun _ => 0) s.regulator.last c)]))

/-- REG_STATUS. -/
def execRegStatus (e : Sqe) (s : State) : Host.Outcome State Fault Refusal :=
  runCommand 0x202 e s (fun s =>
    s.done e stOk (packBytes [(0, 4, s.regulator.floor / 32), (4, 4, s.f rgCommitted), (8, 2, s.f rgScaleK),
      (10, 1, s.f rgStatusScaled + 2 * s.f rgStatusBreach), (12, 2, s.eff rgCfgWindow), (14, 1, s.f rgCfgPlanRate), (16, 2, s.f rgDemoted)]))

/-- REG_WINDOW: the present window runs to its end. -/
def execRegWindow (e : Sqe) (s : State) : Host.Outcome State Fault Refusal :=
  runCommand 0x208 e s (fun s =>
    if e.par 16 2 < 1 ∨ 1000 < e.par 16 2 then s.done e stBadParam 0 else (s.setF rgCfgWindow (e.par 16 2)).done e stOk 0)

/-- REG_PLAN. -/
def execRegPlan (e : Sqe) (s : State) : Host.Outcome State Fault Refusal :=
  runCommand 0x209 e s (fun s =>
    if 3 < e.par 16 1 then s.done e stBadParam 0
    else
      match s.exceeded s.regulator.newest (e.par 16 1) e.tick with
      | some x => s.done e stGuaranteeExceeded (exceededResult x)
      | none => (s.setF rgCfgPlanRate (e.par 16 1)).done e stOk 0)

end Sys2Proof.Machine
end

