-- ==== Sys2Proof/Machine/Placement.lean ====
section
/-!
DEFINITION. Marver's epochs: tiers, engines and settings, and the placement commands (R280, R286, R287, R294 to R298, R307).
-/
namespace Sys2Proof.Machine

/-! ### Moves at an epoch boundary (R297) -/

/-- The counts of the last epoch of a resident node. -/
def countsOf (l : List NodeCount) (n : Node) : Option NodeCount := l.find? (fun c => c.table == n.table && c.node == n.node)

/-- A home node is now reached from another partition alone, so that it lies in the slice of the wrong engine (R296). -/
def movedPart (l : List NodeCount) (n : Node) : Bool :=
  match n.part, (countsOf l n).bind (·.part) with
  | some p, some q => p != q
  | _, _ => false

/-- Resident nodes with their counts. A pinned home node whose partition has changed goes to that partition's slice (R296, R300). -/
def State.ageNodes (s : State) (l : List NodeCount) : List Node :=
  s.marver.nodes.map (fun n =>
    let a := ((countsOf l n).map (·.accesses)).getD 0
    let part := if n.pinned ≠ 0 ∧ movedPart l n = true then (countsOf l n).bind (·.part) else n.part
    { n with accesses := a, part := part, low := if 2 * a < s.tierMin n.part then min (n.low + 1) 15 else 0 })

/-- A node leaves its tier: too few accesses for too long, unless its table is RESIDENT and the tier has room; a slice that no longer takes
nodes; another partition; or a table that no longer exists or wants no replication. A pinned node is not demoted (R300). -/
def State.leavesTier (s : State) (counts : List NodeCount) (aged : List Node) (n : Node) : Bool :=
  (decide (s.eff mvCfg2DemoteEpochs ≤ n.low) && n.pinned == 0 &&
      (!s.isResident n.table || decide (s.tierRoom n.table n.part ≤ (s.tierOf aged n.table n.part).length))) ||
    (match n.part with
     | none => s.noRepl n.table && n.pinned == 0
     | some p => !s.sliceTakes (s.homeSlice n.table p)) ||
    (n.pinned == 0 && movedPart counts n) || (s.table n.table).isNone

/-- Nodes displaced by a shrink of a tier: those with the fewest accesses leave, a pinned node last. -/
def State.shrinkTiers (s : State) (l : List Node) : List Node :=
  (sortBy (fun (a b : Node) => decide (b.pinned = 0 ∧ a.pinned ≠ 0) || ((a.pinned == 0) == (b.pinned == 0) && decide (b.accesses ≤ a.accesses))) l).foldl
    (fun kept n => if (s.tierOf kept n.table n.part).length < s.tierRoom n.table n.part then kept ++ [n] else kept) []

/-- Candidates in the order of admission: RESIDENT tables first, then more accesses first. A node of the home tier that is now reached from
several partitions is a candidate for the replicated tier. -/
def State.candidates (s : State) (l : List NodeCount) (kept : List Node) : List NodeCount :=
  let cs := l.filter (fun c => decide (s.tierMin c.part ≤ c.accesses) && (s.table c.table).isSome &&
    !kept.any (fun n => n.table == c.table && n.node == c.node && (n.part.isNone || c.part.isSome)) &&
    (match c.part with
     | none => !s.noRepl c.table
     | some p => s.sliceTakes (s.homeSlice c.table p)))
  sortBy (fun a b =>
    (s.isResident a.table && !s.isResident b.table) || (s.isResident a.table == s.isResident b.table && decide (b.accesses ≤ a.accesses))) cs

/-- Moves so far: the resident nodes, lines promoted and displaced, and lines left of the budget. -/
structure Moves where
  nodes : List Node
  promoted : Nat
  displaced : Nat
  budget : Nat
  deriving DecidableEq, Repr

/-- Admit one candidate: into free room, or in place of a node with fewer accesses. A replicated node counts 64 times. A node that comes from
the home tier stays pinned (R300). -/
def State.admitNode (s : State) (m : Moves) (c : NodeCount) : Moves :=
  let cost := if c.part.isNone then 64 else 1
  let rest := m.nodes.filter (fun n => !(n.table == c.table && n.node == c.node))
  let tier := s.tierOf rest c.table c.part
  let pinned := ((m.nodes.find? (fun n => n.table == c.table && n.node == c.node)).map (·.pinned)).getD 0
  let new : Node := ⟨c.table, c.node, c.part, c.accesses, 0, pinned⟩
  if m.budget < cost then m
  else if tier.length < s.tierRoom c.table c.part then { m with nodes := rest ++ [new], promoted := m.promoted + 1, budget := m.budget - cost }
  else
    match fewest (tier.filter (fun n => n.pinned == 0)) with
    | none => m
    | some v =>
      if v.accesses < c.accesses then
        ⟨rest.erase v ++ [new], m.promoted + 1, m.displaced + 1, m.budget - cost⟩
      else m

/-- The moves of one boundary. While the device is quenched Marver makes none (R568). -/
def State.moveNodes (s : State) (l : List NodeCount) : State :=
  if s.quenched then s.setFs [(mvPromoted, 0), (mvDemoted, 0)] else
  let aged := s.ageNodes l
  let kept := s.shrinkTiers (aged.filter (fun n => !s.leavesTier l aged n))
  let m := (s.candidates l kept).foldl s.admitNode ⟨kept, 0, 0, s.eff mvCfg2MoveBudget * 16384⟩
  (s.setNodes m.nodes).setFs [(mvPromoted, m.promoted), (mvDemoted, aged.length - kept.length + m.displaced)]

/-! ### Engines, counters and settings (R294, R298, R307) -/

/-- A setting that waits for the boundary. -/
def State.applySetting (s : State) : EpochSetting → State
  | .tune hm rm de sh em th mb et => s.setFs [(mvCfgHomeMin, hm), (mvCfgReplMin, rm), (mvCfg2DemoteEpochs, de), (mvCfg2ReplShare, sh),
      (mvCfg2EMin, em), (mvCfg2ThermExclEn, b2n th), (mvCfg2MoveBudget, mb), (mvCfg3EngTarget, et)]
  | .hint n lo hi r nr =>
    match s.table n with
    | none => s
    | some t => s.putTable n (some { t with engMin := lo, engMax := hi, resident := r, noRepl := nr })

/-- The number of engines of a table (R294), from the operations of the epoch before the one that begins. -/
def State.enginesFor (s : State) (t : Table) : Nat :=
  let per := 1000 * s.eff mvCfg3EngTarget
  max t.engMin (min (min t.engMax 64) ((t.opsIn (s.marver.epoch - 1) + per - 1) / per))

/-- DRAM reads of a table in the epoch before the one that begins. -/
def State.dramReads (s : State) (n : Nat) : Nat :=
  ((s.marver.accesses.filter (fun a => a.table == n && a.epoch + 1 == s.marver.epoch)).map (·.dram)).sum

/-- The counts of an epoch close, and the engines and written-back counters of each table follow. Partitions whose move is complete are
forgotten (R295), and so are counts of epochs before the last. -/
def State.closeEpoch (s : State) : State :=
  let tables := s.tables.map (fun (p : Nat × Option Table) => (p.1, p.2.map (fun t =>
    { t with engNext := s.enginesFor t, ops := t.ops.filter (fun (o : Nat × Nat) => decide (s.marver.epoch ≤ o.1 + 1)),
             moved := t.moved.filter (fun m => !s.tableSettled p.1 m.1), readsLast := s.dramReads p.1, writtenBack := t.counters })))
  { s with tables := tables }

/-- Benches that the tables' engines need and that do not run are woken (R128), but not while quenched. -/
def State.wantBenches (s : State) : State :=
  if s.quenched then s else
  let most := (s.liveTables.map (fun p => p.2.engNext)).foldl max 1
  let need := if s.liveTables.isEmpty then [] else s.usableEngines.take most
  { s with dom := { s.dom with waking := need.foldl (fun m n => if s.engineRuns n then m else setBit m (21 + n / 8)) s.dom.waking } }

/-- A placement epoch begins: its number, and the room of the table tiers under the area sums of now (R287). -/
def State.beginEpoch (s : State) (n : Nat) : State :=
  let t := s.reach (n * 4000000)
  { t with marver := { t.marver with epoch := n, tierLines := t.tierLines, dropped := t.f igSliceMark } }

/-- The number of the epoch that begins: the one device time stands in, where its boundary has not been acted on, or the next. -/
def State.nextEpoch (s : State) : Nat := if s.marver.epoch < s.now / 4000000 then s.now / 4000000 else s.now / 4000000 + 1

/-- The benches without a table or a thread throughout the epoch that ends, and those with one at the start of the new epoch (R126). -/
def State.noteBenches (s : State) : State :=
  { s with marver := { s.marver with idleBenches := maskOf 8 (fun b => !bitOf s.marver.givenBenches b && !bitOf s.busyBenches b),
                                     givenBenches := s.busyBenches } }

/-- EPOCH_BOUNDARY (R280): device time reaches the boundary; settings, counts, moves, engines and the figures of the last epoch. An operation
that reads nothing in DRAM holds its thread for a time that the model does not show, so that the peak of busy threads is a free value from
the most that were seen at once upwards (log entry 24). -/
def execEpochBoundary (x : EpochInput) (s : State) : Host.Outcome State Fault Refusal :=
  if s.halted then .next s
  else
    let z := s.beginEpoch s.nextEpoch
    let a := z.marver.settings.foldl State.applySetting z
    let b := ({ a with marver := { a.marver with settings := [] } }).syncPools
    let c := ((b.closeEpoch.moveNodes (nodeCounts b.marver.accesses (b.marver.epoch - 1))).wantBenches.movePartitions (fun _ _ => true)).noteBenches
    let k := c.fresh
    let d := k.2.setFs [(teQueuePeak, min 1024 c.marver.queuePeak), (teQueueEngine, c.marver.queueEngine),
      (teThreadsPeak, min 2048 c.marver.threadPeak + Config.freeValue k.1 % (2049 - min 2048 c.marver.threadPeak)), (cdSharedBusy, x.sharedBusy % 2 ^ 32),
      (cdPrivBusy, x.privBusy % 2 ^ 32), (cdConflict, min (c.f cdConflict + x.conflicts) (2 ^ 32 - 1))]
    .next { d with marver := { d.marver with queuePeak := 0, queueEngine := 0, threadPeak := d.threadsHeld,
                                             accesses := d.marver.accesses.filter (fun a => decide (d.marver.epoch ≤ a.epoch)) } }

/-! ### Commands (R286, R307) -/

/-- MEM_SPLIT (R286). -/
def execMemSplit (e : Sqe) (s : State) : Host.Outcome State Fault Refusal :=
  runCommand 0x1C0 e s (fun s =>
    let t := e.par 16 4
    if s.largestT < t then s.done e stBadParam 0
    else if t * unitRows < s.f mvTableUsedRows then s.done e stNotPermitted 0
    else if s.poolRows - t * unitRows < s.poolDemand then s.done e stPoolExhausted 0
    else
      let a := { s with marver := { s.marver with splits := s.marver.splits ++ [(e.tick, s.poolBlocks)] } }
      let u := (a.setF mvSplitTUnits t).syncPools
      u.done e stOk (packBytes [(0, 8, e.tick), (8, 8, u.f qmPoolLimit)]))

/-- PLACEMENT_INFO. -/
def execPlacementInfo (e : Sqe) (s : State) : Host.Outcome State Fault Refusal :=
  runCommand 0x1C1 e s (fun s =>
    s.done e stOk (packBytes [(0, 2, s.f mvSplitTUnits), (2, 4, s.f mvTableUsedRows), (6, 4, s.f qmPoolLimit / 2 ^ 20),
      (10, 1, s.f mvStatusEligible), (11, 1, s.f mvStatusOut), (12, 2, s.f mvRetiredBanks), (14, 4, s.marver.tierLines / 16),
      (18, 4, 2 * s.marver.head.length), (22, 2, s.f mvSpreadMin)]))

/-- The engines that serve a table's partitions. -/
def State.enginesServing (s : State) (t : Table) : Nat := distinct ((List.range 64).map (s.servingEngine t))

/-- A table's entry of TIER_REPORT. -/
def State.tierEntry (s : State) (n : Nat) : List Byte :=
  match s.table n with
  | none => leBytes 32 0
  | some t =>
    let mine := s.marver.nodes.filter (fun m => m.table == n)
    let repl := (mine.filter (fun m => m.part.isNone)).length
    leBytes 4 repl ++ leBytes 4 (mine.length - repl + 64 * t.stashLines) ++ leBytes 4 t.rowsHeld ++ leBytes 1 (s.enginesServing t) ++ leBytes 3 0 ++
      leBytes 8 (t.opsIn (s.marver.epoch - 1)) ++ leBytes 8 t.readsLast

/-- TIER_REPORT. -/
def execTierReport (e : Sqe) (s : State) : Host.Outcome State Fault Refusal :=
  runCommand 0x1C2 e s (fun s =>
    if e.par 16 8 % 16 ≠ 0 then s.done e stBadParam 0
    else (s.emitHost (.hostWrite (e.par 16 8) ((List.range 256).flatMap s.tierEntry))).done e stOk 0)

/-- A setting waits for the next boundary. -/
def State.addSetting (s : State) (x : EpochSetting) : State :=
  { s with marver := { s.marver with settings := s.marver.settings ++ [x] } }

/-- MV_TUNE. -/
def execMvTune (e : Sqe) (s : State) : Host.Outcome State Fault Refusal :=
  runCommand 0x1C4 e s (fun s =>
    let de := e.par 20 1
    let em := e.par 22 1
    let et := e.par 26 2
    if e.par 16 2 = 0 ∨ e.par 18 2 = 0 ∨ de < 1 ∨ 15 < de ∨ 12 < e.par 21 1 ∨ em < 33 ∨ 64 < em ∨ et < 1 ∨ 46 < et then s.done e stBadParam 0
    else (s.addSetting (.tune (e.par 16 2) (e.par 18 2) de (e.par 21 1) em (e.bit 23 0) (e.par 24 2) et)).done e stOk 0)

/-- MV_TABLE_HINT. -/
def execMvTableHint (e : Sqe) (s : State) : Host.Outcome State Fault Refusal :=
  runCommand 0x1C5 e s (fun s =>
    let lo := e.par 17 1
    let hi := e.par 18 1
    if lo < 1 ∨ hi < lo ∨ 64 < hi then s.done e stBadParam 0
    else if (s.table (e.par 16 1)).isNone then s.done e stNoSuchObject 0
    else (s.addSetting (.hint (e.par 16 1) lo hi (e.bit 19 0) (e.bit 19 1))).done e stOk 0)

end Sys2Proof.Machine
end

