-- ==== Sys2Proof/Machine/Reports.lean ====
section
/-!
DEFINITION. The reports that both the rings and the sideband carry: identity, health, power and error-log entries
(R486, R495, R612).
-/
namespace Sys2Proof.Machine

/-- The two ASCII characters of a prefix, first character in the low byte (R612). -/
def prefixCode : LogPrefix → Nat
  | .av => 0x41 + 256 * 0x56 | .bm => 0x42 + 256 * 0x4D | .dv => 0x44 + 256 * 0x56 | .fx => 0x46 + 256 * 0x58
  | .fz => 0x46 + 256 * 0x5A | .hc => 0x48 + 256 * 0x43 | .ig => 0x49 + 256 * 0x47 | .mc => 0x4D + 256 * 0x43
  | .mv => 0x4D + 256 * 0x56 | .pl => 0x50 + 256 * 0x4C | .qm => 0x51 + 256 * 0x4D | .rg => 0x52 + 256 * 0x47
  | .rl => 0x52 + 256 * 0x4C | .sb => 0x53 + 256 * 0x42 | .sv => 0x53 + 256 * 0x56 | .tc => 0x54 + 256 * 0x43
  | .th => 0x54 + 256 * 0x48

/-- The 32 bytes of an entry (R612). FLAGS: severity in bits 1:0, ALERT in bit 2. -/
def LogEntry.bytes (n : LogEntry) : List Byte :=
  leBytes 4 n.seq ++ leBytes 8 n.tick ++ leBytes 2 (prefixCode n.pre) ++ leBytes 1 n.code ++
    leBytes 1 (n.severity % 4 + (if n.severity = 3 then 4 else 0)) ++ leBytes 1 n.unitKind ++ leBytes 1 n.unit ++
    leBytes 1 n.sub ++ leBytes 1 n.rep ++ leBytes 4 n.object ++ leBytes 8 n.data

/-- Entries held at or after a sequence number, oldest first; 0 names the oldest held (R495, R599). -/
def State.entriesFrom (s : State) (seq : Nat) : List LogEntry := s.log.reverse.filter (fun n => decide (seq ≤ n.seq))

/-- The value of DEV_STATUS (R114). -/
def State.devStatus (s : State) : Nat :=
  s.f devStatusStage + 16 * s.f devStatusPcieReady + 32 * s.f devStatusFwRunning + 64 * s.f devStatusDpReady +
    128 * s.f devStatusStackFault + 256 * s.f devStatusRwaDenied + 512 * s.f devStatusReportValid

/-- The value of DEV_RESET_CAUSE (R115). -/
def State.devResetCause (s : State) : Nat :=
  s.f devResetCauseCause + 2 ^ 8 * s.f devResetCauseHeld + 2 ^ 9 * s.f devResetCauseQuiesceIncomplete +
    2 ^ 10 * s.f devResetCauseFwReused + 2 ^ 16 * s.f devResetCauseCount

/-- The pseudo-channels that wait for a full reset: named themselves, or of a named controller or layer. -/
def State.pendingPcs (s : State) : Nat :=
  maskOf 64 (fun n => bitOf (s.f tcCulletPendPc) n || bitOf (s.f tcCulletPendMc) (n / 4) ||
    bitOf (s.f tcCulletPendLayer) (s.layerOf n - 1))

/-- The cullet map holds the units out of service and those that CULLET_ADD has entered and that leave service at the next full reset
(R579). -/
def State.mapPcs (s : State) : Nat := s.f tcCulletPc ||| s.pendingPcs
def State.mapMcs (s : State) : Nat := s.f tcCulletMiscMc ||| s.f tcCulletPendMc
def State.mapSlices (s : State) : Nat := s.f tcCulletSlice ||| s.f tcCulletPendSlice
def State.mapLayers (s : State) : Nat := s.f tcCulletLayer ||| s.f tcCulletPendLayer

/-- Units in the cullet map (R495, R498). -/
def State.culletUnits (s : State) : Nat :=
  popcount 64 (s.f tcCulletEng) + popcount 8 (s.f tcCulletMiscBench) + popcount 16 s.mapMcs + popcount 16 (s.f tcCulletPort) +
    popcount 8 (s.f tcCulletMiscQms) + popcount 64 s.mapSlices + popcount 64 s.mapPcs + popcount 16 s.mapLayers

/-- Temperature of the hottest layer, signed in 1/64 °C. -/
def State.hottestTemp (s : State) : Nat := toTwos 16 (s.layer (s.f thStatusHottest)).temp

/-- Result bytes of DEV_IDENTIFY (R495). -/
def State.identity (s : State) : Nat :=
  packBytes [(0, 2, s.deviceId), (2, 1, s.grade),
    (3, 1, b2n s.isEs + 2 * s.f fzCloseVendor + 4 * s.f fzCloseCustomer), (4, 8, s.serial),
    (12, 4, Config.romAndPatch (if s.trust.patchOk then s.latchedWord 3 else 0)),
    (16, 4, (s.runningImage.map (·.version)).getD 0), (20, 1, s.f devStackFound - 1)]

/-- Result bytes of DEV_HEALTH (R495). -/
def State.health (s : State) : Nat :=
  packBytes [(0, 4, s.devStatus), (4, 4, s.devResetCause), (8, 1, s.f thStatusLevel), (9, 1, s.f thStatusHottest),
    (10, 2, s.hottestTemp), (12, 4, s.logWritten),
    (16, 1, b2n s.quenched + 2 * b2n (bitOf (s.f thStatusSources) 1) + 4 * s.f elStatusSvExpired +
      8 * s.f plClkStatusRefclkLost + 16 * s.f rgStatusScaled),
    (18, 2, maskOf 16 s.portActive), (20, 2, s.culletUnits)]

/-- Result bytes of POWER_INFO (R495). The power estimate is an input: its value is what the block's own estimate
gives. -/
def State.power (s : State) (mW : Nat) : Nat :=
  packBytes [(0, 4, mW), (4, 7, s.f plPwrOn), (11, 1, s.f teBenchPowered), (12, 2, maskOf 16 s.portHot),
    (14, 2, maskOf 16 s.portWarm), (16, 2, maskOf 16 s.portBanked),
    (18, 1, (if s.pcie.d3hot then 3 else 0) + 4 * b2n s.pcie.linkL1), (19, 1, s.f devStatusStage)]

end Sys2Proof.Machine
end

