-- ==== Sys2Proof/Machine/SelfTest.lean ====
section
/-!
DEFINITION. Self-test, the cullet map and calibration (R494, R498, R574 to R593).
-/
namespace Sys2Proof.Machine

/-! ### Units -/

/-- Code of a unit kind (R498, R575), and the kind of a code. -/
def kindNumber : UnitKind → Nat
  | .engine => 0 | .bench => 1 | .controller => 2 | .portCore => 3 | .qmSlice => 4

def kindFrom : Nat → Option UnitKind
  | 0 => some .engine | 1 => some .bench | 2 => some .controller | 3 => some .portCore | 4 => some .qmSlice | _ => none

/-- Units of a kind. -/
def unitsOf : UnitKind → Nat
  | .engine => 64 | .bench => 8 | .controller => 16 | .portCore => 16 | .qmSlice => 8

/-- Unit kind in an error-log entry. -/
def kindLog : UnitKind → Nat
  | .engine => 3 | .bench => 12 | .controller => 11 | .portCore => 5 | .qmSlice => 4

/-- The cullet-map register of a kind. -/
def kindFld : UnitKind → Fld
  | .engine => tcCulletEng | .bench => tcCulletMiscBench | .controller => tcCulletMiscMc | .portCore => tcCulletPort | .qmSlice => tcCulletMiscQms

/-- A unit is in the cullet map. -/
def State.unitCulled (s : State) (k : UnitKind) (u : Nat) : Bool := bitOf (s.f (kindFld k)) u

/-! ### Leaving service (R578 to R582, R424) -/

/-- A mirrored table keeps one copy while fewer than two layers are in service (R424). -/
def State.noteLayers (s : State) : State :=
  if 2 ≤ s.layersInService then s
  else { s with tables := s.tables.map (fun (p : Nat × Option Table) => (p.1, p.2.map (fun t => { t with holes := t.holes || t.mirror }))) }

/-- A pseudo-channel is culled while the device runs (R582): its queued writes are discarded, and its rows read as uncorrectable. -/
def State.cullPc (s : State) (n : Nat) : State :=
  if !s.pcLive n then s
  else
    let a := (s.setPc n (pcCold n)).setFs [(tcCulletPc, setBit (s.f tcCulletPc) n), (mcPcStatusState n, 3), (mcPcStatusCalHold n, 0),
      (mcPcStatusDrain n, 0)]
    let tables : Map (Option Table) := a.tables.map (fun (p : Nat × Option Table) =>
      (p.1, p.2.map (fun (t : Table) => { t with lostPcs := setBit t.lostPcs n, renewed := [] })))
    let b := ({ a with marver := { a.marver with culledRun := setBit a.marver.culledRun n }, tables := tables }).syncPools.syncFloor.noteLayers.renewRows
    b.report { pre := .tc, code := 0x03, severity := 2, vector := some 0, unitKind := 1, unit := n }

/-- An engine leaves service. -/
def State.cullEngine (s : State) (n : Nat) : State :=
  (s.setFs [(tcCulletEng, setBit (s.f tcCulletEng) n), (teEngines, clearBit (s.f teEngines) n)]).leaveEngine n

/-- A bench leaves service with its eight engines, and its power domain is closed by force (R126, R131). -/
def State.cullBench (s : State) (b : Nat) : State :=
  let t := (List.range 8).foldl (fun t i => t.cullEngine (8 * b + i)) s
  (t.closeDomains (2 ^ (21 + b)) (2 ^ (22 + b))).setFs [(tcCulletMiscBench, setBit (t.f tcCulletMiscBench) b),
    (teBenchRunning, clearBit (t.f teBenchRunning) b)]

/-- A port core leaves service: its port is stopped with a notice (R218), its lane group is closed by force, and no command trains it. R219
lists no reason for this stop, so the notice's is a free value (log entry 48). -/
def State.cullPort (s : State) (p : Nat) : State :=
  let t := s.fresh.2.stopPort p (1 + Sys2Proof.Config.freeValue s.fresh.1 % 5) false
  ((t.closeDomains (2 ^ (3 + p)) (2 ^ (4 + p))).setF tcCulletPort (setBit (t.f tcCulletPort) p)).settlePorts

/-- A memory controller leaves service with its four pseudo-channels; the domain of its pair is closed by force once the pair has none
left (R126, R131). -/
def State.cullMc (s : State) (m : Nat) : State :=
  let t := (List.range 4).foldl (fun t j => t.cullPc (4 * m + j)) (s.setF tcCulletMiscMc (setBit (s.f tcCulletMiscMc) m))
  if t.domainCulled (35 + m / 2) then t.closeDomains (2 ^ (35 + m / 2)) 0 else t

/-- A unit leaves service at once. -/
def State.cullUnit (s : State) (k : UnitKind) (u : Nat) : State :=
  match k with
  | .engine => s.cullEngine u
  | .bench => s.cullBench u
  | .controller => s.cullMc u
  | .portCore => s.cullPort u
  | .qmSlice => s.setF tcCulletMiscQms (setBit (s.f tcCulletMiscQms) u)

/-! ### BIST on command (R575, R577, R578) -/

/-- The lowest unit of a mask. -/
def lowestUnit (m : Nat) : Option Nat := (List.range 64).find? (fun u => bitOf m u)

/-- A memory controller goes out of service: its write queues drain and its pseudo-channels enter self-refresh. One that the row guard
still holds up goes on draining (R299). -/
def State.holdMc (s : State) (m : Nat) : State :=
  (List.range 4).foldl (fun t j =>
    let n := 4 * m + j
    if t.pcLive n then
      let u := t.drainPc n
      let v := { u with test := { u.test with pcBist := setBit u.test.pcBist n } }
      if v.pcDrained n then (v.closeRows n).setF (mcPcStatusState n) 2 else v
    else t) s

/-- It comes back. -/
def State.releaseMc (s : State) (m : Nat) : State :=
  (List.range 4).foldl (fun t j =>
    let n := 4 * m + j
    ({ t with test := { t.test with pcBist := clearBit t.test.pcBist n } }).wakePc n) s

/-- The next unit of a job is taken out of service: one memory controller is tested at a time. -/
def State.nextTest (s : State) (j : BistJob) : State :=
  match j.kind, lowestUnit j.todo with
  | .controller, some m => s.holdMc m
  | _, _ => s

/-- TC_STATUS follows the jobs. -/
def State.syncBist (s : State) : State :=
  match s.test.jobs with
  | [] => s.setFs [(tcStatusBistBusy, 0), (tcStatusBistKind, 0)]
  | j :: _ => s.setFs [(tcStatusBistBusy, 1), (tcStatusBistKind, kindNumber j.kind)]

/-- A job ends when every unit has been tested. -/
def State.settleJob (s : State) (j : BistJob) : State :=
  if j.todo ≠ 0 then { s with test := { s.test with jobs := s.test.jobs ++ [j] } }
  else
    (s.setFs [(tcBistLastFailed, popcount 64 j.failed % 256), (tcBistLastTested, j.tested % 256)]).complete j.ring j.tag stOk
      (packBytes [(0, 8, j.failed), (8, 8, j.skipped)])

/-- BIST_RUN (R498). -/
def execBistRun (e : Sqe) (s : State) : Host.Outcome State Fault Refusal :=
  runCommand 0x280 e s (fun s =>
    let mask := e.par 20 8
    match kindFrom (e.par 16 1) with
    | none => s.done e stBadParam 0
    | some k =>
      let skipped := mask &&& s.f (kindFld k)
      let todo := mask - skipped
      if 2 ^ unitsOf k ≤ mask then s.done e stBadParam 0
      else if k = .portCore ∧ (List.range 16).any (fun p => bitOf todo p && !(s.port p).byCommand) = true then s.done e stNotPermitted 0
      else
        let j : BistJob := ⟨e.ring, e.tag, k, todo, 0, skipped, 0⟩
        ((s.nextTest j).settleJob j).syncBist)

/-- Engines of a unit: itself, or the eight of a bench. -/
def unitEngines : UnitKind → Nat → List Nat
  | .engine, u => [u]
  | .bench, u => (List.range 8).map (fun i => 8 * u + i)
  | _, _ => []

/-- The doorbell tick of the BIST_RUN of a job. -/
def State.jobTick (s : State) (j : BistJob) : Tick := (((s.ring j.ring).live.find? (fun l => l.tag == j.tag && l.opcode == 0x280)).map (·.tick)).getD s.now

/-- A queue-manager slice holds an operation: an ENQ in assembly stamped before the slice's queues moved (R239, R577). -/
def State.sliceBusy (s : State) (u : Nat) (t : Tick) : Bool :=
  let slice := fun (q : Nat) => ((List.range 8).map (fun i => (q + i) % 8)).find? (fun n => !bitOf (s.f tcCulletMiscQms) n)
  (List.range 16).any (fun p => (s.port p).assembly.any (fun r => decide (r.tick < t) && slice r.object == some u))

/-- A unit is out of service and its test can run: a controller has drained, a queue-manager slice holds no operation, and the engines of a
unit are those taken out next, serve no partition and hold no operation (R577). -/
def State.testReady (s : State) (k : UnitKind) (u : Nat) (t : Tick) : Bool :=
  if k = .controller then (List.range 4).all (fun j => s.pcDrained (4 * u + j))
  else if k = .qmSlice then !s.sliceBusy u t
  else (unitEngines k u).all (fun n => bitOf s.enginesOut n && (s.engineQueue n).isEmpty &&
    s.liveTables.all (fun t => (List.range 64).all (fun p => s.servingEngine t.2 p != n)))

/-- A unit that has passed comes back into service: a controller at once, engines once their microcode is reloaded. -/
def State.unitPassed (s : State) (k : UnitKind) (u : Nat) : State :=
  { s with test := { s.test with reloading := (unitEngines k u).foldl setBit s.test.reloading } }

/-- BIST_UNIT_DONE (R577, R578). A test in progress is paused by a quench (R492). A unit that has been culled since the command started is
skipped. -/
def execBistUnitDone (k : UnitKind) (u : Nat) (pass : Bool) (s : State) : Host.Outcome State Fault Refusal :=
  match s.test.jobs.find? (fun j => j.kind == k && bitOf j.todo u) with
  | none => .next s
  | some j =>
    if s.quenched || s.halted then .next s
    else if s.unitCulled k u then
      let c := { s with test := { s.test with jobs := s.test.jobs.erase j } }
      let j' := { j with todo := clearBit j.todo u, skipped := setBit j.skipped u }
      .next ((c.nextTest j').settleJob j').syncBist
    else if !s.testReady k u (s.jobTick j) then .next s
    else
      let a := { s with test := { s.test with jobs := s.test.jobs.erase j } }
      let b := if k = .controller then a.releaseMc u else a
      let c := if pass then b.unitPassed k u
        else (b.cullUnit k u).report { pre := .tc, code := 0x01, severity := 1, vector := some 0, unitKind := kindLog k, unit := u }
      let j' := { j with todo := clearBit j.todo u, failed := if pass then j.failed else setBit j.failed u, tested := j.tested + 1 }
      .next ((c.nextTest j').settleJob j').syncBist

/-! ### The cullet map (R498, R579) -/

/-- The 64 bytes of CULLET_GET. -/
def State.culletBytes (s : State) : List Byte :=
  leBytes 8 (s.f tcCulletEng) ++ leBytes 1 (s.f tcCulletMiscBench) ++ leBytes 1 0 ++ leBytes 2 s.mapMcs ++
    leBytes 2 (s.f tcCulletPort) ++ leBytes 1 (s.f tcCulletMiscQms) ++ leBytes 1 0 ++ leBytes 8 s.mapSlices ++
    leBytes 8 s.mapPcs ++ leBytes 2 s.mapLayers ++ leBytes 30 0

/-- CULLET_GET. -/
def execCulletGet (e : Sqe) (s : State) : Host.Outcome State Fault Refusal :=
  runCommand 0x281 e s (fun s =>
    if e.par 16 8 % 16 ≠ 0 then s.done e stBadParam 0
    else (s.emitHost (.hostWrite (e.par 16 8) s.culletBytes)).done e stOk (packBytes [(0, 2, s.culletUnits)]))

/-- The map of CULLET_ADD names only units of this grade, and its reserved bytes are 0. -/
def State.culletMapOk (s : State) (b : List Byte) : Bool :=
  b.length == 64 && bufNat b 9 1 == 0 && bufNat b 15 1 == 0 && bufNat b 34 30 == 0 && decide (bufNat b 32 2 < 2 ^ s.dies)

/-- A unit entered by CULLET_ADD. -/
def State.noteAdded (s : State) (kind u : Nat) : State := s.report { pre := .tc, code := 0x05, severity := 1, unitKind := kind, unit := u }

/-- Units of one kind that leave service at once. -/
def State.addUnits (s : State) (k : UnitKind) (new : Nat) : State :=
  (List.range (unitsOf k)).foldl (fun t u => if bitOf new u then (t.cullUnit k u).noteAdded (kindLog k) u else t) s

/-- Units of one kind that wait for the next full reset. `base` is the number of the first. -/
def State.addPending (s : State) (pend : Fld) (kind base n new : Nat) : State :=
  (List.range n).foldl (fun t u => if bitOf new u then (t.setF pend (setBit (t.f pend) u)).noteAdded kind (base + u) else t) s

/-- The units that a mask adds to a map. -/
def newIn (w mask map : Nat) : Nat := maskOf w (fun u => bitOf mask u && !bitOf map u)

/-- The units of a map of CULLET_ADD that are not yet in the cullet map: engines, benches, controllers, port cores, queue-manager slices,
slices, pseudo-channels, layers. -/
def State.newUnits (s : State) (b : List Byte) : List Nat :=
  [newIn 64 (bufNat b 0 8) (s.f tcCulletEng), newIn 8 (bufNat b 8 1) (s.f tcCulletMiscBench), newIn 16 (bufNat b 10 2) s.mapMcs,
    newIn 16 (bufNat b 12 2) (s.f tcCulletPort), newIn 8 (bufNat b 14 1) (s.f tcCulletMiscQms), newIn 64 (bufNat b 16 8) s.mapSlices,
    newIn 64 (bufNat b 24 8) s.mapPcs, newIn 16 (bufNat b 32 2) s.mapLayers]

/-- Every unit of a map is added. -/
def State.addMap (s : State) (b : List Byte) : State :=
  let new := fun i => (s.newUnits b).getD i 0
  let a := (s.addUnits .bench (new 1)).addUnits .engine (new 0)
  let c := (a.addUnits .portCore (new 3)).addUnits .qmSlice (new 4)
  let d := (c.addPending tcCulletPendMc 11 0 16 (new 2)).addPending tcCulletPendSlice 2 0 64 (new 5)
  (d.addPending tcCulletPendPc 1 0 64 (new 6)).addPending tcCulletPendLayer 9 1 16 (new 7)

/-- The units of the map would leave no engine or no queue-manager slice in service. -/
def State.takesLast (s t : State) : Bool := (t.qmGone && !s.qmGone) || (t.enginesGone && !s.enginesGone)

/-- CULLET_ADD: a host read that fails ends the command (R471). One that takes the last engine or slice waits for the requests stamped before
its doorbell, which are served (R46, R581). The units newly added are those by which the map grows, an
engine culled with its bench and a pseudo-channel that leaves with its controller or layer among them. -/
def execCulletAdd (e : Sqe) (h : HostRead) (s : State) : Host.Outcome State Fault Refusal :=
  runCommand 0x282 e s (fun s =>
    match h with
    | .badRequest => s.done e stBadParam 0
    | .noCompletion => s.done e stTimeout 0
    | .data b =>
      if !s.culletMapOk b then s.done e stBadParam 0
      else
        let t := s.addMap b
        if s.takesLast t && !s.servedBefore e.tick then s
        else t.done e stOk (packBytes [(0, 2, t.culletUnits - s.culletUnits)]))

/-! ### Spare TSVs and delays (R396, R584, R588) -/

/-- Positions marked failed in group `g` of PCn. -/
def State.spares (s : State) (n g : Nat) : List Nat := Map.get (fun _ => []) s.test.spares (3 * n + g)

/-- TC_SPARES.IN_USE. -/
def State.sparesInUse (s : State) : Nat := (s.test.spares.map (fun (p : Nat × List Nat) => p.2.length)).sum

/-- Mark a position failed. `none` where its group would need a third. -/
def State.markTsv (s : State) (n g pos : Nat) : Option State :=
  let l := s.spares n g
  if l.contains pos then some s
  else if 2 ≤ l.length then none
  else
    let t := { s with test := { s.test with spares := Map.set (fun _ => []) s.test.spares (3 * n + g) (l ++ [pos]) } }
    some (((t.setF tcSparesInUse t.sparesInUse).bump tcSparesRuntime 16).report
      { pre := .tc, code := 0x02, severity := 0, unitKind := 1, unit := n })

/-- Mark several positions of a pseudo-channel; `none` where one cannot be. -/
def State.markTsvs (s : State) (n : Nat) : List (Nat × Nat) → Option State
  | [] => some s
  | (g, p) :: r => if 2 < g ∨ 33 < p then s.markTsvs n r else (s.markTsv n g p).bind (fun t => t.markTsvs n r)

/-- A pseudo-channel that calibration cannot keep is culled (R588). -/
def State.cullByCalibration (s : State) (n : Nat) : State := ((s.endHold n).bump tcCalFailCulled 7).cullPc n

/-- The delay fields of a pseudo-channel relative to its register block, and their widths (R405). -/
def delayFields : List (Nat × Nat) :=
  [(fld 0x20 0, 12), (fld 0x24 0, 12), (fld 0x28 0, 12), (fld 0x2C 0, 6)] ++
    (List.range 9).flatMap (fun i => [(fld (0x30 + 4 * i) 0, 6), (fld (0x30 + 4 * i) 8, 6)])

/-- Write one delay field. -/
def State.setDelay (s : State) (n off v : Nat) : State :=
  match delayFields.find? (fun d => d.1 == off) with
  | none => s
  | some d => s.setF (fld (mcPcBase n) 0 + off) (v % 2 ^ d.2)

/-- A delay moved towards a new value by at most 4 fine steps (R397, R588). -/
def nearStep (old new : Int) : Int := max (old - 4) (min (old + 4) new)

/-- The delay fields of a hold (R588): each lane's delay, its base with its offset, moves by at most 4 fine steps, and so does
each base. The read return latency is no lane's delay and stays. `l` are the centres found. -/
def State.centreDelays (s : State) (n : Nat) (l : List (Nat × Nat)) : List (Nat × Nat) :=
  let old := fun (k : Nat) => s.f (fld (mcPcBase n) 0 + k)
  let want := fun (k : Nat) => ((l.find? (fun x => x.1 == k)).map (·.2)).getD (old k)
  let base := fun (k : Nat) => (min (max (nearStep (old k) (want k)) 0) 4095 : Int)
  let lane := fun (b k : Nat) =>
    let was := (old b : Int) + ofTwos 6 (old k)
    let new := (want b : Int) + ofTwos 6 (want k)
    (k, toTwos 6 (max (-32) (min 31 (nearStep was new - base b))))
  [(fld 0x20 0, (base (fld 0x20 0)).toNat), (fld 0x24 0, (base (fld 0x24 0)).toNat), (fld 0x28 0, (base (fld 0x28 0)).toNat)] ++
    (List.range 9).flatMap (fun i => [lane (fld 0x24 0) (fld (0x30 + 4 * i) 0), lane (fld 0x28 0) (fld (0x30 + 4 * i) 8)])

/-- Write several. -/
def State.setDelays (s : State) (n : Nat) (l : List (Nat × Nat)) : State := l.foldl (fun t x => t.setDelay n x.1 x.2) s

/-! ### Rolling recalibration (R587 to R589) -/

/-- The pseudo-channel can be held now. -/
def State.canHold (s : State) (n : Nat) : Bool := s.pcLive n && !s.pcAsleep n && !bitOf s.test.pcBist n

/-- Temperature of its layer. -/
def State.pcTemp (s : State) (n : Nat) : Int := (s.layer (s.layerOf n)).temp

/-- Its layer has moved by more than TEMP_STEP since its own last hold. -/
def State.drifted (s : State) (n : Nat) : Bool :=
  match s.test.holdTemps.find? (fun p => p.1 == n) with
  | none => false
  | some p => decide (64 * s.eff tcCalCfgTempStep < (s.pcTemp n - p.2).natAbs)

/-- The pseudo-channels in number order after the one last held. -/
def State.holdOrder (s : State) : List Nat :=
  match s.test.lastHeld with
  | none => List.range 64
  | some l => (List.range 64).map (fun k => (l + 1 + k) % 64)

/-- The pseudo-channel of the next hold. -/
def State.nextHold (s : State) : Option Nat :=
  match s.holdOrder.find? (fun n => s.canHold n && s.drifted n) with
  | some n => some n
  | none => s.holdOrder.find? s.canHold

/-- A hold begins: every open row is closed, and the round advances when the number order wraps. -/
def State.beginHold (s : State) (n : Nat) : State :=
  let wraps := match s.test.lastHeld with
    | none => false
    | some l => decide (n ≤ l)
  let a := ((s.wakePc n).closeRows n).setFs [(mcPcStatusCalHold n, 1), (tcStatusCalActive, 1), (tcStatusCalPc, n), (mvStatusCalActive, 1), (mvStatusCalPc, n)]
  let b := if wraps then a.bump tcCalCountRounds 16 else a
  { b with test := { b.test with lastHeld := some n, round := if wraps then b.test.round + 1 else b.test.round,
                                 holdTemps := Map.put n (s.pcTemp n) b.test.holdTemps } }

/-- CALIBRATION_HOLD (R587, R588): the next pseudo-channel is held; what was measured steers its spares and sets its delays. -/
def execCalibrationHold (x : CalInput) (s : State) : Host.Outcome State Fault Refusal :=
  if s.f tcCalCfgEn = 0 || s.on tcStatusCalActive || s.stackAsleep || s.quenched || s.pilot.phase != .running then .next s
  else
    match s.nextHold with
    | none => .next s
    | some n =>
      let t := s.beginHold n
      match t.markTsvs n x.failedTsvs with
      | none => .next (t.cullByCalibration n)
      | some u => if x.narrow then .next (u.cullByCalibration n) else .next (u.setDelays n (u.centreDelays n x.delays))

/-- CAL_CFG (R498). -/
def execCalCfg (e : Sqe) (s : State) : Host.Outcome State Fault Refusal :=
  runCommand 0x286 e s (fun s =>
    if e.par 18 2 = 0 then s.done e stBadParam 0
    else (s.setFs [(tcCalCfgEn, b2n (e.bit 16 0)), (tcCalCfgSpacing, e.par 18 2)]).done e stOk 0)

/-! ### The calibration image (R590, R591) -/

/-- Record of PCn. -/
def State.calRecord (s : State) (n : Nat) : List Byte :=
  let v := fun off => s.f (fld (mcPcBase n) 0 + off)
  let group := fun g => leBytes 1 ((s.spares n g).getD 0 0x3F) ++ leBytes 1 ((s.spares n g).getD 1 0x3F)
  leBytes 2 (v (fld 0x20 0)) ++ leBytes 2 (v (fld 0x24 0)) ++ leBytes 2 (v (fld 0x28 0)) ++ leBytes 1 (v (fld 0x2C 0)) ++ leBytes 1 0 ++
    (List.range 9).flatMap (fun i => leBytes 1 (v (fld (0x30 + 4 * i) 0)) ++ leBytes 1 (v (fld (0x30 + 4 * i) 8))) ++
    group 0 ++ group 1 ++ group 2

/-- Image of CAL_SAVE. -/
def State.calImage (s : State) : List Byte :=
  let body := leBytes 4 0x4C414331 ++ leBytes 2 1 ++ leBytes 1 s.grade ++ leBytes 1 64 ++ leBytes 8 s.serial ++ leBytes 8 s.now ++
    leBytes 8 (maskOf 64 s.pcLive) ++ (List.range 64).flatMap s.calRecord
  body ++ leBytes 4 (crc32 body)

/-- CAL_SAVE. -/
def execCalSave (e : Sqe) (s : State) : Host.Outcome State Fault Refusal :=
  runCommand 0x284 e s (fun s =>
    if e.par 16 8 % 16 ≠ 0 then s.done e stBadParam 0
    else (s.emitHost (.hostWrite (e.par 16 8) s.calImage)).done e stOk (packBytes [(0, 4, s.calImage.length), (4, 4, crc32 s.calImage)]))

/-- The delay fields of a record. -/
def recordDelays (r : List Byte) : List (Nat × Nat) :=
  [(fld 0x20 0, bufNat r 0 2), (fld 0x24 0, bufNat r 2 2), (fld 0x28 0, bufNat r 4 2), (fld 0x2C 0, bufNat r 6 1)] ++
    (List.range 9).flatMap (fun i => [(fld (0x30 + 4 * i) 0, bufNat r (8 + 2 * i) 1), (fld (0x30 + 4 * i) 8, bufNat r (9 + 2 * i) 1)])

/-- The failed positions of a record. -/
def recordTsvs (r : List Byte) : List (Nat × Nat) :=
  ((List.range 6).map (fun i => (i / 2, bufNat r (26 + i) 1))).filter (fun x => x.2 != 0x3F)

/-- One valid record is applied in a hold of its own, or skipped. -/
def State.restoreRecord (s : State) (n : Nat) (r : List Byte) : State × Bool :=
  if !s.pcLive n then (s.report { pre := .tc, code := 0x04, severity := 0, unitKind := 1, unit := n }, false)
  else
    match s.markTsvs n (recordTsvs r) with
    | none => (s.cullByCalibration n, false)
    | some t => ((((t.setDelays n (recordDelays r)).wakePc n).closeRows n).bump tcCalCountHolds 16, true)

/-- Every valid record of an image, and the mask of those restored. -/
def State.restoreAll (s : State) (b : List Byte) : State × Nat :=
  (List.range 64).foldl (fun x n =>
    if bitOf (bufNat b 24 8) n then
      let y := x.1.restoreRecord n ((b.drop (32 + 32 * n)).take 32)
      (y.1, if y.2 then x.2 + 2 ^ n else x.2)
    else x) (s, 0)

/-- CAL_RESTORE (R498, R591): it waits for a rolling hold, or for the BIST of the controller, of a pseudo-channel of its image (R589). -/
def execCalRestore (e : Sqe) (h : HostRead) (s : State) : Host.Outcome State Fault Refusal :=
  runCommand 0x285 e s (fun s =>
    match h with
    | .badRequest => s.done e stBadParam 0
    | .noCompletion => s.done e stTimeout 0
    | .data b =>
      if !e.indirect || e.paramLen != 2084 || b.length != 2084 then s.done e stBadLength 0
      else if crc32 (b.take 2080) ≠ bufNat b 2080 4 then s.done e stBadParam 0
      else if bufNat b 8 8 ≠ s.serial ∨ bufNat b 6 1 ≠ s.grade then s.done e stNotPermitted 0
      else
        if (List.range 64).any (fun n => bitOf (bufNat b 24 8) n && (s.on (mcPcStatusCalHold n) || bitOf s.test.pcBist n)) then s
        else
          let x := s.restoreAll b
          x.1.done e stOk (packBytes [(0, 8, x.2)]))

end Sys2Proof.Machine
end

