-- ==== Sys2Proof/Machine/Sideband.lean ====
section
/-!
DEFINITION. The sideband management bus (R594 to R610).
-/
namespace Sys2Proof.Machine

/-! ### As a target (R595 to R600) -/

/-- The S64 acknowledges its address: from the end of step 5, in every state after it (R595). -/
def State.sbAnswers (s : State) : Bool := !s.pilot.driversOff && s.pilot.phase != .off

/-- A byte not acknowledged under R597. -/
def State.sbRefuse (s : State) : State := (s.bump sbCountRefused 16).emit .sbNack

/-- The address bytes that begin a write and a read of the S64 (R594). -/
def State.sbWriteAddr (s : State) : Byte := BitVec.ofNat 8 (2 * s.f sbStatusAddr)
def State.sbReadAddr (s : State) : Byte := BitVec.ofNat 8 (2 * s.f sbStatusAddr + 1)

/-- The PEC of a read: the CRC-8 of R643 over every byte of the transaction, as SMBus defines it (R594). -/
def State.sbPec (s : State) (code : Nat) (b : List Byte) : Byte :=
  BitVec.ofNat 8 (crc8 (s.sbWriteAddr :: BitVec.ofNat 8 code :: s.sbReadAddr :: b))

/-- A read answered from one result formed when the command code is received (R598), with the PEC that follows where the
controller clocks one more byte (R597). An address that is not acknowledged gives no data. -/
def State.sbRead (s : State) (code : Nat) (b : List Byte) : State := if s.sbAnswers then s.emit (.sbData b (s.sbPec code b)) else s.emit .sbNack

/-- A Block Read begins with its byte count (R596). -/
def State.sbBlock (s : State) (code : Nat) (b : List Byte) : State := s.sbRead code (BitVec.ofNat 8 b.length :: b)

/-- STATUS, code 0x01 (R596): DEV_HEALTH result bytes. -/
def execStatus (s : State) : Host.Outcome State Fault Refusal := .next (s.sbBlock 0x01 (leBytes 24 s.health))

/-- IDENTITY, code 0x02 (R596): DEV_IDENTIFY result bytes; not acknowledged in safe hold (R623). -/
def execIdentity (s : State) : Host.Outcome State Fault Refusal :=
  if s.safeHold then .next s.sbRefuse else .next (s.sbBlock 0x02 (leBytes 24 s.identity))

/-- POWER, code 0x03 (R596): POWER_INFO result bytes; not acknowledged in safe hold (R623). -/
def execPower (mW : Nat) (s : State) : Host.Outcome State Fault Refusal :=
  if s.safeHold then .next s.sbRefuse else .next (s.sbBlock 0x03 (leBytes 24 (s.power mW)))

/-- The byte of LEVEL (R596). -/
def State.levelByte (s : State) : Nat := s.f thStatusLevel + 8 * b2n s.quenched + 16 * b2n s.alertAsserted

/-- LEVEL, code 0x08 (R596). -/
def execLevel (s : State) : Host.Outcome State Fault Refusal := .next (s.sbRead 0x08 (leBytes 1 s.levelByte))

/-- HOTTEST, code 0x09 (R596). -/
def execHottest (s : State) : Host.Outcome State Fault Refusal := .next (s.sbRead 0x09 (leBytes 2 s.hottestTemp))

/-- THERM_0, code 0x10 (R596). -/
def execTherm0 (s : State) : Host.Outcome State Fault Refusal := .next (s.sbBlock 0x10 (leBytes 24 (s.thermRead 0)))

/-- THERM_8, code 0x11 (R596). -/
def execTherm8 (s : State) : Host.Outcome State Fault Refusal := .next (s.sbBlock 0x11 (leBytes 24 (s.thermRead 8)))

/-- THERM_16, code 0x12 (R596). -/
def execTherm16 (s : State) : Host.Outcome State Fault Refusal := .next (s.sbBlock 0x12 (leBytes 24 (s.thermRead 16)))

/-- The data of a write of `n` bytes, and the PEC byte after them, if there is one. -/
def sbValue (w : SbWrite) (n : Nat) : Nat := bufNat w.bytes 0 n
def sbPecOf (w : SbWrite) (n : Nat) : Option Byte := (w.bytes.drop n).head?

/-- The PEC byte of a write is wrong. -/
def State.sbPecBad (s : State) (code : Nat) (w : SbWrite) (n : Nat) : Bool :=
  match sbPecOf w n with
  | none => false
  | some c => c.toNat != crc8 (s.sbWriteAddr :: BitVec.ofNat 8 code :: w.bytes.take n)

/-- A write takes effect only if its byte count is exact, any PEC is correct, and a required PEC was sent (R597). -/
def State.sbWriteOk (s : State) (code : Nat) (w : SbWrite) (n : Nat) : Bool :=
  (w.bytes.length == n && !s.on sbCfgPecRequired) || (w.bytes.length == n + 1 && !s.sbPecBad code w n)

/-- A write that fails R597 is discarded whole: a wrong PEC counts, and a byte that is wrong or one too many is not acknowledged. -/
def State.sbDiscard (s : State) (code : Nat) (w : SbWrite) (n : Nat) : State :=
  let t := if s.sbPecBad code w n then s.setF sbStatusPecErr 1 else s
  if s.sbPecBad code w n || decide (n + 1 < w.bytes.length) then t.sbRefuse else t

/-- ERRLOG_PTR_WRITE, code 0x20 (R599). -/
def execErrlogPtrWrite (w : SbWrite) (s : State) : Host.Outcome State Fault Refusal :=
  if !s.sbAnswers then .next (s.emit .sbNack)
  else if s.sbWriteOk 0x20 w 4 then .next (s.setF sbErrlogPtr (sbValue w 4))
  else .next (s.sbDiscard 0x20 w 4)

/-- ERRLOG_PTR_READ, code 0x20 (R596). -/
def execErrlogPtrRead (s : State) : Host.Outcome State Fault Refusal := .next (s.sbRead 0x20 (leBytes 4 (s.f sbErrlogPtr)))

/-- The entries of one ERRLOG block: as many whole entries as fit in 244 B (R599). -/
def State.sbEntries (s : State) : List LogEntry := (s.entriesFrom (s.f sbErrlogPtr)).take 7

/-- The sequence number after an ERRLOG block. -/
def State.sbNextSeq (s : State) : Nat := ((s.sbEntries.getLast?).map (fun n => nextSeq n.seq)).getD (s.f sbErrlogPtr)

/-- ERRLOG, code 0x21 (R599). The pointer advances only at the STOP of a read that ran to its end. -/
def execErrlog (completed : Bool) (s : State) : Host.Outcome State Fault Refusal :=
  let es := s.sbEntries
  let first := ((es.head?).map (·.seq)).getD (s.f sbErrlogPtr)
  let block := leBytes 4 first ++ leBytes 4 s.sbNextSeq ++ leBytes 1 es.length ++ leBytes 2 (min (s.f elLost) 65535) ++
    es.flatMap LogEntry.bytes
  if !s.sbAnswers then .next (s.emit .sbNack)
  else if completed then .next ((s.sbBlock 0x21 block).setF sbErrlogPtr s.sbNextSeq)
  else .next (s.sbBlock 0x21 block)

/-- QUENCH_WRITE, code 0x30 (R596, R600): the sideband's own source, held in SB_QUENCH.REQ. In safe hold, and until the
start-up has reached PCIE_READY, the request is held. -/
def execQuenchWrite (w : SbWrite) (s : State) : Host.Outcome State Fault Refusal :=
  if !s.sbAnswers then .next (s.emit .sbNack)
  else if !s.sbWriteOk 0x30 w 1 then .next (s.sbDiscard 0x30 w 1)
  else if 1 < sbValue w 1 then .next s.sbRefuse
  else
    let t := s.setF sbQuenchReq (sbValue w 1)
    if s.halted || s.pilot.phase != .running then .next t
    else if sbValue w 1 = 1 then .next (t.addSource 3)
    else .next (t.dropSource 3)

/-- QUENCH_READ, code 0x30 (R596): the quench sources byte. -/
def execQuenchRead (s : State) : Host.Outcome State Fault Refusal := .next (s.sbRead 0x30 (leBytes 1 (s.f thStatusSources)))

/-- ALERT_RESPONSE (R598): while the S64 asserts ALERT_N, it answers with its own address in bits 7:1. -/
def execAlertResponse (s : State) : Host.Outcome State Fault Refusal :=
  let b := leBytes 1 (2 * s.f sbStatusAddr)
  if s.alertAsserted && s.sbAnswers then .next (s.emit (.sbData b (BitVec.ofNat 8 (crc8 (0x19 :: b))))) else .next (s.emit .sbNack)

/-- UNLISTED_COMMAND_CODE (R597): the command code, or the first data byte of a write to a code without a write protocol,
is not acknowledged and counts. -/
def execUnlistedCommandCode (code : Nat) (write : Bool) (s : State) : Host.Outcome State Fault Refusal :=
  let listed := [0x01, 0x02, 0x03, 0x08, 0x09, 0x10, 0x11, 0x12, 0x20, 0x21, 0x30].contains code
  let writable := code == 0x20 || code == 0x30
  if listed && (!write || writable) then .next s
  else if s.sbAnswers then .next s.sbRefuse
  else .next (s.emit .sbNack)

/-! ### A line held low (R605, R606) -/

/-- SCL_TIMEOUT (R605): both lines are released and the protocol state is reset. -/
def execSclTimeout (s : State) : Host.Outcome State Fault Refusal :=
  let t := { s with sideband := { s.sideband with notifying := false, eepromBusy := false } }
  .next ((t.setF sbStatusSclTimeout 1).report
    { pre := .sb, code := 0x01, severity := 0, vector := if s.on sbStatusSclTimeout then none else some 7 })

/-- SDA_TIMEOUT (R605): with the controller role enabled, the bus is then cleared under R606. -/
def execSdaTimeout (s : State) : Host.Outcome State Fault Refusal :=
  let t := if s.on sbStatusCtlEn then { s with sideband := { s.sideband with clearing := true, clearTries := 0 } } else s
  .next ((t.setF sbStatusSdaTimeout 1).report
    { pre := .sb, code := 0x02, severity := 0, vector := if s.on sbStatusSdaTimeout then none else some 7 })

/-- BUS_CLEAR (R606): one round of up to nine pulses and STOP, which finds SDA high or still low. After the tenth
failure the S64 gives up. Only with CFG_SBCTL = 1 does it drive SCL. -/
def execBusClear (sdaHigh : Bool) (s : State) : Host.Outcome State Fault Refusal :=
  if !s.on sbStatusCtlEn || decide (10 ≤ s.sideband.clearTries) then .next s
  else if sdaHigh then
    .next (({ s with sideband := { s.sideband with clearing := false, clearTries := 0, eepromWanted := true } }).setF sbStatusSdaStuck 0)
  else if s.sideband.clearTries + 1 < 10 then
    .next (({ s with sideband := { s.sideband with clearing := true, clearTries := s.sideband.clearTries + 1 } }).setF sbStatusSdaStuck 1)
  else
    .next ((({ s with sideband := { s.sideband with clearing := false, clearTries := 10, notifying := false } }).setFs
      [(sbStatusSdaStuck, 1), (sbStatusClearGaveUp, 1), (sbStatusEepromResult, 6)]).report
        { pre := .sb, code := 0x03, severity := 1, vector := some 7 })

/-- SDA_SEEN_HIGH (R606): SDA_STUCK is cleared and the controller role resumes. -/
def execSdaSeenHigh (s : State) : Host.Outcome State Fault Refusal :=
  .next (({ s with sideband := { s.sideband with clearing := false, clearTries := 0 } }).setF sbStatusSdaStuck 0)

/-! ### Host Notify (R601, R602, R607) -/

/-- The controller role is enabled and the bus not stuck. -/
def State.sbController (s : State) : Bool := s.on sbStatusCtlEn && !s.on sbStatusSdaStuck

/-- Data low of a notification (R601). -/
def State.notifyLow (s : State) : Nat := s.levelByte + 32 * b2n s.sideband.newEntry

/-- R602: data-low bits 4:0 have changed, or bit 5 has become 1. -/
def State.notifyDue (s : State) : Bool :=
  s.levelByte != s.sideband.lastLow % 32 || (s.sideband.newEntry && decide (s.sideband.lastLow < 32))

/-- The bytes of a notification (R601). -/
def State.notifyBytes (s : State) : List Byte :=
  let b := leBytes 1 (2 * s.f sbStatusAddr) ++ leBytes 1 s.notifyLow ++ leBytes 1 s.sideband.notifyNumber
  if s.on sbHnCfgPec then b ++ leBytes 1 (crc8 (BitVec.ofNat 8 (2 * s.f sbHnCfgTarget) :: b)) else b

/-- ARBITRATION_LOST (R607): counted. -/
def State.arbLost (s : State) : State := s.bump sbCountArbLost 16

/-- A notification that failed: sent again after 10 ms, up to 3 times, then dropped and counted (R602). -/
def State.notifyFailed (s : State) : State :=
  if s.sideband.failures + 1 ≤ 3 then
    { s with sideband := { s.sideband with notifying := true, failures := s.sideband.failures + 1, arbRetries := 0 } }
  else
    ({ s with sideband := { s.sideband with notifying := false, failures := 0, arbRetries := 0, lastLow := s.notifyLow,
                                            notifyNumber := (s.sideband.notifyNumber + 1) % 256 } }).bump sbCount2HnDropped 8

/-- How one attempt to send a notification ends. A notification carries the state at the moment its first byte is sent. -/
def State.sendNotify (s : State) (r : BusResult) : State :=
  match r with
  | .acknowledged =>
    ({ s with sideband := { s.sideband with notifying := false, failures := 0, arbRetries := 0, lastLow := s.levelByte,
                                            newEntry := false, notifyNumber := (s.sideband.notifyNumber + 1) % 256 } }).bump
      sbCount2HnSent 16 |>.emit (.notify (s.f sbHnCfgTarget) s.notifyBytes)
  | .notAcknowledged => s.notifyFailed
  | .arbitrationLost =>
    let t := s.arbLost
    if s.sideband.arbRetries < 3 then
      { t with sideband := { t.sideband with notifying := true, arbRetries := s.sideband.arbRetries + 1 } }
    else (t.bump sbCount2ArbGiveup 8).notifyFailed

/-- HOST_NOTIFY (R602): a change of state, after the minimum gap, sends a Host Notify. -/
def execHostNotify (r : BusResult) (s : State) : Host.Outcome State Fault Refusal :=
  if s.sbController && s.on sbHnCfgEn && s.sbAnswers && !s.sideband.notifying && s.notifyDue then
    .next (s.sendNotify r)
  else .next s

/-- HOST_NOTIFY_RETRY (R602): 10 ms after a failed notification. -/
def execHostNotifyRetry (r : BusResult) (s : State) : Host.Outcome State Fault Refusal :=
  if s.sbController && s.sbAnswers && s.sideband.notifying && decide (0 < s.sideband.failures) then .next (s.sendNotify r)
  else .next s

/-! ### The boot EEPROM (R603, R604) -/

/-- The EEPROM contents are not applied: the reason, SB 0x04 and vector 7. -/
def State.eepromFail (s : State) (code : Nat) : State :=
  (({ s with sideband := { s.sideband with eepromBusy := false, arbRetries := 0 } }).setF sbStatusEepromResult code).report
    { pre := .sb, code := 0x04, severity := 0, vector := some 7, data := code }

/-- How an attempt to address the EEPROM ends: it answers, or arbitration is lost (R607). -/
def State.startEeprom (s : State) (r : BusResult) : State :=
  match r with
  | .acknowledged =>
    ({ s with sideband := { s.sideband with eepromWanted := false, eepromBusy := true, eepromRetry := false, arbRetries := 0 } }).emit
      .eepromRead
  | .notAcknowledged =>
    ({ s with sideband := { s.sideband with eepromWanted := false, eepromRetry := false } }).eepromFail 2
  | .arbitrationLost =>
    let t := s.arbLost
    if s.sideband.arbRetries < 3 then
      { t with sideband := { t.sideband with eepromRetry := true, arbRetries := s.sideband.arbRetries + 1 } }
    else
      (({ t with sideband := { t.sideband with eepromWanted := false, eepromRetry := false } }).bump sbCount2ArbGiveup 8).eepromFail 2

/-- EEPROM_READ (R603): after step 5, and after a bus clearing, with the controller role enabled. -/
def execEepromRead (r : BusResult) (s : State) : Host.Outcome State Fault Refusal :=
  if s.sbController && s.sideband.eepromWanted && !s.sideband.eepromRetry then .next (s.startEeprom r) else .next s

/-- ARBITRATION_RETRY (R607): after STOP and the bus-free time, the lost transaction starts again. -/
def execArbitrationRetry (r : BusResult) (s : State) : Host.Outcome State Fault Refusal :=
  if s.sideband.eepromRetry then .next (s.startEeprom r)
  else if s.sideband.notifying && decide (0 < s.sideband.arbRetries) then .next (s.sendNotify r)
  else .next s

/-- A WARN threshold of the EEPROM passes the checks of THERM_WARN_SET; 0 is the fused default. -/
def State.eepromWarnOk (s : State) (dram : Bool) (v : Nat) : Bool := v == 0 || s.warnOk dram v

/-- The check of the EEPROM contents that fails first (R604), or 1 for none. -/
def State.eepromCheck (s : State) (b : List Byte) : Nat :=
  if bufNat b 0 4 ≠ 0x42534C4F ∨ bufNat b 4 1 ≠ 1 ∨ 8 ≤ bufNat b 6 1 ∨ bufNat b 14 14 ≠ 0 then 3
  else if crc32 (b.take 28) ≠ bufNat b 28 4 then 4
  else if 2 < bufNat b 5 1 ∨ bufNat b 7 1 < 0x08 ∨ 0x77 < bufNat b 7 1 ∨ bufNat b 12 2 = 0 ∨
      s.eepromWarnOk true (bufNat b 8 2) = false ∨ s.eepromWarnOk false (bufNat b 10 2) = false then 5
  else 1

/-- EEPROM_READ_DONE (R604): applied as one set, or nothing. -/
def execEepromReadDone (a : EepromAnswer) (s : State) : Host.Outcome State Fault Refusal :=
  if !s.sideband.eepromBusy then .next s
  else
    match a with
    | .noAck => .next (s.eepromFail 2)
    | .bytes b =>
      if s.eepromCheck b ≠ 1 then .next (s.eepromFail (s.eepromCheck b))
      else
        .next (({ s with sideband := { s.sideband with eepromBusy := false } }).setFs
          [(sbStatusEepromResult, 1), (sbCfgCtlSpeed, bufNat b 5 1), (sbHnCfgEn, bufNat b 6 1 % 2),
           (sbHnCfgPec, bufNat b 6 1 / 2 % 2), (sbCfgPecRequired, bufNat b 6 1 / 4 % 2), (sbHnCfgTarget, bufNat b 7 1),
           (sbHnCfgMinGap, bufNat b 12 2),
           (thThrD0Warn, if bufNat b 8 2 = 0 then coldOf thThrD0Warn else bufNat b 8 2),
           (thThrB0Warn, if bufNat b 10 2 = 0 then coldOf thThrB0Warn else bufNat b 10 2)])

end Sys2Proof.Machine
end

