-- ==== Sys2Proof/Machine/Reset.lean ====
section
/-!
DEFINITION. Power, pins and the start of a reset (R58 to R69, R80, R83 to R85, R94 to R99, R105, R109, R110, R638, R639).
-/
namespace Sys2Proof.Machine

/-! ### What a full reset keeps (R105) -/

/-- Kept fields that describe tables, the table pool, retired banks or damaged tables: a clearing reset does not keep them. -/
def describesTables (k : Fld) : Bool :=
  k == mvSplitTUnits || k == mvTableUsedRows || k == mvPoolRows || k == mvRetiredBanks || k == teTablesCount ||
    (List.range 8).any (fun i => k == igTableDamaged i)

/-- The register file after a full reset: the Kept column (R21). -/
def keptRegs (clearing : Bool) (m : Map Nat) : Map Nat :=
  m.filter (fun (p : Nat × Nat) => keptOf p.1 && !(clearing && describesTables p.1))

/-- A table after a reset that holds DRAM: staged versions go, counters hold what was last written back, and what lay in the
Crucible is lost. -/
def Table.afterReset (t : Table) : Table :=
  { t with frozen := none, opened := none, image := none, frozenImage := none, olds := [], counters := t.writtenBack, badCopy := [], engMin := 1,
           engMax := 64, resident := false, noRepl := false, engNext := 1, serving := [], moved := [], ops := [], readsLast := 0 }

/-- The memory after a reset: the Crucible and the rows that calibration writes hold nothing of before. -/
def State.keptMem (s : State) : List Host.Cell := s.mem.filter (fun c => decide (c.1 < crucibleBase) && decide (1 < s.rowOf c.1))

/-- Pilot after a reset of a kind. -/
def Pilot.afterReset (p : Pilot) (kind : ResetKind) (internal held : Bool) : Pilot :=
  { p with phase := .resetHeld, kind := kind, internalHeld := internal, stackHold := true, safeCause := none, driversOff := true,
           sealed := held, svWatchdogArmed := false, completionsPosted := false, nextKind := none, readyTick := 0, next := 3,
           stepTick := 0, anvilOsc := true }

/-- Anvil after a reset: the fuse values stay until they are sensed anew; a clearing reset loses the firmware slots. -/
def Trust.afterReset (t : Trust) (clearing : Bool) : Trust :=
  { trustReset with latched := t.latched, latchedMarginal := t.latchedMarginal, latchedLocks := t.latchedLocks,
                    slot0 := if clearing then none else t.slot0, slot1 := if clearing then none else t.slot1,
                    marked := if clearing then none else t.marked }

/-- Marver after a reset: the region, the free-row lists, the table rows, the retired banks and the rows a reclaim has lost lie in DRAM. -/
def Marver.afterReset (m : Marver) (clearing : Bool) : Marver :=
  if clearing then marverReset
  else { marverReset with retired := m.retired, lostRows := m.lostRows, region := m.region, freeNext := m.freeNext, freed := m.freed,
                          tableRows := m.tableRows, tableTurn := m.tableTurn, regionMoved := m.regionMoved }

/-- The rows of every queue's blocks return to the buffer pool: no packet outlives a reset (R3, R277). -/
def State.freeQueues (s : State) : State := s.releasePlaces (s.queues.flatMap (fun (k : Nat × Queue) => k.2.places))

/-- The sideband after a reset: the bus clearing goes on, and notifications owed are still owed. -/
def Sideband.afterReset (b : Sideband) : Sideband :=
  { sidebandReset with lastLow := b.lastLow, newEntry := b.newEntry, clearing := b.clearing, clearTries := b.clearTries }

/-- The state after a full reset, its sources still in force (R83, R96, R99, R105). -/
def State.wipe (s : State) (kind : ResetKind) (internal held : Bool) : State :=
  let clearing := kind == .clearing
  let tables : Map (Option Table) := if clearing then [] else s.tables.map (fun (p : Nat × Option Table) => (p.1, p.2.map Table.afterReset))
  { State.reset with
    pending := s.pending
    out := s.out
    free := s.free
    time := { s.time with measured := false, ptmOpen := false }
    pilot := s.pilot.afterReset kind internal held
    regs := keptRegs clearing s.regs
    latches := s.latches.filter (fun (p : Nat × Nat) => p.1 == 0x20004 || keptOf (fld (p.1 - 4) 0))
    log := s.log
    logWritten := s.logWritten
    fuses := s.fuses
    trust := s.trust.afterReset clearing
    sideband := s.sideband.afterReset
    tables := tables
    commits := if held then s.commits else []
    commitLog := if clearing then [] else s.commitLog
    recoveredCommits := if clearing then [] else (if s.on devStatusReportValid then [] else s.recoveredCommits) ++ s.cancelled
    marver := s.freeQueues.marver.afterReset clearing
    mem := s.keptMem
    placed := s.placed
    integrity := (({ integrityReset with badWords := s.integrity.badWords, poisoned := s.integrity.poisoned }).keepBad
      (fun w => decide (8 * w < crucibleBase))) }

/-! ### Units that leave service at a full reset (R377, R579) -/

/-- Pseudo-channels enter the cullet map before the data path runs; those that were in service count for R103. -/
def State.cullAtReset (s : State) (mask : Nat) : State :=
  let new := maskOf 64 (fun n => bitOf mask n && s.pcLive n)
  let t := { s with pilot := { s.pilot with newlyCulled := s.pilot.newlyCulled ||| new } }
  t.setF tcCulletPc (t.f tcCulletPc ||| new)

/-- Every unit that waits, and every slice with the mark of R427, enters the map; an engine goes with its slice. -/
def State.enterPending (s : State) : State :=
  let slices := s.f tcCulletPendSlice ||| s.f igSliceMark
  (s.cullAtReset s.pendingPcs).setFs
    [(tcCulletSlice, s.f tcCulletSlice ||| slices), (tcCulletEng, s.f tcCulletEng ||| slices),
     (tcCulletMiscMc, s.f tcCulletMiscMc ||| s.f tcCulletPendMc), (tcCulletLayer, s.f tcCulletLayer ||| s.f tcCulletPendLayer),
     (tcCulletPendPc, 0), (tcCulletPendSlice, 0), (tcCulletPendMc, 0), (tcCulletPendLayer, 0)]

/-! ### The full reset (R83, R94, R98, R109, R115) -/

/-- The ports go quiet: after a notice with reason 2 under a commanded reset, without one otherwise (R219). -/
def State.resetPorts (s : State) (kind : ResetKind) : State :=
  (List.range 16).foldl (fun t p =>
    if kind == .uncommanded then (if t.linkState p = 0 then t else t.emit (.lanesIdle p))
    else (t.stopPort p 2 false).endNotice p) s

/-- A full reset. DRAM is held if the last completed start-up sealed the device region (R109), except by a clearing reset and where
VDDQ or VPP fell. The core PLLs lose their lock, PLL_TB does not (R123), Anvil runs on the oscillator (R133), and the spread that PL_SSC
asks for comes into force (R122). -/
def State.fullReset (s : State) (kind : ResetKind) (cause : Nat) (internal qInc lost : Bool) : State :=
  let held := kind != .clearing && s.pilot.sealed && !lost
  let a := (s.settleJournal.stopPulse.resetPorts kind).wipe kind internal held
  let t := { a with pilot := { a.pilot with ssc := s.f plSscMode } }
  let u := t.setFs [(devResetCauseCause, cause), (devResetCauseHeld, b2n held), (devResetCauseQuiesceIncomplete, b2n qInc),
    (devResetCauseFwReused, 0), (plClkStatusPllLock, s.f plClkStatusPllLock / 16 % 2 * 16)]
  (u.bump devResetCauseCount 16).enterPending

/-- A full reset can happen: not without VDD_AO, and not before a power-on has its clocks. A trip does not stop it: R59 bars the restart,
and R105 keeps the latch. -/
def State.resettable (s : State) : Bool :=
  s.pilot.phase != .off && (s.pilot.kind != .powerOn || s.pilot.phase == .ready || s.pilot.phase == .running)

/-! ### Power (R62 to R69) -/

/-- What VDD_AO leaves when it falls: the fuses as they are, and the levels on the pins. -/
def State.powerLost (s : State) (phase : BootPhase) : State :=
  let t := s.stopPulse
  { State.reset with
    pending := t.pending
    out := t.out
    free := t.free
    fuses := t.fuses
    pilot := { pilotReset with phase := phase, resetN := t.pilot.resetN, perstN := t.pilot.perstN, holdN := t.pilot.holdN } }

/-- VDD_AO_RISE (R69, R83): a power-on starts. -/
def execVddAoRise (s : State) : Host.Outcome State Fault Refusal :=
  if s.pilot.phase = .off then .next (s.powerLost .rails) else .next s

/-- VDD_AO_FALL (R69): everything held in Pilot is lost, and everything below it. -/
def execVddAoFall (s : State) : Host.Outcome State Fault Refusal := .next (s.powerLost .off)

/-- RAILS_IN_TOLERANCE (R67, R68). -/
def execRailsInTolerance (s : State) : Host.Outcome State Fault Refusal :=
  if s.pilot.phase = .off then .next s
  else if s.pilot.phase = .rails then .next { s with pilot := { s.pilot with railsLow := 0, phase := .refwait } }
  else .next ({ s with pilot := { s.pilot with railsLow := 0 } }).tryReady

/-- RAIL_CHECK_RETRY (R67): the check fails again, and the device stays in reset. -/
def execRailCheckRetry (s : State) : Host.Outcome State Fault Refusal := .next s

/-- RAIL_OUT_OF_RANGE (R68), by the order of R65. VDD_AO has its own command, and VPROG is no rail of a running device (R66). The banked
state is left by power-on and the reset pins alone (R139): there the rail is only noted, with the loss of the DRAM where it is VDDQ or VPP. -/
def execRailOutOfRange (rail : Nat) (s : State) : Host.Outcome State Fault Refusal :=
  if rail = 2 ∨ 8 < rail ∨ s.pilot.phase = .off then .next s
  else if s.banked then
    .next { s with pilot := { s.pilot with railsLow := setBit s.pilot.railsLow rail, sealed := s.pilot.sealed && !(rail == 6 || rail == 7) } }
  else if s.resettable then
    let t := s.fullReset .uncommanded 8 true false (rail == 6 || rail == 7)
    .next (({ t with pilot := { t.pilot with railsLow := setBit t.pilot.railsLow rail } }).report
      { pre := .pl, code := 0x02, severity := 3, vector := some 0, data := rail })
  else .next { s with pilot := { s.pilot with railsLow := setBit s.pilot.railsLow rail, phase := .rails } }

/-- STRAP_SAMPLE (R62, R63): once after VDD_AO rises. -/
def execStrapSample (refwait sbaddr sbctl bist : Nat) (s : State) : Host.Outcome State Fault Refusal :=
  if s.pilot.phase = .off ∨ s.pilot.strapsTaken = true then .next s
  else
    .next (({ s with pilot := { s.pilot with strapsTaken := true } }).setFs
      [(plStrapsRefwait, refwait % 8), (plStrapsSbaddr, sbaddr % 4), (plStrapsSbctl, sbctl % 2), (plStrapsBist, bist % 2),
       (sbStatusAddr, 0x4C + sbaddr % 4), (sbStatusCtlEn, sbctl % 2)])

/-- REFWAIT_EXPIRY (R63, R86 step 2). -/
def execRefwaitExpiry (s : State) : Host.Outcome State Fault Refusal :=
  if s.pilot.phase = .refwait ∧ s.pilot.strapsTaken = true then .next { s with pilot := { s.pilot with phase := .refclk } } else .next s

/-! ### Reset pins (R58, R80, R110) -/

/-- The level of a pin after its filter. -/
def State.setPin (s : State) (pin : ResetPin) (high : Bool) : State :=
  match pin with
  | .resetN => { s with pilot := { s.pilot with resetN := high } }
  | .perstN => { s with pilot := { s.pilot with perstN := high } }

/-- RESET_PIN_ASSERT: a low of at least 1 µs. -/
def execResetPinAssert (pin : ResetPin) (s : State) : Host.Outcome State Fault Refusal :=
  let t := s.setPin pin false
  if s.resettable then .next (t.fullReset .uncommanded (if pin = .resetN then 1 else 2) false false false) else .next t

/-- RESET_PIN_RELEASE: the start-up goes on with the later of the two. -/
def execResetPinRelease (pin : ResetPin) (s : State) : Host.Outcome State Fault Refusal := .next (s.setPin pin true).tryReady

/-! ### PCI Express resets (R84, R139, R623) -/

/-- The PCI Express port works: it has lost neither its power nor its reference, and the start-up has reached step 4. -/
def State.pcieAlive (s : State) : Bool := s.resettable && s.pilot.refclkOk && (s.pilot.phase == .ready || s.pilot.phase == .running)

/-- PCIE_HOT_RESET. -/
def execPcieHotReset (s : State) : Host.Outcome State Fault Refusal :=
  if s.pcieAlive then .next (s.fullReset .uncommanded 3 true false false) else .next s

/-- PCIE_FLR: a configuration request, which the device serves from PCIE_READY on. -/
def execPcieFlr (s : State) : Host.Outcome State Fault Refusal :=
  if s.pcieAlive && (s.on devStatusPcieReady || s.safeHold) then .next (s.fullReset .uncommanded 4 true false false) else .next s

/-- PCIE_LINK_DOWN: a loss of a link that was up. The link trains from the start of step 4 (R88), so it may be lost in start-up (R109). -/
def execPcieLinkDown (s : State) : Host.Outcome State Fault Refusal :=
  if s.pcieAlive && (s.pcie.linkUp || s.pilot.phase == .ready) then .next (s.fullReset .uncommanded 5 true false false) else .next s

/-- RESET_SOURCE_RELEASE (R98 step 2): an internal source releases; that of a rail only once every rail is back. -/
def execResetSourceRelease (s : State) : Host.Outcome State Fault Refusal :=
  if s.pilot.railsLow = 0 then .next ({ s with pilot := { s.pilot with internalHeld := false } }).tryReady else .next s

/-! ### Boundary scan (R638, R639) -/

/-- TAP_INSTRUCTION_LOAD: EXTEST, CLAMP, HIGHZ, EXTEST_PULSE and EXTEST_TRAIN reset the device until Test-Logic-Reset; in the banked state
they start no reset (R139), and hold the one that leaves it. A private
instruction acts as BYPASS once CUSTOMER_CLOSE is closed; before, what it does is not described. -/
def execTapInstructionLoad (ir : Nat) (s : State) : Host.Outcome State Fault Refusal :=
  let t := { s with pilot := { s.pilot with tapIr := ir % 256 } }
  if s.pilot.phase = .off then .next s
  else if [0x00, 0x03, 0x04, 0x05, 0x06].contains (ir % 256) then
    if s.resettable && !s.pilot.tapHeld && !s.banked then
      let u := t.fullReset .uncommanded 0xA false false false
      .next { u with pilot := { u.pilot with tapHeld := true } }
    else .next { t with pilot := { t.pilot with tapHeld := true } }
  else if 0x80 ≤ ir % 256 ∧ ir % 256 ≤ 0xFE ∧ s.on fzCloseCustomer = false then .refused .privateTapInstruction
  else .next t

/-- TAP_TEST_LOGIC_RESET: IDCODE is loaded, and a boundary-scan reset ends as if RESET_N had risen. -/
def execTapTestLogicReset (s : State) : Host.Outcome State Fault Refusal :=
  if s.pilot.phase = .off then .next s
  else .next ({ s with pilot := { s.pilot with tapIr := 1, tapHeld := false } }).tryReady

end Sys2Proof.Machine
end

