-- ==== Sys2Proof/Machine/Boot.lean ====
section
/-!
DEFINITION. The start-up and restart sequences: steps 4 to 11 of R86, steps 4 to 10 of R98, and what can go wrong in them (R87 to R92,
R106 to R112, R396, R411, R412, R524, R576).
-/
namespace Sys2Proof.Machine

/-! ### Fuses and Anvil (R524, R561, R603) -/

/-- A sensor takes its trim from its two words; a marginal one marks the sensor. -/
def State.trimSensors (s : State) : State :=
  (List.range s.sensorCount).foldl (fun t n =>
    t.setSensor n { t.sensor n with trimMarginal := t.marginalWord (896 + 2 * n) || t.marginalWord (897 + 2 * n) }) s

/-- Step 4 (R524): every fuse word is sensed and latched, and the sensors take their trim. -/
def State.senseStep (s : State) : State := (s.senseWords.trimSensors).setF devStackExpected (s.dies + 1)

/-- Step 5 (R90, R106, R524, R603): Anvil runs its boot ROM. The sideband's drivers work again at its end, the EEPROM read follows where
the strap asks for it, and Anvil sends heartbeats. -/
def State.anvilStep (s : State) (b : BootInput) : State :=
  let t := s.checkFuses b.patchOk
  ({ t with pilot := { t.pilot with driversOff := false, avBeat := t.now }, sideband := { t.sideband with eepromWanted := t.on sbStatusCtlEn } }).setFs
    [(elWdogAvAge, 0), (plPwrOn, setBit (clearBit earlyPower 43) 48), (plClkActive, setBit earlyClocks 31)]

/-! ### Stack discovery (R91, R92, R107, R108) -/

/-- Layers `k` and above and their pseudo-channels, as bits n of the layer n + 1 and of the pseudo-channels. -/
def State.layersFrom (s : State) (k : Nat) : Nat := maskOf 16 (fun i => decide (k ≤ i + 1 ∧ i < s.dies))
def State.pcsFrom (s : State) (k : Nat) : Nat := maskOf 64 (fun n => decide (k ≤ s.layerOf n))

/-- Layer `k` is the lowest that does not answer; above the layers of the grade, all have answered. Without the Crucible (layer 0)
or any DRAM layer there is a stack fault. -/
def State.discoveryEnds (s : State) (k : Nat) : State :=
  if k ≤ 1 then
    (s.setFs [(devStackFound, k), (devStatusStackFault, 1), (devStatusStage, 0xC)]).report
      { pre := .tc, code := 0x06, severity := 3, vector := some 0, data := k }
  else if s.dies < k then s.setF devStackFound (s.dies + 1)
  else
    let t := (s.cullAtReset (s.pcsFrom k)).setFs [(tcCulletLayer, s.f tcCulletLayer ||| s.layersFrom k), (devStackFound, k)]
    t.report { pre := .tc, code := 0x07, severity := 1, vector := some 0, unitKind := 9, unit := k, data := k }

/-- Step 6: the layers that answer, from the Crucible upwards. -/
def State.discover (s : State) (b : BootInput) : State := s.discoveryEnds (if b.crucible then b.layers + 1 else 0)

/-! ### Delays and steering (R396, R530, R584) -/

/-- The failed positions of a group of a pseudo-channel, from its word of TRIM_REPAIR. -/
def spareWord (w : Nat) : List Nat := [w % 64, w / 256 % 64].filter (fun p => p != 0x3F)

/-- The spare columns of each Crucible slice in service, as its two words of TRIM_REPAIR select them (R530, R585). -/
def State.spareColumns (s : State) : Map Nat :=
  ((List.range 64).filter (fun n => !bitOf (s.f tcCulletSlice) n)).filterMap (fun n =>
    let w := s.latchedWord (768 + 2 * n) + 2 ^ 32 * s.latchedWord (769 + 2 * n)
    if w = 0 then none else some (n, w))

/-- Step 7: the interface delays and the lane steering of every pseudo-channel that is not culled, and the spare columns of the slices. -/
def State.loadDelays (s : State) : State :=
  let live := (List.range 64).filter s.pcLive
  let a := live.foldl (fun t n =>
    let words := (List.range 8).map (fun i => t.latchedWord (64 + 8 * n + i))
    t.setDelays n ((delayFields.zipIdx).map (fun y => (y.1.1, Config.trimField words y.2)))) s
  let spares : Map (List Nat) := live.flatMap (fun n => (List.range 3).filterMap (fun g =>
    let l := spareWord (s.latchedWord (576 + 3 * n + g))
    if l.isEmpty then none else some (3 * n + g, l)))
  let c := { a with test := { a.test with spares := spares, columns := s.spareColumns } }
  c.setF tcSparesInUse c.sparesInUse

/-! ### The memories (R86 steps 8 and 9, R98 steps 8 and 9, R109, R111, R411, R412) -/

/-- The tables of before are lost: each is reported with code 2. -/
def State.loseTables (s : State) : State :=
  let lost := s.liveTables.map (fun (k : Nat × Table) => (⟨k.1, 2, k.2.number⟩ : Recovered))
  ({ s with recovered := s.recovered ++ lost, tables := [], commits := [] }).syncTables

/-- The fill of a restart after an uncommanded or a preserving reset reports every table as discarded (R68, R111): those are the decisions
of this restart. After power-on and after a clearing reset there is no table to report (R104). -/
def State.reportLost (s : State) : State :=
  if s.pilot.kind == .powerOn || s.pilot.kind == .clearing then s else s.setF devStatusReportValid 1

/-- Every pseudo-channel runs, or is culled. -/
def State.pcsRun (s : State) : State :=
  (List.range 64).foldl (fun t n => t.setF (mcPcStatusState n) (if t.pcLive n then 0 else 3)) s

/-- The fill of a memory ends; its duration is open. -/
def State.fillDone (s : State) : State :=
  let x := s.fresh
  x.2.setFs [(igStatusFillDone, 1), (igFillTime, Config.freeValue x.1 % 65536)]

/-- A pseudo-channel that raises a command-parity alert during the fill enters the cullet map. -/
def State.cullInFill (s : State) (bad : Nat) : State :=
  (List.range 64).foldl (fun t n =>
    if bitOf bad n && t.pcLive n then
      (t.cullAtReset (2 ^ n)).report { pre := .ig, code := 0x09, severity := 1, unitKind := 1, unit := n }
    else t) s

/-- Marver's registers of the memory division (R282, R284, R304). -/
def State.divide (s : State) : State :=
  (s.setFs [(mvRegionSize, s.regionMib), (mvRegionBasePc, (s.marver.region.head?).getD 0)]).syncPools.syncFloor

/-- Step 8: DRAM powers up or leaves self-refresh, on the layers that answer (R97, R108). -/
def State.releaseStack (s : State) : State := ({ s with pilot := { s.pilot with stackHold := false } }).pcsRun

/-- The fill activates each row once, rows 0 and 1 of each bank apart (R411). -/
def State.countFill (s : State) : State :=
  ((List.range 64).filter s.pcLive).foldl (fun t n => t.addF (mcPcAct n) (16 * (t.bankRows - 2)) (2 ^ 32 - 1)) s

/-- Step 9 of R86: every DRAM row and the Crucible are filled with zeros, and the device region is initialised. -/
def State.coldFill (s : State) (bad : Nat) : State :=
  let a := (s.loseTables.reportLost).cullInFill bad
  let live := (List.range 64).filter a.pcLive
  let b := { a with mem := [], placed := false, integrity := { a.integrity with badWords := [], poisoned := [] }, commitLog := [],
                    trust := { a.trust with slot0 := none, slot1 := none, marked := none },
                    marver := { marverReset with region := live.take 4 },
                    pilot := { a.pilot with newlyCulled := 0 } }
  let c := b.setFs ((mvSplitTUnits, b.defaultT) :: (List.range 8).map (fun i => (igTableDamaged i, 0)))
  c.pcsRun.countFill.divide.fillDone

/-- Step 9 of R98: the Crucible is filled, and DRAM stays as it was. -/
def State.heldFill (s : State) : State := s.divide.syncTables.fillDone

/-- The device region lies on pseudo-channels in service. -/
def State.regionLive (s : State) : Bool := s.marver.region.all s.pcLive

/-! ### Power-on BIST (R86 step 10, R576, R578) -/

/-- Units of a kind that fail. -/
def State.bistKind (s : State) (k : UnitKind) (bad : Nat) : State :=
  (List.range (unitsOf k)).foldl (fun t u =>
    if t.unitCulled k u then t
    else if bitOf bad u then
      ((((t.bump tcBistLastTested 8).bump tcBistLastFailed 8).cullUnit k u)).report { pre := .tc, code := 0x01, severity := 1, vector := some 0, unitKind := kindLog k, unit := u }
    else t.bump tcBistLastTested 8) s

/-- Step 10, where strapped: never on a full reset (R98). -/
def State.powerOnBist (s : State) (b : BootInput) : State :=
  if s.bistDue then
    ((((s.bistKind .bench b.bistBench).bistKind .engine b.bistEngine).bistKind .controller b.bistMc).bistKind .portCore b.bistPort).bistKind
      .qmSlice b.bistQms
  else s

/-! ### PCIE_READY (R81, R86 step 11, R98 step 10) -/

/-- Power domains that are on: all but the fuse macro, BIST where none is strapped, and those whose unit is culled. -/
def State.bootPower (s : State) : Nat :=
  maskOf 50 (fun d => d != 43 && (d != 46 || (s.pilot.kind == .powerOn && s.on plStrapsBist)) && !s.domainCulled d)

/-- Clock domains that the grade has (R124), but those of culled ports and benches, whose power domain is off (R126). -/
def State.bootClocks (s : State) : Nat :=
  maskOf 60 (fun d => (decide (d < 33 + s.dies) || decide (49 ≤ d)) &&
    !((decide (4 ≤ d ∧ d < 20) || decide (22 ≤ d ∧ d < 30)) && s.domainCulled (d - 1)))

/-- A quench source that is in force already begins its quench here. -/
def State.takeHolds (s : State) : State :=
  let t := if s.pilot.holdN then s else (s.setF thStatusHoldActive 1).addSource 1
  if t.on sbQuenchReq then t.addSource 3 else t

/-- Step 11: PCIE_READY. The start-up is complete: DRAM is sealed, unless it had no memory (R109). STAGE then awaits FW_LOAD, or shows a
stack fault. What speed and width the PCI Express link has agreed is not stated: free values of the range of HC_LINK (R478). -/
def State.reachReady (s : State) : State :=
  let a := { s with pilot := { s.pilot with phase := .running, readyTick := s.now,
                                            sealed := !s.on fzStatusBootFault && !s.on devStatusStackFault },
                    pcie := { s.pcie with linkUp := true }, marver := { s.marver with tierLines := s.tierLines },
                    regulator := { s.regulator with opened := s.now } }
  let b := a.takeHolds
  let x := b.fresh
  let y := x.2.fresh
  y.2.setFs ([(hcLinkSpeed, 1 + Config.freeValue x.1 % 4), (hcLinkWidth, 1 + Config.freeValue y.1 % 16),
      (plPwrOn, b.bootPower), (plClkActive, b.bootClocks), (teEngines, 2 ^ 64 - 1 - (b.f tcCulletEng &&& (2 ^ 64 - 1))),
      (teBenchPowered, b.liveBenches), (devBootTimeToReady, min ((s.now - s.pilot.stepTick) / 40000) 65535)] ++
    (List.range 16).map (fun m => (mcCtrlPolicy m, if b.grade = 0 then 1 else 0)) ++
    [(devStatusStage, if b.on devStatusStackFault then 0xC else 8), (devStatusPcieReady, 1)])

/-! ### The two sequences -/

/-- A step has ended and step `n` begins. At the quench level the sequence stops here (R112). -/
def State.toStep (s : State) (n : Nat) : State :=
  let t := { s with pilot := { s.pilot with next := n } }
  t.setF devStatusStage (if s.f thStatusLevel = 5 then 0xB else t.bootStage)

/-- Step 9: the fill, or the seal check of a held restart (R98, R111). -/
def State.fillStep (s : State) (held : Bool) (b : BootInput) : State :=
  if held && b.sealOk && s.regionLive then s.heldFill else s.coldFill b.fillBad

/-- One step of the sequence. Without memory steps 8 and 9 do nothing (R107), and with a boot fault steps 6 to 10 are skipped (R534). -/
def State.bootStep (s : State) (held : Bool) (b : BootInput) : State :=
  match s.pilot.next with
  | 4 => s.senseStep.toStep 5
  | 5 =>
    let t := s.anvilStep b
    t.toStep (if t.on fzStatusBootFault then 11 else 6)
  | 6 => (s.discover b).toStep 7
  | 7 => s.loadDelays.toStep 8
  | 8 => (if s.on devStatusStackFault then s else s.releaseStack).toStep 9
  | 9 =>
    let t := if s.on devStatusStackFault then s else s.fillStep held b
    t.toStep (if t.bistDue then 10 else 11)
  | 10 => (s.powerOnBist b).toStep 11
  | 11 => s.reachReady
  | _ => s

/-- The sequence goes on up to the step that the command names; at the quench level it stops (R112). -/
def State.startUp (s : State) (held : Bool) (b : BootInput) : State :=
  (List.range 8).foldl (fun t _ =>
    if t.pilot.phase != .ready || t.bootStopped || decide (b.stop < t.pilot.next) then t else t.bootStep held b) s

/-- A sequence can go on: clocks good, every source released, no trip, and neither banked nor in safe hold. -/
def State.mayBoot (s : State) : Bool := s.pilot.phase == .ready && !s.pilot.thermtrip && !s.halted && !s.bootStopped

/-- LAYER_DISCOVERY_TIMEOUT: a layer gives no answer within 0.4 ms, which ends step 6. -/
def execLayerDiscoveryTimeout (layer : Nat) (s : State) : Host.Outcome State Fault Refusal :=
  if s.mayBoot = true ∧ s.pilot.next = 6 ∧ layer ≤ s.dies then .next ((s.discoveryEnds layer).toStep 7) else .next s

/-- COLD_START_SEQUENCE: steps 4 to 11 of R86 after power-on, after a clearing reset, and after a reset that could not hold DRAM, up to
the step that the operand names. -/
def execColdStartSequence (b : BootInput) (s : State) : Host.Outcome State Fault Refusal :=
  if s.mayBoot = true ∧ s.on devResetCauseHeld = false then .next (s.startUp false b) else .next s

/-- HELD_RESTART_SEQUENCE: steps 4 to 10 of R98 after a reset with DRAM held, up to the step that the operand names in the numbers of R86
(step 10 of R98 is step 11). Step 3 is REFCLK_STARTUP_CHECK. -/
def execHeldRestartSequence (b : BootInput) (s : State) : Host.Outcome State Fault Refusal :=
  if s.mayBoot = true ∧ s.on devResetCauseHeld = true then .next (s.startUp true b) else .next s

end Sys2Proof.Machine
end

