-- ==== Sys2Proof/Machine/Firmware.lean ====
section
/-!
DEFINITION. The start of the service firmware, what it decides about tables, and DEV_RESET (R93, R100 to R104, R113, R366, R368, R499,
R545, R546, R580, R620).
-/
namespace Sys2Proof.Machine

/-! ### Tables after a held restart (R103) -/

/-- A table is discarded with a code. -/
def State.discardTable (s : State) (n code : Nat) (t : Table) : State :=
  let u := (s.putTable n none).clearDamaged n
  { u with recovered := u.recovered ++ [⟨n, code, t.number⟩] }

/-- A table is kept at its committed version, its journal slot clean. -/
def State.keepTable (s : State) (n code : Nat) (t : Table) : State :=
  let u := s.putTable n (some { t with journal := .clean, journalBad := false })
  { u with recovered := u.recovered ++ [⟨n, code, t.number⟩] }

/-- Every row of a mirrored table that lies on a culled pseudo-channel has its other copy on one in service. -/
def State.mirrorIntact (s : State) (n : Nat) (t : Table) : Bool :=
  t.mirror && !t.holes && (s.rowsOf n t.created).all (fun r => s.pcLive r.main.pc || ((r.mirror.map (fun m => s.pcLive m.pc)).getD false))

/-- The first row of R103 that applies to a table. -/
def State.decideTable (s : State) (n : Nat) (t : Table) : State :=
  if s.pilot.newlyCulled != 0 && !s.mirrorIntact n t then s.discardTable n 2 t
  else if t.journal == .cutting || t.journalBad then s.discardTable n 1 t
  else s.keepTable n (if s.pilot.kind == .uncommanded && t.kind == .counter then 3 else 0) t

/-- The record that a restart writes for a commit that the journal shows ARMED or CUTTING (R368): an EVENT commit that has fired and whose
images are still being built shows ARMED. -/
def State.logLost (s : State) (c : Commit) : State :=
  let serial := ((s.commitLog.head?).map (·.serial)).getD 0 + 1
  let blank : CommitRecord :=
    { serial := serial, mode := 0, outcome := 0, portsByMark := 0, marker := 0, armTick := 0, firstCut := 0, lastCut := 0,
      lowest := c.lowest, count := c.tables.length, version := 0 }
  match c.phase with
  | .building => if c.mode = .event then { s with commitLog := (({ blank with outcome := 4 } : CommitRecord) :: s.commitLog).take 458496 } else s
  | .armed => { s with commitLog := ({ blank with outcome := 4 } :: s.commitLog).take 458496 }
  | .due _ => { s with commitLog := ({ blank with outcome := 3 } :: s.commitLog).take 458496 }
  | .cutting => { s with commitLog := ({ blank with outcome := 3 } :: s.commitLog).take 458496 }

/-- Step 12 of R98: every table that existed is decided once, and the report is valid. -/
def State.decideTables (s : State) : State :=
  let a := s.liveTables.foldl (fun t (k : Nat × Table) => t.decideTable k.1 k.2) s
  let b := a.commits.foldl State.logLost a
  let c := { b with commits := [], pilot := { b.pilot with newlyCulled := 0 } }
  c.syncTables.noteLayers.renewRows.setF devStatusReportValid 1

/-! ### The service firmware starts (R93, R580, R618) -/

/-- A verified image runs: the watchdog is armed, the benches have their microcode, the tables are decided, and the ports train. -/
def State.serviceStart (s : State) (slot : Nat) (i : FwImage) : State :=
  let a := { s with trust := { s.trust with running := some i, runningSlot := slot }, pilot := { s.pilot with svWatchdogArmed := true, svBeat := s.now } }
  let b := a.setFs [(devStatusFwRunning, 1), (devStatusStage, 9)]
  let c := if b.quenched then b else b.wakeBenches
  c.decideTables.trainPorts.settlePorts

/-- Nothing keeps a service firmware from starting in this restart. -/
def State.mayStartService (s : State) : Bool :=
  s.pilot.phase == .running && !s.fwRuns && !s.on elStatusSvExpired && !s.halted && !s.on devStatusStackFault && !s.on fzStatusBootFault

/-- FIRMWARE_REVERIFY_DONE (R98 step 11, R100, R546): the marked slot alone is verified. -/
def execFirmwareReverifyDone (s : State) : Host.Outcome State Fault Refusal :=
  if s.mayStartService && s.on devResetCauseHeld then
    match s.trust.marked with
    | none => .next s
    | some k =>
      match s.slot k with
      | none => .next s
      | some i =>
        match s.imageCheck i with
        | none => .next ((s.setF devResetCauseFwReused 1).serviceStart k i)
        | some c => .next (s.report { pre := .av, code := 0x04, severity := 1, vector := some 4, data := c.1 })
  else .next s

/-- Another FW_LOAD is in execution. -/
def State.loadingElsewhere (s : State) (e : Sqe) : Bool :=
  s.rings.any (fun p => p.2.live.any (fun l => l.opcode == 0x2C0 && !(p.1 == e.ring && l.tag == e.tag)))

/-- The refusals of FW_LOAD by device state, before any check of the image. -/
def State.loadRefusal (s : State) (e : Sqe) : Option Nat :=
  if s.fwRuns || s.on elStatusSvExpired || s.loadingElsewhere e then some stNotPermitted
  else if s.on devStatusStackFault then some stResourceCulled
  else if s.on fzStatusBootFault then some stSecurityDenied
  else none

/-- FW_LOAD (R499, R545, R546): verified, stored and marked; after its completion the service firmware starts. -/
def execFwLoad (e : Sqe) (h : ImageRead) (s : State) : Host.Outcome State Fault Refusal :=
  runCommand 0x2C0 e s (fun s =>
    match s.loadRefusal e with
    | some st => s.done e st 0
    | none =>
      match h with
      | .badRequest => s.done e stBadParam 0
      | .noCompletion => s.done e stTimeout 0
      | .image i =>
        if !imageLengthOk e i then s.done e stBadLength 0
        else
          match s.imageCheck i with
          | some c => s.done e c.2 0
          | none =>
            let k := s.loadSlot
            (((s.storeSlot k i).done e stOk (packBytes [(0, 4, i.version), (4, 1, k)]))).serviceStart k i)

/-! ### DEV_RESET (R101, R102, R113, R620) -/

/-- The delay before a reset, between 100 µs and 1 ms: an open value. -/
def State.resetDelay (s : State) : Nat × State := (100 + Config.freeValue s.free % 901, { s with free := s.free + 1 })

/-- DEV_RESET is answered, and the reset that follows is settled. -/
def State.answerReset (s : State) (ring tag status : Nat) (kind : ResetKind) : State :=
  let x := s.resetDelay
  let t := x.2.complete ring tag status (packBytes [(0, 4, x.1)])
  { t with resetting := true, quiesce := none, pilot := { t.pilot with nextKind := some kind } }

/-- DEV_RESET: a clearing reset is answered at once, a preserving one after its quiesce, or with TIMEOUT where the service firmware's
watchdog has expired. -/
def execDevReset (e : Sqe) (s : State) : Host.Outcome State Fault Refusal :=
  runCommand 0x104 e s (fun s =>
    if !e.bit 16 0 then s.answerReset e.ring e.tag stOk .clearing
    else if s.on elStatusSvExpired then s.answerReset e.ring e.tag stTimeout .uncommanded
    else
      let t := { s with resetting := true, quiesce := some (e.ring, e.tag), pilot := { s.pilot with nextKind := some .preserving } }
      (t.quiesceCommits e.tick).haltStandardChannels)

/-- Everything that the quiesce waits for is done: no commit, no request, no reply that the NPU has not acknowledged. -/
def State.quiesced (s : State) : Bool :=
  s.commits.isEmpty && (List.range 16).all (fun p =>
    (s.port p).unfinished.isEmpty && (s.port p).assembly.isEmpty && (s.port p).marks.isEmpty && (s.port p).heldReplies.isEmpty)

/-- Steps 3 to 6 of R101 for a table. -/
def Table.quiesce (t : Table) : Table := { t.discardStaged with writtenBack := t.counters, journal := .clean }

/-- QUIESCE_COMPLETE (R101): once the commits and requests are done, the controller write queues drain (step 5), and where the row guard
holds no write up any longer the quiesce is finished. DESIGN CHOICE (log entry 45): a DEV_RESET with PRESERVE = 1 that arrives before a
service firmware has run in this restart completes in the same way, with its undecided tables kept and their journal slots marked clean,
although the quiesce needs that firmware (R620), because R620 states another end only after an expiry. -/
def execQuiesceComplete (s : State) : Host.Outcome State Fault Refusal :=
  match s.quiesce with
  | none => .next s
  | some q =>
    if s.quiesced && !s.halted then
      let d := s.drainStack
      let tables : Map (Option Table) := d.tables.map (fun (p : Nat × Option Table) => (p.1, p.2.map Table.quiesce))
      if d.stackDrained then .next (({ d with tables := tables }).syncTables.answerReset q.1 q.2 stOk .preserving) else .next d
    else .next s

/-- QUIESCE_TIMEOUT (R102): 50 ms after DEV_RESET. -/
def execQuiesceTimeout (s : State) : Host.Outcome State Fault Refusal :=
  match s.quiesce with
  | none => .next s
  | some q => if s.halted then .next s else .next (s.answerReset q.1 q.2 stTimeout .uncommanded)

/-- A DOWN_NOTICE waits for its acknowledgement (R218). -/
def State.noticeWaits (s : State) : Bool := (List.range 16).any (fun p => (s.port p).notice.isSome)

/-- PRESERVE_RESET_DELAY (R101): the delay of an answered DEV_RESET ends. The ports stop with their notices (R218, R219), and
the reset follows when none of them waits for its acknowledgement any longer (log entry 47). In safe hold and in the banked
state only another reset leads out (R139, R622). -/
def execPreserveResetDelay (s : State) : Host.Outcome State Fault Refusal :=
  match s.pilot.nextKind with
  | none => .next s
  | some k =>
    if s.quiesce.isSome || s.halted || !s.resettable then .next s
    else
      let t := if k = .uncommanded then s else (List.range 16).foldl (fun t p => t.stopPort p 2 false) s
      if t.noticeWaits && k != .uncommanded then .next t
      else .next (t.fullReset k (if k = .clearing then 7 else 6) true (k == .uncommanded) false)

/-! ### RECOVERY_REPORT (R104, R113) -/

/-- One line of the report for each table number. -/
def State.reportBytes (s : State) : List Byte :=
  (List.range 256).flatMap (fun n => leBytes 1 n ++ leBytes 1 (((s.recovered.find? (fun r => r.table == n)).map (·.code)).getD 0xFF) ++
    leBytes 2 0)

/-- RECOVERY_REPORT. -/
def execRecoveryReport (e : Sqe) (s : State) : Host.Outcome State Fault Refusal :=
  runCommand 0x105 e s (fun s =>
    let cause := (4, 1, s.f devResetCauseCause)
    if !e.indirect then s.done e stBadParam 0
    else if e.paramLen < 1024 then s.done e stBadLength 0
    else if !s.on devStatusReportValid then s.done e stEmpty (packBytes [cause])
    else
      let kept := (s.recovered.filter (fun r => r.code == 0 || r.code == 3)).length
      (s.emitHost (.hostWrite (e.par 16 8) s.reportBytes)).done e stOk
        (packBytes [(0, 2, kept), (2, 2, s.recovered.length - kept), cause]))

end Sys2Proof.Machine
end

