-- ==== Sys2Proof/Machine/Faults.lean ====
section
/-!
DEFINITION. The two watchdogs (R481, R618 to R622).
-/
namespace Sys2Proof.Machine

/-! ### The service-firmware watchdog (R481, R618 to R620) -/

/-- What a stopped command did is unknown: a free value says whether a queue change that was ready was made. One that still waited, so that no
ENQ falls between its admission and its commit (R240), was not. -/
def State.leaveChange (s : State) (c : QueueChange) : State :=
  let x := s.fresh
  if Config.freeValue x.1 % 2 = 1 && s.changeReady c then (x.2.changeEffect c).1 else x.2

/-- A free value says whether a memory controller under BIST came back into service. -/
def State.leaveJob (s : State) (j : BistJob) : State :=
  match j.kind, lowestUnit j.todo with
  | .controller, some m =>
    let x := s.fresh
    if Config.freeValue x.1 % 2 = 1 then x.2.releaseMc m else x.2
  | _, _ => s

/-- A snapshot that a ring command started goes on without an answer. -/
def SnapSource.unanswered : SnapSource → SnapSource
  | .ring _ _ => .event
  | x => x

/-- The watchdog expires with a cause: 0 without a heartbeat, 1 on a halt of the core. A DEV_RESET that quiesces is answered with
TIMEOUT (R620). -/
def State.serviceExpires (s : State) (cause : Nat) : State :=
  let a := (({ s with pilot := { s.pilot with svWatchdogArmed := false, completionsPosted := true } }).setF devStatusFwRunning 0).closeDomains (2 ^ 29) (2 ^ 30)
  let b := match a.quiesce with
    | none => a
    | some q => a.answerReset q.1 q.2 stTimeout .uncommanded
  let c := b.failService
  let d := c.queueChanges.foldl State.leaveChange { c with queueChanges := [] }
  let e := d.test.jobs.foldl State.leaveJob { d with test := { d.test with jobs := [] } }
  let f := { e.syncBist with snapPending := e.snapPending.map (fun (x : SnapSource × Tick) => (x.1.unanswered, x.2)) }
  let g := (f.setFs [(elStatusSvExpired, 1)]).bump elStatusSvExpiries 8
  (g.report { pre := .sv, code := 0x01, severity := 3, vector := some 0, data := cause }).vector 4

/-- SV_WATCHDOG_EXPIRY (R618): 2 s without a heartbeat. -/
def execSvWatchdogExpiry (s : State) : Host.Outcome State Fault Refusal :=
  if s.watchdogRuns then .next (s.serviceExpires 0) else .next s

/-- SV_CORE_HALT (R618): an uncorrectable word in the memories of the service core. -/
def execSvCoreHalt (s : State) : Host.Outcome State Fault Refusal :=
  if s.watchdogRuns then .next (s.serviceExpires 1) else .next s

/-- SV_ACTION_RESET (R619): 10 ms after the completions. -/
def execSvActionReset (s : State) : Host.Outcome State Fault Refusal :=
  if s.on elStatusSvExpired && s.pilot.completionsPosted && s.on elCfgSvAction && !s.halted && s.resettable then
    .next (s.fullReset .uncommanded 9 true false false)
  else .next s

/-! ### The supervisor of Anvil (R621) -/

/-- ANVIL_HEARTBEAT. -/
def execAnvilHeartbeat (s : State) : Host.Outcome State Fault Refusal :=
  if s.supervised then .next (({ s with pilot := { s.pilot with avBeat := s.now } }).setF elWdogAvAge 0) else .next s

/-- ANVIL_SUPERVISOR_TIMEOUT: no heartbeat for 500 ms. -/
def execAnvilSupervisorTimeout (s : State) : Host.Outcome State Fault Refusal :=
  if s.supervised then .next ((s.setF elWdogAvAge 500).enterSafeHold 0) else .next s

/-- ANVIL_HALT: an uncorrectable word in Anvil's own memories. -/
def execAnvilHalt (s : State) : Host.Outcome State Fault Refusal :=
  if s.supervised then .next (s.enterSafeHold 2) else .next s

end Sys2Proof.Machine
end

