-- ==== Sys2Proof/Machine/Views.lean ====
section
/-!
DEFINITION. What a read of a register returns, where it shows what the block holds elsewhere, and LO_REGISTER_READ (R20, R154, R188, R279,
R308, R339, R340, R406, R430, R449, R520, R553, R573, R623, R625).
-/
namespace Sys2Proof.Machine

/-! ### Registers that a selector or a count stands behind -/

/-- Registers of the queue manager (R253, R279): a SNAPSHOT_READ is in progress from the start of its entry to its completion. DESIGN CHOICE
(log entry 50): a slice under BIST, out of service but not culled (R577), shows 1 in QM_STATUS.SLICES. -/
def State.viewQm (s : State) (k : Fld) : Option Nat :=
  let used := (s.queues.map (fun (p : Nat × Queue) => p.2.blocks)).sum + s.marver.lostRows
  if k = qmStatusSlices then some (0xFF - (s.f tcCulletMiscQms &&& 0xFF))
  else if k = qmPoolUsedBlocks then some (used % 2 ^ 26)
  else if k = qmStatusSnapLocked then some (b2n ((List.range 16).any (fun n => (s.ring n).live.any (fun l => l.opcode == 0x145))))
  else if k = qmPoolReservedBlocks then
    some (((s.queues.map (fun (p : Nat × Queue) => if p.2.configured then p.2.reserve - p.2.blocks else 0)).sum) % 2 ^ 26)
  else if k = qmPoolFreeBlocks then
    some ((s.poolBlocks - ((s.queues.map (fun (p : Nat × Queue) => if p.2.configured then max p.2.blocks p.2.reserve else 0)).sum +
      s.marver.lostRows)) % 2 ^ 26)
  else none

/-- Registers of Marver, the engines, the Crucible and IG. -/
def State.viewMemory (s : State) (k : Fld) : Option Nat :=
  let b := s.bucket (s.f igBktSelUnit)
  if k = mvEpoch then some (s.now / 4000000)
  else if k = teThreadsNow then some s.threadsHeld
  else if k = teLatBin then some (min (Map.get (fun _ => 0) s.latency (s.f teLatIdxBin)) (2 ^ 32 - 1))
  else if k = cdQuadServed then some s.slicesServed
  else if k = fxStatusPaused then some (b2n s.fluxPaused)
  else if k = cdSlices then some (2 ^ 64 - 1 - (s.f tcCulletSlice &&& (2 ^ 64 - 1)))
  else if k = igBktCountCount then some (b.count % 2 ^ 16)
  else if k = igBktCountOverflows then some (min b.overflows 65535)
  else none

/-- Registers of the regulator. -/
def State.viewRegulator (s : State) (k : Fld) : Option Nat :=
  let c := min 14 (s.f rgClassSelClass)
  let b := s.budget c
  if k = rgFloor then some (s.regulator.floor / 32)
  else if k = rgClassBw then some b.bw
  else if k = rgClassCruGuar then some b.cru
  else if k = rgClassCruHeld then some (s.headHeld c)
  else if k = rgClassThrGuar then some b.thr
  else if k = rgClassThrBusy then some (s.classThreads c)
  else if k = rgClassSect then some (Map.get (fun _ => 0) s.regulator.charged c)
  else if k = rgClassOver then some (Map.get (fun _ => 0) s.regulator.excess c)
  else none

/-- Registers of the movers, the event matrix and Lehr. DEDUCED (log entry 31): BM_CH_CTRL.ARM, which a 1 sets (R22) to set SHADOW_VALID
(R517), reads as SHADOW_VALID. -/
def State.viewEvents (s : State) (k : Fld) : Option Nat :=
  let l := s.line (s.f evSelLine)
  let n := s.f thLayerSelLayer
  let y := s.layer n
  let m := s.f thSensorSelSensor
  let x := s.sensor m
  let c := (fldOff k - 0x40000) / 0x100
  if 0x40000 ≤ fldOff k ∧ fldOff k < 0x41200 ∧ k = bmChCtrlArm c then some (s.f (bmChStatusShadowValid c))
  else if k = evTick then some l.tick
  else if k = evCount then some l.count
  else if k = thLayerTempTemp then some (s.tempCode n)
  else if k = thLayerTempLevel then some y.level
  else if k = thLayerTempSuspect then some (b2n (s.layerDoubtful n))
  else if k = thLayerModelEst then some (toTwos 16 y.est)
  else if k = thLayerModelLower then some (toTwos 16 y.lower)
  else if k = thLayerCanaryFailed then some y.failed
  else if k = thSensorReading then some (toTwos 16 x.reading)
  else if k = thSensorState then some (if s.sensorCount ≤ m then 3 else x.state)
  else if k = thSensorTrimMarginal then some (b2n x.trimMarginal)
  else none

/-- Registers of a port that show one lane (R188). -/
def State.viewLane (s : State) (k : Fld) : Option Nat :=
  let p := (fldOff k - 0x60000) / 0x1000
  let x := s.lane p (s.f (rlEqSelLane p))
  let dfe := fun (i : Nat) => ((List.range 4).map (fun (j : Nat) => toTwos 8 (x.dfe.getD (4 * i + j) 0) * 256 ^ j)).sum
  if fldOff k < 0x60000 ∨ 0x70000 ≤ fldOff k then none
  else if k = rlTxFfeA p then
    some (toTwos 8 x.cm2 + 256 * toTwos 8 x.cm1 + 65536 * toTwos 8 x.c0 + 16777216 * toTwos 8 x.cp1)
  else if k = rlTxFfeBCP2 p then some (toTwos 8 x.cp2)
  else if k = rlRxCtleSetting p then some x.ctle
  else if k = rlRxDfe p 0 then some (dfe 0)
  else if k = rlRxDfe p 1 then some (dfe 1)
  else if k = rlRxDfe p 2 then some (dfe 2)
  else if k = rlLaneSer p then some x.ser
  else none

/-- Registers of the cullet map (R579, R592). Among the units that wait for the next full reset, a controller and a layer wait with their
pseudo-channels, and a slice also by the mark of R427. -/
def State.viewCullet (s : State) (k : Fld) : Option Nat :=
  if k = tcCulletPc then some s.mapPcs
  else if k = tcCulletSlice then some s.mapSlices
  else if k = tcCulletMiscMc then some s.mapMcs
  else if k = tcCulletLayer then some s.mapLayers
  else if k = tcCulletPendPc then some (newIn 64 s.pendingPcs (s.f tcCulletPc))
  else if k = tcCulletPendSlice then some (newIn 64 (s.f tcCulletPendSlice ||| s.f igSliceMark) (s.f tcCulletSlice))
  else if k = tcCulletPendMc then some (newIn 16 (s.f tcCulletPendMc) (s.f tcCulletMiscMc))
  else if k = tcCulletPendLayer then some (newIn 16 (s.f tcCulletPendLayer) (s.f tcCulletLayer))
  else none

/-- Milliseconds of device time since a tick. -/
def State.msSince (s : State) (t : Tick) : Nat := (s.now - t) / 4000000

/-- EL_WDOG (R618, R621, R625): the ms left on the service-firmware watchdog while it runs, and the ms since Anvil's last
heartbeat, at least those of a timeout that the supervisor has found. -/
def State.viewWatchdogs (s : State) (k : Fld) : Option Nat :=
  if k = elWdogSvLeft then some (if s.watchdogRuns then 2000 - s.msSince s.pilot.svBeat else 0)
  else if k = elWdogAvAge then some (if s.pastStep4 then min (max (s.f elWdogAvAge) (s.msSince s.pilot.avBeat)) 65535 else 0)
  else none

/-- The value that a read of a field shows. -/
def State.shown (s : State) (k : Fld) : Nat :=
  let views := [s.viewQm k, s.viewMemory k, s.viewRegulator k, s.viewEvents k, s.viewLane k, s.viewCullet k, s.viewWatchdogs k]
  ((views.find? Option.isSome).getD none).getD (s.f k)

/-! ### Whole registers -/

/-- The register at `off` is the _LO register of a 64-bit pair (R20). -/
def isPair (off : Nat) : Bool := off == 0x20000 || (specsAt off).any (fun sp => sp.hi == 63)

/-- A read of this _LO register latches its _HI register: the pairs of TB, MV, TE and RG, the two counters of QM, EV_TICK, IG_CE and
TH_QUENCH_TICK. The _HI registers of the other pairs show their own value (R22). -/
def latchesHigh (off : Nat) : Bool :=
  isPair off && (off == 0x20000 || decide (0x90000 ≤ off ∧ off < 0xB0000) || decide (0xF0000 ≤ off ∧ off < 0x100000) ||
    [0x80048, 0x80050, 0x50104, 0xE0008, 0x100040].contains off)

/-- FZ_WORDw: a latched word; SECRETS and the regions that were read-locked at boot read 0 (R541, R554). -/
def State.fuseView (s : State) (w : Nat) : Nat :=
  if regionOf w = 3 ∨ bitOf s.trust.latchedLocks (2 * regionOf w + 1) = true then 0 else s.latchedWord w

/-- EL_DATAn: bytes 4n to 4n + 3 of the entry that EL_SEL names, zeros if it is not held. -/
def State.entryView (s : State) (n : Nat) : Nat :=
  match s.log.find? (fun x => x.seq == s.f elSelSeq) with
  | none => 0
  | some x => bufNat x.bytes (4 * n) 4

/-- Bits of a register that its fields give; a write-only field reads 0, and so does every bit that no table lists (R22, R23). -/
def State.fieldsView (s : State) (off : Nat) : Nat :=
  ((specsAt off).map (fun sp =>
    if sp.acc = .wo then 0 else s.shown (fld off sp.lo) % 2 ^ (min sp.hi 31 + 1 - sp.lo) * 2 ^ sp.lo)).sum

/-- The 64 bits of a pair. -/
def State.pairView (s : State) (off : Nat) : Nat := if off = 0x20000 then s.now else s.shown (fld off 0)

/-- A register of the MSI-X table: address, data or mask bit of a vector (R455). -/
def State.msixView (s : State) (off : Nat) : Nat :=
  let n := (off - 0xC000) / 16
  match off % 16 / 4 with
  | 0 => Map.get (fun _ => 0) s.pcie.msixAddr n % 2 ^ 32
  | 1 => Map.get (fun _ => 0) s.pcie.msixAddr n / 2 ^ 32 % 2 ^ 32
  | 2 => Map.get (fun _ => 0) s.pcie.msixData n
  | _ => b2n (bitOf s.pcie.vectorMask n)

/-- Bits 31:0 that a read of the register returns. A _HI register returns what the last read of _LO latched, or its half of the pair. -/
def State.readView (s : State) (off : Nat) : Nat :=
  if isPair off then s.pairView off % 2 ^ 32
  else if 4 ≤ off ∧ latchesHigh (off - 4) = true then Map.get latchCold s.latches off
  else if 4 ≤ off ∧ isPair (off - 4) = true then s.pairView (off - 4) / 2 ^ 32 % 2 ^ 32
  else if 0xC000 ≤ off ∧ off < 0xC400 then s.msixView off
  else if 0xD000 ≤ off ∧ off < 0xD008 then s.pcie.vectorPending / 2 ^ (8 * (off - 0xD000)) % 2 ^ 32
  else if 0x120000 ≤ off ∧ off < 0x122000 then s.fuseView ((off - 0x120000) / 4)
  else if 0x140024 ≤ off ∧ off < 0x140044 then s.entryView ((off - 0x140024) / 4)
  else s.fieldsView off

/-- LO_REGISTER_READ (R20): a read of a _LO register returns bits 31:0 and may latch bits 63:32 into its _HI register. In safe hold six
blocks answer (R623), and a block that is closed does not (R131). Before PCIE_READY no BAR is decoded (R88): Unsupported Request. -/
def execLoRegisterRead (off : Nat) (s : State) : Host.Outcome State Fault Refusal :=
  let o := off / 4 * 4
  if !s.decodesBars then .next (s.emit .unsupportedRequest)
  else if (s.safeHold && !safeHoldBlock o) || s.blockClosed o then .next (s.emit .completerAbort)
  else
    let t := if latchesHigh o then { s with latches := Map.set latchCold s.latches (o + 4) (s.pairView o / 2 ^ 32 % 2 ^ 32) } else s
    .next ((t.wakeFor o).emit (.readData (leBytes 4 (s.readView o)) false))

end Sys2Proof.Machine
end

