-- ==== Sys2Proof/Machine/Commands.lean ====
section
/-!
DEFINITION. The device commands of R495, the delivery of event pulses (R515, R516), failed host reads (R470, R471), and the commands of
single registers (R340, R435, R449, R522).
-/
namespace Sys2Proof.Machine

/-! ### Device commands (R495) -/

/-- DEV_IDENTIFY. -/
def execDevIdentify (e : Sqe) (s : State) : Host.Outcome State Fault Refusal :=
  runCommand 0x100 e s (fun s => s.done e stOk s.identity)

/-- DEV_HEALTH. -/
def execDevHealth (e : Sqe) (s : State) : Host.Outcome State Fault Refusal :=
  runCommand 0x101 e s (fun s => s.done e stOk s.health)

/-- POWER_INFO. -/
def execPowerInfo (e : Sqe) (mw : Nat) (s : State) : Host.Outcome State Fault Refusal :=
  runCommand 0x102 e s (fun s => s.done e stOk (s.power mw))

/-- NOP: the parameters come back. -/
def execNop (e : Sqe) (s : State) : Host.Outcome State Fault Refusal :=
  runCommand 0x110 e s (fun s => s.done e stOk (e.par 16 24))

/-- ERRLOG_READ: entries from a sequence number on, oldest first. -/
def execErrlogRead (e : Sqe) (s : State) : Host.Outcome State Fault Refusal :=
  runCommand 0x10C e s (fun s =>
    let n := e.par 28 4
    let es := (s.entriesFrom (e.par 24 4)).take n
    if n < 1 ∨ 4096 < n ∨ e.par 16 8 % 16 ≠ 0 then s.done e stBadParam 0
    else
      match es.head?, es.getLast? with
      | some a, some z =>
        (s.emitHost (.hostWrite (e.par 16 8) (es.flatMap LogEntry.bytes))).done e stOk
          (packBytes [(0, 4, es.length), (4, 4, a.seq), (8, 4, nextSeq z.seq), (12, 4, s.f elLost)])
      | _, _ => s.done e stEmpty 0)

/-- Entries up to a sequence number are removed; with no entry of severity 3 left, ALERT_PEND is cleared (R615). -/
def State.clearLog (s : State) (last : Nat) : State :=
  let kept := s.log.filter (fun n => decide (last < n.seq))
  let first := ((kept.getLast?).map (·.seq)).getD 0
  let pend := if kept.any (fun n => n.severity == 3) then s.f elStatusAlertPend else 0
  { (s.setFs [(elFirst, first), (elLost, 0), (elStatusAlertPend, pend)]) with log := kept, logWritten := 0 }

/-- ERRLOG_CLEAR. -/
def execErrlogClear (e : Sqe) (s : State) : Host.Outcome State Fault Refusal :=
  runCommand 0x10D e s (fun s =>
    let t := s.clearLog (e.par 16 4)
    t.done e stOk (packBytes [(0, 4, s.log.length - t.log.length)]))

/-! ### A pulse reaches its sinks (R360, R506, R515, R516) -/

/-- The snapshot trigger. -/
def State.triggerSnapshot (s : State) (l : Nat) (t : Tick) : State :=
  if s.on evSnapConnected && s.f evSnapLine == l then
    if s.snapPending.isSome || s.snapRead || s.qmGone then s.bump evSnapMissed 16 else s.startSnapshot .event t
  else s

/-- The starts of the standard channels connected to the line. -/
def State.startChannels (s : State) (l : Nat) : State :=
  (List.range 16).foldl (fun t c => if t.on (bmChCfgStartEn c) && t.f (bmChCfgStartLine c) == l then t.startChannel c else t) s

/-- EVENT_PULSE_DELIVERY: the oldest pulse not yet delivered. What its line records releases the ring entries that wait for it (R466); no
commit fires once the service firmware has stopped (R50). In safe hold and in the banked state the sinks are closed. -/
def execEventPulseDelivery (s : State) : Host.Outcome State Fault Refusal :=
  match s.pulses with
  | [] => .next s
  | (l, t) :: r =>
    let a := { s with pulses := r }
    if s.halted then .next a
    else .next (((if a.fwRuns then a.fireCommits l t else a).triggerSnapshot l t).startChannels l)

/-! ### Failed host reads (R470, R471, R512) -/

/-- A command with this tag is in execution on the ring. -/
def State.inExecution (s : State) (r tag : Nat) : Bool := (s.ring r).live.any (fun l => l.tag == tag)

/-- HOST_READ_FAIL: `answered` is true for Unsupported Request or Completer Abort, false for no completion. -/
def execHostReadFail (f : FailedRead) (answered : Bool) (s : State) : Host.Outcome State Fault Refusal :=
  match f with
  | .entry r => if s.on (hcRingCtrlEnable r) && !s.halted then .next (s.ringError r 3) else .next s
  | .parameters r tag =>
    if s.inExecution r tag then .next (s.complete r tag (if answered then stBadParam else stTimeout) 0) else .next s
  | .commandData r tag =>
    if s.inExecution r tag then .next (s.complete r tag (if answered then stInternalFault else stTimeout) 0) else .next s
  | .channel c =>
    if s.f (bmChStatusState c) = 1 ∨ s.f (bmChStatusState c) = 3 then
      .next (s.haltChannel c (if answered then stBadParam else stTimeout) (s.f (bmChBytes c)))
    else .next s

/-! ### Single registers and the mailbox -/

/-- TE_LAT_CLEAR (R340). -/
def execTeLatClear (s : State) : Host.Outcome State Fault Refusal :=
  match s.refusesWrite (fldOff teLatCfgClear) with
  | some t => .next t
  | none => .next { s with latency := [] }

/-- RG_CFG_WINDOW_WRITE (R435, R449): W changes at the end of the present window, as under REG_WINDOW. -/
def execRgCfgWindowWrite (v : Nat) (s : State) : Host.Outcome State Fault Refusal :=
  match s.refusesWrite (fldOff rgCfgWindow) with
  | some t => .next t
  | none => .next (s.setF rgCfgWindow (v % 1024))

/-- DEVICE_STATE (R522): DEV_STATUS, the thermal level and the cullet map. -/
def execDeviceState (slot : Nat) (s : State) : Host.Outcome State Fault Refusal :=
  .next (s.emit (.mailbox slot stOk (leBytes 4 s.devStatus ++ leBytes 1 (s.f thStatusLevel) ++ s.culletBytes)))

end Sys2Proof.Machine
end

