-- ==== Sys2Proof/Machine/Dispatch.lean ====
section
/-!
DEFINITION. One arm for each command of the block.
-/
namespace Sys2Proof.Machine

/-- The effect of a command on everything but the queue of commands. -/
def exec (i : Instr) (s : State) : Host.Outcome State Fault Refusal :=
  match i with
  | .vddAoRise => Sys2Proof.Machine.execVddAoRise s
  | .vddAoFall => Sys2Proof.Machine.execVddAoFall s
  | .railsInTolerance => Sys2Proof.Machine.execRailsInTolerance s
  | .railCheckRetry => Sys2Proof.Machine.execRailCheckRetry s
  | .railOutOfRange rail => Sys2Proof.Machine.execRailOutOfRange rail s
  | .strapSample refwait sbaddr sbctl bist => Sys2Proof.Machine.execStrapSample refwait sbaddr sbctl bist s
  | .refwaitExpiry => Sys2Proof.Machine.execRefwaitExpiry s
  | .refclkStartupCheck count trim => Sys2Proof.Machine.execRefclkStartupCheck count trim s
  | .resetPinAssert pin => Sys2Proof.Machine.execResetPinAssert pin s
  | .resetPinRelease pin => Sys2Proof.Machine.execResetPinRelease pin s
  | .coldStartSequence b => Sys2Proof.Machine.execColdStartSequence b s
  | .layerDiscoveryTimeout layer => Sys2Proof.Machine.execLayerDiscoveryTimeout layer s
  | .pcieHotReset => Sys2Proof.Machine.execPcieHotReset s
  | .pcieFlr => Sys2Proof.Machine.execPcieFlr s
  | .pcieLinkDown => Sys2Proof.Machine.execPcieLinkDown s
  | .resetSourceRelease => Sys2Proof.Machine.execResetSourceRelease s
  | .heldRestartSequence b => Sys2Proof.Machine.execHeldRestartSequence b s
  | .firmwareReverifyDone => Sys2Proof.Machine.execFirmwareReverifyDone s
  | .quiesceComplete => Sys2Proof.Machine.execQuiesceComplete s
  | .quiesceTimeout => Sys2Proof.Machine.execQuiesceTimeout s
  | .preserveResetDelay => Sys2Proof.Machine.execPreserveResetDelay s
  | .tapInstructionLoad ir => Sys2Proof.Machine.execTapInstructionLoad ir s
  | .tapTestLogicReset => Sys2Proof.Machine.execTapTestLogicReset s
  | .oscTrim trim count => Sys2Proof.Machine.execOscTrim trim count s
  | .refclkMissingEdge => Sys2Proof.Machine.execRefclkMissingEdge s
  | .refclkFreqWindow count => Sys2Proof.Machine.execRefclkFreqWindow count s
  | .clockSwitchForced d => Sys2Proof.Machine.execClockSwitchForced d s
  | .clockSwitchFailed d oldRunning => Sys2Proof.Machine.execClockSwitchFailed d oldRunning s
  | .clockGateClose d => Sys2Proof.Machine.execClockGateClose d s
  | .clockGateOpen d => Sys2Proof.Machine.execClockGateOpen d s
  | .domainAutoOff d => Sys2Proof.Machine.execDomainAutoOff d s
  | .domainWake d => Sys2Proof.Machine.execDomainWake d s
  | .benchMicrocodeLoaded b => Sys2Proof.Machine.execBenchMicrocodeLoaded b s
  | .forcedClosureDrainEnd reads writes commands ports => Sys2Proof.Machine.execForcedClosureDrainEnd reads writes commands ports s
  | .ptmDialog => Sys2Proof.Machine.execPtmDialog s
  | .ptmResponse masterNs => Sys2Proof.Machine.execPtmResponse masterNs s
  | .ptmResponseTimeout => Sys2Proof.Machine.execPtmResponseTimeout s
  | .timesyncEdge t => Sys2Proof.Machine.execTimesyncEdge t s
  | .timesyncStuck => Sys2Proof.Machine.execTimesyncStuck s
  | .tbTimeLoRead => Sys2Proof.Machine.execTbTimeLoRead s
  | .loRegisterRead off => Sys2Proof.Machine.execLoRegisterRead off s
  | .holdNChange low => Sys2Proof.Machine.execHoldNChange low s
  | .holdNLong => Sys2Proof.Machine.execHoldNLong s
  | .thermalSample x => Sys2Proof.Machine.execThermalSample x s
  | .sensorRecover n => Sys2Proof.Machine.execSensorRecover n s
  | .canaryTest l failed => Sys2Proof.Machine.execCanaryTest l failed s
  | .narrowRestore => Sys2Proof.Machine.execNarrowRestore s
  | .quenchStopComplete => Sys2Proof.Machine.execQuenchStopComplete s
  | .quenchThermalEnd => Sys2Proof.Machine.execQuenchThermalEnd s
  | .trip sensor => Sys2Proof.Machine.execTrip sensor s
  | .laneDetectorChange p lane los lol => Sys2Proof.Machine.execLaneDetectorChange p lane los lol s
  | .trainingFrameRx p lane f => Sys2Proof.Machine.execTrainingFrameRx p lane f s
  | .trainStateExit p x => Sys2Proof.Machine.execTrainStateExit p x s
  | .trainStateTimer p x => Sys2Proof.Machine.execTrainStateTimer p x s
  | .attemptIdleEnd p => Sys2Proof.Machine.execAttemptIdleEnd p s
  | .linkLost p => Sys2Proof.Machine.execLinkLost p s
  | .warmIdleTimer p => Sys2Proof.Machine.execWarmIdleTimer p s
  | .bankedIdleTimer p => Sys2Proof.Machine.execBankedIdleTimer p s
  | .warmExit p => Sys2Proof.Machine.execWarmExit p s
  | .bankedExit p => Sys2Proof.Machine.execBankedExit p s
  | .bankedFastPathTimeout p => Sys2Proof.Machine.execBankedFastPathTimeout p s
  | .dataCodewordRx p c => Sys2Proof.Machine.execDataCodewordRx p c s
  | .framingCodewordRx p c => Sys2Proof.Machine.execFramingCodewordRx p c s
  | .resyncCodewordRx p c => Sys2Proof.Machine.execResyncCodewordRx p c s
  | .linkUpdateRx p b => Sys2Proof.Machine.execLinkUpdateRx p b s
  | .linkUpdateSend p => Sys2Proof.Machine.execLinkUpdateSend p s
  | .nakRetryTimeout p => Sys2Proof.Machine.execNakRetryTimeout p s
  | .replayTimeout p => Sys2Proof.Machine.execReplayTimeout p s
  | .init p b => Sys2Proof.Machine.execInit p b s
  | .pwrReq p flit => Sys2Proof.Machine.execPwrReq p flit s
  | .pwrAck p flit => Sys2Proof.Machine.execPwrAck p flit s
  | .pwrRefuse p flit => Sys2Proof.Machine.execPwrRefuse p flit s
  | .pwrReqTimeout p => Sys2Proof.Machine.execPwrReqTimeout p s
  | .downNoticeTimeout p => Sys2Proof.Machine.execDownNoticeTimeout p s
  | .requestCrcFail p => Sys2Proof.Machine.execRequestCrcFail p s
  | .unknownDataOpcode r => Sys2Proof.Machine.execUnknownDataOpcode r s
  | .enq r => Sys2Proof.Machine.execEnq r s
  | .enqCommit p => Sys2Proof.Machine.execEnqCommit p s
  | .deq r => Sys2Proof.Machine.execDeq r s
  | .peek r => Sys2Proof.Machine.execPeek r s
  | .dropHead r => Sys2Proof.Machine.execDropHead r s
  | .qstat r => Sys2Proof.Machine.execQstat r s
  | .lookup r => Sys2Proof.Machine.execLookup r s
  | .lookupMulti r => Sys2Proof.Machine.execLookupMulti r s
  | .cntAdd r => Sys2Proof.Machine.execCntAdd r s
  | .cntRead r => Sys2Proof.Machine.execCntRead r s
  | .cntReadClear r => Sys2Proof.Machine.execCntReadClear r s
  | .mark r => Sys2Proof.Machine.execMark r s
  | .markPass p => Sys2Proof.Machine.execMarkPass p s
  | .echo r => Sys2Proof.Machine.execEcho r s
  | .snapshotReq r => Sys2Proof.Machine.execSnapshotReq r s
  | .snapshotComplete => Sys2Proof.Machine.execSnapshotComplete s
  | .engineOpStart n => Sys2Proof.Machine.execEngineOpStart n s
  | .replySend p => Sys2Proof.Machine.execReplySend p s
  | .configRequest a => Sys2Proof.Machine.execConfigRequest a s
  | .bar0BadAccess k off => Sys2Proof.Machine.execBar0BadAccess k off s
  | .registerWrite q off v => Sys2Proof.Machine.execRegisterWrite q off v s
  | .stagingWindowRead off len => Sys2Proof.Machine.execStagingWindowRead off len s
  | .stagingWindowWrite off data enables => Sys2Proof.Machine.execStagingWindowWrite off data enables s
  | .ringEnable r => Sys2Proof.Machine.execRingEnable r s
  | .ringDisable r => Sys2Proof.Machine.execRingDisable r s
  | .sqTailDoorbell r v => Sys2Proof.Machine.execSqTailDoorbell r v s
  | .cqHeadDoorbell r v => Sys2Proof.Machine.execCqHeadDoorbell r v s
  | .ringEntryFetch r es => Sys2Proof.Machine.execRingEntryFetch r es s
  | .ringEntryStart r => Sys2Proof.Machine.execRingEntryStart r s
  | .hostReadFail f answered => Sys2Proof.Machine.execHostReadFail f answered s
  | .msixModerationTimer r => Sys2Proof.Machine.execMsixModerationTimer r s
  | .msixUnmask v => Sys2Proof.Machine.execMsixUnmask v s
  | .pcieL1Entry => Sys2Proof.Machine.execPcieL1Entry s
  | .d3hotEntry => Sys2Proof.Machine.execD3hotEntry s
  | .d0Return => Sys2Proof.Machine.execD0Return s
  | .devIdentify e => Sys2Proof.Machine.execDevIdentify e s
  | .devHealth e => Sys2Proof.Machine.execDevHealth e s
  | .powerInfo e mw => Sys2Proof.Machine.execPowerInfo e mw s
  | .devReset e => Sys2Proof.Machine.execDevReset e s
  | .recoveryReport e => Sys2Proof.Machine.execRecoveryReport e s
  | .expertEnter e => Sys2Proof.Machine.execExpertEnter e s
  | .expertLeave e => Sys2Proof.Machine.execExpertLeave e s
  | .errlogRead e => Sys2Proof.Machine.execErrlogRead e s
  | .errlogClear e => Sys2Proof.Machine.execErrlogClear e s
  | .nop e => Sys2Proof.Machine.execNop e s
  | .queueCfg e => Sys2Proof.Machine.execQueueCfg e s
  | .queueRemove e => Sys2Proof.Machine.execQueueRemove e s
  | .queueFlush e => Sys2Proof.Machine.execQueueFlush e s
  | .queueChangeApply => Sys2Proof.Machine.execQueueChangeApply s
  | .queueInfo e => Sys2Proof.Machine.execQueueInfo e s
  | .snapshotTake e => Sys2Proof.Machine.execSnapshotTake e s
  | .snapshotRead e => Sys2Proof.Machine.execSnapshotRead e s
  | .queueReserve e => Sys2Proof.Machine.execQueueReserve e s
  | .qmPrefetch e => Sys2Proof.Machine.execQmPrefetch e s
  | .tableCreate e => Sys2Proof.Machine.execTableCreate e s
  | .tableDelete e => Sys2Proof.Machine.execTableDelete e s
  | .tableRowsReturn n => Sys2Proof.Machine.execTableRowsReturn n s
  | .tableInfo e => Sys2Proof.Machine.execTableInfo e s
  | .tableResize e => Sys2Proof.Machine.execTableResize e s
  | .cntDump e => Sys2Proof.Machine.execCntDump e s
  | .tableTune e => Sys2Proof.Machine.execTableTune e s
  | .tableUpdate e h => Sys2Proof.Machine.execTableUpdate e h s
  | .tableImage e => Sys2Proof.Machine.execTableImage e s
  | .tableCommit e => Sys2Proof.Machine.execTableCommit e s
  | .imageBuildDone n => Sys2Proof.Machine.execImageBuildDone n s
  | .commitEffectTick n => Sys2Proof.Machine.execCommitEffectTick n s
  | .commitCutTimeout n => Sys2Proof.Machine.execCommitCutTimeout n s
  | .versionRowsRelease n => Sys2Proof.Machine.execVersionRowsRelease n s
  | .tableAbort e => Sys2Proof.Machine.execTableAbort e s
  | .commitLog e => Sys2Proof.Machine.execCommitLog e s
  | .memSplit e => Sys2Proof.Machine.execMemSplit e s
  | .placementInfo e => Sys2Proof.Machine.execPlacementInfo e s
  | .tierReport e => Sys2Proof.Machine.execTierReport e s
  | .mvTune e => Sys2Proof.Machine.execMvTune e s
  | .mvTableHint e => Sys2Proof.Machine.execMvTableHint e s
  | .memInfo e => Sys2Proof.Machine.execMemInfo e s
  | .mcPolicy e => Sys2Proof.Machine.execMcPolicy e s
  | .mcTargets e => Sys2Proof.Machine.execMcTargets e s
  | .integrityInfo e => Sys2Proof.Machine.execIntegrityInfo e s
  | .scrubCfg e => Sys2Proof.Machine.execScrubCfg e s
  | .bucketCfg e => Sys2Proof.Machine.execBucketCfg e s
  | .retireCfg e => Sys2Proof.Machine.execRetireCfg e s
  | .stageMap e => Sys2Proof.Machine.execStageMap e s
  | .budgetSet e h => Sys2Proof.Machine.execBudgetSet e h s
  | .budgetGet e => Sys2Proof.Machine.execBudgetGet e s
  | .regStatus e => Sys2Proof.Machine.execRegStatus e s
  | .regWindow e => Sys2Proof.Machine.execRegWindow e s
  | .rgCfgWindowWrite v => Sys2Proof.Machine.execRgCfgWindowWrite v s
  | .regPlan e => Sys2Proof.Machine.execRegPlan e s
  | .thermRead e => Sys2Proof.Machine.execThermRead e s
  | .thermLimits e => Sys2Proof.Machine.execThermLimits e s
  | .thermWarnSet e => Sys2Proof.Machine.execThermWarnSet e s
  | .thermLimitSet e => Sys2Proof.Machine.execThermLimitSet e s
  | .quenchReq e => Sys2Proof.Machine.execQuenchReq e s
  | .bistRun e => Sys2Proof.Machine.execBistRun e s
  | .bistUnitDone k u pass => Sys2Proof.Machine.execBistUnitDone k u pass s
  | .culletGet e => Sys2Proof.Machine.execCulletGet e s
  | .culletAdd e h => Sys2Proof.Machine.execCulletAdd e h s
  | .calSave e => Sys2Proof.Machine.execCalSave e s
  | .calRestore e h => Sys2Proof.Machine.execCalRestore e h s
  | .calCfg e => Sys2Proof.Machine.execCalCfg e s
  | .fwLoad e img => Sys2Proof.Machine.execFwLoad e img s
  | .fwStore e img => Sys2Proof.Machine.execFwStore e img s
  | .fwInfo e => Sys2Proof.Machine.execFwInfo e s
  | .rollbackAdvance e vprog f => Sys2Proof.Machine.execRollbackAdvance e vprog f s
  | .attest e => Sys2Proof.Machine.execAttest e s
  | .idKeyRead e => Sys2Proof.Machine.execIdKeyRead e s
  | .fuseRead e => Sys2Proof.Machine.execFuseRead e s
  | .fuseProgram e h vprog f => Sys2Proof.Machine.execFuseProgram e h vprog f s
  | .fuseLock e vprog f => Sys2Proof.Machine.execFuseLock e vprog f s
  | .fuseResense e r => Sys2Proof.Machine.execFuseResense e r s
  | .fuseResenseTimer r => Sys2Proof.Machine.execFuseResenseTimer r s
  | .keyRevoke e vprog f => Sys2Proof.Machine.execKeyRevoke e vprog f s
  | .evSource e => Sys2Proof.Machine.execEvSource e s
  | .evSink e => Sys2Proof.Machine.execEvSink e s
  | .evPulse e => Sys2Proof.Machine.execEvPulse e s
  | .evSwPulseWrite v => Sys2Proof.Machine.execEvSwPulseWrite v s
  | .evInfo e => Sys2Proof.Machine.execEvInfo e s
  | .eventPulseDelivery => Sys2Proof.Machine.execEventPulseDelivery s
  | .bmChannelCfg e => Sys2Proof.Machine.execBmChannelCfg e s
  | .bmNosnoop e => Sys2Proof.Machine.execBmNosnoop e s
  | .bmChStart q c => Sys2Proof.Machine.execBmChStart q c s
  | .bmChArm q c => Sys2Proof.Machine.execBmChArm q c s
  | .bmChClear q c => Sys2Proof.Machine.execBmChClear q c s
  | .bmDescriptorFetchDone c h => Sys2Proof.Machine.execBmDescriptorFetchDone c h s
  | .bmDescriptorEnd c src dst => Sys2Proof.Machine.execBmDescriptorEnd c src dst s
  | .bmChannelHalt c cause bytes => Sys2Proof.Machine.execBmChannelHalt c cause bytes s
  | .teLatClear => Sys2Proof.Machine.execTeLatClear s
  | .linkRetrain e => Sys2Proof.Machine.execLinkRetrain e s
  | .linkPowerCfg e => Sys2Proof.Machine.execLinkPowerCfg e s
  | .linkDisable e => Sys2Proof.Machine.execLinkDisable e s
  | .linkEqSet e => Sys2Proof.Machine.execLinkEqSet e s
  | .epochBoundary x => Sys2Proof.Machine.execEpochBoundary x s
  | .activationWindowEnd => Sys2Proof.Machine.execActivationWindowEnd s
  | .mcRequestArrival r => Sys2Proof.Machine.execMcRequestArrival r s
  | .mcCommandIssue pc eligible => Sys2Proof.Machine.execMcCommandIssue pc eligible s
  | .requestUrgencyStep pc write index => Sys2Proof.Machine.execRequestUrgencyStep pc write index s
  | .refreshDue pc bank => Sys2Proof.Machine.execRefreshDue pc bank s
  | .pcPowerDownEntry pc => Sys2Proof.Machine.execPcPowerDownEntry pc s
  | .pcSelfRefreshEntry pc => Sys2Proof.Machine.execPcSelfRefreshEntry pc s
  | .calibrationHold x => Sys2Proof.Machine.execCalibrationHold x s
  | .memoryReadReturn w syndrome => Sys2Proof.Machine.execMemoryReadReturn w syndrome s
  | .bucketLeak u => Sys2Proof.Machine.execBucketLeak u s
  | .fluxRewrite => Sys2Proof.Machine.execFluxRewrite s
  | .fluxRowScrub pc late found => Sys2Proof.Machine.execFluxRowScrub pc late found s
  | .crucibleScrub last found => Sys2Proof.Machine.execCrucibleScrub last found s
  | .sweepLate pc => Sys2Proof.Machine.execSweepLate pc s
  | .mirrorRepair ok => Sys2Proof.Machine.execMirrorRepair ok s
  | .bankRetirement pc bank => Sys2Proof.Machine.execBankRetirement pc bank s
  | .regWindowBoundary => Sys2Proof.Machine.execRegWindowBoundary s
  | .heartbeat => Sys2Proof.Machine.execHeartbeat s
  | .fuseData slot r first n => Sys2Proof.Machine.execFuseData slot r first n s
  | .closureState slot => Sys2Proof.Machine.execClosureState slot s
  | .errlogWrite slot svPrefix code unitKind unit sub object data => Sys2Proof.Machine.execErrlogWrite slot svPrefix code unitKind unit sub object data s
  | .deviceState slot => Sys2Proof.Machine.execDeviceState slot s
  | .mailboxRefused slot kind => Sys2Proof.Machine.execMailboxRefused slot kind s
  | .svWatchdogExpiry => Sys2Proof.Machine.execSvWatchdogExpiry s
  | .svCoreHalt => Sys2Proof.Machine.execSvCoreHalt s
  | .svActionReset => Sys2Proof.Machine.execSvActionReset s
  | .anvilHeartbeat => Sys2Proof.Machine.execAnvilHeartbeat s
  | .anvilSupervisorTimeout => Sys2Proof.Machine.execAnvilSupervisorTimeout s
  | .anvilHalt => Sys2Proof.Machine.execAnvilHalt s
  | .status => Sys2Proof.Machine.execStatus s
  | .identity => Sys2Proof.Machine.execIdentity s
  | .power mw => Sys2Proof.Machine.execPower mw s
  | .level => Sys2Proof.Machine.execLevel s
  | .hottest => Sys2Proof.Machine.execHottest s
  | .therm0 => Sys2Proof.Machine.execTherm0 s
  | .therm8 => Sys2Proof.Machine.execTherm8 s
  | .therm16 => Sys2Proof.Machine.execTherm16 s
  | .errlogPtrWrite w => Sys2Proof.Machine.execErrlogPtrWrite w s
  | .errlogPtrRead => Sys2Proof.Machine.execErrlogPtrRead s
  | .errlog completed => Sys2Proof.Machine.execErrlog completed s
  | .quenchWrite w => Sys2Proof.Machine.execQuenchWrite w s
  | .quenchRead => Sys2Proof.Machine.execQuenchRead s
  | .alertResponse => Sys2Proof.Machine.execAlertResponse s
  | .sclTimeout => Sys2Proof.Machine.execSclTimeout s
  | .sdaTimeout => Sys2Proof.Machine.execSdaTimeout s
  | .busClear sdaHigh => Sys2Proof.Machine.execBusClear sdaHigh s
  | .hostNotify r => Sys2Proof.Machine.execHostNotify r s
  | .hostNotifyRetry r => Sys2Proof.Machine.execHostNotifyRetry r s
  | .arbitrationRetry r => Sys2Proof.Machine.execArbitrationRetry r s
  | .eepromRead r => Sys2Proof.Machine.execEepromRead r s
  | .eepromReadDone a => Sys2Proof.Machine.execEepromReadDone a s
  | .timesyncFallingEdge => Sys2Proof.Machine.execTimesyncFallingEdge s
  | .vprogOutOfTolerance blown weak => Sys2Proof.Machine.execVprogOutOfTolerance blown weak s
  | .sdaSeenHigh => Sys2Proof.Machine.execSdaSeenHigh s
  | .pageIdleTimer pc bank => Sys2Proof.Machine.execPageIdleTimer pc bank s
  | .calibrationHoldEnd => Sys2Proof.Machine.execCalibrationHoldEnd s
  | .unlistedCommandCode code write => Sys2Proof.Machine.execUnlistedCommandCode code write s

end Sys2Proof.Machine
end

