-- ==== Sys2Proof/Safety.lean ====
section
/-!
DEFINITION. The terms in which statements about the block are written: which parts of the state and which register fields a
command leaves as they were, when a command completes, and the invariants of the block.
-/
namespace Sys2Proof.Machine

/-! ### Frames -/

/-- The parts of the state: one for each field of `State`. -/
inductive Part where
  | pending | out | heldOut | free | time | pilot | dom | regs | latches | pcie | log | logWritten | rings
  | resetting | quiesce | lines | pulses | channels | fuses | trust | sensors | layers | thermal | test | sideband
  | ports | lanes | queues | queueChanges | snapshots | snapPending | tables | dead | commits | commitLog | recovered
  | cancelled | recoveredCommits | latency | engineQueues | marver | pcs | stageRows | windows | mem | placed
  | integrity | regulator
  deriving DecidableEq, Repr

/-- Part `p` of two states is the same. -/
def Part.same (p : Part) (s t : State) : Prop :=
  match p with
  | .pending => t.pending = s.pending
  | .out => t.out = s.out
  | .heldOut => t.heldOut = s.heldOut
  | .free => t.free = s.free
  | .time => t.time = s.time
  | .pilot => t.pilot = s.pilot
  | .dom => t.dom = s.dom
  | .regs => t.regs = s.regs
  | .latches => t.latches = s.latches
  | .pcie => t.pcie = s.pcie
  | .log => t.log = s.log
  | .logWritten => t.logWritten = s.logWritten
  | .rings => t.rings = s.rings
  | .resetting => t.resetting = s.resetting
  | .quiesce => t.quiesce = s.quiesce
  | .lines => t.lines = s.lines
  | .pulses => t.pulses = s.pulses
  | .channels => t.channels = s.channels
  | .fuses => t.fuses = s.fuses
  | .trust => t.trust = s.trust
  | .sensors => t.sensors = s.sensors
  | .layers => t.layers = s.layers
  | .thermal => t.thermal = s.thermal
  | .test => t.test = s.test
  | .sideband => t.sideband = s.sideband
  | .ports => t.ports = s.ports
  | .lanes => t.lanes = s.lanes
  | .queues => t.queues = s.queues
  | .queueChanges => t.queueChanges = s.queueChanges
  | .snapshots => t.snapshots = s.snapshots
  | .snapPending => t.snapPending = s.snapPending
  | .tables => t.tables = s.tables
  | .dead => t.dead = s.dead
  | .commits => t.commits = s.commits
  | .commitLog => t.commitLog = s.commitLog
  | .recovered => t.recovered = s.recovered
  | .cancelled => t.cancelled = s.cancelled
  | .recoveredCommits => t.recoveredCommits = s.recoveredCommits
  | .latency => t.latency = s.latency
  | .engineQueues => t.engineQueues = s.engineQueues
  | .marver => t.marver = s.marver
  | .pcs => t.pcs = s.pcs
  | .stageRows => t.stageRows = s.stageRows
  | .windows => t.windows = s.windows
  | .mem => t.mem = s.mem
  | .placed => t.placed = s.placed
  | .integrity => t.integrity = s.integrity
  | .regulator => t.regulator = s.regulator

/-- From `s` to `t` only the parts listed can differ. -/
def Only (ps : List Part) (s t : State) : Prop := ∀ p, p ∉ ps → p.same s t

/-- From `s` to `t` only the register fields listed can differ. -/
def OnlyRegs (ks : List Fld) (s t : State) : Prop := ∀ k, k ∉ ks → t.f k = s.f k

/-! ### Completion -/

/-- Command `c` runs from `s`: it answers a next state, and `P` holds of that state. -/
def Does (c : Instr) (s : State) (P : State → Prop) : Prop := ∃ t, exec c s = .next t ∧ P t

/-! ### Ring commands -/

/-- The command of entry `e` is in execution on its ring (R465), its completion is not discarded (R469), and the device is neither
in safe hold nor banked (R482). -/
def Running (e : Sqe) (s : State) : Prop :=
  s.halted = false ∧
    ∃ c, (s.ring e.ring).live.find? (fun c => c.tag == e.tag) = some c ∧ c.opcode = e.opcode ∧ c.dropped = false

/-- The completion entry that `s` writes next for entry `e` (R467). -/
def nextCompletion (e : Sqe) (status result : Nat) (s : State) : Output :=
  .completion e.ring (s.f (hcCqTailIndex e.ring)) e.tag status (s.f (hcCqTailPhase e.ring)) (s.f (hcSqHead e.ring)) result

/-- From `s` to `t` the host memory writes `hosts` (newest first) and then the completion of `e` are made. In D3hot they wait (R453);
else they leave at once, and vector 16 + r may follow (R460, R467). -/
def Posts (e : Sqe) (status result : Nat) (hosts : List Output) (s t : State) : Prop :=
  if s.pcie.d3hot then t.out = s.out ∧ t.heldOut = nextCompletion e status result s :: (hosts ++ s.heldOut)
  else t.heldOut = s.heldOut ∧
    (t.out = nextCompletion e status result s :: (hosts ++ s.out) ∨
      t.out = .msix (16 + e.ring) :: nextCompletion e status result s :: (hosts ++ s.out))

/-- The fields of ring `r` that a completion changes: CQ_TAIL, and the status fields that follow from the commands in execution. -/
def ringRegs (r : Nat) : List Fld :=
  [hcCqTailIndex r, hcCqTailPhase r, hcRingStatusInFlight r, hcRingStatusIdle r, hcRingStatusWaiting r]

/-- The parts that a completion changes. -/
def ringParts : List Part := [.out, .heldOut, .regs, .pcie, .rings]

/-- Command `c`, for the entry `e` in execution, completes with this status and these result bytes, and changes nothing else. -/
def Answers (c : Instr) (e : Sqe) (status result : Nat) (s : State) : Prop :=
  Does c s (fun t => Posts e status result [] s t ∧ Only ringParts s t ∧ OnlyRegs (ringRegs e.ring) s t)

/-! ### Requests -/

/-- Request `r` is executed (R198, R204 to R208, R220, R221, R226): it stands in the ingress buffer, the device is neither in safe hold,
banked nor quenched, nothing that it must wait for waits (`mayTake`), no check that every request meets refuses it (`early`), and its
longest reply has room. -/
def Admitted (r : Req) (longest : Nat) (s : State) : Prop :=
  s.mayTake r = true ∧ s.early r = none ∧ s.egressRoom r.port longest = true

/-- From `s` to `t` the egress store of the request's port gains its reply, last (R196, R201). -/
def Replies (r : Req) (status arg : Nat) (payload : List Byte) (s t : State) : Prop :=
  ∃ y : Reply, (t.port r.port).egress = (s.port r.port).egress ++ [y] ∧ y.opcode = r.opcode + 0x80 ∧ y.cls = r.b1 % 16 ∧
    y.status = status ∧ y.arg = arg ∧ y.tag = r.tag ∧ y.object = r.object ∧ y.payload = payload

/-- The output is a codeword of port `p`, or NULL bytes that fill one (R193). -/
def Filler (p : Nat) (o : Output) : Prop := (∃ w, o = .codeword p w) ∨ ∃ n, o = .item p (.null n)

/-- From `s` to `t` port `p` puts item `i` into its stream (R193); codewords that fill up leave, and nothing else goes out. -/
def Sends (p : Nat) (i : LinkItem) (s t : State) : Prop := ∃ l, t.out = l ++ .item p i :: s.out ∧ ∀ o ∈ l, Filler p o

/-- From `s` to `t` port `p` makes a replay (R213): what fills the codeword being sent, then the resync codeword and the copies
of every kept codeword. -/
def Resends (p : Nat) (s t : State) : Prop :=
  ∃ l m, t.out = l ++ .replay p (s.port p).acked ((s.port p).kept.map (·.2)) :: (m ++ s.out) ∧ (∀ o ∈ l ++ m, Filler p o) ∧
    (s.port p).keptCw.length < l.length

/-- The host reaches the registers at `off` (R88, R131, R137, R623): BARs are decoded, the device is not in safe hold, and the
block is neither closed by force nor held in local reset. -/
def Open (off : Nat) (s : State) : Prop := s.safeHold = false ∧ s.on devStatusPcieReady = true ∧ s.blockClosed off = false

/-! ### Reports -/

/-- The newest log entry of `t` reports this event (R611 to R613). -/
def Newest (t : State) (pre : LogPrefix) (code unit : Nat) : Prop :=
  ∃ n, t.log.head? = some n ∧ n.pre = pre ∧ n.code = code ∧ n.unit = unit

/-- The fields of the error log that a report changes. -/
def logRegs : List Fld := [elFirst, elNext, elLost, elStatusAlertPend]

/-- The parts that a report changes. -/
def logParts : List Part := [.out, .regs, .pcie, .log, .logWritten, .sideband]

/-- The fields that show what waits in the pseudo-channel controllers (R405): a request of the S64 to its memory changes them. -/
def controllerRegs : List Fld :=
  (List.range 64).flatMap (fun n => [mcPcStatusState n, mcPcQueueWq n, mcPcQueueRq n, mcPcQueueWqPeak n, mcPcQueueRqPeak n,
    mcPcStatusDrain n, mcPcFwd n, mcPcMerge n])

/-! ### What each command may change -/

/-- The parts of the state that a command may change. -/
def touched : Instr → List Part
  | .railCheckRetry => []
  | .closureState .. | .deviceState .. | .status | .level | .hottest | .therm0 | .therm8 | .therm16 | .errlogPtrRead | .quenchRead
  | .alertResponse => [.out]
  | .clockGateClose .. | .clockGateOpen .. | .domainAutoOff .. | .timesyncFallingEdge | .calibrationHoldEnd => [.regs]
  | .refwaitExpiry | .heartbeat => [.pilot]
  | .pwrRefuse .. | .pwrReqTimeout .. => [.ports]
  | .canaryTest .. => [.layers]
  | .sensorRecover .. => [.sensors]
  | .bucketLeak .. => [.integrity]
  | .domainWake .. => [.dom, .regs]
  | .pcieL1Entry | .d3hotEntry => [.out, .pcie]
  | .warmExit .. | .identity | .power .. | .errlogPtrWrite .. | .errlog .. | .unlistedCommandCode .. => [.out, .regs]
  | .requestUrgencyStep .. | .refreshDue .. | .pcPowerDownEntry .. | .pcSelfRefreshEntry .. | .pageIdleTimer .. => [.regs, .pcs]
  | .downNoticeTimeout .. => [.out, .ports]
  | .ptmResponse .. | .ptmResponseTimeout | .timesyncStuck => [.time, .regs]
  | .railsInTolerance | .strapSample .. | .resetPinRelease .. | .resetSourceRelease | .tapTestLogicReset | .oscTrim .. | .anvilHeartbeat =>
      [.pilot, .regs]
  | .unknownDataOpcode .. | .echo .. => [.regs, .ports]
  | .ringEntryFetch .. => [.regs, .rings]
  | .tbTimeLoRead => [.out, .latches]
  | .sdaSeenHigh => [.regs, .sideband]
  | .ptmDialog => [.out, .time, .regs]
  | .msixModerationTimer .. => [.out, .pcie, .rings]
  | .warmIdleTimer .. | .bankedIdleTimer .. | .linkUpdateRx .. | .linkUpdateSend .. | .nakRetryTimeout .. | .init .. | .pwrReq ..
  | .pwrAck .. => [.out, .regs, .ports]
  | .refclkStartupCheck .. => [.time, .pilot, .regs]
  | .configRequest .. | .d0Return => [.out, .heldOut, .pcie]
  | .loRegisterRead .. => [.out, .regs, .latches]
  | .tableRowsReturn .. => [.regs, .dead, .marver]
  | .hostNotify .. | .hostNotifyRetry .. => [.out, .regs, .sideband]
  | .versionRowsRelease .. => [.regs, .tables, .marver]
  | .activationWindowEnd => [.regs, .marver, .stageRows]
  | .fluxRewrite => [.regs, .tables, .integrity]
  | .benchMicrocodeLoaded .. => [.dom, .regs, .test, .tables]
  | .attemptIdleEnd .. => [.out, .regs, .ports, .lanes]
  | .snapshotReq .. => [.regs, .ports, .snapPending]
  | .mcRequestArrival .. => [.out, .regs, .pcs, .regulator]
  | .replySend .. => [.out, .regs, .ports, .latency]
  | .timesyncEdge .. => [.time, .regs, .lines, .pulses]
  | .markPass .. => [.regs, .lines, .pulses, .ports]
  | .laneDetectorChange .. | .trainingFrameRx .. | .linkLost .. | .bankedExit .. | .bankedFastPathTimeout .. => [.out, .regs, .pcie,
      .ports, .lanes]
  | .framingCodewordRx .. => [.free, .time, .regs, .ports, .lanes]
  | .ringEntryStart .. | .devIdentify .. | .devHealth .. | .powerInfo .. | .recoveryReport .. | .expertEnter .. | .expertLeave ..
  | .errlogRead .. | .nop .. | .snapshotRead .. | .qmPrefetch .. | .tableInfo .. | .commitLog .. | .placementInfo .. | .tierReport ..
  | .memInfo .. | .mcPolicy .. | .mcTargets .. | .integrityInfo .. | .retireCfg .. | .stageMap .. | .budgetGet .. | .regStatus ..
  | .regWindow .. | .regPlan .. | .thermRead .. | .thermLimits .. | .thermWarnSet .. | .thermLimitSet .. | .culletGet .. | .calSave ..
  | .calCfg .. | .fwInfo .. | .attest .. | .idKeyRead .. | .fuseRead .. | .evSource .. | .evSink .. | .evInfo .. | .bmChannelCfg ..
  | .bmNosnoop .. | .linkPowerCfg .. => [.out, .heldOut, .regs, .pcie, .rings]
  | .bankRetirement .. => [.regs, .marver, .integrity, .regulator]
  | .dataCodewordRx .. | .resyncCodewordRx .. => [.out, .free, .time, .regs, .ports, .lanes]
  | .epochBoundary .. => [.free, .time, .dom, .regs, .tables, .marver]
  | .linkEqSet .. => [.out, .heldOut, .regs, .pcie, .rings, .ports]
  | .fwStore .. => [.out, .heldOut, .regs, .pcie, .rings, .trust]
  | .narrowRestore => [.out, .regs, .pcie, .thermal, .ports, .lanes]
  | .memSplit .. | .mvTune .. | .mvTableHint .. => [.out, .heldOut, .regs, .pcie, .rings, .marver]
  | .scrubCfg .. | .bucketCfg .. => [.out, .heldOut, .regs, .pcie, .rings, .integrity]
  | .holdNLong | .bar0BadAccess .. | .msixUnmask .. | .rgCfgWindowWrite .. | .fuseResenseTimer .. | .bmChArm .. | .bmChClear ..
  | .sweepLate .. | .fuseData .. | .errlogWrite .. | .mailboxRefused .. | .sclTimeout | .sdaTimeout | .busClear .. | .arbitrationRetry ..
  | .eepromRead .. | .eepromReadDone .. => [.out, .regs, .pcie, .log, .logWritten, .sideband]
  | .snapshotTake .. => [.out, .heldOut, .regs, .pcie, .rings, .snapPending]
  | .queueCfg .. | .queueRemove .. | .queueFlush .. | .queueReserve .. => [.out, .heldOut, .regs, .pcie, .rings, .queueChanges]
  | .linkRetrain .. | .linkDisable .. => [.out, .heldOut, .regs, .pcie, .rings, .ports, .lanes]
  | .evPulse .. => [.out, .heldOut, .regs, .pcie, .rings, .lines, .pulses]
  | .tableImage .. => [.out, .heldOut, .regs, .pcie, .rings, .tables, .marver]
  | .errlogClear .. => [.out, .heldOut, .regs, .pcie, .log, .logWritten, .rings]
  | .layerDiscoveryTimeout .. => [.out, .pilot, .regs, .pcie, .log, .logWritten, .sideband]
  | .ringEnable .. | .ringDisable .. | .sqTailDoorbell .. | .cqHeadDoorbell .. => [.out, .regs, .pcie, .log, .logWritten, .rings,
      .sideband]
  | .replayTimeout .. => [.out, .regs, .pcie, .log, .logWritten, .sideband, .ports]
  | .teLatClear => [.out, .regs, .pcie, .log, .logWritten, .sideband, .latency]
  | .tableCommit .. => [.out, .heldOut, .time, .regs, .pcie, .rings, .tables, .commits]
  | .tableCreate .. => [.out, .heldOut, .regs, .pcie, .rings, .tables, .marver, .placed]
  | .tableUpdate .. => [.out, .heldOut, .regs, .pcie, .rings, .tables, .pcs, .regulator]
  | .registerWrite .. => [.out, .time, .regs, .pcie, .log, .logWritten, .sideband, .lanes]
  | .trainStateExit .. | .trainStateTimer .. | .requestCrcFail .. => [.out, .regs, .pcie, .log, .logWritten, .sideband, .ports, .lanes]
  | .enqCommit .. => [.out, .regs, .ports, .queues, .marver, .pcs, .placed, .regulator]
  | .evSwPulseWrite .. => [.out, .regs, .pcie, .log, .logWritten, .lines, .pulses, .sideband]
  | .trip .. => [.out, .free, .pilot, .regs, .fuses, .trust, .ports, .pcs, .windows]
  | .fuseResense .. => [.out, .heldOut, .regs, .pcie, .log, .logWritten, .rings, .sideband]
  | .qstat .. => [.out, .free, .regs, .pcie, .log, .logWritten, .sideband, .ports, .queues]
  | .tableResize .. | .cntDump .. | .tableTune .. => [.out, .heldOut, .regs, .pcie, .rings, .tables, .marver, .pcs, .regulator]
  | .quiesceTimeout => [.out, .heldOut, .free, .pilot, .regs, .pcie, .rings, .resetting, .quiesce]
  | .queueInfo .. => [.out, .heldOut, .regs, .pcie, .log, .logWritten, .rings, .sideband, .queues]
  | .bmChStart .. | .bmDescriptorFetchDone .. | .bmChannelHalt .. => [.out, .regs, .pcie, .log, .logWritten, .lines, .pulses, .channels,
      .sideband]
  | .mirrorRepair .. => [.out, .regs, .pcie, .log, .logWritten, .sideband, .tables, .marver, .integrity]
  | .rollbackAdvance .. | .fuseProgram .. | .fuseLock .. | .keyRevoke .. | .vprogOutOfTolerance .. => [.out, .heldOut, .regs, .pcie, .log,
      .logWritten, .rings, .fuses, .trust, .sideband]
  | .peek .. => [.out, .regs, .pcie, .log, .logWritten, .sideband, .ports, .queues, .pcs, .regulator]
  | .anvilSupervisorTimeout | .anvilHalt => [.out, .pilot, .dom, .regs, .pcie, .log, .logWritten, .sideband, .ports, .pcs, .windows]
  | .lookup .. | .lookupMulti .. | .cntAdd .. | .cntRead .. | .cntReadClear .. | .engineOpStart .. => [.out, .regs, .ports, .tables, .dead,
      .commits, .engineQueues, .marver, .pcs, .regulator]
  | .regWindowBoundary => [.out, .time, .regs, .pcie, .log, .logWritten, .lines, .pulses, .sideband, .pcs, .regulator]
  | .calibrationHold .. => [.out, .regs, .pcie, .log, .logWritten, .test, .sideband, .tables, .marver, .pcs, .regulator]
  | .deq .. | .dropHead .. => [.out, .regs, .pcie, .log, .logWritten, .sideband, .ports, .queues, .marver, .pcs, .regulator]
  | .tableAbort .. => [.out, .heldOut, .regs, .pcie, .rings, .lines, .pulses, .tables, .commits, .commitLog, .marver]
  | .refclkMissingEdge | .refclkFreqWindow .. => [.out, .time, .pilot, .dom, .regs, .pcie, .log, .logWritten, .sideband, .ports, .pcs,
      .windows]
  | .hostReadFail .. => [.out, .heldOut, .regs, .pcie, .log, .logWritten, .rings, .lines, .pulses, .channels, .sideband]
  | .snapshotComplete => [.out, .heldOut, .time, .regs, .pcie, .rings, .lines, .pulses, .ports, .snapshots, .snapPending]
  | .budgetSet .. => [.out, .heldOut, .regs, .pcie, .log, .logWritten, .rings, .lines, .pulses, .sideband, .regulator]
  | .tableDelete .. => [.out, .heldOut, .regs, .pcie, .rings, .lines, .pulses, .tables, .dead, .commits, .commitLog, .marver]
  | .enq .. => [.out, .regs, .pcie, .log, .logWritten, .sideband, .ports, .queues, .marver, .pcs, .placed, .regulator]
  | .commitEffectTick .. | .commitCutTimeout .. => [.out, .heldOut, .time, .regs, .pcie, .rings, .lines, .pulses, .tables, .dead, .commits,
      .commitLog, .marver]
  | .mark .. => [.out, .heldOut, .regs, .pcie, .rings, .lines, .pulses, .ports, .tables, .dead, .commits, .commitLog, .marver]
  | .calRestore .. => [.out, .heldOut, .regs, .pcie, .log, .logWritten, .rings, .test, .sideband, .tables, .marver, .pcs, .regulator]
  | .eventPulseDelivery => [.out, .regs, .pcie, .log, .logWritten, .lines, .pulses, .channels, .sideband, .snapPending, .tables, .commits]
  | .imageBuildDone .. => [.out, .heldOut, .regs, .pcie, .rings, .lines, .pulses, .tables, .commits, .commitLog, .marver, .pcs, .regulator]
  | .queueChangeApply => [.out, .heldOut, .regs, .pcie, .log, .logWritten, .rings, .sideband, .queues, .queueChanges, .marver, .pcs,
      .regulator]
  | .fwLoad .. => [.out, .heldOut, .pilot, .regs, .pcie, .rings, .trust, .ports, .lanes, .tables, .commits, .commitLog, .recovered,
      .marver]
  | .thermalSample .. => [.out, .regs, .pcie, .log, .logWritten, .lines, .pulses, .sensors, .layers, .thermal, .sideband, .ports, .lanes,
      .regulator]
  | .quenchWrite .. => [.out, .dom, .regs, .pcie, .log, .logWritten, .lines, .pulses, .thermal, .sideband, .ports, .lanes, .tables, .pcs,
      .regulator]
  | .stagingWindowRead .. | .stagingWindowWrite .. => [.out, .regs, .pcie, .log, .logWritten, .sideband, .tables, .marver, .pcs,
      .stageRows, .windows, .mem, .integrity, .regulator]
  | .holdNChange .. => [.out, .pilot, .dom, .regs, .pcie, .log, .logWritten, .lines, .pulses, .thermal, .sideband, .ports, .lanes, .tables,
      .pcs, .regulator]
  | .firmwareReverifyDone => [.out, .pilot, .regs, .pcie, .log, .logWritten, .trust, .sideband, .ports, .lanes, .tables, .commits,
      .commitLog, .recovered, .marver]
  | .quenchThermalEnd => [.out, .dom, .regs, .pcie, .log, .logWritten, .lines, .pulses, .layers, .thermal, .sideband, .ports, .lanes,
      .tables, .pcs, .regulator]
  | .culletAdd .. => [.out, .heldOut, .free, .dom, .regs, .pcie, .log, .logWritten, .rings, .sideband, .ports, .tables, .engineQueues,
      .marver, .pcs, .regulator]
  | .quenchReq .. => [.out, .heldOut, .dom, .regs, .pcie, .log, .logWritten, .rings, .lines, .pulses, .thermal, .sideband, .ports, .lanes,
      .tables, .pcs, .regulator]
  | .forcedClosureDrainEnd .. => [.out, .heldOut, .dom, .regs, .pcie, .log, .logWritten, .rings, .lines, .pulses, .channels, .sideband,
      .ports, .lanes, .snapPending, .engineQueues]
  | .bistRun .. => [.out, .heldOut, .free, .regs, .pcie, .log, .logWritten, .rings, .test, .sideband, .tables, .marver, .pcs, .stageRows,
      .mem, .integrity, .regulator]
  | .bmDescriptorEnd .. => [.out, .heldOut, .regs, .pcie, .log, .logWritten, .lines, .pulses, .channels, .sideband, .tables, .marver, .pcs,
      .stageRows, .mem, .integrity, .regulator]
  | .clockSwitchFailed .. => [.out, .heldOut, .time, .pilot, .dom, .regs, .pcie, .log, .logWritten, .rings, .lines, .pulses, .channels,
      .sideband, .ports, .lanes, .snapPending, .engineQueues]
  | .mcCommandIssue .. => [.out, .free, .regs, .pcie, .log, .logWritten, .sideband, .ports, .tables, .dead, .commits, .engineQueues,
      .marver, .pcs, .stageRows, .windows, .mem, .integrity, .regulator]
  | .bistUnitDone .. => [.out, .heldOut, .free, .dom, .regs, .pcie, .log, .logWritten, .rings, .test, .sideband, .ports, .tables,
      .engineQueues, .marver, .pcs, .stageRows, .mem, .integrity, .regulator]
  | .clockSwitchForced .. => [.out, .heldOut, .time, .pilot, .dom, .regs, .pcie, .log, .logWritten, .rings, .lines, .pulses, .channels,
      .sideband, .ports, .lanes, .snapPending, .engineQueues, .pcs, .windows]
  | .svWatchdogExpiry | .svCoreHalt => [.out, .heldOut, .free, .pilot, .dom, .regs, .pcie, .log, .logWritten, .rings, .resetting, .quiesce,
      .test, .sideband, .queues, .queueChanges, .snapPending, .marver, .pcs, .regulator]
  | .memoryReadReturn .. | .fluxRowScrub .. | .crucibleScrub .. => [.out, .free, .regs, .pcie, .log, .logWritten, .trust, .sideband,
      .ports, .queues, .snapshots, .snapPending, .tables, .dead, .commits, .engineQueues, .marver, .pcs, .integrity, .regulator]
  | .devReset .. => [.out, .heldOut, .free, .pilot, .regs, .pcie, .log, .logWritten, .rings, .resetting, .quiesce, .lines, .pulses,
      .channels, .sideband, .tables, .dead, .commits, .commitLog, .cancelled, .marver]
  | .quenchStopComplete => [.out, .free, .dom, .regs, .pcie, .log, .logWritten, .lines, .pulses, .thermal, .sideband, .ports, .tables,
      .dead, .commits, .engineQueues, .marver, .pcs, .stageRows, .windows, .mem, .integrity, .regulator]
  | .quiesceComplete => [.out, .heldOut, .free, .pilot, .regs, .pcie, .log, .logWritten, .rings, .resetting, .quiesce, .sideband, .ports,
      .tables, .dead, .commits, .engineQueues, .marver, .pcs, .stageRows, .windows, .mem, .integrity, .regulator]
  | .coldStartSequence .. | .heldRestartSequence .. => [.out, .free, .pilot, .dom, .regs, .pcie, .log, .logWritten, .trust, .sensors,
      .thermal, .test, .sideband, .ports, .tables, .commits, .commitLog, .recovered, .engineQueues, .marver, .pcs, .mem, .placed,
      .integrity, .regulator]
  | .resetPinAssert .. | .pcieHotReset | .pcieFlr | .pcieLinkDown | .preserveResetDelay | .tapInstructionLoad .. | .svActionReset => [.out,
      .heldOut, .free, .time, .pilot, .dom, .regs, .latches, .pcie, .rings, .resetting, .quiesce, .lines, .pulses, .channels, .fuses,
      .trust, .sensors, .layers, .thermal, .test, .sideband, .ports, .lanes, .queues, .queueChanges, .snapshots, .snapPending, .tables,
      .dead, .commits, .commitLog, .recovered, .cancelled, .recoveredCommits, .latency, .engineQueues, .marver, .pcs, .stageRows, .windows,
      .mem, .integrity, .regulator]
  | .railOutOfRange .. => [.out, .heldOut, .free, .time, .pilot, .dom, .regs, .latches, .pcie, .log, .logWritten, .rings, .resetting,
      .quiesce, .lines, .pulses, .channels, .fuses, .trust, .sensors, .layers, .thermal, .test, .sideband, .ports, .lanes, .queues,
      .queueChanges, .snapshots, .snapPending, .tables, .dead, .commits, .commitLog, .recovered, .cancelled, .recoveredCommits, .latency,
      .engineQueues, .marver, .pcs, .stageRows, .windows, .mem, .integrity, .regulator]
  | .vddAoRise | .vddAoFall => [.heldOut, .free, .time, .pilot, .dom, .regs, .latches, .pcie, .log, .logWritten, .rings, .resetting,
      .quiesce, .lines, .pulses, .channels, .fuses, .trust, .sensors, .layers, .thermal, .test, .sideband, .ports, .lanes, .queues,
      .queueChanges, .snapshots, .snapPending, .tables, .dead, .commits, .commitLog, .recovered, .cancelled, .recoveredCommits, .latency,
      .engineQueues, .marver, .pcs, .stageRows, .windows, .mem, .placed, .integrity, .regulator]

/-- The register fields that a command may change; `none` where they depend on the state, or where a reset is at stake. -/
def touchedRegs : Instr → Option (List Fld)
  | .railCheckRetry | .refwaitExpiry | .tbTimeLoRead | .sensorRecover .. | .canaryTest .. | .pwrRefuse .. | .pwrReqTimeout ..
  | .downNoticeTimeout .. | .configRequest .. | .msixModerationTimer .. | .pcieL1Entry | .d3hotEntry | .d0Return | .bucketLeak ..
  | .heartbeat | .closureState .. | .deviceState .. | .status | .level | .hottest | .therm0 | .therm8 | .therm16 | .errlogPtrRead
  | .quenchRead | .alertResponse => some []
  | .msixUnmask .. | .evSwPulseWrite .. | .teLatClear => some (logRegs)
  | .loRegisterRead .. => some [plPwrOn]
  | .ringEntryFetch r _ => some [hcSqHead r]
  | .anvilHeartbeat => some [elWdogAvAge]
  | .fluxRewrite => some [fxCorrected]
  | .clockGateClose .. | .clockGateOpen .. => some [plClkActive]
  | .errlog .. => some [sbErrlogPtr]
  | .devIdentify e | .devHealth e | .powerInfo e _ | .recoveryReport e | .errlogRead e | .nop e | .queueCfg e | .queueRemove e
  | .queueFlush e | .snapshotRead e | .queueReserve e | .tableInfo e | .commitLog e | .placementInfo e | .tierReport e | .mvTune e
  | .mvTableHint e | .memInfo e | .integrityInfo e | .budgetGet e | .regStatus e | .thermRead e | .thermLimits e | .culletGet e
  | .calSave e | .fwStore e _ | .fwInfo e | .attest e | .idKeyRead e | .fuseRead e | .evPulse e | .evInfo e | .linkEqSet e => some
      (ringRegs e.ring)
  | .identity | .power .. | .unlistedCommandCode .. => some [sbCountRefused]
  | .benchMicrocodeLoaded .. => some [teBenchRunning]
  | .activationWindowEnd => some [mvRowsHeldAtEnd]
  | .oscTrim .. => some [plRefmonOscTrim]
  | .sdaSeenHigh => some [sbStatusSdaStuck]
  | .ptmDialog => some [tbStatusHoldover]
  | .timesyncFallingEdge => some [tbStatusTimesyncStuck]
  | .rgCfgWindowWrite .. => some (logRegs ++ [rgCfgWindow])
  | .domainWake .. => some [plPwrOn, teBenchPowered]
  | .errlogWrite .. => some (logRegs ++ [fzStatusMbxDenied])
  | .regWindow e => some (ringRegs e.ring ++ [rgCfgWindow])
  | .regPlan e => some (ringRegs e.ring ++ [rgCfgPlanRate])
  | .ptmResponseTimeout => some [tbStatusPtmFail, tbStatusHoldover]
  | .railsInTolerance | .resetPinRelease .. | .resetSourceRelease | .tapTestLogicReset => some [devStatusStage, plPwrOn, plClkActive]
  | .qmPrefetch e => some (ringRegs e.ring ++ [qmCtrlPrefetchDepth])
  | .snapshotTake e => some (ringRegs e.ring ++ [qmStatusSnapPending])
  | .domainAutoOff .. => some [plPwrOn, teBenchPowered, teBenchRunning]
  | .timesyncStuck => some [tbStatusTimesyncStuck, tbStatusHoldover]
  | .evSource e => some (ringRegs e.ring ++ [evSrcCode (e.par 16 1)])
  | .errlogPtrWrite .. => some [sbErrlogPtr, sbStatusPecErr, sbCountRefused]
  | .bmNosnoop e => some (ringRegs e.ring ++ [bmChCfgNosnoop (e.par 16 1)])
  | .calCfg e => some (ringRegs e.ring ++ [tcCalCfgEn, tcCalCfgSpacing])
  | .scrubCfg e => some (ringRegs e.ring ++ [fxCfgSweepMin, fxStatusProgress])
  | .holdNLong => some [thAlert, elFirst, elNext, elLost, elStatusAlertPend]
  | .thermWarnSet e => some (ringRegs e.ring ++ [thresholdFld (e.par 16 1 == 0) 1])
  | .warmExit p => some [rlLinkStatusPwr p, rlLinkStatusClkLocal p, plClkActive]
  | .bmChArm _ c => some (logRegs ++ [bmChStatusShadowValid c, devStatusRwaDenied])
  | .bar0BadAccess .. => some [hcBadAccess, elFirst, elNext, elLost, elStatusAlertPend]
  | .framingCodewordRx p _ => some [rlFecStatUncorrCw p, rlFecStatCorrCw p, rlFecSymCorrSym p]
  | .stageMap e => some (ringRegs e.ring ++ [hcStageKind, hcStageWrite, hcStageBase])
  | .tableRowsReturn .. | .versionRowsRelease .. => some [mvTierReplKib, mvTierHomeKib, mvTableUsedRows, teTablesCount]
  | .sweepLate .. => some [fxStatusSweepLate, elFirst, elNext, elLost, elStatusAlertPend]
  | .fuseData .. | .mailboxRefused .. => some [fzStatusMbxDenied, elFirst, elNext, elLost, elStatusAlertPend]
  | .sclTimeout => some [sbStatusSclTimeout, elFirst, elNext, elLost, elStatusAlertPend]
  | .sdaTimeout => some [sbStatusSdaTimeout, elFirst, elNext, elLost, elStatusAlertPend]
  | .pageIdleTimer n _ => some [mcPcQueueWq n, mcPcQueueRq n, mcPcQueueWqPeak n, mcPcQueueRqPeak n]
  | .hostNotify .. | .hostNotifyRetry .. => some [sbCount2HnSent, sbCount2HnDropped, sbCountArbLost, sbCount2ArbGiveup]
  | .pwrAck p _ => some [rlSeqTxNext p, rlLinkStatusPwr p, rlLinkStatusClkLocal p, plClkActive]
  | .bmChannelCfg e => some (ringRegs e.ring ++ [bmChCfgClass (e.par 16 1), bmChHopsLimit (e.par 16 1)])
  | .bmChClear _ c => some (logRegs ++ [devStatusRwaDenied, bmChStatusState c, bmChStatusShadowValid c])
  | .bucketCfg e => some (ringRegs e.ring ++ [igBktDepthDepth (e.par 16 1), igBktLeakMs (e.par 16 1)])
  | .retireCfg e => some (ringRegs e.ring ++ [igRetireCfgAutoEn, igRetireCfgMax, igRetireCfgUeWindow])
  | .requestUrgencyStep n _ _ => some [mcPcQueueWq n, mcPcQueueRq n, mcPcQueueWqPeak n, mcPcQueueRqPeak n, mcPcLate n]
  | .tableCreate e | .tableImage e => some (ringRegs e.ring ++ [mvTierReplKib, mvTierHomeKib, mvTableUsedRows, teTablesCount])
  | .pcPowerDownEntry n => some [mcPcQueueWq n, mcPcQueueRq n, mcPcQueueWqPeak n, mcPcQueueRqPeak n, mcPcStatusState n]
  | .bankedIdleTimer p => some [rlLinkStatusPwr p, rlLinkStatusClkLocal p, plClkActive, rlTxCreditVc3 p, rlSeqTxNext p]
  | .warmIdleTimer p | .pwrReq p _ => some [rlTxCreditVc3 p, rlLinkStatusPwr p, rlLinkStatusClkLocal p, plClkActive, rlSeqTxNext p]
  | .strapSample .. => some [plStrapsRefwait, plStrapsSbaddr, plStrapsSbctl, plStrapsBist, sbStatusAddr, sbStatusCtlEn]
  | .queueInfo e => some (ringRegs e.ring ++ [qmBrokenQueue, qmBrokenCount, elFirst, elNext, elLost, elStatusAlertPend])
  | .ptmResponse .. => some [tbStatusOffset, tbRateCorr, tbStatusSlewing, tbStatusLocked, tbStatusHoldover, tbStatusStepped]
  | .refclkStartupCheck .. => some [plClkStatusRefclkBad, plRefmonOscTrim, plClkStatusPllLock, devStatusStage, plPwrOn, plClkActive]
  | .replayTimeout p => some [rlReplayReplays p, rlSeqTxNext p, rlReplayStalled p, elFirst, elNext, elLost, elStatusAlertPend]
  | .ringEntryStart r => some [hcRingStatusInFlight r, hcRingStatusIdle r, hcRingStatusWaiting r, hcCqTailIndex r, hcCqTailPhase r]
  | .eepromRead .. => some [sbStatusEepromResult, elFirst, elNext, elLost, elStatusAlertPend, sbCountArbLost, sbCount2ArbGiveup]
  | .linkUpdateSend p | .nakRetryTimeout p => some [rlReplayNaks p, rlLinkStatusPwr p, rlLinkStatusClkLocal p, plClkActive, rlSeqTxNext p,
      rlSeqRxAckSeq p]
  | .replySend p => some [rlTxCreditVc2 p, rlEgressBytes p, rlLinkStatusPwr p, rlLinkStatusClkLocal p, plClkActive, rlSeqTxNext p]
  | .busClear .. => some [sbStatusSdaStuck, sbStatusClearGaveUp, sbStatusEepromResult, elFirst, elNext, elLost, elStatusAlertPend]
  | .pcSelfRefreshEntry n => some [mcPcQueueWq n, mcPcQueueRq n, mcPcQueueWqPeak n, mcPcQueueRqPeak n, mcPcStatusState n, mcPcRefreshDebt
      n]
  | .refreshDue n _ => some [mcPcQueueWq n, mcPcQueueRq n, mcPcQueueWqPeak n, mcPcQueueRqPeak n, mcPcRefreshDebt n, mcPcRefreshForced n]
  | .evSink e => some (ringRegs e.ring ++ [evSnapLine, evSnapConnected, bmChCfgStartLine (e.par 18 1), bmChCfgStartEn (e.par 18 1)])
  | .bmChannelHalt c _ _ => some [bmChStatusState c, bmChStatusStatus c, bmChBytes c, bmCtrlLastErr, elFirst, elNext, elLost,
      elStatusAlertPend]
  | .fuseResenseTimer .. => some [fzResenseStatMarginal, fzResenseStatDiffer, fzResenseStatUnstable, elFirst, elNext, elLost,
      elStatusAlertPend]
  | .rollbackAdvance e _ _ | .fuseProgram e _ _ _ | .fuseLock e _ _ | .keyRevoke e _ _ => some (ringRegs e.ring ++ [fzProgBusy,
      fzProgStatus, fzProgWord, elFirst, elNext, elLost, elStatusAlertPend, fzProgVprogOk])
  | .layerDiscoveryTimeout .. => some [devStackFound, devStatusStackFault, devStatusStage, elFirst, elNext, elLost, elStatusAlertPend,
      tcCulletPc, tcCulletLayer]
  | .regWindowBoundary => some [rgDemoted, rgCommitted, rgScaleK, rgStatusScaled, rgStatusBreach, rgBreachCount, elFirst, elNext, elLost,
      elStatusAlertPend]
  | .echo r => some [rlProtoErrLength r.port, rlEgressBytes r.port, rxFree r.port (reqChannel r), rlProtoErrCredit r.port, qmRefuseState,
      teRefused]
  | .unknownDataOpcode r => some [rlProtoErrOpcode r.port, rlEgressBytes r.port, rxFree r.port (reqChannel r), rlProtoErrCredit r.port,
      qmRefuseState, teRefused]
  | .budgetSet e _ => some (ringRegs e.ring ++ [rgCommitted, rgScaleK, rgStatusScaled, rgStatusBreach, rgBreachCount, elFirst, elNext,
      elLost, elStatusAlertPend])
  | .arbitrationRetry .. => some [sbStatusEepromResult, elFirst, elNext, elLost, elStatusAlertPend, sbCountArbLost, sbCount2ArbGiveup,
      sbCount2HnSent, sbCount2HnDropped]
  | .init p _ => some [rlTxCreditVc2 p, rlTxCreditVc3 p, rlReplayNaks p, rlLinkStatusPwr p, rlLinkStatusClkLocal p, plClkActive,
      rlSeqTxNext p, rlSeqRxAckSeq p]
  | .timesyncEdge .. => some [tbSyncCfgIgnored, tbSyncCapt, tbSyncNext, tbStatusOffset, tbRateCorr, tbStatusSlewing, tbStatusLocked,
      tbStatusHoldover, tbStatusStepped]
  | .ringDisable r => some (logRegs ++ [hcRingCtrlEnable r, hcRingStatusEnabled r, hcRingStatusExpert r, hcRingStatusInFlight r,
      hcRingStatusIdle r, hcRingStatusWaiting r])
  | .tableUpdate e _ => some (controllerRegs ++ [hcCqTailIndex e.ring, hcCqTailPhase e.ring, hcRingStatusInFlight e.ring, hcRingStatusIdle
      e.ring, hcRingStatusWaiting e.ring])
  | .bankRetirement .. => some [mvDrainBlocks, mvEligible, mvStatusEligible, mvThermExcl, mvStatusFloorHit, mvStatusOut, mvPoolRows,
      mvRetiredBanks, mvSplitTUnits, qmPoolLimit]
  | .snapshotReq r => some [rlProtoErrLength r.port, rlEgressBytes r.port, qmStatusSnapPending, rxFree r.port (reqChannel r),
      rlProtoErrCredit r.port, qmRefuseState, teRefused]
  | .memSplit e => some (ringRegs e.ring ++ [mvSplitTUnits, mvEligible, mvStatusEligible, mvThermExcl, mvStatusFloorHit, mvStatusOut,
      mvPoolRows, mvRetiredBanks, qmPoolLimit])
  | .expertEnter e | .expertLeave e => some [hcRingStatusExpert e.ring, hcCqTailIndex e.ring, hcCqTailPhase e.ring, hcRingStatusInFlight
      e.ring, hcRingStatusIdle e.ring, hcRingStatusWaiting e.ring]
  | .mcRequestArrival r => some [mcPcStatusState r.pc, mcPcQueueWq r.pc, mcPcQueueRq r.pc, mcPcQueueWqPeak r.pc, mcPcQueueRqPeak r.pc,
      mcPcStatusDrain r.pc, mcPcFwd r.pc, mcPcMerge r.pc]
  | .linkUpdateRx p _ => some [rlTxCreditVc2 p, rlTxCreditVc3 p, rlReplayNaks p, rlLinkStatusPwr p, rlLinkStatusClkLocal p, plClkActive,
      rlSeqTxNext p, rlSeqRxAckSeq p, rlReplayReplays p]
  | .errlogClear e => some [elFirst, elLost, elStatusAlertPend, hcCqTailIndex e.ring, hcCqTailPhase e.ring, hcRingStatusInFlight e.ring,
      hcRingStatusIdle e.ring, hcRingStatusWaiting e.ring]
  | .thermLimitSet e => some [thresholdFld (e.par 16 1 == 0) (e.par 17 1), hcCqTailIndex e.ring, hcCqTailPhase e.ring, hcRingStatusInFlight
      e.ring, hcRingStatusIdle e.ring, hcRingStatusWaiting e.ring]
  | .eepromReadDone .. => some [sbStatusEepromResult, elFirst, elNext, elLost, elStatusAlertPend, sbCfgCtlSpeed, sbHnCfgEn, sbHnCfgPec,
      sbCfgPecRequired, sbHnCfgTarget, sbHnCfgMinGap, thThrD0Warn, thThrB0Warn]
  | .cntDump e => some (controllerRegs ++ [hcCqTailIndex e.ring, hcCqTailPhase e.ring, hcRingStatusInFlight e.ring, hcRingStatusIdle
      e.ring, hcRingStatusWaiting e.ring, teDramReads, teMirrorSaves, teCntOps])
  | .sqTailDoorbell r _ | .cqHeadDoorbell r _ => some (logRegs ++ [hcRingCtrlEnable r, hcRingStatusEnabled r, hcRingStatusExpert r,
      hcRingStatusInFlight r, hcRingStatusIdle r, hcRingStatusWaiting r, hcRingStatusError r, hcRingStatusErrCode r])
  | .qstat r => some [qmBrokenQueue, qmBrokenCount, elFirst, elNext, elLost, elStatusAlertPend, rlEgressBytes r.port, rlProtoErrLength
      r.port, qmRefuseState, rxFree r.port (reqChannel r), rlProtoErrCredit r.port, teRefused]
  | .ringEnable r => some (logRegs ++ [hcRingCtrlEnable r, hcRingStatusEnabled r, hcRingStatusExpert r, hcSqHead r, hcCqTailIndex r,
      hcCqTailPhase r, hcRingStatusInFlight r, hcRingStatusIdle r, hcRingStatusWaiting r, hcCfgReject])
  | .tableResize e | .tableTune e => some (controllerRegs ++ [hcCqTailIndex e.ring, hcCqTailPhase e.ring, hcRingStatusInFlight e.ring,
      hcRingStatusIdle e.ring, hcRingStatusWaiting e.ring, mvTierReplKib, mvTierHomeKib, mvTableUsedRows, teTablesCount])
  | .lookup r | .lookupMulti r | .cntAdd r | .cntRead r | .cntReadClear r => some (controllerRegs ++ [teRefused, rlProtoErrLength r.port,
      rlEgressBytes r.port, teDramReads, teMirrorSaves, teLookup, teMiss, teMemerr, teCntOps, rxFree r.port (reqChannel r),
      rlProtoErrCredit r.port, qmRefuseState])
  | .peek r => some (controllerRegs ++ [rlEgressBytes r.port, qmBrokenQueue, qmBrokenCount, elFirst, elNext, elLost, elStatusAlertPend,
      rlProtoErrLength r.port, qmRefuseState, rxFree r.port (reqChannel r), rlProtoErrCredit r.port, teRefused])
  | .fuseResense e _ => some [fzResenseStatMarginal, fzResenseStatDiffer, fzResenseStatUnstable, elFirst, elNext, elLost,
      elStatusAlertPend, hcCqTailIndex e.ring, hcCqTailPhase e.ring, hcRingStatusInFlight e.ring, hcRingStatusIdle e.ring,
      hcRingStatusWaiting e.ring]
  | .dropHead r => some (controllerRegs ++ [rlEgressBytes r.port, qmBrokenQueue, qmBrokenCount, elFirst, elNext, elLost, elStatusAlertPend,
      mvDrainBlocks, qmDeqCount, qmLostPackets, rlProtoErrLength r.port, qmRefuseState, rxFree r.port (reqChannel r), rlProtoErrCredit
      r.port, teRefused])
  | .deq r => some (controllerRegs ++ [rlEgressBytes r.port, qmBrokenQueue, qmBrokenCount, elFirst, elNext, elLost, elStatusAlertPend,
      mvDrainBlocks, qmDeqCount, qmLostPackets, qmPoisonPackets, rlProtoErrLength r.port, qmRefuseState, rxFree r.port (reqChannel r),
      rlProtoErrCredit r.port, teRefused])
  | .enq r => some (controllerRegs ++ [mvSpreadDetours, mvSpreadMin, rlProtoErrLength r.port, rlEgressBytes r.port, qmRefuseState,
      qmRefuseQfull, qmRefusePool, qmBrokenQueue, qmBrokenCount, elFirst, elNext, elLost, elStatusAlertPend, qmEnqCount, rxFree r.port
      (reqChannel r), rlProtoErrCredit r.port, teRefused])
  | .attemptIdleEnd p => some [rlLinkStatusAttempt p, rlEqCtrlTxPreset p, rlEqCtrlPresetForce p, rlEqCtrlDfeFreeze p, rlEqCtrlCtleFixed p,
      rlEqCtrlCtleValue p, rlLinkStatusState p, rlLinkStatusPwr p, rlLinkStatusWidth p, rlLinkStatusLanes p, rlLinkStatusReversed p,
      rlLinkStatusClkLane p, rlLinkStatusClkLocal p, rlLaneStatusPolInv p]
  | .linkLost p => some [rlLinkStatusChanged p, rlRetrainCountCold p, rlLinkStatusAttempt p, rlEqCtrlTxPreset p, rlEqCtrlPresetForce p,
      rlEqCtrlDfeFreeze p, rlEqCtrlCtleFixed p, rlEqCtrlCtleValue p, rlLinkStatusState p, rlLinkStatusPwr p, rlLinkStatusWidth p,
      rlLinkStatusLanes p, rlLinkStatusReversed p, rlLinkStatusClkLane p, rlLinkStatusClkLocal p, rlLaneStatusPolInv p]
  | .bmChStart _ c => some (logRegs ++ [bmAcSrc c, bmAcDst c, bmAcCount c, bmAcModeOp c, bmAcModeSrcSpace c, bmAcModeDstSpace c,
      bmAcModeSrcW c, bmAcModeDstW c, bmAcModePulseDone c, bmAcModeStopOnMismatch c, bmAcFill c, bmAcNext c, bmChStatusShadowValid c,
      bmChHopsCount c, bmChBytes c, bmChStatusState c, bmChStatusStatus c, bmCtrlLastErr, bmChStatusStartMissed c, devStatusRwaDenied])
  | .bankedFastPathTimeout p => some [rlLinkStatusChanged p, rlLaneStatusExcluded p, rlRetrainCountCold p, rlLinkStatusAttempt p,
      rlEqCtrlTxPreset p, rlEqCtrlPresetForce p, rlEqCtrlDfeFreeze p, rlEqCtrlCtleFixed p, rlEqCtrlCtleValue p, rlLinkStatusState p,
      rlLinkStatusPwr p, rlLinkStatusWidth p, rlLinkStatusLanes p, rlLinkStatusReversed p, rlLinkStatusClkLane p, rlLinkStatusClkLocal p,
      rlLaneStatusPolInv p]
  | .bankedExit p => some [plPwrOn, plClkActive, rlLinkStatusState p, rlLinkStatusPwr p, rlLinkStatusClkLocal p, rlLaneStatusExcluded p,
      rlLinkStatusChanged p, rlRetrainCountCold p, rlLinkStatusAttempt p, rlEqCtrlTxPreset p, rlEqCtrlPresetForce p, rlEqCtrlDfeFreeze p,
      rlEqCtrlCtleFixed p, rlEqCtrlCtleValue p, rlLinkStatusWidth p, rlLinkStatusLanes p, rlLinkStatusReversed p, rlLinkStatusClkLane p,
      rlLaneStatusPolInv p]
  | .trainingFrameRx p _ _ => some [rlLinkStatusChanged p, rlRetrainCountCold p, rlLinkStatusAttempt p, rlEqCtrlTxPreset p,
      rlEqCtrlPresetForce p, rlEqCtrlDfeFreeze p, rlEqCtrlCtleFixed p, rlEqCtrlCtleValue p, rlLinkStatusState p, rlLinkStatusPwr p,
      rlLinkStatusWidth p, rlLinkStatusLanes p, rlLinkStatusReversed p, rlLinkStatusClkLane p, rlLinkStatusClkLocal p, rlLaneStatusPolInv
      p, rlRetrainCountShort p, rlLaneStatusExcluded p]
  | .laneDetectorChange p _ _ _ => some [rlLaneStatusLos p, rlLaneStatusLol p, rlLinkStatusChanged p, rlRetrainCountCold p,
      rlLinkStatusAttempt p, rlEqCtrlTxPreset p, rlEqCtrlPresetForce p, rlEqCtrlDfeFreeze p, rlEqCtrlCtleFixed p, rlEqCtrlCtleValue p,
      rlLinkStatusState p, rlLinkStatusPwr p, rlLinkStatusWidth p, rlLinkStatusLanes p, rlLinkStatusReversed p, rlLinkStatusClkLane p,
      rlLinkStatusClkLocal p, rlLaneStatusPolInv p, rlRetrainCountShort p, rlLaneStatusExcluded p]
  | .trainStateExit p _ => some [rlLinkStatusState p, rlLinkStatusClkLane p, rlLinkStatusClkLocal p, rlLaneStatusPolInv p,
      rlLinkStatusReversed p, rlLinkStatusLanes p, rlLinkStatusWidth p, rlLaneStatusExcluded p, rlLatFixed p, rlSeqRxAckSeq p,
      rlResumeResumed p, rlLostReplies p, rlLostPackets p, elFirst, elNext, elLost, elStatusAlertPend, rlSeqTxNext p, rlEgressBytes p,
      rlRxFreeAVc0 p, rlRxFreeAVc1 p, rlRxFreeBVc3 p, rlResumeNotResumed p, rlLinkStatusPwr p, rlLinkStatusChanged p, devStatusDpReady,
      devStatusStage, devBootTimeToDp]
  | .trainStateTimer p _ => some [rlLinkStatusAttempt p, rlLinkStatusChanged p, rlTrainFailState p, rlTrainFailCode p, rlLinkStatusClkLocal
      p, rlLinkStatusWidth p, rlLinkStatusLanes p, rlTrainFailCount p, rlLinkStatusState p, elFirst, elNext, elLost, elStatusAlertPend,
      devStatusDpReady, devStatusStage, devBootTimeToDp, rlLaneStatusExcluded p, rlRetrainCountCold p, rlEqCtrlTxPreset p,
      rlEqCtrlPresetForce p, rlEqCtrlDfeFreeze p, rlEqCtrlCtleFixed p, rlEqCtrlCtleValue p, rlLinkStatusPwr p, rlLinkStatusReversed p,
      rlLinkStatusClkLane p, rlLaneStatusPolInv p]
  | .bmDescriptorFetchDone c _ => some [bmChStatusState c, bmChStatusStatus c, bmChBytes c, bmCtrlLastErr, elFirst, elNext, elLost,
      elStatusAlertPend, bmShSrc c, bmShDst c, bmShCount c, bmShModeOp c, bmShModeSrcSpace c, bmShModeDstSpace c, bmShModeSrcW c,
      bmShModeDstW c, bmShModePulseDone c, bmShModeStopOnMismatch c, bmShFill c, bmShNext c, bmChStatusShadowValid c, bmAcSrc c, bmAcDst c,
      bmAcCount c, bmAcModeOp c, bmAcModeSrcSpace c, bmAcModeDstSpace c, bmAcModeSrcW c, bmAcModeDstW c, bmAcModePulseDone c,
      bmAcModeStopOnMismatch c, bmAcFill c, bmAcNext c, bmChHopsCount c]
  | .vddAoRise | .vddAoFall | .railOutOfRange .. | .resetPinAssert .. | .coldStartSequence .. | .pcieHotReset | .pcieFlr | .pcieLinkDown
  | .heldRestartSequence .. | .firmwareReverifyDone | .quiesceComplete | .quiesceTimeout | .preserveResetDelay | .tapInstructionLoad ..
  | .refclkMissingEdge | .refclkFreqWindow .. | .clockSwitchForced .. | .clockSwitchFailed .. | .forcedClosureDrainEnd .. | .holdNChange ..
  | .thermalSample .. | .narrowRestore | .quenchStopComplete | .quenchThermalEnd | .trip .. | .dataCodewordRx .. | .resyncCodewordRx ..
  | .requestCrcFail .. | .enqCommit .. | .mark .. | .markPass .. | .snapshotComplete | .engineOpStart .. | .registerWrite ..
  | .stagingWindowRead .. | .stagingWindowWrite .. | .hostReadFail .. | .devReset .. | .queueChangeApply | .tableDelete ..
  | .tableCommit .. | .imageBuildDone .. | .commitEffectTick .. | .commitCutTimeout .. | .tableAbort .. | .mcPolicy .. | .mcTargets ..
  | .quenchReq .. | .bistRun .. | .bistUnitDone .. | .culletAdd .. | .calRestore .. | .fwLoad .. | .eventPulseDelivery
  | .bmDescriptorEnd .. | .linkRetrain .. | .linkPowerCfg .. | .linkDisable .. | .epochBoundary .. | .mcCommandIssue ..
  | .calibrationHold .. | .memoryReadReturn .. | .fluxRowScrub .. | .crucibleScrub .. | .mirrorRepair .. | .svWatchdogExpiry | .svCoreHalt
  | .svActionReset | .anvilSupervisorTimeout | .anvilHalt | .quenchWrite .. | .vprogOutOfTolerance .. | .calibrationHoldEnd => none

/-- The submission entry of a command that a ring gives (R464, R489); the events give none. -/
def ringEntry : Instr → Option Sqe
  | .devIdentify e | .devHealth e | .powerInfo e _ | .devReset e | .recoveryReport e | .expertEnter e | .expertLeave e | .errlogRead e
  | .errlogClear e | .nop e | .queueCfg e | .queueRemove e | .queueFlush e | .queueInfo e | .snapshotTake e | .snapshotRead e
  | .queueReserve e | .qmPrefetch e | .tableCreate e | .tableDelete e | .tableInfo e | .tableResize e | .cntDump e | .tableTune e
  | .tableUpdate e _ | .tableImage e | .tableCommit e | .tableAbort e | .commitLog e | .memSplit e | .placementInfo e | .tierReport e
  | .mvTune e | .mvTableHint e | .memInfo e | .mcPolicy e | .mcTargets e | .integrityInfo e | .scrubCfg e | .bucketCfg e | .retireCfg e
  | .stageMap e | .budgetSet e _ | .budgetGet e | .regStatus e | .regWindow e | .regPlan e | .thermRead e | .thermLimits e
  | .thermWarnSet e | .thermLimitSet e | .quenchReq e | .bistRun e | .culletGet e | .culletAdd e _ | .calSave e | .calRestore e _
  | .calCfg e | .fwLoad e _ | .fwStore e _ | .fwInfo e | .rollbackAdvance e _ _ | .attest e | .idKeyRead e | .fuseRead e
  | .fuseProgram e _ _ _ | .fuseLock e _ _ | .fuseResense e _ | .keyRevoke e _ _ | .evSource e | .evSink e | .evPulse e | .evInfo e
  | .bmChannelCfg e | .bmNosnoop e | .linkRetrain e | .linkPowerCfg e | .linkDisable e | .linkEqSet e => some e
  | .vddAoRise | .vddAoFall | .railsInTolerance | .railCheckRetry | .railOutOfRange .. | .strapSample .. | .refwaitExpiry
  | .refclkStartupCheck .. | .resetPinAssert .. | .resetPinRelease .. | .coldStartSequence .. | .layerDiscoveryTimeout .. | .pcieHotReset
  | .pcieFlr | .pcieLinkDown | .resetSourceRelease | .heldRestartSequence .. | .firmwareReverifyDone | .quiesceComplete | .quiesceTimeout
  | .preserveResetDelay | .tapInstructionLoad .. | .tapTestLogicReset | .oscTrim .. | .refclkMissingEdge | .refclkFreqWindow ..
  | .clockSwitchForced .. | .clockSwitchFailed .. | .clockGateClose .. | .clockGateOpen .. | .domainAutoOff .. | .domainWake ..
  | .benchMicrocodeLoaded .. | .forcedClosureDrainEnd .. | .ptmDialog | .ptmResponse .. | .ptmResponseTimeout | .timesyncEdge ..
  | .timesyncStuck | .tbTimeLoRead | .loRegisterRead .. | .holdNChange .. | .holdNLong | .thermalSample .. | .sensorRecover ..
  | .canaryTest .. | .narrowRestore | .quenchStopComplete | .quenchThermalEnd | .trip .. | .laneDetectorChange .. | .trainingFrameRx ..
  | .trainStateExit .. | .trainStateTimer .. | .attemptIdleEnd .. | .linkLost .. | .warmIdleTimer .. | .bankedIdleTimer .. | .warmExit ..
  | .bankedExit .. | .bankedFastPathTimeout .. | .dataCodewordRx .. | .framingCodewordRx .. | .resyncCodewordRx .. | .linkUpdateRx ..
  | .linkUpdateSend .. | .nakRetryTimeout .. | .replayTimeout .. | .init .. | .pwrReq .. | .pwrAck .. | .pwrRefuse .. | .pwrReqTimeout ..
  | .downNoticeTimeout .. | .requestCrcFail .. | .unknownDataOpcode .. | .enq .. | .enqCommit .. | .deq .. | .peek .. | .dropHead ..
  | .qstat .. | .lookup .. | .lookupMulti .. | .cntAdd .. | .cntRead .. | .cntReadClear .. | .mark .. | .markPass .. | .echo ..
  | .snapshotReq .. | .snapshotComplete | .engineOpStart .. | .replySend .. | .configRequest .. | .bar0BadAccess .. | .registerWrite ..
  | .stagingWindowRead .. | .stagingWindowWrite .. | .ringEnable .. | .ringDisable .. | .sqTailDoorbell .. | .cqHeadDoorbell ..
  | .ringEntryFetch .. | .ringEntryStart .. | .hostReadFail .. | .msixModerationTimer .. | .msixUnmask .. | .pcieL1Entry | .d3hotEntry
  | .d0Return | .queueChangeApply | .tableRowsReturn .. | .imageBuildDone .. | .commitEffectTick .. | .commitCutTimeout ..
  | .versionRowsRelease .. | .rgCfgWindowWrite .. | .bistUnitDone .. | .fuseResenseTimer .. | .evSwPulseWrite .. | .eventPulseDelivery
  | .bmChStart .. | .bmChArm .. | .bmChClear .. | .bmDescriptorFetchDone .. | .bmDescriptorEnd .. | .bmChannelHalt .. | .teLatClear
  | .epochBoundary .. | .activationWindowEnd | .mcRequestArrival .. | .mcCommandIssue .. | .requestUrgencyStep .. | .refreshDue ..
  | .pcPowerDownEntry .. | .pcSelfRefreshEntry .. | .calibrationHold .. | .memoryReadReturn .. | .bucketLeak .. | .fluxRewrite
  | .fluxRowScrub .. | .crucibleScrub .. | .sweepLate .. | .mirrorRepair .. | .bankRetirement .. | .regWindowBoundary | .heartbeat
  | .fuseData .. | .closureState .. | .errlogWrite .. | .deviceState .. | .mailboxRefused .. | .svWatchdogExpiry | .svCoreHalt
  | .svActionReset | .anvilHeartbeat | .anvilSupervisorTimeout | .anvilHalt | .status | .identity | .power .. | .level | .hottest | .therm0
  | .therm8 | .therm16 | .errlogPtrWrite .. | .errlogPtrRead | .errlog .. | .quenchWrite .. | .quenchRead | .alertResponse | .sclTimeout
  | .sdaTimeout | .busClear .. | .hostNotify .. | .hostNotifyRetry .. | .arbitrationRetry .. | .eepromRead .. | .eepromReadDone ..
  | .timesyncFallingEdge | .vprogOutOfTolerance .. | .sdaSeenHigh | .pageIdleTimer .. | .calibrationHoldEnd | .unlistedCommandCode .. =>
      none

/-! ### Invariants -/

/-- The bit `b` of fuse word `w` is blown. -/
def State.isBlown (s : State) (w b : Nat) : Bool := bitOf (fuseWord s.fuses.words w) b

/-- What every step keeps: the commit log holds at most 458 496 records (R368), and the memory is in its canonical form. -/
structure State.Inv (s : State) : Prop where
  commitLog : s.commitLog.length ≤ 458496
  mem : Memory.wf s.mem = true

/-- A full reset is under way, or the supply of Pilot has been lost. -/
def State.outOfReset (s : State) : Prop := s.pilot.phase = .resetHeld ∨ s.pilot.phase = .off ∨ s.pilot.phase = .rails

end Sys2Proof.Machine
end

