-- ==== Sys2Proof/Certificates/Slice0/Obligations.lean ====
section
/-!
DEFINITION. What is to be proved of the block: one proposition for each obligation, by the chapters of the spec. A clause about a
command has as its conclusion that the command runs (`Does`, `Answers`), with what it changes and what it leaves.
-/
open Sys2Proof Sys2Proof.Machine

/-- Power rails, straps and the REFCLK check (R62 to R69, R86 steps 1 to 3, R119): what each event of the start does, for the states
in which it has its effect, and what it leaves unchanged.

The constructors that it says run to a next state with their own effect: vddAoRise, vddAoFall, railsInTolerance, railCheckRetry,
strapSample, refwaitExpiry, refclkStartupCheck. -/
def Obligations.PowerOnEventsAdvance : Prop :=
  (∀ s : State, s.pilot.phase = .off →
    Does .vddAoRise s (fun t => t.pilot.phase = .rails ∧ t.pilot.kind = .powerOn ∧ (∀ k, t.f k = coldOf k) ∧ t.log = [] ∧
      t.tables = [] ∧ t.pending = s.pending)) ∧
  (∀ s : State, Does .vddAoFall s (fun t => t.pilot.phase = .off ∧ (∀ k, t.f k = coldOf k) ∧ t.log = [] ∧ t.tables = [] ∧
    t.pending = s.pending)) ∧
  (∀ s : State, s.pilot.phase = .rails →
    Does .railsInTolerance s (fun t => t = { s with pilot := { s.pilot with railsLow := 0, phase := .refwait } })) ∧
  (∀ s : State, s.pilot.phase = .rails → Does .railCheckRetry s (fun t => t.pilot.phase = .rails ∧ t = s)) ∧
  (∀ s : State, s.pilot.phase ≠ .rails → Does .railCheckRetry s (fun t => t = s)) ∧
  (∀ (s : State) (refwait sbaddr sbctl bist : Nat), s.pilot.phase ≠ .off → s.pilot.strapsTaken = false →
    Does (.strapSample refwait sbaddr sbctl bist) s (fun t =>
      t.pilot = { s.pilot with strapsTaken := true } ∧ t.f plStrapsRefwait = refwait % 8 ∧ t.f plStrapsSbaddr = sbaddr % 4 ∧
      t.f plStrapsSbctl = sbctl % 2 ∧ t.f plStrapsBist = bist % 2 ∧ t.f sbStatusAddr = 0x4C + sbaddr % 4 ∧
      t.f sbStatusCtlEn = sbctl % 2 ∧ Only [.pilot, .regs] s t ∧
      OnlyRegs [plStrapsRefwait, plStrapsSbaddr, plStrapsSbctl, plStrapsBist, sbStatusAddr, sbStatusCtlEn] s t)) ∧
  (∀ s : State, s.pilot.phase = .refwait → s.pilot.strapsTaken = true →
    Does .refwaitExpiry s (fun t => t = { s with pilot := { s.pilot with phase := .refclk } })) ∧
  (∀ (s : State) (count trim : Nat), s.pilot.phase = .refclk → s.pilot.thermtrip = false → 9600 ≤ count → count ≤ 10400 →
    Does (.refclkStartupCheck count trim) s (fun t =>
      t.pilot.refclkOk = true ∧ t.pilot.next = 4 ∧ t.pilot.anvilOsc = false ∧ t.time.onOsc = false ∧
      t.pilot.phase = (if s.resetHeldBySource then .resetHeld else .ready) ∧
      t.f plClkStatusRefclkBad = 0 ∧ t.f plRefmonOscTrim = trim % 256 ∧ t.f plClkStatusPllLock = 0x1F ∧
      (s.resetHeldBySource = false → t.f devStatusStage = if s.on devStatusStackFault then 0xC else 1) ∧
      Only [.pilot, .time, .regs] s t ∧ OnlyRegs [plClkStatusRefclkBad, plRefmonOscTrim, plClkStatusPllLock, devStatusStage, plPwrOn, plClkActive] s t)) ∧
  (∀ (s : State) (count trim : Nat), s.pilot.phase = .refclk → s.pilot.thermtrip = false → ¬ (9600 ≤ count ∧ count ≤ 10400) →
    Does (.refclkStartupCheck count trim) s (fun t =>
      t.f plClkStatusRefclkBad = 1 ∧ t.f devStatusStage = 0 ∧ t.pilot = { s.pilot with refclkOk := false } ∧ Only [.pilot, .regs] s t ∧
      OnlyRegs [plClkStatusRefclkBad, devStatusStage] s t))

/-- A rail that leaves its range while the device runs (R68): a full reset of kind uncommanded with cause 8, the source held, PL 0x02
and ALERT_PEND. In the banked state, which only power-on and the reset pins leave (R139), the rail is noted, and the DRAM is lost with VDDQ
and VPP.

The constructors that it says run to a next state with their own effect: railOutOfRange. -/
def Obligations.RailLossResets : Prop :=
  (∀ (s : State) (rail : Nat), rail ≠ 2 → rail ≤ 8 → s.resettable = true → s.banked = false →
    Does (.railOutOfRange rail) s (fun t =>
      t.pilot.phase = .resetHeld ∧ t.pilot.kind = .uncommanded ∧ t.pilot.internalHeld = true ∧ bitOf t.pilot.railsLow rail = true ∧
      t.f devResetCauseCause = 8 ∧ t.f elStatusAlertPend = 1 ∧ Newest t .pl 0x02 0xFF ∧ t.queues = [] ∧ t.rings = [] ∧
      t.pending = s.pending)) ∧
  (∀ (s : State) (rail : Nat), rail ≠ 2 → rail ≤ 8 → s.pilot.phase ≠ .off → s.banked = true →
    Does (.railOutOfRange rail) s (fun t => t = { s with pilot := { s.pilot with
      railsLow := setBit s.pilot.railsLow rail, sealed := s.pilot.sealed && !(rail == 6 || rail == 7) } }))

/-- A source of the reset has gone (R58, R86, R98): where none is left and the device has not tripped, the sequence goes on, with the REFCLK
check of step 3 where that is still due and else with step 4; nothing else changes. -/
def Resumes (s t : State) : Prop :=
  (s.pilot.phase = .resetHeld → t.resetHeldBySource = false → s.pilot.thermtrip = false →
    t.pilot.phase = if s.pilot.next = 3 then .refclk else .ready) ∧
  (s.pilot.phase ≠ .resetHeld ∨ t.resetHeldBySource = true ∨ s.pilot.thermtrip = true → t.pilot.phase = s.pilot.phase) ∧
  t.pilot.next = s.pilot.next ∧ Only [.pilot, .regs] s t ∧ OnlyRegs [devStatusStage, plPwrOn, plClkActive] s t

/-- Every source of an uncommanded full reset (R83, R84, R110): where it can reset the device, the reset begins with the cause of
the source, the pins are recorded, and the queue of commands and the error log stay. The release of a reset source (R58, R98
step 2, R638): the sequence goes on once no source is left, and nothing else changes. A boundary-scan instruction that is
neither a reset nor vendor-private is only recorded, and in the banked state a reset instruction too (R139); a private one stops the run while CUSTOMER_CLOSE is open (R639 gives it no
effect there), and acts as BYPASS once it is closed.

The constructors that it says run to a next state with their own effect: resetPinAssert, pcieHotReset, pcieFlr, pcieLinkDown,
tapInstructionLoad, resetPinRelease, resetSourceRelease, tapTestLogicReset. -/
def Obligations.ResetSourcesResetAndRelease : Prop :=
  (∀ (s : State) (pin : ResetPin), s.resettable = true →
    Does (.resetPinAssert pin) s (fun t => t.pilot.phase = .resetHeld ∧ t.pilot.kind = .uncommanded ∧
      t.f devResetCauseCause = (if pin = .resetN then 1 else 2) ∧ (if pin = .resetN then t.pilot.resetN else t.pilot.perstN) = false ∧
      t.log = s.log ∧ t.queues = [] ∧ t.rings = [] ∧ t.ports = [])) ∧
  (∀ s : State, s.pcieAlive = true →
    Does .pcieHotReset s (fun t => t.pilot.phase = .resetHeld ∧ t.pilot.kind = .uncommanded ∧ t.pilot.internalHeld = true ∧
      t.f devResetCauseCause = 3 ∧ t.log = s.log ∧ t.queues = [] ∧ t.rings = [] ∧ t.ports = [])) ∧
  (∀ s : State, s.pcieAlive = true → s.f devStatusPcieReady = 1 ∨ s.safeHold = true →
    Does .pcieFlr s (fun t => t.pilot.phase = .resetHeld ∧ t.pilot.kind = .uncommanded ∧ t.pilot.internalHeld = true ∧
      t.f devResetCauseCause = 4 ∧ t.log = s.log ∧ t.queues = [] ∧ t.rings = [] ∧ t.ports = [])) ∧
  (∀ s : State, s.pcieAlive = true → s.pcie.linkUp = true ∨ s.pilot.phase = .ready →
    Does .pcieLinkDown s (fun t => t.pilot.phase = .resetHeld ∧ t.pilot.kind = .uncommanded ∧ t.pilot.internalHeld = true ∧
      t.f devResetCauseCause = 5 ∧ t.log = s.log ∧ t.queues = [] ∧ t.rings = [] ∧ t.ports = [])) ∧
  (∀ (s : State) (ir : Nat), s.resettable = true → s.banked = false → s.pilot.tapHeld = false → ir ∈ [0x00, 0x03, 0x04, 0x05, 0x06] →
    Does (.tapInstructionLoad ir) s (fun t => t.pilot.phase = .resetHeld ∧ t.pilot.kind = .uncommanded ∧ t.pilot.tapHeld = true ∧
      t.pilot.tapIr = ir ∧ t.f devResetCauseCause = 0xA ∧ t.log = s.log ∧ t.queues = [] ∧ t.rings = [] ∧ t.ports = [])) ∧
  (∀ (s : State) (ir : Nat), s.pilot.phase ≠ .off → s.banked = true → ir ∈ [0x00, 0x03, 0x04, 0x05, 0x06] →
    Does (.tapInstructionLoad ir) s (fun t => t = { s with pilot := { s.pilot with tapIr := ir, tapHeld := true } })) ∧
  (∀ (s : State) (pin : ResetPin),
    Does (.resetPinRelease pin) s (fun t => (if pin = .resetN then t.pilot.resetN else t.pilot.perstN) = true ∧
      Resumes s t)) ∧
  (∀ s : State, s.pilot.railsLow = 0 →
    Does .resetSourceRelease s (fun t => t.pilot.internalHeld = false ∧
      Resumes s t)) ∧
  (∀ s : State, s.pilot.phase ≠ .off →
    Does .tapTestLogicReset s (fun t => t.pilot.tapHeld = false ∧ t.pilot.tapIr = 1 ∧
      Resumes s t)) ∧
  (∀ (s : State) (ir : Nat), s.pilot.phase ≠ .off → ir % 256 ∉ [0x00, 0x03, 0x04, 0x05, 0x06] →
    (ir % 256 < 0x80 ∨ ir % 256 = 0xFF ∨ s.on fzCloseCustomer = true) →
    Does (.tapInstructionLoad ir) s (fun t => t = { s with pilot := { s.pilot with tapIr := ir % 256 } })) ∧
  (∀ (s : State) (ir : Nat), s.pilot.phase ≠ .off → 0x80 ≤ ir % 256 → ir % 256 ≤ 0xFE → s.on fzCloseCustomer = false →
    exec (.tapInstructionLoad ir) s = .refused .privateTapInstruction)

/-- The start-up and the held restart (R86 to R92, R98, R112, R114): below the quench level each, carried through to its last step, reaches
PCIE_READY, with the stage of R114 and the time since step 4 began in milliseconds; at the quench level it stops at the end of its step with
STAGE 0xB. A layer that does not answer ends discovery, culls every pseudo-channel at or above it, or is a stack fault.

The constructors that it says run to a next state with their own effect: coldStartSequence, heldRestartSequence, layerDiscoveryTimeout. -/
def Obligations.SequencesReachReady : Prop :=
  (∀ (s : State) (b : BootInput), s.mayBoot = true → 4 ≤ s.pilot.next → s.pilot.next ≤ 11 → 11 ≤ b.stop → s.f devResetCauseHeld ≠ 1 →
    s.f thStatusLevel ≠ 5 →
    Does (.coldStartSequence b) s (fun t => t.pilot.phase = .running ∧ t.f devStatusPcieReady = 1 ∧ t.pcie.linkUp = true ∧
      t.f devStatusStage = (if t.on devStatusStackFault then 0xC else 8) ∧
      t.f devBootTimeToReady = min ((s.now - s.pilot.stepTick) / 40000) 65535 ∧ t.fuses = s.fuses ∧ t.pending = s.pending)) ∧
  (∀ (s : State) (b : BootInput), s.mayBoot = true → 4 ≤ s.pilot.next → s.pilot.next ≤ 11 → 11 ≤ b.stop → s.f devResetCauseHeld = 1 →
    s.f thStatusLevel ≠ 5 →
    Does (.heldRestartSequence b) s (fun t => t.pilot.phase = .running ∧ t.f devStatusPcieReady = 1 ∧ t.pcie.linkUp = true ∧
      t.f devStatusStage = (if t.on devStatusStackFault then 0xC else 8) ∧
      t.f devBootTimeToReady = min ((s.now - s.pilot.stepTick) / 40000) 65535 ∧ t.fuses = s.fuses ∧ t.pending = s.pending)) ∧
  (∀ (s : State) (b : BootInput), s.mayBoot = true → 4 ≤ s.pilot.next → s.pilot.next ≤ 10 → s.pilot.next ≤ b.stop →
    s.f thStatusLevel = 5 →
    Does (if s.on devResetCauseHeld then .heldRestartSequence b else .coldStartSequence b) s (fun t => t.pilot.phase = .ready ∧
      t.f devStatusStage = 0xB ∧ t.f devStatusPcieReady = s.f devStatusPcieReady)) ∧
  (∀ (s : State) (layer : Nat), s.mayBoot = true → s.pilot.next = 6 → s.f thStatusLevel ≠ 5 → layer ≤ 1 → layer ≤ s.dies →
    Does (.layerDiscoveryTimeout layer) s (fun t => t.f devStatusStackFault = 1 ∧ t.f devStatusStage = 0xC ∧
      t.f devStackFound = layer ∧ t.f elStatusAlertPend = 1 ∧ Newest t .tc 0x06 0xFF)) ∧
  (∀ (s : State) (layer : Nat), s.mayBoot = true → s.pilot.next = 6 → 2 ≤ layer → layer ≤ s.dies →
    Does (.layerDiscoveryTimeout layer) s (fun t => t.f devStackFound = layer ∧ Newest t .tc 0x07 layer ∧
      (∀ n, n < 64 → layer ≤ t.layerOf n → t.pcLive n = false) ∧
      (∀ n, n < 64 → t.layerOf n < layer → t.pcLive n = s.pcLive n) ∧ t.f devStatusStackFault = s.f devStatusStackFault))

/-- DEV_RESET and what follows it (R101, R102, R113): a clearing reset is answered at once; a preserving one first quiesces.
QUIESCE_COMPLETE answers it with OK when everything is done and the write queues have drained, and QUIESCE_TIMEOUT with TIMEOUT after
50 ms. The reset itself comes at PRESERVE_RESET_DELAY, with its cause, once no notice of a port waits any longer.
FIRMWARE_REVERIFY_DONE: the service firmware starts again by itself after a held restart with a marked slot that still verifies (R98 step
11, R100, R546);
an image that fails leaves AV 0x04 and no running firmware.

The constructors that it says run to a next state with their own effect: devReset, quiesceComplete, quiesceTimeout, preserveResetDelay,
firmwareReverifyDone. -/
def Obligations.CommandedResetCourse : Prop :=
  (∀ (s : State) (e : Sqe), Running e s → e.bit 16 0 = false →
    Does (.devReset e) s (fun t => t.resetting = true ∧ t.quiesce = none ∧ t.pilot.nextKind = some .clearing ∧
      ∃ d, 100 ≤ d ∧ d ≤ 1000 ∧ Posts e stOk d [] s t)) ∧
  (∀ (s : State) (e : Sqe), Running e s → e.bit 16 0 = true → s.on elStatusSvExpired = true → s.quenched = false →
    Does (.devReset e) s (fun t => t.resetting = true ∧ t.quiesce = none ∧ t.pilot.nextKind = some .uncommanded ∧
      ∃ d, 100 ≤ d ∧ d ≤ 1000 ∧ Posts e stTimeout d [] s t)) ∧
  (∀ (s : State) (e : Sqe), Running e s → e.bit 16 0 = true → s.on elStatusSvExpired = false → s.quenched = false →
    Does (.devReset e) s (fun t => t.resetting = true ∧ t.quiesce = some (e.ring, e.tag) ∧ t.pilot.nextKind = some .preserving ∧
      t.pending = s.pending ∧ t.fuses = s.fuses)) ∧
  (∀ (s : State) (q : Nat × Nat), s.quiesce = some q → s.quiesced = true → s.halted = false → s.drainStack.stackDrained = true →
    Does .quiesceComplete s (fun t => t.resetting = true ∧ t.quiesce = none ∧ t.pilot.nextKind = some .preserving ∧
      (∀ n, (t.table n).isSome = (s.table n).isSome) ∧
      (∀ p ∈ t.tables, ∀ x, p.2 = some x → x.opened = none ∧ x.journal = .clean ∧ x.writtenBack = x.counters))) ∧
  (∀ (s : State) (q : Nat × Nat), s.quiesce = some q → s.halted = false →
    Does .quiesceTimeout s (fun t => t.resetting = true ∧ t.quiesce = none ∧ t.pilot.nextKind = some .uncommanded ∧
      Only [.out, .heldOut, .free, .pilot, .regs, .pcie, .rings, .resetting, .quiesce] s t ∧ OnlyRegs (ringRegs q.1) s t)) ∧
  (∀ (s : State) (k : ResetKind), s.pilot.nextKind = some k → s.quiesce = none → s.halted = false → s.resettable = true →
    (k = .uncommanded ∨ ((List.range 16).foldl (fun u p => u.stopPort p 2 false) s).noticeWaits = false) →
    Does .preserveResetDelay s (fun t => t.pilot.phase = .resetHeld ∧ t.pilot.kind = k ∧ t.pilot.internalHeld = true ∧
      t.f devResetCauseCause = (if k = .clearing then 7 else 6) ∧
      t.f devResetCauseQuiesceIncomplete = (if k = .uncommanded then 1 else 0) ∧
      t.f devResetCauseHeld = (if k ≠ .clearing ∧ s.pilot.sealed = true then 1 else 0) ∧ t.log = s.log ∧ t.queues = [])) ∧
  (∀ (s : State) (k : Nat) (i : FwImage), s.mayStartService = true → s.on devResetCauseHeld = true → s.trust.marked = some k →
    s.slot k = some i → s.imageCheck i = none →
    Does .firmwareReverifyDone s (fun t => t.trust.running = some i ∧ t.trust.runningSlot = k ∧ t.f devStatusFwRunning = 1 ∧
      t.f devResetCauseFwReused = 1 ∧ t.f devStatusReportValid = 1 ∧ t.commits = [] ∧ t.pilot.svWatchdogArmed = true ∧
      t.fuses = s.fuses)) ∧
  (∀ (s : State) (k : Nat) (i : FwImage) (c : Nat × Nat), s.mayStartService = true → s.on devResetCauseHeld = true →
    s.trust.marked = some k → s.slot k = some i → s.imageCheck i = some c →
    Does .firmwareReverifyDone s (fun t => Newest t .av 0x04 0xFF ∧ Only logParts s t ∧ OnlyRegs logRegs s t))

/-- The two watchdogs (R481, R618 to R622): what an expiry, a halt and the action after it do, and what a heartbeat of Anvil does: its age
counts from then.

The constructors that it says run to a next state with their own effect: svWatchdogExpiry, svCoreHalt, svActionReset, anvilHeartbeat,
anvilSupervisorTimeout, anvilHalt. -/
def Obligations.WatchdogsAct : Prop :=
  (∀ s : State, s.watchdogRuns = true →
    Does .svWatchdogExpiry s (fun t => t.f elStatusSvExpired = 1 ∧ t.f devStatusFwRunning = 0 ∧
      t.pilot.svWatchdogArmed = false ∧ t.pilot.completionsPosted = true ∧ t.test.jobs = [] ∧ t.queueChanges = [] ∧
      t.f elStatusAlertPend = 1 ∧ Newest t .sv 0x01 0xFF)) ∧
  (∀ s : State, s.watchdogRuns = true →
    Does .svCoreHalt s (fun t => t.f elStatusSvExpired = 1 ∧ t.f devStatusFwRunning = 0 ∧
      t.pilot.svWatchdogArmed = false ∧ t.pilot.completionsPosted = true ∧ t.test.jobs = [] ∧ t.queueChanges = [] ∧
      t.f elStatusAlertPend = 1 ∧ Newest t .sv 0x01 0xFF)) ∧
  (∀ s : State, s.on elStatusSvExpired = true → s.pilot.completionsPosted = true → s.on elCfgSvAction = true → s.halted = false →
    s.resettable = true →
    Does .svActionReset s (fun t => t.pilot.phase = .resetHeld ∧ t.pilot.kind = .uncommanded ∧ t.f devResetCauseCause = 9 ∧
      t.log = s.log ∧ t.queues = [])) ∧
  (∀ s : State, s.supervised = true →
    Does .anvilHeartbeat s (fun t => t.f elWdogAvAge = 0 ∧ t.pilot = { s.pilot with avBeat := s.now } ∧ Only [.pilot, .regs] s t ∧
      OnlyRegs [elWdogAvAge] s t)) ∧
  (∀ s : State, s.supervised = true →
    Does .anvilSupervisorTimeout s (fun t => t.f elStatusSafeHold = 1 ∧ t.f devStatusStage = 0xD ∧ t.f devStatusFwRunning = 0 ∧
      t.f elWdogAvAge = 500 ∧ t.pilot.safeCause = some 0 ∧ t.f elStatusAlertPend = 1 ∧ Newest t .pl 0x05 0xFF ∧
      t.queues = s.queues ∧ t.tables = s.tables ∧ t.mem = s.mem)) ∧
  (∀ s : State, s.supervised = true →
    Does .anvilHalt s (fun t => t.f elStatusSafeHold = 1 ∧ t.f devStatusStage = 0xD ∧ t.f devStatusFwRunning = 0 ∧
      t.pilot.safeCause = some 2 ∧ t.f elStatusAlertPend = 1 ∧ Newest t .pl 0x05 0xFF ∧
      t.queues = s.queues ∧ t.tables = s.tables ∧ t.mem = s.mem))

/-- REFCLK and the oscillator (R118 to R120, R138): a missing edge, or a window more than 2 000 ppm off, banks the device; a good window
only records the deviation.

The constructors that it says run to a next state with their own effect: oscTrim, refclkMissingEdge, refclkFreqWindow. -/
def Obligations.RefclkMonitorBanks : Prop :=
  (∀ (s : State) (trim count : Nat), s.pilot.refclkOk = true →
    Does (.oscTrim trim count) s (fun t => t.pilot = { s.pilot with refCount := count } ∧ t.f plRefmonOscTrim = trim % 256 ∧
      Only [.pilot, .regs] s t ∧ OnlyRegs [plRefmonOscTrim] s t)) ∧
  (∀ s : State, s.monitors = true →
    Does .refclkMissingEdge s (fun t => t.f devStatusStage = 0xE ∧ t.pilot.refclkOk = false ∧ t.time.onOsc = true ∧
      t.f plClkStatusRefclkLost = 1 ∧ t.f plClkStatusLostByFreq = 0 ∧ t.f tbStatusHoldover = 1 ∧ t.f devStatusFwRunning = 0 ∧
      t.f elStatusAlertPend = 1 ∧ Newest t .pl 0x01 0xFF ∧ t.time.ticks = s.time.ticks ∧ t.queues = s.queues)) ∧
  (∀ (s : State) (count : Nat), s.monitors = true → s.pilot.refCount ≠ 0 →
    2000 * s.pilot.refCount < ((count : Int) - s.pilot.refCount).natAbs * 1000000 →
    Does (.refclkFreqWindow count) s (fun t => t.f devStatusStage = 0xE ∧ t.pilot.refclkOk = false ∧ t.time.onOsc = true ∧
      t.f plClkStatusRefclkLost = 1 ∧ t.f plClkStatusLostByFreq = 1 ∧ t.f devStatusFwRunning = 0 ∧ Newest t .pl 0x01 0xFF)) ∧
  (∀ (s : State) (count : Nat), s.monitors = true → s.pilot.refCount ≠ 0 →
    ((count : Int) - s.pilot.refCount).natAbs * 1000000 ≤ 2000 * s.pilot.refCount →
    Does (.refclkFreqWindow count) s (fun t => Only [.regs] s t ∧ OnlyRegs [plRefmonDevPpm] s t ∧
      t.f plRefmonDevPpm = toTwos 16 (max (-32768) (min 32767 (((count : Int) - s.pilot.refCount) * 1000000 / s.pilot.refCount))))) ∧
  (∀ (s : State) (count : Nat), s.monitors = true → s.pilot.refCount = 0 →
    Does (.refclkFreqWindow count) s (fun t => t = { s with pilot := { s.pilot with refCount := count } }))

/-- Clock switches, gates and power domains (R126 to R131, R135 to R137): what each event records and changes. A forced switch makes a
block lose its work (the bulk movers halt, log entry 43 says of the domains R133 does not list what is taken); a failed one is
taken back (log entry 44), and where the old clock has stopped it holds the block in reset.

The constructors that it says run to a next state with their own effect: clockSwitchForced, clockSwitchFailed, clockGateClose,
clockGateOpen, domainAutoOff, domainWake, benchMicrocodeLoaded, forcedClosureDrainEnd. -/
def Obligations.ClocksAndDomainsChange : Prop :=
  (∀ (s : State) (d : Nat), ¬ (4 ≤ d ∧ d ≤ 31) → d ≠ 51 → d ≠ 52 → d ≠ 59 →
    Does (.clockSwitchForced d) s (fun t => t.f plClkStatusClkSwitchForced = 1 ∧ t.f plSwitchLogDomain = d % 64 ∧
      t.f plSwitchLogCount = min (s.f plSwitchLogCount + 1) 65535 ∧ Newest t .pl 0x03 0xFF ∧ Only logParts s t ∧
      OnlyRegs (logRegs ++ [plClkStatusClkSwitchForced, plSwitchLogDomain, plSwitchLogCount]) s t)) ∧
  (∀ s : State, Does (.clockSwitchForced 51) s (fun t => t.f plClkStatusClkSwitchForced = 1 ∧ t.f plSwitchLogDomain = 51 ∧
    t.time.ticks = s.time.ticks + 1600 ∧ t.time.onOsc = true ∧ t.f tbStatusHoldover = 1 ∧ Newest t .pl 0x03 0xFF)) ∧
  (∀ s : State, s.safeHold = false →
    Does (.clockSwitchForced 31) s (fun t => t.f plClkStatusClkSwitchForced = 1 ∧ t.f elStatusSafeHold = 1 ∧
      t.pilot.safeCause = some 1 ∧ t.f devStatusStage = 0xD)) ∧
  (∀ (s : State) (d : Nat), 4 ≤ d → d < 20 →
    Does (.clockSwitchForced d) s (fun t => t.f plClkStatusClkSwitchForced = 1 ∧ t.f plSwitchLogDomain = d ∧
      Only [.out, .regs, .pcie, .log, .logWritten, .sideband, .ports, .lanes] s t)) ∧
  (∀ (s : State) (d : Nat), (20 ≤ d ∧ d ≤ 30) ∨ d = 52 ∨ d = 59 →
    Does (.clockSwitchForced d) s (fun t => t.f plClkStatusClkSwitchForced = 1 ∧ t.f plSwitchLogDomain = d ∧
      t.f plSwitchLogCount = min (s.f plSwitchLogCount + 1) 65535 ∧
      (d = 52 → ∀ c, c < 18 → t.f (bmChStatusState c) ≠ 1 ∧ t.f (bmChStatusState c) ≠ 3) ∧
      t.queues = s.queues ∧ t.tables = s.tables ∧ t.mem = s.mem ∧ t.dom = s.dom)) ∧
  (∀ (s : State) (d : Nat), ¬ (4 ≤ d ∧ d < 20) → d ≠ 31 → d ≠ 51 →
    Does (.clockSwitchFailed d true) s (fun t => t.f plClkStatusClkSwitchFailed = 1 ∧ t.f plSwitchLogDomain = d % 64 ∧
      t.f elStatusAlertPend = 1 ∧ Newest t .pl 0x04 0xFF ∧ Only logParts s t ∧
      OnlyRegs (logRegs ++ [plClkStatusClkSwitchFailed, plSwitchLogDomain]) s t)) ∧
  (∀ (s : State) (old : Bool),
    Does (.clockSwitchFailed 51 old) s (fun t => t.f plClkStatusClkSwitchFailed = 1 ∧ t.f plSwitchLogDomain = 51 ∧
      t.f tbStatusHoldover = 1 ∧ t.time = { s.time with onOsc := true, measured := false } ∧ Newest t .pl 0x04 0xFF ∧
      Only (.time :: logParts) s t ∧ OnlyRegs (logRegs ++ [plClkStatusClkSwitchFailed, plSwitchLogDomain, tbStatusHoldover]) s t)) ∧
  (∀ s : State, Does (.clockSwitchFailed 31 true) s (fun t => t.f plClkStatusClkSwitchFailed = 1 ∧ t.f plSwitchLogDomain = 31 ∧
    t.pilot = { s.pilot with anvilOsc := true } ∧ Newest t .pl 0x04 0xFF ∧ Only (.pilot :: logParts) s t ∧
    OnlyRegs (logRegs ++ [plClkStatusClkSwitchFailed, plSwitchLogDomain]) s t)) ∧
  (∀ (s : State) (d : Nat), 4 ≤ d → d < 20 → s.f (rlLinkStatusClkLocal (d - 4)) ≤ 1 →
    Does (.clockSwitchFailed d true) s (fun t => t.f plClkStatusClkSwitchFailed = 1 ∧ t.f plSwitchLogDomain = d ∧
      t.f (rlLinkStatusClkLocal (d - 4)) = 1 - s.f (rlLinkStatusClkLocal (d - 4)) ∧ Newest t .pl 0x04 0xFF ∧ Only logParts s t ∧
      OnlyRegs (logRegs ++ [plClkStatusClkSwitchFailed, plSwitchLogDomain, rlLinkStatusClkLocal (d - 4)]) s t)) ∧
  (∀ (s : State) (d : Nat), d ≠ 51 →
    Does (.clockSwitchFailed d false) s (fun t => t.f plClkStatusClkSwitchFailed = 1 ∧ t.f plSwitchLogDomain = d % 64 ∧
      t.f elStatusAlertPend = 1 ∧ t.dom = { s.dom with inReset := setBit s.dom.inReset d } ∧ bitOf (t.f plClkActive) d = false ∧
      (4 ≤ d ∧ d < 20 → t.linkState (d - 4) = 0) ∧ (22 ≤ d ∧ d < 30 → bitOf (t.f teBenchRunning) (d - 22) = false))) ∧
  (∀ (s : State) (d : Nat), s.gateable d = true → s.clockBusy d = false → bitOf (s.f plGateDis) d = false →
    Does (.clockGateClose d) s (fun t => bitOf (t.f plClkActive) d = false ∧ Only [.regs] s t ∧ OnlyRegs [plClkActive] s t)) ∧
  (∀ (s : State) (d : Nat), s.hasGate d = true → bitOf s.dom.inReset d = false → bitOf s.dom.isolatedClk d = false →
    Does (.clockGateOpen d) s (fun t => bitOf (t.f plClkActive) d = true ∧ Only [.regs] s t ∧ OnlyRegs [plClkActive] s t)) ∧
  (∀ (s : State) (d : Nat), s.mayPowerOff d = true → bitOf (s.f plPwrHold) d = false →
    Does (.domainAutoOff d) s (fun t => bitOf (t.f plPwrOn) d = false ∧
      (21 ≤ d ∧ d ≤ 28 → bitOf (t.f teBenchPowered) (d - 21) = false ∧ bitOf (t.f teBenchRunning) (d - 21) = false) ∧
      Only [.regs] s t ∧ OnlyRegs [plPwrOn, teBenchPowered, teBenchRunning] s t)) ∧
  (∀ (s : State) (d : Nat), d ≤ 49 → s.domainCulled d = false → bitOf s.dom.isolatedPwr d = false →
    Does (.domainWake d) s (fun t => bitOf (t.f plPwrOn) d = true ∧
      (21 ≤ d ∧ d ≤ 28 → bitOf (t.f teBenchPowered) (d - 21) = true ∧ bitOf t.dom.benchLoading (d - 21) = true) ∧
      Only [.dom, .regs] s t ∧ OnlyRegs [plPwrOn, teBenchPowered] s t)) ∧
  (∀ (s : State) (b : Nat), bitOf s.dom.benchLoading b = true →
    Does (.benchMicrocodeLoaded b) s (fun t => bitOf (t.f teBenchRunning) b = true ∧ bitOf t.dom.benchLoading b = false ∧
      Only [.dom, .regs, .test, .tables] s t ∧ OnlyRegs [teBenchRunning] s t)) ∧
  (∀ (s : State) (reads : Nat) (writes : List Nat) (commands : List (Nat × Nat)) (ports : List Req), s.dom.draining = true →
    Does (.forcedClosureDrainEnd reads writes commands ports) s (fun t => t.dom = { s.dom with draining := false } ∧
      t.f plPwrOn = s.f plPwrOn - (s.f plPwrOn &&& s.dom.isolatedPwr) ∧
      t.f plClkActive = s.f plClkActive - (s.f plClkActive &&& s.dom.isolatedClk) ∧ t.queues = s.queues ∧ t.tables = s.tables))

/-- Device time. A PTM dialog asks for the master time (R143), and is holdover where PTM is selected and not enabled; the response gives the
offset from the target (R144), and the third dialog in a row without one is holdover (R147). A TIMESYNC edge carries the tick 25 ns before it
(R141, R635), moves TB_SYNC_NEXT on from the nearest expected time, and is ignored and counted where it comes too soon (R146); a stuck input
is holdover (R147). A read of TB_TIME_LO latches the high half (R154). Register reads (R20, R88, R623): no BAR is decoded before PCIE_READY,
and in safe hold only six blocks answer.

The constructors that it says run to a next state with their own effect: ptmDialog, ptmResponse, ptmResponseTimeout, timesyncEdge,
timesyncStuck, timesyncFallingEdge, tbTimeLoRead, loRegisterRead. -/
def Obligations.DeviceTimeEventsAct : Prop :=
  (∀ s : State, s.f tbCtrlSrc = 1 → s.pcie.ptmEnable = true →
    Does .ptmDialog s (fun t => t.time = { s.time with ptmOpen := true } ∧ t.out = .ptmRequest :: s.out ∧ Only [.time, .out] s t)) ∧
  (∀ s : State, s.f tbCtrlSrc = 1 → s.pcie.ptmEnable = false →
    Does .ptmDialog s (fun t => t.time = { s.time with measured := false } ∧ t.f tbStatusHoldover = 1 ∧ Only [.time, .regs] s t ∧
      OnlyRegs [tbStatusHoldover] s t)) ∧
  (∀ (s : State) (masterNs : Nat), s.time.ptmOpen = true → s.f tbCtrlSrc = 1 →
    Does (.ptmResponse masterNs) s (fun t => t.time.ptmOpen = false ∧ t.time.ptmFails = 0 ∧ t.time.measured = !s.time.onOsc ∧
      t.f tbStatusHoldover = b2n s.time.onOsc ∧
      t.f tbStatusOffset = toTwos 16 (max (-32767) (min 32767 (4 * masterNs + ofTwos 64 (s.f tbOffset) - s.now))) ∧
      Only [.time, .regs] s t)) ∧
  (∀ s : State, s.time.ptmOpen = true → s.time.ptmFails < 2 →
    Does .ptmResponseTimeout s (fun t => t = { s with time := { s.time with ptmOpen := false, ptmFails := s.time.ptmFails + 1 } })) ∧
  (∀ s : State, s.time.ptmOpen = true → 2 ≤ s.time.ptmFails →
    Does .ptmResponseTimeout s (fun t => t.time = { s.time with ptmOpen := false, ptmFails := 3, measured := false } ∧
      t.f tbStatusPtmFail = 1 ∧ t.f tbStatusHoldover = 1 ∧ Only [.time, .regs] s t ∧
      OnlyRegs [tbStatusPtmFail, tbStatusHoldover] s t)) ∧
  (∀ (s : State) (tick : Nat), s.f tbStatusTimesyncStuck ≠ 1 →
    (s.time.synced = false ∨ s.f tbSyncCapt + max 1 (s.f tbSyncCfgMinInterval) * 4000000 ≤ tick - 100) →
    Does (.timesyncEdge tick) s (fun t => t.f tbSyncCapt = (tick - 100) % 2 ^ 64 ∧ t.time.synced = true ∧
      t.f tbSyncNext = (nearestExpected (s.f tbSyncNext) (s.f tbSyncPeriod) (tick - 100) + s.f tbSyncPeriod) % 2 ^ 64 ∧
      (s.f tbCtrlSrc = 2 → t.f tbStatusHoldover = b2n s.time.onOsc ∧ t.time.measured = !s.time.onOsc) ∧
      (∀ l, l < 64 → s.f (evSrcCode l) = 0x402 → (t.line l).pulsed = true ∧ (t.line l).tick = s.now) ∧
      Only [.time, .regs, .lines, .pulses] s t)) ∧
  (∀ (s : State) (tick : Nat), s.f tbStatusTimesyncStuck ≠ 1 → s.time.synced = true →
    tick - 100 < s.f tbSyncCapt + max 1 (s.f tbSyncCfgMinInterval) * 4000000 →
    Does (.timesyncEdge tick) s (fun t => t.f tbSyncCfgIgnored = min (s.f tbSyncCfgIgnored + 1) 65535 ∧ Only [.regs] s t ∧
      OnlyRegs [tbSyncCfgIgnored] s t)) ∧
  (∀ s : State, Does .timesyncStuck s (fun t => t.f tbStatusTimesyncStuck = 1 ∧ (s.f tbCtrlSrc = 2 → t.f tbStatusHoldover = 1) ∧
    Only [.time, .regs] s t ∧ OnlyRegs [tbStatusTimesyncStuck, tbStatusHoldover] s t)) ∧
  (∀ s : State, Does .timesyncFallingEdge s (fun t => t.f tbStatusTimesyncStuck = 0 ∧ Only [.regs] s t ∧
    OnlyRegs [tbStatusTimesyncStuck] s t)) ∧
  (∀ s : State, s.decodesBars = true → Does .tbTimeLoRead s (fun t => t.out = .readData (leBytes 4 s.now) false :: s.out ∧
    Map.get latchCold t.latches 0x20004 = s.now / 2 ^ 32 % 2 ^ 32 ∧ Only [.out, .latches] s t)) ∧
  (∀ s : State, s.decodesBars = false → Does .tbTimeLoRead s (fun t => t = s.emit .unsupportedRequest)) ∧
  (∀ (s : State) (off : Nat), s.decodesBars = true → s.safeHold = false ∨ safeHoldBlock (off / 4 * 4) = true →
    s.blockClosed (off / 4 * 4) = false → latchesHigh (off / 4 * 4) = true →
    Does (.loRegisterRead off) s (fun t => t.out = .readData (leBytes 4 (s.pairView (off / 4 * 4) % 2 ^ 32)) false :: s.out ∧
      Map.get latchCold t.latches (off / 4 * 4 + 4) = s.pairView (off / 4 * 4) / 2 ^ 32 % 2 ^ 32 ∧ Only [.out, .latches, .regs] s t ∧
      OnlyRegs [plPwrOn] s t)) ∧
  (∀ (s : State) (off : Nat), s.decodesBars = true → s.safeHold = false ∨ safeHoldBlock (off / 4 * 4) = true →
    s.blockClosed (off / 4 * 4) = false → latchesHigh (off / 4 * 4) = false →
    Does (.loRegisterRead off) s (fun t => t.out = .readData (leBytes 4 (s.readView (off / 4 * 4))) false :: s.out ∧
      Only [.out, .regs] s t ∧ OnlyRegs [plPwrOn] s t)) ∧
  (∀ (s : State) (off : Nat), s.decodesBars = false →
    Does (.loRegisterRead off) s (fun t => t.out = .unsupportedRequest :: s.out ∧ Only [.out] s t)) ∧
  (∀ (s : State) (off : Nat), s.decodesBars = true → s.safeHold = true → safeHoldBlock (off / 4 * 4) = false →
    Does (.loRegisterRead off) s (fun t => t.out = .completerAbort :: s.out ∧ Only [.out] s t))

/-- Sensing and canaries (R90, R557 to R564): what a sample from the end of step 4 on, a sensor's recovery and a canary test leave.

The constructors that it says run to a next state with their own effect: thermalSample, sensorRecover, canaryTest. -/
def Obligations.ThermalSensingActs : Prop :=
  (∀ (s : State) (x : ThermalInput), s.pastStep4 = true →
    Does (.thermalSample x) s (fun t => t.thermal.sampled = true ∧ t.thermal.sampleTick = x.tick ∧ t.f thStatusLevel = t.maxLevel ∧
      t.f thStatusHottest = t.hottest ∧
      (∀ l ∈ t.presentLayers, (t.layer l).temp = t.layerTemperature l) ∧
      (s.pilot.phase = .running → (∃ l ∈ t.presentLayers, t.threshold (isDram l) 5 < t.quenchValue l) →
        t.quenched = true ∧ bitOf (t.f thStatusSources) 0 = true))) ∧
  (∀ (s : State) (n : Nat), (s.sensor n).state = 1 → (s.sensor n).recovering = true →
    Does (.sensorRecover n) s (fun t => (t.sensor n).state = 0 ∧ (∀ m, m ≠ n → t.sensor m = s.sensor m) ∧ Only [.sensors] s t)) ∧
  (∀ (s : State) (l failed : Nat), s.layerPresent l = true → 1 ≤ l → l ≤ 16 → s.pilot.stackHold = false → s.layerAsleep l = false →
    Does (.canaryTest l failed) s (fun t => t.layer l = { s.layer l with failed := failed % 256 } ∧
      (∀ m, m ≠ l → t.layer m = s.layer m) ∧ Only [.layers] s t))

/-- The quench (R80, R81, R112, R497, R565 to R570): HOLD_N, the rings and the temperature as its sources, its steps, its end with the last
source, a start-up that goes on once the layers have cooled, and the ports narrowed for heat.

The constructors that it says run to a next state with their own effect: holdNChange, holdNLong, quenchReq, quenchStopComplete,
quenchThermalEnd, narrowRestore, trip. -/
def Obligations.QuenchFollowsItsSources : Prop :=
  (∀ (s : State) (low : Bool), s.pilot.phase ≠ .running →
    Does (.holdNChange low) s (fun t => t = { s with pilot := { s.pilot with holdN := !low } })) ∧
  (∀ s : State, s.pilot.phase = .running → s.on thStatusHoldActive = false →
    Does (.holdNChange true) s (fun t => t.f thStatusHoldActive = 1 ∧ bitOf (t.f thStatusSources) 1 = true ∧ t.quenched = true ∧
      t.pilot = { s.pilot with holdN := false } ∧ (s.quenched = true → t.queues = s.queues ∧ t.ports = s.ports))) ∧
  (∀ s : State, s.pilot.phase = .running → s.on thStatusHoldActive = true →
    Does (.holdNChange false) s (fun t => t.f thStatusHoldActive = 0 ∧ bitOf (t.f thStatusSources) 1 = false ∧
      (t.f thStatusSources = 0 → t.quenched = false) ∧ (t.f thStatusSources ≠ 0 → t.quenched = s.quenched))) ∧
  (∀ s : State, s.on thStatusHoldActive = true →
    Does .holdNLong s (fun t => bitOf (t.f thAlert) 3 = true ∧ Newest t .th 0x06 0xFF ∧ Only logParts s t ∧
      OnlyRegs (thAlert :: logRegs) s t)) ∧
  (∀ (s : State) (e : Sqe), Running e s → e.bit 16 0 = true →
    Does (.quenchReq e) s (fun t => t.quenched = true ∧ bitOf (t.f thStatusSources) 2 = true ∧ t.tables = s.tables ∧
      (s.quenched = true → Posts e stOk (packBytes [(0, 1, t.f thStatusSources)]) [] s t))) ∧
  (∀ (s : State) (e : Sqe), Running e s → e.bit 16 0 = false →
    Does (.quenchReq e) s (fun t => bitOf (t.f thStatusSources) 2 = false ∧ (t.f thStatusSources = 0 → t.quenched = false) ∧
      (t.f thStatusSources ≠ 0 → t.quenched = s.quenched ∧ Only ringParts s t))) ∧
  (∀ s : State, s.quiesce = none → s.halted = false → s.thermal.stopPending = true → s.drainStack.stackDrained = true →
    s.drainStack.threadsHeld = 0 →
    Does .quenchStopComplete s (fun t => t.thermal.stopPending = false ∧
      (∀ b, b < 8 → bitOf (t.f teBenchPowered) b = false ∧ bitOf (t.f teBenchRunning) b = false) ∧
      (∀ d, (3 ≤ d ∧ d ≤ 18) ∨ (21 ≤ d ∧ d ≤ 28) → bitOf (t.f plPwrOn) d = false) ∧ Newest t .th 0x02 0xFF)) ∧
  (∀ s : State, (∀ l ∈ s.presentLayers, s.quenchValue l ≤ s.threshold (isDram l) 5 - celsius 10) →
    Does .quenchThermalEnd s (fun t => bitOf (t.f thStatusSources) 0 = false ∧ t.bootStopped = false ∧
      (s.quenched = true → t.f thStatusSources = 0 → bitOf (s.f thStatusSources) 0 = true → t.quenched = false))) ∧
  (∀ s : State, s.on thStatusNarrowed = true → s.f thStatusLevel ≤ 3 →
    Does .narrowRestore s (fun t => t.f thStatusNarrowed = 0 ∧ t.thermal.narrowedPorts = 0 ∧ (s.quenched = true → t.ports = s.ports))) ∧
  (∀ (s : State) (n : Nat), n < s.sensorCount → s.pilot.phase ≠ .off →
    Does (.trip n) s (fun t => t.pilot.thermtrip = true ∧ t.pilot.stackHold = true ∧ t.trust.job = none))

/-- The thermal commands (R496): what they answer, for both kinds and every level, the order of the refusals of THERM_LIMIT_SET, the
source that QUENCH_REQ adds or withdraws, and the defaults that every full reset restores.

The constructors that it says run to a next state with their own effect: thermRead, thermLimits, thermWarnSet, thermLimitSet, quenchReq. -/
def Obligations.ThermalCommandsAnswer : Prop :=
  (∀ (s : State) (e : Sqe), Running e s → e.par 16 1 ≤ 17 → Answers (.thermRead e) e stOk
    (packBytes ((List.range 8).map (fun k => (2 * k, 2,
        if e.par 16 1 + k ≤ 17 ∧ s.layerPresent (e.par 16 1 + k) = true then toTwos 16 (s.layer (e.par 16 1 + k)).temp else 0x8000)) ++
      [(16, 1, maskOf 8 (fun k => decide (e.par 16 1 + k ≤ 17) && s.layerPresent (e.par 16 1 + k) && s.layerDoubtful (e.par 16 1 + k))),
       (17, 1, s.f thStatusLevel), (18, 1, s.f thStatusHottest), (20, 4, s.thermal.sampleTick)])) s) ∧
  (∀ (s : State) (e : Sqe), Running e s → 17 < e.par 16 1 → Answers (.thermRead e) e stBadParam 0 s) ∧
  (∀ (s : State) (e : Sqe), Running e s → Answers (.thermLimits e) e stOk
    (packBytes [(0, 2, s.f thThrD0Warn), (2, 2, s.f thThrD0Throttle1), (4, 2, s.f thThrD1Throttle2), (6, 2, s.f thThrD1Throttle3),
      (8, 2, s.f thThrD2Quench), (10, 2, s.f thThrD2Trip), (12, 2, s.f thThrB0Warn), (14, 2, s.f thThrB0Throttle1),
      (16, 2, s.f thThrB1Throttle2), (18, 2, s.f thThrB1Throttle3), (20, 2, s.f thThrB2Quench), (22, 2, s.f thThrB2Trip)]) s) ∧
  (∀ (s : State) (e : Sqe), Running e s → e.par 16 1 ≤ 1 → 2560 ≤ ofTwos 16 (e.par 18 2) →
    ofTwos 16 (e.par 18 2) < s.threshold (e.par 16 1 == 0) 2 →
    Does (.thermWarnSet e) s (fun t => t.f (if e.par 16 1 = 0 then thThrD0Warn else thThrB0Warn) = e.par 18 2 ∧
      Posts e stOk 0 [] s t ∧ Only ringParts s t ∧
      OnlyRegs ((if e.par 16 1 = 0 then thThrD0Warn else thThrB0Warn) :: ringRegs e.ring) s t)) ∧
  (∀ (s : State) (e : Sqe), Running e s → (1 < e.par 16 1 ∨ ofTwos 16 (e.par 18 2) < 2560 ∨
    s.threshold (e.par 16 1 == 0) 2 ≤ ofTwos 16 (e.par 18 2)) → Answers (.thermWarnSet e) e stBadParam 0 s) ∧
  (∀ (s : State) (e : Sqe) (d : Bool) (l : Nat), Running e s → e.par 16 1 ≤ 1 → d = (e.par 16 1 == 0) → l = e.par 17 1 → 2 ≤ l → l ≤ 5 →
    (s.setF (thresholdFld d l) (e.par 18 2)).thresholdsRise d = true →
    ofTwos 16 (e.par 18 2) ≤ ofTwos 16 (coldOf (thresholdFld d l)) →
    Does (.thermLimitSet e) s (fun t => t.f (thresholdFld d l) = e.par 18 2 ∧ Posts e stOk 0 [] s t ∧ Only ringParts s t ∧
      OnlyRegs (thresholdFld d l :: ringRegs e.ring) s t)) ∧
  (∀ (s : State) (e : Sqe), Running e s → (1 < e.par 16 1 ∨ e.par 17 1 < 2 ∨ 5 < e.par 17 1 ∨
      (s.setF (thresholdFld (e.par 16 1 == 0) (e.par 17 1)) (e.par 18 2)).thresholdsRise (e.par 16 1 == 0) = false) →
    Answers (.thermLimitSet e) e stBadParam 0 s) ∧
  (∀ (s : State) (e : Sqe) (d : Bool) (l : Nat), Running e s → e.par 16 1 ≤ 1 → d = (e.par 16 1 == 0) → l = e.par 17 1 → 2 ≤ l → l ≤ 5 →
    (s.setF (thresholdFld d l) (e.par 18 2)).thresholdsRise d = true →
    ofTwos 16 (coldOf (thresholdFld d l)) < ofTwos 16 (e.par 18 2) → Answers (.thermLimitSet e) e stNotPermitted 0 s) ∧
  (∀ (s : State) (e : Sqe), Running e s →
    Does (.quenchReq e) s (fun t => bitOf (t.f thStatusSources) 2 = e.bit 16 0 ∧
      (∀ b, b ≠ 2 → b < 4 → bitOf (t.f thStatusSources) b = bitOf (s.f thStatusSources) b) ∧
      Posts e stOk (packBytes [(0, 1, t.f thStatusSources)]) [] (if e.bit 16 0 then s.addSource 2 else s.dropSource 2) t)) ∧
  (∀ (s : State) (kind : ResetKind) (cause : Nat) (internal qInc lost dram : Bool) (k : Nat),
    (s.fullReset kind cause internal qInc lost).f (thresholdFld dram k) = coldOf (thresholdFld dram k))

/-- Detectors and training frames (R159, R162 to R164, R173, R176): what each records, when it starts a retrain, what the S64 answers as the
responder of a tap request, and how long it holds a request of its own.

The constructors that it says run to a next state with their own effect: laneDetectorChange, linkLost, trainingFrameRx. -/
def Obligations.LanesReportAndRetrain : Prop :=
  (∀ (s : State) (p lane : Nat) (los lol : Bool), p ≤ 15 → lane ≤ 7 →
    (los = false ∧ lol = false) ∨ bitOf (s.f (rlLinkStatusLanes p)) lane = false →
    Does (.laneDetectorChange p lane los lol) s (fun t => bitOf (t.f (rlLaneStatusLos p)) lane = los ∧
      bitOf (t.f (rlLaneStatusLol p)) lane = lol ∧ Only [.regs] s t ∧ OnlyRegs [rlLaneStatusLos p, rlLaneStatusLol p] s t)) ∧
  (∀ (s : State) (p lane : Nat) (los lol : Bool) (set : Nat × Nat), p ≤ 15 → lane ≤ 7 → los = true ∨ lol = true →
    bitOf (s.f (rlLinkStatusLanes p)) lane = true → s.portHot p = true → (s.port p).short = false → (s.port p).shorts = [] →
    Does (.laneDetectorChange p lane los lol) s (fun t =>
      chooseSet (s.on (rlLinkStatusReversed p)) (t.goodLanes p &&& (s.port p).partnerSet &&& s.f (rlLinkStatusLanes p)) = some set →
        t.linkState p = 5 ∧ t.f (rlLinkStatusLanes p) = set.1 ∧ t.f (rlLinkStatusWidth p) = set.2 ∧ (t.port p).short = true ∧
        t.f (rlRetrainCountShort p) = min (s.f (rlRetrainCountShort p) + 1) 65535)) ∧
  (∀ (s : State) (p : Nat), s.portHot p = true → s.f (rlLaneStatusLos p) = 0xFF →
    Does (.linkLost p) s (fun t => t.linkState p = 1 ∧ t.f (rlLinkStatusChanged p) = 1 ∧ t.f (rlLinkStatusAttempt p) = 1 ∧
      t.f (rlLinkStatusLanes p) = 0 ∧ t.f (rlRetrainCountCold p) = min (s.f (rlRetrainCountCold p) + 1) 65535 ∧
      (t.port p).keep = true ∧ t.queues = s.queues ∧ t.tables = s.tables)) ∧
  (∀ (s : State) (p lane : Nat) (x : Frame), p ≤ 15 → lane ≤ 7 → x.marker = true → frameCheck x.control = true →
    bitsOf x.control 26 24 = 0 → 1 ≤ s.linkState p → s.linkState p ≤ 6 → (s.port p).short = false → (s.port p).fast = false →
    Does (.trainingFrameRx p lane x) s (fun t =>
      (t.lane p lane).seen = some (bitsOf x.control 2 0) ∧ (t.lane p lane).echoOk = bitOf x.control 36 ∧
      (t.lane p lane).rxReady = bitOf x.control 35 ∧ (t.lane p lane).inverted = x.inverted ∧ (t.lane p lane).answered = false ∧
      (t.lane p lane).c0 = (s.lane p lane).c0 ∧ (t.lane p lane).resp = (s.lane p lane).resp ∧
      ((∀ l, l < lane → bitOf (s.port p).trainSet l = false) → (t.port p).portId = bitsOf x.control 19 4) ∧
      ((∃ l, l < lane ∧ bitOf (s.port p).trainSet l = true) → (t.port p).portId = (s.port p).portId) ∧
      (t.port p).partnerSet = bitsOf x.control 47 40 ∧
      t.out = (if (s.port p).notice = none then [Output.frame p lane (t.ownFrame p lane)] else []) ++ s.out ∧
      Only [.out, .ports, .lanes] s t)) ∧
  (∀ (s : State) (p lane : Nat) (x : Frame), p ≤ 15 → lane ≤ 7 → x.marker = true → frameCheck x.control = true →
    bitsOf x.control 26 24 = 2 → (s.lane p lane).answered = false → s.presetForced p lane = false → 1 ≤ s.linkState p →
    s.linkState p ≤ 6 → (s.port p).short = false → (s.port p).fast = false → bitOf x.control 27 = false →
    -15 ≤ (s.lane p lane).cm1 → (s.lane p lane).cm1 ≤ 0 → 33 ≤ (s.lane p lane).c0 →
    Does (.trainingFrameRx p lane x) s (fun t => (t.lane p lane).cm1 = (s.lane p lane).cm1 - 1 ∧
      (t.lane p lane).c0 = (s.lane p lane).c0 - 1 ∧ (t.lane p lane).answered = true ∧ (t.lane p lane).resp = 1 ∧
      (t.lane p lane).toggle = !(s.lane p lane).toggle)) ∧
  (∀ (s : State) (p lane : Nat) (x : Frame) (q : Nat × Bool × Nat), p ≤ 15 → lane ≤ 7 → x.marker = true → frameCheck x.control = true →
    1 ≤ s.linkState p → s.linkState p ≤ 6 → (s.port p).short = false → (s.port p).fast = false → (s.lane p lane).asking = some q →
    Does (.trainingFrameRx p lane x) s (fun t =>
      (t.lane p lane).asking = if bitOf x.control 34 = (s.lane p lane).peerToggle then some q else none)) ∧
  (∀ (s : State) (p lane : Nat) (x : Frame), x.marker = false ∨ frameCheck x.control = false →
    Does (.trainingFrameRx p lane x) s (fun t => t = s))

/-- One step of a transmit tap (R158, R159): the magnitudes of the five taps keep their sum, c(0) stays at least 32 and the tap in
its range; a step that is refused changes nothing. The states of a training attempt (R165, R167, R168, R170, R216): each goes to the
next when its exit condition holds; a timer that ends an attempt records the state and its code, and the port then idles before
the next attempt, or is DOWN after the fourth.

The constructors that it says run to a next state with their own effect: trainStateExit, trainStateTimer, attemptIdleEnd. -/
def Obligations.TrainingWalksItsStates : Prop :=
  (∀ (x : Lane) (tap : Nat) (up : Bool),
    ((x.step tap up).2 = 1 ∧ 32 ≤ (x.step tap up).1.c0 ∧ tapInRange tap ((x.step tap up).1.tap tap) = true ∧
      (x.step tap up).1.tap tap = x.tap tap + (if up then 1 else -1) ∧
      ((x.step tap up).1.cm2.natAbs + (x.step tap up).1.cm1.natAbs + (x.step tap up).1.cp1.natAbs + (x.step tap up).1.cp2.natAbs : Int) +
          (x.step tap up).1.c0 =
        (x.cm2.natAbs + x.cm1.natAbs + x.cp1.natAbs + x.cp2.natAbs : Int) + x.c0) ∨
    ((x.step tap up).2 = 2 ∧ (x.step tap up).1 = x)) ∧
  (∀ (s : State) (p : Nat) (x : TrainInput), p ≤ 15 → (s.port p).notice = none → s.linkState p = 1 → s.usableLanes p ≠ 0 →
    Does (.trainStateExit p x) s (fun t => t = s.setF (rlLinkStatusState p) 2)) ∧
  (∀ (s : State) (p : Nat) (x : TrainInput), p ≤ 15 → (s.port p).notice = none → s.linkState p = 2 → (s.port p).fast = false →
    s.usableLanes p ≠ 0 → x.lanes &&& s.usableLanes p = s.usableLanes p →
    Does (.trainStateExit p x) s (fun t => t.linkState p = 3 ∧ (t.port p).trainSet = s.usableLanes p ∧
      t.f (rlLinkStatusClkLane p) = lowestSet 8 (s.usableLanes p) ∧ t.f (rlLinkStatusClkLocal p) = 0 ∧ Only [.ports, .regs] s t)) ∧
  (∀ (s : State) (p : Nat) (x : TrainInput), p ≤ 15 → (s.port p).notice = none → s.linkState p = 2 → (s.port p).fast = true →
    x.lanes &&& s.usableLanes p = s.f (rlLinkStatusLanes p) →
    Does (.trainStateExit p x) s (fun t => t.linkState p = 5 ∧
      t.f (rlLinkStatusClkLane p) = lowestSet 8 (s.f (rlLinkStatusLanes p)) ∧ t.f (rlLinkStatusClkLocal p) = 0 ∧ Only [.regs] s t)) ∧
  (∀ (s : State) (p : Nat) (x : TrainInput), p ≤ 15 → (s.port p).notice = none → s.linkState p = 3 →
    (∀ l, l < 8 → bitOf (s.port p).trainSet l = true → (s.lane p l).seen ≠ none) →
    Does (.trainStateExit p x) s (fun t => t.linkState p = 4 ∧ Only [.regs] s t ∧
      OnlyRegs [rlLinkStatusState p, rlLaneStatusPolInv p] s t)) ∧
  (∀ (s : State) (p : Nat) (x : TrainInput) (rev : Bool), p ≤ 15 → (s.port p).notice = none → s.linkState p = 4 →
    s.laneOrder p = some rev → s.echoed p = true →
    Does (.trainStateExit p x) s (fun t => t.linkState p = 5 ∧ t.f (rlLinkStatusReversed p) = b2n rev ∧ Only [.regs] s t ∧
      OnlyRegs [rlLinkStatusState p, rlLinkStatusReversed p] s t)) ∧
  (∀ (s : State) (p : Nat) (x : TrainInput), p ≤ 15 → (s.port p).notice = none → s.linkState p = 5 → (s.port p).short = false →
    (s.port p).fast = false → x.lanes &&& (s.port p).trainSet = (s.port p).trainSet →
    Does (.trainStateExit p x) s (fun t => t = s.setF (rlLinkStatusState p) 6)) ∧
  (∀ (s : State) (p : Nat) (x : TrainInput), p ≤ 15 → (s.port p).notice = none → s.linkState p = 5 →
    (s.port p).short = true ∨ (s.port p).fast = true → x.lanes &&& s.f (rlLinkStatusLanes p) = s.f (rlLinkStatusLanes p) →
    Does (.trainStateExit p x) s (fun t => t.linkState p = 7 ∧ (t.port p).framings = 0 ∧ Only [.out, .ports, .regs] s t)) ∧
  (∀ (s : State) (p : Nat) (x : TrainInput) (set : Nat × Nat), p ≤ 15 → (s.port p).notice = none → s.linkState p = 6 →
    s.ownReady p = true → chooseSet (s.on (rlLinkStatusReversed p)) (s.proposal p &&& (s.port p).partnerSet) = some set →
    s.proposal p &&& (s.port p).partnerSet &&& s.partnerReady p = s.proposal p &&& (s.port p).partnerSet →
    Does (.trainStateExit p x) s (fun t => t.linkState p = 7 ∧ t.f (rlLinkStatusLanes p) = set.1 ∧ t.f (rlLinkStatusWidth p) = set.2 ∧
      Only [.out, .ports, .lanes, .regs] s t)) ∧
  (∀ (s : State) (p : Nat) (x : TrainInput), p ≤ 15 → (s.port p).notice = none → s.linkState p = 7 → 3 ≤ (s.port p).framings →
    x.partnerFramed = true →
    Does (.trainStateExit p x) s (fun t => t.linkState p = 8 ∧ t.f (rlLatFixed p) = x.latency % 65536 ∧
      .item p (.control 1 0 (s.initBody p)) ∈ t.out ∧ Only [.out, .ports, .regs] s t)) ∧
  (∀ (s : State) (p : Nat) (x : TrainInput), p ≤ 15 → (s.port p).notice = none → s.linkState p = 8 → (s.port p).initSeen = true →
    Does (.trainStateExit p x) s (fun t => t.linkState p = 9 ∧ t.f (rlLinkStatusPwr p) = 0 ∧ (t.port p).wasActive = true ∧
      (t.port p).keep = false ∧ (t.port p).short = false ∧ t.queues = s.queues ∧ t.tables = s.tables)) ∧
  (∀ (s : State) (p st code : Nat) (x : TrainInput), p ≤ 15 → (st, code) ∈ [(1, 1), (3, 3), (5, 6), (7, 8), (8, 9)] →
    s.linkState p = st → (s.port p).short = false → (s.port p).fast = false →
    Does (.trainStateTimer p x) s (fun t => t.f (rlTrainFailState p) = st ∧ t.f (rlTrainFailCode p) = code ∧
      t.linkState p = (if 4 ≤ s.f (rlLinkStatusAttempt p) then 0xB else 0xA) ∧
      t.f (rlTrainFailCount p) = min (s.f (rlTrainFailCount p) + 1) 65535 ∧
      (4 ≤ s.f (rlLinkStatusAttempt p) → Newest t .rl 0x03 p ∧ t.f elStatusAlertPend = 1))) ∧
  (∀ (s : State) (p : Nat) (x : TrainInput), p ≤ 15 → s.linkState p = 2 → (s.port p).fast = false →
    (chooseSet false (x.lanes &&& s.usableLanes p)).isSome = true →
    Does (.trainStateTimer p x) s (fun t => t.linkState p = 3 ∧ (t.port p).trainSet = x.lanes &&& s.usableLanes p)) ∧
  (∀ (s : State) (p : Nat), p ≤ 15 → s.linkState p = 0xA →
    Does (.attemptIdleEnd p) s (fun t => t.linkState p = 1 ∧ t.f (rlLinkStatusAttempt p) = min (s.f (rlLinkStatusAttempt p) + 1) 4))

/-- The power states of a port (R126, R177 to R180, R205, R207, R215, R217): requests, answers, the idle timers, and leaving WARM and
BANKED.
A control flit whose layout and CRC pass gives its 4 credits back.

The constructors that it says run to a next state with their own effect: pwrReq, pwrAck, pwrRefuse, pwrReqTimeout, warmIdleTimer,
bankedIdleTimer, warmExit, bankedExit, bankedFastPathTimeout. -/
def Obligations.PortPowerHandshake : Prop :=
  (∀ (s : State) (p arg : Nat) (b : List Byte), p ≤ 15 → s.portHot p = true → flitOk b 2 = true → arg = bufNat b 2 1 →
    s.pwrPermitted p arg = true → s.portBusy p = false → s.canControl p = true →
    Does (.pwrReq p b) s (fun t => .item p (.control 3 arg []) ∈ t.out ∧ (t.port p).pwrAgreed = some arg ∧
      (t.port p).pwrReq = none ∧ t.f (rlTxCreditVc3 p) = s.f (rlTxCreditVc3 p) - 4 ∧ t.f (rlLinkStatusPwr p) = 0 ∧
      (s.resetting = false → (t.port p).ret3 = ((s.port p).ret3 + 4) % 4096))) ∧
  (∀ (s : State) (p arg : Nat) (b : List Byte), p ≤ 15 → s.portHot p = true → flitOk b 2 = true → arg = bufNat b 2 1 →
    s.pwrPermitted p arg = false ∨ s.portBusy p = true → s.canControl p = true →
    Does (.pwrReq p b) s (fun t => .item p (.control 4 arg []) ∈ t.out ∧ (t.port p).pwrAgreed = (s.port p).pwrAgreed ∧
      t.f (rlTxCreditVc3 p) = s.f (rlTxCreditVc3 p) - 4 ∧ t.f (rlLinkStatusPwr p) = 0)) ∧
  (∀ (s : State) (p : Nat) (b : List Byte), p ≤ 15 → s.portHot p = true → flitOk b 2 = true → s.canControl p = false →
    Does (.pwrReq p b) s (fun t => t = s.returnFlit p)) ∧
  (∀ (s : State) (p arg : Nat) (b : List Byte), p ≤ 15 → s.portHot p = true → flitOk b 3 = true → arg = bufNat b 2 1 →
    (s.port p).pwrReq = some arg → (s.port p).keptCw = [] → (s.port p).txBuf = [] →
    Does (.pwrAck p b) s (fun t => t.f (rlLinkStatusPwr p) = arg ∧ t.out = .lanesIdle p :: s.out ∧ (t.port p).pwrReq = none ∧
      (t.port p).pwrAgreed = none ∧ (arg = 2 → bitOf (s.f plGateDis) (4 + p) = false → bitOf (t.f plClkActive) (4 + p) = false) ∧
      t.f (rlLinkStatusClkLocal p) = 1 ∧ Only [.out, .ports, .regs] s t ∧
      OnlyRegs [rlLinkStatusPwr p, rlLinkStatusClkLocal p, plClkActive] s t)) ∧
  (∀ (s : State) (p arg : Nat) (b : List Byte), p ≤ 15 → s.portHot p = true → flitOk b 3 = true → arg = bufNat b 2 1 →
    (s.port p).pwrReq = some arg → (s.port p).keptCw ≠ [] → (s.port p).txBuf = [] →
    Does (.pwrAck p b) s (fun t =>
      t = (s.returnFlit p).setPort p { (s.returnFlit p).port p with pwrReq := none, pwrAgreed := some arg })) ∧
  (∀ (s : State) (p arg : Nat) (b : List Byte), p ≤ 15 → s.portHot p = true → flitOk b 4 = true → arg = bufNat b 2 1 →
    (s.port p).pwrReq = some arg →
    Does (.pwrRefuse p b) s (fun t => t = (s.returnFlit p).setPort p { (s.returnFlit p).port p with pwrReq := none })) ∧
  (∀ (s : State) (p sub : Nat) (b : List Byte), sub = 2 ∨ sub = 3 ∨ sub = 4 → flitOk b sub = false →
    Does (if sub = 2 then .pwrReq p b else if sub = 3 then .pwrAck p b else .pwrRefuse p b) s (fun t => t = s)) ∧
  (∀ (s : State) (p : Nat), Does (.pwrReqTimeout p) s (fun t => (t.port p).pwrReq = none ∧ Only [.ports] s t ∧
    (∀ q, q ≠ p → t.port q = s.port q))) ∧
  (∀ (s : State) (p : Nat), s.portHot p = true → s.on (rlPwrCfgWarmEn p) = true → s.portBusy p = false → (s.port p).pwrReq = none →
    (s.port p).pwrAgreed = none → s.canControl p = true →
    Does (.warmIdleTimer p) s (fun t => .item p (.control 2 1 []) ∈ t.out ∧ (t.port p).pwrReq = some 1)) ∧
  (∀ (s : State) (p : Nat), s.portWarm p = true → s.on (rlPwrCfgBankedEn p) = true → s.portBusy p = false → (s.port p).pwrReq = none →
    (s.port p).pwrAgreed = none → s.canControl p = true →
    Does (.bankedIdleTimer p) s (fun t => .item p (.control 2 2 []) ∈ t.out ∧ .lanesResume p ∈ t.out ∧ (t.port p).pwrReq = some 2 ∧
      t.f (rlLinkStatusPwr p) = 0)) ∧
  (∀ (s : State) (p : Nat), s.portWarm p = true →
    Does (.warmExit p) s (fun t => t.f (rlLinkStatusPwr p) = 0 ∧ t.out = .lanesResume p :: s.out ∧
      bitOf (t.f plClkActive) (4 + p) = true ∧ t.f (rlLinkStatusClkLocal p) = 0 ∧ Only [.out, .regs] s t ∧
      OnlyRegs [rlLinkStatusPwr p, rlLinkStatusClkLocal p, plClkActive] s t)) ∧
  (∀ (s : State) (p : Nat), p ≤ 15 → s.portBanked p = true → s.now ≤ (s.port p).bankedTick + 240000000000 →
    (s.baseTemp - (s.port p).bankedTemp).natAbs ≤ 15 * 64 →
    Does (.bankedExit p) s (fun t => t.linkState p = 2 ∧ t.f (rlLinkStatusPwr p) = 0 ∧ (t.port p).fast = true ∧ (t.port p).keep = true ∧
      t.out = .lanesTrain p :: s.out ∧ bitOf (t.f plPwrOn) (3 + p) = true ∧ bitOf (t.f plClkActive) (4 + p) = true ∧
      Only [.out, .ports, .regs] s t ∧
      OnlyRegs [plPwrOn, plClkActive, rlLinkStatusState p, rlLinkStatusPwr p, rlLinkStatusClkLocal p] s t)) ∧
  (∀ (s : State) (p : Nat), p ≤ 15 → s.portBanked p = true → 15 * 64 < (s.baseTemp - (s.port p).bankedTemp).natAbs →
    Does (.bankedExit p) s (fun t => t.linkState p = 1 ∧ t.f (rlLinkStatusAttempt p) = 1 ∧
      t.f (rlRetrainCountCold p) = min (s.f (rlRetrainCountCold p) + 1) 65535)) ∧
  (∀ (s : State) (p : Nat), p ≤ 15 → (s.port p).fast = true →
    Does (.bankedFastPathTimeout p) s (fun t => t.linkState p = 1 ∧ t.f (rlLinkStatusChanged p) = 1 ∧ (t.port p).fast = false ∧
      t.f (rlRetrainCountCold p) = min (s.f (rlRetrainCountCold p) + 1) 65535))

/-- The link commands (R137, R183, R187, R494): each acts on the ports of its mask that are neither culled nor held in local reset.

The constructors that it says run to a next state with their own effect: linkRetrain, linkPowerCfg, linkDisable, linkEqSet. -/
def Obligations.LinkCommandsAct : Prop :=
  (∀ (s : State) (e : Sqe), Running e s → s.quenched = false → e.bit 18 0 = true → s.allCulledPorts (e.par 16 2) = false →
    Does (.linkRetrain e) s (fun t => (∀ p ∈ s.portsOf (e.par 16 2), (s.port p).byCommand = false →
      t.linkState p = 1 ∧ t.f (rlLinkStatusAttempt p) = 1) ∧ t.queues = s.queues ∧ t.tables = s.tables)) ∧
  (∀ (s : State) (e : Sqe), Running e s → s.quenched = false → e.bit 18 0 = false → s.allCulledPorts (e.par 16 2) = false →
    (s.portsOf (e.par 16 2)).filter (fun p => !(s.port p).byCommand && s.portActive p) = [] →
    Answers (.linkRetrain e) e stOk 0 s) ∧
  (∀ (s : State) (e : Sqe), Running e s → s.quenched = false → s.allCulledPorts (e.par 16 2) = true →
    Answers (.linkRetrain e) e stResourceCulled 0 s) ∧
  (∀ (s : State) (e : Sqe), Running e s → 10 ≤ e.par 20 4 → e.par 20 4 ≤ 40950 → e.par 20 4 % 10 = 0 → 1 ≤ e.par 24 4 →
    e.par 24 4 ≤ 65535 → s.allCulledPorts (e.par 16 2) = false →
    Does (.linkPowerCfg e) s (fun t => (∀ p ∈ s.portsOf (e.par 16 2),
      t.f (rlPwrCfgWarmEn p) = b2n (e.bit 18 0) ∧ t.f (rlPwrCfgBankedEn p) = b2n (e.bit 18 1) ∧
      t.f (rlPwrCfgWarmIdle p) = e.par 20 4 / 10 ∧ t.f (rlPwrCfgBankedIdle p) = e.par 24 4) ∧
      Posts e stOk 0 [] s t ∧ Only ringParts s t)) ∧
  (∀ (s : State) (e : Sqe), Running e s → e.par 20 4 < 10 → Answers (.linkPowerCfg e) e stBadParam 0 s) ∧
  (∀ (s : State) (e : Sqe), Running e s → e.bit 18 0 = true → s.allCulledPorts (e.par 16 2) = false →
    Does (.linkDisable e) s (fun t => (∀ p ∈ s.portsOf (e.par 16 2), (s.port p).byCommand = false →
      t.linkState p = 0 ∧ (t.port p).byCommand = true) ∧ t.queues = s.queues ∧ t.tables = s.tables)) ∧
  (∀ (s : State) (e : Sqe), Running e s → e.bit 18 0 = false → s.allCulledPorts (e.par 16 2) = false →
    s.fwRuns = true ∨ s.on elStatusSvExpired = true → s.quenched = false →
    Does (.linkDisable e) s (fun t => (∀ p ∈ s.portsOf (e.par 16 2),
      (s.port p).byCommand = true → t.linkState p = 1 ∧ (t.port p).byCommand = false))) ∧
  (∀ (s : State) (e : Sqe), Running e s → e.par 16 1 ≤ 15 → e.par 19 1 ≤ 15 ∨ e.par 19 1 = 0xFF → s.portCulled (e.par 16 1) = false →
    Does (.linkEqSet e) s (fun t =>
      (t.port (e.par 16 1)).eqNext =
        (s.port (e.par 16 1)).eqNext ++ [⟨e.par 17 1, e.par 18 1 % 8, e.bit 18 3, e.par 19 1, e.bit 20 0⟩] ∧
      Posts e stOk 0 [] s t ∧ Only (.ports :: ringParts) s t ∧ OnlyRegs (ringRegs e.ring) s t))

/-- What a codeword names as a resync codeword, where it can be decoded (R189, R192). -/
def namedSeq (c : Codeword) : Option (Option Nat) := (rsDecode c.symbols).map (fun w => resyncSeq (symbolBytes (w.1.take 256)))

/-- A codeword that can be decoded and is no resync codeword. -/
def PlainCodeword (c : Codeword) : Prop := namedSeq c = some none

/-- A codeword whose content is a resync codeword naming a SEQ. -/
def ResyncCodeword (c : Codeword) (seq : Nat) : Prop := namedSeq c = some (some seq)

/-- The link update that port `p` sends now, with the ACK_SEQ given (R209, R210). -/
def updateFrom (s : State) (p : Nat) (nak : Bool) (ack : Nat) : LinkItem :=
  .update nak ack (s.port p).ret0 (s.port p).ret1 (s.port p).ret2 (s.port p).ret3

/-- The received stream (R189, R191, R192, R210, R212, R213, R231): codewords in sequence, uncorrectable ones, framing and resync
codewords.

The constructors that it says run to a next state with their own effect: dataCodewordRx, framingCodewordRx, resyncCodewordRx. -/
def Obligations.CodewordsKeepSequence : Prop :=
  (∀ (s : State) (p : Nat) (c : Codeword), p ≤ 15 → s.linkState p = 9 → (s.port p).dropping = false → rsDecode c.symbols = none →
    (s.port p).badItem = false ∨ (s.port p).failedAt = some ((s.port p).rxSeq, (s.port p).rxOff) →
    Does (.dataCodewordRx p c) s (fun t => (t.port p).dropping = true ∧ (t.port p).ackSeq = (s.port p).rxNext ∧
      t.f (rlFecStatUncorrCw p) = min (s.f (rlFecStatUncorrCw p) + 1) 65535 ∧ t.now = max s.now c.tick ∧
      (s.portHot p = true → s.replayRoom p 16 = true → Sends p (updateFrom s p true (s.port p).rxNext) s t ∧
        t.f (rlSeqRxAckSeq p) = (s.port p).rxNext ∧ t.f (rlReplayNaks p) = min (s.f (rlReplayNaks p) + 1) 65535) ∧
      t.queues = s.queues ∧ t.tables = s.tables)) ∧
  (∀ (s : State) (p : Nat) (c : Codeword), p ≤ 15 → s.linkState p = 9 → (s.port p).dropping = true → PlainCodeword c →
    Does (.dataCodewordRx p c) s (fun t => Only [.time, .regs, .lanes, .free] s t ∧
      OnlyRegs [rlFecStatCorrCw p, rlFecSymCorrSym p] s t)) ∧
  (∀ (s : State) (p : Nat) (c : Codeword), p ≤ 15 → s.linkState p = 9 → (s.port p).dropping = false → (s.port p).badItem = false →
    PlainCodeword c →
    Does (.dataCodewordRx p c) s (fun t => (t.port p).rxNext = ((s.port p).rxNext + 1) % 2 ^ 24 ∧ (t.port p).resume = 0 ∧
      (∃ l, (t.port p).ingress = (s.port p).ingress ++ l ∧ (t.port p).nextId = (s.port p).nextId + l.length ∧
        ∀ r ∈ l, r.port = p ∧ r.corrupt = false) ∧
      (t.port p).egress = (s.port p).egress ∧ Only [.time, .regs, .ports, .lanes, .free] s t)) ∧
  (∀ (s : State) (p : Nat) (c : Codeword) (w : List Nat), p ≤ 15 → s.linkState p = 7 → rsDecode c.symbols = some (w, []) →
    framingOk (symbolBytes (w.take 256)) = true →
    Does (.framingCodewordRx p c) s (fun t =>
      (t.port p).framings = (if (s.port p).framings ≠ 0 ∧
        bufNat (symbolBytes (w.take 256)) 16 4 = ((s.port p).lastFraming + 1) % 2 ^ 32 then (s.port p).framings + 1 else 1) ∧
      (t.port p).lastFraming = bufNat (symbolBytes (w.take 256)) 16 4 ∧ Only [.time, .ports] s t)) ∧
  (∀ (s : State) (p : Nat) (c : Codeword), p ≤ 15 → s.linkState p = 7 →
    (∀ w, rsDecode c.symbols = some (w, []) → framingOk (symbolBytes (w.take 256)) = false) →
    Does (.framingCodewordRx p c) s (fun t => (t.port p).framings = 0 ∧ Only [.time, .regs, .ports, .lanes] s t)) ∧
  (∀ (s : State) (p : Nat) (c : Codeword), p ≤ 15 → s.linkState p = 9 → (s.port p).dropping = true →
    ResyncCodeword c (s.port p).ackSeq →
    Does (.resyncCodewordRx p c) s (fun t => (t.port p).dropping = false ∧ (t.port p).rxNext = (s.port p).ackSeq ∧
      (t.port p).ackSeq = (s.port p).ackSeq ∧ Only [.time, .regs, .ports, .lanes, .free] s t ∧
      OnlyRegs [rlFecStatCorrCw p, rlFecSymCorrSym p] s t)) ∧
  (∀ (s : State) (p seq : Nat) (c : Codeword), p ≤ 15 → s.linkState p = 9 → (s.port p).dropping = true → ResyncCodeword c seq →
    seq ≠ (s.port p).ackSeq →
    Does (.resyncCodewordRx p c) s (fun t => t.f (rlProtoErrResync p) = min (s.f (rlProtoErrResync p) + 1) 255 ∧
      Only [.time, .regs, .lanes, .free] s t ∧ OnlyRegs [rlProtoErrResync p, rlFecStatCorrCw p, rlFecSymCorrSym p] s t))

/-- Acknowledgement, replay and control flits (R206, R207, R209 to R219): what each event takes, gives back and sends.

The constructors that it says run to a next state with their own effect: linkUpdateRx, linkUpdateSend, nakRetryTimeout, replayTimeout,
init, downNoticeTimeout. -/
def Obligations.LinkAcknowledgesAndReplays : Prop :=
  (∀ (s : State) (p : Nat) (b : List Byte), p ≤ 15 → updateOk b = true → s.portActive p = true →
    Does (.linkUpdateRx p b) s (fun t =>
      (t.port p).acked = (if ahead (2 ^ 24) (s.port p).acked (bufNat b 2 3) then bufNat b 2 3 else (s.port p).acked) ∧
      (∀ k ∈ (t.port p).kept, k ∈ (s.port p).kept ∨ ∃ a n0 n1 n2 n3, k.2 = .update true a n0 n1 n2 n3) ∧
      (ahead 4096 (s.port p).seen2 (bufNat b 6 6 / 2 ^ 24 % 4096) = true →
        t.f (rlTxCreditVc2 p) =
          min (s.f (rlTxCreditVc2 p) + (bufNat b 6 6 / 2 ^ 24 % 4096 + 4096 - (s.port p).seen2) % 4096) 4095) ∧
      t.queues = s.queues)) ∧
  (∀ (s : State) (p : Nat) (b : List Byte), p ≤ 15 → updateOk b = true → s.portActive p = true → bitOf (bufNat b 1 1) 0 = true →
    bufNat b 2 3 = (s.port p).acked →
    Does (.linkUpdateRx p b) s (fun t => Resends p s t ∧ t.f (rlReplayReplays p) = min (s.f (rlReplayReplays p) + 1) 32767)) ∧
  (∀ (s : State) (p : Nat), p ≤ 15 → s.portHot p = true → s.replayRoom p 16 = true → (s.port p).nakDue = false →
    Does (.linkUpdateSend p) s (fun t => Sends p (updateFrom s p false (s.port p).ackSeq) s t ∧
      t.f (rlSeqRxAckSeq p) = (s.port p).ackSeq ∧ Only [.out, .regs, .ports] s t ∧
      OnlyRegs [rlSeqTxNext p, rlSeqRxAckSeq p] s t)) ∧
  (∀ (s : State) (p : Nat), s.portHot p = true → s.replayRoom p 16 = true → (s.port p).dropping = true →
    Does (.nakRetryTimeout p) s (fun t => Sends p (updateFrom s p true (s.port p).ackSeq) s t ∧
      t.f (rlReplayNaks p) = min (s.f (rlReplayNaks p) + 1) 65535 ∧ Only [.out, .regs, .ports] s t)) ∧
  (∀ (s : State) (p : Nat), s.portActive p = true → (s.port p).keptCw ≠ [] → (s.port p).replays ≠ 7 →
    Does (.replayTimeout p) s (fun t => Resends p s t ∧
      (t.port p).replays = min ((s.port p).replays + 1) 9 ∧ Only [.out, .regs, .ports] s t)) ∧
  (∀ (s : State) (p : Nat), s.portActive p = true → (s.port p).keptCw ≠ [] → (s.port p).replays = 7 →
    Does (.replayTimeout p) s (fun t => t.f (rlReplayStalled p) = 1 ∧ Newest t .rl 0x01 p ∧ (t.port p).replays = 8)) ∧
  (∀ (s : State) (p : Nat) (b : List Byte), p ≤ 15 → initOk b = true → s.linkState p = 7 ∨ s.linkState p = 8 →
    bitOf (bufNat b 12 1) 0 = false →
    Does (.init p b) s (fun t => (t.port p).initSeen = true ∧ (t.port p).resuming = false ∧
      t.f (rlTxCreditVc2 p) = bufNat b 8 2 % 4096 ∧ t.f (rlTxCreditVc3 p) = bufNat b 10 2 % 4096 ∧ Only [.ports, .regs] s t)) ∧
  (∀ (s : State) (p : Nat) (b : List Byte), p ≤ 15 → initOk b = true → s.linkState p = 7 ∨ s.linkState p = 8 →
    bitOf (bufNat b 12 1) 0 = true → (s.port p).keep = true →
    Does (.init p b) s (fun t => (t.port p).initSeen = true ∧ (t.port p).resuming = true ∧
      (t.port p).acked = (if ahead (2 ^ 24) (s.port p).acked (bufNat b 13 3) then bufNat b 13 3 else (s.port p).acked))) ∧
  (∀ (s : State) (p k : Nat), (s.port p).notice = some k → s.linkState p ≠ 1 →
    Does (.downNoticeTimeout p) s (fun t => (t.port p).notice = none ∧ t.out = .lanesIdle p :: s.out ∧ Only [.out, .ports] s t)) ∧
  (∀ (s : State) (p k : Nat), (s.port p).notice = some k → s.linkState p = 1 →
    Does (.downNoticeTimeout p) s (fun t => (t.port p).notice = none ∧ t.out = .lanesTrain p :: .lanesIdle p :: s.out ∧
      Only [.out, .ports] s t))

/-- Damaged items and replies (R199, R201, R205, R208, R222, R224, R226, R227): the first and the second CRC failure of a request, the
answer
to a corrupt one, an item that cannot be found, and the reply that leaves the egress store.

The constructors that it says run to a next state with their own effect: requestCrcFail, echo, enq, lookup, replySend, markPass. -/
def Obligations.CrcFailuresAndReplies : Prop :=
  (∀ (s : State) (p : Nat), p ≤ 15 → (s.port p).badItem = true → (s.port p).rxBuf ≠ [] →
    (s.port p).failedAt ≠ some ((s.port p).rxSeq, (s.port p).rxOff) →
    Does (.requestCrcFail p) s (fun t => t.f (rlCrcFirst p) = min (s.f (rlCrcFirst p) + 1) 65535 ∧
      (t.port p).ackSeq = (s.port p).rxSeq ∧ (t.port p).dropping = true ∧ (t.port p).rxNext = (s.port p).rxSeq ∧
      (t.port p).resume = (s.port p).rxOff ∧ (t.port p).ingress = (s.port p).ingress ∧
      (s.portHot p = true → s.replayRoom p 16 = true → Sends p (updateFrom s p true (s.port p).rxSeq) s t) ∧
      Only [.out, .regs, .ports] s t)) ∧
  (∀ (s : State) (p : Nat), p ≤ 15 → (s.port p).badItem = true → (s.port p).rxBuf ≠ [] →
    (s.port p).failedAt = some ((s.port p).rxSeq, (s.port p).rxOff) →
    1 ≤ bufNat (s.port p).rxBuf 0 1 → bufNat (s.port p).rxBuf 0 1 ≤ 0x30 → bufNat (s.port p).rxBuf 8 4 % 2 ^ 15 ≤ 16384 →
    16 + bufNat (s.port p).rxBuf 8 4 % 2 ^ 15 ≤ (s.port p).rxBuf.length →
    Does (.requestCrcFail p) s (fun t => t.f (rlCrcCorrupt p) = min (s.f (rlCrcCorrupt p) + 1) 65535 ∧
      (∃ q l, (t.port p).ingress = (s.port p).ingress ++ q :: l ∧ q.corrupt = true ∧ q.port = p ∧ q.id = (s.port p).nextId ∧
        q.opcode = bufNat (s.port p).rxBuf 0 1 ∧ q.tag = bufNat (s.port p).rxBuf 4 4) ∧
      t.queues = s.queues ∧ t.tables = s.tables)) ∧
  (∀ (s : State) (p : Nat), p ≤ 15 → (s.port p).badItem = true → (s.port p).rxBuf ≠ [] →
    (s.port p).failedAt = some ((s.port p).rxSeq, (s.port p).rxOff) →
    1 ≤ bufNat (s.port p).rxBuf 0 1 → bufNat (s.port p).rxBuf 0 1 ≤ 0x30 → bufNat (s.port p).rxBuf 8 4 % 2 ^ 15 ≤ 16384 →
    (s.port p).rxBuf.length < 16 + bufNat (s.port p).rxBuf 8 4 % 2 ^ 15 → Does (.requestCrcFail p) s (fun t => t = s)) ∧
  (∀ (s : State) (r : Req), s.mayTake r = true → r.corrupt = true → s.egressRoom r.port 16 = true →
    (Does (.echo r) s (fun t => Replies r stPacketCorrupt 0 [] s t ∧ Only [.regs, .ports] s t) ∧
     Does (.enq r) s (fun t => Replies r stPacketCorrupt 0 [] s t ∧ Only [.regs, .ports] s t) ∧
     Does (.lookup r) s (fun t => Replies r stPacketCorrupt 0 [] s t ∧ Only [.regs, .ports] s t))) ∧
  (∀ (s : State) (p : Nat), p ≤ 15 → (s.port p).badItem = true → (s.port p).rxBuf ≠ [] →
    (s.port p).failedAt = some ((s.port p).rxSeq, (s.port p).rxOff) → 0x30 < bufNat (s.port p).rxBuf 0 1 →
    Does (.requestCrcFail p) s (fun t => t.f (rlProtoErrFatal p) = 1 ∧ Newest t .rl 0x02 p ∧ t.linkState p = 1 ∧
      t.queues = s.queues ∧ t.tables = s.tables)) ∧
  (∀ (s : State) (p : Nat) (r : Reply) (rest : List Reply), s.portHot p = true → (s.port p).egress = r :: rest →
    creditsOf r.bytes ≤ s.f (rlTxCreditVc2 p) → s.replayRoom p r.bytes = true →
    Does (.replySend p) s (fun t => Sends p (.reply r) s t ∧ (t.port p).egress = rest ∧
      t.f (rlTxCreditVc2 p) = s.f (rlTxCreditVc2 p) - creditsOf r.bytes ∧
      t.f (rlEgressBytes p) = s.f (rlEgressBytes p) - r.bytes ∧ Only [.out, .regs, .ports, .latency] s t)) ∧
  (∀ (s : State) (p : Nat) (m : Mark) (rest : List Mark), (s.port p).marks = m :: rest → m.req.port = p →
    (∀ r ∈ m.before, ∀ q ∈ (s.port p).unfinished, q.id ≠ r.id) → (bitOf m.req.b2 0 = true → s.egressRoom p 16 = true) →
    Does (.markPass p) s (fun t => (t.port p).marks = rest ∧ (bitOf m.req.b2 0 = true → Replies m.req stOk 0 [] s t) ∧
      (bitOf m.req.b2 0 = false → (t.port p).egress = (s.port p).egress) ∧
      (∀ l, l < 64 → s.f (evSrcCode l) = 0x500 + p → (t.line l).pulsed = true ∧ (t.line l).tick = s.now) ∧
      Only [.ports, .regs, .lines, .pulses] s t))

/-- ECHO and opcodes that no row of R198 gives (R225, R226): every refusal of ECHO's own and its answer.

The constructors that it says run to a next state with their own effect: echo, unknownDataOpcode. -/
def Obligations.EchoAndUnknownOpcodesAnswer : Prop :=
  (∀ (s : State) (r : Req), Admitted r (24 + r.length) s → r.length ≤ 48 →
    Does (.echo r) s (fun t => Replies r stOk 0 (r.payload ++ leBytes 8 r.tick) s t ∧ Only [.regs, .ports] s t)) ∧
  (∀ (s : State) (r : Req), Admitted r 16 s → 48 < r.length →
    Does (.echo r) s (fun t => Replies r stBadLength 0 [] s t ∧
      t.f (rlProtoErrLength r.port) = min (s.f (rlProtoErrLength r.port) + 1) 255 ∧ Only [.regs, .ports] s t)) ∧
  (∀ (s : State) (r : Req), Admitted r 16 s → listedOpcode r.opcode = false →
    Does (.unknownDataOpcode r) s (fun t => Replies r stBadOpcode 0 [] s t ∧
      t.f (rlProtoErrOpcode r.port) = min (s.f (rlProtoErrOpcode r.port) + 1) 255 ∧ Only [.regs, .ports] s t)) ∧
  (∀ (s : State) (r : Req), s.mayTake r = true → r.corrupt = false → r.credited = false → s.egressRoom r.port 16 = true →
    listedOpcode r.opcode = false →
    Does (.unknownDataOpcode r) s (fun t => Replies r stNotPermitted 0 [] s t ∧
      t.f (rlProtoErrCredit r.port) = min (s.f (rlProtoErrCredit r.port) + 1) 127 ∧ Only [.regs, .ports] s t))

/-- A packet of queue `q` that can be read (R246, R272, R273): every block header that its removal reads and its own header pass, no word
of it
is uncorrectable, and its bytes in tail staging and DRAM are those it was enqueued with. -/
def Readable (s : State) (q : Nat) (k : Packet) : Prop :=
  s.badHeaders q (s.queue q) (k.pos / blockData) ((k.pos + 15 + k.data.length) / blockData) = false ∧
    s.badPacket (s.queue q) k = false ∧ s.poisonedPacket (s.queue q) k k.data.length = false ∧
    s.deliver (s.queue q) k k.data.length = k.data

/-- A removal or a peek finds a queue that it can serve (R256 to R261, R275). -/
def Served (r : Req) (s : State) : Prop :=
  s.queueHeld r = false ∧ r.object ≤ 131071 ∧ r.length = 0 ∧ (s.queue r.object).configured = true ∧
    (s.queue r.object).broken = none ∧ (s.queue r.object).badContext = false

/-- What a DEQ delivers for packets that can be read: descriptors and data back to back, with the SEQs from that of the head on (R256). -/
def delivered (seq : Nat) (tick : Tick) (l : List Packet) : List Byte :=
  (l.zipIdx).flatMap (fun y => descriptor y.1 false ((seq + y.2) % 2 ^ 32) tick ++ y.1.data)

/-- ENQ (R244, R249, R252 to R255): an accepted packet becomes the last of its queue and no other queue changes; a refused one changes
no queue but its drop count; one that waits for the memory is committed by ENQ_COMMIT.

The constructors that it says run to a next state with their own effect: enq, enqCommit. -/
def Obligations.EnqAddsOnePacket : Prop :=
  (∀ (s : State) (r : Req), Admitted r (enqReply r) s → s.queueHeld r = false → s.enqRefusal r = none → s.writeRoom r = true →
    Does (.enq r) s (fun t =>
      (t.queue r.object).packets = (s.queue r.object).packets ++
        [⟨r.b1 % 16, r.port, r.arg, r.b1 / 16 % 4, r.tick % 2 ^ 48, r.payload, (s.queue r.object).tail⟩] ∧
      (t.queue r.object).nextSeq = ((s.queue r.object).nextSeq + 1) % 2 ^ 32 ∧
      (t.queue r.object).tail = (s.queue r.object).tail + 16 + r.length ∧
      (∀ q, q ≠ r.object → t.queue q = s.queue q) ∧ t.tables = s.tables ∧ t.mem = s.mem ∧
      t.f qmEnqCount = min (s.f qmEnqCount + 1) (2 ^ 64 - 1) ∧
      (bitOf r.b2 0 = true → Replies r stOk 0 (leBytes 4 (s.queue r.object).nextSeq ++ leBytes 4 0 ++ leBytes 8 (t.queue r.object).bytes)
        s t) ∧
      (bitOf r.b2 0 = false → (t.port r.port).egress = (s.port r.port).egress))) ∧
  (∀ (s : State) (r : Req), Admitted r (enqReply r) s → s.queueHeld r = false → s.enqRefusal r = some stQueueFull →
    Does (.enq r) s (fun t => Replies r stQueueFull 0 [] s t ∧
      t.queue r.object = { s.queue r.object with drops := ((s.queue r.object).drops + 1) % 2 ^ 32 } ∧
      t.f qmRefuseQfull = min (s.f qmRefuseQfull + 1) (2 ^ 32 - 1) ∧ (∀ q, q ≠ r.object → t.queue q = s.queue q))) ∧
  (∀ (s : State) (r : Req), Admitted r (enqReply r) s → s.queueHeld r = false → s.enqRefusal r = some stPoolExhausted →
    Does (.enq r) s (fun t => Replies r stPoolExhausted 0 [] s t ∧
      t.queue r.object = { s.queue r.object with drops := ((s.queue r.object).drops + 1) % 2 ^ 32 } ∧
      t.f qmRefusePool = min (s.f qmRefusePool + 1) (2 ^ 32 - 1) ∧ (∀ q, q ≠ r.object → t.queue q = s.queue q))) ∧
  (∀ (s : State) (r : Req) (st : Nat), Admitted r (enqReply r) s → s.queueHeld r = false → s.enqRefusal r = some st →
    st = stNoSuchObject ∨ st = stNotPermitted →
    Does (.enq r) s (fun t => Replies r st 0 [] s t ∧ t.queues = s.queues ∧
      t.f qmRefuseState = min (s.f qmRefuseState + 1) (2 ^ 32 - 1))) ∧
  (∀ (s : State) (r : Req), Admitted r (enqReply r) s → s.queueHeld r = false → s.enqRefusal r = none → s.writeRoom r = false →
    (s.port r.port).assembly.length < 2 →
    Does (.enq r) s (fun t => (t.port r.port).assembly = (s.port r.port).assembly ++ [r] ∧
      (t.port r.port).ingress = (s.port r.port).ingress ∧ Only [.ports] s t)) ∧
  (∀ (s : State) (p : Nat) (r : Req) (rest : List Req), (s.port p).assembly = r :: rest → r.port = p → s.halted = false →
    s.writeRoom r = true →
    Does (.enqCommit p) s (fun t => (t.port p).assembly = rest ∧
      (t.queue r.object).packets = (s.queue r.object).packets ++
        [⟨r.b1 % 16, r.port, r.arg, r.b1 / 16 % 4, r.tick % 2 ^ 48, r.payload, (s.queue r.object).tail⟩] ∧
      (∀ q, q ≠ r.object → t.queue q = s.queue q)))

/-- DEQ, PEEK, DROP_HEAD and QSTAT on a queue whose packets can be read (R256 to R265): the oldest packets leave first, a removal takes
them from that queue alone, a DEQ delivers at least one and at most the number and the budget asked, and PEEK and QSTAT take nothing.

The constructors that it says run to a next state with their own effect: deq, peek, dropHead, qstat. -/
def Obligations.RemovalsTakeTheHead : Prop :=
  (∀ (s : State) (r : Req) (k : Packet) (rest : List Packet), Admitted r 16416 s → Served r s →
    (s.queue r.object).packets = k :: rest → Readable s r.object k → r.arg ≤ 1 →
    Does (.deq r) s (fun t => (t.queue r.object).packets = rest ∧ (∀ q, q ≠ r.object → t.queue q = s.queue q) ∧ t.tables = s.tables ∧
      t.mem = s.mem ∧ Replies r stOk 1 (descriptor k false (s.queue r.object).headSeq r.tick ++ k.data) s t)) ∧
  (∀ (s : State) (r : Req), Admitted r 16416 s → Served r s → (s.queue r.object).packets ≠ [] →
    (∀ k ∈ (s.queue r.object).packets, Readable s r.object k) →
    Does (.deq r) s (fun t => ∃ m st, 1 ≤ m ∧ m ≤ max 1 r.arg ∧ m ≤ (s.queue r.object).packets.length ∧
      (t.queue r.object).packets = (s.queue r.object).packets.drop m ∧ (st = stOk ∨ st = stDonePartial) ∧
      (m = 1 ∨ (((s.queue r.object).packets.take m).map (fun k => 16 + k.data.length)).sum ≤ deqBudget (r.b2 / 2 % 8)) ∧
      Replies r st m (delivered (s.queue r.object).headSeq r.tick ((s.queue r.object).packets.take m)) s t ∧
      (∀ q, q ≠ r.object → t.queue q = s.queue q))) ∧
  (∀ (s : State) (r : Req) (k : Packet) (rest : List Packet),
    Admitted r (if r.arg = 0 then 16416 else min 16416 (32 + 64 * r.arg)) s → Served r s →
    (s.queue r.object).packets = k :: rest → Readable s r.object k →
    Does (.peek r) s (fun t => t.queues = s.queues ∧ t.tables = s.tables ∧ t.mem = s.mem ∧
      Replies r stOk 0 (descriptor k false (s.queue r.object).headSeq r.tick ++ (if r.arg = 0 then k.data else k.data.take (64 * r.arg)))
        s t)) ∧
  (∀ (s : State) (r : Req), Admitted r 32 s → Served r s → (s.queue r.object).packets ≠ [] →
    (∀ k ∈ (s.queue r.object).packets, Readable s r.object k) →
    Does (.dropHead r) s (fun t => (t.queue r.object).packets = (s.queue r.object).packets.drop (max 1 r.arg) ∧
      (∀ q, q ≠ r.object → t.queue q = s.queue q) ∧ t.mem = s.mem ∧
      (bitOf r.b2 0 = true → Replies r (if (s.queue r.object).packets.length < max 1 r.arg then stDonePartial else stOk) 0
        (leBytes 8 (((s.queue r.object).packets.take (max 1 r.arg)).map (fun k => k.data.length)).sum ++
          leBytes 4 (min (max 1 r.arg) (s.queue r.object).packets.length) ++ leBytes 4 (s.queue r.object).headSeq) s t) ∧
      (bitOf r.b2 0 = false → (t.port r.port).egress = (s.port r.port).egress))) ∧
  (∀ (s : State) (r : Req) (k : Packet) (rest : List Packet), Admitted r 48 s → Served r s →
    (s.queue r.object).packets = k :: rest → Readable s r.object k → bitOf r.b2 1 = false →
    Does (.qstat r) s (fun t => t.queues = s.queues ∧ t.tables = s.tables ∧
      Replies r stOk 0 ((s.queue r.object).stat (s.queue r.object).bytes (s.queue r.object).count (sojourn r.tick k.tick) 0) s t)) ∧
  (∀ (s : State) (r : Req), Admitted r 48 s → Served r s → bitOf r.b2 1 = true → s.snapshots = [] →
    Does (.qstat r) s (fun t => t.queues = s.queues ∧ Replies r stEmpty 0 [] s t)) ∧
  (∀ (s : State) (r : Req), Admitted r 16416 s → Served r s → (s.queue r.object).packets = [] →
    Does (.deq r) s (fun t => (t.queue r.object).packets = [] ∧ Replies r stEmpty 0 [] s t) ∧
    Does (.peek r) s (fun t => t.queues = s.queues ∧ Replies r stEmpty 0 [] s t)) ∧
  (∀ (s : State) (r : Req), Admitted r 16416 s → s.queueHeld r = false → r.object ≤ 131071 → r.length = 0 →
    (s.queue r.object).configured = false →
    (∀ c ∈ [Instr.deq r, Instr.peek r, Instr.dropHead r, Instr.qstat r], Does c s (fun t => t.queues = s.queues ∧
      Replies r stNoSuchObject 0 [] s t ∧ t.f qmRefuseState = min (s.f qmRefuseState + 1) (2 ^ 32 - 1))))

/-- Snapshots (R266 to R271, R278): a request or command starts the one pending snapshot, its completion records every configured
queue at the cut tick, and SNAPSHOT_READ writes what was recorded.

The constructors that it says run to a next state with their own effect: snapshotReq, snapshotComplete, snapshotTake, snapshotRead. -/
def Obligations.SnapshotsRecordTheCut : Prop :=
  (∀ (s : State) (r : Req), Admitted r 32 s → r.length = 0 → s.snapPending = none → s.snapRead = false →
    Does (.snapshotReq r) s (fun t => t.snapPending = some (.link r, r.tick) ∧ t.f qmStatusSnapPending = 1 ∧
      (t.port r.port).awaiting = (s.port r.port).awaiting ++ [r] ∧ t.queues = s.queues ∧ t.snapshots = s.snapshots)) ∧
  (∀ (s : State) (r : Req), Admitted r 32 s → r.length = 0 → s.snapPending.isSome = true ∨ s.snapRead = true →
    Does (.snapshotReq r) s (fun t => t.snapPending = s.snapPending ∧ Replies r stNotPermitted 0 [] s t)) ∧
  (∀ (s : State) (src : SnapSource) (cut : Tick), s.snapPending = some (src, cut) → s.halted = false → s.settledBefore cut = true →
    Does .snapshotComplete s (fun t => t.snapPending = none ∧ t.f qmStatusSnapPending = 0 ∧ t.f qmSnapTick = cut ∧
      t.f qmSnapNumLast = (s.f qmSnapNumLast + 1) % 2 ^ 32 ∧ t.now = max s.now cut ∧ t.queues = s.queues ∧
      (∃ n, t.snapshots = n :: s.snapshots.take 1 ∧ n.cut = cut ∧ n.number = t.f qmSnapNumLast ∧ n.damaged = [] ∧
        ∀ q x, (q, x) ∈ s.queues → x.configured = true → (q, x.ledgerAt cut) ∈ n.entries) ∧
      (∀ r, src = .link r → Replies r stOk 0 (leBytes 8 cut ++ leBytes 4 (t.f qmSnapNumLast) ++ leBytes 4 0) s t))) ∧
  (∀ (s : State) (e : Sqe), Running e s → s.quenched = false → max (e.par 16 8) e.tick ≤ e.tick + 4000000000 → s.snapPending = none →
    s.snapRead = false →
    Does (.snapshotTake e) s (fun t => t.snapPending = some (.ring e.ring e.tag, max (e.par 16 8) e.tick) ∧
      t.f qmStatusSnapPending = 1 ∧ Only [.regs, .snapPending] s t ∧ OnlyRegs [qmStatusSnapPending] s t)) ∧
  (∀ (s : State) (e : Sqe), Running e s → s.quenched = false → e.tick + 4000000000 < e.par 16 8 →
    Answers (.snapshotTake e) e stBadParam 0 s) ∧
  (∀ (s : State) (e : Sqe) (x : Snapshot), Running e s → 0 < e.par 24 4 → e.par 20 4 + e.par 24 4 ≤ 131072 → e.par 32 8 % 16 = 0 →
    s.snapshots.find? (fun y => y.number == e.par 16 4) = some x → x.damaged = [] →
    Does (.snapshotRead e) s (fun t => Posts e stOk 0 [.hostWrite (e.par 32 8) ((List.range (e.par 24 4)).flatMap (fun i =>
      leBytes 8 (toTwos 64 (x.entry (e.par 20 4 + i)).1) ++ leBytes 8 (toTwos 64 (x.entry (e.par 20 4 + i)).2)))] s t ∧
      Only ringParts s t ∧ OnlyRegs (ringRegs e.ring) s t))

/-- The queue commands (R236, R275 to R278): a change waits at its doorbell tick and takes effect on every queue of its range and on no
other; QUEUE_INFO and QM_PREFETCH answer at once.

The constructors that it says run to a next state with their own effect: queueCfg, queueReserve, queueRemove, queueFlush,
queueChangeApply, queueInfo, qmPrefetch. -/
def Obligations.QueueCommandsTakeEffect : Prop :=
  (∀ (s : State) (e : Sqe), Running e s → 0 < e.par 20 4 → e.par 16 4 + e.par 20 4 ≤ 131072 →
    Does (.queueCfg e) s (fun t => t = { s with queueChanges := s.queueChanges ++
      [⟨.cfg (e.par 24 8) (e.bit 32 0) (e.bit 32 1) (e.bit 32 2), e.par 16 4, e.par 20 4, e.tick, e.ring, e.tag⟩] }) ∧
    Does (.queueReserve e) s (fun t => t = { s with queueChanges := s.queueChanges ++
      [⟨.reserve (e.par 24 4), e.par 16 4, e.par 20 4, e.tick, e.ring, e.tag⟩] }) ∧
    (s.quenched = false → Does (.queueRemove e) s (fun t => t = { s with queueChanges := s.queueChanges ++
      [⟨.remove (e.bit 24 0), e.par 16 4, e.par 20 4, e.tick, e.ring, e.tag⟩] })) ∧
    (s.quenched = false → Does (.queueFlush e) s (fun t => t = { s with queueChanges := s.queueChanges ++
      [⟨.flush, e.par 16 4, e.par 20 4, e.tick, e.ring, e.tag⟩] }))) ∧
  (∀ (s : State) (e : Sqe), Running e s → s.quenched = false → 131072 < e.par 16 4 + e.par 20 4 →
    ∀ c ∈ [Instr.queueCfg e, Instr.queueRemove e, Instr.queueFlush e, Instr.queueReserve e], Answers c e stBadParam 0 s) ∧
  (∀ (s : State) (c : QueueChange) (limit : Nat) (enable clear keep : Bool), s.halted = false → s.nextChange [] s.queueChanges = some c →
    c.kind = .cfg limit enable clear keep →
    Does .queueChangeApply s (fun t => t.queueChanges = s.queueChanges.erase c ∧
      (∀ q, c.first ≤ q → q < c.first + c.count → t.queue q = Queue.configure limit enable clear keep (s.queue q)) ∧
      (∀ q, q < c.first ∨ c.first + c.count ≤ q → t.queue q = s.queue q) ∧ t.tables = s.tables)) ∧
  (∀ (s : State) (c : QueueChange), s.halted = false → s.nextChange [] s.queueChanges = some c → c.kind = .remove true →
    Does .queueChangeApply s (fun t => t.queueChanges = s.queueChanges.erase c ∧
      (∀ q, c.first ≤ q → q < c.first + c.count → (t.queue q).configured = false ∧ (t.queue q).packets = []) ∧
      (∀ q, q < c.first ∨ c.first + c.count ≤ q → t.queue q = s.queue q) ∧ t.tables = s.tables)) ∧
  (∀ (s : State) (c : QueueChange), s.halted = false → s.nextChange [] s.queueChanges = some c → c.kind = .flush →
    s.queuesIn c.first c.count ≠ [] →
    Does .queueChangeApply s (fun t => t.queueChanges = s.queueChanges.erase c ∧
      (∀ q, c.first ≤ q → q < c.first + c.count → (s.queue q).configured = true → (t.queue q).packets = [] ∧
        (t.queue q).broken = none ∧ (t.queue q).limit = (s.queue q).limit ∧ (t.queue q).nextSeq = (s.queue q).nextSeq) ∧
      (∀ q, q < c.first ∨ c.first + c.count ≤ q → t.queue q = s.queue q))) ∧
  (∀ (s : State) (e : Sqe), Running e s → e.par 16 4 ≤ 131071 → (s.queue (e.par 16 4)).configured = true →
    s.contextLost (e.par 16 4) = false →
    Answers (.queueInfo e) e stOk (packBytes [(0, 6, (s.queue (e.par 16 4)).limit), (6, 6, (s.queue (e.par 16 4)).bytes),
      (12, 4, (s.queue (e.par 16 4)).count), (16, 4, (s.queue (e.par 16 4)).blocks % 2 ^ 26 + 2 ^ 30 * (s.queue (e.par 16 4)).code),
      (20, 4, (s.queue (e.par 16 4)).reserve)]) s) ∧
  (∀ (s : State) (e : Sqe), Running e s → 131071 < e.par 16 4 → Answers (.queueInfo e) e stBadParam 0 s) ∧
  (∀ (s : State) (e : Sqe), Running e s → e.par 16 1 ≤ 4 →
    Does (.qmPrefetch e) s (fun t => t.f qmCtrlPrefetchDepth = e.par 16 1 ∧ Posts e stOk 0 [] s t ∧ Only ringParts s t ∧
      OnlyRegs (qmCtrlPrefetchDepth :: ringRegs e.ring) s t)) ∧
  (∀ (s : State) (e : Sqe), Running e s → 4 < e.par 16 1 → Answers (.qmPrefetch e) e stBadParam 0 s)

/-- The engines can take a table request (R293, R295, R330): no bench that it needs is held in reset, no partition that it needs is still
handed over, and each operation that must wait has room in its engine's input queue. -/
def EnginesTake (r : Req) (s : State) : Prop := s.benchHeld r = false ∧ s.handingOver r = false ∧ s.queueRoom r = true

/-- The engines can answer a table request at once (R298, R329, R330): each operation has a free thread on an engine whose bench has its
microcode, nothing of the request is at an engine yet, and every line that it reads has a good copy in the slice of its engine. -/
def EnginesReady (r : Req) (s : State) : Prop :=
  EnginesTake r s ∧ s.canServe r = true ∧ s.allDone r = true ∧
    ∀ o ∈ s.opsOf r, ∀ x, s.tableAt o.2.table r.tick = some x → ∀ line ∈ x.keyNodes o.2.table o.2.key,
      s.copyNear o.2.table x o.2.key o.1 line = true

/-- Table `x` stands at number `n` for a request stamped at `tick`, with one version only (R323, R335). -/
def Plain (s : State) (n : Nat) (x : Table) (tick : Tick) : Prop :=
  s.table n = some x ∧ x.created ≤ tick ∧ x.olds = [] ∧ x.frozen = none

/-- The answer that a table's committed version gives for a key, and its record (R311, R314, R316, R321). -/
def answerOf (s : State) (n : Nat) (key : List Byte) : Option (List Byte) := (s.table n).bind (fun x => x.committed.find x key)
def recordOf (s : State) (n : Nat) (key : List Byte) : List Byte :=
  ((s.table n).map (fun x => (x.committed.find x key).getD x.missRecord)).getD []

/-- What a request adds to the counter of an index (R326). -/
def addedTo (r : Req) (j : Nat) : List (Nat × Nat) := ((counterRecords r).filter (fun z => z.1 == j)).map (·.2)

/-- Lookups (R311, R319 to R323): each key is answered from the committed version, with its record on a hit and the table's miss record
otherwise, and nothing a table holds changes but its operation counts; a refusal is counted. Counters (R324 to R328): CNT_ADD
adds to each counter named modulo 2^64, CNT_READ changes none, CNT_READ_CLEAR sets the counters it returned to 0.

The constructors that it says run to a next state with their own effect: lookup, lookupMulti, cntAdd, cntRead, cntReadClear,
engineOpStart. -/
def Obligations.LookupsAndCountersAnswer : Prop :=
  (∀ (s : State) (r : Req) (x : Table), Admitted r (s.tableReply r (fun t => t.lookupRefusal r)) s → r.opcode = 0x10 →
    s.lookupRefusal r = none → EnginesReady r s → Plain s r.object x r.tick →
    Does (.lookup r) s (fun t =>
      Replies r stOk (bitmap (fun k => (answerOf s r.object k).isSome) (chunks x.keyLen (argCount r) r.payload))
        ((chunks x.keyLen (argCount r) r.payload).flatMap (recordOf s r.object)) s t ∧
      t.table r.object = some { x with ops := addCount x.ops (r.tick / 4000000) (argCount r) } ∧
      (∀ n, n ≠ r.object → t.table n = s.table n) ∧ t.queues = s.queues ∧ t.mem = s.mem ∧
      t.f teLookup = min (s.f teLookup + argCount r) (2 ^ 64 - 1))) ∧
  (∀ (s : State) (r : Req) (st : Nat), Admitted r 16 s → s.lookupRefusal r = some st →
    Does (.lookup r) s (fun t => Replies r st 0 [] s t ∧ t.tables = s.tables ∧
      t.f teRefused = min (s.f teRefused + 1) (2 ^ 32 - 1))) ∧
  (∀ (s : State) (r : Req), Admitted r (s.tableReply r (fun t => t.lookupRefusal r)) s → s.lookupRefusal r = none →
    EnginesTake r s → s.canServe r = false →
    Does (.lookup r) s (fun t => (t.port r.port).awaiting = (s.port r.port).awaiting ++ [r] ∧
      (t.port r.port).egress = (s.port r.port).egress ∧ (∃ n o, o ∈ t.waitingAt n ∧ o.req = r) ∧ t.tables = s.tables ∧
      t.queues = s.queues)) ∧
  (∀ (s : State) (r : Req), s.mayTake r = true → s.early r = none → s.lookupRefusal r = none → s.benchHeld r = false →
    s.queueRoom r = false → Does (.lookup r) s (fun t => t = s)) ∧
  (∀ (s : State) (r : Req), Admitted r (s.tableReply r (fun t => t.multiRefusal r)) s → r.opcode = 0x11 → s.multiRefusal r = none →
    EnginesReady r s → (∀ n ∈ multiTables r, ∃ x, Plain s n x r.tick) →
    Does (.lookupMulti r) s (fun t =>
      Replies r stOk (bitmap (fun n => (answerOf s n (r.payload.drop 4)).isSome) (multiTables r))
        ((multiTables r).flatMap (fun n => recordOf s n (r.payload.drop 4))) s t ∧
      (∀ n ∈ multiTables r, t.table n = (s.table n).map (fun x => { x with ops := addCount x.ops (r.tick / 4000000) 1 })) ∧
      (∀ n, n ∉ multiTables r → t.table n = s.table n) ∧ t.queues = s.queues)) ∧
  (∀ (s : State) (r : Req) (st : Nat), Admitted r 16 s → s.multiRefusal r = some st →
    Does (.lookupMulti r) s (fun t => Replies r st 0 [] s t ∧ t.tables = s.tables)) ∧
  (∀ (s : State) (r : Req) (x : Table), Admitted r 16 s → r.opcode = 0x18 → s.counterRefusal r = none →
    EnginesReady r s → s.table r.object = some x → x.created ≤ r.tick →
    Does (.cntAdd r) s (fun t => (∃ y, t.table r.object = some y ∧ y.committed = x.committed ∧
      (∀ j, addedTo r j ≠ [] → Map.get counterCold y.counters j =
        (((Map.get counterCold x.counters j).1 + ((addedTo r j).map (·.1)).sum) % 2 ^ 64,
          ((Map.get counterCold x.counters j).2 + ((addedTo r j).map (·.2)).sum) % 2 ^ 64)) ∧
      (∀ j, addedTo r j = [] → Map.get counterCold y.counters j = Map.get counterCold x.counters j)) ∧
      (∀ n, n ≠ r.object → t.table n = s.table n) ∧ (bitOf r.b2 0 = true → Replies r stOk 0 [] s t) ∧
      (bitOf r.b2 0 = false → (t.port r.port).egress = (s.port r.port).egress) ∧
      t.f teCntOps = min (s.f teCntOps + (counterRecords r).length) (2 ^ 64 - 1))) ∧
  (∀ (s : State) (r : Req) (x : Table), Admitted r (s.tableReply r (fun t => t.counterRefusal r)) s → r.opcode = 0x19 →
    s.counterRefusal r = none → EnginesReady r s → s.table r.object = some x → x.created ≤ r.tick → x.lost = [] →
    Does (.cntRead r) s (fun t => Replies r stOk (counterRecords r).length
        ((counterRecords r).flatMap (fun z => counterBytes (Map.get counterCold x.counters z.1))) s t ∧
      ∃ y, t.table r.object = some y ∧ y.counters = x.counters ∧ y.committed = x.committed)) ∧
  (∀ (s : State) (r : Req) (x : Table), Admitted r (s.tableReply r (fun t => t.counterRefusal r)) s → r.opcode = 0x1A →
    s.counterRefusal r = none → EnginesReady r s → s.table r.object = some x → x.created ≤ r.tick → x.lost = [] →
    repeats ((counterRecords r).map (·.1)) = false →
    Does (.cntReadClear r) s (fun t => Replies r stOk (counterRecords r).length
        ((counterRecords r).flatMap (fun z => counterBytes (Map.get counterCold x.counters z.1))) s t ∧
      ∃ y, t.table r.object = some y ∧ y.committed = x.committed ∧
        ∀ j, Map.get counterCold y.counters j =
          if j ∈ (counterRecords r).map (·.1) then (0, 0) else Map.get counterCold x.counters j)) ∧
  (∀ (s : State) (n : Nat) (o : EngineOp), s.halted = false → s.quenched = false → s.endOps = s → s.nextOp n = some o →
    s.opReads o = [] →
    Does (.engineOpStart n) s (fun t => t.engineQueue n = (s.engineQueue n).erase o ∧
      (∀ m, m ≠ n → t.engineQueue m = s.engineQueue m) ∧ t.queues = s.queues ∧
      ((∀ q ∈ t.engineQueues, ∀ w ∈ q.2, w.req ≠ o.req) →
        (t.port o.req.port).awaiting = (s.port o.req.port).awaiting.erase o.req))) ∧
  (∀ (s : State) (n : Nat) (o : EngineOp), s.halted = false → s.quenched = false → s.endOps = s → s.nextOp n = some o →
    (s.opReads o).any (s.touchOp o).readQueued = true →
    Does (.engineOpStart n) s (fun t => (∃ l, l ≠ [] ∧ t.engineQueue n = (s.engineQueue n).erase o ++ [{ o with reads := some l }] ∧
        ∀ q ∈ l, t.readQueued q = true) ∧
      (∀ m, m ≠ n → t.engineQueue m = s.engineQueue m) ∧ t.ports = s.ports ∧ t.tables = s.tables ∧ t.queues = s.queues))

/-- The table commands that make, change, delete and describe tables (R334 to R338, R342, R343).

The constructors that it says run to a next state with their own effect: tableCreate, tableInfo, tableDelete, tableResize, tableTune,
cntDump, tableRowsReturn, versionRowsRelease. -/
def Obligations.TableCommandsAct : Prop :=
  (∀ (s : State) (e : Sqe) (k : TableKind), Running e s → s.quenched = false → kindOf (e.par 17 1) = some k → createOk e k = true →
    s.numberTaken (e.par 16 1) e.tick = false → (newTable e k).mirror = false ∨ 2 ≤ s.layersInService →
    (newTable e k).reserved ≤ s.freeTableRows → s.placingPaused = false →
    Does (.tableCreate e) s (fun t => t.table (e.par 16 1) = some { newTable e k with
        serving := (List.range 64).map (fun p => (p, (s.usableEngines.find? s.engineRuns).getD
          (s.usableEngines.headD (s.liveEngines.headD 0)))) } ∧
      (∀ n, n ≠ e.par 16 1 → t.table n = s.table n) ∧ Posts e stOk (packBytes [(0, 8, e.tick), (8, 4, (newTable e k).reserved)]) [] s t ∧
      Only (.tables :: .placed :: .marver :: ringParts) s t)) ∧
  (∀ (s : State) (e : Sqe), Running e s → s.quenched = false → 4 ≤ e.par 17 1 → Answers (.tableCreate e) e stBadParam 0 s) ∧
  (∀ (s : State) (e : Sqe) (x : Table), Running e s → s.table (e.par 16 1) = some x → x.kind = .index →
    Answers (.tableInfo e) e stOk (packBytes [(0, 1, 2), (1, 1, b2n x.mirror + 2 * b2n x.holes), (2, 1, x.klen), (3, 1, x.vlen),
      (4, 4, x.committed.capacity), (8, 4, x.committed.capacity), (12, 4, x.reserved), (16, 4, x.rowsInUse (e.par 16 1)),
      (20, 4, x.number)]) s) ∧
  (∀ (s : State) (e : Sqe), Running e s → s.table (e.par 16 1) = none → Answers (.tableInfo e) e stNoSuchObject 0 s) ∧
  (∀ (s : State) (e : Sqe) (x : Table), Running e s → s.quenched = false → s.table (e.par 16 1) = some x → s.commitOf (e.par 16 1) = none →
    Does (.tableDelete e) s (fun t => t.table (e.par 16 1) = none ∧ (∀ n, n ≠ e.par 16 1 → t.table n = s.table n) ∧
      t.dead = s.dead ++ [⟨e.par 16 1, x, e.tick⟩] ∧ Posts e stOk (packBytes [(0, 8, e.tick), (8, 4, x.rowsHeld)]) [] s t ∧
      t.queues = s.queues)) ∧
  (∀ (s : State) (e : Sqe) (x : Table), Running e s → s.quenched = false → s.table (e.par 16 1) = some x → x.kind = .index →
    e.par 20 4 ≠ 0 → x.opened = none → x.frozen = none →
    x.copies (baseRows .index x.klen x.vlen (e.par 20 4) x.instances +
      stageDefault .index (baseRows .index x.klen x.vlen (e.par 20 4) x.instances)) ≤ s.freeTableRows → s.placingPaused = false →
    Does (.tableResize e) s (fun t => (∃ y v, t.table (e.par 16 1) = some y ∧ y.opened = some v ∧ v.capacity = e.par 20 4 ∧
      v.entries = x.committed.entries.filter (fun z => decide (leNat z.key < e.par 20 4)) ∧ y.committed = x.committed) ∧
      Posts e stOk 0 [] s t ∧ Only (.tables :: .marver :: .pcs :: .regulator :: ringParts) s t)) ∧
  (∀ (s : State) (e : Sqe) (x : Table), Running e s → s.quenched = false → s.table (e.par 16 1) = some x → x.kind ≠ .counter →
    e.bit 17 0 = false → e.bit 17 1 = true → 64 ≤ e.par 24 4 →
    ({ x with stageRows := e.par 24 4 } : Table).rowsHeld ≤ s.freeTableRows + x.rowsHeld → s.placingPaused = false →
    Does (.tableTune e) s (fun t => t.table (e.par 16 1) = some { x with stageRows := e.par 24 4 } ∧ Posts e stOk 0 [] s t ∧
      Only (.tables :: .marver :: ringParts) s t)) ∧
  (∀ (s : State) (e : Sqe) (x : Table), Running e s → s.quenched = false → e.par 24 4 ≠ 0 → e.par 32 8 % 16 = 0 →
    s.table (e.par 16 1) = some x → x.kind = .counter → e.par 20 4 + e.par 24 4 ≤ x.committed.capacity → s.enginesGone = false →
    x.lost = [] →
    Does (.cntDump e) s (fun t =>
      (∃ l, (∀ o ∈ l, ∃ pc bank row sector words bad, o = .sector pc bank row sector words bad) ∧
        Posts e stOk 0 [.hostWrite (e.par 32 8) ((List.range (e.par 24 4)).flatMap (fun i =>
          counterBytes (Map.get counterCold x.counters (e.par 20 4 + i))))] { s with out := l ++ s.out } t) ∧
      ∃ y, t.table (e.par 16 1) = some y ∧ y.committed = x.committed ∧ ∀ j, Map.get counterCold y.counters j =
        if e.bit 17 0 = true ∧ e.par 20 4 ≤ j ∧ j < e.par 20 4 + e.par 24 4 then (0, 0) else Map.get counterCold x.counters j)) ∧
  (∀ (s : State) (n : Nat) (d : DeadTable), s.dead.find? (fun d => d.number == n) = some d → s.tableSettled n d.tick = true →
    Does (.tableRowsReturn n) s (fun t => t.dead = s.dead.erase d ∧ Only [.dead, .regs, .marver] s t ∧
      OnlyRegs [mvTableUsedRows, teTablesCount, mvTierReplKib, mvTierHomeKib] s t)) ∧
  (∀ (s : State) (n : Nat) (x : Table) (o : OldVersion), s.table n = some x → x.olds.getLast? = some o → s.oldInUse n x o = false →
    Does (.versionRowsRelease n) s (fun t => t.table n = some { x with olds := x.olds.dropLast } ∧ Only [.tables, .regs, .marver] s t ∧
      OnlyRegs [mvTableUsedRows, teTablesCount, mvTierReplKib, mvTierHomeKib] s t))

/-- Staging (R343, R346 to R349, R352 to R354): an update changes the open version only, or nothing where a record fails; an image is an
empty open version until it is built.

The constructors that it says run to a next state with their own effect: tableUpdate, tableImage, imageBuildDone. -/
def Obligations.StagingLeavesTheCommittedVersion : Prop :=
  (∀ (s : State) (e : Sqe) (b : List Byte) (x : Table) (i : Nat) (v : Version), Running e s → s.quenched = false →
    s.updateBefore e = false → 12 ≤ e.paramLen →
    b.length = e.paramLen → 1 ≤ bufNat b 4 4 → bufNat b 4 4 ≤ 65536 → bufNat b 1 3 = 0 → s.table (bufNat b 0 1) = some x →
    x.kind ≠ .counter → x.imageOpen = false → x.updateLen (bufNat b 4 4) (b.drop 8) = some (b.length - 8) →
    x.stageRecords (bufNat b 0 1) (bufNat b 4 4) 0 x.openVersion (b.drop 8) = (i, .version v) →
    Does (.tableUpdate e (.data b)) s (fun t => t.table (bufNat b 0 1) = some { x with opened := some v } ∧
      (∀ n, n ≠ bufNat b 0 1 → t.table n = s.table n) ∧ Posts e stOk 0 [] s t ∧ Only (.tables :: .pcs :: .regulator :: ringParts) s t)) ∧
  (∀ (s : State) (e : Sqe) (b : List Byte) (x : Table) (i st : Nat), Running e s → s.quenched = false → s.updateBefore e = false →
    12 ≤ e.paramLen →
    b.length = e.paramLen → 1 ≤ bufNat b 4 4 → bufNat b 4 4 ≤ 65536 → bufNat b 1 3 = 0 → s.table (bufNat b 0 1) = some x →
    x.kind ≠ .counter → x.imageOpen = false → x.updateLen (bufNat b 4 4) (b.drop 8) = some (b.length - 8) →
    x.stageRecords (bufNat b 0 1) (bufNat b 4 4) 0 x.openVersion (b.drop 8) = (i, .refused st) → st ≠ 0x08 →
    Answers (.tableUpdate e (.data b)) e st i s) ∧
  (∀ (s : State) (e : Sqe) (h : HostRead), Running e s → s.quenched = false → s.updateBefore e = false → e.paramLen < 12 →
    Answers (.tableUpdate e h) e stBadLength 0 s) ∧
  (∀ (s : State) (e : Sqe), Running e s → s.quenched = false → s.updateBefore e = false → 12 ≤ e.paramLen →
    Answers (.tableUpdate e .badRequest) e stBadParam 0 s ∧ Answers (.tableUpdate e .noCompletion) e stTimeout 0 s) ∧
  (∀ (s : State) (e : Sqe) (h : HostRead), Running e s → s.quenched = false → s.updateBefore e = true →
    Does (.tableUpdate e h) s (fun t => t = s)) ∧
  (∀ (s : State) (e : Sqe) (x : Table), Running e s → s.quenched = false → 64 ≤ e.par 20 4 → s.table (e.par 16 1) = some x →
    x.kind ≠ .counter → x.opened = none → ceilDiv (e.par 20 4) 2048 ≤ s.freeTableRows → s.placingPaused = false →
    Does (.tableImage e) s (fun t => (∃ y v, t.table (e.par 16 1) = some y ∧ y.opened = some v ∧ v.entries = [] ∧ v.whole = true ∧
      y.image = some ⟨e.par 20 4, ceilDiv (e.par 20 4) 2048, [], false⟩ ∧ y.committed = x.committed) ∧
      Posts e stOk (packBytes [(0, 8, e.par 16 1 * 2 ^ 40), (8, 4, ceilDiv (e.par 20 4) 2048)]) [] s t ∧
      Only (.tables :: .marver :: ringParts) s t)) ∧
  (∀ (s : State) (n : Nat) (c : Commit) (x : Table) (i : Image) (v : Version) (off st : Nat), s.commitOf n = some c →
    s.table n = some x → x.frozenImage = some i → x.frozen = some v → i.built = false → c.phase = .building → s.halted = false →
    s.fwRuns = true → x.buildImage n i (i.size + 1) 0 { v with entries := [], changed := [] } = (off, .refused st) →
    Does (.imageBuildDone n) s (fun t => (∃ r, t.commitLog.head? = some r ∧ r.outcome = 3) ∧ t.queues = s.queues ∧
      (∃ y, t.table n = some y ∧ y.committed = x.committed ∧ y.frozen = none ∧ y.frozenImage = none ∧ y.opened = x.opened ∧
        y.image = x.image))) ∧
  (∀ (s : State) (n : Nat) (c : Commit) (x : Table) (i : Image) (v w : Version) (off : Nat), s.commitOf n = some c →
    s.table n = some x → x.frozenImage = some i → x.frozen = some v → i.built = false → c.phase = .building → s.halted = false →
    s.fwRuns = true → x.buildImage n i (i.size + 1) 0 { v with entries := [], changed := [] } = (off, .version w) →
    Does (.imageBuildDone n) s (fun t => t.queues = s.queues ∧ (∃ y u, t.table n = some y ∧ y.committed = x.committed ∧
      y.frozen = some u ∧ u.entries = w.entries ∧ u.whole = true ∧ y.imageWaits = false ∧ y.opened = x.opened ∧ y.image = x.image)))

/-- Commits (R357 to R365, R372): TABLE_COMMIT freezes the open versions and falls due or is armed; it takes effect on every port at its
tick or at its cuts, the frozen versions become the committed ones with their numbers raised, and a record is written.

The constructors that it says run to a next state with their own effect: tableCommit, commitEffectTick, commitCutTimeout, mark,
tableAbort, commitLog. -/
def Obligations.CommitsTakeEffectTogether : Prop :=
  (∀ (s : State) (e : Sqe) (st : Nat), Running e s → s.quenched = false → s.updateBefore e = false →
    (s.reach e.tick).commitRefusal e = some st → st ≠ 0x08 →
    Does (.tableCommit e) s (fun t => Posts e st 0 [] s t ∧ t.commits = s.commits ∧ t.tables = s.tables ∧ Only (.time :: ringParts) s t)) ∧
  (∀ (s : State) (e : Sqe), Running e s → s.quenched = false → s.updateBefore e = false → (s.reach e.tick).commitRefusal e = none →
    e.par 16 1 = 0 →
    (∀ n x, s.table n = some x → x.image = none) →
    Does (.tableCommit e) s (fun t =>
      (∀ n x, bitOf (e.par 32 32) n = true → n < 256 → s.table n = some x → x.opened.isSome = true → ∃ y, t.table n = some y ∧
        y.frozen = x.opened ∧ y.opened = none ∧ y.committed = x.committed ∧ y.journal = .cutting) ∧
      (∀ n, bitOf (e.par 32 32) n = false → t.table n = s.table n) ∧
      (∃ c, c ∈ t.commits ∧ c.mode = .immediate ∧ c.ring = e.ring ∧ c.tag = e.tag ∧ c.tables = maskTables (e.par 32 32) ∧
        c.phase = .due (max e.tick t.now + 8000) ∧ c.cuts = []) ∧ t.out = s.out ∧ t.queues = s.queues)) ∧
  (∀ (s : State) (e : Sqe), Running e s → s.quenched = false → s.updateBefore e = false → (s.reach e.tick).commitRefusal e = none →
    e.par 16 1 = 1 →
    (∀ n x, s.table n = some x → x.image = none) →
    Does (.tableCommit e) s (fun t =>
      (∃ c, c ∈ t.commits ∧ c.mode = .marker ∧ c.phase = .armed ∧ c.armTick = t.now ∧ c.mask = e.par 18 2 ∧ c.marker = e.par 20 4 ∧
        c.tables = maskTables (e.par 32 32)) ∧
      (∀ n x, bitOf (e.par 32 32) n = true → n < 256 → s.table n = some x → ∃ y, t.table n = some y ∧ y.committed = x.committed ∧
        y.journal = .armed) ∧ t.queues = s.queues)) ∧
  (∀ (s : State) (n : Nat) (c : Commit) (tick : Tick), s.commitOf n = some c → c.phase = .due tick → s.halted = false →
    s.fwRuns = true → c.deletes = [] → c.mode ≠ .marker →
    Does (.commitEffectTick n) s (fun t =>
      (∀ m x v, m ∈ c.moved → s.table m = some x → x.frozen = some v → ∃ y, t.table m = some y ∧ y.frozen = none ∧
        y.committed = { v with changed := [], whole := false, extra := 0 } ∧ y.number = (x.number + 1) % 2 ^ 32) ∧
      (∀ m, m ∉ c.moved → m ∉ c.tables → t.table m = s.table m) ∧ t.now = max s.now tick ∧
      (∃ r, t.commitLog.head? = some r ∧ r.outcome = 0 ∧ r.serial = ((s.commitLog.head?).map (·.serial)).getD 0 + 1) ∧
      t.queues = s.queues)) ∧
  (∀ (s : State) (n : Nat) (c : Commit) (first : Cut) (rest : List Cut), s.commitOf n = some c → c.phase = .cutting →
    c.cuts = first :: rest → s.halted = false → s.fwRuns = true → c.deletes = [] → c.mode = .marker →
    (∃ p, p < 16 ∧ bitOf c.mask p = true ∧ ∀ x ∈ c.cuts, x.port ≠ p) →
    (∀ p, p < 16 → s.markComes c p (first.tick + c.timeout * 4000000) = false) →
    Does (.commitCutTimeout n) s (fun t =>
      (∀ m x v, m ∈ c.moved → s.table m = some x → x.frozen = some v → ∃ y, t.table m = some y ∧ y.frozen = none ∧
        y.committed = { v with changed := [], whole := false, extra := 0 } ∧ y.number = (x.number + 1) % 2 ^ 32) ∧
      (∃ r, t.commitLog.head? = some r ∧ r.outcome = 1) ∧ t.queues = s.queues ∧
      t.now = max s.now (first.tick + c.timeout * 4000000))) ∧
  (∀ (s : State) (n p : Nat) (c : Commit) (first : Cut) (rest : List Cut), s.commitOf n = some c → c.phase = .cutting →
    c.cuts = first :: rest → p < 16 → s.markComes c p (first.tick + c.timeout * 4000000) = true →
    Does (.commitCutTimeout n) s (fun t => t = s)) ∧
  (∀ (s : State) (r : Req), Admitted r (if bitOf r.b2 0 then 16 else 0) s → r.length = 0 → s.commits = [] →
    Does (.mark r) s (fun t => (t.port r.port).marks = (s.port r.port).marks ++
        [⟨r, (s.port r.port).unfinished.filter (fun q => decide (q.id < r.id))⟩] ∧
      t.tables = s.tables ∧ t.queues = s.queues)) ∧
  (∀ (s : State) (r : Req) (c : Commit) (q : Nat), Admitted r (if bitOf r.b2 0 then 16 else 0) s → r.length = 0 → s.fwRuns = true →
    s.commits = [c] →
    c.mode = .marker → c.phase = .armed → c.marker = r.object → c.armTick ≤ r.tick → bitOf c.mask r.port = true → c.cuts = [] →
    q < 16 → q ≠ r.port → bitOf c.mask q = true → (∀ p, p < 16 → p ≠ r.port → s.markComes c p r.tick = false) →
    Does (.mark r) s (fun t => ∃ d, t.commits = [d] ∧ d.phase = .cutting ∧ d.tables = c.tables ∧ d.moved = c.moved ∧
      d.cuts.head? = some ⟨r.port, r.tick, true,
        (s.port r.port).unfinished.filter (fun q => decide (q.id < r.id))⟩ ∧
      (∀ x ∈ d.cuts, x.port ≠ r.port → bitOf c.mask x.port = false ∧ x.tick = r.tick))) ∧
  (∀ (s : State) (e : Sqe) (c : Commit), Running e s → s.commits = [c] → s.uncut c = true → e.bit 16 0 = false →
    (∀ n, n ∈ c.tables ↔ n < 256 ∧ bitOf (e.par 32 32) n = true) → (∃ n, n ∈ c.tables) → (∀ n ∈ c.tables, ∃ x, s.table n = some x) →
    Does (.tableAbort e) s (fun t => t.commits = [] ∧ (∃ r, t.commitLog.head? = some r ∧ r.outcome = 2) ∧ t.queues = s.queues ∧
      (∀ n x, s.table n = some x → ∃ y, t.table n = some y ∧ y.committed = x.committed ∧ y.number = x.number))) ∧
  (∀ (s : State) (e : Sqe), Running e s → s.quenched = false → 1 ≤ e.par 24 4 → e.par 24 4 ≤ 65536 → e.par 16 8 % 16 = 0 →
    Does (.commitLog e) s (fun t => Posts e stOk
      (packBytes [(0, 4, (s.commitLog.take (e.par 24 4)).length), (4, 8, ((s.commitLog.head?).map (·.serial)).getD 0)])
      [.hostWrite (e.par 16 8) ((s.commitLog.take (e.par 24 4)).flatMap CommitRecord.bytes)] s t ∧ Only ringParts s t ∧
      OnlyRegs (ringRegs e.ring) s t))

/-- Configuration space, power states of the function, and messages (R88, R450 to R453, R460).

The constructors that it says run to a next state with their own effect: configRequest, d3hotEntry, d0Return, pcieL1Entry,
msixModerationTimer, msixUnmask. -/
def Obligations.HostPortServesConfiguration : Prop :=
  (∀ (s : State) (a : CfgAccess), s.on devStatusPcieReady = false → s.safeHold = false →
    Does (.configRequest a) s (fun t => t = s.emit .cfgRetry)) ∧
  (∀ s : State, s.on devStatusPcieReady = true ∨ s.safeHold = true →
    Does (.configRequest (.read .deviceId)) s (fun t =>
      t.out = .cfgReply (if s.grade = 0 then 0x0640 else if s.grade = 1 then 0x0320 else 0x0160) :: s.out ∧
      t.pcie = { s.pcie with linkL1 := false } ∧ Only [.out, .pcie] s t)) ∧
  (∀ s : State, s.on devStatusPcieReady = true ∨ s.safeHold = true →
    Does (.configRequest (.write .powerState 3)) s (fun t => t.out = .cfgReply 0 :: s.out ∧
      t.pcie = { s.pcie with linkL1 := false, d3hot := true } ∧ Only [.out, .pcie] s t)) ∧
  (∀ (s : State) (v : Nat), s.on devStatusPcieReady = true ∨ s.safeHold = true → v < 2 ^ 64 →
    Does (.configRequest (.write .bar0 v)) s (fun t => t.pcie.bar0 % 2 ^ 24 = 0 ∧ t.pcie.bar0 ≤ v ∧ v < t.pcie.bar0 + 2 ^ 24 ∧
      Only [.out, .pcie] s t)) ∧
  (∀ s : State, s.decodesBars = true → Does .d3hotEntry s (fun t => t = { s with pcie := { s.pcie with d3hot := true } })) ∧
  (∀ (s : State) (c : Instr), s.decodesBars = false → c ∈ [Instr.d3hotEntry, Instr.d0Return, Instr.msixUnmask none] →
    Does c s (fun t => t = s.emit .cfgRetry)) ∧
  (∀ s : State, s.decodesBars = true → s.pcie.vectorPending = 0 →
    Does .d0Return s (fun t => t.pcie = { s.pcie with d3hot := false } ∧ t.out = s.heldOut ++ s.out ∧ t.heldOut = [] ∧
      Only [.out, .heldOut, .pcie] s t)) ∧
  (∀ s : State, s.pcie.aspmL1 = true → s.pcie.linkUp = true → s.pcie.d3hot = false → s.pcie.linkL1 = false →
    Does .pcieL1Entry s (fun t => t.pcie = { s.pcie with linkL1 := true } ∧ t.out = .l1Request :: s.out ∧ Only [.out, .pcie] s t)) ∧
  (∀ (s : State) (r : Nat), s.f (hcRingCtrlIntTime r) ≠ 0 → (s.ring r).unsignalled ≠ 0 → s.canSend (16 + r) = true →
    Does (.msixModerationTimer r) s (fun t => (t.ring r).unsignalled = 0 ∧ t.out = .msix (16 + r) :: s.out ∧ Only [.out, .rings] s t)) ∧
  (∀ (s : State) (n : Nat), Open 0xC000 s → s.pcie.linkUp = true → s.pcie.d3hot = false →
    s.pcie.msixEnable = true → s.pcie.msixFnMask = false → n < 64 → s.pcie.vectorPending = 2 ^ n →
    Does (.msixUnmask (some n)) s (fun t => t.out = .msix n :: s.out ∧ t.pcie.vectorPending = 0 ∧ bitOf t.pcie.vectorMask n = false ∧
      Only [.out, .pcie] s t)) ∧
  (∀ s : State, s.decodesBars = true → s.pcie.vectorPending = 0 →
    Does (.msixUnmask none) s (fun t => t.pcie = { s.pcie with msixEnable := true, msixFnMask := false } ∧ t.out = s.out ∧
      Only [.pcie] s t))

/-- Writes of registers and accesses that BAR0 does not accept (R22 to R24, R88, R131, R188, R340, R435, R449, R457, R458, R520, R623):
what the
access type of the field makes of the value, and which writes have no effect.

The constructors that it says run to a next state with their own effect: registerWrite, bar0BadAccess, teLatClear, rgCfgWindowWrite,
evSwPulseWrite, deviceState. -/
def Obligations.RegisterWritesFollowTheirAccessType : Prop :=
  (∀ (s : State) (q : Requester) (off v : Nat) (sp : FieldSpec), s.safeHold = false → s.blockClosed off = false →
    (q = .host → s.on devStatusPcieReady = true) → off % 4 = 0 → specsAt off = [sp] → (∀ x ∈ specsAt (off - 4), x.hi ≠ 63) → sp.hi ≠ 63 →
      privilegedOffset off = false →
    ringSetupAt off = none → shadowAt off = none → ¬ (0xC000 ≤ off ∧ off < 0xC400) → ownRow (fld off sp.lo) = false →
    fld off sp.lo ≠ tbSyncCfgIgnored → fld off sp.lo ≠ tbCtrlSrc → isLaneSer off = false → switchedDomain off = none →
    (sp.acc = .rw → Does (.registerWrite q off v) s (fun t => t = s.setF (fld off sp.lo) (bitsOf v sp.hi sp.lo))) ∧
    (sp.acc = .ro → Does (.registerWrite q off v) s (fun t => t = s)) ∧
    (sp.acc = .w1c → Does (.registerWrite q off v) s (fun t =>
      t = s.setF (fld off sp.lo) (s.f (fld off sp.lo) - (s.f (fld off sp.lo) &&& bitsOf v sp.hi sp.lo)))) ∧
    (sp.acc = .w1s → Does (.registerWrite q off v) s (fun t =>
      t = s.setF (fld off sp.lo) (s.f (fld off sp.lo) ||| bitsOf v sp.hi sp.lo))) ∧
    (sp.acc = .rwa → q ≠ .anvil → Does (.registerWrite q off v) s (fun t => t = s.setF devStatusRwaDenied 1))) ∧
  (∀ (s : State) (q : Requester) (off v d : Nat) (sp : FieldSpec), s.safeHold = false → s.blockClosed off = false →
    (q = .host → s.on devStatusPcieReady = true) → off % 4 = 0 → specsAt off = [sp] → (∀ x ∈ specsAt (off - 4), x.hi ≠ 63) → sp.hi ≠ 63 →
    sp.acc = .rw → switchedDomain off = some d → s.pilot.phase = .running → s.domainCulled d = false → bitOf s.dom.isolatedPwr d = false →
    Does (.registerWrite q off v) s (fun t =>
      t = (s.setF plPwrOn (setBit (s.f plPwrOn) d)).setF (fld off sp.lo) (bitsOf v sp.hi sp.lo))) ∧
  (∀ (s : State) (q : Requester) (v : Nat), s.safeHold = false → s.blockClosed 0x10014 = false → (q = .host → s.on devStatusPcieReady = true) →
    Does (.registerWrite q 0x10014 v) s (fun t => t.f plGateDis = s.f plGateDis / 2 ^ 32 * 2 ^ 32 + v % 2 ^ 32 ∧
      (∀ d, d < 32 → bitOf v d = true → s.hasGate d = true → ¬ ((4 ≤ d ∧ d < 20) ∨ (22 ≤ d ∧ d < 30)) → s.heldInReset d = false →
        bitOf s.dom.isolatedClk d = false → bitOf (t.f plClkActive) d = true) ∧
      Only [.regs] s t ∧ OnlyRegs [plGateDis, plClkActive] s t)) ∧
  (∀ (s : State) (q : Requester) (off v : Nat), s.safeHold = true → safeHoldBlock (off / 4 * 4) = false →
    Does (.registerWrite q off v) s (fun t => t = s)) ∧
  (∀ (s : State) (q : Requester) (p v : Nat), p ≤ 15 → s.safeHold = false → s.blockClosed (0x60034 + 0x1000 * p) = false →
    (q = .host → s.on devStatusPcieReady = true) →
    Does (.registerWrite q (0x60034 + 0x1000 * p) v) s (fun t => (t.lane p (s.f (rlEqSelLane p))).ser = v % 2 ^ 32 ∧ Only [.lanes] s t)) ∧
  (∀ (s : State) (off v : Nat), s.decodesBars = false → Does (.registerWrite .host off v) s (fun t => t = s)) ∧
  (∀ (s : State) (q : Requester) (off v : Nat), s.safeHold = false → (q = .host → s.on devStatusPcieReady = true) →
    s.blockClosed (off / 4 * 4) = true →
    Does (.registerWrite q off v) s (fun t => Newest t .dv 0x01 0xFF ∧ Only logParts s t ∧ OnlyRegs logRegs s t)) ∧
  (∀ (s : State) (k : BadAccess) (off : Nat), s.decodesBars = false →
    Does (.bar0BadAccess k off) s (fun t => t = if k = .write then s else s.emit .unsupportedRequest)) ∧
  (∀ (s : State) (k : BadAccess) (off : Nat), s.decodesBars = true →
    Does (.bar0BadAccess k off) s (fun t => t.f hcBadAccess = min (s.f hcBadAccess + 1) (2 ^ 32 - 1) ∧ Newest t .hc 0x02 0xFF ∧
      (k = .read → t.out = .completerAbort :: s.out) ∧ (k = .write → t.out = s.out) ∧
      (k = .atomicOp → t.out = .unsupportedRequest :: s.out) ∧ Only logParts s t ∧ OnlyRegs (hcBadAccess :: logRegs) s t)) ∧
  (∀ s : State, Open (fldOff teLatCfgClear) s → Does .teLatClear s (fun t => t = { s with latency := [] })) ∧
  (∀ (s : State) (v : Nat), Open (fldOff rgCfgWindow) s →
    Does (.rgCfgWindowWrite v) s (fun t => t = s.setF rgCfgWindow (v % 1024))) ∧
  (∀ (s : State) (v : Nat), Open 0x50114 s → s.f (evSrcCode (v % 64)) = 0 →
    Does (.evSwPulseWrite v) s (fun t => (t.line (v % 64)).pulsed = true ∧ (t.line (v % 64)).tick = s.now ∧
      t.pulses = s.pulses ++ [(v % 64, s.now)] ∧ (∀ l, l ≠ v % 64 → t.line l = s.line l) ∧ Only [.lines, .pulses] s t)) ∧
  (∀ (s : State) (v : Nat), Open 0x50114 s → s.f (evSrcCode (v % 64)) ≠ 0 →
    Does (.evSwPulseWrite v) s (fun t => t = s)) ∧
  (∀ (s : State) (slot : Nat), Does (.deviceState slot) s (fun t => t = s.emit (.mailbox slot stOk
    (leBytes 4 s.devStatus ++ leBytes 1 (s.f thStatusLevel) ++ s.culletBytes))))

/-- The life of a command ring (R461, R462, R466, R469, R470, R472): enable, doorbells, fetch, disable, errors, and the levels.

The constructors that it says run to a next state with their own effect: ringEnable, ringDisable, sqTailDoorbell, cqHeadDoorbell,
ringEntryFetch, expertEnter, expertLeave. -/
def Obligations.RingsFollowTheirRegisters : Prop :=
  (∀ (s : State) (r : Nat), Open 0x30000 s → s.on (hcRingCtrlEnable r) = false → s.ringSetupOk r = true →
    Does (.ringEnable r) s (fun t => t.f (hcRingCtrlEnable r) = 1 ∧ t.f (hcRingStatusEnabled r) = 1 ∧ t.f (hcSqHead r) = 0 ∧
      t.f (hcCqTailIndex r) = 0 ∧ t.f (hcCqTailPhase r) = 1 ∧ t.f (hcRingStatusExpert r) = 0 ∧
      t.f (hcRingStatusError r) = s.f (hcRingStatusError r) ∧ t.f (hcRingStatusErrCode r) = s.f (hcRingStatusErrCode r) ∧
      (t.ring r).fetched = [] ∧ (t.ring r).doorbells = [] ∧ (t.ring r).live = (s.ring r).live ∧ (∀ q, q ≠ r → t.ring q = s.ring q) ∧
      Only [.regs, .rings] s t)) ∧
  (∀ (s : State) (r : Nat), Open 0x30000 s → s.on (hcRingCtrlEnable r) = false → s.ringSetupOk r = false →
    Does (.ringEnable r) s (fun t => t.f hcCfgReject = min (s.f hcCfgReject + 1) 65535 ∧ Only [.regs] s t ∧
      OnlyRegs [hcCfgReject] s t)) ∧
  (∀ (s : State) (r : Nat), Open 0x30000 s →
    Does (.ringDisable r) s (fun t => t.f (hcRingCtrlEnable r) = 0 ∧ t.f (hcRingStatusEnabled r) = 0 ∧ t.f (hcRingStatusExpert r) = 0 ∧
      (t.ring r).fetched = [] ∧ (t.ring r).doorbells = [] ∧ (∀ l ∈ (t.ring r).live, l.posted = true → l.dropped = true) ∧
      (∀ q, q ≠ r → t.ring q = s.ring q) ∧ Only [.regs, .rings] s t)) ∧
  (∀ (s : State) (r v : Nat), Open 0x30000 s → s.on (hcRingCtrlEnable r) = true →
    v < s.f (hcRingSizeSq r) → v ≠ (s.ring r).tail →
    Does (.sqTailDoorbell r v) s (fun t => (t.ring r).tail = v ∧ (t.ring r).doorbells = (s.ring r).doorbells ++ [(v, s.now)] ∧
      (t.ring r).fetched = (s.ring r).fetched ∧ (t.ring r).live = (s.ring r).live ∧ Only [.rings] s t)) ∧
  (∀ (s : State) (r v : Nat), Open 0x30000 s → s.on (hcRingCtrlEnable r) = true →
    s.f (hcRingSizeSq r) ≤ v →
    Does (.sqTailDoorbell r v) s (fun t => t.f (hcRingStatusError r) = 1 ∧ t.f (hcRingStatusErrCode r) = 1 ∧
      t.f (hcRingCtrlEnable r) = 0 ∧ Newest t .hc 0x01 r ∧ t.f elStatusAlertPend = 1 ∧ (t.ring r).fetched = [])) ∧
  (∀ (s : State) (r v : Nat), Open 0x30000 s → s.on (hcRingCtrlEnable r) = true →
    v < s.f (hcRingSizeCq r) →
    Does (.cqHeadDoorbell r v) s (fun t => t = s.setRing r { s.ring r with cqHead := v })) ∧
  (∀ (s : State) (r v : Nat), Open 0x30000 s → s.on (hcRingCtrlEnable r) = true →
    s.f (hcRingSizeCq r) ≤ v →
    Does (.cqHeadDoorbell r v) s (fun t => t.f (hcRingStatusError r) = 1 ∧ t.f (hcRingStatusErrCode r) = 2 ∧ Newest t .hc 0x01 r)) ∧
  (∀ (s : State) (r i : Nat) (d : Tick) (rest : List (Nat × Tick)) (e : Sqe), s.on (hcRingCtrlEnable r) = true → s.pcie.d3hot = false →
    s.halted = false → (s.ring r).doorbells = (i, d) :: rest →
    Does (.ringEntryFetch r [e]) s (fun t => (t.ring r).fetched = (s.ring r).fetched ++ [{ e with ring := r, tick := d }] ∧
      t.f (hcSqHead r) = (if s.f (hcRingSizeSq r) ≤ s.f (hcSqHead r) + 1 then 0 else s.f (hcSqHead r) + 1) ∧
      (t.ring r).doorbells = (if t.f (hcSqHead r) = i then rest else (i, d) :: rest) ∧ (t.ring r).live = (s.ring r).live ∧
      Only [.regs, .rings] s t ∧ OnlyRegs [hcSqHead r] s t)) ∧
  (∀ (s : State) (e : Sqe), Running e s →
    Does (.expertEnter e) s (fun t => t.f (hcRingStatusExpert e.ring) = 1 ∧ Posts e stOk (packBytes [(0, 1, e.ring)]) [] s t ∧
      Only ringParts s t ∧ OnlyRegs (hcRingStatusExpert e.ring :: ringRegs e.ring) s t)) ∧
  (∀ (s : State) (e : Sqe), Running e s →
    Does (.expertLeave e) s (fun t => t.f (hcRingStatusExpert e.ring) = 0 ∧ Posts e stOk 0 [] s t ∧
      Only ringParts s t ∧ OnlyRegs (hcRingStatusExpert e.ring :: ringRegs e.ring) s t))

/-- How a fetched entry leaves its ring (R464 to R468, R487, R488): it starts, waits for its event line, or is refused by the first check
that fails; a vendor diagnostic command of an engineering sample, to which R488 gives no effect, stops the run.

The constructors that it says run to a next state with their own effect: ringEntryStart, hostReadFail. -/
def Obligations.EntriesStartWaitOrAreRefused : Prop :=
  (∀ (s : State) (r : Nat) (e : Sqe) (rest : List Sqe) (c : CmdSpec), (s.ring r).fetched = e :: rest → s.on (hcRingCtrlEnable r) = true →
    s.halted = false → s.mayStart r e = true → specFor e.opcode = some c → c.refusal s e = none → c.gate s e = none →
    e.wait = false ∨ s.waitOver e = true →
    Does (.ringEntryStart r) s (fun t => (t.ring r).fetched = rest ∧
      (t.ring r).live = (s.ring r).live ++
        [⟨e.tag, e.opcode, e.opcode == 0x108 || e.opcode == 0x109, e.opcode == 0x18A, false, false, e.tick, e.params⟩] ∧
      (∀ q, q ≠ r → t.ring q = s.ring q) ∧ Only [.regs, .rings] s t)) ∧
  (∀ (s : State) (r : Nat) (e : Sqe) (rest : List Sqe) (c : CmdSpec), (s.ring r).fetched = e :: rest → s.on (hcRingCtrlEnable r) = true →
    s.halted = false → s.mayStart r e = true → specFor e.opcode = some c → c.refusal s e = none → e.wait = true → s.waitOver e = false →
    Does (.ringEntryStart r) s (fun t => (t.ring r).fetched = e :: rest ∧ (t.ring r).live = (s.ring r).live ∧
      (t.ring r).waitingHead = true ∧ t.f (hcRingStatusWaiting r) = 1 ∧ t.out = s.out ∧ Only [.regs, .rings] s t)) ∧
  (∀ (s : State) (r st : Nat) (e : Sqe) (rest : List Sqe) (c : CmdSpec), (s.ring r).fetched = e :: rest → e.ring = r →
    s.on (hcRingCtrlEnable r) = true → s.halted = false → s.mayStart r e = true → specFor e.opcode = some c →
    (s.ring r).waitingHead = false → c.refusal s e = some st →
    Does (.ringEntryStart r) s (fun t => (t.ring r).fetched = rest ∧ (t.ring r).live = (s.ring r).live ∧ Posts e st 0 [] s t ∧
      Only ringParts s t ∧ OnlyRegs (ringRegs r) s t)) ∧
  (∀ (s : State) (r : Nat) (e : Sqe) (rest : List Sqe), (s.ring r).fetched = e :: rest → e.ring = r →
    s.on (hcRingCtrlEnable r) = true → s.halted = false → s.mayStart r e = true → specFor e.opcode = none →
    ¬ (0x3C0 ≤ e.opcode ∧ e.opcode ≤ 0x3FF) →
    Does (.ringEntryStart r) s (fun t => (t.ring r).fetched = rest ∧ Posts e stBadOpcode 0 [] s t ∧ Only ringParts s t)) ∧
  (∀ (s : State) (r : Nat) (e : Sqe) (rest : List Sqe), (s.ring r).fetched = e :: rest → e.ring = r →
    s.on (hcRingCtrlEnable r) = true → s.halted = false → s.mayStart r e = true → 0x3C0 ≤ e.opcode → e.opcode ≤ 0x3FF →
    s.on fzCloseVendor = true →
    Does (.ringEntryStart r) s (fun t => (t.ring r).fetched = rest ∧ Posts e stNotPermitted 0 [] s t ∧ Only ringParts s t)) ∧
  (∀ (s : State) (r : Nat) (e : Sqe) (rest : List Sqe), (s.ring r).fetched = e :: rest →
    s.on (hcRingCtrlEnable r) = true → s.halted = false → s.mayStart r e = true → 0x3C0 ≤ e.opcode → e.opcode ≤ 0x3FF →
    s.on fzCloseVendor = false → (vendorSpec e.opcode).refusal s e = none →
    exec (.ringEntryStart r) s = .refused .vendorDiagnostic) ∧
  (∀ (s : State) (r : Nat), s.on (hcRingCtrlEnable r) = true → s.halted = false →
    Does (.hostReadFail (.entry r) true) s (fun t => t.f (hcRingStatusError r) = 1 ∧ t.f (hcRingStatusErrCode r) = 3 ∧
      t.f (hcRingCtrlEnable r) = 0 ∧ Newest t .hc 0x01 r)) ∧
  (∀ (s : State) (e : Sqe), Running e s →
    Answers (.hostReadFail (.parameters e.ring e.tag) true) e stBadParam 0 s ∧
    Answers (.hostReadFail (.parameters e.ring e.tag) false) e stTimeout 0 s)

/-- Every table holds what it held. Only the values of counters that a demotion of a node has written to DRAM may be newer there (R298). -/
def SameTables (s t : State) : Prop :=
  ∀ n, (t.table n).map (fun x => { x with writtenBack := [] }) = (s.table n).map (fun x => { x with writtenBack := [] })

/-- The staging window (R401, R473 to R475, R493): what a read returns, what a write changes, what is refused, what waits for the row guard,
and STAGE_MAP.

The constructors that it says run to a next state with their own effect: stagingWindowRead, stagingWindowWrite, stageMap. -/
def Obligations.StagingWindowIsChecked : Prop :=
  (∀ (s : State) (off n : Nat), s.decodesBars = false → Does (.stagingWindowRead off n) s (fun t => t = s.emit .unsupportedRequest)) ∧
  (∀ (s : State) (off : Nat) (data : List Byte) (enables : Nat), s.decodesBars = false →
    Does (.stagingWindowWrite off data enables) s (fun t => t = s)) ∧
  (∀ (s : State) (off n : Nat), s.decodesBars = true → s.windows = [] → s.halted = true →
    Does (.stagingWindowRead off n) s (fun t => t = s.emit .completerAbort)) ∧
  (∀ (s : State) (off : Nat) (data : List Byte) (enables : Nat), s.decodesBars = true → s.windows = [] → s.halted = true →
    Does (.stagingWindowWrite off data enables) s (fun t => t = s)) ∧
  (∀ (s : State) (off n : Nat), s.decodesBars = true → s.windows = [] → s.halted = false → s.quenched = false → s.f hcStageKind = 2 →
    s.rangeLive false (s.windowPos off) n = true →
    Does (.stagingWindowRead off n) s (fun t =>
      t = s.emit (.readData (s.windowBytes (memKey false (s.windowPos off)) n) (s.rangeBad false (s.windowPos off) n)))) ∧
  (∀ (s : State) (off n : Nat), s.decodesBars = true → s.windows = [] → s.halted = false → s.quenched = false → s.f hcStageKind = 1 →
    s.rangeLive true (s.windowPos off) n = true → s.windowBlocked false true (s.windowPos off) n = false →
    Does (.stagingWindowRead off n) s (fun t =>
      t.out.head? = some (.readData (s.windowBytes (s.windowPos off) n) (s.rangeBad true (s.windowPos off) n)) ∧
      t.mem = s.mem ∧ t.queues = s.queues ∧ SameTables s t)) ∧
  (∀ (s : State) (off n : Nat), s.decodesBars = true → s.quenched = false → s.windowWaits ⟨false, off, n, [], 0⟩ = true →
    Does (.stagingWindowRead off n) s (fun t => t = { s with windows := s.windows ++ [⟨false, off, n, [], 0⟩] })) ∧
  (∀ (s : State) (off : Nat) (data : List Byte) (enables : Nat), s.decodesBars = true → s.quenched = false →
    s.windowWaits ⟨true, off, data.length, data, enables⟩ = true →
    Does (.stagingWindowWrite off data enables) s (fun t =>
      t = { s with windows := s.windows ++ [⟨true, off, data.length, data, enables⟩] })) ∧
  (∀ (s : State) (off n : Nat), s.decodesBars = true → s.halted = false → s.quenched = true →
    Does (.stagingWindowRead off n) s (fun t => t.out = .completerAbort :: s.out ∧
      t.f hcStageDrop = min (s.f hcStageDrop + 1) (2 ^ 32 - 1) ∧ Only [.out, .regs] s t ∧ OnlyRegs [hcStageDrop] s t)) ∧
  (∀ (s : State) (off n : Nat), s.decodesBars = true → s.windows = [] → s.halted = false → s.quenched = false → s.f hcStageKind = 0 →
    Does (.stagingWindowRead off n) s (fun t => t = s.emit .completerAbort)) ∧
  (∀ (s : State) (off n : Nat), s.decodesBars = true → s.windows = [] → s.halted = false → s.quenched = false → s.f hcStageKind = 1 →
    s.rangeLive true (s.windowPos off) n = false →
    Does (.stagingWindowRead off n) s (fun t => t.out = .completerAbort :: s.out ∧ Newest t .hc 0x03 0xFF ∧
      t.f hcStageDrop = min (s.f hcStageDrop + 1) (2 ^ 32 - 1) ∧ Only logParts s t)) ∧
  (∀ (s : State) (off : Nat) (data : List Byte) (enables : Nat), s.decodesBars = true → s.windows = [] → s.halted = false → s.quenched = false →
    s.f hcStageKind = 2 → s.on hcStageWrite = true →
    s.rangeLive false (s.windowPos off) data.length = true → wholeWords off data.length enables = true →
    Does (.stagingWindowWrite off data enables) s (fun t => t = s.stackWrite (memKey false (s.windowPos off)) data)) ∧
  (∀ (s : State) (off : Nat) (data : List Byte) (enables : Nat), s.decodesBars = true → s.windows = [] → s.halted = false → s.quenched = false →
    s.f hcStageKind = 1 → s.on hcStageWrite = true →
    s.rangeLive true (s.windowPos off) data.length = true → wholeWords off data.length enables = true →
    s.rangeFree (s.windowPos off) data.length = true → s.windowBlocked true true (s.windowPos off) data.length = false →
    (∀ k ∈ sectorsOf (s.windowPos off) data.length, s.queuedWrite k = none) →
    Does (.stagingWindowWrite off data enables) s (fun t => t.stackBytes (s.windowPos off) data.length = data ∧ t.queues = s.queues ∧
      SameTables s t)) ∧
  (∀ (s : State) (off : Nat) (data : List Byte) (enables k : Nat) (w : MemEntry), s.decodesBars = true → s.windows = [] →
    s.halted = false → s.quenched = false → s.f hcStageKind = 1 → s.on hcStageWrite = true →
    s.rangeLive true (s.windowPos off) data.length = true → wholeWords off data.length enables = true →
    s.rangeFree (s.windowPos off) data.length = true → s.windowBlocked true true (s.windowPos off) data.length = false →
    sectorsOf (s.windowPos off) data.length = [k] → s.queuedWrite k = some w →
    Does (.stagingWindowWrite off data enables) s (fun t => t.windowBytes (s.windowPos off) data.length = data ∧ t.mem = s.mem ∧
      t.f (mcPcMerge (s.pcOf k)) = min (s.f (mcPcMerge (s.pcOf k)) + 1) (2 ^ 32 - 1) ∧ t.queues = s.queues ∧ t.tables = s.tables)) ∧
  (∀ (s : State) (off : Nat) (data : List Byte) (enables : Nat), s.decodesBars = true → s.windows = [] → s.halted = false → s.quenched = false →
    s.f hcStageKind ≠ 0 → s.on hcStageWrite = false →
    Does (.stagingWindowWrite off data enables) s (fun t => Newest t .hc 0x03 0xFF ∧ t.mem = s.mem ∧
      t.f hcStageDrop = min (s.f hcStageDrop + 1) (2 ^ 32 - 1) ∧ Only logParts s t)) ∧
  (∀ (s : State) (off : Nat) (data : List Byte) (enables : Nat), s.decodesBars = true → s.halted = false → s.quenched = true →
    Does (.stagingWindowWrite off data enables) s (fun t => t.mem = s.mem ∧
      t.f hcStageDrop = min (s.f hcStageDrop + 1) (2 ^ 32 - 1) ∧ Only [.regs] s t ∧ OnlyRegs [hcStageDrop] s t)) ∧
  (∀ (s : State) (e : Sqe), Running e s → e.par 16 1 = 1 → e.par 20 2 * 2 ^ 28 < s.dramBytes →
    Does (.stageMap e) s (fun t => t.f hcStageKind = 1 ∧ t.f hcStageWrite = b2n (e.bit 17 0) ∧ t.f hcStageBase = e.par 20 2 ∧
      Posts e stOk (s.now % 2 ^ 64) [] s t ∧ Only ringParts s t ∧
      OnlyRegs (hcStageKind :: hcStageWrite :: hcStageBase :: ringRegs e.ring) s t)) ∧
  (∀ (s : State) (e : Sqe), Running e s → 2 < e.par 16 1 → Answers (.stageMap e) e stBadParam 0 s)

/-- The event matrix and channel setup (R501, R511, R514, R515).

The constructors that it says run to a next state with their own effect: evSource, evSink, evPulse, evInfo, bmChannelCfg, bmNosnoop,
eventPulseDelivery. -/
def Obligations.EventCommandsAct : Prop :=
  (∀ (s : State) (e : Sqe), Running e s → e.par 16 1 ≤ 63 → sourceDefined (e.par 18 2) = true →
    Does (.evSource e) s (fun t => t.f (evSrcCode (e.par 16 1)) = e.par 18 2 ∧ Posts e stOk 0 [] s t ∧ Only ringParts s t ∧
      OnlyRegs (evSrcCode (e.par 16 1) :: ringRegs e.ring) s t)) ∧
  (∀ (s : State) (e : Sqe), Running e s → 63 < e.par 16 1 → ∀ c ∈ [Instr.evSource e, Instr.evSink e, Instr.evPulse e, Instr.evInfo e],
    Answers c e stBadParam 0 s) ∧
  (∀ (s : State) (e : Sqe), Running e s → e.par 16 1 ≤ 63 → e.par 17 1 = 1 → s.lineConfigured (e.par 16 1) = true → e.bit 19 0 = true →
    Does (.evSink e) s (fun t => t.f evSnapLine = e.par 16 1 ∧ t.f evSnapConnected = 1 ∧ Posts e stOk 0 [] s t ∧ Only ringParts s t ∧
      OnlyRegs (evSnapLine :: evSnapConnected :: ringRegs e.ring) s t)) ∧
  (∀ (s : State) (e : Sqe), Running e s → e.par 16 1 ≤ 63 → e.par 17 1 = 2 → e.par 18 1 ≤ 15 → s.lineConfigured (e.par 16 1) = true →
    e.bit 19 0 = true →
    Does (.evSink e) s (fun t => t.f (bmChCfgStartLine (e.par 18 1)) = e.par 16 1 ∧ t.f (bmChCfgStartEn (e.par 18 1)) = 1 ∧
      Posts e stOk 0 [] s t ∧ Only ringParts s t)) ∧
  (∀ (s : State) (e : Sqe), Running e s → e.par 16 1 ≤ 63 → e.par 17 1 = 1 → s.lineConfigured (e.par 16 1) = false →
    Answers (.evSink e) e stNoSuchObject 0 s) ∧
  (∀ (s : State) (e : Sqe), Running e s → e.par 16 1 ≤ 63 → s.f (evSrcCode (e.par 16 1)) = 0 →
    Does (.evPulse e) s (fun t => (t.line (e.par 16 1)).pulsed = true ∧ (t.line (e.par 16 1)).tick = s.now ∧
      t.pulses = s.pulses ++ [(e.par 16 1, s.now)] ∧ Posts e stOk (s.now % 2 ^ 64) [] s t ∧
      Only (.lines :: .pulses :: ringParts) s t)) ∧
  (∀ (s : State) (e : Sqe), Running e s → e.par 16 1 ≤ 63 → s.f (evSrcCode (e.par 16 1)) ≠ 0 → s.f (evSrcCode (e.par 16 1)) ≠ 0xFFFF →
    Answers (.evPulse e) e stNotPermitted 0 s) ∧
  (∀ (s : State) (e : Sqe), Running e s → e.par 16 1 ≤ 63 →
    Answers (.evInfo e) e stOk (packBytes [(0, 2, s.f (evSrcCode (e.par 16 1))),
      (2, 1, b2n (s.on evSnapConnected && s.f evSnapLine == e.par 16 1)), (4, 8, (s.line (e.par 16 1)).tick),
      (12, 4, (s.line (e.par 16 1)).count)]) s) ∧
  (∀ (s : State) (e : Sqe), Running e s → e.par 16 1 ≤ 15 → e.par 17 1 ≤ 14 → s.f (bmChStatusState (e.par 16 1)) = 0 → e.par 18 2 ≠ 0 →
    Does (.bmChannelCfg e) s (fun t => t.f (bmChCfgClass (e.par 16 1)) = e.par 17 1 ∧ t.f (bmChHopsLimit (e.par 16 1)) = e.par 18 2 ∧
      Posts e stOk 0 [] s t ∧ Only ringParts s t ∧
      OnlyRegs (bmChCfgClass (e.par 16 1) :: bmChHopsLimit (e.par 16 1) :: ringRegs e.ring) s t)) ∧
  (∀ (s : State) (e : Sqe), Running e s → e.par 16 1 ≤ 15 → e.par 17 1 ≤ 14 → s.f (bmChStatusState (e.par 16 1)) = 1 →
    Answers (.bmChannelCfg e) e stNotPermitted 0 s) ∧
  (∀ (s : State) (e : Sqe), Running e s → e.par 16 1 ≤ 15 →
    Does (.bmNosnoop e) s (fun t => t.f (bmChCfgNosnoop (e.par 16 1)) = b2n (e.bit 17 0) ∧ Posts e stOk 0 [] s t ∧ Only ringParts s t ∧
      OnlyRegs (bmChCfgNosnoop (e.par 16 1) :: ringRegs e.ring) s t)) ∧
  (∀ (s : State) (l : Nat) (k : Tick) (rest : List (Nat × Tick)), s.pulses = (l, k) :: rest → s.halted = true →
    Does .eventPulseDelivery s (fun t => t = { s with pulses := rest })) ∧
  (∀ (s : State) (l : Nat) (k : Tick) (rest : List (Nat × Tick)), s.pulses = (l, k) :: rest → s.halted = false →
    s.on evSnapConnected = true → s.f evSnapLine = l → s.snapPending = none → s.snapRead = false → s.qmGone = false →
    Does .eventPulseDelivery s (fun t => t.snapPending = some (.event, k) ∧ t.f qmStatusSnapPending = 1 ∧
      (∃ more, t.pulses = rest ++ more) ∧ t.queues = s.queues))

/-- Write TLPs that follow each other from an address, none empty and none across a 4 KiB boundary (R510). -/
def HostWrites : Nat → List (Nat × List Byte) → Prop
  | _, [] => True
  | a, x :: l => x.1 = a ∧ x.2 ≠ [] ∧ a / 4096 = (a + x.2.length - 1) / 4096 ∧ HostWrites (a + x.2.length) l

/-- Bulk-mover channels (R503, R506 to R513): start, arm, clear, the fetch of a descriptor, the end of one, and halts.

The constructors that it says run to a next state with their own effect: bmChStart, bmChArm, bmChClear, bmChannelHalt,
bmDescriptorFetchDone, bmDescriptorEnd, hostReadFail. -/
def Obligations.ChannelsRunTheirDescriptors : Prop :=
  (∀ (s : State) (c : Nat), Open (bmBase c) s → c < 16 → s.quenched = false → s.f (bmChStatusState c) = 0 →
    s.on (bmChStatusShadowValid c) = true → s.f (bmShCount c) ≠ 0 → s.f (bmShModeOp c) ≤ 2 → s.f (bmShModeSrcW c) ≤ 6 →
    s.f (bmShModeDstW c) ≤ 6 → s.f (bmShNext c) % 64 = 0 →
    Does (.bmChStart .host c) s (fun t => t.f (bmChStatusState c) = 1 ∧ t.f (bmChStatusShadowValid c) = 0 ∧ t.f (bmChHopsCount c) = 1 ∧
      t.f (bmAcSrc c) = s.f (bmShSrc c) ∧ t.f (bmAcDst c) = s.f (bmShDst c) ∧ t.f (bmAcCount c) = s.f (bmShCount c) ∧
      (t.channel c).fetching = (s.f (bmShNext c) != 0) ∧ Only [.regs, .channels] s t)) ∧
  (∀ (s : State) (c : Nat), Open (bmBase c) s → c < 16 → s.f (bmChStatusState c) ≠ 0 →
    Does (.bmChStart .host c) s (fun t => t.f (bmChStatusStartMissed c) = min (s.f (bmChStatusStartMissed c) + 1) 255 ∧ Only [.regs] s t ∧
      OnlyRegs [bmChStatusStartMissed c] s t)) ∧
  (∀ (s : State) (c : Nat), Open (bmBase c) s → 16 ≤ c →
    Does (.bmChStart .host c) s (fun t => t = s.setF devStatusRwaDenied 1) ∧
    Does (.bmChArm .host c) s (fun t => t = s.setF devStatusRwaDenied 1) ∧
    Does (.bmChClear .host c) s (fun t => t = s.setF devStatusRwaDenied 1)) ∧
  (∀ (s : State) (c : Nat), Open (bmBase c) s → c < 16 →
    Does (.bmChArm .host c) s (fun t => t = s.setF (bmChStatusShadowValid c) 1)) ∧
  (∀ (s : State) (c : Nat), Open (bmBase c) s → c < 16 → s.f (bmChStatusState c) = 2 →
    Does (.bmChClear .host c) s (fun t => t.f (bmChStatusState c) = 0 ∧ t.f (bmChStatusShadowValid c) = 0 ∧ Only [.regs] s t ∧
      OnlyRegs [bmChStatusState c, bmChStatusShadowValid c] s t)) ∧
  (∀ (s : State) (c : Nat) (cause : HaltCause) (bytes : Nat), s.f (bmChStatusState c) = 1 ∨ s.f (bmChStatusState c) = 3 →
    Does (.bmChannelHalt c cause bytes) s (fun t => t.f (bmChStatusState c) = 2 ∧ t.f (bmChStatusStatus c) = haltStatus cause ∧
      t.f (bmChBytes c) = bytes % 2 ^ 32 ∧ t.f bmCtrlLastErr = c ∧ (t.channel c).fetching = false ∧
      Newest t .bm (haltStatus cause) c ∧ t.mem = s.mem)) ∧
  (∀ (s : State) (c : Nat) (b : List Byte), (s.channel c).fetching = true → (s.channel c).ended = false →
    s.on (bmChStatusShadowValid c) = false → descriptorOk b = true →
    Does (.bmDescriptorFetchDone c (.data b)) s (fun t => t.f (bmShSrc c) = bufNat b 0 8 ∧ t.f (bmShDst c) = bufNat b 8 8 ∧
      t.f (bmShCount c) = bufNat b 16 4 ∧ t.f (bmShNext c) = bufNat b 32 8 ∧ t.f (bmChStatusShadowValid c) = 1 ∧
      (t.channel c).fetching = false ∧ Only [.regs, .channels] s t)) ∧
  (∀ (s : State) (c : Nat), (s.channel c).fetching = true →
    Does (.bmDescriptorFetchDone c .noCompletion) s (fun t => t.f (bmChStatusState c) = 2 ∧ t.f (bmChStatusStatus c) = stTimeout ∧
      Newest t .bm stTimeout c) ∧
    Does (.bmDescriptorFetchDone c .badRequest) s (fun t => t.f (bmChStatusState c) = 2 ∧ t.f (bmChStatusStatus c) = stBadParam ∧
      Newest t .bm stBadParam c)) ∧
  (∀ (s : State) (c : Nat) (src dst : List Byte), s.f (bmChStatusState c) = 1 → (s.channel c).ended = false →
    (s.channel c).fetching = false → s.on (bmChStatusShadowValid c) = false → s.f (bmAcModeOp c) = 0 →
    s.f (bmAcModeSrcSpace c) = 0 → s.f (bmAcModeDstSpace c) = 0 → s.f (bmAcModeDstW c) ≤ 6 → s.pcie.d3hot = false → s.halted = false →
    Does (.bmDescriptorEnd c src dst) s (fun t => t.f (bmChStatusState c) = 0 ∧ t.f (bmChStatusStatus c) = stOk ∧
      t.f (bmChBytes c) = s.f (bmAcCount c) ∧
      (∃ l, HostWrites (s.f (bmAcDst c)) l ∧ l.flatMap (·.2) = src.take (s.f (bmAcCount c)) ∧
        t.out = (l.map (fun x => Output.hostWrite x.1 x.2)).reverse ++ s.out) ∧
      (∀ l, l < 64 → s.f (evSrcCode l) = 0x100 + c → (t.line l).pulsed = true) ∧
      Only [.out, .regs, .lines, .pulses] s t)) ∧
  (∀ (s : State) (c : Nat) (src dst : List Byte), s.f (bmChStatusState c) = 1 → (s.channel c).ended = false →
    s.f (bmAcModeOp c) = 0 → s.f (bmAcModeSrcSpace c) = 3 → s.on bmCtrlPhysEn = false → s.pcie.d3hot = false → s.halted = false →
    Does (.bmDescriptorEnd c src dst) s (fun t => t.f (bmChStatusState c) = 2 ∧ t.f (bmChStatusStatus c) = stNotPermitted ∧
      t.f (bmChBytes c) = 0 ∧ t.mem = s.mem ∧ Newest t .bm stNotPermitted c)) ∧
  (∀ (s : State) (c : Nat), s.f (bmChStatusState c) = 1 →
    Does (.hostReadFail (.channel c) false) s (fun t => t.f (bmChStatusState c) = 2 ∧ t.f (bmChStatusStatus c) = stTimeout ∧
      Newest t .bm stTimeout c))

/-- The device commands (R113, R486, R495, R612, R615): reports, the error log and NOP.

The constructors that it says run to a next state with their own effect: devIdentify, devHealth, powerInfo, nop, errlogRead, errlogClear,
recoveryReport. -/
def Obligations.DeviceCommandsAnswer : Prop :=
  (∀ (s : State) (e : Sqe), Running e s → Answers (.devIdentify e) e stOk (packBytes [(0, 2, s.deviceId), (2, 1, s.grade),
    (3, 1, b2n s.isEs + 2 * s.f fzCloseVendor + 4 * s.f fzCloseCustomer), (4, 8, s.serial),
    (12, 4, Config.romAndPatch (if s.trust.patchOk then s.latchedWord 3 else 0)), (16, 4, (s.runningImage.map (·.version)).getD 0),
    (20, 1, s.f devStackFound - 1)]) s) ∧
  (∀ (s : State) (e : Sqe), Running e s → Answers (.devHealth e) e stOk (packBytes [(0, 4, s.devStatus), (4, 4, s.devResetCause),
    (8, 1, s.f thStatusLevel), (9, 1, s.f thStatusHottest), (10, 2, s.hottestTemp), (12, 4, s.logWritten),
    (16, 1, b2n s.quenched + 2 * b2n (bitOf (s.f thStatusSources) 1) + 4 * s.f elStatusSvExpired + 8 * s.f plClkStatusRefclkLost +
      16 * s.f rgStatusScaled), (18, 2, maskOf 16 s.portActive), (20, 2, s.culletUnits)]) s) ∧
  (∀ (s : State) (e : Sqe) (mw : Nat), Running e s → Answers (.powerInfo e mw) e stOk (packBytes [(0, 4, mw), (4, 7, s.f plPwrOn),
    (11, 1, s.f teBenchPowered), (12, 2, maskOf 16 s.portHot), (14, 2, maskOf 16 s.portWarm), (16, 2, maskOf 16 s.portBanked),
    (18, 1, (if s.pcie.d3hot then 3 else 0) + 4 * b2n s.pcie.linkL1), (19, 1, s.f devStatusStage)]) s) ∧
  (∀ (s : State) (e : Sqe), Running e s → Answers (.nop e) e stOk (e.par 16 24) s) ∧
  (∀ (s : State) (e : Sqe) (es : List LogEntry) (a z : LogEntry), Running e s → 1 ≤ e.par 28 4 → e.par 28 4 ≤ 4096 →
    e.par 16 8 % 16 = 0 → es = ((s.log.reverse.filter (fun n => decide (e.par 24 4 ≤ n.seq))).take (e.par 28 4)) →
    es.head? = some a → es.getLast? = some z →
    Does (.errlogRead e) s (fun t =>
      Posts e stOk (packBytes [(0, 4, es.length), (4, 4, a.seq), (8, 4, nextSeq z.seq), (12, 4, s.f elLost)])
        [.hostWrite (e.par 16 8) (es.flatMap LogEntry.bytes)] s t ∧ Only ringParts s t ∧ OnlyRegs (ringRegs e.ring) s t)) ∧
  (∀ (s : State) (e : Sqe), Running e s → 1 ≤ e.par 28 4 → e.par 28 4 ≤ 4096 → e.par 16 8 % 16 = 0 →
    (∀ n ∈ s.log, n.seq < e.par 24 4) → Answers (.errlogRead e) e stEmpty 0 s) ∧
  (∀ (s : State) (e : Sqe), Running e s → 4096 < e.par 28 4 → Answers (.errlogRead e) e stBadParam 0 s) ∧
  (∀ (s : State) (e : Sqe), Running e s →
    Does (.errlogClear e) s (fun t => t.log = s.log.filter (fun n => decide (e.par 16 4 < n.seq)) ∧ t.f elLost = 0 ∧
      ((∀ n ∈ t.log, n.severity ≠ 3) → t.f elStatusAlertPend = 0) ∧
      ((∃ n ∈ t.log, n.severity = 3) → t.f elStatusAlertPend = s.f elStatusAlertPend) ∧
      Posts e stOk (packBytes [(0, 4, s.log.length - t.log.length)]) [] s t ∧ Only (.log :: .logWritten :: ringParts) s t ∧
      OnlyRegs (elFirst :: elLost :: elStatusAlertPend :: ringRegs e.ring) s t)) ∧
  (∀ (s : State) (e : Sqe), Running e s → e.indirect = false → Answers (.recoveryReport e) e stBadParam 0 s) ∧
  (∀ (s : State) (e : Sqe), Running e s → e.indirect = true → 1024 ≤ e.paramLen → s.on devStatusReportValid = false →
    Answers (.recoveryReport e) e stEmpty (packBytes [(4, 1, s.f devResetCauseCause)]) s) ∧
  (∀ (s : State) (e : Sqe), Running e s → e.indirect = true → 1024 ≤ e.paramLen → s.on devStatusReportValid = true →
    Does (.recoveryReport e) s (fun t =>
      Posts e stOk (packBytes [(0, 2, (s.recovered.filter (fun r => r.code == 0 || r.code == 3)).length),
        (2, 2, s.recovered.length - (s.recovered.filter (fun r => r.code == 0 || r.code == 3)).length), (4, 1, s.f devResetCauseCause)])
        [.hostWrite (e.par 16 8) s.reportBytes] s t ∧ Only ringParts s t ∧ OnlyRegs (ringRegs e.ring) s t))

/-- Marver's epoch and the placement commands (R280, R286, R287, R294 to R298, R307), and the slices in which the lines of the shared areas of
the Crucible lie (R376).

The constructors that it says run to a next state with their own effect: epochBoundary, memSplit, placementInfo, tierReport, mvTune,
mvTableHint. -/
def Obligations.PlacementActsAtEpochs : Prop :=
  (∀ (s : State) (x : EpochInput), s.halted = false →
    Does (.epochBoundary x) s (fun t => t.now = max s.now (4000000 * s.nextEpoch) ∧ t.marver.epoch = s.nextEpoch ∧ t.marver.settings = [] ∧
      t.marver.queuePeak = 0 ∧ t.marver.queueEngine = 0 ∧
      (∀ n y, s.table n = some y → ∃ z, t.table n = some z ∧ z.committed = y.committed ∧ z.counters = y.counters ∧
        z.writtenBack = y.counters ∧ z.ops = y.ops.filter (fun o => decide (s.nextEpoch ≤ o.1 + 1))) ∧
      (∀ n, s.table n = none → t.table n = none) ∧ t.queues = s.queues ∧ t.f cdSharedBusy = x.sharedBusy % 2 ^ 32 ∧
      t.f cdPrivBusy = x.privBusy % 2 ^ 32)) ∧
  (∀ (s : State) (e : Sqe), Running e s → s.quenched = false → e.par 16 4 ≤ s.largestT →
    s.f mvTableUsedRows ≤ e.par 16 4 * unitRows → e.par 16 4 * unitRows + 524288 ≤ s.poolRows →
    s.poolDemand ≤ s.poolRows - e.par 16 4 * unitRows →
    Does (.memSplit e) s (fun t => t.f mvSplitTUnits = e.par 16 4 ∧ t.f qmPoolLimit = (s.poolRows - e.par 16 4 * unitRows) * 2048 ∧
      Posts e stOk (packBytes [(0, 8, e.tick), (8, 8, (s.poolRows - e.par 16 4 * unitRows) * 2048)]) [] s t ∧
      t.marver = { s.marver with splits := s.marver.splits ++ [(e.tick, s.f qmPoolLimit / 2048)] } ∧
      (s.marver.splits = [] → ∀ k, t.poolBlocksAt k = if k < e.tick then s.f qmPoolLimit / 2048 else t.f qmPoolLimit / 2048) ∧
      Only (.marver :: ringParts) s t)) ∧
  (∀ (s : State) (e : Sqe), Running e s → s.quenched = false → s.largestT < e.par 16 4 → Answers (.memSplit e) e stBadParam 0 s) ∧
  (∀ (s : State) (e : Sqe), Running e s → s.quenched = false → e.par 16 4 ≤ s.largestT →
    e.par 16 4 * unitRows < s.f mvTableUsedRows → Answers (.memSplit e) e stNotPermitted 0 s) ∧
  (∀ (s : State) (e : Sqe), Running e s → Answers (.placementInfo e) e stOk (packBytes [(0, 2, s.f mvSplitTUnits),
    (2, 4, s.f mvTableUsedRows), (6, 4, s.f qmPoolLimit / 2 ^ 20), (10, 1, s.f mvStatusEligible), (11, 1, s.f mvStatusOut),
    (12, 2, s.f mvRetiredBanks), (14, 4, s.marver.tierLines / 16), (18, 4, 2 * s.marver.head.length), (22, 2, s.f mvSpreadMin)]) s) ∧
  (∀ (s : State) (e : Sqe), Running e s → e.par 16 8 % 16 = 0 →
    Does (.tierReport e) s (fun t => Posts e stOk 0 [.hostWrite (e.par 16 8) ((List.range 256).flatMap s.tierEntry)] s t ∧
      Only ringParts s t ∧ OnlyRegs (ringRegs e.ring) s t)) ∧
  (∀ (s : State) (e : Sqe), Running e s → 1 ≤ e.par 16 2 → 1 ≤ e.par 18 2 → 1 ≤ e.par 20 1 → e.par 20 1 ≤ 15 → e.par 21 1 ≤ 12 →
    33 ≤ e.par 22 1 → e.par 22 1 ≤ 64 → 1 ≤ e.par 26 2 → e.par 26 2 ≤ 46 →
    Does (.mvTune e) s (fun t => t.marver = { s.marver with settings := s.marver.settings ++
        [.tune (e.par 16 2) (e.par 18 2) (e.par 20 1) (e.par 21 1) (e.par 22 1) (e.bit 23 0) (e.par 24 2) (e.par 26 2)] } ∧
      Posts e stOk 0 [] s t ∧ Only (.marver :: ringParts) s t ∧ OnlyRegs (ringRegs e.ring) s t)) ∧
  (∀ (s : State) (e : Sqe) (x : Table), Running e s → 1 ≤ e.par 17 1 → e.par 17 1 ≤ e.par 18 1 → e.par 18 1 ≤ 64 →
    s.table (e.par 16 1) = some x →
    Does (.mvTableHint e) s (fun t => t.marver = { s.marver with settings := s.marver.settings ++
        [.hint (e.par 16 1) (e.par 17 1) (e.par 18 1) (e.bit 19 0) (e.bit 19 1)] } ∧
      Posts e stOk 0 [] s t ∧ Only (.marver :: ringParts) s t ∧ OnlyRegs (ringRegs e.ring) s t)) ∧
  (∀ (s : State) (i : Nat), s.f tcCulletSlice = 0 → s.sharedSlice i = i % 64) ∧
  (∀ (s : State) (i n : Nat), n < 64 → bitOf (s.f tcCulletSlice) n = false → s.sharedSlice i < 64 ∧
    bitOf (s.f tcCulletSlice) (s.sharedSlice i) = false ∧ s.sharedSlice (i + s.slicesServed) = s.sharedSlice i)

/-- Bandwidth guarantees (R432, R442 to R448): a set is accepted or refused whole, takes effect at the start of the first window that begins
at or after its check (at once where one begins at that tick), and K follows from F and the guarantees.

The constructors that it says run to a next state with their own effect: regWindowBoundary, budgetSet, budgetGet, regStatus, regWindow,
regPlan. -/
def Obligations.GuaranteesFollowTheFloor : Prop :=
  (∀ s : State, s.quenched = false →
    Does .regWindowBoundary s (fun t => t.now = max s.now s.windowEnd ∧
      t.regulator.opened = t.now / (4000 * s.regulator.length) * (4000 * s.regulator.length) ∧
      t.regulator.budgets = (if s.regulator.due t.regulator.opened then s.regulator.newest else s.regulator.budgets) ∧
      t.regulator.pendingAt = (if s.regulator.due t.regulator.opened then none else s.regulator.pendingAt) ∧
      t.regulator.last = s.regulator.present ∧ t.regulator.present = [] ∧ t.regulator.length = s.eff rgCfgWindow ∧
      t.f rgCommitted = sumBw t.regulator.budgets ∧ t.f rgScaleK = scaleK t.regulator.floor (sumBw t.regulator.budgets) ∧
      t.f rgStatusScaled = b2n (decide (t.f rgScaleK < 1024)) ∧ t.f rgDemoted = s.regulator.demotedNow % 2 ^ 15 ∧
      t.queues = s.queues ∧ t.tables = s.tables)) ∧
  (∀ s : State, s.quenched = true →
    Does .regWindowBoundary s (fun t => t.regulator.floor = s.regulator.floor ∧ t.f rgScaleK = s.f rgScaleK ∧
      t.now = max s.now s.windowEnd ∧ Only [.time, .regs, .regulator, .pcs] s t ∧ OnlyRegs [rgDemoted, rgCommitted] s t)) ∧
  (∀ (s : State) (e : Sqe) (b : List Byte), Running e s → e.indirect = true → e.paramLen = 120 → b.length = 120 →
    budgetBufferOk b = true → s.exceeded (budgetClasses.foldl (putBudget b) s.regulator.newest) (s.f rgCfgPlanRate) e.tick = none →
    s.regulator.opened < s.nextWindowTick →
    Does (.budgetSet e (.data b)) s (fun t => t.regulator = { s.regulator with
        newest := budgetClasses.foldl (putBudget b) s.regulator.newest, pendingAt := some s.nextWindowTick } ∧
      Posts e stOk (packBytes [(0, 8, s.nextWindowTick), (8, 4, sumBw t.regulator.newest)]) [] s t ∧
      Only (.regulator :: ringParts) s t ∧ OnlyRegs (ringRegs e.ring) s t)) ∧
  (∀ (s : State) (e : Sqe) (b : List Byte) (x : Nat × Nat × Nat), Running e s → e.indirect = true → e.paramLen = 120 → b.length = 120 →
    budgetBufferOk b = true → s.exceeded (budgetClasses.foldl (putBudget b) s.regulator.newest) (s.f rgCfgPlanRate) e.tick = some x →
    Answers (.budgetSet e (.data b)) e stGuaranteeExceeded (packBytes [(0, 1, x.1), (4, 4, x.2.1), (8, 4, x.2.2)]) s) ∧
  (∀ (s : State) (e : Sqe) (h : HostRead), Running e s → e.paramLen ≠ 120 → Answers (.budgetSet e h) e stBadLength 0 s) ∧
  (∀ (s : State) (e : Sqe), Running e s → e.par 16 1 ≤ 14 → Answers (.budgetGet e) e stOk (packBytes [(0, 4, (s.budget (e.par 16 1)).bw),
    (4, 2, (s.budget (e.par 16 1)).cru), (6, 1, (s.budget (e.par 16 1)).thr), (8, 4, s.scaledSectors (e.par 16 1)),
    (12, 2, s.headHeld (e.par 16 1)), (14, 2, s.classThreads (e.par 16 1)), (16, 8, Map.get (fun _ => 0) s.regulator.last (e.par 16 1))]) s) ∧
  (∀ (s : State) (e : Sqe), Running e s → 14 < e.par 16 1 → Answers (.budgetGet e) e stBadParam 0 s) ∧
  (∀ (s : State) (e : Sqe), Running e s → Answers (.regStatus e) e stOk (packBytes [(0, 4, s.regulator.floor / 32),
    (4, 4, s.f rgCommitted), (8, 2, s.f rgScaleK), (10, 1, s.f rgStatusScaled + 2 * s.f rgStatusBreach), (12, 2, s.eff rgCfgWindow),
    (14, 1, s.f rgCfgPlanRate), (16, 2, s.f rgDemoted)]) s) ∧
  (∀ (s : State) (e : Sqe), Running e s → 1 ≤ e.par 16 2 → e.par 16 2 ≤ 1000 →
    Does (.regWindow e) s (fun t => t.f rgCfgWindow = e.par 16 2 ∧ Posts e stOk 0 [] s t ∧ Only ringParts s t ∧
      OnlyRegs (rgCfgWindow :: ringRegs e.ring) s t)) ∧
  (∀ (s : State) (e : Sqe), Running e s → 1000 < e.par 16 2 → Answers (.regWindow e) e stBadParam 0 s) ∧
  (∀ (s : State) (e : Sqe), Running e s → e.par 16 1 ≤ 3 → s.exceeded s.regulator.newest (e.par 16 1) e.tick = none →
    Does (.regPlan e) s (fun t => t.f rgCfgPlanRate = e.par 16 1 ∧ Posts e stOk 0 [] s t ∧ Only ringParts s t ∧
      OnlyRegs (rgCfgPlanRate :: ringRegs e.ring) s t)) ∧
  (∀ (s : State) (e : Sqe) (b : List Byte), Running e s → e.indirect = true → e.paramLen = 120 → b.length = 120 →
    budgetBufferOk b = true → s.exceeded (budgetClasses.foldl (putBudget b) s.regulator.newest) (s.f rgCfgPlanRate) e.tick = none →
    s.nextWindowTick ≤ s.regulator.opened → s.quenched = false →
    Does (.budgetSet e (.data b)) s (fun t => t.regulator = { s.regulator with
        newest := budgetClasses.foldl (putBudget b) s.regulator.newest,
        budgets := budgetClasses.foldl (putBudget b) s.regulator.newest, pendingAt := none } ∧
      t.f rgCommitted = sumBw t.regulator.budgets ∧ t.f rgScaleK = scaleK s.regulator.floor (sumBw t.regulator.budgets) ∧
      t.f rgStatusScaled = b2n (decide (t.f rgScaleK < 1024)) ∧
      nextCompletion e stOk (packBytes [(0, 8, s.nextWindowTick), (8, 4, sumBw t.regulator.budgets)]) s ∈
        (if s.pcie.d3hot then t.heldOut else t.out) ∧
      Only ([.regulator, .log, .logWritten, .lines, .pulses, .sideband] ++ ringParts) s t)) ∧
  (∀ (s : State) (e : Sqe) (b : List Byte), Running e s → e.indirect = true → e.paramLen = 120 → b.length = 120 →
    budgetBufferOk b = true → s.exceeded (budgetClasses.foldl (putBudget b) s.regulator.newest) (s.f rgCfgPlanRate) e.tick = none →
    s.nextWindowTick ≤ s.regulator.opened → s.quenched = true →
    Does (.budgetSet e (.data b)) s (fun t => t.regulator = { s.regulator with
        newest := budgetClasses.foldl (putBudget b) s.regulator.newest,
        budgets := budgetClasses.foldl (putBudget b) s.regulator.newest, pendingAt := none } ∧
      t.f rgCommitted = sumBw t.regulator.budgets ∧
      Posts e stOk (packBytes [(0, 8, s.nextWindowTick), (8, 4, sumBw t.regulator.budgets)]) [] s t ∧
      Only (.regulator :: ringParts) s t ∧ OnlyRegs (rgCommitted :: ringRegs e.ring) s t))

/-- The controller queues (R381 to R387, R390, R398, R402): a request takes an entry, waits or is forwarded; one command at a time is
issued on each of the two buses: on the column bus it reads or writes its sector, and words that could not be read in the queue go on poisoned
(R410); on the row bus it opens a row for a request, which stays queued, or refreshes a bank; the counts of a window are cleared at its end, and flagged rows whose nodes are not all resident are counted (R300).

The constructors that it says run to a next state with their own effect: mcRequestArrival, requestUrgencyStep, mcCommandIssue,
activationWindowEnd. -/
def Obligations.ControllersServeRequests : Prop :=
  (∀ (s : State) (r : MemReq), r.pc ≤ 63 → r.bank ≤ 15 → r.row < s.bankRows → r.sector ≤ 7 → s.pcLive r.pc = true →
    s.portOpen r = false → Does (.mcRequestArrival r) s (fun t => t = s)) ∧
  (∀ (s : State) (r : MemReq), r.pc ≤ 63 → r.bank ≤ 15 → r.row < s.bankRows → r.sector ≤ 7 → s.pcLive r.pc = true →
    s.portOpen r = true → r.write = false →
    waitsBehind r (s.pcState r.pc).waiting = false → (s.pcState r.pc).newestWrite r = none → (s.pcState r.pc).hasRoom r = true →
    Does (.mcRequestArrival r) s (fun t => (∃ e, (t.pcState r.pc).reads = (s.pcState r.pc).reads ++ [e] ∧
      e.req = { r with hint := carriedHint r } ∧ e.urgency = 0 ∧
      e.seq = (s.pcState r.pc).arrivals) ∧ (t.pcState r.pc).writes = (s.pcState r.pc).writes ∧
      (∀ n, n ≠ r.pc → t.pcState n = s.pcState n) ∧ Only [.regs, .pcs, .regulator] s t)) ∧
  (∀ (s : State) (r : MemReq), r.pc ≤ 63 → r.bank ≤ 15 → r.row < s.bankRows → r.sector ≤ 7 → s.pcLive r.pc = true →
    s.portOpen r = true → (s.pcState r.pc).newestWrite r = none → (s.pcState r.pc).hasRoom r = false →
    Does (.mcRequestArrival r) s (fun t =>
      (t.pcState r.pc).waiting = (s.pcState r.pc).waiting ++ [{ r with hint := carriedHint r }] ∧
      (t.pcState r.pc).reads = (s.pcState r.pc).reads ∧ (t.pcState r.pc).writes = (s.pcState r.pc).writes ∧ Only [.regs, .pcs] s t)) ∧
  (∀ (s : State) (r : MemReq) (w : MemEntry), r.pc ≤ 63 → r.bank ≤ 15 → r.row < s.bankRows → r.sector ≤ 7 → s.pcLive r.pc = true →
    s.portOpen r = true → r.write = true → waitsBehind r (s.pcState r.pc).waiting = false → (s.pcState r.pc).newestWrite r = some w →
    (s.pcState r.pc).mergesInto r w = true →
    Does (.mcRequestArrival r) s (fun t => (t.pcState r.pc).reads = (s.pcState r.pc).reads ∧
      (t.pcState r.pc).writes.map (·.seq) = (s.pcState r.pc).writes.map (·.seq) ∧
      (∃ m ∈ (t.pcState r.pc).writes, m.seq = w.seq ∧ m.req.words = mergeWords w.req.words r.words) ∧
      t.f (mcPcMerge r.pc) = min (s.f (mcPcMerge r.pc) + 1) (2 ^ 32 - 1) ∧ Only [.regs, .pcs] s t)) ∧
  (∀ (s : State) (r : MemReq) (w : MemEntry), r.pc ≤ 63 → r.bank ≤ 15 → r.row < s.bankRows → r.sector ≤ 7 → s.pcLive r.pc = true →
    s.portOpen r = true → r.write = false → waitsBehind r (s.pcState r.pc).waiting = false →
    (s.pcState r.pc).newestWrite r = some w → fullMask w.req.words = true →
    Does (.mcRequestArrival r) s (fun t => t.out = .sector r.pc r.bank r.row r.sector w.req.words w.bad :: s.out ∧ t.pcs = s.pcs ∧
      t.f (mcPcFwd r.pc) = min (s.f (mcPcFwd r.pc) + 1) (2 ^ 32 - 1))) ∧
  (∀ (s : State) (n i : Nat) (e : MemEntry), (s.pcState n).reads[i]? = some e → e.urgency < 3 →
    Does (.requestUrgencyStep n false i) s (fun t => (∃ f, (t.pcState n).reads[i]? = some f ∧ f.req = e.req ∧
      f.urgency = e.urgency + 1) ∧ (t.pcState n).writes = (s.pcState n).writes ∧ Only [.regs, .pcs] s t)) ∧
  (∀ (s : State) (n i : Nat) (l : List MemSlot) (e : MemEntry), n ≤ 63 → s.windows = [] → s.pcLive n = true → s.pcAsleep n = false →
    s.stackAsleep = false → s.chooseSlot n (l.filter (fun c => !s.onRowBus n c)) = some (.read i) → (s.pcState n).reads[i]? = some e →
    e.req.pc = n → e.req.write = false →
    (s.pcState n).waiting = [] →
    Does (.mcCommandIssue n l) s (fun t => (t.pcState n).reads = (s.pcState n).reads.filter (fun o => o.seq != e.seq) ∧
      .sector n e.req.bank e.req.row e.req.sector (s.sectorWords e.req) (s.poisonedIn e) ∈ t.out ∧ t.mem = s.mem)) ∧
  (∀ (s : State) (n i k v : Nat) (l : List MemSlot) (e : MemEntry), n ≤ 63 → s.windows = [] → s.pcLive n = true → s.pcAsleep n = false →
    s.stackAsleep = false → s.chooseSlot n (l.filter (fun c => !s.onRowBus n c)) = some (.write i) → (s.pcState n).writes[i]? = some e →
    e.req.pc = n →
    e.req.write = true → e.req.words = [(k, v)] → k < 32 → (s.pcState n).waiting = [] →
    Does (.mcCommandIssue n l) s (fun t => (t.pcState n).writes = (s.pcState n).writes.filter (fun o => o.seq != e.seq) ∧
      t.stackBytes (s.sectorBase n e.req.bank e.req.row e.req.sector + 8 * k) 8 = leBytes 8 v ∧
      (k ∈ e.bad → s.sectorWord e.req k ∈ t.integrity.poisoned))) ∧
  (∀ (s : State) (n b : Nat) (l : List MemSlot), n ≤ 63 → s.windows = [] → s.pcLive n = true → s.pcAsleep n = false →
    s.stackAsleep = false → s.chooseSlot n (l.filter (s.onRowBus n)) = some (.refresh b) →
    s.chooseSlot n (l.filter (fun c => !s.onRowBus n c)) = none → s.engineQueues = [] → (∀ p, (s.port p).awaiting = []) →
    Does (.mcCommandIssue n l) s (fun t =>
      Map.get (fun _ => 0) (t.pcState n).debt b = Map.get (fun _ => 0) (s.pcState n).debt b - 1 ∧
      Map.get (fun _ => none) (t.pcState n).openRows b = none ∧ Only [.regs, .pcs] s t)) ∧
  (∀ (s : State) (n i : Nat) (l : List MemSlot) (e : MemEntry), n ≤ 63 → s.windows = [] → s.pcLive n = true → s.pcAsleep n = false →
    s.stackAsleep = false → s.chooseSlot n (l.filter (s.onRowBus n)) = some (.read i) →
    s.chooseSlot n (l.filter (fun c => !s.onRowBus n c)) = none → (s.pcState n).reads[i]? = some e → e.req.pc = n →
    Does (.mcCommandIssue n l) s (fun t => (t.pcState n).reads = (s.pcState n).reads ∧ (t.pcState n).writes = (s.pcState n).writes ∧
      Map.get (fun _ => none) (t.pcState n).openRows e.req.bank = some ⟨e.req.row, false, false⟩ ∧
      t.f (mcPcAct n) = min (s.f (mcPcAct n) + 1) (2 ^ 32 - 1) ∧ t.mem = s.mem)) ∧
  (∀ s : State, Does .activationWindowEnd s (fun t =>
    t.marver = { s.marver with rowCounts := [], nodes := s.marver.nodes.map (fun n => { n with pinned := n.pinned - 1 }) } ∧
    t.stageRows = [] ∧ t.f mvRowsHeldAtEnd = min (s.f mvRowsHeldAtEnd +
      (s.marver.rowCounts.filter (fun c => c.flagged && !s.rowResident c)).length) 65535 ∧
    Only [.regs, .marver, .stageRows] s t ∧ OnlyRegs [mvRowsHeldAtEnd] s t))

/-- Refresh, power and policy of the controllers (R388, R391 to R398, R403).

The constructors that it says run to a next state with their own effect: refreshDue, pcPowerDownEntry, pcSelfRefreshEntry, pageIdleTimer,
calibrationHoldEnd, memInfo, mcPolicy, mcTargets. -/
def Obligations.ControllersRefreshAndSleep : Prop :=
  (∀ (s : State) (n bank : Nat), n ≤ 63 → bank ≤ 15 → s.pcLive n = true → s.pcAsleep n = false → s.stackAsleep = false →
    (s.pcState n).servesBank bank = true →
    Does (.refreshDue n bank) s (fun t =>
      Map.get (fun _ => 0) (t.pcState n).debt bank = min (Map.get (fun _ => 0) (s.pcState n).debt bank + 1) 4 ∧
      (∀ m, m ≠ n → t.pcState m = s.pcState m) ∧ Only [.regs, .pcs] s t)) ∧
  (∀ (s : State) (n bank : Nat), n ≤ 63 → bank ≤ 15 → s.pcLive n = true → s.pcAsleep n = false → s.stackAsleep = false →
    (s.pcState n).servesBank bank = false → 0 ≤ Map.get (fun _ => 0) (s.pcState n).debt bank →
    Does (.refreshDue n bank) s (fun t =>
      Map.get (fun _ => 0) (t.pcState n).debt bank = Map.get (fun _ => 0) (s.pcState n).debt bank ∧
      Map.get (fun _ => none) (t.pcState n).openRows bank = none ∧ Only [.regs, .pcs] s t)) ∧
  (∀ (s : State) (n : Nat), s.pcLive n = true → s.f (mcPcStatusState n) = 0 → (s.pcState n).empty = true →
    s.f (mcPwrCfgPdIdle (n / 4)) ≠ 0 → s.on (mcPcStatusCalHold n) = false →
    Does (.pcPowerDownEntry n) s (fun t => t.f (mcPcStatusState n) = 1 ∧ (t.pcState n).openRows = [] ∧ Only [.regs, .pcs] s t)) ∧
  (∀ (s : State) (n : Nat), s.pcLive n = true → s.f (mcPcStatusState n) < 2 → (s.pcState n).empty = true →
    s.f (mcPwrCfgSrIdle (n / 4)) ≠ 0 → s.on (mcPcStatusCalHold n) = false →
    Does (.pcSelfRefreshEntry n) s (fun t => t.f (mcPcStatusState n) = 2 ∧ t.f (mcPcRefreshDebt n) = 0 ∧ (t.pcState n).debt = [] ∧
      (t.pcState n).openRows = [] ∧ Only [.regs, .pcs] s t)) ∧
  (∀ (s : State) (n bank : Nat) (o : OpenRow), Map.get (fun _ => none) (s.pcState n).openRows bank = some o → o.timed = true →
    Does (.pageIdleTimer n bank) s (fun t => Map.get (fun _ => none) (t.pcState n).openRows bank = none ∧
      (t.pcState n).reads = (s.pcState n).reads ∧ Only [.regs, .pcs] s t)) ∧
  (∀ (s : State) (n : Nat), s.test.lastHeld = some n → s.on (mcPcStatusCalHold n) = true →
    Does .calibrationHoldEnd s (fun t => t.f (mcPcStatusCalHold n) = 0 ∧ t.f tcStatusCalActive = 0 ∧ t.f mvStatusCalActive = 0 ∧
      t.f tcCalCountHolds = min (s.f tcCalCountHolds + 1) 65535 ∧ Only [.regs] s t ∧
      OnlyRegs [mcPcStatusCalHold n, tcStatusCalActive, mvStatusCalActive, tcCalCountHolds] s t)) ∧
  (∀ (s : State) (e : Sqe), Running e s → Answers (.memInfo e) e stOk (packBytes
    [(0, 1, ((List.range s.dies).filter (fun i => !bitOf (s.f tcCulletLayer) i)).length), (1, 1, s.pcsPerDie), (2, 1, 16),
      (3, 1, 64 - popcount 64 (s.f tcCulletSlice)), (4, 4, s.bankRows),
      (8, 4, ((List.range 16).map (fun i => s.refreshCode (i + 1) * 4 ^ i)).sum), (12, 8, maskOf 64 s.pcLive),
      (20, 1, s.f (mcCtrlPolicy 0))]) s) ∧
  (∀ (s : State) (e : Sqe), Running e s → e.bit 18 1 = true → e.par 20 2 ≤ 2550 → e.par 20 2 % 10 = 0 → e.bit 18 2 = false →
    s.allCulledMcs (e.par 16 2) = false →
    Does (.mcPolicy e) s (fun t => (∀ m, m < 16 → bitOf (e.par 16 2) m = true → bitOf (s.f tcCulletMiscMc) m = false →
      t.f (mcCtrlPolicy m) = b2n (e.bit 18 0) ∧ t.f (mcCtrlIdle m) = e.par 20 2 / 10) ∧
      (∀ m, m < 16 → (bitOf (e.par 16 2) m = false ∨ bitOf (s.f tcCulletMiscMc) m = true) →
        t.f (mcCtrlPolicy m) = s.f (mcCtrlPolicy m)) ∧ Posts e stOk 0 [] s t ∧
      Only ringParts s t)) ∧
  (∀ (s : State) (e : Sqe), Running e s → e.bit 18 1 = true → 2550 < e.par 20 2 → Answers (.mcPolicy e) e stBadParam 0 s) ∧
  (∀ (s : State) (e : Sqe), Running e s → e.par 18 1 = 2 → e.par 20 2 ≠ 0 → e.par 23 1 < e.par 22 1 → 0 < e.par 23 1 →
    e.par 22 1 ≤ 64 → s.allCulledMcs (e.par 16 2) = false →
    Does (.mcTargets e) s (fun t => (∀ m, m < 16 → bitOf (e.par 16 2) m = true → bitOf (s.f tcCulletMiscMc) m = false →
      t.f (mcTgt1Tm m) = e.par 20 2 ∧ t.f (mcWqMarkHigh m) = e.par 22 1 ∧ t.f (mcWqMarkLow m) = e.par 23 1) ∧
      (∀ m, m < 16 → bitOf (s.f tcCulletMiscMc) m = true → t.f (mcTgt1Tm m) = s.f (mcTgt1Tm m)) ∧ Posts e stOk 0 [] s t ∧ Only ringParts s t)) ∧
  (∀ (s : State) (e : Sqe), Running e s → 5 < e.par 18 1 → Answers (.mcTargets e) e stBadParam 0 s)

/-- Error correction and scrubbing (R407 to R420, R425, R426, R429): what a syndrome, a leak, a rewrite and a sweep leave.

The constructors that it says run to a next state with their own effect: memoryReadReturn, bucketLeak, fluxRewrite, mirrorRepair,
fluxRowScrub, crucibleScrub, sweepLate, bankRetirement. -/
def Obligations.ErrorsAreCountedAndRepaired : Prop :=
  (∀ (s : State) (w : MemWord) (sy : Nat), sy % 256 = 0 → (∀ a, s.stackWord w = some a → a ∉ s.integrity.poisoned) →
    Does (.memoryReadReturn w sy) s (fun t => t = s)) ∧
  (∀ (s : State) (w : MemWord) (i : Nat), i < 8 → 200 ≤ w.unit →
    Does (.memoryReadReturn w (2 ^ i)) s (fun t => t.f igCe = min (s.f igCe + 1) (2 ^ 64 - 1) ∧ Only [.regs] s t ∧ OnlyRegs [igCe] s t)) ∧
  (∀ (s : State) (w : MemWord) (i : Nat), i < 8 → w.unit < 64 → s.keepsWord w = true →
    (∀ a, s.stackWord w = some a → a ∉ s.integrity.poisoned) → (∀ p ∈ (s.bucket w.unit).seen, p.1 ≠ w.position) →
    (s.bucket w.unit).count + 1 ≤ max 1 (s.f (igBktDepthDepth 0)) →
    Does (.memoryReadReturn w (2 ^ i)) s (fun t => t.f igCe = min (s.f igCe + 1) (2 ^ 64 - 1) ∧
      (t.bucket w.unit).count = (s.bucket w.unit).count + 1 ∧ .rewrite w ∈ t.integrity.jobs ∧ t.queues = s.queues ∧
      t.tables = s.tables)) ∧
  (∀ (s : State) (w : MemWord) (q i a : Nat), w.use = .packetWord q i → (s.queue q).configured = true → s.stackWord w = some a →
    a ∈ s.integrity.poisoned → Does (.memoryReadReturn w 0) s (fun t => i ∈ (t.queue q).badWords ∧
      t.f igPoisonReads = min (s.f igPoisonReads + 1) (2 ^ 32 - 1) ∧ t.f igUe = s.f igUe)) ∧
  (∀ (s : State) (w : MemWord) (q i : Nat), w.use = .packetWord q i → (s.queue q).configured = true →
    Does (.memoryReadReturn w 0xFF) s (fun t => t.f igPoisonReads = min (s.f igPoisonReads + 1) (2 ^ 32 - 1) ∧
      i ∈ (t.queue q).badWords ∧ (t.queue q).packets = (s.queue q).packets ∧ (∀ p, p ≠ q → t.queue p = s.queue p) ∧
      t.f igUe = s.f igUe)) ∧
  (∀ (s : State) (w : MemWord) (q : Nat), w.use = .context q → w.unit = 200 → (s.queue q).configured = true →
    s.firstRead w = true →
    Does (.memoryReadReturn w 0x03) s (fun t => t.f igUe = min (s.f igUe + 1) (2 ^ 32 - 1) ∧ t.f igStatusUeSeen = 1 ∧
      (t.queue q).badContext = true ∧ Newest t .ig 0x02 0xFF)) ∧
  (∀ (s : State) (u : Nat), u < 200 →
    Does (.bucketLeak u) s (fun t => (t.bucket u).count = (s.bucket u).count - 1 ∧ (∀ v, v ≠ u → t.bucket v = s.bucket v) ∧
      Only [.integrity] s t)) ∧
  (∀ (s : State) (w : MemWord) (rest : List IgJob), s.fluxPaused = false →
    s.integrity.jobs = .rewrite w :: rest →
    Does .fluxRewrite s (fun t => t.integrity.jobs = rest ∧ t.f fxCorrected = min (s.f fxCorrected + 1) (2 ^ 32 - 1) ∧
      (t.bucket w.unit).count = (s.bucket w.unit).count ∧ (∀ p ∈ (t.bucket w.unit).seen, p.1 ≠ w.position) ∧
      Only [.regs, .integrity] s t ∧ OnlyRegs [fxCorrected] s t)) ∧
  (∀ (s : State) (n : Nat) (key : List Byte) (w : MemWord) (rest : List IgJob) (x : Table),
    s.integrity.jobs = .mirror n key false w :: rest → s.table n = some x → s.fluxPaused = false → s.sourceBad n key false = false →
    Does (.mirrorRepair true) s (fun t => t.integrity.jobs = rest ∧ t.f igMirrorRepairs = min (s.f igMirrorRepairs + 1) (2 ^ 32 - 1) ∧
      (∃ y, t.table n = some y ∧ key ∉ y.badPrimary ∧ y.committed = x.committed) ∧ Newest t .ig 0x06 (logUnit w.unit).2)) ∧
  (∀ (s : State) (n late : Nat), s.fluxPaused = false → n ≤ 63 → s.pcLive n = true → s.on (mcPcStatusCalHold n) = false →
    ((s.scrubRow n).row < 2 ∨ s.rowGuard (s.scrubRow n) = true) →
    Does (.fluxRowScrub n late []) s (fun t => t.f (mcPcLate n) = min (s.f (mcPcLate n) + min late 8) (2 ^ 32 - 1) ∧
      t.f (mcPcAct n) = min (s.f (mcPcAct n) + 1) (2 ^ 32 - 1) ∧
      t.sweptRows n = s.sweptRows n + 1 ∧ (∀ m, m ≠ n → t.sweptRows m = s.sweptRows m) ∧ t.queues = s.queues ∧ t.tables = s.tables ∧ Only [.regs, .integrity, .pcs, .marver] s t)) ∧
  (∀ s : State, s.fluxPaused = false →
    Does (.crucibleScrub true []) s (fun t => t.f fxSweepsCrucible = min (s.f fxSweepsCrucible + 1) 65535 ∧ Only [.regs] s t ∧
      OnlyRegs [fxSweepsCrucible] s t)) ∧
  (∀ (s : State) (n : Nat), n ≤ 63 → s.pcLive n = true → s.sweepOpen n = true →
    Does (.sweepLate n) s (fun t => t.f fxStatusSweepLate = 1 ∧ Newest t .fx 0x01 n ∧ Only logParts s t ∧
      OnlyRegs (fxStatusSweepLate :: logRegs) s t)) ∧
  (∀ (s : State) (pc bank : Nat), s.quenched = false → s.integrity.requested = [(pc, bank)] →
    Does (.bankRetirement pc bank) s (fun t => t.bankRetired pc bank = true ∧ t.integrity.requested = [] ∧
      t.marver.retired = s.marver.retired ++ [(pc, bank)] ∧ t.f mvRetiredBanks = t.marver.retired.length ∧
      t.queues = s.queues ∧ t.tables = s.tables))

/-- The integrity commands (R429).

The constructors that it says run to a next state with their own effect: integrityInfo, scrubCfg, bucketCfg, retireCfg. -/
def Obligations.IntegrityCommandsAct : Prop :=
  (∀ (s : State) (e : Sqe), Running e s → Answers (.integrityInfo e) e stOk (packBytes [(0, 8, s.f igCe), (8, 4, s.f igUe),
    (12, 4, s.f igPoisonReads), (16, 2, s.f fxSweepsDram), (18, 2, s.f mvRetiredBanks), (20, 2, min 65535 (s.f igMirrorRepairs)),
    (22, 1, min 255 s.damagedTables), (23, 1, s.f fxStatusSweepLate)]) s) ∧
  (∀ (s : State) (e : Sqe), Running e s → 15 ≤ e.par 16 2 → e.par 16 2 ≤ 10080 →
    Does (.scrubCfg e) s (fun t => t.f fxCfgSweepMin = e.par 16 2 ∧
      (e.bit 18 0 = true → t.integrity = { s.integrity with swept := [], sweepsAll := 0 } ∧ t.f fxStatusProgress = 0) ∧
      (e.bit 18 0 = false → t.integrity = s.integrity ∧ t.f fxStatusProgress = s.f fxStatusProgress) ∧ Posts e stOk 0 [] s t ∧
      Only (.integrity :: ringParts) s t ∧ OnlyRegs (fxCfgSweepMin :: fxStatusProgress :: ringRegs e.ring) s t)) ∧
  (∀ (s : State) (e : Sqe), Running e s → (e.par 16 2 < 15 ∨ 10080 < e.par 16 2) → Answers (.scrubCfg e) e stBadParam 0 s) ∧
  (∀ (s : State) (e : Sqe), Running e s → e.par 16 1 ≤ 3 → e.par 18 2 ≠ 0 → e.par 20 4 ≠ 0 → e.par 20 4 ≤ 3600000 →
    Does (.bucketCfg e) s (fun t => t.f (igBktDepthDepth (e.par 16 1)) = e.par 18 2 ∧ t.f (igBktLeakMs (e.par 16 1)) = e.par 20 4 ∧
      (∀ u, u < 200 → bucketKind u = e.par 16 1 → (t.bucket u).count = 0) ∧
      (∀ u, u < 200 → bucketKind u ≠ e.par 16 1 → t.bucket u = s.bucket u) ∧ Posts e stOk 0 [] s t ∧
      Only (.integrity :: ringParts) s t)) ∧
  (∀ (s : State) (e : Sqe), Running e s → (3 < e.par 16 1 ∨ e.par 18 2 = 0 ∨ e.par 20 4 = 0 ∨ 3600000 < e.par 20 4) →
    Answers (.bucketCfg e) e stBadParam 0 s) ∧
  (∀ (s : State) (e : Sqe), Running e s → e.par 16 1 ≤ 1 → e.par 17 1 ≤ 16 → 1 ≤ e.par 18 1 → e.par 18 1 ≤ 168 →
    Does (.retireCfg e) s (fun t => t.f igRetireCfgAutoEn = e.par 16 1 ∧ t.f igRetireCfgMax = e.par 17 1 ∧
      t.f igRetireCfgUeWindow = e.par 18 1 ∧ Posts e stOk 0 [] s t ∧ Only ringParts s t ∧
      OnlyRegs (igRetireCfgAutoEn :: igRetireCfgMax :: igRetireCfgUeWindow :: ringRegs e.ring) s t)) ∧
  (∀ (s : State) (e : Sqe), Running e s → (16 < e.par 17 1 ∨ e.par 18 1 = 0 ∨ 168 < e.par 18 1) → Answers (.retireCfg e) e stBadParam 0 s)

/-- BIST on command (R498, R575, R577, R578): a command tests the units of its mask that are in service, one report for each; a unit
that fails leaves service; the command completes when its last unit has been tested.

The constructors that it says run to a next state with their own effect: bistRun, bistUnitDone. -/
def Obligations.BistRunsAndRetires : Prop :=
  (∀ (s : State) (e : Sqe), Running e s → s.quenched = false → 4 < e.par 16 1 → Answers (.bistRun e) e stBadParam 0 s) ∧
  (∀ (s : State) (e : Sqe) (k : UnitKind), Running e s → s.quenched = false → kindFrom (e.par 16 1) = some k →
    2 ^ unitsOf k ≤ e.par 20 8 → Answers (.bistRun e) e stBadParam 0 s) ∧
  (∀ (s : State) (e : Sqe) (p : Nat), Running e s → s.quenched = false → e.par 16 1 = 3 → e.par 20 8 < 2 ^ 16 → p < 16 →
    bitOf (e.par 20 8) p = true → s.unitCulled .portCore p = false → (s.port p).byCommand = false →
    Answers (.bistRun e) e stNotPermitted 0 s) ∧
  (∀ (s : State) (e : Sqe) (k : UnitKind), Running e s → s.quenched = false → kindFrom (e.par 16 1) = some k →
    e.par 20 8 < 2 ^ unitsOf k → e.par 20 8 &&& s.f (kindFld k) = e.par 20 8 →
    Does (.bistRun e) s (fun t => t.test = s.test ∧ t.f tcBistLastFailed = 0 ∧ t.f tcBistLastTested = 0 ∧
      Posts e stOk (packBytes [(0, 8, 0), (8, 8, e.par 20 8)]) [] s t ∧ Only ringParts s t)) ∧
  (∀ (s : State) (e : Sqe) (k : UnitKind) (m : Nat), Running e s → s.quenched = false → kindFrom (e.par 16 1) = some k →
    k ≠ .controller → k ≠ .portCore → m = e.par 20 8 - (e.par 20 8 &&& s.f (kindFld k)) → e.par 20 8 < 2 ^ unitsOf k → m ≠ 0 →
    Does (.bistRun e) s (fun t => t.test = { s.test with jobs := s.test.jobs ++
        [⟨e.ring, e.tag, k, m, 0, e.par 20 8 &&& s.f (kindFld k), 0⟩] } ∧ t.f tcStatusBistBusy = 1 ∧
      (s.test.jobs = [] → t.f tcStatusBistKind = kindNumber k) ∧ Only [.regs, .test] s t ∧
      OnlyRegs [tcStatusBistBusy, tcStatusBistKind] s t)) ∧
  (∀ (s : State) (e : Sqe) (m n : Nat), Running e s → s.quenched = false → e.par 16 1 = 2 → e.par 20 8 = 2 ^ m → m < 16 →
    s.unitCulled .controller m = false → n / 4 = m → s.pcLive n = true →
    Does (.bistRun e) s (fun t => bitOf t.test.pcBist n = true ∧
      t.test.jobs = s.test.jobs ++ [⟨e.ring, e.tag, .controller, 2 ^ m, 0, 0, 0⟩] ∧
      ((∀ k, k / 4 = m → (s.pcState k).empty = true) → t.f (mcPcStatusState n) = 2 ∧
        (t.pcState n).openRows = [] ∧
        (t.pcState n).reads = (s.pcState n).reads ∧ (∀ k, k / 4 ≠ m → t.pcState k = s.pcState k) ∧ Only [.regs, .pcs, .test] s t))) ∧
  (∀ (s : State) (e : Sqe) (j : BistJob) (u : Nat), Running e s → s.quenched = false → s.test.jobs = [j] → j.kind = .engine →
    j.todo = 2 ^ u → j.ring = e.ring → j.tag = e.tag → u < 64 → s.unitCulled .engine u = false →
    s.testReady .engine u (s.jobTick j) = true →
    Does (.bistUnitDone .engine u true) s (fun t => t.test = { s.test with jobs := [], reloading := setBit s.test.reloading u } ∧
      t.f tcStatusBistBusy = 0 ∧
      t.f tcBistLastFailed = popcount 64 j.failed % 256 ∧ t.f tcBistLastTested = (j.tested + 1) % 256 ∧
      t.f tcCulletEng = s.f tcCulletEng ∧ Posts e stOk (packBytes [(0, 8, j.failed), (8, 8, j.skipped)]) [] s t)) ∧
  (∀ (s : State) (j : BistJob) (u : Nat), s.quenched = false → s.halted = false → s.test.jobs = [j] → j.kind = .engine → u < 64 →
    bitOf j.todo u = true → clearBit j.todo u ≠ 0 → s.unitCulled .engine u = false → s.testReady .engine u (s.jobTick j) = true →
    Does (.bistUnitDone .engine u false) s (fun t => t.test = { s.test with jobs :=
        [{ j with todo := clearBit j.todo u, failed := setBit j.failed u, tested := j.tested + 1 }] } ∧
      bitOf (t.f tcCulletEng) u = true ∧ bitOf (t.f teEngines) u = false ∧
      (∀ v, v < 64 → v ≠ u → bitOf (t.f tcCulletEng) v = bitOf (s.f tcCulletEng) v) ∧ Newest t .tc 0x01 u)) ∧
  (∀ (s : State) (j : BistJob) (u : Nat) (pass : Bool), s.test.jobs = [j] → s.unitCulled j.kind u = false →
    s.testReady j.kind u (s.jobTick j) = false → Does (.bistUnitDone j.kind u pass) s (fun t => t = s)) ∧
  (∀ (s : State) (k : UnitKind) (u : Nat) (pass : Bool), s.test.jobs = [] →
    Does (.bistUnitDone k u pass) s (fun t => t = s))

/-- The cullet map by command (R498, R579, R580): CULLET_GET writes it; CULLET_ADD adds engines, benches, port cores and queue manager
slices at once and holds pseudo-channels, slices, controllers and layers for the next full reset.

The constructors that it says run to a next state with their own effect: culletGet, culletAdd. -/
def Obligations.CulletCommandsAct : Prop :=
  (∀ (s : State) (e : Sqe), Running e s → e.par 16 8 % 16 = 0 →
    Does (.culletGet e) s (fun t => Posts e stOk (packBytes [(0, 2, s.culletUnits)]) [.hostWrite (e.par 16 8)
      (leBytes 8 (s.f tcCulletEng) ++ leBytes 1 (s.f tcCulletMiscBench) ++ leBytes 1 0 ++ leBytes 2 s.mapMcs ++
        leBytes 2 (s.f tcCulletPort) ++ leBytes 1 (s.f tcCulletMiscQms) ++ leBytes 1 0 ++ leBytes 8 s.mapSlices ++
        leBytes 8 s.mapPcs ++ leBytes 2 s.mapLayers ++ leBytes 30 0)] s t ∧
      Only ringParts s t ∧ OnlyRegs (ringRegs e.ring) s t)) ∧
  (∀ (s : State) (e : Sqe), Running e s → e.par 16 8 % 16 ≠ 0 → Answers (.culletGet e) e stBadParam 0 s) ∧
  (∀ (s : State) (e : Sqe), Running e s → Answers (.culletAdd e .badRequest) e stBadParam 0 s) ∧
  (∀ (s : State) (e : Sqe), Running e s → Answers (.culletAdd e .noCompletion) e stTimeout 0 s) ∧
  (∀ (s : State) (e : Sqe) (b : List Byte), Running e s → s.culletMapOk b = false → Answers (.culletAdd e (.data b)) e stBadParam 0 s) ∧
  (∀ (s : State) (e : Sqe) (b : List Byte), Running e s → s.culletMapOk b = true → s.takesLast (s.addMap b) = true →
    s.servedBefore e.tick = false → Does (.culletAdd e (.data b)) s (fun t => t = s)) ∧
  (∀ (s : State) (e : Sqe) (b : List Byte), Running e s → s.culletMapOk b = true →
    (s.takesLast (s.addMap b) = false ∨ s.servedBefore e.tick = true) →
    Does (.culletAdd e (.data b)) s (fun t =>
      (∀ u, u < 64 → bitOf (t.f tcCulletEng) u = (bitOf (s.f tcCulletEng) u || bitOf (bufNat b 0 8) u ||
        (bitOf (bufNat b 8 1) (u / 8) && !bitOf (s.f tcCulletMiscBench) (u / 8)))) ∧
      (∀ u, u < 8 → bitOf (t.f tcCulletMiscBench) u = (bitOf (s.f tcCulletMiscBench) u || bitOf (bufNat b 8 1) u)) ∧
      (∀ u, u < 16 → bitOf (t.f tcCulletPort) u = (bitOf (s.f tcCulletPort) u || bitOf (bufNat b 12 2) u)) ∧
      (∀ u, u < 8 → bitOf (t.f tcCulletMiscQms) u = (bitOf (s.f tcCulletMiscQms) u || bitOf (bufNat b 14 1) u)) ∧
      (∀ u, u < 16 → bitOf (t.f tcCulletPendMc) u = (bitOf (s.f tcCulletPendMc) u ||
        (bitOf (bufNat b 10 2) u && !bitOf (s.f tcCulletMiscMc) u))) ∧
      (∀ u, u < 64 → bitOf (t.f tcCulletPendSlice) u = (bitOf (s.f tcCulletPendSlice) u ||
        (bitOf (bufNat b 16 8) u && !bitOf (s.f tcCulletSlice) u))) ∧
      (∀ u, u < 64 → bitOf (t.f tcCulletPendPc) u = (bitOf (s.f tcCulletPendPc) u ||
        (bitOf (bufNat b 24 8) u && !bitOf s.mapPcs u))) ∧
      t.f tcCulletPc = s.f tcCulletPc ∧ t.f tcCulletMiscMc = s.f tcCulletMiscMc ∧ t.f tcCulletSlice = s.f tcCulletSlice ∧
      t.f tcCulletLayer = s.f tcCulletLayer ∧
      ∃ i ph h, .completion e.ring i ph e.tag stOk h (packBytes [(0, 2, t.culletUnits - s.culletUnits)]) ∈ t.out ++ t.heldOut))

/-- Calibration (R397, R498, R587 to R591): the settings, the rolling hold of one pseudo-channel with what it measures, its delays moving
by at
most 4 fine steps, and the image saved and restored.

The constructors that it says run to a next state with their own effect: calCfg, calSave, calRestore, calibrationHold. -/
def Obligations.CalibrationHoldsAndRestores : Prop :=
  (∀ (s : State) (e : Sqe), Running e s → e.par 18 2 = 0 → Answers (.calCfg e) e stBadParam 0 s) ∧
  (∀ (s : State) (e : Sqe), Running e s → e.par 18 2 ≠ 0 →
    Does (.calCfg e) s (fun t => t.f tcCalCfgEn = b2n (e.bit 16 0) ∧ t.f tcCalCfgSpacing = e.par 18 2 ∧ Posts e stOk 0 [] s t ∧
      Only ringParts s t ∧ OnlyRegs (tcCalCfgEn :: tcCalCfgSpacing :: ringRegs e.ring) s t)) ∧
  (∀ (s : State) (e : Sqe), Running e s → e.par 16 8 % 16 = 0 →
    Does (.calSave e) s (fun t => Posts e stOk (packBytes [(0, 4, s.calImage.length), (4, 4, crc32 s.calImage)])
      [.hostWrite (e.par 16 8) s.calImage] s t ∧ Only ringParts s t ∧ OnlyRegs (ringRegs e.ring) s t)) ∧
  (∀ (s : State) (e : Sqe), Running e s → e.par 16 8 % 16 ≠ 0 → Answers (.calSave e) e stBadParam 0 s) ∧
  (∀ s : State, s.calImage.length = 2084) ∧
  (∀ (s : State) (e : Sqe) (b : List Byte), Running e s → s.quenched = false → b.length ≠ 2084 →
    Answers (.calRestore e (.data b)) e stBadLength 0 s) ∧
  (∀ (s : State) (e : Sqe) (b : List Byte), Running e s → s.quenched = false → e.indirect = true → e.paramLen = 2084 →
    b.length = 2084 → crc32 (b.take 2080) ≠ bufNat b 2080 4 → Answers (.calRestore e (.data b)) e stBadParam 0 s) ∧
  (∀ (s : State) (e : Sqe) (b : List Byte), Running e s → s.quenched = false → e.indirect = true → e.paramLen = 2084 →
    b.length = 2084 → crc32 (b.take 2080) = bufNat b 2080 4 → bufNat b 8 8 ≠ s.serial →
    Answers (.calRestore e (.data b)) e stNotPermitted 0 s) ∧
  (∀ (s : State) (e : Sqe) (b r : List Byte) (n : Nat), Running e s → s.quenched = false → e.indirect = true → e.paramLen = 2084 →
    b.length = 2084 → crc32 (b.take 2080) = bufNat b 2080 4 → bufNat b 8 8 = s.serial → bufNat b 6 1 = s.grade →
    bufNat b 24 8 = 2 ^ n → n < 64 → s.on (mcPcStatusCalHold n) = false → bitOf s.test.pcBist n = false →
    s.pcLive n = true → r = (b.drop (32 + 32 * n)).take 32 → recordTsvs r = [] →
    Does (.calRestore e (.data b)) s (fun t => t.f (fld (mcPcBase n + 0x20) 0) = bufNat r 0 2 % 4096 ∧
      t.f (fld (mcPcBase n + 0x24) 0) = bufNat r 2 2 % 4096 ∧ t.f (fld (mcPcBase n + 0x28) 0) = bufNat r 4 2 % 4096 ∧
      t.f (fld (mcPcBase n + 0x2C) 0) = bufNat r 6 1 % 64 ∧ (t.pcState n).openRows = [] ∧
      t.f tcCalCountHolds = min (s.f tcCalCountHolds + 1) 65535 ∧ Posts e stOk (packBytes [(0, 8, 2 ^ n)]) [] s t ∧
      Only (.pcs :: ringParts) s t)) ∧
  (∀ (s : State) (e : Sqe) (b : List Byte) (n : Nat), Running e s → s.quenched = false → e.indirect = true → e.paramLen = 2084 →
    b.length = 2084 → crc32 (b.take 2080) = bufNat b 2080 4 → bufNat b 8 8 = s.serial → bufNat b 6 1 = s.grade →
    bitOf (bufNat b 24 8) n = true → n < 64 → s.on (mcPcStatusCalHold n) = true →
    Does (.calRestore e (.data b)) s (fun t => t = s)) ∧
  (∀ (s : State) (x : CalInput), s.f tcCalCfgEn = 0 → Does (.calibrationHold x) s (fun t => t = s)) ∧
  (∀ (s : State) (x : CalInput), s.on tcStatusCalActive = true → Does (.calibrationHold x) s (fun t => t = s)) ∧
  (∀ (s : State) (n : Nat), s.f tcCalCfgEn ≠ 0 → s.on tcStatusCalActive = false → s.stackAsleep = false → s.quenched = false →
    s.pilot.phase = .running → s.nextHold = some n →
    Does (.calibrationHold ⟨[], [], false⟩) s (fun t => t.f (mcPcStatusCalHold n) = 1 ∧ t.f tcStatusCalActive = 1 ∧
      t.f tcStatusCalPc = n ∧ (t.pcState n).openRows = [] ∧ (t.pcState n).reads = (s.pcState n).reads ∧
      (t.pcState n).writes = (s.pcState n).writes ∧ t.test.lastHeld = some n ∧ (∀ m, m ≠ n → t.pcState m = s.pcState m) ∧
      Only [.regs, .pcs, .test] s t)) ∧
  (∀ (s : State) (n k v : Nat), s.f tcCalCfgEn ≠ 0 → s.on tcStatusCalActive = false → s.stackAsleep = false → s.quenched = false →
    s.pilot.phase = .running → s.nextHold = some n → k ∈ [0x20, 0x24, 0x28] → v < 4096 → s.f (fld (mcPcBase n + k) 0) < 4096 →
    Does (.calibrationHold ⟨[(fld k 0, v)], [], false⟩) s (fun t =>
      t.f (fld (mcPcBase n + k) 0) ≤ s.f (fld (mcPcBase n + k) 0) + 4 ∧ s.f (fld (mcPcBase n + k) 0) ≤ t.f (fld (mcPcBase n + k) 0) + 4 ∧
      (v ≤ s.f (fld (mcPcBase n + k) 0) + 4 → s.f (fld (mcPcBase n + k) 0) ≤ v + 4 → t.f (fld (mcPcBase n + k) 0) = v))) ∧
  (∀ (s : State) (n g p : Nat), s.f tcCalCfgEn ≠ 0 → s.on tcStatusCalActive = false → s.stackAsleep = false → s.quenched = false →
    s.pilot.phase = .running → s.nextHold = some n → g ≤ 2 → p ≤ 33 → (s.spares n g).contains p = false → (s.spares n g).length < 2 →
    Does (.calibrationHold ⟨[], [(g, p)], false⟩) s (fun t => t.spares n g = s.spares n g ++ [p] ∧
      t.f tcSparesRuntime = min (s.f tcSparesRuntime + 1) 65535 ∧ Newest t .tc 0x02 n ∧ t.f tcCulletPc = s.f tcCulletPc)) ∧
  (∀ (s : State) (n g p : Nat), s.f tcCalCfgEn ≠ 0 → s.on tcStatusCalActive = false → s.stackAsleep = false → s.quenched = false →
    s.pilot.phase = .running → s.nextHold = some n → g ≤ 2 → p ≤ 33 → (s.spares n g).contains p = false → 2 ≤ (s.spares n g).length →
    Does (.calibrationHold ⟨[], [(g, p)], false⟩) s (fun t => bitOf (t.f tcCulletPc) n = true ∧ t.f (mcPcStatusCalHold n) = 0 ∧
      t.f tcCalFailCulled = min (s.f tcCalFailCulled + 1) 127 ∧ Newest t .tc 0x03 n))

/-- Firmware images (R499, R545, R546): FW_LOAD verifies, stores, marks and starts an image; FW_STORE verifies one into the slot not
in use; a check that fails ends the command with that check's status and changes nothing.

The constructors that it says run to a next state with their own effect: fwLoad, fwStore, fwInfo. -/
def Obligations.FirmwareImagesAreVerified : Prop :=
  (∀ (s : State) (e : Sqe) (i : FwImage), Running e s → s.quenched = false → s.fwRuns = false → s.on elStatusSvExpired = false →
    s.loadingElsewhere e = false → s.on devStatusStackFault = false → s.on fzStatusBootFault = false →
    imageLengthOk e i = true → s.imageCheck i = none →
    Does (.fwLoad e (.image i)) s (fun t => (∃ k, k ≤ 1 ∧ t.slot k = some i ∧ t.trust.marked = some k ∧ t.trust.runningSlot = k ∧
        (s.slot k = none ∨ ((s.slot 0).isSome = true ∧ (s.slot 1).isSome = true ∧ s.trust.marked ≠ some k))) ∧
      t.trust.running = some i ∧ t.f devStatusFwRunning = 1 ∧ t.pilot.svBeat = s.now ∧ t.f devStatusReportValid = 1 ∧
      t.pilot.svWatchdogArmed = true ∧ t.commits = [])) ∧
  (∀ (s : State) (e : Sqe) (h : ImageRead), Running e s → s.quenched = false → s.fwRuns = true →
    Answers (.fwLoad e h) e stNotPermitted 0 s) ∧
  (∀ (s : State) (e : Sqe) (h : ImageRead), Running e s → s.quenched = false → s.fwRuns = false → s.on elStatusSvExpired = false →
    s.loadingElsewhere e = false → s.on devStatusStackFault = true → Answers (.fwLoad e h) e stResourceCulled 0 s) ∧
  (∀ (s : State) (e : Sqe) (h : ImageRead), Running e s → s.quenched = false → s.fwRuns = false → s.on elStatusSvExpired = false →
    s.loadingElsewhere e = false → s.on devStatusStackFault = false → s.on fzStatusBootFault = true →
    Answers (.fwLoad e h) e stSecurityDenied 0 s) ∧
  (∀ (s : State) (e : Sqe) (i : FwImage), Running e s → s.quenched = false → s.fwRuns = true → imageLengthOk e i = true →
    s.imageCheck i = none →
    Does (.fwStore e (.image i)) s (fun t => ∃ k, k = 1 - s.trust.runningSlot ∧ t.slot k = some i ∧ t.slot (1 - k) = s.slot (1 - k) ∧
      t.trust.marked = some k ∧ t.trust.running = s.trust.running ∧ t.trust.runningSlot = s.trust.runningSlot ∧
      Posts e stOk (packBytes [(0, 4, i.version), (4, 1, k)]) [] s t ∧ Only (.trust :: ringParts) s t ∧
      OnlyRegs (ringRegs e.ring) s t)) ∧
  (∀ (s : State) (e : Sqe) (h : ImageRead), Running e s → s.quenched = false → s.fwRuns = false →
    Answers (.fwStore e h) e stNotPermitted 0 s) ∧
  (∀ (s : State) (e : Sqe) (i : FwImage), Running e s → s.quenched = false → s.fwRuns = true → imageLengthOk e i = false →
    Answers (.fwStore e (.image i)) e stBadLength 0 s) ∧
  (∀ (s : State) (e : Sqe) (i : FwImage), Running e s → s.quenched = false → s.fwRuns = true → imageLengthOk e i = true →
    i.formOk = true → bitOf i.grades s.grade = true → i.esOnly = false → (∀ k, k < 4 → s.slotDigest k ≠ i.keyDigest) →
    Answers (.fwStore e (.image i)) e stSignatureInvalid 0 s) ∧
  (∀ (s : State) (e : Sqe) (i : FwImage), Running e s → s.quenched = false → s.fwRuns = true → imageLengthOk e i = true →
    i.formOk = true → bitOf i.grades s.grade = false → Answers (.fwStore e (.image i)) e stNotPermitted 0 s) ∧
  (∀ (s : State) (e : Sqe) (i : FwImage) (k : Nat), Running e s → s.quenched = false → s.fwRuns = true → imageLengthOk e i = true →
    i.formOk = true → bitOf i.grades s.grade = true → i.esOnly = false → k < 4 → s.slotUsable k = true → s.slotDigest k = i.keyDigest →
    i.sigOk = true → i.bodyOk = true → i.secVersion < s.rollback → Answers (.fwStore e (.image i)) e stRollbackRejected 0 s) ∧
  (∀ (s : State) (e : Sqe), Running e s → Answers (.fwInfo e) e stOk (packBytes [(0, 4, (s.runningImage.map (·.version)).getD 0),
    (4, 1, s.trust.runningSlot), (5, 1, b2n s.trust.slot0.isSome + 2 * b2n s.trust.slot1.isSome +
      4 * b2n (s.trust.marked == some 1) + 8 * b2n (s.trust.marked == some 0)),
    (8, 4, (s.trust.slot0.map (·.version)).getD 0), (12, 4, (s.trust.slot1.map (·.version)).getD 0), (16, 2, s.rollback),
    (18, 4, s.latchedWord 3)]) s)

/-- Attestation (R551, R552): the signed report and the identity key; refused where the identity region is not sealed. The digest
and the signature are free functions of the model (Config.sha384, Config.sign, Config.identityKey). Reading and re-sensing the
fuse array (R500, R528, R538, R541): latched words of a region that no read-lock covers; SECRETS are never read; a re-sense
counts and reports, and changes nothing latched.

The constructors that it says run to a next state with their own effect: attest, idKeyRead, fuseRead, fuseResense, fuseResenseTimer. -/
def Obligations.FusesAndAttestationRead : Prop :=
  (∀ (s : State) (e : Sqe), Running e s → e.par 48 8 % 16 = 0 → 312 ≤ e.par 56 4 → s.trust.identity = true →
    Does (.attest e) s (fun t => Posts e stOk (packBytes [(0, 4, 312)])
      [.hostWrite (e.par 48 8) (s.attestReport (e.par 16 32) ++ leBytes 96 (Config.sign (s.attestReport (e.par 16 32))))] s t ∧
      Only ringParts s t ∧ OnlyRegs (ringRegs e.ring) s t)) ∧
  (∀ (s : State) (n : Nat), (s.attestReport n).length = 216 ∧ bufNat (s.attestReport n) 0 4 = 1 ∧ bufNat (s.attestReport n) 4 4 = 312 ∧
    bufNat (s.attestReport n) 8 32 = n % 2 ^ 256 ∧ bufNat (s.attestReport n) 40 8 = s.serial % 2 ^ 64 ∧
    bufNat (s.attestReport n) 48 1 = s.grade % 256 ∧ bufNat (s.attestReport n) 50 2 = s.rollback % 65536) ∧
  (∀ (s : State) (e : Sqe), Running e s → e.par 48 8 % 16 ≠ 0 → Answers (.attest e) e stBadParam 0 s) ∧
  (∀ (s : State) (e : Sqe), Running e s → e.par 48 8 % 16 = 0 → e.par 56 4 < 312 → Answers (.attest e) e stBadLength 0 s) ∧
  (∀ (s : State) (e : Sqe), Running e s → e.par 48 8 % 16 = 0 → 312 ≤ e.par 56 4 → s.trust.identity = false →
    Answers (.attest e) e stSecurityDenied 0 s) ∧
  (∀ (s : State) (e : Sqe), Running e s → e.par 16 8 % 16 = 0 → 212 ≤ e.par 24 4 → s.trust.identity = true →
    Does (.idKeyRead e) s (fun t => Posts e stOk (packBytes [(0, 4, 212)]) [.hostWrite (e.par 16 8) (leBytes 97 Config.identityKey ++
      leBytes 7 0 ++ leBytes 8 (s.latchedWord 0 + 2 ^ 32 * s.latchedWord 1) ++ leBytes 1 s.grade ++ leBytes 3 0 ++
      wordBytes s.trust.latched 16 24)] s t ∧ Only ringParts s t ∧ OnlyRegs (ringRegs e.ring) s t)) ∧
  (∀ (s : State) (e : Sqe), Running e s → e.par 16 8 % 16 = 0 → 212 ≤ e.par 24 4 → s.trust.identity = false →
    Answers (.idKeyRead e) e stSecurityDenied 0 s) ∧
  (∀ (s : State) (e : Sqe), Running e s → e.par 16 1 ≤ 7 → e.par 24 8 % 16 = 0 → e.par 16 1 ≠ 3 → s.readLocked (e.par 16 1) = false →
    e.par 20 2 + e.par 22 2 ≤ regionLen (e.par 16 1) →
    Does (.fuseRead e) s (fun t => Posts e stOk (packBytes [(0, 4, e.par 22 2),
      (4, 4, ((List.range (e.par 22 2)).filter (fun i => s.marginalWord (regionBase (e.par 16 1) + e.par 20 2 + i))).length)])
      [.hostWrite (e.par 24 8) (wordBytes s.trust.latched (regionBase (e.par 16 1) + e.par 20 2) (e.par 22 2))] s t ∧
      Only ringParts s t ∧ OnlyRegs (ringRegs e.ring) s t)) ∧
  (∀ (s : State) (e : Sqe), Running e s → e.par 16 1 = 3 → e.par 24 8 % 16 = 0 → Answers (.fuseRead e) e stSecurityDenied 0 s) ∧
  (∀ (s : State) (e : Sqe), Running e s → e.par 16 1 ≤ 7 → e.par 24 8 % 16 = 0 → s.readLocked (e.par 16 1) = true →
    Answers (.fuseRead e) e stSecurityDenied 0 s) ∧
  (∀ (s : State) (e : Sqe), Running e s → 7 < e.par 16 1 → Answers (.fuseRead e) e stBadParam 0 s) ∧
  (∀ (s : State) (e : Sqe) (r : Resense), Running e s → s.macroBusy e = false → s.differNow r = [] →
    (∀ w ∈ s.marginalNow r, s.marginalWord w = true) →
    Does (.fuseResense e r) s (fun t => t.f fzResenseStatMarginal = (s.marginalNow r).length ∧ t.f fzResenseStatDiffer = 0 ∧
      Posts e stOk (packBytes [(0, 4, (s.marginalNow r).length), (4, 4, 0)]) [] s t ∧ Only ringParts s t ∧
      OnlyRegs (fzResenseStatMarginal :: fzResenseStatDiffer :: ringRegs e.ring) s t)) ∧
  (∀ (s : State) (e : Sqe) (r : Resense), s.macroBusy e = true → Does (.fuseResense e r) s (fun t => t = s)) ∧
  (∀ (s : State) (r : Resense) (w : Nat), w < 2048 → (w ∈ s.differNow r ↔ (w ∈ r.differ ∨ fuseWord s.fuses.words w ≠ s.latchedWord w))) ∧
  (∀ (s : State) (r : Resense), s.f fzResensePeriod ≠ 0 → s.trust.job = none → s.differNow r ≠ [] →
    Does (.fuseResenseTimer r) s (fun t => t.f fzResenseStatUnstable = 1 ∧ t.f fzResenseStatDiffer = (s.differNow r).length ∧
      t.f fzResenseStatMarginal = (s.marginalNow r).length ∧ Newest t .fz 0x03 0xFF ∧ t.trust = s.trust ∧ t.fuses = s.fuses ∧
        Only logParts s t)) ∧
  (∀ (s : State) (r : Resense), s.f fzResensePeriod = 0 → Does (.fuseResenseTimer r) s (fun t => t = s))

/-- Blowing fuses (R499, R500, R527, R528, R539 to R542, R547, R548): the words and locks a command names, what verifies, what a pulse
that stops leaves, the refusals, and the wait for a command that the macro serves already.

The constructors that it says run to a next state with their own effect: fuseProgram, fuseLock, keyRevoke, rollbackAdvance,
vprogOutOfTolerance. -/
def Obligations.FuseCommandsBlowWhatTheyName : Prop :=
  (∀ (s : State) (e : Sqe) (b : List Byte) (r first n : Nat), Running e s → s.macroBusy e = false → s.trust.job = none →
    e.indirect = true → r = bufNat b 0 1 →
    first = bufNat b 2 2 → n = bufNat b 4 2 → 1 ≤ n → n ≤ 256 → bufNat b 1 1 = 0 → bufNat b 6 2 = 0 → b.length = 8 + 4 * n →
    e.paramLen = 8 + 4 * n → first + n ≤ regionLen r → (r = 5 ∨ r = 6) → s.writeLocked r = false →
    Does (.fuseProgram e (.data b) true .verified) s (fun t =>
      (∀ i, i < n → fuseWord t.fuses.words (regionBase r + first + i) =
        fuseWord s.fuses.words (regionBase r + first + i) ||| bufNat b (8 + 4 * i) 4) ∧
      (∀ w, (w < regionBase r + first ∨ regionBase r + first + n ≤ w) → fuseWord t.fuses.words w = fuseWord s.fuses.words w) ∧
      t.fuses.locks = s.fuses.locks ∧ t.fuses.weak = s.fuses.weak ∧ t.trust = s.trust ∧ t.f fzProgVprogOk = 1 ∧ t.f fzProgBusy = 0 ∧
      t.f fzProgStatus = stOk ∧ Posts e stOk 0 [] s t ∧ Only (.fuses :: ringParts) s t)) ∧
  (∀ (s : State) (e : Sqe) (b : List Byte) (v : Bool) (o : FuseOutcome), Running e s → s.macroBusy e = false → s.trust.job = none →
    e.indirect = true →
    bufNat b 0 1 < 5 → 1 ≤ bufNat b 4 2 → bufNat b 4 2 ≤ 256 → bufNat b 1 1 = 0 → bufNat b 6 2 = 0 →
    b.length = 8 + 4 * bufNat b 4 2 → e.paramLen = 8 + 4 * bufNat b 4 2 → bufNat b 2 2 + bufNat b 4 2 ≤ regionLen (bufNat b 0 1) →
    Answers (.fuseProgram e (.data b) v o) e stSecurityDenied 0 s) ∧
  (∀ (s : State) (e : Sqe) (b : List Byte) (v : Bool) (o : FuseOutcome) (r : Nat), Running e s → s.macroBusy e = false →
    s.trust.job = none →
    e.indirect = true → r = bufNat b 0 1 → (r = 5 ∨ r = 6) → 1 ≤ bufNat b 4 2 → bufNat b 4 2 ≤ 256 → bufNat b 1 1 = 0 →
    bufNat b 6 2 = 0 → b.length = 8 + 4 * bufNat b 4 2 → e.paramLen = 8 + 4 * bufNat b 4 2 →
    bufNat b 2 2 + bufNat b 4 2 ≤ regionLen r → s.writeLocked r = true →
    Answers (.fuseProgram e (.data b) v o) e stFuseLocked 0 s) ∧
  (∀ (s : State) (e : Sqe) (r bits : Nat), Running e s → s.macroBusy e = false → s.trust.job = none → r = e.par 16 1 → (r = 5 ∨ r = 6) →
    bits = b2n (e.bit 17 0) * 2 ^ (2 * r) + b2n (e.bit 17 1) * 2 ^ (2 * r + 1) →
    Does (.fuseLock e true .verified) s (fun t => t.fuses = { s.fuses with locks := s.fuses.locks ||| bits } ∧
      t.trust = { s.trust with bootLocks := s.trust.bootLocks ||| bits } ∧ (e.bit 17 0 = true → t.writeLocked r = true) ∧
      (e.bit 17 1 = true → t.readLocked r = true) ∧ Posts e stOk 0 [] s t ∧ Only (.fuses :: .trust :: ringParts) s t)) ∧
  (∀ (s : State) (e : Sqe) (v : Bool) (o : FuseOutcome), Running e s → s.macroBusy e = false → s.trust.job = none → e.par 16 1 < 5 →
    Answers (.fuseLock e v o) e stSecurityDenied 0 s) ∧
  (∀ (s : State) (e : Sqe) (o : FuseOutcome), Running e s → s.macroBusy e = false → s.trust.job = none → (e.par 16 1 = 5 ∨ e.par 16 1 = 6) →
    Does (.fuseLock e false o) s (fun t => t.fuses = s.fuses ∧ t.trust = s.trust ∧ t.f fzProgVprogOk = 0 ∧
      Posts e stNotPermitted 0 [] s t ∧ OnlyRegs (fzProgVprogOk :: ringRegs e.ring) s t)) ∧
  (∀ (s : State) (e : Sqe) (k : Nat), Running e s → s.macroBusy e = false → s.trust.job = none → k = e.par 16 1 → k ≤ 3 →
    s.revokeForbidden k = false →
    Does (.keyRevoke e true .verified) s (fun t =>
      fuseWord t.fuses.words 1272 = fuseWord s.fuses.words 1272 ||| 0xFF * 2 ^ (8 * k) ∧
      (∀ w, w ≠ 1272 → fuseWord t.fuses.words w = fuseWord s.fuses.words w) ∧ t.slotUsable k = false ∧
      t.trust = { s.trust with bootRevoked := setBit s.trust.bootRevoked k } ∧ Posts e stOk 0 [] s t ∧
      Only (.fuses :: .trust :: ringParts) s t)) ∧
  (∀ (s : State) (e : Sqe) (v : Bool) (o : FuseOutcome), Running e s → s.macroBusy e = false → s.trust.job = none → e.par 16 1 ≤ 3 →
    s.revokeForbidden (e.par 16 1) = true → Answers (.keyRevoke e v o) e stNotPermitted 0 s) ∧
  (∀ (s : State) (e : Sqe) (i : FwImage) (v : Nat), Running e s → s.macroBusy e = false → s.trust.job = none → v = e.par 16 2 →
    s.rollback < v → v ≤ 256 →
    s.runningImage = some i → v ≤ i.secVersion → s.writeLocked 4 = false →
    Does (.rollbackAdvance e true .verified) s (fun t => t.rollback = v ∧
      (∀ b, b < v → bitOf (fuseWord t.fuses.words (1344 + b / 32)) (b % 32) = true) ∧
      (∀ w, (w < 1344 ∨ 1352 ≤ w) → fuseWord t.fuses.words w = fuseWord s.fuses.words w) ∧ t.fuses.locks = s.fuses.locks ∧
      Posts e stOk 0 [] s t ∧ Only (.fuses :: .trust :: ringParts) s t)) ∧
  (∀ (s : State) (e : Sqe) (v : Bool) (o : FuseOutcome), Running e s → s.macroBusy e = false → s.trust.job = none →
    e.par 16 2 = s.rollback → e.par 16 2 ≤ 256 →
    Answers (.rollbackAdvance e v o) e stOk 0 s) ∧
  (∀ (s : State) (e : Sqe) (v : Bool) (o : FuseOutcome), Running e s → s.macroBusy e = false → s.trust.job = none →
    e.par 16 2 < s.rollback →
    Answers (.rollbackAdvance e v o) e stBadParam 0 s) ∧
  (∀ (s : State) (e : Sqe) (i : FwImage) (v : Bool) (o : FuseOutcome), Running e s → s.macroBusy e = false → s.trust.job = none →
    s.rollback < e.par 16 2 →
    e.par 16 2 ≤ 256 → s.runningImage = some i → i.secVersion < e.par 16 2 → Answers (.rollbackAdvance e v o) e stNotPermitted 0 s) ∧
  (∀ (s : State) (e : Sqe) (h : HostRead) (v : Bool) (o : FuseOutcome), s.macroBusy e = true →
    Does (.fuseProgram e h v o) s (fun t => t = s) ∧ Does (.fuseLock e v o) s (fun t => t = s) ∧
      Does (.keyRevoke e v o) s (fun t => t = s) ∧ Does (.rollbackAdvance e v o) s (fun t => t = s)) ∧
  (∀ (s : State) (j : FuseJob) (blown weak : Nat), s.trust.job = some j → j.word < 2048 →
    Does (.vprogOutOfTolerance blown weak) s (fun t => t.trust = { s.trust with job := none } ∧
      fuseWord t.fuses.words j.word = fuseWord s.fuses.words j.word ||| (blown &&& j.bits) ∧
      (∀ w, w ≠ j.word → fuseWord t.fuses.words w = fuseWord s.fuses.words w) ∧ t.fuses.locks = s.fuses.locks ∧
      t.f fzProgVprogOk = 0 ∧ t.f fzProgBusy = 0 ∧ t.f fzProgStatus = stInternalFault ∧ Newest t .fz 0x05 (regionOf j.word))) ∧
  (∀ (s : State) (blown weak : Nat), s.trust.job = none →
    Does (.vprogOutOfTolerance blown weak) s (fun t => t.f fzProgVprogOk = 0 ∧ Only [.regs] s t ∧ OnlyRegs [fzProgVprogOk] s t))

/-- The mailbox of the service firmware (R522, R523, R617, R618): fuse data, the closure flags, error log entries of its own, the
heartbeat, and the refusal of everything else.

The constructors that it says run to a next state with their own effect: heartbeat, fuseData, closureState, errlogWrite, mailboxRefused. -/
def Obligations.MailboxAnswersTheFirmware : Prop :=
  (∀ s : State, s.fwRuns = true → Does .heartbeat s (fun t => t.pilot = { s.pilot with svBeat := s.now } ∧
    (s.watchdogRuns = true → t.shown elWdogSvLeft = 2000) ∧ Only [.pilot] s t)) ∧
  (∀ (s : State) (slot r first n : Nat), r ≤ 7 → r ≠ 3 → s.readLocked r = false → first + n ≤ regionLen r →
    Does (.fuseData slot r first n) s (fun t => t.out = .mailbox slot stOk (wordBytes s.trust.latched (regionBase r + first) n) :: s.out ∧
      Only [.out] s t)) ∧
  (∀ (s : State) (slot first n : Nat), Does (.fuseData slot 3 first n) s (fun t =>
    t.out = .mailbox slot stSecurityDenied [] :: s.out ∧ t.f fzStatusMbxDenied = min (s.f fzStatusMbxDenied + 1) 65535 ∧
      Newest t .av 0x03 0xFF ∧ Only logParts s t ∧ OnlyRegs (fzStatusMbxDenied :: logRegs) s t)) ∧
  (∀ (s : State) (slot r first n : Nat), s.readLocked r = true → Does (.fuseData slot r first n) s (fun t =>
    t.out = .mailbox slot stSecurityDenied [] :: s.out ∧ t.f fzStatusMbxDenied = min (s.f fzStatusMbxDenied + 1) 65535 ∧
      Newest t .av 0x03 0xFF ∧ Only logParts s t ∧ OnlyRegs (fzStatusMbxDenied :: logRegs) s t)) ∧
  (∀ (s : State) (slot r first n : Nat), 7 < r ∨ regionLen r < first + n → Does (.fuseData slot r first n) s (fun t =>
    t.out = .mailbox slot stSecurityDenied [] :: s.out ∧ t.f fzStatusMbxDenied = min (s.f fzStatusMbxDenied + 1) 65535 ∧
      Newest t .av 0x03 0xFF ∧ Only logParts s t ∧ OnlyRegs (fzStatusMbxDenied :: logRegs) s t)) ∧
  (∀ (s : State) (slot : Nat), Does (.closureState slot) s (fun t =>
    t.out = .mailbox slot stOk (leBytes 1 (s.f fzCloseVendor + 2 * s.f fzCloseCustomer)) :: s.out ∧ Only [.out] s t)) ∧
  (∀ (s : State) (slot code unitKind unit sub object data : Nat), 0x40 ≤ code → code ≤ 0xFF → unit < 256 →
    Does (.errlogWrite slot true code unitKind unit sub object data) s (fun t => Newest t .sv code unit ∧
      t.out = .mailbox slot stOk [] :: s.out ∧ t.f elStatusAlertPend = s.f elStatusAlertPend ∧ Only logParts s t ∧
      OnlyRegs logRegs s t)) ∧
  (∀ (s : State) (slot code unitKind unit sub object data : Nat) (sv : Bool), sv = false ∨ code < 0x40 ∨ 0xFF < code →
    Does (.errlogWrite slot sv code unitKind unit sub object data) s (fun t =>
      t.f fzStatusMbxDenied = min (s.f fzStatusMbxDenied + 1) 65535 ∧ Newest t .av 0x03 0xFF ∧
      t.out = .mailbox slot stSecurityDenied [] :: s.out ∧ Only logParts s t ∧ OnlyRegs (fzStatusMbxDenied :: logRegs) s t)) ∧
  (∀ (s : State) (slot kind : Nat), Does (.mailboxRefused slot kind) s (fun t =>
    t.f fzStatusMbxDenied = min (s.f fzStatusMbxDenied + 1) 65535 ∧ Newest t .av 0x03 0xFF ∧
    t.out = .mailbox slot stSecurityDenied [] :: s.out ∧ Only logParts s t ∧ OnlyRegs (fzStatusMbxDenied :: logRegs) s t))

/-- A read of command code `code` over the sideband bus is answered with the bytes `b` and the PEC over the whole transaction (R594). -/
def SbReads (code : Nat) (b : List Byte) (s t : State) : Prop := t.out = .sbData b (s.sbPec code b) :: s.out ∧ Only [.out] s t

/-- Reads over the sideband bus (R595, R596, R598 to R600, R623): each returns one result formed when its code arrives, with the
PEC of R594; in safe hold IDENTITY and POWER are not acknowledged; the error log block advances its pointer only when it was read to
its end. Writes over the sideband bus (R596, R597, R600): a good write takes effect; one with bytes too many or a wrong PEC is discarded
whole, not acknowledged and counted, and one with too few bytes has no effect; QUENCH_WRITE sets and clears the sideband's own quench
source.

The constructors that it says run to a next state with their own effect: status, identity, power, level, hottest, therm0, therm8, therm16,
errlogPtrRead, quenchRead, errlog, alertResponse, errlogPtrWrite, quenchWrite, unlistedCommandCode. -/
def Obligations.SidebandTransfersAnswer : Prop :=
  (∀ s : State, s.sbAnswers = true →
    Does .status s (SbReads 0x01 (24 :: leBytes 24 s.health) s)) ∧
  (∀ s : State, s.sbAnswers = true → s.safeHold = false →
    Does .identity s (SbReads 0x02 (24 :: leBytes 24 s.identity) s)) ∧
  (∀ (s : State) (mw : Nat), s.sbAnswers = true → s.safeHold = false →
    Does (.power mw) s (SbReads 0x03 (24 :: leBytes 24 (s.power mw)) s)) ∧
  (∀ s : State, s.safeHold = true → Does .identity s (fun t => t.out = .sbNack :: s.out ∧
    t.f sbCountRefused = min (s.f sbCountRefused + 1) 65535 ∧ Only [.out, .regs] s t ∧ OnlyRegs [sbCountRefused] s t)) ∧
  (∀ (s : State) (mw : Nat), s.safeHold = true → Does (.power mw) s (fun t => t.out = .sbNack :: s.out ∧
    t.f sbCountRefused = min (s.f sbCountRefused + 1) 65535 ∧ Only [.out, .regs] s t ∧ OnlyRegs [sbCountRefused] s t)) ∧
  (∀ s : State, s.sbAnswers = true →
    Does .level s (SbReads 0x08 (leBytes 1 (s.f thStatusLevel + 8 * b2n s.quenched + 16 * b2n s.alertAsserted)) s)) ∧
  (∀ s : State, s.sbAnswers = true →
    Does .hottest s (SbReads 0x09 (leBytes 2 s.hottestTemp) s)) ∧
  (∀ s : State, s.sbAnswers = true →
    Does .therm0 s (SbReads 0x10 (24 :: leBytes 24 (s.thermRead 0)) s)) ∧
  (∀ s : State, s.sbAnswers = true →
    Does .therm8 s (SbReads 0x11 (24 :: leBytes 24 (s.thermRead 8)) s)) ∧
  (∀ s : State, s.sbAnswers = true →
    Does .therm16 s (SbReads 0x12 (24 :: leBytes 24 (s.thermRead 16)) s)) ∧
  (∀ s : State, s.sbAnswers = true →
    Does .errlogPtrRead s (SbReads 0x20 (leBytes 4 (s.f sbErrlogPtr)) s)) ∧
  (∀ s : State, s.sbAnswers = true →
    Does .quenchRead s (SbReads 0x30 (leBytes 1 (s.f thStatusSources)) s)) ∧
  (∀ s : State, s.sbAnswers = false → Does .status s (fun t => t.out = .sbNack :: s.out ∧ Only [.out] s t)) ∧
  (∀ (s : State) (es : List LogEntry) (a z : LogEntry), s.sbAnswers = true →
    es = (s.log.reverse.filter (fun n => decide (s.f sbErrlogPtr ≤ n.seq))).take 7 → es.head? = some a → es.getLast? = some z →
    Does (.errlog true) s (fun t => (∃ (b : Byte) (d : List Byte), d = b :: (leBytes 4 a.seq ++ leBytes 4 (nextSeq z.seq) ++
        leBytes 1 es.length ++ leBytes 2 (min (s.f elLost) 65535) ++ es.flatMap LogEntry.bytes) ∧
        t.out = .sbData d (s.sbPec 0x21 d) :: s.out) ∧
      t.f sbErrlogPtr = nextSeq z.seq ∧ Only [.out, .regs] s t ∧ OnlyRegs [sbErrlogPtr] s t)) ∧
  (∀ s : State, s.sbAnswers = true → Does (.errlog false) s (fun t => t.f sbErrlogPtr = s.f sbErrlogPtr ∧ Only [.out] s t)) ∧
  (∀ s : State, s.sbAnswers = true → s.alertAsserted = true →
    Does .alertResponse s (fun t => t.out = .sbData (leBytes 1 (2 * s.f sbStatusAddr))
      (BitVec.ofNat 8 (crc8 (0x19 :: leBytes 1 (2 * s.f sbStatusAddr)))) :: s.out ∧ Only [.out] s t)) ∧
  (∀ s : State, s.alertAsserted = false → Does .alertResponse s (fun t => t.out = .sbNack :: s.out ∧ Only [.out] s t)) ∧
  (∀ (s : State) (d : List Byte), s.sbAnswers = true → d.length = 4 → s.on sbCfgPecRequired = false →
    Does (.errlogPtrWrite ⟨d⟩) s (fun t => t.f sbErrlogPtr = bufNat d 0 4 ∧ Only [.regs] s t ∧ OnlyRegs [sbErrlogPtr] s t)) ∧
  (∀ (s : State) (d : List Byte) (c : Byte), s.sbAnswers = true → d.length = 4 → c.toNat = crc8 (s.sbWriteAddr :: 0x20 :: d) →
    Does (.errlogPtrWrite ⟨d ++ [c]⟩) s (fun t => t.f sbErrlogPtr = bufNat d 0 4 ∧ Only [.regs] s t ∧ OnlyRegs [sbErrlogPtr] s t)) ∧
  (∀ (s : State) (w : SbWrite), s.sbAnswers = true → w.bytes.length < 4 → Does (.errlogPtrWrite w) s (fun t => t = s)) ∧
  (∀ (s : State) (w : SbWrite), s.sbAnswers = true → 5 < w.bytes.length →
    Does (.errlogPtrWrite w) s (fun t => t.out = .sbNack :: s.out ∧ t.f sbCountRefused = min (s.f sbCountRefused + 1) 65535 ∧
      t.f sbErrlogPtr = s.f sbErrlogPtr ∧ Only [.out, .regs] s t ∧ OnlyRegs [sbStatusPecErr, sbCountRefused] s t)) ∧
  (∀ (s : State) (d : List Byte) (c : Byte), s.sbAnswers = true → d.length = 4 → c.toNat ≠ crc8 (s.sbWriteAddr :: 0x20 :: d) →
    Does (.errlogPtrWrite ⟨d ++ [c]⟩) s (fun t => t.f sbStatusPecErr = 1 ∧ t.f sbCountRefused = min (s.f sbCountRefused + 1) 65535 ∧
      t.out = .sbNack :: s.out ∧ Only [.out, .regs] s t ∧ OnlyRegs [sbStatusPecErr, sbCountRefused] s t)) ∧
  (∀ (s : State) (w : SbWrite), s.sbAnswers = true → w.bytes.length = 4 → s.on sbCfgPecRequired = true →
    Does (.errlogPtrWrite w) s (fun t => t = s)) ∧
  (∀ (s : State) (w : SbWrite), s.sbAnswers = true → s.sbWriteOk 0x30 w 1 = true → sbValue w 1 = 1 → s.halted = false →
    s.pilot.phase = .running → Does (.quenchWrite w) s (fun t => t.f sbQuenchReq = 1 ∧ t.quenched = true)) ∧
  (∀ (s : State) (w : SbWrite), s.sbAnswers = true → s.sbWriteOk 0x30 w 1 = true → sbValue w 1 = 1 → s.halted = false →
    s.pilot.phase = .running → s.quenched = true →
    Does (.quenchWrite w) s (fun t => t.f sbQuenchReq = 1 ∧ bitOf (t.f thStatusSources) 3 = true ∧ Only [.regs] s t ∧
      OnlyRegs [sbQuenchReq, thStatusSources] s t)) ∧
  (∀ (s : State) (w : SbWrite), s.sbAnswers = true → s.sbWriteOk 0x30 w 1 = true → sbValue w 1 = 0 → s.halted = false →
    s.pilot.phase = .running → s.quenched = true → clearBit (s.f thStatusSources) 3 ≠ 0 →
    Does (.quenchWrite w) s (fun t => t.f sbQuenchReq = 0 ∧ t.f thStatusSources = clearBit (s.f thStatusSources) 3 ∧
      t.quenched = true ∧ Only [.regs] s t ∧ OnlyRegs [sbQuenchReq, thStatusSources] s t)) ∧
  (∀ (s : State) (w : SbWrite), s.sbAnswers = true → s.sbWriteOk 0x30 w 1 = true → sbValue w 1 = 0 → s.halted = false →
    s.pilot.phase = .running → s.quenched = true → clearBit (s.f thStatusSources) 3 = 0 →
    Does (.quenchWrite w) s (fun t => t.f sbQuenchReq = 0 ∧ t.quenched = false)) ∧
  (∀ (s : State) (w : SbWrite), s.sbAnswers = true → s.sbWriteOk 0x30 w 1 = true → 1 < sbValue w 1 →
    Does (.quenchWrite w) s (fun t => t.out = .sbNack :: s.out ∧ t.f sbCountRefused = min (s.f sbCountRefused + 1) 65535 ∧
      Only [.out, .regs] s t ∧ OnlyRegs [sbCountRefused] s t)) ∧
  (∀ (s : State) (w : SbWrite), s.sbAnswers = true → s.sbWriteOk 0x30 w 1 = true → sbValue w 1 ≤ 1 → s.safeHold = true →
    Does (.quenchWrite w) s (fun t => t.f sbQuenchReq = sbValue w 1 ∧ Only [.regs] s t ∧ OnlyRegs [sbQuenchReq] s t)) ∧
  (∀ s : State, s.sbAnswers = true → Does (.unlistedCommandCode 0x40 false) s (fun t => t.out = .sbNack :: s.out ∧
    t.f sbCountRefused = min (s.f sbCountRefused + 1) 65535 ∧ Only [.out, .regs] s t ∧ OnlyRegs [sbCountRefused] s t)) ∧
  (∀ s : State, s.sbAnswers = true → Does (.unlistedCommandCode 0x01 true) s (fun t => t.out = .sbNack :: s.out ∧
    t.f sbCountRefused = min (s.f sbCountRefused + 1) 65535))

/-- Lines held low, Host Notify and lost arbitration (R601, R602, R605 to R607).

The constructors that it says run to a next state with their own effect: sclTimeout, sdaTimeout, busClear, sdaSeenHigh, hostNotify,
hostNotifyRetry, arbitrationRetry. -/
def Obligations.SidebandBusRecoversAndNotifies : Prop :=
  (∀ s : State, Does .sclTimeout s (fun t => t.f sbStatusSclTimeout = 1 ∧ t.sideband.notifying = false ∧
    t.sideband.eepromBusy = false ∧ Newest t .sb 0x01 0xFF ∧ Only logParts s t ∧ OnlyRegs (sbStatusSclTimeout :: logRegs) s t)) ∧
  (∀ s : State, s.on sbStatusCtlEn = true → Does .sdaTimeout s (fun t => t.f sbStatusSdaTimeout = 1 ∧ t.sideband.clearing = true ∧
    t.sideband.clearTries = 0 ∧ Newest t .sb 0x02 0xFF ∧ Only logParts s t ∧ OnlyRegs (sbStatusSdaTimeout :: logRegs) s t)) ∧
  (∀ s : State, s.on sbStatusCtlEn = false → Does .sdaTimeout s (fun t => t.f sbStatusSdaTimeout = 1 ∧
    t.sideband.clearing = s.sideband.clearing ∧ Newest t .sb 0x02 0xFF)) ∧
  (∀ s : State, s.on sbStatusCtlEn = true → s.sideband.clearTries < 10 →
    Does (.busClear true) s (fun t => t.f sbStatusSdaStuck = 0 ∧ 
      t.sideband = { s.sideband with clearing := false, clearTries := 0, eepromWanted := true } ∧ Only [.regs, .sideband] s t ∧
        OnlyRegs [sbStatusSdaStuck] s t)) ∧
  (∀ s : State, s.on sbStatusCtlEn = true → s.sideband.clearTries < 9 →
    Does (.busClear false) s (fun t => t.f sbStatusSdaStuck = 1 ∧ t.sideband.clearTries = s.sideband.clearTries + 1 ∧
      t.sideband.clearing = true ∧ Only [.regs, .sideband] s t ∧ OnlyRegs [sbStatusSdaStuck] s t)) ∧
  (∀ s : State, s.on sbStatusCtlEn = true → s.sideband.clearTries = 9 →
    Does (.busClear false) s (fun t => t.f sbStatusSdaStuck = 1 ∧ t.f sbStatusClearGaveUp = 1 ∧ t.sideband.clearing = false ∧
      Newest t .sb 0x03 0xFF ∧ Only logParts s t)) ∧
  (∀ (s : State) (up : Bool), s.on sbStatusCtlEn = false → Does (.busClear up) s (fun t => t = s)) ∧
  (∀ s : State, Does .sdaSeenHigh s (fun t => t.f sbStatusSdaStuck = 0 ∧ t.sideband.clearing = false ∧
    Only [.regs, .sideband] s t ∧ OnlyRegs [sbStatusSdaStuck] s t)) ∧
  (∀ s : State, s.sbController = true → s.on sbHnCfgEn = true → s.sbAnswers = true → s.sideband.notifying = false →
    s.notifyDue = true →
    Does (.hostNotify .acknowledged) s (fun t => t.out = .notify (s.f sbHnCfgTarget) s.notifyBytes :: s.out ∧
      t.f sbCount2HnSent = min (s.f sbCount2HnSent + 1) 65535 ∧ t.sideband.lastLow = s.levelByte ∧ t.sideband.newEntry = false ∧
      t.sideband.notifyNumber = (s.sideband.notifyNumber + 1) % 256 ∧ Only [.out, .regs, .sideband] s t ∧
      OnlyRegs [sbCount2HnSent] s t)) ∧
  (∀ s : State, s.notifyDue = false → Does (.hostNotify .acknowledged) s (fun t => t = s)) ∧
  (∀ s : State, s.sbController = true → s.on sbHnCfgEn = true → s.sbAnswers = true → s.sideband.notifying = false →
    s.notifyDue = true → s.sideband.failures = 0 →
    Does (.hostNotify .notAcknowledged) s (fun t => t.sideband.notifying = true ∧ t.sideband.failures = 1 ∧
      t.sideband.newEntry = s.sideband.newEntry ∧ t.out = s.out ∧ Only [.sideband] s t)) ∧
  (∀ s : State, s.sbController = true → s.sbAnswers = true → s.sideband.notifying = true → s.sideband.failures = 3 →
    Does (.hostNotifyRetry .notAcknowledged) s (fun t => t.sideband.notifying = false ∧ t.sideband.failures = 0 ∧
      t.f sbCount2HnDropped = min (s.f sbCount2HnDropped + 1) 255 ∧ Only [.regs, .sideband] s t ∧ OnlyRegs [sbCount2HnDropped] s t)) ∧
  (∀ s : State, s.sbController = true → s.sbAnswers = true → s.sideband.notifying = true → 1 ≤ s.sideband.failures →
    Does (.hostNotifyRetry .acknowledged) s (fun t => t.out = .notify (s.f sbHnCfgTarget) s.notifyBytes :: s.out ∧
      t.sideband.notifying = false ∧ t.sideband.failures = 0)) ∧
  (∀ s : State, s.sideband.eepromRetry = false → s.sideband.notifying = true → 1 ≤ s.sideband.arbRetries →
    s.sideband.arbRetries < 3 →
    Does (.arbitrationRetry .arbitrationLost) s (fun t => t.sideband.arbRetries = s.sideband.arbRetries + 1 ∧
      t.sideband.notifying = true ∧ t.f sbCountArbLost = min (s.f sbCountArbLost + 1) 65535 ∧ t.out = s.out ∧
      Only [.regs, .sideband] s t ∧ OnlyRegs [sbCountArbLost] s t)) ∧
  (∀ s : State, s.sideband.eepromRetry = false → s.sideband.notifying = true → 1 ≤ s.sideband.arbRetries →
    Does (.arbitrationRetry .acknowledged) s (fun t => t.out = .notify (s.f sbHnCfgTarget) s.notifyBytes :: s.out ∧
      t.sideband.notifying = false ∧ t.sideband.arbRetries = 0))

/-- The boot EEPROM (R603, R604): it is read after step 5 with the controller role enabled; its contents are applied as one set, or
nothing is applied and the reason reported.

The constructors that it says run to a next state with their own effect: eepromRead, eepromReadDone. -/
def Obligations.EepromContentsApplyAsOneSet : Prop :=
  (∀ s : State, s.sbController = true → s.sideband.eepromWanted = true → s.sideband.eepromRetry = false →
    Does (.eepromRead .acknowledged) s (fun t => t.out = .eepromRead :: s.out ∧ t.sideband.eepromBusy = true ∧
      t.sideband.eepromWanted = false ∧ Only [.out, .sideband] s t)) ∧
  (∀ s : State, s.sideband.eepromWanted = false → Does (.eepromRead .acknowledged) s (fun t => t = s)) ∧
  (∀ s : State, s.sbController = true → s.sideband.eepromWanted = true → s.sideband.eepromRetry = false →
    Does (.eepromRead .notAcknowledged) s (fun t => t.f sbStatusEepromResult = 2 ∧ t.sideband.eepromBusy = false ∧
      Newest t .sb 0x04 0xFF ∧ Only logParts s t ∧ OnlyRegs (sbStatusEepromResult :: logRegs) s t)) ∧
  (∀ s : State, s.sideband.eepromBusy = true → Does (.eepromReadDone .noAck) s (fun t => t.f sbStatusEepromResult = 2 ∧
    Newest t .sb 0x04 0xFF ∧ Only logParts s t ∧ OnlyRegs (sbStatusEepromResult :: logRegs) s t)) ∧
  (∀ (s : State) (b : List Byte), s.sideband.eepromBusy = true → bufNat b 0 4 ≠ 0x42534C4F →
    Does (.eepromReadDone (.bytes b)) s (fun t => t.f sbStatusEepromResult = 3 ∧ Newest t .sb 0x04 0xFF ∧ Only logParts s t ∧
      OnlyRegs (sbStatusEepromResult :: logRegs) s t)) ∧
  (∀ (s : State) (b : List Byte), s.sideband.eepromBusy = true → bufNat b 0 4 = 0x42534C4F → bufNat b 4 1 = 1 → bufNat b 6 1 < 8 →
    bufNat b 14 14 = 0 → crc32 (b.take 28) ≠ bufNat b 28 4 →
    Does (.eepromReadDone (.bytes b)) s (fun t => t.f sbStatusEepromResult = 4 ∧ Newest t .sb 0x04 0xFF ∧ Only logParts s t ∧
      OnlyRegs (sbStatusEepromResult :: logRegs) s t)) ∧
  (∀ (s : State) (b : List Byte), s.sideband.eepromBusy = true → bufNat b 0 4 = 0x42534C4F → bufNat b 4 1 = 1 → bufNat b 6 1 < 8 →
    bufNat b 14 14 = 0 → crc32 (b.take 28) = bufNat b 28 4 → bufNat b 5 1 ≤ 2 → 0x08 ≤ bufNat b 7 1 → bufNat b 7 1 ≤ 0x77 →
    bufNat b 12 2 ≠ 0 → s.eepromWarnOk true (bufNat b 8 2) = true → s.eepromWarnOk false (bufNat b 10 2) = true →
    Does (.eepromReadDone (.bytes b)) s (fun t => t.f sbStatusEepromResult = 1 ∧ t.f sbCfgCtlSpeed = bufNat b 5 1 ∧
      t.f sbHnCfgEn = bufNat b 6 1 % 2 ∧ t.f sbHnCfgPec = bufNat b 6 1 / 2 % 2 ∧ t.f sbCfgPecRequired = bufNat b 6 1 / 4 % 2 ∧
      t.f sbHnCfgTarget = bufNat b 7 1 ∧ t.f sbHnCfgMinGap = bufNat b 12 2 ∧
      (bufNat b 8 2 ≠ 0 → t.f thThrD0Warn = bufNat b 8 2) ∧ (bufNat b 10 2 ≠ 0 → t.f thThrB0Warn = bufNat b 10 2) ∧
      t.sideband = { s.sideband with eepromBusy := false } ∧ Only [.regs, .sideband] s t ∧
      OnlyRegs [sbStatusEepromResult, sbCfgCtlSpeed, sbHnCfgEn, sbHnCfgPec, sbCfgPecRequired, sbHnCfgTarget, sbHnCfgMinGap,
        thThrD0Warn, thThrB0Warn] s t))

/-- KEY_REVOKE (R548): it blows the 8 revocation bits of its slot; it is refused with NOT_PERMITTED where the slot's digest is that of
the key that signed the running firmware, unless another usable slot holds the same digest.

The constructors that it says run to a next state with their own effect: keyRevoke. -/
def Obligations.KeyRevokeBlowsItsSlot : Prop :=
  (∀ (s : State) (e : Sqe) (k : Nat), Running e s → s.macroBusy e = false → s.trust.job = none → k = e.par 16 1 → k ≤ 3 →
    (∀ i, s.runningImage = some i → s.slotDigest k = i.keyDigest →
      ∃ j, j < 4 ∧ j ≠ k ∧ s.slotUsable j = true ∧ s.slotDigest j = s.slotDigest k) →
    Does (.keyRevoke e true .verified) s (fun t => (∀ b, b < 8 → t.isBlown 1272 (8 * k + b) = true) ∧
      (∀ w b, (w ≠ 1272 ∨ b < 8 * k ∨ 8 * k + 8 ≤ b) → t.isBlown w b = s.isBlown w b) ∧ t.slotUsable k = false ∧
      Posts e stOk 0 [] s t)) ∧
  (∀ (s : State) (e : Sqe) (k : Nat) (v : Bool) (o : FuseOutcome) (i : FwImage), Running e s → s.macroBusy e = false →
    s.trust.job = none → k = e.par 16 1 → k ≤ 3 → s.runningImage = some i → s.slotDigest k = i.keyDigest →
    (∀ j, j < 4 → j ≠ k → s.slotUsable j = true → s.slotDigest j ≠ s.slotDigest k) →
    Answers (.keyRevoke e v o) e stNotPermitted 0 s)

/-- The step takes the command at the front of the queue and runs it with the rest (the model's choice, log entry 1); where none waits,
one cycle of device time goes by while VDD_AO is up (log entry 2), in which the ports send what they have to send (R165, R193). No command
changes the rest of the queue. -/
def Obligations.StepTakesTheFrontCommand : Prop :=
  (∀ (s : State) (c : Instr) (rest : List Instr), s.pending = c :: rest → step s = exec c { s with pending := rest }) ∧
  (∀ s : State, s.pending = [] → s.pilot.phase ≠ .off → step s = .next s.cycle) ∧
  (∀ s : State, s.pending = [] → s.pilot.phase = .off → step s = .next s) ∧
  (∀ s : State, s.cycle.time = s.tick.time ∧ Only [.out, .time, .regs, .ports] s s.cycle) ∧
  (∀ (s t : State) (c : Instr), exec c s = .next t → t.pending = s.pending) ∧
  (∀ (s t : State) (c : Instr) (rest : List Instr), s.pending = c :: rest → step s = .next t → t.pending = rest)

/-- The frame of every command: what it may change is listed in `touched`, and, where its register fields do not depend on the state,
in `touchedRegs`; all else is as before. Of the fields it may change, the statement of the command says which it does. -/
def Obligations.EveryCommandKeepsItsFrame : Prop :=
  ∀ (c : Instr) (s t : State), exec c s = .next t →
    Only (touched c) s t ∧ ∀ ks, touchedRegs c = some ks → OnlyRegs ks s t

/-- Safe hold and the banked state (R482, R622): no entry is fetched or started, a command in execution does nothing more, and safe hold
is left only by a full reset or by the loss of VDD_AO. -/
def Obligations.SafeHoldStopsTheRings : Prop :=
  (∀ (c : Instr) (e : Sqe) (s : State), ringEntry c = some e → s.halted = true → exec c s = .next s) ∧
  (∀ (s : State) (r : Nat) (es : List Sqe), s.halted = true → exec (.ringEntryFetch r es) s = .next s) ∧
  (∀ (s : State) (r : Nat), s.halted = true → exec (.ringEntryStart r) s = .next s) ∧
  (∀ (c : Instr) (s t : State), exec c s = .next t → s.safeHold = true → t.safeHold = false → t.outOfReset) ∧
  (∀ (s : State) (kind : ResetKind) (cause : Nat) (internal qInc lost : Bool),
    (s.fullReset kind cause internal qInc lost).safeHold = false ∧ (s.fullReset kind cause internal qInc lost).rings = [])

/-- No step unblows a fuse (R526, R527, R539, R542): a word bit or a lock fuse that is blown stays blown, whatever the command, through
every reset and the loss of power. -/
def Obligations.StepsNeverUnblowFuses : Prop :=
  ∀ s t : State, step s = .next t →
    (∀ w b, s.isBlown w b = true → t.isBlown w b = true) ∧ (∀ b, bitOf s.fuses.locks b = true → bitOf t.fuses.locks b = true)

/-- What every step keeps (R368): at most 458 496 records in the commit log, and the memory in its canonical form. -/
def Obligations.StepsKeepTheInvariant : Prop :=
  ∀ s t : State, s.Inv → step s = .next t → t.Inv

/-- The error log never holds more than 1 024 entries (R611), whatever is reported. -/
def Obligations.ErrorLogNeverOverflows : Prop :=
  ∀ s t : State, s.log.length ≤ 1024 → step s = .next t → t.log.length ≤ 1024

/-- The machine after reset (R67, R69, R105, R524, R611): the invariant holds; no command waits; VDD_AO has just risen and the start-up
waits for its rails; the log, the rings, the queues and the tables are empty; device time is 0; every register field has its reset value
(for a field without one, the value that log entry 5 names). -/
def Obligations.ResetStateFollowsTheSpec : Prop :=
  State.reset.Inv ∧ State.reset.pending = [] ∧ State.reset.pilot.phase = .rails ∧ State.reset.pilot.kind = .powerOn ∧
  State.reset.log = [] ∧ State.reset.rings = [] ∧ State.reset.queues = [] ∧ State.reset.tables = [] ∧ State.reset.ports = [] ∧
  State.reset.channels = [] ∧ State.reset.now = 0 ∧ State.reset.mem = [] ∧ State.reset.quenched = false ∧ State.reset.safeHold = false ∧
  State.reset.trust.running = none ∧ (∀ k, State.reset.f k = coldOf k) ∧
  (∀ (w b : Nat), State.reset.isBlown w b = bitOf (fuseWord factoryWords w) b)
end

