-- ==== Sys2Proof/Laws/Bits.lean ====
section
/-!
SUPPORT. The laws of bit masks.
-/
namespace Sys2Proof.Machine

theorem bitOf_eq_testBit (v i : Nat) : bitOf v i = v.testBit i := by
  unfold bitOf
  rw [Nat.testBit_eq_decide_div_mod_eq, ← Bool.coe_iff_coe]
  simp

@[simp] theorem bitOf_setBit_same (v i : Nat) : bitOf (setBit v i) i = true := by
  unfold bitOf setBit
  split
  · next h => simp [h]
  · next h =>
    rw [Nat.add_div_right _ (Nat.two_pow_pos i)]
    simp only [beq_iff_eq]
    omega

@[simp] theorem bitOf_clearBit_same (v i : Nat) : bitOf (clearBit v i) i = false := by
  unfold bitOf clearBit
  split
  · next h =>
    have h1 : 2 ^ i ≤ v := by
      have : v / 2 ^ i ≠ 0 := by omega
      exact Nat.le_of_not_lt fun hl => this (Nat.div_eq_of_lt hl)
    have h2 : (v - 2 ^ i) / 2 ^ i = v / 2 ^ i - 1 := by
      obtain ⟨w, rfl⟩ := Nat.exists_eq_add_of_le h1
      rw [Nat.add_sub_cancel_left, Nat.add_comm, Nat.add_div_right _ (Nat.two_pow_pos i)]
      simp
    rw [h2]
    simp only [beq_eq_false_iff_ne]
    omega
  · next h => simpa using h

/-- A bit of a mask stays when bits are added. -/
theorem bitOf_or_left {v i : Nat} (w : Nat) (h : bitOf v i = true) : bitOf (v ||| w) i = true := by
  rw [bitOf_eq_testBit] at h ⊢
  simp [h]

theorem maskOf_lt (n : Nat) (p : Nat → Bool) : maskOf n p < 2 ^ n := by
  unfold maskOf
  induction n with
  | zero => simp
  | succ k ih =>
    rw [List.range_succ, List.foldl_append]
    simp only [List.foldl_cons, List.foldl_nil]
    split <;> omega

theorem maskOf_succ (n : Nat) (p : Nat → Bool) : maskOf (n + 1) p = if p n then maskOf n p + 2 ^ n else maskOf n p := by
  unfold maskOf
  rw [List.range_succ, List.foldl_append]
  rfl

/-- A mask has the bits that its predicate names. -/
theorem bitOf_maskOf {n i : Nat} (p : Nat → Bool) (h : i < n) : bitOf (maskOf n p) i = p i := by
  rw [bitOf_eq_testBit]
  induction n with
  | zero => omega
  | succ k ih =>
    have hl := maskOf_lt k p
    rw [maskOf_succ]
    by_cases e : i = k
    · subst e
      split
      · next hp => rw [Nat.add_comm, Nat.testBit_two_pow_add_eq, Nat.testBit_lt_two_pow hl, hp]; rfl
      · next hp => rw [Nat.testBit_lt_two_pow hl]; simpa using hp
    · have hi : i < k := by omega
      split
      · rw [Nat.add_comm, Nat.testBit_two_pow_add_gt hi, ih hi]
      · exact ih hi

theorem bitOf_or (v w i : Nat) : bitOf (v ||| w) i = (bitOf v i || bitOf w i) := by
  simp [bitOf_eq_testBit]

end Sys2Proof.Machine
end

