-- ==== Sys2Proof/Laws/Bytes.lean ====
section
/-!
SUPPORT. The laws of little-endian bytes and of buffers that a CRC-32 closes.
-/
namespace Sys2Proof.Machine

@[simp] theorem length_leBytes (n v : Nat) : (leBytes n v).length = n := by
  induction n generalizing v with
  | zero => rfl
  | succ n ih => simp [leBytes, ih]

/-- Reading back a little-endian value gives it, modulo its width (R17). -/
@[simp] theorem leNat_leBytes (n v : Nat) : leNat (leBytes n v) = v % 256 ^ n := by
  induction n generalizing v with
  | zero => simp [leBytes, leNat, Nat.mod_one]
  | succ n ih =>
    simp only [leBytes, leNat, ih, BitVec.toNat_ofNat]
    conv_rhs => rw [pow_succ', Nat.mod_mul]

/-- The bytes at the end of a buffer are the ones appended to it. -/
theorem bufNat_append {b : List Byte} {n : Nat} (h : b.length = n) (k v : Nat) : bufNat (b ++ leBytes k v) n k = v % 256 ^ k := by
  have hd : (b ++ leBytes k v).drop n = leBytes k v := List.drop_left' h
  have ht : (leBytes k v).take k = leBytes k v := List.take_of_length_le (by simp)
  rw [bufNat, hd, ht, leNat_leBytes]

theorem crc32Bit_lt {c : Nat} (h : c < 2 ^ 32) : crc32Bit c < 2 ^ 32 := by
  unfold crc32Bit
  split
  · exact Nat.xor_lt_two_pow (by omega) (by norm_num)
  · omega

theorem crc32Byte_lt {c : Nat} (b : Byte) (h : c < 2 ^ 32) : crc32Byte c b < 2 ^ 32 := by
  unfold crc32Byte
  have hb : b.toNat < 2 ^ 32 := lt_of_lt_of_le b.isLt (by norm_num)
  iterate 8 apply crc32Bit_lt
  exact Nat.xor_lt_two_pow h hb

/-- The CRC-32 of a buffer has 32 bits. -/
theorem crc32_lt (b : List Byte) : crc32 b < 2 ^ 32 := by
  have h : ∀ (l : List Byte) (c : Nat), c < 2 ^ 32 → l.foldl crc32Byte c < 2 ^ 32 := by
    intro l
    induction l with
    | nil => exact fun c hc => hc
    | cons x l ih => exact fun c hc => ih _ (crc32Byte_lt x hc)
  exact Nat.xor_lt_two_pow (h b _ (by norm_num)) (by norm_num)

/-- A buffer closed by its CRC-32 passes the check. -/
theorem crc32_closed {b : List Byte} {n : Nat} (h : b.length = n) :
    crc32 ((b ++ leBytes 4 (crc32 b)).take n) = bufNat (b ++ leBytes 4 (crc32 b)) n 4 := by
  rw [List.take_left' h, bufNat_append h, Nat.mod_eq_of_lt (lt_of_lt_of_eq (crc32_lt b) (by norm_num))]

/-- A buffer closed by another value fails it. -/
theorem crc32_not_closed {b : List Byte} {n : Nat} (h : b.length = n) :
    crc32 ((b ++ leBytes 4 (crc32 b + 1)).take n) ≠ bufNat (b ++ leBytes 4 (crc32 b + 1)) n 4 := by
  have hc := crc32_lt b
  rw [List.take_left' h, bufNat_append h]
  omega

end Sys2Proof.Machine
end

