-- ==== Sys2Proof/Laws/Frame.lean ====
section
/-!
SUPPORT. The laws of `Only`: it is reflexive and transitive, it passes through the record updates, folds and choices that the
operations of the block are made of.
-/
namespace Sys2Proof.Machine

variable {ps qs : List Part} {s t u : State}

@[simp] theorem Only.refl (ps : List Part) (s : State) : Only ps s s := by
  intro p _
  cases p <;> rfl

theorem Only.trans (h : Only ps s t) (g : Only ps t u) : Only ps s u := by
  intro p hp
  have h1 := h p hp
  have h2 := g p hp
  cases p <;> exact Eq.trans h2 h1

theorem Only.symm (h : Only ps s t) : Only ps t s := by
  intro p hp
  have h1 := h p hp
  cases p <;> exact Eq.symm h1

theorem Only.mono (h : Only ps s t) (g : ps ⊆ qs) : Only qs s t := fun p hp => h p (fun m => hp (g m))

/-- A step that touches only listed parts does not matter. -/
theorem Only.step (h : Only ps t u) (g : ps ⊆ qs) : Only qs s u ↔ Only qs s t :=
  ⟨fun k => k.trans (h.mono g).symm, fun k => k.trans (h.mono g)⟩

@[simp] theorem Only.foldl {α : Type} (f : State → α → State) (l : List α) (h : ∀ x a, Only ps s (f x a) ↔ Only ps s x) :
    Only ps s (l.foldl f t) ↔ Only ps s t := by
  induction l generalizing t with
  | nil => rfl
  | cons a r ih => exact (ih (t := f t a)).trans (h t a)

theorem Only.foldlI {α : Type} (f : State → α → State) (l : List α) (h : ∀ x a, Only ps x (f x a)) (g : Only ps s t) :
    Only ps s (l.foldl f t) := (Only.foldl f l (fun x a => (h x a).step (fun _ m => m))).mpr g

@[simp] theorem Only.ite {c : Prop} [Decidable c] :
    Only ps s (if c then t else u) ↔ if c then Only ps s t else Only ps s u := by
  split <;> rfl

theorem Only.eq_pending (h : Only ps s t) (g : Part.pending ∉ ps) : t.pending = s.pending := h .pending g

theorem Only.eq_out (h : Only ps s t) (g : Part.out ∉ ps) : t.out = s.out := h .out g

theorem Only.eq_heldOut (h : Only ps s t) (g : Part.heldOut ∉ ps) : t.heldOut = s.heldOut := h .heldOut g

theorem Only.eq_free (h : Only ps s t) (g : Part.free ∉ ps) : t.free = s.free := h .free g

theorem Only.eq_time (h : Only ps s t) (g : Part.time ∉ ps) : t.time = s.time := h .time g

theorem Only.eq_pilot (h : Only ps s t) (g : Part.pilot ∉ ps) : t.pilot = s.pilot := h .pilot g

theorem Only.eq_dom (h : Only ps s t) (g : Part.dom ∉ ps) : t.dom = s.dom := h .dom g

theorem Only.eq_regs (h : Only ps s t) (g : Part.regs ∉ ps) : t.regs = s.regs := h .regs g

theorem Only.eq_latches (h : Only ps s t) (g : Part.latches ∉ ps) : t.latches = s.latches := h .latches g

theorem Only.eq_pcie (h : Only ps s t) (g : Part.pcie ∉ ps) : t.pcie = s.pcie := h .pcie g

theorem Only.eq_log (h : Only ps s t) (g : Part.log ∉ ps) : t.log = s.log := h .log g

theorem Only.eq_logWritten (h : Only ps s t) (g : Part.logWritten ∉ ps) : t.logWritten = s.logWritten := h .logWritten g

theorem Only.eq_rings (h : Only ps s t) (g : Part.rings ∉ ps) : t.rings = s.rings := h .rings g

theorem Only.eq_resetting (h : Only ps s t) (g : Part.resetting ∉ ps) : t.resetting = s.resetting := h .resetting g

theorem Only.eq_quiesce (h : Only ps s t) (g : Part.quiesce ∉ ps) : t.quiesce = s.quiesce := h .quiesce g

theorem Only.eq_lines (h : Only ps s t) (g : Part.lines ∉ ps) : t.lines = s.lines := h .lines g

theorem Only.eq_pulses (h : Only ps s t) (g : Part.pulses ∉ ps) : t.pulses = s.pulses := h .pulses g

theorem Only.eq_channels (h : Only ps s t) (g : Part.channels ∉ ps) : t.channels = s.channels := h .channels g

theorem Only.eq_fuses (h : Only ps s t) (g : Part.fuses ∉ ps) : t.fuses = s.fuses := h .fuses g

theorem Only.eq_trust (h : Only ps s t) (g : Part.trust ∉ ps) : t.trust = s.trust := h .trust g

theorem Only.eq_sensors (h : Only ps s t) (g : Part.sensors ∉ ps) : t.sensors = s.sensors := h .sensors g

theorem Only.eq_layers (h : Only ps s t) (g : Part.layers ∉ ps) : t.layers = s.layers := h .layers g

theorem Only.eq_thermal (h : Only ps s t) (g : Part.thermal ∉ ps) : t.thermal = s.thermal := h .thermal g

theorem Only.eq_test (h : Only ps s t) (g : Part.test ∉ ps) : t.test = s.test := h .test g

theorem Only.eq_sideband (h : Only ps s t) (g : Part.sideband ∉ ps) : t.sideband = s.sideband := h .sideband g

theorem Only.eq_ports (h : Only ps s t) (g : Part.ports ∉ ps) : t.ports = s.ports := h .ports g

theorem Only.eq_lanes (h : Only ps s t) (g : Part.lanes ∉ ps) : t.lanes = s.lanes := h .lanes g

theorem Only.eq_queues (h : Only ps s t) (g : Part.queues ∉ ps) : t.queues = s.queues := h .queues g

theorem Only.eq_queueChanges (h : Only ps s t) (g : Part.queueChanges ∉ ps) : t.queueChanges = s.queueChanges := h .queueChanges g

theorem Only.eq_snapshots (h : Only ps s t) (g : Part.snapshots ∉ ps) : t.snapshots = s.snapshots := h .snapshots g

theorem Only.eq_snapPending (h : Only ps s t) (g : Part.snapPending ∉ ps) : t.snapPending = s.snapPending := h .snapPending g

theorem Only.eq_tables (h : Only ps s t) (g : Part.tables ∉ ps) : t.tables = s.tables := h .tables g

theorem Only.eq_dead (h : Only ps s t) (g : Part.dead ∉ ps) : t.dead = s.dead := h .dead g

theorem Only.eq_commits (h : Only ps s t) (g : Part.commits ∉ ps) : t.commits = s.commits := h .commits g

theorem Only.eq_commitLog (h : Only ps s t) (g : Part.commitLog ∉ ps) : t.commitLog = s.commitLog := h .commitLog g

theorem Only.eq_recovered (h : Only ps s t) (g : Part.recovered ∉ ps) : t.recovered = s.recovered := h .recovered g

theorem Only.eq_cancelled (h : Only ps s t) (g : Part.cancelled ∉ ps) : t.cancelled = s.cancelled := h .cancelled g

theorem Only.eq_recoveredCommits (h : Only ps s t) (g : Part.recoveredCommits ∉ ps) : t.recoveredCommits = s.recoveredCommits := h .recoveredCommits g

theorem Only.eq_latency (h : Only ps s t) (g : Part.latency ∉ ps) : t.latency = s.latency := h .latency g

theorem Only.eq_engineQueues (h : Only ps s t) (g : Part.engineQueues ∉ ps) : t.engineQueues = s.engineQueues := h .engineQueues g

theorem Only.eq_marver (h : Only ps s t) (g : Part.marver ∉ ps) : t.marver = s.marver := h .marver g

theorem Only.eq_pcs (h : Only ps s t) (g : Part.pcs ∉ ps) : t.pcs = s.pcs := h .pcs g

theorem Only.eq_stageRows (h : Only ps s t) (g : Part.stageRows ∉ ps) : t.stageRows = s.stageRows := h .stageRows g

theorem Only.eq_windows (h : Only ps s t) (g : Part.windows ∉ ps) : t.windows = s.windows := h .windows g

theorem Only.eq_mem (h : Only ps s t) (g : Part.mem ∉ ps) : t.mem = s.mem := h .mem g

theorem Only.eq_placed (h : Only ps s t) (g : Part.placed ∉ ps) : t.placed = s.placed := h .placed g

theorem Only.eq_integrity (h : Only ps s t) (g : Part.integrity ∉ ps) : t.integrity = s.integrity := h .integrity g

theorem Only.eq_regulator (h : Only ps s t) (g : Part.regulator ∉ ps) : t.regulator = s.regulator := h .regulator g

/-! ### Record updates -/

@[simp] theorem Only.upd_pending (v0 : List Instr) (h : [Part.pending] ⊆ ps) :
    Only ps s ({ t with pending := v0 } : State) ↔ Only ps s t :=
  Only.step (ps := [.pending]) (fun p hp => by cases p <;> first | rfl | (exact absurd (by decide) hp)) h

@[simp] theorem Only.upd_out (v0 : List Output) (h : [Part.out] ⊆ ps) :
    Only ps s ({ t with out := v0 } : State) ↔ Only ps s t :=
  Only.step (ps := [.out]) (fun p hp => by cases p <;> first | rfl | (exact absurd (by decide) hp)) h

@[simp] theorem Only.upd_heldOut (v0 : List Output) (h : [Part.heldOut] ⊆ ps) :
    Only ps s ({ t with heldOut := v0 } : State) ↔ Only ps s t :=
  Only.step (ps := [.heldOut]) (fun p hp => by cases p <;> first | rfl | (exact absurd (by decide) hp)) h

@[simp] theorem Only.upd_free (v0 : Nat) (h : [Part.free] ⊆ ps) :
    Only ps s ({ t with free := v0 } : State) ↔ Only ps s t :=
  Only.step (ps := [.free]) (fun p hp => by cases p <;> first | rfl | (exact absurd (by decide) hp)) h

@[simp] theorem Only.upd_time (v0 : TimeBase) (h : [Part.time] ⊆ ps) :
    Only ps s ({ t with time := v0 } : State) ↔ Only ps s t :=
  Only.step (ps := [.time]) (fun p hp => by cases p <;> first | rfl | (exact absurd (by decide) hp)) h

@[simp] theorem Only.upd_pilot (v0 : Pilot) (h : [Part.pilot] ⊆ ps) :
    Only ps s ({ t with pilot := v0 } : State) ↔ Only ps s t :=
  Only.step (ps := [.pilot]) (fun p hp => by cases p <;> first | rfl | (exact absurd (by decide) hp)) h

@[simp] theorem Only.upd_dom (v0 : Domains) (h : [Part.dom] ⊆ ps) :
    Only ps s ({ t with dom := v0 } : State) ↔ Only ps s t :=
  Only.step (ps := [.dom]) (fun p hp => by cases p <;> first | rfl | (exact absurd (by decide) hp)) h

@[simp] theorem Only.upd_regs (v0 : Map Nat) (h : [Part.regs] ⊆ ps) :
    Only ps s ({ t with regs := v0 } : State) ↔ Only ps s t :=
  Only.step (ps := [.regs]) (fun p hp => by cases p <;> first | rfl | (exact absurd (by decide) hp)) h

@[simp] theorem Only.upd_latches (v0 : Map Nat) (h : [Part.latches] ⊆ ps) :
    Only ps s ({ t with latches := v0 } : State) ↔ Only ps s t :=
  Only.step (ps := [.latches]) (fun p hp => by cases p <;> first | rfl | (exact absurd (by decide) hp)) h

@[simp] theorem Only.upd_pcie (v0 : Pcie) (h : [Part.pcie] ⊆ ps) :
    Only ps s ({ t with pcie := v0 } : State) ↔ Only ps s t :=
  Only.step (ps := [.pcie]) (fun p hp => by cases p <;> first | rfl | (exact absurd (by decide) hp)) h

@[simp] theorem Only.upd_log (v0 : List LogEntry) (h : [Part.log] ⊆ ps) :
    Only ps s ({ t with log := v0 } : State) ↔ Only ps s t :=
  Only.step (ps := [.log]) (fun p hp => by cases p <;> first | rfl | (exact absurd (by decide) hp)) h

@[simp] theorem Only.upd_rings (v0 : Map Ring) (h : [Part.rings] ⊆ ps) :
    Only ps s ({ t with rings := v0 } : State) ↔ Only ps s t :=
  Only.step (ps := [.rings]) (fun p hp => by cases p <;> first | rfl | (exact absurd (by decide) hp)) h

@[simp] theorem Only.upd_pulses (v0 : List (Nat × Tick)) (h : [Part.pulses] ⊆ ps) :
    Only ps s ({ t with pulses := v0 } : State) ↔ Only ps s t :=
  Only.step (ps := [.pulses]) (fun p hp => by cases p <;> first | rfl | (exact absurd (by decide) hp)) h

@[simp] theorem Only.upd_channels (v0 : Map Channel) (h : [Part.channels] ⊆ ps) :
    Only ps s ({ t with channels := v0 } : State) ↔ Only ps s t :=
  Only.step (ps := [.channels]) (fun p hp => by cases p <;> first | rfl | (exact absurd (by decide) hp)) h

@[simp] theorem Only.upd_fuses (v0 : FuseArray) (h : [Part.fuses] ⊆ ps) :
    Only ps s ({ t with fuses := v0 } : State) ↔ Only ps s t :=
  Only.step (ps := [.fuses]) (fun p hp => by cases p <;> first | rfl | (exact absurd (by decide) hp)) h

@[simp] theorem Only.upd_trust (v0 : Trust) (h : [Part.trust] ⊆ ps) :
    Only ps s ({ t with trust := v0 } : State) ↔ Only ps s t :=
  Only.step (ps := [.trust]) (fun p hp => by cases p <;> first | rfl | (exact absurd (by decide) hp)) h

@[simp] theorem Only.upd_sensors (v0 : Map Sensor) (h : [Part.sensors] ⊆ ps) :
    Only ps s ({ t with sensors := v0 } : State) ↔ Only ps s t :=
  Only.step (ps := [.sensors]) (fun p hp => by cases p <;> first | rfl | (exact absurd (by decide) hp)) h

@[simp] theorem Only.upd_layers (v0 : Map Layer) (h : [Part.layers] ⊆ ps) :
    Only ps s ({ t with layers := v0 } : State) ↔ Only ps s t :=
  Only.step (ps := [.layers]) (fun p hp => by cases p <;> first | rfl | (exact absurd (by decide) hp)) h

@[simp] theorem Only.upd_thermal (v0 : Thermal) (h : [Part.thermal] ⊆ ps) :
    Only ps s ({ t with thermal := v0 } : State) ↔ Only ps s t :=
  Only.step (ps := [.thermal]) (fun p hp => by cases p <;> first | rfl | (exact absurd (by decide) hp)) h

@[simp] theorem Only.upd_test (v0 : SelfTest) (h : [Part.test] ⊆ ps) :
    Only ps s ({ t with test := v0 } : State) ↔ Only ps s t :=
  Only.step (ps := [.test]) (fun p hp => by cases p <;> first | rfl | (exact absurd (by decide) hp)) h

@[simp] theorem Only.upd_sideband (v0 : Sideband) (h : [Part.sideband] ⊆ ps) :
    Only ps s ({ t with sideband := v0 } : State) ↔ Only ps s t :=
  Only.step (ps := [.sideband]) (fun p hp => by cases p <;> first | rfl | (exact absurd (by decide) hp)) h

@[simp] theorem Only.upd_ports (v0 : Map Port) (h : [Part.ports] ⊆ ps) :
    Only ps s ({ t with ports := v0 } : State) ↔ Only ps s t :=
  Only.step (ps := [.ports]) (fun p hp => by cases p <;> first | rfl | (exact absurd (by decide) hp)) h

@[simp] theorem Only.upd_lanes (v0 : Map Lane) (h : [Part.lanes] ⊆ ps) :
    Only ps s ({ t with lanes := v0 } : State) ↔ Only ps s t :=
  Only.step (ps := [.lanes]) (fun p hp => by cases p <;> first | rfl | (exact absurd (by decide) hp)) h

@[simp] theorem Only.upd_queues (v0 : Map Queue) (h : [Part.queues] ⊆ ps) :
    Only ps s ({ t with queues := v0 } : State) ↔ Only ps s t :=
  Only.step (ps := [.queues]) (fun p hp => by cases p <;> first | rfl | (exact absurd (by decide) hp)) h

@[simp] theorem Only.upd_queueChanges (v0 : List QueueChange) (h : [Part.queueChanges] ⊆ ps) :
    Only ps s ({ t with queueChanges := v0 } : State) ↔ Only ps s t :=
  Only.step (ps := [.queueChanges]) (fun p hp => by cases p <;> first | rfl | (exact absurd (by decide) hp)) h

@[simp] theorem Only.upd_snapshots (v0 : List Snapshot) (h : [Part.snapshots] ⊆ ps) :
    Only ps s ({ t with snapshots := v0 } : State) ↔ Only ps s t :=
  Only.step (ps := [.snapshots]) (fun p hp => by cases p <;> first | rfl | (exact absurd (by decide) hp)) h

@[simp] theorem Only.upd_snapPending (v0 : Option (SnapSource × Tick)) (h : [Part.snapPending] ⊆ ps) :
    Only ps s ({ t with snapPending := v0 } : State) ↔ Only ps s t :=
  Only.step (ps := [.snapPending]) (fun p hp => by cases p <;> first | rfl | (exact absurd (by decide) hp)) h

@[simp] theorem Only.upd_tables (v0 : Map (Option Table)) (h : [Part.tables] ⊆ ps) :
    Only ps s ({ t with tables := v0 } : State) ↔ Only ps s t :=
  Only.step (ps := [.tables]) (fun p hp => by cases p <;> first | rfl | (exact absurd (by decide) hp)) h

@[simp] theorem Only.upd_dead (v0 : List DeadTable) (h : [Part.dead] ⊆ ps) :
    Only ps s ({ t with dead := v0 } : State) ↔ Only ps s t :=
  Only.step (ps := [.dead]) (fun p hp => by cases p <;> first | rfl | (exact absurd (by decide) hp)) h

@[simp] theorem Only.upd_commits (v0 : List Commit) (h : [Part.commits] ⊆ ps) :
    Only ps s ({ t with commits := v0 } : State) ↔ Only ps s t :=
  Only.step (ps := [.commits]) (fun p hp => by cases p <;> first | rfl | (exact absurd (by decide) hp)) h

@[simp] theorem Only.upd_commitLog (v0 : List CommitRecord) (h : [Part.commitLog] ⊆ ps) :
    Only ps s ({ t with commitLog := v0 } : State) ↔ Only ps s t :=
  Only.step (ps := [.commitLog]) (fun p hp => by cases p <;> first | rfl | (exact absurd (by decide) hp)) h

@[simp] theorem Only.upd_recovered (v0 : List Recovered) (h : [Part.recovered] ⊆ ps) :
    Only ps s ({ t with recovered := v0 } : State) ↔ Only ps s t :=
  Only.step (ps := [.recovered]) (fun p hp => by cases p <;> first | rfl | (exact absurd (by decide) hp)) h

@[simp] theorem Only.upd_cancelled (v0 : List CommitRecord) (h : [Part.cancelled] ⊆ ps) :
    Only ps s ({ t with cancelled := v0 } : State) ↔ Only ps s t :=
  Only.step (ps := [.cancelled]) (fun p hp => by cases p <;> first | rfl | (exact absurd (by decide) hp)) h

@[simp] theorem Only.upd_latency (v0 : Map Nat) (h : [Part.latency] ⊆ ps) :
    Only ps s ({ t with latency := v0 } : State) ↔ Only ps s t :=
  Only.step (ps := [.latency]) (fun p hp => by cases p <;> first | rfl | (exact absurd (by decide) hp)) h

@[simp] theorem Only.upd_engineQueues (v0 : Map (List EngineOp)) (h : [Part.engineQueues] ⊆ ps) :
    Only ps s ({ t with engineQueues := v0 } : State) ↔ Only ps s t :=
  Only.step (ps := [.engineQueues]) (fun p hp => by cases p <;> first | rfl | (exact absurd (by decide) hp)) h

@[simp] theorem Only.upd_marver (v0 : Marver) (h : [Part.marver] ⊆ ps) :
    Only ps s ({ t with marver := v0 } : State) ↔ Only ps s t :=
  Only.step (ps := [.marver]) (fun p hp => by cases p <;> first | rfl | (exact absurd (by decide) hp)) h

@[simp] theorem Only.upd_pcs (v0 : Map Pc) (h : [Part.pcs] ⊆ ps) :
    Only ps s ({ t with pcs := v0 } : State) ↔ Only ps s t :=
  Only.step (ps := [.pcs]) (fun p hp => by cases p <;> first | rfl | (exact absurd (by decide) hp)) h

@[simp] theorem Only.upd_stageRows (v0 : List StageRow) (h : [Part.stageRows] ⊆ ps) :
    Only ps s ({ t with stageRows := v0 } : State) ↔ Only ps s t :=
  Only.step (ps := [.stageRows]) (fun p hp => by cases p <;> first | rfl | (exact absurd (by decide) hp)) h

@[simp] theorem Only.upd_windows (v0 : List WindowAccess) (h : [Part.windows] ⊆ ps) :
    Only ps s ({ t with windows := v0 } : State) ↔ Only ps s t :=
  Only.step (ps := [.windows]) (fun p hp => by cases p <;> first | rfl | (exact absurd (by decide) hp)) h

@[simp] theorem Only.upd_placed (v0 : Bool) (h : [Part.placed] ⊆ ps) :
    Only ps s ({ t with placed := v0 } : State) ↔ Only ps s t :=
  Only.step (ps := [.placed]) (fun p hp => by cases p <;> first | rfl | (exact absurd (by decide) hp)) h

@[simp] theorem Only.upd_integrity (v0 : Integrity) (h : [Part.integrity] ⊆ ps) :
    Only ps s ({ t with integrity := v0 } : State) ↔ Only ps s t :=
  Only.step (ps := [.integrity]) (fun p hp => by cases p <;> first | rfl | (exact absurd (by decide) hp)) h

@[simp] theorem Only.upd_regulator (v0 : Regulator) (h : [Part.regulator] ⊆ ps) :
    Only ps s ({ t with regulator := v0 } : State) ↔ Only ps s t :=
  Only.step (ps := [.regulator]) (fun p hp => by cases p <;> first | rfl | (exact absurd (by decide) hp)) h

@[simp] theorem Only.upd_time_pilot (v0 : TimeBase) (v1 : Pilot) (h : [Part.time, Part.pilot] ⊆ ps) :
    Only ps s ({ t with time := v0, pilot := v1 } : State) ↔ Only ps s t :=
  Only.step (ps := [.time, .pilot]) (fun p hp => by cases p <;> first | rfl | (exact absurd (by decide) hp)) h

@[simp] theorem Only.upd_pilot_trust (v0 : Pilot) (v1 : Trust) (h : [Part.pilot, Part.trust] ⊆ ps) :
    Only ps s ({ t with pilot := v0, trust := v1 } : State) ↔ Only ps s t :=
  Only.step (ps := [.pilot, .trust]) (fun p hp => by cases p <;> first | rfl | (exact absurd (by decide) hp)) h

@[simp] theorem Only.upd_pilot_sideband (v0 : Pilot) (v1 : Sideband) (h : [Part.pilot, Part.sideband] ⊆ ps) :
    Only ps s ({ t with pilot := v0, sideband := v1 } : State) ↔ Only ps s t :=
  Only.step (ps := [.pilot, .sideband]) (fun p hp => by cases p <;> first | rfl | (exact absurd (by decide) hp)) h

@[simp] theorem Only.upd_pilot_commits (v0 : Pilot) (v1 : List Commit) (h : [Part.pilot, Part.commits] ⊆ ps) :
    Only ps s ({ t with pilot := v0, commits := v1 } : State) ↔ Only ps s t :=
  Only.step (ps := [.pilot, .commits]) (fun p hp => by cases p <;> first | rfl | (exact absurd (by decide) hp)) h

@[simp] theorem Only.upd_pilot_windows (v0 : Pilot) (v1 : List WindowAccess) (h : [Part.pilot, Part.windows] ⊆ ps) :
    Only ps s ({ t with pilot := v0, windows := v1 } : State) ↔ Only ps s t :=
  Only.step (ps := [.pilot, .windows]) (fun p hp => by cases p <;> first | rfl | (exact absurd (by decide) hp)) h

@[simp] theorem Only.upd_log_logWritten (v0 : List LogEntry) (v1 : Nat) (h : [Part.log, Part.logWritten] ⊆ ps) :
    Only ps s ({ t with log := v0, logWritten := v1 } : State) ↔ Only ps s t :=
  Only.step (ps := [.log, .logWritten]) (fun p hp => by cases p <;> first | rfl | (exact absurd (by decide) hp)) h

@[simp] theorem Only.upd_lines_pulses (v0 : Map EvLine) (v1 : List (Nat × Tick)) (h : [Part.lines, Part.pulses] ⊆ ps) :
    Only ps s ({ t with lines := v0, pulses := v1 } : State) ↔ Only ps s t :=
  Only.step (ps := [.lines, .pulses]) (fun p hp => by cases p <;> first | rfl | (exact absurd (by decide) hp)) h

@[simp] theorem Only.upd_fuses_trust (v0 : FuseArray) (v1 : Trust) (h : [Part.fuses, Part.trust] ⊆ ps) :
    Only ps s ({ t with fuses := v0, trust := v1 } : State) ↔ Only ps s t :=
  Only.step (ps := [.fuses, .trust]) (fun p hp => by cases p <;> first | rfl | (exact absurd (by decide) hp)) h

@[simp] theorem Only.upd_snapshots_snapPending (v0 : List Snapshot) (v1 : Option (SnapSource × Tick)) (h : [Part.snapshots, Part.snapPending] ⊆ ps) :
    Only ps s ({ t with snapshots := v0, snapPending := v1 } : State) ↔ Only ps s t :=
  Only.step (ps := [.snapshots, .snapPending]) (fun p hp => by cases p <;> first | rfl | (exact absurd (by decide) hp)) h

@[simp] theorem Only.upd_snapPending_engineQueues (v0 : Option (SnapSource × Tick)) (v1 : Map (List EngineOp)) (h : [Part.snapPending, Part.engineQueues] ⊆ ps) :
    Only ps s ({ t with snapPending := v0, engineQueues := v1 } : State) ↔ Only ps s t :=
  Only.step (ps := [.snapPending, .engineQueues]) (fun p hp => by cases p <;> first | rfl | (exact absurd (by decide) hp)) h

@[simp] theorem Only.upd_tables_marver (v0 : Map (Option Table)) (v1 : Marver) (h : [Part.tables, Part.marver] ⊆ ps) :
    Only ps s ({ t with tables := v0, marver := v1 } : State) ↔ Only ps s t :=
  Only.step (ps := [.tables, .marver]) (fun p hp => by cases p <;> first | rfl | (exact absurd (by decide) hp)) h

@[simp] theorem Only.upd_dead_marver (v0 : List DeadTable) (v1 : Marver) (h : [Part.dead, Part.marver] ⊆ ps) :
    Only ps s ({ t with dead := v0, marver := v1 } : State) ↔ Only ps s t :=
  Only.step (ps := [.dead, .marver]) (fun p hp => by cases p <;> first | rfl | (exact absurd (by decide) hp)) h

@[simp] theorem Only.upd_marver_placed (v0 : Marver) (v1 : Bool) (h : [Part.marver, Part.placed] ⊆ ps) :
    Only ps s ({ t with marver := v0, placed := v1 } : State) ↔ Only ps s t :=
  Only.step (ps := [.marver, .placed]) (fun p hp => by cases p <;> first | rfl | (exact absurd (by decide) hp)) h

@[simp] theorem Only.upd_marver_integrity (v0 : Marver) (v1 : Integrity) (h : [Part.marver, Part.integrity] ⊆ ps) :
    Only ps s ({ t with marver := v0, integrity := v1 } : State) ↔ Only ps s t :=
  Only.step (ps := [.marver, .integrity]) (fun p hp => by cases p <;> first | rfl | (exact absurd (by decide) hp)) h

@[simp] theorem Only.upd_pcs_regulator (v0 : Map Pc) (v1 : Regulator) (h : [Part.pcs, Part.regulator] ⊆ ps) :
    Only ps s ({ t with pcs := v0, regulator := v1 } : State) ↔ Only ps s t :=
  Only.step (ps := [.pcs, .regulator]) (fun p hp => by cases p <;> first | rfl | (exact absurd (by decide) hp)) h

@[simp] theorem Only.upd_mem_integrity (v0 : List Host.Cell) (v1 : Integrity) (h : [Part.mem, Part.integrity] ⊆ ps) :
    Only ps s ({ t with mem := v0, integrity := v1 } : State) ↔ Only ps s t :=
  Only.step (ps := [.mem, .integrity]) (fun p hp => by cases p <;> first | rfl | (exact absurd (by decide) hp)) h

@[simp] theorem Only.upd_out_heldOut_pcie (v0 : List Output) (v1 : List Output) (v2 : Pcie) (h : [Part.out, Part.heldOut, Part.pcie] ⊆ ps) :
    Only ps s ({ t with out := v0, heldOut := v1, pcie := v2 } : State) ↔ Only ps s t :=
  Only.step (ps := [.out, .heldOut, .pcie]) (fun p hp => by cases p <;> first | rfl | (exact absurd (by decide) hp)) h

@[simp] theorem Only.upd_time_pilot_pcie (v0 : TimeBase) (v1 : Pilot) (v2 : Pcie) (h : [Part.time, Part.pilot, Part.pcie] ⊆ ps) :
    Only ps s ({ t with time := v0, pilot := v1, pcie := v2 } : State) ↔ Only ps s t :=
  Only.step (ps := [.time, .pilot, .pcie]) (fun p hp => by cases p <;> first | rfl | (exact absurd (by decide) hp)) h

@[simp] theorem Only.upd_pilot_resetting_quiesce (v0 : Pilot) (v1 : Bool) (v2 : Option (Nat × Nat)) (h : [Part.pilot, Part.resetting, Part.quiesce] ⊆ ps) :
    Only ps s ({ t with pilot := v0, resetting := v1, quiesce := v2 } : State) ↔ Only ps s t :=
  Only.step (ps := [.pilot, .resetting, .quiesce]) (fun p hp => by cases p <;> first | rfl | (exact absurd (by decide) hp)) h

@[simp] theorem Only.upd_log_logWritten_sideband (v0 : List LogEntry) (v1 : Nat) (v2 : Sideband) (h : [Part.log, Part.logWritten, Part.sideband] ⊆ ps) :
    Only ps s ({ t with log := v0, logWritten := v1, sideband := v2 } : State) ↔ Only ps s t :=
  Only.step (ps := [.log, .logWritten, .sideband]) (fun p hp => by cases p <;> first | rfl | (exact absurd (by decide) hp)) h

@[simp] theorem Only.upd_tables_commits_recovered (v0 : Map (Option Table)) (v1 : List Commit) (v2 : List Recovered) (h : [Part.tables, Part.commits, Part.recovered] ⊆ ps) :
    Only ps s ({ t with tables := v0, commits := v1, recovered := v2 } : State) ↔ Only ps s t :=
  Only.step (ps := [.tables, .commits, .recovered]) (fun p hp => by cases p <;> first | rfl | (exact absurd (by decide) hp)) h

@[simp] theorem Only.upd_pilot_pcie_marver_regulator (v0 : Pilot) (v1 : Pcie) (v2 : Marver) (v3 : Regulator) (h : [Part.pilot, Part.pcie, Part.marver, Part.regulator] ⊆ ps) :
    Only ps s ({ t with pilot := v0, pcie := v1, marver := v2, regulator := v3 } : State) ↔ Only ps s t :=
  Only.step (ps := [.pilot, .pcie, .marver, .regulator]) (fun p hp => by cases p <;> first | rfl | (exact absurd (by decide) hp)) h

@[simp] theorem Only.upd_wide7 (v0 : Pilot) (v1 : Trust) (v2 : List CommitRecord) (v3 : Marver) (v4 : List Host.Cell) (v5 : Bool) (v6 : Integrity) (h : [Part.pilot, Part.trust, Part.commitLog, Part.marver, Part.mem, Part.placed, Part.integrity] ⊆ ps) :
    Only ps s ({ t with pilot := v0, trust := v1, commitLog := v2, marver := v3, mem := v4, placed := v5, integrity := v6 } : State) ↔ Only ps s t :=
  Only.step (ps := [.pilot, .trust, .commitLog, .marver, .mem, .placed, .integrity]) (fun p hp => by cases p <;> first | rfl | (exact absurd (by decide) hp)) h

@[simp] theorem Only.upd_wide13 (v0 : TimeBase) (v1 : Pilot) (v2 : Map Nat) (v3 : Map Nat) (v4 : Trust) (v5 : Sideband) (v6 : Map (Option Table)) (v7 : List Commit) (v8 : List CommitRecord) (v9 : List CommitRecord) (v10 : Marver) (v11 : List Host.Cell) (v12 : Integrity) (h : [Part.time, Part.pilot, Part.regs, Part.latches, Part.trust, Part.sideband, Part.tables, Part.commits, Part.commitLog, Part.recoveredCommits, Part.marver, Part.mem, Part.integrity] ⊆ ps) :
    Only ps s ({ t with time := v0, pilot := v1, regs := v2, latches := v3, trust := v4, sideband := v5, tables := v6, commits := v7, commitLog := v8, recoveredCommits := v9, marver := v10, mem := v11, integrity := v12 } : State) ↔ Only ps s t :=
  Only.step (ps := [.time, .pilot, .regs, .latches, .trust, .sideband, .tables, .commits, .commitLog, .recoveredCommits, .marver, .mem, .integrity]) (fun p hp => by cases p <;> first | rfl | (exact absurd (by decide) hp)) h

end Sys2Proof.Machine
end

