-- ==== Sys2Proof/Laws/FrameOps.lean ====
section
/-!
SUPPORT. What the operations of Ops.lean leave unchanged: one lemma for each.
-/
namespace Sys2Proof.Machine

theorem State.setF_only (s : State) (k : Fld) (v : Nat) :
    Only [.regs] s (State.setF s k v) := by
  simp [State.setF]

@[simp] theorem State.setF_step (s : State) (k : Fld) (v : Nat) {ps : List Part} {r₀ : State}
    (h : [.regs] ⊆ ps) :
    Only ps r₀ (State.setF s k v) ↔ Only ps r₀ s :=
  (State.setF_only s k v).step h

theorem State.setFs_only (s : State) (a1 : List (Fld × Nat)) :
    Only [.regs] s (State.setFs s a1) := by
  induction a1 generalizing s with
  | nil => simp [State.setFs]
  | cons p r ih =>
    obtain ⟨k, v⟩ := p
    exact (State.setF_only s k v).trans (ih _)

@[simp] theorem State.setFs_step (s : State) (a1 : List (Fld × Nat)) {ps : List Part} {r₀ : State}
    (h : [.regs] ⊆ ps) :
    Only ps r₀ (State.setFs s a1) ↔ Only ps r₀ s :=
  (State.setFs_only s a1).step h

theorem State.addF_only (s : State) (k : Fld) (n : Nat) (mx : Nat) :
    Only [.regs] s (State.addF s k n mx) := by
  simp [State.addF]

@[simp] theorem State.addF_step (s : State) (k : Fld) (n : Nat) (mx : Nat) {ps : List Part} {r₀ : State}
    (h : [.regs] ⊆ ps) :
    Only ps r₀ (State.addF s k n mx) ↔ Only ps r₀ s :=
  (State.addF_only s k n mx).step h

theorem State.bump_only (s : State) (k : Fld) (w : Nat) :
    Only [.regs] s (State.bump s k w) := by
  simp [State.bump]

@[simp] theorem State.bump_step (s : State) (k : Fld) (w : Nat) {ps : List Part} {r₀ : State}
    (h : [.regs] ⊆ ps) :
    Only ps r₀ (State.bump s k w) ↔ Only ps r₀ s :=
  (State.bump_only s k w).step h

theorem State.emit_only (s : State) (o : Output) :
    Only [.out] s (State.emit s o) := by
  simp [State.emit]

@[simp] theorem State.emit_step (s : State) (o : Output) {ps : List Part} {r₀ : State}
    (h : [.out] ⊆ ps) :
    Only ps r₀ (State.emit s o) ↔ Only ps r₀ s :=
  (State.emit_only s o).step h

theorem State.emitHost_only (s : State) (o : Output) :
    Only [.out, .heldOut] s (State.emitHost s o) := by
  simp [State.emitHost]

@[simp] theorem State.emitHost_step (s : State) (o : Output) {ps : List Part} {r₀ : State}
    (h : [.out, .heldOut] ⊆ ps) :
    Only ps r₀ (State.emitHost s o) ↔ Only ps r₀ s :=
  (State.emitHost_only s o).step h

theorem State.fresh_only (s : State) :
    Only [.free] s (State.fresh s).2 := by
  simp [State.fresh]

@[simp] theorem State.fresh_step (s : State) {ps : List Part} {r₀ : State}
    (h : [.free] ⊆ ps) :
    Only ps r₀ (State.fresh s).2 ↔ Only ps r₀ s :=
  (State.fresh_only s).step h

theorem State.enterReady_only (s : State) :
    Only [.pilot, .regs] s (State.enterReady s) := by
  simp [State.enterReady]

@[simp] theorem State.enterReady_step (s : State) {ps : List Part} {r₀ : State}
    (h : [.pilot, .regs] ⊆ ps) :
    Only ps r₀ (State.enterReady s) ↔ Only ps r₀ s :=
  (State.enterReady_only s).step h

theorem State.tryReady_only (s : State) :
    Only [.pilot, .regs] s (State.tryReady s) := by
  simp [State.tryReady]

@[simp] theorem State.tryReady_step (s : State) {ps : List Part} {r₀ : State}
    (h : [.pilot, .regs] ⊆ ps) :
    Only ps r₀ (State.tryReady s) ↔ Only ps r₀ s :=
  (State.tryReady_only s).step h

theorem State.closeDomains_only (s : State) (power : Nat) (clocks : Nat) :
    Only [.dom] s (State.closeDomains s power clocks) := by
  simp [State.closeDomains]

@[simp] theorem State.closeDomains_step (s : State) (power : Nat) (clocks : Nat) {ps : List Part} {r₀ : State}
    (h : [.dom] ⊆ ps) :
    Only ps r₀ (State.closeDomains s power clocks) ↔ Only ps r₀ s :=
  (State.closeDomains_only s power clocks).step h

theorem State.openDomains_only (s : State) (power : Nat) (clocks : Nat) :
    Only [.dom] s (State.openDomains s power clocks) := by
  simp [State.openDomains]

@[simp] theorem State.openDomains_step (s : State) (power : Nat) (clocks : Nat) {ps : List Part} {r₀ : State}
    (h : [.dom] ⊆ ps) :
    Only ps r₀ (State.openDomains s power clocks) ↔ Only ps r₀ s :=
  (State.openDomains_only s power clocks).step h

theorem State.removeDomains_only (s : State) (power : Nat) (clocks : Nat) :
    Only [.regs] s (State.removeDomains s power clocks) := by
  simp [State.removeDomains]

@[simp] theorem State.removeDomains_step (s : State) (power : Nat) (clocks : Nat) {ps : List Part} {r₀ : State}
    (h : [.regs] ⊆ ps) :
    Only ps r₀ (State.removeDomains s power clocks) ↔ Only ps r₀ s :=
  (State.removeDomains_only s power clocks).step h

theorem State.setGateDis_only (s : State) (v : Nat) :
    Only [.regs] s (State.setGateDis s v) := by
  simp [State.setGateDis]

@[simp] theorem State.setGateDis_step (s : State) (v : Nat) {ps : List Part} {r₀ : State}
    (h : [.regs] ⊆ ps) :
    Only ps r₀ (State.setGateDis s v) ↔ Only ps r₀ s :=
  (State.setGateDis_only s v).step h

theorem State.vector_only (s : State) (v : Nat) :
    Only [.out, .pcie] s (State.vector s v) := by
  simp [State.vector]

@[simp] theorem State.vector_step (s : State) (v : Nat) {ps : List Part} {r₀ : State}
    (h : [.out, .pcie] ⊆ ps) :
    Only ps r₀ (State.vector s v) ↔ Only ps r₀ s :=
  (State.vector_only s v).step h

theorem State.flushVectors_only (s : State) :
    Only [.out, .pcie] s (State.flushVectors s) := by
  simp [State.flushVectors]

@[simp] theorem State.flushVectors_step (s : State) {ps : List Part} {r₀ : State}
    (h : [.out, .pcie] ⊆ ps) :
    Only ps r₀ (State.flushVectors s) ↔ Only ps r₀ s :=
  (State.flushVectors_only s).step h

theorem State.writeEntry_only (s : State) (e : LogEvent) :
    Only [.regs, .log, .logWritten, .sideband] s (State.writeEntry s e) := by
  unfold State.writeEntry
  (repeat' split) <;> simp

@[simp] theorem State.writeEntry_step (s : State) (e : LogEvent) {ps : List Part} {r₀ : State}
    (h : [.regs, .log, .logWritten, .sideband] ⊆ ps) :
    Only ps r₀ (State.writeEntry s e) ↔ Only ps r₀ s :=
  (State.writeEntry_only s e).step h

theorem State.report_only (s : State) (e : LogEvent) :
    Only [.out, .regs, .pcie, .log, .logWritten, .sideband] s (State.report s e) := by
  unfold State.report
  (repeat' split) <;> simp

@[simp] theorem State.report_step (s : State) (e : LogEvent) {ps : List Part} {r₀ : State}
    (h : [.out, .regs, .pcie, .log, .logWritten, .sideband] ⊆ ps) :
    Only ps r₀ (State.report s e) ↔ Only ps r₀ s :=
  (State.report_only s e).step h

theorem State.pulseLine_only (s : State) (l : Nat) (t : Tick) :
    Only [.lines, .pulses] s (State.pulseLine s l t) := by
  simp [State.pulseLine]

@[simp] theorem State.pulseLine_step (s : State) (l : Nat) (t : Tick) {ps : List Part} {r₀ : State}
    (h : [.lines, .pulses] ⊆ ps) :
    Only ps r₀ (State.pulseLine s l t) ↔ Only ps r₀ s :=
  (State.pulseLine_only s l t).step h

theorem State.pulseSource_only (s : State) (code : Nat) :
    Only [.lines, .pulses] s (State.pulseSource s code) := by
  simp [State.pulseSource]

@[simp] theorem State.pulseSource_step (s : State) (code : Nat) {ps : List Part} {r₀ : State}
    (h : [.lines, .pulses] ⊆ ps) :
    Only ps r₀ (State.pulseSource s code) ↔ Only ps r₀ s :=
  (State.pulseSource_only s code).step h

theorem State.setRing_only (s : State) (r : Nat) (x : Ring) :
    Only [.rings] s (State.setRing s r x) := by
  simp [State.setRing]

@[simp] theorem State.setRing_step (s : State) (r : Nat) (x : Ring) {ps : List Part} {r₀ : State}
    (h : [.rings] ⊆ ps) :
    Only ps r₀ (State.setRing s r x) ↔ Only ps r₀ s :=
  (State.setRing_only s r x).step h

theorem State.syncRing_only (s : State) (r : Nat) :
    Only [.regs] s (State.syncRing s r) := by
  simp [State.syncRing]

@[simp] theorem State.syncRing_step (s : State) (r : Nat) {ps : List Part} {r₀ : State}
    (h : [.regs] ⊆ ps) :
    Only ps r₀ (State.syncRing s r) ↔ Only ps r₀ s :=
  (State.syncRing_only s r).step h

theorem State.writeCompletion_only (s : State) (r : Nat) (tag : Nat) (status : Nat) (result : Nat) :
    Only [.out, .heldOut, .regs, .pcie, .rings] s (State.writeCompletion s r tag status result) := by
  simp [State.writeCompletion]

@[simp] theorem State.writeCompletion_step (s : State) (r : Nat) (tag : Nat) (status : Nat) (result : Nat) {ps : List Part} {r₀ : State}
    (h : [.out, .heldOut, .regs, .pcie, .rings] ⊆ ps) :
    Only ps r₀ (State.writeCompletion s r tag status result) ↔ Only ps r₀ s :=
  (State.writeCompletion_only s r tag status result).step h

theorem State.complete_only (s : State) (r : Nat) (tag : Nat) (status : Nat) (result : Nat) :
    Only [.out, .heldOut, .regs, .pcie, .rings] s (State.complete s r tag status result) := by
  simp only [State.complete]
  (repeat' split) <;> simp

@[simp] theorem State.complete_step (s : State) (r : Nat) (tag : Nat) (status : Nat) (result : Nat) {ps : List Part} {r₀ : State}
    (h : [.out, .heldOut, .regs, .pcie, .rings] ⊆ ps) :
    Only ps r₀ (State.complete s r tag status result) ↔ Only ps r₀ s :=
  (State.complete_only s r tag status result).step h

end Sys2Proof.Machine
end

