-- ==== Sys2Proof/Laws/FrameCatalogue.lean ====
section
/-!
SUPPORT. What the operations of Catalogue.lean leave unchanged: one lemma for each.
-/
namespace Sys2Proof.Machine

theorem State.done_only (s : State) (e : Sqe) (status : Nat) (result : Nat) :
    Only [.out, .heldOut, .regs, .pcie, .rings] s (State.done s e status result) := by
  simp [State.done]

@[simp] theorem State.done_step (s : State) (e : Sqe) (status : Nat) (result : Nat) {ps : List Part} {r₀ : State}
    (h : [.out, .heldOut, .regs, .pcie, .rings] ⊆ ps) :
    Only ps r₀ (State.done s e status result) ↔ Only ps r₀ s :=
  (State.done_only s e status result).step h

end Sys2Proof.Machine
end

