-- ==== Sys2Proof/Laws/FramePorts.lean ====
section
/-!
SUPPORT. What the operations of Ports.lean leave unchanged: one lemma for each.
-/
namespace Sys2Proof.Machine

theorem State.setPort_only (s : State) (p : Nat) (x : Port) :
    Only [.ports] s (State.setPort s p x) := by
  simp [State.setPort]

@[simp] theorem State.setPort_step (s : State) (p : Nat) (x : Port) {ps : List Part} {r₀ : State}
    (h : [.ports] ⊆ ps) :
    Only ps r₀ (State.setPort s p x) ↔ Only ps r₀ s :=
  (State.setPort_only s p x).step h

theorem State.setLane_only (s : State) (p : Nat) (l : Nat) (x : Lane) :
    Only [.lanes] s (State.setLane s p l x) := by
  simp [State.setLane]

@[simp] theorem State.setLane_step (s : State) (p : Nat) (l : Nat) (x : Lane) {ps : List Part} {r₀ : State}
    (h : [.lanes] ⊆ ps) :
    Only ps r₀ (State.setLane s p l x) ↔ Only ps r₀ s :=
  (State.setLane_only s p l x).step h

theorem State.useSet_only (s : State) (p : Nat) (x : Nat × Nat) :
    Only [.regs, .ports] s (State.useSet s p x) := by
  simp [State.useSet]

@[simp] theorem State.useSet_step (s : State) (p : Nat) (x : Nat × Nat) {ps : List Part} {r₀ : State}
    (h : [.regs, .ports] ⊆ ps) :
    Only ps r₀ (State.useSet s p x) ↔ Only ps r₀ s :=
  (State.useSet_only s p x).step h

theorem State.linkChanged_only (s : State) (p : Nat) :
    Only [.out, .regs, .pcie] s (State.linkChanged s p) := by
  simp [State.linkChanged]

@[simp] theorem State.linkChanged_step (s : State) (p : Nat) {ps : List Part} {r₀ : State}
    (h : [.out, .regs, .pcie] ⊆ ps) :
    Only ps r₀ (State.linkChanged s p) ↔ Only ps r₀ s :=
  (State.linkChanged_only s p).step h

theorem State.emitCodeword_only (s : State) (p : Nat) (data : List Byte) :
    Only [.out] s (State.emitCodeword s p data) := by
  simp [State.emitCodeword]

@[simp] theorem State.emitCodeword_step (s : State) (p : Nat) (data : List Byte) {ps : List Part} {r₀ : State}
    (h : [.out] ⊆ ps) :
    Only ps r₀ (State.emitCodeword s p data) ↔ Only ps r₀ s :=
  (State.emitCodeword_only s p data).step h

theorem State.sendLine_only (s : State) (p : Nat) (seq : Nat) (data : List Byte) :
    Only [.out, .ports] s (State.sendLine s p seq data) := by
  simp [State.sendLine]

@[simp] theorem State.sendLine_step (s : State) (p : Nat) (seq : Nat) (data : List Byte) {ps : List Part} {r₀ : State}
    (h : [.out, .ports] ⊆ ps) :
    Only ps r₀ (State.sendLine s p seq data) ↔ Only ps r₀ s :=
  (State.sendLine_only s p seq data).step h

theorem State.sendFraming_only (s : State) (p : Nat) :
    Only [.out, .ports] s (State.sendFraming s p) := by
  simp [State.sendFraming]

@[simp] theorem State.sendFraming_step (s : State) (p : Nat) {ps : List Part} {r₀ : State}
    (h : [.out, .ports] ⊆ ps) :
    Only ps r₀ (State.sendFraming s p) ↔ Only ps r₀ s :=
  (State.sendFraming_only s p).step h

theorem State.sendData_only (s : State) (p : Nat) (data : List Byte) :
    Only [.out, .regs, .ports] s (State.sendData s p data) := by
  simp [State.sendData]

@[simp] theorem State.sendData_step (s : State) (p : Nat) (data : List Byte) {ps : List Part} {r₀ : State}
    (h : [.out, .regs, .ports] ⊆ ps) :
    Only ps r₀ (State.sendData s p data) ↔ Only ps r₀ s :=
  (State.sendData_only s p data).step h

theorem State.fillCodewords_only (p : Nat) (a1 : Nat) (a2 : List Byte) (a3 : State) :
    Only [.out, .regs, .ports] a3 (State.fillCodewords p a1 a2 a3) := by
  induction a1 generalizing a2 a3 with
  | zero => simp [State.fillCodewords]
  | succ n ih =>
    unfold State.fillCodewords
    split
    · simp
    · exact ((State.sendData_only _ _ _).mono (by decide)).trans (ih _ _)

@[simp] theorem State.fillCodewords_step (p : Nat) (a1 : Nat) (a2 : List Byte) (a3 : State) {ps : List Part} {r₀ : State}
    (h : [.out, .regs, .ports] ⊆ ps) :
    Only ps r₀ (State.fillCodewords p a1 a2 a3) ↔ Only ps r₀ a3 :=
  (State.fillCodewords_only p a1 a2 a3).step h

theorem State.leaveWarm_only (s : State) (p : Nat) :
    Only [.out, .regs] s (State.leaveWarm s p) := by
  simp [State.leaveWarm]

@[simp] theorem State.leaveWarm_step (s : State) (p : Nat) {ps : List Part} {r₀ : State}
    (h : [.out, .regs] ⊆ ps) :
    Only ps r₀ (State.leaveWarm s p) ↔ Only ps r₀ s :=
  (State.leaveWarm_only s p).step h

theorem State.sendItem_only (s : State) (p : Nat) (i : LinkItem) :
    Only [.out, .regs, .ports] s (State.sendItem s p i) := by
  simp [State.sendItem]

@[simp] theorem State.sendItem_step (s : State) (p : Nat) (i : LinkItem) {ps : List Part} {r₀ : State}
    (h : [.out, .regs, .ports] ⊆ ps) :
    Only ps r₀ (State.sendItem s p i) ↔ Only ps r₀ s :=
  (State.sendItem_only s p i).step h

theorem State.flushTx_only (s : State) (p : Nat) :
    Only [.out, .regs, .ports] s (State.flushTx s p) := by
  simp [State.flushTx]

@[simp] theorem State.flushTx_step (s : State) (p : Nat) {ps : List Part} {r₀ : State}
    (h : [.out, .regs, .ports] ⊆ ps) :
    Only ps r₀ (State.flushTx s p) ↔ Only ps r₀ s :=
  (State.flushTx_only s p).step h

theorem State.sendUpdate_only (s : State) (p : Nat) (nak : Bool) :
    Only [.out, .regs, .ports] s (State.sendUpdate s p nak) := by
  simp [State.sendUpdate]

@[simp] theorem State.sendUpdate_step (s : State) (p : Nat) (nak : Bool) {ps : List Part} {r₀ : State}
    (h : [.out, .regs, .ports] ⊆ ps) :
    Only ps r₀ (State.sendUpdate s p nak) ↔ Only ps r₀ s :=
  (State.sendUpdate_only s p nak).step h

theorem State.sendControl_only (s : State) (p : Nat) (sub : Nat) (arg : Nat) :
    Only [.out, .regs, .ports] s (State.sendControl s p sub arg) := by
  simp [State.sendControl]

@[simp] theorem State.sendControl_step (s : State) (p : Nat) (sub : Nat) (arg : Nat) {ps : List Part} {r₀ : State}
    (h : [.out, .regs, .ports] ⊆ ps) :
    Only ps r₀ (State.sendControl s p sub arg) ↔ Only ps r₀ s :=
  (State.sendControl_only s p sub arg).step h

theorem State.sendNotice_only (s : State) (p : Nat) (reason : Nat) :
    Only [.out, .regs, .ports] s (State.sendNotice s p reason) := by
  simp [State.sendNotice]

@[simp] theorem State.sendNotice_step (s : State) (p : Nat) (reason : Nat) {ps : List Part} {r₀ : State}
    (h : [.out, .regs, .ports] ⊆ ps) :
    Only ps r₀ (State.sendNotice s p reason) ↔ Only ps r₀ s :=
  (State.sendNotice_only s p reason).step h

theorem State.endNotice_only (s : State) (p : Nat) :
    Only [.out, .ports] s (State.endNotice s p) := by
  unfold State.endNotice
  (repeat' split) <;> simp

@[simp] theorem State.endNotice_step (s : State) (p : Nat) {ps : List Part} {r₀ : State}
    (h : [.out, .ports] ⊆ ps) :
    Only ps r₀ (State.endNotice s p) ↔ Only ps r₀ s :=
  (State.endNotice_only s p).step h

theorem State.dropPartial_only (s : State) (p : Nat) :
    Only [.ports] s (State.dropPartial s p) := by
  simp [State.dropPartial]

@[simp] theorem State.dropPartial_step (s : State) (p : Nat) {ps : List Part} {r₀ : State}
    (h : [.ports] ⊆ ps) :
    Only ps r₀ (State.dropPartial s p) ↔ Only ps r₀ s :=
  (State.dropPartial_only s p).step h

theorem State.applyOne_only (s : State) (p : Nat) (q : EqSetting) :
    Only [.regs, .lanes] s (State.applyOne s p q) := by
  simp [State.applyOne]

@[simp] theorem State.applyOne_step (s : State) (p : Nat) (q : EqSetting) {ps : List Part} {r₀ : State}
    (h : [.regs, .lanes] ⊆ ps) :
    Only ps r₀ (State.applyOne s p q) ↔ Only ps r₀ s :=
  (State.applyOne_only s p q).step h

theorem State.applyEq_only (s : State) (p : Nat) :
    Only [.regs, .ports, .lanes] s (State.applyEq s p) := by
  simp [State.applyEq]

@[simp] theorem State.applyEq_step (s : State) (p : Nat) {ps : List Part} {r₀ : State}
    (h : [.regs, .ports, .lanes] ⊆ ps) :
    Only ps r₀ (State.applyEq s p) ↔ Only ps r₀ s :=
  (State.applyEq_only s p).step h

theorem State.retrainEq_only (s : State) (p : Nat) :
    Only [.regs, .ports, .lanes] s (State.retrainEq s p) := by
  simp [State.retrainEq]

@[simp] theorem State.retrainEq_step (s : State) (p : Nat) {ps : List Part} {r₀ : State}
    (h : [.regs, .ports, .lanes] ⊆ ps) :
    Only ps r₀ (State.retrainEq s p) ↔ Only ps r₀ s :=
  (State.retrainEq_only s p).step h

theorem State.startDetect_only (s : State) (p : Nat) :
    Only [.out, .regs, .ports, .lanes] s (State.startDetect s p) := by
  simp [State.startDetect]

@[simp] theorem State.startDetect_step (s : State) (p : Nat) {ps : List Part} {r₀ : State}
    (h : [.out, .regs, .ports, .lanes] ⊆ ps) :
    Only ps r₀ (State.startDetect s p) ↔ Only ps r₀ s :=
  (State.startDetect_only s p).step h

theorem State.startSeries_only (s : State) (p : Nat) :
    Only [.out, .regs, .ports, .lanes] s (State.startSeries s p) := by
  simp [State.startSeries]

@[simp] theorem State.startSeries_step (s : State) (p : Nat) {ps : List Part} {r₀ : State}
    (h : [.out, .regs, .ports, .lanes] ⊆ ps) :
    Only ps r₀ (State.startSeries s p) ↔ Only ps r₀ s :=
  (State.startSeries_only s p).step h

theorem State.newSeries_only (s : State) (p : Nat) (keep : Bool) :
    Only [.out, .regs, .pcie, .ports, .lanes] s (State.newSeries s p keep) := by
  simp [State.newSeries]

@[simp] theorem State.newSeries_step (s : State) (p : Nat) (keep : Bool) {ps : List Part} {r₀ : State}
    (h : [.out, .regs, .pcie, .ports, .lanes] ⊆ ps) :
    Only ps r₀ (State.newSeries s p keep) ↔ Only ps r₀ s :=
  (State.newSeries_only s p keep).step h

theorem State.readmit_only (s : State) (p : Nat) :
    Only [.regs, .ports] s (State.readmit s p) := by
  simp [State.readmit]

@[simp] theorem State.readmit_step (s : State) (p : Nat) {ps : List Part} {r₀ : State}
    (h : [.regs, .ports] ⊆ ps) :
    Only ps r₀ (State.readmit s p) ↔ Only ps r₀ s :=
  (State.readmit_only s p).step h

theorem State.coldRetrain_only (s : State) (p : Nat) (reason : Nat) :
    Only [.out, .regs, .pcie, .ports, .lanes] s (State.coldRetrain s p reason) := by
  simp [State.coldRetrain]

@[simp] theorem State.coldRetrain_step (s : State) (p : Nat) (reason : Nat) {ps : List Part} {r₀ : State}
    (h : [.out, .regs, .pcie, .ports, .lanes] ⊆ ps) :
    Only ps r₀ (State.coldRetrain s p reason) ↔ Only ps r₀ s :=
  (State.coldRetrain_only s p reason).step h

theorem State.shortRetrainOn_only (s : State) (p : Nat) (lanes : Nat) :
    Only [.out, .regs, .pcie, .ports, .lanes] s (State.shortRetrainOn s p lanes) := by
  simp only [State.shortRetrainOn]
  (repeat' split) <;> simp

@[simp] theorem State.shortRetrainOn_step (s : State) (p : Nat) (lanes : Nat) {ps : List Part} {r₀ : State}
    (h : [.out, .regs, .pcie, .ports, .lanes] ⊆ ps) :
    Only ps r₀ (State.shortRetrainOn s p lanes) ↔ Only ps r₀ s :=
  (State.shortRetrainOn_only s p lanes).step h

theorem State.shortRetrain_only (s : State) (p : Nat) :
    Only [.out, .regs, .pcie, .ports, .lanes] s (State.shortRetrain s p) := by
  simp [State.shortRetrain]

@[simp] theorem State.shortRetrain_step (s : State) (p : Nat) {ps : List Part} {r₀ : State}
    (h : [.out, .regs, .pcie, .ports, .lanes] ⊆ ps) :
    Only ps r₀ (State.shortRetrain s p) ↔ Only ps r₀ s :=
  (State.shortRetrain_only s p).step h

theorem State.narrowPorts_only (s : State) :
    Only [.out, .regs, .pcie, .thermal, .ports, .lanes] s (State.narrowPorts s) := by
  simp [State.narrowPorts]

@[simp] theorem State.narrowPorts_step (s : State) {ps : List Part} {r₀ : State}
    (h : [.out, .regs, .pcie, .thermal, .ports, .lanes] ⊆ ps) :
    Only ps r₀ (State.narrowPorts s) ↔ Only ps r₀ s :=
  (State.narrowPorts_only s).step h

theorem State.disablePort_only (s : State) (p : Nat) (keep : Bool) :
    Only [.regs, .ports] s (State.disablePort s p keep) := by
  simp [State.disablePort]

@[simp] theorem State.disablePort_step (s : State) (p : Nat) (keep : Bool) {ps : List Part} {r₀ : State}
    (h : [.regs, .ports] ⊆ ps) :
    Only ps r₀ (State.disablePort s p keep) ↔ Only ps r₀ s :=
  (State.disablePort_only s p keep).step h

theorem State.stopPort_only (s : State) (p : Nat) (reason : Nat) (keep : Bool) :
    Only [.out, .regs, .ports] s (State.stopPort s p reason keep) := by
  simp [State.stopPort]

@[simp] theorem State.stopPort_step (s : State) (p : Nat) (reason : Nat) (keep : Bool) {ps : List Part} {r₀ : State}
    (h : [.out, .regs, .ports] ⊆ ps) :
    Only ps r₀ (State.stopPort s p reason keep) ↔ Only ps r₀ s :=
  (State.stopPort_only s p reason keep).step h

theorem State.quenchPorts_only (s : State) :
    Only [.out, .regs, .ports] s (State.quenchPorts s) := by
  simp [State.quenchPorts]

@[simp] theorem State.quenchPorts_step (s : State) {ps : List Part} {r₀ : State}
    (h : [.out, .regs, .ports] ⊆ ps) :
    Only ps r₀ (State.quenchPorts s) ↔ Only ps r₀ s :=
  (State.quenchPorts_only s).step h

theorem State.idlePorts_only (s : State) :
    Only [.out, .regs, .ports] s (State.idlePorts s) := by
  simp [State.idlePorts]

@[simp] theorem State.idlePorts_step (s : State) {ps : List Part} {r₀ : State}
    (h : [.out, .regs, .ports] ⊆ ps) :
    Only ps r₀ (State.idlePorts s) ↔ Only ps r₀ s :=
  (State.idlePorts_only s).step h

theorem State.trainPorts_only (s : State) :
    Only [.out, .regs, .ports, .lanes] s (State.trainPorts s) := by
  simp [State.trainPorts]

@[simp] theorem State.trainPorts_step (s : State) {ps : List Part} {r₀ : State}
    (h : [.out, .regs, .ports, .lanes] ⊆ ps) :
    Only ps r₀ (State.trainPorts s) ↔ Only ps r₀ s :=
  (State.trainPorts_only s).step h

theorem State.settlePorts_only (s : State) :
    Only [.regs] s (State.settlePorts s) := by
  simp [State.settlePorts]

@[simp] theorem State.settlePorts_step (s : State) {ps : List Part} {r₀ : State}
    (h : [.regs] ⊆ ps) :
    Only ps r₀ (State.settlePorts s) ↔ Only ps r₀ s :=
  (State.settlePorts_only s).step h

theorem State.startFresh_only (s : State) (p : Nat) :
    Only [.out, .regs, .pcie, .log, .logWritten, .sideband, .ports] s (State.startFresh s p) := by
  simp [State.startFresh]

@[simp] theorem State.startFresh_step (s : State) (p : Nat) {ps : List Part} {r₀ : State}
    (h : [.out, .regs, .pcie, .log, .logWritten, .sideband, .ports] ⊆ ps) :
    Only ps r₀ (State.startFresh s p) ↔ Only ps r₀ s :=
  (State.startFresh_only s p).step h

theorem State.resend_only (s : State) (p : Nat) :
    Only [.out, .ports] s (State.resend s p) := by
  simp [State.resend]

@[simp] theorem State.resend_step (s : State) (p : Nat) {ps : List Part} {r₀ : State}
    (h : [.out, .ports] ⊆ ps) :
    Only ps r₀ (State.resend s p) ↔ Only ps r₀ s :=
  (State.resend_only s p).step h

theorem State.startResumed_only (s : State) (p : Nat) :
    Only [.out, .regs, .ports] s (State.startResumed s p) := by
  simp [State.startResumed]

@[simp] theorem State.startResumed_step (s : State) (p : Nat) {ps : List Part} {r₀ : State}
    (h : [.out, .regs, .ports] ⊆ ps) :
    Only ps r₀ (State.startResumed s p) ↔ Only ps r₀ s :=
  (State.startResumed_only s p).step h

theorem State.becomeActive_only (s : State) (p : Nat) :
    Only [.out, .regs, .pcie, .log, .logWritten, .sideband, .ports] s (State.becomeActive s p) := by
  simp [State.becomeActive]

@[simp] theorem State.becomeActive_step (s : State) (p : Nat) {ps : List Part} {r₀ : State}
    (h : [.out, .regs, .pcie, .log, .logWritten, .sideband, .ports] ⊆ ps) :
    Only ps r₀ (State.becomeActive s p) ↔ Only ps r₀ s :=
  (State.becomeActive_only s p).step h

theorem State.failAttempt_only (s : State) (p : Nat) (code : Nat) :
    Only [.out, .regs, .pcie, .log, .logWritten, .sideband, .ports] s (State.failAttempt s p code) := by
  simp [State.failAttempt]

@[simp] theorem State.failAttempt_step (s : State) (p : Nat) (code : Nat) {ps : List Part} {r₀ : State}
    (h : [.out, .regs, .pcie, .log, .logWritten, .sideband, .ports] ⊆ ps) :
    Only ps r₀ (State.failAttempt s p code) ↔ Only ps r₀ s :=
  (State.failAttempt_only s p code).step h

end Sys2Proof.Machine
end

