-- ==== Sys2Proof/Laws/FrameLanes.lean ====
section
/-!
SUPPORT. What the operations of Lanes.lean leave unchanged: one lemma for each.
-/
namespace Sys2Proof.Machine

theorem State.sendFrame_only (s : State) (p : Nat) (l : Nat) :
    Only [.out] s (State.sendFrame s p l) := by
  simp [State.sendFrame]

@[simp] theorem State.sendFrame_step (s : State) (p : Nat) (l : Nat) {ps : List Part} {r₀ : State}
    (h : [.out] ⊆ ps) :
    Only ps r₀ (State.sendFrame s p l) ↔ Only ps r₀ s :=
  (State.sendFrame_only s p l).step h

theorem State.idlePort_only (s : State) (p : Nat) :
    Only [.out, .regs, .ports] s (State.idlePort s p) := by
  unfold State.idlePort
  dsimp only
  split
  · exact (State.sendLine_only _ _ _ _).mono (by decide)
  · split
    · split
      · simp
      · split
        · simp
        · split
          · exact Only.trans (by simp) ((State.sendData_only _ _ _).mono (by decide))
          · exact (State.sendFraming_only _ _).mono (by decide)
    · split
      · simp
      · split
        · exact Only.foldlI _ _ (fun x a => by simp) (by simp)
        · simp

@[simp] theorem State.idlePort_step (s : State) (p : Nat) {ps : List Part} {r₀ : State}
    (h : [.out, .regs, .ports] ⊆ ps) :
    Only ps r₀ (State.idlePort s p) ↔ Only ps r₀ s :=
  (State.idlePort_only s p).step h

theorem State.storeEq_only (s : State) (p : Nat) (x : TrainInput) :
    Only [.lanes] s (State.storeEq s p x) := by
  simp [State.storeEq]

@[simp] theorem State.storeEq_step (s : State) (p : Nat) (x : TrainInput) {ps : List Part} {r₀ : State}
    (h : [.lanes] ⊆ ps) :
    Only ps r₀ (State.storeEq s p x) ↔ Only ps r₀ s :=
  (State.storeEq_only s p x).step h

theorem State.adaptDfe_only (s : State) (p : Nat) :
    Only [.free, .lanes] s (State.adaptDfe s p) := by
  simp [State.adaptDfe]

@[simp] theorem State.adaptDfe_step (s : State) (p : Nat) {ps : List Part} {r₀ : State}
    (h : [.free, .lanes] ⊆ ps) :
    Only ps r₀ (State.adaptDfe s p) ↔ Only ps r₀ s :=
  (State.adaptDfe_only s p).step h

theorem State.toState_only (s : State) (p : Nat) (st : Nat) :
    Only [.regs] s (State.toState s p st) := by
  simp [State.toState]

@[simp] theorem State.toState_step (s : State) (p : Nat) (st : Nat) {ps : List Part} {r₀ : State}
    (h : [.regs] ⊆ ps) :
    Only ps r₀ (State.toState s p st) ↔ Only ps r₀ s :=
  (State.toState_only s p st).step h

theorem State.lockLanes_only (s : State) (p : Nat) (lanes : Nat) :
    Only [.regs, .ports] s (State.lockLanes s p lanes) := by
  simp [State.lockLanes]

@[simp] theorem State.lockLanes_step (s : State) (p : Nat) (lanes : Nat) {ps : List Part} {r₀ : State}
    (h : [.regs, .ports] ⊆ ps) :
    Only ps r₀ (State.lockLanes s p lanes) ↔ Only ps r₀ s :=
  (State.lockLanes_only s p lanes).step h

theorem State.lockSaved_only (s : State) (p : Nat) :
    Only [.regs] s (State.lockSaved s p) := by
  simp [State.lockSaved]

@[simp] theorem State.lockSaved_step (s : State) (p : Nat) {ps : List Part} {r₀ : State}
    (h : [.regs] ⊆ ps) :
    Only ps r₀ (State.lockSaved s p) ↔ Only ps r₀ s :=
  (State.lockSaved_only s p).step h

theorem State.fixPolarity_only (s : State) (p : Nat) :
    Only [.regs] s (State.fixPolarity s p) := by
  simp [State.fixPolarity]

@[simp] theorem State.fixPolarity_step (s : State) (p : Nat) {ps : List Part} {r₀ : State}
    (h : [.regs] ⊆ ps) :
    Only ps r₀ (State.fixPolarity s p) ↔ Only ps r₀ s :=
  (State.fixPolarity_only s p).step h

theorem State.startFraming_only (s : State) (p : Nat) :
    Only [.out, .regs, .ports] s (State.startFraming s p) := by
  unfold State.startFraming
  dsimp only
  exact Only.trans (by simp) ((State.sendLine_only _ _ _ _).mono (by decide))

@[simp] theorem State.startFraming_step (s : State) (p : Nat) {ps : List Part} {r₀ : State}
    (h : [.out, .regs, .ports] ⊆ ps) :
    Only ps r₀ (State.startFraming s p) ↔ Only ps r₀ s :=
  (State.startFraming_only s p).step h

theorem State.adapted_only (s : State) (p : Nat) (x : TrainInput) (set : Nat × Nat) :
    Only [.out, .regs, .ports, .lanes] s (State.adapted s p x set) := by
  simp [State.adapted]

@[simp] theorem State.adapted_step (s : State) (p : Nat) (x : TrainInput) (set : Nat × Nat) {ps : List Part} {r₀ : State}
    (h : [.out, .regs, .ports, .lanes] ⊆ ps) :
    Only ps r₀ (State.adapted s p x set) ↔ Only ps r₀ s :=
  (State.adapted_only s p x set).step h

theorem State.framed_only (s : State) (p : Nat) (x : TrainInput) :
    Only [.out, .regs, .ports] s (State.framed s p x) := by
  unfold State.framed
  dsimp only
  exact Only.trans (by simp) ((State.sendLine_only _ _ _ _).mono (by decide))

@[simp] theorem State.framed_step (s : State) (p : Nat) (x : TrainInput) {ps : List Part} {r₀ : State}
    (h : [.out, .regs, .ports] ⊆ ps) :
    Only ps r₀ (State.framed s p x) ↔ Only ps r₀ s :=
  (State.framed_only s p x).step h

theorem State.timerFail_only (s : State) (p : Nat) (code : Nat) :
    Only [.out, .regs, .pcie, .log, .logWritten, .sideband, .ports] s (State.timerFail s p code) := by
  simp [State.timerFail]

@[simp] theorem State.timerFail_step (s : State) (p : Nat) (code : Nat) {ps : List Part} {r₀ : State}
    (h : [.out, .regs, .pcie, .log, .logWritten, .sideband, .ports] ⊆ ps) :
    Only ps r₀ (State.timerFail s p code) ↔ Only ps r₀ s :=
  (State.timerFail_only s p code).step h

theorem State.fastFails_only (s : State) (p : Nat) :
    Only [.out, .regs, .pcie, .ports, .lanes] s (State.fastFails s p) := by
  simp [State.fastFails]

@[simp] theorem State.fastFails_step (s : State) (p : Nat) {ps : List Part} {r₀ : State}
    (h : [.out, .regs, .pcie, .ports, .lanes] ⊆ ps) :
    Only ps r₀ (State.fastFails s p) ↔ Only ps r₀ s :=
  (State.fastFails_only s p).step h

theorem State.enterPower_only (s : State) (p : Nat) :
    Only [.out, .regs, .ports] s (State.enterPower s p) := by
  simp only [State.enterPower]
  (repeat' split) <;> simp

@[simp] theorem State.enterPower_step (s : State) (p : Nat) {ps : List Part} {r₀ : State}
    (h : [.out, .regs, .ports] ⊆ ps) :
    Only ps r₀ (State.enterPower s p) ↔ Only ps r₀ s :=
  (State.enterPower_only s p).step h

theorem State.returnFlit_only (s : State) (p : Nat) :
    Only [.ports] s (State.returnFlit s p) := by
  simp [State.returnFlit]

@[simp] theorem State.returnFlit_step (s : State) (p : Nat) {ps : List Part} {r₀ : State}
    (h : [.ports] ⊆ ps) :
    Only ps r₀ (State.returnFlit s p) ↔ Only ps r₀ s :=
  (State.returnFlit_only s p).step h

theorem State.askPower_only (s : State) (p : Nat) (arg : Nat) :
    Only [.out, .regs, .ports] s (State.askPower s p arg) := by
  simp [State.askPower]

@[simp] theorem State.askPower_step (s : State) (p : Nat) (arg : Nat) {ps : List Part} {r₀ : State}
    (h : [.out, .regs, .ports] ⊆ ps) :
    Only ps r₀ (State.askPower s p arg) ↔ Only ps r₀ s :=
  (State.askPower_only s p arg).step h

theorem State.commandPort_only (s : State) (p : Nat) (disable : Bool) :
    Only [.out, .regs, .ports, .lanes] s (State.commandPort s p disable) := by
  simp [State.commandPort]

@[simp] theorem State.commandPort_step (s : State) (p : Nat) (disable : Bool) {ps : List Part} {r₀ : State}
    (h : [.out, .regs, .ports, .lanes] ⊆ ps) :
    Only ps r₀ (State.commandPort s p disable) ↔ Only ps r₀ s :=
  (State.commandPort_only s p disable).step h

end Sys2Proof.Machine
end

