-- ==== Sys2Proof/Laws/FrameLink.lean ====
section
/-!
SUPPORT. What the operations of Link.lean leave unchanged: one lemma for each.
-/
namespace Sys2Proof.Machine

theorem State.reach_only (s : State) (t : Tick) :
    Only [.time] s (State.reach s t) := by
  simp [State.reach]

@[simp] theorem State.reach_step (s : State) (t : Tick) {ps : List Part} {r₀ : State}
    (h : [.time] ⊆ ps) :
    Only ps r₀ (State.reach s t) ↔ Only ps r₀ s :=
  (State.reach_only s t).step h

theorem State.pushReq_only (s : State) (r : Req) :
    Only [.regs, .ports] s (State.pushReq s r) := by
  simp [State.pushReq]

@[simp] theorem State.pushReq_step (s : State) (r : Req) {ps : List Part} {r₀ : State}
    (h : [.regs, .ports] ⊆ ps) :
    Only ps r₀ (State.pushReq s r) ↔ Only ps r₀ s :=
  (State.pushReq_only s r).step h

theorem State.advanceAck_only (s : State) (p : Nat) (seq : Nat) :
    Only [.ports] s (State.advanceAck s p seq) := by
  simp [State.advanceAck]

@[simp] theorem State.advanceAck_step (s : State) (p : Nat) (seq : Nat) {ps : List Part} {r₀ : State}
    (h : [.ports] ⊆ ps) :
    Only ps r₀ (State.advanceAck s p seq) ↔ Only ps r₀ s :=
  (State.advanceAck_only s p seq).step h

theorem State.takeParsed_only (s : State) (p : Nat) (seq : Nat) (off : Nat) (ticks : List (Nat × Tick)) (q : Parsed) :
    Only [.regs, .ports] s (State.takeParsed s p seq off ticks q) := by
  simp [State.takeParsed]

@[simp] theorem State.takeParsed_step (s : State) (p : Nat) (seq : Nat) (off : Nat) (ticks : List (Nat × Tick)) (q : Parsed) {ps : List Part} {r₀ : State}
    (h : [.regs, .ports] ⊆ ps) :
    Only ps r₀ (State.takeParsed s p seq off ticks q) ↔ Only ps r₀ s :=
  (State.takeParsed_only s p seq off ticks q).step h

theorem State.acceptCodeword_only (s : State) (p : Nat) (tick : Tick) (data : List Byte) :
    Only [.regs, .ports] s (State.acceptCodeword s p tick data) := by
  simp [State.acceptCodeword]

@[simp] theorem State.acceptCodeword_step (s : State) (p : Nat) (tick : Tick) (data : List Byte) {ps : List Part} {r₀ : State}
    (h : [.regs, .ports] ⊆ ps) :
    Only ps r₀ (State.acceptCodeword s p tick data) ↔ Only ps r₀ s :=
  (State.acceptCodeword_only s p tick data).step h

theorem State.sendNak_only (s : State) (p : Nat) :
    Only [.out, .regs, .ports] s (State.sendNak s p) := by
  simp [State.sendNak]

@[simp] theorem State.sendNak_step (s : State) (p : Nat) {ps : List Part} {r₀ : State}
    (h : [.out, .regs, .ports] ⊆ ps) :
    Only ps r₀ (State.sendNak s p) ↔ Only ps r₀ s :=
  (State.sendNak_only s p).step h

theorem State.countSer_only (s : State) (p : Nat) (places : List (Nat × Nat)) :
    Only [.lanes] s (State.countSer s p places) := by
  unfold State.countSer
  refine Only.foldlI _ _ (fun x a => ?_) (by simp)
  try dsimp only
  (repeat' split) <;> simp

@[simp] theorem State.countSer_step (s : State) (p : Nat) (places : List (Nat × Nat)) {ps : List Part} {r₀ : State}
    (h : [.lanes] ⊆ ps) :
    Only ps r₀ (State.countSer s p places) ↔ Only ps r₀ s :=
  (State.countSer_only s p places).step h

theorem State.countFec_only (s : State) (p : Nat) (a2 : Option (List (Nat × Nat))) :
    Only [.regs, .lanes] s (State.countFec s p a2) := by
  unfold State.countFec
  (repeat' split) <;> simp

@[simp] theorem State.countFec_step (s : State) (p : Nat) (a2 : Option (List (Nat × Nat))) {ps : List Part} {r₀ : State}
    (h : [.regs, .lanes] ⊆ ps) :
    Only ps r₀ (State.countFec s p a2) ↔ Only ps r₀ s :=
  (State.countFec_only s p a2).step h

theorem State.receiveResync_only (s : State) (p : Nat) (seq : Nat) :
    Only [.out, .regs, .ports] s (State.receiveResync s p seq) := by
  simp [State.receiveResync]

@[simp] theorem State.receiveResync_step (s : State) (p : Nat) (seq : Nat) {ps : List Part} {r₀ : State}
    (h : [.out, .regs, .ports] ⊆ ps) :
    Only ps r₀ (State.receiveResync s p seq) ↔ Only ps r₀ s :=
  (State.receiveResync_only s p seq).step h

theorem State.receiveData_only (s : State) (p : Nat) (tick : Tick) (data : List Byte) :
    Only [.regs, .ports] s (State.receiveData s p tick data) := by
  simp [State.receiveData]

@[simp] theorem State.receiveData_step (s : State) (p : Nat) (tick : Tick) (data : List Byte) {ps : List Part} {r₀ : State}
    (h : [.regs, .ports] ⊆ ps) :
    Only ps r₀ (State.receiveData s p tick data) ↔ Only ps r₀ s :=
  (State.receiveData_only s p tick data).step h

theorem State.receiveSlot_only (s : State) (p : Nat) (c : Codeword) :
    Only [.out, .free, .time, .regs, .ports, .lanes] s (State.receiveSlot s p c) := by
  simp only [State.receiveSlot]
  (repeat' split) <;> simp

@[simp] theorem State.receiveSlot_step (s : State) (p : Nat) (c : Codeword) {ps : List Part} {r₀ : State}
    (h : [.out, .free, .time, .regs, .ports, .lanes] ⊆ ps) :
    Only ps r₀ (State.receiveSlot s p c) ↔ Only ps r₀ s :=
  (State.receiveSlot_only s p c).step h

theorem State.replay_only (s : State) (p : Nat) :
    Only [.out, .regs, .ports] s (State.replay s p) := by
  simp [State.replay]

@[simp] theorem State.replay_step (s : State) (p : Nat) {ps : List Part} {r₀ : State}
    (h : [.out, .regs, .ports] ⊆ ps) :
    Only ps r₀ (State.replay s p) ↔ Only ps r₀ s :=
  (State.replay_only s p).step h

theorem State.takeAck_only (s : State) (p : Nat) (ack : Nat) :
    Only [.out, .regs, .ports] s (State.takeAck s p ack) := by
  simp [State.takeAck]

@[simp] theorem State.takeAck_step (s : State) (p : Nat) (ack : Nat) {ps : List Part} {r₀ : State}
    (h : [.out, .regs, .ports] ⊆ ps) :
    Only ps r₀ (State.takeAck s p ack) ↔ Only ps r₀ s :=
  (State.takeAck_only s p ack).step h

theorem State.takeCredits_only (s : State) (p : Nat) (c2 : Nat) (c3 : Nat) :
    Only [.regs, .ports] s (State.takeCredits s p c2 c3) := by
  simp [State.takeCredits]

@[simp] theorem State.takeCredits_step (s : State) (p : Nat) (c2 : Nat) (c3 : Nat) {ps : List Part} {r₀ : State}
    (h : [.regs, .ports] ⊆ ps) :
    Only ps r₀ (State.takeCredits s p c2 c3) ↔ Only ps r₀ s :=
  (State.takeCredits_only s p c2 c3).step h

theorem State.answer_only (s : State) (r : Req) (status : Nat) (arg : Nat) (payload : List Byte) (packets : optParam Nat 0) (measured : optParam (Option Nat) none) :
    Only [.regs, .ports] s (State.answer s r status arg payload packets measured) := by
  simp [State.answer]

@[simp] theorem State.answer_step (s : State) (r : Req) (status : Nat) (arg : Nat) (payload : List Byte) (packets : optParam Nat 0) (measured : optParam (Option Nat) none) {ps : List Part} {r₀ : State}
    (h : [.regs, .ports] ⊆ ps) :
    Only ps r₀ (State.answer s r status arg payload packets measured) ↔ Only ps r₀ s :=
  (State.answer_only s r status arg payload packets measured).step h

theorem State.measureLatency_only (s : State) (r : Reply) :
    Only [.latency] s (State.measureLatency s r) := by
  unfold State.measureLatency
  (repeat' split) <;> simp

@[simp] theorem State.measureLatency_step (s : State) (r : Reply) {ps : List Part} {r₀ : State}
    (h : [.latency] ⊆ ps) :
    Only ps r₀ (State.measureLatency s r) ↔ Only ps r₀ s :=
  (State.measureLatency_only s r).step h

theorem State.returnCredits_only (s : State) (r : Req) :
    Only [.ports] s (State.returnCredits s r) := by
  unfold State.returnCredits
  (repeat' split) <;> simp

@[simp] theorem State.returnCredits_step (s : State) (r : Req) {ps : List Part} {r₀ : State}
    (h : [.ports] ⊆ ps) :
    Only ps r₀ (State.returnCredits s r) ↔ Only ps r₀ s :=
  (State.returnCredits_only s r).step h

theorem State.takeReq_only (s : State) (r : Req) :
    Only [.regs, .ports] s (State.takeReq s r) := by
  simp [State.takeReq]

@[simp] theorem State.takeReq_step (s : State) (r : Req) {ps : List Part} {r₀ : State}
    (h : [.regs, .ports] ⊆ ps) :
    Only ps r₀ (State.takeReq s r) ↔ Only ps r₀ s :=
  (State.takeReq_only s r).step h

theorem State.keepRoom_only (s : State) (r : Req) (longest : Nat) :
    Only [.ports] s (State.keepRoom s r longest) := by
  simp [State.keepRoom]

@[simp] theorem State.keepRoom_step (s : State) (r : Req) (longest : Nat) {ps : List Part} {r₀ : State}
    (h : [.ports] ⊆ ps) :
    Only ps r₀ (State.keepRoom s r longest) ↔ Only ps r₀ s :=
  (State.keepRoom_only s r longest).step h

theorem State.dropRoom_only (s : State) (r : Req) :
    Only [.ports] s (State.dropRoom s r) := by
  simp [State.dropRoom]

@[simp] theorem State.dropRoom_step (s : State) (r : Req) {ps : List Part} {r₀ : State}
    (h : [.ports] ⊆ ps) :
    Only ps r₀ (State.dropRoom s r) ↔ Only ps r₀ s :=
  (State.dropRoom_only s r).step h

theorem State.refuseLength_only (s : State) (r : Req) :
    Only [.regs, .ports] s (State.refuseLength s r) := by
  simp [State.refuseLength]

@[simp] theorem State.refuseLength_step (s : State) (r : Req) {ps : List Part} {r₀ : State}
    (h : [.regs, .ports] ⊆ ps) :
    Only ps r₀ (State.refuseLength s r) ↔ Only ps r₀ s :=
  (State.refuseLength_only s r).step h

theorem State.refuseEarly_only (s : State) (r : Req) (st : Nat) :
    Only [.regs, .ports] s (State.refuseEarly s r st) := by
  simp [State.refuseEarly]

@[simp] theorem State.refuseEarly_step (s : State) (r : Req) (st : Nat) {ps : List Part} {r₀ : State}
    (h : [.regs, .ports] ⊆ ps) :
    Only ps r₀ (State.refuseEarly s r st) ↔ Only ps r₀ s :=
  (State.refuseEarly_only s r st).step h

theorem State.failFirst_only (s : State) (p : Nat) (long : Bool) :
    Only [.out, .regs, .ports] s (State.failFirst s p long) := by
  simp [State.failFirst]

@[simp] theorem State.failFirst_step (s : State) (p : Nat) (long : Bool) {ps : List Part} {r₀ : State}
    (h : [.out, .regs, .ports] ⊆ ps) :
    Only ps r₀ (State.failFirst s p long) ↔ Only ps r₀ s :=
  (State.failFirst_only s p long).step h

theorem State.failAgain_only (s : State) (p : Nat) :
    Only [.regs, .ports] s (State.failAgain s p) := by
  simp [State.failAgain]

@[simp] theorem State.failAgain_step (s : State) (p : Nat) {ps : List Part} {r₀ : State}
    (h : [.regs, .ports] ⊆ ps) :
    Only ps r₀ (State.failAgain s p) ↔ Only ps r₀ s :=
  (State.failAgain_only s p).step h

theorem State.failFatal_only (s : State) (p : Nat) (long : Bool) :
    Only [.out, .regs, .pcie, .log, .logWritten, .sideband, .ports, .lanes] s (State.failFatal s p long) := by
  simp [State.failFatal]

@[simp] theorem State.failFatal_step (s : State) (p : Nat) (long : Bool) {ps : List Part} {r₀ : State}
    (h : [.out, .regs, .pcie, .log, .logWritten, .sideband, .ports, .lanes] ⊆ ps) :
    Only ps r₀ (State.failFatal s p long) ↔ Only ps r₀ s :=
  (State.failFatal_only s p long).step h

end Sys2Proof.Machine
end

