-- ==== Sys2Proof/Laws/FramePool.lean ====
section
/-!
SUPPORT. What the operations of Pool.lean leave unchanged: one lemma for each.
-/
namespace Sys2Proof.Machine

theorem State.syncPools_only (s : State) :
    Only [.regs] s (State.syncPools s) := by
  simp [State.syncPools]

@[simp] theorem State.syncPools_step (s : State) {ps : List Part} {r₀ : State}
    (h : [.regs] ⊆ ps) :
    Only ps r₀ (State.syncPools s) ↔ Only ps r₀ s :=
  (State.syncPools_only s).step h

theorem State.takeRow_only (s : State) (pc : Nat) (u₀ : RowAt × State) (h : State.takeRow s pc = some u₀) :
    Only [.marver] s u₀.2 := by
  unfold State.takeRow at h
  dsimp only at h
  repeat' split at h
  all_goals first
    | (cases h; simp)
    | cases h

theorem State.giveRow_only (s : State) (r : RowAt) :
    Only [.marver] s (State.giveRow s r) := by
  simp [State.giveRow]

@[simp] theorem State.giveRow_step (s : State) (r : RowAt) {ps : List Part} {r₀ : State}
    (h : [.marver] ⊆ ps) :
    Only ps r₀ (State.giveRow s r) ↔ Only ps r₀ s :=
  (State.giveRow_only s r).step h

theorem State.takeTableRow_only (s : State) (avoid : Option Nat) (u₀ : RowAt × State) (h : State.takeTableRow s avoid = some u₀) :
    Only [.marver] s u₀.2 := by
  unfold State.takeTableRow at h
  dsimp only at h
  split at h
  · cases h
  · next n _ =>
    cases hr : s.takeRow n with
    | none => simp [hr] at h
    | some y =>
      have hy := State.takeRow_only _ _ _ hr
      simp only [hr, Option.map_some, Option.some.injEq] at h
      subst h
      exact hy.trans (by simp)

theorem State.setQueue_only (s : State) (q : Nat) (x : Queue) :
    Only [.queues] s (State.setQueue s q x) := by
  simp [State.setQueue]

@[simp] theorem State.setQueue_step (s : State) (q : Nat) (x : Queue) {ps : List Part} {r₀ : State}
    (h : [.queues] ⊆ ps) :
    Only ps r₀ (State.setQueue s q x) ↔ Only ps r₀ s :=
  (State.setQueue_only s q x).step h

theorem State.openBlock_only (s : State) (q : Nat) (bseq : Nat) :
    Only [.regs, .queues, .marver, .placed] s (State.openBlock s q bseq) := by
  unfold State.openBlock
  dsimp only
  split
  · simp
  · next y h =>
    refine Only.trans ((State.takeRow_only _ _ _ h).mono (by decide)) ?_
    (repeat' split) <;> simp

@[simp] theorem State.openBlock_step (s : State) (q : Nat) (bseq : Nat) {ps : List Part} {r₀ : State}
    (h : [.regs, .queues, .marver, .placed] ⊆ ps) :
    Only ps r₀ (State.openBlock s q bseq) ↔ Only ps r₀ s :=
  (State.openBlock_only s q bseq).step h

theorem State.openBlocks_only (s : State) (q : Nat) (a2 : Nat) (a3 : Nat) :
    Only [.regs, .queues, .marver, .placed] s (State.openBlocks s q a2 a3) := by
  induction a3 generalizing s a2 with
  | zero => simp [State.openBlocks]
  | succ n ih => exact (State.openBlock_only s q a2).trans (ih _ _)

@[simp] theorem State.openBlocks_step (s : State) (q : Nat) (a2 : Nat) (a3 : Nat) {ps : List Part} {r₀ : State}
    (h : [.regs, .queues, .marver, .placed] ⊆ ps) :
    Only ps r₀ (State.openBlocks s q a2 a3) ↔ Only ps r₀ s :=
  (State.openBlocks_only s q a2 a3).step h

theorem State.releasePlaces_only (s : State) (gone : List Place) :
    Only [.regs, .marver] s (State.releasePlaces s gone) := by
  simp [State.releasePlaces]

@[simp] theorem State.releasePlaces_step (s : State) (gone : List Place) {ps : List Part} {r₀ : State}
    (h : [.regs, .marver] ⊆ ps) :
    Only ps r₀ (State.releasePlaces s gone) ↔ Only ps r₀ s :=
  (State.releasePlaces_only s gone).step h

theorem State.evictHead_only (s : State) :
    Only [.marver] s (State.evictHead s) := by
  unfold State.evictHead
  (repeat' split) <;> simp

@[simp] theorem State.evictHead_step (s : State) {ps : List Part} {r₀ : State}
    (h : [.marver] ⊆ ps) :
    Only ps r₀ (State.evictHead s) ↔ Only ps r₀ s :=
  (State.evictHead_only s).step h

theorem State.prefetchBlock_only (s : State) (q : Nat) (bseq : Nat) (cls : Nat) :
    Only [.marver] s (State.prefetchBlock s q bseq cls) := by
  simp [State.prefetchBlock]

@[simp] theorem State.prefetchBlock_step (s : State) (q : Nat) (bseq : Nat) (cls : Nat) {ps : List Part} {r₀ : State}
    (h : [.marver] ⊆ ps) :
    Only ps r₀ (State.prefetchBlock s q bseq cls) ↔ Only ps r₀ s :=
  (State.prefetchBlock_only s q bseq cls).step h

theorem State.touchHead_only (s : State) (q : Nat) (bseq : Nat) :
    Only [.marver] s (State.touchHead s q bseq) := by
  simp [State.touchHead]

@[simp] theorem State.touchHead_step (s : State) (q : Nat) (bseq : Nat) {ps : List Part} {r₀ : State}
    (h : [.marver] ⊆ ps) :
    Only ps r₀ (State.touchHead s q bseq) ↔ Only ps r₀ s :=
  (State.touchHead_only s q bseq).step h

end Sys2Proof.Machine
end

