-- ==== Sys2Proof/Laws/FrameChannels.lean ====
section
/-!
SUPPORT. What the operations of Channels.lean leave unchanged: one lemma for each.
-/
namespace Sys2Proof.Machine

theorem State.stackWrite_only (s : State) (k : Nat) (b : List Byte) :
    Only [.mem, .integrity] s (State.stackWrite s k b) := by
  simp [State.stackWrite]

@[simp] theorem State.stackWrite_step (s : State) (k : Nat) (b : List Byte) {ps : List Part} {r₀ : State}
    (h : [.mem, .integrity] ⊆ ps) :
    Only ps r₀ (State.stackWrite s k b) ↔ Only ps r₀ s :=
  (State.stackWrite_only s k b).step h

theorem State.landWords_only (s : State) (r : MemReq) :
    Only [.mem, .integrity] s (State.landWords s r) := by
  simp [State.landWords]

@[simp] theorem State.landWords_step (s : State) (r : MemReq) {ps : List Part} {r₀ : State}
    (h : [.mem, .integrity] ⊆ ps) :
    Only ps r₀ (State.landWords s r) ↔ Only ps r₀ s :=
  (State.landWords_only s r).step h

theorem State.landEntry_only (s : State) (e : MemEntry) :
    Only [.mem, .integrity] s (State.landEntry s e) := by
  simp [State.landEntry]

@[simp] theorem State.landEntry_step (s : State) (e : MemEntry) {ps : List Part} {r₀ : State}
    (h : [.mem, .integrity] ⊆ ps) :
    Only ps r₀ (State.landEntry s e) ↔ Only ps r₀ s :=
  (State.landEntry_only s e).step h

theorem State.setPc_only (s : State) (n : Nat) (x : Pc) :
    Only [.regs, .pcs] s (State.setPc s n x) := by
  simp [State.setPc]

@[simp] theorem State.setPc_step (s : State) (n : Nat) (x : Pc) {ps : List Part} {r₀ : State}
    (h : [.regs, .pcs] ⊆ ps) :
    Only ps r₀ (State.setPc s n x) ↔ Only ps r₀ s :=
  (State.setPc_only s n x).step h

theorem State.wakePc_only (s : State) (n : Nat) :
    Only [.regs] s (State.wakePc s n) := by
  simp [State.wakePc]

@[simp] theorem State.wakePc_step (s : State) (n : Nat) {ps : List Part} {r₀ : State}
    (h : [.regs] ⊆ ps) :
    Only ps r₀ (State.wakePc s n) ↔ Only ps r₀ s :=
  (State.wakePc_only s n).step h

theorem State.closeRows_only (s : State) (n : Nat) :
    Only [.regs, .pcs] s (State.closeRows s n) := by
  simp [State.closeRows]

@[simp] theorem State.closeRows_step (s : State) (n : Nat) {ps : List Part} {r₀ : State}
    (h : [.regs, .pcs] ⊆ ps) :
    Only ps r₀ (State.closeRows s n) ↔ Only ps r₀ s :=
  (State.closeRows_only s n).step h

theorem State.discardQueued_only (s : State) (n : Nat) :
    Only [.regs, .pcs] s (State.discardQueued s n) := by
  simp [State.discardQueued]

@[simp] theorem State.discardQueued_step (s : State) (n : Nat) {ps : List Part} {r₀ : State}
    (h : [.regs, .pcs] ⊆ ps) :
    Only ps r₀ (State.discardQueued s n) ↔ Only ps r₀ s :=
  (State.discardQueued_only s n).step h

theorem State.charge_only (s : State) (n : Nat) (c : Nat) :
    Only [.regs, .pcs, .regulator] s (State.charge s n c).2 := by
  unfold State.charge
  (repeat' split) <;> simp

@[simp] theorem State.charge_step (s : State) (n : Nat) (c : Nat) {ps : List Part} {r₀ : State}
    (h : [.regs, .pcs, .regulator] ⊆ ps) :
    Only ps r₀ (State.charge s n c).2 ↔ Only ps r₀ s :=
  (State.charge_only s n c).step h

theorem State.noteDrain_only (s : State) (n : Nat) :
    Only [.regs] s (State.noteDrain s n) := by
  simp [State.noteDrain]

@[simp] theorem State.noteDrain_step (s : State) (n : Nat) {ps : List Part} {r₀ : State}
    (h : [.regs] ⊆ ps) :
    Only ps r₀ (State.noteDrain s n) ↔ Only ps r₀ s :=
  (State.noteDrain_only s n).step h

theorem State.enterQueue_only (s : State) (r : MemReq) :
    Only [.regs, .pcs, .regulator] s (State.enterQueue s r) := by
  simp [State.enterQueue]

@[simp] theorem State.enterQueue_step (s : State) (r : MemReq) {ps : List Part} {r₀ : State}
    (h : [.regs, .pcs, .regulator] ⊆ ps) :
    Only ps r₀ (State.enterQueue s r) ↔ Only ps r₀ s :=
  (State.enterQueue_only s r).step h

theorem State.mergeWrite_only (s : State) (r : MemReq) (w : MemEntry) :
    Only [.regs, .pcs] s (State.mergeWrite s r w) := by
  simp [State.mergeWrite]

@[simp] theorem State.mergeWrite_step (s : State) (r : MemReq) (w : MemEntry) {ps : List Part} {r₀ : State}
    (h : [.regs, .pcs] ⊆ ps) :
    Only ps r₀ (State.mergeWrite s r w) ↔ Only ps r₀ s :=
  (State.mergeWrite_only s r w).step h

theorem State.countForward_only (s : State) (n : Nat) :
    Only [.regs] s (State.countForward s n) := by
  simp [State.countForward]

@[simp] theorem State.countForward_step (s : State) (n : Nat) {ps : List Part} {r₀ : State}
    (h : [.regs] ⊆ ps) :
    Only ps r₀ (State.countForward s n) ↔ Only ps r₀ s :=
  (State.countForward_only s n).step h

theorem State.acceptReq_only (s : State) (r : MemReq) (u₀ : State) (h : State.acceptReq s r = some u₀) :
    Only [.out, .regs, .pcs, .regulator] s u₀ := by
  unfold State.acceptReq at h
  dsimp only at h
  repeat' split at h
  all_goals first
    | (cases h; simp)
    | cases h

theorem State.arrive_only (s : State) (r : MemReq) :
    Only [.out, .regs, .pcs, .regulator] s (State.arrive s r) := by
  unfold State.arrive
  dsimp only
  split
  · simp
  · cases h : (s.wakePc r.pc).acceptReq r with
    | none => simp [h]
    | some u =>
      simp only [h, Option.getD_some]
      exact Only.trans (by simp) ((State.acceptReq_only _ _ _ h).mono (by decide))

@[simp] theorem State.arrive_step (s : State) (r : MemReq) {ps : List Part} {r₀ : State}
    (h : [.out, .regs, .pcs, .regulator] ⊆ ps) :
    Only ps r₀ (State.arrive s r) ↔ Only ps r₀ s :=
  (State.arrive_only s r).step h

theorem State.request_only (s : State) (r : MemReq) :
    Only [.out, .regs, .pcs, .regulator] s (State.request s r) := by
  simp [State.request]

@[simp] theorem State.request_step (s : State) (r : MemReq) {ps : List Part} {r₀ : State}
    (h : [.out, .regs, .pcs, .regulator] ⊆ ps) :
    Only ps r₀ (State.request s r) ↔ Only ps r₀ s :=
  (State.request_only s r).step h

theorem State.writeBlock_only (s : State) (a : RowAt) (cls : Nat) (hint : Nat) (b : List Byte) :
    Only [.out, .regs, .pcs, .regulator] s (State.writeBlock s a cls hint b) := by
  simp [State.writeBlock]

@[simp] theorem State.writeBlock_step (s : State) (a : RowAt) (cls : Nat) (hint : Nat) (b : List Byte) {ps : List Part} {r₀ : State}
    (h : [.out, .regs, .pcs, .regulator] ⊆ ps) :
    Only ps r₀ (State.writeBlock s a cls hint b) ↔ Only ps r₀ s :=
  (State.writeBlock_only s a cls hint b).step h

end Sys2Proof.Machine
end

