-- ==== Sys2Proof/Laws/FrameQueues.lean ====
section
/-!
SUPPORT. What the operations of Queues.lean leave unchanged: one lemma for each.
-/
namespace Sys2Proof.Machine

theorem State.writeBlocks_only (s : State) (q : Nat) (x : Queue) (l : List (Nat × TailBlock)) :
    Only [.out, .regs, .pcs, .regulator] s (State.writeBlocks s q x l) := by
  unfold State.writeBlocks
  refine Only.foldlI _ _ (fun x a => ?_) (by simp)
  try dsimp only
  (repeat' split) <;> simp

@[simp] theorem State.writeBlocks_step (s : State) (q : Nat) (x : Queue) (l : List (Nat × TailBlock)) {ps : List Part} {r₀ : State}
    (h : [.out, .regs, .pcs, .regulator] ⊆ ps) :
    Only ps r₀ (State.writeBlocks s q x l) ↔ Only ps r₀ s :=
  (State.writeBlocks_only s q x l).step h

theorem State.breakQueue_only (s : State) (q : Nat) (counts : Nat × Nat × Nat) :
    Only [.out, .regs, .pcie, .log, .logWritten, .sideband, .queues] s (State.breakQueue s q counts) := by
  simp [State.breakQueue]

@[simp] theorem State.breakQueue_step (s : State) (q : Nat) (counts : Nat × Nat × Nat) {ps : List Part} {r₀ : State}
    (h : [.out, .regs, .pcie, .log, .logWritten, .sideband, .queues] ⊆ ps) :
    Only ps r₀ (State.breakQueue s q counts) ↔ Only ps r₀ s :=
  (State.breakQueue_only s q counts).step h

theorem State.refuseState_only (s : State) (r : Req) (status : Nat) :
    Only [.regs, .ports] s (State.refuseState s r status) := by
  simp [State.refuseState]

@[simp] theorem State.refuseState_step (s : State) (r : Req) (status : Nat) {ps : List Part} {r₀ : State}
    (h : [.regs, .ports] ⊆ ps) :
    Only ps r₀ (State.refuseState s r status) ↔ Only ps r₀ s :=
  (State.refuseState_only s r status).step h

theorem State.refuseEnq_only (s : State) (r : Req) (st : Nat) :
    Only [.out, .regs, .pcie, .log, .logWritten, .sideband, .ports, .queues] s (State.refuseEnq s r st) := by
  simp [State.refuseEnq]

@[simp] theorem State.refuseEnq_step (s : State) (r : Req) (st : Nat) {ps : List Part} {r₀ : State}
    (h : [.out, .regs, .pcie, .log, .logWritten, .sideband, .ports, .queues] ⊆ ps) :
    Only ps r₀ (State.refuseEnq s r st) ↔ Only ps r₀ s :=
  (State.refuseEnq_only s r st).step h

theorem State.openFor_only (s : State) (r : Req) :
    Only [.regs, .queues, .marver, .placed] s (State.openFor s r) := by
  simp [State.openFor]

@[simp] theorem State.openFor_step (s : State) (r : Req) {ps : List Part} {r₀ : State}
    (h : [.regs, .queues, .marver, .placed] ⊆ ps) :
    Only ps r₀ (State.openFor s r) ↔ Only ps r₀ s :=
  (State.openFor_only s r).step h

theorem State.commitEnq_only (s : State) (r : Req) :
    Only [.out, .regs, .ports, .queues, .marver, .pcs, .placed, .regulator] s (State.commitEnq s r) := by
  simp [State.commitEnq]

@[simp] theorem State.commitEnq_step (s : State) (r : Req) {ps : List Part} {r₀ : State}
    (h : [.out, .regs, .ports, .queues, .marver, .pcs, .placed, .regulator] ⊆ ps) :
    Only ps r₀ (State.commitEnq s r) ↔ Only ps r₀ s :=
  (State.commitEnq_only s r).step h

theorem State.readSectors_only (s : State) (q : Nat) (x : Queue) (cls : Nat) (hint : Nat) (b : Nat) (lo : Nat) (hi : Nat) :
    Only [.out, .regs, .pcs, .regulator] s (State.readSectors s q x cls hint b lo hi) := by
  unfold State.readSectors
  (repeat' split) <;> simp

@[simp] theorem State.readSectors_step (s : State) (q : Nat) (x : Queue) (cls : Nat) (hint : Nat) (b : Nat) (lo : Nat) (hi : Nat) {ps : List Part} {r₀ : State}
    (h : [.out, .regs, .pcs, .regulator] ⊆ ps) :
    Only ps r₀ (State.readSectors s q x cls hint b lo hi) ↔ Only ps r₀ s :=
  (State.readSectors_only s q x cls hint b lo hi).step h

theorem State.readStream_only (s : State) (r : Req) (x : Queue) (lo : Nat) (hi : Nat) :
    Only [.out, .regs, .pcs, .regulator] s (State.readStream s r x lo hi) := by
  simp [State.readStream]

@[simp] theorem State.readStream_step (s : State) (r : Req) (x : Queue) (lo : Nat) (hi : Nat) {ps : List Part} {r₀ : State}
    (h : [.out, .regs, .pcs, .regulator] ⊆ ps) :
    Only ps r₀ (State.readStream s r x lo hi) ↔ Only ps r₀ s :=
  (State.readStream_only s r x lo hi).step h

theorem State.readPackets_only (s : State) (r : Req) (x : Queue) (got : List Packet) :
    Only [.out, .regs, .pcs, .regulator] s (State.readPackets s r x got) := by
  unfold State.readPackets
  (repeat' split) <;> simp

@[simp] theorem State.readPackets_step (s : State) (r : Req) (x : Queue) (got : List Packet) {ps : List Part} {r₀ : State}
    (h : [.out, .regs, .pcs, .regulator] ⊆ ps) :
    Only ps r₀ (State.readPackets s r x got) ↔ Only ps r₀ s :=
  (State.readPackets_only s r x got).step h

theorem State.fetchBlock_only (s : State) (q : Nat) (x : Queue) (cls : Nat) (hint : Nat) (b : Nat) :
    Only [.out, .regs, .marver, .pcs, .regulator] s (State.fetchBlock s q x cls hint b) := by
  simp [State.fetchBlock]

@[simp] theorem State.fetchBlock_step (s : State) (q : Nat) (x : Queue) (cls : Nat) (hint : Nat) (b : Nat) {ps : List Part} {r₀ : State}
    (h : [.out, .regs, .marver, .pcs, .regulator] ⊆ ps) :
    Only ps r₀ (State.fetchBlock s q x cls hint b) ↔ Only ps r₀ s :=
  (State.fetchBlock_only s q x cls hint b).step h

theorem State.prefetchQueue_only (s : State) (q : Nat) (cls : Nat) (hint : Nat) :
    Only [.out, .regs, .marver, .pcs, .regulator] s (State.prefetchQueue s q cls hint) := by
  simp [State.prefetchQueue]

@[simp] theorem State.prefetchQueue_step (s : State) (q : Nat) (cls : Nat) (hint : Nat) {ps : List Part} {r₀ : State}
    (h : [.out, .regs, .marver, .pcs, .regulator] ⊆ ps) :
    Only ps r₀ (State.prefetchQueue s q cls hint) ↔ Only ps r₀ s :=
  (State.prefetchQueue_only s q cls hint).step h

theorem State.applyWalk_only (s : State) (r : Req) (x : Queue) (w : Walk) :
    Only [.out, .regs, .pcie, .log, .logWritten, .sideband, .queues, .marver, .pcs, .regulator] s (State.applyWalk s r x w) := by
  simp [State.applyWalk]

@[simp] theorem State.applyWalk_step (s : State) (r : Req) (x : Queue) (w : Walk) {ps : List Part} {r₀ : State}
    (h : [.out, .regs, .pcie, .log, .logWritten, .sideband, .queues, .marver, .pcs, .regulator] ⊆ ps) :
    Only ps r₀ (State.applyWalk s r x w) ↔ Only ps r₀ s :=
  (State.applyWalk_only s r x w).step h

theorem State.answerDrop_only (s : State) (r : Req) (st : Nat) (bytes : Nat) (n : Nat) (seq : Nat) :
    Only [.regs, .ports] s (State.answerDrop s r st bytes n seq) := by
  simp [State.answerDrop]

@[simp] theorem State.answerDrop_step (s : State) (r : Req) (st : Nat) (bytes : Nat) (n : Nat) (seq : Nat) {ps : List Part} {r₀ : State}
    (h : [.regs, .ports] ⊆ ps) :
    Only ps r₀ (State.answerDrop s r st bytes n seq) ↔ Only ps r₀ s :=
  (State.answerDrop_only s r st bytes n seq).step h

theorem State.headSojourn_only (s : State) (q : Nat) (x : Queue) (t : Tick) :
    Only [.free] s (State.headSojourn s q x t).2 := by
  unfold State.headSojourn
  (repeat' split) <;> simp

@[simp] theorem State.headSojourn_step (s : State) (q : Nat) (x : Queue) (t : Tick) {ps : List Part} {r₀ : State}
    (h : [.free] ⊆ ps) :
    Only ps r₀ (State.headSojourn s q x t).2 ↔ Only ps r₀ s :=
  (State.headSojourn_only s q x t).step h

theorem State.startSnapshot_only (s : State) (src : SnapSource) (t : Tick) :
    Only [.regs, .snapPending] s (State.startSnapshot s src t) := by
  simp [State.startSnapshot]

@[simp] theorem State.startSnapshot_step (s : State) (src : SnapSource) (t : Tick) {ps : List Part} {r₀ : State}
    (h : [.regs, .snapPending] ⊆ ps) :
    Only ps r₀ (State.startSnapshot s src t) ↔ Only ps r₀ s :=
  (State.startSnapshot_only s src t).step h

theorem State.finishSnapshot_only (s : State) (src : SnapSource) (t : Tick) :
    Only [.out, .heldOut, .regs, .pcie, .rings, .lines, .pulses, .ports, .snapshots, .snapPending] s (State.finishSnapshot s src t) := by
  unfold State.finishSnapshot
  (repeat' split) <;> simp

@[simp] theorem State.finishSnapshot_step (s : State) (src : SnapSource) (t : Tick) {ps : List Part} {r₀ : State}
    (h : [.out, .heldOut, .regs, .pcie, .rings, .lines, .pulses, .ports, .snapshots, .snapPending] ⊆ ps) :
    Only ps r₀ (State.finishSnapshot s src t) ↔ Only ps r₀ s :=
  (State.finishSnapshot_only s src t).step h

theorem State.updateQueues_only (s : State) (first : Nat) (n : Nat) (f : Queue → Queue) :
    Only [.queues] s (State.updateQueues s first n f) := by
  simp [State.updateQueues]

@[simp] theorem State.updateQueues_step (s : State) (first : Nat) (n : Nat) (f : Queue → Queue) {ps : List Part} {r₀ : State}
    (h : [.queues] ⊆ ps) :
    Only ps r₀ (State.updateQueues s first n f) ↔ Only ps r₀ s :=
  (State.updateQueues_only s first n f).step h

theorem State.syncQueues_only (s : State) :
    Only [.regs] s (State.syncQueues s) := by
  simp [State.syncQueues]

@[simp] theorem State.syncQueues_step (s : State) {ps : List Part} {r₀ : State}
    (h : [.regs] ⊆ ps) :
    Only ps r₀ (State.syncQueues s) ↔ Only ps r₀ s :=
  (State.syncQueues_only s).step h

theorem State.scanHeaders_only (s : State) (l : List Place) :
    Only [.out, .regs, .pcs, .regulator] s (State.scanHeaders s l) := by
  simp [State.scanHeaders]

@[simp] theorem State.scanHeaders_step (s : State) (l : List Place) {ps : List Part} {r₀ : State}
    (h : [.out, .regs, .pcs, .regulator] ⊆ ps) :
    Only ps r₀ (State.scanHeaders s l) ↔ Only ps r₀ s :=
  (State.scanHeaders_only s l).step h

theorem State.reclaim_only (s : State) (q : Nat × Queue) :
    Only [.out, .regs, .pcie, .log, .logWritten, .sideband, .marver, .pcs, .regulator] s (State.reclaim s q) := by
  simp [State.reclaim]

@[simp] theorem State.reclaim_step (s : State) (q : Nat × Queue) {ps : List Part} {r₀ : State}
    (h : [.out, .regs, .pcie, .log, .logWritten, .sideband, .marver, .pcs, .regulator] ⊆ ps) :
    Only ps r₀ (State.reclaim s q) ↔ Only ps r₀ s :=
  (State.reclaim_only s q).step h

theorem State.changeEffect_only (s : State) (c : QueueChange) :
    Only [.out, .regs, .pcie, .log, .logWritten, .sideband, .queues, .marver, .pcs, .regulator] s (State.changeEffect s c).1 := by
  simp only [State.changeEffect]
  (repeat' split) <;> simp

@[simp] theorem State.changeEffect_step (s : State) (c : QueueChange) {ps : List Part} {r₀ : State}
    (h : [.out, .regs, .pcie, .log, .logWritten, .sideband, .queues, .marver, .pcs, .regulator] ⊆ ps) :
    Only ps r₀ (State.changeEffect s c).1 ↔ Only ps r₀ s :=
  (State.changeEffect_only s c).step h

theorem State.applyChange_only (s : State) (c : QueueChange) :
    Only [.out, .heldOut, .regs, .pcie, .log, .logWritten, .rings, .sideband, .queues, .marver, .pcs, .regulator] s (State.applyChange s c) := by
  simp [State.applyChange]

@[simp] theorem State.applyChange_step (s : State) (c : QueueChange) {ps : List Part} {r₀ : State}
    (h : [.out, .heldOut, .regs, .pcie, .log, .logWritten, .rings, .sideband, .queues, .marver, .pcs, .regulator] ⊆ ps) :
    Only ps r₀ (State.applyChange s c) ↔ Only ps r₀ s :=
  (State.applyChange_only s c).step h

theorem State.addChange_only (s : State) (e : Sqe) (k : QueueChangeKind) :
    Only [.out, .heldOut, .regs, .pcie, .rings, .queueChanges] s (State.addChange s e k) := by
  simp [State.addChange]

@[simp] theorem State.addChange_step (s : State) (e : Sqe) (k : QueueChangeKind) {ps : List Part} {r₀ : State}
    (h : [.out, .heldOut, .regs, .pcie, .rings, .queueChanges] ⊆ ps) :
    Only ps r₀ (State.addChange s e k) ↔ Only ps r₀ s :=
  (State.addChange_only s e k).step h

end Sys2Proof.Machine
end

