-- ==== Sys2Proof/Laws/FrameTables.lean ====
section
/-!
SUPPORT. What the operations of Tables.lean leave unchanged: one lemma for each.
-/
namespace Sys2Proof.Machine

theorem State.putTable_only (s : State) (n : Nat) (t : Option Table) :
    Only [.tables] s (State.putTable s n t) := by
  simp [State.putTable]

@[simp] theorem State.putTable_step (s : State) (n : Nat) (t : Option Table) {ps : List Part} {r₀ : State}
    (h : [.tables] ⊆ ps) :
    Only ps r₀ (State.putTable s n t) ↔ Only ps r₀ s :=
  (State.putTable_only s n t).step h

theorem State.giveTableRow_only (s : State) (r : TableRow) :
    Only [.marver] s (State.giveTableRow s r) := by
  unfold State.giveTableRow
  (repeat' split) <;> simp

@[simp] theorem State.giveTableRow_step (s : State) (r : TableRow) {ps : List Part} {r₀ : State}
    (h : [.marver] ⊆ ps) :
    Only ps r₀ (State.giveTableRow s r) ↔ Only ps r₀ s :=
  (State.giveTableRow_only s r).step h

theorem State.addTableRow_only (s : State) (r : TableRow) :
    Only [.marver] s (State.addTableRow s r) := by
  simp [State.addTableRow]

@[simp] theorem State.addTableRow_step (s : State) (r : TableRow) {ps : List Part} {r₀ : State}
    (h : [.marver] ⊆ ps) :
    Only ps r₀ (State.addTableRow s r) ↔ Only ps r₀ s :=
  (State.addTableRow_only s r).step h

theorem State.newTableRow_only (s : State) (n : Nat) (created : Tick) (pair : Bool) :
    Only [.marver] s (State.newTableRow s n created pair) := by
  unfold State.newTableRow
  split
  · simp
  · next x h =>
    refine Only.trans (State.takeTableRow_only _ _ _ h) ?_
    split
    · simp
    · next y g =>
      split at g
      · exact (State.takeTableRow_only _ _ _ g).trans (by simp)
      · cases g

@[simp] theorem State.newTableRow_step (s : State) (n : Nat) (created : Tick) (pair : Bool) {ps : List Part} {r₀ : State}
    (h : [.marver] ⊆ ps) :
    Only ps r₀ (State.newTableRow s n created pair) ↔ Only ps r₀ s :=
  (State.newTableRow_only s n created pair).step h

theorem State.settleRows_only (s : State) :
    Only [.marver] s (State.settleRows s) := by
  unfold State.settleRows
  refine Only.foldlI _ _ (fun x a => ?_) (by simp)
  try dsimp only
  (repeat' split) <;> simp

@[simp] theorem State.settleRows_step (s : State) {ps : List Part} {r₀ : State}
    (h : [.marver] ⊆ ps) :
    Only ps r₀ (State.settleRows s) ↔ Only ps r₀ s :=
  (State.settleRows_only s).step h

theorem State.rehouse_only (s : State) (bad : TableRow → RowAt → Bool) (back : Bool) :
    Only [.marver] s (State.rehouse s bad back) := by
  unfold State.rehouse
  refine Only.foldlI _ _ (fun t r => ?_) (by simp)
  dsimp only
  have hv : Only [.marver] t (((if bad r r.main then (t.takeTableRow (r.mirror.map (fun m => t.layerOf m.pc))).map
      (fun x => (x.1, if back then x.2.giveRow r.main else x.2)) else none).map (·.2)).getD t) := by
    split
    · cases h : t.takeTableRow (r.mirror.map (fun m => t.layerOf m.pc)) with
      | none => simp
      | some x =>
        refine Only.trans (State.takeTableRow_only _ _ _ h) ?_
        split <;> simp
    · simp
  split
  · exact hv.trans (by simp)
  · split
    · exact hv.trans (by simp)
    · next y g =>
      split at g
      · refine hv.trans (Only.trans (State.takeTableRow_only _ _ _ g) ?_)
        split <;> simp
      · cases g

@[simp] theorem State.rehouse_step (s : State) (bad : TableRow → RowAt → Bool) (back : Bool) {ps : List Part} {r₀ : State}
    (h : [.marver] ⊆ ps) :
    Only ps r₀ (State.rehouse s bad back) ↔ Only ps r₀ s :=
  (State.rehouse_only s bad back).step h

theorem State.renewRows_only (s : State) :
    Only [.marver] s (State.renewRows s) := by
  simp [State.renewRows]

@[simp] theorem State.renewRows_step (s : State) {ps : List Part} {r₀ : State}
    (h : [.marver] ⊆ ps) :
    Only ps r₀ (State.renewRows s) ↔ Only ps r₀ s :=
  (State.renewRows_only s).step h

theorem State.showTiers_only (s : State) :
    Only [.regs] s (State.showTiers s) := by
  simp [State.showTiers]

@[simp] theorem State.showTiers_step (s : State) {ps : List Part} {r₀ : State}
    (h : [.regs] ⊆ ps) :
    Only ps r₀ (State.showTiers s) ↔ Only ps r₀ s :=
  (State.showTiers_only s).step h

theorem State.syncTables_only (s : State) :
    Only [.regs, .marver] s (State.syncTables s) := by
  simp [State.syncTables]

@[simp] theorem State.syncTables_step (s : State) {ps : List Part} {r₀ : State}
    (h : [.regs, .marver] ⊆ ps) :
    Only ps r₀ (State.syncTables s) ↔ Only ps r₀ s :=
  (State.syncTables_only s).step h

theorem State.putTableAt_only (s : State) (n : Nat) (tick : Tick) (t : Table) :
    Only [.tables, .dead] s (State.putTableAt s n tick t) := by
  unfold State.putTableAt
  (repeat' split) <;> simp

@[simp] theorem State.putTableAt_step (s : State) (n : Nat) (tick : Tick) (t : Table) {ps : List Part} {r₀ : State}
    (h : [.tables, .dead] ⊆ ps) :
    Only ps r₀ (State.putTableAt s n tick t) ↔ Only ps r₀ s :=
  (State.putTableAt_only s n tick t).step h

theorem State.touchNode_only (s : State) (n : Nat) (t : Table) (cls : Nat) (hint : Nat) (tick : Tick) (writes : Bool) (key : List Byte) (line : Nat) :
    Only [.out, .regs, .marver, .pcs, .regulator] s (State.touchNode s n t cls hint tick writes key line) := by
  unfold State.touchNode
  (repeat' split) <;> simp

@[simp] theorem State.touchNode_step (s : State) (n : Nat) (t : Table) (cls : Nat) (hint : Nat) (tick : Tick) (writes : Bool) (key : List Byte) (line : Nat) {ps : List Part} {r₀ : State}
    (h : [.out, .regs, .marver, .pcs, .regulator] ⊆ ps) :
    Only ps r₀ (State.touchNode s n t cls hint tick writes key line) ↔ Only ps r₀ s :=
  (State.touchNode_only s n t cls hint tick writes key line).step h

theorem State.touchKey_only (s : State) (n : Nat) (t : Table) (cls : Nat) (hint : Nat) (tick : Tick) (writes : Bool) (key : List Byte) :
    Only [.out, .regs, .marver, .pcs, .regulator] s (State.touchKey s n t cls hint tick writes key) := by
  simp [State.touchKey]

@[simp] theorem State.touchKey_step (s : State) (n : Nat) (t : Table) (cls : Nat) (hint : Nat) (tick : Tick) (writes : Bool) (key : List Byte) {ps : List Part} {r₀ : State}
    (h : [.out, .regs, .marver, .pcs, .regulator] ⊆ ps) :
    Only ps r₀ (State.touchKey s n t cls hint tick writes key) ↔ Only ps r₀ s :=
  (State.touchKey_only s n t cls hint tick writes key).step h

theorem State.refuseTable_only (s : State) (r : Req) (status : Nat) :
    Only [.regs, .ports] s (State.refuseTable s r status) := by
  simp [State.refuseTable]

@[simp] theorem State.refuseTable_step (s : State) (r : Req) (status : Nat) {ps : List Part} {r₀ : State}
    (h : [.regs, .ports] ⊆ ps) :
    Only ps r₀ (State.refuseTable s r status) ↔ Only ps r₀ s :=
  (State.refuseTable_only s r status).step h

theorem State.countLookups_only (s : State) (as : List Answer) :
    Only [.regs] s (State.countLookups s as) := by
  simp [State.countLookups]

@[simp] theorem State.countLookups_step (s : State) (as : List Answer) {ps : List Part} {r₀ : State}
    (h : [.regs] ⊆ ps) :
    Only ps r₀ (State.countLookups s as) ↔ Only ps r₀ s :=
  (State.countLookups_only s as).step h

theorem State.countOps_only (s : State) (n : Nat) (tick : Tick) (k : Nat) :
    Only [.tables, .dead] s (State.countOps s n tick k) := by
  unfold State.countOps
  (repeat' split) <;> simp

@[simp] theorem State.countOps_step (s : State) (n : Nat) (tick : Tick) (k : Nat) {ps : List Part} {r₀ : State}
    (h : [.tables, .dead] ⊆ ps) :
    Only ps r₀ (State.countOps s n tick k) ↔ Only ps r₀ s :=
  (State.countOps_only s n tick k).step h

theorem State.noteServed_only (s : State) (n : Nat) (t : Table) (r : Req) :
    Only [.commits] s (State.noteServed s n t r) := by
  simp [State.noteServed]

@[simp] theorem State.noteServed_step (s : State) (n : Nat) (t : Table) (r : Req) {ps : List Part} {r₀ : State}
    (h : [.commits] ⊆ ps) :
    Only ps r₀ (State.noteServed s n t r) ↔ Only ps r₀ s :=
  (State.noteServed_only s n t r).step h

theorem State.serveLookup_only (s : State) (r : Req) :
    Only [.regs, .ports, .tables, .dead, .commits] s (State.serveLookup s r) := by
  unfold State.serveLookup
  (repeat' split) <;> simp

@[simp] theorem State.serveLookup_step (s : State) (r : Req) {ps : List Part} {r₀ : State}
    (h : [.regs, .ports, .tables, .dead, .commits] ⊆ ps) :
    Only ps r₀ (State.serveLookup s r) ↔ Only ps r₀ s :=
  (State.serveLookup_only s r).step h

theorem State.serveMulti_only (s : State) (r : Req) :
    Only [.regs, .ports, .tables, .dead, .commits] s (State.serveMulti s r) := by
  simp [State.serveMulti]

@[simp] theorem State.serveMulti_step (s : State) (r : Req) {ps : List Part} {r₀ : State}
    (h : [.regs, .ports, .tables, .dead, .commits] ⊆ ps) :
    Only ps r₀ (State.serveMulti s r) ↔ Only ps r₀ s :=
  (State.serveMulti_only s r).step h

theorem State.serveCounter_only (s : State) (r : Req) :
    Only [.regs, .ports, .tables, .dead] s (State.serveCounter s r) := by
  unfold State.serveCounter
  (repeat' split) <;> simp

@[simp] theorem State.serveCounter_step (s : State) (r : Req) {ps : List Part} {r₀ : State}
    (h : [.regs, .ports, .tables, .dead] ⊆ ps) :
    Only ps r₀ (State.serveCounter s r) ↔ Only ps r₀ s :=
  (State.serveCounter_only s r).step h

theorem State.setEngine_only (s : State) (n : Nat) (l : List EngineOp) :
    Only [.engineQueues] s (State.setEngine s n l) := by
  simp [State.setEngine]

@[simp] theorem State.setEngine_step (s : State) (n : Nat) (l : List EngineOp) {ps : List Part} {r₀ : State}
    (h : [.engineQueues] ⊆ ps) :
    Only ps r₀ (State.setEngine s n l) ↔ Only ps r₀ s :=
  (State.setEngine_only s n l).step h

theorem State.serveTable_only (s : State) (r : Req) :
    Only [.regs, .ports, .tables, .dead, .commits] s (State.serveTable s r) := by
  simp [State.serveTable]

@[simp] theorem State.serveTable_step (s : State) (r : Req) {ps : List Part} {r₀ : State}
    (h : [.regs, .ports, .tables, .dead, .commits] ⊆ ps) :
    Only ps r₀ (State.serveTable s r) ↔ Only ps r₀ s :=
  (State.serveTable_only s r).step h

theorem State.noteQueue_only (s : State) (n : Nat) :
    Only [.marver] s (State.noteQueue s n) := by
  simp [State.noteQueue]

@[simp] theorem State.noteQueue_step (s : State) (n : Nat) {ps : List Part} {r₀ : State}
    (h : [.marver] ⊆ ps) :
    Only ps r₀ (State.noteQueue s n) ↔ Only ps r₀ s :=
  (State.noteQueue_only s n).step h

theorem State.touchOp_only (s : State) (o : EngineOp) :
    Only [.out, .regs, .marver, .pcs, .regulator] s (State.touchOp s o) := by
  unfold State.touchOp
  (repeat' split) <;> simp

@[simp] theorem State.touchOp_step (s : State) (o : EngineOp) {ps : List Part} {r₀ : State}
    (h : [.out, .regs, .marver, .pcs, .regulator] ⊆ ps) :
    Only ps r₀ (State.touchOp s o) ↔ Only ps r₀ s :=
  (State.touchOp_only s o).step h

theorem State.noteThreads_only (s : State) (k : Nat) :
    Only [.marver] s (State.noteThreads s k) := by
  simp [State.noteThreads]

@[simp] theorem State.noteThreads_step (s : State) (k : Nat) {ps : List Part} {r₀ : State}
    (h : [.marver] ⊆ ps) :
    Only ps r₀ (State.noteThreads s k) ↔ Only ps r₀ s :=
  (State.noteThreads_only s k).step h

theorem State.startOp_only (s : State) (n : Nat) (o : EngineOp) :
    Only [.out, .regs, .engineQueues, .marver, .pcs, .regulator] s (State.startOp s n o) := by
  simp [State.startOp]

@[simp] theorem State.startOp_step (s : State) (n : Nat) (o : EngineOp) {ps : List Part} {r₀ : State}
    (h : [.out, .regs, .engineQueues, .marver, .pcs, .regulator] ⊆ ps) :
    Only ps r₀ (State.startOp s n o) ↔ Only ps r₀ s :=
  (State.startOp_only s n o).step h

theorem State.offerOp_only (s : State) (n : Nat) (o : EngineOp) :
    Only [.out, .regs, .engineQueues, .marver, .pcs, .regulator] s (State.offerOp s n o) := by
  simp [State.offerOp]

@[simp] theorem State.offerOp_step (s : State) (n : Nat) (o : EngineOp) {ps : List Part} {r₀ : State}
    (h : [.out, .regs, .engineQueues, .marver, .pcs, .regulator] ⊆ ps) :
    Only ps r₀ (State.offerOp s n o) ↔ Only ps r₀ s :=
  (State.offerOp_only s n o).step h

theorem State.finishTable_only (s : State) (r : Req) :
    Only [.regs, .ports, .tables, .dead, .commits] s (State.finishTable s r) := by
  simp [State.finishTable]

@[simp] theorem State.finishTable_step (s : State) (r : Req) {ps : List Part} {r₀ : State}
    (h : [.regs, .ports, .tables, .dead, .commits] ⊆ ps) :
    Only ps r₀ (State.finishTable s r) ↔ Only ps r₀ s :=
  (State.finishTable_only s r).step h

theorem State.beginTable_only (s : State) (r : Req) (longest : Nat) :
    Only [.out, .regs, .ports, .tables, .dead, .commits, .engineQueues, .marver, .pcs, .regulator] s (State.beginTable s r longest) := by
  simp [State.beginTable]

@[simp] theorem State.beginTable_step (s : State) (r : Req) (longest : Nat) {ps : List Part} {r₀ : State}
    (h : [.out, .regs, .ports, .tables, .dead, .commits, .engineQueues, .marver, .pcs, .regulator] ⊆ ps) :
    Only ps r₀ (State.beginTable s r longest) ↔ Only ps r₀ s :=
  (State.beginTable_only s r longest).step h

theorem State.endOps_only (s : State) :
    Only [.regs, .ports, .tables, .dead, .commits, .engineQueues] s (State.endOps s) := by
  simp [State.endOps]

@[simp] theorem State.endOps_step (s : State) {ps : List Part} {r₀ : State}
    (h : [.regs, .ports, .tables, .dead, .commits, .engineQueues] ⊆ ps) :
    Only ps r₀ (State.endOps s) ↔ Only ps r₀ s :=
  (State.endOps_only s).step h

end Sys2Proof.Machine
end

