-- ==== Sys2Proof/Laws/FrameTableCommands.lean ====
section
/-!
SUPPORT. What the operations of TableCommands.lean leave unchanged: one lemma for each.
-/
namespace Sys2Proof.Machine

theorem State.placeTable_only (s : State) (n : Nat) (t : Table) :
    Only [.tables, .marver, .placed] s (State.placeTable s n t) := by
  simp [State.placeTable]

@[simp] theorem State.placeTable_step (s : State) (n : Nat) (t : Table) {ps : List Part} {r₀ : State}
    (h : [.tables, .marver, .placed] ⊆ ps) :
    Only ps r₀ (State.placeTable s n t) ↔ Only ps r₀ s :=
  (State.placeTable_only s n t).step h

theorem State.writeStaged_only (s : State) (n : Nat) (t : Table) (cls : Nat) (es : List Entry) :
    Only [.out, .regs, .pcs, .regulator] s (State.writeStaged s n t cls es) := by
  unfold State.writeStaged
  exact Only.foldlI _ _ (fun x a => Only.foldlI _ _ (fun y b => Only.foldlI _ _ (fun z c => by simp) (by simp)) (by simp)) (by simp)

@[simp] theorem State.writeStaged_step (s : State) (n : Nat) (t : Table) (cls : Nat) (es : List Entry) {ps : List Part} {r₀ : State}
    (h : [.out, .regs, .pcs, .regulator] ⊆ ps) :
    Only ps r₀ (State.writeStaged s n t cls es) ↔ Only ps r₀ s :=
  (State.writeStaged_only s n t cls es).step h

theorem State.update_only (s : State) (e : Sqe) (b : List Byte) :
    Only [.out, .heldOut, .regs, .pcie, .rings, .tables, .pcs, .regulator] s (State.update s e b) := by
  simp only [State.update]
  (repeat' split) <;> simp

@[simp] theorem State.update_step (s : State) (e : Sqe) (b : List Byte) {ps : List Part} {r₀ : State}
    (h : [.out, .heldOut, .regs, .pcie, .rings, .tables, .pcs, .regulator] ⊆ ps) :
    Only ps r₀ (State.update s e b) ↔ Only ps r₀ s :=
  (State.update_only s e b).step h

theorem State.resizePrefix_only (s : State) (e : Sqe) (n : Nat) (t : Table) :
    Only [.out, .heldOut, .regs, .pcie, .rings, .tables, .marver] s (State.resizePrefix s e n t) := by
  simp [State.resizePrefix]

@[simp] theorem State.resizePrefix_step (s : State) (e : Sqe) (n : Nat) (t : Table) {ps : List Part} {r₀ : State}
    (h : [.out, .heldOut, .regs, .pcie, .rings, .tables, .marver] ⊆ ps) :
    Only ps r₀ (State.resizePrefix s e n t) ↔ Only ps r₀ s :=
  (State.resizePrefix_only s e n t).step h

end Sys2Proof.Machine
end

