-- ==== Sys2Proof/Laws/FrameCommits.lean ====
section
/-!
SUPPORT. What the operations of Commits.lean leave unchanged: one lemma for each.
-/
namespace Sys2Proof.Machine

theorem State.logCommit_only (s : State) (c : Commit) (outcome : Nat) :
    Only [.commitLog] s (State.logCommit s c outcome) := by
  simp [State.logCommit]

@[simp] theorem State.logCommit_step (s : State) (c : Commit) (outcome : Nat) {ps : List Part} {r₀ : State}
    (h : [.commitLog] ⊆ ps) :
    Only ps r₀ (State.logCommit s c outcome) ↔ Only ps r₀ s :=
  (State.logCommit_only s c outcome).step h

theorem State.dropCommit_only (s : State) (c : Commit) :
    Only [.commits] s (State.dropCommit s c) := by
  simp [State.dropCommit]

@[simp] theorem State.dropCommit_step (s : State) (c : Commit) {ps : List Part} {r₀ : State}
    (h : [.commits] ⊆ ps) :
    Only ps r₀ (State.dropCommit s c) ↔ Only ps r₀ s :=
  (State.dropCommit_only s c).step h

theorem State.endCommit_only (s : State) (c : Commit) (status : Nat) (result : Nat) (outcome : Nat) :
    Only [.out, .heldOut, .regs, .pcie, .rings, .lines, .pulses, .commits, .commitLog] s (State.endCommit s c status result outcome) := by
  simp [State.endCommit]

@[simp] theorem State.endCommit_step (s : State) (c : Commit) (status : Nat) (result : Nat) (outcome : Nat) {ps : List Part} {r₀ : State}
    (h : [.out, .heldOut, .regs, .pcie, .rings, .lines, .pulses, .commits, .commitLog] ⊆ ps) :
    Only ps r₀ (State.endCommit s c status result outcome) ↔ Only ps r₀ s :=
  (State.endCommit_only s c status result outcome).step h

theorem State.journal_only (s : State) (c : Commit) (j : JournalState) :
    Only [.tables] s (State.journal s c j) := by
  unfold State.journal
  refine Only.foldlI _ _ (fun x a => ?_) (by simp)
  try dsimp only
  (repeat' split) <;> simp

@[simp] theorem State.journal_step (s : State) (c : Commit) (j : JournalState) {ps : List Part} {r₀ : State}
    (h : [.tables] ⊆ ps) :
    Only ps r₀ (State.journal s c j) ↔ Only ps r₀ s :=
  (State.journal_only s c j).step h

theorem State.thawAll_only (s : State) (c : Commit) :
    Only [.regs, .tables, .marver] s (State.thawAll s c) := by
  unfold State.thawAll
  simp
  refine Only.foldlI _ _ (fun x a => ?_) (by simp)
  (repeat' split) <;> simp

@[simp] theorem State.thawAll_step (s : State) (c : Commit) {ps : List Part} {r₀ : State}
    (h : [.regs, .tables, .marver] ⊆ ps) :
    Only ps r₀ (State.thawAll s c) ↔ Only ps r₀ s :=
  (State.thawAll_only s c).step h

theorem State.cancelCommit_only (s : State) (c : Commit) (status : Nat) (outcome : Nat) :
    Only [.out, .heldOut, .regs, .pcie, .rings, .lines, .pulses, .tables, .commits, .commitLog, .marver] s (State.cancelCommit s c status outcome) := by
  simp [State.cancelCommit]

@[simp] theorem State.cancelCommit_step (s : State) (c : Commit) (status : Nat) (outcome : Nat) {ps : List Part} {r₀ : State}
    (h : [.out, .heldOut, .regs, .pcie, .rings, .lines, .pulses, .tables, .commits, .commitLog, .marver] ⊆ ps) :
    Only ps r₀ (State.cancelCommit s c status outcome) ↔ Only ps r₀ s :=
  (State.cancelCommit_only s c status outcome).step h

theorem State.clearDamaged_only (s : State) (n : Nat) :
    Only [.regs] s (State.clearDamaged s n) := by
  simp [State.clearDamaged]

@[simp] theorem State.clearDamaged_step (s : State) (n : Nat) {ps : List Part} {r₀ : State}
    (h : [.regs] ⊆ ps) :
    Only ps r₀ (State.clearDamaged s n) ↔ Only ps r₀ s :=
  (State.clearDamaged_only s n).step h

theorem State.deleteTable_only (s : State) (n : Nat) (ring : Nat) (tag : Nat) (tick : Tick) :
    Only [.out, .heldOut, .regs, .pcie, .rings, .tables, .dead, .marver] s (State.deleteTable s n ring tag tick) := by
  unfold State.deleteTable
  split
  · simp
  · simp

@[simp] theorem State.deleteTable_step (s : State) (n : Nat) (ring : Nat) (tag : Nat) (tick : Tick) {ps : List Part} {r₀ : State}
    (h : [.out, .heldOut, .regs, .pcie, .rings, .tables, .dead, .marver] ⊆ ps) :
    Only ps r₀ (State.deleteTable s n ring tag tick) ↔ Only ps r₀ s :=
  (State.deleteTable_only s n ring tag tick).step h

theorem State.commitTable_only (s : State) (n : Nat) (cuts : List Cut) :
    Only [.regs, .tables] s (State.commitTable s n cuts) := by
  unfold State.commitTable
  (repeat' split) <;> simp

@[simp] theorem State.commitTable_step (s : State) (n : Nat) (cuts : List Cut) {ps : List Part} {r₀ : State}
    (h : [.regs, .tables] ⊆ ps) :
    Only ps r₀ (State.commitTable s n cuts) ↔ Only ps r₀ s :=
  (State.commitTable_only s n cuts).step h

theorem State.finishCommit_only (s : State) (c : Commit) :
    Only [.out, .heldOut, .regs, .pcie, .rings, .lines, .pulses, .tables, .dead, .commits, .commitLog, .marver] s (State.finishCommit s c) := by
  simp [State.finishCommit]

@[simp] theorem State.finishCommit_step (s : State) (c : Commit) {ps : List Part} {r₀ : State}
    (h : [.out, .heldOut, .regs, .pcie, .rings, .lines, .pulses, .tables, .dead, .commits, .commitLog, .marver] ⊆ ps) :
    Only ps r₀ (State.finishCommit s c) ↔ Only ps r₀ s :=
  (State.finishCommit_only s c).step h

theorem State.replaceCommit_only (s : State) (old : Commit) (new : Commit) :
    Only [.commits] s (State.replaceCommit s old new) := by
  simp [State.replaceCommit]

@[simp] theorem State.replaceCommit_step (s : State) (old : Commit) (new : Commit) {ps : List Part} {r₀ : State}
    (h : [.commits] ⊆ ps) :
    Only ps r₀ (State.replaceCommit s old new) ↔ Only ps r₀ s :=
  (State.replaceCommit_only s old new).step h

theorem State.setDue_only (s : State) (c : Commit) (base : Tick) :
    Only [.tables, .commits] s (State.setDue s c base) := by
  simp [State.setDue]

@[simp] theorem State.setDue_step (s : State) (c : Commit) (base : Tick) {ps : List Part} {r₀ : State}
    (h : [.tables, .commits] ⊆ ps) :
    Only ps r₀ (State.setDue s c base) ↔ Only ps r₀ s :=
  (State.setDue_only s c base).step h

theorem State.versionsReady_only (s : State) (c : Commit) :
    Only [.out, .heldOut, .regs, .pcie, .rings, .tables, .commits] s (State.versionsReady s c) := by
  unfold State.versionsReady
  (repeat' split) <;> simp

@[simp] theorem State.versionsReady_step (s : State) (c : Commit) {ps : List Part} {r₀ : State}
    (h : [.out, .heldOut, .regs, .pcie, .rings, .tables, .commits] ⊆ ps) :
    Only ps r₀ (State.versionsReady s c) ↔ Only ps r₀ s :=
  (State.versionsReady_only s c).step h

theorem State.fireCommits_only (s : State) (line : Nat) (tick : Tick) :
    Only [.tables, .commits] s (State.fireCommits s line tick) := by
  simp [State.fireCommits]

@[simp] theorem State.fireCommits_step (s : State) (line : Nat) (tick : Tick) {ps : List Part} {r₀ : State}
    (h : [.tables, .commits] ⊆ ps) :
    Only ps r₀ (State.fireCommits s line tick) ↔ Only ps r₀ s :=
  (State.fireCommits_only s line tick).step h

theorem State.markCommit_only (s : State) (c : Commit) (r : Req) (stream : List Req) :
    Only [.out, .heldOut, .regs, .pcie, .rings, .lines, .pulses, .tables, .dead, .commits, .commitLog, .marver] s (State.markCommit s c r stream) := by
  simp [State.markCommit]

@[simp] theorem State.markCommit_step (s : State) (c : Commit) (r : Req) (stream : List Req) {ps : List Part} {r₀ : State}
    (h : [.out, .heldOut, .regs, .pcie, .rings, .lines, .pulses, .tables, .dead, .commits, .commitLog, .marver] ⊆ ps) :
    Only ps r₀ (State.markCommit s c r stream) ↔ Only ps r₀ s :=
  (State.markCommit_only s c r stream).step h

theorem State.unstart_only (s : State) (c : Commit) :
    Only [.tables, .commits] s (State.unstart s c) := by
  simp [State.unstart]

@[simp] theorem State.unstart_step (s : State) (c : Commit) {ps : List Part} {r₀ : State}
    (h : [.tables, .commits] ⊆ ps) :
    Only ps r₀ (State.unstart s c) ↔ Only ps r₀ s :=
  (State.unstart_only s c).step h

theorem State.settleJournal_only (s : State) :
    Only [.free, .tables, .commits] s (State.settleJournal s) := by
  unfold State.settleJournal
  refine Only.foldlI _ _ (fun x a => ?_) (by simp)
  try dsimp only
  (repeat' split) <;> simp

@[simp] theorem State.settleJournal_step (s : State) {ps : List Part} {r₀ : State}
    (h : [.free, .tables, .commits] ⊆ ps) :
    Only ps r₀ (State.settleJournal s) ↔ Only ps r₀ s :=
  (State.settleJournal_only s).step h

theorem State.cancelForReset_only (s : State) (c : Commit) :
    Only [.out, .heldOut, .regs, .pcie, .rings, .lines, .pulses, .tables, .commits, .commitLog, .cancelled, .marver] s (State.cancelForReset s c) := by
  simp [State.cancelForReset]

@[simp] theorem State.cancelForReset_step (s : State) (c : Commit) {ps : List Part} {r₀ : State}
    (h : [.out, .heldOut, .regs, .pcie, .rings, .lines, .pulses, .tables, .commits, .commitLog, .cancelled, .marver] ⊆ ps) :
    Only ps r₀ (State.cancelForReset s c) ↔ Only ps r₀ s :=
  (State.cancelForReset_only s c).step h

theorem State.quiesceCommits_only (s : State) (tick : Tick) :
    Only [.out, .heldOut, .regs, .pcie, .rings, .lines, .pulses, .tables, .dead, .commits, .commitLog, .cancelled, .marver] s (State.quiesceCommits s tick) := by
  unfold State.quiesceCommits
  refine Only.foldlI _ _ (fun x a => ?_) (by simp)
  try dsimp only
  (repeat' split) <;> simp

@[simp] theorem State.quiesceCommits_step (s : State) (tick : Tick) {ps : List Part} {r₀ : State}
    (h : [.out, .heldOut, .regs, .pcie, .rings, .lines, .pulses, .tables, .dead, .commits, .commitLog, .cancelled, .marver] ⊆ ps) :
    Only ps r₀ (State.quiesceCommits s tick) ↔ Only ps r₀ s :=
  (State.quiesceCommits_only s tick).step h

end Sys2Proof.Machine
end

