-- ==== Sys2Proof/Laws/FrameHostPort.lean ====
section
/-!
SUPPORT. What the operations of HostPort.lean leave unchanged: one lemma for each.
-/
namespace Sys2Proof.Machine

theorem State.enterD3_only (s : State) :
    Only [.pcie] s (State.enterD3 s) := by
  simp [State.enterD3]

@[simp] theorem State.enterD3_step (s : State) {ps : List Part} {r₀ : State}
    (h : [.pcie] ⊆ ps) :
    Only ps r₀ (State.enterD3 s) ↔ Only ps r₀ s :=
  (State.enterD3_only s).step h

theorem State.returnD0_only (s : State) :
    Only [.out, .heldOut, .pcie] s (State.returnD0 s) := by
  simp [State.returnD0]

@[simp] theorem State.returnD0_step (s : State) {ps : List Part} {r₀ : State}
    (h : [.out, .heldOut, .pcie] ⊆ ps) :
    Only ps r₀ (State.returnD0 s) ↔ Only ps r₀ s :=
  (State.returnD0_only s).step h

theorem State.cfgWrite_only (s : State) (i : CfgItem) (v : Nat) :
    Only [.out, .heldOut, .pcie] s (State.cfgWrite s i v) := by
  unfold State.cfgWrite
  (repeat' split) <;> simp

@[simp] theorem State.cfgWrite_step (s : State) (i : CfgItem) (v : Nat) {ps : List Part} {r₀ : State}
    (h : [.out, .heldOut, .pcie] ⊆ ps) :
    Only ps r₀ (State.cfgWrite s i v) ↔ Only ps r₀ s :=
  (State.cfgWrite_only s i v).step h

theorem State.selectSource_only (s : State) (v : Nat) :
    Only [.time, .regs] s (State.selectSource s v) := by
  simp [State.selectSource]

@[simp] theorem State.selectSource_step (s : State) (v : Nat) {ps : List Part} {r₀ : State}
    (h : [.time, .regs] ⊆ ps) :
    Only ps r₀ (State.selectSource s v) ↔ Only ps r₀ s :=
  (State.selectSource_only s v).step h

theorem State.writeLaneSer_only (s : State) (p : Nat) (v : Nat) :
    Only [.lanes] s (State.writeLaneSer s p v) := by
  simp [State.writeLaneSer]

@[simp] theorem State.writeLaneSer_step (s : State) (p : Nat) (v : Nat) {ps : List Part} {r₀ : State}
    (h : [.lanes] ⊆ ps) :
    Only ps r₀ (State.writeLaneSer s p v) ↔ Only ps r₀ s :=
  (State.writeLaneSer_only s p v).step h

theorem State.writeField_only (s : State) (anvil : Bool) (off : Nat) (sp : FieldSpec) (k : Fld) (high : Bool) (v : Nat) :
    Only [.time, .regs, .lanes] s (State.writeField s anvil off sp k high v) := by
  unfold State.writeField
  (repeat' split) <;> simp

@[simp] theorem State.writeField_step (s : State) (anvil : Bool) (off : Nat) (sp : FieldSpec) (k : Fld) (high : Bool) (v : Nat) {ps : List Part} {r₀ : State}
    (h : [.time, .regs, .lanes] ⊆ ps) :
    Only ps r₀ (State.writeField s anvil off sp k high v) ↔ Only ps r₀ s :=
  (State.writeField_only s anvil off sp k high v).step h

theorem State.writeFields_only (s : State) (anvil : Bool) (off : Nat) (v : Nat) :
    Only [.time, .regs, .lanes] s (State.writeFields s anvil off v) := by
  simp [State.writeFields]

@[simp] theorem State.writeFields_step (s : State) (anvil : Bool) (off : Nat) (v : Nat) {ps : List Part} {r₀ : State}
    (h : [.time, .regs, .lanes] ⊆ ps) :
    Only ps r₀ (State.writeFields s anvil off v) ↔ Only ps r₀ s :=
  (State.writeFields_only s anvil off v).step h

theorem State.writeMsix_only (s : State) (off : Nat) (v : Nat) :
    Only [.out, .pcie] s (State.writeMsix s off v) := by
  unfold State.writeMsix
  (repeat' split) <;> simp

@[simp] theorem State.writeMsix_step (s : State) (off : Nat) (v : Nat) {ps : List Part} {r₀ : State}
    (h : [.out, .pcie] ⊆ ps) :
    Only ps r₀ (State.writeMsix s off v) ↔ Only ps r₀ s :=
  (State.writeMsix_only s off v).step h

theorem State.wakeFor_only (s : State) (off : Nat) :
    Only [.regs] s (State.wakeFor s off) := by
  unfold State.wakeFor
  (repeat' split) <;> simp

@[simp] theorem State.wakeFor_step (s : State) (off : Nat) {ps : List Part} {r₀ : State}
    (h : [.regs] ⊆ ps) :
    Only ps r₀ (State.wakeFor s off) ↔ Only ps r₀ s :=
  (State.wakeFor_only s off).step h

theorem State.dropWrite_only (s : State) (off : Nat) :
    Only [.out, .regs, .pcie, .log, .logWritten, .sideband] s (State.dropWrite s off) := by
  simp [State.dropWrite]

@[simp] theorem State.dropWrite_step (s : State) (off : Nat) {ps : List Part} {r₀ : State}
    (h : [.out, .regs, .pcie, .log, .logWritten, .sideband] ⊆ ps) :
    Only ps r₀ (State.dropWrite s off) ↔ Only ps r₀ s :=
  (State.dropWrite_only s off).step h

theorem State.refusesWrite_only (s : State) (off : Nat) (u₀ : State) (h : State.refusesWrite s off = some u₀) :
    Only [.out, .regs, .pcie, .log, .logWritten, .sideband] s u₀ := by
  unfold State.refusesWrite at h
  repeat' split at h
  all_goals first
    | (cases h; simp)
    | cases h

theorem State.writeRegister_only (s : State) (anvil : Bool) (off : Nat) (v : Nat) :
    Only [.out, .time, .regs, .pcie, .log, .logWritten, .sideband, .lanes] s (State.writeRegister s anvil off v) := by
  unfold State.writeRegister
  (repeat' split) <;> simp

@[simp] theorem State.writeRegister_step (s : State) (anvil : Bool) (off : Nat) (v : Nat) {ps : List Part} {r₀ : State}
    (h : [.out, .time, .regs, .pcie, .log, .logWritten, .sideband, .lanes] ⊆ ps) :
    Only ps r₀ (State.writeRegister s anvil off v) ↔ Only ps r₀ s :=
  (State.writeRegister_only s anvil off v).step h

theorem State.disableRing_only (s : State) (r : Nat) :
    Only [.regs, .rings] s (State.disableRing s r) := by
  simp [State.disableRing]

@[simp] theorem State.disableRing_step (s : State) (r : Nat) {ps : List Part} {r₀ : State}
    (h : [.regs, .rings] ⊆ ps) :
    Only ps r₀ (State.disableRing s r) ↔ Only ps r₀ s :=
  (State.disableRing_only s r).step h

theorem State.ringError_only (s : State) (r : Nat) (code : Nat) :
    Only [.out, .regs, .pcie, .log, .logWritten, .rings, .sideband] s (State.ringError s r code) := by
  simp [State.ringError]

@[simp] theorem State.ringError_step (s : State) (r : Nat) (code : Nat) {ps : List Part} {r₀ : State}
    (h : [.out, .regs, .pcie, .log, .logWritten, .rings, .sideband] ⊆ ps) :
    Only ps r₀ (State.ringError s r code) ↔ Only ps r₀ s :=
  (State.ringError_only s r code).step h

theorem State.fetchEntry_only (s : State) (r : Nat) (e : Sqe) :
    Only [.regs, .rings] s (State.fetchEntry s r e) := by
  simp only [State.fetchEntry]
  (repeat' split) <;> simp

@[simp] theorem State.fetchEntry_step (s : State) (r : Nat) (e : Sqe) {ps : List Part} {r₀ : State}
    (h : [.regs, .rings] ⊆ ps) :
    Only ps r₀ (State.fetchEntry s r e) ↔ Only ps r₀ s :=
  (State.fetchEntry_only s r e).step h

theorem State.popEntry_only (s : State) (r : Nat) :
    Only [.regs, .rings] s (State.popEntry s r) := by
  simp [State.popEntry]

@[simp] theorem State.popEntry_step (s : State) (r : Nat) {ps : List Part} {r₀ : State}
    (h : [.regs, .rings] ⊆ ps) :
    Only ps r₀ (State.popEntry s r) ↔ Only ps r₀ s :=
  (State.popEntry_only s r).step h

theorem State.beginEntry_only (s : State) (r : Nat) (e : Sqe) :
    Only [.regs, .rings] s (State.beginEntry s r e) := by
  simp [State.beginEntry]

@[simp] theorem State.beginEntry_step (s : State) (r : Nat) (e : Sqe) {ps : List Part} {r₀ : State}
    (h : [.regs, .rings] ⊆ ps) :
    Only ps r₀ (State.beginEntry s r e) ↔ Only ps r₀ s :=
  (State.beginEntry_only s r e).step h

theorem State.failLive_only (s : State) (r : Nat) (l : Live) :
    Only [.out, .heldOut, .regs, .pcie, .rings] s (State.failLive s r l) := by
  simp [State.failLive]

@[simp] theorem State.failLive_step (s : State) (r : Nat) (l : Live) {ps : List Part} {r₀ : State}
    (h : [.out, .heldOut, .regs, .pcie, .rings] ⊆ ps) :
    Only ps r₀ (State.failLive s r l) ↔ Only ps r₀ s :=
  (State.failLive_only s r l).step h

theorem State.failService_only (s : State) :
    Only [.out, .heldOut, .regs, .pcie, .rings] s (State.failService s) := by
  unfold State.failService
  refine Only.foldlI _ _ (fun x a => ?_) (by simp)
  try dsimp only
  (repeat' split) <;> simp

@[simp] theorem State.failService_step (s : State) {ps : List Part} {r₀ : State}
    (h : [.out, .heldOut, .regs, .pcie, .rings] ⊆ ps) :
    Only ps r₀ (State.failService s) ↔ Only ps r₀ s :=
  (State.failService_only s).step h

end Sys2Proof.Machine
end

