-- ==== Sys2Proof/Laws/FrameTiers.lean ====
section
/-!
SUPPORT. What the operations of Tiers.lean leave unchanged: one lemma for each.
-/
namespace Sys2Proof.Machine

theorem State.setNodes_only (s : State) (l : List Node) :
    Only [.regs, .marver] s (State.setNodes s l) := by
  simp [State.setNodes]

@[simp] theorem State.setNodes_step (s : State) (l : List Node) {ps : List Part} {r₀ : State}
    (h : [.regs, .marver] ⊆ ps) :
    Only ps r₀ (State.setNodes s l) ↔ Only ps r₀ s :=
  (State.setNodes_only s l).step h

theorem State.writeBackNode_only (s : State) (v : Node) :
    Only [.tables] s (State.writeBackNode s v) := by
  unfold State.writeBackNode
  (repeat' split) <;> simp

@[simp] theorem State.writeBackNode_step (s : State) (v : Node) {ps : List Part} {r₀ : State}
    (h : [.tables] ⊆ ps) :
    Only ps r₀ (State.writeBackNode s v) ↔ Only ps r₀ s :=
  (State.writeBackNode_only s v).step h

theorem State.promoteNode_only (s : State) (x : Nat × Nat × Option Nat) :
    Only [.regs, .tables, .marver] s (State.promoteNode s x) := by
  simp only [State.promoteNode]
  (repeat' split) <;> simp

@[simp] theorem State.promoteNode_step (s : State) (x : Nat × Nat × Option Nat) {ps : List Part} {r₀ : State}
    (h : [.regs, .tables, .marver] ⊆ ps) :
    Only ps r₀ (State.promoteNode s x) ↔ Only ps r₀ s :=
  (State.promoteNode_only s x).step h

theorem State.flagRow_only (s : State) (a : RowAt) :
    Only [.regs, .tables, .marver] s (State.flagRow s a) := by
  simp [State.flagRow]

@[simp] theorem State.flagRow_step (s : State) (a : RowAt) {ps : List Part} {r₀ : State}
    (h : [.regs, .tables, .marver] ⊆ ps) :
    Only ps r₀ (State.flagRow s a) ↔ Only ps r₀ s :=
  (State.flagRow_only s a).step h

theorem State.setRowCount_only (s : State) (c : RowCount) :
    Only [.regs, .tables, .marver] s (State.setRowCount s c) := by
  simp [State.setRowCount]

@[simp] theorem State.setRowCount_step (s : State) (c : RowCount) {ps : List Part} {r₀ : State}
    (h : [.regs, .tables, .marver] ⊆ ps) :
    Only ps r₀ (State.setRowCount s c) ↔ Only ps r₀ s :=
  (State.setRowCount_only s c).step h

theorem State.countTableRow_only (s : State) (a : RowAt) :
    Only [.regs, .tables, .marver] s (State.countTableRow s a) := by
  simp [State.countTableRow]

@[simp] theorem State.countTableRow_step (s : State) (a : RowAt) {ps : List Part} {r₀ : State}
    (h : [.regs, .tables, .marver] ⊆ ps) :
    Only ps r₀ (State.countTableRow s a) ↔ Only ps r₀ s :=
  (State.countTableRow_only s a).step h

theorem State.endWindow_only (s : State) :
    Only [.regs, .marver] s (State.endWindow s) := by
  simp [State.endWindow]

@[simp] theorem State.endWindow_step (s : State) {ps : List Part} {r₀ : State}
    (h : [.regs, .marver] ⊆ ps) :
    Only ps r₀ (State.endWindow s) ↔ Only ps r₀ s :=
  (State.endWindow_only s).step h

end Sys2Proof.Machine
end

