-- ==== Sys2Proof/Laws/FrameMemory.lean ====
section
/-!
SUPPORT. What the operations of Memory.lean leave unchanged: one lemma for each.
-/
namespace Sys2Proof.Machine

theorem State.admitWaiting_only (s : State) (n : Nat) :
    Only [.out, .regs, .pcs, .regulator] s (State.admitWaiting s n) := by
  unfold State.admitWaiting
  refine Only.foldlI _ _ (fun x a => ?_) (by simp)
  dsimp only
  split
  · simp
  · split
    · next h => exact (State.acceptReq_only _ _ _ h).mono (by decide)
    · simp

@[simp] theorem State.admitWaiting_step (s : State) (n : Nat) {ps : List Part} {r₀ : State}
    (h : [.out, .regs, .pcs, .regulator] ⊆ ps) :
    Only ps r₀ (State.admitWaiting s n) ↔ Only ps r₀ s :=
  (State.admitWaiting_only s n).step h

theorem State.countStaging_only (s : State) (pc : Nat) (bank : Nat) (row : Nat) :
    Only [.out, .regs, .pcie, .log, .logWritten, .sideband, .stageRows] s (State.countStaging s pc bank row) := by
  simp only [State.countStaging]
  (repeat' split) <;> simp

@[simp] theorem State.countStaging_step (s : State) (pc : Nat) (bank : Nat) (row : Nat) {ps : List Part} {r₀ : State}
    (h : [.out, .regs, .pcie, .log, .logWritten, .sideband, .stageRows] ⊆ ps) :
    Only ps r₀ (State.countStaging s pc bank row) ↔ Only ps r₀ s :=
  (State.countStaging_only s pc bank row).step h

theorem State.activateRow_only (s : State) (p : RowAt) :
    Only [.regs, .tables, .marver, .pcs] s (State.activateRow s p) := by
  simp [State.activateRow]

@[simp] theorem State.activateRow_step (s : State) (p : RowAt) {ps : List Part} {r₀ : State}
    (h : [.regs, .tables, .marver, .pcs] ⊆ ps) :
    Only ps r₀ (State.activateRow s p) ↔ Only ps r₀ s :=
  (State.activateRow_only s p).step h

theorem State.activate_only (s : State) (r : MemReq) :
    Only [.out, .regs, .pcie, .log, .logWritten, .sideband, .tables, .marver, .pcs, .stageRows] s (State.activate s r) := by
  simp [State.activate]

@[simp] theorem State.activate_step (s : State) (r : MemReq) {ps : List Part} {r₀ : State}
    (h : [.out, .regs, .pcie, .log, .logWritten, .sideband, .tables, .marver, .pcs, .stageRows] ⊆ ps) :
    Only ps r₀ (State.activate s r) ↔ Only ps r₀ s :=
  (State.activate_only s r).step h

theorem State.afterAccess_only (s : State) (r : MemReq) :
    Only [.regs, .pcs] s (State.afterAccess s r) := by
  simp [State.afterAccess]

@[simp] theorem State.afterAccess_step (s : State) (r : MemReq) {ps : List Part} {r₀ : State}
    (h : [.regs, .pcs] ⊆ ps) :
    Only ps r₀ (State.afterAccess s r) ↔ Only ps r₀ s :=
  (State.afterAccess_only s r).step h

theorem State.noteDebt_only (s : State) (n : Nat) :
    Only [.regs] s (State.noteDebt s n) := by
  simp [State.noteDebt]

@[simp] theorem State.noteDebt_step (s : State) (n : Nat) {ps : List Part} {r₀ : State}
    (h : [.regs] ⊆ ps) :
    Only ps r₀ (State.noteDebt s n) ↔ Only ps r₀ s :=
  (State.noteDebt_only s n).step h

theorem State.refreshBank_only (s : State) (n : Nat) (bank : Nat) :
    Only [.regs, .pcs] s (State.refreshBank s n bank) := by
  simp [State.refreshBank]

@[simp] theorem State.refreshBank_step (s : State) (n : Nat) (bank : Nat) {ps : List Part} {r₀ : State}
    (h : [.regs, .pcs] ⊆ ps) :
    Only ps r₀ (State.refreshBank s n bank) ↔ Only ps r₀ s :=
  (State.refreshBank_only s n bank).step h

theorem State.countLate_only (s : State) (n : Nat) (e : MemEntry) :
    Only [.free, .regs] s (State.countLate s n e) := by
  simp [State.countLate]

@[simp] theorem State.countLate_step (s : State) (n : Nat) (e : MemEntry) {ps : List Part} {r₀ : State}
    (h : [.free, .regs] ⊆ ps) :
    Only ps r₀ (State.countLate s n e) ↔ Only ps r₀ s :=
  (State.countLate_only s n e).step h

theorem State.issueReq_only (s : State) (n : Nat) (e : MemEntry) :
    Only [.out, .free, .regs, .pcie, .log, .logWritten, .sideband, .tables, .marver, .pcs, .stageRows, .mem, .integrity, .regulator] s (State.issueReq s n e) := by
  simp [State.issueReq]

@[simp] theorem State.issueReq_step (s : State) (n : Nat) (e : MemEntry) {ps : List Part} {r₀ : State}
    (h : [.out, .free, .regs, .pcie, .log, .logWritten, .sideband, .tables, .marver, .pcs, .stageRows, .mem, .integrity, .regulator] ⊆ ps) :
    Only ps r₀ (State.issueReq s n e) ↔ Only ps r₀ s :=
  (State.issueReq_only s n e).step h

theorem State.drainPc_only (s : State) (n : Nat) :
    Only [.out, .free, .regs, .pcie, .log, .logWritten, .sideband, .tables, .marver, .pcs, .stageRows, .mem, .integrity, .regulator] s (State.drainPc s n) := by
  unfold State.drainPc
  refine Only.foldlI _ _ (fun x a => ?_) (by simp)
  try dsimp only
  (repeat' split) <;> simp

@[simp] theorem State.drainPc_step (s : State) (n : Nat) {ps : List Part} {r₀ : State}
    (h : [.out, .free, .regs, .pcie, .log, .logWritten, .sideband, .tables, .marver, .pcs, .stageRows, .mem, .integrity, .regulator] ⊆ ps) :
    Only ps r₀ (State.drainPc s n) ↔ Only ps r₀ s :=
  (State.drainPc_only s n).step h

theorem State.drainAll_only (s : State) :
    Only [.out, .free, .regs, .pcie, .log, .logWritten, .sideband, .tables, .marver, .pcs, .stageRows, .mem, .integrity, .regulator] s (State.drainAll s) := by
  simp [State.drainAll]

@[simp] theorem State.drainAll_step (s : State) {ps : List Part} {r₀ : State}
    (h : [.out, .free, .regs, .pcie, .log, .logWritten, .sideband, .tables, .marver, .pcs, .stageRows, .mem, .integrity, .regulator] ⊆ ps) :
    Only ps r₀ (State.drainAll s) ↔ Only ps r₀ s :=
  (State.drainAll_only s).step h

theorem State.endHold_only (s : State) (n : Nat) :
    Only [.regs] s (State.endHold s n) := by
  simp [State.endHold]

@[simp] theorem State.endHold_step (s : State) (n : Nat) {ps : List Part} {r₀ : State}
    (h : [.regs] ⊆ ps) :
    Only ps r₀ (State.endHold s n) ↔ Only ps r₀ s :=
  (State.endHold_only s n).step h

theorem State.syncFloor_only (s : State) :
    Only [.regulator] s (State.syncFloor s) := by
  simp [State.syncFloor]

@[simp] theorem State.syncFloor_step (s : State) {ps : List Part} {r₀ : State}
    (h : [.regulator] ⊆ ps) :
    Only ps r₀ (State.syncFloor s) ↔ Only ps r₀ s :=
  (State.syncFloor_only s).step h

theorem State.applyRefresh_only (s : State) :
    Only [.regs, .regulator] s (State.applyRefresh s) := by
  simp [State.applyRefresh]

@[simp] theorem State.applyRefresh_step (s : State) {ps : List Part} {r₀ : State}
    (h : [.regs, .regulator] ⊆ ps) :
    Only ps r₀ (State.applyRefresh s) ↔ Only ps r₀ s :=
  (State.applyRefresh_only s).step h

theorem State.holdStack_only (s : State) :
    Only [.pilot, .regs, .pcs, .windows] s (State.holdStack s) := by
  simp [State.holdStack]

@[simp] theorem State.holdStack_step (s : State) {ps : List Part} {r₀ : State}
    (h : [.pilot, .regs, .pcs, .windows] ⊆ ps) :
    Only ps r₀ (State.holdStack s) ↔ Only ps r₀ s :=
  (State.holdStack_only s).step h

theorem State.sleepPcs_only (s : State) :
    Only [.regs, .pcs] s (State.sleepPcs s) := by
  simp [State.sleepPcs]

@[simp] theorem State.sleepPcs_step (s : State) {ps : List Part} {r₀ : State}
    (h : [.regs, .pcs] ⊆ ps) :
    Only ps r₀ (State.sleepPcs s) ↔ Only ps r₀ s :=
  (State.sleepPcs_only s).step h

theorem State.wakeControllers_only (s : State) :
    Only [.regs] s (State.wakeControllers s) := by
  simp [State.wakeControllers]

@[simp] theorem State.wakeControllers_step (s : State) {ps : List Part} {r₀ : State}
    (h : [.regs] ⊆ ps) :
    Only ps r₀ (State.wakeControllers s) ↔ Only ps r₀ s :=
  (State.wakeControllers_only s).step h

theorem State.movePartitions_only (s : State) (which : Nat → Nat → Bool) :
    Only [.tables] s (State.movePartitions s which) := by
  simp [State.movePartitions]

@[simp] theorem State.movePartitions_step (s : State) (which : Nat → Nat → Bool) {ps : List Part} {r₀ : State}
    (h : [.tables] ⊆ ps) :
    Only ps r₀ (State.movePartitions s which) ↔ Only ps r₀ s :=
  (State.movePartitions_only s which).step h

theorem State.leaveEngine_only (s : State) (n : Nat) :
    Only [.tables, .engineQueues] s (State.leaveEngine s n) := by
  simp [State.leaveEngine]

@[simp] theorem State.leaveEngine_step (s : State) (n : Nat) {ps : List Part} {r₀ : State}
    (h : [.tables, .engineQueues] ⊆ ps) :
    Only ps r₀ (State.leaveEngine s n) ↔ Only ps r₀ s :=
  (State.leaveEngine_only s n).step h

theorem State.wakeBenches_only (s : State) :
    Only [.regs, .tables] s (State.wakeBenches s) := by
  simp [State.wakeBenches]

@[simp] theorem State.wakeBenches_step (s : State) {ps : List Part} {r₀ : State}
    (h : [.regs, .tables] ⊆ ps) :
    Only ps r₀ (State.wakeBenches s) ↔ Only ps r₀ s :=
  (State.wakeBenches_only s).step h

end Sys2Proof.Machine
end

