-- ==== Sys2Proof/Laws/FrameStaging.lean ====
section
/-!
SUPPORT. What the operations of Staging.lean leave unchanged: one lemma for each.
-/
namespace Sys2Proof.Machine

theorem State.windowSector_only (s : State) (cls : Nat) (write : Bool) (opens : Bool) (words : List (Nat × Nat)) (k : Nat) :
    Only [.out, .regs, .pcie, .log, .logWritten, .sideband, .tables, .marver, .pcs, .stageRows, .mem, .integrity, .regulator] s (State.windowSector s cls write opens words k) := by
  simp only [State.windowSector]
  (repeat' split) <;> simp

@[simp] theorem State.windowSector_step (s : State) (cls : Nat) (write : Bool) (opens : Bool) (words : List (Nat × Nat)) (k : Nat) {ps : List Part} {r₀ : State}
    (h : [.out, .regs, .pcie, .log, .logWritten, .sideband, .tables, .marver, .pcs, .stageRows, .mem, .integrity, .regulator] ⊆ ps) :
    Only ps r₀ (State.windowSector s cls write opens words k) ↔ Only ps r₀ s :=
  (State.windowSector_only s cls write opens words k).step h

theorem State.windowAccess_only (s : State) (cls : Nat) (write : Bool) (a : Nat) (n : Nat) (b : List Byte) :
    Only [.out, .regs, .pcie, .log, .logWritten, .sideband, .tables, .marver, .pcs, .stageRows, .mem, .integrity, .regulator] s (State.windowAccess s cls write a n b) := by
  unfold State.windowAccess
  have H : ∀ (l : List Nat) (x : State × Option RowAt),
      Only [.out, .regs, .pcie, .log, .logWritten, .sideband, .tables, .marver, .pcs, .stageRows, .mem, .integrity, .regulator] s x.1 →
      Only [.out, .regs, .pcie, .log, .logWritten, .sideband, .tables, .marver, .pcs, .stageRows, .mem, .integrity, .regulator] s
        (l.foldl (fun (t : State × Option RowAt) k =>
          let p := placeOfReq (t.1.windowReq cls write k)
          (t.1.windowSector cls write (t.2 != some p) (wordsAt a b k) k, some p)) x).1 := by
    intro l
    induction l with
    | nil => exact fun x h => h
    | cons k r ih => exact fun x h => ih _ (h.trans (State.windowSector_only _ _ _ _ _ _))
  exact H _ _ (by simp)

@[simp] theorem State.windowAccess_step (s : State) (cls : Nat) (write : Bool) (a : Nat) (n : Nat) (b : List Byte) {ps : List Part} {r₀ : State}
    (h : [.out, .regs, .pcie, .log, .logWritten, .sideband, .tables, .marver, .pcs, .stageRows, .mem, .integrity, .regulator] ⊆ ps) :
    Only ps r₀ (State.windowAccess s cls write a n b) ↔ Only ps r₀ s :=
  (State.windowAccess_only s cls write a n b).step h

theorem State.hbRead_only (s : State) (cls : Nat) (dram : Bool) (a : Nat) (n : Nat) :
    Only [.out, .regs, .pcie, .log, .logWritten, .sideband, .tables, .marver, .pcs, .stageRows, .mem, .integrity, .regulator] s (State.hbRead s cls dram a n) := by
  simp [State.hbRead]

@[simp] theorem State.hbRead_step (s : State) (cls : Nat) (dram : Bool) (a : Nat) (n : Nat) {ps : List Part} {r₀ : State}
    (h : [.out, .regs, .pcie, .log, .logWritten, .sideband, .tables, .marver, .pcs, .stageRows, .mem, .integrity, .regulator] ⊆ ps) :
    Only ps r₀ (State.hbRead s cls dram a n) ↔ Only ps r₀ s :=
  (State.hbRead_only s cls dram a n).step h

theorem State.hbWrite_only (s : State) (cls : Nat) (dram : Bool) (a : Nat) (b : List Byte) :
    Only [.out, .regs, .pcie, .log, .logWritten, .sideband, .tables, .marver, .pcs, .stageRows, .mem, .integrity, .regulator] s (State.hbWrite s cls dram a b) := by
  simp [State.hbWrite]

@[simp] theorem State.hbWrite_step (s : State) (cls : Nat) (dram : Bool) (a : Nat) (b : List Byte) {ps : List Part} {r₀ : State}
    (h : [.out, .regs, .pcie, .log, .logWritten, .sideband, .tables, .marver, .pcs, .stageRows, .mem, .integrity, .regulator] ⊆ ps) :
    Only ps r₀ (State.hbWrite s cls dram a b) ↔ Only ps r₀ s :=
  (State.hbWrite_only s cls dram a b).step h

theorem State.refuseWindow_only (s : State) (off : Nat) :
    Only [.out, .regs, .pcie, .log, .logWritten, .sideband] s (State.refuseWindow s off) := by
  simp [State.refuseWindow]

@[simp] theorem State.refuseWindow_step (s : State) (off : Nat) {ps : List Part} {r₀ : State}
    (h : [.out, .regs, .pcie, .log, .logWritten, .sideband] ⊆ ps) :
    Only ps r₀ (State.refuseWindow s off) ↔ Only ps r₀ s :=
  (State.refuseWindow_only s off).step h

theorem State.windowRead_only (s : State) (off : Nat) (n : Nat) :
    Only [.out, .regs, .pcie, .log, .logWritten, .sideband, .tables, .marver, .pcs, .stageRows, .mem, .integrity, .regulator] s (State.windowRead s off n) := by
  simp [State.windowRead]

@[simp] theorem State.windowRead_step (s : State) (off : Nat) (n : Nat) {ps : List Part} {r₀ : State}
    (h : [.out, .regs, .pcie, .log, .logWritten, .sideband, .tables, .marver, .pcs, .stageRows, .mem, .integrity, .regulator] ⊆ ps) :
    Only ps r₀ (State.windowRead s off n) ↔ Only ps r₀ s :=
  (State.windowRead_only s off n).step h

theorem State.windowWrite_only (s : State) (off : Nat) (data : List Byte) (enables : Nat) :
    Only [.out, .regs, .pcie, .log, .logWritten, .sideband, .tables, .marver, .pcs, .stageRows, .mem, .integrity, .regulator] s (State.windowWrite s off data enables) := by
  simp [State.windowWrite]

@[simp] theorem State.windowWrite_step (s : State) (off : Nat) (data : List Byte) (enables : Nat) {ps : List Part} {r₀ : State}
    (h : [.out, .regs, .pcie, .log, .logWritten, .sideband, .tables, .marver, .pcs, .stageRows, .mem, .integrity, .regulator] ⊆ ps) :
    Only ps r₀ (State.windowWrite s off data enables) ↔ Only ps r₀ s :=
  (State.windowWrite_only s off data enables).step h

theorem State.windowRun_only (s : State) (w : WindowAccess) :
    Only [.out, .regs, .pcie, .log, .logWritten, .sideband, .tables, .marver, .pcs, .stageRows, .mem, .integrity, .regulator] s (State.windowRun s w) := by
  simp [State.windowRun]

@[simp] theorem State.windowRun_step (s : State) (w : WindowAccess) {ps : List Part} {r₀ : State}
    (h : [.out, .regs, .pcie, .log, .logWritten, .sideband, .tables, .marver, .pcs, .stageRows, .mem, .integrity, .regulator] ⊆ ps) :
    Only ps r₀ (State.windowRun s w) ↔ Only ps r₀ s :=
  (State.windowRun_only s w).step h

theorem State.windowTurn_only (s : State) (w : WindowAccess) :
    Only [.out, .regs, .pcie, .log, .logWritten, .sideband, .tables, .marver, .pcs, .stageRows, .windows, .mem, .integrity, .regulator] s (State.windowTurn s w) := by
  simp [State.windowTurn]

@[simp] theorem State.windowTurn_step (s : State) (w : WindowAccess) {ps : List Part} {r₀ : State}
    (h : [.out, .regs, .pcie, .log, .logWritten, .sideband, .tables, .marver, .pcs, .stageRows, .windows, .mem, .integrity, .regulator] ⊆ ps) :
    Only ps r₀ (State.windowTurn s w) ↔ Only ps r₀ s :=
  (State.windowTurn_only s w).step h

theorem State.windowCome_only (s : State) (w : WindowAccess) :
    Only [.out, .regs, .pcie, .log, .logWritten, .sideband, .tables, .marver, .pcs, .stageRows, .windows, .mem, .integrity, .regulator] s (State.windowCome s w) := by
  simp [State.windowCome]

@[simp] theorem State.windowCome_step (s : State) (w : WindowAccess) {ps : List Part} {r₀ : State}
    (h : [.out, .regs, .pcie, .log, .logWritten, .sideband, .tables, .marver, .pcs, .stageRows, .windows, .mem, .integrity, .regulator] ⊆ ps) :
    Only ps r₀ (State.windowCome s w) ↔ Only ps r₀ s :=
  (State.windowCome_only s w).step h

theorem State.serveWindows_only (s : State) :
    Only [.out, .regs, .pcie, .log, .logWritten, .sideband, .tables, .marver, .pcs, .stageRows, .windows, .mem, .integrity, .regulator] s (State.serveWindows s) := by
  simp [State.serveWindows]

@[simp] theorem State.serveWindows_step (s : State) {ps : List Part} {r₀ : State}
    (h : [.out, .regs, .pcie, .log, .logWritten, .sideband, .tables, .marver, .pcs, .stageRows, .windows, .mem, .integrity, .regulator] ⊆ ps) :
    Only ps r₀ (State.serveWindows s) ↔ Only ps r₀ s :=
  (State.serveWindows_only s).step h

theorem State.drainStack_only (s : State) :
    Only [.out, .free, .regs, .pcie, .log, .logWritten, .sideband, .ports, .tables, .dead, .commits, .engineQueues, .marver, .pcs, .stageRows, .windows, .mem, .integrity, .regulator] s (State.drainStack s) := by
  simp [State.drainStack]

@[simp] theorem State.drainStack_step (s : State) {ps : List Part} {r₀ : State}
    (h : [.out, .free, .regs, .pcie, .log, .logWritten, .sideband, .ports, .tables, .dead, .commits, .engineQueues, .marver, .pcs, .stageRows, .windows, .mem, .integrity, .regulator] ⊆ ps) :
    Only ps r₀ (State.drainStack s) ↔ Only ps r₀ s :=
  (State.drainStack_only s).step h

theorem State.issueColumn_only (s : State) (n : Nat) (c : Option MemSlot) :
    Only [.out, .free, .regs, .pcie, .log, .logWritten, .sideband, .tables, .marver, .pcs, .stageRows, .mem, .integrity, .regulator] s (State.issueColumn s n c) := by
  unfold State.issueColumn
  (repeat' split) <;> simp

@[simp] theorem State.issueColumn_step (s : State) (n : Nat) (c : Option MemSlot) {ps : List Part} {r₀ : State}
    (h : [.out, .free, .regs, .pcie, .log, .logWritten, .sideband, .tables, .marver, .pcs, .stageRows, .mem, .integrity, .regulator] ⊆ ps) :
    Only ps r₀ (State.issueColumn s n c) ↔ Only ps r₀ s :=
  (State.issueColumn_only s n c).step h

theorem State.issueRow_only (s : State) (n : Nat) (c : Option MemSlot) (e : Option MemEntry) :
    Only [.out, .regs, .pcie, .log, .logWritten, .sideband, .tables, .marver, .pcs, .stageRows] s (State.issueRow s n c e) := by
  unfold State.issueRow
  (repeat' split) <;> simp

@[simp] theorem State.issueRow_step (s : State) (n : Nat) (c : Option MemSlot) (e : Option MemEntry) {ps : List Part} {r₀ : State}
    (h : [.out, .regs, .pcie, .log, .logWritten, .sideband, .tables, .marver, .pcs, .stageRows] ⊆ ps) :
    Only ps r₀ (State.issueRow s n c e) ↔ Only ps r₀ s :=
  (State.issueRow_only s n c e).step h

theorem State.spaceRead_only (s : State) (cls : Nat) (space : Nat) (a : Nat) (n : Nat) (host : List Byte) :
    Only [.out, .regs, .pcie, .log, .logWritten, .sideband, .tables, .marver, .pcs, .stageRows, .mem, .integrity, .regulator] s (State.spaceRead s cls space a n host).2 := by
  unfold State.spaceRead
  (repeat' split) <;> simp

@[simp] theorem State.spaceRead_step (s : State) (cls : Nat) (space : Nat) (a : Nat) (n : Nat) (host : List Byte) {ps : List Part} {r₀ : State}
    (h : [.out, .regs, .pcie, .log, .logWritten, .sideband, .tables, .marver, .pcs, .stageRows, .mem, .integrity, .regulator] ⊆ ps) :
    Only ps r₀ (State.spaceRead s cls space a n host).2 ↔ Only ps r₀ s :=
  (State.spaceRead_only s cls space a n host).step h

theorem State.spaceWrite_only (s : State) (cls : Nat) (space : Nat) (a : Nat) (w : Nat) (merge : Bool) (b : List Byte) :
    Only [.out, .heldOut, .regs, .pcie, .log, .logWritten, .sideband, .tables, .marver, .pcs, .stageRows, .mem, .integrity, .regulator] s (State.spaceWrite s cls space a w merge b) := by
  unfold State.spaceWrite
  (repeat' split) <;> simp

@[simp] theorem State.spaceWrite_step (s : State) (cls : Nat) (space : Nat) (a : Nat) (w : Nat) (merge : Bool) (b : List Byte) {ps : List Part} {r₀ : State}
    (h : [.out, .heldOut, .regs, .pcie, .log, .logWritten, .sideband, .tables, .marver, .pcs, .stageRows, .mem, .integrity, .regulator] ⊆ ps) :
    Only ps r₀ (State.spaceWrite s cls space a w merge b) ↔ Only ps r₀ s :=
  (State.spaceWrite_only s cls space a w merge b).step h

end Sys2Proof.Machine
end

