-- ==== Sys2Proof/Laws/FrameMovers.lean ====
section
/-!
SUPPORT. What the operations of Movers.lean leave unchanged: one lemma for each.
-/
namespace Sys2Proof.Machine

theorem State.setChannel_only (s : State) (c : Nat) (x : Channel) :
    Only [.channels] s (State.setChannel s c x) := by
  simp [State.setChannel]

@[simp] theorem State.setChannel_step (s : State) (c : Nat) (x : Channel) {ps : List Part} {r₀ : State}
    (h : [.channels] ⊆ ps) :
    Only ps r₀ (State.setChannel s c x) ↔ Only ps r₀ s :=
  (State.setChannel_only s c x).step h

theorem State.haltChannel_only (s : State) (c : Nat) (status : Nat) (bytes : Nat) :
    Only [.out, .regs, .pcie, .log, .logWritten, .lines, .pulses, .channels, .sideband] s (State.haltChannel s c status bytes) := by
  simp [State.haltChannel]

@[simp] theorem State.haltChannel_step (s : State) (c : Nat) (status : Nat) (bytes : Nat) {ps : List Part} {r₀ : State}
    (h : [.out, .regs, .pcie, .log, .logWritten, .lines, .pulses, .channels, .sideband] ⊆ ps) :
    Only ps r₀ (State.haltChannel s c status bytes) ↔ Only ps r₀ s :=
  (State.haltChannel_only s c status bytes).step h

theorem State.takeShadow_only (s : State) (c : Nat) (hops : Nat) :
    Only [.out, .regs, .pcie, .log, .logWritten, .lines, .pulses, .channels, .sideband] s (State.takeShadow s c hops) := by
  simp [State.takeShadow]

@[simp] theorem State.takeShadow_step (s : State) (c : Nat) (hops : Nat) {ps : List Part} {r₀ : State}
    (h : [.out, .regs, .pcie, .log, .logWritten, .lines, .pulses, .channels, .sideband] ⊆ ps) :
    Only ps r₀ (State.takeShadow s c hops) ↔ Only ps r₀ s :=
  (State.takeShadow_only s c hops).step h

theorem State.startChannel_only (s : State) (c : Nat) :
    Only [.out, .regs, .pcie, .log, .logWritten, .lines, .pulses, .channels, .sideband] s (State.startChannel s c) := by
  simp [State.startChannel]

@[simp] theorem State.startChannel_step (s : State) (c : Nat) {ps : List Part} {r₀ : State}
    (h : [.out, .regs, .pcie, .log, .logWritten, .lines, .pulses, .channels, .sideband] ⊆ ps) :
    Only ps r₀ (State.startChannel s c) ↔ Only ps r₀ s :=
  (State.startChannel_only s c).step h

theorem State.loadShadow_only (s : State) (c : Nat) (b : List Byte) :
    Only [.regs] s (State.loadShadow s c b) := by
  simp [State.loadShadow]

@[simp] theorem State.loadShadow_step (s : State) (c : Nat) (b : List Byte) {ps : List Part} {r₀ : State}
    (h : [.regs] ⊆ ps) :
    Only ps r₀ (State.loadShadow s c b) ↔ Only ps r₀ s :=
  (State.loadShadow_only s c b).step h

theorem State.pulseDone_only (s : State) (c : Nat) :
    Only [.lines, .pulses] s (State.pulseDone s c) := by
  simp [State.pulseDone]

@[simp] theorem State.pulseDone_step (s : State) (c : Nat) {ps : List Part} {r₀ : State}
    (h : [.lines, .pulses] ⊆ ps) :
    Only ps r₀ (State.pulseDone s c) ↔ Only ps r₀ s :=
  (State.pulseDone_only s c).step h

theorem State.afterDescriptor_only (s : State) (c : Nat) :
    Only [.out, .regs, .pcie, .log, .logWritten, .lines, .pulses, .channels, .sideband] s (State.afterDescriptor s c) := by
  simp [State.afterDescriptor]

@[simp] theorem State.afterDescriptor_step (s : State) (c : Nat) {ps : List Part} {r₀ : State}
    (h : [.out, .regs, .pcie, .log, .logWritten, .lines, .pulses, .channels, .sideband] ⊆ ps) :
    Only ps r₀ (State.afterDescriptor s c) ↔ Only ps r₀ s :=
  (State.afterDescriptor_only s c).step h

theorem State.readSrc_only (s : State) (c : Nat) (n : Nat) (host : List Byte) :
    Only [.out, .regs, .pcie, .log, .logWritten, .sideband, .tables, .marver, .pcs, .stageRows, .mem, .integrity, .regulator] s (State.readSrc s c n host).2 := by
  simp [State.readSrc]

@[simp] theorem State.readSrc_step (s : State) (c : Nat) (n : Nat) (host : List Byte) {ps : List Part} {r₀ : State}
    (h : [.out, .regs, .pcie, .log, .logWritten, .sideband, .tables, .marver, .pcs, .stageRows, .mem, .integrity, .regulator] ⊆ ps) :
    Only ps r₀ (State.readSrc s c n host).2 ↔ Only ps r₀ s :=
  (State.readSrc_only s c n host).step h

theorem State.readDst_only (s : State) (c : Nat) (n : Nat) (host : List Byte) :
    Only [.out, .regs, .pcie, .log, .logWritten, .sideband, .tables, .marver, .pcs, .stageRows, .mem, .integrity, .regulator] s (State.readDst s c n host).2 := by
  simp [State.readDst]

@[simp] theorem State.readDst_step (s : State) (c : Nat) (n : Nat) (host : List Byte) {ps : List Part} {r₀ : State}
    (h : [.out, .regs, .pcie, .log, .logWritten, .sideband, .tables, .marver, .pcs, .stageRows, .mem, .integrity, .regulator] ⊆ ps) :
    Only ps r₀ (State.readDst s c n host).2 ↔ Only ps r₀ s :=
  (State.readDst_only s c n host).step h

theorem State.writeDst_only (s : State) (c : Nat) (b : List Byte) :
    Only [.out, .heldOut, .regs, .pcie, .log, .logWritten, .sideband, .tables, .marver, .pcs, .stageRows, .mem, .integrity, .regulator] s (State.writeDst s c b) := by
  simp [State.writeDst]

@[simp] theorem State.writeDst_step (s : State) (c : Nat) (b : List Byte) {ps : List Part} {r₀ : State}
    (h : [.out, .heldOut, .regs, .pcie, .log, .logWritten, .sideband, .tables, .marver, .pcs, .stageRows, .mem, .integrity, .regulator] ⊆ ps) :
    Only ps r₀ (State.writeDst s c b) ↔ Only ps r₀ s :=
  (State.writeDst_only s c b).step h

theorem State.moveBytes_only (s : State) (c : Nat) (n : Nat) (src : List Byte) :
    Only [.out, .heldOut, .regs, .pcie, .log, .logWritten, .sideband, .tables, .marver, .pcs, .stageRows, .mem, .integrity, .regulator] s (State.moveBytes s c n src) := by
  unfold State.moveBytes
  (repeat' split) <;> simp

@[simp] theorem State.moveBytes_step (s : State) (c : Nat) (n : Nat) (src : List Byte) {ps : List Part} {r₀ : State}
    (h : [.out, .heldOut, .regs, .pcie, .log, .logWritten, .sideband, .tables, .marver, .pcs, .stageRows, .mem, .integrity, .regulator] ⊆ ps) :
    Only ps r₀ (State.moveBytes s c n src) ↔ Only ps r₀ s :=
  (State.moveBytes_only s c n src).step h

theorem State.compareBytes_only (s : State) (c : Nat) (n : Nat) (src : List Byte) (dst : List Byte) :
    Only [.out, .regs, .pcie, .log, .logWritten, .lines, .pulses, .sideband, .tables, .marver, .pcs, .stageRows, .mem, .integrity, .regulator] s (State.compareBytes s c n src dst).2 := by
  simp only [State.compareBytes]
  (repeat' split) <;> simp

@[simp] theorem State.compareBytes_step (s : State) (c : Nat) (n : Nat) (src : List Byte) (dst : List Byte) {ps : List Part} {r₀ : State}
    (h : [.out, .regs, .pcie, .log, .logWritten, .lines, .pulses, .sideband, .tables, .marver, .pcs, .stageRows, .mem, .integrity, .regulator] ⊆ ps) :
    Only ps r₀ (State.compareBytes s c n src dst).2 ↔ Only ps r₀ s :=
  (State.compareBytes_only s c n src dst).step h

theorem State.endOperation_only (s : State) (c : Nat) (n : Nat) (stop : Option (Nat × Nat)) :
    Only [.out, .regs, .pcie, .log, .logWritten, .lines, .pulses, .channels, .sideband] s (State.endOperation s c n stop) := by
  unfold State.endOperation
  (repeat' split) <;> simp

@[simp] theorem State.endOperation_step (s : State) (c : Nat) (n : Nat) (stop : Option (Nat × Nat)) {ps : List Part} {r₀ : State}
    (h : [.out, .regs, .pcie, .log, .logWritten, .lines, .pulses, .channels, .sideband] ⊆ ps) :
    Only ps r₀ (State.endOperation s c n stop) ↔ Only ps r₀ s :=
  (State.endOperation_only s c n stop).step h

theorem State.pauseChannels_only (s : State) :
    Only [.regs] s (State.pauseChannels s) := by
  simp [State.pauseChannels]

@[simp] theorem State.pauseChannels_step (s : State) {ps : List Part} {r₀ : State}
    (h : [.regs] ⊆ ps) :
    Only ps r₀ (State.pauseChannels s) ↔ Only ps r₀ s :=
  (State.pauseChannels_only s).step h

theorem State.resumeChannels_only (s : State) :
    Only [.regs] s (State.resumeChannels s) := by
  simp [State.resumeChannels]

@[simp] theorem State.resumeChannels_step (s : State) {ps : List Part} {r₀ : State}
    (h : [.regs] ⊆ ps) :
    Only ps r₀ (State.resumeChannels s) ↔ Only ps r₀ s :=
  (State.resumeChannels_only s).step h

theorem State.haltStandardChannels_only (s : State) :
    Only [.out, .regs, .pcie, .log, .logWritten, .lines, .pulses, .channels, .sideband] s (State.haltStandardChannels s) := by
  simp [State.haltStandardChannels]

@[simp] theorem State.haltStandardChannels_step (s : State) {ps : List Part} {r₀ : State}
    (h : [.out, .regs, .pcie, .log, .logWritten, .lines, .pulses, .channels, .sideband] ⊆ ps) :
    Only ps r₀ (State.haltStandardChannels s) ↔ Only ps r₀ s :=
  (State.haltStandardChannels_only s).step h

end Sys2Proof.Machine
end

