-- ==== Sys2Proof/Laws/FrameTrust.lean ====
section
/-!
SUPPORT. What the operations of Trust.lean leave unchanged: one lemma for each.
-/
namespace Sys2Proof.Machine

theorem State.senseWords_only (s : State) :
    Only [.regs, .trust] s (State.senseWords s) := by
  simp [State.senseWords]

@[simp] theorem State.senseWords_step (s : State) {ps : List Part} {r₀ : State}
    (h : [.regs, .trust] ⊆ ps) :
    Only ps r₀ (State.senseWords s) ↔ Only ps r₀ s :=
  (State.senseWords_only s).step h

theorem State.checkFuses_only (s : State) (patchMatches : Bool) :
    Only [.out, .regs, .pcie, .log, .logWritten, .trust, .sideband] s (State.checkFuses s patchMatches) := by
  simp [State.checkFuses]

@[simp] theorem State.checkFuses_step (s : State) (patchMatches : Bool) {ps : List Part} {r₀ : State}
    (h : [.out, .regs, .pcie, .log, .logWritten, .trust, .sideband] ⊆ ps) :
    Only ps r₀ (State.checkFuses s patchMatches) ↔ Only ps r₀ s :=
  (State.checkFuses_only s patchMatches).step h

theorem State.stopPulse_only (s : State) :
    Only [.free, .fuses, .trust] s (State.stopPulse s) := by
  unfold State.stopPulse
  (repeat' split) <;> simp

@[simp] theorem State.stopPulse_step (s : State) {ps : List Part} {r₀ : State}
    (h : [.free, .fuses, .trust] ⊆ ps) :
    Only ps r₀ (State.stopPulse s) ↔ Only ps r₀ s :=
  (State.stopPulse_only s).step h

theorem State.blow_only (s : State) (w : Nat) (bits : Nat) :
    Only [.fuses] s (State.blow s w bits) := by
  simp [State.blow]

@[simp] theorem State.blow_step (s : State) (w : Nat) (bits : Nat) {ps : List Part} {r₀ : State}
    (h : [.fuses] ⊆ ps) :
    Only ps r₀ (State.blow s w bits) ↔ Only ps r₀ s :=
  (State.blow_only s w bits).step h

theorem State.blowAll_only (s : State) (a1 : List (Nat × Nat)) :
    Only [.fuses] s (State.blowAll s a1) := by
  induction a1 generalizing s with
  | nil => simp [State.blowAll]
  | cons p r ih => exact (State.blow_only s p.1 p.2).trans (ih _)

@[simp] theorem State.blowAll_step (s : State) (a1 : List (Nat × Nat)) {ps : List Part} {r₀ : State}
    (h : [.fuses] ⊆ ps) :
    Only ps r₀ (State.blowAll s a1) ↔ Only ps r₀ s :=
  (State.blowAll_only s a1).step h

theorem State.setProgWord_only (s : State) (w : Option Nat) :
    Only [.regs] s (State.setProgWord s w) := by
  unfold State.setProgWord
  (repeat' split) <;> simp

@[simp] theorem State.setProgWord_step (s : State) (w : Option Nat) {ps : List Part} {r₀ : State}
    (h : [.regs] ⊆ ps) :
    Only ps r₀ (State.setProgWord s w) ↔ Only ps r₀ s :=
  (State.setProgWord_only s w).step h

theorem State.fuseDone_only (s : State) (e : Sqe) (status : Nat) (word : Option Nat) (result : Nat) :
    Only [.out, .heldOut, .regs, .pcie, .rings] s (State.fuseDone s e status word result) := by
  simp [State.fuseDone]

@[simp] theorem State.fuseDone_step (s : State) (e : Sqe) (status : Nat) (word : Option Nat) (result : Nat) {ps : List Part} {r₀ : State}
    (h : [.out, .heldOut, .regs, .pcie, .rings] ⊆ ps) :
    Only ps r₀ (State.fuseDone s e status word result) ↔ Only ps r₀ s :=
  (State.fuseDone_only s e status word result).step h

theorem State.resumeJob_only (s : State) :
    Only [.trust] s (State.resumeJob s) := by
  simp [State.resumeJob]

@[simp] theorem State.resumeJob_step (s : State) {ps : List Part} {r₀ : State}
    (h : [.trust] ⊆ ps) :
    Only ps r₀ (State.resumeJob s) ↔ Only ps r₀ s :=
  (State.resumeJob_only s).step h

theorem State.resense_only (s : State) (r : Resense) :
    Only [.out, .regs, .pcie, .log, .logWritten, .sideband] s (State.resense s r) := by
  simp [State.resense]

@[simp] theorem State.resense_step (s : State) (r : Resense) {ps : List Part} {r₀ : State}
    (h : [.out, .regs, .pcie, .log, .logWritten, .sideband] ⊆ ps) :
    Only ps r₀ (State.resense s r) ↔ Only ps r₀ s :=
  (State.resense_only s r).step h

theorem State.storeSlot_only (s : State) (k : Nat) (i : FwImage) :
    Only [.trust] s (State.storeSlot s k i) := by
  simp [State.storeSlot]

@[simp] theorem State.storeSlot_step (s : State) (k : Nat) (i : FwImage) {ps : List Part} {r₀ : State}
    (h : [.trust] ⊆ ps) :
    Only ps r₀ (State.storeSlot s k i) ↔ Only ps r₀ s :=
  (State.storeSlot_only s k i).step h

theorem State.mailboxRefuse_only (s : State) (slot : Nat) (kind : Nat) :
    Only [.out, .regs, .pcie, .log, .logWritten, .sideband] s (State.mailboxRefuse s slot kind) := by
  simp [State.mailboxRefuse]

@[simp] theorem State.mailboxRefuse_step (s : State) (slot : Nat) (kind : Nat) {ps : List Part} {r₀ : State}
    (h : [.out, .regs, .pcie, .log, .logWritten, .sideband] ⊆ ps) :
    Only ps r₀ (State.mailboxRefuse s slot kind) ↔ Only ps r₀ s :=
  (State.mailboxRefuse_only s slot kind).step h

end Sys2Proof.Machine
end

