-- ==== Sys2Proof/Laws/FrameThermal.lean ====
section
/-!
SUPPORT. What the operations of Thermal.lean leave unchanged: one lemma for each.
-/
namespace Sys2Proof.Machine

theorem State.setSensor_only (s : State) (n : Nat) (x : Sensor) :
    Only [.sensors] s (State.setSensor s n x) := by
  simp [State.setSensor]

@[simp] theorem State.setSensor_step (s : State) (n : Nat) (x : Sensor) {ps : List Part} {r₀ : State}
    (h : [.sensors] ⊆ ps) :
    Only ps r₀ (State.setSensor s n x) ↔ Only ps r₀ s :=
  (State.setSensor_only s n x).step h

theorem State.setLayer_only (s : State) (l : Nat) (x : Layer) :
    Only [.layers] s (State.setLayer s l x) := by
  simp [State.setLayer]

@[simp] theorem State.setLayer_step (s : State) (l : Nat) (x : Layer) {ps : List Part} {r₀ : State}
    (h : [.layers] ⊆ ps) :
    Only ps r₀ (State.setLayer s l x) ↔ Only ps r₀ s :=
  (State.setLayer_only s l x).step h

theorem State.quenchBegin_only (s : State) :
    Only [.out, .regs, .thermal, .ports] s (State.quenchBegin s) := by
  simp [State.quenchBegin]

@[simp] theorem State.quenchBegin_step (s : State) {ps : List Part} {r₀ : State}
    (h : [.out, .regs, .thermal, .ports] ⊆ ps) :
    Only ps r₀ (State.quenchBegin s) ↔ Only ps r₀ s :=
  (State.quenchBegin_only s).step h

theorem State.quenchStopped_only (s : State) :
    Only [.out, .dom, .regs, .pcie, .log, .logWritten, .lines, .pulses, .thermal, .sideband, .pcs] s (State.quenchStopped s) := by
  simp [State.quenchStopped]

@[simp] theorem State.quenchStopped_step (s : State) {ps : List Part} {r₀ : State}
    (h : [.out, .dom, .regs, .pcie, .log, .logWritten, .lines, .pulses, .thermal, .sideband, .pcs] ⊆ ps) :
    Only ps r₀ (State.quenchStopped s) ↔ Only ps r₀ s :=
  (State.quenchStopped_only s).step h

theorem State.reportQuenchEnd_only (s : State) :
    Only [.out, .regs, .pcie, .log, .logWritten, .lines, .pulses, .sideband] s (State.reportQuenchEnd s) := by
  simp [State.reportQuenchEnd]

@[simp] theorem State.reportQuenchEnd_step (s : State) {ps : List Part} {r₀ : State}
    (h : [.out, .regs, .pcie, .log, .logWritten, .lines, .pulses, .sideband] ⊆ ps) :
    Only ps r₀ (State.reportQuenchEnd s) ↔ Only ps r₀ s :=
  (State.reportQuenchEnd_only s).step h

theorem State.quenchEnd_only (s : State) :
    Only [.out, .dom, .regs, .pcie, .log, .logWritten, .lines, .pulses, .thermal, .sideband, .ports, .lanes, .tables, .pcs, .regulator] s (State.quenchEnd s) := by
  simp [State.quenchEnd]

@[simp] theorem State.quenchEnd_step (s : State) {ps : List Part} {r₀ : State}
    (h : [.out, .dom, .regs, .pcie, .log, .logWritten, .lines, .pulses, .thermal, .sideband, .ports, .lanes, .tables, .pcs, .regulator] ⊆ ps) :
    Only ps r₀ (State.quenchEnd s) ↔ Only ps r₀ s :=
  (State.quenchEnd_only s).step h

theorem State.addSource_only (s : State) (b : Nat) :
    Only [.out, .regs, .thermal, .ports] s (State.addSource s b) := by
  simp [State.addSource]

@[simp] theorem State.addSource_step (s : State) (b : Nat) {ps : List Part} {r₀ : State}
    (h : [.out, .regs, .thermal, .ports] ⊆ ps) :
    Only ps r₀ (State.addSource s b) ↔ Only ps r₀ s :=
  (State.addSource_only s b).step h

theorem State.dropSource_only (s : State) (b : Nat) :
    Only [.out, .dom, .regs, .pcie, .log, .logWritten, .lines, .pulses, .thermal, .sideband, .ports, .lanes, .tables, .pcs, .regulator] s (State.dropSource s b) := by
  simp [State.dropSource]

@[simp] theorem State.dropSource_step (s : State) (b : Nat) {ps : List Part} {r₀ : State}
    (h : [.out, .dom, .regs, .pcie, .log, .logWritten, .lines, .pulses, .thermal, .sideband, .ports, .lanes, .tables, .pcs, .regulator] ⊆ ps) :
    Only ps r₀ (State.dropSource s b) ↔ Only ps r₀ s :=
  (State.dropSource_only s b).step h

theorem State.sampleSensor_only (s : State) (i : SensorInput) :
    Only [.regs, .sensors] s (State.sampleSensor s i) := by
  simp [State.sampleSensor]

@[simp] theorem State.sampleSensor_step (s : State) (i : SensorInput) {ps : List Part} {r₀ : State}
    (h : [.regs, .sensors] ⊆ ps) :
    Only ps r₀ (State.sampleSensor s i) ↔ Only ps r₀ s :=
  (State.sampleSensor_only s i).step h

theorem State.sampleModel_only (s : State) (x : ThermalInput) :
    Only [.layers] s (State.sampleModel s x) := by
  simp [State.sampleModel]

@[simp] theorem State.sampleModel_step (s : State) (x : ThermalInput) {ps : List Part} {r₀ : State}
    (h : [.layers] ⊆ ps) :
    Only ps r₀ (State.sampleModel s x) ↔ Only ps r₀ s :=
  (State.sampleModel_only s x).step h

theorem State.sampleLayers_only (s : State) :
    Only [.layers] s (State.sampleLayers s) := by
  simp [State.sampleLayers]

@[simp] theorem State.sampleLayers_step (s : State) {ps : List Part} {r₀ : State}
    (h : [.layers] ⊆ ps) :
    Only ps r₀ (State.sampleLayers s) ↔ Only ps r₀ s :=
  (State.sampleLayers_only s).step h

theorem State.reportSensor_only (old : State) (s : State) (i : SensorInput) :
    Only [.out, .regs, .pcie, .log, .logWritten, .sideband] s (State.reportSensor old s i) := by
  simp [State.reportSensor]

@[simp] theorem State.reportSensor_step (old : State) (s : State) (i : SensorInput) {ps : List Part} {r₀ : State}
    (h : [.out, .regs, .pcie, .log, .logWritten, .sideband] ⊆ ps) :
    Only ps r₀ (State.reportSensor old s i) ↔ Only ps r₀ s :=
  (State.reportSensor_only old s i).step h

theorem State.setDeviceLevel_only (s : State) (new : Nat) :
    Only [.out, .regs, .pcie, .log, .logWritten, .lines, .pulses, .thermal, .sideband, .ports, .lanes] s (State.setDeviceLevel s new) := by
  simp [State.setDeviceLevel]

@[simp] theorem State.setDeviceLevel_step (s : State) (new : Nat) {ps : List Part} {r₀ : State}
    (h : [.out, .regs, .pcie, .log, .logWritten, .lines, .pulses, .thermal, .sideband, .ports, .lanes] ⊆ ps) :
    Only ps r₀ (State.setDeviceLevel s new) ↔ Only ps r₀ s :=
  (State.setDeviceLevel_only s new).step h

end Sys2Proof.Machine
end

