-- ==== Sys2Proof/Laws/FrameClocks.lean ====
section
/-!
SUPPORT. What the operations of Clocks.lean leave unchanged: one lemma for each.
-/
namespace Sys2Proof.Machine

theorem State.enterSafeHold_only (s : State) (cause : Nat) :
    Only [.out, .pilot, .dom, .regs, .pcie, .log, .logWritten, .sideband, .ports, .pcs, .windows] s (State.enterSafeHold s cause) := by
  simp [State.enterSafeHold]

@[simp] theorem State.enterSafeHold_step (s : State) (cause : Nat) {ps : List Part} {r₀ : State}
    (h : [.out, .pilot, .dom, .regs, .pcie, .log, .logWritten, .sideband, .ports, .pcs, .windows] ⊆ ps) :
    Only ps r₀ (State.enterSafeHold s cause) ↔ Only ps r₀ s :=
  (State.enterSafeHold_only s cause).step h

theorem State.refclkLost_only (s : State) (byFreq : Bool) :
    Only [.out, .time, .pilot, .dom, .regs, .pcie, .log, .logWritten, .sideband, .ports, .pcs, .windows] s (State.refclkLost s byFreq) := by
  simp [State.refclkLost]

@[simp] theorem State.refclkLost_step (s : State) (byFreq : Bool) {ps : List Part} {r₀ : State}
    (h : [.out, .time, .pilot, .dom, .regs, .pcie, .log, .logWritten, .sideband, .ports, .pcs, .windows] ⊆ ps) :
    Only ps r₀ (State.refclkLost s byFreq) ↔ Only ps r₀ s :=
  (State.refclkLost_only s byFreq).step h

theorem State.failRequest_only (s : State) (r : Req) :
    Only [.regs, .ports, .snapPending, .engineQueues] s (State.failRequest s r) := by
  simp [State.failRequest]

@[simp] theorem State.failRequest_step (s : State) (r : Req) {ps : List Part} {r₀ : State}
    (h : [.regs, .ports, .snapPending, .engineQueues] ⊆ ps) :
    Only ps r₀ (State.failRequest s r) ↔ Only ps r₀ s :=
  (State.failRequest_only s r).step h

theorem State.failRequests_only (s : State) (rs : List Req) :
    Only [.regs, .ports, .snapPending, .engineQueues] s (State.failRequests s rs) := by
  simp [State.failRequests]

@[simp] theorem State.failRequests_step (s : State) (rs : List Req) {ps : List Part} {r₀ : State}
    (h : [.regs, .ports, .snapPending, .engineQueues] ⊆ ps) :
    Only ps r₀ (State.failRequests s rs) ↔ Only ps r₀ s :=
  (State.failRequests_only s rs).step h

theorem State.failMovers_only (s : State) :
    Only [.out, .regs, .pcie, .log, .logWritten, .lines, .pulses, .channels, .sideband] s (State.failMovers s) := by
  simp [State.failMovers]

@[simp] theorem State.failMovers_step (s : State) {ps : List Part} {r₀ : State}
    (h : [.out, .regs, .pcie, .log, .logWritten, .lines, .pulses, .channels, .sideband] ⊆ ps) :
    Only ps r₀ (State.failMovers s) ↔ Only ps r₀ s :=
  (State.failMovers_only s).step h

theorem State.failBlock_only (s : State) (d : Nat) :
    Only [.out, .heldOut, .regs, .pcie, .log, .logWritten, .rings, .lines, .pulses, .channels, .sideband, .ports, .lanes, .snapPending, .engineQueues] s (State.failBlock s d) := by
  simp [State.failBlock]

@[simp] theorem State.failBlock_step (s : State) (d : Nat) {ps : List Part} {r₀ : State}
    (h : [.out, .heldOut, .regs, .pcie, .log, .logWritten, .rings, .lines, .pulses, .channels, .sideband, .ports, .lanes, .snapPending, .engineQueues] ⊆ ps) :
    Only ps r₀ (State.failBlock s d) ↔ Only ps r₀ s :=
  (State.failBlock_only s d).step h

theorem State.endOpen_only (s : State) :
    Only [.out, .heldOut, .regs, .pcie, .log, .logWritten, .rings, .lines, .pulses, .channels, .sideband, .ports, .lanes, .snapPending, .engineQueues] s (State.endOpen s) := by
  simp [State.endOpen]

@[simp] theorem State.endOpen_step (s : State) {ps : List Part} {r₀ : State}
    (h : [.out, .heldOut, .regs, .pcie, .log, .logWritten, .rings, .lines, .pulses, .channels, .sideband, .ports, .lanes, .snapPending, .engineQueues] ⊆ ps) :
    Only ps r₀ (State.endOpen s) ↔ Only ps r₀ s :=
  (State.endOpen_only s).step h

theorem State.holdBlock_only (s : State) (d : Nat) :
    Only [.out, .heldOut, .dom, .regs, .pcie, .log, .logWritten, .rings, .lines, .pulses, .channels, .sideband, .ports, .lanes, .snapPending, .engineQueues] s (State.holdBlock s d) := by
  simp [State.holdBlock]

@[simp] theorem State.holdBlock_step (s : State) (d : Nat) {ps : List Part} {r₀ : State}
    (h : [.out, .heldOut, .dom, .regs, .pcie, .log, .logWritten, .rings, .lines, .pulses, .channels, .sideband, .ports, .lanes, .snapPending, .engineQueues] ⊆ ps) :
    Only ps r₀ (State.holdBlock s d) ↔ Only ps r₀ s :=
  (State.holdBlock_only s d).step h

theorem State.undoSwitch_only (s : State) (d : Nat) :
    Only [.time, .pilot, .regs] s (State.undoSwitch s d) := by
  simp [State.undoSwitch]

@[simp] theorem State.undoSwitch_step (s : State) (d : Nat) {ps : List Part} {r₀ : State}
    (h : [.time, .pilot, .regs] ⊆ ps) :
    Only ps r₀ (State.undoSwitch s d) ↔ Only ps r₀ s :=
  (State.undoSwitch_only s d).step h

theorem State.engineReloaded_only (s : State) (b : Nat) :
    Only [.test] s (State.engineReloaded s b) := by
  simp [State.engineReloaded]

@[simp] theorem State.engineReloaded_step (s : State) (b : Nat) {ps : List Part} {r₀ : State}
    (h : [.test] ⊆ ps) :
    Only ps r₀ (State.engineReloaded s b) ↔ Only ps r₀ s :=
  (State.engineReloaded_only s b).step h

theorem State.tick_only (s : State) :
    Only [.time] s (State.tick s) := by
  simp [State.tick]

@[simp] theorem State.tick_step (s : State) {ps : List Part} {r₀ : State}
    (h : [.time] ⊆ ps) :
    Only ps r₀ (State.tick s) ↔ Only ps r₀ s :=
  (State.tick_only s).step h

theorem State.cycle_only (s : State) :
    Only [.out, .time, .regs, .ports] s (State.cycle s) := by
  simp [State.cycle]

@[simp] theorem State.cycle_step (s : State) {ps : List Part} {r₀ : State}
    (h : [.out, .time, .regs, .ports] ⊆ ps) :
    Only ps r₀ (State.cycle s) ↔ Only ps r₀ s :=
  (State.cycle_only s).step h

theorem State.measure_only (s : State) (target : Int) (at' : Int) (interval : Int) :
    Only [.time, .regs] s (State.measure s target at' interval) := by
  simp [State.measure]

@[simp] theorem State.measure_step (s : State) (target : Int) (at' : Int) (interval : Int) {ps : List Part} {r₀ : State}
    (h : [.time, .regs] ⊆ ps) :
    Only ps r₀ (State.measure s target at' interval) ↔ Only ps r₀ s :=
  (State.measure_only s target at' interval).step h

theorem State.holdover_only (s : State) :
    Only [.time, .regs] s (State.holdover s) := by
  simp [State.holdover]

@[simp] theorem State.holdover_step (s : State) {ps : List Part} {r₀ : State}
    (h : [.time, .regs] ⊆ ps) :
    Only ps r₀ (State.holdover s) ↔ Only ps r₀ s :=
  (State.holdover_only s).step h

end Sys2Proof.Machine
end

