-- ==== Sys2Proof/Laws/FrameIntegrity.lean ====
section
/-!
SUPPORT. What the operations of Integrity.lean leave unchanged: one lemma for each.
-/
namespace Sys2Proof.Machine

theorem State.requestRetire_only (s : State) (pc : Nat) (bank : Nat) :
    Only [.out, .regs, .pcie, .log, .logWritten, .sideband, .integrity] s (State.requestRetire s pc bank) := by
  simp [State.requestRetire]

@[simp] theorem State.requestRetire_step (s : State) (pc : Nat) (bank : Nat) {ps : List Part} {r₀ : State}
    (h : [.out, .regs, .pcie, .log, .logWritten, .sideband, .integrity] ⊆ ps) :
    Only ps r₀ (State.requestRetire s pc bank) ↔ Only ps r₀ s :=
  (State.requestRetire_only s pc bank).step h

theorem State.noteUe_only (s : State) (pc : Nat) (bank : Nat) (row : Nat) :
    Only [.out, .regs, .pcie, .log, .logWritten, .sideband, .integrity] s (State.noteUe s pc bank row) := by
  simp [State.noteUe]

@[simp] theorem State.noteUe_step (s : State) (pc : Nat) (bank : Nat) (row : Nat) {ps : List Part} {r₀ : State}
    (h : [.out, .regs, .pcie, .log, .logWritten, .sideband, .integrity] ⊆ ps) :
    Only ps r₀ (State.noteUe s pc bank row) ↔ Only ps r₀ s :=
  (State.noteUe_only s pc bank row).step h

theorem State.moveRegionRow_only (s : State) (old : RowAt) :
    Only [.marver] s (State.moveRegionRow s old) := by
  unfold State.moveRegionRow
  split
  · simp
  · next x h => exact (State.takeRow_only _ _ _ h).trans (by simp)

@[simp] theorem State.moveRegionRow_step (s : State) (old : RowAt) {ps : List Part} {r₀ : State}
    (h : [.marver] ⊆ ps) :
    Only ps r₀ (State.moveRegionRow s old) ↔ Only ps r₀ s :=
  (State.moveRegionRow_only s old).step h

theorem State.emptyBank_only (s : State) (pc : Nat) (bank : Nat) :
    Only [.marver] s (State.emptyBank s pc bank) := by
  simp [State.emptyBank]

@[simp] theorem State.emptyBank_step (s : State) (pc : Nat) (bank : Nat) {ps : List Part} {r₀ : State}
    (h : [.marver] ⊆ ps) :
    Only ps r₀ (State.emptyBank s pc bank) ↔ Only ps r₀ s :=
  (State.emptyBank_only s pc bank).step h

theorem State.setBucket_only (s : State) (u : Nat) (b : Bucket) :
    Only [.integrity] s (State.setBucket s u b) := by
  simp [State.setBucket]

@[simp] theorem State.setBucket_step (s : State) (u : Nat) (b : Bucket) {ps : List Part} {r₀ : State}
    (h : [.integrity] ⊆ ps) :
    Only ps r₀ (State.setBucket s u b) ↔ Only ps r₀ s :=
  (State.setBucket_only s u b).step h

theorem State.overflowed_only (s : State) (u : Nat) (banks : Map Nat) :
    Only [.out, .regs, .pcie, .log, .logWritten, .sideband, .integrity] s (State.overflowed s u banks) := by
  simp [State.overflowed]

@[simp] theorem State.overflowed_step (s : State) (u : Nat) (banks : Map Nat) {ps : List Part} {r₀ : State}
    (h : [.out, .regs, .pcie, .log, .logWritten, .sideband, .integrity] ⊆ ps) :
    Only ps r₀ (State.overflowed s u banks) ↔ Only ps r₀ s :=
  (State.overflowed_only s u banks).step h

theorem State.addError_only (s : State) (w : MemWord) :
    Only [.out, .regs, .pcie, .log, .logWritten, .sideband, .integrity] s (State.addError s w) := by
  simp [State.addError]

@[simp] theorem State.addError_step (s : State) (w : MemWord) {ps : List Part} {r₀ : State}
    (h : [.out, .regs, .pcie, .log, .logWritten, .sideband, .integrity] ⊆ ps) :
    Only ps r₀ (State.addError s w) ↔ Only ps r₀ s :=
  (State.addError_only s w).step h

theorem State.countCe_only (s : State) (w : MemWord) :
    Only [.out, .regs, .pcie, .log, .logWritten, .sideband, .integrity] s (State.countCe s w) := by
  simp [State.countCe]

@[simp] theorem State.countCe_step (s : State) (w : MemWord) {ps : List Part} {r₀ : State}
    (h : [.out, .regs, .pcie, .log, .logWritten, .sideband, .integrity] ⊆ ps) :
    Only ps r₀ (State.countCe s w) ↔ Only ps r₀ s :=
  (State.countCe_only s w).step h

theorem State.rewritten_only (s : State) (w : MemWord) :
    Only [.regs, .integrity] s (State.rewritten s w) := by
  simp [State.rewritten]

@[simp] theorem State.rewritten_step (s : State) (w : MemWord) {ps : List Part} {r₀ : State}
    (h : [.regs, .integrity] ⊆ ps) :
    Only ps r₀ (State.rewritten s w) ↔ Only ps r₀ s :=
  (State.rewritten_only s w).step h

theorem State.onQueue_only (s : State) (q : Nat) (f : Queue → Queue) :
    Only [.queues] s (State.onQueue s q f) := by
  simp [State.onQueue]

@[simp] theorem State.onQueue_step (s : State) (q : Nat) (f : Queue → Queue) {ps : List Part} {r₀ : State}
    (h : [.queues] ⊆ ps) :
    Only ps r₀ (State.onQueue s q f) ↔ Only ps r₀ s :=
  (State.onQueue_only s q f).step h

theorem State.onTable_only (s : State) (n : Nat) (f : Table → Table) :
    Only [.tables] s (State.onTable s n f) := by
  unfold State.onTable
  (repeat' split) <;> simp

@[simp] theorem State.onTable_step (s : State) (n : Nat) (f : Table → Table) {ps : List Part} {r₀ : State}
    (h : [.tables] ⊆ ps) :
    Only ps r₀ (State.onTable s n f) ↔ Only ps r₀ s :=
  (State.onTable_only s n f).step h

theorem State.tableDamaged_only (s : State) (n : Nat) (w : MemWord) :
    Only [.out, .regs, .pcie, .log, .logWritten, .sideband] s (State.tableDamaged s n w) := by
  simp [State.tableDamaged]

@[simp] theorem State.tableDamaged_step (s : State) (n : Nat) (w : MemWord) {ps : List Part} {r₀ : State}
    (h : [.out, .regs, .pcie, .log, .logWritten, .sideband] ⊆ ps) :
    Only ps r₀ (State.tableDamaged s n w) ↔ Only ps r₀ s :=
  (State.tableDamaged_only s n w).step h

theorem State.badNode_only (s : State) (n : Nat) (key : List Byte) (ofMirror : Bool) (w : MemWord) :
    Only [.out, .regs, .pcie, .log, .logWritten, .sideband, .tables, .integrity] s (State.badNode s n key ofMirror w) := by
  unfold State.badNode
  (repeat' split) <;> simp

@[simp] theorem State.badNode_step (s : State) (n : Nat) (key : List Byte) (ofMirror : Bool) (w : MemWord) {ps : List Part} {r₀ : State}
    (h : [.out, .regs, .pcie, .log, .logWritten, .sideband, .tables, .integrity] ⊆ ps) :
    Only ps r₀ (State.badNode s n key ofMirror w) ↔ Only ps r₀ s :=
  (State.badNode_only s n key ofMirror w).step h

theorem State.spoilEgress_only (s : State) (p : Nat) :
    Only [.ports] s (State.spoilEgress s p) := by
  simp only [State.spoilEgress]
  (repeat' split) <;> simp

@[simp] theorem State.spoilEgress_step (s : State) (p : Nat) {ps : List Part} {r₀ : State}
    (h : [.ports] ⊆ ps) :
    Only ps r₀ (State.spoilEgress s p) ↔ Only ps r₀ s :=
  (State.spoilEgress_only s p).step h

theorem State.spoilIngress_only (s : State) (p : Nat) :
    Only [.regs, .ports] s (State.spoilIngress s p) := by
  simp only [State.spoilIngress]
  (repeat' split) <;> simp

@[simp] theorem State.spoilIngress_step (s : State) (p : Nat) {ps : List Part} {r₀ : State}
    (h : [.regs, .ports] ⊆ ps) :
    Only ps r₀ (State.spoilIngress s p) ↔ Only ps r₀ s :=
  (State.spoilIngress_only s p).step h

theorem State.spoilAssembly_only (s : State) (p : Nat) :
    Only [.regs, .ports, .snapPending, .engineQueues] s (State.spoilAssembly s p) := by
  unfold State.spoilAssembly
  (repeat' split) <;> simp

@[simp] theorem State.spoilAssembly_step (s : State) (p : Nat) {ps : List Part} {r₀ : State}
    (h : [.regs, .ports, .snapPending, .engineQueues] ⊆ ps) :
    Only ps r₀ (State.spoilAssembly s p) ↔ Only ps r₀ s :=
  (State.spoilAssembly_only s p).step h

theorem State.restartOp_only (s : State) (n : Nat) :
    Only [.out, .regs, .engineQueues, .marver, .pcs, .regulator] s (State.restartOp s n) := by
  unfold State.restartOp
  (repeat' split) <;> simp

@[simp] theorem State.restartOp_step (s : State) (n : Nat) {ps : List Part} {r₀ : State}
    (h : [.out, .regs, .engineQueues, .marver, .pcs, .regulator] ⊆ ps) :
    Only ps r₀ (State.restartOp s n) ↔ Only ps r₀ s :=
  (State.restartOp_only s n).step h

theorem State.spoilEngine_only (s : State) (n : Nat) :
    Only [.regs, .ports, .tables, .dead, .commits, .engineQueues] s (State.spoilEngine s n) := by
  simp only [State.spoilEngine]
  (repeat' split) <;> simp

@[simp] theorem State.spoilEngine_step (s : State) (n : Nat) {ps : List Part} {r₀ : State}
    (h : [.regs, .ports, .tables, .dead, .commits, .engineQueues] ⊆ ps) :
    Only ps r₀ (State.spoilEngine s n) ↔ Only ps r₀ s :=
  (State.spoilEngine_only s n).step h

theorem State.pausePlacing_only (s : State) :
    Only [.free, .marver] s (State.pausePlacing s) := by
  simp [State.pausePlacing]

@[simp] theorem State.pausePlacing_step (s : State) {ps : List Part} {r₀ : State}
    (h : [.free, .marver] ⊆ ps) :
    Only ps r₀ (State.pausePlacing s) ↔ Only ps r₀ s :=
  (State.pausePlacing_only s).step h

theorem State.spoilQueued_only (s : State) (n : Nat) (k : Nat) (i : Nat) :
    Only [.regs, .pcs] s (State.spoilQueued s n k i) := by
  simp [State.spoilQueued]

@[simp] theorem State.spoilQueued_step (s : State) (n : Nat) (k : Nat) (i : Nat) {ps : List Part} {r₀ : State}
    (h : [.regs, .pcs] ⊆ ps) :
    Only ps r₀ (State.spoilQueued s n k i) ↔ Only ps r₀ s :=
  (State.spoilQueued_only s n k i).step h

theorem State.uncorrectable_only (s : State) (w : MemWord) :
    Only [.out, .free, .regs, .pcie, .log, .logWritten, .trust, .sideband, .ports, .queues, .snapshots, .snapPending, .tables, .dead, .commits, .engineQueues, .marver, .pcs, .integrity, .regulator] s (State.uncorrectable s w) := by
  unfold State.uncorrectable
  (repeat' split) <;> simp

@[simp] theorem State.uncorrectable_step (s : State) (w : MemWord) {ps : List Part} {r₀ : State}
    (h : [.out, .free, .regs, .pcie, .log, .logWritten, .trust, .sideband, .ports, .queues, .snapshots, .snapPending, .tables, .dead, .commits, .engineQueues, .marver, .pcs, .integrity, .regulator] ⊆ ps) :
    Only ps r₀ (State.uncorrectable s w) ↔ Only ps r₀ s :=
  (State.uncorrectable_only s w).step h

theorem State.markBad_only (s : State) (w : MemWord) :
    Only [.integrity] s (State.markBad s w) := by
  unfold State.markBad
  (repeat' split) <;> simp

@[simp] theorem State.markBad_step (s : State) (w : MemWord) {ps : List Part} {r₀ : State}
    (h : [.integrity] ⊆ ps) :
    Only ps r₀ (State.markBad s w) ↔ Only ps r₀ s :=
  (State.markBad_only s w).step h

theorem State.countUe_only (s : State) (w : MemWord) :
    Only [.out, .regs, .pcie, .log, .logWritten, .sideband, .integrity] s (State.countUe s w) := by
  simp [State.countUe]

@[simp] theorem State.countUe_step (s : State) (w : MemWord) {ps : List Part} {r₀ : State}
    (h : [.out, .regs, .pcie, .log, .logWritten, .sideband, .integrity] ⊆ ps) :
    Only ps r₀ (State.countUe s w) ↔ Only ps r₀ s :=
  (State.countUe_only s w).step h

theorem State.countPoison_only (s : State) :
    Only [.regs] s (State.countPoison s) := by
  simp [State.countPoison]

@[simp] theorem State.countPoison_step (s : State) {ps : List Part} {r₀ : State}
    (h : [.regs] ⊆ ps) :
    Only ps r₀ (State.countPoison s) ↔ Only ps r₀ s :=
  (State.countPoison_only s).step h

theorem State.storePoison_only (s : State) (w : MemWord) :
    Only [.integrity] s (State.storePoison s w) := by
  unfold State.storePoison
  (repeat' split) <;> simp

@[simp] theorem State.storePoison_step (s : State) (w : MemWord) {ps : List Part} {r₀ : State}
    (h : [.integrity] ⊆ ps) :
    Only ps r₀ (State.storePoison s w) ↔ Only ps r₀ s :=
  (State.storePoison_only s w).step h

theorem State.poisonWord_only (s : State) (w : MemWord) :
    Only [.out, .regs, .pcie, .log, .logWritten, .sideband, .integrity] s (State.poisonWord s w) := by
  simp [State.poisonWord]

@[simp] theorem State.poisonWord_step (s : State) (w : MemWord) {ps : List Part} {r₀ : State}
    (h : [.out, .regs, .pcie, .log, .logWritten, .sideband, .integrity] ⊆ ps) :
    Only ps r₀ (State.poisonWord s w) ↔ Only ps r₀ s :=
  (State.poisonWord_only s w).step h

theorem State.scrubWord_only (s : State) (x : Found) :
    Only [.out, .free, .regs, .pcie, .log, .logWritten, .trust, .sideband, .ports, .queues, .snapshots, .snapPending, .tables, .dead, .commits, .engineQueues, .marver, .pcs, .integrity, .regulator] s (State.scrubWord s x) := by
  simp only [State.scrubWord]
  (repeat' split) <;> simp

@[simp] theorem State.scrubWord_step (s : State) (x : Found) {ps : List Part} {r₀ : State}
    (h : [.out, .free, .regs, .pcie, .log, .logWritten, .trust, .sideband, .ports, .queues, .snapshots, .snapPending, .tables, .dead, .commits, .engineQueues, .marver, .pcs, .integrity, .regulator] ⊆ ps) :
    Only ps r₀ (State.scrubWord s x) ↔ Only ps r₀ s :=
  (State.scrubWord_only s x).step h

theorem State.noteRow_only (s : State) (n : Nat) :
    Only [.regs, .integrity] s (State.noteRow s n) := by
  simp [State.noteRow]

@[simp] theorem State.noteRow_step (s : State) (n : Nat) {ps : List Part} {r₀ : State}
    (h : [.regs, .integrity] ⊆ ps) :
    Only ps r₀ (State.noteRow s n) ↔ Only ps r₀ s :=
  (State.noteRow_only s n).step h

theorem State.scrubLine_only (s : State) (x : Found) :
    Only [.out, .free, .regs, .pcie, .log, .logWritten, .trust, .sideband, .ports, .queues, .snapshots, .snapPending, .tables, .dead, .commits, .engineQueues, .marver, .pcs, .integrity, .regulator] s (State.scrubLine s x) := by
  simp only [State.scrubLine]
  (repeat' split) <;> simp

@[simp] theorem State.scrubLine_step (s : State) (x : Found) {ps : List Part} {r₀ : State}
    (h : [.out, .free, .regs, .pcie, .log, .logWritten, .trust, .sideband, .ports, .queues, .snapshots, .snapPending, .tables, .dead, .commits, .engineQueues, .marver, .pcs, .integrity, .regulator] ⊆ ps) :
    Only ps r₀ (State.scrubLine s x) ↔ Only ps r₀ s :=
  (State.scrubLine_only s x).step h

end Sys2Proof.Machine
end

