-- ==== Sys2Proof/Laws/FrameRegulator.lean ====
section
/-!
SUPPORT. What the operations of Regulator.lean leave unchanged: one lemma for each.
-/
namespace Sys2Proof.Machine

theorem State.setK_only (s : State) (k : Nat) (g : Nat) :
    Only [.out, .regs, .pcie, .log, .logWritten, .lines, .pulses, .sideband] s (State.setK s k g) := by
  simp [State.setK]

@[simp] theorem State.setK_step (s : State) (k : Nat) (g : Nat) {ps : List Part} {r₀ : State}
    (h : [.out, .regs, .pcie, .log, .logWritten, .lines, .pulses, .sideband] ⊆ ps) :
    Only ps r₀ (State.setK s k g) ↔ Only ps r₀ s :=
  (State.setK_only s k g).step h

theorem State.closeWindow_only (s : State) :
    Only [.regs, .pcs, .regulator] s (State.closeWindow s) := by
  simp [State.closeWindow]

@[simp] theorem State.closeWindow_step (s : State) {ps : List Part} {r₀ : State}
    (h : [.regs, .pcs, .regulator] ⊆ ps) :
    Only ps r₀ (State.closeWindow s) ↔ Only ps r₀ s :=
  (State.closeWindow_only s).step h

theorem State.takeSet_only (s : State) :
    Only [.out, .regs, .pcie, .log, .logWritten, .lines, .pulses, .sideband, .regulator] s (State.takeSet s) := by
  simp [State.takeSet]

@[simp] theorem State.takeSet_step (s : State) {ps : List Part} {r₀ : State}
    (h : [.out, .regs, .pcie, .log, .logWritten, .lines, .pulses, .sideband, .regulator] ⊆ ps) :
    Only ps r₀ (State.takeSet s) ↔ Only ps r₀ s :=
  (State.takeSet_only s).step h

theorem State.setBudgets_only (s : State) (e : Sqe) (b : List Byte) :
    Only [.out, .heldOut, .regs, .pcie, .log, .logWritten, .rings, .lines, .pulses, .sideband, .regulator] s (State.setBudgets s e b) := by
  simp only [State.setBudgets]
  (repeat' split) <;> simp

@[simp] theorem State.setBudgets_step (s : State) (e : Sqe) (b : List Byte) {ps : List Part} {r₀ : State}
    (h : [.out, .heldOut, .regs, .pcie, .log, .logWritten, .rings, .lines, .pulses, .sideband, .regulator] ⊆ ps) :
    Only ps r₀ (State.setBudgets s e b) ↔ Only ps r₀ s :=
  (State.setBudgets_only s e b).step h

theorem State.openWindow_only (s : State) :
    Only [.regs, .regulator] s (State.openWindow s) := by
  simp [State.openWindow]

@[simp] theorem State.openWindow_step (s : State) {ps : List Part} {r₀ : State}
    (h : [.regs, .regulator] ⊆ ps) :
    Only ps r₀ (State.openWindow s) ↔ Only ps r₀ s :=
  (State.openWindow_only s).step h

end Sys2Proof.Machine
end

