-- ==== Sys2Proof/Laws/FramePlacement.lean ====
section
/-!
SUPPORT. What the operations of Placement.lean leave unchanged: one lemma for each.
-/
namespace Sys2Proof.Machine

theorem State.moveNodes_only (s : State) (l : List NodeCount) :
    Only [.regs, .marver] s (State.moveNodes s l) := by
  simp [State.moveNodes]

@[simp] theorem State.moveNodes_step (s : State) (l : List NodeCount) {ps : List Part} {r₀ : State}
    (h : [.regs, .marver] ⊆ ps) :
    Only ps r₀ (State.moveNodes s l) ↔ Only ps r₀ s :=
  (State.moveNodes_only s l).step h

theorem State.applySetting_only (s : State) (a1 : EpochSetting) :
    Only [.regs, .tables] s (State.applySetting s a1) := by
  unfold State.applySetting
  (repeat' split) <;> simp

@[simp] theorem State.applySetting_step (s : State) (a1 : EpochSetting) {ps : List Part} {r₀ : State}
    (h : [.regs, .tables] ⊆ ps) :
    Only ps r₀ (State.applySetting s a1) ↔ Only ps r₀ s :=
  (State.applySetting_only s a1).step h

theorem State.closeEpoch_only (s : State) :
    Only [.tables] s (State.closeEpoch s) := by
  simp [State.closeEpoch]

@[simp] theorem State.closeEpoch_step (s : State) {ps : List Part} {r₀ : State}
    (h : [.tables] ⊆ ps) :
    Only ps r₀ (State.closeEpoch s) ↔ Only ps r₀ s :=
  (State.closeEpoch_only s).step h

theorem State.wantBenches_only (s : State) :
    Only [.dom] s (State.wantBenches s) := by
  simp [State.wantBenches]

@[simp] theorem State.wantBenches_step (s : State) {ps : List Part} {r₀ : State}
    (h : [.dom] ⊆ ps) :
    Only ps r₀ (State.wantBenches s) ↔ Only ps r₀ s :=
  (State.wantBenches_only s).step h

theorem State.beginEpoch_only (s : State) (n : Nat) :
    Only [.time, .marver] s (State.beginEpoch s n) := by
  simp [State.beginEpoch]

@[simp] theorem State.beginEpoch_step (s : State) (n : Nat) {ps : List Part} {r₀ : State}
    (h : [.time, .marver] ⊆ ps) :
    Only ps r₀ (State.beginEpoch s n) ↔ Only ps r₀ s :=
  (State.beginEpoch_only s n).step h

theorem State.noteBenches_only (s : State) :
    Only [.marver] s (State.noteBenches s) := by
  simp [State.noteBenches]

@[simp] theorem State.noteBenches_step (s : State) {ps : List Part} {r₀ : State}
    (h : [.marver] ⊆ ps) :
    Only ps r₀ (State.noteBenches s) ↔ Only ps r₀ s :=
  (State.noteBenches_only s).step h

theorem State.addSetting_only (s : State) (x : EpochSetting) :
    Only [.marver] s (State.addSetting s x) := by
  simp [State.addSetting]

@[simp] theorem State.addSetting_step (s : State) (x : EpochSetting) {ps : List Part} {r₀ : State}
    (h : [.marver] ⊆ ps) :
    Only ps r₀ (State.addSetting s x) ↔ Only ps r₀ s :=
  (State.addSetting_only s x).step h

end Sys2Proof.Machine
end

