-- ==== Sys2Proof/Laws/FrameSelfTest.lean ====
section
/-!
SUPPORT. What the operations of SelfTest.lean leave unchanged: one lemma for each.
-/
namespace Sys2Proof.Machine

theorem State.noteLayers_only (s : State) :
    Only [.tables] s (State.noteLayers s) := by
  simp [State.noteLayers]

@[simp] theorem State.noteLayers_step (s : State) {ps : List Part} {r₀ : State}
    (h : [.tables] ⊆ ps) :
    Only ps r₀ (State.noteLayers s) ↔ Only ps r₀ s :=
  (State.noteLayers_only s).step h

theorem State.cullPc_only (s : State) (n : Nat) :
    Only [.out, .regs, .pcie, .log, .logWritten, .sideband, .tables, .marver, .pcs, .regulator] s (State.cullPc s n) := by
  simp [State.cullPc]

@[simp] theorem State.cullPc_step (s : State) (n : Nat) {ps : List Part} {r₀ : State}
    (h : [.out, .regs, .pcie, .log, .logWritten, .sideband, .tables, .marver, .pcs, .regulator] ⊆ ps) :
    Only ps r₀ (State.cullPc s n) ↔ Only ps r₀ s :=
  (State.cullPc_only s n).step h

theorem State.cullEngine_only (s : State) (n : Nat) :
    Only [.regs, .tables, .engineQueues] s (State.cullEngine s n) := by
  simp [State.cullEngine]

@[simp] theorem State.cullEngine_step (s : State) (n : Nat) {ps : List Part} {r₀ : State}
    (h : [.regs, .tables, .engineQueues] ⊆ ps) :
    Only ps r₀ (State.cullEngine s n) ↔ Only ps r₀ s :=
  (State.cullEngine_only s n).step h

theorem State.cullBench_only (s : State) (b : Nat) :
    Only [.dom, .regs, .tables, .engineQueues] s (State.cullBench s b) := by
  simp [State.cullBench]

@[simp] theorem State.cullBench_step (s : State) (b : Nat) {ps : List Part} {r₀ : State}
    (h : [.dom, .regs, .tables, .engineQueues] ⊆ ps) :
    Only ps r₀ (State.cullBench s b) ↔ Only ps r₀ s :=
  (State.cullBench_only s b).step h

theorem State.cullPort_only (s : State) (p : Nat) :
    Only [.out, .free, .dom, .regs, .ports] s (State.cullPort s p) := by
  simp [State.cullPort]

@[simp] theorem State.cullPort_step (s : State) (p : Nat) {ps : List Part} {r₀ : State}
    (h : [.out, .free, .dom, .regs, .ports] ⊆ ps) :
    Only ps r₀ (State.cullPort s p) ↔ Only ps r₀ s :=
  (State.cullPort_only s p).step h

theorem State.cullMc_only (s : State) (m : Nat) :
    Only [.out, .dom, .regs, .pcie, .log, .logWritten, .sideband, .tables, .marver, .pcs, .regulator] s (State.cullMc s m) := by
  simp [State.cullMc]

@[simp] theorem State.cullMc_step (s : State) (m : Nat) {ps : List Part} {r₀ : State}
    (h : [.out, .dom, .regs, .pcie, .log, .logWritten, .sideband, .tables, .marver, .pcs, .regulator] ⊆ ps) :
    Only ps r₀ (State.cullMc s m) ↔ Only ps r₀ s :=
  (State.cullMc_only s m).step h

theorem State.cullUnit_only (s : State) (k : UnitKind) (u : Nat) :
    Only [.out, .free, .dom, .regs, .pcie, .log, .logWritten, .sideband, .ports, .tables, .engineQueues, .marver, .pcs, .regulator] s (State.cullUnit s k u) := by
  unfold State.cullUnit
  (repeat' split) <;> simp

@[simp] theorem State.cullUnit_step (s : State) (k : UnitKind) (u : Nat) {ps : List Part} {r₀ : State}
    (h : [.out, .free, .dom, .regs, .pcie, .log, .logWritten, .sideband, .ports, .tables, .engineQueues, .marver, .pcs, .regulator] ⊆ ps) :
    Only ps r₀ (State.cullUnit s k u) ↔ Only ps r₀ s :=
  (State.cullUnit_only s k u).step h

theorem State.holdMc_only (s : State) (m : Nat) :
    Only [.out, .free, .regs, .pcie, .log, .logWritten, .test, .sideband, .tables, .marver, .pcs, .stageRows, .mem, .integrity, .regulator] s (State.holdMc s m) := by
  simp [State.holdMc]

@[simp] theorem State.holdMc_step (s : State) (m : Nat) {ps : List Part} {r₀ : State}
    (h : [.out, .free, .regs, .pcie, .log, .logWritten, .test, .sideband, .tables, .marver, .pcs, .stageRows, .mem, .integrity, .regulator] ⊆ ps) :
    Only ps r₀ (State.holdMc s m) ↔ Only ps r₀ s :=
  (State.holdMc_only s m).step h

theorem State.releaseMc_only (s : State) (m : Nat) :
    Only [.regs, .test] s (State.releaseMc s m) := by
  simp [State.releaseMc]

@[simp] theorem State.releaseMc_step (s : State) (m : Nat) {ps : List Part} {r₀ : State}
    (h : [.regs, .test] ⊆ ps) :
    Only ps r₀ (State.releaseMc s m) ↔ Only ps r₀ s :=
  (State.releaseMc_only s m).step h

theorem State.nextTest_only (s : State) (j : BistJob) :
    Only [.out, .free, .regs, .pcie, .log, .logWritten, .test, .sideband, .tables, .marver, .pcs, .stageRows, .mem, .integrity, .regulator] s (State.nextTest s j) := by
  unfold State.nextTest
  (repeat' split) <;> simp

@[simp] theorem State.nextTest_step (s : State) (j : BistJob) {ps : List Part} {r₀ : State}
    (h : [.out, .free, .regs, .pcie, .log, .logWritten, .test, .sideband, .tables, .marver, .pcs, .stageRows, .mem, .integrity, .regulator] ⊆ ps) :
    Only ps r₀ (State.nextTest s j) ↔ Only ps r₀ s :=
  (State.nextTest_only s j).step h

theorem State.syncBist_only (s : State) :
    Only [.regs] s (State.syncBist s) := by
  unfold State.syncBist
  (repeat' split) <;> simp

@[simp] theorem State.syncBist_step (s : State) {ps : List Part} {r₀ : State}
    (h : [.regs] ⊆ ps) :
    Only ps r₀ (State.syncBist s) ↔ Only ps r₀ s :=
  (State.syncBist_only s).step h

theorem State.settleJob_only (s : State) (j : BistJob) :
    Only [.out, .heldOut, .regs, .pcie, .rings, .test] s (State.settleJob s j) := by
  simp [State.settleJob]

@[simp] theorem State.settleJob_step (s : State) (j : BistJob) {ps : List Part} {r₀ : State}
    (h : [.out, .heldOut, .regs, .pcie, .rings, .test] ⊆ ps) :
    Only ps r₀ (State.settleJob s j) ↔ Only ps r₀ s :=
  (State.settleJob_only s j).step h

theorem State.unitPassed_only (s : State) (k : UnitKind) (u : Nat) :
    Only [.test] s (State.unitPassed s k u) := by
  simp [State.unitPassed]

@[simp] theorem State.unitPassed_step (s : State) (k : UnitKind) (u : Nat) {ps : List Part} {r₀ : State}
    (h : [.test] ⊆ ps) :
    Only ps r₀ (State.unitPassed s k u) ↔ Only ps r₀ s :=
  (State.unitPassed_only s k u).step h

theorem State.noteAdded_only (s : State) (kind : Nat) (u : Nat) :
    Only [.out, .regs, .pcie, .log, .logWritten, .sideband] s (State.noteAdded s kind u) := by
  simp [State.noteAdded]

@[simp] theorem State.noteAdded_step (s : State) (kind : Nat) (u : Nat) {ps : List Part} {r₀ : State}
    (h : [.out, .regs, .pcie, .log, .logWritten, .sideband] ⊆ ps) :
    Only ps r₀ (State.noteAdded s kind u) ↔ Only ps r₀ s :=
  (State.noteAdded_only s kind u).step h

theorem State.addUnits_only (s : State) (k : UnitKind) (new : Nat) :
    Only [.out, .free, .dom, .regs, .pcie, .log, .logWritten, .sideband, .ports, .tables, .engineQueues, .marver, .pcs, .regulator] s (State.addUnits s k new) := by
  simp [State.addUnits]

@[simp] theorem State.addUnits_step (s : State) (k : UnitKind) (new : Nat) {ps : List Part} {r₀ : State}
    (h : [.out, .free, .dom, .regs, .pcie, .log, .logWritten, .sideband, .ports, .tables, .engineQueues, .marver, .pcs, .regulator] ⊆ ps) :
    Only ps r₀ (State.addUnits s k new) ↔ Only ps r₀ s :=
  (State.addUnits_only s k new).step h

theorem State.addPending_only (s : State) (pend : Fld) (kind : Nat) (base : Nat) (n : Nat) (new : Nat) :
    Only [.out, .regs, .pcie, .log, .logWritten, .sideband] s (State.addPending s pend kind base n new) := by
  simp [State.addPending]

@[simp] theorem State.addPending_step (s : State) (pend : Fld) (kind : Nat) (base : Nat) (n : Nat) (new : Nat) {ps : List Part} {r₀ : State}
    (h : [.out, .regs, .pcie, .log, .logWritten, .sideband] ⊆ ps) :
    Only ps r₀ (State.addPending s pend kind base n new) ↔ Only ps r₀ s :=
  (State.addPending_only s pend kind base n new).step h

theorem State.addMap_only (s : State) (b : List Byte) :
    Only [.out, .free, .dom, .regs, .pcie, .log, .logWritten, .sideband, .ports, .tables, .engineQueues, .marver, .pcs, .regulator] s (State.addMap s b) := by
  simp [State.addMap]

@[simp] theorem State.addMap_step (s : State) (b : List Byte) {ps : List Part} {r₀ : State}
    (h : [.out, .free, .dom, .regs, .pcie, .log, .logWritten, .sideband, .ports, .tables, .engineQueues, .marver, .pcs, .regulator] ⊆ ps) :
    Only ps r₀ (State.addMap s b) ↔ Only ps r₀ s :=
  (State.addMap_only s b).step h

theorem State.markTsv_only (s : State) (n : Nat) (g : Nat) (pos : Nat) (u₀ : State) (h : State.markTsv s n g pos = some u₀) :
    Only [.out, .regs, .pcie, .log, .logWritten, .test, .sideband] s u₀ := by
  unfold State.markTsv at h
  dsimp only at h
  repeat' split at h
  all_goals first
    | (cases h; simp)
    | cases h

theorem State.markTsvs_only (s : State) (n : Nat) (a2 : List (Nat × Nat)) (u₀ : State) (h : State.markTsvs s n a2 = some u₀) :
    Only [.out, .regs, .pcie, .log, .logWritten, .test, .sideband] s u₀ := by
  induction a2 generalizing s with
  | nil => cases h; simp
  | cons p r ih =>
    obtain ⟨g, p⟩ := p
    unfold State.markTsvs at h
    split at h
    · exact ih s h
    · cases hm : s.markTsv n g p with
      | none => simp [hm] at h
      | some t => exact (State.markTsv_only _ _ _ _ _ hm).trans (ih t (by simpa [hm] using h))

theorem State.cullByCalibration_only (s : State) (n : Nat) :
    Only [.out, .regs, .pcie, .log, .logWritten, .sideband, .tables, .marver, .pcs, .regulator] s (State.cullByCalibration s n) := by
  simp [State.cullByCalibration]

@[simp] theorem State.cullByCalibration_step (s : State) (n : Nat) {ps : List Part} {r₀ : State}
    (h : [.out, .regs, .pcie, .log, .logWritten, .sideband, .tables, .marver, .pcs, .regulator] ⊆ ps) :
    Only ps r₀ (State.cullByCalibration s n) ↔ Only ps r₀ s :=
  (State.cullByCalibration_only s n).step h

theorem State.setDelay_only (s : State) (n : Nat) (off : Nat) (v : Nat) :
    Only [.regs] s (State.setDelay s n off v) := by
  unfold State.setDelay
  (repeat' split) <;> simp

@[simp] theorem State.setDelay_step (s : State) (n : Nat) (off : Nat) (v : Nat) {ps : List Part} {r₀ : State}
    (h : [.regs] ⊆ ps) :
    Only ps r₀ (State.setDelay s n off v) ↔ Only ps r₀ s :=
  (State.setDelay_only s n off v).step h

theorem State.setDelays_only (s : State) (n : Nat) (l : List (Nat × Nat)) :
    Only [.regs] s (State.setDelays s n l) := by
  simp [State.setDelays]

@[simp] theorem State.setDelays_step (s : State) (n : Nat) (l : List (Nat × Nat)) {ps : List Part} {r₀ : State}
    (h : [.regs] ⊆ ps) :
    Only ps r₀ (State.setDelays s n l) ↔ Only ps r₀ s :=
  (State.setDelays_only s n l).step h

theorem State.beginHold_only (s : State) (n : Nat) :
    Only [.regs, .test, .pcs] s (State.beginHold s n) := by
  simp [State.beginHold]

@[simp] theorem State.beginHold_step (s : State) (n : Nat) {ps : List Part} {r₀ : State}
    (h : [.regs, .test, .pcs] ⊆ ps) :
    Only ps r₀ (State.beginHold s n) ↔ Only ps r₀ s :=
  (State.beginHold_only s n).step h

theorem State.restoreRecord_only (s : State) (n : Nat) (r : List Byte) :
    Only [.out, .regs, .pcie, .log, .logWritten, .test, .sideband, .tables, .marver, .pcs, .regulator] s (State.restoreRecord s n r).1 := by
  unfold State.restoreRecord
  split
  · simp
  · split
    · simp
    · next h =>
      simp
      exact (State.markTsvs_only _ _ _ _ h).mono (by decide)

@[simp] theorem State.restoreRecord_step (s : State) (n : Nat) (r : List Byte) {ps : List Part} {r₀ : State}
    (h : [.out, .regs, .pcie, .log, .logWritten, .test, .sideband, .tables, .marver, .pcs, .regulator] ⊆ ps) :
    Only ps r₀ (State.restoreRecord s n r).1 ↔ Only ps r₀ s :=
  (State.restoreRecord_only s n r).step h

theorem State.restoreAll_only (s : State) (b : List Byte) :
    Only [.out, .regs, .pcie, .log, .logWritten, .test, .sideband, .tables, .marver, .pcs, .regulator] s (State.restoreAll s b).1 := by
  unfold State.restoreAll
  have H : ∀ (l : List Nat) (x : State × Nat),
      Only [.out, .regs, .pcie, .log, .logWritten, .test, .sideband, .tables, .marver, .pcs, .regulator] s x.1 →
      Only [.out, .regs, .pcie, .log, .logWritten, .test, .sideband, .tables, .marver, .pcs, .regulator] s
        (l.foldl (fun x n =>
          if bitOf (bufNat b 24 8) n then
            let y := x.1.restoreRecord n ((b.drop (32 + 32 * n)).take 32)
            (y.1, if y.2 then x.2 + 2 ^ n else x.2)
          else x) x).1 := by
    intro l
    induction l with
    | nil => exact fun x h => h
    | cons a r ih =>
      intro x h
      refine ih _ ?_
      simp only []
      by_cases hc : bitOf (bufNat b 24 8) a = true
      · rw [if_pos hc]
        exact h.trans (State.restoreRecord_only _ _ _)
      · rw [if_neg hc]
        exact h
  exact H _ _ (Only.refl _ _)

@[simp] theorem State.restoreAll_step (s : State) (b : List Byte) {ps : List Part} {r₀ : State}
    (h : [.out, .regs, .pcie, .log, .logWritten, .test, .sideband, .tables, .marver, .pcs, .regulator] ⊆ ps) :
    Only ps r₀ (State.restoreAll s b).1 ↔ Only ps r₀ s :=
  (State.restoreAll_only s b).step h

end Sys2Proof.Machine
end

