-- ==== Sys2Proof/Laws/FrameSideband.lean ====
section
/-!
SUPPORT. What the operations of Sideband.lean leave unchanged: one lemma for each.
-/
namespace Sys2Proof.Machine

theorem State.sbRefuse_only (s : State) :
    Only [.out, .regs] s (State.sbRefuse s) := by
  simp [State.sbRefuse]

@[simp] theorem State.sbRefuse_step (s : State) {ps : List Part} {r₀ : State}
    (h : [.out, .regs] ⊆ ps) :
    Only ps r₀ (State.sbRefuse s) ↔ Only ps r₀ s :=
  (State.sbRefuse_only s).step h

theorem State.sbRead_only (s : State) (code : Nat) (b : List Byte) :
    Only [.out] s (State.sbRead s code b) := by
  simp [State.sbRead]

@[simp] theorem State.sbRead_step (s : State) (code : Nat) (b : List Byte) {ps : List Part} {r₀ : State}
    (h : [.out] ⊆ ps) :
    Only ps r₀ (State.sbRead s code b) ↔ Only ps r₀ s :=
  (State.sbRead_only s code b).step h

theorem State.sbBlock_only (s : State) (code : Nat) (b : List Byte) :
    Only [.out] s (State.sbBlock s code b) := by
  simp [State.sbBlock]

@[simp] theorem State.sbBlock_step (s : State) (code : Nat) (b : List Byte) {ps : List Part} {r₀ : State}
    (h : [.out] ⊆ ps) :
    Only ps r₀ (State.sbBlock s code b) ↔ Only ps r₀ s :=
  (State.sbBlock_only s code b).step h

theorem State.sbDiscard_only (s : State) (code : Nat) (w : SbWrite) (n : Nat) :
    Only [.out, .regs] s (State.sbDiscard s code w n) := by
  simp [State.sbDiscard]

@[simp] theorem State.sbDiscard_step (s : State) (code : Nat) (w : SbWrite) (n : Nat) {ps : List Part} {r₀ : State}
    (h : [.out, .regs] ⊆ ps) :
    Only ps r₀ (State.sbDiscard s code w n) ↔ Only ps r₀ s :=
  (State.sbDiscard_only s code w n).step h

theorem State.arbLost_only (s : State) :
    Only [.regs] s (State.arbLost s) := by
  simp [State.arbLost]

@[simp] theorem State.arbLost_step (s : State) {ps : List Part} {r₀ : State}
    (h : [.regs] ⊆ ps) :
    Only ps r₀ (State.arbLost s) ↔ Only ps r₀ s :=
  (State.arbLost_only s).step h

theorem State.notifyFailed_only (s : State) :
    Only [.regs, .sideband] s (State.notifyFailed s) := by
  simp [State.notifyFailed]

@[simp] theorem State.notifyFailed_step (s : State) {ps : List Part} {r₀ : State}
    (h : [.regs, .sideband] ⊆ ps) :
    Only ps r₀ (State.notifyFailed s) ↔ Only ps r₀ s :=
  (State.notifyFailed_only s).step h

theorem State.sendNotify_only (s : State) (r : BusResult) :
    Only [.out, .regs, .sideband] s (State.sendNotify s r) := by
  unfold State.sendNotify
  (repeat' split) <;> simp

@[simp] theorem State.sendNotify_step (s : State) (r : BusResult) {ps : List Part} {r₀ : State}
    (h : [.out, .regs, .sideband] ⊆ ps) :
    Only ps r₀ (State.sendNotify s r) ↔ Only ps r₀ s :=
  (State.sendNotify_only s r).step h

theorem State.eepromFail_only (s : State) (code : Nat) :
    Only [.out, .regs, .pcie, .log, .logWritten, .sideband] s (State.eepromFail s code) := by
  simp [State.eepromFail]

@[simp] theorem State.eepromFail_step (s : State) (code : Nat) {ps : List Part} {r₀ : State}
    (h : [.out, .regs, .pcie, .log, .logWritten, .sideband] ⊆ ps) :
    Only ps r₀ (State.eepromFail s code) ↔ Only ps r₀ s :=
  (State.eepromFail_only s code).step h

theorem State.startEeprom_only (s : State) (r : BusResult) :
    Only [.out, .regs, .pcie, .log, .logWritten, .sideband] s (State.startEeprom s r) := by
  unfold State.startEeprom
  (repeat' split) <;> simp

@[simp] theorem State.startEeprom_step (s : State) (r : BusResult) {ps : List Part} {r₀ : State}
    (h : [.out, .regs, .pcie, .log, .logWritten, .sideband] ⊆ ps) :
    Only ps r₀ (State.startEeprom s r) ↔ Only ps r₀ s :=
  (State.startEeprom_only s r).step h

end Sys2Proof.Machine
end

