-- ==== Sys2Proof/Laws/FrameReset.lean ====
section
/-!
SUPPORT. What the operations of Reset.lean leave unchanged: one lemma for each.
-/
namespace Sys2Proof.Machine

theorem State.freeQueues_only (s : State) :
    Only [.regs, .marver] s (State.freeQueues s) := by
  simp [State.freeQueues]

@[simp] theorem State.freeQueues_step (s : State) {ps : List Part} {r₀ : State}
    (h : [.regs, .marver] ⊆ ps) :
    Only ps r₀ (State.freeQueues s) ↔ Only ps r₀ s :=
  (State.freeQueues_only s).step h

theorem State.wipe_only (s : State) (kind : ResetKind) (internal : Bool) (held : Bool) :
    Only [.heldOut, .time, .pilot, .dom, .regs, .latches, .pcie, .rings, .resetting, .quiesce, .lines, .pulses, .channels, .trust, .sensors, .layers, .thermal, .test, .sideband, .ports, .lanes, .queues, .queueChanges, .snapshots, .snapPending, .tables, .dead, .commits, .commitLog, .recovered, .cancelled, .recoveredCommits, .latency, .engineQueues, .marver, .pcs, .stageRows, .windows, .mem, .integrity, .regulator] s (State.wipe s kind internal held) := by
  intro p hp
  cases p <;> first
    | rfl
    | exact absurd (by decide) hp

@[simp] theorem State.wipe_step (s : State) (kind : ResetKind) (internal : Bool) (held : Bool) {ps : List Part} {r₀ : State}
    (h : [.heldOut, .time, .pilot, .dom, .regs, .latches, .pcie, .rings, .resetting, .quiesce, .lines, .pulses, .channels, .trust, .sensors, .layers, .thermal, .test, .sideband, .ports, .lanes, .queues, .queueChanges, .snapshots, .snapPending, .tables, .dead, .commits, .commitLog, .recovered, .cancelled, .recoveredCommits, .latency, .engineQueues, .marver, .pcs, .stageRows, .windows, .mem, .integrity, .regulator] ⊆ ps) :
    Only ps r₀ (State.wipe s kind internal held) ↔ Only ps r₀ s :=
  (State.wipe_only s kind internal held).step h

theorem State.cullAtReset_only (s : State) (mask : Nat) :
    Only [.pilot, .regs] s (State.cullAtReset s mask) := by
  simp [State.cullAtReset]

@[simp] theorem State.cullAtReset_step (s : State) (mask : Nat) {ps : List Part} {r₀ : State}
    (h : [.pilot, .regs] ⊆ ps) :
    Only ps r₀ (State.cullAtReset s mask) ↔ Only ps r₀ s :=
  (State.cullAtReset_only s mask).step h

theorem State.enterPending_only (s : State) :
    Only [.pilot, .regs] s (State.enterPending s) := by
  simp [State.enterPending]

@[simp] theorem State.enterPending_step (s : State) {ps : List Part} {r₀ : State}
    (h : [.pilot, .regs] ⊆ ps) :
    Only ps r₀ (State.enterPending s) ↔ Only ps r₀ s :=
  (State.enterPending_only s).step h

theorem State.resetPorts_only (s : State) (kind : ResetKind) :
    Only [.out, .regs, .ports] s (State.resetPorts s kind) := by
  simp [State.resetPorts]

@[simp] theorem State.resetPorts_step (s : State) (kind : ResetKind) {ps : List Part} {r₀ : State}
    (h : [.out, .regs, .ports] ⊆ ps) :
    Only ps r₀ (State.resetPorts s kind) ↔ Only ps r₀ s :=
  (State.resetPorts_only s kind).step h

theorem State.fullReset_only (s : State) (kind : ResetKind) (cause : Nat) (internal : Bool) (qInc : Bool) (lost : Bool) :
    Only [.out, .heldOut, .free, .time, .pilot, .dom, .regs, .latches, .pcie, .rings, .resetting, .quiesce, .lines, .pulses, .channels, .fuses, .trust, .sensors, .layers, .thermal, .test, .sideband, .ports, .lanes, .queues, .queueChanges, .snapshots, .snapPending, .tables, .dead, .commits, .commitLog, .recovered, .cancelled, .recoveredCommits, .latency, .engineQueues, .marver, .pcs, .stageRows, .windows, .mem, .integrity, .regulator] s (State.fullReset s kind cause internal qInc lost) := by
  simp [State.fullReset]

@[simp] theorem State.fullReset_step (s : State) (kind : ResetKind) (cause : Nat) (internal : Bool) (qInc : Bool) (lost : Bool) {ps : List Part} {r₀ : State}
    (h : [.out, .heldOut, .free, .time, .pilot, .dom, .regs, .latches, .pcie, .rings, .resetting, .quiesce, .lines, .pulses, .channels, .fuses, .trust, .sensors, .layers, .thermal, .test, .sideband, .ports, .lanes, .queues, .queueChanges, .snapshots, .snapPending, .tables, .dead, .commits, .commitLog, .recovered, .cancelled, .recoveredCommits, .latency, .engineQueues, .marver, .pcs, .stageRows, .windows, .mem, .integrity, .regulator] ⊆ ps) :
    Only ps r₀ (State.fullReset s kind cause internal qInc lost) ↔ Only ps r₀ s :=
  (State.fullReset_only s kind cause internal qInc lost).step h

theorem State.powerLost_only (s : State) (phase : BootPhase) :
    Only [.heldOut, .free, .time, .pilot, .dom, .regs, .latches, .pcie, .log, .logWritten, .rings, .resetting, .quiesce, .lines, .pulses, .channels, .fuses, .trust, .sensors, .layers, .thermal, .test, .sideband, .ports, .lanes, .queues, .queueChanges, .snapshots, .snapPending, .tables, .dead, .commits, .commitLog, .recovered, .cancelled, .recoveredCommits, .latency, .engineQueues, .marver, .pcs, .stageRows, .windows, .mem, .placed, .integrity, .regulator] s (State.powerLost s phase) := by
  have h := State.stopPulse_only s
  intro p hp
  cases p <;> first
    | exact h.eq_pending (by decide)
    | exact h.eq_out (by decide)
    | exact absurd (by decide) hp

@[simp] theorem State.powerLost_step (s : State) (phase : BootPhase) {ps : List Part} {r₀ : State}
    (h : [.heldOut, .free, .time, .pilot, .dom, .regs, .latches, .pcie, .log, .logWritten, .rings, .resetting, .quiesce, .lines, .pulses, .channels, .fuses, .trust, .sensors, .layers, .thermal, .test, .sideband, .ports, .lanes, .queues, .queueChanges, .snapshots, .snapPending, .tables, .dead, .commits, .commitLog, .recovered, .cancelled, .recoveredCommits, .latency, .engineQueues, .marver, .pcs, .stageRows, .windows, .mem, .placed, .integrity, .regulator] ⊆ ps) :
    Only ps r₀ (State.powerLost s phase) ↔ Only ps r₀ s :=
  (State.powerLost_only s phase).step h

theorem State.setPin_only (s : State) (pin : ResetPin) (high : Bool) :
    Only [.pilot] s (State.setPin s pin high) := by
  unfold State.setPin
  (repeat' split) <;> simp

@[simp] theorem State.setPin_step (s : State) (pin : ResetPin) (high : Bool) {ps : List Part} {r₀ : State}
    (h : [.pilot] ⊆ ps) :
    Only ps r₀ (State.setPin s pin high) ↔ Only ps r₀ s :=
  (State.setPin_only s pin high).step h

end Sys2Proof.Machine
end

