-- ==== Sys2Proof/Laws/FrameBoot.lean ====
section
/-!
SUPPORT. What the operations of Boot.lean leave unchanged: one lemma for each.
-/
namespace Sys2Proof.Machine

theorem State.trimSensors_only (s : State) :
    Only [.sensors] s (State.trimSensors s) := by
  simp [State.trimSensors]

@[simp] theorem State.trimSensors_step (s : State) {ps : List Part} {r₀ : State}
    (h : [.sensors] ⊆ ps) :
    Only ps r₀ (State.trimSensors s) ↔ Only ps r₀ s :=
  (State.trimSensors_only s).step h

theorem State.senseStep_only (s : State) :
    Only [.regs, .trust, .sensors] s (State.senseStep s) := by
  simp [State.senseStep]

@[simp] theorem State.senseStep_step (s : State) {ps : List Part} {r₀ : State}
    (h : [.regs, .trust, .sensors] ⊆ ps) :
    Only ps r₀ (State.senseStep s) ↔ Only ps r₀ s :=
  (State.senseStep_only s).step h

theorem State.anvilStep_only (s : State) (b : BootInput) :
    Only [.out, .pilot, .regs, .pcie, .log, .logWritten, .trust, .sideband] s (State.anvilStep s b) := by
  simp [State.anvilStep]

@[simp] theorem State.anvilStep_step (s : State) (b : BootInput) {ps : List Part} {r₀ : State}
    (h : [.out, .pilot, .regs, .pcie, .log, .logWritten, .trust, .sideband] ⊆ ps) :
    Only ps r₀ (State.anvilStep s b) ↔ Only ps r₀ s :=
  (State.anvilStep_only s b).step h

theorem State.discoveryEnds_only (s : State) (k : Nat) :
    Only [.out, .pilot, .regs, .pcie, .log, .logWritten, .sideband] s (State.discoveryEnds s k) := by
  simp [State.discoveryEnds]

@[simp] theorem State.discoveryEnds_step (s : State) (k : Nat) {ps : List Part} {r₀ : State}
    (h : [.out, .pilot, .regs, .pcie, .log, .logWritten, .sideband] ⊆ ps) :
    Only ps r₀ (State.discoveryEnds s k) ↔ Only ps r₀ s :=
  (State.discoveryEnds_only s k).step h

theorem State.discover_only (s : State) (b : BootInput) :
    Only [.out, .pilot, .regs, .pcie, .log, .logWritten, .sideband] s (State.discover s b) := by
  simp [State.discover]

@[simp] theorem State.discover_step (s : State) (b : BootInput) {ps : List Part} {r₀ : State}
    (h : [.out, .pilot, .regs, .pcie, .log, .logWritten, .sideband] ⊆ ps) :
    Only ps r₀ (State.discover s b) ↔ Only ps r₀ s :=
  (State.discover_only s b).step h

theorem State.loadDelays_only (s : State) :
    Only [.regs, .test] s (State.loadDelays s) := by
  simp [State.loadDelays]

@[simp] theorem State.loadDelays_step (s : State) {ps : List Part} {r₀ : State}
    (h : [.regs, .test] ⊆ ps) :
    Only ps r₀ (State.loadDelays s) ↔ Only ps r₀ s :=
  (State.loadDelays_only s).step h

theorem State.loseTables_only (s : State) :
    Only [.regs, .tables, .commits, .recovered, .marver] s (State.loseTables s) := by
  simp [State.loseTables]

@[simp] theorem State.loseTables_step (s : State) {ps : List Part} {r₀ : State}
    (h : [.regs, .tables, .commits, .recovered, .marver] ⊆ ps) :
    Only ps r₀ (State.loseTables s) ↔ Only ps r₀ s :=
  (State.loseTables_only s).step h

theorem State.reportLost_only (s : State) :
    Only [.regs] s (State.reportLost s) := by
  simp [State.reportLost]

@[simp] theorem State.reportLost_step (s : State) {ps : List Part} {r₀ : State}
    (h : [.regs] ⊆ ps) :
    Only ps r₀ (State.reportLost s) ↔ Only ps r₀ s :=
  (State.reportLost_only s).step h

theorem State.pcsRun_only (s : State) :
    Only [.regs] s (State.pcsRun s) := by
  simp [State.pcsRun]

@[simp] theorem State.pcsRun_step (s : State) {ps : List Part} {r₀ : State}
    (h : [.regs] ⊆ ps) :
    Only ps r₀ (State.pcsRun s) ↔ Only ps r₀ s :=
  (State.pcsRun_only s).step h

theorem State.fillDone_only (s : State) :
    Only [.free, .regs] s (State.fillDone s) := by
  simp [State.fillDone]

@[simp] theorem State.fillDone_step (s : State) {ps : List Part} {r₀ : State}
    (h : [.free, .regs] ⊆ ps) :
    Only ps r₀ (State.fillDone s) ↔ Only ps r₀ s :=
  (State.fillDone_only s).step h

theorem State.cullInFill_only (s : State) (bad : Nat) :
    Only [.out, .pilot, .regs, .pcie, .log, .logWritten, .sideband] s (State.cullInFill s bad) := by
  simp [State.cullInFill]

@[simp] theorem State.cullInFill_step (s : State) (bad : Nat) {ps : List Part} {r₀ : State}
    (h : [.out, .pilot, .regs, .pcie, .log, .logWritten, .sideband] ⊆ ps) :
    Only ps r₀ (State.cullInFill s bad) ↔ Only ps r₀ s :=
  (State.cullInFill_only s bad).step h

theorem State.divide_only (s : State) :
    Only [.regs, .regulator] s (State.divide s) := by
  simp [State.divide]

@[simp] theorem State.divide_step (s : State) {ps : List Part} {r₀ : State}
    (h : [.regs, .regulator] ⊆ ps) :
    Only ps r₀ (State.divide s) ↔ Only ps r₀ s :=
  (State.divide_only s).step h

theorem State.releaseStack_only (s : State) :
    Only [.pilot, .regs] s (State.releaseStack s) := by
  simp [State.releaseStack]

@[simp] theorem State.releaseStack_step (s : State) {ps : List Part} {r₀ : State}
    (h : [.pilot, .regs] ⊆ ps) :
    Only ps r₀ (State.releaseStack s) ↔ Only ps r₀ s :=
  (State.releaseStack_only s).step h

theorem State.countFill_only (s : State) :
    Only [.regs] s (State.countFill s) := by
  simp [State.countFill]

@[simp] theorem State.countFill_step (s : State) {ps : List Part} {r₀ : State}
    (h : [.regs] ⊆ ps) :
    Only ps r₀ (State.countFill s) ↔ Only ps r₀ s :=
  (State.countFill_only s).step h

theorem State.coldFill_only (s : State) (bad : Nat) :
    Only [.out, .free, .pilot, .regs, .pcie, .log, .logWritten, .trust, .sideband, .tables, .commits, .commitLog, .recovered, .marver, .mem, .placed, .integrity, .regulator] s (State.coldFill s bad) := by
  simp [State.coldFill]

@[simp] theorem State.coldFill_step (s : State) (bad : Nat) {ps : List Part} {r₀ : State}
    (h : [.out, .free, .pilot, .regs, .pcie, .log, .logWritten, .trust, .sideband, .tables, .commits, .commitLog, .recovered, .marver, .mem, .placed, .integrity, .regulator] ⊆ ps) :
    Only ps r₀ (State.coldFill s bad) ↔ Only ps r₀ s :=
  (State.coldFill_only s bad).step h

theorem State.heldFill_only (s : State) :
    Only [.free, .regs, .marver, .regulator] s (State.heldFill s) := by
  simp [State.heldFill]

@[simp] theorem State.heldFill_step (s : State) {ps : List Part} {r₀ : State}
    (h : [.free, .regs, .marver, .regulator] ⊆ ps) :
    Only ps r₀ (State.heldFill s) ↔ Only ps r₀ s :=
  (State.heldFill_only s).step h

theorem State.bistKind_only (s : State) (k : UnitKind) (bad : Nat) :
    Only [.out, .free, .dom, .regs, .pcie, .log, .logWritten, .sideband, .ports, .tables, .engineQueues, .marver, .pcs, .regulator] s (State.bistKind s k bad) := by
  simp [State.bistKind]

@[simp] theorem State.bistKind_step (s : State) (k : UnitKind) (bad : Nat) {ps : List Part} {r₀ : State}
    (h : [.out, .free, .dom, .regs, .pcie, .log, .logWritten, .sideband, .ports, .tables, .engineQueues, .marver, .pcs, .regulator] ⊆ ps) :
    Only ps r₀ (State.bistKind s k bad) ↔ Only ps r₀ s :=
  (State.bistKind_only s k bad).step h

theorem State.powerOnBist_only (s : State) (b : BootInput) :
    Only [.out, .free, .dom, .regs, .pcie, .log, .logWritten, .sideband, .ports, .tables, .engineQueues, .marver, .pcs, .regulator] s (State.powerOnBist s b) := by
  simp [State.powerOnBist]

@[simp] theorem State.powerOnBist_step (s : State) (b : BootInput) {ps : List Part} {r₀ : State}
    (h : [.out, .free, .dom, .regs, .pcie, .log, .logWritten, .sideband, .ports, .tables, .engineQueues, .marver, .pcs, .regulator] ⊆ ps) :
    Only ps r₀ (State.powerOnBist s b) ↔ Only ps r₀ s :=
  (State.powerOnBist_only s b).step h

theorem State.takeHolds_only (s : State) :
    Only [.out, .regs, .thermal, .ports] s (State.takeHolds s) := by
  simp [State.takeHolds]

@[simp] theorem State.takeHolds_step (s : State) {ps : List Part} {r₀ : State}
    (h : [.out, .regs, .thermal, .ports] ⊆ ps) :
    Only ps r₀ (State.takeHolds s) ↔ Only ps r₀ s :=
  (State.takeHolds_only s).step h

theorem State.reachReady_only (s : State) :
    Only [.out, .free, .pilot, .regs, .pcie, .thermal, .ports, .marver, .regulator] s (State.reachReady s) := by
  simp [State.reachReady]

@[simp] theorem State.reachReady_step (s : State) {ps : List Part} {r₀ : State}
    (h : [.out, .free, .pilot, .regs, .pcie, .thermal, .ports, .marver, .regulator] ⊆ ps) :
    Only ps r₀ (State.reachReady s) ↔ Only ps r₀ s :=
  (State.reachReady_only s).step h

theorem State.toStep_only (s : State) (n : Nat) :
    Only [.pilot, .regs] s (State.toStep s n) := by
  simp [State.toStep]

@[simp] theorem State.toStep_step (s : State) (n : Nat) {ps : List Part} {r₀ : State}
    (h : [.pilot, .regs] ⊆ ps) :
    Only ps r₀ (State.toStep s n) ↔ Only ps r₀ s :=
  (State.toStep_only s n).step h

theorem State.fillStep_only (s : State) (held : Bool) (b : BootInput) :
    Only [.out, .free, .pilot, .regs, .pcie, .log, .logWritten, .trust, .sideband, .tables, .commits, .commitLog, .recovered, .marver, .mem, .placed, .integrity, .regulator] s (State.fillStep s held b) := by
  simp [State.fillStep]

@[simp] theorem State.fillStep_step (s : State) (held : Bool) (b : BootInput) {ps : List Part} {r₀ : State}
    (h : [.out, .free, .pilot, .regs, .pcie, .log, .logWritten, .trust, .sideband, .tables, .commits, .commitLog, .recovered, .marver, .mem, .placed, .integrity, .regulator] ⊆ ps) :
    Only ps r₀ (State.fillStep s held b) ↔ Only ps r₀ s :=
  (State.fillStep_only s held b).step h

theorem State.bootStep_only (s : State) (held : Bool) (b : BootInput) :
    Only [.out, .free, .pilot, .dom, .regs, .pcie, .log, .logWritten, .trust, .sensors, .thermal, .test, .sideband, .ports, .tables, .commits, .commitLog, .recovered, .engineQueues, .marver, .pcs, .mem, .placed, .integrity, .regulator] s (State.bootStep s held b) := by
  unfold State.bootStep
  (repeat' split) <;> simp

@[simp] theorem State.bootStep_step (s : State) (held : Bool) (b : BootInput) {ps : List Part} {r₀ : State}
    (h : [.out, .free, .pilot, .dom, .regs, .pcie, .log, .logWritten, .trust, .sensors, .thermal, .test, .sideband, .ports, .tables, .commits, .commitLog, .recovered, .engineQueues, .marver, .pcs, .mem, .placed, .integrity, .regulator] ⊆ ps) :
    Only ps r₀ (State.bootStep s held b) ↔ Only ps r₀ s :=
  (State.bootStep_only s held b).step h

theorem State.startUp_only (s : State) (held : Bool) (b : BootInput) :
    Only [.out, .free, .pilot, .dom, .regs, .pcie, .log, .logWritten, .trust, .sensors, .thermal, .test, .sideband, .ports, .tables, .commits, .commitLog, .recovered, .engineQueues, .marver, .pcs, .mem, .placed, .integrity, .regulator] s (State.startUp s held b) := by
  simp [State.startUp]

@[simp] theorem State.startUp_step (s : State) (held : Bool) (b : BootInput) {ps : List Part} {r₀ : State}
    (h : [.out, .free, .pilot, .dom, .regs, .pcie, .log, .logWritten, .trust, .sensors, .thermal, .test, .sideband, .ports, .tables, .commits, .commitLog, .recovered, .engineQueues, .marver, .pcs, .mem, .placed, .integrity, .regulator] ⊆ ps) :
    Only ps r₀ (State.startUp s held b) ↔ Only ps r₀ s :=
  (State.startUp_only s held b).step h

end Sys2Proof.Machine
end

