-- ==== Sys2Proof/Laws/FrameFirmware.lean ====
section
/-!
SUPPORT. What the operations of Firmware.lean leave unchanged: one lemma for each.
-/
namespace Sys2Proof.Machine

theorem State.discardTable_only (s : State) (n : Nat) (code : Nat) (t : Table) :
    Only [.regs, .tables, .recovered] s (State.discardTable s n code t) := by
  simp [State.discardTable]

@[simp] theorem State.discardTable_step (s : State) (n : Nat) (code : Nat) (t : Table) {ps : List Part} {r₀ : State}
    (h : [.regs, .tables, .recovered] ⊆ ps) :
    Only ps r₀ (State.discardTable s n code t) ↔ Only ps r₀ s :=
  (State.discardTable_only s n code t).step h

theorem State.keepTable_only (s : State) (n : Nat) (code : Nat) (t : Table) :
    Only [.tables, .recovered] s (State.keepTable s n code t) := by
  simp [State.keepTable]

@[simp] theorem State.keepTable_step (s : State) (n : Nat) (code : Nat) (t : Table) {ps : List Part} {r₀ : State}
    (h : [.tables, .recovered] ⊆ ps) :
    Only ps r₀ (State.keepTable s n code t) ↔ Only ps r₀ s :=
  (State.keepTable_only s n code t).step h

theorem State.decideTable_only (s : State) (n : Nat) (t : Table) :
    Only [.regs, .tables, .recovered] s (State.decideTable s n t) := by
  simp [State.decideTable]

@[simp] theorem State.decideTable_step (s : State) (n : Nat) (t : Table) {ps : List Part} {r₀ : State}
    (h : [.regs, .tables, .recovered] ⊆ ps) :
    Only ps r₀ (State.decideTable s n t) ↔ Only ps r₀ s :=
  (State.decideTable_only s n t).step h

theorem State.logLost_only (s : State) (c : Commit) :
    Only [.commitLog] s (State.logLost s c) := by
  unfold State.logLost
  (repeat' split) <;> simp

@[simp] theorem State.logLost_step (s : State) (c : Commit) {ps : List Part} {r₀ : State}
    (h : [.commitLog] ⊆ ps) :
    Only ps r₀ (State.logLost s c) ↔ Only ps r₀ s :=
  (State.logLost_only s c).step h

theorem State.decideTables_only (s : State) :
    Only [.pilot, .regs, .tables, .commits, .commitLog, .recovered, .marver] s (State.decideTables s) := by
  simp [State.decideTables]

@[simp] theorem State.decideTables_step (s : State) {ps : List Part} {r₀ : State}
    (h : [.pilot, .regs, .tables, .commits, .commitLog, .recovered, .marver] ⊆ ps) :
    Only ps r₀ (State.decideTables s) ↔ Only ps r₀ s :=
  (State.decideTables_only s).step h

theorem State.serviceStart_only (s : State) (slot : Nat) (i : FwImage) :
    Only [.out, .pilot, .regs, .trust, .ports, .lanes, .tables, .commits, .commitLog, .recovered, .marver] s (State.serviceStart s slot i) := by
  simp [State.serviceStart]

@[simp] theorem State.serviceStart_step (s : State) (slot : Nat) (i : FwImage) {ps : List Part} {r₀ : State}
    (h : [.out, .pilot, .regs, .trust, .ports, .lanes, .tables, .commits, .commitLog, .recovered, .marver] ⊆ ps) :
    Only ps r₀ (State.serviceStart s slot i) ↔ Only ps r₀ s :=
  (State.serviceStart_only s slot i).step h

theorem State.resetDelay_only (s : State) :
    Only [.free] s (State.resetDelay s).2 := by
  simp [State.resetDelay]

@[simp] theorem State.resetDelay_step (s : State) {ps : List Part} {r₀ : State}
    (h : [.free] ⊆ ps) :
    Only ps r₀ (State.resetDelay s).2 ↔ Only ps r₀ s :=
  (State.resetDelay_only s).step h

theorem State.answerReset_only (s : State) (ring : Nat) (tag : Nat) (status : Nat) (kind : ResetKind) :
    Only [.out, .heldOut, .free, .pilot, .regs, .pcie, .rings, .resetting, .quiesce] s (State.answerReset s ring tag status kind) := by
  simp [State.answerReset]

@[simp] theorem State.answerReset_step (s : State) (ring : Nat) (tag : Nat) (status : Nat) (kind : ResetKind) {ps : List Part} {r₀ : State}
    (h : [.out, .heldOut, .free, .pilot, .regs, .pcie, .rings, .resetting, .quiesce] ⊆ ps) :
    Only ps r₀ (State.answerReset s ring tag status kind) ↔ Only ps r₀ s :=
  (State.answerReset_only s ring tag status kind).step h

end Sys2Proof.Machine
end

