-- ==== Sys2Proof/Laws/FrameFaults.lean ====
section
/-!
SUPPORT. What the operations of Faults.lean leave unchanged: one lemma for each.
-/
namespace Sys2Proof.Machine

theorem State.leaveChange_only (s : State) (c : QueueChange) :
    Only [.out, .free, .regs, .pcie, .log, .logWritten, .sideband, .queues, .marver, .pcs, .regulator] s (State.leaveChange s c) := by
  simp [State.leaveChange]

@[simp] theorem State.leaveChange_step (s : State) (c : QueueChange) {ps : List Part} {r₀ : State}
    (h : [.out, .free, .regs, .pcie, .log, .logWritten, .sideband, .queues, .marver, .pcs, .regulator] ⊆ ps) :
    Only ps r₀ (State.leaveChange s c) ↔ Only ps r₀ s :=
  (State.leaveChange_only s c).step h

theorem State.leaveJob_only (s : State) (j : BistJob) :
    Only [.free, .regs, .test] s (State.leaveJob s j) := by
  unfold State.leaveJob
  (repeat' split) <;> simp

@[simp] theorem State.leaveJob_step (s : State) (j : BistJob) {ps : List Part} {r₀ : State}
    (h : [.free, .regs, .test] ⊆ ps) :
    Only ps r₀ (State.leaveJob s j) ↔ Only ps r₀ s :=
  (State.leaveJob_only s j).step h

theorem State.serviceExpires_only (s : State) (cause : Nat) :
    Only [.out, .heldOut, .free, .pilot, .dom, .regs, .pcie, .log, .logWritten, .rings, .resetting, .quiesce, .test, .sideband, .queues, .queueChanges, .snapPending, .marver, .pcs, .regulator] s (State.serviceExpires s cause) := by
  simp only [State.serviceExpires]
  (repeat' split) <;> simp

@[simp] theorem State.serviceExpires_step (s : State) (cause : Nat) {ps : List Part} {r₀ : State}
    (h : [.out, .heldOut, .free, .pilot, .dom, .regs, .pcie, .log, .logWritten, .rings, .resetting, .quiesce, .test, .sideband, .queues, .queueChanges, .snapPending, .marver, .pcs, .regulator] ⊆ ps) :
    Only ps r₀ (State.serviceExpires s cause) ↔ Only ps r₀ s :=
  (State.serviceExpires_only s cause).step h

end Sys2Proof.Machine
end

