-- ==== Sys2Proof/Laws/FrameCommands.lean ====
section
/-!
SUPPORT. What the operations of Commands.lean leave unchanged: one lemma for each.
-/
namespace Sys2Proof.Machine

theorem State.clearLog_only (s : State) (last : Nat) :
    Only [.regs, .log, .logWritten] s (State.clearLog s last) := by
  simp [State.clearLog]

@[simp] theorem State.clearLog_step (s : State) (last : Nat) {ps : List Part} {r₀ : State}
    (h : [.regs, .log, .logWritten] ⊆ ps) :
    Only ps r₀ (State.clearLog s last) ↔ Only ps r₀ s :=
  (State.clearLog_only s last).step h

theorem State.triggerSnapshot_only (s : State) (l : Nat) (t : Tick) :
    Only [.regs, .snapPending] s (State.triggerSnapshot s l t) := by
  simp [State.triggerSnapshot]

@[simp] theorem State.triggerSnapshot_step (s : State) (l : Nat) (t : Tick) {ps : List Part} {r₀ : State}
    (h : [.regs, .snapPending] ⊆ ps) :
    Only ps r₀ (State.triggerSnapshot s l t) ↔ Only ps r₀ s :=
  (State.triggerSnapshot_only s l t).step h

theorem State.startChannels_only (s : State) (l : Nat) :
    Only [.out, .regs, .pcie, .log, .logWritten, .lines, .pulses, .channels, .sideband] s (State.startChannels s l) := by
  simp [State.startChannels]

@[simp] theorem State.startChannels_step (s : State) (l : Nat) {ps : List Part} {r₀ : State}
    (h : [.out, .regs, .pcie, .log, .logWritten, .lines, .pulses, .channels, .sideband] ⊆ ps) :
    Only ps r₀ (State.startChannels s l) ↔ Only ps r₀ s :=
  (State.startChannels_only s l).step h

end Sys2Proof.Machine
end

