-- ==== Sys2Proof/Laws/FrameExecA.lean ====
section
/-!
SUPPORT. What each command leaves unchanged: one lemma for each meaning.
-/
namespace Sys2Proof.Machine

theorem runCommand_only {ps : List Part} {op : Nat} {e : Sqe} {s u : State} {body : State → State}
    (h : runCommand op e s body = .next u) (hd : [.out, .heldOut, .regs, .pcie, .rings] ⊆ ps) (hb : ∀ x, Only ps x (body x)) :
    Only ps s u := by
  unfold runCommand at h
  (repeat' split at h) <;> (injection h with h; subst h; first | exact hb s | simp [hd])

theorem runRequest_only {ps : List Part} {r : Req} {n : Nat} {hold : State → Bool} {own : State → State} {s u : State}
    (h : runRequest r n hold own s = .next u) (hd : [.regs, .ports] ⊆ ps)
    (hb : ∀ x, Only ps x (own x)) : Only ps s u := by
  have hd' := hd
  simp only [List.cons_subset, List.nil_subset] at hd'
  unfold runRequest at h
  (repeat' split at h) <;> injection h with h <;> subst h <;> simp [hd', (hb _).step (List.Subset.refl _)]

theorem State.withVprog_only {ps : List Part} {s : State} {vprog : Bool} {e : Sqe} {body : State → State}
    (hd : [.out, .heldOut, .regs, .pcie, .rings] ⊆ ps) (hb : ∀ x, Only ps x (body x)) : Only ps s (s.withVprog vprog e body) := by
  have hd' := hd
  simp only [List.cons_subset, List.nil_subset] at hd'
  unfold State.withVprog
  dsimp only
  split <;> simp [hd', (hb _).step (List.Subset.refl _)]

theorem State.program_only {ps : List Part} {s : State} {e : Sqe} {ws : List (Nat × Nat)} {o : FuseOutcome} {apply : State → State}
    (hd : [.out, .heldOut, .regs, .pcie, .log, .logWritten, .rings, .fuses, .trust, .sideband] ⊆ ps) (hb : ∀ x, Only ps x (apply x)) : Only ps s (s.program e ws o apply) := by
  have hd' := hd
  simp only [List.cons_subset, List.nil_subset] at hd'
  unfold State.program
  dsimp only
  split <;> simp [hd', (hb _).step (List.Subset.refl _)]

theorem execVddAoRise_only {s : State} {u₀ : State} (h : execVddAoRise s = .next u₀) :
    Only [.heldOut, .free, .time, .pilot, .dom, .regs, .latches, .pcie, .log, .logWritten, .rings, .resetting, .quiesce, .lines, .pulses, .channels, .fuses, .trust, .sensors, .layers, .thermal, .test, .sideband, .ports, .lanes, .queues, .queueChanges, .snapshots, .snapPending, .tables, .dead, .commits, .commitLog, .recovered, .cancelled, .recoveredCommits, .latency, .engineQueues, .marver, .pcs, .stageRows, .windows, .mem, .placed, .integrity, .regulator] s u₀ := by
  unfold execVddAoRise at h
  (repeat' split at h) <;> (injection h with h; subst h; simp)

theorem execVddAoFall_only {s : State} {u₀ : State} (h : execVddAoFall s = .next u₀) :
    Only [.heldOut, .free, .time, .pilot, .dom, .regs, .latches, .pcie, .log, .logWritten, .rings, .resetting, .quiesce, .lines, .pulses, .channels, .fuses, .trust, .sensors, .layers, .thermal, .test, .sideband, .ports, .lanes, .queues, .queueChanges, .snapshots, .snapPending, .tables, .dead, .commits, .commitLog, .recovered, .cancelled, .recoveredCommits, .latency, .engineQueues, .marver, .pcs, .stageRows, .windows, .mem, .placed, .integrity, .regulator] s u₀ := by
  unfold execVddAoFall at h
  (repeat' split at h) <;> (injection h with h; subst h; simp)

theorem execRailsInTolerance_only {s : State} {u₀ : State} (h : execRailsInTolerance s = .next u₀) :
    Only [.pilot, .regs] s u₀ := by
  unfold execRailsInTolerance at h
  (repeat' split at h) <;> (injection h with h; subst h; simp)

theorem execRailCheckRetry_only {s : State} {u₀ : State} (h : execRailCheckRetry s = .next u₀) :
    Only [] s u₀ := by
  unfold execRailCheckRetry at h
  (repeat' split at h) <;> (injection h with h; subst h; simp)

theorem execRailOutOfRange_only {rail : Nat} {s : State} {u₀ : State} (h : execRailOutOfRange rail s = .next u₀) :
    Only [.out, .heldOut, .free, .time, .pilot, .dom, .regs, .latches, .pcie, .log, .logWritten, .rings, .resetting, .quiesce, .lines, .pulses, .channels, .fuses, .trust, .sensors, .layers, .thermal, .test, .sideband, .ports, .lanes, .queues, .queueChanges, .snapshots, .snapPending, .tables, .dead, .commits, .commitLog, .recovered, .cancelled, .recoveredCommits, .latency, .engineQueues, .marver, .pcs, .stageRows, .windows, .mem, .integrity, .regulator] s u₀ := by
  unfold execRailOutOfRange at h
  (repeat' split at h) <;> (injection h with h; subst h; simp)

theorem execStrapSample_only {refwait : Nat} {sbaddr : Nat} {sbctl : Nat} {bist : Nat} {s : State} {u₀ : State} (h : execStrapSample refwait sbaddr sbctl bist s = .next u₀) :
    Only [.pilot, .regs] s u₀ := by
  unfold execStrapSample at h
  (repeat' split at h) <;> (injection h with h; subst h; simp)

theorem execRefwaitExpiry_only {s : State} {u₀ : State} (h : execRefwaitExpiry s = .next u₀) :
    Only [.pilot] s u₀ := by
  unfold execRefwaitExpiry at h
  (repeat' split at h) <;> (injection h with h; subst h; simp)

theorem execRefclkStartupCheck_only {count : Nat} {trim : Nat} {s : State} {u₀ : State} (h : execRefclkStartupCheck count trim s = .next u₀) :
    Only [.time, .pilot, .regs] s u₀ := by
  unfold execRefclkStartupCheck at h
  (repeat' split at h) <;> (injection h with h; subst h; simp)

theorem execResetPinAssert_only {pin : ResetPin} {s : State} {u₀ : State} (h : execResetPinAssert pin s = .next u₀) :
    Only [.out, .heldOut, .free, .time, .pilot, .dom, .regs, .latches, .pcie, .rings, .resetting, .quiesce, .lines, .pulses, .channels, .fuses, .trust, .sensors, .layers, .thermal, .test, .sideband, .ports, .lanes, .queues, .queueChanges, .snapshots, .snapPending, .tables, .dead, .commits, .commitLog, .recovered, .cancelled, .recoveredCommits, .latency, .engineQueues, .marver, .pcs, .stageRows, .windows, .mem, .integrity, .regulator] s u₀ := by
  unfold execResetPinAssert at h
  (repeat' split at h) <;> (injection h with h; subst h; simp)

theorem execResetPinRelease_only {pin : ResetPin} {s : State} {u₀ : State} (h : execResetPinRelease pin s = .next u₀) :
    Only [.pilot, .regs] s u₀ := by
  unfold execResetPinRelease at h
  (repeat' split at h) <;> (injection h with h; subst h; simp)

theorem execColdStartSequence_only {b : BootInput} {s : State} {u₀ : State} (h : execColdStartSequence b s = .next u₀) :
    Only [.out, .free, .pilot, .dom, .regs, .pcie, .log, .logWritten, .trust, .sensors, .thermal, .test, .sideband, .ports, .tables, .commits, .commitLog, .recovered, .engineQueues, .marver, .pcs, .mem, .placed, .integrity, .regulator] s u₀ := by
  unfold execColdStartSequence at h
  (repeat' split at h) <;> (injection h with h; subst h; simp)

theorem execLayerDiscoveryTimeout_only {layer : Nat} {s : State} {u₀ : State} (h : execLayerDiscoveryTimeout layer s = .next u₀) :
    Only [.out, .pilot, .regs, .pcie, .log, .logWritten, .sideband] s u₀ := by
  unfold execLayerDiscoveryTimeout at h
  try dsimp only at h
  (repeat' split at h) <;> (injection h with h; subst h; simp) <;> (repeat' split) <;> simp

theorem execPcieHotReset_only {s : State} {u₀ : State} (h : execPcieHotReset s = .next u₀) :
    Only [.out, .heldOut, .free, .time, .pilot, .dom, .regs, .latches, .pcie, .rings, .resetting, .quiesce, .lines, .pulses, .channels, .fuses, .trust, .sensors, .layers, .thermal, .test, .sideband, .ports, .lanes, .queues, .queueChanges, .snapshots, .snapPending, .tables, .dead, .commits, .commitLog, .recovered, .cancelled, .recoveredCommits, .latency, .engineQueues, .marver, .pcs, .stageRows, .windows, .mem, .integrity, .regulator] s u₀ := by
  unfold execPcieHotReset at h
  (repeat' split at h) <;> (injection h with h; subst h; simp)

theorem execPcieFlr_only {s : State} {u₀ : State} (h : execPcieFlr s = .next u₀) :
    Only [.out, .heldOut, .free, .time, .pilot, .dom, .regs, .latches, .pcie, .rings, .resetting, .quiesce, .lines, .pulses, .channels, .fuses, .trust, .sensors, .layers, .thermal, .test, .sideband, .ports, .lanes, .queues, .queueChanges, .snapshots, .snapPending, .tables, .dead, .commits, .commitLog, .recovered, .cancelled, .recoveredCommits, .latency, .engineQueues, .marver, .pcs, .stageRows, .windows, .mem, .integrity, .regulator] s u₀ := by
  unfold execPcieFlr at h
  (repeat' split at h) <;> (injection h with h; subst h; simp)

theorem execPcieLinkDown_only {s : State} {u₀ : State} (h : execPcieLinkDown s = .next u₀) :
    Only [.out, .heldOut, .free, .time, .pilot, .dom, .regs, .latches, .pcie, .rings, .resetting, .quiesce, .lines, .pulses, .channels, .fuses, .trust, .sensors, .layers, .thermal, .test, .sideband, .ports, .lanes, .queues, .queueChanges, .snapshots, .snapPending, .tables, .dead, .commits, .commitLog, .recovered, .cancelled, .recoveredCommits, .latency, .engineQueues, .marver, .pcs, .stageRows, .windows, .mem, .integrity, .regulator] s u₀ := by
  unfold execPcieLinkDown at h
  (repeat' split at h) <;> (injection h with h; subst h; simp)

theorem execResetSourceRelease_only {s : State} {u₀ : State} (h : execResetSourceRelease s = .next u₀) :
    Only [.pilot, .regs] s u₀ := by
  unfold execResetSourceRelease at h
  (repeat' split at h) <;> (injection h with h; subst h; simp)

theorem execHeldRestartSequence_only {b : BootInput} {s : State} {u₀ : State} (h : execHeldRestartSequence b s = .next u₀) :
    Only [.out, .free, .pilot, .dom, .regs, .pcie, .log, .logWritten, .trust, .sensors, .thermal, .test, .sideband, .ports, .tables, .commits, .commitLog, .recovered, .engineQueues, .marver, .pcs, .mem, .placed, .integrity, .regulator] s u₀ := by
  unfold execHeldRestartSequence at h
  (repeat' split at h) <;> (injection h with h; subst h; simp)

theorem execFirmwareReverifyDone_only {s : State} {u₀ : State} (h : execFirmwareReverifyDone s = .next u₀) :
    Only [.out, .pilot, .regs, .pcie, .log, .logWritten, .trust, .sideband, .ports, .lanes, .tables, .commits, .commitLog, .recovered, .marver] s u₀ := by
  unfold execFirmwareReverifyDone at h
  (repeat' split at h) <;> (injection h with h; subst h; simp)

theorem execQuiesceComplete_only {s : State} {u₀ : State} (h : execQuiesceComplete s = .next u₀) :
    Only [.out, .heldOut, .free, .pilot, .regs, .pcie, .log, .logWritten, .rings, .resetting, .quiesce, .sideband, .ports, .tables, .dead, .commits, .engineQueues, .marver, .pcs, .stageRows, .windows, .mem, .integrity, .regulator] s u₀ := by
  unfold execQuiesceComplete at h
  try dsimp only at h
  (repeat' split at h) <;> (injection h with h; subst h; simp) <;> (repeat' split) <;> simp

theorem execQuiesceTimeout_only {s : State} {u₀ : State} (h : execQuiesceTimeout s = .next u₀) :
    Only [.out, .heldOut, .free, .pilot, .regs, .pcie, .rings, .resetting, .quiesce] s u₀ := by
  unfold execQuiesceTimeout at h
  (repeat' split at h) <;> (injection h with h; subst h; simp)

theorem execPreserveResetDelay_only {s : State} {u₀ : State} (h : execPreserveResetDelay s = .next u₀) :
    Only [.out, .heldOut, .free, .time, .pilot, .dom, .regs, .latches, .pcie, .rings, .resetting, .quiesce, .lines, .pulses, .channels, .fuses, .trust, .sensors, .layers, .thermal, .test, .sideband, .ports, .lanes, .queues, .queueChanges, .snapshots, .snapPending, .tables, .dead, .commits, .commitLog, .recovered, .cancelled, .recoveredCommits, .latency, .engineQueues, .marver, .pcs, .stageRows, .windows, .mem, .integrity, .regulator] s u₀ := by
  unfold execPreserveResetDelay at h
  try dsimp only at h
  (repeat' split at h) <;> (injection h with h; subst h; simp) <;> (repeat' split) <;> simp

theorem execTapInstructionLoad_only {ir : Nat} {s : State} {u₀ : State} (h : execTapInstructionLoad ir s = .next u₀) :
    Only [.out, .heldOut, .free, .time, .pilot, .dom, .regs, .latches, .pcie, .rings, .resetting, .quiesce, .lines, .pulses, .channels, .fuses, .trust, .sensors, .layers, .thermal, .test, .sideband, .ports, .lanes, .queues, .queueChanges, .snapshots, .snapPending, .tables, .dead, .commits, .commitLog, .recovered, .cancelled, .recoveredCommits, .latency, .engineQueues, .marver, .pcs, .stageRows, .windows, .mem, .integrity, .regulator] s u₀ := by
  unfold execTapInstructionLoad at h
  dsimp only at h
  (repeat' split at h) <;> first
    | (injection h with h; subst h; simp)
    | exact absurd h (by simp)

theorem execTapTestLogicReset_only {s : State} {u₀ : State} (h : execTapTestLogicReset s = .next u₀) :
    Only [.pilot, .regs] s u₀ := by
  unfold execTapTestLogicReset at h
  (repeat' split at h) <;> (injection h with h; subst h; simp)

theorem execOscTrim_only {trim : Nat} {count : Nat} {s : State} {u₀ : State} (h : execOscTrim trim count s = .next u₀) :
    Only [.pilot, .regs] s u₀ := by
  unfold execOscTrim at h
  (repeat' split at h) <;> (injection h with h; subst h; simp)

theorem execRefclkMissingEdge_only {s : State} {u₀ : State} (h : execRefclkMissingEdge s = .next u₀) :
    Only [.out, .time, .pilot, .dom, .regs, .pcie, .log, .logWritten, .sideband, .ports, .pcs, .windows] s u₀ := by
  unfold execRefclkMissingEdge at h
  (repeat' split at h) <;> (injection h with h; subst h; simp)

theorem execRefclkFreqWindow_only {count : Nat} {s : State} {u₀ : State} (h : execRefclkFreqWindow count s = .next u₀) :
    Only [.out, .time, .pilot, .dom, .regs, .pcie, .log, .logWritten, .sideband, .ports, .pcs, .windows] s u₀ := by
  unfold execRefclkFreqWindow at h
  try dsimp only at h
  (repeat' split at h) <;> (injection h with h; subst h; simp) <;> (repeat' split) <;> simp

theorem execClockSwitchForced_only {d : Nat} {s : State} {u₀ : State} (h : execClockSwitchForced d s = .next u₀) :
    Only [.out, .heldOut, .time, .pilot, .dom, .regs, .pcie, .log, .logWritten, .rings, .lines, .pulses, .channels, .sideband, .ports, .lanes, .snapPending, .engineQueues, .pcs, .windows] s u₀ := by
  unfold execClockSwitchForced at h
  (repeat' split at h) <;> (injection h with h; subst h; simp)

theorem execClockSwitchFailed_only {d : Nat} {oldRunning : Bool} {s : State} {u₀ : State} (h : execClockSwitchFailed d oldRunning s = .next u₀) :
    Only [.out, .heldOut, .time, .pilot, .dom, .regs, .pcie, .log, .logWritten, .rings, .lines, .pulses, .channels, .sideband, .ports, .lanes, .snapPending, .engineQueues] s u₀ := by
  unfold execClockSwitchFailed at h
  (repeat' split at h) <;> (injection h with h; subst h; simp)

theorem execClockGateClose_only {d : Nat} {s : State} {u₀ : State} (h : execClockGateClose d s = .next u₀) :
    Only [.regs] s u₀ := by
  unfold execClockGateClose at h
  (repeat' split at h) <;> (injection h with h; subst h; simp)

theorem execClockGateOpen_only {d : Nat} {s : State} {u₀ : State} (h : execClockGateOpen d s = .next u₀) :
    Only [.regs] s u₀ := by
  unfold execClockGateOpen at h
  (repeat' split at h) <;> (injection h with h; subst h; simp)

theorem execDomainAutoOff_only {d : Nat} {s : State} {u₀ : State} (h : execDomainAutoOff d s = .next u₀) :
    Only [.regs] s u₀ := by
  unfold execDomainAutoOff at h
  (repeat' split at h) <;> (injection h with h; subst h; simp)

theorem execDomainWake_only {d : Nat} {s : State} {u₀ : State} (h : execDomainWake d s = .next u₀) :
    Only [.dom, .regs] s u₀ := by
  unfold execDomainWake at h
  (repeat' split at h) <;> (injection h with h; subst h; simp)

theorem execBenchMicrocodeLoaded_only {b : Nat} {z : State} {u₀ : State} (h : execBenchMicrocodeLoaded b z = .next u₀) :
    Only [.dom, .regs, .test, .tables] z u₀ := by
  unfold execBenchMicrocodeLoaded at h
  try dsimp only at h
  (repeat' split at h) <;> (injection h with h; subst h; simp) <;> (repeat' split) <;> simp

theorem execForcedClosureDrainEnd_only {reads : Nat} {writes : List Nat} {commands : List (Nat × Nat)} {ports : List Req} {s : State} {u₀ : State} (h : execForcedClosureDrainEnd reads writes commands ports s = .next u₀) :
    Only [.out, .heldOut, .dom, .regs, .pcie, .log, .logWritten, .rings, .lines, .pulses, .channels, .sideband, .ports, .lanes, .snapPending, .engineQueues] s u₀ := by
  unfold execForcedClosureDrainEnd at h
  (repeat' split at h) <;> (injection h with h; subst h; simp)

theorem execPtmDialog_only {s : State} {u₀ : State} (h : execPtmDialog s = .next u₀) :
    Only [.out, .time, .regs] s u₀ := by
  unfold execPtmDialog at h
  (repeat' split at h) <;> (injection h with h; subst h; simp)

theorem execPtmResponse_only {masterNs : Nat} {s : State} {u₀ : State} (h : execPtmResponse masterNs s = .next u₀) :
    Only [.time, .regs] s u₀ := by
  unfold execPtmResponse at h
  (repeat' split at h) <;> (injection h with h; subst h; simp)

theorem execPtmResponseTimeout_only {s : State} {u₀ : State} (h : execPtmResponseTimeout s = .next u₀) :
    Only [.time, .regs] s u₀ := by
  unfold execPtmResponseTimeout at h
  try dsimp only at h
  (repeat' split at h) <;> (injection h with h; subst h; simp) <;> (repeat' split) <;> simp

theorem execTimesyncEdge_only {t : Tick} {s : State} {u₀ : State} (h : execTimesyncEdge t s = .next u₀) :
    Only [.time, .regs, .lines, .pulses] s u₀ := by
  unfold execTimesyncEdge at h
  try dsimp only at h
  (repeat' split at h) <;> (injection h with h; subst h; simp) <;> (repeat' split) <;> simp

theorem execTimesyncStuck_only {s : State} {u₀ : State} (h : execTimesyncStuck s = .next u₀) :
    Only [.time, .regs] s u₀ := by
  unfold execTimesyncStuck at h
  (repeat' split at h) <;> (injection h with h; subst h; simp)

theorem execTbTimeLoRead_only {s : State} {u₀ : State} (h : execTbTimeLoRead s = .next u₀) :
    Only [.out, .latches] s u₀ := by
  unfold execTbTimeLoRead at h
  (repeat' split at h) <;> (injection h with h; subst h; simp)

theorem execLoRegisterRead_only {off : Nat} {s : State} {u₀ : State} (h : execLoRegisterRead off s = .next u₀) :
    Only [.out, .regs, .latches] s u₀ := by
  unfold execLoRegisterRead at h
  try dsimp only at h
  (repeat' split at h) <;> (injection h with h; subst h; simp) <;> (repeat' split) <;> simp

theorem execHoldNChange_only {low : Bool} {s : State} {u₀ : State} (h : execHoldNChange low s = .next u₀) :
    Only [.out, .pilot, .dom, .regs, .pcie, .log, .logWritten, .lines, .pulses, .thermal, .sideband, .ports, .lanes, .tables, .pcs, .regulator] s u₀ := by
  unfold execHoldNChange at h
  (repeat' split at h) <;> (injection h with h; subst h; simp)

theorem execHoldNLong_only {s : State} {u₀ : State} (h : execHoldNLong s = .next u₀) :
    Only [.out, .regs, .pcie, .log, .logWritten, .sideband] s u₀ := by
  unfold execHoldNLong at h
  (repeat' split at h) <;> (injection h with h; subst h; simp)

theorem execThermalSample_only {x : ThermalInput} {s : State} {u₀ : State} (h : execThermalSample x s = .next u₀) :
    Only [.out, .regs, .pcie, .log, .logWritten, .lines, .pulses, .sensors, .layers, .thermal, .sideband, .ports, .lanes, .regulator] s u₀ := by
  unfold execThermalSample at h
  try dsimp only at h
  (repeat' split at h) <;> (injection h with h; subst h; simp) <;> (repeat' split) <;> simp

theorem execSensorRecover_only {n : Nat} {s : State} {u₀ : State} (h : execSensorRecover n s = .next u₀) :
    Only [.sensors] s u₀ := by
  unfold execSensorRecover at h
  (repeat' split at h) <;> (injection h with h; subst h; simp)

theorem execCanaryTest_only {l : Nat} {failed : Nat} {s : State} {u₀ : State} (h : execCanaryTest l failed s = .next u₀) :
    Only [.layers] s u₀ := by
  unfold execCanaryTest at h
  (repeat' split at h) <;> (injection h with h; subst h; simp)

theorem execNarrowRestore_only {s : State} {u₀ : State} (h : execNarrowRestore s = .next u₀) :
    Only [.out, .regs, .pcie, .thermal, .ports, .lanes] s u₀ := by
  unfold execNarrowRestore at h
  (repeat' split at h) <;> (injection h with h; subst h; simp)

theorem execQuenchStopComplete_only {s : State} {u₀ : State} (h : execQuenchStopComplete s = .next u₀) :
    Only [.out, .free, .dom, .regs, .pcie, .log, .logWritten, .lines, .pulses, .thermal, .sideband, .ports, .tables, .dead, .commits, .engineQueues, .marver, .pcs, .stageRows, .windows, .mem, .integrity, .regulator] s u₀ := by
  unfold execQuenchStopComplete at h
  (repeat' split at h) <;> (injection h with h; subst h; simp)

theorem execQuenchThermalEnd_only {s : State} {u₀ : State} (h : execQuenchThermalEnd s = .next u₀) :
    Only [.out, .dom, .regs, .pcie, .log, .logWritten, .lines, .pulses, .layers, .thermal, .sideband, .ports, .lanes, .tables, .pcs, .regulator] s u₀ := by
  unfold execQuenchThermalEnd at h
  try dsimp only at h
  (repeat' split at h) <;> (injection h with h; subst h; simp) <;> (repeat' split) <;> simp

theorem execTrip_only {sensor : Nat} {s : State} {u₀ : State} (h : execTrip sensor s = .next u₀) :
    Only [.out, .free, .pilot, .regs, .fuses, .trust, .ports, .pcs, .windows] s u₀ := by
  unfold execTrip at h
  (repeat' split at h) <;> (injection h with h; subst h; simp)

theorem execLaneDetectorChange_only {p : Nat} {lane : Nat} {los : Bool} {lol : Bool} {s : State} {u₀ : State} (h : execLaneDetectorChange p lane los lol s = .next u₀) :
    Only [.out, .regs, .pcie, .ports, .lanes] s u₀ := by
  unfold execLaneDetectorChange at h
  (repeat' split at h) <;> (injection h with h; subst h; simp)

theorem execTrainingFrameRx_only {p : Nat} {lane : Nat} {f : Frame} {s : State} {u₀ : State} (h : execTrainingFrameRx p lane f s = .next u₀) :
    Only [.out, .regs, .pcie, .ports, .lanes] s u₀ := by
  unfold execTrainingFrameRx at h
  try dsimp only at h
  (repeat' split at h) <;> (injection h with h; subst h; simp) <;> (repeat' split) <;> simp

theorem execTrainStateExit_only {p : Nat} {x : TrainInput} {s : State} {u₀ : State} (h : execTrainStateExit p x s = .next u₀) :
    Only [.out, .regs, .pcie, .log, .logWritten, .sideband, .ports, .lanes] s u₀ := by
  unfold execTrainStateExit at h
  try dsimp only at h
  (repeat' split at h) <;> (injection h with h; subst h; simp) <;> (repeat' split) <;> simp

theorem execTrainStateTimer_only {p : Nat} {x : TrainInput} {s : State} {u₀ : State} (h : execTrainStateTimer p x s = .next u₀) :
    Only [.out, .regs, .pcie, .log, .logWritten, .sideband, .ports, .lanes] s u₀ := by
  unfold execTrainStateTimer at h
  try dsimp only at h
  (repeat' split at h) <;> (injection h with h; subst h; simp) <;> (repeat' split) <;> simp

theorem execAttemptIdleEnd_only {p : Nat} {s : State} {u₀ : State} (h : execAttemptIdleEnd p s = .next u₀) :
    Only [.out, .regs, .ports, .lanes] s u₀ := by
  unfold execAttemptIdleEnd at h
  (repeat' split at h) <;> (injection h with h; subst h; simp)

theorem execLinkLost_only {p : Nat} {s : State} {u₀ : State} (h : execLinkLost p s = .next u₀) :
    Only [.out, .regs, .pcie, .ports, .lanes] s u₀ := by
  unfold execLinkLost at h
  (repeat' split at h) <;> (injection h with h; subst h; simp)

theorem execWarmIdleTimer_only {p : Nat} {s : State} {u₀ : State} (h : execWarmIdleTimer p s = .next u₀) :
    Only [.out, .regs, .ports] s u₀ := by
  unfold execWarmIdleTimer at h
  (repeat' split at h) <;> (injection h with h; subst h; simp)

theorem execBankedIdleTimer_only {p : Nat} {s : State} {u₀ : State} (h : execBankedIdleTimer p s = .next u₀) :
    Only [.out, .regs, .ports] s u₀ := by
  unfold execBankedIdleTimer at h
  (repeat' split at h) <;> (injection h with h; subst h; simp)

theorem execWarmExit_only {p : Nat} {s : State} {u₀ : State} (h : execWarmExit p s = .next u₀) :
    Only [.out, .regs] s u₀ := by
  unfold execWarmExit at h
  (repeat' split at h) <;> (injection h with h; subst h; simp)

theorem execBankedExit_only {p : Nat} {s : State} {u₀ : State} (h : execBankedExit p s = .next u₀) :
    Only [.out, .regs, .pcie, .ports, .lanes] s u₀ := by
  unfold execBankedExit at h
  try dsimp only at h
  (repeat' split at h) <;> (injection h with h; subst h; simp) <;> (repeat' split) <;> simp

theorem execBankedFastPathTimeout_only {p : Nat} {s : State} {u₀ : State} (h : execBankedFastPathTimeout p s = .next u₀) :
    Only [.out, .regs, .pcie, .ports, .lanes] s u₀ := by
  unfold execBankedFastPathTimeout at h
  (repeat' split at h) <;> (injection h with h; subst h; simp)

theorem execDataCodewordRx_only {p : Nat} {c : Codeword} {s : State} {u₀ : State} (h : execDataCodewordRx p c s = .next u₀) :
    Only [.out, .free, .time, .regs, .ports, .lanes] s u₀ := by
  unfold execDataCodewordRx at h
  try dsimp only at h
  (repeat' split at h) <;> (injection h with h; subst h; simp) <;> (repeat' split) <;> simp

theorem execFramingCodewordRx_only {p : Nat} {c : Codeword} {s : State} {u₀ : State} (h : execFramingCodewordRx p c s = .next u₀) :
    Only [.free, .time, .regs, .ports, .lanes] s u₀ := by
  unfold execFramingCodewordRx at h
  try dsimp only at h
  (repeat' split at h) <;> (injection h with h; subst h; simp) <;> (repeat' split) <;> simp

theorem execResyncCodewordRx_only {p : Nat} {c : Codeword} {s : State} {u₀ : State} (h : execResyncCodewordRx p c s = .next u₀) :
    Only [.out, .free, .time, .regs, .ports, .lanes] s u₀ := by
  unfold execResyncCodewordRx at h
  try dsimp only at h
  (repeat' split at h) <;> (injection h with h; subst h; simp) <;> (repeat' split) <;> simp

theorem execLinkUpdateRx_only {p : Nat} {b : List Byte} {s : State} {u₀ : State} (h : execLinkUpdateRx p b s = .next u₀) :
    Only [.out, .regs, .ports] s u₀ := by
  unfold execLinkUpdateRx at h
  try dsimp only at h
  (repeat' split at h) <;> (injection h with h; subst h; simp) <;> (repeat' split) <;> simp

theorem execLinkUpdateSend_only {p : Nat} {s : State} {u₀ : State} (h : execLinkUpdateSend p s = .next u₀) :
    Only [.out, .regs, .ports] s u₀ := by
  unfold execLinkUpdateSend at h
  try dsimp only at h
  (repeat' split at h) <;> (injection h with h; subst h; simp) <;> (repeat' split) <;> simp

theorem execNakRetryTimeout_only {p : Nat} {s : State} {u₀ : State} (h : execNakRetryTimeout p s = .next u₀) :
    Only [.out, .regs, .ports] s u₀ := by
  unfold execNakRetryTimeout at h
  (repeat' split at h) <;> (injection h with h; subst h; simp)

theorem execReplayTimeout_only {p : Nat} {s : State} {u₀ : State} (h : execReplayTimeout p s = .next u₀) :
    Only [.out, .regs, .pcie, .log, .logWritten, .sideband, .ports] s u₀ := by
  unfold execReplayTimeout at h
  try dsimp only at h
  (repeat' split at h) <;> (injection h with h; subst h; simp) <;> (repeat' split) <;> simp

theorem execInit_only {p : Nat} {b : List Byte} {s : State} {u₀ : State} (h : execInit p b s = .next u₀) :
    Only [.out, .regs, .ports] s u₀ := by
  unfold execInit at h
  try dsimp only at h
  (repeat' split at h) <;> (injection h with h; subst h; simp) <;> (repeat' split) <;> simp

theorem execPwrReq_only {p : Nat} {flit : List Byte} {s : State} {u₀ : State} (h : execPwrReq p flit s = .next u₀) :
    Only [.out, .regs, .ports] s u₀ := by
  unfold execPwrReq at h
  try dsimp only at h
  (repeat' split at h) <;> (injection h with h; subst h; simp) <;> (repeat' split) <;> simp

theorem execPwrAck_only {p : Nat} {flit : List Byte} {s : State} {u₀ : State} (h : execPwrAck p flit s = .next u₀) :
    Only [.out, .regs, .ports] s u₀ := by
  unfold execPwrAck at h
  try dsimp only at h
  (repeat' split at h) <;> (injection h with h; subst h; simp) <;> (repeat' split) <;> simp

theorem execPwrRefuse_only {p : Nat} {flit : List Byte} {s : State} {u₀ : State} (h : execPwrRefuse p flit s = .next u₀) :
    Only [.ports] s u₀ := by
  unfold execPwrRefuse at h
  try dsimp only at h
  (repeat' split at h) <;> (injection h with h; subst h; simp) <;> (repeat' split) <;> simp

theorem execPwrReqTimeout_only {p : Nat} {s : State} {u₀ : State} (h : execPwrReqTimeout p s = .next u₀) :
    Only [.ports] s u₀ := by
  unfold execPwrReqTimeout at h
  (repeat' split at h) <;> (injection h with h; subst h; simp)

theorem execDownNoticeTimeout_only {p : Nat} {s : State} {u₀ : State} (h : execDownNoticeTimeout p s = .next u₀) :
    Only [.out, .ports] s u₀ := by
  unfold execDownNoticeTimeout at h
  (repeat' split at h) <;> (injection h with h; subst h; simp)

theorem execRequestCrcFail_only {p : Nat} {s : State} {u₀ : State} (h : execRequestCrcFail p s = .next u₀) :
    Only [.out, .regs, .pcie, .log, .logWritten, .sideband, .ports, .lanes] s u₀ := by
  unfold execRequestCrcFail at h
  try dsimp only at h
  (repeat' split at h) <;> (injection h with h; subst h; simp) <;> (repeat' split) <;> simp

theorem execUnknownDataOpcode_only {r : Req} {s : State} {u₀ : State} (h : execUnknownDataOpcode r s = .next u₀) :
    Only [.regs, .ports] s u₀ := by
  unfold execUnknownDataOpcode at h
  split at h
  · injection h with h
    subst h
    simp
  · exact runRequest_only h (by decide) (fun x => by simp)

theorem execEnq_only {r : Req} {s : State} {u₀ : State} (h : execEnq r s = .next u₀) :
    Only [.out, .regs, .pcie, .log, .logWritten, .sideband, .ports, .queues, .marver, .pcs, .placed, .regulator] s u₀ := by
  unfold execEnq at h
  dsimp only at h
  split at h
  · injection h with h
    subst h
    simp
  · refine runRequest_only h (by decide) (fun x => ?_)
    split <;> simp

theorem execEnqCommit_only {p : Nat} {s : State} {u₀ : State} (h : execEnqCommit p s = .next u₀) :
    Only [.out, .regs, .ports, .queues, .marver, .pcs, .placed, .regulator] s u₀ := by
  unfold execEnqCommit at h
  (repeat' split at h) <;> (injection h with h; subst h; simp)

theorem execDeq_only {r : Req} {s : State} {u₀ : State} (h : execDeq r s = .next u₀) :
    Only [.out, .regs, .pcie, .log, .logWritten, .sideband, .ports, .queues, .marver, .pcs, .regulator] s u₀ := by
  unfold execDeq at h
  (repeat' split at h) <;>
  · refine runRequest_only h (by decide) (fun x => ?_)
    try unfold serveQueue
    try dsimp only
    (repeat' split) <;> simp

theorem execPeek_only {r : Req} {s : State} {u₀ : State} (h : execPeek r s = .next u₀) :
    Only [.out, .regs, .pcie, .log, .logWritten, .sideband, .ports, .queues, .pcs, .regulator] s u₀ := by
  unfold execPeek at h
  (repeat' split at h) <;>
  · refine runRequest_only h (by decide) (fun x => ?_)
    try unfold serveQueue
    try dsimp only
    (repeat' split) <;> simp

theorem execDropHead_only {r : Req} {s : State} {u₀ : State} (h : execDropHead r s = .next u₀) :
    Only [.out, .regs, .pcie, .log, .logWritten, .sideband, .ports, .queues, .marver, .pcs, .regulator] s u₀ := by
  unfold execDropHead at h
  (repeat' split at h) <;>
  · refine runRequest_only h (by decide) (fun x => ?_)
    try unfold serveQueue
    try dsimp only
    (repeat' split) <;> simp

theorem execQstat_only {r : Req} {s : State} {u₀ : State} (h : execQstat r s = .next u₀) :
    Only [.out, .free, .regs, .pcie, .log, .logWritten, .sideband, .ports, .queues] s u₀ := by
  unfold execQstat at h
  (repeat' split at h) <;>
  · refine runRequest_only h (by decide) (fun x => ?_)
    try unfold serveQueue
    try dsimp only
    (repeat' split) <;> simp

theorem execLookup_only {r : Req} {s : State} {u₀ : State} (h : execLookup r s = .next u₀) :
    Only [.out, .regs, .ports, .tables, .dead, .commits, .engineQueues, .marver, .pcs, .regulator] s u₀ := by
  unfold execLookup runTable at h
  refine runRequest_only h (by decide) (fun x => ?_)
  try dsimp only
  (repeat' split) <;> simp

theorem execLookupMulti_only {r : Req} {s : State} {u₀ : State} (h : execLookupMulti r s = .next u₀) :
    Only [.out, .regs, .ports, .tables, .dead, .commits, .engineQueues, .marver, .pcs, .regulator] s u₀ := by
  unfold execLookupMulti runTable at h
  refine runRequest_only h (by decide) (fun x => ?_)
  try dsimp only
  (repeat' split) <;> simp

theorem execCntAdd_only {r : Req} {s : State} {u₀ : State} (h : execCntAdd r s = .next u₀) :
    Only [.out, .regs, .ports, .tables, .dead, .commits, .engineQueues, .marver, .pcs, .regulator] s u₀ := by
  unfold execCntAdd runTable at h
  refine runRequest_only h (by decide) (fun x => ?_)
  try dsimp only
  (repeat' split) <;> simp

theorem execCntRead_only {r : Req} {s : State} {u₀ : State} (h : execCntRead r s = .next u₀) :
    Only [.out, .regs, .ports, .tables, .dead, .commits, .engineQueues, .marver, .pcs, .regulator] s u₀ := by
  unfold execCntRead runTable at h
  refine runRequest_only h (by decide) (fun x => ?_)
  try dsimp only
  (repeat' split) <;> simp

theorem execCntReadClear_only {r : Req} {s : State} {u₀ : State} (h : execCntReadClear r s = .next u₀) :
    Only [.out, .regs, .ports, .tables, .dead, .commits, .engineQueues, .marver, .pcs, .regulator] s u₀ := by
  unfold execCntReadClear runTable at h
  refine runRequest_only h (by decide) (fun x => ?_)
  try dsimp only
  (repeat' split) <;> simp

theorem execMark_only {r : Req} {s : State} {u₀ : State} (h : execMark r s = .next u₀) :
    Only [.out, .heldOut, .regs, .pcie, .rings, .lines, .pulses, .ports, .tables, .dead, .commits, .commitLog, .marver] s u₀ := by
  unfold execMark at h
  (repeat' split at h) <;>
  · refine runRequest_only h (by decide) (fun x => ?_)
    try unfold serveQueue
    try dsimp only
    (repeat' split) <;> simp

theorem execMarkPass_only {p : Nat} {s : State} {u₀ : State} (h : execMarkPass p s = .next u₀) :
    Only [.regs, .lines, .pulses, .ports] s u₀ := by
  unfold execMarkPass at h
  try dsimp only at h
  (repeat' split at h) <;> (injection h with h; subst h; simp) <;> (repeat' split) <;> simp

theorem execEcho_only {r : Req} {s : State} {u₀ : State} (h : execEcho r s = .next u₀) :
    Only [.regs, .ports] s u₀ := by
  unfold execEcho at h
  (repeat' split at h) <;>
  · refine runRequest_only h (by decide) (fun x => ?_)
    try unfold serveQueue
    try dsimp only
    (repeat' split) <;> simp

end Sys2Proof.Machine
end

