-- ==== Sys2Proof/Laws/FrameExecB.lean ====
section
/-!
SUPPORT. What each command leaves unchanged: one lemma for each meaning.
-/
namespace Sys2Proof.Machine

theorem execSnapshotReq_only {r : Req} {s : State} {u₀ : State} (h : execSnapshotReq r s = .next u₀) :
    Only [.regs, .ports, .snapPending] s u₀ := by
  unfold execSnapshotReq at h
  (repeat' split at h) <;>
  · refine runRequest_only h (by decide) (fun x => ?_)
    try unfold serveQueue
    try dsimp only
    (repeat' split) <;> simp

theorem execSnapshotComplete_only {s : State} {u₀ : State} (h : execSnapshotComplete s = .next u₀) :
    Only [.out, .heldOut, .time, .regs, .pcie, .rings, .lines, .pulses, .ports, .snapshots, .snapPending] s u₀ := by
  unfold execSnapshotComplete at h
  (repeat' split at h) <;> (injection h with h; subst h; simp)

theorem execEngineOpStart_only {n : Nat} {s : State} {u₀ : State} (h : execEngineOpStart n s = .next u₀) :
    Only [.out, .regs, .ports, .tables, .dead, .commits, .engineQueues, .marver, .pcs, .regulator] s u₀ := by
  unfold execEngineOpStart at h
  try dsimp only at h
  (repeat' split at h) <;> (injection h with h; subst h; simp) <;> (repeat' split) <;> simp

theorem execReplySend_only {p : Nat} {s : State} {u₀ : State} (h : execReplySend p s = .next u₀) :
    Only [.out, .regs, .ports, .latency] s u₀ := by
  unfold execReplySend at h
  try dsimp only at h
  (repeat' split at h) <;> (injection h with h; subst h; simp) <;> (repeat' split) <;> simp

theorem execConfigRequest_only {a : CfgAccess} {s : State} {u₀ : State} (h : execConfigRequest a s = .next u₀) :
    Only [.out, .heldOut, .pcie] s u₀ := by
  unfold execConfigRequest at h
  (repeat' split at h) <;> (injection h with h; subst h; simp)

theorem execBar0BadAccess_only {k : BadAccess} {off : Nat} {s : State} {u₀ : State} (h : execBar0BadAccess k off s = .next u₀) :
    Only [.out, .regs, .pcie, .log, .logWritten, .sideband] s u₀ := by
  unfold execBar0BadAccess at h
  (repeat' split at h) <;> (injection h with h; subst h; simp)

theorem execRegisterWrite_only {q : Requester} {off : Nat} {v : Nat} {s : State} {u₀ : State} (h : execRegisterWrite q off v s = .next u₀) :
    Only [.out, .time, .regs, .pcie, .log, .logWritten, .sideband, .lanes] s u₀ := by
  unfold execRegisterWrite at h
  (repeat' split at h) <;> (injection h with h; subst h; simp)

theorem execStagingWindowRead_only {off : Nat} {n : Nat} {s : State} {u₀ : State} (h : execStagingWindowRead off n s = .next u₀) :
    Only [.out, .regs, .pcie, .log, .logWritten, .sideband, .tables, .marver, .pcs, .stageRows, .windows, .mem, .integrity, .regulator] s u₀ := by
  unfold execStagingWindowRead at h
  (repeat' split at h) <;> (injection h with h; subst h; simp)

theorem execStagingWindowWrite_only {off : Nat} {data : List Byte} {enables : Nat} {s : State} {u₀ : State} (h : execStagingWindowWrite off data enables s = .next u₀) :
    Only [.out, .regs, .pcie, .log, .logWritten, .sideband, .tables, .marver, .pcs, .stageRows, .windows, .mem, .integrity, .regulator] s u₀ := by
  unfold execStagingWindowWrite at h
  try dsimp only at h
  (repeat' split at h) <;> (injection h with h; subst h; simp) <;> (repeat' split) <;> simp

theorem execRingEnable_only {r : Nat} {s : State} {u₀ : State} (h : execRingEnable r s = .next u₀) :
    Only [.out, .regs, .pcie, .log, .logWritten, .rings, .sideband] s u₀ := by
  unfold execRingEnable at h
  try dsimp only at h
  (repeat' split at h) <;> first
    | (injection h with h; subst h; simp; done)
    | (rename_i hr; injection h with h; subst h; exact (State.refusesWrite_only _ _ _ hr).mono (by decide))

theorem execRingDisable_only {r : Nat} {s : State} {u₀ : State} (h : execRingDisable r s = .next u₀) :
    Only [.out, .regs, .pcie, .log, .logWritten, .rings, .sideband] s u₀ := by
  unfold execRingDisable at h
  try dsimp only at h
  (repeat' split at h) <;> first
    | (injection h with h; subst h; simp; done)
    | (rename_i hr; injection h with h; subst h; exact (State.refusesWrite_only _ _ _ hr).mono (by decide))

theorem execSqTailDoorbell_only {r : Nat} {v : Nat} {s : State} {u₀ : State} (h : execSqTailDoorbell r v s = .next u₀) :
    Only [.out, .regs, .pcie, .log, .logWritten, .rings, .sideband] s u₀ := by
  unfold execSqTailDoorbell at h
  try dsimp only at h
  (repeat' split at h) <;> first
    | (injection h with h; subst h; simp; done)
    | (rename_i hr; injection h with h; subst h; exact (State.refusesWrite_only _ _ _ hr).mono (by decide))

theorem execCqHeadDoorbell_only {r : Nat} {v : Nat} {s : State} {u₀ : State} (h : execCqHeadDoorbell r v s = .next u₀) :
    Only [.out, .regs, .pcie, .log, .logWritten, .rings, .sideband] s u₀ := by
  unfold execCqHeadDoorbell at h
  try dsimp only at h
  (repeat' split at h) <;> first
    | (injection h with h; subst h; simp; done)
    | (rename_i hr; injection h with h; subst h; exact (State.refusesWrite_only _ _ _ hr).mono (by decide))

theorem execRingEntryFetch_only {r : Nat} {es : List Sqe} {s : State} {u₀ : State} (h : execRingEntryFetch r es s = .next u₀) :
    Only [.regs, .rings] s u₀ := by
  unfold execRingEntryFetch at h
  (repeat' split at h) <;> (injection h with h; subst h; simp)

theorem execRingEntryStart_only {r : Nat} {s : State} {u₀ : State} (h : execRingEntryStart r s = .next u₀) :
    Only [.out, .heldOut, .regs, .pcie, .rings] s u₀ := by
  unfold execRingEntryStart at h
  (repeat' split at h) <;> first
    | (injection h with h; subst h; simp)
    | exact absurd h (by simp)

theorem execHostReadFail_only {f : FailedRead} {answered : Bool} {s : State} {u₀ : State} (h : execHostReadFail f answered s = .next u₀) :
    Only [.out, .heldOut, .regs, .pcie, .log, .logWritten, .rings, .lines, .pulses, .channels, .sideband] s u₀ := by
  unfold execHostReadFail at h
  (repeat' split at h) <;> (injection h with h; subst h; simp)

theorem execMsixModerationTimer_only {r : Nat} {s : State} {u₀ : State} (h : execMsixModerationTimer r s = .next u₀) :
    Only [.out, .pcie, .rings] s u₀ := by
  unfold execMsixModerationTimer at h
  (repeat' split at h) <;> (injection h with h; subst h; simp)

theorem execMsixUnmask_only {v : Option Nat} {s : State} {u₀ : State} (h : execMsixUnmask v s = .next u₀) :
    Only [.out, .regs, .pcie, .log, .logWritten, .sideband] s u₀ := by
  unfold execMsixUnmask at h
  try dsimp only at h
  (repeat' split at h) <;> first
    | (injection h with h; subst h; simp; done)
    | (rename_i hr; injection h with h; subst h; exact (State.refusesWrite_only _ _ _ hr).mono (by decide))

theorem execPcieL1Entry_only {s : State} {u₀ : State} (h : execPcieL1Entry s = .next u₀) :
    Only [.out, .pcie] s u₀ := by
  unfold execPcieL1Entry at h
  (repeat' split at h) <;> (injection h with h; subst h; simp)

theorem execD3hotEntry_only {s : State} {u₀ : State} (h : execD3hotEntry s = .next u₀) :
    Only [.out, .pcie] s u₀ := by
  unfold execD3hotEntry at h
  (repeat' split at h) <;> (injection h with h; subst h; simp)

theorem execD0Return_only {s : State} {u₀ : State} (h : execD0Return s = .next u₀) :
    Only [.out, .heldOut, .pcie] s u₀ := by
  unfold execD0Return at h
  (repeat' split at h) <;> (injection h with h; subst h; simp)

theorem execDevIdentify_only {e : Sqe} {s : State} {u₀ : State} (h : execDevIdentify e s = .next u₀) :
    Only [.out, .heldOut, .regs, .pcie, .rings] s u₀ := by
  refine runCommand_only h (by decide) (fun x => ?_)
  try dsimp only
  (repeat' split) <;> simp

theorem execDevHealth_only {e : Sqe} {s : State} {u₀ : State} (h : execDevHealth e s = .next u₀) :
    Only [.out, .heldOut, .regs, .pcie, .rings] s u₀ := by
  refine runCommand_only h (by decide) (fun x => ?_)
  try dsimp only
  (repeat' split) <;> simp

theorem execPowerInfo_only {e : Sqe} {mw : Nat} {s : State} {u₀ : State} (h : execPowerInfo e mw s = .next u₀) :
    Only [.out, .heldOut, .regs, .pcie, .rings] s u₀ := by
  refine runCommand_only h (by decide) (fun x => ?_)
  try dsimp only
  (repeat' split) <;> simp

theorem execDevReset_only {e : Sqe} {s : State} {u₀ : State} (h : execDevReset e s = .next u₀) :
    Only [.out, .heldOut, .free, .pilot, .regs, .pcie, .log, .logWritten, .rings, .resetting, .quiesce, .lines, .pulses, .channels, .sideband, .tables, .dead, .commits, .commitLog, .cancelled, .marver] s u₀ := by
  refine runCommand_only h (by decide) (fun x => ?_)
  try dsimp only
  (repeat' split) <;> simp

theorem execRecoveryReport_only {e : Sqe} {s : State} {u₀ : State} (h : execRecoveryReport e s = .next u₀) :
    Only [.out, .heldOut, .regs, .pcie, .rings] s u₀ := by
  refine runCommand_only h (by decide) (fun x => ?_)
  try dsimp only
  (repeat' split) <;> simp

theorem execExpertEnter_only {e : Sqe} {s : State} {u₀ : State} (h : execExpertEnter e s = .next u₀) :
    Only [.out, .heldOut, .regs, .pcie, .rings] s u₀ := by
  refine runCommand_only h (by decide) (fun x => ?_)
  try dsimp only
  (repeat' split) <;> simp

theorem execExpertLeave_only {e : Sqe} {s : State} {u₀ : State} (h : execExpertLeave e s = .next u₀) :
    Only [.out, .heldOut, .regs, .pcie, .rings] s u₀ := by
  refine runCommand_only h (by decide) (fun x => ?_)
  try dsimp only
  (repeat' split) <;> simp

theorem execErrlogRead_only {e : Sqe} {s : State} {u₀ : State} (h : execErrlogRead e s = .next u₀) :
    Only [.out, .heldOut, .regs, .pcie, .rings] s u₀ := by
  refine runCommand_only h (by decide) (fun x => ?_)
  try dsimp only
  (repeat' split) <;> simp

theorem execErrlogClear_only {e : Sqe} {s : State} {u₀ : State} (h : execErrlogClear e s = .next u₀) :
    Only [.out, .heldOut, .regs, .pcie, .log, .logWritten, .rings] s u₀ := by
  refine runCommand_only h (by decide) (fun x => ?_)
  try dsimp only
  (repeat' split) <;> simp

theorem execNop_only {e : Sqe} {s : State} {u₀ : State} (h : execNop e s = .next u₀) :
    Only [.out, .heldOut, .regs, .pcie, .rings] s u₀ := by
  refine runCommand_only h (by decide) (fun x => ?_)
  try dsimp only
  (repeat' split) <;> simp

theorem execQueueCfg_only {e : Sqe} {s : State} {u₀ : State} (h : execQueueCfg e s = .next u₀) :
    Only [.out, .heldOut, .regs, .pcie, .rings, .queueChanges] s u₀ := by
  refine runCommand_only h (by decide) (fun x => ?_)
  try dsimp only
  (repeat' split) <;> simp

theorem execQueueRemove_only {e : Sqe} {s : State} {u₀ : State} (h : execQueueRemove e s = .next u₀) :
    Only [.out, .heldOut, .regs, .pcie, .rings, .queueChanges] s u₀ := by
  refine runCommand_only h (by decide) (fun x => ?_)
  try dsimp only
  (repeat' split) <;> simp

theorem execQueueFlush_only {e : Sqe} {s : State} {u₀ : State} (h : execQueueFlush e s = .next u₀) :
    Only [.out, .heldOut, .regs, .pcie, .rings, .queueChanges] s u₀ := by
  refine runCommand_only h (by decide) (fun x => ?_)
  try dsimp only
  (repeat' split) <;> simp

theorem execQueueChangeApply_only {s : State} {u₀ : State} (h : execQueueChangeApply s = .next u₀) :
    Only [.out, .heldOut, .regs, .pcie, .log, .logWritten, .rings, .sideband, .queues, .queueChanges, .marver, .pcs, .regulator] s u₀ := by
  unfold execQueueChangeApply at h
  (repeat' split at h) <;> (injection h with h; subst h; simp)

theorem execQueueInfo_only {e : Sqe} {s : State} {u₀ : State} (h : execQueueInfo e s = .next u₀) :
    Only [.out, .heldOut, .regs, .pcie, .log, .logWritten, .rings, .sideband, .queues] s u₀ := by
  refine runCommand_only h (by decide) (fun x => ?_)
  try dsimp only
  (repeat' split) <;> simp

theorem execSnapshotTake_only {e : Sqe} {s : State} {u₀ : State} (h : execSnapshotTake e s = .next u₀) :
    Only [.out, .heldOut, .regs, .pcie, .rings, .snapPending] s u₀ := by
  refine runCommand_only h (by decide) (fun x => ?_)
  try dsimp only
  (repeat' split) <;> simp

theorem execSnapshotRead_only {e : Sqe} {s : State} {u₀ : State} (h : execSnapshotRead e s = .next u₀) :
    Only [.out, .heldOut, .regs, .pcie, .rings] s u₀ := by
  refine runCommand_only h (by decide) (fun x => ?_)
  try dsimp only
  (repeat' split) <;> simp

theorem execQueueReserve_only {e : Sqe} {s : State} {u₀ : State} (h : execQueueReserve e s = .next u₀) :
    Only [.out, .heldOut, .regs, .pcie, .rings, .queueChanges] s u₀ := by
  refine runCommand_only h (by decide) (fun x => ?_)
  try dsimp only
  (repeat' split) <;> simp

theorem execQmPrefetch_only {e : Sqe} {s : State} {u₀ : State} (h : execQmPrefetch e s = .next u₀) :
    Only [.out, .heldOut, .regs, .pcie, .rings] s u₀ := by
  refine runCommand_only h (by decide) (fun x => ?_)
  try dsimp only
  (repeat' split) <;> simp

theorem execTableCreate_only {e : Sqe} {s : State} {u₀ : State} (h : execTableCreate e s = .next u₀) :
    Only [.out, .heldOut, .regs, .pcie, .rings, .tables, .marver, .placed] s u₀ := by
  refine runCommand_only h (by decide) (fun x => ?_)
  try dsimp only
  (repeat' split) <;> simp

theorem execTableDelete_only {e : Sqe} {s : State} {u₀ : State} (h : execTableDelete e s = .next u₀) :
    Only [.out, .heldOut, .regs, .pcie, .rings, .lines, .pulses, .tables, .dead, .commits, .commitLog, .marver] s u₀ := by
  refine runCommand_only h (by decide) (fun x => ?_)
  try dsimp only
  (repeat' split) <;> simp

theorem execTableRowsReturn_only {n : Nat} {s : State} {u₀ : State} (h : execTableRowsReturn n s = .next u₀) :
    Only [.regs, .dead, .marver] s u₀ := by
  unfold execTableRowsReturn at h
  (repeat' split at h) <;> (injection h with h; subst h; simp)

theorem execTableInfo_only {e : Sqe} {s : State} {u₀ : State} (h : execTableInfo e s = .next u₀) :
    Only [.out, .heldOut, .regs, .pcie, .rings] s u₀ := by
  refine runCommand_only h (by decide) (fun x => ?_)
  try dsimp only
  (repeat' split) <;> simp

theorem execTableResize_only {e : Sqe} {s : State} {u₀ : State} (h : execTableResize e s = .next u₀) :
    Only [.out, .heldOut, .regs, .pcie, .rings, .tables, .marver, .pcs, .regulator] s u₀ := by
  refine runCommand_only h (by decide) (fun x => ?_)
  try dsimp only
  (repeat' split) <;> simp

theorem execCntDump_only {e : Sqe} {s : State} {u₀ : State} (h : execCntDump e s = .next u₀) :
    Only [.out, .heldOut, .regs, .pcie, .rings, .tables, .marver, .pcs, .regulator] s u₀ := by
  refine runCommand_only h (by decide) (fun x => ?_)
  try dsimp only
  (repeat' split) <;> simp

theorem execTableTune_only {e : Sqe} {s : State} {u₀ : State} (h : execTableTune e s = .next u₀) :
    Only [.out, .heldOut, .regs, .pcie, .rings, .tables, .marver, .pcs, .regulator] s u₀ := by
  refine runCommand_only h (by decide) (fun x => ?_)
  try dsimp only
  (repeat' split) <;> simp

theorem execTableUpdate_only {e : Sqe} {h : HostRead} {s : State} {u₀ : State} (h : execTableUpdate e h s = .next u₀) :
    Only [.out, .heldOut, .regs, .pcie, .rings, .tables, .pcs, .regulator] s u₀ := by
  refine runCommand_only h (by decide) (fun x => ?_)
  try dsimp only
  (repeat' split) <;> simp

theorem execTableImage_only {e : Sqe} {s : State} {u₀ : State} (h : execTableImage e s = .next u₀) :
    Only [.out, .heldOut, .regs, .pcie, .rings, .tables, .marver] s u₀ := by
  refine runCommand_only h (by decide) (fun x => ?_)
  try dsimp only
  (repeat' split) <;> simp

theorem execTableCommit_only {e : Sqe} {s : State} {u₀ : State} (h : execTableCommit e s = .next u₀) :
    Only [.out, .heldOut, .time, .regs, .pcie, .rings, .tables, .commits] s u₀ := by
  refine runCommand_only h (by decide) (fun x => ?_)
  try dsimp only
  (repeat' split) <;> simp

theorem execImageBuildDone_only {n : Nat} {s : State} {u₀ : State} (h : execImageBuildDone n s = .next u₀) :
    Only [.out, .heldOut, .regs, .pcie, .rings, .lines, .pulses, .tables, .commits, .commitLog, .marver, .pcs, .regulator] s u₀ := by
  unfold execImageBuildDone at h
  try dsimp only at h
  (repeat' split at h) <;> (injection h with h; subst h; simp) <;> (repeat' split) <;> simp

theorem execCommitEffectTick_only {n : Nat} {s : State} {u₀ : State} (h : execCommitEffectTick n s = .next u₀) :
    Only [.out, .heldOut, .time, .regs, .pcie, .rings, .lines, .pulses, .tables, .dead, .commits, .commitLog, .marver] s u₀ := by
  unfold execCommitEffectTick at h
  (repeat' split at h) <;> (injection h with h; subst h; simp)

theorem execCommitCutTimeout_only {n : Nat} {s : State} {u₀ : State} (h : execCommitCutTimeout n s = .next u₀) :
    Only [.out, .heldOut, .time, .regs, .pcie, .rings, .lines, .pulses, .tables, .dead, .commits, .commitLog, .marver] s u₀ := by
  unfold execCommitCutTimeout at h
  (repeat' split at h) <;> (injection h with h; subst h; simp)

theorem execVersionRowsRelease_only {n : Nat} {s : State} {u₀ : State} (h : execVersionRowsRelease n s = .next u₀) :
    Only [.regs, .tables, .marver] s u₀ := by
  unfold execVersionRowsRelease at h
  (repeat' split at h) <;> (injection h with h; subst h; simp)

theorem execTableAbort_only {e : Sqe} {s : State} {u₀ : State} (h : execTableAbort e s = .next u₀) :
    Only [.out, .heldOut, .regs, .pcie, .rings, .lines, .pulses, .tables, .commits, .commitLog, .marver] s u₀ := by
  refine runCommand_only h (by decide) (fun x => ?_)
  try dsimp only
  (repeat' split) <;> simp

theorem execCommitLog_only {e : Sqe} {s : State} {u₀ : State} (h : execCommitLog e s = .next u₀) :
    Only [.out, .heldOut, .regs, .pcie, .rings] s u₀ := by
  refine runCommand_only h (by decide) (fun x => ?_)
  try dsimp only
  (repeat' split) <;> simp

theorem execMemSplit_only {e : Sqe} {s : State} {u₀ : State} (h : execMemSplit e s = .next u₀) :
    Only [.out, .heldOut, .regs, .pcie, .rings, .marver] s u₀ := by
  refine runCommand_only h (by decide) (fun x => ?_)
  try dsimp only
  (repeat' split) <;> simp

theorem execPlacementInfo_only {e : Sqe} {s : State} {u₀ : State} (h : execPlacementInfo e s = .next u₀) :
    Only [.out, .heldOut, .regs, .pcie, .rings] s u₀ := by
  refine runCommand_only h (by decide) (fun x => ?_)
  try dsimp only
  (repeat' split) <;> simp

theorem execTierReport_only {e : Sqe} {s : State} {u₀ : State} (h : execTierReport e s = .next u₀) :
    Only [.out, .heldOut, .regs, .pcie, .rings] s u₀ := by
  refine runCommand_only h (by decide) (fun x => ?_)
  try dsimp only
  (repeat' split) <;> simp

theorem execMvTune_only {e : Sqe} {s : State} {u₀ : State} (h : execMvTune e s = .next u₀) :
    Only [.out, .heldOut, .regs, .pcie, .rings, .marver] s u₀ := by
  refine runCommand_only h (by decide) (fun x => ?_)
  try dsimp only
  (repeat' split) <;> simp

theorem execMvTableHint_only {e : Sqe} {s : State} {u₀ : State} (h : execMvTableHint e s = .next u₀) :
    Only [.out, .heldOut, .regs, .pcie, .rings, .marver] s u₀ := by
  refine runCommand_only h (by decide) (fun x => ?_)
  try dsimp only
  (repeat' split) <;> simp

theorem execMemInfo_only {e : Sqe} {s : State} {u₀ : State} (h : execMemInfo e s = .next u₀) :
    Only [.out, .heldOut, .regs, .pcie, .rings] s u₀ := by
  refine runCommand_only h (by decide) (fun x => ?_)
  try dsimp only
  (repeat' split) <;> simp

theorem execMcPolicy_only {e : Sqe} {s : State} {u₀ : State} (h : execMcPolicy e s = .next u₀) :
    Only [.out, .heldOut, .regs, .pcie, .rings] s u₀ := by
  refine runCommand_only h (by decide) (fun x => ?_)
  try dsimp only
  (repeat' split) <;> simp

theorem execMcTargets_only {e : Sqe} {s : State} {u₀ : State} (h : execMcTargets e s = .next u₀) :
    Only [.out, .heldOut, .regs, .pcie, .rings] s u₀ := by
  refine runCommand_only h (by decide) (fun x => ?_)
  try dsimp only
  (repeat' split) <;> simp

theorem execIntegrityInfo_only {e : Sqe} {s : State} {u₀ : State} (h : execIntegrityInfo e s = .next u₀) :
    Only [.out, .heldOut, .regs, .pcie, .rings] s u₀ := by
  refine runCommand_only h (by decide) (fun x => ?_)
  try dsimp only
  (repeat' split) <;> simp

theorem execScrubCfg_only {e : Sqe} {s : State} {u₀ : State} (h : execScrubCfg e s = .next u₀) :
    Only [.out, .heldOut, .regs, .pcie, .rings, .integrity] s u₀ := by
  refine runCommand_only h (by decide) (fun x => ?_)
  try dsimp only
  (repeat' split) <;> simp

theorem execBucketCfg_only {e : Sqe} {s : State} {u₀ : State} (h : execBucketCfg e s = .next u₀) :
    Only [.out, .heldOut, .regs, .pcie, .rings, .integrity] s u₀ := by
  refine runCommand_only h (by decide) (fun x => ?_)
  try dsimp only
  (repeat' split) <;> simp

theorem execRetireCfg_only {e : Sqe} {s : State} {u₀ : State} (h : execRetireCfg e s = .next u₀) :
    Only [.out, .heldOut, .regs, .pcie, .rings] s u₀ := by
  refine runCommand_only h (by decide) (fun x => ?_)
  try dsimp only
  (repeat' split) <;> simp

theorem execStageMap_only {e : Sqe} {s : State} {u₀ : State} (h : execStageMap e s = .next u₀) :
    Only [.out, .heldOut, .regs, .pcie, .rings] s u₀ := by
  refine runCommand_only h (by decide) (fun x => ?_)
  try dsimp only
  (repeat' split) <;> simp

theorem execBudgetSet_only {e : Sqe} {h : HostRead} {s : State} {u₀ : State} (h : execBudgetSet e h s = .next u₀) :
    Only [.out, .heldOut, .regs, .pcie, .log, .logWritten, .rings, .lines, .pulses, .sideband, .regulator] s u₀ := by
  refine runCommand_only h (by decide) (fun x => ?_)
  try dsimp only
  (repeat' split) <;> simp

theorem execBudgetGet_only {e : Sqe} {s : State} {u₀ : State} (h : execBudgetGet e s = .next u₀) :
    Only [.out, .heldOut, .regs, .pcie, .rings] s u₀ := by
  refine runCommand_only h (by decide) (fun x => ?_)
  try dsimp only
  (repeat' split) <;> simp

theorem execRegStatus_only {e : Sqe} {s : State} {u₀ : State} (h : execRegStatus e s = .next u₀) :
    Only [.out, .heldOut, .regs, .pcie, .rings] s u₀ := by
  refine runCommand_only h (by decide) (fun x => ?_)
  try dsimp only
  (repeat' split) <;> simp

theorem execRegWindow_only {e : Sqe} {s : State} {u₀ : State} (h : execRegWindow e s = .next u₀) :
    Only [.out, .heldOut, .regs, .pcie, .rings] s u₀ := by
  refine runCommand_only h (by decide) (fun x => ?_)
  try dsimp only
  (repeat' split) <;> simp

theorem execRgCfgWindowWrite_only {v : Nat} {s : State} {u₀ : State} (h : execRgCfgWindowWrite v s = .next u₀) :
    Only [.out, .regs, .pcie, .log, .logWritten, .sideband] s u₀ := by
  unfold execRgCfgWindowWrite at h
  try dsimp only at h
  (repeat' split at h) <;> first
    | (injection h with h; subst h; simp; done)
    | (rename_i hr; injection h with h; subst h; exact (State.refusesWrite_only _ _ _ hr).mono (by decide))

theorem execRegPlan_only {e : Sqe} {s : State} {u₀ : State} (h : execRegPlan e s = .next u₀) :
    Only [.out, .heldOut, .regs, .pcie, .rings] s u₀ := by
  refine runCommand_only h (by decide) (fun x => ?_)
  try dsimp only
  (repeat' split) <;> simp

theorem execThermRead_only {e : Sqe} {s : State} {u₀ : State} (h : execThermRead e s = .next u₀) :
    Only [.out, .heldOut, .regs, .pcie, .rings] s u₀ := by
  refine runCommand_only h (by decide) (fun x => ?_)
  try dsimp only
  (repeat' split) <;> simp

theorem execThermLimits_only {e : Sqe} {s : State} {u₀ : State} (h : execThermLimits e s = .next u₀) :
    Only [.out, .heldOut, .regs, .pcie, .rings] s u₀ := by
  refine runCommand_only h (by decide) (fun x => ?_)
  try dsimp only
  (repeat' split) <;> simp

theorem execThermWarnSet_only {e : Sqe} {s : State} {u₀ : State} (h : execThermWarnSet e s = .next u₀) :
    Only [.out, .heldOut, .regs, .pcie, .rings] s u₀ := by
  refine runCommand_only h (by decide) (fun x => ?_)
  try dsimp only
  (repeat' split) <;> simp

theorem execThermLimitSet_only {e : Sqe} {s : State} {u₀ : State} (h : execThermLimitSet e s = .next u₀) :
    Only [.out, .heldOut, .regs, .pcie, .rings] s u₀ := by
  refine runCommand_only h (by decide) (fun x => ?_)
  try dsimp only
  (repeat' split) <;> simp

theorem execQuenchReq_only {e : Sqe} {s : State} {u₀ : State} (h : execQuenchReq e s = .next u₀) :
    Only [.out, .heldOut, .dom, .regs, .pcie, .log, .logWritten, .rings, .lines, .pulses, .thermal, .sideband, .ports, .lanes, .tables, .pcs, .regulator] s u₀ := by
  refine runCommand_only h (by decide) (fun x => ?_)
  try dsimp only
  (repeat' split) <;> simp

theorem execBistRun_only {e : Sqe} {s : State} {u₀ : State} (h : execBistRun e s = .next u₀) :
    Only [.out, .heldOut, .free, .regs, .pcie, .log, .logWritten, .rings, .test, .sideband, .tables, .marver, .pcs, .stageRows, .mem, .integrity, .regulator] s u₀ := by
  refine runCommand_only h (by decide) (fun x => ?_)
  try dsimp only
  (repeat' split) <;> simp

theorem execBistUnitDone_only {k : UnitKind} {u : Nat} {pass : Bool} {s : State} {u₀ : State} (h : execBistUnitDone k u pass s = .next u₀) :
    Only [.out, .heldOut, .free, .dom, .regs, .pcie, .log, .logWritten, .rings, .test, .sideband, .ports, .tables, .engineQueues, .marver, .pcs, .stageRows, .mem, .integrity, .regulator] s u₀ := by
  unfold execBistUnitDone at h
  (repeat' split at h) <;> (injection h with h; subst h; simp)

theorem execCulletGet_only {e : Sqe} {s : State} {u₀ : State} (h : execCulletGet e s = .next u₀) :
    Only [.out, .heldOut, .regs, .pcie, .rings] s u₀ := by
  refine runCommand_only h (by decide) (fun x => ?_)
  try dsimp only
  (repeat' split) <;> simp

theorem execCulletAdd_only {e : Sqe} {h : HostRead} {s : State} {u₀ : State} (h : execCulletAdd e h s = .next u₀) :
    Only [.out, .heldOut, .free, .dom, .regs, .pcie, .log, .logWritten, .rings, .sideband, .ports, .tables, .engineQueues, .marver, .pcs, .regulator] s u₀ := by
  refine runCommand_only h (by decide) (fun x => ?_)
  try dsimp only
  (repeat' split) <;> simp

theorem execCalSave_only {e : Sqe} {s : State} {u₀ : State} (h : execCalSave e s = .next u₀) :
    Only [.out, .heldOut, .regs, .pcie, .rings] s u₀ := by
  refine runCommand_only h (by decide) (fun x => ?_)
  try dsimp only
  (repeat' split) <;> simp

theorem execCalRestore_only {e : Sqe} {h : HostRead} {s : State} {u₀ : State} (h : execCalRestore e h s = .next u₀) :
    Only [.out, .heldOut, .regs, .pcie, .log, .logWritten, .rings, .test, .sideband, .tables, .marver, .pcs, .regulator] s u₀ := by
  refine runCommand_only h (by decide) (fun x => ?_)
  try dsimp only
  (repeat' split) <;> simp

theorem execCalCfg_only {e : Sqe} {s : State} {u₀ : State} (h : execCalCfg e s = .next u₀) :
    Only [.out, .heldOut, .regs, .pcie, .rings] s u₀ := by
  refine runCommand_only h (by decide) (fun x => ?_)
  try dsimp only
  (repeat' split) <;> simp

theorem execFwLoad_only {e : Sqe} {h : ImageRead} {s : State} {u₀ : State} (h : execFwLoad e h s = .next u₀) :
    Only [.out, .heldOut, .pilot, .regs, .pcie, .rings, .trust, .ports, .lanes, .tables, .commits, .commitLog, .recovered, .marver] s u₀ := by
  refine runCommand_only h (by decide) (fun x => ?_)
  try dsimp only
  (repeat' split) <;> simp

theorem execFwStore_only {e : Sqe} {h : ImageRead} {s : State} {u₀ : State} (h : execFwStore e h s = .next u₀) :
    Only [.out, .heldOut, .regs, .pcie, .rings, .trust] s u₀ := by
  refine runCommand_only h (by decide) (fun x => ?_)
  try dsimp only
  (repeat' split) <;> simp

theorem execFwInfo_only {e : Sqe} {s : State} {u₀ : State} (h : execFwInfo e s = .next u₀) :
    Only [.out, .heldOut, .regs, .pcie, .rings] s u₀ := by
  refine runCommand_only h (by decide) (fun x => ?_)
  try dsimp only
  (repeat' split) <;> simp

end Sys2Proof.Machine
end

