-- ==== Sys2Proof/Laws/FrameExecC.lean ====
section
/-!
SUPPORT. What each command leaves unchanged: one lemma for each meaning.
-/
namespace Sys2Proof.Machine

theorem execRollbackAdvance_only {e : Sqe} {vprog : Bool} {o : FuseOutcome} {s : State} {u₀ : State} (h : execRollbackAdvance e vprog o s = .next u₀) :
    Only [.out, .heldOut, .regs, .pcie, .log, .logWritten, .rings, .fuses, .trust, .sideband] s u₀ := by
  unfold execRollbackAdvance at h
  split at h
  · injection h with h
    subst h
    simp
  · refine runCommand_only h (by decide) (fun x => ?_)
    try dsimp only
    (repeat' split) <;> first
      | (simp; done)
      | exact Only.trans (t := x.resumeJob) (by simp) (State.withVprog_only (by decide) (fun y => State.program_only (by decide) (fun z => by simp)))
      | exact Only.trans (t := x.resumeJob) (by simp) (State.withVprog_only (by decide) (fun y => by (try dsimp only); (repeat' split) <;> simp))
      | exact State.withVprog_only (by decide) (fun y => State.program_only (by decide) (fun z => by simp))
      | exact State.withVprog_only (by decide) (fun y => by (try dsimp only); (repeat' split) <;> simp)

theorem execAttest_only {e : Sqe} {s : State} {u₀ : State} (h : execAttest e s = .next u₀) :
    Only [.out, .heldOut, .regs, .pcie, .rings] s u₀ := by
  refine runCommand_only h (by decide) (fun x => ?_)
  try dsimp only
  (repeat' split) <;> simp

theorem execIdKeyRead_only {e : Sqe} {s : State} {u₀ : State} (h : execIdKeyRead e s = .next u₀) :
    Only [.out, .heldOut, .regs, .pcie, .rings] s u₀ := by
  refine runCommand_only h (by decide) (fun x => ?_)
  try dsimp only
  (repeat' split) <;> simp

theorem execFuseRead_only {e : Sqe} {s : State} {u₀ : State} (h : execFuseRead e s = .next u₀) :
    Only [.out, .heldOut, .regs, .pcie, .rings] s u₀ := by
  refine runCommand_only h (by decide) (fun x => ?_)
  try dsimp only
  (repeat' split) <;> simp

theorem execFuseProgram_only {e : Sqe} {h : HostRead} {vprog : Bool} {o : FuseOutcome} {s : State} {u₀ : State} (h : execFuseProgram e h vprog o s = .next u₀) :
    Only [.out, .heldOut, .regs, .pcie, .log, .logWritten, .rings, .fuses, .trust, .sideband] s u₀ := by
  unfold execFuseProgram at h
  split at h
  · injection h with h
    subst h
    simp
  · refine runCommand_only h (by decide) (fun x => ?_)
    try dsimp only
    (repeat' split) <;> first
      | (simp; done)
      | exact Only.trans (t := x.resumeJob) (by simp) (State.withVprog_only (by decide) (fun y => State.program_only (by decide) (fun z => by simp)))
      | exact Only.trans (t := x.resumeJob) (by simp) (State.withVprog_only (by decide) (fun y => by (try dsimp only); (repeat' split) <;> simp))
      | exact State.withVprog_only (by decide) (fun y => State.program_only (by decide) (fun z => by simp))
      | exact State.withVprog_only (by decide) (fun y => by (try dsimp only); (repeat' split) <;> simp)

theorem execFuseLock_only {e : Sqe} {vprog : Bool} {o : FuseOutcome} {s : State} {u₀ : State} (h : execFuseLock e vprog o s = .next u₀) :
    Only [.out, .heldOut, .regs, .pcie, .log, .logWritten, .rings, .fuses, .trust, .sideband] s u₀ := by
  unfold execFuseLock at h
  split at h
  · injection h with h
    subst h
    simp
  · refine runCommand_only h (by decide) (fun x => ?_)
    try dsimp only
    (repeat' split) <;> first
      | (simp; done)
      | exact Only.trans (t := x.resumeJob) (by simp) (State.withVprog_only (by decide) (fun y => State.program_only (by decide) (fun z => by simp)))
      | exact Only.trans (t := x.resumeJob) (by simp) (State.withVprog_only (by decide) (fun y => by (try dsimp only); (repeat' split) <;> simp))
      | exact State.withVprog_only (by decide) (fun y => State.program_only (by decide) (fun z => by simp))
      | exact State.withVprog_only (by decide) (fun y => by (try dsimp only); (repeat' split) <;> simp)

theorem execFuseResense_only {e : Sqe} {r : Resense} {s : State} {u₀ : State} (h : execFuseResense e r s = .next u₀) :
    Only [.out, .heldOut, .regs, .pcie, .log, .logWritten, .rings, .sideband] s u₀ := by
  unfold execFuseResense at h
  split at h
  · injection h with h
    subst h
    simp
  · refine runCommand_only h (by decide) (fun x => ?_)
    try dsimp only
    (repeat' split) <;> first
      | (simp; done)
      | exact Only.trans (t := x.resumeJob) (by simp) (State.withVprog_only (by decide) (fun y => State.program_only (by decide) (fun z => by simp)))
      | exact Only.trans (t := x.resumeJob) (by simp) (State.withVprog_only (by decide) (fun y => by (try dsimp only); (repeat' split) <;> simp))
      | exact State.withVprog_only (by decide) (fun y => State.program_only (by decide) (fun z => by simp))
      | exact State.withVprog_only (by decide) (fun y => by (try dsimp only); (repeat' split) <;> simp)

theorem execFuseResenseTimer_only {r : Resense} {s : State} {u₀ : State} (h : execFuseResenseTimer r s = .next u₀) :
    Only [.out, .regs, .pcie, .log, .logWritten, .sideband] s u₀ := by
  unfold execFuseResenseTimer at h
  (repeat' split at h) <;> (injection h with h; subst h; simp)

theorem execKeyRevoke_only {e : Sqe} {vprog : Bool} {o : FuseOutcome} {s : State} {u₀ : State} (h : execKeyRevoke e vprog o s = .next u₀) :
    Only [.out, .heldOut, .regs, .pcie, .log, .logWritten, .rings, .fuses, .trust, .sideband] s u₀ := by
  unfold execKeyRevoke at h
  split at h
  · injection h with h
    subst h
    simp
  · refine runCommand_only h (by decide) (fun x => ?_)
    try dsimp only
    (repeat' split) <;> first
      | (simp; done)
      | exact Only.trans (t := x.resumeJob) (by simp) (State.withVprog_only (by decide) (fun y => State.program_only (by decide) (fun z => by simp)))
      | exact Only.trans (t := x.resumeJob) (by simp) (State.withVprog_only (by decide) (fun y => by (try dsimp only); (repeat' split) <;> simp))
      | exact State.withVprog_only (by decide) (fun y => State.program_only (by decide) (fun z => by simp))
      | exact State.withVprog_only (by decide) (fun y => by (try dsimp only); (repeat' split) <;> simp)

theorem execEvSource_only {e : Sqe} {s : State} {u₀ : State} (h : execEvSource e s = .next u₀) :
    Only [.out, .heldOut, .regs, .pcie, .rings] s u₀ := by
  refine runCommand_only h (by decide) (fun x => ?_)
  try dsimp only
  (repeat' split) <;> simp

theorem execEvSink_only {e : Sqe} {s : State} {u₀ : State} (h : execEvSink e s = .next u₀) :
    Only [.out, .heldOut, .regs, .pcie, .rings] s u₀ := by
  refine runCommand_only h (by decide) (fun x => ?_)
  try dsimp only
  (repeat' split) <;> simp

theorem execEvPulse_only {e : Sqe} {s : State} {u₀ : State} (h : execEvPulse e s = .next u₀) :
    Only [.out, .heldOut, .regs, .pcie, .rings, .lines, .pulses] s u₀ := by
  refine runCommand_only h (by decide) (fun x => ?_)
  try dsimp only
  (repeat' split) <;> simp

theorem execEvSwPulseWrite_only {v : Nat} {s : State} {u₀ : State} (h : execEvSwPulseWrite v s = .next u₀) :
    Only [.out, .regs, .pcie, .log, .logWritten, .lines, .pulses, .sideband] s u₀ := by
  unfold execEvSwPulseWrite at h
  try dsimp only at h
  (repeat' split at h) <;> first
    | (injection h with h; subst h; simp; done)
    | (rename_i hr; injection h with h; subst h; exact (State.refusesWrite_only _ _ _ hr).mono (by decide))

theorem execEvInfo_only {e : Sqe} {s : State} {u₀ : State} (h : execEvInfo e s = .next u₀) :
    Only [.out, .heldOut, .regs, .pcie, .rings] s u₀ := by
  refine runCommand_only h (by decide) (fun x => ?_)
  try dsimp only
  (repeat' split) <;> simp

theorem execEventPulseDelivery_only {s : State} {u₀ : State} (h : execEventPulseDelivery s = .next u₀) :
    Only [.out, .regs, .pcie, .log, .logWritten, .lines, .pulses, .channels, .sideband, .snapPending, .tables, .commits] s u₀ := by
  unfold execEventPulseDelivery at h
  (repeat' split at h) <;> (injection h with h; subst h; simp)

theorem execBmChannelCfg_only {e : Sqe} {s : State} {u₀ : State} (h : execBmChannelCfg e s = .next u₀) :
    Only [.out, .heldOut, .regs, .pcie, .rings] s u₀ := by
  refine runCommand_only h (by decide) (fun x => ?_)
  try dsimp only
  (repeat' split) <;> simp

theorem execBmNosnoop_only {e : Sqe} {s : State} {u₀ : State} (h : execBmNosnoop e s = .next u₀) :
    Only [.out, .heldOut, .regs, .pcie, .rings] s u₀ := by
  refine runCommand_only h (by decide) (fun x => ?_)
  try dsimp only
  (repeat' split) <;> simp

theorem execBmChStart_only {q : Requester} {c : Nat} {s : State} {u₀ : State} (h : execBmChStart q c s = .next u₀) :
    Only [.out, .regs, .pcie, .log, .logWritten, .lines, .pulses, .channels, .sideband] s u₀ := by
  unfold execBmChStart at h
  try dsimp only at h
  (repeat' split at h) <;> first
    | (injection h with h; subst h; simp; done)
    | (rename_i hr; injection h with h; subst h; exact (State.refusesWrite_only _ _ _ hr).mono (by decide))

theorem execBmChArm_only {q : Requester} {c : Nat} {s : State} {u₀ : State} (h : execBmChArm q c s = .next u₀) :
    Only [.out, .regs, .pcie, .log, .logWritten, .sideband] s u₀ := by
  unfold execBmChArm at h
  try dsimp only at h
  (repeat' split at h) <;> first
    | (injection h with h; subst h; simp; done)
    | (rename_i hr; injection h with h; subst h; exact (State.refusesWrite_only _ _ _ hr).mono (by decide))

theorem execBmChClear_only {q : Requester} {c : Nat} {s : State} {u₀ : State} (h : execBmChClear q c s = .next u₀) :
    Only [.out, .regs, .pcie, .log, .logWritten, .sideband] s u₀ := by
  unfold execBmChClear at h
  try dsimp only at h
  (repeat' split at h) <;> first
    | (injection h with h; subst h; simp; done)
    | (rename_i hr; injection h with h; subst h; exact (State.refusesWrite_only _ _ _ hr).mono (by decide))

theorem execBmDescriptorFetchDone_only {c : Nat} {h : DescriptorRead} {s : State} {u₀ : State} (h : execBmDescriptorFetchDone c h s = .next u₀) :
    Only [.out, .regs, .pcie, .log, .logWritten, .lines, .pulses, .channels, .sideband] s u₀ := by
  unfold execBmDescriptorFetchDone at h
  try dsimp only at h
  (repeat' split at h) <;> (injection h with h; subst h; simp) <;> (repeat' split) <;> simp

theorem execBmDescriptorEnd_only {c : Nat} {src : List Byte} {dst : List Byte} {s : State} {u₀ : State} (h : execBmDescriptorEnd c src dst s = .next u₀) :
    Only [.out, .heldOut, .regs, .pcie, .log, .logWritten, .lines, .pulses, .channels, .sideband, .tables, .marver, .pcs, .stageRows, .mem, .integrity, .regulator] s u₀ := by
  unfold execBmDescriptorEnd at h
  try dsimp only at h
  (repeat' split at h) <;> (injection h with h; subst h; simp) <;> (repeat' split) <;> simp

theorem execBmChannelHalt_only {c : Nat} {cause : HaltCause} {bytes : Nat} {s : State} {u₀ : State} (h : execBmChannelHalt c cause bytes s = .next u₀) :
    Only [.out, .regs, .pcie, .log, .logWritten, .lines, .pulses, .channels, .sideband] s u₀ := by
  unfold execBmChannelHalt at h
  (repeat' split at h) <;> (injection h with h; subst h; simp)

theorem execTeLatClear_only {s : State} {u₀ : State} (h : execTeLatClear s = .next u₀) :
    Only [.out, .regs, .pcie, .log, .logWritten, .sideband, .latency] s u₀ := by
  unfold execTeLatClear at h
  try dsimp only at h
  (repeat' split at h) <;> first
    | (injection h with h; subst h; simp; done)
    | (rename_i hr; injection h with h; subst h; exact (State.refusesWrite_only _ _ _ hr).mono (by decide))

theorem execLinkRetrain_only {e : Sqe} {s : State} {u₀ : State} (h : execLinkRetrain e s = .next u₀) :
    Only [.out, .heldOut, .regs, .pcie, .rings, .ports, .lanes] s u₀ := by
  refine runCommand_only h (by decide) (fun x => ?_)
  try dsimp only
  (repeat' split) <;> simp

theorem execLinkPowerCfg_only {e : Sqe} {s : State} {u₀ : State} (h : execLinkPowerCfg e s = .next u₀) :
    Only [.out, .heldOut, .regs, .pcie, .rings] s u₀ := by
  refine runCommand_only h (by decide) (fun x => ?_)
  try dsimp only
  (repeat' split) <;> simp

theorem execLinkDisable_only {e : Sqe} {s : State} {u₀ : State} (h : execLinkDisable e s = .next u₀) :
    Only [.out, .heldOut, .regs, .pcie, .rings, .ports, .lanes] s u₀ := by
  refine runCommand_only h (by decide) (fun x => ?_)
  try dsimp only
  (repeat' split) <;> simp

theorem execLinkEqSet_only {e : Sqe} {s : State} {u₀ : State} (h : execLinkEqSet e s = .next u₀) :
    Only [.out, .heldOut, .regs, .pcie, .rings, .ports] s u₀ := by
  refine runCommand_only h (by decide) (fun x => ?_)
  try dsimp only
  (repeat' split) <;> simp

theorem execEpochBoundary_only {x : EpochInput} {s : State} {u₀ : State} (h : execEpochBoundary x s = .next u₀) :
    Only [.free, .time, .dom, .regs, .tables, .marver] s u₀ := by
  unfold execEpochBoundary at h
  (repeat' split at h) <;> (injection h with h; subst h; simp)

theorem execActivationWindowEnd_only {s : State} {u₀ : State} (h : execActivationWindowEnd s = .next u₀) :
    Only [.regs, .marver, .stageRows] s u₀ := by
  unfold execActivationWindowEnd at h
  (repeat' split at h) <;> (injection h with h; subst h; simp)

theorem execMcRequestArrival_only {r : MemReq} {s : State} {u₀ : State} (h : execMcRequestArrival r s = .next u₀) :
    Only [.out, .regs, .pcs, .regulator] s u₀ := by
  unfold execMcRequestArrival at h
  (repeat' split at h) <;> (injection h with h; subst h; simp)

theorem execMcCommandIssue_only {n : Nat} {eligible : List MemSlot} {z : State} {u₀ : State} (h : execMcCommandIssue n eligible z = .next u₀) :
    Only [.out, .free, .regs, .pcie, .log, .logWritten, .sideband, .ports, .tables, .dead, .commits, .engineQueues, .marver, .pcs, .stageRows, .windows, .mem, .integrity, .regulator] z u₀ := by
  unfold execMcCommandIssue at h
  try dsimp only at h
  (repeat' split at h) <;> (injection h with h; subst h; simp) <;> (repeat' split) <;> simp

theorem execRequestUrgencyStep_only {n : Nat} {write : Bool} {i : Nat} {s : State} {u₀ : State} (h : execRequestUrgencyStep n write i s = .next u₀) :
    Only [.regs, .pcs] s u₀ := by
  unfold execRequestUrgencyStep at h
  try dsimp only at h
  (repeat' split at h) <;> (injection h with h; subst h; simp) <;> (repeat' split) <;> simp

theorem execRefreshDue_only {n : Nat} {bank : Nat} {s : State} {u₀ : State} (h : execRefreshDue n bank s = .next u₀) :
    Only [.regs, .pcs] s u₀ := by
  unfold execRefreshDue at h
  try dsimp only at h
  (repeat' split at h) <;> (injection h with h; subst h; simp) <;> (repeat' split) <;> simp

theorem execPcPowerDownEntry_only {n : Nat} {s : State} {u₀ : State} (h : execPcPowerDownEntry n s = .next u₀) :
    Only [.regs, .pcs] s u₀ := by
  unfold execPcPowerDownEntry at h
  (repeat' split at h) <;> (injection h with h; subst h; simp)

theorem execPcSelfRefreshEntry_only {n : Nat} {s : State} {u₀ : State} (h : execPcSelfRefreshEntry n s = .next u₀) :
    Only [.regs, .pcs] s u₀ := by
  unfold execPcSelfRefreshEntry at h
  (repeat' split at h) <;> (injection h with h; subst h; simp)

theorem execCalibrationHold_only {x : CalInput} {s : State} {u₀ : State} (h : execCalibrationHold x s = .next u₀) :
    Only [.out, .regs, .pcie, .log, .logWritten, .test, .sideband, .tables, .marver, .pcs, .regulator] s u₀ := by
  unfold execCalibrationHold at h
  split at h
  · injection h with h; subst h; simp
  · split at h
    · injection h with h; subst h; simp
    · dsimp only at h
      split at h
      · injection h with h; subst h; simp
      · next hm =>
        have hu := State.markTsvs_only _ _ _ _ hm
        split at h <;> injection h with h <;> subst h
        · exact Only.trans (by simp) ((hu.mono (by decide)).trans (by simp))
        · exact Only.trans (by simp) ((hu.mono (by decide)).trans (by simp))

theorem execMemoryReadReturn_only {w : MemWord} {sy : Nat} {s : State} {u₀ : State} (h : execMemoryReadReturn w sy s = .next u₀) :
    Only [.out, .free, .regs, .pcie, .log, .logWritten, .trust, .sideband, .ports, .queues, .snapshots, .snapPending, .tables, .dead, .commits, .engineQueues, .marver, .pcs, .integrity, .regulator] s u₀ := by
  unfold execMemoryReadReturn at h
  (repeat' split at h) <;> (injection h with h; subst h; simp)

theorem execBucketLeak_only {u : Nat} {s : State} {u₀ : State} (h : execBucketLeak u s = .next u₀) :
    Only [.integrity] s u₀ := by
  unfold execBucketLeak at h
  try dsimp only at h
  (repeat' split at h) <;> (injection h with h; subst h; simp) <;> (repeat' split) <;> simp

theorem execFluxRewrite_only {s : State} {u₀ : State} (h : execFluxRewrite s = .next u₀) :
    Only [.regs, .tables, .integrity] s u₀ := by
  unfold execFluxRewrite at h
  (repeat' split at h) <;> (injection h with h; subst h; simp)

theorem execFluxRowScrub_only {n late : Nat} {found : List Found} {s : State} {u₀ : State} (h : execFluxRowScrub n late found s = .next u₀) :
    Only [.out, .free, .regs, .pcie, .log, .logWritten, .trust, .sideband, .ports, .queues, .snapshots, .snapPending, .tables, .dead, .commits, .engineQueues, .marver, .pcs, .integrity, .regulator] s u₀ := by
  unfold execFluxRowScrub at h
  try dsimp only at h
  (repeat' split at h) <;> (injection h with h; subst h; simp) <;> (repeat' split) <;> simp

theorem execCrucibleScrub_only {last : Bool} {found : List Found} {s : State} {u₀ : State} (h : execCrucibleScrub last found s = .next u₀) :
    Only [.out, .free, .regs, .pcie, .log, .logWritten, .trust, .sideband, .ports, .queues, .snapshots, .snapPending, .tables, .dead, .commits, .engineQueues, .marver, .pcs, .integrity, .regulator] s u₀ := by
  unfold execCrucibleScrub at h
  (repeat' split at h) <;> (injection h with h; subst h; simp)

theorem execSweepLate_only {n : Nat} {s : State} {u₀ : State} (h : execSweepLate n s = .next u₀) :
    Only [.out, .regs, .pcie, .log, .logWritten, .sideband] s u₀ := by
  unfold execSweepLate at h
  (repeat' split at h) <;> (injection h with h; subst h; simp)

theorem execMirrorRepair_only {ok : Bool} {s : State} {u₀ : State} (h : execMirrorRepair ok s = .next u₀) :
    Only [.out, .regs, .pcie, .log, .logWritten, .sideband, .tables, .marver, .integrity] s u₀ := by
  unfold execMirrorRepair at h
  (repeat' split at h) <;> (injection h with h; subst h; simp)

theorem execBankRetirement_only {pc : Nat} {bank : Nat} {s : State} {u₀ : State} (h : execBankRetirement pc bank s = .next u₀) :
    Only [.regs, .marver, .integrity, .regulator] s u₀ := by
  unfold execBankRetirement at h
  (repeat' split at h) <;> (injection h with h; subst h; simp)

theorem execRegWindowBoundary_only {s : State} {u₀ : State} (h : execRegWindowBoundary s = .next u₀) :
    Only [.out, .time, .regs, .pcie, .log, .logWritten, .lines, .pulses, .sideband, .pcs, .regulator] s u₀ := by
  unfold execRegWindowBoundary at h
  (repeat' split at h) <;> (injection h with h; subst h; simp)

theorem execHeartbeat_only {s : State} {u₀ : State} (h : execHeartbeat s = .next u₀) :
    Only [.pilot] s u₀ := by
  unfold execHeartbeat at h
  (repeat' split at h) <;> (injection h with h; subst h; simp)

theorem execFuseData_only {slot : Nat} {r : Nat} {first : Nat} {n : Nat} {s : State} {u₀ : State} (h : execFuseData slot r first n s = .next u₀) :
    Only [.out, .regs, .pcie, .log, .logWritten, .sideband] s u₀ := by
  unfold execFuseData at h
  (repeat' split at h) <;> (injection h with h; subst h; simp)

theorem execClosureState_only {slot : Nat} {s : State} {u₀ : State} (h : execClosureState slot s = .next u₀) :
    Only [.out] s u₀ := by
  unfold execClosureState at h
  (repeat' split at h) <;> (injection h with h; subst h; simp)

theorem execErrlogWrite_only {slot : Nat} {svPrefix : Bool} {code : Nat} {unitKind : Nat} {unit : Nat} {sub : Nat} {object : Nat} {data : Nat} {s : State} {u₀ : State} (h : execErrlogWrite slot svPrefix code unitKind unit sub object data s = .next u₀) :
    Only [.out, .regs, .pcie, .log, .logWritten, .sideband] s u₀ := by
  unfold execErrlogWrite at h
  (repeat' split at h) <;> (injection h with h; subst h; simp)

theorem execDeviceState_only {slot : Nat} {s : State} {u₀ : State} (h : execDeviceState slot s = .next u₀) :
    Only [.out] s u₀ := by
  unfold execDeviceState at h
  (repeat' split at h) <;> (injection h with h; subst h; simp)

theorem execMailboxRefused_only {slot : Nat} {kind : Nat} {s : State} {u₀ : State} (h : execMailboxRefused slot kind s = .next u₀) :
    Only [.out, .regs, .pcie, .log, .logWritten, .sideband] s u₀ := by
  unfold execMailboxRefused at h
  (repeat' split at h) <;> (injection h with h; subst h; simp)

theorem execSvWatchdogExpiry_only {s : State} {u₀ : State} (h : execSvWatchdogExpiry s = .next u₀) :
    Only [.out, .heldOut, .free, .pilot, .dom, .regs, .pcie, .log, .logWritten, .rings, .resetting, .quiesce, .test, .sideband, .queues, .queueChanges, .snapPending, .marver, .pcs, .regulator] s u₀ := by
  unfold execSvWatchdogExpiry at h
  (repeat' split at h) <;> (injection h with h; subst h; simp)

theorem execSvCoreHalt_only {s : State} {u₀ : State} (h : execSvCoreHalt s = .next u₀) :
    Only [.out, .heldOut, .free, .pilot, .dom, .regs, .pcie, .log, .logWritten, .rings, .resetting, .quiesce, .test, .sideband, .queues, .queueChanges, .snapPending, .marver, .pcs, .regulator] s u₀ := by
  unfold execSvCoreHalt at h
  (repeat' split at h) <;> (injection h with h; subst h; simp)

theorem execSvActionReset_only {s : State} {u₀ : State} (h : execSvActionReset s = .next u₀) :
    Only [.out, .heldOut, .free, .time, .pilot, .dom, .regs, .latches, .pcie, .rings, .resetting, .quiesce, .lines, .pulses, .channels, .fuses, .trust, .sensors, .layers, .thermal, .test, .sideband, .ports, .lanes, .queues, .queueChanges, .snapshots, .snapPending, .tables, .dead, .commits, .commitLog, .recovered, .cancelled, .recoveredCommits, .latency, .engineQueues, .marver, .pcs, .stageRows, .windows, .mem, .integrity, .regulator] s u₀ := by
  unfold execSvActionReset at h
  (repeat' split at h) <;> (injection h with h; subst h; simp)

theorem execAnvilHeartbeat_only {s : State} {u₀ : State} (h : execAnvilHeartbeat s = .next u₀) :
    Only [.pilot, .regs] s u₀ := by
  unfold execAnvilHeartbeat at h
  (repeat' split at h) <;> (injection h with h; subst h; simp)

theorem execAnvilSupervisorTimeout_only {s : State} {u₀ : State} (h : execAnvilSupervisorTimeout s = .next u₀) :
    Only [.out, .pilot, .dom, .regs, .pcie, .log, .logWritten, .sideband, .ports, .pcs, .windows] s u₀ := by
  unfold execAnvilSupervisorTimeout at h
  (repeat' split at h) <;> (injection h with h; subst h; simp)

theorem execAnvilHalt_only {s : State} {u₀ : State} (h : execAnvilHalt s = .next u₀) :
    Only [.out, .pilot, .dom, .regs, .pcie, .log, .logWritten, .sideband, .ports, .pcs, .windows] s u₀ := by
  unfold execAnvilHalt at h
  (repeat' split at h) <;> (injection h with h; subst h; simp)

theorem execStatus_only {s : State} {u₀ : State} (h : execStatus s = .next u₀) :
    Only [.out] s u₀ := by
  unfold execStatus at h
  (repeat' split at h) <;> (injection h with h; subst h; simp)

theorem execIdentity_only {s : State} {u₀ : State} (h : execIdentity s = .next u₀) :
    Only [.out, .regs] s u₀ := by
  unfold execIdentity at h
  (repeat' split at h) <;> (injection h with h; subst h; simp)

theorem execPower_only {mW : Nat} {s : State} {u₀ : State} (h : execPower mW s = .next u₀) :
    Only [.out, .regs] s u₀ := by
  unfold execPower at h
  (repeat' split at h) <;> (injection h with h; subst h; simp)

theorem execLevel_only {s : State} {u₀ : State} (h : execLevel s = .next u₀) :
    Only [.out] s u₀ := by
  unfold execLevel at h
  (repeat' split at h) <;> (injection h with h; subst h; simp)

theorem execHottest_only {s : State} {u₀ : State} (h : execHottest s = .next u₀) :
    Only [.out] s u₀ := by
  unfold execHottest at h
  (repeat' split at h) <;> (injection h with h; subst h; simp)

theorem execTherm0_only {s : State} {u₀ : State} (h : execTherm0 s = .next u₀) :
    Only [.out] s u₀ := by
  unfold execTherm0 at h
  (repeat' split at h) <;> (injection h with h; subst h; simp)

theorem execTherm8_only {s : State} {u₀ : State} (h : execTherm8 s = .next u₀) :
    Only [.out] s u₀ := by
  unfold execTherm8 at h
  (repeat' split at h) <;> (injection h with h; subst h; simp)

theorem execTherm16_only {s : State} {u₀ : State} (h : execTherm16 s = .next u₀) :
    Only [.out] s u₀ := by
  unfold execTherm16 at h
  (repeat' split at h) <;> (injection h with h; subst h; simp)

theorem execErrlogPtrWrite_only {w : SbWrite} {s : State} {u₀ : State} (h : execErrlogPtrWrite w s = .next u₀) :
    Only [.out, .regs] s u₀ := by
  unfold execErrlogPtrWrite at h
  (repeat' split at h) <;> (injection h with h; subst h; simp)

theorem execErrlogPtrRead_only {s : State} {u₀ : State} (h : execErrlogPtrRead s = .next u₀) :
    Only [.out] s u₀ := by
  unfold execErrlogPtrRead at h
  (repeat' split at h) <;> (injection h with h; subst h; simp)

theorem execErrlog_only {completed : Bool} {s : State} {u₀ : State} (h : execErrlog completed s = .next u₀) :
    Only [.out, .regs] s u₀ := by
  unfold execErrlog at h
  (repeat' split at h) <;> (injection h with h; subst h; simp)

theorem execQuenchWrite_only {w : SbWrite} {s : State} {u₀ : State} (h : execQuenchWrite w s = .next u₀) :
    Only [.out, .dom, .regs, .pcie, .log, .logWritten, .lines, .pulses, .thermal, .sideband, .ports, .lanes, .tables, .pcs, .regulator] s u₀ := by
  unfold execQuenchWrite at h
  (repeat' split at h) <;> (injection h with h; subst h; simp)

theorem execQuenchRead_only {s : State} {u₀ : State} (h : execQuenchRead s = .next u₀) :
    Only [.out] s u₀ := by
  unfold execQuenchRead at h
  (repeat' split at h) <;> (injection h with h; subst h; simp)

theorem execAlertResponse_only {s : State} {u₀ : State} (h : execAlertResponse s = .next u₀) :
    Only [.out] s u₀ := by
  unfold execAlertResponse at h
  (repeat' split at h) <;> (injection h with h; subst h; simp)

theorem execSclTimeout_only {s : State} {u₀ : State} (h : execSclTimeout s = .next u₀) :
    Only [.out, .regs, .pcie, .log, .logWritten, .sideband] s u₀ := by
  unfold execSclTimeout at h
  (repeat' split at h) <;> (injection h with h; subst h; simp)

theorem execSdaTimeout_only {s : State} {u₀ : State} (h : execSdaTimeout s = .next u₀) :
    Only [.out, .regs, .pcie, .log, .logWritten, .sideband] s u₀ := by
  unfold execSdaTimeout at h
  (repeat' split at h) <;> (injection h with h; subst h; simp)

theorem execBusClear_only {sdaHigh : Bool} {s : State} {u₀ : State} (h : execBusClear sdaHigh s = .next u₀) :
    Only [.out, .regs, .pcie, .log, .logWritten, .sideband] s u₀ := by
  unfold execBusClear at h
  (repeat' split at h) <;> (injection h with h; subst h; simp)

theorem execHostNotify_only {r : BusResult} {s : State} {u₀ : State} (h : execHostNotify r s = .next u₀) :
    Only [.out, .regs, .sideband] s u₀ := by
  unfold execHostNotify at h
  (repeat' split at h) <;> (injection h with h; subst h; simp)

theorem execHostNotifyRetry_only {r : BusResult} {s : State} {u₀ : State} (h : execHostNotifyRetry r s = .next u₀) :
    Only [.out, .regs, .sideband] s u₀ := by
  unfold execHostNotifyRetry at h
  (repeat' split at h) <;> (injection h with h; subst h; simp)

theorem execArbitrationRetry_only {r : BusResult} {s : State} {u₀ : State} (h : execArbitrationRetry r s = .next u₀) :
    Only [.out, .regs, .pcie, .log, .logWritten, .sideband] s u₀ := by
  unfold execArbitrationRetry at h
  (repeat' split at h) <;> (injection h with h; subst h; simp)

theorem execEepromRead_only {r : BusResult} {s : State} {u₀ : State} (h : execEepromRead r s = .next u₀) :
    Only [.out, .regs, .pcie, .log, .logWritten, .sideband] s u₀ := by
  unfold execEepromRead at h
  (repeat' split at h) <;> (injection h with h; subst h; simp)

theorem execEepromReadDone_only {a : EepromAnswer} {s : State} {u₀ : State} (h : execEepromReadDone a s = .next u₀) :
    Only [.out, .regs, .pcie, .log, .logWritten, .sideband] s u₀ := by
  unfold execEepromReadDone at h
  (repeat' split at h) <;> (injection h with h; subst h; simp)

theorem execTimesyncFallingEdge_only {s : State} {u₀ : State} (h : execTimesyncFallingEdge s = .next u₀) :
    Only [.regs] s u₀ := by
  unfold execTimesyncFallingEdge at h
  (repeat' split at h) <;> (injection h with h; subst h; simp)

theorem execVprogOutOfTolerance_only {blown : Nat} {weak : Nat} {s : State} {u₀ : State} (h : execVprogOutOfTolerance blown weak s = .next u₀) :
    Only [.out, .heldOut, .regs, .pcie, .log, .logWritten, .rings, .fuses, .trust, .sideband] s u₀ := by
  unfold execVprogOutOfTolerance at h
  (repeat' split at h) <;> (injection h with h; subst h; simp)

theorem execSdaSeenHigh_only {s : State} {u₀ : State} (h : execSdaSeenHigh s = .next u₀) :
    Only [.regs, .sideband] s u₀ := by
  unfold execSdaSeenHigh at h
  (repeat' split at h) <;> (injection h with h; subst h; simp)

theorem execPageIdleTimer_only {n : Nat} {bank : Nat} {s : State} {u₀ : State} (h : execPageIdleTimer n bank s = .next u₀) :
    Only [.regs, .pcs] s u₀ := by
  unfold execPageIdleTimer at h
  try dsimp only at h
  (repeat' split at h) <;> (injection h with h; subst h; simp) <;> (repeat' split) <;> simp

theorem execCalibrationHoldEnd_only {s : State} {u₀ : State} (h : execCalibrationHoldEnd s = .next u₀) :
    Only [.regs] s u₀ := by
  unfold execCalibrationHoldEnd at h
  (repeat' split at h) <;> (injection h with h; subst h; simp)

theorem execUnlistedCommandCode_only {code : Nat} {write : Bool} {s : State} {u₀ : State} (h : execUnlistedCommandCode code write s = .next u₀) :
    Only [.out, .regs] s u₀ := by
  unfold execUnlistedCommandCode at h
  try dsimp only at h
  (repeat' split at h) <;> (injection h with h; subst h; simp) <;> (repeat' split) <;> simp

end Sys2Proof.Machine
end

