-- ==== Sys2Proof/Laws/LogKept.lean ====
section
/-!
SUPPORT. The error log stays within its 1 024 entries (R611): every operation and every command keeps that bound. The lemmas run in the
order of the definitions, and those of operations that do not touch the log follow from their frames.
-/
namespace Sys2Proof.Machine

/-- The log fits its ring in the one state where it fits in the other. -/
def LogKept (s t : State) : Prop := s.log.length ≤ 1024 ↔ t.log.length ≤ 1024

variable {s t u : State}

@[simp] theorem LogKept.refl (s : State) : LogKept s s := Iff.rfl

theorem LogKept.trans (h : LogKept s t) (g : LogKept t u) : LogKept s u := Iff.trans h g

theorem LogKept.symm (h : LogKept s t) : LogKept t s := Iff.symm h

theorem LogKept.step (h : LogKept t u) : LogKept s u ↔ LogKept s t := ⟨fun k => k.trans h.symm, fun k => k.trans h⟩

@[simp] theorem LogKept.foldl {α : Type} (f : State → α → State) (l : List α) (h : ∀ x a, LogKept s (f x a) ↔ LogKept s x) :
    LogKept s (l.foldl f t) ↔ LogKept s t := by
  induction l generalizing t with
  | nil => rfl
  | cons a r ih => exact (ih (t := f t a)).trans (h t a)

theorem LogKept.foldlI {α : Type} (f : State → α → State) (l : List α) (h : ∀ x a, LogKept x (f x a)) (g : LogKept s t) :
    LogKept s (l.foldl f t) := (LogKept.foldl f l (fun x a => (h x a).step)).mpr g

@[simp] theorem LogKept.ite {c : Prop} [Decidable c] :
    LogKept s (if c then t else u) ↔ if c then LogKept s t else LogKept s u := by
  split <;> rfl

/-- What leaves the log as it was keeps its length. -/
theorem Only.logKept {ps : List Part} (h : Only ps s t) (g : Part.log ∉ ps) : LogKept s t := by
  unfold LogKept
  rw [h.eq_log g]

@[simp] theorem LogKept.upd_pending (v0 : List Instr) :
    LogKept s ({ t with pending := v0 } : State) ↔ LogKept s t := Iff.rfl

@[simp] theorem LogKept.upd_out (v0 : List Output) :
    LogKept s ({ t with out := v0 } : State) ↔ LogKept s t := Iff.rfl

@[simp] theorem LogKept.upd_heldOut (v0 : List Output) :
    LogKept s ({ t with heldOut := v0 } : State) ↔ LogKept s t := Iff.rfl

@[simp] theorem LogKept.upd_free (v0 : Nat) :
    LogKept s ({ t with free := v0 } : State) ↔ LogKept s t := Iff.rfl

@[simp] theorem LogKept.upd_time (v0 : TimeBase) :
    LogKept s ({ t with time := v0 } : State) ↔ LogKept s t := Iff.rfl

@[simp] theorem LogKept.upd_pilot (v0 : Pilot) :
    LogKept s ({ t with pilot := v0 } : State) ↔ LogKept s t := Iff.rfl

@[simp] theorem LogKept.upd_dom (v0 : Domains) :
    LogKept s ({ t with dom := v0 } : State) ↔ LogKept s t := Iff.rfl

@[simp] theorem LogKept.upd_regs (v0 : Map Nat) :
    LogKept s ({ t with regs := v0 } : State) ↔ LogKept s t := Iff.rfl

@[simp] theorem LogKept.upd_latches (v0 : Map Nat) :
    LogKept s ({ t with latches := v0 } : State) ↔ LogKept s t := Iff.rfl

@[simp] theorem LogKept.upd_pcie (v0 : Pcie) :
    LogKept s ({ t with pcie := v0 } : State) ↔ LogKept s t := Iff.rfl

@[simp] theorem LogKept.upd_rings (v0 : Map Ring) :
    LogKept s ({ t with rings := v0 } : State) ↔ LogKept s t := Iff.rfl

@[simp] theorem LogKept.upd_pulses (v0 : List (Nat × Tick)) :
    LogKept s ({ t with pulses := v0 } : State) ↔ LogKept s t := Iff.rfl

@[simp] theorem LogKept.upd_channels (v0 : Map Channel) :
    LogKept s ({ t with channels := v0 } : State) ↔ LogKept s t := Iff.rfl

@[simp] theorem LogKept.upd_fuses (v0 : FuseArray) :
    LogKept s ({ t with fuses := v0 } : State) ↔ LogKept s t := Iff.rfl

@[simp] theorem LogKept.upd_trust (v0 : Trust) :
    LogKept s ({ t with trust := v0 } : State) ↔ LogKept s t := Iff.rfl

@[simp] theorem LogKept.upd_sensors (v0 : Map Sensor) :
    LogKept s ({ t with sensors := v0 } : State) ↔ LogKept s t := Iff.rfl

@[simp] theorem LogKept.upd_layers (v0 : Map Layer) :
    LogKept s ({ t with layers := v0 } : State) ↔ LogKept s t := Iff.rfl

@[simp] theorem LogKept.upd_thermal (v0 : Thermal) :
    LogKept s ({ t with thermal := v0 } : State) ↔ LogKept s t := Iff.rfl

@[simp] theorem LogKept.upd_test (v0 : SelfTest) :
    LogKept s ({ t with test := v0 } : State) ↔ LogKept s t := Iff.rfl

@[simp] theorem LogKept.upd_sideband (v0 : Sideband) :
    LogKept s ({ t with sideband := v0 } : State) ↔ LogKept s t := Iff.rfl

@[simp] theorem LogKept.upd_ports (v0 : Map Port) :
    LogKept s ({ t with ports := v0 } : State) ↔ LogKept s t := Iff.rfl

@[simp] theorem LogKept.upd_lanes (v0 : Map Lane) :
    LogKept s ({ t with lanes := v0 } : State) ↔ LogKept s t := Iff.rfl

@[simp] theorem LogKept.upd_queues (v0 : Map Queue) :
    LogKept s ({ t with queues := v0 } : State) ↔ LogKept s t := Iff.rfl

@[simp] theorem LogKept.upd_queueChanges (v0 : List QueueChange) :
    LogKept s ({ t with queueChanges := v0 } : State) ↔ LogKept s t := Iff.rfl

@[simp] theorem LogKept.upd_snapshots (v0 : List Snapshot) :
    LogKept s ({ t with snapshots := v0 } : State) ↔ LogKept s t := Iff.rfl

@[simp] theorem LogKept.upd_snapPending (v0 : Option (SnapSource × Tick)) :
    LogKept s ({ t with snapPending := v0 } : State) ↔ LogKept s t := Iff.rfl

@[simp] theorem LogKept.upd_tables (v0 : Map (Option Table)) :
    LogKept s ({ t with tables := v0 } : State) ↔ LogKept s t := Iff.rfl

@[simp] theorem LogKept.upd_dead (v0 : List DeadTable) :
    LogKept s ({ t with dead := v0 } : State) ↔ LogKept s t := Iff.rfl

@[simp] theorem LogKept.upd_commits (v0 : List Commit) :
    LogKept s ({ t with commits := v0 } : State) ↔ LogKept s t := Iff.rfl

@[simp] theorem LogKept.upd_commitLog (v0 : List CommitRecord) :
    LogKept s ({ t with commitLog := v0 } : State) ↔ LogKept s t := Iff.rfl

@[simp] theorem LogKept.upd_recovered (v0 : List Recovered) :
    LogKept s ({ t with recovered := v0 } : State) ↔ LogKept s t := Iff.rfl

@[simp] theorem LogKept.upd_cancelled (v0 : List CommitRecord) :
    LogKept s ({ t with cancelled := v0 } : State) ↔ LogKept s t := Iff.rfl

@[simp] theorem LogKept.upd_latency (v0 : Map Nat) :
    LogKept s ({ t with latency := v0 } : State) ↔ LogKept s t := Iff.rfl

@[simp] theorem LogKept.upd_engineQueues (v0 : Map (List EngineOp)) :
    LogKept s ({ t with engineQueues := v0 } : State) ↔ LogKept s t := Iff.rfl

@[simp] theorem LogKept.upd_marver (v0 : Marver) :
    LogKept s ({ t with marver := v0 } : State) ↔ LogKept s t := Iff.rfl

@[simp] theorem LogKept.upd_pcs (v0 : Map Pc) :
    LogKept s ({ t with pcs := v0 } : State) ↔ LogKept s t := Iff.rfl

@[simp] theorem LogKept.upd_stageRows (v0 : List StageRow) :
    LogKept s ({ t with stageRows := v0 } : State) ↔ LogKept s t := Iff.rfl

@[simp] theorem LogKept.upd_windows (v0 : List WindowAccess) :
    LogKept s ({ t with windows := v0 } : State) ↔ LogKept s t := Iff.rfl

@[simp] theorem LogKept.upd_placed (v0 : Bool) :
    LogKept s ({ t with placed := v0 } : State) ↔ LogKept s t := Iff.rfl

@[simp] theorem LogKept.upd_integrity (v0 : Integrity) :
    LogKept s ({ t with integrity := v0 } : State) ↔ LogKept s t := Iff.rfl

@[simp] theorem LogKept.upd_regulator (v0 : Regulator) :
    LogKept s ({ t with regulator := v0 } : State) ↔ LogKept s t := Iff.rfl

@[simp] theorem LogKept.upd_time_pilot (v0 : TimeBase) (v1 : Pilot) :
    LogKept s ({ t with time := v0, pilot := v1 } : State) ↔ LogKept s t := Iff.rfl

@[simp] theorem LogKept.upd_pilot_trust (v0 : Pilot) (v1 : Trust) :
    LogKept s ({ t with pilot := v0, trust := v1 } : State) ↔ LogKept s t := Iff.rfl

@[simp] theorem LogKept.upd_pilot_sideband (v0 : Pilot) (v1 : Sideband) :
    LogKept s ({ t with pilot := v0, sideband := v1 } : State) ↔ LogKept s t := Iff.rfl

@[simp] theorem LogKept.upd_pilot_commits (v0 : Pilot) (v1 : List Commit) :
    LogKept s ({ t with pilot := v0, commits := v1 } : State) ↔ LogKept s t := Iff.rfl

@[simp] theorem LogKept.upd_pilot_windows (v0 : Pilot) (v1 : List WindowAccess) :
    LogKept s ({ t with pilot := v0, windows := v1 } : State) ↔ LogKept s t := Iff.rfl

@[simp] theorem LogKept.upd_lines_pulses (v0 : Map EvLine) (v1 : List (Nat × Tick)) :
    LogKept s ({ t with lines := v0, pulses := v1 } : State) ↔ LogKept s t := Iff.rfl

@[simp] theorem LogKept.upd_fuses_trust (v0 : FuseArray) (v1 : Trust) :
    LogKept s ({ t with fuses := v0, trust := v1 } : State) ↔ LogKept s t := Iff.rfl

@[simp] theorem LogKept.upd_snapshots_snapPending (v0 : List Snapshot) (v1 : Option (SnapSource × Tick)) :
    LogKept s ({ t with snapshots := v0, snapPending := v1 } : State) ↔ LogKept s t := Iff.rfl

@[simp] theorem LogKept.upd_snapPending_engineQueues (v0 : Option (SnapSource × Tick)) (v1 : Map (List EngineOp)) :
    LogKept s ({ t with snapPending := v0, engineQueues := v1 } : State) ↔ LogKept s t := Iff.rfl

@[simp] theorem LogKept.upd_tables_marver (v0 : Map (Option Table)) (v1 : Marver) :
    LogKept s ({ t with tables := v0, marver := v1 } : State) ↔ LogKept s t := Iff.rfl

@[simp] theorem LogKept.upd_dead_marver (v0 : List DeadTable) (v1 : Marver) :
    LogKept s ({ t with dead := v0, marver := v1 } : State) ↔ LogKept s t := Iff.rfl

@[simp] theorem LogKept.upd_marver_placed (v0 : Marver) (v1 : Bool) :
    LogKept s ({ t with marver := v0, placed := v1 } : State) ↔ LogKept s t := Iff.rfl

@[simp] theorem LogKept.upd_marver_integrity (v0 : Marver) (v1 : Integrity) :
    LogKept s ({ t with marver := v0, integrity := v1 } : State) ↔ LogKept s t := Iff.rfl

@[simp] theorem LogKept.upd_pcs_regulator (v0 : Map Pc) (v1 : Regulator) :
    LogKept s ({ t with pcs := v0, regulator := v1 } : State) ↔ LogKept s t := Iff.rfl

@[simp] theorem LogKept.upd_mem_integrity (v0 : List Host.Cell) (v1 : Integrity) :
    LogKept s ({ t with mem := v0, integrity := v1 } : State) ↔ LogKept s t := Iff.rfl

@[simp] theorem LogKept.upd_out_heldOut_pcie (v0 : List Output) (v1 : List Output) (v2 : Pcie) :
    LogKept s ({ t with out := v0, heldOut := v1, pcie := v2 } : State) ↔ LogKept s t := Iff.rfl

@[simp] theorem LogKept.upd_time_pilot_pcie (v0 : TimeBase) (v1 : Pilot) (v2 : Pcie) :
    LogKept s ({ t with time := v0, pilot := v1, pcie := v2 } : State) ↔ LogKept s t := Iff.rfl

@[simp] theorem LogKept.upd_pilot_resetting_quiesce (v0 : Pilot) (v1 : Bool) (v2 : Option (Nat × Nat)) :
    LogKept s ({ t with pilot := v0, resetting := v1, quiesce := v2 } : State) ↔ LogKept s t := Iff.rfl

@[simp] theorem LogKept.upd_tables_commits_recovered (v0 : Map (Option Table)) (v1 : List Commit) (v2 : List Recovered) :
    LogKept s ({ t with tables := v0, commits := v1, recovered := v2 } : State) ↔ LogKept s t := Iff.rfl

@[simp] theorem LogKept.upd_pilot_pcie_marver_regulator (v0 : Pilot) (v1 : Pcie) (v2 : Marver) (v3 : Regulator) :
    LogKept s ({ t with pilot := v0, pcie := v1, marver := v2, regulator := v3 } : State) ↔ LogKept s t := Iff.rfl

@[simp] theorem LogKept.upd_wide7 (v0 : Pilot) (v1 : Trust) (v2 : List CommitRecord) (v3 : Marver) (v4 : List Host.Cell) (v5 : Bool) (v6 : Integrity) :
    LogKept s ({ t with pilot := v0, trust := v1, commitLog := v2, marver := v3, mem := v4, placed := v5, integrity := v6 } : State) ↔ LogKept s t := Iff.rfl

@[simp] theorem LogKept.upd_wide13 (v0 : TimeBase) (v1 : Pilot) (v2 : Map Nat) (v3 : Map Nat) (v4 : Trust) (v5 : Sideband) (v6 : Map (Option Table)) (v7 : List Commit) (v8 : List CommitRecord) (v9 : List CommitRecord) (v10 : Marver) (v11 : List Host.Cell) (v12 : Integrity) :
    LogKept s ({ t with time := v0, pilot := v1, regs := v2, latches := v3, trust := v4, sideband := v5, tables := v6, commits := v7, commitLog := v8, recoveredCommits := v9, marver := v10, mem := v11, integrity := v12 } : State) ↔ LogKept s t := Iff.rfl

theorem State.setF_kept (s : State) (k : Fld) (v : Nat) :
    LogKept s (State.setF s k v) := (State.setF_only s k v).logKept (by decide)

@[simp] theorem State.setF_kstep (s : State) (k : Fld) (v : Nat) {r₀ : State} :
    LogKept r₀ (State.setF s k v) ↔ LogKept r₀ s := (State.setF_kept s k v).step

theorem State.setFs_kept (s : State) (a1 : List (Fld × Nat)) :
    LogKept s (State.setFs s a1) := (State.setFs_only s a1).logKept (by decide)

@[simp] theorem State.setFs_kstep (s : State) (a1 : List (Fld × Nat)) {r₀ : State} :
    LogKept r₀ (State.setFs s a1) ↔ LogKept r₀ s := (State.setFs_kept s a1).step

theorem State.addF_kept (s : State) (k : Fld) (n : Nat) (mx : Nat) :
    LogKept s (State.addF s k n mx) := (State.addF_only s k n mx).logKept (by decide)

@[simp] theorem State.addF_kstep (s : State) (k : Fld) (n : Nat) (mx : Nat) {r₀ : State} :
    LogKept r₀ (State.addF s k n mx) ↔ LogKept r₀ s := (State.addF_kept s k n mx).step

theorem State.bump_kept (s : State) (k : Fld) (w : Nat) :
    LogKept s (State.bump s k w) := (State.bump_only s k w).logKept (by decide)

@[simp] theorem State.bump_kstep (s : State) (k : Fld) (w : Nat) {r₀ : State} :
    LogKept r₀ (State.bump s k w) ↔ LogKept r₀ s := (State.bump_kept s k w).step

theorem State.emit_kept (s : State) (o : Output) :
    LogKept s (State.emit s o) := (State.emit_only s o).logKept (by decide)

@[simp] theorem State.emit_kstep (s : State) (o : Output) {r₀ : State} :
    LogKept r₀ (State.emit s o) ↔ LogKept r₀ s := (State.emit_kept s o).step

theorem State.emitHost_kept (s : State) (o : Output) :
    LogKept s (State.emitHost s o) := (State.emitHost_only s o).logKept (by decide)

@[simp] theorem State.emitHost_kstep (s : State) (o : Output) {r₀ : State} :
    LogKept r₀ (State.emitHost s o) ↔ LogKept r₀ s := (State.emitHost_kept s o).step

theorem State.fresh_kept (s : State) :
    LogKept s (State.fresh s).2 := (State.fresh_only s).logKept (by decide)

@[simp] theorem State.fresh_kstep (s : State) {r₀ : State} :
    LogKept r₀ (State.fresh s).2 ↔ LogKept r₀ s := (State.fresh_kept s).step

theorem State.enterReady_kept (s : State) :
    LogKept s (State.enterReady s) := (State.enterReady_only s).logKept (by decide)

@[simp] theorem State.enterReady_kstep (s : State) {r₀ : State} :
    LogKept r₀ (State.enterReady s) ↔ LogKept r₀ s := (State.enterReady_kept s).step

theorem State.tryReady_kept (s : State) :
    LogKept s (State.tryReady s) := (State.tryReady_only s).logKept (by decide)

@[simp] theorem State.tryReady_kstep (s : State) {r₀ : State} :
    LogKept r₀ (State.tryReady s) ↔ LogKept r₀ s := (State.tryReady_kept s).step

theorem State.closeDomains_kept (s : State) (power : Nat) (clocks : Nat) :
    LogKept s (State.closeDomains s power clocks) := (State.closeDomains_only s power clocks).logKept (by decide)

@[simp] theorem State.closeDomains_kstep (s : State) (power : Nat) (clocks : Nat) {r₀ : State} :
    LogKept r₀ (State.closeDomains s power clocks) ↔ LogKept r₀ s := (State.closeDomains_kept s power clocks).step

theorem State.openDomains_kept (s : State) (power : Nat) (clocks : Nat) :
    LogKept s (State.openDomains s power clocks) := (State.openDomains_only s power clocks).logKept (by decide)

@[simp] theorem State.openDomains_kstep (s : State) (power : Nat) (clocks : Nat) {r₀ : State} :
    LogKept r₀ (State.openDomains s power clocks) ↔ LogKept r₀ s := (State.openDomains_kept s power clocks).step

theorem State.removeDomains_kept (s : State) (power : Nat) (clocks : Nat) :
    LogKept s (State.removeDomains s power clocks) := (State.removeDomains_only s power clocks).logKept (by decide)

@[simp] theorem State.removeDomains_kstep (s : State) (power : Nat) (clocks : Nat) {r₀ : State} :
    LogKept r₀ (State.removeDomains s power clocks) ↔ LogKept r₀ s := (State.removeDomains_kept s power clocks).step

theorem State.setGateDis_kept (s : State) (v : Nat) :
    LogKept s (State.setGateDis s v) := (State.setGateDis_only s v).logKept (by decide)

@[simp] theorem State.setGateDis_kstep (s : State) (v : Nat) {r₀ : State} :
    LogKept r₀ (State.setGateDis s v) ↔ LogKept r₀ s := (State.setGateDis_kept s v).step

theorem State.vector_kept (s : State) (v : Nat) :
    LogKept s (State.vector s v) := (State.vector_only s v).logKept (by decide)

@[simp] theorem State.vector_kstep (s : State) (v : Nat) {r₀ : State} :
    LogKept r₀ (State.vector s v) ↔ LogKept r₀ s := (State.vector_kept s v).step

theorem State.flushVectors_kept (s : State) :
    LogKept s (State.flushVectors s) := (State.flushVectors_only s).logKept (by decide)

@[simp] theorem State.flushVectors_kstep (s : State) {r₀ : State} :
    LogKept r₀ (State.flushVectors s) ↔ LogKept r₀ s := (State.flushVectors_kept s).step

theorem State.writeEntry_kept (s : State) (e : LogEvent) :
    LogKept s (State.writeEntry s e) := by
  unfold State.writeEntry
  dsimp only
  split
  · next hl => simp [LogKept, hl]
  · next n r hl =>
    split
    · simp [LogKept, hl]
    · simp only [LogKept, hl, List.length_cons]
      split
      · next h =>
        simp only [decide_eq_true_eq] at h
        simp
      · next h =>
        simp only [decide_eq_true_eq] at h
        simp
        omega

@[simp] theorem State.writeEntry_kstep (s : State) (e : LogEvent) {r₀ : State} :
    LogKept r₀ (State.writeEntry s e) ↔ LogKept r₀ s := (State.writeEntry_kept s e).step

theorem State.report_kept (s : State) (e : LogEvent) :
    LogKept s (State.report s e) := by
  unfold State.report
  (repeat' split) <;> simp

@[simp] theorem State.report_kstep (s : State) (e : LogEvent) {r₀ : State} :
    LogKept r₀ (State.report s e) ↔ LogKept r₀ s := (State.report_kept s e).step

theorem State.pulseLine_kept (s : State) (l : Nat) (t : Tick) :
    LogKept s (State.pulseLine s l t) := (State.pulseLine_only s l t).logKept (by decide)

@[simp] theorem State.pulseLine_kstep (s : State) (l : Nat) (t : Tick) {r₀ : State} :
    LogKept r₀ (State.pulseLine s l t) ↔ LogKept r₀ s := (State.pulseLine_kept s l t).step

theorem State.pulseSource_kept (s : State) (code : Nat) :
    LogKept s (State.pulseSource s code) := (State.pulseSource_only s code).logKept (by decide)

@[simp] theorem State.pulseSource_kstep (s : State) (code : Nat) {r₀ : State} :
    LogKept r₀ (State.pulseSource s code) ↔ LogKept r₀ s := (State.pulseSource_kept s code).step

theorem State.setRing_kept (s : State) (r : Nat) (x : Ring) :
    LogKept s (State.setRing s r x) := (State.setRing_only s r x).logKept (by decide)

@[simp] theorem State.setRing_kstep (s : State) (r : Nat) (x : Ring) {r₀ : State} :
    LogKept r₀ (State.setRing s r x) ↔ LogKept r₀ s := (State.setRing_kept s r x).step

theorem State.syncRing_kept (s : State) (r : Nat) :
    LogKept s (State.syncRing s r) := (State.syncRing_only s r).logKept (by decide)

@[simp] theorem State.syncRing_kstep (s : State) (r : Nat) {r₀ : State} :
    LogKept r₀ (State.syncRing s r) ↔ LogKept r₀ s := (State.syncRing_kept s r).step

theorem State.writeCompletion_kept (s : State) (r : Nat) (tag : Nat) (status : Nat) (result : Nat) :
    LogKept s (State.writeCompletion s r tag status result) := (State.writeCompletion_only s r tag status result).logKept (by decide)

@[simp] theorem State.writeCompletion_kstep (s : State) (r : Nat) (tag : Nat) (status : Nat) (result : Nat) {r₀ : State} :
    LogKept r₀ (State.writeCompletion s r tag status result) ↔ LogKept r₀ s := (State.writeCompletion_kept s r tag status result).step

theorem State.complete_kept (s : State) (r : Nat) (tag : Nat) (status : Nat) (result : Nat) :
    LogKept s (State.complete s r tag status result) := (State.complete_only s r tag status result).logKept (by decide)

@[simp] theorem State.complete_kstep (s : State) (r : Nat) (tag : Nat) (status : Nat) (result : Nat) {r₀ : State} :
    LogKept r₀ (State.complete s r tag status result) ↔ LogKept r₀ s := (State.complete_kept s r tag status result).step

theorem State.done_kept (s : State) (e : Sqe) (status : Nat) (result : Nat) :
    LogKept s (State.done s e status result) := (State.done_only s e status result).logKept (by decide)

@[simp] theorem State.done_kstep (s : State) (e : Sqe) (status : Nat) (result : Nat) {r₀ : State} :
    LogKept r₀ (State.done s e status result) ↔ LogKept r₀ s := (State.done_kept s e status result).step

theorem State.setPort_kept (s : State) (p : Nat) (x : Port) :
    LogKept s (State.setPort s p x) := (State.setPort_only s p x).logKept (by decide)

@[simp] theorem State.setPort_kstep (s : State) (p : Nat) (x : Port) {r₀ : State} :
    LogKept r₀ (State.setPort s p x) ↔ LogKept r₀ s := (State.setPort_kept s p x).step

theorem State.setLane_kept (s : State) (p : Nat) (l : Nat) (x : Lane) :
    LogKept s (State.setLane s p l x) := (State.setLane_only s p l x).logKept (by decide)

@[simp] theorem State.setLane_kstep (s : State) (p : Nat) (l : Nat) (x : Lane) {r₀ : State} :
    LogKept r₀ (State.setLane s p l x) ↔ LogKept r₀ s := (State.setLane_kept s p l x).step

theorem State.useSet_kept (s : State) (p : Nat) (x : Nat × Nat) :
    LogKept s (State.useSet s p x) := (State.useSet_only s p x).logKept (by decide)

@[simp] theorem State.useSet_kstep (s : State) (p : Nat) (x : Nat × Nat) {r₀ : State} :
    LogKept r₀ (State.useSet s p x) ↔ LogKept r₀ s := (State.useSet_kept s p x).step

theorem State.linkChanged_kept (s : State) (p : Nat) :
    LogKept s (State.linkChanged s p) := (State.linkChanged_only s p).logKept (by decide)

@[simp] theorem State.linkChanged_kstep (s : State) (p : Nat) {r₀ : State} :
    LogKept r₀ (State.linkChanged s p) ↔ LogKept r₀ s := (State.linkChanged_kept s p).step

theorem State.emitCodeword_kept (s : State) (p : Nat) (data : List Byte) :
    LogKept s (State.emitCodeword s p data) := (State.emitCodeword_only s p data).logKept (by decide)

@[simp] theorem State.emitCodeword_kstep (s : State) (p : Nat) (data : List Byte) {r₀ : State} :
    LogKept r₀ (State.emitCodeword s p data) ↔ LogKept r₀ s := (State.emitCodeword_kept s p data).step

theorem State.sendLine_kept (s : State) (p : Nat) (seq : Nat) (data : List Byte) :
    LogKept s (State.sendLine s p seq data) := (State.sendLine_only s p seq data).logKept (by decide)

@[simp] theorem State.sendLine_kstep (s : State) (p : Nat) (seq : Nat) (data : List Byte) {r₀ : State} :
    LogKept r₀ (State.sendLine s p seq data) ↔ LogKept r₀ s := (State.sendLine_kept s p seq data).step

theorem State.sendFraming_kept (s : State) (p : Nat) :
    LogKept s (State.sendFraming s p) := (State.sendFraming_only s p).logKept (by decide)

@[simp] theorem State.sendFraming_kstep (s : State) (p : Nat) {r₀ : State} :
    LogKept r₀ (State.sendFraming s p) ↔ LogKept r₀ s := (State.sendFraming_kept s p).step

theorem State.sendData_kept (s : State) (p : Nat) (data : List Byte) :
    LogKept s (State.sendData s p data) := (State.sendData_only s p data).logKept (by decide)

@[simp] theorem State.sendData_kstep (s : State) (p : Nat) (data : List Byte) {r₀ : State} :
    LogKept r₀ (State.sendData s p data) ↔ LogKept r₀ s := (State.sendData_kept s p data).step

theorem State.fillCodewords_kept (p : Nat) (a1 : Nat) (a2 : List Byte) (a3 : State) :
    LogKept a3 (State.fillCodewords p a1 a2 a3) := (State.fillCodewords_only p a1 a2 a3).logKept (by decide)

@[simp] theorem State.fillCodewords_kstep (p : Nat) (a1 : Nat) (a2 : List Byte) (a3 : State) {r₀ : State} :
    LogKept r₀ (State.fillCodewords p a1 a2 a3) ↔ LogKept r₀ a3 := (State.fillCodewords_kept p a1 a2 a3).step

theorem State.leaveWarm_kept (s : State) (p : Nat) :
    LogKept s (State.leaveWarm s p) := (State.leaveWarm_only s p).logKept (by decide)

@[simp] theorem State.leaveWarm_kstep (s : State) (p : Nat) {r₀ : State} :
    LogKept r₀ (State.leaveWarm s p) ↔ LogKept r₀ s := (State.leaveWarm_kept s p).step

theorem State.sendItem_kept (s : State) (p : Nat) (i : LinkItem) :
    LogKept s (State.sendItem s p i) := (State.sendItem_only s p i).logKept (by decide)

@[simp] theorem State.sendItem_kstep (s : State) (p : Nat) (i : LinkItem) {r₀ : State} :
    LogKept r₀ (State.sendItem s p i) ↔ LogKept r₀ s := (State.sendItem_kept s p i).step

theorem State.flushTx_kept (s : State) (p : Nat) :
    LogKept s (State.flushTx s p) := (State.flushTx_only s p).logKept (by decide)

@[simp] theorem State.flushTx_kstep (s : State) (p : Nat) {r₀ : State} :
    LogKept r₀ (State.flushTx s p) ↔ LogKept r₀ s := (State.flushTx_kept s p).step

theorem State.sendUpdate_kept (s : State) (p : Nat) (nak : Bool) :
    LogKept s (State.sendUpdate s p nak) := (State.sendUpdate_only s p nak).logKept (by decide)

@[simp] theorem State.sendUpdate_kstep (s : State) (p : Nat) (nak : Bool) {r₀ : State} :
    LogKept r₀ (State.sendUpdate s p nak) ↔ LogKept r₀ s := (State.sendUpdate_kept s p nak).step

theorem State.sendControl_kept (s : State) (p : Nat) (sub : Nat) (arg : Nat) :
    LogKept s (State.sendControl s p sub arg) := (State.sendControl_only s p sub arg).logKept (by decide)

@[simp] theorem State.sendControl_kstep (s : State) (p : Nat) (sub : Nat) (arg : Nat) {r₀ : State} :
    LogKept r₀ (State.sendControl s p sub arg) ↔ LogKept r₀ s := (State.sendControl_kept s p sub arg).step

theorem State.sendNotice_kept (s : State) (p : Nat) (reason : Nat) :
    LogKept s (State.sendNotice s p reason) := (State.sendNotice_only s p reason).logKept (by decide)

@[simp] theorem State.sendNotice_kstep (s : State) (p : Nat) (reason : Nat) {r₀ : State} :
    LogKept r₀ (State.sendNotice s p reason) ↔ LogKept r₀ s := (State.sendNotice_kept s p reason).step

theorem State.endNotice_kept (s : State) (p : Nat) :
    LogKept s (State.endNotice s p) := (State.endNotice_only s p).logKept (by decide)

@[simp] theorem State.endNotice_kstep (s : State) (p : Nat) {r₀ : State} :
    LogKept r₀ (State.endNotice s p) ↔ LogKept r₀ s := (State.endNotice_kept s p).step

theorem State.dropPartial_kept (s : State) (p : Nat) :
    LogKept s (State.dropPartial s p) := (State.dropPartial_only s p).logKept (by decide)

@[simp] theorem State.dropPartial_kstep (s : State) (p : Nat) {r₀ : State} :
    LogKept r₀ (State.dropPartial s p) ↔ LogKept r₀ s := (State.dropPartial_kept s p).step

theorem State.applyOne_kept (s : State) (p : Nat) (q : EqSetting) :
    LogKept s (State.applyOne s p q) := (State.applyOne_only s p q).logKept (by decide)

@[simp] theorem State.applyOne_kstep (s : State) (p : Nat) (q : EqSetting) {r₀ : State} :
    LogKept r₀ (State.applyOne s p q) ↔ LogKept r₀ s := (State.applyOne_kept s p q).step

theorem State.applyEq_kept (s : State) (p : Nat) :
    LogKept s (State.applyEq s p) := (State.applyEq_only s p).logKept (by decide)

@[simp] theorem State.applyEq_kstep (s : State) (p : Nat) {r₀ : State} :
    LogKept r₀ (State.applyEq s p) ↔ LogKept r₀ s := (State.applyEq_kept s p).step

theorem State.retrainEq_kept (s : State) (p : Nat) :
    LogKept s (State.retrainEq s p) := (State.retrainEq_only s p).logKept (by decide)

@[simp] theorem State.retrainEq_kstep (s : State) (p : Nat) {r₀ : State} :
    LogKept r₀ (State.retrainEq s p) ↔ LogKept r₀ s := (State.retrainEq_kept s p).step

theorem State.startDetect_kept (s : State) (p : Nat) :
    LogKept s (State.startDetect s p) := (State.startDetect_only s p).logKept (by decide)

@[simp] theorem State.startDetect_kstep (s : State) (p : Nat) {r₀ : State} :
    LogKept r₀ (State.startDetect s p) ↔ LogKept r₀ s := (State.startDetect_kept s p).step

theorem State.startSeries_kept (s : State) (p : Nat) :
    LogKept s (State.startSeries s p) := (State.startSeries_only s p).logKept (by decide)

@[simp] theorem State.startSeries_kstep (s : State) (p : Nat) {r₀ : State} :
    LogKept r₀ (State.startSeries s p) ↔ LogKept r₀ s := (State.startSeries_kept s p).step

theorem State.newSeries_kept (s : State) (p : Nat) (keep : Bool) :
    LogKept s (State.newSeries s p keep) := (State.newSeries_only s p keep).logKept (by decide)

@[simp] theorem State.newSeries_kstep (s : State) (p : Nat) (keep : Bool) {r₀ : State} :
    LogKept r₀ (State.newSeries s p keep) ↔ LogKept r₀ s := (State.newSeries_kept s p keep).step

theorem State.readmit_kept (s : State) (p : Nat) :
    LogKept s (State.readmit s p) := (State.readmit_only s p).logKept (by decide)

@[simp] theorem State.readmit_kstep (s : State) (p : Nat) {r₀ : State} :
    LogKept r₀ (State.readmit s p) ↔ LogKept r₀ s := (State.readmit_kept s p).step

theorem State.coldRetrain_kept (s : State) (p : Nat) (reason : Nat) :
    LogKept s (State.coldRetrain s p reason) := (State.coldRetrain_only s p reason).logKept (by decide)

@[simp] theorem State.coldRetrain_kstep (s : State) (p : Nat) (reason : Nat) {r₀ : State} :
    LogKept r₀ (State.coldRetrain s p reason) ↔ LogKept r₀ s := (State.coldRetrain_kept s p reason).step

theorem State.shortRetrainOn_kept (s : State) (p : Nat) (lanes : Nat) :
    LogKept s (State.shortRetrainOn s p lanes) := (State.shortRetrainOn_only s p lanes).logKept (by decide)

@[simp] theorem State.shortRetrainOn_kstep (s : State) (p : Nat) (lanes : Nat) {r₀ : State} :
    LogKept r₀ (State.shortRetrainOn s p lanes) ↔ LogKept r₀ s := (State.shortRetrainOn_kept s p lanes).step

theorem State.shortRetrain_kept (s : State) (p : Nat) :
    LogKept s (State.shortRetrain s p) := (State.shortRetrain_only s p).logKept (by decide)

@[simp] theorem State.shortRetrain_kstep (s : State) (p : Nat) {r₀ : State} :
    LogKept r₀ (State.shortRetrain s p) ↔ LogKept r₀ s := (State.shortRetrain_kept s p).step

theorem State.narrowPorts_kept (s : State) :
    LogKept s (State.narrowPorts s) := (State.narrowPorts_only s).logKept (by decide)

@[simp] theorem State.narrowPorts_kstep (s : State) {r₀ : State} :
    LogKept r₀ (State.narrowPorts s) ↔ LogKept r₀ s := (State.narrowPorts_kept s).step

theorem State.disablePort_kept (s : State) (p : Nat) (keep : Bool) :
    LogKept s (State.disablePort s p keep) := (State.disablePort_only s p keep).logKept (by decide)

@[simp] theorem State.disablePort_kstep (s : State) (p : Nat) (keep : Bool) {r₀ : State} :
    LogKept r₀ (State.disablePort s p keep) ↔ LogKept r₀ s := (State.disablePort_kept s p keep).step

theorem State.stopPort_kept (s : State) (p : Nat) (reason : Nat) (keep : Bool) :
    LogKept s (State.stopPort s p reason keep) := (State.stopPort_only s p reason keep).logKept (by decide)

@[simp] theorem State.stopPort_kstep (s : State) (p : Nat) (reason : Nat) (keep : Bool) {r₀ : State} :
    LogKept r₀ (State.stopPort s p reason keep) ↔ LogKept r₀ s := (State.stopPort_kept s p reason keep).step

theorem State.quenchPorts_kept (s : State) :
    LogKept s (State.quenchPorts s) := (State.quenchPorts_only s).logKept (by decide)

@[simp] theorem State.quenchPorts_kstep (s : State) {r₀ : State} :
    LogKept r₀ (State.quenchPorts s) ↔ LogKept r₀ s := (State.quenchPorts_kept s).step

theorem State.idlePorts_kept (s : State) :
    LogKept s (State.idlePorts s) := (State.idlePorts_only s).logKept (by decide)

@[simp] theorem State.idlePorts_kstep (s : State) {r₀ : State} :
    LogKept r₀ (State.idlePorts s) ↔ LogKept r₀ s := (State.idlePorts_kept s).step

theorem State.trainPorts_kept (s : State) :
    LogKept s (State.trainPorts s) := (State.trainPorts_only s).logKept (by decide)

@[simp] theorem State.trainPorts_kstep (s : State) {r₀ : State} :
    LogKept r₀ (State.trainPorts s) ↔ LogKept r₀ s := (State.trainPorts_kept s).step

theorem State.settlePorts_kept (s : State) :
    LogKept s (State.settlePorts s) := (State.settlePorts_only s).logKept (by decide)

@[simp] theorem State.settlePorts_kstep (s : State) {r₀ : State} :
    LogKept r₀ (State.settlePorts s) ↔ LogKept r₀ s := (State.settlePorts_kept s).step

theorem State.startFresh_kept (s : State) (p : Nat) :
    LogKept s (State.startFresh s p) := by
  simp [State.startFresh]

@[simp] theorem State.startFresh_kstep (s : State) (p : Nat) {r₀ : State} :
    LogKept r₀ (State.startFresh s p) ↔ LogKept r₀ s := (State.startFresh_kept s p).step

theorem State.resend_kept (s : State) (p : Nat) :
    LogKept s (State.resend s p) := (State.resend_only s p).logKept (by decide)

@[simp] theorem State.resend_kstep (s : State) (p : Nat) {r₀ : State} :
    LogKept r₀ (State.resend s p) ↔ LogKept r₀ s := (State.resend_kept s p).step

theorem State.startResumed_kept (s : State) (p : Nat) :
    LogKept s (State.startResumed s p) := (State.startResumed_only s p).logKept (by decide)

@[simp] theorem State.startResumed_kstep (s : State) (p : Nat) {r₀ : State} :
    LogKept r₀ (State.startResumed s p) ↔ LogKept r₀ s := (State.startResumed_kept s p).step

theorem State.becomeActive_kept (s : State) (p : Nat) :
    LogKept s (State.becomeActive s p) := by
  simp [State.becomeActive]

@[simp] theorem State.becomeActive_kstep (s : State) (p : Nat) {r₀ : State} :
    LogKept r₀ (State.becomeActive s p) ↔ LogKept r₀ s := (State.becomeActive_kept s p).step

theorem State.failAttempt_kept (s : State) (p : Nat) (code : Nat) :
    LogKept s (State.failAttempt s p code) := by
  simp [State.failAttempt]

@[simp] theorem State.failAttempt_kstep (s : State) (p : Nat) (code : Nat) {r₀ : State} :
    LogKept r₀ (State.failAttempt s p code) ↔ LogKept r₀ s := (State.failAttempt_kept s p code).step

theorem State.sendFrame_kept (s : State) (p : Nat) (l : Nat) :
    LogKept s (State.sendFrame s p l) := (State.sendFrame_only s p l).logKept (by decide)

@[simp] theorem State.sendFrame_kstep (s : State) (p : Nat) (l : Nat) {r₀ : State} :
    LogKept r₀ (State.sendFrame s p l) ↔ LogKept r₀ s := (State.sendFrame_kept s p l).step

theorem State.idlePort_kept (s : State) (p : Nat) :
    LogKept s (State.idlePort s p) := (State.idlePort_only s p).logKept (by decide)

@[simp] theorem State.idlePort_kstep (s : State) (p : Nat) {r₀ : State} :
    LogKept r₀ (State.idlePort s p) ↔ LogKept r₀ s := (State.idlePort_kept s p).step

theorem State.storeEq_kept (s : State) (p : Nat) (x : TrainInput) :
    LogKept s (State.storeEq s p x) := (State.storeEq_only s p x).logKept (by decide)

@[simp] theorem State.storeEq_kstep (s : State) (p : Nat) (x : TrainInput) {r₀ : State} :
    LogKept r₀ (State.storeEq s p x) ↔ LogKept r₀ s := (State.storeEq_kept s p x).step

theorem State.adaptDfe_kept (s : State) (p : Nat) :
    LogKept s (State.adaptDfe s p) := (State.adaptDfe_only s p).logKept (by decide)

@[simp] theorem State.adaptDfe_kstep (s : State) (p : Nat) {r₀ : State} :
    LogKept r₀ (State.adaptDfe s p) ↔ LogKept r₀ s := (State.adaptDfe_kept s p).step

theorem State.toState_kept (s : State) (p : Nat) (st : Nat) :
    LogKept s (State.toState s p st) := (State.toState_only s p st).logKept (by decide)

@[simp] theorem State.toState_kstep (s : State) (p : Nat) (st : Nat) {r₀ : State} :
    LogKept r₀ (State.toState s p st) ↔ LogKept r₀ s := (State.toState_kept s p st).step

theorem State.lockLanes_kept (s : State) (p : Nat) (lanes : Nat) :
    LogKept s (State.lockLanes s p lanes) := (State.lockLanes_only s p lanes).logKept (by decide)

@[simp] theorem State.lockLanes_kstep (s : State) (p : Nat) (lanes : Nat) {r₀ : State} :
    LogKept r₀ (State.lockLanes s p lanes) ↔ LogKept r₀ s := (State.lockLanes_kept s p lanes).step

theorem State.lockSaved_kept (s : State) (p : Nat) :
    LogKept s (State.lockSaved s p) := (State.lockSaved_only s p).logKept (by decide)

@[simp] theorem State.lockSaved_kstep (s : State) (p : Nat) {r₀ : State} :
    LogKept r₀ (State.lockSaved s p) ↔ LogKept r₀ s := (State.lockSaved_kept s p).step

theorem State.fixPolarity_kept (s : State) (p : Nat) :
    LogKept s (State.fixPolarity s p) := (State.fixPolarity_only s p).logKept (by decide)

@[simp] theorem State.fixPolarity_kstep (s : State) (p : Nat) {r₀ : State} :
    LogKept r₀ (State.fixPolarity s p) ↔ LogKept r₀ s := (State.fixPolarity_kept s p).step

theorem State.startFraming_kept (s : State) (p : Nat) :
    LogKept s (State.startFraming s p) := (State.startFraming_only s p).logKept (by decide)

@[simp] theorem State.startFraming_kstep (s : State) (p : Nat) {r₀ : State} :
    LogKept r₀ (State.startFraming s p) ↔ LogKept r₀ s := (State.startFraming_kept s p).step

theorem State.adapted_kept (s : State) (p : Nat) (x : TrainInput) (set : Nat × Nat) :
    LogKept s (State.adapted s p x set) := (State.adapted_only s p x set).logKept (by decide)

@[simp] theorem State.adapted_kstep (s : State) (p : Nat) (x : TrainInput) (set : Nat × Nat) {r₀ : State} :
    LogKept r₀ (State.adapted s p x set) ↔ LogKept r₀ s := (State.adapted_kept s p x set).step

theorem State.framed_kept (s : State) (p : Nat) (x : TrainInput) :
    LogKept s (State.framed s p x) := (State.framed_only s p x).logKept (by decide)

@[simp] theorem State.framed_kstep (s : State) (p : Nat) (x : TrainInput) {r₀ : State} :
    LogKept r₀ (State.framed s p x) ↔ LogKept r₀ s := (State.framed_kept s p x).step

theorem State.timerFail_kept (s : State) (p : Nat) (code : Nat) :
    LogKept s (State.timerFail s p code) := by
  simp [State.timerFail]

@[simp] theorem State.timerFail_kstep (s : State) (p : Nat) (code : Nat) {r₀ : State} :
    LogKept r₀ (State.timerFail s p code) ↔ LogKept r₀ s := (State.timerFail_kept s p code).step

theorem State.fastFails_kept (s : State) (p : Nat) :
    LogKept s (State.fastFails s p) := (State.fastFails_only s p).logKept (by decide)

@[simp] theorem State.fastFails_kstep (s : State) (p : Nat) {r₀ : State} :
    LogKept r₀ (State.fastFails s p) ↔ LogKept r₀ s := (State.fastFails_kept s p).step

theorem State.enterPower_kept (s : State) (p : Nat) :
    LogKept s (State.enterPower s p) := (State.enterPower_only s p).logKept (by decide)

@[simp] theorem State.enterPower_kstep (s : State) (p : Nat) {r₀ : State} :
    LogKept r₀ (State.enterPower s p) ↔ LogKept r₀ s := (State.enterPower_kept s p).step

theorem State.returnFlit_kept (s : State) (p : Nat) :
    LogKept s (State.returnFlit s p) := (State.returnFlit_only s p).logKept (by decide)

@[simp] theorem State.returnFlit_kstep (s : State) (p : Nat) {r₀ : State} :
    LogKept r₀ (State.returnFlit s p) ↔ LogKept r₀ s := (State.returnFlit_kept s p).step

theorem State.askPower_kept (s : State) (p : Nat) (arg : Nat) :
    LogKept s (State.askPower s p arg) := (State.askPower_only s p arg).logKept (by decide)

@[simp] theorem State.askPower_kstep (s : State) (p : Nat) (arg : Nat) {r₀ : State} :
    LogKept r₀ (State.askPower s p arg) ↔ LogKept r₀ s := (State.askPower_kept s p arg).step

theorem State.commandPort_kept (s : State) (p : Nat) (disable : Bool) :
    LogKept s (State.commandPort s p disable) := (State.commandPort_only s p disable).logKept (by decide)

@[simp] theorem State.commandPort_kstep (s : State) (p : Nat) (disable : Bool) {r₀ : State} :
    LogKept r₀ (State.commandPort s p disable) ↔ LogKept r₀ s := (State.commandPort_kept s p disable).step

theorem State.reach_kept (s : State) (t : Tick) :
    LogKept s (State.reach s t) := (State.reach_only s t).logKept (by decide)

@[simp] theorem State.reach_kstep (s : State) (t : Tick) {r₀ : State} :
    LogKept r₀ (State.reach s t) ↔ LogKept r₀ s := (State.reach_kept s t).step

theorem State.pushReq_kept (s : State) (r : Req) :
    LogKept s (State.pushReq s r) := (State.pushReq_only s r).logKept (by decide)

@[simp] theorem State.pushReq_kstep (s : State) (r : Req) {r₀ : State} :
    LogKept r₀ (State.pushReq s r) ↔ LogKept r₀ s := (State.pushReq_kept s r).step

theorem State.advanceAck_kept (s : State) (p : Nat) (seq : Nat) :
    LogKept s (State.advanceAck s p seq) := (State.advanceAck_only s p seq).logKept (by decide)

@[simp] theorem State.advanceAck_kstep (s : State) (p : Nat) (seq : Nat) {r₀ : State} :
    LogKept r₀ (State.advanceAck s p seq) ↔ LogKept r₀ s := (State.advanceAck_kept s p seq).step

theorem State.takeParsed_kept (s : State) (p : Nat) (seq : Nat) (off : Nat) (ticks : List (Nat × Tick)) (q : Parsed) :
    LogKept s (State.takeParsed s p seq off ticks q) := (State.takeParsed_only s p seq off ticks q).logKept (by decide)

@[simp] theorem State.takeParsed_kstep (s : State) (p : Nat) (seq : Nat) (off : Nat) (ticks : List (Nat × Tick)) (q : Parsed) {r₀ : State} :
    LogKept r₀ (State.takeParsed s p seq off ticks q) ↔ LogKept r₀ s := (State.takeParsed_kept s p seq off ticks q).step

theorem State.acceptCodeword_kept (s : State) (p : Nat) (tick : Tick) (data : List Byte) :
    LogKept s (State.acceptCodeword s p tick data) := (State.acceptCodeword_only s p tick data).logKept (by decide)

@[simp] theorem State.acceptCodeword_kstep (s : State) (p : Nat) (tick : Tick) (data : List Byte) {r₀ : State} :
    LogKept r₀ (State.acceptCodeword s p tick data) ↔ LogKept r₀ s := (State.acceptCodeword_kept s p tick data).step

theorem State.sendNak_kept (s : State) (p : Nat) :
    LogKept s (State.sendNak s p) := (State.sendNak_only s p).logKept (by decide)

@[simp] theorem State.sendNak_kstep (s : State) (p : Nat) {r₀ : State} :
    LogKept r₀ (State.sendNak s p) ↔ LogKept r₀ s := (State.sendNak_kept s p).step

theorem State.countSer_kept (s : State) (p : Nat) (places : List (Nat × Nat)) :
    LogKept s (State.countSer s p places) := (State.countSer_only s p places).logKept (by decide)

@[simp] theorem State.countSer_kstep (s : State) (p : Nat) (places : List (Nat × Nat)) {r₀ : State} :
    LogKept r₀ (State.countSer s p places) ↔ LogKept r₀ s := (State.countSer_kept s p places).step

theorem State.countFec_kept (s : State) (p : Nat) (a2 : Option (List (Nat × Nat))) :
    LogKept s (State.countFec s p a2) := (State.countFec_only s p a2).logKept (by decide)

@[simp] theorem State.countFec_kstep (s : State) (p : Nat) (a2 : Option (List (Nat × Nat))) {r₀ : State} :
    LogKept r₀ (State.countFec s p a2) ↔ LogKept r₀ s := (State.countFec_kept s p a2).step

theorem State.receiveResync_kept (s : State) (p : Nat) (seq : Nat) :
    LogKept s (State.receiveResync s p seq) := (State.receiveResync_only s p seq).logKept (by decide)

@[simp] theorem State.receiveResync_kstep (s : State) (p : Nat) (seq : Nat) {r₀ : State} :
    LogKept r₀ (State.receiveResync s p seq) ↔ LogKept r₀ s := (State.receiveResync_kept s p seq).step

theorem State.receiveData_kept (s : State) (p : Nat) (tick : Tick) (data : List Byte) :
    LogKept s (State.receiveData s p tick data) := (State.receiveData_only s p tick data).logKept (by decide)

@[simp] theorem State.receiveData_kstep (s : State) (p : Nat) (tick : Tick) (data : List Byte) {r₀ : State} :
    LogKept r₀ (State.receiveData s p tick data) ↔ LogKept r₀ s := (State.receiveData_kept s p tick data).step

theorem State.receiveSlot_kept (s : State) (p : Nat) (c : Codeword) :
    LogKept s (State.receiveSlot s p c) := (State.receiveSlot_only s p c).logKept (by decide)

@[simp] theorem State.receiveSlot_kstep (s : State) (p : Nat) (c : Codeword) {r₀ : State} :
    LogKept r₀ (State.receiveSlot s p c) ↔ LogKept r₀ s := (State.receiveSlot_kept s p c).step

theorem State.replay_kept (s : State) (p : Nat) :
    LogKept s (State.replay s p) := (State.replay_only s p).logKept (by decide)

@[simp] theorem State.replay_kstep (s : State) (p : Nat) {r₀ : State} :
    LogKept r₀ (State.replay s p) ↔ LogKept r₀ s := (State.replay_kept s p).step

theorem State.takeAck_kept (s : State) (p : Nat) (ack : Nat) :
    LogKept s (State.takeAck s p ack) := (State.takeAck_only s p ack).logKept (by decide)

@[simp] theorem State.takeAck_kstep (s : State) (p : Nat) (ack : Nat) {r₀ : State} :
    LogKept r₀ (State.takeAck s p ack) ↔ LogKept r₀ s := (State.takeAck_kept s p ack).step

theorem State.takeCredits_kept (s : State) (p : Nat) (c2 : Nat) (c3 : Nat) :
    LogKept s (State.takeCredits s p c2 c3) := (State.takeCredits_only s p c2 c3).logKept (by decide)

@[simp] theorem State.takeCredits_kstep (s : State) (p : Nat) (c2 : Nat) (c3 : Nat) {r₀ : State} :
    LogKept r₀ (State.takeCredits s p c2 c3) ↔ LogKept r₀ s := (State.takeCredits_kept s p c2 c3).step

theorem State.answer_kept (s : State) (r : Req) (status : Nat) (arg : Nat) (payload : List Byte) (packets : optParam Nat 0) (measured : optParam (Option Nat) none) :
    LogKept s (State.answer s r status arg payload packets measured) := (State.answer_only s r status arg payload packets measured).logKept (by decide)

@[simp] theorem State.answer_kstep (s : State) (r : Req) (status : Nat) (arg : Nat) (payload : List Byte) (packets : optParam Nat 0) (measured : optParam (Option Nat) none) {r₀ : State} :
    LogKept r₀ (State.answer s r status arg payload packets measured) ↔ LogKept r₀ s := (State.answer_kept s r status arg payload packets measured).step

theorem State.measureLatency_kept (s : State) (r : Reply) :
    LogKept s (State.measureLatency s r) := (State.measureLatency_only s r).logKept (by decide)

@[simp] theorem State.measureLatency_kstep (s : State) (r : Reply) {r₀ : State} :
    LogKept r₀ (State.measureLatency s r) ↔ LogKept r₀ s := (State.measureLatency_kept s r).step

theorem State.returnCredits_kept (s : State) (r : Req) :
    LogKept s (State.returnCredits s r) := (State.returnCredits_only s r).logKept (by decide)

@[simp] theorem State.returnCredits_kstep (s : State) (r : Req) {r₀ : State} :
    LogKept r₀ (State.returnCredits s r) ↔ LogKept r₀ s := (State.returnCredits_kept s r).step

theorem State.takeReq_kept (s : State) (r : Req) :
    LogKept s (State.takeReq s r) := (State.takeReq_only s r).logKept (by decide)

@[simp] theorem State.takeReq_kstep (s : State) (r : Req) {r₀ : State} :
    LogKept r₀ (State.takeReq s r) ↔ LogKept r₀ s := (State.takeReq_kept s r).step

theorem State.keepRoom_kept (s : State) (r : Req) (longest : Nat) :
    LogKept s (State.keepRoom s r longest) := (State.keepRoom_only s r longest).logKept (by decide)

@[simp] theorem State.keepRoom_kstep (s : State) (r : Req) (longest : Nat) {r₀ : State} :
    LogKept r₀ (State.keepRoom s r longest) ↔ LogKept r₀ s := (State.keepRoom_kept s r longest).step

theorem State.dropRoom_kept (s : State) (r : Req) :
    LogKept s (State.dropRoom s r) := (State.dropRoom_only s r).logKept (by decide)

@[simp] theorem State.dropRoom_kstep (s : State) (r : Req) {r₀ : State} :
    LogKept r₀ (State.dropRoom s r) ↔ LogKept r₀ s := (State.dropRoom_kept s r).step

theorem State.refuseLength_kept (s : State) (r : Req) :
    LogKept s (State.refuseLength s r) := (State.refuseLength_only s r).logKept (by decide)

@[simp] theorem State.refuseLength_kstep (s : State) (r : Req) {r₀ : State} :
    LogKept r₀ (State.refuseLength s r) ↔ LogKept r₀ s := (State.refuseLength_kept s r).step

theorem State.refuseEarly_kept (s : State) (r : Req) (st : Nat) :
    LogKept s (State.refuseEarly s r st) := (State.refuseEarly_only s r st).logKept (by decide)

@[simp] theorem State.refuseEarly_kstep (s : State) (r : Req) (st : Nat) {r₀ : State} :
    LogKept r₀ (State.refuseEarly s r st) ↔ LogKept r₀ s := (State.refuseEarly_kept s r st).step

theorem State.failFirst_kept (s : State) (p : Nat) (long : Bool) :
    LogKept s (State.failFirst s p long) := (State.failFirst_only s p long).logKept (by decide)

@[simp] theorem State.failFirst_kstep (s : State) (p : Nat) (long : Bool) {r₀ : State} :
    LogKept r₀ (State.failFirst s p long) ↔ LogKept r₀ s := (State.failFirst_kept s p long).step

theorem State.failAgain_kept (s : State) (p : Nat) :
    LogKept s (State.failAgain s p) := (State.failAgain_only s p).logKept (by decide)

@[simp] theorem State.failAgain_kstep (s : State) (p : Nat) {r₀ : State} :
    LogKept r₀ (State.failAgain s p) ↔ LogKept r₀ s := (State.failAgain_kept s p).step

theorem State.failFatal_kept (s : State) (p : Nat) (long : Bool) :
    LogKept s (State.failFatal s p long) := by
  simp [State.failFatal]

@[simp] theorem State.failFatal_kstep (s : State) (p : Nat) (long : Bool) {r₀ : State} :
    LogKept r₀ (State.failFatal s p long) ↔ LogKept r₀ s := (State.failFatal_kept s p long).step

theorem State.syncPools_kept (s : State) :
    LogKept s (State.syncPools s) := (State.syncPools_only s).logKept (by decide)

@[simp] theorem State.syncPools_kstep (s : State) {r₀ : State} :
    LogKept r₀ (State.syncPools s) ↔ LogKept r₀ s := (State.syncPools_kept s).step

theorem State.takeRow_kept (s : State) (pc : Nat) (u₀ : RowAt × State) (h : State.takeRow s pc = some u₀) :
    LogKept s u₀.2 := (State.takeRow_only s pc u₀ h).logKept (by decide)

theorem State.giveRow_kept (s : State) (r : RowAt) :
    LogKept s (State.giveRow s r) := (State.giveRow_only s r).logKept (by decide)

@[simp] theorem State.giveRow_kstep (s : State) (r : RowAt) {r₀ : State} :
    LogKept r₀ (State.giveRow s r) ↔ LogKept r₀ s := (State.giveRow_kept s r).step

theorem State.takeTableRow_kept (s : State) (avoid : Option Nat) (u₀ : RowAt × State) (h : State.takeTableRow s avoid = some u₀) :
    LogKept s u₀.2 := (State.takeTableRow_only s avoid u₀ h).logKept (by decide)

theorem State.setQueue_kept (s : State) (q : Nat) (x : Queue) :
    LogKept s (State.setQueue s q x) := (State.setQueue_only s q x).logKept (by decide)

@[simp] theorem State.setQueue_kstep (s : State) (q : Nat) (x : Queue) {r₀ : State} :
    LogKept r₀ (State.setQueue s q x) ↔ LogKept r₀ s := (State.setQueue_kept s q x).step

theorem State.openBlock_kept (s : State) (q : Nat) (bseq : Nat) :
    LogKept s (State.openBlock s q bseq) := (State.openBlock_only s q bseq).logKept (by decide)

@[simp] theorem State.openBlock_kstep (s : State) (q : Nat) (bseq : Nat) {r₀ : State} :
    LogKept r₀ (State.openBlock s q bseq) ↔ LogKept r₀ s := (State.openBlock_kept s q bseq).step

theorem State.openBlocks_kept (s : State) (q : Nat) (a2 : Nat) (a3 : Nat) :
    LogKept s (State.openBlocks s q a2 a3) := (State.openBlocks_only s q a2 a3).logKept (by decide)

@[simp] theorem State.openBlocks_kstep (s : State) (q : Nat) (a2 : Nat) (a3 : Nat) {r₀ : State} :
    LogKept r₀ (State.openBlocks s q a2 a3) ↔ LogKept r₀ s := (State.openBlocks_kept s q a2 a3).step

theorem State.releasePlaces_kept (s : State) (gone : List Place) :
    LogKept s (State.releasePlaces s gone) := (State.releasePlaces_only s gone).logKept (by decide)

@[simp] theorem State.releasePlaces_kstep (s : State) (gone : List Place) {r₀ : State} :
    LogKept r₀ (State.releasePlaces s gone) ↔ LogKept r₀ s := (State.releasePlaces_kept s gone).step

theorem State.evictHead_kept (s : State) :
    LogKept s (State.evictHead s) := (State.evictHead_only s).logKept (by decide)

@[simp] theorem State.evictHead_kstep (s : State) {r₀ : State} :
    LogKept r₀ (State.evictHead s) ↔ LogKept r₀ s := (State.evictHead_kept s).step

theorem State.prefetchBlock_kept (s : State) (q : Nat) (bseq : Nat) (cls : Nat) :
    LogKept s (State.prefetchBlock s q bseq cls) := (State.prefetchBlock_only s q bseq cls).logKept (by decide)

@[simp] theorem State.prefetchBlock_kstep (s : State) (q : Nat) (bseq : Nat) (cls : Nat) {r₀ : State} :
    LogKept r₀ (State.prefetchBlock s q bseq cls) ↔ LogKept r₀ s := (State.prefetchBlock_kept s q bseq cls).step

theorem State.touchHead_kept (s : State) (q : Nat) (bseq : Nat) :
    LogKept s (State.touchHead s q bseq) := (State.touchHead_only s q bseq).logKept (by decide)

@[simp] theorem State.touchHead_kstep (s : State) (q : Nat) (bseq : Nat) {r₀ : State} :
    LogKept r₀ (State.touchHead s q bseq) ↔ LogKept r₀ s := (State.touchHead_kept s q bseq).step

theorem State.stackWrite_kept (s : State) (k : Nat) (b : List Byte) :
    LogKept s (State.stackWrite s k b) := (State.stackWrite_only s k b).logKept (by decide)

@[simp] theorem State.stackWrite_kstep (s : State) (k : Nat) (b : List Byte) {r₀ : State} :
    LogKept r₀ (State.stackWrite s k b) ↔ LogKept r₀ s := (State.stackWrite_kept s k b).step

theorem State.landWords_kept (s : State) (r : MemReq) :
    LogKept s (State.landWords s r) := (State.landWords_only s r).logKept (by decide)

@[simp] theorem State.landWords_kstep (s : State) (r : MemReq) {r₀ : State} :
    LogKept r₀ (State.landWords s r) ↔ LogKept r₀ s := (State.landWords_kept s r).step

theorem State.landEntry_kept (s : State) (e : MemEntry) :
    LogKept s (State.landEntry s e) := (State.landEntry_only s e).logKept (by decide)

@[simp] theorem State.landEntry_kstep (s : State) (e : MemEntry) {r₀ : State} :
    LogKept r₀ (State.landEntry s e) ↔ LogKept r₀ s := (State.landEntry_kept s e).step

theorem State.setPc_kept (s : State) (n : Nat) (x : Pc) :
    LogKept s (State.setPc s n x) := (State.setPc_only s n x).logKept (by decide)

@[simp] theorem State.setPc_kstep (s : State) (n : Nat) (x : Pc) {r₀ : State} :
    LogKept r₀ (State.setPc s n x) ↔ LogKept r₀ s := (State.setPc_kept s n x).step

theorem State.wakePc_kept (s : State) (n : Nat) :
    LogKept s (State.wakePc s n) := (State.wakePc_only s n).logKept (by decide)

@[simp] theorem State.wakePc_kstep (s : State) (n : Nat) {r₀ : State} :
    LogKept r₀ (State.wakePc s n) ↔ LogKept r₀ s := (State.wakePc_kept s n).step

theorem State.closeRows_kept (s : State) (n : Nat) :
    LogKept s (State.closeRows s n) := (State.closeRows_only s n).logKept (by decide)

@[simp] theorem State.closeRows_kstep (s : State) (n : Nat) {r₀ : State} :
    LogKept r₀ (State.closeRows s n) ↔ LogKept r₀ s := (State.closeRows_kept s n).step

theorem State.discardQueued_kept (s : State) (n : Nat) :
    LogKept s (State.discardQueued s n) := (State.discardQueued_only s n).logKept (by decide)

@[simp] theorem State.discardQueued_kstep (s : State) (n : Nat) {r₀ : State} :
    LogKept r₀ (State.discardQueued s n) ↔ LogKept r₀ s := (State.discardQueued_kept s n).step

theorem State.charge_kept (s : State) (n : Nat) (c : Nat) :
    LogKept s (State.charge s n c).2 := (State.charge_only s n c).logKept (by decide)

@[simp] theorem State.charge_kstep (s : State) (n : Nat) (c : Nat) {r₀ : State} :
    LogKept r₀ (State.charge s n c).2 ↔ LogKept r₀ s := (State.charge_kept s n c).step

theorem State.noteDrain_kept (s : State) (n : Nat) :
    LogKept s (State.noteDrain s n) := (State.noteDrain_only s n).logKept (by decide)

@[simp] theorem State.noteDrain_kstep (s : State) (n : Nat) {r₀ : State} :
    LogKept r₀ (State.noteDrain s n) ↔ LogKept r₀ s := (State.noteDrain_kept s n).step

theorem State.enterQueue_kept (s : State) (r : MemReq) :
    LogKept s (State.enterQueue s r) := (State.enterQueue_only s r).logKept (by decide)

@[simp] theorem State.enterQueue_kstep (s : State) (r : MemReq) {r₀ : State} :
    LogKept r₀ (State.enterQueue s r) ↔ LogKept r₀ s := (State.enterQueue_kept s r).step

theorem State.mergeWrite_kept (s : State) (r : MemReq) (w : MemEntry) :
    LogKept s (State.mergeWrite s r w) := (State.mergeWrite_only s r w).logKept (by decide)

@[simp] theorem State.mergeWrite_kstep (s : State) (r : MemReq) (w : MemEntry) {r₀ : State} :
    LogKept r₀ (State.mergeWrite s r w) ↔ LogKept r₀ s := (State.mergeWrite_kept s r w).step

theorem State.countForward_kept (s : State) (n : Nat) :
    LogKept s (State.countForward s n) := (State.countForward_only s n).logKept (by decide)

@[simp] theorem State.countForward_kstep (s : State) (n : Nat) {r₀ : State} :
    LogKept r₀ (State.countForward s n) ↔ LogKept r₀ s := (State.countForward_kept s n).step

theorem State.acceptReq_kept (s : State) (r : MemReq) (u₀ : State) (h : State.acceptReq s r = some u₀) :
    LogKept s u₀ := (State.acceptReq_only s r u₀ h).logKept (by decide)

theorem State.arrive_kept (s : State) (r : MemReq) :
    LogKept s (State.arrive s r) := (State.arrive_only s r).logKept (by decide)

@[simp] theorem State.arrive_kstep (s : State) (r : MemReq) {r₀ : State} :
    LogKept r₀ (State.arrive s r) ↔ LogKept r₀ s := (State.arrive_kept s r).step

theorem State.request_kept (s : State) (r : MemReq) :
    LogKept s (State.request s r) := (State.request_only s r).logKept (by decide)

@[simp] theorem State.request_kstep (s : State) (r : MemReq) {r₀ : State} :
    LogKept r₀ (State.request s r) ↔ LogKept r₀ s := (State.request_kept s r).step

theorem State.writeBlock_kept (s : State) (a : RowAt) (cls : Nat) (hint : Nat) (b : List Byte) :
    LogKept s (State.writeBlock s a cls hint b) := (State.writeBlock_only s a cls hint b).logKept (by decide)

@[simp] theorem State.writeBlock_kstep (s : State) (a : RowAt) (cls : Nat) (hint : Nat) (b : List Byte) {r₀ : State} :
    LogKept r₀ (State.writeBlock s a cls hint b) ↔ LogKept r₀ s := (State.writeBlock_kept s a cls hint b).step

theorem State.writeBlocks_kept (s : State) (q : Nat) (x : Queue) (l : List (Nat × TailBlock)) :
    LogKept s (State.writeBlocks s q x l) := (State.writeBlocks_only s q x l).logKept (by decide)

@[simp] theorem State.writeBlocks_kstep (s : State) (q : Nat) (x : Queue) (l : List (Nat × TailBlock)) {r₀ : State} :
    LogKept r₀ (State.writeBlocks s q x l) ↔ LogKept r₀ s := (State.writeBlocks_kept s q x l).step

theorem State.breakQueue_kept (s : State) (q : Nat) (counts : Nat × Nat × Nat) :
    LogKept s (State.breakQueue s q counts) := by
  simp [State.breakQueue]

@[simp] theorem State.breakQueue_kstep (s : State) (q : Nat) (counts : Nat × Nat × Nat) {r₀ : State} :
    LogKept r₀ (State.breakQueue s q counts) ↔ LogKept r₀ s := (State.breakQueue_kept s q counts).step

theorem State.refuseState_kept (s : State) (r : Req) (status : Nat) :
    LogKept s (State.refuseState s r status) := (State.refuseState_only s r status).logKept (by decide)

@[simp] theorem State.refuseState_kstep (s : State) (r : Req) (status : Nat) {r₀ : State} :
    LogKept r₀ (State.refuseState s r status) ↔ LogKept r₀ s := (State.refuseState_kept s r status).step

theorem State.refuseEnq_kept (s : State) (r : Req) (st : Nat) :
    LogKept s (State.refuseEnq s r st) := by
  simp [State.refuseEnq]

@[simp] theorem State.refuseEnq_kstep (s : State) (r : Req) (st : Nat) {r₀ : State} :
    LogKept r₀ (State.refuseEnq s r st) ↔ LogKept r₀ s := (State.refuseEnq_kept s r st).step

theorem State.openFor_kept (s : State) (r : Req) :
    LogKept s (State.openFor s r) := (State.openFor_only s r).logKept (by decide)

@[simp] theorem State.openFor_kstep (s : State) (r : Req) {r₀ : State} :
    LogKept r₀ (State.openFor s r) ↔ LogKept r₀ s := (State.openFor_kept s r).step

theorem State.commitEnq_kept (s : State) (r : Req) :
    LogKept s (State.commitEnq s r) := (State.commitEnq_only s r).logKept (by decide)

@[simp] theorem State.commitEnq_kstep (s : State) (r : Req) {r₀ : State} :
    LogKept r₀ (State.commitEnq s r) ↔ LogKept r₀ s := (State.commitEnq_kept s r).step

theorem State.readSectors_kept (s : State) (q : Nat) (x : Queue) (cls : Nat) (hint : Nat) (b : Nat) (lo : Nat) (hi : Nat) :
    LogKept s (State.readSectors s q x cls hint b lo hi) := (State.readSectors_only s q x cls hint b lo hi).logKept (by decide)

@[simp] theorem State.readSectors_kstep (s : State) (q : Nat) (x : Queue) (cls : Nat) (hint : Nat) (b : Nat) (lo : Nat) (hi : Nat) {r₀ : State} :
    LogKept r₀ (State.readSectors s q x cls hint b lo hi) ↔ LogKept r₀ s := (State.readSectors_kept s q x cls hint b lo hi).step

theorem State.readStream_kept (s : State) (r : Req) (x : Queue) (lo : Nat) (hi : Nat) :
    LogKept s (State.readStream s r x lo hi) := (State.readStream_only s r x lo hi).logKept (by decide)

@[simp] theorem State.readStream_kstep (s : State) (r : Req) (x : Queue) (lo : Nat) (hi : Nat) {r₀ : State} :
    LogKept r₀ (State.readStream s r x lo hi) ↔ LogKept r₀ s := (State.readStream_kept s r x lo hi).step

theorem State.readPackets_kept (s : State) (r : Req) (x : Queue) (got : List Packet) :
    LogKept s (State.readPackets s r x got) := (State.readPackets_only s r x got).logKept (by decide)

@[simp] theorem State.readPackets_kstep (s : State) (r : Req) (x : Queue) (got : List Packet) {r₀ : State} :
    LogKept r₀ (State.readPackets s r x got) ↔ LogKept r₀ s := (State.readPackets_kept s r x got).step

theorem State.fetchBlock_kept (s : State) (q : Nat) (x : Queue) (cls : Nat) (hint : Nat) (b : Nat) :
    LogKept s (State.fetchBlock s q x cls hint b) := (State.fetchBlock_only s q x cls hint b).logKept (by decide)

@[simp] theorem State.fetchBlock_kstep (s : State) (q : Nat) (x : Queue) (cls : Nat) (hint : Nat) (b : Nat) {r₀ : State} :
    LogKept r₀ (State.fetchBlock s q x cls hint b) ↔ LogKept r₀ s := (State.fetchBlock_kept s q x cls hint b).step

theorem State.prefetchQueue_kept (s : State) (q : Nat) (cls : Nat) (hint : Nat) :
    LogKept s (State.prefetchQueue s q cls hint) := (State.prefetchQueue_only s q cls hint).logKept (by decide)

@[simp] theorem State.prefetchQueue_kstep (s : State) (q : Nat) (cls : Nat) (hint : Nat) {r₀ : State} :
    LogKept r₀ (State.prefetchQueue s q cls hint) ↔ LogKept r₀ s := (State.prefetchQueue_kept s q cls hint).step

theorem State.applyWalk_kept (s : State) (r : Req) (x : Queue) (w : Walk) :
    LogKept s (State.applyWalk s r x w) := by
  simp [State.applyWalk]

@[simp] theorem State.applyWalk_kstep (s : State) (r : Req) (x : Queue) (w : Walk) {r₀ : State} :
    LogKept r₀ (State.applyWalk s r x w) ↔ LogKept r₀ s := (State.applyWalk_kept s r x w).step

theorem State.answerDrop_kept (s : State) (r : Req) (st : Nat) (bytes : Nat) (n : Nat) (seq : Nat) :
    LogKept s (State.answerDrop s r st bytes n seq) := (State.answerDrop_only s r st bytes n seq).logKept (by decide)

@[simp] theorem State.answerDrop_kstep (s : State) (r : Req) (st : Nat) (bytes : Nat) (n : Nat) (seq : Nat) {r₀ : State} :
    LogKept r₀ (State.answerDrop s r st bytes n seq) ↔ LogKept r₀ s := (State.answerDrop_kept s r st bytes n seq).step

theorem State.headSojourn_kept (s : State) (q : Nat) (x : Queue) (t : Tick) :
    LogKept s (State.headSojourn s q x t).2 := (State.headSojourn_only s q x t).logKept (by decide)

@[simp] theorem State.headSojourn_kstep (s : State) (q : Nat) (x : Queue) (t : Tick) {r₀ : State} :
    LogKept r₀ (State.headSojourn s q x t).2 ↔ LogKept r₀ s := (State.headSojourn_kept s q x t).step

theorem State.startSnapshot_kept (s : State) (src : SnapSource) (t : Tick) :
    LogKept s (State.startSnapshot s src t) := (State.startSnapshot_only s src t).logKept (by decide)

@[simp] theorem State.startSnapshot_kstep (s : State) (src : SnapSource) (t : Tick) {r₀ : State} :
    LogKept r₀ (State.startSnapshot s src t) ↔ LogKept r₀ s := (State.startSnapshot_kept s src t).step

theorem State.finishSnapshot_kept (s : State) (src : SnapSource) (t : Tick) :
    LogKept s (State.finishSnapshot s src t) := (State.finishSnapshot_only s src t).logKept (by decide)

@[simp] theorem State.finishSnapshot_kstep (s : State) (src : SnapSource) (t : Tick) {r₀ : State} :
    LogKept r₀ (State.finishSnapshot s src t) ↔ LogKept r₀ s := (State.finishSnapshot_kept s src t).step

theorem State.updateQueues_kept (s : State) (first : Nat) (n : Nat) (f : Queue → Queue) :
    LogKept s (State.updateQueues s first n f) := (State.updateQueues_only s first n f).logKept (by decide)

@[simp] theorem State.updateQueues_kstep (s : State) (first : Nat) (n : Nat) (f : Queue → Queue) {r₀ : State} :
    LogKept r₀ (State.updateQueues s first n f) ↔ LogKept r₀ s := (State.updateQueues_kept s first n f).step

theorem State.syncQueues_kept (s : State) :
    LogKept s (State.syncQueues s) := (State.syncQueues_only s).logKept (by decide)

@[simp] theorem State.syncQueues_kstep (s : State) {r₀ : State} :
    LogKept r₀ (State.syncQueues s) ↔ LogKept r₀ s := (State.syncQueues_kept s).step

theorem State.scanHeaders_kept (s : State) (l : List Place) :
    LogKept s (State.scanHeaders s l) := (State.scanHeaders_only s l).logKept (by decide)

@[simp] theorem State.scanHeaders_kstep (s : State) (l : List Place) {r₀ : State} :
    LogKept r₀ (State.scanHeaders s l) ↔ LogKept r₀ s := (State.scanHeaders_kept s l).step

theorem State.reclaim_kept (s : State) (q : Nat × Queue) :
    LogKept s (State.reclaim s q) := by
  simp [State.reclaim]

@[simp] theorem State.reclaim_kstep (s : State) (q : Nat × Queue) {r₀ : State} :
    LogKept r₀ (State.reclaim s q) ↔ LogKept r₀ s := (State.reclaim_kept s q).step

theorem State.changeEffect_kept (s : State) (c : QueueChange) :
    LogKept s (State.changeEffect s c).1 := by
  simp only [State.changeEffect]
  (repeat' split) <;> simp

@[simp] theorem State.changeEffect_kstep (s : State) (c : QueueChange) {r₀ : State} :
    LogKept r₀ (State.changeEffect s c).1 ↔ LogKept r₀ s := (State.changeEffect_kept s c).step

theorem State.applyChange_kept (s : State) (c : QueueChange) :
    LogKept s (State.applyChange s c) := by
  simp [State.applyChange]

@[simp] theorem State.applyChange_kstep (s : State) (c : QueueChange) {r₀ : State} :
    LogKept r₀ (State.applyChange s c) ↔ LogKept r₀ s := (State.applyChange_kept s c).step

theorem State.addChange_kept (s : State) (e : Sqe) (k : QueueChangeKind) :
    LogKept s (State.addChange s e k) := (State.addChange_only s e k).logKept (by decide)

@[simp] theorem State.addChange_kstep (s : State) (e : Sqe) (k : QueueChangeKind) {r₀ : State} :
    LogKept r₀ (State.addChange s e k) ↔ LogKept r₀ s := (State.addChange_kept s e k).step

theorem State.putTable_kept (s : State) (n : Nat) (t : Option Table) :
    LogKept s (State.putTable s n t) := (State.putTable_only s n t).logKept (by decide)

@[simp] theorem State.putTable_kstep (s : State) (n : Nat) (t : Option Table) {r₀ : State} :
    LogKept r₀ (State.putTable s n t) ↔ LogKept r₀ s := (State.putTable_kept s n t).step

theorem State.giveTableRow_kept (s : State) (r : TableRow) :
    LogKept s (State.giveTableRow s r) := (State.giveTableRow_only s r).logKept (by decide)

@[simp] theorem State.giveTableRow_kstep (s : State) (r : TableRow) {r₀ : State} :
    LogKept r₀ (State.giveTableRow s r) ↔ LogKept r₀ s := (State.giveTableRow_kept s r).step

theorem State.addTableRow_kept (s : State) (r : TableRow) :
    LogKept s (State.addTableRow s r) := (State.addTableRow_only s r).logKept (by decide)

@[simp] theorem State.addTableRow_kstep (s : State) (r : TableRow) {r₀ : State} :
    LogKept r₀ (State.addTableRow s r) ↔ LogKept r₀ s := (State.addTableRow_kept s r).step

theorem State.newTableRow_kept (s : State) (n : Nat) (created : Tick) (pair : Bool) :
    LogKept s (State.newTableRow s n created pair) := (State.newTableRow_only s n created pair).logKept (by decide)

@[simp] theorem State.newTableRow_kstep (s : State) (n : Nat) (created : Tick) (pair : Bool) {r₀ : State} :
    LogKept r₀ (State.newTableRow s n created pair) ↔ LogKept r₀ s := (State.newTableRow_kept s n created pair).step

theorem State.settleRows_kept (s : State) :
    LogKept s (State.settleRows s) := (State.settleRows_only s).logKept (by decide)

@[simp] theorem State.settleRows_kstep (s : State) {r₀ : State} :
    LogKept r₀ (State.settleRows s) ↔ LogKept r₀ s := (State.settleRows_kept s).step

theorem State.rehouse_kept (s : State) (bad : TableRow → RowAt → Bool) (back : Bool) :
    LogKept s (State.rehouse s bad back) := (State.rehouse_only s bad back).logKept (by decide)

@[simp] theorem State.rehouse_kstep (s : State) (bad : TableRow → RowAt → Bool) (back : Bool) {r₀ : State} :
    LogKept r₀ (State.rehouse s bad back) ↔ LogKept r₀ s := (State.rehouse_kept s bad back).step

theorem State.renewRows_kept (s : State) :
    LogKept s (State.renewRows s) := (State.renewRows_only s).logKept (by decide)

@[simp] theorem State.renewRows_kstep (s : State) {r₀ : State} :
    LogKept r₀ (State.renewRows s) ↔ LogKept r₀ s := (State.renewRows_kept s).step

theorem State.showTiers_kept (s : State) :
    LogKept s (State.showTiers s) := (State.showTiers_only s).logKept (by decide)

@[simp] theorem State.showTiers_kstep (s : State) {r₀ : State} :
    LogKept r₀ (State.showTiers s) ↔ LogKept r₀ s := (State.showTiers_kept s).step

theorem State.syncTables_kept (s : State) :
    LogKept s (State.syncTables s) := (State.syncTables_only s).logKept (by decide)

@[simp] theorem State.syncTables_kstep (s : State) {r₀ : State} :
    LogKept r₀ (State.syncTables s) ↔ LogKept r₀ s := (State.syncTables_kept s).step

theorem State.putTableAt_kept (s : State) (n : Nat) (tick : Tick) (t : Table) :
    LogKept s (State.putTableAt s n tick t) := (State.putTableAt_only s n tick t).logKept (by decide)

@[simp] theorem State.putTableAt_kstep (s : State) (n : Nat) (tick : Tick) (t : Table) {r₀ : State} :
    LogKept r₀ (State.putTableAt s n tick t) ↔ LogKept r₀ s := (State.putTableAt_kept s n tick t).step

theorem State.touchNode_kept (s : State) (n : Nat) (t : Table) (cls : Nat) (hint : Nat) (tick : Tick) (writes : Bool) (key : List Byte) (line : Nat) :
    LogKept s (State.touchNode s n t cls hint tick writes key line) := (State.touchNode_only s n t cls hint tick writes key line).logKept (by decide)

@[simp] theorem State.touchNode_kstep (s : State) (n : Nat) (t : Table) (cls : Nat) (hint : Nat) (tick : Tick) (writes : Bool) (key : List Byte) (line : Nat) {r₀ : State} :
    LogKept r₀ (State.touchNode s n t cls hint tick writes key line) ↔ LogKept r₀ s := (State.touchNode_kept s n t cls hint tick writes key line).step

theorem State.touchKey_kept (s : State) (n : Nat) (t : Table) (cls : Nat) (hint : Nat) (tick : Tick) (writes : Bool) (key : List Byte) :
    LogKept s (State.touchKey s n t cls hint tick writes key) := (State.touchKey_only s n t cls hint tick writes key).logKept (by decide)

@[simp] theorem State.touchKey_kstep (s : State) (n : Nat) (t : Table) (cls : Nat) (hint : Nat) (tick : Tick) (writes : Bool) (key : List Byte) {r₀ : State} :
    LogKept r₀ (State.touchKey s n t cls hint tick writes key) ↔ LogKept r₀ s := (State.touchKey_kept s n t cls hint tick writes key).step

theorem State.refuseTable_kept (s : State) (r : Req) (status : Nat) :
    LogKept s (State.refuseTable s r status) := (State.refuseTable_only s r status).logKept (by decide)

@[simp] theorem State.refuseTable_kstep (s : State) (r : Req) (status : Nat) {r₀ : State} :
    LogKept r₀ (State.refuseTable s r status) ↔ LogKept r₀ s := (State.refuseTable_kept s r status).step

theorem State.countLookups_kept (s : State) (as : List Answer) :
    LogKept s (State.countLookups s as) := (State.countLookups_only s as).logKept (by decide)

@[simp] theorem State.countLookups_kstep (s : State) (as : List Answer) {r₀ : State} :
    LogKept r₀ (State.countLookups s as) ↔ LogKept r₀ s := (State.countLookups_kept s as).step

theorem State.countOps_kept (s : State) (n : Nat) (tick : Tick) (k : Nat) :
    LogKept s (State.countOps s n tick k) := (State.countOps_only s n tick k).logKept (by decide)

@[simp] theorem State.countOps_kstep (s : State) (n : Nat) (tick : Tick) (k : Nat) {r₀ : State} :
    LogKept r₀ (State.countOps s n tick k) ↔ LogKept r₀ s := (State.countOps_kept s n tick k).step

theorem State.noteServed_kept (s : State) (n : Nat) (t : Table) (r : Req) :
    LogKept s (State.noteServed s n t r) := (State.noteServed_only s n t r).logKept (by decide)

@[simp] theorem State.noteServed_kstep (s : State) (n : Nat) (t : Table) (r : Req) {r₀ : State} :
    LogKept r₀ (State.noteServed s n t r) ↔ LogKept r₀ s := (State.noteServed_kept s n t r).step

theorem State.serveLookup_kept (s : State) (r : Req) :
    LogKept s (State.serveLookup s r) := (State.serveLookup_only s r).logKept (by decide)

@[simp] theorem State.serveLookup_kstep (s : State) (r : Req) {r₀ : State} :
    LogKept r₀ (State.serveLookup s r) ↔ LogKept r₀ s := (State.serveLookup_kept s r).step

theorem State.serveMulti_kept (s : State) (r : Req) :
    LogKept s (State.serveMulti s r) := (State.serveMulti_only s r).logKept (by decide)

@[simp] theorem State.serveMulti_kstep (s : State) (r : Req) {r₀ : State} :
    LogKept r₀ (State.serveMulti s r) ↔ LogKept r₀ s := (State.serveMulti_kept s r).step

theorem State.serveCounter_kept (s : State) (r : Req) :
    LogKept s (State.serveCounter s r) := (State.serveCounter_only s r).logKept (by decide)

@[simp] theorem State.serveCounter_kstep (s : State) (r : Req) {r₀ : State} :
    LogKept r₀ (State.serveCounter s r) ↔ LogKept r₀ s := (State.serveCounter_kept s r).step

theorem State.setEngine_kept (s : State) (n : Nat) (l : List EngineOp) :
    LogKept s (State.setEngine s n l) := (State.setEngine_only s n l).logKept (by decide)

@[simp] theorem State.setEngine_kstep (s : State) (n : Nat) (l : List EngineOp) {r₀ : State} :
    LogKept r₀ (State.setEngine s n l) ↔ LogKept r₀ s := (State.setEngine_kept s n l).step

theorem State.serveTable_kept (s : State) (r : Req) :
    LogKept s (State.serveTable s r) := (State.serveTable_only s r).logKept (by decide)

@[simp] theorem State.serveTable_kstep (s : State) (r : Req) {r₀ : State} :
    LogKept r₀ (State.serveTable s r) ↔ LogKept r₀ s := (State.serveTable_kept s r).step

theorem State.noteQueue_kept (s : State) (n : Nat) :
    LogKept s (State.noteQueue s n) := (State.noteQueue_only s n).logKept (by decide)

@[simp] theorem State.noteQueue_kstep (s : State) (n : Nat) {r₀ : State} :
    LogKept r₀ (State.noteQueue s n) ↔ LogKept r₀ s := (State.noteQueue_kept s n).step

theorem State.touchOp_kept (s : State) (o : EngineOp) :
    LogKept s (State.touchOp s o) := (State.touchOp_only s o).logKept (by decide)

@[simp] theorem State.touchOp_kstep (s : State) (o : EngineOp) {r₀ : State} :
    LogKept r₀ (State.touchOp s o) ↔ LogKept r₀ s := (State.touchOp_kept s o).step

theorem State.noteThreads_kept (s : State) (k : Nat) :
    LogKept s (State.noteThreads s k) := (State.noteThreads_only s k).logKept (by decide)

@[simp] theorem State.noteThreads_kstep (s : State) (k : Nat) {r₀ : State} :
    LogKept r₀ (State.noteThreads s k) ↔ LogKept r₀ s := (State.noteThreads_kept s k).step

theorem State.startOp_kept (s : State) (n : Nat) (o : EngineOp) :
    LogKept s (State.startOp s n o) := (State.startOp_only s n o).logKept (by decide)

@[simp] theorem State.startOp_kstep (s : State) (n : Nat) (o : EngineOp) {r₀ : State} :
    LogKept r₀ (State.startOp s n o) ↔ LogKept r₀ s := (State.startOp_kept s n o).step

theorem State.offerOp_kept (s : State) (n : Nat) (o : EngineOp) :
    LogKept s (State.offerOp s n o) := (State.offerOp_only s n o).logKept (by decide)

@[simp] theorem State.offerOp_kstep (s : State) (n : Nat) (o : EngineOp) {r₀ : State} :
    LogKept r₀ (State.offerOp s n o) ↔ LogKept r₀ s := (State.offerOp_kept s n o).step

theorem State.finishTable_kept (s : State) (r : Req) :
    LogKept s (State.finishTable s r) := (State.finishTable_only s r).logKept (by decide)

@[simp] theorem State.finishTable_kstep (s : State) (r : Req) {r₀ : State} :
    LogKept r₀ (State.finishTable s r) ↔ LogKept r₀ s := (State.finishTable_kept s r).step

theorem State.beginTable_kept (s : State) (r : Req) (longest : Nat) :
    LogKept s (State.beginTable s r longest) := (State.beginTable_only s r longest).logKept (by decide)

@[simp] theorem State.beginTable_kstep (s : State) (r : Req) (longest : Nat) {r₀ : State} :
    LogKept r₀ (State.beginTable s r longest) ↔ LogKept r₀ s := (State.beginTable_kept s r longest).step

theorem State.endOps_kept (s : State) :
    LogKept s (State.endOps s) := (State.endOps_only s).logKept (by decide)

@[simp] theorem State.endOps_kstep (s : State) {r₀ : State} :
    LogKept r₀ (State.endOps s) ↔ LogKept r₀ s := (State.endOps_kept s).step

theorem State.placeTable_kept (s : State) (n : Nat) (t : Table) :
    LogKept s (State.placeTable s n t) := (State.placeTable_only s n t).logKept (by decide)

@[simp] theorem State.placeTable_kstep (s : State) (n : Nat) (t : Table) {r₀ : State} :
    LogKept r₀ (State.placeTable s n t) ↔ LogKept r₀ s := (State.placeTable_kept s n t).step

theorem State.writeStaged_kept (s : State) (n : Nat) (t : Table) (cls : Nat) (es : List Entry) :
    LogKept s (State.writeStaged s n t cls es) := (State.writeStaged_only s n t cls es).logKept (by decide)

@[simp] theorem State.writeStaged_kstep (s : State) (n : Nat) (t : Table) (cls : Nat) (es : List Entry) {r₀ : State} :
    LogKept r₀ (State.writeStaged s n t cls es) ↔ LogKept r₀ s := (State.writeStaged_kept s n t cls es).step

theorem State.update_kept (s : State) (e : Sqe) (b : List Byte) :
    LogKept s (State.update s e b) := (State.update_only s e b).logKept (by decide)

@[simp] theorem State.update_kstep (s : State) (e : Sqe) (b : List Byte) {r₀ : State} :
    LogKept r₀ (State.update s e b) ↔ LogKept r₀ s := (State.update_kept s e b).step

theorem State.resizePrefix_kept (s : State) (e : Sqe) (n : Nat) (t : Table) :
    LogKept s (State.resizePrefix s e n t) := (State.resizePrefix_only s e n t).logKept (by decide)

@[simp] theorem State.resizePrefix_kstep (s : State) (e : Sqe) (n : Nat) (t : Table) {r₀ : State} :
    LogKept r₀ (State.resizePrefix s e n t) ↔ LogKept r₀ s := (State.resizePrefix_kept s e n t).step

theorem State.logCommit_kept (s : State) (c : Commit) (outcome : Nat) :
    LogKept s (State.logCommit s c outcome) := (State.logCommit_only s c outcome).logKept (by decide)

@[simp] theorem State.logCommit_kstep (s : State) (c : Commit) (outcome : Nat) {r₀ : State} :
    LogKept r₀ (State.logCommit s c outcome) ↔ LogKept r₀ s := (State.logCommit_kept s c outcome).step

theorem State.dropCommit_kept (s : State) (c : Commit) :
    LogKept s (State.dropCommit s c) := (State.dropCommit_only s c).logKept (by decide)

@[simp] theorem State.dropCommit_kstep (s : State) (c : Commit) {r₀ : State} :
    LogKept r₀ (State.dropCommit s c) ↔ LogKept r₀ s := (State.dropCommit_kept s c).step

theorem State.endCommit_kept (s : State) (c : Commit) (status : Nat) (result : Nat) (outcome : Nat) :
    LogKept s (State.endCommit s c status result outcome) := (State.endCommit_only s c status result outcome).logKept (by decide)

@[simp] theorem State.endCommit_kstep (s : State) (c : Commit) (status : Nat) (result : Nat) (outcome : Nat) {r₀ : State} :
    LogKept r₀ (State.endCommit s c status result outcome) ↔ LogKept r₀ s := (State.endCommit_kept s c status result outcome).step

theorem State.journal_kept (s : State) (c : Commit) (j : JournalState) :
    LogKept s (State.journal s c j) := (State.journal_only s c j).logKept (by decide)

@[simp] theorem State.journal_kstep (s : State) (c : Commit) (j : JournalState) {r₀ : State} :
    LogKept r₀ (State.journal s c j) ↔ LogKept r₀ s := (State.journal_kept s c j).step

theorem State.thawAll_kept (s : State) (c : Commit) :
    LogKept s (State.thawAll s c) := (State.thawAll_only s c).logKept (by decide)

@[simp] theorem State.thawAll_kstep (s : State) (c : Commit) {r₀ : State} :
    LogKept r₀ (State.thawAll s c) ↔ LogKept r₀ s := (State.thawAll_kept s c).step

theorem State.cancelCommit_kept (s : State) (c : Commit) (status : Nat) (outcome : Nat) :
    LogKept s (State.cancelCommit s c status outcome) := (State.cancelCommit_only s c status outcome).logKept (by decide)

@[simp] theorem State.cancelCommit_kstep (s : State) (c : Commit) (status : Nat) (outcome : Nat) {r₀ : State} :
    LogKept r₀ (State.cancelCommit s c status outcome) ↔ LogKept r₀ s := (State.cancelCommit_kept s c status outcome).step

theorem State.clearDamaged_kept (s : State) (n : Nat) :
    LogKept s (State.clearDamaged s n) := (State.clearDamaged_only s n).logKept (by decide)

@[simp] theorem State.clearDamaged_kstep (s : State) (n : Nat) {r₀ : State} :
    LogKept r₀ (State.clearDamaged s n) ↔ LogKept r₀ s := (State.clearDamaged_kept s n).step

theorem State.deleteTable_kept (s : State) (n : Nat) (ring : Nat) (tag : Nat) (tick : Tick) :
    LogKept s (State.deleteTable s n ring tag tick) := (State.deleteTable_only s n ring tag tick).logKept (by decide)

@[simp] theorem State.deleteTable_kstep (s : State) (n : Nat) (ring : Nat) (tag : Nat) (tick : Tick) {r₀ : State} :
    LogKept r₀ (State.deleteTable s n ring tag tick) ↔ LogKept r₀ s := (State.deleteTable_kept s n ring tag tick).step

theorem State.commitTable_kept (s : State) (n : Nat) (cuts : List Cut) :
    LogKept s (State.commitTable s n cuts) := (State.commitTable_only s n cuts).logKept (by decide)

@[simp] theorem State.commitTable_kstep (s : State) (n : Nat) (cuts : List Cut) {r₀ : State} :
    LogKept r₀ (State.commitTable s n cuts) ↔ LogKept r₀ s := (State.commitTable_kept s n cuts).step

theorem State.finishCommit_kept (s : State) (c : Commit) :
    LogKept s (State.finishCommit s c) := (State.finishCommit_only s c).logKept (by decide)

@[simp] theorem State.finishCommit_kstep (s : State) (c : Commit) {r₀ : State} :
    LogKept r₀ (State.finishCommit s c) ↔ LogKept r₀ s := (State.finishCommit_kept s c).step

theorem State.replaceCommit_kept (s : State) (old : Commit) (new : Commit) :
    LogKept s (State.replaceCommit s old new) := (State.replaceCommit_only s old new).logKept (by decide)

@[simp] theorem State.replaceCommit_kstep (s : State) (old : Commit) (new : Commit) {r₀ : State} :
    LogKept r₀ (State.replaceCommit s old new) ↔ LogKept r₀ s := (State.replaceCommit_kept s old new).step

theorem State.setDue_kept (s : State) (c : Commit) (base : Tick) :
    LogKept s (State.setDue s c base) := (State.setDue_only s c base).logKept (by decide)

@[simp] theorem State.setDue_kstep (s : State) (c : Commit) (base : Tick) {r₀ : State} :
    LogKept r₀ (State.setDue s c base) ↔ LogKept r₀ s := (State.setDue_kept s c base).step

theorem State.versionsReady_kept (s : State) (c : Commit) :
    LogKept s (State.versionsReady s c) := (State.versionsReady_only s c).logKept (by decide)

@[simp] theorem State.versionsReady_kstep (s : State) (c : Commit) {r₀ : State} :
    LogKept r₀ (State.versionsReady s c) ↔ LogKept r₀ s := (State.versionsReady_kept s c).step

theorem State.fireCommits_kept (s : State) (line : Nat) (tick : Tick) :
    LogKept s (State.fireCommits s line tick) := (State.fireCommits_only s line tick).logKept (by decide)

@[simp] theorem State.fireCommits_kstep (s : State) (line : Nat) (tick : Tick) {r₀ : State} :
    LogKept r₀ (State.fireCommits s line tick) ↔ LogKept r₀ s := (State.fireCommits_kept s line tick).step

theorem State.markCommit_kept (s : State) (c : Commit) (r : Req) (stream : List Req) :
    LogKept s (State.markCommit s c r stream) := (State.markCommit_only s c r stream).logKept (by decide)

@[simp] theorem State.markCommit_kstep (s : State) (c : Commit) (r : Req) (stream : List Req) {r₀ : State} :
    LogKept r₀ (State.markCommit s c r stream) ↔ LogKept r₀ s := (State.markCommit_kept s c r stream).step

theorem State.unstart_kept (s : State) (c : Commit) :
    LogKept s (State.unstart s c) := (State.unstart_only s c).logKept (by decide)

@[simp] theorem State.unstart_kstep (s : State) (c : Commit) {r₀ : State} :
    LogKept r₀ (State.unstart s c) ↔ LogKept r₀ s := (State.unstart_kept s c).step

theorem State.settleJournal_kept (s : State) :
    LogKept s (State.settleJournal s) := (State.settleJournal_only s).logKept (by decide)

@[simp] theorem State.settleJournal_kstep (s : State) {r₀ : State} :
    LogKept r₀ (State.settleJournal s) ↔ LogKept r₀ s := (State.settleJournal_kept s).step

theorem State.cancelForReset_kept (s : State) (c : Commit) :
    LogKept s (State.cancelForReset s c) := (State.cancelForReset_only s c).logKept (by decide)

@[simp] theorem State.cancelForReset_kstep (s : State) (c : Commit) {r₀ : State} :
    LogKept r₀ (State.cancelForReset s c) ↔ LogKept r₀ s := (State.cancelForReset_kept s c).step

theorem State.quiesceCommits_kept (s : State) (tick : Tick) :
    LogKept s (State.quiesceCommits s tick) := (State.quiesceCommits_only s tick).logKept (by decide)

@[simp] theorem State.quiesceCommits_kstep (s : State) (tick : Tick) {r₀ : State} :
    LogKept r₀ (State.quiesceCommits s tick) ↔ LogKept r₀ s := (State.quiesceCommits_kept s tick).step

theorem State.setNodes_kept (s : State) (l : List Node) :
    LogKept s (State.setNodes s l) := (State.setNodes_only s l).logKept (by decide)

@[simp] theorem State.setNodes_kstep (s : State) (l : List Node) {r₀ : State} :
    LogKept r₀ (State.setNodes s l) ↔ LogKept r₀ s := (State.setNodes_kept s l).step

theorem State.writeBackNode_kept (s : State) (v : Node) :
    LogKept s (State.writeBackNode s v) := (State.writeBackNode_only s v).logKept (by decide)

@[simp] theorem State.writeBackNode_kstep (s : State) (v : Node) {r₀ : State} :
    LogKept r₀ (State.writeBackNode s v) ↔ LogKept r₀ s := (State.writeBackNode_kept s v).step

theorem State.promoteNode_kept (s : State) (x : Nat × Nat × Option Nat) :
    LogKept s (State.promoteNode s x) := (State.promoteNode_only s x).logKept (by decide)

@[simp] theorem State.promoteNode_kstep (s : State) (x : Nat × Nat × Option Nat) {r₀ : State} :
    LogKept r₀ (State.promoteNode s x) ↔ LogKept r₀ s := (State.promoteNode_kept s x).step

theorem State.flagRow_kept (s : State) (a : RowAt) :
    LogKept s (State.flagRow s a) := (State.flagRow_only s a).logKept (by decide)

@[simp] theorem State.flagRow_kstep (s : State) (a : RowAt) {r₀ : State} :
    LogKept r₀ (State.flagRow s a) ↔ LogKept r₀ s := (State.flagRow_kept s a).step

theorem State.setRowCount_kept (s : State) (c : RowCount) :
    LogKept s (State.setRowCount s c) := (State.setRowCount_only s c).logKept (by decide)

@[simp] theorem State.setRowCount_kstep (s : State) (c : RowCount) {r₀ : State} :
    LogKept r₀ (State.setRowCount s c) ↔ LogKept r₀ s := (State.setRowCount_kept s c).step

theorem State.countTableRow_kept (s : State) (a : RowAt) :
    LogKept s (State.countTableRow s a) := (State.countTableRow_only s a).logKept (by decide)

@[simp] theorem State.countTableRow_kstep (s : State) (a : RowAt) {r₀ : State} :
    LogKept r₀ (State.countTableRow s a) ↔ LogKept r₀ s := (State.countTableRow_kept s a).step

theorem State.endWindow_kept (s : State) :
    LogKept s (State.endWindow s) := (State.endWindow_only s).logKept (by decide)

@[simp] theorem State.endWindow_kstep (s : State) {r₀ : State} :
    LogKept r₀ (State.endWindow s) ↔ LogKept r₀ s := (State.endWindow_kept s).step

theorem State.admitWaiting_kept (s : State) (n : Nat) :
    LogKept s (State.admitWaiting s n) := (State.admitWaiting_only s n).logKept (by decide)

@[simp] theorem State.admitWaiting_kstep (s : State) (n : Nat) {r₀ : State} :
    LogKept r₀ (State.admitWaiting s n) ↔ LogKept r₀ s := (State.admitWaiting_kept s n).step

theorem State.countStaging_kept (s : State) (pc : Nat) (bank : Nat) (row : Nat) :
    LogKept s (State.countStaging s pc bank row) := by
  simp only [State.countStaging]
  (repeat' split) <;> simp

@[simp] theorem State.countStaging_kstep (s : State) (pc : Nat) (bank : Nat) (row : Nat) {r₀ : State} :
    LogKept r₀ (State.countStaging s pc bank row) ↔ LogKept r₀ s := (State.countStaging_kept s pc bank row).step

theorem State.activateRow_kept (s : State) (p : RowAt) :
    LogKept s (State.activateRow s p) := (State.activateRow_only s p).logKept (by decide)

@[simp] theorem State.activateRow_kstep (s : State) (p : RowAt) {r₀ : State} :
    LogKept r₀ (State.activateRow s p) ↔ LogKept r₀ s := (State.activateRow_kept s p).step

theorem State.activate_kept (s : State) (r : MemReq) :
    LogKept s (State.activate s r) := by
  simp [State.activate]

@[simp] theorem State.activate_kstep (s : State) (r : MemReq) {r₀ : State} :
    LogKept r₀ (State.activate s r) ↔ LogKept r₀ s := (State.activate_kept s r).step

theorem State.afterAccess_kept (s : State) (r : MemReq) :
    LogKept s (State.afterAccess s r) := (State.afterAccess_only s r).logKept (by decide)

@[simp] theorem State.afterAccess_kstep (s : State) (r : MemReq) {r₀ : State} :
    LogKept r₀ (State.afterAccess s r) ↔ LogKept r₀ s := (State.afterAccess_kept s r).step

theorem State.noteDebt_kept (s : State) (n : Nat) :
    LogKept s (State.noteDebt s n) := (State.noteDebt_only s n).logKept (by decide)

@[simp] theorem State.noteDebt_kstep (s : State) (n : Nat) {r₀ : State} :
    LogKept r₀ (State.noteDebt s n) ↔ LogKept r₀ s := (State.noteDebt_kept s n).step

theorem State.refreshBank_kept (s : State) (n : Nat) (bank : Nat) :
    LogKept s (State.refreshBank s n bank) := (State.refreshBank_only s n bank).logKept (by decide)

@[simp] theorem State.refreshBank_kstep (s : State) (n : Nat) (bank : Nat) {r₀ : State} :
    LogKept r₀ (State.refreshBank s n bank) ↔ LogKept r₀ s := (State.refreshBank_kept s n bank).step

theorem State.countLate_kept (s : State) (n : Nat) (e : MemEntry) :
    LogKept s (State.countLate s n e) := (State.countLate_only s n e).logKept (by decide)

@[simp] theorem State.countLate_kstep (s : State) (n : Nat) (e : MemEntry) {r₀ : State} :
    LogKept r₀ (State.countLate s n e) ↔ LogKept r₀ s := (State.countLate_kept s n e).step

theorem State.issueReq_kept (s : State) (n : Nat) (e : MemEntry) :
    LogKept s (State.issueReq s n e) := by
  simp [State.issueReq]

@[simp] theorem State.issueReq_kstep (s : State) (n : Nat) (e : MemEntry) {r₀ : State} :
    LogKept r₀ (State.issueReq s n e) ↔ LogKept r₀ s := (State.issueReq_kept s n e).step

theorem State.drainPc_kept (s : State) (n : Nat) :
    LogKept s (State.drainPc s n) := by
  unfold State.drainPc
  refine LogKept.foldlI _ _ (fun x a => ?_) (by simp)
  try dsimp only
  (repeat' split) <;> simp

@[simp] theorem State.drainPc_kstep (s : State) (n : Nat) {r₀ : State} :
    LogKept r₀ (State.drainPc s n) ↔ LogKept r₀ s := (State.drainPc_kept s n).step

theorem State.drainAll_kept (s : State) :
    LogKept s (State.drainAll s) := by
  simp [State.drainAll]

@[simp] theorem State.drainAll_kstep (s : State) {r₀ : State} :
    LogKept r₀ (State.drainAll s) ↔ LogKept r₀ s := (State.drainAll_kept s).step

theorem State.endHold_kept (s : State) (n : Nat) :
    LogKept s (State.endHold s n) := (State.endHold_only s n).logKept (by decide)

@[simp] theorem State.endHold_kstep (s : State) (n : Nat) {r₀ : State} :
    LogKept r₀ (State.endHold s n) ↔ LogKept r₀ s := (State.endHold_kept s n).step

theorem State.syncFloor_kept (s : State) :
    LogKept s (State.syncFloor s) := (State.syncFloor_only s).logKept (by decide)

@[simp] theorem State.syncFloor_kstep (s : State) {r₀ : State} :
    LogKept r₀ (State.syncFloor s) ↔ LogKept r₀ s := (State.syncFloor_kept s).step

theorem State.applyRefresh_kept (s : State) :
    LogKept s (State.applyRefresh s) := (State.applyRefresh_only s).logKept (by decide)

@[simp] theorem State.applyRefresh_kstep (s : State) {r₀ : State} :
    LogKept r₀ (State.applyRefresh s) ↔ LogKept r₀ s := (State.applyRefresh_kept s).step

theorem State.holdStack_kept (s : State) :
    LogKept s (State.holdStack s) := (State.holdStack_only s).logKept (by decide)

@[simp] theorem State.holdStack_kstep (s : State) {r₀ : State} :
    LogKept r₀ (State.holdStack s) ↔ LogKept r₀ s := (State.holdStack_kept s).step

theorem State.sleepPcs_kept (s : State) :
    LogKept s (State.sleepPcs s) := (State.sleepPcs_only s).logKept (by decide)

@[simp] theorem State.sleepPcs_kstep (s : State) {r₀ : State} :
    LogKept r₀ (State.sleepPcs s) ↔ LogKept r₀ s := (State.sleepPcs_kept s).step

theorem State.wakeControllers_kept (s : State) :
    LogKept s (State.wakeControllers s) := (State.wakeControllers_only s).logKept (by decide)

@[simp] theorem State.wakeControllers_kstep (s : State) {r₀ : State} :
    LogKept r₀ (State.wakeControllers s) ↔ LogKept r₀ s := (State.wakeControllers_kept s).step

theorem State.movePartitions_kept (s : State) (which : Nat → Nat → Bool) :
    LogKept s (State.movePartitions s which) := (State.movePartitions_only s which).logKept (by decide)

@[simp] theorem State.movePartitions_kstep (s : State) (which : Nat → Nat → Bool) {r₀ : State} :
    LogKept r₀ (State.movePartitions s which) ↔ LogKept r₀ s := (State.movePartitions_kept s which).step

theorem State.leaveEngine_kept (s : State) (n : Nat) :
    LogKept s (State.leaveEngine s n) := (State.leaveEngine_only s n).logKept (by decide)

@[simp] theorem State.leaveEngine_kstep (s : State) (n : Nat) {r₀ : State} :
    LogKept r₀ (State.leaveEngine s n) ↔ LogKept r₀ s := (State.leaveEngine_kept s n).step

theorem State.wakeBenches_kept (s : State) :
    LogKept s (State.wakeBenches s) := (State.wakeBenches_only s).logKept (by decide)

@[simp] theorem State.wakeBenches_kstep (s : State) {r₀ : State} :
    LogKept r₀ (State.wakeBenches s) ↔ LogKept r₀ s := (State.wakeBenches_kept s).step

theorem State.windowSector_kept (s : State) (cls : Nat) (write : Bool) (opens : Bool) (words : List (Nat × Nat)) (k : Nat) :
    LogKept s (State.windowSector s cls write opens words k) := by
  simp only [State.windowSector]
  (repeat' split) <;> simp

@[simp] theorem State.windowSector_kstep (s : State) (cls : Nat) (write : Bool) (opens : Bool) (words : List (Nat × Nat)) (k : Nat) {r₀ : State} :
    LogKept r₀ (State.windowSector s cls write opens words k) ↔ LogKept r₀ s := (State.windowSector_kept s cls write opens words k).step

theorem State.windowAccess_kept (s : State) (cls : Nat) (write : Bool) (a : Nat) (n : Nat) (b : List Byte) :
    LogKept s (State.windowAccess s cls write a n b) := by
  unfold State.windowAccess
  have H : ∀ (l : List Nat) (x : State × Option RowAt), LogKept s x.1 →
      LogKept s (l.foldl (fun (t : State × Option RowAt) k =>
          let p := placeOfReq (t.1.windowReq cls write k)
          (t.1.windowSector cls write (t.2 != some p) (wordsAt a b k) k, some p)) x).1 := by
    intro l
    induction l with
    | nil => exact fun x h => h
    | cons k r ih => exact fun x h => ih _ (h.trans (State.windowSector_kept _ _ _ _ _ _))
  exact H _ _ (by simp)

@[simp] theorem State.windowAccess_kstep (s : State) (cls : Nat) (write : Bool) (a : Nat) (n : Nat) (b : List Byte) {r₀ : State} :
    LogKept r₀ (State.windowAccess s cls write a n b) ↔ LogKept r₀ s := (State.windowAccess_kept s cls write a n b).step

theorem State.hbRead_kept (s : State) (cls : Nat) (dram : Bool) (a : Nat) (n : Nat) :
    LogKept s (State.hbRead s cls dram a n) := by
  simp [State.hbRead]

@[simp] theorem State.hbRead_kstep (s : State) (cls : Nat) (dram : Bool) (a : Nat) (n : Nat) {r₀ : State} :
    LogKept r₀ (State.hbRead s cls dram a n) ↔ LogKept r₀ s := (State.hbRead_kept s cls dram a n).step

theorem State.hbWrite_kept (s : State) (cls : Nat) (dram : Bool) (a : Nat) (b : List Byte) :
    LogKept s (State.hbWrite s cls dram a b) := by
  simp [State.hbWrite]

@[simp] theorem State.hbWrite_kstep (s : State) (cls : Nat) (dram : Bool) (a : Nat) (b : List Byte) {r₀ : State} :
    LogKept r₀ (State.hbWrite s cls dram a b) ↔ LogKept r₀ s := (State.hbWrite_kept s cls dram a b).step

theorem State.refuseWindow_kept (s : State) (off : Nat) :
    LogKept s (State.refuseWindow s off) := by
  simp [State.refuseWindow]

@[simp] theorem State.refuseWindow_kstep (s : State) (off : Nat) {r₀ : State} :
    LogKept r₀ (State.refuseWindow s off) ↔ LogKept r₀ s := (State.refuseWindow_kept s off).step

theorem State.windowRead_kept (s : State) (off : Nat) (n : Nat) :
    LogKept s (State.windowRead s off n) := by
  simp [State.windowRead]

@[simp] theorem State.windowRead_kstep (s : State) (off : Nat) (n : Nat) {r₀ : State} :
    LogKept r₀ (State.windowRead s off n) ↔ LogKept r₀ s := (State.windowRead_kept s off n).step

theorem State.windowWrite_kept (s : State) (off : Nat) (data : List Byte) (enables : Nat) :
    LogKept s (State.windowWrite s off data enables) := by
  simp [State.windowWrite]

@[simp] theorem State.windowWrite_kstep (s : State) (off : Nat) (data : List Byte) (enables : Nat) {r₀ : State} :
    LogKept r₀ (State.windowWrite s off data enables) ↔ LogKept r₀ s := (State.windowWrite_kept s off data enables).step

theorem State.windowRun_kept (s : State) (w : WindowAccess) :
    LogKept s (State.windowRun s w) := by
  simp [State.windowRun]

@[simp] theorem State.windowRun_kstep (s : State) (w : WindowAccess) {r₀ : State} :
    LogKept r₀ (State.windowRun s w) ↔ LogKept r₀ s := (State.windowRun_kept s w).step

theorem State.windowTurn_kept (s : State) (w : WindowAccess) :
    LogKept s (State.windowTurn s w) := by
  simp [State.windowTurn]

@[simp] theorem State.windowTurn_kstep (s : State) (w : WindowAccess) {r₀ : State} :
    LogKept r₀ (State.windowTurn s w) ↔ LogKept r₀ s := (State.windowTurn_kept s w).step

theorem State.windowCome_kept (s : State) (w : WindowAccess) :
    LogKept s (State.windowCome s w) := by
  simp [State.windowCome]

@[simp] theorem State.windowCome_kstep (s : State) (w : WindowAccess) {r₀ : State} :
    LogKept r₀ (State.windowCome s w) ↔ LogKept r₀ s := (State.windowCome_kept s w).step

theorem State.serveWindows_kept (s : State) :
    LogKept s (State.serveWindows s) := by
  simp [State.serveWindows]

@[simp] theorem State.serveWindows_kstep (s : State) {r₀ : State} :
    LogKept r₀ (State.serveWindows s) ↔ LogKept r₀ s := (State.serveWindows_kept s).step

theorem State.drainStack_kept (s : State) :
    LogKept s (State.drainStack s) := by
  simp [State.drainStack]

@[simp] theorem State.drainStack_kstep (s : State) {r₀ : State} :
    LogKept r₀ (State.drainStack s) ↔ LogKept r₀ s := (State.drainStack_kept s).step

theorem State.issueColumn_kept (s : State) (n : Nat) (c : Option MemSlot) :
    LogKept s (State.issueColumn s n c) := by
  unfold State.issueColumn
  (repeat' split) <;> simp

@[simp] theorem State.issueColumn_kstep (s : State) (n : Nat) (c : Option MemSlot) {r₀ : State} :
    LogKept r₀ (State.issueColumn s n c) ↔ LogKept r₀ s := (State.issueColumn_kept s n c).step

theorem State.issueRow_kept (s : State) (n : Nat) (c : Option MemSlot) (e : Option MemEntry) :
    LogKept s (State.issueRow s n c e) := by
  unfold State.issueRow
  (repeat' split) <;> simp

@[simp] theorem State.issueRow_kstep (s : State) (n : Nat) (c : Option MemSlot) (e : Option MemEntry) {r₀ : State} :
    LogKept r₀ (State.issueRow s n c e) ↔ LogKept r₀ s := (State.issueRow_kept s n c e).step

theorem State.spaceRead_kept (s : State) (cls : Nat) (space : Nat) (a : Nat) (n : Nat) (host : List Byte) :
    LogKept s (State.spaceRead s cls space a n host).2 := by
  unfold State.spaceRead
  (repeat' split) <;> simp

@[simp] theorem State.spaceRead_kstep (s : State) (cls : Nat) (space : Nat) (a : Nat) (n : Nat) (host : List Byte) {r₀ : State} :
    LogKept r₀ (State.spaceRead s cls space a n host).2 ↔ LogKept r₀ s := (State.spaceRead_kept s cls space a n host).step

theorem State.spaceWrite_kept (s : State) (cls : Nat) (space : Nat) (a : Nat) (w : Nat) (merge : Bool) (b : List Byte) :
    LogKept s (State.spaceWrite s cls space a w merge b) := by
  unfold State.spaceWrite
  (repeat' split) <;> simp

@[simp] theorem State.spaceWrite_kstep (s : State) (cls : Nat) (space : Nat) (a : Nat) (w : Nat) (merge : Bool) (b : List Byte) {r₀ : State} :
    LogKept r₀ (State.spaceWrite s cls space a w merge b) ↔ LogKept r₀ s := (State.spaceWrite_kept s cls space a w merge b).step

theorem State.enterD3_kept (s : State) :
    LogKept s (State.enterD3 s) := (State.enterD3_only s).logKept (by decide)

@[simp] theorem State.enterD3_kstep (s : State) {r₀ : State} :
    LogKept r₀ (State.enterD3 s) ↔ LogKept r₀ s := (State.enterD3_kept s).step

theorem State.returnD0_kept (s : State) :
    LogKept s (State.returnD0 s) := (State.returnD0_only s).logKept (by decide)

@[simp] theorem State.returnD0_kstep (s : State) {r₀ : State} :
    LogKept r₀ (State.returnD0 s) ↔ LogKept r₀ s := (State.returnD0_kept s).step

theorem State.cfgWrite_kept (s : State) (i : CfgItem) (v : Nat) :
    LogKept s (State.cfgWrite s i v) := (State.cfgWrite_only s i v).logKept (by decide)

@[simp] theorem State.cfgWrite_kstep (s : State) (i : CfgItem) (v : Nat) {r₀ : State} :
    LogKept r₀ (State.cfgWrite s i v) ↔ LogKept r₀ s := (State.cfgWrite_kept s i v).step

theorem State.selectSource_kept (s : State) (v : Nat) :
    LogKept s (State.selectSource s v) := (State.selectSource_only s v).logKept (by decide)

@[simp] theorem State.selectSource_kstep (s : State) (v : Nat) {r₀ : State} :
    LogKept r₀ (State.selectSource s v) ↔ LogKept r₀ s := (State.selectSource_kept s v).step

theorem State.writeLaneSer_kept (s : State) (p : Nat) (v : Nat) :
    LogKept s (State.writeLaneSer s p v) := (State.writeLaneSer_only s p v).logKept (by decide)

@[simp] theorem State.writeLaneSer_kstep (s : State) (p : Nat) (v : Nat) {r₀ : State} :
    LogKept r₀ (State.writeLaneSer s p v) ↔ LogKept r₀ s := (State.writeLaneSer_kept s p v).step

theorem State.writeField_kept (s : State) (anvil : Bool) (off : Nat) (sp : FieldSpec) (k : Fld) (high : Bool) (v : Nat) :
    LogKept s (State.writeField s anvil off sp k high v) := (State.writeField_only s anvil off sp k high v).logKept (by decide)

@[simp] theorem State.writeField_kstep (s : State) (anvil : Bool) (off : Nat) (sp : FieldSpec) (k : Fld) (high : Bool) (v : Nat) {r₀ : State} :
    LogKept r₀ (State.writeField s anvil off sp k high v) ↔ LogKept r₀ s := (State.writeField_kept s anvil off sp k high v).step

theorem State.writeFields_kept (s : State) (anvil : Bool) (off : Nat) (v : Nat) :
    LogKept s (State.writeFields s anvil off v) := (State.writeFields_only s anvil off v).logKept (by decide)

@[simp] theorem State.writeFields_kstep (s : State) (anvil : Bool) (off : Nat) (v : Nat) {r₀ : State} :
    LogKept r₀ (State.writeFields s anvil off v) ↔ LogKept r₀ s := (State.writeFields_kept s anvil off v).step

theorem State.writeMsix_kept (s : State) (off : Nat) (v : Nat) :
    LogKept s (State.writeMsix s off v) := (State.writeMsix_only s off v).logKept (by decide)

@[simp] theorem State.writeMsix_kstep (s : State) (off : Nat) (v : Nat) {r₀ : State} :
    LogKept r₀ (State.writeMsix s off v) ↔ LogKept r₀ s := (State.writeMsix_kept s off v).step

theorem State.wakeFor_kept (s : State) (off : Nat) :
    LogKept s (State.wakeFor s off) := (State.wakeFor_only s off).logKept (by decide)

@[simp] theorem State.wakeFor_kstep (s : State) (off : Nat) {r₀ : State} :
    LogKept r₀ (State.wakeFor s off) ↔ LogKept r₀ s := (State.wakeFor_kept s off).step

theorem State.dropWrite_kept (s : State) (off : Nat) :
    LogKept s (State.dropWrite s off) := by
  simp [State.dropWrite]

@[simp] theorem State.dropWrite_kstep (s : State) (off : Nat) {r₀ : State} :
    LogKept r₀ (State.dropWrite s off) ↔ LogKept r₀ s := (State.dropWrite_kept s off).step

theorem State.refusesWrite_kept (s : State) (off : Nat) (u₀ : State) (h : State.refusesWrite s off = some u₀) :
    LogKept s u₀ := by
  unfold State.refusesWrite at h
  repeat' split at h
  all_goals first
    | (cases h; simp)
    | cases h

theorem State.writeRegister_kept (s : State) (anvil : Bool) (off : Nat) (v : Nat) :
    LogKept s (State.writeRegister s anvil off v) := by
  unfold State.writeRegister
  (repeat' split) <;> simp

@[simp] theorem State.writeRegister_kstep (s : State) (anvil : Bool) (off : Nat) (v : Nat) {r₀ : State} :
    LogKept r₀ (State.writeRegister s anvil off v) ↔ LogKept r₀ s := (State.writeRegister_kept s anvil off v).step

theorem State.disableRing_kept (s : State) (r : Nat) :
    LogKept s (State.disableRing s r) := (State.disableRing_only s r).logKept (by decide)

@[simp] theorem State.disableRing_kstep (s : State) (r : Nat) {r₀ : State} :
    LogKept r₀ (State.disableRing s r) ↔ LogKept r₀ s := (State.disableRing_kept s r).step

theorem State.ringError_kept (s : State) (r : Nat) (code : Nat) :
    LogKept s (State.ringError s r code) := by
  simp [State.ringError]

@[simp] theorem State.ringError_kstep (s : State) (r : Nat) (code : Nat) {r₀ : State} :
    LogKept r₀ (State.ringError s r code) ↔ LogKept r₀ s := (State.ringError_kept s r code).step

theorem State.fetchEntry_kept (s : State) (r : Nat) (e : Sqe) :
    LogKept s (State.fetchEntry s r e) := (State.fetchEntry_only s r e).logKept (by decide)

@[simp] theorem State.fetchEntry_kstep (s : State) (r : Nat) (e : Sqe) {r₀ : State} :
    LogKept r₀ (State.fetchEntry s r e) ↔ LogKept r₀ s := (State.fetchEntry_kept s r e).step

theorem State.popEntry_kept (s : State) (r : Nat) :
    LogKept s (State.popEntry s r) := (State.popEntry_only s r).logKept (by decide)

@[simp] theorem State.popEntry_kstep (s : State) (r : Nat) {r₀ : State} :
    LogKept r₀ (State.popEntry s r) ↔ LogKept r₀ s := (State.popEntry_kept s r).step

theorem State.beginEntry_kept (s : State) (r : Nat) (e : Sqe) :
    LogKept s (State.beginEntry s r e) := (State.beginEntry_only s r e).logKept (by decide)

@[simp] theorem State.beginEntry_kstep (s : State) (r : Nat) (e : Sqe) {r₀ : State} :
    LogKept r₀ (State.beginEntry s r e) ↔ LogKept r₀ s := (State.beginEntry_kept s r e).step

theorem State.failLive_kept (s : State) (r : Nat) (l : Live) :
    LogKept s (State.failLive s r l) := (State.failLive_only s r l).logKept (by decide)

@[simp] theorem State.failLive_kstep (s : State) (r : Nat) (l : Live) {r₀ : State} :
    LogKept r₀ (State.failLive s r l) ↔ LogKept r₀ s := (State.failLive_kept s r l).step

theorem State.failService_kept (s : State) :
    LogKept s (State.failService s) := (State.failService_only s).logKept (by decide)

@[simp] theorem State.failService_kstep (s : State) {r₀ : State} :
    LogKept r₀ (State.failService s) ↔ LogKept r₀ s := (State.failService_kept s).step

theorem State.setChannel_kept (s : State) (c : Nat) (x : Channel) :
    LogKept s (State.setChannel s c x) := (State.setChannel_only s c x).logKept (by decide)

@[simp] theorem State.setChannel_kstep (s : State) (c : Nat) (x : Channel) {r₀ : State} :
    LogKept r₀ (State.setChannel s c x) ↔ LogKept r₀ s := (State.setChannel_kept s c x).step

theorem State.haltChannel_kept (s : State) (c : Nat) (status : Nat) (bytes : Nat) :
    LogKept s (State.haltChannel s c status bytes) := by
  simp [State.haltChannel]

@[simp] theorem State.haltChannel_kstep (s : State) (c : Nat) (status : Nat) (bytes : Nat) {r₀ : State} :
    LogKept r₀ (State.haltChannel s c status bytes) ↔ LogKept r₀ s := (State.haltChannel_kept s c status bytes).step

theorem State.takeShadow_kept (s : State) (c : Nat) (hops : Nat) :
    LogKept s (State.takeShadow s c hops) := by
  simp [State.takeShadow]

@[simp] theorem State.takeShadow_kstep (s : State) (c : Nat) (hops : Nat) {r₀ : State} :
    LogKept r₀ (State.takeShadow s c hops) ↔ LogKept r₀ s := (State.takeShadow_kept s c hops).step

theorem State.startChannel_kept (s : State) (c : Nat) :
    LogKept s (State.startChannel s c) := by
  simp [State.startChannel]

@[simp] theorem State.startChannel_kstep (s : State) (c : Nat) {r₀ : State} :
    LogKept r₀ (State.startChannel s c) ↔ LogKept r₀ s := (State.startChannel_kept s c).step

theorem State.loadShadow_kept (s : State) (c : Nat) (b : List Byte) :
    LogKept s (State.loadShadow s c b) := (State.loadShadow_only s c b).logKept (by decide)

@[simp] theorem State.loadShadow_kstep (s : State) (c : Nat) (b : List Byte) {r₀ : State} :
    LogKept r₀ (State.loadShadow s c b) ↔ LogKept r₀ s := (State.loadShadow_kept s c b).step

theorem State.pulseDone_kept (s : State) (c : Nat) :
    LogKept s (State.pulseDone s c) := (State.pulseDone_only s c).logKept (by decide)

@[simp] theorem State.pulseDone_kstep (s : State) (c : Nat) {r₀ : State} :
    LogKept r₀ (State.pulseDone s c) ↔ LogKept r₀ s := (State.pulseDone_kept s c).step

theorem State.afterDescriptor_kept (s : State) (c : Nat) :
    LogKept s (State.afterDescriptor s c) := by
  simp [State.afterDescriptor]

@[simp] theorem State.afterDescriptor_kstep (s : State) (c : Nat) {r₀ : State} :
    LogKept r₀ (State.afterDescriptor s c) ↔ LogKept r₀ s := (State.afterDescriptor_kept s c).step

theorem State.readSrc_kept (s : State) (c : Nat) (n : Nat) (host : List Byte) :
    LogKept s (State.readSrc s c n host).2 := by
  simp [State.readSrc]

@[simp] theorem State.readSrc_kstep (s : State) (c : Nat) (n : Nat) (host : List Byte) {r₀ : State} :
    LogKept r₀ (State.readSrc s c n host).2 ↔ LogKept r₀ s := (State.readSrc_kept s c n host).step

theorem State.readDst_kept (s : State) (c : Nat) (n : Nat) (host : List Byte) :
    LogKept s (State.readDst s c n host).2 := by
  simp [State.readDst]

@[simp] theorem State.readDst_kstep (s : State) (c : Nat) (n : Nat) (host : List Byte) {r₀ : State} :
    LogKept r₀ (State.readDst s c n host).2 ↔ LogKept r₀ s := (State.readDst_kept s c n host).step

theorem State.writeDst_kept (s : State) (c : Nat) (b : List Byte) :
    LogKept s (State.writeDst s c b) := by
  simp [State.writeDst]

@[simp] theorem State.writeDst_kstep (s : State) (c : Nat) (b : List Byte) {r₀ : State} :
    LogKept r₀ (State.writeDst s c b) ↔ LogKept r₀ s := (State.writeDst_kept s c b).step

theorem State.moveBytes_kept (s : State) (c : Nat) (n : Nat) (src : List Byte) :
    LogKept s (State.moveBytes s c n src) := by
  unfold State.moveBytes
  (repeat' split) <;> simp

@[simp] theorem State.moveBytes_kstep (s : State) (c : Nat) (n : Nat) (src : List Byte) {r₀ : State} :
    LogKept r₀ (State.moveBytes s c n src) ↔ LogKept r₀ s := (State.moveBytes_kept s c n src).step

theorem State.compareBytes_kept (s : State) (c : Nat) (n : Nat) (src : List Byte) (dst : List Byte) :
    LogKept s (State.compareBytes s c n src dst).2 := by
  simp only [State.compareBytes]
  (repeat' split) <;> simp

@[simp] theorem State.compareBytes_kstep (s : State) (c : Nat) (n : Nat) (src : List Byte) (dst : List Byte) {r₀ : State} :
    LogKept r₀ (State.compareBytes s c n src dst).2 ↔ LogKept r₀ s := (State.compareBytes_kept s c n src dst).step

theorem State.endOperation_kept (s : State) (c : Nat) (n : Nat) (stop : Option (Nat × Nat)) :
    LogKept s (State.endOperation s c n stop) := by
  unfold State.endOperation
  (repeat' split) <;> simp

@[simp] theorem State.endOperation_kstep (s : State) (c : Nat) (n : Nat) (stop : Option (Nat × Nat)) {r₀ : State} :
    LogKept r₀ (State.endOperation s c n stop) ↔ LogKept r₀ s := (State.endOperation_kept s c n stop).step

theorem State.pauseChannels_kept (s : State) :
    LogKept s (State.pauseChannels s) := (State.pauseChannels_only s).logKept (by decide)

@[simp] theorem State.pauseChannels_kstep (s : State) {r₀ : State} :
    LogKept r₀ (State.pauseChannels s) ↔ LogKept r₀ s := (State.pauseChannels_kept s).step

theorem State.resumeChannels_kept (s : State) :
    LogKept s (State.resumeChannels s) := (State.resumeChannels_only s).logKept (by decide)

@[simp] theorem State.resumeChannels_kstep (s : State) {r₀ : State} :
    LogKept r₀ (State.resumeChannels s) ↔ LogKept r₀ s := (State.resumeChannels_kept s).step

theorem State.haltStandardChannels_kept (s : State) :
    LogKept s (State.haltStandardChannels s) := by
  simp [State.haltStandardChannels]

@[simp] theorem State.haltStandardChannels_kstep (s : State) {r₀ : State} :
    LogKept r₀ (State.haltStandardChannels s) ↔ LogKept r₀ s := (State.haltStandardChannels_kept s).step

theorem State.senseWords_kept (s : State) :
    LogKept s (State.senseWords s) := (State.senseWords_only s).logKept (by decide)

@[simp] theorem State.senseWords_kstep (s : State) {r₀ : State} :
    LogKept r₀ (State.senseWords s) ↔ LogKept r₀ s := (State.senseWords_kept s).step

theorem State.checkFuses_kept (s : State) (patchMatches : Bool) :
    LogKept s (State.checkFuses s patchMatches) := by
  simp [State.checkFuses]

@[simp] theorem State.checkFuses_kstep (s : State) (patchMatches : Bool) {r₀ : State} :
    LogKept r₀ (State.checkFuses s patchMatches) ↔ LogKept r₀ s := (State.checkFuses_kept s patchMatches).step

theorem State.stopPulse_kept (s : State) :
    LogKept s (State.stopPulse s) := (State.stopPulse_only s).logKept (by decide)

@[simp] theorem State.stopPulse_kstep (s : State) {r₀ : State} :
    LogKept r₀ (State.stopPulse s) ↔ LogKept r₀ s := (State.stopPulse_kept s).step

theorem State.blow_kept (s : State) (w : Nat) (bits : Nat) :
    LogKept s (State.blow s w bits) := (State.blow_only s w bits).logKept (by decide)

@[simp] theorem State.blow_kstep (s : State) (w : Nat) (bits : Nat) {r₀ : State} :
    LogKept r₀ (State.blow s w bits) ↔ LogKept r₀ s := (State.blow_kept s w bits).step

theorem State.blowAll_kept (s : State) (a1 : List (Nat × Nat)) :
    LogKept s (State.blowAll s a1) := (State.blowAll_only s a1).logKept (by decide)

@[simp] theorem State.blowAll_kstep (s : State) (a1 : List (Nat × Nat)) {r₀ : State} :
    LogKept r₀ (State.blowAll s a1) ↔ LogKept r₀ s := (State.blowAll_kept s a1).step

theorem State.setProgWord_kept (s : State) (w : Option Nat) :
    LogKept s (State.setProgWord s w) := (State.setProgWord_only s w).logKept (by decide)

@[simp] theorem State.setProgWord_kstep (s : State) (w : Option Nat) {r₀ : State} :
    LogKept r₀ (State.setProgWord s w) ↔ LogKept r₀ s := (State.setProgWord_kept s w).step

theorem State.fuseDone_kept (s : State) (e : Sqe) (status : Nat) (word : Option Nat) (result : Nat) :
    LogKept s (State.fuseDone s e status word result) := (State.fuseDone_only s e status word result).logKept (by decide)

@[simp] theorem State.fuseDone_kstep (s : State) (e : Sqe) (status : Nat) (word : Option Nat) (result : Nat) {r₀ : State} :
    LogKept r₀ (State.fuseDone s e status word result) ↔ LogKept r₀ s := (State.fuseDone_kept s e status word result).step

theorem State.resumeJob_kept (s : State) :
    LogKept s (State.resumeJob s) := (State.resumeJob_only s).logKept (by decide)

@[simp] theorem State.resumeJob_kstep (s : State) {r₀ : State} :
    LogKept r₀ (State.resumeJob s) ↔ LogKept r₀ s := (State.resumeJob_kept s).step

theorem State.resense_kept (s : State) (r : Resense) :
    LogKept s (State.resense s r) := by
  simp [State.resense]

@[simp] theorem State.resense_kstep (s : State) (r : Resense) {r₀ : State} :
    LogKept r₀ (State.resense s r) ↔ LogKept r₀ s := (State.resense_kept s r).step

theorem State.storeSlot_kept (s : State) (k : Nat) (i : FwImage) :
    LogKept s (State.storeSlot s k i) := (State.storeSlot_only s k i).logKept (by decide)

@[simp] theorem State.storeSlot_kstep (s : State) (k : Nat) (i : FwImage) {r₀ : State} :
    LogKept r₀ (State.storeSlot s k i) ↔ LogKept r₀ s := (State.storeSlot_kept s k i).step

theorem State.mailboxRefuse_kept (s : State) (slot : Nat) (kind : Nat) :
    LogKept s (State.mailboxRefuse s slot kind) := by
  simp [State.mailboxRefuse]

@[simp] theorem State.mailboxRefuse_kstep (s : State) (slot : Nat) (kind : Nat) {r₀ : State} :
    LogKept r₀ (State.mailboxRefuse s slot kind) ↔ LogKept r₀ s := (State.mailboxRefuse_kept s slot kind).step

theorem State.setSensor_kept (s : State) (n : Nat) (x : Sensor) :
    LogKept s (State.setSensor s n x) := (State.setSensor_only s n x).logKept (by decide)

@[simp] theorem State.setSensor_kstep (s : State) (n : Nat) (x : Sensor) {r₀ : State} :
    LogKept r₀ (State.setSensor s n x) ↔ LogKept r₀ s := (State.setSensor_kept s n x).step

theorem State.setLayer_kept (s : State) (l : Nat) (x : Layer) :
    LogKept s (State.setLayer s l x) := (State.setLayer_only s l x).logKept (by decide)

@[simp] theorem State.setLayer_kstep (s : State) (l : Nat) (x : Layer) {r₀ : State} :
    LogKept r₀ (State.setLayer s l x) ↔ LogKept r₀ s := (State.setLayer_kept s l x).step

theorem State.quenchBegin_kept (s : State) :
    LogKept s (State.quenchBegin s) := (State.quenchBegin_only s).logKept (by decide)

@[simp] theorem State.quenchBegin_kstep (s : State) {r₀ : State} :
    LogKept r₀ (State.quenchBegin s) ↔ LogKept r₀ s := (State.quenchBegin_kept s).step

theorem State.quenchStopped_kept (s : State) :
    LogKept s (State.quenchStopped s) := by
  simp [State.quenchStopped]

@[simp] theorem State.quenchStopped_kstep (s : State) {r₀ : State} :
    LogKept r₀ (State.quenchStopped s) ↔ LogKept r₀ s := (State.quenchStopped_kept s).step

theorem State.reportQuenchEnd_kept (s : State) :
    LogKept s (State.reportQuenchEnd s) := by
  simp [State.reportQuenchEnd]

@[simp] theorem State.reportQuenchEnd_kstep (s : State) {r₀ : State} :
    LogKept r₀ (State.reportQuenchEnd s) ↔ LogKept r₀ s := (State.reportQuenchEnd_kept s).step

theorem State.quenchEnd_kept (s : State) :
    LogKept s (State.quenchEnd s) := by
  simp [State.quenchEnd]

@[simp] theorem State.quenchEnd_kstep (s : State) {r₀ : State} :
    LogKept r₀ (State.quenchEnd s) ↔ LogKept r₀ s := (State.quenchEnd_kept s).step

theorem State.addSource_kept (s : State) (b : Nat) :
    LogKept s (State.addSource s b) := (State.addSource_only s b).logKept (by decide)

@[simp] theorem State.addSource_kstep (s : State) (b : Nat) {r₀ : State} :
    LogKept r₀ (State.addSource s b) ↔ LogKept r₀ s := (State.addSource_kept s b).step

theorem State.dropSource_kept (s : State) (b : Nat) :
    LogKept s (State.dropSource s b) := by
  simp [State.dropSource]

@[simp] theorem State.dropSource_kstep (s : State) (b : Nat) {r₀ : State} :
    LogKept r₀ (State.dropSource s b) ↔ LogKept r₀ s := (State.dropSource_kept s b).step

theorem State.sampleSensor_kept (s : State) (i : SensorInput) :
    LogKept s (State.sampleSensor s i) := (State.sampleSensor_only s i).logKept (by decide)

@[simp] theorem State.sampleSensor_kstep (s : State) (i : SensorInput) {r₀ : State} :
    LogKept r₀ (State.sampleSensor s i) ↔ LogKept r₀ s := (State.sampleSensor_kept s i).step

theorem State.sampleModel_kept (s : State) (x : ThermalInput) :
    LogKept s (State.sampleModel s x) := (State.sampleModel_only s x).logKept (by decide)

@[simp] theorem State.sampleModel_kstep (s : State) (x : ThermalInput) {r₀ : State} :
    LogKept r₀ (State.sampleModel s x) ↔ LogKept r₀ s := (State.sampleModel_kept s x).step

theorem State.sampleLayers_kept (s : State) :
    LogKept s (State.sampleLayers s) := (State.sampleLayers_only s).logKept (by decide)

@[simp] theorem State.sampleLayers_kstep (s : State) {r₀ : State} :
    LogKept r₀ (State.sampleLayers s) ↔ LogKept r₀ s := (State.sampleLayers_kept s).step

theorem State.reportSensor_kept (old : State) (s : State) (i : SensorInput) :
    LogKept s (State.reportSensor old s i) := by
  simp [State.reportSensor]

@[simp] theorem State.reportSensor_kstep (old : State) (s : State) (i : SensorInput) {r₀ : State} :
    LogKept r₀ (State.reportSensor old s i) ↔ LogKept r₀ s := (State.reportSensor_kept old s i).step

theorem State.setDeviceLevel_kept (s : State) (new : Nat) :
    LogKept s (State.setDeviceLevel s new) := by
  simp [State.setDeviceLevel]

@[simp] theorem State.setDeviceLevel_kstep (s : State) (new : Nat) {r₀ : State} :
    LogKept r₀ (State.setDeviceLevel s new) ↔ LogKept r₀ s := (State.setDeviceLevel_kept s new).step

theorem State.enterSafeHold_kept (s : State) (cause : Nat) :
    LogKept s (State.enterSafeHold s cause) := by
  simp [State.enterSafeHold]

@[simp] theorem State.enterSafeHold_kstep (s : State) (cause : Nat) {r₀ : State} :
    LogKept r₀ (State.enterSafeHold s cause) ↔ LogKept r₀ s := (State.enterSafeHold_kept s cause).step

theorem State.refclkLost_kept (s : State) (byFreq : Bool) :
    LogKept s (State.refclkLost s byFreq) := by
  simp [State.refclkLost]

@[simp] theorem State.refclkLost_kstep (s : State) (byFreq : Bool) {r₀ : State} :
    LogKept r₀ (State.refclkLost s byFreq) ↔ LogKept r₀ s := (State.refclkLost_kept s byFreq).step

theorem State.failRequest_kept (s : State) (r : Req) :
    LogKept s (State.failRequest s r) := (State.failRequest_only s r).logKept (by decide)

@[simp] theorem State.failRequest_kstep (s : State) (r : Req) {r₀ : State} :
    LogKept r₀ (State.failRequest s r) ↔ LogKept r₀ s := (State.failRequest_kept s r).step

theorem State.failRequests_kept (s : State) (rs : List Req) :
    LogKept s (State.failRequests s rs) := (State.failRequests_only s rs).logKept (by decide)

@[simp] theorem State.failRequests_kstep (s : State) (rs : List Req) {r₀ : State} :
    LogKept r₀ (State.failRequests s rs) ↔ LogKept r₀ s := (State.failRequests_kept s rs).step

theorem State.failMovers_kept (s : State) :
    LogKept s (State.failMovers s) := by
  simp [State.failMovers]

@[simp] theorem State.failMovers_kstep (s : State) {r₀ : State} :
    LogKept r₀ (State.failMovers s) ↔ LogKept r₀ s := (State.failMovers_kept s).step

theorem State.failBlock_kept (s : State) (d : Nat) :
    LogKept s (State.failBlock s d) := by
  simp [State.failBlock]

@[simp] theorem State.failBlock_kstep (s : State) (d : Nat) {r₀ : State} :
    LogKept r₀ (State.failBlock s d) ↔ LogKept r₀ s := (State.failBlock_kept s d).step

theorem State.endOpen_kept (s : State) :
    LogKept s (State.endOpen s) := by
  simp [State.endOpen]

@[simp] theorem State.endOpen_kstep (s : State) {r₀ : State} :
    LogKept r₀ (State.endOpen s) ↔ LogKept r₀ s := (State.endOpen_kept s).step

theorem State.holdBlock_kept (s : State) (d : Nat) :
    LogKept s (State.holdBlock s d) := by
  simp [State.holdBlock]

@[simp] theorem State.holdBlock_kstep (s : State) (d : Nat) {r₀ : State} :
    LogKept r₀ (State.holdBlock s d) ↔ LogKept r₀ s := (State.holdBlock_kept s d).step

theorem State.undoSwitch_kept (s : State) (d : Nat) :
    LogKept s (State.undoSwitch s d) := (State.undoSwitch_only s d).logKept (by decide)

@[simp] theorem State.undoSwitch_kstep (s : State) (d : Nat) {r₀ : State} :
    LogKept r₀ (State.undoSwitch s d) ↔ LogKept r₀ s := (State.undoSwitch_kept s d).step

theorem State.engineReloaded_kept (s : State) (b : Nat) :
    LogKept s (State.engineReloaded s b) := (State.engineReloaded_only s b).logKept (by decide)

@[simp] theorem State.engineReloaded_kstep (s : State) (b : Nat) {r₀ : State} :
    LogKept r₀ (State.engineReloaded s b) ↔ LogKept r₀ s := (State.engineReloaded_kept s b).step

theorem State.tick_kept (s : State) :
    LogKept s (State.tick s) := (State.tick_only s).logKept (by decide)

@[simp] theorem State.tick_kstep (s : State) {r₀ : State} :
    LogKept r₀ (State.tick s) ↔ LogKept r₀ s := (State.tick_kept s).step

theorem State.cycle_kept (s : State) :
    LogKept s (State.cycle s) := (State.cycle_only s).logKept (by decide)

@[simp] theorem State.cycle_kstep (s : State) {r₀ : State} :
    LogKept r₀ (State.cycle s) ↔ LogKept r₀ s := (State.cycle_kept s).step

theorem State.measure_kept (s : State) (target : Int) (at' : Int) (interval : Int) :
    LogKept s (State.measure s target at' interval) := (State.measure_only s target at' interval).logKept (by decide)

@[simp] theorem State.measure_kstep (s : State) (target : Int) (at' : Int) (interval : Int) {r₀ : State} :
    LogKept r₀ (State.measure s target at' interval) ↔ LogKept r₀ s := (State.measure_kept s target at' interval).step

theorem State.holdover_kept (s : State) :
    LogKept s (State.holdover s) := (State.holdover_only s).logKept (by decide)

@[simp] theorem State.holdover_kstep (s : State) {r₀ : State} :
    LogKept r₀ (State.holdover s) ↔ LogKept r₀ s := (State.holdover_kept s).step

theorem State.requestRetire_kept (s : State) (pc : Nat) (bank : Nat) :
    LogKept s (State.requestRetire s pc bank) := by
  simp [State.requestRetire]

@[simp] theorem State.requestRetire_kstep (s : State) (pc : Nat) (bank : Nat) {r₀ : State} :
    LogKept r₀ (State.requestRetire s pc bank) ↔ LogKept r₀ s := (State.requestRetire_kept s pc bank).step

theorem State.noteUe_kept (s : State) (pc : Nat) (bank : Nat) (row : Nat) :
    LogKept s (State.noteUe s pc bank row) := by
  simp [State.noteUe]

@[simp] theorem State.noteUe_kstep (s : State) (pc : Nat) (bank : Nat) (row : Nat) {r₀ : State} :
    LogKept r₀ (State.noteUe s pc bank row) ↔ LogKept r₀ s := (State.noteUe_kept s pc bank row).step

theorem State.moveRegionRow_kept (s : State) (old : RowAt) :
    LogKept s (State.moveRegionRow s old) := (State.moveRegionRow_only s old).logKept (by decide)

@[simp] theorem State.moveRegionRow_kstep (s : State) (old : RowAt) {r₀ : State} :
    LogKept r₀ (State.moveRegionRow s old) ↔ LogKept r₀ s := (State.moveRegionRow_kept s old).step

theorem State.emptyBank_kept (s : State) (pc : Nat) (bank : Nat) :
    LogKept s (State.emptyBank s pc bank) := (State.emptyBank_only s pc bank).logKept (by decide)

@[simp] theorem State.emptyBank_kstep (s : State) (pc : Nat) (bank : Nat) {r₀ : State} :
    LogKept r₀ (State.emptyBank s pc bank) ↔ LogKept r₀ s := (State.emptyBank_kept s pc bank).step

theorem State.setBucket_kept (s : State) (u : Nat) (b : Bucket) :
    LogKept s (State.setBucket s u b) := (State.setBucket_only s u b).logKept (by decide)

@[simp] theorem State.setBucket_kstep (s : State) (u : Nat) (b : Bucket) {r₀ : State} :
    LogKept r₀ (State.setBucket s u b) ↔ LogKept r₀ s := (State.setBucket_kept s u b).step

theorem State.overflowed_kept (s : State) (u : Nat) (banks : Map Nat) :
    LogKept s (State.overflowed s u banks) := by
  simp [State.overflowed]

@[simp] theorem State.overflowed_kstep (s : State) (u : Nat) (banks : Map Nat) {r₀ : State} :
    LogKept r₀ (State.overflowed s u banks) ↔ LogKept r₀ s := (State.overflowed_kept s u banks).step

theorem State.addError_kept (s : State) (w : MemWord) :
    LogKept s (State.addError s w) := by
  simp [State.addError]

@[simp] theorem State.addError_kstep (s : State) (w : MemWord) {r₀ : State} :
    LogKept r₀ (State.addError s w) ↔ LogKept r₀ s := (State.addError_kept s w).step

theorem State.countCe_kept (s : State) (w : MemWord) :
    LogKept s (State.countCe s w) := by
  simp [State.countCe]

@[simp] theorem State.countCe_kstep (s : State) (w : MemWord) {r₀ : State} :
    LogKept r₀ (State.countCe s w) ↔ LogKept r₀ s := (State.countCe_kept s w).step

theorem State.rewritten_kept (s : State) (w : MemWord) :
    LogKept s (State.rewritten s w) := (State.rewritten_only s w).logKept (by decide)

@[simp] theorem State.rewritten_kstep (s : State) (w : MemWord) {r₀ : State} :
    LogKept r₀ (State.rewritten s w) ↔ LogKept r₀ s := (State.rewritten_kept s w).step

theorem State.onQueue_kept (s : State) (q : Nat) (f : Queue → Queue) :
    LogKept s (State.onQueue s q f) := (State.onQueue_only s q f).logKept (by decide)

@[simp] theorem State.onQueue_kstep (s : State) (q : Nat) (f : Queue → Queue) {r₀ : State} :
    LogKept r₀ (State.onQueue s q f) ↔ LogKept r₀ s := (State.onQueue_kept s q f).step

theorem State.onTable_kept (s : State) (n : Nat) (f : Table → Table) :
    LogKept s (State.onTable s n f) := (State.onTable_only s n f).logKept (by decide)

@[simp] theorem State.onTable_kstep (s : State) (n : Nat) (f : Table → Table) {r₀ : State} :
    LogKept r₀ (State.onTable s n f) ↔ LogKept r₀ s := (State.onTable_kept s n f).step

theorem State.tableDamaged_kept (s : State) (n : Nat) (w : MemWord) :
    LogKept s (State.tableDamaged s n w) := by
  simp [State.tableDamaged]

@[simp] theorem State.tableDamaged_kstep (s : State) (n : Nat) (w : MemWord) {r₀ : State} :
    LogKept r₀ (State.tableDamaged s n w) ↔ LogKept r₀ s := (State.tableDamaged_kept s n w).step

theorem State.badNode_kept (s : State) (n : Nat) (key : List Byte) (ofMirror : Bool) (w : MemWord) :
    LogKept s (State.badNode s n key ofMirror w) := by
  unfold State.badNode
  (repeat' split) <;> simp

@[simp] theorem State.badNode_kstep (s : State) (n : Nat) (key : List Byte) (ofMirror : Bool) (w : MemWord) {r₀ : State} :
    LogKept r₀ (State.badNode s n key ofMirror w) ↔ LogKept r₀ s := (State.badNode_kept s n key ofMirror w).step

theorem State.spoilEgress_kept (s : State) (p : Nat) :
    LogKept s (State.spoilEgress s p) := (State.spoilEgress_only s p).logKept (by decide)

@[simp] theorem State.spoilEgress_kstep (s : State) (p : Nat) {r₀ : State} :
    LogKept r₀ (State.spoilEgress s p) ↔ LogKept r₀ s := (State.spoilEgress_kept s p).step

theorem State.spoilIngress_kept (s : State) (p : Nat) :
    LogKept s (State.spoilIngress s p) := (State.spoilIngress_only s p).logKept (by decide)

@[simp] theorem State.spoilIngress_kstep (s : State) (p : Nat) {r₀ : State} :
    LogKept r₀ (State.spoilIngress s p) ↔ LogKept r₀ s := (State.spoilIngress_kept s p).step

theorem State.spoilAssembly_kept (s : State) (p : Nat) :
    LogKept s (State.spoilAssembly s p) := (State.spoilAssembly_only s p).logKept (by decide)

@[simp] theorem State.spoilAssembly_kstep (s : State) (p : Nat) {r₀ : State} :
    LogKept r₀ (State.spoilAssembly s p) ↔ LogKept r₀ s := (State.spoilAssembly_kept s p).step

theorem State.restartOp_kept (s : State) (n : Nat) :
    LogKept s (State.restartOp s n) := (State.restartOp_only s n).logKept (by decide)

@[simp] theorem State.restartOp_kstep (s : State) (n : Nat) {r₀ : State} :
    LogKept r₀ (State.restartOp s n) ↔ LogKept r₀ s := (State.restartOp_kept s n).step

theorem State.spoilEngine_kept (s : State) (n : Nat) :
    LogKept s (State.spoilEngine s n) := (State.spoilEngine_only s n).logKept (by decide)

@[simp] theorem State.spoilEngine_kstep (s : State) (n : Nat) {r₀ : State} :
    LogKept r₀ (State.spoilEngine s n) ↔ LogKept r₀ s := (State.spoilEngine_kept s n).step

theorem State.pausePlacing_kept (s : State) :
    LogKept s (State.pausePlacing s) := (State.pausePlacing_only s).logKept (by decide)

@[simp] theorem State.pausePlacing_kstep (s : State) {r₀ : State} :
    LogKept r₀ (State.pausePlacing s) ↔ LogKept r₀ s := (State.pausePlacing_kept s).step

theorem State.spoilQueued_kept (s : State) (n : Nat) (k : Nat) (i : Nat) :
    LogKept s (State.spoilQueued s n k i) := (State.spoilQueued_only s n k i).logKept (by decide)

@[simp] theorem State.spoilQueued_kstep (s : State) (n : Nat) (k : Nat) (i : Nat) {r₀ : State} :
    LogKept r₀ (State.spoilQueued s n k i) ↔ LogKept r₀ s := (State.spoilQueued_kept s n k i).step

theorem State.uncorrectable_kept (s : State) (w : MemWord) :
    LogKept s (State.uncorrectable s w) := by
  unfold State.uncorrectable
  (repeat' split) <;> simp

@[simp] theorem State.uncorrectable_kstep (s : State) (w : MemWord) {r₀ : State} :
    LogKept r₀ (State.uncorrectable s w) ↔ LogKept r₀ s := (State.uncorrectable_kept s w).step

theorem State.markBad_kept (s : State) (w : MemWord) :
    LogKept s (State.markBad s w) := (State.markBad_only s w).logKept (by decide)

@[simp] theorem State.markBad_kstep (s : State) (w : MemWord) {r₀ : State} :
    LogKept r₀ (State.markBad s w) ↔ LogKept r₀ s := (State.markBad_kept s w).step

theorem State.countUe_kept (s : State) (w : MemWord) :
    LogKept s (State.countUe s w) := by
  simp [State.countUe]

@[simp] theorem State.countUe_kstep (s : State) (w : MemWord) {r₀ : State} :
    LogKept r₀ (State.countUe s w) ↔ LogKept r₀ s := (State.countUe_kept s w).step

theorem State.countPoison_kept (s : State) :
    LogKept s (State.countPoison s) := (State.countPoison_only s).logKept (by decide)

@[simp] theorem State.countPoison_kstep (s : State) {r₀ : State} :
    LogKept r₀ (State.countPoison s) ↔ LogKept r₀ s := (State.countPoison_kept s).step

theorem State.storePoison_kept (s : State) (w : MemWord) :
    LogKept s (State.storePoison s w) := (State.storePoison_only s w).logKept (by decide)

@[simp] theorem State.storePoison_kstep (s : State) (w : MemWord) {r₀ : State} :
    LogKept r₀ (State.storePoison s w) ↔ LogKept r₀ s := (State.storePoison_kept s w).step

theorem State.poisonWord_kept (s : State) (w : MemWord) :
    LogKept s (State.poisonWord s w) := by
  simp [State.poisonWord]

@[simp] theorem State.poisonWord_kstep (s : State) (w : MemWord) {r₀ : State} :
    LogKept r₀ (State.poisonWord s w) ↔ LogKept r₀ s := (State.poisonWord_kept s w).step

theorem State.scrubWord_kept (s : State) (x : Found) :
    LogKept s (State.scrubWord s x) := by
  simp only [State.scrubWord]
  (repeat' split) <;> simp

@[simp] theorem State.scrubWord_kstep (s : State) (x : Found) {r₀ : State} :
    LogKept r₀ (State.scrubWord s x) ↔ LogKept r₀ s := (State.scrubWord_kept s x).step

theorem State.noteRow_kept (s : State) (n : Nat) :
    LogKept s (State.noteRow s n) := (State.noteRow_only s n).logKept (by decide)

@[simp] theorem State.noteRow_kstep (s : State) (n : Nat) {r₀ : State} :
    LogKept r₀ (State.noteRow s n) ↔ LogKept r₀ s := (State.noteRow_kept s n).step

theorem State.scrubLine_kept (s : State) (x : Found) :
    LogKept s (State.scrubLine s x) := by
  simp only [State.scrubLine]
  (repeat' split) <;> simp

@[simp] theorem State.scrubLine_kstep (s : State) (x : Found) {r₀ : State} :
    LogKept r₀ (State.scrubLine s x) ↔ LogKept r₀ s := (State.scrubLine_kept s x).step

theorem State.setK_kept (s : State) (k : Nat) (g : Nat) :
    LogKept s (State.setK s k g) := by
  simp [State.setK]

@[simp] theorem State.setK_kstep (s : State) (k : Nat) (g : Nat) {r₀ : State} :
    LogKept r₀ (State.setK s k g) ↔ LogKept r₀ s := (State.setK_kept s k g).step

theorem State.closeWindow_kept (s : State) :
    LogKept s (State.closeWindow s) := (State.closeWindow_only s).logKept (by decide)

@[simp] theorem State.closeWindow_kstep (s : State) {r₀ : State} :
    LogKept r₀ (State.closeWindow s) ↔ LogKept r₀ s := (State.closeWindow_kept s).step

theorem State.takeSet_kept (s : State) :
    LogKept s (State.takeSet s) := by
  simp [State.takeSet]

@[simp] theorem State.takeSet_kstep (s : State) {r₀ : State} :
    LogKept r₀ (State.takeSet s) ↔ LogKept r₀ s := (State.takeSet_kept s).step

theorem State.setBudgets_kept (s : State) (e : Sqe) (b : List Byte) :
    LogKept s (State.setBudgets s e b) := by
  simp only [State.setBudgets]
  (repeat' split) <;> simp

@[simp] theorem State.setBudgets_kstep (s : State) (e : Sqe) (b : List Byte) {r₀ : State} :
    LogKept r₀ (State.setBudgets s e b) ↔ LogKept r₀ s := (State.setBudgets_kept s e b).step

theorem State.openWindow_kept (s : State) :
    LogKept s (State.openWindow s) := (State.openWindow_only s).logKept (by decide)

@[simp] theorem State.openWindow_kstep (s : State) {r₀ : State} :
    LogKept r₀ (State.openWindow s) ↔ LogKept r₀ s := (State.openWindow_kept s).step

theorem State.moveNodes_kept (s : State) (l : List NodeCount) :
    LogKept s (State.moveNodes s l) := (State.moveNodes_only s l).logKept (by decide)

@[simp] theorem State.moveNodes_kstep (s : State) (l : List NodeCount) {r₀ : State} :
    LogKept r₀ (State.moveNodes s l) ↔ LogKept r₀ s := (State.moveNodes_kept s l).step

theorem State.applySetting_kept (s : State) (a1 : EpochSetting) :
    LogKept s (State.applySetting s a1) := (State.applySetting_only s a1).logKept (by decide)

@[simp] theorem State.applySetting_kstep (s : State) (a1 : EpochSetting) {r₀ : State} :
    LogKept r₀ (State.applySetting s a1) ↔ LogKept r₀ s := (State.applySetting_kept s a1).step

theorem State.closeEpoch_kept (s : State) :
    LogKept s (State.closeEpoch s) := (State.closeEpoch_only s).logKept (by decide)

@[simp] theorem State.closeEpoch_kstep (s : State) {r₀ : State} :
    LogKept r₀ (State.closeEpoch s) ↔ LogKept r₀ s := (State.closeEpoch_kept s).step

theorem State.wantBenches_kept (s : State) :
    LogKept s (State.wantBenches s) := (State.wantBenches_only s).logKept (by decide)

@[simp] theorem State.wantBenches_kstep (s : State) {r₀ : State} :
    LogKept r₀ (State.wantBenches s) ↔ LogKept r₀ s := (State.wantBenches_kept s).step

theorem State.beginEpoch_kept (s : State) (n : Nat) :
    LogKept s (State.beginEpoch s n) := (State.beginEpoch_only s n).logKept (by decide)

@[simp] theorem State.beginEpoch_kstep (s : State) (n : Nat) {r₀ : State} :
    LogKept r₀ (State.beginEpoch s n) ↔ LogKept r₀ s := (State.beginEpoch_kept s n).step

theorem State.noteBenches_kept (s : State) :
    LogKept s (State.noteBenches s) := (State.noteBenches_only s).logKept (by decide)

@[simp] theorem State.noteBenches_kstep (s : State) {r₀ : State} :
    LogKept r₀ (State.noteBenches s) ↔ LogKept r₀ s := (State.noteBenches_kept s).step

theorem State.addSetting_kept (s : State) (x : EpochSetting) :
    LogKept s (State.addSetting s x) := (State.addSetting_only s x).logKept (by decide)

@[simp] theorem State.addSetting_kstep (s : State) (x : EpochSetting) {r₀ : State} :
    LogKept r₀ (State.addSetting s x) ↔ LogKept r₀ s := (State.addSetting_kept s x).step

theorem State.noteLayers_kept (s : State) :
    LogKept s (State.noteLayers s) := (State.noteLayers_only s).logKept (by decide)

@[simp] theorem State.noteLayers_kstep (s : State) {r₀ : State} :
    LogKept r₀ (State.noteLayers s) ↔ LogKept r₀ s := (State.noteLayers_kept s).step

theorem State.cullPc_kept (s : State) (n : Nat) :
    LogKept s (State.cullPc s n) := by
  simp [State.cullPc]

@[simp] theorem State.cullPc_kstep (s : State) (n : Nat) {r₀ : State} :
    LogKept r₀ (State.cullPc s n) ↔ LogKept r₀ s := (State.cullPc_kept s n).step

theorem State.cullEngine_kept (s : State) (n : Nat) :
    LogKept s (State.cullEngine s n) := (State.cullEngine_only s n).logKept (by decide)

@[simp] theorem State.cullEngine_kstep (s : State) (n : Nat) {r₀ : State} :
    LogKept r₀ (State.cullEngine s n) ↔ LogKept r₀ s := (State.cullEngine_kept s n).step

theorem State.cullBench_kept (s : State) (b : Nat) :
    LogKept s (State.cullBench s b) := (State.cullBench_only s b).logKept (by decide)

@[simp] theorem State.cullBench_kstep (s : State) (b : Nat) {r₀ : State} :
    LogKept r₀ (State.cullBench s b) ↔ LogKept r₀ s := (State.cullBench_kept s b).step

theorem State.cullPort_kept (s : State) (p : Nat) :
    LogKept s (State.cullPort s p) := (State.cullPort_only s p).logKept (by decide)

@[simp] theorem State.cullPort_kstep (s : State) (p : Nat) {r₀ : State} :
    LogKept r₀ (State.cullPort s p) ↔ LogKept r₀ s := (State.cullPort_kept s p).step

theorem State.cullMc_kept (s : State) (m : Nat) :
    LogKept s (State.cullMc s m) := by
  simp [State.cullMc]

@[simp] theorem State.cullMc_kstep (s : State) (m : Nat) {r₀ : State} :
    LogKept r₀ (State.cullMc s m) ↔ LogKept r₀ s := (State.cullMc_kept s m).step

theorem State.cullUnit_kept (s : State) (k : UnitKind) (u : Nat) :
    LogKept s (State.cullUnit s k u) := by
  unfold State.cullUnit
  (repeat' split) <;> simp

@[simp] theorem State.cullUnit_kstep (s : State) (k : UnitKind) (u : Nat) {r₀ : State} :
    LogKept r₀ (State.cullUnit s k u) ↔ LogKept r₀ s := (State.cullUnit_kept s k u).step

theorem State.holdMc_kept (s : State) (m : Nat) :
    LogKept s (State.holdMc s m) := by
  simp [State.holdMc]

@[simp] theorem State.holdMc_kstep (s : State) (m : Nat) {r₀ : State} :
    LogKept r₀ (State.holdMc s m) ↔ LogKept r₀ s := (State.holdMc_kept s m).step

theorem State.releaseMc_kept (s : State) (m : Nat) :
    LogKept s (State.releaseMc s m) := (State.releaseMc_only s m).logKept (by decide)

@[simp] theorem State.releaseMc_kstep (s : State) (m : Nat) {r₀ : State} :
    LogKept r₀ (State.releaseMc s m) ↔ LogKept r₀ s := (State.releaseMc_kept s m).step

theorem State.nextTest_kept (s : State) (j : BistJob) :
    LogKept s (State.nextTest s j) := by
  unfold State.nextTest
  (repeat' split) <;> simp

@[simp] theorem State.nextTest_kstep (s : State) (j : BistJob) {r₀ : State} :
    LogKept r₀ (State.nextTest s j) ↔ LogKept r₀ s := (State.nextTest_kept s j).step

theorem State.syncBist_kept (s : State) :
    LogKept s (State.syncBist s) := (State.syncBist_only s).logKept (by decide)

@[simp] theorem State.syncBist_kstep (s : State) {r₀ : State} :
    LogKept r₀ (State.syncBist s) ↔ LogKept r₀ s := (State.syncBist_kept s).step

theorem State.settleJob_kept (s : State) (j : BistJob) :
    LogKept s (State.settleJob s j) := (State.settleJob_only s j).logKept (by decide)

@[simp] theorem State.settleJob_kstep (s : State) (j : BistJob) {r₀ : State} :
    LogKept r₀ (State.settleJob s j) ↔ LogKept r₀ s := (State.settleJob_kept s j).step

theorem State.unitPassed_kept (s : State) (k : UnitKind) (u : Nat) :
    LogKept s (State.unitPassed s k u) := (State.unitPassed_only s k u).logKept (by decide)

@[simp] theorem State.unitPassed_kstep (s : State) (k : UnitKind) (u : Nat) {r₀ : State} :
    LogKept r₀ (State.unitPassed s k u) ↔ LogKept r₀ s := (State.unitPassed_kept s k u).step

theorem State.noteAdded_kept (s : State) (kind : Nat) (u : Nat) :
    LogKept s (State.noteAdded s kind u) := by
  simp [State.noteAdded]

@[simp] theorem State.noteAdded_kstep (s : State) (kind : Nat) (u : Nat) {r₀ : State} :
    LogKept r₀ (State.noteAdded s kind u) ↔ LogKept r₀ s := (State.noteAdded_kept s kind u).step

theorem State.addUnits_kept (s : State) (k : UnitKind) (new : Nat) :
    LogKept s (State.addUnits s k new) := by
  simp [State.addUnits]

@[simp] theorem State.addUnits_kstep (s : State) (k : UnitKind) (new : Nat) {r₀ : State} :
    LogKept r₀ (State.addUnits s k new) ↔ LogKept r₀ s := (State.addUnits_kept s k new).step

theorem State.addPending_kept (s : State) (pend : Fld) (kind : Nat) (base : Nat) (n : Nat) (new : Nat) :
    LogKept s (State.addPending s pend kind base n new) := by
  simp [State.addPending]

@[simp] theorem State.addPending_kstep (s : State) (pend : Fld) (kind : Nat) (base : Nat) (n : Nat) (new : Nat) {r₀ : State} :
    LogKept r₀ (State.addPending s pend kind base n new) ↔ LogKept r₀ s := (State.addPending_kept s pend kind base n new).step

theorem State.addMap_kept (s : State) (b : List Byte) :
    LogKept s (State.addMap s b) := by
  simp [State.addMap]

@[simp] theorem State.addMap_kstep (s : State) (b : List Byte) {r₀ : State} :
    LogKept r₀ (State.addMap s b) ↔ LogKept r₀ s := (State.addMap_kept s b).step

theorem State.markTsv_kept (s : State) (n : Nat) (g : Nat) (pos : Nat) (u₀ : State) (h : State.markTsv s n g pos = some u₀) :
    LogKept s u₀ := by
  unfold State.markTsv at h
  dsimp only at h
  repeat' split at h
  all_goals first
    | (cases h; simp)
    | cases h

theorem State.markTsvs_kept (s : State) (n : Nat) (a2 : List (Nat × Nat)) (u₀ : State) (h : State.markTsvs s n a2 = some u₀) :
    LogKept s u₀ := by
  induction a2 generalizing s with
  | nil => cases h; simp
  | cons p r ih =>
    obtain ⟨g, p⟩ := p
    unfold State.markTsvs at h
    split at h
    · exact ih s h
    · cases hm : s.markTsv n g p with
      | none => simp [hm] at h
      | some t => exact (State.markTsv_kept _ _ _ _ _ hm).trans (ih t (by simpa [hm] using h))

theorem State.cullByCalibration_kept (s : State) (n : Nat) :
    LogKept s (State.cullByCalibration s n) := by
  simp [State.cullByCalibration]

@[simp] theorem State.cullByCalibration_kstep (s : State) (n : Nat) {r₀ : State} :
    LogKept r₀ (State.cullByCalibration s n) ↔ LogKept r₀ s := (State.cullByCalibration_kept s n).step

theorem State.setDelay_kept (s : State) (n : Nat) (off : Nat) (v : Nat) :
    LogKept s (State.setDelay s n off v) := (State.setDelay_only s n off v).logKept (by decide)

@[simp] theorem State.setDelay_kstep (s : State) (n : Nat) (off : Nat) (v : Nat) {r₀ : State} :
    LogKept r₀ (State.setDelay s n off v) ↔ LogKept r₀ s := (State.setDelay_kept s n off v).step

theorem State.setDelays_kept (s : State) (n : Nat) (l : List (Nat × Nat)) :
    LogKept s (State.setDelays s n l) := (State.setDelays_only s n l).logKept (by decide)

@[simp] theorem State.setDelays_kstep (s : State) (n : Nat) (l : List (Nat × Nat)) {r₀ : State} :
    LogKept r₀ (State.setDelays s n l) ↔ LogKept r₀ s := (State.setDelays_kept s n l).step

theorem State.beginHold_kept (s : State) (n : Nat) :
    LogKept s (State.beginHold s n) := (State.beginHold_only s n).logKept (by decide)

@[simp] theorem State.beginHold_kstep (s : State) (n : Nat) {r₀ : State} :
    LogKept r₀ (State.beginHold s n) ↔ LogKept r₀ s := (State.beginHold_kept s n).step

theorem State.restoreRecord_kept (s : State) (n : Nat) (r : List Byte) :
    LogKept s (State.restoreRecord s n r).1 := by
  unfold State.restoreRecord
  split
  · simp
  · split
    · simp
    · next h =>
      simp
      exact (State.markTsvs_kept _ _ _ _ h)

@[simp] theorem State.restoreRecord_kstep (s : State) (n : Nat) (r : List Byte) {r₀ : State} :
    LogKept r₀ (State.restoreRecord s n r).1 ↔ LogKept r₀ s := (State.restoreRecord_kept s n r).step

theorem State.restoreAll_kept (s : State) (b : List Byte) :
    LogKept s (State.restoreAll s b).1 := by
  unfold State.restoreAll
  have H : ∀ (l : List Nat) (x : State × Nat), LogKept s x.1 →
      LogKept s (l.foldl (fun x n =>
          if bitOf (bufNat b 24 8) n then
            let y := x.1.restoreRecord n ((b.drop (32 + 32 * n)).take 32)
            (y.1, if y.2 then x.2 + 2 ^ n else x.2)
          else x) x).1 := by
    intro l
    induction l with
    | nil => exact fun x h => h
    | cons a r ih =>
      intro x h
      refine ih _ ?_
      simp only []
      by_cases hc : bitOf (bufNat b 24 8) a = true
      · rw [if_pos hc]
        exact h.trans (State.restoreRecord_kept _ _ _)
      · rw [if_neg hc]
        exact h
  exact H _ _ (LogKept.refl _)

@[simp] theorem State.restoreAll_kstep (s : State) (b : List Byte) {r₀ : State} :
    LogKept r₀ (State.restoreAll s b).1 ↔ LogKept r₀ s := (State.restoreAll_kept s b).step

theorem State.sbRefuse_kept (s : State) :
    LogKept s (State.sbRefuse s) := (State.sbRefuse_only s).logKept (by decide)

@[simp] theorem State.sbRefuse_kstep (s : State) {r₀ : State} :
    LogKept r₀ (State.sbRefuse s) ↔ LogKept r₀ s := (State.sbRefuse_kept s).step

theorem State.sbRead_kept (s : State) (code : Nat) (b : List Byte) :
    LogKept s (State.sbRead s code b) := (State.sbRead_only s code b).logKept (by decide)

@[simp] theorem State.sbRead_kstep (s : State) (code : Nat) (b : List Byte) {r₀ : State} :
    LogKept r₀ (State.sbRead s code b) ↔ LogKept r₀ s := (State.sbRead_kept s code b).step

theorem State.sbBlock_kept (s : State) (code : Nat) (b : List Byte) :
    LogKept s (State.sbBlock s code b) := (State.sbBlock_only s code b).logKept (by decide)

@[simp] theorem State.sbBlock_kstep (s : State) (code : Nat) (b : List Byte) {r₀ : State} :
    LogKept r₀ (State.sbBlock s code b) ↔ LogKept r₀ s := (State.sbBlock_kept s code b).step

theorem State.sbDiscard_kept (s : State) (code : Nat) (w : SbWrite) (n : Nat) :
    LogKept s (State.sbDiscard s code w n) := (State.sbDiscard_only s code w n).logKept (by decide)

@[simp] theorem State.sbDiscard_kstep (s : State) (code : Nat) (w : SbWrite) (n : Nat) {r₀ : State} :
    LogKept r₀ (State.sbDiscard s code w n) ↔ LogKept r₀ s := (State.sbDiscard_kept s code w n).step

theorem State.arbLost_kept (s : State) :
    LogKept s (State.arbLost s) := (State.arbLost_only s).logKept (by decide)

@[simp] theorem State.arbLost_kstep (s : State) {r₀ : State} :
    LogKept r₀ (State.arbLost s) ↔ LogKept r₀ s := (State.arbLost_kept s).step

theorem State.notifyFailed_kept (s : State) :
    LogKept s (State.notifyFailed s) := (State.notifyFailed_only s).logKept (by decide)

@[simp] theorem State.notifyFailed_kstep (s : State) {r₀ : State} :
    LogKept r₀ (State.notifyFailed s) ↔ LogKept r₀ s := (State.notifyFailed_kept s).step

theorem State.sendNotify_kept (s : State) (r : BusResult) :
    LogKept s (State.sendNotify s r) := (State.sendNotify_only s r).logKept (by decide)

@[simp] theorem State.sendNotify_kstep (s : State) (r : BusResult) {r₀ : State} :
    LogKept r₀ (State.sendNotify s r) ↔ LogKept r₀ s := (State.sendNotify_kept s r).step

theorem State.eepromFail_kept (s : State) (code : Nat) :
    LogKept s (State.eepromFail s code) := by
  simp [State.eepromFail]

@[simp] theorem State.eepromFail_kstep (s : State) (code : Nat) {r₀ : State} :
    LogKept r₀ (State.eepromFail s code) ↔ LogKept r₀ s := (State.eepromFail_kept s code).step

theorem State.startEeprom_kept (s : State) (r : BusResult) :
    LogKept s (State.startEeprom s r) := by
  unfold State.startEeprom
  (repeat' split) <;> simp

@[simp] theorem State.startEeprom_kstep (s : State) (r : BusResult) {r₀ : State} :
    LogKept r₀ (State.startEeprom s r) ↔ LogKept r₀ s := (State.startEeprom_kept s r).step

theorem State.freeQueues_kept (s : State) :
    LogKept s (State.freeQueues s) := (State.freeQueues_only s).logKept (by decide)

@[simp] theorem State.freeQueues_kstep (s : State) {r₀ : State} :
    LogKept r₀ (State.freeQueues s) ↔ LogKept r₀ s := (State.freeQueues_kept s).step

theorem State.wipe_kept (s : State) (kind : ResetKind) (internal : Bool) (held : Bool) :
    LogKept s (State.wipe s kind internal held) := (State.wipe_only s kind internal held).logKept (by decide)

@[simp] theorem State.wipe_kstep (s : State) (kind : ResetKind) (internal : Bool) (held : Bool) {r₀ : State} :
    LogKept r₀ (State.wipe s kind internal held) ↔ LogKept r₀ s := (State.wipe_kept s kind internal held).step

theorem State.cullAtReset_kept (s : State) (mask : Nat) :
    LogKept s (State.cullAtReset s mask) := (State.cullAtReset_only s mask).logKept (by decide)

@[simp] theorem State.cullAtReset_kstep (s : State) (mask : Nat) {r₀ : State} :
    LogKept r₀ (State.cullAtReset s mask) ↔ LogKept r₀ s := (State.cullAtReset_kept s mask).step

theorem State.enterPending_kept (s : State) :
    LogKept s (State.enterPending s) := (State.enterPending_only s).logKept (by decide)

@[simp] theorem State.enterPending_kstep (s : State) {r₀ : State} :
    LogKept r₀ (State.enterPending s) ↔ LogKept r₀ s := (State.enterPending_kept s).step

theorem State.resetPorts_kept (s : State) (kind : ResetKind) :
    LogKept s (State.resetPorts s kind) := (State.resetPorts_only s kind).logKept (by decide)

@[simp] theorem State.resetPorts_kstep (s : State) (kind : ResetKind) {r₀ : State} :
    LogKept r₀ (State.resetPorts s kind) ↔ LogKept r₀ s := (State.resetPorts_kept s kind).step

theorem State.fullReset_kept (s : State) (kind : ResetKind) (cause : Nat) (internal : Bool) (qInc : Bool) (lost : Bool) :
    LogKept s (State.fullReset s kind cause internal qInc lost) := (State.fullReset_only s kind cause internal qInc lost).logKept (by decide)

@[simp] theorem State.fullReset_kstep (s : State) (kind : ResetKind) (cause : Nat) (internal : Bool) (qInc : Bool) (lost : Bool) {r₀ : State} :
    LogKept r₀ (State.fullReset s kind cause internal qInc lost) ↔ LogKept r₀ s := (State.fullReset_kept s kind cause internal qInc lost).step

theorem State.powerLost_fits (s : State) (phase : BootPhase) : (s.powerLost phase).log.length ≤ 1024 := by
  simp [State.powerLost, State.reset]

theorem State.setPin_kept (s : State) (pin : ResetPin) (high : Bool) :
    LogKept s (State.setPin s pin high) := (State.setPin_only s pin high).logKept (by decide)

@[simp] theorem State.setPin_kstep (s : State) (pin : ResetPin) (high : Bool) {r₀ : State} :
    LogKept r₀ (State.setPin s pin high) ↔ LogKept r₀ s := (State.setPin_kept s pin high).step

theorem State.trimSensors_kept (s : State) :
    LogKept s (State.trimSensors s) := (State.trimSensors_only s).logKept (by decide)

@[simp] theorem State.trimSensors_kstep (s : State) {r₀ : State} :
    LogKept r₀ (State.trimSensors s) ↔ LogKept r₀ s := (State.trimSensors_kept s).step

theorem State.senseStep_kept (s : State) :
    LogKept s (State.senseStep s) := (State.senseStep_only s).logKept (by decide)

@[simp] theorem State.senseStep_kstep (s : State) {r₀ : State} :
    LogKept r₀ (State.senseStep s) ↔ LogKept r₀ s := (State.senseStep_kept s).step

theorem State.anvilStep_kept (s : State) (b : BootInput) :
    LogKept s (State.anvilStep s b) := by
  simp [State.anvilStep]

@[simp] theorem State.anvilStep_kstep (s : State) (b : BootInput) {r₀ : State} :
    LogKept r₀ (State.anvilStep s b) ↔ LogKept r₀ s := (State.anvilStep_kept s b).step

theorem State.discoveryEnds_kept (s : State) (k : Nat) :
    LogKept s (State.discoveryEnds s k) := by
  simp [State.discoveryEnds]

@[simp] theorem State.discoveryEnds_kstep (s : State) (k : Nat) {r₀ : State} :
    LogKept r₀ (State.discoveryEnds s k) ↔ LogKept r₀ s := (State.discoveryEnds_kept s k).step

theorem State.discover_kept (s : State) (b : BootInput) :
    LogKept s (State.discover s b) := by
  simp [State.discover]

@[simp] theorem State.discover_kstep (s : State) (b : BootInput) {r₀ : State} :
    LogKept r₀ (State.discover s b) ↔ LogKept r₀ s := (State.discover_kept s b).step

theorem State.loadDelays_kept (s : State) :
    LogKept s (State.loadDelays s) := (State.loadDelays_only s).logKept (by decide)

@[simp] theorem State.loadDelays_kstep (s : State) {r₀ : State} :
    LogKept r₀ (State.loadDelays s) ↔ LogKept r₀ s := (State.loadDelays_kept s).step

theorem State.loseTables_kept (s : State) :
    LogKept s (State.loseTables s) := (State.loseTables_only s).logKept (by decide)

@[simp] theorem State.loseTables_kstep (s : State) {r₀ : State} :
    LogKept r₀ (State.loseTables s) ↔ LogKept r₀ s := (State.loseTables_kept s).step

theorem State.reportLost_kept (s : State) :
    LogKept s (State.reportLost s) := (State.reportLost_only s).logKept (by decide)

@[simp] theorem State.reportLost_kstep (s : State) {r₀ : State} :
    LogKept r₀ (State.reportLost s) ↔ LogKept r₀ s := (State.reportLost_kept s).step

theorem State.pcsRun_kept (s : State) :
    LogKept s (State.pcsRun s) := (State.pcsRun_only s).logKept (by decide)

@[simp] theorem State.pcsRun_kstep (s : State) {r₀ : State} :
    LogKept r₀ (State.pcsRun s) ↔ LogKept r₀ s := (State.pcsRun_kept s).step

theorem State.fillDone_kept (s : State) :
    LogKept s (State.fillDone s) := (State.fillDone_only s).logKept (by decide)

@[simp] theorem State.fillDone_kstep (s : State) {r₀ : State} :
    LogKept r₀ (State.fillDone s) ↔ LogKept r₀ s := (State.fillDone_kept s).step

theorem State.cullInFill_kept (s : State) (bad : Nat) :
    LogKept s (State.cullInFill s bad) := by
  simp [State.cullInFill]

@[simp] theorem State.cullInFill_kstep (s : State) (bad : Nat) {r₀ : State} :
    LogKept r₀ (State.cullInFill s bad) ↔ LogKept r₀ s := (State.cullInFill_kept s bad).step

theorem State.divide_kept (s : State) :
    LogKept s (State.divide s) := (State.divide_only s).logKept (by decide)

@[simp] theorem State.divide_kstep (s : State) {r₀ : State} :
    LogKept r₀ (State.divide s) ↔ LogKept r₀ s := (State.divide_kept s).step

theorem State.releaseStack_kept (s : State) :
    LogKept s (State.releaseStack s) := (State.releaseStack_only s).logKept (by decide)

@[simp] theorem State.releaseStack_kstep (s : State) {r₀ : State} :
    LogKept r₀ (State.releaseStack s) ↔ LogKept r₀ s := (State.releaseStack_kept s).step

theorem State.countFill_kept (s : State) :
    LogKept s (State.countFill s) := (State.countFill_only s).logKept (by decide)

@[simp] theorem State.countFill_kstep (s : State) {r₀ : State} :
    LogKept r₀ (State.countFill s) ↔ LogKept r₀ s := (State.countFill_kept s).step

theorem State.coldFill_kept (s : State) (bad : Nat) :
    LogKept s (State.coldFill s bad) := by
  simp [State.coldFill]

@[simp] theorem State.coldFill_kstep (s : State) (bad : Nat) {r₀ : State} :
    LogKept r₀ (State.coldFill s bad) ↔ LogKept r₀ s := (State.coldFill_kept s bad).step

theorem State.heldFill_kept (s : State) :
    LogKept s (State.heldFill s) := (State.heldFill_only s).logKept (by decide)

@[simp] theorem State.heldFill_kstep (s : State) {r₀ : State} :
    LogKept r₀ (State.heldFill s) ↔ LogKept r₀ s := (State.heldFill_kept s).step

theorem State.bistKind_kept (s : State) (k : UnitKind) (bad : Nat) :
    LogKept s (State.bistKind s k bad) := by
  simp [State.bistKind]

@[simp] theorem State.bistKind_kstep (s : State) (k : UnitKind) (bad : Nat) {r₀ : State} :
    LogKept r₀ (State.bistKind s k bad) ↔ LogKept r₀ s := (State.bistKind_kept s k bad).step

theorem State.powerOnBist_kept (s : State) (b : BootInput) :
    LogKept s (State.powerOnBist s b) := by
  simp [State.powerOnBist]

@[simp] theorem State.powerOnBist_kstep (s : State) (b : BootInput) {r₀ : State} :
    LogKept r₀ (State.powerOnBist s b) ↔ LogKept r₀ s := (State.powerOnBist_kept s b).step

theorem State.takeHolds_kept (s : State) :
    LogKept s (State.takeHolds s) := (State.takeHolds_only s).logKept (by decide)

@[simp] theorem State.takeHolds_kstep (s : State) {r₀ : State} :
    LogKept r₀ (State.takeHolds s) ↔ LogKept r₀ s := (State.takeHolds_kept s).step

theorem State.reachReady_kept (s : State) :
    LogKept s (State.reachReady s) := (State.reachReady_only s).logKept (by decide)

@[simp] theorem State.reachReady_kstep (s : State) {r₀ : State} :
    LogKept r₀ (State.reachReady s) ↔ LogKept r₀ s := (State.reachReady_kept s).step

theorem State.toStep_kept (s : State) (n : Nat) :
    LogKept s (State.toStep s n) := (State.toStep_only s n).logKept (by decide)

@[simp] theorem State.toStep_kstep (s : State) (n : Nat) {r₀ : State} :
    LogKept r₀ (State.toStep s n) ↔ LogKept r₀ s := (State.toStep_kept s n).step

theorem State.fillStep_kept (s : State) (held : Bool) (b : BootInput) :
    LogKept s (State.fillStep s held b) := by
  simp [State.fillStep]

@[simp] theorem State.fillStep_kstep (s : State) (held : Bool) (b : BootInput) {r₀ : State} :
    LogKept r₀ (State.fillStep s held b) ↔ LogKept r₀ s := (State.fillStep_kept s held b).step

theorem State.bootStep_kept (s : State) (held : Bool) (b : BootInput) :
    LogKept s (State.bootStep s held b) := by
  unfold State.bootStep
  (repeat' split) <;> simp

@[simp] theorem State.bootStep_kstep (s : State) (held : Bool) (b : BootInput) {r₀ : State} :
    LogKept r₀ (State.bootStep s held b) ↔ LogKept r₀ s := (State.bootStep_kept s held b).step

theorem State.startUp_kept (s : State) (held : Bool) (b : BootInput) :
    LogKept s (State.startUp s held b) := by
  simp [State.startUp]

@[simp] theorem State.startUp_kstep (s : State) (held : Bool) (b : BootInput) {r₀ : State} :
    LogKept r₀ (State.startUp s held b) ↔ LogKept r₀ s := (State.startUp_kept s held b).step

theorem State.discardTable_kept (s : State) (n : Nat) (code : Nat) (t : Table) :
    LogKept s (State.discardTable s n code t) := (State.discardTable_only s n code t).logKept (by decide)

@[simp] theorem State.discardTable_kstep (s : State) (n : Nat) (code : Nat) (t : Table) {r₀ : State} :
    LogKept r₀ (State.discardTable s n code t) ↔ LogKept r₀ s := (State.discardTable_kept s n code t).step

theorem State.keepTable_kept (s : State) (n : Nat) (code : Nat) (t : Table) :
    LogKept s (State.keepTable s n code t) := (State.keepTable_only s n code t).logKept (by decide)

@[simp] theorem State.keepTable_kstep (s : State) (n : Nat) (code : Nat) (t : Table) {r₀ : State} :
    LogKept r₀ (State.keepTable s n code t) ↔ LogKept r₀ s := (State.keepTable_kept s n code t).step

theorem State.decideTable_kept (s : State) (n : Nat) (t : Table) :
    LogKept s (State.decideTable s n t) := (State.decideTable_only s n t).logKept (by decide)

@[simp] theorem State.decideTable_kstep (s : State) (n : Nat) (t : Table) {r₀ : State} :
    LogKept r₀ (State.decideTable s n t) ↔ LogKept r₀ s := (State.decideTable_kept s n t).step

theorem State.logLost_kept (s : State) (c : Commit) :
    LogKept s (State.logLost s c) := (State.logLost_only s c).logKept (by decide)

@[simp] theorem State.logLost_kstep (s : State) (c : Commit) {r₀ : State} :
    LogKept r₀ (State.logLost s c) ↔ LogKept r₀ s := (State.logLost_kept s c).step

theorem State.decideTables_kept (s : State) :
    LogKept s (State.decideTables s) := (State.decideTables_only s).logKept (by decide)

@[simp] theorem State.decideTables_kstep (s : State) {r₀ : State} :
    LogKept r₀ (State.decideTables s) ↔ LogKept r₀ s := (State.decideTables_kept s).step

theorem State.serviceStart_kept (s : State) (slot : Nat) (i : FwImage) :
    LogKept s (State.serviceStart s slot i) := (State.serviceStart_only s slot i).logKept (by decide)

@[simp] theorem State.serviceStart_kstep (s : State) (slot : Nat) (i : FwImage) {r₀ : State} :
    LogKept r₀ (State.serviceStart s slot i) ↔ LogKept r₀ s := (State.serviceStart_kept s slot i).step

theorem State.resetDelay_kept (s : State) :
    LogKept s (State.resetDelay s).2 := (State.resetDelay_only s).logKept (by decide)

@[simp] theorem State.resetDelay_kstep (s : State) {r₀ : State} :
    LogKept r₀ (State.resetDelay s).2 ↔ LogKept r₀ s := (State.resetDelay_kept s).step

theorem State.answerReset_kept (s : State) (ring : Nat) (tag : Nat) (status : Nat) (kind : ResetKind) :
    LogKept s (State.answerReset s ring tag status kind) := (State.answerReset_only s ring tag status kind).logKept (by decide)

@[simp] theorem State.answerReset_kstep (s : State) (ring : Nat) (tag : Nat) (status : Nat) (kind : ResetKind) {r₀ : State} :
    LogKept r₀ (State.answerReset s ring tag status kind) ↔ LogKept r₀ s := (State.answerReset_kept s ring tag status kind).step

theorem State.leaveChange_kept (s : State) (c : QueueChange) :
    LogKept s (State.leaveChange s c) := by
  simp [State.leaveChange]

@[simp] theorem State.leaveChange_kstep (s : State) (c : QueueChange) {r₀ : State} :
    LogKept r₀ (State.leaveChange s c) ↔ LogKept r₀ s := (State.leaveChange_kept s c).step

theorem State.leaveJob_kept (s : State) (j : BistJob) :
    LogKept s (State.leaveJob s j) := (State.leaveJob_only s j).logKept (by decide)

@[simp] theorem State.leaveJob_kstep (s : State) (j : BistJob) {r₀ : State} :
    LogKept r₀ (State.leaveJob s j) ↔ LogKept r₀ s := (State.leaveJob_kept s j).step

theorem State.serviceExpires_kept (s : State) (cause : Nat) :
    LogKept s (State.serviceExpires s cause) := by
  simp only [State.serviceExpires]
  (repeat' split) <;> simp

@[simp] theorem State.serviceExpires_kstep (s : State) (cause : Nat) {r₀ : State} :
    LogKept r₀ (State.serviceExpires s cause) ↔ LogKept r₀ s := (State.serviceExpires_kept s cause).step

theorem State.clearLog_fits (s : State) (n : Nat) (h : s.log.length ≤ 1024) : (s.clearLog n).log.length ≤ 1024 := by
  unfold State.clearLog
  exact Nat.le_trans (List.length_filter_le _ _) h

theorem State.triggerSnapshot_kept (s : State) (l : Nat) (t : Tick) :
    LogKept s (State.triggerSnapshot s l t) := (State.triggerSnapshot_only s l t).logKept (by decide)

@[simp] theorem State.triggerSnapshot_kstep (s : State) (l : Nat) (t : Tick) {r₀ : State} :
    LogKept r₀ (State.triggerSnapshot s l t) ↔ LogKept r₀ s := (State.triggerSnapshot_kept s l t).step

theorem State.startChannels_kept (s : State) (l : Nat) :
    LogKept s (State.startChannels s l) := by
  simp [State.startChannels]

@[simp] theorem State.startChannels_kstep (s : State) (l : Nat) {r₀ : State} :
    LogKept r₀ (State.startChannels s l) ↔ LogKept r₀ s := (State.startChannels_kept s l).step

end Sys2Proof.Machine
end

