-- ==== Sys2Proof/Laws/LogExec.lean ====
section
/-!
SUPPORT. Every command keeps the bound of the error log (R611): one lemma for each meaning.
-/
namespace Sys2Proof.Machine

theorem runCommand_kept {op : Nat} {e : Sqe} {s u : State} {body : State → State}
    (h : runCommand op e s body = .next u) (hb : ∀ x, LogKept x (body x)) :
    LogKept s u := by
  unfold runCommand at h
  (repeat' split at h) <;> (injection h with h; subst h; first | exact hb s | simp)

theorem runRequest_kept {r : Req} {n : Nat} {hold : State → Bool} {own : State → State} {s u : State}
    (h : runRequest r n hold own s = .next u)
    (hb : ∀ x, LogKept x (own x)) : LogKept s u := by
  unfold runRequest at h
  (repeat' split at h) <;> injection h with h <;> subst h <;> simp [(hb _).step]

theorem State.withVprog_kept {s : State} {vprog : Bool} {e : Sqe} {body : State → State}
    (hb : ∀ x, LogKept x (body x)) : LogKept s (s.withVprog vprog e body) := by
  unfold State.withVprog
  dsimp only
  split <;> simp [(hb _).step]

theorem State.program_kept {s : State} {e : Sqe} {ws : List (Nat × Nat)} {o : FuseOutcome} {apply : State → State}
    (hb : ∀ x, LogKept x (apply x)) : LogKept s (s.program e ws o apply) := by
  unfold State.program
  dsimp only
  split <;> simp [(hb _).step]

theorem execVddAoRise_fits {s : State} {u₀ : State} (h : execVddAoRise s = .next u₀) (hs : s.log.length ≤ 1024) :
    u₀.log.length ≤ 1024 := by
  unfold execVddAoRise at h
  split at h <;> injection h with h <;> subst h
  · exact State.powerLost_fits _ _
  · exact hs

theorem execVddAoFall_fits {s : State} {u₀ : State} (h : execVddAoFall s = .next u₀) : u₀.log.length ≤ 1024 := by
  unfold execVddAoFall at h
  injection h with h
  subst h
  exact State.powerLost_fits _ _

theorem execRailsInTolerance_kept {s : State} {u₀ : State} (h : execRailsInTolerance s = .next u₀) :
    LogKept s u₀ := (execRailsInTolerance_only h).logKept (by decide)

theorem execRailCheckRetry_kept {s : State} {u₀ : State} (h : execRailCheckRetry s = .next u₀) :
    LogKept s u₀ := (execRailCheckRetry_only h).logKept (by decide)

theorem execRailOutOfRange_kept {rail : Nat} {s : State} {u₀ : State} (h : execRailOutOfRange rail s = .next u₀) :
    LogKept s u₀ := by
  unfold execRailOutOfRange at h
  (repeat' split at h) <;> (injection h with h; subst h; simp)

theorem execStrapSample_kept {refwait : Nat} {sbaddr : Nat} {sbctl : Nat} {bist : Nat} {s : State} {u₀ : State} (h : execStrapSample refwait sbaddr sbctl bist s = .next u₀) :
    LogKept s u₀ := (execStrapSample_only h).logKept (by decide)

theorem execRefwaitExpiry_kept {s : State} {u₀ : State} (h : execRefwaitExpiry s = .next u₀) :
    LogKept s u₀ := (execRefwaitExpiry_only h).logKept (by decide)

theorem execRefclkStartupCheck_kept {count : Nat} {trim : Nat} {s : State} {u₀ : State} (h : execRefclkStartupCheck count trim s = .next u₀) :
    LogKept s u₀ := (execRefclkStartupCheck_only h).logKept (by decide)

theorem execResetPinAssert_kept {pin : ResetPin} {s : State} {u₀ : State} (h : execResetPinAssert pin s = .next u₀) :
    LogKept s u₀ := (execResetPinAssert_only h).logKept (by decide)

theorem execResetPinRelease_kept {pin : ResetPin} {s : State} {u₀ : State} (h : execResetPinRelease pin s = .next u₀) :
    LogKept s u₀ := (execResetPinRelease_only h).logKept (by decide)

theorem execColdStartSequence_kept {b : BootInput} {s : State} {u₀ : State} (h : execColdStartSequence b s = .next u₀) :
    LogKept s u₀ := by
  unfold execColdStartSequence at h
  (repeat' split at h) <;> (injection h with h; subst h; simp)

theorem execLayerDiscoveryTimeout_kept {layer : Nat} {s : State} {u₀ : State} (h : execLayerDiscoveryTimeout layer s = .next u₀) :
    LogKept s u₀ := by
  unfold execLayerDiscoveryTimeout at h
  try dsimp only at h
  (repeat' split at h) <;> (injection h with h; subst h; simp) <;> (repeat' split) <;> simp

theorem execPcieHotReset_kept {s : State} {u₀ : State} (h : execPcieHotReset s = .next u₀) :
    LogKept s u₀ := (execPcieHotReset_only h).logKept (by decide)

theorem execPcieFlr_kept {s : State} {u₀ : State} (h : execPcieFlr s = .next u₀) :
    LogKept s u₀ := (execPcieFlr_only h).logKept (by decide)

theorem execPcieLinkDown_kept {s : State} {u₀ : State} (h : execPcieLinkDown s = .next u₀) :
    LogKept s u₀ := (execPcieLinkDown_only h).logKept (by decide)

theorem execResetSourceRelease_kept {s : State} {u₀ : State} (h : execResetSourceRelease s = .next u₀) :
    LogKept s u₀ := (execResetSourceRelease_only h).logKept (by decide)

theorem execHeldRestartSequence_kept {b : BootInput} {s : State} {u₀ : State} (h : execHeldRestartSequence b s = .next u₀) :
    LogKept s u₀ := by
  unfold execHeldRestartSequence at h
  (repeat' split at h) <;> (injection h with h; subst h; simp)

theorem execFirmwareReverifyDone_kept {s : State} {u₀ : State} (h : execFirmwareReverifyDone s = .next u₀) :
    LogKept s u₀ := by
  unfold execFirmwareReverifyDone at h
  (repeat' split at h) <;> (injection h with h; subst h; simp)

theorem execQuiesceComplete_kept {s : State} {u₀ : State} (h : execQuiesceComplete s = .next u₀) :
    LogKept s u₀ := by
  unfold execQuiesceComplete at h
  try dsimp only at h
  (repeat' split at h) <;> (injection h with h; subst h; simp) <;> (repeat' split) <;> simp

theorem execQuiesceTimeout_kept {s : State} {u₀ : State} (h : execQuiesceTimeout s = .next u₀) :
    LogKept s u₀ := (execQuiesceTimeout_only h).logKept (by decide)

theorem execPreserveResetDelay_kept {s : State} {u₀ : State} (h : execPreserveResetDelay s = .next u₀) :
    LogKept s u₀ := (execPreserveResetDelay_only h).logKept (by decide)

theorem execTapInstructionLoad_kept {ir : Nat} {s : State} {u₀ : State} (h : execTapInstructionLoad ir s = .next u₀) :
    LogKept s u₀ := (execTapInstructionLoad_only h).logKept (by decide)

theorem execTapTestLogicReset_kept {s : State} {u₀ : State} (h : execTapTestLogicReset s = .next u₀) :
    LogKept s u₀ := (execTapTestLogicReset_only h).logKept (by decide)

theorem execOscTrim_kept {trim : Nat} {count : Nat} {s : State} {u₀ : State} (h : execOscTrim trim count s = .next u₀) :
    LogKept s u₀ := (execOscTrim_only h).logKept (by decide)

theorem execRefclkMissingEdge_kept {s : State} {u₀ : State} (h : execRefclkMissingEdge s = .next u₀) :
    LogKept s u₀ := by
  unfold execRefclkMissingEdge at h
  (repeat' split at h) <;> (injection h with h; subst h; simp)

theorem execRefclkFreqWindow_kept {count : Nat} {s : State} {u₀ : State} (h : execRefclkFreqWindow count s = .next u₀) :
    LogKept s u₀ := by
  unfold execRefclkFreqWindow at h
  try dsimp only at h
  (repeat' split at h) <;> (injection h with h; subst h; simp) <;> (repeat' split) <;> simp

theorem execClockSwitchForced_kept {d : Nat} {s : State} {u₀ : State} (h : execClockSwitchForced d s = .next u₀) :
    LogKept s u₀ := by
  unfold execClockSwitchForced at h
  (repeat' split at h) <;> (injection h with h; subst h; simp)

theorem execClockSwitchFailed_kept {d : Nat} {oldRunning : Bool} {s : State} {u₀ : State} (h : execClockSwitchFailed d oldRunning s = .next u₀) :
    LogKept s u₀ := by
  unfold execClockSwitchFailed at h
  (repeat' split at h) <;> (injection h with h; subst h; simp)

theorem execClockGateClose_kept {d : Nat} {s : State} {u₀ : State} (h : execClockGateClose d s = .next u₀) :
    LogKept s u₀ := (execClockGateClose_only h).logKept (by decide)

theorem execClockGateOpen_kept {d : Nat} {s : State} {u₀ : State} (h : execClockGateOpen d s = .next u₀) :
    LogKept s u₀ := (execClockGateOpen_only h).logKept (by decide)

theorem execDomainAutoOff_kept {d : Nat} {s : State} {u₀ : State} (h : execDomainAutoOff d s = .next u₀) :
    LogKept s u₀ := (execDomainAutoOff_only h).logKept (by decide)

theorem execDomainWake_kept {d : Nat} {s : State} {u₀ : State} (h : execDomainWake d s = .next u₀) :
    LogKept s u₀ := (execDomainWake_only h).logKept (by decide)

theorem execBenchMicrocodeLoaded_kept {b : Nat} {z : State} {u₀ : State} (h : execBenchMicrocodeLoaded b z = .next u₀) :
    LogKept z u₀ := (execBenchMicrocodeLoaded_only h).logKept (by decide)

theorem execForcedClosureDrainEnd_kept {reads : Nat} {writes : List Nat} {commands : List (Nat × Nat)} {ports : List Req} {s : State} {u₀ : State} (h : execForcedClosureDrainEnd reads writes commands ports s = .next u₀) :
    LogKept s u₀ := by
  unfold execForcedClosureDrainEnd at h
  (repeat' split at h) <;> (injection h with h; subst h; simp)

theorem execPtmDialog_kept {s : State} {u₀ : State} (h : execPtmDialog s = .next u₀) :
    LogKept s u₀ := (execPtmDialog_only h).logKept (by decide)

theorem execPtmResponse_kept {masterNs : Nat} {s : State} {u₀ : State} (h : execPtmResponse masterNs s = .next u₀) :
    LogKept s u₀ := (execPtmResponse_only h).logKept (by decide)

theorem execPtmResponseTimeout_kept {s : State} {u₀ : State} (h : execPtmResponseTimeout s = .next u₀) :
    LogKept s u₀ := (execPtmResponseTimeout_only h).logKept (by decide)

theorem execTimesyncEdge_kept {t : Tick} {s : State} {u₀ : State} (h : execTimesyncEdge t s = .next u₀) :
    LogKept s u₀ := (execTimesyncEdge_only h).logKept (by decide)

theorem execTimesyncStuck_kept {s : State} {u₀ : State} (h : execTimesyncStuck s = .next u₀) :
    LogKept s u₀ := (execTimesyncStuck_only h).logKept (by decide)

theorem execTbTimeLoRead_kept {s : State} {u₀ : State} (h : execTbTimeLoRead s = .next u₀) :
    LogKept s u₀ := (execTbTimeLoRead_only h).logKept (by decide)

theorem execLoRegisterRead_kept {off : Nat} {s : State} {u₀ : State} (h : execLoRegisterRead off s = .next u₀) :
    LogKept s u₀ := (execLoRegisterRead_only h).logKept (by decide)

theorem execHoldNChange_kept {low : Bool} {s : State} {u₀ : State} (h : execHoldNChange low s = .next u₀) :
    LogKept s u₀ := by
  unfold execHoldNChange at h
  (repeat' split at h) <;> (injection h with h; subst h; simp)

theorem execHoldNLong_kept {s : State} {u₀ : State} (h : execHoldNLong s = .next u₀) :
    LogKept s u₀ := by
  unfold execHoldNLong at h
  (repeat' split at h) <;> (injection h with h; subst h; simp)

theorem execThermalSample_kept {x : ThermalInput} {s : State} {u₀ : State} (h : execThermalSample x s = .next u₀) :
    LogKept s u₀ := by
  unfold execThermalSample at h
  try dsimp only at h
  (repeat' split at h) <;> (injection h with h; subst h; simp) <;> (repeat' split) <;> simp

theorem execSensorRecover_kept {n : Nat} {s : State} {u₀ : State} (h : execSensorRecover n s = .next u₀) :
    LogKept s u₀ := (execSensorRecover_only h).logKept (by decide)

theorem execCanaryTest_kept {l : Nat} {failed : Nat} {s : State} {u₀ : State} (h : execCanaryTest l failed s = .next u₀) :
    LogKept s u₀ := (execCanaryTest_only h).logKept (by decide)

theorem execNarrowRestore_kept {s : State} {u₀ : State} (h : execNarrowRestore s = .next u₀) :
    LogKept s u₀ := (execNarrowRestore_only h).logKept (by decide)

theorem execQuenchStopComplete_kept {s : State} {u₀ : State} (h : execQuenchStopComplete s = .next u₀) :
    LogKept s u₀ := by
  unfold execQuenchStopComplete at h
  (repeat' split at h) <;> (injection h with h; subst h; simp)

theorem execQuenchThermalEnd_kept {s : State} {u₀ : State} (h : execQuenchThermalEnd s = .next u₀) :
    LogKept s u₀ := by
  unfold execQuenchThermalEnd at h
  try dsimp only at h
  (repeat' split at h) <;> (injection h with h; subst h; simp) <;> (repeat' split) <;> simp

theorem execTrip_kept {sensor : Nat} {s : State} {u₀ : State} (h : execTrip sensor s = .next u₀) :
    LogKept s u₀ := (execTrip_only h).logKept (by decide)

theorem execLaneDetectorChange_kept {p : Nat} {lane : Nat} {los : Bool} {lol : Bool} {s : State} {u₀ : State} (h : execLaneDetectorChange p lane los lol s = .next u₀) :
    LogKept s u₀ := (execLaneDetectorChange_only h).logKept (by decide)

theorem execTrainingFrameRx_kept {p : Nat} {lane : Nat} {f : Frame} {s : State} {u₀ : State} (h : execTrainingFrameRx p lane f s = .next u₀) :
    LogKept s u₀ := (execTrainingFrameRx_only h).logKept (by decide)

theorem execTrainStateExit_kept {p : Nat} {x : TrainInput} {s : State} {u₀ : State} (h : execTrainStateExit p x s = .next u₀) :
    LogKept s u₀ := by
  unfold execTrainStateExit at h
  try dsimp only at h
  (repeat' split at h) <;> (injection h with h; subst h; simp) <;> (repeat' split) <;> simp

theorem execTrainStateTimer_kept {p : Nat} {x : TrainInput} {s : State} {u₀ : State} (h : execTrainStateTimer p x s = .next u₀) :
    LogKept s u₀ := by
  unfold execTrainStateTimer at h
  try dsimp only at h
  (repeat' split at h) <;> (injection h with h; subst h; simp) <;> (repeat' split) <;> simp

theorem execAttemptIdleEnd_kept {p : Nat} {s : State} {u₀ : State} (h : execAttemptIdleEnd p s = .next u₀) :
    LogKept s u₀ := (execAttemptIdleEnd_only h).logKept (by decide)

theorem execLinkLost_kept {p : Nat} {s : State} {u₀ : State} (h : execLinkLost p s = .next u₀) :
    LogKept s u₀ := (execLinkLost_only h).logKept (by decide)

theorem execWarmIdleTimer_kept {p : Nat} {s : State} {u₀ : State} (h : execWarmIdleTimer p s = .next u₀) :
    LogKept s u₀ := (execWarmIdleTimer_only h).logKept (by decide)

theorem execBankedIdleTimer_kept {p : Nat} {s : State} {u₀ : State} (h : execBankedIdleTimer p s = .next u₀) :
    LogKept s u₀ := (execBankedIdleTimer_only h).logKept (by decide)

theorem execWarmExit_kept {p : Nat} {s : State} {u₀ : State} (h : execWarmExit p s = .next u₀) :
    LogKept s u₀ := (execWarmExit_only h).logKept (by decide)

theorem execBankedExit_kept {p : Nat} {s : State} {u₀ : State} (h : execBankedExit p s = .next u₀) :
    LogKept s u₀ := (execBankedExit_only h).logKept (by decide)

theorem execBankedFastPathTimeout_kept {p : Nat} {s : State} {u₀ : State} (h : execBankedFastPathTimeout p s = .next u₀) :
    LogKept s u₀ := (execBankedFastPathTimeout_only h).logKept (by decide)

theorem execDataCodewordRx_kept {p : Nat} {c : Codeword} {s : State} {u₀ : State} (h : execDataCodewordRx p c s = .next u₀) :
    LogKept s u₀ := (execDataCodewordRx_only h).logKept (by decide)

theorem execFramingCodewordRx_kept {p : Nat} {c : Codeword} {s : State} {u₀ : State} (h : execFramingCodewordRx p c s = .next u₀) :
    LogKept s u₀ := (execFramingCodewordRx_only h).logKept (by decide)

theorem execResyncCodewordRx_kept {p : Nat} {c : Codeword} {s : State} {u₀ : State} (h : execResyncCodewordRx p c s = .next u₀) :
    LogKept s u₀ := (execResyncCodewordRx_only h).logKept (by decide)

theorem execLinkUpdateRx_kept {p : Nat} {b : List Byte} {s : State} {u₀ : State} (h : execLinkUpdateRx p b s = .next u₀) :
    LogKept s u₀ := (execLinkUpdateRx_only h).logKept (by decide)

theorem execLinkUpdateSend_kept {p : Nat} {s : State} {u₀ : State} (h : execLinkUpdateSend p s = .next u₀) :
    LogKept s u₀ := (execLinkUpdateSend_only h).logKept (by decide)

theorem execNakRetryTimeout_kept {p : Nat} {s : State} {u₀ : State} (h : execNakRetryTimeout p s = .next u₀) :
    LogKept s u₀ := (execNakRetryTimeout_only h).logKept (by decide)

theorem execReplayTimeout_kept {p : Nat} {s : State} {u₀ : State} (h : execReplayTimeout p s = .next u₀) :
    LogKept s u₀ := by
  unfold execReplayTimeout at h
  try dsimp only at h
  (repeat' split at h) <;> (injection h with h; subst h; simp) <;> (repeat' split) <;> simp

theorem execInit_kept {p : Nat} {b : List Byte} {s : State} {u₀ : State} (h : execInit p b s = .next u₀) :
    LogKept s u₀ := (execInit_only h).logKept (by decide)

theorem execPwrReq_kept {p : Nat} {flit : List Byte} {s : State} {u₀ : State} (h : execPwrReq p flit s = .next u₀) :
    LogKept s u₀ := (execPwrReq_only h).logKept (by decide)

theorem execPwrAck_kept {p : Nat} {flit : List Byte} {s : State} {u₀ : State} (h : execPwrAck p flit s = .next u₀) :
    LogKept s u₀ := (execPwrAck_only h).logKept (by decide)

theorem execPwrRefuse_kept {p : Nat} {flit : List Byte} {s : State} {u₀ : State} (h : execPwrRefuse p flit s = .next u₀) :
    LogKept s u₀ := (execPwrRefuse_only h).logKept (by decide)

theorem execPwrReqTimeout_kept {p : Nat} {s : State} {u₀ : State} (h : execPwrReqTimeout p s = .next u₀) :
    LogKept s u₀ := (execPwrReqTimeout_only h).logKept (by decide)

theorem execDownNoticeTimeout_kept {p : Nat} {s : State} {u₀ : State} (h : execDownNoticeTimeout p s = .next u₀) :
    LogKept s u₀ := (execDownNoticeTimeout_only h).logKept (by decide)

theorem execRequestCrcFail_kept {p : Nat} {s : State} {u₀ : State} (h : execRequestCrcFail p s = .next u₀) :
    LogKept s u₀ := by
  unfold execRequestCrcFail at h
  try dsimp only at h
  (repeat' split at h) <;> (injection h with h; subst h; simp) <;> (repeat' split) <;> simp

theorem execUnknownDataOpcode_kept {r : Req} {s : State} {u₀ : State} (h : execUnknownDataOpcode r s = .next u₀) :
    LogKept s u₀ := (execUnknownDataOpcode_only h).logKept (by decide)

theorem execEnq_kept {r : Req} {s : State} {u₀ : State} (h : execEnq r s = .next u₀) :
    LogKept s u₀ := by
  unfold execEnq at h
  dsimp only at h
  split at h
  · injection h with h
    subst h
    simp
  · refine runRequest_kept h (fun x => ?_)
    split <;> simp

theorem execEnqCommit_kept {p : Nat} {s : State} {u₀ : State} (h : execEnqCommit p s = .next u₀) :
    LogKept s u₀ := (execEnqCommit_only h).logKept (by decide)

theorem execDeq_kept {r : Req} {s : State} {u₀ : State} (h : execDeq r s = .next u₀) :
    LogKept s u₀ := by
  unfold execDeq at h
  (repeat' split at h) <;>
  · refine runRequest_kept h (fun x => ?_)
    try unfold serveQueue
    try dsimp only
    (repeat' split) <;> simp

theorem execPeek_kept {r : Req} {s : State} {u₀ : State} (h : execPeek r s = .next u₀) :
    LogKept s u₀ := by
  unfold execPeek at h
  (repeat' split at h) <;>
  · refine runRequest_kept h (fun x => ?_)
    try unfold serveQueue
    try dsimp only
    (repeat' split) <;> simp

theorem execDropHead_kept {r : Req} {s : State} {u₀ : State} (h : execDropHead r s = .next u₀) :
    LogKept s u₀ := by
  unfold execDropHead at h
  (repeat' split at h) <;>
  · refine runRequest_kept h (fun x => ?_)
    try unfold serveQueue
    try dsimp only
    (repeat' split) <;> simp

theorem execQstat_kept {r : Req} {s : State} {u₀ : State} (h : execQstat r s = .next u₀) :
    LogKept s u₀ := by
  unfold execQstat at h
  (repeat' split at h) <;>
  · refine runRequest_kept h (fun x => ?_)
    try unfold serveQueue
    try dsimp only
    (repeat' split) <;> simp

theorem execLookup_kept {r : Req} {s : State} {u₀ : State} (h : execLookup r s = .next u₀) :
    LogKept s u₀ := (execLookup_only h).logKept (by decide)

theorem execLookupMulti_kept {r : Req} {s : State} {u₀ : State} (h : execLookupMulti r s = .next u₀) :
    LogKept s u₀ := (execLookupMulti_only h).logKept (by decide)

theorem execCntAdd_kept {r : Req} {s : State} {u₀ : State} (h : execCntAdd r s = .next u₀) :
    LogKept s u₀ := (execCntAdd_only h).logKept (by decide)

theorem execCntRead_kept {r : Req} {s : State} {u₀ : State} (h : execCntRead r s = .next u₀) :
    LogKept s u₀ := (execCntRead_only h).logKept (by decide)

theorem execCntReadClear_kept {r : Req} {s : State} {u₀ : State} (h : execCntReadClear r s = .next u₀) :
    LogKept s u₀ := (execCntReadClear_only h).logKept (by decide)

theorem execMark_kept {r : Req} {s : State} {u₀ : State} (h : execMark r s = .next u₀) :
    LogKept s u₀ := (execMark_only h).logKept (by decide)

theorem execMarkPass_kept {p : Nat} {s : State} {u₀ : State} (h : execMarkPass p s = .next u₀) :
    LogKept s u₀ := (execMarkPass_only h).logKept (by decide)

theorem execEcho_kept {r : Req} {s : State} {u₀ : State} (h : execEcho r s = .next u₀) :
    LogKept s u₀ := (execEcho_only h).logKept (by decide)

theorem execSnapshotReq_kept {r : Req} {s : State} {u₀ : State} (h : execSnapshotReq r s = .next u₀) :
    LogKept s u₀ := (execSnapshotReq_only h).logKept (by decide)

theorem execSnapshotComplete_kept {s : State} {u₀ : State} (h : execSnapshotComplete s = .next u₀) :
    LogKept s u₀ := (execSnapshotComplete_only h).logKept (by decide)

theorem execEngineOpStart_kept {n : Nat} {s : State} {u₀ : State} (h : execEngineOpStart n s = .next u₀) :
    LogKept s u₀ := (execEngineOpStart_only h).logKept (by decide)

theorem execReplySend_kept {p : Nat} {s : State} {u₀ : State} (h : execReplySend p s = .next u₀) :
    LogKept s u₀ := (execReplySend_only h).logKept (by decide)

theorem execConfigRequest_kept {a : CfgAccess} {s : State} {u₀ : State} (h : execConfigRequest a s = .next u₀) :
    LogKept s u₀ := (execConfigRequest_only h).logKept (by decide)

theorem execBar0BadAccess_kept {k : BadAccess} {off : Nat} {s : State} {u₀ : State} (h : execBar0BadAccess k off s = .next u₀) :
    LogKept s u₀ := by
  unfold execBar0BadAccess at h
  (repeat' split at h) <;> (injection h with h; subst h; simp)

theorem execRegisterWrite_kept {q : Requester} {off : Nat} {v : Nat} {s : State} {u₀ : State} (h : execRegisterWrite q off v s = .next u₀) :
    LogKept s u₀ := by
  unfold execRegisterWrite at h
  (repeat' split at h) <;> (injection h with h; subst h; simp)

theorem execStagingWindowRead_kept {off : Nat} {n : Nat} {s : State} {u₀ : State} (h : execStagingWindowRead off n s = .next u₀) :
    LogKept s u₀ := by
  unfold execStagingWindowRead at h
  (repeat' split at h) <;> (injection h with h; subst h; simp)

theorem execStagingWindowWrite_kept {off : Nat} {data : List Byte} {enables : Nat} {s : State} {u₀ : State} (h : execStagingWindowWrite off data enables s = .next u₀) :
    LogKept s u₀ := by
  unfold execStagingWindowWrite at h
  try dsimp only at h
  (repeat' split at h) <;> (injection h with h; subst h; simp) <;> (repeat' split) <;> simp

theorem execRingEnable_kept {r : Nat} {s : State} {u₀ : State} (h : execRingEnable r s = .next u₀) :
    LogKept s u₀ := by
  unfold execRingEnable at h
  try dsimp only at h
  (repeat' split at h) <;> first
    | (injection h with h; subst h; simp; done)
    | (rename_i hr; injection h with h; subst h; exact (State.refusesWrite_kept _ _ _ hr))

theorem execRingDisable_kept {r : Nat} {s : State} {u₀ : State} (h : execRingDisable r s = .next u₀) :
    LogKept s u₀ := by
  unfold execRingDisable at h
  try dsimp only at h
  (repeat' split at h) <;> first
    | (injection h with h; subst h; simp; done)
    | (rename_i hr; injection h with h; subst h; exact (State.refusesWrite_kept _ _ _ hr))

theorem execSqTailDoorbell_kept {r : Nat} {v : Nat} {s : State} {u₀ : State} (h : execSqTailDoorbell r v s = .next u₀) :
    LogKept s u₀ := by
  unfold execSqTailDoorbell at h
  try dsimp only at h
  (repeat' split at h) <;> first
    | (injection h with h; subst h; simp; done)
    | (rename_i hr; injection h with h; subst h; exact (State.refusesWrite_kept _ _ _ hr))

theorem execCqHeadDoorbell_kept {r : Nat} {v : Nat} {s : State} {u₀ : State} (h : execCqHeadDoorbell r v s = .next u₀) :
    LogKept s u₀ := by
  unfold execCqHeadDoorbell at h
  try dsimp only at h
  (repeat' split at h) <;> first
    | (injection h with h; subst h; simp; done)
    | (rename_i hr; injection h with h; subst h; exact (State.refusesWrite_kept _ _ _ hr))

theorem execRingEntryFetch_kept {r : Nat} {es : List Sqe} {s : State} {u₀ : State} (h : execRingEntryFetch r es s = .next u₀) :
    LogKept s u₀ := (execRingEntryFetch_only h).logKept (by decide)

theorem execRingEntryStart_kept {r : Nat} {s : State} {u₀ : State} (h : execRingEntryStart r s = .next u₀) :
    LogKept s u₀ := (execRingEntryStart_only h).logKept (by decide)

theorem execHostReadFail_kept {f : FailedRead} {answered : Bool} {s : State} {u₀ : State} (h : execHostReadFail f answered s = .next u₀) :
    LogKept s u₀ := by
  unfold execHostReadFail at h
  (repeat' split at h) <;> (injection h with h; subst h; simp)

theorem execMsixModerationTimer_kept {r : Nat} {s : State} {u₀ : State} (h : execMsixModerationTimer r s = .next u₀) :
    LogKept s u₀ := (execMsixModerationTimer_only h).logKept (by decide)

theorem execMsixUnmask_kept {v : Option Nat} {s : State} {u₀ : State} (h : execMsixUnmask v s = .next u₀) :
    LogKept s u₀ := by
  unfold execMsixUnmask at h
  try dsimp only at h
  (repeat' split at h) <;> first
    | (injection h with h; subst h; simp; done)
    | (rename_i hr; injection h with h; subst h; exact (State.refusesWrite_kept _ _ _ hr))

theorem execPcieL1Entry_kept {s : State} {u₀ : State} (h : execPcieL1Entry s = .next u₀) :
    LogKept s u₀ := (execPcieL1Entry_only h).logKept (by decide)

theorem execD3hotEntry_kept {s : State} {u₀ : State} (h : execD3hotEntry s = .next u₀) :
    LogKept s u₀ := (execD3hotEntry_only h).logKept (by decide)

theorem execD0Return_kept {s : State} {u₀ : State} (h : execD0Return s = .next u₀) :
    LogKept s u₀ := (execD0Return_only h).logKept (by decide)

theorem execDevIdentify_kept {e : Sqe} {s : State} {u₀ : State} (h : execDevIdentify e s = .next u₀) :
    LogKept s u₀ := (execDevIdentify_only h).logKept (by decide)

theorem execDevHealth_kept {e : Sqe} {s : State} {u₀ : State} (h : execDevHealth e s = .next u₀) :
    LogKept s u₀ := (execDevHealth_only h).logKept (by decide)

theorem execPowerInfo_kept {e : Sqe} {mw : Nat} {s : State} {u₀ : State} (h : execPowerInfo e mw s = .next u₀) :
    LogKept s u₀ := (execPowerInfo_only h).logKept (by decide)

theorem execDevReset_kept {e : Sqe} {s : State} {u₀ : State} (h : execDevReset e s = .next u₀) :
    LogKept s u₀ := by
  refine runCommand_kept h (fun x => ?_)
  try dsimp only
  (repeat' split) <;> simp

theorem execRecoveryReport_kept {e : Sqe} {s : State} {u₀ : State} (h : execRecoveryReport e s = .next u₀) :
    LogKept s u₀ := (execRecoveryReport_only h).logKept (by decide)

theorem execExpertEnter_kept {e : Sqe} {s : State} {u₀ : State} (h : execExpertEnter e s = .next u₀) :
    LogKept s u₀ := (execExpertEnter_only h).logKept (by decide)

theorem execExpertLeave_kept {e : Sqe} {s : State} {u₀ : State} (h : execExpertLeave e s = .next u₀) :
    LogKept s u₀ := (execExpertLeave_only h).logKept (by decide)

theorem execErrlogRead_kept {e : Sqe} {s : State} {u₀ : State} (h : execErrlogRead e s = .next u₀) :
    LogKept s u₀ := (execErrlogRead_only h).logKept (by decide)

theorem execErrlogClear_fits {e : Sqe} {s : State} {u₀ : State} (h : execErrlogClear e s = .next u₀) (hs : s.log.length ≤ 1024) :
    u₀.log.length ≤ 1024 := by
  unfold execErrlogClear runCommand at h
  (repeat' split at h) <;> injection h with h <;> subst h
  · exact (State.done_kept _ _ _ _).mp hs
  · exact hs
  · exact hs
  · exact (State.done_kept _ _ _ _).mp hs
  · exact (State.done_kept _ _ _ _).mp (State.clearLog_fits _ _ hs)

theorem execNop_kept {e : Sqe} {s : State} {u₀ : State} (h : execNop e s = .next u₀) :
    LogKept s u₀ := (execNop_only h).logKept (by decide)

theorem execQueueCfg_kept {e : Sqe} {s : State} {u₀ : State} (h : execQueueCfg e s = .next u₀) :
    LogKept s u₀ := (execQueueCfg_only h).logKept (by decide)

theorem execQueueRemove_kept {e : Sqe} {s : State} {u₀ : State} (h : execQueueRemove e s = .next u₀) :
    LogKept s u₀ := (execQueueRemove_only h).logKept (by decide)

theorem execQueueFlush_kept {e : Sqe} {s : State} {u₀ : State} (h : execQueueFlush e s = .next u₀) :
    LogKept s u₀ := (execQueueFlush_only h).logKept (by decide)

theorem execQueueChangeApply_kept {s : State} {u₀ : State} (h : execQueueChangeApply s = .next u₀) :
    LogKept s u₀ := by
  unfold execQueueChangeApply at h
  (repeat' split at h) <;> (injection h with h; subst h; simp)

theorem execQueueInfo_kept {e : Sqe} {s : State} {u₀ : State} (h : execQueueInfo e s = .next u₀) :
    LogKept s u₀ := by
  refine runCommand_kept h (fun x => ?_)
  try dsimp only
  (repeat' split) <;> simp

theorem execSnapshotTake_kept {e : Sqe} {s : State} {u₀ : State} (h : execSnapshotTake e s = .next u₀) :
    LogKept s u₀ := (execSnapshotTake_only h).logKept (by decide)

theorem execSnapshotRead_kept {e : Sqe} {s : State} {u₀ : State} (h : execSnapshotRead e s = .next u₀) :
    LogKept s u₀ := (execSnapshotRead_only h).logKept (by decide)

theorem execQueueReserve_kept {e : Sqe} {s : State} {u₀ : State} (h : execQueueReserve e s = .next u₀) :
    LogKept s u₀ := (execQueueReserve_only h).logKept (by decide)

theorem execQmPrefetch_kept {e : Sqe} {s : State} {u₀ : State} (h : execQmPrefetch e s = .next u₀) :
    LogKept s u₀ := (execQmPrefetch_only h).logKept (by decide)

theorem execTableCreate_kept {e : Sqe} {s : State} {u₀ : State} (h : execTableCreate e s = .next u₀) :
    LogKept s u₀ := (execTableCreate_only h).logKept (by decide)

theorem execTableDelete_kept {e : Sqe} {s : State} {u₀ : State} (h : execTableDelete e s = .next u₀) :
    LogKept s u₀ := (execTableDelete_only h).logKept (by decide)

theorem execTableRowsReturn_kept {n : Nat} {s : State} {u₀ : State} (h : execTableRowsReturn n s = .next u₀) :
    LogKept s u₀ := (execTableRowsReturn_only h).logKept (by decide)

theorem execTableInfo_kept {e : Sqe} {s : State} {u₀ : State} (h : execTableInfo e s = .next u₀) :
    LogKept s u₀ := (execTableInfo_only h).logKept (by decide)

theorem execTableResize_kept {e : Sqe} {s : State} {u₀ : State} (h : execTableResize e s = .next u₀) :
    LogKept s u₀ := (execTableResize_only h).logKept (by decide)

theorem execCntDump_kept {e : Sqe} {s : State} {u₀ : State} (h : execCntDump e s = .next u₀) :
    LogKept s u₀ := (execCntDump_only h).logKept (by decide)

theorem execTableTune_kept {e : Sqe} {s : State} {u₀ : State} (h : execTableTune e s = .next u₀) :
    LogKept s u₀ := (execTableTune_only h).logKept (by decide)

theorem execTableUpdate_kept {e : Sqe} {h : HostRead} {s : State} {u₀ : State} (h : execTableUpdate e h s = .next u₀) :
    LogKept s u₀ := (execTableUpdate_only h).logKept (by decide)

theorem execTableImage_kept {e : Sqe} {s : State} {u₀ : State} (h : execTableImage e s = .next u₀) :
    LogKept s u₀ := (execTableImage_only h).logKept (by decide)

theorem execTableCommit_kept {e : Sqe} {s : State} {u₀ : State} (h : execTableCommit e s = .next u₀) :
    LogKept s u₀ := (execTableCommit_only h).logKept (by decide)

theorem execImageBuildDone_kept {n : Nat} {s : State} {u₀ : State} (h : execImageBuildDone n s = .next u₀) :
    LogKept s u₀ := (execImageBuildDone_only h).logKept (by decide)

theorem execCommitEffectTick_kept {n : Nat} {s : State} {u₀ : State} (h : execCommitEffectTick n s = .next u₀) :
    LogKept s u₀ := (execCommitEffectTick_only h).logKept (by decide)

theorem execCommitCutTimeout_kept {n : Nat} {s : State} {u₀ : State} (h : execCommitCutTimeout n s = .next u₀) :
    LogKept s u₀ := (execCommitCutTimeout_only h).logKept (by decide)

theorem execVersionRowsRelease_kept {n : Nat} {s : State} {u₀ : State} (h : execVersionRowsRelease n s = .next u₀) :
    LogKept s u₀ := (execVersionRowsRelease_only h).logKept (by decide)

theorem execTableAbort_kept {e : Sqe} {s : State} {u₀ : State} (h : execTableAbort e s = .next u₀) :
    LogKept s u₀ := (execTableAbort_only h).logKept (by decide)

theorem execCommitLog_kept {e : Sqe} {s : State} {u₀ : State} (h : execCommitLog e s = .next u₀) :
    LogKept s u₀ := (execCommitLog_only h).logKept (by decide)

theorem execMemSplit_kept {e : Sqe} {s : State} {u₀ : State} (h : execMemSplit e s = .next u₀) :
    LogKept s u₀ := (execMemSplit_only h).logKept (by decide)

theorem execPlacementInfo_kept {e : Sqe} {s : State} {u₀ : State} (h : execPlacementInfo e s = .next u₀) :
    LogKept s u₀ := (execPlacementInfo_only h).logKept (by decide)

theorem execTierReport_kept {e : Sqe} {s : State} {u₀ : State} (h : execTierReport e s = .next u₀) :
    LogKept s u₀ := (execTierReport_only h).logKept (by decide)

theorem execMvTune_kept {e : Sqe} {s : State} {u₀ : State} (h : execMvTune e s = .next u₀) :
    LogKept s u₀ := (execMvTune_only h).logKept (by decide)

theorem execMvTableHint_kept {e : Sqe} {s : State} {u₀ : State} (h : execMvTableHint e s = .next u₀) :
    LogKept s u₀ := (execMvTableHint_only h).logKept (by decide)

theorem execMemInfo_kept {e : Sqe} {s : State} {u₀ : State} (h : execMemInfo e s = .next u₀) :
    LogKept s u₀ := (execMemInfo_only h).logKept (by decide)

theorem execMcPolicy_kept {e : Sqe} {s : State} {u₀ : State} (h : execMcPolicy e s = .next u₀) :
    LogKept s u₀ := (execMcPolicy_only h).logKept (by decide)

theorem execMcTargets_kept {e : Sqe} {s : State} {u₀ : State} (h : execMcTargets e s = .next u₀) :
    LogKept s u₀ := (execMcTargets_only h).logKept (by decide)

theorem execIntegrityInfo_kept {e : Sqe} {s : State} {u₀ : State} (h : execIntegrityInfo e s = .next u₀) :
    LogKept s u₀ := (execIntegrityInfo_only h).logKept (by decide)

theorem execScrubCfg_kept {e : Sqe} {s : State} {u₀ : State} (h : execScrubCfg e s = .next u₀) :
    LogKept s u₀ := (execScrubCfg_only h).logKept (by decide)

theorem execBucketCfg_kept {e : Sqe} {s : State} {u₀ : State} (h : execBucketCfg e s = .next u₀) :
    LogKept s u₀ := (execBucketCfg_only h).logKept (by decide)

theorem execRetireCfg_kept {e : Sqe} {s : State} {u₀ : State} (h : execRetireCfg e s = .next u₀) :
    LogKept s u₀ := (execRetireCfg_only h).logKept (by decide)

theorem execStageMap_kept {e : Sqe} {s : State} {u₀ : State} (h : execStageMap e s = .next u₀) :
    LogKept s u₀ := (execStageMap_only h).logKept (by decide)

theorem execBudgetSet_kept {e : Sqe} {h : HostRead} {s : State} {u₀ : State} (h : execBudgetSet e h s = .next u₀) :
    LogKept s u₀ := by
  refine runCommand_kept h (fun x => ?_)
  try dsimp only
  (repeat' split) <;> simp

theorem execBudgetGet_kept {e : Sqe} {s : State} {u₀ : State} (h : execBudgetGet e s = .next u₀) :
    LogKept s u₀ := (execBudgetGet_only h).logKept (by decide)

theorem execRegStatus_kept {e : Sqe} {s : State} {u₀ : State} (h : execRegStatus e s = .next u₀) :
    LogKept s u₀ := (execRegStatus_only h).logKept (by decide)

theorem execRegWindow_kept {e : Sqe} {s : State} {u₀ : State} (h : execRegWindow e s = .next u₀) :
    LogKept s u₀ := (execRegWindow_only h).logKept (by decide)

theorem execRgCfgWindowWrite_kept {v : Nat} {s : State} {u₀ : State} (h : execRgCfgWindowWrite v s = .next u₀) :
    LogKept s u₀ := by
  unfold execRgCfgWindowWrite at h
  try dsimp only at h
  (repeat' split at h) <;> first
    | (injection h with h; subst h; simp; done)
    | (rename_i hr; injection h with h; subst h; exact (State.refusesWrite_kept _ _ _ hr))

theorem execRegPlan_kept {e : Sqe} {s : State} {u₀ : State} (h : execRegPlan e s = .next u₀) :
    LogKept s u₀ := (execRegPlan_only h).logKept (by decide)

theorem execThermRead_kept {e : Sqe} {s : State} {u₀ : State} (h : execThermRead e s = .next u₀) :
    LogKept s u₀ := (execThermRead_only h).logKept (by decide)

theorem execThermLimits_kept {e : Sqe} {s : State} {u₀ : State} (h : execThermLimits e s = .next u₀) :
    LogKept s u₀ := (execThermLimits_only h).logKept (by decide)

theorem execThermWarnSet_kept {e : Sqe} {s : State} {u₀ : State} (h : execThermWarnSet e s = .next u₀) :
    LogKept s u₀ := (execThermWarnSet_only h).logKept (by decide)

theorem execThermLimitSet_kept {e : Sqe} {s : State} {u₀ : State} (h : execThermLimitSet e s = .next u₀) :
    LogKept s u₀ := (execThermLimitSet_only h).logKept (by decide)

theorem execQuenchReq_kept {e : Sqe} {s : State} {u₀ : State} (h : execQuenchReq e s = .next u₀) :
    LogKept s u₀ := by
  refine runCommand_kept h (fun x => ?_)
  try dsimp only
  (repeat' split) <;> simp

theorem execBistRun_kept {e : Sqe} {s : State} {u₀ : State} (h : execBistRun e s = .next u₀) :
    LogKept s u₀ := by
  refine runCommand_kept h (fun x => ?_)
  try dsimp only
  (repeat' split) <;> simp

theorem execBistUnitDone_kept {k : UnitKind} {u : Nat} {pass : Bool} {s : State} {u₀ : State} (h : execBistUnitDone k u pass s = .next u₀) :
    LogKept s u₀ := by
  unfold execBistUnitDone at h
  (repeat' split at h) <;> (injection h with h; subst h; simp)

theorem execCulletGet_kept {e : Sqe} {s : State} {u₀ : State} (h : execCulletGet e s = .next u₀) :
    LogKept s u₀ := (execCulletGet_only h).logKept (by decide)

theorem execCulletAdd_kept {e : Sqe} {h : HostRead} {s : State} {u₀ : State} (h : execCulletAdd e h s = .next u₀) :
    LogKept s u₀ := by
  refine runCommand_kept h (fun x => ?_)
  try dsimp only
  (repeat' split) <;> simp

theorem execCalSave_kept {e : Sqe} {s : State} {u₀ : State} (h : execCalSave e s = .next u₀) :
    LogKept s u₀ := (execCalSave_only h).logKept (by decide)

theorem execCalRestore_kept {e : Sqe} {h : HostRead} {s : State} {u₀ : State} (h : execCalRestore e h s = .next u₀) :
    LogKept s u₀ := by
  refine runCommand_kept h (fun x => ?_)
  try dsimp only
  (repeat' split) <;> simp

theorem execCalCfg_kept {e : Sqe} {s : State} {u₀ : State} (h : execCalCfg e s = .next u₀) :
    LogKept s u₀ := (execCalCfg_only h).logKept (by decide)

theorem execFwLoad_kept {e : Sqe} {h : ImageRead} {s : State} {u₀ : State} (h : execFwLoad e h s = .next u₀) :
    LogKept s u₀ := (execFwLoad_only h).logKept (by decide)

theorem execFwStore_kept {e : Sqe} {h : ImageRead} {s : State} {u₀ : State} (h : execFwStore e h s = .next u₀) :
    LogKept s u₀ := (execFwStore_only h).logKept (by decide)

theorem execFwInfo_kept {e : Sqe} {s : State} {u₀ : State} (h : execFwInfo e s = .next u₀) :
    LogKept s u₀ := (execFwInfo_only h).logKept (by decide)

theorem execRollbackAdvance_kept {e : Sqe} {vprog : Bool} {o : FuseOutcome} {s : State} {u₀ : State} (h : execRollbackAdvance e vprog o s = .next u₀) :
    LogKept s u₀ := by
  unfold execRollbackAdvance at h
  split at h
  · injection h with h
    subst h
    simp
  · refine runCommand_kept h (fun x => ?_)
    try dsimp only
    (repeat' split) <;> first
      | (simp; done)
      | exact LogKept.trans (t := x.resumeJob) (by simp) (State.withVprog_kept (fun y => State.program_kept (fun z => by simp)))
      | exact LogKept.trans (t := x.resumeJob) (by simp) (State.withVprog_kept (fun y => by (try dsimp only); (repeat' split) <;> simp))
      | exact State.withVprog_kept (fun y => State.program_kept (fun z => by simp))
      | exact State.withVprog_kept (fun y => by (try dsimp only); (repeat' split) <;> simp)

theorem execAttest_kept {e : Sqe} {s : State} {u₀ : State} (h : execAttest e s = .next u₀) :
    LogKept s u₀ := (execAttest_only h).logKept (by decide)

theorem execIdKeyRead_kept {e : Sqe} {s : State} {u₀ : State} (h : execIdKeyRead e s = .next u₀) :
    LogKept s u₀ := (execIdKeyRead_only h).logKept (by decide)

theorem execFuseRead_kept {e : Sqe} {s : State} {u₀ : State} (h : execFuseRead e s = .next u₀) :
    LogKept s u₀ := (execFuseRead_only h).logKept (by decide)

theorem execFuseProgram_kept {e : Sqe} {h : HostRead} {vprog : Bool} {o : FuseOutcome} {s : State} {u₀ : State} (h : execFuseProgram e h vprog o s = .next u₀) :
    LogKept s u₀ := by
  unfold execFuseProgram at h
  split at h
  · injection h with h
    subst h
    simp
  · refine runCommand_kept h (fun x => ?_)
    try dsimp only
    (repeat' split) <;> first
      | (simp; done)
      | exact LogKept.trans (t := x.resumeJob) (by simp) (State.withVprog_kept (fun y => State.program_kept (fun z => by simp)))
      | exact LogKept.trans (t := x.resumeJob) (by simp) (State.withVprog_kept (fun y => by (try dsimp only); (repeat' split) <;> simp))
      | exact State.withVprog_kept (fun y => State.program_kept (fun z => by simp))
      | exact State.withVprog_kept (fun y => by (try dsimp only); (repeat' split) <;> simp)

theorem execFuseLock_kept {e : Sqe} {vprog : Bool} {o : FuseOutcome} {s : State} {u₀ : State} (h : execFuseLock e vprog o s = .next u₀) :
    LogKept s u₀ := by
  unfold execFuseLock at h
  split at h
  · injection h with h
    subst h
    simp
  · refine runCommand_kept h (fun x => ?_)
    try dsimp only
    (repeat' split) <;> first
      | (simp; done)
      | exact LogKept.trans (t := x.resumeJob) (by simp) (State.withVprog_kept (fun y => State.program_kept (fun z => by simp)))
      | exact LogKept.trans (t := x.resumeJob) (by simp) (State.withVprog_kept (fun y => by (try dsimp only); (repeat' split) <;> simp))
      | exact State.withVprog_kept (fun y => State.program_kept (fun z => by simp))
      | exact State.withVprog_kept (fun y => by (try dsimp only); (repeat' split) <;> simp)

theorem execFuseResense_kept {e : Sqe} {r : Resense} {s : State} {u₀ : State} (h : execFuseResense e r s = .next u₀) :
    LogKept s u₀ := by
  unfold execFuseResense at h
  split at h
  · injection h with h
    subst h
    simp
  · refine runCommand_kept h (fun x => ?_)
    try dsimp only
    (repeat' split) <;> first
      | (simp; done)
      | exact LogKept.trans (t := x.resumeJob) (by simp) (State.withVprog_kept (fun y => State.program_kept (fun z => by simp)))
      | exact LogKept.trans (t := x.resumeJob) (by simp) (State.withVprog_kept (fun y => by (try dsimp only); (repeat' split) <;> simp))
      | exact State.withVprog_kept (fun y => State.program_kept (fun z => by simp))
      | exact State.withVprog_kept (fun y => by (try dsimp only); (repeat' split) <;> simp)

theorem execFuseResenseTimer_kept {r : Resense} {s : State} {u₀ : State} (h : execFuseResenseTimer r s = .next u₀) :
    LogKept s u₀ := by
  unfold execFuseResenseTimer at h
  (repeat' split at h) <;> (injection h with h; subst h; simp)

theorem execKeyRevoke_kept {e : Sqe} {vprog : Bool} {o : FuseOutcome} {s : State} {u₀ : State} (h : execKeyRevoke e vprog o s = .next u₀) :
    LogKept s u₀ := by
  unfold execKeyRevoke at h
  split at h
  · injection h with h
    subst h
    simp
  · refine runCommand_kept h (fun x => ?_)
    try dsimp only
    (repeat' split) <;> first
      | (simp; done)
      | exact LogKept.trans (t := x.resumeJob) (by simp) (State.withVprog_kept (fun y => State.program_kept (fun z => by simp)))
      | exact LogKept.trans (t := x.resumeJob) (by simp) (State.withVprog_kept (fun y => by (try dsimp only); (repeat' split) <;> simp))
      | exact State.withVprog_kept (fun y => State.program_kept (fun z => by simp))
      | exact State.withVprog_kept (fun y => by (try dsimp only); (repeat' split) <;> simp)

theorem execEvSource_kept {e : Sqe} {s : State} {u₀ : State} (h : execEvSource e s = .next u₀) :
    LogKept s u₀ := (execEvSource_only h).logKept (by decide)

theorem execEvSink_kept {e : Sqe} {s : State} {u₀ : State} (h : execEvSink e s = .next u₀) :
    LogKept s u₀ := (execEvSink_only h).logKept (by decide)

theorem execEvPulse_kept {e : Sqe} {s : State} {u₀ : State} (h : execEvPulse e s = .next u₀) :
    LogKept s u₀ := (execEvPulse_only h).logKept (by decide)

theorem execEvSwPulseWrite_kept {v : Nat} {s : State} {u₀ : State} (h : execEvSwPulseWrite v s = .next u₀) :
    LogKept s u₀ := by
  unfold execEvSwPulseWrite at h
  try dsimp only at h
  (repeat' split at h) <;> first
    | (injection h with h; subst h; simp; done)
    | (rename_i hr; injection h with h; subst h; exact (State.refusesWrite_kept _ _ _ hr))

theorem execEvInfo_kept {e : Sqe} {s : State} {u₀ : State} (h : execEvInfo e s = .next u₀) :
    LogKept s u₀ := (execEvInfo_only h).logKept (by decide)

theorem execEventPulseDelivery_kept {s : State} {u₀ : State} (h : execEventPulseDelivery s = .next u₀) :
    LogKept s u₀ := by
  unfold execEventPulseDelivery at h
  (repeat' split at h) <;> (injection h with h; subst h; simp)

theorem execBmChannelCfg_kept {e : Sqe} {s : State} {u₀ : State} (h : execBmChannelCfg e s = .next u₀) :
    LogKept s u₀ := (execBmChannelCfg_only h).logKept (by decide)

theorem execBmNosnoop_kept {e : Sqe} {s : State} {u₀ : State} (h : execBmNosnoop e s = .next u₀) :
    LogKept s u₀ := (execBmNosnoop_only h).logKept (by decide)

theorem execBmChStart_kept {q : Requester} {c : Nat} {s : State} {u₀ : State} (h : execBmChStart q c s = .next u₀) :
    LogKept s u₀ := by
  unfold execBmChStart at h
  try dsimp only at h
  (repeat' split at h) <;> first
    | (injection h with h; subst h; simp; done)
    | (rename_i hr; injection h with h; subst h; exact (State.refusesWrite_kept _ _ _ hr))

theorem execBmChArm_kept {q : Requester} {c : Nat} {s : State} {u₀ : State} (h : execBmChArm q c s = .next u₀) :
    LogKept s u₀ := by
  unfold execBmChArm at h
  try dsimp only at h
  (repeat' split at h) <;> first
    | (injection h with h; subst h; simp; done)
    | (rename_i hr; injection h with h; subst h; exact (State.refusesWrite_kept _ _ _ hr))

theorem execBmChClear_kept {q : Requester} {c : Nat} {s : State} {u₀ : State} (h : execBmChClear q c s = .next u₀) :
    LogKept s u₀ := by
  unfold execBmChClear at h
  try dsimp only at h
  (repeat' split at h) <;> first
    | (injection h with h; subst h; simp; done)
    | (rename_i hr; injection h with h; subst h; exact (State.refusesWrite_kept _ _ _ hr))

theorem execBmDescriptorFetchDone_kept {c : Nat} {h : DescriptorRead} {s : State} {u₀ : State} (h : execBmDescriptorFetchDone c h s = .next u₀) :
    LogKept s u₀ := by
  unfold execBmDescriptorFetchDone at h
  try dsimp only at h
  (repeat' split at h) <;> (injection h with h; subst h; simp) <;> (repeat' split) <;> simp

theorem execBmDescriptorEnd_kept {c : Nat} {src : List Byte} {dst : List Byte} {s : State} {u₀ : State} (h : execBmDescriptorEnd c src dst s = .next u₀) :
    LogKept s u₀ := by
  unfold execBmDescriptorEnd at h
  try dsimp only at h
  (repeat' split at h) <;> (injection h with h; subst h; simp) <;> (repeat' split) <;> simp

theorem execBmChannelHalt_kept {c : Nat} {cause : HaltCause} {bytes : Nat} {s : State} {u₀ : State} (h : execBmChannelHalt c cause bytes s = .next u₀) :
    LogKept s u₀ := by
  unfold execBmChannelHalt at h
  (repeat' split at h) <;> (injection h with h; subst h; simp)

theorem execTeLatClear_kept {s : State} {u₀ : State} (h : execTeLatClear s = .next u₀) :
    LogKept s u₀ := by
  unfold execTeLatClear at h
  try dsimp only at h
  (repeat' split at h) <;> first
    | (injection h with h; subst h; simp; done)
    | (rename_i hr; injection h with h; subst h; exact (State.refusesWrite_kept _ _ _ hr))

theorem execLinkRetrain_kept {e : Sqe} {s : State} {u₀ : State} (h : execLinkRetrain e s = .next u₀) :
    LogKept s u₀ := (execLinkRetrain_only h).logKept (by decide)

theorem execLinkPowerCfg_kept {e : Sqe} {s : State} {u₀ : State} (h : execLinkPowerCfg e s = .next u₀) :
    LogKept s u₀ := (execLinkPowerCfg_only h).logKept (by decide)

theorem execLinkDisable_kept {e : Sqe} {s : State} {u₀ : State} (h : execLinkDisable e s = .next u₀) :
    LogKept s u₀ := (execLinkDisable_only h).logKept (by decide)

theorem execLinkEqSet_kept {e : Sqe} {s : State} {u₀ : State} (h : execLinkEqSet e s = .next u₀) :
    LogKept s u₀ := (execLinkEqSet_only h).logKept (by decide)

theorem execEpochBoundary_kept {x : EpochInput} {s : State} {u₀ : State} (h : execEpochBoundary x s = .next u₀) :
    LogKept s u₀ := (execEpochBoundary_only h).logKept (by decide)

theorem execActivationWindowEnd_kept {s : State} {u₀ : State} (h : execActivationWindowEnd s = .next u₀) :
    LogKept s u₀ := (execActivationWindowEnd_only h).logKept (by decide)

theorem execMcRequestArrival_kept {r : MemReq} {s : State} {u₀ : State} (h : execMcRequestArrival r s = .next u₀) :
    LogKept s u₀ := (execMcRequestArrival_only h).logKept (by decide)

theorem execMcCommandIssue_kept {n : Nat} {eligible : List MemSlot} {z : State} {u₀ : State} (h : execMcCommandIssue n eligible z = .next u₀) :
    LogKept z u₀ := by
  unfold execMcCommandIssue at h
  try dsimp only at h
  (repeat' split at h) <;> (injection h with h; subst h; simp) <;> (repeat' split) <;> simp

theorem execRequestUrgencyStep_kept {n : Nat} {write : Bool} {i : Nat} {s : State} {u₀ : State} (h : execRequestUrgencyStep n write i s = .next u₀) :
    LogKept s u₀ := (execRequestUrgencyStep_only h).logKept (by decide)

theorem execRefreshDue_kept {n : Nat} {bank : Nat} {s : State} {u₀ : State} (h : execRefreshDue n bank s = .next u₀) :
    LogKept s u₀ := (execRefreshDue_only h).logKept (by decide)

theorem execPcPowerDownEntry_kept {n : Nat} {s : State} {u₀ : State} (h : execPcPowerDownEntry n s = .next u₀) :
    LogKept s u₀ := (execPcPowerDownEntry_only h).logKept (by decide)

theorem execPcSelfRefreshEntry_kept {n : Nat} {s : State} {u₀ : State} (h : execPcSelfRefreshEntry n s = .next u₀) :
    LogKept s u₀ := (execPcSelfRefreshEntry_only h).logKept (by decide)

theorem execCalibrationHold_kept {x : CalInput} {s : State} {u₀ : State} (h : execCalibrationHold x s = .next u₀) :
    LogKept s u₀ := by
  unfold execCalibrationHold at h
  split at h
  · injection h with h; subst h; simp
  · split at h
    · injection h with h; subst h; simp
    · dsimp only at h
      split at h
      · injection h with h; subst h; simp
      · next hm =>
        have hu := State.markTsvs_kept _ _ _ _ hm
        split at h <;> injection h with h <;> subst h
        · exact LogKept.trans (by simp) ((hu).trans (by simp))
        · exact LogKept.trans (by simp) ((hu).trans (by simp))

theorem execMemoryReadReturn_kept {w : MemWord} {sy : Nat} {s : State} {u₀ : State} (h : execMemoryReadReturn w sy s = .next u₀) :
    LogKept s u₀ := by
  unfold execMemoryReadReturn at h
  (repeat' split at h) <;> (injection h with h; subst h; simp)

theorem execBucketLeak_kept {u : Nat} {s : State} {u₀ : State} (h : execBucketLeak u s = .next u₀) :
    LogKept s u₀ := (execBucketLeak_only h).logKept (by decide)

theorem execFluxRewrite_kept {s : State} {u₀ : State} (h : execFluxRewrite s = .next u₀) :
    LogKept s u₀ := (execFluxRewrite_only h).logKept (by decide)

theorem execFluxRowScrub_kept {n late : Nat} {found : List Found} {s : State} {u₀ : State} (h : execFluxRowScrub n late found s = .next u₀) :
    LogKept s u₀ := by
  unfold execFluxRowScrub at h
  try dsimp only at h
  (repeat' split at h) <;> (injection h with h; subst h; simp) <;> (repeat' split) <;> simp

theorem execCrucibleScrub_kept {last : Bool} {found : List Found} {s : State} {u₀ : State} (h : execCrucibleScrub last found s = .next u₀) :
    LogKept s u₀ := by
  unfold execCrucibleScrub at h
  (repeat' split at h) <;> (injection h with h; subst h; simp)

theorem execSweepLate_kept {n : Nat} {s : State} {u₀ : State} (h : execSweepLate n s = .next u₀) :
    LogKept s u₀ := by
  unfold execSweepLate at h
  (repeat' split at h) <;> (injection h with h; subst h; simp)

theorem execMirrorRepair_kept {ok : Bool} {s : State} {u₀ : State} (h : execMirrorRepair ok s = .next u₀) :
    LogKept s u₀ := by
  unfold execMirrorRepair at h
  (repeat' split at h) <;> (injection h with h; subst h; simp)

theorem execBankRetirement_kept {pc : Nat} {bank : Nat} {s : State} {u₀ : State} (h : execBankRetirement pc bank s = .next u₀) :
    LogKept s u₀ := (execBankRetirement_only h).logKept (by decide)

theorem execRegWindowBoundary_kept {s : State} {u₀ : State} (h : execRegWindowBoundary s = .next u₀) :
    LogKept s u₀ := by
  unfold execRegWindowBoundary at h
  (repeat' split at h) <;> (injection h with h; subst h; simp)

theorem execHeartbeat_kept {s : State} {u₀ : State} (h : execHeartbeat s = .next u₀) :
    LogKept s u₀ := (execHeartbeat_only h).logKept (by decide)

theorem execFuseData_kept {slot : Nat} {r : Nat} {first : Nat} {n : Nat} {s : State} {u₀ : State} (h : execFuseData slot r first n s = .next u₀) :
    LogKept s u₀ := by
  unfold execFuseData at h
  (repeat' split at h) <;> (injection h with h; subst h; simp)

theorem execClosureState_kept {slot : Nat} {s : State} {u₀ : State} (h : execClosureState slot s = .next u₀) :
    LogKept s u₀ := (execClosureState_only h).logKept (by decide)

theorem execErrlogWrite_kept {slot : Nat} {svPrefix : Bool} {code : Nat} {unitKind : Nat} {unit : Nat} {sub : Nat} {object : Nat} {data : Nat} {s : State} {u₀ : State} (h : execErrlogWrite slot svPrefix code unitKind unit sub object data s = .next u₀) :
    LogKept s u₀ := by
  unfold execErrlogWrite at h
  (repeat' split at h) <;> (injection h with h; subst h; simp)

theorem execDeviceState_kept {slot : Nat} {s : State} {u₀ : State} (h : execDeviceState slot s = .next u₀) :
    LogKept s u₀ := (execDeviceState_only h).logKept (by decide)

theorem execMailboxRefused_kept {slot : Nat} {kind : Nat} {s : State} {u₀ : State} (h : execMailboxRefused slot kind s = .next u₀) :
    LogKept s u₀ := by
  unfold execMailboxRefused at h
  (repeat' split at h) <;> (injection h with h; subst h; simp)

theorem execSvWatchdogExpiry_kept {s : State} {u₀ : State} (h : execSvWatchdogExpiry s = .next u₀) :
    LogKept s u₀ := by
  unfold execSvWatchdogExpiry at h
  (repeat' split at h) <;> (injection h with h; subst h; simp)

theorem execSvCoreHalt_kept {s : State} {u₀ : State} (h : execSvCoreHalt s = .next u₀) :
    LogKept s u₀ := by
  unfold execSvCoreHalt at h
  (repeat' split at h) <;> (injection h with h; subst h; simp)

theorem execSvActionReset_kept {s : State} {u₀ : State} (h : execSvActionReset s = .next u₀) :
    LogKept s u₀ := (execSvActionReset_only h).logKept (by decide)

theorem execAnvilHeartbeat_kept {s : State} {u₀ : State} (h : execAnvilHeartbeat s = .next u₀) :
    LogKept s u₀ := (execAnvilHeartbeat_only h).logKept (by decide)

theorem execAnvilSupervisorTimeout_kept {s : State} {u₀ : State} (h : execAnvilSupervisorTimeout s = .next u₀) :
    LogKept s u₀ := by
  unfold execAnvilSupervisorTimeout at h
  (repeat' split at h) <;> (injection h with h; subst h; simp)

theorem execAnvilHalt_kept {s : State} {u₀ : State} (h : execAnvilHalt s = .next u₀) :
    LogKept s u₀ := by
  unfold execAnvilHalt at h
  (repeat' split at h) <;> (injection h with h; subst h; simp)

theorem execStatus_kept {s : State} {u₀ : State} (h : execStatus s = .next u₀) :
    LogKept s u₀ := (execStatus_only h).logKept (by decide)

theorem execIdentity_kept {s : State} {u₀ : State} (h : execIdentity s = .next u₀) :
    LogKept s u₀ := (execIdentity_only h).logKept (by decide)

theorem execPower_kept {mW : Nat} {s : State} {u₀ : State} (h : execPower mW s = .next u₀) :
    LogKept s u₀ := (execPower_only h).logKept (by decide)

theorem execLevel_kept {s : State} {u₀ : State} (h : execLevel s = .next u₀) :
    LogKept s u₀ := (execLevel_only h).logKept (by decide)

theorem execHottest_kept {s : State} {u₀ : State} (h : execHottest s = .next u₀) :
    LogKept s u₀ := (execHottest_only h).logKept (by decide)

theorem execTherm0_kept {s : State} {u₀ : State} (h : execTherm0 s = .next u₀) :
    LogKept s u₀ := (execTherm0_only h).logKept (by decide)

theorem execTherm8_kept {s : State} {u₀ : State} (h : execTherm8 s = .next u₀) :
    LogKept s u₀ := (execTherm8_only h).logKept (by decide)

theorem execTherm16_kept {s : State} {u₀ : State} (h : execTherm16 s = .next u₀) :
    LogKept s u₀ := (execTherm16_only h).logKept (by decide)

theorem execErrlogPtrWrite_kept {w : SbWrite} {s : State} {u₀ : State} (h : execErrlogPtrWrite w s = .next u₀) :
    LogKept s u₀ := (execErrlogPtrWrite_only h).logKept (by decide)

theorem execErrlogPtrRead_kept {s : State} {u₀ : State} (h : execErrlogPtrRead s = .next u₀) :
    LogKept s u₀ := (execErrlogPtrRead_only h).logKept (by decide)

theorem execErrlog_kept {completed : Bool} {s : State} {u₀ : State} (h : execErrlog completed s = .next u₀) :
    LogKept s u₀ := (execErrlog_only h).logKept (by decide)

theorem execQuenchWrite_kept {w : SbWrite} {s : State} {u₀ : State} (h : execQuenchWrite w s = .next u₀) :
    LogKept s u₀ := by
  unfold execQuenchWrite at h
  (repeat' split at h) <;> (injection h with h; subst h; simp)

theorem execQuenchRead_kept {s : State} {u₀ : State} (h : execQuenchRead s = .next u₀) :
    LogKept s u₀ := (execQuenchRead_only h).logKept (by decide)

theorem execAlertResponse_kept {s : State} {u₀ : State} (h : execAlertResponse s = .next u₀) :
    LogKept s u₀ := (execAlertResponse_only h).logKept (by decide)

theorem execSclTimeout_kept {s : State} {u₀ : State} (h : execSclTimeout s = .next u₀) :
    LogKept s u₀ := by
  unfold execSclTimeout at h
  (repeat' split at h) <;> (injection h with h; subst h; simp)

theorem execSdaTimeout_kept {s : State} {u₀ : State} (h : execSdaTimeout s = .next u₀) :
    LogKept s u₀ := by
  unfold execSdaTimeout at h
  (repeat' split at h) <;> (injection h with h; subst h; simp)

theorem execBusClear_kept {sdaHigh : Bool} {s : State} {u₀ : State} (h : execBusClear sdaHigh s = .next u₀) :
    LogKept s u₀ := by
  unfold execBusClear at h
  (repeat' split at h) <;> (injection h with h; subst h; simp)

theorem execHostNotify_kept {r : BusResult} {s : State} {u₀ : State} (h : execHostNotify r s = .next u₀) :
    LogKept s u₀ := (execHostNotify_only h).logKept (by decide)

theorem execHostNotifyRetry_kept {r : BusResult} {s : State} {u₀ : State} (h : execHostNotifyRetry r s = .next u₀) :
    LogKept s u₀ := (execHostNotifyRetry_only h).logKept (by decide)

theorem execArbitrationRetry_kept {r : BusResult} {s : State} {u₀ : State} (h : execArbitrationRetry r s = .next u₀) :
    LogKept s u₀ := by
  unfold execArbitrationRetry at h
  (repeat' split at h) <;> (injection h with h; subst h; simp)

theorem execEepromRead_kept {r : BusResult} {s : State} {u₀ : State} (h : execEepromRead r s = .next u₀) :
    LogKept s u₀ := by
  unfold execEepromRead at h
  (repeat' split at h) <;> (injection h with h; subst h; simp)

theorem execEepromReadDone_kept {a : EepromAnswer} {s : State} {u₀ : State} (h : execEepromReadDone a s = .next u₀) :
    LogKept s u₀ := by
  unfold execEepromReadDone at h
  (repeat' split at h) <;> (injection h with h; subst h; simp)

theorem execTimesyncFallingEdge_kept {s : State} {u₀ : State} (h : execTimesyncFallingEdge s = .next u₀) :
    LogKept s u₀ := (execTimesyncFallingEdge_only h).logKept (by decide)

theorem execVprogOutOfTolerance_kept {blown : Nat} {weak : Nat} {s : State} {u₀ : State} (h : execVprogOutOfTolerance blown weak s = .next u₀) :
    LogKept s u₀ := by
  unfold execVprogOutOfTolerance at h
  (repeat' split at h) <;> (injection h with h; subst h; simp)

theorem execSdaSeenHigh_kept {s : State} {u₀ : State} (h : execSdaSeenHigh s = .next u₀) :
    LogKept s u₀ := (execSdaSeenHigh_only h).logKept (by decide)

theorem execPageIdleTimer_kept {n : Nat} {bank : Nat} {s : State} {u₀ : State} (h : execPageIdleTimer n bank s = .next u₀) :
    LogKept s u₀ := (execPageIdleTimer_only h).logKept (by decide)

theorem execCalibrationHoldEnd_kept {s : State} {u₀ : State} (h : execCalibrationHoldEnd s = .next u₀) :
    LogKept s u₀ := (execCalibrationHoldEnd_only h).logKept (by decide)

theorem execUnlistedCommandCode_kept {code : Nat} {write : Bool} {s : State} {u₀ : State} (h : execUnlistedCommandCode code write s = .next u₀) :
    LogKept s u₀ := (execUnlistedCommandCode_only h).logKept (by decide)

end Sys2Proof.Machine
end

