-- ==== Sys2Proof/Laws/Map.lean ====
section
/-!
SUPPORT. The laws of sparse maps: a read after a write gives the value written, a write leaves every other key
alone, and every write keeps the canonical form.
-/
namespace Sys2Proof.Machine

variable {α : Type}

theorem Map.get_put_same (d : Nat → α) (m : Map α) (k : Nat) (v : α) : Map.get d (Map.put k v m) k = v := by
  induction m with
  | nil => simp [Map.put, Map.get]
  | cons p r ih =>
    obtain ⟨j, w⟩ := p
    simp only [Map.put]
    split
    · simp [Map.get]
    · split
      · simp [Map.get]
      · next h1 h2 => simp [Map.get, ih, Ne.symm h2]

theorem Map.get_put_other (d : Nat → α) (m : Map α) {k l : Nat} (v : α) (h : l ≠ k) :
    Map.get d (Map.put k v m) l = Map.get d m l := by
  induction m with
  | nil => simp [Map.put, Map.get, Ne.symm h]
  | cons p r ih =>
    obtain ⟨j, w⟩ := p
    simp only [Map.put]
    split
    · simp [Map.get, Ne.symm h]
    · split
      · next h2 => subst h2; simp [Map.get, Ne.symm h]
      · simp [Map.get, ih]

theorem Map.get_erase_same (d : Nat → α) (m : Map α) (k : Nat) : Map.get d (Map.erase k m) k = d k := by
  induction m with
  | nil => rfl
  | cons p r ih =>
    obtain ⟨j, w⟩ := p
    simp only [Map.erase]
    split
    · exact ih
    · next h => simp [Map.get, h, ih]

theorem Map.get_erase_other (d : Nat → α) (m : Map α) {k l : Nat} (h : l ≠ k) :
    Map.get d (Map.erase k m) l = Map.get d m l := by
  induction m with
  | nil => rfl
  | cons p r ih =>
    obtain ⟨j, w⟩ := p
    simp only [Map.erase]
    split
    · next h2 => subst h2; simp [Map.get, Ne.symm h, ih]
    · simp [Map.get, ih]

/-- Read after write, same key. -/
@[simp] theorem Map.get_set_same [DecidableEq α] (d : Nat → α) (m : Map α) (k : Nat) (v : α) :
    Map.get d (Map.set d m k v) k = v := by
  unfold Map.set
  split
  · next h => rw [Map.get_erase_same, h]
  · exact Map.get_put_same d m k v

/-- A write leaves every other key alone. -/
theorem Map.get_set_other [DecidableEq α] (d : Nat → α) (m : Map α) {k l : Nat} (v : α) (h : l ≠ k) :
    Map.get d (Map.set d m k v) l = Map.get d m l := by
  unfold Map.set
  split
  · exact Map.get_erase_other d m h
  · exact Map.get_put_other d m v h

/-- A read after a write, at any key. -/
theorem Map.get_set [DecidableEq α] (d : Nat → α) (m : Map α) (k l : Nat) (v : α) :
    Map.get d (Map.set d m k v) l = if l = k then v else Map.get d m l := by
  split
  · next h => subst h; exact Map.get_set_same d m l v
  · next h => exact Map.get_set_other d m v h

/-- A lower bound on the keys may be weakened. -/
theorem Map.wfAbove_mono [DecidableEq α] (d : Nat → α) (m : Map α) {b c : Nat} (hb : c ≤ b)
    (h : Map.wfAbove d (some b) m = true) : Map.wfAbove d (some c) m = true := by
  cases m with
  | nil => rfl
  | cons p r =>
    obtain ⟨j, v⟩ := p
    simp only [Map.wfAbove, keyAbove, Bool.and_eq_true, decide_eq_true_eq] at h ⊢
    exact ⟨⟨by omega, h.1.2⟩, h.2⟩

theorem Map.wfAbove_erase [DecidableEq α] (d : Nat → α) (m : Map α) (b : Option Nat) (k : Nat)
    (h : Map.wfAbove d b m = true) : Map.wfAbove d b (Map.erase k m) = true := by
  induction m generalizing b with
  | nil => exact h
  | cons p r ih =>
    obtain ⟨j, v⟩ := p
    simp only [Map.wfAbove, Bool.and_eq_true, decide_eq_true_eq] at h
    simp only [Map.erase]
    split
    · apply ih
      cases b with
      | none =>
        cases r with
        | nil => rfl
        | cons q r' =>
          obtain ⟨j', v'⟩ := q
          have h2 := h.2
          simp only [Map.wfAbove, Bool.and_eq_true, decide_eq_true_eq] at h2 ⊢
          exact ⟨⟨rfl, h2.1.2⟩, h2.2⟩
      | some c => exact Map.wfAbove_mono d r (by simp [keyAbove] at h; omega) h.2
    · simp only [Map.wfAbove, Bool.and_eq_true, decide_eq_true_eq]
      exact ⟨h.1, ih _ h.2⟩

theorem Map.wfAbove_put [DecidableEq α] (d : Nat → α) (m : Map α) (b : Option Nat) (k : Nat) (v : α)
    (hv : v ≠ d k) (hb : ∀ c, b = some c → c < k) (h : Map.wfAbove d b m = true) :
    Map.wfAbove d b (Map.put k v m) = true := by
  induction m generalizing b with
  | nil =>
    simp only [Map.put, Map.wfAbove, Bool.and_eq_true, decide_eq_true_eq]
    refine ⟨⟨?_, hv⟩, trivial⟩
    cases b with
    | none => rfl
    | some c => simpa [keyAbove] using hb c rfl
  | cons p r ih =>
    obtain ⟨j, w⟩ := p
    simp only [Map.wfAbove, Bool.and_eq_true, decide_eq_true_eq] at h
    have hk : keyAbove b k = true := by
      cases b with
      | none => rfl
      | some c => simpa [keyAbove] using hb c rfl
    simp only [Map.put]
    split
    · next h1 =>
      simp only [Map.wfAbove, Bool.and_eq_true, decide_eq_true_eq]
      exact ⟨⟨hk, hv⟩, ⟨by simpa [keyAbove] using h1, h.1.2⟩, h.2⟩
    · split
      · next h1 h2 =>
        subst h2
        simp only [Map.wfAbove, Bool.and_eq_true, decide_eq_true_eq]
        exact ⟨⟨hk, hv⟩, h.2⟩
      · next h1 h2 =>
        simp only [Map.wfAbove, Bool.and_eq_true, decide_eq_true_eq]
        exact ⟨h.1, ih _ (by intro c hc; cases hc; omega) h.2⟩

/-- Every write keeps the canonical form. -/
theorem Map.wf_set [DecidableEq α] (d : Nat → α) (m : Map α) (k : Nat) (v : α)
    (h : Map.wf d m = true) : Map.wf d (Map.set d m k v) = true := by
  unfold Map.set Map.wf at *
  split
  · exact Map.wfAbove_erase d m none k h
  · next hv => exact Map.wfAbove_put d m none k v hv (by simp) h

end Sys2Proof.Machine
end

