-- ==== Sys2Proof/Laws/Regs.lean ====
section
/-!
SUPPORT. The laws of registers: a read after a write, and `OnlyRegs` through the operations that write registers.
-/
namespace Sys2Proof.Machine

variable {ks ls : List Fld} {ps : List Part} {s t u : State}

/-! ### Reads after writes -/

theorem State.f_setF (s : State) (k l : Fld) (v : Nat) : (s.setF k v).f l = if l = k then v else s.f l := by
  unfold State.f State.setF
  exact Map.get_set _ _ _ _ _

@[simp] theorem State.f_setF_same (s : State) (k : Fld) (v : Nat) : (s.setF k v).f k = v := by
  simp [State.f_setF]

theorem State.f_setF_other (s : State) {k l : Fld} (v : Nat) (h : l ≠ k) : (s.setF k v).f l = s.f l := by
  simp [State.f_setF, h]

@[simp] theorem State.setFs_nil (s : State) : s.setFs [] = s := rfl

@[simp] theorem State.setFs_cons (s : State) (k : Fld) (v : Nat) (r : List (Fld × Nat)) :
    s.setFs ((k, v) :: r) = (s.setF k v).setFs r := rfl

theorem State.setFs_append (s : State) (a b : List (Fld × Nat)) : s.setFs (a ++ b) = (s.setFs a).setFs b := by
  induction a generalizing s with
  | nil => rfl
  | cons p r ih => exact ih (s.setF p.1 p.2)

theorem State.f_setFs_other (s : State) (l : List (Fld × Nat)) {k : Fld} (h : k ∉ l.map (·.1)) : (s.setFs l).f k = s.f k := by
  induction l generalizing s with
  | nil => rfl
  | cons p r ih =>
    simp only [List.map_cons, List.mem_cons, not_or] at h
    rw [show s.setFs (p :: r) = (s.setF p.1 p.2).setFs r from rfl, ih _ h.2, State.f_setF_other _ _ h.1]

/-- The registers are the same, so every field reads the same. -/
theorem State.f_congr (h : t.regs = s.regs) (k : Fld) : t.f k = s.f k := by
  unfold State.f
  rw [h]

/-! ### Frames of registers -/

@[simp] theorem OnlyRegs.refl (ks : List Fld) (s : State) : OnlyRegs ks s s := fun _ _ => rfl

theorem OnlyRegs.trans (h : OnlyRegs ks s t) (g : OnlyRegs ks t u) : OnlyRegs ks s u :=
  fun k hk => (g k hk).trans (h k hk)

theorem OnlyRegs.mono (h : OnlyRegs ks s t) (g : ks ⊆ ls) : OnlyRegs ls s t := fun k hk => h k (fun m => hk (g m))

theorem OnlyRegs.step (h : OnlyRegs ks t u) (g : ks ⊆ ls) : OnlyRegs ls s u ↔ OnlyRegs ls s t :=
  ⟨fun k l hl => ((h.mono g l hl).symm).trans (k l hl), fun k => k.trans (h.mono g)⟩

theorem OnlyRegs.of_only (h : Only ps s t) (g : Part.regs ∉ ps) : OnlyRegs [] s t :=
  fun k _ => State.f_congr (h.eq_regs g) k

theorem OnlyRegs.of_eq (h : t.regs = s.regs) : OnlyRegs [] s t := fun k _ => State.f_congr h k

@[simp] theorem OnlyRegs.foldl {α : Type} (f : State → α → State) (l : List α) (h : ∀ x a, OnlyRegs ks s (f x a) ↔ OnlyRegs ks s x) :
    OnlyRegs ks s (l.foldl f t) ↔ OnlyRegs ks s t := by
  induction l generalizing t with
  | nil => rfl
  | cons a r ih => exact (ih (t := f t a)).trans (h t a)

theorem OnlyRegs.foldlI {α : Type} (f : State → α → State) (l : List α) (h : ∀ x a, OnlyRegs ks x (f x a)) (g : OnlyRegs ks s t) :
    OnlyRegs ks s (l.foldl f t) := (OnlyRegs.foldl f l (fun x a => (h x a).step (fun _ m => m))).mpr g

@[simp] theorem OnlyRegs.ite {c : Prop} [Decidable c] :
    OnlyRegs ks s (if c then t else u) ↔ if c then OnlyRegs ks s t else OnlyRegs ks s u := by
  split <;> rfl

theorem State.setF_regs (s : State) (k : Fld) (v : Nat) : OnlyRegs [k] s (s.setF k v) :=
  fun l hl => State.f_setF_other s v (fun e => hl (by simp [e]))

@[simp] theorem State.setF_regsStep (s : State) (k : Fld) (v : Nat) (h : [k] ⊆ ks) :
    OnlyRegs ks t (s.setF k v) ↔ OnlyRegs ks t s := (State.setF_regs s k v).step h

theorem State.setFs_regs (s : State) (l : List (Fld × Nat)) : OnlyRegs (l.map (·.1)) s (s.setFs l) :=
  fun _ hk => State.f_setFs_other s l hk

/-! ### Record updates that leave the registers alone -/

@[simp] theorem OnlyRegs.upd_pending (v0 : List Instr) :
    OnlyRegs ks s ({ t with pending := v0 } : State) ↔ OnlyRegs ks s t := Iff.rfl

@[simp] theorem OnlyRegs.upd_out (v0 : List Output) :
    OnlyRegs ks s ({ t with out := v0 } : State) ↔ OnlyRegs ks s t := Iff.rfl

@[simp] theorem OnlyRegs.upd_heldOut (v0 : List Output) :
    OnlyRegs ks s ({ t with heldOut := v0 } : State) ↔ OnlyRegs ks s t := Iff.rfl

@[simp] theorem OnlyRegs.upd_free (v0 : Nat) :
    OnlyRegs ks s ({ t with free := v0 } : State) ↔ OnlyRegs ks s t := Iff.rfl

@[simp] theorem OnlyRegs.upd_time (v0 : TimeBase) :
    OnlyRegs ks s ({ t with time := v0 } : State) ↔ OnlyRegs ks s t := Iff.rfl

@[simp] theorem OnlyRegs.upd_pilot (v0 : Pilot) :
    OnlyRegs ks s ({ t with pilot := v0 } : State) ↔ OnlyRegs ks s t := Iff.rfl

@[simp] theorem OnlyRegs.upd_dom (v0 : Domains) :
    OnlyRegs ks s ({ t with dom := v0 } : State) ↔ OnlyRegs ks s t := Iff.rfl

@[simp] theorem OnlyRegs.upd_latches (v0 : Map Nat) :
    OnlyRegs ks s ({ t with latches := v0 } : State) ↔ OnlyRegs ks s t := Iff.rfl

@[simp] theorem OnlyRegs.upd_pcie (v0 : Pcie) :
    OnlyRegs ks s ({ t with pcie := v0 } : State) ↔ OnlyRegs ks s t := Iff.rfl

@[simp] theorem OnlyRegs.upd_log (v0 : List LogEntry) :
    OnlyRegs ks s ({ t with log := v0 } : State) ↔ OnlyRegs ks s t := Iff.rfl

@[simp] theorem OnlyRegs.upd_rings (v0 : Map Ring) :
    OnlyRegs ks s ({ t with rings := v0 } : State) ↔ OnlyRegs ks s t := Iff.rfl

@[simp] theorem OnlyRegs.upd_pulses (v0 : List (Nat × Tick)) :
    OnlyRegs ks s ({ t with pulses := v0 } : State) ↔ OnlyRegs ks s t := Iff.rfl

@[simp] theorem OnlyRegs.upd_channels (v0 : Map Channel) :
    OnlyRegs ks s ({ t with channels := v0 } : State) ↔ OnlyRegs ks s t := Iff.rfl

@[simp] theorem OnlyRegs.upd_fuses (v0 : FuseArray) :
    OnlyRegs ks s ({ t with fuses := v0 } : State) ↔ OnlyRegs ks s t := Iff.rfl

@[simp] theorem OnlyRegs.upd_trust (v0 : Trust) :
    OnlyRegs ks s ({ t with trust := v0 } : State) ↔ OnlyRegs ks s t := Iff.rfl

@[simp] theorem OnlyRegs.upd_sensors (v0 : Map Sensor) :
    OnlyRegs ks s ({ t with sensors := v0 } : State) ↔ OnlyRegs ks s t := Iff.rfl

@[simp] theorem OnlyRegs.upd_layers (v0 : Map Layer) :
    OnlyRegs ks s ({ t with layers := v0 } : State) ↔ OnlyRegs ks s t := Iff.rfl

@[simp] theorem OnlyRegs.upd_thermal (v0 : Thermal) :
    OnlyRegs ks s ({ t with thermal := v0 } : State) ↔ OnlyRegs ks s t := Iff.rfl

@[simp] theorem OnlyRegs.upd_test (v0 : SelfTest) :
    OnlyRegs ks s ({ t with test := v0 } : State) ↔ OnlyRegs ks s t := Iff.rfl

@[simp] theorem OnlyRegs.upd_sideband (v0 : Sideband) :
    OnlyRegs ks s ({ t with sideband := v0 } : State) ↔ OnlyRegs ks s t := Iff.rfl

@[simp] theorem OnlyRegs.upd_ports (v0 : Map Port) :
    OnlyRegs ks s ({ t with ports := v0 } : State) ↔ OnlyRegs ks s t := Iff.rfl

@[simp] theorem OnlyRegs.upd_lanes (v0 : Map Lane) :
    OnlyRegs ks s ({ t with lanes := v0 } : State) ↔ OnlyRegs ks s t := Iff.rfl

@[simp] theorem OnlyRegs.upd_queues (v0 : Map Queue) :
    OnlyRegs ks s ({ t with queues := v0 } : State) ↔ OnlyRegs ks s t := Iff.rfl

@[simp] theorem OnlyRegs.upd_queueChanges (v0 : List QueueChange) :
    OnlyRegs ks s ({ t with queueChanges := v0 } : State) ↔ OnlyRegs ks s t := Iff.rfl

@[simp] theorem OnlyRegs.upd_snapshots (v0 : List Snapshot) :
    OnlyRegs ks s ({ t with snapshots := v0 } : State) ↔ OnlyRegs ks s t := Iff.rfl

@[simp] theorem OnlyRegs.upd_snapPending (v0 : Option (SnapSource × Tick)) :
    OnlyRegs ks s ({ t with snapPending := v0 } : State) ↔ OnlyRegs ks s t := Iff.rfl

@[simp] theorem OnlyRegs.upd_tables (v0 : Map (Option Table)) :
    OnlyRegs ks s ({ t with tables := v0 } : State) ↔ OnlyRegs ks s t := Iff.rfl

@[simp] theorem OnlyRegs.upd_dead (v0 : List DeadTable) :
    OnlyRegs ks s ({ t with dead := v0 } : State) ↔ OnlyRegs ks s t := Iff.rfl

@[simp] theorem OnlyRegs.upd_commits (v0 : List Commit) :
    OnlyRegs ks s ({ t with commits := v0 } : State) ↔ OnlyRegs ks s t := Iff.rfl

@[simp] theorem OnlyRegs.upd_commitLog (v0 : List CommitRecord) :
    OnlyRegs ks s ({ t with commitLog := v0 } : State) ↔ OnlyRegs ks s t := Iff.rfl

@[simp] theorem OnlyRegs.upd_recovered (v0 : List Recovered) :
    OnlyRegs ks s ({ t with recovered := v0 } : State) ↔ OnlyRegs ks s t := Iff.rfl

@[simp] theorem OnlyRegs.upd_cancelled (v0 : List CommitRecord) :
    OnlyRegs ks s ({ t with cancelled := v0 } : State) ↔ OnlyRegs ks s t := Iff.rfl

@[simp] theorem OnlyRegs.upd_latency (v0 : Map Nat) :
    OnlyRegs ks s ({ t with latency := v0 } : State) ↔ OnlyRegs ks s t := Iff.rfl

@[simp] theorem OnlyRegs.upd_engineQueues (v0 : Map (List EngineOp)) :
    OnlyRegs ks s ({ t with engineQueues := v0 } : State) ↔ OnlyRegs ks s t := Iff.rfl

@[simp] theorem OnlyRegs.upd_marver (v0 : Marver) :
    OnlyRegs ks s ({ t with marver := v0 } : State) ↔ OnlyRegs ks s t := Iff.rfl

@[simp] theorem OnlyRegs.upd_pcs (v0 : Map Pc) :
    OnlyRegs ks s ({ t with pcs := v0 } : State) ↔ OnlyRegs ks s t := Iff.rfl

@[simp] theorem OnlyRegs.upd_stageRows (v0 : List StageRow) :
    OnlyRegs ks s ({ t with stageRows := v0 } : State) ↔ OnlyRegs ks s t := Iff.rfl

@[simp] theorem OnlyRegs.upd_windows (v0 : List WindowAccess) :
    OnlyRegs ks s ({ t with windows := v0 } : State) ↔ OnlyRegs ks s t := Iff.rfl

@[simp] theorem OnlyRegs.upd_placed (v0 : Bool) :
    OnlyRegs ks s ({ t with placed := v0 } : State) ↔ OnlyRegs ks s t := Iff.rfl

@[simp] theorem OnlyRegs.upd_integrity (v0 : Integrity) :
    OnlyRegs ks s ({ t with integrity := v0 } : State) ↔ OnlyRegs ks s t := Iff.rfl

@[simp] theorem OnlyRegs.upd_regulator (v0 : Regulator) :
    OnlyRegs ks s ({ t with regulator := v0 } : State) ↔ OnlyRegs ks s t := Iff.rfl

@[simp] theorem OnlyRegs.upd_time_pilot (v0 : TimeBase) (v1 : Pilot) :
    OnlyRegs ks s ({ t with time := v0, pilot := v1 } : State) ↔ OnlyRegs ks s t := Iff.rfl

@[simp] theorem OnlyRegs.upd_pilot_trust (v0 : Pilot) (v1 : Trust) :
    OnlyRegs ks s ({ t with pilot := v0, trust := v1 } : State) ↔ OnlyRegs ks s t := Iff.rfl

@[simp] theorem OnlyRegs.upd_pilot_sideband (v0 : Pilot) (v1 : Sideband) :
    OnlyRegs ks s ({ t with pilot := v0, sideband := v1 } : State) ↔ OnlyRegs ks s t := Iff.rfl

@[simp] theorem OnlyRegs.upd_pilot_commits (v0 : Pilot) (v1 : List Commit) :
    OnlyRegs ks s ({ t with pilot := v0, commits := v1 } : State) ↔ OnlyRegs ks s t := Iff.rfl

@[simp] theorem OnlyRegs.upd_pilot_windows (v0 : Pilot) (v1 : List WindowAccess) :
    OnlyRegs ks s ({ t with pilot := v0, windows := v1 } : State) ↔ OnlyRegs ks s t := Iff.rfl

@[simp] theorem OnlyRegs.upd_log_logWritten (v0 : List LogEntry) (v1 : Nat) :
    OnlyRegs ks s ({ t with log := v0, logWritten := v1 } : State) ↔ OnlyRegs ks s t := Iff.rfl

@[simp] theorem OnlyRegs.upd_lines_pulses (v0 : Map EvLine) (v1 : List (Nat × Tick)) :
    OnlyRegs ks s ({ t with lines := v0, pulses := v1 } : State) ↔ OnlyRegs ks s t := Iff.rfl

@[simp] theorem OnlyRegs.upd_fuses_trust (v0 : FuseArray) (v1 : Trust) :
    OnlyRegs ks s ({ t with fuses := v0, trust := v1 } : State) ↔ OnlyRegs ks s t := Iff.rfl

@[simp] theorem OnlyRegs.upd_snapshots_snapPending (v0 : List Snapshot) (v1 : Option (SnapSource × Tick)) :
    OnlyRegs ks s ({ t with snapshots := v0, snapPending := v1 } : State) ↔ OnlyRegs ks s t := Iff.rfl

@[simp] theorem OnlyRegs.upd_snapPending_engineQueues (v0 : Option (SnapSource × Tick)) (v1 : Map (List EngineOp)) :
    OnlyRegs ks s ({ t with snapPending := v0, engineQueues := v1 } : State) ↔ OnlyRegs ks s t := Iff.rfl

@[simp] theorem OnlyRegs.upd_tables_marver (v0 : Map (Option Table)) (v1 : Marver) :
    OnlyRegs ks s ({ t with tables := v0, marver := v1 } : State) ↔ OnlyRegs ks s t := Iff.rfl

@[simp] theorem OnlyRegs.upd_dead_marver (v0 : List DeadTable) (v1 : Marver) :
    OnlyRegs ks s ({ t with dead := v0, marver := v1 } : State) ↔ OnlyRegs ks s t := Iff.rfl

@[simp] theorem OnlyRegs.upd_marver_placed (v0 : Marver) (v1 : Bool) :
    OnlyRegs ks s ({ t with marver := v0, placed := v1 } : State) ↔ OnlyRegs ks s t := Iff.rfl

@[simp] theorem OnlyRegs.upd_marver_integrity (v0 : Marver) (v1 : Integrity) :
    OnlyRegs ks s ({ t with marver := v0, integrity := v1 } : State) ↔ OnlyRegs ks s t := Iff.rfl

@[simp] theorem OnlyRegs.upd_pcs_regulator (v0 : Map Pc) (v1 : Regulator) :
    OnlyRegs ks s ({ t with pcs := v0, regulator := v1 } : State) ↔ OnlyRegs ks s t := Iff.rfl

@[simp] theorem OnlyRegs.upd_mem_integrity (v0 : List Host.Cell) (v1 : Integrity) :
    OnlyRegs ks s ({ t with mem := v0, integrity := v1 } : State) ↔ OnlyRegs ks s t := Iff.rfl

@[simp] theorem OnlyRegs.upd_out_heldOut_pcie (v0 : List Output) (v1 : List Output) (v2 : Pcie) :
    OnlyRegs ks s ({ t with out := v0, heldOut := v1, pcie := v2 } : State) ↔ OnlyRegs ks s t := Iff.rfl

@[simp] theorem OnlyRegs.upd_time_pilot_pcie (v0 : TimeBase) (v1 : Pilot) (v2 : Pcie) :
    OnlyRegs ks s ({ t with time := v0, pilot := v1, pcie := v2 } : State) ↔ OnlyRegs ks s t := Iff.rfl

@[simp] theorem OnlyRegs.upd_pilot_resetting_quiesce (v0 : Pilot) (v1 : Bool) (v2 : Option (Nat × Nat)) :
    OnlyRegs ks s ({ t with pilot := v0, resetting := v1, quiesce := v2 } : State) ↔ OnlyRegs ks s t := Iff.rfl

@[simp] theorem OnlyRegs.upd_log_logWritten_sideband (v0 : List LogEntry) (v1 : Nat) (v2 : Sideband) :
    OnlyRegs ks s ({ t with log := v0, logWritten := v1, sideband := v2 } : State) ↔ OnlyRegs ks s t := Iff.rfl

@[simp] theorem OnlyRegs.upd_tables_commits_recovered (v0 : Map (Option Table)) (v1 : List Commit) (v2 : List Recovered) :
    OnlyRegs ks s ({ t with tables := v0, commits := v1, recovered := v2 } : State) ↔ OnlyRegs ks s t := Iff.rfl

@[simp] theorem OnlyRegs.upd_pilot_pcie_marver_regulator (v0 : Pilot) (v1 : Pcie) (v2 : Marver) (v3 : Regulator) :
    OnlyRegs ks s ({ t with pilot := v0, pcie := v1, marver := v2, regulator := v3 } : State) ↔ OnlyRegs ks s t := Iff.rfl

@[simp] theorem OnlyRegs.upd_wide7 (v0 : Pilot) (v1 : Trust) (v2 : List CommitRecord) (v3 : Marver) (v4 : List Host.Cell) (v5 : Bool) (v6 : Integrity) :
    OnlyRegs ks s ({ t with pilot := v0, trust := v1, commitLog := v2, marver := v3, mem := v4, placed := v5, integrity := v6 } : State) ↔ OnlyRegs ks s t := Iff.rfl

end Sys2Proof.Machine
end

