-- ==== Sys2Proof/Laws/RegsOps.lean ====
section
/-!
SUPPORT. Which register fields the operations of Ops.lean can change: one lemma for each.
-/
namespace Sys2Proof.Machine

theorem State.addF_regs (s : State) (k : Fld) (n : Nat) (mx : Nat) :
    OnlyRegs [k] s (State.addF s k n mx) := by
  simp [State.addF]

@[simp] theorem State.addF_regsStep (s : State) (k : Fld) (n : Nat) (mx : Nat) {ks : List Fld} {r₀ : State}
    (h : [k] ⊆ ks) :
    OnlyRegs ks r₀ (State.addF s k n mx) ↔ OnlyRegs ks r₀ s :=
  (State.addF_regs s k n mx).step h

theorem State.bump_regs (s : State) (k : Fld) (w : Nat) :
    OnlyRegs [k] s (State.bump s k w) := by
  simp [State.bump]

@[simp] theorem State.bump_regsStep (s : State) (k : Fld) (w : Nat) {ks : List Fld} {r₀ : State}
    (h : [k] ⊆ ks) :
    OnlyRegs ks r₀ (State.bump s k w) ↔ OnlyRegs ks r₀ s :=
  (State.bump_regs s k w).step h

theorem State.emit_regs (s : State) (o : Output) :
    OnlyRegs [] s (State.emit s o) := 
  .of_only (State.emit_only s o) (by decide)

@[simp] theorem State.emit_regsStep (s : State) (o : Output) {ks : List Fld} {r₀ : State}
    (h : [] ⊆ ks) :
    OnlyRegs ks r₀ (State.emit s o) ↔ OnlyRegs ks r₀ s :=
  (State.emit_regs s o).step h

theorem State.emitHost_regs (s : State) (o : Output) :
    OnlyRegs [] s (State.emitHost s o) := 
  .of_only (State.emitHost_only s o) (by decide)

@[simp] theorem State.emitHost_regsStep (s : State) (o : Output) {ks : List Fld} {r₀ : State}
    (h : [] ⊆ ks) :
    OnlyRegs ks r₀ (State.emitHost s o) ↔ OnlyRegs ks r₀ s :=
  (State.emitHost_regs s o).step h

theorem State.fresh_regs (s : State) :
    OnlyRegs [] s (State.fresh s).2 := 
  .of_only (State.fresh_only s) (by decide)

@[simp] theorem State.fresh_regsStep (s : State) {ks : List Fld} {r₀ : State}
    (h : [] ⊆ ks) :
    OnlyRegs ks r₀ (State.fresh s).2 ↔ OnlyRegs ks r₀ s :=
  (State.fresh_regs s).step h

theorem State.enterReady_regs (s : State) :
    OnlyRegs [devStatusStage, plPwrOn, plClkActive] s (State.enterReady s) := by
  simp [State.enterReady]

@[simp] theorem State.enterReady_regsStep (s : State) {ks : List Fld} {r₀ : State}
    (h : [devStatusStage, plPwrOn, plClkActive] ⊆ ks) :
    OnlyRegs ks r₀ (State.enterReady s) ↔ OnlyRegs ks r₀ s :=
  (State.enterReady_regs s).step h

theorem State.tryReady_regs (s : State) :
    OnlyRegs [devStatusStage, plPwrOn, plClkActive] s (State.tryReady s) := by
  simp [State.tryReady]

@[simp] theorem State.tryReady_regsStep (s : State) {ks : List Fld} {r₀ : State}
    (h : [devStatusStage, plPwrOn, plClkActive] ⊆ ks) :
    OnlyRegs ks r₀ (State.tryReady s) ↔ OnlyRegs ks r₀ s :=
  (State.tryReady_regs s).step h

theorem State.closeDomains_regs (s : State) (power : Nat) (clocks : Nat) :
    OnlyRegs [] s (State.closeDomains s power clocks) := 
  .of_only (State.closeDomains_only s power clocks) (by decide)

@[simp] theorem State.closeDomains_regsStep (s : State) (power : Nat) (clocks : Nat) {ks : List Fld} {r₀ : State}
    (h : [] ⊆ ks) :
    OnlyRegs ks r₀ (State.closeDomains s power clocks) ↔ OnlyRegs ks r₀ s :=
  (State.closeDomains_regs s power clocks).step h

theorem State.openDomains_regs (s : State) (power : Nat) (clocks : Nat) :
    OnlyRegs [] s (State.openDomains s power clocks) := 
  .of_only (State.openDomains_only s power clocks) (by decide)

@[simp] theorem State.openDomains_regsStep (s : State) (power : Nat) (clocks : Nat) {ks : List Fld} {r₀ : State}
    (h : [] ⊆ ks) :
    OnlyRegs ks r₀ (State.openDomains s power clocks) ↔ OnlyRegs ks r₀ s :=
  (State.openDomains_regs s power clocks).step h

theorem State.removeDomains_regs (s : State) (power : Nat) (clocks : Nat) :
    OnlyRegs [plPwrOn, plClkActive, teBenchPowered, teBenchRunning] s (State.removeDomains s power clocks) := by
  simp [State.removeDomains]

@[simp] theorem State.removeDomains_regsStep (s : State) (power : Nat) (clocks : Nat) {ks : List Fld} {r₀ : State}
    (h : [plPwrOn, plClkActive, teBenchPowered, teBenchRunning] ⊆ ks) :
    OnlyRegs ks r₀ (State.removeDomains s power clocks) ↔ OnlyRegs ks r₀ s :=
  (State.removeDomains_regs s power clocks).step h

theorem State.setGateDis_regs (s : State) (v : Nat) :
    OnlyRegs [plGateDis, plClkActive] s (State.setGateDis s v) := by
  simp [State.setGateDis]

@[simp] theorem State.setGateDis_regsStep (s : State) (v : Nat) {ks : List Fld} {r₀ : State}
    (h : [plGateDis, plClkActive] ⊆ ks) :
    OnlyRegs ks r₀ (State.setGateDis s v) ↔ OnlyRegs ks r₀ s :=
  (State.setGateDis_regs s v).step h

theorem State.vector_regs (s : State) (v : Nat) :
    OnlyRegs [] s (State.vector s v) := 
  .of_only (State.vector_only s v) (by decide)

@[simp] theorem State.vector_regsStep (s : State) (v : Nat) {ks : List Fld} {r₀ : State}
    (h : [] ⊆ ks) :
    OnlyRegs ks r₀ (State.vector s v) ↔ OnlyRegs ks r₀ s :=
  (State.vector_regs s v).step h

theorem State.flushVectors_regs (s : State) :
    OnlyRegs [] s (State.flushVectors s) := 
  .of_only (State.flushVectors_only s) (by decide)

@[simp] theorem State.flushVectors_regsStep (s : State) {ks : List Fld} {r₀ : State}
    (h : [] ⊆ ks) :
    OnlyRegs ks r₀ (State.flushVectors s) ↔ OnlyRegs ks r₀ s :=
  (State.flushVectors_regs s).step h

theorem State.writeEntry_regs (s : State) (e : LogEvent) :
    OnlyRegs [elFirst, elNext, elLost] s (State.writeEntry s e) := by
  unfold State.writeEntry
  (repeat' split) <;> simp

@[simp] theorem State.writeEntry_regsStep (s : State) (e : LogEvent) {ks : List Fld} {r₀ : State}
    (h : [elFirst, elNext, elLost] ⊆ ks) :
    OnlyRegs ks r₀ (State.writeEntry s e) ↔ OnlyRegs ks r₀ s :=
  (State.writeEntry_regs s e).step h

theorem State.report_regs (s : State) (e : LogEvent) :
    OnlyRegs [elFirst, elNext, elLost, elStatusAlertPend] s (State.report s e) := by
  unfold State.report
  (repeat' split) <;> simp

@[simp] theorem State.report_regsStep (s : State) (e : LogEvent) {ks : List Fld} {r₀ : State}
    (h : [elFirst, elNext, elLost, elStatusAlertPend] ⊆ ks) :
    OnlyRegs ks r₀ (State.report s e) ↔ OnlyRegs ks r₀ s :=
  (State.report_regs s e).step h

theorem State.pulseLine_regs (s : State) (l : Nat) (t : Tick) :
    OnlyRegs [] s (State.pulseLine s l t) := 
  .of_only (State.pulseLine_only s l t) (by decide)

@[simp] theorem State.pulseLine_regsStep (s : State) (l : Nat) (t : Tick) {ks : List Fld} {r₀ : State}
    (h : [] ⊆ ks) :
    OnlyRegs ks r₀ (State.pulseLine s l t) ↔ OnlyRegs ks r₀ s :=
  (State.pulseLine_regs s l t).step h

theorem State.pulseSource_regs (s : State) (code : Nat) :
    OnlyRegs [] s (State.pulseSource s code) := 
  .of_only (State.pulseSource_only s code) (by decide)

@[simp] theorem State.pulseSource_regsStep (s : State) (code : Nat) {ks : List Fld} {r₀ : State}
    (h : [] ⊆ ks) :
    OnlyRegs ks r₀ (State.pulseSource s code) ↔ OnlyRegs ks r₀ s :=
  (State.pulseSource_regs s code).step h

theorem State.setRing_regs (s : State) (r : Nat) (x : Ring) :
    OnlyRegs [] s (State.setRing s r x) := 
  .of_only (State.setRing_only s r x) (by decide)

@[simp] theorem State.setRing_regsStep (s : State) (r : Nat) (x : Ring) {ks : List Fld} {r₀ : State}
    (h : [] ⊆ ks) :
    OnlyRegs ks r₀ (State.setRing s r x) ↔ OnlyRegs ks r₀ s :=
  (State.setRing_regs s r x).step h

theorem State.syncRing_regs (s : State) (r : Nat) :
    OnlyRegs [hcRingStatusInFlight r, hcRingStatusIdle r, hcRingStatusWaiting r] s (State.syncRing s r) := by
  simp [State.syncRing]

@[simp] theorem State.syncRing_regsStep (s : State) (r : Nat) {ks : List Fld} {r₀ : State}
    (h : [hcRingStatusInFlight r, hcRingStatusIdle r, hcRingStatusWaiting r] ⊆ ks) :
    OnlyRegs ks r₀ (State.syncRing s r) ↔ OnlyRegs ks r₀ s :=
  (State.syncRing_regs s r).step h

theorem State.writeCompletion_regs (s : State) (r : Nat) (tag : Nat) (status : Nat) (result : Nat) :
    OnlyRegs [hcCqTailIndex r, hcCqTailPhase r] s (State.writeCompletion s r tag status result) := by
  simp [State.writeCompletion]

@[simp] theorem State.writeCompletion_regsStep (s : State) (r : Nat) (tag : Nat) (status : Nat) (result : Nat) {ks : List Fld} {r₀ : State}
    (h : [hcCqTailIndex r, hcCqTailPhase r] ⊆ ks) :
    OnlyRegs ks r₀ (State.writeCompletion s r tag status result) ↔ OnlyRegs ks r₀ s :=
  (State.writeCompletion_regs s r tag status result).step h

theorem State.complete_regs (s : State) (r : Nat) (tag : Nat) (status : Nat) (result : Nat) :
    OnlyRegs [hcCqTailIndex r, hcCqTailPhase r, hcRingStatusInFlight r, hcRingStatusIdle r, hcRingStatusWaiting r] s (State.complete s r tag status result) := by
  unfold State.complete
  try dsimp only
  (repeat' split) <;> (simp <;> (repeat' split) <;> simp)

@[simp] theorem State.complete_regsStep (s : State) (r : Nat) (tag : Nat) (status : Nat) (result : Nat) {ks : List Fld} {r₀ : State}
    (h : [hcCqTailIndex r, hcCqTailPhase r, hcRingStatusInFlight r, hcRingStatusIdle r, hcRingStatusWaiting r] ⊆ ks) :
    OnlyRegs ks r₀ (State.complete s r tag status result) ↔ OnlyRegs ks r₀ s :=
  (State.complete_regs s r tag status result).step h

end Sys2Proof.Machine
end

