-- ==== Sys2Proof/Laws/RegsCatalogue.lean ====
section
/-!
SUPPORT. Which register fields the operations of Catalogue.lean can change: one lemma for each.
-/
namespace Sys2Proof.Machine

theorem State.done_regs (s : State) (e : Sqe) (status : Nat) (result : Nat) :
    OnlyRegs [hcCqTailIndex e.ring, hcCqTailPhase e.ring, hcRingStatusInFlight e.ring, hcRingStatusIdle e.ring, hcRingStatusWaiting e.ring] s (State.done s e status result) := by
  simp [State.done]

@[simp] theorem State.done_regsStep (s : State) (e : Sqe) (status : Nat) (result : Nat) {ks : List Fld} {r₀ : State}
    (h : [hcCqTailIndex e.ring, hcCqTailPhase e.ring, hcRingStatusInFlight e.ring, hcRingStatusIdle e.ring, hcRingStatusWaiting e.ring] ⊆ ks) :
    OnlyRegs ks r₀ (State.done s e status result) ↔ OnlyRegs ks r₀ s :=
  (State.done_regs s e status result).step h

end Sys2Proof.Machine
end

