-- ==== Sys2Proof/Laws/RegsPorts.lean ====
section
/-!
SUPPORT. Which register fields the operations of Ports.lean can change: one lemma for each.
-/
namespace Sys2Proof.Machine

theorem State.setPort_regs (s : State) (p : Nat) (x : Port) :
    OnlyRegs [] s (State.setPort s p x) := 
  .of_only (State.setPort_only s p x) (by decide)

@[simp] theorem State.setPort_regsStep (s : State) (p : Nat) (x : Port) {ks : List Fld} {r₀ : State}
    (h : [] ⊆ ks) :
    OnlyRegs ks r₀ (State.setPort s p x) ↔ OnlyRegs ks r₀ s :=
  (State.setPort_regs s p x).step h

theorem State.setLane_regs (s : State) (p : Nat) (l : Nat) (x : Lane) :
    OnlyRegs [] s (State.setLane s p l x) := 
  .of_only (State.setLane_only s p l x) (by decide)

@[simp] theorem State.setLane_regsStep (s : State) (p : Nat) (l : Nat) (x : Lane) {ks : List Fld} {r₀ : State}
    (h : [] ⊆ ks) :
    OnlyRegs ks r₀ (State.setLane s p l x) ↔ OnlyRegs ks r₀ s :=
  (State.setLane_regs s p l x).step h

theorem State.useSet_regs (s : State) (p : Nat) (x : Nat × Nat) :
    OnlyRegs [rlLinkStatusLanes p, rlLinkStatusWidth p, rlLaneStatusExcluded p, rlLinkStatusClkLane p, rlLinkStatusClkLocal p] s (State.useSet s p x) := by
  simp [State.useSet]

@[simp] theorem State.useSet_regsStep (s : State) (p : Nat) (x : Nat × Nat) {ks : List Fld} {r₀ : State}
    (h : [rlLinkStatusLanes p, rlLinkStatusWidth p, rlLaneStatusExcluded p, rlLinkStatusClkLane p, rlLinkStatusClkLocal p] ⊆ ks) :
    OnlyRegs ks r₀ (State.useSet s p x) ↔ OnlyRegs ks r₀ s :=
  (State.useSet_regs s p x).step h

theorem State.linkChanged_regs (s : State) (p : Nat) :
    OnlyRegs [rlLinkStatusChanged p] s (State.linkChanged s p) := by
  simp [State.linkChanged]

@[simp] theorem State.linkChanged_regsStep (s : State) (p : Nat) {ks : List Fld} {r₀ : State}
    (h : [rlLinkStatusChanged p] ⊆ ks) :
    OnlyRegs ks r₀ (State.linkChanged s p) ↔ OnlyRegs ks r₀ s :=
  (State.linkChanged_regs s p).step h

theorem State.emitCodeword_regs (s : State) (p : Nat) (data : List Byte) :
    OnlyRegs [] s (State.emitCodeword s p data) := 
  .of_only (State.emitCodeword_only s p data) (by decide)

@[simp] theorem State.emitCodeword_regsStep (s : State) (p : Nat) (data : List Byte) {ks : List Fld} {r₀ : State}
    (h : [] ⊆ ks) :
    OnlyRegs ks r₀ (State.emitCodeword s p data) ↔ OnlyRegs ks r₀ s :=
  (State.emitCodeword_regs s p data).step h

theorem State.sendLine_regs (s : State) (p : Nat) (seq : Nat) (data : List Byte) :
    OnlyRegs [] s (State.sendLine s p seq data) := 
  .of_only (State.sendLine_only s p seq data) (by decide)

@[simp] theorem State.sendLine_regsStep (s : State) (p : Nat) (seq : Nat) (data : List Byte) {ks : List Fld} {r₀ : State}
    (h : [] ⊆ ks) :
    OnlyRegs ks r₀ (State.sendLine s p seq data) ↔ OnlyRegs ks r₀ s :=
  (State.sendLine_regs s p seq data).step h

theorem State.sendFraming_regs (s : State) (p : Nat) :
    OnlyRegs [] s (State.sendFraming s p) := 
  .of_only (State.sendFraming_only s p) (by decide)

@[simp] theorem State.sendFraming_regsStep (s : State) (p : Nat) {ks : List Fld} {r₀ : State}
    (h : [] ⊆ ks) :
    OnlyRegs ks r₀ (State.sendFraming s p) ↔ OnlyRegs ks r₀ s :=
  (State.sendFraming_regs s p).step h

theorem State.sendData_regs (s : State) (p : Nat) (data : List Byte) :
    OnlyRegs [rlSeqTxNext p] s (State.sendData s p data) := by
  simp [State.sendData]

@[simp] theorem State.sendData_regsStep (s : State) (p : Nat) (data : List Byte) {ks : List Fld} {r₀ : State}
    (h : [rlSeqTxNext p] ⊆ ks) :
    OnlyRegs ks r₀ (State.sendData s p data) ↔ OnlyRegs ks r₀ s :=
  (State.sendData_regs s p data).step h

theorem State.fillCodewords_regs (p : Nat) (a1 : Nat) (a2 : List Byte) (a3 : State) :
    OnlyRegs [rlSeqTxNext p] a3 (State.fillCodewords p a1 a2 a3) := by
  induction a1 generalizing a2 a3 with
  | zero => simp [State.fillCodewords]
  | succ n ih =>
    unfold State.fillCodewords
    split
    · simp
    · exact ((State.sendData_regs _ _ _).mono (by simp)).trans (ih _ _)

@[simp] theorem State.fillCodewords_regsStep (p : Nat) (a1 : Nat) (a2 : List Byte) (a3 : State) {ks : List Fld} {r₀ : State}
    (h : [rlSeqTxNext p] ⊆ ks) :
    OnlyRegs ks r₀ (State.fillCodewords p a1 a2 a3) ↔ OnlyRegs ks r₀ a3 :=
  (State.fillCodewords_regs p a1 a2 a3).step h

theorem State.leaveWarm_regs (s : State) (p : Nat) :
    OnlyRegs [rlLinkStatusPwr p, rlLinkStatusClkLocal p, plClkActive] s (State.leaveWarm s p) := by
  simp [State.leaveWarm]

@[simp] theorem State.leaveWarm_regsStep (s : State) (p : Nat) {ks : List Fld} {r₀ : State}
    (h : [rlLinkStatusPwr p, rlLinkStatusClkLocal p, plClkActive] ⊆ ks) :
    OnlyRegs ks r₀ (State.leaveWarm s p) ↔ OnlyRegs ks r₀ s :=
  (State.leaveWarm_regs s p).step h

theorem State.sendItem_regs (s : State) (p : Nat) (i : LinkItem) :
    OnlyRegs [rlLinkStatusPwr p, rlLinkStatusClkLocal p, plClkActive, rlSeqTxNext p] s (State.sendItem s p i) := by
  simp [State.sendItem]

@[simp] theorem State.sendItem_regsStep (s : State) (p : Nat) (i : LinkItem) {ks : List Fld} {r₀ : State}
    (h : [rlLinkStatusPwr p, rlLinkStatusClkLocal p, plClkActive, rlSeqTxNext p] ⊆ ks) :
    OnlyRegs ks r₀ (State.sendItem s p i) ↔ OnlyRegs ks r₀ s :=
  (State.sendItem_regs s p i).step h

theorem State.flushTx_regs (s : State) (p : Nat) :
    OnlyRegs [rlSeqTxNext p] s (State.flushTx s p) := by
  simp [State.flushTx]

@[simp] theorem State.flushTx_regsStep (s : State) (p : Nat) {ks : List Fld} {r₀ : State}
    (h : [rlSeqTxNext p] ⊆ ks) :
    OnlyRegs ks r₀ (State.flushTx s p) ↔ OnlyRegs ks r₀ s :=
  (State.flushTx_regs s p).step h

theorem State.sendUpdate_regs (s : State) (p : Nat) (nak : Bool) :
    OnlyRegs [rlLinkStatusPwr p, rlLinkStatusClkLocal p, plClkActive, rlSeqTxNext p, rlSeqRxAckSeq p] s (State.sendUpdate s p nak) := by
  simp [State.sendUpdate]

@[simp] theorem State.sendUpdate_regsStep (s : State) (p : Nat) (nak : Bool) {ks : List Fld} {r₀ : State}
    (h : [rlLinkStatusPwr p, rlLinkStatusClkLocal p, plClkActive, rlSeqTxNext p, rlSeqRxAckSeq p] ⊆ ks) :
    OnlyRegs ks r₀ (State.sendUpdate s p nak) ↔ OnlyRegs ks r₀ s :=
  (State.sendUpdate_regs s p nak).step h

theorem State.sendControl_regs (s : State) (p : Nat) (sub : Nat) (arg : Nat) :
    OnlyRegs [rlTxCreditVc3 p, rlLinkStatusPwr p, rlLinkStatusClkLocal p, plClkActive, rlSeqTxNext p] s (State.sendControl s p sub arg) := by
  simp [State.sendControl]

@[simp] theorem State.sendControl_regsStep (s : State) (p : Nat) (sub : Nat) (arg : Nat) {ks : List Fld} {r₀ : State}
    (h : [rlTxCreditVc3 p, rlLinkStatusPwr p, rlLinkStatusClkLocal p, plClkActive, rlSeqTxNext p] ⊆ ks) :
    OnlyRegs ks r₀ (State.sendControl s p sub arg) ↔ OnlyRegs ks r₀ s :=
  (State.sendControl_regs s p sub arg).step h

theorem State.sendNotice_regs (s : State) (p : Nat) (reason : Nat) :
    OnlyRegs [rlTxCreditVc3 p, rlLinkStatusPwr p, rlLinkStatusClkLocal p, plClkActive, rlSeqTxNext p] s (State.sendNotice s p reason) := by
  simp [State.sendNotice]

@[simp] theorem State.sendNotice_regsStep (s : State) (p : Nat) (reason : Nat) {ks : List Fld} {r₀ : State}
    (h : [rlTxCreditVc3 p, rlLinkStatusPwr p, rlLinkStatusClkLocal p, plClkActive, rlSeqTxNext p] ⊆ ks) :
    OnlyRegs ks r₀ (State.sendNotice s p reason) ↔ OnlyRegs ks r₀ s :=
  (State.sendNotice_regs s p reason).step h

theorem State.endNotice_regs (s : State) (p : Nat) :
    OnlyRegs [] s (State.endNotice s p) := 
  .of_only (State.endNotice_only s p) (by decide)

@[simp] theorem State.endNotice_regsStep (s : State) (p : Nat) {ks : List Fld} {r₀ : State}
    (h : [] ⊆ ks) :
    OnlyRegs ks r₀ (State.endNotice s p) ↔ OnlyRegs ks r₀ s :=
  (State.endNotice_regs s p).step h

theorem State.dropPartial_regs (s : State) (p : Nat) :
    OnlyRegs [] s (State.dropPartial s p) := 
  .of_only (State.dropPartial_only s p) (by decide)

@[simp] theorem State.dropPartial_regsStep (s : State) (p : Nat) {ks : List Fld} {r₀ : State}
    (h : [] ⊆ ks) :
    OnlyRegs ks r₀ (State.dropPartial s p) ↔ OnlyRegs ks r₀ s :=
  (State.dropPartial_regs s p).step h

theorem State.applyOne_regs (s : State) (p : Nat) (q : EqSetting) :
    OnlyRegs [rlEqCtrlTxPreset p, rlEqCtrlPresetForce p, rlEqCtrlDfeFreeze p, rlEqCtrlCtleFixed p, rlEqCtrlCtleValue p] s (State.applyOne s p q) := by
  simp [State.applyOne]

@[simp] theorem State.applyOne_regsStep (s : State) (p : Nat) (q : EqSetting) {ks : List Fld} {r₀ : State}
    (h : [rlEqCtrlTxPreset p, rlEqCtrlPresetForce p, rlEqCtrlDfeFreeze p, rlEqCtrlCtleFixed p, rlEqCtrlCtleValue p] ⊆ ks) :
    OnlyRegs ks r₀ (State.applyOne s p q) ↔ OnlyRegs ks r₀ s :=
  (State.applyOne_regs s p q).step h

theorem State.applyEq_regs (s : State) (p : Nat) :
    OnlyRegs [rlEqCtrlTxPreset p, rlEqCtrlPresetForce p, rlEqCtrlDfeFreeze p, rlEqCtrlCtleFixed p, rlEqCtrlCtleValue p] s (State.applyEq s p) := by
  simp [State.applyEq]

@[simp] theorem State.applyEq_regsStep (s : State) (p : Nat) {ks : List Fld} {r₀ : State}
    (h : [rlEqCtrlTxPreset p, rlEqCtrlPresetForce p, rlEqCtrlDfeFreeze p, rlEqCtrlCtleFixed p, rlEqCtrlCtleValue p] ⊆ ks) :
    OnlyRegs ks r₀ (State.applyEq s p) ↔ OnlyRegs ks r₀ s :=
  (State.applyEq_regs s p).step h

theorem State.retrainEq_regs (s : State) (p : Nat) :
    OnlyRegs [rlEqCtrlTxPreset p, rlEqCtrlPresetForce p, rlEqCtrlDfeFreeze p, rlEqCtrlCtleFixed p, rlEqCtrlCtleValue p] s (State.retrainEq s p) := by
  simp [State.retrainEq]

@[simp] theorem State.retrainEq_regsStep (s : State) (p : Nat) {ks : List Fld} {r₀ : State}
    (h : [rlEqCtrlTxPreset p, rlEqCtrlPresetForce p, rlEqCtrlDfeFreeze p, rlEqCtrlCtleFixed p, rlEqCtrlCtleValue p] ⊆ ks) :
    OnlyRegs ks r₀ (State.retrainEq s p) ↔ OnlyRegs ks r₀ s :=
  (State.retrainEq_regs s p).step h

theorem State.startDetect_regs (s : State) (p : Nat) :
    OnlyRegs [rlEqCtrlTxPreset p, rlEqCtrlPresetForce p, rlEqCtrlDfeFreeze p, rlEqCtrlCtleFixed p, rlEqCtrlCtleValue p, rlLinkStatusState p, rlLinkStatusPwr p, rlLinkStatusWidth p, rlLinkStatusLanes p, rlLinkStatusReversed p, rlLinkStatusClkLane p, rlLinkStatusClkLocal p, rlLaneStatusPolInv p] s (State.startDetect s p) := by
  unfold State.startDetect
  try dsimp only
  (repeat' split) <;> (simp <;> (repeat' split) <;> simp)

@[simp] theorem State.startDetect_regsStep (s : State) (p : Nat) {ks : List Fld} {r₀ : State}
    (h : [rlEqCtrlTxPreset p, rlEqCtrlPresetForce p, rlEqCtrlDfeFreeze p, rlEqCtrlCtleFixed p, rlEqCtrlCtleValue p, rlLinkStatusState p, rlLinkStatusPwr p, rlLinkStatusWidth p, rlLinkStatusLanes p, rlLinkStatusReversed p, rlLinkStatusClkLane p, rlLinkStatusClkLocal p, rlLaneStatusPolInv p] ⊆ ks) :
    OnlyRegs ks r₀ (State.startDetect s p) ↔ OnlyRegs ks r₀ s :=
  (State.startDetect_regs s p).step h

theorem State.startSeries_regs (s : State) (p : Nat) :
    OnlyRegs [rlLinkStatusAttempt p, rlEqCtrlTxPreset p, rlEqCtrlPresetForce p, rlEqCtrlDfeFreeze p, rlEqCtrlCtleFixed p, rlEqCtrlCtleValue p, rlLinkStatusState p, rlLinkStatusPwr p, rlLinkStatusWidth p, rlLinkStatusLanes p, rlLinkStatusReversed p, rlLinkStatusClkLane p, rlLinkStatusClkLocal p, rlLaneStatusPolInv p] s (State.startSeries s p) := by
  simp [State.startSeries]

@[simp] theorem State.startSeries_regsStep (s : State) (p : Nat) {ks : List Fld} {r₀ : State}
    (h : [rlLinkStatusAttempt p, rlEqCtrlTxPreset p, rlEqCtrlPresetForce p, rlEqCtrlDfeFreeze p, rlEqCtrlCtleFixed p, rlEqCtrlCtleValue p, rlLinkStatusState p, rlLinkStatusPwr p, rlLinkStatusWidth p, rlLinkStatusLanes p, rlLinkStatusReversed p, rlLinkStatusClkLane p, rlLinkStatusClkLocal p, rlLaneStatusPolInv p] ⊆ ks) :
    OnlyRegs ks r₀ (State.startSeries s p) ↔ OnlyRegs ks r₀ s :=
  (State.startSeries_regs s p).step h

theorem State.newSeries_regs (s : State) (p : Nat) (keep : Bool) :
    OnlyRegs [rlLinkStatusChanged p, rlRetrainCountCold p, rlLinkStatusAttempt p, rlEqCtrlTxPreset p, rlEqCtrlPresetForce p, rlEqCtrlDfeFreeze p, rlEqCtrlCtleFixed p, rlEqCtrlCtleValue p, rlLinkStatusState p, rlLinkStatusPwr p, rlLinkStatusWidth p, rlLinkStatusLanes p, rlLinkStatusReversed p, rlLinkStatusClkLane p, rlLinkStatusClkLocal p, rlLaneStatusPolInv p] s (State.newSeries s p keep) := by
  simp [State.newSeries]

@[simp] theorem State.newSeries_regsStep (s : State) (p : Nat) (keep : Bool) {ks : List Fld} {r₀ : State}
    (h : [rlLinkStatusChanged p, rlRetrainCountCold p, rlLinkStatusAttempt p, rlEqCtrlTxPreset p, rlEqCtrlPresetForce p, rlEqCtrlDfeFreeze p, rlEqCtrlCtleFixed p, rlEqCtrlCtleValue p, rlLinkStatusState p, rlLinkStatusPwr p, rlLinkStatusWidth p, rlLinkStatusLanes p, rlLinkStatusReversed p, rlLinkStatusClkLane p, rlLinkStatusClkLocal p, rlLaneStatusPolInv p] ⊆ ks) :
    OnlyRegs ks r₀ (State.newSeries s p keep) ↔ OnlyRegs ks r₀ s :=
  (State.newSeries_regs s p keep).step h

theorem State.readmit_regs (s : State) (p : Nat) :
    OnlyRegs [rlLaneStatusExcluded p] s (State.readmit s p) := by
  simp [State.readmit]

@[simp] theorem State.readmit_regsStep (s : State) (p : Nat) {ks : List Fld} {r₀ : State}
    (h : [rlLaneStatusExcluded p] ⊆ ks) :
    OnlyRegs ks r₀ (State.readmit s p) ↔ OnlyRegs ks r₀ s :=
  (State.readmit_regs s p).step h

theorem State.coldRetrain_regs (s : State) (p : Nat) (reason : Nat) :
    OnlyRegs [rlTxCreditVc3 p, rlLinkStatusPwr p, rlLinkStatusClkLocal p, plClkActive, rlSeqTxNext p, rlLaneStatusExcluded p, rlLinkStatusChanged p, rlRetrainCountCold p, rlLinkStatusAttempt p, rlEqCtrlTxPreset p, rlEqCtrlPresetForce p, rlEqCtrlDfeFreeze p, rlEqCtrlCtleFixed p, rlEqCtrlCtleValue p, rlLinkStatusState p, rlLinkStatusWidth p, rlLinkStatusLanes p, rlLinkStatusReversed p, rlLinkStatusClkLane p, rlLaneStatusPolInv p] s (State.coldRetrain s p reason) := by
  simp [State.coldRetrain]

@[simp] theorem State.coldRetrain_regsStep (s : State) (p : Nat) (reason : Nat) {ks : List Fld} {r₀ : State}
    (h : [rlTxCreditVc3 p, rlLinkStatusPwr p, rlLinkStatusClkLocal p, plClkActive, rlSeqTxNext p, rlLaneStatusExcluded p, rlLinkStatusChanged p, rlRetrainCountCold p, rlLinkStatusAttempt p, rlEqCtrlTxPreset p, rlEqCtrlPresetForce p, rlEqCtrlDfeFreeze p, rlEqCtrlCtleFixed p, rlEqCtrlCtleValue p, rlLinkStatusState p, rlLinkStatusWidth p, rlLinkStatusLanes p, rlLinkStatusReversed p, rlLinkStatusClkLane p, rlLaneStatusPolInv p] ⊆ ks) :
    OnlyRegs ks r₀ (State.coldRetrain s p reason) ↔ OnlyRegs ks r₀ s :=
  (State.coldRetrain_regs s p reason).step h

theorem State.shortRetrainOn_regs (s : State) (p : Nat) (lanes : Nat) :
    OnlyRegs [rlLinkStatusChanged p, rlRetrainCountCold p, rlLinkStatusAttempt p, rlEqCtrlTxPreset p, rlEqCtrlPresetForce p, rlEqCtrlDfeFreeze p, rlEqCtrlCtleFixed p, rlEqCtrlCtleValue p, rlLinkStatusState p, rlLinkStatusPwr p, rlLinkStatusWidth p, rlLinkStatusLanes p, rlLinkStatusReversed p, rlLinkStatusClkLane p, rlLinkStatusClkLocal p, rlLaneStatusPolInv p, rlRetrainCountShort p, rlLaneStatusExcluded p] s (State.shortRetrainOn s p lanes) := by
  unfold State.shortRetrainOn
  try dsimp only
  (repeat' split) <;> (simp <;> (repeat' split) <;> simp)

@[simp] theorem State.shortRetrainOn_regsStep (s : State) (p : Nat) (lanes : Nat) {ks : List Fld} {r₀ : State}
    (h : [rlLinkStatusChanged p, rlRetrainCountCold p, rlLinkStatusAttempt p, rlEqCtrlTxPreset p, rlEqCtrlPresetForce p, rlEqCtrlDfeFreeze p, rlEqCtrlCtleFixed p, rlEqCtrlCtleValue p, rlLinkStatusState p, rlLinkStatusPwr p, rlLinkStatusWidth p, rlLinkStatusLanes p, rlLinkStatusReversed p, rlLinkStatusClkLane p, rlLinkStatusClkLocal p, rlLaneStatusPolInv p, rlRetrainCountShort p, rlLaneStatusExcluded p] ⊆ ks) :
    OnlyRegs ks r₀ (State.shortRetrainOn s p lanes) ↔ OnlyRegs ks r₀ s :=
  (State.shortRetrainOn_regs s p lanes).step h

theorem State.shortRetrain_regs (s : State) (p : Nat) :
    OnlyRegs [rlLinkStatusChanged p, rlRetrainCountCold p, rlLinkStatusAttempt p, rlEqCtrlTxPreset p, rlEqCtrlPresetForce p, rlEqCtrlDfeFreeze p, rlEqCtrlCtleFixed p, rlEqCtrlCtleValue p, rlLinkStatusState p, rlLinkStatusPwr p, rlLinkStatusWidth p, rlLinkStatusLanes p, rlLinkStatusReversed p, rlLinkStatusClkLane p, rlLinkStatusClkLocal p, rlLaneStatusPolInv p, rlRetrainCountShort p, rlLaneStatusExcluded p] s (State.shortRetrain s p) := by
  simp [State.shortRetrain]

@[simp] theorem State.shortRetrain_regsStep (s : State) (p : Nat) {ks : List Fld} {r₀ : State}
    (h : [rlLinkStatusChanged p, rlRetrainCountCold p, rlLinkStatusAttempt p, rlEqCtrlTxPreset p, rlEqCtrlPresetForce p, rlEqCtrlDfeFreeze p, rlEqCtrlCtleFixed p, rlEqCtrlCtleValue p, rlLinkStatusState p, rlLinkStatusPwr p, rlLinkStatusWidth p, rlLinkStatusLanes p, rlLinkStatusReversed p, rlLinkStatusClkLane p, rlLinkStatusClkLocal p, rlLaneStatusPolInv p, rlRetrainCountShort p, rlLaneStatusExcluded p] ⊆ ks) :
    OnlyRegs ks r₀ (State.shortRetrain s p) ↔ OnlyRegs ks r₀ s :=
  (State.shortRetrain_regs s p).step h

theorem State.disablePort_regs (s : State) (p : Nat) (keep : Bool) :
    OnlyRegs [rlLinkStatusState p, rlLinkStatusPwr p, rlLinkStatusWidth p, rlLinkStatusLanes p, rlLinkStatusClkLocal p, rlLinkStatusAttempt p] s (State.disablePort s p keep) := by
  simp [State.disablePort]

@[simp] theorem State.disablePort_regsStep (s : State) (p : Nat) (keep : Bool) {ks : List Fld} {r₀ : State}
    (h : [rlLinkStatusState p, rlLinkStatusPwr p, rlLinkStatusWidth p, rlLinkStatusLanes p, rlLinkStatusClkLocal p, rlLinkStatusAttempt p] ⊆ ks) :
    OnlyRegs ks r₀ (State.disablePort s p keep) ↔ OnlyRegs ks r₀ s :=
  (State.disablePort_regs s p keep).step h

theorem State.stopPort_regs (s : State) (p : Nat) (reason : Nat) (keep : Bool) :
    OnlyRegs [rlLinkStatusState p, rlLinkStatusPwr p, rlLinkStatusWidth p, rlLinkStatusLanes p, rlLinkStatusClkLocal p, rlLinkStatusAttempt p, rlTxCreditVc3 p, plClkActive, rlSeqTxNext p] s (State.stopPort s p reason keep) := by
  simp [State.stopPort]

@[simp] theorem State.stopPort_regsStep (s : State) (p : Nat) (reason : Nat) (keep : Bool) {ks : List Fld} {r₀ : State}
    (h : [rlLinkStatusState p, rlLinkStatusPwr p, rlLinkStatusWidth p, rlLinkStatusLanes p, rlLinkStatusClkLocal p, rlLinkStatusAttempt p, rlTxCreditVc3 p, plClkActive, rlSeqTxNext p] ⊆ ks) :
    OnlyRegs ks r₀ (State.stopPort s p reason keep) ↔ OnlyRegs ks r₀ s :=
  (State.stopPort_regs s p reason keep).step h

theorem State.settlePorts_regs (s : State) :
    OnlyRegs [devStatusDpReady, devStatusStage, devBootTimeToDp] s (State.settlePorts s) := by
  simp [State.settlePorts]

@[simp] theorem State.settlePorts_regsStep (s : State) {ks : List Fld} {r₀ : State}
    (h : [devStatusDpReady, devStatusStage, devBootTimeToDp] ⊆ ks) :
    OnlyRegs ks r₀ (State.settlePorts s) ↔ OnlyRegs ks r₀ s :=
  (State.settlePorts_regs s).step h

theorem State.startFresh_regs (s : State) (p : Nat) :
    OnlyRegs [rlLostReplies p, rlLostPackets p, elFirst, elNext, elLost, elStatusAlertPend, rlSeqTxNext p, rlSeqRxAckSeq p, rlEgressBytes p, rlRxFreeAVc0 p, rlRxFreeAVc1 p, rlRxFreeBVc3 p, rlResumeNotResumed p] s (State.startFresh s p) := by
  simp [State.startFresh]

@[simp] theorem State.startFresh_regsStep (s : State) (p : Nat) {ks : List Fld} {r₀ : State}
    (h : [rlLostReplies p, rlLostPackets p, elFirst, elNext, elLost, elStatusAlertPend, rlSeqTxNext p, rlSeqRxAckSeq p, rlEgressBytes p, rlRxFreeAVc0 p, rlRxFreeAVc1 p, rlRxFreeBVc3 p, rlResumeNotResumed p] ⊆ ks) :
    OnlyRegs ks r₀ (State.startFresh s p) ↔ OnlyRegs ks r₀ s :=
  (State.startFresh_regs s p).step h

theorem State.resend_regs (s : State) (p : Nat) :
    OnlyRegs [] s (State.resend s p) := 
  .of_only (State.resend_only s p) (by decide)

@[simp] theorem State.resend_regsStep (s : State) (p : Nat) {ks : List Fld} {r₀ : State}
    (h : [] ⊆ ks) :
    OnlyRegs ks r₀ (State.resend s p) ↔ OnlyRegs ks r₀ s :=
  (State.resend_regs s p).step h

theorem State.startResumed_regs (s : State) (p : Nat) :
    OnlyRegs [rlResumeResumed p] s (State.startResumed s p) := by
  simp [State.startResumed]

@[simp] theorem State.startResumed_regsStep (s : State) (p : Nat) {ks : List Fld} {r₀ : State}
    (h : [rlResumeResumed p] ⊆ ks) :
    OnlyRegs ks r₀ (State.startResumed s p) ↔ OnlyRegs ks r₀ s :=
  (State.startResumed_regs s p).step h

theorem State.becomeActive_regs (s : State) (p : Nat) :
    OnlyRegs [rlResumeResumed p, rlLostReplies p, rlLostPackets p, elFirst, elNext, elLost, elStatusAlertPend, rlSeqTxNext p, rlSeqRxAckSeq p, rlEgressBytes p, rlRxFreeAVc0 p, rlRxFreeAVc1 p, rlRxFreeBVc3 p, rlResumeNotResumed p, rlLinkStatusState p, rlLinkStatusPwr p, rlLinkStatusChanged p, devStatusDpReady, devStatusStage, devBootTimeToDp] s (State.becomeActive s p) := by
  simp [State.becomeActive]

@[simp] theorem State.becomeActive_regsStep (s : State) (p : Nat) {ks : List Fld} {r₀ : State}
    (h : [rlResumeResumed p, rlLostReplies p, rlLostPackets p, elFirst, elNext, elLost, elStatusAlertPend, rlSeqTxNext p, rlSeqRxAckSeq p, rlEgressBytes p, rlRxFreeAVc0 p, rlRxFreeAVc1 p, rlRxFreeBVc3 p, rlResumeNotResumed p, rlLinkStatusState p, rlLinkStatusPwr p, rlLinkStatusChanged p, devStatusDpReady, devStatusStage, devBootTimeToDp] ⊆ ks) :
    OnlyRegs ks r₀ (State.becomeActive s p) ↔ OnlyRegs ks r₀ s :=
  (State.becomeActive_regs s p).step h

theorem State.failAttempt_regs (s : State) (p : Nat) (code : Nat) :
    OnlyRegs [rlTrainFailState p, rlTrainFailCode p, rlLinkStatusClkLocal p, rlLinkStatusWidth p, rlLinkStatusLanes p, rlLinkStatusAttempt p, rlTrainFailCount p, rlLinkStatusState p, rlLinkStatusChanged p, elFirst, elNext, elLost, elStatusAlertPend, devStatusDpReady, devStatusStage, devBootTimeToDp] s (State.failAttempt s p code) := by
  simp [State.failAttempt]

@[simp] theorem State.failAttempt_regsStep (s : State) (p : Nat) (code : Nat) {ks : List Fld} {r₀ : State}
    (h : [rlTrainFailState p, rlTrainFailCode p, rlLinkStatusClkLocal p, rlLinkStatusWidth p, rlLinkStatusLanes p, rlLinkStatusAttempt p, rlTrainFailCount p, rlLinkStatusState p, rlLinkStatusChanged p, elFirst, elNext, elLost, elStatusAlertPend, devStatusDpReady, devStatusStage, devBootTimeToDp] ⊆ ks) :
    OnlyRegs ks r₀ (State.failAttempt s p code) ↔ OnlyRegs ks r₀ s :=
  (State.failAttempt_regs s p code).step h

end Sys2Proof.Machine
end

