-- ==== Sys2Proof/Laws/RegsLanes.lean ====
section
/-!
SUPPORT. Which register fields the operations of Lanes.lean can change: one lemma for each.
-/
namespace Sys2Proof.Machine

theorem State.sendFrame_regs (s : State) (p : Nat) (l : Nat) :
    OnlyRegs [] s (State.sendFrame s p l) := 
  .of_only (State.sendFrame_only s p l) (by decide)

@[simp] theorem State.sendFrame_regsStep (s : State) (p : Nat) (l : Nat) {ks : List Fld} {r₀ : State}
    (h : [] ⊆ ks) :
    OnlyRegs ks r₀ (State.sendFrame s p l) ↔ OnlyRegs ks r₀ s :=
  (State.sendFrame_regs s p l).step h

theorem State.idlePort_regs (s : State) (p : Nat) :
    OnlyRegs [rlSeqTxNext p] s (State.idlePort s p) := by
  unfold State.idlePort
  dsimp only
  split
  · exact (State.sendLine_regs _ _ _ _).mono (by simp)
  · split
    · split
      · simp
      · split
        · simp
        · split
          · exact OnlyRegs.trans (by simp) ((State.sendData_regs _ _ _).mono (by simp))
          · exact (State.sendFraming_regs _ _).mono (by simp)
    · split
      · simp
      · split
        · exact OnlyRegs.foldlI _ _ (fun x a => by simp) (by simp)
        · simp

@[simp] theorem State.idlePort_regsStep (s : State) (p : Nat) {ks : List Fld} {r₀ : State}
    (h : [rlSeqTxNext p] ⊆ ks) :
    OnlyRegs ks r₀ (State.idlePort s p) ↔ OnlyRegs ks r₀ s :=
  (State.idlePort_regs s p).step h

theorem State.storeEq_regs (s : State) (p : Nat) (x : TrainInput) :
    OnlyRegs [] s (State.storeEq s p x) := 
  .of_only (State.storeEq_only s p x) (by decide)

@[simp] theorem State.storeEq_regsStep (s : State) (p : Nat) (x : TrainInput) {ks : List Fld} {r₀ : State}
    (h : [] ⊆ ks) :
    OnlyRegs ks r₀ (State.storeEq s p x) ↔ OnlyRegs ks r₀ s :=
  (State.storeEq_regs s p x).step h

theorem State.adaptDfe_regs (s : State) (p : Nat) :
    OnlyRegs [] s (State.adaptDfe s p) := 
  .of_only (State.adaptDfe_only s p) (by decide)

@[simp] theorem State.adaptDfe_regsStep (s : State) (p : Nat) {ks : List Fld} {r₀ : State}
    (h : [] ⊆ ks) :
    OnlyRegs ks r₀ (State.adaptDfe s p) ↔ OnlyRegs ks r₀ s :=
  (State.adaptDfe_regs s p).step h

theorem State.toState_regs (s : State) (p : Nat) (st : Nat) :
    OnlyRegs [rlLinkStatusState p] s (State.toState s p st) := by
  simp [State.toState]

@[simp] theorem State.toState_regsStep (s : State) (p : Nat) (st : Nat) {ks : List Fld} {r₀ : State}
    (h : [rlLinkStatusState p] ⊆ ks) :
    OnlyRegs ks r₀ (State.toState s p st) ↔ OnlyRegs ks r₀ s :=
  (State.toState_regs s p st).step h

theorem State.lockLanes_regs (s : State) (p : Nat) (lanes : Nat) :
    OnlyRegs [rlLinkStatusClkLane p, rlLinkStatusClkLocal p, rlLinkStatusState p] s (State.lockLanes s p lanes) := by
  simp [State.lockLanes]

@[simp] theorem State.lockLanes_regsStep (s : State) (p : Nat) (lanes : Nat) {ks : List Fld} {r₀ : State}
    (h : [rlLinkStatusClkLane p, rlLinkStatusClkLocal p, rlLinkStatusState p] ⊆ ks) :
    OnlyRegs ks r₀ (State.lockLanes s p lanes) ↔ OnlyRegs ks r₀ s :=
  (State.lockLanes_regs s p lanes).step h

theorem State.lockSaved_regs (s : State) (p : Nat) :
    OnlyRegs [rlLinkStatusClkLane p, rlLinkStatusClkLocal p, rlLinkStatusState p] s (State.lockSaved s p) := by
  simp [State.lockSaved]

@[simp] theorem State.lockSaved_regsStep (s : State) (p : Nat) {ks : List Fld} {r₀ : State}
    (h : [rlLinkStatusClkLane p, rlLinkStatusClkLocal p, rlLinkStatusState p] ⊆ ks) :
    OnlyRegs ks r₀ (State.lockSaved s p) ↔ OnlyRegs ks r₀ s :=
  (State.lockSaved_regs s p).step h

theorem State.fixPolarity_regs (s : State) (p : Nat) :
    OnlyRegs [rlLaneStatusPolInv p, rlLinkStatusState p] s (State.fixPolarity s p) := by
  simp [State.fixPolarity]

@[simp] theorem State.fixPolarity_regsStep (s : State) (p : Nat) {ks : List Fld} {r₀ : State}
    (h : [rlLaneStatusPolInv p, rlLinkStatusState p] ⊆ ks) :
    OnlyRegs ks r₀ (State.fixPolarity s p) ↔ OnlyRegs ks r₀ s :=
  (State.fixPolarity_regs s p).step h

theorem State.startFraming_regs (s : State) (p : Nat) :
    OnlyRegs [rlLinkStatusState p] s (State.startFraming s p) := by
  unfold State.startFraming
  dsimp only
  exact OnlyRegs.trans (by simp) ((State.sendLine_regs _ _ _ _).mono (by simp))

@[simp] theorem State.startFraming_regsStep (s : State) (p : Nat) {ks : List Fld} {r₀ : State}
    (h : [rlLinkStatusState p] ⊆ ks) :
    OnlyRegs ks r₀ (State.startFraming s p) ↔ OnlyRegs ks r₀ s :=
  (State.startFraming_regs s p).step h

theorem State.adapted_regs (s : State) (p : Nat) (x : TrainInput) (set : Nat × Nat) :
    OnlyRegs [rlLinkStatusLanes p, rlLinkStatusWidth p, rlLaneStatusExcluded p, rlLinkStatusClkLane p, rlLinkStatusClkLocal p, rlLinkStatusState p] s (State.adapted s p x set) := by
  simp [State.adapted]

@[simp] theorem State.adapted_regsStep (s : State) (p : Nat) (x : TrainInput) (set : Nat × Nat) {ks : List Fld} {r₀ : State}
    (h : [rlLinkStatusLanes p, rlLinkStatusWidth p, rlLaneStatusExcluded p, rlLinkStatusClkLane p, rlLinkStatusClkLocal p, rlLinkStatusState p] ⊆ ks) :
    OnlyRegs ks r₀ (State.adapted s p x set) ↔ OnlyRegs ks r₀ s :=
  (State.adapted_regs s p x set).step h

theorem State.framed_regs (s : State) (p : Nat) (x : TrainInput) :
    OnlyRegs [rlLatFixed p, rlSeqRxAckSeq p, rlLinkStatusState p] s (State.framed s p x) := by
  unfold State.framed
  dsimp only
  exact OnlyRegs.trans (by simp) ((State.sendLine_regs _ _ _ _).mono (by simp))

@[simp] theorem State.framed_regsStep (s : State) (p : Nat) (x : TrainInput) {ks : List Fld} {r₀ : State}
    (h : [rlLatFixed p, rlSeqRxAckSeq p, rlLinkStatusState p] ⊆ ks) :
    OnlyRegs ks r₀ (State.framed s p x) ↔ OnlyRegs ks r₀ s :=
  (State.framed_regs s p x).step h

theorem State.timerFail_regs (s : State) (p : Nat) (code : Nat) :
    OnlyRegs [rlLinkStatusAttempt p, rlLinkStatusChanged p, rlTrainFailState p, rlTrainFailCode p, rlLinkStatusClkLocal p, rlLinkStatusWidth p, rlLinkStatusLanes p, rlTrainFailCount p, rlLinkStatusState p, elFirst, elNext, elLost, elStatusAlertPend, devStatusDpReady, devStatusStage, devBootTimeToDp] s (State.timerFail s p code) := by
  simp [State.timerFail]

@[simp] theorem State.timerFail_regsStep (s : State) (p : Nat) (code : Nat) {ks : List Fld} {r₀ : State}
    (h : [rlLinkStatusAttempt p, rlLinkStatusChanged p, rlTrainFailState p, rlTrainFailCode p, rlLinkStatusClkLocal p, rlLinkStatusWidth p, rlLinkStatusLanes p, rlTrainFailCount p, rlLinkStatusState p, elFirst, elNext, elLost, elStatusAlertPend, devStatusDpReady, devStatusStage, devBootTimeToDp] ⊆ ks) :
    OnlyRegs ks r₀ (State.timerFail s p code) ↔ OnlyRegs ks r₀ s :=
  (State.timerFail_regs s p code).step h

theorem State.fastFails_regs (s : State) (p : Nat) :
    OnlyRegs [rlLinkStatusChanged p, rlLaneStatusExcluded p, rlRetrainCountCold p, rlLinkStatusAttempt p, rlEqCtrlTxPreset p, rlEqCtrlPresetForce p, rlEqCtrlDfeFreeze p, rlEqCtrlCtleFixed p, rlEqCtrlCtleValue p, rlLinkStatusState p, rlLinkStatusPwr p, rlLinkStatusWidth p, rlLinkStatusLanes p, rlLinkStatusReversed p, rlLinkStatusClkLane p, rlLinkStatusClkLocal p, rlLaneStatusPolInv p] s (State.fastFails s p) := by
  simp [State.fastFails]

@[simp] theorem State.fastFails_regsStep (s : State) (p : Nat) {ks : List Fld} {r₀ : State}
    (h : [rlLinkStatusChanged p, rlLaneStatusExcluded p, rlRetrainCountCold p, rlLinkStatusAttempt p, rlEqCtrlTxPreset p, rlEqCtrlPresetForce p, rlEqCtrlDfeFreeze p, rlEqCtrlCtleFixed p, rlEqCtrlCtleValue p, rlLinkStatusState p, rlLinkStatusPwr p, rlLinkStatusWidth p, rlLinkStatusLanes p, rlLinkStatusReversed p, rlLinkStatusClkLane p, rlLinkStatusClkLocal p, rlLaneStatusPolInv p] ⊆ ks) :
    OnlyRegs ks r₀ (State.fastFails s p) ↔ OnlyRegs ks r₀ s :=
  (State.fastFails_regs s p).step h

theorem State.enterPower_regs (s : State) (p : Nat) :
    OnlyRegs [rlLinkStatusPwr p, rlLinkStatusClkLocal p, plClkActive] s (State.enterPower s p) := by
  unfold State.enterPower
  try dsimp only
  (repeat' split) <;> (simp <;> (repeat' split) <;> simp)

@[simp] theorem State.enterPower_regsStep (s : State) (p : Nat) {ks : List Fld} {r₀ : State}
    (h : [rlLinkStatusPwr p, rlLinkStatusClkLocal p, plClkActive] ⊆ ks) :
    OnlyRegs ks r₀ (State.enterPower s p) ↔ OnlyRegs ks r₀ s :=
  (State.enterPower_regs s p).step h

theorem State.returnFlit_regs (s : State) (p : Nat) :
    OnlyRegs [] s (State.returnFlit s p) := 
  .of_only (State.returnFlit_only s p) (by decide)

@[simp] theorem State.returnFlit_regsStep (s : State) (p : Nat) {ks : List Fld} {r₀ : State}
    (h : [] ⊆ ks) :
    OnlyRegs ks r₀ (State.returnFlit s p) ↔ OnlyRegs ks r₀ s :=
  (State.returnFlit_regs s p).step h

theorem State.askPower_regs (s : State) (p : Nat) (arg : Nat) :
    OnlyRegs [rlTxCreditVc3 p, rlLinkStatusPwr p, rlLinkStatusClkLocal p, plClkActive, rlSeqTxNext p] s (State.askPower s p arg) := by
  simp [State.askPower]

@[simp] theorem State.askPower_regsStep (s : State) (p : Nat) (arg : Nat) {ks : List Fld} {r₀ : State}
    (h : [rlTxCreditVc3 p, rlLinkStatusPwr p, rlLinkStatusClkLocal p, plClkActive, rlSeqTxNext p] ⊆ ks) :
    OnlyRegs ks r₀ (State.askPower s p arg) ↔ OnlyRegs ks r₀ s :=
  (State.askPower_regs s p arg).step h

theorem State.commandPort_regs (s : State) (p : Nat) (disable : Bool) :
    OnlyRegs [rlLinkStatusState p, rlLinkStatusPwr p, rlLinkStatusWidth p, rlLinkStatusLanes p, rlLinkStatusClkLocal p, rlLinkStatusAttempt p, rlTxCreditVc3 p, plClkActive, rlSeqTxNext p, devStatusDpReady, devStatusStage, devBootTimeToDp, rlEqCtrlTxPreset p, rlEqCtrlPresetForce p, rlEqCtrlDfeFreeze p, rlEqCtrlCtleFixed p, rlEqCtrlCtleValue p, rlLinkStatusReversed p, rlLinkStatusClkLane p, rlLaneStatusPolInv p] s (State.commandPort s p disable) := by
  simp [State.commandPort]

@[simp] theorem State.commandPort_regsStep (s : State) (p : Nat) (disable : Bool) {ks : List Fld} {r₀ : State}
    (h : [rlLinkStatusState p, rlLinkStatusPwr p, rlLinkStatusWidth p, rlLinkStatusLanes p, rlLinkStatusClkLocal p, rlLinkStatusAttempt p, rlTxCreditVc3 p, plClkActive, rlSeqTxNext p, devStatusDpReady, devStatusStage, devBootTimeToDp, rlEqCtrlTxPreset p, rlEqCtrlPresetForce p, rlEqCtrlDfeFreeze p, rlEqCtrlCtleFixed p, rlEqCtrlCtleValue p, rlLinkStatusReversed p, rlLinkStatusClkLane p, rlLaneStatusPolInv p] ⊆ ks) :
    OnlyRegs ks r₀ (State.commandPort s p disable) ↔ OnlyRegs ks r₀ s :=
  (State.commandPort_regs s p disable).step h

end Sys2Proof.Machine
end

