-- ==== Sys2Proof/Laws/RegsLink.lean ====
section
/-!
SUPPORT. Which register fields the operations of Link.lean can change: one lemma for each.
-/
namespace Sys2Proof.Machine

theorem State.reach_regs (s : State) (t : Tick) :
    OnlyRegs [] s (State.reach s t) := 
  .of_only (State.reach_only s t) (by decide)

@[simp] theorem State.reach_regsStep (s : State) (t : Tick) {ks : List Fld} {r₀ : State}
    (h : [] ⊆ ks) :
    OnlyRegs ks r₀ (State.reach s t) ↔ OnlyRegs ks r₀ s :=
  (State.reach_regs s t).step h

theorem State.pushReq_regs (s : State) (r : Req) :
    OnlyRegs [rxFree r.port (reqChannel r)] s (State.pushReq s r) := by
  simp [State.pushReq]

@[simp] theorem State.pushReq_regsStep (s : State) (r : Req) {ks : List Fld} {r₀ : State}
    (h : [rxFree r.port (reqChannel r)] ⊆ ks) :
    OnlyRegs ks r₀ (State.pushReq s r) ↔ OnlyRegs ks r₀ s :=
  (State.pushReq_regs s r).step h

theorem State.advanceAck_regs (s : State) (p : Nat) (seq : Nat) :
    OnlyRegs [] s (State.advanceAck s p seq) := 
  .of_only (State.advanceAck_only s p seq) (by decide)

@[simp] theorem State.advanceAck_regsStep (s : State) (p : Nat) (seq : Nat) {ks : List Fld} {r₀ : State}
    (h : [] ⊆ ks) :
    OnlyRegs ks r₀ (State.advanceAck s p seq) ↔ OnlyRegs ks r₀ s :=
  (State.advanceAck_regs s p seq).step h

theorem State.sendNak_regs (s : State) (p : Nat) :
    OnlyRegs [rlReplayNaks p, rlLinkStatusPwr p, rlLinkStatusClkLocal p, plClkActive, rlSeqTxNext p, rlSeqRxAckSeq p] s (State.sendNak s p) := by
  simp [State.sendNak]

@[simp] theorem State.sendNak_regsStep (s : State) (p : Nat) {ks : List Fld} {r₀ : State}
    (h : [rlReplayNaks p, rlLinkStatusPwr p, rlLinkStatusClkLocal p, plClkActive, rlSeqTxNext p, rlSeqRxAckSeq p] ⊆ ks) :
    OnlyRegs ks r₀ (State.sendNak s p) ↔ OnlyRegs ks r₀ s :=
  (State.sendNak_regs s p).step h

theorem State.countSer_regs (s : State) (p : Nat) (places : List (Nat × Nat)) :
    OnlyRegs [] s (State.countSer s p places) := 
  .of_only (State.countSer_only s p places) (by decide)

@[simp] theorem State.countSer_regsStep (s : State) (p : Nat) (places : List (Nat × Nat)) {ks : List Fld} {r₀ : State}
    (h : [] ⊆ ks) :
    OnlyRegs ks r₀ (State.countSer s p places) ↔ OnlyRegs ks r₀ s :=
  (State.countSer_regs s p places).step h

theorem State.countFec_regs (s : State) (p : Nat) (a2 : Option (List (Nat × Nat))) :
    OnlyRegs [rlFecStatUncorrCw p, rlFecStatCorrCw p, rlFecSymCorrSym p] s (State.countFec s p a2) := by
  unfold State.countFec
  (repeat' split) <;> simp

@[simp] theorem State.countFec_regsStep (s : State) (p : Nat) (a2 : Option (List (Nat × Nat))) {ks : List Fld} {r₀ : State}
    (h : [rlFecStatUncorrCw p, rlFecStatCorrCw p, rlFecSymCorrSym p] ⊆ ks) :
    OnlyRegs ks r₀ (State.countFec s p a2) ↔ OnlyRegs ks r₀ s :=
  (State.countFec_regs s p a2).step h

theorem State.receiveResync_regs (s : State) (p : Nat) (seq : Nat) :
    OnlyRegs [rlProtoErrResync p, rlReplayNaks p, rlLinkStatusPwr p, rlLinkStatusClkLocal p, plClkActive, rlSeqTxNext p, rlSeqRxAckSeq p] s (State.receiveResync s p seq) := by
  simp [State.receiveResync]

@[simp] theorem State.receiveResync_regsStep (s : State) (p : Nat) (seq : Nat) {ks : List Fld} {r₀ : State}
    (h : [rlProtoErrResync p, rlReplayNaks p, rlLinkStatusPwr p, rlLinkStatusClkLocal p, plClkActive, rlSeqTxNext p, rlSeqRxAckSeq p] ⊆ ks) :
    OnlyRegs ks r₀ (State.receiveResync s p seq) ↔ OnlyRegs ks r₀ s :=
  (State.receiveResync_regs s p seq).step h

theorem State.replay_regs (s : State) (p : Nat) :
    OnlyRegs [rlReplayReplays p, rlSeqTxNext p] s (State.replay s p) := by
  simp [State.replay]

@[simp] theorem State.replay_regsStep (s : State) (p : Nat) {ks : List Fld} {r₀ : State}
    (h : [rlReplayReplays p, rlSeqTxNext p] ⊆ ks) :
    OnlyRegs ks r₀ (State.replay s p) ↔ OnlyRegs ks r₀ s :=
  (State.replay_regs s p).step h

theorem State.takeAck_regs (s : State) (p : Nat) (ack : Nat) :
    OnlyRegs [rlReplayNaks p, rlLinkStatusPwr p, rlLinkStatusClkLocal p, plClkActive, rlSeqTxNext p, rlSeqRxAckSeq p] s (State.takeAck s p ack) := by
  simp [State.takeAck]

@[simp] theorem State.takeAck_regsStep (s : State) (p : Nat) (ack : Nat) {ks : List Fld} {r₀ : State}
    (h : [rlReplayNaks p, rlLinkStatusPwr p, rlLinkStatusClkLocal p, plClkActive, rlSeqTxNext p, rlSeqRxAckSeq p] ⊆ ks) :
    OnlyRegs ks r₀ (State.takeAck s p ack) ↔ OnlyRegs ks r₀ s :=
  (State.takeAck_regs s p ack).step h

theorem State.takeCredits_regs (s : State) (p : Nat) (c2 : Nat) (c3 : Nat) :
    OnlyRegs [rlTxCreditVc2 p, rlTxCreditVc3 p] s (State.takeCredits s p c2 c3) := by
  simp [State.takeCredits]

@[simp] theorem State.takeCredits_regsStep (s : State) (p : Nat) (c2 : Nat) (c3 : Nat) {ks : List Fld} {r₀ : State}
    (h : [rlTxCreditVc2 p, rlTxCreditVc3 p] ⊆ ks) :
    OnlyRegs ks r₀ (State.takeCredits s p c2 c3) ↔ OnlyRegs ks r₀ s :=
  (State.takeCredits_regs s p c2 c3).step h

theorem State.answer_regs (s : State) (r : Req) (status : Nat) (arg : Nat) (payload : List Byte) (packets : optParam Nat 0) (measured : optParam (Option Nat) none) :
    OnlyRegs [rlEgressBytes r.port] s (State.answer s r status arg payload packets measured) := by
  simp [State.answer]

@[simp] theorem State.answer_regsStep (s : State) (r : Req) (status : Nat) (arg : Nat) (payload : List Byte) (packets : optParam Nat 0) (measured : optParam (Option Nat) none) {ks : List Fld} {r₀ : State}
    (h : [rlEgressBytes r.port] ⊆ ks) :
    OnlyRegs ks r₀ (State.answer s r status arg payload packets measured) ↔ OnlyRegs ks r₀ s :=
  (State.answer_regs s r status arg payload packets measured).step h

theorem State.measureLatency_regs (s : State) (r : Reply) :
    OnlyRegs [] s (State.measureLatency s r) := 
  .of_only (State.measureLatency_only s r) (by decide)

@[simp] theorem State.measureLatency_regsStep (s : State) (r : Reply) {ks : List Fld} {r₀ : State}
    (h : [] ⊆ ks) :
    OnlyRegs ks r₀ (State.measureLatency s r) ↔ OnlyRegs ks r₀ s :=
  (State.measureLatency_regs s r).step h

theorem State.returnCredits_regs (s : State) (r : Req) :
    OnlyRegs [] s (State.returnCredits s r) := 
  .of_only (State.returnCredits_only s r) (by decide)

@[simp] theorem State.returnCredits_regsStep (s : State) (r : Req) {ks : List Fld} {r₀ : State}
    (h : [] ⊆ ks) :
    OnlyRegs ks r₀ (State.returnCredits s r) ↔ OnlyRegs ks r₀ s :=
  (State.returnCredits_regs s r).step h

theorem State.takeReq_regs (s : State) (r : Req) :
    OnlyRegs [rxFree r.port (reqChannel r)] s (State.takeReq s r) := by
  simp [State.takeReq]

@[simp] theorem State.takeReq_regsStep (s : State) (r : Req) {ks : List Fld} {r₀ : State}
    (h : [rxFree r.port (reqChannel r)] ⊆ ks) :
    OnlyRegs ks r₀ (State.takeReq s r) ↔ OnlyRegs ks r₀ s :=
  (State.takeReq_regs s r).step h

theorem State.keepRoom_regs (s : State) (r : Req) (longest : Nat) :
    OnlyRegs [] s (State.keepRoom s r longest) := 
  .of_only (State.keepRoom_only s r longest) (by decide)

@[simp] theorem State.keepRoom_regsStep (s : State) (r : Req) (longest : Nat) {ks : List Fld} {r₀ : State}
    (h : [] ⊆ ks) :
    OnlyRegs ks r₀ (State.keepRoom s r longest) ↔ OnlyRegs ks r₀ s :=
  (State.keepRoom_regs s r longest).step h

theorem State.dropRoom_regs (s : State) (r : Req) :
    OnlyRegs [] s (State.dropRoom s r) := 
  .of_only (State.dropRoom_only s r) (by decide)

@[simp] theorem State.dropRoom_regsStep (s : State) (r : Req) {ks : List Fld} {r₀ : State}
    (h : [] ⊆ ks) :
    OnlyRegs ks r₀ (State.dropRoom s r) ↔ OnlyRegs ks r₀ s :=
  (State.dropRoom_regs s r).step h

theorem State.refuseLength_regs (s : State) (r : Req) :
    OnlyRegs [rlProtoErrLength r.port, rlEgressBytes r.port] s (State.refuseLength s r) := by
  simp [State.refuseLength]

@[simp] theorem State.refuseLength_regsStep (s : State) (r : Req) {ks : List Fld} {r₀ : State}
    (h : [rlProtoErrLength r.port, rlEgressBytes r.port] ⊆ ks) :
    OnlyRegs ks r₀ (State.refuseLength s r) ↔ OnlyRegs ks r₀ s :=
  (State.refuseLength_regs s r).step h

theorem State.refuseEarly_regs (s : State) (r : Req) (st : Nat) :
    OnlyRegs [rlProtoErrCredit r.port, qmRefuseState, teRefused, rlEgressBytes r.port] s (State.refuseEarly s r st) := by
  simp [State.refuseEarly]

@[simp] theorem State.refuseEarly_regsStep (s : State) (r : Req) (st : Nat) {ks : List Fld} {r₀ : State}
    (h : [rlProtoErrCredit r.port, qmRefuseState, teRefused, rlEgressBytes r.port] ⊆ ks) :
    OnlyRegs ks r₀ (State.refuseEarly s r st) ↔ OnlyRegs ks r₀ s :=
  (State.refuseEarly_regs s r st).step h

theorem State.failFirst_regs (s : State) (p : Nat) (long : Bool) :
    OnlyRegs [rlProtoErrLength p, rlCrcFirst p, rlReplayNaks p, rlLinkStatusPwr p, rlLinkStatusClkLocal p, plClkActive, rlSeqTxNext p, rlSeqRxAckSeq p] s (State.failFirst s p long) := by
  simp [State.failFirst]

@[simp] theorem State.failFirst_regsStep (s : State) (p : Nat) (long : Bool) {ks : List Fld} {r₀ : State}
    (h : [rlProtoErrLength p, rlCrcFirst p, rlReplayNaks p, rlLinkStatusPwr p, rlLinkStatusClkLocal p, plClkActive, rlSeqTxNext p, rlSeqRxAckSeq p] ⊆ ks) :
    OnlyRegs ks r₀ (State.failFirst s p long) ↔ OnlyRegs ks r₀ s :=
  (State.failFirst_regs s p long).step h

theorem State.failFatal_regs (s : State) (p : Nat) (long : Bool) :
    OnlyRegs [rlProtoErrLength p, rlProtoErrFatal p, elFirst, elNext, elLost, elStatusAlertPend, rlTxCreditVc3 p, rlLinkStatusPwr p, rlLinkStatusClkLocal p, plClkActive, rlSeqTxNext p, rlLinkStatusChanged p, rlRetrainCountCold p, rlLinkStatusAttempt p, rlEqCtrlTxPreset p, rlEqCtrlPresetForce p, rlEqCtrlDfeFreeze p, rlEqCtrlCtleFixed p, rlEqCtrlCtleValue p, rlLinkStatusState p, rlLinkStatusWidth p, rlLinkStatusLanes p, rlLinkStatusReversed p, rlLinkStatusClkLane p, rlLaneStatusPolInv p] s (State.failFatal s p long) := by
  simp [State.failFatal]

@[simp] theorem State.failFatal_regsStep (s : State) (p : Nat) (long : Bool) {ks : List Fld} {r₀ : State}
    (h : [rlProtoErrLength p, rlProtoErrFatal p, elFirst, elNext, elLost, elStatusAlertPend, rlTxCreditVc3 p, rlLinkStatusPwr p, rlLinkStatusClkLocal p, plClkActive, rlSeqTxNext p, rlLinkStatusChanged p, rlRetrainCountCold p, rlLinkStatusAttempt p, rlEqCtrlTxPreset p, rlEqCtrlPresetForce p, rlEqCtrlDfeFreeze p, rlEqCtrlCtleFixed p, rlEqCtrlCtleValue p, rlLinkStatusState p, rlLinkStatusWidth p, rlLinkStatusLanes p, rlLinkStatusReversed p, rlLinkStatusClkLane p, rlLaneStatusPolInv p] ⊆ ks) :
    OnlyRegs ks r₀ (State.failFatal s p long) ↔ OnlyRegs ks r₀ s :=
  (State.failFatal_regs s p long).step h

end Sys2Proof.Machine
end

