-- ==== Sys2Proof/Laws/RegsPool.lean ====
section
/-!
SUPPORT. Which register fields the operations of Pool.lean can change: one lemma for each.
-/
namespace Sys2Proof.Machine

theorem State.syncPools_regs (s : State) :
    OnlyRegs [mvEligible, mvStatusEligible, mvThermExcl, mvStatusFloorHit, mvStatusOut, mvPoolRows, mvRetiredBanks, mvSplitTUnits, qmPoolLimit] s (State.syncPools s) := by
  simp [State.syncPools]

@[simp] theorem State.syncPools_regsStep (s : State) {ks : List Fld} {r₀ : State}
    (h : [mvEligible, mvStatusEligible, mvThermExcl, mvStatusFloorHit, mvStatusOut, mvPoolRows, mvRetiredBanks, mvSplitTUnits, qmPoolLimit] ⊆ ks) :
    OnlyRegs ks r₀ (State.syncPools s) ↔ OnlyRegs ks r₀ s :=
  (State.syncPools_regs s).step h

theorem State.takeRow_regs (s : State) (pc : Nat) (u₀ : RowAt × State) (h : State.takeRow s pc = some u₀) :
    OnlyRegs [] s u₀.2 := 
  .of_only (State.takeRow_only s pc u₀ h) (by decide)

theorem State.giveRow_regs (s : State) (r : RowAt) :
    OnlyRegs [] s (State.giveRow s r) := 
  .of_only (State.giveRow_only s r) (by decide)

@[simp] theorem State.giveRow_regsStep (s : State) (r : RowAt) {ks : List Fld} {r₀ : State}
    (h : [] ⊆ ks) :
    OnlyRegs ks r₀ (State.giveRow s r) ↔ OnlyRegs ks r₀ s :=
  (State.giveRow_regs s r).step h

theorem State.takeTableRow_regs (s : State) (avoid : Option Nat) (u₀ : RowAt × State) (h : State.takeTableRow s avoid = some u₀) :
    OnlyRegs [] s u₀.2 := 
  .of_only (State.takeTableRow_only s avoid u₀ h) (by decide)

theorem State.setQueue_regs (s : State) (q : Nat) (x : Queue) :
    OnlyRegs [] s (State.setQueue s q x) := 
  .of_only (State.setQueue_only s q x) (by decide)

@[simp] theorem State.setQueue_regsStep (s : State) (q : Nat) (x : Queue) {ks : List Fld} {r₀ : State}
    (h : [] ⊆ ks) :
    OnlyRegs ks r₀ (State.setQueue s q x) ↔ OnlyRegs ks r₀ s :=
  (State.setQueue_regs s q x).step h

theorem State.openBlock_regs (s : State) (q : Nat) (bseq : Nat) :
    OnlyRegs [mvSpreadDetours, mvSpreadMin] s (State.openBlock s q bseq) := by
  unfold State.openBlock
  dsimp only
  split
  · simp
  · next y h =>
    refine OnlyRegs.trans ((State.takeRow_regs _ _ _ h).mono (by simp)) ?_
    (repeat' split) <;> simp

@[simp] theorem State.openBlock_regsStep (s : State) (q : Nat) (bseq : Nat) {ks : List Fld} {r₀ : State}
    (h : [mvSpreadDetours, mvSpreadMin] ⊆ ks) :
    OnlyRegs ks r₀ (State.openBlock s q bseq) ↔ OnlyRegs ks r₀ s :=
  (State.openBlock_regs s q bseq).step h

theorem State.openBlocks_regs (s : State) (q : Nat) (a2 : Nat) (a3 : Nat) :
    OnlyRegs [mvSpreadDetours, mvSpreadMin] s (State.openBlocks s q a2 a3) := by
  induction a3 generalizing s a2 with
  | zero => simp [State.openBlocks]
  | succ n ih => exact (State.openBlock_regs s q a2).trans (ih _ _)

@[simp] theorem State.openBlocks_regsStep (s : State) (q : Nat) (a2 : Nat) (a3 : Nat) {ks : List Fld} {r₀ : State}
    (h : [mvSpreadDetours, mvSpreadMin] ⊆ ks) :
    OnlyRegs ks r₀ (State.openBlocks s q a2 a3) ↔ OnlyRegs ks r₀ s :=
  (State.openBlocks_regs s q a2 a3).step h

theorem State.releasePlaces_regs (s : State) (gone : List Place) :
    OnlyRegs [mvDrainBlocks] s (State.releasePlaces s gone) := by
  simp [State.releasePlaces]

@[simp] theorem State.releasePlaces_regsStep (s : State) (gone : List Place) {ks : List Fld} {r₀ : State}
    (h : [mvDrainBlocks] ⊆ ks) :
    OnlyRegs ks r₀ (State.releasePlaces s gone) ↔ OnlyRegs ks r₀ s :=
  (State.releasePlaces_regs s gone).step h

theorem State.evictHead_regs (s : State) :
    OnlyRegs [] s (State.evictHead s) := 
  .of_only (State.evictHead_only s) (by decide)

@[simp] theorem State.evictHead_regsStep (s : State) {ks : List Fld} {r₀ : State}
    (h : [] ⊆ ks) :
    OnlyRegs ks r₀ (State.evictHead s) ↔ OnlyRegs ks r₀ s :=
  (State.evictHead_regs s).step h

theorem State.prefetchBlock_regs (s : State) (q : Nat) (bseq : Nat) (cls : Nat) :
    OnlyRegs [] s (State.prefetchBlock s q bseq cls) := 
  .of_only (State.prefetchBlock_only s q bseq cls) (by decide)

@[simp] theorem State.prefetchBlock_regsStep (s : State) (q : Nat) (bseq : Nat) (cls : Nat) {ks : List Fld} {r₀ : State}
    (h : [] ⊆ ks) :
    OnlyRegs ks r₀ (State.prefetchBlock s q bseq cls) ↔ OnlyRegs ks r₀ s :=
  (State.prefetchBlock_regs s q bseq cls).step h

theorem State.touchHead_regs (s : State) (q : Nat) (bseq : Nat) :
    OnlyRegs [] s (State.touchHead s q bseq) := 
  .of_only (State.touchHead_only s q bseq) (by decide)

@[simp] theorem State.touchHead_regsStep (s : State) (q : Nat) (bseq : Nat) {ks : List Fld} {r₀ : State}
    (h : [] ⊆ ks) :
    OnlyRegs ks r₀ (State.touchHead s q bseq) ↔ OnlyRegs ks r₀ s :=
  (State.touchHead_regs s q bseq).step h

end Sys2Proof.Machine
end

