-- ==== Sys2Proof/Laws/RegsChannels.lean ====
section
/-!
SUPPORT. Which register fields the operations of Channels.lean can change: one lemma for each.
-/
namespace Sys2Proof.Machine

theorem State.stackWrite_regs (s : State) (k : Nat) (b : List Byte) :
    OnlyRegs [] s (State.stackWrite s k b) := 
  .of_only (State.stackWrite_only s k b) (by decide)

@[simp] theorem State.stackWrite_regsStep (s : State) (k : Nat) (b : List Byte) {ks : List Fld} {r₀ : State}
    (h : [] ⊆ ks) :
    OnlyRegs ks r₀ (State.stackWrite s k b) ↔ OnlyRegs ks r₀ s :=
  (State.stackWrite_regs s k b).step h

theorem State.landWords_regs (s : State) (r : MemReq) :
    OnlyRegs [] s (State.landWords s r) := 
  .of_only (State.landWords_only s r) (by decide)

@[simp] theorem State.landWords_regsStep (s : State) (r : MemReq) {ks : List Fld} {r₀ : State}
    (h : [] ⊆ ks) :
    OnlyRegs ks r₀ (State.landWords s r) ↔ OnlyRegs ks r₀ s :=
  (State.landWords_regs s r).step h

theorem State.landEntry_regs (s : State) (e : MemEntry) :
    OnlyRegs [] s (State.landEntry s e) := 
  .of_only (State.landEntry_only s e) (by decide)

@[simp] theorem State.landEntry_regsStep (s : State) (e : MemEntry) {ks : List Fld} {r₀ : State}
    (h : [] ⊆ ks) :
    OnlyRegs ks r₀ (State.landEntry s e) ↔ OnlyRegs ks r₀ s :=
  (State.landEntry_regs s e).step h

theorem State.setPc_regs (s : State) (n : Nat) (x : Pc) :
    OnlyRegs [mcPcQueueWq n, mcPcQueueRq n, mcPcQueueWqPeak n, mcPcQueueRqPeak n] s (State.setPc s n x) := by
  simp [State.setPc]

@[simp] theorem State.setPc_regsStep (s : State) (n : Nat) (x : Pc) {ks : List Fld} {r₀ : State}
    (h : [mcPcQueueWq n, mcPcQueueRq n, mcPcQueueWqPeak n, mcPcQueueRqPeak n] ⊆ ks) :
    OnlyRegs ks r₀ (State.setPc s n x) ↔ OnlyRegs ks r₀ s :=
  (State.setPc_regs s n x).step h

theorem State.wakePc_regs (s : State) (n : Nat) :
    OnlyRegs [mcPcStatusState n] s (State.wakePc s n) := by
  simp [State.wakePc]

@[simp] theorem State.wakePc_regsStep (s : State) (n : Nat) {ks : List Fld} {r₀ : State}
    (h : [mcPcStatusState n] ⊆ ks) :
    OnlyRegs ks r₀ (State.wakePc s n) ↔ OnlyRegs ks r₀ s :=
  (State.wakePc_regs s n).step h

theorem State.closeRows_regs (s : State) (n : Nat) :
    OnlyRegs [mcPcQueueWq n, mcPcQueueRq n, mcPcQueueWqPeak n, mcPcQueueRqPeak n] s (State.closeRows s n) := by
  simp [State.closeRows]

@[simp] theorem State.closeRows_regsStep (s : State) (n : Nat) {ks : List Fld} {r₀ : State}
    (h : [mcPcQueueWq n, mcPcQueueRq n, mcPcQueueWqPeak n, mcPcQueueRqPeak n] ⊆ ks) :
    OnlyRegs ks r₀ (State.closeRows s n) ↔ OnlyRegs ks r₀ s :=
  (State.closeRows_regs s n).step h

theorem State.discardQueued_regs (s : State) (n : Nat) :
    OnlyRegs [mcPcQueueWq n, mcPcQueueRq n, mcPcQueueWqPeak n, mcPcQueueRqPeak n] s (State.discardQueued s n) := by
  simp [State.discardQueued]

@[simp] theorem State.discardQueued_regsStep (s : State) (n : Nat) {ks : List Fld} {r₀ : State}
    (h : [mcPcQueueWq n, mcPcQueueRq n, mcPcQueueWqPeak n, mcPcQueueRqPeak n] ⊆ ks) :
    OnlyRegs ks r₀ (State.discardQueued s n) ↔ OnlyRegs ks r₀ s :=
  (State.discardQueued_regs s n).step h

theorem State.charge_regs (s : State) (n : Nat) (c : Nat) :
    OnlyRegs [mcPcQueueWq n, mcPcQueueRq n, mcPcQueueWqPeak n, mcPcQueueRqPeak n] s (State.charge s n c).2 := by
  unfold State.charge
  (repeat' split) <;> simp

@[simp] theorem State.charge_regsStep (s : State) (n : Nat) (c : Nat) {ks : List Fld} {r₀ : State}
    (h : [mcPcQueueWq n, mcPcQueueRq n, mcPcQueueWqPeak n, mcPcQueueRqPeak n] ⊆ ks) :
    OnlyRegs ks r₀ (State.charge s n c).2 ↔ OnlyRegs ks r₀ s :=
  (State.charge_regs s n c).step h

theorem State.noteDrain_regs (s : State) (n : Nat) :
    OnlyRegs [mcPcStatusDrain n] s (State.noteDrain s n) := by
  simp [State.noteDrain]

@[simp] theorem State.noteDrain_regsStep (s : State) (n : Nat) {ks : List Fld} {r₀ : State}
    (h : [mcPcStatusDrain n] ⊆ ks) :
    OnlyRegs ks r₀ (State.noteDrain s n) ↔ OnlyRegs ks r₀ s :=
  (State.noteDrain_regs s n).step h

theorem State.enterQueue_regs (s : State) (r : MemReq) :
    OnlyRegs [mcPcQueueWq r.pc, mcPcQueueRq r.pc, mcPcQueueWqPeak r.pc, mcPcQueueRqPeak r.pc, mcPcStatusDrain r.pc] s (State.enterQueue s r) := by
  simp [State.enterQueue]

@[simp] theorem State.enterQueue_regsStep (s : State) (r : MemReq) {ks : List Fld} {r₀ : State}
    (h : [mcPcQueueWq r.pc, mcPcQueueRq r.pc, mcPcQueueWqPeak r.pc, mcPcQueueRqPeak r.pc, mcPcStatusDrain r.pc] ⊆ ks) :
    OnlyRegs ks r₀ (State.enterQueue s r) ↔ OnlyRegs ks r₀ s :=
  (State.enterQueue_regs s r).step h

theorem State.mergeWrite_regs (s : State) (r : MemReq) (w : MemEntry) :
    OnlyRegs [mcPcMerge r.pc, mcPcQueueWq r.pc, mcPcQueueRq r.pc, mcPcQueueWqPeak r.pc, mcPcQueueRqPeak r.pc] s (State.mergeWrite s r w) := by
  simp [State.mergeWrite]

@[simp] theorem State.mergeWrite_regsStep (s : State) (r : MemReq) (w : MemEntry) {ks : List Fld} {r₀ : State}
    (h : [mcPcMerge r.pc, mcPcQueueWq r.pc, mcPcQueueRq r.pc, mcPcQueueWqPeak r.pc, mcPcQueueRqPeak r.pc] ⊆ ks) :
    OnlyRegs ks r₀ (State.mergeWrite s r w) ↔ OnlyRegs ks r₀ s :=
  (State.mergeWrite_regs s r w).step h

theorem State.countForward_regs (s : State) (n : Nat) :
    OnlyRegs [mcPcFwd n] s (State.countForward s n) := by
  simp [State.countForward]

@[simp] theorem State.countForward_regsStep (s : State) (n : Nat) {ks : List Fld} {r₀ : State}
    (h : [mcPcFwd n] ⊆ ks) :
    OnlyRegs ks r₀ (State.countForward s n) ↔ OnlyRegs ks r₀ s :=
  (State.countForward_regs s n).step h

theorem State.acceptReq_regs (s : State) (r : MemReq) (u₀ : State) (h : State.acceptReq s r = some u₀) :
    OnlyRegs [mcPcQueueWq r.pc, mcPcQueueRq r.pc, mcPcQueueWqPeak r.pc, mcPcQueueRqPeak r.pc, mcPcStatusDrain r.pc, mcPcFwd r.pc, mcPcMerge r.pc] s u₀ := by
  unfold State.acceptReq at h
  try dsimp only at h
  repeat' split at h
  all_goals first
    | (injection h with h; subst h; simp)
    | exact absurd h (by simp)

theorem State.arrive_regs (s : State) (r : MemReq) :
    OnlyRegs [mcPcStatusState r.pc, mcPcQueueWq r.pc, mcPcQueueRq r.pc, mcPcQueueWqPeak r.pc, mcPcQueueRqPeak r.pc, mcPcStatusDrain r.pc, mcPcFwd r.pc, mcPcMerge r.pc] s (State.arrive s r) := by
  unfold State.arrive
  dsimp only
  split
  · simp
  · cases h : (s.wakePc r.pc).acceptReq r with
    | none => simp [h]
    | some u =>
      simp only [h, Option.getD_some]
      exact OnlyRegs.trans (by simp) ((State.acceptReq_regs _ _ _ h).mono (by simp))

@[simp] theorem State.arrive_regsStep (s : State) (r : MemReq) {ks : List Fld} {r₀ : State}
    (h : [mcPcStatusState r.pc, mcPcQueueWq r.pc, mcPcQueueRq r.pc, mcPcQueueWqPeak r.pc, mcPcQueueRqPeak r.pc, mcPcStatusDrain r.pc, mcPcFwd r.pc, mcPcMerge r.pc] ⊆ ks) :
    OnlyRegs ks r₀ (State.arrive s r) ↔ OnlyRegs ks r₀ s :=
  (State.arrive_regs s r).step h

theorem State.request_regs (s : State) (r : MemReq) :
    OnlyRegs (controllerRegs) s (State.request s r) := by
  unfold State.request
  split
  · simp
  · next h =>
    exact (State.arrive_regs s r).mono (fun k hk => List.mem_flatMap.mpr ⟨r.pc, List.mem_range.mpr (by omega), hk⟩)

@[simp] theorem State.request_regsStep (s : State) (r : MemReq) {ks : List Fld} {r₀ : State}
    (h : (controllerRegs) ⊆ ks) :
    OnlyRegs ks r₀ (State.request s r) ↔ OnlyRegs ks r₀ s :=
  (State.request_regs s r).step h

theorem State.writeBlock_regs (s : State) (a : RowAt) (cls : Nat) (hint : Nat) (b : List Byte) :
    OnlyRegs (controllerRegs) s (State.writeBlock s a cls hint b) := by
  simp [State.writeBlock]

@[simp] theorem State.writeBlock_regsStep (s : State) (a : RowAt) (cls : Nat) (hint : Nat) (b : List Byte) {ks : List Fld} {r₀ : State}
    (h : (controllerRegs) ⊆ ks) :
    OnlyRegs ks r₀ (State.writeBlock s a cls hint b) ↔ OnlyRegs ks r₀ s :=
  (State.writeBlock_regs s a cls hint b).step h

end Sys2Proof.Machine
end

