-- ==== Sys2Proof/Laws/RegsQueues.lean ====
section
/-!
SUPPORT. Which register fields the operations of Queues.lean can change: one lemma for each.
-/
namespace Sys2Proof.Machine

theorem State.writeBlocks_regs (s : State) (q : Nat) (x : Queue) (l : List (Nat × TailBlock)) :
    OnlyRegs (controllerRegs) s (State.writeBlocks s q x l) := by
  unfold State.writeBlocks
  refine OnlyRegs.foldlI _ _ (fun x a => ?_) (by simp)
  try dsimp only
  (repeat' split) <;> simp

@[simp] theorem State.writeBlocks_regsStep (s : State) (q : Nat) (x : Queue) (l : List (Nat × TailBlock)) {ks : List Fld} {r₀ : State}
    (h : (controllerRegs) ⊆ ks) :
    OnlyRegs ks r₀ (State.writeBlocks s q x l) ↔ OnlyRegs ks r₀ s :=
  (State.writeBlocks_regs s q x l).step h

theorem State.breakQueue_regs (s : State) (q : Nat) (counts : Nat × Nat × Nat) :
    OnlyRegs [qmBrokenQueue, qmBrokenCount, elFirst, elNext, elLost, elStatusAlertPend] s (State.breakQueue s q counts) := by
  simp [State.breakQueue]

@[simp] theorem State.breakQueue_regsStep (s : State) (q : Nat) (counts : Nat × Nat × Nat) {ks : List Fld} {r₀ : State}
    (h : [qmBrokenQueue, qmBrokenCount, elFirst, elNext, elLost, elStatusAlertPend] ⊆ ks) :
    OnlyRegs ks r₀ (State.breakQueue s q counts) ↔ OnlyRegs ks r₀ s :=
  (State.breakQueue_regs s q counts).step h

theorem State.refuseState_regs (s : State) (r : Req) (status : Nat) :
    OnlyRegs [qmRefuseState, rlEgressBytes r.port] s (State.refuseState s r status) := by
  simp [State.refuseState]

@[simp] theorem State.refuseState_regsStep (s : State) (r : Req) (status : Nat) {ks : List Fld} {r₀ : State}
    (h : [qmRefuseState, rlEgressBytes r.port] ⊆ ks) :
    OnlyRegs ks r₀ (State.refuseState s r status) ↔ OnlyRegs ks r₀ s :=
  (State.refuseState_regs s r status).step h

theorem State.refuseEnq_regs (s : State) (r : Req) (st : Nat) :
    OnlyRegs [rlProtoErrLength r.port, rlEgressBytes r.port, qmRefuseState, qmRefuseQfull, qmRefusePool, qmBrokenQueue, qmBrokenCount, elFirst, elNext, elLost, elStatusAlertPend] s (State.refuseEnq s r st) := by
  simp [State.refuseEnq]

@[simp] theorem State.refuseEnq_regsStep (s : State) (r : Req) (st : Nat) {ks : List Fld} {r₀ : State}
    (h : [rlProtoErrLength r.port, rlEgressBytes r.port, qmRefuseState, qmRefuseQfull, qmRefusePool, qmBrokenQueue, qmBrokenCount, elFirst, elNext, elLost, elStatusAlertPend] ⊆ ks) :
    OnlyRegs ks r₀ (State.refuseEnq s r st) ↔ OnlyRegs ks r₀ s :=
  (State.refuseEnq_regs s r st).step h

theorem State.openFor_regs (s : State) (r : Req) :
    OnlyRegs [mvSpreadDetours, mvSpreadMin] s (State.openFor s r) := by
  simp [State.openFor]

@[simp] theorem State.openFor_regsStep (s : State) (r : Req) {ks : List Fld} {r₀ : State}
    (h : [mvSpreadDetours, mvSpreadMin] ⊆ ks) :
    OnlyRegs ks r₀ (State.openFor s r) ↔ OnlyRegs ks r₀ s :=
  (State.openFor_regs s r).step h

theorem State.commitEnq_regs (s : State) (r : Req) :
    OnlyRegs (controllerRegs ++ [mvSpreadDetours, mvSpreadMin, qmEnqCount, rlEgressBytes r.port]) s (State.commitEnq s r) := by
  simp [State.commitEnq]

@[simp] theorem State.commitEnq_regsStep (s : State) (r : Req) {ks : List Fld} {r₀ : State}
    (h : (controllerRegs ++ [mvSpreadDetours, mvSpreadMin, qmEnqCount, rlEgressBytes r.port]) ⊆ ks) :
    OnlyRegs ks r₀ (State.commitEnq s r) ↔ OnlyRegs ks r₀ s :=
  (State.commitEnq_regs s r).step h

theorem State.readSectors_regs (s : State) (q : Nat) (x : Queue) (cls : Nat) (hint : Nat) (b : Nat) (lo : Nat) (hi : Nat) :
    OnlyRegs (controllerRegs) s (State.readSectors s q x cls hint b lo hi) := by
  unfold State.readSectors
  (repeat' split) <;> simp

@[simp] theorem State.readSectors_regsStep (s : State) (q : Nat) (x : Queue) (cls : Nat) (hint : Nat) (b : Nat) (lo : Nat) (hi : Nat) {ks : List Fld} {r₀ : State}
    (h : (controllerRegs) ⊆ ks) :
    OnlyRegs ks r₀ (State.readSectors s q x cls hint b lo hi) ↔ OnlyRegs ks r₀ s :=
  (State.readSectors_regs s q x cls hint b lo hi).step h

theorem State.readStream_regs (s : State) (r : Req) (x : Queue) (lo : Nat) (hi : Nat) :
    OnlyRegs (controllerRegs) s (State.readStream s r x lo hi) := by
  simp [State.readStream]

@[simp] theorem State.readStream_regsStep (s : State) (r : Req) (x : Queue) (lo : Nat) (hi : Nat) {ks : List Fld} {r₀ : State}
    (h : (controllerRegs) ⊆ ks) :
    OnlyRegs ks r₀ (State.readStream s r x lo hi) ↔ OnlyRegs ks r₀ s :=
  (State.readStream_regs s r x lo hi).step h

theorem State.readPackets_regs (s : State) (r : Req) (x : Queue) (got : List Packet) :
    OnlyRegs (controllerRegs) s (State.readPackets s r x got) := by
  unfold State.readPackets
  (repeat' split) <;> simp

@[simp] theorem State.readPackets_regsStep (s : State) (r : Req) (x : Queue) (got : List Packet) {ks : List Fld} {r₀ : State}
    (h : (controllerRegs) ⊆ ks) :
    OnlyRegs ks r₀ (State.readPackets s r x got) ↔ OnlyRegs ks r₀ s :=
  (State.readPackets_regs s r x got).step h

theorem State.fetchBlock_regs (s : State) (q : Nat) (x : Queue) (cls : Nat) (hint : Nat) (b : Nat) :
    OnlyRegs (controllerRegs) s (State.fetchBlock s q x cls hint b) := by
  simp [State.fetchBlock]

@[simp] theorem State.fetchBlock_regsStep (s : State) (q : Nat) (x : Queue) (cls : Nat) (hint : Nat) (b : Nat) {ks : List Fld} {r₀ : State}
    (h : (controllerRegs) ⊆ ks) :
    OnlyRegs ks r₀ (State.fetchBlock s q x cls hint b) ↔ OnlyRegs ks r₀ s :=
  (State.fetchBlock_regs s q x cls hint b).step h

theorem State.prefetchQueue_regs (s : State) (q : Nat) (cls : Nat) (hint : Nat) :
    OnlyRegs (controllerRegs) s (State.prefetchQueue s q cls hint) := by
  simp [State.prefetchQueue]

@[simp] theorem State.prefetchQueue_regsStep (s : State) (q : Nat) (cls : Nat) (hint : Nat) {ks : List Fld} {r₀ : State}
    (h : (controllerRegs) ⊆ ks) :
    OnlyRegs ks r₀ (State.prefetchQueue s q cls hint) ↔ OnlyRegs ks r₀ s :=
  (State.prefetchQueue_regs s q cls hint).step h

theorem State.applyWalk_regs (s : State) (r : Req) (x : Queue) (w : Walk) :
    OnlyRegs (controllerRegs ++ [mvDrainBlocks, qmDeqCount, qmLostPackets, elFirst, elNext, elLost, elStatusAlertPend, qmBrokenQueue, qmBrokenCount]) s (State.applyWalk s r x w) := by
  simp [State.applyWalk]

@[simp] theorem State.applyWalk_regsStep (s : State) (r : Req) (x : Queue) (w : Walk) {ks : List Fld} {r₀ : State}
    (h : (controllerRegs ++ [mvDrainBlocks, qmDeqCount, qmLostPackets, elFirst, elNext, elLost, elStatusAlertPend, qmBrokenQueue, qmBrokenCount]) ⊆ ks) :
    OnlyRegs ks r₀ (State.applyWalk s r x w) ↔ OnlyRegs ks r₀ s :=
  (State.applyWalk_regs s r x w).step h

theorem State.answerDrop_regs (s : State) (r : Req) (st : Nat) (bytes : Nat) (n : Nat) (seq : Nat) :
    OnlyRegs [rlEgressBytes r.port] s (State.answerDrop s r st bytes n seq) := by
  simp [State.answerDrop]

@[simp] theorem State.answerDrop_regsStep (s : State) (r : Req) (st : Nat) (bytes : Nat) (n : Nat) (seq : Nat) {ks : List Fld} {r₀ : State}
    (h : [rlEgressBytes r.port] ⊆ ks) :
    OnlyRegs ks r₀ (State.answerDrop s r st bytes n seq) ↔ OnlyRegs ks r₀ s :=
  (State.answerDrop_regs s r st bytes n seq).step h

theorem State.headSojourn_regs (s : State) (q : Nat) (x : Queue) (t : Tick) :
    OnlyRegs [] s (State.headSojourn s q x t).2 := 
  .of_only (State.headSojourn_only s q x t) (by decide)

@[simp] theorem State.headSojourn_regsStep (s : State) (q : Nat) (x : Queue) (t : Tick) {ks : List Fld} {r₀ : State}
    (h : [] ⊆ ks) :
    OnlyRegs ks r₀ (State.headSojourn s q x t).2 ↔ OnlyRegs ks r₀ s :=
  (State.headSojourn_regs s q x t).step h

theorem State.startSnapshot_regs (s : State) (src : SnapSource) (t : Tick) :
    OnlyRegs [qmStatusSnapPending] s (State.startSnapshot s src t) := by
  simp [State.startSnapshot]

@[simp] theorem State.startSnapshot_regsStep (s : State) (src : SnapSource) (t : Tick) {ks : List Fld} {r₀ : State}
    (h : [qmStatusSnapPending] ⊆ ks) :
    OnlyRegs ks r₀ (State.startSnapshot s src t) ↔ OnlyRegs ks r₀ s :=
  (State.startSnapshot_regs s src t).step h

theorem State.updateQueues_regs (s : State) (first : Nat) (n : Nat) (f : Queue → Queue) :
    OnlyRegs [] s (State.updateQueues s first n f) := 
  .of_only (State.updateQueues_only s first n f) (by decide)

@[simp] theorem State.updateQueues_regsStep (s : State) (first : Nat) (n : Nat) (f : Queue → Queue) {ks : List Fld} {r₀ : State}
    (h : [] ⊆ ks) :
    OnlyRegs ks r₀ (State.updateQueues s first n f) ↔ OnlyRegs ks r₀ s :=
  (State.updateQueues_regs s first n f).step h

theorem State.syncQueues_regs (s : State) :
    OnlyRegs [qmQueuesConfigured, qmBrokenCount] s (State.syncQueues s) := by
  simp [State.syncQueues]

@[simp] theorem State.syncQueues_regsStep (s : State) {ks : List Fld} {r₀ : State}
    (h : [qmQueuesConfigured, qmBrokenCount] ⊆ ks) :
    OnlyRegs ks r₀ (State.syncQueues s) ↔ OnlyRegs ks r₀ s :=
  (State.syncQueues_regs s).step h

theorem State.scanHeaders_regs (s : State) (l : List Place) :
    OnlyRegs (controllerRegs) s (State.scanHeaders s l) := by
  simp [State.scanHeaders]

@[simp] theorem State.scanHeaders_regsStep (s : State) (l : List Place) {ks : List Fld} {r₀ : State}
    (h : (controllerRegs) ⊆ ks) :
    OnlyRegs ks r₀ (State.scanHeaders s l) ↔ OnlyRegs ks r₀ s :=
  (State.scanHeaders_regs s l).step h

theorem State.reclaim_regs (s : State) (q : Nat × Queue) :
    OnlyRegs (controllerRegs ++ [mvDrainBlocks, mvReclaimBlocks, mvReclaimLost, elFirst, elNext, elLost, elStatusAlertPend]) s (State.reclaim s q) := by
  simp [State.reclaim]

@[simp] theorem State.reclaim_regsStep (s : State) (q : Nat × Queue) {ks : List Fld} {r₀ : State}
    (h : (controllerRegs ++ [mvDrainBlocks, mvReclaimBlocks, mvReclaimLost, elFirst, elNext, elLost, elStatusAlertPend]) ⊆ ks) :
    OnlyRegs ks r₀ (State.reclaim s q) ↔ OnlyRegs ks r₀ s :=
  (State.reclaim_regs s q).step h

theorem State.addChange_regs (s : State) (e : Sqe) (k : QueueChangeKind) :
    OnlyRegs [hcCqTailIndex e.ring, hcCqTailPhase e.ring, hcRingStatusInFlight e.ring, hcRingStatusIdle e.ring, hcRingStatusWaiting e.ring] s (State.addChange s e k) := by
  simp [State.addChange]

@[simp] theorem State.addChange_regsStep (s : State) (e : Sqe) (k : QueueChangeKind) {ks : List Fld} {r₀ : State}
    (h : [hcCqTailIndex e.ring, hcCqTailPhase e.ring, hcRingStatusInFlight e.ring, hcRingStatusIdle e.ring, hcRingStatusWaiting e.ring] ⊆ ks) :
    OnlyRegs ks r₀ (State.addChange s e k) ↔ OnlyRegs ks r₀ s :=
  (State.addChange_regs s e k).step h

end Sys2Proof.Machine
end

