-- ==== Sys2Proof/Laws/RegsTables.lean ====
section
/-!
SUPPORT. Which register fields the operations of Tables.lean can change: one lemma for each.
-/
namespace Sys2Proof.Machine

theorem State.putTable_regs (s : State) (n : Nat) (t : Option Table) :
    OnlyRegs [] s (State.putTable s n t) := 
  .of_only (State.putTable_only s n t) (by decide)

@[simp] theorem State.putTable_regsStep (s : State) (n : Nat) (t : Option Table) {ks : List Fld} {r₀ : State}
    (h : [] ⊆ ks) :
    OnlyRegs ks r₀ (State.putTable s n t) ↔ OnlyRegs ks r₀ s :=
  (State.putTable_regs s n t).step h

theorem State.giveTableRow_regs (s : State) (r : TableRow) :
    OnlyRegs [] s (State.giveTableRow s r) := 
  .of_only (State.giveTableRow_only s r) (by decide)

@[simp] theorem State.giveTableRow_regsStep (s : State) (r : TableRow) {ks : List Fld} {r₀ : State}
    (h : [] ⊆ ks) :
    OnlyRegs ks r₀ (State.giveTableRow s r) ↔ OnlyRegs ks r₀ s :=
  (State.giveTableRow_regs s r).step h

theorem State.addTableRow_regs (s : State) (r : TableRow) :
    OnlyRegs [] s (State.addTableRow s r) := 
  .of_only (State.addTableRow_only s r) (by decide)

@[simp] theorem State.addTableRow_regsStep (s : State) (r : TableRow) {ks : List Fld} {r₀ : State}
    (h : [] ⊆ ks) :
    OnlyRegs ks r₀ (State.addTableRow s r) ↔ OnlyRegs ks r₀ s :=
  (State.addTableRow_regs s r).step h

theorem State.newTableRow_regs (s : State) (n : Nat) (created : Tick) (pair : Bool) :
    OnlyRegs [] s (State.newTableRow s n created pair) := 
  .of_only (State.newTableRow_only s n created pair) (by decide)

@[simp] theorem State.newTableRow_regsStep (s : State) (n : Nat) (created : Tick) (pair : Bool) {ks : List Fld} {r₀ : State}
    (h : [] ⊆ ks) :
    OnlyRegs ks r₀ (State.newTableRow s n created pair) ↔ OnlyRegs ks r₀ s :=
  (State.newTableRow_regs s n created pair).step h

theorem State.settleRows_regs (s : State) :
    OnlyRegs [] s (State.settleRows s) := 
  .of_only (State.settleRows_only s) (by decide)

@[simp] theorem State.settleRows_regsStep (s : State) {ks : List Fld} {r₀ : State}
    (h : [] ⊆ ks) :
    OnlyRegs ks r₀ (State.settleRows s) ↔ OnlyRegs ks r₀ s :=
  (State.settleRows_regs s).step h

theorem State.rehouse_regs (s : State) (bad : TableRow → RowAt → Bool) (back : Bool) :
    OnlyRegs [] s (State.rehouse s bad back) := 
  .of_only (State.rehouse_only s bad back) (by decide)

@[simp] theorem State.rehouse_regsStep (s : State) (bad : TableRow → RowAt → Bool) (back : Bool) {ks : List Fld} {r₀ : State}
    (h : [] ⊆ ks) :
    OnlyRegs ks r₀ (State.rehouse s bad back) ↔ OnlyRegs ks r₀ s :=
  (State.rehouse_regs s bad back).step h

theorem State.renewRows_regs (s : State) :
    OnlyRegs [] s (State.renewRows s) := 
  .of_only (State.renewRows_only s) (by decide)

@[simp] theorem State.renewRows_regsStep (s : State) {ks : List Fld} {r₀ : State}
    (h : [] ⊆ ks) :
    OnlyRegs ks r₀ (State.renewRows s) ↔ OnlyRegs ks r₀ s :=
  (State.renewRows_regs s).step h

theorem State.showTiers_regs (s : State) :
    OnlyRegs [mvTierReplKib, mvTierHomeKib] s (State.showTiers s) := by
  simp [State.showTiers]

@[simp] theorem State.showTiers_regsStep (s : State) {ks : List Fld} {r₀ : State}
    (h : [mvTierReplKib, mvTierHomeKib] ⊆ ks) :
    OnlyRegs ks r₀ (State.showTiers s) ↔ OnlyRegs ks r₀ s :=
  (State.showTiers_regs s).step h

theorem State.syncTables_regs (s : State) :
    OnlyRegs [mvTierReplKib, mvTierHomeKib, mvTableUsedRows, teTablesCount] s (State.syncTables s) := by
  simp [State.syncTables]

@[simp] theorem State.syncTables_regsStep (s : State) {ks : List Fld} {r₀ : State}
    (h : [mvTierReplKib, mvTierHomeKib, mvTableUsedRows, teTablesCount] ⊆ ks) :
    OnlyRegs ks r₀ (State.syncTables s) ↔ OnlyRegs ks r₀ s :=
  (State.syncTables_regs s).step h

theorem State.putTableAt_regs (s : State) (n : Nat) (tick : Tick) (t : Table) :
    OnlyRegs [] s (State.putTableAt s n tick t) := 
  .of_only (State.putTableAt_only s n tick t) (by decide)

@[simp] theorem State.putTableAt_regsStep (s : State) (n : Nat) (tick : Tick) (t : Table) {ks : List Fld} {r₀ : State}
    (h : [] ⊆ ks) :
    OnlyRegs ks r₀ (State.putTableAt s n tick t) ↔ OnlyRegs ks r₀ s :=
  (State.putTableAt_regs s n tick t).step h

theorem State.touchNode_regs (s : State) (n : Nat) (t : Table) (cls : Nat) (hint : Nat) (tick : Tick) (writes : Bool) (key : List Byte) (line : Nat) :
    OnlyRegs (controllerRegs ++ [teDramReads, teMirrorSaves]) s (State.touchNode s n t cls hint tick writes key line) := by
  unfold State.touchNode
  dsimp only
  split
  · simp
  · have h : ∀ (l : List RowAt) (f : RowAt → MemReq) (u : State),
        OnlyRegs (controllerRegs ++ [teDramReads, teMirrorSaves]) u (l.foldl (fun u p => u.request (f p)) u) :=
      fun l f u => OnlyRegs.foldlI _ _ (fun x a => by simp) (by simp)
    split
    · exact OnlyRegs.trans (OnlyRegs.trans (by simp) (h _ _ _)) (h _ _ _)
    · exact OnlyRegs.trans (by simp) (h _ _ _)

@[simp] theorem State.touchNode_regsStep (s : State) (n : Nat) (t : Table) (cls : Nat) (hint : Nat) (tick : Tick) (writes : Bool) (key : List Byte) (line : Nat) {ks : List Fld} {r₀ : State}
    (h : (controllerRegs ++ [teDramReads, teMirrorSaves]) ⊆ ks) :
    OnlyRegs ks r₀ (State.touchNode s n t cls hint tick writes key line) ↔ OnlyRegs ks r₀ s :=
  (State.touchNode_regs s n t cls hint tick writes key line).step h

theorem State.touchKey_regs (s : State) (n : Nat) (t : Table) (cls : Nat) (hint : Nat) (tick : Tick) (writes : Bool) (key : List Byte) :
    OnlyRegs (controllerRegs ++ [teDramReads, teMirrorSaves]) s (State.touchKey s n t cls hint tick writes key) := by
  simp [State.touchKey]

@[simp] theorem State.touchKey_regsStep (s : State) (n : Nat) (t : Table) (cls : Nat) (hint : Nat) (tick : Tick) (writes : Bool) (key : List Byte) {ks : List Fld} {r₀ : State}
    (h : (controllerRegs ++ [teDramReads, teMirrorSaves]) ⊆ ks) :
    OnlyRegs ks r₀ (State.touchKey s n t cls hint tick writes key) ↔ OnlyRegs ks r₀ s :=
  (State.touchKey_regs s n t cls hint tick writes key).step h

theorem State.refuseTable_regs (s : State) (r : Req) (status : Nat) :
    OnlyRegs [teRefused, rlProtoErrLength r.port, rlEgressBytes r.port] s (State.refuseTable s r status) := by
  simp [State.refuseTable]

@[simp] theorem State.refuseTable_regsStep (s : State) (r : Req) (status : Nat) {ks : List Fld} {r₀ : State}
    (h : [teRefused, rlProtoErrLength r.port, rlEgressBytes r.port] ⊆ ks) :
    OnlyRegs ks r₀ (State.refuseTable s r status) ↔ OnlyRegs ks r₀ s :=
  (State.refuseTable_regs s r status).step h

theorem State.countLookups_regs (s : State) (as : List Answer) :
    OnlyRegs [teLookup, teMiss, teMemerr] s (State.countLookups s as) := by
  simp [State.countLookups]

@[simp] theorem State.countLookups_regsStep (s : State) (as : List Answer) {ks : List Fld} {r₀ : State}
    (h : [teLookup, teMiss, teMemerr] ⊆ ks) :
    OnlyRegs ks r₀ (State.countLookups s as) ↔ OnlyRegs ks r₀ s :=
  (State.countLookups_regs s as).step h

theorem State.countOps_regs (s : State) (n : Nat) (tick : Tick) (k : Nat) :
    OnlyRegs [] s (State.countOps s n tick k) := 
  .of_only (State.countOps_only s n tick k) (by decide)

@[simp] theorem State.countOps_regsStep (s : State) (n : Nat) (tick : Tick) (k : Nat) {ks : List Fld} {r₀ : State}
    (h : [] ⊆ ks) :
    OnlyRegs ks r₀ (State.countOps s n tick k) ↔ OnlyRegs ks r₀ s :=
  (State.countOps_regs s n tick k).step h

theorem State.noteServed_regs (s : State) (n : Nat) (t : Table) (r : Req) :
    OnlyRegs [] s (State.noteServed s n t r) := 
  .of_only (State.noteServed_only s n t r) (by decide)

@[simp] theorem State.noteServed_regsStep (s : State) (n : Nat) (t : Table) (r : Req) {ks : List Fld} {r₀ : State}
    (h : [] ⊆ ks) :
    OnlyRegs ks r₀ (State.noteServed s n t r) ↔ OnlyRegs ks r₀ s :=
  (State.noteServed_regs s n t r).step h

theorem State.serveLookup_regs (s : State) (r : Req) :
    OnlyRegs [rlEgressBytes r.port, teLookup, teMiss, teMemerr] s (State.serveLookup s r) := by
  unfold State.serveLookup
  (repeat' split) <;> simp

@[simp] theorem State.serveLookup_regsStep (s : State) (r : Req) {ks : List Fld} {r₀ : State}
    (h : [rlEgressBytes r.port, teLookup, teMiss, teMemerr] ⊆ ks) :
    OnlyRegs ks r₀ (State.serveLookup s r) ↔ OnlyRegs ks r₀ s :=
  (State.serveLookup_regs s r).step h

theorem State.serveMulti_regs (s : State) (r : Req) :
    OnlyRegs [teLookup, teMiss, teMemerr, rlEgressBytes r.port] s (State.serveMulti s r) := by
  unfold State.serveMulti
  dsimp only
  refine OnlyRegs.trans ?_ ((State.answer_regs _ _ _ _ _ _ _).mono (by simp))
  exact OnlyRegs.foldlI _ _ (fun x a => by simp) (by simp)

@[simp] theorem State.serveMulti_regsStep (s : State) (r : Req) {ks : List Fld} {r₀ : State}
    (h : [teLookup, teMiss, teMemerr, rlEgressBytes r.port] ⊆ ks) :
    OnlyRegs ks r₀ (State.serveMulti s r) ↔ OnlyRegs ks r₀ s :=
  (State.serveMulti_regs s r).step h

theorem State.serveCounter_regs (s : State) (r : Req) :
    OnlyRegs [rlEgressBytes r.port, teCntOps] s (State.serveCounter s r) := by
  unfold State.serveCounter
  (repeat' split) <;> simp

@[simp] theorem State.serveCounter_regsStep (s : State) (r : Req) {ks : List Fld} {r₀ : State}
    (h : [rlEgressBytes r.port, teCntOps] ⊆ ks) :
    OnlyRegs ks r₀ (State.serveCounter s r) ↔ OnlyRegs ks r₀ s :=
  (State.serveCounter_regs s r).step h

theorem State.setEngine_regs (s : State) (n : Nat) (l : List EngineOp) :
    OnlyRegs [] s (State.setEngine s n l) := 
  .of_only (State.setEngine_only s n l) (by decide)

@[simp] theorem State.setEngine_regsStep (s : State) (n : Nat) (l : List EngineOp) {ks : List Fld} {r₀ : State}
    (h : [] ⊆ ks) :
    OnlyRegs ks r₀ (State.setEngine s n l) ↔ OnlyRegs ks r₀ s :=
  (State.setEngine_regs s n l).step h

theorem State.serveTable_regs (s : State) (r : Req) :
    OnlyRegs [rlEgressBytes r.port, teLookup, teMiss, teMemerr, teCntOps] s (State.serveTable s r) := by
  simp [State.serveTable]

@[simp] theorem State.serveTable_regsStep (s : State) (r : Req) {ks : List Fld} {r₀ : State}
    (h : [rlEgressBytes r.port, teLookup, teMiss, teMemerr, teCntOps] ⊆ ks) :
    OnlyRegs ks r₀ (State.serveTable s r) ↔ OnlyRegs ks r₀ s :=
  (State.serveTable_regs s r).step h

theorem State.noteQueue_regs (s : State) (n : Nat) :
    OnlyRegs [] s (State.noteQueue s n) := 
  .of_only (State.noteQueue_only s n) (by decide)

@[simp] theorem State.noteQueue_regsStep (s : State) (n : Nat) {ks : List Fld} {r₀ : State}
    (h : [] ⊆ ks) :
    OnlyRegs ks r₀ (State.noteQueue s n) ↔ OnlyRegs ks r₀ s :=
  (State.noteQueue_regs s n).step h

theorem State.touchOp_regs (s : State) (o : EngineOp) :
    OnlyRegs (controllerRegs ++ [teDramReads, teMirrorSaves]) s (State.touchOp s o) := by
  unfold State.touchOp
  (repeat' split) <;> simp

@[simp] theorem State.touchOp_regsStep (s : State) (o : EngineOp) {ks : List Fld} {r₀ : State}
    (h : (controllerRegs ++ [teDramReads, teMirrorSaves]) ⊆ ks) :
    OnlyRegs ks r₀ (State.touchOp s o) ↔ OnlyRegs ks r₀ s :=
  (State.touchOp_regs s o).step h

theorem State.noteThreads_regs (s : State) (k : Nat) :
    OnlyRegs [] s (State.noteThreads s k) := 
  .of_only (State.noteThreads_only s k) (by decide)

@[simp] theorem State.noteThreads_regsStep (s : State) (k : Nat) {ks : List Fld} {r₀ : State}
    (h : [] ⊆ ks) :
    OnlyRegs ks r₀ (State.noteThreads s k) ↔ OnlyRegs ks r₀ s :=
  (State.noteThreads_regs s k).step h

theorem State.startOp_regs (s : State) (n : Nat) (o : EngineOp) :
    OnlyRegs (controllerRegs ++ [teDramReads, teMirrorSaves]) s (State.startOp s n o) := by
  simp [State.startOp]

@[simp] theorem State.startOp_regsStep (s : State) (n : Nat) (o : EngineOp) {ks : List Fld} {r₀ : State}
    (h : (controllerRegs ++ [teDramReads, teMirrorSaves]) ⊆ ks) :
    OnlyRegs ks r₀ (State.startOp s n o) ↔ OnlyRegs ks r₀ s :=
  (State.startOp_regs s n o).step h

theorem State.offerOp_regs (s : State) (n : Nat) (o : EngineOp) :
    OnlyRegs (controllerRegs ++ [teDramReads, teMirrorSaves]) s (State.offerOp s n o) := by
  simp [State.offerOp]

@[simp] theorem State.offerOp_regsStep (s : State) (n : Nat) (o : EngineOp) {ks : List Fld} {r₀ : State}
    (h : (controllerRegs ++ [teDramReads, teMirrorSaves]) ⊆ ks) :
    OnlyRegs ks r₀ (State.offerOp s n o) ↔ OnlyRegs ks r₀ s :=
  (State.offerOp_regs s n o).step h

theorem State.finishTable_regs (s : State) (r : Req) :
    OnlyRegs [rlEgressBytes r.port, teLookup, teMiss, teMemerr, teCntOps] s (State.finishTable s r) := by
  simp [State.finishTable]

@[simp] theorem State.finishTable_regsStep (s : State) (r : Req) {ks : List Fld} {r₀ : State}
    (h : [rlEgressBytes r.port, teLookup, teMiss, teMemerr, teCntOps] ⊆ ks) :
    OnlyRegs ks r₀ (State.finishTable s r) ↔ OnlyRegs ks r₀ s :=
  (State.finishTable_regs s r).step h

theorem State.beginTable_regs (s : State) (r : Req) (longest : Nat) :
    OnlyRegs (controllerRegs ++ [teDramReads, teMirrorSaves, rlEgressBytes r.port, teLookup, teMiss, teMemerr, teCntOps]) s (State.beginTable s r longest) := by
  unfold State.beginTable
  dsimp only
  have h : ∀ (l : List (Nat × EngineOp)) (u : State),
      OnlyRegs (controllerRegs ++ [teDramReads, teMirrorSaves, rlEgressBytes r.port, teLookup, teMiss, teMemerr, teCntOps]) u
        (l.foldl (fun t o => t.offerOp o.1 o.2) u) :=
    fun l u => OnlyRegs.foldlI _ _ (fun x a => by simp) (by simp)
  split
  · refine OnlyRegs.trans (OnlyRegs.trans ?_ (h _ _)) ((State.finishTable_regs _ _).mono (by simp))
    simp
  · refine OnlyRegs.trans ?_ (h _ _)
    simp

@[simp] theorem State.beginTable_regsStep (s : State) (r : Req) (longest : Nat) {ks : List Fld} {r₀ : State}
    (h : (controllerRegs ++ [teDramReads, teMirrorSaves, rlEgressBytes r.port, teLookup, teMiss, teMemerr, teCntOps]) ⊆ ks) :
    OnlyRegs ks r₀ (State.beginTable s r longest) ↔ OnlyRegs ks r₀ s :=
  (State.beginTable_regs s r longest).step h

end Sys2Proof.Machine
end

