-- ==== Sys2Proof/Laws/RegsTableCommands.lean ====
section
/-!
SUPPORT. Which register fields the operations of TableCommands.lean can change: one lemma for each.
-/
namespace Sys2Proof.Machine

theorem State.placeTable_regs (s : State) (n : Nat) (t : Table) :
    OnlyRegs [] s (State.placeTable s n t) := 
  .of_only (State.placeTable_only s n t) (by decide)

@[simp] theorem State.placeTable_regsStep (s : State) (n : Nat) (t : Table) {ks : List Fld} {r₀ : State}
    (h : [] ⊆ ks) :
    OnlyRegs ks r₀ (State.placeTable s n t) ↔ OnlyRegs ks r₀ s :=
  (State.placeTable_regs s n t).step h

theorem State.writeStaged_regs (s : State) (n : Nat) (t : Table) (cls : Nat) (es : List Entry) :
    OnlyRegs (controllerRegs) s (State.writeStaged s n t cls es) := by
  unfold State.writeStaged
  exact OnlyRegs.foldlI _ _ (fun x a => OnlyRegs.foldlI _ _ (fun y b => OnlyRegs.foldlI _ _ (fun z c => by simp) (by simp)) (by simp)) (by simp)

@[simp] theorem State.writeStaged_regsStep (s : State) (n : Nat) (t : Table) (cls : Nat) (es : List Entry) {ks : List Fld} {r₀ : State}
    (h : (controllerRegs) ⊆ ks) :
    OnlyRegs ks r₀ (State.writeStaged s n t cls es) ↔ OnlyRegs ks r₀ s :=
  (State.writeStaged_regs s n t cls es).step h

theorem State.update_regs (s : State) (e : Sqe) (b : List Byte) :
    OnlyRegs (controllerRegs ++ [hcCqTailIndex e.ring, hcCqTailPhase e.ring, hcRingStatusInFlight e.ring, hcRingStatusIdle e.ring, hcRingStatusWaiting e.ring]) s (State.update s e b) := by
  unfold State.update
  try dsimp only
  (repeat' split) <;> (simp <;> (repeat' split) <;> simp)

@[simp] theorem State.update_regsStep (s : State) (e : Sqe) (b : List Byte) {ks : List Fld} {r₀ : State}
    (h : (controllerRegs ++ [hcCqTailIndex e.ring, hcCqTailPhase e.ring, hcRingStatusInFlight e.ring, hcRingStatusIdle e.ring, hcRingStatusWaiting e.ring]) ⊆ ks) :
    OnlyRegs ks r₀ (State.update s e b) ↔ OnlyRegs ks r₀ s :=
  (State.update_regs s e b).step h

theorem State.resizePrefix_regs (s : State) (e : Sqe) (n : Nat) (t : Table) :
    OnlyRegs [hcCqTailIndex e.ring, hcCqTailPhase e.ring, hcRingStatusInFlight e.ring, hcRingStatusIdle e.ring, hcRingStatusWaiting e.ring, mvTierReplKib, mvTierHomeKib, mvTableUsedRows, teTablesCount] s (State.resizePrefix s e n t) := by
  simp [State.resizePrefix]

@[simp] theorem State.resizePrefix_regsStep (s : State) (e : Sqe) (n : Nat) (t : Table) {ks : List Fld} {r₀ : State}
    (h : [hcCqTailIndex e.ring, hcCqTailPhase e.ring, hcRingStatusInFlight e.ring, hcRingStatusIdle e.ring, hcRingStatusWaiting e.ring, mvTierReplKib, mvTierHomeKib, mvTableUsedRows, teTablesCount] ⊆ ks) :
    OnlyRegs ks r₀ (State.resizePrefix s e n t) ↔ OnlyRegs ks r₀ s :=
  (State.resizePrefix_regs s e n t).step h

end Sys2Proof.Machine
end

