-- ==== Sys2Proof/Laws/RegsCommits.lean ====
section
/-!
SUPPORT. Which register fields the operations of Commits.lean can change: one lemma for each.
-/
namespace Sys2Proof.Machine

theorem State.logCommit_regs (s : State) (c : Commit) (outcome : Nat) :
    OnlyRegs [] s (State.logCommit s c outcome) := 
  .of_only (State.logCommit_only s c outcome) (by decide)

@[simp] theorem State.logCommit_regsStep (s : State) (c : Commit) (outcome : Nat) {ks : List Fld} {r₀ : State}
    (h : [] ⊆ ks) :
    OnlyRegs ks r₀ (State.logCommit s c outcome) ↔ OnlyRegs ks r₀ s :=
  (State.logCommit_regs s c outcome).step h

theorem State.dropCommit_regs (s : State) (c : Commit) :
    OnlyRegs [] s (State.dropCommit s c) := 
  .of_only (State.dropCommit_only s c) (by decide)

@[simp] theorem State.dropCommit_regsStep (s : State) (c : Commit) {ks : List Fld} {r₀ : State}
    (h : [] ⊆ ks) :
    OnlyRegs ks r₀ (State.dropCommit s c) ↔ OnlyRegs ks r₀ s :=
  (State.dropCommit_regs s c).step h

theorem State.endCommit_regs (s : State) (c : Commit) (status : Nat) (result : Nat) (outcome : Nat) :
    OnlyRegs [hcCqTailIndex c.ring, hcCqTailPhase c.ring, hcRingStatusInFlight c.ring, hcRingStatusIdle c.ring, hcRingStatusWaiting c.ring] s (State.endCommit s c status result outcome) := by
  simp [State.endCommit]

@[simp] theorem State.endCommit_regsStep (s : State) (c : Commit) (status : Nat) (result : Nat) (outcome : Nat) {ks : List Fld} {r₀ : State}
    (h : [hcCqTailIndex c.ring, hcCqTailPhase c.ring, hcRingStatusInFlight c.ring, hcRingStatusIdle c.ring, hcRingStatusWaiting c.ring] ⊆ ks) :
    OnlyRegs ks r₀ (State.endCommit s c status result outcome) ↔ OnlyRegs ks r₀ s :=
  (State.endCommit_regs s c status result outcome).step h

theorem State.journal_regs (s : State) (c : Commit) (j : JournalState) :
    OnlyRegs [] s (State.journal s c j) := 
  .of_only (State.journal_only s c j) (by decide)

@[simp] theorem State.journal_regsStep (s : State) (c : Commit) (j : JournalState) {ks : List Fld} {r₀ : State}
    (h : [] ⊆ ks) :
    OnlyRegs ks r₀ (State.journal s c j) ↔ OnlyRegs ks r₀ s :=
  (State.journal_regs s c j).step h

theorem State.thawAll_regs (s : State) (c : Commit) :
    OnlyRegs [mvTierReplKib, mvTierHomeKib, mvTableUsedRows, teTablesCount] s (State.thawAll s c) := by
  unfold State.thawAll
  simp
  refine OnlyRegs.foldlI _ _ (fun x a => ?_) (by simp)
  (repeat' split) <;> simp

@[simp] theorem State.thawAll_regsStep (s : State) (c : Commit) {ks : List Fld} {r₀ : State}
    (h : [mvTierReplKib, mvTierHomeKib, mvTableUsedRows, teTablesCount] ⊆ ks) :
    OnlyRegs ks r₀ (State.thawAll s c) ↔ OnlyRegs ks r₀ s :=
  (State.thawAll_regs s c).step h

theorem State.cancelCommit_regs (s : State) (c : Commit) (status : Nat) (outcome : Nat) :
    OnlyRegs [mvTierReplKib, mvTierHomeKib, mvTableUsedRows, teTablesCount, hcCqTailIndex c.ring, hcCqTailPhase c.ring, hcRingStatusInFlight c.ring, hcRingStatusIdle c.ring, hcRingStatusWaiting c.ring] s (State.cancelCommit s c status outcome) := by
  simp [State.cancelCommit]

@[simp] theorem State.cancelCommit_regsStep (s : State) (c : Commit) (status : Nat) (outcome : Nat) {ks : List Fld} {r₀ : State}
    (h : [mvTierReplKib, mvTierHomeKib, mvTableUsedRows, teTablesCount, hcCqTailIndex c.ring, hcCqTailPhase c.ring, hcRingStatusInFlight c.ring, hcRingStatusIdle c.ring, hcRingStatusWaiting c.ring] ⊆ ks) :
    OnlyRegs ks r₀ (State.cancelCommit s c status outcome) ↔ OnlyRegs ks r₀ s :=
  (State.cancelCommit_regs s c status outcome).step h

theorem State.clearDamaged_regs (s : State) (n : Nat) :
    OnlyRegs [igTableDamaged (n / 32)] s (State.clearDamaged s n) := by
  simp [State.clearDamaged]

@[simp] theorem State.clearDamaged_regsStep (s : State) (n : Nat) {ks : List Fld} {r₀ : State}
    (h : [igTableDamaged (n / 32)] ⊆ ks) :
    OnlyRegs ks r₀ (State.clearDamaged s n) ↔ OnlyRegs ks r₀ s :=
  (State.clearDamaged_regs s n).step h

theorem State.deleteTable_regs (s : State) (n : Nat) (ring : Nat) (tag : Nat) (tick : Tick) :
    OnlyRegs [hcCqTailIndex ring, hcCqTailPhase ring, hcRingStatusInFlight ring, hcRingStatusIdle ring, hcRingStatusWaiting ring, igTableDamaged (n / 32), mvTierReplKib, mvTierHomeKib, mvTableUsedRows, teTablesCount] s (State.deleteTable s n ring tag tick) := by
  unfold State.deleteTable
  (repeat' split) <;> simp

@[simp] theorem State.deleteTable_regsStep (s : State) (n : Nat) (ring : Nat) (tag : Nat) (tick : Tick) {ks : List Fld} {r₀ : State}
    (h : [hcCqTailIndex ring, hcCqTailPhase ring, hcRingStatusInFlight ring, hcRingStatusIdle ring, hcRingStatusWaiting ring, igTableDamaged (n / 32), mvTierReplKib, mvTierHomeKib, mvTableUsedRows, teTablesCount] ⊆ ks) :
    OnlyRegs ks r₀ (State.deleteTable s n ring tag tick) ↔ OnlyRegs ks r₀ s :=
  (State.deleteTable_regs s n ring tag tick).step h

theorem State.commitTable_regs (s : State) (n : Nat) (cuts : List Cut) :
    OnlyRegs [igTableDamaged (n / 32)] s (State.commitTable s n cuts) := by
  unfold State.commitTable
  (repeat' split) <;> simp

@[simp] theorem State.commitTable_regsStep (s : State) (n : Nat) (cuts : List Cut) {ks : List Fld} {r₀ : State}
    (h : [igTableDamaged (n / 32)] ⊆ ks) :
    OnlyRegs ks r₀ (State.commitTable s n cuts) ↔ OnlyRegs ks r₀ s :=
  (State.commitTable_regs s n cuts).step h

theorem State.replaceCommit_regs (s : State) (old : Commit) (new : Commit) :
    OnlyRegs [] s (State.replaceCommit s old new) := 
  .of_only (State.replaceCommit_only s old new) (by decide)

@[simp] theorem State.replaceCommit_regsStep (s : State) (old : Commit) (new : Commit) {ks : List Fld} {r₀ : State}
    (h : [] ⊆ ks) :
    OnlyRegs ks r₀ (State.replaceCommit s old new) ↔ OnlyRegs ks r₀ s :=
  (State.replaceCommit_regs s old new).step h

theorem State.setDue_regs (s : State) (c : Commit) (base : Tick) :
    OnlyRegs [] s (State.setDue s c base) := 
  .of_only (State.setDue_only s c base) (by decide)

@[simp] theorem State.setDue_regsStep (s : State) (c : Commit) (base : Tick) {ks : List Fld} {r₀ : State}
    (h : [] ⊆ ks) :
    OnlyRegs ks r₀ (State.setDue s c base) ↔ OnlyRegs ks r₀ s :=
  (State.setDue_regs s c base).step h

theorem State.versionsReady_regs (s : State) (c : Commit) :
    OnlyRegs [hcCqTailIndex c.ring, hcCqTailPhase c.ring, hcRingStatusInFlight c.ring, hcRingStatusIdle c.ring, hcRingStatusWaiting c.ring] s (State.versionsReady s c) := by
  unfold State.versionsReady
  (repeat' split) <;> simp

@[simp] theorem State.versionsReady_regsStep (s : State) (c : Commit) {ks : List Fld} {r₀ : State}
    (h : [hcCqTailIndex c.ring, hcCqTailPhase c.ring, hcRingStatusInFlight c.ring, hcRingStatusIdle c.ring, hcRingStatusWaiting c.ring] ⊆ ks) :
    OnlyRegs ks r₀ (State.versionsReady s c) ↔ OnlyRegs ks r₀ s :=
  (State.versionsReady_regs s c).step h

theorem State.fireCommits_regs (s : State) (line : Nat) (tick : Tick) :
    OnlyRegs [] s (State.fireCommits s line tick) := 
  .of_only (State.fireCommits_only s line tick) (by decide)

@[simp] theorem State.fireCommits_regsStep (s : State) (line : Nat) (tick : Tick) {ks : List Fld} {r₀ : State}
    (h : [] ⊆ ks) :
    OnlyRegs ks r₀ (State.fireCommits s line tick) ↔ OnlyRegs ks r₀ s :=
  (State.fireCommits_regs s line tick).step h

theorem State.unstart_regs (s : State) (c : Commit) :
    OnlyRegs [] s (State.unstart s c) := 
  .of_only (State.unstart_only s c) (by decide)

@[simp] theorem State.unstart_regsStep (s : State) (c : Commit) {ks : List Fld} {r₀ : State}
    (h : [] ⊆ ks) :
    OnlyRegs ks r₀ (State.unstart s c) ↔ OnlyRegs ks r₀ s :=
  (State.unstart_regs s c).step h

theorem State.settleJournal_regs (s : State) :
    OnlyRegs [] s (State.settleJournal s) := 
  .of_only (State.settleJournal_only s) (by decide)

@[simp] theorem State.settleJournal_regsStep (s : State) {ks : List Fld} {r₀ : State}
    (h : [] ⊆ ks) :
    OnlyRegs ks r₀ (State.settleJournal s) ↔ OnlyRegs ks r₀ s :=
  (State.settleJournal_regs s).step h

theorem State.cancelForReset_regs (s : State) (c : Commit) :
    OnlyRegs [mvTierReplKib, mvTierHomeKib, mvTableUsedRows, teTablesCount, hcCqTailIndex c.ring, hcCqTailPhase c.ring, hcRingStatusInFlight c.ring, hcRingStatusIdle c.ring, hcRingStatusWaiting c.ring] s (State.cancelForReset s c) := by
  simp [State.cancelForReset]

@[simp] theorem State.cancelForReset_regsStep (s : State) (c : Commit) {ks : List Fld} {r₀ : State}
    (h : [mvTierReplKib, mvTierHomeKib, mvTableUsedRows, teTablesCount, hcCqTailIndex c.ring, hcCqTailPhase c.ring, hcRingStatusInFlight c.ring, hcRingStatusIdle c.ring, hcRingStatusWaiting c.ring] ⊆ ks) :
    OnlyRegs ks r₀ (State.cancelForReset s c) ↔ OnlyRegs ks r₀ s :=
  (State.cancelForReset_regs s c).step h

end Sys2Proof.Machine
end

