-- ==== Sys2Proof/Laws/RegsHostPort.lean ====
section
/-!
SUPPORT. Which register fields the operations of HostPort.lean can change: one lemma for each.
-/
namespace Sys2Proof.Machine

theorem State.enterD3_regs (s : State) :
    OnlyRegs [] s (State.enterD3 s) := 
  .of_only (State.enterD3_only s) (by decide)

@[simp] theorem State.enterD3_regsStep (s : State) {ks : List Fld} {r₀ : State}
    (h : [] ⊆ ks) :
    OnlyRegs ks r₀ (State.enterD3 s) ↔ OnlyRegs ks r₀ s :=
  (State.enterD3_regs s).step h

theorem State.returnD0_regs (s : State) :
    OnlyRegs [] s (State.returnD0 s) := 
  .of_only (State.returnD0_only s) (by decide)

@[simp] theorem State.returnD0_regsStep (s : State) {ks : List Fld} {r₀ : State}
    (h : [] ⊆ ks) :
    OnlyRegs ks r₀ (State.returnD0 s) ↔ OnlyRegs ks r₀ s :=
  (State.returnD0_regs s).step h

theorem State.cfgWrite_regs (s : State) (i : CfgItem) (v : Nat) :
    OnlyRegs [] s (State.cfgWrite s i v) := 
  .of_only (State.cfgWrite_only s i v) (by decide)

@[simp] theorem State.cfgWrite_regsStep (s : State) (i : CfgItem) (v : Nat) {ks : List Fld} {r₀ : State}
    (h : [] ⊆ ks) :
    OnlyRegs ks r₀ (State.cfgWrite s i v) ↔ OnlyRegs ks r₀ s :=
  (State.cfgWrite_regs s i v).step h

theorem State.selectSource_regs (s : State) (v : Nat) :
    OnlyRegs [tbCtrlSrc, tbStatusHoldover] s (State.selectSource s v) := by
  simp [State.selectSource]

@[simp] theorem State.selectSource_regsStep (s : State) (v : Nat) {ks : List Fld} {r₀ : State}
    (h : [tbCtrlSrc, tbStatusHoldover] ⊆ ks) :
    OnlyRegs ks r₀ (State.selectSource s v) ↔ OnlyRegs ks r₀ s :=
  (State.selectSource_regs s v).step h

theorem State.writeLaneSer_regs (s : State) (p : Nat) (v : Nat) :
    OnlyRegs [] s (State.writeLaneSer s p v) := 
  .of_only (State.writeLaneSer_only s p v) (by decide)

@[simp] theorem State.writeLaneSer_regsStep (s : State) (p : Nat) (v : Nat) {ks : List Fld} {r₀ : State}
    (h : [] ⊆ ks) :
    OnlyRegs ks r₀ (State.writeLaneSer s p v) ↔ OnlyRegs ks r₀ s :=
  (State.writeLaneSer_regs s p v).step h

theorem State.writeMsix_regs (s : State) (off : Nat) (v : Nat) :
    OnlyRegs [] s (State.writeMsix s off v) := 
  .of_only (State.writeMsix_only s off v) (by decide)

@[simp] theorem State.writeMsix_regsStep (s : State) (off : Nat) (v : Nat) {ks : List Fld} {r₀ : State}
    (h : [] ⊆ ks) :
    OnlyRegs ks r₀ (State.writeMsix s off v) ↔ OnlyRegs ks r₀ s :=
  (State.writeMsix_regs s off v).step h

theorem State.wakeFor_regs (s : State) (off : Nat) :
    OnlyRegs [plPwrOn] s (State.wakeFor s off) := by
  unfold State.wakeFor
  (repeat' split) <;> simp

@[simp] theorem State.wakeFor_regsStep (s : State) (off : Nat) {ks : List Fld} {r₀ : State}
    (h : [plPwrOn] ⊆ ks) :
    OnlyRegs ks r₀ (State.wakeFor s off) ↔ OnlyRegs ks r₀ s :=
  (State.wakeFor_regs s off).step h

theorem State.dropWrite_regs (s : State) (off : Nat) :
    OnlyRegs [elFirst, elNext, elLost, elStatusAlertPend] s (State.dropWrite s off) := by
  simp [State.dropWrite]

@[simp] theorem State.dropWrite_regsStep (s : State) (off : Nat) {ks : List Fld} {r₀ : State}
    (h : [elFirst, elNext, elLost, elStatusAlertPend] ⊆ ks) :
    OnlyRegs ks r₀ (State.dropWrite s off) ↔ OnlyRegs ks r₀ s :=
  (State.dropWrite_regs s off).step h

theorem State.refusesWrite_regs (s : State) (off : Nat) (u₀ : State) (h : State.refusesWrite s off = some u₀) :
    OnlyRegs [elFirst, elNext, elLost, elStatusAlertPend] s u₀ := by
  unfold State.refusesWrite at h
  try dsimp only at h
  repeat' split at h
  all_goals first
    | (injection h with h; subst h; simp)
    | exact absurd h (by simp)

theorem State.disableRing_regs (s : State) (r : Nat) :
    OnlyRegs [hcRingCtrlEnable r, hcRingStatusEnabled r, hcRingStatusExpert r, hcRingStatusInFlight r, hcRingStatusIdle r, hcRingStatusWaiting r] s (State.disableRing s r) := by
  simp [State.disableRing]

@[simp] theorem State.disableRing_regsStep (s : State) (r : Nat) {ks : List Fld} {r₀ : State}
    (h : [hcRingCtrlEnable r, hcRingStatusEnabled r, hcRingStatusExpert r, hcRingStatusInFlight r, hcRingStatusIdle r, hcRingStatusWaiting r] ⊆ ks) :
    OnlyRegs ks r₀ (State.disableRing s r) ↔ OnlyRegs ks r₀ s :=
  (State.disableRing_regs s r).step h

theorem State.ringError_regs (s : State) (r : Nat) (code : Nat) :
    OnlyRegs [hcRingCtrlEnable r, hcRingStatusEnabled r, hcRingStatusExpert r, hcRingStatusInFlight r, hcRingStatusIdle r, hcRingStatusWaiting r, hcRingStatusError r, hcRingStatusErrCode r, elFirst, elNext, elLost, elStatusAlertPend] s (State.ringError s r code) := by
  simp [State.ringError]

@[simp] theorem State.ringError_regsStep (s : State) (r : Nat) (code : Nat) {ks : List Fld} {r₀ : State}
    (h : [hcRingCtrlEnable r, hcRingStatusEnabled r, hcRingStatusExpert r, hcRingStatusInFlight r, hcRingStatusIdle r, hcRingStatusWaiting r, hcRingStatusError r, hcRingStatusErrCode r, elFirst, elNext, elLost, elStatusAlertPend] ⊆ ks) :
    OnlyRegs ks r₀ (State.ringError s r code) ↔ OnlyRegs ks r₀ s :=
  (State.ringError_regs s r code).step h

theorem State.fetchEntry_regs (s : State) (r : Nat) (e : Sqe) :
    OnlyRegs [hcSqHead r] s (State.fetchEntry s r e) := by
  unfold State.fetchEntry
  try dsimp only
  (repeat' split) <;> (simp <;> (repeat' split) <;> simp)

@[simp] theorem State.fetchEntry_regsStep (s : State) (r : Nat) (e : Sqe) {ks : List Fld} {r₀ : State}
    (h : [hcSqHead r] ⊆ ks) :
    OnlyRegs ks r₀ (State.fetchEntry s r e) ↔ OnlyRegs ks r₀ s :=
  (State.fetchEntry_regs s r e).step h

theorem State.popEntry_regs (s : State) (r : Nat) :
    OnlyRegs [hcRingStatusInFlight r, hcRingStatusIdle r, hcRingStatusWaiting r] s (State.popEntry s r) := by
  simp [State.popEntry]

@[simp] theorem State.popEntry_regsStep (s : State) (r : Nat) {ks : List Fld} {r₀ : State}
    (h : [hcRingStatusInFlight r, hcRingStatusIdle r, hcRingStatusWaiting r] ⊆ ks) :
    OnlyRegs ks r₀ (State.popEntry s r) ↔ OnlyRegs ks r₀ s :=
  (State.popEntry_regs s r).step h

theorem State.beginEntry_regs (s : State) (r : Nat) (e : Sqe) :
    OnlyRegs [hcRingStatusInFlight r, hcRingStatusIdle r, hcRingStatusWaiting r] s (State.beginEntry s r e) := by
  simp [State.beginEntry]

@[simp] theorem State.beginEntry_regsStep (s : State) (r : Nat) (e : Sqe) {ks : List Fld} {r₀ : State}
    (h : [hcRingStatusInFlight r, hcRingStatusIdle r, hcRingStatusWaiting r] ⊆ ks) :
    OnlyRegs ks r₀ (State.beginEntry s r e) ↔ OnlyRegs ks r₀ s :=
  (State.beginEntry_regs s r e).step h

theorem State.failLive_regs (s : State) (r : Nat) (l : Live) :
    OnlyRegs [hcCqTailIndex r, hcCqTailPhase r, hcRingStatusInFlight r, hcRingStatusIdle r, hcRingStatusWaiting r] s (State.failLive s r l) := by
  simp [State.failLive]

@[simp] theorem State.failLive_regsStep (s : State) (r : Nat) (l : Live) {ks : List Fld} {r₀ : State}
    (h : [hcCqTailIndex r, hcCqTailPhase r, hcRingStatusInFlight r, hcRingStatusIdle r, hcRingStatusWaiting r] ⊆ ks) :
    OnlyRegs ks r₀ (State.failLive s r l) ↔ OnlyRegs ks r₀ s :=
  (State.failLive_regs s r l).step h

end Sys2Proof.Machine
end

