-- ==== Sys2Proof/Laws/RegsTiers.lean ====
section
/-!
SUPPORT. Which register fields the operations of Tiers.lean can change: one lemma for each.
-/
namespace Sys2Proof.Machine

theorem State.setNodes_regs (s : State) (l : List Node) :
    OnlyRegs [mvTierReplKib, mvTierHomeKib] s (State.setNodes s l) := by
  simp [State.setNodes]

@[simp] theorem State.setNodes_regsStep (s : State) (l : List Node) {ks : List Fld} {r₀ : State}
    (h : [mvTierReplKib, mvTierHomeKib] ⊆ ks) :
    OnlyRegs ks r₀ (State.setNodes s l) ↔ OnlyRegs ks r₀ s :=
  (State.setNodes_regs s l).step h

theorem State.writeBackNode_regs (s : State) (v : Node) :
    OnlyRegs [] s (State.writeBackNode s v) := 
  .of_only (State.writeBackNode_only s v) (by decide)

@[simp] theorem State.writeBackNode_regsStep (s : State) (v : Node) {ks : List Fld} {r₀ : State}
    (h : [] ⊆ ks) :
    OnlyRegs ks r₀ (State.writeBackNode s v) ↔ OnlyRegs ks r₀ s :=
  (State.writeBackNode_regs s v).step h

theorem State.promoteNode_regs (s : State) (x : Nat × Nat × Option Nat) :
    OnlyRegs [mvTierReplKib, mvTierHomeKib] s (State.promoteNode s x) := by
  unfold State.promoteNode
  try dsimp only
  (repeat' split) <;> (simp <;> (repeat' split) <;> simp)

@[simp] theorem State.promoteNode_regsStep (s : State) (x : Nat × Nat × Option Nat) {ks : List Fld} {r₀ : State}
    (h : [mvTierReplKib, mvTierHomeKib] ⊆ ks) :
    OnlyRegs ks r₀ (State.promoteNode s x) ↔ OnlyRegs ks r₀ s :=
  (State.promoteNode_regs s x).step h

theorem State.endWindow_regs (s : State) :
    OnlyRegs [mvRowsHeldAtEnd] s (State.endWindow s) := by
  simp [State.endWindow]

@[simp] theorem State.endWindow_regsStep (s : State) {ks : List Fld} {r₀ : State}
    (h : [mvRowsHeldAtEnd] ⊆ ks) :
    OnlyRegs ks r₀ (State.endWindow s) ↔ OnlyRegs ks r₀ s :=
  (State.endWindow_regs s).step h

end Sys2Proof.Machine
end

