-- ==== Sys2Proof/Laws/RegsMemory.lean ====
section
/-!
SUPPORT. Which register fields the operations of Memory.lean can change: one lemma for each.
-/
namespace Sys2Proof.Machine

theorem State.countStaging_regs (s : State) (pc : Nat) (bank : Nat) (row : Nat) :
    OnlyRegs [mcStageTrackOvf (pc / 4), mcStagePeak (pc / 4), mcStageOver (pc / 4), elFirst, elNext, elLost, elStatusAlertPend] s (State.countStaging s pc bank row) := by
  unfold State.countStaging
  try dsimp only
  (repeat' split) <;> (simp <;> (repeat' split) <;> simp)

@[simp] theorem State.countStaging_regsStep (s : State) (pc : Nat) (bank : Nat) (row : Nat) {ks : List Fld} {r₀ : State}
    (h : [mcStageTrackOvf (pc / 4), mcStagePeak (pc / 4), mcStageOver (pc / 4), elFirst, elNext, elLost, elStatusAlertPend] ⊆ ks) :
    OnlyRegs ks r₀ (State.countStaging s pc bank row) ↔ OnlyRegs ks r₀ s :=
  (State.countStaging_regs s pc bank row).step h

theorem State.afterAccess_regs (s : State) (r : MemReq) :
    OnlyRegs [mcPcQueueWq r.pc, mcPcQueueRq r.pc, mcPcQueueWqPeak r.pc, mcPcQueueRqPeak r.pc] s (State.afterAccess s r) := by
  simp [State.afterAccess]

@[simp] theorem State.afterAccess_regsStep (s : State) (r : MemReq) {ks : List Fld} {r₀ : State}
    (h : [mcPcQueueWq r.pc, mcPcQueueRq r.pc, mcPcQueueWqPeak r.pc, mcPcQueueRqPeak r.pc] ⊆ ks) :
    OnlyRegs ks r₀ (State.afterAccess s r) ↔ OnlyRegs ks r₀ s :=
  (State.afterAccess_regs s r).step h

theorem State.noteDebt_regs (s : State) (n : Nat) :
    OnlyRegs [mcPcRefreshDebt n] s (State.noteDebt s n) := by
  simp [State.noteDebt]

@[simp] theorem State.noteDebt_regsStep (s : State) (n : Nat) {ks : List Fld} {r₀ : State}
    (h : [mcPcRefreshDebt n] ⊆ ks) :
    OnlyRegs ks r₀ (State.noteDebt s n) ↔ OnlyRegs ks r₀ s :=
  (State.noteDebt_regs s n).step h

theorem State.refreshBank_regs (s : State) (n : Nat) (bank : Nat) :
    OnlyRegs [mcPcQueueWq n, mcPcQueueRq n, mcPcQueueWqPeak n, mcPcQueueRqPeak n, mcPcRefreshForced n, mcPcRefreshDebt n] s (State.refreshBank s n bank) := by
  simp [State.refreshBank]

@[simp] theorem State.refreshBank_regsStep (s : State) (n : Nat) (bank : Nat) {ks : List Fld} {r₀ : State}
    (h : [mcPcQueueWq n, mcPcQueueRq n, mcPcQueueWqPeak n, mcPcQueueRqPeak n, mcPcRefreshForced n, mcPcRefreshDebt n] ⊆ ks) :
    OnlyRegs ks r₀ (State.refreshBank s n bank) ↔ OnlyRegs ks r₀ s :=
  (State.refreshBank_regs s n bank).step h

theorem State.countLate_regs (s : State) (n : Nat) (e : MemEntry) :
    OnlyRegs [mcPcLate n] s (State.countLate s n e) := by
  simp [State.countLate]

@[simp] theorem State.countLate_regsStep (s : State) (n : Nat) (e : MemEntry) {ks : List Fld} {r₀ : State}
    (h : [mcPcLate n] ⊆ ks) :
    OnlyRegs ks r₀ (State.countLate s n e) ↔ OnlyRegs ks r₀ s :=
  (State.countLate_regs s n e).step h

theorem State.endHold_regs (s : State) (n : Nat) :
    OnlyRegs [mcPcStatusCalHold n, tcStatusCalActive, mvStatusCalActive, tcCalCountHolds] s (State.endHold s n) := by
  simp [State.endHold]

@[simp] theorem State.endHold_regsStep (s : State) (n : Nat) {ks : List Fld} {r₀ : State}
    (h : [mcPcStatusCalHold n, tcStatusCalActive, mvStatusCalActive, tcCalCountHolds] ⊆ ks) :
    OnlyRegs ks r₀ (State.endHold s n) ↔ OnlyRegs ks r₀ s :=
  (State.endHold_regs s n).step h

theorem State.syncFloor_regs (s : State) :
    OnlyRegs [] s (State.syncFloor s) := 
  .of_only (State.syncFloor_only s) (by decide)

@[simp] theorem State.syncFloor_regsStep (s : State) {ks : List Fld} {r₀ : State}
    (h : [] ⊆ ks) :
    OnlyRegs ks r₀ (State.syncFloor s) ↔ OnlyRegs ks r₀ s :=
  (State.syncFloor_regs s).step h

theorem State.movePartitions_regs (s : State) (which : Nat → Nat → Bool) :
    OnlyRegs [] s (State.movePartitions s which) := 
  .of_only (State.movePartitions_only s which) (by decide)

@[simp] theorem State.movePartitions_regsStep (s : State) (which : Nat → Nat → Bool) {ks : List Fld} {r₀ : State}
    (h : [] ⊆ ks) :
    OnlyRegs ks r₀ (State.movePartitions s which) ↔ OnlyRegs ks r₀ s :=
  (State.movePartitions_regs s which).step h

theorem State.leaveEngine_regs (s : State) (n : Nat) :
    OnlyRegs [] s (State.leaveEngine s n) := 
  .of_only (State.leaveEngine_only s n) (by decide)

@[simp] theorem State.leaveEngine_regsStep (s : State) (n : Nat) {ks : List Fld} {r₀ : State}
    (h : [] ⊆ ks) :
    OnlyRegs ks r₀ (State.leaveEngine s n) ↔ OnlyRegs ks r₀ s :=
  (State.leaveEngine_regs s n).step h

theorem State.wakeBenches_regs (s : State) :
    OnlyRegs [teBenchPowered, teBenchRunning, plPwrOn, plClkActive] s (State.wakeBenches s) := by
  simp [State.wakeBenches]

@[simp] theorem State.wakeBenches_regsStep (s : State) {ks : List Fld} {r₀ : State}
    (h : [teBenchPowered, teBenchRunning, plPwrOn, plClkActive] ⊆ ks) :
    OnlyRegs ks r₀ (State.wakeBenches s) ↔ OnlyRegs ks r₀ s :=
  (State.wakeBenches_regs s).step h

end Sys2Proof.Machine
end

