-- ==== Sys2Proof/Laws/RegsStaging.lean ====
section
/-!
SUPPORT. Which register fields the operations of Staging.lean can change: one lemma for each.
-/
namespace Sys2Proof.Machine

theorem State.refuseWindow_regs (s : State) (off : Nat) :
    OnlyRegs [hcStageDrop, elFirst, elNext, elLost, elStatusAlertPend] s (State.refuseWindow s off) := by
  simp [State.refuseWindow]

@[simp] theorem State.refuseWindow_regsStep (s : State) (off : Nat) {ks : List Fld} {r₀ : State}
    (h : [hcStageDrop, elFirst, elNext, elLost, elStatusAlertPend] ⊆ ks) :
    OnlyRegs ks r₀ (State.refuseWindow s off) ↔ OnlyRegs ks r₀ s :=
  (State.refuseWindow_regs s off).step h

end Sys2Proof.Machine
end

