-- ==== Sys2Proof/Laws/RegsMovers.lean ====
section
/-!
SUPPORT. Which register fields the operations of Movers.lean can change: one lemma for each.
-/
namespace Sys2Proof.Machine

theorem State.setChannel_regs (s : State) (c : Nat) (x : Channel) :
    OnlyRegs [] s (State.setChannel s c x) := 
  .of_only (State.setChannel_only s c x) (by decide)

@[simp] theorem State.setChannel_regsStep (s : State) (c : Nat) (x : Channel) {ks : List Fld} {r₀ : State}
    (h : [] ⊆ ks) :
    OnlyRegs ks r₀ (State.setChannel s c x) ↔ OnlyRegs ks r₀ s :=
  (State.setChannel_regs s c x).step h

theorem State.haltChannel_regs (s : State) (c : Nat) (status : Nat) (bytes : Nat) :
    OnlyRegs [bmChStatusState c, bmChStatusStatus c, bmChBytes c, bmCtrlLastErr, elFirst, elNext, elLost, elStatusAlertPend] s (State.haltChannel s c status bytes) := by
  simp [State.haltChannel]

@[simp] theorem State.haltChannel_regsStep (s : State) (c : Nat) (status : Nat) (bytes : Nat) {ks : List Fld} {r₀ : State}
    (h : [bmChStatusState c, bmChStatusStatus c, bmChBytes c, bmCtrlLastErr, elFirst, elNext, elLost, elStatusAlertPend] ⊆ ks) :
    OnlyRegs ks r₀ (State.haltChannel s c status bytes) ↔ OnlyRegs ks r₀ s :=
  (State.haltChannel_regs s c status bytes).step h

theorem State.takeShadow_regs (s : State) (c : Nat) (hops : Nat) :
    OnlyRegs [bmAcSrc c, bmAcDst c, bmAcCount c, bmAcModeOp c, bmAcModeSrcSpace c, bmAcModeDstSpace c, bmAcModeSrcW c, bmAcModeDstW c, bmAcModePulseDone c, bmAcModeStopOnMismatch c, bmAcFill c, bmAcNext c, bmChStatusShadowValid c, bmChHopsCount c, bmChBytes c, bmChStatusState c, bmChStatusStatus c, bmCtrlLastErr, elFirst, elNext, elLost, elStatusAlertPend] s (State.takeShadow s c hops) := by
  simp [State.takeShadow]

@[simp] theorem State.takeShadow_regsStep (s : State) (c : Nat) (hops : Nat) {ks : List Fld} {r₀ : State}
    (h : [bmAcSrc c, bmAcDst c, bmAcCount c, bmAcModeOp c, bmAcModeSrcSpace c, bmAcModeDstSpace c, bmAcModeSrcW c, bmAcModeDstW c, bmAcModePulseDone c, bmAcModeStopOnMismatch c, bmAcFill c, bmAcNext c, bmChStatusShadowValid c, bmChHopsCount c, bmChBytes c, bmChStatusState c, bmChStatusStatus c, bmCtrlLastErr, elFirst, elNext, elLost, elStatusAlertPend] ⊆ ks) :
    OnlyRegs ks r₀ (State.takeShadow s c hops) ↔ OnlyRegs ks r₀ s :=
  (State.takeShadow_regs s c hops).step h

theorem State.startChannel_regs (s : State) (c : Nat) :
    OnlyRegs [bmAcSrc c, bmAcDst c, bmAcCount c, bmAcModeOp c, bmAcModeSrcSpace c, bmAcModeDstSpace c, bmAcModeSrcW c, bmAcModeDstW c, bmAcModePulseDone c, bmAcModeStopOnMismatch c, bmAcFill c, bmAcNext c, bmChStatusShadowValid c, bmChHopsCount c, bmChBytes c, bmChStatusState c, bmChStatusStatus c, bmCtrlLastErr, elFirst, elNext, elLost, elStatusAlertPend, bmChStatusStartMissed c] s (State.startChannel s c) := by
  simp [State.startChannel]

@[simp] theorem State.startChannel_regsStep (s : State) (c : Nat) {ks : List Fld} {r₀ : State}
    (h : [bmAcSrc c, bmAcDst c, bmAcCount c, bmAcModeOp c, bmAcModeSrcSpace c, bmAcModeDstSpace c, bmAcModeSrcW c, bmAcModeDstW c, bmAcModePulseDone c, bmAcModeStopOnMismatch c, bmAcFill c, bmAcNext c, bmChStatusShadowValid c, bmChHopsCount c, bmChBytes c, bmChStatusState c, bmChStatusStatus c, bmCtrlLastErr, elFirst, elNext, elLost, elStatusAlertPend, bmChStatusStartMissed c] ⊆ ks) :
    OnlyRegs ks r₀ (State.startChannel s c) ↔ OnlyRegs ks r₀ s :=
  (State.startChannel_regs s c).step h

theorem State.loadShadow_regs (s : State) (c : Nat) (b : List Byte) :
    OnlyRegs [bmShSrc c, bmShDst c, bmShCount c, bmShModeOp c, bmShModeSrcSpace c, bmShModeDstSpace c, bmShModeSrcW c, bmShModeDstW c, bmShModePulseDone c, bmShModeStopOnMismatch c, bmShFill c, bmShNext c, bmChStatusShadowValid c] s (State.loadShadow s c b) := by
  simp [State.loadShadow]

@[simp] theorem State.loadShadow_regsStep (s : State) (c : Nat) (b : List Byte) {ks : List Fld} {r₀ : State}
    (h : [bmShSrc c, bmShDst c, bmShCount c, bmShModeOp c, bmShModeSrcSpace c, bmShModeDstSpace c, bmShModeSrcW c, bmShModeDstW c, bmShModePulseDone c, bmShModeStopOnMismatch c, bmShFill c, bmShNext c, bmChStatusShadowValid c] ⊆ ks) :
    OnlyRegs ks r₀ (State.loadShadow s c b) ↔ OnlyRegs ks r₀ s :=
  (State.loadShadow_regs s c b).step h

theorem State.pulseDone_regs (s : State) (c : Nat) :
    OnlyRegs [] s (State.pulseDone s c) := 
  .of_only (State.pulseDone_only s c) (by decide)

@[simp] theorem State.pulseDone_regsStep (s : State) (c : Nat) {ks : List Fld} {r₀ : State}
    (h : [] ⊆ ks) :
    OnlyRegs ks r₀ (State.pulseDone s c) ↔ OnlyRegs ks r₀ s :=
  (State.pulseDone_regs s c).step h

theorem State.afterDescriptor_regs (s : State) (c : Nat) :
    OnlyRegs [bmChStatusStatus c, bmChStatusState c, bmChBytes c, bmCtrlLastErr, elFirst, elNext, elLost, elStatusAlertPend, bmAcSrc c, bmAcDst c, bmAcCount c, bmAcModeOp c, bmAcModeSrcSpace c, bmAcModeDstSpace c, bmAcModeSrcW c, bmAcModeDstW c, bmAcModePulseDone c, bmAcModeStopOnMismatch c, bmAcFill c, bmAcNext c, bmChStatusShadowValid c, bmChHopsCount c] s (State.afterDescriptor s c) := by
  simp [State.afterDescriptor]

@[simp] theorem State.afterDescriptor_regsStep (s : State) (c : Nat) {ks : List Fld} {r₀ : State}
    (h : [bmChStatusStatus c, bmChStatusState c, bmChBytes c, bmCtrlLastErr, elFirst, elNext, elLost, elStatusAlertPend, bmAcSrc c, bmAcDst c, bmAcCount c, bmAcModeOp c, bmAcModeSrcSpace c, bmAcModeDstSpace c, bmAcModeSrcW c, bmAcModeDstW c, bmAcModePulseDone c, bmAcModeStopOnMismatch c, bmAcFill c, bmAcNext c, bmChStatusShadowValid c, bmChHopsCount c] ⊆ ks) :
    OnlyRegs ks r₀ (State.afterDescriptor s c) ↔ OnlyRegs ks r₀ s :=
  (State.afterDescriptor_regs s c).step h

theorem State.endOperation_regs (s : State) (c : Nat) (n : Nat) (stop : Option (Nat × Nat)) :
    OnlyRegs [bmChBytes c, bmChStatusStatus c, bmChStatusState c, bmCtrlLastErr, elFirst, elNext, elLost, elStatusAlertPend, bmAcSrc c, bmAcDst c, bmAcCount c, bmAcModeOp c, bmAcModeSrcSpace c, bmAcModeDstSpace c, bmAcModeSrcW c, bmAcModeDstW c, bmAcModePulseDone c, bmAcModeStopOnMismatch c, bmAcFill c, bmAcNext c, bmChStatusShadowValid c, bmChHopsCount c] s (State.endOperation s c n stop) := by
  unfold State.endOperation
  (repeat' split) <;> simp

@[simp] theorem State.endOperation_regsStep (s : State) (c : Nat) (n : Nat) (stop : Option (Nat × Nat)) {ks : List Fld} {r₀ : State}
    (h : [bmChBytes c, bmChStatusStatus c, bmChStatusState c, bmCtrlLastErr, elFirst, elNext, elLost, elStatusAlertPend, bmAcSrc c, bmAcDst c, bmAcCount c, bmAcModeOp c, bmAcModeSrcSpace c, bmAcModeDstSpace c, bmAcModeSrcW c, bmAcModeDstW c, bmAcModePulseDone c, bmAcModeStopOnMismatch c, bmAcFill c, bmAcNext c, bmChStatusShadowValid c, bmChHopsCount c] ⊆ ks) :
    OnlyRegs ks r₀ (State.endOperation s c n stop) ↔ OnlyRegs ks r₀ s :=
  (State.endOperation_regs s c n stop).step h

end Sys2Proof.Machine
end

