-- ==== Sys2Proof/Laws/RegsTrust.lean ====
section
/-!
SUPPORT. Which register fields the operations of Trust.lean can change: one lemma for each.
-/
namespace Sys2Proof.Machine

theorem State.senseWords_regs (s : State) :
    OnlyRegs [fzLocksBits] s (State.senseWords s) := by
  simp [State.senseWords]

@[simp] theorem State.senseWords_regsStep (s : State) {ks : List Fld} {r₀ : State}
    (h : [fzLocksBits] ⊆ ks) :
    OnlyRegs ks r₀ (State.senseWords s) ↔ OnlyRegs ks r₀ s :=
  (State.senseWords_regs s).step h

theorem State.checkFuses_regs (s : State) (patchMatches : Bool) :
    OnlyRegs [fzRegionState, fzKeysUsable, fzKeysRevoked, fzKeysMarginal, fzKeysSealed, fzRollbackValue, fzCloseVendor, fzCloseCustomer, fzMarginalCount, fzMarginalRegions, fzMarginalFirstWord, fzStatusBootFault, fzStatusPatchRejected, fzStatusMarginalTrim, elFirst, elNext, elLost, elStatusAlertPend] s (State.checkFuses s patchMatches) := by
  simp [State.checkFuses]

@[simp] theorem State.checkFuses_regsStep (s : State) (patchMatches : Bool) {ks : List Fld} {r₀ : State}
    (h : [fzRegionState, fzKeysUsable, fzKeysRevoked, fzKeysMarginal, fzKeysSealed, fzRollbackValue, fzCloseVendor, fzCloseCustomer, fzMarginalCount, fzMarginalRegions, fzMarginalFirstWord, fzStatusBootFault, fzStatusPatchRejected, fzStatusMarginalTrim, elFirst, elNext, elLost, elStatusAlertPend] ⊆ ks) :
    OnlyRegs ks r₀ (State.checkFuses s patchMatches) ↔ OnlyRegs ks r₀ s :=
  (State.checkFuses_regs s patchMatches).step h

theorem State.stopPulse_regs (s : State) :
    OnlyRegs [] s (State.stopPulse s) := 
  .of_only (State.stopPulse_only s) (by decide)

@[simp] theorem State.stopPulse_regsStep (s : State) {ks : List Fld} {r₀ : State}
    (h : [] ⊆ ks) :
    OnlyRegs ks r₀ (State.stopPulse s) ↔ OnlyRegs ks r₀ s :=
  (State.stopPulse_regs s).step h

theorem State.blow_regs (s : State) (w : Nat) (bits : Nat) :
    OnlyRegs [] s (State.blow s w bits) := 
  .of_only (State.blow_only s w bits) (by decide)

@[simp] theorem State.blow_regsStep (s : State) (w : Nat) (bits : Nat) {ks : List Fld} {r₀ : State}
    (h : [] ⊆ ks) :
    OnlyRegs ks r₀ (State.blow s w bits) ↔ OnlyRegs ks r₀ s :=
  (State.blow_regs s w bits).step h

theorem State.blowAll_regs (s : State) (a1 : List (Nat × Nat)) :
    OnlyRegs [] s (State.blowAll s a1) := 
  .of_only (State.blowAll_only s a1) (by decide)

@[simp] theorem State.blowAll_regsStep (s : State) (a1 : List (Nat × Nat)) {ks : List Fld} {r₀ : State}
    (h : [] ⊆ ks) :
    OnlyRegs ks r₀ (State.blowAll s a1) ↔ OnlyRegs ks r₀ s :=
  (State.blowAll_regs s a1).step h

theorem State.setProgWord_regs (s : State) (w : Option Nat) :
    OnlyRegs [fzProgWord] s (State.setProgWord s w) := by
  unfold State.setProgWord
  (repeat' split) <;> simp

@[simp] theorem State.setProgWord_regsStep (s : State) (w : Option Nat) {ks : List Fld} {r₀ : State}
    (h : [fzProgWord] ⊆ ks) :
    OnlyRegs ks r₀ (State.setProgWord s w) ↔ OnlyRegs ks r₀ s :=
  (State.setProgWord_regs s w).step h

theorem State.fuseDone_regs (s : State) (e : Sqe) (status : Nat) (word : Option Nat) (result : Nat) :
    OnlyRegs [fzProgBusy, fzProgStatus, fzProgWord, hcCqTailIndex e.ring, hcCqTailPhase e.ring, hcRingStatusInFlight e.ring, hcRingStatusIdle e.ring, hcRingStatusWaiting e.ring] s (State.fuseDone s e status word result) := by
  simp [State.fuseDone]

@[simp] theorem State.fuseDone_regsStep (s : State) (e : Sqe) (status : Nat) (word : Option Nat) (result : Nat) {ks : List Fld} {r₀ : State}
    (h : [fzProgBusy, fzProgStatus, fzProgWord, hcCqTailIndex e.ring, hcCqTailPhase e.ring, hcRingStatusInFlight e.ring, hcRingStatusIdle e.ring, hcRingStatusWaiting e.ring] ⊆ ks) :
    OnlyRegs ks r₀ (State.fuseDone s e status word result) ↔ OnlyRegs ks r₀ s :=
  (State.fuseDone_regs s e status word result).step h

theorem State.resumeJob_regs (s : State) :
    OnlyRegs [] s (State.resumeJob s) := 
  .of_only (State.resumeJob_only s) (by decide)

@[simp] theorem State.resumeJob_regsStep (s : State) {ks : List Fld} {r₀ : State}
    (h : [] ⊆ ks) :
    OnlyRegs ks r₀ (State.resumeJob s) ↔ OnlyRegs ks r₀ s :=
  (State.resumeJob_regs s).step h

theorem State.resense_regs (s : State) (r : Resense) :
    OnlyRegs [fzResenseStatMarginal, fzResenseStatDiffer, fzResenseStatUnstable, elFirst, elNext, elLost, elStatusAlertPend] s (State.resense s r) := by
  simp [State.resense]

@[simp] theorem State.resense_regsStep (s : State) (r : Resense) {ks : List Fld} {r₀ : State}
    (h : [fzResenseStatMarginal, fzResenseStatDiffer, fzResenseStatUnstable, elFirst, elNext, elLost, elStatusAlertPend] ⊆ ks) :
    OnlyRegs ks r₀ (State.resense s r) ↔ OnlyRegs ks r₀ s :=
  (State.resense_regs s r).step h

theorem State.storeSlot_regs (s : State) (k : Nat) (i : FwImage) :
    OnlyRegs [] s (State.storeSlot s k i) := 
  .of_only (State.storeSlot_only s k i) (by decide)

@[simp] theorem State.storeSlot_regsStep (s : State) (k : Nat) (i : FwImage) {ks : List Fld} {r₀ : State}
    (h : [] ⊆ ks) :
    OnlyRegs ks r₀ (State.storeSlot s k i) ↔ OnlyRegs ks r₀ s :=
  (State.storeSlot_regs s k i).step h

theorem State.mailboxRefuse_regs (s : State) (slot : Nat) (kind : Nat) :
    OnlyRegs [fzStatusMbxDenied, elFirst, elNext, elLost, elStatusAlertPend] s (State.mailboxRefuse s slot kind) := by
  simp [State.mailboxRefuse]

@[simp] theorem State.mailboxRefuse_regsStep (s : State) (slot : Nat) (kind : Nat) {ks : List Fld} {r₀ : State}
    (h : [fzStatusMbxDenied, elFirst, elNext, elLost, elStatusAlertPend] ⊆ ks) :
    OnlyRegs ks r₀ (State.mailboxRefuse s slot kind) ↔ OnlyRegs ks r₀ s :=
  (State.mailboxRefuse_regs s slot kind).step h

end Sys2Proof.Machine
end

