-- ==== Sys2Proof/Laws/RegsThermal.lean ====
section
/-!
SUPPORT. Which register fields the operations of Thermal.lean can change: one lemma for each.
-/
namespace Sys2Proof.Machine

theorem State.setSensor_regs (s : State) (n : Nat) (x : Sensor) :
    OnlyRegs [] s (State.setSensor s n x) := 
  .of_only (State.setSensor_only s n x) (by decide)

@[simp] theorem State.setSensor_regsStep (s : State) (n : Nat) (x : Sensor) {ks : List Fld} {r₀ : State}
    (h : [] ⊆ ks) :
    OnlyRegs ks r₀ (State.setSensor s n x) ↔ OnlyRegs ks r₀ s :=
  (State.setSensor_regs s n x).step h

theorem State.setLayer_regs (s : State) (l : Nat) (x : Layer) :
    OnlyRegs [] s (State.setLayer s l x) := 
  .of_only (State.setLayer_only s l x) (by decide)

@[simp] theorem State.setLayer_regsStep (s : State) (l : Nat) (x : Layer) {ks : List Fld} {r₀ : State}
    (h : [] ⊆ ks) :
    OnlyRegs ks r₀ (State.setLayer s l x) ↔ OnlyRegs ks r₀ s :=
  (State.setLayer_regs s l x).step h

theorem State.reportQuenchEnd_regs (s : State) :
    OnlyRegs [elFirst, elNext, elLost, elStatusAlertPend] s (State.reportQuenchEnd s) := by
  simp [State.reportQuenchEnd]

@[simp] theorem State.reportQuenchEnd_regsStep (s : State) {ks : List Fld} {r₀ : State}
    (h : [elFirst, elNext, elLost, elStatusAlertPend] ⊆ ks) :
    OnlyRegs ks r₀ (State.reportQuenchEnd s) ↔ OnlyRegs ks r₀ s :=
  (State.reportQuenchEnd_regs s).step h

theorem State.sampleSensor_regs (s : State) (i : SensorInput) :
    OnlyRegs [thAlert, thSuspectCount] s (State.sampleSensor s i) := by
  simp [State.sampleSensor]

@[simp] theorem State.sampleSensor_regsStep (s : State) (i : SensorInput) {ks : List Fld} {r₀ : State}
    (h : [thAlert, thSuspectCount] ⊆ ks) :
    OnlyRegs ks r₀ (State.sampleSensor s i) ↔ OnlyRegs ks r₀ s :=
  (State.sampleSensor_regs s i).step h

theorem State.sampleModel_regs (s : State) (x : ThermalInput) :
    OnlyRegs [] s (State.sampleModel s x) := 
  .of_only (State.sampleModel_only s x) (by decide)

@[simp] theorem State.sampleModel_regsStep (s : State) (x : ThermalInput) {ks : List Fld} {r₀ : State}
    (h : [] ⊆ ks) :
    OnlyRegs ks r₀ (State.sampleModel s x) ↔ OnlyRegs ks r₀ s :=
  (State.sampleModel_regs s x).step h

theorem State.sampleLayers_regs (s : State) :
    OnlyRegs [] s (State.sampleLayers s) := 
  .of_only (State.sampleLayers_only s) (by decide)

@[simp] theorem State.sampleLayers_regsStep (s : State) {ks : List Fld} {r₀ : State}
    (h : [] ⊆ ks) :
    OnlyRegs ks r₀ (State.sampleLayers s) ↔ OnlyRegs ks r₀ s :=
  (State.sampleLayers_regs s).step h

theorem State.reportSensor_regs (old : State) (s : State) (i : SensorInput) :
    OnlyRegs [elFirst, elNext, elLost, elStatusAlertPend] s (State.reportSensor old s i) := by
  simp [State.reportSensor]

@[simp] theorem State.reportSensor_regsStep (old : State) (s : State) (i : SensorInput) {ks : List Fld} {r₀ : State}
    (h : [elFirst, elNext, elLost, elStatusAlertPend] ⊆ ks) :
    OnlyRegs ks r₀ (State.reportSensor old s i) ↔ OnlyRegs ks r₀ s :=
  (State.reportSensor_regs old s i).step h

end Sys2Proof.Machine
end

