-- ==== Sys2Proof/Laws/RegsClocks.lean ====
section
/-!
SUPPORT. Which register fields the operations of Clocks.lean can change: one lemma for each.
-/
namespace Sys2Proof.Machine

theorem State.failRequest_regs (s : State) (r : Req) :
    OnlyRegs [rxFree r.port (reqChannel r), qmStatusSnapPending, rlEgressBytes r.port] s (State.failRequest s r) := by
  simp [State.failRequest]

@[simp] theorem State.failRequest_regsStep (s : State) (r : Req) {ks : List Fld} {r₀ : State}
    (h : [rxFree r.port (reqChannel r), qmStatusSnapPending, rlEgressBytes r.port] ⊆ ks) :
    OnlyRegs ks r₀ (State.failRequest s r) ↔ OnlyRegs ks r₀ s :=
  (State.failRequest_regs s r).step h

theorem State.undoSwitch_regs (s : State) (d : Nat) :
    OnlyRegs [tbStatusHoldover, rlLinkStatusClkLocal (d - 4)] s (State.undoSwitch s d) := by
  simp [State.undoSwitch]

@[simp] theorem State.undoSwitch_regsStep (s : State) (d : Nat) {ks : List Fld} {r₀ : State}
    (h : [tbStatusHoldover, rlLinkStatusClkLocal (d - 4)] ⊆ ks) :
    OnlyRegs ks r₀ (State.undoSwitch s d) ↔ OnlyRegs ks r₀ s :=
  (State.undoSwitch_regs s d).step h

theorem State.engineReloaded_regs (s : State) (b : Nat) :
    OnlyRegs [] s (State.engineReloaded s b) := 
  .of_only (State.engineReloaded_only s b) (by decide)

@[simp] theorem State.engineReloaded_regsStep (s : State) (b : Nat) {ks : List Fld} {r₀ : State}
    (h : [] ⊆ ks) :
    OnlyRegs ks r₀ (State.engineReloaded s b) ↔ OnlyRegs ks r₀ s :=
  (State.engineReloaded_regs s b).step h

theorem State.tick_regs (s : State) :
    OnlyRegs [] s (State.tick s) := 
  .of_only (State.tick_only s) (by decide)

@[simp] theorem State.tick_regsStep (s : State) {ks : List Fld} {r₀ : State}
    (h : [] ⊆ ks) :
    OnlyRegs ks r₀ (State.tick s) ↔ OnlyRegs ks r₀ s :=
  (State.tick_regs s).step h

theorem State.measure_regs (s : State) (target : Int) (at' : Int) (interval : Int) :
    OnlyRegs [tbStatusOffset, tbRateCorr, tbStatusSlewing, tbStatusLocked, tbStatusHoldover, tbStatusStepped] s (State.measure s target at' interval) := by
  simp [State.measure]

@[simp] theorem State.measure_regsStep (s : State) (target : Int) (at' : Int) (interval : Int) {ks : List Fld} {r₀ : State}
    (h : [tbStatusOffset, tbRateCorr, tbStatusSlewing, tbStatusLocked, tbStatusHoldover, tbStatusStepped] ⊆ ks) :
    OnlyRegs ks r₀ (State.measure s target at' interval) ↔ OnlyRegs ks r₀ s :=
  (State.measure_regs s target at' interval).step h

theorem State.holdover_regs (s : State) :
    OnlyRegs [tbStatusHoldover] s (State.holdover s) := by
  simp [State.holdover]

@[simp] theorem State.holdover_regsStep (s : State) {ks : List Fld} {r₀ : State}
    (h : [tbStatusHoldover] ⊆ ks) :
    OnlyRegs ks r₀ (State.holdover s) ↔ OnlyRegs ks r₀ s :=
  (State.holdover_regs s).step h

end Sys2Proof.Machine
end

