-- ==== Sys2Proof/Laws/RegsIntegrity.lean ====
section
/-!
SUPPORT. Which register fields the operations of Integrity.lean can change: one lemma for each.
-/
namespace Sys2Proof.Machine

theorem State.requestRetire_regs (s : State) (pc : Nat) (bank : Nat) :
    OnlyRegs [elFirst, elNext, elLost, elStatusAlertPend] s (State.requestRetire s pc bank) := by
  simp [State.requestRetire]

@[simp] theorem State.requestRetire_regsStep (s : State) (pc : Nat) (bank : Nat) {ks : List Fld} {r₀ : State}
    (h : [elFirst, elNext, elLost, elStatusAlertPend] ⊆ ks) :
    OnlyRegs ks r₀ (State.requestRetire s pc bank) ↔ OnlyRegs ks r₀ s :=
  (State.requestRetire_regs s pc bank).step h

theorem State.noteUe_regs (s : State) (pc : Nat) (bank : Nat) (row : Nat) :
    OnlyRegs [elFirst, elNext, elLost, elStatusAlertPend] s (State.noteUe s pc bank row) := by
  simp [State.noteUe]

@[simp] theorem State.noteUe_regsStep (s : State) (pc : Nat) (bank : Nat) (row : Nat) {ks : List Fld} {r₀ : State}
    (h : [elFirst, elNext, elLost, elStatusAlertPend] ⊆ ks) :
    OnlyRegs ks r₀ (State.noteUe s pc bank row) ↔ OnlyRegs ks r₀ s :=
  (State.noteUe_regs s pc bank row).step h

theorem State.moveRegionRow_regs (s : State) (old : RowAt) :
    OnlyRegs [] s (State.moveRegionRow s old) := 
  .of_only (State.moveRegionRow_only s old) (by decide)

@[simp] theorem State.moveRegionRow_regsStep (s : State) (old : RowAt) {ks : List Fld} {r₀ : State}
    (h : [] ⊆ ks) :
    OnlyRegs ks r₀ (State.moveRegionRow s old) ↔ OnlyRegs ks r₀ s :=
  (State.moveRegionRow_regs s old).step h

theorem State.emptyBank_regs (s : State) (pc : Nat) (bank : Nat) :
    OnlyRegs [] s (State.emptyBank s pc bank) := 
  .of_only (State.emptyBank_only s pc bank) (by decide)

@[simp] theorem State.emptyBank_regsStep (s : State) (pc : Nat) (bank : Nat) {ks : List Fld} {r₀ : State}
    (h : [] ⊆ ks) :
    OnlyRegs ks r₀ (State.emptyBank s pc bank) ↔ OnlyRegs ks r₀ s :=
  (State.emptyBank_regs s pc bank).step h

theorem State.setBucket_regs (s : State) (u : Nat) (b : Bucket) :
    OnlyRegs [] s (State.setBucket s u b) := 
  .of_only (State.setBucket_only s u b) (by decide)

@[simp] theorem State.setBucket_regsStep (s : State) (u : Nat) (b : Bucket) {ks : List Fld} {r₀ : State}
    (h : [] ⊆ ks) :
    OnlyRegs ks r₀ (State.setBucket s u b) ↔ OnlyRegs ks r₀ s :=
  (State.setBucket_regs s u b).step h

theorem State.overflowed_regs (s : State) (u : Nat) (banks : Map Nat) :
    OnlyRegs [elFirst, elNext, elLost, elStatusAlertPend, igSliceMark] s (State.overflowed s u banks) := by
  simp [State.overflowed]

@[simp] theorem State.overflowed_regsStep (s : State) (u : Nat) (banks : Map Nat) {ks : List Fld} {r₀ : State}
    (h : [elFirst, elNext, elLost, elStatusAlertPend, igSliceMark] ⊆ ks) :
    OnlyRegs ks r₀ (State.overflowed s u banks) ↔ OnlyRegs ks r₀ s :=
  (State.overflowed_regs s u banks).step h

theorem State.addError_regs (s : State) (w : MemWord) :
    OnlyRegs [igBktOvf (w.unit / 32), elFirst, elNext, elLost, elStatusAlertPend, igSliceMark] s (State.addError s w) := by
  simp [State.addError]

@[simp] theorem State.addError_regsStep (s : State) (w : MemWord) {ks : List Fld} {r₀ : State}
    (h : [igBktOvf (w.unit / 32), elFirst, elNext, elLost, elStatusAlertPend, igSliceMark] ⊆ ks) :
    OnlyRegs ks r₀ (State.addError s w) ↔ OnlyRegs ks r₀ s :=
  (State.addError_regs s w).step h

theorem State.countCe_regs (s : State) (w : MemWord) :
    OnlyRegs [igCe, igBktOvf (w.unit / 32), elFirst, elNext, elLost, elStatusAlertPend, igSliceMark] s (State.countCe s w) := by
  simp [State.countCe]

@[simp] theorem State.countCe_regsStep (s : State) (w : MemWord) {ks : List Fld} {r₀ : State}
    (h : [igCe, igBktOvf (w.unit / 32), elFirst, elNext, elLost, elStatusAlertPend, igSliceMark] ⊆ ks) :
    OnlyRegs ks r₀ (State.countCe s w) ↔ OnlyRegs ks r₀ s :=
  (State.countCe_regs s w).step h

theorem State.rewritten_regs (s : State) (w : MemWord) :
    OnlyRegs [fxCorrected] s (State.rewritten s w) := by
  simp [State.rewritten]

@[simp] theorem State.rewritten_regsStep (s : State) (w : MemWord) {ks : List Fld} {r₀ : State}
    (h : [fxCorrected] ⊆ ks) :
    OnlyRegs ks r₀ (State.rewritten s w) ↔ OnlyRegs ks r₀ s :=
  (State.rewritten_regs s w).step h

theorem State.onQueue_regs (s : State) (q : Nat) (f : Queue → Queue) :
    OnlyRegs [] s (State.onQueue s q f) := 
  .of_only (State.onQueue_only s q f) (by decide)

@[simp] theorem State.onQueue_regsStep (s : State) (q : Nat) (f : Queue → Queue) {ks : List Fld} {r₀ : State}
    (h : [] ⊆ ks) :
    OnlyRegs ks r₀ (State.onQueue s q f) ↔ OnlyRegs ks r₀ s :=
  (State.onQueue_regs s q f).step h

theorem State.onTable_regs (s : State) (n : Nat) (f : Table → Table) :
    OnlyRegs [] s (State.onTable s n f) := 
  .of_only (State.onTable_only s n f) (by decide)

@[simp] theorem State.onTable_regsStep (s : State) (n : Nat) (f : Table → Table) {ks : List Fld} {r₀ : State}
    (h : [] ⊆ ks) :
    OnlyRegs ks r₀ (State.onTable s n f) ↔ OnlyRegs ks r₀ s :=
  (State.onTable_regs s n f).step h

theorem State.tableDamaged_regs (s : State) (n : Nat) (w : MemWord) :
    OnlyRegs [igTableDamaged (n / 32), elFirst, elNext, elLost, elStatusAlertPend] s (State.tableDamaged s n w) := by
  simp [State.tableDamaged]

@[simp] theorem State.tableDamaged_regsStep (s : State) (n : Nat) (w : MemWord) {ks : List Fld} {r₀ : State}
    (h : [igTableDamaged (n / 32), elFirst, elNext, elLost, elStatusAlertPend] ⊆ ks) :
    OnlyRegs ks r₀ (State.tableDamaged s n w) ↔ OnlyRegs ks r₀ s :=
  (State.tableDamaged_regs s n w).step h

theorem State.badNode_regs (s : State) (n : Nat) (key : List Byte) (ofMirror : Bool) (w : MemWord) :
    OnlyRegs [igTableDamaged (n / 32), elFirst, elNext, elLost, elStatusAlertPend] s (State.badNode s n key ofMirror w) := by
  unfold State.badNode
  (repeat' split) <;> simp

@[simp] theorem State.badNode_regsStep (s : State) (n : Nat) (key : List Byte) (ofMirror : Bool) (w : MemWord) {ks : List Fld} {r₀ : State}
    (h : [igTableDamaged (n / 32), elFirst, elNext, elLost, elStatusAlertPend] ⊆ ks) :
    OnlyRegs ks r₀ (State.badNode s n key ofMirror w) ↔ OnlyRegs ks r₀ s :=
  (State.badNode_regs s n key ofMirror w).step h

theorem State.spoilEgress_regs (s : State) (p : Nat) :
    OnlyRegs [] s (State.spoilEgress s p) := 
  .of_only (State.spoilEgress_only s p) (by decide)

@[simp] theorem State.spoilEgress_regsStep (s : State) (p : Nat) {ks : List Fld} {r₀ : State}
    (h : [] ⊆ ks) :
    OnlyRegs ks r₀ (State.spoilEgress s p) ↔ OnlyRegs ks r₀ s :=
  (State.spoilEgress_regs s p).step h

theorem State.spoilIngress_regs (s : State) (p : Nat) :
    OnlyRegs [rlCrcCorrupt p] s (State.spoilIngress s p) := by
  unfold State.spoilIngress
  try dsimp only
  (repeat' split) <;> (simp <;> (repeat' split) <;> simp)

@[simp] theorem State.spoilIngress_regsStep (s : State) (p : Nat) {ks : List Fld} {r₀ : State}
    (h : [rlCrcCorrupt p] ⊆ ks) :
    OnlyRegs ks r₀ (State.spoilIngress s p) ↔ OnlyRegs ks r₀ s :=
  (State.spoilIngress_regs s p).step h

theorem State.restartOp_regs (s : State) (n : Nat) :
    OnlyRegs (controllerRegs ++ [teDramReads, teMirrorSaves]) s (State.restartOp s n) := by
  unfold State.restartOp
  (repeat' split) <;> simp

@[simp] theorem State.restartOp_regsStep (s : State) (n : Nat) {ks : List Fld} {r₀ : State}
    (h : (controllerRegs ++ [teDramReads, teMirrorSaves]) ⊆ ks) :
    OnlyRegs ks r₀ (State.restartOp s n) ↔ OnlyRegs ks r₀ s :=
  (State.restartOp_regs s n).step h

theorem State.pausePlacing_regs (s : State) :
    OnlyRegs [] s (State.pausePlacing s) := 
  .of_only (State.pausePlacing_only s) (by decide)

@[simp] theorem State.pausePlacing_regsStep (s : State) {ks : List Fld} {r₀ : State}
    (h : [] ⊆ ks) :
    OnlyRegs ks r₀ (State.pausePlacing s) ↔ OnlyRegs ks r₀ s :=
  (State.pausePlacing_regs s).step h

theorem State.spoilQueued_regs (s : State) (n : Nat) (k : Nat) (i : Nat) :
    OnlyRegs [mcPcQueueWq n, mcPcQueueRq n, mcPcQueueWqPeak n, mcPcQueueRqPeak n] s (State.spoilQueued s n k i) := by
  simp [State.spoilQueued]

@[simp] theorem State.spoilQueued_regsStep (s : State) (n : Nat) (k : Nat) (i : Nat) {ks : List Fld} {r₀ : State}
    (h : [mcPcQueueWq n, mcPcQueueRq n, mcPcQueueWqPeak n, mcPcQueueRqPeak n] ⊆ ks) :
    OnlyRegs ks r₀ (State.spoilQueued s n k i) ↔ OnlyRegs ks r₀ s :=
  (State.spoilQueued_regs s n k i).step h

theorem State.markBad_regs (s : State) (w : MemWord) :
    OnlyRegs [] s (State.markBad s w) := 
  .of_only (State.markBad_only s w) (by decide)

@[simp] theorem State.markBad_regsStep (s : State) (w : MemWord) {ks : List Fld} {r₀ : State}
    (h : [] ⊆ ks) :
    OnlyRegs ks r₀ (State.markBad s w) ↔ OnlyRegs ks r₀ s :=
  (State.markBad_regs s w).step h

theorem State.countUe_regs (s : State) (w : MemWord) :
    OnlyRegs [igUe, igStatusUeSeen, elFirst, elNext, elLost, elStatusAlertPend] s (State.countUe s w) := by
  simp [State.countUe]

@[simp] theorem State.countUe_regsStep (s : State) (w : MemWord) {ks : List Fld} {r₀ : State}
    (h : [igUe, igStatusUeSeen, elFirst, elNext, elLost, elStatusAlertPend] ⊆ ks) :
    OnlyRegs ks r₀ (State.countUe s w) ↔ OnlyRegs ks r₀ s :=
  (State.countUe_regs s w).step h

theorem State.countPoison_regs (s : State) :
    OnlyRegs [igPoisonReads] s (State.countPoison s) := by
  simp [State.countPoison]

@[simp] theorem State.countPoison_regsStep (s : State) {ks : List Fld} {r₀ : State}
    (h : [igPoisonReads] ⊆ ks) :
    OnlyRegs ks r₀ (State.countPoison s) ↔ OnlyRegs ks r₀ s :=
  (State.countPoison_regs s).step h

theorem State.storePoison_regs (s : State) (w : MemWord) :
    OnlyRegs [] s (State.storePoison s w) := 
  .of_only (State.storePoison_only s w) (by decide)

@[simp] theorem State.storePoison_regsStep (s : State) (w : MemWord) {ks : List Fld} {r₀ : State}
    (h : [] ⊆ ks) :
    OnlyRegs ks r₀ (State.storePoison s w) ↔ OnlyRegs ks r₀ s :=
  (State.storePoison_regs s w).step h

theorem State.poisonWord_regs (s : State) (w : MemWord) :
    OnlyRegs [fxPoisoned, elFirst, elNext, elLost, elStatusAlertPend] s (State.poisonWord s w) := by
  simp [State.poisonWord]

@[simp] theorem State.poisonWord_regsStep (s : State) (w : MemWord) {ks : List Fld} {r₀ : State}
    (h : [fxPoisoned, elFirst, elNext, elLost, elStatusAlertPend] ⊆ ks) :
    OnlyRegs ks r₀ (State.poisonWord s w) ↔ OnlyRegs ks r₀ s :=
  (State.poisonWord_regs s w).step h

theorem State.noteRow_regs (s : State) (n : Nat) :
    OnlyRegs [fxSweepsDram, fxStatusProgress] s (State.noteRow s n) := by
  simp [State.noteRow]

@[simp] theorem State.noteRow_regsStep (s : State) (n : Nat) {ks : List Fld} {r₀ : State}
    (h : [fxSweepsDram, fxStatusProgress] ⊆ ks) :
    OnlyRegs ks r₀ (State.noteRow s n) ↔ OnlyRegs ks r₀ s :=
  (State.noteRow_regs s n).step h

end Sys2Proof.Machine
end

