-- ==== Sys2Proof/Laws/RegsRegulator.lean ====
section
/-!
SUPPORT. Which register fields the operations of Regulator.lean can change: one lemma for each.
-/
namespace Sys2Proof.Machine

theorem State.setK_regs (s : State) (k : Nat) (g : Nat) :
    OnlyRegs [rgScaleK, rgStatusScaled, rgStatusBreach, rgBreachCount, elFirst, elNext, elLost, elStatusAlertPend] s (State.setK s k g) := by
  simp [State.setK]

@[simp] theorem State.setK_regsStep (s : State) (k : Nat) (g : Nat) {ks : List Fld} {r₀ : State}
    (h : [rgScaleK, rgStatusScaled, rgStatusBreach, rgBreachCount, elFirst, elNext, elLost, elStatusAlertPend] ⊆ ks) :
    OnlyRegs ks r₀ (State.setK s k g) ↔ OnlyRegs ks r₀ s :=
  (State.setK_regs s k g).step h

theorem State.closeWindow_regs (s : State) :
    OnlyRegs [rgDemoted] s (State.closeWindow s) := by
  simp [State.closeWindow]

@[simp] theorem State.closeWindow_regsStep (s : State) {ks : List Fld} {r₀ : State}
    (h : [rgDemoted] ⊆ ks) :
    OnlyRegs ks r₀ (State.closeWindow s) ↔ OnlyRegs ks r₀ s :=
  (State.closeWindow_regs s).step h

theorem State.takeSet_regs (s : State) :
    OnlyRegs [rgCommitted, rgScaleK, rgStatusScaled, rgStatusBreach, rgBreachCount, elFirst, elNext, elLost, elStatusAlertPend] s (State.takeSet s) := by
  simp [State.takeSet]

@[simp] theorem State.takeSet_regsStep (s : State) {ks : List Fld} {r₀ : State}
    (h : [rgCommitted, rgScaleK, rgStatusScaled, rgStatusBreach, rgBreachCount, elFirst, elNext, elLost, elStatusAlertPend] ⊆ ks) :
    OnlyRegs ks r₀ (State.takeSet s) ↔ OnlyRegs ks r₀ s :=
  (State.takeSet_regs s).step h

theorem State.setBudgets_regs (s : State) (e : Sqe) (b : List Byte) :
    OnlyRegs [hcCqTailIndex e.ring, hcCqTailPhase e.ring, hcRingStatusInFlight e.ring, hcRingStatusIdle e.ring, hcRingStatusWaiting e.ring, rgCommitted, rgScaleK, rgStatusScaled, rgStatusBreach, rgBreachCount, elFirst, elNext, elLost, elStatusAlertPend] s (State.setBudgets s e b) := by
  unfold State.setBudgets
  try dsimp only
  (repeat' split) <;> (simp <;> (repeat' split) <;> simp)

@[simp] theorem State.setBudgets_regsStep (s : State) (e : Sqe) (b : List Byte) {ks : List Fld} {r₀ : State}
    (h : [hcCqTailIndex e.ring, hcCqTailPhase e.ring, hcRingStatusInFlight e.ring, hcRingStatusIdle e.ring, hcRingStatusWaiting e.ring, rgCommitted, rgScaleK, rgStatusScaled, rgStatusBreach, rgBreachCount, elFirst, elNext, elLost, elStatusAlertPend] ⊆ ks) :
    OnlyRegs ks r₀ (State.setBudgets s e b) ↔ OnlyRegs ks r₀ s :=
  (State.setBudgets_regs s e b).step h

theorem State.openWindow_regs (s : State) :
    OnlyRegs [rgCommitted] s (State.openWindow s) := by
  simp [State.openWindow]

@[simp] theorem State.openWindow_regsStep (s : State) {ks : List Fld} {r₀ : State}
    (h : [rgCommitted] ⊆ ks) :
    OnlyRegs ks r₀ (State.openWindow s) ↔ OnlyRegs ks r₀ s :=
  (State.openWindow_regs s).step h

end Sys2Proof.Machine
end

