-- ==== Sys2Proof/Laws/RegsPlacement.lean ====
section
/-!
SUPPORT. Which register fields the operations of Placement.lean can change: one lemma for each.
-/
namespace Sys2Proof.Machine

theorem State.moveNodes_regs (s : State) (l : List NodeCount) :
    OnlyRegs [mvPromoted, mvDemoted, mvTierReplKib, mvTierHomeKib] s (State.moveNodes s l) := by
  simp [State.moveNodes]

@[simp] theorem State.moveNodes_regsStep (s : State) (l : List NodeCount) {ks : List Fld} {r₀ : State}
    (h : [mvPromoted, mvDemoted, mvTierReplKib, mvTierHomeKib] ⊆ ks) :
    OnlyRegs ks r₀ (State.moveNodes s l) ↔ OnlyRegs ks r₀ s :=
  (State.moveNodes_regs s l).step h

theorem State.applySetting_regs (s : State) (a1 : EpochSetting) :
    OnlyRegs [mvCfgHomeMin, mvCfgReplMin, mvCfg2DemoteEpochs, mvCfg2ReplShare, mvCfg2EMin, mvCfg2ThermExclEn, mvCfg2MoveBudget, mvCfg3EngTarget] s (State.applySetting s a1) := by
  unfold State.applySetting
  (repeat' split) <;> simp

@[simp] theorem State.applySetting_regsStep (s : State) (a1 : EpochSetting) {ks : List Fld} {r₀ : State}
    (h : [mvCfgHomeMin, mvCfgReplMin, mvCfg2DemoteEpochs, mvCfg2ReplShare, mvCfg2EMin, mvCfg2ThermExclEn, mvCfg2MoveBudget, mvCfg3EngTarget] ⊆ ks) :
    OnlyRegs ks r₀ (State.applySetting s a1) ↔ OnlyRegs ks r₀ s :=
  (State.applySetting_regs s a1).step h

theorem State.closeEpoch_regs (s : State) :
    OnlyRegs [] s (State.closeEpoch s) := 
  .of_only (State.closeEpoch_only s) (by decide)

@[simp] theorem State.closeEpoch_regsStep (s : State) {ks : List Fld} {r₀ : State}
    (h : [] ⊆ ks) :
    OnlyRegs ks r₀ (State.closeEpoch s) ↔ OnlyRegs ks r₀ s :=
  (State.closeEpoch_regs s).step h

theorem State.wantBenches_regs (s : State) :
    OnlyRegs [] s (State.wantBenches s) := 
  .of_only (State.wantBenches_only s) (by decide)

@[simp] theorem State.wantBenches_regsStep (s : State) {ks : List Fld} {r₀ : State}
    (h : [] ⊆ ks) :
    OnlyRegs ks r₀ (State.wantBenches s) ↔ OnlyRegs ks r₀ s :=
  (State.wantBenches_regs s).step h

theorem State.beginEpoch_regs (s : State) (n : Nat) :
    OnlyRegs [] s (State.beginEpoch s n) := 
  .of_only (State.beginEpoch_only s n) (by decide)

@[simp] theorem State.beginEpoch_regsStep (s : State) (n : Nat) {ks : List Fld} {r₀ : State}
    (h : [] ⊆ ks) :
    OnlyRegs ks r₀ (State.beginEpoch s n) ↔ OnlyRegs ks r₀ s :=
  (State.beginEpoch_regs s n).step h

theorem State.noteBenches_regs (s : State) :
    OnlyRegs [] s (State.noteBenches s) := 
  .of_only (State.noteBenches_only s) (by decide)

@[simp] theorem State.noteBenches_regsStep (s : State) {ks : List Fld} {r₀ : State}
    (h : [] ⊆ ks) :
    OnlyRegs ks r₀ (State.noteBenches s) ↔ OnlyRegs ks r₀ s :=
  (State.noteBenches_regs s).step h

theorem State.addSetting_regs (s : State) (x : EpochSetting) :
    OnlyRegs [] s (State.addSetting s x) := 
  .of_only (State.addSetting_only s x) (by decide)

@[simp] theorem State.addSetting_regsStep (s : State) (x : EpochSetting) {ks : List Fld} {r₀ : State}
    (h : [] ⊆ ks) :
    OnlyRegs ks r₀ (State.addSetting s x) ↔ OnlyRegs ks r₀ s :=
  (State.addSetting_regs s x).step h

end Sys2Proof.Machine
end

