-- ==== Sys2Proof/Laws/RegsSelfTest.lean ====
section
/-!
SUPPORT. Which register fields the operations of SelfTest.lean can change: one lemma for each.
-/
namespace Sys2Proof.Machine

theorem State.noteLayers_regs (s : State) :
    OnlyRegs [] s (State.noteLayers s) := 
  .of_only (State.noteLayers_only s) (by decide)

@[simp] theorem State.noteLayers_regsStep (s : State) {ks : List Fld} {r₀ : State}
    (h : [] ⊆ ks) :
    OnlyRegs ks r₀ (State.noteLayers s) ↔ OnlyRegs ks r₀ s :=
  (State.noteLayers_regs s).step h

theorem State.cullPc_regs (s : State) (n : Nat) :
    OnlyRegs [mcPcQueueWq n, mcPcQueueRq n, mcPcQueueWqPeak n, mcPcQueueRqPeak n, tcCulletPc, mcPcStatusState n, mcPcStatusCalHold n, mcPcStatusDrain n, mvEligible, mvStatusEligible, mvThermExcl, mvStatusFloorHit, mvStatusOut, mvPoolRows, mvRetiredBanks, mvSplitTUnits, qmPoolLimit, elFirst, elNext, elLost, elStatusAlertPend] s (State.cullPc s n) := by
  simp [State.cullPc]

@[simp] theorem State.cullPc_regsStep (s : State) (n : Nat) {ks : List Fld} {r₀ : State}
    (h : [mcPcQueueWq n, mcPcQueueRq n, mcPcQueueWqPeak n, mcPcQueueRqPeak n, tcCulletPc, mcPcStatusState n, mcPcStatusCalHold n, mcPcStatusDrain n, mvEligible, mvStatusEligible, mvThermExcl, mvStatusFloorHit, mvStatusOut, mvPoolRows, mvRetiredBanks, mvSplitTUnits, qmPoolLimit, elFirst, elNext, elLost, elStatusAlertPend] ⊆ ks) :
    OnlyRegs ks r₀ (State.cullPc s n) ↔ OnlyRegs ks r₀ s :=
  (State.cullPc_regs s n).step h

theorem State.cullEngine_regs (s : State) (n : Nat) :
    OnlyRegs [tcCulletEng, teEngines] s (State.cullEngine s n) := by
  simp [State.cullEngine]

@[simp] theorem State.cullEngine_regsStep (s : State) (n : Nat) {ks : List Fld} {r₀ : State}
    (h : [tcCulletEng, teEngines] ⊆ ks) :
    OnlyRegs ks r₀ (State.cullEngine s n) ↔ OnlyRegs ks r₀ s :=
  (State.cullEngine_regs s n).step h

theorem State.cullBench_regs (s : State) (b : Nat) :
    OnlyRegs [tcCulletEng, teEngines, tcCulletMiscBench, teBenchRunning] s (State.cullBench s b) := by
  simp [State.cullBench]

@[simp] theorem State.cullBench_regsStep (s : State) (b : Nat) {ks : List Fld} {r₀ : State}
    (h : [tcCulletEng, teEngines, tcCulletMiscBench, teBenchRunning] ⊆ ks) :
    OnlyRegs ks r₀ (State.cullBench s b) ↔ OnlyRegs ks r₀ s :=
  (State.cullBench_regs s b).step h

theorem State.cullPort_regs (s : State) (p : Nat) :
    OnlyRegs [rlLinkStatusState p, rlLinkStatusPwr p, rlLinkStatusWidth p, rlLinkStatusLanes p, rlLinkStatusClkLocal p, rlLinkStatusAttempt p, rlTxCreditVc3 p, plClkActive, rlSeqTxNext p, tcCulletPort, devStatusDpReady, devStatusStage, devBootTimeToDp] s (State.cullPort s p) := by
  simp [State.cullPort]

@[simp] theorem State.cullPort_regsStep (s : State) (p : Nat) {ks : List Fld} {r₀ : State}
    (h : [rlLinkStatusState p, rlLinkStatusPwr p, rlLinkStatusWidth p, rlLinkStatusLanes p, rlLinkStatusClkLocal p, rlLinkStatusAttempt p, rlTxCreditVc3 p, plClkActive, rlSeqTxNext p, tcCulletPort, devStatusDpReady, devStatusStage, devBootTimeToDp] ⊆ ks) :
    OnlyRegs ks r₀ (State.cullPort s p) ↔ OnlyRegs ks r₀ s :=
  (State.cullPort_regs s p).step h

theorem State.syncBist_regs (s : State) :
    OnlyRegs [tcStatusBistBusy, tcStatusBistKind] s (State.syncBist s) := by
  unfold State.syncBist
  (repeat' split) <;> simp

@[simp] theorem State.syncBist_regsStep (s : State) {ks : List Fld} {r₀ : State}
    (h : [tcStatusBistBusy, tcStatusBistKind] ⊆ ks) :
    OnlyRegs ks r₀ (State.syncBist s) ↔ OnlyRegs ks r₀ s :=
  (State.syncBist_regs s).step h

theorem State.settleJob_regs (s : State) (j : BistJob) :
    OnlyRegs [tcBistLastFailed, tcBistLastTested, hcCqTailIndex j.ring, hcCqTailPhase j.ring, hcRingStatusInFlight j.ring, hcRingStatusIdle j.ring, hcRingStatusWaiting j.ring] s (State.settleJob s j) := by
  simp [State.settleJob]

@[simp] theorem State.settleJob_regsStep (s : State) (j : BistJob) {ks : List Fld} {r₀ : State}
    (h : [tcBistLastFailed, tcBistLastTested, hcCqTailIndex j.ring, hcCqTailPhase j.ring, hcRingStatusInFlight j.ring, hcRingStatusIdle j.ring, hcRingStatusWaiting j.ring] ⊆ ks) :
    OnlyRegs ks r₀ (State.settleJob s j) ↔ OnlyRegs ks r₀ s :=
  (State.settleJob_regs s j).step h

theorem State.unitPassed_regs (s : State) (k : UnitKind) (u : Nat) :
    OnlyRegs [] s (State.unitPassed s k u) := 
  .of_only (State.unitPassed_only s k u) (by decide)

@[simp] theorem State.unitPassed_regsStep (s : State) (k : UnitKind) (u : Nat) {ks : List Fld} {r₀ : State}
    (h : [] ⊆ ks) :
    OnlyRegs ks r₀ (State.unitPassed s k u) ↔ OnlyRegs ks r₀ s :=
  (State.unitPassed_regs s k u).step h

theorem State.noteAdded_regs (s : State) (kind : Nat) (u : Nat) :
    OnlyRegs [elFirst, elNext, elLost, elStatusAlertPend] s (State.noteAdded s kind u) := by
  simp [State.noteAdded]

@[simp] theorem State.noteAdded_regsStep (s : State) (kind : Nat) (u : Nat) {ks : List Fld} {r₀ : State}
    (h : [elFirst, elNext, elLost, elStatusAlertPend] ⊆ ks) :
    OnlyRegs ks r₀ (State.noteAdded s kind u) ↔ OnlyRegs ks r₀ s :=
  (State.noteAdded_regs s kind u).step h

theorem State.addPending_regs (s : State) (pend : Fld) (kind : Nat) (base : Nat) (n : Nat) (new : Nat) :
    OnlyRegs [pend, elFirst, elNext, elLost, elStatusAlertPend] s (State.addPending s pend kind base n new) := by
  simp [State.addPending]

@[simp] theorem State.addPending_regsStep (s : State) (pend : Fld) (kind : Nat) (base : Nat) (n : Nat) (new : Nat) {ks : List Fld} {r₀ : State}
    (h : [pend, elFirst, elNext, elLost, elStatusAlertPend] ⊆ ks) :
    OnlyRegs ks r₀ (State.addPending s pend kind base n new) ↔ OnlyRegs ks r₀ s :=
  (State.addPending_regs s pend kind base n new).step h

theorem State.markTsv_regs (s : State) (n : Nat) (g : Nat) (pos : Nat) (u₀ : State) (h : State.markTsv s n g pos = some u₀) :
    OnlyRegs [tcSparesInUse, tcSparesRuntime, elFirst, elNext, elLost, elStatusAlertPend] s u₀ := by
  unfold State.markTsv at h
  try dsimp only at h
  repeat' split at h
  all_goals first
    | (injection h with h; subst h; simp)
    | exact absurd h (by simp)

theorem State.markTsvs_regs (s : State) (n : Nat) (a2 : List (Nat × Nat)) (u₀ : State) (h : State.markTsvs s n a2 = some u₀) :
    OnlyRegs [tcSparesInUse, tcSparesRuntime, elFirst, elNext, elLost, elStatusAlertPend] s u₀ := by
  induction a2 generalizing s with
  | nil => cases h; simp
  | cons p r ih =>
    obtain ⟨g, p⟩ := p
    unfold State.markTsvs at h
    split at h
    · exact ih s h
    · cases hm : s.markTsv n g p with
      | none => simp [hm] at h
      | some t => exact (State.markTsv_regs _ _ _ _ _ hm).trans (ih t (by simpa [hm] using h))

theorem State.cullByCalibration_regs (s : State) (n : Nat) :
    OnlyRegs [mcPcStatusCalHold n, tcStatusCalActive, mvStatusCalActive, tcCalCountHolds, tcCalFailCulled, mcPcQueueWq n, mcPcQueueRq n, mcPcQueueWqPeak n, mcPcQueueRqPeak n, tcCulletPc, mcPcStatusState n, mcPcStatusDrain n, mvEligible, mvStatusEligible, mvThermExcl, mvStatusFloorHit, mvStatusOut, mvPoolRows, mvRetiredBanks, mvSplitTUnits, qmPoolLimit, elFirst, elNext, elLost, elStatusAlertPend] s (State.cullByCalibration s n) := by
  simp [State.cullByCalibration]

@[simp] theorem State.cullByCalibration_regsStep (s : State) (n : Nat) {ks : List Fld} {r₀ : State}
    (h : [mcPcStatusCalHold n, tcStatusCalActive, mvStatusCalActive, tcCalCountHolds, tcCalFailCulled, mcPcQueueWq n, mcPcQueueRq n, mcPcQueueWqPeak n, mcPcQueueRqPeak n, tcCulletPc, mcPcStatusState n, mcPcStatusDrain n, mvEligible, mvStatusEligible, mvThermExcl, mvStatusFloorHit, mvStatusOut, mvPoolRows, mvRetiredBanks, mvSplitTUnits, qmPoolLimit, elFirst, elNext, elLost, elStatusAlertPend] ⊆ ks) :
    OnlyRegs ks r₀ (State.cullByCalibration s n) ↔ OnlyRegs ks r₀ s :=
  (State.cullByCalibration_regs s n).step h

theorem State.setDelay_regs (s : State) (n : Nat) (off : Nat) (v : Nat) :
    OnlyRegs [fld (mcPcBase n) 0 + off] s (State.setDelay s n off v) := by
  unfold State.setDelay
  (repeat' split) <;> simp

@[simp] theorem State.setDelay_regsStep (s : State) (n : Nat) (off : Nat) (v : Nat) {ks : List Fld} {r₀ : State}
    (h : [fld (mcPcBase n) 0 + off] ⊆ ks) :
    OnlyRegs ks r₀ (State.setDelay s n off v) ↔ OnlyRegs ks r₀ s :=
  (State.setDelay_regs s n off v).step h

theorem State.beginHold_regs (s : State) (n : Nat) :
    OnlyRegs [mcPcStatusState n, mcPcQueueWq n, mcPcQueueRq n, mcPcQueueWqPeak n, mcPcQueueRqPeak n, mcPcStatusCalHold n, tcStatusCalActive, tcStatusCalPc, mvStatusCalActive, mvStatusCalPc, tcCalCountRounds] s (State.beginHold s n) := by
  simp [State.beginHold]

@[simp] theorem State.beginHold_regsStep (s : State) (n : Nat) {ks : List Fld} {r₀ : State}
    (h : [mcPcStatusState n, mcPcQueueWq n, mcPcQueueRq n, mcPcQueueWqPeak n, mcPcQueueRqPeak n, mcPcStatusCalHold n, tcStatusCalActive, tcStatusCalPc, mvStatusCalActive, mvStatusCalPc, tcCalCountRounds] ⊆ ks) :
    OnlyRegs ks r₀ (State.beginHold s n) ↔ OnlyRegs ks r₀ s :=
  (State.beginHold_regs s n).step h

end Sys2Proof.Machine
end

