-- ==== Sys2Proof/Laws/RegsSideband.lean ====
section
/-!
SUPPORT. Which register fields the operations of Sideband.lean can change: one lemma for each.
-/
namespace Sys2Proof.Machine

theorem State.sbRefuse_regs (s : State) :
    OnlyRegs [sbCountRefused] s (State.sbRefuse s) := by
  simp [State.sbRefuse]

@[simp] theorem State.sbRefuse_regsStep (s : State) {ks : List Fld} {r₀ : State}
    (h : [sbCountRefused] ⊆ ks) :
    OnlyRegs ks r₀ (State.sbRefuse s) ↔ OnlyRegs ks r₀ s :=
  (State.sbRefuse_regs s).step h

theorem State.sbRead_regs (s : State) (code : Nat) (b : List Byte) :
    OnlyRegs [] s (State.sbRead s code b) := 
  .of_only (State.sbRead_only s code b) (by decide)

@[simp] theorem State.sbRead_regsStep (s : State) (code : Nat) (b : List Byte) {ks : List Fld} {r₀ : State}
    (h : [] ⊆ ks) :
    OnlyRegs ks r₀ (State.sbRead s code b) ↔ OnlyRegs ks r₀ s :=
  (State.sbRead_regs s code b).step h

theorem State.sbBlock_regs (s : State) (code : Nat) (b : List Byte) :
    OnlyRegs [] s (State.sbBlock s code b) := 
  .of_only (State.sbBlock_only s code b) (by decide)

@[simp] theorem State.sbBlock_regsStep (s : State) (code : Nat) (b : List Byte) {ks : List Fld} {r₀ : State}
    (h : [] ⊆ ks) :
    OnlyRegs ks r₀ (State.sbBlock s code b) ↔ OnlyRegs ks r₀ s :=
  (State.sbBlock_regs s code b).step h

theorem State.sbDiscard_regs (s : State) (code : Nat) (w : SbWrite) (n : Nat) :
    OnlyRegs [sbStatusPecErr, sbCountRefused] s (State.sbDiscard s code w n) := by
  simp [State.sbDiscard]

@[simp] theorem State.sbDiscard_regsStep (s : State) (code : Nat) (w : SbWrite) (n : Nat) {ks : List Fld} {r₀ : State}
    (h : [sbStatusPecErr, sbCountRefused] ⊆ ks) :
    OnlyRegs ks r₀ (State.sbDiscard s code w n) ↔ OnlyRegs ks r₀ s :=
  (State.sbDiscard_regs s code w n).step h

theorem State.arbLost_regs (s : State) :
    OnlyRegs [sbCountArbLost] s (State.arbLost s) := by
  simp [State.arbLost]

@[simp] theorem State.arbLost_regsStep (s : State) {ks : List Fld} {r₀ : State}
    (h : [sbCountArbLost] ⊆ ks) :
    OnlyRegs ks r₀ (State.arbLost s) ↔ OnlyRegs ks r₀ s :=
  (State.arbLost_regs s).step h

theorem State.notifyFailed_regs (s : State) :
    OnlyRegs [sbCount2HnDropped] s (State.notifyFailed s) := by
  simp [State.notifyFailed]

@[simp] theorem State.notifyFailed_regsStep (s : State) {ks : List Fld} {r₀ : State}
    (h : [sbCount2HnDropped] ⊆ ks) :
    OnlyRegs ks r₀ (State.notifyFailed s) ↔ OnlyRegs ks r₀ s :=
  (State.notifyFailed_regs s).step h

theorem State.sendNotify_regs (s : State) (r : BusResult) :
    OnlyRegs [sbCount2HnSent, sbCount2HnDropped, sbCountArbLost, sbCount2ArbGiveup] s (State.sendNotify s r) := by
  unfold State.sendNotify
  (repeat' split) <;> simp

@[simp] theorem State.sendNotify_regsStep (s : State) (r : BusResult) {ks : List Fld} {r₀ : State}
    (h : [sbCount2HnSent, sbCount2HnDropped, sbCountArbLost, sbCount2ArbGiveup] ⊆ ks) :
    OnlyRegs ks r₀ (State.sendNotify s r) ↔ OnlyRegs ks r₀ s :=
  (State.sendNotify_regs s r).step h

theorem State.eepromFail_regs (s : State) (code : Nat) :
    OnlyRegs [sbStatusEepromResult, elFirst, elNext, elLost, elStatusAlertPend] s (State.eepromFail s code) := by
  simp [State.eepromFail]

@[simp] theorem State.eepromFail_regsStep (s : State) (code : Nat) {ks : List Fld} {r₀ : State}
    (h : [sbStatusEepromResult, elFirst, elNext, elLost, elStatusAlertPend] ⊆ ks) :
    OnlyRegs ks r₀ (State.eepromFail s code) ↔ OnlyRegs ks r₀ s :=
  (State.eepromFail_regs s code).step h

theorem State.startEeprom_regs (s : State) (r : BusResult) :
    OnlyRegs [sbStatusEepromResult, elFirst, elNext, elLost, elStatusAlertPend, sbCountArbLost, sbCount2ArbGiveup] s (State.startEeprom s r) := by
  unfold State.startEeprom
  (repeat' split) <;> simp

@[simp] theorem State.startEeprom_regsStep (s : State) (r : BusResult) {ks : List Fld} {r₀ : State}
    (h : [sbStatusEepromResult, elFirst, elNext, elLost, elStatusAlertPend, sbCountArbLost, sbCount2ArbGiveup] ⊆ ks) :
    OnlyRegs ks r₀ (State.startEeprom s r) ↔ OnlyRegs ks r₀ s :=
  (State.startEeprom_regs s r).step h

end Sys2Proof.Machine
end

