-- ==== Sys2Proof/Laws/RegsReset.lean ====
section
/-!
SUPPORT. Which register fields the operations of Reset.lean can change: one lemma for each.
-/
namespace Sys2Proof.Machine

theorem State.freeQueues_regs (s : State) :
    OnlyRegs [mvDrainBlocks] s (State.freeQueues s) := by
  simp [State.freeQueues]

@[simp] theorem State.freeQueues_regsStep (s : State) {ks : List Fld} {r₀ : State}
    (h : [mvDrainBlocks] ⊆ ks) :
    OnlyRegs ks r₀ (State.freeQueues s) ↔ OnlyRegs ks r₀ s :=
  (State.freeQueues_regs s).step h

theorem State.cullAtReset_regs (s : State) (mask : Nat) :
    OnlyRegs [tcCulletPc] s (State.cullAtReset s mask) := by
  simp [State.cullAtReset]

@[simp] theorem State.cullAtReset_regsStep (s : State) (mask : Nat) {ks : List Fld} {r₀ : State}
    (h : [tcCulletPc] ⊆ ks) :
    OnlyRegs ks r₀ (State.cullAtReset s mask) ↔ OnlyRegs ks r₀ s :=
  (State.cullAtReset_regs s mask).step h

theorem State.enterPending_regs (s : State) :
    OnlyRegs [tcCulletPc, tcCulletSlice, tcCulletEng, tcCulletMiscMc, tcCulletLayer, tcCulletPendPc, tcCulletPendSlice, tcCulletPendMc, tcCulletPendLayer] s (State.enterPending s) := by
  simp [State.enterPending]

@[simp] theorem State.enterPending_regsStep (s : State) {ks : List Fld} {r₀ : State}
    (h : [tcCulletPc, tcCulletSlice, tcCulletEng, tcCulletMiscMc, tcCulletLayer, tcCulletPendPc, tcCulletPendSlice, tcCulletPendMc, tcCulletPendLayer] ⊆ ks) :
    OnlyRegs ks r₀ (State.enterPending s) ↔ OnlyRegs ks r₀ s :=
  (State.enterPending_regs s).step h

theorem State.setPin_regs (s : State) (pin : ResetPin) (high : Bool) :
    OnlyRegs [] s (State.setPin s pin high) := 
  .of_only (State.setPin_only s pin high) (by decide)

@[simp] theorem State.setPin_regsStep (s : State) (pin : ResetPin) (high : Bool) {ks : List Fld} {r₀ : State}
    (h : [] ⊆ ks) :
    OnlyRegs ks r₀ (State.setPin s pin high) ↔ OnlyRegs ks r₀ s :=
  (State.setPin_regs s pin high).step h

end Sys2Proof.Machine
end

