-- ==== Sys2Proof/Laws/RegsBoot.lean ====
section
/-!
SUPPORT. Which register fields the operations of Boot.lean can change: one lemma for each.
-/
namespace Sys2Proof.Machine

theorem State.trimSensors_regs (s : State) :
    OnlyRegs [] s (State.trimSensors s) := 
  .of_only (State.trimSensors_only s) (by decide)

@[simp] theorem State.trimSensors_regsStep (s : State) {ks : List Fld} {r₀ : State}
    (h : [] ⊆ ks) :
    OnlyRegs ks r₀ (State.trimSensors s) ↔ OnlyRegs ks r₀ s :=
  (State.trimSensors_regs s).step h

theorem State.senseStep_regs (s : State) :
    OnlyRegs [fzLocksBits, devStackExpected] s (State.senseStep s) := by
  simp [State.senseStep]

@[simp] theorem State.senseStep_regsStep (s : State) {ks : List Fld} {r₀ : State}
    (h : [fzLocksBits, devStackExpected] ⊆ ks) :
    OnlyRegs ks r₀ (State.senseStep s) ↔ OnlyRegs ks r₀ s :=
  (State.senseStep_regs s).step h

theorem State.anvilStep_regs (s : State) (b : BootInput) :
    OnlyRegs [fzRegionState, fzKeysUsable, fzKeysRevoked, fzKeysMarginal, fzKeysSealed, fzRollbackValue, fzCloseVendor, fzCloseCustomer, fzMarginalCount, fzMarginalRegions, fzMarginalFirstWord, fzStatusBootFault, fzStatusPatchRejected, fzStatusMarginalTrim, elFirst, elNext, elLost, elStatusAlertPend, elWdogAvAge, plPwrOn, plClkActive] s (State.anvilStep s b) := by
  simp [State.anvilStep]

@[simp] theorem State.anvilStep_regsStep (s : State) (b : BootInput) {ks : List Fld} {r₀ : State}
    (h : [fzRegionState, fzKeysUsable, fzKeysRevoked, fzKeysMarginal, fzKeysSealed, fzRollbackValue, fzCloseVendor, fzCloseCustomer, fzMarginalCount, fzMarginalRegions, fzMarginalFirstWord, fzStatusBootFault, fzStatusPatchRejected, fzStatusMarginalTrim, elFirst, elNext, elLost, elStatusAlertPend, elWdogAvAge, plPwrOn, plClkActive] ⊆ ks) :
    OnlyRegs ks r₀ (State.anvilStep s b) ↔ OnlyRegs ks r₀ s :=
  (State.anvilStep_regs s b).step h

theorem State.discoveryEnds_regs (s : State) (k : Nat) :
    OnlyRegs [devStackFound, devStatusStackFault, devStatusStage, elFirst, elNext, elLost, elStatusAlertPend, tcCulletPc, tcCulletLayer] s (State.discoveryEnds s k) := by
  simp [State.discoveryEnds]

@[simp] theorem State.discoveryEnds_regsStep (s : State) (k : Nat) {ks : List Fld} {r₀ : State}
    (h : [devStackFound, devStatusStackFault, devStatusStage, elFirst, elNext, elLost, elStatusAlertPend, tcCulletPc, tcCulletLayer] ⊆ ks) :
    OnlyRegs ks r₀ (State.discoveryEnds s k) ↔ OnlyRegs ks r₀ s :=
  (State.discoveryEnds_regs s k).step h

theorem State.discover_regs (s : State) (b : BootInput) :
    OnlyRegs [devStackFound, devStatusStackFault, devStatusStage, elFirst, elNext, elLost, elStatusAlertPend, tcCulletPc, tcCulletLayer] s (State.discover s b) := by
  simp [State.discover]

@[simp] theorem State.discover_regsStep (s : State) (b : BootInput) {ks : List Fld} {r₀ : State}
    (h : [devStackFound, devStatusStackFault, devStatusStage, elFirst, elNext, elLost, elStatusAlertPend, tcCulletPc, tcCulletLayer] ⊆ ks) :
    OnlyRegs ks r₀ (State.discover s b) ↔ OnlyRegs ks r₀ s :=
  (State.discover_regs s b).step h

theorem State.loseTables_regs (s : State) :
    OnlyRegs [mvTierReplKib, mvTierHomeKib, mvTableUsedRows, teTablesCount] s (State.loseTables s) := by
  simp [State.loseTables]

@[simp] theorem State.loseTables_regsStep (s : State) {ks : List Fld} {r₀ : State}
    (h : [mvTierReplKib, mvTierHomeKib, mvTableUsedRows, teTablesCount] ⊆ ks) :
    OnlyRegs ks r₀ (State.loseTables s) ↔ OnlyRegs ks r₀ s :=
  (State.loseTables_regs s).step h

theorem State.reportLost_regs (s : State) :
    OnlyRegs [devStatusReportValid] s (State.reportLost s) := by
  simp [State.reportLost]

@[simp] theorem State.reportLost_regsStep (s : State) {ks : List Fld} {r₀ : State}
    (h : [devStatusReportValid] ⊆ ks) :
    OnlyRegs ks r₀ (State.reportLost s) ↔ OnlyRegs ks r₀ s :=
  (State.reportLost_regs s).step h

theorem State.fillDone_regs (s : State) :
    OnlyRegs [igStatusFillDone, igFillTime] s (State.fillDone s) := by
  simp [State.fillDone]

@[simp] theorem State.fillDone_regsStep (s : State) {ks : List Fld} {r₀ : State}
    (h : [igStatusFillDone, igFillTime] ⊆ ks) :
    OnlyRegs ks r₀ (State.fillDone s) ↔ OnlyRegs ks r₀ s :=
  (State.fillDone_regs s).step h

theorem State.cullInFill_regs (s : State) (bad : Nat) :
    OnlyRegs [tcCulletPc, elFirst, elNext, elLost, elStatusAlertPend] s (State.cullInFill s bad) := by
  simp [State.cullInFill]

@[simp] theorem State.cullInFill_regsStep (s : State) (bad : Nat) {ks : List Fld} {r₀ : State}
    (h : [tcCulletPc, elFirst, elNext, elLost, elStatusAlertPend] ⊆ ks) :
    OnlyRegs ks r₀ (State.cullInFill s bad) ↔ OnlyRegs ks r₀ s :=
  (State.cullInFill_regs s bad).step h

theorem State.divide_regs (s : State) :
    OnlyRegs [mvRegionSize, mvRegionBasePc, mvEligible, mvStatusEligible, mvThermExcl, mvStatusFloorHit, mvStatusOut, mvPoolRows, mvRetiredBanks, mvSplitTUnits, qmPoolLimit] s (State.divide s) := by
  simp [State.divide]

@[simp] theorem State.divide_regsStep (s : State) {ks : List Fld} {r₀ : State}
    (h : [mvRegionSize, mvRegionBasePc, mvEligible, mvStatusEligible, mvThermExcl, mvStatusFloorHit, mvStatusOut, mvPoolRows, mvRetiredBanks, mvSplitTUnits, qmPoolLimit] ⊆ ks) :
    OnlyRegs ks r₀ (State.divide s) ↔ OnlyRegs ks r₀ s :=
  (State.divide_regs s).step h

theorem State.heldFill_regs (s : State) :
    OnlyRegs [mvRegionSize, mvRegionBasePc, mvEligible, mvStatusEligible, mvThermExcl, mvStatusFloorHit, mvStatusOut, mvPoolRows, mvRetiredBanks, mvSplitTUnits, qmPoolLimit, mvTierReplKib, mvTierHomeKib, mvTableUsedRows, teTablesCount, igStatusFillDone, igFillTime] s (State.heldFill s) := by
  simp [State.heldFill]

@[simp] theorem State.heldFill_regsStep (s : State) {ks : List Fld} {r₀ : State}
    (h : [mvRegionSize, mvRegionBasePc, mvEligible, mvStatusEligible, mvThermExcl, mvStatusFloorHit, mvStatusOut, mvPoolRows, mvRetiredBanks, mvSplitTUnits, qmPoolLimit, mvTierReplKib, mvTierHomeKib, mvTableUsedRows, teTablesCount, igStatusFillDone, igFillTime] ⊆ ks) :
    OnlyRegs ks r₀ (State.heldFill s) ↔ OnlyRegs ks r₀ s :=
  (State.heldFill_regs s).step h

theorem State.toStep_regs (s : State) (n : Nat) :
    OnlyRegs [devStatusStage] s (State.toStep s n) := by
  simp [State.toStep]

@[simp] theorem State.toStep_regsStep (s : State) (n : Nat) {ks : List Fld} {r₀ : State}
    (h : [devStatusStage] ⊆ ks) :
    OnlyRegs ks r₀ (State.toStep s n) ↔ OnlyRegs ks r₀ s :=
  (State.toStep_regs s n).step h

end Sys2Proof.Machine
end

