-- ==== Sys2Proof/Laws/RegsFirmware.lean ====
section
/-!
SUPPORT. Which register fields the operations of Firmware.lean can change: one lemma for each.
-/
namespace Sys2Proof.Machine

theorem State.discardTable_regs (s : State) (n : Nat) (code : Nat) (t : Table) :
    OnlyRegs [igTableDamaged (n / 32)] s (State.discardTable s n code t) := by
  simp [State.discardTable]

@[simp] theorem State.discardTable_regsStep (s : State) (n : Nat) (code : Nat) (t : Table) {ks : List Fld} {r₀ : State}
    (h : [igTableDamaged (n / 32)] ⊆ ks) :
    OnlyRegs ks r₀ (State.discardTable s n code t) ↔ OnlyRegs ks r₀ s :=
  (State.discardTable_regs s n code t).step h

theorem State.keepTable_regs (s : State) (n : Nat) (code : Nat) (t : Table) :
    OnlyRegs [] s (State.keepTable s n code t) := 
  .of_only (State.keepTable_only s n code t) (by decide)

@[simp] theorem State.keepTable_regsStep (s : State) (n : Nat) (code : Nat) (t : Table) {ks : List Fld} {r₀ : State}
    (h : [] ⊆ ks) :
    OnlyRegs ks r₀ (State.keepTable s n code t) ↔ OnlyRegs ks r₀ s :=
  (State.keepTable_regs s n code t).step h

theorem State.decideTable_regs (s : State) (n : Nat) (t : Table) :
    OnlyRegs [igTableDamaged (n / 32)] s (State.decideTable s n t) := by
  simp [State.decideTable]

@[simp] theorem State.decideTable_regsStep (s : State) (n : Nat) (t : Table) {ks : List Fld} {r₀ : State}
    (h : [igTableDamaged (n / 32)] ⊆ ks) :
    OnlyRegs ks r₀ (State.decideTable s n t) ↔ OnlyRegs ks r₀ s :=
  (State.decideTable_regs s n t).step h

theorem State.logLost_regs (s : State) (c : Commit) :
    OnlyRegs [] s (State.logLost s c) := 
  .of_only (State.logLost_only s c) (by decide)

@[simp] theorem State.logLost_regsStep (s : State) (c : Commit) {ks : List Fld} {r₀ : State}
    (h : [] ⊆ ks) :
    OnlyRegs ks r₀ (State.logLost s c) ↔ OnlyRegs ks r₀ s :=
  (State.logLost_regs s c).step h

theorem State.resetDelay_regs (s : State) :
    OnlyRegs [] s (State.resetDelay s).2 := 
  .of_only (State.resetDelay_only s) (by decide)

@[simp] theorem State.resetDelay_regsStep (s : State) {ks : List Fld} {r₀ : State}
    (h : [] ⊆ ks) :
    OnlyRegs ks r₀ (State.resetDelay s).2 ↔ OnlyRegs ks r₀ s :=
  (State.resetDelay_regs s).step h

theorem State.answerReset_regs (s : State) (ring : Nat) (tag : Nat) (status : Nat) (kind : ResetKind) :
    OnlyRegs [hcCqTailIndex ring, hcCqTailPhase ring, hcRingStatusInFlight ring, hcRingStatusIdle ring, hcRingStatusWaiting ring] s (State.answerReset s ring tag status kind) := by
  simp [State.answerReset]

@[simp] theorem State.answerReset_regsStep (s : State) (ring : Nat) (tag : Nat) (status : Nat) (kind : ResetKind) {ks : List Fld} {r₀ : State}
    (h : [hcCqTailIndex ring, hcCqTailPhase ring, hcRingStatusInFlight ring, hcRingStatusIdle ring, hcRingStatusWaiting ring] ⊆ ks) :
    OnlyRegs ks r₀ (State.answerReset s ring tag status kind) ↔ OnlyRegs ks r₀ s :=
  (State.answerReset_regs s ring tag status kind).step h

end Sys2Proof.Machine
end

