-- ==== Sys2Proof/Laws/RegsCommands.lean ====
section
/-!
SUPPORT. Which register fields the operations of Commands.lean can change: one lemma for each.
-/
namespace Sys2Proof.Machine

theorem State.clearLog_regs (s : State) (last : Nat) :
    OnlyRegs [elFirst, elLost, elStatusAlertPend] s (State.clearLog s last) := by
  simp [State.clearLog]

@[simp] theorem State.clearLog_regsStep (s : State) (last : Nat) {ks : List Fld} {r₀ : State}
    (h : [elFirst, elLost, elStatusAlertPend] ⊆ ks) :
    OnlyRegs ks r₀ (State.clearLog s last) ↔ OnlyRegs ks r₀ s :=
  (State.clearLog_regs s last).step h

theorem State.triggerSnapshot_regs (s : State) (l : Nat) (t : Tick) :
    OnlyRegs [evSnapMissed, qmStatusSnapPending] s (State.triggerSnapshot s l t) := by
  simp [State.triggerSnapshot]

@[simp] theorem State.triggerSnapshot_regsStep (s : State) (l : Nat) (t : Tick) {ks : List Fld} {r₀ : State}
    (h : [evSnapMissed, qmStatusSnapPending] ⊆ ks) :
    OnlyRegs ks r₀ (State.triggerSnapshot s l t) ↔ OnlyRegs ks r₀ s :=
  (State.triggerSnapshot_regs s l t).step h

end Sys2Proof.Machine
end

