-- ==== Sys2Proof/Laws/RegsExecA.lean ====
section
/-!
SUPPORT. Which register fields each command can change: one lemma for each meaning whose fields do not depend on the state.
-/
namespace Sys2Proof.Machine

theorem runCommand_regs {ks : List Fld} {op : Nat} {e : Sqe} {s u : State} {body : State → State}
    (h : runCommand op e s body = .next u)
    (hd : [hcCqTailIndex e.ring, hcCqTailPhase e.ring, hcRingStatusInFlight e.ring, hcRingStatusIdle e.ring, hcRingStatusWaiting e.ring] ⊆ ks)
    (hb : ∀ x, OnlyRegs ks x (body x)) : OnlyRegs ks s u := by
  unfold runCommand at h
  (repeat' split at h) <;> (injection h with h; subst h; first | exact hb s | simp [hd])

theorem runRequest_regs {ks : List Fld} {r : Req} {n : Nat} {hold : State → Bool} {own : State → State} {s u : State}
    (h : runRequest r n hold own s = .next u) (hd : [rlProtoErrCredit r.port, qmRefuseState, teRefused, rlEgressBytes r.port, rxFree r.port (reqChannel r), rlProtoErrCredit r.port] ⊆ ks)
    (hb : ∀ x, OnlyRegs ks x (own x)) : OnlyRegs ks s u := by
  have hd' := hd
  simp only [List.cons_subset, List.nil_subset] at hd'
  unfold runRequest at h
  (repeat' split at h) <;> injection h with h <;> subst h <;> simp [hd', (hb _).step (List.Subset.refl _)]

theorem State.withVprog_regs {ks : List Fld} {s : State} {vprog : Bool} {e : Sqe} {body : State → State}
    (hd : [fzProgVprogOk, hcCqTailIndex e.ring, hcCqTailPhase e.ring, hcRingStatusInFlight e.ring, hcRingStatusIdle e.ring, hcRingStatusWaiting e.ring] ⊆ ks) (hb : ∀ x, OnlyRegs ks x (body x)) : OnlyRegs ks s (s.withVprog vprog e body) := by
  have hd' := hd
  simp only [List.cons_subset, List.nil_subset] at hd'
  unfold State.withVprog
  dsimp only
  split <;> simp [hd', (hb _).step (List.Subset.refl _)]

theorem State.program_regs {ks : List Fld} {s : State} {e : Sqe} {ws : List (Nat × Nat)} {o : FuseOutcome} {apply : State → State}
    (hd : [fzProgBusy, fzProgStatus, fzProgWord, hcCqTailIndex e.ring, hcCqTailPhase e.ring, hcRingStatusInFlight e.ring, hcRingStatusIdle e.ring, hcRingStatusWaiting e.ring, elFirst, elNext, elLost, elStatusAlertPend] ⊆ ks) (hb : ∀ x, OnlyRegs ks x (apply x)) : OnlyRegs ks s (s.program e ws o apply) := by
  have hd' := hd
  simp only [List.cons_subset, List.nil_subset] at hd'
  unfold State.program
  dsimp only
  split <;> simp [hd', (hb _).step (List.Subset.refl _)]

theorem execRailsInTolerance_regs {s : State} {u₀ : State} (h : execRailsInTolerance s = .next u₀) :
    OnlyRegs [devStatusStage, plPwrOn, plClkActive] s u₀ := by
  unfold execRailsInTolerance at h
  (repeat' split at h) <;> (injection h with h; subst h; simp)

theorem execRailCheckRetry_regs {s : State} {u₀ : State} (h : execRailCheckRetry s = .next u₀) :
    OnlyRegs [] s u₀ := 
  .of_only (execRailCheckRetry_only h) (by decide)

theorem execStrapSample_regs {refwait : Nat} {sbaddr : Nat} {sbctl : Nat} {bist : Nat} {s : State} {u₀ : State} (h : execStrapSample refwait sbaddr sbctl bist s = .next u₀) :
    OnlyRegs [plStrapsRefwait, plStrapsSbaddr, plStrapsSbctl, plStrapsBist, sbStatusAddr, sbStatusCtlEn] s u₀ := by
  unfold execStrapSample at h
  (repeat' split at h) <;> (injection h with h; subst h; simp)

theorem execRefwaitExpiry_regs {s : State} {u₀ : State} (h : execRefwaitExpiry s = .next u₀) :
    OnlyRegs [] s u₀ := 
  .of_only (execRefwaitExpiry_only h) (by decide)

theorem execRefclkStartupCheck_regs {count : Nat} {trim : Nat} {s : State} {u₀ : State} (h : execRefclkStartupCheck count trim s = .next u₀) :
    OnlyRegs [plClkStatusRefclkBad, plRefmonOscTrim, plClkStatusPllLock, devStatusStage, plPwrOn, plClkActive] s u₀ := by
  unfold execRefclkStartupCheck at h
  (repeat' split at h) <;> (injection h with h; subst h; simp)

theorem execResetPinRelease_regs {pin : ResetPin} {s : State} {u₀ : State} (h : execResetPinRelease pin s = .next u₀) :
    OnlyRegs [devStatusStage, plPwrOn, plClkActive] s u₀ := by
  unfold execResetPinRelease at h
  (repeat' split at h) <;> (injection h with h; subst h; simp)

theorem execLayerDiscoveryTimeout_regs {layer : Nat} {s : State} {u₀ : State} (h : execLayerDiscoveryTimeout layer s = .next u₀) :
    OnlyRegs [devStackFound, devStatusStackFault, devStatusStage, elFirst, elNext, elLost, elStatusAlertPend, tcCulletPc, tcCulletLayer] s u₀ := by
  unfold execLayerDiscoveryTimeout at h
  (repeat' split at h) <;> (injection h with h; subst h; simp)

theorem execResetSourceRelease_regs {s : State} {u₀ : State} (h : execResetSourceRelease s = .next u₀) :
    OnlyRegs [devStatusStage, plPwrOn, plClkActive] s u₀ := by
  unfold execResetSourceRelease at h
  (repeat' split at h) <;> (injection h with h; subst h; simp)

theorem execTapTestLogicReset_regs {s : State} {u₀ : State} (h : execTapTestLogicReset s = .next u₀) :
    OnlyRegs [devStatusStage, plPwrOn, plClkActive] s u₀ := by
  unfold execTapTestLogicReset at h
  (repeat' split at h) <;> (injection h with h; subst h; simp)

theorem execOscTrim_regs {trim : Nat} {count : Nat} {s : State} {u₀ : State} (h : execOscTrim trim count s = .next u₀) :
    OnlyRegs [plRefmonOscTrim] s u₀ := by
  unfold execOscTrim at h
  (repeat' split at h) <;> (injection h with h; subst h; simp)

theorem execClockGateClose_regs {d : Nat} {s : State} {u₀ : State} (h : execClockGateClose d s = .next u₀) :
    OnlyRegs [plClkActive] s u₀ := by
  unfold execClockGateClose at h
  (repeat' split at h) <;> (injection h with h; subst h; simp)

theorem execClockGateOpen_regs {d : Nat} {s : State} {u₀ : State} (h : execClockGateOpen d s = .next u₀) :
    OnlyRegs [plClkActive] s u₀ := by
  unfold execClockGateOpen at h
  (repeat' split at h) <;> (injection h with h; subst h; simp)

theorem execDomainAutoOff_regs {d : Nat} {s : State} {u₀ : State} (h : execDomainAutoOff d s = .next u₀) :
    OnlyRegs [plPwrOn, teBenchPowered, teBenchRunning] s u₀ := by
  unfold execDomainAutoOff at h
  (repeat' split at h) <;> (injection h with h; subst h; simp)

theorem execDomainWake_regs {d : Nat} {s : State} {u₀ : State} (h : execDomainWake d s = .next u₀) :
    OnlyRegs [plPwrOn, teBenchPowered] s u₀ := by
  unfold execDomainWake at h
  (repeat' split at h) <;> (injection h with h; subst h; simp)

theorem execBenchMicrocodeLoaded_regs {b : Nat} {z : State} {u₀ : State} (h : execBenchMicrocodeLoaded b z = .next u₀) :
    OnlyRegs [teBenchRunning] z u₀ := by
  unfold execBenchMicrocodeLoaded at h
  try dsimp only at h
  (repeat' split at h) <;> (injection h with h; subst h; simp) <;> (repeat' split) <;> simp

theorem execPtmDialog_regs {s : State} {u₀ : State} (h : execPtmDialog s = .next u₀) :
    OnlyRegs [tbStatusHoldover] s u₀ := by
  unfold execPtmDialog at h
  (repeat' split at h) <;> (injection h with h; subst h; simp)

theorem execPtmResponse_regs {masterNs : Nat} {s : State} {u₀ : State} (h : execPtmResponse masterNs s = .next u₀) :
    OnlyRegs [tbStatusOffset, tbRateCorr, tbStatusSlewing, tbStatusLocked, tbStatusHoldover, tbStatusStepped] s u₀ := by
  unfold execPtmResponse at h
  (repeat' split at h) <;> (injection h with h; subst h; simp)

theorem execPtmResponseTimeout_regs {s : State} {u₀ : State} (h : execPtmResponseTimeout s = .next u₀) :
    OnlyRegs [tbStatusPtmFail, tbStatusHoldover] s u₀ := by
  unfold execPtmResponseTimeout at h
  try dsimp only at h
  (repeat' split at h) <;> (injection h with h; subst h; simp) <;> (repeat' split) <;> simp

theorem execTimesyncEdge_regs {t : Tick} {s : State} {u₀ : State} (h : execTimesyncEdge t s = .next u₀) :
    OnlyRegs [tbSyncCfgIgnored, tbSyncCapt, tbSyncNext, tbStatusOffset, tbRateCorr, tbStatusSlewing, tbStatusLocked, tbStatusHoldover, tbStatusStepped] s u₀ := by
  unfold execTimesyncEdge at h
  try dsimp only at h
  (repeat' split at h) <;> (injection h with h; subst h; simp) <;> (repeat' split) <;> simp

theorem execTimesyncStuck_regs {s : State} {u₀ : State} (h : execTimesyncStuck s = .next u₀) :
    OnlyRegs [tbStatusTimesyncStuck, tbStatusHoldover] s u₀ := by
  unfold execTimesyncStuck at h
  (repeat' split at h) <;> (injection h with h; subst h; simp)

theorem execTbTimeLoRead_regs {s : State} {u₀ : State} (h : execTbTimeLoRead s = .next u₀) :
    OnlyRegs [] s u₀ := 
  .of_only (execTbTimeLoRead_only h) (by decide)

theorem execLoRegisterRead_regs {off : Nat} {s : State} {u₀ : State} (h : execLoRegisterRead off s = .next u₀) :
    OnlyRegs [plPwrOn] s u₀ := by
  unfold execLoRegisterRead at h
  try dsimp only at h
  (repeat' split at h) <;> (injection h with h; subst h; simp) <;> (repeat' split) <;> simp

theorem execHoldNLong_regs {s : State} {u₀ : State} (h : execHoldNLong s = .next u₀) :
    OnlyRegs [thAlert, elFirst, elNext, elLost, elStatusAlertPend] s u₀ := by
  unfold execHoldNLong at h
  (repeat' split at h) <;> (injection h with h; subst h; simp)

theorem execSensorRecover_regs {n : Nat} {s : State} {u₀ : State} (h : execSensorRecover n s = .next u₀) :
    OnlyRegs [] s u₀ := 
  .of_only (execSensorRecover_only h) (by decide)

theorem execCanaryTest_regs {l : Nat} {failed : Nat} {s : State} {u₀ : State} (h : execCanaryTest l failed s = .next u₀) :
    OnlyRegs [] s u₀ := 
  .of_only (execCanaryTest_only h) (by decide)

theorem execLaneDetectorChange_regs {p : Nat} {lane : Nat} {los : Bool} {lol : Bool} {s : State} {u₀ : State} (h : execLaneDetectorChange p lane los lol s = .next u₀) :
    OnlyRegs [rlLaneStatusLos p, rlLaneStatusLol p, rlLinkStatusChanged p, rlRetrainCountCold p, rlLinkStatusAttempt p, rlEqCtrlTxPreset p, rlEqCtrlPresetForce p, rlEqCtrlDfeFreeze p, rlEqCtrlCtleFixed p, rlEqCtrlCtleValue p, rlLinkStatusState p, rlLinkStatusPwr p, rlLinkStatusWidth p, rlLinkStatusLanes p, rlLinkStatusReversed p, rlLinkStatusClkLane p, rlLinkStatusClkLocal p, rlLaneStatusPolInv p, rlRetrainCountShort p, rlLaneStatusExcluded p] s u₀ := by
  unfold execLaneDetectorChange at h
  (repeat' split at h) <;> (injection h with h; subst h; simp)

theorem execTrainingFrameRx_regs {p : Nat} {lane : Nat} {f : Frame} {s : State} {u₀ : State} (h : execTrainingFrameRx p lane f s = .next u₀) :
    OnlyRegs [rlLinkStatusChanged p, rlRetrainCountCold p, rlLinkStatusAttempt p, rlEqCtrlTxPreset p, rlEqCtrlPresetForce p, rlEqCtrlDfeFreeze p, rlEqCtrlCtleFixed p, rlEqCtrlCtleValue p, rlLinkStatusState p, rlLinkStatusPwr p, rlLinkStatusWidth p, rlLinkStatusLanes p, rlLinkStatusReversed p, rlLinkStatusClkLane p, rlLinkStatusClkLocal p, rlLaneStatusPolInv p, rlRetrainCountShort p, rlLaneStatusExcluded p] s u₀ := by
  unfold execTrainingFrameRx at h
  try dsimp only at h
  (repeat' split at h) <;> (injection h with h; subst h; simp) <;> (repeat' split) <;> simp

theorem execTrainStateExit_regs {p : Nat} {x : TrainInput} {s : State} {u₀ : State} (h : execTrainStateExit p x s = .next u₀) :
    OnlyRegs [rlLinkStatusState p, rlLinkStatusClkLane p, rlLinkStatusClkLocal p, rlLaneStatusPolInv p, rlLinkStatusReversed p, rlLinkStatusLanes p, rlLinkStatusWidth p, rlLaneStatusExcluded p, rlLatFixed p, rlSeqRxAckSeq p, rlResumeResumed p, rlLostReplies p, rlLostPackets p, elFirst, elNext, elLost, elStatusAlertPend, rlSeqTxNext p, rlEgressBytes p, rlRxFreeAVc0 p, rlRxFreeAVc1 p, rlRxFreeBVc3 p, rlResumeNotResumed p, rlLinkStatusPwr p, rlLinkStatusChanged p, devStatusDpReady, devStatusStage, devBootTimeToDp] s u₀ := by
  unfold execTrainStateExit at h
  try dsimp only at h
  (repeat' split at h) <;> (injection h with h; subst h; simp) <;> (repeat' split) <;> simp

theorem execTrainStateTimer_regs {p : Nat} {x : TrainInput} {s : State} {u₀ : State} (h : execTrainStateTimer p x s = .next u₀) :
    OnlyRegs [rlLinkStatusAttempt p, rlLinkStatusChanged p, rlTrainFailState p, rlTrainFailCode p, rlLinkStatusClkLocal p, rlLinkStatusWidth p, rlLinkStatusLanes p, rlTrainFailCount p, rlLinkStatusState p, elFirst, elNext, elLost, elStatusAlertPend, devStatusDpReady, devStatusStage, devBootTimeToDp, rlLaneStatusExcluded p, rlRetrainCountCold p, rlEqCtrlTxPreset p, rlEqCtrlPresetForce p, rlEqCtrlDfeFreeze p, rlEqCtrlCtleFixed p, rlEqCtrlCtleValue p, rlLinkStatusPwr p, rlLinkStatusReversed p, rlLinkStatusClkLane p, rlLaneStatusPolInv p] s u₀ := by
  unfold execTrainStateTimer at h
  try dsimp only at h
  (repeat' split at h) <;> (injection h with h; subst h; simp) <;> (repeat' split) <;> simp

theorem execAttemptIdleEnd_regs {p : Nat} {s : State} {u₀ : State} (h : execAttemptIdleEnd p s = .next u₀) :
    OnlyRegs [rlLinkStatusAttempt p, rlEqCtrlTxPreset p, rlEqCtrlPresetForce p, rlEqCtrlDfeFreeze p, rlEqCtrlCtleFixed p, rlEqCtrlCtleValue p, rlLinkStatusState p, rlLinkStatusPwr p, rlLinkStatusWidth p, rlLinkStatusLanes p, rlLinkStatusReversed p, rlLinkStatusClkLane p, rlLinkStatusClkLocal p, rlLaneStatusPolInv p] s u₀ := by
  unfold execAttemptIdleEnd at h
  (repeat' split at h) <;> (injection h with h; subst h; simp)

theorem execLinkLost_regs {p : Nat} {s : State} {u₀ : State} (h : execLinkLost p s = .next u₀) :
    OnlyRegs [rlLinkStatusChanged p, rlRetrainCountCold p, rlLinkStatusAttempt p, rlEqCtrlTxPreset p, rlEqCtrlPresetForce p, rlEqCtrlDfeFreeze p, rlEqCtrlCtleFixed p, rlEqCtrlCtleValue p, rlLinkStatusState p, rlLinkStatusPwr p, rlLinkStatusWidth p, rlLinkStatusLanes p, rlLinkStatusReversed p, rlLinkStatusClkLane p, rlLinkStatusClkLocal p, rlLaneStatusPolInv p] s u₀ := by
  unfold execLinkLost at h
  (repeat' split at h) <;> (injection h with h; subst h; simp)

theorem execWarmIdleTimer_regs {p : Nat} {s : State} {u₀ : State} (h : execWarmIdleTimer p s = .next u₀) :
    OnlyRegs [rlTxCreditVc3 p, rlLinkStatusPwr p, rlLinkStatusClkLocal p, plClkActive, rlSeqTxNext p] s u₀ := by
  unfold execWarmIdleTimer at h
  (repeat' split at h) <;> (injection h with h; subst h; simp)

theorem execBankedIdleTimer_regs {p : Nat} {s : State} {u₀ : State} (h : execBankedIdleTimer p s = .next u₀) :
    OnlyRegs [rlLinkStatusPwr p, rlLinkStatusClkLocal p, plClkActive, rlTxCreditVc3 p, rlSeqTxNext p] s u₀ := by
  unfold execBankedIdleTimer at h
  (repeat' split at h) <;> (injection h with h; subst h; simp)

theorem execWarmExit_regs {p : Nat} {s : State} {u₀ : State} (h : execWarmExit p s = .next u₀) :
    OnlyRegs [rlLinkStatusPwr p, rlLinkStatusClkLocal p, plClkActive] s u₀ := by
  unfold execWarmExit at h
  (repeat' split at h) <;> (injection h with h; subst h; simp)

theorem execBankedExit_regs {p : Nat} {s : State} {u₀ : State} (h : execBankedExit p s = .next u₀) :
    OnlyRegs [plPwrOn, plClkActive, rlLinkStatusState p, rlLinkStatusPwr p, rlLinkStatusClkLocal p, rlLaneStatusExcluded p, rlLinkStatusChanged p, rlRetrainCountCold p, rlLinkStatusAttempt p, rlEqCtrlTxPreset p, rlEqCtrlPresetForce p, rlEqCtrlDfeFreeze p, rlEqCtrlCtleFixed p, rlEqCtrlCtleValue p, rlLinkStatusWidth p, rlLinkStatusLanes p, rlLinkStatusReversed p, rlLinkStatusClkLane p, rlLaneStatusPolInv p] s u₀ := by
  unfold execBankedExit at h
  try dsimp only at h
  (repeat' split at h) <;> (injection h with h; subst h; simp) <;> (repeat' split) <;> simp

theorem execBankedFastPathTimeout_regs {p : Nat} {s : State} {u₀ : State} (h : execBankedFastPathTimeout p s = .next u₀) :
    OnlyRegs [rlLinkStatusChanged p, rlLaneStatusExcluded p, rlRetrainCountCold p, rlLinkStatusAttempt p, rlEqCtrlTxPreset p, rlEqCtrlPresetForce p, rlEqCtrlDfeFreeze p, rlEqCtrlCtleFixed p, rlEqCtrlCtleValue p, rlLinkStatusState p, rlLinkStatusPwr p, rlLinkStatusWidth p, rlLinkStatusLanes p, rlLinkStatusReversed p, rlLinkStatusClkLane p, rlLinkStatusClkLocal p, rlLaneStatusPolInv p] s u₀ := by
  unfold execBankedFastPathTimeout at h
  (repeat' split at h) <;> (injection h with h; subst h; simp)

theorem execFramingCodewordRx_regs {p : Nat} {c : Codeword} {s : State} {u₀ : State} (h : execFramingCodewordRx p c s = .next u₀) :
    OnlyRegs [rlFecStatUncorrCw p, rlFecStatCorrCw p, rlFecSymCorrSym p] s u₀ := by
  unfold execFramingCodewordRx at h
  try dsimp only at h
  (repeat' split at h) <;> (injection h with h; subst h; simp) <;> (repeat' split) <;> simp

theorem execLinkUpdateRx_regs {p : Nat} {b : List Byte} {s : State} {u₀ : State} (h : execLinkUpdateRx p b s = .next u₀) :
    OnlyRegs [rlTxCreditVc2 p, rlTxCreditVc3 p, rlReplayNaks p, rlLinkStatusPwr p, rlLinkStatusClkLocal p, plClkActive, rlSeqTxNext p, rlSeqRxAckSeq p, rlReplayReplays p] s u₀ := by
  unfold execLinkUpdateRx at h
  try dsimp only at h
  (repeat' split at h) <;> (injection h with h; subst h; simp) <;> (repeat' split) <;> simp

theorem execLinkUpdateSend_regs {p : Nat} {s : State} {u₀ : State} (h : execLinkUpdateSend p s = .next u₀) :
    OnlyRegs [rlReplayNaks p, rlLinkStatusPwr p, rlLinkStatusClkLocal p, plClkActive, rlSeqTxNext p, rlSeqRxAckSeq p] s u₀ := by
  unfold execLinkUpdateSend at h
  (repeat' split at h) <;> (injection h with h; subst h; simp)

theorem execNakRetryTimeout_regs {p : Nat} {s : State} {u₀ : State} (h : execNakRetryTimeout p s = .next u₀) :
    OnlyRegs [rlReplayNaks p, rlLinkStatusPwr p, rlLinkStatusClkLocal p, plClkActive, rlSeqTxNext p, rlSeqRxAckSeq p] s u₀ := by
  unfold execNakRetryTimeout at h
  (repeat' split at h) <;> (injection h with h; subst h; simp)

theorem execReplayTimeout_regs {p : Nat} {s : State} {u₀ : State} (h : execReplayTimeout p s = .next u₀) :
    OnlyRegs [rlReplayReplays p, rlSeqTxNext p, rlReplayStalled p, elFirst, elNext, elLost, elStatusAlertPend] s u₀ := by
  unfold execReplayTimeout at h
  try dsimp only at h
  (repeat' split at h) <;> (injection h with h; subst h; simp) <;> (repeat' split) <;> simp

theorem execInit_regs {p : Nat} {b : List Byte} {s : State} {u₀ : State} (h : execInit p b s = .next u₀) :
    OnlyRegs [rlTxCreditVc2 p, rlTxCreditVc3 p, rlReplayNaks p, rlLinkStatusPwr p, rlLinkStatusClkLocal p, plClkActive, rlSeqTxNext p, rlSeqRxAckSeq p] s u₀ := by
  unfold execInit at h
  try dsimp only at h
  (repeat' split at h) <;> (injection h with h; subst h; simp) <;> (repeat' split) <;> simp

theorem execPwrReq_regs {p : Nat} {flit : List Byte} {s : State} {u₀ : State} (h : execPwrReq p flit s = .next u₀) :
    OnlyRegs [rlTxCreditVc3 p, rlLinkStatusPwr p, rlLinkStatusClkLocal p, plClkActive, rlSeqTxNext p] s u₀ := by
  unfold execPwrReq at h
  try dsimp only at h
  (repeat' split at h) <;> (injection h with h; subst h; simp) <;> (repeat' split) <;> simp

theorem execPwrAck_regs {p : Nat} {flit : List Byte} {s : State} {u₀ : State} (h : execPwrAck p flit s = .next u₀) :
    OnlyRegs [rlSeqTxNext p, rlLinkStatusPwr p, rlLinkStatusClkLocal p, plClkActive] s u₀ := by
  unfold execPwrAck at h
  try dsimp only at h
  (repeat' split at h) <;> (injection h with h; subst h; simp) <;> (repeat' split) <;> simp

theorem execPwrRefuse_regs {p : Nat} {flit : List Byte} {s : State} {u₀ : State} (h : execPwrRefuse p flit s = .next u₀) :
    OnlyRegs [] s u₀ := 
  .of_only (execPwrRefuse_only h) (by decide)

theorem execPwrReqTimeout_regs {p : Nat} {s : State} {u₀ : State} (h : execPwrReqTimeout p s = .next u₀) :
    OnlyRegs [] s u₀ := 
  .of_only (execPwrReqTimeout_only h) (by decide)

theorem execDownNoticeTimeout_regs {p : Nat} {s : State} {u₀ : State} (h : execDownNoticeTimeout p s = .next u₀) :
    OnlyRegs [] s u₀ := 
  .of_only (execDownNoticeTimeout_only h) (by decide)

theorem execUnknownDataOpcode_regs {r : Req} {s : State} {u₀ : State} (h : execUnknownDataOpcode r s = .next u₀) :
    OnlyRegs [rlProtoErrOpcode r.port, rlEgressBytes r.port, rxFree r.port (reqChannel r), rlProtoErrCredit r.port, qmRefuseState, teRefused] s u₀ := by
  unfold execUnknownDataOpcode at h
  split at h
  · injection h with h
    subst h
    simp
  · exact runRequest_regs h (by simp) (fun x => by simp)

theorem execEnq_regs {r : Req} {s : State} {u₀ : State} (h : execEnq r s = .next u₀) :
    OnlyRegs (controllerRegs ++ [mvSpreadDetours, mvSpreadMin, rlProtoErrLength r.port, rlEgressBytes r.port, qmRefuseState, qmRefuseQfull, qmRefusePool, qmBrokenQueue, qmBrokenCount, elFirst, elNext, elLost, elStatusAlertPend, qmEnqCount, rxFree r.port (reqChannel r), rlProtoErrCredit r.port, teRefused]) s u₀ := by
  unfold execEnq at h
  dsimp only at h
  split at h
  · injection h with h
    subst h
    simp
  · refine runRequest_regs h (by simp) (fun x => ?_)
    split <;> simp

theorem execDeq_regs {r : Req} {s : State} {u₀ : State} (h : execDeq r s = .next u₀) :
    OnlyRegs (controllerRegs ++ [rlEgressBytes r.port, qmBrokenQueue, qmBrokenCount, elFirst, elNext, elLost, elStatusAlertPend, mvDrainBlocks, qmDeqCount, qmLostPackets, qmPoisonPackets, rlProtoErrLength r.port, qmRefuseState, rxFree r.port (reqChannel r), rlProtoErrCredit r.port, teRefused]) s u₀ := by
  unfold execDeq at h
  (repeat' split at h) <;>
  · refine runRequest_regs h (by simp) (fun x => ?_)
    try unfold serveQueue
    try dsimp only
    (repeat' split) <;> simp

theorem execPeek_regs {r : Req} {s : State} {u₀ : State} (h : execPeek r s = .next u₀) :
    OnlyRegs (controllerRegs ++ [rlEgressBytes r.port, qmBrokenQueue, qmBrokenCount, elFirst, elNext, elLost, elStatusAlertPend, rlProtoErrLength r.port, qmRefuseState, rxFree r.port (reqChannel r), rlProtoErrCredit r.port, teRefused]) s u₀ := by
  unfold execPeek at h
  (repeat' split at h) <;>
  · refine runRequest_regs h (by simp) (fun x => ?_)
    try unfold serveQueue
    try dsimp only
    (repeat' split) <;> simp

theorem execDropHead_regs {r : Req} {s : State} {u₀ : State} (h : execDropHead r s = .next u₀) :
    OnlyRegs (controllerRegs ++ [rlEgressBytes r.port, qmBrokenQueue, qmBrokenCount, elFirst, elNext, elLost, elStatusAlertPend, mvDrainBlocks, qmDeqCount, qmLostPackets, rlProtoErrLength r.port, qmRefuseState, rxFree r.port (reqChannel r), rlProtoErrCredit r.port, teRefused]) s u₀ := by
  unfold execDropHead at h
  refine runRequest_regs h (by simp) (fun x => ?_)
  unfold serveQueue
  dsimp only
  (repeat' split) <;> first
    | (simp; done)
    | exact OnlyRegs.trans (OnlyRegs.trans (OnlyRegs.foldlI _ _ (fun y a => by simp) (by simp)) ((State.applyWalk_regs _ _ _ _).mono (by simp)))
        ((State.answerDrop_regs _ _ _ _ _ _).mono (by simp))

theorem execQstat_regs {r : Req} {s : State} {u₀ : State} (h : execQstat r s = .next u₀) :
    OnlyRegs [qmBrokenQueue, qmBrokenCount, elFirst, elNext, elLost, elStatusAlertPend, rlEgressBytes r.port, rlProtoErrLength r.port, qmRefuseState, rxFree r.port (reqChannel r), rlProtoErrCredit r.port, teRefused] s u₀ := by
  unfold execQstat at h
  (repeat' split at h) <;>
  · refine runRequest_regs h (by simp) (fun x => ?_)
    try unfold serveQueue
    try dsimp only
    (repeat' split) <;> simp

theorem execLookup_regs {r : Req} {s : State} {u₀ : State} (h : execLookup r s = .next u₀) :
    OnlyRegs (controllerRegs ++ [teRefused, rlProtoErrLength r.port, rlEgressBytes r.port, teDramReads, teMirrorSaves, teLookup, teMiss, teMemerr, teCntOps, rxFree r.port (reqChannel r), rlProtoErrCredit r.port, qmRefuseState]) s u₀ := by
  unfold execLookup runTable at h
  refine runRequest_regs h (by simp) (fun x => ?_)
  try dsimp only
  (repeat' split) <;> simp

theorem execLookupMulti_regs {r : Req} {s : State} {u₀ : State} (h : execLookupMulti r s = .next u₀) :
    OnlyRegs (controllerRegs ++ [teRefused, rlProtoErrLength r.port, rlEgressBytes r.port, teDramReads, teMirrorSaves, teLookup, teMiss, teMemerr, teCntOps, rxFree r.port (reqChannel r), rlProtoErrCredit r.port, qmRefuseState]) s u₀ := by
  unfold execLookupMulti runTable at h
  refine runRequest_regs h (by simp) (fun x => ?_)
  try dsimp only
  (repeat' split) <;> simp

theorem execCntAdd_regs {r : Req} {s : State} {u₀ : State} (h : execCntAdd r s = .next u₀) :
    OnlyRegs (controllerRegs ++ [teRefused, rlProtoErrLength r.port, rlEgressBytes r.port, teDramReads, teMirrorSaves, teLookup, teMiss, teMemerr, teCntOps, rxFree r.port (reqChannel r), rlProtoErrCredit r.port, qmRefuseState]) s u₀ := by
  unfold execCntAdd runTable at h
  refine runRequest_regs h (by simp) (fun x => ?_)
  try dsimp only
  (repeat' split) <;> simp

theorem execCntRead_regs {r : Req} {s : State} {u₀ : State} (h : execCntRead r s = .next u₀) :
    OnlyRegs (controllerRegs ++ [teRefused, rlProtoErrLength r.port, rlEgressBytes r.port, teDramReads, teMirrorSaves, teLookup, teMiss, teMemerr, teCntOps, rxFree r.port (reqChannel r), rlProtoErrCredit r.port, qmRefuseState]) s u₀ := by
  unfold execCntRead runTable at h
  refine runRequest_regs h (by simp) (fun x => ?_)
  try dsimp only
  (repeat' split) <;> simp

theorem execCntReadClear_regs {r : Req} {s : State} {u₀ : State} (h : execCntReadClear r s = .next u₀) :
    OnlyRegs (controllerRegs ++ [teRefused, rlProtoErrLength r.port, rlEgressBytes r.port, teDramReads, teMirrorSaves, teLookup, teMiss, teMemerr, teCntOps, rxFree r.port (reqChannel r), rlProtoErrCredit r.port, qmRefuseState]) s u₀ := by
  unfold execCntReadClear runTable at h
  refine runRequest_regs h (by simp) (fun x => ?_)
  try dsimp only
  (repeat' split) <;> simp

theorem execEcho_regs {r : Req} {s : State} {u₀ : State} (h : execEcho r s = .next u₀) :
    OnlyRegs [rlProtoErrLength r.port, rlEgressBytes r.port, rxFree r.port (reqChannel r), rlProtoErrCredit r.port, qmRefuseState, teRefused] s u₀ := by
  unfold execEcho at h
  (repeat' split at h) <;>
  · refine runRequest_regs h (by simp) (fun x => ?_)
    try unfold serveQueue
    try dsimp only
    (repeat' split) <;> simp

theorem execSnapshotReq_regs {r : Req} {s : State} {u₀ : State} (h : execSnapshotReq r s = .next u₀) :
    OnlyRegs [rlProtoErrLength r.port, rlEgressBytes r.port, qmStatusSnapPending, rxFree r.port (reqChannel r), rlProtoErrCredit r.port, qmRefuseState, teRefused] s u₀ := by
  unfold execSnapshotReq at h
  (repeat' split at h) <;>
  · refine runRequest_regs h (by simp) (fun x => ?_)
    try unfold serveQueue
    try dsimp only
    (repeat' split) <;> simp

theorem execReplySend_regs {p : Nat} {s : State} {u₀ : State} (h : execReplySend p s = .next u₀) :
    OnlyRegs [rlTxCreditVc2 p, rlEgressBytes p, rlLinkStatusPwr p, rlLinkStatusClkLocal p, plClkActive, rlSeqTxNext p] s u₀ := by
  unfold execReplySend at h
  try dsimp only at h
  (repeat' split at h) <;> (injection h with h; subst h; simp) <;> (repeat' split) <;> simp

theorem execConfigRequest_regs {a : CfgAccess} {s : State} {u₀ : State} (h : execConfigRequest a s = .next u₀) :
    OnlyRegs [] s u₀ := 
  .of_only (execConfigRequest_only h) (by decide)

theorem execBar0BadAccess_regs {k : BadAccess} {off : Nat} {s : State} {u₀ : State} (h : execBar0BadAccess k off s = .next u₀) :
    OnlyRegs [hcBadAccess, elFirst, elNext, elLost, elStatusAlertPend] s u₀ := by
  unfold execBar0BadAccess at h
  (repeat' split at h) <;> (injection h with h; subst h; simp)

theorem execRingEnable_regs {r : Nat} {s : State} {u₀ : State} (h : execRingEnable r s = .next u₀) :
    OnlyRegs [elFirst, elNext, elLost, elStatusAlertPend, hcRingCtrlEnable r, hcRingStatusEnabled r, hcRingStatusExpert r, hcSqHead r, hcCqTailIndex r, hcCqTailPhase r, hcRingStatusInFlight r, hcRingStatusIdle r, hcRingStatusWaiting r, hcCfgReject] s u₀ := by
  unfold execRingEnable at h
  try dsimp only at h
  (repeat' split at h) <;> first
    | (injection h with h; subst h; simp; done)
    | (rename_i hr; injection h with h; subst h; exact (State.refusesWrite_regs _ _ _ hr).mono (by simp))

theorem execRingDisable_regs {r : Nat} {s : State} {u₀ : State} (h : execRingDisable r s = .next u₀) :
    OnlyRegs [elFirst, elNext, elLost, elStatusAlertPend, hcRingCtrlEnable r, hcRingStatusEnabled r, hcRingStatusExpert r, hcRingStatusInFlight r, hcRingStatusIdle r, hcRingStatusWaiting r] s u₀ := by
  unfold execRingDisable at h
  try dsimp only at h
  (repeat' split at h) <;> first
    | (injection h with h; subst h; simp; done)
    | (rename_i hr; injection h with h; subst h; exact (State.refusesWrite_regs _ _ _ hr).mono (by simp))

theorem execSqTailDoorbell_regs {r : Nat} {v : Nat} {s : State} {u₀ : State} (h : execSqTailDoorbell r v s = .next u₀) :
    OnlyRegs [elFirst, elNext, elLost, elStatusAlertPend, hcRingCtrlEnable r, hcRingStatusEnabled r, hcRingStatusExpert r, hcRingStatusInFlight r, hcRingStatusIdle r, hcRingStatusWaiting r, hcRingStatusError r, hcRingStatusErrCode r] s u₀ := by
  unfold execSqTailDoorbell at h
  try dsimp only at h
  (repeat' split at h) <;> first
    | (injection h with h; subst h; simp; done)
    | (rename_i hr; injection h with h; subst h; exact (State.refusesWrite_regs _ _ _ hr).mono (by simp))

theorem execCqHeadDoorbell_regs {r : Nat} {v : Nat} {s : State} {u₀ : State} (h : execCqHeadDoorbell r v s = .next u₀) :
    OnlyRegs [elFirst, elNext, elLost, elStatusAlertPend, hcRingCtrlEnable r, hcRingStatusEnabled r, hcRingStatusExpert r, hcRingStatusInFlight r, hcRingStatusIdle r, hcRingStatusWaiting r, hcRingStatusError r, hcRingStatusErrCode r] s u₀ := by
  unfold execCqHeadDoorbell at h
  try dsimp only at h
  (repeat' split at h) <;> first
    | (injection h with h; subst h; simp; done)
    | (rename_i hr; injection h with h; subst h; exact (State.refusesWrite_regs _ _ _ hr).mono (by simp))

theorem execRingEntryFetch_regs {r : Nat} {es : List Sqe} {s : State} {u₀ : State} (h : execRingEntryFetch r es s = .next u₀) :
    OnlyRegs [hcSqHead r] s u₀ := by
  unfold execRingEntryFetch at h
  (repeat' split at h) <;> (injection h with h; subst h; simp)

theorem execRingEntryStart_regs {r : Nat} {s : State} {u₀ : State} (h : execRingEntryStart r s = .next u₀) :
    OnlyRegs [hcRingStatusInFlight r, hcRingStatusIdle r, hcRingStatusWaiting r, hcCqTailIndex r, hcCqTailPhase r] s u₀ := by
  unfold execRingEntryStart at h
  (repeat' split at h) <;> first
    | (injection h with h; subst h; simp)
    | exact absurd h (by simp)

theorem execMsixModerationTimer_regs {r : Nat} {s : State} {u₀ : State} (h : execMsixModerationTimer r s = .next u₀) :
    OnlyRegs [] s u₀ := 
  .of_only (execMsixModerationTimer_only h) (by decide)

theorem execMsixUnmask_regs {v : Option Nat} {s : State} {u₀ : State} (h : execMsixUnmask v s = .next u₀) :
    OnlyRegs [elFirst, elNext, elLost, elStatusAlertPend] s u₀ := by
  unfold execMsixUnmask at h
  try dsimp only at h
  (repeat' split at h) <;> first
    | (injection h with h; subst h; simp; done)
    | (rename_i hr; injection h with h; subst h; exact (State.refusesWrite_regs _ _ _ hr).mono (by simp))

theorem execPcieL1Entry_regs {s : State} {u₀ : State} (h : execPcieL1Entry s = .next u₀) :
    OnlyRegs [] s u₀ := 
  .of_only (execPcieL1Entry_only h) (by decide)

theorem execD3hotEntry_regs {s : State} {u₀ : State} (h : execD3hotEntry s = .next u₀) :
    OnlyRegs [] s u₀ := 
  .of_only (execD3hotEntry_only h) (by decide)

theorem execD0Return_regs {s : State} {u₀ : State} (h : execD0Return s = .next u₀) :
    OnlyRegs [] s u₀ := 
  .of_only (execD0Return_only h) (by decide)

theorem execDevIdentify_regs {e : Sqe} {s : State} {u₀ : State} (h : execDevIdentify e s = .next u₀) :
    OnlyRegs [hcCqTailIndex e.ring, hcCqTailPhase e.ring, hcRingStatusInFlight e.ring, hcRingStatusIdle e.ring, hcRingStatusWaiting e.ring] s u₀ := by
  refine runCommand_regs h (by simp) (fun x => ?_)
  try dsimp only
  (repeat' split) <;> simp

end Sys2Proof.Machine
end

