-- ==== Sys2Proof/Laws/RegsExecB.lean ====
section
/-!
SUPPORT. Which register fields each command can change: one lemma for each meaning whose fields do not depend on the state.
-/
namespace Sys2Proof.Machine

theorem execDevHealth_regs {e : Sqe} {s : State} {u₀ : State} (h : execDevHealth e s = .next u₀) :
    OnlyRegs [hcCqTailIndex e.ring, hcCqTailPhase e.ring, hcRingStatusInFlight e.ring, hcRingStatusIdle e.ring, hcRingStatusWaiting e.ring] s u₀ := by
  refine runCommand_regs h (by simp) (fun x => ?_)
  try dsimp only
  (repeat' split) <;> simp

theorem execPowerInfo_regs {e : Sqe} {mw : Nat} {s : State} {u₀ : State} (h : execPowerInfo e mw s = .next u₀) :
    OnlyRegs [hcCqTailIndex e.ring, hcCqTailPhase e.ring, hcRingStatusInFlight e.ring, hcRingStatusIdle e.ring, hcRingStatusWaiting e.ring] s u₀ := by
  refine runCommand_regs h (by simp) (fun x => ?_)
  try dsimp only
  (repeat' split) <;> simp

theorem execRecoveryReport_regs {e : Sqe} {s : State} {u₀ : State} (h : execRecoveryReport e s = .next u₀) :
    OnlyRegs [hcCqTailIndex e.ring, hcCqTailPhase e.ring, hcRingStatusInFlight e.ring, hcRingStatusIdle e.ring, hcRingStatusWaiting e.ring] s u₀ := by
  refine runCommand_regs h (by simp) (fun x => ?_)
  try dsimp only
  (repeat' split) <;> simp

theorem execExpertEnter_regs {e : Sqe} {s : State} {u₀ : State} (h : execExpertEnter e s = .next u₀) :
    OnlyRegs [hcRingStatusExpert e.ring, hcCqTailIndex e.ring, hcCqTailPhase e.ring, hcRingStatusInFlight e.ring, hcRingStatusIdle e.ring, hcRingStatusWaiting e.ring] s u₀ := by
  refine runCommand_regs h (by simp) (fun x => ?_)
  try dsimp only
  (repeat' split) <;> simp

theorem execExpertLeave_regs {e : Sqe} {s : State} {u₀ : State} (h : execExpertLeave e s = .next u₀) :
    OnlyRegs [hcRingStatusExpert e.ring, hcCqTailIndex e.ring, hcCqTailPhase e.ring, hcRingStatusInFlight e.ring, hcRingStatusIdle e.ring, hcRingStatusWaiting e.ring] s u₀ := by
  refine runCommand_regs h (by simp) (fun x => ?_)
  try dsimp only
  (repeat' split) <;> simp

theorem execErrlogRead_regs {e : Sqe} {s : State} {u₀ : State} (h : execErrlogRead e s = .next u₀) :
    OnlyRegs [hcCqTailIndex e.ring, hcCqTailPhase e.ring, hcRingStatusInFlight e.ring, hcRingStatusIdle e.ring, hcRingStatusWaiting e.ring] s u₀ := by
  refine runCommand_regs h (by simp) (fun x => ?_)
  try dsimp only
  (repeat' split) <;> simp

theorem execErrlogClear_regs {e : Sqe} {s : State} {u₀ : State} (h : execErrlogClear e s = .next u₀) :
    OnlyRegs [elFirst, elLost, elStatusAlertPend, hcCqTailIndex e.ring, hcCqTailPhase e.ring, hcRingStatusInFlight e.ring, hcRingStatusIdle e.ring, hcRingStatusWaiting e.ring] s u₀ := by
  refine runCommand_regs h (by simp) (fun x => ?_)
  try dsimp only
  (repeat' split) <;> simp

theorem execNop_regs {e : Sqe} {s : State} {u₀ : State} (h : execNop e s = .next u₀) :
    OnlyRegs [hcCqTailIndex e.ring, hcCqTailPhase e.ring, hcRingStatusInFlight e.ring, hcRingStatusIdle e.ring, hcRingStatusWaiting e.ring] s u₀ := by
  refine runCommand_regs h (by simp) (fun x => ?_)
  try dsimp only
  (repeat' split) <;> simp

theorem execQueueCfg_regs {e : Sqe} {s : State} {u₀ : State} (h : execQueueCfg e s = .next u₀) :
    OnlyRegs [hcCqTailIndex e.ring, hcCqTailPhase e.ring, hcRingStatusInFlight e.ring, hcRingStatusIdle e.ring, hcRingStatusWaiting e.ring] s u₀ := by
  refine runCommand_regs h (by simp) (fun x => ?_)
  try dsimp only
  (repeat' split) <;> simp

theorem execQueueRemove_regs {e : Sqe} {s : State} {u₀ : State} (h : execQueueRemove e s = .next u₀) :
    OnlyRegs [hcCqTailIndex e.ring, hcCqTailPhase e.ring, hcRingStatusInFlight e.ring, hcRingStatusIdle e.ring, hcRingStatusWaiting e.ring] s u₀ := by
  refine runCommand_regs h (by simp) (fun x => ?_)
  try dsimp only
  (repeat' split) <;> simp

theorem execQueueFlush_regs {e : Sqe} {s : State} {u₀ : State} (h : execQueueFlush e s = .next u₀) :
    OnlyRegs [hcCqTailIndex e.ring, hcCqTailPhase e.ring, hcRingStatusInFlight e.ring, hcRingStatusIdle e.ring, hcRingStatusWaiting e.ring] s u₀ := by
  refine runCommand_regs h (by simp) (fun x => ?_)
  try dsimp only
  (repeat' split) <;> simp

theorem execQueueInfo_regs {e : Sqe} {s : State} {u₀ : State} (h : execQueueInfo e s = .next u₀) :
    OnlyRegs [hcCqTailIndex e.ring, hcCqTailPhase e.ring, hcRingStatusInFlight e.ring, hcRingStatusIdle e.ring, hcRingStatusWaiting e.ring, qmBrokenQueue, qmBrokenCount, elFirst, elNext, elLost, elStatusAlertPend] s u₀ := by
  refine runCommand_regs h (by simp) (fun x => ?_)
  try dsimp only
  (repeat' split) <;> simp

theorem execSnapshotTake_regs {e : Sqe} {s : State} {u₀ : State} (h : execSnapshotTake e s = .next u₀) :
    OnlyRegs [hcCqTailIndex e.ring, hcCqTailPhase e.ring, hcRingStatusInFlight e.ring, hcRingStatusIdle e.ring, hcRingStatusWaiting e.ring, qmStatusSnapPending] s u₀ := by
  refine runCommand_regs h (by simp) (fun x => ?_)
  try dsimp only
  (repeat' split) <;> simp

theorem execSnapshotRead_regs {e : Sqe} {s : State} {u₀ : State} (h : execSnapshotRead e s = .next u₀) :
    OnlyRegs [hcCqTailIndex e.ring, hcCqTailPhase e.ring, hcRingStatusInFlight e.ring, hcRingStatusIdle e.ring, hcRingStatusWaiting e.ring] s u₀ := by
  refine runCommand_regs h (by simp) (fun x => ?_)
  try dsimp only
  (repeat' split) <;> simp

theorem execQueueReserve_regs {e : Sqe} {s : State} {u₀ : State} (h : execQueueReserve e s = .next u₀) :
    OnlyRegs [hcCqTailIndex e.ring, hcCqTailPhase e.ring, hcRingStatusInFlight e.ring, hcRingStatusIdle e.ring, hcRingStatusWaiting e.ring] s u₀ := by
  refine runCommand_regs h (by simp) (fun x => ?_)
  try dsimp only
  (repeat' split) <;> simp

theorem execQmPrefetch_regs {e : Sqe} {s : State} {u₀ : State} (h : execQmPrefetch e s = .next u₀) :
    OnlyRegs [hcCqTailIndex e.ring, hcCqTailPhase e.ring, hcRingStatusInFlight e.ring, hcRingStatusIdle e.ring, hcRingStatusWaiting e.ring, qmCtrlPrefetchDepth] s u₀ := by
  refine runCommand_regs h (by simp) (fun x => ?_)
  try dsimp only
  (repeat' split) <;> simp

theorem execTableCreate_regs {e : Sqe} {s : State} {u₀ : State} (h : execTableCreate e s = .next u₀) :
    OnlyRegs [hcCqTailIndex e.ring, hcCqTailPhase e.ring, hcRingStatusInFlight e.ring, hcRingStatusIdle e.ring, hcRingStatusWaiting e.ring, mvTierReplKib, mvTierHomeKib, mvTableUsedRows, teTablesCount] s u₀ := by
  refine runCommand_regs h (by simp) (fun x => ?_)
  try dsimp only
  (repeat' split) <;> simp

theorem execTableRowsReturn_regs {n : Nat} {s : State} {u₀ : State} (h : execTableRowsReturn n s = .next u₀) :
    OnlyRegs [mvTierReplKib, mvTierHomeKib, mvTableUsedRows, teTablesCount] s u₀ := by
  unfold execTableRowsReturn at h
  (repeat' split at h) <;> (injection h with h; subst h; simp)

theorem execTableInfo_regs {e : Sqe} {s : State} {u₀ : State} (h : execTableInfo e s = .next u₀) :
    OnlyRegs [hcCqTailIndex e.ring, hcCqTailPhase e.ring, hcRingStatusInFlight e.ring, hcRingStatusIdle e.ring, hcRingStatusWaiting e.ring] s u₀ := by
  refine runCommand_regs h (by simp) (fun x => ?_)
  try dsimp only
  (repeat' split) <;> simp

theorem execTableResize_regs {e : Sqe} {s : State} {u₀ : State} (h : execTableResize e s = .next u₀) :
    OnlyRegs (controllerRegs ++ [hcCqTailIndex e.ring, hcCqTailPhase e.ring, hcRingStatusInFlight e.ring, hcRingStatusIdle e.ring, hcRingStatusWaiting e.ring, mvTierReplKib, mvTierHomeKib, mvTableUsedRows, teTablesCount]) s u₀ := by
  refine runCommand_regs h (by simp) (fun x => ?_)
  try dsimp only
  (repeat' split) <;> simp

theorem execCntDump_regs {e : Sqe} {s : State} {u₀ : State} (h : execCntDump e s = .next u₀) :
    OnlyRegs (controllerRegs ++ [hcCqTailIndex e.ring, hcCqTailPhase e.ring, hcRingStatusInFlight e.ring, hcRingStatusIdle e.ring, hcRingStatusWaiting e.ring, teDramReads, teMirrorSaves, teCntOps]) s u₀ := by
  refine runCommand_regs h (by simp) (fun x => ?_)
  try dsimp only
  (repeat' split) <;> first
    | (simp; done)
    | (simp; exact OnlyRegs.foldlI _ _ (fun x a => by simp) (by simp))

theorem execTableTune_regs {e : Sqe} {s : State} {u₀ : State} (h : execTableTune e s = .next u₀) :
    OnlyRegs (controllerRegs ++ [hcCqTailIndex e.ring, hcCqTailPhase e.ring, hcRingStatusInFlight e.ring, hcRingStatusIdle e.ring, hcRingStatusWaiting e.ring, mvTierReplKib, mvTierHomeKib, mvTableUsedRows, teTablesCount]) s u₀ := by
  refine runCommand_regs h (by simp) (fun x => ?_)
  try dsimp only
  (repeat' split) <;> simp

theorem execTableUpdate_regs {e : Sqe} {h : HostRead} {s : State} {u₀ : State} (h : execTableUpdate e h s = .next u₀) :
    OnlyRegs (controllerRegs ++ [hcCqTailIndex e.ring, hcCqTailPhase e.ring, hcRingStatusInFlight e.ring, hcRingStatusIdle e.ring, hcRingStatusWaiting e.ring]) s u₀ := by
  refine runCommand_regs h (by simp) (fun x => ?_)
  try dsimp only
  (repeat' split) <;> simp

theorem execTableImage_regs {e : Sqe} {s : State} {u₀ : State} (h : execTableImage e s = .next u₀) :
    OnlyRegs [hcCqTailIndex e.ring, hcCqTailPhase e.ring, hcRingStatusInFlight e.ring, hcRingStatusIdle e.ring, hcRingStatusWaiting e.ring, mvTierReplKib, mvTierHomeKib, mvTableUsedRows, teTablesCount] s u₀ := by
  refine runCommand_regs h (by simp) (fun x => ?_)
  try dsimp only
  (repeat' split) <;> simp

theorem execVersionRowsRelease_regs {n : Nat} {s : State} {u₀ : State} (h : execVersionRowsRelease n s = .next u₀) :
    OnlyRegs [mvTierReplKib, mvTierHomeKib, mvTableUsedRows, teTablesCount] s u₀ := by
  unfold execVersionRowsRelease at h
  (repeat' split at h) <;> (injection h with h; subst h; simp)

theorem execCommitLog_regs {e : Sqe} {s : State} {u₀ : State} (h : execCommitLog e s = .next u₀) :
    OnlyRegs [hcCqTailIndex e.ring, hcCqTailPhase e.ring, hcRingStatusInFlight e.ring, hcRingStatusIdle e.ring, hcRingStatusWaiting e.ring] s u₀ := by
  refine runCommand_regs h (by simp) (fun x => ?_)
  try dsimp only
  (repeat' split) <;> simp

theorem execMemSplit_regs {e : Sqe} {s : State} {u₀ : State} (h : execMemSplit e s = .next u₀) :
    OnlyRegs [hcCqTailIndex e.ring, hcCqTailPhase e.ring, hcRingStatusInFlight e.ring, hcRingStatusIdle e.ring, hcRingStatusWaiting e.ring, mvSplitTUnits, mvEligible, mvStatusEligible, mvThermExcl, mvStatusFloorHit, mvStatusOut, mvPoolRows, mvRetiredBanks, qmPoolLimit] s u₀ := by
  refine runCommand_regs h (by simp) (fun x => ?_)
  try dsimp only
  (repeat' split) <;> simp

theorem execPlacementInfo_regs {e : Sqe} {s : State} {u₀ : State} (h : execPlacementInfo e s = .next u₀) :
    OnlyRegs [hcCqTailIndex e.ring, hcCqTailPhase e.ring, hcRingStatusInFlight e.ring, hcRingStatusIdle e.ring, hcRingStatusWaiting e.ring] s u₀ := by
  refine runCommand_regs h (by simp) (fun x => ?_)
  try dsimp only
  (repeat' split) <;> simp

theorem execTierReport_regs {e : Sqe} {s : State} {u₀ : State} (h : execTierReport e s = .next u₀) :
    OnlyRegs [hcCqTailIndex e.ring, hcCqTailPhase e.ring, hcRingStatusInFlight e.ring, hcRingStatusIdle e.ring, hcRingStatusWaiting e.ring] s u₀ := by
  refine runCommand_regs h (by simp) (fun x => ?_)
  try dsimp only
  (repeat' split) <;> simp

theorem execMvTune_regs {e : Sqe} {s : State} {u₀ : State} (h : execMvTune e s = .next u₀) :
    OnlyRegs [hcCqTailIndex e.ring, hcCqTailPhase e.ring, hcRingStatusInFlight e.ring, hcRingStatusIdle e.ring, hcRingStatusWaiting e.ring] s u₀ := by
  refine runCommand_regs h (by simp) (fun x => ?_)
  try dsimp only
  (repeat' split) <;> simp

theorem execMvTableHint_regs {e : Sqe} {s : State} {u₀ : State} (h : execMvTableHint e s = .next u₀) :
    OnlyRegs [hcCqTailIndex e.ring, hcCqTailPhase e.ring, hcRingStatusInFlight e.ring, hcRingStatusIdle e.ring, hcRingStatusWaiting e.ring] s u₀ := by
  refine runCommand_regs h (by simp) (fun x => ?_)
  try dsimp only
  (repeat' split) <;> simp

theorem execMemInfo_regs {e : Sqe} {s : State} {u₀ : State} (h : execMemInfo e s = .next u₀) :
    OnlyRegs [hcCqTailIndex e.ring, hcCqTailPhase e.ring, hcRingStatusInFlight e.ring, hcRingStatusIdle e.ring, hcRingStatusWaiting e.ring] s u₀ := by
  refine runCommand_regs h (by simp) (fun x => ?_)
  try dsimp only
  (repeat' split) <;> simp

theorem execIntegrityInfo_regs {e : Sqe} {s : State} {u₀ : State} (h : execIntegrityInfo e s = .next u₀) :
    OnlyRegs [hcCqTailIndex e.ring, hcCqTailPhase e.ring, hcRingStatusInFlight e.ring, hcRingStatusIdle e.ring, hcRingStatusWaiting e.ring] s u₀ := by
  refine runCommand_regs h (by simp) (fun x => ?_)
  try dsimp only
  (repeat' split) <;> simp

theorem execScrubCfg_regs {e : Sqe} {s : State} {u₀ : State} (h : execScrubCfg e s = .next u₀) :
    OnlyRegs [hcCqTailIndex e.ring, hcCqTailPhase e.ring, hcRingStatusInFlight e.ring, hcRingStatusIdle e.ring, hcRingStatusWaiting e.ring, fxCfgSweepMin, fxStatusProgress] s u₀ := by
  refine runCommand_regs h (by simp) (fun x => ?_)
  try dsimp only
  (repeat' split) <;> simp

theorem execBucketCfg_regs {e : Sqe} {s : State} {u₀ : State} (h : execBucketCfg e s = .next u₀) :
    OnlyRegs [hcCqTailIndex e.ring, hcCqTailPhase e.ring, hcRingStatusInFlight e.ring, hcRingStatusIdle e.ring, hcRingStatusWaiting e.ring, igBktDepthDepth (e.par 16 1), igBktLeakMs (e.par 16 1)] s u₀ := by
  refine runCommand_regs h (by simp) (fun x => ?_)
  try dsimp only
  (repeat' split) <;> simp

theorem execRetireCfg_regs {e : Sqe} {s : State} {u₀ : State} (h : execRetireCfg e s = .next u₀) :
    OnlyRegs [hcCqTailIndex e.ring, hcCqTailPhase e.ring, hcRingStatusInFlight e.ring, hcRingStatusIdle e.ring, hcRingStatusWaiting e.ring, igRetireCfgAutoEn, igRetireCfgMax, igRetireCfgUeWindow] s u₀ := by
  refine runCommand_regs h (by simp) (fun x => ?_)
  try dsimp only
  (repeat' split) <;> simp

theorem execStageMap_regs {e : Sqe} {s : State} {u₀ : State} (h : execStageMap e s = .next u₀) :
    OnlyRegs [hcCqTailIndex e.ring, hcCqTailPhase e.ring, hcRingStatusInFlight e.ring, hcRingStatusIdle e.ring, hcRingStatusWaiting e.ring, hcStageKind, hcStageWrite, hcStageBase] s u₀ := by
  refine runCommand_regs h (by simp) (fun x => ?_)
  try dsimp only
  (repeat' split) <;> simp

theorem execBudgetSet_regs {e : Sqe} {h : HostRead} {s : State} {u₀ : State} (h : execBudgetSet e h s = .next u₀) :
    OnlyRegs [hcCqTailIndex e.ring, hcCqTailPhase e.ring, hcRingStatusInFlight e.ring, hcRingStatusIdle e.ring, hcRingStatusWaiting e.ring, rgCommitted, rgScaleK, rgStatusScaled, rgStatusBreach, rgBreachCount, elFirst, elNext, elLost, elStatusAlertPend] s u₀ := by
  refine runCommand_regs h (by simp) (fun x => ?_)
  try dsimp only
  (repeat' split) <;> simp

theorem execBudgetGet_regs {e : Sqe} {s : State} {u₀ : State} (h : execBudgetGet e s = .next u₀) :
    OnlyRegs [hcCqTailIndex e.ring, hcCqTailPhase e.ring, hcRingStatusInFlight e.ring, hcRingStatusIdle e.ring, hcRingStatusWaiting e.ring] s u₀ := by
  refine runCommand_regs h (by simp) (fun x => ?_)
  try dsimp only
  (repeat' split) <;> simp

theorem execRegStatus_regs {e : Sqe} {s : State} {u₀ : State} (h : execRegStatus e s = .next u₀) :
    OnlyRegs [hcCqTailIndex e.ring, hcCqTailPhase e.ring, hcRingStatusInFlight e.ring, hcRingStatusIdle e.ring, hcRingStatusWaiting e.ring] s u₀ := by
  refine runCommand_regs h (by simp) (fun x => ?_)
  try dsimp only
  (repeat' split) <;> simp

theorem execRegWindow_regs {e : Sqe} {s : State} {u₀ : State} (h : execRegWindow e s = .next u₀) :
    OnlyRegs [hcCqTailIndex e.ring, hcCqTailPhase e.ring, hcRingStatusInFlight e.ring, hcRingStatusIdle e.ring, hcRingStatusWaiting e.ring, rgCfgWindow] s u₀ := by
  refine runCommand_regs h (by simp) (fun x => ?_)
  try dsimp only
  (repeat' split) <;> simp

theorem execRgCfgWindowWrite_regs {v : Nat} {s : State} {u₀ : State} (h : execRgCfgWindowWrite v s = .next u₀) :
    OnlyRegs [elFirst, elNext, elLost, elStatusAlertPend, rgCfgWindow] s u₀ := by
  unfold execRgCfgWindowWrite at h
  try dsimp only at h
  (repeat' split at h) <;> first
    | (injection h with h; subst h; simp; done)
    | (rename_i hr; injection h with h; subst h; exact (State.refusesWrite_regs _ _ _ hr).mono (by simp))

theorem execRegPlan_regs {e : Sqe} {s : State} {u₀ : State} (h : execRegPlan e s = .next u₀) :
    OnlyRegs [hcCqTailIndex e.ring, hcCqTailPhase e.ring, hcRingStatusInFlight e.ring, hcRingStatusIdle e.ring, hcRingStatusWaiting e.ring, rgCfgPlanRate] s u₀ := by
  refine runCommand_regs h (by simp) (fun x => ?_)
  try dsimp only
  (repeat' split) <;> simp

theorem execThermRead_regs {e : Sqe} {s : State} {u₀ : State} (h : execThermRead e s = .next u₀) :
    OnlyRegs [hcCqTailIndex e.ring, hcCqTailPhase e.ring, hcRingStatusInFlight e.ring, hcRingStatusIdle e.ring, hcRingStatusWaiting e.ring] s u₀ := by
  refine runCommand_regs h (by simp) (fun x => ?_)
  try dsimp only
  (repeat' split) <;> simp

theorem execThermLimits_regs {e : Sqe} {s : State} {u₀ : State} (h : execThermLimits e s = .next u₀) :
    OnlyRegs [hcCqTailIndex e.ring, hcCqTailPhase e.ring, hcRingStatusInFlight e.ring, hcRingStatusIdle e.ring, hcRingStatusWaiting e.ring] s u₀ := by
  refine runCommand_regs h (by simp) (fun x => ?_)
  try dsimp only
  (repeat' split) <;> simp

theorem execThermWarnSet_regs {e : Sqe} {s : State} {u₀ : State} (h : execThermWarnSet e s = .next u₀) :
    OnlyRegs [hcCqTailIndex e.ring, hcCqTailPhase e.ring, hcRingStatusInFlight e.ring, hcRingStatusIdle e.ring, hcRingStatusWaiting e.ring, thresholdFld (e.par 16 1 == 0) 1] s u₀ := by
  refine runCommand_regs h (by simp) (fun x => ?_)
  try dsimp only
  (repeat' split) <;> simp

theorem execThermLimitSet_regs {e : Sqe} {s : State} {u₀ : State} (h : execThermLimitSet e s = .next u₀) :
    OnlyRegs [thresholdFld (e.par 16 1 == 0) (e.par 17 1), hcCqTailIndex e.ring, hcCqTailPhase e.ring, hcRingStatusInFlight e.ring, hcRingStatusIdle e.ring, hcRingStatusWaiting e.ring] s u₀ := by
  refine runCommand_regs h (by simp) (fun x => ?_)
  try dsimp only
  (repeat' split) <;> simp

theorem execCulletGet_regs {e : Sqe} {s : State} {u₀ : State} (h : execCulletGet e s = .next u₀) :
    OnlyRegs [hcCqTailIndex e.ring, hcCqTailPhase e.ring, hcRingStatusInFlight e.ring, hcRingStatusIdle e.ring, hcRingStatusWaiting e.ring] s u₀ := by
  refine runCommand_regs h (by simp) (fun x => ?_)
  try dsimp only
  (repeat' split) <;> simp

theorem execCalSave_regs {e : Sqe} {s : State} {u₀ : State} (h : execCalSave e s = .next u₀) :
    OnlyRegs [hcCqTailIndex e.ring, hcCqTailPhase e.ring, hcRingStatusInFlight e.ring, hcRingStatusIdle e.ring, hcRingStatusWaiting e.ring] s u₀ := by
  refine runCommand_regs h (by simp) (fun x => ?_)
  try dsimp only
  (repeat' split) <;> simp

theorem execCalCfg_regs {e : Sqe} {s : State} {u₀ : State} (h : execCalCfg e s = .next u₀) :
    OnlyRegs [hcCqTailIndex e.ring, hcCqTailPhase e.ring, hcRingStatusInFlight e.ring, hcRingStatusIdle e.ring, hcRingStatusWaiting e.ring, tcCalCfgEn, tcCalCfgSpacing] s u₀ := by
  refine runCommand_regs h (by simp) (fun x => ?_)
  try dsimp only
  (repeat' split) <;> simp

theorem execFwStore_regs {e : Sqe} {h : ImageRead} {s : State} {u₀ : State} (h : execFwStore e h s = .next u₀) :
    OnlyRegs [hcCqTailIndex e.ring, hcCqTailPhase e.ring, hcRingStatusInFlight e.ring, hcRingStatusIdle e.ring, hcRingStatusWaiting e.ring] s u₀ := by
  refine runCommand_regs h (by simp) (fun x => ?_)
  try dsimp only
  (repeat' split) <;> simp

theorem execFwInfo_regs {e : Sqe} {s : State} {u₀ : State} (h : execFwInfo e s = .next u₀) :
    OnlyRegs [hcCqTailIndex e.ring, hcCqTailPhase e.ring, hcRingStatusInFlight e.ring, hcRingStatusIdle e.ring, hcRingStatusWaiting e.ring] s u₀ := by
  refine runCommand_regs h (by simp) (fun x => ?_)
  try dsimp only
  (repeat' split) <;> simp

theorem execRollbackAdvance_regs {e : Sqe} {vprog : Bool} {o : FuseOutcome} {s : State} {u₀ : State} (h : execRollbackAdvance e vprog o s = .next u₀) :
    OnlyRegs [hcCqTailIndex e.ring, hcCqTailPhase e.ring, hcRingStatusInFlight e.ring, hcRingStatusIdle e.ring, hcRingStatusWaiting e.ring, fzProgBusy, fzProgStatus, fzProgWord, elFirst, elNext, elLost, elStatusAlertPend, fzProgVprogOk] s u₀ := by
  unfold execRollbackAdvance at h
  split at h
  · injection h with h
    subst h
    simp
  · refine runCommand_regs h (by simp) (fun x => ?_)
    try dsimp only
    (repeat' split) <;> first
      | (simp; done)
      | exact OnlyRegs.trans (t := x.resumeJob) (by simp) (State.withVprog_regs (by simp) (fun y => State.program_regs (by simp) (fun z => by simp)))
      | exact OnlyRegs.trans (t := x.resumeJob) (by simp) (State.withVprog_regs (by simp) (fun y => by (try dsimp only); (repeat' split) <;> simp))
      | exact State.withVprog_regs (by simp) (fun y => State.program_regs (by simp) (fun z => by simp))
      | exact State.withVprog_regs (by simp) (fun y => by (try dsimp only); (repeat' split) <;> simp)

theorem execAttest_regs {e : Sqe} {s : State} {u₀ : State} (h : execAttest e s = .next u₀) :
    OnlyRegs [hcCqTailIndex e.ring, hcCqTailPhase e.ring, hcRingStatusInFlight e.ring, hcRingStatusIdle e.ring, hcRingStatusWaiting e.ring] s u₀ := by
  refine runCommand_regs h (by simp) (fun x => ?_)
  try dsimp only
  (repeat' split) <;> simp

theorem execIdKeyRead_regs {e : Sqe} {s : State} {u₀ : State} (h : execIdKeyRead e s = .next u₀) :
    OnlyRegs [hcCqTailIndex e.ring, hcCqTailPhase e.ring, hcRingStatusInFlight e.ring, hcRingStatusIdle e.ring, hcRingStatusWaiting e.ring] s u₀ := by
  refine runCommand_regs h (by simp) (fun x => ?_)
  try dsimp only
  (repeat' split) <;> simp

theorem execFuseRead_regs {e : Sqe} {s : State} {u₀ : State} (h : execFuseRead e s = .next u₀) :
    OnlyRegs [hcCqTailIndex e.ring, hcCqTailPhase e.ring, hcRingStatusInFlight e.ring, hcRingStatusIdle e.ring, hcRingStatusWaiting e.ring] s u₀ := by
  refine runCommand_regs h (by simp) (fun x => ?_)
  try dsimp only
  (repeat' split) <;> simp

theorem execFuseProgram_regs {e : Sqe} {h : HostRead} {vprog : Bool} {o : FuseOutcome} {s : State} {u₀ : State} (h : execFuseProgram e h vprog o s = .next u₀) :
    OnlyRegs [hcCqTailIndex e.ring, hcCqTailPhase e.ring, hcRingStatusInFlight e.ring, hcRingStatusIdle e.ring, hcRingStatusWaiting e.ring, fzProgBusy, fzProgStatus, fzProgWord, elFirst, elNext, elLost, elStatusAlertPend, fzProgVprogOk] s u₀ := by
  unfold execFuseProgram at h
  split at h
  · injection h with h
    subst h
    simp
  · refine runCommand_regs h (by simp) (fun x => ?_)
    try dsimp only
    (repeat' split) <;> first
      | (simp; done)
      | exact OnlyRegs.trans (t := x.resumeJob) (by simp) (State.withVprog_regs (by simp) (fun y => State.program_regs (by simp) (fun z => by simp)))
      | exact OnlyRegs.trans (t := x.resumeJob) (by simp) (State.withVprog_regs (by simp) (fun y => by (try dsimp only); (repeat' split) <;> simp))
      | exact State.withVprog_regs (by simp) (fun y => State.program_regs (by simp) (fun z => by simp))
      | exact State.withVprog_regs (by simp) (fun y => by (try dsimp only); (repeat' split) <;> simp)

theorem execFuseLock_regs {e : Sqe} {vprog : Bool} {o : FuseOutcome} {s : State} {u₀ : State} (h : execFuseLock e vprog o s = .next u₀) :
    OnlyRegs [hcCqTailIndex e.ring, hcCqTailPhase e.ring, hcRingStatusInFlight e.ring, hcRingStatusIdle e.ring, hcRingStatusWaiting e.ring, fzProgBusy, fzProgStatus, fzProgWord, elFirst, elNext, elLost, elStatusAlertPend, fzProgVprogOk] s u₀ := by
  unfold execFuseLock at h
  split at h
  · injection h with h
    subst h
    simp
  · refine runCommand_regs h (by simp) (fun x => ?_)
    try dsimp only
    (repeat' split) <;> first
      | (simp; done)
      | exact OnlyRegs.trans (t := x.resumeJob) (by simp) (State.withVprog_regs (by simp) (fun y => State.program_regs (by simp) (fun z => by simp)))
      | exact OnlyRegs.trans (t := x.resumeJob) (by simp) (State.withVprog_regs (by simp) (fun y => by (try dsimp only); (repeat' split) <;> simp))
      | exact State.withVprog_regs (by simp) (fun y => State.program_regs (by simp) (fun z => by simp))
      | exact State.withVprog_regs (by simp) (fun y => by (try dsimp only); (repeat' split) <;> simp)

theorem execFuseResense_regs {e : Sqe} {r : Resense} {s : State} {u₀ : State} (h : execFuseResense e r s = .next u₀) :
    OnlyRegs [fzResenseStatMarginal, fzResenseStatDiffer, fzResenseStatUnstable, elFirst, elNext, elLost, elStatusAlertPend, hcCqTailIndex e.ring, hcCqTailPhase e.ring, hcRingStatusInFlight e.ring, hcRingStatusIdle e.ring, hcRingStatusWaiting e.ring] s u₀ := by
  unfold execFuseResense at h
  split at h
  · injection h with h
    subst h
    simp
  · refine runCommand_regs h (by simp) (fun x => ?_)
    try dsimp only
    (repeat' split) <;> first
      | (simp; done)
      | exact OnlyRegs.trans (t := x.resumeJob) (by simp) (State.withVprog_regs (by simp) (fun y => State.program_regs (by simp) (fun z => by simp)))
      | exact OnlyRegs.trans (t := x.resumeJob) (by simp) (State.withVprog_regs (by simp) (fun y => by (try dsimp only); (repeat' split) <;> simp))
      | exact State.withVprog_regs (by simp) (fun y => State.program_regs (by simp) (fun z => by simp))
      | exact State.withVprog_regs (by simp) (fun y => by (try dsimp only); (repeat' split) <;> simp)

theorem execFuseResenseTimer_regs {r : Resense} {s : State} {u₀ : State} (h : execFuseResenseTimer r s = .next u₀) :
    OnlyRegs [fzResenseStatMarginal, fzResenseStatDiffer, fzResenseStatUnstable, elFirst, elNext, elLost, elStatusAlertPend] s u₀ := by
  unfold execFuseResenseTimer at h
  (repeat' split at h) <;> (injection h with h; subst h; simp)

theorem execKeyRevoke_regs {e : Sqe} {vprog : Bool} {o : FuseOutcome} {s : State} {u₀ : State} (h : execKeyRevoke e vprog o s = .next u₀) :
    OnlyRegs [hcCqTailIndex e.ring, hcCqTailPhase e.ring, hcRingStatusInFlight e.ring, hcRingStatusIdle e.ring, hcRingStatusWaiting e.ring, fzProgBusy, fzProgStatus, fzProgWord, elFirst, elNext, elLost, elStatusAlertPend, fzProgVprogOk] s u₀ := by
  unfold execKeyRevoke at h
  split at h
  · injection h with h
    subst h
    simp
  · refine runCommand_regs h (by simp) (fun x => ?_)
    try dsimp only
    (repeat' split) <;> first
      | (simp; done)
      | exact OnlyRegs.trans (t := x.resumeJob) (by simp) (State.withVprog_regs (by simp) (fun y => State.program_regs (by simp) (fun z => by simp)))
      | exact OnlyRegs.trans (t := x.resumeJob) (by simp) (State.withVprog_regs (by simp) (fun y => by (try dsimp only); (repeat' split) <;> simp))
      | exact State.withVprog_regs (by simp) (fun y => State.program_regs (by simp) (fun z => by simp))
      | exact State.withVprog_regs (by simp) (fun y => by (try dsimp only); (repeat' split) <;> simp)

theorem execEvSource_regs {e : Sqe} {s : State} {u₀ : State} (h : execEvSource e s = .next u₀) :
    OnlyRegs [hcCqTailIndex e.ring, hcCqTailPhase e.ring, hcRingStatusInFlight e.ring, hcRingStatusIdle e.ring, hcRingStatusWaiting e.ring, evSrcCode (e.par 16 1)] s u₀ := by
  refine runCommand_regs h (by simp) (fun x => ?_)
  try dsimp only
  (repeat' split) <;> simp

theorem execEvSink_regs {e : Sqe} {s : State} {u₀ : State} (h : execEvSink e s = .next u₀) :
    OnlyRegs [hcCqTailIndex e.ring, hcCqTailPhase e.ring, hcRingStatusInFlight e.ring, hcRingStatusIdle e.ring, hcRingStatusWaiting e.ring, evSnapLine, evSnapConnected, bmChCfgStartLine (e.par 18 1), bmChCfgStartEn (e.par 18 1)] s u₀ := by
  refine runCommand_regs h (by simp) (fun x => ?_)
  try dsimp only
  (repeat' split) <;> simp

theorem execEvPulse_regs {e : Sqe} {s : State} {u₀ : State} (h : execEvPulse e s = .next u₀) :
    OnlyRegs [hcCqTailIndex e.ring, hcCqTailPhase e.ring, hcRingStatusInFlight e.ring, hcRingStatusIdle e.ring, hcRingStatusWaiting e.ring] s u₀ := by
  refine runCommand_regs h (by simp) (fun x => ?_)
  try dsimp only
  (repeat' split) <;> simp

theorem execEvSwPulseWrite_regs {v : Nat} {s : State} {u₀ : State} (h : execEvSwPulseWrite v s = .next u₀) :
    OnlyRegs [elFirst, elNext, elLost, elStatusAlertPend] s u₀ := by
  unfold execEvSwPulseWrite at h
  try dsimp only at h
  (repeat' split at h) <;> first
    | (injection h with h; subst h; simp; done)
    | (rename_i hr; injection h with h; subst h; exact (State.refusesWrite_regs _ _ _ hr).mono (by simp))

theorem execEvInfo_regs {e : Sqe} {s : State} {u₀ : State} (h : execEvInfo e s = .next u₀) :
    OnlyRegs [hcCqTailIndex e.ring, hcCqTailPhase e.ring, hcRingStatusInFlight e.ring, hcRingStatusIdle e.ring, hcRingStatusWaiting e.ring] s u₀ := by
  refine runCommand_regs h (by simp) (fun x => ?_)
  try dsimp only
  (repeat' split) <;> simp

theorem execBmChannelCfg_regs {e : Sqe} {s : State} {u₀ : State} (h : execBmChannelCfg e s = .next u₀) :
    OnlyRegs [hcCqTailIndex e.ring, hcCqTailPhase e.ring, hcRingStatusInFlight e.ring, hcRingStatusIdle e.ring, hcRingStatusWaiting e.ring, bmChCfgClass (e.par 16 1), bmChHopsLimit (e.par 16 1)] s u₀ := by
  refine runCommand_regs h (by simp) (fun x => ?_)
  try dsimp only
  (repeat' split) <;> simp

theorem execBmNosnoop_regs {e : Sqe} {s : State} {u₀ : State} (h : execBmNosnoop e s = .next u₀) :
    OnlyRegs [hcCqTailIndex e.ring, hcCqTailPhase e.ring, hcRingStatusInFlight e.ring, hcRingStatusIdle e.ring, hcRingStatusWaiting e.ring, bmChCfgNosnoop (e.par 16 1)] s u₀ := by
  refine runCommand_regs h (by simp) (fun x => ?_)
  try dsimp only
  (repeat' split) <;> simp

theorem execBmChStart_regs {q : Requester} {c : Nat} {s : State} {u₀ : State} (h : execBmChStart q c s = .next u₀) :
    OnlyRegs [elFirst, elNext, elLost, elStatusAlertPend, bmAcSrc c, bmAcDst c, bmAcCount c, bmAcModeOp c, bmAcModeSrcSpace c, bmAcModeDstSpace c, bmAcModeSrcW c, bmAcModeDstW c, bmAcModePulseDone c, bmAcModeStopOnMismatch c, bmAcFill c, bmAcNext c, bmChStatusShadowValid c, bmChHopsCount c, bmChBytes c, bmChStatusState c, bmChStatusStatus c, bmCtrlLastErr, bmChStatusStartMissed c, devStatusRwaDenied] s u₀ := by
  unfold execBmChStart at h
  try dsimp only at h
  (repeat' split at h) <;> first
    | (injection h with h; subst h; simp; done)
    | (rename_i hr; injection h with h; subst h; exact (State.refusesWrite_regs _ _ _ hr).mono (by simp))

theorem execBmChArm_regs {q : Requester} {c : Nat} {s : State} {u₀ : State} (h : execBmChArm q c s = .next u₀) :
    OnlyRegs [elFirst, elNext, elLost, elStatusAlertPend, bmChStatusShadowValid c, devStatusRwaDenied] s u₀ := by
  unfold execBmChArm at h
  try dsimp only at h
  (repeat' split at h) <;> first
    | (injection h with h; subst h; simp; done)
    | (rename_i hr; injection h with h; subst h; exact (State.refusesWrite_regs _ _ _ hr).mono (by simp))

theorem execBmChClear_regs {q : Requester} {c : Nat} {s : State} {u₀ : State} (h : execBmChClear q c s = .next u₀) :
    OnlyRegs [elFirst, elNext, elLost, elStatusAlertPend, devStatusRwaDenied, bmChStatusState c, bmChStatusShadowValid c] s u₀ := by
  unfold execBmChClear at h
  try dsimp only at h
  (repeat' split at h) <;> first
    | (injection h with h; subst h; simp; done)
    | (rename_i hr; injection h with h; subst h; exact (State.refusesWrite_regs _ _ _ hr).mono (by simp))

theorem execBmDescriptorFetchDone_regs {c : Nat} {h : DescriptorRead} {s : State} {u₀ : State} (h : execBmDescriptorFetchDone c h s = .next u₀) :
    OnlyRegs [bmChStatusState c, bmChStatusStatus c, bmChBytes c, bmCtrlLastErr, elFirst, elNext, elLost, elStatusAlertPend, bmShSrc c, bmShDst c, bmShCount c, bmShModeOp c, bmShModeSrcSpace c, bmShModeDstSpace c, bmShModeSrcW c, bmShModeDstW c, bmShModePulseDone c, bmShModeStopOnMismatch c, bmShFill c, bmShNext c, bmChStatusShadowValid c, bmAcSrc c, bmAcDst c, bmAcCount c, bmAcModeOp c, bmAcModeSrcSpace c, bmAcModeDstSpace c, bmAcModeSrcW c, bmAcModeDstW c, bmAcModePulseDone c, bmAcModeStopOnMismatch c, bmAcFill c, bmAcNext c, bmChHopsCount c] s u₀ := by
  unfold execBmDescriptorFetchDone at h
  try dsimp only at h
  (repeat' split at h) <;> (injection h with h; subst h; simp) <;> (repeat' split) <;> simp

theorem execBmChannelHalt_regs {c : Nat} {cause : HaltCause} {bytes : Nat} {s : State} {u₀ : State} (h : execBmChannelHalt c cause bytes s = .next u₀) :
    OnlyRegs [bmChStatusState c, bmChStatusStatus c, bmChBytes c, bmCtrlLastErr, elFirst, elNext, elLost, elStatusAlertPend] s u₀ := by
  unfold execBmChannelHalt at h
  (repeat' split at h) <;> (injection h with h; subst h; simp)

theorem execTeLatClear_regs {s : State} {u₀ : State} (h : execTeLatClear s = .next u₀) :
    OnlyRegs [elFirst, elNext, elLost, elStatusAlertPend] s u₀ := by
  unfold execTeLatClear at h
  try dsimp only at h
  (repeat' split at h) <;> first
    | (injection h with h; subst h; simp; done)
    | (rename_i hr; injection h with h; subst h; exact (State.refusesWrite_regs _ _ _ hr).mono (by simp))

theorem execLinkEqSet_regs {e : Sqe} {s : State} {u₀ : State} (h : execLinkEqSet e s = .next u₀) :
    OnlyRegs [hcCqTailIndex e.ring, hcCqTailPhase e.ring, hcRingStatusInFlight e.ring, hcRingStatusIdle e.ring, hcRingStatusWaiting e.ring] s u₀ := by
  refine runCommand_regs h (by simp) (fun x => ?_)
  try dsimp only
  (repeat' split) <;> simp

end Sys2Proof.Machine
end

