-- ==== Sys2Proof/Laws/RegsExecC.lean ====
section
/-!
SUPPORT. Which register fields each command can change: one lemma for each meaning whose fields do not depend on the state.
-/
namespace Sys2Proof.Machine

theorem execActivationWindowEnd_regs {s : State} {u₀ : State} (h : execActivationWindowEnd s = .next u₀) :
    OnlyRegs [mvRowsHeldAtEnd] s u₀ := by
  unfold execActivationWindowEnd at h
  (repeat' split at h) <;> (injection h with h; subst h; simp)

theorem execMcRequestArrival_regs {r : MemReq} {s : State} {u₀ : State} (h : execMcRequestArrival r s = .next u₀) :
    OnlyRegs [mcPcStatusState r.pc, mcPcQueueWq r.pc, mcPcQueueRq r.pc, mcPcQueueWqPeak r.pc, mcPcQueueRqPeak r.pc, mcPcStatusDrain r.pc, mcPcFwd r.pc, mcPcMerge r.pc] s u₀ := by
  unfold execMcRequestArrival at h
  (repeat' split at h) <;> (injection h with h; subst h; simp)

theorem execRequestUrgencyStep_regs {n : Nat} {write : Bool} {i : Nat} {s : State} {u₀ : State} (h : execRequestUrgencyStep n write i s = .next u₀) :
    OnlyRegs [mcPcQueueWq n, mcPcQueueRq n, mcPcQueueWqPeak n, mcPcQueueRqPeak n, mcPcLate n] s u₀ := by
  unfold execRequestUrgencyStep at h
  try dsimp only at h
  (repeat' split at h) <;> (injection h with h; subst h; simp) <;> (repeat' split) <;> simp

theorem execRefreshDue_regs {n : Nat} {bank : Nat} {s : State} {u₀ : State} (h : execRefreshDue n bank s = .next u₀) :
    OnlyRegs [mcPcQueueWq n, mcPcQueueRq n, mcPcQueueWqPeak n, mcPcQueueRqPeak n, mcPcRefreshDebt n, mcPcRefreshForced n] s u₀ := by
  unfold execRefreshDue at h
  try dsimp only at h
  (repeat' split at h) <;> (injection h with h; subst h; simp) <;> (repeat' split) <;> simp

theorem execPcPowerDownEntry_regs {n : Nat} {s : State} {u₀ : State} (h : execPcPowerDownEntry n s = .next u₀) :
    OnlyRegs [mcPcQueueWq n, mcPcQueueRq n, mcPcQueueWqPeak n, mcPcQueueRqPeak n, mcPcStatusState n] s u₀ := by
  unfold execPcPowerDownEntry at h
  (repeat' split at h) <;> (injection h with h; subst h; simp)

theorem execPcSelfRefreshEntry_regs {n : Nat} {s : State} {u₀ : State} (h : execPcSelfRefreshEntry n s = .next u₀) :
    OnlyRegs [mcPcQueueWq n, mcPcQueueRq n, mcPcQueueWqPeak n, mcPcQueueRqPeak n, mcPcStatusState n, mcPcRefreshDebt n] s u₀ := by
  unfold execPcSelfRefreshEntry at h
  (repeat' split at h) <;> (injection h with h; subst h; simp)

theorem execBucketLeak_regs {u : Nat} {s : State} {u₀ : State} (h : execBucketLeak u s = .next u₀) :
    OnlyRegs [] s u₀ := 
  .of_only (execBucketLeak_only h) (by decide)

theorem execFluxRewrite_regs {s : State} {u₀ : State} (h : execFluxRewrite s = .next u₀) :
    OnlyRegs [fxCorrected] s u₀ := by
  unfold execFluxRewrite at h
  (repeat' split at h) <;> (injection h with h; subst h; simp)

theorem execSweepLate_regs {n : Nat} {s : State} {u₀ : State} (h : execSweepLate n s = .next u₀) :
    OnlyRegs [fxStatusSweepLate, elFirst, elNext, elLost, elStatusAlertPend] s u₀ := by
  unfold execSweepLate at h
  (repeat' split at h) <;> (injection h with h; subst h; simp)

theorem execBankRetirement_regs {pc : Nat} {bank : Nat} {s : State} {u₀ : State} (h : execBankRetirement pc bank s = .next u₀) :
    OnlyRegs [mvDrainBlocks, mvEligible, mvStatusEligible, mvThermExcl, mvStatusFloorHit, mvStatusOut, mvPoolRows, mvRetiredBanks, mvSplitTUnits, qmPoolLimit] s u₀ := by
  unfold execBankRetirement at h
  (repeat' split at h) <;> (injection h with h; subst h; simp)

theorem execRegWindowBoundary_regs {s : State} {u₀ : State} (h : execRegWindowBoundary s = .next u₀) :
    OnlyRegs [rgDemoted, rgCommitted, rgScaleK, rgStatusScaled, rgStatusBreach, rgBreachCount, elFirst, elNext, elLost, elStatusAlertPend] s u₀ := by
  unfold execRegWindowBoundary at h
  (repeat' split at h) <;> (injection h with h; subst h; simp)

theorem execHeartbeat_regs {s : State} {u₀ : State} (h : execHeartbeat s = .next u₀) :
    OnlyRegs [] s u₀ := 
  .of_only (execHeartbeat_only h) (by decide)

theorem execFuseData_regs {slot : Nat} {r : Nat} {first : Nat} {n : Nat} {s : State} {u₀ : State} (h : execFuseData slot r first n s = .next u₀) :
    OnlyRegs [fzStatusMbxDenied, elFirst, elNext, elLost, elStatusAlertPend] s u₀ := by
  unfold execFuseData at h
  (repeat' split at h) <;> (injection h with h; subst h; simp)

theorem execClosureState_regs {slot : Nat} {s : State} {u₀ : State} (h : execClosureState slot s = .next u₀) :
    OnlyRegs [] s u₀ := 
  .of_only (execClosureState_only h) (by decide)

theorem execErrlogWrite_regs {slot : Nat} {svPrefix : Bool} {code : Nat} {unitKind : Nat} {unit : Nat} {sub : Nat} {object : Nat} {data : Nat} {s : State} {u₀ : State} (h : execErrlogWrite slot svPrefix code unitKind unit sub object data s = .next u₀) :
    OnlyRegs [elFirst, elNext, elLost, elStatusAlertPend, fzStatusMbxDenied] s u₀ := by
  unfold execErrlogWrite at h
  (repeat' split at h) <;> (injection h with h; subst h; simp)

theorem execDeviceState_regs {slot : Nat} {s : State} {u₀ : State} (h : execDeviceState slot s = .next u₀) :
    OnlyRegs [] s u₀ := 
  .of_only (execDeviceState_only h) (by decide)

theorem execMailboxRefused_regs {slot : Nat} {kind : Nat} {s : State} {u₀ : State} (h : execMailboxRefused slot kind s = .next u₀) :
    OnlyRegs [fzStatusMbxDenied, elFirst, elNext, elLost, elStatusAlertPend] s u₀ := by
  unfold execMailboxRefused at h
  (repeat' split at h) <;> (injection h with h; subst h; simp)

theorem execAnvilHeartbeat_regs {s : State} {u₀ : State} (h : execAnvilHeartbeat s = .next u₀) :
    OnlyRegs [elWdogAvAge] s u₀ := by
  unfold execAnvilHeartbeat at h
  (repeat' split at h) <;> (injection h with h; subst h; simp)

theorem execStatus_regs {s : State} {u₀ : State} (h : execStatus s = .next u₀) :
    OnlyRegs [] s u₀ := 
  .of_only (execStatus_only h) (by decide)

theorem execIdentity_regs {s : State} {u₀ : State} (h : execIdentity s = .next u₀) :
    OnlyRegs [sbCountRefused] s u₀ := by
  unfold execIdentity at h
  (repeat' split at h) <;> (injection h with h; subst h; simp)

theorem execPower_regs {mW : Nat} {s : State} {u₀ : State} (h : execPower mW s = .next u₀) :
    OnlyRegs [sbCountRefused] s u₀ := by
  unfold execPower at h
  (repeat' split at h) <;> (injection h with h; subst h; simp)

theorem execLevel_regs {s : State} {u₀ : State} (h : execLevel s = .next u₀) :
    OnlyRegs [] s u₀ := 
  .of_only (execLevel_only h) (by decide)

theorem execHottest_regs {s : State} {u₀ : State} (h : execHottest s = .next u₀) :
    OnlyRegs [] s u₀ := 
  .of_only (execHottest_only h) (by decide)

theorem execTherm0_regs {s : State} {u₀ : State} (h : execTherm0 s = .next u₀) :
    OnlyRegs [] s u₀ := 
  .of_only (execTherm0_only h) (by decide)

theorem execTherm8_regs {s : State} {u₀ : State} (h : execTherm8 s = .next u₀) :
    OnlyRegs [] s u₀ := 
  .of_only (execTherm8_only h) (by decide)

theorem execTherm16_regs {s : State} {u₀ : State} (h : execTherm16 s = .next u₀) :
    OnlyRegs [] s u₀ := 
  .of_only (execTherm16_only h) (by decide)

theorem execErrlogPtrWrite_regs {w : SbWrite} {s : State} {u₀ : State} (h : execErrlogPtrWrite w s = .next u₀) :
    OnlyRegs [sbErrlogPtr, sbStatusPecErr, sbCountRefused] s u₀ := by
  unfold execErrlogPtrWrite at h
  (repeat' split at h) <;> (injection h with h; subst h; simp)

theorem execErrlogPtrRead_regs {s : State} {u₀ : State} (h : execErrlogPtrRead s = .next u₀) :
    OnlyRegs [] s u₀ := 
  .of_only (execErrlogPtrRead_only h) (by decide)

theorem execErrlog_regs {completed : Bool} {s : State} {u₀ : State} (h : execErrlog completed s = .next u₀) :
    OnlyRegs [sbErrlogPtr] s u₀ := by
  unfold execErrlog at h
  (repeat' split at h) <;> (injection h with h; subst h; simp)

theorem execQuenchRead_regs {s : State} {u₀ : State} (h : execQuenchRead s = .next u₀) :
    OnlyRegs [] s u₀ := 
  .of_only (execQuenchRead_only h) (by decide)

theorem execAlertResponse_regs {s : State} {u₀ : State} (h : execAlertResponse s = .next u₀) :
    OnlyRegs [] s u₀ := 
  .of_only (execAlertResponse_only h) (by decide)

theorem execSclTimeout_regs {s : State} {u₀ : State} (h : execSclTimeout s = .next u₀) :
    OnlyRegs [sbStatusSclTimeout, elFirst, elNext, elLost, elStatusAlertPend] s u₀ := by
  unfold execSclTimeout at h
  (repeat' split at h) <;> (injection h with h; subst h; simp)

theorem execSdaTimeout_regs {s : State} {u₀ : State} (h : execSdaTimeout s = .next u₀) :
    OnlyRegs [sbStatusSdaTimeout, elFirst, elNext, elLost, elStatusAlertPend] s u₀ := by
  unfold execSdaTimeout at h
  (repeat' split at h) <;> (injection h with h; subst h; simp)

theorem execBusClear_regs {sdaHigh : Bool} {s : State} {u₀ : State} (h : execBusClear sdaHigh s = .next u₀) :
    OnlyRegs [sbStatusSdaStuck, sbStatusClearGaveUp, sbStatusEepromResult, elFirst, elNext, elLost, elStatusAlertPend] s u₀ := by
  unfold execBusClear at h
  (repeat' split at h) <;> (injection h with h; subst h; simp)

theorem execHostNotify_regs {r : BusResult} {s : State} {u₀ : State} (h : execHostNotify r s = .next u₀) :
    OnlyRegs [sbCount2HnSent, sbCount2HnDropped, sbCountArbLost, sbCount2ArbGiveup] s u₀ := by
  unfold execHostNotify at h
  (repeat' split at h) <;> (injection h with h; subst h; simp)

theorem execHostNotifyRetry_regs {r : BusResult} {s : State} {u₀ : State} (h : execHostNotifyRetry r s = .next u₀) :
    OnlyRegs [sbCount2HnSent, sbCount2HnDropped, sbCountArbLost, sbCount2ArbGiveup] s u₀ := by
  unfold execHostNotifyRetry at h
  (repeat' split at h) <;> (injection h with h; subst h; simp)

theorem execArbitrationRetry_regs {r : BusResult} {s : State} {u₀ : State} (h : execArbitrationRetry r s = .next u₀) :
    OnlyRegs [sbStatusEepromResult, elFirst, elNext, elLost, elStatusAlertPend, sbCountArbLost, sbCount2ArbGiveup, sbCount2HnSent, sbCount2HnDropped] s u₀ := by
  unfold execArbitrationRetry at h
  (repeat' split at h) <;> (injection h with h; subst h; simp)

theorem execEepromRead_regs {r : BusResult} {s : State} {u₀ : State} (h : execEepromRead r s = .next u₀) :
    OnlyRegs [sbStatusEepromResult, elFirst, elNext, elLost, elStatusAlertPend, sbCountArbLost, sbCount2ArbGiveup] s u₀ := by
  unfold execEepromRead at h
  (repeat' split at h) <;> (injection h with h; subst h; simp)

theorem execEepromReadDone_regs {a : EepromAnswer} {s : State} {u₀ : State} (h : execEepromReadDone a s = .next u₀) :
    OnlyRegs [sbStatusEepromResult, elFirst, elNext, elLost, elStatusAlertPend, sbCfgCtlSpeed, sbHnCfgEn, sbHnCfgPec, sbCfgPecRequired, sbHnCfgTarget, sbHnCfgMinGap, thThrD0Warn, thThrB0Warn] s u₀ := by
  unfold execEepromReadDone at h
  (repeat' split at h) <;> (injection h with h; subst h; simp)

theorem execTimesyncFallingEdge_regs {s : State} {u₀ : State} (h : execTimesyncFallingEdge s = .next u₀) :
    OnlyRegs [tbStatusTimesyncStuck] s u₀ := by
  unfold execTimesyncFallingEdge at h
  (repeat' split at h) <;> (injection h with h; subst h; simp)

theorem execSdaSeenHigh_regs {s : State} {u₀ : State} (h : execSdaSeenHigh s = .next u₀) :
    OnlyRegs [sbStatusSdaStuck] s u₀ := by
  unfold execSdaSeenHigh at h
  (repeat' split at h) <;> (injection h with h; subst h; simp)

theorem execPageIdleTimer_regs {n : Nat} {bank : Nat} {s : State} {u₀ : State} (h : execPageIdleTimer n bank s = .next u₀) :
    OnlyRegs [mcPcQueueWq n, mcPcQueueRq n, mcPcQueueWqPeak n, mcPcQueueRqPeak n] s u₀ := by
  unfold execPageIdleTimer at h
  try dsimp only at h
  (repeat' split at h) <;> (injection h with h; subst h; simp) <;> (repeat' split) <;> simp

theorem execUnlistedCommandCode_regs {code : Nat} {write : Bool} {s : State} {u₀ : State} (h : execUnlistedCommandCode code write s = .next u₀) :
    OnlyRegs [sbCountRefused] s u₀ := by
  unfold execUnlistedCommandCode at h
  try dsimp only at h
  (repeat' split at h) <;> (injection h with h; subst h; simp) <;> (repeat' split) <;> simp

end Sys2Proof.Machine
end

