-- ==== Sys2Proof/Laws/Keeps.lean ====
section
/-!
SUPPORT. What the shared operations leave as it was: one equation for each field.
-/
namespace Sys2Proof.Machine

@[simp] theorem State.vector_keeps_pending (s : State) (v : Nat) : (State.vector s v).pending = s.pending := (State.vector_only s v).eq_pending (by decide)
@[simp] theorem State.vector_keeps_heldOut (s : State) (v : Nat) : (State.vector s v).heldOut = s.heldOut := (State.vector_only s v).eq_heldOut (by decide)
@[simp] theorem State.vector_keeps_free (s : State) (v : Nat) : (State.vector s v).free = s.free := (State.vector_only s v).eq_free (by decide)
@[simp] theorem State.vector_keeps_time (s : State) (v : Nat) : (State.vector s v).time = s.time := (State.vector_only s v).eq_time (by decide)
@[simp] theorem State.vector_keeps_pilot (s : State) (v : Nat) : (State.vector s v).pilot = s.pilot := (State.vector_only s v).eq_pilot (by decide)
@[simp] theorem State.vector_keeps_dom (s : State) (v : Nat) : (State.vector s v).dom = s.dom := (State.vector_only s v).eq_dom (by decide)
@[simp] theorem State.vector_keeps_regs (s : State) (v : Nat) : (State.vector s v).regs = s.regs := (State.vector_only s v).eq_regs (by decide)
@[simp] theorem State.vector_keeps_latches (s : State) (v : Nat) : (State.vector s v).latches = s.latches := (State.vector_only s v).eq_latches (by decide)
@[simp] theorem State.vector_keeps_log (s : State) (v : Nat) : (State.vector s v).log = s.log := (State.vector_only s v).eq_log (by decide)
@[simp] theorem State.vector_keeps_logWritten (s : State) (v : Nat) : (State.vector s v).logWritten = s.logWritten := (State.vector_only s v).eq_logWritten (by decide)
@[simp] theorem State.vector_keeps_rings (s : State) (v : Nat) : (State.vector s v).rings = s.rings := (State.vector_only s v).eq_rings (by decide)
@[simp] theorem State.vector_keeps_resetting (s : State) (v : Nat) : (State.vector s v).resetting = s.resetting := (State.vector_only s v).eq_resetting (by decide)
@[simp] theorem State.vector_keeps_quiesce (s : State) (v : Nat) : (State.vector s v).quiesce = s.quiesce := (State.vector_only s v).eq_quiesce (by decide)
@[simp] theorem State.vector_keeps_lines (s : State) (v : Nat) : (State.vector s v).lines = s.lines := (State.vector_only s v).eq_lines (by decide)
@[simp] theorem State.vector_keeps_pulses (s : State) (v : Nat) : (State.vector s v).pulses = s.pulses := (State.vector_only s v).eq_pulses (by decide)
@[simp] theorem State.vector_keeps_channels (s : State) (v : Nat) : (State.vector s v).channels = s.channels := (State.vector_only s v).eq_channels (by decide)
@[simp] theorem State.vector_keeps_fuses (s : State) (v : Nat) : (State.vector s v).fuses = s.fuses := (State.vector_only s v).eq_fuses (by decide)
@[simp] theorem State.vector_keeps_trust (s : State) (v : Nat) : (State.vector s v).trust = s.trust := (State.vector_only s v).eq_trust (by decide)
@[simp] theorem State.vector_keeps_sensors (s : State) (v : Nat) : (State.vector s v).sensors = s.sensors := (State.vector_only s v).eq_sensors (by decide)
@[simp] theorem State.vector_keeps_layers (s : State) (v : Nat) : (State.vector s v).layers = s.layers := (State.vector_only s v).eq_layers (by decide)
@[simp] theorem State.vector_keeps_thermal (s : State) (v : Nat) : (State.vector s v).thermal = s.thermal := (State.vector_only s v).eq_thermal (by decide)
@[simp] theorem State.vector_keeps_test (s : State) (v : Nat) : (State.vector s v).test = s.test := (State.vector_only s v).eq_test (by decide)
@[simp] theorem State.vector_keeps_sideband (s : State) (v : Nat) : (State.vector s v).sideband = s.sideband := (State.vector_only s v).eq_sideband (by decide)
@[simp] theorem State.vector_keeps_ports (s : State) (v : Nat) : (State.vector s v).ports = s.ports := (State.vector_only s v).eq_ports (by decide)
@[simp] theorem State.vector_keeps_lanes (s : State) (v : Nat) : (State.vector s v).lanes = s.lanes := (State.vector_only s v).eq_lanes (by decide)
@[simp] theorem State.vector_keeps_queues (s : State) (v : Nat) : (State.vector s v).queues = s.queues := (State.vector_only s v).eq_queues (by decide)
@[simp] theorem State.vector_keeps_queueChanges (s : State) (v : Nat) : (State.vector s v).queueChanges = s.queueChanges := (State.vector_only s v).eq_queueChanges (by decide)
@[simp] theorem State.vector_keeps_snapshots (s : State) (v : Nat) : (State.vector s v).snapshots = s.snapshots := (State.vector_only s v).eq_snapshots (by decide)
@[simp] theorem State.vector_keeps_snapPending (s : State) (v : Nat) : (State.vector s v).snapPending = s.snapPending := (State.vector_only s v).eq_snapPending (by decide)
@[simp] theorem State.vector_keeps_tables (s : State) (v : Nat) : (State.vector s v).tables = s.tables := (State.vector_only s v).eq_tables (by decide)
@[simp] theorem State.vector_keeps_dead (s : State) (v : Nat) : (State.vector s v).dead = s.dead := (State.vector_only s v).eq_dead (by decide)
@[simp] theorem State.vector_keeps_commits (s : State) (v : Nat) : (State.vector s v).commits = s.commits := (State.vector_only s v).eq_commits (by decide)
@[simp] theorem State.vector_keeps_commitLog (s : State) (v : Nat) : (State.vector s v).commitLog = s.commitLog := (State.vector_only s v).eq_commitLog (by decide)
@[simp] theorem State.vector_keeps_recovered (s : State) (v : Nat) : (State.vector s v).recovered = s.recovered := (State.vector_only s v).eq_recovered (by decide)
@[simp] theorem State.vector_keeps_cancelled (s : State) (v : Nat) : (State.vector s v).cancelled = s.cancelled := (State.vector_only s v).eq_cancelled (by decide)
@[simp] theorem State.vector_keeps_recoveredCommits (s : State) (v : Nat) : (State.vector s v).recoveredCommits = s.recoveredCommits := (State.vector_only s v).eq_recoveredCommits (by decide)
@[simp] theorem State.vector_keeps_latency (s : State) (v : Nat) : (State.vector s v).latency = s.latency := (State.vector_only s v).eq_latency (by decide)
@[simp] theorem State.vector_keeps_engineQueues (s : State) (v : Nat) : (State.vector s v).engineQueues = s.engineQueues := (State.vector_only s v).eq_engineQueues (by decide)
@[simp] theorem State.vector_keeps_marver (s : State) (v : Nat) : (State.vector s v).marver = s.marver := (State.vector_only s v).eq_marver (by decide)
@[simp] theorem State.vector_keeps_pcs (s : State) (v : Nat) : (State.vector s v).pcs = s.pcs := (State.vector_only s v).eq_pcs (by decide)
@[simp] theorem State.vector_keeps_stageRows (s : State) (v : Nat) : (State.vector s v).stageRows = s.stageRows := (State.vector_only s v).eq_stageRows (by decide)
@[simp] theorem State.vector_keeps_windows (s : State) (v : Nat) : (State.vector s v).windows = s.windows := (State.vector_only s v).eq_windows (by decide)
@[simp] theorem State.vector_keeps_mem (s : State) (v : Nat) : (State.vector s v).mem = s.mem := (State.vector_only s v).eq_mem (by decide)
@[simp] theorem State.vector_keeps_placed (s : State) (v : Nat) : (State.vector s v).placed = s.placed := (State.vector_only s v).eq_placed (by decide)
@[simp] theorem State.vector_keeps_integrity (s : State) (v : Nat) : (State.vector s v).integrity = s.integrity := (State.vector_only s v).eq_integrity (by decide)
@[simp] theorem State.vector_keeps_regulator (s : State) (v : Nat) : (State.vector s v).regulator = s.regulator := (State.vector_only s v).eq_regulator (by decide)

@[simp] theorem State.writeEntry_keeps_pending (s : State) (e : LogEvent) : (State.writeEntry s e).pending = s.pending := (State.writeEntry_only s e).eq_pending (by decide)
@[simp] theorem State.writeEntry_keeps_out (s : State) (e : LogEvent) : (State.writeEntry s e).out = s.out := (State.writeEntry_only s e).eq_out (by decide)
@[simp] theorem State.writeEntry_keeps_heldOut (s : State) (e : LogEvent) : (State.writeEntry s e).heldOut = s.heldOut := (State.writeEntry_only s e).eq_heldOut (by decide)
@[simp] theorem State.writeEntry_keeps_free (s : State) (e : LogEvent) : (State.writeEntry s e).free = s.free := (State.writeEntry_only s e).eq_free (by decide)
@[simp] theorem State.writeEntry_keeps_time (s : State) (e : LogEvent) : (State.writeEntry s e).time = s.time := (State.writeEntry_only s e).eq_time (by decide)
@[simp] theorem State.writeEntry_keeps_pilot (s : State) (e : LogEvent) : (State.writeEntry s e).pilot = s.pilot := (State.writeEntry_only s e).eq_pilot (by decide)
@[simp] theorem State.writeEntry_keeps_dom (s : State) (e : LogEvent) : (State.writeEntry s e).dom = s.dom := (State.writeEntry_only s e).eq_dom (by decide)
@[simp] theorem State.writeEntry_keeps_latches (s : State) (e : LogEvent) : (State.writeEntry s e).latches = s.latches := (State.writeEntry_only s e).eq_latches (by decide)
@[simp] theorem State.writeEntry_keeps_pcie (s : State) (e : LogEvent) : (State.writeEntry s e).pcie = s.pcie := (State.writeEntry_only s e).eq_pcie (by decide)
@[simp] theorem State.writeEntry_keeps_rings (s : State) (e : LogEvent) : (State.writeEntry s e).rings = s.rings := (State.writeEntry_only s e).eq_rings (by decide)
@[simp] theorem State.writeEntry_keeps_resetting (s : State) (e : LogEvent) : (State.writeEntry s e).resetting = s.resetting := (State.writeEntry_only s e).eq_resetting (by decide)
@[simp] theorem State.writeEntry_keeps_quiesce (s : State) (e : LogEvent) : (State.writeEntry s e).quiesce = s.quiesce := (State.writeEntry_only s e).eq_quiesce (by decide)
@[simp] theorem State.writeEntry_keeps_lines (s : State) (e : LogEvent) : (State.writeEntry s e).lines = s.lines := (State.writeEntry_only s e).eq_lines (by decide)
@[simp] theorem State.writeEntry_keeps_pulses (s : State) (e : LogEvent) : (State.writeEntry s e).pulses = s.pulses := (State.writeEntry_only s e).eq_pulses (by decide)
@[simp] theorem State.writeEntry_keeps_channels (s : State) (e : LogEvent) : (State.writeEntry s e).channels = s.channels := (State.writeEntry_only s e).eq_channels (by decide)
@[simp] theorem State.writeEntry_keeps_fuses (s : State) (e : LogEvent) : (State.writeEntry s e).fuses = s.fuses := (State.writeEntry_only s e).eq_fuses (by decide)
@[simp] theorem State.writeEntry_keeps_trust (s : State) (e : LogEvent) : (State.writeEntry s e).trust = s.trust := (State.writeEntry_only s e).eq_trust (by decide)
@[simp] theorem State.writeEntry_keeps_sensors (s : State) (e : LogEvent) : (State.writeEntry s e).sensors = s.sensors := (State.writeEntry_only s e).eq_sensors (by decide)
@[simp] theorem State.writeEntry_keeps_layers (s : State) (e : LogEvent) : (State.writeEntry s e).layers = s.layers := (State.writeEntry_only s e).eq_layers (by decide)
@[simp] theorem State.writeEntry_keeps_thermal (s : State) (e : LogEvent) : (State.writeEntry s e).thermal = s.thermal := (State.writeEntry_only s e).eq_thermal (by decide)
@[simp] theorem State.writeEntry_keeps_test (s : State) (e : LogEvent) : (State.writeEntry s e).test = s.test := (State.writeEntry_only s e).eq_test (by decide)
@[simp] theorem State.writeEntry_keeps_ports (s : State) (e : LogEvent) : (State.writeEntry s e).ports = s.ports := (State.writeEntry_only s e).eq_ports (by decide)
@[simp] theorem State.writeEntry_keeps_lanes (s : State) (e : LogEvent) : (State.writeEntry s e).lanes = s.lanes := (State.writeEntry_only s e).eq_lanes (by decide)
@[simp] theorem State.writeEntry_keeps_queues (s : State) (e : LogEvent) : (State.writeEntry s e).queues = s.queues := (State.writeEntry_only s e).eq_queues (by decide)
@[simp] theorem State.writeEntry_keeps_queueChanges (s : State) (e : LogEvent) : (State.writeEntry s e).queueChanges = s.queueChanges := (State.writeEntry_only s e).eq_queueChanges (by decide)
@[simp] theorem State.writeEntry_keeps_snapshots (s : State) (e : LogEvent) : (State.writeEntry s e).snapshots = s.snapshots := (State.writeEntry_only s e).eq_snapshots (by decide)
@[simp] theorem State.writeEntry_keeps_snapPending (s : State) (e : LogEvent) : (State.writeEntry s e).snapPending = s.snapPending := (State.writeEntry_only s e).eq_snapPending (by decide)
@[simp] theorem State.writeEntry_keeps_tables (s : State) (e : LogEvent) : (State.writeEntry s e).tables = s.tables := (State.writeEntry_only s e).eq_tables (by decide)
@[simp] theorem State.writeEntry_keeps_dead (s : State) (e : LogEvent) : (State.writeEntry s e).dead = s.dead := (State.writeEntry_only s e).eq_dead (by decide)
@[simp] theorem State.writeEntry_keeps_commits (s : State) (e : LogEvent) : (State.writeEntry s e).commits = s.commits := (State.writeEntry_only s e).eq_commits (by decide)
@[simp] theorem State.writeEntry_keeps_commitLog (s : State) (e : LogEvent) : (State.writeEntry s e).commitLog = s.commitLog := (State.writeEntry_only s e).eq_commitLog (by decide)
@[simp] theorem State.writeEntry_keeps_recovered (s : State) (e : LogEvent) : (State.writeEntry s e).recovered = s.recovered := (State.writeEntry_only s e).eq_recovered (by decide)
@[simp] theorem State.writeEntry_keeps_cancelled (s : State) (e : LogEvent) : (State.writeEntry s e).cancelled = s.cancelled := (State.writeEntry_only s e).eq_cancelled (by decide)
@[simp] theorem State.writeEntry_keeps_recoveredCommits (s : State) (e : LogEvent) : (State.writeEntry s e).recoveredCommits = s.recoveredCommits := (State.writeEntry_only s e).eq_recoveredCommits (by decide)
@[simp] theorem State.writeEntry_keeps_latency (s : State) (e : LogEvent) : (State.writeEntry s e).latency = s.latency := (State.writeEntry_only s e).eq_latency (by decide)
@[simp] theorem State.writeEntry_keeps_engineQueues (s : State) (e : LogEvent) : (State.writeEntry s e).engineQueues = s.engineQueues := (State.writeEntry_only s e).eq_engineQueues (by decide)
@[simp] theorem State.writeEntry_keeps_marver (s : State) (e : LogEvent) : (State.writeEntry s e).marver = s.marver := (State.writeEntry_only s e).eq_marver (by decide)
@[simp] theorem State.writeEntry_keeps_pcs (s : State) (e : LogEvent) : (State.writeEntry s e).pcs = s.pcs := (State.writeEntry_only s e).eq_pcs (by decide)
@[simp] theorem State.writeEntry_keeps_stageRows (s : State) (e : LogEvent) : (State.writeEntry s e).stageRows = s.stageRows := (State.writeEntry_only s e).eq_stageRows (by decide)
@[simp] theorem State.writeEntry_keeps_windows (s : State) (e : LogEvent) : (State.writeEntry s e).windows = s.windows := (State.writeEntry_only s e).eq_windows (by decide)
@[simp] theorem State.writeEntry_keeps_mem (s : State) (e : LogEvent) : (State.writeEntry s e).mem = s.mem := (State.writeEntry_only s e).eq_mem (by decide)
@[simp] theorem State.writeEntry_keeps_placed (s : State) (e : LogEvent) : (State.writeEntry s e).placed = s.placed := (State.writeEntry_only s e).eq_placed (by decide)
@[simp] theorem State.writeEntry_keeps_integrity (s : State) (e : LogEvent) : (State.writeEntry s e).integrity = s.integrity := (State.writeEntry_only s e).eq_integrity (by decide)
@[simp] theorem State.writeEntry_keeps_regulator (s : State) (e : LogEvent) : (State.writeEntry s e).regulator = s.regulator := (State.writeEntry_only s e).eq_regulator (by decide)

@[simp] theorem State.report_keeps_pending (s : State) (e : LogEvent) : (State.report s e).pending = s.pending := (State.report_only s e).eq_pending (by decide)
@[simp] theorem State.report_keeps_heldOut (s : State) (e : LogEvent) : (State.report s e).heldOut = s.heldOut := (State.report_only s e).eq_heldOut (by decide)
@[simp] theorem State.report_keeps_free (s : State) (e : LogEvent) : (State.report s e).free = s.free := (State.report_only s e).eq_free (by decide)
@[simp] theorem State.report_keeps_time (s : State) (e : LogEvent) : (State.report s e).time = s.time := (State.report_only s e).eq_time (by decide)
@[simp] theorem State.report_keeps_pilot (s : State) (e : LogEvent) : (State.report s e).pilot = s.pilot := (State.report_only s e).eq_pilot (by decide)
@[simp] theorem State.report_keeps_dom (s : State) (e : LogEvent) : (State.report s e).dom = s.dom := (State.report_only s e).eq_dom (by decide)
@[simp] theorem State.report_keeps_latches (s : State) (e : LogEvent) : (State.report s e).latches = s.latches := (State.report_only s e).eq_latches (by decide)
@[simp] theorem State.report_keeps_rings (s : State) (e : LogEvent) : (State.report s e).rings = s.rings := (State.report_only s e).eq_rings (by decide)
@[simp] theorem State.report_keeps_resetting (s : State) (e : LogEvent) : (State.report s e).resetting = s.resetting := (State.report_only s e).eq_resetting (by decide)
@[simp] theorem State.report_keeps_quiesce (s : State) (e : LogEvent) : (State.report s e).quiesce = s.quiesce := (State.report_only s e).eq_quiesce (by decide)
@[simp] theorem State.report_keeps_lines (s : State) (e : LogEvent) : (State.report s e).lines = s.lines := (State.report_only s e).eq_lines (by decide)
@[simp] theorem State.report_keeps_pulses (s : State) (e : LogEvent) : (State.report s e).pulses = s.pulses := (State.report_only s e).eq_pulses (by decide)
@[simp] theorem State.report_keeps_channels (s : State) (e : LogEvent) : (State.report s e).channels = s.channels := (State.report_only s e).eq_channels (by decide)
@[simp] theorem State.report_keeps_fuses (s : State) (e : LogEvent) : (State.report s e).fuses = s.fuses := (State.report_only s e).eq_fuses (by decide)
@[simp] theorem State.report_keeps_trust (s : State) (e : LogEvent) : (State.report s e).trust = s.trust := (State.report_only s e).eq_trust (by decide)
@[simp] theorem State.report_keeps_sensors (s : State) (e : LogEvent) : (State.report s e).sensors = s.sensors := (State.report_only s e).eq_sensors (by decide)
@[simp] theorem State.report_keeps_layers (s : State) (e : LogEvent) : (State.report s e).layers = s.layers := (State.report_only s e).eq_layers (by decide)
@[simp] theorem State.report_keeps_thermal (s : State) (e : LogEvent) : (State.report s e).thermal = s.thermal := (State.report_only s e).eq_thermal (by decide)
@[simp] theorem State.report_keeps_test (s : State) (e : LogEvent) : (State.report s e).test = s.test := (State.report_only s e).eq_test (by decide)
@[simp] theorem State.report_keeps_ports (s : State) (e : LogEvent) : (State.report s e).ports = s.ports := (State.report_only s e).eq_ports (by decide)
@[simp] theorem State.report_keeps_lanes (s : State) (e : LogEvent) : (State.report s e).lanes = s.lanes := (State.report_only s e).eq_lanes (by decide)
@[simp] theorem State.report_keeps_queues (s : State) (e : LogEvent) : (State.report s e).queues = s.queues := (State.report_only s e).eq_queues (by decide)
@[simp] theorem State.report_keeps_queueChanges (s : State) (e : LogEvent) : (State.report s e).queueChanges = s.queueChanges := (State.report_only s e).eq_queueChanges (by decide)
@[simp] theorem State.report_keeps_snapshots (s : State) (e : LogEvent) : (State.report s e).snapshots = s.snapshots := (State.report_only s e).eq_snapshots (by decide)
@[simp] theorem State.report_keeps_snapPending (s : State) (e : LogEvent) : (State.report s e).snapPending = s.snapPending := (State.report_only s e).eq_snapPending (by decide)
@[simp] theorem State.report_keeps_tables (s : State) (e : LogEvent) : (State.report s e).tables = s.tables := (State.report_only s e).eq_tables (by decide)
@[simp] theorem State.report_keeps_dead (s : State) (e : LogEvent) : (State.report s e).dead = s.dead := (State.report_only s e).eq_dead (by decide)
@[simp] theorem State.report_keeps_commits (s : State) (e : LogEvent) : (State.report s e).commits = s.commits := (State.report_only s e).eq_commits (by decide)
@[simp] theorem State.report_keeps_commitLog (s : State) (e : LogEvent) : (State.report s e).commitLog = s.commitLog := (State.report_only s e).eq_commitLog (by decide)
@[simp] theorem State.report_keeps_recovered (s : State) (e : LogEvent) : (State.report s e).recovered = s.recovered := (State.report_only s e).eq_recovered (by decide)
@[simp] theorem State.report_keeps_cancelled (s : State) (e : LogEvent) : (State.report s e).cancelled = s.cancelled := (State.report_only s e).eq_cancelled (by decide)
@[simp] theorem State.report_keeps_recoveredCommits (s : State) (e : LogEvent) : (State.report s e).recoveredCommits = s.recoveredCommits := (State.report_only s e).eq_recoveredCommits (by decide)
@[simp] theorem State.report_keeps_latency (s : State) (e : LogEvent) : (State.report s e).latency = s.latency := (State.report_only s e).eq_latency (by decide)
@[simp] theorem State.report_keeps_engineQueues (s : State) (e : LogEvent) : (State.report s e).engineQueues = s.engineQueues := (State.report_only s e).eq_engineQueues (by decide)
@[simp] theorem State.report_keeps_marver (s : State) (e : LogEvent) : (State.report s e).marver = s.marver := (State.report_only s e).eq_marver (by decide)
@[simp] theorem State.report_keeps_pcs (s : State) (e : LogEvent) : (State.report s e).pcs = s.pcs := (State.report_only s e).eq_pcs (by decide)
@[simp] theorem State.report_keeps_stageRows (s : State) (e : LogEvent) : (State.report s e).stageRows = s.stageRows := (State.report_only s e).eq_stageRows (by decide)
@[simp] theorem State.report_keeps_windows (s : State) (e : LogEvent) : (State.report s e).windows = s.windows := (State.report_only s e).eq_windows (by decide)
@[simp] theorem State.report_keeps_mem (s : State) (e : LogEvent) : (State.report s e).mem = s.mem := (State.report_only s e).eq_mem (by decide)
@[simp] theorem State.report_keeps_placed (s : State) (e : LogEvent) : (State.report s e).placed = s.placed := (State.report_only s e).eq_placed (by decide)
@[simp] theorem State.report_keeps_integrity (s : State) (e : LogEvent) : (State.report s e).integrity = s.integrity := (State.report_only s e).eq_integrity (by decide)
@[simp] theorem State.report_keeps_regulator (s : State) (e : LogEvent) : (State.report s e).regulator = s.regulator := (State.report_only s e).eq_regulator (by decide)

@[simp] theorem State.emitHost_keeps_pending (s : State) (o : Output) : (State.emitHost s o).pending = s.pending := (State.emitHost_only s o).eq_pending (by decide)
@[simp] theorem State.emitHost_keeps_free (s : State) (o : Output) : (State.emitHost s o).free = s.free := (State.emitHost_only s o).eq_free (by decide)
@[simp] theorem State.emitHost_keeps_time (s : State) (o : Output) : (State.emitHost s o).time = s.time := (State.emitHost_only s o).eq_time (by decide)
@[simp] theorem State.emitHost_keeps_pilot (s : State) (o : Output) : (State.emitHost s o).pilot = s.pilot := (State.emitHost_only s o).eq_pilot (by decide)
@[simp] theorem State.emitHost_keeps_dom (s : State) (o : Output) : (State.emitHost s o).dom = s.dom := (State.emitHost_only s o).eq_dom (by decide)
@[simp] theorem State.emitHost_keeps_regs (s : State) (o : Output) : (State.emitHost s o).regs = s.regs := (State.emitHost_only s o).eq_regs (by decide)
@[simp] theorem State.emitHost_keeps_latches (s : State) (o : Output) : (State.emitHost s o).latches = s.latches := (State.emitHost_only s o).eq_latches (by decide)
@[simp] theorem State.emitHost_keeps_pcie (s : State) (o : Output) : (State.emitHost s o).pcie = s.pcie := (State.emitHost_only s o).eq_pcie (by decide)
@[simp] theorem State.emitHost_keeps_log (s : State) (o : Output) : (State.emitHost s o).log = s.log := (State.emitHost_only s o).eq_log (by decide)
@[simp] theorem State.emitHost_keeps_logWritten (s : State) (o : Output) : (State.emitHost s o).logWritten = s.logWritten := (State.emitHost_only s o).eq_logWritten (by decide)
@[simp] theorem State.emitHost_keeps_rings (s : State) (o : Output) : (State.emitHost s o).rings = s.rings := (State.emitHost_only s o).eq_rings (by decide)
@[simp] theorem State.emitHost_keeps_resetting (s : State) (o : Output) : (State.emitHost s o).resetting = s.resetting := (State.emitHost_only s o).eq_resetting (by decide)
@[simp] theorem State.emitHost_keeps_quiesce (s : State) (o : Output) : (State.emitHost s o).quiesce = s.quiesce := (State.emitHost_only s o).eq_quiesce (by decide)
@[simp] theorem State.emitHost_keeps_lines (s : State) (o : Output) : (State.emitHost s o).lines = s.lines := (State.emitHost_only s o).eq_lines (by decide)
@[simp] theorem State.emitHost_keeps_pulses (s : State) (o : Output) : (State.emitHost s o).pulses = s.pulses := (State.emitHost_only s o).eq_pulses (by decide)
@[simp] theorem State.emitHost_keeps_channels (s : State) (o : Output) : (State.emitHost s o).channels = s.channels := (State.emitHost_only s o).eq_channels (by decide)
@[simp] theorem State.emitHost_keeps_fuses (s : State) (o : Output) : (State.emitHost s o).fuses = s.fuses := (State.emitHost_only s o).eq_fuses (by decide)
@[simp] theorem State.emitHost_keeps_trust (s : State) (o : Output) : (State.emitHost s o).trust = s.trust := (State.emitHost_only s o).eq_trust (by decide)
@[simp] theorem State.emitHost_keeps_sensors (s : State) (o : Output) : (State.emitHost s o).sensors = s.sensors := (State.emitHost_only s o).eq_sensors (by decide)
@[simp] theorem State.emitHost_keeps_layers (s : State) (o : Output) : (State.emitHost s o).layers = s.layers := (State.emitHost_only s o).eq_layers (by decide)
@[simp] theorem State.emitHost_keeps_thermal (s : State) (o : Output) : (State.emitHost s o).thermal = s.thermal := (State.emitHost_only s o).eq_thermal (by decide)
@[simp] theorem State.emitHost_keeps_test (s : State) (o : Output) : (State.emitHost s o).test = s.test := (State.emitHost_only s o).eq_test (by decide)
@[simp] theorem State.emitHost_keeps_sideband (s : State) (o : Output) : (State.emitHost s o).sideband = s.sideband := (State.emitHost_only s o).eq_sideband (by decide)
@[simp] theorem State.emitHost_keeps_ports (s : State) (o : Output) : (State.emitHost s o).ports = s.ports := (State.emitHost_only s o).eq_ports (by decide)
@[simp] theorem State.emitHost_keeps_lanes (s : State) (o : Output) : (State.emitHost s o).lanes = s.lanes := (State.emitHost_only s o).eq_lanes (by decide)
@[simp] theorem State.emitHost_keeps_queues (s : State) (o : Output) : (State.emitHost s o).queues = s.queues := (State.emitHost_only s o).eq_queues (by decide)
@[simp] theorem State.emitHost_keeps_queueChanges (s : State) (o : Output) : (State.emitHost s o).queueChanges = s.queueChanges := (State.emitHost_only s o).eq_queueChanges (by decide)
@[simp] theorem State.emitHost_keeps_snapshots (s : State) (o : Output) : (State.emitHost s o).snapshots = s.snapshots := (State.emitHost_only s o).eq_snapshots (by decide)
@[simp] theorem State.emitHost_keeps_snapPending (s : State) (o : Output) : (State.emitHost s o).snapPending = s.snapPending := (State.emitHost_only s o).eq_snapPending (by decide)
@[simp] theorem State.emitHost_keeps_tables (s : State) (o : Output) : (State.emitHost s o).tables = s.tables := (State.emitHost_only s o).eq_tables (by decide)
@[simp] theorem State.emitHost_keeps_dead (s : State) (o : Output) : (State.emitHost s o).dead = s.dead := (State.emitHost_only s o).eq_dead (by decide)
@[simp] theorem State.emitHost_keeps_commits (s : State) (o : Output) : (State.emitHost s o).commits = s.commits := (State.emitHost_only s o).eq_commits (by decide)
@[simp] theorem State.emitHost_keeps_commitLog (s : State) (o : Output) : (State.emitHost s o).commitLog = s.commitLog := (State.emitHost_only s o).eq_commitLog (by decide)
@[simp] theorem State.emitHost_keeps_recovered (s : State) (o : Output) : (State.emitHost s o).recovered = s.recovered := (State.emitHost_only s o).eq_recovered (by decide)
@[simp] theorem State.emitHost_keeps_cancelled (s : State) (o : Output) : (State.emitHost s o).cancelled = s.cancelled := (State.emitHost_only s o).eq_cancelled (by decide)
@[simp] theorem State.emitHost_keeps_recoveredCommits (s : State) (o : Output) : (State.emitHost s o).recoveredCommits = s.recoveredCommits := (State.emitHost_only s o).eq_recoveredCommits (by decide)
@[simp] theorem State.emitHost_keeps_latency (s : State) (o : Output) : (State.emitHost s o).latency = s.latency := (State.emitHost_only s o).eq_latency (by decide)
@[simp] theorem State.emitHost_keeps_engineQueues (s : State) (o : Output) : (State.emitHost s o).engineQueues = s.engineQueues := (State.emitHost_only s o).eq_engineQueues (by decide)
@[simp] theorem State.emitHost_keeps_marver (s : State) (o : Output) : (State.emitHost s o).marver = s.marver := (State.emitHost_only s o).eq_marver (by decide)
@[simp] theorem State.emitHost_keeps_pcs (s : State) (o : Output) : (State.emitHost s o).pcs = s.pcs := (State.emitHost_only s o).eq_pcs (by decide)
@[simp] theorem State.emitHost_keeps_stageRows (s : State) (o : Output) : (State.emitHost s o).stageRows = s.stageRows := (State.emitHost_only s o).eq_stageRows (by decide)
@[simp] theorem State.emitHost_keeps_windows (s : State) (o : Output) : (State.emitHost s o).windows = s.windows := (State.emitHost_only s o).eq_windows (by decide)
@[simp] theorem State.emitHost_keeps_mem (s : State) (o : Output) : (State.emitHost s o).mem = s.mem := (State.emitHost_only s o).eq_mem (by decide)
@[simp] theorem State.emitHost_keeps_placed (s : State) (o : Output) : (State.emitHost s o).placed = s.placed := (State.emitHost_only s o).eq_placed (by decide)
@[simp] theorem State.emitHost_keeps_integrity (s : State) (o : Output) : (State.emitHost s o).integrity = s.integrity := (State.emitHost_only s o).eq_integrity (by decide)
@[simp] theorem State.emitHost_keeps_regulator (s : State) (o : Output) : (State.emitHost s o).regulator = s.regulator := (State.emitHost_only s o).eq_regulator (by decide)

@[simp] theorem State.syncRing_keeps_pending (s : State) (r : Nat) : (State.syncRing s r).pending = s.pending := (State.syncRing_only s r).eq_pending (by decide)
@[simp] theorem State.syncRing_keeps_out (s : State) (r : Nat) : (State.syncRing s r).out = s.out := (State.syncRing_only s r).eq_out (by decide)
@[simp] theorem State.syncRing_keeps_heldOut (s : State) (r : Nat) : (State.syncRing s r).heldOut = s.heldOut := (State.syncRing_only s r).eq_heldOut (by decide)
@[simp] theorem State.syncRing_keeps_free (s : State) (r : Nat) : (State.syncRing s r).free = s.free := (State.syncRing_only s r).eq_free (by decide)
@[simp] theorem State.syncRing_keeps_time (s : State) (r : Nat) : (State.syncRing s r).time = s.time := (State.syncRing_only s r).eq_time (by decide)
@[simp] theorem State.syncRing_keeps_pilot (s : State) (r : Nat) : (State.syncRing s r).pilot = s.pilot := (State.syncRing_only s r).eq_pilot (by decide)
@[simp] theorem State.syncRing_keeps_dom (s : State) (r : Nat) : (State.syncRing s r).dom = s.dom := (State.syncRing_only s r).eq_dom (by decide)
@[simp] theorem State.syncRing_keeps_latches (s : State) (r : Nat) : (State.syncRing s r).latches = s.latches := (State.syncRing_only s r).eq_latches (by decide)
@[simp] theorem State.syncRing_keeps_pcie (s : State) (r : Nat) : (State.syncRing s r).pcie = s.pcie := (State.syncRing_only s r).eq_pcie (by decide)
@[simp] theorem State.syncRing_keeps_log (s : State) (r : Nat) : (State.syncRing s r).log = s.log := (State.syncRing_only s r).eq_log (by decide)
@[simp] theorem State.syncRing_keeps_logWritten (s : State) (r : Nat) : (State.syncRing s r).logWritten = s.logWritten := (State.syncRing_only s r).eq_logWritten (by decide)
@[simp] theorem State.syncRing_keeps_rings (s : State) (r : Nat) : (State.syncRing s r).rings = s.rings := (State.syncRing_only s r).eq_rings (by decide)
@[simp] theorem State.syncRing_keeps_resetting (s : State) (r : Nat) : (State.syncRing s r).resetting = s.resetting := (State.syncRing_only s r).eq_resetting (by decide)
@[simp] theorem State.syncRing_keeps_quiesce (s : State) (r : Nat) : (State.syncRing s r).quiesce = s.quiesce := (State.syncRing_only s r).eq_quiesce (by decide)
@[simp] theorem State.syncRing_keeps_lines (s : State) (r : Nat) : (State.syncRing s r).lines = s.lines := (State.syncRing_only s r).eq_lines (by decide)
@[simp] theorem State.syncRing_keeps_pulses (s : State) (r : Nat) : (State.syncRing s r).pulses = s.pulses := (State.syncRing_only s r).eq_pulses (by decide)
@[simp] theorem State.syncRing_keeps_channels (s : State) (r : Nat) : (State.syncRing s r).channels = s.channels := (State.syncRing_only s r).eq_channels (by decide)
@[simp] theorem State.syncRing_keeps_fuses (s : State) (r : Nat) : (State.syncRing s r).fuses = s.fuses := (State.syncRing_only s r).eq_fuses (by decide)
@[simp] theorem State.syncRing_keeps_trust (s : State) (r : Nat) : (State.syncRing s r).trust = s.trust := (State.syncRing_only s r).eq_trust (by decide)
@[simp] theorem State.syncRing_keeps_sensors (s : State) (r : Nat) : (State.syncRing s r).sensors = s.sensors := (State.syncRing_only s r).eq_sensors (by decide)
@[simp] theorem State.syncRing_keeps_layers (s : State) (r : Nat) : (State.syncRing s r).layers = s.layers := (State.syncRing_only s r).eq_layers (by decide)
@[simp] theorem State.syncRing_keeps_thermal (s : State) (r : Nat) : (State.syncRing s r).thermal = s.thermal := (State.syncRing_only s r).eq_thermal (by decide)
@[simp] theorem State.syncRing_keeps_test (s : State) (r : Nat) : (State.syncRing s r).test = s.test := (State.syncRing_only s r).eq_test (by decide)
@[simp] theorem State.syncRing_keeps_sideband (s : State) (r : Nat) : (State.syncRing s r).sideband = s.sideband := (State.syncRing_only s r).eq_sideband (by decide)
@[simp] theorem State.syncRing_keeps_ports (s : State) (r : Nat) : (State.syncRing s r).ports = s.ports := (State.syncRing_only s r).eq_ports (by decide)
@[simp] theorem State.syncRing_keeps_lanes (s : State) (r : Nat) : (State.syncRing s r).lanes = s.lanes := (State.syncRing_only s r).eq_lanes (by decide)
@[simp] theorem State.syncRing_keeps_queues (s : State) (r : Nat) : (State.syncRing s r).queues = s.queues := (State.syncRing_only s r).eq_queues (by decide)
@[simp] theorem State.syncRing_keeps_queueChanges (s : State) (r : Nat) : (State.syncRing s r).queueChanges = s.queueChanges := (State.syncRing_only s r).eq_queueChanges (by decide)
@[simp] theorem State.syncRing_keeps_snapshots (s : State) (r : Nat) : (State.syncRing s r).snapshots = s.snapshots := (State.syncRing_only s r).eq_snapshots (by decide)
@[simp] theorem State.syncRing_keeps_snapPending (s : State) (r : Nat) : (State.syncRing s r).snapPending = s.snapPending := (State.syncRing_only s r).eq_snapPending (by decide)
@[simp] theorem State.syncRing_keeps_tables (s : State) (r : Nat) : (State.syncRing s r).tables = s.tables := (State.syncRing_only s r).eq_tables (by decide)
@[simp] theorem State.syncRing_keeps_dead (s : State) (r : Nat) : (State.syncRing s r).dead = s.dead := (State.syncRing_only s r).eq_dead (by decide)
@[simp] theorem State.syncRing_keeps_commits (s : State) (r : Nat) : (State.syncRing s r).commits = s.commits := (State.syncRing_only s r).eq_commits (by decide)
@[simp] theorem State.syncRing_keeps_commitLog (s : State) (r : Nat) : (State.syncRing s r).commitLog = s.commitLog := (State.syncRing_only s r).eq_commitLog (by decide)
@[simp] theorem State.syncRing_keeps_recovered (s : State) (r : Nat) : (State.syncRing s r).recovered = s.recovered := (State.syncRing_only s r).eq_recovered (by decide)
@[simp] theorem State.syncRing_keeps_cancelled (s : State) (r : Nat) : (State.syncRing s r).cancelled = s.cancelled := (State.syncRing_only s r).eq_cancelled (by decide)
@[simp] theorem State.syncRing_keeps_recoveredCommits (s : State) (r : Nat) : (State.syncRing s r).recoveredCommits = s.recoveredCommits := (State.syncRing_only s r).eq_recoveredCommits (by decide)
@[simp] theorem State.syncRing_keeps_latency (s : State) (r : Nat) : (State.syncRing s r).latency = s.latency := (State.syncRing_only s r).eq_latency (by decide)
@[simp] theorem State.syncRing_keeps_engineQueues (s : State) (r : Nat) : (State.syncRing s r).engineQueues = s.engineQueues := (State.syncRing_only s r).eq_engineQueues (by decide)
@[simp] theorem State.syncRing_keeps_marver (s : State) (r : Nat) : (State.syncRing s r).marver = s.marver := (State.syncRing_only s r).eq_marver (by decide)
@[simp] theorem State.syncRing_keeps_pcs (s : State) (r : Nat) : (State.syncRing s r).pcs = s.pcs := (State.syncRing_only s r).eq_pcs (by decide)
@[simp] theorem State.syncRing_keeps_stageRows (s : State) (r : Nat) : (State.syncRing s r).stageRows = s.stageRows := (State.syncRing_only s r).eq_stageRows (by decide)
@[simp] theorem State.syncRing_keeps_windows (s : State) (r : Nat) : (State.syncRing s r).windows = s.windows := (State.syncRing_only s r).eq_windows (by decide)
@[simp] theorem State.syncRing_keeps_mem (s : State) (r : Nat) : (State.syncRing s r).mem = s.mem := (State.syncRing_only s r).eq_mem (by decide)
@[simp] theorem State.syncRing_keeps_placed (s : State) (r : Nat) : (State.syncRing s r).placed = s.placed := (State.syncRing_only s r).eq_placed (by decide)
@[simp] theorem State.syncRing_keeps_integrity (s : State) (r : Nat) : (State.syncRing s r).integrity = s.integrity := (State.syncRing_only s r).eq_integrity (by decide)
@[simp] theorem State.syncRing_keeps_regulator (s : State) (r : Nat) : (State.syncRing s r).regulator = s.regulator := (State.syncRing_only s r).eq_regulator (by decide)

@[simp] theorem State.writeCompletion_keeps_pending (s : State) (r : Nat) (tag : Nat) (status : Nat) (result : Nat) : (State.writeCompletion s r tag status result).pending = s.pending := (State.writeCompletion_only s r tag status result).eq_pending (by decide)
@[simp] theorem State.writeCompletion_keeps_free (s : State) (r : Nat) (tag : Nat) (status : Nat) (result : Nat) : (State.writeCompletion s r tag status result).free = s.free := (State.writeCompletion_only s r tag status result).eq_free (by decide)
@[simp] theorem State.writeCompletion_keeps_time (s : State) (r : Nat) (tag : Nat) (status : Nat) (result : Nat) : (State.writeCompletion s r tag status result).time = s.time := (State.writeCompletion_only s r tag status result).eq_time (by decide)
@[simp] theorem State.writeCompletion_keeps_pilot (s : State) (r : Nat) (tag : Nat) (status : Nat) (result : Nat) : (State.writeCompletion s r tag status result).pilot = s.pilot := (State.writeCompletion_only s r tag status result).eq_pilot (by decide)
@[simp] theorem State.writeCompletion_keeps_dom (s : State) (r : Nat) (tag : Nat) (status : Nat) (result : Nat) : (State.writeCompletion s r tag status result).dom = s.dom := (State.writeCompletion_only s r tag status result).eq_dom (by decide)
@[simp] theorem State.writeCompletion_keeps_latches (s : State) (r : Nat) (tag : Nat) (status : Nat) (result : Nat) : (State.writeCompletion s r tag status result).latches = s.latches := (State.writeCompletion_only s r tag status result).eq_latches (by decide)
@[simp] theorem State.writeCompletion_keeps_log (s : State) (r : Nat) (tag : Nat) (status : Nat) (result : Nat) : (State.writeCompletion s r tag status result).log = s.log := (State.writeCompletion_only s r tag status result).eq_log (by decide)
@[simp] theorem State.writeCompletion_keeps_logWritten (s : State) (r : Nat) (tag : Nat) (status : Nat) (result : Nat) : (State.writeCompletion s r tag status result).logWritten = s.logWritten := (State.writeCompletion_only s r tag status result).eq_logWritten (by decide)
@[simp] theorem State.writeCompletion_keeps_resetting (s : State) (r : Nat) (tag : Nat) (status : Nat) (result : Nat) : (State.writeCompletion s r tag status result).resetting = s.resetting := (State.writeCompletion_only s r tag status result).eq_resetting (by decide)
@[simp] theorem State.writeCompletion_keeps_quiesce (s : State) (r : Nat) (tag : Nat) (status : Nat) (result : Nat) : (State.writeCompletion s r tag status result).quiesce = s.quiesce := (State.writeCompletion_only s r tag status result).eq_quiesce (by decide)
@[simp] theorem State.writeCompletion_keeps_lines (s : State) (r : Nat) (tag : Nat) (status : Nat) (result : Nat) : (State.writeCompletion s r tag status result).lines = s.lines := (State.writeCompletion_only s r tag status result).eq_lines (by decide)
@[simp] theorem State.writeCompletion_keeps_pulses (s : State) (r : Nat) (tag : Nat) (status : Nat) (result : Nat) : (State.writeCompletion s r tag status result).pulses = s.pulses := (State.writeCompletion_only s r tag status result).eq_pulses (by decide)
@[simp] theorem State.writeCompletion_keeps_channels (s : State) (r : Nat) (tag : Nat) (status : Nat) (result : Nat) : (State.writeCompletion s r tag status result).channels = s.channels := (State.writeCompletion_only s r tag status result).eq_channels (by decide)
@[simp] theorem State.writeCompletion_keeps_fuses (s : State) (r : Nat) (tag : Nat) (status : Nat) (result : Nat) : (State.writeCompletion s r tag status result).fuses = s.fuses := (State.writeCompletion_only s r tag status result).eq_fuses (by decide)
@[simp] theorem State.writeCompletion_keeps_trust (s : State) (r : Nat) (tag : Nat) (status : Nat) (result : Nat) : (State.writeCompletion s r tag status result).trust = s.trust := (State.writeCompletion_only s r tag status result).eq_trust (by decide)
@[simp] theorem State.writeCompletion_keeps_sensors (s : State) (r : Nat) (tag : Nat) (status : Nat) (result : Nat) : (State.writeCompletion s r tag status result).sensors = s.sensors := (State.writeCompletion_only s r tag status result).eq_sensors (by decide)
@[simp] theorem State.writeCompletion_keeps_layers (s : State) (r : Nat) (tag : Nat) (status : Nat) (result : Nat) : (State.writeCompletion s r tag status result).layers = s.layers := (State.writeCompletion_only s r tag status result).eq_layers (by decide)
@[simp] theorem State.writeCompletion_keeps_thermal (s : State) (r : Nat) (tag : Nat) (status : Nat) (result : Nat) : (State.writeCompletion s r tag status result).thermal = s.thermal := (State.writeCompletion_only s r tag status result).eq_thermal (by decide)
@[simp] theorem State.writeCompletion_keeps_test (s : State) (r : Nat) (tag : Nat) (status : Nat) (result : Nat) : (State.writeCompletion s r tag status result).test = s.test := (State.writeCompletion_only s r tag status result).eq_test (by decide)
@[simp] theorem State.writeCompletion_keeps_sideband (s : State) (r : Nat) (tag : Nat) (status : Nat) (result : Nat) : (State.writeCompletion s r tag status result).sideband = s.sideband := (State.writeCompletion_only s r tag status result).eq_sideband (by decide)
@[simp] theorem State.writeCompletion_keeps_ports (s : State) (r : Nat) (tag : Nat) (status : Nat) (result : Nat) : (State.writeCompletion s r tag status result).ports = s.ports := (State.writeCompletion_only s r tag status result).eq_ports (by decide)
@[simp] theorem State.writeCompletion_keeps_lanes (s : State) (r : Nat) (tag : Nat) (status : Nat) (result : Nat) : (State.writeCompletion s r tag status result).lanes = s.lanes := (State.writeCompletion_only s r tag status result).eq_lanes (by decide)
@[simp] theorem State.writeCompletion_keeps_queues (s : State) (r : Nat) (tag : Nat) (status : Nat) (result : Nat) : (State.writeCompletion s r tag status result).queues = s.queues := (State.writeCompletion_only s r tag status result).eq_queues (by decide)
@[simp] theorem State.writeCompletion_keeps_queueChanges (s : State) (r : Nat) (tag : Nat) (status : Nat) (result : Nat) : (State.writeCompletion s r tag status result).queueChanges = s.queueChanges := (State.writeCompletion_only s r tag status result).eq_queueChanges (by decide)
@[simp] theorem State.writeCompletion_keeps_snapshots (s : State) (r : Nat) (tag : Nat) (status : Nat) (result : Nat) : (State.writeCompletion s r tag status result).snapshots = s.snapshots := (State.writeCompletion_only s r tag status result).eq_snapshots (by decide)
@[simp] theorem State.writeCompletion_keeps_snapPending (s : State) (r : Nat) (tag : Nat) (status : Nat) (result : Nat) : (State.writeCompletion s r tag status result).snapPending = s.snapPending := (State.writeCompletion_only s r tag status result).eq_snapPending (by decide)
@[simp] theorem State.writeCompletion_keeps_tables (s : State) (r : Nat) (tag : Nat) (status : Nat) (result : Nat) : (State.writeCompletion s r tag status result).tables = s.tables := (State.writeCompletion_only s r tag status result).eq_tables (by decide)
@[simp] theorem State.writeCompletion_keeps_dead (s : State) (r : Nat) (tag : Nat) (status : Nat) (result : Nat) : (State.writeCompletion s r tag status result).dead = s.dead := (State.writeCompletion_only s r tag status result).eq_dead (by decide)
@[simp] theorem State.writeCompletion_keeps_commits (s : State) (r : Nat) (tag : Nat) (status : Nat) (result : Nat) : (State.writeCompletion s r tag status result).commits = s.commits := (State.writeCompletion_only s r tag status result).eq_commits (by decide)
@[simp] theorem State.writeCompletion_keeps_commitLog (s : State) (r : Nat) (tag : Nat) (status : Nat) (result : Nat) : (State.writeCompletion s r tag status result).commitLog = s.commitLog := (State.writeCompletion_only s r tag status result).eq_commitLog (by decide)
@[simp] theorem State.writeCompletion_keeps_recovered (s : State) (r : Nat) (tag : Nat) (status : Nat) (result : Nat) : (State.writeCompletion s r tag status result).recovered = s.recovered := (State.writeCompletion_only s r tag status result).eq_recovered (by decide)
@[simp] theorem State.writeCompletion_keeps_cancelled (s : State) (r : Nat) (tag : Nat) (status : Nat) (result : Nat) : (State.writeCompletion s r tag status result).cancelled = s.cancelled := (State.writeCompletion_only s r tag status result).eq_cancelled (by decide)
@[simp] theorem State.writeCompletion_keeps_recoveredCommits (s : State) (r : Nat) (tag : Nat) (status : Nat) (result : Nat) : (State.writeCompletion s r tag status result).recoveredCommits = s.recoveredCommits := (State.writeCompletion_only s r tag status result).eq_recoveredCommits (by decide)
@[simp] theorem State.writeCompletion_keeps_latency (s : State) (r : Nat) (tag : Nat) (status : Nat) (result : Nat) : (State.writeCompletion s r tag status result).latency = s.latency := (State.writeCompletion_only s r tag status result).eq_latency (by decide)
@[simp] theorem State.writeCompletion_keeps_engineQueues (s : State) (r : Nat) (tag : Nat) (status : Nat) (result : Nat) : (State.writeCompletion s r tag status result).engineQueues = s.engineQueues := (State.writeCompletion_only s r tag status result).eq_engineQueues (by decide)
@[simp] theorem State.writeCompletion_keeps_marver (s : State) (r : Nat) (tag : Nat) (status : Nat) (result : Nat) : (State.writeCompletion s r tag status result).marver = s.marver := (State.writeCompletion_only s r tag status result).eq_marver (by decide)
@[simp] theorem State.writeCompletion_keeps_pcs (s : State) (r : Nat) (tag : Nat) (status : Nat) (result : Nat) : (State.writeCompletion s r tag status result).pcs = s.pcs := (State.writeCompletion_only s r tag status result).eq_pcs (by decide)
@[simp] theorem State.writeCompletion_keeps_stageRows (s : State) (r : Nat) (tag : Nat) (status : Nat) (result : Nat) : (State.writeCompletion s r tag status result).stageRows = s.stageRows := (State.writeCompletion_only s r tag status result).eq_stageRows (by decide)
@[simp] theorem State.writeCompletion_keeps_windows (s : State) (r : Nat) (tag : Nat) (status : Nat) (result : Nat) : (State.writeCompletion s r tag status result).windows = s.windows := (State.writeCompletion_only s r tag status result).eq_windows (by decide)
@[simp] theorem State.writeCompletion_keeps_mem (s : State) (r : Nat) (tag : Nat) (status : Nat) (result : Nat) : (State.writeCompletion s r tag status result).mem = s.mem := (State.writeCompletion_only s r tag status result).eq_mem (by decide)
@[simp] theorem State.writeCompletion_keeps_placed (s : State) (r : Nat) (tag : Nat) (status : Nat) (result : Nat) : (State.writeCompletion s r tag status result).placed = s.placed := (State.writeCompletion_only s r tag status result).eq_placed (by decide)
@[simp] theorem State.writeCompletion_keeps_integrity (s : State) (r : Nat) (tag : Nat) (status : Nat) (result : Nat) : (State.writeCompletion s r tag status result).integrity = s.integrity := (State.writeCompletion_only s r tag status result).eq_integrity (by decide)
@[simp] theorem State.writeCompletion_keeps_regulator (s : State) (r : Nat) (tag : Nat) (status : Nat) (result : Nat) : (State.writeCompletion s r tag status result).regulator = s.regulator := (State.writeCompletion_only s r tag status result).eq_regulator (by decide)

@[simp] theorem State.complete_keeps_pending (s : State) (r : Nat) (tag : Nat) (status : Nat) (result : Nat) : (State.complete s r tag status result).pending = s.pending := (State.complete_only s r tag status result).eq_pending (by decide)
@[simp] theorem State.complete_keeps_free (s : State) (r : Nat) (tag : Nat) (status : Nat) (result : Nat) : (State.complete s r tag status result).free = s.free := (State.complete_only s r tag status result).eq_free (by decide)
@[simp] theorem State.complete_keeps_time (s : State) (r : Nat) (tag : Nat) (status : Nat) (result : Nat) : (State.complete s r tag status result).time = s.time := (State.complete_only s r tag status result).eq_time (by decide)
@[simp] theorem State.complete_keeps_pilot (s : State) (r : Nat) (tag : Nat) (status : Nat) (result : Nat) : (State.complete s r tag status result).pilot = s.pilot := (State.complete_only s r tag status result).eq_pilot (by decide)
@[simp] theorem State.complete_keeps_dom (s : State) (r : Nat) (tag : Nat) (status : Nat) (result : Nat) : (State.complete s r tag status result).dom = s.dom := (State.complete_only s r tag status result).eq_dom (by decide)
@[simp] theorem State.complete_keeps_latches (s : State) (r : Nat) (tag : Nat) (status : Nat) (result : Nat) : (State.complete s r tag status result).latches = s.latches := (State.complete_only s r tag status result).eq_latches (by decide)
@[simp] theorem State.complete_keeps_log (s : State) (r : Nat) (tag : Nat) (status : Nat) (result : Nat) : (State.complete s r tag status result).log = s.log := (State.complete_only s r tag status result).eq_log (by decide)
@[simp] theorem State.complete_keeps_logWritten (s : State) (r : Nat) (tag : Nat) (status : Nat) (result : Nat) : (State.complete s r tag status result).logWritten = s.logWritten := (State.complete_only s r tag status result).eq_logWritten (by decide)
@[simp] theorem State.complete_keeps_resetting (s : State) (r : Nat) (tag : Nat) (status : Nat) (result : Nat) : (State.complete s r tag status result).resetting = s.resetting := (State.complete_only s r tag status result).eq_resetting (by decide)
@[simp] theorem State.complete_keeps_quiesce (s : State) (r : Nat) (tag : Nat) (status : Nat) (result : Nat) : (State.complete s r tag status result).quiesce = s.quiesce := (State.complete_only s r tag status result).eq_quiesce (by decide)
@[simp] theorem State.complete_keeps_lines (s : State) (r : Nat) (tag : Nat) (status : Nat) (result : Nat) : (State.complete s r tag status result).lines = s.lines := (State.complete_only s r tag status result).eq_lines (by decide)
@[simp] theorem State.complete_keeps_pulses (s : State) (r : Nat) (tag : Nat) (status : Nat) (result : Nat) : (State.complete s r tag status result).pulses = s.pulses := (State.complete_only s r tag status result).eq_pulses (by decide)
@[simp] theorem State.complete_keeps_channels (s : State) (r : Nat) (tag : Nat) (status : Nat) (result : Nat) : (State.complete s r tag status result).channels = s.channels := (State.complete_only s r tag status result).eq_channels (by decide)
@[simp] theorem State.complete_keeps_fuses (s : State) (r : Nat) (tag : Nat) (status : Nat) (result : Nat) : (State.complete s r tag status result).fuses = s.fuses := (State.complete_only s r tag status result).eq_fuses (by decide)
@[simp] theorem State.complete_keeps_trust (s : State) (r : Nat) (tag : Nat) (status : Nat) (result : Nat) : (State.complete s r tag status result).trust = s.trust := (State.complete_only s r tag status result).eq_trust (by decide)
@[simp] theorem State.complete_keeps_sensors (s : State) (r : Nat) (tag : Nat) (status : Nat) (result : Nat) : (State.complete s r tag status result).sensors = s.sensors := (State.complete_only s r tag status result).eq_sensors (by decide)
@[simp] theorem State.complete_keeps_layers (s : State) (r : Nat) (tag : Nat) (status : Nat) (result : Nat) : (State.complete s r tag status result).layers = s.layers := (State.complete_only s r tag status result).eq_layers (by decide)
@[simp] theorem State.complete_keeps_thermal (s : State) (r : Nat) (tag : Nat) (status : Nat) (result : Nat) : (State.complete s r tag status result).thermal = s.thermal := (State.complete_only s r tag status result).eq_thermal (by decide)
@[simp] theorem State.complete_keeps_test (s : State) (r : Nat) (tag : Nat) (status : Nat) (result : Nat) : (State.complete s r tag status result).test = s.test := (State.complete_only s r tag status result).eq_test (by decide)
@[simp] theorem State.complete_keeps_sideband (s : State) (r : Nat) (tag : Nat) (status : Nat) (result : Nat) : (State.complete s r tag status result).sideband = s.sideband := (State.complete_only s r tag status result).eq_sideband (by decide)
@[simp] theorem State.complete_keeps_ports (s : State) (r : Nat) (tag : Nat) (status : Nat) (result : Nat) : (State.complete s r tag status result).ports = s.ports := (State.complete_only s r tag status result).eq_ports (by decide)
@[simp] theorem State.complete_keeps_lanes (s : State) (r : Nat) (tag : Nat) (status : Nat) (result : Nat) : (State.complete s r tag status result).lanes = s.lanes := (State.complete_only s r tag status result).eq_lanes (by decide)
@[simp] theorem State.complete_keeps_queues (s : State) (r : Nat) (tag : Nat) (status : Nat) (result : Nat) : (State.complete s r tag status result).queues = s.queues := (State.complete_only s r tag status result).eq_queues (by decide)
@[simp] theorem State.complete_keeps_queueChanges (s : State) (r : Nat) (tag : Nat) (status : Nat) (result : Nat) : (State.complete s r tag status result).queueChanges = s.queueChanges := (State.complete_only s r tag status result).eq_queueChanges (by decide)
@[simp] theorem State.complete_keeps_snapshots (s : State) (r : Nat) (tag : Nat) (status : Nat) (result : Nat) : (State.complete s r tag status result).snapshots = s.snapshots := (State.complete_only s r tag status result).eq_snapshots (by decide)
@[simp] theorem State.complete_keeps_snapPending (s : State) (r : Nat) (tag : Nat) (status : Nat) (result : Nat) : (State.complete s r tag status result).snapPending = s.snapPending := (State.complete_only s r tag status result).eq_snapPending (by decide)
@[simp] theorem State.complete_keeps_tables (s : State) (r : Nat) (tag : Nat) (status : Nat) (result : Nat) : (State.complete s r tag status result).tables = s.tables := (State.complete_only s r tag status result).eq_tables (by decide)
@[simp] theorem State.complete_keeps_dead (s : State) (r : Nat) (tag : Nat) (status : Nat) (result : Nat) : (State.complete s r tag status result).dead = s.dead := (State.complete_only s r tag status result).eq_dead (by decide)
@[simp] theorem State.complete_keeps_commits (s : State) (r : Nat) (tag : Nat) (status : Nat) (result : Nat) : (State.complete s r tag status result).commits = s.commits := (State.complete_only s r tag status result).eq_commits (by decide)
@[simp] theorem State.complete_keeps_commitLog (s : State) (r : Nat) (tag : Nat) (status : Nat) (result : Nat) : (State.complete s r tag status result).commitLog = s.commitLog := (State.complete_only s r tag status result).eq_commitLog (by decide)
@[simp] theorem State.complete_keeps_recovered (s : State) (r : Nat) (tag : Nat) (status : Nat) (result : Nat) : (State.complete s r tag status result).recovered = s.recovered := (State.complete_only s r tag status result).eq_recovered (by decide)
@[simp] theorem State.complete_keeps_cancelled (s : State) (r : Nat) (tag : Nat) (status : Nat) (result : Nat) : (State.complete s r tag status result).cancelled = s.cancelled := (State.complete_only s r tag status result).eq_cancelled (by decide)
@[simp] theorem State.complete_keeps_recoveredCommits (s : State) (r : Nat) (tag : Nat) (status : Nat) (result : Nat) : (State.complete s r tag status result).recoveredCommits = s.recoveredCommits := (State.complete_only s r tag status result).eq_recoveredCommits (by decide)
@[simp] theorem State.complete_keeps_latency (s : State) (r : Nat) (tag : Nat) (status : Nat) (result : Nat) : (State.complete s r tag status result).latency = s.latency := (State.complete_only s r tag status result).eq_latency (by decide)
@[simp] theorem State.complete_keeps_engineQueues (s : State) (r : Nat) (tag : Nat) (status : Nat) (result : Nat) : (State.complete s r tag status result).engineQueues = s.engineQueues := (State.complete_only s r tag status result).eq_engineQueues (by decide)
@[simp] theorem State.complete_keeps_marver (s : State) (r : Nat) (tag : Nat) (status : Nat) (result : Nat) : (State.complete s r tag status result).marver = s.marver := (State.complete_only s r tag status result).eq_marver (by decide)
@[simp] theorem State.complete_keeps_pcs (s : State) (r : Nat) (tag : Nat) (status : Nat) (result : Nat) : (State.complete s r tag status result).pcs = s.pcs := (State.complete_only s r tag status result).eq_pcs (by decide)
@[simp] theorem State.complete_keeps_stageRows (s : State) (r : Nat) (tag : Nat) (status : Nat) (result : Nat) : (State.complete s r tag status result).stageRows = s.stageRows := (State.complete_only s r tag status result).eq_stageRows (by decide)
@[simp] theorem State.complete_keeps_windows (s : State) (r : Nat) (tag : Nat) (status : Nat) (result : Nat) : (State.complete s r tag status result).windows = s.windows := (State.complete_only s r tag status result).eq_windows (by decide)
@[simp] theorem State.complete_keeps_mem (s : State) (r : Nat) (tag : Nat) (status : Nat) (result : Nat) : (State.complete s r tag status result).mem = s.mem := (State.complete_only s r tag status result).eq_mem (by decide)
@[simp] theorem State.complete_keeps_placed (s : State) (r : Nat) (tag : Nat) (status : Nat) (result : Nat) : (State.complete s r tag status result).placed = s.placed := (State.complete_only s r tag status result).eq_placed (by decide)
@[simp] theorem State.complete_keeps_integrity (s : State) (r : Nat) (tag : Nat) (status : Nat) (result : Nat) : (State.complete s r tag status result).integrity = s.integrity := (State.complete_only s r tag status result).eq_integrity (by decide)
@[simp] theorem State.complete_keeps_regulator (s : State) (r : Nat) (tag : Nat) (status : Nat) (result : Nat) : (State.complete s r tag status result).regulator = s.regulator := (State.complete_only s r tag status result).eq_regulator (by decide)

@[simp] theorem State.done_keeps_pending (s : State) (e : Sqe) (status : Nat) (result : Nat) : (State.done s e status result).pending = s.pending := (State.done_only s e status result).eq_pending (by decide)
@[simp] theorem State.done_keeps_free (s : State) (e : Sqe) (status : Nat) (result : Nat) : (State.done s e status result).free = s.free := (State.done_only s e status result).eq_free (by decide)
@[simp] theorem State.done_keeps_time (s : State) (e : Sqe) (status : Nat) (result : Nat) : (State.done s e status result).time = s.time := (State.done_only s e status result).eq_time (by decide)
@[simp] theorem State.done_keeps_pilot (s : State) (e : Sqe) (status : Nat) (result : Nat) : (State.done s e status result).pilot = s.pilot := (State.done_only s e status result).eq_pilot (by decide)
@[simp] theorem State.done_keeps_dom (s : State) (e : Sqe) (status : Nat) (result : Nat) : (State.done s e status result).dom = s.dom := (State.done_only s e status result).eq_dom (by decide)
@[simp] theorem State.done_keeps_latches (s : State) (e : Sqe) (status : Nat) (result : Nat) : (State.done s e status result).latches = s.latches := (State.done_only s e status result).eq_latches (by decide)
@[simp] theorem State.done_keeps_log (s : State) (e : Sqe) (status : Nat) (result : Nat) : (State.done s e status result).log = s.log := (State.done_only s e status result).eq_log (by decide)
@[simp] theorem State.done_keeps_logWritten (s : State) (e : Sqe) (status : Nat) (result : Nat) : (State.done s e status result).logWritten = s.logWritten := (State.done_only s e status result).eq_logWritten (by decide)
@[simp] theorem State.done_keeps_resetting (s : State) (e : Sqe) (status : Nat) (result : Nat) : (State.done s e status result).resetting = s.resetting := (State.done_only s e status result).eq_resetting (by decide)
@[simp] theorem State.done_keeps_quiesce (s : State) (e : Sqe) (status : Nat) (result : Nat) : (State.done s e status result).quiesce = s.quiesce := (State.done_only s e status result).eq_quiesce (by decide)
@[simp] theorem State.done_keeps_lines (s : State) (e : Sqe) (status : Nat) (result : Nat) : (State.done s e status result).lines = s.lines := (State.done_only s e status result).eq_lines (by decide)
@[simp] theorem State.done_keeps_pulses (s : State) (e : Sqe) (status : Nat) (result : Nat) : (State.done s e status result).pulses = s.pulses := (State.done_only s e status result).eq_pulses (by decide)
@[simp] theorem State.done_keeps_channels (s : State) (e : Sqe) (status : Nat) (result : Nat) : (State.done s e status result).channels = s.channels := (State.done_only s e status result).eq_channels (by decide)
@[simp] theorem State.done_keeps_fuses (s : State) (e : Sqe) (status : Nat) (result : Nat) : (State.done s e status result).fuses = s.fuses := (State.done_only s e status result).eq_fuses (by decide)
@[simp] theorem State.done_keeps_trust (s : State) (e : Sqe) (status : Nat) (result : Nat) : (State.done s e status result).trust = s.trust := (State.done_only s e status result).eq_trust (by decide)
@[simp] theorem State.done_keeps_sensors (s : State) (e : Sqe) (status : Nat) (result : Nat) : (State.done s e status result).sensors = s.sensors := (State.done_only s e status result).eq_sensors (by decide)
@[simp] theorem State.done_keeps_layers (s : State) (e : Sqe) (status : Nat) (result : Nat) : (State.done s e status result).layers = s.layers := (State.done_only s e status result).eq_layers (by decide)
@[simp] theorem State.done_keeps_thermal (s : State) (e : Sqe) (status : Nat) (result : Nat) : (State.done s e status result).thermal = s.thermal := (State.done_only s e status result).eq_thermal (by decide)
@[simp] theorem State.done_keeps_test (s : State) (e : Sqe) (status : Nat) (result : Nat) : (State.done s e status result).test = s.test := (State.done_only s e status result).eq_test (by decide)
@[simp] theorem State.done_keeps_sideband (s : State) (e : Sqe) (status : Nat) (result : Nat) : (State.done s e status result).sideband = s.sideband := (State.done_only s e status result).eq_sideband (by decide)
@[simp] theorem State.done_keeps_ports (s : State) (e : Sqe) (status : Nat) (result : Nat) : (State.done s e status result).ports = s.ports := (State.done_only s e status result).eq_ports (by decide)
@[simp] theorem State.done_keeps_lanes (s : State) (e : Sqe) (status : Nat) (result : Nat) : (State.done s e status result).lanes = s.lanes := (State.done_only s e status result).eq_lanes (by decide)
@[simp] theorem State.done_keeps_queues (s : State) (e : Sqe) (status : Nat) (result : Nat) : (State.done s e status result).queues = s.queues := (State.done_only s e status result).eq_queues (by decide)
@[simp] theorem State.done_keeps_queueChanges (s : State) (e : Sqe) (status : Nat) (result : Nat) : (State.done s e status result).queueChanges = s.queueChanges := (State.done_only s e status result).eq_queueChanges (by decide)
@[simp] theorem State.done_keeps_snapshots (s : State) (e : Sqe) (status : Nat) (result : Nat) : (State.done s e status result).snapshots = s.snapshots := (State.done_only s e status result).eq_snapshots (by decide)
@[simp] theorem State.done_keeps_snapPending (s : State) (e : Sqe) (status : Nat) (result : Nat) : (State.done s e status result).snapPending = s.snapPending := (State.done_only s e status result).eq_snapPending (by decide)
@[simp] theorem State.done_keeps_tables (s : State) (e : Sqe) (status : Nat) (result : Nat) : (State.done s e status result).tables = s.tables := (State.done_only s e status result).eq_tables (by decide)
@[simp] theorem State.done_keeps_dead (s : State) (e : Sqe) (status : Nat) (result : Nat) : (State.done s e status result).dead = s.dead := (State.done_only s e status result).eq_dead (by decide)
@[simp] theorem State.done_keeps_commits (s : State) (e : Sqe) (status : Nat) (result : Nat) : (State.done s e status result).commits = s.commits := (State.done_only s e status result).eq_commits (by decide)
@[simp] theorem State.done_keeps_commitLog (s : State) (e : Sqe) (status : Nat) (result : Nat) : (State.done s e status result).commitLog = s.commitLog := (State.done_only s e status result).eq_commitLog (by decide)
@[simp] theorem State.done_keeps_recovered (s : State) (e : Sqe) (status : Nat) (result : Nat) : (State.done s e status result).recovered = s.recovered := (State.done_only s e status result).eq_recovered (by decide)
@[simp] theorem State.done_keeps_cancelled (s : State) (e : Sqe) (status : Nat) (result : Nat) : (State.done s e status result).cancelled = s.cancelled := (State.done_only s e status result).eq_cancelled (by decide)
@[simp] theorem State.done_keeps_recoveredCommits (s : State) (e : Sqe) (status : Nat) (result : Nat) : (State.done s e status result).recoveredCommits = s.recoveredCommits := (State.done_only s e status result).eq_recoveredCommits (by decide)
@[simp] theorem State.done_keeps_latency (s : State) (e : Sqe) (status : Nat) (result : Nat) : (State.done s e status result).latency = s.latency := (State.done_only s e status result).eq_latency (by decide)
@[simp] theorem State.done_keeps_engineQueues (s : State) (e : Sqe) (status : Nat) (result : Nat) : (State.done s e status result).engineQueues = s.engineQueues := (State.done_only s e status result).eq_engineQueues (by decide)
@[simp] theorem State.done_keeps_marver (s : State) (e : Sqe) (status : Nat) (result : Nat) : (State.done s e status result).marver = s.marver := (State.done_only s e status result).eq_marver (by decide)
@[simp] theorem State.done_keeps_pcs (s : State) (e : Sqe) (status : Nat) (result : Nat) : (State.done s e status result).pcs = s.pcs := (State.done_only s e status result).eq_pcs (by decide)
@[simp] theorem State.done_keeps_stageRows (s : State) (e : Sqe) (status : Nat) (result : Nat) : (State.done s e status result).stageRows = s.stageRows := (State.done_only s e status result).eq_stageRows (by decide)
@[simp] theorem State.done_keeps_windows (s : State) (e : Sqe) (status : Nat) (result : Nat) : (State.done s e status result).windows = s.windows := (State.done_only s e status result).eq_windows (by decide)
@[simp] theorem State.done_keeps_mem (s : State) (e : Sqe) (status : Nat) (result : Nat) : (State.done s e status result).mem = s.mem := (State.done_only s e status result).eq_mem (by decide)
@[simp] theorem State.done_keeps_placed (s : State) (e : Sqe) (status : Nat) (result : Nat) : (State.done s e status result).placed = s.placed := (State.done_only s e status result).eq_placed (by decide)
@[simp] theorem State.done_keeps_integrity (s : State) (e : Sqe) (status : Nat) (result : Nat) : (State.done s e status result).integrity = s.integrity := (State.done_only s e status result).eq_integrity (by decide)
@[simp] theorem State.done_keeps_regulator (s : State) (e : Sqe) (status : Nat) (result : Nat) : (State.done s e status result).regulator = s.regulator := (State.done_only s e status result).eq_regulator (by decide)

@[simp] theorem State.pulseLine_keeps_pending (s : State) (l : Nat) (t : Tick) : (State.pulseLine s l t).pending = s.pending := (State.pulseLine_only s l t).eq_pending (by decide)
@[simp] theorem State.pulseLine_keeps_out (s : State) (l : Nat) (t : Tick) : (State.pulseLine s l t).out = s.out := (State.pulseLine_only s l t).eq_out (by decide)
@[simp] theorem State.pulseLine_keeps_heldOut (s : State) (l : Nat) (t : Tick) : (State.pulseLine s l t).heldOut = s.heldOut := (State.pulseLine_only s l t).eq_heldOut (by decide)
@[simp] theorem State.pulseLine_keeps_free (s : State) (l : Nat) (t : Tick) : (State.pulseLine s l t).free = s.free := (State.pulseLine_only s l t).eq_free (by decide)
@[simp] theorem State.pulseLine_keeps_time (s : State) (l : Nat) (t : Tick) : (State.pulseLine s l t).time = s.time := (State.pulseLine_only s l t).eq_time (by decide)
@[simp] theorem State.pulseLine_keeps_pilot (s : State) (l : Nat) (t : Tick) : (State.pulseLine s l t).pilot = s.pilot := (State.pulseLine_only s l t).eq_pilot (by decide)
@[simp] theorem State.pulseLine_keeps_dom (s : State) (l : Nat) (t : Tick) : (State.pulseLine s l t).dom = s.dom := (State.pulseLine_only s l t).eq_dom (by decide)
@[simp] theorem State.pulseLine_keeps_regs (s : State) (l : Nat) (t : Tick) : (State.pulseLine s l t).regs = s.regs := (State.pulseLine_only s l t).eq_regs (by decide)
@[simp] theorem State.pulseLine_keeps_latches (s : State) (l : Nat) (t : Tick) : (State.pulseLine s l t).latches = s.latches := (State.pulseLine_only s l t).eq_latches (by decide)
@[simp] theorem State.pulseLine_keeps_pcie (s : State) (l : Nat) (t : Tick) : (State.pulseLine s l t).pcie = s.pcie := (State.pulseLine_only s l t).eq_pcie (by decide)
@[simp] theorem State.pulseLine_keeps_log (s : State) (l : Nat) (t : Tick) : (State.pulseLine s l t).log = s.log := (State.pulseLine_only s l t).eq_log (by decide)
@[simp] theorem State.pulseLine_keeps_logWritten (s : State) (l : Nat) (t : Tick) : (State.pulseLine s l t).logWritten = s.logWritten := (State.pulseLine_only s l t).eq_logWritten (by decide)
@[simp] theorem State.pulseLine_keeps_rings (s : State) (l : Nat) (t : Tick) : (State.pulseLine s l t).rings = s.rings := (State.pulseLine_only s l t).eq_rings (by decide)
@[simp] theorem State.pulseLine_keeps_resetting (s : State) (l : Nat) (t : Tick) : (State.pulseLine s l t).resetting = s.resetting := (State.pulseLine_only s l t).eq_resetting (by decide)
@[simp] theorem State.pulseLine_keeps_quiesce (s : State) (l : Nat) (t : Tick) : (State.pulseLine s l t).quiesce = s.quiesce := (State.pulseLine_only s l t).eq_quiesce (by decide)
@[simp] theorem State.pulseLine_keeps_channels (s : State) (l : Nat) (t : Tick) : (State.pulseLine s l t).channels = s.channels := (State.pulseLine_only s l t).eq_channels (by decide)
@[simp] theorem State.pulseLine_keeps_fuses (s : State) (l : Nat) (t : Tick) : (State.pulseLine s l t).fuses = s.fuses := (State.pulseLine_only s l t).eq_fuses (by decide)
@[simp] theorem State.pulseLine_keeps_trust (s : State) (l : Nat) (t : Tick) : (State.pulseLine s l t).trust = s.trust := (State.pulseLine_only s l t).eq_trust (by decide)
@[simp] theorem State.pulseLine_keeps_sensors (s : State) (l : Nat) (t : Tick) : (State.pulseLine s l t).sensors = s.sensors := (State.pulseLine_only s l t).eq_sensors (by decide)
@[simp] theorem State.pulseLine_keeps_layers (s : State) (l : Nat) (t : Tick) : (State.pulseLine s l t).layers = s.layers := (State.pulseLine_only s l t).eq_layers (by decide)
@[simp] theorem State.pulseLine_keeps_thermal (s : State) (l : Nat) (t : Tick) : (State.pulseLine s l t).thermal = s.thermal := (State.pulseLine_only s l t).eq_thermal (by decide)
@[simp] theorem State.pulseLine_keeps_test (s : State) (l : Nat) (t : Tick) : (State.pulseLine s l t).test = s.test := (State.pulseLine_only s l t).eq_test (by decide)
@[simp] theorem State.pulseLine_keeps_sideband (s : State) (l : Nat) (t : Tick) : (State.pulseLine s l t).sideband = s.sideband := (State.pulseLine_only s l t).eq_sideband (by decide)
@[simp] theorem State.pulseLine_keeps_ports (s : State) (l : Nat) (t : Tick) : (State.pulseLine s l t).ports = s.ports := (State.pulseLine_only s l t).eq_ports (by decide)
@[simp] theorem State.pulseLine_keeps_lanes (s : State) (l : Nat) (t : Tick) : (State.pulseLine s l t).lanes = s.lanes := (State.pulseLine_only s l t).eq_lanes (by decide)
@[simp] theorem State.pulseLine_keeps_queues (s : State) (l : Nat) (t : Tick) : (State.pulseLine s l t).queues = s.queues := (State.pulseLine_only s l t).eq_queues (by decide)
@[simp] theorem State.pulseLine_keeps_queueChanges (s : State) (l : Nat) (t : Tick) : (State.pulseLine s l t).queueChanges = s.queueChanges := (State.pulseLine_only s l t).eq_queueChanges (by decide)
@[simp] theorem State.pulseLine_keeps_snapshots (s : State) (l : Nat) (t : Tick) : (State.pulseLine s l t).snapshots = s.snapshots := (State.pulseLine_only s l t).eq_snapshots (by decide)
@[simp] theorem State.pulseLine_keeps_snapPending (s : State) (l : Nat) (t : Tick) : (State.pulseLine s l t).snapPending = s.snapPending := (State.pulseLine_only s l t).eq_snapPending (by decide)
@[simp] theorem State.pulseLine_keeps_tables (s : State) (l : Nat) (t : Tick) : (State.pulseLine s l t).tables = s.tables := (State.pulseLine_only s l t).eq_tables (by decide)
@[simp] theorem State.pulseLine_keeps_dead (s : State) (l : Nat) (t : Tick) : (State.pulseLine s l t).dead = s.dead := (State.pulseLine_only s l t).eq_dead (by decide)
@[simp] theorem State.pulseLine_keeps_commits (s : State) (l : Nat) (t : Tick) : (State.pulseLine s l t).commits = s.commits := (State.pulseLine_only s l t).eq_commits (by decide)
@[simp] theorem State.pulseLine_keeps_commitLog (s : State) (l : Nat) (t : Tick) : (State.pulseLine s l t).commitLog = s.commitLog := (State.pulseLine_only s l t).eq_commitLog (by decide)
@[simp] theorem State.pulseLine_keeps_recovered (s : State) (l : Nat) (t : Tick) : (State.pulseLine s l t).recovered = s.recovered := (State.pulseLine_only s l t).eq_recovered (by decide)
@[simp] theorem State.pulseLine_keeps_cancelled (s : State) (l : Nat) (t : Tick) : (State.pulseLine s l t).cancelled = s.cancelled := (State.pulseLine_only s l t).eq_cancelled (by decide)
@[simp] theorem State.pulseLine_keeps_recoveredCommits (s : State) (l : Nat) (t : Tick) : (State.pulseLine s l t).recoveredCommits = s.recoveredCommits := (State.pulseLine_only s l t).eq_recoveredCommits (by decide)
@[simp] theorem State.pulseLine_keeps_latency (s : State) (l : Nat) (t : Tick) : (State.pulseLine s l t).latency = s.latency := (State.pulseLine_only s l t).eq_latency (by decide)
@[simp] theorem State.pulseLine_keeps_engineQueues (s : State) (l : Nat) (t : Tick) : (State.pulseLine s l t).engineQueues = s.engineQueues := (State.pulseLine_only s l t).eq_engineQueues (by decide)
@[simp] theorem State.pulseLine_keeps_marver (s : State) (l : Nat) (t : Tick) : (State.pulseLine s l t).marver = s.marver := (State.pulseLine_only s l t).eq_marver (by decide)
@[simp] theorem State.pulseLine_keeps_pcs (s : State) (l : Nat) (t : Tick) : (State.pulseLine s l t).pcs = s.pcs := (State.pulseLine_only s l t).eq_pcs (by decide)
@[simp] theorem State.pulseLine_keeps_stageRows (s : State) (l : Nat) (t : Tick) : (State.pulseLine s l t).stageRows = s.stageRows := (State.pulseLine_only s l t).eq_stageRows (by decide)
@[simp] theorem State.pulseLine_keeps_windows (s : State) (l : Nat) (t : Tick) : (State.pulseLine s l t).windows = s.windows := (State.pulseLine_only s l t).eq_windows (by decide)
@[simp] theorem State.pulseLine_keeps_mem (s : State) (l : Nat) (t : Tick) : (State.pulseLine s l t).mem = s.mem := (State.pulseLine_only s l t).eq_mem (by decide)
@[simp] theorem State.pulseLine_keeps_placed (s : State) (l : Nat) (t : Tick) : (State.pulseLine s l t).placed = s.placed := (State.pulseLine_only s l t).eq_placed (by decide)
@[simp] theorem State.pulseLine_keeps_integrity (s : State) (l : Nat) (t : Tick) : (State.pulseLine s l t).integrity = s.integrity := (State.pulseLine_only s l t).eq_integrity (by decide)
@[simp] theorem State.pulseLine_keeps_regulator (s : State) (l : Nat) (t : Tick) : (State.pulseLine s l t).regulator = s.regulator := (State.pulseLine_only s l t).eq_regulator (by decide)

@[simp] theorem State.pulseSource_keeps_pending (s : State) (code : Nat) : (State.pulseSource s code).pending = s.pending := (State.pulseSource_only s code).eq_pending (by decide)
@[simp] theorem State.pulseSource_keeps_out (s : State) (code : Nat) : (State.pulseSource s code).out = s.out := (State.pulseSource_only s code).eq_out (by decide)
@[simp] theorem State.pulseSource_keeps_heldOut (s : State) (code : Nat) : (State.pulseSource s code).heldOut = s.heldOut := (State.pulseSource_only s code).eq_heldOut (by decide)
@[simp] theorem State.pulseSource_keeps_free (s : State) (code : Nat) : (State.pulseSource s code).free = s.free := (State.pulseSource_only s code).eq_free (by decide)
@[simp] theorem State.pulseSource_keeps_time (s : State) (code : Nat) : (State.pulseSource s code).time = s.time := (State.pulseSource_only s code).eq_time (by decide)
@[simp] theorem State.pulseSource_keeps_pilot (s : State) (code : Nat) : (State.pulseSource s code).pilot = s.pilot := (State.pulseSource_only s code).eq_pilot (by decide)
@[simp] theorem State.pulseSource_keeps_dom (s : State) (code : Nat) : (State.pulseSource s code).dom = s.dom := (State.pulseSource_only s code).eq_dom (by decide)
@[simp] theorem State.pulseSource_keeps_regs (s : State) (code : Nat) : (State.pulseSource s code).regs = s.regs := (State.pulseSource_only s code).eq_regs (by decide)
@[simp] theorem State.pulseSource_keeps_latches (s : State) (code : Nat) : (State.pulseSource s code).latches = s.latches := (State.pulseSource_only s code).eq_latches (by decide)
@[simp] theorem State.pulseSource_keeps_pcie (s : State) (code : Nat) : (State.pulseSource s code).pcie = s.pcie := (State.pulseSource_only s code).eq_pcie (by decide)
@[simp] theorem State.pulseSource_keeps_log (s : State) (code : Nat) : (State.pulseSource s code).log = s.log := (State.pulseSource_only s code).eq_log (by decide)
@[simp] theorem State.pulseSource_keeps_logWritten (s : State) (code : Nat) : (State.pulseSource s code).logWritten = s.logWritten := (State.pulseSource_only s code).eq_logWritten (by decide)
@[simp] theorem State.pulseSource_keeps_rings (s : State) (code : Nat) : (State.pulseSource s code).rings = s.rings := (State.pulseSource_only s code).eq_rings (by decide)
@[simp] theorem State.pulseSource_keeps_resetting (s : State) (code : Nat) : (State.pulseSource s code).resetting = s.resetting := (State.pulseSource_only s code).eq_resetting (by decide)
@[simp] theorem State.pulseSource_keeps_quiesce (s : State) (code : Nat) : (State.pulseSource s code).quiesce = s.quiesce := (State.pulseSource_only s code).eq_quiesce (by decide)
@[simp] theorem State.pulseSource_keeps_channels (s : State) (code : Nat) : (State.pulseSource s code).channels = s.channels := (State.pulseSource_only s code).eq_channels (by decide)
@[simp] theorem State.pulseSource_keeps_fuses (s : State) (code : Nat) : (State.pulseSource s code).fuses = s.fuses := (State.pulseSource_only s code).eq_fuses (by decide)
@[simp] theorem State.pulseSource_keeps_trust (s : State) (code : Nat) : (State.pulseSource s code).trust = s.trust := (State.pulseSource_only s code).eq_trust (by decide)
@[simp] theorem State.pulseSource_keeps_sensors (s : State) (code : Nat) : (State.pulseSource s code).sensors = s.sensors := (State.pulseSource_only s code).eq_sensors (by decide)
@[simp] theorem State.pulseSource_keeps_layers (s : State) (code : Nat) : (State.pulseSource s code).layers = s.layers := (State.pulseSource_only s code).eq_layers (by decide)
@[simp] theorem State.pulseSource_keeps_thermal (s : State) (code : Nat) : (State.pulseSource s code).thermal = s.thermal := (State.pulseSource_only s code).eq_thermal (by decide)
@[simp] theorem State.pulseSource_keeps_test (s : State) (code : Nat) : (State.pulseSource s code).test = s.test := (State.pulseSource_only s code).eq_test (by decide)
@[simp] theorem State.pulseSource_keeps_sideband (s : State) (code : Nat) : (State.pulseSource s code).sideband = s.sideband := (State.pulseSource_only s code).eq_sideband (by decide)
@[simp] theorem State.pulseSource_keeps_ports (s : State) (code : Nat) : (State.pulseSource s code).ports = s.ports := (State.pulseSource_only s code).eq_ports (by decide)
@[simp] theorem State.pulseSource_keeps_lanes (s : State) (code : Nat) : (State.pulseSource s code).lanes = s.lanes := (State.pulseSource_only s code).eq_lanes (by decide)
@[simp] theorem State.pulseSource_keeps_queues (s : State) (code : Nat) : (State.pulseSource s code).queues = s.queues := (State.pulseSource_only s code).eq_queues (by decide)
@[simp] theorem State.pulseSource_keeps_queueChanges (s : State) (code : Nat) : (State.pulseSource s code).queueChanges = s.queueChanges := (State.pulseSource_only s code).eq_queueChanges (by decide)
@[simp] theorem State.pulseSource_keeps_snapshots (s : State) (code : Nat) : (State.pulseSource s code).snapshots = s.snapshots := (State.pulseSource_only s code).eq_snapshots (by decide)
@[simp] theorem State.pulseSource_keeps_snapPending (s : State) (code : Nat) : (State.pulseSource s code).snapPending = s.snapPending := (State.pulseSource_only s code).eq_snapPending (by decide)
@[simp] theorem State.pulseSource_keeps_tables (s : State) (code : Nat) : (State.pulseSource s code).tables = s.tables := (State.pulseSource_only s code).eq_tables (by decide)
@[simp] theorem State.pulseSource_keeps_dead (s : State) (code : Nat) : (State.pulseSource s code).dead = s.dead := (State.pulseSource_only s code).eq_dead (by decide)
@[simp] theorem State.pulseSource_keeps_commits (s : State) (code : Nat) : (State.pulseSource s code).commits = s.commits := (State.pulseSource_only s code).eq_commits (by decide)
@[simp] theorem State.pulseSource_keeps_commitLog (s : State) (code : Nat) : (State.pulseSource s code).commitLog = s.commitLog := (State.pulseSource_only s code).eq_commitLog (by decide)
@[simp] theorem State.pulseSource_keeps_recovered (s : State) (code : Nat) : (State.pulseSource s code).recovered = s.recovered := (State.pulseSource_only s code).eq_recovered (by decide)
@[simp] theorem State.pulseSource_keeps_cancelled (s : State) (code : Nat) : (State.pulseSource s code).cancelled = s.cancelled := (State.pulseSource_only s code).eq_cancelled (by decide)
@[simp] theorem State.pulseSource_keeps_recoveredCommits (s : State) (code : Nat) : (State.pulseSource s code).recoveredCommits = s.recoveredCommits := (State.pulseSource_only s code).eq_recoveredCommits (by decide)
@[simp] theorem State.pulseSource_keeps_latency (s : State) (code : Nat) : (State.pulseSource s code).latency = s.latency := (State.pulseSource_only s code).eq_latency (by decide)
@[simp] theorem State.pulseSource_keeps_engineQueues (s : State) (code : Nat) : (State.pulseSource s code).engineQueues = s.engineQueues := (State.pulseSource_only s code).eq_engineQueues (by decide)
@[simp] theorem State.pulseSource_keeps_marver (s : State) (code : Nat) : (State.pulseSource s code).marver = s.marver := (State.pulseSource_only s code).eq_marver (by decide)
@[simp] theorem State.pulseSource_keeps_pcs (s : State) (code : Nat) : (State.pulseSource s code).pcs = s.pcs := (State.pulseSource_only s code).eq_pcs (by decide)
@[simp] theorem State.pulseSource_keeps_stageRows (s : State) (code : Nat) : (State.pulseSource s code).stageRows = s.stageRows := (State.pulseSource_only s code).eq_stageRows (by decide)
@[simp] theorem State.pulseSource_keeps_windows (s : State) (code : Nat) : (State.pulseSource s code).windows = s.windows := (State.pulseSource_only s code).eq_windows (by decide)
@[simp] theorem State.pulseSource_keeps_mem (s : State) (code : Nat) : (State.pulseSource s code).mem = s.mem := (State.pulseSource_only s code).eq_mem (by decide)
@[simp] theorem State.pulseSource_keeps_placed (s : State) (code : Nat) : (State.pulseSource s code).placed = s.placed := (State.pulseSource_only s code).eq_placed (by decide)
@[simp] theorem State.pulseSource_keeps_integrity (s : State) (code : Nat) : (State.pulseSource s code).integrity = s.integrity := (State.pulseSource_only s code).eq_integrity (by decide)
@[simp] theorem State.pulseSource_keeps_regulator (s : State) (code : Nat) : (State.pulseSource s code).regulator = s.regulator := (State.pulseSource_only s code).eq_regulator (by decide)

@[simp] theorem State.answer_keeps_pending (s : State) (r : Req) (status : Nat) (arg : Nat) (payload : List Byte) (packets : optParam Nat 0) (measured : optParam (Option Nat) none) : (State.answer s r status arg payload packets measured).pending = s.pending := (State.answer_only s r status arg payload packets measured).eq_pending (by decide)
@[simp] theorem State.answer_keeps_out (s : State) (r : Req) (status : Nat) (arg : Nat) (payload : List Byte) (packets : optParam Nat 0) (measured : optParam (Option Nat) none) : (State.answer s r status arg payload packets measured).out = s.out := (State.answer_only s r status arg payload packets measured).eq_out (by decide)
@[simp] theorem State.answer_keeps_heldOut (s : State) (r : Req) (status : Nat) (arg : Nat) (payload : List Byte) (packets : optParam Nat 0) (measured : optParam (Option Nat) none) : (State.answer s r status arg payload packets measured).heldOut = s.heldOut := (State.answer_only s r status arg payload packets measured).eq_heldOut (by decide)
@[simp] theorem State.answer_keeps_free (s : State) (r : Req) (status : Nat) (arg : Nat) (payload : List Byte) (packets : optParam Nat 0) (measured : optParam (Option Nat) none) : (State.answer s r status arg payload packets measured).free = s.free := (State.answer_only s r status arg payload packets measured).eq_free (by decide)
@[simp] theorem State.answer_keeps_time (s : State) (r : Req) (status : Nat) (arg : Nat) (payload : List Byte) (packets : optParam Nat 0) (measured : optParam (Option Nat) none) : (State.answer s r status arg payload packets measured).time = s.time := (State.answer_only s r status arg payload packets measured).eq_time (by decide)
@[simp] theorem State.answer_keeps_pilot (s : State) (r : Req) (status : Nat) (arg : Nat) (payload : List Byte) (packets : optParam Nat 0) (measured : optParam (Option Nat) none) : (State.answer s r status arg payload packets measured).pilot = s.pilot := (State.answer_only s r status arg payload packets measured).eq_pilot (by decide)
@[simp] theorem State.answer_keeps_dom (s : State) (r : Req) (status : Nat) (arg : Nat) (payload : List Byte) (packets : optParam Nat 0) (measured : optParam (Option Nat) none) : (State.answer s r status arg payload packets measured).dom = s.dom := (State.answer_only s r status arg payload packets measured).eq_dom (by decide)
@[simp] theorem State.answer_keeps_latches (s : State) (r : Req) (status : Nat) (arg : Nat) (payload : List Byte) (packets : optParam Nat 0) (measured : optParam (Option Nat) none) : (State.answer s r status arg payload packets measured).latches = s.latches := (State.answer_only s r status arg payload packets measured).eq_latches (by decide)
@[simp] theorem State.answer_keeps_pcie (s : State) (r : Req) (status : Nat) (arg : Nat) (payload : List Byte) (packets : optParam Nat 0) (measured : optParam (Option Nat) none) : (State.answer s r status arg payload packets measured).pcie = s.pcie := (State.answer_only s r status arg payload packets measured).eq_pcie (by decide)
@[simp] theorem State.answer_keeps_log (s : State) (r : Req) (status : Nat) (arg : Nat) (payload : List Byte) (packets : optParam Nat 0) (measured : optParam (Option Nat) none) : (State.answer s r status arg payload packets measured).log = s.log := (State.answer_only s r status arg payload packets measured).eq_log (by decide)
@[simp] theorem State.answer_keeps_logWritten (s : State) (r : Req) (status : Nat) (arg : Nat) (payload : List Byte) (packets : optParam Nat 0) (measured : optParam (Option Nat) none) : (State.answer s r status arg payload packets measured).logWritten = s.logWritten := (State.answer_only s r status arg payload packets measured).eq_logWritten (by decide)
@[simp] theorem State.answer_keeps_rings (s : State) (r : Req) (status : Nat) (arg : Nat) (payload : List Byte) (packets : optParam Nat 0) (measured : optParam (Option Nat) none) : (State.answer s r status arg payload packets measured).rings = s.rings := (State.answer_only s r status arg payload packets measured).eq_rings (by decide)
@[simp] theorem State.answer_keeps_resetting (s : State) (r : Req) (status : Nat) (arg : Nat) (payload : List Byte) (packets : optParam Nat 0) (measured : optParam (Option Nat) none) : (State.answer s r status arg payload packets measured).resetting = s.resetting := (State.answer_only s r status arg payload packets measured).eq_resetting (by decide)
@[simp] theorem State.answer_keeps_quiesce (s : State) (r : Req) (status : Nat) (arg : Nat) (payload : List Byte) (packets : optParam Nat 0) (measured : optParam (Option Nat) none) : (State.answer s r status arg payload packets measured).quiesce = s.quiesce := (State.answer_only s r status arg payload packets measured).eq_quiesce (by decide)
@[simp] theorem State.answer_keeps_lines (s : State) (r : Req) (status : Nat) (arg : Nat) (payload : List Byte) (packets : optParam Nat 0) (measured : optParam (Option Nat) none) : (State.answer s r status arg payload packets measured).lines = s.lines := (State.answer_only s r status arg payload packets measured).eq_lines (by decide)
@[simp] theorem State.answer_keeps_pulses (s : State) (r : Req) (status : Nat) (arg : Nat) (payload : List Byte) (packets : optParam Nat 0) (measured : optParam (Option Nat) none) : (State.answer s r status arg payload packets measured).pulses = s.pulses := (State.answer_only s r status arg payload packets measured).eq_pulses (by decide)
@[simp] theorem State.answer_keeps_channels (s : State) (r : Req) (status : Nat) (arg : Nat) (payload : List Byte) (packets : optParam Nat 0) (measured : optParam (Option Nat) none) : (State.answer s r status arg payload packets measured).channels = s.channels := (State.answer_only s r status arg payload packets measured).eq_channels (by decide)
@[simp] theorem State.answer_keeps_fuses (s : State) (r : Req) (status : Nat) (arg : Nat) (payload : List Byte) (packets : optParam Nat 0) (measured : optParam (Option Nat) none) : (State.answer s r status arg payload packets measured).fuses = s.fuses := (State.answer_only s r status arg payload packets measured).eq_fuses (by decide)
@[simp] theorem State.answer_keeps_trust (s : State) (r : Req) (status : Nat) (arg : Nat) (payload : List Byte) (packets : optParam Nat 0) (measured : optParam (Option Nat) none) : (State.answer s r status arg payload packets measured).trust = s.trust := (State.answer_only s r status arg payload packets measured).eq_trust (by decide)
@[simp] theorem State.answer_keeps_sensors (s : State) (r : Req) (status : Nat) (arg : Nat) (payload : List Byte) (packets : optParam Nat 0) (measured : optParam (Option Nat) none) : (State.answer s r status arg payload packets measured).sensors = s.sensors := (State.answer_only s r status arg payload packets measured).eq_sensors (by decide)
@[simp] theorem State.answer_keeps_layers (s : State) (r : Req) (status : Nat) (arg : Nat) (payload : List Byte) (packets : optParam Nat 0) (measured : optParam (Option Nat) none) : (State.answer s r status arg payload packets measured).layers = s.layers := (State.answer_only s r status arg payload packets measured).eq_layers (by decide)
@[simp] theorem State.answer_keeps_thermal (s : State) (r : Req) (status : Nat) (arg : Nat) (payload : List Byte) (packets : optParam Nat 0) (measured : optParam (Option Nat) none) : (State.answer s r status arg payload packets measured).thermal = s.thermal := (State.answer_only s r status arg payload packets measured).eq_thermal (by decide)
@[simp] theorem State.answer_keeps_test (s : State) (r : Req) (status : Nat) (arg : Nat) (payload : List Byte) (packets : optParam Nat 0) (measured : optParam (Option Nat) none) : (State.answer s r status arg payload packets measured).test = s.test := (State.answer_only s r status arg payload packets measured).eq_test (by decide)
@[simp] theorem State.answer_keeps_sideband (s : State) (r : Req) (status : Nat) (arg : Nat) (payload : List Byte) (packets : optParam Nat 0) (measured : optParam (Option Nat) none) : (State.answer s r status arg payload packets measured).sideband = s.sideband := (State.answer_only s r status arg payload packets measured).eq_sideband (by decide)
@[simp] theorem State.answer_keeps_lanes (s : State) (r : Req) (status : Nat) (arg : Nat) (payload : List Byte) (packets : optParam Nat 0) (measured : optParam (Option Nat) none) : (State.answer s r status arg payload packets measured).lanes = s.lanes := (State.answer_only s r status arg payload packets measured).eq_lanes (by decide)
@[simp] theorem State.answer_keeps_queues (s : State) (r : Req) (status : Nat) (arg : Nat) (payload : List Byte) (packets : optParam Nat 0) (measured : optParam (Option Nat) none) : (State.answer s r status arg payload packets measured).queues = s.queues := (State.answer_only s r status arg payload packets measured).eq_queues (by decide)
@[simp] theorem State.answer_keeps_queueChanges (s : State) (r : Req) (status : Nat) (arg : Nat) (payload : List Byte) (packets : optParam Nat 0) (measured : optParam (Option Nat) none) : (State.answer s r status arg payload packets measured).queueChanges = s.queueChanges := (State.answer_only s r status arg payload packets measured).eq_queueChanges (by decide)
@[simp] theorem State.answer_keeps_snapshots (s : State) (r : Req) (status : Nat) (arg : Nat) (payload : List Byte) (packets : optParam Nat 0) (measured : optParam (Option Nat) none) : (State.answer s r status arg payload packets measured).snapshots = s.snapshots := (State.answer_only s r status arg payload packets measured).eq_snapshots (by decide)
@[simp] theorem State.answer_keeps_snapPending (s : State) (r : Req) (status : Nat) (arg : Nat) (payload : List Byte) (packets : optParam Nat 0) (measured : optParam (Option Nat) none) : (State.answer s r status arg payload packets measured).snapPending = s.snapPending := (State.answer_only s r status arg payload packets measured).eq_snapPending (by decide)
@[simp] theorem State.answer_keeps_tables (s : State) (r : Req) (status : Nat) (arg : Nat) (payload : List Byte) (packets : optParam Nat 0) (measured : optParam (Option Nat) none) : (State.answer s r status arg payload packets measured).tables = s.tables := (State.answer_only s r status arg payload packets measured).eq_tables (by decide)
@[simp] theorem State.answer_keeps_dead (s : State) (r : Req) (status : Nat) (arg : Nat) (payload : List Byte) (packets : optParam Nat 0) (measured : optParam (Option Nat) none) : (State.answer s r status arg payload packets measured).dead = s.dead := (State.answer_only s r status arg payload packets measured).eq_dead (by decide)
@[simp] theorem State.answer_keeps_commits (s : State) (r : Req) (status : Nat) (arg : Nat) (payload : List Byte) (packets : optParam Nat 0) (measured : optParam (Option Nat) none) : (State.answer s r status arg payload packets measured).commits = s.commits := (State.answer_only s r status arg payload packets measured).eq_commits (by decide)
@[simp] theorem State.answer_keeps_commitLog (s : State) (r : Req) (status : Nat) (arg : Nat) (payload : List Byte) (packets : optParam Nat 0) (measured : optParam (Option Nat) none) : (State.answer s r status arg payload packets measured).commitLog = s.commitLog := (State.answer_only s r status arg payload packets measured).eq_commitLog (by decide)
@[simp] theorem State.answer_keeps_recovered (s : State) (r : Req) (status : Nat) (arg : Nat) (payload : List Byte) (packets : optParam Nat 0) (measured : optParam (Option Nat) none) : (State.answer s r status arg payload packets measured).recovered = s.recovered := (State.answer_only s r status arg payload packets measured).eq_recovered (by decide)
@[simp] theorem State.answer_keeps_cancelled (s : State) (r : Req) (status : Nat) (arg : Nat) (payload : List Byte) (packets : optParam Nat 0) (measured : optParam (Option Nat) none) : (State.answer s r status arg payload packets measured).cancelled = s.cancelled := (State.answer_only s r status arg payload packets measured).eq_cancelled (by decide)
@[simp] theorem State.answer_keeps_recoveredCommits (s : State) (r : Req) (status : Nat) (arg : Nat) (payload : List Byte) (packets : optParam Nat 0) (measured : optParam (Option Nat) none) : (State.answer s r status arg payload packets measured).recoveredCommits = s.recoveredCommits := (State.answer_only s r status arg payload packets measured).eq_recoveredCommits (by decide)
@[simp] theorem State.answer_keeps_latency (s : State) (r : Req) (status : Nat) (arg : Nat) (payload : List Byte) (packets : optParam Nat 0) (measured : optParam (Option Nat) none) : (State.answer s r status arg payload packets measured).latency = s.latency := (State.answer_only s r status arg payload packets measured).eq_latency (by decide)
@[simp] theorem State.answer_keeps_engineQueues (s : State) (r : Req) (status : Nat) (arg : Nat) (payload : List Byte) (packets : optParam Nat 0) (measured : optParam (Option Nat) none) : (State.answer s r status arg payload packets measured).engineQueues = s.engineQueues := (State.answer_only s r status arg payload packets measured).eq_engineQueues (by decide)
@[simp] theorem State.answer_keeps_marver (s : State) (r : Req) (status : Nat) (arg : Nat) (payload : List Byte) (packets : optParam Nat 0) (measured : optParam (Option Nat) none) : (State.answer s r status arg payload packets measured).marver = s.marver := (State.answer_only s r status arg payload packets measured).eq_marver (by decide)
@[simp] theorem State.answer_keeps_pcs (s : State) (r : Req) (status : Nat) (arg : Nat) (payload : List Byte) (packets : optParam Nat 0) (measured : optParam (Option Nat) none) : (State.answer s r status arg payload packets measured).pcs = s.pcs := (State.answer_only s r status arg payload packets measured).eq_pcs (by decide)
@[simp] theorem State.answer_keeps_stageRows (s : State) (r : Req) (status : Nat) (arg : Nat) (payload : List Byte) (packets : optParam Nat 0) (measured : optParam (Option Nat) none) : (State.answer s r status arg payload packets measured).stageRows = s.stageRows := (State.answer_only s r status arg payload packets measured).eq_stageRows (by decide)
@[simp] theorem State.answer_keeps_windows (s : State) (r : Req) (status : Nat) (arg : Nat) (payload : List Byte) (packets : optParam Nat 0) (measured : optParam (Option Nat) none) : (State.answer s r status arg payload packets measured).windows = s.windows := (State.answer_only s r status arg payload packets measured).eq_windows (by decide)
@[simp] theorem State.answer_keeps_mem (s : State) (r : Req) (status : Nat) (arg : Nat) (payload : List Byte) (packets : optParam Nat 0) (measured : optParam (Option Nat) none) : (State.answer s r status arg payload packets measured).mem = s.mem := (State.answer_only s r status arg payload packets measured).eq_mem (by decide)
@[simp] theorem State.answer_keeps_placed (s : State) (r : Req) (status : Nat) (arg : Nat) (payload : List Byte) (packets : optParam Nat 0) (measured : optParam (Option Nat) none) : (State.answer s r status arg payload packets measured).placed = s.placed := (State.answer_only s r status arg payload packets measured).eq_placed (by decide)
@[simp] theorem State.answer_keeps_integrity (s : State) (r : Req) (status : Nat) (arg : Nat) (payload : List Byte) (packets : optParam Nat 0) (measured : optParam (Option Nat) none) : (State.answer s r status arg payload packets measured).integrity = s.integrity := (State.answer_only s r status arg payload packets measured).eq_integrity (by decide)
@[simp] theorem State.answer_keeps_regulator (s : State) (r : Req) (status : Nat) (arg : Nat) (payload : List Byte) (packets : optParam Nat 0) (measured : optParam (Option Nat) none) : (State.answer s r status arg payload packets measured).regulator = s.regulator := (State.answer_only s r status arg payload packets measured).eq_regulator (by decide)

@[simp] theorem State.bump_keeps_pending (s : State) (k : Fld) (w : Nat) : (State.bump s k w).pending = s.pending := (State.bump_only s k w).eq_pending (by decide)
@[simp] theorem State.bump_keeps_out (s : State) (k : Fld) (w : Nat) : (State.bump s k w).out = s.out := (State.bump_only s k w).eq_out (by decide)
@[simp] theorem State.bump_keeps_heldOut (s : State) (k : Fld) (w : Nat) : (State.bump s k w).heldOut = s.heldOut := (State.bump_only s k w).eq_heldOut (by decide)
@[simp] theorem State.bump_keeps_free (s : State) (k : Fld) (w : Nat) : (State.bump s k w).free = s.free := (State.bump_only s k w).eq_free (by decide)
@[simp] theorem State.bump_keeps_time (s : State) (k : Fld) (w : Nat) : (State.bump s k w).time = s.time := (State.bump_only s k w).eq_time (by decide)
@[simp] theorem State.bump_keeps_pilot (s : State) (k : Fld) (w : Nat) : (State.bump s k w).pilot = s.pilot := (State.bump_only s k w).eq_pilot (by decide)
@[simp] theorem State.bump_keeps_dom (s : State) (k : Fld) (w : Nat) : (State.bump s k w).dom = s.dom := (State.bump_only s k w).eq_dom (by decide)
@[simp] theorem State.bump_keeps_latches (s : State) (k : Fld) (w : Nat) : (State.bump s k w).latches = s.latches := (State.bump_only s k w).eq_latches (by decide)
@[simp] theorem State.bump_keeps_pcie (s : State) (k : Fld) (w : Nat) : (State.bump s k w).pcie = s.pcie := (State.bump_only s k w).eq_pcie (by decide)
@[simp] theorem State.bump_keeps_log (s : State) (k : Fld) (w : Nat) : (State.bump s k w).log = s.log := (State.bump_only s k w).eq_log (by decide)
@[simp] theorem State.bump_keeps_logWritten (s : State) (k : Fld) (w : Nat) : (State.bump s k w).logWritten = s.logWritten := (State.bump_only s k w).eq_logWritten (by decide)
@[simp] theorem State.bump_keeps_rings (s : State) (k : Fld) (w : Nat) : (State.bump s k w).rings = s.rings := (State.bump_only s k w).eq_rings (by decide)
@[simp] theorem State.bump_keeps_resetting (s : State) (k : Fld) (w : Nat) : (State.bump s k w).resetting = s.resetting := (State.bump_only s k w).eq_resetting (by decide)
@[simp] theorem State.bump_keeps_quiesce (s : State) (k : Fld) (w : Nat) : (State.bump s k w).quiesce = s.quiesce := (State.bump_only s k w).eq_quiesce (by decide)
@[simp] theorem State.bump_keeps_lines (s : State) (k : Fld) (w : Nat) : (State.bump s k w).lines = s.lines := (State.bump_only s k w).eq_lines (by decide)
@[simp] theorem State.bump_keeps_pulses (s : State) (k : Fld) (w : Nat) : (State.bump s k w).pulses = s.pulses := (State.bump_only s k w).eq_pulses (by decide)
@[simp] theorem State.bump_keeps_channels (s : State) (k : Fld) (w : Nat) : (State.bump s k w).channels = s.channels := (State.bump_only s k w).eq_channels (by decide)
@[simp] theorem State.bump_keeps_fuses (s : State) (k : Fld) (w : Nat) : (State.bump s k w).fuses = s.fuses := (State.bump_only s k w).eq_fuses (by decide)
@[simp] theorem State.bump_keeps_trust (s : State) (k : Fld) (w : Nat) : (State.bump s k w).trust = s.trust := (State.bump_only s k w).eq_trust (by decide)
@[simp] theorem State.bump_keeps_sensors (s : State) (k : Fld) (w : Nat) : (State.bump s k w).sensors = s.sensors := (State.bump_only s k w).eq_sensors (by decide)
@[simp] theorem State.bump_keeps_layers (s : State) (k : Fld) (w : Nat) : (State.bump s k w).layers = s.layers := (State.bump_only s k w).eq_layers (by decide)
@[simp] theorem State.bump_keeps_thermal (s : State) (k : Fld) (w : Nat) : (State.bump s k w).thermal = s.thermal := (State.bump_only s k w).eq_thermal (by decide)
@[simp] theorem State.bump_keeps_test (s : State) (k : Fld) (w : Nat) : (State.bump s k w).test = s.test := (State.bump_only s k w).eq_test (by decide)
@[simp] theorem State.bump_keeps_sideband (s : State) (k : Fld) (w : Nat) : (State.bump s k w).sideband = s.sideband := (State.bump_only s k w).eq_sideband (by decide)
@[simp] theorem State.bump_keeps_ports (s : State) (k : Fld) (w : Nat) : (State.bump s k w).ports = s.ports := (State.bump_only s k w).eq_ports (by decide)
@[simp] theorem State.bump_keeps_lanes (s : State) (k : Fld) (w : Nat) : (State.bump s k w).lanes = s.lanes := (State.bump_only s k w).eq_lanes (by decide)
@[simp] theorem State.bump_keeps_queues (s : State) (k : Fld) (w : Nat) : (State.bump s k w).queues = s.queues := (State.bump_only s k w).eq_queues (by decide)
@[simp] theorem State.bump_keeps_queueChanges (s : State) (k : Fld) (w : Nat) : (State.bump s k w).queueChanges = s.queueChanges := (State.bump_only s k w).eq_queueChanges (by decide)
@[simp] theorem State.bump_keeps_snapshots (s : State) (k : Fld) (w : Nat) : (State.bump s k w).snapshots = s.snapshots := (State.bump_only s k w).eq_snapshots (by decide)
@[simp] theorem State.bump_keeps_snapPending (s : State) (k : Fld) (w : Nat) : (State.bump s k w).snapPending = s.snapPending := (State.bump_only s k w).eq_snapPending (by decide)
@[simp] theorem State.bump_keeps_tables (s : State) (k : Fld) (w : Nat) : (State.bump s k w).tables = s.tables := (State.bump_only s k w).eq_tables (by decide)
@[simp] theorem State.bump_keeps_dead (s : State) (k : Fld) (w : Nat) : (State.bump s k w).dead = s.dead := (State.bump_only s k w).eq_dead (by decide)
@[simp] theorem State.bump_keeps_commits (s : State) (k : Fld) (w : Nat) : (State.bump s k w).commits = s.commits := (State.bump_only s k w).eq_commits (by decide)
@[simp] theorem State.bump_keeps_commitLog (s : State) (k : Fld) (w : Nat) : (State.bump s k w).commitLog = s.commitLog := (State.bump_only s k w).eq_commitLog (by decide)
@[simp] theorem State.bump_keeps_recovered (s : State) (k : Fld) (w : Nat) : (State.bump s k w).recovered = s.recovered := (State.bump_only s k w).eq_recovered (by decide)
@[simp] theorem State.bump_keeps_cancelled (s : State) (k : Fld) (w : Nat) : (State.bump s k w).cancelled = s.cancelled := (State.bump_only s k w).eq_cancelled (by decide)
@[simp] theorem State.bump_keeps_recoveredCommits (s : State) (k : Fld) (w : Nat) : (State.bump s k w).recoveredCommits = s.recoveredCommits := (State.bump_only s k w).eq_recoveredCommits (by decide)
@[simp] theorem State.bump_keeps_latency (s : State) (k : Fld) (w : Nat) : (State.bump s k w).latency = s.latency := (State.bump_only s k w).eq_latency (by decide)
@[simp] theorem State.bump_keeps_engineQueues (s : State) (k : Fld) (w : Nat) : (State.bump s k w).engineQueues = s.engineQueues := (State.bump_only s k w).eq_engineQueues (by decide)
@[simp] theorem State.bump_keeps_marver (s : State) (k : Fld) (w : Nat) : (State.bump s k w).marver = s.marver := (State.bump_only s k w).eq_marver (by decide)
@[simp] theorem State.bump_keeps_pcs (s : State) (k : Fld) (w : Nat) : (State.bump s k w).pcs = s.pcs := (State.bump_only s k w).eq_pcs (by decide)
@[simp] theorem State.bump_keeps_stageRows (s : State) (k : Fld) (w : Nat) : (State.bump s k w).stageRows = s.stageRows := (State.bump_only s k w).eq_stageRows (by decide)
@[simp] theorem State.bump_keeps_windows (s : State) (k : Fld) (w : Nat) : (State.bump s k w).windows = s.windows := (State.bump_only s k w).eq_windows (by decide)
@[simp] theorem State.bump_keeps_mem (s : State) (k : Fld) (w : Nat) : (State.bump s k w).mem = s.mem := (State.bump_only s k w).eq_mem (by decide)
@[simp] theorem State.bump_keeps_placed (s : State) (k : Fld) (w : Nat) : (State.bump s k w).placed = s.placed := (State.bump_only s k w).eq_placed (by decide)
@[simp] theorem State.bump_keeps_integrity (s : State) (k : Fld) (w : Nat) : (State.bump s k w).integrity = s.integrity := (State.bump_only s k w).eq_integrity (by decide)
@[simp] theorem State.bump_keeps_regulator (s : State) (k : Fld) (w : Nat) : (State.bump s k w).regulator = s.regulator := (State.bump_only s k w).eq_regulator (by decide)

@[simp] theorem State.addF_keeps_pending (s : State) (k : Fld) (n : Nat) (mx : Nat) : (State.addF s k n mx).pending = s.pending := (State.addF_only s k n mx).eq_pending (by decide)
@[simp] theorem State.addF_keeps_out (s : State) (k : Fld) (n : Nat) (mx : Nat) : (State.addF s k n mx).out = s.out := (State.addF_only s k n mx).eq_out (by decide)
@[simp] theorem State.addF_keeps_heldOut (s : State) (k : Fld) (n : Nat) (mx : Nat) : (State.addF s k n mx).heldOut = s.heldOut := (State.addF_only s k n mx).eq_heldOut (by decide)
@[simp] theorem State.addF_keeps_free (s : State) (k : Fld) (n : Nat) (mx : Nat) : (State.addF s k n mx).free = s.free := (State.addF_only s k n mx).eq_free (by decide)
@[simp] theorem State.addF_keeps_time (s : State) (k : Fld) (n : Nat) (mx : Nat) : (State.addF s k n mx).time = s.time := (State.addF_only s k n mx).eq_time (by decide)
@[simp] theorem State.addF_keeps_pilot (s : State) (k : Fld) (n : Nat) (mx : Nat) : (State.addF s k n mx).pilot = s.pilot := (State.addF_only s k n mx).eq_pilot (by decide)
@[simp] theorem State.addF_keeps_dom (s : State) (k : Fld) (n : Nat) (mx : Nat) : (State.addF s k n mx).dom = s.dom := (State.addF_only s k n mx).eq_dom (by decide)
@[simp] theorem State.addF_keeps_latches (s : State) (k : Fld) (n : Nat) (mx : Nat) : (State.addF s k n mx).latches = s.latches := (State.addF_only s k n mx).eq_latches (by decide)
@[simp] theorem State.addF_keeps_pcie (s : State) (k : Fld) (n : Nat) (mx : Nat) : (State.addF s k n mx).pcie = s.pcie := (State.addF_only s k n mx).eq_pcie (by decide)
@[simp] theorem State.addF_keeps_log (s : State) (k : Fld) (n : Nat) (mx : Nat) : (State.addF s k n mx).log = s.log := (State.addF_only s k n mx).eq_log (by decide)
@[simp] theorem State.addF_keeps_logWritten (s : State) (k : Fld) (n : Nat) (mx : Nat) : (State.addF s k n mx).logWritten = s.logWritten := (State.addF_only s k n mx).eq_logWritten (by decide)
@[simp] theorem State.addF_keeps_rings (s : State) (k : Fld) (n : Nat) (mx : Nat) : (State.addF s k n mx).rings = s.rings := (State.addF_only s k n mx).eq_rings (by decide)
@[simp] theorem State.addF_keeps_resetting (s : State) (k : Fld) (n : Nat) (mx : Nat) : (State.addF s k n mx).resetting = s.resetting := (State.addF_only s k n mx).eq_resetting (by decide)
@[simp] theorem State.addF_keeps_quiesce (s : State) (k : Fld) (n : Nat) (mx : Nat) : (State.addF s k n mx).quiesce = s.quiesce := (State.addF_only s k n mx).eq_quiesce (by decide)
@[simp] theorem State.addF_keeps_lines (s : State) (k : Fld) (n : Nat) (mx : Nat) : (State.addF s k n mx).lines = s.lines := (State.addF_only s k n mx).eq_lines (by decide)
@[simp] theorem State.addF_keeps_pulses (s : State) (k : Fld) (n : Nat) (mx : Nat) : (State.addF s k n mx).pulses = s.pulses := (State.addF_only s k n mx).eq_pulses (by decide)
@[simp] theorem State.addF_keeps_channels (s : State) (k : Fld) (n : Nat) (mx : Nat) : (State.addF s k n mx).channels = s.channels := (State.addF_only s k n mx).eq_channels (by decide)
@[simp] theorem State.addF_keeps_fuses (s : State) (k : Fld) (n : Nat) (mx : Nat) : (State.addF s k n mx).fuses = s.fuses := (State.addF_only s k n mx).eq_fuses (by decide)
@[simp] theorem State.addF_keeps_trust (s : State) (k : Fld) (n : Nat) (mx : Nat) : (State.addF s k n mx).trust = s.trust := (State.addF_only s k n mx).eq_trust (by decide)
@[simp] theorem State.addF_keeps_sensors (s : State) (k : Fld) (n : Nat) (mx : Nat) : (State.addF s k n mx).sensors = s.sensors := (State.addF_only s k n mx).eq_sensors (by decide)
@[simp] theorem State.addF_keeps_layers (s : State) (k : Fld) (n : Nat) (mx : Nat) : (State.addF s k n mx).layers = s.layers := (State.addF_only s k n mx).eq_layers (by decide)
@[simp] theorem State.addF_keeps_thermal (s : State) (k : Fld) (n : Nat) (mx : Nat) : (State.addF s k n mx).thermal = s.thermal := (State.addF_only s k n mx).eq_thermal (by decide)
@[simp] theorem State.addF_keeps_test (s : State) (k : Fld) (n : Nat) (mx : Nat) : (State.addF s k n mx).test = s.test := (State.addF_only s k n mx).eq_test (by decide)
@[simp] theorem State.addF_keeps_sideband (s : State) (k : Fld) (n : Nat) (mx : Nat) : (State.addF s k n mx).sideband = s.sideband := (State.addF_only s k n mx).eq_sideband (by decide)
@[simp] theorem State.addF_keeps_ports (s : State) (k : Fld) (n : Nat) (mx : Nat) : (State.addF s k n mx).ports = s.ports := (State.addF_only s k n mx).eq_ports (by decide)
@[simp] theorem State.addF_keeps_lanes (s : State) (k : Fld) (n : Nat) (mx : Nat) : (State.addF s k n mx).lanes = s.lanes := (State.addF_only s k n mx).eq_lanes (by decide)
@[simp] theorem State.addF_keeps_queues (s : State) (k : Fld) (n : Nat) (mx : Nat) : (State.addF s k n mx).queues = s.queues := (State.addF_only s k n mx).eq_queues (by decide)
@[simp] theorem State.addF_keeps_queueChanges (s : State) (k : Fld) (n : Nat) (mx : Nat) : (State.addF s k n mx).queueChanges = s.queueChanges := (State.addF_only s k n mx).eq_queueChanges (by decide)
@[simp] theorem State.addF_keeps_snapshots (s : State) (k : Fld) (n : Nat) (mx : Nat) : (State.addF s k n mx).snapshots = s.snapshots := (State.addF_only s k n mx).eq_snapshots (by decide)
@[simp] theorem State.addF_keeps_snapPending (s : State) (k : Fld) (n : Nat) (mx : Nat) : (State.addF s k n mx).snapPending = s.snapPending := (State.addF_only s k n mx).eq_snapPending (by decide)
@[simp] theorem State.addF_keeps_tables (s : State) (k : Fld) (n : Nat) (mx : Nat) : (State.addF s k n mx).tables = s.tables := (State.addF_only s k n mx).eq_tables (by decide)
@[simp] theorem State.addF_keeps_dead (s : State) (k : Fld) (n : Nat) (mx : Nat) : (State.addF s k n mx).dead = s.dead := (State.addF_only s k n mx).eq_dead (by decide)
@[simp] theorem State.addF_keeps_commits (s : State) (k : Fld) (n : Nat) (mx : Nat) : (State.addF s k n mx).commits = s.commits := (State.addF_only s k n mx).eq_commits (by decide)
@[simp] theorem State.addF_keeps_commitLog (s : State) (k : Fld) (n : Nat) (mx : Nat) : (State.addF s k n mx).commitLog = s.commitLog := (State.addF_only s k n mx).eq_commitLog (by decide)
@[simp] theorem State.addF_keeps_recovered (s : State) (k : Fld) (n : Nat) (mx : Nat) : (State.addF s k n mx).recovered = s.recovered := (State.addF_only s k n mx).eq_recovered (by decide)
@[simp] theorem State.addF_keeps_cancelled (s : State) (k : Fld) (n : Nat) (mx : Nat) : (State.addF s k n mx).cancelled = s.cancelled := (State.addF_only s k n mx).eq_cancelled (by decide)
@[simp] theorem State.addF_keeps_recoveredCommits (s : State) (k : Fld) (n : Nat) (mx : Nat) : (State.addF s k n mx).recoveredCommits = s.recoveredCommits := (State.addF_only s k n mx).eq_recoveredCommits (by decide)
@[simp] theorem State.addF_keeps_latency (s : State) (k : Fld) (n : Nat) (mx : Nat) : (State.addF s k n mx).latency = s.latency := (State.addF_only s k n mx).eq_latency (by decide)
@[simp] theorem State.addF_keeps_engineQueues (s : State) (k : Fld) (n : Nat) (mx : Nat) : (State.addF s k n mx).engineQueues = s.engineQueues := (State.addF_only s k n mx).eq_engineQueues (by decide)
@[simp] theorem State.addF_keeps_marver (s : State) (k : Fld) (n : Nat) (mx : Nat) : (State.addF s k n mx).marver = s.marver := (State.addF_only s k n mx).eq_marver (by decide)
@[simp] theorem State.addF_keeps_pcs (s : State) (k : Fld) (n : Nat) (mx : Nat) : (State.addF s k n mx).pcs = s.pcs := (State.addF_only s k n mx).eq_pcs (by decide)
@[simp] theorem State.addF_keeps_stageRows (s : State) (k : Fld) (n : Nat) (mx : Nat) : (State.addF s k n mx).stageRows = s.stageRows := (State.addF_only s k n mx).eq_stageRows (by decide)
@[simp] theorem State.addF_keeps_windows (s : State) (k : Fld) (n : Nat) (mx : Nat) : (State.addF s k n mx).windows = s.windows := (State.addF_only s k n mx).eq_windows (by decide)
@[simp] theorem State.addF_keeps_mem (s : State) (k : Fld) (n : Nat) (mx : Nat) : (State.addF s k n mx).mem = s.mem := (State.addF_only s k n mx).eq_mem (by decide)
@[simp] theorem State.addF_keeps_placed (s : State) (k : Fld) (n : Nat) (mx : Nat) : (State.addF s k n mx).placed = s.placed := (State.addF_only s k n mx).eq_placed (by decide)
@[simp] theorem State.addF_keeps_integrity (s : State) (k : Fld) (n : Nat) (mx : Nat) : (State.addF s k n mx).integrity = s.integrity := (State.addF_only s k n mx).eq_integrity (by decide)
@[simp] theorem State.addF_keeps_regulator (s : State) (k : Fld) (n : Nat) (mx : Nat) : (State.addF s k n mx).regulator = s.regulator := (State.addF_only s k n mx).eq_regulator (by decide)

@[simp] theorem State.closeDomains_keeps_pending (s : State) (power : Nat) (clocks : Nat) : (State.closeDomains s power clocks).pending = s.pending := (State.closeDomains_only s power clocks).eq_pending (by decide)
@[simp] theorem State.closeDomains_keeps_out (s : State) (power : Nat) (clocks : Nat) : (State.closeDomains s power clocks).out = s.out := (State.closeDomains_only s power clocks).eq_out (by decide)
@[simp] theorem State.closeDomains_keeps_heldOut (s : State) (power : Nat) (clocks : Nat) : (State.closeDomains s power clocks).heldOut = s.heldOut := (State.closeDomains_only s power clocks).eq_heldOut (by decide)
@[simp] theorem State.closeDomains_keeps_free (s : State) (power : Nat) (clocks : Nat) : (State.closeDomains s power clocks).free = s.free := (State.closeDomains_only s power clocks).eq_free (by decide)
@[simp] theorem State.closeDomains_keeps_time (s : State) (power : Nat) (clocks : Nat) : (State.closeDomains s power clocks).time = s.time := (State.closeDomains_only s power clocks).eq_time (by decide)
@[simp] theorem State.closeDomains_keeps_pilot (s : State) (power : Nat) (clocks : Nat) : (State.closeDomains s power clocks).pilot = s.pilot := (State.closeDomains_only s power clocks).eq_pilot (by decide)
@[simp] theorem State.closeDomains_keeps_regs (s : State) (power : Nat) (clocks : Nat) : (State.closeDomains s power clocks).regs = s.regs := (State.closeDomains_only s power clocks).eq_regs (by decide)
@[simp] theorem State.closeDomains_keeps_latches (s : State) (power : Nat) (clocks : Nat) : (State.closeDomains s power clocks).latches = s.latches := (State.closeDomains_only s power clocks).eq_latches (by decide)
@[simp] theorem State.closeDomains_keeps_pcie (s : State) (power : Nat) (clocks : Nat) : (State.closeDomains s power clocks).pcie = s.pcie := (State.closeDomains_only s power clocks).eq_pcie (by decide)
@[simp] theorem State.closeDomains_keeps_log (s : State) (power : Nat) (clocks : Nat) : (State.closeDomains s power clocks).log = s.log := (State.closeDomains_only s power clocks).eq_log (by decide)
@[simp] theorem State.closeDomains_keeps_logWritten (s : State) (power : Nat) (clocks : Nat) : (State.closeDomains s power clocks).logWritten = s.logWritten := (State.closeDomains_only s power clocks).eq_logWritten (by decide)
@[simp] theorem State.closeDomains_keeps_rings (s : State) (power : Nat) (clocks : Nat) : (State.closeDomains s power clocks).rings = s.rings := (State.closeDomains_only s power clocks).eq_rings (by decide)
@[simp] theorem State.closeDomains_keeps_resetting (s : State) (power : Nat) (clocks : Nat) : (State.closeDomains s power clocks).resetting = s.resetting := (State.closeDomains_only s power clocks).eq_resetting (by decide)
@[simp] theorem State.closeDomains_keeps_quiesce (s : State) (power : Nat) (clocks : Nat) : (State.closeDomains s power clocks).quiesce = s.quiesce := (State.closeDomains_only s power clocks).eq_quiesce (by decide)
@[simp] theorem State.closeDomains_keeps_lines (s : State) (power : Nat) (clocks : Nat) : (State.closeDomains s power clocks).lines = s.lines := (State.closeDomains_only s power clocks).eq_lines (by decide)
@[simp] theorem State.closeDomains_keeps_pulses (s : State) (power : Nat) (clocks : Nat) : (State.closeDomains s power clocks).pulses = s.pulses := (State.closeDomains_only s power clocks).eq_pulses (by decide)
@[simp] theorem State.closeDomains_keeps_channels (s : State) (power : Nat) (clocks : Nat) : (State.closeDomains s power clocks).channels = s.channels := (State.closeDomains_only s power clocks).eq_channels (by decide)
@[simp] theorem State.closeDomains_keeps_fuses (s : State) (power : Nat) (clocks : Nat) : (State.closeDomains s power clocks).fuses = s.fuses := (State.closeDomains_only s power clocks).eq_fuses (by decide)
@[simp] theorem State.closeDomains_keeps_trust (s : State) (power : Nat) (clocks : Nat) : (State.closeDomains s power clocks).trust = s.trust := (State.closeDomains_only s power clocks).eq_trust (by decide)
@[simp] theorem State.closeDomains_keeps_sensors (s : State) (power : Nat) (clocks : Nat) : (State.closeDomains s power clocks).sensors = s.sensors := (State.closeDomains_only s power clocks).eq_sensors (by decide)
@[simp] theorem State.closeDomains_keeps_layers (s : State) (power : Nat) (clocks : Nat) : (State.closeDomains s power clocks).layers = s.layers := (State.closeDomains_only s power clocks).eq_layers (by decide)
@[simp] theorem State.closeDomains_keeps_thermal (s : State) (power : Nat) (clocks : Nat) : (State.closeDomains s power clocks).thermal = s.thermal := (State.closeDomains_only s power clocks).eq_thermal (by decide)
@[simp] theorem State.closeDomains_keeps_test (s : State) (power : Nat) (clocks : Nat) : (State.closeDomains s power clocks).test = s.test := (State.closeDomains_only s power clocks).eq_test (by decide)
@[simp] theorem State.closeDomains_keeps_sideband (s : State) (power : Nat) (clocks : Nat) : (State.closeDomains s power clocks).sideband = s.sideband := (State.closeDomains_only s power clocks).eq_sideband (by decide)
@[simp] theorem State.closeDomains_keeps_ports (s : State) (power : Nat) (clocks : Nat) : (State.closeDomains s power clocks).ports = s.ports := (State.closeDomains_only s power clocks).eq_ports (by decide)
@[simp] theorem State.closeDomains_keeps_lanes (s : State) (power : Nat) (clocks : Nat) : (State.closeDomains s power clocks).lanes = s.lanes := (State.closeDomains_only s power clocks).eq_lanes (by decide)
@[simp] theorem State.closeDomains_keeps_queues (s : State) (power : Nat) (clocks : Nat) : (State.closeDomains s power clocks).queues = s.queues := (State.closeDomains_only s power clocks).eq_queues (by decide)
@[simp] theorem State.closeDomains_keeps_queueChanges (s : State) (power : Nat) (clocks : Nat) : (State.closeDomains s power clocks).queueChanges = s.queueChanges := (State.closeDomains_only s power clocks).eq_queueChanges (by decide)
@[simp] theorem State.closeDomains_keeps_snapshots (s : State) (power : Nat) (clocks : Nat) : (State.closeDomains s power clocks).snapshots = s.snapshots := (State.closeDomains_only s power clocks).eq_snapshots (by decide)
@[simp] theorem State.closeDomains_keeps_snapPending (s : State) (power : Nat) (clocks : Nat) : (State.closeDomains s power clocks).snapPending = s.snapPending := (State.closeDomains_only s power clocks).eq_snapPending (by decide)
@[simp] theorem State.closeDomains_keeps_tables (s : State) (power : Nat) (clocks : Nat) : (State.closeDomains s power clocks).tables = s.tables := (State.closeDomains_only s power clocks).eq_tables (by decide)
@[simp] theorem State.closeDomains_keeps_dead (s : State) (power : Nat) (clocks : Nat) : (State.closeDomains s power clocks).dead = s.dead := (State.closeDomains_only s power clocks).eq_dead (by decide)
@[simp] theorem State.closeDomains_keeps_commits (s : State) (power : Nat) (clocks : Nat) : (State.closeDomains s power clocks).commits = s.commits := (State.closeDomains_only s power clocks).eq_commits (by decide)
@[simp] theorem State.closeDomains_keeps_commitLog (s : State) (power : Nat) (clocks : Nat) : (State.closeDomains s power clocks).commitLog = s.commitLog := (State.closeDomains_only s power clocks).eq_commitLog (by decide)
@[simp] theorem State.closeDomains_keeps_recovered (s : State) (power : Nat) (clocks : Nat) : (State.closeDomains s power clocks).recovered = s.recovered := (State.closeDomains_only s power clocks).eq_recovered (by decide)
@[simp] theorem State.closeDomains_keeps_cancelled (s : State) (power : Nat) (clocks : Nat) : (State.closeDomains s power clocks).cancelled = s.cancelled := (State.closeDomains_only s power clocks).eq_cancelled (by decide)
@[simp] theorem State.closeDomains_keeps_recoveredCommits (s : State) (power : Nat) (clocks : Nat) : (State.closeDomains s power clocks).recoveredCommits = s.recoveredCommits := (State.closeDomains_only s power clocks).eq_recoveredCommits (by decide)
@[simp] theorem State.closeDomains_keeps_latency (s : State) (power : Nat) (clocks : Nat) : (State.closeDomains s power clocks).latency = s.latency := (State.closeDomains_only s power clocks).eq_latency (by decide)
@[simp] theorem State.closeDomains_keeps_engineQueues (s : State) (power : Nat) (clocks : Nat) : (State.closeDomains s power clocks).engineQueues = s.engineQueues := (State.closeDomains_only s power clocks).eq_engineQueues (by decide)
@[simp] theorem State.closeDomains_keeps_marver (s : State) (power : Nat) (clocks : Nat) : (State.closeDomains s power clocks).marver = s.marver := (State.closeDomains_only s power clocks).eq_marver (by decide)
@[simp] theorem State.closeDomains_keeps_pcs (s : State) (power : Nat) (clocks : Nat) : (State.closeDomains s power clocks).pcs = s.pcs := (State.closeDomains_only s power clocks).eq_pcs (by decide)
@[simp] theorem State.closeDomains_keeps_stageRows (s : State) (power : Nat) (clocks : Nat) : (State.closeDomains s power clocks).stageRows = s.stageRows := (State.closeDomains_only s power clocks).eq_stageRows (by decide)
@[simp] theorem State.closeDomains_keeps_windows (s : State) (power : Nat) (clocks : Nat) : (State.closeDomains s power clocks).windows = s.windows := (State.closeDomains_only s power clocks).eq_windows (by decide)
@[simp] theorem State.closeDomains_keeps_mem (s : State) (power : Nat) (clocks : Nat) : (State.closeDomains s power clocks).mem = s.mem := (State.closeDomains_only s power clocks).eq_mem (by decide)
@[simp] theorem State.closeDomains_keeps_placed (s : State) (power : Nat) (clocks : Nat) : (State.closeDomains s power clocks).placed = s.placed := (State.closeDomains_only s power clocks).eq_placed (by decide)
@[simp] theorem State.closeDomains_keeps_integrity (s : State) (power : Nat) (clocks : Nat) : (State.closeDomains s power clocks).integrity = s.integrity := (State.closeDomains_only s power clocks).eq_integrity (by decide)
@[simp] theorem State.closeDomains_keeps_regulator (s : State) (power : Nat) (clocks : Nat) : (State.closeDomains s power clocks).regulator = s.regulator := (State.closeDomains_only s power clocks).eq_regulator (by decide)


end Sys2Proof.Machine
end

