-- ==== Sys2Proof/Laws/Memory.lean ====
section
/-!
SUPPORT. The memory of the stack: what a read after a write gives, and that every operation keeps the canonical form.
-/
namespace Sys2Proof.Machine

/-- A lower bound on the positions may be weakened. -/
theorem Memory.rises_mono {m : List Host.Cell} {b : Option Nat} {c : Nat} (hb : ∀ d, b = some d → d ≤ c)
    (h : Memory.rises (some c) m = true) : Memory.rises b m = true := by
  cases m with
  | nil => rfl
  | cons p r =>
    obtain ⟨j, v⟩ := p
    simp only [Memory.rises, keyAbove, Bool.and_eq_true, decide_eq_true_eq] at h ⊢
    refine ⟨?_, h.2⟩
    cases b with
    | none => rfl
    | some d => have := hb d rfl; simp only [decide_eq_true_eq]; omega

/-- A write at a position above the bound keeps the positions rising. -/
theorem Memory.rises_put {m : List Host.Cell} {b : Option Nat} {a : Nat} {v : Byte} (hb : keyAbove b a = true)
    (h : Memory.rises b m = true) : Memory.rises b (Map.put a v m) = true := by
  induction m generalizing b with
  | nil => simp [Map.put, Memory.rises, hb]
  | cons p r ih =>
    obtain ⟨j, w⟩ := p
    simp only [Memory.rises, Bool.and_eq_true] at h
    simp only [Map.put]
    split
    · next hlt =>
      simp only [Memory.rises, Bool.and_eq_true]
      exact ⟨hb, by simpa [keyAbove] using hlt, h.2⟩
    · split
      · next heq => subst heq; simp only [Memory.rises, Bool.and_eq_true]; exact ⟨hb, h.2⟩
      · next hne =>
        simp only [Memory.rises, Bool.and_eq_true]
        exact ⟨h.1, ih (by simp only [keyAbove, decide_eq_true_eq]; omega) h.2⟩

/-- A write of one position keeps the canonical form. -/
theorem Memory.wf_write {m : List Host.Cell} (a : Nat) (v : Byte) (h : Memory.wf m = true) : Memory.wf (Memory.write m a v) = true :=
  Memory.rises_put rfl h

/-- A write of successive positions keeps the canonical form. -/
theorem Memory.wf_writeBytes {m : List Host.Cell} (a : Nat) (b : List Byte) (h : Memory.wf m = true) :
    Memory.wf (Memory.writeBytes m a b) = true := by
  induction b generalizing m a with
  | nil => exact h
  | cons v r ih => exact ih (a + 1) (Memory.wf_write a v h)

/-- What is left of a memory keeps the canonical form. -/
theorem Memory.rises_filter {m : List Host.Cell} {b : Option Nat} (p : Host.Cell → Bool) (h : Memory.rises b m = true) :
    Memory.rises b (m.filter p) = true := by
  induction m generalizing b with
  | nil => rfl
  | cons q r ih =>
    obtain ⟨j, w⟩ := q
    simp only [Memory.rises, Bool.and_eq_true] at h
    simp only [List.filter]
    split
    · simp only [Memory.rises, Bool.and_eq_true]; exact ⟨h.1, ih h.2⟩
    · refine ih (Memory.rises_mono (c := j) ?_ h.2)
      intro d hd
      subst hd
      have := h.1
      simp only [keyAbove, decide_eq_true_eq] at this
      omega

theorem Memory.wf_filter {m : List Host.Cell} (p : Host.Cell → Bool) (h : Memory.wf m = true) : Memory.wf (m.filter p) = true :=
  Memory.rises_filter p h

/-- What a full reset keeps of the memory is canonical. -/
theorem State.wf_keptMem (s : State) (h : Memory.wf s.mem = true) : Memory.wf s.keptMem = true := Memory.wf_filter _ h

/-- A write of the stack keeps the canonical form. -/
theorem State.wf_stackWrite (s : State) (k : Nat) (b : List Byte) (h : Memory.wf s.mem = true) :
    Memory.wf (s.stackWrite k b).mem = true := Memory.wf_writeBytes k b h

/-- The memory after reset lists nothing. -/
theorem State.wf_reset : Memory.wf State.reset.mem = true := rfl

/-- A read gives the value written last. -/
theorem Memory.read_write (m : List Host.Cell) (a k : Nat) (v : Byte) :
    Memory.read? (Memory.write m a v) k = if k = a then some v else Memory.read? m k := by
  unfold Memory.write
  induction m with
  | nil =>
    simp only [Map.put, Memory.read?]
    by_cases h : a = k
    · simp [h]
    · simp [h, Ne.symm h]
  | cons p r ih =>
    obtain ⟨j, w⟩ := p
    simp only [Map.put]
    split
    · simp only [Memory.read?]
      by_cases h : a = k
      · simp [h]
      · simp [h, Ne.symm h]
    · split
      · next h =>
        subst h
        simp only [Memory.read?]
        by_cases h : a = k
        · simp [h]
        · simp [h, Ne.symm h]
      · next h1 h2 =>
        simp only [Memory.read?, ih]
        by_cases h : k = a
        · subst h; simp [Ne.symm h2]
        · simp [h]

/-- A write of successive positions leaves every other position alone. -/
theorem Memory.read_writeBytes_other (m : List Host.Cell) (a k : Nat) (b : List Byte) (h : k < a ∨ a + b.length ≤ k) :
    Memory.read? (Memory.writeBytes m a b) k = Memory.read? m k := by
  induction b generalizing m a with
  | nil => rfl
  | cons v r ih =>
    simp only [List.length_cons] at h
    rw [Memory.writeBytes, ih _ _ (by omega), Memory.read_write, if_neg (by omega)]

/-- And gives what it wrote. -/
theorem Memory.read_writeBytes (m : List Host.Cell) (a i : Nat) (b : List Byte) (h : i < b.length) :
    Memory.read? (Memory.writeBytes m a b) (a + i) = some b[i] := by
  induction b generalizing m a i with
  | nil => simp at h
  | cons v r ih =>
    cases i with
    | zero => rw [Memory.writeBytes, Memory.read_writeBytes_other _ _ _ _ (by omega), Memory.read_write]; simp
    | succ n =>
      have := ih (Memory.write m a v) (a + 1) n (by simpa using h)
      rw [Memory.writeBytes]
      simpa [Nat.add_assoc, Nat.add_comm 1] using this

end Sys2Proof.Machine
end

