-- ==== Sys2Proof/Laws/State.lean ====
section
/-!
SUPPORT. What the plain updates of the state leave as it was: one equation for each field, true by definition.
-/
namespace Sys2Proof.Machine

@[simp] theorem State.setF_keeps_pending (s : State) (k : Fld) (v : Nat) : (State.setF s k v).pending = s.pending := rfl
@[simp] theorem State.setF_keeps_out (s : State) (k : Fld) (v : Nat) : (State.setF s k v).out = s.out := rfl
@[simp] theorem State.setF_keeps_heldOut (s : State) (k : Fld) (v : Nat) : (State.setF s k v).heldOut = s.heldOut := rfl
@[simp] theorem State.setF_keeps_free (s : State) (k : Fld) (v : Nat) : (State.setF s k v).free = s.free := rfl
@[simp] theorem State.setF_keeps_time (s : State) (k : Fld) (v : Nat) : (State.setF s k v).time = s.time := rfl
@[simp] theorem State.setF_keeps_pilot (s : State) (k : Fld) (v : Nat) : (State.setF s k v).pilot = s.pilot := rfl
@[simp] theorem State.setF_keeps_dom (s : State) (k : Fld) (v : Nat) : (State.setF s k v).dom = s.dom := rfl
@[simp] theorem State.setF_keeps_latches (s : State) (k : Fld) (v : Nat) : (State.setF s k v).latches = s.latches := rfl
@[simp] theorem State.setF_keeps_pcie (s : State) (k : Fld) (v : Nat) : (State.setF s k v).pcie = s.pcie := rfl
@[simp] theorem State.setF_keeps_log (s : State) (k : Fld) (v : Nat) : (State.setF s k v).log = s.log := rfl
@[simp] theorem State.setF_keeps_logWritten (s : State) (k : Fld) (v : Nat) : (State.setF s k v).logWritten = s.logWritten := rfl
@[simp] theorem State.setF_keeps_rings (s : State) (k : Fld) (v : Nat) : (State.setF s k v).rings = s.rings := rfl
@[simp] theorem State.setF_keeps_resetting (s : State) (k : Fld) (v : Nat) : (State.setF s k v).resetting = s.resetting := rfl
@[simp] theorem State.setF_keeps_quiesce (s : State) (k : Fld) (v : Nat) : (State.setF s k v).quiesce = s.quiesce := rfl
@[simp] theorem State.setF_keeps_lines (s : State) (k : Fld) (v : Nat) : (State.setF s k v).lines = s.lines := rfl
@[simp] theorem State.setF_keeps_pulses (s : State) (k : Fld) (v : Nat) : (State.setF s k v).pulses = s.pulses := rfl
@[simp] theorem State.setF_keeps_channels (s : State) (k : Fld) (v : Nat) : (State.setF s k v).channels = s.channels := rfl
@[simp] theorem State.setF_keeps_fuses (s : State) (k : Fld) (v : Nat) : (State.setF s k v).fuses = s.fuses := rfl
@[simp] theorem State.setF_keeps_trust (s : State) (k : Fld) (v : Nat) : (State.setF s k v).trust = s.trust := rfl
@[simp] theorem State.setF_keeps_sensors (s : State) (k : Fld) (v : Nat) : (State.setF s k v).sensors = s.sensors := rfl
@[simp] theorem State.setF_keeps_layers (s : State) (k : Fld) (v : Nat) : (State.setF s k v).layers = s.layers := rfl
@[simp] theorem State.setF_keeps_thermal (s : State) (k : Fld) (v : Nat) : (State.setF s k v).thermal = s.thermal := rfl
@[simp] theorem State.setF_keeps_test (s : State) (k : Fld) (v : Nat) : (State.setF s k v).test = s.test := rfl
@[simp] theorem State.setF_keeps_sideband (s : State) (k : Fld) (v : Nat) : (State.setF s k v).sideband = s.sideband := rfl
@[simp] theorem State.setF_keeps_ports (s : State) (k : Fld) (v : Nat) : (State.setF s k v).ports = s.ports := rfl
@[simp] theorem State.setF_keeps_lanes (s : State) (k : Fld) (v : Nat) : (State.setF s k v).lanes = s.lanes := rfl
@[simp] theorem State.setF_keeps_queues (s : State) (k : Fld) (v : Nat) : (State.setF s k v).queues = s.queues := rfl
@[simp] theorem State.setF_keeps_queueChanges (s : State) (k : Fld) (v : Nat) : (State.setF s k v).queueChanges = s.queueChanges := rfl
@[simp] theorem State.setF_keeps_snapshots (s : State) (k : Fld) (v : Nat) : (State.setF s k v).snapshots = s.snapshots := rfl
@[simp] theorem State.setF_keeps_snapPending (s : State) (k : Fld) (v : Nat) : (State.setF s k v).snapPending = s.snapPending := rfl
@[simp] theorem State.setF_keeps_tables (s : State) (k : Fld) (v : Nat) : (State.setF s k v).tables = s.tables := rfl
@[simp] theorem State.setF_keeps_dead (s : State) (k : Fld) (v : Nat) : (State.setF s k v).dead = s.dead := rfl
@[simp] theorem State.setF_keeps_commits (s : State) (k : Fld) (v : Nat) : (State.setF s k v).commits = s.commits := rfl
@[simp] theorem State.setF_keeps_commitLog (s : State) (k : Fld) (v : Nat) : (State.setF s k v).commitLog = s.commitLog := rfl
@[simp] theorem State.setF_keeps_recovered (s : State) (k : Fld) (v : Nat) : (State.setF s k v).recovered = s.recovered := rfl
@[simp] theorem State.setF_keeps_cancelled (s : State) (k : Fld) (v : Nat) : (State.setF s k v).cancelled = s.cancelled := rfl
@[simp] theorem State.setF_keeps_recoveredCommits (s : State) (k : Fld) (v : Nat) : (State.setF s k v).recoveredCommits = s.recoveredCommits := rfl
@[simp] theorem State.setF_keeps_latency (s : State) (k : Fld) (v : Nat) : (State.setF s k v).latency = s.latency := rfl
@[simp] theorem State.setF_keeps_engineQueues (s : State) (k : Fld) (v : Nat) : (State.setF s k v).engineQueues = s.engineQueues := rfl
@[simp] theorem State.setF_keeps_marver (s : State) (k : Fld) (v : Nat) : (State.setF s k v).marver = s.marver := rfl
@[simp] theorem State.setF_keeps_pcs (s : State) (k : Fld) (v : Nat) : (State.setF s k v).pcs = s.pcs := rfl
@[simp] theorem State.setF_keeps_stageRows (s : State) (k : Fld) (v : Nat) : (State.setF s k v).stageRows = s.stageRows := rfl
@[simp] theorem State.setF_keeps_windows (s : State) (k : Fld) (v : Nat) : (State.setF s k v).windows = s.windows := rfl
@[simp] theorem State.setF_keeps_mem (s : State) (k : Fld) (v : Nat) : (State.setF s k v).mem = s.mem := rfl
@[simp] theorem State.setF_keeps_placed (s : State) (k : Fld) (v : Nat) : (State.setF s k v).placed = s.placed := rfl
@[simp] theorem State.setF_keeps_integrity (s : State) (k : Fld) (v : Nat) : (State.setF s k v).integrity = s.integrity := rfl
@[simp] theorem State.setF_keeps_regulator (s : State) (k : Fld) (v : Nat) : (State.setF s k v).regulator = s.regulator := rfl

@[simp] theorem State.emit_keeps_pending (s : State) (o : Output) : (State.emit s o).pending = s.pending := rfl
@[simp] theorem State.emit_keeps_heldOut (s : State) (o : Output) : (State.emit s o).heldOut = s.heldOut := rfl
@[simp] theorem State.emit_keeps_free (s : State) (o : Output) : (State.emit s o).free = s.free := rfl
@[simp] theorem State.emit_keeps_time (s : State) (o : Output) : (State.emit s o).time = s.time := rfl
@[simp] theorem State.emit_keeps_pilot (s : State) (o : Output) : (State.emit s o).pilot = s.pilot := rfl
@[simp] theorem State.emit_keeps_dom (s : State) (o : Output) : (State.emit s o).dom = s.dom := rfl
@[simp] theorem State.emit_keeps_regs (s : State) (o : Output) : (State.emit s o).regs = s.regs := rfl
@[simp] theorem State.emit_keeps_latches (s : State) (o : Output) : (State.emit s o).latches = s.latches := rfl
@[simp] theorem State.emit_keeps_pcie (s : State) (o : Output) : (State.emit s o).pcie = s.pcie := rfl
@[simp] theorem State.emit_keeps_log (s : State) (o : Output) : (State.emit s o).log = s.log := rfl
@[simp] theorem State.emit_keeps_logWritten (s : State) (o : Output) : (State.emit s o).logWritten = s.logWritten := rfl
@[simp] theorem State.emit_keeps_rings (s : State) (o : Output) : (State.emit s o).rings = s.rings := rfl
@[simp] theorem State.emit_keeps_resetting (s : State) (o : Output) : (State.emit s o).resetting = s.resetting := rfl
@[simp] theorem State.emit_keeps_quiesce (s : State) (o : Output) : (State.emit s o).quiesce = s.quiesce := rfl
@[simp] theorem State.emit_keeps_lines (s : State) (o : Output) : (State.emit s o).lines = s.lines := rfl
@[simp] theorem State.emit_keeps_pulses (s : State) (o : Output) : (State.emit s o).pulses = s.pulses := rfl
@[simp] theorem State.emit_keeps_channels (s : State) (o : Output) : (State.emit s o).channels = s.channels := rfl
@[simp] theorem State.emit_keeps_fuses (s : State) (o : Output) : (State.emit s o).fuses = s.fuses := rfl
@[simp] theorem State.emit_keeps_trust (s : State) (o : Output) : (State.emit s o).trust = s.trust := rfl
@[simp] theorem State.emit_keeps_sensors (s : State) (o : Output) : (State.emit s o).sensors = s.sensors := rfl
@[simp] theorem State.emit_keeps_layers (s : State) (o : Output) : (State.emit s o).layers = s.layers := rfl
@[simp] theorem State.emit_keeps_thermal (s : State) (o : Output) : (State.emit s o).thermal = s.thermal := rfl
@[simp] theorem State.emit_keeps_test (s : State) (o : Output) : (State.emit s o).test = s.test := rfl
@[simp] theorem State.emit_keeps_sideband (s : State) (o : Output) : (State.emit s o).sideband = s.sideband := rfl
@[simp] theorem State.emit_keeps_ports (s : State) (o : Output) : (State.emit s o).ports = s.ports := rfl
@[simp] theorem State.emit_keeps_lanes (s : State) (o : Output) : (State.emit s o).lanes = s.lanes := rfl
@[simp] theorem State.emit_keeps_queues (s : State) (o : Output) : (State.emit s o).queues = s.queues := rfl
@[simp] theorem State.emit_keeps_queueChanges (s : State) (o : Output) : (State.emit s o).queueChanges = s.queueChanges := rfl
@[simp] theorem State.emit_keeps_snapshots (s : State) (o : Output) : (State.emit s o).snapshots = s.snapshots := rfl
@[simp] theorem State.emit_keeps_snapPending (s : State) (o : Output) : (State.emit s o).snapPending = s.snapPending := rfl
@[simp] theorem State.emit_keeps_tables (s : State) (o : Output) : (State.emit s o).tables = s.tables := rfl
@[simp] theorem State.emit_keeps_dead (s : State) (o : Output) : (State.emit s o).dead = s.dead := rfl
@[simp] theorem State.emit_keeps_commits (s : State) (o : Output) : (State.emit s o).commits = s.commits := rfl
@[simp] theorem State.emit_keeps_commitLog (s : State) (o : Output) : (State.emit s o).commitLog = s.commitLog := rfl
@[simp] theorem State.emit_keeps_recovered (s : State) (o : Output) : (State.emit s o).recovered = s.recovered := rfl
@[simp] theorem State.emit_keeps_cancelled (s : State) (o : Output) : (State.emit s o).cancelled = s.cancelled := rfl
@[simp] theorem State.emit_keeps_recoveredCommits (s : State) (o : Output) : (State.emit s o).recoveredCommits = s.recoveredCommits := rfl
@[simp] theorem State.emit_keeps_latency (s : State) (o : Output) : (State.emit s o).latency = s.latency := rfl
@[simp] theorem State.emit_keeps_engineQueues (s : State) (o : Output) : (State.emit s o).engineQueues = s.engineQueues := rfl
@[simp] theorem State.emit_keeps_marver (s : State) (o : Output) : (State.emit s o).marver = s.marver := rfl
@[simp] theorem State.emit_keeps_pcs (s : State) (o : Output) : (State.emit s o).pcs = s.pcs := rfl
@[simp] theorem State.emit_keeps_stageRows (s : State) (o : Output) : (State.emit s o).stageRows = s.stageRows := rfl
@[simp] theorem State.emit_keeps_windows (s : State) (o : Output) : (State.emit s o).windows = s.windows := rfl
@[simp] theorem State.emit_keeps_mem (s : State) (o : Output) : (State.emit s o).mem = s.mem := rfl
@[simp] theorem State.emit_keeps_placed (s : State) (o : Output) : (State.emit s o).placed = s.placed := rfl
@[simp] theorem State.emit_keeps_integrity (s : State) (o : Output) : (State.emit s o).integrity = s.integrity := rfl
@[simp] theorem State.emit_keeps_regulator (s : State) (o : Output) : (State.emit s o).regulator = s.regulator := rfl

@[simp] theorem State.setRing_keeps_pending (s : State) (r : Nat) (x : Ring) : (State.setRing s r x).pending = s.pending := (State.setRing_only s r x).eq_pending (by decide)
@[simp] theorem State.setRing_keeps_out (s : State) (r : Nat) (x : Ring) : (State.setRing s r x).out = s.out := (State.setRing_only s r x).eq_out (by decide)
@[simp] theorem State.setRing_keeps_heldOut (s : State) (r : Nat) (x : Ring) : (State.setRing s r x).heldOut = s.heldOut := (State.setRing_only s r x).eq_heldOut (by decide)
@[simp] theorem State.setRing_keeps_free (s : State) (r : Nat) (x : Ring) : (State.setRing s r x).free = s.free := (State.setRing_only s r x).eq_free (by decide)
@[simp] theorem State.setRing_keeps_time (s : State) (r : Nat) (x : Ring) : (State.setRing s r x).time = s.time := (State.setRing_only s r x).eq_time (by decide)
@[simp] theorem State.setRing_keeps_pilot (s : State) (r : Nat) (x : Ring) : (State.setRing s r x).pilot = s.pilot := (State.setRing_only s r x).eq_pilot (by decide)
@[simp] theorem State.setRing_keeps_dom (s : State) (r : Nat) (x : Ring) : (State.setRing s r x).dom = s.dom := (State.setRing_only s r x).eq_dom (by decide)
@[simp] theorem State.setRing_keeps_regs (s : State) (r : Nat) (x : Ring) : (State.setRing s r x).regs = s.regs := (State.setRing_only s r x).eq_regs (by decide)
@[simp] theorem State.setRing_keeps_latches (s : State) (r : Nat) (x : Ring) : (State.setRing s r x).latches = s.latches := (State.setRing_only s r x).eq_latches (by decide)
@[simp] theorem State.setRing_keeps_pcie (s : State) (r : Nat) (x : Ring) : (State.setRing s r x).pcie = s.pcie := (State.setRing_only s r x).eq_pcie (by decide)
@[simp] theorem State.setRing_keeps_log (s : State) (r : Nat) (x : Ring) : (State.setRing s r x).log = s.log := (State.setRing_only s r x).eq_log (by decide)
@[simp] theorem State.setRing_keeps_logWritten (s : State) (r : Nat) (x : Ring) : (State.setRing s r x).logWritten = s.logWritten := (State.setRing_only s r x).eq_logWritten (by decide)
@[simp] theorem State.setRing_keeps_resetting (s : State) (r : Nat) (x : Ring) : (State.setRing s r x).resetting = s.resetting := (State.setRing_only s r x).eq_resetting (by decide)
@[simp] theorem State.setRing_keeps_quiesce (s : State) (r : Nat) (x : Ring) : (State.setRing s r x).quiesce = s.quiesce := (State.setRing_only s r x).eq_quiesce (by decide)
@[simp] theorem State.setRing_keeps_lines (s : State) (r : Nat) (x : Ring) : (State.setRing s r x).lines = s.lines := (State.setRing_only s r x).eq_lines (by decide)
@[simp] theorem State.setRing_keeps_pulses (s : State) (r : Nat) (x : Ring) : (State.setRing s r x).pulses = s.pulses := (State.setRing_only s r x).eq_pulses (by decide)
@[simp] theorem State.setRing_keeps_channels (s : State) (r : Nat) (x : Ring) : (State.setRing s r x).channels = s.channels := (State.setRing_only s r x).eq_channels (by decide)
@[simp] theorem State.setRing_keeps_fuses (s : State) (r : Nat) (x : Ring) : (State.setRing s r x).fuses = s.fuses := (State.setRing_only s r x).eq_fuses (by decide)
@[simp] theorem State.setRing_keeps_trust (s : State) (r : Nat) (x : Ring) : (State.setRing s r x).trust = s.trust := (State.setRing_only s r x).eq_trust (by decide)
@[simp] theorem State.setRing_keeps_sensors (s : State) (r : Nat) (x : Ring) : (State.setRing s r x).sensors = s.sensors := (State.setRing_only s r x).eq_sensors (by decide)
@[simp] theorem State.setRing_keeps_layers (s : State) (r : Nat) (x : Ring) : (State.setRing s r x).layers = s.layers := (State.setRing_only s r x).eq_layers (by decide)
@[simp] theorem State.setRing_keeps_thermal (s : State) (r : Nat) (x : Ring) : (State.setRing s r x).thermal = s.thermal := (State.setRing_only s r x).eq_thermal (by decide)
@[simp] theorem State.setRing_keeps_test (s : State) (r : Nat) (x : Ring) : (State.setRing s r x).test = s.test := (State.setRing_only s r x).eq_test (by decide)
@[simp] theorem State.setRing_keeps_sideband (s : State) (r : Nat) (x : Ring) : (State.setRing s r x).sideband = s.sideband := (State.setRing_only s r x).eq_sideband (by decide)
@[simp] theorem State.setRing_keeps_ports (s : State) (r : Nat) (x : Ring) : (State.setRing s r x).ports = s.ports := (State.setRing_only s r x).eq_ports (by decide)
@[simp] theorem State.setRing_keeps_lanes (s : State) (r : Nat) (x : Ring) : (State.setRing s r x).lanes = s.lanes := (State.setRing_only s r x).eq_lanes (by decide)
@[simp] theorem State.setRing_keeps_queues (s : State) (r : Nat) (x : Ring) : (State.setRing s r x).queues = s.queues := (State.setRing_only s r x).eq_queues (by decide)
@[simp] theorem State.setRing_keeps_queueChanges (s : State) (r : Nat) (x : Ring) : (State.setRing s r x).queueChanges = s.queueChanges := (State.setRing_only s r x).eq_queueChanges (by decide)
@[simp] theorem State.setRing_keeps_snapshots (s : State) (r : Nat) (x : Ring) : (State.setRing s r x).snapshots = s.snapshots := (State.setRing_only s r x).eq_snapshots (by decide)
@[simp] theorem State.setRing_keeps_snapPending (s : State) (r : Nat) (x : Ring) : (State.setRing s r x).snapPending = s.snapPending := (State.setRing_only s r x).eq_snapPending (by decide)
@[simp] theorem State.setRing_keeps_tables (s : State) (r : Nat) (x : Ring) : (State.setRing s r x).tables = s.tables := (State.setRing_only s r x).eq_tables (by decide)
@[simp] theorem State.setRing_keeps_dead (s : State) (r : Nat) (x : Ring) : (State.setRing s r x).dead = s.dead := (State.setRing_only s r x).eq_dead (by decide)
@[simp] theorem State.setRing_keeps_commits (s : State) (r : Nat) (x : Ring) : (State.setRing s r x).commits = s.commits := (State.setRing_only s r x).eq_commits (by decide)
@[simp] theorem State.setRing_keeps_commitLog (s : State) (r : Nat) (x : Ring) : (State.setRing s r x).commitLog = s.commitLog := (State.setRing_only s r x).eq_commitLog (by decide)
@[simp] theorem State.setRing_keeps_recovered (s : State) (r : Nat) (x : Ring) : (State.setRing s r x).recovered = s.recovered := (State.setRing_only s r x).eq_recovered (by decide)
@[simp] theorem State.setRing_keeps_cancelled (s : State) (r : Nat) (x : Ring) : (State.setRing s r x).cancelled = s.cancelled := (State.setRing_only s r x).eq_cancelled (by decide)
@[simp] theorem State.setRing_keeps_recoveredCommits (s : State) (r : Nat) (x : Ring) : (State.setRing s r x).recoveredCommits = s.recoveredCommits := (State.setRing_only s r x).eq_recoveredCommits (by decide)
@[simp] theorem State.setRing_keeps_latency (s : State) (r : Nat) (x : Ring) : (State.setRing s r x).latency = s.latency := (State.setRing_only s r x).eq_latency (by decide)
@[simp] theorem State.setRing_keeps_engineQueues (s : State) (r : Nat) (x : Ring) : (State.setRing s r x).engineQueues = s.engineQueues := (State.setRing_only s r x).eq_engineQueues (by decide)
@[simp] theorem State.setRing_keeps_marver (s : State) (r : Nat) (x : Ring) : (State.setRing s r x).marver = s.marver := (State.setRing_only s r x).eq_marver (by decide)
@[simp] theorem State.setRing_keeps_pcs (s : State) (r : Nat) (x : Ring) : (State.setRing s r x).pcs = s.pcs := (State.setRing_only s r x).eq_pcs (by decide)
@[simp] theorem State.setRing_keeps_stageRows (s : State) (r : Nat) (x : Ring) : (State.setRing s r x).stageRows = s.stageRows := (State.setRing_only s r x).eq_stageRows (by decide)
@[simp] theorem State.setRing_keeps_windows (s : State) (r : Nat) (x : Ring) : (State.setRing s r x).windows = s.windows := (State.setRing_only s r x).eq_windows (by decide)
@[simp] theorem State.setRing_keeps_mem (s : State) (r : Nat) (x : Ring) : (State.setRing s r x).mem = s.mem := (State.setRing_only s r x).eq_mem (by decide)
@[simp] theorem State.setRing_keeps_placed (s : State) (r : Nat) (x : Ring) : (State.setRing s r x).placed = s.placed := (State.setRing_only s r x).eq_placed (by decide)
@[simp] theorem State.setRing_keeps_integrity (s : State) (r : Nat) (x : Ring) : (State.setRing s r x).integrity = s.integrity := (State.setRing_only s r x).eq_integrity (by decide)
@[simp] theorem State.setRing_keeps_regulator (s : State) (r : Nat) (x : Ring) : (State.setRing s r x).regulator = s.regulator := (State.setRing_only s r x).eq_regulator (by decide)

@[simp] theorem State.setPort_keeps_pending (s : State) (p : Nat) (x : Port) : (State.setPort s p x).pending = s.pending := (State.setPort_only s p x).eq_pending (by decide)
@[simp] theorem State.setPort_keeps_out (s : State) (p : Nat) (x : Port) : (State.setPort s p x).out = s.out := (State.setPort_only s p x).eq_out (by decide)
@[simp] theorem State.setPort_keeps_heldOut (s : State) (p : Nat) (x : Port) : (State.setPort s p x).heldOut = s.heldOut := (State.setPort_only s p x).eq_heldOut (by decide)
@[simp] theorem State.setPort_keeps_free (s : State) (p : Nat) (x : Port) : (State.setPort s p x).free = s.free := (State.setPort_only s p x).eq_free (by decide)
@[simp] theorem State.setPort_keeps_time (s : State) (p : Nat) (x : Port) : (State.setPort s p x).time = s.time := (State.setPort_only s p x).eq_time (by decide)
@[simp] theorem State.setPort_keeps_pilot (s : State) (p : Nat) (x : Port) : (State.setPort s p x).pilot = s.pilot := (State.setPort_only s p x).eq_pilot (by decide)
@[simp] theorem State.setPort_keeps_dom (s : State) (p : Nat) (x : Port) : (State.setPort s p x).dom = s.dom := (State.setPort_only s p x).eq_dom (by decide)
@[simp] theorem State.setPort_keeps_regs (s : State) (p : Nat) (x : Port) : (State.setPort s p x).regs = s.regs := (State.setPort_only s p x).eq_regs (by decide)
@[simp] theorem State.setPort_keeps_latches (s : State) (p : Nat) (x : Port) : (State.setPort s p x).latches = s.latches := (State.setPort_only s p x).eq_latches (by decide)
@[simp] theorem State.setPort_keeps_pcie (s : State) (p : Nat) (x : Port) : (State.setPort s p x).pcie = s.pcie := (State.setPort_only s p x).eq_pcie (by decide)
@[simp] theorem State.setPort_keeps_log (s : State) (p : Nat) (x : Port) : (State.setPort s p x).log = s.log := (State.setPort_only s p x).eq_log (by decide)
@[simp] theorem State.setPort_keeps_logWritten (s : State) (p : Nat) (x : Port) : (State.setPort s p x).logWritten = s.logWritten := (State.setPort_only s p x).eq_logWritten (by decide)
@[simp] theorem State.setPort_keeps_rings (s : State) (p : Nat) (x : Port) : (State.setPort s p x).rings = s.rings := (State.setPort_only s p x).eq_rings (by decide)
@[simp] theorem State.setPort_keeps_resetting (s : State) (p : Nat) (x : Port) : (State.setPort s p x).resetting = s.resetting := (State.setPort_only s p x).eq_resetting (by decide)
@[simp] theorem State.setPort_keeps_quiesce (s : State) (p : Nat) (x : Port) : (State.setPort s p x).quiesce = s.quiesce := (State.setPort_only s p x).eq_quiesce (by decide)
@[simp] theorem State.setPort_keeps_lines (s : State) (p : Nat) (x : Port) : (State.setPort s p x).lines = s.lines := (State.setPort_only s p x).eq_lines (by decide)
@[simp] theorem State.setPort_keeps_pulses (s : State) (p : Nat) (x : Port) : (State.setPort s p x).pulses = s.pulses := (State.setPort_only s p x).eq_pulses (by decide)
@[simp] theorem State.setPort_keeps_channels (s : State) (p : Nat) (x : Port) : (State.setPort s p x).channels = s.channels := (State.setPort_only s p x).eq_channels (by decide)
@[simp] theorem State.setPort_keeps_fuses (s : State) (p : Nat) (x : Port) : (State.setPort s p x).fuses = s.fuses := (State.setPort_only s p x).eq_fuses (by decide)
@[simp] theorem State.setPort_keeps_trust (s : State) (p : Nat) (x : Port) : (State.setPort s p x).trust = s.trust := (State.setPort_only s p x).eq_trust (by decide)
@[simp] theorem State.setPort_keeps_sensors (s : State) (p : Nat) (x : Port) : (State.setPort s p x).sensors = s.sensors := (State.setPort_only s p x).eq_sensors (by decide)
@[simp] theorem State.setPort_keeps_layers (s : State) (p : Nat) (x : Port) : (State.setPort s p x).layers = s.layers := (State.setPort_only s p x).eq_layers (by decide)
@[simp] theorem State.setPort_keeps_thermal (s : State) (p : Nat) (x : Port) : (State.setPort s p x).thermal = s.thermal := (State.setPort_only s p x).eq_thermal (by decide)
@[simp] theorem State.setPort_keeps_test (s : State) (p : Nat) (x : Port) : (State.setPort s p x).test = s.test := (State.setPort_only s p x).eq_test (by decide)
@[simp] theorem State.setPort_keeps_sideband (s : State) (p : Nat) (x : Port) : (State.setPort s p x).sideband = s.sideband := (State.setPort_only s p x).eq_sideband (by decide)
@[simp] theorem State.setPort_keeps_lanes (s : State) (p : Nat) (x : Port) : (State.setPort s p x).lanes = s.lanes := (State.setPort_only s p x).eq_lanes (by decide)
@[simp] theorem State.setPort_keeps_queues (s : State) (p : Nat) (x : Port) : (State.setPort s p x).queues = s.queues := (State.setPort_only s p x).eq_queues (by decide)
@[simp] theorem State.setPort_keeps_queueChanges (s : State) (p : Nat) (x : Port) : (State.setPort s p x).queueChanges = s.queueChanges := (State.setPort_only s p x).eq_queueChanges (by decide)
@[simp] theorem State.setPort_keeps_snapshots (s : State) (p : Nat) (x : Port) : (State.setPort s p x).snapshots = s.snapshots := (State.setPort_only s p x).eq_snapshots (by decide)
@[simp] theorem State.setPort_keeps_snapPending (s : State) (p : Nat) (x : Port) : (State.setPort s p x).snapPending = s.snapPending := (State.setPort_only s p x).eq_snapPending (by decide)
@[simp] theorem State.setPort_keeps_tables (s : State) (p : Nat) (x : Port) : (State.setPort s p x).tables = s.tables := (State.setPort_only s p x).eq_tables (by decide)
@[simp] theorem State.setPort_keeps_dead (s : State) (p : Nat) (x : Port) : (State.setPort s p x).dead = s.dead := (State.setPort_only s p x).eq_dead (by decide)
@[simp] theorem State.setPort_keeps_commits (s : State) (p : Nat) (x : Port) : (State.setPort s p x).commits = s.commits := (State.setPort_only s p x).eq_commits (by decide)
@[simp] theorem State.setPort_keeps_commitLog (s : State) (p : Nat) (x : Port) : (State.setPort s p x).commitLog = s.commitLog := (State.setPort_only s p x).eq_commitLog (by decide)
@[simp] theorem State.setPort_keeps_recovered (s : State) (p : Nat) (x : Port) : (State.setPort s p x).recovered = s.recovered := (State.setPort_only s p x).eq_recovered (by decide)
@[simp] theorem State.setPort_keeps_cancelled (s : State) (p : Nat) (x : Port) : (State.setPort s p x).cancelled = s.cancelled := (State.setPort_only s p x).eq_cancelled (by decide)
@[simp] theorem State.setPort_keeps_recoveredCommits (s : State) (p : Nat) (x : Port) : (State.setPort s p x).recoveredCommits = s.recoveredCommits := (State.setPort_only s p x).eq_recoveredCommits (by decide)
@[simp] theorem State.setPort_keeps_latency (s : State) (p : Nat) (x : Port) : (State.setPort s p x).latency = s.latency := (State.setPort_only s p x).eq_latency (by decide)
@[simp] theorem State.setPort_keeps_engineQueues (s : State) (p : Nat) (x : Port) : (State.setPort s p x).engineQueues = s.engineQueues := (State.setPort_only s p x).eq_engineQueues (by decide)
@[simp] theorem State.setPort_keeps_marver (s : State) (p : Nat) (x : Port) : (State.setPort s p x).marver = s.marver := (State.setPort_only s p x).eq_marver (by decide)
@[simp] theorem State.setPort_keeps_pcs (s : State) (p : Nat) (x : Port) : (State.setPort s p x).pcs = s.pcs := (State.setPort_only s p x).eq_pcs (by decide)
@[simp] theorem State.setPort_keeps_stageRows (s : State) (p : Nat) (x : Port) : (State.setPort s p x).stageRows = s.stageRows := (State.setPort_only s p x).eq_stageRows (by decide)
@[simp] theorem State.setPort_keeps_windows (s : State) (p : Nat) (x : Port) : (State.setPort s p x).windows = s.windows := (State.setPort_only s p x).eq_windows (by decide)
@[simp] theorem State.setPort_keeps_mem (s : State) (p : Nat) (x : Port) : (State.setPort s p x).mem = s.mem := (State.setPort_only s p x).eq_mem (by decide)
@[simp] theorem State.setPort_keeps_placed (s : State) (p : Nat) (x : Port) : (State.setPort s p x).placed = s.placed := (State.setPort_only s p x).eq_placed (by decide)
@[simp] theorem State.setPort_keeps_integrity (s : State) (p : Nat) (x : Port) : (State.setPort s p x).integrity = s.integrity := (State.setPort_only s p x).eq_integrity (by decide)
@[simp] theorem State.setPort_keeps_regulator (s : State) (p : Nat) (x : Port) : (State.setPort s p x).regulator = s.regulator := (State.setPort_only s p x).eq_regulator (by decide)

@[simp] theorem State.setQueue_keeps_pending (s : State) (q : Nat) (x : Queue) : (State.setQueue s q x).pending = s.pending := (State.setQueue_only s q x).eq_pending (by decide)
@[simp] theorem State.setQueue_keeps_out (s : State) (q : Nat) (x : Queue) : (State.setQueue s q x).out = s.out := (State.setQueue_only s q x).eq_out (by decide)
@[simp] theorem State.setQueue_keeps_heldOut (s : State) (q : Nat) (x : Queue) : (State.setQueue s q x).heldOut = s.heldOut := (State.setQueue_only s q x).eq_heldOut (by decide)
@[simp] theorem State.setQueue_keeps_free (s : State) (q : Nat) (x : Queue) : (State.setQueue s q x).free = s.free := (State.setQueue_only s q x).eq_free (by decide)
@[simp] theorem State.setQueue_keeps_time (s : State) (q : Nat) (x : Queue) : (State.setQueue s q x).time = s.time := (State.setQueue_only s q x).eq_time (by decide)
@[simp] theorem State.setQueue_keeps_pilot (s : State) (q : Nat) (x : Queue) : (State.setQueue s q x).pilot = s.pilot := (State.setQueue_only s q x).eq_pilot (by decide)
@[simp] theorem State.setQueue_keeps_dom (s : State) (q : Nat) (x : Queue) : (State.setQueue s q x).dom = s.dom := (State.setQueue_only s q x).eq_dom (by decide)
@[simp] theorem State.setQueue_keeps_regs (s : State) (q : Nat) (x : Queue) : (State.setQueue s q x).regs = s.regs := (State.setQueue_only s q x).eq_regs (by decide)
@[simp] theorem State.setQueue_keeps_latches (s : State) (q : Nat) (x : Queue) : (State.setQueue s q x).latches = s.latches := (State.setQueue_only s q x).eq_latches (by decide)
@[simp] theorem State.setQueue_keeps_pcie (s : State) (q : Nat) (x : Queue) : (State.setQueue s q x).pcie = s.pcie := (State.setQueue_only s q x).eq_pcie (by decide)
@[simp] theorem State.setQueue_keeps_log (s : State) (q : Nat) (x : Queue) : (State.setQueue s q x).log = s.log := (State.setQueue_only s q x).eq_log (by decide)
@[simp] theorem State.setQueue_keeps_logWritten (s : State) (q : Nat) (x : Queue) : (State.setQueue s q x).logWritten = s.logWritten := (State.setQueue_only s q x).eq_logWritten (by decide)
@[simp] theorem State.setQueue_keeps_rings (s : State) (q : Nat) (x : Queue) : (State.setQueue s q x).rings = s.rings := (State.setQueue_only s q x).eq_rings (by decide)
@[simp] theorem State.setQueue_keeps_resetting (s : State) (q : Nat) (x : Queue) : (State.setQueue s q x).resetting = s.resetting := (State.setQueue_only s q x).eq_resetting (by decide)
@[simp] theorem State.setQueue_keeps_quiesce (s : State) (q : Nat) (x : Queue) : (State.setQueue s q x).quiesce = s.quiesce := (State.setQueue_only s q x).eq_quiesce (by decide)
@[simp] theorem State.setQueue_keeps_lines (s : State) (q : Nat) (x : Queue) : (State.setQueue s q x).lines = s.lines := (State.setQueue_only s q x).eq_lines (by decide)
@[simp] theorem State.setQueue_keeps_pulses (s : State) (q : Nat) (x : Queue) : (State.setQueue s q x).pulses = s.pulses := (State.setQueue_only s q x).eq_pulses (by decide)
@[simp] theorem State.setQueue_keeps_channels (s : State) (q : Nat) (x : Queue) : (State.setQueue s q x).channels = s.channels := (State.setQueue_only s q x).eq_channels (by decide)
@[simp] theorem State.setQueue_keeps_fuses (s : State) (q : Nat) (x : Queue) : (State.setQueue s q x).fuses = s.fuses := (State.setQueue_only s q x).eq_fuses (by decide)
@[simp] theorem State.setQueue_keeps_trust (s : State) (q : Nat) (x : Queue) : (State.setQueue s q x).trust = s.trust := (State.setQueue_only s q x).eq_trust (by decide)
@[simp] theorem State.setQueue_keeps_sensors (s : State) (q : Nat) (x : Queue) : (State.setQueue s q x).sensors = s.sensors := (State.setQueue_only s q x).eq_sensors (by decide)
@[simp] theorem State.setQueue_keeps_layers (s : State) (q : Nat) (x : Queue) : (State.setQueue s q x).layers = s.layers := (State.setQueue_only s q x).eq_layers (by decide)
@[simp] theorem State.setQueue_keeps_thermal (s : State) (q : Nat) (x : Queue) : (State.setQueue s q x).thermal = s.thermal := (State.setQueue_only s q x).eq_thermal (by decide)
@[simp] theorem State.setQueue_keeps_test (s : State) (q : Nat) (x : Queue) : (State.setQueue s q x).test = s.test := (State.setQueue_only s q x).eq_test (by decide)
@[simp] theorem State.setQueue_keeps_sideband (s : State) (q : Nat) (x : Queue) : (State.setQueue s q x).sideband = s.sideband := (State.setQueue_only s q x).eq_sideband (by decide)
@[simp] theorem State.setQueue_keeps_ports (s : State) (q : Nat) (x : Queue) : (State.setQueue s q x).ports = s.ports := (State.setQueue_only s q x).eq_ports (by decide)
@[simp] theorem State.setQueue_keeps_lanes (s : State) (q : Nat) (x : Queue) : (State.setQueue s q x).lanes = s.lanes := (State.setQueue_only s q x).eq_lanes (by decide)
@[simp] theorem State.setQueue_keeps_queueChanges (s : State) (q : Nat) (x : Queue) : (State.setQueue s q x).queueChanges = s.queueChanges := (State.setQueue_only s q x).eq_queueChanges (by decide)
@[simp] theorem State.setQueue_keeps_snapshots (s : State) (q : Nat) (x : Queue) : (State.setQueue s q x).snapshots = s.snapshots := (State.setQueue_only s q x).eq_snapshots (by decide)
@[simp] theorem State.setQueue_keeps_snapPending (s : State) (q : Nat) (x : Queue) : (State.setQueue s q x).snapPending = s.snapPending := (State.setQueue_only s q x).eq_snapPending (by decide)
@[simp] theorem State.setQueue_keeps_tables (s : State) (q : Nat) (x : Queue) : (State.setQueue s q x).tables = s.tables := (State.setQueue_only s q x).eq_tables (by decide)
@[simp] theorem State.setQueue_keeps_dead (s : State) (q : Nat) (x : Queue) : (State.setQueue s q x).dead = s.dead := (State.setQueue_only s q x).eq_dead (by decide)
@[simp] theorem State.setQueue_keeps_commits (s : State) (q : Nat) (x : Queue) : (State.setQueue s q x).commits = s.commits := (State.setQueue_only s q x).eq_commits (by decide)
@[simp] theorem State.setQueue_keeps_commitLog (s : State) (q : Nat) (x : Queue) : (State.setQueue s q x).commitLog = s.commitLog := (State.setQueue_only s q x).eq_commitLog (by decide)
@[simp] theorem State.setQueue_keeps_recovered (s : State) (q : Nat) (x : Queue) : (State.setQueue s q x).recovered = s.recovered := (State.setQueue_only s q x).eq_recovered (by decide)
@[simp] theorem State.setQueue_keeps_cancelled (s : State) (q : Nat) (x : Queue) : (State.setQueue s q x).cancelled = s.cancelled := (State.setQueue_only s q x).eq_cancelled (by decide)
@[simp] theorem State.setQueue_keeps_recoveredCommits (s : State) (q : Nat) (x : Queue) : (State.setQueue s q x).recoveredCommits = s.recoveredCommits := (State.setQueue_only s q x).eq_recoveredCommits (by decide)
@[simp] theorem State.setQueue_keeps_latency (s : State) (q : Nat) (x : Queue) : (State.setQueue s q x).latency = s.latency := (State.setQueue_only s q x).eq_latency (by decide)
@[simp] theorem State.setQueue_keeps_engineQueues (s : State) (q : Nat) (x : Queue) : (State.setQueue s q x).engineQueues = s.engineQueues := (State.setQueue_only s q x).eq_engineQueues (by decide)
@[simp] theorem State.setQueue_keeps_marver (s : State) (q : Nat) (x : Queue) : (State.setQueue s q x).marver = s.marver := (State.setQueue_only s q x).eq_marver (by decide)
@[simp] theorem State.setQueue_keeps_pcs (s : State) (q : Nat) (x : Queue) : (State.setQueue s q x).pcs = s.pcs := (State.setQueue_only s q x).eq_pcs (by decide)
@[simp] theorem State.setQueue_keeps_stageRows (s : State) (q : Nat) (x : Queue) : (State.setQueue s q x).stageRows = s.stageRows := (State.setQueue_only s q x).eq_stageRows (by decide)
@[simp] theorem State.setQueue_keeps_windows (s : State) (q : Nat) (x : Queue) : (State.setQueue s q x).windows = s.windows := (State.setQueue_only s q x).eq_windows (by decide)
@[simp] theorem State.setQueue_keeps_mem (s : State) (q : Nat) (x : Queue) : (State.setQueue s q x).mem = s.mem := (State.setQueue_only s q x).eq_mem (by decide)
@[simp] theorem State.setQueue_keeps_placed (s : State) (q : Nat) (x : Queue) : (State.setQueue s q x).placed = s.placed := (State.setQueue_only s q x).eq_placed (by decide)
@[simp] theorem State.setQueue_keeps_integrity (s : State) (q : Nat) (x : Queue) : (State.setQueue s q x).integrity = s.integrity := (State.setQueue_only s q x).eq_integrity (by decide)
@[simp] theorem State.setQueue_keeps_regulator (s : State) (q : Nat) (x : Queue) : (State.setQueue s q x).regulator = s.regulator := (State.setQueue_only s q x).eq_regulator (by decide)

@[simp] theorem State.putTable_keeps_pending (s : State) (n : Nat) (t : Option Table) : (State.putTable s n t).pending = s.pending := (State.putTable_only s n t).eq_pending (by decide)
@[simp] theorem State.putTable_keeps_out (s : State) (n : Nat) (t : Option Table) : (State.putTable s n t).out = s.out := (State.putTable_only s n t).eq_out (by decide)
@[simp] theorem State.putTable_keeps_heldOut (s : State) (n : Nat) (t : Option Table) : (State.putTable s n t).heldOut = s.heldOut := (State.putTable_only s n t).eq_heldOut (by decide)
@[simp] theorem State.putTable_keeps_free (s : State) (n : Nat) (t : Option Table) : (State.putTable s n t).free = s.free := (State.putTable_only s n t).eq_free (by decide)
@[simp] theorem State.putTable_keeps_time (s : State) (n : Nat) (t : Option Table) : (State.putTable s n t).time = s.time := (State.putTable_only s n t).eq_time (by decide)
@[simp] theorem State.putTable_keeps_pilot (s : State) (n : Nat) (t : Option Table) : (State.putTable s n t).pilot = s.pilot := (State.putTable_only s n t).eq_pilot (by decide)
@[simp] theorem State.putTable_keeps_dom (s : State) (n : Nat) (t : Option Table) : (State.putTable s n t).dom = s.dom := (State.putTable_only s n t).eq_dom (by decide)
@[simp] theorem State.putTable_keeps_regs (s : State) (n : Nat) (t : Option Table) : (State.putTable s n t).regs = s.regs := (State.putTable_only s n t).eq_regs (by decide)
@[simp] theorem State.putTable_keeps_latches (s : State) (n : Nat) (t : Option Table) : (State.putTable s n t).latches = s.latches := (State.putTable_only s n t).eq_latches (by decide)
@[simp] theorem State.putTable_keeps_pcie (s : State) (n : Nat) (t : Option Table) : (State.putTable s n t).pcie = s.pcie := (State.putTable_only s n t).eq_pcie (by decide)
@[simp] theorem State.putTable_keeps_log (s : State) (n : Nat) (t : Option Table) : (State.putTable s n t).log = s.log := (State.putTable_only s n t).eq_log (by decide)
@[simp] theorem State.putTable_keeps_logWritten (s : State) (n : Nat) (t : Option Table) : (State.putTable s n t).logWritten = s.logWritten := (State.putTable_only s n t).eq_logWritten (by decide)
@[simp] theorem State.putTable_keeps_rings (s : State) (n : Nat) (t : Option Table) : (State.putTable s n t).rings = s.rings := (State.putTable_only s n t).eq_rings (by decide)
@[simp] theorem State.putTable_keeps_resetting (s : State) (n : Nat) (t : Option Table) : (State.putTable s n t).resetting = s.resetting := (State.putTable_only s n t).eq_resetting (by decide)
@[simp] theorem State.putTable_keeps_quiesce (s : State) (n : Nat) (t : Option Table) : (State.putTable s n t).quiesce = s.quiesce := (State.putTable_only s n t).eq_quiesce (by decide)
@[simp] theorem State.putTable_keeps_lines (s : State) (n : Nat) (t : Option Table) : (State.putTable s n t).lines = s.lines := (State.putTable_only s n t).eq_lines (by decide)
@[simp] theorem State.putTable_keeps_pulses (s : State) (n : Nat) (t : Option Table) : (State.putTable s n t).pulses = s.pulses := (State.putTable_only s n t).eq_pulses (by decide)
@[simp] theorem State.putTable_keeps_channels (s : State) (n : Nat) (t : Option Table) : (State.putTable s n t).channels = s.channels := (State.putTable_only s n t).eq_channels (by decide)
@[simp] theorem State.putTable_keeps_fuses (s : State) (n : Nat) (t : Option Table) : (State.putTable s n t).fuses = s.fuses := (State.putTable_only s n t).eq_fuses (by decide)
@[simp] theorem State.putTable_keeps_trust (s : State) (n : Nat) (t : Option Table) : (State.putTable s n t).trust = s.trust := (State.putTable_only s n t).eq_trust (by decide)
@[simp] theorem State.putTable_keeps_sensors (s : State) (n : Nat) (t : Option Table) : (State.putTable s n t).sensors = s.sensors := (State.putTable_only s n t).eq_sensors (by decide)
@[simp] theorem State.putTable_keeps_layers (s : State) (n : Nat) (t : Option Table) : (State.putTable s n t).layers = s.layers := (State.putTable_only s n t).eq_layers (by decide)
@[simp] theorem State.putTable_keeps_thermal (s : State) (n : Nat) (t : Option Table) : (State.putTable s n t).thermal = s.thermal := (State.putTable_only s n t).eq_thermal (by decide)
@[simp] theorem State.putTable_keeps_test (s : State) (n : Nat) (t : Option Table) : (State.putTable s n t).test = s.test := (State.putTable_only s n t).eq_test (by decide)
@[simp] theorem State.putTable_keeps_sideband (s : State) (n : Nat) (t : Option Table) : (State.putTable s n t).sideband = s.sideband := (State.putTable_only s n t).eq_sideband (by decide)
@[simp] theorem State.putTable_keeps_ports (s : State) (n : Nat) (t : Option Table) : (State.putTable s n t).ports = s.ports := (State.putTable_only s n t).eq_ports (by decide)
@[simp] theorem State.putTable_keeps_lanes (s : State) (n : Nat) (t : Option Table) : (State.putTable s n t).lanes = s.lanes := (State.putTable_only s n t).eq_lanes (by decide)
@[simp] theorem State.putTable_keeps_queues (s : State) (n : Nat) (t : Option Table) : (State.putTable s n t).queues = s.queues := (State.putTable_only s n t).eq_queues (by decide)
@[simp] theorem State.putTable_keeps_queueChanges (s : State) (n : Nat) (t : Option Table) : (State.putTable s n t).queueChanges = s.queueChanges := (State.putTable_only s n t).eq_queueChanges (by decide)
@[simp] theorem State.putTable_keeps_snapshots (s : State) (n : Nat) (t : Option Table) : (State.putTable s n t).snapshots = s.snapshots := (State.putTable_only s n t).eq_snapshots (by decide)
@[simp] theorem State.putTable_keeps_snapPending (s : State) (n : Nat) (t : Option Table) : (State.putTable s n t).snapPending = s.snapPending := (State.putTable_only s n t).eq_snapPending (by decide)
@[simp] theorem State.putTable_keeps_dead (s : State) (n : Nat) (t : Option Table) : (State.putTable s n t).dead = s.dead := (State.putTable_only s n t).eq_dead (by decide)
@[simp] theorem State.putTable_keeps_commits (s : State) (n : Nat) (t : Option Table) : (State.putTable s n t).commits = s.commits := (State.putTable_only s n t).eq_commits (by decide)
@[simp] theorem State.putTable_keeps_commitLog (s : State) (n : Nat) (t : Option Table) : (State.putTable s n t).commitLog = s.commitLog := (State.putTable_only s n t).eq_commitLog (by decide)
@[simp] theorem State.putTable_keeps_recovered (s : State) (n : Nat) (t : Option Table) : (State.putTable s n t).recovered = s.recovered := (State.putTable_only s n t).eq_recovered (by decide)
@[simp] theorem State.putTable_keeps_cancelled (s : State) (n : Nat) (t : Option Table) : (State.putTable s n t).cancelled = s.cancelled := (State.putTable_only s n t).eq_cancelled (by decide)
@[simp] theorem State.putTable_keeps_recoveredCommits (s : State) (n : Nat) (t : Option Table) : (State.putTable s n t).recoveredCommits = s.recoveredCommits := (State.putTable_only s n t).eq_recoveredCommits (by decide)
@[simp] theorem State.putTable_keeps_latency (s : State) (n : Nat) (t : Option Table) : (State.putTable s n t).latency = s.latency := (State.putTable_only s n t).eq_latency (by decide)
@[simp] theorem State.putTable_keeps_engineQueues (s : State) (n : Nat) (t : Option Table) : (State.putTable s n t).engineQueues = s.engineQueues := (State.putTable_only s n t).eq_engineQueues (by decide)
@[simp] theorem State.putTable_keeps_marver (s : State) (n : Nat) (t : Option Table) : (State.putTable s n t).marver = s.marver := (State.putTable_only s n t).eq_marver (by decide)
@[simp] theorem State.putTable_keeps_pcs (s : State) (n : Nat) (t : Option Table) : (State.putTable s n t).pcs = s.pcs := (State.putTable_only s n t).eq_pcs (by decide)
@[simp] theorem State.putTable_keeps_stageRows (s : State) (n : Nat) (t : Option Table) : (State.putTable s n t).stageRows = s.stageRows := (State.putTable_only s n t).eq_stageRows (by decide)
@[simp] theorem State.putTable_keeps_windows (s : State) (n : Nat) (t : Option Table) : (State.putTable s n t).windows = s.windows := (State.putTable_only s n t).eq_windows (by decide)
@[simp] theorem State.putTable_keeps_mem (s : State) (n : Nat) (t : Option Table) : (State.putTable s n t).mem = s.mem := (State.putTable_only s n t).eq_mem (by decide)
@[simp] theorem State.putTable_keeps_placed (s : State) (n : Nat) (t : Option Table) : (State.putTable s n t).placed = s.placed := (State.putTable_only s n t).eq_placed (by decide)
@[simp] theorem State.putTable_keeps_integrity (s : State) (n : Nat) (t : Option Table) : (State.putTable s n t).integrity = s.integrity := (State.putTable_only s n t).eq_integrity (by decide)
@[simp] theorem State.putTable_keeps_regulator (s : State) (n : Nat) (t : Option Table) : (State.putTable s n t).regulator = s.regulator := (State.putTable_only s n t).eq_regulator (by decide)

@[simp] theorem State.setPc_keeps_pending (s : State) (n : Nat) (x : Pc) : (State.setPc s n x).pending = s.pending := (State.setPc_only s n x).eq_pending (by decide)
@[simp] theorem State.setPc_keeps_out (s : State) (n : Nat) (x : Pc) : (State.setPc s n x).out = s.out := (State.setPc_only s n x).eq_out (by decide)
@[simp] theorem State.setPc_keeps_heldOut (s : State) (n : Nat) (x : Pc) : (State.setPc s n x).heldOut = s.heldOut := (State.setPc_only s n x).eq_heldOut (by decide)
@[simp] theorem State.setPc_keeps_free (s : State) (n : Nat) (x : Pc) : (State.setPc s n x).free = s.free := (State.setPc_only s n x).eq_free (by decide)
@[simp] theorem State.setPc_keeps_time (s : State) (n : Nat) (x : Pc) : (State.setPc s n x).time = s.time := (State.setPc_only s n x).eq_time (by decide)
@[simp] theorem State.setPc_keeps_pilot (s : State) (n : Nat) (x : Pc) : (State.setPc s n x).pilot = s.pilot := (State.setPc_only s n x).eq_pilot (by decide)
@[simp] theorem State.setPc_keeps_dom (s : State) (n : Nat) (x : Pc) : (State.setPc s n x).dom = s.dom := (State.setPc_only s n x).eq_dom (by decide)
@[simp] theorem State.setPc_keeps_latches (s : State) (n : Nat) (x : Pc) : (State.setPc s n x).latches = s.latches := (State.setPc_only s n x).eq_latches (by decide)
@[simp] theorem State.setPc_keeps_pcie (s : State) (n : Nat) (x : Pc) : (State.setPc s n x).pcie = s.pcie := (State.setPc_only s n x).eq_pcie (by decide)
@[simp] theorem State.setPc_keeps_log (s : State) (n : Nat) (x : Pc) : (State.setPc s n x).log = s.log := (State.setPc_only s n x).eq_log (by decide)
@[simp] theorem State.setPc_keeps_logWritten (s : State) (n : Nat) (x : Pc) : (State.setPc s n x).logWritten = s.logWritten := (State.setPc_only s n x).eq_logWritten (by decide)
@[simp] theorem State.setPc_keeps_rings (s : State) (n : Nat) (x : Pc) : (State.setPc s n x).rings = s.rings := (State.setPc_only s n x).eq_rings (by decide)
@[simp] theorem State.setPc_keeps_resetting (s : State) (n : Nat) (x : Pc) : (State.setPc s n x).resetting = s.resetting := (State.setPc_only s n x).eq_resetting (by decide)
@[simp] theorem State.setPc_keeps_quiesce (s : State) (n : Nat) (x : Pc) : (State.setPc s n x).quiesce = s.quiesce := (State.setPc_only s n x).eq_quiesce (by decide)
@[simp] theorem State.setPc_keeps_lines (s : State) (n : Nat) (x : Pc) : (State.setPc s n x).lines = s.lines := (State.setPc_only s n x).eq_lines (by decide)
@[simp] theorem State.setPc_keeps_pulses (s : State) (n : Nat) (x : Pc) : (State.setPc s n x).pulses = s.pulses := (State.setPc_only s n x).eq_pulses (by decide)
@[simp] theorem State.setPc_keeps_channels (s : State) (n : Nat) (x : Pc) : (State.setPc s n x).channels = s.channels := (State.setPc_only s n x).eq_channels (by decide)
@[simp] theorem State.setPc_keeps_fuses (s : State) (n : Nat) (x : Pc) : (State.setPc s n x).fuses = s.fuses := (State.setPc_only s n x).eq_fuses (by decide)
@[simp] theorem State.setPc_keeps_trust (s : State) (n : Nat) (x : Pc) : (State.setPc s n x).trust = s.trust := (State.setPc_only s n x).eq_trust (by decide)
@[simp] theorem State.setPc_keeps_sensors (s : State) (n : Nat) (x : Pc) : (State.setPc s n x).sensors = s.sensors := (State.setPc_only s n x).eq_sensors (by decide)
@[simp] theorem State.setPc_keeps_layers (s : State) (n : Nat) (x : Pc) : (State.setPc s n x).layers = s.layers := (State.setPc_only s n x).eq_layers (by decide)
@[simp] theorem State.setPc_keeps_thermal (s : State) (n : Nat) (x : Pc) : (State.setPc s n x).thermal = s.thermal := (State.setPc_only s n x).eq_thermal (by decide)
@[simp] theorem State.setPc_keeps_test (s : State) (n : Nat) (x : Pc) : (State.setPc s n x).test = s.test := (State.setPc_only s n x).eq_test (by decide)
@[simp] theorem State.setPc_keeps_sideband (s : State) (n : Nat) (x : Pc) : (State.setPc s n x).sideband = s.sideband := (State.setPc_only s n x).eq_sideband (by decide)
@[simp] theorem State.setPc_keeps_ports (s : State) (n : Nat) (x : Pc) : (State.setPc s n x).ports = s.ports := (State.setPc_only s n x).eq_ports (by decide)
@[simp] theorem State.setPc_keeps_lanes (s : State) (n : Nat) (x : Pc) : (State.setPc s n x).lanes = s.lanes := (State.setPc_only s n x).eq_lanes (by decide)
@[simp] theorem State.setPc_keeps_queues (s : State) (n : Nat) (x : Pc) : (State.setPc s n x).queues = s.queues := (State.setPc_only s n x).eq_queues (by decide)
@[simp] theorem State.setPc_keeps_queueChanges (s : State) (n : Nat) (x : Pc) : (State.setPc s n x).queueChanges = s.queueChanges := (State.setPc_only s n x).eq_queueChanges (by decide)
@[simp] theorem State.setPc_keeps_snapshots (s : State) (n : Nat) (x : Pc) : (State.setPc s n x).snapshots = s.snapshots := (State.setPc_only s n x).eq_snapshots (by decide)
@[simp] theorem State.setPc_keeps_snapPending (s : State) (n : Nat) (x : Pc) : (State.setPc s n x).snapPending = s.snapPending := (State.setPc_only s n x).eq_snapPending (by decide)
@[simp] theorem State.setPc_keeps_tables (s : State) (n : Nat) (x : Pc) : (State.setPc s n x).tables = s.tables := (State.setPc_only s n x).eq_tables (by decide)
@[simp] theorem State.setPc_keeps_dead (s : State) (n : Nat) (x : Pc) : (State.setPc s n x).dead = s.dead := (State.setPc_only s n x).eq_dead (by decide)
@[simp] theorem State.setPc_keeps_commits (s : State) (n : Nat) (x : Pc) : (State.setPc s n x).commits = s.commits := (State.setPc_only s n x).eq_commits (by decide)
@[simp] theorem State.setPc_keeps_commitLog (s : State) (n : Nat) (x : Pc) : (State.setPc s n x).commitLog = s.commitLog := (State.setPc_only s n x).eq_commitLog (by decide)
@[simp] theorem State.setPc_keeps_recovered (s : State) (n : Nat) (x : Pc) : (State.setPc s n x).recovered = s.recovered := (State.setPc_only s n x).eq_recovered (by decide)
@[simp] theorem State.setPc_keeps_cancelled (s : State) (n : Nat) (x : Pc) : (State.setPc s n x).cancelled = s.cancelled := (State.setPc_only s n x).eq_cancelled (by decide)
@[simp] theorem State.setPc_keeps_recoveredCommits (s : State) (n : Nat) (x : Pc) : (State.setPc s n x).recoveredCommits = s.recoveredCommits := (State.setPc_only s n x).eq_recoveredCommits (by decide)
@[simp] theorem State.setPc_keeps_latency (s : State) (n : Nat) (x : Pc) : (State.setPc s n x).latency = s.latency := (State.setPc_only s n x).eq_latency (by decide)
@[simp] theorem State.setPc_keeps_engineQueues (s : State) (n : Nat) (x : Pc) : (State.setPc s n x).engineQueues = s.engineQueues := (State.setPc_only s n x).eq_engineQueues (by decide)
@[simp] theorem State.setPc_keeps_marver (s : State) (n : Nat) (x : Pc) : (State.setPc s n x).marver = s.marver := (State.setPc_only s n x).eq_marver (by decide)
@[simp] theorem State.setPc_keeps_stageRows (s : State) (n : Nat) (x : Pc) : (State.setPc s n x).stageRows = s.stageRows := (State.setPc_only s n x).eq_stageRows (by decide)
@[simp] theorem State.setPc_keeps_windows (s : State) (n : Nat) (x : Pc) : (State.setPc s n x).windows = s.windows := (State.setPc_only s n x).eq_windows (by decide)
@[simp] theorem State.setPc_keeps_mem (s : State) (n : Nat) (x : Pc) : (State.setPc s n x).mem = s.mem := (State.setPc_only s n x).eq_mem (by decide)
@[simp] theorem State.setPc_keeps_placed (s : State) (n : Nat) (x : Pc) : (State.setPc s n x).placed = s.placed := (State.setPc_only s n x).eq_placed (by decide)
@[simp] theorem State.setPc_keeps_integrity (s : State) (n : Nat) (x : Pc) : (State.setPc s n x).integrity = s.integrity := (State.setPc_only s n x).eq_integrity (by decide)
@[simp] theorem State.setPc_keeps_regulator (s : State) (n : Nat) (x : Pc) : (State.setPc s n x).regulator = s.regulator := (State.setPc_only s n x).eq_regulator (by decide)

@[simp] theorem State.setFs_keeps_pending (s : State) (l : List (Fld × Nat)) : (s.setFs l).pending = s.pending := (State.setFs_only s l).eq_pending (by decide)
@[simp] theorem State.setFs_keeps_out (s : State) (l : List (Fld × Nat)) : (s.setFs l).out = s.out := (State.setFs_only s l).eq_out (by decide)
@[simp] theorem State.setFs_keeps_heldOut (s : State) (l : List (Fld × Nat)) : (s.setFs l).heldOut = s.heldOut := (State.setFs_only s l).eq_heldOut (by decide)
@[simp] theorem State.setFs_keeps_free (s : State) (l : List (Fld × Nat)) : (s.setFs l).free = s.free := (State.setFs_only s l).eq_free (by decide)
@[simp] theorem State.setFs_keeps_time (s : State) (l : List (Fld × Nat)) : (s.setFs l).time = s.time := (State.setFs_only s l).eq_time (by decide)
@[simp] theorem State.setFs_keeps_pilot (s : State) (l : List (Fld × Nat)) : (s.setFs l).pilot = s.pilot := (State.setFs_only s l).eq_pilot (by decide)
@[simp] theorem State.setFs_keeps_dom (s : State) (l : List (Fld × Nat)) : (s.setFs l).dom = s.dom := (State.setFs_only s l).eq_dom (by decide)
@[simp] theorem State.setFs_keeps_latches (s : State) (l : List (Fld × Nat)) : (s.setFs l).latches = s.latches := (State.setFs_only s l).eq_latches (by decide)
@[simp] theorem State.setFs_keeps_pcie (s : State) (l : List (Fld × Nat)) : (s.setFs l).pcie = s.pcie := (State.setFs_only s l).eq_pcie (by decide)
@[simp] theorem State.setFs_keeps_log (s : State) (l : List (Fld × Nat)) : (s.setFs l).log = s.log := (State.setFs_only s l).eq_log (by decide)
@[simp] theorem State.setFs_keeps_logWritten (s : State) (l : List (Fld × Nat)) : (s.setFs l).logWritten = s.logWritten := (State.setFs_only s l).eq_logWritten (by decide)
@[simp] theorem State.setFs_keeps_rings (s : State) (l : List (Fld × Nat)) : (s.setFs l).rings = s.rings := (State.setFs_only s l).eq_rings (by decide)
@[simp] theorem State.setFs_keeps_resetting (s : State) (l : List (Fld × Nat)) : (s.setFs l).resetting = s.resetting := (State.setFs_only s l).eq_resetting (by decide)
@[simp] theorem State.setFs_keeps_quiesce (s : State) (l : List (Fld × Nat)) : (s.setFs l).quiesce = s.quiesce := (State.setFs_only s l).eq_quiesce (by decide)
@[simp] theorem State.setFs_keeps_lines (s : State) (l : List (Fld × Nat)) : (s.setFs l).lines = s.lines := (State.setFs_only s l).eq_lines (by decide)
@[simp] theorem State.setFs_keeps_pulses (s : State) (l : List (Fld × Nat)) : (s.setFs l).pulses = s.pulses := (State.setFs_only s l).eq_pulses (by decide)
@[simp] theorem State.setFs_keeps_channels (s : State) (l : List (Fld × Nat)) : (s.setFs l).channels = s.channels := (State.setFs_only s l).eq_channels (by decide)
@[simp] theorem State.setFs_keeps_fuses (s : State) (l : List (Fld × Nat)) : (s.setFs l).fuses = s.fuses := (State.setFs_only s l).eq_fuses (by decide)
@[simp] theorem State.setFs_keeps_trust (s : State) (l : List (Fld × Nat)) : (s.setFs l).trust = s.trust := (State.setFs_only s l).eq_trust (by decide)
@[simp] theorem State.setFs_keeps_sensors (s : State) (l : List (Fld × Nat)) : (s.setFs l).sensors = s.sensors := (State.setFs_only s l).eq_sensors (by decide)
@[simp] theorem State.setFs_keeps_layers (s : State) (l : List (Fld × Nat)) : (s.setFs l).layers = s.layers := (State.setFs_only s l).eq_layers (by decide)
@[simp] theorem State.setFs_keeps_thermal (s : State) (l : List (Fld × Nat)) : (s.setFs l).thermal = s.thermal := (State.setFs_only s l).eq_thermal (by decide)
@[simp] theorem State.setFs_keeps_test (s : State) (l : List (Fld × Nat)) : (s.setFs l).test = s.test := (State.setFs_only s l).eq_test (by decide)
@[simp] theorem State.setFs_keeps_sideband (s : State) (l : List (Fld × Nat)) : (s.setFs l).sideband = s.sideband := (State.setFs_only s l).eq_sideband (by decide)
@[simp] theorem State.setFs_keeps_ports (s : State) (l : List (Fld × Nat)) : (s.setFs l).ports = s.ports := (State.setFs_only s l).eq_ports (by decide)
@[simp] theorem State.setFs_keeps_lanes (s : State) (l : List (Fld × Nat)) : (s.setFs l).lanes = s.lanes := (State.setFs_only s l).eq_lanes (by decide)
@[simp] theorem State.setFs_keeps_queues (s : State) (l : List (Fld × Nat)) : (s.setFs l).queues = s.queues := (State.setFs_only s l).eq_queues (by decide)
@[simp] theorem State.setFs_keeps_queueChanges (s : State) (l : List (Fld × Nat)) : (s.setFs l).queueChanges = s.queueChanges := (State.setFs_only s l).eq_queueChanges (by decide)
@[simp] theorem State.setFs_keeps_snapshots (s : State) (l : List (Fld × Nat)) : (s.setFs l).snapshots = s.snapshots := (State.setFs_only s l).eq_snapshots (by decide)
@[simp] theorem State.setFs_keeps_snapPending (s : State) (l : List (Fld × Nat)) : (s.setFs l).snapPending = s.snapPending := (State.setFs_only s l).eq_snapPending (by decide)
@[simp] theorem State.setFs_keeps_tables (s : State) (l : List (Fld × Nat)) : (s.setFs l).tables = s.tables := (State.setFs_only s l).eq_tables (by decide)
@[simp] theorem State.setFs_keeps_dead (s : State) (l : List (Fld × Nat)) : (s.setFs l).dead = s.dead := (State.setFs_only s l).eq_dead (by decide)
@[simp] theorem State.setFs_keeps_commits (s : State) (l : List (Fld × Nat)) : (s.setFs l).commits = s.commits := (State.setFs_only s l).eq_commits (by decide)
@[simp] theorem State.setFs_keeps_commitLog (s : State) (l : List (Fld × Nat)) : (s.setFs l).commitLog = s.commitLog := (State.setFs_only s l).eq_commitLog (by decide)
@[simp] theorem State.setFs_keeps_recovered (s : State) (l : List (Fld × Nat)) : (s.setFs l).recovered = s.recovered := (State.setFs_only s l).eq_recovered (by decide)
@[simp] theorem State.setFs_keeps_cancelled (s : State) (l : List (Fld × Nat)) : (s.setFs l).cancelled = s.cancelled := (State.setFs_only s l).eq_cancelled (by decide)
@[simp] theorem State.setFs_keeps_recoveredCommits (s : State) (l : List (Fld × Nat)) : (s.setFs l).recoveredCommits = s.recoveredCommits := (State.setFs_only s l).eq_recoveredCommits (by decide)
@[simp] theorem State.setFs_keeps_latency (s : State) (l : List (Fld × Nat)) : (s.setFs l).latency = s.latency := (State.setFs_only s l).eq_latency (by decide)
@[simp] theorem State.setFs_keeps_engineQueues (s : State) (l : List (Fld × Nat)) : (s.setFs l).engineQueues = s.engineQueues := (State.setFs_only s l).eq_engineQueues (by decide)
@[simp] theorem State.setFs_keeps_marver (s : State) (l : List (Fld × Nat)) : (s.setFs l).marver = s.marver := (State.setFs_only s l).eq_marver (by decide)
@[simp] theorem State.setFs_keeps_pcs (s : State) (l : List (Fld × Nat)) : (s.setFs l).pcs = s.pcs := (State.setFs_only s l).eq_pcs (by decide)
@[simp] theorem State.setFs_keeps_stageRows (s : State) (l : List (Fld × Nat)) : (s.setFs l).stageRows = s.stageRows := (State.setFs_only s l).eq_stageRows (by decide)
@[simp] theorem State.setFs_keeps_windows (s : State) (l : List (Fld × Nat)) : (s.setFs l).windows = s.windows := (State.setFs_only s l).eq_windows (by decide)
@[simp] theorem State.setFs_keeps_mem (s : State) (l : List (Fld × Nat)) : (s.setFs l).mem = s.mem := (State.setFs_only s l).eq_mem (by decide)
@[simp] theorem State.setFs_keeps_placed (s : State) (l : List (Fld × Nat)) : (s.setFs l).placed = s.placed := (State.setFs_only s l).eq_placed (by decide)
@[simp] theorem State.setFs_keeps_integrity (s : State) (l : List (Fld × Nat)) : (s.setFs l).integrity = s.integrity := (State.setFs_only s l).eq_integrity (by decide)
@[simp] theorem State.setFs_keeps_regulator (s : State) (l : List (Fld × Nat)) : (s.setFs l).regulator = s.regulator := (State.setFs_only s l).eq_regulator (by decide)

end Sys2Proof.Machine
end

