-- ==== Sys2Proof/Laws/Ops.lean ====
section
/-!
SUPPORT. What reporting an event and completing a ring command do, each said once.
-/
namespace Sys2Proof.Machine

/-! ### Outputs -/

@[simp] theorem State.emit_out (s : State) (o : Output) : (s.emit o).out = o :: s.out := rfl

@[simp] theorem State.setRing_f (s : State) (r : Nat) (x : Ring) (k : Fld) : (s.setRing r x).f k = s.f k := rfl
@[simp] theorem State.emit_f (s : State) (o : Output) (k : Fld) : (s.emit o).f k = s.f k := rfl
@[simp] theorem State.syncRing_out (s : State) (r : Nat) : (s.syncRing r).out = s.out := rfl
@[simp] theorem State.syncRing_heldOut (s : State) (r : Nat) : (s.syncRing r).heldOut = s.heldOut := rfl
@[simp] theorem State.syncRing_pcie (s : State) (r : Nat) : (s.syncRing r).pcie = s.pcie := rfl

@[simp] theorem State.emitHost_pcie (s : State) (o : Output) : (s.emitHost o).pcie = s.pcie := by
  unfold State.emitHost
  split <;> rfl

@[simp] theorem State.emitHost_f (s : State) (o : Output) (k : Fld) : (s.emitHost o).f k = s.f k := by
  unfold State.emitHost
  split <;> rfl

@[simp] theorem State.emitHost_rings (s : State) (o : Output) : (s.emitHost o).rings = s.rings := by
  unfold State.emitHost
  split <;> rfl

@[simp] theorem State.emitHost_ring (s : State) (o : Output) (r : Nat) : (s.emitHost o).ring r = s.ring r := by
  unfold State.ring
  simp

@[simp] theorem State.emitHost_halted (s : State) (o : Output) : (s.emitHost o).halted = s.halted := by
  unfold State.halted State.safeHold State.banked State.on
  simp

/-- A vector sends one message, or leaves the outputs alone. -/
theorem State.vector_out (s : State) (v : Nat) :
    (s.vector v).heldOut = s.heldOut ∧ ((s.vector v).out = s.out ∨ ((s.vector v).out = .msix v :: s.out ∧ s.pcie.d3hot = false)) := by
  unfold State.vector
  split
  · next h =>
    refine ⟨rfl, .inr ⟨rfl, ?_⟩⟩
    unfold State.canSend at h
    revert h
    cases s.pcie.d3hot <;> simp
  · exact ⟨rfl, .inl rfl⟩

/-! ### Completions -/

/-- A state that holds exactly the completion, and one vector after it. -/
theorem Posts.of_emitHost {s t : State} {e : Sqe} {status result : Nat} {hosts : List Output} (hp : t.pcie = s.pcie)
    (h : if s.pcie.d3hot then t.out = s.out ∧ t.heldOut = nextCompletion e status result s :: (hosts ++ s.heldOut)
      else t.out = nextCompletion e status result s :: (hosts ++ s.out) ∧ t.heldOut = s.heldOut) :
    Posts e status result hosts s t ∧ Posts e status result hosts s (t.vector (16 + e.ring)) := by
  have hv := State.vector_out t (16 + e.ring)
  unfold Posts
  cases hd : s.pcie.d3hot <;> simp only [hd, if_true, if_false, Bool.false_eq_true] at h ⊢ <;> obtain ⟨h1, h2⟩ := h <;>
    obtain ⟨v1, v2 | ⟨v2, v3⟩⟩ := hv <;> simp_all

/-- Writing a completion (R467): the entry leaves or waits for D0, and its vector may follow. -/
theorem State.writeCompletion_posts (s : State) (e : Sqe) (status result : Nat) :
    Posts e status result [] s (s.writeCompletion e.ring e.tag status result) := by
  unfold State.writeCompletion
  simp only []
  split
  · refine (Posts.of_emitHost (by simp) ?_).2
    cases hd : s.pcie.d3hot <;> simp [State.emitHost, hd, nextCompletion]
  · refine (Posts.of_emitHost (by simp) ?_).1
    cases hd : s.pcie.d3hot <;> simp [State.emitHost, hd, nextCompletion]

/-- Completing the command of an entry that is in execution (R465, R467). -/
theorem State.done_posts {s : State} {e : Sqe} {status : Nat} (result : Nat) (h : Running e s) (hs : status ≠ 0x08) :
    Posts e status result [] s (s.done e status result) := by
  obtain ⟨h0, c, hc, -, hd⟩ := h
  unfold State.done State.complete
  simp only [h0, Bool.false_eq_true, if_false, bne_iff_ne.mpr hs, Bool.or_true, Bool.and_true, hc, hd]
  have hw := State.writeCompletion_posts (s.setRing e.ring { s.ring e.ring with live := (s.ring e.ring).live.erase c }) e status result
  unfold Posts at hw ⊢
  cases hp : s.pcie.d3hot <;> simpa [nextCompletion, hs, hp] using hw

/-- The same after host memory writes of the command. -/
theorem State.emitHost_done_posts {s : State} {e : Sqe} {status : Nat} (result : Nat) (h : Running e s) (hs : status ≠ 0x08) (o : Output) :
    Posts e status result [o] s ((s.emitHost o).done e status result) := by
  have h' : Running e (s.emitHost o) := by
    unfold Running at h ⊢
    simpa using h
  have hw := State.done_posts result h' hs
  unfold Posts at hw ⊢
  cases hd : s.pcie.d3hot <;> simp [State.emitHost, hd, nextCompletion] at hw ⊢ <;> exact hw

/-- A command in execution that nothing holds back runs its body. -/
theorem runCommand_running {op : Nat} {e : Sqe} {s : State} {body : State → State} {c : CmdSpec} (hc : specFor op = some c) (h : Running e s)
    (hq : s.quenched = true → c.quenchRefuses e = false) : runCommand op e s body = .next (body s) := by
  obtain ⟨h0, l, hl, hop, -⟩ := h
  have hm := List.mem_of_find?_eq_some hl
  have ht := List.find?_some hl
  have hs : s.started e = true := by
    unfold State.started
    rw [List.any_eq_true]
    exact ⟨l, hm, by simp_all⟩
  unfold runCommand
  simp only [hc, h0, Bool.false_eq_true, if_false, CmdSpec.check, hs, if_true, Bool.true_and]
  split
  · next hh =>
    simp only [Bool.and_eq_true] at hh
    simp [hq hh.1] at hh
  · rfl

/-- A command in execution whose body only completes it has that answer and no other effect. -/
theorem State.done_answers {s : State} {c : Instr} {e : Sqe} {status result : Nat} (hx : exec c s = .next (s.done e status result))
    (h : Running e s) (hs : status ≠ 0x08) : Answers c e status result s :=
  ⟨_, hx, State.done_posts result h hs, State.done_only s e status result, State.done_regs s e status result⟩

/-! ### Reports -/

/-- The newest entry after a report (R611 to R613). -/
theorem State.writeEntry_newest (s : State) (e : LogEvent) : Newest (s.writeEntry e) e.pre e.code e.unit := by
  unfold State.writeEntry Newest
  dsimp only
  split
  · exact ⟨_, rfl, rfl, rfl, rfl⟩
  · next n r hl =>
    split
    · next h =>
      unfold LogEvent.mergesWith at h
      simp only [Bool.and_eq_true, beq_iff_eq] at h
      exact ⟨_, rfl, by simp [h.1.1.1.1.1.1.symm], by simp [h.1.1.1.1.1.2.symm], by simp [h.1.1.1.2.symm]⟩
    · exact ⟨_, rfl, rfl, rfl, rfl⟩

theorem State.report_log (s : State) (e : LogEvent) : (s.report e).log = (s.writeEntry e).log := by
  unfold State.report
  dsimp only
  have hv : ∀ (t : State) (v : Nat), (t.vector v).log = t.log := fun t v => (State.vector_only t v).eq_log (by decide)
  split <;> split <;> simp [hv, State.setF]

theorem State.report_newest (s : State) (e : LogEvent) : Newest (s.report e) e.pre e.code e.unit := by
  have h := State.writeEntry_newest s e
  unfold Newest at h ⊢
  rw [State.report_log]
  exact h

/-- An event of severity 3 sets ALERT_PEND (R615). -/
theorem State.report_alert (s : State) (e : LogEvent) (h : e.severity = 3) : (s.report e).f elStatusAlertPend = 1 := by
  unfold State.report
  have hv : ∀ (t : State) (v : Nat), (t.vector v).f elStatusAlertPend = t.f elStatusAlertPend :=
    fun t v => State.f_congr ((State.vector_only t v).eq_regs (by decide)) _
  dsimp only
  split <;> simp [h, hv]

end Sys2Proof.Machine
end

