-- ==== Sys2Proof/Laws/Pack.lean ====
section
/-!
SUPPORT. Packing a packet into blocks (R244, R247): no byte of it is lost.
-/
namespace Sys2Proof.Machine

/-- The bytes of the blocks that a packing answers, in order. -/
def packedBytes (y : List (Nat × TailBlock) × TailBlock) : List Byte := y.1.flatMap (·.2.bytes) ++ y.2.bytes

@[simp] theorem TailBlock.fill_bytes (x : TailBlock) (k : Packet) (b : List Byte) : (x.fill k b).bytes = x.bytes ++ b := by
  cases b <;> simp [TailBlock.fill]

@[simp] theorem TailBlock.begin_bytes (x : TailBlock) (k : Packet) : (x.begin k).bytes = x.bytes := rfl

/-- Enough fuel keeps every byte: the blocks hold what stood in the first one and then the bytes filled in. -/
theorem fillBlocks_bytes (k : Packet) (n b : Nat) (x : TailBlock) (l : List Byte)
    (h : x.bytes.length + l.length ≤ n * blockData) (hn : 0 < n) : packedBytes (fillBlocks k n b x l) = x.bytes ++ l := by
  induction n generalizing b x l with
  | zero => omega
  | succ n ih =>
    simp only [fillBlocks]
    split
    · simp [packedBytes]
    · rename_i hl
      have hr : 0 < n := by
        rcases n with _ | n
        · simp at h; omega
        · omega
      have hy := ih (b + 1) tailBlockCold (l.drop (blockData - x.bytes.length))
        (by simp [tailBlockCold, Nat.succ_mul] at *; omega) hr
      simp only [packedBytes, tailBlockCold, List.nil_append] at hy
      simp [packedBytes, tailBlockCold, hy]

/-- A packet goes into its queue whole: the tail block's bytes, then the header and the data (R244). -/
theorem Queue.pack_bytes (x : Queue) (k : Packet) (h : x.staged.bytes.length ≤ blockData) :
    packedBytes (x.pack k) = (if x.packets.isEmpty then [] else x.staged.bytes) ++ (k.header ++ k.data) := by
  simp only [Queue.pack]
  generalize k.header ++ k.data = l
  have hl : blockData + l.length ≤ (l.length / blockData + 2) * blockData := by
    have := Nat.div_add_mod l.length blockData
    have := Nat.mod_lt l.length (show 0 < blockData by decide)
    rw [Nat.add_mul, Nat.mul_comm]; omega
  have hc (b : Nat) : packedBytes (fillBlocks k (l.length / blockData + 2) b (tailBlockCold.begin k) l) = l := by
    rw [fillBlocks_bytes _ _ _ _ _ (by simp only [TailBlock.begin_bytes, tailBlockCold, List.length_nil]; omega) (Nat.add_pos_right _ Nat.two_pos)]
    simp [tailBlockCold]
  split
  · simp [hc]
  · split
    · rw [fillBlocks_bytes _ _ _ _ _ (by simp only [TailBlock.begin_bytes]; omega) (Nat.add_pos_right _ Nat.two_pos)]
      simp
    · have hy := hc (x.tailBlock + 1)
      simp only [packedBytes] at hy
      simp [packedBytes, hy]

end Sys2Proof.Machine
end

