-- ==== Sys2Proof/Laws/Resets.lean ====
section
/-!
SUPPORT. What a full reset leaves, said once.
-/
namespace Sys2Proof.Machine

/-- The state after a full reset (R83, R94, R98, R105): Pilot waits for the sources, the cause is recorded, and what the data path
held is gone. -/
theorem State.fullReset_facts (s : State) (kind : ResetKind) (cause : Nat) (internal qInc lost : Bool) :
    let t := s.fullReset kind cause internal qInc lost
    t.pilot.phase = .resetHeld ∧ t.pilot.kind = kind ∧ t.pilot.internalHeld = internal ∧ t.f devResetCauseCause = cause ∧
      t.f devResetCauseHeld = b2n (kind != .clearing && s.pilot.sealed && !lost) ∧
      t.f devResetCauseQuiesceIncomplete = b2n qInc ∧ t.f devResetCauseFwReused = 0 ∧ t.queues = [] ∧ t.rings = [] ∧ t.ports = [] ∧ t.pcs = [] ∧
      t.channels = [] ∧ t.snapshots = [] ∧ t.pending = s.pending ∧ t.log = s.log := by
  have hp := (State.fullReset_only s kind cause internal qInc lost).eq_pending (by decide)
  have hl := (State.fullReset_only s kind cause internal qInc lost).eq_log (by decide)
  refine ⟨rfl, rfl, rfl, ?_, ?_, ?_, ?_, rfl, rfl, rfl, rfl, rfl, rfl, hp, hl⟩
  all_goals unfold State.fullReset
  all_goals dsimp only
  all_goals rw [(State.enterPending_regs _) _ (by decide)]
  all_goals simp [State.bump, State.f_setF, devResetCauseCause, devResetCauseHeld, devResetCauseQuiesceIncomplete, devResetCauseFwReused,
    devResetCauseCount, plClkStatusPllLock, fld]

/-- Pin levels, the boundary scan, the rails and the clocks are not changed by a full reset. -/
theorem State.fullReset_pins (s : State) (kind : ResetKind) (cause : Nat) (internal qInc lost : Bool) :
    let t := s.fullReset kind cause internal qInc lost
    t.pilot.resetN = s.pilot.resetN ∧ t.pilot.perstN = s.pilot.perstN ∧ t.pilot.tapHeld = s.pilot.tapHeld ∧
      t.pilot.tapIr = s.pilot.tapIr ∧ t.pilot.railsLow = s.pilot.railsLow ∧ t.pilot.refclkOk = s.pilot.refclkOk := by
  have h0 := (State.settleJournal_only s).eq_pilot (by decide)
  have h1 := (State.stopPulse_only s.settleJournal).eq_pilot (by decide)
  have h2 := (State.resetPorts_only s.settleJournal.stopPulse kind).eq_pilot (by decide)
  rw [h1, h0] at h2
  rw [← h2]
  exact ⟨rfl, rfl, rfl, rfl, rfl, rfl⟩

end Sys2Proof.Machine
end

