-- ==== Sys2Proof/WellFormed.lean ====
section
/-!
DEFINITION. Well-formed commands: every operand that names a unit of the device names one that a grade can have, every field fits
its width, and the opcode of an entry or a request is that of its command. The meanings are total: a command that is not well formed
has the effect its meaning gives it.
-/
namespace Sys2Proof

/-- The fields of a submission entry fit their widths (R463), and its ring exists. -/
def Sqe.wf (e : Sqe) : Bool :=
  decide (e.ring < 16) && decide (e.opcode < 2 ^ 16) && decide (e.flags < 256) && decide (e.cls < 256) && decide (e.tag < 2 ^ 32) &&
    decide (e.paramLen < 2 ^ 32) && decide (e.event < 2 ^ 32) && decide (e.params < 2 ^ 384)

/-- The fields of a request fit their widths (R195), and its port exists. -/
def Req.wf (r : Req) : Bool :=
  decide (r.port < 16) && decide (r.opcode < 256) && decide (r.b1 < 256) && decide (r.b2 < 256) && decide (r.arg < 256) &&
    decide (r.tag < 2 ^ 32) && decide (r.length < 2 ^ 15) && decide (r.object < 2 ^ 17) && r.payload.length == r.length

/-- A codeword has 272 symbols of 10 bits (R189). -/
def Codeword.wf (c : Codeword) : Bool := c.symbols.length == 272 && c.symbols.all (fun x => decide (x < 1024))

/-- Units of a boot input that a grade can have. -/
def BootInput.wf (b : BootInput) : Bool :=
  decide (b.layers ≤ 16) && decide (b.fillBad < 2 ^ 64) && decide (b.bistBench < 2 ^ 8) && decide (b.bistEngine < 2 ^ 64) &&
    decide (b.bistMc < 2 ^ 16) && decide (b.bistPort < 2 ^ 16) && decide (b.bistQms < 2 ^ 8) && decide (b.stop ≤ 11)

/-- A sector request names a sector of the stack and words of it (R379, R381). -/
def MemReq.wf (r : MemReq) : Bool :=
  decide (r.pc < 64) && decide (r.bank < 16) && decide (r.row < 2 ^ 15) && decide (r.sector < 8) && decide (r.cls < 16) &&
    decide (r.hint < 4) && r.words.all (fun w => decide (w.1 < 32) && decide (w.2 < 2 ^ 64))

/-- A word lies in a bucket's unit or in none (R413). -/
def MemWord.wf (w : MemWord) : Bool := decide (w.unit ≤ 200) && decide (w.bank < 16) && decide (w.row < 2 ^ 15)

/-- A failed read belongs to a ring or a channel. -/
def FailedRead.wf : FailedRead → Bool
  | .entry r => decide (r < 16)
  | .parameters r _ => decide (r < 16)
  | .commandData r _ => decide (r < 16)
  | .channel c => decide (c < 18)

/-- A register offset lies in BAR0 and is a multiple of 4 (R20, R455). -/
def offsetOk (off : Nat) : Bool := decide (off < 2 ^ 24) && off % 4 == 0

/-- A well-formed command. -/
def Instr.wf : Instr → Bool
  | .vddAoRise => true
  | .vddAoFall => true
  | .railsInTolerance => true
  | .railCheckRetry => true
  | .railOutOfRange rail => decide (rail ≤ 8) && rail != 2
  | .strapSample refwait sbaddr sbctl bist => decide (refwait < 8) && decide (sbaddr < 4) && decide (sbctl < 2) && decide (bist < 2)
  | .refwaitExpiry => true
  | .refclkStartupCheck _ trim => decide (trim < 256)
  | .resetPinAssert _ => true
  | .resetPinRelease _ => true
  | .coldStartSequence b => b.wf
  | .layerDiscoveryTimeout layer => decide (layer ≤ 16)
  | .pcieHotReset => true
  | .pcieFlr => true
  | .pcieLinkDown => true
  | .resetSourceRelease => true
  | .heldRestartSequence b => b.wf
  | .firmwareReverifyDone => true
  | .quiesceComplete => true
  | .quiesceTimeout => true
  | .preserveResetDelay => true
  | .tapInstructionLoad ir => decide (ir < 256)
  | .tapTestLogicReset => true
  | .oscTrim trim _ => decide (trim < 256)
  | .refclkMissingEdge => true
  | .refclkFreqWindow _ => true
  | .clockSwitchForced d => decide (d < 60)
  | .clockSwitchFailed d _ => decide (d < 60)
  | .clockGateClose d => decide (d < 60)
  | .clockGateOpen d => decide (d < 60)
  | .domainAutoOff d => decide (d < 50)
  | .domainWake d => decide (d < 50)
  | .benchMicrocodeLoaded b => decide (b < 8)
  | .forcedClosureDrainEnd _ writes commands ports =>
    writes.all offsetOk && commands.all (fun x => decide (x.1 < 16)) && ports.all Req.wf
  | .ptmDialog => true
  | .ptmResponse _ => true
  | .ptmResponseTimeout => true
  | .timesyncEdge _ => true
  | .timesyncStuck => true
  | .tbTimeLoRead => true
  | .loRegisterRead off => offsetOk off
  | .holdNChange _ => true
  | .holdNLong => true
  | .thermalSample x => x.sensors.all (fun i => decide (i.sensor < 88)) && x.estimate.all (fun l => decide (l.1 ≤ 17))
  | .sensorRecover n => decide (n < 88)
  | .canaryTest l failed => decide (1 ≤ l ∧ l ≤ 16) && decide (failed < 256)
  | .narrowRestore => true
  | .quenchStopComplete => true
  | .quenchThermalEnd => true
  | .trip sensor => decide (sensor < 88)
  | .laneDetectorChange p lane _ _ => decide (p < 16) && decide (lane < 8)
  | .trainingFrameRx p lane f => decide (p < 16) && decide (lane < 8) && decide (f.control < 2 ^ 64)
  | .trainStateExit p x => decide (p < 16) && decide (x.lanes < 256)
  | .trainStateTimer p x => decide (p < 16) && decide (x.lanes < 256)
  | .attemptIdleEnd p => decide (p < 16)
  | .linkLost p => decide (p < 16)
  | .warmIdleTimer p => decide (p < 16)
  | .bankedIdleTimer p => decide (p < 16)
  | .warmExit p => decide (p < 16)
  | .bankedExit p => decide (p < 16)
  | .bankedFastPathTimeout p => decide (p < 16)
  | .dataCodewordRx p c => decide (p < 16) && c.wf
  | .framingCodewordRx p c => decide (p < 16) && c.wf
  | .resyncCodewordRx p c => decide (p < 16) && c.wf
  | .linkUpdateRx p b => decide (p < 16) && b.length == 16
  | .linkUpdateSend p => decide (p < 16)
  | .nakRetryTimeout p => decide (p < 16)
  | .replayTimeout p => decide (p < 16)
  | .init p b => decide (p < 16) && b.length == 64
  | .pwrReq p b => decide (p < 16) && b.length == 64
  | .pwrAck p b => decide (p < 16) && b.length == 64
  | .pwrRefuse p b => decide (p < 16) && b.length == 64
  | .pwrReqTimeout p => decide (p < 16)
  | .downNoticeTimeout p => decide (p < 16)
  | .requestCrcFail p => decide (p < 16)
  | .unknownDataOpcode r => r.wf
  | .enq r => r.wf && r.opcode == 0x01
  | .enqCommit p => decide (p < 16)
  | .deq r => r.wf && r.opcode == 0x02
  | .peek r => r.wf && r.opcode == 0x03
  | .dropHead r => r.wf && r.opcode == 0x04
  | .qstat r => r.wf && r.opcode == 0x05
  | .lookup r => r.wf && r.opcode == 0x10
  | .lookupMulti r => r.wf && r.opcode == 0x11
  | .cntAdd r => r.wf && r.opcode == 0x18
  | .cntRead r => r.wf && r.opcode == 0x19
  | .cntReadClear r => r.wf && r.opcode == 0x1A
  | .mark r => r.wf && r.opcode == 0x20
  | .markPass p => decide (p < 16)
  | .echo r => r.wf && r.opcode == 0x21
  | .snapshotReq r => r.wf && r.opcode == 0x30
  | .snapshotComplete => true
  | .engineOpStart n => decide (n < 64)
  | .replySend p => decide (p < 16)
  | .configRequest _ => true
  | .bar0BadAccess _ off => decide (off < 2 ^ 24)
  | .registerWrite _ off v => offsetOk off && decide (v < 2 ^ 32)
  | .stagingWindowRead off len => decide (0 < len ∧ off + len ≤ 2 ^ 28)
  | .stagingWindowWrite off data enables => decide (0 < data.length ∧ off + data.length ≤ 2 ^ 28) && decide (enables < 2 ^ data.length)
  | .ringEnable r => decide (r < 16)
  | .ringDisable r => decide (r < 16)
  | .sqTailDoorbell r v => decide (r < 16) && decide (v < 2 ^ 32)
  | .cqHeadDoorbell r v => decide (r < 16) && decide (v < 2 ^ 32)
  | .ringEntryFetch r es => decide (r < 16) && es.all Sqe.wf
  | .ringEntryStart r => decide (r < 16)
  | .hostReadFail f _ => f.wf
  | .msixModerationTimer r => decide (r < 16)
  | .msixUnmask v => decide (v.getD 0 < 64)
  | .pcieL1Entry => true
  | .d3hotEntry => true
  | .d0Return => true
  | .devIdentify e => e.wf && e.opcode == 0x100
  | .devHealth e => e.wf && e.opcode == 0x101
  | .powerInfo e _ => e.wf && e.opcode == 0x102
  | .devReset e => e.wf && e.opcode == 0x104
  | .recoveryReport e => e.wf && e.opcode == 0x105
  | .expertEnter e => e.wf && e.opcode == 0x108
  | .expertLeave e => e.wf && e.opcode == 0x109
  | .errlogRead e => e.wf && e.opcode == 0x10C
  | .errlogClear e => e.wf && e.opcode == 0x10D
  | .nop e => e.wf && e.opcode == 0x110
  | .queueCfg e => e.wf && e.opcode == 0x140
  | .queueRemove e => e.wf && e.opcode == 0x141
  | .queueFlush e => e.wf && e.opcode == 0x142
  | .queueChangeApply => true
  | .queueInfo e => e.wf && e.opcode == 0x143
  | .snapshotTake e => e.wf && e.opcode == 0x144
  | .snapshotRead e => e.wf && e.opcode == 0x145
  | .queueReserve e => e.wf && e.opcode == 0x150
  | .qmPrefetch e => e.wf && e.opcode == 0x151
  | .tableCreate e => e.wf && e.opcode == 0x180
  | .tableDelete e => e.wf && e.opcode == 0x181
  | .tableRowsReturn n => decide (n < 256)
  | .tableInfo e => e.wf && e.opcode == 0x182
  | .tableResize e => e.wf && e.opcode == 0x183
  | .cntDump e => e.wf && e.opcode == 0x184
  | .tableTune e => e.wf && e.opcode == 0x185
  | .tableUpdate e _ => e.wf && e.opcode == 0x188
  | .tableImage e => e.wf && e.opcode == 0x189
  | .tableCommit e => e.wf && e.opcode == 0x18A
  | .imageBuildDone n => decide (n < 256)
  | .commitEffectTick n => decide (n < 256)
  | .commitCutTimeout n => decide (n < 256)
  | .versionRowsRelease n => decide (n < 256)
  | .tableAbort e => e.wf && e.opcode == 0x18B
  | .commitLog e => e.wf && e.opcode == 0x18C
  | .memSplit e => e.wf && e.opcode == 0x1C0
  | .placementInfo e => e.wf && e.opcode == 0x1C1
  | .tierReport e => e.wf && e.opcode == 0x1C2
  | .mvTune e => e.wf && e.opcode == 0x1C4
  | .mvTableHint e => e.wf && e.opcode == 0x1C5
  | .memInfo e => e.wf && e.opcode == 0x1C8
  | .mcPolicy e => e.wf && e.opcode == 0x1C9
  | .mcTargets e => e.wf && e.opcode == 0x1CA
  | .integrityInfo e => e.wf && e.opcode == 0x1D0
  | .scrubCfg e => e.wf && e.opcode == 0x1D1
  | .bucketCfg e => e.wf && e.opcode == 0x1D2
  | .retireCfg e => e.wf && e.opcode == 0x1D3
  | .stageMap e => e.wf && e.opcode == 0x1D8
  | .budgetSet e _ => e.wf && e.opcode == 0x200
  | .budgetGet e => e.wf && e.opcode == 0x201
  | .regStatus e => e.wf && e.opcode == 0x202
  | .regWindow e => e.wf && e.opcode == 0x208
  | .rgCfgWindowWrite v => decide (v < 2 ^ 32)
  | .regPlan e => e.wf && e.opcode == 0x209
  | .thermRead e => e.wf && e.opcode == 0x240
  | .thermLimits e => e.wf && e.opcode == 0x241
  | .thermWarnSet e => e.wf && e.opcode == 0x242
  | .thermLimitSet e => e.wf && e.opcode == 0x243
  | .quenchReq e => e.wf && e.opcode == 0x244
  | .bistRun e => e.wf && e.opcode == 0x280
  | .bistUnitDone _ u _ => decide (u < 64)
  | .culletGet e => e.wf && e.opcode == 0x281
  | .culletAdd e _ => e.wf && e.opcode == 0x282
  | .calSave e => e.wf && e.opcode == 0x284
  | .calRestore e _ => e.wf && e.opcode == 0x285
  | .calCfg e => e.wf && e.opcode == 0x286
  | .fwLoad e _ => e.wf && e.opcode == 0x2C0
  | .fwStore e _ => e.wf && e.opcode == 0x2C1
  | .fwInfo e => e.wf && e.opcode == 0x2C2
  | .rollbackAdvance e _ _ => e.wf && e.opcode == 0x2C3
  | .attest e => e.wf && e.opcode == 0x2C4
  | .idKeyRead e => e.wf && e.opcode == 0x2C5
  | .fuseRead e => e.wf && e.opcode == 0x2C8
  | .fuseProgram e _ _ _ => e.wf && e.opcode == 0x2C9
  | .fuseLock e _ _ => e.wf && e.opcode == 0x2CA
  | .fuseResense e _ => e.wf && e.opcode == 0x2CB
  | .fuseResenseTimer _ => true
  | .keyRevoke e _ _ => e.wf && e.opcode == 0x2CC
  | .evSource e => e.wf && e.opcode == 0x300
  | .evSink e => e.wf && e.opcode == 0x301
  | .evPulse e => e.wf && e.opcode == 0x302
  | .evSwPulseWrite v => decide (v < 2 ^ 32)
  | .evInfo e => e.wf && e.opcode == 0x303
  | .eventPulseDelivery => true
  | .bmChannelCfg e => e.wf && e.opcode == 0x308
  | .bmNosnoop e => e.wf && e.opcode == 0x309
  | .bmChStart _ c => decide (c < 18)
  | .bmChArm _ c => decide (c < 18)
  | .bmChClear _ c => decide (c < 18)
  | .bmDescriptorFetchDone c _ => decide (c < 18)
  | .bmDescriptorEnd c _ _ => decide (c < 18)
  | .bmChannelHalt c _ _ => decide (c < 18)
  | .teLatClear => true
  | .linkRetrain e => e.wf && e.opcode == 0x340
  | .linkPowerCfg e => e.wf && e.opcode == 0x341
  | .linkDisable e => e.wf && e.opcode == 0x342
  | .linkEqSet e => e.wf && e.opcode == 0x343
  | .epochBoundary x => decide (x.sharedBusy < 2 ^ 32) && decide (x.privBusy < 2 ^ 32)
  | .activationWindowEnd => true
  | .mcRequestArrival r => r.wf
  | .mcCommandIssue pc _ => decide (pc < 64)
  | .requestUrgencyStep pc _ index => decide (pc < 64) && decide (index < 64)
  | .refreshDue pc bank => decide (pc < 64) && decide (bank < 16)
  | .pcPowerDownEntry pc => decide (pc < 64)
  | .pcSelfRefreshEntry pc => decide (pc < 64)
  | .calibrationHold _ => true
  | .memoryReadReturn w syndrome => w.wf && decide (syndrome < 256)
  | .bucketLeak u => decide (u < 200)
  | .fluxRewrite => true
  | .fluxRowScrub pc late found => decide (pc < 64) && decide (late ≤ 8) && found.all (fun x => x.word.wf)
  | .crucibleScrub _ found => found.all (fun x => x.word.wf)
  | .sweepLate pc => decide (pc < 64)
  | .mirrorRepair _ => true
  | .bankRetirement pc bank => decide (pc < 64) && decide (bank < 16)
  | .regWindowBoundary => true
  | .heartbeat => true
  | .fuseData slot _ _ _ => decide (slot < 16)
  | .closureState slot => decide (slot < 16)
  | .errlogWrite slot _ _ _ _ _ _ _ => decide (slot < 16)
  | .deviceState slot => decide (slot < 16)
  | .mailboxRefused slot _ => decide (slot < 16)
  | .svWatchdogExpiry => true
  | .svCoreHalt => true
  | .svActionReset => true
  | .anvilHeartbeat => true
  | .anvilSupervisorTimeout => true
  | .anvilHalt => true
  | .status => true
  | .identity => true
  | .power _ => true
  | .level => true
  | .hottest => true
  | .therm0 => true
  | .therm8 => true
  | .therm16 => true
  | .errlogPtrWrite _ => true
  | .errlogPtrRead => true
  | .errlog _ => true
  | .quenchWrite _ => true
  | .quenchRead => true
  | .alertResponse => true
  | .sclTimeout => true
  | .sdaTimeout => true
  | .busClear _ => true
  | .hostNotify _ => true
  | .hostNotifyRetry _ => true
  | .arbitrationRetry _ => true
  | .eepromRead _ => true
  | .eepromReadDone _ => true
  | .timesyncFallingEdge => true
  | .vprogOutOfTolerance _ _ => true
  | .sdaSeenHigh => true
  | .pageIdleTimer pc bank => decide (pc < 64) && decide (bank < 16)
  | .calibrationHoldEnd => true
  | .unlistedCommandCode code _ => decide (code < 256)

end Sys2Proof
end

