-- ==== Sys2Proof/Tests/Slice0.lean ====
section
/-!
SUPPORT. Tests: ill-formed commands that the check of well-formedness refuses, states and operands that meet the hypotheses of every
clause of every obligation, and the worked examples of the spec.
-/
namespace Sys2Proof.Tests
open Sys2Proof Sys2Proof.Machine
set_option Elab.async false

/-! ## States and operands of the witnesses -/

/-- The machine right after power-on. -/
def z : State := State.reset
/-- A change of Pilot. -/
def pl (g : Pilot → Pilot) (s : State) : State := { s with pilot := g s.pilot }
/-- Right after power-on, at another phase of the start. -/
def ph (p : BootPhase) : State := pl (fun x => { x with phase := p }) z
/-- A device whose rails are up, before its boot. -/
def cold : State :=
  pl (fun p =>
    { p with
      refclkOk := true, stackHold := false, railsLow := 0, strapsTaken := true, refCount := 1000000, completionsPosted := true }) z
/-- A device whose start-up comes to step 4. -/
def ready : State := pl (fun p => { p with phase := .ready, next := 4 }) cold
/-- A running device. -/
def up : State :=
  { (pl (fun p => { p with phase := .running, driversOff := false, next := 12 }) cold).setF devStatusPcieReady 1 with
    pcie := { pcieReset with linkUp := true } }
/-- A running device with these register fields written. -/
def upR (l : List (Fld × Nat)) : State := up.setFs l
/-- A running device in safe hold. -/
def held : State := upR [(elStatusSafeHold, 1)]
/-- A running device that is quenched. -/
def quen : State := upR [(thStatusQuenched, 1)]
/-- A running device with service firmware. -/
def fw : State := upR [(devStatusFwRunning, 1)]
/-- A change of port 0. -/
def pt (g : Port → Port) (s : State) : State := s.setPort 0 (g (s.port 0))
/-- A running device whose port 0 is ACTIVE and HOT, with credits. -/
def hot : State := upR [(rlLinkStatusState 0, 9), (rlTxCreditVc2 0, 4096), (rlTxCreditVc3 0, 4)]
/-- A submission entry of ring 0 with this opcode, and parameters at these byte offsets (R463), and its flags and PARAM_LEN. -/
def sqf (op flags len : Nat) (items : List (Nat × Nat)) : Sqe :=
  ⟨0, op, flags, 0, 7, len, 0, (items.map (fun x => x.2 * 256 ^ (x.1 - 16))).sum, 0⟩
/-- The same without flags. -/
def sq (op : Nat) (items : List (Nat × Nat)) : Sqe := sqf op 0 0 items
/-- The same with INDIRECT. -/
def sqi (op len : Nat) (items : List (Nat × Nat)) : Sqe := sqf op 8 len items
/-- The state with the command of `e` in execution on its ring. -/
def rg (e : Sqe) (s : State) : State :=
  s.setRing e.ring { ringCold 0 with live := [⟨e.tag, e.opcode, false, false, false, false, e.tick, e.params⟩] }
/-- Whether the command of `e` is in execution, as a check. -/
def runs (e : Sqe) (s : State) : Bool :=
  !s.halted && (match (s.ring e.ring).live.find? (fun c => c.tag == e.tag) with
    | some c => c.opcode == e.opcode && !c.dropped
    | none => false)

theorem runs_ok {e : Sqe} {s : State} (h : runs e s = true) : Running e s := by
  unfold runs at h
  split at h
  · rename_i c hc
    simp only [Bool.and_eq_true, Bool.not_eq_true', beq_iff_eq] at h
    exact ⟨h.1, c, hc, h.2.1, h.2.2⟩
  · simp at h

/-- Lane `l` of port 0, its reset value; a change of all its lanes. -/
def laneOf (l : Nat) : Lane := up.lane 0 l
def lanesOf (g : Lane → Lane) (s : State) : State := (List.range 8).foldl (fun t l => t.setLane 0 l (g (t.lane 0 l))) s
/-- What a port sees of its training: lanes that pass. -/
def tin (lanes : Nat) : TrainInput := { lanes, ctle := [], dfe := [], partnerFramed := true, latency := 7 }

/-- A link request of port 0, credited. -/
def rq (op b1 b2 arg obj len : Nat) (payload : List Byte) : Req :=
  { port := 0, tick := 1000, opcode := op, b1, b2, arg, tag := 9, length := len, object := obj, payload, credited := true,
    corrupt := false, id := 0 }
/-- The state with request `r` in its port's ingress buffer. -/
def adm (r : Req) (s : State) : State := s.setPort r.port { s.port r.port with ingress := [r] }
/-- A firmware image that passes every check of R545 on `fwk`. -/
def im : FwImage :=
  { length := 65536, bodyLen := 61440, formOk := true, version := 1, secVersion := 0, grades := 1, esOnly := false,
    keyDigest := 0, sigOk := true, bodyOk := true, headerDigest := 5 }
/-- A boot environment in which everything answers. -/
def bi : BootInput := ⟨true, 16, true, 0, 0, 0, 0, 0, 0, true, 11⟩
/-- A value of this many bytes, the low byte first. -/
abbrev le (n v : Nat) : List Byte := leBytes n v
/-- A training frame whose control field has these low 56 bits. -/
def frame (c : Nat) : Frame := { marker := true, inverted := false, control := c + 2 ^ 56 * crc8 (leBytes 7 c).reverse, errors := none, want := (0, false, 0) }
/-- Bytes closed by the CRC of the link update, of a control flit or of a host buffer. -/
def with16 (b : List Byte) : List Byte := b ++ le 2 (crc16 b)
def with32 (b : List Byte) : List Byte := b ++ le 4 (crc32 b)
/-- A codeword of idle bytes; one in which 9 symbols are wrong; and one of these 320 data bytes. -/
def idleCw : Codeword := ⟨0, List.replicate 272 0⟩
def brokenCw : Codeword := ⟨0, List.replicate 9 1 ++ List.replicate 263 0⟩
def cwOf (b : List Byte) : Codeword := ⟨0, rsEncode (b ++ List.replicate (320 - b.length) 0)⟩
/-- A framing codeword of this line count, and a resync codeword of this SEQ (R191, R192). -/
def framing (n : Nat) : Codeword := cwOf (with32 ((List.replicate 8 [(0x4B : Byte), 0xB4]).flatten ++ le 4 n ++ le 4 0))
def resync (n : Nat) : Codeword := cwOf ((List.replicate 16 [(0xC3 : Byte), 0x3C]).flatten ++ with32 (le 4 n))
/-- A link update with this NAK bit and ACK_SEQ. -/
def update (nak ack : Nat) : List Byte := with16 ([0xF1] ++ le 1 nak ++ le 3 ack ++ le 9 0)
/-- A control flit of this SUBTYPE and ARG. -/
def flit (sub arg : Nat) : List Byte := with32 ([0xF4] ++ le 1 sub ++ le 1 arg ++ le 57 0)
/-- An INIT flit with this RESUME bit. -/
def initFlit (resume : Nat) : List Byte :=
  with32 ([0xF4, 1] ++ le 6 0 ++ le 2 1026 ++ le 2 8 ++ le 1 resume ++ le 47 0)
/-- A packet and a queue that holds it. -/
def pk : Packet := ⟨0, 0, 0, 0, 5, [1, 2], 0⟩
def qu : Queue := { queueCold 0 with configured := true, enabled := true, limit := 4 }
/-- A device with queues, an empty pool of one bank region, and a port with credits. -/
def qs (x : Queue) : State := (hot.setFs [(teBenchRunning, 255)]).setQueue 131071 x
/-- A table of this kind with 16 entries of this version. -/
def tab (k : TableKind) (klen vlen : Nat) : Table :=
  { newTable (sq 0x180 [(20, klen), (21, vlen), (24, 16), (40, 16)]) k with created := 0 }
/-- A device with a table in place, and room in the pool. -/
def ts (n : Nat) (x : Table) : State :=
  (hot.setFs [(teBenchRunning, 255), (mvSplitTUnits, 4)]).putTable n (some x)
/-- A marker commit of table 3 in this phase. -/
def cm (m : CommitMode) (p : CommitPhase) (mask : Nat) (cuts : List Cut) : Commit :=
  { mode := m, phase := p, tables := [3], moved := [3], ring := 0, tag := 7, doorbell := 0, armTick := 0, base := 0, mask := mask,
    marker := 6, timeout := 1, line := 0, cuts := cuts, deletes := [], cls := 0, written := true }
/-- A queue change of ring 0. -/
def qc (k : QueueChangeKind) : QueueChange := ⟨k, 131071, 1, 0, 0, 7⟩
/-- The version that a staging ends with. -/
def vOf : Staged → Version
  | .version v => v
  | .refused _ => ⟨[], 0, 0, 0, [], false, 0⟩
/-- A device with one INDEX table, 3, that has no image version. -/
def one : State := ts 3 (tab .index 0 8)
theorem one_image (e : Sqe) (n : Nat) (x : Table) (h : (rg e one).table n = some x) : x.image = none := by
  have ht : (rg e one).tables = [(3, some (tab .index 0 8))] := by
    show one.tables = _
    decide +kernel
  simp only [State.table, ht, Map.get] at h
  split at h
  · cases h
    decide +kernel
  · cases h
theorem three (n : Nat) :
    n ∈ (cm .marker .armed 3 []).tables ↔ n < 256 ∧ bitOf ((sq 0x18B [(32, 8)]).par 32 32) n = true := by
  by_cases h : n < 256
  · exact (by decide +kernel : ∀ n < 256,
      (n ∈ (cm .marker .armed 3 []).tables ↔ n < 256 ∧ bitOf ((sq 0x18B [(32, 8)]).par 32 32) n = true)) n h
  · simp only [cm, List.mem_singleton]
    omega
/-- The lines that a key needs are all in the replicated tier of the Crucible. -/
def near (n : Nat) (x : Table) (key : List Byte) (s : State) : State :=
  { s with marver := { s.marver with nodes := (x.keyNodes n key).map (fun l => (⟨n, l, none, 0, 0, 0⟩ : Node)) } }
theorem ready_ok {s : State} {r : Req} {e : Nat} {o : EngineOp} {x : Table} (take : EnginesTake r s) (starts : s.canServe r = true)
    (done : s.allDone r = true) (ops : s.opsOf r = [(e, o)]) (at_ : s.tableAt o.table r.tick = some x)
    (nodes : s.marver.nodes = (x.keyNodes o.table o.key).map (fun l => (⟨o.table, l, none, 0, 0, 0⟩ : Node)))
    (drop : bitOf s.marver.dropped e = false) (good : x.badCopy.contains o.key = false) : EnginesReady r s := by
  refine ⟨take, starts, done, fun p hp y hy line hl => ?_⟩
  rw [ops, List.mem_singleton] at hp
  subst hp
  rw [at_] at hy
  cases hy
  simp only [State.copyNear, State.nodeNear, nodes, good, Bool.not_false, Bool.and_true, List.any_eq_true]
  exact ⟨_, List.mem_map_of_mem hl, by simp [drop]⟩
/-- A sector request of pseudo-channel 0 and its queue entry. -/
def mq (port : MemPort) (write : Bool) (words : List (Nat × Nat)) : MemReq := ⟨0, 15, 3, 7, port, write, words, 0, 0, false, 0⟩
def me (port : MemPort) (write : Bool) (words : List (Nat × Nat)) : MemEntry := ⟨mq port write words, 0, 2, false, false, 0, []⟩
/-- A device whose write queues have no entry left for port QW. -/
def fullWrites (s : State) : State :=
  { s with pcs := (List.range 64).map (fun n => (n, { pcCold n with writes := List.replicate 56 (me .qw true []) })) }
/-- A device with one pseudo-channel state. -/
def pcs0 (x : Pc) : State := { up with pcs := [(0, x)] }
/-- A word of a memory that a reader meets, in unit 3. -/
def mw (u : MemUse) : MemWord := ⟨3, 0, 3, 5, u⟩
/-- A device with integrity work. -/
def igs (g : Integrity → Integrity) : State := { up with integrity := g up.integrity }
/-- A BIST job of ring 0. -/
def bj (todo : Nat) : BistJob := ⟨0, 7, .engine, todo, 0, 0, 0⟩
/-- The first 2080 B of a calibration buffer: serial number, GRADE, mask. -/
def noTsvs : List Byte := (List.replicate 64 (le 26 0 ++ List.replicate 6 (0x3F : Byte))).flatten
theorem noTsvs_length : noTsvs.length = 2048 := by decide +kernel
def calBody (serial grade mask : Nat) : List Byte :=
  le 6 0 ++ le 1 grade ++ le 1 0 ++ le 8 serial ++ le 8 0 ++ le 8 mask ++ noTsvs
theorem calBody_length (serial grade mask : Nat) : (calBody serial grade mask).length = 2080 := by
  simp [calBody, le, noTsvs_length]
/-- A device as after boot, with firmware that the fused keys allow. -/
def tr (g : Trust → Trust) (s : State) : State := { s with trust := g s.trust }
def fwk : State := tr (fun t => { t with running := some im }) (upR [(devStatusFwRunning, 1), (fzKeysUsable, 1)])
/-- A device whose firmware is not loaded. -/
def nofw : State := upR [(fzKeysUsable, 1)]
/-- A FUSE_PROGRAM buffer of one word. -/
def fb (region first n : Nat) : List Byte := le 1 region ++ le 1 0 ++ le 2 first ++ le 2 n ++ le 2 0 ++ le (4 * n) 5
/-- A BUDGET_SET buffer that leaves every class alone but class 0. -/
def bb (bw : Nat) : List Byte := le 8 bw ++ (List.replicate 14 (le 8 (2 ^ 56))).flatten
/-- A sideband word write. -/
def sw (n v : Nat) : SbWrite := ⟨le n v⟩
/-- A change of the sideband. -/
def sb (g : Sideband → Sideband) (s : State) : State := { s with sideband := g s.sideband }
/-- A device that controls its sideband. -/
def ctl : State := upR [(sbStatusCtlEn, 1), (sbHnCfgEn, 1)]
/-- Boot EEPROM contents with this CFG_SBSPEED, closed by their CRC. -/
def eeprom (speed : Nat) : List Byte :=
  with32 (le 4 0x42534C4F ++ le 1 1 ++ le 1 speed ++ le 1 7 ++ le 1 0x77 ++ le 2 0 ++ le 2 0 ++ le 2 1 ++ le 14 0)
/-- A log entry. -/
def en (q : Nat) : LogEntry := ⟨q, 5, .hc, 1, 1, 0xFF, 0xFF, 0xFF, 0, 0xFFFFFFFF, 0⟩
/-- The state after a command. -/
def after (c : Instr) (s : State) : State :=
  match exec c s with
  | .next t => t
  | _ => s
/-- The catalogue's row of an opcode. -/
def spOf (op : Nat) : CmdSpec := (specFor op).getD ⟨0, false, false, .runs, false, []⟩
/-- An empty queue without a limit, and one that holds packets A (1 500 B) and B (9 000 B) of chapter 7's worked example. -/
def qu0 : Queue := { qu with limit := 65536 }
def small : Queue :=
  { qu0 with
    packets := [⟨3, 2, 0, 0, 1000000, List.replicate 1500 0, 0⟩, ⟨3, 2, 0, 0, 1008000, List.replicate 9000 0, 1516⟩]
    tail := 10532, nextSeq := 2 }
/-- A device whose queue 131071 holds one packet of 5 bytes, put there by ENQ. -/
def enq5 : Req := rq 0x01 2 0 7 131071 5 (le 5 0x0504030201)
def stored : State := after (.enq enq5) (adm enq5 ((qs qu0).setFs [(qmPoolLimit, 2 ^ 32)]))
def pk5 : Packet := ⟨2, 0, 7, 0, 1000, le 5 0x0504030201, 0⟩
/-- A counter table whose rows lie at one place, as many as its layout needs, and an operation that waits at engine 63. -/
def ct : Table := tab .counter 0 0
def op15 : EngineOp := ⟨rq 0x19 0 1 1 3 4 (le 4 15), 3, 0, 0, le 4 15, none⟩
def rowsAt (n : Nat) (s : State) : State :=
  { s with marver := { s.marver with tableRows := List.replicate n ⟨3, 0, ⟨0, 15, 3⟩, false, none⟩ } }
def k15 : Nat := Config.rowAt 3 0 ct.number 15
def waits : State := rowsAt (k15 + 1) { ts 3 ct with engineQueues := [(63, [op15])] }
theorem waits_row : waits.rowOfLine 3 ct (32 * k15) = some ⟨3, 0, ⟨0, 15, 3⟩, false, none⟩ := by
  have h : waits.rowsOf 3 ct.created = List.replicate (k15 + 1) ⟨3, 0, ⟨0, 15, 3⟩, false, none⟩ := by
    simp [State.rowsOf, waits, rowsAt, ct, tab]
  simp [State.rowOfLine, h]
theorem waits_line (e : Nat) : waits.lineRows 3 ct (le 4 15) e (32 * k15) = [⟨0, 15, 3⟩] := by
  have hn : waits.copyNear 3 ct (le 4 15) e (32 * k15) = false := rfl
  simp only [State.lineRows, hn, waits_row, State.copyBad, State.lineLost]
  decide +kernel
theorem waits_read : waits.opReads op15 = [⟨0, 15, 3, 0, .tm, false, [], 0, 0, false, waits.now⟩] := by
  have ht : waits.tableAt op15.table op15.req.tick = some ct := by decide +kernel
  have hk : ct.keyNodes op15.table op15.key = [32 * k15] := rfl
  simp only [State.opReads, ht, State.keyReads, hk, List.flatMap_cons, List.flatMap_nil, List.append_nil]
  rw [show op15.table = 3 from rfl, show op15.key = le 4 15 from rfl, waits_line]
  simp only [State.lineRead, List.map_cons, List.map_nil, Nat.mul_mod_right]
  rfl
theorem waits_touch : (waits.opReads op15).any (waits.touchOp op15).readQueued = true := by
  have ht : waits.tableAt op15.table op15.req.tick = some ct := by decide +kernel
  have hk : ct.keyNodes op15.table op15.key = [32 * k15] := rfl
  have hn : ∀ e, waits.copyNear 3 ct (le 4 15) e (32 * k15) = false := fun _ => rfl
  have hb : ∀ m, waits.copyBad 3 ct (le 4 15) m (32 * k15) = m := by
    intro m
    simp only [State.copyBad, State.lineLost, waits_row]
    cases m <;> decide +kernel
  rw [waits_read]
  simp only [State.touchOp, ht, State.touchKey, hk, List.foldl_cons, List.foldl_nil, State.touchNode]
  rw [show op15.table = 3 from rfl, show op15.key = le 4 15 from rfl]
  simp only [hn, waits_line, hb, show op15.writes = false from rfl, Bool.false_eq_true, if_false, List.foldl_cons, List.foldl_nil,
    State.lineRead, Nat.mul_mod_right]
  decide +kernel
theorem waits_end : waits.endOps = waits := by
  have hd : ∀ n < 64, (waits.engineQueue n).any waits.opDone = false := by decide +kernel
  have ha : ∀ p < 16, (waits.port p).awaiting = [] := by decide +kernel
  have h1 : ∀ l : List Nat, (∀ n ∈ l, n < 64) → l.foldl (fun t n =>
      if (t.engineQueue n).any waits.opDone then t.setEngine n ((t.engineQueue n).filter (fun o => !waits.opDone o)) else t) waits = waits := by
    intro l
    induction l with
    | nil => intro _; rfl
    | cons n l ih =>
      intro h
      rw [List.foldl_cons, hd n (h n (by simp))]
      exact ih (fun m hm => h m (by simp [hm]))
  unfold State.endOps
  rw [h1 _ (fun n hn => List.mem_range.mp hn)]
  have h2 : ∀ l : List Nat, (∀ p ∈ l, p < 16) → l.flatMap (fun p => (waits.port p).awaiting.filter (fun r =>
      [0x10, 0x11, 0x18, 0x19, 0x1A].contains r.opcode && waits.allDone r)) = [] := by
    intro l h
    simp only [List.flatMap_eq_nil_iff]
    intro p hp
    rw [ha p (h p hp)]
    rfl
  simp only
  rw [h2 _ (fun n hn => List.mem_range.mp hn)]
  rfl

/-! ## Well-formed commands: one ill-formed term for each check, and a well-formed one for each command with a check -/

theorem test_wf_refuses_event_0 : ([
  .railOutOfRange (8 + 1),
  .railOutOfRange 2,
  .strapSample 8 0 0 0,
  .strapSample 0 4 0 0,
  .strapSample 0 0 2 0,
  .strapSample 0 0 0 2,
  .refclkStartupCheck 0 256,
  .coldStartSequence ({ bi with layers := 17 }),
  .coldStartSequence ({ bi with fillBad := 2 ^ 64 }),
  .coldStartSequence ({ bi with bistBench := 2 ^ 8 }),
  .coldStartSequence ({ bi with bistEngine := 2 ^ 64 }),
  .coldStartSequence ({ bi with bistMc := 2 ^ 16 }),
  .coldStartSequence ({ bi with bistPort := 2 ^ 16 }),
  .coldStartSequence ({ bi with bistQms := 2 ^ 8 }),
  .coldStartSequence ({ bi with stop := 12 }),
  .layerDiscoveryTimeout (16 + 1),
  .heldRestartSequence ({ bi with layers := 17 }),
  .heldRestartSequence ({ bi with fillBad := 2 ^ 64 }),
  .heldRestartSequence ({ bi with bistBench := 2 ^ 8 }),
  .heldRestartSequence ({ bi with bistEngine := 2 ^ 64 }),
  .heldRestartSequence ({ bi with bistMc := 2 ^ 16 }),
  .heldRestartSequence ({ bi with bistPort := 2 ^ 16 }),
  .heldRestartSequence ({ bi with bistQms := 2 ^ 8 }),
  .heldRestartSequence ({ bi with stop := 12 }),
  .tapInstructionLoad 256] : List Instr).all (fun c => !c.wf) = true := by decide +kernel

theorem test_wf_refuses_event_1 : ([
  .oscTrim 256 0,
  .clockSwitchForced 60,
  .clockSwitchFailed 60 true,
  .clockGateClose 60,
  .clockGateOpen 60,
  .domainAutoOff 50,
  .domainWake 50,
  .benchMicrocodeLoaded 8,
  .forcedClosureDrainEnd 0 [2] [] [],
  .forcedClosureDrainEnd 0 [] [(16, 0)] [],
  .forcedClosureDrainEnd 0 [] [] [{ rq 0 0 0 0 0 0 [] with port := 16 }],
  .loRegisterRead 2,
  .loRegisterRead (2 ^ 24),
  .thermalSample ⟨[⟨88, 0, true⟩], [], 0⟩,
  .thermalSample ⟨[], [(18, 0)], 0⟩,
  .sensorRecover 88,
  .canaryTest 0 0,
  .canaryTest 17 0,
  .canaryTest 1 256,
  .trip 88,
  .laneDetectorChange 16 0 true true,
  .laneDetectorChange 0 8 true true,
  .trainingFrameRx 16 0 (frame 0),
  .trainingFrameRx 0 8 (frame 0),
  .trainingFrameRx 0 0 ({ frame 0 with control := 2 ^ 64 })] : List Instr).all (fun c => !c.wf) = true := by decide +kernel

theorem test_wf_refuses_event_2 : ([
  .trainStateExit 16 (tin 0),
  .trainStateExit 0 (tin 256),
  .trainStateTimer 16 (tin 0),
  .trainStateTimer 0 (tin 256),
  .attemptIdleEnd 16,
  .linkLost 16,
  .warmIdleTimer 16,
  .bankedIdleTimer 16,
  .warmExit 16,
  .bankedExit 16,
  .bankedFastPathTimeout 16,
  .dataCodewordRx 16 idleCw,
  .dataCodewordRx 0 ⟨0, []⟩,
  .dataCodewordRx 0 ⟨0, 1024 :: List.replicate 271 0⟩,
  .framingCodewordRx 16 idleCw,
  .framingCodewordRx 0 ⟨0, []⟩,
  .framingCodewordRx 0 ⟨0, 1024 :: List.replicate 271 0⟩,
  .resyncCodewordRx 16 idleCw,
  .resyncCodewordRx 0 ⟨0, []⟩,
  .resyncCodewordRx 0 ⟨0, 1024 :: List.replicate 271 0⟩,
  .linkUpdateRx 16 (le 16 0),
  .linkUpdateRx 0 [],
  .linkUpdateSend 16,
  .nakRetryTimeout 16,
  .replayTimeout 16] : List Instr).all (fun c => !c.wf) = true := by decide +kernel

theorem test_wf_refuses_event_3 : ([
  .init 16 (le 64 0),
  .init 0 [],
  .pwrReq 16 (le 64 0),
  .pwrReq 0 [],
  .pwrAck 16 (le 64 0),
  .pwrAck 0 [],
  .pwrRefuse 16 (le 64 0),
  .pwrRefuse 0 [],
  .pwrReqTimeout 16,
  .downNoticeTimeout 16,
  .requestCrcFail 16,
  .enqCommit 16,
  .markPass 16,
  .engineOpStart 64,
  .replySend 16,
  .bar0BadAccess .read (2 ^ 24),
  .registerWrite .host 2 0,
  .registerWrite .host (2 ^ 24) 0,
  .registerWrite .host 0 (2 ^ 32),
  .stagingWindowRead 0 0,
  .stagingWindowRead (2 ^ 28) 1,
  .stagingWindowWrite 0 [] 0,
  .stagingWindowWrite (2 ^ 28) [0] 0,
  .stagingWindowWrite 0 [0] 2,
  .ringEnable 16] : List Instr).all (fun c => !c.wf) = true := by decide +kernel

theorem test_wf_refuses_event_4 : ([
  .ringDisable 16,
  .sqTailDoorbell 16 0,
  .sqTailDoorbell 0 (2 ^ 32),
  .cqHeadDoorbell 16 0,
  .cqHeadDoorbell 0 (2 ^ 32),
  .ringEntryFetch 16 [],
  .ringEntryFetch 0 [{ sq 0 [] with ring := 16 }],
  .ringEntryStart 16,
  .hostReadFail (.entry 16) true,
  .hostReadFail (.parameters 16 0) true,
  .hostReadFail (.commandData 16 0) true,
  .hostReadFail (.channel 18) true,
  .msixModerationTimer 16,
  .msixUnmask (some 64),
  .tableRowsReturn 256,
  .imageBuildDone 256,
  .commitEffectTick 256,
  .commitCutTimeout 256,
  .versionRowsRelease 256,
  .rgCfgWindowWrite (2 ^ 32),
  .bistUnitDone .engine 64 true,
  .evSwPulseWrite (2 ^ 32),
  .bmChStart .host 18,
  .bmChArm .host 18,
  .bmChClear .host 18] : List Instr).all (fun c => !c.wf) = true := by decide +kernel

theorem test_wf_refuses_event_5 : ([
  .bmDescriptorFetchDone 18 .badRequest,
  .bmDescriptorEnd 18 [] [],
  .bmChannelHalt 18 .badRequest 0,
  .epochBoundary ⟨0, 2 ^ 32, 0⟩,
  .epochBoundary ⟨0, 0, 2 ^ 32⟩,
  .mcRequestArrival ({ mq .tm false [] with pc := 64 }),
  .mcRequestArrival ({ mq .tm false [] with bank := 16 }),
  .mcRequestArrival ({ mq .tm false [] with row := 2 ^ 15 }),
  .mcRequestArrival ({ mq .tm false [] with sector := 8 }),
  .mcRequestArrival ({ mq .tm false [] with cls := 16 }),
  .mcRequestArrival ({ mq .tm false [] with hint := 4 }),
  .mcRequestArrival ({ mq .tm false [] with words := [(32, 0)] }),
  .mcRequestArrival ({ mq .tm false [] with words := [(0, 2 ^ 64)] }),
  .mcCommandIssue 64 [],
  .requestUrgencyStep 64 true 0,
  .requestUrgencyStep 0 true 64,
  .refreshDue 64 0,
  .refreshDue 0 16,
  .pcPowerDownEntry 64,
  .pcSelfRefreshEntry 64,
  .memoryReadReturn ({ mw .other with unit := 201 }) 0,
  .memoryReadReturn ({ mw .other with bank := 16 }) 0,
  .memoryReadReturn ({ mw .other with row := 2 ^ 15 }) 0,
  .memoryReadReturn (mw .other) 256,
  .bucketLeak 200] : List Instr).all (fun c => !c.wf) = true := by decide +kernel

theorem test_wf_refuses_event_6 : ([
  .fluxRowScrub 64 0 [],
  .fluxRowScrub 0 (8 + 1) [],
  .fluxRowScrub 0 0 [⟨{ mw .other with bank := 16 }, 1⟩],
  .crucibleScrub true [⟨{ mw .other with bank := 16 }, 1⟩],
  .sweepLate 64,
  .bankRetirement 64 0,
  .bankRetirement 0 16,
  .fuseData 16 0 0 0,
  .closureState 16,
  .errlogWrite 16 true 0 0 0 0 0 0,
  .deviceState 16,
  .mailboxRefused 16 0,
  .pageIdleTimer 64 0,
  .pageIdleTimer 0 16,
  .unlistedCommandCode 256 true] : List Instr).all (fun c => !c.wf) = true := by decide +kernel

theorem test_wf_accepts_event_0 : ([
  .railOutOfRange 0,
  .strapSample 0 0 0 0,
  .refclkStartupCheck 0 0,
  .coldStartSequence bi,
  .layerDiscoveryTimeout 0,
  .heldRestartSequence bi,
  .tapInstructionLoad 0,
  .oscTrim 0 0,
  .clockSwitchForced 0,
  .clockSwitchFailed 0 true,
  .clockGateClose 0,
  .clockGateOpen 0,
  .domainAutoOff 0,
  .domainWake 0,
  .benchMicrocodeLoaded 0,
  .forcedClosureDrainEnd 0 [] [] [],
  .loRegisterRead 0,
  .thermalSample ⟨[], [], 0⟩,
  .sensorRecover 0,
  .canaryTest 1 0,
  .trip 0,
  .laneDetectorChange 0 0 true true,
  .trainingFrameRx 0 0 (frame 0),
  .trainStateExit 0 (tin 0),
  .trainStateTimer 0 (tin 0)] : List Instr).all (fun c => c.wf) = true := by decide +kernel

theorem test_wf_accepts_event_1 : ([
  .attemptIdleEnd 0,
  .linkLost 0,
  .warmIdleTimer 0,
  .bankedIdleTimer 0,
  .warmExit 0,
  .bankedExit 0,
  .bankedFastPathTimeout 0,
  .dataCodewordRx 0 idleCw,
  .framingCodewordRx 0 idleCw,
  .resyncCodewordRx 0 idleCw,
  .linkUpdateRx 0 (le 16 0),
  .linkUpdateSend 0,
  .nakRetryTimeout 0,
  .replayTimeout 0,
  .init 0 (le 64 0),
  .pwrReq 0 (le 64 0),
  .pwrAck 0 (le 64 0),
  .pwrRefuse 0 (le 64 0),
  .pwrReqTimeout 0,
  .downNoticeTimeout 0,
  .requestCrcFail 0,
  .enqCommit 0,
  .markPass 0,
  .engineOpStart 0,
  .replySend 0] : List Instr).all (fun c => c.wf) = true := by decide +kernel

theorem test_wf_accepts_event_2 : ([
  .bar0BadAccess .read 0,
  .registerWrite .host 0 0,
  .stagingWindowRead 0 1,
  .stagingWindowWrite 0 [0] 0,
  .ringEnable 0,
  .ringDisable 0,
  .sqTailDoorbell 0 0,
  .cqHeadDoorbell 0 0,
  .ringEntryFetch 0 [],
  .ringEntryStart 0,
  .hostReadFail (.entry 0) true,
  .msixModerationTimer 0,
  .msixUnmask (some 0),
  .tableRowsReturn 0,
  .imageBuildDone 0,
  .commitEffectTick 0,
  .commitCutTimeout 0,
  .versionRowsRelease 0,
  .rgCfgWindowWrite 0,
  .bistUnitDone .engine 0 true,
  .evSwPulseWrite 0,
  .bmChStart .host 0,
  .bmChArm .host 0,
  .bmChClear .host 0,
  .bmDescriptorFetchDone 0 .badRequest] : List Instr).all (fun c => c.wf) = true := by decide +kernel

theorem test_wf_accepts_event_3 : ([
  .bmDescriptorEnd 0 [] [],
  .bmChannelHalt 0 .badRequest 0,
  .epochBoundary ⟨0, 0, 0⟩,
  .mcRequestArrival (mq .tm false []),
  .mcCommandIssue 0 [],
  .requestUrgencyStep 0 true 0,
  .refreshDue 0 0,
  .pcPowerDownEntry 0,
  .pcSelfRefreshEntry 0,
  .memoryReadReturn (mw .other) 0,
  .bucketLeak 0,
  .fluxRowScrub 0 0 [],
  .crucibleScrub true [],
  .sweepLate 0,
  .bankRetirement 0 0,
  .fuseData 0 0 0 0,
  .closureState 0,
  .errlogWrite 0 true 0 0 0 0 0 0,
  .deviceState 0,
  .mailboxRefused 0 0,
  .pageIdleTimer 0 0,
  .unlistedCommandCode 0 true] : List Instr).all (fun c => c.wf) = true := by decide +kernel

theorem test_wf_refuses_request_0 : ([
  .unknownDataOpcode ({ rq 0x06 0 1 0 0 0 [] with port := 16 }),
  .enq ({ rq 0x01 0 1 0 0 0 [] with port := 16 }),
  .enq (rq 0x00 0 1 0 0 0 []),
  .enq ({ rq 0x01 0 1 0 0 0 [] with b1 := 256 }),
  .enq ({ rq 0x01 0 1 0 0 0 [] with b2 := 256 }),
  .enq ({ rq 0x01 0 1 0 0 0 [] with arg := 256 }),
  .enq ({ rq 0x01 0 1 0 0 0 [] with tag := 2 ^ 32 }),
  .enq ({ rq 0x01 0 1 0 0 0 [] with length := 2 ^ 15 }),
  .enq ({ rq 0x01 0 1 0 0 0 [] with object := 2 ^ 17 }),
  .enq ({ rq 0x01 0 1 0 0 0 [] with payload := [0] }),
  .deq ({ rq 0x02 0 1 0 0 0 [] with port := 16 }),
  .deq (rq 0x00 0 1 0 0 0 []),
  .peek ({ rq 0x03 0 1 0 0 0 [] with port := 16 }),
  .peek (rq 0x00 0 1 0 0 0 []),
  .dropHead ({ rq 0x04 0 1 0 0 0 [] with port := 16 }),
  .dropHead (rq 0x00 0 1 0 0 0 []),
  .qstat ({ rq 0x05 0 1 0 0 0 [] with port := 16 }),
  .qstat (rq 0x00 0 1 0 0 0 []),
  .lookup ({ rq 0x10 0 1 0 0 0 [] with port := 16 }),
  .lookup (rq 0x00 0 1 0 0 0 []),
  .lookupMulti ({ rq 0x11 0 1 0 0 0 [] with port := 16 }),
  .lookupMulti (rq 0x00 0 1 0 0 0 []),
  .cntAdd ({ rq 0x18 0 1 0 0 0 [] with port := 16 }),
  .cntAdd (rq 0x00 0 1 0 0 0 []),
  .cntRead ({ rq 0x19 0 1 0 0 0 [] with port := 16 })] : List Instr).all (fun c => !c.wf) = true := by decide +kernel

theorem test_wf_refuses_request_1 : ([
  .cntRead (rq 0x00 0 1 0 0 0 []),
  .cntReadClear ({ rq 0x1A 0 1 0 0 0 [] with port := 16 }),
  .cntReadClear (rq 0x00 0 1 0 0 0 []),
  .mark ({ rq 0x20 0 1 0 0 0 [] with port := 16 }),
  .mark (rq 0x00 0 1 0 0 0 []),
  .echo ({ rq 0x21 0 1 0 0 0 [] with port := 16 }),
  .echo (rq 0x00 0 1 0 0 0 []),
  .snapshotReq ({ rq 0x30 0 1 0 0 0 [] with port := 16 }),
  .snapshotReq (rq 0x00 0 1 0 0 0 [])] : List Instr).all (fun c => !c.wf) = true := by decide +kernel

theorem test_wf_accepts_request_0 : ([
  .unknownDataOpcode (rq 0x06 0 1 0 0 0 []),
  .enq (rq 0x01 0 1 0 0 0 []),
  .deq (rq 0x02 0 1 0 0 0 []),
  .peek (rq 0x03 0 1 0 0 0 []),
  .dropHead (rq 0x04 0 1 0 0 0 []),
  .qstat (rq 0x05 0 1 0 0 0 []),
  .lookup (rq 0x10 0 1 0 0 0 []),
  .lookupMulti (rq 0x11 0 1 0 0 0 []),
  .cntAdd (rq 0x18 0 1 0 0 0 []),
  .cntRead (rq 0x19 0 1 0 0 0 []),
  .cntReadClear (rq 0x1A 0 1 0 0 0 []),
  .mark (rq 0x20 0 1 0 0 0 []),
  .echo (rq 0x21 0 1 0 0 0 []),
  .snapshotReq (rq 0x30 0 1 0 0 0 [])] : List Instr).all (fun c => c.wf) = true := by decide +kernel

theorem test_wf_refuses_entry_0 : ([
  .devIdentify ({ sq 0x100 [] with ring := 16 }),
  .devIdentify (sq 0x00 []),
  .devHealth ({ sq 0x101 [] with ring := 16 }),
  .devHealth (sq 0x00 []),
  .powerInfo ({ sq 0x102 [] with ring := 16 }) 0,
  .powerInfo (sq 0x00 []) 0,
  .devReset ({ sq 0x104 [] with ring := 16 }),
  .devReset (sq 0x00 []),
  .recoveryReport ({ sq 0x105 [] with ring := 16 }),
  .recoveryReport (sq 0x00 []),
  .expertEnter ({ sq 0x108 [] with ring := 16 }),
  .expertEnter (sq 0x00 []),
  .expertLeave ({ sq 0x109 [] with ring := 16 }),
  .expertLeave (sq 0x00 []),
  .errlogRead ({ sq 0x10C [] with ring := 16 }),
  .errlogRead (sq 0x00 []),
  .errlogClear ({ sq 0x10D [] with ring := 16 }),
  .errlogClear (sq 0x00 []),
  .nop ({ sq 0x110 [] with ring := 16 }),
  .nop (sq 0x00 []),
  .nop ({ sq 0x110 [] with flags := 256 }),
  .nop ({ sq 0x110 [] with cls := 256 }),
  .nop ({ sq 0x110 [] with tag := 2 ^ 32 }),
  .nop ({ sq 0x110 [] with paramLen := 2 ^ 32 }),
  .nop ({ sq 0x110 [] with event := 2 ^ 32 })] : List Instr).all (fun c => !c.wf) = true := by decide +kernel

theorem test_wf_refuses_entry_1 : ([
  .nop ({ sq 0x110 [] with params := 2 ^ 384 }),
  .queueCfg ({ sq 0x140 [] with ring := 16 }),
  .queueCfg (sq 0x00 []),
  .queueRemove ({ sq 0x141 [] with ring := 16 }),
  .queueRemove (sq 0x00 []),
  .queueFlush ({ sq 0x142 [] with ring := 16 }),
  .queueFlush (sq 0x00 []),
  .queueInfo ({ sq 0x143 [] with ring := 16 }),
  .queueInfo (sq 0x00 []),
  .snapshotTake ({ sq 0x144 [] with ring := 16 }),
  .snapshotTake (sq 0x00 []),
  .snapshotRead ({ sq 0x145 [] with ring := 16 }),
  .snapshotRead (sq 0x00 []),
  .queueReserve ({ sq 0x150 [] with ring := 16 }),
  .queueReserve (sq 0x00 []),
  .qmPrefetch ({ sq 0x151 [] with ring := 16 }),
  .qmPrefetch (sq 0x00 []),
  .tableCreate ({ sq 0x180 [] with ring := 16 }),
  .tableCreate (sq 0x00 []),
  .tableDelete ({ sq 0x181 [] with ring := 16 }),
  .tableDelete (sq 0x00 []),
  .tableInfo ({ sq 0x182 [] with ring := 16 }),
  .tableInfo (sq 0x00 []),
  .tableResize ({ sq 0x183 [] with ring := 16 }),
  .tableResize (sq 0x00 [])] : List Instr).all (fun c => !c.wf) = true := by decide +kernel

theorem test_wf_refuses_entry_2 : ([
  .cntDump ({ sq 0x184 [] with ring := 16 }),
  .cntDump (sq 0x00 []),
  .tableTune ({ sq 0x185 [] with ring := 16 }),
  .tableTune (sq 0x00 []),
  .tableUpdate ({ sq 0x188 [] with ring := 16 }) .badRequest,
  .tableUpdate (sq 0x00 []) .badRequest,
  .tableImage ({ sq 0x189 [] with ring := 16 }),
  .tableImage (sq 0x00 []),
  .tableCommit ({ sq 0x18A [] with ring := 16 }),
  .tableCommit (sq 0x00 []),
  .tableAbort ({ sq 0x18B [] with ring := 16 }),
  .tableAbort (sq 0x00 []),
  .commitLog ({ sq 0x18C [] with ring := 16 }),
  .commitLog (sq 0x00 []),
  .memSplit ({ sq 0x1C0 [] with ring := 16 }),
  .memSplit (sq 0x00 []),
  .placementInfo ({ sq 0x1C1 [] with ring := 16 }),
  .placementInfo (sq 0x00 []),
  .tierReport ({ sq 0x1C2 [] with ring := 16 }),
  .tierReport (sq 0x00 []),
  .mvTune ({ sq 0x1C4 [] with ring := 16 }),
  .mvTune (sq 0x00 []),
  .mvTableHint ({ sq 0x1C5 [] with ring := 16 }),
  .mvTableHint (sq 0x00 []),
  .memInfo ({ sq 0x1C8 [] with ring := 16 })] : List Instr).all (fun c => !c.wf) = true := by decide +kernel

theorem test_wf_refuses_entry_3 : ([
  .memInfo (sq 0x00 []),
  .mcPolicy ({ sq 0x1C9 [] with ring := 16 }),
  .mcPolicy (sq 0x00 []),
  .mcTargets ({ sq 0x1CA [] with ring := 16 }),
  .mcTargets (sq 0x00 []),
  .integrityInfo ({ sq 0x1D0 [] with ring := 16 }),
  .integrityInfo (sq 0x00 []),
  .scrubCfg ({ sq 0x1D1 [] with ring := 16 }),
  .scrubCfg (sq 0x00 []),
  .bucketCfg ({ sq 0x1D2 [] with ring := 16 }),
  .bucketCfg (sq 0x00 []),
  .retireCfg ({ sq 0x1D3 [] with ring := 16 }),
  .retireCfg (sq 0x00 []),
  .stageMap ({ sq 0x1D8 [] with ring := 16 }),
  .stageMap (sq 0x00 []),
  .budgetSet ({ sq 0x200 [] with ring := 16 }) .badRequest,
  .budgetSet (sq 0x00 []) .badRequest,
  .budgetGet ({ sq 0x201 [] with ring := 16 }),
  .budgetGet (sq 0x00 []),
  .regStatus ({ sq 0x202 [] with ring := 16 }),
  .regStatus (sq 0x00 []),
  .regWindow ({ sq 0x208 [] with ring := 16 }),
  .regWindow (sq 0x00 []),
  .regPlan ({ sq 0x209 [] with ring := 16 }),
  .regPlan (sq 0x00 [])] : List Instr).all (fun c => !c.wf) = true := by decide +kernel

theorem test_wf_refuses_entry_4 : ([
  .thermRead ({ sq 0x240 [] with ring := 16 }),
  .thermRead (sq 0x00 []),
  .thermLimits ({ sq 0x241 [] with ring := 16 }),
  .thermLimits (sq 0x00 []),
  .thermWarnSet ({ sq 0x242 [] with ring := 16 }),
  .thermWarnSet (sq 0x00 []),
  .thermLimitSet ({ sq 0x243 [] with ring := 16 }),
  .thermLimitSet (sq 0x00 []),
  .quenchReq ({ sq 0x244 [] with ring := 16 }),
  .quenchReq (sq 0x00 []),
  .bistRun ({ sq 0x280 [] with ring := 16 }),
  .bistRun (sq 0x00 []),
  .culletGet ({ sq 0x281 [] with ring := 16 }),
  .culletGet (sq 0x00 []),
  .culletAdd ({ sq 0x282 [] with ring := 16 }) .badRequest,
  .culletAdd (sq 0x00 []) .badRequest,
  .calSave ({ sq 0x284 [] with ring := 16 }),
  .calSave (sq 0x00 []),
  .calRestore ({ sq 0x285 [] with ring := 16 }) .badRequest,
  .calRestore (sq 0x00 []) .badRequest,
  .calCfg ({ sq 0x286 [] with ring := 16 }),
  .calCfg (sq 0x00 []),
  .fwLoad ({ sq 0x2C0 [] with ring := 16 }) .badRequest,
  .fwLoad (sq 0x00 []) .badRequest,
  .fwStore ({ sq 0x2C1 [] with ring := 16 }) .badRequest] : List Instr).all (fun c => !c.wf) = true := by decide +kernel

theorem test_wf_refuses_entry_5 : ([
  .fwStore (sq 0x00 []) .badRequest,
  .fwInfo ({ sq 0x2C2 [] with ring := 16 }),
  .fwInfo (sq 0x00 []),
  .rollbackAdvance ({ sq 0x2C3 [] with ring := 16 }) true .verified,
  .rollbackAdvance (sq 0x00 []) true .verified,
  .attest ({ sq 0x2C4 [] with ring := 16 }),
  .attest (sq 0x00 []),
  .idKeyRead ({ sq 0x2C5 [] with ring := 16 }),
  .idKeyRead (sq 0x00 []),
  .fuseRead ({ sq 0x2C8 [] with ring := 16 }),
  .fuseRead (sq 0x00 []),
  .fuseProgram ({ sq 0x2C9 [] with ring := 16 }) .badRequest true .verified,
  .fuseProgram (sq 0x00 []) .badRequest true .verified,
  .fuseLock ({ sq 0x2CA [] with ring := 16 }) true .verified,
  .fuseLock (sq 0x00 []) true .verified,
  .fuseResense ({ sq 0x2CB [] with ring := 16 }) ⟨[], []⟩,
  .fuseResense (sq 0x00 []) ⟨[], []⟩,
  .keyRevoke ({ sq 0x2CC [] with ring := 16 }) true .verified,
  .keyRevoke (sq 0x00 []) true .verified,
  .evSource ({ sq 0x300 [] with ring := 16 }),
  .evSource (sq 0x00 []),
  .evSink ({ sq 0x301 [] with ring := 16 }),
  .evSink (sq 0x00 []),
  .evPulse ({ sq 0x302 [] with ring := 16 }),
  .evPulse (sq 0x00 [])] : List Instr).all (fun c => !c.wf) = true := by decide +kernel

theorem test_wf_refuses_entry_6 : ([
  .evInfo ({ sq 0x303 [] with ring := 16 }),
  .evInfo (sq 0x00 []),
  .bmChannelCfg ({ sq 0x308 [] with ring := 16 }),
  .bmChannelCfg (sq 0x00 []),
  .bmNosnoop ({ sq 0x309 [] with ring := 16 }),
  .bmNosnoop (sq 0x00 []),
  .linkRetrain ({ sq 0x340 [] with ring := 16 }),
  .linkRetrain (sq 0x00 []),
  .linkPowerCfg ({ sq 0x341 [] with ring := 16 }),
  .linkPowerCfg (sq 0x00 []),
  .linkDisable ({ sq 0x342 [] with ring := 16 }),
  .linkDisable (sq 0x00 []),
  .linkEqSet ({ sq 0x343 [] with ring := 16 }),
  .linkEqSet (sq 0x00 [])] : List Instr).all (fun c => !c.wf) = true := by decide +kernel

theorem test_wf_accepts_entry_0 : ([
  .devIdentify (sq 0x100 []),
  .devHealth (sq 0x101 []),
  .powerInfo (sq 0x102 []) 0,
  .devReset (sq 0x104 []),
  .recoveryReport (sq 0x105 []),
  .expertEnter (sq 0x108 []),
  .expertLeave (sq 0x109 []),
  .errlogRead (sq 0x10C []),
  .errlogClear (sq 0x10D []),
  .nop (sq 0x110 []),
  .queueCfg (sq 0x140 []),
  .queueRemove (sq 0x141 []),
  .queueFlush (sq 0x142 []),
  .queueInfo (sq 0x143 []),
  .snapshotTake (sq 0x144 []),
  .snapshotRead (sq 0x145 []),
  .queueReserve (sq 0x150 []),
  .qmPrefetch (sq 0x151 []),
  .tableCreate (sq 0x180 []),
  .tableDelete (sq 0x181 []),
  .tableInfo (sq 0x182 []),
  .tableResize (sq 0x183 []),
  .cntDump (sq 0x184 []),
  .tableTune (sq 0x185 []),
  .tableUpdate (sq 0x188 []) .badRequest] : List Instr).all (fun c => c.wf) = true := by decide +kernel

theorem test_wf_accepts_entry_1 : ([
  .tableImage (sq 0x189 []),
  .tableCommit (sq 0x18A []),
  .tableAbort (sq 0x18B []),
  .commitLog (sq 0x18C []),
  .memSplit (sq 0x1C0 []),
  .placementInfo (sq 0x1C1 []),
  .tierReport (sq 0x1C2 []),
  .mvTune (sq 0x1C4 []),
  .mvTableHint (sq 0x1C5 []),
  .memInfo (sq 0x1C8 []),
  .mcPolicy (sq 0x1C9 []),
  .mcTargets (sq 0x1CA []),
  .integrityInfo (sq 0x1D0 []),
  .scrubCfg (sq 0x1D1 []),
  .bucketCfg (sq 0x1D2 []),
  .retireCfg (sq 0x1D3 []),
  .stageMap (sq 0x1D8 []),
  .budgetSet (sq 0x200 []) .badRequest,
  .budgetGet (sq 0x201 []),
  .regStatus (sq 0x202 []),
  .regWindow (sq 0x208 []),
  .regPlan (sq 0x209 []),
  .thermRead (sq 0x240 []),
  .thermLimits (sq 0x241 []),
  .thermWarnSet (sq 0x242 [])] : List Instr).all (fun c => c.wf) = true := by decide +kernel

theorem test_wf_accepts_entry_2 : ([
  .thermLimitSet (sq 0x243 []),
  .quenchReq (sq 0x244 []),
  .bistRun (sq 0x280 []),
  .culletGet (sq 0x281 []),
  .culletAdd (sq 0x282 []) .badRequest,
  .calSave (sq 0x284 []),
  .calRestore (sq 0x285 []) .badRequest,
  .calCfg (sq 0x286 []),
  .fwLoad (sq 0x2C0 []) .badRequest,
  .fwStore (sq 0x2C1 []) .badRequest,
  .fwInfo (sq 0x2C2 []),
  .rollbackAdvance (sq 0x2C3 []) true .verified,
  .attest (sq 0x2C4 []),
  .idKeyRead (sq 0x2C5 []),
  .fuseRead (sq 0x2C8 []),
  .fuseProgram (sq 0x2C9 []) .badRequest true .verified,
  .fuseLock (sq 0x2CA []) true .verified,
  .fuseResense (sq 0x2CB []) ⟨[], []⟩,
  .keyRevoke (sq 0x2CC []) true .verified,
  .evSource (sq 0x300 []),
  .evSink (sq 0x301 []),
  .evPulse (sq 0x302 []),
  .evInfo (sq 0x303 []),
  .bmChannelCfg (sq 0x308 []),
  .bmNosnoop (sq 0x309 [])] : List Instr).all (fun c => c.wf) = true := by decide +kernel

theorem test_wf_accepts_entry_3 : ([
  .linkRetrain (sq 0x340 []),
  .linkPowerCfg (sq 0x341 []),
  .linkDisable (sq 0x342 []),
  .linkEqSet (sq 0x343 [])] : List Instr).all (fun c => c.wf) = true := by decide +kernel

/-! ## Witnesses: the hypotheses of every clause can be met together -/

theorem test_witness_PowerOnEventsAdvance :
    (∃ (s : State), s.pilot.phase = .off) ∧
    (∃ (s : State), s.pilot.phase = .rails) ∧
    (∃ (s : State), s.pilot.phase = .rails) ∧
    (∃ (s : State), s.pilot.phase ≠ .rails) ∧
    (∃ (s : State), s.pilot.phase ≠ .off ∧ s.pilot.strapsTaken = false) ∧
    (∃ (s : State), s.pilot.phase = .refwait ∧ s.pilot.strapsTaken = true) ∧
    (∃ (s : State) (count : Nat), s.pilot.phase = .refclk ∧ s.pilot.thermtrip = false ∧ 9600 ≤ count ∧ count ≤ 10400) ∧
    (∃ (s : State) (count : Nat), s.pilot.phase = .refclk ∧ s.pilot.thermtrip = false ∧ ¬ (9600 ≤ count ∧ count ≤ 10400)) :=
  ⟨⟨(ph .off), by decide +kernel⟩,
    ⟨z, by decide +kernel⟩,
    ⟨z, by decide +kernel⟩,
    ⟨up, by decide +kernel⟩,
    ⟨z, by decide +kernel⟩,
    ⟨(pl (fun p => { p with strapsTaken := true }) (ph .refwait)), by decide +kernel⟩,
    ⟨(ph .refclk), 9600, by decide +kernel⟩,
    ⟨(ph .refclk), 10401, by decide +kernel⟩⟩

theorem test_witness_RailLossResets :
    (∃ (s : State) (rail : Nat), rail ≠ 2 ∧ rail ≤ 8 ∧ s.resettable = true ∧ s.banked = false) ∧
    (∃ (s : State) (rail : Nat), rail ≠ 2 ∧ rail ≤ 8 ∧ s.pilot.phase ≠ .off ∧ s.banked = true) :=
  ⟨⟨up, 8, by decide +kernel⟩,
    ⟨(upR [(devStatusStage, 14)]), 8, by decide +kernel⟩⟩

theorem test_witness_ResetSourcesResetAndRelease :
    (∃ (s : State), s.resettable = true) ∧
    (∃ (s : State), s.pcieAlive = true) ∧
    (∃ (s : State), s.pcieAlive = true ∧ (s.f devStatusPcieReady = 1 ∨ s.safeHold = true)) ∧
    (∃ (s : State), s.pcieAlive = true ∧ (s.pcie.linkUp = true ∨ s.pilot.phase = .ready)) ∧
    (∃ (s : State) (ir : Nat), s.resettable = true ∧ s.banked = false ∧ s.pilot.tapHeld = false ∧ ir ∈ [0x00, 0x03, 0x04, 0x05, 0x06]) ∧
    (∃ (s : State) (ir : Nat), s.pilot.phase ≠ .off ∧ s.banked = true ∧ ir ∈ [0x00, 0x03, 0x04, 0x05, 0x06]) ∧
    (∃ (s : State), s.pilot.railsLow = 0) ∧
    (∃ (s : State), s.pilot.phase ≠ .off) ∧
    (∃ (s : State) (ir : Nat), s.pilot.phase ≠ .off ∧ ir % 256 ∉ [0x00, 0x03, 0x04, 0x05, 0x06] ∧ ((ir % 256 < 0x80 ∨ ir % 256 = 0xFF ∨ s.on fzCloseCustomer = true))) ∧
    (∃ (s : State) (ir : Nat), s.pilot.phase ≠ .off ∧ 0x80 ≤ ir % 256 ∧ ir % 256 ≤ 0xFE ∧ s.on fzCloseCustomer = false) :=
  ⟨⟨up, by decide +kernel⟩,
    ⟨up, by decide +kernel⟩,
    ⟨(upR [(devStatusPcieReady, 1)]), by decide +kernel⟩,
    ⟨{ up with pcie := { up.pcie with linkUp := true } }, by decide +kernel⟩,
    ⟨up, 0, by decide +kernel⟩,
    ⟨(upR [(devStatusStage, 14)]), 6, by decide +kernel⟩,
    ⟨up, by decide +kernel⟩,
    ⟨up, by decide +kernel⟩,
    ⟨up, 127, by decide +kernel⟩,
    ⟨up, 128, by decide +kernel⟩⟩

theorem test_witness_SequencesReachReady :
    (∃ (s : State) (b : BootInput), s.mayBoot = true ∧ 4 ≤ s.pilot.next ∧ s.pilot.next ≤ 11 ∧ 11 ≤ b.stop ∧ s.f devResetCauseHeld ≠ 1 ∧ s.f thStatusLevel ≠ 5) ∧
    (∃ (s : State) (b : BootInput), s.mayBoot = true ∧ 4 ≤ s.pilot.next ∧ s.pilot.next ≤ 11 ∧ 11 ≤ b.stop ∧ s.f devResetCauseHeld = 1 ∧ s.f thStatusLevel ≠ 5) ∧
    (∃ (s : State) (b : BootInput), s.mayBoot = true ∧ 4 ≤ s.pilot.next ∧ s.pilot.next ≤ 10 ∧ s.pilot.next ≤ b.stop ∧ s.f thStatusLevel = 5) ∧
    (∃ (s : State) (layer : Nat), s.mayBoot = true ∧ s.pilot.next = 6 ∧ s.f thStatusLevel ≠ 5 ∧ layer ≤ 1 ∧ layer ≤ s.dies) ∧
    (∃ (s : State) (layer : Nat), s.mayBoot = true ∧ s.pilot.next = 6 ∧ 2 ≤ layer ∧ layer ≤ s.dies) :=
  ⟨⟨ready, bi, by decide +kernel⟩,
    ⟨(ready.setFs [(devResetCauseHeld, 1)]), bi, by decide +kernel⟩,
    ⟨(ready.setF thStatusLevel 5), bi, by decide +kernel⟩,
    ⟨(pl (fun p => { p with next := 6 }) ready), 1, by decide +kernel⟩,
    ⟨(pl (fun p => { p with next := 6 }) ready), 2, by decide +kernel⟩⟩

theorem test_witness_CommandedResetCourse :
    (∃ (s : State) (e : Sqe), Running e s ∧ e.bit 16 0 = false) ∧
    (∃ (s : State) (e : Sqe), Running e s ∧ e.bit 16 0 = true ∧ s.on elStatusSvExpired = true ∧ s.quenched = false) ∧
    (∃ (s : State) (e : Sqe), Running e s ∧ e.bit 16 0 = true ∧ s.on elStatusSvExpired = false ∧ s.quenched = false) ∧
    (∃ (s : State) (q : Nat × Nat), s.quiesce = some q ∧ s.quiesced = true ∧ s.halted = false ∧ s.drainStack.stackDrained = true) ∧
    (∃ (s : State) (q : Nat × Nat), s.quiesce = some q ∧ s.halted = false) ∧
    (∃ (s : State) (k : ResetKind), s.pilot.nextKind = some k ∧ s.quiesce = none ∧ s.halted = false ∧ s.resettable = true ∧ ((k = .uncommanded ∨ ((List.range 16).foldl (fun u p => u.stopPort p 2 false) s).noticeWaits = false))) ∧
    (∃ (s : State) (k : Nat) (i : FwImage), s.mayStartService = true ∧ s.on devResetCauseHeld = true ∧ s.trust.marked = some k ∧ s.slot k = some i ∧ s.imageCheck i = none) ∧
    (∃ (s : State) (k : Nat) (i : FwImage) (c : Nat × Nat), s.mayStartService = true ∧ s.on devResetCauseHeld = true ∧ s.trust.marked = some k ∧ s.slot k = some i ∧ s.imageCheck i = some c) :=
  ⟨⟨(rg (sq 0x104 []) up), (sq 0x104 []), runs_ok (by decide +kernel), by decide +kernel⟩,
    ⟨(rg (sq 0x104 [(16, 1)]) (upR [(elStatusSvExpired, 1)])), (sq 0x104 [(16, 1)]), runs_ok (by decide +kernel), by decide +kernel⟩,
    ⟨(rg (sq 0x104 [(16, 1)]) up), (sq 0x104 [(16, 1)]), runs_ok (by decide +kernel), by decide +kernel⟩,
    ⟨{ up with quiesce := some (0, 7) }, (0, 7), by decide +kernel⟩,
    ⟨{ up with quiesce := some (0, 7) }, (0, 7), by decide +kernel⟩,
    ⟨(pl (fun p => { p with nextKind := some .clearing }) up), .clearing, by decide +kernel⟩,
    ⟨{ upR [(devResetCauseHeld, 1), (fzKeysUsable, 1)] with trust := { trustReset with marked := some 0, slot0 := some im } }, 0, im, by decide +kernel⟩,
    ⟨{ upR [(devResetCauseHeld, 1), (fzKeysUsable, 0)] with trust := { trustReset with marked := some 0, slot0 := some im } }, 0, im, (4, stSignatureInvalid), by decide +kernel⟩⟩

theorem test_witness_WatchdogsAct :
    (∃ (s : State), s.watchdogRuns = true) ∧
    (∃ (s : State), s.watchdogRuns = true) ∧
    (∃ (s : State), s.on elStatusSvExpired = true ∧ s.pilot.completionsPosted = true ∧ s.on elCfgSvAction = true ∧ s.halted = false ∧ s.resettable = true) ∧
    (∃ (s : State), s.supervised = true) ∧
    (∃ (s : State), s.supervised = true) ∧
    (∃ (s : State), s.supervised = true) :=
  ⟨⟨(pl (fun p => { p with svWatchdogArmed := true }) fw), by decide +kernel⟩,
    ⟨(pl (fun p => { p with svWatchdogArmed := true }) fw), by decide +kernel⟩,
    ⟨(upR [(elStatusSvExpired, 1), (elCfgSvAction, 1)]), by decide +kernel⟩,
    ⟨up, by decide +kernel⟩,
    ⟨up, by decide +kernel⟩,
    ⟨up, by decide +kernel⟩⟩

theorem test_witness_RefclkMonitorBanks :
    (∃ (s : State), s.pilot.refclkOk = true) ∧
    (∃ (s : State), s.monitors = true) ∧
    (∃ (s : State) (count : Nat), s.monitors = true ∧ s.pilot.refCount ≠ 0 ∧ 2000 * s.pilot.refCount < ((count : Int) - s.pilot.refCount).natAbs * 1000000) ∧
    (∃ (s : State) (count : Nat), s.monitors = true ∧ s.pilot.refCount ≠ 0 ∧ ((count : Int) - s.pilot.refCount).natAbs * 1000000 ≤ 2000 * s.pilot.refCount) ∧
    (∃ (s : State), s.monitors = true ∧ s.pilot.refCount = 0) :=
  ⟨⟨up, by decide +kernel⟩,
    ⟨up, by decide +kernel⟩,
    ⟨up, 1002001, by decide +kernel⟩,
    ⟨up, 1002000, by decide +kernel⟩,
    ⟨(pl (fun p => { p with refCount := 0 }) up), by decide +kernel⟩⟩

theorem test_witness_ClocksAndDomainsChange :
    (∃ (d : Nat), ¬ (4 ≤ d ∧ d ≤ 31) ∧ d ≠ 51 ∧ d ≠ 52 ∧ d ≠ 59) ∧
    (∃ (s : State), s.safeHold = false) ∧
    (∃ (d : Nat), 4 ≤ d ∧ d < 20) ∧
    (∃ (d : Nat), ((20 ≤ d ∧ d ≤ 30) ∨ d = 52 ∨ d = 59)) ∧
    (∃ (d : Nat), ¬ (4 ≤ d ∧ d < 20) ∧ d ≠ 31 ∧ d ≠ 51) ∧
    (∃ (s : State) (d : Nat), 4 ≤ d ∧ d < 20 ∧ s.f (rlLinkStatusClkLocal (d - 4)) ≤ 1) ∧
    (∃ (d : Nat), d ≠ 51) ∧
    (∃ (s : State) (d : Nat), s.gateable d = true ∧ s.clockBusy d = false ∧ bitOf (s.f plGateDis) d = false) ∧
    (∃ (s : State) (d : Nat), s.hasGate d = true ∧ bitOf s.dom.inReset d = false ∧ bitOf s.dom.isolatedClk d = false) ∧
    (∃ (s : State) (d : Nat), s.mayPowerOff d = true ∧ bitOf (s.f plPwrHold) d = false) ∧
    (∃ (s : State) (d : Nat), d ≤ 49 ∧ s.domainCulled d = false ∧ bitOf s.dom.isolatedPwr d = false) ∧
    (∃ (s : State) (b : Nat), bitOf s.dom.benchLoading b = true) ∧
    (∃ (s : State), s.dom.draining = true) :=
  ⟨⟨1, by decide +kernel⟩,
    ⟨up, by decide +kernel⟩,
    ⟨19, by decide +kernel⟩,
    ⟨52, by decide +kernel⟩,
    ⟨3, by decide +kernel⟩,
    ⟨up, 19, by decide +kernel⟩,
    ⟨30, by decide +kernel⟩,
    ⟨up, 3, by decide +kernel⟩,
    ⟨up, 59, by decide +kernel⟩,
    ⟨up, 30, by decide +kernel⟩,
    ⟨up, 49, by decide +kernel⟩,
    ⟨{ up with dom := { domReset with benchLoading := 128 } }, 7, by decide +kernel⟩,
    ⟨{ up with dom := { domReset with isolatedPwr := 1, draining := true } }, by decide +kernel⟩⟩

theorem test_witness_DeviceTimeEventsAct :
    (∃ (s : State), s.f tbCtrlSrc = 1 ∧ s.pcie.ptmEnable = true) ∧
    (∃ (s : State), s.f tbCtrlSrc = 1 ∧ s.pcie.ptmEnable = false) ∧
    (∃ (s : State), s.time.ptmOpen = true ∧ s.f tbCtrlSrc = 1) ∧
    (∃ (s : State), s.time.ptmOpen = true ∧ s.time.ptmFails < 2) ∧
    (∃ (s : State), s.time.ptmOpen = true ∧ 2 ≤ s.time.ptmFails) ∧
    (∃ (s : State) (tick : Nat), s.f tbStatusTimesyncStuck ≠ 1 ∧ ((s.time.synced = false ∨ s.f tbSyncCapt + max 1 (s.f tbSyncCfgMinInterval) * 4000000 ≤ tick - 100))) ∧
    (∃ (s : State) (tick : Nat), s.f tbStatusTimesyncStuck ≠ 1 ∧ s.time.synced = true ∧ tick - 100 < s.f tbSyncCapt + max 1 (s.f tbSyncCfgMinInterval) * 4000000) ∧
    (∃ (s : State), s.decodesBars = true) ∧
    (∃ (s : State), s.decodesBars = false) ∧
    (∃ (s : State) (off : Nat), s.decodesBars = true ∧ (s.safeHold = false ∨ safeHoldBlock (off / 4 * 4) = true) ∧ s.blockClosed (off / 4 * 4) = false ∧ latchesHigh (off / 4 * 4) = true) ∧
    (∃ (s : State) (off : Nat), s.decodesBars = true ∧ (s.safeHold = false ∨ safeHoldBlock (off / 4 * 4) = true) ∧ s.blockClosed (off / 4 * 4) = false ∧ latchesHigh (off / 4 * 4) = false) ∧
    (∃ (s : State), s.decodesBars = false) ∧
    (∃ (s : State) (off : Nat), s.decodesBars = true ∧ s.safeHold = true ∧ safeHoldBlock (off / 4 * 4) = false) :=
  ⟨⟨{ (upR [(tbCtrlSrc, 1)]) with pcie := { pcieReset with ptmEnable := true } }, by decide +kernel⟩,
    ⟨(upR [(tbCtrlSrc, 1)]), by decide +kernel⟩,
    ⟨{ (upR [(tbCtrlSrc, 1)]) with time := { timeReset with ptmOpen := true } }, by decide +kernel⟩,
    ⟨{ up with time := { timeReset with ptmOpen := true, ptmFails := 1 } }, by decide +kernel⟩,
    ⟨{ up with time := { timeReset with ptmOpen := true, ptmFails := 2 } }, by decide +kernel⟩,
    ⟨up, 100, by decide +kernel⟩,
    ⟨{ up with time := { timeReset with synced := true } }, 4000099, by decide +kernel⟩,
    ⟨up, by decide +kernel⟩,
    ⟨z, by decide +kernel⟩,
    ⟨up, 131072, by decide +kernel⟩,
    ⟨up, 0x50000, by decide +kernel⟩,
    ⟨(up.setF devStatusPcieReady 0), by decide +kernel⟩,
    ⟨held, 393216, by decide +kernel⟩⟩

theorem test_witness_ThermalSensingActs :
    (∃ (s : State), s.pastStep4 = true) ∧
    (∃ (s : State) (n : Nat), (s.sensor n).state = 1 ∧ (s.sensor n).recovering = true) ∧
    (∃ (s : State) (l : Nat), s.layerPresent l = true ∧ 1 ≤ l ∧ l ≤ 16 ∧ s.pilot.stackHold = false ∧ s.layerAsleep l = false) :=
  ⟨⟨up, by decide +kernel⟩,
    ⟨(up.setSensor 0 ⟨0, 1, 0, true, false⟩), 0, by decide +kernel⟩,
    ⟨{ up with trust := { trustReset with latched := factoryWords } }, 16, by decide +kernel⟩⟩

theorem test_witness_QuenchFollowsItsSources :
    (∃ (s : State), s.pilot.phase ≠ .running) ∧
    (∃ (s : State), s.pilot.phase = .running ∧ s.on thStatusHoldActive = false) ∧
    (∃ (s : State), s.pilot.phase = .running ∧ s.on thStatusHoldActive = true) ∧
    (∃ (s : State), s.on thStatusHoldActive = true) ∧
    (∃ (s : State) (e : Sqe), Running e s ∧ e.bit 16 0 = true) ∧
    (∃ (s : State) (e : Sqe), Running e s ∧ e.bit 16 0 = false) ∧
    (∃ (s : State), s.quiesce = none ∧ s.halted = false ∧ s.thermal.stopPending = true ∧ s.drainStack.stackDrained = true ∧ s.drainStack.threadsHeld = 0) ∧
    (∃ (s : State), ((∀ l ∈ s.presentLayers, s.quenchValue l ≤ s.threshold (isDram l) 5 - celsius 10))) ∧
    (∃ (s : State), s.on thStatusNarrowed = true ∧ s.f thStatusLevel ≤ 3) ∧
    (∃ (s : State) (n : Nat), n < s.sensorCount ∧ s.pilot.phase ≠ .off) :=
  ⟨⟨z, by decide +kernel⟩,
    ⟨up, by decide +kernel⟩,
    ⟨(upR [(thStatusHoldActive, 1)]), by decide +kernel⟩,
    ⟨(upR [(thStatusHoldActive, 1)]), by decide +kernel⟩,
    ⟨(rg (sq 0x244 [(16, 1)]) up), (sq 0x244 [(16, 1)]), runs_ok (by decide +kernel), by decide +kernel⟩,
    ⟨(rg (sq 0x244 []) up), (sq 0x244 []), runs_ok (by decide +kernel), by decide +kernel⟩,
    ⟨{ up with thermal := { thermalReset with stopPending := true } }, by decide +kernel⟩,
    ⟨up, by decide +kernel⟩,
    ⟨(upR [(thStatusNarrowed, 1), (thStatusLevel, 3)]), by decide +kernel⟩,
    ⟨up, 23, by decide +kernel⟩⟩

theorem test_witness_ThermalCommandsAnswer :
    (∃ (s : State) (e : Sqe), Running e s ∧ e.par 16 1 ≤ 17) ∧
    (∃ (s : State) (e : Sqe), Running e s ∧ 17 < e.par 16 1) ∧
    (∃ (s : State) (e : Sqe), Running e s) ∧
    (∃ (s : State) (e : Sqe), Running e s ∧ e.par 16 1 ≤ 1 ∧ 2560 ≤ ofTwos 16 (e.par 18 2) ∧ ofTwos 16 (e.par 18 2) < s.threshold (e.par 16 1 == 0) 2) ∧
    (∃ (s : State) (e : Sqe), Running e s ∧ ((1 < e.par 16 1 ∨ ofTwos 16 (e.par 18 2) < 2560 ∨ s.threshold (e.par 16 1 == 0) 2 ≤ ofTwos 16 (e.par 18 2)))) ∧
    (∃ (s : State) (e : Sqe) (d : Bool) (l : Nat), Running e s ∧ e.par 16 1 ≤ 1 ∧ d = (e.par 16 1 == 0) ∧ l = e.par 17 1 ∧ 2 ≤ l ∧ l ≤ 5 ∧ (s.setF (thresholdFld d l) (e.par 18 2)).thresholdsRise d = true ∧ ofTwos 16 (e.par 18 2) ≤ ofTwos 16 (coldOf (thresholdFld d l))) ∧
    (∃ (s : State) (e : Sqe), Running e s ∧ ((1 < e.par 16 1 ∨ e.par 17 1 < 2 ∨ 5 < e.par 17 1 ∨ (s.setF (thresholdFld (e.par 16 1 == 0) (e.par 17 1)) (e.par 18 2)).thresholdsRise (e.par 16 1 == 0) = false))) ∧
    (∃ (s : State) (e : Sqe) (d : Bool) (l : Nat), Running e s ∧ e.par 16 1 ≤ 1 ∧ d = (e.par 16 1 == 0) ∧ l = e.par 17 1 ∧ 2 ≤ l ∧ l ≤ 5 ∧ (s.setF (thresholdFld d l) (e.par 18 2)).thresholdsRise d = true ∧ ofTwos 16 (coldOf (thresholdFld d l)) < ofTwos 16 (e.par 18 2)) ∧
    (∃ (s : State) (e : Sqe), Running e s) :=
  ⟨⟨(rg (sq 0x240 [(16, 17)]) up), (sq 0x240 [(16, 17)]), runs_ok (by decide +kernel), by decide +kernel⟩,
    ⟨(rg (sq 0x240 [(16, 18)]) up), (sq 0x240 [(16, 18)]), runs_ok (by decide +kernel), by decide +kernel⟩,
    ⟨(rg (sq 0x241 []) up), (sq 0x241 []), runs_ok (by decide +kernel)⟩,
    ⟨(rg (sq 0x242 [(18, 2560)]) up), (sq 0x242 [(18, 2560)]), runs_ok (by decide +kernel), by decide +kernel⟩,
    ⟨(rg (sq 0x242 [(16, 1), (18, coldOf thThrB0Throttle1)]) up), (sq 0x242 [(16, 1), (18, coldOf thThrB0Throttle1)]), runs_ok (by decide +kernel), by decide +kernel⟩,
    ⟨(rg (sq 0x243 [(17, 5), (18, coldOf thThrD2Quench)]) up), (sq 0x243 [(17, 5), (18, coldOf thThrD2Quench)]), true, 5, runs_ok (by decide +kernel), by decide +kernel⟩,
    ⟨(rg (sq 0x243 [(17, 6), (18, coldOf thThrD2Quench)]) up), (sq 0x243 [(17, 6), (18, coldOf thThrD2Quench)]), runs_ok (by decide +kernel), by decide +kernel⟩,
    ⟨(rg (sq 0x243 [(17, 5), (18, coldOf thThrD2Quench + 1)]) up), (sq 0x243 [(17, 5), (18, coldOf thThrD2Quench + 1)]), true, 5, runs_ok (by decide +kernel), by decide +kernel⟩,
    ⟨(rg (sq 0x244 []) up), (sq 0x244 []), runs_ok (by decide +kernel)⟩⟩

theorem test_witness_LanesReportAndRetrain :
    (∃ (s : State) (p lane : Nat) (los lol : Bool), p ≤ 15 ∧ lane ≤ 7 ∧ ((los = false ∧ lol = false) ∨ bitOf (s.f (rlLinkStatusLanes p)) lane = false)) ∧
    (∃ (s : State) (p lane : Nat) (los lol : Bool), p ≤ 15 ∧ lane ≤ 7 ∧ (los = true ∨ lol = true) ∧ bitOf (s.f (rlLinkStatusLanes p)) lane = true ∧ s.portHot p = true ∧ (s.port p).short = false ∧ (s.port p).shorts = []) ∧
    (∃ (s : State) (p : Nat), s.portHot p = true ∧ s.f (rlLaneStatusLos p) = 0xFF) ∧
    (∃ (s : State) (p lane : Nat) (x : Frame), p ≤ 15 ∧ lane ≤ 7 ∧ x.marker = true ∧ frameCheck x.control = true ∧ bitsOf x.control 26 24 = 0 ∧ 1 ≤ s.linkState p ∧ s.linkState p ≤ 6 ∧ (s.port p).short = false ∧ (s.port p).fast = false) ∧
    (∃ (s : State) (p lane : Nat) (x : Frame), p ≤ 15 ∧ lane ≤ 7 ∧ x.marker = true ∧ frameCheck x.control = true ∧ bitsOf x.control 26 24 = 2 ∧ (s.lane p lane).answered = false ∧ s.presetForced p lane = false ∧ 1 ≤ s.linkState p ∧ s.linkState p ≤ 6 ∧ (s.port p).short = false ∧ (s.port p).fast = false ∧ bitOf x.control 27 = false ∧ -15 ≤ (s.lane p lane).cm1 ∧ (s.lane p lane).cm1 ≤ 0 ∧ 33 ≤ (s.lane p lane).c0) ∧
    (∃ (s : State) (p lane : Nat) (x : Frame) (q : Nat × Bool × Nat), p ≤ 15 ∧ lane ≤ 7 ∧ x.marker = true ∧ frameCheck x.control = true ∧ 1 ≤ s.linkState p ∧ s.linkState p ≤ 6 ∧ (s.port p).short = false ∧ (s.port p).fast = false ∧ (s.lane p lane).asking = some q) ∧
    (∃ (x : Frame), (x.marker = false ∨ frameCheck x.control = false)) :=
  ⟨⟨up, 15, 7, false, false, by decide +kernel⟩,
    ⟨(pt (fun p => { p with partnerSet := 255 }) (hot.setFs [(rlLinkStatusLanes 0, 255), (rlLaneStatusLos 0, 0), (rlLaneStatusLol 0, 0)])), 0, 7, true, false, by decide +kernel⟩,
    ⟨(hot.setFs [(rlLaneStatusLos 0, 0xFF)]), 0, by decide +kernel⟩,
    ⟨(up.setFs [(rlLinkStatusState 0, 4), (rlLaneStatusLos 0, 0), (rlLaneStatusLol 0, 0)]), 0, 7, (frame (0x0F * 2 ^ 40 + 7)), by decide +kernel⟩,
    ⟨(up.setFs [(rlLinkStatusState 15, 6)]), 15, 7, (frame (2 * 2 ^ 24)), by decide +kernel⟩,
    ⟨((up.setFs [(rlLinkStatusState 0, 6), (rlLaneStatusLos 0, 0), (rlLaneStatusLol 0, 0)]).setLane 0 7 { (laneOf 0) with asking := some (2, true, 0) }), 0, 7, (frame (2 ^ 34)), (2, true, 0), by decide +kernel⟩,
    ⟨{ frame 0 with marker := false }, by decide +kernel⟩⟩

theorem test_witness_TrainingWalksItsStates :
    (∃ (s : State) (p : Nat), p ≤ 15 ∧ (s.port p).notice = none ∧ s.linkState p = 1 ∧ s.usableLanes p ≠ 0) ∧
    (∃ (s : State) (p : Nat) (x : TrainInput), p ≤ 15 ∧ (s.port p).notice = none ∧ s.linkState p = 2 ∧ (s.port p).fast = false ∧ s.usableLanes p ≠ 0 ∧ x.lanes &&& s.usableLanes p = s.usableLanes p) ∧
    (∃ (s : State) (p : Nat) (x : TrainInput), p ≤ 15 ∧ (s.port p).notice = none ∧ s.linkState p = 2 ∧ (s.port p).fast = true ∧ x.lanes &&& s.usableLanes p = s.f (rlLinkStatusLanes p)) ∧
    (∃ (s : State) (p : Nat), p ≤ 15 ∧ (s.port p).notice = none ∧ s.linkState p = 3 ∧ ((∀ l, l < 8 → bitOf (s.port p).trainSet l = true → (s.lane p l).seen ≠ none))) ∧
    (∃ (s : State) (p : Nat) (rev : Bool), p ≤ 15 ∧ (s.port p).notice = none ∧ s.linkState p = 4 ∧ s.laneOrder p = some rev ∧ s.echoed p = true) ∧
    (∃ (s : State) (p : Nat) (x : TrainInput), p ≤ 15 ∧ (s.port p).notice = none ∧ s.linkState p = 5 ∧ (s.port p).short = false ∧ (s.port p).fast = false ∧ x.lanes &&& (s.port p).trainSet = (s.port p).trainSet) ∧
    (∃ (s : State) (p : Nat) (x : TrainInput), p ≤ 15 ∧ (s.port p).notice = none ∧ s.linkState p = 5 ∧ ((s.port p).short = true ∨ (s.port p).fast = true) ∧ x.lanes &&& s.f (rlLinkStatusLanes p) = s.f (rlLinkStatusLanes p)) ∧
    (∃ (s : State) (p : Nat) (set : Nat × Nat), p ≤ 15 ∧ (s.port p).notice = none ∧ s.linkState p = 6 ∧ s.ownReady p = true ∧ chooseSet (s.on (rlLinkStatusReversed p)) (s.proposal p &&& (s.port p).partnerSet) = some set ∧ s.proposal p &&& (s.port p).partnerSet &&& s.partnerReady p = s.proposal p &&& (s.port p).partnerSet) ∧
    (∃ (s : State) (p : Nat) (x : TrainInput), p ≤ 15 ∧ (s.port p).notice = none ∧ s.linkState p = 7 ∧ 3 ≤ (s.port p).framings ∧ x.partnerFramed = true) ∧
    (∃ (s : State) (p : Nat), p ≤ 15 ∧ (s.port p).notice = none ∧ s.linkState p = 8 ∧ (s.port p).initSeen = true) ∧
    (∃ (s : State) (p st code : Nat), p ≤ 15 ∧ (st, code) ∈ [(1, 1), (3, 3), (5, 6), (7, 8), (8, 9)] ∧ s.linkState p = st ∧ (s.port p).short = false ∧ (s.port p).fast = false) ∧
    (∃ (s : State) (p : Nat) (x : TrainInput), p ≤ 15 ∧ s.linkState p = 2 ∧ (s.port p).fast = false ∧ (chooseSet false (x.lanes &&& s.usableLanes p)).isSome = true) ∧
    (∃ (s : State) (p : Nat), p ≤ 15 ∧ s.linkState p = 0xA) :=
  ⟨⟨(up.setFs [(rlLinkStatusState 0, 1), (rlLaneStatusLos 0, 0), (rlLaneStatusLol 0, 0)]), 0, by decide +kernel⟩,
    ⟨(up.setFs [(rlLinkStatusState 0, 2), (rlLaneStatusLos 0, 0), (rlLaneStatusLol 0, 0)]), 0, (tin 0xFF), by decide +kernel⟩,
    ⟨(pt (fun p => { p with fast := true }) (up.setFs [(rlLinkStatusState 0, 2), (rlLaneStatusLos 0, 0), (rlLaneStatusLol 0, 0), (rlLinkStatusLanes 0, 0x0F)])), 0, (tin 0x0F), by decide +kernel⟩,
    ⟨((pt (fun p => { p with trainSet := 1 }) (up.setFs [(rlLinkStatusState 0, 3), (rlLaneStatusLos 0, 0), (rlLaneStatusLol 0, 0)])).setLane 0 0 { laneOf 0 with seen := some 0 }), 0, by decide +kernel⟩,
    ⟨((pt (fun p => { p with trainSet := 1 }) (up.setFs [(rlLinkStatusState 0, 4), (rlLaneStatusLos 0, 0), (rlLaneStatusLol 0, 0)])).setLane 0 0 { laneOf 0 with seen := some 7, echoOk := true }), 0, true, by decide +kernel⟩,
    ⟨(pt (fun p => { p with trainSet := 0x0F }) (up.setFs [(rlLinkStatusState 0, 5), (rlLaneStatusLos 0, 0), (rlLaneStatusLol 0, 0)])), 0, (tin 0x0F), by decide +kernel⟩,
    ⟨(pt (fun p => { p with short := true }) (up.setFs [(rlLinkStatusState 0, 5), (rlLaneStatusLos 0, 0), (rlLaneStatusLol 0, 0), (rlLinkStatusLanes 0, 0x0F)])), 0, (tin 0x0F), by decide +kernel⟩,
    ⟨(lanesOf (fun x => { x with meets := true, rxReady := true }) (pt (fun p => { p with trainSet := 0xFF, partnerSet := 0x0F }) (up.setFs [(rlLinkStatusState 0, 6), (rlLaneStatusLos 0, 0), (rlLaneStatusLol 0, 0)]))), 0, (0x0F, 1), by decide +kernel⟩,
    ⟨(pt (fun p => { p with framings := 3 }) (up.setFs [(rlLinkStatusState 0, 7), (rlLaneStatusLos 0, 0), (rlLaneStatusLol 0, 0)])), 0, (tin 0xFF), by decide +kernel⟩,
    ⟨(pt (fun p => { p with initSeen := true }) (hot.setFs [(rlLinkStatusState 0, 8), (rlLaneStatusLos 0, 0), (rlLaneStatusLol 0, 0)])), 0, by decide +kernel⟩,
    ⟨(up.setFs [(rlLinkStatusState 0, 1), (rlLaneStatusLos 0, 0), (rlLaneStatusLol 0, 0), (rlLinkStatusAttempt 0, 4)]), 0, 1, 1, by decide +kernel⟩,
    ⟨(up.setFs [(rlLinkStatusState 0, 2), (rlLaneStatusLos 0, 0), (rlLaneStatusLol 0, 0)]), 0, (tin 0x03), by decide +kernel⟩,
    ⟨(up.setFs [(rlLinkStatusState 0, 10), (rlLaneStatusLos 0, 0), (rlLaneStatusLol 0, 0)]), 0, by decide +kernel⟩⟩

theorem test_witness_PortPowerHandshake :
    (∃ (s : State) (p arg : Nat) (b : List Byte), p ≤ 15 ∧ s.portHot p = true ∧ flitOk b 2 = true ∧ arg = bufNat b 2 1 ∧ s.pwrPermitted p arg = true ∧ s.portBusy p = false ∧ s.canControl p = true) ∧
    (∃ (s : State) (p arg : Nat) (b : List Byte), p ≤ 15 ∧ s.portHot p = true ∧ flitOk b 2 = true ∧ arg = bufNat b 2 1 ∧ (s.pwrPermitted p arg = false ∨ s.portBusy p = true) ∧ s.canControl p = true) ∧
    (∃ (s : State) (p : Nat) (b : List Byte), p ≤ 15 ∧ s.portHot p = true ∧ flitOk b 2 = true ∧ s.canControl p = false) ∧
    (∃ (s : State) (p arg : Nat) (b : List Byte), p ≤ 15 ∧ s.portHot p = true ∧ flitOk b 3 = true ∧ arg = bufNat b 2 1 ∧ (s.port p).pwrReq = some arg ∧ (s.port p).keptCw = [] ∧ (s.port p).txBuf = []) ∧
    (∃ (s : State) (p arg : Nat) (b : List Byte), p ≤ 15 ∧ s.portHot p = true ∧ flitOk b 3 = true ∧ arg = bufNat b 2 1 ∧ (s.port p).pwrReq = some arg ∧ (s.port p).keptCw ≠ [] ∧ (s.port p).txBuf = []) ∧
    (∃ (s : State) (p arg : Nat) (b : List Byte), p ≤ 15 ∧ s.portHot p = true ∧ flitOk b 4 = true ∧ arg = bufNat b 2 1 ∧ (s.port p).pwrReq = some arg) ∧
    (∃ (sub : Nat) (b : List Byte), (sub = 2 ∨ sub = 3 ∨ sub = 4) ∧ flitOk b sub = false) ∧
    (∃ (s : State) (p : Nat), s.portHot p = true ∧ s.on (rlPwrCfgWarmEn p) = true ∧ s.portBusy p = false ∧ (s.port p).pwrReq = none ∧ (s.port p).pwrAgreed = none ∧ s.canControl p = true) ∧
    (∃ (s : State) (p : Nat), s.portWarm p = true ∧ s.on (rlPwrCfgBankedEn p) = true ∧ s.portBusy p = false ∧ (s.port p).pwrReq = none ∧ (s.port p).pwrAgreed = none ∧ s.canControl p = true) ∧
    (∃ (s : State) (p : Nat), s.portWarm p = true) ∧
    (∃ (s : State) (p : Nat), p ≤ 15 ∧ s.portBanked p = true ∧ s.now ≤ (s.port p).bankedTick + 240000000000 ∧ (s.baseTemp - (s.port p).bankedTemp).natAbs ≤ 15 * 64) ∧
    (∃ (s : State) (p : Nat), p ≤ 15 ∧ s.portBanked p = true ∧ 15 * 64 < (s.baseTemp - (s.port p).bankedTemp).natAbs) ∧
    (∃ (s : State) (p : Nat), p ≤ 15 ∧ (s.port p).fast = true) :=
  ⟨⟨(hot.setFs [(rlPwrCfgWarmEn 0, 1)]), 0, 1, (flit 2 1), by decide +kernel⟩,
    ⟨hot, 0, 3, (flit 2 3), by decide +kernel⟩,
    ⟨(hot.setFs [(rlTxCreditVc3 0, 3)]), 0, (flit 2 1), by decide +kernel⟩,
    ⟨(pt (fun p => { p with pwrReq := some 2 }) hot), 0, 2, (flit 3 2), by decide +kernel⟩,
    ⟨(pt (fun p => { p with pwrReq := some 1, keptCw := [(0, [])] }) hot), 0, 1, (flit 3 1), by decide +kernel⟩,
    ⟨(pt (fun p => { p with pwrReq := some 1 }) hot), 0, 1, (flit 4 1), by decide +kernel⟩,
    ⟨2, (flit 3 1), by decide +kernel⟩,
    ⟨(hot.setFs [(rlPwrCfgWarmEn 0, 1)]), 0, by decide +kernel⟩,
    ⟨(hot.setFs [(rlPwrCfgBankedEn 0, 1), (rlLinkStatusPwr 0, 1)]), 0, by decide +kernel⟩,
    ⟨(hot.setFs [(rlLinkStatusPwr 0, 1)]), 0, by decide +kernel⟩,
    ⟨(pt (fun p => { p with bankedTick := 0, bankedTemp := 15 * 64 }) (hot.setFs [(rlLinkStatusPwr 0, 2)])), 0, by decide +kernel⟩,
    ⟨(pt (fun p => { p with bankedTemp := 15 * 64 + 1 }) (hot.setFs [(rlLinkStatusPwr 0, 2)])), 0, by decide +kernel⟩,
    ⟨(pt (fun p => { p with fast := true }) hot), 0, by decide +kernel⟩⟩

theorem test_witness_LinkCommandsAct :
    (∃ (s : State) (e : Sqe), Running e s ∧ s.quenched = false ∧ e.bit 18 0 = true ∧ s.allCulledPorts (e.par 16 2) = false) ∧
    (∃ (s : State) (e : Sqe), Running e s ∧ s.quenched = false ∧ e.bit 18 0 = false ∧ s.allCulledPorts (e.par 16 2) = false ∧ (s.portsOf (e.par 16 2)).filter (fun p => !(s.port p).byCommand && s.portActive p) = []) ∧
    (∃ (s : State) (e : Sqe), Running e s ∧ s.quenched = false ∧ s.allCulledPorts (e.par 16 2) = true) ∧
    (∃ (s : State) (e : Sqe), Running e s ∧ 10 ≤ e.par 20 4 ∧ e.par 20 4 ≤ 40950 ∧ e.par 20 4 % 10 = 0 ∧ 1 ≤ e.par 24 4 ∧ e.par 24 4 ≤ 65535 ∧ s.allCulledPorts (e.par 16 2) = false) ∧
    (∃ (s : State) (e : Sqe), Running e s ∧ e.par 20 4 < 10) ∧
    (∃ (s : State) (e : Sqe), Running e s ∧ e.bit 18 0 = true ∧ s.allCulledPorts (e.par 16 2) = false) ∧
    (∃ (s : State) (e : Sqe), Running e s ∧ e.bit 18 0 = false ∧ s.allCulledPorts (e.par 16 2) = false ∧ (s.fwRuns = true ∨ s.on elStatusSvExpired = true) ∧ s.quenched = false) ∧
    (∃ (s : State) (e : Sqe), Running e s ∧ e.par 16 1 ≤ 15 ∧ (e.par 19 1 ≤ 15 ∨ e.par 19 1 = 0xFF) ∧ s.portCulled (e.par 16 1) = false) :=
  ⟨⟨(rg (sq 0x340 [(18, 1)]) up), (sq 0x340 [(18, 1)]), runs_ok (by decide +kernel), by decide +kernel⟩,
    ⟨(rg (sq 0x340 [(16, 3)]) up), (sq 0x340 [(16, 3)]), runs_ok (by decide +kernel), by decide +kernel⟩,
    ⟨(rg (sq 0x340 [(16, 1)]) (upR [(tcCulletPort, 1)])), (sq 0x340 [(16, 1)]), runs_ok (by decide +kernel), by decide +kernel⟩,
    ⟨(rg (sq 0x341 [(20, 10), (24, 65535)]) up), (sq 0x341 [(20, 10), (24, 65535)]), runs_ok (by decide +kernel), by decide +kernel⟩,
    ⟨(rg (sq 0x341 [(20, 9)]) up), (sq 0x341 [(20, 9)]), runs_ok (by decide +kernel), by decide +kernel⟩,
    ⟨(rg (sq 0x342 [(18, 1)]) up), (sq 0x342 [(18, 1)]), runs_ok (by decide +kernel), by decide +kernel⟩,
    ⟨(rg (sq 0x342 []) fw), (sq 0x342 []), runs_ok (by decide +kernel), by decide +kernel⟩,
    ⟨(rg (sq 0x343 [(16, 15), (19, 255)]) up), (sq 0x343 [(16, 15), (19, 255)]), runs_ok (by decide +kernel), by decide +kernel⟩⟩

theorem test_witness_CodewordsKeepSequence :
    (∃ (s : State) (p : Nat) (c : Codeword), p ≤ 15 ∧ s.linkState p = 9 ∧ (s.port p).dropping = false ∧ rsDecode c.symbols = none ∧ ((s.port p).badItem = false ∨ (s.port p).failedAt = some ((s.port p).rxSeq, (s.port p).rxOff))) ∧
    (∃ (s : State) (p : Nat) (c : Codeword), p ≤ 15 ∧ s.linkState p = 9 ∧ (s.port p).dropping = true ∧ PlainCodeword c) ∧
    (∃ (s : State) (p : Nat) (c : Codeword), p ≤ 15 ∧ s.linkState p = 9 ∧ (s.port p).dropping = false ∧ (s.port p).badItem = false ∧ PlainCodeword c) ∧
    (∃ (s : State) (p : Nat) (c : Codeword) (w : List Nat), p ≤ 15 ∧ s.linkState p = 7 ∧ rsDecode c.symbols = some (w, []) ∧ framingOk (symbolBytes (w.take 256)) = true) ∧
    (∃ (s : State) (p : Nat) (c : Codeword), p ≤ 15 ∧ s.linkState p = 7 ∧ ((∀ w, rsDecode c.symbols = some (w, []) → framingOk (symbolBytes (w.take 256)) = false))) ∧
    (∃ (s : State) (p : Nat) (c : Codeword), p ≤ 15 ∧ s.linkState p = 9 ∧ (s.port p).dropping = true ∧ ResyncCodeword c (s.port p).ackSeq) ∧
    (∃ (s : State) (p seq : Nat) (c : Codeword), p ≤ 15 ∧ s.linkState p = 9 ∧ (s.port p).dropping = true ∧ ResyncCodeword c seq ∧ seq ≠ (s.port p).ackSeq) :=
  ⟨⟨hot, 0, brokenCw, by decide +kernel⟩,
    ⟨(pt (fun p => { p with dropping := true, ackSeq := 5 }) hot), 0, idleCw, by decide +kernel, by decide +kernel, by decide +kernel, by unfold PlainCodeword; decide +kernel⟩,
    ⟨(upR [(rlLinkStatusState 15, 9)]), 15, idleCw, by decide +kernel, by decide +kernel, by decide +kernel, by decide +kernel, by unfold PlainCodeword; decide +kernel⟩,
    ⟨(upR [(rlLinkStatusState 15, 7)]), 15, (framing 6), (framing 6).symbols, by decide +kernel⟩,
    ⟨(upR [(rlLinkStatusState 15, 7)]), 15, brokenCw, by decide +kernel, by decide +kernel, fun w h => by rw [show rsDecode brokenCw.symbols = none by decide +kernel] at h; cases h⟩,
    ⟨(pt (fun p => { p with dropping := true, ackSeq := 5 }) hot), 0, (resync 5), by decide +kernel, by decide +kernel, by decide +kernel, by unfold ResyncCodeword; decide +kernel⟩,
    ⟨(pt (fun p => { p with dropping := true, ackSeq := 5 }) hot), 0, 4, (resync 4), by decide +kernel, by decide +kernel, by decide +kernel, by unfold ResyncCodeword; decide +kernel, by decide +kernel⟩⟩

theorem test_witness_LinkAcknowledgesAndReplays :
    (∃ (s : State) (p : Nat) (b : List Byte), p ≤ 15 ∧ updateOk b = true ∧ s.portActive p = true) ∧
    (∃ (s : State) (p : Nat) (b : List Byte), p ≤ 15 ∧ updateOk b = true ∧ s.portActive p = true ∧ bitOf (bufNat b 1 1) 0 = true ∧ bufNat b 2 3 = (s.port p).acked) ∧
    (∃ (s : State) (p : Nat), p ≤ 15 ∧ s.portHot p = true ∧ s.replayRoom p 16 = true ∧ (s.port p).nakDue = false) ∧
    (∃ (s : State) (p : Nat), s.portHot p = true ∧ s.replayRoom p 16 = true ∧ (s.port p).dropping = true) ∧
    (∃ (s : State) (p : Nat), s.portActive p = true ∧ (s.port p).keptCw ≠ [] ∧ (s.port p).replays ≠ 7) ∧
    (∃ (s : State) (p : Nat), s.portActive p = true ∧ (s.port p).keptCw ≠ [] ∧ (s.port p).replays = 7) ∧
    (∃ (s : State) (p : Nat) (b : List Byte), p ≤ 15 ∧ initOk b = true ∧ (s.linkState p = 7 ∨ s.linkState p = 8) ∧ bitOf (bufNat b 12 1) 0 = false) ∧
    (∃ (s : State) (p : Nat) (b : List Byte), p ≤ 15 ∧ initOk b = true ∧ (s.linkState p = 7 ∨ s.linkState p = 8) ∧ bitOf (bufNat b 12 1) 0 = true ∧ (s.port p).keep = true) ∧
    (∃ (s : State) (p k : Nat), (s.port p).notice = some k ∧ s.linkState p ≠ 1) ∧
    (∃ (s : State) (p k : Nat), (s.port p).notice = some k ∧ s.linkState p = 1) :=
  ⟨⟨hot, 0, (update 0 0), by decide +kernel⟩,
    ⟨hot, 0, (update 1 0), by decide +kernel⟩,
    ⟨hot, 0, by decide +kernel⟩,
    ⟨(pt (fun p => { p with dropping := true }) hot), 0, by decide +kernel⟩,
    ⟨(pt (fun p => { p with keptCw := [(0, [])] }) hot), 0, by decide +kernel⟩,
    ⟨(pt (fun p => { p with keptCw := [(0, [])], replays := 7 }) hot), 0, by decide +kernel⟩,
    ⟨(upR [(rlLinkStatusState 15, 7)]), 15, (initFlit 0), by decide +kernel⟩,
    ⟨(pt (fun p => { p with keep := true }) (upR [(rlLinkStatusState 0, 8)])), 0, (initFlit 1), by decide +kernel⟩,
    ⟨(pt (fun p => { p with notice := some 0 }) hot), 0, 0, by decide +kernel⟩,
    ⟨(pt (fun p => { p with notice := some 0 }) (upR [(rlLinkStatusState 0, 1)])), 0, 0, by decide +kernel⟩⟩

theorem test_witness_CrcFailuresAndReplies :
    (∃ (s : State) (p : Nat), p ≤ 15 ∧ (s.port p).badItem = true ∧ (s.port p).rxBuf ≠ [] ∧ (s.port p).failedAt ≠ some ((s.port p).rxSeq, (s.port p).rxOff)) ∧
    (∃ (s : State) (p : Nat), p ≤ 15 ∧ (s.port p).badItem = true ∧ (s.port p).rxBuf ≠ [] ∧ (s.port p).failedAt = some ((s.port p).rxSeq, (s.port p).rxOff) ∧ 1 ≤ bufNat (s.port p).rxBuf 0 1 ∧ bufNat (s.port p).rxBuf 0 1 ≤ 0x30 ∧ bufNat (s.port p).rxBuf 8 4 % 2 ^ 15 ≤ 16384 ∧ 16 + bufNat (s.port p).rxBuf 8 4 % 2 ^ 15 ≤ (s.port p).rxBuf.length) ∧
    (∃ (s : State) (p : Nat), p ≤ 15 ∧ (s.port p).badItem = true ∧ (s.port p).rxBuf ≠ [] ∧ (s.port p).failedAt = some ((s.port p).rxSeq, (s.port p).rxOff) ∧ 1 ≤ bufNat (s.port p).rxBuf 0 1 ∧ bufNat (s.port p).rxBuf 0 1 ≤ 0x30 ∧ bufNat (s.port p).rxBuf 8 4 % 2 ^ 15 ≤ 16384 ∧ (s.port p).rxBuf.length < 16 + bufNat (s.port p).rxBuf 8 4 % 2 ^ 15) ∧
    (∃ (s : State) (r : Req), s.mayTake r = true ∧ r.corrupt = true ∧ s.egressRoom r.port 16 = true) ∧
    (∃ (s : State) (p : Nat), p ≤ 15 ∧ (s.port p).badItem = true ∧ (s.port p).rxBuf ≠ [] ∧ (s.port p).failedAt = some ((s.port p).rxSeq, (s.port p).rxOff) ∧ 0x30 < bufNat (s.port p).rxBuf 0 1) ∧
    (∃ (s : State) (p : Nat) (r : Reply) (rest : List Reply), s.portHot p = true ∧ (s.port p).egress = r :: rest ∧ creditsOf r.bytes ≤ s.f (rlTxCreditVc2 p) ∧ s.replayRoom p r.bytes = true) ∧
    (∃ (s : State) (p : Nat) (m : Mark) (rest : List Mark), (s.port p).marks = m :: rest ∧ m.req.port = p ∧ ((∀ r ∈ m.before, ∀ q ∈ (s.port p).unfinished, q.id ≠ r.id)) ∧ ((bitOf m.req.b2 0 = true → s.egressRoom p 16 = true))) :=
  ⟨⟨(pt (fun p => { p with badItem := true, failedAt := some (3, 0), rxSeq := 3, rxOff := 8, rxBuf := [1] }) hot), 0, by decide +kernel⟩,
    ⟨(pt (fun p => { p with badItem := true, failedAt := some (3, 8), rxSeq := 3, rxOff := 8, rxBuf := [0x30] ++ le 15 0 }) hot), 0, by decide +kernel⟩,
    ⟨(pt (fun p => { p with badItem := true, failedAt := some (3, 8), rxSeq := 3, rxOff := 8, rxBuf := [0x30] ++ le 7 0 ++ le 4 16384 }) hot), 0, by decide +kernel⟩,
    ⟨(adm ({ rq 0x01 0 1 0 131071 1 (le 1 1) with corrupt := true }) hot), ({ rq 0x01 0 1 0 131071 1 (le 1 1) with corrupt := true }), by decide +kernel⟩,
    ⟨(pt (fun p => { p with badItem := true, failedAt := some (3, 8), rxSeq := 3, rxOff := 8, rxBuf := [0x31] }) hot), 0, by decide +kernel⟩,
    ⟨(pt (fun p => { p with egress := [(⟨0x81, 0, 0, 0, 9, 0, [], 0, none, false⟩ : Reply)] }) hot), 0, (⟨0x81, 0, 0, 0, 9, 0, [], 0, none, false⟩ : Reply), [], by decide +kernel⟩,
    ⟨(pt (fun p => { p with marks := [(⟨rq 0x20 0 0 0 6 0 [], [rq 0x0E 0 0 0 0 0 []]⟩ : Mark)] }) hot), 0, (⟨rq 0x20 0 0 0 6 0 [], [rq 0x0E 0 0 0 0 0 []]⟩ : Mark), [], by decide +kernel⟩⟩

theorem test_witness_EchoAndUnknownOpcodesAnswer :
    (∃ (s : State) (r : Req), Admitted r (24 + r.length) s ∧ r.length ≤ 48) ∧
    (∃ (s : State) (r : Req), Admitted r 16 s ∧ 48 < r.length) ∧
    (∃ (s : State) (r : Req), Admitted r 16 s ∧ listedOpcode r.opcode = false) ∧
    (∃ (s : State) (r : Req), s.mayTake r = true ∧ r.corrupt = false ∧ r.credited = false ∧ s.egressRoom r.port 16 = true ∧ listedOpcode r.opcode = false) :=
  ⟨⟨(adm (rq 0x21 0 1 0 0 48 (le 48 1)) hot), (rq 0x21 0 1 0 0 48 (le 48 1)), by unfold Admitted; decide +kernel, by decide +kernel⟩,
    ⟨(adm (rq 0x21 0 1 0 0 49 (le 49 1)) hot), (rq 0x21 0 1 0 0 49 (le 49 1)), by unfold Admitted; decide +kernel, by decide +kernel⟩,
    ⟨(adm (rq 0x06 0 1 0 0 0 []) hot), (rq 0x06 0 1 0 0 0 []), by unfold Admitted; decide +kernel, by decide +kernel⟩,
    ⟨(adm { rq 0x31 0 0 0 0 0 [] with credited := false } hot), { rq 0x31 0 0 0 0 0 [] with credited := false }, by decide +kernel⟩⟩

theorem test_witness_EnqAddsOnePacket :
    (∃ (s : State) (r : Req), Admitted r (enqReply r) s ∧ s.queueHeld r = false ∧ s.enqRefusal r = none ∧ s.writeRoom r = true) ∧
    (∃ (s : State) (r : Req), Admitted r (enqReply r) s ∧ s.queueHeld r = false ∧ s.enqRefusal r = some stQueueFull) ∧
    (∃ (s : State) (r : Req), Admitted r (enqReply r) s ∧ s.queueHeld r = false ∧ s.enqRefusal r = some stPoolExhausted) ∧
    (∃ (s : State) (r : Req) (st : Nat), Admitted r (enqReply r) s ∧ s.queueHeld r = false ∧ s.enqRefusal r = some st ∧ (st = stNoSuchObject ∨ st = stNotPermitted)) ∧
    (∃ (s : State) (r : Req), Admitted r (enqReply r) s ∧ s.queueHeld r = false ∧ s.enqRefusal r = none ∧ s.writeRoom r = false ∧ (s.port r.port).assembly.length < 2) ∧
    (∃ (s : State) (p : Nat) (r : Req) (rest : List Req), (s.port p).assembly = r :: rest ∧ r.port = p ∧ s.halted = false ∧ s.writeRoom r = true) :=
  ⟨⟨(adm (rq 0x01 0 1 0 131071 1 (le 1 1)) ((qs { qu with limit := 1 }).setFs [(qmPoolLimit, 2 ^ 32)])), (rq 0x01 0 1 0 131071 1 (le 1 1)), by unfold Admitted; decide +kernel, by decide +kernel⟩,
    ⟨(adm (rq 0x01 0 1 0 131071 5 (le 5 1)) (qs qu)), (rq 0x01 0 1 0 131071 5 (le 5 1)), by unfold Admitted; decide +kernel, by decide +kernel⟩,
    ⟨(adm (rq 0x01 0 1 0 131071 1 (le 1 1)) (qs { qu with limit := 0 })), (rq 0x01 0 1 0 131071 1 (le 1 1)), by unfold Admitted; decide +kernel, by decide +kernel⟩,
    ⟨(adm (rq 0x01 0 1 0 131071 100 (le 100 1)) hot), (rq 0x01 0 1 0 131071 100 (le 100 1)), stNoSuchObject, by unfold Admitted; decide +kernel, by decide +kernel⟩,
    ⟨(adm (rq 0x01 0 1 0 131071 1 (le 1 1)) { (qs { qu with limit := 65536 }).setFs [(qmPoolLimit, 2 ^ 32)] with marver := { up.marver with rebuildTill := up.now + 1 } }), (rq 0x01 0 1 0 131071 1 (le 1 1)), by unfold Admitted; decide +kernel, by decide +kernel⟩,
    ⟨(pt (fun p => { p with assembly := [(rq 0x01 0 1 0 131071 1 (le 1 1))] }) hot), 0, (rq 0x01 0 1 0 131071 1 (le 1 1)), [], by decide +kernel⟩⟩

theorem test_witness_RemovalsTakeTheHead :
    (∃ (s : State) (r : Req) (k : Packet) (rest : List Packet), Admitted r 16416 s ∧ Served r s ∧ (s.queue r.object).packets = k :: rest ∧ Readable s r.object k ∧ r.arg ≤ 1) ∧
    (∃ (s : State) (r : Req), Admitted r 16416 s ∧ Served r s ∧ (s.queue r.object).packets ≠ [] ∧ ((∀ k ∈ (s.queue r.object).packets, Readable s r.object k))) ∧
    (∃ (s : State) (r : Req) (k : Packet) (rest : List Packet), Admitted r (if r.arg = 0 then 16416 else min 16416 (32 + 64 * r.arg)) s ∧ Served r s ∧ (s.queue r.object).packets = k :: rest ∧ Readable s r.object k) ∧
    (∃ (s : State) (r : Req), Admitted r 32 s ∧ Served r s ∧ (s.queue r.object).packets ≠ [] ∧ ((∀ k ∈ (s.queue r.object).packets, Readable s r.object k))) ∧
    (∃ (s : State) (r : Req) (k : Packet) (rest : List Packet), Admitted r 48 s ∧ Served r s ∧ (s.queue r.object).packets = k :: rest ∧ Readable s r.object k ∧ bitOf r.b2 1 = false) ∧
    (∃ (s : State) (r : Req), Admitted r 48 s ∧ Served r s ∧ bitOf r.b2 1 = true ∧ s.snapshots = []) ∧
    (∃ (s : State) (r : Req), Admitted r 16416 s ∧ Served r s ∧ (s.queue r.object).packets = []) ∧
    (∃ (s : State) (r : Req), Admitted r 16416 s ∧ s.queueHeld r = false ∧ r.object ≤ 131071 ∧ r.length = 0 ∧ (s.queue r.object).configured = false) :=
  ⟨⟨(adm (rq 2 0 1 1 131071 0 []) stored), (rq 2 0 1 1 131071 0 []), pk5, [], by unfold Admitted; decide +kernel, by unfold Served; decide +kernel, by decide +kernel, by unfold Readable; decide +kernel, by decide +kernel⟩,
    ⟨(adm (rq 2 0 1 16 131071 0 []) stored), (rq 2 0 1 16 131071 0 []), by unfold Admitted; decide +kernel, by unfold Served; decide +kernel, by decide +kernel, by unfold Readable; decide +kernel⟩,
    ⟨(adm (rq 3 0 1 1 131071 0 []) stored), (rq 3 0 1 1 131071 0 []), pk5, [], by unfold Admitted; decide +kernel, by unfold Served; decide +kernel, by decide +kernel, by unfold Readable; decide +kernel⟩,
    ⟨(adm (rq 4 0 1 2 131071 0 []) stored), (rq 4 0 1 2 131071 0 []), by unfold Admitted; decide +kernel, by unfold Served; decide +kernel, by decide +kernel, by unfold Readable; decide +kernel⟩,
    ⟨(adm (rq 5 0 0 0 131071 0 []) stored), (rq 5 0 0 0 131071 0 []), pk5, [], by unfold Admitted; decide +kernel, by unfold Served; decide +kernel, by decide +kernel, by unfold Readable; decide +kernel, by decide +kernel⟩,
    ⟨(adm (rq 5 0 3 0 131071 0 []) (qs qu)), (rq 5 0 3 0 131071 0 []), by unfold Admitted; decide +kernel, by unfold Served; decide +kernel, by decide +kernel⟩,
    ⟨(adm (rq 2 0 1 0 131071 0 []) (qs qu)), (rq 2 0 1 0 131071 0 []), by unfold Admitted; decide +kernel, by unfold Served; decide +kernel, by decide +kernel⟩,
    ⟨(adm (rq 2 0 1 0 131071 0 []) hot), (rq 2 0 1 0 131071 0 []), by unfold Admitted; decide +kernel, by decide +kernel⟩⟩

theorem test_witness_SnapshotsRecordTheCut :
    (∃ (s : State) (r : Req), Admitted r 32 s ∧ r.length = 0 ∧ s.snapPending = none ∧ s.snapRead = false) ∧
    (∃ (s : State) (r : Req), Admitted r 32 s ∧ r.length = 0 ∧ (s.snapPending.isSome = true ∨ s.snapRead = true)) ∧
    (∃ (s : State) (src : SnapSource) (cut : Tick), s.snapPending = some (src, cut) ∧ s.halted = false ∧ s.settledBefore cut = true) ∧
    (∃ (s : State) (e : Sqe), Running e s ∧ s.quenched = false ∧ max (e.par 16 8) e.tick ≤ e.tick + 4000000000 ∧ s.snapPending = none ∧ s.snapRead = false) ∧
    (∃ (s : State) (e : Sqe), Running e s ∧ s.quenched = false ∧ e.tick + 4000000000 < e.par 16 8) ∧
    (∃ (s : State) (e : Sqe) (x : Snapshot), Running e s ∧ 0 < e.par 24 4 ∧ e.par 20 4 + e.par 24 4 ≤ 131072 ∧ e.par 32 8 % 16 = 0 ∧ s.snapshots.find? (fun y => y.number == e.par 16 4) = some x ∧ x.damaged = []) :=
  ⟨⟨(adm (rq 0x30 0 1 0 0 0 []) hot), (rq 0x30 0 1 0 0 0 []), by unfold Admitted; decide +kernel, by decide +kernel⟩,
    ⟨(adm (rq 0x30 0 1 0 0 0 []) { hot with snapPending := some (.event, 5) }), (rq 0x30 0 1 0 0 0 []), by unfold Admitted; decide +kernel, by decide +kernel⟩,
    ⟨{ up with snapPending := some (.event, 5) }, .event, 5, by decide +kernel⟩,
    ⟨(rg (sq 0x144 [(16, 4000000000)]) up), (sq 0x144 [(16, 4000000000)]), runs_ok (by decide +kernel), by decide +kernel⟩,
    ⟨(rg (sq 0x144 [(16, 4000000001)]) up), (sq 0x144 [(16, 4000000001)]), runs_ok (by decide +kernel), by decide +kernel⟩,
    ⟨(rg (sq 0x145 [(16, 3), (20, 131071), (24, 1), (32, 16)]) { up with snapshots := [⟨3, 0, [(131071, 0, 0)], []⟩] }), (sq 0x145 [(16, 3), (20, 131071), (24, 1), (32, 16)]), ⟨3, 0, [(131071, 0, 0)], []⟩, runs_ok (by decide +kernel), by decide +kernel⟩⟩

theorem test_witness_QueueCommandsTakeEffect :
    (∃ (s : State) (e : Sqe), Running e s ∧ 0 < e.par 20 4 ∧ e.par 16 4 + e.par 20 4 ≤ 131072) ∧
    (∃ (s : State) (e : Sqe), Running e s ∧ s.quenched = false ∧ 131072 < e.par 16 4 + e.par 20 4) ∧
    (∃ (s : State) (c : QueueChange) (limit : Nat) (enable clear keep : Bool), s.halted = false ∧ s.nextChange [] s.queueChanges = some c ∧ c.kind = .cfg limit enable clear keep) ∧
    (∃ (s : State) (c : QueueChange), s.halted = false ∧ s.nextChange [] s.queueChanges = some c ∧ c.kind = .remove true) ∧
    (∃ (s : State) (c : QueueChange), s.halted = false ∧ s.nextChange [] s.queueChanges = some c ∧ c.kind = .flush ∧ s.queuesIn c.first c.count ≠ []) ∧
    (∃ (s : State) (e : Sqe), Running e s ∧ e.par 16 4 ≤ 131071 ∧ (s.queue (e.par 16 4)).configured = true ∧ s.contextLost (e.par 16 4) = false) ∧
    (∃ (s : State) (e : Sqe), Running e s ∧ 131071 < e.par 16 4) ∧
    (∃ (s : State) (e : Sqe), Running e s ∧ e.par 16 1 ≤ 4) ∧
    (∃ (s : State) (e : Sqe), Running e s ∧ 4 < e.par 16 1) :=
  ⟨⟨(rg (sq 0x140 [(16, 131071), (20, 1)]) up), (sq 0x140 [(16, 131071), (20, 1)]), runs_ok (by decide +kernel), by decide +kernel⟩,
    ⟨(rg (sq 0x140 [(16, 131071), (20, 2)]) up), (sq 0x140 [(16, 131071), (20, 2)]), runs_ok (by decide +kernel), by decide +kernel⟩,
    ⟨{ qs qu with queueChanges := [qc (.cfg 1 true false false)] }, (qc (.cfg 1 true false false)), 1, true, false, false, by decide +kernel⟩,
    ⟨{ qs qu with queueChanges := [qc (.remove true)] }, (qc (.remove true)), by decide +kernel⟩,
    ⟨{ qs qu with queueChanges := [qc (.flush)] }, (qc .flush), by decide +kernel⟩,
    ⟨(rg (sq 0x143 [(16, 131071)]) (qs qu)), (sq 0x143 [(16, 131071)]), runs_ok (by decide +kernel), by decide +kernel⟩,
    ⟨(rg (sq 0x143 [(16, 131072)]) (qs qu)), (sq 0x143 [(16, 131072)]), runs_ok (by decide +kernel), by decide +kernel⟩,
    ⟨(rg (sq 0x151 [(16, 4)]) up), (sq 0x151 [(16, 4)]), runs_ok (by decide +kernel), by decide +kernel⟩,
    ⟨(rg (sq 0x151 [(16, 5)]) up), (sq 0x151 [(16, 5)]), runs_ok (by decide +kernel), by decide +kernel⟩⟩

theorem test_witness_LookupsAndCountersAnswer :
    (∃ (s : State) (r : Req) (x : Table), Admitted r (s.tableReply r (fun t => t.lookupRefusal r)) s ∧ r.opcode = 0x10 ∧ s.lookupRefusal r = none ∧ EnginesReady r s ∧ Plain s r.object x r.tick) ∧
    (∃ (s : State) (r : Req) (st : Nat), Admitted r 16 s ∧ s.lookupRefusal r = some st) ∧
    (∃ (s : State) (r : Req), Admitted r (s.tableReply r (fun t => t.lookupRefusal r)) s ∧ s.lookupRefusal r = none ∧ EnginesTake r s ∧ s.canServe r = false) ∧
    (∃ (s : State) (r : Req), s.mayTake r = true ∧ s.early r = none ∧ s.lookupRefusal r = none ∧ s.benchHeld r = false ∧ s.queueRoom r = false) ∧
    (∃ (s : State) (r : Req), Admitted r (s.tableReply r (fun t => t.multiRefusal r)) s ∧ r.opcode = 0x11 ∧ s.multiRefusal r = none ∧ EnginesReady r s ∧ ((∀ n ∈ multiTables r, ∃ x, Plain s n x r.tick))) ∧
    (∃ (s : State) (r : Req) (st : Nat), Admitted r 16 s ∧ s.multiRefusal r = some st) ∧
    (∃ (s : State) (r : Req) (x : Table), Admitted r 16 s ∧ r.opcode = 0x18 ∧ s.counterRefusal r = none ∧ EnginesReady r s ∧ s.table r.object = some x ∧ x.created ≤ r.tick) ∧
    (∃ (s : State) (r : Req) (x : Table), Admitted r (s.tableReply r (fun t => t.counterRefusal r)) s ∧ r.opcode = 0x19 ∧ s.counterRefusal r = none ∧ EnginesReady r s ∧ s.table r.object = some x ∧ x.created ≤ r.tick ∧ x.lost = []) ∧
    (∃ (s : State) (r : Req) (x : Table), Admitted r (s.tableReply r (fun t => t.counterRefusal r)) s ∧ r.opcode = 0x1A ∧ s.counterRefusal r = none ∧ EnginesReady r s ∧ s.table r.object = some x ∧ x.created ≤ r.tick ∧ x.lost = [] ∧ repeats ((counterRecords r).map (·.1)) = false) ∧
    (∃ (s : State) (n : Nat) (o : EngineOp), s.halted = false ∧ s.quenched = false ∧ s.endOps = s ∧ s.nextOp n = some o ∧ s.opReads o = []) ∧
    (∃ (s : State) (n : Nat) (o : EngineOp), s.halted = false ∧ s.quenched = false ∧ s.endOps = s ∧ s.nextOp n = some o ∧ (s.opReads o).any (s.touchOp o).readQueued = true) :=
  ⟨⟨(adm (rq 0x10 0 1 1 3 8 (le 8 1)) (near 3 (tab .exact 8 8) (le 8 1) (ts 3 (tab .exact 8 8)))), (rq 0x10 0 1 1 3 8 (le 8 1)), (tab .exact 8 8), by unfold Admitted; decide +kernel, by decide +kernel, by decide +kernel, ready_ok (e := 0) (o := ⟨(rq 0x10 0 1 1 3 8 (le 8 1)), 3, 0, ((tab .exact 8 8)).partition (le 8 1), (le 8 1), none⟩) (x := (tab .exact 8 8)) (by unfold EnginesTake; decide +kernel) (by decide +kernel) (by decide +kernel) (by decide +kernel) (by decide +kernel) rfl (by decide +kernel) (by decide +kernel), by unfold Plain; decide +kernel⟩,
    ⟨(adm (rq 0x10 0 1 9 3 8 (le 8 1)) hot), (rq 0x10 0 1 9 3 8 (le 8 1)), stBadParam, by unfold Admitted; decide +kernel, by decide +kernel⟩,
    ⟨(adm (rq 0x10 0 1 1 3 8 (le 8 1)) ((ts 3 (tab .exact 8 8)).setF teBenchRunning 0)), (rq 0x10 0 1 1 3 8 (le 8 1)), by unfold Admitted; decide +kernel, by decide +kernel, by unfold EnginesTake; decide +kernel, by decide +kernel⟩,
    ⟨(adm (rq 0x10 0 1 1 3 8 (le 8 1)) { (ts 3 (tab .exact 8 8)).setF teBenchRunning 0 with engineQueues := [(0, List.replicate 1024 ⟨(rq 0x10 0 1 1 3 8 (le 8 1)), 3, 0, 0, [], none⟩)] }), (rq 0x10 0 1 1 3 8 (le 8 1)), by decide +kernel⟩,
    ⟨(adm (rq 0x11 0 1 1 0 12 ([3, 0, 0, 0] ++ le 8 1)) (near 3 (tab .exact 8 8) (le 8 1) (ts 3 (tab .exact 8 8)))), (rq 0x11 0 1 1 0 12 ([3, 0, 0, 0] ++ le 8 1)), by unfold Admitted; decide +kernel, by decide +kernel, by decide +kernel, ready_ok (e := 0) (o := ⟨(rq 0x11 0 1 1 0 12 ([3, 0, 0, 0] ++ le 8 1)), 3, 0, ((tab .exact 8 8)).partition (le 8 1), (le 8 1), none⟩) (x := (tab .exact 8 8)) (by unfold EnginesTake; decide +kernel) (by decide +kernel) (by decide +kernel) (by decide +kernel) (by decide +kernel) rfl (by decide +kernel) (by decide +kernel), fun n h => ⟨tab .exact 8 8, by rw [show multiTables (rq 0x11 0 1 1 0 12 ([3, 0, 0, 0] ++ le 8 1)) = [3] by decide +kernel] at h; rw [List.mem_singleton.mp h]; unfold Plain; decide +kernel⟩⟩,
    ⟨(adm (rq 0x11 0 1 5 0 12 ([3, 0, 0, 0] ++ le 8 1)) hot), (rq 0x11 0 1 5 0 12 ([3, 0, 0, 0] ++ le 8 1)), stBadParam, by unfold Admitted; decide +kernel, by decide +kernel⟩,
    ⟨(adm (rq 0x18 0 1 1 3 16 (le 4 15 ++ le 4 1 ++ le 8 64)) (near 3 (tab .counter 0 0) (le 4 15) (ts 3 (tab .counter 0 0)))), (rq 0x18 0 1 1 3 16 (le 4 15 ++ le 4 1 ++ le 8 64)), (tab .counter 0 0), by unfold Admitted; decide +kernel, by decide +kernel, by decide +kernel, ready_ok (e := 0) (o := ⟨(rq 0x18 0 1 1 3 16 (le 4 15 ++ le 4 1 ++ le 8 64)), 3, 0, ((tab .counter 0 0)).partition (le 4 15), (le 4 15), none⟩) (x := (tab .counter 0 0)) (by unfold EnginesTake; decide +kernel) (by decide +kernel) (by decide +kernel) (by decide +kernel) (by decide +kernel) rfl (by decide +kernel) (by decide +kernel), by decide +kernel, by decide +kernel⟩,
    ⟨(adm (rq 25 0 1 1 3 4 (le 4 15)) (near 3 (tab .counter 0 0) (le 4 15) (ts 3 (tab .counter 0 0)))), (rq 25 0 1 1 3 4 (le 4 15)), (tab .counter 0 0), by unfold Admitted; decide +kernel, by decide +kernel, by decide +kernel, ready_ok (e := 0) (o := ⟨(rq 25 0 1 1 3 4 (le 4 15)), 3, 0, ((tab .counter 0 0)).partition (le 4 15), (le 4 15), none⟩) (x := (tab .counter 0 0)) (by unfold EnginesTake; decide +kernel) (by decide +kernel) (by decide +kernel) (by decide +kernel) (by decide +kernel) rfl (by decide +kernel) (by decide +kernel), by decide +kernel, by decide +kernel, by decide +kernel⟩,
    ⟨(adm (rq 26 0 1 1 3 4 (le 4 15)) (near 3 (tab .counter 0 0) (le 4 15) (ts 3 (tab .counter 0 0)))), (rq 26 0 1 1 3 4 (le 4 15)), (tab .counter 0 0), by unfold Admitted; decide +kernel, by decide +kernel, by decide +kernel, ready_ok (e := 0) (o := ⟨(rq 26 0 1 1 3 4 (le 4 15)), 3, 0, ((tab .counter 0 0)).partition (le 4 15), (le 4 15), none⟩) (x := (tab .counter 0 0)) (by unfold EnginesTake; decide +kernel) (by decide +kernel) (by decide +kernel) (by decide +kernel) (by decide +kernel) rfl (by decide +kernel) (by decide +kernel), by decide +kernel, by decide +kernel, by decide +kernel, by decide +kernel⟩,
    ⟨{ ts 3 (tab .counter 0 0) with engineQueues := [(63, [(⟨rq 0x19 0 1 1 3 4 (le 4 15), 3, 0, 0, (le 4 15), none⟩ : EngineOp)])] }, 63, (⟨rq 0x19 0 1 1 3 4 (le 4 15), 3, 0, 0, (le 4 15), none⟩ : EngineOp), by decide +kernel⟩,
    ⟨waits, 63, op15, by decide +kernel, by decide +kernel, waits_end, by decide +kernel, waits_touch⟩⟩

theorem test_witness_TableCommandsAct :
    (∃ (s : State) (e : Sqe) (k : TableKind), Running e s ∧ s.quenched = false ∧ kindOf (e.par 17 1) = some k ∧ createOk e k = true ∧ s.numberTaken (e.par 16 1) e.tick = false ∧ ((newTable e k).mirror = false ∨ 2 ≤ s.layersInService) ∧ (newTable e k).reserved ≤ s.freeTableRows ∧ s.placingPaused = false) ∧
    (∃ (s : State) (e : Sqe), Running e s ∧ s.quenched = false ∧ 4 ≤ e.par 17 1) ∧
    (∃ (s : State) (e : Sqe) (x : Table), Running e s ∧ s.table (e.par 16 1) = some x ∧ x.kind = .index) ∧
    (∃ (s : State) (e : Sqe), Running e s ∧ s.table (e.par 16 1) = none) ∧
    (∃ (s : State) (e : Sqe) (x : Table), Running e s ∧ s.quenched = false ∧ s.table (e.par 16 1) = some x ∧ s.commitOf (e.par 16 1) = none) ∧
    (∃ (s : State) (e : Sqe) (x : Table), Running e s ∧ s.quenched = false ∧ s.table (e.par 16 1) = some x ∧ x.kind = .index ∧ e.par 20 4 ≠ 0 ∧ x.opened = none ∧ x.frozen = none ∧ x.copies (baseRows .index x.klen x.vlen (e.par 20 4) x.instances + stageDefault .index (baseRows .index x.klen x.vlen (e.par 20 4) x.instances)) ≤ s.freeTableRows ∧ s.placingPaused = false) ∧
    (∃ (s : State) (e : Sqe) (x : Table), Running e s ∧ s.quenched = false ∧ s.table (e.par 16 1) = some x ∧ x.kind ≠ .counter ∧ e.bit 17 0 = false ∧ e.bit 17 1 = true ∧ 64 ≤ e.par 24 4 ∧ ({ x with stageRows := e.par 24 4 } : Table).rowsHeld ≤ s.freeTableRows + x.rowsHeld ∧ s.placingPaused = false) ∧
    (∃ (s : State) (e : Sqe) (x : Table), Running e s ∧ s.quenched = false ∧ e.par 24 4 ≠ 0 ∧ e.par 32 8 % 16 = 0 ∧ s.table (e.par 16 1) = some x ∧ x.kind = .counter ∧ e.par 20 4 + e.par 24 4 ≤ x.committed.capacity ∧ s.enginesGone = false ∧ x.lost = []) ∧
    (∃ (s : State) (n : Nat) (d : DeadTable), s.dead.find? (fun d => d.number == n) = some d ∧ s.tableSettled n d.tick = true) ∧
    (∃ (s : State) (n : Nat) (x : Table) (o : OldVersion), s.table n = some x ∧ x.olds.getLast? = some o ∧ s.oldInUse n x o = false) :=
  ⟨⟨(rg (sq 0x180 [(16, 3), (17, 0), (20, 8), (21, 8), (24, 16)]) (up.setFs [(mvSplitTUnits, 4)])), (sq 0x180 [(16, 3), (17, 0), (20, 8), (21, 8), (24, 16)]), .exact, runs_ok (by decide +kernel), by decide +kernel⟩,
    ⟨(rg (sq 0x180 [(17, 4)]) up), (sq 0x180 [(17, 4)]), runs_ok (by decide +kernel), by decide +kernel⟩,
    ⟨(rg (sq 0x182 [(16, 3)]) (ts 3 (tab .index 0 8))), (sq 0x182 [(16, 3)]), (tab .index 0 8), runs_ok (by decide +kernel), by decide +kernel⟩,
    ⟨(rg (sq 0x182 [(16, 255)]) up), (sq 0x182 [(16, 255)]), runs_ok (by decide +kernel), by decide +kernel⟩,
    ⟨(rg (sq 0x181 [(16, 3)]) (ts 3 (tab .index 0 8))), (sq 0x181 [(16, 3)]), (tab .index 0 8), runs_ok (by decide +kernel), by decide +kernel⟩,
    ⟨(rg (sq 0x183 [(16, 3), (20, 32)]) (ts 3 (tab .index 0 8))), (sq 0x183 [(16, 3), (20, 32)]), (tab .index 0 8), runs_ok (by decide +kernel), by decide +kernel⟩,
    ⟨(rg (sq 0x185 [(16, 3), (17, 2), (24, 64)]) (ts 3 (tab .index 0 8))), (sq 0x185 [(16, 3), (17, 2), (24, 64)]), (tab .index 0 8), runs_ok (by decide +kernel), by decide +kernel⟩,
    ⟨(rg (sq 0x184 [(16, 3), (20, 15), (24, 1), (32, 16)]) (ts 3 (tab .counter 0 0))), (sq 0x184 [(16, 3), (20, 15), (24, 1), (32, 16)]), (tab .counter 0 0), runs_ok (by decide +kernel), by decide +kernel⟩,
    ⟨{ up with dead := [⟨3, (tab .index 0 8), 5⟩] }, 3, ⟨3, (tab .index 0 8), 5⟩, by decide +kernel⟩,
    ⟨(ts 3 { (tab .index 0 8) with olds := [(⟨(tab .index 0 8).committed, [], []⟩ : OldVersion)] }), 3, { (tab .index 0 8) with olds := [(⟨(tab .index 0 8).committed, [], []⟩ : OldVersion)] }, (⟨(tab .index 0 8).committed, [], []⟩ : OldVersion), by decide +kernel⟩⟩

theorem test_witness_StagingLeavesTheCommittedVersion :
    (∃ (s : State) (e : Sqe) (b : List Byte) (x : Table) (i : Nat) (v : Version), Running e s ∧ s.quenched = false ∧ s.updateBefore e = false ∧ 12 ≤ e.paramLen ∧ b.length = e.paramLen ∧ 1 ≤ bufNat b 4 4 ∧ bufNat b 4 4 ≤ 65536 ∧ bufNat b 1 3 = 0 ∧ s.table (bufNat b 0 1) = some x ∧ x.kind ≠ .counter ∧ x.imageOpen = false ∧ x.updateLen (bufNat b 4 4) (b.drop 8) = some (b.length - 8) ∧ x.stageRecords (bufNat b 0 1) (bufNat b 4 4) 0 x.openVersion (b.drop 8) = (i, .version v)) ∧
    (∃ (s : State) (e : Sqe) (b : List Byte) (x : Table) (i st : Nat), Running e s ∧ s.quenched = false ∧ s.updateBefore e = false ∧ 12 ≤ e.paramLen ∧ b.length = e.paramLen ∧ 1 ≤ bufNat b 4 4 ∧ bufNat b 4 4 ≤ 65536 ∧ bufNat b 1 3 = 0 ∧ s.table (bufNat b 0 1) = some x ∧ x.kind ≠ .counter ∧ x.imageOpen = false ∧ x.updateLen (bufNat b 4 4) (b.drop 8) = some (b.length - 8) ∧ x.stageRecords (bufNat b 0 1) (bufNat b 4 4) 0 x.openVersion (b.drop 8) = (i, .refused st) ∧ st ≠ 0x08) ∧
    (∃ (s : State) (e : Sqe), Running e s ∧ s.quenched = false ∧ s.updateBefore e = false ∧ e.paramLen < 12) ∧
    (∃ (s : State) (e : Sqe), Running e s ∧ s.quenched = false ∧ s.updateBefore e = false ∧ 12 ≤ e.paramLen) ∧
    (∃ (s : State) (e : Sqe), Running e s ∧ s.quenched = false ∧ s.updateBefore e = true) ∧
    (∃ (s : State) (e : Sqe) (x : Table), Running e s ∧ s.quenched = false ∧ 64 ≤ e.par 20 4 ∧ s.table (e.par 16 1) = some x ∧ x.kind ≠ .counter ∧ x.opened = none ∧ ceilDiv (e.par 20 4) 2048 ≤ s.freeTableRows ∧ s.placingPaused = false) ∧
    (∃ (s : State) (n : Nat) (c : Commit) (x : Table) (i : Image) (v : Version) (off st : Nat), s.commitOf n = some c ∧ s.table n = some x ∧ x.frozenImage = some i ∧ x.frozen = some v ∧ i.built = false ∧ c.phase = .building ∧ s.halted = false ∧ s.fwRuns = true ∧ x.buildImage n i (i.size + 1) 0 { v with entries := [], changed := [] } = (off, .refused st)) ∧
    (∃ (s : State) (n : Nat) (c : Commit) (x : Table) (i : Image) (v w : Version) (off : Nat), s.commitOf n = some c ∧ s.table n = some x ∧ x.frozenImage = some i ∧ x.frozen = some v ∧ i.built = false ∧ c.phase = .building ∧ s.halted = false ∧ s.fwRuns = true ∧ x.buildImage n i (i.size + 1) 0 { v with entries := [], changed := [] } = (off, .version w)) :=
  ⟨⟨(rg (sqi 0x188 24 []) (ts 3 (tab .index 0 8))), (sqi 0x188 24 []), (le 4 3 ++ le 4 1 ++ le 1 4 ++ le 3 0 ++ le 4 15 ++ le 8 5), (tab .index 0 8), 1, (vOf (((tab .index 0 8)).stageRecords 3 1 0 ((tab .index 0 8)).openVersion (((le 4 3 ++ le 4 1 ++ le 1 4 ++ le 3 0 ++ le 4 15 ++ le 8 5)).drop 8)).2), runs_ok (by decide +kernel), by decide +kernel⟩,
    ⟨(rg (sqi 0x188 24 []) (ts 3 (tab .index 0 8))), (sqi 0x188 24 []), (le 4 3 ++ le 4 1 ++ le 1 4 ++ le 3 0 ++ le 4 16 ++ le 8 5), (tab .index 0 8), 0, stBadParam, runs_ok (by decide +kernel), by decide +kernel⟩,
    ⟨(rg (sqi 0x188 11 []) up), (sqi 0x188 11 []), runs_ok (by decide +kernel), by decide +kernel⟩,
    ⟨(rg (sqi 0x188 12 []) up), (sqi 0x188 12 []), runs_ok (by decide +kernel), by decide +kernel⟩,
    ⟨(rg { (sq 0x188 []) with tick := 5 } (up.setRing 1 { ringCold 0 with fetched := [(sq 0x188 [])] })), { (sq 0x188 []) with tick := 5 }, runs_ok (by decide +kernel), by decide +kernel⟩,
    ⟨(rg (sq 0x189 [(16, 3), (20, 64)]) (ts 3 (tab .index 0 8))), (sq 0x189 [(16, 3), (20, 64)]), (tab .index 0 8), runs_ok (by decide +kernel), by decide +kernel⟩,
    ⟨{ (ts 3 ({ (tab .index 0 8) with frozenImage := some { size := 64, rows := 1, bytes := [(0, 9)], built := false }, frozen := some ((tab .index 0 8)).committed })).setF devStatusFwRunning 1 with commits := [cm .immediate .building 0 []] }, 3, (cm .immediate .building 0 []), { (tab .index 0 8) with frozenImage := some { size := 64, rows := 1, bytes := [(0, 9)], built := false }, frozen := some ((tab .index 0 8)).committed }, { size := 64, rows := 1, bytes := [(0, 9)], built := false }, ((tab .index 0 8)).committed, 0, stBadParam, by decide +kernel⟩,
    ⟨{ (ts 3 ({ (tab .index 0 8) with frozenImage := some { size := 64, rows := 1, bytes := [], built := false }, frozen := some ((tab .index 0 8)).committed })).setF devStatusFwRunning 1 with commits := [cm .immediate .building 0 []] }, 3, (cm .immediate .building 0 []), { (tab .index 0 8) with frozenImage := some { size := 64, rows := 1, bytes := [], built := false }, frozen := some ((tab .index 0 8)).committed }, { size := 64, rows := 1, bytes := [], built := false }, ((tab .index 0 8)).committed, { (((tab .index 0 8)).committed) with entries := [], changed := [] }, 0, by decide +kernel⟩⟩

theorem test_witness_CommitsTakeEffectTogether :
    (∃ (s : State) (e : Sqe) (st : Nat), Running e s ∧ s.quenched = false ∧ s.updateBefore e = false ∧ (s.reach e.tick).commitRefusal e = some st ∧ st ≠ 0x08) ∧
    (∃ (s : State) (e : Sqe), Running e s ∧ s.quenched = false ∧ s.updateBefore e = false ∧ (s.reach e.tick).commitRefusal e = none ∧ e.par 16 1 = 0 ∧ ((∀ n x, s.table n = some x → x.image = none))) ∧
    (∃ (s : State) (e : Sqe), Running e s ∧ s.quenched = false ∧ s.updateBefore e = false ∧ (s.reach e.tick).commitRefusal e = none ∧ e.par 16 1 = 1 ∧ ((∀ n x, s.table n = some x → x.image = none))) ∧
    (∃ (s : State) (n : Nat) (c : Commit) (tick : Tick), s.commitOf n = some c ∧ c.phase = .due tick ∧ s.halted = false ∧ s.fwRuns = true ∧ c.deletes = [] ∧ c.mode ≠ .marker) ∧
    (∃ (s : State) (n : Nat) (c : Commit) (first : Cut) (rest : List Cut), s.commitOf n = some c ∧ c.phase = .cutting ∧ c.cuts = first :: rest ∧ s.halted = false ∧ s.fwRuns = true ∧ c.deletes = [] ∧ c.mode = .marker ∧ ((∃ p, p < 16 ∧ bitOf c.mask p = true ∧ ∀ x ∈ c.cuts, x.port ≠ p)) ∧ ((∀ p, p < 16 → s.markComes c p (first.tick + c.timeout * 4000000) = false))) ∧
    (∃ (s : State) (n p : Nat) (c : Commit) (first : Cut) (rest : List Cut), s.commitOf n = some c ∧ c.phase = .cutting ∧ c.cuts = first :: rest ∧ p < 16 ∧ s.markComes c p (first.tick + c.timeout * 4000000) = true) ∧
    (∃ (s : State) (r : Req), Admitted r (if bitOf r.b2 0 then 16 else 0) s ∧ r.length = 0 ∧ s.commits = []) ∧
    (∃ (s : State) (r : Req) (c : Commit) (q : Nat), Admitted r (if bitOf r.b2 0 then 16 else 0) s ∧ r.length = 0 ∧ s.fwRuns = true ∧ s.commits = [c] ∧ c.mode = .marker ∧ c.phase = .armed ∧ c.marker = r.object ∧ c.armTick ≤ r.tick ∧ bitOf c.mask r.port = true ∧ c.cuts = [] ∧ q < 16 ∧ q ≠ r.port ∧ bitOf c.mask q = true ∧ ((∀ p, p < 16 → p ≠ r.port → s.markComes c p r.tick = false))) ∧
    (∃ (s : State) (e : Sqe) (c : Commit), Running e s ∧ s.commits = [c] ∧ s.uncut c = true ∧ e.bit 16 0 = false ∧ ((∀ n, n ∈ c.tables ↔ n < 256 ∧ bitOf (e.par 32 32) n = true)) ∧ ((∃ n, n ∈ c.tables)) ∧ ((∀ n ∈ c.tables, ∃ x, s.table n = some x))) ∧
    (∃ (s : State) (e : Sqe), Running e s ∧ s.quenched = false ∧ 1 ≤ e.par 24 4 ∧ e.par 24 4 ≤ 65536 ∧ e.par 16 8 % 16 = 0) :=
  ⟨⟨(rg (sq 0x18A [(16, 0), (32, 8)]) up), (sq 0x18A [(16, 0), (32, 8)]), stNoSuchObject, runs_ok (by decide +kernel), by decide +kernel⟩,
    ⟨(rg (sq 0x18A [(16, 0), (32, 8)]) one), (sq 0x18A [(16, 0), (32, 8)]), runs_ok (by decide +kernel), by decide +kernel, by decide +kernel, by decide +kernel, by decide +kernel, one_image _⟩,
    ⟨(rg (sq 0x18A [(16, 1), (18, 1), (24, 1), (32, 8)]) one), (sq 0x18A [(16, 1), (18, 1), (24, 1), (32, 8)]), runs_ok (by decide +kernel), by decide +kernel, by decide +kernel, by decide +kernel, by decide +kernel, one_image _⟩,
    ⟨{ (ts 3 (tab .index 0 8)).setF devStatusFwRunning 1 with commits := [(cm .immediate (.due 5) 0 [])] }, 3, (cm .immediate (.due 5) 0 []), 5, by decide +kernel⟩,
    ⟨{ (ts 3 (tab .index 0 8)).setF devStatusFwRunning 1 with commits := [(cm .marker .cutting 3 [⟨0, 5, true, []⟩])] }, 3, (cm .marker .cutting 3 [⟨0, 5, true, []⟩]), ⟨0, 5, true, []⟩, [], by decide +kernel⟩,
    ⟨(adm (rq 0x20 0 0 0 6 0 []) { (ts 3 (tab .index 0 8)).setF devStatusFwRunning 1 with commits := [(cm .marker .cutting 3 [⟨1, 5, true, []⟩])] }), 3, 0, (cm .marker .cutting 3 [⟨1, 5, true, []⟩]), ⟨1, 5, true, []⟩, [], by decide +kernel⟩,
    ⟨(adm (rq 0x20 0 1 0 6 0 []) hot), (rq 0x20 0 1 0 6 0 []), by unfold Admitted; decide +kernel, by decide +kernel⟩,
    ⟨(adm (rq 0x20 0 1 0 6 0 []) { (ts 3 (tab .index 0 8)).setF devStatusFwRunning 1 with commits := [(cm .marker .armed 3 [])] }), (rq 0x20 0 1 0 6 0 []), (cm .marker .armed 3 []), 1, by unfold Admitted; decide +kernel, by decide +kernel⟩,
    ⟨(rg (sq 0x18B [(32, 8)]) { (ts 3 (tab .index 0 8)).setF devStatusFwRunning 1 with commits := [(cm .marker .armed 3 [])] }), (sq 0x18B [(32, 8)]), (cm .marker .armed 3 []), runs_ok (by decide +kernel), by decide +kernel, by decide +kernel, by decide +kernel, three, ⟨3, by decide⟩, fun n h => ⟨tab .index 0 8, by rw [show n = 3 by simpa [cm] using h]; decide +kernel⟩⟩,
    ⟨(rg (sq 0x18C [(16, 16), (24, 65536)]) up), (sq 0x18C [(16, 16), (24, 65536)]), runs_ok (by decide +kernel), by decide +kernel⟩⟩

theorem test_witness_HostPortServesConfiguration :
    (∃ (s : State), s.on devStatusPcieReady = false ∧ s.safeHold = false) ∧
    (∃ (s : State), (s.on devStatusPcieReady = true ∨ s.safeHold = true)) ∧
    (∃ (s : State), (s.on devStatusPcieReady = true ∨ s.safeHold = true)) ∧
    (∃ (s : State) (v : Nat), (s.on devStatusPcieReady = true ∨ s.safeHold = true) ∧ v < 2 ^ 64) ∧
    (∃ (s : State), s.decodesBars = true) ∧
    (∃ (s : State) (c : Instr), s.decodesBars = false ∧ c ∈ [Instr.d3hotEntry, Instr.d0Return, Instr.msixUnmask none]) ∧
    (∃ (s : State), s.decodesBars = true ∧ s.pcie.vectorPending = 0) ∧
    (∃ (s : State), s.pcie.aspmL1 = true ∧ s.pcie.linkUp = true ∧ s.pcie.d3hot = false ∧ s.pcie.linkL1 = false) ∧
    (∃ (s : State) (r : Nat), s.f (hcRingCtrlIntTime r) ≠ 0 ∧ (s.ring r).unsignalled ≠ 0 ∧ s.canSend (16 + r) = true) ∧
    (∃ (s : State) (n : Nat), Open 0xC000 s ∧ s.pcie.linkUp = true ∧ s.pcie.d3hot = false ∧ s.pcie.msixEnable = true ∧ s.pcie.msixFnMask = false ∧ n < 64 ∧ s.pcie.vectorPending = 2 ^ n) ∧
    (∃ (s : State), s.decodesBars = true ∧ s.pcie.vectorPending = 0) :=
  ⟨⟨(up.setF devStatusPcieReady 0), by decide +kernel⟩,
    ⟨held, by decide +kernel⟩,
    ⟨held, by decide +kernel⟩,
    ⟨held, (2 ^ 64 - 1), by decide +kernel⟩,
    ⟨up, by decide +kernel⟩,
    ⟨z, (.msixUnmask none), by decide +kernel⟩,
    ⟨up, by decide +kernel⟩,
    ⟨{ up with pcie := { pcieReset with aspmL1 := true, linkUp := true } }, by decide +kernel⟩,
    ⟨(({ upR [(hcRingCtrlIntTime 0, 5)] with pcie := { up.pcie with msixEnable := true, vectorMask := 0 } }).setRing 0 { ringCold 0 with unsignalled := 1 }), 0, by decide +kernel⟩,
    ⟨{ up with pcie := { up.pcie with msixEnable := true, vectorPending := 2 ^ 63 } }, 63, by unfold Open; decide +kernel, by decide +kernel⟩,
    ⟨up, by decide +kernel⟩⟩

theorem test_witness_RegisterWritesFollowTheirAccessType :
    (∃ (s : State) (q : Requester) (off : Nat) (sp : FieldSpec), s.safeHold = false ∧ s.blockClosed off = false ∧ ((q = .host → s.on devStatusPcieReady = true)) ∧ off % 4 = 0 ∧ specsAt off = [sp] ∧ ((∀ x ∈ specsAt (off - 4), x.hi ≠ 63)) ∧ sp.hi ≠ 63 ∧ privilegedOffset off = false ∧ ringSetupAt off = none ∧ shadowAt off = none ∧ ¬ (0xC000 ≤ off ∧ off < 0xC400) ∧ ownRow (fld off sp.lo) = false ∧ fld off sp.lo ≠ tbSyncCfgIgnored ∧ fld off sp.lo ≠ tbCtrlSrc ∧ isLaneSer off = false ∧ switchedDomain off = none) ∧
    (∃ (s : State) (q : Requester) (off d : Nat) (sp : FieldSpec), s.safeHold = false ∧ s.blockClosed off = false ∧ ((q = .host → s.on devStatusPcieReady = true)) ∧ off % 4 = 0 ∧ specsAt off = [sp] ∧ ((∀ x ∈ specsAt (off - 4), x.hi ≠ 63)) ∧ sp.hi ≠ 63 ∧ sp.acc = .rw ∧ switchedDomain off = some d ∧ s.pilot.phase = .running ∧ s.domainCulled d = false ∧ bitOf s.dom.isolatedPwr d = false) ∧
    (∃ (s : State) (q : Requester), s.safeHold = false ∧ s.blockClosed 0x10014 = false ∧ ((q = .host → s.on devStatusPcieReady = true))) ∧
    (∃ (s : State) (off : Nat), s.safeHold = true ∧ safeHoldBlock (off / 4 * 4) = false) ∧
    (∃ (s : State) (q : Requester) (p : Nat), p ≤ 15 ∧ s.safeHold = false ∧ s.blockClosed (0x60034 + 0x1000 * p) = false ∧ ((q = .host → s.on devStatusPcieReady = true))) ∧
    (∃ (s : State), s.decodesBars = false) ∧
    (∃ (s : State) (q : Requester) (off : Nat), s.safeHold = false ∧ ((q = .host → s.on devStatusPcieReady = true)) ∧ s.blockClosed (off / 4 * 4) = true) ∧
    (∃ (s : State), s.decodesBars = false) ∧
    (∃ (s : State), s.decodesBars = true) ∧
    (∃ (s : State), Open (fldOff teLatCfgClear) s) ∧
    (∃ (s : State), Open (fldOff rgCfgWindow) s) ∧
    (∃ (s : State) (v : Nat), Open 0x50114 s ∧ s.f (evSrcCode (v % 64)) = 0) ∧
    (∃ (s : State) (v : Nat), Open 0x50114 s ∧ s.f (evSrcCode (v % 64)) ≠ 0) :=
  ⟨⟨up, .host, 0x20028, ⟨0x28, 31, 0, .rw, 4000000000, true, 0, 0⟩, by decide +kernel⟩,
    ⟨up, .host, 1114204, 45, ⟨92, 6, 0, .rw, 0, false, 0, 0⟩, by decide +kernel⟩,
    ⟨up, .host, by decide +kernel⟩,
    ⟨held, 393216, by decide +kernel⟩,
    ⟨up, .host, 15, by decide +kernel⟩,
    ⟨(up.setF devStatusPcieReady 0), by decide +kernel⟩,
    ⟨{ up with dom := { domReset with isolatedPwr := 2 ^ 64 - 1 } }, .host, 393216, by decide +kernel⟩,
    ⟨(up.setF devStatusPcieReady 0), by decide +kernel⟩,
    ⟨up, by decide +kernel⟩,
    ⟨up, by unfold Open; decide +kernel⟩,
    ⟨up, by unfold Open; decide +kernel⟩,
    ⟨(upR [(evSrcCode 63, 0)]), 63, by unfold Open; decide +kernel, by decide +kernel⟩,
    ⟨(upR [(evSrcCode 63, 1)]), 63, by unfold Open; decide +kernel, by decide +kernel⟩⟩

theorem test_witness_RingsFollowTheirRegisters :
    (∃ (s : State) (r : Nat), Open 0x30000 s ∧ s.on (hcRingCtrlEnable r) = false ∧ s.ringSetupOk r = true) ∧
    (∃ (s : State) (r : Nat), Open 0x30000 s ∧ s.on (hcRingCtrlEnable r) = false ∧ s.ringSetupOk r = false) ∧
    (∃ (s : State), Open 0x30000 s) ∧
    (∃ (s : State) (r v : Nat), Open 0x30000 s ∧ s.on (hcRingCtrlEnable r) = true ∧ v < s.f (hcRingSizeSq r) ∧ v ≠ (s.ring r).tail) ∧
    (∃ (s : State) (r v : Nat), Open 0x30000 s ∧ s.on (hcRingCtrlEnable r) = true ∧ s.f (hcRingSizeSq r) ≤ v) ∧
    (∃ (s : State) (r v : Nat), Open 0x30000 s ∧ s.on (hcRingCtrlEnable r) = true ∧ v < s.f (hcRingSizeCq r)) ∧
    (∃ (s : State) (r v : Nat), Open 0x30000 s ∧ s.on (hcRingCtrlEnable r) = true ∧ s.f (hcRingSizeCq r) ≤ v) ∧
    (∃ (s : State) (r i : Nat) (d : Tick) (rest : List (Nat × Tick)), s.on (hcRingCtrlEnable r) = true ∧ s.pcie.d3hot = false ∧ s.halted = false ∧ (s.ring r).doorbells = (i, d) :: rest) ∧
    (∃ (s : State) (e : Sqe), Running e s) ∧
    (∃ (s : State) (e : Sqe), Running e s) :=
  ⟨⟨(upR [(hcRingSizeSq 0, 16), (hcRingSizeCq 0, 16)]), 0, by unfold Open; decide +kernel, by decide +kernel⟩,
    ⟨up, 15, by unfold Open; decide +kernel, by decide +kernel⟩,
    ⟨(upR [(hcRingSizeSq 0, 16), (hcRingSizeCq 0, 16), (hcRingCtrlEnable 0, 1)]), by unfold Open; decide +kernel⟩,
    ⟨(upR [(hcRingSizeSq 0, 16), (hcRingSizeCq 0, 16), (hcRingCtrlEnable 0, 1)]), 0, 15, by unfold Open; decide +kernel, by decide +kernel⟩,
    ⟨(upR [(hcRingSizeSq 0, 16), (hcRingSizeCq 0, 16), (hcRingCtrlEnable 0, 1)]), 0, 16, by unfold Open; decide +kernel, by decide +kernel⟩,
    ⟨(upR [(hcRingSizeSq 0, 16), (hcRingSizeCq 0, 16), (hcRingCtrlEnable 0, 1)]), 0, 15, by unfold Open; decide +kernel, by decide +kernel⟩,
    ⟨(upR [(hcRingSizeSq 0, 16), (hcRingSizeCq 0, 16), (hcRingCtrlEnable 0, 1)]), 0, 16, by unfold Open; decide +kernel, by decide +kernel⟩,
    ⟨((upR [(hcRingSizeSq 0, 16), (hcRingSizeCq 0, 16), (hcRingCtrlEnable 0, 1)]).setRing 0 { ringCold 0 with doorbells := [(1, 5)] }), 0, 1, 5, [], by decide +kernel⟩,
    ⟨(rg (sq 0x108 []) up), (sq 0x108 []), runs_ok (by decide +kernel)⟩,
    ⟨(rg (sq 0x109 []) up), (sq 0x109 []), runs_ok (by decide +kernel)⟩⟩

theorem test_witness_EntriesStartWaitOrAreRefused :
    (∃ (s : State) (r : Nat) (e : Sqe) (rest : List Sqe) (c : CmdSpec), (s.ring r).fetched = e :: rest ∧ s.on (hcRingCtrlEnable r) = true ∧ s.halted = false ∧ s.mayStart r e = true ∧ specFor e.opcode = some c ∧ c.refusal s e = none ∧ c.gate s e = none ∧ (e.wait = false ∨ s.waitOver e = true)) ∧
    (∃ (s : State) (r : Nat) (e : Sqe) (rest : List Sqe) (c : CmdSpec), (s.ring r).fetched = e :: rest ∧ s.on (hcRingCtrlEnable r) = true ∧ s.halted = false ∧ s.mayStart r e = true ∧ specFor e.opcode = some c ∧ c.refusal s e = none ∧ e.wait = true ∧ s.waitOver e = false) ∧
    (∃ (s : State) (r st : Nat) (e : Sqe) (rest : List Sqe) (c : CmdSpec), (s.ring r).fetched = e :: rest ∧ e.ring = r ∧ s.on (hcRingCtrlEnable r) = true ∧ s.halted = false ∧ s.mayStart r e = true ∧ specFor e.opcode = some c ∧ (s.ring r).waitingHead = false ∧ c.refusal s e = some st) ∧
    (∃ (s : State) (r : Nat) (e : Sqe) (rest : List Sqe), (s.ring r).fetched = e :: rest ∧ e.ring = r ∧ s.on (hcRingCtrlEnable r) = true ∧ s.halted = false ∧ s.mayStart r e = true ∧ specFor e.opcode = none ∧ ¬ (0x3C0 ≤ e.opcode ∧ e.opcode ≤ 0x3FF)) ∧
    (∃ (s : State) (r : Nat) (e : Sqe) (rest : List Sqe), (s.ring r).fetched = e :: rest ∧ e.ring = r ∧ s.on (hcRingCtrlEnable r) = true ∧ s.halted = false ∧ s.mayStart r e = true ∧ 0x3C0 ≤ e.opcode ∧ e.opcode ≤ 0x3FF ∧ s.on fzCloseVendor = true) ∧
    (∃ (s : State) (r : Nat) (e : Sqe) (rest : List Sqe), (s.ring r).fetched = e :: rest ∧ s.on (hcRingCtrlEnable r) = true ∧ s.halted = false ∧ s.mayStart r e = true ∧ 0x3C0 ≤ e.opcode ∧ e.opcode ≤ 0x3FF ∧ s.on fzCloseVendor = false ∧ (vendorSpec e.opcode).refusal s e = none) ∧
    (∃ (s : State) (r : Nat), s.on (hcRingCtrlEnable r) = true ∧ s.halted = false) ∧
    (∃ (s : State) (e : Sqe), Running e s) :=
  ⟨⟨(((upR [(hcRingSizeSq 0, 16), (hcRingSizeCq 0, 16), (hcRingCtrlEnable 0, 1)])).setRing 0 { ringCold 0 with fetched := [(⟨0, 0x100, 0, 0, 7, 0, 0, 0, 0⟩ : Sqe)] }), 0, (⟨0, 0x100, 0, 0, 7, 0, 0, 0, 0⟩ : Sqe), [], (spOf 0x100), by decide +kernel⟩,
    ⟨(((upR [(hcRingSizeSq 0, 16), (hcRingSizeCq 0, 16), (hcRingCtrlEnable 0, 1)])).setRing 0 { ringCold 0 with fetched := [(⟨0, 0x100, 4, 0, 7, 0, 1, 0, 0⟩ : Sqe)] }), 0, (⟨0, 0x100, 4, 0, 7, 0, 1, 0, 0⟩ : Sqe), [], (spOf 0x100), by decide +kernel⟩,
    ⟨(((upR [(hcRingSizeSq 0, 16), (hcRingSizeCq 0, 16), (hcRingCtrlEnable 0, 1)])).setRing 0 { ringCold 0 with fetched := [(⟨0, 0x100, 0, 0, 7, 0, 0, 1, 0⟩ : Sqe)] }), 0, stBadParam, (⟨0, 0x100, 0, 0, 7, 0, 0, 1, 0⟩ : Sqe), [], (spOf 0x100), by decide +kernel⟩,
    ⟨(((upR [(hcRingSizeSq 0, 16), (hcRingSizeCq 0, 16), (hcRingCtrlEnable 0, 1)])).setRing 0 { ringCold 0 with fetched := [(⟨0, 0x2FF, 0, 0, 7, 0, 0, 0, 0⟩ : Sqe)] }), 0, (⟨0, 0x2FF, 0, 0, 7, 0, 0, 0, 0⟩ : Sqe), [], by decide +kernel⟩,
    ⟨(((upR [(hcRingSizeSq 0, 16), (hcRingSizeCq 0, 16), (hcRingCtrlEnable 0, 1), (fzCloseVendor, 1)])).setRing 0 { ringCold 0 with fetched := [(⟨0, 0x3C0, 0, 0, 7, 0, 0, 0, 0⟩ : Sqe)] }), 0, (⟨0, 0x3C0, 0, 0, 7, 0, 0, 0, 0⟩ : Sqe), [], by decide +kernel⟩,
    ⟨(((upR [(hcRingSizeSq 0, 16), (hcRingSizeCq 0, 16), (hcRingCtrlEnable 0, 1), (hcRingStatusExpert 0, 1)])).setRing 0 { ringCold 0 with fetched := [(⟨0, 0x3FF, 1, 0, 7, 0, 0, 0, 0⟩ : Sqe)] }), 0, (⟨0, 0x3FF, 1, 0, 7, 0, 0, 0, 0⟩ : Sqe), [], by decide +kernel⟩,
    ⟨(upR [(hcRingSizeSq 0, 16), (hcRingSizeCq 0, 16), (hcRingCtrlEnable 0, 1)]), 0, by decide +kernel⟩,
    ⟨(rg (sq 0x110 []) up), (sq 0x110 []), runs_ok (by decide +kernel)⟩⟩

theorem test_witness_StagingWindowIsChecked :
    (∃ (s : State), s.decodesBars = false) ∧
    (∃ (s : State), s.decodesBars = false) ∧
    (∃ (s : State), s.decodesBars = true ∧ s.windows = [] ∧ s.halted = true) ∧
    (∃ (s : State), s.decodesBars = true ∧ s.windows = [] ∧ s.halted = true) ∧
    (∃ (s : State) (off n : Nat), s.decodesBars = true ∧ s.windows = [] ∧ s.halted = false ∧ s.quenched = false ∧ s.f hcStageKind = 2 ∧ s.rangeLive false (s.windowPos off) n = true) ∧
    (∃ (s : State) (off n : Nat), s.decodesBars = true ∧ s.windows = [] ∧ s.halted = false ∧ s.quenched = false ∧ s.f hcStageKind = 1 ∧ s.rangeLive true (s.windowPos off) n = true ∧ s.windowBlocked false true (s.windowPos off) n = false) ∧
    (∃ (s : State) (off n : Nat), s.decodesBars = true ∧ s.quenched = false ∧ s.windowWaits ⟨false, off, n, [], 0⟩ = true) ∧
    (∃ (s : State) (off : Nat) (data : List Byte) (enables : Nat), s.decodesBars = true ∧ s.quenched = false ∧ s.windowWaits ⟨true, off, data.length, data, enables⟩ = true) ∧
    (∃ (s : State), s.decodesBars = true ∧ s.halted = false ∧ s.quenched = true) ∧
    (∃ (s : State), s.decodesBars = true ∧ s.windows = [] ∧ s.halted = false ∧ s.quenched = false ∧ s.f hcStageKind = 0) ∧
    (∃ (s : State) (off n : Nat), s.decodesBars = true ∧ s.windows = [] ∧ s.halted = false ∧ s.quenched = false ∧ s.f hcStageKind = 1 ∧ s.rangeLive true (s.windowPos off) n = false) ∧
    (∃ (s : State) (off : Nat) (data : List Byte) (enables : Nat), s.decodesBars = true ∧ s.windows = [] ∧ s.halted = false ∧ s.quenched = false ∧ s.f hcStageKind = 2 ∧ s.on hcStageWrite = true ∧ s.rangeLive false (s.windowPos off) data.length = true ∧ wholeWords off data.length enables = true) ∧
    (∃ (s : State) (off : Nat) (data : List Byte) (enables : Nat), s.decodesBars = true ∧ s.windows = [] ∧ s.halted = false ∧ s.quenched = false ∧ s.f hcStageKind = 1 ∧ s.on hcStageWrite = true ∧ s.rangeLive true (s.windowPos off) data.length = true ∧ wholeWords off data.length enables = true ∧ s.rangeFree (s.windowPos off) data.length = true ∧ s.windowBlocked true true (s.windowPos off) data.length = false ∧ ((∀ k ∈ sectorsOf (s.windowPos off) data.length, s.queuedWrite k = none))) ∧
    (∃ (s : State) (off : Nat) (data : List Byte) (enables k : Nat) (w : MemEntry), s.decodesBars = true ∧ s.windows = [] ∧ s.halted = false ∧ s.quenched = false ∧ s.f hcStageKind = 1 ∧ s.on hcStageWrite = true ∧ s.rangeLive true (s.windowPos off) data.length = true ∧ wholeWords off data.length enables = true ∧ s.rangeFree (s.windowPos off) data.length = true ∧ s.windowBlocked true true (s.windowPos off) data.length = false ∧ sectorsOf (s.windowPos off) data.length = [k] ∧ s.queuedWrite k = some w) ∧
    (∃ (s : State), s.decodesBars = true ∧ s.windows = [] ∧ s.halted = false ∧ s.quenched = false ∧ s.f hcStageKind ≠ 0 ∧ s.on hcStageWrite = false) ∧
    (∃ (s : State), s.decodesBars = true ∧ s.halted = false ∧ s.quenched = true) ∧
    (∃ (s : State) (e : Sqe), Running e s ∧ e.par 16 1 = 1 ∧ e.par 20 2 * 2 ^ 28 < s.dramBytes) ∧
    (∃ (s : State) (e : Sqe), Running e s ∧ 2 < e.par 16 1) :=
  ⟨⟨z, by decide +kernel⟩,
    ⟨z, by decide +kernel⟩,
    ⟨held, by decide +kernel⟩,
    ⟨held, by decide +kernel⟩,
    ⟨(upR [(hcStageKind, 2), (hcStageWrite, 1)]), 0, 1, by decide +kernel⟩,
    ⟨(up.setFs [(hcStageKind, 1)]), 6144, 8, by decide +kernel⟩,
    ⟨{ (up.setFs [(hcStageKind, 1), (hcStageWrite, 1), (mcStageGuard 0, 1)]) with pcs := [(0, { pcCold 0 with lastAct := [(0, 3, up.now)] })] }, 6144, 8, by decide +kernel⟩,
    ⟨{ (up.setFs [(hcStageKind, 1), (hcStageWrite, 1), (mcStageGuard 0, 1)]) with pcs := [(0, { pcCold 0 with lastAct := [(0, 3, up.now)] })] }, 6144, (le 8 5), 255, by decide +kernel⟩,
    ⟨quen, by decide +kernel⟩,
    ⟨up, by decide +kernel⟩,
    ⟨(upR [(hcStageKind, 1), (hcStageWrite, 1), (hcStageBase, 65535)]), 0, 64, by decide +kernel⟩,
    ⟨(upR [(hcStageKind, 2), (hcStageWrite, 1)]), 0, (le 8 5), 255, by decide +kernel⟩,
    ⟨{ (upR [(hcStageKind, 1), (hcStageWrite, 1)]) with trust := { trustReset with latched := factoryWords } }, 16777216, (le 32 5), (2 ^ 32 - 1), by decide +kernel⟩,
    ⟨{ (upR [(hcStageKind, 1), (hcStageWrite, 1)]) with trust := { trustReset with latched := factoryWords }, pcs := [(0, { pcCold 0 with writes := [{ me .qw true [(0, 5)] with req := { mq .qw true [(0, 5)] with bank := 0, sector := 0 } }] })] }, 6144, (le 8 5), 255, 6144, ({ me .qw true [(0, 5)] with req := { mq .qw true [(0, 5)] with bank := 0, sector := 0 } }), by decide +kernel⟩,
    ⟨(upR [(hcStageKind, 2)]), by decide +kernel⟩,
    ⟨quen, by decide +kernel⟩,
    ⟨(rg (sq 0x1D8 [(16, 1)]) { up with trust := { trustReset with latched := factoryWords } }), (sq 0x1D8 [(16, 1)]), runs_ok (by decide +kernel), by decide +kernel⟩,
    ⟨(rg (sq 0x1D8 [(16, 3)]) up), (sq 0x1D8 [(16, 3)]), runs_ok (by decide +kernel), by decide +kernel⟩⟩

theorem test_witness_EventCommandsAct :
    (∃ (s : State) (e : Sqe), Running e s ∧ e.par 16 1 ≤ 63 ∧ sourceDefined (e.par 18 2) = true) ∧
    (∃ (s : State) (e : Sqe), Running e s ∧ 63 < e.par 16 1) ∧
    (∃ (s : State) (e : Sqe), Running e s ∧ e.par 16 1 ≤ 63 ∧ e.par 17 1 = 1 ∧ s.lineConfigured (e.par 16 1) = true ∧ e.bit 19 0 = true) ∧
    (∃ (s : State) (e : Sqe), Running e s ∧ e.par 16 1 ≤ 63 ∧ e.par 17 1 = 2 ∧ e.par 18 1 ≤ 15 ∧ s.lineConfigured (e.par 16 1) = true ∧ e.bit 19 0 = true) ∧
    (∃ (s : State) (e : Sqe), Running e s ∧ e.par 16 1 ≤ 63 ∧ e.par 17 1 = 1 ∧ s.lineConfigured (e.par 16 1) = false) ∧
    (∃ (s : State) (e : Sqe), Running e s ∧ e.par 16 1 ≤ 63 ∧ s.f (evSrcCode (e.par 16 1)) = 0) ∧
    (∃ (s : State) (e : Sqe), Running e s ∧ e.par 16 1 ≤ 63 ∧ s.f (evSrcCode (e.par 16 1)) ≠ 0 ∧ s.f (evSrcCode (e.par 16 1)) ≠ 0xFFFF) ∧
    (∃ (s : State) (e : Sqe), Running e s ∧ e.par 16 1 ≤ 63) ∧
    (∃ (s : State) (e : Sqe), Running e s ∧ e.par 16 1 ≤ 15 ∧ e.par 17 1 ≤ 14 ∧ s.f (bmChStatusState (e.par 16 1)) = 0 ∧ e.par 18 2 ≠ 0) ∧
    (∃ (s : State) (e : Sqe), Running e s ∧ e.par 16 1 ≤ 15 ∧ e.par 17 1 ≤ 14 ∧ s.f (bmChStatusState (e.par 16 1)) = 1) ∧
    (∃ (s : State) (e : Sqe), Running e s ∧ e.par 16 1 ≤ 15) ∧
    (∃ (s : State) (l : Nat) (k : Tick) (rest : List (Nat × Tick)), s.pulses = (l, k) :: rest ∧ s.halted = true) ∧
    (∃ (s : State) (l : Nat) (k : Tick) (rest : List (Nat × Tick)), s.pulses = (l, k) :: rest ∧ s.halted = false ∧ s.on evSnapConnected = true ∧ s.f evSnapLine = l ∧ s.snapPending = none ∧ s.snapRead = false ∧ s.qmGone = false) :=
  ⟨⟨(rg (sq 0x300 [(16, 63)]) up), (sq 0x300 [(16, 63)]), runs_ok (by decide +kernel), by decide +kernel⟩,
    ⟨(rg (sq 0x300 [(16, 64)]) up), (sq 0x300 [(16, 64)]), runs_ok (by decide +kernel), by decide +kernel⟩,
    ⟨(rg (sq 0x301 [(16, 63), (17, 1), (19, 1)]) (upR [(evSrcCode 63, 0)])), (sq 0x301 [(16, 63), (17, 1), (19, 1)]), runs_ok (by decide +kernel), by decide +kernel⟩,
    ⟨(rg (sq 0x301 [(16, 63), (17, 2), (18, 15), (19, 1)]) (upR [(evSrcCode 63, 0)])), (sq 0x301 [(16, 63), (17, 2), (18, 15), (19, 1)]), runs_ok (by decide +kernel), by decide +kernel⟩,
    ⟨(rg (sq 0x301 [(16, 63), (17, 1)]) (upR [(evSrcCode 63, 0xFFFF)])), (sq 0x301 [(16, 63), (17, 1)]), runs_ok (by decide +kernel), by decide +kernel⟩,
    ⟨(rg (sq 0x302 [(16, 63)]) (upR [(evSrcCode 63, 0)])), (sq 0x302 [(16, 63)]), runs_ok (by decide +kernel), by decide +kernel⟩,
    ⟨(rg (sq 0x302 [(16, 63)]) (upR [(evSrcCode 63, 1)])), (sq 0x302 [(16, 63)]), runs_ok (by decide +kernel), by decide +kernel⟩,
    ⟨(rg (sq 0x303 [(16, 63)]) up), (sq 0x303 [(16, 63)]), runs_ok (by decide +kernel), by decide +kernel⟩,
    ⟨(rg (sq 0x308 [(16, 15), (17, 14), (18, 1)]) up), (sq 0x308 [(16, 15), (17, 14), (18, 1)]), runs_ok (by decide +kernel), by decide +kernel⟩,
    ⟨(rg (sq 0x308 [(16, 15), (17, 14)]) (upR [(bmChStatusState 15, 1)])), (sq 0x308 [(16, 15), (17, 14)]), runs_ok (by decide +kernel), by decide +kernel⟩,
    ⟨(rg (sq 0x309 [(16, 15)]) up), (sq 0x309 [(16, 15)]), runs_ok (by decide +kernel), by decide +kernel⟩,
    ⟨{ held with pulses := [(0, 5)] }, 0, 5, [], by decide +kernel⟩,
    ⟨{ upR [(evSnapConnected, 1), (evSnapLine, 3)] with pulses := [(3, 5)] }, 3, 5, [], by decide +kernel⟩⟩

theorem test_witness_ChannelsRunTheirDescriptors :
    (∃ (s : State) (c : Nat), Open (bmBase c) s ∧ c < 16 ∧ s.quenched = false ∧ s.f (bmChStatusState c) = 0 ∧ s.on (bmChStatusShadowValid c) = true ∧ s.f (bmShCount c) ≠ 0 ∧ s.f (bmShModeOp c) ≤ 2 ∧ s.f (bmShModeSrcW c) ≤ 6 ∧ s.f (bmShModeDstW c) ≤ 6 ∧ s.f (bmShNext c) % 64 = 0) ∧
    (∃ (s : State) (c : Nat), Open (bmBase c) s ∧ c < 16 ∧ s.f (bmChStatusState c) ≠ 0) ∧
    (∃ (s : State) (c : Nat), Open (bmBase c) s ∧ 16 ≤ c) ∧
    (∃ (s : State) (c : Nat), Open (bmBase c) s ∧ c < 16) ∧
    (∃ (s : State) (c : Nat), Open (bmBase c) s ∧ c < 16 ∧ s.f (bmChStatusState c) = 2) ∧
    (∃ (s : State) (c : Nat), (s.f (bmChStatusState c) = 1 ∨ s.f (bmChStatusState c) = 3)) ∧
    (∃ (s : State) (c : Nat) (b : List Byte), (s.channel c).fetching = true ∧ (s.channel c).ended = false ∧ s.on (bmChStatusShadowValid c) = false ∧ descriptorOk b = true) ∧
    (∃ (s : State) (c : Nat), (s.channel c).fetching = true) ∧
    (∃ (s : State) (c : Nat), s.f (bmChStatusState c) = 1 ∧ (s.channel c).ended = false ∧ (s.channel c).fetching = false ∧ s.on (bmChStatusShadowValid c) = false ∧ s.f (bmAcModeOp c) = 0 ∧ s.f (bmAcModeSrcSpace c) = 0 ∧ s.f (bmAcModeDstSpace c) = 0 ∧ s.f (bmAcModeDstW c) ≤ 6 ∧ s.pcie.d3hot = false ∧ s.halted = false) ∧
    (∃ (s : State) (c : Nat), s.f (bmChStatusState c) = 1 ∧ (s.channel c).ended = false ∧ s.f (bmAcModeOp c) = 0 ∧ s.f (bmAcModeSrcSpace c) = 3 ∧ s.on bmCtrlPhysEn = false ∧ s.pcie.d3hot = false ∧ s.halted = false) ∧
    (∃ (s : State) (c : Nat), s.f (bmChStatusState c) = 1) :=
  ⟨⟨(upR [(bmChStatusShadowValid 15, 1), (bmShCount 15, 1)]), 15, by unfold Open; decide +kernel, by decide +kernel⟩,
    ⟨(upR [(bmChStatusState 15, 1)]), 15, by unfold Open; decide +kernel, by decide +kernel⟩,
    ⟨up, 16, by unfold Open; decide +kernel, by decide +kernel⟩,
    ⟨up, 15, by unfold Open; decide +kernel, by decide +kernel⟩,
    ⟨(upR [(bmChStatusState 15, 2)]), 15, by unfold Open; decide +kernel, by decide +kernel⟩,
    ⟨(upR [(bmChStatusState 3, 3)]), 3, by decide +kernel⟩,
    ⟨((up).setChannel 0 { channelCold 0 with fetching := true }), 0, (with32 (le 16 0 ++ le 4 1 ++ le 40 0)), by decide +kernel⟩,
    ⟨((up).setChannel 0 { channelCold 0 with fetching := true }), 0, by decide +kernel⟩,
    ⟨(upR [(bmChStatusState 0, 1), (bmAcCount 0, 1)]), 0, by decide +kernel⟩,
    ⟨(upR [(bmChStatusState 0, 1), (bmAcModeSrcSpace 0, 3)]), 0, by decide +kernel⟩,
    ⟨(upR [(bmChStatusState 0, 1)]), 0, by decide +kernel⟩⟩

theorem test_witness_DeviceCommandsAnswer :
    (∃ (s : State) (e : Sqe), Running e s) ∧
    (∃ (s : State) (e : Sqe), Running e s) ∧
    (∃ (s : State) (e : Sqe), Running e s) ∧
    (∃ (s : State) (e : Sqe), Running e s) ∧
    (∃ (s : State) (e : Sqe) (es : List LogEntry) (a z : LogEntry), Running e s ∧ 1 ≤ e.par 28 4 ∧ e.par 28 4 ≤ 4096 ∧ e.par 16 8 % 16 = 0 ∧ es = ((s.log.reverse.filter (fun n => decide (e.par 24 4 ≤ n.seq))).take (e.par 28 4)) ∧ es.head? = some a ∧ es.getLast? = some z) ∧
    (∃ (s : State) (e : Sqe), Running e s ∧ 1 ≤ e.par 28 4 ∧ e.par 28 4 ≤ 4096 ∧ e.par 16 8 % 16 = 0 ∧ ((∀ n ∈ s.log, n.seq < e.par 24 4))) ∧
    (∃ (s : State) (e : Sqe), Running e s ∧ 4096 < e.par 28 4) ∧
    (∃ (s : State) (e : Sqe), Running e s) ∧
    (∃ (s : State) (e : Sqe), Running e s ∧ e.indirect = false) ∧
    (∃ (s : State) (e : Sqe), Running e s ∧ e.indirect = true ∧ 1024 ≤ e.paramLen ∧ s.on devStatusReportValid = false) ∧
    (∃ (s : State) (e : Sqe), Running e s ∧ e.indirect = true ∧ 1024 ≤ e.paramLen ∧ s.on devStatusReportValid = true) :=
  ⟨⟨(rg (sq 0x100 []) up), (sq 0x100 []), runs_ok (by decide +kernel)⟩,
    ⟨(rg (sq 0x101 []) up), (sq 0x101 []), runs_ok (by decide +kernel)⟩,
    ⟨(rg (sq 0x102 []) up), (sq 0x102 []), runs_ok (by decide +kernel)⟩,
    ⟨(rg (sq 0x110 []) up), (sq 0x110 []), runs_ok (by decide +kernel)⟩,
    ⟨(rg (sq 0x10C [(16, 16), (24, 1), (28, 4096)]) { up with log := [(⟨1, 5, .hc, 1, 1, 0xFF, 0xFF, 0xFF, 0, 0xFFFFFFFF, 0⟩ : LogEntry)] }), (sq 0x10C [(16, 16), (24, 1), (28, 4096)]), [(⟨1, 5, .hc, 1, 1, 0xFF, 0xFF, 0xFF, 0, 0xFFFFFFFF, 0⟩ : LogEntry)], (⟨1, 5, .hc, 1, 1, 0xFF, 0xFF, 0xFF, 0, 0xFFFFFFFF, 0⟩ : LogEntry), (⟨1, 5, .hc, 1, 1, 0xFF, 0xFF, 0xFF, 0, 0xFFFFFFFF, 0⟩ : LogEntry), runs_ok (by decide +kernel), by decide +kernel⟩,
    ⟨(rg (sq 0x10C [(16, 16), (24, 2), (28, 1)]) { up with log := [(⟨1, 5, .hc, 1, 1, 0xFF, 0xFF, 0xFF, 0, 0xFFFFFFFF, 0⟩ : LogEntry)] }), (sq 0x10C [(16, 16), (24, 2), (28, 1)]), runs_ok (by decide +kernel), by decide +kernel⟩,
    ⟨(rg (sq 0x10C [(28, 4097)]) up), (sq 0x10C [(28, 4097)]), runs_ok (by decide +kernel), by decide +kernel⟩,
    ⟨(rg (sq 0x10D []) up), (sq 0x10D []), runs_ok (by decide +kernel)⟩,
    ⟨(rg (sq 0x105 []) up), (sq 0x105 []), runs_ok (by decide +kernel), by decide +kernel⟩,
    ⟨(rg (sqi 0x105 1024 []) up), (sqi 0x105 1024 []), runs_ok (by decide +kernel), by decide +kernel⟩,
    ⟨(rg (sqi 0x105 1024 []) (upR [(devStatusReportValid, 1)])), (sqi 0x105 1024 []), runs_ok (by decide +kernel), by decide +kernel⟩⟩

theorem test_witness_PlacementActsAtEpochs :
    (∃ (s : State), s.halted = false) ∧
    (∃ (s : State) (e : Sqe), Running e s ∧ s.quenched = false ∧ e.par 16 4 ≤ s.largestT ∧ s.f mvTableUsedRows ≤ e.par 16 4 * unitRows ∧ e.par 16 4 * unitRows + 524288 ≤ s.poolRows ∧ s.poolDemand ≤ s.poolRows - e.par 16 4 * unitRows) ∧
    (∃ (s : State) (e : Sqe), Running e s ∧ s.quenched = false ∧ s.largestT < e.par 16 4) ∧
    (∃ (s : State) (e : Sqe), Running e s ∧ s.quenched = false ∧ e.par 16 4 ≤ s.largestT ∧ e.par 16 4 * unitRows < s.f mvTableUsedRows) ∧
    (∃ (s : State) (e : Sqe), Running e s) ∧
    (∃ (s : State) (e : Sqe), Running e s ∧ e.par 16 8 % 16 = 0) ∧
    (∃ (s : State) (e : Sqe), Running e s ∧ 1 ≤ e.par 16 2 ∧ 1 ≤ e.par 18 2 ∧ 1 ≤ e.par 20 1 ∧ e.par 20 1 ≤ 15 ∧ e.par 21 1 ≤ 12 ∧ 33 ≤ e.par 22 1 ∧ e.par 22 1 ≤ 64 ∧ 1 ≤ e.par 26 2 ∧ e.par 26 2 ≤ 46) ∧
    (∃ (s : State) (e : Sqe) (x : Table), Running e s ∧ 1 ≤ e.par 17 1 ∧ e.par 17 1 ≤ e.par 18 1 ∧ e.par 18 1 ≤ 64 ∧ s.table (e.par 16 1) = some x) ∧
    (∃ (s : State), s.f tcCulletSlice = 0) ∧
    (∃ (s : State) (n : Nat), n < 64 ∧ bitOf (s.f tcCulletSlice) n = false) :=
  ⟨⟨up, by decide +kernel⟩,
    ⟨(rg (sq 0x1C0 [(16, 250)]) { up with trust := { trustReset with latched := factoryWords } }), (sq 0x1C0 [(16, 250)]), runs_ok (by decide +kernel), by decide +kernel⟩,
    ⟨(rg (sq 0x1C0 [(16, 251)]) up), (sq 0x1C0 [(16, 251)]), runs_ok (by decide +kernel), by decide +kernel⟩,
    ⟨(rg (sq 0x1C0 []) (upR [(mvTableUsedRows, 1)])), (sq 0x1C0 []), runs_ok (by decide +kernel), by decide +kernel⟩,
    ⟨(rg (sq 0x1C1 []) up), (sq 0x1C1 []), runs_ok (by decide +kernel)⟩,
    ⟨(rg (sq 0x1C2 [(16, 16)]) up), (sq 0x1C2 [(16, 16)]), runs_ok (by decide +kernel), by decide +kernel⟩,
    ⟨(rg (sq 0x1C4 [(16, 1), (18, 1), (20, 15), (21, 12), (22, 64), (26, 46)]) up), (sq 0x1C4 [(16, 1), (18, 1), (20, 15), (21, 12), (22, 64), (26, 46)]), runs_ok (by decide +kernel), by decide +kernel⟩,
    ⟨(rg (sq 0x1C5 [(16, 3), (17, 64), (18, 64)]) (ts 3 (tab .index 0 8))), (sq 0x1C5 [(16, 3), (17, 64), (18, 64)]), (tab .index 0 8), runs_ok (by decide +kernel), by decide +kernel⟩,
    ⟨up, by decide +kernel⟩,
    ⟨(upR [(tcCulletSlice, 5)]), 1, by decide +kernel⟩⟩

theorem test_witness_GuaranteesFollowTheFloor :
    (∃ (s : State), s.quenched = false) ∧
    (∃ (s : State), s.quenched = true) ∧
    (∃ (s : State) (e : Sqe) (b : List Byte), Running e s ∧ e.indirect = true ∧ e.paramLen = 120 ∧ b.length = 120 ∧ budgetBufferOk b = true ∧ s.exceeded (budgetClasses.foldl (putBudget b) s.regulator.newest) (s.f rgCfgPlanRate) e.tick = none ∧ s.regulator.opened < s.nextWindowTick) ∧
    (∃ (s : State) (e : Sqe) (b : List Byte) (x : Nat × Nat × Nat), Running e s ∧ e.indirect = true ∧ e.paramLen = 120 ∧ b.length = 120 ∧ budgetBufferOk b = true ∧ s.exceeded (budgetClasses.foldl (putBudget b) s.regulator.newest) (s.f rgCfgPlanRate) e.tick = some x) ∧
    (∃ (s : State) (e : Sqe), Running e s ∧ e.paramLen ≠ 120) ∧
    (∃ (s : State) (e : Sqe), Running e s ∧ e.par 16 1 ≤ 14) ∧
    (∃ (s : State) (e : Sqe), Running e s ∧ 14 < e.par 16 1) ∧
    (∃ (s : State) (e : Sqe), Running e s) ∧
    (∃ (s : State) (e : Sqe), Running e s ∧ 1 ≤ e.par 16 2 ∧ e.par 16 2 ≤ 1000) ∧
    (∃ (s : State) (e : Sqe), Running e s ∧ 1000 < e.par 16 2) ∧
    (∃ (s : State) (e : Sqe), Running e s ∧ e.par 16 1 ≤ 3 ∧ s.exceeded s.regulator.newest (e.par 16 1) e.tick = none) ∧
    (∃ (s : State) (e : Sqe) (b : List Byte), Running e s ∧ e.indirect = true ∧ e.paramLen = 120 ∧ b.length = 120 ∧ budgetBufferOk b = true ∧ s.exceeded (budgetClasses.foldl (putBudget b) s.regulator.newest) (s.f rgCfgPlanRate) e.tick = none ∧ s.nextWindowTick ≤ s.regulator.opened ∧ s.quenched = false) ∧
    (∃ (s : State) (e : Sqe) (b : List Byte), Running e s ∧ e.indirect = true ∧ e.paramLen = 120 ∧ b.length = 120 ∧ budgetBufferOk b = true ∧ s.exceeded (budgetClasses.foldl (putBudget b) s.regulator.newest) (s.f rgCfgPlanRate) e.tick = none ∧ s.nextWindowTick ≤ s.regulator.opened ∧ s.quenched = true) :=
  ⟨⟨up, by decide +kernel⟩,
    ⟨quen, by decide +kernel⟩,
    ⟨(rg (sqi 0x200 120 []) { up with time := { up.time with ticks := 1 } }), (sqi 0x200 120 []), (bb 1), runs_ok (by decide +kernel), by decide +kernel⟩,
    ⟨(rg (sqi 0x200 120 []) up), (sqi 0x200 120 []), (bb 4096000), ((up.exceeded (budgetClasses.foldl (putBudget (bb 4096000)) up.regulator.newest) (up.f rgCfgPlanRate) 0).getD (0, 0, 0)), runs_ok (by decide +kernel), by decide +kernel⟩,
    ⟨(rg (sqi 0x200 119 []) up), (sqi 0x200 119 []), runs_ok (by decide +kernel), by decide +kernel⟩,
    ⟨(rg (sq 0x201 [(16, 14)]) up), (sq 0x201 [(16, 14)]), runs_ok (by decide +kernel), by decide +kernel⟩,
    ⟨(rg (sq 0x201 [(16, 15)]) up), (sq 0x201 [(16, 15)]), runs_ok (by decide +kernel), by decide +kernel⟩,
    ⟨(rg (sq 0x202 []) up), (sq 0x202 []), runs_ok (by decide +kernel)⟩,
    ⟨(rg (sq 0x208 [(16, 1000)]) up), (sq 0x208 [(16, 1000)]), runs_ok (by decide +kernel), by decide +kernel⟩,
    ⟨(rg (sq 0x208 [(16, 1001)]) up), (sq 0x208 [(16, 1001)]), runs_ok (by decide +kernel), by decide +kernel⟩,
    ⟨(rg (sq 0x209 [(16, 3)]) up), (sq 0x209 [(16, 3)]), runs_ok (by decide +kernel), by decide +kernel⟩,
    ⟨(rg (sqi 0x200 120 []) up), (sqi 0x200 120 []), (bb 1), runs_ok (by decide +kernel), by decide +kernel⟩,
    ⟨(rg (sqi 0x200 120 []) quen), (sqi 0x200 120 []), (bb 1), runs_ok (by decide +kernel), by decide +kernel⟩⟩

theorem test_witness_ControllersServeRequests :
    (∃ (s : State) (r : MemReq), r.pc ≤ 63 ∧ r.bank ≤ 15 ∧ r.row < s.bankRows ∧ r.sector ≤ 7 ∧ s.pcLive r.pc = true ∧ s.portOpen r = false) ∧
    (∃ (s : State) (r : MemReq), r.pc ≤ 63 ∧ r.bank ≤ 15 ∧ r.row < s.bankRows ∧ r.sector ≤ 7 ∧ s.pcLive r.pc = true ∧ s.portOpen r = true ∧ r.write = false ∧ waitsBehind r (s.pcState r.pc).waiting = false ∧ (s.pcState r.pc).newestWrite r = none ∧ (s.pcState r.pc).hasRoom r = true) ∧
    (∃ (s : State) (r : MemReq), r.pc ≤ 63 ∧ r.bank ≤ 15 ∧ r.row < s.bankRows ∧ r.sector ≤ 7 ∧ s.pcLive r.pc = true ∧ s.portOpen r = true ∧ (s.pcState r.pc).newestWrite r = none ∧ (s.pcState r.pc).hasRoom r = false) ∧
    (∃ (s : State) (r : MemReq) (w : MemEntry), r.pc ≤ 63 ∧ r.bank ≤ 15 ∧ r.row < s.bankRows ∧ r.sector ≤ 7 ∧ s.pcLive r.pc = true ∧ s.portOpen r = true ∧ r.write = true ∧ waitsBehind r (s.pcState r.pc).waiting = false ∧ (s.pcState r.pc).newestWrite r = some w ∧ (s.pcState r.pc).mergesInto r w = true) ∧
    (∃ (s : State) (r : MemReq) (w : MemEntry), r.pc ≤ 63 ∧ r.bank ≤ 15 ∧ r.row < s.bankRows ∧ r.sector ≤ 7 ∧ s.pcLive r.pc = true ∧ s.portOpen r = true ∧ r.write = false ∧ waitsBehind r (s.pcState r.pc).waiting = false ∧ (s.pcState r.pc).newestWrite r = some w ∧ fullMask w.req.words = true) ∧
    (∃ (s : State) (n i : Nat) (e : MemEntry), (s.pcState n).reads[i]? = some e ∧ e.urgency < 3) ∧
    (∃ (s : State) (n i : Nat) (l : List MemSlot) (e : MemEntry), n ≤ 63 ∧ s.windows = [] ∧ s.pcLive n = true ∧ s.pcAsleep n = false ∧ s.stackAsleep = false ∧ s.chooseSlot n (l.filter (fun c => !s.onRowBus n c)) = some (.read i) ∧ (s.pcState n).reads[i]? = some e ∧ e.req.pc = n ∧ e.req.write = false ∧ (s.pcState n).waiting = []) ∧
    (∃ (s : State) (n i k v : Nat) (l : List MemSlot) (e : MemEntry), n ≤ 63 ∧ s.windows = [] ∧ s.pcLive n = true ∧ s.pcAsleep n = false ∧ s.stackAsleep = false ∧ s.chooseSlot n (l.filter (fun c => !s.onRowBus n c)) = some (.write i) ∧ (s.pcState n).writes[i]? = some e ∧ e.req.pc = n ∧ e.req.write = true ∧ e.req.words = [(k, v)] ∧ k < 32 ∧ (s.pcState n).waiting = []) ∧
    (∃ (s : State) (n b : Nat) (l : List MemSlot), n ≤ 63 ∧ s.windows = [] ∧ s.pcLive n = true ∧ s.pcAsleep n = false ∧ s.stackAsleep = false ∧ s.chooseSlot n (l.filter (s.onRowBus n)) = some (.refresh b) ∧ s.chooseSlot n (l.filter (fun c => !s.onRowBus n c)) = none ∧ s.engineQueues = [] ∧ ((∀ p, (s.port p).awaiting = []))) ∧
    (∃ (s : State) (n i : Nat) (l : List MemSlot) (e : MemEntry), n ≤ 63 ∧ s.windows = [] ∧ s.pcLive n = true ∧ s.pcAsleep n = false ∧ s.stackAsleep = false ∧ s.chooseSlot n (l.filter (s.onRowBus n)) = some (.read i) ∧ s.chooseSlot n (l.filter (fun c => !s.onRowBus n c)) = none ∧ (s.pcState n).reads[i]? = some e ∧ e.req.pc = n) :=
  ⟨⟨up, (mq .ca false []), by decide +kernel⟩,
    ⟨up, (mq .tm false []), by decide +kernel⟩,
    ⟨(fullWrites up), { mq .qw true [] with sector := 0 }, by decide +kernel⟩,
    ⟨(pcs0 { pcCold 0 with writes := [(me .tm true [(0, 5)])] }), (mq .qw true [(1, 7)]), (me .tm true [(0, 5)]), by decide +kernel⟩,
    ⟨(pcs0 { pcCold 0 with writes := [me .tm true ((List.range 32).map (fun i => (i, 0)))] }), (mq .tm false []), (me .tm true ((List.range 32).map (fun i => (i, 0)))), by decide +kernel⟩,
    ⟨(pcs0 { pcCold 0 with reads := [me .tm false []] }), 0, 0, (me .tm false []), by decide +kernel⟩,
    ⟨(pcs0 { pcCold 0 with reads := [me .tm false []], openRows := [(15, some ⟨3, false, false⟩)] }), 0, 0, [.read 0], (me .tm false []), by decide +kernel⟩,
    ⟨(pcs0 { pcCold 0 with writes := [me .tm true [(31, 5)]], openRows := [(15, some ⟨3, false, false⟩)] }), 0, 0, 31, 5, [.write 0], (me .tm true [(31, 5)]), by decide +kernel⟩,
    ⟨(pcs0 { pcCold 0 with debt := [(15, 4)] }), 0, 15, [.refresh 15], by decide +kernel, by decide +kernel, by decide +kernel, by decide +kernel, by decide +kernel, by decide +kernel, by decide +kernel, by decide +kernel, fun _ => rfl⟩,
    ⟨(pcs0 { pcCold 0 with reads := [me .tm false []] }), 0, 0, [.read 0], (me .tm false []), by decide +kernel⟩⟩

theorem test_witness_ControllersRefreshAndSleep :
    (∃ (s : State) (n bank : Nat), n ≤ 63 ∧ bank ≤ 15 ∧ s.pcLive n = true ∧ s.pcAsleep n = false ∧ s.stackAsleep = false ∧ (s.pcState n).servesBank bank = true) ∧
    (∃ (s : State) (n bank : Nat), n ≤ 63 ∧ bank ≤ 15 ∧ s.pcLive n = true ∧ s.pcAsleep n = false ∧ s.stackAsleep = false ∧ (s.pcState n).servesBank bank = false ∧ 0 ≤ Map.get (fun _ => 0) (s.pcState n).debt bank) ∧
    (∃ (s : State) (n : Nat), s.pcLive n = true ∧ s.f (mcPcStatusState n) = 0 ∧ (s.pcState n).empty = true ∧ s.f (mcPwrCfgPdIdle (n / 4)) ≠ 0 ∧ s.on (mcPcStatusCalHold n) = false) ∧
    (∃ (s : State) (n : Nat), s.pcLive n = true ∧ s.f (mcPcStatusState n) < 2 ∧ (s.pcState n).empty = true ∧ s.f (mcPwrCfgSrIdle (n / 4)) ≠ 0 ∧ s.on (mcPcStatusCalHold n) = false) ∧
    (∃ (s : State) (n bank : Nat) (o : OpenRow), Map.get (fun _ => none) (s.pcState n).openRows bank = some o ∧ o.timed = true) ∧
    (∃ (s : State) (n : Nat), s.test.lastHeld = some n ∧ s.on (mcPcStatusCalHold n) = true) ∧
    (∃ (s : State) (e : Sqe), Running e s) ∧
    (∃ (s : State) (e : Sqe), Running e s ∧ e.bit 18 1 = true ∧ e.par 20 2 ≤ 2550 ∧ e.par 20 2 % 10 = 0 ∧ e.bit 18 2 = false ∧ s.allCulledMcs (e.par 16 2) = false) ∧
    (∃ (s : State) (e : Sqe), Running e s ∧ e.bit 18 1 = true ∧ 2550 < e.par 20 2) ∧
    (∃ (s : State) (e : Sqe), Running e s ∧ e.par 18 1 = 2 ∧ e.par 20 2 ≠ 0 ∧ e.par 23 1 < e.par 22 1 ∧ 0 < e.par 23 1 ∧ e.par 22 1 ≤ 64 ∧ s.allCulledMcs (e.par 16 2) = false) ∧
    (∃ (s : State) (e : Sqe), Running e s ∧ 5 < e.par 18 1) :=
  ⟨⟨(pcs0 { pcCold 0 with reads := [me .tm false []] }), 0, 15, by decide +kernel⟩,
    ⟨(pcs0 (pcCold 0)), 63, 15, by decide +kernel⟩,
    ⟨(upR [(mcPwrCfgPdIdle 15, 1)]), 63, by decide +kernel⟩,
    ⟨(upR [(mcPwrCfgSrIdle 15, 1), (mcPcStatusState 63, 1)]), 63, by decide +kernel⟩,
    ⟨(pcs0 { pcCold 0 with openRows := [(15, some ⟨3, true, false⟩)] }), 0, 15, ⟨3, true, false⟩, by decide +kernel⟩,
    ⟨{ upR [(mcPcStatusCalHold 63, 1)] with test := { testReset with lastHeld := some 63 } }, 63, by decide +kernel⟩,
    ⟨(rg (sq 0x1C8 []) up), (sq 0x1C8 []), runs_ok (by decide +kernel)⟩,
    ⟨(rg (sq 0x1C9 [(18, 2), (20, 2550)]) up), (sq 0x1C9 [(18, 2), (20, 2550)]), runs_ok (by decide +kernel), by decide +kernel⟩,
    ⟨(rg (sq 0x1C9 [(18, 2), (20, 2551)]) up), (sq 0x1C9 [(18, 2), (20, 2551)]), runs_ok (by decide +kernel), by decide +kernel⟩,
    ⟨(rg (sq 0x1CA [(18, 2), (20, 1), (22, 2), (23, 1)]) up), (sq 0x1CA [(18, 2), (20, 1), (22, 2), (23, 1)]), runs_ok (by decide +kernel), by decide +kernel⟩,
    ⟨(rg (sq 0x1CA [(18, 6)]) up), (sq 0x1CA [(18, 6)]), runs_ok (by decide +kernel), by decide +kernel⟩⟩

theorem test_witness_ErrorsAreCountedAndRepaired :
    (∃ (s : State) (w : MemWord) (sy : Nat), sy % 256 = 0 ∧ ((∀ a, s.stackWord w = some a → a ∉ s.integrity.poisoned))) ∧
    (∃ (w : MemWord) (i : Nat), i < 8 ∧ 200 ≤ w.unit) ∧
    (∃ (s : State) (w : MemWord) (i : Nat), i < 8 ∧ w.unit < 64 ∧ s.keepsWord w = true ∧ ((∀ a, s.stackWord w = some a → a ∉ s.integrity.poisoned)) ∧ ((∀ p ∈ (s.bucket w.unit).seen, p.1 ≠ w.position)) ∧ (s.bucket w.unit).count + 1 ≤ max 1 (s.f (igBktDepthDepth 0))) ∧
    (∃ (s : State) (w : MemWord) (q i a : Nat), w.use = .packetWord q i ∧ (s.queue q).configured = true ∧ s.stackWord w = some a ∧ a ∈ s.integrity.poisoned) ∧
    (∃ (s : State) (w : MemWord) (q i : Nat), w.use = .packetWord q i ∧ (s.queue q).configured = true) ∧
    (∃ (s : State) (w : MemWord) (q : Nat), w.use = .context q ∧ w.unit = 200 ∧ (s.queue q).configured = true ∧ s.firstRead w = true) ∧
    (∃ (u : Nat), u < 200) ∧
    (∃ (s : State) (w : MemWord) (rest : List IgJob), s.fluxPaused = false ∧ s.integrity.jobs = .rewrite w :: rest) ∧
    (∃ (s : State) (n : Nat) (key : List Byte) (w : MemWord) (rest : List IgJob) (x : Table), s.integrity.jobs = .mirror n key false w :: rest ∧ s.table n = some x ∧ s.fluxPaused = false ∧ s.sourceBad n key false = false) ∧
    (∃ (s : State) (n : Nat), s.fluxPaused = false ∧ n ≤ 63 ∧ s.pcLive n = true ∧ s.on (mcPcStatusCalHold n) = false ∧ (((s.scrubRow n).row < 2 ∨ s.rowGuard (s.scrubRow n) = true))) ∧
    (∃ (s : State), s.fluxPaused = false) ∧
    (∃ (s : State) (n : Nat), n ≤ 63 ∧ s.pcLive n = true ∧ s.sweepOpen n = true) ∧
    (∃ (s : State) (pc bank : Nat), s.quenched = false ∧ s.integrity.requested = [(pc, bank)]) :=
  ⟨⟨up, (mw .other), 256, by decide +kernel⟩,
    ⟨{ mw .other with unit := 200 }, 7, by decide +kernel⟩,
    ⟨{ up with marver := { up.marver with region := [63] } }, { mw .other with unit := 63, row := 8192 * 16 }, 7, by decide +kernel⟩,
    ⟨{ qs qu with integrity := { up.integrity with poisoned := [(up.stackWord (mw (.packetWord 131071 5))).getD 0] } }, (mw (.packetWord 131071 5)), 131071, 5, ((up.stackWord (mw (.packetWord 131071 5))).getD 0), by decide +kernel⟩,
    ⟨(qs qu), (mw (.packetWord 131071 5)), 131071, 5, by decide +kernel⟩,
    ⟨(qs qu), { mw (.context 131071) with unit := 200 }, 131071, by decide +kernel⟩,
    ⟨199, by decide +kernel⟩,
    ⟨(igs (fun g => { g with jobs := [.rewrite (mw .other)] })), (mw .other), [], by decide +kernel⟩,
    ⟨{ ts 3 ({ (tab .index 0 8) with mirror := true }) with integrity := { integrityReset with jobs := [.mirror 3 (le 4 1) false (mw .other)] } }, 3, (le 4 1), (mw .other), [], { (tab .index 0 8) with mirror := true }, by decide +kernel⟩,
    ⟨up, 63, by decide +kernel⟩,
    ⟨up, by decide +kernel⟩,
    ⟨up, 63, by decide +kernel⟩,
    ⟨(igs (fun g => { g with requested := [(63, 15)] })), 63, 15, by decide +kernel⟩⟩

theorem test_witness_IntegrityCommandsAct :
    (∃ (s : State) (e : Sqe), Running e s) ∧
    (∃ (s : State) (e : Sqe), Running e s ∧ 15 ≤ e.par 16 2 ∧ e.par 16 2 ≤ 10080) ∧
    (∃ (s : State) (e : Sqe), Running e s ∧ ((e.par 16 2 < 15 ∨ 10080 < e.par 16 2))) ∧
    (∃ (s : State) (e : Sqe), Running e s ∧ e.par 16 1 ≤ 3 ∧ e.par 18 2 ≠ 0 ∧ e.par 20 4 ≠ 0 ∧ e.par 20 4 ≤ 3600000) ∧
    (∃ (s : State) (e : Sqe), Running e s ∧ ((3 < e.par 16 1 ∨ e.par 18 2 = 0 ∨ e.par 20 4 = 0 ∨ 3600000 < e.par 20 4))) ∧
    (∃ (s : State) (e : Sqe), Running e s ∧ e.par 16 1 ≤ 1 ∧ e.par 17 1 ≤ 16 ∧ 1 ≤ e.par 18 1 ∧ e.par 18 1 ≤ 168) ∧
    (∃ (s : State) (e : Sqe), Running e s ∧ ((16 < e.par 17 1 ∨ e.par 18 1 = 0 ∨ 168 < e.par 18 1))) :=
  ⟨⟨(rg (sq 0x1D0 []) up), (sq 0x1D0 []), runs_ok (by decide +kernel)⟩,
    ⟨(rg (sq 0x1D1 [(16, 10080)]) up), (sq 0x1D1 [(16, 10080)]), runs_ok (by decide +kernel), by decide +kernel⟩,
    ⟨(rg (sq 0x1D1 [(16, 10081)]) up), (sq 0x1D1 [(16, 10081)]), runs_ok (by decide +kernel), by decide +kernel⟩,
    ⟨(rg (sq 0x1D2 [(16, 3), (18, 1), (20, 3600000)]) up), (sq 0x1D2 [(16, 3), (18, 1), (20, 3600000)]), runs_ok (by decide +kernel), by decide +kernel⟩,
    ⟨(rg (sq 0x1D2 [(16, 3), (18, 1), (20, 3600001)]) up), (sq 0x1D2 [(16, 3), (18, 1), (20, 3600001)]), runs_ok (by decide +kernel), by decide +kernel⟩,
    ⟨(rg (sq 0x1D3 [(16, 1), (17, 16), (18, 168)]) up), (sq 0x1D3 [(16, 1), (17, 16), (18, 168)]), runs_ok (by decide +kernel), by decide +kernel⟩,
    ⟨(rg (sq 0x1D3 [(18, 0)]) up), (sq 0x1D3 [(18, 0)]), runs_ok (by decide +kernel), by decide +kernel⟩⟩

theorem test_witness_BistRunsAndRetires :
    (∃ (s : State) (e : Sqe), Running e s ∧ s.quenched = false ∧ 4 < e.par 16 1) ∧
    (∃ (s : State) (e : Sqe) (k : UnitKind), Running e s ∧ s.quenched = false ∧ kindFrom (e.par 16 1) = some k ∧ 2 ^ unitsOf k ≤ e.par 20 8) ∧
    (∃ (s : State) (e : Sqe) (p : Nat), Running e s ∧ s.quenched = false ∧ e.par 16 1 = 3 ∧ e.par 20 8 < 2 ^ 16 ∧ p < 16 ∧ bitOf (e.par 20 8) p = true ∧ s.unitCulled .portCore p = false ∧ (s.port p).byCommand = false) ∧
    (∃ (s : State) (e : Sqe) (k : UnitKind), Running e s ∧ s.quenched = false ∧ kindFrom (e.par 16 1) = some k ∧ e.par 20 8 < 2 ^ unitsOf k ∧ e.par 20 8 &&& s.f (kindFld k) = e.par 20 8) ∧
    (∃ (s : State) (e : Sqe) (k : UnitKind) (m : Nat), Running e s ∧ s.quenched = false ∧ kindFrom (e.par 16 1) = some k ∧ k ≠ .controller ∧ k ≠ .portCore ∧ m = e.par 20 8 - (e.par 20 8 &&& s.f (kindFld k)) ∧ e.par 20 8 < 2 ^ unitsOf k ∧ m ≠ 0) ∧
    (∃ (s : State) (e : Sqe) (m n : Nat), Running e s ∧ s.quenched = false ∧ e.par 16 1 = 2 ∧ e.par 20 8 = 2 ^ m ∧ m < 16 ∧ s.unitCulled .controller m = false ∧ n / 4 = m ∧ s.pcLive n = true) ∧
    (∃ (s : State) (e : Sqe) (j : BistJob) (u : Nat), Running e s ∧ s.quenched = false ∧ s.test.jobs = [j] ∧ j.kind = .engine ∧ j.todo = 2 ^ u ∧ j.ring = e.ring ∧ j.tag = e.tag ∧ u < 64 ∧ s.unitCulled .engine u = false ∧ s.testReady .engine u (s.jobTick j) = true) ∧
    (∃ (s : State) (j : BistJob) (u : Nat), s.quenched = false ∧ s.halted = false ∧ s.test.jobs = [j] ∧ j.kind = .engine ∧ u < 64 ∧ bitOf j.todo u = true ∧ clearBit j.todo u ≠ 0 ∧ s.unitCulled .engine u = false ∧ s.testReady .engine u (s.jobTick j) = true) ∧
    (∃ (s : State) (j : BistJob) (u : Nat), s.test.jobs = [j] ∧ s.unitCulled j.kind u = false ∧ s.testReady j.kind u (s.jobTick j) = false) ∧
    (∃ (s : State), s.test.jobs = []) :=
  ⟨⟨(rg (sq 0x280 [(16, 5)]) up), (sq 0x280 [(16, 5)]), runs_ok (by decide +kernel), by decide +kernel⟩,
    ⟨(rg (sq 0x280 [(16, 1), (20, 256)]) up), (sq 0x280 [(16, 1), (20, 256)]), .bench, runs_ok (by decide +kernel), by decide +kernel⟩,
    ⟨(rg (sq 0x280 [(16, 3), (20, 32768)]) up), (sq 0x280 [(16, 3), (20, 32768)]), 15, runs_ok (by decide +kernel), by decide +kernel⟩,
    ⟨(rg (sq 0x280 [(16, 1), (20, 1)]) (upR [(tcCulletMiscBench, 1)])), (sq 0x280 [(16, 1), (20, 1)]), .bench, runs_ok (by decide +kernel), by decide +kernel⟩,
    ⟨(rg (sq 0x280 [(16, 1), (20, 128)]) up), (sq 0x280 [(16, 1), (20, 128)]), .bench, 128, runs_ok (by decide +kernel), by decide +kernel⟩,
    ⟨(rg (sq 0x280 [(16, 2), (20, 32768)]) up), (sq 0x280 [(16, 2), (20, 32768)]), 15, 63, runs_ok (by decide +kernel), by decide +kernel⟩,
    ⟨(rg (sq 0x110 []) { up with test := { testReset with jobs := [bj (2 ^ 63)] } }), (sq 0x110 []), (bj (2 ^ 63)), 63, runs_ok (by decide +kernel), by decide +kernel⟩,
    ⟨{ up with test := { testReset with jobs := [bj (2 ^ 63 + 1)] } }, (bj (2 ^ 63 + 1)), 63, by decide +kernel⟩,
    ⟨{ up with test := { testReset with jobs := [⟨0, 7, .controller, 1, 0, 0, 0⟩] }, pcs := [(3, { pcCold 3 with writes := [me .tm true []] })] }, ⟨0, 7, .controller, 1, 0, 0, 0⟩, 0, by decide +kernel⟩,
    ⟨up, by decide +kernel⟩⟩

theorem test_witness_CulletCommandsAct :
    (∃ (s : State) (e : Sqe), Running e s ∧ e.par 16 8 % 16 = 0) ∧
    (∃ (s : State) (e : Sqe), Running e s ∧ e.par 16 8 % 16 ≠ 0) ∧
    (∃ (s : State) (e : Sqe), Running e s) ∧
    (∃ (s : State) (e : Sqe), Running e s) ∧
    (∃ (s : State) (e : Sqe) (b : List Byte), Running e s ∧ s.culletMapOk b = false) ∧
    (∃ (s : State) (e : Sqe) (b : List Byte), Running e s ∧ s.culletMapOk b = true ∧ s.takesLast (s.addMap b) = true ∧ s.servedBefore e.tick = false) ∧
    (∃ (s : State) (e : Sqe) (b : List Byte), Running e s ∧ s.culletMapOk b = true ∧ ((s.takesLast (s.addMap b) = false ∨ s.servedBefore e.tick = true))) :=
  ⟨⟨(rg (sq 0x281 [(16, 16)]) up), (sq 0x281 [(16, 16)]), runs_ok (by decide +kernel), by decide +kernel⟩,
    ⟨(rg (sq 0x281 [(16, 1)]) up), (sq 0x281 [(16, 1)]), runs_ok (by decide +kernel), by decide +kernel⟩,
    ⟨(rg (sq 0x282 []) up), (sq 0x282 []), runs_ok (by decide +kernel)⟩,
    ⟨(rg (sq 0x282 []) up), (sq 0x282 []), runs_ok (by decide +kernel)⟩,
    ⟨(rg (sq 0x282 []) up), (sq 0x282 []), (le 63 0), runs_ok (by decide +kernel), by decide +kernel⟩,
    ⟨(rg { (sq 0x282 []) with tick := 5 } { hot with time := { hot.time with ticks := 0 } }), { (sq 0x282 []) with tick := 5 }, (le 8 (2 ^ 64 - 1) ++ le 56 0), runs_ok (by decide +kernel), by decide +kernel⟩,
    ⟨(rg (sq 0x282 []) up), (sq 0x282 []), (le 64 0), runs_ok (by decide +kernel), by decide +kernel⟩⟩

theorem test_witness_CalibrationHoldsAndRestores :
    (∃ (s : State) (e : Sqe), Running e s ∧ e.par 18 2 = 0) ∧
    (∃ (s : State) (e : Sqe), Running e s ∧ e.par 18 2 ≠ 0) ∧
    (∃ (s : State) (e : Sqe), Running e s ∧ e.par 16 8 % 16 = 0) ∧
    (∃ (s : State) (e : Sqe), Running e s ∧ e.par 16 8 % 16 ≠ 0) ∧
    (∃ (s : State) (e : Sqe) (b : List Byte), Running e s ∧ s.quenched = false ∧ b.length ≠ 2084) ∧
    (∃ (s : State) (e : Sqe) (b : List Byte), Running e s ∧ s.quenched = false ∧ e.indirect = true ∧ e.paramLen = 2084 ∧ b.length = 2084 ∧ crc32 (b.take 2080) ≠ bufNat b 2080 4) ∧
    (∃ (s : State) (e : Sqe) (b : List Byte), Running e s ∧ s.quenched = false ∧ e.indirect = true ∧ e.paramLen = 2084 ∧ b.length = 2084 ∧ crc32 (b.take 2080) = bufNat b 2080 4 ∧ bufNat b 8 8 ≠ s.serial) ∧
    (∃ (s : State) (e : Sqe) (b r : List Byte) (n : Nat), Running e s ∧ s.quenched = false ∧ e.indirect = true ∧ e.paramLen = 2084 ∧ b.length = 2084 ∧ crc32 (b.take 2080) = bufNat b 2080 4 ∧ bufNat b 8 8 = s.serial ∧ bufNat b 6 1 = s.grade ∧ bufNat b 24 8 = 2 ^ n ∧ n < 64 ∧ s.on (mcPcStatusCalHold n) = false ∧ bitOf s.test.pcBist n = false ∧ s.pcLive n = true ∧ r = (b.drop (32 + 32 * n)).take 32 ∧ recordTsvs r = []) ∧
    (∃ (s : State) (e : Sqe) (b : List Byte) (n : Nat), Running e s ∧ s.quenched = false ∧ e.indirect = true ∧ e.paramLen = 2084 ∧ b.length = 2084 ∧ crc32 (b.take 2080) = bufNat b 2080 4 ∧ bufNat b 8 8 = s.serial ∧ bufNat b 6 1 = s.grade ∧ bitOf (bufNat b 24 8) n = true ∧ n < 64 ∧ s.on (mcPcStatusCalHold n) = true) ∧
    (∃ (s : State), s.f tcCalCfgEn = 0) ∧
    (∃ (s : State), s.on tcStatusCalActive = true) ∧
    (∃ (s : State) (n : Nat), s.f tcCalCfgEn ≠ 0 ∧ s.on tcStatusCalActive = false ∧ s.stackAsleep = false ∧ s.quenched = false ∧ s.pilot.phase = .running ∧ s.nextHold = some n) ∧
    (∃ (s : State) (n k v : Nat), s.f tcCalCfgEn ≠ 0 ∧ s.on tcStatusCalActive = false ∧ s.stackAsleep = false ∧ s.quenched = false ∧ s.pilot.phase = .running ∧ s.nextHold = some n ∧ k ∈ [0x20, 0x24, 0x28] ∧ v < 4096 ∧ s.f (fld (mcPcBase n + k) 0) < 4096) ∧
    (∃ (s : State) (n g p : Nat), s.f tcCalCfgEn ≠ 0 ∧ s.on tcStatusCalActive = false ∧ s.stackAsleep = false ∧ s.quenched = false ∧ s.pilot.phase = .running ∧ s.nextHold = some n ∧ g ≤ 2 ∧ p ≤ 33 ∧ (s.spares n g).contains p = false ∧ (s.spares n g).length < 2) ∧
    (∃ (s : State) (n g p : Nat), s.f tcCalCfgEn ≠ 0 ∧ s.on tcStatusCalActive = false ∧ s.stackAsleep = false ∧ s.quenched = false ∧ s.pilot.phase = .running ∧ s.nextHold = some n ∧ g ≤ 2 ∧ p ≤ 33 ∧ (s.spares n g).contains p = false ∧ 2 ≤ (s.spares n g).length) :=
  ⟨⟨(rg (sq 0x286 []) up), (sq 0x286 []), runs_ok (by decide +kernel), by decide +kernel⟩,
    ⟨(rg (sq 0x286 [(18, 1)]) up), (sq 0x286 [(18, 1)]), runs_ok (by decide +kernel), by decide +kernel⟩,
    ⟨(rg (sq 0x284 [(16, 16)]) up), (sq 0x284 [(16, 16)]), runs_ok (by decide +kernel), by decide +kernel⟩,
    ⟨(rg (sq 0x284 [(16, 15)]) up), (sq 0x284 [(16, 15)]), runs_ok (by decide +kernel), by decide +kernel⟩,
    ⟨(rg (sqi 0x285 2084 []) up), (sqi 0x285 2084 []), [], runs_ok (by decide +kernel), by decide +kernel⟩,
    ⟨(rg (sqi 0x285 2084 []) up), (sqi 0x285 2084 []), (calBody 0 0 1 ++ le 4 (crc32 (calBody 0 0 1) + 1)), runs_ok (by decide +kernel), by decide +kernel, by decide +kernel, by decide +kernel, by simp [le, calBody_length], crc32_not_closed (calBody_length ..)⟩,
    ⟨(rg (sqi 0x285 2084 []) up), (sqi 0x285 2084 []), (with32 (calBody 1 0 1)), runs_ok (by decide +kernel), by decide +kernel, by decide +kernel, by decide +kernel, by simp [with32, le, calBody_length], crc32_closed (calBody_length ..), by decide +kernel⟩,
    ⟨(rg (sqi 0x285 2084 []) up), (sqi 0x285 2084 []), (with32 (calBody 0 0 (2 ^ 63))), (((with32 (calBody 0 0 (2 ^ 63))).drop (32 + 32 * 63)).take 32), 63, runs_ok (by decide +kernel), by decide +kernel, by decide +kernel, by decide +kernel, by simp [with32, le, calBody_length], crc32_closed (calBody_length ..), by decide +kernel, by decide +kernel, by decide +kernel, by decide +kernel, by decide +kernel, rfl, by decide +kernel⟩,
    ⟨(rg (sqi 0x285 2084 []) (upR [(mcPcStatusCalHold 63, 1)])), (sqi 0x285 2084 []), (with32 (calBody 0 0 (2 ^ 63))), 63, runs_ok (by decide +kernel), by decide +kernel, by decide +kernel, by decide +kernel, by simp [with32, le, calBody_length], crc32_closed (calBody_length ..), by decide +kernel⟩,
    ⟨(upR [(tcCalCfgEn, 0)]), by decide +kernel⟩,
    ⟨(upR [(tcStatusCalActive, 1)]), by decide +kernel⟩,
    ⟨(upR [(tcCalCfgEn, 1)]), ((upR [(tcCalCfgEn, 1)]).nextHold.getD 0), by decide +kernel⟩,
    ⟨(upR [(tcCalCfgEn, 1)]), 0, 0x20, 9, by decide +kernel⟩,
    ⟨(upR [(tcCalCfgEn, 1)]), ((upR [(tcCalCfgEn, 1)]).nextHold.getD 0), 2, 33, by decide +kernel⟩,
    ⟨{ (upR [(tcCalCfgEn, 1)]) with test := { testReset with spares := (List.range 192).map (fun k => (k, [0, 1])) } }, ((upR [(tcCalCfgEn, 1)]).nextHold.getD 0), 2, 33, by decide +kernel⟩⟩

theorem test_witness_FirmwareImagesAreVerified :
    (∃ (s : State) (e : Sqe) (i : FwImage), Running e s ∧ s.quenched = false ∧ s.fwRuns = false ∧ s.on elStatusSvExpired = false ∧ s.loadingElsewhere e = false ∧ s.on devStatusStackFault = false ∧ s.on fzStatusBootFault = false ∧ imageLengthOk e i = true ∧ s.imageCheck i = none) ∧
    (∃ (s : State) (e : Sqe), Running e s ∧ s.quenched = false ∧ s.fwRuns = true) ∧
    (∃ (s : State) (e : Sqe), Running e s ∧ s.quenched = false ∧ s.fwRuns = false ∧ s.on elStatusSvExpired = false ∧ s.loadingElsewhere e = false ∧ s.on devStatusStackFault = true) ∧
    (∃ (s : State) (e : Sqe), Running e s ∧ s.quenched = false ∧ s.fwRuns = false ∧ s.on elStatusSvExpired = false ∧ s.loadingElsewhere e = false ∧ s.on devStatusStackFault = false ∧ s.on fzStatusBootFault = true) ∧
    (∃ (s : State) (e : Sqe) (i : FwImage), Running e s ∧ s.quenched = false ∧ s.fwRuns = true ∧ imageLengthOk e i = true ∧ s.imageCheck i = none) ∧
    (∃ (s : State) (e : Sqe), Running e s ∧ s.quenched = false ∧ s.fwRuns = false) ∧
    (∃ (s : State) (e : Sqe) (i : FwImage), Running e s ∧ s.quenched = false ∧ s.fwRuns = true ∧ imageLengthOk e i = false) ∧
    (∃ (s : State) (e : Sqe) (i : FwImage), Running e s ∧ s.quenched = false ∧ s.fwRuns = true ∧ imageLengthOk e i = true ∧ i.formOk = true ∧ bitOf i.grades s.grade = true ∧ i.esOnly = false ∧ ((∀ k, k < 4 → s.slotDigest k ≠ i.keyDigest))) ∧
    (∃ (s : State) (e : Sqe) (i : FwImage), Running e s ∧ s.quenched = false ∧ s.fwRuns = true ∧ imageLengthOk e i = true ∧ i.formOk = true ∧ bitOf i.grades s.grade = false) ∧
    (∃ (s : State) (e : Sqe) (i : FwImage) (k : Nat), Running e s ∧ s.quenched = false ∧ s.fwRuns = true ∧ imageLengthOk e i = true ∧ i.formOk = true ∧ bitOf i.grades s.grade = true ∧ i.esOnly = false ∧ k < 4 ∧ s.slotUsable k = true ∧ s.slotDigest k = i.keyDigest ∧ i.sigOk = true ∧ i.bodyOk = true ∧ i.secVersion < s.rollback) ∧
    (∃ (s : State) (e : Sqe), Running e s) :=
  ⟨⟨(rg (sqi 0x2C0 65536 []) nofw), (sqi 0x2C0 65536 []), im, runs_ok (by decide +kernel), by decide +kernel⟩,
    ⟨(rg (sqi 0x2C0 65536 []) fw), (sqi 0x2C0 65536 []), runs_ok (by decide +kernel), by decide +kernel⟩,
    ⟨(rg (sqi 0x2C0 65536 []) (upR [(devStatusStackFault, 1)])), (sqi 0x2C0 65536 []), runs_ok (by decide +kernel), by decide +kernel⟩,
    ⟨(rg (sqi 0x2C0 65536 []) (upR [(fzStatusBootFault, 1)])), (sqi 0x2C0 65536 []), runs_ok (by decide +kernel), by decide +kernel⟩,
    ⟨(rg (sqi 0x2C1 65536 []) fwk), (sqi 0x2C1 65536 []), im, runs_ok (by decide +kernel), by decide +kernel⟩,
    ⟨(rg (sqi 0x2C1 65536 []) up), (sqi 0x2C1 65536 []), runs_ok (by decide +kernel), by decide +kernel⟩,
    ⟨(rg (sqi 0x2C1 65535 []) fw), (sqi 0x2C1 65535 []), im, runs_ok (by decide +kernel), by decide +kernel⟩,
    ⟨(rg (sqi 0x2C1 65536 []) fw), (sqi 0x2C1 65536 []), { im with keyDigest := 9 }, runs_ok (by decide +kernel), by decide +kernel⟩,
    ⟨(rg (sqi 0x2C1 65536 []) fw), (sqi 0x2C1 65536 []), { im with grades := 2 }, runs_ok (by decide +kernel), by decide +kernel⟩,
    ⟨(rg (sqi 0x2C1 65536 []) (fwk.setFs [(fzRollbackValue, 1)])), (sqi 0x2C1 65536 []), im, 0, runs_ok (by decide +kernel), by decide +kernel⟩,
    ⟨(rg (sq 0x2C2 []) up), (sq 0x2C2 []), runs_ok (by decide +kernel)⟩⟩

theorem test_witness_FusesAndAttestationRead :
    (∃ (s : State) (e : Sqe), Running e s ∧ e.par 48 8 % 16 = 0 ∧ 312 ≤ e.par 56 4 ∧ s.trust.identity = true) ∧
    (∃ (s : State) (e : Sqe), Running e s ∧ e.par 48 8 % 16 ≠ 0) ∧
    (∃ (s : State) (e : Sqe), Running e s ∧ e.par 48 8 % 16 = 0 ∧ e.par 56 4 < 312) ∧
    (∃ (s : State) (e : Sqe), Running e s ∧ e.par 48 8 % 16 = 0 ∧ 312 ≤ e.par 56 4 ∧ s.trust.identity = false) ∧
    (∃ (s : State) (e : Sqe), Running e s ∧ e.par 16 8 % 16 = 0 ∧ 212 ≤ e.par 24 4 ∧ s.trust.identity = true) ∧
    (∃ (s : State) (e : Sqe), Running e s ∧ e.par 16 8 % 16 = 0 ∧ 212 ≤ e.par 24 4 ∧ s.trust.identity = false) ∧
    (∃ (s : State) (e : Sqe), Running e s ∧ e.par 16 1 ≤ 7 ∧ e.par 24 8 % 16 = 0 ∧ e.par 16 1 ≠ 3 ∧ s.readLocked (e.par 16 1) = false ∧ e.par 20 2 + e.par 22 2 ≤ regionLen (e.par 16 1)) ∧
    (∃ (s : State) (e : Sqe), Running e s ∧ e.par 16 1 = 3 ∧ e.par 24 8 % 16 = 0) ∧
    (∃ (s : State) (e : Sqe), Running e s ∧ e.par 16 1 ≤ 7 ∧ e.par 24 8 % 16 = 0 ∧ s.readLocked (e.par 16 1) = true) ∧
    (∃ (s : State) (e : Sqe), Running e s ∧ 7 < e.par 16 1) ∧
    (∃ (s : State) (e : Sqe) (r : Resense), Running e s ∧ s.macroBusy e = false ∧ s.differNow r = [] ∧ ((∀ w ∈ s.marginalNow r, s.marginalWord w = true))) ∧
    (∃ (s : State) (e : Sqe), s.macroBusy e = true) ∧
    (∃ (w : Nat), w < 2048) ∧
    (∃ (s : State) (r : Resense), s.f fzResensePeriod ≠ 0 ∧ s.trust.job = none ∧ s.differNow r ≠ []) ∧
    (∃ (s : State), s.f fzResensePeriod = 0) :=
  ⟨⟨(rg (sq 0x2C4 [(48, 16), (56, 312)]) (tr (fun t => { t with identity := true }) up)), (sq 0x2C4 [(48, 16), (56, 312)]), runs_ok (by decide +kernel), by decide +kernel⟩,
    ⟨(rg (sq 0x2C4 [(48, 1)]) up), (sq 0x2C4 [(48, 1)]), runs_ok (by decide +kernel), by decide +kernel⟩,
    ⟨(rg (sq 0x2C4 [(48, 16), (56, 311)]) up), (sq 0x2C4 [(48, 16), (56, 311)]), runs_ok (by decide +kernel), by decide +kernel⟩,
    ⟨(rg (sq 0x2C4 [(48, 16), (56, 312)]) up), (sq 0x2C4 [(48, 16), (56, 312)]), runs_ok (by decide +kernel), by decide +kernel⟩,
    ⟨(rg (sq 0x2C5 [(16, 16), (24, 212)]) (tr (fun t => { t with identity := true }) up)), (sq 0x2C5 [(16, 16), (24, 212)]), runs_ok (by decide +kernel), by decide +kernel⟩,
    ⟨(rg (sq 0x2C5 [(16, 16), (24, 212)]) up), (sq 0x2C5 [(16, 16), (24, 212)]), runs_ok (by decide +kernel), by decide +kernel⟩,
    ⟨(rg (sq 0x2C8 [(16, 7), (20, 7), (22, 1), (24, 16)]) up), (sq 0x2C8 [(16, 7), (20, 7), (22, 1), (24, 16)]), runs_ok (by decide +kernel), by decide +kernel⟩,
    ⟨(rg (sq 0x2C8 [(16, 3), (24, 16)]) up), (sq 0x2C8 [(16, 3), (24, 16)]), runs_ok (by decide +kernel), by decide +kernel⟩,
    ⟨(rg (sq 0x2C8 [(16, 7), (24, 16)]) (tr (fun t => { t with latchedLocks := 2 ^ 15 }) up)), (sq 0x2C8 [(16, 7), (24, 16)]), runs_ok (by decide +kernel), by decide +kernel⟩,
    ⟨(rg (sq 0x2C8 [(16, 8)]) up), (sq 0x2C8 [(16, 8)]), runs_ok (by decide +kernel), by decide +kernel⟩,
    ⟨(rg (sq 0x2CB []) { up with fuses := { up.fuses with words := [], weak := [] }, trust := { up.trust with latched := [] } }), (sq 0x2CB []), ⟨[], []⟩, runs_ok (by decide +kernel), by decide +kernel⟩,
    ⟨(tr (fun t => { t with job := some (⟨0, 8, 2047, 1⟩ : FuseJob) }) up), (sq 0x2CB []), by decide +kernel⟩,
    ⟨2047, by decide +kernel⟩,
    ⟨(upR [(fzResensePeriod, 1)]), ⟨[], [5]⟩, by decide +kernel⟩,
    ⟨(upR [(fzResensePeriod, 0)]), by decide +kernel⟩⟩

theorem test_witness_FuseCommandsBlowWhatTheyName :
    (∃ (s : State) (e : Sqe) (b : List Byte) (r first n : Nat), Running e s ∧ s.macroBusy e = false ∧ s.trust.job = none ∧ e.indirect = true ∧ r = bufNat b 0 1 ∧ first = bufNat b 2 2 ∧ n = bufNat b 4 2 ∧ 1 ≤ n ∧ n ≤ 256 ∧ bufNat b 1 1 = 0 ∧ bufNat b 6 2 = 0 ∧ b.length = 8 + 4 * n ∧ e.paramLen = 8 + 4 * n ∧ first + n ≤ regionLen r ∧ ((r = 5 ∨ r = 6)) ∧ s.writeLocked r = false) ∧
    (∃ (s : State) (e : Sqe) (b : List Byte), Running e s ∧ s.macroBusy e = false ∧ s.trust.job = none ∧ e.indirect = true ∧ bufNat b 0 1 < 5 ∧ 1 ≤ bufNat b 4 2 ∧ bufNat b 4 2 ≤ 256 ∧ bufNat b 1 1 = 0 ∧ bufNat b 6 2 = 0 ∧ b.length = 8 + 4 * bufNat b 4 2 ∧ e.paramLen = 8 + 4 * bufNat b 4 2 ∧ bufNat b 2 2 + bufNat b 4 2 ≤ regionLen (bufNat b 0 1)) ∧
    (∃ (s : State) (e : Sqe) (b : List Byte) (r : Nat), Running e s ∧ s.macroBusy e = false ∧ s.trust.job = none ∧ e.indirect = true ∧ r = bufNat b 0 1 ∧ ((r = 5 ∨ r = 6)) ∧ 1 ≤ bufNat b 4 2 ∧ bufNat b 4 2 ≤ 256 ∧ bufNat b 1 1 = 0 ∧ bufNat b 6 2 = 0 ∧ b.length = 8 + 4 * bufNat b 4 2 ∧ e.paramLen = 8 + 4 * bufNat b 4 2 ∧ bufNat b 2 2 + bufNat b 4 2 ≤ regionLen r ∧ s.writeLocked r = true) ∧
    (∃ (s : State) (e : Sqe) (r bits : Nat), Running e s ∧ s.macroBusy e = false ∧ s.trust.job = none ∧ r = e.par 16 1 ∧ ((r = 5 ∨ r = 6)) ∧ bits = b2n (e.bit 17 0) * 2 ^ (2 * r) + b2n (e.bit 17 1) * 2 ^ (2 * r + 1)) ∧
    (∃ (s : State) (e : Sqe), Running e s ∧ s.macroBusy e = false ∧ s.trust.job = none ∧ e.par 16 1 < 5) ∧
    (∃ (s : State) (e : Sqe), Running e s ∧ s.macroBusy e = false ∧ s.trust.job = none ∧ ((e.par 16 1 = 5 ∨ e.par 16 1 = 6))) ∧
    (∃ (s : State) (e : Sqe) (k : Nat), Running e s ∧ s.macroBusy e = false ∧ s.trust.job = none ∧ k = e.par 16 1 ∧ k ≤ 3 ∧ s.revokeForbidden k = false) ∧
    (∃ (s : State) (e : Sqe), Running e s ∧ s.macroBusy e = false ∧ s.trust.job = none ∧ e.par 16 1 ≤ 3 ∧ s.revokeForbidden (e.par 16 1) = true) ∧
    (∃ (s : State) (e : Sqe) (i : FwImage) (v : Nat), Running e s ∧ s.macroBusy e = false ∧ s.trust.job = none ∧ v = e.par 16 2 ∧ s.rollback < v ∧ v ≤ 256 ∧ s.runningImage = some i ∧ v ≤ i.secVersion ∧ s.writeLocked 4 = false) ∧
    (∃ (s : State) (e : Sqe), Running e s ∧ s.macroBusy e = false ∧ s.trust.job = none ∧ e.par 16 2 = s.rollback ∧ e.par 16 2 ≤ 256) ∧
    (∃ (s : State) (e : Sqe), Running e s ∧ s.macroBusy e = false ∧ s.trust.job = none ∧ e.par 16 2 < s.rollback) ∧
    (∃ (s : State) (e : Sqe) (i : FwImage), Running e s ∧ s.macroBusy e = false ∧ s.trust.job = none ∧ s.rollback < e.par 16 2 ∧ e.par 16 2 ≤ 256 ∧ s.runningImage = some i ∧ i.secVersion < e.par 16 2) ∧
    (∃ (s : State) (e : Sqe), s.macroBusy e = true) ∧
    (∃ (s : State) (j : FuseJob), s.trust.job = some j ∧ j.word < 2048) ∧
    (∃ (s : State), s.trust.job = none) :=
  ⟨⟨(rg (sqi 0x2C9 12 []) up), (sqi 0x2C9 12 []), (fb 6 343 1), 6, 343, 1, runs_ok (by decide +kernel), by decide +kernel⟩,
    ⟨(rg (sqi 0x2C9 12 []) up), (sqi 0x2C9 12 []), (fb 4 7 1), runs_ok (by decide +kernel), by decide +kernel⟩,
    ⟨(rg (sqi 0x2C9 12 []) (tr (fun t => { t with bootLocks := 2 ^ 12 }) up)), (sqi 0x2C9 12 []), (fb 6 343 1), 6, runs_ok (by decide +kernel), by decide +kernel⟩,
    ⟨(rg (sq 0x2CA [(16, 6), (17, 3)]) up), (sq 0x2CA [(16, 6), (17, 3)]), 6, (2 ^ 12 + 2 ^ 13), runs_ok (by decide +kernel), by decide +kernel⟩,
    ⟨(rg (sq 0x2CA [(16, 4)]) up), (sq 0x2CA [(16, 4)]), runs_ok (by decide +kernel), by decide +kernel⟩,
    ⟨(rg (sq 0x2CA [(16, 6)]) up), (sq 0x2CA [(16, 6)]), runs_ok (by decide +kernel), by decide +kernel⟩,
    ⟨(rg (sq 0x2CC [(16, 3)]) up), (sq 0x2CC [(16, 3)]), 3, runs_ok (by decide +kernel), by decide +kernel⟩,
    ⟨(rg (sq 0x2CC [(16, 0)]) fwk), (sq 0x2CC [(16, 0)]), runs_ok (by decide +kernel), by decide +kernel⟩,
    ⟨(rg (sq 0x2C3 [(16, 256)]) (tr (fun t => { t with running := some { im with secVersion := 256 } }) fwk)), (sq 0x2C3 [(16, 256)]), { im with secVersion := 256 }, 256, runs_ok (by decide +kernel), by decide +kernel⟩,
    ⟨(rg (sq 0x2C3 [(16, 255)]) (upR [(fzRollbackValue, 255)])), (sq 0x2C3 [(16, 255)]), runs_ok (by decide +kernel), by decide +kernel⟩,
    ⟨(rg (sq 0x2C3 []) (upR [(fzRollbackValue, 1)])), (sq 0x2C3 []), runs_ok (by decide +kernel), by decide +kernel⟩,
    ⟨(rg (sq 0x2C3 [(16, 256)]) fwk), (sq 0x2C3 [(16, 256)]), im, runs_ok (by decide +kernel), by decide +kernel⟩,
    ⟨(tr (fun t => { t with job := some (⟨0, 8, 2047, 1⟩ : FuseJob) }) up), (sq 0x2C9 []), by decide +kernel⟩,
    ⟨(tr (fun t => { t with job := some (⟨0, 7, 2047, 1⟩ : FuseJob) }) up), (⟨0, 7, 2047, 1⟩ : FuseJob), by decide +kernel⟩,
    ⟨up, by decide +kernel⟩⟩

theorem test_witness_MailboxAnswersTheFirmware :
    (∃ (s : State), s.fwRuns = true) ∧
    (∃ (s : State) (r first n : Nat), r ≤ 7 ∧ r ≠ 3 ∧ s.readLocked r = false ∧ first + n ≤ regionLen r) ∧
    (∃ (s : State) (r : Nat), s.readLocked r = true) ∧
    (∃ (r first n : Nat), (7 < r ∨ regionLen r < first + n)) ∧
    (∃ (code unit : Nat), 0x40 ≤ code ∧ code ≤ 0xFF ∧ unit < 256) ∧
    (∃ (code : Nat) (sv : Bool), (sv = false ∨ code < 0x40 ∨ 0xFF < code)) :=
  ⟨⟨fw, by decide +kernel⟩,
    ⟨up, 7, 7, 1, by decide +kernel⟩,
    ⟨(tr (fun t => { t with latchedLocks := 2 ^ 15 }) up), 7, by decide +kernel⟩,
    ⟨6, (regionLen 6), 1, by decide +kernel⟩,
    ⟨255, 255, by decide +kernel⟩,
    ⟨256, true, by decide +kernel⟩⟩

theorem test_witness_SidebandTransfersAnswer :
    (∃ (s : State), s.sbAnswers = true) ∧
    (∃ (s : State), s.sbAnswers = true ∧ s.safeHold = false) ∧
    (∃ (s : State), s.sbAnswers = true ∧ s.safeHold = false) ∧
    (∃ (s : State), s.safeHold = true) ∧
    (∃ (s : State), s.safeHold = true) ∧
    (∃ (s : State), s.sbAnswers = true) ∧
    (∃ (s : State), s.sbAnswers = true) ∧
    (∃ (s : State), s.sbAnswers = true) ∧
    (∃ (s : State), s.sbAnswers = true) ∧
    (∃ (s : State), s.sbAnswers = true) ∧
    (∃ (s : State), s.sbAnswers = true) ∧
    (∃ (s : State), s.sbAnswers = true) ∧
    (∃ (s : State), s.sbAnswers = false) ∧
    (∃ (s : State) (es : List LogEntry) (a z : LogEntry), s.sbAnswers = true ∧ es = (s.log.reverse.filter (fun n => decide (s.f sbErrlogPtr ≤ n.seq))).take 7 ∧ es.head? = some a ∧ es.getLast? = some z) ∧
    (∃ (s : State), s.sbAnswers = true) ∧
    (∃ (s : State), s.sbAnswers = true ∧ s.alertAsserted = true) ∧
    (∃ (s : State), s.alertAsserted = false) ∧
    (∃ (s : State) (d : List Byte), s.sbAnswers = true ∧ d.length = 4 ∧ s.on sbCfgPecRequired = false) ∧
    (∃ (s : State) (d : List Byte) (c : Byte), s.sbAnswers = true ∧ d.length = 4 ∧ c.toNat = crc8 (s.sbWriteAddr :: 0x20 :: d)) ∧
    (∃ (s : State) (w : SbWrite), s.sbAnswers = true ∧ w.bytes.length < 4) ∧
    (∃ (s : State) (w : SbWrite), s.sbAnswers = true ∧ 5 < w.bytes.length) ∧
    (∃ (s : State) (d : List Byte) (c : Byte), s.sbAnswers = true ∧ d.length = 4 ∧ c.toNat ≠ crc8 (s.sbWriteAddr :: 0x20 :: d)) ∧
    (∃ (s : State) (w : SbWrite), s.sbAnswers = true ∧ w.bytes.length = 4 ∧ s.on sbCfgPecRequired = true) ∧
    (∃ (s : State) (w : SbWrite), s.sbAnswers = true ∧ s.sbWriteOk 0x30 w 1 = true ∧ sbValue w 1 = 1 ∧ s.halted = false ∧ s.pilot.phase = .running) ∧
    (∃ (s : State) (w : SbWrite), s.sbAnswers = true ∧ s.sbWriteOk 0x30 w 1 = true ∧ sbValue w 1 = 1 ∧ s.halted = false ∧ s.pilot.phase = .running ∧ s.quenched = true) ∧
    (∃ (s : State) (w : SbWrite), s.sbAnswers = true ∧ s.sbWriteOk 0x30 w 1 = true ∧ sbValue w 1 = 0 ∧ s.halted = false ∧ s.pilot.phase = .running ∧ s.quenched = true ∧ clearBit (s.f thStatusSources) 3 ≠ 0) ∧
    (∃ (s : State) (w : SbWrite), s.sbAnswers = true ∧ s.sbWriteOk 0x30 w 1 = true ∧ sbValue w 1 = 0 ∧ s.halted = false ∧ s.pilot.phase = .running ∧ s.quenched = true ∧ clearBit (s.f thStatusSources) 3 = 0) ∧
    (∃ (s : State) (w : SbWrite), s.sbAnswers = true ∧ s.sbWriteOk 0x30 w 1 = true ∧ 1 < sbValue w 1) ∧
    (∃ (s : State) (w : SbWrite), s.sbAnswers = true ∧ s.sbWriteOk 0x30 w 1 = true ∧ sbValue w 1 ≤ 1 ∧ s.safeHold = true) ∧
    (∃ (s : State), s.sbAnswers = true) ∧
    (∃ (s : State), s.sbAnswers = true) :=
  ⟨⟨up, by decide +kernel⟩,
    ⟨up, by decide +kernel⟩,
    ⟨up, by decide +kernel⟩,
    ⟨held, by decide +kernel⟩,
    ⟨held, by decide +kernel⟩,
    ⟨up, by decide +kernel⟩,
    ⟨up, by decide +kernel⟩,
    ⟨up, by decide +kernel⟩,
    ⟨up, by decide +kernel⟩,
    ⟨up, by decide +kernel⟩,
    ⟨up, by decide +kernel⟩,
    ⟨up, by decide +kernel⟩,
    ⟨z, by decide +kernel⟩,
    ⟨{ up with log := [en 2, en 1] }, [en 1, en 2], (en 1), (en 2), by decide +kernel⟩,
    ⟨up, by decide +kernel⟩,
    ⟨(upR [(elStatusAlertPend, 1)]), by decide +kernel⟩,
    ⟨up, by decide +kernel⟩,
    ⟨up, (le 4 5), by decide +kernel⟩,
    ⟨up, (le 4 5), (BitVec.ofNat 8 (crc8 (up.sbWriteAddr :: 0x20 :: le 4 5))), by decide +kernel⟩,
    ⟨up, (sw 3 5), by decide +kernel⟩,
    ⟨up, (sw 6 5), by decide +kernel⟩,
    ⟨up, (le 4 5), (BitVec.ofNat 8 (crc8 (up.sbWriteAddr :: 0x20 :: le 4 5) + 1)), by decide +kernel⟩,
    ⟨(upR [(sbCfgPecRequired, 1)]), (sw 4 5), by decide +kernel⟩,
    ⟨up, (sw 1 1), by decide +kernel⟩,
    ⟨quen, (sw 1 1), by decide +kernel⟩,
    ⟨(upR [(thStatusQuenched, 1), (thStatusSources, 9)]), (sw 1 0), by decide +kernel⟩,
    ⟨(upR [(thStatusQuenched, 1), (thStatusSources, 8)]), (sw 1 0), by decide +kernel⟩,
    ⟨up, (sw 1 2), by decide +kernel⟩,
    ⟨held, (sw 1 1), by decide +kernel⟩,
    ⟨up, by decide +kernel⟩,
    ⟨up, by decide +kernel⟩⟩

theorem test_witness_SidebandBusRecoversAndNotifies :
    (∃ (s : State), s.on sbStatusCtlEn = true) ∧
    (∃ (s : State), s.on sbStatusCtlEn = false) ∧
    (∃ (s : State), s.on sbStatusCtlEn = true ∧ s.sideband.clearTries < 10) ∧
    (∃ (s : State), s.on sbStatusCtlEn = true ∧ s.sideband.clearTries < 9) ∧
    (∃ (s : State), s.on sbStatusCtlEn = true ∧ s.sideband.clearTries = 9) ∧
    (∃ (s : State), s.on sbStatusCtlEn = false) ∧
    (∃ (s : State), s.sbController = true ∧ s.on sbHnCfgEn = true ∧ s.sbAnswers = true ∧ s.sideband.notifying = false ∧ s.notifyDue = true) ∧
    (∃ (s : State), s.notifyDue = false) ∧
    (∃ (s : State), s.sbController = true ∧ s.on sbHnCfgEn = true ∧ s.sbAnswers = true ∧ s.sideband.notifying = false ∧ s.notifyDue = true ∧ s.sideband.failures = 0) ∧
    (∃ (s : State), s.sbController = true ∧ s.sbAnswers = true ∧ s.sideband.notifying = true ∧ s.sideband.failures = 3) ∧
    (∃ (s : State), s.sbController = true ∧ s.sbAnswers = true ∧ s.sideband.notifying = true ∧ 1 ≤ s.sideband.failures) ∧
    (∃ (s : State), s.sideband.eepromRetry = false ∧ s.sideband.notifying = true ∧ 1 ≤ s.sideband.arbRetries ∧ s.sideband.arbRetries < 3) ∧
    (∃ (s : State), s.sideband.eepromRetry = false ∧ s.sideband.notifying = true ∧ 1 ≤ s.sideband.arbRetries) :=
  ⟨⟨ctl, by decide +kernel⟩,
    ⟨up, by decide +kernel⟩,
    ⟨(sb (fun b => { b with clearTries := 9 }) ctl), by decide +kernel⟩,
    ⟨(sb (fun b => { b with clearTries := 8 }) ctl), by decide +kernel⟩,
    ⟨(sb (fun b => { b with clearTries := 9 }) ctl), by decide +kernel⟩,
    ⟨up, by decide +kernel⟩,
    ⟨(sb (fun b => { b with lastLow := 1 }) ctl), by decide +kernel⟩,
    ⟨up, by decide +kernel⟩,
    ⟨(sb (fun b => { b with lastLow := 1 }) ctl), by decide +kernel⟩,
    ⟨(sb (fun b => { b with notifying := true, failures := 3 }) ctl), by decide +kernel⟩,
    ⟨(sb (fun b => { b with notifying := true, failures := 1 }) ctl), by decide +kernel⟩,
    ⟨(sb (fun b => { b with notifying := true, arbRetries := 2 }) ctl), by decide +kernel⟩,
    ⟨(sb (fun b => { b with notifying := true, arbRetries := 2 }) ctl), by decide +kernel⟩⟩

theorem test_witness_EepromContentsApplyAsOneSet :
    (∃ (s : State), s.sbController = true ∧ s.sideband.eepromWanted = true ∧ s.sideband.eepromRetry = false) ∧
    (∃ (s : State), s.sideband.eepromWanted = false) ∧
    (∃ (s : State), s.sbController = true ∧ s.sideband.eepromWanted = true ∧ s.sideband.eepromRetry = false) ∧
    (∃ (s : State), s.sideband.eepromBusy = true) ∧
    (∃ (s : State) (b : List Byte), s.sideband.eepromBusy = true ∧ bufNat b 0 4 ≠ 0x42534C4F) ∧
    (∃ (s : State) (b : List Byte), s.sideband.eepromBusy = true ∧ bufNat b 0 4 = 0x42534C4F ∧ bufNat b 4 1 = 1 ∧ bufNat b 6 1 < 8 ∧ bufNat b 14 14 = 0 ∧ crc32 (b.take 28) ≠ bufNat b 28 4) ∧
    (∃ (s : State) (b : List Byte), s.sideband.eepromBusy = true ∧ bufNat b 0 4 = 0x42534C4F ∧ bufNat b 4 1 = 1 ∧ bufNat b 6 1 < 8 ∧ bufNat b 14 14 = 0 ∧ crc32 (b.take 28) = bufNat b 28 4 ∧ bufNat b 5 1 ≤ 2 ∧ 0x08 ≤ bufNat b 7 1 ∧ bufNat b 7 1 ≤ 0x77 ∧ bufNat b 12 2 ≠ 0 ∧ s.eepromWarnOk true (bufNat b 8 2) = true ∧ s.eepromWarnOk false (bufNat b 10 2) = true) :=
  ⟨⟨(sb (fun b => { b with eepromWanted := true }) ctl), by decide +kernel⟩,
    ⟨up, by decide +kernel⟩,
    ⟨(sb (fun b => { b with eepromWanted := true }) ctl), by decide +kernel⟩,
    ⟨(sb (fun b => { b with eepromBusy := true }) ctl), by decide +kernel⟩,
    ⟨(sb (fun b => { b with eepromBusy := true }) ctl), (le 32 0), by decide +kernel⟩,
    ⟨(sb (fun b => { b with eepromBusy := true }) ctl), ((eeprom 2).take 28 ++ le 4 0), by decide +kernel⟩,
    ⟨(sb (fun b => { b with eepromBusy := true }) ctl), (eeprom 2), by decide +kernel⟩⟩

theorem test_witness_KeyRevokeBlowsItsSlot :
    (∃ (s : State) (e : Sqe) (k : Nat), Running e s ∧ s.macroBusy e = false ∧ s.trust.job = none ∧ k = e.par 16 1 ∧ k ≤ 3 ∧ ((∀ i, s.runningImage = some i → s.slotDigest k = i.keyDigest → ∃ j, j < 4 ∧ j ≠ k ∧ s.slotUsable j = true ∧ s.slotDigest j = s.slotDigest k))) ∧
    (∃ (s : State) (e : Sqe) (k : Nat) (i : FwImage), Running e s ∧ s.macroBusy e = false ∧ s.trust.job = none ∧ k = e.par 16 1 ∧ k ≤ 3 ∧ s.runningImage = some i ∧ s.slotDigest k = i.keyDigest ∧ ((∀ j, j < 4 → j ≠ k → s.slotUsable j = true → s.slotDigest j ≠ s.slotDigest k))) :=
  ⟨⟨(rg (sq 0x2CC [(16, 3)]) up), (sq 0x2CC [(16, 3)]), 3, runs_ok (by decide +kernel), by decide +kernel, by decide +kernel, by decide +kernel, by decide +kernel, by intro i h; exact absurd (show (none : Option FwImage) = some i from h) (by simp)⟩,
    ⟨(rg (sq 0x2CC [(16, 0)]) fwk), (sq 0x2CC [(16, 0)]), 0, im, runs_ok (by decide +kernel), by decide +kernel, by decide +kernel, by decide +kernel, by decide +kernel, by decide +kernel, by decide +kernel, by intro j hj hk hu; exfalso; revert j; decide +kernel⟩⟩

theorem test_witness_StepTakesTheFrontCommand :
    (∃ (s : State) (c : Instr) (rest : List Instr), s.pending = c :: rest) ∧
    (∃ (s : State), s.pending = [] ∧ s.pilot.phase ≠ .off) ∧
    (∃ (s : State), s.pending = [] ∧ s.pilot.phase = .off) ∧
    (∃ (s t : State) (c : Instr), exec c s = .next t) ∧
    (∃ (s t : State) (c : Instr) (rest : List Instr), s.pending = c :: rest ∧ step s = .next t) :=
  ⟨⟨{ z with pending := [.vddAoFall] }, .vddAoFall, [], by decide +kernel⟩,
    ⟨z, by decide +kernel⟩,
    ⟨(ph .off), by decide +kernel⟩,
    ⟨z, z, .railCheckRetry, rfl⟩,
    ⟨{ z with pending := [.railCheckRetry] }, z, .railCheckRetry, [], rfl, rfl⟩⟩

theorem test_witness_EveryCommandKeepsItsFrame :
    (∃ (c : Instr) (s t : State), exec c s = .next t) ∧
    (∃ (c : Instr) (ks : List Fld), touchedRegs c = some ks) :=
  ⟨⟨.railCheckRetry, z, z, rfl⟩,
    ⟨.ringEnable 0, _, rfl⟩⟩

theorem test_witness_SafeHoldStopsTheRings :
    (∃ (c : Instr) (e : Sqe) (s : State), ringEntry c = some e ∧ s.halted = true) ∧
    (∃ (s : State), s.halted = true) ∧
    (∃ (s : State), s.halted = true) ∧
    (∃ (c : Instr) (s t : State), exec c s = .next t ∧ s.safeHold = true ∧ t.safeHold = false) :=
  ⟨⟨(.nop (sq 0x110 [])), (sq 0x110 []), held, rfl, by decide +kernel⟩,
    ⟨held, by decide +kernel⟩,
    ⟨held, by decide +kernel⟩,
    ⟨.vddAoFall, held, (after .vddAoFall held), rfl, by decide +kernel, by decide +kernel⟩⟩

theorem test_witness_StepsNeverUnblowFuses :
    (∃ (s t : State), step s = .next t) :=
  ⟨{ z with pending := [.railCheckRetry] }, z, rfl⟩

theorem test_witness_StepsKeepTheInvariant :
    (∃ (s t : State), s.Inv ∧ step s = .next t) :=
  ⟨{ z with pending := [.railCheckRetry] }, z, ⟨by decide +kernel, by decide +kernel⟩, rfl⟩

theorem test_witness_ErrorLogNeverOverflows :
    (∃ (s t : State), s.log.length ≤ 1024 ∧ step s = .next t) :=
  ⟨{ z with pending := [.railCheckRetry] }, z, by decide +kernel, rfl⟩

/-! ## Worked examples of the spec -/

/-- R209: the CRC-16 over the nine ASCII bytes "123456789". -/
theorem test_crc16_check_value : crc16 ([0x31, 0x32, 0x33, 0x34, 0x35, 0x36, 0x37, 0x38, 0x39] : List Byte) = 0x29B1 := by
  decide +kernel

/-- Chapter 7, *A jumbo packet behind a small one*: packet A of 1 500 B and packet B of 9 000 B, whose bytes do not matter here. -/
def pkA : Packet := ⟨3, 2, 0, 0, 1000000, List.replicate 1500 0, 0⟩
def pkB : Packet := ⟨3, 2, 0, 0, 1008000, List.replicate 9000 0, 1516⟩
def withA : Queue := { queueCold 0 with configured := true, enabled := true, limit := 65536, packets := [pkA], tail := 1516, nextSeq := 1 }
def withAB : Queue := { withA with packets := [pkA, pkB], tail := 10532, nextSeq := 2 }

theorem test_enq_a_opens_one_block : (qu).opens 1500 = 1 := by decide +kernel
theorem test_enq_b_opens_five_blocks : withA.opens 9000 = 5 := by decide +kernel
theorem test_queue_holds_six_blocks : withAB.blocks = 6 ∧ withAB.count = 2 := by decide +kernel
/-- A packet of 100 B at tick 1 000 000 in an empty queue: SEQ, BYTES and BLOCKS, and the reply of R255. -/
theorem test_enq_commits :
    let r := { rq 0x01 3 1 0 4711 100 (List.replicate 100 0) with tick := 1000000 }
    let s := after (.enq r) (adm r ((hot.setFs [(qmPoolLimit, 2 ^ 30)]).setQueue 4711 qu0))
    (s.queue 4711).nextSeq = 1 ∧ (s.queue 4711).bytes = 100 ∧ (s.queue 4711).tail = 116 ∧
      (s.port 0).egress.map (fun y => (y.opcode, y.status, y.payload)) = [(0x81, stOk, le 8 0 ++ le 8 100)] := by
  decide +kernel
/-- DEQ of two packets that the budget does not cover (R257, code 1 of R258: 1 024 B): DONE_PARTIAL and one packet; LEN_M1, SEQ and SOJOURN
in its descriptor. -/
def runAll (l : List (Req × (Req → Instr))) (s : State) : State := l.foldl (fun t x => after (x.2 x.1) (adm x.1 t)) s
theorem test_deq_stops_at_the_budget :
    let a := { rq 0x01 3 0 0 4711 150 (List.replicate 150 0) with tick := 1000000 }
    let b := { rq 0x01 3 0 0 4711 1000 (List.replicate 1000 0) with tick := 1008000 }
    let d := { rq 0x02 3 3 2 4711 0 [] with tick := 41008000 }
    let s := runAll [(a, .enq), (b, .enq), (d, .deq)] ((hot.setFs [(qmPoolLimit, 2 ^ 30)]).setQueue 4711 qu0)
    (s.queue 4711).count = 1 ∧
      (s.port 0).egress.map (fun y => (y.status, y.arg, y.payload.length, bufNat y.payload 0 2, bufNat y.payload 4 4)) =
        [(stDonePartial, 1, 166, 149, 40008000)] := by
  decide +kernel

/-- Chapter 9, *A flow table*: the reservation of 100 000 000 entries. -/
theorem test_exact_reservation :
    (newTable (sq 0x180 [(20, 16), (21, 8), (24, 100000000)]) .exact).reserved = 1967648 := by decide +kernel
/-- Chapter 9, *IPv6 routes in one instance*. -/
def v6 (inst : Nat) (a : List Byte) : List Byte := le 2 inst ++ a ++ List.replicate (16 - a.length) 0
def routes : Table :=
  { tab .prefixTable 128 0 with
    committed := { (tab .prefixTable 128 0).committed with
      entries := [⟨v6 3 [0x20, 0x01, 0x0d, 0xb8], 32, le 8 1⟩, ⟨v6 3 [0x20, 0x01, 0x0d, 0xb8, 0x00, 0x40], 42, le 8 2⟩,
        ⟨v6 3 [0x20, 0x01, 0x0d, 0xb8, 0x00, 0x4a, 0x7c], 56, le 8 3⟩] } }
def keyC : List Byte := [0x20, 0x01, 0x0d, 0xb8, 0x00, 0x4a, 0x7c, 0x12, 0, 0, 0, 0, 0, 0, 0, 1]
def keyB : List Byte := [0x20, 0x01, 0x0d, 0xb8, 0x00, 0x4b, 0, 0, 0, 0, 0, 0, 0, 0, 0, 5]
theorem test_prefix_lookup :
    [v6 3 keyC, v6 3 keyB, v6 4 keyC].map (routes.committed.find routes) = [some (le 8 3), some (le 8 2), none] := by
  decide +kernel

/-- Chapter 10, *Withdrawing a route at a marker*: the buffer of 32 B withdraws the /42. -/
theorem test_update_withdraws :
    let b : List Byte := le 4 7 ++ le 4 1 ++ [0x02, 0x2A, 0, 0, 3, 0, 0x20, 0x01, 0x0d, 0xb8, 0x00, 0x40] ++ le 12 0
    b.length = 32 ∧ routes.updateLen 1 (b.drop 8) = some 24 ∧
      (vOf (routes.openVersion.apply routes 7 (routes.record (b.drop 8)))).entries.map (·.plen) = [32, 56] := by
  decide +kernel

/-- Chapter 13, *A budget through a hot afternoon*: the set of the host, and the scale at F = 2 475 000 MB/s. -/
def plan : Map Budget := [(1, ⟨40000, 16, 2⟩), (2, ⟨600000, 0, 20⟩), (3, ⟨1800000, 128, 0⟩)]
theorem test_plan_rate_3_refuses :
    up.exceeded plan 3 0 = some (1, 2490000, 2400000) := by
  decide +kernel
theorem test_plan_rate_0_accepts : up.exceeded plan 0 0 = none := by decide +kernel
theorem test_scale_k : scaleK (2475000 * 32) 2490000 = 1017 ∧ scaleK (2493750 * 32) 2490000 = 1024 := by decide +kernel

/-- Chapter 4, *TIMESYNC discipline*: the edges at their filter outputs, 25 ns later. -/
def board : State :=
  let s := upR [(tbCtrlSrc, 2), (tbSyncPeriod, 4000000000), (tbSyncNext, 4000000000000), (tbCtrlStepEn, 1)]
  { s with time := { s.time with onOsc := false } }
theorem test_timesync_first_edge :
    let s := after (.timesyncEdge (3999999998720 + 100)) board
    ofTwos 64 (s.f tbStatusOffset) = 1280 ∧ ofTwos 32 (s.f tbRateCorr) = 40 := by
  decide +kernel
theorem test_timesync_second_edge :
    let s := after (.timesyncEdge (4003999998400 + 100)) (after (.timesyncEdge (3999999998720 + 100)) board)
    ofTwos 64 (s.f tbStatusOffset) = 1600 ∧ ofTwos 32 (s.f tbRateCorr) = 170 := by
  decide +kernel

/-- Chapter 12, *A bank that wears*: the error that would raise the bucket above 512 overflows it. -/
def worn : State :=
  igs (fun g => { g with buckets := [(37, ⟨512, 0, [], [(9, 609), (1, 4)]⟩)] })
theorem test_bucket_overflows :
    let s := after (.memoryReadReturn ⟨37, 9, 100, 5, .other⟩ 0x01) worn
    (s.bucket 37).count = 0 ∧ (s.bucket 37).overflows = 1 ∧ s.integrity.requested = [(37, 9)] ∧
      s.log.map (fun n => (n.pre, n.code)) = [(.ig, 0x04), (.ig, 0x01)] := by
  decide +kernel

/-- Chapter 20, *Two cards notify at once*: part A's four bytes. -/
theorem test_notification_bytes :
    ({ upR [(thStatusQuenched, 1), (thAlert, 4), (sbStatusAddr, 0x4C)] with
        sideband := { sidebandReset with newEntry := true, notifyNumber := 7 } } : State).notifyBytes = [0x98, 0x38, 0x07] := by
  decide +kernel

/-- Chapter 14, *A small ring that wraps*: the bytes of entry 2. -/
theorem test_ring_entry_bytes : (sq 0x143 [(16, 4711)]).params % 256 = 0x67 ∧ (sq 0x143 [(16, 4711)]).par 16 4 = 4711 := by
  decide +kernel
/-- The completion that fills the last slot takes index 3 and PHASE 1; the next one index 0 and PHASE 0. -/
theorem test_completion_wraps :
    let e := sq 0x100 []
    let s := upR [(hcRingSizeSq 0, 4), (hcRingSizeCq 0, 4), (hcRingCtrlEnable 0, 1), (hcCqTailIndex 0, 3), (hcCqTailPhase 0, 1)]
    let t := after (.devIdentify e) (rg e s)
    t.f (hcCqTailIndex 0) = 0 ∧ t.f (hcCqTailPhase 0) = 0 := by
  decide +kernel

/-- Chapter 6, *A lost codeword in a jumbo request*: CR_VC0 wraps at 4 096. -/
theorem test_return_counter_wraps :
    let r := { rq 0x01 3 1 0 4711 1500 (List.replicate 1500 0) with tick := 1000000 }
    ((after (.enq r) (adm r (pt (fun p => { p with ret0 := 4050 }) ((hot.setFs [(qmPoolLimit, 2 ^ 30)]).setQueue 4711 qu0)))).port 0).ret0 =
      49 := by
  decide +kernel

/-- R643: CRC-8 with polynomial 0x07 and initial value 0; 0xF4 is the check value that this CRC is known by. -/
theorem test_crc8_check_value : crc8 ([0x31, 0x32, 0x33, 0x34, 0x35, 0x36, 0x37, 0x38, 0x39] : List Byte) = 0xF4 := by
  decide +kernel
/-- R189: a codeword with 8 wrong symbols is corrected, one with 9 is not. -/
theorem test_rs_corrects_eight :
    rsDecode (List.replicate 8 1 ++ List.replicate 264 0) = some (List.replicate 272 0, List.range 8) ∧
      rsDecode brokenCw.symbols = none := by
  decide +kernel
/-- R192: the data of a resync codeword comes back from its symbols. -/
theorem test_rs_round_trip :
    (rsDecode (resync 5).symbols).map (fun w => resyncSeq (symbolBytes (w.1.take 256))) = some (some 5) := by
  decide +kernel

end Sys2Proof.Tests
end

section
/-!
Device time and register reads (R20, R88, R140 to R147, R154, R623): what a measurement, an accepted TIMESYNC edge and a pulse of a
source leave, each said once, and the two forms of a register read.
-/
namespace Sys2Proof.Machine

theorem fld_ne {o o' l l' : Nat} (h : o * 32 + l ≠ o' * 32 + l') : fld o l ≠ fld o' l' := h

/-! ### Event lines (R514, R515) -/

theorem State.line_pulseLine (s : State) (l m : Nat) (t : Tick) :
    (s.pulseLine m t).line l = if l = m then ⟨t, true, min ((s.line m).count + 1) (2 ^ 32 - 1)⟩ else s.line l :=
  Map.get_set _ _ _ _ _

/-- Line `l` has pulsed, and its newest pulse came at tick `t`. -/
def State.PulsedAt (s : State) (l : Nat) (t : Tick) : Prop := (s.line l).pulsed = true ∧ (s.line l).tick = t

theorem State.pulseLine_pulsedAt (s : State) (l : Nat) (t : Tick) : (s.pulseLine l t).PulsedAt l t := by
  simp [State.PulsedAt, State.line_pulseLine]

/-- A further pulse at the same tick, on whatever line, does not undo it. -/
theorem State.PulsedAt.pulseLine {s : State} {l : Nat} {t : Tick} (h : s.PulsedAt l t) (m : Nat) : (s.pulseLine m t).PulsedAt l t := by
  by_cases e : l = m
  · subst e
    exact State.pulseLine_pulsedAt s l t
  · simpa [State.PulsedAt, State.line_pulseLine, e] using h

theorem State.pulseSource_pulsedAt (s : State) {code l : Nat} (hl : l < 64) (hc : s.f (evSrcCode l) = code) :
    (s.pulseSource code).PulsedAt l s.now := by
  unfold State.pulseSource
  generalize 64 = n at hl ⊢
  induction n with
  | zero => omega
  | succ n ih =>
    rw [List.range_succ, List.foldl_append, List.foldl_cons, List.foldl_nil]
    by_cases e : l = n
    · subst e
      rw [if_pos hc]
      exact State.pulseLine_pulsedAt _ _ _
    · have h := ih (by omega)
      split
      · exact h.pulseLine n
      · exact h

/-! ### Measurements (R144, R145, R147) -/

theorem State.f_withTime (s : State) (x : TimeBase) (k : Fld) : ({ s with time := x } : State).f k = s.f k := rfl

/-- OFFSET and HOLDOVER after the fields that a measurement writes. -/
theorem State.f_setFs_measured {t : State} {offset corr slewing locked holdover : Nat} :
    let u := t.setFs [(tbStatusOffset, offset), (tbRateCorr, corr), (tbStatusSlewing, slewing), (tbStatusLocked, locked),
      (tbStatusHoldover, holdover)]
    u.f tbStatusOffset = offset ∧ u.f tbStatusHoldover = holdover := by
  simp [State.f_setF, tbStatusOffset, tbRateCorr, tbStatusSlewing, tbStatusLocked, tbStatusHoldover, fld]

section
variable (s : State) (target at' interval : Int)

/-- A measurement counts as the first of a pair off the oscillator only (R147); the PTM dialog and the capture of edges stay as they were. -/
@[simp] theorem State.measure_time :
    (s.measure target at' interval).time.measured = (!s.time.onOsc) ∧
      (s.measure target at' interval).time.ptmOpen = s.time.ptmOpen ∧
      (s.measure target at' interval).time.ptmFails = s.time.ptmFails ∧
      (s.measure target at' interval).time.synced = s.time.synced := by
  unfold State.measure
  dsimp only
  split <;> exact ⟨rfl, rfl, rfl, rfl⟩

/-- A counter that runs on the oscillator stays in holdover (R147). -/
@[simp] theorem State.measure_holdover : (s.measure target at' interval).f tbStatusHoldover = b2n s.time.onOsc := by
  unfold State.measure
  dsimp only
  split
  · rw [State.f_setF_other _ _ (by decide), State.f_withTime, State.f_withTime, State.f_setFs_measured.2]
  · rw [State.f_withTime, State.f_setFs_measured.2]

/-- OFFSET shows target minus device time, saturated (R155). -/
@[simp] theorem State.measure_offset :
    (s.measure target at' interval).f tbStatusOffset = toTwos 16 (max (-32767) (min 32767 (target - at'))) := by
  unfold State.measure
  dsimp only
  split
  · rw [State.f_setF_other _ _ (by decide), State.f_withTime, State.f_withTime, State.f_setFs_measured.1]
  · rw [State.f_withTime, State.f_setFs_measured.1]

end

/-! ### TIMESYNC (R141, R146, R147) -/

/-- What every accepted edge at device time `c` does: TB_SYNC_CAPT, the next expected time, and a pulse of the lines of source 0x402. -/
def State.takeEdge (s : State) (c : Nat) : State :=
  (({ s with time := { s.time with synced := true } }).setFs [(tbSyncCapt, c % 2 ^ 64),
    (tbSyncNext, (nearestExpected (s.f tbSyncNext) (s.f tbSyncPeriod) c + s.f tbSyncPeriod) % 2 ^ 64)]).pulseSource 0x402

theorem State.takeEdge_only (s : State) (c : Nat) : Only [.time, .regs, .lines, .pulses] s (s.takeEdge c) := by
  simp [State.takeEdge]

@[simp] theorem State.takeEdge_time (s : State) (c : Nat) : (s.takeEdge c).time = { s.time with synced := true } := by
  simp [State.takeEdge]

theorem State.takeEdge_capt (s : State) (c : Nat) : (s.takeEdge c).f tbSyncCapt = c % 2 ^ 64 := by
  rw [State.takeEdge, State.f_congr (State.pulseSource_keeps_regs _ _)]
  simp [State.f_setF, tbSyncCapt, tbSyncNext, fld]

theorem State.takeEdge_next (s : State) (c : Nat) :
    (s.takeEdge c).f tbSyncNext = (nearestExpected (s.f tbSyncNext) (s.f tbSyncPeriod) c + s.f tbSyncPeriod) % 2 ^ 64 := by
  rw [State.takeEdge, State.f_congr (State.pulseSource_keeps_regs _ _)]
  simp

theorem State.takeEdge_pulsedAt (s : State) (c : Nat) {l : Nat} (hl : l < 64) (hc : s.f (evSrcCode l) = 0x402) :
    (s.takeEdge c).PulsedAt l s.now := by
  refine State.pulseSource_pulsedAt _ hl ?_
  have hcapt : evSrcCode l ≠ tbSyncCapt := fld_ne (by omega)
  have hnext : evSrcCode l ≠ tbSyncNext := fld_ne (by omega)
  rw [State.f_setFs_other _ _ (by simp [hcapt, hnext])]
  exact hc

/-- An edge is accepted while the input is not stuck, at least MIN_INTERVAL after the one before (R146). -/
theorem execTimesyncEdge_accepted {s : State} {tick : Tick} (hs : s.f tbStatusTimesyncStuck ≠ 1)
    (h : s.time.synced = false ∨ s.f tbSyncCapt + max 1 (s.f tbSyncCfgMinInterval) * 4000000 ≤ tick - 100) :
    execTimesyncEdge tick s = .next (if s.f tbCtrlSrc = 2 then
      (s.takeEdge (tick - 100)).measure (nearestExpected (s.f tbSyncNext) (s.f tbSyncPeriod) (tick - 100)) (tick - 100 : Nat)
        (s.f tbSyncPeriod)
      else s.takeEdge (tick - 100)) := by
  have hstuck : s.on tbStatusTimesyncStuck = false := by simpa [State.on] using hs
  have hsoon : (s.time.synced && decide (tick - 100 < s.f tbSyncCapt + max 1 (s.f tbSyncCfgMinInterval) * 4000000)) = false := by
    rcases h with h | h
    · simp [h]
    · simp [Nat.not_lt.mpr h]
  unfold execTimesyncEdge
  simp only [hstuck, hsoon, Bool.false_eq_true, if_false]
  split <;> rfl

/-! ### Register reads (R20, R154, R623) -/

theorem isPair_of_latchesHigh {off : Nat} (h : latchesHigh off = true) : isPair off = true := by
  rw [latchesHigh, Bool.and_eq_true] at h
  exact h.1

theorem State.readView_of_latchesHigh (s : State) {off : Nat} (h : latchesHigh off = true) :
    s.readView off = s.pairView off % 2 ^ 32 := by
  rw [State.readView, if_pos (isPair_of_latchesHigh h)]

/-- A read that a block answers: the bits that the register shows; a latching _LO register latches its _HI register (R20). -/
theorem execLoRegisterRead_answered {s : State} {off : Nat} (hd : s.decodesBars = true)
    (hh : s.safeHold = false ∨ safeHoldBlock (off / 4 * 4) = true) (hc : s.blockClosed (off / 4 * 4) = false) :
    execLoRegisterRead off s = .next (((if latchesHigh (off / 4 * 4) then
      { s with latches := Map.set latchCold s.latches (off / 4 * 4 + 4) (s.pairView (off / 4 * 4) / 2 ^ 32 % 2 ^ 32) } else s).wakeFor
      (off / 4 * 4)).emit (.readData (leBytes 4 (s.readView (off / 4 * 4))) false)) := by
  have hr : ((s.safeHold && !safeHoldBlock (off / 4 * 4)) || s.blockClosed (off / 4 * 4)) = false := by
    rcases hh with hh | hh <;> simp [hh, hc]
  unfold execLoRegisterRead
  simp only [hd, hr, Bool.not_true, Bool.false_eq_true, if_false]

end Sys2Proof.Machine

open Sys2Proof Sys2Proof.Machine

/-- Settles O9: each event is unfolded on its branch; a measurement, an accepted edge and a register read go through the lemmas above, and
the frames through the lemmas of `Laws/`. -/
theorem deviceTimeEventsAct : Obligations.DeviceTimeEventsAct := by
  unfold Obligations.DeviceTimeEventsAct
  refine ⟨?ptmAsks, ?ptmNotEnabled, ?ptmAnswered, ?ptmTimeout, ?ptmThirdTimeout, ?edgeAccepted, ?edgeTooSoon, ?stuck, ?falling, ?timeLo,
    ?timeLoClosed, ?readLatching, ?readPlain, ?readClosed, ?readSafeHold⟩
  case ptmAsks =>
    intro s hsrc hen
    have hx : execPtmDialog s = .next (({ s with time := { s.time with ptmOpen := true } }).emit .ptmRequest) := by
      simp [execPtmDialog, hsrc, hen]
    exact ⟨_, hx, rfl, rfl, by simp⟩
  case ptmNotEnabled =>
    intro s hsrc hen
    have hx : execPtmDialog s = .next s.holdover := by simp [execPtmDialog, hsrc, hen]
    exact ⟨_, hx, rfl, State.f_setF_same _ _ _, State.holdover_only s, State.holdover_regs s⟩
  case ptmAnswered =>
    intro s masterNs hopen hsrc
    have hx : execPtmResponse masterNs s = .next (({ s with time := { s.time with ptmOpen := false, ptmFails := 0 } }).measure
        (4 * masterNs + ofTwos 64 (s.f tbOffset)) s.now ((max 1 (min 1000 (s.f tbPtmCfgInterval)) : Nat) * 4000000)) := by
      simp [execPtmResponse, hopen, hsrc]
    exact ⟨_, hx, by simp, by simp, by simp, by simp, by simp, execPtmResponse_only hx⟩
  case ptmTimeout =>
    intro s hopen hfails
    have hmin : min (s.time.ptmFails + 1) 3 = s.time.ptmFails + 1 := by omega
    have h3 : ¬ s.time.ptmFails + 1 = 3 := by omega
    have hx : execPtmResponseTimeout s =
        .next { s with time := { s.time with ptmOpen := false, ptmFails := s.time.ptmFails + 1 } } := by
      simp only [execPtmResponseTimeout, hopen, hmin, h3, if_true, if_false]
    exact ⟨_, hx, rfl⟩
  case ptmThirdTimeout =>
    intro s hopen hfails
    have hmin : min (s.time.ptmFails + 1) 3 = 3 := by omega
    have hx : execPtmResponseTimeout s =
        .next ((({ s with time := { s.time with ptmOpen := false, ptmFails := 3 } }).setF tbStatusPtmFail 1).holdover) := by
      simp [execPtmResponseTimeout, hopen, hmin]
    refine ⟨_, hx, rfl, ?_, State.f_setF_same _ _ _, execPtmResponseTimeout_only hx, execPtmResponseTimeout_regs hx⟩
    rw [State.holdover_regs _ tbStatusPtmFail (by decide), State.f_setF_same]
  case edgeAccepted =>
    intro s tick hstuck hlate
    have hx := execTimesyncEdge_accepted hstuck hlate
    refine ⟨_, hx, ?_, ?_, ?_, ?_, ?_, execTimesyncEdge_only hx⟩
    · split
      · rw [State.measure_regs _ _ _ _ tbSyncCapt (by decide), State.takeEdge_capt]
      · exact State.takeEdge_capt s _
    · split <;> simp
    · split
      · rw [State.measure_regs _ _ _ _ tbSyncNext (by decide), State.takeEdge_next]
      · exact State.takeEdge_next s _
    · intro hsrc
      simp [hsrc]
    · intro l hl hc
      have hp := State.takeEdge_pulsedAt s (tick - 100) hl hc
      split
      · unfold State.line
        rw [(State.measure_only _ _ _ _).eq_lines (by decide)]
        exact hp
      · exact hp
  case edgeTooSoon =>
    intro s tick hstuck hsync hsoon
    have hx : execTimesyncEdge tick s = .next (s.bump tbSyncCfgIgnored 16) := by
      simp [execTimesyncEdge, State.on, hstuck, hsync, hsoon]
    exact ⟨_, hx, State.f_setF_same _ _ _, State.bump_only _ _ _, State.bump_regs _ _ _⟩
  case stuck =>
    intro s
    have hx : execTimesyncStuck s = .next (if s.f tbCtrlSrc = 2 then (s.setF tbStatusTimesyncStuck 1).holdover
        else s.setF tbStatusTimesyncStuck 1) := by
      unfold execTimesyncStuck
      split <;> rfl
    refine ⟨_, hx, ?_, ?_, execTimesyncStuck_only hx, execTimesyncStuck_regs hx⟩
    · split
      · rw [State.holdover_regs _ tbStatusTimesyncStuck (by decide), State.f_setF_same]
      · exact State.f_setF_same _ _ _
    · intro hsrc
      rw [if_pos hsrc]
      exact State.f_setF_same _ _ _
  case falling =>
    intro s
    exact ⟨_, rfl, State.f_setF_same _ _ _, State.setF_only _ _ _, State.setF_regs _ _ _⟩
  case timeLo =>
    intro s hd
    have hx : execTbTimeLoRead s = .next (({ s with latches := Map.set latchCold s.latches 0x20004 (s.now / 2 ^ 32 % 2 ^ 32) }).emit
        (.readData (leBytes 4 s.now) false)) := by
      simp [execTbTimeLoRead, hd]
    exact ⟨_, hx, rfl, Map.get_set_same _ _ _ _, execTbTimeLoRead_only hx⟩
  case timeLoClosed =>
    intro s hd
    have hx : execTbTimeLoRead s = .next (s.emit .unsupportedRequest) := by simp [execTbTimeLoRead, hd]
    exact ⟨_, hx, rfl⟩
  case readLatching =>
    intro s off hd hh hc hl
    have hx := execLoRegisterRead_answered hd hh hc
    refine ⟨_, hx, ?_, ?_, (execLoRegisterRead_only hx).mono (by decide), execLoRegisterRead_regs hx⟩
    · rw [State.emit_out, (State.wakeFor_only _ _).eq_out (by decide), if_pos hl, State.readView_of_latchesHigh s hl]
    · rw [State.emit_keeps_latches, (State.wakeFor_only _ _).eq_latches (by decide), if_pos hl]
      exact Map.get_set_same _ _ _ _
  case readPlain =>
    intro s off hd hh hc hl
    have hx := execLoRegisterRead_answered hd hh hc
    rw [if_neg (by simp [hl])] at hx
    refine ⟨_, hx, ?_, by simp, execLoRegisterRead_regs hx⟩
    rw [State.emit_out, (State.wakeFor_only _ _).eq_out (by decide)]
  case readClosed =>
    intro s off hd
    have hx : execLoRegisterRead off s = .next (s.emit .unsupportedRequest) := by simp [execLoRegisterRead, hd]
    exact ⟨_, hx, rfl, State.emit_only _ _⟩
  case readSafeHold =>
    intro s off hd hsafe hb
    have hx : execLoRegisterRead off s = .next (s.emit .completerAbort) := by simp [execLoRegisterRead, hd, hsafe, hb]
    exact ⟨_, hx, rfl, State.emit_only _ _⟩
end

section
/-!
Register writes (R22 to R24, R88, R127, R130, R131, R188, R458, R623): which branch of a write each offset takes, and what one field takes
by its access type.
-/
namespace Sys2Proof.Machine

/-! ### Bits -/

/-- The low half of a pair whose low half has been written (R20). -/
theorem bitOf_low_half (a v : Nat) {d : Nat} (h : d < 32) : bitOf (a * 2 ^ 32 + v % 2 ^ 32) d = bitOf v d := by
  rw [bitOf_eq_testBit, bitOf_eq_testBit, Nat.mul_comm, Nat.testBit_two_pow_mul_add a (Nat.mod_lt _ (by decide)), if_pos h,
    Nat.testBit_mod_two_pow]
  simp [h]

theorem bitsOf_word (v : Nat) : bitsOf v 31 0 = v % 2 ^ 32 := by
  simp [bitsOf]

/-! ### Reports -/

/-- A report without a vector sends nothing (R616). -/
theorem State.report_out {s : State} {e : LogEvent} (h : e.vector = none) : (s.report e).out = s.out := by
  unfold State.report
  rw [h]
  dsimp only
  split <;> simp

/-! ### Where a write goes -/

theorem State.decodesBars_of_ready {s : State} (h : s.on devStatusPcieReady = true) : s.decodesBars = true := by
  simp [State.decodesBars, h]

/-- Of a write by a requester that reaches the registers, the 32-bit register at its offset takes the value (R22, R88). -/
theorem execRegisterWrite_reaches {s : State} {q : Requester} (off v : Nat) (h : q = .host → s.on devStatusPcieReady = true) :
    execRegisterWrite q off v s = .next (s.writeRegister (q == .anvil) (off / 4 * 4) v) := by
  have hq : (q == .host && !s.decodesBars) = false := by
    by_cases e : q = .host
    · simp [State.decodesBars_of_ready (h e)]
    · simp [e]
  unfold execRegisterWrite
  rw [hq]
  rfl

/-- A write that no other unit takes goes to the fields of its register. -/
theorem State.writeRegister_fields {s : State} {off : Nat} (anvil : Bool) (v : Nat) (hs : s.safeHold = false)
    (hc : s.blockClosed off = false) (hm : ¬ (0xC000 ≤ off ∧ off < 0xC400)) (hr : ringSetupAt off = none) (hx : shadowAt off = none) :
    s.writeRegister anvil off v = (s.wakeFor off).writeFields anvil off v := by
  unfold State.writeRegister
  simp only [hs, hc, hm, hr, hx, Bool.false_eq_true, if_false]

theorem State.writeRegister_closed {s : State} {off : Nat} (anvil : Bool) (v : Nat) (hs : s.safeHold = false)
    (hc : s.blockClosed off = true) : s.writeRegister anvil off v = s.dropWrite off := by
  unfold State.writeRegister
  simp only [hs, hc, Bool.false_eq_true, if_false, if_true]

theorem State.wakeFor_unswitched (s : State) {off : Nat} (h : switchedDomain off = none) : s.wakeFor off = s := by
  unfold State.wakeFor
  rw [h]

/-- A register of one 32-bit field, not the _HI half of a pair. -/
theorem State.writeFields_single (s : State) (anvil : Bool) {off : Nat} (v : Nat) {sp : FieldSpec} (h : specsAt off = [sp])
    (hh : ∀ x ∈ specsAt (off - 4), x.hi ≠ 63) :
    s.writeFields anvil off v = s.writeField anvil off sp (fld off sp.lo) false v := by
  have hn : (specsAt (off - 4)).filter (fun sp => sp.hi == 63) = [] := by
    rw [List.filter_eq_nil_iff]
    intro x hx
    simpa using hh x hx
  unfold State.writeFields
  rw [h, hn]
  rfl

/-- A command that a register has of its own is carried out while its block is reached. -/
theorem State.refusesWrite_open {s : State} {off : Nat} (h : Open off s) : s.refusesWrite off = none := by
  obtain ⟨hs, hr, hc⟩ := h
  simp [State.refusesWrite, hs, State.decodesBars_of_ready hr, hc]

/-! ### One field (R22) -/

section
variable {s : State} {anvil : Bool} {off v : Nat} {sp : FieldSpec} {k : Fld}

theorem State.writeField_rwa_denied (ha : sp.acc = .rwa) (hq : anvil = false) :
    s.writeField anvil off sp k false v = s.setF devStatusRwaDenied 1 := by
  simp [State.writeField, ha, hq]

theorem State.writeField_ro (ha : sp.acc = .ro) (ho : ownRow k = false) : s.writeField anvil off sp k false v = s := by
  simp [State.writeField, ha, ho]

theorem State.writeField_rw (ha : sp.acc = .rw) (hp : privilegedOffset off = false) (ho : ownRow k = false) (hhi : sp.hi ≠ 63)
    (hsrc : k ≠ tbCtrlSrc) (hgate : k ≠ plGateDis) (hser : isLaneSer off = false) :
    s.writeField anvil off sp k false v = s.setF k (bitsOf v sp.hi sp.lo) := by
  simp [State.writeField, ha, hp, ho, hhi, hsrc, hgate, hser]

theorem State.writeField_w1c (ha : sp.acc = .w1c) (ho : ownRow k = false) (hhi : sp.hi ≠ 63) (hk : k ≠ tbSyncCfgIgnored) :
    s.writeField anvil off sp k false v = s.setF k (s.f k - (s.f k &&& bitsOf v sp.hi sp.lo)) := by
  simp [State.writeField, ha, ho, hhi, hk]

theorem State.writeField_w1s (ha : sp.acc = .w1s) (hp : privilegedOffset off = false) (ho : ownRow k = false) (hhi : sp.hi ≠ 63) :
    s.writeField anvil off sp k false v = s.setF k (s.f k ||| bitsOf v sp.hi sp.lo) := by
  simp [State.writeField, ha, hp, ho, hhi]

end

/-! ### The tables of registers -/

theorem specsAt_lo_lt {off : Nat} {sp : FieldSpec} (h : sp ∈ specsAt off) : sp.lo < 32 := by
  have ht : ∀ f ∈ (locate off).1, f.lo < 32 := by
    fun_cases locate off <;> dsimp only <;> decide
  exact ht sp (List.mem_filter.mp h).1

/-- The only field of PL_GATE_DIS is 64 bits wide (R153). -/
theorem fld_ne_plGateDis {off : Nat} {sp : FieldSpec} (h : sp ∈ specsAt off) (hhi : sp.hi ≠ 63) : fld off sp.lo ≠ plGateDis := by
  intro e
  have hlo := specsAt_lo_lt h
  have hoff : off = 0x10014 := by
    change off * 32 + sp.lo = 0x10014 * 32 + 0 at e
    omega
  subst hoff
  have hg : ∀ f ∈ specsAt 0x10014, f.hi = 63 := by decide
  exact hhi (hg sp h)

/-- Above the bulk movers lie no ring setup, no shadow set and no privileged channel (R461, R507, R517). -/
theorem plain_above_channels {off : Nat} (h : 0x50000 ≤ off) :
    ringSetupAt off = none ∧ shadowAt off = none ∧ privilegedOffset off = false := by
  unfold ringSetupAt shadowAt privilegedOffset
  rw [if_neg (by omega), if_neg (by omega), decide_eq_false_iff_not]
  exact ⟨rfl, rfl, by omega⟩

/-- From the registers of the ports up, two fields have a command of their own: TE_LAT_CFG.CLEAR and RG_CFG.WINDOW. -/
theorem ownRow_eq_false {k : Fld} (h : 0x60000 * 32 ≤ k) (hte : k ≠ teLatCfgClear) (hrg : k ≠ rgCfgWindow) : ownRow k = false := by
  have hlow (j : Nat) (hj : j < 0x60000 * 32) : k ≠ j := (Nat.lt_of_lt_of_le hj h).ne'
  have hring (r : Nat) (hr : r < 16) : k ≠ hcRingCtrlEnable r :=
    hlow _ (show (0x30000 + 0x40 * r + 0x14) * 32 + 0 < _ by omega)
  have hch (c lo : Nat) (hc : c < 18) (hlo : lo < 32) : k ≠ fld (bmBase c) lo := by
    have hb : bmBase c < 0x50000 := by
      unfold bmBase
      split <;> omega
    exact hlow _ (show bmBase c * 32 + lo < _ by omega)
  unfold ownRow
  simp only [Bool.or_eq_false_iff, beq_eq_false_iff_ne, List.any_eq_false, List.mem_range, Bool.or_eq_true, beq_iff_eq, not_or]
  exact ⟨⟨⟨⟨hlow _ (by decide), hte⟩, hrg⟩, hring⟩,
    fun c hc => ⟨⟨hch c 0 hc (by decide), hch c 1 hc (by decide)⟩, hch c 2 hc (by decide)⟩⟩

/-- The registers in a domain that Pilot switches off by itself: those of the controllers and of Test. -/
theorem switchedDomain_range {off d : Nat} (h : switchedDomain off = some d) :
    0xD0000 ≤ off ∧ off < 0xE0000 ∨ 0x110000 ≤ off ∧ off < 0x120000 := by
  unfold switchedDomain at h
  split at h
  · exact .inl ‹_›
  · split at h
    · exact .inr ‹_›
    · cases h

/-! ### RL_LANE_SER (R188) -/

theorem specsAt_laneSer {p : Nat} (h : p ≤ 15) : specsAt (0x60034 + 0x1000 * p) = [⟨0x34, 31, 0, .rw, 0, false, 0, 0⟩] := by
  have ht : ∀ p < 16, specsAt (0x60034 + 0x1000 * p) = [⟨0x34, 31, 0, .rw, 0, false, 0, 0⟩] := by decide
  exact ht p (by omega)

theorem specsAt_before_laneSer {p : Nat} (h : p ≤ 15) : ∀ x ∈ specsAt (0x60034 + 0x1000 * p - 4), x.hi ≠ 63 := by
  have ht : ∀ p < 16, ∀ x ∈ specsAt (0x60034 + 0x1000 * p - 4), x.hi ≠ 63 := by decide
  exact ht p (by omega)

theorem isLaneSer_at {p : Nat} (h : p ≤ 15) : isLaneSer (0x60034 + 0x1000 * p) = true := by
  simp only [isLaneSer, Bool.and_eq_true, decide_eq_true_eq, beq_iff_eq]
  omega

/-! ### PL_GATE_DIS (R130, R153) -/

/-- A write of the low half goes to the gates with the high half as it was. -/
theorem State.writeFields_gateDis (s : State) (anvil : Bool) (v : Nat) :
    s.writeFields anvil 0x10014 v = s.setGateDis (s.f plGateDis / 2 ^ 32 * 2 ^ 32 + v % 2 ^ 32) := by
  have hl : specsAt 0x10014 = [⟨0x14, 63, 0, .rw, 0, false, 0, 0⟩] := by decide
  have hn : (specsAt (0x10014 - 4)).filter (fun sp => sp.hi == 63) = [] := by decide
  have hk : fld 0x10014 0 = plGateDis := rfl
  have ho : ownRow plGateDis = false := by decide
  have hsrc : plGateDis ≠ tbCtrlSrc := by decide
  have hp : privilegedOffset 0x10014 = false := by decide
  unfold State.writeFields
  rw [hl, hn]
  simp [State.writeField, hk, ho, hsrc, hp, bitsOf_word]

/-- A gate that the mask disables opens, where its domain is powered and neither closed by force nor held in reset. -/
theorem State.setGateDis_opens {s : State} {v d : Nat} (hd : d < 60) (hv : bitOf v d = true) (hg : s.hasGate d = true)
    (hon : ¬ ((4 ≤ d ∧ d < 20) ∨ (22 ≤ d ∧ d < 30))) (hr : s.heldInReset d = false) (hi : bitOf s.dom.isolatedClk d = false) :
    bitOf ((s.setGateDis v).f plClkActive) d = true := by
  unfold State.setGateDis
  dsimp only
  rw [State.setFs_cons, State.setFs_cons, State.setFs_nil, State.f_setF_same, bitOf_or, bitOf_maskOf _ hd]
  rw [not_or] at hon
  simp [hv, hg, hr, hi, hon.1, hon.2]

theorem State.setGateDis_gateDis (s : State) (v : Nat) : (s.setGateDis v).f plGateDis = v := by
  unfold State.setGateDis
  dsimp only
  rw [State.setFs_cons, State.setFs_cons, State.setFs_nil, State.f_setF_other _ _ (by decide), State.f_setF_same]

/-! ### A register of one field -/

section
variable {s : State} {q : Requester} {off : Nat} {sp : FieldSpec} (v : Nat)

/-- A write of such a register: its block is woken, and its field takes the value. -/
theorem execRegisterWrite_field (hs : s.safeHold = false) (hc : s.blockClosed off = false)
    (hq : q = .host → s.on devStatusPcieReady = true) (hal : off % 4 = 0) (hsp : specsAt off = [sp])
    (hh : ∀ x ∈ specsAt (off - 4), x.hi ≠ 63) (hr : ringSetupAt off = none) (hx : shadowAt off = none)
    (hm : ¬ (0xC000 ≤ off ∧ off < 0xC400)) :
    execRegisterWrite q off v s = .next ((s.wakeFor off).writeField (q == .anvil) off sp (fld off sp.lo) false v) := by
  have ho : off / 4 * 4 = off := by omega
  rw [execRegisterWrite_reaches off v hq, ho, State.writeRegister_fields _ v hs hc hm hr hx, State.writeFields_single _ _ v hsp hh]

/-- The same in a domain that is off and may be woken (R127). -/
theorem execRegisterWrite_wakes {d : Nat} (hs : s.safeHold = false) (hc : s.blockClosed off = false)
    (hq : q = .host → s.on devStatusPcieReady = true) (hal : off % 4 = 0) (hsp : specsAt off = [sp])
    (hh : ∀ x ∈ specsAt (off - 4), x.hi ≠ 63) (hhi : sp.hi ≠ 63) (ha : sp.acc = .rw) (hsw : switchedDomain off = some d)
    (hph : s.pilot.phase = .running) (hcu : s.domainCulled d = false) (hi : bitOf s.dom.isolatedPwr d = false) :
    execRegisterWrite q off v s =
      .next ((s.setF plPwrOn (setBit (s.f plPwrOn) d)).setF (fld off sp.lo) (bitsOf v sp.hi sp.lo)) := by
  have hrange := switchedDomain_range hsw
  have hlo : sp.lo < 32 := specsAt_lo_lt (off := off) (by simp [hsp])
  obtain ⟨hr, hx, hp⟩ := plain_above_channels (off := off) (by omega)
  have hser : isLaneSer off = false := by
    simp only [isLaneSer, Bool.and_eq_false_iff, decide_eq_false_iff_not]
    omega
  have hsrc : fld off sp.lo ≠ tbCtrlSrc := fld_ne (by omega)
  have ho : ownRow (fld off sp.lo) = false :=
    ownRow_eq_false (show 0x60000 * 32 ≤ off * 32 + sp.lo by omega) (fld_ne (by omega)) (fld_ne (by omega))
  have hw : s.wakeFor off = s.setF plPwrOn (setBit (s.f plPwrOn) d) := by
    unfold State.wakeFor
    rw [hsw]
    simp [hph, hcu, hi]
  rw [execRegisterWrite_field v hs hc hq hal hsp hh hr hx (by omega), hw,
    State.writeField_rw ha hp ho hhi hsrc (fld_ne_plGateDis (by simp [hsp]) hhi) hser]

end

/-- A write of RL_LANE_SER loads the count of the lane that RL_EQ_SEL shows (R188). -/
theorem execRegisterWrite_laneSer {s : State} {q : Requester} {p : Nat} (v : Nat) (hp : p ≤ 15) (hs : s.safeHold = false)
    (hc : s.blockClosed (0x60034 + 0x1000 * p) = false) (hq : q = .host → s.on devStatusPcieReady = true) :
    execRegisterWrite q (0x60034 + 0x1000 * p) v s = .next (s.writeLaneSer p (v % 2 ^ 32)) := by
  obtain ⟨hr, hx, hpriv⟩ := plain_above_channels (off := 0x60034 + 0x1000 * p) (by omega)
  have hsw : switchedDomain (0x60034 + 0x1000 * p) = none := by
    unfold switchedDomain
    rw [if_neg (by omega), if_neg (by omega)]
  have hsrc : fld (0x60034 + 0x1000 * p) 0 ≠ tbCtrlSrc := fld_ne (by omega)
  have hgate : fld (0x60034 + 0x1000 * p) 0 ≠ plGateDis := fld_ne (by omega)
  have ho : ownRow (fld (0x60034 + 0x1000 * p) 0) = false :=
    ownRow_eq_false (show 0x60000 * 32 ≤ (0x60034 + 0x1000 * p) * 32 + 0 by omega) (fld_ne (by omega)) (fld_ne (by omega))
  have hport : (0x60034 + 0x1000 * p - 0x60000) / 0x1000 = p := by omega
  rw [execRegisterWrite_field v hs hc hq (by omega) (specsAt_laneSer hp) (specsAt_before_laneSer hp) hr hx (by omega),
    State.wakeFor_unswitched s hsw]
  simp [State.writeField, hpriv, ho, hsrc, hgate, isLaneSer_at hp, hport, bitsOf_word]

/-! ### Accesses that BAR0 does not accept (R457) -/

/-- Such an access is counted in HC_BAD_ACCESS and reported. -/
def State.countBadAccess (s : State) (off : Nat) : State :=
  (s.bump hcBadAccess 32).report { pre := .hc, code := 0x02, severity := 0, data := off % 2 ^ 32 }

theorem State.countBadAccess_count (s : State) (off : Nat) :
    (s.countBadAccess off).f hcBadAccess = min (s.f hcBadAccess + 1) (2 ^ 32 - 1) := by
  rw [State.countBadAccess, State.report_regs _ _ hcBadAccess (by decide)]
  exact State.f_setF_same _ _ _

@[simp] theorem State.countBadAccess_out (s : State) (off : Nat) : (s.countBadAccess off).out = s.out :=
  State.report_out rfl

theorem State.countBadAccess_newest (s : State) (off : Nat) : Newest (s.countBadAccess off) .hc 0x02 0xFF :=
  State.report_newest _ _

theorem execBar0BadAccess_notDecoded {s : State} (k : BadAccess) (off : Nat) (h : s.decodesBars = false) :
    execBar0BadAccess k off s = .next (if k = .write then s else s.emit .unsupportedRequest) := by
  unfold execBar0BadAccess
  simp only [h, Bool.not_false, if_true]
  cases k <;> rfl

theorem execBar0BadAccess_decoded {s : State} (k : BadAccess) (off : Nat) (h : s.decodesBars = true) :
    execBar0BadAccess k off s = .next (match k with
      | .read => (s.countBadAccess off).emit .completerAbort
      | .write => s.countBadAccess off
      | .atomicOp => (s.countBadAccess off).emit .unsupportedRequest) := by
  unfold execBar0BadAccess
  simp only [h, Bool.not_true, Bool.false_eq_true, if_false]
  cases k <;> rfl

end Sys2Proof.Machine

open Sys2Proof Sys2Proof.Machine

/-- Settles O30: each write is followed to the branch that takes it, by the lemmas above, and the frames come from those of `Laws/`. -/
theorem registerWritesFollowTheirAccessType : Obligations.RegisterWritesFollowTheirAccessType := by
  unfold Obligations.RegisterWritesFollowTheirAccessType
  refine ⟨?oneField, ?wakes, ?gateDis, ?safeHold, ?laneSer, ?notDecoded, ?closed, ?badNotDecoded, ?badDecoded, ?latClear, ?window,
    ?swPulse, ?noSwPulse, ?deviceState⟩
  case oneField =>
    intro s q off v sp hs hc hq hal hsp hh hhi hp hr hsh hm ho hign hsrc hser hsw
    have hx := execRegisterWrite_field v hs hc hq hal hsp hh hr hsh hm
    rw [State.wakeFor_unswitched s hsw] at hx
    have hgate : fld off sp.lo ≠ plGateDis := fld_ne_plGateDis (by simp [hsp]) hhi
    refine ⟨fun ha => ⟨_, hx, ?_⟩, fun ha => ⟨_, hx, ?_⟩, fun ha => ⟨_, hx, ?_⟩, fun ha => ⟨_, hx, ?_⟩, fun ha hna => ⟨_, hx, ?_⟩⟩
    · exact State.writeField_rw ha hp ho hhi hsrc hgate hser
    · exact State.writeField_ro ha ho
    · exact State.writeField_w1c ha ho hhi hign
    · exact State.writeField_w1s ha hp ho hhi
    · exact State.writeField_rwa_denied ha (by simpa using hna)
  case wakes =>
    intro s q off v d sp hs hc hq hal hsp hh hhi ha hsw hph hcu hi
    exact ⟨_, execRegisterWrite_wakes v hs hc hq hal hsp hh hhi ha hsw hph hcu hi, rfl⟩
  case gateDis =>
    intro s q v hs hc hq
    have hx : execRegisterWrite q 0x10014 v s = .next (s.setGateDis (s.f plGateDis / 2 ^ 32 * 2 ^ 32 + v % 2 ^ 32)) := by
      rw [execRegisterWrite_reaches _ _ hq, State.writeRegister_fields _ _ hs hc (by decide) (by decide) (by decide),
        State.wakeFor_unswitched s (by decide), State.writeFields_gateDis]
    refine ⟨_, hx, State.setGateDis_gateDis _ _, ?_, State.setGateDis_only _ _, State.setGateDis_regs _ _⟩
    intro d hd hv hg hon hr hi
    exact State.setGateDis_opens (by omega) (by rw [bitOf_low_half _ _ hd, hv]) hg hon hr hi
  case safeHold =>
    intro s q off v hs hb
    have hd : s.decodesBars = true := by simp [State.decodesBars, hs]
    have hx : execRegisterWrite q off v s = .next s := by
      simp [execRegisterWrite, State.writeRegister, hd, hs, hb]
    exact ⟨_, hx, rfl⟩
  case laneSer =>
    intro s q p v hp hs hc hq
    refine ⟨_, execRegisterWrite_laneSer v hp hs hc hq, ?_, State.writeLaneSer_only _ _ _⟩
    simp [State.writeLaneSer, State.setLane, State.lane]
  case notDecoded =>
    intro s off v hd
    have hx : execRegisterWrite .host off v s = .next s := by simp [execRegisterWrite, hd]
    exact ⟨_, hx, rfl⟩
  case closed =>
    intro s q off v hs hq hc
    have hx : execRegisterWrite q off v s = .next (s.dropWrite (off / 4 * 4)) := by
      rw [execRegisterWrite_reaches _ _ hq, State.writeRegister_closed _ _ hs hc]
    exact ⟨_, hx, State.report_newest _ _, State.dropWrite_only _ _, State.dropWrite_regs _ _⟩
  case badNotDecoded =>
    intro s k off hd
    exact ⟨_, execBar0BadAccess_notDecoded k off hd, rfl⟩
  case badDecoded =>
    intro s k off hd
    have hx := execBar0BadAccess_decoded k off hd
    refine ⟨_, hx, ?_, ?_, ?_, ?_, ?_, execBar0BadAccess_only hx, execBar0BadAccess_regs hx⟩
    · cases k <;> exact State.countBadAccess_count s off
    · cases k <;> exact State.countBadAccess_newest s off
    · rintro rfl
      simp
    · rintro rfl
      simp
    · rintro rfl
      simp
  case latClear =>
    intro s h
    have hx : execTeLatClear s = .next { s with latency := [] } := by simp only [execTeLatClear, State.refusesWrite_open h]
    exact ⟨_, hx, rfl⟩
  case window =>
    intro s v h
    have hx : execRgCfgWindowWrite v s = .next (s.setF rgCfgWindow (v % 1024)) := by
      simp only [execRgCfgWindowWrite, State.refusesWrite_open h]
    exact ⟨_, hx, rfl⟩
  case swPulse =>
    intro s v h hsrc
    have hx : execEvSwPulseWrite v s = .next (s.pulseLine (v % 64) s.now) := by
      simp only [execEvSwPulseWrite, State.refusesWrite_open h, hsrc, if_true]
    obtain ⟨hpulsed, htick⟩ := State.pulseLine_pulsedAt s (v % 64) s.now
    refine ⟨_, hx, hpulsed, htick, rfl, ?_, State.pulseLine_only _ _ _⟩
    intro l hl
    rw [State.line_pulseLine, if_neg hl]
  case noSwPulse =>
    intro s v h hsrc
    have hx : execEvSwPulseWrite v s = .next s := by simp only [execEvSwPulseWrite, State.refusesWrite_open h, hsrc, if_false]
    exact ⟨_, hx, rfl⟩
  case deviceState =>
    intro s slot
    exact ⟨_, rfl, rfl⟩
end

section
/-!
Power-on, reset pins and reset sources (R58, R62 to R69, R83 to R86, R98, R110, R119, R139, R638, R639): what losing VDD_AO leaves, what an
uncommanded full reset leaves, and when the sequence goes on.
-/
namespace Sys2Proof.Machine

/-! ### Power (R67, R69, R105) -/

/-- Nothing of before is left but the commands that wait; every field has its Cold value. -/
theorem State.powerLost_facts (s : State) (phase : BootPhase) :
    let t := s.powerLost phase
    t.pilot.phase = phase ∧ t.pilot.kind = .powerOn ∧ (∀ k, t.f k = coldOf k) ∧ t.log = [] ∧ t.tables = [] ∧ t.pending = s.pending :=
  ⟨rfl, rfl, fun _ => rfl, rfl, rfl, (State.powerLost_only s phase).eq_pending (by decide)⟩

/-! ### The sequence goes on (R58, R86, R98) -/

theorem State.resetHeldBySource_congr {s t : State} (h : t.pilot = s.pilot) : t.resetHeldBySource = s.resetHeldBySource := by
  unfold State.resetHeldBySource
  rw [h]

/-- Step 4 begins, with the stage of R114. -/
theorem State.enterReady_stage {s : State} (h : s.pilot.next = 4) :
    s.enterReady.f devStatusStage = if s.on devStatusStackFault then 0xC else 1 := by
  have hb : ∀ p : Pilot, p.next = 4 → ({ s with pilot := p } : State).bootStage = if s.on devStatusStackFault then 0xC else 1 := by
    intro p hp
    simp only [State.bootStage, hp]
    rfl
  unfold State.enterReady
  dsimp only
  rw [State.setFs_cons, State.f_setFs_other _ _ (by decide), State.f_setF_same]
  exact hb _ h

/-- Pilot where the sequence may go on: only the phase and the tick of step 4 change. -/
theorem State.tryReady_pilot (s : State) :
    s.tryReady.pilot = if s.pilot.phase = .resetHeld ∧ s.resetHeldBySource = false ∧ s.pilot.thermtrip = false then
      (if s.pilot.next = 3 then { s.pilot with phase := .refclk } else { s.pilot with phase := .ready, stepTick := s.now }) else s.pilot := by
  unfold State.tryReady
  split
  · split <;> simp [State.enterReady]
  · rfl

/-- Whether the sequence goes on or not, the rest of Pilot stays. -/
theorem State.tryReady_keeps (s : State) :
    ∃ phase stepTick, s.tryReady.pilot = { s.pilot with phase := phase, stepTick := stepTick } := by
  rw [State.tryReady_pilot]
  split
  · split <;> exact ⟨_, _, rfl⟩
  · exact ⟨_, _, rfl⟩

theorem State.tryReady_sources (s : State) : s.tryReady.resetHeldBySource = s.resetHeldBySource := by
  obtain ⟨phase, stepTick, hpilot⟩ := State.tryReady_keeps s
  unfold State.resetHeldBySource
  rw [hpilot]

/-- A source of the reset has gone: what Pilot changed for it is none of the phase, the step and the trip. -/
theorem State.tryReady_resumes {s : State} {p : Pilot} (hphase : p.phase = s.pilot.phase) (hnext : p.next = s.pilot.next)
    (htrip : p.thermtrip = s.pilot.thermtrip) : Resumes s ({ s with pilot := p } : State).tryReady := by
  have hp := State.tryReady_pilot { s with pilot := p }
  unfold Resumes
  rw [State.tryReady_sources, hp]
  dsimp only
  rw [hphase, hnext, htrip]
  refine ⟨?goesOn, ?waits, ?step, by simp, (State.tryReady_regs { s with pilot := p })⟩
  case goesOn =>
    intro hheld hsource hno
    rw [if_pos ⟨hheld, hsource, hno⟩]
    split <;> rfl
  case waits =>
    intro h
    rw [if_neg (by rintro ⟨hheld, hsource, hno⟩; simp [hheld, hsource, hno] at h)]
    exact hphase
  case step =>
    split
    · split <;> rfl
    · exact hnext

theorem State.setPin_eq (s : State) (pin : ResetPin) (high : Bool) :
    s.setPin pin high = { s with pilot := (s.setPin pin high).pilot } := by
  cases pin <;> rfl

/-- A release of a pin lets the sequence go on with the later of the two (R58). -/
theorem State.setPin_resumes (s : State) (pin : ResetPin) (high : Bool) : Resumes s (s.setPin pin high).tryReady := by
  rw [State.setPin_eq]
  cases pin <;> exact State.tryReady_resumes rfl rfl rfl

/-! ### The REFCLK check (R119, R133) -/

/-- REFCLK is good: the oscillator is trimmed, the PLLs lock, Anvil and the time base leave the oscillator, and step 4 is next. -/
def State.refclkPassed (s : State) (trim : Nat) : State :=
  ({ s with pilot := { s.pilot with phase := .resetHeld, refclkOk := true, refCount := 0, next := 4, anvilOsc := false },
            time := { s.time with onOsc := false } }).setFs
    [(plClkStatusRefclkBad, 0), (plRefmonOscTrim, trim % 256), (plClkStatusPllLock, 0x1F)]

theorem execRefclkStartupCheck_passes {s : State} {count : Nat} (trim : Nat) (hcheck : s.pilot.phase = .refclk)
    (htrip : s.pilot.thermtrip = false) (hlow : 9600 ≤ count) (hhigh : count ≤ 10400) :
    execRefclkStartupCheck count trim s = .next (s.refclkPassed trim).tryReady := by
  have h : ¬ (s.pilot.phase ≠ .refclk ∨ s.pilot.thermtrip = true) := by simp [hcheck, htrip]
  unfold execRefclkStartupCheck
  rw [if_neg h, if_pos ⟨hlow, hhigh⟩]
  rfl

theorem State.refclkPassed_sources (s : State) (trim : Nat) : (s.refclkPassed trim).resetHeldBySource = s.resetHeldBySource := rfl

theorem State.refclkPassed_regs (s : State) (trim : Nat) :
    OnlyRegs [plClkStatusRefclkBad, plRefmonOscTrim, plClkStatusPllLock] s (s.refclkPassed trim) := by
  simp [State.refclkPassed]

theorem State.refclkPassed_fields (s : State) (trim : Nat) :
    (s.refclkPassed trim).f plClkStatusRefclkBad = 0 ∧ (s.refclkPassed trim).f plRefmonOscTrim = trim % 256 ∧
      (s.refclkPassed trim).f plClkStatusPllLock = 0x1F := by
  simp [State.refclkPassed, State.f_setF, plClkStatusRefclkBad, plRefmonOscTrim, plClkStatusPllLock, fld]

@[simp] theorem State.refclkPassed_pilot (s : State) (trim : Nat) : (s.refclkPassed trim).pilot =
    { s.pilot with phase := .resetHeld, refclkOk := true, refCount := 0, next := 4, anvilOsc := false } := rfl

/-- Step 4 begins unless a source holds the reset. -/
theorem State.refclkPassed_resumes {s : State} (trim : Nat) (htrip : s.pilot.thermtrip = false) :
    let p := (s.refclkPassed trim).tryReady.pilot
    p.refclkOk = true ∧ p.next = 4 ∧ p.anvilOsc = false ∧ p.phase = if s.resetHeldBySource then .resetHeld else .ready := by
  dsimp only
  rw [State.tryReady_pilot, State.refclkPassed_sources]
  cases s.resetHeldBySource <;> simp [htrip]

theorem State.refclkPassed_stage {s : State} (trim : Nat) (htrip : s.pilot.thermtrip = false) (hsource : s.resetHeldBySource = false) :
    (s.refclkPassed trim).tryReady.f devStatusStage = if s.on devStatusStackFault then 0xC else 1 := by
  have hgoes : (s.refclkPassed trim).tryReady = (s.refclkPassed trim).enterReady := by
    unfold State.tryReady
    rw [State.refclkPassed_sources]
    simp [htrip, hsource]
  have hfault : (s.refclkPassed trim).on devStatusStackFault = s.on devStatusStackFault := by
    unfold State.on
    rw [State.refclkPassed_regs s trim _ (by decide)]
  rw [hgoes, State.enterReady_stage rfl, hfault]

/-! ### Full resets without a command (R83, R84, R105, R110) -/

theorem State.phase_ne_off_of_resettable {s : State} (h : s.resettable = true) : s.pilot.phase ≠ .off := by
  intro hoff
  simp [State.resettable, hoff] at h

/-- What every source of an uncommanded full reset leads to. -/
theorem State.fullReset_uncommanded (s : State) (cause : Nat) (internal lost : Bool) :
    let t := s.fullReset .uncommanded cause internal false lost
    t.pilot.phase = .resetHeld ∧ t.pilot.kind = .uncommanded ∧ t.pilot.internalHeld = internal ∧ t.f devResetCauseCause = cause ∧
      t.log = s.log ∧ t.queues = [] ∧ t.rings = [] ∧ t.ports = [] ∧ t.pending = s.pending := by
  obtain ⟨hphase, hkind, hheld, hcause, -, -, -, hqueues, hrings, hports, -, -, -, hpending, hlog⟩ :=
    State.fullReset_facts s .uncommanded cause internal false lost
  exact ⟨hphase, hkind, hheld, hcause, hlog, hqueues, hrings, hports, hpending⟩

/-! ### Rails (R68) -/

/-- A rail is out of tolerance: it is noted, and the entry of R68 written. -/
def State.reportRail (s : State) (rail : Nat) : State :=
  ({ s with pilot := { s.pilot with railsLow := setBit s.pilot.railsLow rail } }).report
    { pre := .pl, code := 0x02, severity := 3, vector := some 0, data := rail }

theorem execRailOutOfRange_resets {s : State} {rail : Nat} (hprog : rail ≠ 2) (hrange : rail ≤ 8) (hreset : s.resettable = true)
    (hbank : s.banked = false) :
    execRailOutOfRange rail s = .next ((s.fullReset .uncommanded 8 true false (rail == 6 || rail == 7)).reportRail rail) := by
  have hon := State.phase_ne_off_of_resettable hreset
  unfold execRailOutOfRange State.reportRail
  rw [if_neg (by simp [hprog, hrange, hon]), if_neg (by simp [hbank]), if_pos hreset]

theorem State.reportRail_facts (s : State) (rail : Nat) :
    let t := s.reportRail rail
    t.pilot = { s.pilot with railsLow := setBit s.pilot.railsLow rail } ∧ t.f elStatusAlertPend = 1 ∧ Newest t .pl 0x02 0xFF ∧
      t.queues = s.queues ∧ t.rings = s.rings ∧ t.pending = s.pending ∧ t.f devResetCauseCause = s.f devResetCauseCause :=
  ⟨State.report_keeps_pilot _ _, State.report_alert _ _ rfl, State.report_newest _ _, State.report_keeps_queues _ _,
    State.report_keeps_rings _ _, State.report_keeps_pending _ _, State.report_regs _ _ _ (by decide)⟩

/-! ### Boundary scan (R139, R638, R639) -/

/-- The instructions that reset the device: EXTEST, CLAMP, HIGHZ, EXTEST_PULSE and EXTEST_TRAIN. -/
def tapResets : List Nat := [0x00, 0x03, 0x04, 0x05, 0x06]

/-- An instruction is loaded. -/
def State.loadTap (s : State) (ir : Nat) : State := { s with pilot := { s.pilot with tapIr := ir } }

/-- The boundary scan holds a reset. -/
def State.holdTap (s : State) : State := { s with pilot := { s.pilot with tapHeld := true } }

theorem mod_256_of_mem_tapResets {ir : Nat} (h : ir ∈ tapResets) : ir % 256 = ir := by
  have hsmall : ∀ i ∈ tapResets, i % 256 = i := by decide
  exact hsmall ir h

/-- A reset instruction starts a reset where it can, and holds one in any case. -/
theorem execTapInstructionLoad_reset {s : State} {ir : Nat} (hon : s.pilot.phase ≠ .off) (hir : ir ∈ tapResets) :
    execTapInstructionLoad ir s = if s.resettable && !s.pilot.tapHeld && !s.banked then
      .next ((s.loadTap ir).fullReset .uncommanded 0xA false false false).holdTap else .next (s.loadTap ir).holdTap := by
  have hc : [0x00, 0x03, 0x04, 0x05, 0x06].contains ir = true := List.contains_iff_mem.mpr hir
  unfold execTapInstructionLoad
  rw [mod_256_of_mem_tapResets hir, if_neg hon, if_pos hc]
  rfl

/-- Any other instruction is recorded, but a vendor instruction while CUSTOMER_CLOSE is open. -/
theorem execTapInstructionLoad_other {s : State} {ir : Nat} (hon : s.pilot.phase ≠ .off) (hir : ir % 256 ∉ tapResets) :
    execTapInstructionLoad ir s = if 0x80 ≤ ir % 256 ∧ ir % 256 ≤ 0xFE ∧ s.on fzCloseCustomer = false then
      .refused .privateTapInstruction else .next (s.loadTap (ir % 256)) := by
  have hc : ¬ [0x00, 0x03, 0x04, 0x05, 0x06].contains (ir % 256) = true := fun h => hir (List.contains_iff_mem.mp h)
  unfold execTapInstructionLoad
  rw [if_neg hon, if_neg hc]
  rfl

end Sys2Proof.Machine

open Sys2Proof Sys2Proof.Machine

/-- Settles O1: each event is followed to the branch that it takes; step 4 begins as `enterReady` says. -/
theorem powerOnEventsAdvance : Obligations.PowerOnEventsAdvance := by
  unfold Obligations.PowerOnEventsAdvance
  refine ⟨?rise, ?fall, ?rails, ?retry, ?retryElse, ?straps, ?refwait, ?refclkGood, ?refclkBad⟩
  case rise =>
    intro s hoff
    exact ⟨_, if_pos hoff, State.powerLost_facts s .rails⟩
  case fall =>
    intro s
    obtain ⟨hphase, -, hcold, hlog, htables, hpending⟩ := State.powerLost_facts s .off
    exact ⟨_, rfl, hphase, hcold, hlog, htables, hpending⟩
  case rails =>
    intro s hrails
    have hx : execRailsInTolerance s = .next { s with pilot := { s.pilot with railsLow := 0, phase := .refwait } } := by
      simp [execRailsInTolerance, hrails]
    exact ⟨_, hx, rfl⟩
  case retry =>
    intro s hrails
    exact ⟨s, rfl, hrails, rfl⟩
  case retryElse =>
    intro s _
    exact ⟨s, rfl, rfl⟩
  case straps =>
    intro s refwait sbaddr sbctl bist hon hfirst
    have hx : execStrapSample refwait sbaddr sbctl bist s = .next (({ s with pilot := { s.pilot with strapsTaken := true } }).setFs
        [(plStrapsRefwait, refwait % 8), (plStrapsSbaddr, sbaddr % 4), (plStrapsSbctl, sbctl % 2), (plStrapsBist, bist % 2),
          (sbStatusAddr, 0x4C + sbaddr % 4), (sbStatusCtlEn, sbctl % 2)]) := by
      simp [execStrapSample, hon, hfirst]
    refine ⟨_, hx, by simp, ?_, ?_, ?_, ?_, ?_, ?_, by simp, by simp⟩ <;>
      simp [State.f_setF, plStrapsRefwait, plStrapsSbaddr, plStrapsSbctl, plStrapsBist, sbStatusAddr, sbStatusCtlEn, fld]
  case refwait =>
    intro s hwait htaken
    exact ⟨_, if_pos ⟨hwait, htaken⟩, rfl⟩
  case refclkGood =>
    intro s count trim hcheck htrip hlow hhigh
    have hx := execRefclkStartupCheck_passes trim hcheck htrip hlow hhigh
    have ht : (s.refclkPassed trim).tryReady.time = { s.time with onOsc := false } := (State.tryReady_only _).eq_time (by decide)
    have hr := State.tryReady_regs (s.refclkPassed trim)
    obtain ⟨hok, hnext, hosc, hphase⟩ := State.refclkPassed_resumes trim htrip
    obtain ⟨hbad, htrim, hlock⟩ := State.refclkPassed_fields s trim
    refine ⟨_, hx, hok, hnext, hosc, by rw [ht], hphase, ?_, ?_, ?_, State.refclkPassed_stage trim htrip, ?_, ?_⟩
    · rw [hr _ (by decide), hbad]
    · rw [hr _ (by decide), htrim]
    · rw [hr _ (by decide), hlock]
    · simp [State.refclkPassed]
    · exact ((State.refclkPassed_regs s trim).mono (by simp)).trans (hr.mono (by simp))
  case refclkBad =>
    intro s count trim hcheck htrip hcount
    have hx : execRefclkStartupCheck count trim s =
        .next (({ s with pilot := { s.pilot with refclkOk := false } }).setFs [(plClkStatusRefclkBad, 1), (devStatusStage, 0x0)]) := by
      simp [execRefclkStartupCheck, hcheck, htrip, hcount]
    refine ⟨_, hx, ?_, ?_, by simp, by simp, by simp⟩
    · rw [State.setFs_cons, State.f_setFs_other _ _ (by decide), State.f_setF_same]
    · exact State.f_setF_same _ _ _

/-- Settles O2: the reset and the report of the rail by their lemmas; in the banked state by definition. -/
theorem railLossResets : Obligations.RailLossResets := by
  unfold Obligations.RailLossResets
  refine ⟨?resets, ?banked⟩
  case resets =>
    intro s rail hprog hrange hreset hbank
    have hx := execRailOutOfRange_resets hprog hrange hreset hbank
    obtain ⟨hphase, hkind, hheld, hcause, -, hqueues, hrings, -, hpending⟩ :=
      State.fullReset_uncommanded s 8 true (rail == 6 || rail == 7)
    generalize s.fullReset .uncommanded 8 true false (rail == 6 || rail == 7) = u at *
    obtain ⟨hpilot, halert, hnewest, huqueues, hurings, hupending, hucause⟩ := State.reportRail_facts u rail
    refine ⟨_, hx, ?_, ?_, ?_, ?_, hucause.trans hcause, halert, hnewest, huqueues.trans hqueues, hurings.trans hrings,
      hupending.trans hpending⟩ <;> rw [hpilot]
    · exact hphase
    · exact hkind
    · exact hheld
    · exact bitOf_setBit_same _ _
  case banked =>
    intro s rail hprog hrange hon hbank
    have hno : ¬ (rail = 2 ∨ 8 < rail ∨ s.pilot.phase = .off) := by simp [hprog, hrange, hon]
    have hx : execRailOutOfRange rail s = .next { s with pilot := { s.pilot with
        railsLow := setBit s.pilot.railsLow rail, sealed := s.pilot.sealed && !(rail == 6 || rail == 7) } } := by
      unfold execRailOutOfRange
      rw [if_neg hno, if_pos hbank]
    exact ⟨_, hx, rfl⟩

/-- Settles O3: each source by what an uncommanded full reset leaves, each release by what lets the sequence go on. -/
theorem resetSourcesResetAndRelease : Obligations.ResetSourcesResetAndRelease := by
  unfold Obligations.ResetSourcesResetAndRelease
  refine ⟨?pin, ?hotReset, ?flr, ?linkDown, ?tapReset, ?tapBanked, ?pinRelease, ?sourceRelease, ?tapRelease, ?tapOther, ?tapPrivate⟩
  case pin =>
    intro s pin hreset
    have hx : execResetPinAssert pin s =
        .next ((s.setPin pin false).fullReset .uncommanded (if pin = .resetN then 1 else 2) false false false) := by
      simp only [execResetPinAssert, hreset, if_true]
    obtain ⟨hphase, hkind, -, hcause, hlog, hqueues, hrings, hports, -⟩ :=
      State.fullReset_uncommanded (s.setPin pin false) (if pin = .resetN then 1 else 2) false false
    obtain ⟨hresetN, hperstN, -⟩ :=
      State.fullReset_pins (s.setPin pin false) .uncommanded (if pin = .resetN then 1 else 2) false false false
    refine ⟨_, hx, hphase, hkind, hcause, ?_, hlog.trans ((State.setPin_only s pin false).eq_log (by decide)), hqueues, hrings, hports⟩
    rw [hresetN, hperstN]
    cases pin <;> rfl
  case hotReset =>
    intro s halive
    obtain ⟨hphase, hkind, hheld, hcause, hlog, hqueues, hrings, hports, -⟩ := State.fullReset_uncommanded s 3 true false
    exact ⟨_, if_pos halive, hphase, hkind, hheld, hcause, hlog, hqueues, hrings, hports⟩
  case flr =>
    intro s halive hserved
    have hserves : (s.pcieAlive && (s.on devStatusPcieReady || s.safeHold)) = true := by
      simpa [State.on, halive] using hserved
    obtain ⟨hphase, hkind, hheld, hcause, hlog, hqueues, hrings, hports, -⟩ := State.fullReset_uncommanded s 4 true false
    exact ⟨_, if_pos hserves, hphase, hkind, hheld, hcause, hlog, hqueues, hrings, hports⟩
  case linkDown =>
    intro s halive hup
    have hlost : (s.pcieAlive && (s.pcie.linkUp || s.pilot.phase == .ready)) = true := by
      simpa [halive] using hup
    obtain ⟨hphase, hkind, hheld, hcause, hlog, hqueues, hrings, hports, -⟩ := State.fullReset_uncommanded s 5 true false
    exact ⟨_, if_pos hlost, hphase, hkind, hheld, hcause, hlog, hqueues, hrings, hports⟩
  case tapReset =>
    intro s ir hreset hbank hfree hir
    have hon := State.phase_ne_off_of_resettable hreset
    have hx : execTapInstructionLoad ir s = .next ((s.loadTap ir).fullReset .uncommanded 0xA false false false).holdTap := by
      rw [execTapInstructionLoad_reset hon hir, if_pos (by simp [hreset, hbank, hfree])]
    obtain ⟨hphase, hkind, -, hcause, hlog, hqueues, hrings, hports, -⟩ := State.fullReset_uncommanded (s.loadTap ir) 0xA false false
    obtain ⟨-, -, -, htap, -, -⟩ := State.fullReset_pins (s.loadTap ir) .uncommanded 0xA false false false
    generalize (s.loadTap ir).fullReset .uncommanded 0xA false false false = u at *
    exact ⟨_, hx, hphase, hkind, rfl, htap, hcause, hlog, hqueues, hrings, hports⟩
  case tapBanked =>
    intro s ir hon hbank hir
    have hx : execTapInstructionLoad ir s = .next (s.loadTap ir).holdTap := by
      rw [execTapInstructionLoad_reset hon hir, if_neg (by simp [hbank])]
    exact ⟨_, hx, rfl⟩
  case pinRelease =>
    intro s pin
    obtain ⟨phase, stepTick, hpilot⟩ := State.tryReady_keeps (s.setPin pin true)
    refine ⟨_, rfl, ?_, State.setPin_resumes s pin true⟩
    rw [hpilot]
    cases pin <;> rfl
  case sourceRelease =>
    intro s hrails
    obtain ⟨phase, stepTick, hpilot⟩ := State.tryReady_keeps { s with pilot := { s.pilot with internalHeld := false } }
    refine ⟨_, if_pos hrails, ?_, State.tryReady_resumes rfl rfl rfl⟩
    rw [hpilot]
  case tapRelease =>
    intro s hon
    obtain ⟨phase, stepTick, hpilot⟩ := State.tryReady_keeps { s with pilot := { s.pilot with tapIr := 1, tapHeld := false } }
    refine ⟨_, if_neg hon, ?_, ?_, State.tryReady_resumes rfl rfl rfl⟩ <;> rw [hpilot]
  case tapOther =>
    intro s ir hon hir hbypass
    have hnotPrivate : ¬ (0x80 ≤ ir % 256 ∧ ir % 256 ≤ 0xFE ∧ s.on fzCloseCustomer = false) := by
      rintro ⟨hlow, hhigh, hopen⟩
      rcases hbypass with h | h | h
      · omega
      · omega
      · simp [hopen] at h
    have hx : execTapInstructionLoad ir s = .next (s.loadTap (ir % 256)) := by
      rw [execTapInstructionLoad_other hon hir, if_neg hnotPrivate]
    exact ⟨_, hx, rfl⟩
  case tapPrivate =>
    intro s ir hon hlow hhigh hopen
    have hir : ir % 256 ∉ tapResets := by
      simp only [tapResets, List.mem_cons, List.not_mem_nil, or_false]
      omega
    have hx : execTapInstructionLoad ir s = .refused .privateTapInstruction := by
      rw [execTapInstructionLoad_other hon hir, if_pos ⟨hlow, hhigh, hopen⟩]
    exact hx

/-- Settles O60: the machine after reset is written out; only the canonical form of its memory is a lemma. -/
theorem resetStateFollowsTheSpec : Obligations.ResetStateFollowsTheSpec := by
  unfold Obligations.ResetStateFollowsTheSpec
  refine ⟨⟨Nat.zero_le _, State.wf_reset⟩, rfl, rfl, rfl, rfl, rfl, rfl, rfl, rfl, rfl, rfl, rfl, ?_, ?_, rfl, ?_, ?_⟩
  · decide
  · decide
  · exact fun _ => rfl
  · exact fun _ _ => rfl

end

section
/-!
The quench (R80, R81, R112, R497, R565 to R571): which status fields its steps can change, what its first source begins and its last
source ends, what its stop leaves off, and the trip.
-/
namespace Sys2Proof.Machine

/-! ### Fields of DEV_STATUS and TH_STATUS (R114, R573) -/

/-- A field of DEV_STATUS or TH_STATUS. -/
def isStatus (k : Fld) : Bool := fldOff k == 0x40 || fldOff k == 0x100000

/-- From `s` to `t`, of the fields of DEV_STATUS and TH_STATUS only those listed can differ. -/
def StatusOnly (ks : List Fld) (s t : State) : Prop := ∀ k, isStatus k = true → k ∉ ks → t.f k = s.f k

section
variable {ks ls : List Fld} {s t u : State}

theorem StatusOnly.refl (ks : List Fld) (s : State) : StatusOnly ks s s := fun _ _ _ => rfl

theorem StatusOnly.trans (h : StatusOnly ks s t) (g : StatusOnly ks t u) : StatusOnly ks s u :=
  fun k hk hn => (g k hk hn).trans (h k hk hn)

theorem StatusOnly.mono (h : StatusOnly ks s t) (g : ks ⊆ ls) : StatusOnly ls s t := fun k hk hn => h k hk (fun m => hn (g m))

/-- A step that changes no status field but the listed ones. -/
theorem OnlyRegs.statusOnly (h : OnlyRegs ls s t) (g : ∀ k ∈ ls, isStatus k = true → k ∈ ks) : StatusOnly ks s t :=
  fun k hk hn => h k (fun m => hn (g k m hk))

/-- Writing the fields `fs`. -/
theorem State.setFs_status (s : State) {l : List (Fld × Nat)} (fs : List Fld) (hl : l.map (·.1) = fs)
    (g : ∀ k ∈ fs, isStatus k = true → k ∈ ks) : StatusOnly ks s (s.setFs l) :=
  (State.setFs_regs s l).statusOnly (hl ▸ g)

theorem StatusOnly.of_regs_eq (h : t.regs = s.regs) : StatusOnly ks s t := fun k _ _ => State.f_congr h k

theorem StatusOnly.withThermal (h : StatusOnly ks s t) (x : Thermal) : StatusOnly ks s ({ t with thermal := x } : State) := h

/-- A step made for each unit of a kind. -/
theorem StatusOnly.foldl_range {n : Nat} {f : State → Nat → State} (h : ∀ x, ∀ a < n, StatusOnly ks x (f x a)) :
    StatusOnly ks s ((List.range n).foldl f s) := by
  induction n with
  | zero => exact StatusOnly.refl ks s
  | succ n ih =>
    rw [List.range_succ, List.foldl_append]
    exact (ih fun x a ha => h x a (by omega)).trans (h _ n (by omega))

/-- The same, by the fields that the step can change for each unit. -/
theorem StatusOnly.foldl_regs {n : Nat} {f : State → Nat → State} {regs : Nat → List Fld} (h : ∀ x a, OnlyRegs (regs a) x (f x a))
    (g : ∀ a < n, ∀ k ∈ regs a, isStatus k = true → k ∈ ks) : StatusOnly ks s ((List.range n).foldl f s) :=
  StatusOnly.foldl_range fun x a ha => (h x a).statusOnly (g a ha)

theorem OnlyRegs.ite_refl {c : Prop} [Decidable c] (h : OnlyRegs ls s t) : OnlyRegs ls s (if c then t else s) := by
  split
  · exact h
  · exact OnlyRegs.refl ls s

end

/-! ### What ports, channels, controllers and benches change of them -/

theorem State.pauseChannels_status (s : State) : StatusOnly [] s s.pauseChannels :=
  StatusOnly.foldl_regs (fun x c => (State.setF_regs x (bmChStatusState c) 3).ite_refl) (by decide)

theorem State.resumeChannels_status (s : State) : StatusOnly [] s s.resumeChannels :=
  StatusOnly.foldl_regs (fun x c => (State.setF_regs x (bmChStatusState c) 1).ite_refl) (by decide)

theorem State.quenchPorts_status (s : State) : StatusOnly [] s s.quenchPorts :=
  StatusOnly.foldl_regs (fun x p => State.stopPort_regs x p 1 true) (by decide)

theorem State.trainPorts_status (s : State) : StatusOnly [] s s.trainPorts := by
  unfold State.trainPorts
  split
  · exact StatusOnly.refl _ _
  · exact StatusOnly.foldl_regs
      (fun x p => (((State.endNotice_regs x p).mono (List.nil_subset _)).trans (State.startSeries_regs _ p)).ite_refl) (by decide)

theorem State.narrowPorts_status (s : State) : StatusOnly [thStatusNarrowed] s s.narrowPorts := by
  unfold State.narrowPorts
  refine StatusOnly.foldl_range fun x p hp => ?_
  split
  next hwide =>
    refine ((State.shortRetrainOn_regs x p _).statusOnly ?_).trans
      ((StatusOnly.of_regs_eq rfl).trans ((State.setF_regs _ _ _).statusOnly (by decide)))
    clear hwide
    revert p
    decide
  next => exact StatusOnly.refl _ _

theorem State.sleepPcs_status (s : State) : StatusOnly [] s s.sleepPcs :=
  StatusOnly.foldl_regs (regs := fun n => [mcPcStatusState n, mcPcQueueWq n, mcPcQueueRq n, mcPcQueueWqPeak n, mcPcQueueRqPeak n])
    (fun x n => by simp) (by decide)

theorem State.wakeControllers_status (s : State) : StatusOnly [] s s.wakeControllers :=
  StatusOnly.foldl_regs (fun x n => (State.setF_regs x (mcPcStatusState n) 0).ite_refl) (by decide)

theorem State.report_status (s : State) (e : LogEvent) : StatusOnly [] s (s.report e) :=
  (State.report_regs s e).statusOnly (by decide)

/-! ### The quench begins (R566, R568) -/

/-- After QUENCHED is set, no further step of the beginning changes a status field. -/
theorem State.quenchBegin_afterSet (s : State) :
    StatusOnly [] (s.setFs [(thStatusQuenched, 1), (thQuenchTick, s.now), (fxStatusPaused, 1)]) s.quenchBegin := by
  unfold State.quenchBegin
  dsimp only
  refine StatusOnly.trans ((State.bump_regs _ thCountQuenches 16).statusOnly (by decide)) ?_
  exact ((State.pauseChannels_status _).trans (State.quenchPorts_status _)).withThermal _

@[simp] theorem State.quenchBegin_quenched (s : State) : s.quenchBegin.quenched = true := by
  have h := State.quenchBegin_afterSet s thStatusQuenched (by decide) (by decide)
  rw [State.setFs_cons, State.f_setFs_other _ _ (show _ ∉ [thQuenchTick, fxStatusPaused] by decide), State.f_setF_same] at h
  simp [State.quenched, State.on, h]

theorem State.quenchBegin_status (s : State) : StatusOnly [thStatusQuenched] s s.quenchBegin :=
  (State.setFs_status s [thStatusQuenched, thQuenchTick, fxStatusPaused] rfl (by decide)).trans
    ((State.quenchBegin_afterSet s).mono (List.nil_subset _))

theorem State.quenched_congr {s t : State} (h : t.f thStatusQuenched = s.f thStatusQuenched) : t.quenched = s.quenched := by
  unfold State.quenched State.on
  rw [h]

theorem State.addSource_sources (s : State) (b : Nat) : (s.addSource b).f thStatusSources = setBit (s.f thStatusSources) b := by
  unfold State.addSource
  dsimp only
  split
  · exact State.f_setF_same _ _ _
  · rw [State.quenchBegin_status _ _ (by decide) (by decide), State.f_setF_same]

theorem State.addSource_quenched (s : State) (b : Nat) : (s.addSource b).quenched = true := by
  unfold State.addSource
  dsimp only
  split
  · next hq => rw [← hq]; exact State.quenched_congr (State.f_setF_other _ _ (by decide))
  · exact State.quenchBegin_quenched _

theorem State.addSource_status (s : State) (b : Nat) : StatusOnly [thStatusSources, thStatusQuenched] s (s.addSource b) := by
  have hset : StatusOnly [thStatusSources, thStatusQuenched] s (s.setF thStatusSources (setBit (s.f thStatusSources) b)) :=
    (State.setF_regs s _ _).statusOnly (by decide)
  unfold State.addSource
  dsimp only
  split
  · exact hset
  · exact hset.trans ((State.quenchBegin_status _).mono (by decide))

/-- A further source of a quench only shows. -/
theorem State.addSource_of_quenched {s : State} (b : Nat) (h : s.quenched = true) :
    s.addSource b = s.setF thStatusSources (setBit (s.f thStatusSources) b) := if_pos h

/-! ### The stop (R568) -/

/-- The end of `quenchStopped`: benches, lane groups and their clocks go off, TH_ALERT shows the quench, and its beginning is reported. -/
def State.stopReport (s : State) : State :=
  let u := (s.removeDomains quenchPower quenchClocks).setF thAlert (setBit (s.f thAlert) 0)
  (u.report { pre := .th, code := 0x02, severity := 1, vector := some 1, data := toTwos 16 (u.layer (u.f thStatusHottest)).temp }).pulseSource
    0x405

/-- The beginning of `quenchStopped`: the domains are closed, and the pseudo-channels have entered self-refresh. -/
def State.asleep (s : State) : State :=
  let t := (({ s with thermal := { s.thermal with stopPending := false } }).closeDomains quenchPower quenchClocks).sleepPcs
  { t with dom := { t.dom with draining := s.dom.draining } }

theorem State.quenchStopped_pending {s : State} (h : s.thermal.stopPending = true) : s.quenchStopped = s.asleep.stopReport := by
  unfold State.quenchStopped
  rw [if_neg (by simp [h])]
  rfl

theorem State.stopReport_regs (s : State) : OnlyRegs [plPwrOn, plClkActive, teBenchPowered, teBenchRunning, thAlert, elFirst, elNext, elLost,
    elStatusAlertPend] s s.stopReport := by
  simp [State.stopReport]

theorem State.asleep_status (s : State) : StatusOnly [] s s.asleep := State.sleepPcs_status _

theorem State.quenchStopped_status (s : State) : StatusOnly [] s s.quenchStopped := by
  cases h : s.thermal.stopPending
  · rw [State.quenchStopped, if_pos (by simp [h])]
    exact StatusOnly.refl _ _
  · rw [State.quenchStopped_pending h]
    exact (State.asleep_status s).trans ((State.stopReport_regs _).statusOnly (by decide))

/-- The end of a quench clears QUENCHED, and its other steps change no status field. -/
theorem State.quenchEnd_clears (s : State) :
    ∃ a : State, StatusOnly [thStatusQuenched] s a ∧ a.f thStatusQuenched = 0 ∧ StatusOnly [] a s.quenchEnd := by
  have hstop := (State.quenchStopped_status s).mono (List.nil_subset [thStatusQuenched])
  unfold State.quenchEnd
  dsimp only
  split
  · exact ⟨_, hstop.trans ((State.setF_regs _ _ _).statusOnly (by decide)), State.f_setF_same _ thStatusQuenched 0,
      (State.reportQuenchEnd_regs _).statusOnly (by decide)⟩
  · refine ⟨_, ?sets, ?clears, (State.wakeControllers_status _).trans (((State.wakeBenches_regs _).statusOnly (by decide)).trans
      ((State.resumeChannels_status _).trans (((State.syncFloor_regs _).statusOnly (by decide)).trans
        (((State.reportQuenchEnd_regs _).statusOnly (by decide)).trans (State.trainPorts_status _)))))⟩
    case sets =>
      exact hstop.trans (((State.openDomains_regs _ _ _).statusOnly (by decide)).trans
        (State.setFs_status _ [thStatusQuenched, fxStatusPaused, plPwrOn, plClkActive] rfl (by decide)))
    case clears =>
      rw [State.setFs_cons, State.f_setFs_other _ _ (show _ ∉ [fxStatusPaused, plPwrOn, plClkActive] by decide), State.f_setF_same]

theorem State.quenchEnd_quenched (s : State) : s.quenchEnd.quenched = false := by
  obtain ⟨a, -, ha, hend⟩ := State.quenchEnd_clears s
  rw [State.quenched_congr (hend _ (by decide) (by decide))]
  simp [State.quenched, State.on, ha]

theorem State.quenchEnd_status (s : State) : StatusOnly [thStatusQuenched] s s.quenchEnd := by
  obtain ⟨a, hset, -, hend⟩ := State.quenchEnd_clears s
  exact hset.trans (hend.mono (List.nil_subset _))

/-! ### The last source (R569) -/

theorem State.dropSource_sources (s : State) (b : Nat) : (s.dropSource b).f thStatusSources = clearBit (s.f thStatusSources) b := by
  unfold State.dropSource
  dsimp only
  split
  · rw [State.quenchEnd_status _ _ (by decide) (by decide), State.f_setF_same]
  · exact State.f_setF_same _ _ _

theorem State.dropSource_status (s : State) (b : Nat) : StatusOnly [thStatusSources, thStatusQuenched] s (s.dropSource b) := by
  have hset : StatusOnly [thStatusSources, thStatusQuenched] s (s.setF thStatusSources (clearBit (s.f thStatusSources) b)) :=
    (State.setF_regs s _ _).statusOnly (by decide)
  unfold State.dropSource
  dsimp only
  split
  · exact hset.trans ((State.quenchEnd_status _).mono (by decide))
  · exact hset

/-- While another source is left, a source that ends only goes from SOURCES. -/
theorem State.dropSource_of_left {s : State} {b : Nat} (h : (s.dropSource b).f thStatusSources ≠ 0) :
    s.dropSource b = s.setF thStatusSources (clearBit (s.f thStatusSources) b) := by
  rw [State.dropSource_sources] at h
  simp [State.dropSource, h]

/-- With the last source the quench ends. -/
theorem State.dropSource_last {s : State} {b : Nat} (h : (s.dropSource b).f thStatusSources = 0) : (s.dropSource b).quenched = false := by
  rw [State.dropSource_sources] at h
  unfold State.dropSource
  dsimp only
  split
  · exact State.quenchEnd_quenched _
  · next hq =>
    rw [State.quenched_congr (State.f_setF_other _ _ (by decide))]
    simpa [h] using hq

/-! ### The device level (R563 to R565) -/

/-- A rise of the level is reported, a small one only to vector 1. -/
def State.tellRise (s : State) (old new : Nat) : State :=
  if old < new ∧ 2 ≤ new then
    (if old < 2 then s.bump thCountThrottles 16 else s).report
      { pre := .th, code := 0x01, severity := 1, vector := some 1, unitKind := 9, unit := s.f thStatusHottest,
        data := toTwos 16 (s.layer (s.f thStatusHottest)).temp }
  else if old < new then s.vector 1
  else s

theorem State.tellRise_status (s : State) (old new : Nat) : StatusOnly [] s (s.tellRise old new) := by
  unfold State.tellRise
  split
  · exact ((State.bump_regs s thCountThrottles 16).ite_refl.statusOnly (by decide)).trans (State.report_status _ _)
  · exact (State.vector_regs s 1).ite_refl.statusOnly (by decide)

theorem State.setDeviceLevel_eq (s : State) (new : Nat) :
    s.setDeviceLevel new = if new = s.f thStatusLevel then s
      else
        let u := ((s.setF thStatusLevel new).pulseSource 0x403).tellRise (s.f thStatusLevel) new
        if 4 ≤ new ∧ s.f thStatusLevel < 4 ∧ u.on thCfgNarrowEn = true ∧ u.quenched = false then u.narrowPorts else u := rfl

theorem State.setDeviceLevel_status (s : State) (new : Nat) :
    StatusOnly [thStatusLevel, thStatusNarrowed] s (s.setDeviceLevel new) := by
  have htold : StatusOnly [thStatusLevel, thStatusNarrowed] s
      (((s.setF thStatusLevel new).pulseSource 0x403).tellRise (s.f thStatusLevel) new) :=
    ((State.setF_regs _ _ _).statusOnly (by decide)).trans (((State.pulseSource_regs _ _).statusOnly (by decide)).trans
      ((State.tellRise_status _ _ _).mono (List.nil_subset _)))
  rw [State.setDeviceLevel_eq]
  dsimp only
  generalize ((s.setF thStatusLevel new).pulseSource 0x403).tellRise (s.f thStatusLevel) new = u at htold ⊢
  split
  · exact StatusOnly.refl _ _
  · split
    · exact htold.trans (u.narrowPorts_status.mono (by simp))
    · exact htold

/-! ### The end of the thermal source (R112, R567) -/

/-- The stage of a step is never the one of a stopped sequence. -/
theorem State.bootStage_ne_stopped (s : State) : s.bootStage ≠ 0xB := by
  unfold State.bootStage
  (repeat' split) <;> omega

/-- A sequence that goes on shows the stage of its step. -/
def State.resumeStage (s : State) : State := if s.bootStopped then s.setF devStatusStage s.bootStage else s

theorem State.bootStopped_congr {s t : State} (h : t.f devStatusStage = s.f devStatusStage) : t.bootStopped = s.bootStopped := by
  unfold State.bootStopped
  rw [h]

theorem State.resumeStage_bootStopped (s : State) : s.resumeStage.bootStopped = false := by
  unfold State.resumeStage
  split
  · simpa [State.bootStopped] using s.bootStage_ne_stopped
  · next h => simpa using h

/-- No layer is at the quench level any more. -/
def State.coolLayers (s : State) : State :=
  s.presentLayers.foldl (fun t l =>
    if (t.layer l).level = 5 then t.setLayer l { t.layer l with level := t.nextLevel l 4 (t.layer l).temp } else t) s

theorem State.coolLayers_only (s : State) : Only [.layers] s s.coolLayers := by
  simp [State.coolLayers]

/-- The layers have cooled: the level follows, and a sequence stopped at the quench level goes on. -/
def State.cooled (s : State) : State := (s.coolLayers.setDeviceLevel s.coolLayers.maxLevel).resumeStage

theorem State.cooled_status (s : State) : StatusOnly [thStatusLevel, thStatusNarrowed, devStatusStage] s s.cooled := by
  have hlayers : StatusOnly [thStatusLevel, thStatusNarrowed, devStatusStage] s s.coolLayers :=
    StatusOnly.of_regs_eq ((State.coolLayers_only s).eq_regs (by decide))
  have hlevel := (State.setDeviceLevel_status s.coolLayers s.coolLayers.maxLevel).mono
    (show _ ⊆ [thStatusLevel, thStatusNarrowed, devStatusStage] by simp)
  exact (hlayers.trans hlevel).trans ((State.setF_regs _ devStatusStage _).ite_refl.statusOnly (by decide))

theorem execQuenchThermalEnd_cooled {s : State} (h : ∀ l ∈ s.presentLayers, s.quenchValue l ≤ s.threshold (isDram l) 5 - celsius 10) :
    execQuenchThermalEnd s = .next (if bitOf (s.cooled.f thStatusSources) 0 then s.cooled.dropSource 0 else s.cooled) := by
  have hcool : ¬ (s.presentLayers.any fun l => decide (s.threshold (isDram l) 5 - celsius 10 < s.quenchValue l)) = true := by
    simpa using h
  unfold execQuenchThermalEnd
  rw [if_neg hcool, apply_ite Host.Outcome.next]
  rfl

/-! ### Requests of the rings (R496, R497) -/

theorem ringRegs_not_status (r : Nat) : ∀ k ∈ ringRegs r, isStatus k = false := by
  simp [ringRegs, isStatus, fldOff, fld, hcCqTailIndex, hcCqTailPhase, hcRingStatusInFlight, hcRingStatusIdle, hcRingStatusWaiting]
  omega

theorem State.done_status (s : State) (e : Sqe) (status result : Nat) : StatusOnly [] s (s.done e status result) :=
  OnlyRegs.statusOnly (ls := ringRegs e.ring) (State.done_regs s e status result)
    (fun k hk hstatus => by simp [ringRegs_not_status _ k hk] at hstatus)

theorem execQuenchReq_running {s : State} {e : Sqe} (h : Running e s) :
    execQuenchReq e s = .next ((if e.bit 16 0 then s.addSource 2 else s.dropSource 2).done e stOk
      (packBytes [(0, 1, (if e.bit 16 0 then s.addSource 2 else s.dropSource 2).f thStatusSources)])) :=
  runCommand_running (c := ⟨0x244, false, true, .runs, false, [(16, 0, 1)]⟩) (by decide) h (fun _ => rfl)

/-- A command stays in execution while a field of TH_STATUS changes, and its completion is the same. -/
theorem Running.setSources {s : State} {e : Sqe} (v : Nat) (h : Running e s) : Running e (s.setF thStatusSources v) := by
  obtain ⟨hhalted, hlive⟩ := h
  refine ⟨?_, hlive⟩
  rw [← hhalted]
  unfold State.halted State.safeHold State.banked State.on
  rw [State.f_setF_other _ _ (by decide), State.f_setF_other _ _ (by decide)]

theorem Posts.of_setSources {s t : State} {e : Sqe} {v status result : Nat} {hosts : List Output}
    (h : Posts e status result hosts (s.setF thStatusSources v) t) : Posts e status result hosts s t := by
  have hnext : nextCompletion e status result (s.setF thStatusSources v) = nextCompletion e status result s := by
    unfold nextCompletion
    rw [State.f_setF_other, State.f_setF_other, State.f_setF_other] <;> exact fld_ne (by omega)
  unfold Posts at h ⊢
  rw [hnext] at h
  exact h

/-! ### What the stop leaves off (R568) -/

theorem bitOf_sub_and (v m i : Nat) : bitOf (v - (v &&& m)) i = (bitOf v i && !bitOf m i) := by
  simp only [bitOf_eq_testBit]
  have hle (v m : Nat) : v &&& m ≤ v := Nat.and_le_left
  have hone (v m : Nat) : (v &&& m) % 2 = 1 ↔ v % 2 = 1 ∧ m % 2 = 1 := Nat.and_mod_two_eq_one
  induction i generalizing v m with
  | zero =>
    have hlow : (v - (v &&& m)) % 2 = 1 ↔ v % 2 = 1 ∧ ¬ m % 2 = 1 := by
      have := hle v m
      have := hone v m
      omega
    rw [Bool.eq_iff_iff]
    simp [Nat.testBit_zero, hlow]
  | succ i ih =>
    have hhalf : (v - (v &&& m)) / 2 = v / 2 - (v / 2 &&& m / 2) := by
      have := hle v m
      have := hone v m
      have : (v &&& m) / 2 = v / 2 &&& m / 2 := Nat.and_div_two
      omega
    rw [Nat.testBit_succ, Nat.testBit_succ, Nat.testBit_succ, hhalf, ih]

/-- A bit that is removed is off. -/
theorem bitOf_removed {m i : Nat} (v : Nat) (h : bitOf m i = true) : bitOf (v - (v &&& m)) i = false := by
  simp [bitOf_sub_and, h]

theorem State.removeDomains_fields (s : State) (power clocks : Nat) :
    let t := s.removeDomains power clocks
    t.f plPwrOn = s.f plPwrOn - (s.f plPwrOn &&& power) ∧
      t.f teBenchPowered = s.f teBenchPowered - (s.f teBenchPowered &&& (power / 2 ^ 21 % 256)) ∧
      t.f teBenchRunning = s.f teBenchRunning - (s.f teBenchRunning &&& ((power / 2 ^ 21 ||| clocks / 2 ^ 22) % 256)) := by
  simp [State.removeDomains, State.f_setF, plPwrOn, plClkActive, teBenchPowered, teBenchRunning, fld]

theorem State.stopReport_removes (s : State) : OnlyRegs (thAlert :: logRegs) (s.removeDomains quenchPower quenchClocks) s.stopReport := by
  simp [State.stopReport, logRegs]

/-- Neither the benches nor the lane groups are powered, and no bench runs. -/
theorem State.stopReport_off (s : State) :
    (∀ b, b < 8 → bitOf (s.stopReport.f teBenchPowered) b = false ∧ bitOf (s.stopReport.f teBenchRunning) b = false) ∧
      (∀ d, (3 ≤ d ∧ d ≤ 18) ∨ (21 ≤ d ∧ d ≤ 28) → bitOf (s.stopReport.f plPwrOn) d = false) := by
  obtain ⟨hpower, hpowered, hrunning⟩ := State.removeDomains_fields s quenchPower quenchClocks
  have hbench : ∀ b < 8, bitOf (quenchPower / 2 ^ 21 % 256) b = true ∧
      bitOf ((quenchPower / 2 ^ 21 ||| quenchClocks / 2 ^ 22) % 256) b = true := by decide
  have hdomain : ∀ d < 29, (3 ≤ d ∧ d ≤ 18) ∨ (21 ≤ d ∧ d ≤ 28) → bitOf quenchPower d = true := by decide
  rw [State.stopReport_removes s _ (by decide), State.stopReport_removes s _ (by decide), State.stopReport_removes s _ (by decide),
    hpower, hpowered, hrunning]
  exact ⟨fun b hb => ⟨bitOf_removed _ (hbench b hb).1, bitOf_removed _ (hbench b hb).2⟩,
    fun d hd => bitOf_removed _ (hdomain d (by omega) hd)⟩

theorem State.stopReport_newest (s : State) : Newest s.stopReport .th 0x02 0xFF := by
  unfold State.stopReport Newest
  dsimp only
  rw [State.pulseSource_keeps_log]
  exact State.report_newest _ _

@[simp] theorem State.stopReport_thermal (s : State) : s.stopReport.thermal = s.thermal := by
  simp [State.stopReport, (State.removeDomains_only s _ _).eq_thermal]

theorem State.asleep_stopPending (s : State) : s.asleep.thermal.stopPending = false := by
  have h := (State.sleepPcs_only (({ s with thermal := { s.thermal with stopPending := false } }).closeDomains quenchPower
    quenchClocks)).eq_thermal (by decide)
  unfold State.asleep
  dsimp only
  rw [h]
  rfl

/-! ### The trip (R542, R571) -/

theorem State.stopPulse_job (s : State) : s.stopPulse.trust.job = none := by
  unfold State.stopPulse
  split
  · next h => exact h
  · dsimp only
    split <;> rfl

theorem State.holdStack_pilot (s : State) : s.holdStack.pilot = { s.pilot with stackHold := true } := by
  unfold State.holdStack
  refine Only.eq_pilot (ps := [.regs, .pcs]) (Only.foldlI _ _ (fun x n => ?_) (Only.refl _ _)) (by decide)
  simp

end Sys2Proof.Machine

open Sys2Proof Sys2Proof.Machine

/-- Settles O11: the sources by what `addSource` and `dropSource` do to SOURCES and QUENCHED, the stop by what it removes, the end of the
thermal source by `cooled`, and the trip by its three steps. -/
theorem quenchFollowsItsSources : Obligations.QuenchFollowsItsSources := by
  unfold Obligations.QuenchFollowsItsSources
  refine ⟨?holdEarly, ?holdLow, ?holdHigh, ?holdLong, ?request, ?withdraw, ?stop, ?thermalEnd, ?restore, ?trip⟩
  case holdEarly =>
    intro s low hphase
    exact ⟨_, if_pos hphase, rfl⟩
  case holdLow =>
    intro s hphase hfree
    have hx : execHoldNChange true s =
        .next ((({ s with pilot := { s.pilot with holdN := false } }).setF thStatusHoldActive 1).addSource 1) := by
      simp [execHoldNChange, hphase, hfree]
    refine ⟨_, hx, ?_, ?_, State.addSource_quenched _ _, ?_, ?_⟩
    · rw [State.addSource_status _ _ _ (by decide) (by decide), State.f_setF_same]
    · rw [State.addSource_sources]
      exact bitOf_setBit_same _ _
    · exact (State.addSource_only _ _).eq_pilot (by decide)
    · intro hq
      have hq' : ((({ s with pilot := { s.pilot with holdN := false } }).setF thStatusHoldActive 1)).quenched = true := by
        rw [← hq]
        exact State.quenched_congr (State.f_setF_other _ _ (by decide))
      rw [State.addSource_of_quenched _ hq']
      exact ⟨rfl, rfl⟩
  case holdHigh =>
    intro s hphase hactive
    have hx : execHoldNChange false s =
        .next ((({ s with pilot := { s.pilot with holdN := true } }).setF thStatusHoldActive 0).dropSource 1) := by
      simp [execHoldNChange, hphase, hactive]
    refine ⟨_, hx, ?_, ?_, State.dropSource_last, ?_⟩
    · rw [State.dropSource_status _ _ _ (by decide) (by decide), State.f_setF_same]
    · rw [State.dropSource_sources]
      exact bitOf_clearBit_same _ _
    · intro hleft
      rw [State.dropSource_of_left hleft]
      exact State.quenched_congr (by rw [State.f_setF_other _ _ (by decide), State.f_setF_other _ _ (by decide)]; rfl)
  case holdLong =>
    intro s hactive
    have hx : execHoldNLong s = .next ((s.setF thAlert (setBit (s.f thAlert) 3)).report
        { pre := .th, code := 0x06, severity := 1, vector := some 1, data := toTwos 16 (s.layer (s.f thStatusHottest)).temp }) :=
      if_pos hactive
    refine ⟨_, hx, ?_, State.report_newest _ _, ?_, ?_⟩
    · rw [State.report_regs _ _ _ (by decide), State.f_setF_same]
      exact bitOf_setBit_same _ _
    · simp [logParts]
    · simp [logRegs]
  case request =>
    intro s e hrun hbit
    have hx := execQuenchReq_running hrun
    rw [if_pos hbit] at hx
    have hdone := State.done_status (s.addSource 2) e stOk (packBytes [(0, 1, (s.addSource 2).f thStatusSources)])
    have hsources := hdone thStatusSources (by decide) (by decide)
    refine ⟨_, hx, ?_, ?_, ?_, ?_⟩
    · rw [State.quenched_congr (hdone _ (by decide) (by decide))]
      exact State.addSource_quenched s 2
    · rw [hsources, State.addSource_sources]
      exact bitOf_setBit_same _ _
    · rw [State.done_keeps_tables]
      exact (State.addSource_only s 2).eq_tables (by decide)
    · intro hq
      rw [hsources]
      generalize (s.addSource 2).f thStatusSources = v
      rw [State.addSource_of_quenched 2 hq]
      exact (State.done_posts _ (hrun.setSources _) (by decide)).of_setSources
  case withdraw =>
    intro s e hrun hbit
    have hx := execQuenchReq_running hrun
    rw [if_neg (by simp [hbit])] at hx
    have hdone := State.done_status (s.dropSource 2) e stOk (packBytes [(0, 1, (s.dropSource 2).f thStatusSources)])
    have hsources := hdone thStatusSources (by decide) (by decide)
    have hquenched := State.quenched_congr (hdone thStatusQuenched (by decide) (by decide))
    refine ⟨_, hx, ?_, ?_, ?_⟩
    · rw [hsources, State.dropSource_sources]
      exact bitOf_clearBit_same _ _
    · rw [hsources, hquenched]
      exact State.dropSource_last
    · rw [hsources, hquenched]
      intro hleft
      rw [State.dropSource_of_left hleft]
      exact ⟨State.quenched_congr (State.f_setF_other _ _ (by decide)), by simp [ringParts]⟩
  case stop =>
    intro s hquiesce hhalted hpending hdrained hthreads
    have hx : execQuenchStopComplete s = .next s.drainStack.quenchStopped := by
      simp [execQuenchStopComplete, hquiesce, hhalted, hpending, hdrained, hthreads]
    have hp : s.drainStack.thermal.stopPending = true := by
      rw [(State.drainStack_only s).eq_thermal (by decide)]
      exact hpending
    rw [State.quenchStopped_pending hp] at hx
    obtain ⟨hbenches, hdomains⟩ := State.stopReport_off s.drainStack.asleep
    refine ⟨_, hx, ?_, hbenches, hdomains, State.stopReport_newest _⟩
    rw [State.stopReport_thermal]
    exact State.asleep_stopPending _
  case thermalEnd =>
    intro s hcool
    have hsources := State.cooled_status s thStatusSources (by decide) (by decide)
    have hstage : s.cooled.bootStopped = false := State.resumeStage_bootStopped _
    refine ⟨_, execQuenchThermalEnd_cooled hcool, ?_, ?_, ?_⟩
    · split
      next => rw [State.dropSource_sources]; exact bitOf_clearBit_same _ _
      next hno => simpa using hno
    · split
      next => rw [← hstage]; exact State.bootStopped_congr (State.dropSource_status _ _ _ (by decide) (by decide))
      next => exact hstage
    · intro _ hnone hthermal
      rw [← hsources] at hthermal
      rw [if_pos hthermal] at hnone ⊢
      exact State.dropSource_last hnone
  case restore =>
    intro s hnarrowed hlevel
    refine ⟨_, if_pos (by simp [hnarrowed, hlevel]), State.f_setF_same _ _ _, rfl, ?_⟩
    intro hq
    rw [if_pos (by simp [hq])]
    rfl
  case trip =>
    intro s n hn hon
    have hx : execTrip n s = .next (({ s with pilot := { s.pilot with thermtrip := true } }).stopPulse.holdStack.idlePorts) :=
      if_neg (by simp [hn, hon])
    have hpilot := State.holdStack_pilot ({ s with pilot := { s.pilot with thermtrip := true } } : State).stopPulse
    rw [(State.stopPulse_only _).eq_pilot (by decide)] at hpilot
    refine ⟨_, hx, ?_, ?_, ?_⟩
    · rw [(State.idlePorts_only _).eq_pilot (by decide), hpilot]
    · rw [(State.idlePorts_only _).eq_pilot (by decide), hpilot]
    · rw [(State.idlePorts_only _).eq_trust (by decide), (State.holdStack_only _).eq_trust (by decide)]
      exact State.stopPulse_job _
end

section
/-!
The frame of every command (R105, R198, R489, R616): the frame of each meaning, put together by the dispatch.
-/
namespace Sys2Proof.Machine

/-- What a command may change: the parts that its meaning may change. -/
theorem exec_only {c : Instr} {s t : State} (h : exec c s = .next t) : Only (touched c) s t := by
  cases c with
  | vddAoRise => exact execVddAoRise_only h
  | vddAoFall => exact execVddAoFall_only h
  | railsInTolerance => exact execRailsInTolerance_only h
  | railCheckRetry => exact execRailCheckRetry_only h
  | railOutOfRange => exact execRailOutOfRange_only h
  | strapSample => exact execStrapSample_only h
  | refwaitExpiry => exact execRefwaitExpiry_only h
  | refclkStartupCheck => exact execRefclkStartupCheck_only h
  | resetPinAssert => exact execResetPinAssert_only h
  | resetPinRelease => exact execResetPinRelease_only h
  | coldStartSequence => exact execColdStartSequence_only h
  | layerDiscoveryTimeout => exact execLayerDiscoveryTimeout_only h
  | pcieHotReset => exact execPcieHotReset_only h
  | pcieFlr => exact execPcieFlr_only h
  | pcieLinkDown => exact execPcieLinkDown_only h
  | resetSourceRelease => exact execResetSourceRelease_only h
  | heldRestartSequence => exact execHeldRestartSequence_only h
  | firmwareReverifyDone => exact execFirmwareReverifyDone_only h
  | quiesceComplete => exact execQuiesceComplete_only h
  | quiesceTimeout => exact execQuiesceTimeout_only h
  | preserveResetDelay => exact execPreserveResetDelay_only h
  | tapInstructionLoad => exact execTapInstructionLoad_only h
  | tapTestLogicReset => exact execTapTestLogicReset_only h
  | oscTrim => exact execOscTrim_only h
  | refclkMissingEdge => exact execRefclkMissingEdge_only h
  | refclkFreqWindow => exact execRefclkFreqWindow_only h
  | clockSwitchForced => exact execClockSwitchForced_only h
  | clockSwitchFailed => exact execClockSwitchFailed_only h
  | clockGateClose => exact execClockGateClose_only h
  | clockGateOpen => exact execClockGateOpen_only h
  | domainAutoOff => exact execDomainAutoOff_only h
  | domainWake => exact execDomainWake_only h
  | benchMicrocodeLoaded => exact execBenchMicrocodeLoaded_only h
  | forcedClosureDrainEnd => exact execForcedClosureDrainEnd_only h
  | ptmDialog => exact execPtmDialog_only h
  | ptmResponse => exact execPtmResponse_only h
  | ptmResponseTimeout => exact execPtmResponseTimeout_only h
  | timesyncEdge => exact execTimesyncEdge_only h
  | timesyncStuck => exact execTimesyncStuck_only h
  | tbTimeLoRead => exact execTbTimeLoRead_only h
  | loRegisterRead => exact execLoRegisterRead_only h
  | holdNChange => exact execHoldNChange_only h
  | holdNLong => exact execHoldNLong_only h
  | thermalSample => exact execThermalSample_only h
  | sensorRecover => exact execSensorRecover_only h
  | canaryTest => exact execCanaryTest_only h
  | narrowRestore => exact execNarrowRestore_only h
  | quenchStopComplete => exact execQuenchStopComplete_only h
  | quenchThermalEnd => exact execQuenchThermalEnd_only h
  | trip => exact execTrip_only h
  | laneDetectorChange => exact execLaneDetectorChange_only h
  | trainingFrameRx => exact execTrainingFrameRx_only h
  | trainStateExit => exact execTrainStateExit_only h
  | trainStateTimer => exact execTrainStateTimer_only h
  | attemptIdleEnd => exact execAttemptIdleEnd_only h
  | linkLost => exact execLinkLost_only h
  | warmIdleTimer => exact execWarmIdleTimer_only h
  | bankedIdleTimer => exact execBankedIdleTimer_only h
  | warmExit => exact execWarmExit_only h
  | bankedExit => exact execBankedExit_only h
  | bankedFastPathTimeout => exact execBankedFastPathTimeout_only h
  | dataCodewordRx => exact execDataCodewordRx_only h
  | framingCodewordRx => exact execFramingCodewordRx_only h
  | resyncCodewordRx => exact execResyncCodewordRx_only h
  | linkUpdateRx => exact execLinkUpdateRx_only h
  | linkUpdateSend => exact execLinkUpdateSend_only h
  | nakRetryTimeout => exact execNakRetryTimeout_only h
  | replayTimeout => exact execReplayTimeout_only h
  | init => exact execInit_only h
  | pwrReq => exact execPwrReq_only h
  | pwrAck => exact execPwrAck_only h
  | pwrRefuse => exact execPwrRefuse_only h
  | pwrReqTimeout => exact execPwrReqTimeout_only h
  | downNoticeTimeout => exact execDownNoticeTimeout_only h
  | requestCrcFail => exact execRequestCrcFail_only h
  | unknownDataOpcode => exact execUnknownDataOpcode_only h
  | enq => exact execEnq_only h
  | enqCommit => exact execEnqCommit_only h
  | deq => exact execDeq_only h
  | peek => exact execPeek_only h
  | dropHead => exact execDropHead_only h
  | qstat => exact execQstat_only h
  | lookup => exact execLookup_only h
  | lookupMulti => exact execLookupMulti_only h
  | cntAdd => exact execCntAdd_only h
  | cntRead => exact execCntRead_only h
  | cntReadClear => exact execCntReadClear_only h
  | mark => exact execMark_only h
  | markPass => exact execMarkPass_only h
  | echo => exact execEcho_only h
  | snapshotReq => exact execSnapshotReq_only h
  | snapshotComplete => exact execSnapshotComplete_only h
  | engineOpStart => exact execEngineOpStart_only h
  | replySend => exact execReplySend_only h
  | configRequest => exact execConfigRequest_only h
  | bar0BadAccess => exact execBar0BadAccess_only h
  | registerWrite => exact execRegisterWrite_only h
  | stagingWindowRead => exact execStagingWindowRead_only h
  | stagingWindowWrite => exact execStagingWindowWrite_only h
  | ringEnable => exact execRingEnable_only h
  | ringDisable => exact execRingDisable_only h
  | sqTailDoorbell => exact execSqTailDoorbell_only h
  | cqHeadDoorbell => exact execCqHeadDoorbell_only h
  | ringEntryFetch => exact execRingEntryFetch_only h
  | ringEntryStart => exact execRingEntryStart_only h
  | hostReadFail => exact execHostReadFail_only h
  | msixModerationTimer => exact execMsixModerationTimer_only h
  | msixUnmask => exact execMsixUnmask_only h
  | pcieL1Entry => exact execPcieL1Entry_only h
  | d3hotEntry => exact execD3hotEntry_only h
  | d0Return => exact execD0Return_only h
  | devIdentify => exact execDevIdentify_only h
  | devHealth => exact execDevHealth_only h
  | powerInfo => exact execPowerInfo_only h
  | devReset => exact execDevReset_only h
  | recoveryReport => exact execRecoveryReport_only h
  | expertEnter => exact execExpertEnter_only h
  | expertLeave => exact execExpertLeave_only h
  | errlogRead => exact execErrlogRead_only h
  | errlogClear => exact execErrlogClear_only h
  | nop => exact execNop_only h
  | queueCfg => exact execQueueCfg_only h
  | queueRemove => exact execQueueRemove_only h
  | queueFlush => exact execQueueFlush_only h
  | queueChangeApply => exact execQueueChangeApply_only h
  | queueInfo => exact execQueueInfo_only h
  | snapshotTake => exact execSnapshotTake_only h
  | snapshotRead => exact execSnapshotRead_only h
  | queueReserve => exact execQueueReserve_only h
  | qmPrefetch => exact execQmPrefetch_only h
  | tableCreate => exact execTableCreate_only h
  | tableDelete => exact execTableDelete_only h
  | tableRowsReturn => exact execTableRowsReturn_only h
  | tableInfo => exact execTableInfo_only h
  | tableResize => exact execTableResize_only h
  | cntDump => exact execCntDump_only h
  | tableTune => exact execTableTune_only h
  | tableUpdate => exact execTableUpdate_only h
  | tableImage => exact execTableImage_only h
  | tableCommit => exact execTableCommit_only h
  | imageBuildDone => exact execImageBuildDone_only h
  | commitEffectTick => exact execCommitEffectTick_only h
  | commitCutTimeout => exact execCommitCutTimeout_only h
  | versionRowsRelease => exact execVersionRowsRelease_only h
  | tableAbort => exact execTableAbort_only h
  | commitLog => exact execCommitLog_only h
  | memSplit => exact execMemSplit_only h
  | placementInfo => exact execPlacementInfo_only h
  | tierReport => exact execTierReport_only h
  | mvTune => exact execMvTune_only h
  | mvTableHint => exact execMvTableHint_only h
  | memInfo => exact execMemInfo_only h
  | mcPolicy => exact execMcPolicy_only h
  | mcTargets => exact execMcTargets_only h
  | integrityInfo => exact execIntegrityInfo_only h
  | scrubCfg => exact execScrubCfg_only h
  | bucketCfg => exact execBucketCfg_only h
  | retireCfg => exact execRetireCfg_only h
  | stageMap => exact execStageMap_only h
  | budgetSet => exact execBudgetSet_only h
  | budgetGet => exact execBudgetGet_only h
  | regStatus => exact execRegStatus_only h
  | regWindow => exact execRegWindow_only h
  | rgCfgWindowWrite => exact execRgCfgWindowWrite_only h
  | regPlan => exact execRegPlan_only h
  | thermRead => exact execThermRead_only h
  | thermLimits => exact execThermLimits_only h
  | thermWarnSet => exact execThermWarnSet_only h
  | thermLimitSet => exact execThermLimitSet_only h
  | quenchReq => exact execQuenchReq_only h
  | bistRun => exact execBistRun_only h
  | bistUnitDone => exact execBistUnitDone_only h
  | culletGet => exact execCulletGet_only h
  | culletAdd => exact execCulletAdd_only h
  | calSave => exact execCalSave_only h
  | calRestore => exact execCalRestore_only h
  | calCfg => exact execCalCfg_only h
  | fwLoad => exact execFwLoad_only h
  | fwStore => exact execFwStore_only h
  | fwInfo => exact execFwInfo_only h
  | rollbackAdvance => exact execRollbackAdvance_only h
  | attest => exact execAttest_only h
  | idKeyRead => exact execIdKeyRead_only h
  | fuseRead => exact execFuseRead_only h
  | fuseProgram => exact execFuseProgram_only h
  | fuseLock => exact execFuseLock_only h
  | fuseResense => exact execFuseResense_only h
  | fuseResenseTimer => exact execFuseResenseTimer_only h
  | keyRevoke => exact execKeyRevoke_only h
  | evSource => exact execEvSource_only h
  | evSink => exact execEvSink_only h
  | evPulse => exact execEvPulse_only h
  | evSwPulseWrite => exact execEvSwPulseWrite_only h
  | evInfo => exact execEvInfo_only h
  | eventPulseDelivery => exact execEventPulseDelivery_only h
  | bmChannelCfg => exact execBmChannelCfg_only h
  | bmNosnoop => exact execBmNosnoop_only h
  | bmChStart => exact execBmChStart_only h
  | bmChArm => exact execBmChArm_only h
  | bmChClear => exact execBmChClear_only h
  | bmDescriptorFetchDone => exact execBmDescriptorFetchDone_only h
  | bmDescriptorEnd => exact execBmDescriptorEnd_only h
  | bmChannelHalt => exact execBmChannelHalt_only h
  | teLatClear => exact execTeLatClear_only h
  | linkRetrain => exact execLinkRetrain_only h
  | linkPowerCfg => exact execLinkPowerCfg_only h
  | linkDisable => exact execLinkDisable_only h
  | linkEqSet => exact execLinkEqSet_only h
  | epochBoundary => exact execEpochBoundary_only h
  | activationWindowEnd => exact execActivationWindowEnd_only h
  | mcRequestArrival => exact execMcRequestArrival_only h
  | mcCommandIssue => exact execMcCommandIssue_only h
  | requestUrgencyStep => exact execRequestUrgencyStep_only h
  | refreshDue => exact execRefreshDue_only h
  | pcPowerDownEntry => exact execPcPowerDownEntry_only h
  | pcSelfRefreshEntry => exact execPcSelfRefreshEntry_only h
  | calibrationHold => exact execCalibrationHold_only h
  | memoryReadReturn => exact execMemoryReadReturn_only h
  | bucketLeak => exact execBucketLeak_only h
  | fluxRewrite => exact execFluxRewrite_only h
  | fluxRowScrub => exact execFluxRowScrub_only h
  | crucibleScrub => exact execCrucibleScrub_only h
  | sweepLate => exact execSweepLate_only h
  | mirrorRepair => exact execMirrorRepair_only h
  | bankRetirement => exact execBankRetirement_only h
  | regWindowBoundary => exact execRegWindowBoundary_only h
  | heartbeat => exact execHeartbeat_only h
  | fuseData => exact execFuseData_only h
  | closureState => exact execClosureState_only h
  | errlogWrite => exact execErrlogWrite_only h
  | deviceState => exact execDeviceState_only h
  | mailboxRefused => exact execMailboxRefused_only h
  | svWatchdogExpiry => exact execSvWatchdogExpiry_only h
  | svCoreHalt => exact execSvCoreHalt_only h
  | svActionReset => exact execSvActionReset_only h
  | anvilHeartbeat => exact execAnvilHeartbeat_only h
  | anvilSupervisorTimeout => exact execAnvilSupervisorTimeout_only h
  | anvilHalt => exact execAnvilHalt_only h
  | status => exact execStatus_only h
  | identity => exact execIdentity_only h
  | power => exact execPower_only h
  | level => exact execLevel_only h
  | hottest => exact execHottest_only h
  | therm0 => exact execTherm0_only h
  | therm8 => exact execTherm8_only h
  | therm16 => exact execTherm16_only h
  | errlogPtrWrite => exact execErrlogPtrWrite_only h
  | errlogPtrRead => exact execErrlogPtrRead_only h
  | errlog => exact execErrlog_only h
  | quenchWrite => exact execQuenchWrite_only h
  | quenchRead => exact execQuenchRead_only h
  | alertResponse => exact execAlertResponse_only h
  | sclTimeout => exact execSclTimeout_only h
  | sdaTimeout => exact execSdaTimeout_only h
  | busClear => exact execBusClear_only h
  | hostNotify => exact execHostNotify_only h
  | hostNotifyRetry => exact execHostNotifyRetry_only h
  | arbitrationRetry => exact execArbitrationRetry_only h
  | eepromRead => exact execEepromRead_only h
  | eepromReadDone => exact execEepromReadDone_only h
  | timesyncFallingEdge => exact execTimesyncFallingEdge_only h
  | vprogOutOfTolerance => exact execVprogOutOfTolerance_only h
  | sdaSeenHigh => exact execSdaSeenHigh_only h
  | pageIdleTimer => exact execPageIdleTimer_only h
  | calibrationHoldEnd => exact execCalibrationHoldEnd_only h
  | unlistedCommandCode => exact execUnlistedCommandCode_only h

theorem OnlyRegs.of_some {ks ls : List Fld} {s t : State} (h : OnlyRegs ls s t) (e : some ls = some ks) : OnlyRegs ks s t :=
  Option.some.inj e ▸ h

/-- Which fields a command may change, where they do not depend on the state; of the others, last, nothing is claimed. -/
theorem exec_regs {c : Instr} {s t : State} (h : exec c s = .next t) {ks : List Fld} (hk : touchedRegs c = some ks) :
    OnlyRegs ks s t := by
  cases c with
  | railsInTolerance => exact (execRailsInTolerance_regs h).of_some hk
  | railCheckRetry => exact (execRailCheckRetry_regs h).of_some hk
  | strapSample => exact (execStrapSample_regs h).of_some hk
  | refwaitExpiry => exact (execRefwaitExpiry_regs h).of_some hk
  | refclkStartupCheck => exact (execRefclkStartupCheck_regs h).of_some hk
  | resetPinRelease => exact (execResetPinRelease_regs h).of_some hk
  | layerDiscoveryTimeout => exact (execLayerDiscoveryTimeout_regs h).of_some hk
  | resetSourceRelease => exact (execResetSourceRelease_regs h).of_some hk
  | tapTestLogicReset => exact (execTapTestLogicReset_regs h).of_some hk
  | oscTrim => exact (execOscTrim_regs h).of_some hk
  | clockGateClose => exact (execClockGateClose_regs h).of_some hk
  | clockGateOpen => exact (execClockGateOpen_regs h).of_some hk
  | domainAutoOff => exact (execDomainAutoOff_regs h).of_some hk
  | domainWake => exact (execDomainWake_regs h).of_some hk
  | benchMicrocodeLoaded => exact (execBenchMicrocodeLoaded_regs h).of_some hk
  | ptmDialog => exact (execPtmDialog_regs h).of_some hk
  | ptmResponse => exact (execPtmResponse_regs h).of_some hk
  | ptmResponseTimeout => exact (execPtmResponseTimeout_regs h).of_some hk
  | timesyncEdge => exact (execTimesyncEdge_regs h).of_some hk
  | timesyncStuck => exact (execTimesyncStuck_regs h).of_some hk
  | tbTimeLoRead => exact (execTbTimeLoRead_regs h).of_some hk
  | loRegisterRead => exact (execLoRegisterRead_regs h).of_some hk
  | holdNLong => exact (execHoldNLong_regs h).of_some hk
  | sensorRecover => exact (execSensorRecover_regs h).of_some hk
  | canaryTest => exact (execCanaryTest_regs h).of_some hk
  | laneDetectorChange => exact (execLaneDetectorChange_regs h).of_some hk
  | trainingFrameRx => exact (execTrainingFrameRx_regs h).of_some hk
  | trainStateExit => exact (execTrainStateExit_regs h).of_some hk
  | trainStateTimer => exact (execTrainStateTimer_regs h).of_some hk
  | attemptIdleEnd => exact (execAttemptIdleEnd_regs h).of_some hk
  | linkLost => exact (execLinkLost_regs h).of_some hk
  | warmIdleTimer => exact (execWarmIdleTimer_regs h).of_some hk
  | bankedIdleTimer => exact (execBankedIdleTimer_regs h).of_some hk
  | warmExit => exact (execWarmExit_regs h).of_some hk
  | bankedExit => exact (execBankedExit_regs h).of_some hk
  | bankedFastPathTimeout => exact (execBankedFastPathTimeout_regs h).of_some hk
  | framingCodewordRx => exact (execFramingCodewordRx_regs h).of_some hk
  | linkUpdateRx => exact (execLinkUpdateRx_regs h).of_some hk
  | linkUpdateSend => exact (execLinkUpdateSend_regs h).of_some hk
  | nakRetryTimeout => exact (execNakRetryTimeout_regs h).of_some hk
  | replayTimeout => exact (execReplayTimeout_regs h).of_some hk
  | init => exact (execInit_regs h).of_some hk
  | pwrReq => exact (execPwrReq_regs h).of_some hk
  | pwrAck => exact (execPwrAck_regs h).of_some hk
  | pwrRefuse => exact (execPwrRefuse_regs h).of_some hk
  | pwrReqTimeout => exact (execPwrReqTimeout_regs h).of_some hk
  | downNoticeTimeout => exact (execDownNoticeTimeout_regs h).of_some hk
  | unknownDataOpcode => exact (execUnknownDataOpcode_regs h).of_some hk
  | enq => exact (execEnq_regs h).of_some hk
  | deq => exact (execDeq_regs h).of_some hk
  | peek => exact (execPeek_regs h).of_some hk
  | dropHead => exact (execDropHead_regs h).of_some hk
  | qstat => exact (execQstat_regs h).of_some hk
  | lookup => exact (execLookup_regs h).of_some hk
  | lookupMulti => exact (execLookupMulti_regs h).of_some hk
  | cntAdd => exact (execCntAdd_regs h).of_some hk
  | cntRead => exact (execCntRead_regs h).of_some hk
  | cntReadClear => exact (execCntReadClear_regs h).of_some hk
  | echo => exact (execEcho_regs h).of_some hk
  | snapshotReq => exact (execSnapshotReq_regs h).of_some hk
  | replySend => exact (execReplySend_regs h).of_some hk
  | configRequest => exact (execConfigRequest_regs h).of_some hk
  | bar0BadAccess => exact (execBar0BadAccess_regs h).of_some hk
  | ringEnable => exact (execRingEnable_regs h).of_some hk
  | ringDisable => exact (execRingDisable_regs h).of_some hk
  | sqTailDoorbell => exact (execSqTailDoorbell_regs h).of_some hk
  | cqHeadDoorbell => exact (execCqHeadDoorbell_regs h).of_some hk
  | ringEntryFetch => exact (execRingEntryFetch_regs h).of_some hk
  | ringEntryStart => exact (execRingEntryStart_regs h).of_some hk
  | msixModerationTimer => exact (execMsixModerationTimer_regs h).of_some hk
  | msixUnmask => exact (execMsixUnmask_regs h).of_some hk
  | pcieL1Entry => exact (execPcieL1Entry_regs h).of_some hk
  | d3hotEntry => exact (execD3hotEntry_regs h).of_some hk
  | d0Return => exact (execD0Return_regs h).of_some hk
  | devIdentify => exact (execDevIdentify_regs h).of_some hk
  | devHealth => exact (execDevHealth_regs h).of_some hk
  | powerInfo => exact (execPowerInfo_regs h).of_some hk
  | recoveryReport => exact (execRecoveryReport_regs h).of_some hk
  | expertEnter => exact (execExpertEnter_regs h).of_some hk
  | expertLeave => exact (execExpertLeave_regs h).of_some hk
  | errlogRead => exact (execErrlogRead_regs h).of_some hk
  | errlogClear => exact (execErrlogClear_regs h).of_some hk
  | nop => exact (execNop_regs h).of_some hk
  | queueCfg => exact (execQueueCfg_regs h).of_some hk
  | queueRemove => exact (execQueueRemove_regs h).of_some hk
  | queueFlush => exact (execQueueFlush_regs h).of_some hk
  | queueInfo => exact (execQueueInfo_regs h).of_some hk
  | snapshotTake => exact (execSnapshotTake_regs h).of_some hk
  | snapshotRead => exact (execSnapshotRead_regs h).of_some hk
  | queueReserve => exact (execQueueReserve_regs h).of_some hk
  | qmPrefetch => exact (execQmPrefetch_regs h).of_some hk
  | tableCreate => exact (execTableCreate_regs h).of_some hk
  | tableRowsReturn => exact (execTableRowsReturn_regs h).of_some hk
  | tableInfo => exact (execTableInfo_regs h).of_some hk
  | tableResize => exact (execTableResize_regs h).of_some hk
  | cntDump => exact (execCntDump_regs h).of_some hk
  | tableTune => exact (execTableTune_regs h).of_some hk
  | tableUpdate => exact (execTableUpdate_regs h).of_some hk
  | tableImage => exact (execTableImage_regs h).of_some hk
  | versionRowsRelease => exact (execVersionRowsRelease_regs h).of_some hk
  | commitLog => exact (execCommitLog_regs h).of_some hk
  | memSplit => exact (execMemSplit_regs h).of_some hk
  | placementInfo => exact (execPlacementInfo_regs h).of_some hk
  | tierReport => exact (execTierReport_regs h).of_some hk
  | mvTune => exact (execMvTune_regs h).of_some hk
  | mvTableHint => exact (execMvTableHint_regs h).of_some hk
  | memInfo => exact (execMemInfo_regs h).of_some hk
  | integrityInfo => exact (execIntegrityInfo_regs h).of_some hk
  | scrubCfg => exact (execScrubCfg_regs h).of_some hk
  | bucketCfg => exact (execBucketCfg_regs h).of_some hk
  | retireCfg => exact (execRetireCfg_regs h).of_some hk
  | stageMap => exact (execStageMap_regs h).of_some hk
  | budgetSet => exact (execBudgetSet_regs h).of_some hk
  | budgetGet => exact (execBudgetGet_regs h).of_some hk
  | regStatus => exact (execRegStatus_regs h).of_some hk
  | regWindow => exact (execRegWindow_regs h).of_some hk
  | rgCfgWindowWrite => exact (execRgCfgWindowWrite_regs h).of_some hk
  | regPlan => exact (execRegPlan_regs h).of_some hk
  | thermRead => exact (execThermRead_regs h).of_some hk
  | thermLimits => exact (execThermLimits_regs h).of_some hk
  | thermWarnSet => exact (execThermWarnSet_regs h).of_some hk
  | thermLimitSet => exact (execThermLimitSet_regs h).of_some hk
  | culletGet => exact (execCulletGet_regs h).of_some hk
  | calSave => exact (execCalSave_regs h).of_some hk
  | calCfg => exact (execCalCfg_regs h).of_some hk
  | fwStore => exact (execFwStore_regs h).of_some hk
  | fwInfo => exact (execFwInfo_regs h).of_some hk
  | rollbackAdvance => exact (execRollbackAdvance_regs h).of_some hk
  | attest => exact (execAttest_regs h).of_some hk
  | idKeyRead => exact (execIdKeyRead_regs h).of_some hk
  | fuseRead => exact (execFuseRead_regs h).of_some hk
  | fuseProgram => exact (execFuseProgram_regs h).of_some hk
  | fuseLock => exact (execFuseLock_regs h).of_some hk
  | fuseResense => exact (execFuseResense_regs h).of_some hk
  | fuseResenseTimer => exact (execFuseResenseTimer_regs h).of_some hk
  | keyRevoke => exact (execKeyRevoke_regs h).of_some hk
  | evSource => exact (execEvSource_regs h).of_some hk
  | evSink => exact (execEvSink_regs h).of_some hk
  | evPulse => exact (execEvPulse_regs h).of_some hk
  | evSwPulseWrite => exact (execEvSwPulseWrite_regs h).of_some hk
  | evInfo => exact (execEvInfo_regs h).of_some hk
  | bmChannelCfg => exact (execBmChannelCfg_regs h).of_some hk
  | bmNosnoop => exact (execBmNosnoop_regs h).of_some hk
  | bmChStart => exact (execBmChStart_regs h).of_some hk
  | bmChArm => exact (execBmChArm_regs h).of_some hk
  | bmChClear => exact (execBmChClear_regs h).of_some hk
  | bmDescriptorFetchDone => exact (execBmDescriptorFetchDone_regs h).of_some hk
  | bmChannelHalt => exact (execBmChannelHalt_regs h).of_some hk
  | teLatClear => exact (execTeLatClear_regs h).of_some hk
  | linkEqSet => exact (execLinkEqSet_regs h).of_some hk
  | activationWindowEnd => exact (execActivationWindowEnd_regs h).of_some hk
  | mcRequestArrival => exact (execMcRequestArrival_regs h).of_some hk
  | requestUrgencyStep => exact (execRequestUrgencyStep_regs h).of_some hk
  | refreshDue => exact (execRefreshDue_regs h).of_some hk
  | pcPowerDownEntry => exact (execPcPowerDownEntry_regs h).of_some hk
  | pcSelfRefreshEntry => exact (execPcSelfRefreshEntry_regs h).of_some hk
  | bucketLeak => exact (execBucketLeak_regs h).of_some hk
  | fluxRewrite => exact (execFluxRewrite_regs h).of_some hk
  | sweepLate => exact (execSweepLate_regs h).of_some hk
  | bankRetirement => exact (execBankRetirement_regs h).of_some hk
  | regWindowBoundary => exact (execRegWindowBoundary_regs h).of_some hk
  | heartbeat => exact (execHeartbeat_regs h).of_some hk
  | fuseData => exact (execFuseData_regs h).of_some hk
  | closureState => exact (execClosureState_regs h).of_some hk
  | errlogWrite => exact (execErrlogWrite_regs h).of_some hk
  | deviceState => exact (execDeviceState_regs h).of_some hk
  | mailboxRefused => exact (execMailboxRefused_regs h).of_some hk
  | anvilHeartbeat => exact (execAnvilHeartbeat_regs h).of_some hk
  | status => exact (execStatus_regs h).of_some hk
  | identity => exact (execIdentity_regs h).of_some hk
  | power => exact (execPower_regs h).of_some hk
  | level => exact (execLevel_regs h).of_some hk
  | hottest => exact (execHottest_regs h).of_some hk
  | therm0 => exact (execTherm0_regs h).of_some hk
  | therm8 => exact (execTherm8_regs h).of_some hk
  | therm16 => exact (execTherm16_regs h).of_some hk
  | errlogPtrWrite => exact (execErrlogPtrWrite_regs h).of_some hk
  | errlogPtrRead => exact (execErrlogPtrRead_regs h).of_some hk
  | errlog => exact (execErrlog_regs h).of_some hk
  | quenchRead => exact (execQuenchRead_regs h).of_some hk
  | alertResponse => exact (execAlertResponse_regs h).of_some hk
  | sclTimeout => exact (execSclTimeout_regs h).of_some hk
  | sdaTimeout => exact (execSdaTimeout_regs h).of_some hk
  | busClear => exact (execBusClear_regs h).of_some hk
  | hostNotify => exact (execHostNotify_regs h).of_some hk
  | hostNotifyRetry => exact (execHostNotifyRetry_regs h).of_some hk
  | arbitrationRetry => exact (execArbitrationRetry_regs h).of_some hk
  | eepromRead => exact (execEepromRead_regs h).of_some hk
  | eepromReadDone => exact (execEepromReadDone_regs h).of_some hk
  | timesyncFallingEdge => exact (execTimesyncFallingEdge_regs h).of_some hk
  | sdaSeenHigh => exact (execSdaSeenHigh_regs h).of_some hk
  | pageIdleTimer => exact (execPageIdleTimer_regs h).of_some hk
  | unlistedCommandCode => exact (execUnlistedCommandCode_regs h).of_some hk
  | vddAoRise | vddAoFall | railOutOfRange | resetPinAssert | coldStartSequence | pcieHotReset | pcieFlr | pcieLinkDown
  | heldRestartSequence | firmwareReverifyDone | quiesceComplete | quiesceTimeout | preserveResetDelay | tapInstructionLoad
  | refclkMissingEdge | refclkFreqWindow | clockSwitchForced | clockSwitchFailed | forcedClosureDrainEnd | holdNChange
  | thermalSample | narrowRestore | quenchStopComplete | quenchThermalEnd | trip | dataCodewordRx | resyncCodewordRx | requestCrcFail
  | enqCommit | mark | markPass | snapshotComplete | engineOpStart | registerWrite | stagingWindowRead | stagingWindowWrite
  | hostReadFail | devReset | queueChangeApply | tableDelete | tableCommit | imageBuildDone | commitEffectTick | commitCutTimeout
  | tableAbort | mcPolicy | mcTargets | quenchReq | bistRun | bistUnitDone | culletAdd | calRestore | fwLoad | eventPulseDelivery
  | bmDescriptorEnd | linkRetrain | linkPowerCfg | linkDisable | epochBoundary | mcCommandIssue | calibrationHold | memoryReadReturn
  | fluxRowScrub | crucibleScrub | mirrorRepair | svWatchdogExpiry | svCoreHalt | svActionReset | anvilSupervisorTimeout | anvilHalt
  | quenchWrite | vprogOutOfTolerance | calibrationHoldEnd =>
    cases hk

end Sys2Proof.Machine

open Sys2Proof Sys2Proof.Machine

/-- Settles O55: by the case split of the dispatch. -/
theorem everyCommandKeepsItsFrame : Obligations.EveryCommandKeepsItsFrame := by
  unfold Obligations.EveryCommandKeepsItsFrame
  exact fun _ _ _ h => ⟨exec_only h, fun _ hk => exec_regs h hk⟩
end

section
/-!
The device commands (R113, R486, R495, R612, R615): what a completion shows of the state, ERRLOG_READ, ERRLOG_CLEAR and RECOVERY_REPORT.
-/
namespace Sys2Proof.Machine

/-! ### Completions after a change of something else (R465, R467) -/

theorem State.halted_congr {s t : State} (hsafe : t.f elStatusSafeHold = s.f elStatusSafeHold)
    (hstage : t.f devStatusStage = s.f devStatusStage) : t.halted = s.halted := by
  unfold State.halted State.safeHold State.banked State.on
  rw [hsafe, hstage]

theorem State.ring_congr {s t : State} (h : t.rings = s.rings) (r : Nat) : t.ring r = s.ring r := by
  unfold State.ring
  rw [h]

/-- A command stays in execution while neither its ring nor what halts the rings changes. -/
theorem Running.congr {s t : State} {e : Sqe} (hrings : t.rings = s.rings) (hhalted : t.halted = s.halted) (h : Running e s) :
    Running e t := by
  unfold Running at h ⊢
  rwa [hhalted, State.ring_congr hrings]

/-- A completion posted after a change of other things than the outputs and the position of its ring. -/
theorem Posts.congr {s t u : State} {e : Sqe} {status result : Nat} {hosts : List Output} (hout : t.out = s.out)
    (hheld : t.heldOut = s.heldOut) (hpcie : t.pcie = s.pcie)
    (hring : ∀ k ∈ hcSqHead e.ring :: ringRegs e.ring, t.f k = s.f k)
    (h : Posts e status result hosts t u) : Posts e status result hosts s u := by
  have hnext : nextCompletion e status result t = nextCompletion e status result s := by
    unfold nextCompletion
    rw [hring _ (by simp [ringRegs]), hring _ (by simp [ringRegs]), hring _ (by simp [ringRegs])]
  unfold Posts at h ⊢
  rwa [hnext, hout, hheld, hpcie] at h

/-- The fields of a ring lie apart from those of the error log. -/
theorem ring_fields_not_log (r : Nat) {k : Fld} (h : k ∈ hcSqHead r :: ringRegs r) : k ∉ [elFirst, elLost, elStatusAlertPend] := by
  simp only [ringRegs, List.mem_cons, List.not_mem_nil, or_false] at h
  simp only [List.mem_cons, List.not_mem_nil, or_false, not_or]
  rcases h with rfl | rfl | rfl | rfl | rfl | rfl <;> exact ⟨fld_ne (by omega), fld_ne (by omega), fld_ne (by omega)⟩

/-! ### Commands that only answer (R495) -/

section
variable {s : State} {e : Sqe}

theorem execDevIdentify_running (h : Running e s) : execDevIdentify e s = .next (s.done e stOk s.identity) :=
  runCommand_running (c := ⟨0x100, false, true, .runs, false, []⟩) (by decide) h (fun _ => rfl)

theorem execDevHealth_running (h : Running e s) : execDevHealth e s = .next (s.done e stOk s.health) :=
  runCommand_running (c := ⟨0x101, false, true, .runs, false, []⟩) (by decide) h (fun _ => rfl)

theorem execPowerInfo_running (mw : Nat) (h : Running e s) : execPowerInfo e mw s = .next (s.done e stOk (s.power mw)) :=
  runCommand_running (c := ⟨0x102, false, true, .runs, false, []⟩) (by decide) h (fun _ => rfl)

theorem execNop_running (h : Running e s) : execNop e s = .next (s.done e stOk (e.par 16 24)) :=
  runCommand_running (c := ⟨0x110, false, false, .runs, false, [(16, 0, 192)]⟩) (by decide) h (fun _ => rfl)

/-! ### ERRLOG_READ (R495) -/

/-- The answer of ERRLOG_READ with these entries: they are written to the host, or there is none. -/
def State.answerEntries (s : State) (e : Sqe) (es : List LogEntry) : State :=
  match es.head?, es.getLast? with
  | some a, some z =>
    (s.emitHost (.hostWrite (e.par 16 8) (es.flatMap LogEntry.bytes))).done e stOk
      (packBytes [(0, 4, es.length), (4, 4, a.seq), (8, 4, nextSeq z.seq), (12, 4, s.f elLost)])
  | _, _ => s.done e stEmpty 0

theorem execErrlogRead_running (h : Running e s) :
    execErrlogRead e s = .next (if e.par 28 4 < 1 ∨ 4096 < e.par 28 4 ∨ e.par 16 8 % 16 ≠ 0 then s.done e stBadParam 0
      else s.answerEntries e ((s.entriesFrom (e.par 24 4)).take (e.par 28 4))) :=
  runCommand_running (c := ⟨0x10C, false, true, .runs, false, [(16, 0, 128)]⟩) (by decide) h (fun _ => rfl)

theorem execErrlogRead_valid (h : Running e s) (hlow : 1 ≤ e.par 28 4) (hhigh : e.par 28 4 ≤ 4096) (hal : e.par 16 8 % 16 = 0) :
    execErrlogRead e s = .next (s.answerEntries e ((s.entriesFrom (e.par 24 4)).take (e.par 28 4))) := by
  rw [execErrlogRead_running h, if_neg (by omega)]

/-- Every entry held is older than the sequence number. -/
theorem State.entriesFrom_of_older {seq : Nat} (h : ∀ n ∈ s.log, n.seq < seq) : s.entriesFrom seq = [] := by
  simpa [State.entriesFrom] using h

/-! ### ERRLOG_CLEAR (R615) -/

theorem execErrlogClear_running (h : Running e s) :
    execErrlogClear e s = .next ((s.clearLog (e.par 16 4)).done e stOk
      (packBytes [(0, 4, s.log.length - (s.clearLog (e.par 16 4)).log.length)])) :=
  runCommand_running (c := ⟨0x10D, false, true, .runs, false, [(16, 0, 32)]⟩) (by decide) h (fun _ => rfl)

theorem State.clearLog_log (s : State) (last : Nat) : (s.clearLog last).log = s.log.filter (fun n => decide (last < n.seq)) := rfl

/-- ALERT_PEND stays while an entry of severity 3 is left. -/
theorem State.clearLog_fields (s : State) (last : Nat) :
    (s.clearLog last).f elLost = 0 ∧ (s.clearLog last).f elStatusAlertPend =
      if (s.clearLog last).log.any (fun n => n.severity == 3) then s.f elStatusAlertPend else 0 := by
  unfold State.clearLog
  dsimp only
  constructor
  · exact (State.f_setF_other _ _ (by decide)).trans (State.f_setF_same _ elLost 0)
  · exact State.f_setF_same _ elStatusAlertPend _

theorem State.clearLog_running (last : Nat) (h : Running e s) : Running e (s.clearLog last) :=
  have hregs := State.clearLog_regs s last
  h.congr ((State.clearLog_only s last).eq_rings (by decide))
    (State.halted_congr (hregs elStatusSafeHold (by decide)) (hregs devStatusStage (by decide)))

theorem State.clearLog_posts {t : State} {status result last : Nat} (h : Posts e status result [] (s.clearLog last) t) :
    Posts e status result [] s t := by
  have honly := State.clearLog_only s last
  exact h.congr (honly.eq_out (by decide)) (honly.eq_heldOut (by decide)) (honly.eq_pcie (by decide))
    (fun k hk => State.clearLog_regs s last k (ring_fields_not_log e.ring hk))

/-! ### RECOVERY_REPORT (R104, R113) -/

/-- The report: which tables are kept and which not, with one line for each table number written to the host. -/
def State.answerReport (s : State) (e : Sqe) : State :=
  (s.emitHost (.hostWrite (e.par 16 8) s.reportBytes)).done e stOk
    (packBytes [(0, 2, (s.recovered.filter (fun r => r.code == 0 || r.code == 3)).length),
      (2, 2, s.recovered.length - (s.recovered.filter (fun r => r.code == 0 || r.code == 3)).length), (4, 1, s.f devResetCauseCause)])

theorem execRecoveryReport_running (h : Running e s) :
    execRecoveryReport e s = .next (if !e.indirect then s.done e stBadParam 0
      else if e.paramLen < 1024 then s.done e stBadLength 0
      else if !s.on devStatusReportValid then s.done e stEmpty (packBytes [(4, 1, s.f devResetCauseCause)])
      else s.answerReport e) :=
  runCommand_running (c := ⟨0x105, false, true, .runs, true, [(16, 0, 64)]⟩) (by decide) h (fun _ => rfl)

end

end Sys2Proof.Machine

open Sys2Proof Sys2Proof.Machine

/-- Settles O36: each command by its meaning while it is in execution, and its completion by what completing a command does. -/
theorem deviceCommandsAnswer : Obligations.DeviceCommandsAnswer := by
  unfold Obligations.DeviceCommandsAnswer
  refine ⟨?identify, ?health, ?power, ?nop, ?read, ?readEmpty, ?readTooMany, ?clear, ?reportDirect, ?reportNone, ?report⟩
  case identify =>
    intro s e hrun
    exact State.done_answers (execDevIdentify_running hrun) hrun (by decide)
  case health =>
    intro s e hrun
    exact State.done_answers (execDevHealth_running hrun) hrun (by decide)
  case power =>
    intro s e mw hrun
    exact State.done_answers (execPowerInfo_running mw hrun) hrun (by decide)
  case nop =>
    intro s e hrun
    exact State.done_answers (execNop_running hrun) hrun (by decide)
  case read =>
    intro s e es a z hrun hlow hhigh hal hes hhead hlast
    have hx := execErrlogRead_valid hrun hlow hhigh hal
    have ho := execErrlogRead_only hx
    have hr := execErrlogRead_regs hx
    have hentries : (s.entriesFrom (e.par 24 4)).take (e.par 28 4) = es := hes.symm
    rw [hentries] at hx ho hr
    simp only [State.answerEntries, hhead, hlast] at hx ho hr
    exact ⟨_, hx, State.emitHost_done_posts _ hrun (by decide) _, ho, hr⟩
  case readEmpty =>
    intro s e hrun hlow hhigh hal holder
    have hx := execErrlogRead_valid hrun hlow hhigh hal
    rw [State.entriesFrom_of_older holder, List.take_nil] at hx
    exact State.done_answers hx hrun (by decide)
  case readTooMany =>
    intro s e hrun hmany
    have hx := execErrlogRead_running hrun
    rw [if_pos (.inr (.inl hmany))] at hx
    exact State.done_answers hx hrun (by decide)
  case clear =>
    intro s e hrun
    have hx := execErrlogClear_running hrun
    have hdone : OnlyRegs (ringRegs e.ring) _ _ := State.done_regs (s.clearLog (e.par 16 4)) e stOk
      (packBytes [(0, 4, s.log.length - (s.clearLog (e.par 16 4)).log.length)])
    have hkeeps : ∀ k ∈ [elFirst, elLost, elStatusAlertPend], k ∉ ringRegs e.ring := fun k hk hring =>
      ring_fields_not_log e.ring (.tail _ hring) hk
    obtain ⟨hlost, hpend⟩ := State.clearLog_fields s (e.par 16 4)
    refine ⟨_, hx, ?_, ?_, ?_, ?_, ?_, (execErrlogClear_only hx).mono (by decide), ?_⟩
    · rw [State.done_keeps_log, State.clearLog_log]
    · rw [hdone _ (hkeeps _ (by simp)), hlost]
    · intro hnone
      rw [State.done_keeps_log] at hnone
      rw [hdone _ (hkeeps _ (by simp)), hpend, if_neg (by simpa using hnone)]
    · intro hsome
      rw [State.done_keeps_log] at hsome
      rw [hdone _ (hkeeps _ (by simp)), hpend, if_pos (by simpa using hsome)]
    · rw [State.done_keeps_log]
      exact State.clearLog_posts (State.done_posts _ (State.clearLog_running _ hrun) (by decide))
    · exact ((State.clearLog_regs s _).mono (by simp)).trans (hdone.mono (fun _ m => .tail _ (.tail _ (.tail _ m))))
  case reportDirect =>
    intro s e hrun hdirect
    have hx := execRecoveryReport_running hrun
    rw [if_pos (by simp [hdirect])] at hx
    exact State.done_answers hx hrun (by decide)
  case reportNone =>
    intro s e hrun hindirect hlen hvalid
    have hx := execRecoveryReport_running hrun
    rw [if_neg (by simp [hindirect]), if_neg (by omega), if_pos (by simp [hvalid])] at hx
    exact State.done_answers hx hrun (by decide)
  case report =>
    intro s e hrun hindirect hlen hvalid
    have hx := execRecoveryReport_running hrun
    rw [if_neg (by simp [hindirect]), if_neg (by omega), if_neg (by simp [hvalid])] at hx
    exact ⟨_, hx, State.emitHost_done_posts _ hrun (by decide) _, execRecoveryReport_only hx, execRecoveryReport_regs hx⟩
end

section
/-!
Configuration space, function power states and messages (R88, R450 to R453, R460): when the function answers, and which pending vectors
are sent.
-/
namespace Sys2Proof.Machine

/-! ### Configuration requests (R88, R452) -/

/-- A request takes the link out of L1. -/
def State.leaveL1 (s : State) : State := { s with pcie := { s.pcie with linkL1 := false } }

section
variable {s : State} (h : s.on devStatusPcieReady = true ∨ s.safeHold = true)
include h

/-- From PCIE_READY on, and in safe hold, no request gets Request Retry Status. -/
theorem State.serves_config : ¬ (!s.on devStatusPcieReady && !s.safeHold) = true := by
  rcases h with h | h <;> simp [h]

theorem execConfigRequest_read (i : CfgItem) :
    execConfigRequest (.read i) s = .next (s.leaveL1.emit (.cfgReply (s.leaveL1.cfgRead i))) :=
  if_neg (State.serves_config h)

theorem execConfigRequest_write (i : CfgItem) (v : Nat) :
    execConfigRequest (.write i v) s = .next ((s.leaveL1.cfgWrite i v).emit (.cfgReply 0)) :=
  if_neg (State.serves_config h)

end

/-! ### Pending vectors (R460) -/

theorem bitOf_two_pow (n v : Nat) : bitOf (2 ^ n) v = decide (n = v) := by
  rw [bitOf_eq_testBit, Nat.testBit_two_pow]

theorem clearBit_two_pow (n : Nat) : clearBit (2 ^ n) n = 0 := by
  simp [clearBit, Nat.div_self]

/-- Vector `n` is unmasked. -/
def State.unmask (s : State) (n : Nat) : State := { s with pcie := { s.pcie with vectorMask := clearBit s.pcie.vectorMask n } }

@[simp] theorem State.unmask_pcie (s : State) (n : Nat) :
    (s.unmask n).pcie = { s.pcie with vectorMask := clearBit s.pcie.vectorMask n } := rfl

theorem State.unmask_canSend {s : State} {n : Nat} (hready : s.on devStatusPcieReady = true) (hup : s.pcie.linkUp = true)
    (hd3 : s.pcie.d3hot = false) (henable : s.pcie.msixEnable = true) (hmask : s.pcie.msixFnMask = false) :
    (s.unmask n).canSend n = true := by
  have hon : (s.unmask n).on devStatusPcieReady = true := hready
  simp [State.canSend, hon, hup, hd3, henable, hmask]

/-- The message of a pending vector, where it can be sent now. -/
def State.sendPending (s : State) (v : Nat) : State :=
  if bitOf s.pcie.vectorPending v && s.canSend v then
    ({ s with pcie := { s.pcie with vectorPending := clearBit s.pcie.vectorPending v } }).emit (.msix v)
  else s

theorem State.flushVectors_eq (s : State) : s.flushVectors = (List.range 64).foldl State.sendPending s := rfl

theorem State.sendPending_clear {s : State} {v : Nat} (h : bitOf s.pcie.vectorPending v = false) : s.sendPending v = s := by
  simp [State.sendPending, h]

theorem State.sendPending_all_clear {s : State} {l : List Nat} (h : ∀ v ∈ l, bitOf s.pcie.vectorPending v = false) :
    l.foldl State.sendPending s = s := by
  induction l with
  | nil => rfl
  | cons v l ih =>
    rw [List.foldl_cons, State.sendPending_clear (h v (by simp))]
    exact ih fun w hw => h w (by simp [hw])

theorem State.flushVectors_none {s : State} (h : s.pcie.vectorPending = 0) : s.flushVectors = s :=
  State.sendPending_all_clear fun v _ => by simp [h, bitOf]

/-- Where one vector alone is pending and can be sent, its message is the one that is sent. -/
theorem State.flushVectors_one {s : State} {n : Nat} (hn : n < 64) (hp : s.pcie.vectorPending = 2 ^ n) (hsend : s.canSend n = true) :
    s.flushVectors = ({ s with pcie := { s.pcie with vectorPending := 0 } }).emit (.msix n) := by
  obtain ⟨below, above, hrange⟩ := List.append_of_mem (List.mem_range.mpr hn)
  have hnodup : (below ++ n :: above).Nodup := hrange ▸ List.nodup_range
  have hbelow : below.foldl State.sendPending s = s := by
    refine State.sendPending_all_clear fun v hv => ?_
    rw [hp, bitOf_two_pow, decide_eq_false_iff_not]
    rintro rfl
    exact List.disjoint_of_nodup_append hnodup hv (by simp)
  have hsent : s.sendPending n = ({ s with pcie := { s.pcie with vectorPending := 0 } }).emit (.msix n) := by
    rw [State.sendPending, if_pos (by simp [hp, bitOf_two_pow, hsend]), hp, clearBit_two_pow]
  rw [State.flushVectors_eq, hrange, List.foldl_append, hbelow, List.foldl_cons, hsent]
  exact State.sendPending_all_clear fun v _ => by simp [State.emit, bitOf]

end Sys2Proof.Machine

open Sys2Proof Sys2Proof.Machine

/-- Settles O29: a request is refused or served as a whole; what leaves at an unmask or at the return to D0 are the pending vectors. -/
theorem hostPortServesConfiguration : Obligations.HostPortServesConfiguration := by
  unfold Obligations.HostPortServesConfiguration
  refine ⟨?retry, ?deviceId, ?powerState, ?bar0, ?d3hot, ?notDecoded, ?d0, ?l1, ?moderation, ?unmaskOne, ?unmaskAll⟩
  case retry =>
    intro s a hready hsafe
    exact ⟨_, if_pos (by simp [hready, hsafe]), rfl⟩
  case deviceId =>
    intro s hserved
    exact ⟨_, execConfigRequest_read hserved _, rfl, rfl, by simp [State.leaveL1]⟩
  case powerState =>
    intro s hserved
    exact ⟨_, execConfigRequest_write hserved _ _, rfl, rfl, by simp [State.leaveL1, State.cfgWrite, State.enterD3]⟩
  case bar0 =>
    intro s v hserved hv
    refine ⟨_, execConfigRequest_write hserved _ _, ?_, ?_, ?_, by simp [State.leaveL1, State.cfgWrite]⟩ <;>
      simp only [State.cfgWrite, State.emit] <;> omega
  case d3hot =>
    intro s hdecodes
    exact ⟨_, if_pos hdecodes, rfl⟩
  case notDecoded =>
    intro s c hdecodes hc
    have hno : ¬ s.decodesBars = true := by simp [hdecodes]
    simp only [List.mem_cons, List.not_mem_nil, or_false] at hc
    rcases hc with rfl | rfl | rfl
    · exact ⟨_, if_neg hno, rfl⟩
    · exact ⟨_, if_neg hno, rfl⟩
    · exact ⟨_, if_neg hno, rfl⟩
  case d0 =>
    intro s hdecodes hpending
    have hx : execD0Return s = .next s.returnD0 := if_pos hdecodes
    rw [State.returnD0, State.flushVectors_none (by exact hpending)] at hx
    exact ⟨_, hx, rfl, rfl, rfl, by simp⟩
  case l1 =>
    intro s haspm hup hd3 hl1
    exact ⟨_, if_pos (by simp [haspm, hup, hd3, hl1]), rfl, rfl, by simp⟩
  case moderation =>
    intro s r htime hcount hsend
    have hx : execMsixModerationTimer r s = .next ((s.setRing r { s.ring r with unsignalled := 0 }).vector (16 + r)) :=
      if_neg (by simp [htime, hcount])
    have hsend' : (s.setRing r { s.ring r with unsignalled := 0 }).canSend (16 + r) = true := hsend
    rw [State.vector, if_pos hsend'] at hx
    refine ⟨_, hx, ?_, rfl, by simp⟩
    simp [State.ring, State.setRing, State.emit]
  case unmaskOne =>
    intro s n hopen hup hd3 henable hmask hn hpending
    have ⟨_, hready, _⟩ := hopen
    have hx : execMsixUnmask (some n) s = .next (s.unmask n).flushVectors := by
      simp only [execMsixUnmask, State.refusesWrite_open hopen, State.unmask]
    have hpending' : (s.unmask n).pcie.vectorPending = 2 ^ n := hpending
    rw [State.flushVectors_one hn hpending' (State.unmask_canSend hready hup hd3 henable hmask)] at hx
    exact ⟨_, hx, rfl, rfl, bitOf_clearBit_same _ _, by simp [State.unmask]⟩
  case unmaskAll =>
    intro s hdecodes hpending
    have hx : execMsixUnmask none s = .next ({ s with pcie := { s.pcie with msixEnable := true, msixFnMask := false } }).flushVectors :=
      if_pos hdecodes
    rw [State.flushVectors_none (by exact hpending)] at hx
    exact ⟨_, hx, rfl, rfl, by simp⟩
end

section
/-!
Sensing (R90, R557 to R566): a sample leaves the temperatures that its readings give, and what follows from them does not change them.
-/
namespace Sys2Proof.Machine

/-! ### Fields that an operation of every unit can change -/

theorem OnlyRegs.append {ks ls : List Fld} {s t u : State} (h : OnlyRegs ks s t) (g : OnlyRegs ls t u) : OnlyRegs (ks ++ ls) s u :=
  (h.mono (List.subset_append_left _ _)).trans (g.mono (List.subset_append_right _ _))

/-- A step made for each unit of a kind changes the fields of these units. -/
theorem OnlyRegs.foldl_range {s : State} {n : Nat} {f : State → Nat → State} {regs : Nat → List Fld}
    (h : ∀ x a, OnlyRegs (regs a) x (f x a)) : OnlyRegs ((List.range n).flatMap regs) s ((List.range n).foldl f s) := by
  induction n with
  | zero => exact OnlyRegs.refl _ _
  | succ n ih =>
    rw [List.range_succ, List.foldl_append, List.flatMap_append, List.flatMap_singleton]
    exact ih.append (h _ n)

theorem State.pauseChannels_regs (s : State) :
    OnlyRegs ((List.range 18).flatMap fun c => [bmChStatusState c]) s s.pauseChannels :=
  OnlyRegs.foldl_range fun x c => (State.setF_regs x (bmChStatusState c) 3).ite_refl

/-- The fields of a port that becomes DISABLED. -/
def disableRegs (p : Nat) : List Fld :=
  [rlLinkStatusState p, rlLinkStatusPwr p, rlLinkStatusWidth p, rlLinkStatusLanes p, rlLinkStatusClkLocal p, rlLinkStatusAttempt p,
    rlTxCreditVc3 p, plClkActive, rlSeqTxNext p]

theorem State.quenchPorts_regs (s : State) : OnlyRegs ((List.range 16).flatMap disableRegs) s s.quenchPorts :=
  OnlyRegs.foldl_range fun x p => State.stopPort_regs x p 1 true

/-- The fields of a port that trains again. -/
def retrainRegs (p : Nat) : List Fld :=
  [rlLinkStatusChanged p, rlRetrainCountCold p, rlLinkStatusAttempt p, rlEqCtrlTxPreset p, rlEqCtrlPresetForce p, rlEqCtrlDfeFreeze p,
    rlEqCtrlCtleFixed p, rlEqCtrlCtleValue p, rlLinkStatusState p, rlLinkStatusPwr p, rlLinkStatusWidth p, rlLinkStatusLanes p,
    rlLinkStatusReversed p, rlLinkStatusClkLane p, rlLinkStatusClkLocal p, rlLaneStatusPolInv p, rlRetrainCountShort p,
    rlLaneStatusExcluded p]

theorem State.narrowPorts_regs (s : State) :
    OnlyRegs ((List.range 16).flatMap fun p => thStatusNarrowed :: retrainRegs p) s s.narrowPorts := by
  refine OnlyRegs.foldl_range fun x p => OnlyRegs.ite_refl ?_
  exact OnlyRegs.trans (OnlyRegs.mono (State.shortRetrainOn_regs x p _) (List.subset_cons_self _ _))
    ((State.setF_regs _ thStatusNarrowed 1).mono (by simp))

theorem State.quenchBegin_regs (s : State) :
    OnlyRegs ([thStatusQuenched, thQuenchTick, fxStatusPaused, thCountQuenches] ++ (List.range 18).flatMap (fun c => [bmChStatusState c]) ++
      (List.range 16).flatMap disableRegs) s s.quenchBegin := by
  have hset : OnlyRegs [thStatusQuenched, thQuenchTick, fxStatusPaused, thCountQuenches] s
      ((s.setFs [(thStatusQuenched, 1), (thQuenchTick, s.now), (fxStatusPaused, 1)]).bump thCountQuenches 16) := by simp
  unfold State.quenchBegin
  dsimp only
  rw [OnlyRegs.upd_thermal]
  exact (hset.append (State.pauseChannels_regs _)).append (State.quenchPorts_regs _)

/-! ### What the temperatures of the layers rest on (R557 to R562) -/

/-- The fields that say which layers are present (R579) and where their levels begin (R562). -/
def sensingFields : List Fld :=
  [tcCulletLayer, thThrD0Warn, thThrD0Throttle1, thThrD1Throttle2, thThrD1Throttle3, thThrD2Quench, thThrD2Trip, thThrB0Warn,
    thThrB0Throttle1, thThrB1Throttle2, thThrB1Throttle3, thThrB2Quench, thThrB2Trip]

theorem thresholdFld_mem (dram : Bool) (lvl : Nat) : thresholdFld dram lvl ∈ sensingFields := by
  unfold thresholdFld
  cases dram <;> split <;> decide

/-- From `s` to `t` neither the sensors nor the layers in the stack nor the thresholds change. -/
structure SameSensing (s t : State) : Prop where
  sensors : t.sensors = s.sensors
  trust : t.trust = s.trust
  fields : ∀ k ∈ sensingFields, t.f k = s.f k

section
variable {s t u : State}

theorem SameSensing.refl (s : State) : SameSensing s s := ⟨rfl, rfl, fun _ _ => rfl⟩

theorem SameSensing.trans (h : SameSensing s t) (g : SameSensing t u) : SameSensing s u :=
  ⟨g.sensors.trans h.sensors, g.trust.trans h.trust, fun k hk => (g.fields k hk).trans (h.fields k hk)⟩

theorem SameSensing.of_frames {ps : List Part} {ks : List Fld} (ho : Only ps s t) (hr : OnlyRegs ks s t) (hs : Part.sensors ∉ ps)
    (ht : Part.trust ∉ ps) (hk : ∀ k ∈ sensingFields, k ∉ ks) : SameSensing s t :=
  ⟨ho.eq_sensors hs, ho.eq_trust ht, fun k hm => hr k (hk k hm)⟩

theorem SameSensing.dies (h : SameSensing s t) : t.dies = s.dies := by
  unfold State.dies State.grade
  rw [h.trust]

theorem SameSensing.layerPresent (h : SameSensing s t) (l : Nat) : t.layerPresent l = s.layerPresent l := by
  unfold State.layerPresent
  rw [h.dies, h.fields tcCulletLayer (by decide)]

theorem SameSensing.presentLayers (h : SameSensing s t) : t.presentLayers = s.presentLayers := by
  unfold State.presentLayers
  rw [funext h.layerPresent]

theorem SameSensing.threshold (h : SameSensing s t) (dram : Bool) (lvl : Nat) : t.threshold dram lvl = s.threshold dram lvl := by
  unfold State.threshold
  rw [h.fields _ (thresholdFld_mem dram lvl)]

theorem SameSensing.sensor (h : SameSensing s t) (n : Nat) : t.sensor n = s.sensor n := by
  unfold State.sensor
  rw [h.sensors]

theorem SameSensing.layerTemperature (h : SameSensing s t) (l : Nat) : t.layerTemperature l = s.layerTemperature l := by
  unfold State.layerTemperature State.goodSensor
  simp only [h.sensor, h.threshold]

/-! ### What follows from the temperatures alone -/

theorem State.layer_congr (h : t.layers = s.layers) (l : Nat) : t.layer l = s.layer l := by
  unfold State.layer
  rw [h]

theorem SameSensing.hottest (h : SameSensing s t) (hl : t.layers = s.layers) : t.hottest = s.hottest := by
  unfold State.hottest
  simp only [h.presentLayers, State.layer_congr hl]

theorem SameSensing.maxLevel (h : SameSensing s t) (hl : t.layers = s.layers) : t.maxLevel = s.maxLevel := by
  unfold State.maxLevel
  simp only [h.presentLayers, State.layer_congr hl]

theorem SameSensing.quenchValue (h : SameSensing s t) (hl : t.layers = s.layers) (l : Nat) : t.quenchValue l = s.quenchValue l := by
  unfold State.quenchValue State.layerDoubtful State.goodSensor
  simp only [h.sensor, State.layer_congr hl]

/-- A layer of the stack is above its QUENCH threshold. -/
def State.tooHot (s : State) : Bool := s.presentLayers.any (fun l => decide (s.threshold (isDram l) 5 < s.quenchValue l))

theorem SameSensing.tooHot (h : SameSensing s t) (hl : t.layers = s.layers) : t.tooHot = s.tooHot := by
  unfold State.tooHot
  simp only [h.presentLayers, h.threshold, h.quenchValue hl]

end

/-! ### The temperatures of a sample (R558) -/

theorem State.layer_setLayer (s : State) (l m : Nat) (x : Layer) : (s.setLayer m x).layer l = if l = m then x else s.layer l :=
  Map.get_set _ _ _ _ _

/-- Temperature and level of one layer at a sample. -/
def State.sampleLayer (s : State) (l : Nat) : State :=
  s.setLayer l { s.layer l with temp := s.layerTemperature l, level := s.nextLevel l (s.layer l).level (s.layerTemperature l) }

theorem State.sampleLayer_sensing (s : State) (l : Nat) : SameSensing s (s.sampleLayer l) := ⟨rfl, rfl, fun _ _ => rfl⟩

theorem State.sampleLayer_each (s : State) (ls : List Nat) :
    SameSensing s (ls.foldl State.sampleLayer s) ∧ ∀ l ∈ ls, ((ls.foldl State.sampleLayer s).layer l).temp = s.layerTemperature l := by
  induction ls using List.reverseRecOn with
  | nil => exact ⟨SameSensing.refl s, by simp⟩
  | append_singleton ls m ih =>
    obtain ⟨hsame, htemps⟩ := ih
    rw [List.foldl_append, List.foldl_cons, List.foldl_nil]
    refine ⟨hsame.trans (State.sampleLayer_sensing _ m), fun l hl => ?_⟩
    rw [State.sampleLayer, State.layer_setLayer]
    split
    · next e => exact e ▸ hsame.layerTemperature m
    · next e => exact htemps l (by simpa [e] using hl)

/-- Every layer of the stack has the temperature of its sensors. -/
def State.TempsFollow (s : State) : Prop := ∀ l ∈ s.presentLayers, (s.layer l).temp = s.layerTemperature l

theorem State.TempsFollow.of_same {s t : State} (h : s.TempsFollow) (hs : SameSensing s t) (hl : t.layers = s.layers) : t.TempsFollow := by
  intro l hm
  rw [State.layer_congr hl, hs.layerTemperature]
  exact h l (hs.presentLayers ▸ hm)

theorem State.sampleLayers_follow (s : State) : s.sampleLayers.TempsFollow := by
  obtain ⟨hsame, htemps⟩ := State.sampleLayer_each s s.presentLayers
  have hfold : s.sampleLayers = s.presentLayers.foldl State.sampleLayer s := rfl
  rw [hfold]
  intro l hm
  exact (htemps l (hsame.presentLayers ▸ hm)).trans (hsame.layerTemperature l).symm

/-! ### One sample (R557 to R566) -/

/-- The model, the sensors and the layers of a sample, and its reports. -/
def State.takeSample (s : State) (x : ThermalInput) : State :=
  let a := s.sampleModel x
  let b := x.sensors.foldl (fun t i => s.reportSensor t i) (x.sensors.foldl (fun t i => t.sampleSensor i) a).sampleLayers
  { b with thermal := { b.thermal with sampled := true, sampleTick := x.tick } }

/-- TH_STATUS, the device level and the refresh rates follow. -/
def State.judgeSample (s : State) : State :=
  let d := s.setFs [(thStatusHottest, s.hottest), (thStatusFast, b2n s.wantsFast)]
  (d.setDeviceLevel d.maxLevel).applyRefresh

theorem execThermalSample_taken {s : State} (x : ThermalInput) (h : s.pastStep4 = true) :
    execThermalSample x s = .next (if (s.takeSample x).judgeSample.tooHot && (s.takeSample x).judgeSample.pilot.phase == .running then
      (s.takeSample x).judgeSample.addSource 0 else (s.takeSample x).judgeSample) := by
  unfold execThermalSample State.tooHot State.judgeSample State.takeSample
  rw [if_neg (by simp [h]), apply_ite Host.Outcome.next]

theorem State.takeSample_follow (s : State) (x : ThermalInput) : (s.takeSample x).TempsFollow := by
  have hreports : ∀ (l : List SensorInput) (t : State), SameSensing t (l.foldl (fun t i => s.reportSensor t i) t) ∧
      (l.foldl (fun t i => s.reportSensor t i) t).layers = t.layers := by
    intro l t
    have ho : Only [.out, .regs, .pcie, .log, .logWritten, .sideband] t (l.foldl (fun t i => s.reportSensor t i) t) := by simp
    have hr : OnlyRegs logRegs t (l.foldl (fun t i => s.reportSensor t i) t) := by simp [logRegs]
    exact ⟨SameSensing.of_frames ho hr (by decide) (by decide) (by decide), ho.eq_layers (by decide)⟩
  obtain ⟨hsame, hlayers⟩ := hreports x.sensors (x.sensors.foldl (fun t i => t.sampleSensor i) (s.sampleModel x)).sampleLayers
  exact (State.sampleLayers_follow _).of_same (t := s.takeSample x) ⟨hsame.sensors, hsame.trust, hsame.fields⟩ hlayers

theorem State.takeSample_pilot (s : State) (x : ThermalInput) : (s.takeSample x).pilot = s.pilot := by
  refine Only.eq_pilot (ps := [.out, .regs, .pcie, .log, .logWritten, .sideband, .sensors, .layers, .thermal]) ?_ (by decide)
  simp [State.takeSample]

/-! ### The device level (R563 to R565) -/

theorem State.setDeviceLevel_regs (s : State) (new : Nat) :
    OnlyRegs ((thStatusLevel :: thCountThrottles :: logRegs) ++ (List.range 16).flatMap fun p => thStatusNarrowed :: retrainRegs p) s
      (s.setDeviceLevel new) := by
  have htold : OnlyRegs (thStatusLevel :: thCountThrottles :: logRegs) s
      (((s.setF thStatusLevel new).pulseSource 0x403).tellRise (s.f thStatusLevel) new) := by
    unfold State.tellRise
    (repeat' split) <;> simp [logRegs]
  rw [State.setDeviceLevel_eq]
  dsimp only
  generalize ((s.setF thStatusLevel new).pulseSource 0x403).tellRise (s.f thStatusLevel) new = u at htold ⊢
  split
  · exact OnlyRegs.refl _ _
  · split
    · exact htold.append u.narrowPorts_regs
    · exact htold.mono (List.subset_append_left _ _)

theorem State.setDeviceLevel_level (s : State) (new : Nat) : (s.setDeviceLevel new).f thStatusLevel = new := by
  have htold : (((s.setF thStatusLevel new).pulseSource 0x403).tellRise (s.f thStatusLevel) new).f thStatusLevel = new := by
    rw [State.tellRise_status _ _ _ _ (by decide) (by decide), State.pulseSource_regs _ _ _ (by decide), State.f_setF_same]
  rw [State.setDeviceLevel_eq]
  dsimp only
  generalize ((s.setF thStatusLevel new).pulseSource 0x403).tellRise (s.f thStatusLevel) new = u at htold ⊢
  split
  next h => exact h.symm
  next =>
    split
    · rw [u.narrowPorts_status _ (by decide) (by decide), htold]
    · exact htold

/-- Of what Lehr knows of a sample, nothing changes with the level. -/
def SampleKept (s t : State) : Prop := t.thermal.sampled = s.thermal.sampled ∧ t.thermal.sampleTick = s.thermal.sampleTick

theorem SampleKept.of_only {ps : List Part} {s t : State} (h : Only ps s t) (g : Part.thermal ∉ ps) : SampleKept s t := by
  unfold SampleKept
  rw [h.eq_thermal g]
  exact ⟨rfl, rfl⟩

theorem SampleKept.trans {s t u : State} (h : SampleKept s t) (g : SampleKept t u) : SampleKept s u :=
  ⟨g.1.trans h.1, g.2.trans h.2⟩

theorem SampleKept.withStop {s t : State} (h : SampleKept s t) (b : Bool) :
    SampleKept s ({ t with thermal := { t.thermal with stopPending := b } } : State) := h

theorem State.narrowPorts_sample (s : State) : SampleKept s s.narrowPorts := by
  unfold State.narrowPorts
  refine List.foldlRecOn (motive := fun t => SampleKept s t) _ _ ⟨rfl, rfl⟩ fun t ht p _ => ?_
  split
  · exact ht.trans (u := t.shortRetrainOn p _) (SampleKept.of_only (State.shortRetrainOn_only t p _) (by decide))
  · exact ht

theorem State.setDeviceLevel_sample (s : State) (new : Nat) : SampleKept s (s.setDeviceLevel new) := by
  have htold : SampleKept s (((s.setF thStatusLevel new).pulseSource 0x403).tellRise (s.f thStatusLevel) new) := by
    refine SampleKept.of_only (ps := [.out, .regs, .pcie, .log, .logWritten, .lines, .pulses, .sideband]) ?_ (by decide)
    unfold State.tellRise
    (repeat' split) <;> simp
  rw [State.setDeviceLevel_eq]
  dsimp only
  generalize ((s.setF thStatusLevel new).pulseSource 0x403).tellRise (s.f thStatusLevel) new = u at htold ⊢
  split
  · exact ⟨rfl, rfl⟩
  · split
    · exact htold.trans u.narrowPorts_sample
    · exact htold

theorem State.applyRefresh_regs (s : State) : OnlyRegs ((List.range 64).flatMap (fun n => [mcPcRefreshRate n]) ++
    [mvEligible, mvStatusEligible, mvThermExcl, mvStatusFloorHit, mvStatusOut, mvPoolRows, mvRetiredBanks, mvSplitTUnits, qmPoolLimit]) s
      s.applyRefresh := by
  have hrates : ∀ t : State, OnlyRegs ((List.range 64).flatMap fun n => [mcPcRefreshRate n]) t _ := fun t =>
    OnlyRegs.foldl_range fun x n => State.setF_regs x (mcPcRefreshRate n) (nextRate (x.f (mcPcRefreshRate n)) (x.layer (x.layerOf n)).temp)
  exact (hrates s).append ((State.syncPools_regs _).trans ((State.syncFloor_regs _).mono (List.nil_subset _)))

/-! ### What a sample shows -/

/-- The sample of tick `tick` is the last, TH_STATUS shows it, and every layer has the temperature of its sensors. -/
structure SampleShows (tick : Tick) (s : State) : Prop where
  sampled : s.thermal.sampled = true
  taken : s.thermal.sampleTick = tick
  level : s.f thStatusLevel = s.maxLevel
  hottest : s.f thStatusHottest = s.hottest
  temps : s.TempsFollow

/-- What comes after does not change it, unless it changes what the temperatures rest on. -/
theorem SampleShows.of_same {tick : Tick} {s t : State} (h : SampleShows tick s) (hs : SameSensing s t) (hl : t.layers = s.layers)
    (hk : SampleKept s t) (hlevel : t.f thStatusLevel = s.f thStatusLevel) (hhottest : t.f thStatusHottest = s.f thStatusHottest) :
    SampleShows tick t where
  sampled := hk.1.trans h.sampled
  taken := hk.2.trans h.taken
  level := by rw [hlevel, hs.maxLevel hl, h.level]
  hottest := by rw [hhottest, hs.hottest hl, h.hottest]
  temps := h.temps.of_same hs hl

theorem State.setDeviceLevel_same (s : State) (new : Nat) :
    SameSensing s (s.setDeviceLevel new) ∧ (s.setDeviceLevel new).layers = s.layers :=
  ⟨SameSensing.of_frames (State.setDeviceLevel_only s new) (State.setDeviceLevel_regs s new) (by decide) (by decide) (by decide),
    (State.setDeviceLevel_only s new).eq_layers (by decide)⟩

theorem State.applyRefresh_same (s : State) : SameSensing s s.applyRefresh ∧ s.applyRefresh.layers = s.layers :=
  ⟨SameSensing.of_frames (State.applyRefresh_only s) (State.applyRefresh_regs s) (by decide) (by decide) (by decide),
    (State.applyRefresh_only s).eq_layers (by decide)⟩

/-- HOTTEST and FAST of TH_STATUS at a sample. -/
def State.showHottest (s : State) : State := s.setFs [(thStatusHottest, s.hottest), (thStatusFast, b2n s.wantsFast)]

theorem State.showHottest_same (s : State) : SameSensing s s.showHottest :=
  SameSensing.of_frames (ps := [.regs]) (ks := [thStatusHottest, thStatusFast]) (by simp [State.showHottest])
    (by simp [State.showHottest]) (by decide) (by decide) (by decide)

theorem State.showHottest_hottest (s : State) : s.showHottest.f thStatusHottest = s.hottest := by
  rw [State.showHottest, State.setFs_cons, State.f_setFs_other _ _ (show _ ∉ [thStatusFast] by decide), State.f_setF_same]

theorem State.judgeSample_shows {s : State} {tick : Tick} (hsampled : s.thermal.sampled = true) (htick : s.thermal.sampleTick = tick)
    (htemps : s.TempsFollow) : SampleShows tick s.judgeSample := by
  have hshow := State.showHottest_same s
  obtain ⟨hlevel, hlevelLayers⟩ := State.setDeviceLevel_same s.showHottest s.showHottest.maxLevel
  have hu : SampleShows tick (s.showHottest.setDeviceLevel s.showHottest.maxLevel) := by
    obtain ⟨hkept, hkeptTick⟩ := State.setDeviceLevel_sample s.showHottest s.showHottest.maxLevel
    refine ⟨hkept.trans hsampled, hkeptTick.trans htick, ?_, ?_, htemps.of_same (hshow.trans hlevel) (hlevelLayers.trans rfl)⟩
    · rw [State.setDeviceLevel_level, hlevel.maxLevel hlevelLayers]
    · rw [State.setDeviceLevel_status _ _ _ (by decide) (by decide), State.showHottest_hottest, hlevel.hottest hlevelLayers,
        hshow.hottest rfl]
  obtain ⟨hrefresh, hrefreshLayers⟩ := State.applyRefresh_same (s.showHottest.setDeviceLevel s.showHottest.maxLevel)
  exact hu.of_same hrefresh hrefreshLayers (SampleKept.of_only (State.applyRefresh_only _) (by decide))
    (State.applyRefresh_regs _ _ (by decide)) (State.applyRefresh_regs _ _ (by decide))

theorem State.judgeSample_pilot (s : State) : s.judgeSample.pilot = s.pilot := by
  refine Only.eq_pilot (ps := [.out, .regs, .pcie, .log, .logWritten, .lines, .pulses, .thermal, .sideband, .ports, .lanes, .regulator]) ?_
    (by decide)
  simp [State.judgeSample]

theorem State.addSource_regs (s : State) (b : Nat) :
    OnlyRegs ([thStatusSources] ++ ([thStatusQuenched, thQuenchTick, fxStatusPaused, thCountQuenches] ++
      (List.range 18).flatMap (fun c => [bmChStatusState c]) ++ (List.range 16).flatMap disableRegs)) s (s.addSource b) := by
  unfold State.addSource
  dsimp only
  split
  · exact (State.setF_regs _ _ _).mono (List.subset_append_left _ _)
  · exact (State.setF_regs _ _ _).append (State.quenchBegin_regs _)

theorem State.addSource_same (s : State) (b : Nat) : SameSensing s (s.addSource b) ∧ (s.addSource b).layers = s.layers :=
  ⟨SameSensing.of_frames (State.addSource_only s b) (State.addSource_regs s b) (by decide) (by decide) (by decide),
    (State.addSource_only s b).eq_layers (by decide)⟩

theorem State.quenchBegin_sample (s : State) : SampleKept s s.quenchBegin := by
  have hstop : Only [.out, .regs, .ports] s (((s.setFs [(thStatusQuenched, 1), (thQuenchTick, s.now), (fxStatusPaused, 1)]).bump
      thCountQuenches 16).pauseChannels.quenchPorts) := by simp
  unfold State.quenchBegin
  dsimp only
  exact (SampleKept.of_only hstop (by decide)).withStop true

theorem State.addSource_sample (s : State) (b : Nat) : SampleKept s (s.addSource b) := by
  unfold State.addSource
  dsimp only
  split
  · exact ⟨rfl, rfl⟩
  · exact SampleKept.trans (t := s.setF thStatusSources (setBit (s.f thStatusSources) b)) ⟨rfl, rfl⟩ (State.quenchBegin_sample _)

/-! ### Canaries (R560) -/

theorem execCanaryTest_measures {s : State} {l : Nat} (failed : Nat) (hpresent : s.layerPresent l = true) (hlow : 1 ≤ l) (hhigh : l ≤ 16)
    (hhold : s.pilot.stackHold = false) (hawake : s.layerAsleep l = false) :
    execCanaryTest l failed s = .next (s.setLayer l { s.layer l with failed := failed % 256 }) :=
  if_pos (by simp [hpresent, isDram, hlow, hhigh, hhold, hawake])

end Sys2Proof.Machine

open Sys2Proof Sys2Proof.Machine

/-- Settles O10: a sample leaves what its readings give, and neither the level, nor the refresh rates, nor a quench that begins changes
what the temperatures rest on. -/
theorem thermalSensingActs : Obligations.ThermalSensingActs := by
  unfold Obligations.ThermalSensingActs
  refine ⟨?sample, ?recover, ?canary⟩
  case sample =>
    intro s x hpast
    have hx := execThermalSample_taken x hpast
    have hshows : SampleShows x.tick (s.takeSample x).judgeSample :=
      State.judgeSample_shows rfl rfl (State.takeSample_follow s x)
    have hpilot : (s.takeSample x).judgeSample.pilot = s.pilot :=
      (State.judgeSample_pilot _).trans (State.takeSample_pilot s x)
    generalize (s.takeSample x).judgeSample = e at hx hshows hpilot
    split at hx
    next hhot =>
      obtain ⟨hsame, hlayers⟩ := State.addSource_same e 0
      have hstatus := State.addSource_status e 0
      obtain ⟨hsampled, htaken, hlevel, hhottest, htemps⟩ := hshows.of_same hsame hlayers (State.addSource_sample e 0)
        (hstatus _ (by decide) (by decide)) (hstatus _ (by decide) (by decide))
      refine ⟨_, hx, hsampled, htaken, hlevel, hhottest, htemps, fun _ _ => ⟨State.addSource_quenched e 0, ?_⟩⟩
      rw [State.addSource_sources]
      exact bitOf_setBit_same _ _
    next hnot =>
      obtain ⟨hsampled, htaken, hlevel, hhottest, htemps⟩ := hshows
      refine ⟨_, hx, hsampled, htaken, hlevel, hhottest, htemps, fun hrunning hhot => absurd ?_ hnot⟩
      simpa [State.tooHot, hpilot, hrunning] using hhot
  case recover =>
    intro s n hsuspect hrecovering
    refine ⟨_, if_pos ⟨hsuspect, hrecovering⟩, ?_, ?_, by simp⟩
    · simp [State.sensor, State.setSensor]
    · intro m hm
      simp [State.sensor, State.setSensor, Map.get_set, hm]
  case canary =>
    intro s l failed hpresent hlow hhigh hhold hawake
    refine ⟨_, execCanaryTest_measures failed hpresent hlow hhigh hhold hawake, ?_, ?_, by simp⟩
    · rw [State.layer_setLayer, if_pos rfl]
    · intro m hm
      rw [State.layer_setLayer, if_neg hm]
end

section
/-!
The start-up (R86 to R92, R98, R112, R114): a step before the last changes only what it works on and hands over to a later step, so that
eight of them reach PCIE_READY, or one of them stops at the quench level.
-/
namespace Sys2Proof.Machine

/-! ### What the units of a start-up step change of the status fields -/

section
variable {ks : List Fld} {s t u : State}

/-- A step made for each element of a list. -/
theorem StatusOnly.foldl {α : Type} {l : List α} {f : State → α → State} (h : ∀ x, ∀ a ∈ l, StatusOnly ks x (f x a)) :
    StatusOnly ks s (l.foldl f s) := by
  induction l generalizing s with
  | nil => exact StatusOnly.refl ks s
  | cons a r ih =>
    exact (h s a (List.mem_cons_self ..)).trans (ih fun x b hb => h x b (List.mem_cons_of_mem a hb))

theorem StatusOnly.ite {c : Prop} [Decidable c] (h : StatusOnly ks s t) (g : StatusOnly ks s u) :
    StatusOnly ks s (if c then t else u) := by
  split
  · exact h
  · exact g

end

/-- The status fields that a start-up step can change: none of them is a level or PCIE_READY. -/
def bootStatus : List Fld := [devStatusStage, devStatusStackFault, devStatusReportValid, devStatusDpReady]

theorem State.pcsRun_status (s : State) : StatusOnly [] s s.pcsRun :=
  StatusOnly.foldl_regs (fun x n => State.setF_regs x (mcPcStatusState n) _) (by decide)

theorem delayFields_lt : ∀ d ∈ delayFields, d.1 < fld 0x100 0 := by decide

/-- The delays of a pseudo-channel lie in the block of its controller. -/
theorem isStatus_delay {n off : Nat} (_ : n < 64) (ho : off < fld 0x100 0) : isStatus (fld (mcPcBase n) 0 + off) = false := by
  unfold isStatus fldOff mcPcBase
  unfold fld at ho ⊢
  rw [Bool.or_eq_false_iff, beq_eq_false_iff_ne, beq_eq_false_iff_ne]
  omega

theorem State.setDelay_status {n : Nat} (s : State) (off v : Nat) (hn : n < 64) : StatusOnly [] s (s.setDelay n off v) := by
  unfold State.setDelay
  split
  next => exact StatusOnly.refl _ _
  next d hd =>
    have hmem := delayFields_lt d (List.mem_of_find?_eq_some hd)
    have hoff : d.1 = off := by simpa using List.find?_some hd
    refine (State.setF_regs s _ _).statusOnly fun k hk hs => ?_
    rw [List.mem_singleton.mp hk, isStatus_delay hn (hoff ▸ hmem)] at hs
    exact absurd hs (by decide)

theorem State.setDelays_status {n : Nat} (s : State) (l : List (Nat × Nat)) (hn : n < 64) : StatusOnly [] s (s.setDelays n l) :=
  StatusOnly.foldl fun x y _ => State.setDelay_status x y.1 y.2 hn

/-- A pseudo-channel that is in service is one of the 64. -/
theorem lt_of_mem_filter_range {n m : Nat} {p : Nat → Bool} (h : n ∈ (List.range m).filter p) : n < m :=
  List.mem_range.mp (List.mem_of_mem_filter h)

theorem State.loadDelays_status (s : State) : StatusOnly [] s s.loadDelays := by
  have hdelays : ∀ l : State → Nat → List (Nat × Nat), StatusOnly [] s
      (((List.range 64).filter s.pcLive).foldl (fun t n => t.setDelays n (l t n)) s) := fun l =>
    StatusOnly.foldl fun x n hn => State.setDelays_status x _ (lt_of_mem_filter_range hn)
  have hspares : ∀ (x : State) (y : SelfTest) (v : Nat), StatusOnly [] x (({ x with test := y } : State).setF tcSparesInUse v) :=
    fun x y v => StatusOnly.trans (StatusOnly.of_regs_eq rfl) ((State.setF_regs _ tcSparesInUse v).statusOnly (by decide))
  unfold State.loadDelays
  dsimp only
  exact (hdelays _).trans (hspares _ _ _)

theorem State.countFill_status (s : State) : StatusOnly [] s s.countFill := by
  refine StatusOnly.foldl fun x n hn => (State.setF_regs x (mcPcAct n) _).statusOnly ?_
  have hlt := lt_of_mem_filter_range hn
  clear hn
  revert n
  decide

theorem State.coldFill_status (s : State) (bad : Nat) : StatusOnly bootStatus s (s.coldFill bad) := by
  unfold State.coldFill
  dsimp only
  have hlost : StatusOnly bootStatus s ((s.loseTables.reportLost).cullInFill bad) :=
    (((State.loseTables_regs s).statusOnly (by decide)).trans ((State.reportLost_regs _).statusOnly (by decide))).trans
      ((State.cullInFill_regs _ bad).statusOnly (by decide))
  have hdivided : ∀ (a x : State) (v : Nat), x.regs = a.regs → StatusOnly bootStatus a
      (x.setFs ((mvSplitTUnits, v) :: (List.range 8).map (fun i => (igTableDamaged i, 0)))) := fun a x v h =>
    (StatusOnly.of_regs_eq h).trans (State.setFs_status x (mvSplitTUnits :: (List.range 8).map igTableDamaged) rfl (by decide))
  have hfilled : ∀ c : State, StatusOnly bootStatus c c.pcsRun.countFill.divide.fillDone := fun c =>
    ((((State.pcsRun_status c).trans (State.countFill_status _)).trans ((State.divide_regs _).statusOnly (by decide))).trans
      ((State.fillDone_regs _).statusOnly (by decide))).mono (List.nil_subset _)
  refine StatusOnly.trans ?_ (hfilled _)
  exact hlost.trans (hdivided _ _ _ rfl)

theorem State.cullPc_status {n : Nat} (s : State) (hn : n < 64) : StatusOnly [] s (s.cullPc n) := by
  refine (State.cullPc_regs s n).statusOnly ?_
  revert n
  decide

theorem State.cullEngine_status (s : State) (n : Nat) : StatusOnly [] s (s.cullEngine n) :=
  (State.setFs_status s [tcCulletEng, teEngines] rfl (by decide)).trans ((State.leaveEngine_regs _ n).statusOnly (by decide))

theorem State.cullBench_status (s : State) (b : Nat) : StatusOnly [] s (s.cullBench b) :=
  ((StatusOnly.foldl fun x i _ => State.cullEngine_status x (8 * b + i)).trans
    ((State.closeDomains_regs _ _ _).statusOnly (by decide))).trans
      (State.setFs_status _ [tcCulletMiscBench, teBenchRunning] rfl (by decide))

theorem State.cullMc_status {m : Nat} (s : State) (hm : m < 16) : StatusOnly [] s (s.cullMc m) := by
  unfold State.cullMc
  dsimp only
  refine StatusOnly.trans (t := (List.range 4).foldl (fun t j => t.cullPc (4 * m + j))
    (s.setF tcCulletMiscMc (setBit (s.f tcCulletMiscMc) m))) ?_
    (StatusOnly.ite ((State.closeDomains_regs _ _ _).statusOnly (by decide)) (StatusOnly.refl _ _))
  exact ((State.setF_regs s tcCulletMiscMc _).statusOnly (by decide)).trans
    (StatusOnly.foldl_range fun x j hj => State.cullPc_status x (by omega))

theorem State.cullPort_status {p : Nat} (s : State) (hp : p < 16) : StatusOnly bootStatus s (s.cullPort p) := by
  unfold State.cullPort
  dsimp only
  have hstop : ∀ (x : State) (r : Nat), StatusOnly bootStatus x (x.stopPort p r false) := by
    intro x r
    refine (State.stopPort_regs x p r false).statusOnly ?_
    revert p
    decide
  exact (((StatusOnly.of_regs_eq (t := s.fresh.2) rfl).trans (hstop _ _)).trans ((State.closeDomains_regs _ _ _).statusOnly (by decide))).trans
    (((State.setF_regs _ tcCulletPort _).statusOnly (by decide)).trans ((State.settlePorts_regs _).statusOnly (by decide)))

theorem State.cullUnit_status (s : State) (k : UnitKind) {u : Nat} (hu : u < unitsOf k) : StatusOnly bootStatus s (s.cullUnit k u) := by
  cases k with
  | engine => exact (State.cullEngine_status s u).mono (List.nil_subset _)
  | bench => exact (State.cullBench_status s u).mono (List.nil_subset _)
  | controller => exact (State.cullMc_status s hu).mono (List.nil_subset _)
  | portCore => exact State.cullPort_status s hu
  | qmSlice => exact (State.setF_regs s tcCulletMiscQms _).statusOnly (by decide)

theorem State.bistKind_status (s : State) (k : UnitKind) (bad : Nat) : StatusOnly bootStatus s (s.bistKind k bad) := by
  have hbump : ∀ (x : State) {f : Fld}, f ∈ [tcBistLastTested, tcBistLastFailed] → StatusOnly bootStatus x (x.bump f 8) := by
    intro x f hf
    refine (State.setF_regs x f _).statusOnly ?_
    revert f
    decide
  refine StatusOnly.foldl_range fun x u hu => StatusOnly.ite (StatusOnly.refl _ _) (StatusOnly.ite ?_ (hbump x (by decide)))
  exact (((hbump x (by decide)).trans (hbump _ (by decide))).trans (State.cullUnit_status _ k hu)).trans
    ((State.report_status _ _).mono (List.nil_subset _))

theorem State.powerOnBist_status (s : State) (b : BootInput) : StatusOnly bootStatus s (s.powerOnBist b) :=
  StatusOnly.ite
    (((((State.bistKind_status s _ _).trans (State.bistKind_status _ _ _)).trans (State.bistKind_status _ _ _)).trans
      (State.bistKind_status _ _ _)).trans (State.bistKind_status _ _ _))
    (StatusOnly.refl _ _)

/-! ### A step keeps the sequence where it is -/

/-- From `s` to `t` the sequence stands at the same step, and the level and PCIE_READY are as before. -/
structure SameStep (s t : State) : Prop where
  phase : t.pilot.phase = s.pilot.phase
  next : t.pilot.next = s.pilot.next
  stepTick : t.pilot.stepTick = s.pilot.stepTick
  status : StatusOnly bootStatus s t

section
variable {s t u : State}

theorem SameStep.refl (s : State) : SameStep s s := ⟨rfl, rfl, rfl, StatusOnly.refl _ _⟩

theorem SameStep.trans (h : SameStep s t) (g : SameStep t u) : SameStep s u :=
  ⟨g.phase.trans h.phase, g.next.trans h.next, g.stepTick.trans h.stepTick, h.status.trans g.status⟩

theorem SameStep.of_pilot (h : t.pilot = s.pilot) (hs : StatusOnly bootStatus s t) : SameStep s t :=
  ⟨by rw [h], by rw [h], by rw [h], hs⟩

theorem SameStep.ite {c : Prop} [Decidable c] (h : SameStep s t) (g : SameStep s u) : SameStep s (if c then t else u) := by
  split
  · exact h
  · exact g

theorem SameStep.level (h : SameStep s t) : t.f thStatusLevel = s.f thStatusLevel := h.status _ (by decide) (by decide)

theorem SameStep.pcieReady (h : SameStep s t) : t.f devStatusPcieReady = s.f devStatusPcieReady := h.status _ (by decide) (by decide)

end

theorem State.senseStep_same (s : State) : SameStep s s.senseStep :=
  .of_pilot ((State.senseStep_only s).eq_pilot (by decide)) ((State.senseStep_regs s).statusOnly (by decide))

theorem State.anvilStep_pilot (s : State) (b : BootInput) :
    (s.anvilStep b).pilot = { s.pilot with driversOff := false, avBeat := (s.checkFuses b.patchOk).now } := by
  have hp : (s.checkFuses b.patchOk).pilot = s.pilot := (State.checkFuses_only s b.patchOk).eq_pilot (by decide)
  unfold State.anvilStep
  dsimp only
  rw [State.setFs_keeps_pilot, hp]

theorem State.anvilStep_same (s : State) (b : BootInput) : SameStep s (s.anvilStep b) := by
  have hp := State.anvilStep_pilot s b
  exact ⟨by rw [hp], by rw [hp], by rw [hp], (State.anvilStep_regs s b).statusOnly (by decide)⟩

theorem State.cullAtReset_same (s : State) (mask : Nat) : SameStep s (s.cullAtReset mask) :=
  ⟨rfl, rfl, rfl, (State.cullAtReset_regs s mask).statusOnly (by decide)⟩

theorem State.report_same (s : State) (e : LogEvent) : SameStep s (s.report e) :=
  .of_pilot ((State.report_only s e).eq_pilot (by decide)) ((State.report_status s e).mono (List.nil_subset _))

theorem State.setFs_same (s : State) {l : List (Fld × Nat)} (fs : List Fld) (hl : l.map (·.1) = fs)
    (g : ∀ k ∈ fs, isStatus k = true → k ∈ bootStatus) : SameStep s (s.setFs l) :=
  .of_pilot (State.setFs_keeps_pilot s l) (State.setFs_status s fs hl g)

theorem State.discoveryEnds_same (s : State) (k : Nat) : SameStep s (s.discoveryEnds k) := by
  unfold State.discoveryEnds
  dsimp only
  refine .ite ?_ (.ite ?_ ?_)
  · exact (State.setFs_same s [devStackFound, devStatusStackFault, devStatusStage] rfl (by decide)).trans (State.report_same _ _)
  · exact State.setFs_same s (l := [(devStackFound, _)]) [devStackFound] rfl (by decide)
  · exact ((State.cullAtReset_same s _).trans (State.setFs_same _ [tcCulletLayer, devStackFound] rfl (by decide))).trans
      (State.report_same _ _)

theorem State.loadDelays_same (s : State) : SameStep s s.loadDelays :=
  .of_pilot ((State.loadDelays_only s).eq_pilot (by decide)) ((State.loadDelays_status s).mono (List.nil_subset _))

theorem State.releaseStack_same (s : State) : SameStep s s.releaseStack := by
  have hp : s.releaseStack.pilot = { s.pilot with stackHold := false } := (State.pcsRun_only _).eq_pilot (by decide)
  exact ⟨by rw [hp], by rw [hp], by rw [hp],
    StatusOnly.trans (StatusOnly.of_regs_eq rfl) ((State.pcsRun_status _).mono (List.nil_subset _))⟩

theorem State.cullInFill_same (s : State) (bad : Nat) : SameStep s (s.cullInFill bad) := by
  unfold State.cullInFill
  generalize List.range 64 = l
  induction l generalizing s with
  | nil => exact .refl s
  | cons n r ih => exact (SameStep.ite ((State.cullAtReset_same s _).trans (State.report_same _ _)) (.refl s)).trans (ih _)

/-- The fill after the pseudo-channels that fail in it have left. -/
theorem State.coldFill_pilot (s : State) (bad : Nat) :
    (s.coldFill bad).pilot = { (s.loseTables.reportLost.cullInFill bad).pilot with newlyCulled := 0 } := by
  have hend : ∀ (c : State), c.pcsRun.countFill.divide.fillDone.pilot = c.pilot := fun c =>
    Only.eq_pilot (ps := [.free, .regs, .regulator]) (by simp) (by decide)
  unfold State.coldFill
  dsimp only
  rw [hend, State.setFs_keeps_pilot]

theorem State.coldFill_same (s : State) (bad : Nat) : SameStep s (s.coldFill bad) := by
  have hlost : SameStep s (s.loseTables.reportLost.cullInFill bad) := by
    refine SameStep.trans (t := s.loseTables.reportLost) (.of_pilot ?_ ?_) (State.cullInFill_same _ bad)
    · exact ((State.reportLost_only _).eq_pilot (by decide)).trans ((State.loseTables_only s).eq_pilot (by decide))
    · exact ((State.loseTables_regs s).statusOnly (by decide)).trans ((State.reportLost_regs _).statusOnly (by decide))
  have hp := State.coldFill_pilot s bad
  exact ⟨by rw [hp]; exact hlost.phase, by rw [hp]; exact hlost.next, by rw [hp]; exact hlost.stepTick, State.coldFill_status s bad⟩

theorem State.fillStep_same (s : State) (held : Bool) (b : BootInput) : SameStep s (s.fillStep held b) := by
  refine .ite (.of_pilot ?_ ?_) (State.coldFill_same s _)
  · exact (State.heldFill_only s).eq_pilot (by decide)
  · exact (State.heldFill_regs s).statusOnly (by decide)

theorem State.powerOnBist_same (s : State) (b : BootInput) : SameStep s (s.powerOnBist b) :=
  .of_pilot ((State.powerOnBist_only s b).eq_pilot (by decide)) (State.powerOnBist_status s b)

/-! ### From one step to the next (R112, R114) -/

@[simp] theorem State.toStep_pilot (s : State) (n : Nat) : (s.toStep n).pilot = { s.pilot with next := n } := rfl

theorem State.toStep_other (s : State) (n : Nat) {k : Fld} (h : k ≠ devStatusStage) : (s.toStep n).f k = s.f k :=
  State.toStep_regs s n k (by simpa using h)

theorem State.toStep_stage (s : State) (n : Nat) :
    (s.toStep n).f devStatusStage =
      if s.f thStatusLevel = 5 then 0xB else ({ s with pilot := { s.pilot with next := n } } : State).bootStage :=
  State.f_setF_same _ _ _

/-- A step before the last does its work and hands over to a later one. -/
theorem State.bootStep_toStep {s : State} (held : Bool) (b : BootInput) (h4 : 4 ≤ s.pilot.next) (h10 : s.pilot.next ≤ 10) :
    ∃ u n, s.bootStep held b = u.toStep n ∧ SameStep s u ∧ s.pilot.next < n ∧ n ≤ 11 := by
  obtain h | h | h | h | h | h | h : s.pilot.next = 4 ∨ s.pilot.next = 5 ∨ s.pilot.next = 6 ∨ s.pilot.next = 7 ∨ s.pilot.next = 8 ∨
      s.pilot.next = 9 ∨ s.pilot.next = 10 := by omega
  all_goals
    unfold State.bootStep
    rw [h]
    dsimp only
  · exact ⟨_, _, rfl, State.senseStep_same s, by omega, by omega⟩
  · exact ⟨_, _, rfl, State.anvilStep_same s b, by split <;> omega, by split <;> omega⟩
  · exact ⟨_, _, rfl, State.discoveryEnds_same s _, by omega, by omega⟩
  · exact ⟨_, _, rfl, State.loadDelays_same s, by omega, by omega⟩
  · exact ⟨_, _, rfl, .ite (.refl s) (State.releaseStack_same s), by omega, by omega⟩
  · have hlater : ∀ d : Bool, 9 < (if d then 10 else 11) ∧ (if d then 10 else 11) ≤ 11 := by decide
    exact ⟨_, _, rfl, .ite (.refl s) (State.fillStep_same s held b), (hlater _).1, (hlater _).2⟩
  · exact ⟨_, _, rfl, State.powerOnBist_same s b, by omega, by omega⟩

/-! ### The last step (R81, R86 step 11, R114, R117) -/

/-- What PCIE_READY leaves, for a sequence whose step 4 began at `since`. -/
structure AtReady (now since : Tick) (t : State) : Prop where
  phase : t.pilot.phase = .running
  pcieReady : t.f devStatusPcieReady = 1
  linkUp : t.pcie.linkUp = true
  stage : t.f devStatusStage = if t.on devStatusStackFault then 0xC else 8
  bootTime : t.f devBootTimeToReady = min ((now - since) / 40000) 65535

/-- The fields that the last step writes before STAGE and PCIE_READY. -/
def readyFields : List Fld :=
  [hcLinkSpeed, hcLinkWidth, plPwrOn, plClkActive, teEngines, teBenchPowered, devBootTimeToReady] ++ (List.range 16).map mcCtrlPolicy

/-- The last step writes its registers in a state that runs with the link up: STAGE and PCIE_READY after all others. -/
theorem State.reachReady_writes (s : State) :
    ∃ (b : State) (l : List (Fld × Nat)) (stage : Nat),
      s.reachReady = (b.setFs l).setFs [(devStatusStage, stage), (devStatusPcieReady, 1)] ∧
      b.pilot.phase = .running ∧ b.pcie.linkUp = true ∧ l.map (·.1) = readyFields ∧
      stage = (if b.on devStatusStackFault then 0xC else 8) ∧
      (b.setFs l).f devBootTimeToReady = min ((s.now - s.pilot.stepTick) / 40000) 65535 := by
  have holds : ∀ a : State, a.takeHolds.pilot = a.pilot ∧ a.takeHolds.pcie = a.pcie := fun a =>
    ⟨(State.takeHolds_only a).eq_pilot (by decide), (State.takeHolds_only a).eq_pcie (by decide)⟩
  unfold State.reachReady
  dsimp only
  obtain ⟨hpilot, hpcie⟩ := holds { s with
    pilot := { s.pilot with phase := .running, readyTick := s.now, sealed := !s.on fzStatusBootFault && !s.on devStatusStackFault }
    pcie := { s.pcie with linkUp := true }, marver := { s.marver with tierLines := s.tierLines }
    regulator := { s.regulator with opened := s.now } }
  generalize State.takeHolds _ = b at hpilot hpcie ⊢
  refine ⟨b.fresh.2.fresh.2, _, _, State.setFs_append _ _ _, ?_, ?_, rfl, rfl, ?_⟩
  · exact congrArg Pilot.phase hpilot
  · exact congrArg Pcie.linkUp hpcie
  · rw [State.setFs_append, State.f_setFs_other _ _ (show devBootTimeToReady ∉ (List.range 16).map mcCtrlPolicy by decide)]
    simp only [State.setFs_cons, State.setFs_nil, State.f_setF_same]

theorem State.reachReady_atReady (s : State) : AtReady s.now s.pilot.stepTick s.reachReady := by
  obtain ⟨b, l, stage, hs, hphase, hlink, hl, hstage, htime⟩ := s.reachReady_writes
  have hother : ∀ k, k ∉ [devStatusStage, devStatusPcieReady] → s.reachReady.f k = (b.setFs l).f k := by
    intro k hk
    rw [hs]
    exact State.f_setFs_other _ _ hk
  have hfault : s.reachReady.f devStatusStackFault = b.f devStatusStackFault := by
    rw [hother _ (by decide), State.f_setFs_other _ _ (by rw [hl]; decide)]
  refine ⟨?_, ?_, ?_, ?_, ?_⟩
  · rw [hs, State.setFs_keeps_pilot, State.setFs_keeps_pilot, hphase]
  · rw [hs]
    exact State.f_setF_same _ _ _
  · rw [hs, State.setFs_keeps_pcie, State.setFs_keeps_pcie, hlink]
  · rw [State.on, hfault, ← State.on, ← hstage, hs, State.setFs_cons,
      State.f_setFs_other _ _ (show devStatusStage ∉ [devStatusPcieReady] by decide), State.f_setF_same]
  · rw [hother _ (by decide), htime]

/-! ### The sequence (R86, R98, R112) -/

/-- One turn of the sequence: the step that is next, unless the sequence has ended or stopped. -/
def State.bootTurn (held : Bool) (b : BootInput) (t : State) : State :=
  if t.pilot.phase != .ready || t.bootStopped || decide (b.stop < t.pilot.next) then t else t.bootStep held b

theorem State.startUp_eq_iterate (s : State) (held : Bool) (b : BootInput) : s.startUp held b = (State.bootTurn held b)^[8] s :=
  List.foldl_const (State.bootTurn held b) s (List.range 8)

/-- The sequence is under way and goes on. -/
structure UnderWay (t : State) : Prop where
  phase : t.pilot.phase = .ready
  stage : t.f devStatusStage ≠ 0xB
  from4 : 4 ≤ t.pilot.next
  upTo11 : t.pilot.next ≤ 11

section
variable {s t : State} {held : Bool} {b : BootInput}

theorem UnderWay.bootTurn (h : UnderWay t) (hstop : t.pilot.next ≤ b.stop) : State.bootTurn held b t = t.bootStep held b := by
  unfold State.bootTurn
  rw [if_neg]
  simpa [h.phase, State.bootStopped, h.stage] using hstop

theorem State.bootTurn_ended (h : t.pilot.phase ≠ .ready) : State.bootTurn held b t = t :=
  if_pos (by simp [h])

theorem State.bootTurn_stopped (h : t.f devStatusStage = 0xB) : State.bootTurn held b t = t :=
  if_pos (by simp [State.bootStopped, h])

theorem State.bootStep_now (s : State) (held : Bool) (b : BootInput) : (s.bootStep held b).now = s.now :=
  congrArg TimeBase.ticks ((State.bootStep_only s held b).eq_time (by decide))

/-- Below the quench level a step before the last leaves the sequence under way at a later step. -/
theorem UnderWay.bootStep (h : UnderWay t) (hlevel : t.f thStatusLevel ≠ 5) (hnext : t.pilot.next ≤ 10) :
    UnderWay (t.bootStep held b) ∧ (t.bootStep held b).f thStatusLevel ≠ 5 ∧ t.pilot.next < (t.bootStep held b).pilot.next ∧
      (t.bootStep held b).pilot.stepTick = t.pilot.stepTick := by
  obtain ⟨u, n, he, hsame, hlt, hle⟩ := State.bootStep_toStep held b h.from4 hnext
  have hu : u.f thStatusLevel ≠ 5 := by rwa [hsame.level]
  have hstage : (u.toStep n).f devStatusStage ≠ 0xB := by
    rw [State.toStep_stage, if_neg hu]
    exact State.bootStage_ne_stopped _
  rw [he]
  refine ⟨⟨hsame.phase.trans h.phase, hstage, ?_, hle⟩, ?_, hlt, hsame.stepTick⟩
  · have := h.from4
    rw [State.toStep_pilot]
    dsimp only
    omega
  · rwa [State.toStep_other _ _ (by decide)]

/-- Below the quench level, enough turns reach PCIE_READY. -/
theorem UnderWay.reaches (h : UnderWay t) (hlevel : t.f thStatusLevel ≠ 5) (hstop : 11 ≤ b.stop) (n : Nat) (hn : 11 - t.pilot.next < n) :
    AtReady t.now t.pilot.stepTick ((State.bootTurn held b)^[n] t) := by
  induction n generalizing t with
  | zero => omega
  | succ n ih =>
    have h11 := h.upTo11
    rw [Function.iterate_succ_apply, h.bootTurn (by omega)]
    by_cases hlast : t.pilot.next = 11
    · have hready : t.bootStep held b = t.reachReady := by
        unfold State.bootStep
        rw [hlast]
        rfl
      have hend := t.reachReady_atReady
      rw [hready, Function.iterate_fixed (State.bootTurn_ended (by rw [hend.phase]; decide))]
      exact hend
    · obtain ⟨hway, hlevel', hlt, htick⟩ := h.bootStep (held := held) (b := b) hlevel (by omega)
      have := ih hway hlevel' (by omega)
      rwa [State.bootStep_now, htick] at this

/-- At the quench level the sequence stops at the end of the step that runs. -/
theorem UnderWay.stops (h : UnderWay t) (hlevel : t.f thStatusLevel = 5) (hstop : t.pilot.next ≤ b.stop) (hnext : t.pilot.next ≤ 10) :
    (t.startUp held b).pilot.phase = .ready ∧ (t.startUp held b).f devStatusStage = 0xB ∧
      (t.startUp held b).f devStatusPcieReady = t.f devStatusPcieReady := by
  obtain ⟨u, n, he, hsame, -, -⟩ := State.bootStep_toStep held b h.from4 hnext
  have hstage : (u.toStep n).f devStatusStage = 0xB := by
    rw [State.toStep_stage, hsame.level, if_pos hlevel]
  rw [State.startUp_eq_iterate, Function.iterate_succ_apply, h.bootTurn hstop, he,
    Function.iterate_fixed (State.bootTurn_stopped hstage)]
  exact ⟨hsame.phase.trans h.phase, hstage, by rw [State.toStep_other _ _ (by decide), hsame.pcieReady]⟩

theorem UnderWay.of_mayBoot (h : s.mayBoot = true) (h4 : 4 ≤ s.pilot.next) (h11 : s.pilot.next ≤ 11) : UnderWay s := by
  unfold State.mayBoot at h
  simp only [Bool.and_eq_true, beq_iff_eq, Bool.not_eq_true'] at h
  obtain ⟨⟨⟨hphase, -⟩, -⟩, hstopped⟩ := h
  exact ⟨hphase, by simpa [State.bootStopped] using hstopped, h4, h11⟩

/-- What a whole sequence below the quench level leaves. -/
theorem UnderWay.startUp_ready (h : UnderWay s) (hlevel : s.f thStatusLevel ≠ 5) (hstop : 11 ≤ b.stop) :
    (s.startUp held b).pilot.phase = .running ∧ (s.startUp held b).f devStatusPcieReady = 1 ∧ (s.startUp held b).pcie.linkUp = true ∧
      (s.startUp held b).f devStatusStage = (if (s.startUp held b).on devStatusStackFault then 0xC else 8) ∧
      (s.startUp held b).f devBootTimeToReady = min ((s.now - s.pilot.stepTick) / 40000) 65535 ∧
      (s.startUp held b).fuses = s.fuses ∧ (s.startUp held b).pending = s.pending := by
  have hready : AtReady s.now s.pilot.stepTick (s.startUp held b) := by
    have := h.from4
    rw [State.startUp_eq_iterate]
    exact h.reaches hlevel hstop 8 (by omega)
  have honly := State.startUp_only s held b
  exact ⟨hready.phase, hready.pcieReady, hready.linkUp, hready.stage, hready.bootTime, honly.eq_fuses (by decide),
    honly.eq_pending (by decide)⟩

theorem execColdStartSequence_runs (h : s.mayBoot = true) (hheld : s.on devResetCauseHeld = false) :
    execColdStartSequence b s = .next (s.startUp false b) := if_pos ⟨h, hheld⟩

theorem execHeldRestartSequence_runs (h : s.mayBoot = true) (hheld : s.on devResetCauseHeld = true) :
    execHeldRestartSequence b s = .next (s.startUp true b) := if_pos ⟨h, hheld⟩

end

/-! ### A layer that does not answer (R91, R92, R107, R108) -/

theorem execLayerDiscoveryTimeout_runs {s : State} {layer : Nat} (h : s.mayBoot = true) (hnext : s.pilot.next = 6) (hl : layer ≤ s.dies) :
    execLayerDiscoveryTimeout layer s = .next ((s.discoveryEnds layer).toStep 7) := if_pos ⟨h, hnext, hl⟩

theorem State.toStep_newest {s : State} {pre : LogPrefix} {code unit : Nat} (n : Nat) (h : Newest s pre code unit) :
    Newest (s.toStep n) pre code unit := h

/-- Without the Crucible or any DRAM layer there is a stack fault. -/
theorem State.discoveryEnds_fault {s : State} {k : Nat} (h : k ≤ 1) :
    s.discoveryEnds k = (s.setFs [(devStackFound, k), (devStatusStackFault, 1), (devStatusStage, 0xC)]).report
      { pre := .tc, code := 0x06, severity := 3, vector := some 0, data := k } := if_pos h

/-- The layers from `k` on leave service with their pseudo-channels. -/
def State.cullFrom (s : State) (k : Nat) : State :=
  (s.cullAtReset (s.pcsFrom k)).setFs [(tcCulletLayer, s.f tcCulletLayer ||| s.layersFrom k), (devStackFound, k)]

theorem State.discoveryEnds_partial {s : State} {k : Nat} (h : 2 ≤ k) (hk : k ≤ s.dies) :
    s.discoveryEnds k = (s.cullFrom k).report
      { pre := .tc, code := 0x07, severity := 1, vector := some 0, unitKind := 9, unit := k, data := k } := by
  unfold State.discoveryEnds
  rw [if_neg (by omega), if_neg (by omega)]
  rfl

theorem State.cullAtReset_pcLive (s : State) (mask : Nat) {n : Nat} (hn : n < 64) :
    (s.cullAtReset mask).pcLive n = (s.pcLive n && !bitOf mask n) := by
  unfold State.cullAtReset State.pcLive
  dsimp only
  rw [State.f_setF_same, bitOf_or, bitOf_maskOf _ hn]
  simp only [State.f]
  cases bitOf mask n <;> simp

theorem State.pcLive_congr {s t : State} (h : t.f tcCulletPc = s.f tcCulletPc) (n : Nat) : t.pcLive n = s.pcLive n := by
  unfold State.pcLive
  rw [h]

theorem State.layerOf_congr {s t : State} (h : t.trust = s.trust) (n : Nat) : t.layerOf n = s.layerOf n := by
  unfold State.layerOf State.pcsPerDie State.dies State.grade
  rw [h]

theorem State.discoveryEnds_pcLive {s : State} {k n : Nat} (h : 2 ≤ k) (hk : k ≤ s.dies) (hn : n < 64) :
    ((s.discoveryEnds k).toStep 7).pcLive n = (s.pcLive n && !decide (k ≤ s.layerOf n)) := by
  have hmap : ((s.discoveryEnds k).toStep 7).f tcCulletPc = (s.cullAtReset (s.pcsFrom k)).f tcCulletPc := by
    rw [State.toStep_other _ _ (by decide), State.discoveryEnds_partial h hk, State.report_regs _ _ _ (by decide)]
    exact State.f_setFs_other _ _ (show _ ∉ [tcCulletLayer, devStackFound] by decide)
  rw [State.pcLive_congr hmap, State.cullAtReset_pcLive _ _ hn]
  unfold State.pcsFrom
  rw [bitOf_maskOf _ hn]

end Sys2Proof.Machine

open Sys2Proof Sys2Proof.Machine

/-- Settles O4: a step before the last leaves the sequence under way at a later step (`UnderWay.bootStep`), so that eight turns reach the
last one; at the quench level the first turn stops it. -/
theorem sequencesReachReady : Obligations.SequencesReachReady := by
  unfold Obligations.SequencesReachReady
  refine ⟨?cold, ?held, ?stops, ?fault, ?partly⟩
  case cold =>
    intro s b hboot h4 h11 hstop hheld hlevel
    exact ⟨_, execColdStartSequence_runs hboot (by simpa [State.on] using hheld),
      (UnderWay.of_mayBoot hboot h4 h11).startUp_ready hlevel hstop⟩
  case held =>
    intro s b hboot h4 h11 hstop hheld hlevel
    exact ⟨_, execHeldRestartSequence_runs hboot (by simpa [State.on] using hheld),
      (UnderWay.of_mayBoot hboot h4 h11).startUp_ready hlevel hstop⟩
  case stops =>
    intro s b hboot h4 h10 hstop hlevel
    have hway := UnderWay.of_mayBoot hboot h4 (by omega)
    cases hheld : s.on devResetCauseHeld with
    | false => exact ⟨_, execColdStartSequence_runs hboot hheld, hway.stops hlevel hstop h10⟩
    | true => exact ⟨_, execHeldRestartSequence_runs hboot hheld, hway.stops hlevel hstop h10⟩
  case fault =>
    intro s layer hboot hnext hlevel h1 hdies
    have hx := execLayerDiscoveryTimeout_runs hboot hnext hdies
    have hlevel' : (s.discoveryEnds layer).f thStatusLevel ≠ 5 := by rwa [(State.discoveryEnds_same s layer).level]
    have hset : ∀ k, k ∉ logRegs → (s.discoveryEnds layer).f k =
        (s.setFs [(devStackFound, layer), (devStatusStackFault, 1), (devStatusStage, 0xC)]).f k := by
      intro k hk
      rw [State.discoveryEnds_fault h1]
      exact State.report_regs _ _ _ hk
    have hfault : (s.discoveryEnds layer).f devStatusStackFault = 1 := by
      rw [hset _ (by decide), State.setFs_cons, State.setFs_cons,
        State.f_setFs_other _ _ (show devStatusStackFault ∉ [devStatusStage] by decide), State.f_setF_same]
    refine ⟨_, hx, ?_, ?_, ?_, ?_, State.toStep_newest 7 ?_⟩
    · rw [State.toStep_other _ _ (by decide), hfault]
    · rw [State.toStep_stage, if_neg hlevel']
      exact if_pos (beq_iff_eq.mpr hfault)
    · rw [State.toStep_other _ _ (by decide), hset _ (by decide), State.setFs_cons,
        State.f_setFs_other _ _ (show devStackFound ∉ [devStatusStackFault, devStatusStage] by decide), State.f_setF_same]
    · rw [State.toStep_other _ _ (by decide), State.discoveryEnds_fault h1]
      exact State.report_alert _ _ rfl
    · rw [State.discoveryEnds_fault h1]
      exact State.report_newest _ _
  case partly =>
    intro s layer hboot hnext h2 hdies
    have hx := execLayerDiscoveryTimeout_runs hboot hnext hdies
    have hlayer : ∀ n, ((s.discoveryEnds layer).toStep 7).layerOf n = s.layerOf n :=
      State.layerOf_congr ((State.discoveryEnds_only s layer).eq_trust (by decide))
    refine ⟨_, hx, ?_, State.toStep_newest 7 ?_, ?_, ?_, ?_⟩
    · rw [State.toStep_other _ _ (by decide), State.discoveryEnds_partial h2 hdies, State.report_regs _ _ _ (by decide)]
      exact State.f_setF_same _ _ _
    · rw [State.discoveryEnds_partial h2 hdies]
      exact State.report_newest _ _
    · intro n hn hle
      rw [State.discoveryEnds_pcLive h2 hdies hn, ← hlayer]
      simp [hle]
    · intro n hn hlt
      rw [State.discoveryEnds_pcLive h2 hdies hn, ← hlayer]
      simp [hlt]
    · rw [State.toStep_other _ _ (by decide), State.discoveryEnds_partial h2 hdies, State.report_regs _ _ _ (by decide)]
      exact (State.f_setFs_other _ _ (show _ ∉ [tcCulletLayer, devStackFound] by decide)).trans
        (State.cullAtReset_regs _ _ _ (by decide))

end

section
/-!
The commanded reset (R98, R100 to R103, R113): its answer, what the drain of a quiesce keeps of the tables, and what the start of the
service firmware leaves.
-/
namespace Sys2Proof.Machine

/-! ### The tables that exist -/

/-- From `s` to `t` the same tables exist. -/
def TablesStay (s t : State) : Prop := ∀ n, (t.table n).isSome = (s.table n).isSome

section
variable {s t u : State}

theorem TablesStay.refl (s : State) : TablesStay s s := fun _ => rfl

theorem TablesStay.trans (h : TablesStay s t) (g : TablesStay t u) : TablesStay s u := fun n => (g n).trans (h n)

theorem TablesStay.of_only {ps : List Part} (h : Only ps s t) (g : Part.tables ∉ ps) : TablesStay s t := by
  intro n
  unfold State.table
  rw [h.eq_tables g]

theorem TablesStay.ite {c : Prop} [Decidable c] (h : TablesStay s t) (g : TablesStay s u) : TablesStay s (if c then t else u) := by
  split
  · exact h
  · exact g

theorem TablesStay.foldl {α : Type} {l : List α} {f : State → α → State} (h : ∀ x a, TablesStay x (f x a)) : TablesStay s (l.foldl f s) := by
  induction l generalizing s with
  | nil => exact TablesStay.refl s
  | cons a r ih => exact (h s a).trans ih

/-- A table that exists is replaced. -/
theorem State.putTable_tablesStay {n : Nat} (x : Table) (h : (s.table n).isSome = true) : TablesStay s (s.putTable n (some x)) := by
  intro m
  unfold State.table State.putTable at *
  dsimp only
  rw [Map.get_set]
  split
  next e => rw [e, h]; rfl
  next => rfl

theorem State.putTableAt_tablesStay (s : State) (n : Nat) (tick : Tick) (x : Table) : TablesStay s (s.putTableAt n tick x) := by
  unfold State.putTableAt
  split
  next u hu => exact TablesStay.ite (State.putTable_tablesStay x (by rw [hu]; rfl)) (TablesStay.refl s)
  next => exact TablesStay.refl s

end

/-! ### The drain keeps them (R101, R299, R300, R321, R326, R400) -/

theorem State.writeBackNode_tablesStay (s : State) (v : Node) : TablesStay s (s.writeBackNode v) := by
  unfold State.writeBackNode
  split
  next => exact TablesStay.refl s
  next t ht => exact TablesStay.ite (State.putTable_tablesStay _ (by rw [ht]; rfl)) (TablesStay.refl s)

theorem State.setNodes_tablesStay (s : State) (l : List Node) : TablesStay s (s.setNodes l) :=
  .of_only (State.setNodes_only s l) (by decide)

theorem State.promoteNode_tablesStay (s : State) (x : Nat × Nat × Option Nat) : TablesStay s (s.promoteNode x) := by
  unfold State.promoteNode
  dsimp only
  refine .ite (State.setNodes_tablesStay s _) (.ite (.refl s) (.ite (State.setNodes_tablesStay s _) ?_))
  split
  next => exact .refl s
  next v _ => exact (State.writeBackNode_tablesStay s v).trans (State.setNodes_tablesStay _ _)

theorem State.flagRow_tablesStay (s : State) (a : RowAt) : TablesStay s (s.flagRow a) :=
  TablesStay.trans (.of_only (State.bump_only s mvRowsFlagged 16) (by decide)) (.foldl State.promoteNode_tablesStay)

theorem State.setRowCount_tablesStay (s : State) (c : RowCount) : TablesStay s (s.setRowCount c) :=
  TablesStay.ite (TablesStay.trans (fun _ => rfl) (State.flagRow_tablesStay _ _)) (fun _ => rfl)

theorem State.activateRow_tablesStay (s : State) (p : RowAt) : TablesStay s (s.activateRow p) := by
  unfold State.activateRow
  dsimp only
  have hact : ∀ x : Pc, TablesStay s ((s.addF (mcPcAct p.pc) 1 (2 ^ 32 - 1)).setPc p.pc x) := fun x =>
    TablesStay.trans (.of_only (State.addF_only s _ _ _) (by decide)) (.of_only (State.setPc_only _ _ x) (by decide))
  exact .ite ((hact _).trans (State.setRowCount_tablesStay _ _)) (hact _)

theorem State.activate_tablesStay (s : State) (r : MemReq) : TablesStay s (s.activate r) := by
  unfold State.activate
  dsimp only
  have hopen : ∀ x : Pc, TablesStay s ((s.activateRow (placeOfReq r)).setPc r.pc x) := fun x =>
    (State.activateRow_tablesStay s _).trans (.of_only (State.setPc_only _ _ x) (by decide))
  exact .ite ((hopen _).trans (.of_only (State.countStaging_only _ _ _ _) (by decide))) (hopen _)

theorem State.issueReq_tablesStay (s : State) (n : Nat) (e : MemEntry) : TablesStay s (s.issueReq n e) := by
  unfold State.issueReq
  dsimp only
  have hleft : ∀ x : Pc, TablesStay s ((s.countLate n e).setPc n x) := fun x =>
    TablesStay.trans (.of_only (State.countLate_only s n e) (by decide)) (.of_only (State.setPc_only _ n x) (by decide))
  have hopen : ∀ (c : Bool) (x : Pc), TablesStay s (if c then (s.countLate n e).setPc n x else ((s.countLate n e).setPc n x).activate e.req) :=
    fun c x => .ite (hleft x) ((hleft x).trans (State.activate_tablesStay _ _))
  have hend : ∀ c : State, TablesStay c (((c.afterAccess e.req).noteDrain n).admitWaiting n) := fun c =>
    TablesStay.trans (TablesStay.trans (.of_only (State.afterAccess_only c _) (by decide)) (.of_only (State.noteDrain_only _ n) (by decide)))
      (.of_only (State.admitWaiting_only _ n) (by decide))
  refine TablesStay.trans (.ite ?_ ?_) (hend _)
  · exact (hopen _ _).trans (.of_only (State.landEntry_only _ e) (by decide))
  · exact (hopen _ _).trans (.of_only (State.emit_only _ _) (by decide))

theorem State.drainPc_tablesStay (s : State) (n : Nat) : TablesStay s (s.drainPc n) := by
  refine TablesStay.foldl fun t _ => ?_
  split
  next => exact .refl t
  next e _ => exact State.issueReq_tablesStay t n e

theorem State.drainAll_tablesStay (s : State) : TablesStay s s.drainAll :=
  TablesStay.foldl fun t n => .ite (State.drainPc_tablesStay t n) (.refl t)

theorem State.windowSector_tablesStay (s : State) (cls : Nat) (write opens : Bool) (words : List (Nat × Nat)) (k : Nat) :
    TablesStay s (s.windowSector cls write opens words k) := by
  unfold State.windowSector
  dsimp only
  have hwake : ∀ n, TablesStay s (s.wakePc n) := fun n => .of_only (State.wakePc_only s n) (by decide)
  split
  next w _ =>
    refine (hwake _).trans (.ite (.of_only (State.mergeWrite_only _ _ w) (by decide)) (.of_only (State.countForward_only _ _) (by decide)))
  next =>
    refine TablesStay.trans (TablesStay.trans ?_ (.of_only (State.landWords_only _ _) (by decide)))
      (.of_only (State.afterAccess_only _ _) (by decide))
    have hcharge : ∀ n, TablesStay s ((s.wakePc n).charge n cls).2 := fun n => (hwake n).trans (.of_only (State.charge_only _ _ _) (by decide))
    exact .ite (hcharge _) ((hcharge _).trans (State.activate_tablesStay _ _))

theorem State.windowAccess_tablesStay (s : State) (cls : Nat) (write : Bool) (a n : Nat) (b : List Byte) :
    TablesStay s (s.windowAccess cls write a n b) := by
  unfold State.windowAccess
  have hall : ∀ (l : List Nat) (x : State × Option RowAt), TablesStay x.1 (l.foldl (fun (t : State × Option RowAt) k =>
      let p := placeOfReq (t.1.windowReq cls write k)
      (t.1.windowSector cls write (t.2 != some p) (wordsAt a b k) k, some p)) x).1 := by
    intro l
    induction l with
    | nil => exact fun x => .refl x.1
    | cons k r ih => exact fun x => (State.windowSector_tablesStay x.1 cls write _ _ k).trans (ih _)
  exact hall _ (s, none)

theorem State.refuseWindow_tablesStay (s : State) (off : Nat) : TablesStay s (s.refuseWindow off) :=
  .of_only (State.refuseWindow_only s off) (by decide)

theorem State.emit_tablesStay (s : State) (o : Output) : TablesStay s (s.emit o) := .of_only (State.emit_only s o) (by decide)

theorem State.windowRead_tablesStay (s : State) (off n : Nat) : TablesStay s (s.windowRead off n) := by
  unfold State.windowRead State.hbRead
  dsimp only
  exact .ite (State.emit_tablesStay s _) (.ite (State.emit_tablesStay s _)
    (.ite ((State.refuseWindow_tablesStay s off).trans (State.emit_tablesStay _ _))
      (TablesStay.trans (.ite (State.windowAccess_tablesStay s _ _ _ _ _) (.refl s)) (State.emit_tablesStay _ _))))

theorem State.windowWrite_tablesStay (s : State) (off : Nat) (data : List Byte) (enables : Nat) :
    TablesStay s (s.windowWrite off data enables) := by
  unfold State.windowWrite State.hbWrite
  dsimp only
  exact .ite (.refl s) (.ite (State.refuseWindow_tablesStay s off)
    (.ite (State.windowAccess_tablesStay s _ _ _ _ _) (.of_only (State.stackWrite_only s _ _) (by decide))))

theorem State.windowTurn_tablesStay (s : State) (w : WindowAccess) : TablesStay s (s.windowTurn w) :=
  TablesStay.ite (fun _ => rfl) (TablesStay.ite (State.windowWrite_tablesStay s _ _ _) (State.windowRead_tablesStay s _ _))

theorem State.serveWindows_tablesStay (s : State) : TablesStay s s.serveWindows :=
  TablesStay.trans (t := { s with windows := [] }) (fun _ => rfl) (.foldl State.windowTurn_tablesStay)

theorem State.countOps_tablesStay (s : State) (n : Nat) (tick : Tick) (k : Nat) : TablesStay s (s.countOps n tick k) := by
  unfold State.countOps
  split
  next => exact .refl s
  next => exact State.putTableAt_tablesStay s n tick _

theorem State.answer_tablesStay (s : State) (r : Req) (status arg : Nat) (payload : List Byte) (packets : Nat) (measured : Option Nat) :
    TablesStay s (s.answer r status arg payload packets measured) :=
  .of_only (State.answer_only s r status arg payload packets measured) (by decide)

theorem State.noteServed_tablesStay (s : State) (n : Nat) (t : Table) (r : Req) : TablesStay s (s.noteServed n t r) :=
  .of_only (State.noteServed_only s n t r) (by decide)

theorem State.countLookups_tablesStay (s : State) (as : List Answer) : TablesStay s (s.countLookups as) :=
  .of_only (State.countLookups_only s as) (by decide)

theorem State.serveLookup_tablesStay (s : State) (r : Req) : TablesStay s (s.serveLookup r) := by
  unfold State.serveLookup
  split
  next => exact State.answer_tablesStay s r _ _ _ _ _
  next t _ =>
    exact (((State.noteServed_tablesStay s _ t r).trans (State.countLookups_tablesStay _ _)).trans (State.countOps_tablesStay _ _ _ _)).trans
      (State.answer_tablesStay _ r _ _ _ _ _)

theorem State.serveMulti_tablesStay (s : State) (r : Req) : TablesStay s (s.serveMulti r) := by
  unfold State.serveMulti
  dsimp only
  refine TablesStay.trans ?_ (State.answer_tablesStay _ r _ _ _ _ _)
  exact (State.countLookups_tablesStay s _).trans
    (.foldl fun u k => (State.noteServed_tablesStay u k.1 k.2 r).trans (State.countOps_tablesStay _ _ _ _))

theorem State.serveCounter_tablesStay (s : State) (r : Req) : TablesStay s (s.serveCounter r) := by
  unfold State.serveCounter
  split
  next => exact State.answer_tablesStay s r _ _ _ _ _
  next t _ =>
    have hcount : ∀ (x : Table) (k m : Nat), TablesStay s (((s.addF teCntOps k (2 ^ 64 - 1)).putTableAt r.object r.tick x).countOps r.object r.tick m) :=
      fun x k m => (TablesStay.trans (.of_only (State.addF_only s _ _ _) (by decide)) (State.putTableAt_tablesStay _ _ _ x)).trans
        (State.countOps_tablesStay _ _ _ m)
    refine .ite (.ite ?_ ?_) ?_
    · exact (hcount _ _ _).trans (State.answer_tablesStay _ r _ _ _ _ _)
    · exact (hcount _ _ _).trans (.of_only (State.dropRoom_only _ r) (by decide))
    · exact (hcount _ _ _).trans (State.answer_tablesStay _ r _ _ _ _ _)

theorem State.finishTable_tablesStay (s : State) (r : Req) : TablesStay s (s.finishTable r) :=
  TablesStay.trans (.of_only (State.setPort_only s _ _) (by decide))
    (.ite (State.serveLookup_tablesStay _ r) (.ite (State.serveMulti_tablesStay _ r) (State.serveCounter_tablesStay _ r)))

theorem State.endOps_tablesStay (s : State) : TablesStay s s.endOps := by
  unfold State.endOps
  refine TablesStay.trans ?_ (.foldl State.finishTable_tablesStay)
  exact .foldl fun t n => .ite (.of_only (State.setEngine_only t n _) (by decide)) (.refl t)

theorem State.drainStack_tablesStay (s : State) : TablesStay s s.drainStack :=
  ((State.drainAll_tablesStay s).trans (State.serveWindows_tablesStay _)).trans (State.endOps_tablesStay _)

/-! ### What a quiesce makes of the tables (R101) -/

theorem Map.get_map_option {α β : Type} (f : α → β) (m : Map (Option α)) (k : Nat) :
    Map.get (fun _ => none) (m.map (fun p => (p.1, p.2.map f))) k = (Map.get (fun _ => none) m k).map f := by
  induction m with
  | nil => rfl
  | cons p r ih =>
    simp only [List.map_cons, Map.get, ih]
    split <;> rfl

/-- Steps 3 to 6 of R101 for every table. -/
def State.quiesceTables (s : State) : State :=
  { s with tables := s.tables.map (fun (p : Nat × Option Table) => (p.1, p.2.map Table.quiesce)) }

theorem State.quiesceTables_tablesStay (s : State) : TablesStay s s.quiesceTables := by
  intro n
  unfold State.table State.quiesceTables
  dsimp only
  rw [Map.get_map_option, Option.isSome_map]

theorem Table.quiesce_settled (t : Table) :
    t.quiesce.opened = none ∧ t.quiesce.journal = .clean ∧ t.quiesce.writtenBack = t.quiesce.counters := ⟨rfl, rfl, rfl⟩

theorem State.quiesceTables_settled (s : State) : ∀ p ∈ s.quiesceTables.tables, ∀ x, p.2 = some x →
    x.opened = none ∧ x.journal = .clean ∧ x.writtenBack = x.counters := by
  intro p hp x hx
  obtain ⟨q, -, rfl⟩ := List.mem_map.mp hp
  obtain ⟨t, -, rfl⟩ := Option.map_eq_some_iff.mp hx
  exact t.quiesce_settled

/-! ### The answer of DEV_RESET (R101, R102, R113) -/

theorem packBytes_four {d : Nat} (h : d < 2 ^ 32) : packBytes [(0, 4, d)] = d := by
  simp only [packBytes, List.foldl_cons, List.foldl_nil]
  omega

/-- An answered DEV_RESET: its reset is to come, of a kind that is settled. -/
def ResetFollows (kind : ResetKind) (t : State) : Prop :=
  t.resetting = true ∧ t.quiesce = none ∧ t.pilot.nextKind = some kind

theorem State.answerReset_follows (s : State) (ring tag status : Nat) (kind : ResetKind) :
    ResetFollows kind (s.answerReset ring tag status kind) := ⟨rfl, rfl, rfl⟩

/-- Its completion holds the delay. -/
theorem State.answerReset_posts {s : State} {e : Sqe} {status : Nat} (kind : ResetKind) (h : Running e s) (hs : status ≠ 0x08) :
    ∃ d, 100 ≤ d ∧ d ≤ 1000 ∧ Posts e status d [] s (s.answerReset e.ring e.tag status kind) := by
  have hd : s.resetDelay.1 ≤ 1000 := by
    unfold State.resetDelay
    dsimp only
    omega
  have hrun : Running e s.resetDelay.2 := Running.congr rfl rfl h
  have hposts := (State.done_posts s.resetDelay.1 hrun hs).congr (s := s) rfl rfl rfl fun _ _ => rfl
  refine ⟨s.resetDelay.1, Nat.le_add_right _ _, hd, ?_⟩
  unfold State.answerReset
  dsimp only
  rw [packBytes_four (by omega)]
  exact hposts

section
variable {s : State} {e : Sqe}

/-- A preserving DEV_RESET is in execution until its quiesce ends. -/
def State.beginQuiesce (s : State) (e : Sqe) : State :=
  { s with resetting := true, quiesce := some (e.ring, e.tag), pilot := { s.pilot with nextKind := some .preserving } }

theorem execDevReset_running (h : Running e s) (hq : s.quenched = true → e.bit 16 0 = false) :
    execDevReset e s = .next (if !e.bit 16 0 then s.answerReset e.ring e.tag stOk .clearing
      else if s.on elStatusSvExpired then s.answerReset e.ring e.tag stTimeout .uncommanded
      else ((s.beginQuiesce e).quiesceCommits e.tick).haltStandardChannels) :=
  runCommand_running (c := ⟨0x104, false, true, .ifPreserve, false, [(16, 0, 1)]⟩) (by decide) h hq

theorem execDevReset_clearing (h : Running e s) (hbit : e.bit 16 0 = false) :
    execDevReset e s = .next (s.answerReset e.ring e.tag stOk .clearing) := by
  rw [execDevReset_running h (fun _ => hbit), if_pos (by simp [hbit])]

theorem execDevReset_expired (h : Running e s) (hbit : e.bit 16 0 = true) (hexp : s.on elStatusSvExpired = true) (hq : s.quenched = false) :
    execDevReset e s = .next (s.answerReset e.ring e.tag stTimeout .uncommanded) := by
  rw [execDevReset_running h (by simp [hq]), if_neg (by simp [hbit]), if_pos hexp]

theorem execDevReset_preserving (h : Running e s) (hbit : e.bit 16 0 = true) (hexp : s.on elStatusSvExpired = false)
    (hq : s.quenched = false) :
    execDevReset e s = .next (((s.beginQuiesce e).quiesceCommits e.tick).haltStandardChannels) := by
  rw [execDevReset_running h (by simp [hq]), if_neg (by simp [hbit]), if_neg (by simp [hexp])]

theorem execQuiesceComplete_drained {q : Nat × Nat} (hq : s.quiesce = some q) (hdone : s.quiesced = true) (hhalt : s.halted = false)
    (hdrain : s.drainStack.stackDrained = true) :
    execQuiesceComplete s = .next (s.drainStack.quiesceTables.syncTables.answerReset q.1 q.2 stOk .preserving) := by
  unfold execQuiesceComplete
  rw [hq]
  dsimp only
  rw [if_pos (by simp [hdone, hhalt]), if_pos hdrain]
  rfl

theorem execQuiesceTimeout_waiting {q : Nat × Nat} (hq : s.quiesce = some q) (hhalt : s.halted = false) :
    execQuiesceTimeout s = .next (s.answerReset q.1 q.2 stTimeout .uncommanded) := by
  unfold execQuiesceTimeout
  rw [hq]
  dsimp only
  rw [if_neg (by simp [hhalt])]

/-! ### The reset after the delay (R101, R218, R219) -/

/-- The ports stop with their notices, except before an uncommanded reset. -/
def State.portsLeave (s : State) (k : ResetKind) : State :=
  if k = .uncommanded then s else (List.range 16).foldl (fun u p => u.stopPort p 2 false) s

theorem State.portsLeave_only (s : State) (k : ResetKind) : Only [.out, .regs, .ports] s (s.portsLeave k) := by
  simp [State.portsLeave]

theorem execPreserveResetDelay_resets {k : ResetKind} (hk : s.pilot.nextKind = some k) (hq : s.quiesce = none) (hhalt : s.halted = false)
    (hr : s.resettable = true) (hwait : k = .uncommanded ∨ (s.portsLeave k).noticeWaits = false) :
    execPreserveResetDelay s = .next ((s.portsLeave k).fullReset k (if k = .clearing then 7 else 6) true (k == .uncommanded) false) := by
  unfold execPreserveResetDelay
  rw [hk]
  dsimp only
  rw [if_neg (by simp [hq, hhalt, hr]), if_neg]
  · rfl
  · rw [Bool.and_eq_true, bne_iff_ne]
    rintro ⟨hn, hne⟩
    exact absurd (hn.symm.trans (hwait.resolve_left hne)) (by decide)

/-! ### The service firmware starts again (R98 step 11, R100, R103, R546) -/

theorem execFirmwareReverifyDone_verified {k : Nat} {i : FwImage} (hmay : s.mayStartService = true) (hheld : s.on devResetCauseHeld = true)
    (hmark : s.trust.marked = some k) (hslot : s.slot k = some i) (hcheck : s.imageCheck i = none) :
    execFirmwareReverifyDone s = .next ((s.setF devResetCauseFwReused 1).serviceStart k i) := by
  unfold execFirmwareReverifyDone
  rw [if_pos (by simp [hmay, hheld])]
  simp only [hmark, hslot, hcheck]

theorem execFirmwareReverifyDone_fails {k : Nat} {i : FwImage} {c : Nat × Nat} (hmay : s.mayStartService = true)
    (hheld : s.on devResetCauseHeld = true) (hmark : s.trust.marked = some k) (hslot : s.slot k = some i) (hcheck : s.imageCheck i = some c) :
    execFirmwareReverifyDone s = .next (s.report { pre := .av, code := 0x04, severity := 1, vector := some 4, data := c.1 }) := by
  unfold execFirmwareReverifyDone
  rw [if_pos (by simp [hmay, hheld])]
  simp only [hmark, hslot, hcheck]

end

/-- From `s` to `t` the firmware runs on as before. -/
structure SameFirmware (s t : State) : Prop where
  trust : t.trust = s.trust
  armed : t.pilot.svWatchdogArmed = s.pilot.svWatchdogArmed
  running : t.f devStatusFwRunning = s.f devStatusFwRunning
  reused : t.f devResetCauseFwReused = s.f devResetCauseFwReused

section
variable {s t u : State}

theorem SameFirmware.refl (s : State) : SameFirmware s s := ⟨rfl, rfl, rfl, rfl⟩

theorem SameFirmware.trans (h : SameFirmware s t) (g : SameFirmware t u) : SameFirmware s u :=
  ⟨g.trust.trans h.trust, g.armed.trans h.armed, g.running.trans h.running, g.reused.trans h.reused⟩

theorem SameFirmware.of_frames {ps : List Part} {ks : List Fld} (ho : Only ps s t) (hr : OnlyRegs ks s t) (ht : Part.trust ∉ ps)
    (hp : Part.pilot ∉ ps) (hk : devStatusFwRunning ∉ ks ∧ devResetCauseFwReused ∉ ks) : SameFirmware s t :=
  ⟨ho.eq_trust ht, by rw [ho.eq_pilot hp], hr _ hk.1, hr _ hk.2⟩

theorem SameFirmware.foldl {α : Type} {l : List α} {f : State → α → State} (h : ∀ x a, SameFirmware x (f x a)) :
    SameFirmware s (l.foldl f s) := by
  induction l generalizing s with
  | nil => exact .refl s
  | cons a r ih => exact (h s a).trans ih

end

theorem State.wakeBenches_sameFirmware (s : State) : SameFirmware s s.wakeBenches :=
  .of_frames (State.wakeBenches_only s) (State.wakeBenches_regs s) (by decide) (by decide) (by decide)

/-- The damage bits of the tables lie apart from the fields of the firmware. -/
theorem State.decideTable_sameFirmware (s : State) (n : Nat) (t : Table) : SameFirmware s (s.decideTable n t) := by
  refine .of_frames (State.decideTable_only s n t) (State.decideTable_regs s n t) (by decide) (by decide) ?_
  simp only [List.mem_singleton]
  exact ⟨fld_ne (by omega), fld_ne (by omega)⟩

/-- After the decisions the rest of step 12 writes the report's bit last. -/
theorem State.decideTables_decided (s : State) :
    SameFirmware s s.decideTables ∧ s.decideTables.f devStatusReportValid = 1 ∧ s.decideTables.commits = [] := by
  have htables : SameFirmware s (s.liveTables.foldl (fun t (k : Nat × Table) => t.decideTable k.1 k.2) s) :=
    .foldl fun x k => State.decideTable_sameFirmware x k.1 k.2
  have hlog : ∀ (a : State) (l : List Commit), SameFirmware a (l.foldl State.logLost a) := fun a l =>
    .foldl fun x c => .of_frames (State.logLost_only x c) (State.logLost_regs x c) (by decide) (by decide) (by decide)
  have hend : ∀ c : State, SameFirmware c (c.syncTables.noteLayers.renewRows.setF devStatusReportValid 1) ∧
      (c.syncTables.noteLayers.renewRows.setF devStatusReportValid 1).commits = c.commits := by
    intro c
    have ho : Only [.regs, .tables, .marver] c (c.syncTables.noteLayers.renewRows.setF devStatusReportValid 1) := by simp
    have hr : OnlyRegs [mvTierReplKib, mvTierHomeKib, mvTableUsedRows, teTablesCount, devStatusReportValid] c
        (c.syncTables.noteLayers.renewRows.setF devStatusReportValid 1) := by simp
    exact ⟨.of_frames ho hr (by decide) (by decide) (by decide), ho.eq_commits (by decide)⟩
  unfold State.decideTables
  dsimp only
  generalize hb : List.foldl State.logLost _ _ = b
  obtain ⟨hfw, hcommits⟩ := hend { b with commits := [], pilot := { b.pilot with newlyCulled := 0 } }
  have hsame : SameFirmware s b := hb ▸ htables.trans (hlog _ _)
  have hclear : SameFirmware b { b with commits := [], pilot := { b.pilot with newlyCulled := 0 } } := ⟨rfl, rfl, rfl, rfl⟩
  exact ⟨(hsame.trans hclear).trans hfw, State.f_setF_same _ _ _, hcommits⟩

/-- The fields of a port that a training series begins with. -/
def seriesRegs (p : Nat) : List Fld :=
  [rlLinkStatusAttempt p, rlEqCtrlTxPreset p, rlEqCtrlPresetForce p, rlEqCtrlDfeFreeze p, rlEqCtrlCtleFixed p, rlEqCtrlCtleValue p,
    rlLinkStatusState p, rlLinkStatusPwr p, rlLinkStatusWidth p, rlLinkStatusLanes p, rlLinkStatusReversed p, rlLinkStatusClkLane p,
    rlLinkStatusClkLocal p, rlLaneStatusPolInv p]

theorem State.trainPorts_regs (s : State) : OnlyRegs ((List.range 16).flatMap seriesRegs) s s.trainPorts := by
  unfold State.trainPorts
  split
  · exact OnlyRegs.refl _ _
  · exact OnlyRegs.foldl_range fun x p =>
      (((State.endNotice_regs x p).mono (List.nil_subset _)).trans (State.startSeries_regs _ p)).ite_refl

/-- The ports train, and the link state follows. -/
theorem State.portsStart_facts (s : State) :
    SameFirmware s s.trainPorts.settlePorts ∧ s.trainPorts.settlePorts.f devStatusReportValid = s.f devStatusReportValid ∧
      s.trainPorts.settlePorts.commits = s.commits := by
  have htrain : SameFirmware s s.trainPorts :=
    .of_frames (State.trainPorts_only s) (State.trainPorts_regs s) (by decide) (by decide) (by decide)
  have hsettle : SameFirmware s.trainPorts s.trainPorts.settlePorts :=
    .of_frames (State.settlePorts_only _) (State.settlePorts_regs _) (by decide) (by decide) (by decide)
  refine ⟨htrain.trans hsettle, ?_, ?_⟩
  · rw [State.settlePorts_regs _ _ (by decide), State.trainPorts_regs _ _ (by decide)]
  · rw [(State.settlePorts_only _).eq_commits (by decide), (State.trainPorts_only s).eq_commits (by decide)]

/-- The image runs in its slot, and the watchdog is armed. -/
def State.runImage (s : State) (slot : Nat) (i : FwImage) : State :=
  ({ s with trust := { s.trust with running := some i, runningSlot := slot },
            pilot := { s.pilot with svWatchdogArmed := true, svBeat := s.now } } : State).setFs [(devStatusFwRunning, 1), (devStatusStage, 9)]

theorem State.serviceStart_eq (s : State) (slot : Nat) (i : FwImage) : s.serviceStart slot i =
    (if (s.runImage slot i).quenched then s.runImage slot i else (s.runImage slot i).wakeBenches).decideTables.trainPorts.settlePorts := rfl

theorem State.serviceStart_facts (s : State) (slot : Nat) (i : FwImage) :
    SameFirmware (s.runImage slot i) (s.serviceStart slot i) ∧ (s.serviceStart slot i).f devStatusReportValid = 1 ∧
      (s.serviceStart slot i).commits = [] := by
  rw [State.serviceStart_eq]
  have hwake : SameFirmware (s.runImage slot i)
      (if (s.runImage slot i).quenched then s.runImage slot i else (s.runImage slot i).wakeBenches) := by
    split
    · exact .refl _
    · exact State.wakeBenches_sameFirmware _
  generalize (if (s.runImage slot i).quenched then s.runImage slot i else (s.runImage slot i).wakeBenches) = c at hwake ⊢
  obtain ⟨hdecide, hvalid, hcommits⟩ := c.decideTables_decided
  obtain ⟨hports, hvalid', hcommits'⟩ := c.decideTables.portsStart_facts
  exact ⟨(hwake.trans hdecide).trans hports, hvalid'.trans hvalid, hcommits'.trans hcommits⟩

theorem State.runImage_facts (s : State) (slot : Nat) (i : FwImage) :
    (s.runImage slot i).trust.running = some i ∧ (s.runImage slot i).trust.runningSlot = slot ∧
      (s.runImage slot i).pilot.svWatchdogArmed = true ∧ (s.runImage slot i).f devStatusFwRunning = 1 ∧
      (s.runImage slot i).f devResetCauseFwReused = s.f devResetCauseFwReused := by
  unfold State.runImage
  refine ⟨by rw [State.setFs_keeps_trust], by rw [State.setFs_keeps_trust], by rw [State.setFs_keeps_pilot], ?_, ?_⟩
  · rw [State.setFs_cons, State.f_setFs_other _ _ (show devStatusFwRunning ∉ [devStatusStage] by decide), State.f_setF_same]
  · exact State.f_setFs_other _ _ (show devResetCauseFwReused ∉ [devStatusFwRunning, devStatusStage] by decide)

end Sys2Proof.Machine

open Sys2Proof Sys2Proof.Machine

/-- Settles O5: the drain of a quiesce keeps the tables that exist (`State.drainStack_tablesStay`), and what follows the start of an image
leaves the firmware running (`SameFirmware`). -/
theorem commandedResetCourse : Obligations.CommandedResetCourse := by
  unfold Obligations.CommandedResetCourse
  refine ⟨?clearing, ?expired, ?preserving, ?complete, ?timeout, ?delay, ?verified, ?failed⟩
  case clearing =>
    intro s e hrun hbit
    obtain ⟨hreset, hquiesce, hkind⟩ := s.answerReset_follows e.ring e.tag stOk .clearing
    exact ⟨_, execDevReset_clearing hrun hbit, hreset, hquiesce, hkind, State.answerReset_posts _ hrun (by decide)⟩
  case expired =>
    intro s e hrun hbit hexp hq
    obtain ⟨hreset, hquiesce, hkind⟩ := s.answerReset_follows e.ring e.tag stTimeout .uncommanded
    exact ⟨_, execDevReset_expired hrun hbit hexp hq, hreset, hquiesce, hkind, State.answerReset_posts _ hrun (by decide)⟩
  case preserving =>
    intro s e hrun hbit hexp hq
    have hcommits := State.quiesceCommits_only (s.beginQuiesce e) e.tick
    have hhalt := State.haltStandardChannels_only ((s.beginQuiesce e).quiesceCommits e.tick)
    refine ⟨_, execDevReset_preserving hrun hbit hexp hq, ?_, ?_, ?_, ?_, ?_⟩
    · exact (hhalt.eq_resetting (by decide)).trans (hcommits.eq_resetting (by decide))
    · exact (hhalt.eq_quiesce (by decide)).trans (hcommits.eq_quiesce (by decide))
    · rw [hhalt.eq_pilot (by decide), hcommits.eq_pilot (by decide)]
      rfl
    · exact (hhalt.eq_pending (by decide)).trans (hcommits.eq_pending (by decide))
    · exact (hhalt.eq_fuses (by decide)).trans (hcommits.eq_fuses (by decide))
  case complete =>
    intro s q hq hdone hhalt hdrain
    obtain ⟨hreset, hquiesce, hkind⟩ := s.drainStack.quiesceTables.syncTables.answerReset_follows q.1 q.2 stOk .preserving
    have hsync := State.syncTables_only s.drainStack.quiesceTables
    have hanswer := State.answerReset_only s.drainStack.quiesceTables.syncTables q.1 q.2 stOk .preserving
    have hsame : TablesStay s (s.drainStack.quiesceTables.syncTables.answerReset q.1 q.2 stOk .preserving) :=
      (((State.drainStack_tablesStay s).trans (State.quiesceTables_tablesStay _)).trans (.of_only hsync (by decide))).trans
        (.of_only hanswer (by decide))
    refine ⟨_, execQuiesceComplete_drained hq hdone hhalt hdrain, hreset, hquiesce, hkind, hsame, ?_⟩
    rw [hanswer.eq_tables (by decide), hsync.eq_tables (by decide)]
    exact State.quiesceTables_settled _
  case timeout =>
    intro s q hq hhalt
    obtain ⟨hreset, hquiesce, hkind⟩ := s.answerReset_follows q.1 q.2 stTimeout .uncommanded
    exact ⟨_, execQuiesceTimeout_waiting hq hhalt, hreset, hquiesce, hkind, State.answerReset_only _ _ _ _ _,
      State.answerReset_regs _ _ _ _ _⟩
  case delay =>
    intro s k hk hq hhalt hr hwait
    have hports := State.portsLeave_only s k
    have hwait' : k = .uncommanded ∨ (s.portsLeave k).noticeWaits = false := by
      by_cases hu : k = .uncommanded
      · exact .inl hu
      · refine .inr ?_
        unfold State.portsLeave
        rw [if_neg hu]
        exact hwait.resolve_left hu
    obtain ⟨hphase, hkind, hinternal, hcause, hheld, hinc, -, hqueues, -, -, -, -, -, -, hlog⟩ :=
      State.fullReset_facts (s.portsLeave k) k (if k = .clearing then 7 else 6) true (k == .uncommanded) false
    refine ⟨_, execPreserveResetDelay_resets hk hq hhalt hr hwait', hphase, hkind, hinternal, hcause, ?_, ?_, ?_, hqueues⟩
    · rw [hinc]
      simp [b2n]
    · rw [hheld, hports.eq_pilot (by decide)]
      simp [b2n]
    · rw [hlog, hports.eq_log (by decide)]
  case verified =>
    intro s k i hmay hheld hmark hslot hcheck
    have hx := execFirmwareReverifyDone_verified hmay hheld hmark hslot hcheck
    obtain ⟨hsame, hvalid, hcommits⟩ := (s.setF devResetCauseFwReused 1).serviceStart_facts k i
    obtain ⟨himage, hnumber, harmed, hruns, hreused⟩ := (s.setF devResetCauseFwReused 1).runImage_facts k i
    refine ⟨_, hx, ?_, ?_, ?_, ?_, hvalid, hcommits, ?_, ?_⟩
    · rw [hsame.trust, himage]
    · rw [hsame.trust, hnumber]
    · rw [hsame.running, hruns]
    · rw [hsame.reused, hreused, State.f_setF_same]
    · rw [hsame.armed, harmed]
    · exact (State.serviceStart_only _ _ _).eq_fuses (by decide)
  case failed =>
    intro s k i c hmay hheld hmark hslot hcheck
    exact ⟨_, execFirmwareReverifyDone_fails hmay hheld hmark hslot hcheck, State.report_newest _ _, State.report_only _ _, State.report_regs _ _⟩

end

section
/-!
Ports (R156 to R188): where the register fields of a port lie, what a read of a port or a lane returns after an update, and what the
operations that the training commands share leave.
-/
namespace Sys2Proof.Machine

/-! ### The fields of one port -/

/-- Registers come in pages of 0x1000 bytes, each port having one of its own: the page of a field. -/
def regPage (k : Fld) : Nat := k / 0x20000

/-- The place of a field in its page, in bits. -/
def regPlace (k : Fld) : Nat := k % 0x20000

theorem portFld_page {p o l : Nat} (h : o * 32 + l < 0x20000) : regPage (fld (0x60000 + 0x1000 * p + o) l) = 0x60 + p := by
  unfold regPage fld
  omega

theorem portFld_place {p o l n : Nat} (h : o * 32 + l = n ∧ n < 0x20000) : regPlace (fld (0x60000 + 0x1000 * p + o) l) = n := by
  unfold regPlace fld
  omega

/-- RL_LINK_STATUS. -/
@[simp] theorem linkStatus_places (p : Nat) : regPlace (rlLinkStatusState p) = 0 ∧ regPlace (rlLinkStatusPwr p) = 4 ∧
    regPlace (rlLinkStatusWidth p) = 6 ∧ regPlace (rlLinkStatusLanes p) = 8 ∧ regPlace (rlLinkStatusReversed p) = 16 ∧
    regPlace (rlLinkStatusClkLane p) = 17 ∧ regPlace (rlLinkStatusClkLocal p) = 20 ∧ regPlace (rlLinkStatusAttempt p) = 21 ∧
    regPlace (rlLinkStatusChanged p) = 24 := by
  refine ⟨?_, ?_, ?_, ?_, ?_, ?_, ?_, ?_, ?_⟩ <;> exact portFld_place (by decide)

/-- RL_LANE_STATUS, RL_TRAIN_FAIL and RL_RETRAIN_COUNT. -/
@[simp] theorem trainStatus_places (p : Nat) : regPlace (rlLaneStatusLos p) = 128 ∧ regPlace (rlLaneStatusLol p) = 136 ∧
    regPlace (rlLaneStatusPolInv p) = 144 ∧ regPlace (rlLaneStatusExcluded p) = 152 ∧ regPlace (rlTrainFailState p) = 256 ∧
    regPlace (rlTrainFailCode p) = 260 ∧ regPlace (rlTrainFailCount p) = 272 ∧ regPlace (rlRetrainCountShort p) = 384 ∧
    regPlace (rlRetrainCountCold p) = 400 := by
  refine ⟨?_, ?_, ?_, ?_, ?_, ?_, ?_, ?_, ?_⟩ <;> exact portFld_place (by decide)

/-- RL_EQ_CTRL, RL_LAT_FIXED and RL_SEQ_RX. -/
@[simp] theorem linkSetting_places (p : Nat) : regPlace (rlEqCtrlDfeFreeze p) = 640 ∧ regPlace (rlEqCtrlCtleFixed p) = 641 ∧
    regPlace (rlEqCtrlCtleValue p) = 644 ∧ regPlace (rlEqCtrlTxPreset p) = 648 ∧ regPlace (rlEqCtrlPresetForce p) = 651 ∧
    regPlace (rlLatFixed p) = 1792 ∧ regPlace (rlSeqRxAckSeq p) = 2944 := by
  refine ⟨?_, ?_, ?_, ?_, ?_, ?_, ?_⟩ <;> exact portFld_place (by decide)

theorem State.f_setF_apart (s : State) {k l : Fld} (v : Nat) (h : regPlace l ≠ regPlace k) : (s.setF k v).f l = s.f l :=
  State.f_setF_other s v (fun e => h (congrArg regPlace e))

theorem State.bump_f_apart (s : State) {k l : Fld} (w : Nat) (h : regPlace l ≠ regPlace k) : (s.bump k w).f l = s.f l :=
  State.f_setF_apart s _ h

/-- A counter of 16 bits stays at 65 535. -/
theorem State.bump_sixteen (s : State) (k : Fld) : (s.bump k 16).f k = min (s.f k + 1) 65535 := State.f_setF_same _ _ _

/-- A field whose place no changed field has keeps its value. -/
theorem OnlyRegs.f_apart {ks : List Fld} {s t : State} (h : OnlyRegs ks s t) {k : Fld} (hk : regPlace k ∉ ks.map regPlace) : t.f k = s.f k :=
  h k (fun m => hk (List.mem_map_of_mem m))

/-- What changes no field of a port's page keeps the fields of every port. -/
theorem OnlyRegs.portFld {ks : List Fld} {s t : State} (h : OnlyRegs ks s t) (hks : ∀ k ∈ ks, regPage k < 0x60 ∨ 0x6F < regPage k)
    {p o l : Nat} (hp : p ≤ 15) (hl : o * 32 + l < 0x20000) :
    t.f (fld (0x60000 + 0x1000 * p + o) l) = s.f (fld (0x60000 + 0x1000 * p + o) l) := by
  refine h _ fun m => ?_
  have hpage := hks _ m
  rw [portFld_page hl] at hpage
  omega

theorem State.report_portFld (s : State) (e : LogEvent) {p o l : Nat} (hp : p ≤ 15) (hl : o * 32 + l < 0x20000) :
    (s.report e).f (fld (0x60000 + 0x1000 * p + o) l) = s.f (fld (0x60000 + 0x1000 * p + o) l) :=
  (State.report_regs s e).portFld (by decide) hp hl

theorem State.settlePorts_portFld (s : State) {p o l : Nat} (hp : p ≤ 15) (hl : o * 32 + l < 0x20000) :
    s.settlePorts.f (fld (0x60000 + 0x1000 * p + o) l) = s.f (fld (0x60000 + 0x1000 * p + o) l) :=
  (State.settlePorts_regs s).portFld (by decide) hp hl

/-! ### Reads of ports and lanes -/

theorem State.port_congr {s t : State} (h : t.ports = s.ports) (p : Nat) : t.port p = s.port p := by
  unfold State.port
  rw [h]

@[simp] theorem State.setPort_port (s : State) (p : Nat) (x : Port) : (s.setPort p x).port p = x := Map.get_set_same _ _ _ _
@[simp] theorem State.setPort_f (s : State) (p : Nat) (x : Port) (k : Fld) : (s.setPort p x).f k = s.f k := rfl
@[simp] theorem State.setLane_lane (s : State) (p l : Nat) (x : Lane) : (s.setLane p l x).lane p l = x := Map.get_set_same _ _ _ _
@[simp] theorem State.setF_port (s : State) (k : Fld) (v q : Nat) : (s.setF k v).port q = s.port q := rfl
@[simp] theorem State.emit_port (s : State) (o : Output) (q : Nat) : (s.emit o).port q = s.port q := rfl

/-! ### Going to a state, sending a codeword -/

@[simp] theorem State.toState_linkState (s : State) (p st : Nat) : (s.toState p st).linkState p = st := State.f_setF_same _ _ _

@[simp] theorem State.sendLine_f (s : State) (p seq : Nat) (b : List Byte) (k : Fld) : (s.sendLine p seq b).f k = s.f k :=
  State.f_congr ((State.sendLine_only s p seq b).eq_regs (by decide)) k

/-- The line count is all that a codeword changes of its port. -/
theorem State.sendLine_port (s : State) (p seq : Nat) (b : List Byte) : ∃ n, (s.sendLine p seq b).port p = { s.port p with txLine := n } :=
  ⟨_, State.setPort_port _ _ _⟩

/-- What has gone out stays. -/
theorem State.sendLine_out {s : State} {o : Output} (h : o ∈ s.out) (p seq : Nat) (b : List Byte) : o ∈ (s.sendLine p seq b).out := by
  unfold State.sendLine
  dsimp only
  refine List.mem_cons_of_mem _ ?_
  split
  · exact List.mem_cons_of_mem _ h
  · exact h

/-! ### Equaliser settings (R183, R188) -/

/-- The settings that wait are used up; nothing else of the port changes. -/
theorem State.applyEq_port (s : State) (p : Nat) : (s.applyEq p).port p = { s.port p with eqNext := [] } := by
  have hports : Only [.regs, .lanes] s ((s.port p).eqNext.foldl (fun t q => t.applyOne p q) s) := by simp
  unfold State.applyEq
  dsimp only
  rw [State.setPort_port, State.port_congr (hports.eq_ports (by decide))]

/-! ### The receiver goes back to ACK_SEQ (R212, R213, R228) -/

@[simp] theorem State.dropPartial_f (s : State) (p : Nat) (k : Fld) : (s.dropPartial p).f k = s.f k :=
  State.f_congr ((State.dropPartial_only s p).eq_regs (by decide)) k

theorem State.dropPartial_keep (s : State) (p : Nat) : ((s.dropPartial p).port p).keep = (s.port p).keep := by
  unfold State.dropPartial
  dsimp only
  split
  · simp
  · split <;> simp

/-! ### An attempt starts (R165, R168, R175) -/

/-- An attempt starts in DETECT with no lane in use. -/
theorem State.startDetect_fields (s : State) (p : Nat) :
    (s.startDetect p).linkState p = 1 ∧ (s.startDetect p).f (rlLinkStatusLanes p) = 0 := by
  unfold State.startDetect State.linkState
  dsimp only
  split <;> simp [State.f_setF_apart]

/-- Whether the link state is kept does not change as an attempt starts. -/
theorem State.startDetect_keep (s : State) (p : Nat) : ((s.startDetect p).port p).keep = (s.port p).keep := by
  have hlanes : ∀ a : State, ((List.range 8).foldl (fun t l => t.setLane p l (freshLane (t.startPreset p l) (t.lane p l).own (t.lane p l).ser))
      a).port p = a.port p := fun a => State.port_congr (Only.eq_ports (ps := [.lanes]) (by simp) (by decide)) p
  unfold State.startDetect
  dsimp only
  split <;> simp [State.dropPartial_keep, hlanes, State.applyEq_port]

@[simp] theorem State.linkChanged_port (s : State) (p q : Nat) : (s.linkChanged p).port q = s.port q :=
  State.port_congr ((State.linkChanged_only s p).eq_ports (by decide)) q

theorem State.linkChanged_changed (s : State) (p : Nat) : (s.linkChanged p).f (rlLinkStatusChanged p) = 1 := by
  unfold State.linkChanged
  rw [State.f_congr ((State.vector_only _ 3).eq_regs (by decide)), State.f_setF_same]

/-- A series starts with attempt 1; CHANGED and the count of the cold retrains are not its own. -/
theorem State.startSeries_fields (s : State) (p : Nat) :
    (s.startSeries p).linkState p = 1 ∧ (s.startSeries p).f (rlLinkStatusAttempt p) = 1 ∧ (s.startSeries p).f (rlLinkStatusLanes p) = 0 ∧
      (s.startSeries p).f (rlLinkStatusChanged p) = s.f (rlLinkStatusChanged p) ∧
      (s.startSeries p).f (rlRetrainCountCold p) = s.f (rlRetrainCountCold p) := by
  obtain ⟨hstate, hlanes⟩ := State.startDetect_fields (s.setF (rlLinkStatusAttempt p) 1) p
  have hregs := State.startDetect_regs (s.setF (rlLinkStatusAttempt p) 1) p
  exact ⟨hstate, (hregs.f_apart (by simp)).trans (State.f_setF_same _ _ _), hlanes, (State.startSeries_regs s p).f_apart (by simp),
    (State.startSeries_regs s p).f_apart (by simp)⟩

/-- A series that an ACTIVE port starts, keeping its link state (R176, R182). -/
theorem State.newSeries_of_active {s : State} {p : Nat} (h : s.portActive p = true) :
    (s.newSeries p true).linkState p = 1 ∧ (s.newSeries p true).f (rlLinkStatusChanged p) = 1 ∧
      (s.newSeries p true).f (rlLinkStatusAttempt p) = 1 ∧ (s.newSeries p true).f (rlLinkStatusLanes p) = 0 ∧
      (s.newSeries p true).f (rlRetrainCountCold p) = min (s.f (rlRetrainCountCold p) + 1) 65535 ∧
      ((s.newSeries p true).port p).keep = true := by
  unfold State.newSeries
  simp only [h, Bool.true_or, if_true, Bool.and_true]
  generalize hb : State.linkChanged _ p = b
  have hcold : b.f (rlRetrainCountCold p) = s.f (rlRetrainCountCold p) := hb ▸ (State.linkChanged_regs _ p).f_apart (by simp)
  have hkeep : (b.port p).keep = true := by simp [← hb]
  obtain ⟨hstate, hattempt, hlanes, hchanged, hcount⟩ := State.startSeries_fields (b.bump (rlRetrainCountCold p) 16) p
  refine ⟨hstate, ?_, hattempt, hlanes, ?_, (State.startDetect_keep _ p).trans hkeep⟩
  · rw [hchanged, State.bump_f_apart _ _ (by simp), ← hb, State.linkChanged_changed]
  · rw [hcount, State.bump_sixteen, hcold]

/-! ### Lane sets (R167, R184, R185) -/

theorem State.useSet_fields (s : State) (p : Nat) (x : Nat × Nat) :
    (s.useSet p x).f (rlLinkStatusLanes p) = x.1 ∧ (s.useSet p x).f (rlLinkStatusWidth p) = x.2 := by
  simp [State.useSet, State.f_setF_apart]

/-- The good lanes follow from LOS and LOL (R162). -/
theorem State.goodLanes_congr {s t : State} {p : Nat} (hlos : t.f (rlLaneStatusLos p) = s.f (rlLaneStatusLos p))
    (hlol : t.f (rlLaneStatusLol p) = s.f (rlLaneStatusLol p)) : t.goodLanes p = s.goodLanes p := by
  unfold State.goodLanes
  rw [hlos, hlol]

/-! ### Short retrains (R173, R174) -/

/-- The first short retrain of an ACTIVE port within 1 s. -/
theorem State.shortRetrainOn_starts {s : State} {p lanes : Nat} {set : Nat × Nat} (hactive : s.portActive p = true)
    (hshort : (s.port p).short = false) (hshorts : (s.port p).shorts = [])
    (hset : chooseSet (s.on (rlLinkStatusReversed p)) (s.goodLanes p &&& (s.port p).partnerSet &&& lanes) = some set) :
    (s.shortRetrainOn p lanes).linkState p = 5 ∧ (s.shortRetrainOn p lanes).f (rlLinkStatusLanes p) = set.1 ∧
      (s.shortRetrainOn p lanes).f (rlLinkStatusWidth p) = set.2 ∧ ((s.shortRetrainOn p lanes).port p).short = true ∧
      (s.shortRetrainOn p lanes).f (rlRetrainCountShort p) = min (s.f (rlRetrainCountShort p) + 1) 65535 := by
  have hcount : ((s.bump (rlRetrainCountShort p) 16).retrainEq p).f (rlRetrainCountShort p) = min (s.f (rlRetrainCountShort p) + 1) 65535 := by
    rw [(State.retrainEq_regs _ p).f_apart (by simp), State.bump_sixteen]
  obtain ⟨hlanes, hwidth⟩ := State.useSet_fields ((s.bump (rlRetrainCountShort p) 16).retrainEq p) p set
  have huse := (State.useSet_regs ((s.bump (rlRetrainCountShort p) 16).retrainEq p) p set).f_apart
    (k := rlRetrainCountShort p) (by simp)
  unfold State.shortRetrainOn State.linkState
  simp [hactive, hshort, hshorts, hset, State.f_setF_apart, hlanes, hwidth, huse, hcount]

/-- With none in progress a short retrain keeps to the lanes in use (R175). -/
theorem State.shortRetrain_first {s : State} {p : Nat} (h : (s.port p).short = false) :
    s.shortRetrain p = s.shortRetrainOn p (s.f (rlLinkStatusLanes p)) := by
  simp [State.shortRetrain, h]

end Sys2Proof.Machine
end

section
/-!
Lanes (R158 to R164, R173, R176): what a detector, a lost link and a training frame leave, and the two roles of a lane in the negotiation of
the taps.
-/
namespace Sys2Proof.Machine

/-! ### Detectors (R162, R173) -/

/-- The detectors of a lane report. -/
def State.noteDetectors (s : State) (p lane : Nat) (los lol : Bool) : State :=
  s.setFs [(rlLaneStatusLos p, if los then setBit (s.f (rlLaneStatusLos p)) lane else clearBit (s.f (rlLaneStatusLos p)) lane),
    (rlLaneStatusLol p, if lol then setBit (s.f (rlLaneStatusLol p)) lane else clearBit (s.f (rlLaneStatusLol p)) lane)]

section
variable {s : State} {p lane : Nat} {los lol : Bool}

theorem State.noteDetectors_regs : OnlyRegs [rlLaneStatusLos p, rlLaneStatusLol p] s (s.noteDetectors p lane los lol) := by
  simp [State.noteDetectors]

theorem State.noteDetectors_only : Only [.regs] s (s.noteDetectors p lane los lol) := by
  simp [State.noteDetectors]

theorem State.noteDetectors_bits : bitOf ((s.noteDetectors p lane los lol).f (rlLaneStatusLos p)) lane = los ∧
    bitOf ((s.noteDetectors p lane los lol).f (rlLaneStatusLol p)) lane = lol := by
  cases los <;> cases lol <;> simp [State.noteDetectors, State.f_setF_apart]

/-- Neither the lanes in use nor their order follow from the detectors. -/
theorem State.noteDetectors_keeps : (s.noteDetectors p lane los lol).port p = s.port p ∧
    (s.noteDetectors p lane los lol).portActive p = s.portActive p ∧
    (s.noteDetectors p lane los lol).on (rlLinkStatusReversed p) = s.on (rlLinkStatusReversed p) ∧
    (s.noteDetectors p lane los lol).f (rlLinkStatusLanes p) = s.f (rlLinkStatusLanes p) ∧
    (s.noteDetectors p lane los lol).f (rlRetrainCountShort p) = s.f (rlRetrainCountShort p) := by
  simp [State.noteDetectors, State.portActive, State.linkState, State.on, State.f_setF_apart]

/-- A lane that is good, or that is not in use, only reports. -/
theorem execLaneDetectorChange_reports (hp : p ≤ 15) (hl : lane ≤ 7)
    (h : (los = false ∧ lol = false) ∨ bitOf (s.f (rlLinkStatusLanes p)) lane = false) :
    execLaneDetectorChange p lane los lol s = .next (s.noteDetectors p lane los lol) := by
  have hcond : ((los || lol) && bitOf (s.f (rlLinkStatusLanes p)) lane && (s.portHot p || (s.port p).short)) = false := by
    rcases h with ⟨h1, h2⟩ | h
    · simp [h1, h2]
    · simp [h]
  unfold execLaneDetectorChange
  rw [if_neg (by omega)]
  dsimp only
  rw [hcond]
  rfl

/-- A lane in use that is no longer good starts a short retrain. -/
theorem execLaneDetectorChange_retrains (hp : p ≤ 15) (hl : lane ≤ 7) (h : los = true ∨ lol = true)
    (huse : bitOf (s.f (rlLinkStatusLanes p)) lane = true) (hhot : s.portHot p = true) :
    execLaneDetectorChange p lane los lol s = .next ((s.noteDetectors p lane los lol).shortRetrain p) := by
  unfold execLaneDetectorChange
  rw [if_neg (by omega)]
  dsimp only
  rw [if_pos (by rcases h with h | h <;> simp [h, huse, hhot])]
  rfl

end

theorem State.portActive_of_hot {s : State} {p : Nat} (h : s.portHot p = true) : s.portActive p = true := by
  unfold State.portHot at h
  exact (Bool.and_eq_true_iff.mp h).1

theorem execLinkLost_lost {s : State} {p : Nat} (hhot : s.portHot p = true) (hlos : s.f (rlLaneStatusLos p) = 0xFF) :
    execLinkLost p s = .next (s.newSeries p true) := by
  simp [execLinkLost, hhot, hlos]

/-! ### Steps of a tap (R158, R159) -/

theorem Lane.withTap_tap (x : Lane) (tap : Nat) (v c0 : Int) : (x.withTap tap v c0).tap tap = v := by
  rcases tap with _ | _ | _ | _ | n <;> rfl

theorem Lane.withTap_c0 (x : Lane) (tap : Nat) (v c0 : Int) : (x.withTap tap v c0).c0 = c0 := by
  unfold Lane.withTap
  split <;> rfl

/-- The magnitudes of the taps beside c(0). -/
def Lane.outerSum (x : Lane) : Int := x.cm2.natAbs + x.cm1.natAbs + x.cp1.natAbs + x.cp2.natAbs

theorem Lane.withTap_outerSum (x : Lane) (tap : Nat) (v c0 : Int) :
    (x.withTap tap v c0).outerSum = x.outerSum - (x.tap tap).natAbs + v.natAbs := by
  unfold Lane.withTap Lane.outerSum Lane.tap
  split <;> dsimp only <;> omega

/-- The value that a step asks for. -/
def Lane.asked (x : Lane) (tap : Nat) (up : Bool) : Int := x.tap tap + (if up then 1 else -1)

/-- What a step can do: the tap moves and c(0) takes the rest, or the step is refused at a limit. -/
theorem Lane.step_cases (x : Lane) (tap : Nat) (up : Bool) :
    (tapInRange tap (x.asked tap up) = true ∧ 32 ≤ x.c0 + (x.tap tap).natAbs - (x.asked tap up).natAbs ∧
      x.step tap up = (x.withTap tap (x.asked tap up) (x.c0 + (x.tap tap).natAbs - (x.asked tap up).natAbs), 1)) ∨
    x.step tap up = (x, 2) := by
  have hv : (if up = true then x.tap tap + 1 else x.tap tap - 1) = x.asked tap up := by
    unfold Lane.asked
    cases up
    · exact sub_eq_add_neg _ _
    · rfl
  unfold Lane.step
  dsimp only
  rw [hv]
  split
  next h =>
    simp only [Bool.and_eq_true, decide_eq_true_eq] at h
    exact .inl ⟨h.1, h.2, rfl⟩
  next => exact .inr rfl

/-- The pre-cursor c(-1) goes down by one step while c(0) has one to give. -/
theorem Lane.step_cm1_down {x : Lane} (hlow : -15 ≤ x.cm1) (hhigh : x.cm1 ≤ 0) (hc0 : 33 ≤ x.c0) :
    x.step 2 false = ({ x with cm1 := x.cm1 - 1, c0 := x.c0 - 1 }, 1) := by
  have hrest : x.c0 + (x.cm1.natAbs : Int) - ((x.cm1 - 1).natAbs : Int) = x.c0 - 1 := by omega
  have hrange : tapInRange 2 (x.cm1 - 1) = true := by
    simp only [tapInRange, decide_eq_true_eq]
    omega
  unfold Lane.step
  simp only [Lane.tap, Bool.false_eq_true, if_false, hrest, hrange, Bool.true_and, decide_eq_true_eq]
  rw [if_pos (by omega)]
  rfl

/-! ### The S64 as the responder and as the requester (R159, R163, R164) -/

/-- Asking touches the open request and what the partner's responses show. -/
theorem Lane.ask_eq (x : Lane) (f : Frame) (n : Bool) :
    x.ask f n = { x with asking := (x.ask f n).asking, peerToggle := (x.ask f n).peerToggle, peerResp := (x.ask f n).peerResp } := by
  unfold Lane.ask
  dsimp only
  split
  · split <;> rfl
  · rfl

/-- An open request is held until RESP_TOGGLE inverts. -/
theorem Lane.ask_held {x : Lane} {q : Nat × Bool × Nat} (f : Frame) (n : Bool) (h : x.asking = some q) :
    (x.ask f n).asking = if bitOf f.control 34 = x.peerToggle then some q else none := by
  unfold Lane.ask
  rw [h]
  dsimp only
  by_cases e : bitOf f.control 34 = x.peerToggle
  · simp [e, h]
  · simp [e]

/-- What a request changes are the taps. -/
theorem Lane.request_asking (x : Lane) (forced : Bool) (tap : Nat) (up : Bool) (preset : Nat) :
    (x.request forced tap up preset).1.asking = x.asking := by
  have hstep : (x.step tap up).1.asking = x.asking := by
    obtain ⟨-, -, h⟩ | h := x.step_cases tap up
    · rw [h]
      unfold Lane.withTap
      split <;> rfl
    · rw [h]
  unfold Lane.request
  split
  · rfl
  · split
    · rfl
    · split
      · rfl
      · exact hstep

theorem Lane.answer_asking (x : Lane) (c : Nat) (forced : Bool) : (x.answer c forced).asking = x.asking := by
  unfold Lane.answer
  dsimp only
  split
  · rfl
  · split
    · rfl
    · exact x.request_asking _ _ _ _

/-- REQ_TAP = 0 ends the exchange. -/
theorem Lane.answer_released {x : Lane} {c : Nat} (forced : Bool) (h : bitsOf c 26 24 = 0) : x.answer c forced = { x with answered := false } := by
  simp [Lane.answer, h]

/-- A request to lower c(-1) that has not been answered. -/
theorem Lane.answer_cm1_down {x : Lane} {c : Nat} (htap : bitsOf c 26 24 = 2) (hdir : bitOf c 27 = false) (hopen : x.answered = false)
    (hlow : -15 ≤ x.cm1) (hhigh : x.cm1 ≤ 0) (hc0 : 33 ≤ x.c0) :
    x.answer c false = { x with cm1 := x.cm1 - 1, c0 := x.c0 - 1, answered := true, resp := 1, toggle := !x.toggle } := by
  simp [Lane.answer, Lane.request, htap, hdir, hopen, Lane.step_cm1_down hlow hhigh hc0]

/-! ### A frame is received (R163, R164, R166) -/

/-- The lane after a frame in the training of an attempt. -/
def State.trainedLane (s : State) (p lane : Nat) (x : Frame) : Lane :=
  (((s.lane p lane).hear x (s.linkState p == 6)).ask x (s.linkState p == 6)).answer x.control (s.presetForced p lane)

section
variable {s : State} {p lane : Nat} {x : Frame}

/-- A frame without a request is heard, and changes neither a tap nor the last response. -/
theorem State.trainedLane_released (h : bitsOf x.control 26 24 = 0) :
    (s.trainedLane p lane x).seen = some (bitsOf x.control 2 0) ∧ (s.trainedLane p lane x).echoOk = bitOf x.control 36 ∧
      (s.trainedLane p lane x).rxReady = bitOf x.control 35 ∧ (s.trainedLane p lane x).inverted = x.inverted ∧
      (s.trainedLane p lane x).answered = false ∧ (s.trainedLane p lane x).c0 = (s.lane p lane).c0 ∧
      (s.trainedLane p lane x).resp = (s.lane p lane).resp := by
  unfold State.trainedLane
  rw [Lane.answer_released _ h, Lane.ask_eq]
  exact ⟨rfl, rfl, rfl, rfl, rfl, rfl, rfl⟩

/-- A new request to lower c(-1) is carried out and answered 1 = updated. -/
theorem State.trainedLane_cm1_down (htap : bitsOf x.control 26 24 = 2) (hdir : bitOf x.control 27 = false)
    (hopen : (s.lane p lane).answered = false) (hforced : s.presetForced p lane = false) (hlow : -15 ≤ (s.lane p lane).cm1)
    (hhigh : (s.lane p lane).cm1 ≤ 0) (hc0 : 33 ≤ (s.lane p lane).c0) :
    (s.trainedLane p lane x).cm1 = (s.lane p lane).cm1 - 1 ∧ (s.trainedLane p lane x).c0 = (s.lane p lane).c0 - 1 ∧
      (s.trainedLane p lane x).answered = true ∧ (s.trainedLane p lane x).resp = 1 ∧
      (s.trainedLane p lane x).toggle = !(s.lane p lane).toggle := by
  unfold State.trainedLane
  rw [hforced, Lane.ask_eq, Lane.answer_cm1_down htap hdir (by exact hopen) (by exact hlow) (by exact hhigh) (by exact hc0)]
  exact ⟨rfl, rfl, rfl, rfl, rfl⟩

end

/-- The port takes in a frame of the training of an attempt. -/
def State.hearFrame (s : State) (p lane : Nat) (x : Frame) : State :=
  let a := s.setLane p lane (s.trainedLane p lane x)
  a.setPort p { a.port p with portId := s.heardId p lane x.control, partnerSet := bitsOf x.control 47 40 }

section
variable {s : State} {p lane : Nat} {x : Frame}

theorem execTrainingFrameRx_ignored (h : x.marker = false ∨ frameCheck x.control = false) : execTrainingFrameRx p lane x s = .next s := by
  unfold execTrainingFrameRx
  dsimp only
  rw [if_pos (.inr (.inr h))]

/-- In the training of an attempt the frame is taken in and the next one of the S64 sent. -/
theorem execTrainingFrameRx_trains (hp : p ≤ 15) (hl : lane ≤ 7) (hmarker : x.marker = true) (hcheck : frameCheck x.control = true)
    (hfrom : 1 ≤ s.linkState p) (hto : s.linkState p ≤ 6) (hshort : (s.port p).short = false) (hfast : (s.port p).fast = false) :
    execTrainingFrameRx p lane x s = .next ((s.hearFrame p lane x).sendFrame p lane) := by
  have hhot : s.portHot p = false := by
    have hstate : (s.linkState p == 9) = false := beq_eq_false_iff_ne.mpr (by omega)
    simp [State.portHot, State.portActive, hstate]
  unfold execTrainingFrameRx
  dsimp only
  rw [if_neg (by simp [hmarker, hcheck]; omega)]
  simp only [hhot, hshort, hfast, hfrom, hto, and_self, decide_true, Bool.not_false, Bool.and_true, if_true, Bool.or_self, Bool.false_and,
    Bool.false_eq_true, if_false]
  rfl

@[simp] theorem State.hearFrame_lane : (s.hearFrame p lane x).lane p lane = s.trainedLane p lane x := State.setLane_lane _ _ _ _

theorem State.hearFrame_port : (s.hearFrame p lane x).port p =
    { s.port p with portId := s.heardId p lane x.control, partnerSet := bitsOf x.control 47 40 } := State.setPort_port _ _ _

@[simp] theorem State.sendFrame_lane (q l : Nat) : (s.sendFrame p lane).lane q l = s.lane q l := by
  unfold State.sendFrame
  split <;> rfl

@[simp] theorem State.sendFrame_port (q : Nat) : (s.sendFrame p lane).port q = s.port q := by
  unfold State.sendFrame
  split <;> rfl

/-- What the S64 says on a lane does not depend on what it has sent. -/
theorem State.sendFrame_ownFrame (q l : Nat) : (s.sendFrame p lane).ownFrame q l = s.ownFrame q l := by
  unfold State.sendFrame
  split <;> rfl

/-- The S64 sends its next frame unless a notice waits (R218). -/
theorem State.hearFrame_sends (hfrom : 1 ≤ s.linkState p) (hto : s.linkState p ≤ 6) :
    ((s.hearFrame p lane x).sendFrame p lane).out =
      (if (s.port p).notice = none then [Output.frame p lane (((s.hearFrame p lane x).sendFrame p lane).ownFrame p lane)] else []) ++
        s.out := by
  have hruns : (s.hearFrame p lane x).framesRun p = (s.port p).notice.isNone := by
    have hstate : (s.hearFrame p lane x).linkState p = s.linkState p := rfl
    simp [State.framesRun, State.hearFrame_port, hstate, hfrom, hto]
  rw [State.sendFrame_ownFrame]
  unfold State.sendFrame
  rw [hruns]
  cases hn : (s.port p).notice with
  | none => rfl
  | some n => rfl

theorem State.hearFrame_only : Only [.out, .ports, .lanes] s ((s.hearFrame p lane x).sendFrame p lane) := by
  simp [State.hearFrame]

/-- The PORT_ID of a lane that takes part, or of one below every such lane, is taken (log entry 47). -/
theorem State.heardId_lowest (c : Nat) (h : ∀ l, l < lane → bitOf (s.port p).trainSet l = false) : s.heardId p lane c = bitsOf c 19 4 := by
  unfold State.heardId
  dsimp only
  refine if_pos (List.all_eq_true.mpr fun l _ => ?_)
  by_cases hl : lane ≤ l
  · simp [hl]
  · simp [h l (by omega)]

/-- Where a lower lane takes part, its PORT_ID counts. -/
theorem State.heardId_higher (c : Nat) (hl : lane ≤ 7) (h : ∃ l, l < lane ∧ bitOf (s.port p).trainSet l = true) :
    s.heardId p lane c = (s.port p).portId := by
  obtain ⟨l, hlt, hbit⟩ := h
  unfold State.heardId
  dsimp only
  refine if_neg fun hall => ?_
  have hthis := List.all_eq_true.mp hall l (List.mem_range.mpr (by omega))
  simp [hbit] at hthis
  omega

end

end Sys2Proof.Machine

open Sys2Proof Sys2Proof.Machine

/-- Settles O13: a detector reports or starts the short retrain that `shortRetrainOn_starts` describes, the loss of a link starts a series,
and a frame goes through the lemmas on the lane's two roles. That the PORT_ID comes from the lowest lane that takes part is log entry 47. -/
theorem lanesReportAndRetrain : Obligations.LanesReportAndRetrain := by
  unfold Obligations.LanesReportAndRetrain
  refine ⟨?reports, ?retrains, ?lost, ?hears, ?answers, ?holds, ?ignores⟩
  case reports =>
    intro s p lane los lol hp hl h
    obtain ⟨hlos, hlol⟩ := State.noteDetectors_bits (s := s) (p := p) (lane := lane) (los := los) (lol := lol)
    exact ⟨_, execLaneDetectorChange_reports hp hl h, hlos, hlol, State.noteDetectors_only, State.noteDetectors_regs⟩
  case retrains =>
    intro s p lane los lol set hp hl h huse hhot hshort hshorts
    refine ⟨_, execLaneDetectorChange_retrains hp hl h huse hhot, fun hset => ?_⟩
    obtain ⟨hport, hactive, hrev, hlanes, hcount⟩ :=
      State.noteDetectors_keeps (s := s) (p := p) (lane := lane) (los := los) (lol := lol)
    have hregs := State.shortRetrain_regs (s.noteDetectors p lane los lol) p
    rw [State.goodLanes_congr (hregs.f_apart (by simp)) (hregs.f_apart (by simp)), ← hport, ← hrev, ← hlanes] at hset
    rw [State.shortRetrain_first (by rw [hport, hshort]), ← hcount]
    exact State.shortRetrainOn_starts (hactive.trans (State.portActive_of_hot hhot)) (by rw [hport, hshort]) (by rw [hport, hshorts]) hset
  case lost =>
    intro s p hhot hlos
    obtain ⟨hstate, hchanged, hattempt, hlanes, hcold, hkeep⟩ := State.newSeries_of_active (State.portActive_of_hot hhot)
    have honly := State.newSeries_only s p true
    exact ⟨_, execLinkLost_lost hhot hlos, hstate, hchanged, hattempt, hlanes, hcold, hkeep, honly.eq_queues (by decide),
      honly.eq_tables (by decide)⟩
  case hears =>
    intro s p lane x hp hl hmarker hcheck htap hfrom hto hshort hfast
    refine ⟨_, execTrainingFrameRx_trains hp hl hmarker hcheck hfrom hto hshort hfast, ?_⟩
    obtain ⟨hseen, hecho, hready, hinv, hans, hc0, hresp⟩ := State.trainedLane_released (s := s) (p := p) (lane := lane) htap
    have hport := State.hearFrame_port (s := s) (p := p) (lane := lane) (x := x)
    rw [State.sendFrame_lane, State.hearFrame_lane, State.sendFrame_port, hport]
    exact ⟨hseen, hecho, hready, hinv, hans, hc0, hresp, State.heardId_lowest _, State.heardId_higher _ hl, rfl,
      State.hearFrame_sends hfrom hto, State.hearFrame_only⟩
  case answers =>
    intro s p lane x hp hl hmarker hcheck htap hopen hforced hfrom hto hshort hfast hdir hlow hhigh hc0
    refine ⟨_, execTrainingFrameRx_trains hp hl hmarker hcheck hfrom hto hshort hfast, ?_⟩
    dsimp only
    rw [State.sendFrame_lane, State.hearFrame_lane]
    exact State.trainedLane_cm1_down htap hdir hopen hforced hlow hhigh hc0
  case holds =>
    intro s p lane x q hp hl hmarker hcheck hfrom hto hshort hfast hq
    refine ⟨_, execTrainingFrameRx_trains hp hl hmarker hcheck hfrom hto hshort hfast, ?_⟩
    dsimp only
    rw [State.sendFrame_lane, State.hearFrame_lane, State.trainedLane, Lane.answer_asking]
    exact Lane.ask_held x _ hq
  case ignores =>
    intro s p lane x h
    exact ⟨_, execTrainingFrameRx_ignored h, rfl⟩
end

section
/-!
Training (R158, R165, R167, R168, R170, R216): one equation for each exit and each timer of the states of an attempt, and what the operation
that it names leaves.
-/
namespace Sys2Proof.Machine

/-! ### What the states leave (R165, R170, R171, R216) -/

section
variable {s : State} {p : Nat}

theorem State.lockLanes_fields (lanes : Nat) : (s.lockLanes p lanes).linkState p = 3 ∧ ((s.lockLanes p lanes).port p).trainSet = lanes ∧
    (s.lockLanes p lanes).f (rlLinkStatusClkLane p) = lowestSet 8 lanes ∧ (s.lockLanes p lanes).f (rlLinkStatusClkLocal p) = 0 := by
  unfold State.lockLanes
  refine ⟨State.toState_linkState _ _ _, ?_, ?_, ?_⟩ <;> simp [State.toState, State.f_setF_apart]

theorem State.lockSaved_fields : (s.lockSaved p).linkState p = 5 ∧
    (s.lockSaved p).f (rlLinkStatusClkLane p) = lowestSet 8 (s.f (rlLinkStatusLanes p)) ∧
    (s.lockSaved p).f (rlLinkStatusClkLocal p) = 0 := by
  unfold State.lockSaved
  refine ⟨State.toState_linkState _ _ _, ?_, ?_⟩ <;> simp [State.toState, State.f_setF_apart]

/-- FEC_LOCK begins with no framing codeword found. -/
theorem State.startFraming_fields : (s.startFraming p).linkState p = 7 ∧ ((s.startFraming p).port p).framings = 0 := by
  unfold State.startFraming
  dsimp only
  constructor
  · rw [State.linkState, State.sendLine_f, State.setPort_f]
    exact State.toState_linkState _ _ _
  · obtain ⟨n, h⟩ := State.sendLine_port (((s.toState p 7).setPort p { (s.toState p 7).port p with txLine := 0, framings := 0 })) p
      ((s.toState p 7).f (rlSeqTxNext p)) (List.replicate 320 0)
    rw [h, State.setPort_port]

theorem State.adapted_fields (x : TrainInput) (set : Nat × Nat) : (s.adapted p x set).linkState p = 7 ∧
    (s.adapted p x set).f (rlLinkStatusLanes p) = set.1 ∧ (s.adapted p x set).f (rlLinkStatusWidth p) = set.2 := by
  obtain ⟨hlanes, hwidth⟩ := State.useSet_fields (s.storeEq p x) p set
  have hregs := State.startFraming_regs ((s.storeEq p x).useSet p set) p
  exact ⟨State.startFraming_fields.1, (hregs.f_apart (by simp)).trans hlanes, (hregs.f_apart (by simp)).trans hwidth⟩

/-- CREDIT_INIT begins: RL_LAT_FIXED is set and INIT is the first item of the stream (R170, R216). -/
theorem State.framed_fields (x : TrainInput) : (s.framed p x).linkState p = 8 ∧ (s.framed p x).f (rlLatFixed p) = x.latency % 65536 ∧
    .item p (.control 1 0 (s.initBody p)) ∈ (s.framed p x).out := by
  unfold State.framed
  dsimp only
  refine ⟨?_, ?_, State.sendLine_out (List.mem_cons_self ..) _ _ _⟩
  · rw [State.linkState, State.sendLine_f, State.emit_f]
    exact State.toState_linkState _ _ _
  · rw [State.sendLine_f, State.emit_f]
    simp [State.toState, State.f_setF_apart]

/-- ACTIVE and HOT (R165). -/
def State.enterActive (s : State) (p : Nat) : State :=
  (s.setPort p { s.port p with short := false, fast := false, keep := false, keepDown := false, wasActive := true }).setFs
    [(rlLinkStatusState p, 9), (rlLinkStatusPwr p, 0)]

/-- A port reaches ACTIVE, fresh or resumed; a retrain that keeps the width is not reported (R182). -/
theorem State.becomeActive_cases (s : State) (p : Nat) : ∃ a : State,
    s.becomeActive p = (a.enterActive p).settlePorts ∨ s.becomeActive p = ((a.enterActive p).linkChanged p).settlePorts := by
  refine ⟨if (s.port p).resuming then s.startResumed p else s.startFresh p, ?_⟩
  cases h : ((s.port p).short || (s.port p).fast) && s.f (rlLinkStatusWidth p) == (s.port p).prevWidth
  · exact .inr (congrArg State.settlePorts (if_neg (by rw [h]; decide)))
  · exact .inl (congrArg State.settlePorts (if_pos h))

theorem State.enterActive_fields (a : State) (p : Nat) : (a.enterActive p).f (rlLinkStatusState p) = 9 ∧
    (a.enterActive p).f (rlLinkStatusPwr p) = 0 ∧ ((a.enterActive p).port p).wasActive = true ∧ ((a.enterActive p).port p).keep = false ∧
    ((a.enterActive p).port p).short = false := by
  simp [State.enterActive, State.f_setF_apart]

theorem State.becomeActive_fields (hp : p ≤ 15) : (s.becomeActive p).linkState p = 9 ∧ (s.becomeActive p).f (rlLinkStatusPwr p) = 0 ∧
    ((s.becomeActive p).port p).wasActive = true ∧ ((s.becomeActive p).port p).keep = false ∧
    ((s.becomeActive p).port p).short = false := by
  have hsettle : ∀ c : State, c.settlePorts.f (rlLinkStatusState p) = c.f (rlLinkStatusState p) ∧
      c.settlePorts.f (rlLinkStatusPwr p) = c.f (rlLinkStatusPwr p) ∧ c.settlePorts.port p = c.port p := fun c =>
    ⟨State.settlePorts_portFld c hp (by decide), State.settlePorts_portFld c hp (by decide),
      State.port_congr ((State.settlePorts_only c).eq_ports (by decide)) p⟩
  obtain ⟨a, h | h⟩ := s.becomeActive_cases p
  · obtain ⟨hstate, hpwr, hport⟩ := hsettle (a.enterActive p)
    rw [h, State.linkState, hstate, hpwr, hport]
    exact State.enterActive_fields a p
  · obtain ⟨hstate, hpwr, hport⟩ := hsettle ((a.enterActive p).linkChanged p)
    have hregs := State.linkChanged_regs (a.enterActive p) p
    rw [h, State.linkState, hstate, hpwr, hport, hregs.f_apart (by simp), hregs.f_apart (by simp), State.linkChanged_port]
    exact State.enterActive_fields a p

/-! ### An attempt fails (R168) -/

/-- The attempt is over: RL_TRAIN_FAIL records its state and the code, and no lane is in use. -/
def State.recordFail (s : State) (p code : Nat) : State :=
  let n := if s.f (rlLinkStatusAttempt p) = 0 then 1 else s.f (rlLinkStatusAttempt p)
  let a := (s.setFs [(rlTrainFailState p, s.linkState p), (rlTrainFailCode p, code), (rlLinkStatusClkLocal p, 1),
    (rlLinkStatusWidth p, 3), (rlLinkStatusLanes p, 0), (rlLinkStatusAttempt p, n)]).bump (rlTrainFailCount p) 16
  a.setPort p { a.port p with short := false, fast := false }

/-- The port becomes DOWN (R182, R228). -/
def State.markDown (s : State) (p : Nat) : State :=
  ((s.setPort p { s.port p with keep := (s.port p).keep && (s.port p).keepDown }).setFs
    [(rlLinkStatusState p, 0xB), (rlLinkStatusChanged p, 1)]).emit (.lanesIdle p)

/-- The event of a port that becomes DOWN. -/
def downEvent (p code : Nat) : LogEvent :=
  { pre := .rl, code := 0x03, severity := 3, vector := some 3, unitKind := 5, unit := p, data := code }

theorem State.markDown_regs : OnlyRegs [rlLinkStatusState p, rlLinkStatusChanged p] s (s.markDown p) := by
  simp [State.markDown]

theorem State.markDown_state : (s.markDown p).f (rlLinkStatusState p) = 0xB := by
  simp [State.markDown, State.f_setF_apart]

theorem State.recordFail_fields (code : Nat) : (s.recordFail p code).f (rlTrainFailState p) = s.linkState p ∧
    (s.recordFail p code).f (rlTrainFailCode p) = code ∧
    (s.recordFail p code).f (rlTrainFailCount p) = min (s.f (rlTrainFailCount p) + 1) 65535 := by
  simp [State.recordFail, State.bump_f_apart, State.bump_sixteen, State.f_setF_apart]

theorem State.failAttempt_down {code : Nat} (h : 4 ≤ s.f (rlLinkStatusAttempt p)) :
    s.failAttempt p code = (((s.recordFail p code).markDown p).report (downEvent p code)).settlePorts := by
  have hn : s.f (rlLinkStatusAttempt p) ≠ 0 := by omega
  unfold State.failAttempt
  dsimp only
  rw [if_pos (by rwa [if_neg hn])]
  rfl

/-- The report and DP_READY change no field of a port. -/
theorem State.failAttempt_down_fld {code o l : Nat} (hp : p ≤ 15) (h : 4 ≤ s.f (rlLinkStatusAttempt p)) (hl : o * 32 + l < 0x20000) :
    (s.failAttempt p code).f (fld (0x60000 + 0x1000 * p + o) l) =
      ((s.recordFail p code).markDown p).f (fld (0x60000 + 0x1000 * p + o) l) := by
  rw [State.failAttempt_down h]
  exact (State.settlePorts_portFld _ hp hl).trans (State.report_portFld _ _ hp hl)

theorem State.failAttempt_idle {code : Nat} (h : ¬ 4 ≤ s.f (rlLinkStatusAttempt p)) :
    s.failAttempt p code = ((s.recordFail p code).setF (rlLinkStatusState p) 0xA).emit (.lanesIdle p) := by
  unfold State.failAttempt
  dsimp only
  rw [if_neg (by split <;> omega)]
  rfl

/-- What RL_TRAIN_FAIL records of an attempt, and the state that the port goes to. -/
theorem State.failAttempt_fields (code : Nat) (hp : p ≤ 15) :
    (s.failAttempt p code).f (rlTrainFailState p) = s.linkState p ∧ (s.failAttempt p code).f (rlTrainFailCode p) = code ∧
      (s.failAttempt p code).linkState p = (if 4 ≤ s.f (rlLinkStatusAttempt p) then 0xB else 0xA) ∧
      (s.failAttempt p code).f (rlTrainFailCount p) = min (s.f (rlTrainFailCount p) + 1) 65535 := by
  obtain ⟨hstate, hcode, hcount⟩ := State.recordFail_fields (s := s) (p := p) code
  by_cases h : 4 ≤ s.f (rlLinkStatusAttempt p)
  · have hdown := State.markDown_regs (s := s.recordFail p code) (p := p)
    rw [if_pos h]
    exact ⟨(State.failAttempt_down_fld hp h (by decide)).trans ((hdown.f_apart (k := rlTrainFailState p) (by simp)).trans hstate),
      (State.failAttempt_down_fld hp h (by decide)).trans ((hdown.f_apart (k := rlTrainFailCode p) (by simp)).trans hcode),
      (State.failAttempt_down_fld hp h (by decide)).trans State.markDown_state,
      (State.failAttempt_down_fld hp h (by decide)).trans ((hdown.f_apart (k := rlTrainFailCount p) (by simp)).trans hcount)⟩
  · rw [State.failAttempt_idle h, if_neg h]
    simp [State.linkState, State.f_setF_apart, hstate, hcode, hcount]

/-- The report of a port that becomes DOWN. -/
theorem State.failAttempt_reports {code : Nat} (h : 4 ≤ s.f (rlLinkStatusAttempt p)) :
    Newest (s.failAttempt p code) .rl 0x03 p ∧ (s.failAttempt p code).f elStatusAlertPend = 1 := by
  rw [State.failAttempt_down h]
  constructor
  · have hnew := State.report_newest ((s.recordFail p code).markDown p) (downEvent p code)
    unfold Newest at hnew ⊢
    rwa [(State.settlePorts_only _).eq_log (by decide)]
  · rw [State.settlePorts_regs _ _ (by decide)]
    exact State.report_alert _ _ rfl

/-- In a series of attempts a timer that ends one records the state it ends in. -/
theorem State.timerFail_fails {code : Nat} (hshort : (s.port p).short = false) (hfast : (s.port p).fast = false) :
    s.timerFail p code = (s.dropPartial p).failAttempt p code := by
  simp [State.timerFail, hshort, hfast]

end

/-! ### The exits of the states (R165, R216) -/

section
variable {s : State} {p : Nat} {x : TrainInput}

section
variable (hp : p ≤ 15) (hn : (s.port p).notice = none)
include hp hn

theorem execTrainStateExit_detect (hs : s.linkState p = 1) (h : s.usableLanes p ≠ 0) :
    execTrainStateExit p x s = .next (s.toState p 2) := by
  simp [execTrainStateExit, hn, hs, h, Nat.not_lt.mpr hp]

theorem execTrainStateExit_cdrLock (hs : s.linkState p = 2) (hfast : (s.port p).fast = false) (hu : s.usableLanes p ≠ 0)
    (h : x.lanes &&& s.usableLanes p = s.usableLanes p) : execTrainStateExit p x s = .next (s.lockLanes p (s.usableLanes p)) := by
  simp [execTrainStateExit, hn, hs, hfast, hu, h, Nat.not_lt.mpr hp]

theorem execTrainStateExit_cdrLock_fast (hs : s.linkState p = 2) (hfast : (s.port p).fast = true)
    (h : x.lanes &&& s.usableLanes p = s.f (rlLinkStatusLanes p)) : execTrainStateExit p x s = .next (s.lockSaved p) := by
  simp [execTrainStateExit, hn, hs, hfast, h, Nat.not_lt.mpr hp]

theorem execTrainStateExit_polarity (hs : s.linkState p = 3)
    (h : ∀ l, l < 8 → bitOf (s.port p).trainSet l = true → (s.lane p l).seen ≠ none) :
    execTrainStateExit p x s = .next (s.fixPolarity p) := by
  have hall : (List.range 8).all (fun l => !bitOf (s.port p).trainSet l || (s.lane p l).seen.isSome) = true := by
    refine List.all_eq_true.mpr fun l hl => ?_
    cases hb : bitOf (s.port p).trainSet l
    · rfl
    · simpa using Option.isSome_iff_ne_none.mpr (h l (List.mem_range.mp hl) hb)
  unfold execTrainStateExit
  dsimp only
  rw [if_neg (by simp [hn, Nat.not_lt.mpr hp]), hs]
  exact if_pos hall

theorem execTrainStateExit_laneMap {rev : Bool} (hs : s.linkState p = 4) (ho : s.laneOrder p = some rev) (he : s.echoed p = true) :
    execTrainStateExit p x s = .next ((s.setF (rlLinkStatusReversed p) (b2n rev)).toState p 5) := by
  simp [execTrainStateExit, hn, hs, ho, he, Nat.not_lt.mpr hp]

theorem execTrainStateExit_deskew (hs : s.linkState p = 5) (hshort : (s.port p).short = false) (hfast : (s.port p).fast = false)
    (h : x.lanes &&& (s.port p).trainSet = (s.port p).trainSet) : execTrainStateExit p x s = .next (s.toState p 6) := by
  simp [execTrainStateExit, hn, hs, hshort, hfast, h, Nat.not_lt.mpr hp]

theorem execTrainStateExit_deskew_retrain (hs : s.linkState p = 5) (hr : (s.port p).short = true ∨ (s.port p).fast = true)
    (h : x.lanes &&& s.f (rlLinkStatusLanes p) = s.f (rlLinkStatusLanes p)) : execTrainStateExit p x s = .next (s.startFraming p) := by
  have hr' : ((s.port p).short || (s.port p).fast) = true := by simpa using hr
  simp [execTrainStateExit, hn, hs, hr', h, Nat.not_lt.mpr hp]

theorem execTrainStateExit_eqAdapt {set : Nat × Nat} (hs : s.linkState p = 6) (hown : s.ownReady p = true)
    (hset : chooseSet (s.on (rlLinkStatusReversed p)) (s.proposal p &&& (s.port p).partnerSet) = some set)
    (hpartner : s.proposal p &&& (s.port p).partnerSet &&& s.partnerReady p = s.proposal p &&& (s.port p).partnerSet) :
    execTrainStateExit p x s = .next (s.adapted p x set) := by
  simp [execTrainStateExit, hn, hs, hown, hset, hpartner, Nat.not_lt.mpr hp]

theorem execTrainStateExit_fecLock (hs : s.linkState p = 7) (hf : 3 ≤ (s.port p).framings) (h : x.partnerFramed = true) :
    execTrainStateExit p x s = .next (s.framed p x) := by
  simp [execTrainStateExit, hn, hs, hf, h, Nat.not_lt.mpr hp]

theorem execTrainStateExit_creditInit (hs : s.linkState p = 8) (h : (s.port p).initSeen = true) :
    execTrainStateExit p x s = .next (s.becomeActive p) := by
  simp [execTrainStateExit, hn, hs, h, Nat.not_lt.mpr hp]

end

/-! ### The timers of the states (R168) -/

/-- The states whose timer ends the attempt in any case, with their codes. -/
theorem execTrainStateTimer_fails {st code : Nat} (hp : p ≤ 15) (h : (st, code) ∈ [(1, 1), (3, 3), (5, 6), (7, 8), (8, 9)])
    (hs : s.linkState p = st) : execTrainStateTimer p x s = .next (s.timerFail p code) := by
  simp only [List.mem_cons, Prod.mk.injEq, List.not_mem_nil, or_false] at h
  rcases h with ⟨rfl, rfl⟩ | ⟨rfl, rfl⟩ | ⟨rfl, rfl⟩ | ⟨rfl, rfl⟩ | ⟨rfl, rfl⟩ <;>
    simp [execTrainStateTimer, hs, Nat.not_lt.mpr hp]

/-- CDR_LOCK goes on with the lanes that have locked where they hold a legal set. -/
theorem execTrainStateTimer_cdrLock (hp : p ≤ 15) (hs : s.linkState p = 2) (hfast : (s.port p).fast = false)
    (h : (chooseSet false (x.lanes &&& s.usableLanes p)).isSome = true) :
    execTrainStateTimer p x s = .next (s.lockLanes p (x.lanes &&& s.usableLanes p)) := by
  simp [execTrainStateTimer, hs, hfast, h, Nat.not_lt.mpr hp]

theorem execAttemptIdleEnd_next (hp : p ≤ 15) (hs : s.linkState p = 0xA) : execAttemptIdleEnd p s =
    .next ((s.setF (rlLinkStatusAttempt p) (min (s.f (rlLinkStatusAttempt p) + 1) 4)).startDetect p) := if_pos ⟨hs, hp⟩

end

/-- A step of a tap keeps the sum of the magnitudes, or changes nothing (R158, R159). -/
theorem Lane.step_keeps_sum (x : Lane) (tap : Nat) (up : Bool) :
    ((x.step tap up).2 = 1 ∧ 32 ≤ (x.step tap up).1.c0 ∧ tapInRange tap ((x.step tap up).1.tap tap) = true ∧
      (x.step tap up).1.tap tap = x.asked tap up ∧
      (x.step tap up).1.outerSum + (x.step tap up).1.c0 = x.outerSum + x.c0) ∨
    ((x.step tap up).2 = 2 ∧ (x.step tap up).1 = x) := by
  obtain ⟨hrange, hrest, h⟩ | h := x.step_cases tap up
  · rw [h]
    dsimp only
    rw [Lane.withTap_c0, Lane.withTap_tap, Lane.withTap_outerSum]
    exact .inl ⟨rfl, hrest, hrange, rfl, by omega⟩
  · rw [h]
    exact .inr ⟨rfl, rfl⟩

end Sys2Proof.Machine

open Sys2Proof Sys2Proof.Machine

/-- Settles O14: each state by the equation of its exit and what the operation it names leaves; a timer that ends an attempt by what
`failAttempt` records. -/
theorem trainingWalksItsStates : Obligations.TrainingWalksItsStates := by
  unfold Obligations.TrainingWalksItsStates
  refine ⟨Lane.step_keeps_sum, ?detect, ?cdrLock, ?cdrLockFast, ?polarity, ?laneMap, ?deskew, ?deskewRetrain, ?eqAdapt, ?fecLock,
    ?creditInit, ?fails, ?cdrLockTimer, ?nextAttempt⟩
  case detect =>
    intro s p x hp hn hs h
    exact ⟨_, execTrainStateExit_detect hp hn hs h, rfl⟩
  case cdrLock =>
    intro s p x hp hn hs hfast hu h
    obtain ⟨hstate, hset, hclk, hlocal⟩ := State.lockLanes_fields (s := s) (p := p) (s.usableLanes p)
    exact ⟨_, execTrainStateExit_cdrLock hp hn hs hfast hu h, hstate, hset, hclk, hlocal,
      (State.lockLanes_only s p _).mono (by decide)⟩
  case cdrLockFast =>
    intro s p x hp hn hs hfast h
    obtain ⟨hstate, hclk, hlocal⟩ := State.lockSaved_fields (s := s) (p := p)
    exact ⟨_, execTrainStateExit_cdrLock_fast hp hn hs hfast h, hstate, hclk, hlocal, State.lockSaved_only s p⟩
  case polarity =>
    intro s p x hp hn hs h
    exact ⟨_, execTrainStateExit_polarity hp hn hs h, State.toState_linkState _ _ _, State.fixPolarity_only s p,
      (State.fixPolarity_regs s p).mono (by simp)⟩
  case laneMap =>
    intro s p x rev hp hn hs ho he
    refine ⟨_, execTrainStateExit_laneMap hp hn hs ho he, State.toState_linkState _ _ _, ?_, ?_, ?_⟩
    · simp [State.toState, State.f_setF_apart]
    · simp
    · simp
  case deskew =>
    intro s p x hp hn hs hshort hfast h
    exact ⟨_, execTrainStateExit_deskew hp hn hs hshort hfast h, rfl⟩
  case deskewRetrain =>
    intro s p x hp hn hs hr h
    obtain ⟨hstate, hframings⟩ := State.startFraming_fields (s := s) (p := p)
    exact ⟨_, execTrainStateExit_deskew_retrain hp hn hs hr h, hstate, hframings, (State.startFraming_only s p).mono (by decide)⟩
  case eqAdapt =>
    intro s p x set hp hn hs hown hset hpartner
    obtain ⟨hstate, hlanes, hwidth⟩ := State.adapted_fields (s := s) (p := p) x set
    exact ⟨_, execTrainStateExit_eqAdapt hp hn hs hown hset hpartner, hstate, hlanes, hwidth, (State.adapted_only s p x set).mono (by decide)⟩
  case fecLock =>
    intro s p x hp hn hs hf h
    obtain ⟨hstate, hfixed, hinit⟩ := State.framed_fields (s := s) (p := p) x
    exact ⟨_, execTrainStateExit_fecLock hp hn hs hf h, hstate, hfixed, hinit, (State.framed_only s p x).mono (by decide)⟩
  case creditInit =>
    intro s p x hp hn hs h
    obtain ⟨hstate, hpwr, hwas, hkeep, hshort⟩ := State.becomeActive_fields (s := s) hp
    have honly := State.becomeActive_only s p
    exact ⟨_, execTrainStateExit_creditInit hp hn hs h, hstate, hpwr, hwas, hkeep, hshort, honly.eq_queues (by decide),
      honly.eq_tables (by decide)⟩
  case fails =>
    intro s p st code x hp h hs hshort hfast
    obtain ⟨hstate, hcode, hnext, hcount⟩ := State.failAttempt_fields (s := s.dropPartial p) code hp
    have hx := execTrainStateTimer_fails (x := x) hp h hs
    rw [State.timerFail_fails hshort hfast] at hx
    rw [State.dropPartial_f] at hnext hcount
    rw [State.linkState, State.dropPartial_f] at hstate
    refine ⟨_, hx, hstate.trans hs, hcode, hnext, hcount, fun h4 => State.failAttempt_reports ?_⟩
    rwa [State.dropPartial_f]
  case cdrLockTimer =>
    intro s p x hp hs hfast h
    obtain ⟨hstate, hset, -⟩ := State.lockLanes_fields (s := s) (p := p) (x.lanes &&& s.usableLanes p)
    exact ⟨_, execTrainStateTimer_cdrLock hp hs hfast h, hstate, hset⟩
  case nextAttempt =>
    intro s p hp hs
    obtain ⟨hstate, -⟩ := State.startDetect_fields (s.setF (rlLinkStatusAttempt p) (min (s.f (rlLinkStatusAttempt p) + 1) 4)) p
    refine ⟨_, execAttemptIdleEnd_next hp hs, hstate, ?_⟩
    rw [(State.startDetect_regs _ p).f_apart (by simp), State.f_setF_same]
end

section
/-!
Requests of the data path (R198, R201, R207, R208, R226): a request that is admitted runs its opcode's own rules, what taking it out of the
ingress buffer leaves as it was, and what its reply adds.
-/
namespace Sys2Proof.Machine

/-! ### Ports -/

theorem State.setPort_port_other (s : State) {p q : Nat} (x : Port) (h : q ≠ p) : (s.setPort p x).port q = s.port q :=
  Map.get_set_other _ _ _ h

@[simp] theorem State.bump_port (s : State) (k : Fld) (w q : Nat) : (s.bump k w).port q = s.port q := rfl
@[simp] theorem State.addF_port (s : State) (k : Fld) (n mx q : Nat) : (s.addF k n mx).port q = s.port q := rfl

/-! ### The request leaves the ingress buffer (R207) -/

/-- Credits go back by the return counters of the port alone. -/
theorem State.returnCredits_port (s : State) (r : Req) (p : Nat) :
    ∃ a b c, (s.returnCredits r).port p = { s.port p with ret0 := a, ret1 := b, ret3 := c } := by
  by_cases hp : p = r.port
  · subst hp
    unfold State.returnCredits
    dsimp only
    split
    · exact ⟨_, _, _, rfl⟩
    · split <;> exact ⟨_, _, _, State.setPort_port _ _ _⟩
  · refine ⟨(s.port p).ret0, (s.port p).ret1, (s.port p).ret3, ?_⟩
    unfold State.returnCredits
    dsimp only
    split
    · rfl
    · split <;> exact State.setPort_port_other _ _ hp

/-- Of a port only the ingress buffer and the return counters change. -/
theorem State.takeReq_port (s : State) (r : Req) (p : Nat) :
    ∃ l a b c, (s.takeReq r).port p = { s.port p with ingress := l, ret0 := a, ret1 := b, ret3 := c } := by
  have hset : ∃ l, (s.setPort r.port { s.port r.port with ingress := (s.port r.port).ingress.erase r }).port p =
      { s.port p with ingress := l } := by
    by_cases hp : p = r.port
    · subst hp
      exact ⟨_, State.setPort_port _ _ _⟩
    · exact ⟨(s.port p).ingress, State.setPort_port_other _ _ hp⟩
  obtain ⟨l, hl⟩ := hset
  unfold State.takeReq
  dsimp only
  split
  · exact ⟨_, _, _, _, rfl⟩
  · split
    · exact ⟨l, _, _, _, hl⟩
    · obtain ⟨a, b, c, h⟩ := State.returnCredits_port ((s.setPort r.port
        { s.port r.port with ingress := (s.port r.port).ingress.erase r }).setF (rxFree r.port (reqChannel r))
        (min ((s.setPort r.port { s.port r.port with ingress := (s.port r.port).ingress.erase r }).f (rxFree r.port (reqChannel r)) +
          creditsOf (16 + r.length)) 4095)) r p
      rw [State.setF_port, hl] at h
      exact ⟨l, a, b, c, h⟩

@[simp] theorem State.takeReq_egress (s : State) (r : Req) (p : Nat) : ((s.takeReq r).port p).egress = (s.port p).egress := by
  obtain ⟨l, a, b, c, h⟩ := s.takeReq_port r p
  rw [h]

@[simp] theorem State.takeReq_awaiting (s : State) (r : Req) (p : Nat) : ((s.takeReq r).port p).awaiting = (s.port p).awaiting := by
  obtain ⟨l, a, b, c, h⟩ := s.takeReq_port r p
  rw [h]

@[simp] theorem State.takeReq_assembly (s : State) (r : Req) (p : Nat) : ((s.takeReq r).port p).assembly = (s.port p).assembly := by
  obtain ⟨l, a, b, c, h⟩ := s.takeReq_port r p
  rw [h]

theorem State.returnCredits_eq (s : State) (r : Req) : ∃ b, s.returnCredits r = { s with ports := b } := by
  unfold State.returnCredits
  dsimp only
  split
  · exact ⟨s.ports, rfl⟩
  · split <;> exact ⟨_, rfl⟩

/-- Nothing but registers and ports changes, so what reads neither is the same by definition. -/
theorem State.takeReq_eq (s : State) (r : Req) : ∃ a b, s.takeReq r = { s with regs := a, ports := b } := by
  unfold State.takeReq
  dsimp only
  split
  · exact ⟨s.regs, s.ports, rfl⟩
  · split
    · exact ⟨s.regs, _, rfl⟩
    · generalize min _ 4095 = v
      have hset : ∃ a c, (s.setPort r.port { s.port r.port with ingress := (s.port r.port).ingress.erase r }).setF
          (rxFree r.port (reqChannel r)) v = { s with regs := a, ports := c } := ⟨_, _, rfl⟩
      obtain ⟨a, c, hset⟩ := hset
      obtain ⟨b, h⟩ := State.returnCredits_eq { s with regs := a, ports := c } r
      rw [hset]
      exact ⟨a, b, h⟩

/-! ### Where the fields of a port's credits and replies lie -/

@[simp] theorem reply_places (p : Nat) : regPlace (rlEgressBytes p) = 3584 ∧ regPlace (rlRxFreeAVc0 p) = 2688 ∧
    regPlace (rlRxFreeAVc1 p) = 2704 ∧ regPlace (rlRxFreeBVc3 p) = 2816 := by
  refine ⟨?_, ?_, ?_, ?_⟩ <;> exact portFld_place (by decide)

theorem rxFree_place (p c : Nat) : regPlace (rxFree p c) ∈ [2688, 2704, 2816] := by
  unfold rxFree
  split <;> simp

/-- A field that is no credit counter of a port keeps its value. -/
theorem State.takeReq_f_apart (s : State) (r : Req) {k : Fld} (h : regPlace k ∉ [2688, 2704, 2816]) : (s.takeReq r).f k = s.f k :=
  (State.takeReq_regs s r).f_apart (fun m => h (by
    rw [List.mem_singleton.mp m]
    exact rxFree_place _ _))

theorem State.answer_f_apart (s : State) (r : Req) (status arg : Nat) (payload : List Byte) (n : Nat) {k : Fld} (h : regPlace k ≠ 3584) :
    (s.answer r status arg payload n).f k = s.f k :=
  (State.answer_regs s r status arg payload n none).f_apart (by simpa using h)

/-- A counter of the queue manager: neither taking the request nor answering it changes another field than those of its port. -/
theorem State.bump_answer_f (s : State) (r : Req) (st arg : Nat) (payload : List Byte) (n : Nat) {k : Fld} (w : Nat) (h : regPlace k ≠ 3584) :
    ((s.bump k w).answer r st arg payload n).f k = min (s.f k + 1) (2 ^ w - 1) := by
  rw [State.answer_f_apart _ _ _ _ _ _ h]
  exact State.f_setF_same _ _ _

/-! ### Replies (R196, R201) -/

theorem State.answer_replies {s u : State} {r : Req} (status arg : Nat) (payload : List Byte) (n : Nat)
    (h : (u.port r.port).egress = (s.port r.port).egress) : Replies r status arg payload s (u.answer r status arg payload n) := by
  have hegress : ((u.answer r status arg payload n).port r.port).egress = (s.port r.port).egress ++
      [⟨r.opcode + 0x80, r.b1 % 16, status, arg, r.tag, r.object, payload, n, none, false⟩] := by
    rw [State.answer, State.addF_port, State.setPort_port, h]
    rfl
  exact ⟨_, hegress, rfl, rfl, rfl, rfl, rfl, rfl, rfl⟩

/-- Of the state before only the egress store counts. -/
theorem Replies.of_egress {s t u : State} {r : Req} {status arg : Nat} {payload : List Byte} (h : Replies r status arg payload t u)
    (he : (t.port r.port).egress = (s.port r.port).egress) : Replies r status arg payload s u := by
  unfold Replies at h ⊢
  rwa [he] at h

/-! ### Admission (R208, R220, R221) -/

variable {s : State} {r : Req}

theorem Admitted.runs {longest : Nat} {hold : State → Bool} (own : State → State) (h : Admitted r longest s) (hhold : hold s = false) :
    runRequest r longest hold own s = .next (own (s.takeReq r)) := by
  obtain ⟨hmay, hearly, hroom⟩ := h
  unfold runRequest
  simp [hmay, hearly, hroom, hhold]

/-- Room for a longer reply is room for a shorter one. -/
theorem Admitted.mono {m n : Nat} (h : Admitted r m s) (hle : n ≤ m) : Admitted r n s := by
  obtain ⟨hmay, hearly, hroom⟩ := h
  refine ⟨hmay, hearly, ?_⟩
  unfold State.egressRoom at hroom ⊢
  simp only [decide_eq_true_eq] at hroom ⊢
  omega

end Sys2Proof.Machine
end

section
/-!
Queues (R236, R244, R249, R288): what a read of a queue returns after a write, and what opening blocks leaves of the queues.
-/
namespace Sys2Proof.Machine

theorem State.queue_congr {s t : State} (h : t.queues = s.queues) (q : Nat) : t.queue q = s.queue q := by
  unfold State.queue
  rw [h]

@[simp] theorem State.setQueue_queue (s : State) (q : Nat) (x : Queue) : (s.setQueue q x).queue q = x := Map.get_set_same _ _ _ _

theorem State.setQueue_queue_other (s : State) {p q : Nat} (x : Queue) (h : q ≠ p) : (s.setQueue p x).queue q = s.queue q :=
  Map.get_set_other _ _ _ h

@[simp] theorem State.setQueue_f (s : State) (q : Nat) (x : Queue) (k : Fld) : (s.setQueue q x).f k = s.f k := rfl
@[simp] theorem State.setQueue_port (s : State) (q p : Nat) (x : Queue) : (s.setQueue q x).port p = s.port p := rfl

@[simp] theorem State.takeReq_queues (s : State) (r : Req) : (s.takeReq r).queues = s.queues :=
  (State.takeReq_only s r).eq_queues (by decide)

@[simp] theorem State.takeReq_queue (s : State) (r : Req) (q : Nat) : (s.takeReq r).queue q = s.queue q :=
  State.queue_congr (State.takeReq_queues s r) q

/-! ### Blocks are opened (R288 to R291) -/

/-- From `s` to `t` no queue but `q` changes, and of `q` only where its blocks lie. -/
def Placing (q : Nat) (s t : State) : Prop :=
  (∃ l m, t.queue q = { s.queue q with places := l, recent := m }) ∧ ∀ p, p ≠ q → t.queue p = s.queue p

theorem Placing.of_queues {q : Nat} {s t : State} (h : t.queues = s.queues) : Placing q s t :=
  ⟨⟨_, _, State.queue_congr h q⟩, fun p _ => State.queue_congr h p⟩

theorem Placing.trans {q : Nat} {s t u : State} (h : Placing q s t) (g : Placing q t u) : Placing q s u := by
  obtain ⟨⟨l, m, hq⟩, hother⟩ := h
  obtain ⟨⟨l', m', gq⟩, gother⟩ := g
  refine ⟨⟨l', m', ?_⟩, fun p hp => (gother p hp).trans (hother p hp)⟩
  rw [gq, hq]

theorem State.openBlock_placing (s : State) (q b : Nat) : Placing q s (s.openBlock q b) := by
  unfold State.openBlock
  dsimp only
  split
  · exact Placing.of_queues rfl
  · next y hy =>
    have htaken : y.2.queues = s.queues := (State.takeRow_only s _ y hy).eq_queues (by decide)
    refine (Placing.of_queues htaken).trans ⟨⟨_, _, State.setQueue_queue _ _ _⟩, fun p hp => ?_⟩
    refine (State.setQueue_queue_other _ _ hp).trans (State.queue_congr ?_ p)
    (repeat' split) <;> rfl

theorem State.openBlocks_placing (s : State) (q b n : Nat) : Placing q s (s.openBlocks q b n) := by
  induction n generalizing s b with
  | zero => exact Placing.of_queues rfl
  | succ n ih => exact (State.openBlock_placing s q b).trans (ih _ _)

theorem State.openFor_placing (s : State) (r : Req) : Placing r.object s (s.openFor r) := State.openBlocks_placing _ _ _ _

/-! ### Refusals for the state of a queue (R279) -/

theorem State.refuseState_facts (s : State) (r : Req) (st : Nat) :
    Replies r st 0 [] s ((s.takeReq r).refuseState r st) ∧ ((s.takeReq r).refuseState r st).queues = s.queues ∧
      ((s.takeReq r).refuseState r st).f qmRefuseState = min (s.f qmRefuseState + 1) (2 ^ 32 - 1) := by
  refine ⟨State.answer_replies _ _ _ _ (by simp), by simp [State.refuseState], ?_⟩
  rw [State.refuseState, State.bump_answer_f _ _ _ _ _ _ _ (by decide), State.takeReq_f_apart _ _ (by decide)]

/-! ### Fields of the memory controllers and of the queue manager -/

/-- The controllers have pages of their own (R20). -/
theorem controllerRegs_page {k : Fld} (h : k ∈ controllerRegs) : 0xD0 ≤ regPage k := by
  simp only [controllerRegs, List.mem_flatMap, List.mem_cons, List.not_mem_nil, or_false] at h
  obtain ⟨n, -, h⟩ := h
  rcases h with rfl | rfl | rfl | rfl | rfl | rfl | rfl | rfl <;>
    exact (Nat.le_div_iff_mul_le (by decide)).mpr (by
      simp only [mcPcStatusState, mcPcQueueWq, mcPcQueueRq, mcPcQueueWqPeak, mcPcQueueRqPeak, mcPcStatusDrain, mcPcFwd, mcPcMerge, mcPcBase, fld]
      omega)

end Sys2Proof.Machine
end

section
/-!
ENQ (R244, R249, R252 to R255): its checks do not see that the request has left the ingress buffer, and what a commit leaves.
-/
namespace Sys2Proof.Machine

/-! ### Refusals (R252, R253) -/

/-- The checks read the queues, the pool and the ENQs that are admitted and not committed. -/
theorem State.enqRefusal_congr {s t : State} (r : Req) (hqueues : t.queues = s.queues) (hmarver : t.marver = s.marver)
    (hassembly : ∀ p, (t.port p).assembly = (s.port p).assembly) (hlimit : t.f qmPoolLimit = s.f qmPoolLimit) :
    t.enqRefusal r = s.enqRefusal r := by
  have hqueue := State.queue_congr hqueues
  have hpending : ∀ q, t.pendingBlocks q = s.pendingBlocks q := fun q => by
    unfold State.pendingBlocks
    simp only [hassembly, hqueue]
  have hdemand : t.poolDemand = s.poolDemand := by
    unfold State.poolDemand
    simp only [hqueues, hmarver, hpending]
  unfold State.enqRefusal State.contextLost State.poolFits State.poolBlocksAt State.poolBlocks
  simp only [hqueue, hpending, hdemand, hmarver, hlimit]

theorem State.takeReq_enqRefusal (s : State) (r : Req) : (s.takeReq r).enqRefusal r = s.enqRefusal r :=
  State.enqRefusal_congr r (State.takeReq_queues s r) ((State.takeReq_only s r).eq_marver (by decide)) (State.takeReq_assembly s r)
    (State.takeReq_f_apart s r (by decide))

/-- A refusal that counts as a drop of its queue (R255). -/
def State.dropEnq (s : State) (r : Req) (k : Fld) (st : Nat) : State :=
  ((s.setQueue r.object { s.queue r.object with drops := ((s.queue r.object).drops + 1) % 2 ^ 32 }).bump k 32).answer r st 0 []

theorem State.refuseEnq_full (s : State) (r : Req) : s.refuseEnq r stQueueFull = s.dropEnq r qmRefuseQfull stQueueFull := rfl

theorem State.refuseEnq_exhausted (s : State) (r : Req) : s.refuseEnq r stPoolExhausted = s.dropEnq r qmRefusePool stPoolExhausted := rfl

theorem State.refuseEnq_state (s : State) (r : Req) {st : Nat} (h : st = stNoSuchObject ∨ st = stNotPermitted) :
    s.refuseEnq r st = s.refuseState r st := by
  rcases h with rfl | rfl <;> rfl

theorem State.dropEnq_facts (s : State) (r : Req) {k : Fld} (st : Nat) (hk : regPlace k ∉ [2688, 2704, 2816, 3584]) :
    Replies r st 0 [] s ((s.takeReq r).dropEnq r k st) ∧
      ((s.takeReq r).dropEnq r k st).queue r.object =
        { s.queue r.object with drops := ((s.queue r.object).drops + 1) % 2 ^ 32 } ∧
      ((s.takeReq r).dropEnq r k st).f k = min (s.f k + 1) (2 ^ 32 - 1) ∧
      ∀ q, q ≠ r.object → ((s.takeReq r).dropEnq r k st).queue q = s.queue q := by
  have hset : ∀ q, ((s.takeReq r).dropEnq r k st).queue q = ((s.takeReq r).setQueue r.object { (s.takeReq r).queue r.object with
      drops := (((s.takeReq r).queue r.object).drops + 1) % 2 ^ 32 }).queue q := State.queue_congr (by simp [State.dropEnq])
  refine ⟨State.answer_replies _ _ _ _ (by simp), ?_, ?_, fun q hq => ?_⟩
  · rw [hset, State.setQueue_queue, State.takeReq_queue]
  · rw [State.dropEnq, State.bump_answer_f _ _ _ _ _ _ _ (fun h => hk (by simp [h])), State.setQueue_f,
      State.takeReq_f_apart _ _ (fun h => hk (List.mem_of_mem_dropLast (l := [2688, 2704, 2816, 3584]) h))]
  · rw [hset, State.setQueue_queue_other _ _ hq, State.takeReq_queue]

/-! ### Commits (R249, R255) -/

/-- The state of a commit before its reply: blocks opened, full ones written, the packet added and counted. -/
def State.addPacket (s : State) (r : Req) : State :=
  (((s.openFor r).writeBlocks r.object ((s.openFor r).queue r.object)
    (((s.openFor r).queue r.object).pack (((s.openFor r).queue r.object).packet r)).1).setQueue r.object
      (((s.openFor r).queue r.object).commit r)).bump qmEnqCount 64

theorem State.commitEnq_eq (s : State) (r : Req) : s.commitEnq r =
    if bitOf r.b2 0 then (s.addPacket r).answer r stOk 0 (leBytes 4 (s.queue r.object).nextSeq ++ leBytes 4 0 ++
      leBytes 8 ((s.addPacket r).queue r.object).bytes)
    else (s.addPacket r).dropRoom r := by
  have hq : (s.addPacket r).queue r.object = ((s.openFor r).queue r.object).commit r := State.setQueue_queue _ _ _
  rw [hq]
  rfl

theorem State.addPacket_only (s : State) (r : Req) : Only [.out, .regs, .queues, .marver, .pcs, .placed, .regulator] s (s.addPacket r) := by
  simp [State.addPacket]

theorem State.commitEnq_queues (s : State) (r : Req) : (s.commitEnq r).queues = (s.addPacket r).queues := by
  rw [State.commitEnq_eq]
  split
  · exact State.answer_keeps_queues _ _ _ _ _ _ _
  · rfl

/-- The packet is the last of its queue (R244), and the next one has the next SEQ and the position after it. -/
theorem State.commitEnq_queue (s : State) (r : Req) :
    ((s.commitEnq r).queue r.object).packets = (s.queue r.object).packets ++ [(s.queue r.object).packet r] ∧
      ((s.commitEnq r).queue r.object).nextSeq = ((s.queue r.object).nextSeq + 1) % 2 ^ 32 ∧
      ((s.commitEnq r).queue r.object).tail = (s.queue r.object).tail + 16 + r.length := by
  obtain ⟨⟨l, m, hopen⟩, -⟩ := State.openFor_placing s r
  have hq : (s.commitEnq r).queue r.object = ((s.openFor r).queue r.object).commit r :=
    (State.queue_congr (State.commitEnq_queues s r) _).trans (State.setQueue_queue _ _ _)
  rw [hq, hopen]
  exact ⟨rfl, rfl, rfl⟩

theorem State.commitEnq_queue_other (s : State) (r : Req) {q : Nat} (h : q ≠ r.object) : (s.commitEnq r).queue q = s.queue q := by
  have hset : (s.addPacket r).queue q = (s.openFor r).queue q :=
    (State.setQueue_queue_other _ _ h).trans (State.queue_congr ((State.writeBlocks_only _ _ _ _).eq_queues (by decide)) q)
  rw [State.queue_congr (State.commitEnq_queues s r), hset, (State.openFor_placing s r).2 q h]

/-- Every commit counts in QM_ENQ (R279). -/
theorem State.commitEnq_count (s : State) (r : Req) : (s.commitEnq r).f qmEnqCount = min (s.f qmEnqCount + 1) (2 ^ 64 - 1) := by
  have hopen : (s.openFor r).f qmEnqCount = s.f qmEnqCount := State.openFor_regs s r _ (by decide)
  have hwrite : ∀ q x l, ((s.openFor r).writeBlocks q x l).f qmEnqCount = (s.openFor r).f qmEnqCount := fun q x l =>
    State.writeBlocks_regs _ q x l _ (fun m => absurd (controllerRegs_page m) (by decide))
  have hadd : (s.addPacket r).f qmEnqCount = min (s.f qmEnqCount + 1) (2 ^ 64 - 1) := by
    refine (State.f_setF_same _ _ _).trans ?_
    rw [State.setQueue_f, hwrite, hopen]
  rw [State.commitEnq_eq]
  split
  · rw [State.answer_f_apart _ _ _ _ _ _ (by decide), hadd]
  · exact hadd

/-- A commit sends the reply of R255 if it is asked for, and none otherwise. -/
theorem State.commitEnq_reply (s : State) (r : Req) :
    (bitOf r.b2 0 = true → Replies r stOk 0 (leBytes 4 (s.queue r.object).nextSeq ++ leBytes 4 0 ++
      leBytes 8 ((s.commitEnq r).queue r.object).bytes) s (s.commitEnq r)) ∧
    (bitOf r.b2 0 = false → ((s.commitEnq r).port r.port).egress = (s.port r.port).egress) := by
  have hport : (s.addPacket r).port r.port = s.port r.port := State.port_congr ((State.addPacket_only s r).eq_ports (by decide)) _
  rw [State.queue_congr (State.commitEnq_queues s r), State.commitEnq_eq]
  constructor
  · intro hreply
    rw [if_pos hreply]
    exact State.answer_replies _ _ _ _ (by rw [hport])
  · intro hreply
    rw [if_neg (by simp [hreply]), State.dropRoom, State.setPort_port, hport]

/-- The packets assembled and not committed stay. -/
theorem State.commitEnq_assembly (s : State) (r : Req) : ((s.commitEnq r).port r.port).assembly = (s.port r.port).assembly := by
  have hport : (s.addPacket r).port r.port = s.port r.port := State.port_congr ((State.addPacket_only s r).eq_ports (by decide)) _
  rw [State.commitEnq_eq]
  split
  · rw [State.answer, State.addF_port, State.setPort_port, hport]
  · rw [State.dropRoom, State.setPort_port, hport]

/-! ### The meaning of an ENQ, one equation for each course -/

variable {s : State} {r : Req} (hadm : Admitted r (enqReply r) s) (hheld : s.queueHeld r = false)
include hadm hheld

theorem execEnq_refused {st : Nat} (href : s.enqRefusal r = some st) : execEnq r s = .next ((s.takeReq r).refuseEnq r st) := by
  have hwaits : s.enqWaits r = false := by simp [State.enqWaits, href]
  unfold execEnq
  rw [if_neg (by simp [hwaits]), hadm.runs _ (by simp [hheld, href]), State.takeReq_enqRefusal, href]

theorem execEnq_accepted (href : s.enqRefusal r = none) (hroom : s.writeRoom r = true) :
    execEnq r s = .next ((s.takeReq r).commitEnq r) := by
  have hwaits : s.enqWaits r = false := by simp [State.enqWaits, hroom]
  unfold execEnq
  rw [if_neg (by simp [hwaits]), hadm.runs _ (by simp [hheld, hroom]), State.takeReq_enqRefusal, href]

/-- An ENQ without room in the MC write path joins those admitted of its port (R249, R381). -/
theorem execEnq_waits (href : s.enqRefusal r = none) (hroom : s.writeRoom r = false) (hfew : (s.port r.port).assembly.length < 2) :
    execEnq r s = .next ((s.setPort r.port { s.port r.port with assembly := (s.port r.port).assembly ++ [r] }).keepRoom r (enqReply r)) := by
  obtain ⟨hmay, hearly, hegress⟩ := hadm
  have hwaits : s.enqWaits r = true := by simp [State.enqWaits, hmay, hearly, hegress, hheld, href, hroom, hfew]
  unfold execEnq
  rw [if_pos hwaits]

omit hadm hheld in
theorem execEnqCommit_commits {p : Nat} {rest : List Req} (hassembly : (s.port p).assembly = r :: rest) (hhalt : s.halted = false)
    (hroom : s.writeRoom r = true) :
    execEnqCommit p s = .next (((s.setPort p { s.port p with assembly := rest }).takeReq r).commitEnq r) := by
  unfold execEnqCommit
  simp only [hassembly]
  rw [if_neg (by simp [hhalt, hroom])]

end Sys2Proof.Machine

open Sys2Proof Sys2Proof.Machine

/-- Settles O21: a commit and each refusal by what it leaves, since taking the request out of the ingress buffer touches no queue. -/
theorem enqAddsOnePacket : Obligations.EnqAddsOnePacket := by
  unfold Obligations.EnqAddsOnePacket
  refine ⟨?accepted, ?full, ?exhausted, ?state, ?waits, ?commit⟩
  case accepted =>
    intro s r hadm hheld href hroom
    obtain ⟨hpackets, hseq, htail⟩ := State.commitEnq_queue (s.takeReq r) r
    obtain ⟨hreply, hnone⟩ := State.commitEnq_reply (s.takeReq r) r
    have honly := execEnq_only (execEnq_accepted hadm hheld href hroom)
    rw [State.takeReq_queue] at hpackets hseq htail hreply
    refine ⟨_, execEnq_accepted hadm hheld href hroom, hpackets, hseq, htail, fun q hq => ?_, honly.eq_tables (by decide),
      honly.eq_mem (by decide), ?_, fun h => ?_, fun h => ?_⟩
    · rw [State.commitEnq_queue_other _ _ hq, State.takeReq_queue]
    · rw [State.commitEnq_count, State.takeReq_f_apart _ _ (by decide)]
    · exact (hreply h).of_egress (State.takeReq_egress s r r.port)
    · rw [hnone h, State.takeReq_egress]
  case full =>
    intro s r hadm hheld href
    have hx := execEnq_refused hadm hheld href
    rw [State.refuseEnq_full] at hx
    exact ⟨_, hx, State.dropEnq_facts s r stQueueFull (by decide)⟩
  case exhausted =>
    intro s r hadm hheld href
    have hx := execEnq_refused hadm hheld href
    rw [State.refuseEnq_exhausted] at hx
    exact ⟨_, hx, State.dropEnq_facts s r stPoolExhausted (by decide)⟩
  case state =>
    intro s r st hadm hheld href hst
    have hx := execEnq_refused hadm hheld href
    rw [State.refuseEnq_state _ _ hst] at hx
    exact ⟨_, hx, State.refuseState_facts s r st⟩
  case waits =>
    intro s r hadm hheld href hroom hfew
    refine ⟨_, execEnq_waits hadm hheld href hroom hfew, ?_, ?_, by simp⟩ <;> simp [State.keepRoom]
  case commit =>
    intro s p r rest hassembly hport hhalt hroom
    subst hport
    obtain ⟨hpackets, -, -⟩ := State.commitEnq_queue ((s.setPort r.port { s.port r.port with assembly := rest }).takeReq r) r
    rw [State.takeReq_queue] at hpackets
    refine ⟨_, execEnqCommit_commits hassembly hhalt hroom, ?_, hpackets, fun q hq => ?_⟩
    · rw [State.commitEnq_assembly, State.takeReq_assembly, State.setPort_port]
    · rw [State.commitEnq_queue_other _ _ hq, State.takeReq_queue]
      rfl
end

section
/-!
Removals (R256 to R265, R272 to R274): the reads of a packet do not see that the request has left the ingress buffer, and a walk over packets
that can be read takes the oldest ones until the number or the budget asked ends it.
-/
namespace Sys2Proof.Machine

/-! ### What is read of a packet -/

section
variable (s : State) (r : Req) (x : Queue)

@[simp] theorem State.takeReq_badHeaders (q lo hi : Nat) : (s.takeReq r).badHeaders q x lo hi = s.badHeaders q x lo hi := by
  obtain ⟨a, b, h⟩ := s.takeReq_eq r
  rw [h]
  rfl

@[simp] theorem State.takeReq_badPacket (k : Packet) : (s.takeReq r).badPacket x k = s.badPacket x k := by
  obtain ⟨a, b, h⟩ := s.takeReq_eq r
  rw [h]
  rfl

@[simp] theorem State.takeReq_poisonedPacket (k : Packet) (n : Nat) : (s.takeReq r).poisonedPacket x k n = s.poisonedPacket x k n := by
  obtain ⟨a, b, h⟩ := s.takeReq_eq r
  rw [h]
  rfl

@[simp] theorem State.takeReq_deliver (k : Packet) (n : Nat) : (s.takeReq r).deliver x k n = s.deliver x k n := by
  obtain ⟨a, b, h⟩ := s.takeReq_eq r
  rw [h]
  rfl
end

theorem readable_takeReq {s : State} {q : Nat} {k : Packet} (h : Readable s q k) (r : Req) : Readable (s.takeReq r) q k := by
  unfold Readable at h ⊢
  simpa using h

/-- Headers of fewer blocks are read without fault too. -/
theorem State.badHeaders_mono {s : State} {q : Nat} {x : Queue} {lo hi hi' : Nat} (h : s.badHeaders q x lo hi = false) (hle : hi' ≤ hi) :
    s.badHeaders q x lo hi' = false := by
  unfold State.badHeaders at h ⊢
  simp only [List.any_eq_false, List.mem_range] at h ⊢
  exact fun i hi => h i (by omega)

/-- And so are fewer bytes of the data. -/
theorem State.poisonedPacket_mono {s : State} {x : Queue} {k : Packet} {n m : Nat} (h : s.poisonedPacket x k n = false) (hle : m ≤ n) :
    s.poisonedPacket x k m = false := by
  unfold State.poisonedPacket State.badRange at h ⊢
  rcases Nat.eq_zero_or_pos m with rfl | hm
  · rfl
  · have hn : (n != 0) = true := by simp; omega
    simp only [hn, Bool.true_and, List.any_eq_false, List.mem_range, Bool.and_eq_false_imp] at h ⊢
    exact fun _ i hi => h i (by omega)

/-- A shorter delivery is the first part of a longer one. -/
theorem State.deliver_take (s : State) (x : Queue) (k : Packet) (n : Nat) : s.deliver x k n = (s.deliver x k k.data.length).take n := by
  unfold State.deliver
  rw [← List.map_take, List.take_range, Nat.min_self]

/-! ### Walks (R256, R257, R272) -/

/-- The budget ends a walk at a packet (R257). -/
def exceeds (budget : Option Nat) (used : Nat) (k : Packet) : Bool :=
  match budget with
  | some m => used != 0 && decide (m < used + (16 + k.data.length))
  | none => false

/-- Bytes of packets that count against the budget. -/
def sizes (l : List Packet) : Nat := (l.map (fun k => 16 + k.data.length)).sum

section
variable {s : State} {q : Nat} {budget : Option Nat}

theorem State.walk_zero (used : Nat) (got l : List Packet) : s.walk q (s.queue q) budget 0 used got l = ⟨got.reverse, [], false, false, l⟩ := by
  cases l with
  | nil => rfl
  | cons k rest => rfl

/-- A packet that can be read is taken, unless the budget ends the walk. -/
theorem State.walk_readable {n used : Nat} {got rest : List Packet} {k : Packet} (h : Readable s q k) :
    s.walk q (s.queue q) budget (n + 1) used got (k :: rest) =
      if exceeds budget used k then ⟨got.reverse, [], false, true, k :: rest⟩
      else s.walk q (s.queue q) budget n (used + (16 + k.data.length)) (k :: got) rest := by
  obtain ⟨hheaders, hpacket, -, -⟩ := h
  have hfirst : s.badHeaders q (s.queue q) (k.pos / blockData) ((k.pos + 15) / blockData) = false :=
    State.badHeaders_mono hheaders (Nat.div_le_div_right (by omega))
  have hlast : s.badHeaders q (s.queue q) (k.pos / blockData) ((k.pos + (16 + k.data.length) - 1) / blockData) = false :=
    State.badHeaders_mono hheaders (Nat.div_le_div_right (by omega))
  simp only [State.walk, Nat.succ_ne_zero, if_false, hfirst, hpacket, hlast, Bool.false_eq_true, Nat.add_sub_cancel]
  rfl

/-- A walk takes the first `m` packets, no more than asked and than there are; it stops short of that only where the budget ends it, and what it
takes stays within the budget or is one packet. -/
theorem State.walk_takes (n used : Nat) (got l : List Packet) (h : ∀ k ∈ l.take n, Readable s q k) :
    ∃ m e, s.walk q (s.queue q) budget n used got l = ⟨got.reverse ++ l.take m, [], false, e, l.drop m⟩ ∧ m ≤ n ∧ m ≤ l.length ∧
      (e = false → m = min n l.length) ∧ (used = 0 → m = 0 → n = 0 ∨ l = []) ∧ (e = true → m < n ∧ budget ≠ none) ∧
      ∀ b, budget = some b → m = 0 ∨ (used = 0 ∧ m = 1) ∨ used + sizes (l.take m) ≤ b := by
  induction l generalizing n used got with
  | nil => exact ⟨0, false, by cases n <;> simp [State.walk]⟩
  | cons k rest ih =>
    cases n with
    | zero => exact ⟨0, false, by simp [State.walk_zero]⟩
    | succ n =>
      have htake : (k :: rest).take (n + 1) = k :: rest.take n := rfl
      rw [State.walk_readable (h k (by simp [htake]))]
      by_cases hx : exceeds budget used k = true
      · rw [if_pos hx]
        have hused : used ≠ 0 := by
          rintro rfl
          cases budget <;> simp [exceeds] at hx
        refine ⟨0, true, by simp, by omega, by omega, by simp, fun h0 => absurd h0 hused, fun _ => ⟨by omega, ?_⟩, fun _ _ => .inl rfl⟩
        rintro rfl
        simp [exceeds] at hx
      · rw [if_neg hx]
        obtain ⟨m, e, hwalk, hn, hlen, hall, -, hstop, hbudget⟩ := ih n (used + (16 + k.data.length)) (k :: got)
          (fun j hj => h j (htake ▸ .tail _ hj))
        refine ⟨m + 1, e, by rw [hwalk]; simp, by omega, by simpa using hlen, fun he => ?_, by omega, fun he => ?_, fun b hb => .inr ?_⟩
        · rw [hall he, List.length_cons]
          omega
        · exact ⟨by have := (hstop he).1; omega, (hstop he).2⟩
        · subst hb
          have hfits : used = 0 ∨ used + (16 + k.data.length) ≤ b := by
            simp only [exceeds, Bool.and_eq_true, bne_iff_ne, decide_eq_true_eq, not_and, not_lt] at hx
            exact or_iff_not_imp_left.mpr hx
          have hsum : sizes ((k :: rest).take (m + 1)) = 16 + k.data.length + sizes (rest.take m) := by simp [sizes]
          rw [hsum]
          rcases hbudget b rfl with rfl | ⟨h0, -⟩ | hle
          · have hnone : sizes (rest.take 0) = 0 := rfl
            omega
          · omega
          · omega
end

end Sys2Proof.Machine
end

section
/-!
DEQ, PEEK, DROP_HEAD and QSTAT (R256 to R265): what each leaves of the queues and answers where the packets that it meets can be read.
-/
namespace Sys2Proof.Machine

/-! ### What a served operation meets first -/

section
variable {s : State} {r : Req}

theorem serveQueue_served (h : Served r s) (body : Queue → State) : serveQueue r (s.takeReq r) body = body (s.queue r.object) := by
  obtain ⟨-, hobject, hlength, hconfigured, -, -⟩ := h
  unfold serveQueue
  rw [State.takeReq_queue, if_neg (by omega), if_neg (by simp [hlength]), if_neg (by simp [hconfigured])]

theorem serveQueue_unconfigured (hobject : r.object ≤ 131071) (hlength : r.length = 0) (hnone : (s.queue r.object).configured = false)
    (body : Queue → State) : serveQueue r (s.takeReq r) body = (s.takeReq r).refuseState r stNoSuchObject := by
  unfold serveQueue
  rw [State.takeReq_queue, if_neg (by omega), if_neg (by simp [hlength]), if_pos (by simp [hnone])]

/-- A number of 0 asks for one packet (R257, R261). -/
theorem asked_eq (n : Nat) : (if n = 0 then 1 else n) = max 1 n := by
  split <;> omega

end

/-! ### Removed packets leave their queue alone (R247, R262) -/

theorem State.applyWalk_queues (s : State) (r : Req) (x : Queue) {w : Walk} (h : w.broke = false) :
    (s.applyWalk r x w).queues = (s.setQueue r.object (x.after w r.tick)).queues := by
  have hfetch : ∀ u : State, (u.prefetchQueue r.object (r.b1 % 16) (r.b1 / 16 % 4)).queues = u.queues :=
    fun u => (State.prefetchQueue_only u _ _ _).eq_queues (by decide)
  have hrelease : ∀ (u : State) l, (u.releasePlaces l).queues = u.queues := fun u l => (State.releasePlaces_only u l).eq_queues (by decide)
  unfold State.applyWalk
  dsimp only
  rw [hfetch, h, if_neg (by simp)]
  split <;> simp [hrelease]

/-- The packets left are those of the walk, and every other queue is as it was. -/
theorem State.applyWalk_queue (s : State) (r : Req) (x : Queue) {w : Walk} (h : w.broke = false) :
    ((s.applyWalk r x w).queue r.object).packets = w.left ∧ ∀ q, q ≠ r.object → (s.applyWalk r x w).queue q = s.queue q := by
  have hqueue := State.queue_congr (State.applyWalk_queues s r x h)
  refine ⟨?_, fun q hq => ?_⟩
  · rw [hqueue, State.setQueue_queue]
    rfl
  · rw [hqueue, State.setQueue_queue_other _ _ hq]

/-! ### What is delivered (R256) -/

theorem State.payload_readable {s : State} {q : Nat} (t : Tick) {l : List Packet} (h : ∀ k ∈ l, Readable s q k) :
    s.payload (s.queue q) t l = delivered (s.queue q).headSeq t l := by
  unfold State.payload delivered
  refine List.flatMap_congr (fun y hy => ?_)
  obtain ⟨-, -, hgood, hdata⟩ := h y.1 (List.fst_mem_of_mem_zipIdx hy)
  rw [hgood, hdata]

theorem Queue.headSeq_mod (x : Queue) : x.headSeq % 2 ^ 32 = x.headSeq := by
  unfold Queue.headSeq
  omega

theorem delivered_singleton {seq : Nat} (h : seq % 2 ^ 32 = seq) (t : Tick) (k : Packet) :
    delivered seq t [k] = descriptor k false seq t ++ k.data := by
  unfold delivered
  rw [List.zipIdx_singleton, List.flatMap_cons, List.flatMap_nil, List.append_nil, Nat.add_zero, h]

/-! ### DEQ (R256 to R259) -/

/-- The removal and the reply of a DEQ whose walk is `w`. -/
def State.deliverWalk (s : State) (r : Req) (w : Walk) : State :=
  let x := s.queue r.object
  let bad := w.got.filter (fun k => s.poisonedPacket x k k.data.length)
  (((s.readPackets r x w.got).applyWalk r x w).addF qmPoisonPackets bad.length (2 ^ 32 - 1)).answer r
    (deqStatus w (!bad.isEmpty) x.packets.isEmpty) w.got.length (s.payload x r.tick w.got) w.got.length

/-- The walk of a DEQ. -/
def State.deqWalk (s : State) (r : Req) : Walk :=
  s.walk r.object (s.queue r.object) (some (deqBudget (r.b2 / 2 % 8))) (max 1 r.arg) 0 [] (s.queue r.object).packets

section
variable {s : State} {r : Req}

theorem execDeq_served (hadm : Admitted r 16416 s) (hserved : Served r s) :
    execDeq r s = .next ((s.takeReq r).deliverWalk r ((s.takeReq r).deqWalk r)) := by
  have ⟨hheld, _, hlength, _, hbroken, hcontext⟩ := hserved
  unfold execDeq
  rw [if_neg (by simp [hlength]), hadm.runs _ hheld, serveQueue_served hserved, if_neg (by simp [hbroken]), if_neg (by simp [hcontext]), asked_eq]
  simp only [State.deqWalk, State.deliverWalk, State.takeReq_queue]

/-- A walk that loses no packet and breaks no queue: the packets that it takes are delivered whole and in order. -/
theorem State.deliverWalk_facts (s : State) (r : Req) {l rest : List Packet} {e : Bool} (hread : ∀ k ∈ l, Readable s r.object k) :
    (((s.takeReq r).deliverWalk r ⟨l, [], false, e, rest⟩).queue r.object).packets = rest ∧
      (∀ q, q ≠ r.object → ((s.takeReq r).deliverWalk r ⟨l, [], false, e, rest⟩).queue q = s.queue q) ∧
      Replies r (if (s.queue r.object).packets.isEmpty then stEmpty else if e then stDonePartial else stOk) l.length
        (delivered (s.queue r.object).headSeq r.tick l) s ((s.takeReq r).deliverWalk r ⟨l, [], false, e, rest⟩) := by
  have hread' : ∀ k ∈ l, Readable (s.takeReq r) r.object k := fun k hk => readable_takeReq (hread k hk) r
  have hgood : l.filter (fun k => (s.takeReq r).poisonedPacket (s.queue r.object) k k.data.length) = [] := by
    refine List.filter_eq_nil_iff.mpr (fun k hk => ?_)
    obtain ⟨-, -, hclean, -⟩ := hread k hk
    simp [hclean]
  have hpayload := State.payload_readable r.tick hread'
  rw [State.takeReq_queue] at hpayload
  have hreads := State.readPackets_only (s.takeReq r) r (s.queue r.object) l
  obtain ⟨hleft, hother⟩ := State.applyWalk_queue ((s.takeReq r).readPackets r (s.queue r.object) l) r (s.queue r.object)
    (w := ⟨l, [], false, e, rest⟩) rfl
  have hports : (((s.takeReq r).readPackets r (s.queue r.object) l).applyWalk r (s.queue r.object) ⟨l, [], false, e, rest⟩).ports =
      (s.takeReq r).ports := ((State.applyWalk_only _ _ _ _).eq_ports (by decide)).trans (hreads.eq_ports (by decide))
  have hqueues : ((s.takeReq r).deliverWalk r ⟨l, [], false, e, rest⟩).queues =
      (((s.takeReq r).readPackets r (s.queue r.object) l).applyWalk r (s.queue r.object) ⟨l, [], false, e, rest⟩).queues := by
    simp [State.deliverWalk]
  refine ⟨?_, fun q hq => ?_, ?_⟩
  · rw [State.queue_congr hqueues, hleft]
  · rw [State.queue_congr hqueues, hother q hq, State.queue_congr (hreads.eq_queues (by decide)), State.takeReq_queue]
  · unfold State.deliverWalk
    simp only [State.takeReq_queue, hgood, hpayload, List.isEmpty_nil, Bool.not_true, deqStatus, Bool.false_or, Bool.false_eq_true, if_false]
    refine State.answer_replies _ _ _ _ ?_
    rw [State.addF_port, State.port_congr hports, State.takeReq_egress]

/-- A DEQ on packets that can be read delivers the oldest ones: one at least, and no more than the number and the budget asked, which alone
makes its status DONE_PARTIAL. -/
theorem execDeq_delivers (hadm : Admitted r 16416 s) (hserved : Served r s) (hne : (s.queue r.object).packets ≠ [])
    (hread : ∀ k ∈ (s.queue r.object).packets.take (max 1 r.arg), Readable s r.object k) :
    ∃ m e, 1 ≤ m ∧ m ≤ max 1 r.arg ∧ m ≤ (s.queue r.object).packets.length ∧ (e = true → m < max 1 r.arg) ∧
      (m = 1 ∨ sizes ((s.queue r.object).packets.take m) ≤ deqBudget (r.b2 / 2 % 8)) ∧
      Does (.deq r) s (fun t => (t.queue r.object).packets = (s.queue r.object).packets.drop m ∧
        (∀ q, q ≠ r.object → t.queue q = s.queue q) ∧
        Replies r (if e then stDonePartial else stOk) m
          (delivered (s.queue r.object).headSeq r.tick ((s.queue r.object).packets.take m)) s t) := by
  obtain ⟨m, e, hwalk, hn, hlen, -, hnone, hstop, hbudget⟩ := State.walk_takes (s := s.takeReq r) (q := r.object)
    (budget := some (deqBudget (r.b2 / 2 % 8))) (max 1 r.arg) 0 [] (s.queue r.object).packets (fun k hk => readable_takeReq (hread k hk) r)
  have hone : 1 ≤ m := by
    rcases Nat.eq_zero_or_pos m with h0 | hpos
    · rcases hnone rfl h0 with hmax | hnil
      · omega
      · exact absurd hnil hne
    · exact hpos
  have hread' : ∀ k ∈ (s.queue r.object).packets.take m, Readable s r.object k :=
    fun k hk => hread k (List.take_subset_take_left _ hn hk)
  have hcount : ((s.queue r.object).packets.take m).length = m := by simp [hlen]
  have hx := execDeq_served hadm hserved
  obtain ⟨hleft, hother, hreply⟩ := State.deliverWalk_facts (e := e) s r (rest := (s.queue r.object).packets.drop m) hread'
  rw [State.takeReq_queue] at hwalk
  rw [State.deqWalk, State.takeReq_queue, hwalk, List.reverse_nil, List.nil_append] at hx
  rw [if_neg (by simpa using hne), hcount] at hreply
  refine ⟨m, e, hone, hn, hlen, fun he => (hstop he).1, ?_, _, hx, hleft, hother, hreply⟩
  rcases hbudget _ rfl with h0 | ⟨-, h1⟩ | hle
  · omega
  · exact .inl h1
  · exact .inr (by omega)

theorem execDeq_empty (hadm : Admitted r 16416 s) (hserved : Served r s) (hnil : (s.queue r.object).packets = []) :
    Does (.deq r) s (fun t => (t.queue r.object).packets = [] ∧ Replies r stEmpty 0 [] s t) := by
  have hx := execDeq_served hadm hserved
  obtain ⟨hleft, -, hreply⟩ := State.deliverWalk_facts (e := false) s r (l := []) (rest := []) (by simp)
  have hwalk : (s.takeReq r).deqWalk r = ⟨[], [], false, false, []⟩ := by
    unfold State.deqWalk
    rw [State.takeReq_queue, hnil]
    rfl
  rw [hwalk] at hx
  rw [hnil] at hreply
  exact ⟨_, hx, hleft, hreply⟩

/-! ### PEEK (R260) -/

/-- The longest reply of a PEEK (R260). -/
def peekReply (r : Req) : Nat := if r.arg = 0 then 16416 else min 16416 (32 + 64 * r.arg)

/-- Bytes of the head packet that a PEEK returns. -/
def peeked (r : Req) (k : Packet) : Nat := if r.arg = 0 then k.data.length else min k.data.length (64 * r.arg)

theorem take_peeked (r : Req) (k : Packet) : k.data.take (peeked r k) = if r.arg = 0 then k.data else k.data.take (64 * r.arg) := by
  unfold peeked
  split
  · exact List.take_length
  · rw [Nat.min_comm, ← List.take_take, List.take_length]

theorem execPeek_readable {k : Packet} {rest : List Packet} (hadm : Admitted r (peekReply r) s) (hserved : Served r s)
    (hhead : (s.queue r.object).packets = k :: rest) (hread : Readable s r.object k) :
    execPeek r s = .next (((s.takeReq r).readStream r (s.queue r.object) k.pos (k.pos + 15 + peeked r k)).answer r stOk 0
      (descriptor k false (s.queue r.object).headSeq r.tick ++ k.data.take (peeked r k))) := by
  have ⟨hheld, _, hlength, _, hbroken, hcontext⟩ := hserved
  obtain ⟨hheaders, hpacket, hclean, hdata⟩ := hread
  have hpart : peeked r k ≤ k.data.length := by
    unfold peeked
    split <;> omega
  have hfirst := State.badHeaders_mono hheaders (hi' := (k.pos + 15) / blockData) (Nat.div_le_div_right (by omega))
  have hlast := State.badHeaders_mono hheaders (hi' := (k.pos + 15 + peeked r k) / blockData) (Nat.div_le_div_right (by omega))
  unfold execPeek
  rw [if_neg (by simp [hlength]), ← peekReply, hadm.runs _ hheld, serveQueue_served hserved, if_neg (by simp [hbroken]), if_neg (by simp [hcontext]), hhead]
  dsimp only
  rw [if_neg (by simp [hfirst]), if_neg (by simp [hpacket]), ← peeked, if_neg (by simp [hlast])]
  rw [State.takeReq_poisonedPacket, State.poisonedPacket_mono hclean hpart, State.takeReq_deliver, State.deliver_take, hdata]
  rfl

theorem execPeek_empty (hadm : Admitted r (peekReply r) s) (hserved : Served r s) (hnil : (s.queue r.object).packets = []) :
    execPeek r s = .next ((s.takeReq r).answer r stEmpty 0 []) := by
  have ⟨hheld, _, hlength, _, hbroken, hcontext⟩ := hserved
  unfold execPeek
  rw [if_neg (by simp [hlength]), ← peekReply, hadm.runs _ hheld, serveQueue_served hserved, if_neg (by simp [hbroken]), if_neg (by simp [hcontext]), hnil]

/-! ### DROP_HEAD (R261) -/

/-- The removal and the reply of a DROP_HEAD that removes the packets `l`. -/
def State.dropPackets (s : State) (r : Req) (l rest : List Packet) (st : Nat) : State :=
  ((l.foldl (fun u k => u.readStream r (s.queue r.object) k.pos (k.pos + 15)) s).applyWalk r (s.queue r.object)
    ⟨l, [], false, false, rest⟩).answerDrop r st ((l.map (fun k => k.data.length)).sum) l.length (s.queue r.object).headSeq

theorem State.answerDrop_quiet (s : State) (r : Req) {st : Nat} (bytes n seq : Nat) (hst : st < 0x10) (h : bitOf r.b2 0 = false) :
    s.answerDrop r st bytes n seq = s := by
  unfold State.answerDrop
  rw [if_neg (by simp [h]; omega)]

theorem State.answerDrop_asked (s : State) (r : Req) (st bytes n seq : Nat) (h : bitOf r.b2 0 = true) :
    s.answerDrop r st bytes n seq = s.answer r st 0 (leBytes 8 bytes ++ leBytes 4 n ++ leBytes 4 seq) := by
  unfold State.answerDrop
  rw [if_pos (by simp [h])]

/-- The status of a DROP_HEAD that has met no damage (R261). -/
def dropStatus (r : Req) (l : List Packet) : Nat := if l.length < max 1 r.arg then stDonePartial else stOk

theorem execDropHead_readable (hadm : Admitted r 32 s) (hserved : Served r s) (hne : (s.queue r.object).packets ≠ [])
    (hread : ∀ k ∈ (s.queue r.object).packets, Readable s r.object k) :
    execDropHead r s = .next ((s.takeReq r).dropPackets r ((s.queue r.object).packets.take (max 1 r.arg))
      ((s.queue r.object).packets.drop (max 1 r.arg)) (dropStatus r (s.queue r.object).packets)) := by
  have ⟨hheld, _, hlength, _, hbroken, hcontext⟩ := hserved
  have hwalk : (s.takeReq r).walk r.object (s.queue r.object) none (max 1 r.arg) 0 [] (s.queue r.object).packets =
      ⟨(s.queue r.object).packets.take (max 1 r.arg), [], false, false, (s.queue r.object).packets.drop (max 1 r.arg)⟩ := by
    obtain ⟨m, e, hwalk, -, -, hall, -, hstop, -⟩ := State.walk_takes (s := s.takeReq r) (q := r.object) (budget := none)
      (max 1 r.arg) 0 [] (s.queue r.object).packets (fun k hk => readable_takeReq (hread k (List.mem_of_mem_take hk)) r)
    have he : e = false := by
      cases e with
      | false => rfl
      | true => exact absurd rfl (hstop rfl).2
    rw [State.takeReq_queue, he, hall he, List.reverse_nil, List.nil_append] at hwalk
    rw [hwalk, ← List.take_eq_take_min, ← List.drop_eq_drop_min]
  have hshort : ((s.queue r.object).packets.take (max 1 r.arg)).length < max 1 r.arg ↔ (s.queue r.object).packets.length < max 1 r.arg := by
    rw [List.length_take]
    omega
  unfold execDropHead
  rw [if_neg (by simp [hlength]), hadm.runs _ hheld, serveQueue_served hserved, if_neg (by simp [hbroken]), if_neg (by simp [hcontext]), asked_eq]
  dsimp only
  rw [hwalk]
  simp only [List.append_nil, hshort, List.isEmpty_nil, Bool.not_true, Bool.or_self, Bool.false_eq_true, if_false, List.isEmpty_iff, hne,
    State.dropPackets, State.takeReq_queue, dropStatus]

theorem State.dropPackets_facts (s : State) (r : Req) (l rest : List Packet) {st : Nat} (hst : st < 0x10) :
    (((s.takeReq r).dropPackets r l rest st).queue r.object).packets = rest ∧
      (∀ q, q ≠ r.object → ((s.takeReq r).dropPackets r l rest st).queue q = s.queue q) ∧
      (bitOf r.b2 0 = true → Replies r st 0 (leBytes 8 (l.map (fun k => k.data.length)).sum ++ leBytes 4 l.length ++
        leBytes 4 (s.queue r.object).headSeq) s ((s.takeReq r).dropPackets r l rest st)) ∧
      (bitOf r.b2 0 = false → (((s.takeReq r).dropPackets r l rest st).port r.port).egress = (s.port r.port).egress) := by
  have hreads : Only [.out, .regs, .pcs, .regulator] (s.takeReq r)
      (l.foldl (fun u k => u.readStream r ((s.takeReq r).queue r.object) k.pos (k.pos + 15)) (s.takeReq r)) := by simp
  obtain ⟨hleft, hother⟩ := State.applyWalk_queue
    (l.foldl (fun u k => u.readStream r ((s.takeReq r).queue r.object) k.pos (k.pos + 15)) (s.takeReq r)) r ((s.takeReq r).queue r.object)
    (w := ⟨l, [], false, false, rest⟩) rfl
  have hports := ((State.applyWalk_only _ r ((s.takeReq r).queue r.object) ⟨l, [], false, false, rest⟩).eq_ports (by decide)).trans
    (hreads.eq_ports (by decide))
  have hqueues := (State.answerDrop_only ((l.foldl (fun u k => u.readStream r ((s.takeReq r).queue r.object) k.pos (k.pos + 15))
    (s.takeReq r)).applyWalk r ((s.takeReq r).queue r.object) ⟨l, [], false, false, rest⟩) r st ((l.map (fun k => k.data.length)).sum)
    l.length ((s.takeReq r).queue r.object).headSeq).eq_queues (by decide)
  refine ⟨?_, fun q hq => ?_, fun hreply => ?_, fun hquiet => ?_⟩
  · rw [State.dropPackets, State.queue_congr hqueues, hleft]
  · rw [State.dropPackets, State.queue_congr hqueues, hother q hq, State.queue_congr (hreads.eq_queues (by decide)), State.takeReq_queue]
  · rw [State.dropPackets, State.answerDrop_asked _ _ _ _ _ _ hreply]
    have hr := State.answer_replies (s := s) (r := r) st 0 (leBytes 8 (l.map (fun k => k.data.length)).sum ++ leBytes 4 l.length ++
      leBytes 4 (s.queue r.object).headSeq) 0 ((congrArg Port.egress (State.port_congr hports r.port)).trans (State.takeReq_egress s r r.port))
    rwa [State.takeReq_queue] at hr ⊢
  · rw [State.dropPackets, State.answerDrop_quiet _ _ _ _ _ hst hquiet, State.port_congr hports, State.takeReq_egress]

/-! ### QSTAT (R265) -/

theorem State.takeReq_contextLost (s : State) (r : Req) (q : Nat) : (s.takeReq r).contextLost q = s.contextLost q := by
  unfold State.contextLost
  rw [State.takeReq_queue]

/-- The live values of a queue whose head can be read. -/
theorem execQstat_live {k : Packet} {rest : List Packet} (hadm : Admitted r 48 s) (hserved : Served r s)
    (hhead : (s.queue r.object).packets = k :: rest) (hread : Readable s r.object k) (hlive : bitOf r.b2 1 = false) :
    execQstat r s = .next ((s.takeReq r).answer r stOk 0
      ((s.queue r.object).stat (s.queue r.object).bytes (s.queue r.object).count (sojourn r.tick k.tick) 0)) := by
  have ⟨hheld, _, hlength, _, _, hcontext⟩ := hserved
  obtain ⟨hheaders, hpacket, -, -⟩ := hread
  have hfirst := State.badHeaders_mono hheaders (hi' := (k.pos + 15) / blockData) (Nat.div_le_div_right (by omega))
  have hsojourn : (s.takeReq r).headSojourn r.object (s.queue r.object) r.tick = (sojourn r.tick k.tick, s.takeReq r) := by
    unfold State.headSojourn
    rw [hhead]
    dsimp only
    rw [if_neg (by simp [hcontext, hpacket, hfirst])]
  unfold execQstat
  rw [if_neg (by simp [hlength]), hadm.runs _ hheld, serveQueue_served hserved, State.takeReq_contextLost,
    if_neg (by simp [State.contextLost, hcontext]), if_neg (by simp [hlive]), hsojourn]

theorem execQstat_no_snapshot (hadm : Admitted r 48 s) (hserved : Served r s) (hsnap : bitOf r.b2 1 = true) (hnone : s.snapshots = []) :
    execQstat r s = .next ((s.takeReq r).answer r stEmpty 0 []) := by
  have ⟨hheld, _, hlength, _, _, hcontext⟩ := hserved
  unfold execQstat
  rw [if_neg (by simp [hlength]), hadm.runs _ hheld, serveQueue_served hserved, State.takeReq_contextLost,
    if_neg (by simp [State.contextLost, hcontext]), if_pos hsnap, (State.takeReq_only s r).eq_snapshots (by decide), hnone]

/-! ### A queue that nothing has configured -/

theorem execRemoval_unconfigured (hadm : Admitted r 16416 s) (hheld : s.queueHeld r = false) (hobject : r.object ≤ 131071)
    (hlength : r.length = 0) (hnone : (s.queue r.object).configured = false) {c : Instr}
    (hc : c ∈ [Instr.deq r, Instr.peek r, Instr.dropHead r, Instr.qstat r]) :
    exec c s = .next ((s.takeReq r).refuseState r stNoSuchObject) := by
  have hrun : ∀ n (body : State → Queue → State), n ≤ 16416 → runRequest r n (fun t => t.queueHeld r) (fun t => serveQueue r t (body t)) s =
      .next ((s.takeReq r).refuseState r stNoSuchObject) := fun n body hn => by
    rw [(hadm.mono hn).runs _ hheld, serveQueue_unconfigured hobject hlength hnone]
  simp only [List.mem_cons, List.not_mem_nil, or_false] at hc
  have hsixteen : ∀ n : Nat, (if r.length ≠ 0 then 16 else n) = n := fun n => if_neg (by simp [hlength])
  rcases hc with rfl | rfl | rfl | rfl
  · rw [exec, execDeq, hsixteen]
    exact hrun _ _ (by omega)
  · rw [exec, execPeek, hsixteen]
    exact hrun _ _ (by split <;> omega)
  · rw [exec, execDropHead, hsixteen]
    exact hrun _ _ (by omega)
  · rw [exec, execQstat, hsixteen]
    exact hrun _ _ (by omega)
end

end Sys2Proof.Machine

open Sys2Proof Sys2Proof.Machine

/-- Settles O22: a walk over packets that can be read takes the oldest ones, and everything else that a removal does touches no other queue. -/
theorem removalsTakeTheHead : Obligations.RemovalsTakeTheHead := by
  unfold Obligations.RemovalsTakeTheHead
  refine ⟨?one, ?many, ?peek, ?drop, ?live, ?unsnapped, ?empty, ?unconfigured⟩
  case one =>
    intro s r k rest hadm hserved hhead hread harg
    have hmax : max 1 r.arg = 1 := by omega
    obtain ⟨m, e, hone, hle, -, hshort, -, t, hx, hleft, hother, hreply⟩ := execDeq_delivers hadm hserved (by simp [hhead])
      (by simpa [hmax, hhead] using hread)
    have hm : m = 1 := by omega
    have he : e = false := Bool.eq_false_iff.mpr (fun he => by have := hshort he; omega)
    subst hm he
    rw [hhead] at hleft hreply
    rw [List.take_succ_cons, List.take_zero, delivered_singleton (Queue.headSeq_mod _)] at hreply
    have honly := execDeq_only hx
    exact ⟨t, hx, hleft, hother, honly.eq_tables (by decide), honly.eq_mem (by decide), hreply⟩
  case many =>
    intro s r hadm hserved hne hread
    obtain ⟨m, e, hone, hle, hlen, -, hbudget, t, hx, hleft, hother, hreply⟩ := execDeq_delivers hadm hserved hne
      (fun k hk => hread k (List.mem_of_mem_take hk))
    refine ⟨t, hx, m, _, hone, hle, hlen, hleft, ?_, hbudget, hreply, hother⟩
    cases e with
    | false => exact .inl rfl
    | true => exact .inr rfl
  case peek =>
    intro s r k rest hadm hserved hhead hread
    have hx := execPeek_readable hadm hserved hhead hread
    have honly := execPeek_only hx
    have hstream := State.readStream_only (s.takeReq r) r (s.queue r.object) k.pos (k.pos + 15 + peeked r k)
    refine ⟨_, hx, ?_, honly.eq_tables (by decide), honly.eq_mem (by decide), ?_⟩
    · rw [State.answer_keeps_queues, hstream.eq_queues (by decide), State.takeReq_queues]
    · rw [take_peeked]
      exact State.answer_replies _ _ _ _ (by rw [State.port_congr (hstream.eq_ports (by decide)), State.takeReq_egress])
  case drop =>
    intro s r hadm hserved hne hread
    have hx := execDropHead_readable hadm hserved hne hread
    obtain ⟨hleft, hother, hreply, hquiet⟩ := State.dropPackets_facts s r ((s.queue r.object).packets.take (max 1 r.arg))
      ((s.queue r.object).packets.drop (max 1 r.arg)) (st := dropStatus r (s.queue r.object).packets) (by unfold dropStatus; split <;> decide)
    rw [List.length_take] at hreply
    exact ⟨_, hx, hleft, hother, (execDropHead_only hx).eq_mem (by decide), hreply, hquiet⟩
  case live =>
    intro s r k rest hadm hserved hhead hread hlive
    have hx := execQstat_live hadm hserved hhead hread hlive
    exact ⟨_, hx, by simp, (execQstat_only hx).eq_tables (by decide), State.answer_replies _ _ _ _ (by simp)⟩
  case unsnapped =>
    intro s r hadm hserved hsnap hnone
    exact ⟨_, execQstat_no_snapshot hadm hserved hsnap hnone, by simp, State.answer_replies _ _ _ _ (by simp)⟩
  case empty =>
    intro s r hadm hserved hnil
    have hshort : peekReply r ≤ 16416 := by
      unfold peekReply
      split <;> omega
    exact ⟨execDeq_empty hadm hserved hnil, _, execPeek_empty (hadm.mono hshort) hserved hnil, by simp, State.answer_replies _ _ _ _ (by simp)⟩
  case unconfigured =>
    intro s r hadm hheld hobject hlength hnone c hc
    obtain ⟨hreply, hqueues, hcount⟩ := State.refuseState_facts s r stNoSuchObject
    exact ⟨_, execRemoval_unconfigured hadm hheld hobject hlength hnone hc, hqueues, hreply, hcount⟩
end

section
/-!
Snapshots (R266 to R271): what starting one, completing one and reading one leave.
-/
namespace Sys2Proof.Machine

/-! ### A snapshot starts (R267, R269, R270) -/

/-- Only the snapshots held and the commands in execution tell whether one is being read. -/
theorem State.snapRead_congr {s t : State} (hsnapshots : t.snapshots = s.snapshots) (hrings : t.rings = s.rings) : t.snapRead = s.snapRead := by
  unfold State.snapRead
  rw [hsnapshots]
  simp only [State.ring_congr hrings]

@[simp] theorem State.takeReq_snapRead (s : State) (r : Req) : (s.takeReq r).snapRead = s.snapRead :=
  State.snapRead_congr ((State.takeReq_only s r).eq_snapshots (by decide)) ((State.takeReq_only s r).eq_rings (by decide))

@[simp] theorem State.takeReq_snapPending (s : State) (r : Req) : (s.takeReq r).snapPending = s.snapPending :=
  (State.takeReq_only s r).eq_snapPending (by decide)

theorem State.startSnapshot_f (s : State) (src : SnapSource) (t : Tick) : (s.startSnapshot src t).f qmStatusSnapPending = 1 :=
  State.f_setF_same s qmStatusSnapPending 1

/-- The request waits for its answer with the room of its reply kept. -/
def State.awaitSnapshot (s : State) (r : Req) : State :=
  ((s.setPort r.port { s.port r.port with awaiting := (s.port r.port).awaiting ++ [r] }).keepRoom r 32).startSnapshot (.link r) r.tick

theorem State.awaitSnapshot_facts (s : State) (r : Req) : (s.awaitSnapshot r).snapPending = some (.link r, r.tick) ∧
    (s.awaitSnapshot r).f qmStatusSnapPending = 1 ∧ ((s.awaitSnapshot r).port r.port).awaiting = (s.port r.port).awaiting ++ [r] := by
  refine ⟨rfl, State.startSnapshot_f _ _ _, ?_⟩
  have hport : (s.awaitSnapshot r).port r.port = ((s.setPort r.port { s.port r.port with
      awaiting := (s.port r.port).awaiting ++ [r] }).keepRoom r 32).port r.port := rfl
  rw [hport, State.keepRoom, State.setPort_port, State.setPort_port]

section
variable {s : State} {r : Req} (hadm : Admitted r 32 s) (hlength : r.length = 0)
include hadm hlength

/-- A SNAPSHOT_REQ without a tick of its own asks for the cut at its own tick. -/
theorem execSnapshotReq_bare : execSnapshotReq r s = .next (if s.snapPending.isSome || s.snapRead then (s.takeReq r).answer r stNotPermitted 0 []
    else (s.takeReq r).awaitSnapshot r) := by
  unfold execSnapshotReq
  rw [if_pos (.inl hlength), hadm.runs _ rfl]
  have htick : (if r.length = 8 then max (leNat r.payload) r.tick else r.tick) = r.tick := if_neg (by omega)
  simp only [htick]
  rw [if_neg (by simp [hlength]), if_neg (by simp), State.takeReq_snapPending, State.takeReq_snapRead]
  rfl

theorem execSnapshotReq_starts (hfree : s.snapPending = none) (hread : s.snapRead = false) :
    execSnapshotReq r s = .next ((s.takeReq r).awaitSnapshot r) := by
  rw [execSnapshotReq_bare hadm hlength, if_neg (by simp [hfree, hread])]

theorem execSnapshotReq_refused (h : s.snapPending.isSome = true ∨ s.snapRead = true) :
    execSnapshotReq r s = .next ((s.takeReq r).answer r stNotPermitted 0 []) := by
  rw [execSnapshotReq_bare hadm hlength, if_pos (by simpa using h)]
end

/-! ### A snapshot completes (R266, R268) -/

/-- The snapshot of the cut tick. -/
def State.snapshotAt (s : State) (cut : Tick) : Snapshot :=
  { number := (s.f qmSnapNumLast + 1) % 2 ^ 32, cut := cut,
    entries := (s.queues.filter (fun k => k.2.configured)).map (fun k => (k.1, k.2.ledgerAt cut)), damaged := [] }

theorem State.snapshotAt_mem_entries (s : State) (cut : Tick) {q : Nat} {x : Queue} (h : (q, x) ∈ s.queues) (hconf : x.configured = true) :
    (q, x.ledgerAt cut) ∈ (s.snapshotAt cut).entries :=
  List.mem_map.mpr ⟨(q, x), List.mem_filter.mpr ⟨h, hconf⟩, rfl⟩

/-- The snapshot is held with the one before it, and none is pending. -/
def State.holdSnapshot (s : State) (cut : Tick) : State :=
  { s.setFs [(qmStatusSnapPending, 0), (qmSnapNumLast, (s.snapshotAt cut).number), (qmSnapTick, cut)] with
    snapshots := (s.snapshotAt cut :: s.snapshots).take 2, snapPending := none }

/-- The answer to who asked for the snapshot. -/
def State.answerSnapshot (s : State) (src : SnapSource) (cut number : Nat) : State :=
  match src with
  | .link r => (s.setPort r.port { s.port r.port with awaiting := (s.port r.port).awaiting.erase r }).answer r stOk 0
      (leBytes 8 cut ++ leBytes 4 number ++ leBytes 4 0)
  | .ring ring tag => s.complete ring tag stOk (packBytes [(0, 8, cut), (8, 4, number)])
  | .event => s

theorem State.finishSnapshot_eq (s : State) (src : SnapSource) (cut : Tick) : s.finishSnapshot src cut =
    ((s.holdSnapshot cut).answerSnapshot src cut (s.snapshotAt cut).number).pulseSource 0x401 := by
  cases src <;> rfl

theorem State.holdSnapshot_facts (s : State) (cut : Tick) : (s.holdSnapshot cut).f qmStatusSnapPending = 0 ∧
    (s.holdSnapshot cut).f qmSnapNumLast = (s.f qmSnapNumLast + 1) % 2 ^ 32 ∧ (s.holdSnapshot cut).f qmSnapTick = cut := by
  have hf : ∀ k, (s.holdSnapshot cut).f k =
      (s.setFs [(qmStatusSnapPending, 0), (qmSnapNumLast, (s.snapshotAt cut).number), (qmSnapTick, cut)]).f k := fun _ => rfl
  simp only [hf, State.setFs_cons, State.setFs_nil]
  refine ⟨?_, ?_, ?_⟩
  · rw [State.f_setF_other _ _ (by decide), State.f_setF_other _ _ (by decide), State.f_setF_same]
  · rw [State.f_setF_other _ _ (by decide), State.f_setF_same]
    rfl
  · rw [State.f_setF_same]

theorem State.answerSnapshot_only (s : State) (src : SnapSource) (cut number : Nat) :
    Only [.out, .heldOut, .regs, .pcie, .rings, .ports] s (s.answerSnapshot src cut number) := by
  cases src <;> simp [State.answerSnapshot]

/-- The answer changes no field that shows the snapshot. -/
theorem State.answerSnapshot_f (s : State) (src : SnapSource) (cut number : Nat) {k : Fld}
    (hk : k ∈ [qmStatusSnapPending, qmSnapNumLast, qmSnapTick]) : (s.answerSnapshot src cut number).f k = s.f k := by
  cases src with
  | link r =>
    have hplace : regPlace k ≠ 3584 := by
      have hall : ∀ j ∈ [qmStatusSnapPending, qmSnapNumLast, qmSnapTick], regPlace j ≠ 3584 := by decide
      exact hall k hk
    exact State.answer_f_apart _ r _ _ _ _ hplace
  | ring ring tag =>
    refine State.complete_regs s ring tag _ _ k (fun hm => ?_)
    simp only [List.mem_cons, List.not_mem_nil, or_false] at hk hm
    rcases hk with rfl | rfl | rfl <;> rcases hm with h | h | h | h | h <;> exact fld_ne (by omega) h
  | event => rfl

theorem execSnapshotComplete_due {s : State} {src : SnapSource} {cut : Tick} (hpending : s.snapPending = some (src, cut))
    (hhalt : s.halted = false) (hsettled : s.settledBefore cut = true) :
    execSnapshotComplete s = .next ((s.reach cut).finishSnapshot src cut) := by
  unfold execSnapshotComplete
  simp only [hpending]
  rw [if_neg (by simp [hhalt, hsettled])]

theorem State.finishSnapshot_f (s : State) (src : SnapSource) (cut : Tick) {k : Fld} (hk : k ∈ [qmStatusSnapPending, qmSnapNumLast, qmSnapTick]) :
    (s.finishSnapshot src cut).f k = (s.holdSnapshot cut).f k := by
  rw [State.finishSnapshot_eq, State.pulseSource_regs _ _ k (by simp), State.answerSnapshot_f _ _ _ _ hk]

theorem State.finishSnapshot_snapshots (s : State) (src : SnapSource) (cut : Tick) :
    (s.finishSnapshot src cut).snapshots = s.snapshotAt cut :: s.snapshots.take 1 := by
  rw [State.finishSnapshot_eq, State.pulseSource_keeps_snapshots, (State.answerSnapshot_only _ _ _ _).eq_snapshots (by decide)]
  rfl

theorem State.finishSnapshot_snapPending (s : State) (src : SnapSource) (cut : Tick) : (s.finishSnapshot src cut).snapPending = none := by
  rw [State.finishSnapshot_eq, State.pulseSource_keeps_snapPending, (State.answerSnapshot_only _ _ _ _).eq_snapPending (by decide)]
  rfl

theorem State.finishSnapshot_replies (s : State) (r : Req) (cut : Tick) :
    Replies r stOk 0 (leBytes 8 cut ++ leBytes 4 (s.snapshotAt cut).number ++ leBytes 4 0) s (s.finishSnapshot (.link r) cut) := by
  have hreply : Replies r stOk 0 (leBytes 8 cut ++ leBytes 4 (s.snapshotAt cut).number ++ leBytes 4 0) s
      ((s.holdSnapshot cut).answerSnapshot (.link r) cut (s.snapshotAt cut).number) :=
    State.answer_replies _ _ _ _ (by rw [State.setPort_port]; rfl)
  unfold Replies at hreply ⊢
  rwa [State.finishSnapshot_eq, State.port_congr (State.pulseSource_keeps_ports _ _)]

/-! ### The snapshot commands (R267, R271, R278) -/

section
variable {s : State} {e : Sqe}

theorem execSnapshotTake_running (h : Running e s) (hquench : s.quenched = false) :
    execSnapshotTake e s = .next (if e.tick + 4000000000 < max (e.par 16 8) e.tick then s.done e stBadParam 0
      else if s.snapPending.isSome || s.snapRead then s.done e stNotPermitted 0
      else s.startSnapshot (.ring e.ring e.tag) (max (e.par 16 8) e.tick)) :=
  runCommand_running (c := ⟨0x144, false, false, .refused, false, [(16, 0, 64)]⟩) (by decide) h (fun hq => by simp [hquench] at hq)

/-- The records of `n` queues from `first` on, as SNAPSHOT_READ writes them. -/
def Snapshot.records (x : Snapshot) (first n : Nat) : List Byte :=
  (List.range n).flatMap (fun i => if x.damaged.contains (first + i) then leBytes 8 (2 ^ 63) ++ leBytes 8 (2 ^ 63)
    else leBytes 8 (toTwos 64 (x.entry (first + i)).1) ++ leBytes 8 (toTwos 64 (x.entry (first + i)).2))

theorem execSnapshotRead_running {x : Snapshot} (h : Running e s) (hsome : 0 < e.par 24 4) (hrange : e.par 20 4 + e.par 24 4 ≤ 131072)
    (hal : e.par 32 8 % 16 = 0) (hfind : s.snapshots.find? (fun y => y.number == e.par 16 4) = some x) :
    execSnapshotRead e s = .next ((s.emitHost (.hostWrite (e.par 32 8) (x.records (e.par 20 4) (e.par 24 4)))).done e stOk 0) := by
  refine (runCommand_running (c := ⟨0x145, false, false, .runs, false, [(16, 0, 96), (32, 0, 64)]⟩) (by decide) h (fun _ => rfl)).trans ?_
  dsimp only
  rw [if_neg (by omega), hfind]
  rfl

theorem Snapshot.records_undamaged {x : Snapshot} (h : x.damaged = []) (first n : Nat) : x.records first n =
    (List.range n).flatMap (fun i => leBytes 8 (toTwos 64 (x.entry (first + i)).1) ++ leBytes 8 (toTwos 64 (x.entry (first + i)).2)) := by
  unfold Snapshot.records
  simp [h]
end

end Sys2Proof.Machine

open Sys2Proof Sys2Proof.Machine

/-- Settles O23: a snapshot starts and completes by what it leaves of the queues, the fields of QM and the snapshots held. -/
theorem snapshotsRecordTheCut : Obligations.SnapshotsRecordTheCut := by
  unfold Obligations.SnapshotsRecordTheCut
  refine ⟨?requested, ?refused, ?complete, ?taken, ?far, ?read⟩
  case requested =>
    intro s r hadm hlength hfree hread
    have hx := execSnapshotReq_starts hadm hlength hfree hread
    have honly := execSnapshotReq_only hx
    obtain ⟨hpending, hfield, hawaiting⟩ := State.awaitSnapshot_facts (s.takeReq r) r
    rw [State.takeReq_awaiting] at hawaiting
    exact ⟨_, hx, hpending, hfield, hawaiting, honly.eq_queues (by decide), honly.eq_snapshots (by decide)⟩
  case refused =>
    intro s r hadm hlength h
    exact ⟨_, execSnapshotReq_refused hadm hlength h, by simp, State.answer_replies _ _ _ _ (by simp)⟩
  case complete =>
    intro s src cut hpending hhalt hsettled
    have hx := execSnapshotComplete_due hpending hhalt hsettled
    obtain ⟨hbit, hnumber, htick⟩ := State.holdSnapshot_facts (s.reach cut) cut
    have hlast := (State.finishSnapshot_f (s.reach cut) src cut (k := qmSnapNumLast) (by simp)).trans hnumber
    refine ⟨_, hx, State.finishSnapshot_snapPending _ _ _, (State.finishSnapshot_f _ _ _ (by simp)).trans hbit,
      (State.finishSnapshot_f _ _ _ (by simp)).trans htick, hlast, ?_, (execSnapshotComplete_only hx).eq_queues (by decide),
      ⟨(s.reach cut).snapshotAt cut, State.finishSnapshot_snapshots _ _ _, rfl, hlast.symm, rfl,
        fun q x hq hconf => State.snapshotAt_mem_entries _ _ hq hconf⟩, ?_⟩
    · exact congrArg TimeBase.ticks ((State.finishSnapshot_only (s.reach cut) src cut).eq_time (by decide))
    · rintro r rfl
      rw [hlast]
      exact State.finishSnapshot_replies (s.reach cut) r cut
  case taken =>
    intro s e hrun hquench hsoon hfree hread
    have hx := execSnapshotTake_running hrun hquench
    rw [if_neg (Nat.not_lt.mpr hsoon), if_neg (by simp [hfree, hread])] at hx
    exact ⟨_, hx, rfl, State.startSnapshot_f _ _ _, State.startSnapshot_only _ _ _, State.startSnapshot_regs _ _ _⟩
  case far =>
    intro s e hrun hquench hfar
    refine State.done_answers ?_ hrun (by decide)
    exact (execSnapshotTake_running hrun hquench).trans (by rw [if_pos (lt_of_lt_of_le hfar (Nat.le_max_left _ _))])
  case read =>
    intro s e x hrun hsome hrange hal hfind hgood
    have hx := execSnapshotRead_running hrun hsome hrange hal hfind
    rw [Snapshot.records_undamaged hgood] at hx
    exact ⟨_, hx, State.emitHost_done_posts 0 hrun (by decide) _, execSnapshotRead_only hx, execSnapshotRead_regs hx⟩
end

section
/-!
The queue commands (R236, R275 to R278): a change of a range of queues, the commands that add one, and those that answer at once.
-/
namespace Sys2Proof.Machine

/-! ### Sparse maps in parts -/

section
variable {α : Type} (d : Nat → α) {k : Nat}

theorem Map.get_absent {m : Map α} (h : ∀ x ∈ m, x.1 ≠ k) : Map.get d m k = d k := by
  induction m with
  | nil => rfl
  | cons p r ih =>
    rw [Map.get, if_neg (h p (.head _)), ih (fun x hx => h x (.tail _ hx))]

theorem Map.get_append_right {a : Map α} (b : Map α) (h : ∀ x ∈ a, x.1 ≠ k) : Map.get d (a ++ b) k = Map.get d b k := by
  induction a with
  | nil => rfl
  | cons p r ih =>
    rw [List.cons_append, Map.get, if_neg (h p (.head _)), ih (fun x hx => h x (.tail _ hx))]

theorem Map.get_append_left (a : Map α) {b : Map α} (h : ∀ x ∈ b, x.1 ≠ k) : Map.get d (a ++ b) k = Map.get d a k := by
  induction a with
  | nil => exact Map.get_absent d h
  | cons p r ih => rw [List.cons_append, Map.get, Map.get, ih]

/-- A selection by keys keeps the values of the keys selected. -/
theorem Map.get_filter (m : Map α) (p : Nat → Bool) (h : p k = true) : Map.get d (m.filter (fun x => p x.1)) k = Map.get d m k := by
  induction m with
  | nil => rfl
  | cons x r ih =>
    by_cases hx : p x.1 = true
    · rw [List.filter_cons_of_pos (p := fun y : Nat × α => p y.1) hx, Map.get, Map.get, ih]
    · have hne : x.1 ≠ k := fun e => hx (e ▸ h)
      rw [List.filter_cons_of_neg (p := fun y : Nat × α => p y.1) hx, Map.get, if_neg hne, ih]

/-- A key reads as the value that all its entries have; without an entry that must be its default. -/
theorem Map.get_unique {m : Map α} {v : α} (h : ∀ x ∈ m, x.1 = k → x.2 = v) (hnone : (∀ x ∈ m, x.1 ≠ k) → v = d k) : Map.get d m k = v := by
  induction m with
  | nil => exact (hnone (by simp)).symm
  | cons p r ih =>
    rw [Map.get]
    by_cases hp : p.1 = k
    · rw [if_pos hp, h p (.head _) hp]
    · rw [if_neg hp]
      refine ih (fun x hx => h x (.tail _ hx)) (fun hr => hnone (fun x hx => ?_))
      rcases List.mem_cons.mp hx with rfl | hx
      · exact hp
      · exact hr x hx

/-- Keys of a range, each with a value of its own and listed where that is not its default. -/
theorem Map.get_range [DecidableEq α] (f : Nat → α) {first n : Nat} (hfirst : first ≤ k) (hlast : k < first + n) :
    Map.get d (((List.range n).map (fun i => (first + i, f (first + i)))).filter (fun x => decide (x.2 ≠ d x.1))) k = f k := by
  have hmem : ∀ x ∈ (List.range n).map (fun i => (first + i, f (first + i))), x.1 = k → x.2 = f k := fun x hx hk => by
    obtain ⟨i, -, rfl⟩ := List.mem_map.mp hx
    exact congrArg f hk
  refine Map.get_unique d (fun x hx hk => hmem x (List.mem_of_mem_filter hx) hk) (fun hnone => ?_)
  by_contra hne
  refine hnone (k, f k) (List.mem_filter.mpr ⟨List.mem_map.mpr ⟨k - first, List.mem_range.mpr (by omega), ?_⟩, by simpa using hne⟩) rfl
  rw [Nat.add_sub_cancel' hfirst]
end

/-! ### Changes of a range (R275) -/

/-- Every queue of the range changes, and no other. -/
theorem State.updateQueues_queue (s : State) (first n : Nat) (f : Queue → Queue) (q : Nat) :
    (s.updateQueues first n f).queue q = if first ≤ q ∧ q < first + n then f (s.queue q) else s.queue q := by
  have hmid : ∀ x ∈ ((List.range n).map (fun i => (first + i, f (s.queue (first + i))))).filter (fun x => decide (x.2 ≠ queueCold x.1)),
      first ≤ x.1 ∧ x.1 < first + n := fun x hx => by
    obtain ⟨i, hi, rfl⟩ := List.mem_map.mp (List.mem_of_mem_filter hx)
    have hlt := List.mem_range.mp hi
    exact ⟨Nat.le_add_right _ _, by omega⟩
  have hlow : ∀ x ∈ s.queues.filter (fun k => decide (k.1 < first)), x.1 < first := fun x hx => by
    simpa using (List.mem_filter.mp hx).2
  have hhigh : ∀ x ∈ s.queues.filter (fun k => decide (first + n ≤ k.1)), first + n ≤ x.1 := fun x hx => by
    simpa using (List.mem_filter.mp hx).2
  unfold State.updateQueues State.queue
  by_cases hbelow : q < first
  · rw [if_neg (by omega), Map.get_append_left _ _ (fun x hx => by have := hhigh x hx; omega),
      Map.get_append_left _ _ (fun x hx => by have := hmid x hx; omega)]
    exact Map.get_filter queueCold s.queues (fun j => decide (j < first)) (by simpa using hbelow)
  · by_cases habove : first + n ≤ q
    · rw [if_neg (by omega), Map.get_append_right _ _ (fun x hx => ?_)]
      · exact Map.get_filter queueCold s.queues (fun j => decide (first + n ≤ j)) (by simpa using habove)
      · rcases List.mem_append.mp hx with hx | hx
        · have := hlow x hx
          omega
        · have := hmid x hx
          omega
    · rw [if_pos (by omega), Map.get_append_left _ _ (fun x hx => by have := hhigh x hx; omega),
        Map.get_append_right _ _ (fun x hx => by have := hlow x hx; omega)]
      exact Map.get_range queueCold (fun j => f (s.queue j)) (by omega) (by omega)

/-- From `s` to `t` a function has changed the queues of a range, and no others have changed. -/
def Changed (first n : Nat) (f : Queue → Queue) (s t : State) : Prop :=
  (∀ q, first ≤ q → q < first + n → t.queue q = f (s.queue q)) ∧ ∀ q, q < first ∨ first + n ≤ q → t.queue q = s.queue q

/-- Reclaiming the blocks of the queues and counting the queues does not matter to what a change does. -/
theorem State.updateQueues_changed {s u t : State} (first n : Nat) (f : Queue → Queue) (hbefore : u.queues = s.queues)
    (hafter : t.queues = (u.updateQueues first n f).queues) : Changed first n f s t := by
  refine ⟨fun q hlo hhi => ?_, fun q hq => ?_⟩
  · rw [State.queue_congr hafter, State.updateQueues_queue, if_pos ⟨hlo, hhi⟩, State.queue_congr hbefore]
  · rw [State.queue_congr hafter, State.updateQueues_queue, if_neg (by omega), State.queue_congr hbefore]

@[simp] theorem State.syncQueues_queues (s : State) : s.syncQueues.queues = s.queues := (State.syncQueues_only s).eq_queues (by decide)

theorem State.reclaim_queues (s : State) (l : List (Nat × Queue)) : (l.foldl State.reclaim s).queues = s.queues :=
  (Only.foldlI State.reclaim l State.reclaim_only (Only.refl _ s)).eq_queues (by decide)

section
variable {s : State} {c : QueueChange}

theorem State.changeEffect_cfg {limit : Nat} {enable clear keep : Bool} (h : c.kind = .cfg limit enable clear keep) :
    Changed c.first c.count (Queue.configure limit enable clear keep) s (s.changeEffect c).1 := by
  refine State.updateQueues_changed _ _ _ rfl ?_
  simp only [State.changeEffect, h]
  exact State.syncQueues_queues _

theorem State.changeEffect_remove (h : c.kind = .remove true) :
    Changed c.first c.count (fun _ => queueCold 0) s (s.changeEffect c).1 := by
  refine State.updateQueues_changed _ _ _ (State.reclaim_queues s (s.queuesIn c.first c.count)) ?_
  simp only [State.changeEffect, h]
  exact State.syncQueues_queues _

theorem State.changeEffect_flush (h : c.kind = .flush) (hsome : s.queuesIn c.first c.count ≠ []) :
    Changed c.first c.count (Queue.empty c.tick) s (s.changeEffect c).1 := by
  refine State.updateQueues_changed _ _ _ (State.reclaim_queues s (s.queuesIn c.first c.count)) ?_
  simp only [State.changeEffect, h]
  rw [if_neg (by simpa using hsome)]
  exact State.syncQueues_queues _

/-- The oldest change that is ready leaves the list, and what it does to the queues is its effect. -/
theorem execQueueChangeApply_ready (hhalt : s.halted = false) (hnext : s.nextChange [] s.queueChanges = some c) {f : Queue → Queue}
    (heffect : ∀ u : State, u.queues = s.queues → Changed c.first c.count f u (u.changeEffect c).1) :
    Does .queueChangeApply s (fun t => t.queueChanges = s.queueChanges.erase c ∧ Changed c.first c.count f s t ∧ t.tables = s.tables) := by
  have hx : execQueueChangeApply s = .next ({ s with queueChanges := s.queueChanges.erase c }.applyChange c) := by
    unfold execQueueChangeApply
    rw [if_neg (by simp [hhalt]), hnext]
  obtain ⟨hin, hout⟩ := heffect { s with queueChanges := s.queueChanges.erase c } rfl
  have hqueues : ({ s with queueChanges := s.queueChanges.erase c }.applyChange c).queues =
      ({ s with queueChanges := s.queueChanges.erase c }.changeEffect c).1.queues := State.complete_keeps_queues _ _ _ _ _
  refine ⟨_, hx, ?_, ⟨fun q hlo hhi => ?_, fun q hq => ?_⟩, (execQueueChangeApply_only hx).eq_tables (by decide)⟩
  · rw [(State.applyChange_only _ c).eq_queueChanges (by decide)]
  · rw [State.queue_congr hqueues, hin q hlo hhi]
    rfl
  · rw [State.queue_congr hqueues, hout q hq]
    rfl
end

/-- An emptied queue that is configured keeps its limit and its numbers, and a broken one is repaired (R275). -/
theorem Queue.empty_configured (tick : Tick) {x : Queue} (h : x.configured = true) : (x.empty tick).packets = [] ∧ (x.empty tick).broken = none ∧
    (x.empty tick).limit = x.limit ∧ (x.empty tick).nextSeq = x.nextSeq := by
  unfold Queue.empty
  simp [h]

/-! ### Commands that add a change (R276, R278) -/

section
variable {s : State} {e : Sqe}

theorem State.addChange_accepted (k : QueueChangeKind) (hsome : 0 < e.par 20 4) (hrange : e.par 16 4 + e.par 20 4 ≤ 131072) :
    s.addChange e k = { s with queueChanges := s.queueChanges ++ [⟨k, e.par 16 4, e.par 20 4, e.tick, e.ring, e.tag⟩] } := by
  have hgood : badQueueRange (e.par 16 4) (e.par 20 4) = false := by
    simp [badQueueRange]
    omega
  unfold State.addChange
  simp [hgood]

theorem State.addChange_bad (k : QueueChangeKind) (hrange : 131072 < e.par 16 4 + e.par 20 4) : s.addChange e k = s.done e stBadParam 0 := by
  have hbad : badQueueRange (e.par 16 4) (e.par 20 4) = true := by simp [badQueueRange, hrange]
  unfold State.addChange
  simp [hbad]

variable (h : Running e s)
include h

theorem execQueueCfg_running : execQueueCfg e s = .next (s.addChange e (.cfg (e.par 24 8) (e.bit 32 0) (e.bit 32 1) (e.bit 32 2))) :=
  runCommand_running (c := ⟨0x140, false, false, .runs, false, [(16, 0, 128), (32, 0, 3)]⟩) (by decide) h (fun _ => rfl)

theorem execQueueReserve_running : execQueueReserve e s = .next (s.addChange e (.reserve (e.par 24 4))) :=
  runCommand_running (c := ⟨0x150, true, false, .runs, false, [(16, 0, 96)]⟩) (by decide) h (fun _ => rfl)

theorem execQueueRemove_running (hquench : s.quenched = false) : execQueueRemove e s = .next (s.addChange e (.remove (e.bit 24 0))) :=
  runCommand_running (c := ⟨0x141, false, false, .ifFlush, false, [(16, 0, 64), (24, 0, 1)]⟩) (by decide) h (fun hq => by simp [hquench] at hq)

theorem execQueueFlush_running (hquench : s.quenched = false) : execQueueFlush e s = .next (s.addChange e .flush) :=
  runCommand_running (c := ⟨0x142, false, false, .refused, false, [(16, 0, 64)]⟩) (by decide) h (fun hq => by simp [hquench] at hq)

/-! ### QUEUE_INFO and QM_PREFETCH (R278) -/

theorem execQueueInfo_far (hfar : 131071 < e.par 16 4) : execQueueInfo e s = .next (s.done e stBadParam 0) := by
  refine (runCommand_running (c := ⟨0x143, false, false, .runs, false, [(16, 0, 32)]⟩) (by decide) h (fun _ => rfl)).trans ?_
  dsimp only
  rw [if_pos hfar]

theorem execQueueInfo_configured (hnear : e.par 16 4 ≤ 131071) (hconf : (s.queue (e.par 16 4)).configured = true)
    (hcontext : s.contextLost (e.par 16 4) = false) :
    execQueueInfo e s = .next (s.done e stOk (packBytes [(0, 6, (s.queue (e.par 16 4)).limit), (6, 6, (s.queue (e.par 16 4)).bytes),
      (12, 4, (s.queue (e.par 16 4)).count), (16, 4, (s.queue (e.par 16 4)).blocks % 2 ^ 26 + 2 ^ 30 * (s.queue (e.par 16 4)).code),
      (20, 4, (s.queue (e.par 16 4)).reserve)])) := by
  refine (runCommand_running (c := ⟨0x143, false, false, .runs, false, [(16, 0, 32)]⟩) (by decide) h (fun _ => rfl)).trans ?_
  have hkept : (if s.contextLost (e.par 16 4) then s.breakQueue (e.par 16 4) (s.queue (e.par 16 4)).counts else s) = s :=
    if_neg (by simp [hcontext])
  simp only [hkept]
  rw [if_neg (by omega), if_neg (by simp [hconf])]

theorem execQmPrefetch_running : execQmPrefetch e s = .next (if 4 < e.par 16 1 then s.done e stBadParam 0
    else (s.setF qmCtrlPrefetchDepth (e.par 16 1)).done e stOk 0) :=
  runCommand_running (c := ⟨0x151, true, false, .runs, false, [(16, 0, 8)]⟩) (by decide) h (fun _ => rfl)

omit h in
/-- The prefetch depth is no field of a ring. -/
theorem prefetchDepth_not_ring (r : Nat) : qmCtrlPrefetchDepth ∉ hcSqHead r :: ringRegs r := by
  simp only [ringRegs, List.mem_cons, List.not_mem_nil, or_false, not_or]
  refine ⟨?_, ?_, ?_, ?_, ?_, ?_⟩ <;> exact fld_ne (by omega)

/-- A completion after a new prefetch depth is the one without it. -/
theorem State.prefetchDepth_done_posts (v : Nat) : Posts e stOk 0 [] s ((s.setF qmCtrlPrefetchDepth v).done e stOk 0) := by
  have hother : ∀ k ≠ qmCtrlPrefetchDepth, (s.setF qmCtrlPrefetchDepth v).f k = s.f k := fun k hk => State.f_setF_other s v hk
  have hrun : Running e (s.setF qmCtrlPrefetchDepth v) :=
    Running.congr (s := s) rfl (State.halted_congr (hother _ (by decide)) (hother _ (by decide))) h
  refine Posts.congr (s := s) (t := s.setF qmCtrlPrefetchDepth v) rfl rfl rfl (fun k hk => hother k ?_) (State.done_posts 0 hrun (by decide))
  rintro rfl
  exact prefetchDepth_not_ring _ hk

omit h in
theorem State.prefetchDepth_done_f (v : Nat) : ((s.setF qmCtrlPrefetchDepth v).done e stOk 0).f qmCtrlPrefetchDepth = v :=
  (State.done_regs _ e _ _ _ (fun hm => prefetchDepth_not_ring e.ring (.tail _ hm))).trans (State.f_setF_same _ _ _)

end

end Sys2Proof.Machine

open Sys2Proof Sys2Proof.Machine

/-- Settles O24: a change rewrites the queues of its range in the map of all queues, and what comes before and after it touches no queue. -/
theorem queueCommandsTakeEffect : Obligations.QueueCommandsTakeEffect := by
  unfold Obligations.QueueCommandsTakeEffect
  refine ⟨?added, ?range, ?cfg, ?remove, ?flush, ?info, ?infoFar, ?depth, ?deep⟩
  case added =>
    intro s e hrun hsome hrange
    have hadd := fun k => State.addChange_accepted (s := s) (e := e) k hsome hrange
    exact ⟨⟨_, execQueueCfg_running hrun, hadd _⟩, ⟨_, execQueueReserve_running hrun, hadd _⟩,
      fun hquench => ⟨_, execQueueRemove_running hrun hquench, hadd _⟩, fun hquench => ⟨_, execQueueFlush_running hrun hquench, hadd _⟩⟩
  case range =>
    intro s e hrun hquench hrange c hc
    have hbad : ∀ {k}, exec c s = .next (s.addChange e k) → Answers c e stBadParam 0 s := fun {k} hx =>
      State.done_answers (hx.trans (by rw [State.addChange_bad k hrange])) hrun (by decide)
    simp only [List.mem_cons, List.not_mem_nil, or_false] at hc
    rcases hc with rfl | rfl | rfl | rfl
    · exact hbad (execQueueCfg_running hrun)
    · exact hbad (execQueueRemove_running hrun hquench)
    · exact hbad (execQueueFlush_running hrun hquench)
    · exact hbad (execQueueReserve_running hrun)
  case cfg =>
    intro s c limit enable clear keep hhalt hnext hkind
    obtain ⟨t, hx, hchanges, ⟨hin, hout⟩, htables⟩ := execQueueChangeApply_ready hhalt hnext (fun u _ => State.changeEffect_cfg (s := u) hkind)
    exact ⟨t, hx, hchanges, hin, hout, htables⟩
  case remove =>
    intro s c hhalt hnext hkind
    obtain ⟨t, hx, hchanges, ⟨hin, hout⟩, htables⟩ := execQueueChangeApply_ready hhalt hnext (fun u _ => State.changeEffect_remove (s := u) hkind)
    refine ⟨t, hx, hchanges, fun q hlo hhi => ?_, hout, htables⟩
    rw [hin q hlo hhi]
    exact ⟨rfl, rfl⟩
  case flush =>
    intro s c hhalt hnext hkind hsome
    obtain ⟨t, hx, hchanges, ⟨hin, hout⟩, -⟩ := execQueueChangeApply_ready hhalt hnext (f := Queue.empty c.tick) (fun u hu => by
      refine State.changeEffect_flush hkind ?_
      unfold State.queuesIn at hsome ⊢
      rwa [hu])
    refine ⟨t, hx, hchanges, fun q hlo hhi hconf => ?_, hout⟩
    rw [hin q hlo hhi]
    exact Queue.empty_configured c.tick hconf
  case info =>
    intro s e hrun hnear hconf hcontext
    exact State.done_answers (execQueueInfo_configured hrun hnear hconf hcontext) hrun (by decide)
  case infoFar =>
    intro s e hrun hfar
    exact State.done_answers (execQueueInfo_far hrun hfar) hrun (by decide)
  case depth =>
    intro s e hrun hdepth
    have hx := execQmPrefetch_running hrun
    rw [if_neg (by omega)] at hx
    refine ⟨_, hx, State.prefetchDepth_done_f _, State.prefetchDepth_done_posts hrun _, execQmPrefetch_only hx,
      (execQmPrefetch_regs hx).mono ?_⟩
    simp [ringRegs]
  case deep =>
    intro s e hrun hdeep
    exact State.done_answers ((execQmPrefetch_running hrun).trans (by rw [if_pos hdeep])) hrun (by decide)
end

section
/-!
The queues of the controllers (R381 to R387): what a read of a pseudo-channel's state returns after each operation on it, which slot a
command bus takes, and what a request does as it arrives.
-/
namespace Sys2Proof.Machine

/-! ### Reads of a pseudo-channel after a write -/

theorem State.pcState_congr {s t : State} (h : t.pcs = s.pcs) (n : Nat) : t.pcState n = s.pcState n := by
  unfold State.pcState
  rw [h]

/-- What leaves the pseudo-channels alone leaves the reads of them alone. -/
theorem Only.pcState {ps : List Part} {s t : State} (h : Only ps s t) (g : Part.pcs ∉ ps) (n : Nat) : t.pcState n = s.pcState n :=
  State.pcState_congr (h.eq_pcs g) n

@[simp] theorem State.setF_pcState (s : State) (k : Fld) (v n : Nat) : (s.setF k v).pcState n = s.pcState n := State.pcState_congr rfl n
@[simp] theorem State.addF_pcState (s : State) (k : Fld) (v mx n : Nat) : (s.addF k v mx).pcState n = s.pcState n :=
  State.pcState_congr rfl n
@[simp] theorem State.emit_pcState (s : State) (o : Output) (n : Nat) : (s.emit o).pcState n = s.pcState n := State.pcState_congr rfl n

theorem State.setPc_pcs (s : State) (n : Nat) (x : Pc) : (s.setPc n x).pcs = Map.set pcCold s.pcs n x := State.setFs_keeps_pcs _ _

@[simp] theorem State.setPc_pcState (s : State) (n : Nat) (x : Pc) : (s.setPc n x).pcState n = x := by
  rw [State.pcState, State.setPc_pcs, Map.get_set_same]

theorem State.setPc_pcState_other (s : State) {n m : Nat} (x : Pc) (h : m ≠ n) : (s.setPc n x).pcState m = s.pcState m := by
  rw [State.pcState, State.setPc_pcs, Map.get_set_other _ _ _ h, ← State.pcState]

@[simp] theorem State.wakePc_pcState (s : State) (n m : Nat) : (s.wakePc n).pcState m = s.pcState m :=
  (State.wakePc_only s n).pcState (by decide) m

@[simp] theorem State.noteDrain_pcState (s : State) (n m : Nat) : (s.noteDrain n).pcState m = s.pcState m :=
  (State.noteDrain_only s n).pcState (by decide) m

@[simp] theorem State.noteDebt_pcState (s : State) (n m : Nat) : (s.noteDebt n).pcState m = s.pcState m :=
  (State.noteDebt_only s n).pcState (by decide) m

@[simp] theorem State.endOps_pcState (s : State) (m : Nat) : s.endOps.pcState m = s.pcState m :=
  (State.endOps_only s).pcState (by decide) m

theorem State.updRegulator_pcState (s : State) (g : Regulator) (n : Nat) : ({ s with regulator := g } : State).pcState n = s.pcState n :=
  State.pcState_congr rfl n

/-- A charged sector counts for its class on its pseudo-channel, beside what the regulator counts (R435). -/
theorem State.charge_eq {s : State} {n c : Nat} (h : ¬ 14 < c) : ∃ g, (s.charge n c).2 = { s.setPc n { s.pcState n with
    charged := Map.set (fun _ => 0) (s.pcState n).charged c (Map.get (fun _ => 0) (s.pcState n).charged c + 1) } with regulator := g } := by
  unfold State.charge
  rw [if_neg h]
  exact ⟨_, rfl⟩

/-- A charge is all that a sector changes of its pseudo-channel, and of no other. -/
theorem State.charge_pcState (s : State) (n c : Nat) :
    (∃ m, (s.charge n c).2.pcState n = { s.pcState n with charged := m }) ∧ ∀ k, k ≠ n → (s.charge n c).2.pcState k = s.pcState k := by
  by_cases h : 14 < c
  · have hnone : (s.charge n c).2 = s := by
      unfold State.charge
      rw [if_pos h]
    rw [hnone]
    exact ⟨⟨(s.pcState n).charged, rfl⟩, fun _ _ => rfl⟩
  · obtain ⟨g, hg⟩ := State.charge_eq (s := s) (n := n) h
    simp only [hg, State.updRegulator_pcState, State.setPc_pcState]
    exact ⟨⟨_, rfl⟩, fun _ hk => State.setPc_pcState_other _ _ hk⟩

/-! ### Fields of the controllers -/

/-- The counters of a pseudo-channel lie apart from its queue counts and its state (R405). -/
theorem mcPc_counters_apart (n : Nat) :
    mcPcMerge n ∉ [mcPcQueueWq n, mcPcQueueRq n, mcPcQueueWqPeak n, mcPcQueueRqPeak n] ∧ mcPcMerge n ∉ [mcPcStatusState n] ∧
      mcPcFwd n ∉ [mcPcStatusState n] := by
  simp only [List.mem_cons, List.not_mem_nil, or_false, not_or]
  refine ⟨⟨?_, ?_, ?_, ?_⟩, ?_, ?_⟩ <;> exact fld_ne (by omega)

/-! ### A request arrives (R381 to R383) -/

/-- A request that its pseudo-channel takes up comes to the queues of the controller. -/
theorem execMcRequestArrival_open {s : State} {r : MemReq} (hpc : r.pc ≤ 63) (hbank : r.bank ≤ 15) (hrow : r.row < s.bankRows)
    (hsector : r.sector ≤ 7) (hlive : s.pcLive r.pc = true) (hopen : s.portOpen r = true) :
    execMcRequestArrival r s = .next (s.arrive { r with hint := carriedHint r }) := by
  unfold execMcRequestArrival
  rw [if_neg]
  simp only [hlive, hopen, Bool.or_eq_true, decide_eq_true_eq, Bool.not_true, Bool.false_eq_true, or_false, not_or]
  omega

theorem execMcRequestArrival_shut {s : State} {r : MemReq} (hopen : s.portOpen r = false) : execMcRequestArrival r s = .next s := by
  unfold execMcRequestArrival
  rw [if_pos (by simp [hopen])]

/-- The state in which a request waits for an entry. -/
def State.waitsFor (s : State) (r : MemReq) : State :=
  (s.wakePc r.pc).setPc r.pc { s.pcState r.pc with waiting := (s.pcState r.pc).waiting ++ [r] }

section
variable {s : State} {r : MemReq} {w : MemEntry}

theorem State.arrive_eq (s : State) (r : MemReq) : s.arrive r =
    if waitsBehind r (s.pcState r.pc).waiting then s.waitsFor r else ((s.wakePc r.pc).acceptReq r).getD (s.waitsFor r) := by
  unfold State.arrive State.waitsFor
  simp only [State.wakePc_pcState]

/-- With no write to its sector and room, a request takes an entry (R381). -/
theorem State.arrive_enters (hpass : waitsBehind r (s.pcState r.pc).waiting = false) (hnone : (s.pcState r.pc).newestWrite r = none)
    (hroom : (s.pcState r.pc).hasRoom r = true) : s.arrive r = (s.wakePc r.pc).enterQueue r := by
  rw [State.arrive_eq, if_neg (by simp [hpass]), State.acceptReq]
  simp only [State.wakePc_pcState, hnone, hroom, if_true, Option.getD_some]

/-- With no write to its sector and no room, it waits, whether or not others wait before it. -/
theorem State.arrive_waits (hnone : (s.pcState r.pc).newestWrite r = none) (hroom : (s.pcState r.pc).hasRoom r = false) :
    s.arrive r = s.waitsFor r := by
  rw [State.arrive_eq, State.acceptReq]
  simp only [State.wakePc_pcState, hnone, hroom, Bool.false_eq_true, if_false, Option.getD_none, ite_self]

/-- A read is served from a queued write that holds its whole sector (R382). -/
theorem State.arrive_forwards (hread : r.write = false) (hpass : waitsBehind r (s.pcState r.pc).waiting = false)
    (hsome : (s.pcState r.pc).newestWrite r = some w) (hfull : fullMask w.req.words = true) :
    s.arrive r = ((s.wakePc r.pc).countForward r.pc).emit (.sector r.pc r.bank r.row r.sector w.req.words w.bad) := by
  rw [State.arrive_eq, if_neg (by simp [hpass]), State.acceptReq]
  simp only [State.wakePc_pcState, hsome, hread, hfull, Bool.not_false, Bool.and_self, if_true, Option.getD_some]

/-- A write goes into the queued write that it merges into (R383). -/
theorem State.arrive_merges (hwrite : r.write = true) (hpass : waitsBehind r (s.pcState r.pc).waiting = false)
    (hsome : (s.pcState r.pc).newestWrite r = some w) (hmerge : (s.pcState r.pc).mergesInto r w = true) :
    s.arrive r = (s.wakePc r.pc).mergeWrite r w := by
  rw [State.arrive_eq, if_neg (by simp [hpass]), State.acceptReq]
  simp only [State.wakePc_pcState, hsome, hwrite, hmerge, Bool.not_true, Bool.false_and, Bool.false_eq_true, if_false, Bool.and_self,
    if_true, Option.getD_some]

/-- A read stands last in the read queue, and nothing else of the queues changes. -/
theorem State.enterQueue_read (hread : r.write = false) :
    (∃ e, ((s.enterQueue r).pcState r.pc).reads = (s.pcState r.pc).reads ++ [e] ∧ e.req = r ∧ e.urgency = 0 ∧
      e.seq = (s.pcState r.pc).arrivals) ∧ ((s.enterQueue r).pcState r.pc).writes = (s.pcState r.pc).writes := by
  obtain ⟨⟨m, hm⟩, -⟩ := State.charge_pcState s r.pc r.cls
  unfold State.enterQueue
  simp only [State.noteDrain_pcState, State.setPc_pcState, hm, hread, Bool.false_eq_true, if_false]
  exact ⟨⟨_, rfl, rfl, rfl, rfl⟩, trivial⟩

theorem State.enterQueue_other (s : State) (r : MemReq) {n : Nat} (h : n ≠ r.pc) : (s.enterQueue r).pcState n = s.pcState n := by
  unfold State.enterQueue
  rw [State.noteDrain_pcState, State.setPc_pcState_other _ _ h, (State.charge_pcState s r.pc r.cls).2 n h]

/-- The newest write to a sector stands in the write queue. -/
theorem Pc.newestWrite_mem {x : Pc} (h : x.newestWrite r = some w) : w ∈ x.writes :=
  List.mem_of_mem_filter (List.mem_of_getLast? h)

/-- The older write keeps its place in the queue, and takes the words of the newer one. -/
theorem State.mergeWrite_queues (h : w ∈ (s.pcState r.pc).writes) :
    ((s.mergeWrite r w).pcState r.pc).reads = (s.pcState r.pc).reads ∧
      ((s.mergeWrite r w).pcState r.pc).writes.map (·.seq) = (s.pcState r.pc).writes.map (·.seq) ∧
      ∃ m ∈ ((s.mergeWrite r w).pcState r.pc).writes, m.seq = w.seq ∧ m.req.words = mergeWords w.req.words r.words := by
  unfold State.mergeWrite
  simp only [State.setPc_pcState, List.map_map]
  refine ⟨trivial, List.map_congr_left fun e _ => ?_, _, List.mem_map.mpr ⟨w, h, if_pos rfl⟩, rfl, rfl⟩
  simp only [Function.comp_apply]
  split
  · next he => exact he.symm
  · rfl

theorem State.mergeWrite_count (s : State) (r : MemReq) (w : MemEntry) :
    (s.mergeWrite r w).f (mcPcMerge r.pc) = min (s.f (mcPcMerge r.pc) + 1) (2 ^ 32 - 1) :=
  (State.setPc_regs _ r.pc _ _ (mcPc_counters_apart r.pc).1).trans (State.f_setF_same _ _ _)

/-! ### What an arrival leaves -/

theorem State.arrive_read (hread : r.write = false) (hpass : waitsBehind r (s.pcState r.pc).waiting = false)
    (hnone : (s.pcState r.pc).newestWrite r = none) (hroom : (s.pcState r.pc).hasRoom r = true) :
    (∃ e, ((s.arrive r).pcState r.pc).reads = (s.pcState r.pc).reads ++ [e] ∧ e.req = r ∧ e.urgency = 0 ∧
      e.seq = (s.pcState r.pc).arrivals) ∧ ((s.arrive r).pcState r.pc).writes = (s.pcState r.pc).writes ∧
      (∀ n, n ≠ r.pc → (s.arrive r).pcState n = s.pcState n) ∧ Only [.regs, .pcs, .regulator] s (s.arrive r) := by
  obtain ⟨hreads, hwrites⟩ := State.enterQueue_read (s := s.wakePc r.pc) hread
  rw [State.wakePc_pcState] at hreads hwrites
  rw [State.arrive_enters hpass hnone hroom]
  exact ⟨hreads, hwrites, fun n hn => by rw [State.enterQueue_other _ _ hn, State.wakePc_pcState], by simp⟩

theorem State.arrive_queued (hnone : (s.pcState r.pc).newestWrite r = none) (hroom : (s.pcState r.pc).hasRoom r = false) :
    ((s.arrive r).pcState r.pc).waiting = (s.pcState r.pc).waiting ++ [r] ∧
      ((s.arrive r).pcState r.pc).reads = (s.pcState r.pc).reads ∧ ((s.arrive r).pcState r.pc).writes = (s.pcState r.pc).writes ∧
      Only [.regs, .pcs] s (s.arrive r) := by
  rw [State.arrive_waits hnone hroom, State.waitsFor, State.setPc_pcState]
  exact ⟨rfl, rfl, rfl, by simp⟩

theorem State.arrive_merged (hwrite : r.write = true) (hpass : waitsBehind r (s.pcState r.pc).waiting = false)
    (hsome : (s.pcState r.pc).newestWrite r = some w) (hmerge : (s.pcState r.pc).mergesInto r w = true) :
    ((s.arrive r).pcState r.pc).reads = (s.pcState r.pc).reads ∧
      ((s.arrive r).pcState r.pc).writes.map (·.seq) = (s.pcState r.pc).writes.map (·.seq) ∧
      (∃ m ∈ ((s.arrive r).pcState r.pc).writes, m.seq = w.seq ∧ m.req.words = mergeWords w.req.words r.words) ∧
      (s.arrive r).f (mcPcMerge r.pc) = min (s.f (mcPcMerge r.pc) + 1) (2 ^ 32 - 1) ∧ Only [.regs, .pcs] s (s.arrive r) := by
  obtain ⟨hreads, hseqs, hwords⟩ := State.mergeWrite_queues (s := s.wakePc r.pc) (r := r) (w := w)
    (by rw [State.wakePc_pcState]; exact Pc.newestWrite_mem hsome)
  rw [State.wakePc_pcState] at hreads hseqs
  rw [State.arrive_merges hwrite hpass hsome hmerge]
  refine ⟨hreads, hseqs, hwords, ?_, by simp⟩
  rw [State.mergeWrite_count, State.wakePc_regs s r.pc _ (mcPc_counters_apart r.pc).2.1]

theorem State.arrive_forwarded (hread : r.write = false) (hpass : waitsBehind r (s.pcState r.pc).waiting = false)
    (hsome : (s.pcState r.pc).newestWrite r = some w) (hfull : fullMask w.req.words = true) :
    (s.arrive r).out = .sector r.pc r.bank r.row r.sector w.req.words w.bad :: s.out ∧ (s.arrive r).pcs = s.pcs ∧
      (s.arrive r).f (mcPcFwd r.pc) = min (s.f (mcPcFwd r.pc) + 1) (2 ^ 32 - 1) := by
  have honly : Only [.regs] s ((s.wakePc r.pc).countForward r.pc) := by simp
  rw [State.arrive_forwards hread hpass hsome hfull, State.emit_out, State.emit_keeps_pcs, honly.eq_out (by decide),
    honly.eq_pcs (by decide), State.emit_f, State.countForward, State.addF, State.f_setF_same,
    State.wakePc_regs s r.pc _ (mcPc_counters_apart r.pc).2.2]
  exact ⟨rfl, rfl, rfl⟩

end

end Sys2Proof.Machine
end

section
/-!
What a command slot of a pseudo-channel does (R387 to R390, R410): the column bus serves a request whose row is open, the row bus refreshes a
bank or opens a row and leaves every queue as it is.
-/
namespace Sys2Proof.Machine

/-! ### Queues that stay as they are -/

/-- From `s` to `t` what is queued and what waits in every controller is the same. -/
def SameQueues (s t : State) : Prop := ∀ m, (t.pcState m).reads = (s.pcState m).reads ∧ (t.pcState m).writes = (s.pcState m).writes ∧
  (t.pcState m).waiting = (s.pcState m).waiting

section
variable {s t u : State}

theorem SameQueues.of_pcState (h : ∀ m, t.pcState m = s.pcState m) : SameQueues s t := fun m => by rw [h]; exact ⟨rfl, rfl, rfl⟩

theorem SameQueues.of_only {ps : List Part} (h : Only ps s t) (g : Part.pcs ∉ ps) : SameQueues s t := .of_pcState (h.pcState g)

theorem SameQueues.trans (h : SameQueues s t) (g : SameQueues t u) : SameQueues s u := fun m =>
  ⟨(g m).1.trans (h m).1, (g m).2.1.trans (h m).2.1, (g m).2.2.trans (h m).2.2⟩

/-- A pseudo-channel whose rows, refreshes or charges alone are replaced. -/
theorem State.setPc_sameQueues {n : Nat} {x : Pc} (hr : x.reads = (s.pcState n).reads) (hw : x.writes = (s.pcState n).writes)
    (hwait : x.waiting = (s.pcState n).waiting) : SameQueues s (s.setPc n x) := by
  intro m
  by_cases h : m = n
  · subst h
    rw [State.setPc_pcState]
    exact ⟨hr, hw, hwait⟩
  · rw [State.setPc_pcState_other _ _ h]
    exact ⟨rfl, rfl, rfl⟩

theorem State.countTableRow_sameQueues (s : State) (a : RowAt) : SameQueues s (s.countTableRow a) :=
  .of_only (State.countTableRow_only s a) (by decide)

theorem State.activateRow_sameQueues (s : State) (a : RowAt) : SameQueues s (s.activateRow a) := by
  have hset : ∀ l, SameQueues s ((s.addF (mcPcAct a.pc) 1 (2 ^ 32 - 1)).setPc a.pc { s.pcState a.pc with lastAct := l }) := fun _ =>
    SameQueues.trans (.of_pcState fun _ => rfl) (State.setPc_sameQueues rfl rfl rfl)
  unfold State.activateRow
  dsimp only
  split
  · exact (hset _).trans (State.countTableRow_sameQueues _ a)
  · exact hset _

theorem State.activate_sameQueues (s : State) (r : MemReq) : SameQueues s (s.activate r) := by
  have hset := (State.activateRow_sameQueues s (placeOfReq r)).trans (State.setPc_sameQueues (n := r.pc) (x :=
    { (s.activateRow (placeOfReq r)).pcState r.pc with
      openRows := Map.set (fun _ => none) ((s.activateRow (placeOfReq r)).pcState r.pc).openRows r.bank (some ⟨r.row, false, false⟩)
      written := Map.set (fun _ => 0) ((s.activateRow (placeOfReq r)).pcState r.pc).written r.bank 0 }) rfl rfl rfl)
  unfold State.activate
  dsimp only
  split
  · exact hset.trans (.of_only (State.countStaging_only _ _ _ _) (by decide))
  · exact hset

theorem State.refreshBank_pcState (s : State) (n b : Nat) : (s.refreshBank n b).pcState n = { s.pcState n with
    debt := Map.set (fun _ => 0) (s.pcState n).debt b (Map.get (fun _ => 0) (s.pcState n).debt b - 1)
    openRows := Map.set (fun _ => none) (s.pcState n).openRows b none
    written := Map.set (fun _ => 0) (s.pcState n).written b 0 } := by
  unfold State.refreshBank
  dsimp only
  split <;> simp

theorem State.refreshBank_pcState_other (s : State) {n m : Nat} (b : Nat) (h : m ≠ n) : (s.refreshBank n b).pcState m = s.pcState m := by
  unfold State.refreshBank
  dsimp only
  split <;> simp [State.setPc_pcState_other, h]

theorem State.refreshBank_sameQueues (s : State) (n b : Nat) : SameQueues s (s.refreshBank n b) := by
  intro m
  by_cases h : m = n
  · subst h
    rw [State.refreshBank_pcState]
    exact ⟨rfl, rfl, rfl⟩
  · rw [State.refreshBank_pcState_other s b h]
    exact ⟨rfl, rfl, rfl⟩

theorem State.afterAccess_sameQueues (s : State) (r : MemReq) : SameQueues s (s.afterAccess r) :=
  State.setPc_sameQueues rfl rfl rfl

theorem State.issueRow_sameQueues (s : State) (n : Nat) (c : Option MemSlot) (e : Option MemEntry) : SameQueues s (s.issueRow n c e) := by
  unfold State.issueRow
  split
  · exact State.refreshBank_sameQueues _ _ _
  · exact State.activate_sameQueues _ _
  · exact .of_pcState fun _ => rfl

end

/-! ### What has gone out stays -/

theorem State.vector_sent {s : State} {o : Output} (h : o ∈ s.out) (v : Nat) : o ∈ (s.vector v).out := by
  obtain ⟨-, hout | ⟨hout, -⟩⟩ := State.vector_out s v
  · rwa [hout]
  · rw [hout]
    exact List.mem_cons_of_mem _ h

theorem State.report_sent {s : State} {o : Output} (h : o ∈ s.out) (e : LogEvent) : o ∈ (s.report e).out := by
  have hentry : o ∈ (s.writeEntry e).out := by rwa [State.writeEntry_keeps_out]
  have halert : o ∈ (if e.severity = 3 then (s.writeEntry e).setF elStatusAlertPend 1 else s.writeEntry e).out := by
    split
    · exact hentry
    · exact hentry
  unfold State.report
  dsimp only
  split
  · exact halert
  · exact State.vector_sent halert _

theorem State.countStaging_sent {s : State} {o : Output} (h : o ∈ s.out) (pc bank row : Nat) :
    o ∈ (s.countStaging pc bank row).out := by
  unfold State.countStaging
  dsimp only
  split
  · split <;> exact h
  · split
    · refine State.report_sent ?_ _
      exact h
    · exact h

theorem State.activate_sent {s : State} {o : Output} (h : o ∈ s.out) (r : MemReq) : o ∈ (s.activate r).out := by
  have hrow : o ∈ (s.activateRow (placeOfReq r)).out := by rwa [(State.activateRow_only s _).eq_out (by decide)]
  unfold State.activate
  dsimp only
  split
  · exact State.countStaging_sent (by rwa [State.setPc_keeps_out]) _ _ _
  · rwa [State.setPc_keeps_out]

theorem State.issueRow_sent {s : State} {o : Output} (h : o ∈ s.out) (n : Nat) (c : Option MemSlot) (e : Option MemEntry) :
    o ∈ (s.issueRow n c e).out := by
  unfold State.issueRow
  split
  · rwa [(State.refreshBank_only s n _).eq_out (by decide)]
  · exact State.activate_sent h _
  · exact h

/-! ### The slot that a bus takes (R387) -/

/-- A choice that goes through a list and keeps what it has or takes the present element takes one of the list. -/
theorem mem_of_foldl_choice {α β : Type} {f : Option (α × β) → α → Option (α × β)} (hf : ∀ b a, f b a = b ∨ ∃ k, f b a = some (a, k))
    {l : List α} {b : Option (α × β)} {c : α} (h : (l.foldl f b).map (·.1) = some c) : c ∈ l ∨ b.map (·.1) = some c := by
  induction l generalizing b with
  | nil => exact .inr h
  | cons a l ih =>
    rcases ih h with hc | hc
    · exact .inl (List.mem_cons_of_mem a hc)
    · rcases hf b a with hb | ⟨k, hb⟩
      · exact .inr (hb ▸ hc)
      · rw [hb] at hc
        exact .inl (List.mem_cons.mpr (.inl (Option.some.inj hc).symm))

theorem State.chooseSlot_mem {s : State} {n : Nat} {l : List MemSlot} {c : MemSlot} (h : s.chooseSlot n l = some c) : c ∈ l := by
  refine (mem_of_foldl_choice (fun b a => ?_) h).resolve_right (by simp)
  split
  · exact .inl rfl
  · next k _ =>
    split
    · exact .inr ⟨k, rfl⟩
    · split
      · exact .inr ⟨k, rfl⟩
      · exact .inl rfl

theorem State.onRowBus_entry {s : State} {n : Nat} {c : MemSlot} {e : MemEntry} (h : (s.pcState n).slotEntry c = some e) :
    s.onRowBus n c = !(s.pcState n).rowHit e.req := by
  unfold State.onRowBus
  rw [h]

/-- The column bus takes a request only where its row is open. -/
theorem State.rowHit_of_column {s : State} {n : Nat} {l : List MemSlot} {c : MemSlot} {e : MemEntry}
    (h : s.chooseSlot n (l.filter (fun c => !s.onRowBus n c)) = some c) (he : (s.pcState n).slotEntry c = some e) :
    (s.pcState n).rowHit e.req = true := by
  have hbus := (List.mem_filter.mp (State.chooseSlot_mem h)).2
  simpa [State.onRowBus_entry he] using hbus

theorem State.serveWindows_none {s : State} (h : s.windows = []) : s.serveWindows = s := by
  unfold State.serveWindows
  rw [h, List.foldl_nil, ← h]

/-- A slot of a pseudo-channel that is awake and for which no window access waits: both buses choose as the slot begins. -/
theorem execMcCommandIssue_awake {s : State} {n : Nat} {l : List MemSlot} (hn : n ≤ 63) (hwin : s.windows = []) (hlive : s.pcLive n = true)
    (hasleep : s.pcAsleep n = false) (hstack : s.stackAsleep = false) :
    execMcCommandIssue n l s = .next ((s.issueColumn n (s.chooseSlot n (l.filter (fun c => !s.onRowBus n c)))).issueRow n
      (s.chooseSlot n (l.filter (s.onRowBus n)))
      ((s.chooseSlot n (l.filter (s.onRowBus n))).bind (s.pcState n).slotEntry)).endOps := by
  unfold execMcCommandIssue
  rw [State.serveWindows_none hwin]
  dsimp only
  rw [if_neg]
  simp only [hlive, hasleep, hstack, Bool.or_eq_true, decide_eq_true_eq, Bool.not_true, Bool.false_eq_true, or_false]
  omega

/-! ### The column bus (R388 to R390, R410) -/

/-- The entry of an issued request leaves its queue, and may have become late. -/
def State.takeEntry (s : State) (n : Nat) (e : MemEntry) : State :=
  (s.countLate n e).setPc n { s.pcState n with reads := (s.pcState n).reads.filter (fun o => o.seq != e.seq),
                                               writes := (s.pcState n).writes.filter (fun o => o.seq != e.seq) }

/-- The access to the sector: a write lands, a read delivers its words. -/
def State.accessSector (s : State) (n : Nat) (e : MemEntry) : State :=
  if e.req.write then s.landEntry e
  else s.emit (.sector n e.req.bank e.req.row e.req.sector (s.sectorWords e.req) (s.poisonedIn e))

/-- With its row open, a request is issued without an activation. -/
theorem State.issueReq_hit {s : State} {n : Nat} {e : MemEntry} (hhit : (s.pcState n).rowHit e.req = true) :
    s.issueReq n e = ((((s.takeEntry n e).accessSector n e).afterAccess e.req).noteDrain n).admitWaiting n := by
  unfold State.issueReq State.takeEntry State.accessSector
  simp only [hhit, if_true]

theorem State.countLate_eq (s : State) (n : Nat) (e : MemEntry) : ∃ a b, s.countLate n e = { s with free := a, regs := b } := by
  unfold State.countLate
  split
  · exact ⟨_, _, rfl⟩
  · exact ⟨s.free, s.regs, rfl⟩

/-- What the stack holds is read the same. -/
theorem State.takeEntry_eq (s : State) (n : Nat) (e : MemEntry) :
    ∃ a b c, s.takeEntry n e = { s with free := a, regs := b, pcs := c } := by
  obtain ⟨a, b, h⟩ := State.countLate_eq s n e
  unfold State.takeEntry
  rw [h]
  exact ⟨_, _, _, rfl⟩

theorem State.takeEntry_queues (s : State) (n : Nat) (e : MemEntry) :
    ((s.takeEntry n e).pcState n).reads = (s.pcState n).reads.filter (fun o => o.seq != e.seq) ∧
      ((s.takeEntry n e).pcState n).writes = (s.pcState n).writes.filter (fun o => o.seq != e.seq) ∧
      ((s.takeEntry n e).pcState n).waiting = (s.pcState n).waiting := by
  rw [State.takeEntry, State.setPc_pcState]
  exact ⟨rfl, rfl, rfl⟩

theorem State.accessSector_only (s : State) (n : Nat) (e : MemEntry) : Only [.out, .mem, .integrity] s (s.accessSector n e) := by
  unfold State.accessSector
  split <;> simp

/-- Where no request waits for an entry, none is admitted. -/
theorem State.admitWaiting_none {s : State} {n : Nat} (h : (s.pcState n).waiting = []) : s.admitWaiting n = s.setPc n (s.pcState n) := by
  unfold State.admitWaiting
  dsimp only
  rw [h, List.foldl_nil, ← h]

/-- After the access the row may close and the drain may end; what is queued and what the access has done stay. -/
theorem State.settle_after_access {s : State} {r : MemReq} {n : Nat} (hwait : (s.pcState n).waiting = []) :
    SameQueues s (((s.afterAccess r).noteDrain n).admitWaiting n) ∧ Only [.regs, .pcs] s (((s.afterAccess r).noteDrain n).admitWaiting n) := by
  have hsame : SameQueues s ((s.afterAccess r).noteDrain n) :=
    (State.afterAccess_sameQueues s r).trans (.of_only (State.noteDrain_only _ n) (by decide))
  rw [State.admitWaiting_none ((hsame n).2.2.trans hwait)]
  exact ⟨hsame.trans (State.setPc_sameQueues rfl rfl rfl), by simp⟩

/-- A request is issued with its row open and none waiting: its entry is gone, and its sector has been accessed. -/
theorem State.issueReq_open {s : State} {n : Nat} {e : MemEntry} (hhit : (s.pcState n).rowHit e.req = true)
    (hwait : (s.pcState n).waiting = []) :
    ((s.issueReq n e).pcState n).reads = (s.pcState n).reads.filter (fun o => o.seq != e.seq) ∧
      ((s.issueReq n e).pcState n).writes = (s.pcState n).writes.filter (fun o => o.seq != e.seq) ∧
      Only [.regs, .pcs] ((s.takeEntry n e).accessSector n e) (s.issueReq n e) := by
  obtain ⟨hreads, hwrites, hwaiting⟩ := State.takeEntry_queues s n e
  have hpcs := (State.accessSector_only (s.takeEntry n e) n e).pcState (by decide) n
  obtain ⟨hsame, honly⟩ := State.settle_after_access (s := (s.takeEntry n e).accessSector n e) (r := e.req) (n := n)
    (by rw [hpcs, hwaiting, hwait])
  obtain ⟨hr, hw, -⟩ := hsame n
  rw [State.issueReq_hit hhit]
  exact ⟨by rw [hr, hpcs, hreads], by rw [hw, hpcs, hwrites], honly⟩

/-- A read delivers the words of its sector. -/
theorem State.accessSector_read {s : State} {n : Nat} {e : MemEntry} (hread : e.req.write = false) :
    (s.takeEntry n e).accessSector n e =
      (s.takeEntry n e).emit (.sector n e.req.bank e.req.row e.req.sector (s.sectorWords e.req) (s.poisonedIn e)) := by
  obtain ⟨a, b, c, h⟩ := State.takeEntry_eq s n e
  unfold State.accessSector
  rw [hread, h]
  rfl

theorem Integrity.poisoned_of_poison {x : Integrity} {a b : Nat} (h : b ∈ x.poisoned) : b ∈ (x.poison a).poisoned := by
  unfold Integrity.poison
  dsimp only
  split
  · exact h
  · exact List.mem_cons_of_mem _ h

theorem Integrity.poison_poisoned (x : Integrity) (a : Nat) : a ∈ (x.poison a).poisoned := by
  unfold Integrity.poison
  dsimp only
  split
  · next h => exact List.contains_iff_mem.mp h
  · exact List.mem_cons_self

/-- Every word of a list that is poisoned is poisoned after it. -/
theorem Integrity.foldl_poison {l : List Nat} {x : Integrity} {a : Nat} (h : a ∈ l ∨ a ∈ x.poisoned) :
    a ∈ (l.foldl Integrity.poison x).poisoned := by
  induction l generalizing x with
  | nil => exact h.resolve_left (by simp)
  | cons b l ih =>
    refine ih ?_
    rcases h with h | h
    · rcases List.mem_cons.mp h with rfl | h
      · exact .inr (Integrity.poison_poisoned x a)
      · exact .inl h
    · exact .inr (Integrity.poisoned_of_poison h)

/-- A write of one word stores its eight bytes, and stores them poisoned where the word could not be read in the queue. -/
theorem State.landEntry_word {s : State} {e : MemEntry} {k v : Nat} (hwords : e.req.words = [(k, v)]) (hk : k < 32) :
    (s.landEntry e).mem = Memory.writeBytes s.mem (s.sectorBase e.req.pc e.req.bank e.req.row e.req.sector + 8 * k) (leBytes 8 v) ∧
      (k ∈ e.bad → s.sectorWord e.req k ∈ (s.landEntry e).integrity.poisoned) := by
  constructor
  · unfold State.landEntry State.landWords
    simp only [hwords, List.foldl_cons, List.foldl_nil, if_pos hk]
    rfl
  · intro hbad
    refine Integrity.foldl_poison (.inl (List.mem_map.mpr ⟨k, List.mem_filter.mpr ⟨hbad, ?_⟩, rfl⟩))
    simp [hwords]

theorem State.accessSector_word {s : State} {n : Nat} {e : MemEntry} {k v : Nat} (hwrite : e.req.write = true)
    (hwords : e.req.words = [(k, v)]) (hk : k < 32) :
    ((s.takeEntry n e).accessSector n e).mem =
        Memory.writeBytes s.mem (s.sectorBase e.req.pc e.req.bank e.req.row e.req.sector + 8 * k) (leBytes 8 v) ∧
      (k ∈ e.bad → s.sectorWord e.req k ∈ ((s.takeEntry n e).accessSector n e).integrity.poisoned) := by
  have hland := State.landEntry_word (s := s.takeEntry n e) hwords hk
  unfold State.accessSector
  rw [hwrite]
  obtain ⟨a, b, c, h⟩ := State.takeEntry_eq s n e
  rw [h] at hland ⊢
  exact hland

/-- The stack reads as it was last written. -/
theorem State.stackBytes_written {s : State} {m : List Host.Cell} {a : Nat} {b : List Byte} (h : s.mem = Memory.writeBytes m a b) :
    s.stackBytes a b.length = b := by
  have hbyte : ∀ i (hi : i < b.length), s.stackByte (a + i) = b[i] := fun i hi => by
    rw [State.stackByte, h, Memory.read_writeBytes m a i b hi]
  unfold State.stackBytes
  refine List.ext_getElem (by simp) fun i _ hi => ?_
  rw [List.getElem_map, List.getElem_range, hbyte i hi]

/-! ### The row bus -/

theorem State.endOps_idle {s : State} (hengines : s.engineQueues = []) (hports : ∀ p, (s.port p).awaiting = []) : s.endOps = s := by
  have hqueue : ∀ n, s.engineQueue n = [] := fun n => by rw [State.engineQueue, hengines]; rfl
  have hfold : (List.range 64).foldl (fun t n => if (t.engineQueue n).any s.opDone then
      t.setEngine n ((t.engineQueue n).filter (fun o => !s.opDone o)) else t) s = s :=
    List.foldl_fixed' (fun n => by rw [hqueue]; rfl) _
  unfold State.endOps
  dsimp only
  rw [hfold]
  simp only [hports, List.filter_nil]
  rfl

/-- A refresh makes up one interval and closes the row of its bank (R393). -/
theorem State.refreshBank_bank (s : State) (n b : Nat) :
    Map.get (fun _ => 0) ((s.refreshBank n b).pcState n).debt b = Map.get (fun _ => 0) (s.pcState n).debt b - 1 ∧
      Map.get (fun _ => none) ((s.refreshBank n b).pcState n).openRows b = none := by
  rw [State.refreshBank_pcState]
  dsimp only
  rw [Map.get_set_same, Map.get_set_same]
  exact ⟨rfl, rfl⟩

/-- The row of an activation is open in its bank. -/
theorem State.activate_openRow (s : State) (r : MemReq) :
    Map.get (fun _ => none) ((s.activate r).pcState r.pc).openRows r.bank = some ⟨r.row, false, false⟩ := by
  unfold State.activate
  dsimp only
  split
  · rw [(State.countStaging_only _ _ _ _).pcState (by decide), State.setPc_pcState]
    dsimp only
    rw [Map.get_set_same]
  · rw [State.setPc_pcState]
    dsimp only
    rw [Map.get_set_same]

theorem State.flagRow_regs (s : State) (a : RowAt) : OnlyRegs [mvRowsFlagged, mvTierReplKib, mvTierHomeKib] s (s.flagRow a) := by
  simp [State.flagRow]

theorem State.countTableRow_regs (s : State) (a : RowAt) :
    OnlyRegs [mvRowsFlagged, mvTierReplKib, mvTierHomeKib] s (s.countTableRow a) := by
  unfold State.countTableRow State.setRowCount
  dsimp only
  split
  · exact OnlyRegs.trans (OnlyRegs.of_eq rfl |>.mono (List.nil_subset _)) (State.flagRow_regs _ _)
  · exact OnlyRegs.of_eq rfl |>.mono (List.nil_subset _)

/-- The fields that follow an activation, but for its own count. -/
def activateRegs (n : Nat) : List Fld :=
  [mcPcQueueWq n, mcPcQueueRq n, mcPcQueueWqPeak n, mcPcQueueRqPeak n, mvRowsFlagged, mvTierReplKib, mvTierHomeKib,
    mcStageTrackOvf (n / 4), mcStagePeak (n / 4), mcStageOver (n / 4), elFirst, elNext, elLost, elStatusAlertPend]

theorem mcPcAct_apart (n : Nat) : mcPcAct n ∉ activateRegs n := by
  simp only [activateRegs, List.mem_cons, List.not_mem_nil, or_false, not_or]
  refine ⟨?_, ?_, ?_, ?_, ?_, ?_, ?_, ?_, ?_, ?_, ?_, ?_, ?_, ?_⟩ <;> exact fld_ne (by unfold mcPcBase; omega)

theorem State.activate_regs (s : State) (r : MemReq) :
    OnlyRegs (activateRegs r.pc) (s.addF (mcPcAct r.pc) 1 (2 ^ 32 - 1)) (s.activate r) := by
  have hrow : OnlyRegs (activateRegs r.pc) (s.addF (mcPcAct r.pc) 1 (2 ^ 32 - 1)) (s.activateRow (placeOfReq r)) := by
    unfold State.activateRow
    dsimp only
    split
    · exact ((State.setPc_regs _ r.pc _).mono (by simp [activateRegs])).trans
        ((State.countTableRow_regs _ _).mono (by simp [activateRegs]))
    · exact (State.setPc_regs _ r.pc _).mono (by simp [activateRegs])
  unfold State.activate
  dsimp only
  refine hrow.trans ?_
  split
  · exact ((State.setPc_regs _ r.pc _).mono (by simp [activateRegs])).trans
      ((State.countStaging_regs _ _ _ _).mono (by simp [activateRegs]))
  · exact (State.setPc_regs _ r.pc _).mono (by simp [activateRegs])

/-- An activation counts once (R405). -/
theorem State.activate_count (s : State) (r : MemReq) :
    (s.activate r).f (mcPcAct r.pc) = min (s.f (mcPcAct r.pc) + 1) (2 ^ 32 - 1) :=
  (State.activate_regs s r _ (mcPcAct_apart r.pc)).trans (State.f_setF_same _ _ _)

/-- The end of an operation changes no field but the egress counts of ports and the counts of the table engines. -/
theorem State.endOps_f {s : State} {k : Fld} (hport : ∀ p, k ≠ rlEgressBytes p) (hengine : k ∉ [teLookup, teMiss, teMemerr, teCntOps]) :
    s.endOps.f k = s.f k := by
  have hfinish : ∀ (l : List Req) (t : State), (l.foldl State.finishTable t).f k = t.f k := by
    intro l
    induction l with
    | nil => exact fun _ => rfl
    | cons r l ih =>
      exact fun t => (ih _).trans (State.finishTable_regs t r k (fun h => (List.mem_cons.mp h).elim (hport _) hengine))
  have hengines : OnlyRegs [] s ((List.range 64).foldl (fun t n => if (t.engineQueue n).any s.opDone then
      t.setEngine n ((t.engineQueue n).filter (fun o => !s.opDone o)) else t) s) := by
    refine OnlyRegs.foldlI _ _ (fun t n => ?_) (OnlyRegs.refl _ _)
    split
    · exact OnlyRegs.of_eq rfl
    · exact OnlyRegs.refl _ _
  exact (hfinish _ _).trans (hengines k (by simp))

theorem mcPcAct_not_ended {n : Nat} : (∀ p, mcPcAct n ≠ rlEgressBytes p) ∧ mcPcAct n ∉ [teLookup, teMiss, teMemerr, teCntOps] := by
  refine ⟨fun p h => ?_, ?_⟩
  · have hplace := congrArg regPlace h
    rw [(reply_places p).1] at hplace
    simp only [regPlace, mcPcAct, mcPcBase, fld] at hplace
    omega
  · simp only [List.mem_cons, List.not_mem_nil, or_false, not_or]
    refine ⟨?_, ?_, ?_, ?_⟩ <;> exact fld_ne (by unfold mcPcBase; omega)

end Sys2Proof.Machine
end

section
/-!
The controllers serve requests (R300, R381 to R387, R402): the clauses of O39.
-/
namespace Sys2Proof.Machine

theorem execRequestUrgencyStep_read {s : State} {n i : Nat} {e : MemEntry} (he : (s.pcState n).reads[i]? = some e) (hurgent : e.urgency < 3) :
    Does (.requestUrgencyStep n false i) s (fun t => (∃ f, (t.pcState n).reads[i]? = some f ∧ f.req = e.req ∧
      f.urgency = e.urgency + 1) ∧ (t.pcState n).writes = (s.pcState n).writes ∧ Only [.regs, .pcs] s t) := by
  have hi : i < (s.pcState n).reads.length := (List.getElem?_eq_some_iff.mp he).1
  have hx : ∃ b t, execRequestUrgencyStep n false i s = .next t ∧
      t.pcState n = { s.pcState n with reads := (s.pcState n).reads.set i { e with urgency := min (e.urgency + 1) 3, late := b } } := by
    unfold execRequestUrgencyStep
    simp only [Bool.false_eq_true, if_false, he]
    refine ⟨e.late || (decide (e.urgency = 2) && !e.late), _, rfl, ?_⟩
    split
    · rw [State.addF_pcState, State.setPc_pcState]
    · rw [State.setPc_pcState]
  obtain ⟨b, t, hx, hpc⟩ := hx
  refine ⟨t, hx, ?_, by rw [hpc], execRequestUrgencyStep_only hx⟩
  rw [hpc]
  exact ⟨_, List.getElem?_set_self hi, rfl, Nat.min_eq_left hurgent⟩

/-- The counts of a window are cleared, what was pinned before is free again, and what is held at its end is counted (R300, R402). -/
theorem execActivationWindowEnd_clears (s : State) : Does .activationWindowEnd s (fun t =>
    t.marver = { s.marver with rowCounts := [], nodes := s.marver.nodes.map (fun n => { n with pinned := n.pinned - 1 }) } ∧
    t.stageRows = [] ∧ t.f mvRowsHeldAtEnd = min (s.f mvRowsHeldAtEnd +
      (s.marver.rowCounts.filter (fun c => c.flagged && !s.rowResident c)).length) 65535 ∧
    Only [.regs, .marver, .stageRows] s t ∧ OnlyRegs [mvRowsHeldAtEnd] s t) :=
  ⟨_, rfl, rfl, rfl, State.f_setF_same _ _ _, execActivationWindowEnd_only rfl, State.endWindow_regs s⟩

section
variable {s : State} {n : Nat} {l : List MemSlot} {c : MemSlot} {e : MemEntry}

/-- The state after a command slot whose column bus serves entry `e`. -/
def State.columnServed (s : State) (n : Nat) (l : List MemSlot) (e : MemEntry) : State :=
  ((s.issueReq n e).issueRow n (s.chooseSlot n (l.filter (s.onRowBus n)))
    ((s.chooseSlot n (l.filter (s.onRowBus n))).bind (s.pcState n).slotEntry)).endOps

/-- Whatever the row bus takes besides, the column bus has served its entry. -/
theorem execMcCommandIssue_column (hn : n ≤ 63) (hwin : s.windows = []) (hlive : s.pcLive n = true) (hasleep : s.pcAsleep n = false)
    (hstack : s.stackAsleep = false) (hslot : s.chooseSlot n (l.filter (fun c => !s.onRowBus n c)) = some c)
    (he : (s.pcState n).slotEntry c = some e) : execMcCommandIssue n l s = .next (s.columnServed n l e) := by
  rw [execMcCommandIssue_awake hn hwin hlive hasleep hstack, hslot]
  unfold State.issueColumn State.columnServed
  rw [Option.bind_some, he]

theorem State.columnServed_queues (hhit : (s.pcState n).rowHit e.req = true) (hwait : (s.pcState n).waiting = []) :
    ((s.columnServed n l e).pcState n).reads = (s.pcState n).reads.filter (fun o => o.seq != e.seq) ∧
      ((s.columnServed n l e).pcState n).writes = (s.pcState n).writes.filter (fun o => o.seq != e.seq) := by
  obtain ⟨hreads, hwrites, -⟩ := State.issueReq_open hhit hwait
  obtain ⟨hr, hw, -⟩ := State.issueRow_sameQueues (s.issueReq n e) n (s.chooseSlot n (l.filter (s.onRowBus n)))
    ((s.chooseSlot n (l.filter (s.onRowBus n))).bind (s.pcState n).slotEntry) n
  rw [State.columnServed, State.endOps_pcState]
  exact ⟨hr.trans hreads, hw.trans hwrites⟩

/-- What the access has made of the memory stays to the end of the slot. -/
theorem State.columnServed_memory (hhit : (s.pcState n).rowHit e.req = true) (hwait : (s.pcState n).waiting = []) :
    (s.columnServed n l e).mem = ((s.takeEntry n e).accessSector n e).mem ∧
      (s.columnServed n l e).integrity = ((s.takeEntry n e).accessSector n e).integrity ∧
      ∀ o ∈ ((s.takeEntry n e).accessSector n e).out, o ∈ (s.columnServed n l e).out := by
  obtain ⟨-, -, honly⟩ := State.issueReq_open hhit hwait
  have hrow := State.issueRow_only (s.issueReq n e) n (s.chooseSlot n (l.filter (s.onRowBus n)))
    ((s.chooseSlot n (l.filter (s.onRowBus n))).bind (s.pcState n).slotEntry)
  refine ⟨?_, ?_, fun o ho => ?_⟩
  · rw [State.columnServed, (State.endOps_only _).eq_mem (by decide), hrow.eq_mem (by decide), honly.eq_mem (by decide)]
  · rw [State.columnServed, (State.endOps_only _).eq_integrity (by decide), hrow.eq_integrity (by decide), honly.eq_integrity (by decide)]
  · rw [State.columnServed, (State.endOps_only _).eq_out (by decide)]
    exact State.issueRow_sent (by rwa [honly.eq_out (by decide)]) _ _ _

/-- With no column command, the slot is what the row bus does, and the operations that end. -/
theorem execMcCommandIssue_row (hn : n ≤ 63) (hwin : s.windows = []) (hlive : s.pcLive n = true) (hasleep : s.pcAsleep n = false)
    (hstack : s.stackAsleep = false) (hslot : s.chooseSlot n (l.filter (s.onRowBus n)) = some c)
    (hcol : s.chooseSlot n (l.filter (fun c => !s.onRowBus n c)) = none) :
    execMcCommandIssue n l s = .next (s.issueRow n (some c) ((s.pcState n).slotEntry c)).endOps := by
  rw [execMcCommandIssue_awake hn hwin hlive hasleep hstack, hslot, hcol]
  rfl

end

end Sys2Proof.Machine

open Sys2Proof Sys2Proof.Machine

/-- Settles O39: the column bus serves a request in one access whatever the row bus does beside it, and the row bus leaves the queues as
they are. Read data return in the command that issues the read, and each bus takes at most one command of a slot (log entry 28). -/
theorem controllersServeRequests : Obligations.ControllersServeRequests := by
  unfold Obligations.ControllersServeRequests
  refine ⟨?shut, ?enters, ?waits, ?merges, ?forwards, ?urgency, ?read, ?write, ?refresh, ?opens, ?windowEnd⟩
  case shut =>
    intro s r _ _ _ _ _ hopen
    exact ⟨s, execMcRequestArrival_shut hopen, rfl⟩
  case enters =>
    intro s r hpc hbank hrow hsector hlive hopen hread hpass hnone hroom
    exact ⟨_, execMcRequestArrival_open hpc hbank hrow hsector hlive hopen,
      State.arrive_read (r := { r with hint := carriedHint r }) hread hpass hnone hroom⟩
  case waits =>
    intro s r hpc hbank hrow hsector hlive hopen hnone hroom
    exact ⟨_, execMcRequestArrival_open hpc hbank hrow hsector hlive hopen,
      State.arrive_queued (r := { r with hint := carriedHint r }) hnone hroom⟩
  case merges =>
    intro s r w hpc hbank hrow hsector hlive hopen hwrite hpass hsome hmerge
    exact ⟨_, execMcRequestArrival_open hpc hbank hrow hsector hlive hopen,
      State.arrive_merged (r := { r with hint := carriedHint r }) hwrite hpass hsome hmerge⟩
  case forwards =>
    intro s r w hpc hbank hrow hsector hlive hopen hread hpass hsome hfull
    exact ⟨_, execMcRequestArrival_open hpc hbank hrow hsector hlive hopen,
      State.arrive_forwarded (r := { r with hint := carriedHint r }) hread hpass hsome hfull⟩
  case urgency => exact fun s n i e he hurgent => execRequestUrgencyStep_read he hurgent
  case read =>
    intro s n i l e hn hwin hlive hasleep hstack hslot he _ hread hwait
    have hhit := State.rowHit_of_column hslot he
    obtain ⟨hmem, -, hout⟩ := State.columnServed_memory (l := l) hhit hwait
    rw [State.accessSector_read hread] at hmem hout
    obtain ⟨a, b, c, htake⟩ := State.takeEntry_eq s n e
    refine ⟨_, execMcCommandIssue_column hn hwin hlive hasleep hstack hslot he, (State.columnServed_queues hhit hwait).1,
      hout _ List.mem_cons_self, ?_⟩
    rw [hmem, htake]
    rfl
  case write =>
    intro s n i k v l e hn hwin hlive hasleep hstack hslot he hpc hwrite hwords hk hwait
    have hhit := State.rowHit_of_column hslot he
    obtain ⟨hmem, hbad, -⟩ := State.columnServed_memory (l := l) hhit hwait
    obtain ⟨hland, hpoison⟩ := State.accessSector_word (s := s) (n := n) hwrite hwords hk
    refine ⟨_, execMcCommandIssue_column hn hwin hlive hasleep hstack hslot he, (State.columnServed_queues hhit hwait).2, ?_, ?_⟩
    · have hbytes := State.stackBytes_written (hmem.trans hland)
      rwa [length_leBytes, hpc] at hbytes
    · rwa [hbad]
  case refresh =>
    intro s n b l hn hwin hlive hasleep hstack hslot hcol hengines hports
    have hx := execMcCommandIssue_row hn hwin hlive hasleep hstack hslot hcol
    have honly := State.refreshBank_only s n b
    rw [show s.issueRow n (some (.refresh b)) ((s.pcState n).slotEntry (.refresh b)) = s.refreshBank n b from rfl,
      State.endOps_idle ((honly.eq_engineQueues (by decide)).trans hengines)
        (fun p => by rw [State.port_congr (honly.eq_ports (by decide)), hports])] at hx
    exact ⟨_, hx, (State.refreshBank_bank s n b).1, (State.refreshBank_bank s n b).2, honly⟩
  case opens =>
    intro s n i l e hn hwin hlive hasleep hstack hslot hcol he hpc
    have hx := execMcCommandIssue_row hn hwin hlive hasleep hstack hslot hcol
    have hissue : s.issueRow n (some (.read i)) ((s.pcState n).slotEntry (.read i)) = s.activate e.req := by
      rw [show (s.pcState n).slotEntry (.read i) = some e from he]
      rfl
    rw [hissue] at hx
    obtain ⟨hreads, hwrites, -⟩ := State.activate_sameQueues s e.req n
    subst hpc
    refine ⟨_, hx, ?_, ?_, ?_, ?_, ?_⟩
    · rw [State.endOps_pcState, hreads]
    · rw [State.endOps_pcState, hwrites]
    · rw [State.endOps_pcState, State.activate_openRow]
    · rw [State.endOps_f mcPcAct_not_ended.1 mcPcAct_not_ended.2, State.activate_count]
    · rw [(State.endOps_only _).eq_mem (by decide), (State.activate_only s _).eq_mem (by decide)]
  case windowEnd => exact execActivationWindowEnd_clears
end

section
/-!
Marver's epoch boundary (R280, R287, R298): device time, what the boundary makes of the epoch's figures, and the counts of the tables,
which its moves leave alone.
-/
namespace Sys2Proof.Machine

/-! ### The boundary in parts -/

/-- The epoch begins, and the settings that waited for it are in force. -/
def State.settleEpoch (s : State) : State :=
  let z := s.beginEpoch s.nextEpoch
  let a := z.marver.settings.foldl State.applySetting z
  ({ a with marver := { a.marver with settings := [] } }).syncPools

/-- Its counts close, and nodes, benches and partitions move. -/
def State.moveEpoch (b : State) : State :=
  ((b.closeEpoch.moveNodes (nodeCounts b.marver.accesses (b.marver.epoch - 1))).wantBenches.movePartitions (fun _ _ => true)).noteBenches

/-- The figures of the last epoch. -/
def State.showFigures (c : State) (x : EpochInput) : State :=
  c.fresh.2.setFs [(teQueuePeak, min 1024 c.marver.queuePeak), (teQueueEngine, c.marver.queueEngine),
    (teThreadsPeak, min 2048 c.marver.threadPeak + Config.freeValue c.fresh.1 % (2049 - min 2048 c.marver.threadPeak)),
    (cdSharedBusy, x.sharedBusy % 2 ^ 32), (cdPrivBusy, x.privBusy % 2 ^ 32), (cdConflict, min (c.f cdConflict + x.conflicts) (2 ^ 32 - 1))]

/-- The counts of the new epoch start. -/
def State.startCounts (d : State) : State :=
  { d with marver := { d.marver with queuePeak := 0, queueEngine := 0, threadPeak := d.threadsHeld,
                                     accesses := d.marver.accesses.filter (fun a => decide (d.marver.epoch ≤ a.epoch)) } }

theorem execEpochBoundary_runs {s : State} (x : EpochInput) (h : s.halted = false) :
    execEpochBoundary x s = .next (s.settleEpoch.moveEpoch.showFigures x).startCounts := by
  unfold execEpochBoundary
  rw [if_neg (by simp [h])]
  extract_lets begun set old settled moved fresh shown
  have hsettled : settled = s.settleEpoch := rfl
  clear_value settled
  have hmoved : moved = settled.moveEpoch := rfl
  clear_value moved
  have hshown : shown = moved.showFigures x := rfl
  clear_value shown
  rw [← hsettled, ← hmoved, ← hshown]
  rfl

/-! ### Marver's own counts -/

theorem State.settleEpoch_marver (s : State) : s.settleEpoch.marver.epoch = s.nextEpoch ∧ s.settleEpoch.marver.settings = [] := by
  have hfold : ((s.beginEpoch s.nextEpoch).marver.settings.foldl State.applySetting (s.beginEpoch s.nextEpoch)).marver =
      (s.beginEpoch s.nextEpoch).marver := Only.eq_marver (ps := [.regs, .tables]) (by simp) (by decide)
  unfold State.settleEpoch
  dsimp only
  rw [(State.syncPools_only _).eq_marver (by decide), hfold]
  exact ⟨rfl, rfl⟩

theorem State.moveNodes_marver (s : State) (l : List NodeCount) :
    (s.moveNodes l).marver.epoch = s.marver.epoch ∧ (s.moveNodes l).marver.settings = s.marver.settings := by
  unfold State.moveNodes
  split
  · rw [State.setFs_keeps_marver]
    exact ⟨rfl, rfl⟩
  · dsimp only
    rw [State.setFs_keeps_marver, State.setNodes, State.showTiers, State.setFs_keeps_marver]
    exact ⟨rfl, rfl⟩

theorem State.noteBenches_marver (s : State) : s.noteBenches.marver.epoch = s.marver.epoch ∧
    s.noteBenches.marver.settings = s.marver.settings := ⟨rfl, rfl⟩

theorem State.moveEpoch_marver (s : State) : s.moveEpoch.marver.epoch = s.marver.epoch ∧ s.moveEpoch.marver.settings = s.marver.settings := by
  obtain ⟨hepoch, hsettings⟩ := State.moveNodes_marver s.closeEpoch (nodeCounts s.marver.accesses (s.marver.epoch - 1))
  have hlast : ∀ t : State, (t.wantBenches.movePartitions (fun _ _ => true)).marver = t.marver := fun t =>
    Only.eq_marver (ps := [.dom, .tables]) (by simp) (by decide)
  unfold State.moveEpoch
  rw [(State.noteBenches_marver _).1, (State.noteBenches_marver _).2, hlast, hepoch, hsettings,
    (State.closeEpoch_only s).eq_marver (by decide)]
  exact ⟨rfl, rfl⟩

/-! ### The tables -/

/-- What a table counts, and its version in force. -/
def Table.tally (t : Table) : Version × Map (Nat × Nat) × Map Nat := (t.committed, t.counters, t.ops)

/-- From `s` to `t` the same tables exist, with the same counts and the same versions in force. -/
def SameTallies (s t : State) : Prop := ∀ n, (t.table n).map Table.tally = (s.table n).map Table.tally

section
variable {s t u : State}

theorem SameTallies.refl (s : State) : SameTallies s s := fun _ => rfl

theorem SameTallies.trans (h : SameTallies s t) (g : SameTallies t u) : SameTallies s u := fun n => (g n).trans (h n)

theorem State.table_congr (h : t.tables = s.tables) (n : Nat) : t.table n = s.table n := by
  unfold State.table
  rw [h]

theorem SameTallies.of_only {ps : List Part} (h : Only ps s t) (g : Part.tables ∉ ps) : SameTallies s t := fun n => by
  rw [State.table_congr (h.eq_tables g)]

theorem State.applySetting_sameTallies (s : State) (x : EpochSetting) : SameTallies s (s.applySetting x) := by
  unfold State.applySetting
  split
  · exact .of_only (State.setFs_only s _) (by decide)
  · split
    · exact .refl s
    · next n lo hi r nr t ht =>
      intro m
      unfold State.table State.putTable at *
      rw [Map.get_set]
      split
      · next hm =>
        rw [hm, ht]
        rfl
      · rfl

theorem SameTallies.foldl_settings (l : List EpochSetting) (s : State) : SameTallies s (l.foldl State.applySetting s) := by
  induction l generalizing s with
  | nil => exact .refl s
  | cons x l ih => exact (State.applySetting_sameTallies s x).trans (ih _)

theorem State.settleEpoch_sameTallies (s : State) : SameTallies s s.settleEpoch := by
  have hsettings : SameTallies s ((s.beginEpoch s.nextEpoch).marver.settings.foldl State.applySetting (s.beginEpoch s.nextEpoch)) :=
    (SameTallies.of_only (State.beginEpoch_only s _) (by decide)).trans (SameTallies.foldl_settings _ _)
  have hcleared : ∀ (t : State) (m : Marver), SameTallies t ({ t with marver := m } : State).syncPools := fun t m =>
    SameTallies.of_only (ps := [.regs, .marver]) (by simp) (by decide)
  unfold State.settleEpoch
  exact hsettings.trans (hcleared _ _)

/-- A change of every table that may rest on its number. -/
theorem Map.get_map_keyed {α β : Type} (f : Nat → α → β) (m : Map (Option α)) (k : Nat) :
    Map.get (fun _ => none) (m.map (fun p => (p.1, p.2.map (f p.1)))) k = (Map.get (fun _ => none) m k).map (f k) := by
  induction m with
  | nil => rfl
  | cons p r ih =>
    simp only [List.map_cons, Map.get, ih]
    split
    · next h => rw [h]
    · rfl

/-- A table as the epoch closes: DRAM holds the counters' values, and the counts of the epochs before the last are forgotten (R298). -/
def State.closedTable (s : State) (n : Nat) (t : Table) : Table :=
  { t with engNext := s.enginesFor t, ops := t.ops.filter (fun (o : Nat × Nat) => decide (s.marver.epoch ≤ o.1 + 1)),
           moved := t.moved.filter (fun m => !s.tableSettled n m.1), readsLast := s.dramReads n, writtenBack := t.counters }

theorem State.closeEpoch_table (s : State) (n : Nat) : s.closeEpoch.table n = (s.table n).map (s.closedTable n) :=
  Map.get_map_keyed s.closedTable s.tables n

/-- A table whose partitions move (R295). -/
def State.movedTable (s : State) (which : Nat → Nat → Bool) (t : Table) : Table :=
  { t with serving := (List.range 64).map (fun q => (q, if (s.moves which t).contains q then s.targetEngine t q else s.servingEngine t q)),
           moved := t.moved ++ (s.moves which t).map (fun q => (s.now, q, s.servingEngine t q)) }

theorem State.movePartitions_table (s : State) (which : Nat → Nat → Bool) (n : Nat) :
    (s.movePartitions which).table n = (s.table n).map (s.movedTable which) :=
  Map.get_map_option (s.movedTable which) s.tables n

/-- Each table closes its epoch, and its partitions move. -/
theorem State.moveEpoch_table (s : State) (n : Nat) : ∃ u : State,
    s.moveEpoch.table n = ((s.table n).map (s.closedTable n)).map (u.movedTable (fun _ _ => true)) := by
  have hmid : ∀ u : State, ∀ l, (u.moveNodes l).wantBenches.table n = u.table n := fun u l =>
    State.table_congr (Only.eq_tables (ps := [.regs, .marver, .dom]) (by simp) (by decide)) n
  unfold State.moveEpoch
  rw [State.table_congr ((State.noteBenches_only _).eq_tables (by decide)), State.movePartitions_table, hmid, State.closeEpoch_table]
  exact ⟨_, rfl⟩

theorem State.crossEpoch_table {n : Nat} {y : Table} (h : s.table n = some y) : ∃ z, s.settleEpoch.moveEpoch.table n = some z ∧
    z.committed = y.committed ∧ z.counters = y.counters ∧ z.writtenBack = y.counters ∧
    z.ops = y.ops.filter (fun o => decide (s.nextEpoch ≤ o.1 + 1)) := by
  have htally := State.settleEpoch_sameTallies s n
  rw [h] at htally
  obtain ⟨w, hw, hwy⟩ := Option.map_eq_some_iff.mp htally
  obtain ⟨hcommitted, hcounters, hops⟩ : w.committed = y.committed ∧ w.counters = y.counters ∧ w.ops = y.ops := by
    simpa [Table.tally] using hwy
  obtain ⟨u, hu⟩ := State.moveEpoch_table s.settleEpoch n
  rw [hu, hw]
  refine ⟨_, rfl, hcommitted, hcounters, hcounters, ?_⟩
  rw [← hops, ← (State.settleEpoch_marver s).1]
  rfl

theorem State.crossEpoch_noTable {n : Nat} (h : s.table n = none) : s.settleEpoch.moveEpoch.table n = none := by
  have htally := State.settleEpoch_sameTallies s n
  rw [h] at htally
  obtain ⟨u, hu⟩ := State.moveEpoch_table s.settleEpoch n
  rw [hu, Option.map_eq_none_iff.mp htally]
  rfl

end

/-! ### What the boundary shows -/

theorem State.showFigures_only (c : State) (x : EpochInput) : Only [.free, .regs] c (c.showFigures x) := by
  unfold State.showFigures
  exact ((State.fresh_only c).mono (by decide)).trans ((State.setFs_only _ _).mono (by decide))

theorem State.startCounts_marver (d : State) : d.startCounts.marver.epoch = d.marver.epoch ∧
    d.startCounts.marver.settings = d.marver.settings ∧ d.startCounts.marver.queuePeak = 0 ∧ d.startCounts.marver.queueEngine = 0 :=
  ⟨rfl, rfl, rfl, rfl⟩

theorem State.startCounts_only (d : State) : Only [.marver] d d.startCounts := (Only.upd_marver _ (by decide)).mpr (Only.refl _ _)

/-- Of the figures written together, those of CD stand as they are written. -/
theorem State.setFs_busy (s : State) (peak engine threads shared priv conflict : Nat) :
    (s.setFs [(teQueuePeak, peak), (teQueueEngine, engine), (teThreadsPeak, threads), (cdSharedBusy, shared), (cdPrivBusy, priv),
      (cdConflict, conflict)]).f cdSharedBusy = shared ∧
    (s.setFs [(teQueuePeak, peak), (teQueueEngine, engine), (teThreadsPeak, threads), (cdSharedBusy, shared), (cdPrivBusy, priv),
      (cdConflict, conflict)]).f cdPrivBusy = priv := by
  simp only [State.setFs_cons, State.setFs_nil]
  constructor
  · rw [State.f_setF_other _ _ (by decide), State.f_setF_other _ _ (by decide), State.f_setF_same]
  · rw [State.f_setF_other _ _ (by decide), State.f_setF_same]

theorem State.showFigures_busy (c : State) (x : EpochInput) :
    (c.showFigures x).startCounts.f cdSharedBusy = x.sharedBusy % 2 ^ 32 ∧
      (c.showFigures x).startCounts.f cdPrivBusy = x.privBusy % 2 ^ 32 := by
  rw [State.f_congr ((State.startCounts_only _).eq_regs (by decide)), State.f_congr ((State.startCounts_only _).eq_regs (by decide))]
  unfold State.showFigures
  exact State.setFs_busy _ _ _ _ _ _ _

/-- Device time reaches the boundary (R280), and nothing of the crossing but the boundary itself moves it. -/
theorem State.settleEpoch_now (s : State) : s.settleEpoch.now = max s.now (4000000 * s.nextEpoch) := by
  have hbegin : Only [.regs, .tables, .marver] (s.beginEpoch s.nextEpoch) s.settleEpoch := by simp [State.settleEpoch]
  rw [State.now, hbegin.eq_time (by decide), Nat.mul_comm]
  rfl

theorem State.moveEpoch_only (s : State) : Only [.regs, .dom, .tables, .marver] s s.moveEpoch := by simp [State.moveEpoch]

theorem execEpochBoundary_acts (s : State) (x : EpochInput) (hhalted : s.halted = false) :
    Does (.epochBoundary x) s (fun t => t.now = max s.now (4000000 * s.nextEpoch) ∧ t.marver.epoch = s.nextEpoch ∧ t.marver.settings = [] ∧
      t.marver.queuePeak = 0 ∧ t.marver.queueEngine = 0 ∧
      (∀ n y, s.table n = some y → ∃ z, t.table n = some z ∧ z.committed = y.committed ∧ z.counters = y.counters ∧
        z.writtenBack = y.counters ∧ z.ops = y.ops.filter (fun o => decide (s.nextEpoch ≤ o.1 + 1))) ∧
      (∀ n, s.table n = none → t.table n = none) ∧ t.queues = s.queues ∧ t.f cdSharedBusy = x.sharedBusy % 2 ^ 32 ∧
      t.f cdPrivBusy = x.privBusy % 2 ^ 32) := by
  have hx := execEpochBoundary_runs x hhalted
  have hcounts := State.startCounts_only (s.settleEpoch.moveEpoch.showFigures x)
  have hfigures := State.showFigures_only s.settleEpoch.moveEpoch x
  obtain ⟨hkept, hwait, hpeak, hengine⟩ := State.startCounts_marver (s.settleEpoch.moveEpoch.showFigures x)
  have hmarver : (s.settleEpoch.moveEpoch.showFigures x).marver = s.settleEpoch.moveEpoch.marver := hfigures.eq_marver (by decide)
  obtain ⟨hepoch, hsettings⟩ := State.moveEpoch_marver s.settleEpoch
  obtain ⟨hbegun, hnone⟩ := State.settleEpoch_marver s
  have htable : ∀ n, (s.settleEpoch.moveEpoch.showFigures x).startCounts.table n = s.settleEpoch.moveEpoch.table n :=
    State.table_congr ((hcounts.eq_tables (by decide)).trans (hfigures.eq_tables (by decide)))
  rw [hmarver] at hkept hwait
  refine ⟨_, hx, ?_, hkept.trans (hepoch.trans hbegun), hwait.trans (hsettings.trans hnone), hpeak, hengine, fun n y hy => ?_,
    fun n hn => ?_, (execEpochBoundary_only hx).eq_queues (by decide), State.showFigures_busy _ x⟩
  · rw [State.now, hcounts.eq_time (by decide), hfigures.eq_time (by decide), (State.moveEpoch_only _).eq_time (by decide)]
    exact State.settleEpoch_now s
  · rw [htable]
    exact State.crossEpoch_table hy
  · rw [htable]
    exact State.crossEpoch_noTable hn

end Sys2Proof.Machine
end

section
/-!
The placement commands (R286, R307) and the slices of the shared areas (R376), each said once.
-/
namespace Sys2Proof.Machine

/-! ### Answers after a change of Marver alone -/

section
variable {s : State} {e : Sqe}

/-- A command that changes Marver and then answers: the answer is the one without that change. -/
theorem State.marver_done_posts (m : Marver) (status result : Nat) (h : Running e s) (hs : status ≠ 0x08) :
    Posts e status result [] s (({ s with marver := m } : State).done e status result) :=
  (State.done_posts (s := { s with marver := m }) result (Running.congr rfl rfl h) hs).congr rfl rfl rfl fun _ _ => rfl

theorem State.addSetting_done (x : EpochSetting) (h : Running e s) :
    ((s.addSetting x).done e stOk 0).marver = { s.marver with settings := s.marver.settings ++ [x] } ∧
      Posts e stOk 0 [] s ((s.addSetting x).done e stOk 0) ∧ Only (.marver :: ringParts) s ((s.addSetting x).done e stOk 0) ∧
      OnlyRegs (ringRegs e.ring) s ((s.addSetting x).done e stOk 0) := by
  refine ⟨(State.done_only _ e _ _).eq_marver (by decide), State.marver_done_posts _ stOk 0 h (by decide), ?_, ?_⟩
  · exact ((State.addSetting_only s x).mono (by decide)).trans ((State.done_only _ e _ _).mono (by decide))
  · exact ((State.addSetting_regs s x).mono (List.nil_subset _)).trans (State.done_regs _ e _ _)

/-! ### Reports and settings (R296, R297, R307) -/

theorem execPlacementInfo_running (h : Running e s) : execPlacementInfo e s = .next (s.done e stOk (packBytes [(0, 2, s.f mvSplitTUnits),
    (2, 4, s.f mvTableUsedRows), (6, 4, s.f qmPoolLimit / 2 ^ 20), (10, 1, s.f mvStatusEligible), (11, 1, s.f mvStatusOut),
    (12, 2, s.f mvRetiredBanks), (14, 4, s.marver.tierLines / 16), (18, 4, 2 * s.marver.head.length), (22, 2, s.f mvSpreadMin)])) :=
  runCommand_running (c := ⟨0x1C1, false, false, .runs, false, []⟩) (by decide) h (fun _ => rfl)

theorem execTierReport_running (h : Running e s) (halign : e.par 16 8 % 16 = 0) : execTierReport e s =
    .next ((s.emitHost (.hostWrite (e.par 16 8) ((List.range 256).flatMap s.tierEntry))).done e stOk 0) := by
  refine (runCommand_running (c := ⟨0x1C2, false, false, .runs, false, [(16, 0, 64)]⟩) (by decide) h (fun _ => rfl)).trans ?_
  rw [if_neg (by simp [halign])]

theorem execMvTune_running (h : Running e s) (hhome : 1 ≤ e.par 16 2) (hrepl : 1 ≤ e.par 18 2) (hdemote : 1 ≤ e.par 20 1)
    (hdemote' : e.par 20 1 ≤ 15) (hshare : e.par 21 1 ≤ 12) (hmin : 33 ≤ e.par 22 1) (hmin' : e.par 22 1 ≤ 64) (htarget : 1 ≤ e.par 26 2)
    (htarget' : e.par 26 2 ≤ 46) : execMvTune e s = .next ((s.addSetting (.tune (e.par 16 2) (e.par 18 2) (e.par 20 1) (e.par 21 1)
      (e.par 22 1) (e.bit 23 0) (e.par 24 2) (e.par 26 2))).done e stOk 0) := by
  refine (runCommand_running (c := ⟨0x1C4, true, false, .runs, false, [(16, 0, 56), (23, 0, 1), (24, 0, 32)]⟩) (by decide) h
    (fun _ => rfl)).trans ?_
  rw [if_neg (by omega)]

theorem execMvTableHint_running {x : Table} (h : Running e s) (hlow : 1 ≤ e.par 17 1) (horder : e.par 17 1 ≤ e.par 18 1)
    (hhigh : e.par 18 1 ≤ 64) (htable : s.table (e.par 16 1) = some x) : execMvTableHint e s =
      .next ((s.addSetting (.hint (e.par 16 1) (e.par 17 1) (e.par 18 1) (e.bit 19 0) (e.bit 19 1))).done e stOk 0) := by
  refine (runCommand_running (c := ⟨0x1C5, true, false, .runs, false, [(16, 0, 24), (19, 0, 2)]⟩) (by decide) h (fun _ => rfl)).trans ?_
  dsimp only
  rw [if_neg (by omega), if_neg (by simp [htable])]

/-! ### MEM_SPLIT (R286) -/

/-- A new T, with the pool limit that stands before it kept for what is stamped earlier. -/
def State.splitAt (s : State) (e : Sqe) : State :=
  (({ s with marver := { s.marver with splits := s.marver.splits ++ [(e.tick, s.poolBlocks)] } } : State).setF mvSplitTUnits
    (e.par 16 4)).syncPools

theorem execMemSplit_running (h : Running e s) (hquench : s.quenched = false) : execMemSplit e s = .next (
    if s.largestT < e.par 16 4 then s.done e stBadParam 0
    else if e.par 16 4 * unitRows < s.f mvTableUsedRows then s.done e stNotPermitted 0
    else if s.poolRows - e.par 16 4 * unitRows < s.poolDemand then s.done e stPoolExhausted 0
    else (s.splitAt e).done e stOk (packBytes [(0, 8, e.tick), (8, 8, (s.splitAt e).f qmPoolLimit)])) :=
  runCommand_running (c := ⟨0x1C0, false, false, .refused, false, [(16, 0, 32)]⟩) (by decide) h
    (fun hq => absurd hq (by simp [hquench]))

theorem execMemSplit_accepted (h : Running e s) (hquench : s.quenched = false) (hlargest : e.par 16 4 ≤ s.largestT)
    (hused : s.f mvTableUsedRows ≤ e.par 16 4 * unitRows) (hdemand : s.poolDemand ≤ s.poolRows - e.par 16 4 * unitRows) :
    execMemSplit e s = .next ((s.splitAt e).done e stOk (packBytes [(0, 8, e.tick), (8, 8, (s.splitAt e).f qmPoolLimit)])) := by
  rw [execMemSplit_running h hquench, if_neg (by omega), if_neg (by omega), if_neg (by omega)]

/-- A T that leaves the buffer pool its 1 GiB is not lowered (R304). -/
theorem lowerT_stays {rows used t : Nat} (h : t * unitRows + 524288 ≤ rows) : lowerT rows used t = t := by
  cases t with
  | zero => rfl
  | succ t =>
    unfold lowerT
    rw [if_neg (by omega)]

theorem State.syncPools_split (s : State) :
    s.syncPools.f mvSplitTUnits = lowerT s.poolRows (s.f mvTableUsedRows) (s.f mvSplitTUnits) ∧
      s.syncPools.f qmPoolLimit = (s.poolRows - lowerT s.poolRows (s.f mvTableUsedRows) (s.f mvSplitTUnits) * unitRows) * 2048 := by
  unfold State.syncPools
  simp only [State.setFs_cons, State.setFs_nil]
  constructor
  · rw [State.f_setF_other _ _ (by decide), State.f_setF_same]
  · rw [State.f_setF_same]

/-- The rows of pool memory rest on the cullet map and on what Marver has retired, not on T. -/
theorem State.poolRows_split (s : State) (t : Nat) (l : List (Tick × Nat)) :
    (({ s with marver := { s.marver with splits := l } } : State).setF mvSplitTUnits t).poolRows = s.poolRows := by
  have hcullet : (({ s with marver := { s.marver with splits := l } } : State).setF mvSplitTUnits t).f tcCulletPc = s.f tcCulletPc :=
    State.f_setF_other _ _ (by decide)
  have hpc : ∀ n, (({ s with marver := { s.marver with splits := l } } : State).setF mvSplitTUnits t).pcPoolRows n = s.pcPoolRows n := by
    intro n
    unfold State.pcPoolRows State.pcLive
    rw [hcullet]
    rfl
  unfold State.poolRows
  rw [funext hpc]

theorem State.splitAt_fields (hroom : e.par 16 4 * unitRows + 524288 ≤ s.poolRows) : (s.splitAt e).f mvSplitTUnits = e.par 16 4 ∧
    (s.splitAt e).f qmPoolLimit = (s.poolRows - e.par 16 4 * unitRows) * 2048 := by
  obtain ⟨hsplit, hlimit⟩ := State.syncPools_split (({ s with marver := { s.marver with
    splits := s.marver.splits ++ [(e.tick, s.poolBlocks)] } } : State).setF mvSplitTUnits (e.par 16 4))
  rw [State.poolRows_split, State.f_setF_same, lowerT_stays hroom] at hsplit hlimit
  exact ⟨hsplit, hlimit⟩

theorem State.splitAt_only (s : State) (e : Sqe) : Only [.regs, .marver] s (s.splitAt e) := by simp [State.splitAt]

theorem State.splitAt_marver (s : State) (e : Sqe) :
    (s.splitAt e).marver = { s.marver with splits := s.marver.splits ++ [(e.tick, s.f qmPoolLimit / 2048)] } :=
  (State.syncPools_only _).eq_marver (by decide)

theorem ringFld_page {r o l : Nat} (hr : r ≤ 15) (h : o * 32 + l < 0x800) : regPage (fld (0x30000 + 0x40 * r + o) l) = 0x30 := by
  unfold regPage fld
  omega

/-- The registers of HC's rings have a page of their own (R461, R478). -/
theorem ring_page {r : Nat} (hr : r ≤ 15) {k : Fld} (h : k ∈ hcSqHead r :: ringRegs r) : regPage k = 0x30 := by
  simp only [ringRegs, List.mem_cons, List.not_mem_nil, or_false] at h
  rcases h with rfl | rfl | rfl | rfl | rfl | rfl <;> exact ringFld_page hr (by decide)

/-- T and the pools show on no field of a ring of the device. -/
theorem State.splitAt_ring (s : State) (hring : e.ring ≤ 15) {k : Fld} (hk : k ∈ hcSqHead e.ring :: ringRegs e.ring) :
    (s.splitAt e).f k = s.f k := by
  have hpage := ring_page hring hk
  have hpools : ∀ j ∈ [mvSplitTUnits, mvEligible, mvStatusEligible, mvThermExcl, mvStatusFloorHit, mvStatusOut, mvPoolRows,
      mvRetiredBanks, qmPoolLimit], regPage j ≠ 0x30 := by decide
  have hregs : OnlyRegs [mvSplitTUnits, mvEligible, mvStatusEligible, mvThermExcl, mvStatusFloorHit, mvStatusOut, mvPoolRows,
      mvRetiredBanks, qmPoolLimit] s (s.splitAt e) := by simp [State.splitAt]
  exact hregs k fun hm => hpools k hm hpage

/-- The bound of the pool for a tick: before the tick of the one split that is kept, the limit that stood before it (R286). -/
theorem State.poolBlocksAt_split {s : State} {t : Tick} {n : Nat} (h : s.marver.splits = [(t, n)]) (k : Tick) :
    s.poolBlocksAt k = if k < t then n else s.f qmPoolLimit / 2048 := by
  unfold State.poolBlocksAt
  rw [h, List.find?_singleton]
  by_cases hk : k < t <;> simp [hk, State.poolBlocks]

/-- MEM_SPLIT of entry `e` has the effect of R286. -/
def MemSplitTakesEffect (s : State) (e : Sqe) : Prop :=
  Does (.memSplit e) s (fun t => t.f mvSplitTUnits = e.par 16 4 ∧ t.f qmPoolLimit = (s.poolRows - e.par 16 4 * unitRows) * 2048 ∧
    Posts e stOk (packBytes [(0, 8, e.tick), (8, 8, (s.poolRows - e.par 16 4 * unitRows) * 2048)]) [] s t ∧
    t.marver = { s.marver with splits := s.marver.splits ++ [(e.tick, s.f qmPoolLimit / 2048)] } ∧
    (s.marver.splits = [] → ∀ k, t.poolBlocksAt k = if k < e.tick then s.f qmPoolLimit / 2048 else t.f qmPoolLimit / 2048) ∧
    Only (.marver :: ringParts) s t)

/-- On a ring of the device an accepted MEM_SPLIT takes effect. -/
theorem memSplit_takesEffect (hring : e.ring ≤ 15) (h : Running e s) (hquench : s.quenched = false) (hlargest : e.par 16 4 ≤ s.largestT)
    (hused : s.f mvTableUsedRows ≤ e.par 16 4 * unitRows) (hroom : e.par 16 4 * unitRows + 524288 ≤ s.poolRows)
    (hdemand : s.poolDemand ≤ s.poolRows - e.par 16 4 * unitRows) : MemSplitTakesEffect s e := by
  have hx := execMemSplit_accepted h hquench hlargest hused hdemand
  have honly := State.splitAt_only s e
  obtain ⟨hsplit, hlimit⟩ := State.splitAt_fields (s := s) hroom
  rw [hlimit] at hx
  have hdone := State.done_only (s.splitAt e) e stOk (packBytes [(0, 8, e.tick), (8, 8, (s.poolRows - e.par 16 4 * unitRows) * 2048)])
  have hkeeps : ∀ j, regPage j ≠ 0x30 → ((s.splitAt e).done e stOk (packBytes [(0, 8, e.tick),
      (8, 8, (s.poolRows - e.par 16 4 * unitRows) * 2048)])).f j = (s.splitAt e).f j := fun j hj =>
    State.done_regs _ e _ _ j fun hm => hj (ring_page hring (List.mem_cons_of_mem _ hm))
  have hhalted : (s.splitAt e).halted = s.halted := by
    have hregs : OnlyRegs [mvSplitTUnits, mvEligible, mvStatusEligible, mvThermExcl, mvStatusFloorHit, mvStatusOut, mvPoolRows,
        mvRetiredBanks, qmPoolLimit] s (s.splitAt e) := by simp [State.splitAt]
    exact State.halted_congr (hregs _ (by decide)) (hregs _ (by decide))
  have hmarver := (hdone.eq_marver (by decide)).trans (State.splitAt_marver s e)
  refine ⟨_, hx, (hkeeps _ (by decide)).trans hsplit, (hkeeps _ (by decide)).trans hlimit, ?_, hmarver, fun hnone k => ?_, ?_⟩
  · exact (State.done_posts _ (Running.congr (honly.eq_rings (by decide)) hhalted h) (by decide)).congr (honly.eq_out (by decide))
      (honly.eq_heldOut (by decide)) (honly.eq_pcie (by decide)) fun _ hk => State.splitAt_ring s hring hk
  · exact State.poolBlocksAt_split (by rw [hmarver, hnone]; rfl) k
  · exact (honly.mono (by decide)).trans (hdone.mono (by decide))

end

/-! ### Slices of the shared areas (R376) -/

/-- The slices in service, in order. -/
def State.servedSlices (s : State) : List Nat := (List.range 64).filter (fun n => !bitOf (s.f tcCulletSlice) n)

theorem State.sharedSlice_eq (s : State) (i : Nat) :
    s.sharedSlice i = s.servedSlices.getD (i % max 1 s.servedSlices.length) 0 := rfl

/-- Bits set and bits clear of the low bits of a mask make up all of them. -/
theorem length_clear_add_popcount (v n : Nat) : ((List.range n).filter (fun k => !bitOf v k)).length + popcount n v = n := by
  induction n with
  | zero => rfl
  | succ n ih =>
    rw [List.range_succ, List.filter_append, List.length_append, popcount]
    cases h : bitOf v n <;> simp [h, b2n] <;> omega

theorem State.slicesServed_eq (s : State) : s.slicesServed = s.servedSlices.length := by
  have hsum := length_clear_add_popcount (s.f tcCulletSlice) 64
  unfold State.slicesServed State.servedSlices
  omega

theorem State.sharedSlice_all {s : State} (h : s.f tcCulletSlice = 0) (i : Nat) : s.sharedSlice i = i % 64 := by
  have hall : s.servedSlices = List.range 64 := by
    unfold State.servedSlices
    rw [h]
    exact List.filter_eq_self.mpr fun n _ => by simp [bitOf]
  rw [State.sharedSlice_eq, hall, List.length_range, List.getD_eq_getElem _ _ (by simp; omega), List.getElem_range]
  rfl

/-- While one slice is in service, every line lies in one that is, and the lines go round the slices in service. -/
theorem State.sharedSlice_served {s : State} {n : Nat} (hn : n < 64) (hserved : bitOf (s.f tcCulletSlice) n = false) (i : Nat) :
    s.sharedSlice i < 64 ∧ bitOf (s.f tcCulletSlice) (s.sharedSlice i) = false ∧ s.sharedSlice (i + s.slicesServed) = s.sharedSlice i := by
  have hpos : 0 < s.servedSlices.length :=
    List.length_pos_of_mem (List.mem_filter.mpr ⟨List.mem_range.mpr hn, by simp [hserved]⟩)
  have hmem : s.sharedSlice i ∈ s.servedSlices := by
    have hlt : i % max 1 s.servedSlices.length < s.servedSlices.length := by
      rw [Nat.max_eq_right hpos]
      exact Nat.mod_lt _ hpos
    rw [State.sharedSlice_eq, List.getD_eq_getElem _ _ hlt]
    exact List.getElem_mem hlt
  obtain ⟨hrange, hclear⟩ := List.mem_filter.mp hmem
  refine ⟨List.mem_range.mp hrange, by simpa using hclear, ?_⟩
  rw [State.sharedSlice_eq, State.sharedSlice_eq, State.slicesServed_eq, Nat.max_eq_right hpos, Nat.add_mod_right]

end Sys2Proof.Machine
end

section
/-!
The refutation of O37, and what of it holds: every clause but MEM_SPLIT's, and that one on the rings that the device has.
-/
namespace Sys2Proof.Machine

/-- All of O37 rests on its clause about an accepted MEM_SPLIT. -/
theorem placementActsAtEpochs_of_memSplit (hsplit : ∀ (s : State) (e : Sqe), Running e s → s.quenched = false →
    e.par 16 4 ≤ s.largestT → s.f mvTableUsedRows ≤ e.par 16 4 * unitRows → e.par 16 4 * unitRows + 524288 ≤ s.poolRows →
    s.poolDemand ≤ s.poolRows - e.par 16 4 * unitRows → MemSplitTakesEffect s e) : Obligations.PlacementActsAtEpochs := by
  unfold Obligations.PlacementActsAtEpochs
  refine ⟨fun s x => execEpochBoundary_acts s x, hsplit, ?tooLarge, ?inUse, ?info, ?tiers, ?tune, ?hint,
    fun s i h => State.sharedSlice_all h i, fun s i n hn h => State.sharedSlice_served hn h i⟩
  case tooLarge =>
    intro s e hrun hquench hlarge
    exact State.done_answers ((execMemSplit_running hrun hquench).trans (by rw [if_pos hlarge])) hrun (by decide)
  case inUse =>
    intro s e hrun hquench hlargest hused
    exact State.done_answers ((execMemSplit_running hrun hquench).trans (by rw [if_neg (by omega), if_pos hused])) hrun (by decide)
  case info => exact fun s e hrun => State.done_answers (execPlacementInfo_running hrun) hrun (by decide)
  case tiers =>
    intro s e hrun halign
    have hx := execTierReport_running hrun halign
    exact ⟨_, hx, State.emitHost_done_posts 0 hrun (by decide) _, execTierReport_only hx, execTierReport_regs hx⟩
  case tune =>
    intro s e hrun hhome hrepl hdemote hdemote' hshare hmin hmin' htarget htarget'
    exact ⟨_, execMvTune_running hrun hhome hrepl hdemote hdemote' hshare hmin hmin' htarget htarget', State.addSetting_done _ hrun⟩
  case hint =>
    intro s e x hrun hlow horder hhigh htable
    exact ⟨_, execMvTableHint_running hrun hlow horder hhigh htable, State.addSetting_done _ hrun⟩

/-- CQ_TAIL of a ring numbered 0x1800, which no device has (R461), would lie where MV_SPLIT lies. -/
theorem cqTail_far : hcCqTailIndex 0x1800 = mvSplitTUnits := rfl

/-- A MEM_SPLIT to T = 1 from that ring. -/
def farSplit : Sqe := ⟨0x1800, 0x1C0, 0, 0, 0, 0, 0, 1, 0⟩

/-- A device after power-on on which it is in execution. -/
def farState : State := State.reset.setRing 0x1800 { ringCold 0 with live := [⟨0, 0x1C0, false, false, false, false, 0, 1⟩] }

theorem farSplit_running : Running farSplit farState := ⟨by decide +kernel, ⟨0, 0x1C0, false, false, false, false, 0, 1⟩, by decide +kernel⟩

/-- The value of T that a command leaves. -/
def splitAfter (x : Host.Outcome State Fault Refusal) : Option Nat :=
  match x with
  | .next t => some (t.f mvSplitTUnits)
  | _ => none

/-- The completion moves the tail of the ring on, and with it T. -/
theorem farSplit_overwritten : splitAfter (exec (.memSplit farSplit) farState) = some 0 := by decide +kernel

end Sys2Proof.Machine

open Sys2Proof Sys2Proof.Machine

/-- Refutes O37: its MEM_SPLIT clause speaks of every ring number, and on ring 0x1800, whose CQ_TAIL would have the key of MV_SPLIT, the
completion of MEM_SPLIT to T = 1 leaves T = 0. Every other clause holds (`placementActsAtEpochs_of_memSplit`), and so does this one on the
rings 0 to 15 (`memSplit_takesEffect`): it lacks the premise e.ring ≤ 15. -/
theorem not_placementActsAtEpochs : ¬ Obligations.PlacementActsAtEpochs := by
  unfold Obligations.PlacementActsAtEpochs
  rintro ⟨-, hsplit, -⟩
  obtain ⟨t, hx, ht, -⟩ := hsplit farState farSplit farSplit_running (by decide +kernel) (by decide +kernel) (by decide +kernel)
    (by decide +kernel) (by decide +kernel)
  have hzero := farSplit_overwritten
  rw [hx, splitAfter, ht] at hzero
  exact absurd hzero (by decide)
end

section
/-!
Tables of the data path (R311, R335): what a read of a table returns after a write, and what the checks and the operations of a table request
rest on.
-/
namespace Sys2Proof.Machine

/-! ### Reads of a table after a write -/

@[simp] theorem State.putTable_table (s : State) (n : Nat) (x : Option Table) : (s.putTable n x).table n = x := Map.get_set_same _ _ _ _

theorem State.putTable_table_other (s : State) {n m : Nat} (x : Option Table) (h : m ≠ n) : (s.putTable n x).table m = s.table m :=
  Map.get_set_other _ _ _ h

section
variable {s : State} {n : Nat} {x : Table} {tick : Tick} (hx : s.table n = some x) (hc : x.created ≤ tick)
include hx hc

/-- A table created by then is the one that a request finds. -/
theorem State.tableAt_live : s.tableAt n tick = some x := by
  unfold State.tableAt
  rw [hx]
  exact if_pos hc

theorem State.putTableAt_live (y : Table) : s.putTableAt n tick y = s.putTable n (some y) := by
  unfold State.putTableAt
  rw [hx]
  exact if_pos hc

theorem State.countOps_live (k : Nat) :
    s.countOps n tick k = s.putTable n (some { x with ops := addCount x.ops (tick / 4000000) k }) := by
  unfold State.countOps
  rw [State.tableAt_live hx hc]
  exact State.putTableAt_live hx hc _

end

/-! ### What the checks of a table request rest on (R320, R322, R324) -/

/-- Two states hold the same tables, and the same engines are culled. -/
structure SameTables (s t : State) : Prop where
  tables : t.tables = s.tables
  dead : t.dead = s.dead
  cullet : t.f tcCulletEng = s.f tcCulletEng

namespace SameTables
variable {s t u : State} (h : SameTables s t)

include h

theorem trans (g : SameTables t u) : SameTables s u :=
  ⟨g.tables.trans h.tables, g.dead.trans h.dead, g.cullet.trans h.cullet⟩

theorem tableAt (n : Nat) (tick : Tick) : t.tableAt n tick = s.tableAt n tick := by
  unfold State.tableAt
  rw [State.table_congr h.tables, h.dead]

theorem enginesGone : t.enginesGone = s.enginesGone := by
  unfold State.enginesGone
  rw [h.cullet]

theorem servingEngine (x : Table) (p : Nat) : t.servingEngine x p = s.servingEngine x p := by
  unfold State.servingEngine State.liveEngines
  rw [h.cullet]

theorem engineOf (x : Table) (p : Nat) (tick : Tick) : t.engineOf x p tick = s.engineOf x p tick := by
  unfold State.engineOf
  simp only [h.servingEngine, h.cullet]

theorem lookupRefusal (r : Req) : t.lookupRefusal r = s.lookupRefusal r := by
  unfold State.lookupRefusal
  rw [h.tableAt, h.enginesGone]

theorem multiRefusal (r : Req) : t.multiRefusal r = s.multiRefusal r := by
  unfold State.multiRefusal
  simp only [h.tableAt, h.enginesGone]

theorem counterRefusal (r : Req) : t.counterRefusal r = s.counterRefusal r := by
  unfold State.counterRefusal
  rw [h.tableAt, h.enginesGone]

theorem opsOf (r : Req) : t.opsOf r = s.opsOf r := by
  unfold State.opsOf
  simp only [h.tableAt, h.engineOf]

theorem benchHeld (hd : t.dom = s.dom) (r : Req) : t.benchHeld r = s.benchHeld r := by
  unfold State.benchHeld State.heldInReset
  rw [h.opsOf, hd]

end SameTables

/-- Taking a request out of its ingress buffer changes none of it. -/
theorem State.takeReq_sameTables (s : State) (r : Req) : SameTables s (s.takeReq r) :=
  ⟨(State.takeReq_only s r).eq_tables (by decide), (State.takeReq_only s r).eq_dead (by decide), State.takeReq_f_apart s r (by decide)⟩

/-! ### What the start of an operation rests on (R294, R329, R440) -/

/-- Engine `n` has the same operations, and the engines have the same microcode and the same limit of threads. -/
structure SameEngine (n : Nat) (s t : State) : Prop where
  queue : t.engineQueue n = s.engineQueue n
  running : t.f teBenchRunning = s.f teBenchRunning
  threads : t.f teCtrlTableThreads = s.f teCtrlTableThreads

/-- An operation that waits at the engine could start. -/
def State.couldStart (s : State) (n : Nat) : Bool := s.engineRuns n && (s.waitingAt n).any (fun w => s.threadFor n w.table)

theorem State.nextOp_isNone (s : State) (n : Nat) : (s.nextOp n).isNone = !s.couldStart n := by
  have hempty : ∀ (l : List EngineOp) (p : EngineOp → Bool),
      (match l.find? p with | some o => some o | none => l.head?).isNone = l.isEmpty := by
    intro l p
    cases l with
    | nil => rfl
    | cons a l => cases h : (a :: l).find? p <;> rfl
  have hfilter : ∀ (l : List EngineOp) (p : EngineOp → Bool), (l.filter p).isEmpty = !l.any p := by
    intro l p
    rw [Bool.eq_iff_iff]
    simp
  unfold State.nextOp State.couldStart
  dsimp only
  refine Eq.trans (hempty _ _) ?_
  cases s.engineRuns n with
  | false => rfl
  | true => exact hfilter _ _

/-- An engine starts an operation as it comes when it runs, has a thread for it, and could start none of those that wait. -/
theorem State.startsNow_eq (s : State) (n : Nat) (o : EngineOp) :
    s.startsNow n o = (s.engineRuns n && s.threadFor n o.table && !s.couldStart n) := by
  unfold State.startsNow
  rw [State.nextOp_isNone]

section
variable {s t : State} {n : Nat}

theorem State.engineRuns_congr (h : t.f teBenchRunning = s.f teBenchRunning) (n : Nat) : t.engineRuns n = s.engineRuns n := by
  unfold State.engineRuns
  rw [h]

theorem SameEngine.threadFor (h : SameEngine n s t) (table : Nat) : t.threadFor n table = s.threadFor n table := by
  unfold State.threadFor State.heldAt State.eff
  rw [h.queue, h.threads]

theorem SameEngine.couldStart (h : SameEngine n s t) : t.couldStart n = s.couldStart n := by
  unfold State.couldStart State.waitingAt
  rw [State.engineRuns_congr h.running, h.queue]
  simp only [h.threadFor]

theorem SameEngine.startsNow (h : SameEngine n s t) (o : EngineOp) : t.startsNow n o = s.startsNow n o := by
  rw [State.startsNow_eq, State.startsNow_eq, State.engineRuns_congr h.running, h.threadFor, h.couldStart]

end

/-- Every engine is the same. -/
structure SameEngines (s t : State) : Prop where
  queues : t.engineQueues = s.engineQueues
  running : t.f teBenchRunning = s.f teBenchRunning
  threads : t.f teCtrlTableThreads = s.f teCtrlTableThreads

theorem State.engineQueue_congr {s t : State} (h : t.engineQueues = s.engineQueues) (n : Nat) : t.engineQueue n = s.engineQueue n := by
  unfold State.engineQueue
  rw [h]

namespace SameEngines
variable {s t u : State} (h : SameEngines s t)
include h

theorem trans (g : SameEngines t u) : SameEngines s u :=
  ⟨g.queues.trans h.queues, g.running.trans h.running, g.threads.trans h.threads⟩

theorem startsNow (n : Nat) (o : EngineOp) : t.startsNow n o = s.startsNow n o :=
  SameEngine.startsNow ⟨State.engineQueue_congr h.queues n, h.running, h.threads⟩ o

end SameEngines

theorem State.takeReq_sameEngines (s : State) (r : Req) : SameEngines s (s.takeReq r) :=
  ⟨(State.takeReq_only s r).eq_engineQueues (by decide), State.takeReq_f_apart s r (by decide), State.takeReq_f_apart s r (by decide)⟩

end Sys2Proof.Machine
end

section
/-!
Operations that need no DRAM (R296, R298, R329): they start, count their accesses and hold no thread, so the request is answered at once.
-/
namespace Sys2Proof.Machine

/-! ### What Marver counts -/

/-- From `s` to `t` Marver counts, and nothing else changes: the nodes that the slices hold stay. -/
def Counted (s t : State) : Prop :=
  ∃ m, t = { s with marver := m } ∧ m.nodes = s.marver.nodes ∧ m.dropped = s.marver.dropped

namespace Counted
variable {s t u : State}

theorem refl (s : State) : Counted s s := ⟨s.marver, rfl, rfl, rfl⟩

theorem trans (h : Counted s t) (g : Counted t u) : Counted s u := by
  obtain ⟨m, rfl, hnodes, hdropped⟩ := h
  obtain ⟨k, rfl, hnodes', hdropped'⟩ := g
  exact ⟨k, rfl, hnodes'.trans hnodes, hdropped'.trans hdropped⟩

theorem only (h : Counted s t) : Only [.marver] s t := by
  obtain ⟨m, rfl, -⟩ := h
  simp

theorem f (h : Counted s t) (k : Fld) : t.f k = s.f k := State.f_congr (h.only.eq_regs (by decide)) k

theorem sameTables (h : Counted s t) : SameTables s t := ⟨h.only.eq_tables (by decide), h.only.eq_dead (by decide), h.f _⟩

theorem sameEngines (h : Counted s t) : SameEngines s t := ⟨h.only.eq_engineQueues (by decide), h.f _, h.f _⟩

end Counted

/-- Two states hold the same nodes in the same slices. -/
structure SameNodes (s t : State) : Prop extends SameTables s t where
  nodes : t.marver.nodes = s.marver.nodes
  dropped : t.marver.dropped = s.marver.dropped

theorem SameNodes.trans {s t u : State} (h : SameNodes s t) (g : SameNodes t u) : SameNodes s u :=
  ⟨h.toSameTables.trans g.toSameTables, g.nodes.trans h.nodes, g.dropped.trans h.dropped⟩

theorem SameNodes.copyNear {s t : State} (h : SameNodes s t) (n : Nat) (x : Table) (key : List Byte) (engine line : Nat) :
    t.copyNear n x key engine line = s.copyNear n x key engine line := by
  unfold State.copyNear State.nodeNear
  simp only [h.nodes, h.dropped, h.servingEngine]

theorem Counted.sameNodes {s t : State} (h : Counted s t) : SameNodes s t := by
  refine ⟨h.sameTables, ?_, ?_⟩ <;> obtain ⟨m, rfl, hnodes, hdropped⟩ := h
  · exact hnodes
  · exact hdropped

theorem State.takeReq_sameNodes (s : State) (r : Req) : SameNodes s (s.takeReq r) :=
  ⟨State.takeReq_sameTables s r, by rw [(State.takeReq_only s r).eq_marver (by decide)],
    by rw [(State.takeReq_only s r).eq_marver (by decide)]⟩

/-! ### Operations whose lines are all near -/

/-- Every line that an operation reads has a good copy in the slice of its engine (R298). -/
def State.allNear (s : State) (o : EngineOp) : Prop :=
  ∀ x, s.tableAt o.table o.req.tick = some x → ∀ line ∈ x.keyNodes o.table o.key,
    s.copyNear o.table x o.key (s.engineOf x (x.partition o.key) o.req.tick) line = true

theorem SameNodes.allNear {s t : State} (h : SameNodes s t) {o : EngineOp} (hnear : s.allNear o) : t.allNear o := by
  intro x hx line hline
  rw [h.tableAt] at hx
  rw [h.copyNear, h.engineOf]
  exact hnear x hx line hline

section
variable {s : State}

theorem State.touchNode_near {n line : Nat} {x : Table} {cls hint : Nat} {tick : Tick} {key : List Byte} (writes : Bool)
    (h : s.copyNear n x key (s.engineOf x (x.partition key) tick) line = true) :
    Counted s (s.touchNode n x cls hint tick writes key line) := by
  unfold State.touchNode
  dsimp only
  rw [if_pos h]
  exact ⟨_, rfl, rfl, rfl⟩

theorem State.touchNodes_near {n : Nat} {x : Table} {cls hint : Nat} {tick : Tick} {key : List Byte} (writes : Bool) (l : List Nat)
    (h : ∀ line ∈ l, s.copyNear n x key (s.engineOf x (x.partition key) tick) line = true) :
    Counted s (l.foldl (fun u line => u.touchNode n x cls hint tick writes key line) s) := by
  induction l generalizing s with
  | nil => exact Counted.refl s
  | cons line l ih =>
    have hfirst := State.touchNode_near (cls := cls) (hint := hint) writes (h line (.head _))
    refine hfirst.trans (ih fun k hk => ?_)
    rw [hfirst.sameNodes.copyNear, hfirst.sameTables.engineOf]
    exact h k (.tail _ hk)

variable {o : EngineOp} (h : s.allNear o)
include h

theorem State.touchOp_near : Counted s (s.touchOp o) := by
  unfold State.touchOp
  split
  · exact Counted.refl s
  · next x hx => exact State.touchNodes_near _ _ (h x hx)

theorem State.opReads_near : s.opReads o = [] := by
  unfold State.opReads
  split
  · rfl
  · next x hx =>
    unfold State.keyReads
    refine List.flatMap_eq_nil_iff.mpr fun line hline => ?_
    rw [State.lineRows, if_pos (h x hx line hline)]
    rfl

theorem State.startOp_near (n : Nat) : Counted s (s.startOp n o) := by
  unfold State.startOp
  rw [State.opReads_near h]
  exact (State.touchOp_near h).trans ⟨_, rfl, rfl, rfl⟩

end

/-- Operations that all start with their lines near leave nothing at an engine. -/
theorem State.offerOps_near {s : State} (l : List (Nat × EngineOp)) (hstart : ∀ o ∈ l, s.startsNow o.1 o.2 = true)
    (hnear : ∀ o ∈ l, s.allNear o.2) : Counted s (l.foldl (fun t o => t.offerOp o.1 o.2) s) := by
  induction l generalizing s with
  | nil => exact Counted.refl s
  | cons o l ih =>
    have hfirst : Counted s (s.offerOp o.1 o.2) := by
      unfold State.offerOp
      rw [if_pos (hstart o (.head _))]
      exact State.startOp_near (hnear o (.head _)) o.1
    refine hfirst.trans (ih (fun k hk => ?_) fun k hk => hfirst.sameNodes.allNear (hnear k (.tail _ hk)))
    rw [hfirst.sameEngines.startsNow]
    exact hstart k (.tail _ hk)

/-- The operations of a request on some keys of one table. -/
def State.opsOn (s : State) (r : Req) (n : Nat) (keys : List (List Byte)) : List (Nat × EngineOp) :=
  match s.tableAt n r.tick with
  | none => []
  | some x => keys.map (fun k => (s.engineOf x (x.partition k) r.tick, (⟨r, n, r.b1 % 16, x.partition k, k, none⟩ : EngineOp)))

section
variable {s : State} {r : Req}

theorem State.opsOf_multi (h : r.opcode = 0x11) : s.opsOf r = (multiTables r).flatMap (fun n => s.opsOn r n [r.payload.drop 4]) := by
  unfold State.opsOf
  rw [if_pos h]
  rfl

theorem State.opsOn_live {n : Nat} {x : Table} (hx : s.tableAt n r.tick = some x) (keys : List (List Byte)) : s.opsOn r n keys =
    keys.map (fun k => (s.engineOf x (x.partition k) r.tick, (⟨r, n, r.b1 % 16, x.partition k, k, none⟩ : EngineOp))) := by
  unfold State.opsOn
  rw [hx]

theorem State.opsOf_lookup {x : Table} (h : r.opcode = 0x10) (hx : s.tableAt r.object r.tick = some x) :
    s.opsOf r = s.opsOn r r.object (chunks x.keyLen (argCount r) r.payload) := by
  rw [State.opsOn_live hx]
  unfold State.opsOf
  rw [if_neg (by omega), if_pos h]
  simp only [hx]

theorem State.opsOf_counter (hm : r.opcode ≠ 0x11) (hl : r.opcode ≠ 0x10) :
    s.opsOf r = s.opsOn r r.object ((counterRecords r).map (fun x => leBytes 4 x.1)) := by
  unfold State.opsOf
  rw [if_neg hm, if_neg hl]
  rfl

/-- An operation goes to the engine that serves its partition. -/
theorem State.opsOn_engine {n : Nat} {keys : List (List Byte)} {o : Nat × EngineOp} (h : o ∈ s.opsOn r n keys) :
    o.2.req = r ∧ o.2.reads = none ∧ ∀ x, s.tableAt o.2.table r.tick = some x → o.1 = s.engineOf x (x.partition o.2.key) r.tick := by
  cases hx : s.tableAt n r.tick with
  | none =>
    rw [State.opsOn, hx] at h
    exact absurd h List.not_mem_nil
  | some x =>
    rw [State.opsOn_live hx] at h
    obtain ⟨k, -, rfl⟩ := List.mem_map.mp h
    refine ⟨rfl, rfl, fun y hy => ?_⟩
    obtain rfl := Option.some.inj (hx.symm.trans hy)
    rfl

theorem State.opsOf_engine {o : Nat × EngineOp} (h : o ∈ s.opsOf r) :
    o.2.req = r ∧ o.2.reads = none ∧ ∀ x, s.tableAt o.2.table r.tick = some x → o.1 = s.engineOf x (x.partition o.2.key) r.tick := by
  by_cases hm : r.opcode = 0x11
  · rw [State.opsOf_multi hm] at h
    obtain ⟨n, -, hn⟩ := List.mem_flatMap.mp h
    exact State.opsOn_engine hn
  · by_cases hl : r.opcode = 0x10
    · cases hx : s.tableAt r.object r.tick with
      | none =>
        rw [State.opsOf, if_neg hm, if_pos hl, hx] at h
        exact absurd h List.not_mem_nil
      | some x =>
        rw [State.opsOf_lookup hl hx] at h
        exact State.opsOn_engine h
    · rw [State.opsOf_counter hm hl] at h
      exact State.opsOn_engine h

/-- With the engines ready, every operation of the request finds its lines near. -/
theorem enginesReady_allNear (h : EnginesReady r s) : ∀ o ∈ s.opsOf r, s.allNear o.2 := by
  obtain ⟨-, -, -, hnear⟩ := h
  intro o ho x hx line hline
  obtain ⟨hreq, -, hengine⟩ := State.opsOf_engine ho
  rw [hreq] at hx ⊢
  rw [← hengine x hx]
  exact hnear o ho x hx line hline

end

end Sys2Proof.Machine
end

section
/-!
The course of a table request (R208, R320, R321, R330): it is refused, it waits in the ingress buffer, or its operations go to their engines; and
with the engines ready it is served at once.
-/
namespace Sys2Proof.Machine

variable {r : Req} {s : State}

/-! ### What holds it back -/

theorem enginesTake_not_held (h : EnginesTake r s) (refusal : State → Option Nat) :
    ((refusal s).isNone && !s.benchHeld r && (s.handingOver r || !s.queueRoom r)) = false := by
  obtain ⟨-, hover, hroom⟩ := h
  simp [hover, hroom]

/-- Without room in an input queue the request stays in the ingress buffer. -/
theorem runTable_held {refusal : State → Option Nat} (hmay : s.mayTake r = true) (hearly : s.early r = none) (href : refusal s = none)
    (hbench : s.benchHeld r = false) (hroom : s.queueRoom r = false) : runTable r refusal s = .next s := by
  unfold runTable runRequest
  simp [hmay, hearly, href, hbench, hroom]

/-! ### Refusals (R320, R322, R324, R339) -/

theorem runTable_refused {refusal : State → Option Nat} {st : Nat} (hadm : Admitted r 16 s) (htake : refusal (s.takeReq r) = refusal s)
    (href : refusal s = some st) : runTable r refusal s = .next ((s.takeReq r).refuseTable r st) := by
  have hreply : s.tableReply r refusal = 16 := if_pos (.inl (by rw [href]; rfl))
  unfold runTable
  rw [hreply, hadm.runs _ (by simp [href])]
  simp only [htake, href]

theorem protoErrLength_place (p : Nat) : regPlace (rlProtoErrLength p) = 3216 := portFld_place (by decide)

/-- A refusal counts once, and answers with its status alone. -/
theorem State.refuseTable_facts (s : State) (r : Req) (st : Nat) : Replies r st 0 [] s ((s.takeReq r).refuseTable r st) ∧
    ((s.takeReq r).refuseTable r st).tables = s.tables ∧
    ((s.takeReq r).refuseTable r st).f teRefused = min (s.f teRefused + 1) (2 ^ 32 - 1) := by
  have htables : ((s.takeReq r).refuseTable r st).tables = s.tables :=
    ((State.takeReq_only s r).mono (by decide) |>.trans (State.refuseTable_only (s.takeReq r) r st)).eq_tables (by decide)
  have hcount : ((s.takeReq r).bump teRefused 32).f teRefused = min (s.f teRefused + 1) (2 ^ 32 - 1) := by
    rw [State.bump, State.f_setF_same, State.takeReq_f_apart s r (by decide)]
  refine ⟨?_, htables, ?_⟩ <;> unfold State.refuseTable <;> dsimp only <;> split
  · next hlen => rw [hlen]; exact State.answer_replies _ _ _ _ (State.takeReq_egress s r r.port)
  · exact State.answer_replies _ _ _ _ (State.takeReq_egress s r r.port)
  · rw [State.refuseLength, State.answer_f_apart _ _ _ _ _ _ (by decide), State.bump_f_apart _ _ (by rw [protoErrLength_place]; decide), hcount]
  · rw [State.answer_f_apart _ _ _ _ _ _ (by decide), hcount]

/-! ### Operations go to the engines -/

theorem runTable_begins {refusal : State → Option Nat} (hadm : Admitted r (s.tableReply r refusal) s)
    (htake : refusal (s.takeReq r) = refusal s) (href : refusal s = none) (h : EnginesTake r s) :
    runTable r refusal s = .next ((s.takeReq r).beginTable r (s.tableReply r refusal)) := by
  have hbench : (s.takeReq r).benchHeld r = false := by
    rw [(State.takeReq_sameTables s r).benchHeld ((State.takeReq_only s r).eq_dom (by decide))]
    exact h.1
  unfold runTable
  rw [hadm.runs _ (enginesTake_not_held h refusal)]
  simp only [htake, href, hbench]
  rfl

/-- The request has joined those whose answer is awaited, and room is kept for its reply (R208). -/
def State.awaits (s : State) (r : Req) (longest : Nat) : State :=
  (s.setPort r.port { s.port r.port with awaiting := (s.port r.port).awaiting ++ [r] }).keepRoom r longest

/-- Its operations have gone to their engines. -/
def State.offersOps (s : State) (r : Req) : State := (s.opsOf r).foldl (fun t o => t.offerOp o.1 o.2) s

/-- It is awaited no longer. -/
def State.leaves (s : State) (r : Req) : State := s.setPort r.port { s.port r.port with awaiting := (s.port r.port).awaiting.erase r }

theorem State.beginTable_eq (s : State) (r : Req) (longest : Nat) : s.beginTable r longest =
    if ((s.awaits r longest).offersOps r).allDone r then (((s.awaits r longest).offersOps r).leaves r).serveTable r
    else (s.awaits r longest).offersOps r := rfl

theorem State.awaits_port (s : State) (r : Req) (longest : Nat) : ((s.awaits r longest).port r.port).awaiting = (s.port r.port).awaiting ++ [r] ∧
    ((s.awaits r longest).port r.port).egress = (s.port r.port).egress := by
  unfold State.awaits State.keepRoom
  simp only [State.setPort_port]
  exact ⟨trivial, trivial⟩

theorem State.awaits_only (s : State) (r : Req) (longest : Nat) : Only [.ports] s (s.awaits r longest) := by
  simp [State.awaits]

theorem State.leaves_only (s : State) (r : Req) : Only [.ports] s (s.leaves r) := by
  simp [State.leaves]

/-- The request stands at its engines: nothing of what it reads has changed, and its port has no new reply. -/
structure Begun (r : Req) (s u : State) : Prop where
  only : Only [.regs, .ports, .marver] s u
  fields : ∀ k, regPlace k ∉ [2688, 2704, 2816] → u.f k = s.f k
  egress : (u.port r.port).egress = (s.port r.port).egress
  nodes : SameNodes s u

/-- A change of the ports alone. -/
theorem SameNodes.of_ports {s t : State} (h : Only [.ports] s t) : SameNodes s t :=
  ⟨⟨h.eq_tables (by decide), h.eq_dead (by decide), State.f_congr (h.eq_regs (by decide)) _⟩, by rw [h.eq_marver (by decide)],
    by rw [h.eq_marver (by decide)]⟩

theorem SameEngines.of_ports {s t : State} (h : Only [.ports] s t) : SameEngines s t :=
  ⟨h.eq_engineQueues (by decide), State.f_congr (h.eq_regs (by decide)) _, State.f_congr (h.eq_regs (by decide)) _⟩

/-- With the engines ready every operation has its result at once. -/
theorem State.beginTable_ready (h : EnginesReady r s) (longest : Nat) :
    ∃ u, Begun r s u ∧ (s.takeReq r).beginTable r longest = u.serveTable r := by
  have hnear := enginesReady_allNear h
  obtain ⟨-, hserve, hdone, -⟩ := h
  have hports := State.awaits_only (s.takeReq r) r longest
  have hnodes : SameNodes s ((s.takeReq r).awaits r longest) := (State.takeReq_sameNodes s r).trans (.of_ports hports)
  have hengines : SameEngines s ((s.takeReq r).awaits r longest) :=
    (State.takeReq_sameEngines s r).trans (.of_ports hports)
  have hcounted : Counted ((s.takeReq r).awaits r longest) (((s.takeReq r).awaits r longest).offersOps r) := by
    unfold State.offersOps
    rw [hnodes.opsOf]
    refine State.offerOps_near _ (fun o ho => ?_) fun o ho => hnodes.allNear (hnear o ho)
    rw [hengines.startsNow]
    exact List.all_eq_true.mp hserve o ho
  refine ⟨(((s.takeReq r).awaits r longest).offersOps r).leaves r, ⟨?_, ?_, ?_, ?_⟩, ?_⟩
  · exact ((((State.takeReq_only s r).mono (by decide)).trans (hports.mono (by decide))).trans (hcounted.only.mono (by decide))).trans
      ((State.leaves_only _ r).mono (by decide))
  · intro k hk
    rw [State.f_congr ((State.leaves_only _ r).eq_regs (by decide)), hcounted.f, State.f_congr (hports.eq_regs (by decide)),
      State.takeReq_f_apart s r hk]
  · rw [State.leaves, State.setPort_port]
    dsimp only
    rw [State.port_congr (hcounted.only.eq_ports (by decide)), (State.awaits_port _ r longest).2, State.takeReq_egress]
  · exact (hnodes.trans hcounted.sameNodes).trans (.of_ports (State.leaves_only _ r))
  · rw [State.beginTable_eq, if_pos]
    unfold State.allDone at hdone ⊢
    rw [hcounted.sameEngines.queues, hengines.queues]
    exact hdone

end Sys2Proof.Machine
end

section
/-!
Operations that must wait (R329, R330): one that cannot start as it comes joins the input queue of its engine, whatever comes before it, and the
request is answered later.
-/
namespace Sys2Proof.Machine

/-! ### The operations at an engine -/

@[simp] theorem State.setEngine_engineQueue (s : State) (n : Nat) (l : List EngineOp) : (s.setEngine n l).engineQueue n = l :=
  Map.get_set_same _ _ _ _

theorem State.setEngine_engineQueue_other (s : State) {n m : Nat} (l : List EngineOp) (h : m ≠ n) :
    (s.setEngine n l).engineQueue m = s.engineQueue m := Map.get_set_other _ _ _ h

/-- What is at an engine is listed. -/
theorem State.engineQueue_listed {s : State} {n : Nat} {o : EngineOp} (h : o ∈ s.engineQueue n) : ∃ q ∈ s.engineQueues, o ∈ q.2 := by
  have hget : ∀ m : Map (List EngineOp), o ∈ Map.get (fun _ => []) m n → ∃ q ∈ m, o ∈ q.2 := by
    intro m
    induction m with
    | nil => exact fun hm => absurd hm List.not_mem_nil
    | cons p m ih =>
      intro hm
      unfold Map.get at hm
      split at hm
      · exact ⟨_, .head _, hm⟩
      · obtain ⟨q, hq, ho⟩ := ih hm
        exact ⟨q, .tail _ hq, ho⟩
  exact hget _ h

theorem State.allDone_of_listed {s : State} {n : Nat} {o : EngineOp} (h : o ∈ s.engineQueue n) : s.allDone o.req = false := by
  obtain ⟨q, hq, ho⟩ := State.engineQueue_listed h
  unfold State.allDone
  rw [List.all_eq_false]
  refine ⟨q, hq, ?_⟩
  rw [Bool.not_eq_true, List.all_eq_false]
  exact ⟨o, ho, by simp⟩

/-- Starting an operation adds it to its engine, holding a thread, or nothing where its reads have all been served. -/
theorem State.startOp_engineQueue (s : State) (n : Nat) (o : EngineOp) :
    (∃ l, (s.startOp n o).engineQueue n = s.engineQueue n ++ l ∧ ∀ w ∈ l, w.reads.isSome = true) ∧
      ∀ m, m ≠ n → (s.startOp n o).engineQueue m = s.engineQueue m := by
  have htouch : ∀ m, ((s.touchOp o).noteThreads (s.threadsHeld + 1)).engineQueue m = s.engineQueue m :=
    State.engineQueue_congr ((((State.touchOp_only s o).mono (by decide)).trans
      ((State.noteThreads_only (s.touchOp o) (s.threadsHeld + 1)).mono (by decide)) :
        Only [.out, .regs, .marver, .pcs, .regulator] s _).eq_engineQueues (by decide))
  unfold State.startOp
  dsimp only
  split
  · exact ⟨⟨[], by rw [htouch, List.append_nil], fun w hw => absurd hw List.not_mem_nil⟩, fun m _ => htouch m⟩
  · refine ⟨⟨_, by rw [State.setEngine_engineQueue, htouch], fun w hw => ?_⟩, fun m hm => by
      rw [State.setEngine_engineQueue_other _ _ hm, htouch]⟩
    rw [List.mem_singleton.mp hw]
    rfl

/-! ### An engine that gets more operations -/

/-- From `s` to `t` operations have joined those at engine `n`, and its microcode and the limit of threads are the same. -/
structure Joined (n : Nat) (l : List EngineOp) (s t : State) : Prop where
  queue : t.engineQueue n = s.engineQueue n ++ l
  running : t.f teBenchRunning = s.f teBenchRunning
  threads : t.f teCtrlTableThreads = s.f teCtrlTableThreads

section
variable {n : Nat} {l : List EngineOp} {s t : State} (h : Joined n l s t)
include h

/-- No thread becomes free. -/
theorem Joined.threadFor {table : Nat} (hno : s.threadFor n table = false) : t.threadFor n table = false := by
  unfold State.threadFor State.heldAt State.eff at hno ⊢
  rw [h.queue, h.threads, List.filter_append, List.filter_append, List.length_append, List.length_append]
  rw [Bool.and_eq_false_iff, decide_eq_false_iff_not, decide_eq_false_iff_not] at hno ⊢
  omega

/-- An operation that waits can still start when those that have joined wait too. -/
theorem Joined.couldStart (hwait : ∀ w ∈ l, w.reads.isSome = false) (hcould : s.couldStart n = true) : t.couldStart n = true := by
  have hnone : l.filter (fun w => w.reads.isSome) = [] := List.filter_eq_nil_iff.mpr fun w hw => by simp [hwait w hw]
  have hheld : t.heldAt n = s.heldAt n := by
    unfold State.heldAt
    rw [h.queue, List.filter_append, hnone, List.append_nil]
  have hthread : ∀ table, t.threadFor n table = s.threadFor n table := fun table => by
    unfold State.threadFor State.eff
    rw [hheld, h.threads]
  unfold State.couldStart State.waitingAt at hcould ⊢
  rw [State.engineRuns_congr h.running, h.queue, List.filter_append, List.any_append]
  simp only [hthread]
  simp only [Bool.and_eq_true] at hcould
  simp [hcould]

end

/-! ### Operations that are offered -/

theorem State.offerOp_fields (s : State) (m : Nat) (o : EngineOp) : (s.offerOp m o).f teBenchRunning = s.f teBenchRunning ∧
    (s.offerOp m o).f teCtrlTableThreads = s.f teCtrlTableThreads := by
  have hk : ∀ k, regPage k < 0xD0 → k ≠ teDramReads → k ≠ teMirrorSaves → k ∉ controllerRegs ++ [teDramReads, teMirrorSaves] := by
    intro k hpage hreads hsaves hmem
    rcases List.mem_append.mp hmem with hmem | hmem
    · exact absurd (controllerRegs_page hmem) (by omega)
    · simp [hreads, hsaves] at hmem
  exact ⟨State.offerOp_regs s m o _ (hk _ (by decide) (by decide) (by decide)), State.offerOp_regs s m o _ (hk _ (by decide) (by decide) (by decide))⟩

/-- An operation that cannot start joins the input queue. -/
theorem State.offerOp_waits {s : State} {n : Nat} {o : EngineOp} (h : s.startsNow n o = false) :
    (s.offerOp n o).engineQueue n = s.engineQueue n ++ [o] ∧ ∀ m, m ≠ n → (s.offerOp n o).engineQueue m = s.engineQueue m := by
  have hnote : ∀ t : State, ∀ m, (t.noteQueue n).engineQueue m = t.engineQueue m := fun t =>
    State.engineQueue_congr ((State.noteQueue_only t n).eq_engineQueues (by decide))
  unfold State.offerOp
  rw [if_neg (by simp [h])]
  exact ⟨by rw [hnote, State.setEngine_engineQueue], fun m hm => by rw [hnote, State.setEngine_engineQueue_other _ _ hm]⟩

/-- An operation offered joins its engine or leaves it as it was; the others stay as they are. -/
theorem State.offerOp_engineQueue (s : State) (m : Nat) (o : EngineOp) :
    (∃ l, (s.offerOp m o).engineQueue m = s.engineQueue m ++ l) ∧ ∀ n, n ≠ m → (s.offerOp m o).engineQueue n = s.engineQueue n := by
  cases h : s.startsNow m o with
  | false => exact ⟨⟨_, (State.offerOp_waits h).1⟩, (State.offerOp_waits h).2⟩
  | true =>
    obtain ⟨⟨l, hl, -⟩, hother⟩ := State.startOp_engineQueue s m o
    unfold State.offerOp
    rw [if_pos h]
    exact ⟨⟨l, hl⟩, hother⟩

/-- An operation cannot start as it comes for one of three causes. -/
theorem State.startsNow_false {s : State} {n : Nat} {o : EngineOp} (h : s.startsNow n o = false) :
    s.engineRuns n = false ∨ s.threadFor n o.table = false ∨ s.couldStart n = true := by
  rw [State.startsNow_eq] at h
  cases hrun : s.engineRuns n with
  | false => exact .inl rfl
  | true =>
    cases hthread : s.threadFor n o.table with
    | false => exact .inr (.inl rfl)
    | true => exact .inr (.inr (by simpa [hrun, hthread] using h))

/-- An operation that cannot start now cannot start after another has come either. -/
theorem State.offerOp_startsNow {s : State} {n m : Nat} {o k : EngineOp} (hk : k.reads = none) (h : s.startsNow n o = false) :
    (s.offerOp m k).startsNow n o = false := by
  obtain ⟨hrun, hthreads⟩ := State.offerOp_fields s m k
  by_cases hnm : n = m
  · subst hnm
    rw [State.startsNow_eq]
    rcases State.startsNow_false h with hstill | hno | hcould
    · rw [State.engineRuns_congr hrun, hstill]
      rfl
    · obtain ⟨l, hl⟩ := (State.offerOp_engineQueue s n k).1
      rw [Joined.threadFor ⟨hl, hrun, hthreads⟩ hno]
      simp
    · have hwaits : s.startsNow n k = false := by
        rw [State.startsNow_eq, hcould]
        simp
      rw [Joined.couldStart ⟨(State.offerOp_waits hwaits).1, hrun, hthreads⟩ (by simp [hk]) hcould]
      simp
  · rw [SameEngine.startsNow ⟨(State.offerOp_engineQueue s m k).2 n hnm, hrun, hthreads⟩, h]

/-- Where an operation cannot start at first, it waits at its engine once all have been offered. -/
theorem State.offerOps_waits {s : State} (l : List (Nat × EngineOp)) (hreads : ∀ o ∈ l, o.2.reads = none) {o : Nat × EngineOp} (ho : o ∈ l)
    (h : s.startsNow o.1 o.2 = false) : o.2 ∈ (l.foldl (fun t o => t.offerOp o.1 o.2) s).engineQueue o.1 := by
  have hstays : ∀ (l : List (Nat × EngineOp)) (s : State), o.2 ∈ s.engineQueue o.1 →
      o.2 ∈ (l.foldl (fun t o => t.offerOp o.1 o.2) s).engineQueue o.1 := by
    intro l
    induction l with
    | nil => exact fun _ hs => hs
    | cons k l ih =>
      intro s hs
      refine ih _ ?_
      obtain ⟨⟨j, hj⟩, hother⟩ := State.offerOp_engineQueue s k.1 k.2
      by_cases hk : o.1 = k.1
      · rw [hk] at hs ⊢
        rw [hj]
        exact List.mem_append_left _ hs
      · rw [hother _ hk]
        exact hs
  induction l generalizing s with
  | nil => exact absurd ho List.not_mem_nil
  | cons k l ih =>
    rcases List.mem_cons.mp ho with rfl | hl
    · refine hstays l _ ?_
      rw [(State.offerOp_waits h).1]
      exact List.mem_append_right _ (.head _)
    · exact ih (fun w hw => hreads w (.tail _ hw)) hl (State.offerOp_startsNow (hreads k (.head _)) h)

/-- What a request at the engines leaves alone. -/
theorem State.offersOps_only (s : State) (r : Req) :
    Only [.out, .regs, .engineQueues, .marver, .pcs, .regulator] s (s.offersOps r) := by
  simp [State.offersOps]

/-- A request one of whose operations cannot start as it comes is answered later. -/
theorem State.beginTable_waits {s : State} {r : Req} (longest : Nat) (hserve : s.canServe r = false) :
    ∃ n o, o ∈ (((s.takeReq r).awaits r longest).offersOps r).waitingAt n ∧ o.req = r ∧
      (s.takeReq r).beginTable r longest = ((s.takeReq r).awaits r longest).offersOps r := by
  have hports := State.awaits_only (s.takeReq r) r longest
  have hnodes : SameNodes s ((s.takeReq r).awaits r longest) := (State.takeReq_sameNodes s r).trans (.of_ports hports)
  have hengines : SameEngines s ((s.takeReq r).awaits r longest) := (State.takeReq_sameEngines s r).trans (.of_ports hports)
  obtain ⟨o, ho, hstart⟩ := List.all_eq_false.mp hserve
  have hreads : ∀ k ∈ s.opsOf r, k.2.reads = none := fun k hk => (State.opsOf_engine hk).2.1
  have hmem : o.2 ∈ (((s.takeReq r).awaits r longest).offersOps r).engineQueue o.1 := by
    unfold State.offersOps
    rw [hnodes.opsOf]
    refine State.offerOps_waits _ hreads ho ?_
    rw [hengines.startsNow]
    exact Bool.eq_false_iff.mpr hstart
  have hreq := (State.opsOf_engine ho).1
  have hdone := State.allDone_of_listed hmem
  rw [hreq] at hdone
  refine ⟨o.1, o.2, List.mem_filter.mpr ⟨hmem, by rw [hreads o ho]; rfl⟩, hreq, ?_⟩
  rw [State.beginTable_eq, if_neg (by simp [hdone])]

end Sys2Proof.Machine
end

section
/-!
Lookups are answered (R311, R319 to R323): the answer of each key is that of the committed version, and a table gains but a count of operations.
-/
namespace Sys2Proof.Machine

/-! ### Replies whose latency is measured (R340) -/

theorem State.answer_replies_measured {s u : State} {r : Req} (status arg : Nat) (payload : List Byte) (n : Nat) (m : Option Nat)
    (h : (u.port r.port).egress = (s.port r.port).egress) : Replies r status arg payload s (u.answer r status arg payload n m) := by
  have hegress : ((u.answer r status arg payload n m).port r.port).egress = (s.port r.port).egress ++
      [⟨r.opcode + 0x80, r.b1 % 16, status, arg, r.tag, r.object, payload, n, m.map (fun t => (t, r.tick)), false⟩] := by
    rw [State.answer, State.addF_port, State.setPort_port, h]
  exact ⟨_, hegress, rfl, rfl, rfl, rfl, rfl, rfl, rfl⟩

theorem State.answer_f_measured (s : State) (r : Req) (status arg : Nat) (payload : List Byte) (n : Nat) (m : Option Nat) {k : Fld}
    (h : regPlace k ≠ 3584) : (s.answer r status arg payload n m).f k = s.f k :=
  (State.answer_regs s r status arg payload n m).f_apart (by simpa using h)

theorem State.answer_table (s : State) (r : Req) (status arg : Nat) (payload : List Byte) (n : Nat) (m : Option Nat) (k : Nat) :
    (s.answer r status arg payload n m).table k = s.table k :=
  State.table_congr ((State.answer_only s r status arg payload n m).eq_tables (by decide)) k

/-! ### The answer of a key (R311, R316, R321) -/

/-- A record found is a hit, none is a miss. -/
def Answer.ofRecord (o : Option (List Byte)) : Answer :=
  match o with
  | some x => .hit x
  | none => .miss

@[simp] theorem Answer.ofRecord_isHit (o : Option (List Byte)) : (Answer.ofRecord o).isHit = o.isSome := by cases o <;> rfl

@[simp] theorem Answer.ofRecord_record (o : Option (List Byte)) (x : Table) : (Answer.ofRecord o).record x = o.getD x.missRecord := by
  cases o <;> rfl

@[simp] theorem Answer.ofRecord_reliable (o : Option (List Byte)) : (Answer.ofRecord o == Answer.unreliable) = false := by cases o <;> rfl

theorem State.lookupKey_near {s : State} {n : Nat} {x : Table} {tick : Tick} {key : List Byte} (v : Version)
    (h : ∀ line ∈ x.keyNodes n key, s.copyNear n x key (s.engineOf x (x.partition key) tick) line = true) :
    s.lookupKey n x v tick key = Answer.ofRecord (v.find x key) := by
  have hgone : (x.keyNodes n key).any (s.nodeGone n x key (s.engineOf x (x.partition key) tick)) = false := by
    refine List.any_eq_false.mpr fun line hline => ?_
    rw [State.nodeGone, h line hline]
    exact Bool.false_ne_true
  unfold State.lookupKey
  rw [if_neg (by simp [hgone])]
  rfl

/-! ### Bitmaps (R321) -/

theorem bitmap_map {α β : Type} (p : β → Bool) (f : α → β) (l : List α) : bitmap p (l.map f) = bitmap (fun a => p (f a)) l := by
  unfold bitmap
  rw [List.zipIdx_map, List.map_map]
  rfl

theorem bitmap_none {α : Type} {p : α → Bool} {l : List α} (h : ∀ a ∈ l, p a = false) : bitmap p l = 0 := by
  unfold bitmap
  refine List.sum_eq_zero fun n hn => ?_
  obtain ⟨y, hy, rfl⟩ := List.mem_map.mp hn
  rw [if_neg (by simp [h y.1 (List.fst_mem_of_mem_zipIdx hy)])]

theorem trailer_zero : trailer 0 = [] := rfl

theorem length_chunks (k n : Nat) (b : List Byte) : (chunks k n b).length = n := by
  induction n generalizing b with
  | zero => rfl
  | succ n ih => rw [chunks, List.length_cons, ih]

/-! ### A table with one version only (R323) -/

section
variable {s : State} {n : Nat} {x : Table} {tick : Tick}

theorem SameTables.plain {t : State} (h : SameTables s t) (hx : Plain s n x tick) : Plain t n x tick := by
  obtain ⟨htable, hrest⟩ := hx
  exact ⟨(State.table_congr h.tables n).trans htable, hrest⟩

theorem plain_tableAt (h : Plain s n x tick) : s.tableAt n tick = some x := State.tableAt_live h.1 h.2.1

theorem plain_versionFor {r : Req} (h : Plain s n x tick) : s.versionFor n x r = x.committed := by
  obtain ⟨-, -, holds, hfrozen⟩ := h
  unfold State.versionFor
  rw [holds, hfrozen]
  rfl

theorem plain_answerOf (h : Plain s n x tick) (key : List Byte) : answerOf s n key = x.committed.find x key := by
  unfold answerOf
  rw [h.1]
  rfl

theorem plain_recordOf (h : Plain s n x tick) (key : List Byte) : recordOf s n key = (x.committed.find x key).getD x.missRecord := by
  unfold recordOf
  rw [h.1]
  rfl

theorem State.noteServed_settled (s : State) (n : Nat) (r : Req) (h : x.frozen = none) : s.noteServed n x r = s := by
  unfold State.noteServed
  rw [if_neg (by simp [h])]

end

/-- What `countLookups` adds to TE_LOOKUP (R339). -/
theorem State.countLookups_lookups (s : State) (as : List Answer) :
    (s.countLookups as).f teLookup = min (s.f teLookup + as.length) (2 ^ 64 - 1) := by
  unfold State.countLookups State.addF
  rw [State.f_setF_other _ _ (by decide), State.f_setF_other _ _ (by decide), State.f_setF_same]

@[simp] theorem State.countLookups_table (s : State) (as : List Answer) (n : Nat) : (s.countLookups as).table n = s.table n :=
  State.table_congr ((State.countLookups_only s as).eq_tables (by decide)) n

@[simp] theorem State.countLookups_port (s : State) (as : List Answer) (p : Nat) : (s.countLookups as).port p = s.port p :=
  State.port_congr ((State.countLookups_only s as).eq_ports (by decide)) p

@[simp] theorem State.putTable_port (s : State) (n : Nat) (x : Option Table) (p : Nat) : (s.putTable n x).port p = s.port p := rfl

@[simp] theorem State.putTable_f (s : State) (n : Nat) (x : Option Table) (k : Fld) : (s.putTable n x).f k = s.f k := rfl

/-! ### LOOKUP (R319 to R321) -/

/-- The key records of a LOOKUP. -/
def lookupKeys (r : Req) (x : Table) : List (List Byte) := chunks x.keyLen (argCount r) r.payload

section
variable {s : State} {r : Req} {x : Table}

theorem State.serveLookup_plain (h : Plain s r.object x r.tick) (hnear : ∀ key ∈ lookupKeys r x, ∀ line ∈ x.keyNodes r.object key,
    s.copyNear r.object x key (s.engineOf x (x.partition key) r.tick) line = true) : s.serveLookup r =
      ((s.countLookups ((lookupKeys r x).map (fun key => Answer.ofRecord (answerOf s r.object key)))).putTable r.object
        (some { x with ops := addCount x.ops (r.tick / 4000000) (argCount r) })).answer r stOk
        (bitmap (fun key => (answerOf s r.object key).isSome) (lookupKeys r x)) ((lookupKeys r x).flatMap (recordOf s r.object)) 0
        (some r.object) := by
  have hanswers : (lookupKeys r x).map (s.lookupKey r.object x (s.versionFor r.object x r) r.tick) =
      (lookupKeys r x).map (fun key => Answer.ofRecord (answerOf s r.object key)) := by
    refine List.map_congr_left fun key hkey => ?_
    rw [State.lookupKey_near _ (hnear key hkey), plain_versionFor h, plain_answerOf h]
  have hbad : bitmap (fun a => a == Answer.unreliable) ((lookupKeys r x).map (fun key => Answer.ofRecord (answerOf s r.object key))) = 0 := by
    rw [bitmap_map]
    exact bitmap_none fun _ _ => Answer.ofRecord_reliable _
  have hrecords : ((lookupKeys r x).map (fun key => Answer.ofRecord (answerOf s r.object key))).flatMap (fun a => a.record x) =
      (lookupKeys r x).flatMap (recordOf s r.object) := by
    rw [List.flatMap_map]
    refine List.flatMap_congr fun key _ => ?_
    rw [Answer.ofRecord_record, plain_answerOf h, plain_recordOf h]
  have hlen : (lookupKeys r x).length = argCount r := length_chunks _ _ _
  unfold State.serveLookup
  rw [plain_tableAt h]
  dsimp only
  rw [← lookupKeys, hanswers, hbad, hrecords, hlen, State.noteServed_settled _ _ _ h.2.2.2, bitmap_map,
    State.countOps_live (x := x) (by rw [State.countLookups_table]; exact h.1) h.2.1, trailer_zero, List.append_nil, if_pos rfl]
  simp only [Answer.ofRecord_isHit]

/-- What an answered LOOKUP leaves. -/
theorem State.serveLookup_facts (h : Plain s r.object x r.tick) (hnear : ∀ key ∈ lookupKeys r x, ∀ line ∈ x.keyNodes r.object key,
    s.copyNear r.object x key (s.engineOf x (x.partition key) r.tick) line = true) :
    Replies r stOk (bitmap (fun key => (answerOf s r.object key).isSome) (lookupKeys r x)) ((lookupKeys r x).flatMap (recordOf s r.object)) s
      (s.serveLookup r) ∧
    (s.serveLookup r).table r.object = some { x with ops := addCount x.ops (r.tick / 4000000) (argCount r) } ∧
    (∀ n, n ≠ r.object → (s.serveLookup r).table n = s.table n) ∧
    (s.serveLookup r).f teLookup = min (s.f teLookup + argCount r) (2 ^ 64 - 1) := by
  rw [State.serveLookup_plain h hnear]
  refine ⟨State.answer_replies_measured _ _ _ _ _ ?_, ?_, fun n hn => ?_, ?_⟩
  · rw [State.putTable_port, State.countLookups_port]
  · rw [State.answer_table, State.putTable_table]
  · rw [State.answer_table, State.putTable_table_other _ _ hn, State.countLookups_table]
  · rw [State.answer_f_measured _ _ _ _ _ _ _ (by decide), State.putTable_f, State.countLookups_lookups, List.length_map, lookupKeys,
      length_chunks]

end

/-! ### LOOKUP_MULTI (R322, R323) -/

theorem nodup_of_repeats {l : List Nat} (h : repeats l = false) : l.Nodup := by
  induction l with
  | nil => exact List.nodup_nil
  | cons a l ih =>
    rw [repeats, Bool.or_eq_false_iff] at h
    exact List.nodup_cons.mpr ⟨by simpa using h.1, ih h.2⟩

/-- The tables that a request finds among those it names. -/
def State.found (s : State) (tick : Tick) (l : List Nat) : List (Nat × Table) :=
  l.filterMap (fun n => (s.tableAt n tick).map (fun x => (n, x)))

theorem State.found_cons {s : State} {tick : Tick} {n : Nat} {x : Table} (h : s.tableAt n tick = some x) (l : List Nat) :
    s.found tick (n :: l) = (n, x) :: s.found tick l := by
  unfold State.found
  rw [List.filterMap_cons, h]
  rfl

/-- A table of one version on which a key finds its lines near. -/
def State.nearPlain (s : State) (tick : Tick) (key : List Byte) (n : Nat) : Prop :=
  ∃ x, Plain s n x tick ∧ ∀ line ∈ x.keyNodes n key, s.copyNear n x key (s.engineOf x (x.partition key) tick) line = true

section
variable {s : State} {r : Req} {key : List Byte}

theorem State.found_answers {l : List Nat} (h : ∀ n ∈ l, s.nearPlain r.tick key n) :
    (s.found r.tick l).map (fun k => s.lookupKey k.1 k.2 (s.versionFor k.1 k.2 r) r.tick key) =
      l.map (fun n => Answer.ofRecord (answerOf s n key)) := by
  induction l with
  | nil => rfl
  | cons n l ih =>
    obtain ⟨x, hx, hnear⟩ := h n (.head _)
    rw [State.found_cons (plain_tableAt hx), List.map_cons, List.map_cons, ih fun k hk => h k (.tail _ hk), State.lookupKey_near _ hnear,
      plain_versionFor hx, plain_answerOf hx]

theorem State.found_records {l : List Nat} (h : ∀ n ∈ l, s.nearPlain r.tick key n) :
    ((l.map (fun n => Answer.ofRecord (answerOf s n key))).zip (s.found r.tick l)).flatMap (fun y => y.1.record y.2.2) =
      l.flatMap (fun n => recordOf s n key) := by
  induction l with
  | nil => rfl
  | cons n l ih =>
    obtain ⟨x, hx, -⟩ := h n (.head _)
    rw [State.found_cons (plain_tableAt hx), List.map_cons, List.zip_cons_cons, List.flatMap_cons, List.flatMap_cons,
      ih fun k hk => h k (.tail _ hk), Answer.ofRecord_record, plain_answerOf hx, plain_recordOf hx]

/-- Each table found gains one operation, and no other table changes. -/
theorem State.found_counts {l : List Nat} (h : ∀ n ∈ l, ∃ x, Plain s n x r.tick) (hnodup : l.Nodup) (a : State)
    (ha : ∀ n ∈ l, a.table n = s.table n) :
    (∀ n ∈ l, ((s.found r.tick l).foldl (fun u k => (u.noteServed k.1 k.2 r).countOps k.1 r.tick 1) a).table n =
      (s.table n).map (fun x => { x with ops := addCount x.ops (r.tick / 4000000) 1 })) ∧
    (∀ n, n ∉ l → ((s.found r.tick l).foldl (fun u k => (u.noteServed k.1 k.2 r).countOps k.1 r.tick 1) a).table n = a.table n) := by
  induction l generalizing a with
  | nil => exact ⟨fun n hn => absurd hn List.not_mem_nil, fun n _ => rfl⟩
  | cons n l ih =>
    obtain ⟨x, hx⟩ := h n (.head _)
    obtain ⟨hn, hl⟩ := List.nodup_cons.mp hnodup
    have hstep : (a.noteServed n x r).countOps n r.tick 1 =
        a.putTable n (some { x with ops := addCount x.ops (r.tick / 4000000) 1 }) := by
      rw [State.noteServed_settled _ _ _ hx.2.2.2, State.countOps_live ((ha n (.head _)).trans hx.1) hx.2.1]
    rw [State.found_cons (plain_tableAt hx), List.foldl_cons, hstep]
    obtain ⟨hin, hout⟩ := ih (fun k hk => h k (.tail _ hk)) hl (a.putTable n (some { x with ops := addCount x.ops (r.tick / 4000000) 1 }))
      fun k hk => by
        rw [State.putTable_table_other _ _ (ne_of_mem_of_not_mem hk hn)]
        exact ha k (.tail _ hk)
    refine ⟨fun k hk => ?_, fun k hk => ?_⟩
    · rcases List.mem_cons.mp hk with rfl | hk
      · rw [hout k hn, State.putTable_table, hx.1]
        rfl
      · exact hin k hk
    · rw [hout k fun m => hk (.tail _ m), State.putTable_table_other _ _ (List.ne_of_not_mem_cons hk)]

/-- What an answered LOOKUP_MULTI leaves. -/
theorem State.serveMulti_facts (h : ∀ n ∈ multiTables r, s.nearPlain r.tick (r.payload.drop 4) n) (hnodup : (multiTables r).Nodup) :
    Replies r stOk (bitmap (fun n => (answerOf s n (r.payload.drop 4)).isSome) (multiTables r))
      ((multiTables r).flatMap (fun n => recordOf s n (r.payload.drop 4))) s (s.serveMulti r) ∧
    (∀ n ∈ multiTables r, (s.serveMulti r).table n =
      (s.table n).map (fun x => { x with ops := addCount x.ops (r.tick / 4000000) 1 })) ∧
    (∀ n, n ∉ multiTables r → (s.serveMulti r).table n = s.table n) := by
  have hplain : ∀ n ∈ multiTables r, ∃ x, Plain s n x r.tick := fun n hn => (h n hn).imp fun _ hx => hx.1
  have hbad : bitmap (fun a => a == Answer.unreliable)
      ((multiTables r).map (fun n => Answer.ofRecord (answerOf s n (r.payload.drop 4)))) = 0 := by
    rw [bitmap_map]
    exact bitmap_none fun _ _ => Answer.ofRecord_reliable _
  have hport : ∀ (l : List (Nat × Table)) (a : State), (l.foldl (fun u k => (u.noteServed k.1 k.2 r).countOps k.1 r.tick 1) a).ports =
      a.ports := fun l a => (Only.foldlI (ps := [.tables, .dead, .commits]) _ l (fun x k => by simp) (Only.refl _ a)).eq_ports (by decide)
  unfold State.serveMulti
  dsimp only
  rw [← State.found, State.found_answers h, hbad, State.found_records h, bitmap_map, trailer_zero, List.append_nil, if_pos rfl]
  simp only [Answer.ofRecord_isHit]
  obtain ⟨hin, hout⟩ := State.found_counts hplain hnodup
    (s.countLookups ((multiTables r).map (fun n => Answer.ofRecord (answerOf s n (r.payload.drop 4))))) fun n _ => by simp
  refine ⟨State.answer_replies_measured _ _ _ _ _ ?_, fun n hn => ?_, fun n hn => ?_⟩
  · rw [State.port_congr (hport _ _), State.countLookups_port]
  · rw [State.answer_table]
    exact hin n hn
  · rw [State.answer_table]
    exact (hout n hn).trans (State.countLookups_table _ _ _)

end

end Sys2Proof.Machine
end

section
/-!
Counter operations (R324 to R328): what adding to counters, reading them and clearing them does to the counters of a table.
-/
namespace Sys2Proof.Machine

/-! ### Adding (R326) -/

/-- What records add to counter `j`. -/
def addedBy (l : List (Nat × Nat × Nat)) (j : Nat) : List (Nat × Nat) := (l.filter (fun z => z.1 == j)).map (·.2)

/-- A counter with some records added, modulo 2⁶⁴. -/
def plusAll (c : Nat × Nat) (l : List (Nat × Nat)) : Nat × Nat :=
  ((c.1 + (l.map (·.1)).sum) % 2 ^ 64, (c.2 + (l.map (·.2)).sum) % 2 ^ 64)

theorem addedBy_cons_same (z : Nat × Nat × Nat) (l : List (Nat × Nat × Nat)) : addedBy (z :: l) z.1 = z.2 :: addedBy l z.1 := by
  simp [addedBy]

theorem addedBy_cons_other {z : Nat × Nat × Nat} {j : Nat} (l : List (Nat × Nat × Nat)) (h : z.1 ≠ j) : addedBy (z :: l) j = addedBy l j := by
  simp [addedBy, h]

/-- Sums modulo 2⁶⁴ one after the other are one sum. -/
theorem plusAll_cons (c a : Nat × Nat) (l : List (Nat × Nat)) :
    plusAll ((c.1 + a.1) % 2 ^ 64, (c.2 + a.2) % 2 ^ 64) l = plusAll c (a :: l) := by
  simp only [plusAll, List.map_cons, List.sum_cons, Nat.mod_add_mod, Nat.add_assoc]

/-- Adding records changes the counters that they name, and nothing else of a table. -/
theorem Table.foldl_addCounter (l : List (Nat × Nat × Nat)) (t : Table) : ∃ m, l.foldl Table.addCounter t = { t with counters := m } ∧
    ∀ j, (addedBy l j ≠ [] → Map.get counterCold m j = plusAll (Map.get counterCold t.counters j) (addedBy l j)) ∧
      (addedBy l j = [] → Map.get counterCold m j = Map.get counterCold t.counters j) := by
  induction l generalizing t with
  | nil => exact ⟨t.counters, rfl, fun j => ⟨fun h => absurd rfl h, fun _ => rfl⟩⟩
  | cons z l ih =>
    obtain ⟨m, hm, hj⟩ := ih (t.addCounter z)
    refine ⟨m, hm, fun j => ?_⟩
    obtain ⟨hsome, hnone⟩ := hj j
    by_cases hz : z.1 = j
    · subst hz
      have hfirst : Map.get counterCold (t.addCounter z).counters z.1 =
          (((Map.get counterCold t.counters z.1).1 + z.2.1) % 2 ^ 64, ((Map.get counterCold t.counters z.1).2 + z.2.2) % 2 ^ 64) :=
        Map.get_set_same _ _ _ _
      rw [hfirst] at hsome hnone
      rw [addedBy_cons_same]
      refine ⟨fun _ => ?_, fun h => absurd h (List.cons_ne_nil _ _)⟩
      rw [← plusAll_cons]
      by_cases hl : addedBy l z.1 = []
      · rw [hnone hl, hl]
        simp [plusAll]
      · exact hsome hl
    · have hother : Map.get counterCold (t.addCounter z).counters j = Map.get counterCold t.counters j :=
        Map.get_set_other _ _ _ (Ne.symm hz)
      rw [hother] at hsome hnone
      rw [addedBy_cons_other l hz]
      exact ⟨hsome, hnone⟩

/-! ### Reading (R326 to R328) -/

/-- Counters none of which is lost, as they are read. -/
def Table.values (t : Table) (is : List Nat) : List ((Nat × Nat) × Bool) := is.map (fun i => (Map.get counterCold t.counters i, false))

theorem bitmap_values (t : Table) (is : List Nat) : bitmap (fun x => x.2) (t.values is) = 0 :=
  bitmap_none fun a ha => by
    obtain ⟨i, -, rfl⟩ := List.mem_map.mp ha
    rfl

theorem flatMap_values (t : Table) (is : List Nat) :
    (t.values is).flatMap (fun x => counterBytes x.1) = is.flatMap (fun i => counterBytes (Map.get counterCold t.counters i)) := by
  rw [Table.values, List.flatMap_map]

section
variable {t : Table} (hlost : t.lost = [])
include hlost

/-- Reading counters changes nothing. -/
theorem Table.readCounters_keeps (is : List Nat) : t.readCounters false is = (t.values is, t) := by
  have hone : ∀ i, t.readCounter false i = (Map.get counterCold t.counters i, false, t) := fun i => by
    unfold Table.readCounter
    simp only [hlost, List.filter_nil, List.contains_nil]
    rw [← hlost]
    rfl
  induction is with
  | nil => rfl
  | cons i is ih =>
    simp only [Table.readCounters, hone, ih]
    rfl

theorem Table.readCounter_clears (i : Nat) : t.readCounter true i =
    (Map.get counterCold t.counters i, false, { t with counters := Map.set counterCold t.counters i (0, 0) }) := by
  unfold Table.readCounter
  simp only [hlost, List.filter_nil, List.contains_nil]
  rw [← hlost]
  rfl

/-- Reading counters each once and clearing them sets them to 0, and changes nothing else. -/
theorem Table.readCounters_clears {is : List Nat} (hnodup : is.Nodup) : ∃ m, t.readCounters true is = (t.values is, { t with counters := m }) ∧
    ∀ j, Map.get counterCold m j = if j ∈ is then (0, 0) else Map.get counterCold t.counters j := by
  induction is generalizing t with
  | nil => exact ⟨t.counters, rfl, fun j => rfl⟩
  | cons i is ih =>
    obtain ⟨hi, his⟩ := List.nodup_cons.mp hnodup
    obtain ⟨m, hm, hj⟩ := ih (t := { t with counters := Map.set counterCold t.counters i (0, 0) }) hlost his
    have hvalues : Table.values { t with counters := Map.set counterCold t.counters i (0, 0) } is = t.values is :=
      List.map_congr_left fun k hk => by
        dsimp only
        rw [Map.get_set_other _ _ _ (ne_of_mem_of_not_mem hk hi)]
    refine ⟨m, ?_, fun j => ?_⟩
    · simp only [Table.readCounters, Table.readCounter_clears hlost, hm, hvalues]
      rfl
    · rw [hj j]
      dsimp only
      rw [Map.get_set]
      by_cases h : j = i <;> simp [h]

end

/-! ### A counter table is replaced -/

/-- The state in which a counter request has changed its table to `y`, and counted itself. -/
def State.countersDone (s : State) (r : Req) (y : Table) : State :=
  ((s.addF teCntOps (counterRecords r).length (2 ^ 64 - 1)).putTable r.object (some y)).putTable r.object
    (some { y with ops := addCount y.ops (r.tick / 4000000) (counterRecords r).length })

theorem State.countersDone_facts (s : State) (r : Req) (y : Table) :
    (s.countersDone r y).table r.object = some { y with ops := addCount y.ops (r.tick / 4000000) (counterRecords r).length } ∧
    (∀ n, n ≠ r.object → (s.countersDone r y).table n = s.table n) ∧ (∀ p, (s.countersDone r y).port p = s.port p) ∧
    (s.countersDone r y).f teCntOps = min (s.f teCntOps + (counterRecords r).length) (2 ^ 64 - 1) := by
  refine ⟨?_, fun n hn => ?_, fun p => ?_, ?_⟩
  · rw [State.countersDone, State.putTable_table]
  · rw [State.countersDone, State.putTable_table_other _ _ hn, State.putTable_table_other _ _ hn]
    rfl
  · rw [State.countersDone, State.putTable_port, State.putTable_port, State.addF_port]
  · rw [State.countersDone, State.putTable_f, State.putTable_f, State.addF, State.f_setF_same]

section
variable {s : State} {r : Req} {x : Table} (hx : s.table r.object = some x) (hc : x.created ≤ r.tick)
include hx hc

theorem State.countersDone_eq {y : Table} (hy : y.created = x.created) :
    ((s.addF teCntOps (counterRecords r).length (2 ^ 64 - 1)).putTableAt r.object r.tick y).countOps r.object r.tick
      (counterRecords r).length = s.countersDone r y := by
  have htable : (s.addF teCntOps (counterRecords r).length (2 ^ 64 - 1)).table r.object = some x := hx
  rw [State.putTableAt_live htable hc, State.countOps_live (State.putTable_table _ _ _) (hy ▸ hc)]
  rfl

/-- CNT_ADD (R326). -/
theorem State.serveCounter_adds (hop : r.opcode = 0x18) : ∃ y, y.committed = x.committed ∧
    (∀ j, (addedTo r j ≠ [] → Map.get counterCold y.counters j = plusAll (Map.get counterCold x.counters j) (addedTo r j)) ∧
      (addedTo r j = [] → Map.get counterCold y.counters j = Map.get counterCold x.counters j)) ∧
    s.serveCounter r = if bitOf r.b2 0 then (s.countersDone r y).answer r stOk 0 [] 0 (some r.object) else (s.countersDone r y).dropRoom r := by
  obtain ⟨m, hm, hj⟩ := Table.foldl_addCounter (counterRecords r) x
  refine ⟨({ x with counters := m } : Table).writeBack (s.countersFar r.object x r.tick ((counterRecords r).map (·.1))), rfl, hj, ?_⟩
  unfold State.serveCounter
  rw [State.tableAt_live hx hc]
  dsimp only
  rw [if_pos hop, hm, State.countersDone_eq hx hc]
  rfl

/-- CNT_READ (R326, R328). -/
theorem State.serveCounter_reads (hop : r.opcode = 0x19) (hlost : x.lost = []) : s.serveCounter r =
    (s.countersDone r x).answer r stOk (counterRecords r).length
      ((counterRecords r).flatMap (fun z => counterBytes (Map.get counterCold x.counters z.1))) 0 (some r.object) := by
  have hclear : (r.opcode == 0x1A) = false := by rw [hop]; rfl
  unfold State.serveCounter
  rw [State.tableAt_live hx hc]
  dsimp only
  rw [if_neg (by omega), hclear, Table.readCounters_keeps hlost, if_neg (by omega)]
  dsimp only
  rw [bitmap_values, flatMap_values, List.flatMap_map, trailer_zero, List.append_nil, if_pos rfl, State.countersDone_eq hx hc]
  rfl

/-- CNT_READ_CLEAR (R326, R328). -/
theorem State.serveCounter_clears (hop : r.opcode = 0x1A) (hlost : x.lost = []) (hnodup : ((counterRecords r).map (·.1)).Nodup) :
    ∃ y, y.committed = x.committed ∧ (∀ j, Map.get counterCold y.counters j =
      if j ∈ (counterRecords r).map (·.1) then (0, 0) else Map.get counterCold x.counters j) ∧
    s.serveCounter r = (s.countersDone r y).answer r stOk (counterRecords r).length
      ((counterRecords r).flatMap (fun z => counterBytes (Map.get counterCold x.counters z.1))) 0 (some r.object) := by
  have hclear : (r.opcode == 0x1A) = true := by rw [hop]; rfl
  obtain ⟨m, hm, hj⟩ := Table.readCounters_clears hlost hnodup
  refine ⟨({ x with counters := m } : Table).writeBack (s.countersFar r.object x r.tick ((counterRecords r).map (·.1))), rfl, hj, ?_⟩
  unfold State.serveCounter
  rw [State.tableAt_live hx hc]
  dsimp only
  rw [if_neg (by omega), hclear, hm, if_pos hop]
  dsimp only
  rw [bitmap_values, flatMap_values, List.flatMap_map, trailer_zero, List.append_nil, if_pos rfl, State.countersDone_eq hx hc]
  rfl

end

end Sys2Proof.Machine
end

section
/-!
ENGINE_OP_START (R329, R440): the next operation of an engine takes a thread, and holds it while one of its reads is queued.
-/
namespace Sys2Proof.Machine

/-! ### What an operation reads does not depend on the engine queues -/

/-- The state with other operations at the engines. -/
def State.withEngines (q : Map (List EngineOp)) (s : State) : State := { s with engineQueues := q }

section
variable (q : Map (List EngineOp)) (s : State)

theorem State.withEngines_ite (c : Prop) [Decidable c] (a b : State) :
    (if c then a else b).withEngines q = if c then a.withEngines q else b.withEngines q := apply_ite _ _ _ _

theorem State.foldl_withEngines {α : Type} {f : State → α → State} (h : ∀ t a, f (t.withEngines q) a = (f t a).withEngines q) (l : List α) :
    l.foldl f (s.withEngines q) = (l.foldl f s).withEngines q := List.foldl_hom _ h

theorem State.withEngines_f (k : Fld) : (s.withEngines q).f k = s.f k := rfl

theorem State.withEngines_pcState (n : Nat) : (s.withEngines q).pcState n = s.pcState n := rfl

theorem State.setF_withEngines (k : Fld) (v : Nat) : (s.withEngines q).setF k v = (s.setF k v).withEngines q := rfl

theorem State.setFs_withEngines (l : List (Fld × Nat)) : (s.withEngines q).setFs l = (s.setFs l).withEngines q := by
  induction l generalizing s with
  | nil => rfl
  | cons p l ih => exact ih (s.setF p.1 p.2)

theorem State.addF_withEngines (k : Fld) (n mx : Nat) : (s.withEngines q).addF k n mx = (s.addF k n mx).withEngines q := rfl

theorem State.setPc_withEngines (n : Nat) (x : Pc) : (s.withEngines q).setPc n x = (s.setPc n x).withEngines q :=
  State.setFs_withEngines q { s with pcs := Map.set pcCold s.pcs n x } _

theorem State.wakePc_withEngines (n : Nat) : (s.withEngines q).wakePc n = (s.wakePc n).withEngines q := by
  unfold State.wakePc
  rw [State.withEngines_ite]
  rfl

theorem State.noteDrain_withEngines (n : Nat) : (s.withEngines q).noteDrain n = (s.noteDrain n).withEngines q := by
  unfold State.noteDrain
  simp only [State.withEngines_ite, State.withEngines_f, State.withEngines_pcState, State.setF_withEngines]
  rfl

theorem State.charge_withEngines (n c : Nat) : (s.withEngines q).charge n c = ((s.charge n c).1, (s.charge n c).2.withEngines q) := by
  unfold State.charge
  split
  · rfl
  · dsimp only
    rw [State.setPc_withEngines]
    rfl

theorem State.enterQueue_withEngines (r : MemReq) : (s.withEngines q).enterQueue r = (s.enterQueue r).withEngines q := by
  unfold State.enterQueue
  simp only [State.charge_withEngines, State.withEngines_pcState, State.withEngines_f, State.setPc_withEngines, State.noteDrain_withEngines]

theorem State.mergeWrite_withEngines (r : MemReq) (w : MemEntry) : (s.withEngines q).mergeWrite r w = (s.mergeWrite r w).withEngines q := by
  unfold State.mergeWrite
  simp only [State.withEngines_pcState, State.addF_withEngines, State.setPc_withEngines]

theorem State.acceptReq_withEngines (r : MemReq) : (s.withEngines q).acceptReq r = (s.acceptReq r).map (State.withEngines q) := by
  unfold State.acceptReq
  dsimp only
  rw [State.withEngines_pcState, State.enterQueue_withEngines]
  cases (s.pcState r.pc).newestWrite r with
  | none => dsimp only; split <;> rfl
  | some w =>
    dsimp only
    rw [State.mergeWrite_withEngines]
    (repeat' split) <;> rfl

theorem State.arrive_withEngines (r : MemReq) : (s.withEngines q).arrive r = (s.arrive r).withEngines q := by
  unfold State.arrive
  simp only [State.wakePc_withEngines, State.withEngines_ite, State.withEngines_pcState, State.acceptReq_withEngines, State.setPc_withEngines]
  cases (s.wakePc r.pc).acceptReq r <;> rfl

theorem State.request_withEngines (r : MemReq) : (s.withEngines q).request r = (s.request r).withEngines q := by
  unfold State.request
  rw [State.withEngines_ite, State.arrive_withEngines]

/-- A request for each of some rows, one after the other. -/
theorem State.requests_withEngines (f : RowAt → MemReq) (l : List RowAt) :
    l.foldl (fun u p => u.request (f p)) (s.withEngines q) = (l.foldl (fun u p => u.request (f p)) s).withEngines q :=
  State.foldl_withEngines q s (fun t p => State.request_withEngines q t (f p)) l

theorem State.touchNode_withEngines (n : Nat) (t : Table) (cls hint : Nat) (tick : Tick) (writes : Bool) (key : List Byte) (line : Nat) :
    (s.withEngines q).touchNode n t cls hint tick writes key line = (s.touchNode n t cls hint tick writes key line).withEngines q := by
  have hreads := State.requests_withEngines q (((
    { s with marver := { s.marver with accesses := addAccess ⟨tick / 4000000, n, line, t.partition key, 1,
      b2n (!s.copyNear n t key (s.engineOf t (t.partition key) tick) line)⟩ s.marver.accesses } } : State).addF teDramReads
        (max 1 (s.lineRows n t key (s.engineOf t (t.partition key) tick) line).length) (2 ^ 64 - 1)).addF teMirrorSaves
        (b2n (s.copyBad n t key false line && !s.copyBad n t key true line)) (2 ^ 32 - 1)) (s.lineRead cls hint line)
        (s.lineRows n t key (s.engineOf t (t.partition key) tick) line)
  unfold State.touchNode
  dsimp only
  rw [State.withEngines_ite, State.withEngines_ite]
  refine if_congr Iff.rfl rfl (if_congr Iff.rfl ?_ hreads)
  refine Eq.trans ?_ (State.requests_withEngines q _ (fun p => { s.lineRead cls hint line p with write := true }) _)
  exact congrArg (List.foldl _ · _) hreads

theorem State.touchOp_withEngines (o : EngineOp) : (s.withEngines q).touchOp o = (s.touchOp o).withEngines q := by
  have htable : (s.withEngines q).tableAt o.table o.req.tick = s.tableAt o.table o.req.tick := rfl
  unfold State.touchOp
  rw [htable]
  cases s.tableAt o.table o.req.tick with
  | none => rfl
  | some t => exact State.foldl_withEngines q s (fun u line => State.touchNode_withEngines q u _ _ _ _ _ _ _ line) _

end

end Sys2Proof.Machine
end

section
/-!
ENGINE_OP_START answers a request whose last result it brings (R321, R329).
-/
namespace Sys2Proof.Machine

/-! ### An answer takes a request from no port's list -/

theorem State.answer_awaiting {s u : State} (h : u.ports = s.ports) (r : Req) (status arg : Nat) (payload : List Byte) (n : Nat)
    (m : Option Nat) (p : Nat) : ((u.answer r status arg payload n m).port p).awaiting = (s.port p).awaiting := by
  rw [State.answer, State.addF_port, ← State.port_congr h p]
  by_cases hp : p = r.port
  · subst hp
    rw [State.setPort_port]
  · rw [State.setPort_port_other _ _ hp]

theorem State.dropRoom_awaiting {s u : State} (h : u.ports = s.ports) (r : Req) (p : Nat) :
    ((u.dropRoom r).port p).awaiting = (s.port p).awaiting := by
  rw [State.dropRoom, ← State.port_congr h p]
  by_cases hp : p = r.port
  · subst hp
    rw [State.setPort_port]
  · rw [State.setPort_port_other _ _ hp]

section
variable (s : State) (r : Req) (p : Nat)

theorem State.serveLookup_awaiting : ((s.serveLookup r).port p).awaiting = (s.port p).awaiting := by
  unfold State.serveLookup
  split
  · exact State.answer_awaiting rfl ..
  · refine State.answer_awaiting ?_ ..
    exact Only.eq_ports (ps := [.regs, .tables, .dead, .commits]) (by simp) (by decide)

theorem State.serveMulti_awaiting : ((s.serveMulti r).port p).awaiting = (s.port p).awaiting := by
  unfold State.serveMulti
  refine State.answer_awaiting ?_ ..
  exact Only.eq_ports (ps := [.regs, .tables, .dead, .commits]) (by simp) (by decide)

theorem State.serveCounter_awaiting : ((s.serveCounter r).port p).awaiting = (s.port p).awaiting := by
  have hports : ∀ y n, (((s.addF teCntOps n (2 ^ 64 - 1)).putTableAt r.object r.tick y).countOps r.object r.tick n).ports = s.ports :=
    fun y n => Only.eq_ports (ps := [.regs, .tables, .dead, .commits]) (by simp) (by decide)
  unfold State.serveCounter
  split
  · exact State.answer_awaiting rfl ..
  · dsimp only
    split
    · split
      · exact State.answer_awaiting (hports _ _) ..
      · exact State.dropRoom_awaiting (hports _ _) ..
    · exact State.answer_awaiting (hports _ _) ..

theorem State.serveTable_awaiting : ((s.serveTable r).port p).awaiting = (s.port p).awaiting := by
  unfold State.serveTable
  split
  · exact State.serveLookup_awaiting s r p
  · split
    · exact State.serveMulti_awaiting s r p
    · exact State.serveCounter_awaiting s r p

/-- An answered request is awaited no longer. -/
theorem State.finishTable_awaiting : ((s.finishTable r).port r.port).awaiting = (s.port r.port).awaiting.erase r := by
  rw [State.finishTable, State.serveTable_awaiting, State.setPort_port]

end

/-! ### An operation on a thread (R329) -/

/-- The state of `s` in which operation `o` has left the queue of engine `n` for a thread. -/
def State.opStarted (s : State) (n : Nat) (o : EngineOp) : State := (s.setEngine n ((s.engineQueue n).erase o)).startOp n o

section
variable {s : State} {n : Nat} {o : EngineOp}

/-- With nothing to read it leaves its engine. -/
theorem State.opStarted_noReads (h : s.opReads o = []) : (s.opStarted n o).engineQueue n = (s.engineQueue n).erase o ∧
    ∀ m, m ≠ n → (s.opStarted n o).engineQueue m = s.engineQueue m := by
  have hreads : (s.setEngine n ((s.engineQueue n).erase o)).opReads o = [] := h
  have hqueues : (s.opStarted n o).engineQueues = (s.setEngine n ((s.engineQueue n).erase o)).engineQueues := by
    unfold State.opStarted State.startOp
    rw [hreads]
    exact Only.eq_engineQueues (ps := [.out, .regs, .marver, .pcs, .regulator]) (by simp) (by decide)
  exact ⟨by rw [State.engineQueue_congr hqueues, State.setEngine_engineQueue],
    fun m hm => by rw [State.engineQueue_congr hqueues, State.setEngine_engineQueue_other _ _ hm]⟩

theorem State.readQueued_congr {s t : State} (h : t.pcs = s.pcs) : t.readQueued = s.readQueued := by
  funext q
  unfold State.readQueued State.pcState
  rw [h]

/-- An operation that finds a read of its own queued holds its thread. -/
theorem State.startOp_holds (h : (s.opReads o).filter (s.touchOp o).readQueued ≠ []) :
    s.startOp n o = ((s.touchOp o).noteThreads (s.threadsHeld + 1)).setEngine n
      (s.engineQueue n ++ [{ o with reads := some ((s.opReads o).filter (s.touchOp o).readQueued) }]) := by
  have hqueued : ((s.touchOp o).noteThreads (s.threadsHeld + 1)).readQueued = (s.touchOp o).readQueued := State.readQueued_congr rfl
  have hqueue : ((s.touchOp o).noteThreads (s.threadsHeld + 1)).engineQueue n = s.engineQueue n :=
    State.engineQueue_congr ((State.touchOp_only s o).eq_engineQueues (by decide)) n
  unfold State.startOp
  dsimp only
  rw [hqueued, hqueue, if_neg (by simpa only [List.isEmpty_iff] using h)]

/-- With a read still queued it holds the thread until that read is served. -/
theorem State.opStarted_reads (h : (s.opReads o).any (s.touchOp o).readQueued = true) :
    (∃ l, l ≠ [] ∧ (s.opStarted n o).engineQueue n = (s.engineQueue n).erase o ++ [{ o with reads := some l }] ∧
      ∀ q ∈ l, (s.opStarted n o).readQueued q = true) ∧ ∀ m, m ≠ n → (s.opStarted n o).engineQueue m = s.engineQueue m := by
  have htouch : (s.setEngine n ((s.engineQueue n).erase o)).touchOp o =
      (s.touchOp o).withEngines (Map.set (fun _ => []) s.engineQueues n ((s.engineQueue n).erase o)) := State.touchOp_withEngines _ s o
  have hqueued : ((s.setEngine n ((s.engineQueue n).erase o)).touchOp o).readQueued = (s.touchOp o).readQueued := by
    rw [htouch]
    exact State.readQueued_congr rfl
  have hreads : (s.setEngine n ((s.engineQueue n).erase o)).opReads o = s.opReads o := rfl
  have hne : (s.opReads o).filter (s.touchOp o).readQueued ≠ [] := by
    obtain ⟨q, hq, hqq⟩ := List.any_eq_true.mp h
    exact List.ne_nil_of_mem (List.mem_filter.mpr ⟨hq, hqq⟩)
  have hpcs : ∀ (t : State) (q : Map (List EngineOp)) (k : Nat) (l : List EngineOp),
      (((t.withEngines q).noteThreads k).setEngine n l).pcs = t.pcs := fun _ _ _ _ => rfl
  have hstarted := State.startOp_holds (n := n) (by rw [hreads, hqueued]; exact hne)
  rw [hreads, hqueued, State.setEngine_engineQueue, htouch] at hstarted
  refine ⟨⟨_, hne, ?_, fun q hq => ?_⟩, fun m hm => ?_⟩ <;> rw [State.opStarted, hstarted]
  · rw [State.setEngine_engineQueue]
  · exact (congrFun (State.readQueued_congr (hpcs _ _ _ _)) q).trans (List.mem_filter.mp hq).2
  · rw [State.setEngine_engineQueue_other _ _ hm]
    exact State.setEngine_engineQueue_other s _ hm

end

/-! ### ENGINE_OP_START -/

section
variable {s : State} {n : Nat} {o : EngineOp} (hhalt : s.halted = false) (hquench : s.quenched = false) (hend : s.endOps = s)
  (hnext : s.nextOp n = some o)
include hhalt hquench hend hnext

theorem execEngineOpStart_runs : execEngineOpStart n s =
    .next (if (s.opStarted n o).allDone o.req then (s.opStarted n o).finishTable o.req else s.opStarted n o) := by
  unfold execEngineOpStart
  rw [if_neg (by simp [hhalt, hquench]), hend]
  dsimp only
  rw [hnext]
  rfl

/-- Without a read of its own in a queue the operation has its result, and with the last one the request is answered. -/
theorem engineOpStart_ends (hreads : s.opReads o = []) : Does (.engineOpStart n) s (fun t =>
    t.engineQueue n = (s.engineQueue n).erase o ∧ (∀ m, m ≠ n → t.engineQueue m = s.engineQueue m) ∧ t.queues = s.queues ∧
      ((∀ q ∈ t.engineQueues, ∀ w ∈ q.2, w.req ≠ o.req) →
        (t.port o.req.port).awaiting = (s.port o.req.port).awaiting.erase o.req)) := by
  obtain ⟨hqueue, hother⟩ := State.opStarted_noReads (n := n) hreads
  have hstart : Only [.out, .regs, .engineQueues, .marver, .pcs, .regulator] s (s.opStarted n o) :=
    ((State.setEngine_only s n _).mono (by decide)).trans (State.startOp_only _ n o)
  refine ⟨_, execEngineOpStart_runs hhalt hquench hend hnext, ?_⟩
  cases hdone : (s.opStarted n o).allDone o.req with
  | true =>
    have honly := State.finishTable_only (s.opStarted n o) o.req
    have hqueues : ∀ m, ((s.opStarted n o).finishTable o.req).engineQueue m = (s.opStarted n o).engineQueue m :=
      State.engineQueue_congr (honly.eq_engineQueues (by decide))
    rw [if_pos rfl]
    refine ⟨(hqueues n).trans hqueue, fun m hm => (hqueues m).trans (hother m hm), ?_, fun _ => ?_⟩
    · rw [honly.eq_queues (by decide), hstart.eq_queues (by decide)]
    · rw [State.finishTable_awaiting, State.port_congr (hstart.eq_ports (by decide))]
  | false =>
    rw [if_neg (by simp)]
    refine ⟨hqueue, hother, hstart.eq_queues (by decide), fun hnone => ?_⟩
    have hall : (s.opStarted n o).allDone o.req = true :=
      List.all_eq_true.mpr fun q hq => List.all_eq_true.mpr fun w hw => by simpa using hnone q hq w hw
    rw [hall] at hdone
    exact absurd hdone (by simp)

/-- With a read of its own in a queue it holds a thread of its engine, and nothing is answered. -/
theorem engineOpStart_holds (hreads : (s.opReads o).any (s.touchOp o).readQueued = true) : Does (.engineOpStart n) s (fun t =>
    (∃ l, l ≠ [] ∧ t.engineQueue n = (s.engineQueue n).erase o ++ [{ o with reads := some l }] ∧ ∀ q ∈ l, t.readQueued q = true) ∧
      (∀ m, m ≠ n → t.engineQueue m = s.engineQueue m) ∧ t.ports = s.ports ∧ t.tables = s.tables ∧ t.queues = s.queues) := by
  obtain ⟨⟨l, hne, hqueue, hqueued⟩, hother⟩ := State.opStarted_reads (n := n) hreads
  have hstart : Only [.out, .regs, .engineQueues, .marver, .pcs, .regulator] s (s.opStarted n o) :=
    ((State.setEngine_only s n _).mono (by decide)).trans (State.startOp_only _ n o)
  have hdone : (s.opStarted n o).allDone o.req = false :=
    State.allDone_of_listed (o := { o with reads := some l }) (by rw [hqueue]; exact List.mem_append_right _ (.head _))
  refine ⟨_, execEngineOpStart_runs hhalt hquench hend hnext, ?_⟩
  rw [hdone, if_neg (by simp)]
  exact ⟨⟨l, hne, hqueue, hqueued⟩, hother, hstart.eq_ports (by decide), hstart.eq_tables (by decide), hstart.eq_queues (by decide)⟩

end

end Sys2Proof.Machine
end

section
/-!
O25: lookups and counter operations with the engines ready, refused, and waiting (R311, R319 to R330).
-/
namespace Sys2Proof.Machine

variable {s : State} {r : Req} {x : Table}

/-! ### A table request that its engines serve at once -/

/-- It is taken and served on a state that has the tables, the nodes and the replies of `s`. -/
theorem runTable_serves {refusal : State → Option Nat} (hadm : Admitted r (s.tableReply r refusal) s)
    (htake : refusal (s.takeReq r) = refusal s) (href : refusal s = none) (h : EnginesReady r s) :
    ∃ u, Begun r s u ∧ runTable r refusal s = .next (u.serveTable r) := by
  obtain ⟨u, hu, hserve⟩ := State.beginTable_ready h (s.tableReply r refusal)
  exact ⟨u, hu, by rw [runTable_begins hadm htake href h.1, hserve]⟩

section
variable {u : State} (hu : Begun r s u)
include hu

/-- The tables of the state served on are those of `s`. -/
theorem begun_table (n : Nat) : u.table n = s.table n := State.table_congr hu.nodes.tables n

theorem begun_answerOf (n : Nat) : answerOf u n = answerOf s n := by
  funext key
  unfold answerOf
  rw [begun_table hu]

theorem begun_recordOf (n : Nat) : recordOf u n = recordOf s n := by
  funext key
  unfold recordOf
  rw [begun_table hu]

theorem begun_serves_only : Only [.regs, .ports, .marver, .tables, .dead, .commits] s (u.serveTable r) :=
  (hu.only.mono (by decide)).trans ((State.serveTable_only u r).mono (by decide))

/-- With the engines ready for an operation, its key finds its lines near. -/
theorem begun_near (h : EnginesReady r s) {n : Nat} {keys : List (List Byte)} (hops : ∀ o ∈ s.opsOn r n keys, o ∈ s.opsOf r)
    (hx : s.tableAt n r.tick = some x) {key : List Byte} (hkey : key ∈ keys) :
    ∀ line ∈ x.keyNodes n key, u.copyNear n x key (u.engineOf x (x.partition key) r.tick) line = true := by
  have hmem : (s.engineOf x (x.partition key) r.tick, (⟨r, n, r.b1 % 16, x.partition key, key, none⟩ : EngineOp)) ∈ s.opsOf r := by
    refine hops _ ?_
    rw [State.opsOn_live hx]
    exact List.mem_map_of_mem hkey
  exact hu.nodes.allNear (enginesReady_allNear h _ hmem) x ((hu.nodes.tableAt n r.tick).trans hx)

end

/-! ### LOOKUP (R319 to R321) -/

theorem lookup_serves (hadm : Admitted r (s.tableReply r (fun t => t.lookupRefusal r)) s) (hop : r.opcode = 0x10)
    (href : s.lookupRefusal r = none) (h : EnginesReady r s) (hx : Plain s r.object x r.tick) : Does (.lookup r) s (fun t =>
      Replies r stOk (bitmap (fun k => (answerOf s r.object k).isSome) (chunks x.keyLen (argCount r) r.payload))
        ((chunks x.keyLen (argCount r) r.payload).flatMap (recordOf s r.object)) s t ∧
      t.table r.object = some { x with ops := addCount x.ops (r.tick / 4000000) (argCount r) } ∧
      (∀ n, n ≠ r.object → t.table n = s.table n) ∧ t.queues = s.queues ∧ t.mem = s.mem ∧
      t.f teLookup = min (s.f teLookup + argCount r) (2 ^ 64 - 1)) := by
  obtain ⟨u, hu, hrun⟩ := runTable_serves (refusal := fun t => t.lookupRefusal r) hadm ((State.takeReq_sameTables s r).lookupRefusal r) href h
  have honly := begun_serves_only hu
  have hserve : u.serveTable r = u.serveLookup r := if_pos hop
  have hnear : ∀ key ∈ lookupKeys r x, ∀ line ∈ x.keyNodes r.object key,
      u.copyNear r.object x key (u.engineOf x (x.partition key) r.tick) line = true := fun key hkey =>
    begun_near hu h (by rw [State.opsOf_lookup hop (plain_tableAt hx)]; exact fun o ho => ho) (plain_tableAt hx) hkey
  obtain ⟨hreply, htable, hothers, hcount⟩ := State.serveLookup_facts (hu.nodes.plain hx) hnear
  rw [begun_answerOf hu, begun_recordOf hu] at hreply
  refine ⟨_, hrun, ?_, ?_, fun n hn => ?_, honly.eq_queues (by decide), honly.eq_mem (by decide), ?_⟩ <;> rw [hserve]
  · exact hreply.of_egress hu.egress
  · exact htable
  · rw [hothers n hn, begun_table hu]
  · rw [hcount, hu.fields _ (by decide)]

theorem lookup_refused {st : Nat} (hadm : Admitted r 16 s) (href : s.lookupRefusal r = some st) : Does (.lookup r) s (fun t =>
    Replies r st 0 [] s t ∧ t.tables = s.tables ∧ t.f teRefused = min (s.f teRefused + 1) (2 ^ 32 - 1)) :=
  ⟨_, runTable_refused (refusal := fun t => t.lookupRefusal r) hadm ((State.takeReq_sameTables s r).lookupRefusal r) href,
    State.refuseTable_facts s r st⟩

/-- A LOOKUP one of whose operations cannot start waits at its engine, and its port awaits the answer. -/
theorem lookup_waits (hadm : Admitted r (s.tableReply r (fun t => t.lookupRefusal r)) s) (href : s.lookupRefusal r = none)
    (h : EnginesTake r s) (hserve : s.canServe r = false) : Does (.lookup r) s (fun t =>
      (t.port r.port).awaiting = (s.port r.port).awaiting ++ [r] ∧ (t.port r.port).egress = (s.port r.port).egress ∧
      (∃ n o, o ∈ t.waitingAt n ∧ o.req = r) ∧ t.tables = s.tables ∧ t.queues = s.queues) := by
  have hrun := runTable_begins (refusal := fun t => t.lookupRefusal r) hadm ((State.takeReq_sameTables s r).lookupRefusal r) href h
  obtain ⟨n, o, hmem, hreq, hbegin⟩ := State.beginTable_waits (s.tableReply r (fun t => t.lookupRefusal r)) hserve
  rw [hbegin] at hrun
  have hports := State.awaits_only (s.takeReq r) r (s.tableReply r (fun t => t.lookupRefusal r))
  have hoffers := State.offersOps_only ((s.takeReq r).awaits r (s.tableReply r (fun t => t.lookupRefusal r))) r
  have htake := State.takeReq_only s r
  obtain ⟨hawaiting, hegress⟩ := State.awaits_port (s.takeReq r) r (s.tableReply r (fun t => t.lookupRefusal r))
  have hport := State.port_congr (hoffers.eq_ports (by decide)) r.port
  refine ⟨_, hrun, ?_, ?_, ⟨n, o, hmem, hreq⟩, ?_, ?_⟩
  · rw [hport, hawaiting, State.takeReq_awaiting]
  · rw [hport, hegress, State.takeReq_egress]
  · rw [hoffers.eq_tables (by decide), hports.eq_tables (by decide), htake.eq_tables (by decide)]
  · rw [hoffers.eq_queues (by decide), hports.eq_queues (by decide), htake.eq_queues (by decide)]

/-- Without room in an input queue a LOOKUP stays in the ingress buffer. -/
theorem lookup_held (hmay : s.mayTake r = true) (hearly : s.early r = none) (href : s.lookupRefusal r = none)
    (hbench : s.benchHeld r = false) (hroom : s.queueRoom r = false) : Does (.lookup r) s (fun t => t = s) :=
  ⟨s, runTable_held (refusal := fun t => t.lookupRefusal r) hmay hearly href hbench hroom, rfl⟩

/-! ### LOOKUP_MULTI (R322, R323) -/

/-- A LOOKUP_MULTI that is not refused names no table twice. -/
theorem multiTables_nodup (href : s.multiRefusal r = none) : (multiTables r).Nodup := by
  refine nodup_of_repeats ?_
  cases hrep : repeats (multiTables r) with
  | false => rfl
  | true =>
    have hsome : s.multiRefusal r ≠ none := by
      unfold State.multiRefusal
      simp only [hrep, Bool.or_true, if_true]
      split
      · exact Option.some_ne_none _
      · split <;> exact Option.some_ne_none _
    exact absurd href hsome

theorem lookupMulti_serves (hadm : Admitted r (s.tableReply r (fun t => t.multiRefusal r)) s) (hop : r.opcode = 0x11)
    (href : s.multiRefusal r = none) (h : EnginesReady r s) (hplain : ∀ n ∈ multiTables r, ∃ x, Plain s n x r.tick) :
    Does (.lookupMulti r) s (fun t =>
      Replies r stOk (bitmap (fun n => (answerOf s n (r.payload.drop 4)).isSome) (multiTables r))
        ((multiTables r).flatMap (fun n => recordOf s n (r.payload.drop 4))) s t ∧
      (∀ n ∈ multiTables r, t.table n = (s.table n).map (fun x => { x with ops := addCount x.ops (r.tick / 4000000) 1 })) ∧
      (∀ n, n ∉ multiTables r → t.table n = s.table n) ∧ t.queues = s.queues) := by
  obtain ⟨u, hu, hrun⟩ := runTable_serves (refusal := fun t => t.multiRefusal r) hadm ((State.takeReq_sameTables s r).multiRefusal r) href h
  have honly := begun_serves_only hu
  have hserve : u.serveTable r = u.serveMulti r := by
    unfold State.serveTable
    rw [if_neg (by omega), if_pos hop]
  have hnear : ∀ n ∈ multiTables r, u.nearPlain r.tick (r.payload.drop 4) n := fun n hn => by
    obtain ⟨x, hx⟩ := hplain n hn
    refine ⟨x, hu.nodes.plain hx, begun_near hu h (fun o ho => ?_) (plain_tableAt hx) (List.mem_singleton.mpr rfl)⟩
    rw [State.opsOf_multi hop]
    exact List.mem_flatMap.mpr ⟨n, hn, ho⟩
  obtain ⟨hreply, hin, hout⟩ := State.serveMulti_facts hnear (multiTables_nodup href)
  simp only [begun_answerOf hu, begun_recordOf hu] at hreply
  refine ⟨_, hrun, ?_, fun n hn => ?_, fun n hn => ?_, honly.eq_queues (by decide)⟩ <;> rw [hserve]
  · exact hreply.of_egress hu.egress
  · rw [hin n hn, begun_table hu]
  · rw [hout n hn, begun_table hu]

theorem lookupMulti_refused {st : Nat} (hadm : Admitted r 16 s) (href : s.multiRefusal r = some st) : Does (.lookupMulti r) s (fun t =>
    Replies r st 0 [] s t ∧ t.tables = s.tables) := by
  obtain ⟨hreply, htables, -⟩ := State.refuseTable_facts s r st
  exact ⟨_, runTable_refused (refusal := fun t => t.multiRefusal r) hadm ((State.takeReq_sameTables s r).multiRefusal r) href, hreply, htables⟩

/-! ### Counters (R324 to R328) -/

theorem counters_serve (hadm : Admitted r (s.tableReply r (fun t => t.counterRefusal r)) s) (href : s.counterRefusal r = none)
    (h : EnginesReady r s) (hlookup : r.opcode ≠ 0x10) (hmulti : r.opcode ≠ 0x11) :
    ∃ u, Begun r s u ∧ runTable r (fun t => t.counterRefusal r) s = .next (u.serveCounter r) := by
  obtain ⟨u, hu, hrun⟩ := runTable_serves (refusal := fun t => t.counterRefusal r) hadm
    ((State.takeReq_sameTables s r).counterRefusal r) href h
  rw [State.serveTable, if_neg hlookup, if_neg hmulti] at hrun
  exact ⟨u, hu, hrun⟩

/-- A counter request that its engines have served has its table as it was served, and answers with what was served. -/
theorem countersDone_answers {u : State} (hu : Begun r s u) (y : Table) (arg : Nat) (payload : List Byte) :
    Replies r stOk arg payload s ((u.countersDone r y).answer r stOk arg payload 0 (some r.object)) ∧
    ((u.countersDone r y).answer r stOk arg payload 0 (some r.object)).table r.object =
      some { y with ops := addCount y.ops (r.tick / 4000000) (counterRecords r).length } := by
  obtain ⟨htable, -, hport, -⟩ := State.countersDone_facts u r y
  exact ⟨State.answer_replies_measured _ _ _ _ _ (by rw [hport, hu.egress]), by rw [State.answer_table, htable]⟩

section
variable (hx : s.table r.object = some x) (hc : x.created ≤ r.tick) (href : s.counterRefusal r = none) (h : EnginesReady r s)
include hx hc href h

theorem cntAdd_serves (hadm : Admitted r 16 s) (hop : r.opcode = 0x18) : Does (.cntAdd r) s (fun t =>
    (∃ y, t.table r.object = some y ∧ y.committed = x.committed ∧
      (∀ j, addedTo r j ≠ [] → Map.get counterCold y.counters j =
        (((Map.get counterCold x.counters j).1 + ((addedTo r j).map (·.1)).sum) % 2 ^ 64,
          ((Map.get counterCold x.counters j).2 + ((addedTo r j).map (·.2)).sum) % 2 ^ 64)) ∧
      (∀ j, addedTo r j = [] → Map.get counterCold y.counters j = Map.get counterCold x.counters j)) ∧
      (∀ n, n ≠ r.object → t.table n = s.table n) ∧ (bitOf r.b2 0 = true → Replies r stOk 0 [] s t) ∧
      (bitOf r.b2 0 = false → (t.port r.port).egress = (s.port r.port).egress) ∧
      t.f teCntOps = min (s.f teCntOps + (counterRecords r).length) (2 ^ 64 - 1)) := by
  have hreply : s.tableReply r (fun t => t.counterRefusal r) = 16 := if_pos (.inr hop)
  obtain ⟨u, hu, hrun⟩ := counters_serve (hreply.symm ▸ hadm) href h (by omega) (by omega)
  obtain ⟨y, hcommitted, hcounters, hserve⟩ := State.serveCounter_adds ((begun_table hu _).trans hx) hc hop
  obtain ⟨htable, hothers, hport, hcount⟩ := State.countersDone_facts u r y
  rw [hu.fields _ (by decide)] at hcount
  have hdrop := State.dropRoom_only (u.countersDone r y) r
  have hy : ∀ t : State, t.table r.object = some { y with ops := addCount y.ops (r.tick / 4000000) (counterRecords r).length } →
      ∃ y, t.table r.object = some y ∧ y.committed = x.committed ∧
        (∀ j, addedTo r j ≠ [] → Map.get counterCold y.counters j = plusAll (Map.get counterCold x.counters j) (addedTo r j)) ∧
        (∀ j, addedTo r j = [] → Map.get counterCold y.counters j = Map.get counterCold x.counters j) :=
    fun t ht => ⟨_, ht, hcommitted, fun j => (hcounters j).1, fun j => (hcounters j).2⟩
  refine ⟨_, hrun, ?_⟩
  rw [hserve]
  cases hbit : bitOf r.b2 0 with
  | true =>
    obtain ⟨hreplies, hanswered⟩ := countersDone_answers hu y 0 []
    rw [if_pos rfl]
    refine ⟨hy _ hanswered, fun n hn => ?_, fun _ => hreplies, fun hb => absurd hb (by simp), ?_⟩
    · rw [State.answer_table, hothers n hn, begun_table hu]
    · rw [State.answer_f_measured _ _ _ _ _ _ _ (by decide), hcount]
  | false =>
    rw [if_neg (by simp)]
    have htables := State.table_congr (hdrop.eq_tables (by decide))
    refine ⟨hy _ ((htables _).trans htable), fun n hn => ?_, fun hb => absurd hb (by simp), fun _ => ?_, ?_⟩
    · rw [htables, hothers n hn, begun_table hu]
    · rw [State.dropRoom, State.setPort_port]
      dsimp only
      rw [hport, hu.egress]
    · rw [State.f_congr (hdrop.eq_regs (by decide)), hcount]

variable (hadm : Admitted r (s.tableReply r (fun t => t.counterRefusal r)) s) (hlost : x.lost = [])
include hadm hlost

theorem cntRead_serves (hop : r.opcode = 0x19) : Does (.cntRead r) s (fun t =>
    Replies r stOk (counterRecords r).length
      ((counterRecords r).flatMap (fun z => counterBytes (Map.get counterCold x.counters z.1))) s t ∧
    ∃ y, t.table r.object = some y ∧ y.counters = x.counters ∧ y.committed = x.committed) := by
  obtain ⟨u, hu, hrun⟩ := counters_serve hadm href h (by omega) (by omega)
  rw [State.serveCounter_reads ((begun_table hu _).trans hx) hc hop hlost] at hrun
  obtain ⟨hreplies, hanswered⟩ := countersDone_answers hu x _ _
  exact ⟨_, hrun, hreplies, _, hanswered, rfl, rfl⟩

theorem cntReadClear_serves (hop : r.opcode = 0x1A) (hrep : repeats ((counterRecords r).map (·.1)) = false) :
    Does (.cntReadClear r) s (fun t =>
    Replies r stOk (counterRecords r).length
      ((counterRecords r).flatMap (fun z => counterBytes (Map.get counterCold x.counters z.1))) s t ∧
    ∃ y, t.table r.object = some y ∧ y.committed = x.committed ∧ ∀ j, Map.get counterCold y.counters j =
      if j ∈ (counterRecords r).map (·.1) then (0, 0) else Map.get counterCold x.counters j) := by
  obtain ⟨u, hu, hrun⟩ := counters_serve hadm href h (by omega) (by omega)
  obtain ⟨y, hcommitted, hcounters, hserve⟩ :=
    State.serveCounter_clears ((begun_table hu _).trans hx) hc hop hlost (nodup_of_repeats hrep)
  rw [hserve] at hrun
  obtain ⟨hreplies, hanswered⟩ := countersDone_answers hu y _ _
  exact ⟨_, hrun, hreplies, _, hanswered, hcommitted, hcounters⟩

end

end Sys2Proof.Machine

open Sys2Proof Sys2Proof.Machine

/-- Settles O25, clause by clause: a table request is taken and goes to its engines (`runTable_serves`); with every line near its operations
leave no trace at them, and it is answered on the tables as they were. -/
theorem lookupsAndCountersAnswer : Obligations.LookupsAndCountersAnswer := by
  unfold Obligations.LookupsAndCountersAnswer
  exact ⟨fun _ _ _ hadm hop href h hx => lookup_serves hadm hop href h hx,
    fun _ _ _ hadm href => lookup_refused hadm href,
    fun _ _ hadm href h hserve => lookup_waits hadm href h hserve,
    fun _ _ hmay hearly href hbench hroom => lookup_held hmay hearly href hbench hroom,
    fun _ _ hadm hop href h hplain => lookupMulti_serves hadm hop href h hplain,
    fun _ _ _ hadm href => lookupMulti_refused hadm href,
    fun _ _ _ hadm hop href h hx hc => cntAdd_serves hx hc href h hadm hop,
    fun _ _ _ hadm hop href h hx hc hlost => cntRead_serves hx hc href h hadm hlost hop,
    fun _ _ _ hadm hop href h hx hc hlost hrep => cntReadClear_serves hx hc href h hadm hlost hop hrep,
    fun _ _ _ hhalt hquench hend hnext hreads => engineOpStart_ends hhalt hquench hend hnext hreads,
    fun _ _ _ hhalt hquench hend hnext hreads => engineOpStart_holds hhalt hquench hend hnext hreads⟩
end

section
/-!
What the table commands do beside their completion (R335 to R338): it shows on no field of a ring, and rows written add nothing to the outputs.
-/
namespace Sys2Proof.Machine

/-! ### Completions after a change elsewhere -/

/-- The place of a field among the 64 bytes of registers that each ring has (R461), in bits. -/
def slotPlace (k : Fld) : Nat := k % 2048

theorem ring_slotPlace {r : Nat} {k : Fld} (h : k ∈ hcSqHead r :: ringRegs r) : slotPlace k ∈ [769, 776, 783, 896, 1024, 1040] := by
  have hplace : ∀ o l : Nat, o * 32 + l < 2048 → o * 32 + l ∈ [769, 776, 783, 896, 1024, 1040] →
      slotPlace (fld (0x30000 + 0x40 * r + o) l) ∈ [769, 776, 783, 896, 1024, 1040] := by
    intro o l hlt hmem
    have heq : slotPlace (fld (0x30000 + 0x40 * r + o) l) = o * 32 + l := by
      unfold slotPlace fld
      omega
    rwa [heq]
  simp only [ringRegs, List.mem_cons, List.not_mem_nil, or_false] at h
  rcases h with rfl | rfl | rfl | rfl | rfl | rfl <;> refine hplace _ _ ?_ ?_ <;> decide

theorem controllerRegs_slotPlace {k : Fld} (h : k ∈ controllerRegs) : slotPlace k ∈ [0, 3, 256, 264, 272, 280, 512, 640] := by
  have hplace : ∀ n o l : Nat, o * 32 + l < 2048 → o * 32 + l ∈ [0, 3, 256, 264, 272, 280, 512, 640] →
      slotPlace (fld (mcPcBase n + o) l) ∈ [0, 3, 256, 264, 272, 280, 512, 640] := by
    intro n o l hlt hmem
    have heq : slotPlace (fld (mcPcBase n + o) l) = o * 32 + l := by
      unfold slotPlace fld mcPcBase
      omega
    rwa [heq]
  obtain ⟨n, -, hn⟩ := List.mem_flatMap.mp h
  simp only [List.mem_cons, List.not_mem_nil, or_false] at hn
  rcases hn with rfl | rfl | rfl | rfl | rfl | rfl | rfl | rfl <;> refine hplace n _ _ ?_ ?_ <;> decide

/-- The fields that a change of rows and of controller queues sets. -/
def rowRegs : List Fld := controllerRegs ++ [mvTierReplKib, mvTierHomeKib, mvTableUsedRows, teTablesCount]

/-- They lie apart from the fields of every ring. -/
theorem rowRegs_apart {r : Nat} {k : Fld} (h : k ∈ hcSqHead r :: ringRegs r) : k ∉ rowRegs := by
  have hring := ring_slotPlace h
  intro hk
  rcases List.mem_append.mp hk with hk | hk
  · have hplaces : ∀ a ∈ [0, 3, 256, 264, 272, 280, 512, 640], a ∉ [769, 776, 783, 896, 1024, 1040] := by decide
    exact hplaces _ (controllerRegs_slotPlace hk) hring
  · have hplaces : ∀ j ∈ [mvTierReplKib, mvTierHomeKib, mvTableUsedRows, teTablesCount], slotPlace j ∉ [769, 776, 783, 896, 1024, 1040] := by
      decide
    exact hplaces _ hk hring

/-- A change that shows neither on the outputs nor on ring `r`, nor halts the rings. -/
structure Aside (r : Nat) (s t : State) : Prop where
  rings : t.rings = s.rings
  out : t.out = s.out
  heldOut : t.heldOut = s.heldOut
  pcie : t.pcie = s.pcie
  halted : t.halted = s.halted
  fields : ∀ k ∈ hcSqHead r :: ringRegs r, t.f k = s.f k

/-- A change of tables, rows and controller queues alone, seen from the outputs that it adds. -/
theorem Aside.of_only {r : Nat} {s t : State} {ks : List Fld} (o : List Output)
    (h : Only [.out, .regs, .tables, .dead, .placed, .marver, .pcs, .regulator] s t)
    (hout : t.out = o ++ s.out) (hregs : OnlyRegs ks s t) (hsafe : elStatusSafeHold ∉ ks) (hstage : devStatusStage ∉ ks)
    (hapart : ∀ k ∈ hcSqHead r :: ringRegs r, k ∉ ks) : Aside r { s with out := o ++ s.out } t :=
  ⟨h.eq_rings (by decide), hout, h.eq_heldOut (by decide), h.eq_pcie (by decide), State.halted_congr (hregs _ hsafe) (hregs _ hstage),
    fun k hk => hregs k (hapart k hk)⟩

section
variable {s t : State} {e : Sqe} {status : Nat} (h : Aside e.ring s t) (hrun : Running e s)
include h hrun

theorem Aside.running : Running e t := hrun.congr h.rings h.halted

theorem Aside.done_posts (hs : status ≠ 0x08) (result : Nat) : Posts e status result [] s (t.done e status result) :=
  (State.done_posts result (h.running hrun) hs).congr h.out h.heldOut h.pcie h.fields

theorem Aside.emitHost_done_posts (hs : status ≠ 0x08) (result : Nat) (o : Output) :
    Posts e status result [o] s ((t.emitHost o).done e status result) :=
  (State.emitHost_done_posts result (h.running hrun) hs o).congr h.out h.heldOut h.pcie h.fields

end

/-! ### Sectors that a controller answers from its queue (R383) -/

/-- From `s` to `t` the outputs gain but sectors. -/
def Forwards (s t : State) : Prop := ∃ l, (∀ o ∈ l, ∃ pc bank row sector words bad, o = .sector pc bank row sector words bad) ∧ t.out = l ++ s.out

theorem Forwards.of_out {s t : State} (h : t.out = s.out) : Forwards s t := ⟨[], fun _ h => absurd h List.not_mem_nil, h⟩

theorem Forwards.trans {s t u : State} (h : Forwards s t) (g : Forwards t u) : Forwards s u := by
  obtain ⟨l, hl, ht⟩ := h
  obtain ⟨m, hm, hu⟩ := g
  refine ⟨m ++ l, fun o ho => ?_, by rw [hu, ht, List.append_assoc]⟩
  rcases List.mem_append.mp ho with ho | ho
  · exact hm o ho
  · exact hl o ho

theorem Forwards.foldl {α : Type} {f : State → α → State} (h : ∀ t a, Forwards t (f t a)) (l : List α) (s : State) : Forwards s (l.foldl f s) := by
  induction l generalizing s with
  | nil => exact .of_out rfl
  | cons a l ih => exact (h s a).trans (ih _)

section
variable {s t : State} {r : MemReq}

theorem State.acceptReq_forwards (h : s.acceptReq r = some t) : Forwards s t ∧ (r.write = true → t.out = s.out) := by
  have henter : (s.enterQueue r).out = s.out := (State.enterQueue_only s r).eq_out (by decide)
  have hkeep : ∀ u : State, u.out = s.out → some u = some t → Forwards s t ∧ (r.write = true → t.out = s.out) := by
    intro u hu hut
    obtain rfl := Option.some.inj hut
    exact ⟨.of_out hu, fun _ => hu⟩
  unfold State.acceptReq at h
  dsimp only at h
  split at h
  · split at h
    · exact hkeep _ henter h
    · exact absurd h (by simp)
  · next w _ =>
    split at h
    · next hread =>
      obtain rfl := Option.some.inj h
      have hout : (s.countForward r.pc).out = s.out := (State.countForward_only s r.pc).eq_out (by decide)
      refine ⟨⟨[_], fun o ho => ⟨_, _, _, _, _, _, List.mem_singleton.mp ho⟩, congrArg _ hout⟩, fun hwrite => ?_⟩
      simp [hwrite] at hread
    · split at h
      · exact hkeep _ ((State.mergeWrite_only s r w).eq_out (by decide)) h
      · split at h
        · exact hkeep _ henter h
        · exact absurd h (by simp)

/-- A request that comes to a controller puts out at most its sector, and a write nothing. -/
theorem State.request_forwards (s : State) (r : MemReq) : Forwards s (s.request r) ∧ (r.write = true → (s.request r).out = s.out) := by
  have hwake : (s.wakePc r.pc).out = s.out := (State.wakePc_only s r.pc).eq_out (by decide)
  have hwait : ∀ x, ((s.wakePc r.pc).setPc r.pc x).out = s.out := fun x =>
    ((State.setPc_only _ _ x).eq_out (by decide)).trans hwake
  unfold State.request State.arrive
  dsimp only
  split
  · exact ⟨.of_out rfl, fun _ => rfl⟩
  · split
    · exact ⟨.of_out (hwait _), fun _ => hwait _⟩
    · cases haccept : (s.wakePc r.pc).acceptReq r with
      | none => exact ⟨.of_out (hwait _), fun _ => hwait _⟩
      | some t =>
        obtain ⟨hforwards, hwrites⟩ := State.acceptReq_forwards haccept
        exact ⟨(Forwards.of_out hwake).trans hforwards, fun hw => (hwrites hw).trans hwake⟩

end

theorem State.touchNode_forwards (s : State) (n : Nat) (t : Table) (cls hint : Nat) (tick : Tick) (writes : Bool) (key : List Byte) (line : Nat) :
    Forwards s (s.touchNode n t cls hint tick writes key line) := by
  unfold State.touchNode
  dsimp only
  split
  · exact .of_out rfl
  · have hrequests : ∀ (f : RowAt → MemReq) (l : List RowAt) (u : State), Forwards u (l.foldl (fun u p => u.request (f p)) u) :=
      fun f l u => Forwards.foldl (fun u p => (State.request_forwards u (f p)).1) l u
    have hcount : Forwards s (({ s with marver := { s.marver with accesses := addAccess ⟨tick / 4000000, n, line, t.partition key, 1,
        b2n (!s.copyNear n t key (s.engineOf t (t.partition key) tick) line)⟩ s.marver.accesses } } : State).addF teDramReads
          (max 1 (s.lineRows n t key (s.engineOf t (t.partition key) tick) line).length) (2 ^ 64 - 1) |>.addF teMirrorSaves
          (b2n (s.copyBad n t key false line && !s.copyBad n t key true line)) (2 ^ 32 - 1)) := .of_out rfl
    split
    · exact (hcount.trans (hrequests _ _ _)).trans (hrequests _ _ _)
    · exact hcount.trans (hrequests _ _ _)

theorem State.touchKey_forwards (s : State) (n : Nat) (t : Table) (cls hint : Nat) (tick : Tick) (writes : Bool) (key : List Byte) :
    Forwards s (s.touchKey n t cls hint tick writes key) :=
  Forwards.foldl (fun u line => State.touchNode_forwards u n t cls hint tick writes key line) _ s

/-- Staged rows are written, not read. -/
theorem State.writeStaged_out (s : State) (n : Nat) (t : Table) (cls : Nat) (es : List Entry) : (s.writeStaged n t cls es).out = s.out := by
  have hfold : ∀ {α : Type} {f : State → α → State}, (∀ t a, (f t a).out = t.out) → ∀ (l : List α) (s : State), (l.foldl f s).out = s.out := by
    intro α f h l
    induction l with
    | nil => exact fun _ => rfl
    | cons a l ih => exact fun s => (ih _).trans (h s a)
  unfold State.writeStaged
  exact hfold (fun a e => hfold (fun b line => hfold (fun c p => (State.request_forwards c _).2 rfl) _ b) _ a) es s

end Sys2Proof.Machine
end

section
/-!
The clauses of O26 (R334 to R338, R342, R343).
-/
namespace Sys2Proof.Machine

variable {s : State} {e : Sqe} {x : Table}

/-! ### TABLE_CREATE, TABLE_INFO (R334, R335) -/

/-- The catalogue's entries of the commands on tables (R495). -/
def specCreate : CmdSpec := ⟨0x180, false, false, .refused, false, [(16, 0, 16), (18, 0, 1), (20, 0, 16), (24, 0, 32), (32, 0, 128)]⟩
def specDelete : CmdSpec := ⟨0x181, false, false, .refused, false, [(16, 0, 8)]⟩
def specInfo : CmdSpec := ⟨0x182, false, false, .runs, false, [(16, 0, 8)]⟩
def specResize : CmdSpec := ⟨0x183, false, false, .refused, false, [(16, 0, 8), (20, 0, 32)]⟩
def specDump : CmdSpec := ⟨0x184, false, false, .refused, false, [(16, 0, 8), (17, 0, 1), (20, 0, 64), (32, 0, 64)]⟩
def specTune : CmdSpec := ⟨0x185, true, false, .refused, false, [(16, 0, 8), (17, 0, 2), (20, 0, 64)]⟩

/-- A command on tables that is not quenched runs its body. -/
theorem runTableCommand {op : Nat} {body : State → State} {c : CmdSpec} (hc : specFor op = some c) (h : Running e s) (hq : s.quenched = false) :
    runCommand op e s body = .next (body s) := runCommand_running hc h fun hquench => by simp [hq] at hquench

/-- The table that TABLE_CREATE makes, on the engine that serves it (R294). -/
def State.served (s : State) (t : Table) : Table := { t with serving := (List.range 64).map (fun p => (p,
  (s.usableEngines.find? s.engineRuns).getD (s.usableEngines.headD (s.liveEngines.headD 0)))) }

theorem State.placeTable_table (s : State) (n : Nat) (t : Table) : (s.placeTable n t).table n = some (s.served t) :=
  State.putTable_table s n (some (s.served t))

theorem State.placeTable_table_other (s : State) {n m : Nat} (t : Table) (h : m ≠ n) : (s.placeTable n t).table m = s.table m :=
  State.putTable_table_other s (some (s.served t)) h

/-- Completing a command changes no table. -/
@[simp] theorem State.done_table (s : State) (e : Sqe) (status result n : Nat) : (s.done e status result).table n = s.table n :=
  State.table_congr (State.done_keeps_tables s e status result) n

@[simp] theorem State.syncTables_table (s : State) (n : Nat) : s.syncTables.table n = s.table n :=
  State.table_congr ((State.syncTables_only s).eq_tables (by decide)) n

@[simp] theorem State.writeStaged_table (s : State) (n : Nat) (t : Table) (cls : Nat) (es : List Entry) (m : Nat) :
    (s.writeStaged n t cls es).table m = s.table m :=
  State.table_congr ((State.writeStaged_only s n t cls es).eq_tables (by decide)) m

/-- What a change of tables, rows and controller queues does beside them shows on no ring, where the other fields that it sets do not. -/
theorem aside_of_regs {r : Nat} {t : State} {l : List Fld} (o : List Output)
    (h : Only [.out, .regs, .tables, .dead, .placed, .marver, .pcs, .regulator] s t)
    (hout : t.out = o ++ s.out) (hregs : OnlyRegs (controllerRegs ++ l) s t) (hsafe : elStatusSafeHold ∉ l) (hstage : devStatusStage ∉ l)
    (hapart : ∀ k ∈ hcSqHead r :: ringRegs r, k ∉ controllerRegs ++ l) : Aside r { s with out := o ++ s.out } t := by
  have hplaces : slotPlace elStatusSafeHold ∉ [0, 3, 256, 264, 272, 280, 512, 640] := by decide
  have hpage : ¬ 0xD0 ≤ regPage devStatusStage := by decide
  refine .of_only o h hout hregs (fun hk => ?_) (fun hk => ?_) hapart <;> rcases List.mem_append.mp hk with hk | hk
  · exact hplaces (controllerRegs_slotPlace hk)
  · exact hsafe hk
  · exact hpage (controllerRegs_page hk)
  · exact hstage hk

theorem aside_of_rows {r : Nat} {t : State} (h : Only [.out, .regs, .tables, .dead, .placed, .marver, .pcs, .regulator] s t) (hout : t.out = s.out)
    (hregs : OnlyRegs rowRegs s t) : Aside r s t := aside_of_regs [] h hout hregs (by decide) (by decide) fun _ hk => rowRegs_apart hk

theorem tableCreate_makes {k : TableKind} (hrun : Running e s) (hq : s.quenched = false) (hkind : kindOf (e.par 17 1) = some k)
    (hok : createOk e k = true) (hfree : s.numberTaken (e.par 16 1) e.tick = false) (hlayers : (newTable e k).mirror = false ∨ 2 ≤ s.layersInService)
    (hrows : (newTable e k).reserved ≤ s.freeTableRows) (hpaused : s.placingPaused = false) : Does (.tableCreate e) s (fun t =>
      t.table (e.par 16 1) = some (s.served (newTable e k)) ∧ (∀ n, n ≠ e.par 16 1 → t.table n = s.table n) ∧
      Posts e stOk (packBytes [(0, 8, e.tick), (8, 4, (newTable e k).reserved)]) [] s t ∧
      Only (.tables :: .placed :: .marver :: ringParts) s t) := by
  have hmirror : ¬ ((newTable e k).mirror && decide (s.layersInService < 2)) = true := by
    rcases hlayers with h | h <;> simp [h, Nat.not_lt.mpr]
  have hx : exec (.tableCreate e) s = .next (((s.placeTable (e.par 16 1) (newTable e k)).syncTables).done e stOk
      (packBytes [(0, 8, e.tick), (8, 4, (newTable e k).reserved)])) := by
    show execTableCreate e s = _
    unfold execTableCreate
    rw [runTableCommand (by decide : specFor 0x180 = some specCreate) hrun hq]
    simp only [hkind, hok, hfree, hpaused, if_neg hmirror, if_neg (Nat.not_lt.mpr hrows)]
    rfl
  have hplace : Only [.out, .regs, .tables, .dead, .placed, .marver, .pcs, .regulator] s (s.placeTable (e.par 16 1) (newTable e k)).syncTables := by
    simp
  have haside : Aside e.ring s (s.placeTable (e.par 16 1) (newTable e k)).syncTables :=
    aside_of_rows hplace (((State.syncTables_only _).eq_out (by decide)).trans ((State.placeTable_only s _ _).eq_out (by decide)))
      (OnlyRegs.mono (ks := [mvTierReplKib, mvTierHomeKib, mvTableUsedRows, teTablesCount]) (by simp) (List.subset_append_right _ _))
  refine ⟨_, hx, ?_, fun n hn => ?_, haside.done_posts hrun (by decide) _, (execTableCreate_only hx).mono (by decide)⟩
  · rw [State.done_table, State.syncTables_table, State.placeTable_table]
  · rw [State.done_table, State.syncTables_table, State.placeTable_table_other s _ hn]

theorem tableCreate_badKind (hrun : Running e s) (hq : s.quenched = false) (hkind : 4 ≤ e.par 17 1) :
    Answers (.tableCreate e) e stBadParam 0 s := by
  have hnone : kindOf (e.par 17 1) = none := by
    obtain ⟨m, hm⟩ := Nat.exists_eq_add_of_le' hkind
    rw [hm]
    rfl
  refine State.done_answers ?_ hrun (by decide)
  show execTableCreate e s = _
  unfold execTableCreate
  rw [runTableCommand (by decide : specFor 0x180 = some specCreate) hrun hq]
  simp only [hnone]

theorem tableInfo_answers (hrun : Running e s) (hx : s.table (e.par 16 1) = some x) (hkind : x.kind = .index) :
    Answers (.tableInfo e) e stOk (packBytes [(0, 1, 2), (1, 1, b2n x.mirror + 2 * b2n x.holes), (2, 1, x.klen), (3, 1, x.vlen),
      (4, 4, x.committed.capacity), (8, 4, x.committed.capacity), (12, 4, x.reserved), (16, 4, x.rowsInUse (e.par 16 1)),
      (20, 4, x.number)]) s := by
  refine State.done_answers ?_ hrun (by decide)
  show execTableInfo e s = _
  unfold execTableInfo
  rw [runCommand_running (by decide : specFor 0x182 = some specInfo) hrun fun _ => rfl]
  simp only [hx, hkind]
  rfl

theorem tableInfo_unknown (hrun : Running e s) (hx : s.table (e.par 16 1) = none) : Answers (.tableInfo e) e stNoSuchObject 0 s := by
  refine State.done_answers ?_ hrun (by decide)
  show execTableInfo e s = _
  unfold execTableInfo
  rw [runCommand_running (by decide : specFor 0x182 = some specInfo) hrun fun _ => rfl]
  simp only [hx]

/-! ### TABLE_RESIZE, TABLE_TUNE (R334, R337) -/

theorem tableResize_stages (hrun : Running e s) (hq : s.quenched = false) (hx : s.table (e.par 16 1) = some x) (hkind : x.kind = .index)
    (hcap : e.par 20 4 ≠ 0) (hopened : x.opened = none) (hfrozen : x.frozen = none)
    (hrows : x.copies (baseRows .index x.klen x.vlen (e.par 20 4) x.instances +
      stageDefault .index (baseRows .index x.klen x.vlen (e.par 20 4) x.instances)) ≤ s.freeTableRows) (hpaused : s.placingPaused = false) :
    Does (.tableResize e) s (fun t => (∃ y v, t.table (e.par 16 1) = some y ∧ y.opened = some v ∧ v.capacity = e.par 20 4 ∧
      v.entries = x.committed.entries.filter (fun z => decide (leNat z.key < e.par 20 4)) ∧ y.committed = x.committed) ∧
      Posts e stOk 0 [] s t ∧ Only (.tables :: .marver :: .pcs :: .regulator :: ringParts) s t) := by
  obtain ⟨y, ⟨v, hv, hcapacity, hentries, hcommitted⟩, hx'⟩ : ∃ y : Table, (∃ v, y.opened = some v ∧ v.capacity = e.par 20 4 ∧
      v.entries = x.committed.entries.filter (fun z => decide (leNat z.key < e.par 20 4)) ∧ y.committed = x.committed) ∧
      exec (.tableResize e) s = .next ((((s.putTable (e.par 16 1) (some y)).syncTables).writeStaged (e.par 16 1) x e.cls
        (x.committed.entries.filter (fun z => decide (leNat z.key < e.par 20 4)))).done e stOk 0) := by
    refine ⟨x.stageWhole _ (e.par 20 4) x.committed.seed (baseRows .index x.klen x.vlen (e.par 20 4) x.instances)
      (x.copies (baseRows .index x.klen x.vlen (e.par 20 4) x.instances +
        stageDefault .index (baseRows .index x.klen x.vlen (e.par 20 4) x.instances))), ⟨_, rfl, rfl, rfl, rfl⟩, ?_⟩
    show execTableResize e s = _
    unfold execTableResize
    rw [runTableCommand (by decide : specFor 0x183 = some specResize) hrun hq]
    simp only [hx, hkind, hopened, hfrozen, hpaused, if_neg hcap, if_neg (Nat.not_lt.mpr hrows)]
    rfl
  have haside : Aside e.ring s (((s.putTable (e.par 16 1) (some y)).syncTables).writeStaged (e.par 16 1) x e.cls
      (x.committed.entries.filter (fun z => decide (leNat z.key < e.par 20 4)))) := by
    refine aside_of_rows (by simp) ?_ (by simp [rowRegs])
    rw [State.writeStaged_out, (State.syncTables_only _).eq_out (by decide)]
    rfl
  refine ⟨_, hx', ⟨y, v, ?_, hv, hcapacity, hentries, hcommitted⟩, haside.done_posts hrun (by decide) _,
    (execTableResize_only hx').mono (by decide)⟩
  rw [State.done_table, State.writeStaged_table, State.syncTables_table, State.putTable_table]

theorem tableTune_stageRows (hrun : Running e s) (hq : s.quenched = false) (hx : s.table (e.par 16 1) = some x) (hkind : x.kind ≠ .counter)
    (hseed : e.bit 17 0 = false) (hstage : e.bit 17 1 = true) (hmin : 64 ≤ e.par 24 4)
    (hrows : ({ x with stageRows := e.par 24 4 } : Table).rowsHeld ≤ s.freeTableRows + x.rowsHeld) (hpaused : s.placingPaused = false) :
    Does (.tableTune e) s (fun t => t.table (e.par 16 1) = some { x with stageRows := e.par 24 4 } ∧ Posts e stOk 0 [] s t ∧
      Only (.tables :: .marver :: ringParts) s t) := by
  have hx' : exec (.tableTune e) s = .next (((s.putTable (e.par 16 1) (some { x with stageRows := e.par 24 4 })).syncTables).done e stOk 0) := by
    show execTableTune e s = _
    unfold execTableTune
    rw [runTableCommand (by decide : specFor 0x185 = some specTune) hrun hq]
    have hcounter : (x.kind == TableKind.counter) = false := beq_eq_false_iff_ne.mpr hkind
    have hsmall : decide (e.par 24 4 < 64) = false := decide_eq_false (by omega)
    simp only [hx, hseed, hstage, hcounter, hsmall, hpaused, if_true, if_neg (Nat.not_lt.mpr hrows)]
    rfl
  have haside : Aside e.ring s (s.putTable (e.par 16 1) (some { x with stageRows := e.par 24 4 })).syncTables :=
    aside_of_rows (by simp) ((State.syncTables_only _).eq_out (by decide)) (by simp [rowRegs])
  refine ⟨_, hx', ?_, haside.done_posts hrun (by decide) _, ?_⟩
  · rw [State.done_table, State.syncTables_table, State.putTable_table]
  · simp [ringParts]

/-! ### Rows that come back (R336, R342, R343) -/

theorem tableRowsReturn_returns {n : Nat} {d : DeadTable} (hd : s.dead.find? (fun d => d.number == n) = some d)
    (hsettled : s.tableSettled n d.tick = true) : Does (.tableRowsReturn n) s (fun t => t.dead = s.dead.erase d ∧ Only [.dead, .regs, .marver] s t ∧
      OnlyRegs [mvTableUsedRows, teTablesCount, mvTierReplKib, mvTierHomeKib] s t) := by
  have hx : exec (.tableRowsReturn n) s = .next ({ s with dead := s.dead.erase d } : State).syncTables := by
    show execTableRowsReturn n s = _
    unfold execTableRowsReturn
    rw [hd]
    exact if_pos hsettled
  exact ⟨_, hx, (State.syncTables_only _).eq_dead (by decide), (execTableRowsReturn_only hx).mono (by decide),
    (execTableRowsReturn_regs hx).mono (by decide)⟩

theorem versionRowsRelease_releases {n : Nat} {o : OldVersion} (hx : s.table n = some x) (hold : x.olds.getLast? = some o)
    (huse : s.oldInUse n x o = false) : Does (.versionRowsRelease n) s (fun t => t.table n = some { x with olds := x.olds.dropLast } ∧
      Only [.tables, .regs, .marver] s t ∧ OnlyRegs [mvTableUsedRows, teTablesCount, mvTierReplKib, mvTierHomeKib] s t) := by
  have hx' : exec (.versionRowsRelease n) s = .next (s.putTable n (some { x with olds := x.olds.dropLast })).syncTables := by
    show execVersionRowsRelease n s = _
    unfold execVersionRowsRelease
    simp only [hx, hold, huse]
    rfl
  exact ⟨_, hx', by rw [State.syncTables_table, State.putTable_table], (execVersionRowsRelease_only hx').mono (by decide),
    (execVersionRowsRelease_regs hx').mono (by decide)⟩

/-! ### TABLE_DELETE on a ring of the device (R336, R342, R422) -/

/-- The fields of a page other than that of the rings lie apart from those of the device's rings. -/
theorem page_apart {r : Nat} {l : List Fld} (hr : r ≤ 15) (hl : ∀ j ∈ l, regPage j ≠ 0x30) :
    ∀ k ∈ hcSqHead r :: ringRegs r, k ∉ controllerRegs ++ l := by
  intro k hk hm
  have hpage := ring_page hr hk
  rcases List.mem_append.mp hm with hm | hm
  · have hhigh := controllerRegs_page hm
    omega
  · exact hl k hm hpage

/-- An accepted TABLE_DELETE takes effect. -/
def TableDeleteActs (s : State) (e : Sqe) (x : Table) : Prop :=
  Does (.tableDelete e) s (fun t => t.table (e.par 16 1) = none ∧ (∀ n, n ≠ e.par 16 1 → t.table n = s.table n) ∧
    t.dead = s.dead ++ [⟨e.par 16 1, x, e.tick⟩] ∧ Posts e stOk (packBytes [(0, 8, e.tick), (8, 4, x.rowsHeld)]) [] s t ∧
    t.queues = s.queues)

/-- The table stands no longer at its number, and its rows are kept for the requests before. -/
def State.unmade (s : State) (n : Nat) (x : Table) (tick : Tick) : State :=
  { s.putTable n none with
    dead := s.dead ++ [⟨n, x, tick⟩]
    marver := { s.marver with
      nodes := s.marver.nodes.filter (fun y => y.table != n)
      settings := s.marver.settings.filter (fun y => match y with
        | .hint m _ _ _ _ => m != n
        | .tune .. => true) } }

theorem State.unmade_only (s : State) (n : Nat) (x : Table) (tick : Tick) : Only [.tables, .dead, .marver] s (s.unmade n x tick) := by
  have hboth : ∀ (u : State) (d : List DeadTable) (m : Marver), Only [.dead, .marver] u { u with dead := d, marver := m } :=
    fun _ _ _ => by simp
  exact ((State.putTable_only s n none).mono (by decide)).trans ((hboth (s.putTable n none) _ _).mono (by decide))

theorem State.deleteTable_eq {n : Nat} (hx : s.table n = some x) : s.deleteTable n e.ring e.tag e.tick =
    (((s.unmade n x e.tick).clearDamaged n).syncTables).done e stOk (packBytes [(0, 8, e.tick), (8, 4, x.rowsHeld)]) := by
  unfold State.deleteTable
  rw [hx]
  rfl

theorem tableDelete_acts (hring : e.ring ≤ 15) (hrun : Running e s) (hq : s.quenched = false) (hx : s.table (e.par 16 1) = some x)
    (hcommit : s.commitOf (e.par 16 1) = none) : TableDeleteActs s e x := by
  have hx' : exec (.tableDelete e) s = .next ((((s.unmade (e.par 16 1) x e.tick).clearDamaged (e.par 16 1)).syncTables).done e stOk
      (packBytes [(0, 8, e.tick), (8, 4, x.rowsHeld)])) := by
    show execTableDelete e s = _
    unfold execTableDelete
    rw [runTableCommand (by decide : specFor 0x181 = some specDelete) hrun hq]
    simp only [hx, hcommit]
    rw [State.deleteTable_eq hx]
  have hunmade := State.unmade_only s (e.par 16 1) x e.tick
  have hrest : Only [.regs, .marver] (s.unmade (e.par 16 1) x e.tick) (((s.unmade (e.par 16 1) x e.tick).clearDamaged (e.par 16 1)).syncTables) := by
    simp
  have hpage : regPage (igTableDamaged (e.par 16 1 / 32)) = 0xE0 := by
    have hnumber : e.par 16 1 < 256 := Nat.mod_lt _ (by decide)
    unfold regPage igTableDamaged fld
    omega
  have hfar : ∀ k : Fld, regPage k ≠ 0xE0 → k ≠ igTableDamaged (e.par 16 1 / 32) := fun k hk heq => hk (heq ▸ hpage)
  have haside : Aside e.ring s (((s.unmade (e.par 16 1) x e.tick).clearDamaged (e.par 16 1)).syncTables) := by
    refine aside_of_regs (l := [igTableDamaged (e.par 16 1 / 32), mvTierReplKib, mvTierHomeKib, mvTableUsedRows, teTablesCount]) []
      ((hunmade.mono (by decide)).trans (hrest.mono (by decide))) ((hrest.eq_out (by decide)).trans (hunmade.eq_out (by decide)))
      (((OnlyRegs.of_only hunmade (by decide)).mono (List.nil_subset _)).trans (by simp)) ?_ ?_ (page_apart hring ?_)
    · exact List.not_mem_cons_of_ne_of_not_mem (hfar _ (by decide)) (by decide)
    · exact List.not_mem_cons_of_ne_of_not_mem (hfar _ (by decide)) (by decide)
    · refine List.forall_mem_cons.mpr ⟨by omega, by decide⟩
  have htable : ∀ n, ((((s.unmade (e.par 16 1) x e.tick).clearDamaged (e.par 16 1)).syncTables).done e stOk
      (packBytes [(0, 8, e.tick), (8, 4, x.rowsHeld)])).table n = (s.putTable (e.par 16 1) none).table n := fun n => by
    rw [State.done_table, State.table_congr (hrest.eq_tables (by decide))]
    rfl
  refine ⟨_, hx', (htable _).trans (State.putTable_table _ _ _), fun n hn => (htable n).trans (State.putTable_table_other _ _ hn), ?_,
    haside.done_posts hrun (by decide) _, ?_⟩
  · rw [State.done_keeps_dead, hrest.eq_dead (by decide)]
    rfl
  · rw [State.done_keeps_queues, hrest.eq_queues (by decide), hunmade.eq_queues (by decide)]

/-! ### CNT_DUMP on a ring of the device (R338) -/

/-- An accepted CNT_DUMP takes effect. -/
def CntDumpActs (s : State) (e : Sqe) (x : Table) : Prop :=
  Does (.cntDump e) s (fun t =>
    (∃ l, (∀ o ∈ l, ∃ pc bank row sector words bad, o = .sector pc bank row sector words bad) ∧
      Posts e stOk 0 [.hostWrite (e.par 32 8) ((List.range (e.par 24 4)).flatMap (fun i =>
        counterBytes (Map.get counterCold x.counters (e.par 20 4 + i))))] { s with out := l ++ s.out } t) ∧
    ∃ y, t.table (e.par 16 1) = some y ∧ y.committed = x.committed ∧ ∀ j, Map.get counterCold y.counters j =
      if e.bit 17 0 = true ∧ e.par 20 4 ≤ j ∧ j < e.par 20 4 + e.par 24 4 then (0, 0) else Map.get counterCold x.counters j)

/-- The counters that a CNT_DUMP reads. -/
def dumpRange (e : Sqe) : List Nat := (List.range (e.par 24 4)).map (fun i => e.par 20 4 + i)

theorem dumpRange_nodup (e : Sqe) : (dumpRange e).Nodup := List.nodup_range.map fun _ _ h => Nat.add_left_cancel h

theorem mem_dumpRange (e : Sqe) (j : Nat) : j ∈ dumpRange e ↔ e.par 20 4 ≤ j ∧ j < e.par 20 4 + e.par 24 4 := by
  simp only [dumpRange, List.mem_map, List.mem_range]
  constructor
  · rintro ⟨i, hi, rfl⟩
    omega
  · rintro ⟨hlow, hhigh⟩
    exact ⟨j - e.par 20 4, by omega, by omega⟩

/-- Its counters have been touched, each on the table as it was. -/
def State.dumpTouches (s : State) (e : Sqe) (x : Table) : State :=
  (dumpRange e).foldl (fun u i => u.touchKey (e.par 16 1) x e.cls 0 e.tick (e.bit 17 0) (leBytes 4 i)) s

/-- The table stands as the dump left it, with its operations counted. -/
def State.dumped (s : State) (e : Sqe) (x y : Table) : State :=
  ((s.dumpTouches e x).putTable (e.par 16 1) (some { y with ops := addCount y.ops (e.tick / 4000000) (e.par 24 4) })).addF teCntOps (e.par 24 4)
    (2 ^ 64 - 1)

theorem State.dumped_table (s : State) (e : Sqe) (x y : Table) :
    (s.dumped e x y).table (e.par 16 1) = some { y with ops := addCount y.ops (e.tick / 4000000) (e.par 24 4) } := by
  unfold State.dumped
  rw [State.table_congr ((State.addF_only _ _ _ _).eq_tables (by decide)), State.putTable_table]

/-- What a dump reads, and the table that it leaves: cleared counters read 0, and nothing else changes. -/
theorem Table.dump_reads (e : Sqe) (hlost : x.lost = []) (far : List Nat) : ∃ y, (x.readCounters (e.bit 17 0) (dumpRange e)).1 = x.values (dumpRange e) ∧
    (if e.bit 17 0 then (x.readCounters (e.bit 17 0) (dumpRange e)).2.writeBack far else (x.readCounters (e.bit 17 0) (dumpRange e)).2) = y ∧
    y.committed = x.committed ∧ ∀ j, Map.get counterCold y.counters j =
      if e.bit 17 0 = true ∧ e.par 20 4 ≤ j ∧ j < e.par 20 4 + e.par 24 4 then (0, 0) else Map.get counterCold x.counters j := by
  cases hclear : e.bit 17 0 with
  | false =>
    rw [Table.readCounters_keeps hlost]
    exact ⟨x, rfl, rfl, rfl, fun j => by simp⟩
  | true =>
    obtain ⟨m, hm, hj⟩ := Table.readCounters_clears hlost (dumpRange_nodup e)
    rw [hm]
    refine ⟨_, rfl, rfl, rfl, fun j => (hj j).trans ?_⟩
    simp only [mem_dumpRange, true_and]

theorem State.dumped_only (s : State) (e : Sqe) (x y : Table) : Only [.out, .regs, .tables, .marver, .pcs, .regulator] s (s.dumped e x y) := by
  simp [State.dumped, State.dumpTouches]

theorem State.dumped_regs (s : State) (e : Sqe) (x y : Table) :
    OnlyRegs (controllerRegs ++ [teDramReads, teMirrorSaves, teCntOps]) s (s.dumped e x y) := by
  have htouch : OnlyRegs (controllerRegs ++ [teDramReads, teMirrorSaves]) s (s.dumpTouches e x) := by
    simp [State.dumpTouches]
  refine (htouch.mono ?_).trans (by simp [State.dumped])
  exact List.append_subset.mpr ⟨List.subset_append_left _ _, fun k hk => List.mem_append_right _ (by revert hk; simp; tauto)⟩

theorem cntDump_acts (hring : e.ring ≤ 15) (hrun : Running e s) (hq : s.quenched = false) (hcount : e.par 24 4 ≠ 0)
    (halign : e.par 32 8 % 16 = 0) (hx : s.table (e.par 16 1) = some x) (hkind : x.kind = .counter)
    (hcap : e.par 20 4 + e.par 24 4 ≤ x.committed.capacity) (hgone : s.enginesGone = false) (hlost : x.lost = []) : CntDumpActs s e x := by
  obtain ⟨y, hvalues, hy, hcommitted, hcounters⟩ := Table.dump_reads e hlost (s.countersFar (e.par 16 1) x e.tick (dumpRange e))
  have hnone : ((x.values (dumpRange e)).filter (fun z => z.2)) = [] := by
    unfold Table.values
    exact List.filter_eq_nil_iff.mpr fun a ha => by
      obtain ⟨i, -, rfl⟩ := List.mem_map.mp ha
      exact Bool.false_ne_true
  have hbytes : (x.values (dumpRange e)).flatMap (fun z => counterBytes z.1) =
      (List.range (e.par 24 4)).flatMap (fun i => counterBytes (Map.get counterCold x.counters (e.par 20 4 + i))) := by
    rw [flatMap_values, dumpRange, List.flatMap_map]
  have hx' : exec (.cntDump e) s = .next (((s.dumped e x y).emitHost (.hostWrite (e.par 32 8) ((List.range (e.par 24 4)).flatMap (fun i =>
      counterBytes (Map.get counterCold x.counters (e.par 20 4 + i)))))).done e stOk 0) := by
    show execCntDump e s = _
    unfold execCntDump
    rw [runTableCommand (by decide : specFor 0x184 = some specDump) hrun hq]
    dsimp only
    rw [if_neg (by omega), hx]
    dsimp only
    rw [if_neg (by simp [hkind]), if_neg (by omega), if_neg (by simp [hgone]), ← dumpRange, hvalues, hy, hnone, hbytes]
    rfl
  obtain ⟨l, hsectors, hout⟩ : Forwards s (s.dumpTouches e x) :=
    Forwards.foldl (fun u i => State.touchKey_forwards u _ _ _ _ _ _ _) _ s
  have haside : Aside e.ring { s with out := l ++ s.out } (s.dumped e x y) :=
    aside_of_regs l ((State.dumped_only s e x y).mono (by decide)) hout (State.dumped_regs s e x y) (by decide) (by decide)
      (page_apart hring (by decide))
  refine ⟨_, hx', ⟨l, hsectors, haside.emitHost_done_posts (Running.congr rfl rfl hrun) (by decide) 0 _⟩,
    { y with ops := addCount y.ops (e.tick / 4000000) (e.par 24 4) }, ?_, hcommitted, hcounters⟩
  rw [State.done_table, State.table_congr (State.emitHost_keeps_tables _ _), State.dumped_table]

/-! ### All of O26 rests on two of its clauses -/

theorem tableCommandsAct_of_deleteAndDump
    (hdelete : ∀ (s : State) (e : Sqe) (x : Table), Running e s → s.quenched = false → s.table (e.par 16 1) = some x →
      s.commitOf (e.par 16 1) = none → TableDeleteActs s e x)
    (hdump : ∀ (s : State) (e : Sqe) (x : Table), Running e s → s.quenched = false → e.par 24 4 ≠ 0 → e.par 32 8 % 16 = 0 →
      s.table (e.par 16 1) = some x → x.kind = .counter → e.par 20 4 + e.par 24 4 ≤ x.committed.capacity → s.enginesGone = false →
      x.lost = [] → CntDumpActs s e x) : Obligations.TableCommandsAct := by
  unfold Obligations.TableCommandsAct
  exact ⟨fun _ _ _ hrun hq hkind hok hfree hlayers hrows hpaused => tableCreate_makes hrun hq hkind hok hfree hlayers hrows hpaused,
    fun _ _ hrun hq hkind => tableCreate_badKind hrun hq hkind, fun _ _ _ hrun hx hkind => tableInfo_answers hrun hx hkind,
    fun _ _ hrun hx => tableInfo_unknown hrun hx, hdelete,
    fun _ _ _ hrun hq hx hkind hcap hopened hfrozen hrows hpaused =>
      tableResize_stages hrun hq hx hkind hcap hopened hfrozen hrows hpaused,
    fun _ _ _ hrun hq hx hkind hseed hstage hmin hrows hpaused => tableTune_stageRows hrun hq hx hkind hseed hstage hmin hrows hpaused,
    hdump, fun _ _ _ hd hsettled => tableRowsReturn_returns hd hsettled, fun _ _ _ _ hx hold huse => versionRowsRelease_releases hx hold huse⟩

end Sys2Proof.Machine
end

section
/-!
The refutation of O26: a ring number that no device has, on which the tail of the ring is a register that TABLE_DELETE changes.
-/
namespace Sys2Proof.Machine

/-- CQ_TAIL of a ring numbered 0x2C02, which no device has (R461), would lie where the first word of IG_TABLE_DAMAGED lies. -/
theorem cqTail_farther : hcCqTailIndex 0x2C02 = igTableDamaged 0 := rfl

/-- A TABLE_DELETE of table 0 from that ring. -/
def farDelete : Sqe := ⟨0x2C02, 0x181, 0, 0, 0, 0, 0, 0, 0⟩

/-- A device after power-on on which it is in execution, with table 0 made and damaged. -/
def farTableState : State :=
  ((State.reset.setRing 0x2C02 { ringCold 0 with live := [⟨0, 0x181, false, false, false, false, 0, 0⟩] }).putTable 0
    (some (newTable farDelete .index))).setF (igTableDamaged 0) 1

theorem farDelete_running : Running farDelete farTableState :=
  ⟨by decide +kernel, ⟨0, 0x181, false, false, false, false, 0, 0⟩, by decide +kernel⟩

/-- The index of the completion entry that an output writes. -/
def completionIndex : Output → Option Nat
  | .completion _ index _ _ _ _ _ => some index
  | _ => none

/-- The indexes of the completion entries that a state has written. -/
def completionsOf (x : Host.Outcome State Fault Refusal) : Option (List Nat) :=
  match x with
  | .next t => some (t.out.filterMap completionIndex)
  | _ => none

/-- IG_TABLE_DAMAGED is cleared before the completion is written: it goes to index 0, not to the index 1 at which the tail stood. -/
theorem farDelete_index : completionsOf (exec (.tableDelete farDelete) farTableState) = some [0] := by decide +kernel

/-- A completion that leaves at once, with no write to host memory beside it, stands at the tail. -/
theorem Posts.completionsOf {e : Sqe} {st result : Nat} {s t : State} (h : Posts e st result [] s t) (hd : s.pcie.d3hot = false)
    (hout : s.out = []) : Machine.completionsOf (.next t) = some [s.f (hcCqTailIndex e.ring)] := by
  unfold Posts at h
  rw [hd, hout] at h
  obtain ⟨-, h | h⟩ := h <;> rw [Machine.completionsOf, h] <;> rfl

end Sys2Proof.Machine

open Sys2Proof Sys2Proof.Machine

/-- Refutes O26: its TABLE_DELETE clause speaks of every ring number, and on ring 0x2C02, whose CQ_TAIL would have the key of
IG_TABLE_DAMAGED 0, a delete of a damaged table moves the tail before the completion is written. Every clause but this one and CNT_DUMP's holds
(`tableCommandsAct_of_deleteAndDump`), and so do these two on the rings 0 to 15 (`tableDelete_acts`, `cntDump_acts`): they lack the premise
e.ring ≤ 15. -/
theorem not_tableCommandsAct : ¬ Obligations.TableCommandsAct := by
  unfold Obligations.TableCommandsAct
  rintro ⟨-, -, -, -, hdelete, -⟩
  obtain ⟨t, hx, -, -, -, hpost, -⟩ := hdelete farTableState farDelete (newTable farDelete .index) farDelete_running (by decide +kernel)
    (by decide +kernel) (by decide +kernel)
  have hzero := farDelete_index
  rw [hx, hpost.completionsOf (by decide +kernel) (by decide +kernel)] at hzero
  exact absurd hzero (by decide +kernel)
end

section
/-!
What every step keeps (R368, R379): the bound of the commit log and the canonical form of the memory. A command that touches neither keeps both
by its frame; the operations below are those that write a commit record or a byte of the stack, in the order of their definitions.
-/
namespace Sys2Proof.Machine

variable {s t u : State}

/-- The parts that the invariant does not speak of. -/
abbrev besideInv : List Part := [.pending, .out, .heldOut, .free, .time, .pilot, .dom, .regs, .latches, .pcie, .log, .logWritten, .rings,
  .resetting, .quiesce, .lines, .pulses, .channels, .fuses, .trust, .sensors, .layers, .thermal, .test, .sideband, .ports, .lanes, .queues,
  .queueChanges, .snapshots, .snapPending, .tables, .dead, .commits, .recovered, .cancelled, .recoveredCommits, .latency, .engineQueues,
  .marver, .pcs, .stageRows, .windows, .placed, .integrity, .regulator]

/-- A change that leaves the commit log and the memory alone keeps the invariant. -/
theorem State.Inv.frame (h : s.Inv) (g : Only besideInv s t) : t.Inv :=
  ⟨(congrArg List.length (g.eq_commitLog (by decide))).trans_le h.commitLog,
    (congrArg Memory.wf (g.eq_mem (by decide))).trans h.mem⟩

theorem State.Inv.foldl {α : Type} {f : State → α → State} (hf : ∀ x a, x.Inv → (f x a).Inv) (l : List α) (h : s.Inv) :
    (l.foldl f s).Inv := by
  induction l generalizing s with
  | nil => exact h
  | cons a r ih => exact ih (hf s a h)

/-! ### The memory: what lands in the stack (R379, R381, R474, R475) -/

theorem State.Inv.stackWrite (h : s.Inv) (k : Nat) (b : List Byte) : (s.stackWrite k b).Inv :=
  ⟨h.commitLog, State.wf_stackWrite s k b h.mem⟩

theorem State.Inv.landWords (h : s.Inv) (r : MemReq) : (s.landWords r).Inv := by
  refine State.Inv.foldl (fun t w ht => ?_) _ h
  split
  · exact ht.stackWrite _ _
  · exact ht

theorem State.Inv.landEntry (h : s.Inv) (e : MemEntry) : (s.landEntry e).Inv :=
  (h.landWords e.req).frame (by simp [State.landEntry])

theorem State.Inv.issueReq (h : s.Inv) (n : Nat) (e : MemEntry) : (s.issueReq n e).Inv := by
  unfold State.issueReq
  extract_lets x hit a b c
  have hb : b.Inv := h.frame (by simp [b, a])
  have hc : c.Inv := by
    unfold c
    split
    · exact hb.landEntry e
    · exact hb.frame (by simp)
  exact hc.frame (by simp)

theorem State.Inv.drainPc (h : s.Inv) (n : Nat) : (s.drainPc n).Inv := by
  refine State.Inv.foldl (fun t _ ht => ?_) _ h
  split
  · exact ht
  · exact ht.issueReq n _

theorem State.Inv.drainAll (h : s.Inv) : s.drainAll.Inv := by
  refine State.Inv.foldl (fun t n ht => ?_) _ h
  split
  · exact ht.drainPc n
  · exact ht

theorem State.Inv.issueColumn (h : s.Inv) (n : Nat) (c : Option MemSlot) : (s.issueColumn n c).Inv := by
  unfold State.issueColumn
  split
  · exact h
  · exact h.issueReq n _

theorem State.Inv.windowSector (h : s.Inv) (cls : Nat) (write opens : Bool) (words : List (Nat × Nat)) (k : Nat) :
    (s.windowSector cls write opens words k).Inv := by
  unfold State.windowSector
  extract_lets _ r a t u
  split
  · exact h.frame (by simp [a])
  · have hu : u.Inv := h.frame (by simp [u, t, a])
    exact (hu.landWords r).frame (by simp)

theorem State.Inv.windowAccess (h : s.Inv) (cls : Nat) (write : Bool) (a n : Nat) (b : List Byte) :
    (s.windowAccess cls write a n b).Inv := by
  unfold State.windowAccess
  generalize (none : Option RowAt) = p
  generalize sectorsOf a n = l
  induction l generalizing s p with
  | nil => exact h
  | cons k r ih => exact ih (h.windowSector _ _ _ _ _) _

theorem State.Inv.hbRead (h : s.Inv) (cls : Nat) (dram : Bool) (a n : Nat) : (s.hbRead cls dram a n).Inv := by
  unfold State.hbRead
  split
  · exact h.windowAccess _ _ _ _ _
  · exact h

theorem State.Inv.hbWrite (h : s.Inv) (cls : Nat) (dram : Bool) (a : Nat) (b : List Byte) : (s.hbWrite cls dram a b).Inv := by
  unfold State.hbWrite
  split
  · exact h.windowAccess _ _ _ _ _
  · exact h.stackWrite _ _

theorem State.Inv.windowRead (h : s.Inv) (off n : Nat) : (s.windowRead off n).Inv := by
  unfold State.windowRead
  extract_lets dram a
  split
  · exact h.frame (by simp)
  · split
    · exact h.frame (by simp)
    · split
      · exact h.frame (by simp)
      · exact (h.hbRead 14 dram a n).frame (by simp)

theorem State.Inv.windowWrite (h : s.Inv) (off : Nat) (data : List Byte) (enables : Nat) : (s.windowWrite off data enables).Inv := by
  unfold State.windowWrite
  extract_lets dram a
  split
  · exact h
  · split
    · exact h.frame (by simp)
    · exact h.hbWrite _ _ _ _

theorem State.Inv.windowTurn (h : s.Inv) (w : WindowAccess) : (s.windowTurn w).Inv := by
  unfold State.windowTurn State.windowRun
  split
  · exact h.frame (by simp)
  · split
    · exact h.windowWrite _ _ _
    · exact h.windowRead _ _

theorem State.Inv.windowCome (h : s.Inv) (w : WindowAccess) : (s.windowCome w).Inv := by
  unfold State.windowCome
  split
  · exact h.frame (by simp)
  · exact h.windowTurn w

theorem State.Inv.serveWindows (h : s.Inv) : s.serveWindows.Inv :=
  State.Inv.foldl (fun _ w ht => ht.windowTurn w) _ (h.frame (by simp))

theorem State.Inv.drainStack (h : s.Inv) : s.drainStack.Inv :=
  h.drainAll.serveWindows.frame (by simp [State.drainStack])

/-! ### The memory: what bulk movers and self-test write (R504, R509, R578) -/

theorem State.Inv.spaceRead (h : s.Inv) (cls space a n : Nat) (host : List Byte) : (s.spaceRead cls space a n host).2.Inv := by
  unfold State.spaceRead
  split
  · exact h
  · split <;> exact h
  · exact h.hbRead _ _ _ _

theorem State.Inv.spaceWrite (h : s.Inv) (cls space a w : Nat) (merge : Bool) (b : List Byte) : (s.spaceWrite cls space a w merge b).Inv := by
  unfold State.spaceWrite
  split
  · exact h.frame (by simp)
  · split
    · exact h
    · exact h.frame (by simp)
  · exact h.hbWrite _ _ _ _

theorem State.Inv.moveBytes (h : s.Inv) (c n : Nat) (src : List Byte) : (s.moveBytes c n src).Inv := by
  unfold State.moveBytes
  split
  · exact h
  · extract_lets a
    have ha : a.2.Inv := by
      unfold a
      split
      · exact h
      · exact h.spaceRead _ _ _ _ _
    exact ha.spaceWrite _ _ _ _ _ _

theorem State.Inv.compareBytes (h : s.Inv) (c n : Nat) (src dst : List Byte) : (s.compareBytes c n src dst).2.Inv := by
  unfold State.compareBytes
  extract_lets a b
  have hb : b.2.Inv := (h.spaceRead _ _ _ _ _).spaceRead _ _ _ _ _
  split
  · exact hb
  · exact hb.frame (by simp)

theorem State.Inv.holdMc (h : s.Inv) (m : Nat) : (s.holdMc m).Inv := by
  refine State.Inv.foldl (fun t j ht => ?_) _ h
  extract_lets n u _ v
  split
  · exact (ht.drainPc n).frame (by simp [v, u])
  · exact ht

theorem State.Inv.nextTest (h : s.Inv) (j : BistJob) : (s.nextTest j).Inv := by
  unfold State.nextTest
  split
  · exact h.holdMc _
  · exact h

/-- A test job goes on: its next unit is taken out of service, and the job ends where none is left (R575). -/
theorem State.Inv.goOn (h : s.Inv) (j : BistJob) : (((s.nextTest j).settleJob j).syncBist).Inv :=
  (h.nextTest j).frame (by simp)

/-! ### The commit log: a record enters at the front of at most 458 496 (R368) -/

/-- A log cut to its length with the rest unchanged. -/
theorem State.Inv.logTaken (h : s.Inv) (l : List CommitRecord) : ({ s with commitLog := l.take 458496 } : State).Inv :=
  ⟨List.length_take_le _ _, h.mem⟩

theorem State.Inv.endCommit (h : s.Inv) (c : Commit) (status result outcome : Nat) : (s.endCommit c status result outcome).Inv := by
  have hlogged : ((s.dropCommit c).logCommit c outcome).Inv := State.Inv.logTaken (h.frame (by simp)) _
  exact hlogged.frame (by simp [State.endCommit])

theorem State.Inv.cancelCommit (h : s.Inv) (c : Commit) (status outcome : Nat) : (s.cancelCommit c status outcome).Inv :=
  State.Inv.endCommit (h.frame (by simp)) c status 0 outcome

theorem State.Inv.finishCommit (h : s.Inv) (c : Commit) : (s.finishCommit c).Inv := by
  unfold State.finishCommit
  extract_lets p a b
  have ha : a.Inv := h.frame (by simp [a])
  exact State.Inv.foldl (fun u d hu => hu.frame (by simp)) _ (ha.endCommit c _ _ _)

theorem State.Inv.markCommit (h : s.Inv) (c : Commit) (r : Req) (stream : List Req) : (s.markCommit c r stream).Inv := by
  unfold State.markCommit
  split
  · extract_lets cut outside d a
    have ha : a.Inv := h.frame (by simp [a])
    split
    · exact ha.finishCommit d
    · exact ha
  · exact h

theorem State.Inv.cancelForReset (h : s.Inv) (c : Commit) : (s.cancelForReset c).Inv :=
  (h.cancelCommit c stEmpty 4).frame (by simp [State.cancelForReset])

theorem State.Inv.quiesceCommits (h : s.Inv) (tick : Tick) : (s.quiesceCommits tick).Inv := by
  refine State.Inv.foldl (fun u c hu => ?_) _ h
  split
  · exact State.Inv.finishCommit (hu.frame (by simp)) _
  · exact hu.cancelForReset c
  · split
    · exact hu.cancelForReset c
    · exact hu
  · exact hu

/-- A commit that a reset lost is recorded, unless it never started. -/
theorem State.Inv.logLost (h : s.Inv) (c : Commit) : (s.logLost c).Inv := by
  unfold State.logLost
  split
  · split
    · exact h.logTaken _
    · exact h
  · exact h.logTaken _
  · exact h.logTaken _
  · exact h.logTaken _

theorem State.Inv.decideTables (h : s.Inv) : s.decideTables.Inv := by
  unfold State.decideTables
  extract_lets a b _ c
  have ha : a.Inv := h.frame (by simp [a])
  have hb : b.Inv := State.Inv.foldl (fun _ c hu => hu.logLost c) _ ha
  exact hb.frame (by simp [c])

theorem State.Inv.serviceStart (h : s.Inv) (slot : Nat) (i : FwImage) : (s.serviceStart slot i).Inv := by
  unfold State.serviceStart
  extract_lets _ _ a b c
  have hc : c.Inv := h.frame (by unfold c; split <;> simp [b, a])
  exact hc.decideTables.frame (by simp)

/-! ### Both: resets, the loss of power and start-up (R98, R105, R109) -/

/-- A full reset keeps a part of the DRAM and, unless it clears the tables, the commit log. -/
theorem State.Inv.wipe (h : s.Inv) (kind : ResetKind) (internal held : Bool) : (s.wipe kind internal held).Inv := by
  refine ⟨?_, State.wf_keptMem s h.mem⟩
  show (if kind == .clearing then [] else s.commitLog).length ≤ 458496
  split
  · exact Nat.zero_le _
  · exact h.commitLog

theorem State.Inv.fullReset (h : s.Inv) (kind : ResetKind) (cause : Nat) (internal qInc lost : Bool) :
    (s.fullReset kind cause internal qInc lost).Inv := by
  unfold State.fullReset
  extract_lets held a _ t u
  have hstopped : (s.settleJournal.stopPulse.resetPorts kind).Inv := h.frame (by simp)
  have ha : a.Inv := hstopped.wipe kind internal held
  exact ha.frame (by simp [u, t])

theorem State.inv_powerLost (s : State) (phase : BootPhase) : (s.powerLost phase).Inv := ⟨Nat.zero_le _, rfl⟩

theorem State.inv_coldFill (s : State) (bad : Nat) : (s.coldFill bad).Inv := by
  unfold State.coldFill
  extract_lets a live _ _ _ _ b c
  have hb : b.Inv := ⟨Nat.zero_le _, rfl⟩
  exact hb.frame (by simp [c])

theorem State.Inv.bootStep (h : s.Inv) (held : Bool) (b : BootInput) : (s.bootStep held b).Inv := by
  unfold State.bootStep
  split
  case h_6 =>
    extract_lets t
    have ht : t.Inv := by
      unfold t State.fillStep
      split
      · exact h
      · split
        · exact h.frame (by simp)
        · exact s.inv_coldFill _
    exact ht.frame (by simp)
  all_goals exact h.frame (by simp)

theorem State.Inv.startUp (h : s.Inv) (held : Bool) (b : BootInput) : (s.startUp held b).Inv := by
  refine State.Inv.foldl (fun t _ ht => ?_) _ h
  split
  · exact ht
  · exact ht.bootStep held b

/-! ### The commands that write a record or a byte of the stack -/

/-- Where the outcome is a next state, the invariant holds of it. -/
def NextInv (o : Host.Outcome State Fault Refusal) : Prop := ∀ t, o = .next t → t.Inv

theorem NextInv.next (h : s.Inv) : NextInv (.next s) := fun _ e => Host.Outcome.next.inj e ▸ h

theorem NextInv.refused (r : Refusal) : NextInv (.refused r) := fun _ e => nomatch e

theorem NextInv.runCommand {op : Nat} {e : Sqe} {body : State → State} (h : s.Inv) (hb : ∀ x : State, x.Inv → (body x).Inv) :
    NextInv (runCommand op e s body) := by
  unfold Machine.runCommand
  split
  · exact .next (h.frame (by simp))
  · split
    · exact .next h
    · split
      · exact .next h
      · split
        · exact .next (h.frame (by simp))
        · exact .next (hb s h)

theorem NextInv.runRequest {r : Req} {n : Nat} {hold : State → Bool} {own : State → State} (h : s.Inv)
    (hb : ∀ x : State, x.Inv → (own x).Inv) : NextInv (runRequest r n hold own s) := by
  unfold Machine.runRequest
  split
  · exact .next h
  · split
    · split
      · exact .next (h.frame (by simp))
      · exact .next h
    · split
      · exact .next (hb _ (h.frame (by simp)))
      · exact .next h

theorem State.Inv.execMark (h : s.Inv) (r : Req) : NextInv (execMark r s) := by
  unfold Machine.execMark
  refine .runRequest h fun x hx => ?_
  dsimp only
  split
  · exact hx.frame (by simp)
  · have hmarked : ∀ y, (x.setPort r.port y).Inv := fun y => hx.frame (by simp)
    split
    · exact State.Inv.foldl (fun u c hu => hu.markCommit c r _) _ (hmarked _)
    · exact hmarked _

theorem State.Inv.execTableDelete (h : s.Inv) (e : Sqe) : NextInv (execTableDelete e s) := by
  refine .runCommand h fun x hx => ?_
  dsimp only
  split
  · exact hx.frame (by simp)
  · split
    · exact hx.frame (by simp)
    · next c _ =>
      split
      · exact State.Inv.frame (hx.cancelCommit c stNoSuchObject 2) (by simp)
      · exact hx.frame (by simp)

theorem State.Inv.execTableAbort (h : s.Inv) (e : Sqe) : NextInv (execTableAbort e s) := by
  refine .runCommand h fun x hx => ?_
  extract_lets ts cs a b
  split
  · exact hx.frame (by simp)
  · split
    · exact hx.frame (by simp)
    · have ha : a.Inv := State.Inv.foldl (fun u c hu => hu.cancelCommit c stEmpty 2) _ hx
      exact ha.frame (by unfold b; split <;> simp)

theorem State.Inv.execImageBuildDone (h : s.Inv) (n : Nat) : NextInv (execImageBuildDone n s) := by
  unfold Machine.execImageBuildDone
  split
  · split
    · split
      · exact .next h
      · split
        · exact .next (State.Inv.endCommit (h.frame (by simp)) _ _ _ _)
        · extract_lets b a
          have ha : a.Inv := h.frame (by simp [a, b])
          split
          · exact .next ha
          · split <;> exact .next (ha.frame (by simp))
    · exact .next h
  · exact .next h

theorem State.Inv.execCommitEffectTick (h : s.Inv) (n : Nat) : NextInv (execCommitEffectTick n s) := by
  unfold Machine.execCommitEffectTick
  split
  · exact .next h
  · split
    · split
      · exact .next h
      · exact .next (State.Inv.finishCommit (h.frame (by simp)) _)
    · exact .next h

theorem State.Inv.execCommitCutTimeout (h : s.Inv) (n : Nat) : NextInv (execCommitCutTimeout n s) := by
  unfold Machine.execCommitCutTimeout
  split
  · exact .next h
  · split
    · split
      · exact .next h
      · exact .next (State.Inv.finishCommit (h.frame (by simp)) _)
    · exact .next h

theorem State.Inv.execStagingWindowRead (h : s.Inv) (off n : Nat) : NextInv (execStagingWindowRead off n s) := by
  unfold Machine.execStagingWindowRead
  split
  · exact .next (h.windowCome _)
  · exact .next (h.frame (by simp))

theorem State.Inv.execStagingWindowWrite (h : s.Inv) (off : Nat) (data : List Byte) (enables : Nat) :
    NextInv (execStagingWindowWrite off data enables s) := by
  unfold Machine.execStagingWindowWrite
  split
  · exact .next (h.windowCome _)
  · exact .next h

theorem State.Inv.execMcCommandIssue (h : s.Inv) (n : Nat) (eligible : List MemSlot) : NextInv (execMcCommandIssue n eligible s) := by
  unfold Machine.execMcCommandIssue
  extract_lets u row col
  split
  · exact .next h.serveWindows
  · exact .next (State.Inv.frame (h.serveWindows.issueColumn n col) (by simp [u]))

theorem State.Inv.execBmDescriptorEnd (h : s.Inv) (c : Nat) (src dst : List Byte) : NextInv (execBmDescriptorEnd c src dst s) := by
  unfold Machine.execBmDescriptorEnd
  extract_lets n stop m x
  have hx : x.2.Inv := h.compareBytes c m src dst
  split
  · exact .next h
  · split
    · exact .next h
    · split
      · split
        · exact .next (hx.frame (by simp))
        · split <;> exact .next (hx.frame (by simp))
      · exact .next ((h.moveBytes c m src).frame (by simp))

theorem State.Inv.execBistRun (h : s.Inv) (e : Sqe) : NextInv (execBistRun e s) := by
  refine .runCommand h fun x hx => ?_
  dsimp only
  split
  · exact hx.frame (by simp)
  · split
    · exact hx.frame (by simp)
    · split
      · exact hx.frame (by simp)
      · exact hx.goOn _

theorem State.Inv.execBistUnitDone (h : s.Inv) (k : UnitKind) (n : Nat) (pass : Bool) : NextInv (execBistUnitDone k n pass s) := by
  unfold Machine.execBistUnitDone
  split
  · exact .next h
  · split
    · exact .next h
    · split
      · exact .next (State.Inv.goOn (h.frame (by simp)) _)
      · split
        · exact .next h
        · exact .next (State.Inv.goOn (h.frame (by (repeat' split) <;> simp)) _)

theorem State.Inv.execQuenchStopComplete (h : s.Inv) : NextInv (execQuenchStopComplete s) := by
  unfold Machine.execQuenchStopComplete
  split
  · exact .next h
  · split
    · exact .next (h.drainStack.frame (by simp))
    · exact .next h.drainStack

theorem State.Inv.execQuiesceComplete (h : s.Inv) : NextInv (execQuiesceComplete s) := by
  unfold Machine.execQuiesceComplete
  split
  · exact .next h
  · split
    · dsimp only
      split
      · exact .next (h.drainStack.frame (by simp))
      · exact .next h.drainStack
    · exact .next h

theorem State.Inv.execDevReset (h : s.Inv) (e : Sqe) : NextInv (execDevReset e s) := by
  refine .runCommand h fun x hx => ?_
  split
  · exact hx.frame (by simp)
  · split
    · exact hx.frame (by simp)
    · extract_lets _ u
      have hu : u.Inv := hx.frame (by simp [u])
      exact (hu.quiesceCommits e.tick).frame (by simp)

theorem State.Inv.execFwLoad (h : s.Inv) (e : Sqe) (i : ImageRead) : NextInv (execFwLoad e i s) := by
  refine .runCommand h fun x hx => ?_
  split
  · exact hx.frame (by simp)
  · split
    · exact hx.frame (by simp)
    · exact hx.frame (by simp)
    · split
      · exact hx.frame (by simp)
      · split
        · exact hx.frame (by simp)
        · exact State.Inv.serviceStart (hx.frame (by simp)) _ _

theorem State.Inv.execFirmwareReverifyDone (h : s.Inv) : NextInv (execFirmwareReverifyDone s) := by
  unfold Machine.execFirmwareReverifyDone
  split
  · split
    · exact .next h
    · split
      · exact .next h
      · split
        · exact .next (State.Inv.serviceStart (h.frame (by simp)) _ _)
        · exact .next (h.frame (by simp))
  · exact .next h

theorem State.Inv.execColdStartSequence (h : s.Inv) (b : BootInput) : NextInv (execColdStartSequence b s) := by
  unfold Machine.execColdStartSequence
  split
  · exact .next (h.startUp false b)
  · exact .next h

theorem State.Inv.execHeldRestartSequence (h : s.Inv) (b : BootInput) : NextInv (execHeldRestartSequence b s) := by
  unfold Machine.execHeldRestartSequence
  split
  · exact .next (h.startUp true b)
  · exact .next h

theorem State.Inv.execVddAoRise (h : s.Inv) : NextInv (execVddAoRise s) := by
  unfold Machine.execVddAoRise
  split
  · exact .next (s.inv_powerLost .rails)
  · exact .next h

theorem State.Inv.execRailOutOfRange (h : s.Inv) (rail : Nat) : NextInv (execRailOutOfRange rail s) := by
  unfold Machine.execRailOutOfRange
  split
  · exact .next h
  · split
    · exact .next (h.frame (by simp))
    · split
      · exact .next (State.Inv.frame (h.fullReset .uncommanded 8 true false (rail == 6 || rail == 7)) (by simp))
      · exact .next (h.frame (by simp))

theorem State.Inv.execResetPinAssert (h : s.Inv) (pin : ResetPin) : NextInv (execResetPinAssert pin s) := by
  unfold Machine.execResetPinAssert
  have hset : (s.setPin pin false).Inv := h.frame (by simp)
  dsimp only
  split
  · exact .next (hset.fullReset _ _ _ _ _)
  · exact .next hset

/-- A source that may reset the device makes a full reset or does nothing. -/
theorem State.Inv.resetIf (h : s.Inv) (b : Bool) (cause : Nat) :
    NextInv (if b then .next (s.fullReset .uncommanded cause true false false) else .next s) := by
  split
  · exact .next (h.fullReset _ _ _ _ _)
  · exact .next h

theorem State.Inv.execPreserveResetDelay (h : s.Inv) : NextInv (execPreserveResetDelay s) := by
  unfold Machine.execPreserveResetDelay
  split
  · exact .next h
  · split
    · exact .next h
    · extract_lets u
      have hu : u.Inv := h.frame (by unfold u; split <;> simp)
      split
      · exact .next hu
      · exact .next (hu.fullReset _ _ _ _ _)

theorem State.Inv.execTapInstructionLoad (h : s.Inv) (ir : Nat) : NextInv (execTapInstructionLoad ir s) := by
  unfold Machine.execTapInstructionLoad
  extract_lets _ u v
  have hu : u.Inv := h.frame (by simp [u])
  have hv : v.Inv := hu.fullReset .uncommanded 0xA false false false
  split
  · exact .next h
  · split
    · split
      · exact .next (hv.frame (by simp))
      · exact .next (hu.frame (by simp))
    · split
      · exact .refused _
      · exact .next hu

/-- Every command keeps the invariant: most leave both parts alone, and the others are those above. -/
theorem State.Inv.exec (h : s.Inv) (c : Instr) : NextInv (exec c s) := by
  cases c
  case mark => exact h.execMark _
  case tableDelete => exact h.execTableDelete _
  case tableAbort => exact h.execTableAbort _
  case imageBuildDone => exact h.execImageBuildDone _
  case commitEffectTick => exact h.execCommitEffectTick _
  case commitCutTimeout => exact h.execCommitCutTimeout _
  case stagingWindowRead => exact h.execStagingWindowRead _ _
  case stagingWindowWrite => exact h.execStagingWindowWrite _ _ _
  case mcCommandIssue => exact h.execMcCommandIssue _ _
  case bmDescriptorEnd => exact h.execBmDescriptorEnd _ _ _
  case bistRun => exact h.execBistRun _
  case bistUnitDone => exact h.execBistUnitDone _ _ _
  case quenchStopComplete => exact h.execQuenchStopComplete
  case quiesceComplete => exact h.execQuiesceComplete
  case devReset => exact h.execDevReset _
  case fwLoad => exact h.execFwLoad _ _
  case firmwareReverifyDone => exact h.execFirmwareReverifyDone
  case coldStartSequence => exact h.execColdStartSequence _
  case heldRestartSequence => exact h.execHeldRestartSequence _
  case vddAoRise => exact h.execVddAoRise
  case vddAoFall => exact .next (s.inv_powerLost .off)
  case railOutOfRange => exact h.execRailOutOfRange _
  case resetPinAssert => exact h.execResetPinAssert _
  case pcieHotReset => exact h.resetIf _ 3
  case pcieFlr => exact h.resetIf _ 4
  case pcieLinkDown => exact h.resetIf _ 5
  case svActionReset => exact h.resetIf _ 9
  case preserveResetDelay => exact h.execPreserveResetDelay
  case tapInstructionLoad => exact h.execTapInstructionLoad _
  all_goals exact fun _ hx => h.frame ((exec_only hx).mono (of_decide_eq_true rfl))

end Sys2Proof.Machine

open Sys2Proof Sys2Proof.Machine

/-- Settles O58: the commands that write a commit record or a byte of the stack keep both bounds, and every other leaves both parts alone. -/
theorem stepsKeepTheInvariant : Obligations.StepsKeepTheInvariant := by
  unfold Obligations.StepsKeepTheInvariant
  intro s t hs h
  refine (?_ : NextInv (step s)) t h
  unfold step
  split
  · refine .next (hs.frame ?_)
    unfold State.idle
    split
    · exact Only.refl _ s
    · exact (State.cycle_only s).mono (by decide)
  · exact State.Inv.exec (hs.frame (by simp)) _
end

section
/-!
What commits do to the tables (R357 to R365): each walks its tables and changes each by itself, so that what a walk leaves of a table is said
once, and what follows the tables of a commit comes from it.
-/
namespace Sys2Proof.Machine

/-! ### A walk over tables that changes each by itself -/

/-- Step `f` changes the table of the number that it is given by `g`, and no other. -/
def Retables (f : State → Nat → State) (g : Nat → Table → Table) : Prop :=
  ∀ u n m, (f u n).table m = if m = n then (u.table m).map (g m) else u.table m

/-- A table that stands is put back changed. -/
theorem Retables.of_put {f : State → Nat → State} {g : Nat → Table → Table} (hnone : ∀ u n, u.table n = none → f u n = u)
    (hsome : ∀ u n t, u.table n = some t → f u n = u.putTable n (some (g n t))) : Retables f g := by
  intro u n m
  split
  · next h =>
    subst h
    cases hm : u.table m with
    | none => rw [hnone u m hm, hm, Option.map_none]
    | some t => rw [hsome u m t hm, State.putTable_table, Option.map_some]
  · next h =>
    cases hn : u.table n with
    | none => rw [hnone u n hn]
    | some t => rw [hsome u n t hn, State.putTable_table_other _ _ h]

/-- A walk changes the tables that it names: no number comes twice, or a table that comes twice is left as the first time left it. -/
theorem Retables.foldl {f : State → Nat → State} {g : Nat → Table → Table} (h : Retables f g) {l : List Nat}
    (hl : l.Nodup ∨ ∀ n x, g n (g n x) = g n x) (s : State) (m : Nat) :
    (l.foldl f s).table m = if m ∈ l then (s.table m).map (g m) else s.table m := by
  induction l generalizing s with
  | nil => rfl
  | cons n r ih =>
    rw [List.foldl_cons, ih (hl.imp_left fun hn => (List.nodup_cons.mp hn).2), h s n m]
    by_cases hmn : m = n
    · subst hmn
      by_cases hmr : m ∈ r
      · have hg : ∀ x, g m (g m x) = g m x := (hl.resolve_left fun hn => (List.nodup_cons.mp hn).1 hmr) m
        simp [hmr, Option.map_map, Function.comp_def, hg]
      · simp [hmr]
    · simp [hmn]

theorem State.journal_table (s : State) (c : Commit) (j : JournalState) (m : Nat) :
    (s.journal c j).table m = if m ∈ c.tables then (s.table m).map (fun x => { x with journal := j }) else s.table m :=
  Retables.foldl (g := fun _ x => { x with journal := j })
    (.of_put (fun u n hn => by simp only [hn]) (fun u n t hn => by simp only [hn])) (.inr fun _ _ => rfl) s m

/-- A table thawed has no frozen version, so that thawing it again changes nothing. -/
theorem Table.thaw_frozen (x : Table) : x.thaw.frozen = none := by
  unfold Table.thaw
  split
  · next h => exact h
  · split <;> rfl

theorem Table.thaw_of_frozen {x : Table} (h : x.frozen = none) : x.thaw = x := by
  unfold Table.thaw
  rw [h]

/-- Thawing keeps the committed version and its number. -/
theorem Table.thaw_committed (x : Table) : x.thaw.committed = x.committed ∧ x.thaw.number = x.number := by
  unfold Table.thaw
  split
  · exact ⟨rfl, rfl⟩
  · split <;> exact ⟨rfl, rfl⟩

/-- What a cancelled commit leaves of a table of its own. -/
def Commit.release (c : Commit) (n : Nat) (x : Table) : Table := if c.moved.contains n then x.thaw else x

theorem Commit.release_twice (c : Commit) (n : Nat) (x : Table) : c.release n (c.release n x) = c.release n x := by
  unfold Commit.release
  split
  · exact Table.thaw_of_frozen (Table.thaw_frozen x)
  · rfl

theorem Commit.release_committed (c : Commit) (n : Nat) (x : Table) :
    (c.release n x).committed = x.committed ∧ (c.release n x).number = x.number := by
  unfold Commit.release
  split
  · exact Table.thaw_committed x
  · exact ⟨rfl, rfl⟩

theorem State.thawAll_table (s : State) (c : Commit) (m : Nat) : (s.thawAll c).table m =
    if m ∈ c.tables then (s.table m).map (fun x => { c.release m x with journal := .clean }) else s.table m := by
  rw [State.thawAll, State.syncTables_table, State.journal_table, Retables.foldl (g := c.release) ?walk (.inr c.release_twice)]
  case walk => exact .of_put (fun u n hn => by simp only [hn]) (fun u n t hn => by simp only [hn, Commit.release])
  split
  · rw [Option.map_map]
    rfl
  · rfl

/-- A table whose frozen version took effect has none, so that a second time changes nothing. -/
theorem Table.commitFrozen_twice (n : Nat) (cuts : List Cut) (x : Table) : (x.commitFrozen n cuts).commitFrozen n cuts = x.commitFrozen n cuts := by
  have hnone : (x.commitFrozen n cuts).frozen = none := by
    unfold Table.commitFrozen
    split
    · next h => exact h
    · rfl
  rw [Table.commitFrozen, hnone]

/-- The frozen version of a table takes effect (R361, R363). -/
theorem Table.commitFrozen_some {x : Table} {v : Version} (h : x.frozen = some v) (n : Nat) (cuts : List Cut) :
    (x.commitFrozen n cuts).frozen = none ∧ (x.commitFrozen n cuts).committed = { v with changed := [], whole := false, extra := 0 } ∧
      (x.commitFrozen n cuts).number = (x.number + 1) % 2 ^ 32 := by
  unfold Table.commitFrozen
  rw [h]
  exact ⟨rfl, rfl, rfl⟩

theorem State.commitTable_retables (cuts : List Cut) : Retables (fun u n => u.commitTable n cuts) (fun n x => x.commitFrozen n cuts) := by
  intro u n m
  have hput : ∀ t, u.table n = some t →
      (u.commitTable n cuts).tables = (u.putTable n (some (t.commitFrozen n cuts))).tables := by
    intro t ht
    unfold State.commitTable
    rw [ht]
    dsimp only
    split <;> rfl
  cases hn : u.table n with
  | none =>
    have hsame : u.commitTable n cuts = u := by
      unfold State.commitTable
      rw [hn]
    dsimp only
    rw [hsame]
    split
    · next h => rw [h, hn, Option.map_none]
    · rfl
  | some t =>
    rw [State.table_congr (hput t hn)]
    split
    · next h =>
      subst h
      rw [State.putTable_table, hn, Option.map_some]
    · next h => exact State.putTable_table_other u _ h

/-! ### The end of a commit (R363, R368) -/

/-- The record of a commit that ends: its outcome and its number, one above the newest. -/
theorem State.logCommit_head (s : State) (c : Commit) (outcome : Nat) : ∃ r, (s.logCommit c outcome).commitLog.head? = some r ∧
    r.outcome = outcome ∧ r.serial = ((s.commitLog.head?).map (·.serial)).getD 0 + 1 := ⟨_, rfl, rfl, rfl⟩

theorem State.endCommit_record (s : State) (c : Commit) (status result outcome : Nat) :
    ∃ r, (s.endCommit c status result outcome).commitLog.head? = some r ∧ r.outcome = outcome ∧
      r.serial = ((s.commitLog.head?).map (·.serial)).getD 0 + 1 := by
  unfold State.endCommit
  rw [State.pulseSource_keeps_commitLog, State.complete_keeps_commitLog]
  exact State.logCommit_head _ c outcome

theorem State.endCommit_commits (s : State) (c : Commit) (status result outcome : Nat) :
    (s.endCommit c status result outcome).commits = s.commits.erase c := by
  unfold State.endCommit
  rw [State.pulseSource_keeps_commits, State.complete_keeps_commits]
  rfl

@[simp] theorem State.endCommit_table (s : State) (c : Commit) (status result outcome n : Nat) :
    (s.endCommit c status result outcome).table n = s.table n :=
  State.table_congr ((State.endCommit_only s c status result outcome).eq_tables (by decide)) n

@[simp] theorem State.endCommit_queues (s : State) (c : Commit) (status result outcome : Nat) :
    (s.endCommit c status result outcome).queues = s.queues :=
  (State.endCommit_only s c status result outcome).eq_queues (by decide)

/-- The outcome of a commit: 1 where a port of its mask was cut by tick (R363). -/
def Commit.outcome (c : Commit) : Nat := if c.mode == .marker && (c.byTick &&& c.mask) != 0 then 1 else 0

/-- The versions of a commit are in force. -/
def State.inForce (s : State) (c : Commit) : State := ((c.moved.foldl (fun u n => u.commitTable n c.cuts) s).journal c .clean).syncTables

theorem State.inForce_table (s : State) (c : Commit) (m : Nat) : (s.inForce c).table m =
    if m ∈ c.tables then (if m ∈ c.moved then (s.table m).map (fun x => x.commitFrozen m c.cuts) else s.table m).map
      (fun x => { x with journal := .clean })
    else if m ∈ c.moved then (s.table m).map (fun x => x.commitFrozen m c.cuts) else s.table m := by
  rw [State.inForce, State.syncTables_table, State.journal_table,
    Retables.foldl (State.commitTable_retables c.cuts) (.inr fun n x => Table.commitFrozen_twice n c.cuts x)]

theorem State.inForce_only (s : State) (c : Commit) : Only [.regs, .tables, .marver] s (s.inForce c) := by
  simp [State.inForce]

/-- A commit that no deletion waits for ends once its versions are in force. -/
theorem State.finishCommit_eq (s : State) {c : Commit} (h : c.deletes = []) : ∃ status result,
    s.finishCommit c = (s.inForce c).endCommit c status result c.outcome := by
  unfold State.finishCommit State.inForce Commit.outcome
  dsimp only
  rw [h, List.foldl_nil]
  exact ⟨_, _, rfl⟩

/-- The end of a commit (R363): its frozen versions are the committed ones, other tables are as before, and its record is the newest. -/
theorem State.finishCommit_effect (s : State) {c : Commit} (hdel : c.deletes = []) :
    (∀ m x v, m ∈ c.moved → s.table m = some x → x.frozen = some v → ∃ y, (s.finishCommit c).table m = some y ∧ y.frozen = none ∧
      y.committed = { v with changed := [], whole := false, extra := 0 } ∧ y.number = (x.number + 1) % 2 ^ 32) ∧
    (∀ m, m ∉ c.moved → m ∉ c.tables → (s.finishCommit c).table m = s.table m) ∧
    (∃ r, (s.finishCommit c).commitLog.head? = some r ∧ r.outcome = c.outcome ∧
      r.serial = ((s.commitLog.head?).map (·.serial)).getD 0 + 1) ∧
    (s.finishCommit c).queues = s.queues ∧ (s.finishCommit c).time = s.time := by
  obtain ⟨status, result, hfinish⟩ := s.finishCommit_eq hdel
  have hforce := s.inForce_only c
  have hrecord := (s.inForce c).endCommit_record c status result c.outcome
  rw [← hfinish, hforce.eq_commitLog (by decide)] at hrecord
  have hwhole := State.finishCommit_only s c
  refine ⟨fun m x v hm hx hv => ?_, fun m hm ht => ?_, hrecord, hwhole.eq_queues (by decide), hwhole.eq_time (by decide)⟩
  · obtain ⟨hfrozen, hcommitted, hnumber⟩ := Table.commitFrozen_some hv m c.cuts
    rw [hfinish, State.endCommit_table, State.inForce_table]
    simp only [hm, hx, if_true, Option.map_some]
    split
    · exact ⟨_, rfl, hfrozen, hcommitted, hnumber⟩
    · exact ⟨_, rfl, hfrozen, hcommitted, hnumber⟩
  · rw [hfinish, State.endCommit_table, State.inForce_table, if_neg ht, if_neg hm]

end Sys2Proof.Machine
end

section
/-!
The clauses of O28 (R357 to R365, R368, R372).
-/
namespace Sys2Proof.Machine

variable {s : State} {e : Sqe}

/-! ### TABLE_COMMIT (R354, R357 to R360, R372) -/

/-- The catalogue's entries of the commands on versions and commits (R495). -/
def specUpdate : CmdSpec := ⟨0x188, false, false, .refused, true, [(16, 0, 64)]⟩
def specImage : CmdSpec := ⟨0x189, false, false, .refused, false, [(16, 0, 8), (20, 0, 32)]⟩
def specCommit : CmdSpec := ⟨0x18A, false, false, .refused, false, [(16, 0, 8), (18, 0, 72), (32, 0, 256)]⟩
def specAbort : CmdSpec := ⟨0x18B, false, false, .runs, false, [(16, 0, 1), (32, 0, 256)]⟩
def specLog : CmdSpec := ⟨0x18C, false, false, .refused, false, [(16, 0, 96)]⟩

theorem mem_maskTables (v n : Nat) : n ∈ maskTables v ↔ n < 256 ∧ bitOf v n = true := by
  simp [maskTables]

/-- The tables of a TABLE_COMMIT that have an open version. -/
def State.openTables (s : State) (e : Sqe) : List Nat :=
  (maskTables (e.par 32 32)).filter (fun n => ((s.table n).map (fun t => t.opened.isSome)).getD false)

theorem State.openTables_nodup (s : State) (e : Sqe) : (s.openTables e).Nodup := (List.nodup_range.filter _).filter _

theorem State.mem_openTables (s : State) (e : Sqe) (n : Nat) : n ∈ s.openTables e ↔
    (n < 256 ∧ bitOf (e.par 32 32) n = true) ∧ ((s.table n).map (fun t => t.opened.isSome)).getD false = true := by
  rw [State.openTables, List.mem_filter, mem_maskTables]

/-- The commit of an accepted TABLE_COMMIT. -/
def State.commitMade (s : State) (e : Sqe) : Commit := newCommit e (s.openTables e)

/-- An accepted TABLE_COMMIT has frozen the open versions of its tables. -/
def State.committing (s : State) (e : Sqe) : State :=
  (s.openTables e).foldl (fun u n => u.putTable n ((u.table n).map Table.freeze)) { s with commits := s.commits ++ [s.commitMade e] }

theorem State.committing_only (s : State) (e : Sqe) : Only [.tables, .commits] s (s.committing e) := by
  simp [State.committing]

theorem State.committing_commits (s : State) (e : Sqe) : (s.committing e).commits = s.commits ++ [s.commitMade e] := by
  have hfold : Only [.tables] { s with commits := s.commits ++ [s.commitMade e] } (s.committing e) := by simp [State.committing]
  exact hfold.eq_commits (by decide)

theorem State.committing_table (s : State) (e : Sqe) (m : Nat) :
    (s.committing e).table m = if m ∈ s.openTables e then (s.table m).map Table.freeze else s.table m := by
  refine (Retables.foldl (g := fun _ => Table.freeze) (fun u n m => ?_) (.inl (s.openTables_nodup e)) _ m)
  split
  · next h => rw [h, State.putTable_table]
  · next h => exact State.putTable_table_other u _ h

/-- Where no image is open, no frozen version waits for one to be built. -/
theorem State.committing_built (himage : ∀ n x, s.table n = some x → x.image = none) : (s.committing e).unbuilt (s.commitMade e) = false := by
  unfold State.unbuilt
  refine List.any_eq_false.mpr fun n hn => ?_
  rw [State.committing_table, if_pos (show n ∈ s.openTables e from hn)]
  cases hx : s.table n with
  | none => simp
  | some x => simp [Table.imageWaits, Table.freeze, himage n x hx]

theorem execTableCommit_refused {st : Nat} (hrun : Running e s) (hq : s.quenched = false) (hfirst : s.updateBefore e = false)
    (href : (s.reach e.tick).commitRefusal e = some st) : exec (.tableCommit e) s = .next ((s.reach e.tick).done e st 0) := by
  show execTableCommit e s = _
  unfold execTableCommit
  rw [runTableCommand (by decide : specFor 0x18A = some specCommit) hrun hq]
  dsimp only
  rw [if_neg (by rw [show (s.reach e.tick).updateBefore e = s.updateBefore e from rfl, hfirst]; decide), href]

theorem execTableCommit_accepted (hrun : Running e s) (hq : s.quenched = false) (hfirst : s.updateBefore e = false)
    (href : (s.reach e.tick).commitRefusal e = none) (himage : ∀ n x, s.table n = some x → x.image = none) :
    exec (.tableCommit e) s = .next (((s.reach e.tick).committing e).versionsReady ((s.reach e.tick).commitMade e)) := by
  have hbuilt := State.committing_built (s := s.reach e.tick) (e := e) himage
  show execTableCommit e s = _
  unfold execTableCommit
  rw [runTableCommand (by decide : specFor 0x18A = some specCommit) hrun hq]
  dsimp only
  rw [if_neg (by rw [show (s.reach e.tick).updateBefore e = s.updateBefore e from rfl, hfirst]; decide), href]
  dsimp only
  exact congrArg Host.Outcome.next (if_neg fun h => Bool.false_ne_true (hbuilt.symm.trans (Bool.and_eq_true_iff.mp h).2))

theorem tableCommit_refuses {st : Nat} (hrun : Running e s) (hq : s.quenched = false) (hfirst : s.updateBefore e = false)
    (href : (s.reach e.tick).commitRefusal e = some st) (hst : st ≠ 0x08) : Does (.tableCommit e) s (fun t =>
      Posts e st 0 [] s t ∧ t.commits = s.commits ∧ t.tables = s.tables ∧ Only (.time :: ringParts) s t) := by
  have haside : Aside e.ring s (s.reach e.tick) := ⟨rfl, rfl, rfl, rfl, rfl, fun _ _ => rfl⟩
  refine ⟨_, execTableCommit_refused hrun hq hfirst href, haside.done_posts hrun hst 0, State.done_keeps_commits _ _ _ _,
    State.done_keeps_tables _ _ _ _, ?_⟩
  simp [ringParts]

/-- A commit changed in place stands among those in progress. -/
theorem State.mem_replaceCommit (s : State) {c : Commit} (h : c ∈ s.commits) (d : Commit) : d ∈ (s.replaceCommit c d).commits :=
  List.mem_map.mpr ⟨c, h, if_pos rfl⟩

/-- A commit changes in place, and its journal slots are written. -/
def State.recommit (s : State) (c d : Commit) (j : JournalState) : State := (s.replaceCommit c d).journal c j

theorem State.recommit_only (s : State) (c d : Commit) (j : JournalState) : Only [.tables, .commits] s (s.recommit c d j) := by
  simp [State.recommit]

theorem State.mem_recommit (s : State) {c : Commit} (h : c ∈ s.commits) (d : Commit) (j : JournalState) : d ∈ (s.recommit c d j).commits := by
  rw [State.recommit, (State.journal_only _ _ _).eq_commits (by decide)]
  exact s.mem_replaceCommit h d

theorem State.recommit_table (s : State) (c d : Commit) (j : JournalState) (n : Nat) : (s.recommit c d j).table n =
    if n ∈ c.tables then (s.table n).map (fun x => { x with journal := j }) else s.table n :=
  State.journal_table (s.replaceCommit c d) c j n


theorem State.commitMade_tables (s : State) (e : Sqe) (n : Nat) : n ∈ (s.commitMade e).tables ↔ n < 256 ∧ bitOf (e.par 32 32) n = true :=
  mem_maskTables _ n

theorem State.commitMade_mem (s : State) (e : Sqe) : s.commitMade e ∈ (s.committing e).commits := by
  rw [State.committing_commits]
  exact List.mem_append_right _ (List.mem_singleton.mpr rfl)

/-- A commit due at a tick, and one armed at a tick. -/
def Commit.dueAt (c : Commit) (tick : Tick) : Commit := { c with phase := .due tick }
def Commit.armedAt (c : Commit) (tick : Tick) : Commit := { c with phase := .armed, armTick := tick }

theorem State.setDue_eq (s : State) (c : Commit) (base : Tick) : s.setDue c base = s.recommit c (c.dueAt (base + 8000)) .cutting := rfl

theorem State.versionsReady_immediate {c : Commit} (h : c.mode = .immediate) :
    s.versionsReady c = s.recommit c (c.dueAt (max c.doorbell s.now + 8000)) .cutting := by
  unfold State.versionsReady
  split
  · rfl
  · next hne => exact absurd h hne

theorem State.versionsReady_other {c : Commit} (h : c.mode ≠ .immediate) :
    s.versionsReady c = (s.recommit c (c.armedAt s.now) .armed).complete c.ring c.tag stPending (resTick s.now) := by
  unfold State.versionsReady
  split
  · next heq => exact absurd heq h
  · rfl

theorem tableCommit_fallsDue (hrun : Running e s) (hq : s.quenched = false) (hfirst : s.updateBefore e = false)
    (href : (s.reach e.tick).commitRefusal e = none) (hmode : e.par 16 1 = 0) (himage : ∀ n x, s.table n = some x → x.image = none) :
    Does (.tableCommit e) s (fun t =>
      (∀ n x, bitOf (e.par 32 32) n = true → n < 256 → s.table n = some x → x.opened.isSome = true → ∃ y, t.table n = some y ∧
        y.frozen = x.opened ∧ y.opened = none ∧ y.committed = x.committed ∧ y.journal = .cutting) ∧
      (∀ n, bitOf (e.par 32 32) n = false → t.table n = s.table n) ∧
      (∃ c, c ∈ t.commits ∧ c.mode = .immediate ∧ c.ring = e.ring ∧ c.tag = e.tag ∧ c.tables = maskTables (e.par 32 32) ∧
        c.phase = .due (max e.tick t.now + 8000) ∧ c.cuts = []) ∧ t.out = s.out ∧ t.queues = s.queues) := by
  have hx := execTableCommit_accepted hrun hq hfirst href himage
  set u := s.reach e.tick
  set c := u.commitMade e
  set a := u.committing e
  have himmediate : c.mode = .immediate := congrArg modeOf hmode
  rw [State.versionsReady_immediate himmediate] at hx
  have hmade : Only [.tables, .commits] u a := u.committing_only e
  have hput := a.recommit_only c (c.dueAt (max c.doorbell a.now + 8000)) .cutting
  have hwhole := hmade.trans hput
  have hnow : (a.recommit c (c.dueAt (max c.doorbell a.now + 8000)) .cutting).now = a.now :=
    congrArg TimeBase.ticks (hput.eq_time (by decide))
  have hdue : (c.dueAt (max c.doorbell a.now + 8000)).phase =
      .due (max e.tick (a.recommit c (c.dueAt (max c.doorbell a.now + 8000)) .cutting).now + 8000) := by
    rw [hnow]
    rfl
  have htables : ∀ n, n ∈ c.tables ↔ n < 256 ∧ bitOf (e.par 32 32) n = true := u.commitMade_tables e
  refine ⟨_, hx, fun n x hbit hn hs hopen => ?_, fun n hbit => ?_,
    ⟨_, a.mem_recommit (u.commitMade_mem e) _ _, himmediate, rfl, rfl, rfl, hdue, rfl⟩,
    hwhole.eq_out (by decide), hwhole.eq_queues (by decide)⟩
  · have hx : u.table n = some x := hs
    have hmem : n ∈ u.openTables e := (u.mem_openTables e n).mpr ⟨⟨hn, hbit⟩, by rw [hx]; exact hopen⟩
    rw [State.recommit_table, if_pos ((htables n).mpr ⟨hn, hbit⟩), State.committing_table, if_pos hmem, hx]
    exact ⟨_, rfl, rfl, rfl, rfl, rfl⟩
  · have hnot : ¬ (n < 256 ∧ bitOf (e.par 32 32) n = true) := by simp [hbit]
    rw [State.recommit_table, if_neg fun h => hnot ((htables n).mp h), State.committing_table,
      if_neg fun h => hnot ((u.mem_openTables e n).mp h).1]
    rfl

/-- Freezing the open version leaves the committed one. -/
theorem State.committing_committed {n : Nat} {x : Table} (hx : s.table n = some x) :
    ∃ y, (s.committing e).table n = some y ∧ y.committed = x.committed := by
  rw [State.committing_table, hx]
  split
  · exact ⟨_, rfl, rfl⟩
  · exact ⟨x, rfl, rfl⟩

theorem tableCommit_arms (hrun : Running e s) (hq : s.quenched = false) (hfirst : s.updateBefore e = false)
    (href : (s.reach e.tick).commitRefusal e = none) (hmode : e.par 16 1 = 1) (himage : ∀ n x, s.table n = some x → x.image = none) :
    Does (.tableCommit e) s (fun t =>
      (∃ c, c ∈ t.commits ∧ c.mode = .marker ∧ c.phase = .armed ∧ c.armTick = t.now ∧ c.mask = e.par 18 2 ∧ c.marker = e.par 20 4 ∧
        c.tables = maskTables (e.par 32 32)) ∧
      (∀ n x, bitOf (e.par 32 32) n = true → n < 256 → s.table n = some x → ∃ y, t.table n = some y ∧ y.committed = x.committed ∧
        y.journal = .armed) ∧ t.queues = s.queues) := by
  have hx := execTableCommit_accepted hrun hq hfirst href himage
  set u := s.reach e.tick
  set c := u.commitMade e
  set a := u.committing e
  have hmarker : c.mode = .marker := congrArg modeOf hmode
  rw [State.versionsReady_other (by rw [hmarker]; decide)] at hx
  set b := a.recommit c (c.armedAt a.now) .armed
  have hput : Only [.tables, .commits] a b := a.recommit_only _ _ _
  have hdone := State.complete_only b c.ring c.tag stPending (resTick a.now)
  have hwhole := ((u.committing_only e).trans hput).mono (qs := [.tables, .commits, .out, .heldOut, .regs, .pcie, .rings]) (by decide)
  have hnow : (b.complete c.ring c.tag stPending (resTick a.now)).now = a.now :=
    congrArg TimeBase.ticks ((hdone.eq_time (by decide)).trans (hput.eq_time (by decide)))
  refine ⟨_, hx, ⟨c.armedAt a.now, ?_, hmarker, rfl, hnow.symm, rfl, rfl, rfl⟩, fun n x hbit hn hs => ?_,
    (hwhole.trans (hdone.mono (by decide))).eq_queues (by decide)⟩
  · rw [State.complete_keeps_commits]
    exact a.mem_recommit (u.commitMade_mem e) _ _
  · obtain ⟨y, hy, hcommitted⟩ := State.committing_committed (e := e) (show u.table n = some x from hs)
    rw [State.table_congr (State.complete_keeps_tables b _ _ _ _), State.recommit_table,
      if_pos ((u.commitMade_tables e n).mpr ⟨hn, hbit⟩), hy]
    exact ⟨_, rfl, hcommitted, rfl⟩

/-! ### The tick of a commit, and the end of its time (R359, R363, R364) -/

/-- Every port of a commit is cut, and it ends. -/
def State.cutAll (s : State) (c : Commit) (tick : Tick) : State :=
  ((s.reach tick).replaceCommit c (c.cutRest (List.range 16) tick)).finishCommit (c.cutRest (List.range 16) tick)

theorem execCommitEffectTick_due {n : Nat} {c : Commit} {tick : Tick} (hc : s.commitOf n = some c) (hphase : c.phase = .due tick)
    (hhalted : s.halted = false) (hfw : s.fwRuns = true) : exec (.commitEffectTick n) s = .next (s.cutAll c tick) := by
  show execCommitEffectTick n s = _
  unfold execCommitEffectTick
  simp only [hc, hphase, hhalted, hfw]
  rfl

theorem commitEffectTick_commits {n : Nat} {c : Commit} {tick : Tick} (hc : s.commitOf n = some c) (hphase : c.phase = .due tick)
    (hhalted : s.halted = false) (hfw : s.fwRuns = true) (hdel : c.deletes = []) (hmode : c.mode ≠ .marker) :
    Does (.commitEffectTick n) s (fun t =>
      (∀ m x v, m ∈ c.moved → s.table m = some x → x.frozen = some v → ∃ y, t.table m = some y ∧ y.frozen = none ∧
        y.committed = { v with changed := [], whole := false, extra := 0 } ∧ y.number = (x.number + 1) % 2 ^ 32) ∧
      (∀ m, m ∉ c.moved → m ∉ c.tables → t.table m = s.table m) ∧ t.now = max s.now tick ∧
      (∃ r, t.commitLog.head? = some r ∧ r.outcome = 0 ∧ r.serial = ((s.commitLog.head?).map (·.serial)).getD 0 + 1) ∧
      t.queues = s.queues) := by
  have houtcome : (c.cutRest (List.range 16) tick).outcome = 0 := by
    unfold Commit.outcome
    exact if_neg fun h => hmode (eq_of_beq (Bool.and_eq_true_iff.mp h).1)
  obtain ⟨htaken, hothers, hrecord, hqueues, htime⟩ := State.finishCommit_effect
    ((s.reach tick).replaceCommit c (c.cutRest (List.range 16) tick)) (c := c.cutRest (List.range 16) tick) hdel
  rw [houtcome] at hrecord
  exact ⟨_, execCommitEffectTick_due hc hphase hhalted hfw, htaken, hothers, congrArg TimeBase.ticks htime, hrecord, hqueues⟩

theorem Commit.expiry_cuts {c : Commit} {first : Cut} {rest : List Cut} (h : c.cuts = first :: rest) :
    c.expiry = some (first.tick + c.timeout * 4000000) := by
  unfold Commit.expiry
  rw [h]
  rfl

/-- What COMMIT_CUT_TIMEOUT does to a commit some of whose ports are cut. -/
theorem execCommitCutTimeout_cutting {n : Nat} {c : Commit} {first : Cut} {rest : List Cut} (hc : s.commitOf n = some c)
    (hphase : c.phase = .cutting) (hcuts : c.cuts = first :: rest) : exec (.commitCutTimeout n) s =
      if s.halted || !s.fwRuns || (List.range 16).any (fun p => s.markComes c p (first.tick + c.timeout * 4000000)) then .next s
      else .next (s.cutAll c (first.tick + c.timeout * 4000000)) := by
  show execCommitCutTimeout n s = _
  unfold execCommitCutTimeout
  simp only [hc, hphase, Commit.expiry_cuts hcuts]
  rfl

/-- A port that has no cut yet is cut by the tick at which the rest are. -/
theorem Commit.byTick_cutRest {c : Commit} {p : Nat} (tick : Tick) (hp : p < 16) (huncut : ∀ x ∈ c.cuts, x.port ≠ p) :
    bitOf (c.cutRest (List.range 16) tick).byTick p = true := by
  have hnone : ¬ c.cuts.any (fun x => x.port == p) = true := by simpa using huncut
  have hcut : (⟨p, tick, false, []⟩ : Cut) ∈ (c.cutRest (List.range 16) tick).cuts :=
    List.mem_append_right _ (List.mem_map.mpr ⟨p, List.mem_filter.mpr ⟨List.mem_range.mpr hp, by simpa using hnone⟩, rfl⟩)
  rw [Commit.byTick, bitOf_maskOf _ hp]
  exact List.any_eq_true.mpr ⟨_, hcut, by simp⟩

/-- A port of the mask that is cut by tick makes a commit partial. -/
theorem Commit.outcome_partial {c : Commit} {p : Nat} (hmode : c.mode = .marker) (hmask : bitOf c.mask p = true)
    (htick : bitOf c.byTick p = true) : c.outcome = 1 := by
  have hboth : bitOf (c.byTick &&& c.mask) p = true := by
    rw [bitOf_eq_testBit] at hmask htick ⊢
    rw [Nat.testBit_and, htick, hmask]
    rfl
  have hne : c.byTick &&& c.mask ≠ 0 := fun h => by simp [h, bitOf] at hboth
  unfold Commit.outcome
  exact if_pos (by simp [hmode, hne])

theorem commitCutTimeout_commits {n : Nat} {c : Commit} {first : Cut} {rest : List Cut} (hc : s.commitOf n = some c)
    (hphase : c.phase = .cutting) (hcuts : c.cuts = first :: rest) (hhalted : s.halted = false) (hfw : s.fwRuns = true)
    (hdel : c.deletes = []) (hmode : c.mode = .marker) (huncut : ∃ p, p < 16 ∧ bitOf c.mask p = true ∧ ∀ x ∈ c.cuts, x.port ≠ p)
    (hmarks : ∀ p, p < 16 → s.markComes c p (first.tick + c.timeout * 4000000) = false) : Does (.commitCutTimeout n) s (fun t =>
      (∀ m x v, m ∈ c.moved → s.table m = some x → x.frozen = some v → ∃ y, t.table m = some y ∧ y.frozen = none ∧
        y.committed = { v with changed := [], whole := false, extra := 0 } ∧ y.number = (x.number + 1) % 2 ^ 32) ∧
      (∃ r, t.commitLog.head? = some r ∧ r.outcome = 1) ∧ t.queues = s.queues ∧
      t.now = max s.now (first.tick + c.timeout * 4000000)) := by
  obtain ⟨p, hp, hmask, hport⟩ := huncut
  set tick := first.tick + c.timeout * 4000000
  have hcome : (List.range 16).any (fun p => s.markComes c p tick) = false :=
    List.any_eq_false.mpr fun p hp => by rw [hmarks p (List.mem_range.mp hp)]; decide
  have hx := execCommitCutTimeout_cutting hc hphase hcuts
  rw [hcome, hhalted, hfw] at hx
  obtain ⟨htaken, -, ⟨r, hhead, houtcome, -⟩, hqueues, htime⟩ := State.finishCommit_effect
    ((s.reach tick).replaceCommit c (c.cutRest (List.range 16) tick)) (c := c.cutRest (List.range 16) tick) hdel
  rw [Commit.outcome_partial (c := c.cutRest (List.range 16) tick) hmode hmask (Commit.byTick_cutRest tick hp hport)] at houtcome
  exact ⟨_, hx, htaken, ⟨r, hhead, houtcome⟩, hqueues, congrArg TimeBase.ticks htime⟩

theorem commitCutTimeout_waits {n p : Nat} {c : Commit} {first : Cut} {rest : List Cut} (hc : s.commitOf n = some c)
    (hphase : c.phase = .cutting) (hcuts : c.cuts = first :: rest) (hp : p < 16)
    (hmark : s.markComes c p (first.tick + c.timeout * 4000000) = true) : Does (.commitCutTimeout n) s (fun t => t = s) := by
  have hcome : (List.range 16).any (fun p => s.markComes c p (first.tick + c.timeout * 4000000)) = true :=
    List.any_eq_true.mpr ⟨p, List.mem_range.mpr hp, hmark⟩
  have hx := execCommitCutTimeout_cutting hc hphase hcuts
  rw [hcome, Bool.or_true] at hx
  exact ⟨s, hx, rfl⟩

/-! ### MARK (R224, R361) -/

section
variable {r : Req}

/-- The requests of a port's stream before a request. -/
def State.streamBefore (s : State) (r : Req) : List Req := (s.port r.port).unfinished.filter (fun q => decide (q.id < r.id))

/-- A MARK is taken and stands in the stream of its port. -/
def State.marked (s : State) (r : Req) : State :=
  (s.takeReq r).setPort r.port { (s.takeReq r).port r.port with marks := ((s.takeReq r).port r.port).marks ++ [⟨r, s.streamBefore r⟩] }

theorem State.marked_only (s : State) (r : Req) : Only [.regs, .ports] s (s.marked r) := by
  simp [State.marked]

theorem State.marked_marks (s : State) (r : Req) : ((s.marked r).port r.port).marks = (s.port r.port).marks ++ [⟨r, s.streamBefore r⟩] := by
  obtain ⟨l, a, b, c, h⟩ := s.takeReq_port r r.port
  rw [State.marked, State.setPort_port, h]

theorem State.marked_fwRuns (s : State) (r : Req) : (s.marked r).fwRuns = s.fwRuns := by
  show (s.takeReq r).fwRuns = s.fwRuns
  unfold State.fwRuns State.on
  rw [State.takeReq_f_apart s r (by decide)]

theorem execMark_marks (hadm : Admitted r (if bitOf r.b2 0 then 16 else 0) s) (hlen : r.length = 0) (hwaits : s.markWaits r = false) :
    exec (.mark r) s = .next (if s.fwRuns then s.commits.foldl (fun u c => u.markCommit c r (s.streamBefore r)) (s.marked r)
      else s.marked r) := by
  have hroom : (if r.length ≠ 0 ∨ bitOf r.b2 0 = true then 16 else 0) = if bitOf r.b2 0 then 16 else 0 := by simp [hlen]
  show execMark r s = _
  unfold execMark
  dsimp only
  rw [hroom, hadm.runs _ (by rw [hwaits, Bool.and_false]), ← State.marked_fwRuns s r,
    ← (State.marked_only s r).eq_commits (by decide), if_neg (not_not.mpr hlen)]
  rfl

theorem mark_recorded (hadm : Admitted r (if bitOf r.b2 0 then 16 else 0) s) (hlen : r.length = 0) (hnone : s.commits = []) :
    Does (.mark r) s (fun t => (t.port r.port).marks = (s.port r.port).marks ++
        [⟨r, (s.port r.port).unfinished.filter (fun q => decide (q.id < r.id))⟩] ∧
      t.tables = s.tables ∧ t.queues = s.queues) := by
  have hwaits : s.markWaits r = false := by
    unfold State.markWaits
    rw [hnone, List.any_nil, Bool.and_false]
  have hx := execMark_marks hadm hlen hwaits
  rw [hnone, List.foldl_nil, ite_self] at hx
  exact ⟨_, hx, s.marked_marks r, (s.marked_only r).eq_tables (by decide), (s.marked_only r).eq_queues (by decide)⟩

/-- The commit once its first MARK has cut a port: the ports outside its mask are cut at the tick of that MARK (R361). -/
def Commit.firstCut (c : Commit) (r : Req) (stream : List Req) : Commit :=
  { c with cuts := ⟨r.port, r.tick, true, stream⟩ :: ((List.range 16).filter (fun p => !bitOf c.mask p)).map (fun p => ⟨p, r.tick, false, []⟩),
           phase := .cutting }

theorem Commit.firstCut_others {c : Commit} {stream : List Req} {x : Cut} (hx : x ∈ (c.firstCut r stream).cuts) (hport : x.port ≠ r.port) :
    bitOf c.mask x.port = false ∧ x.tick = r.tick := by
  rcases List.mem_cons.mp hx with rfl | hx
  · exact absurd rfl hport
  · obtain ⟨p, hp, rfl⟩ := List.mem_map.mp hx
    exact ⟨by simpa using (List.mem_filter.mp hp).2, rfl⟩

/-- A port of the mask that the MARK is not of stays uncut. -/
theorem Commit.firstCut_incomplete {c : Commit} {q : Nat} (stream : List Req) (hq : q < 16) (hport : q ≠ r.port)
    (hmask : bitOf c.mask q = true) : (c.firstCut r stream).complete = false := by
  refine List.all_eq_false.mpr ⟨q, List.mem_range.mpr hq, fun hany => ?_⟩
  obtain ⟨x, hx, heq⟩ := List.any_eq_true.mp hany
  obtain rfl : x.port = q := eq_of_beq heq
  simp [(Commit.firstCut_others hx hport).1] at hmask

/-- A MARK that makes the first cut of a commit and leaves a port of its mask uncut. -/
theorem State.markCommit_first {c : Commit} {q : Nat} (stream : List Req) (hcut : c.cutBy r = true) (hcuts : c.cuts = [])
    (hq : q < 16) (hport : q ≠ r.port) (hmask : bitOf c.mask q = true) :
    s.markCommit c r stream = s.recommit c (c.firstCut r stream) .cutting := by
  have hpart := Commit.firstCut_incomplete stream hq hport hmask
  unfold State.markCommit
  rw [if_pos hcut, hcuts]
  exact if_neg fun h => Bool.false_ne_true (hpart.symm.trans h)

theorem mark_cuts {c : Commit} {q : Nat} (hadm : Admitted r (if bitOf r.b2 0 then 16 else 0) s) (hlen : r.length = 0)
    (hfw : s.fwRuns = true) (hone : s.commits = [c]) (hmode : c.mode = .marker) (hphase : c.phase = .armed) (hmarker : c.marker = r.object)
    (harm : c.armTick ≤ r.tick) (hmask : bitOf c.mask r.port = true) (hcuts : c.cuts = []) (hq : q < 16) (hport : q ≠ r.port)
    (hqmask : bitOf c.mask q = true) (hcome : ∀ p, p < 16 → p ≠ r.port → s.markComes c p r.tick = false) :
    Does (.mark r) s (fun t => ∃ d, t.commits = [d] ∧ d.phase = .cutting ∧ d.tables = c.tables ∧ d.moved = c.moved ∧
      d.cuts.head? = some ⟨r.port, r.tick, true, (s.port r.port).unfinished.filter (fun q => decide (q.id < r.id))⟩ ∧
      (∀ x ∈ d.cuts, x.port ≠ r.port → bitOf c.mask x.port = false ∧ x.tick = r.tick)) := by
  have hcut : c.cutBy r = true := by
    simp [Commit.cutBy, Commit.expiry, hmode, hphase, hmarker, harm, hmask, hcuts]
  have hearlier : (List.range 16).any (fun p => p != r.port && s.markComes c p r.tick) = false := by
    refine List.any_eq_false.mpr fun p hp h => ?_
    obtain ⟨hne, hmark⟩ := Bool.and_eq_true_iff.mp h
    simp [hcome p (List.mem_range.mp hp) (by simpa using hne)] at hmark
  have hwaits : s.markWaits r = false := by
    simp [State.markWaits, hone, hearlier]
  have hx := execMark_marks hadm hlen hwaits
  rw [hone, hfw, if_pos rfl, List.foldl_cons, List.foldl_nil, State.markCommit_first _ hcut hcuts hq hport hqmask] at hx
  have hcommits : ((s.marked r).recommit c (c.firstCut r (s.streamBefore r)) .cutting).commits = [c.firstCut r (s.streamBefore r)] := by
    rw [State.recommit, (State.journal_only _ _ _).eq_commits (by decide), State.replaceCommit,
      (s.marked_only r).eq_commits (by decide), hone]
    simp
  exact ⟨_, hx, _, hcommits, rfl, rfl, rfl, rfl, fun x hx hne => Commit.firstCut_others hx hne⟩

end

/-! ### TABLE_ABORT, COMMIT_LOG (R365, R368) -/

/-- Cancelling leaves the committed version of every table (R365). -/
theorem State.cancelCommit_committed {c : Commit} {n : Nat} {x : Table} (status outcome : Nat) (hx : s.table n = some x) :
    ∃ y, (s.cancelCommit c status outcome).table n = some y ∧ y.committed = x.committed ∧ y.number = x.number := by
  rw [State.cancelCommit, State.endCommit_table, State.thawAll_table, hx]
  split
  · exact ⟨_, rfl, c.release_committed n x⟩
  · exact ⟨x, rfl, rfl, rfl⟩

theorem execTableAbort_cancels {c : Commit} (hrun : Running e s) (hone : s.commits = [c]) (huncut : s.uncut c = true)
    (hkeep : e.bit 16 0 = false) (hnames : ∀ n, n ∈ c.tables ↔ n < 256 ∧ bitOf (e.par 32 32) n = true) (hsome : ∃ n, n ∈ c.tables)
    (hstand : ∀ n ∈ c.tables, ∃ x, s.table n = some x) :
    exec (.tableAbort e) s = .next ((s.cancelCommit c stEmpty 2).done e stOk 0) := by
  have hmem : ∀ n, n ∈ maskTables (e.par 32 32) ↔ n ∈ c.tables := fun n => (mem_maskTables _ n).trans (hnames n).symm
  have hall : (maskTables (e.par 32 32)).any (fun n => (s.table n).isNone) = false := by
    refine List.any_eq_false.mpr fun n hn => ?_
    obtain ⟨x, hx⟩ := hstand n ((hmem n).mp hn)
    simp [hx]
  have hnamed : s.commits.filter (fun c => c.tables.any (fun n => (maskTables (e.par 32 32)).contains n)) = [c] := by
    obtain ⟨n, hn⟩ := hsome
    rw [hone, List.filter_eq_self]
    intro d hd
    rw [List.mem_singleton.mp hd]
    exact List.any_eq_true.mpr ⟨n, hn, List.contains_iff_mem.mpr ((hmem n).mpr hn)⟩
  show execTableAbort e s = _
  unfold execTableAbort
  rw [runCommand_running (by decide : specFor 0x18B = some specAbort) hrun fun _ => rfl]
  dsimp only
  rw [hall, hnamed, if_neg Bool.false_ne_true]
  simp [huncut, hkeep]

theorem tableAbort_cancels {c : Commit} (hrun : Running e s) (hone : s.commits = [c]) (huncut : s.uncut c = true)
    (hkeep : e.bit 16 0 = false) (hnames : ∀ n, n ∈ c.tables ↔ n < 256 ∧ bitOf (e.par 32 32) n = true) (hsome : ∃ n, n ∈ c.tables)
    (hstand : ∀ n ∈ c.tables, ∃ x, s.table n = some x) : Does (.tableAbort e) s (fun t =>
      t.commits = [] ∧ (∃ r, t.commitLog.head? = some r ∧ r.outcome = 2) ∧ t.queues = s.queues ∧
      (∀ n x, s.table n = some x → ∃ y, t.table n = some y ∧ y.committed = x.committed ∧ y.number = x.number)) := by
  refine ⟨_, execTableAbort_cancels hrun hone huncut hkeep hnames hsome hstand, ?_, ?_, ?_, fun n x hx => ?_⟩
  · rw [State.done_keeps_commits, State.cancelCommit, State.endCommit_commits, (State.thawAll_only s c).eq_commits (by decide), hone,
      List.erase_cons_head]
  · rw [State.done_keeps_commitLog]
    obtain ⟨r, hhead, houtcome, -⟩ := (s.thawAll c).endCommit_record c stEmpty 0 2
    exact ⟨r, hhead, houtcome⟩
  · rw [State.done_keeps_queues, (State.cancelCommit_only s c stEmpty 2).eq_queues (by decide)]
  · rw [State.done_table]
    exact State.cancelCommit_committed stEmpty 2 hx

theorem commitLog_answers (hrun : Running e s) (hq : s.quenched = false) (hmin : 1 ≤ e.par 24 4) (hmax : e.par 24 4 ≤ 65536)
    (halign : e.par 16 8 % 16 = 0) : Does (.commitLog e) s (fun t => Posts e stOk
      (packBytes [(0, 4, (s.commitLog.take (e.par 24 4)).length), (4, 8, ((s.commitLog.head?).map (·.serial)).getD 0)])
      [.hostWrite (e.par 16 8) ((s.commitLog.take (e.par 24 4)).flatMap CommitRecord.bytes)] s t ∧ Only ringParts s t ∧
      OnlyRegs (ringRegs e.ring) s t) := by
  have hx : exec (.commitLog e) s = .next ((s.emitHost (.hostWrite (e.par 16 8)
      ((s.commitLog.take (e.par 24 4)).flatMap CommitRecord.bytes))).done e stOk
        (packBytes [(0, 4, (s.commitLog.take (e.par 24 4)).length), (4, 8, ((s.commitLog.head?).map (·.serial)).getD 0)])) := by
    show execCommitLog e s = _
    unfold execCommitLog
    rw [runTableCommand (by decide : specFor 0x18C = some specLog) hrun hq]
    exact congrArg Host.Outcome.next (if_neg (by omega))
  exact ⟨_, hx, State.emitHost_done_posts _ hrun (by decide) _, exec_only hx, exec_regs hx rfl⟩

end Sys2Proof.Machine

open Sys2Proof Sys2Proof.Machine

/-- Settles O28: what a commit leaves of each table is what its walk over them leaves, and its record and its end come from `endCommit`. -/
theorem commitsTakeEffectTogether : Obligations.CommitsTakeEffectTogether := by
  unfold Obligations.CommitsTakeEffectTogether
  exact ⟨fun _ _ _ hrun hq hfirst href hst => tableCommit_refuses hrun hq hfirst href hst,
    fun _ _ hrun hq hfirst href hmode himage => tableCommit_fallsDue hrun hq hfirst href hmode himage,
    fun _ _ hrun hq hfirst href hmode himage => tableCommit_arms hrun hq hfirst href hmode himage,
    fun _ _ _ _ hc hphase hhalted hfw hdel hmode => commitEffectTick_commits hc hphase hhalted hfw hdel hmode,
    fun _ _ _ _ _ hc hphase hcuts hhalted hfw hdel hmode huncut hmarks =>
      commitCutTimeout_commits hc hphase hcuts hhalted hfw hdel hmode huncut hmarks,
    fun _ _ _ _ _ _ hc hphase hcuts hp hmark => commitCutTimeout_waits hc hphase hcuts hp hmark,
    fun _ _ hadm hlen hnone => mark_recorded hadm hlen hnone,
    fun _ _ _ _ hadm hlen hfw hone hmode hphase hmarker harm hmask hcuts hq hport hqmask hcome =>
      mark_cuts hadm hlen hfw hone hmode hphase hmarker harm hmask hcuts hq hport hqmask hcome,
    fun _ _ _ hrun hone huncut hkeep hnames hsome hstand => tableAbort_cancels hrun hone huncut hkeep hnames hsome hstand,
    fun _ _ hrun hq hmin hmax halign => commitLog_answers hrun hq hmin hmax halign⟩
end

section
/-!
The clauses of O27 (R343, R346 to R349, R352 to R354).
-/
namespace Sys2Proof.Machine

variable {s : State} {e : Sqe} {x : Table}

/-! ### TABLE_UPDATE (R343, R346 to R349) -/

/-- What a TABLE_UPDATE in execution makes of its buffer, once no update comes before it. -/
def State.updateFrom (s : State) (e : Sqe) (h : HostRead) : State :=
  if e.paramLen < 12 then s.done e stBadLength 0
  else
    match h with
    | .data b => s.update e (b.take e.paramLen)
    | .badRequest => s.done e stBadParam 0
    | .noCompletion => s.done e stTimeout 0

theorem execTableUpdate_running (h : HostRead) (hrun : Running e s) (hq : s.quenched = false) :
    exec (.tableUpdate e h) s = .next (if s.updateBefore e then s else s.updateFrom e h) := by
  show execTableUpdate e h s = _
  unfold execTableUpdate
  rw [runTableCommand (by decide : specFor 0x188 = some specUpdate) hrun hq]
  cases h <;> rfl

theorem execTableUpdate_first (h : HostRead) (hrun : Running e s) (hq : s.quenched = false) (hfirst : s.updateBefore e = false) :
    exec (.tableUpdate e h) s = .next (s.updateFrom e h) := by
  rw [execTableUpdate_running h hrun hq, hfirst]
  rfl

/-- An update of a table that takes one: its head and its length pass the checks of R349. -/
structure Updates (s : State) (e : Sqe) (b : List Byte) (x : Table) : Prop where
  running : Running e s
  quenched : s.quenched = false
  first : s.updateBefore e = false
  long : 12 ≤ e.paramLen
  length : b.length = e.paramLen
  least : 1 ≤ bufNat b 4 4
  most : bufNat b 4 4 ≤ 65536
  reserved : bufNat b 1 3 = 0
  table : s.table (bufNat b 0 1) = some x
  kind : x.kind ≠ .counter
  noImage : x.imageOpen = false
  records : x.updateLen (bufNat b 4 4) (b.drop 8) = some (b.length - 8)

/-- How an update ends with what its records make of the open version: it is staged whole, or the first record that fails refuses it. -/
def State.updateEnds (s : State) (e : Sqe) (n : Nat) (x : Table) : Nat × Staged → State
  | (i, .refused st) => s.done e st i
  | (_, .version v) => ((s.putTable n (some { x with opened := some v })).writeStaged n x e.cls
      (v.changed.take (v.changed.length - x.openVersion.changed.length))).done e stOk 0

theorem Updates.exec {b : List Byte} (h : Updates s e b x) : exec (.tableUpdate e (.data b)) s =
    .next (s.updateEnds e (bufNat b 0 1) x (x.stageRecords (bufNat b 0 1) (bufNat b 4 4) 0 x.openVersion (b.drop 8))) := by
  have hlong := h.long
  have hlength := h.length
  have hhead : ¬ (bufNat b 4 4 < 1 ∨ 65536 < bufNat b 4 4 ∨ bufNat b 1 3 ≠ 0) := by
    have hleast := h.least
    have hmost := h.most
    have hreserved := h.reserved
    omega
  have htable : ¬ (x.kind = .counter ∨ x.imageOpen = true) := by simp [h.kind, h.noImage]
  have htake : b.take e.paramLen = b := List.take_of_length_le (by omega)
  have hupdate : s.updateFrom e (.data b) = s.update e b := (if_neg (by omega)).trans (congrArg (s.update e) htake)
  rw [execTableUpdate_first _ h.running h.quenched h.first, hupdate, State.update]
  dsimp only
  rw [if_neg (by omega), if_neg hhead, h.table]
  dsimp only
  rw [if_neg htable, if_neg (not_not.mpr h.records)]
  generalize x.stageRecords (bufNat b 0 1) (bufNat b 4 4) 0 x.openVersion (b.drop 8) = staged
  obtain ⟨i, st | v⟩ := staged <;> rfl

theorem tableUpdate_stages {b : List Byte} {i : Nat} {v : Version} (h : Updates s e b x)
    (hstage : x.stageRecords (bufNat b 0 1) (bufNat b 4 4) 0 x.openVersion (b.drop 8) = (i, .version v)) :
    Does (.tableUpdate e (.data b)) s (fun t => t.table (bufNat b 0 1) = some { x with opened := some v } ∧
      (∀ n, n ≠ bufNat b 0 1 → t.table n = s.table n) ∧ Posts e stOk 0 [] s t ∧ Only (.tables :: .pcs :: .regulator :: ringParts) s t) := by
  have hx := h.exec
  rw [hstage, State.updateEnds] at hx
  have haside : Aside e.ring s ((s.putTable (bufNat b 0 1) (some { x with opened := some v })).writeStaged (bufNat b 0 1) x e.cls
      (v.changed.take (v.changed.length - x.openVersion.changed.length))) :=
    aside_of_rows (by simp) (State.writeStaged_out _ _ _ _ _) (by simp [rowRegs])
  refine ⟨_, hx, ?_, fun n hn => ?_, haside.done_posts h.running (by decide) _, (exec_only hx).mono (of_decide_eq_true rfl)⟩
  · rw [State.done_table, State.writeStaged_table, State.putTable_table]
  · rw [State.done_table, State.writeStaged_table, State.putTable_table_other _ _ hn]

theorem tableUpdate_refuses {b : List Byte} {i st : Nat} (h : Updates s e b x)
    (hstage : x.stageRecords (bufNat b 0 1) (bufNat b 4 4) 0 x.openVersion (b.drop 8) = (i, .refused st)) (hst : st ≠ 0x08) :
    Answers (.tableUpdate e (.data b)) e st i s := by
  have hx := h.exec
  rw [hstage] at hx
  exact State.done_answers hx h.running hst

theorem tableUpdate_short (h : HostRead) (hrun : Running e s) (hq : s.quenched = false) (hfirst : s.updateBefore e = false)
    (hlen : e.paramLen < 12) : Answers (.tableUpdate e h) e stBadLength 0 s := by
  refine State.done_answers ?_ hrun (by decide)
  rw [execTableUpdate_first h hrun hq hfirst]
  exact congrArg Host.Outcome.next (if_pos hlen)

theorem tableUpdate_unread (hrun : Running e s) (hq : s.quenched = false) (hfirst : s.updateBefore e = false) (hlen : 12 ≤ e.paramLen) :
    Answers (.tableUpdate e .badRequest) e stBadParam 0 s ∧ Answers (.tableUpdate e .noCompletion) e stTimeout 0 s := by
  have hlong : ¬ e.paramLen < 12 := by omega
  refine ⟨State.done_answers ?_ hrun (by decide), State.done_answers ?_ hrun (by decide)⟩ <;>
    exact (execTableUpdate_first _ hrun hq hfirst).trans (congrArg Host.Outcome.next (if_neg hlong))

theorem tableUpdate_waits (h : HostRead) (hrun : Running e s) (hq : s.quenched = false) (hbefore : s.updateBefore e = true) :
    Does (.tableUpdate e h) s (fun t => t = s) := by
  have hx := execTableUpdate_running h hrun hq
  rw [hbefore, if_pos rfl] at hx
  exact ⟨s, hx, rfl⟩

/-! ### TABLE_IMAGE, IMAGE_BUILD_DONE (R352 to R354) -/

/-- An image is open on a table: an empty version that replaces the whole contents, and its area. -/
def Table.openImage (x : Table) (size : Nat) : Table :=
  { x with opened := some { (x.frozen.getD x.committed) with entries := [], changed := [], whole := true, extra := 0 }
           image := some ⟨size, ceilDiv size 2048, [], false⟩ }

theorem tableImage_opens (hrun : Running e s) (hq : s.quenched = false) (hsize : 64 ≤ e.par 20 4) (hx : s.table (e.par 16 1) = some x)
    (hkind : x.kind ≠ .counter) (hopened : x.opened = none) (hrows : ceilDiv (e.par 20 4) 2048 ≤ s.freeTableRows)
    (hpaused : s.placingPaused = false) : Does (.tableImage e) s (fun t =>
      (∃ y v, t.table (e.par 16 1) = some y ∧ y.opened = some v ∧ v.entries = [] ∧ v.whole = true ∧
        y.image = some ⟨e.par 20 4, ceilDiv (e.par 20 4) 2048, [], false⟩ ∧ y.committed = x.committed) ∧
      Posts e stOk (packBytes [(0, 8, e.par 16 1 * 2 ^ 40), (8, 4, ceilDiv (e.par 20 4) 2048)]) [] s t ∧
      Only (.tables :: .marver :: ringParts) s t) := by
  have htable : ¬ (x.kind = .counter ∨ x.opened.isSome = true) := by simp [hkind, hopened]
  have hx' : exec (.tableImage e) s = .next (((s.putTable (e.par 16 1) (some (x.openImage (e.par 20 4)))).syncTables).done e stOk
      (packBytes [(0, 8, e.par 16 1 * 2 ^ 40), (8, 4, ceilDiv (e.par 20 4) 2048)])) := by
    show execTableImage e s = _
    unfold execTableImage
    rw [runTableCommand (by decide : specFor 0x189 = some specImage) hrun hq]
    dsimp only
    rw [if_neg (Nat.not_lt.mpr hsize), hx]
    dsimp only
    rw [if_neg htable, if_neg (Nat.not_lt.mpr hrows), hpaused]
    rfl
  have haside : Aside e.ring s (s.putTable (e.par 16 1) (some (x.openImage (e.par 20 4)))).syncTables :=
    aside_of_rows (by simp) ((State.syncTables_only _).eq_out (by decide)) (by simp [rowRegs])
  refine ⟨_, hx', ⟨x.openImage (e.par 20 4), _, ?_, rfl, rfl, rfl, rfl, rfl⟩, haside.done_posts hrun (by decide) _,
    (execTableImage_only hx').mono (by decide)⟩
  rw [State.done_table, State.syncTables_table, State.putTable_table]

/-- An image whose build comes to its end: the firmware runs, and the commit of its table waits for it. -/
structure Builds (s : State) (n : Nat) (c : Commit) (x : Table) (i : Image) (v : Version) : Prop where
  commit : s.commitOf n = some c
  table : s.table n = some x
  image : x.frozenImage = some i
  frozen : x.frozen = some v
  unbuilt : i.built = false
  phase : c.phase = .building
  halted : s.halted = false
  fwRuns : s.fwRuns = true

/-- A table whose image failed has neither its frozen version nor its image, and one whose image is built holds its version. -/
def Table.imageFailed (x : Table) : Table := { x with frozen := none, frozenImage := none }
def Table.imageBuilt (x : Table) (i : Image) (w : Version) : Table :=
  { x with frozen := some { w with changed := [], whole := true }, frozenImage := some { i with built := true } }

/-- The commit but for the table of a failed image, which has nothing to thaw. -/
def Commit.without (c : Commit) (n : Nat) : Commit := { c with moved := c.moved.filter (fun m => m != n) }

/-- A built image of a commit: it falls due or is armed where no other image is to be built. -/
def State.imageEnds (s : State) (c : Commit) : State :=
  if s.unbuilt c then s else if c.mode = .event then s.setDue c (max c.base s.now) else s.versionsReady c

/-- How a build ends: the commit with it where a record fails, or its version is held. -/
def State.buildEnds (s : State) (n : Nat) (c : Commit) (x : Table) (i : Image) : Nat × Staged → State
  | (off, .refused st) => ((s.putTable n (some x.imageFailed)).thawAll (c.without n)).endCommit c st off 3
  | (_, .version w) => ((s.putTable n (some (x.imageBuilt i w))).writeStaged n x c.cls w.entries).imageEnds c

/-- What follows a built image writes at most journal slots. -/
theorem State.imageEnds_table (u : State) (c : Commit) {n : Nat} {y : Table} (hy : u.table n = some y) :
    ∃ j, (u.imageEnds c).table n = some { y with journal := j } := by
  have hput : ∀ d j, ∃ k, (u.recommit c d j).table n = some { y with journal := k } := by
    intro d j
    rw [State.recommit_table, hy]
    split
    · exact ⟨j, rfl⟩
    · exact ⟨y.journal, rfl⟩
  unfold State.imageEnds
  split
  · exact ⟨y.journal, hy⟩
  · split
    · rw [State.setDue_eq]
      exact hput _ _
    · by_cases himmediate : c.mode = .immediate
      · rw [State.versionsReady_immediate himmediate]
        exact hput _ _
      · rw [State.versionsReady_other himmediate, State.table_congr (State.complete_keeps_tables _ _ _ _ _)]
        exact hput _ _

theorem State.next_imageEnds (u : State) (c : Commit) : (if u.unbuilt c then .next u
    else if c.mode = .event then .next (u.setDue c (max c.base u.now)) else .next (u.versionsReady c) : Host.Outcome State Fault Refusal) =
      .next (u.imageEnds c) := by
  unfold State.imageEnds
  split
  · rfl
  · split <;> rfl

theorem State.imageEnds_queues (u : State) (c : Commit) : (u.imageEnds c).queues = u.queues := by
  have honly : Only [.out, .heldOut, .regs, .pcie, .rings, .tables, .commits] u (u.imageEnds c) := by
    simp [State.imageEnds]
  exact honly.eq_queues (by decide)

section
variable {n : Nat} {c : Commit} {i : Image} {v : Version}

theorem Builds.exec (h : Builds s n c x i v) : exec (.imageBuildDone n) s =
    .next (s.buildEnds n c x i (x.buildImage n i (i.size + 1) 0 { v with entries := [], changed := [] })) := by
  have hgoes : ¬ (i.built || c.phase != .building || s.halted || !s.fwRuns) = true := by
    simp [h.unbuilt, h.phase, h.halted, h.fwRuns]
  show execImageBuildDone n s = _
  unfold execImageBuildDone
  simp only [h.commit, h.table, h.image, h.frozen, if_neg hgoes]
  generalize x.buildImage n i (i.size + 1) 0 { v with entries := [], changed := [] } = built
  obtain ⟨off, st | w⟩ := built
  · rfl
  · exact State.next_imageEnds _ c

theorem Builds.mem_tables (h : Builds s n c x i v) : n ∈ c.tables := by
  have hfound := h.commit
  rw [State.commitOf] at hfound
  have hnamed := List.find?_some hfound
  exact List.contains_iff_mem.mp hnamed

theorem imageBuildDone_fails {off st : Nat} (h : Builds s n c x i v)
    (hbuild : x.buildImage n i (i.size + 1) 0 { v with entries := [], changed := [] } = (off, .refused st)) :
    Does (.imageBuildDone n) s (fun t => (∃ r, t.commitLog.head? = some r ∧ r.outcome = 3) ∧ t.queues = s.queues ∧
      (∃ y, t.table n = some y ∧ y.committed = x.committed ∧ y.frozen = none ∧ y.frozenImage = none ∧ y.opened = x.opened ∧
        y.image = x.image)) := by
  have hx := h.exec
  rw [hbuild, State.buildEnds] at hx
  obtain ⟨r, hhead, houtcome, -⟩ := ((s.putTable n (some x.imageFailed)).thawAll (c.without n)).endCommit_record c st off 3
  have hstays : (c.without n).release n x.imageFailed = x.imageFailed := by
    simp [Commit.release, Commit.without]
  refine ⟨_, hx, ⟨r, hhead, houtcome⟩, ?_, ?_⟩
  · rw [State.endCommit_queues, (State.thawAll_only _ _).eq_queues (by decide), State.putTable_keeps_queues]
  · rw [State.endCommit_table, State.thawAll_table, if_pos (show n ∈ (c.without n).tables from h.mem_tables), State.putTable_table,
      Option.map_some, hstays]
    exact ⟨_, rfl, rfl, rfl, rfl, rfl, rfl⟩

theorem imageBuildDone_builds {off : Nat} {w : Version} (h : Builds s n c x i v)
    (hbuild : x.buildImage n i (i.size + 1) 0 { v with entries := [], changed := [] } = (off, .version w)) :
    Does (.imageBuildDone n) s (fun t => t.queues = s.queues ∧ (∃ y u, t.table n = some y ∧ y.committed = x.committed ∧
      y.frozen = some u ∧ u.entries = w.entries ∧ u.whole = true ∧ y.imageWaits = false ∧ y.opened = x.opened ∧ y.image = x.image)) := by
  have hx := h.exec
  rw [hbuild, State.buildEnds] at hx
  have hbuilt : ((s.putTable n (some (x.imageBuilt i w))).writeStaged n x c.cls w.entries).table n = some (x.imageBuilt i w) := by
    rw [State.writeStaged_table, State.putTable_table]
  obtain ⟨j, hj⟩ := State.imageEnds_table _ c hbuilt
  refine ⟨_, hx, ?_, _, _, hj, rfl, rfl, rfl, rfl, rfl, rfl, rfl⟩
  rw [State.imageEnds_queues, (State.writeStaged_only _ _ _ _ _).eq_queues (by decide), State.putTable_keeps_queues]

end

end Sys2Proof.Machine

open Sys2Proof Sys2Proof.Machine

/-- Settles O27: an update and an image put back the one table that they name, with its committed version; the build of an image ends in the
cancelling of its commit or in the journal of its tables. -/
theorem stagingLeavesTheCommittedVersion : Obligations.StagingLeavesTheCommittedVersion := by
  unfold Obligations.StagingLeavesTheCommittedVersion
  exact ⟨fun _ _ _ _ _ _ hrun hq hfirst hlong hlength hleast hmost hreserved hx hkind himage hlen hstage =>
      tableUpdate_stages ⟨hrun, hq, hfirst, hlong, hlength, hleast, hmost, hreserved, hx, hkind, himage, hlen⟩ hstage,
    fun _ _ _ _ _ _ hrun hq hfirst hlong hlength hleast hmost hreserved hx hkind himage hlen hstage hst =>
      tableUpdate_refuses ⟨hrun, hq, hfirst, hlong, hlength, hleast, hmost, hreserved, hx, hkind, himage, hlen⟩ hstage hst,
    fun _ _ h hrun hq hfirst hlen => tableUpdate_short h hrun hq hfirst hlen,
    fun _ _ hrun hq hfirst hlen => tableUpdate_unread hrun hq hfirst hlen,
    fun _ _ h hrun hq hbefore => tableUpdate_waits h hrun hq hbefore,
    fun _ _ _ hrun hq hsize hx hkind hopened hrows hpaused => tableImage_opens hrun hq hsize hx hkind hopened hrows hpaused,
    fun _ _ _ _ _ _ _ _ hc hx hi hv hunbuilt hphase hhalted hfw hbuild =>
      imageBuildDone_fails ⟨hc, hx, hi, hv, hunbuilt, hphase, hhalted, hfw⟩ hbuild,
    fun _ _ _ _ _ _ _ _ hc hx hi hv hunbuilt hphase hhalted hfw hbuild =>
      imageBuildDone_builds ⟨hc, hx, hi, hv, hunbuilt, hphase, hhalted, hfw⟩ hbuild⟩
end
